-- ==== Sys2Proof/Word.lean ====
section
/-! DEFINITION. The words of the OM7460: bytes, 64-bit registers, 128-bit accumulators (R9, R10, R46). -/

namespace Sys2Proof

/-- A byte of memory. -/
abbrev Byte := BitVec 8

/-- A device register or a little-endian program word (R9, R10). -/
abbrev Word := BitVec 64

/-- An L128 accumulator (R46). -/
abbrev L128 := BitVec 128

end Sys2Proof
end

