-- ==== Sys2Proof/Syntax.lean ====
section
/-! DEFINITION. The commands of the OM7460: one constructor per row of spec/opcode_table.json, with the operands of the row.
The table gives the rows no operands of its own; each operand here is what the row's rule says the event or command carries
(which unit, which address, which value arrived), and nothing the module works out itself.
Partition codes are those of R137: 0-255 slices, 0x100 the manager context, 0x101 the radio partition, 0x3FF none.
A device register is named by its DPA; a register or mailbox word of BAR0 by 2^48 + its BAR0 offset (log 5). -/

namespace Sys2Proof

/-- Who makes a memory access: what R130 says of an error response depends on it. -/
inductive Requester where
  | core (core ctx : Nat)
  | dsp (d : Nat)
  | coding (e : Nat)
  | fronthaul (cells : List Nat)
  | hostDma (part : Nat)
  | bar2
  | fabric
  | uhlile (part : Nat)
deriving DecidableEq, Repr

/-- An error that has arisen in a line of memory since it was last written: a bit flip of a Kennel word, an address
mismatch of a Kennel word (R118), or symbol errors of an LPDDR5X line (R125). -/
inductive Upset where
  | bit (word : Nat) (pos : Nat)
  | addr (word : Nat)
  | symbol (pos : Nat) (xor : BitVec 16)
deriving DecidableEq, Repr

/-- The operations of an atomic unit (R134, R328): a sync-word signal, the fabric atomics, the exact add. -/
inductive AtomicKind where
  | signal
  | add64 (x : Word)
  | min64 (x : Word)
  | max64 (x : Word)
  | swap64 (x : Word)
  | cas64 (x cmp : Word)
  | ladd128 (x : L128)
deriving DecidableEq, Repr

/-- A physical fault inside one tile run (R80): the segment sum of a data cell, of the welt column or of the welt beat is off
by `delta` product units (exact formats) or grid units (anchored formats). -/
structure CellFault where
  /-- streamed row; `none`: the welt beat -/
  row : Option Nat
  /-- column; `none`: the welt column -/
  col : Option Nat
  seg : Nat
  delta : Int
deriving DecidableEq, Repr

/-- The fields of a vector instruction word (R104), OP aside, and how often its residue check mismatches (R107). -/
structure VInstr where
  dt : Nat
  vd : Nat
  va : Nat
  vb : Nat
  vc : Nat
  imm : BitVec 32
  /-- residue mismatches met: 0 none, 1 the first execution, 2 the re-execution as well -/
  res : Nat
deriving DecidableEq, Repr

/-- What the checks of R201 meet when a slot of a DSP bundle executes: residue mismatches (0 none, 1 the first execution, 2 the
re-execution as well), a fault of memory (2 a double-bit error, 3 a register parity error, else none) and the words corrected: in X, Y and P,
those of the bundles of NOPs passed before it included. -/
structure Slot where
  res : Nat
  mem : Nat
  ce : Nat
deriving DecidableEq, Repr

/-- One PRB of a U-plane section: its number, its block-floating-point exponent and its 24 mantissas (R167). -/
structure PrbData where
  prb : Nat
  exp : Nat
  mant : List Int
deriving DecidableEq, Repr

/-- A received eCPRI message of type 0 (R163, R164, R169): the header fields the engines judge, and its PRBs or samples. -/
structure UPacket where
  ruMac : Nat
  vlan : Option Nat
  eaxc : Nat
  /-- revision, E bit and subsequence ID of the eCPRI header -/
  rev : Nat
  eBit : Bool
  subSeq : Nat
  /-- extended slot number and symbol named by frameId, subframeId, slotId, symbolId -/
  esn : Nat
  sym : Nat
  /-- udCompMeth and udIqWidth when the section carries udCompHdr -/
  comp : Option (Nat × Nat)
  /-- section type (1, 3), or 255 for the time-domain mode of R174 -/
  section_ : Nat
  prbs : List PrbData
  /-- time-domain mode: FMT, OFFSET and the samples (I, Q) as mantissas with one exponent per 12 -/
  tdFmt : Nat
  tdOffset : Nat
  tdExp : List Nat
  tdSamples : List (Int × Int)
  /-- stamp of arrival in ns, and whether it was taken in the FR form (R242) -/
  stamp : Nat
  frStamp : Bool
deriving DecidableEq, Repr

/-- A PTP message as the port hands it to the servo (R250). Times are in 2^-16 ns, the unit of correctionField. -/
structure PtpMsg where
  port : Nat
  domain : Nat
  sender : Nat
  seqId : Nat
  /-- correctionField -/
  corr : Int
  /-- Announce: stepsRemoved, clockClass, clock identity, rank in the alternate BMCA (lower is better) -/
  stepsRemoved : Nat
  clockClass : Nat
  rank : Nat
  /-- two-step Sync -/
  twoStep : Bool
  /-- origin or receive timestamp carried -/
  origin : Int
  /-- the port's own hardware stamp, on the reading in force, and whether that was the FR form (R242) -/
  stamp : Int
  frStamp : Bool
  /-- carried over UDP, not in an Ethernet frame of EtherType 0x88F7 (R240) -/
  udp : Bool
  /-- Announce: the fields of the grandmaster that the profile passes on (R259) -/
  gm : List Nat
  /-- requestingPortIdentity of a Delay_Resp matches an outstanding Delay_Req -/
  reqMatch : Bool
deriving DecidableEq, Repr

/-- A Retriever request header and payload as received (R332). -/
structure FabReq where
  srcNode : Nat
  dstNode : Nat
  incarn : Nat
  psn : Nat
  rspCum : Nat
  key : Nat
  op : Nat
  nores : Bool
  len : Nat
  fva : Nat
  opnd0 : Word
  opnd1 : Word
  syn : Bool
  nop : Bool
  payload : List Byte
  /-- FCS, UDP checksum and ICRC good -/
  crcOk : Bool
deriving DecidableEq, Repr

/-- A Retriever acknowledgement header and its response bytes (R335). -/
structure FabAck where
  srcNode : Nat
  incarn : Nat
  syn : Bool
  cumPsn : Nat
  sack : Nat
  rspPsn : Nat
  rspStatus : Nat
  rspValid : Bool
  wrap : Bool
  viol : Bool
  creditLim : Nat
  payload : List Byte
  crcOk : Bool
deriving DecidableEq, Repr

/-- One Hound record (R372). -/
structure HoundRec where
  step : Nat
  tileId : Nat
  arr : Nat
  core : Nat
  digest : Word
deriving DecidableEq, Repr

/-- Islands of R14, numbered as the sensors of R460: cores 0-63, DSP clusters 64-75, coding clusters 76-79, Kennel dies
80-83, networks-on-chip 84-85, gateway regions 86-89. -/
abbrev Island := Nat

/-- Monitored rails (R457). -/
inductive Rail where
  | core (c : Nat)
  | dsp (g : Nat)
  | coding (c : Nat)
  | kennel (k : Nat)
  | noc (d : Nat)
  | lpddr (site : Nat)
  | gateway (g : Nat)
  | management
deriving DecidableEq, Repr

/-- A boot image container as read (R446): its bytes, and whether the read met an uncorrectable error. -/
structure BootImage where
  bytes : List Byte
  readOk : Bool
deriving DecidableEq, Repr

/-- What a start meets in the parts it brings up (R437-R440): failing arrays, LPDDR5X channels that train only at the lower
rate, channels that fail there too, retries used, corrected Kennel words of the start-up test, a Kennel failure, the measured
idle floor. -/
structure StartReport where
  badArrays : List Nat
  slowChannels : List Nat
  badChannels : List Nat
  trainRetry : List (Nat × Nat)
  kenCe : List (Nat × Nat)
  kenFail : Bool
  idleW : Nat
  flash : BootImage
  /-- unlock request presented with DBG_REQ_N asserted at step 4 of R425; `none`: the pin is not asserted -/
  dbgReq : Option (List Byte)
deriving DecidableEq, Repr

/-- The commands, in the order of spec/opcode_table.json. -/
inductive Instr where
  -- registers and memory
  | registerWrite (who addr size : Nat) (val tied : Word)
  | rcRead (who addr size : Nat) (tie : Option (Word × Word))
  | lockWrite (who : Nat) (val : Word)
  | memoryRead (req : Requester) (addr len : Nat) (upset : List (Nat × Upset))
  | memoryWrite (req : Requester) (addr : Nat) (data : List Byte)
  | patrolRead (dpa : Nat) (upset : List Upset) (raced : Bool)
  | atomicOp (req : Requester) (addr : Nat) (op : AtomicKind)
  | ueLogClear (die : Nat) (val : Word)
  -- core execution
  | tileEntry (core ctx : Nat)
  | vectorBundle (core ctx : Nat)
  | mark (core ctx : Nat)
  | end_ (core ctx : Nat)
  | stepBoundary (slice : Nat)
  | epochTimeout (slice missing : Nat)
  | tileDispatch (core ctx : Nat)
  | bankLoad (core arr : Nat)
  | bankLoadComplete (core arr : Nat)
  | moveDataArrival (core ctx : Nat)
  | weltVerdict (core arr : Nat) (faults : List CellFault) (residue : Bool)
  | weltRerun (core arr : Nat)
  | resolePass (core arr : Nat)
  | tileReplay (core ctx : Nat)
  | conversion (core : Nat)
  | syncSignal (part idx : Nat)
  | syncWaitTimeout (core ctx : Nat)
  | overrunAbort (core arr : Nat)
  | controlParityError (core : Nat)
  -- vector unit
  | vld (core ctx : Nat) (v : VInstr)
  | vst (core ctx : Nat) (v : VInstr)
  | vlda (core ctx : Nat) (v : VInstr)
  | vsta (core ctx : Nat) (v : VInstr)
  | vadd (core ctx : Nat) (v : VInstr)
  | vsub (core ctx : Nat) (v : VInstr)
  | vmul (core ctx : Nat) (v : VInstr)
  | vfma (core ctx : Nat) (v : VInstr)
  | vmax (core ctx : Nat) (v : VInstr)
  | vmin (core ctx : Nat) (v : VInstr)
  | vabs (core ctx : Nat) (v : VInstr)
  | vneg (core ctx : Nat) (v : VInstr)
  | vcmplt (core ctx : Nat) (v : VInstr)
  | vcmple (core ctx : Nat) (v : VInstr)
  | vcmpeq (core ctx : Nat) (v : VInstr)
  | vsel (core ctx : Nat) (v : VInstr)
  | vrsum (core ctx : Nat) (v : VInstr)
  | vrmax (core ctx : Nat) (v : VInstr)
  | vrmin (core ctx : Nat) (v : VInstr)
  | vexp2 (core ctx : Nat) (v : VInstr)
  | vlog2 (core ctx : Nat) (v : VInstr)
  | vrcp (core ctx : Nat) (v : VInstr)
  | vrsqrt (core ctx : Nat) (v : VInstr)
  | vtanh (core ctx : Nat) (v : VInstr)
  | verf (core ctx : Nat) (v : VInstr)
  | vcvt (core ctx : Nat) (v : VInstr) (outFmt rnd : Nat) (srStream : BitVec 32) (index : Word)
  | vcvts (core ctx : Nat) (v : VInstr) (outFmt rnd : Nat) (srStream : BitVec 32) (index : Word)
  | vladd (core ctx : Nat) (v : VInstr)
  | vlcvt (core ctx : Nat) (v : VInstr) (rnd : Nat) (srStream : BitVec 32) (index : Word)
  | move (core ctx : Nat) (v : VInstr) (toStore : Bool) (addr line len : Nat)
  | swait (core ctx : Nat) (v : VInstr) (idx : Nat) (val : BitVec 16)
  | ssig (core ctx : Nat) (v : VInstr) (idx : Nat)
  -- radio and module commands of the manager
  | cellSet (mb : Nat)
  | cellApply (mb : Nat)
  | cellDiscard (mb : Nat)
  | nrxLoad (mb : Nat)
  | nrxUnload (mb : Nat)
  | dspLoad (mb : Nat)
  | portConfig (mb : Nat)
  | powerCapSet (mb : Nat)
  | timeSet (mb : Nat)
  | retire (mb : Nat)
  | retireClear (mb : Nat)
  -- the slot path
  | reqFetch (cell esn : Nat) (torn : Bool)
  | paramRequest (cell esn : Nat)
  | configRequest (cell esn : Nat) (body : List Byte)
  | startRequest (cell esn : Nat)
  | stopRequest (cell esn : Nat)
  | dlTtiRequest (cell esn : Nat) (body : List Byte)
  | ulTtiRequest (cell esn : Nat) (body : List Byte)
  | ulDciRequest (cell esn : Nat) (body : List Byte)
  | txDataRequest (cell esn : Nat) (body : List Byte)
  | payFetch (cell esn : Nat)
  | dlEmit (cell esn : Nat) (incomplete : List Nat)
  | indicationWrite (cell esn : Nat) (results : List (Nat × Nat × Nat))
  | nrxCall (cell esn : Nat) (cores : List Nat) (sig prb chest nf pdu llr : Nat)
  | uplanePacketRx (port : Nat) (pkt : UPacket)
  | receptionWindowClose (cell stream esn sym : Nat)
  | oneWayDelayMeasurement (port : Nat) (body : List Byte)
  | tdUplinkSymbol (cell stream esn sym : Nat)
  | dspJobDispatch (group : Nat) (radio : Bool) (desc stat : Nat) (cells : List Nat)
  | dspProgramStart (d : Nat)
  | dspStatusRecord (d : Nat) (ce : Nat) (ue : Bool)
  | dspRadioOverrun (d : Nat)
  | dspManagerOverrun (d : Nat)
  | dspWaitTimeout (d : Nat)
  -- DSP instructions
  | dspCmac (d : Nat) (sl : Slot) (acc a b : Nat)
  | dspCmacj (d : Nat) (sl : Slot) (acc a b : Nat)
  | dspCmul (d : Nat) (sl : Slot) (acc a b : Nat)
  | dspRmac (d : Nat) (sl : Slot) (acc a b : Nat)
  | dspRmul (d : Nat) (sl : Slot) (acc a b : Nat)
  | dspAclr (d : Nat) (sl : Slot) (acc : Nat)
  | dspAadd (d : Nat) (sl : Slot) (acc a b : Nat)
  | dspAsub (d : Nat) (sl : Slot) (acc a b : Nat)
  | dspAshr (d : Nat) (sl : Slot) (acc a sh : Nat)
  | dspNrw (d : Nat) (sl : Slot) (vd acc : Nat) (sh : Int)
  | dspVadd (d : Nat) (sl : Slot) (vd a b : Nat)
  | dspVsub (d : Nat) (sl : Slot) (vd a b : Nat)
  | dspVneg (d : Nat) (sl : Slot) (vd a : Nat)
  | dspVabs (d : Nat) (sl : Slot) (vd a : Nat)
  | dspVmax (d : Nat) (sl : Slot) (vd a b : Nat)
  | dspVmin (d : Nat) (sl : Slot) (vd a b : Nat)
  | dspVshl (d : Nat) (sl : Slot) (vd a sh : Nat)
  | dspVshr (d : Nat) (sl : Slot) (vd a sh : Nat)
  | dspVand (d : Nat) (sl : Slot) (vd a b : Nat)
  | dspVor (d : Nat) (sl : Slot) (vd a b : Nat)
  | dspVxor (d : Nat) (sl : Slot) (vd a b : Nat)
  | dspVsel (d : Nat) (sl : Slot) (vd a b c : Nat)
  | dspVnorm (d : Nat) (sl : Slot) (vd a : Nat)
  | dspVrcps (d : Nat) (sl : Slot) (vd a : Nat)
  | dspLdx (d : Nat) (sl : Slot) (vd ag : Nat)
  | dspStx (d : Nat) (sl : Slot) (va ag : Nat)
  | dspLdwx (d : Nat) (sl : Slot) (vd ag : Nat)
  | dspStnx (d : Nat) (sl : Slot) (va ag : Nat)
  | dspLdsx (d : Nat) (sl : Slot) (sd ag : Nat)
  | dspStsx (d : Nat) (sl : Slot) (sa ag : Nat)
  | dspLdy (d : Nat) (sl : Slot) (vd ag : Nat)
  | dspSty (d : Nat) (sl : Slot) (va ag : Nat)
  | dspLdwy (d : Nat) (sl : Slot) (vd ag : Nat)
  | dspStny (d : Nat) (sl : Slot) (va ag : Nat)
  | dspLdsy (d : Nat) (sl : Slot) (sd ag : Nat)
  | dspStsy (d : Nat) (sl : Slot) (sa ag : Nat)
  | dspLoop (d : Nat) (sl : Slot) (reg : Bool) (count lastOff : Nat)
  | dspBr (d : Nat) (sl : Slot) (target : Nat)
  | dspBrc (d : Nat) (sl : Slot) (cond a b target : Nat)
  | dspCall (d : Nat) (sl : Slot) (target : Nat)
  | dspRet (d : Nat) (sl : Slot)
  | dspEnd (d : Nat) (sl : Slot)
  | dspSmov (d : Nat) (sl : Slot) (sd : Nat) (src : Nat) (imm : BitVec 32)
  | dspSadd (d : Nat) (sl : Slot) (sd a b : Nat)
  | dspSsub (d : Nat) (sl : Slot) (sd a b : Nat)
  | dspSand (d : Nat) (sl : Slot) (sd a b : Nat)
  | dspSshl (d : Nat) (sl : Slot) (sd a b : Nat)
  | dspAgset (d : Nat) (sl : Slot) (ag base idx : Nat) (step : Int) (mod mode mem : Nat)
  | dspAgld (d : Nat) (sl : Slot) (ag field sa : Nat)
  | dspModeset (d : Nat) (sl : Slot) (sat : Bool)
  -- coding engines and HARQ
  | ldpcDecodeJob (cluster : Nat) (radio : Bool) (desc stat : Nat) (hqErr : Bool)
  | ldpcEncodeJob (cluster : Nat) (radio : Bool) (desc stat : Nat)
  | dciEncode (cluster : Nat) (radio : Bool) (desc stat : Nat) (cells : List Nat)
  | bchEncode (cluster : Nat) (radio : Bool) (desc stat : Nat) (cells : List Nat)
  | uciPolarDecode (cluster : Nat) (radio : Bool) (desc stat : Nat) (cells : List Nat)
  | uciReedMullerDecode (cluster : Nat) (radio : Bool) (desc stat : Nat) (cells : List Nat)
  | codeBlockDone (engine : Nat) (checkFail : Bool) (ce : Nat)
  | codingStatusRecord (cluster kind : Nat)
  | codingJobOverrun (cluster kind : Nat)
  | engineSelftest (engine : Nat) (pass : Bool)
  | harqTtlExpiry (cell rnti harqId : Nat)
  -- random access
  | raOccasionSearch (cell cfg esn sym raIdx det : Nat) (checkFail : Bool)
  | msgaDecode (cell handle esn : Nat)
  -- time and frequency
  | announce (m : PtpMsg)
  | sync (m : PtpMsg)
  | followUp (m : PtpMsg)
  | delayReq (stamp : Int) (frStamp : Bool)
  | delayResp (m : PtpMsg)
  | masterDelayReq (m : PtpMsg)
  | masterSyncTx (port : Nat)
  | masterAnnounceTx (port : Nat)
  | timeStep
  | recoveryEntry
  | timeReferenceLoss
  | announceReceiptTimeout
  | sampleTimeout
  | holdoverExpiry
  | ppsInEdge (stamp : Int)
  | ppsOut
  | esmcTx (port : Nat) (event : Bool)
  | esmcRx (port ql : Nat)
  | qlTimeout
  | freqRefSwitch (synceOk ref10Ok : Bool)
  | timeCfgWrite (who : Nat) (val : Word)
  | timeLatch (who : Nat) (val : Word)
  -- the Last and power
  | periodBoundary (measW : Nat)
  | stitchStart (n : Nat)
  | lastRebuild (core arr : Nat)
  -- attention, host link
  | attentionSet (bit : Nat)
  | attentionFlushDone (ok : Bool)
  | attentionAck (word : Nat) (val tied : Word)
  | attnCfgWrite (val : Word)
  | rbNHoldEnd
  | bar2Access (off : Nat) (write : Bool) (len : Nat) (data : List Byte) (upset : List (Nat × Upset))
  | dmaCompletionError (part : Nat) (cells : List Nat)
  | completionTimeout (part : Nat) (cells : List Nat)
  | linkDown
  | linkUp (rate width : Nat) (flit : Bool)
  | doeRequest (request : List Byte)
  | perstN (level : Bool)
  | hotReset
  -- Joreg commands
  | devInfo (mb : Nat)
  | recoveryLoad (mb : Nat) (readOk : Bool)
  | sliceCreate (mb : Nat)
  | sliceDestroy (mb : Nat)
  | sliceReset (mb : Nat)
  | pasidBind (mb : Nat)
  | pasidUnbind (mb : Nat)
  | sliceQuery (mb : Nat)
  | arrayMove (mb : Nat)
  | ctxStart (mb : Nat)
  | ctxStop (mb : Nat)
  | listSubmit (mb : Nat)
  | listEntry (part : Nat) (fetchOk : Bool)
  | batchSubmit (mb : Nat)
  | batchAbort (mb : Nat)
  | listAbort (mb : Nat)
  | slicePause (mb : Nat)
  | sliceResume (mb : Nat)
  | sliceCheckpoint (mb : Nat)
  | sliceRestore (mb : Nat) (firstOk secondOk : Bool)
  | modeChange (mb : Nat)
  | launchBarrier (mb : Nat)
  | partitionResetDone (slice : Nat)
  | healthCfg (mb : Nat)
  | healthQuery (mb : Nat)
  | healthClear (mb : Nat)
  | stepReport (mb : Nat)
  | ctrProgram (mb : Nat)
  | ctrRead (mb : Nat)
  | ctrSampleCfg (mb : Nat)
  | ctrSampleRead (mb : Nat)
  | ctrDump (mb : Nat)
  | ctrDumpStop (mb : Nat)
  | dumpSnapshot (ring : Nat) (busy ok : Bool)
  | recRead (mb : Nat)
  | recFreeze (mb : Nat)
  | recThaw (mb : Nat)
  | recClear (mb : Nat)
  | recLeash (mb : Nat)
  | recTrigger (mb : Nat)
  | recStatus (mb : Nat)
  | recordSubmit (code part src : Nat) (payload : List Word)
  | snapshotRecord (trigger : Nat)
  | leashToken (code : Nat)
  | hoursUpdate
  | freezeTimeout
  | recEraseDone
  | attReport (mb : Nat)
  | attChain (mb : Nat)
  | attExtend (mb : Nat)
  | dbgReqN
  -- Retriever fabric
  | engineEntryTake (e : Nat)
  | nop (e : Nat)
  | load (e : Nat)
  | store (e : Nat)
  | flagStore (e : Nat)
  | add64 (e : Nat)
  | min64 (e : Nat)
  | max64 (e : Nat)
  | swap64 (e : Nat)
  | cas64 (e : Nat)
  | ladd128 (e : Nat)
  | fence (e : Nat)
  | fabricRequestRx (r : FabReq)
  | flagStorePerform (node psn : Nat)
  | syn (r : FabReq)
  | acknowledgement (a : FabAck)
  | credit (node incarn lim : Nat)
  | retransmit (node psn : Nat)
  | nopKeepalive (node : Nat)
  | fabricTimeout (node psn : Nat)
  | connectionIdleClose (node : Nat)
  | fabricPortDown (port : Nat)
  | regionDescriptorWrite (who region word : Nat) (val : Word)
  -- launch barrier and Hound
  | arrive (barId node : Nat) (t1 t2 : Word)
  | release (barId node : Nat) (t1 t2 t3 t4 tRel : Word)
  | arriveResend (slice : Nat)
  | barrierOpen (slice : Nat)
  | barrierTimeout (slice : Nat)
  | houndPacketRx (unit : Nat) (seq : Nat) (ack : Option Nat) (recs : List HoundRec)
  | houndResend (unit : Nat)
  | houndCfgWrite (who unit : Nat) (val : Word)
  | diePairTimeout (slice : Nat)
  | repTransitionDone (core : Nat)
  -- integrity
  | healthEvaluation
  | clockFailure (island : Island)
  | supplyEvent (island : Island)
  | railEvent (rail : Rail)
  | flitCrcFailure (req : Requester) (second : Bool)
  | uhlileMismatch
  | uhlileRestartDone
  | arraySelftest (core arr : Nat) (pass : Bool)
  -- start-up and electrical
  | moduleReset (r : StartReport)
  | warmReset (cause : Nat) (r : StartReport)
  | resetProtocolTimeout
  | runWatchdog
  | notReadyClear
  | inputQualified (mv : Nat)
  | undervoltage (mv : Nat)
  | overvoltage (mv : Nat)
  | inputOutOfRange (mv : Nat)
  | uvDip
  | faultRestart
  | tempSample (tj : Int) (island : Island)
  | thermalTrip
  | powerSample (mv ma pin : Nat)
  | loInQualified
  | loInLoss
  | ppsInMissingEdge
  | laneLossOfSignal (lane : Nat)
  | portLinkUp (port : Nat)
  | fecUncorrectableCodeword (lane : Nat)
  | otherFrameRx (port : Nat)
  | badFcsFrame (port : Nat)
  | pcieCorrectableError
  | creditReturn (node : Nat)
  | channelRetraining (ch retries : Nat) (ok : Bool)
  | tdDownlinkSymbol (cell stream esn sym : Nat)
  | radioStageOverrun (cell : Nat)
  | arriveHoldExpiry (barId : Nat)
deriving DecidableEq, Repr

end Sys2Proof
end

