-- ==== Sys2Proof/Config.lean ====
section
/-! DEFINITION. What the spec leaves open: constants with no body. No statement can rest on a value of one of them; each is named
in the assumption log. -/

namespace Sys2Proof

/-- The result lane of a vector instruction whose result R104-R106 do not state (overflow, NaN or Inf operands, the sign of a zero
result), by operation and operand lanes (log 10). -/
opaque Config.vecOpen : Nat → Nat → Nat → Nat → Nat

/-- The lane a vector compare writes for true and for false; R104 gives no encoding (log 11). -/
opaque Config.cmpTrue : BitVec 32
opaque Config.cmpFalse : BitVec 32

/-- Whether VSEL takes a lane that is neither of the two as true (log 11). -/
opaque Config.selTrue : BitVec 32 → Bool

/-- What a SEC-DED word with three or more flipped bits reads as: none, uncorrectable; some c, the flips c are "corrected"
(R118, R378 state one and two errors only; log 12). -/
opaque Config.secDedMulti : BitVec 72 → Option (BitVec 72)

/-- The body of a FAPI message the module writes, by message ID and values: the Small Cell Forum encoding is not in the spec (log 14). -/
opaque Config.fapiBody : Nat → List Nat → List Byte

/-- The messages of a block, (ID, body) in order, as the FAPI message headers delimit them; none: the block cannot be read so (log 14). -/
opaque Config.fapiSplit : List Byte → Option (List (Nat × List Byte))

/-- Messages laid out with the message headers of the FAPI specification (log 14). -/
opaque Config.fapiJoin : List (Nat × List Byte) → List Byte

/-- The PDUs of a FAPI request body: type and fields (log 14). -/
opaque Config.fapiPdus : Nat → List Byte → List (Nat × List Nat)

/-- The cause of R157 that a core fault code of a radio program gets where R157 names none (log 19). -/
opaque Config.radioCause : Nat → Nat

/-- STALL and STALL_CYC of a sample record: the cycles each wait took are timing, which the model leaves out (log 22). -/
opaque Config.sampleStall : Nat → Nat
opaque Config.sampleStallCyc : Nat → Nat

/-- What the spec leaves open of the DSP (log 24): which lane values make VSEL take a; the scale of VRCPS's seed and its error within the
12 correct bits; the seed of 0; SSHL by 32 or more; which opcode of the control class is END. -/
opaque Config.dspSel : Int → Bool
opaque Config.dspRcpsExp : Int → Nat
opaque Config.dspRcpsErr : Int → Int
opaque Config.dspRcpsZero : Int
opaque Config.dspEnd : Nat → Bool
opaque Config.dspShl : Nat → Nat → Nat

/-- What the spec takes from TS 38.212 and does not repeat (log 26): the base graphs, as the rows of (column, shift) for a Zc; polar
encoding of K bits into E (type); the candidates of list decoding, best first, with their metrics (K, E, list size, LLRs), and the metric of
a UCI from those of its segments; the generator of the (32, A) code (row, column); the normalised correlation metric (correlation, E). -/
opaque Config.baseGraph : Nat → Nat → List (List (Nat × Nat))
opaque Config.polarCode : Nat → Nat → List Nat → List Nat
opaque Config.polarList : Nat → Nat → Nat → List Int → List (List Nat × Nat)
opaque Config.polarMetric : List Nat → Nat
opaque Config.rmBasis : Nat → Nat → Bool
opaque Config.rmMetric : Int → Nat → Nat

/-- The clock identity of the module, and the clockClass limit above which the profile accepts no Announce (R250; log 27). -/
opaque Config.clockId : Nat
opaque Config.annClassLimit : Nat → Nat

/-- The fields of its own that a master port's Announce carries while no master is selected or the unit is not LOCKED (R259; log 27). -/
opaque Config.ownAnnounce : List Nat

/-- The radio (log 28): agreement of a CONFIG.request with the cell record; idle REs of a slot (UL_TTI bodies; stream, symbol, PRB, RE);
the transforms, the 7.5 kHz shift and the rounding of DL_GAIN in the time-domain mode; the slot that a fault of a job falls in, where the
job does not say, by a free number; the section type and the extensions of a Category B section (record, symbol, layer). -/
opaque Config.cfgAgrees : List Nat → List Byte → Bool
opaque Config.idleRe : List (List Byte) → Nat → Nat → Nat → Nat → Bool
opaque Config.fft : Nat → Nat → List (Int × Int) → List (Int × Int)
opaque Config.ifft : Nat → List (Int × Int) → List (Int × Int)
opaque Config.shift75 : Nat → List (Int × Int) → List (Int × Int)
opaque Config.dlGain : Nat → Int → Int
opaque Config.faultSlot : Nat → Nat
opaque Config.fhCatB : List Nat → Nat → Nat → Nat

/-- Random access, as TS 38.211 and TS 38.213 have it (log 29), by configuration word, SCS and duplex: whether the format is a long one; the
format code of an occasion (ESN, symbol); whether occasions begin in a symbol; occasions, in time, of the worst Last period; cyclic-shift
samples of a preamble's zone. The power of a PDP bin from a stream's lines (format, preamble, bin); its level in dBFS; the cluster that
Uhlile gives a cell of a set, and the die whose Kennel holds its data; the msgA decode of a detection from its PUSCH's lines. -/
opaque Config.prachLong : Nat → Nat → Nat → Bool
opaque Config.prachFmt : Nat → Nat → Nat → Nat → Nat → Nat
opaque Config.prachAt : Nat → Nat → Nat → Nat → Nat → Bool
opaque Config.prachOccs : Nat → Nat → Nat → Nat
opaque Config.raZone : Nat → Nat → Nat
opaque Config.raBin : Nat → Nat → Nat → List (List (Int × Int)) → Nat → Nat
opaque Config.raLevel : Nat → Int
opaque Config.raCluster : List (List Nat) → Nat → Nat
opaque Config.cellDie : List (List Nat) → Nat → Nat
opaque Config.msgaDecode : Nat → List Nat → List (List (Int × Int)) → Bool × List Byte

/-- What a cell asks of the module: its record with its TDD pattern, its latched registers, array cycles in a slot and longest DLEN of its
neural receiver (0 without one). -/
abbrev CellDemand := List Nat × List Nat × Nat × Nat

/-- Firmware's placement of the Last, which R270 bounds and does not fix (log 30): entries (stitch, ARR, ENG, DSP) from the cells, the
fenced arrays and the entries of the active copy; whether check 5 passes; demand of check 4 (percent of decoders and encoders, within
capacity); bytes of a cell's working sets; radio traffic within R119; whether a unit of the carve-out holds data of one of the cells that an
apply keeps; CS_UNITS and ACC_UNITS that the radio tiles need on a core, and whether it runs the calls of a neural receiver. -/
opaque Config.lastPlace : List CellDemand → List Nat → List (Nat × Nat × Nat × Nat) → List (Nat × Nat × Nat × Nat)
opaque Config.lastFits : List CellDemand → List Nat → List (Nat × Nat × Nat × Nat) → Bool
opaque Config.radioDemand : List CellDemand → Nat × Nat × Bool
opaque Config.workBytes : List Nat → Nat
opaque Config.kenTraffic : List (List Nat) → Bool
opaque Config.unitHolds : List (List Nat) → List Nat → Nat → List Nat → Bool
opaque Config.coreReserve : List (List Nat) → List (Nat × Nat × Nat × Nat) → Nat → Nat × Nat
opaque Config.nrxCore : List (List Nat) → List (Nat × Nat × Nat × Nat) → Nat → Bool

/-- Firmware's layout of the carve-out (log 30): the further segments of the radio partition's own areas; the radio address of the system
unit; the place in the carve-out of a cell's call area, and of a cell's data; and within a cell's data the line at which an area of a slot
begins (record; area: 0 landed lines, 1 lines of the PRACH, 2 lines left for egress, 3 payloads, 4 beamforming weights; ESN mod 16)
(R121, R135, R155, R168). -/
opaque Config.radioSegs : List (List Nat) → List Nat → List (Nat × Nat × Nat)
opaque Config.sysAddr : Nat
opaque Config.callUnit : List (List Nat) → Nat → Nat
opaque Config.cellBase : List (List Nat) → List Nat → Nat → Nat
opaque Config.cellPlace : List Nat → Nat → Nat → Nat

/-- The count that a record of a lane carries beside the lane (0x5001, 0x5002): R414 names it and does not define it (log 31). -/
opaque Config.laneCount : Nat → BitVec 64

/-- Faults that no rule names further (log 37): the core or DSP fault code of an island's clock or supply failure; CLASS of MB.FAULT_INFO
and the cause of R157 for a failed compute die; the health input that a Kennel or network-on-chip rail event counts in; whether the work
of a cell runs on a compute die. -/
opaque Config.islandFault : Nat
opaque Config.dieClass : Nat
opaque Config.dieCause : Nat
opaque Config.railHealth : Nat
opaque Config.cellOnDie : List Nat → Nat → Bool

/-- The security block (log 39): the device secret, the boot ROM's own digest, the factory data in flash, the two factory certificates,
the form of the alias certificate from its subject key, serial number, MR0-MR5, version words and signing seed, ML-DSA-65 (public key of a
seed; signature with a seed), the bytes of the fuse repair maps. -/
opaque Config.uds : List Byte
opaque Config.romDigest : List Byte
opaque Config.factoryData : List Byte
opaque Config.deviceCert : List Byte
opaque Config.caCert : List Byte
opaque Config.aliasCert : List Byte → List Byte → List Byte → List Nat → List Byte → List Byte
opaque Config.mldsaPub : List Byte → List Byte
opaque Config.mldsaSign : List Byte → List Byte → List Byte
opaque Config.repairBytes : List (Nat × Word) → List Byte

/-- Version word of the boot ROM (R430; log 42). -/
opaque Config.romVersion : Nat

/-- The hash of R332 that gives a packet its ENTROPY, from connection, PSN and attempt (log 40). -/
opaque Config.fabEntropy : Nat → Nat → Nat → Nat

/-- KIND of a completion record of ctr_dump_start, which R309 does not list (log 38). -/
opaque Config.dumpKind : Nat

/-- Versions of the firmware (R302), which the spec does not give (log 34). -/
opaque Config.fwMajor : Nat
opaque Config.fwMinor : Nat

/-- How many ranges a restore had written when its second pass failed (R394; log 33). -/
opaque Config.restoreCut : Nat → Nat

end Sys2Proof
end

