-- ==== Sys2Proof/Machine/Tables.lean ====
section
/-! DEFINITION. The tables of R106: each entry is the exact function value rounded to nearest, ties to even, to FP32, computed
from the definitions of R106 with 80 decimal digits. -/

namespace Sys2Proof.Machine

/-- 2^(j/64) (R106). -/
def tblExp2 : List Nat :=
  [0x3f800000, 0x3f8164d2, 0x3f82cd87, 0x3f843a29, 0x3f85aac3, 0x3f871f62, 0x3f88980f, 0x3f8a14d5] ++
  [0x3f8b95c2, 0x3f8d1adf, 0x3f8ea43a, 0x3f9031dc, 0x3f91c3d3, 0x3f935a2b, 0x3f94f4f0, 0x3f96942d] ++
  [0x3f9837f0, 0x3f99e046, 0x3f9b8d3a, 0x3f9d3eda, 0x3f9ef532, 0x3fa0b051, 0x3fa27043, 0x3fa43516] ++
  [0x3fa5fed7, 0x3fa7cd94, 0x3fa9a15b, 0x3fab7a3a, 0x3fad583f, 0x3faf3b79, 0x3fb123f6, 0x3fb311c4] ++
  [0x3fb504f3, 0x3fb6fd92, 0x3fb8fbaf, 0x3fbaff5b, 0x3fbd08a4, 0x3fbf179a, 0x3fc12c4d, 0x3fc346cd] ++
  [0x3fc5672a, 0x3fc78d75, 0x3fc9b9be, 0x3fcbec15, 0x3fce248c, 0x3fd06334, 0x3fd2a81e, 0x3fd4f35b] ++
  [0x3fd744fd, 0x3fd99d16, 0x3fdbfbb8, 0x3fde60f5, 0x3fe0ccdf, 0x3fe33f89, 0x3fe5b907, 0x3fe8396a] ++
  [0x3feac0c7, 0x3fed4f30, 0x3fefe4ba, 0x3ff28177, 0x3ff5257d, 0x3ff7d0df, 0x3ffa83b3, 0x3ffd3e0c]

/-- 1/(1 + j/64) (R106). -/
def tblLogA : List Nat :=
  [0x3f800000, 0x3f7c0fc1, 0x3f783e10, 0x3f74898d, 0x3f70f0f1, 0x3f6d7304, 0x3f6a0ea1, 0x3f66c2b4] ++
  [0x3f638e39, 0x3f607038, 0x3f5d67c9, 0x3f5a740e, 0x3f579436, 0x3f54c77b, 0x3f520d21, 0x3f4f6475] ++
  [0x3f4ccccd, 0x3f4a4588, 0x3f47ce0c, 0x3f4565c8, 0x3f430c31, 0x3f40c0c1, 0x3f3e82fa, 0x3f3c5264] ++
  [0x3f3a2e8c, 0x3f381703, 0x3f360b61, 0x3f340b41, 0x3f321643, 0x3f302c0b, 0x3f2e4c41, 0x3f2c7692] ++
  [0x3f2aaaab, 0x3f28e83f, 0x3f272f05, 0x3f257eb5, 0x3f23d70a, 0x3f2237c3, 0x3f20a0a1, 0x3f1f1166] ++
  [0x3f1d89d9, 0x3f1c09c1, 0x3f1a90e8, 0x3f191f1a, 0x3f17b426, 0x3f164fda, 0x3f14f209, 0x3f139a86] ++
  [0x3f124925, 0x3f10fdbc, 0x3f0fb824, 0x3f0e7835, 0x3f0d3dcb, 0x3f0c08c1, 0x3f0ad8f3, 0x3f09ae41] ++
  [0x3f088889, 0x3f0767ab, 0x3f064b8a, 0x3f053408, 0x3f042108, 0x3f03126f, 0x3f020821, 0x3f010204]

/-- log2(1 + j/64) (R106). -/
def tblLogB : List Nat :=
  [0x00000000, 0x3cb73cb4, 0x3d35d69c, 0x3d8759c5, 0x3db31fb8, 0x3dde4212, 0x3e0462c4, 0x3e19574f] ++
  [0x3e2e00d2, 0x3e42615f, 0x3e567af1, 0x3e6a4f72, 0x3e7de0b6, 0x3e88983f, 0x3e92203d, 0x3e9b8926] ++
  [0x3ea4d3c2, 0x3eae00d2, 0x3eb7110e, 0x3ec0052b, 0x3ec8ddd4, 0x3ed19bb0, 0x3eda3f60, 0x3ee2c97d] ++
  [0x3eeb3a9f, 0x3ef39355, 0x3efbd42b, 0x3f01fed4, 0x3f060828, 0x3f0a0650, 0x3f0df989, 0x3f11e20f] ++
  [0x3f15c01a, 0x3f1993e3, 0x3f1d5da0, 0x3f211d84, 0x3f24d3c2, 0x3f28808c, 0x3f2c2411, 0x3f2fbe80] ++
  [0x3f335004, 0x3f36d8cb, 0x3f3a58ff, 0x3f3dd0c8, 0x3f41404f, 0x3f44a7ba, 0x3f480731, 0x3f4b5ed7] ++
  [0x3f4eaed0, 0x3f51f740, 0x3f553848, 0x3f587209, 0x3f5ba4a4, 0x3f5ed039, 0x3f61f4e5, 0x3f6512c7] ++
  [0x3f6829fb, 0x3f6b3a9f, 0x3f6e44cd, 0x3f7148a1, 0x3f744636, 0x3f773da4, 0x3f7a2f04, 0x3f7d1a71]

/-- 1/(1 + (2j + 1)/256), entries 0 to 63 (R106). -/
def tblRcp0 : List Nat :=
  [0x3f7f00ff, 0x3f7d08e5, 0x3f7b1885, 0x3f792fb2, 0x3f774e40, 0x3f757404, 0x3f73a0d5, 0x3f71d48c] ++
  [0x3f700f01, 0x3f6e500f, 0x3f6c9791, 0x3f6ae564, 0x3f693965, 0x3f679373, 0x3f65f36d, 0x3f645933] ++
  [0x3f62c4a7, 0x3f6135aa, 0x3f5fac1f, 0x3f5e27eb, 0x3f5ca8f1, 0x3f5b2f17, 0x3f59ba42, 0x3f584a5a] ++
  [0x3f56df44, 0x3f5578e9, 0x3f541733, 0x3f52ba08, 0x3f516154, 0x3f500d01, 0x3f4ebcf9, 0x3f4d7127] ++
  [0x3f4c2978, 0x3f4ae5d8, 0x3f49a634, 0x3f486a79, 0x3f473294, 0x3f45fe74, 0x3f44ce08, 0x3f43a13e] ++
  [0x3f427806, 0x3f415250, 0x3f40300c, 0x3f3f112b, 0x3f3df59d, 0x3f3cdd53, 0x3f3bc841, 0x3f3ab656] ++
  [0x3f39a786, 0x3f389bc3, 0x3f379301, 0x3f368d31, 0x3f358a48, 0x3f348a3a, 0x3f338cfa, 0x3f32927c] ++
  [0x3f319ab6, 0x3f30a59b, 0x3f2fb322, 0x3f2ec33e, 0x3f2dd5e6, 0x3f2ceb10, 0x3f2c02b0, 0x3f2b1cbe]

/-- 1/(1 + (2j + 1)/256), entries 64 to 127 (R106). -/
def tblRcp1 : List Nat :=
  [0x3f2a392f, 0x3f2957fb, 0x3f287917, 0x3f279c7b, 0x3f26c21e, 0x3f25e9f7, 0x3f2513fd, 0x3f244029] ++
  [0x3f236e72, 0x3f229ecf, 0x3f21d13a, 0x3f2105a9, 0x3f203c17, 0x3f1f747a, 0x3f1eaecd, 0x3f1deb07] ++
  [0x3f1d2922, 0x3f1c6917, 0x3f1baadf, 0x3f1aee73, 0x3f1a33cd, 0x3f197ae7, 0x3f18c3bb, 0x3f180e41] ++
  [0x3f175a75, 0x3f16a850, 0x3f15f7cc, 0x3f1548e5, 0x3f149b93, 0x3f13efd2, 0x3f13459c, 0x3f129cec] ++
  [0x3f11f5bd, 0x3f115009, 0x3f10abcc, 0x3f100901, 0x3f0f67a2, 0x3f0ec7ab, 0x3f0e2918, 0x3f0d8be3] ++
  [0x3f0cf009, 0x3f0c5584, 0x3f0bbc51, 0x3f0b246b, 0x3f0a8dcd, 0x3f09f874, 0x3f09645c, 0x3f08d181] ++
  [0x3f083fde, 0x3f07af70, 0x3f072033, 0x3f069223, 0x3f06053c, 0x3f05797c, 0x3f04eedd, 0x3f04655e] ++
  [0x3f03dcf9, 0x3f0355ad, 0x3f02cf75, 0x3f024a4e, 0x3f01c636, 0x3f014328, 0x3f00c122, 0x3f004020]

/-- 1/(1 + (2j + 1)/256) (R106). -/
def tblRcp : List Nat := tblRcp0 ++ tblRcp1

/-- 1/sqrt(1 + (j + 0.5)/32), entries 0 to 63 (R106). -/
def tblRsqrt0 : List Nat :=
  [0x3f7e05ec, 0x3f7a33f9, 0x3f768cdc, 0x3f730d8a, 0x3f6fb345, 0x3f6c7b90, 0x3f69642a, 0x3f666b02] ++
  [0x3f638e39, 0x3f60cc16, 0x3f5e2305, 0x3f5b9193, 0x3f59166b, 0x3f56b051, 0x3f545e22, 0x3f521ed0] ++
  [0x3f4ff162, 0x3f4dd4ed, 0x3f4bc89b, 0x3f49cba2, 0x3f47dd45, 0x3f45fcd6, 0x3f4429af, 0x3f426337] ++
  [0x3f40a8de, 0x3f3efa1c, 0x3f3d5671, 0x3f3bbd67, 0x3f3a2e8c, 0x3f38a975, 0x3f372dbf, 0x3f35bb09] ++
  [0x3f3450fc, 0x3f32ef41, 0x3f319589, 0x3f304387, 0x3f2ef8f2, 0x3f2db587, 0x3f2c7904, 0x3f2b432a] ++
  [0x3f2a13c0, 0x3f28ea8c, 0x3f27c759, 0x3f26a9f4, 0x3f25922c, 0x3f247fd3, 0x3f2372bd, 0x3f226abe] ++
  [0x3f2167af, 0x3f206968, 0x3f1f6fc4, 0x3f1e7aa0, 0x3f1d89d9, 0x3f1c9d4e, 0x3f1bb4e1, 0x3f1ad073] ++
  [0x3f19efe6, 0x3f191320, 0x3f183a05, 0x3f17647c, 0x3f16926c, 0x3f15c3bc, 0x3f14f857, 0x3f143026]

/-- 1/sqrt(1 + (j + 0.5)/32), entries 64 to 95 (R106). -/
def tblRsqrt1 : List Nat :=
  [0x3f136b13, 0x3f12a90b, 0x3f11e9f9, 0x3f112dca, 0x3f10746d, 0x3f0fbdce, 0x3f0f09dd, 0x3f0e5889] ++
  [0x3f0da9c2, 0x3f0cfd79, 0x3f0c539f, 0x3f0bac25, 0x3f0b06fd, 0x3f0a641a, 0x3f09c36d, 0x3f0924ec] ++
  [0x3f088889, 0x3f07ee37, 0x3f0755ed, 0x3f06bf9e, 0x3f062b40, 0x3f0598c7, 0x3f05082a, 0x3f04795f] ++
  [0x3f03ec5c, 0x3f036117, 0x3f02d788, 0x3f024fa6, 0x3f01c967, 0x3f0144c4, 0x3f00c1b4, 0x3f004030]

/-- 1/sqrt(1 + (j + 0.5)/32) (R106). -/
def tblRsqrt : List Nat := tblRsqrt0 ++ tblRsqrt1

/-- erf(j/64), entries 0 to 63 (R106). -/
def tblErfE0 : List Nat :=
  [0x00000000, 0x3c906bb8, 0x3d1062b2, 0x3d587d7f, 0x3d903ea4, 0x3db42c8d, 0x3dd80409, 0x3dfbc0ad] ++
  [0x3e0faf0d, 0x3e216bfe, 0x3e331506, 0x3e44a808, 0x3e5622f2, 0x3e6783b7, 0x3e78c855, 0x3e84f76b] ++
  [0x3e8d7aa7, 0x3e95ecee, 0x3e9e4d54, 0x3ea69af8, 0x3eaed4fa, 0x3eb6fa85, 0x3ebf0aca, 0x3ec70501] ++
  [0x3ecee869, 0x3ed6b44b, 0x3ede67f6, 0x3ee602c2, 0x3eed840e, 0x3ef4eb45, 0x3efc37d5, 0x3f01b49d] ++
  [0x3f053f7b, 0x3f08bc4a, 0x3f0c2ad3, 0x3f0f8ae6, 0x3f12dc54, 0x3f161ef6, 0x3f1952a6, 0x3f1c7745] ++
  [0x3f1f8cb7, 0x3f2292e4, 0x3f2589b9, 0x3f287126, 0x3f2b4922, 0x3f2e11a4, 0x3f30caab, 0x3f337437] ++
  [0x3f360e4c, 0x3f3898f3, 0x3f3b1438, 0x3f3d802c, 0x3f3fdce0, 0x3f422a6b, 0x3f4468e7, 0x3f46986f] ++
  [0x3f48b925, 0x3f4acb29, 0x3f4ccea1, 0x3f4ec3b4, 0x3f50aa8d, 0x3f528358, 0x3f544e43, 0x3f560b7e]

/-- erf(j/64), entries 64 to 127 (R106). -/
def tblErfE1 : List Nat :=
  [0x3f57bb3d, 0x3f595db4, 0x3f5af318, 0x3f5c7ba1, 0x3f5df788, 0x3f5f6707, 0x3f60ca59, 0x3f6221bb] ++
  [0x3f636d69, 0x3f64ada3, 0x3f65e2a6, 0x3f670cb1, 0x3f682c06, 0x3f6940e2, 0x3f6a4b88, 0x3f6b4c36] ++
  [0x3f6c432f, 0x3f6d30b1, 0x3f6e14fe, 0x3f6ef055, 0x3f6fc2f5, 0x3f708d1f, 0x3f714f11, 0x3f72090a] ++
  [0x3f72bb46, 0x3f736604, 0x3f74097e, 0x3f74a5f2, 0x3f753b98, 0x3f75caac, 0x3f765366, 0x3f76d5fe] ++
  [0x3f7752ab, 0x3f77c9a2, 0x3f783b18, 0x3f78a741, 0x3f790e50, 0x3f797075, 0x3f79cde1, 0x3f7a26c4] ++
  [0x3f7a7b4a, 0x3f7acba1, 0x3f7b17f4, 0x3f7b606e, 0x3f7ba537, 0x3f7be677, 0x3f7c2456, 0x3f7c5ef9] ++
  [0x3f7c9684, 0x3f7ccb1a, 0x3f7cfcdd, 0x3f7d2bef, 0x3f7d586f, 0x3f7d827b, 0x3f7daa32, 0x3f7dcfb0] ++
  [0x3f7df30f, 0x3f7e146c, 0x3f7e33de, 0x3f7e517f, 0x3f7e6d66, 0x3f7e87aa, 0x3f7ea05f, 0x3f7eb79a]

/-- erf(j/64), entries 128 to 191 (R106). -/
def tblErfE2 : List Nat :=
  [0x3f7ecd71, 0x3f7ee1f4, 0x3f7ef537, 0x3f7f074b, 0x3f7f1840, 0x3f7f2826, 0x3f7f370c, 0x3f7f4500] ++
  [0x3f7f5211, 0x3f7f5e4b, 0x3f7f69ba, 0x3f7f746a, 0x3f7f7e67, 0x3f7f87bb, 0x3f7f9070, 0x3f7f9890] ++
  [0x3f7fa024, 0x3f7fa734, 0x3f7fadc8, 0x3f7fb3e8, 0x3f7fb99c, 0x3f7fbeea, 0x3f7fc3d9, 0x3f7fc86e] ++
  [0x3f7fccb0, 0x3f7fd0a5, 0x3f7fd450, 0x3f7fd7b7, 0x3f7fdadf, 0x3f7fddcc, 0x3f7fe081, 0x3f7fe303] ++
  [0x3f7fe554, 0x3f7fe77a, 0x3f7fe975, 0x3f7feb4b, 0x3f7fecfc, 0x3f7fee8c, 0x3f7feffd, 0x3f7ff151] ++
  [0x3f7ff28a, 0x3f7ff3ab, 0x3f7ff4b5, 0x3f7ff5aa, 0x3f7ff68b, 0x3f7ff75a, 0x3f7ff819, 0x3f7ff8c7] ++
  [0x3f7ff968, 0x3f7ff9fb, 0x3f7ffa82, 0x3f7ffafe, 0x3f7ffb6f, 0x3f7ffbd7, 0x3f7ffc36, 0x3f7ffc8e] ++
  [0x3f7ffcdd, 0x3f7ffd26, 0x3f7ffd68, 0x3f7ffda5, 0x3f7ffddc, 0x3f7ffe0f, 0x3f7ffe3d, 0x3f7ffe67]

/-- erf(j/64), entries 192 to 255 (R106). -/
def tblErfE3 : List Nat :=
  [0x3f7ffe8d, 0x3f7ffeb0, 0x3f7ffed0, 0x3f7ffeed, 0x3f7fff07, 0x3f7fff1f, 0x3f7fff34, 0x3f7fff48] ++
  [0x3f7fff5a, 0x3f7fff6a, 0x3f7fff79, 0x3f7fff86, 0x3f7fff92, 0x3f7fff9d, 0x3f7fffa7, 0x3f7fffb0] ++
  [0x3f7fffb8, 0x3f7fffbf, 0x3f7fffc6, 0x3f7fffcc, 0x3f7fffd1, 0x3f7fffd6, 0x3f7fffda, 0x3f7fffde] ++
  [0x3f7fffe2, 0x3f7fffe5, 0x3f7fffe8, 0x3f7fffea, 0x3f7fffec, 0x3f7fffef, 0x3f7ffff0, 0x3f7ffff2] ++
  [0x3f7ffff4, 0x3f7ffff5, 0x3f7ffff6, 0x3f7ffff7, 0x3f7ffff8, 0x3f7ffff9, 0x3f7ffffa, 0x3f7ffffa] ++
  [0x3f7ffffb, 0x3f7ffffc, 0x3f7ffffc, 0x3f7ffffd, 0x3f7ffffd, 0x3f7ffffd, 0x3f7ffffe, 0x3f7ffffe] ++
  [0x3f7ffffe, 0x3f7ffffe, 0x3f7fffff, 0x3f7fffff, 0x3f7fffff, 0x3f7fffff, 0x3f7fffff, 0x3f7fffff] ++
  [0x3f7fffff, 0x3f7fffff, 0x3f7fffff, 0x3f800000, 0x3f800000, 0x3f800000, 0x3f800000, 0x3f800000]

/-- erf(j/64) (R106). -/
def tblErfE : List Nat := tblErfE0 ++ tblErfE1 ++ tblErfE2 ++ tblErfE3

/-- (2/sqrt pi) e^(-(j/64)^2), entries 0 to 63 (R106). -/
def tblErfD0 : List Nat :=
  [0x3f906ebb, 0x3f9065b4, 0x3f904aa3, 0x3f901d93, 0x3f8fde94, 0x3f8f8dbd, 0x3f8f2b2e, 0x3f8eb70a] ++
  [0x3f8e317d, 0x3f8d9ab9, 0x3f8cf2f5, 0x3f8c3a6f, 0x3f8b716c, 0x3f8a9834, 0x3f89af18, 0x3f88b66c] ++
  [0x3f87ae8b, 0x3f8697d3, 0x3f8572a8, 0x3f843f72, 0x3f82fe9f, 0x3f81b0a0, 0x3f8055e8, 0x3f7ddddf] ++
  [0x3f7af867, 0x3f77fc62, 0x3f74ead4, 0x3f71c4c4, 0x3f6e8b3e, 0x3f6b3f51, 0x3f67e20f, 0x3f64748e] ++
  [0x3f60f7e5, 0x3f5d6d2d, 0x3f59d57e, 0x3f5631f4, 0x3f5283a7, 0x3f4ecbb1, 0x3f4b0b28, 0x3f474323] ++
  [0x3f4374b5, 0x3f3fa0ee, 0x3f3bc8dc, 0x3f37ed89, 0x3f340ff9, 0x3f30312e, 0x3f2c5223, 0x3f2873cf] ++
  [0x3f249721, 0x3f20bd06, 0x3f1ce661, 0x3f19140f, 0x3f1546e7, 0x3f117fb9, 0x3f0dbf4c, 0x3f0a0662] ++
  [0x3f0655b1, 0x3f02adeb, 0x3efe1f73, 0x3ef6f777, 0x3eefe513, 0x3ee8e968, 0x3ee20584, 0x3edb3a64]

/-- (2/sqrt pi) e^(-(j/64)^2), entries 64 to 127 (R106). -/
def tblErfD1 : List Nat :=
  [0x3ed488f8, 0x3ecdf21c, 0x3ec7769b, 0x3ec11733, 0x3ebad48d, 0x3eb4af46, 0x3eaea7ea, 0x3ea8bef3] ++
  [0x3ea2f4ce, 0x3e9d49d9, 0x3e97be62, 0x3e9252aa, 0x3e8d06e3, 0x3e87db31, 0x3e82cfad, 0x3e7bc8c2] ++
  [0x3e723298, 0x3e68dcc1, 0x3e5fc70e, 0x3e56f136, 0x3e4e5adf, 0x3e460399, 0x3e3deae4, 0x3e36102b] ++
  [0x3e2e72cb, 0x3e27120f, 0x3e1fed36, 0x3e19036e, 0x3e1253dc, 0x3e0bdd96, 0x3e059fa9, 0x3dff3230] ++
  [0x3df391b9, 0x3de85bd0, 0x3ddd8e4c, 0x3dd326f3, 0x3dc92385, 0x3dbf81b6, 0x3db63f32, 0x3dad59a1] ++
  [0x3da4cea4, 0x3d9c9bd9, 0x3d94bedd, 0x3d8d354b, 0x3d85fcbf, 0x3d7e25af, 0x3d70ea68, 0x3d6442f0] ++
  [0x3d582a98, 0x3d4c9cbd, 0x3d4194c7, 0x3d370e2c, 0x3d2d0474, 0x3d237336, 0x3d1a561b, 0x3d11a8e1] ++
  [0x3d09675a, 0x3d018d6b, 0x3cf42e22, 0x3ce600c0, 0x3cd88b05, 0x3ccbc574, 0x3cbfa8c4, 0x3cb42ddb]

/-- (2/sqrt pi) e^(-(j/64)^2), entries 128 to 191 (R106). -/
def tblErfD2 : List Nat :=
  [0x3ca94dcf, 0x3c9f01ec, 0x3c9543ae, 0x3c8c0cc2, 0x3c83570a, 0x3c763931, 0x3c66af65, 0x3c58059c] ++
  [0x3c4a3127, 0x3c3d27b5, 0x3c30df57, 0x3c254e7b, 0x3c1a6bee, 0x3c102ed6, 0x3c068eb5, 0x3bfb06c5] ++
  [0x3bea0a1d, 0x3bda1876, 0x3bcb237a, 0x3bbd1d6f, 0x3baff93b, 0x3ba3aa56, 0x3b9824ce, 0x3b8d5d3c] ++
  [0x3b8348c6, 0x3b73ba24, 0x3b622096, 0x3b51b22a, 0x3b425d18, 0x3b341080, 0x3b26bc5e, 0x3b1a5183] ++
  [0x3b0ec18c, 0x3b03feda, 0x3af3f919, 0x3ae15ce8, 0x3ad0121b, 0x3ac002f8, 0x3ab11afe, 0x3aa346d7] ++
  [0x3a96744c, 0x3a8a9237, 0x3a7f20e7, 0x3a6abfa9, 0x3a57e42f, 0x3a4673af, 0x3a365507, 0x3a2770a1] ++
  [0x3a19b066, 0x3a0cffa3, 0x3a014af8, 0x39ed0088, 0x39d91d2d, 0x39c6cc35, 0x39b5f011, 0x39a66d2a] ++
  [0x399829c8, 0x398b0df2, 0x397e06ab, 0x3967ea53, 0x3953a034, 0x3941045e, 0x392ff56d, 0x39205461]

/-- (2/sqrt pi) e^(-(j/64)^2), entries 192 to 255 (R106). -/
def tblErfD3 : List Nat :=
  [0x39120475, 0x3904eafc, 0x38f1de7a, 0x38dbf4a3, 0x38c7ee0e, 0x38b5a381, 0x38a4f0bc, 0x3895b43b] ++
  [0x3887cf0e, 0x3876494d, 0x385f355e, 0x384a31bf, 0x383711b4, 0x3825ac0e, 0x3815dae6, 0x38077b62] ++
  [0x37f4daf4, 0x37dd2782, 0x37c7a666, 0x37b42611, 0x37a2790f, 0x379275b9, 0x3783f5e9, 0x376dad68] ++
  [0x3755f04f, 0x37407a1d, 0x372d1570, 0x371b9188, 0x370bc1e7, 0x36fafbec, 0x36e14167, 0x36ca10ce] ++
  [0x36b52cb9, 0x36a25d43, 0x36916f95, 0x36823575, 0x366909cc, 0x36506f88, 0x363a56e4, 0x36268119] ++
  [0x3614b538, 0x3604bfb1, 0x35ece39b, 0x35d34296, 0x35bc4fdc, 0x35a7c64b, 0x35956771, 0x3584fae8] ++
  [0x356c9b8f, 0x3552644f, 0x353afd47, 0x35261be0, 0x35137cf0, 0x3502e402, 0x34e8356b, 0x34cde050] ++
  [0x34b670d5, 0x34a19816, 0x348f0f43, 0x347d2da8, 0x345febab, 0x3445f27c, 0x342ee6b3, 0x341a767c]

/-- (2/sqrt pi) e^(-(j/64)^2) (R106). -/
def tblErfD : List Nat := tblErfD0 ++ tblErfD1 ++ tblErfD2 ++ tblErfD3

/-- (2 (j/64)^2 - 1)/3, entries 0 to 63 (R106). -/
def tblErfG0 : List Nat :=
  [0xbeaaaaab, 0xbeaa9555, 0xbeaa5555, 0xbea9eaab, 0xbea95555, 0xbea89555, 0xbea7aaab, 0xbea69555] ++
  [0xbea55555, 0xbea3eaab, 0xbea25555, 0xbea09555, 0xbe9eaaab, 0xbe9c9555, 0xbe9a5555, 0xbe97eaab] ++
  [0xbe955555, 0xbe929555, 0xbe8faaab, 0xbe8c9555, 0xbe895555, 0xbe85eaab, 0xbe825555, 0xbe7d2aab] ++
  [0xbe755555, 0xbe6d2aab, 0xbe64aaab, 0xbe5bd555, 0xbe52aaab, 0xbe492aab, 0xbe3f5555, 0xbe352aab] ++
  [0xbe2aaaab, 0xbe1fd555, 0xbe14aaab, 0xbe092aab, 0xbdfaaaab, 0xbde25555, 0xbdc95555, 0xbdafaaab] ++
  [0xbd955555, 0xbd74aaab, 0xbd3d5555, 0xbd04aaab, 0xbc955555, 0xbb755555, 0x3c355555, 0x3cd6aaab] ++
  [0x3d2aaaab, 0x3d6b5555, 0x3d96aaab, 0x3db85555, 0x3ddaaaab, 0x3dfdaaab, 0x3e10aaab, 0x3e22d555] ++
  [0x3e355555, 0x3e482aab, 0x3e5b5555, 0x3e6ed555, 0x3e815555, 0x3e8b6aab, 0x3e95aaab, 0x3ea01555]

/-- (2 (j/64)^2 - 1)/3, entries 64 to 127 (R106). -/
def tblErfG1 : List Nat :=
  [0x3eaaaaab, 0x3eb56aab, 0x3ec05555, 0x3ecb6aab, 0x3ed6aaab, 0x3ee21555, 0x3eedaaab, 0x3ef96aab] ++
  [0x3f02aaab, 0x3f08b555, 0x3f0ed555, 0x3f150aab, 0x3f1b5555, 0x3f21b555, 0x3f282aab, 0x3f2eb555] ++
  [0x3f355555, 0x3f3c0aab, 0x3f42d555, 0x3f49b555, 0x3f50aaab, 0x3f57b555, 0x3f5ed555, 0x3f660aab] ++
  [0x3f6d5555, 0x3f74b555, 0x3f7c2aab, 0x3f81daab, 0x3f85aaab, 0x3f898555, 0x3f8d6aab, 0x3f915aab] ++
  [0x3f955555, 0x3f995aab, 0x3f9d6aab, 0x3fa18555, 0x3fa5aaab, 0x3fa9daab, 0x3fae1555, 0x3fb25aab] ++
  [0x3fb6aaab, 0x3fbb0555, 0x3fbf6aab, 0x3fc3daab, 0x3fc85555, 0x3fccdaab, 0x3fd16aab, 0x3fd60555] ++
  [0x3fdaaaab, 0x3fdf5aab, 0x3fe41555, 0x3fe8daab, 0x3fedaaab, 0x3ff28555, 0x3ff76aab, 0x3ffc5aab] ++
  [0x4000aaab, 0x40032d55, 0x4005b555, 0x400842ab, 0x400ad555, 0x400d6d55, 0x40100aab, 0x4012ad55]

/-- (2 (j/64)^2 - 1)/3, entries 128 to 191 (R106). -/
def tblErfG2 : List Nat :=
  [0x40155555, 0x401802ab, 0x401ab555, 0x401d6d55, 0x40202aab, 0x4022ed55, 0x4025b555, 0x402882ab] ++
  [0x402b5555, 0x402e2d55, 0x40310aab, 0x4033ed55, 0x4036d555, 0x4039c2ab, 0x403cb555, 0x403fad55] ++
  [0x4042aaab, 0x4045ad55, 0x4048b555, 0x404bc2ab, 0x404ed555, 0x4051ed55, 0x40550aab, 0x40582d55] ++
  [0x405b5555, 0x405e82ab, 0x4061b555, 0x4064ed55, 0x40682aab, 0x406b6d55, 0x406eb555, 0x407202ab] ++
  [0x40755555, 0x4078ad55, 0x407c0aab, 0x407f6d55, 0x40816aab, 0x40832155, 0x4084daab, 0x408696ab] ++
  [0x40885555, 0x408a16ab, 0x408bdaab, 0x408da155, 0x408f6aab, 0x409136ab, 0x40930555, 0x4094d6ab] ++
  [0x4096aaab, 0x40988155, 0x409a5aab, 0x409c36ab, 0x409e1555, 0x409ff6ab, 0x40a1daab, 0x40a3c155] ++
  [0x40a5aaab, 0x40a796ab, 0x40a98555, 0x40ab76ab, 0x40ad6aab, 0x40af6155, 0x40b15aab, 0x40b356ab]

/-- (2 (j/64)^2 - 1)/3, entries 192 to 255 (R106). -/
def tblErfG3 : List Nat :=
  [0x40b55555, 0x40b756ab, 0x40b95aab, 0x40bb6155, 0x40bd6aab, 0x40bf76ab, 0x40c18555, 0x40c396ab] ++
  [0x40c5aaab, 0x40c7c155, 0x40c9daab, 0x40cbf6ab, 0x40ce1555, 0x40d036ab, 0x40d25aab, 0x40d48155] ++
  [0x40d6aaab, 0x40d8d6ab, 0x40db0555, 0x40dd36ab, 0x40df6aab, 0x40e1a155, 0x40e3daab, 0x40e616ab] ++
  [0x40e85555, 0x40ea96ab, 0x40ecdaab, 0x40ef2155, 0x40f16aab, 0x40f3b6ab, 0x40f60555, 0x40f856ab] ++
  [0x40faaaab, 0x40fd0155, 0x40ff5aab, 0x4100db55, 0x41020aab, 0x41033b55, 0x41046d55, 0x4105a0ab] ++
  [0x4106d555, 0x41080b55, 0x410942ab, 0x410a7b55, 0x410bb555, 0x410cf0ab, 0x410e2d55, 0x410f6b55] ++
  [0x4110aaab, 0x4111eb55, 0x41132d55, 0x411470ab, 0x4115b555, 0x4116fb55, 0x411842ab, 0x41198b55] ++
  [0x411ad555, 0x411c20ab, 0x411d6d55, 0x411ebb55, 0x41200aab, 0x41215b55, 0x4122ad55, 0x412400ab]

/-- (2 (j/64)^2 - 1)/3 (R106). -/
def tblErfG : List Nat := tblErfG0 ++ tblErfG1 ++ tblErfG2 ++ tblErfG3

end Sys2Proof.Machine
end

