-- ==== Sys2Proof/Machine/Numeric.lean ====
section
/-! DEFINITION. Number formats, rounding, conversions and FP32 arithmetic (R34-R41, R54-R57, R104-R106), exact in dyadic numbers. -/

namespace Sys2Proof.Machine

/-- The number m * 2^e. -/
structure Dy where
  m : Int
  e : Int
deriving DecidableEq, Repr

/-- The value of an encoding (R35). -/
inductive Val where
  | fin (d : Dy)
  | inf (neg : Bool)
  | nan
deriving DecidableEq, Repr

def Dy.zero : Dy := ⟨0, 0⟩
def Dy.neg (a : Dy) : Dy := ⟨-a.m, a.e⟩
def Dy.mul (a b : Dy) : Dy := ⟨a.m * b.m, a.e + b.e⟩
def Dy.shl (a : Dy) (k : Int) : Dy := ⟨a.m, a.e + k⟩

def Dy.add (a b : Dy) : Dy :=
  let e := min a.e b.e
  ⟨a.m * 2 ^ (a.e - e).toNat + b.m * 2 ^ (b.e - e).toNat, e⟩

def Dy.sub (a b : Dy) : Dy := a.add b.neg
def Dy.lt (a b : Dy) : Bool := (a.sub b).m < 0
def Dy.le (a b : Dy) : Bool := (a.sub b).m ≤ 0
def Dy.eqv (a b : Dy) : Bool := (a.sub b).m == 0

/-- floor(a / 2^q). -/
def Dy.floorAt (a : Dy) (q : Int) : Int :=
  if a.e ≥ q then a.m * 2 ^ (a.e - q).toNat else a.m / 2 ^ (q - a.e).toNat

/-- floor(log2 |a|) of a non-zero number. -/
def Dy.ilog2 (a : Dy) : Int := (Nat.log2 a.m.natAbs : Int) + a.e

def Val.dy : Val → Dy
  | .fin d => d
  | _ => .zero

def Val.isFin : Val → Bool
  | .fin _ => true
  | _ => false

/-- Parameters of a floating-point format (R35): exponent and mantissa widths, bias, specials (0: none; 1: FP8A's one NaN code;
2: IEEE infinities and NaNs). -/
structure FloatP where
  eb : Nat
  mb : Nat
  bias : Int
  sp : Nat
deriving DecidableEq, Repr

/-- The floating-point formats by the codes of R94. -/
def floatP (fmt : Nat) : Option FloatP :=
  match fmt with
  | 1 => some ⟨2, 1, 1, 0⟩
  | 3 => some ⟨2, 3, 1, 0⟩
  | 4 => some ⟨3, 2, 3, 0⟩
  | 5 => some ⟨4, 3, 7, 1⟩
  | 6 => some ⟨5, 2, 15, 2⟩
  | 8 => some ⟨8, 7, 127, 2⟩
  | 9 => some ⟨5, 10, 15, 2⟩
  | 11 => some ⟨8, 23, 127, 2⟩
  | _ => none

/-- Width in bits of an element (R35, R37), by code. -/
def fmtWidth (fmt : Nat) : Nat := [2, 4, 4, 6, 6, 8, 8, 8, 16, 16, 16, 32].getD fmt 32
/-- Elements per cell E (R63). -/
def fmtE (fmt : Nat) : Nat := [8, 4, 4, 2, 2, 1, 1, 1, 1, 1, 1].getD fmt 1
/-- Depth K of a stationary block (R38). -/
def fmtK (fmt : Nat) : Nat := 128 * fmtE fmt
/-- Beats per streamed row c (R63). -/
def fmtC (fmt : Nat) : Nat := [1, 1, 1, 1, 1, 1, 1, 1, 2, 2, 4].getD fmt 1
/-- c_f of R38 (none for BF16 and FP16). -/
def fmtCf (fmt : Nat) : Int := [0, 6, 6, 6, 10, 18, 32, 14, 0, 0, 30].getD fmt 0
/-- emax of R38. -/
def fmtEmax (fmt : Nat) : Int := [0, 2, 2, 2, 4, 8, 15, 6, 0, 0, 14].getD fmt 0
/-- Block scales: 0 none, 1 optional, 2 required (R38). -/
def fmtScale (fmt : Nat) : Nat := [0, 2, 2, 2, 2, 2, 2, 1, 0, 0, 1].getD fmt 0
/-- The formats of the anchored window (R44). -/
def fmtAnchored (fmt : Nat) : Bool := fmt == 6 || fmt == 8 || fmt == 9
/-- The formats that may carry a sidecar (R42). -/
def fmtSidecar (fmt : Nat) : Bool := fmt == 1 || fmt == 2 || fmt == 3 || fmt == 4
/-- The guarded formats (R58). -/
def fmtGuarded (fmt : Nat) : Bool := fmt == 0 || fmt == 1 || fmt == 2

/-- Two's complement reading of `w` bits. -/
def sext (w : Nat) (x : Nat) : Int := if x % 2 ^ w < 2 ^ (w - 1) then (x % 2 ^ w : Nat) else (x % 2 ^ w : Nat) - (2 ^ w : Nat)

/-- The low `w` bits of an integer. -/
def wrapTo (w : Nat) (x : Int) : Nat := (x % (2 ^ w : Nat)).toNat

/-- The value of a floating-point encoding (R35, R36). -/
def FloatP.decode (p : FloatP) (bits : Nat) : Val :=
  let M : Nat := bits % 2 ^ p.mb
  let E : Nat := bits / 2 ^ p.mb % 2 ^ p.eb
  let neg : Bool := bits / 2 ^ (p.mb + p.eb) % 2 == 1
  let sg : Nat → Int := fun x => if neg then -(x : Int) else (x : Int)
  if p.sp == 2 && E == 2 ^ p.eb - 1 then (if M == 0 then .inf neg else .nan)
  else if p.sp == 1 && E == 2 ^ p.eb - 1 && M == 2 ^ p.mb - 1 then .nan
  else if E == 0 then .fin ⟨sg M, 1 - p.bias - p.mb⟩
  else .fin ⟨sg (2 ^ p.mb + M), (E : Int) - p.bias - p.mb⟩

/-- The value of an element in any operand format (R35, R37); the reserved TERN code reads as 0. -/
def decodeVal (fmt bits : Nat) : Val :=
  match floatP fmt with
  | some p => p.decode bits
  | none =>
    if fmt == 0 then .fin ⟨if bits % 4 == 1 then 1 else if bits % 4 == 3 then -1 else 0, 0⟩
    else .fin ⟨sext (fmtWidth fmt) bits, 0⟩

/-- The largest finite code of a format, as a magnitude (R35). -/
def FloatP.maxCode (p : FloatP) : Nat :=
  if p.sp == 2 then (2 ^ p.eb - 1) * 2 ^ p.mb - 1
  else if p.sp == 1 then 2 ^ (p.eb + p.mb) - 2
  else 2 ^ (p.eb + p.mb) - 1

/-- n * 2^e in quanta of 2^q, rounded by RND: 0 RNE, 1 RTZ, 2 SR with the 32 random bits u (R54, R55). -/
def roundMag (rnd : Nat) (u : Nat) (n : Nat) (e q : Int) : Nat :=
  if e ≥ q then n * 2 ^ (e - q).toNat
  else
    let d := 2 ^ (q - e).toNat
    let t := n / d
    let r := n % d
    match rnd with
    | 0 => if 2 * r > d || (2 * r == d && t % 2 == 1) then t + 1 else t
    | 1 => t
    | _ => if u < r * 2 ^ 32 / d then t + 1 else t

/-- The magnitude code of a non-zero number before the range check (R54: the quantum is the subnormal quantum where the result is
subnormal). Codes rise with magnitude, so a carry of the rounding moves to the next code. -/
def FloatP.roundCode (p : FloatP) (rnd u : Nat) (d : Dy) : Nat :=
  let q0 : Int := 1 - p.bias - p.mb
  let q := max (d.ilog2 - p.mb) q0
  (q - q0).toNat * 2 ^ p.mb + roundMag rnd u d.m.natAbs d.e q

/-- A converted element and whether it counts in CSPEC and CSAT (R56). -/
structure Conv where
  bits : Nat
  spec : Bool
  sat : Bool
deriving DecidableEq, Repr

def FloatP.signed (p : FloatP) (neg : Bool) (code : Nat) : Nat := if neg then 2 ^ (p.eb + p.mb) + code else code

/-- Conversion into a floating-point format (R54-R56). -/
def FloatP.conv (p : FloatP) (rnd u : Nat) (v : Val) : Conv :=
  match v with
  | .nan =>
    ⟨if p.sp == 2 then (2 ^ p.eb - 1) * 2 ^ p.mb + 2 ^ (p.mb - 1) else if p.sp == 1 then 0x7F else 0, true, false⟩
  | .inf neg =>
    if p.sp == 2 then ⟨p.signed neg ((2 ^ p.eb - 1) * 2 ^ p.mb), true, false⟩
    else ⟨p.signed neg p.maxCode, true, true⟩
  | .fin d =>
    if d.m == 0 then ⟨0, false, false⟩
    else
      let c := p.roundCode rnd u d
      if c == 0 then ⟨0, false, false⟩
      else if c > p.maxCode then ⟨p.signed (d.m < 0) p.maxCode, false, true⟩
      else ⟨p.signed (d.m < 0) c, false, false⟩

/-- Conversion into an integer range [lo, hi] in quanta of 2^q, `w` bits (R56: INT, TERN and L128). -/
def convInt (w : Nat) (lo hi : Int) (q : Int) (rnd u : Nat) (v : Val) : Conv :=
  match v with
  | .nan => ⟨0, true, false⟩
  | .inf neg => ⟨wrapTo w (if neg then lo else hi), true, true⟩
  | .fin d =>
    let t : Int := roundMag rnd u d.m.natAbs d.e q
    let x := if d.m < 0 then -t else t
    if x < lo then ⟨wrapTo w lo, false, true⟩
    else if x > hi then ⟨wrapTo w hi, false, true⟩
    else ⟨wrapTo w x, false, false⟩

/-- Conversion into an operand format or FP32 (R54-R56). -/
def convTo (fmt rnd u : Nat) (v : Val) : Conv :=
  match floatP fmt with
  | some p => p.conv rnd u v
  | none =>
    if fmt == 0 then convInt 2 (-1) 1 0 rnd u v
    else
      let w := fmtWidth fmt
      convInt w (-(2 ^ (w - 1) : Nat)) ((2 ^ (w - 1) : Nat) - 1) 0 rnd u v

/-- Conversion into L128 at anchor A (R46, R56). -/
def convL128 (a : Int) (rnd u : Nat) (v : Val) : Conv :=
  convInt 128 (-((2 ^ 127 : Nat) - 1)) ((2 ^ 127 : Nat) - 1) (a - 100) rnd u v

/-- The value of an L128 accumulator at anchor A (R46). -/
def l128Val (a : Int) (q : L128) : Dy := ⟨q.toInt, a - 100⟩

/-- A block scale code (R39): none is NaN. -/
def scaleExp (code : Nat) : Option Int := if code == 255 then none else some ((code : Int) - 127)

/-- The scale code of a segment (R57). -/
def blockScale (fmt : Nat) (vs : List Val) : Nat :=
  let logs := vs.filterMap fun v => match v with
    | .fin d => if d.m == 0 then none else some d.ilog2
    | _ => none
  match logs with
  | [] => 0
  | l :: r => ((max (-127) (min 127 (r.foldl max l - fmtEmax fmt))) + 127).toNat

/-- One segment converted with its block scale (R57): the scale code and the elements. -/
def convBlock (fmt rnd : Nat) (us : List Nat) (vs : List Val) : Nat × List Conv :=
  let sc := blockScale fmt vs
  let x : Int := (sc : Int) - 127
  (sc, (vs.zip us).map fun (v, u) => convTo fmt rnd u (match v with | .fin d => .fin (d.shl (-x)) | o => o))

/-! ### The counter-based generator (R363) -/

def mixRound (k : Word) (rc : Word) (rot : Nat) (x : Word × Word) : Word × Word :=
  let f := (x.2 + (k + rc)).rotateLeft rot + x.2
  (x.2, x.1 ^^^ f)

/-- mix4 of R363. -/
def mix4 (k0 k1 x0 x1 : Word) : Word × Word :=
  mixRound k1 0x4A27C95B1D6E80F3 36 (mixRound k0 0xB3F06D1895E2C7A4 12
    (mixRound k1 0x0E8B5F27C4A139D6 44 (mixRound k0 0x71D4A0E32B965C1F 20 (x0, x1))))

/-- gen of R363; the seed is four little-endian words. -/
def gen (seed : Nat) (step : Word) (stream : Nat) (index : Word) : Word × Word :=
  let s (i : Nat) : Word := BitVec.ofNat 64 (seed / 2 ^ (64 * i))
  mix4 (s 0 ^^^ s 2) (s 1 ^^^ s 3 ^^^ BitVec.ofNat 64 (stream % 2 ^ 32)) index step

/-- The 32 random bits of R55. -/
def srBits (seed : Nat) (step : Word) (stream : Nat) (index : Nat) : Nat :=
  (gen seed step stream (BitVec.ofNat 64 index)).1.toNat % 2 ^ 32

/-! ### FP32 and BF16 lanes (R104) -/

def f32P : FloatP := ⟨8, 23, 127, 2⟩
def bf16P : FloatP := ⟨8, 7, 127, 2⟩

/-- The value of a lane; a BF16 lane holds its 16 bits in [15:0] (log 13). -/
def laneVal (dt : Nat) (x : Nat) : Val := if dt == 8 then bf16P.decode (x % 2 ^ 16) else f32P.decode x

/-- A lane rounded RNE once; none: beyond the largest finite. A zero result is +0 here. -/
def roundLane (dt : Nat) (d : Dy) : Option Nat :=
  let p := if dt == 8 then bf16P else f32P
  if d.m == 0 then some 0
  else
    let c := p.roundCode 0 0 d
    if c == 0 then some 0 else if c > p.maxCode then none else some (p.signed (d.m < 0) c)

def laneSign (dt : Nat) : Nat := if dt == 8 then 2 ^ 15 else 2 ^ 31

/-- A lane result: the rounded value, a zero with an open sign, or an open value (log 10). -/
def finishLane (op dt a b c : Nat) (d : Dy) : Nat :=
  match roundLane dt d with
  | none => Config.vecOpen op a b c % 2 ^ 32
  | some 0 => if Config.vecOpen op a b c % 2 == 1 then laneSign dt else 0
  | some r => r

/-- Lane-wise arithmetic (R104): op 0 add, 1 subtract, 2 multiply, 3 multiply-add a * b + c. -/
def laneArith (op dt a b c : Nat) : Nat :=
  match laneVal dt a, laneVal dt b, laneVal dt c with
  | .fin x, .fin y, .fin z =>
    finishLane op dt a b c (match op with
      | 0 => x.add y
      | 1 => x.sub y
      | 2 => x.mul y
      | _ => (x.mul y).add z)
  | _, _, _ => Config.vecOpen op a b c % 2 ^ 32

/-- Order of values, NaN apart. -/
def Val.lt (a b : Val) : Bool :=
  match a, b with
  | .fin x, .fin y => x.lt y
  | .inf true, .inf true => false
  | .inf true, .nan => false
  | .inf true, _ => true
  | .fin _, .inf n => !n
  | _, _ => false

def Val.eqv (a b : Val) : Bool :=
  match a, b with
  | .fin x, .fin y => x.eqv y
  | .inf x, .inf y => x == y
  | _, _ => false

def Val.le (a b : Val) : Bool := a.lt b || a.eqv b

/-- Lane-wise VMAX (op 4) and VMIN (op 5); a NaN operand and the sign of a zero are open (log 10). -/
def laneMax (op dt a b : Nat) : Nat :=
  let x := laneVal dt a
  let y := laneVal dt b
  if x == .nan || y == .nan then Config.vecOpen op a b 0 % 2 ^ 32
  else if x.eqv y then (if a == b then a else if Config.vecOpen op a b 0 % 2 == 1 then a else b)
  else if (op == 4) == x.lt y then b else a

/-- VABS (op 6) and VNEG (op 7): the sign bit; of a NaN, open (log 10). -/
def laneSignOp (op dt a : Nat) : Nat :=
  if laneVal dt a == .nan then Config.vecOpen op a 0 0 % 2 ^ 32
  else
    let s := laneSign dt
    let m := a % s
    if op == 6 then m else if a / s % 2 == 1 then m else m + s

/-- VCMPLT (0), VCMPLE (1), VCMPEQ (2): NaN compares false (R104). -/
def laneCmp (k dt a b : Nat) : Nat :=
  let x := laneVal dt a
  let y := laneVal dt b
  let r := match k with
    | 0 => x.lt y
    | 1 => x.le y
    | _ => x.eqv y
  (if r then Config.cmpTrue else Config.cmpFalse).toNat

/-- VSEL: the first operand where the condition lane is true (log 11). -/
def laneSel (a b c : Nat) : Nat :=
  let cond : BitVec 32 := BitVec.ofNat 32 c
  let t := if cond == Config.cmpTrue then true else if cond == Config.cmpFalse then false else Config.selTrue cond
  if t then a else b

/-- The six halving steps of R105, in place. -/
def halve (f : Nat → Nat → Nat) : Nat → List Nat → List Nat
  | 0, l => l
  | k + 1, l =>
    let h := 2 ^ k
    halve f k (((l.take h).zip (l.drop h)).map (fun (a, b) => f a b) ++ l.drop h)

/-- A reduction over registers (R105): lanes first, in ascending register order, then across lanes. -/
def reduceLanes (f : Nat → Nat → Nat) : List (List Nat) → List Nat
  | [] => []
  | r :: rs => halve f 6 (rs.foldl (fun acc v => (acc.zip v).map fun (a, b) => f a b) r)

/-- The order of VRMAX (op 4) and VRMIN (op 5): a NaN input makes the result the canonical NaN (R105). -/
def laneRMax (op dt a b : Nat) : Nat :=
  if laneVal dt a == .nan || laneVal dt b == .nan then (if dt == 8 then 0x7FC0 else 0x7FC00000) else laneMax op dt a b

/-! ### Transcendental functions (R106): every step rounds RNE -/

/-- The value of an FP32 code known to be finite. -/
def fv (x : Nat) : Dy := (f32P.decode x).dy

/-- RNE to FP32 of a number inside the range. -/
def fr (d : Dy) : Dy := match roundLane 11 d with
  | some r => fv r
  | none => d

def ffma (a b c : Dy) : Dy := fr ((a.mul b).add c)
def fadd (a b : Dy) : Dy := fr (a.add b)
def fmul (a b : Dy) : Dy := fr (a.mul b)
def dyNat (n : Nat) : Dy := ⟨n, 0⟩
def dyPow (k : Int) : Dy := ⟨1, k⟩
def tbl (t : List Nat) (j : Int) : Dy := fv (t.getD j.toNat 0)

def nanF : Nat := 0x7FC00000
def infF (neg : Bool) : Nat := if neg then 0xFF800000 else 0x7F800000

/-- The value 2^x before the last rounding is folded in: y and n of the pseudocode. -/
def exp2Parts (x : Dy) : Dy × Int :=
  let n := x.floorAt 0
  let r := x.sub ⟨n, 0⟩
  let j := r.floorAt (-6)
  let t := r.sub ⟨j, -6⟩
  let p := ffma t (fv 0x3D635847) (fv 0x3E75FDF0)
  let p := ffma t p (fv 0x3F317218)
  let p := fmul p t
  (ffma (tbl tblExp2 j) p (tbl tblExp2 j), n)

/-- VEXP2 of a finite number below 128 and at least -150. -/
def exp2Core (x : Dy) : Dy := let (y, n) := exp2Parts x; y.shl n

/-- 2^e * m with m in [1, 2). -/
def normDy (x : Dy) : Int × Dy := let e := x.ilog2; (e, x.shl (-e))

def rcpCore (x : Dy) : Dy :=
  let (e, m) := normDy x
  let j := (m.sub (dyNat 1)).floorAt (-7)
  let y := tbl tblRcp j
  let y := ffma y (ffma m.neg y (dyNat 1)) y
  let y := ffma y (ffma m.neg y (dyNat 1)) y
  y.shl (-e)

def log2Core (x : Dy) : Dy :=
  let (e, m) := normDy x
  let j := (m.sub (dyNat 1)).floorAt (-6)
  let r := ffma m (tbl tblLogA j) ⟨-1, 0⟩
  let q := ffma r (fv 0x3EF6384F) (fv 0xBF38AA3B)
  let q := ffma r q (fv 0x3FB8AA3B)
  fadd (fadd ⟨e, 0⟩ (tbl tblLogB j)) (fmul r q)

def rsqrtCore (x : Dy) : Dy :=
  let e := x.ilog2
  let e := if e % 2 == 0 then e else e - 1
  let m := x.shl (-e)
  let j := (m.sub (dyNat 1)).floorAt (-5)
  let h := m.shl (-1)
  let y := tbl tblRsqrt j
  let y := ffma y (ffma h.neg (fmul y y) ⟨1, -1⟩) y
  let y := ffma y (ffma h.neg (fmul y y) ⟨1, -1⟩) y
  y.shl (-(e / 2))

/-- VTANH of |x|, 0 < |x| < 9. -/
def tanhCore (x : Dy) : Dy :=
  if x.lt ⟨1, -4⟩ then
    let s := fmul x x
    let p := ffma s (fv 0x3E088889) (fv 0xBEAAAAAB)
    ffma x (fmul p s) x
  else
    let z := fr (exp2Core (fmul (x.shl 1) (fv 0x3FB8AA3B)))
    let w := fr (rcpCore (fadd z (dyNat 1)))
    fadd (dyNat 1) (w.shl 1).neg

/-- VERF of |x|, |x| < 4. -/
def erfCore (x : Dy) : Dy :=
  let j := x.floorAt (-6)
  let x0 : Dy := ⟨j, -6⟩
  let t := fr (x.sub x0)
  let q := ffma t (tbl tblErfG j) x0.neg
  let q := ffma t q (dyNat 1)
  ffma (fmul t (tbl tblErfD j)) q (tbl tblErfE j)

/-- A result given by magnitude, with the sign restored. -/
def withSign (neg : Bool) (d : Dy) : Dy := if neg then d.neg else d

/-- The transcendental functions lane by lane (R106): 8 VEXP2, 9 VLOG2, 10 VRCP, 11 VRSQRT, 12 VTANH, 13 VERF. Overflow of the
last rounding and the sign of a zero are open (log 10). -/
def laneTrans (op x : Nat) : Nat :=
  let fin (d : Dy) := finishLane op 11 x 0 0 d
  let abs (d : Dy) : Dy := ⟨d.m.natAbs, d.e⟩
  match op, f32P.decode x with
  | 8, .nan => nanF
  | 8, .inf n => if n then 0 else infF false
  | 8, .fin d =>
    if !(d.lt (dyNat 128)) then infF false else if d.lt ⟨-150, 0⟩ then 0
    else (match roundLane 11 (exp2Core d) with | some r => r | none => Config.vecOpen 8 x 0 0 % 2 ^ 32)
  | 9, .nan => nanF
  | 9, .inf n => if n then nanF else infF false
  | 9, .fin d => if d.m == 0 then infF true else if d.m < 0 then nanF else fin (log2Core d)
  | 10, .nan => nanF
  | 10, .inf n => if n then 0x80000000 else 0
  | 10, .fin d => if d.m == 0 then infF (x / 2 ^ 31 % 2 == 1) else fin (withSign (d.m < 0) (rcpCore (abs d)))
  | 11, .nan => nanF
  | 11, .inf n => if n then nanF else 0
  | 11, .fin d =>
    if d.m == 0 then (if x == 0 then infF false else Config.vecOpen 11 x 0 0 % 2 ^ 32)
    else if d.m < 0 then nanF else fin (rsqrtCore d)
  | 12, .nan => nanF
  | 12, .inf n => if n then 0xBF800000 else 0x3F800000
  | 12, .fin d =>
    if !((abs d).lt (dyNat 9)) then (if d.m < 0 then 0xBF800000 else 0x3F800000)
    else if d.m == 0 then fin .zero else fin (withSign (d.m < 0) (tanhCore (abs d)))
  | _, .nan => nanF
  | _, .inf n => if n then 0xBF800000 else 0x3F800000
  | _, .fin d =>
    if !((abs d).lt (dyNat 4)) then (if d.m < 0 then 0xBF800000 else 0x3F800000)
    else if d.m == 0 then fin .zero else fin (withSign (d.m < 0) (erfCore (abs d)))

end Sys2Proof.Machine
end

