-- ==== Sys2Proof/Machine/RegMap.lean ====
section
/-! DEFINITION. The register maps of the OM7460 (R4-R9, R115 and the register tables of every chapter): for each block of
registers its address, its strides, the lock that guards its RWL fields and its fields with their access codes and reset values.
A reset value "fuse" stands here as 0 and is loaded at start-up (R7). A register is named by its DPA, a word of BAR0 by
2^48 plus its offset (log 5). `R.<register>` is the address, `F.<register>_<FIELD>` the field. -/

namespace Sys2Proof.Machine

/-- The access codes of R4. -/
inductive Acc where
  | rw
  | ro
  | wo
  | w1c
  | rc
  | rwl
deriving DecidableEq, Repr

/-- A field [hi:lo] of a register, its access code and its reset value. -/
structure Field where
  hi : Nat
  lo : Nat
  acc : Acc
  rst : Nat
deriving DecidableEq, Repr

/-- A block of like registers: base address, (count, stride) of each index, lock bit of GW.LOCK plus one (0: none), fields. -/
structure RegBlock where
  base : Nat
  dims : List (Nat × Nat)
  lock : Nat
  flds : List Field
deriving DecidableEq, Repr

/-- The address a block index list names is the base plus whole strides within the counts. -/
def RegBlock.hitOff : List (Nat × Nat) → Nat → Bool
  | [], off => off == 0
  | (n, st) :: r, off => if off / st < n then RegBlock.hitOff r (off % st) else false

def RegBlock.hit (b : RegBlock) (a : Nat) : Bool :=
  if a < b.base then false else RegBlock.hitOff b.dims (a - b.base)

/-- Mask of the bits of a field in place. -/
def Field.mask (f : Field) : Nat := (2 ^ (f.hi + 1 - f.lo) - 1) * 2 ^ f.lo

def RegBlock.mask (b : RegBlock) : Nat := b.flds.foldl (fun m f => if f.acc = .wo then m else m ||| f.mask) 0

def RegBlock.rst (b : RegBlock) : Nat := b.flds.foldl (fun m f => m ||| (f.rst * 2 ^ f.lo)) 0

/-- GW.IDENT -/
def R.gwIdent : Nat := 0x300000000
def F.gwIdent_PART : Field := ⟨63, 48, .ro, 29792⟩
def F.gwIdent_STEP_MAJOR : Field := ⟨47, 40, .ro, 1⟩
def F.gwIdent_STEP_MINOR : Field := ⟨39, 32, .ro, 0⟩
def F.gwIdent_VARIANT : Field := ⟨31, 28, .ro, 0⟩
def F.gwIdent_GRADE : Field := ⟨27, 24, .ro, 0⟩
def F.gwIdent_JOREG_VER : Field := ⟨23, 16, .ro, 3⟩
def B.gwIdent : RegBlock := ⟨0x300000000, [], 0, [F.gwIdent_PART, F.gwIdent_STEP_MAJOR, F.gwIdent_STEP_MINOR, F.gwIdent_VARIANT, F.gwIdent_GRADE, F.gwIdent_JOREG_VER]⟩
/-- GW.LOCK -/
def R.gwLock : Nat := 0x300000008
def F.gwLock_FAB : Field := ⟨1, 1, .rwl, 0⟩
def F.gwLock_TIME : Field := ⟨0, 0, .rwl, 0⟩
def B.gwLock : RegBlock := ⟨0x300000008, [], 0, [F.gwLock_FAB, F.gwLock_TIME]⟩
/-- CORE.ARR.CFG -/
def R.coreArrCfg (i j : Nat) : Nat := 0x301004000 + i * 65536 + j * 1024
def F.coreArrCfg_PAD_ALL : Field := ⟨0, 0, .rw, 0⟩
def B.coreArrCfg : RegBlock := ⟨0x301004000, [(64, 65536), (4, 1024)], 0, [F.coreArrCfg_PAD_ALL]⟩
/-- CORE.ARR.LAT -/
def R.coreArrLat (i j : Nat) : Nat := 0x301004008 + i * 65536 + j * 1024
def F.coreArrLat_PADDED_LAST : Field := ⟨31, 31, .ro, 0⟩
def F.coreArrLat_LAT_LAST : Field := ⟨24, 16, .ro, 0⟩
def F.coreArrLat_LAT_NATIVE : Field := ⟨8, 0, .ro, 0⟩
def B.coreArrLat : RegBlock := ⟨0x301004008, [(64, 65536), (4, 1024)], 0, [F.coreArrLat_PADDED_LAST, F.coreArrLat_LAT_LAST, F.coreArrLat_LAT_NATIVE]⟩
/-- CORE.ARR.REPAIR -/
def R.coreArrRepair (i j : Nat) : Nat := 0x301004010 + i * 65536 + j * 1024
def F.coreArrRepair_SCOL1_EN : Field := ⟨39, 39, .ro, 0⟩
def F.coreArrRepair_SCOL1_AT : Field := ⟨38, 32, .ro, 0⟩
def F.coreArrRepair_SCOL0_EN : Field := ⟨31, 31, .ro, 0⟩
def F.coreArrRepair_SCOL0_AT : Field := ⟨30, 24, .ro, 0⟩
def F.coreArrRepair_SROW1_EN : Field := ⟨23, 23, .ro, 0⟩
def F.coreArrRepair_SROW1_AT : Field := ⟨22, 16, .ro, 0⟩
def F.coreArrRepair_SROW0_EN : Field := ⟨15, 15, .ro, 0⟩
def F.coreArrRepair_SROW0_AT : Field := ⟨14, 8, .ro, 0⟩
def B.coreArrRepair : RegBlock := ⟨0x301004010, [(64, 65536), (4, 1024)], 0, [F.coreArrRepair_SCOL1_EN, F.coreArrRepair_SCOL1_AT, F.coreArrRepair_SCOL0_EN, F.coreArrRepair_SCOL0_AT, F.coreArrRepair_SROW1_EN, F.coreArrRepair_SROW1_AT, F.coreArrRepair_SROW0_EN, F.coreArrRepair_SROW0_AT]⟩
/-- CORE.ARR.STAT -/
def R.coreArrStat (i j : Nat) : Nat := 0x301004018 + i * 65536 + j * 1024
def F.coreArrStat_SELFTEST_FAIL : Field := ⟨37, 37, .ro, 0⟩
def F.coreArrStat_SELFTEST_RUN : Field := ⟨36, 36, .ro, 0⟩
def F.coreArrStat_RETIRE_PEND : Field := ⟨35, 35, .ro, 0⟩
def F.coreArrStat_RETIRED : Field := ⟨34, 34, .ro, 0⟩
def F.coreArrStat_SUSPECT : Field := ⟨33, 33, .ro, 0⟩
def F.coreArrStat_FENCE : Field := ⟨32, 32, .ro, 0⟩
def F.coreArrStat_LOAD_BUSY : Field := ⟨31, 31, .ro, 0⟩
def F.coreArrStat_TAG : Field := ⟨30, 30, .ro, 0⟩
def F.coreArrStat_BANK1_ST : Field := ⟨29, 28, .ro, 0⟩
def F.coreArrStat_BANK0_ST : Field := ⟨27, 26, .ro, 0⟩
def F.coreArrStat_INFL1 : Field := ⟨24, 16, .ro, 0⟩
def F.coreArrStat_INFL0 : Field := ⟨8, 0, .ro, 0⟩
def B.coreArrStat : RegBlock := ⟨0x301004018, [(64, 65536), (4, 1024)], 0, [F.coreArrStat_SELFTEST_FAIL, F.coreArrStat_SELFTEST_RUN, F.coreArrStat_RETIRE_PEND, F.coreArrStat_RETIRED, F.coreArrStat_SUSPECT, F.coreArrStat_FENCE, F.coreArrStat_LOAD_BUSY, F.coreArrStat_TAG, F.coreArrStat_BANK1_ST, F.coreArrStat_BANK0_ST, F.coreArrStat_INFL1, F.coreArrStat_INFL0]⟩
/-- CORE.ARR.WELT_ERR -/
def R.coreArrWeltErr (i j : Nat) : Nat := 0x301004020 + i * 65536 + j * 1024
def F.coreArrWeltErr_TILE_LO : Field := ⟨63, 32, .ro, 0⟩
def F.coreArrWeltErr_SEG : Field := ⟨30, 26, .ro, 0⟩
def F.coreArrWeltErr_COL : Field := ⟨25, 19, .ro, 0⟩
def F.coreArrWeltErr_ROWM : Field := ⟨18, 11, .ro, 0⟩
def F.coreArrWeltErr_ROW_FAIL : Field := ⟨10, 10, .ro, 0⟩
def F.coreArrWeltErr_COL_FAIL : Field := ⟨9, 9, .ro, 0⟩
def F.coreArrWeltErr_RES_FAIL : Field := ⟨8, 8, .ro, 0⟩
def F.coreArrWeltErr_ANCH : Field := ⟨7, 7, .ro, 0⟩
def F.coreArrWeltErr_RUN : Field := ⟨6, 5, .ro, 0⟩
def B.coreArrWeltErr : RegBlock := ⟨0x301004020, [(64, 65536), (4, 1024)], 0, [F.coreArrWeltErr_TILE_LO, F.coreArrWeltErr_SEG, F.coreArrWeltErr_COL, F.coreArrWeltErr_ROWM, F.coreArrWeltErr_ROW_FAIL, F.coreArrWeltErr_COL_FAIL, F.coreArrWeltErr_RES_FAIL, F.coreArrWeltErr_ANCH, F.coreArrWeltErr_RUN]⟩
/-- CORE.ARR.WELT_CNT -/
def R.coreArrWeltCnt (i j : Nat) : Nat := 0x301004028 + i * 65536 + j * 1024
def F.coreArrWeltCnt_RESOLVED_SAME : Field := ⟨47, 32, .rc, 0⟩
def F.coreArrWeltCnt_MISMATCH : Field := ⟨31, 0, .rc, 0⟩
def B.coreArrWeltCnt : RegBlock := ⟨0x301004028, [(64, 65536), (4, 1024)], 0, [F.coreArrWeltCnt_RESOLVED_SAME, F.coreArrWeltCnt_MISMATCH]⟩
/-- CORE.SEQ.CFG -/
def R.coreSeqCfg (i : Nat) : Nat := 0x301000000 + i * 65536
def F.coreSeqCfg_SYNC_TMO : Field := ⟨15, 0, .rw, 100⟩
def B.coreSeqCfg : RegBlock := ⟨0x301000000, [(64, 65536)], 0, [F.coreSeqCfg_SYNC_TMO]⟩
/-- CORE.SEQ.STAT -/
def R.coreSeqStat (i : Nat) : Nat := 0x301000008 + i * 65536
def F.coreSeqStat_ARR_BUSY : Field := ⟨27, 24, .ro, 0⟩
def F.coreSeqStat_CTX_PAUSED : Field := ⟨20, 16, .ro, 0⟩
def F.coreSeqStat_CTX_WAIT : Field := ⟨12, 8, .ro, 0⟩
def F.coreSeqStat_CTX_ACTIVE : Field := ⟨4, 0, .ro, 0⟩
def B.coreSeqStat : RegBlock := ⟨0x301000008, [(64, 65536)], 0, [F.coreSeqStat_ARR_BUSY, F.coreSeqStat_CTX_PAUSED, F.coreSeqStat_CTX_WAIT, F.coreSeqStat_CTX_ACTIVE]⟩
/-- CORE.SEQ.RADIO -/
def R.coreSeqRadio (i : Nat) : Nat := 0x301000010 + i * 65536
def F.coreSeqRadio_RADIO_ARR : Field := ⟨35, 32, .ro, 0⟩
def F.coreSeqRadio_CS_UNITS : Field := ⟨23, 16, .ro, 0⟩
def F.coreSeqRadio_ACC_UNITS : Field := ⟨7, 0, .ro, 0⟩
def B.coreSeqRadio : RegBlock := ⟨0x301000010, [(64, 65536)], 0, [F.coreSeqRadio_RADIO_ARR, F.coreSeqRadio_CS_UNITS, F.coreSeqRadio_ACC_UNITS]⟩
/-- CORE.VEC.STAT -/
def R.coreVecStat (i : Nat) : Nat := 0x301000018 + i * 65536
def F.coreVecStat_RES_RETRY : Field := ⟨63, 32, .rc, 0⟩
def F.coreVecStat_SUSPECT : Field := ⟨1, 1, .ro, 0⟩
def F.coreVecStat_BUSY : Field := ⟨0, 0, .ro, 0⟩
def B.coreVecStat : RegBlock := ⟨0x301000018, [(64, 65536)], 0, [F.coreVecStat_RES_RETRY, F.coreVecStat_SUSPECT, F.coreVecStat_BUSY]⟩
/-- CORE.CTX registers OWNER -/
def R.coreCtxOwner (i j : Nat) : Nat := 0x301000100 + i * 65536 + j * 64
def F.coreCtxOwner_KIND : Field := ⟨9, 8, .ro, 0⟩
def F.coreCtxOwner_SLICE : Field := ⟨7, 0, .ro, 0⟩
def B.coreCtxOwner : RegBlock := ⟨0x301000100, [(64, 65536), (5, 64)], 0, [F.coreCtxOwner_KIND, F.coreCtxOwner_SLICE]⟩
/-- CORE.CTX registers PC -/
def R.coreCtxPc (i j : Nat) : Nat := 0x301000108 + i * 65536 + j * 64
def F.coreCtxPc_PC : Field := ⟨47, 0, .ro, 0⟩
def B.coreCtxPc : RegBlock := ⟨0x301000108, [(64, 65536), (5, 64)], 0, [F.coreCtxPc_PC]⟩
/-- CORE.CTX registers FAULT -/
def R.coreCtxFault (i j : Nat) : Nat := 0x301000110 + i * 65536 + j * 64
def F.coreCtxFault_FAULT_PC : Field := ⟨63, 16, .ro, 0⟩
def F.coreCtxFault_CODE : Field := ⟨7, 0, .ro, 0⟩
def B.coreCtxFault : RegBlock := ⟨0x301000110, [(64, 65536), (5, 64)], 0, [F.coreCtxFault_FAULT_PC, F.coreCtxFault_CODE]⟩
/-- CORE.CTX registers TILES -/
def R.coreCtxTiles (i j : Nat) : Nat := 0x301000118 + i * 65536 + j * 64
def F.coreCtxTiles_COMMITTED : Field := ⟨47, 0, .rc, 0⟩
def B.coreCtxTiles : RegBlock := ⟨0x301000118, [(64, 65536), (5, 64)], 0, [F.coreCtxTiles_COMMITTED]⟩
/-- CORE.CTX registers EVENTS -/
def R.coreCtxEvents (i j : Nat) : Nat := 0x301000120 + i * 65536 + j * 64
def F.coreCtxEvents_OVERRUN_ABORTS : Field := ⟨63, 48, .rc, 0⟩
def F.coreCtxEvents_REROUTES : Field := ⟨47, 32, .rc, 0⟩
def F.coreCtxEvents_BANK_LOADS : Field := ⟨31, 16, .rc, 0⟩
def F.coreCtxEvents_BANK_HITS : Field := ⟨15, 0, .rc, 0⟩
def B.coreCtxEvents : RegBlock := ⟨0x301000120, [(64, 65536), (5, 64)], 0, [F.coreCtxEvents_OVERRUN_ABORTS, F.coreCtxEvents_REROUTES, F.coreCtxEvents_BANK_LOADS, F.coreCtxEvents_BANK_HITS]⟩
/-- CORE.CTX registers CONV -/
def R.coreCtxConv (i j : Nat) : Nat := 0x301000128 + i * 65536 + j * 64
def F.coreCtxConv_CSPEC : Field := ⟨63, 32, .rc, 0⟩
def F.coreCtxConv_CSAT : Field := ⟨31, 0, .rc, 0⟩
def B.coreCtxConv : RegBlock := ⟨0x301000128, [(64, 65536), (5, 64)], 0, [F.coreCtxConv_CSPEC, F.coreCtxConv_CSAT]⟩
/-- MEM.STAT -/
def R.memStat (i : Nat) : Nat := 0x302000000 + i * 1048576
def F.memStat_USABLE : Field := ⟨63, 48, .ro, 0⟩
def F.memStat_N_ACTIVE : Field := ⟨39, 32, .ro, 0⟩
def F.memStat_RATE : Field := ⟨8, 8, .ro, 0⟩
def F.memStat_TRAINED : Field := ⟨0, 0, .ro, 0⟩
def B.memStat : RegBlock := ⟨0x302000000, [(2, 1048576)], 0, [F.memStat_USABLE, F.memStat_N_ACTIVE, F.memStat_RATE, F.memStat_TRAINED]⟩
/-- MEM.SCRUB -/
def R.memScrub (i : Nat) : Nat := 0x302000008 + i * 1048576
def F.memScrub_LP_PASSES : Field := ⟨63, 32, .ro, 0⟩
def F.memScrub_KEN_PASSES : Field := ⟨31, 16, .ro, 0⟩
def F.memScrub_LP_PROGRESS : Field := ⟨6, 0, .ro, 0⟩
def B.memScrub : RegBlock := ⟨0x302000008, [(2, 1048576)], 0, [F.memScrub_LP_PASSES, F.memScrub_KEN_PASSES, F.memScrub_LP_PROGRESS]⟩
/-- MEM.ECC_CNT -/
def R.memEccCnt (i : Nat) : Nat := 0x302000010 + i * 1048576
def F.memEccCnt_LP_CE : Field := ⟨63, 32, .rc, 0⟩
def F.memEccCnt_KEN_CE : Field := ⟨31, 16, .rc, 0⟩
def F.memEccCnt_UE : Field := ⟨15, 0, .rc, 0⟩
def B.memEccCnt : RegBlock := ⟨0x302000010, [(2, 1048576)], 0, [F.memEccCnt_LP_CE, F.memEccCnt_KEN_CE, F.memEccCnt_UE]⟩
/-- MEM.UE_CTL -/
def R.memUeCtl (i : Nat) : Nat := 0x302000018 + i * 1048576
def F.memUeCtl_CLEAR : Field := ⟨63, 63, .wo, 0⟩
def F.memUeCtl_LOST : Field := ⟨31, 16, .rc, 0⟩
def F.memUeCtl_COUNT : Field := ⟨3, 0, .ro, 0⟩
def B.memUeCtl : RegBlock := ⟨0x302000018, [(2, 1048576)], 0, [F.memUeCtl_CLEAR, F.memUeCtl_LOST, F.memUeCtl_COUNT]⟩
/-- MEM.UE_LOG entry 0 -/
def R.memUeLog0 (i j : Nat) : Nat := 0x302000020 + i * 1048576 + j * 16
def F.memUeLog0_V : Field := ⟨63, 63, .ro, 0⟩
def F.memUeLog0_TIER : Field := ⟨62, 62, .ro, 0⟩
def F.memUeLog0_PATROL : Field := ⟨61, 61, .ro, 0⟩
def F.memUeLog0_ADDRFAIL : Field := ⟨60, 60, .ro, 0⟩
def F.memUeLog0_PWRITE : Field := ⟨59, 59, .ro, 0⟩
def F.memUeLog0_LINE : Field := ⟨47, 6, .ro, 0⟩
def B.memUeLog0 : RegBlock := ⟨0x302000020, [(2, 1048576), (8, 16)], 0, [F.memUeLog0_V, F.memUeLog0_TIER, F.memUeLog0_PATROL, F.memUeLog0_ADDRFAIL, F.memUeLog0_PWRITE, F.memUeLog0_LINE]⟩
/-- MEM.UE_LOG entry 1 -/
def R.memUeLog1 (i j : Nat) : Nat := 0x302000028 + i * 1048576 + j * 16
def F.memUeLog1_PART : Field := ⟨63, 54, .ro, 1023⟩
def F.memUeLog1_TICK : Field := ⟨53, 0, .ro, 0⟩
def B.memUeLog1 : RegBlock := ⟨0x302000028, [(2, 1048576), (8, 16)], 0, [F.memUeLog1_PART, F.memUeLog1_TICK]⟩
/-- MEM.KEN -/
def R.memKen (i j : Nat) : Nat := 0x302000100 + i * 1048576 + j * 8
def F.memKen_CE_WORDS : Field := ⟨47, 32, .rc, 0⟩
def F.memKen_RADIO_UNITS : Field := ⟨13, 8, .ro, 0⟩
def F.memKen_FREE_UNITS : Field := ⟨5, 0, .ro, 32⟩
def B.memKen : RegBlock := ⟨0x302000100, [(2, 1048576), (2, 8)], 0, [F.memKen_CE_WORDS, F.memKen_RADIO_UNITS, F.memKen_FREE_UNITS]⟩
/-- MEM.CH -/
def R.memCh (i j : Nat) : Nat := 0x302000400 + i * 1048576 + j * 8
def F.memCh_CE : Field := ⟨63, 48, .rc, 0⟩
def F.memCh_UE : Field := ⟨47, 32, .rc, 0⟩
def F.memCh_TRAIN_RETRY : Field := ⟨23, 16, .ro, 0⟩
def F.memCh_RETIRE_PEND : Field := ⟨2, 2, .ro, 0⟩
def F.memCh_RETIRED : Field := ⟨1, 1, .ro, 0⟩
def F.memCh_FENCE : Field := ⟨0, 0, .ro, 0⟩
def B.memCh : RegBlock := ⟨0x302000400, [(2, 1048576), (64, 8)], 0, [F.memCh_CE, F.memCh_UE, F.memCh_TRAIN_RETRY, F.memCh_RETIRE_PEND, F.memCh_RETIRED, F.memCh_FENCE]⟩
/-- RADIO.STAT -/
def R.radioStat : Nat := 0x304000000
def F.radioStat_CU_Q : Field := ⟨47, 36, .ro, 0⟩
def F.radioStat_CELLS : Field := ⟨35, 26, .ro, 0⟩
def F.radioStat_HELD : Field := ⟨2, 2, .ro, 0⟩
def F.radioStat_APPLY_PEND : Field := ⟨1, 1, .ro, 0⟩
def F.radioStat_ACTIVE : Field := ⟨0, 0, .ro, 0⟩
def B.radioStat : RegBlock := ⟨0x304000000, [], 0, [F.radioStat_CU_Q, F.radioStat_CELLS, F.radioStat_HELD, F.radioStat_APPLY_PEND, F.radioStat_ACTIVE]⟩
/-- RADIO.CAP -/
def R.radioCap : Nat := 0x304000008
def F.radioCap_DEC_PCT : Field := ⟨63, 56, .ro, 0⟩
def F.radioCap_ENC_PCT : Field := ⟨55, 48, .ro, 0⟩
def F.radioCap_DSP_PCT : Field := ⟨47, 40, .ro, 0⟩
def F.radioCap_ARR_PCT : Field := ⟨39, 32, .ro, 0⟩
def F.radioCap_KEN_UNITS : Field := ⟨31, 24, .ro, 0⟩
def F.radioCap_RESERVE_W : Field := ⟨15, 0, .ro, 0⟩
def B.radioCap : RegBlock := ⟨0x304000008, [], 0, [F.radioCap_DEC_PCT, F.radioCap_ENC_PCT, F.radioCap_DSP_PCT, F.radioCap_ARR_PCT, F.radioCap_KEN_UNITS, F.radioCap_RESERVE_W]⟩
/-- RADIO.APPLY -/
def R.radioApply : Nat := 0x304000010
def F.radioApply_SEQ : Field := ⟨47, 32, .ro, 0⟩
def F.radioApply_CELL : Field := ⟨31, 16, .ro, 0⟩
def F.radioApply_REASON : Field := ⟨7, 0, .ro, 0⟩
def B.radioApply : RegBlock := ⟨0x304000010, [], 0, [F.radioApply_SEQ, F.radioApply_CELL, F.radioApply_REASON]⟩
/-- RADIO.SFN -/
def R.radioSfn : Nat := 0x304000018
def F.radioSfn_OFF_MS : Field := ⟨13, 0, .rw, 0⟩
def B.radioSfn : RegBlock := ⟨0x304000018, [], 0, [F.radioSfn_OFF_MS]⟩
/-- RADIO.CELL.STAT -/
def R.radioCellStat (i : Nat) : Nat := 0x304001000 + i * 16
def F.radioCellStat_STATE : Field := ⟨63, 62, .ro, 0⟩
def F.radioCellStat_FAULT : Field := ⟨55, 48, .ro, 0⟩
def F.radioCellStat_SLOTS : Field := ⟨47, 0, .ro, 0⟩
def B.radioCellStat : RegBlock := ⟨0x304001000, [(512, 16)], 0, [F.radioCellStat_STATE, F.radioCellStat_FAULT, F.radioCellStat_SLOTS]⟩
/-- RADIO.CELL.CNT -/
def R.radioCellCnt (i : Nat) : Nat := 0x304001008 + i * 16
def F.radioCellCnt_REQ_LATE : Field := ⟨63, 48, .rc, 0⟩
def F.radioCellCnt_IND_DROP : Field := ⟨47, 32, .rc, 0⟩
def F.radioCellCnt_UL_LATE : Field := ⟨31, 16, .rc, 0⟩
def F.radioCellCnt_FAULTS : Field := ⟨15, 0, .rc, 0⟩
def B.radioCellCnt : RegBlock := ⟨0x304001008, [(512, 16)], 0, [F.radioCellCnt_REQ_LATE, F.radioCellCnt_IND_DROP, F.radioCellCnt_UL_LATE, F.radioCellCnt_FAULTS]⟩
/-- FH.STAT -/
def R.fhStat : Nat := 0x305000000
def F.fhStat_BUF_PEAK : Field := ⟨63, 48, .rc, 0⟩
def F.fhStat_FH_LANES : Field := ⟨47, 40, .ro, 0⟩
def B.fhStat : RegBlock := ⟨0x305000000, [], 0, [F.fhStat_BUF_PEAK, F.fhStat_FH_LANES]⟩
/-- FH.PORT.CFG -/
def R.fhPortCfg (i : Nat) : Nat := 0x305000100 + i * 16
def F.fhPortCfg_LLS : Field := ⟨9, 8, .ro, 0⟩
def F.fhPortCfg_WIDTH : Field := ⟨7, 4, .ro, 0⟩
def F.fhPortCfg_USE : Field := ⟨1, 0, .ro, 0⟩
def B.fhPortCfg : RegBlock := ⟨0x305000100, [(48, 16)], 0, [F.fhPortCfg_LLS, F.fhPortCfg_WIDTH, F.fhPortCfg_USE]⟩
/-- FH.PORT.CNT -/
def R.fhPortCnt (i : Nat) : Nat := 0x305000108 + i * 16
def F.fhPortCnt_OTHER : Field := ⟨63, 48, .rc, 0⟩
def F.fhPortCnt_MALFORMED : Field := ⟨47, 32, .rc, 0⟩
def F.fhPortCnt_FCS : Field := ⟨31, 16, .rc, 0⟩
def B.fhPortCnt : RegBlock := ⟨0x305000108, [(48, 16)], 0, [F.fhPortCnt_OTHER, F.fhPortCnt_MALFORMED, F.fhPortCnt_FCS]⟩
/-- FH.GAIN_TBL entry -/
def R.fhGainTbl (i : Nat) : Nat := 0x305000800 + i * 8
def F.fhGainTbl_GCODE : Field := ⟨39, 16, .ro, 0⟩
def F.fhGainTbl_DN_THR : Field := ⟨15, 8, .rw, 196⟩
def F.fhGainTbl_UP_THR : Field := ⟨7, 0, .rw, 160⟩
def B.fhGainTbl : RegBlock := ⟨0x305000800, [(29, 8)], 0, [F.fhGainTbl_GCODE, F.fhGainTbl_DN_THR, F.fhGainTbl_UP_THR]⟩
/-- FH.CELL.ADDR -/
def R.fhCellAddr (i : Nat) : Nat := 0x305001000 + i * 64
def F.fhCellAddr_RU_MAC : Field := ⟨63, 16, .rw, 0⟩
def F.fhCellAddr_PCP : Field := ⟨15, 13, .rw, 0⟩
def F.fhCellAddr_VLAN_EN : Field := ⟨12, 12, .rw, 0⟩
def F.fhCellAddr_VID : Field := ⟨11, 0, .rw, 0⟩
def B.fhCellAddr : RegBlock := ⟨0x305001000, [(512, 64)], 0, [F.fhCellAddr_RU_MAC, F.fhCellAddr_PCP, F.fhCellAddr_VLAN_EN, F.fhCellAddr_VID]⟩
/-- FH.CELL.ID -/
def R.fhCellId (i : Nat) : Nat := 0x305001008 + i * 64
def F.fhCellId_EAXC_BASE : Field := ⟨63, 48, .rw, 0⟩
def F.fhCellId_UL_METH : Field := ⟨47, 44, .rw, 0⟩
def F.fhCellId_UL_WIDTH : Field := ⟨43, 40, .rw, 0⟩
def F.fhCellId_DL_METH : Field := ⟨39, 36, .rw, 0⟩
def F.fhCellId_DL_WIDTH : Field := ⟨35, 32, .rw, 0⟩
def F.fhCellId_UL_STATIC : Field := ⟨31, 31, .rw, 0⟩
def F.fhCellId_DL_STATIC : Field := ⟨30, 30, .rw, 0⟩
def F.fhCellId_TD_FMT : Field := ⟨29, 28, .rw, 0⟩
def F.fhCellId_SHIFT75 : Field := ⟨27, 27, .rw, 0⟩
def B.fhCellId : RegBlock := ⟨0x305001008, [(512, 64)], 0, [F.fhCellId_EAXC_BASE, F.fhCellId_UL_METH, F.fhCellId_UL_WIDTH, F.fhCellId_DL_METH, F.fhCellId_DL_WIDTH, F.fhCellId_UL_STATIC, F.fhCellId_DL_STATIC, F.fhCellId_TD_FMT, F.fhCellId_SHIFT75]⟩
/-- FH.CELL.WIN -/
def R.fhCellWin (i : Nat) : Nat := 0x305001010 + i * 64
def F.fhCellWin_TA4_MIN : Field := ⟨63, 48, .rw, 50⟩
def F.fhCellWin_TA4_MAX : Field := ⟨47, 32, .rw, 100⟩
def F.fhCellWin_CP_ADV : Field := ⟨31, 16, .rw, 125⟩
def F.fhCellWin_DL_WIN : Field := ⟨15, 0, .rw, 50⟩
def B.fhCellWin : RegBlock := ⟨0x305001010, [(512, 64)], 0, [F.fhCellWin_TA4_MIN, F.fhCellWin_TA4_MAX, F.fhCellWin_CP_ADV, F.fhCellWin_DL_WIN]⟩
/-- FH.CELL.GAIN -/
def R.fhCellGain (i : Nat) : Nat := 0x305001018 + i * 64
def F.fhCellGain_MODE : Field := ⟨63, 62, .rw, 0⟩
def F.fhCellGain_INIT_STEP : Field := ⟨61, 57, .rw, 0⟩
def F.fhCellGain_KMAX : Field := ⟨56, 52, .rw, 28⟩
def F.fhCellGain_DWELL : Field := ⟨51, 44, .rw, 28⟩
def F.fhCellGain_DL_GAIN : Field := ⟨43, 36, .rw, 0⟩
def B.fhCellGain : RegBlock := ⟨0x305001018, [(512, 64)], 0, [F.fhCellGain_MODE, F.fhCellGain_INIT_STEP, F.fhCellGain_KMAX, F.fhCellGain_DWELL, F.fhCellGain_DL_GAIN]⟩
/-- FH.CELL.CNT and FH.CELL.CNT2 CNT -/
def R.fhCellCnt (i : Nat) : Nat := 0x305001020 + i * 64
def F.fhCellCnt_EARLY : Field := ⟨63, 48, .rc, 0⟩
def F.fhCellCnt_LATE : Field := ⟨47, 32, .rc, 0⟩
def F.fhCellCnt_MISSING : Field := ⟨31, 16, .rc, 0⟩
def F.fhCellCnt_DUP : Field := ⟨15, 0, .rc, 0⟩
def B.fhCellCnt : RegBlock := ⟨0x305001020, [(512, 64)], 0, [F.fhCellCnt_EARLY, F.fhCellCnt_LATE, F.fhCellCnt_MISSING, F.fhCellCnt_DUP]⟩
/-- FH.CELL.CNT and FH.CELL.CNT2 CNT2 -/
def R.fhCellCnt2 (i : Nat) : Nat := 0x305001028 + i * 64
def F.fhCellCnt2_SAT_SYM : Field := ⟨63, 48, .rc, 0⟩
def F.fhCellCnt2_FORMAT : Field := ⟨47, 32, .rc, 0⟩
def F.fhCellCnt2_TX_LATE : Field := ⟨31, 16, .rc, 0⟩
def F.fhCellCnt2_HELD_DROP : Field := ⟨15, 0, .rc, 0⟩
def B.fhCellCnt2 : RegBlock := ⟨0x305001028, [(512, 64)], 0, [F.fhCellCnt2_SAT_SYM, F.fhCellCnt2_FORMAT, F.fhCellCnt2_TX_LATE, F.fhCellCnt2_HELD_DROP]⟩
/-- DSP.STAT -/
def R.dspStat (i : Nat) : Nat := 0x306000000 + i * 64
def F.dspStat_SUSPECT : Field := ⟨7, 7, .ro, 0⟩
def F.dspStat_FENCE : Field := ⟨6, 6, .ro, 0⟩
def F.dspStat_OWNER : Field := ⟨5, 4, .ro, 0⟩
def F.dspStat_LOOP_HELD : Field := ⟨3, 3, .ro, 0⟩
def F.dspStat_WAITING : Field := ⟨2, 2, .ro, 0⟩
def F.dspStat_MOVING : Field := ⟨1, 1, .ro, 0⟩
def F.dspStat_BUSY : Field := ⟨0, 0, .ro, 0⟩
def B.dspStat : RegBlock := ⟨0x306000000, [(96, 64)], 0, [F.dspStat_SUSPECT, F.dspStat_FENCE, F.dspStat_OWNER, F.dspStat_LOOP_HELD, F.dspStat_WAITING, F.dspStat_MOVING, F.dspStat_BUSY]⟩
/-- DSP.FAULT -/
def R.dspFault (i : Nat) : Nat := 0x306000008 + i * 64
def F.dspFault_JOB_LO : Field := ⟨63, 16, .ro, 0⟩
def F.dspFault_CODE : Field := ⟨7, 0, .ro, 0⟩
def B.dspFault : RegBlock := ⟨0x306000008, [(96, 64)], 0, [F.dspFault_JOB_LO, F.dspFault_CODE]⟩
/-- DSP.CNT -/
def R.dspCnt (i : Nat) : Nat := 0x306000010 + i * 64
def F.dspCnt_RES_RETRY : Field := ⟨63, 48, .rc, 0⟩
def F.dspCnt_MEM_CE : Field := ⟨47, 32, .rc, 0⟩
def F.dspCnt_JOBS : Field := ⟨31, 0, .rc, 0⟩
def B.dspCnt : RegBlock := ⟨0x306000010, [(96, 64)], 0, [F.dspCnt_RES_RETRY, F.dspCnt_MEM_CE, F.dspCnt_JOBS]⟩
/-- DSP.CNT2 -/
def R.dspCnt2 (i : Nat) : Nat := 0x306000018 + i * 64
def F.dspCnt2_SATCNT : Field := ⟨63, 48, .rc, 0⟩
def F.dspCnt2_OVERRUNS : Field := ⟨47, 32, .rc, 0⟩
def F.dspCnt2_WRAPS : Field := ⟨31, 16, .rc, 0⟩
def F.dspCnt2_LOOP_MISS : Field := ⟨15, 0, .rc, 0⟩
def B.dspCnt2 : RegBlock := ⟨0x306000018, [(96, 64)], 0, [F.dspCnt2_SATCNT, F.dspCnt2_OVERRUNS, F.dspCnt2_WRAPS, F.dspCnt2_LOOP_MISS]⟩
/-- CODE.STAT -/
def R.codeStat : Nat := 0x307000000
def F.codeStat_HQ_USED : Field := ⟨63, 48, .ro, 0⟩
def F.codeStat_HQ_TOTAL : Field := ⟨47, 32, .ro, 0⟩
def B.codeStat : RegBlock := ⟨0x307000000, [], 0, [F.codeStat_HQ_USED, F.codeStat_HQ_TOTAL]⟩
/-- CODE.ENG.STAT -/
def R.codeEngStat (i : Nat) : Nat := 0x307000100 + i * 16
def F.codeEngStat_RETIRE_PEND : Field := ⟨5, 5, .ro, 0⟩
def F.codeEngStat_SUSPECT : Field := ⟨4, 4, .ro, 0⟩
def F.codeEngStat_FENCE : Field := ⟨3, 3, .ro, 0⟩
def F.codeEngStat_OWNER : Field := ⟨2, 1, .ro, 0⟩
def F.codeEngStat_BUSY : Field := ⟨0, 0, .ro, 0⟩
def B.codeEngStat : RegBlock := ⟨0x307000100, [(40, 16)], 0, [F.codeEngStat_RETIRE_PEND, F.codeEngStat_SUSPECT, F.codeEngStat_FENCE, F.codeEngStat_OWNER, F.codeEngStat_BUSY]⟩
/-- CODE.ENG.CNT -/
def R.codeEngCnt (i : Nat) : Nat := 0x307000108 + i * 16
def F.codeEngCnt_CHK_FAIL : Field := ⟨63, 48, .rc, 0⟩
def F.codeEngCnt_MEM_CE : Field := ⟨47, 32, .rc, 0⟩
def F.codeEngCnt_BLOCKS : Field := ⟨31, 0, .rc, 0⟩
def B.codeEngCnt : RegBlock := ⟨0x307000108, [(40, 16)], 0, [F.codeEngCnt_CHK_FAIL, F.codeEngCnt_MEM_CE, F.codeEngCnt_BLOCKS]⟩
/-- CODE.CELL.CFG -/
def R.codeCellCfg (i : Nat) : Nat := 0x307001000 + i * 16
def F.codeCellCfg_IT_MAX : Field := ⟨63, 58, .rw, 8⟩
def F.codeCellCfg_IT_MIN : Field := ⟨57, 54, .rw, 2⟩
def F.codeCellCfg_IT_PLAN : Field := ⟨53, 48, .rw, 4⟩
def F.codeCellCfg_ET : Field := ⟨47, 46, .rw, 1⟩
def F.codeCellCfg_OFFSET : Field := ⟨45, 42, .rw, 2⟩
def F.codeCellCfg_HQ_FMT : Field := ⟨41, 40, .rw, 1⟩
def F.codeCellCfg_HQ_TTL : Field := ⟨39, 32, .rw, 64⟩
def F.codeCellCfg_LIST : Field := ⟨31, 30, .rw, 3⟩
def B.codeCellCfg : RegBlock := ⟨0x307001000, [(512, 16)], 0, [F.codeCellCfg_IT_MAX, F.codeCellCfg_IT_MIN, F.codeCellCfg_IT_PLAN, F.codeCellCfg_ET, F.codeCellCfg_OFFSET, F.codeCellCfg_HQ_FMT, F.codeCellCfg_HQ_TTL, F.codeCellCfg_LIST]⟩
/-- CODE.CELL.CNT -/
def R.codeCellCnt (i : Nat) : Nat := 0x307001008 + i * 16
def F.codeCellCnt_CRC_FAIL : Field := ⟨63, 48, .rc, 0⟩
def F.codeCellCnt_BUDGET_CUT : Field := ⟨47, 32, .rc, 0⟩
def F.codeCellCnt_SPILLED : Field := ⟨31, 16, .rc, 0⟩
def F.codeCellCnt_HQ_NOSTORE : Field := ⟨15, 8, .rc, 0⟩
def F.codeCellCnt_HQ_MISS : Field := ⟨7, 0, .rc, 0⟩
def B.codeCellCnt : RegBlock := ⟨0x307001008, [(512, 16)], 0, [F.codeCellCnt_CRC_FAIL, F.codeCellCnt_BUDGET_CUT, F.codeCellCnt_SPILLED, F.codeCellCnt_HQ_NOSTORE, F.codeCellCnt_HQ_MISS]⟩
/-- RA.CELL.CFG0 and RA.CELL.CFG1 -/
def R.raCellCfg (i j : Nat) : Nat := 0x308001000 + i * 32 + j * 8
def F.raCellCfg_EN : Field := ⟨63, 63, .rw, 0⟩
def F.raCellCfg_MSGA : Field := ⟨62, 62, .rw, 0⟩
def F.raCellCfg_CFG_IDX : Field := ⟨61, 54, .rw, 0⟩
def F.raCellCfg_ROOT : Field := ⟨53, 44, .rw, 0⟩
def F.raCellCfg_ZCZ : Field := ⟨43, 40, .rw, 0⟩
def F.raCellCfg_RSET : Field := ⟨39, 38, .rw, 0⟩
def F.raCellCfg_FDM : Field := ⟨37, 36, .rw, 0⟩
def F.raCellCfg_FREQ_START : Field := ⟨35, 27, .rw, 0⟩
def F.raCellCfg_NPRE : Field := ⟨26, 20, .rw, 64⟩
def F.raCellCfg_THR : Field := ⟨19, 12, .rw, 0⟩
def F.raCellCfg_MSGA_MAX : Field := ⟨11, 5, .rw, 16⟩
def B.raCellCfg : RegBlock := ⟨0x308001000, [(512, 32), (2, 8)], 0, [F.raCellCfg_EN, F.raCellCfg_MSGA, F.raCellCfg_CFG_IDX, F.raCellCfg_ROOT, F.raCellCfg_ZCZ, F.raCellCfg_RSET, F.raCellCfg_FDM, F.raCellCfg_FREQ_START, F.raCellCfg_NPRE, F.raCellCfg_THR, F.raCellCfg_MSGA_MAX]⟩
/-- RA.CELL.MSGA -/
def R.raCellMsga (i : Nat) : Nat := 0x308001010 + i * 32
def F.raCellMsga_MCS : Field := ⟨63, 59, .rw, 0⟩
def F.raCellMsga_PRB_START : Field := ⟨58, 50, .rw, 0⟩
def F.raCellMsga_NPRB : Field := ⟨49, 41, .rw, 1⟩
def F.raCellMsga_START_SYM : Field := ⟨40, 37, .rw, 0⟩
def F.raCellMsga_NSYM : Field := ⟨36, 33, .rw, 14⟩
def F.raCellMsga_DMRS_ADD : Field := ⟨32, 31, .rw, 0⟩
def F.raCellMsga_PRE_PER_PO : Field := ⟨30, 25, .rw, 1⟩
def B.raCellMsga : RegBlock := ⟨0x308001010, [(512, 32)], 0, [F.raCellMsga_MCS, F.raCellMsga_PRB_START, F.raCellMsga_NPRB, F.raCellMsga_START_SYM, F.raCellMsga_NSYM, F.raCellMsga_DMRS_ADD, F.raCellMsga_PRE_PER_PO]⟩
/-- RA.CELL.CNT -/
def R.raCellCnt (i : Nat) : Nat := 0x308001018 + i * 32
def F.raCellCnt_OCC_LOST : Field := ⟨63, 48, .rc, 0⟩
def F.raCellCnt_TRUNC : Field := ⟨47, 32, .rc, 0⟩
def F.raCellCnt_MSGA_SKIP : Field := ⟨31, 16, .rc, 0⟩
def F.raCellCnt_DETECTIONS : Field := ⟨15, 0, .rc, 0⟩
def B.raCellCnt : RegBlock := ⟨0x308001018, [(512, 32)], 0, [F.raCellCnt_OCC_LOST, F.raCellCnt_TRUNC, F.raCellCnt_MSGA_SKIP, F.raCellCnt_DETECTIONS]⟩
/-- TIME.CFG -/
def R.timeCfg : Nat := 0x309000000
def F.timeCfg_PROFILE : Field := ⟨59, 58, .rwl, 0⟩
def F.timeCfg_DOMAIN : Field := ⟨57, 50, .rwl, 24⟩
def F.timeCfg_SLV_PORT : Field := ⟨49, 44, .rwl, 0⟩
def F.timeCfg_SRC : Field := ⟨43, 42, .rwl, 0⟩
def F.timeCfg_FREQ_PRI : Field := ⟨41, 40, .rwl, 0⟩
def F.timeCfg_EEC_OPT : Field := ⟨39, 39, .rwl, 0⟩
def F.timeCfg_PPS_SQUELCH : Field := ⟨38, 38, .rwl, 0⟩
def B.timeCfg : RegBlock := ⟨0x309000000, [], 1, [F.timeCfg_PROFILE, F.timeCfg_DOMAIN, F.timeCfg_SLV_PORT, F.timeCfg_SRC, F.timeCfg_FREQ_PRI, F.timeCfg_EEC_OPT, F.timeCfg_PPS_SQUELCH]⟩
/-- TIME.STAT -/
def R.timeStat : Nat := 0x309000008
def F.timeStat_CLASS : Field := ⟨63, 56, .ro, 248⟩
def F.timeStat_STEPS : Field := ⟨55, 40, .ro, 0⟩
def F.timeStat_FREQ_LOCK : Field := ⟨9, 9, .ro, 0⟩
def F.timeStat_TIME_QUAL : Field := ⟨8, 8, .ro, 0⟩
def F.timeStat_FORM : Field := ⟨5, 5, .ro, 0⟩
def F.timeStat_ALARM : Field := ⟨4, 4, .ro, 0⟩
def F.timeStat_STATE : Field := ⟨3, 0, .ro, 0⟩
def B.timeStat : RegBlock := ⟨0x309000008, [], 0, [F.timeStat_CLASS, F.timeStat_STEPS, F.timeStat_FREQ_LOCK, F.timeStat_TIME_QUAL, F.timeStat_FORM, F.timeStat_ALARM, F.timeStat_STATE]⟩
/-- TIME.LATCH and latched values LATCH -/
def R.timeLatch : Nat := 0x309000010
def F.timeLatch_CAPTURE : Field := ⟨0, 0, .wo, 0⟩
def B.timeLatch : RegBlock := ⟨0x309000010, [], 0, [F.timeLatch_CAPTURE]⟩
/-- TIME.LATCH and latched values L_SEC -/
def R.timeLSec : Nat := 0x309000018
def F.timeLSec_SEC : Field := ⟨47, 0, .ro, 0⟩
def B.timeLSec : RegBlock := ⟨0x309000018, [], 0, [F.timeLSec_SEC]⟩
/-- TIME.LATCH and latched values L_NS -/
def R.timeLNs : Nat := 0x309000020
def F.timeLNs_NS : Field := ⟨45, 16, .ro, 0⟩
def F.timeLNs_FRAC : Field := ⟨15, 0, .ro, 0⟩
def B.timeLNs : RegBlock := ⟨0x309000020, [], 0, [F.timeLNs_NS, F.timeLNs_FRAC]⟩
/-- TIME.LATCH and latched values L_FR -/
def R.timeLFr : Nat := 0x309000028
def F.timeLFr_FR : Field := ⟨63, 0, .ro, 0⟩
def B.timeLFr : RegBlock := ⟨0x309000028, [], 0, [F.timeLFr_FR]⟩
/-- TIME.LATCH and latched values L_TICK -/
def R.timeLTick : Nat := 0x309000030
def F.timeLTick_TICK : Field := ⟨63, 0, .ro, 0⟩
def B.timeLTick : RegBlock := ⟨0x309000030, [], 0, [F.timeLTick_TICK]⟩
/-- TIME.SERVO -/
def R.timeServo : Nat := 0x309000038
def F.timeServo_OFFSET : Field := ⟨63, 32, .ro, 0⟩
def F.timeServo_RATE : Field := ⟨31, 0, .ro, 0⟩
def B.timeServo : RegBlock := ⟨0x309000038, [], 1, [F.timeServo_OFFSET, F.timeServo_RATE]⟩
/-- TIME.HOLD -/
def R.timeHold : Nat := 0x309000040
def F.timeHold_HOLD_FREQ : Field := ⟨63, 44, .rwl, 14400⟩
def F.timeHold_HOLD_NONE : Field := ⟨43, 24, .rwl, 100⟩
def F.timeHold_HOLD_ELAPSED : Field := ⟨23, 0, .ro, 0⟩
def B.timeHold : RegBlock := ⟨0x309000040, [], 1, [F.timeHold_HOLD_FREQ, F.timeHold_HOLD_NONE, F.timeHold_HOLD_ELAPSED]⟩
/-- TIME.BOUND -/
def R.timeBound : Nat := 0x309000048
def F.timeBound_STEP_BOUND : Field := ⟨63, 48, .rwl, 100⟩
def F.timeBound_PD_MAX : Field := ⟨47, 32, .rwl, 1000⟩
def F.timeBound_REJ_MAX : Field := ⟨31, 24, .rwl, 8⟩
def F.timeBound_LOCK_N : Field := ⟨23, 16, .rwl, 16⟩
def F.timeBound_LOCK_WIN : Field := ⟨15, 0, .rwl, 100⟩
def B.timeBound : RegBlock := ⟨0x309000048, [], 1, [F.timeBound_STEP_BOUND, F.timeBound_PD_MAX, F.timeBound_REJ_MAX, F.timeBound_LOCK_N, F.timeBound_LOCK_WIN]⟩
/-- TIME.PPS -/
def R.timePps : Nat := 0x309000050
def F.timePps_OUT_DLY : Field := ⟨63, 48, .rwl, 0⟩
def F.timePps_IN_ERR : Field := ⟨47, 16, .ro, 0⟩
def F.timePps_PPS_CLASS : Field := ⟨15, 8, .rwl, 248⟩
def F.timePps_IN_QUAL : Field := ⟨0, 0, .ro, 0⟩
def B.timePps : RegBlock := ⟨0x309000050, [], 1, [F.timePps_OUT_DLY, F.timePps_IN_ERR, F.timePps_PPS_CLASS, F.timePps_IN_QUAL]⟩
/-- TIME.FREQ -/
def R.timeFreq : Nat := 0x309000058
def F.timeFreq_SEL : Field := ⟨63, 60, .ro, 0⟩
def F.timeFreq_QL_RX : Field := ⟨59, 56, .ro, 15⟩
def F.timeFreq_QL_TX : Field := ⟨55, 52, .ro, 15⟩
def F.timeFreq_QL_10M : Field := ⟨51, 48, .rwl, 15⟩
def F.timeFreq_SYNCE_QUAL : Field := ⟨47, 47, .ro, 0⟩
def F.timeFreq_REF10_QUAL : Field := ⟨46, 46, .ro, 0⟩
def B.timeFreq : RegBlock := ⟨0x309000058, [], 1, [F.timeFreq_SEL, F.timeFreq_QL_RX, F.timeFreq_QL_TX, F.timeFreq_QL_10M, F.timeFreq_SYNCE_QUAL, F.timeFreq_REF10_QUAL]⟩
/-- TIME.CNT and TIME.CNT2 CNT -/
def R.timeCnt : Nat := 0x309000060
def F.timeCnt_ANN_REJ : Field := ⟨63, 48, .rc, 0⟩
def F.timeCnt_SYNC_REJ : Field := ⟨47, 32, .rc, 0⟩
def F.timeCnt_SAMPLE_REJ : Field := ⟨31, 16, .rc, 0⟩
def F.timeCnt_PD_REJ : Field := ⟨15, 0, .rc, 0⟩
def B.timeCnt : RegBlock := ⟨0x309000060, [], 0, [F.timeCnt_ANN_REJ, F.timeCnt_SYNC_REJ, F.timeCnt_SAMPLE_REJ, F.timeCnt_PD_REJ]⟩
/-- TIME.CNT and TIME.CNT2 CNT2 -/
def R.timeCnt2 : Nat := 0x309000068
def F.timeCnt2_PPS_IN_REJ : Field := ⟨63, 48, .rc, 0⟩
def F.timeCnt2_RECOVERIES : Field := ⟨47, 32, .rc, 0⟩
def F.timeCnt2_HOLDOVERS : Field := ⟨31, 16, .rc, 0⟩
def F.timeCnt2_REF_SWITCH : Field := ⟨15, 0, .rc, 0⟩
def B.timeCnt2 : RegBlock := ⟨0x309000068, [], 0, [F.timeCnt2_PPS_IN_REJ, F.timeCnt2_RECOVERIES, F.timeCnt2_HOLDOVERS, F.timeCnt2_REF_SWITCH]⟩
/-- TIME.PORT.ASYM -/
def R.timePortAsym (i : Nat) : Nat := 0x309000100 + i * 8
def F.timePortAsym_ASYM : Field := ⟨31, 0, .rwl, 0⟩
def B.timePortAsym : RegBlock := ⟨0x309000100, [(48, 8)], 1, [F.timePortAsym_ASYM]⟩
/-- LAST.STAT -/
def R.lastStat : Nat := 0x30a000000
def F.lastStat_STITCH : Field := ⟨31, 21, .ro, 0⟩
def F.lastStat_LONG : Field := ⟨3, 3, .ro, 0⟩
def F.lastStat_SUBST : Field := ⟨2, 2, .ro, 0⟩
def F.lastStat_SWAP_PEND : Field := ⟨1, 1, .ro, 0⟩
def F.lastStat_COPY : Field := ⟨0, 0, .ro, 0⟩
def B.lastStat : RegBlock := ⟨0x30a000000, [], 0, [F.lastStat_STITCH, F.lastStat_LONG, F.lastStat_SUBST, F.lastStat_SWAP_PEND, F.lastStat_COPY]⟩
/-- LAST.PERIOD, LAST.BTICK and LAST.SWAP PERIOD -/
def R.lastPeriod : Nat := 0x30a000008
def F.lastPeriod_PERIODS : Field := ⟨63, 0, .ro, 0⟩
def B.lastPeriod : RegBlock := ⟨0x30a000008, [], 0, [F.lastPeriod_PERIODS]⟩
/-- LAST.PERIOD, LAST.BTICK and LAST.SWAP BTICK -/
def R.lastBtick : Nat := 0x30a000010
def F.lastBtick_TICK : Field := ⟨63, 0, .ro, 0⟩
def B.lastBtick : RegBlock := ⟨0x30a000010, [], 0, [F.lastBtick_TICK]⟩
/-- LAST.PERIOD, LAST.BTICK and LAST.SWAP SWAP -/
def R.lastSwap : Nat := 0x30a000018
def F.lastSwap_AT : Field := ⟨63, 0, .ro, 0⟩
def B.lastSwap : RegBlock := ⟨0x30a000018, [], 0, [F.lastSwap_AT]⟩
/-- LAST.PWR -/
def R.lastPwr : Nat := 0x30a000020
def F.lastPwr_CAP_W : Field := ⟨63, 48, .ro, 1200⟩
def F.lastPwr_RESERVE_W : Field := ⟨47, 32, .ro, 0⟩
def F.lastPwr_IDLE_W : Field := ⟨31, 16, .ro, 0⟩
def F.lastPwr_SHARE_W : Field := ⟨15, 0, .ro, 0⟩
def B.lastPwr : RegBlock := ⟨0x30a000020, [], 0, [F.lastPwr_CAP_W, F.lastPwr_RESERVE_W, F.lastPwr_IDLE_W, F.lastPwr_SHARE_W]⟩
/-- LAST.PWR2 -/
def R.lastPwr2 : Nat := 0x30a000028
def F.lastPwr2_THERM_PCT : Field := ⟨63, 56, .ro, 100⟩
def F.lastPwr2_CORR_PCT : Field := ⟨55, 48, .ro, 100⟩
def F.lastPwr2_MEAS_W : Field := ⟨47, 32, .ro, 0⟩
def B.lastPwr2 : RegBlock := ⟨0x30a000028, [], 0, [F.lastPwr2_THERM_PCT, F.lastPwr2_CORR_PCT, F.lastPwr2_MEAS_W]⟩
/-- LAST.CNT and LAST.CNT2 CNT -/
def R.lastCnt : Nat := 0x30a000030
def F.lastCnt_OVERRUNS : Field := ⟨63, 48, .rc, 0⟩
def F.lastCnt_PWR_HOLD : Field := ⟨47, 32, .rc, 0⟩
def F.lastCnt_SUBST : Field := ⟨31, 16, .rc, 0⟩
def F.lastCnt_SWAPS : Field := ⟨15, 0, .rc, 0⟩
def B.lastCnt : RegBlock := ⟨0x30a000030, [], 0, [F.lastCnt_OVERRUNS, F.lastCnt_PWR_HOLD, F.lastCnt_SUBST, F.lastCnt_SWAPS]⟩
/-- LAST.CNT and LAST.CNT2 CNT2 -/
def R.lastCnt2 : Nat := 0x30a000038
def F.lastCnt2_THERM_HOLD : Field := ⟨63, 48, .rc, 0⟩
def F.lastCnt2_LONG : Field := ⟨47, 32, .rc, 0⟩
def F.lastCnt2_RERUN_CLOSE : Field := ⟨31, 16, .rc, 0⟩
def B.lastCnt2 : RegBlock := ⟨0x30a000038, [], 0, [F.lastCnt2_THERM_HOLD, F.lastCnt2_LONG, F.lastCnt2_RERUN_CLOSE]⟩
/-- HOST.ATTN_CFG -/
def R.hostAttnCfg : Nat := 0x1000000120080
def F.hostAttnCfg_BASE : Field := ⟨63, 6, .rw, 0⟩
def F.hostAttnCfg_EN : Field := ⟨0, 0, .rw, 0⟩
def B.hostAttnCfg : RegBlock := ⟨0x1000000120080, [], 0, [F.hostAttnCfg_BASE, F.hostAttnCfg_EN]⟩
/-- HOST.BAR2 -/
def R.hostBar2 : Nat := 0x1000000120088
def F.hostBar2_SEL : Field := ⟨6, 0, .rw, 0⟩
def B.hostBar2 : RegBlock := ⟨0x1000000120088, [], 0, [F.hostBar2_SEL]⟩
/-- HOST.DMA -/
def R.hostDma : Nat := 0x1000000120090
def F.hostDma_CPL_ERR : Field := ⟨63, 48, .rc, 0⟩
def F.hostDma_RO_EN : Field := ⟨0, 0, .rw, 0⟩
def B.hostDma : RegBlock := ⟨0x1000000120090, [], 0, [F.hostDma_CPL_ERR, F.hostDma_RO_EN]⟩
/-- HOST.LINK -/
def R.hostLink : Nat := 0x1000000120098
def F.hostLink_CE : Field := ⟨63, 48, .rc, 0⟩
def F.hostLink_DOWNS : Field := ⟨47, 32, .rc, 0⟩
def F.hostLink_FLIT : Field := ⟨8, 8, .ro, 0⟩
def F.hostLink_WIDTH : Field := ⟨7, 4, .ro, 0⟩
def F.hostLink_RATE : Field := ⟨3, 0, .ro, 0⟩
def B.hostLink : RegBlock := ⟨0x1000000120098, [], 0, [F.hostLink_CE, F.hostLink_DOWNS, F.hostLink_FLIT, F.hostLink_WIDTH, F.hostLink_RATE]⟩
/-- HOST.BOOT -/
def R.hostBoot : Nat := 0x10000001200a0
def F.hostBoot_REC_LOADS : Field := ⟨47, 32, .ro, 0⟩
def F.hostBoot_CAUSE : Field := ⟨31, 24, .ro, 0⟩
def F.hostBoot_STEP : Field := ⟨19, 16, .ro, 0⟩
def F.hostBoot_FAILED : Field := ⟨2, 2, .ro, 0⟩
def F.hostBoot_REC_WAIT : Field := ⟨1, 1, .ro, 0⟩
def F.hostBoot_BOOT_REC : Field := ⟨0, 0, .ro, 0⟩
def B.hostBoot : RegBlock := ⟨0x10000001200a0, [], 0, [F.hostBoot_REC_LOADS, F.hostBoot_CAUSE, F.hostBoot_STEP, F.hostBoot_FAILED, F.hostBoot_REC_WAIT, F.hostBoot_BOOT_REC]⟩
/-- SLICE.STAT -/
def R.sliceStat (i : Nat) : Nat := 0x30b000000 + i * 64
def F.sliceStat_STATE : Field := ⟨63, 60, .ro, 0⟩
def F.sliceStat_CLASS : Field := ⟨59, 57, .ro, 0⟩
def F.sliceStat_POL_OVR : Field := ⟨56, 55, .ro, 0⟩
def F.sliceStat_INFLIGHT : Field := ⟨54, 48, .ro, 0⟩
def B.sliceStat : RegBlock := ⟨0x30b000000, [(258, 64)], 0, [F.sliceStat_STATE, F.sliceStat_CLASS, F.sliceStat_POL_OVR, F.sliceStat_INFLIGHT]⟩
/-- SLICE.VIOL -/
def R.sliceViol (i : Nat) : Nat := 0x30b000008 + i * 64
def F.sliceViol_KINDS : Field := ⟨35, 32, .rc, 0⟩
def F.sliceViol_COUNT : Field := ⟨31, 0, .rc, 0⟩
def B.sliceViol : RegBlock := ⟨0x30b000008, [(258, 64)], 0, [F.sliceViol_KINDS, F.sliceViol_COUNT]⟩
/-- SLICE.EPOCH -/
def R.sliceEpoch (i : Nat) : Nat := 0x30b000010 + i * 64
def F.sliceEpoch_APPLIED : Field := ⟨63, 32, .ro, 0⟩
def F.sliceEpoch_PENDING : Field := ⟨31, 0, .ro, 0⟩
def B.sliceEpoch : RegBlock := ⟨0x30b000010, [(258, 64)], 0, [F.sliceEpoch_APPLIED, F.sliceEpoch_PENDING]⟩
/-- SLICE.MB -/
def R.sliceMb (i : Nat) : Nat := 0x30b000018 + i * 64
def F.sliceMb_BAD : Field := ⟨63, 48, .rc, 0⟩
def F.sliceMb_BUSY_WR : Field := ⟨47, 32, .rc, 0⟩
def F.sliceMb_FAULTS : Field := ⟨31, 16, .rc, 0⟩
def F.sliceMb_CMDS : Field := ⟨15, 0, .rc, 0⟩
def B.sliceMb : RegBlock := ⟨0x30b000018, [(258, 64)], 0, [F.sliceMb_BAD, F.sliceMb_BUSY_WR, F.sliceMb_FAULTS, F.sliceMb_CMDS]⟩
/-- FAB.CFG -/
def R.fabCfg : Nat := 0x30c000000
def F.fabCfg_NODE : Field := ⟨63, 48, .rwl, 65535⟩
def F.fabCfg_UDP_PORT : Field := ⟨47, 32, .rwl, 47008⟩
def F.fabCfg_DSCP : Field := ⟨31, 26, .rwl, 0⟩
def F.fabCfg_EN : Field := ⟨0, 0, .rwl, 0⟩
def B.fabCfg : RegBlock := ⟨0x30c000000, [], 2, [F.fabCfg_NODE, F.fabCfg_UDP_PORT, F.fabCfg_DSCP, F.fabCfg_EN]⟩
/-- FAB.TMR -/
def R.fabTmr : Nat := 0x30c000018
def F.fabTmr_TMO : Field := ⟨63, 48, .rwl, 1000⟩
def F.fabTmr_RTO : Field := ⟨47, 32, .rwl, 64⟩
def F.fabTmr_RTO_MIN : Field := ⟨31, 16, .rwl, 8⟩
def F.fabTmr_IDLE : Field := ⟨15, 0, .rwl, 10⟩
def B.fabTmr : RegBlock := ⟨0x30c000018, [], 2, [F.fabTmr_TMO, F.fabTmr_RTO, F.fabTmr_RTO_MIN, F.fabTmr_IDLE]⟩
/-- FAB.CRED -/
def R.fabCred : Nat := 0x30c000020
def F.fabCred_INIT_CREDIT : Field := ⟨63, 48, .rwl, 16⟩
def F.fabCred_MAX_CREDIT : Field := ⟨47, 32, .rwl, 256⟩
def B.fabCred : RegBlock := ⟨0x30c000020, [], 2, [F.fabCred_INIT_CREDIT, F.fabCred_MAX_CREDIT]⟩
/-- FAB.STAT -/
def R.fabStat : Nat := 0x30c000028
def F.fabStat_INCARN : Field := ⟨63, 32, .ro, 0⟩
def F.fabStat_CONNS : Field := ⟨31, 18, .ro, 0⟩
def F.fabStat_RX_USED : Field := ⟨17, 9, .ro, 0⟩
def F.fabStat_TX_USED : Field := ⟨8, 0, .ro, 0⟩
def B.fabStat : RegBlock := ⟨0x30c000028, [], 0, [F.fabStat_INCARN, F.fabStat_CONNS, F.fabStat_RX_USED, F.fabStat_TX_USED]⟩
/-- FAB.CNT and FAB.CNT2 CNT -/
def R.fabCnt : Nat := 0x30c000030
def F.fabCnt_RETX : Field := ⟨63, 48, .rc, 0⟩
def F.fabCnt_DUP : Field := ⟨47, 32, .rc, 0⟩
def F.fabCnt_CRC_DROP : Field := ⟨31, 16, .rc, 0⟩
def F.fabCnt_VIOL_RX : Field := ⟨15, 0, .rc, 0⟩
def B.fabCnt : RegBlock := ⟨0x30c000030, [], 0, [F.fabCnt_RETX, F.fabCnt_DUP, F.fabCnt_CRC_DROP, F.fabCnt_VIOL_RX]⟩
/-- FAB.CNT and FAB.CNT2 CNT2 -/
def R.fabCnt2 : Nat := 0x30c000038
def F.fabCnt2_TIMEOUTS : Field := ⟨63, 48, .rc, 0⟩
def F.fabCnt2_NO_CONN : Field := ⟨47, 32, .rc, 0⟩
def F.fabCnt2_STALE : Field := ⟨31, 16, .rc, 0⟩
def F.fabCnt2_RGN_REFUSED : Field := ⟨15, 0, .rc, 0⟩
def B.fabCnt2 : RegBlock := ⟨0x30c000038, [], 0, [F.fabCnt2_TIMEOUTS, F.fabCnt2_NO_CONN, F.fabCnt2_STALE, F.fabCnt2_RGN_REFUSED]⟩
/-- FAB.ENG.RING -/
def R.fabEngRing (i : Nat) : Nat := 0x30c000100 + i * 32
def F.fabEngRing_RING_SA : Field := ⟨63, 16, .rw, 0⟩
def F.fabEngRing_SIZE : Field := ⟨15, 12, .rw, 0⟩
def F.fabEngRing_PROD_IDX : Field := ⟨11, 0, .rw, 0⟩
def B.fabEngRing : RegBlock := ⟨0x30c000100, [(32, 32)], 0, [F.fabEngRing_RING_SA, F.fabEngRing_SIZE, F.fabEngRing_PROD_IDX]⟩
/-- FAB.ENG.IDX -/
def R.fabEngIdx (i : Nat) : Nat := 0x30c000108 + i * 32
def F.fabEngIdx_RET_IDX : Field := ⟨63, 52, .rw, 0⟩
def F.fabEngIdx_OUTST : Field := ⟨51, 42, .ro, 0⟩
def F.fabEngIdx_CONS : Field := ⟨31, 0, .ro, 0⟩
def B.fabEngIdx : RegBlock := ⟨0x30c000108, [(32, 32)], 0, [F.fabEngIdx_RET_IDX, F.fabEngIdx_OUTST, F.fabEngIdx_CONS]⟩
/-- FAB.ENG.STAT -/
def R.fabEngStat (i : Nat) : Nat := 0x30c000110 + i * 32
def F.fabEngStat_FAULT : Field := ⟨63, 56, .ro, 0⟩
def F.fabEngStat_OWNER : Field := ⟨47, 38, .ro, 1023⟩
def F.fabEngStat_CREDIT_WAIT : Field := ⟨2, 2, .ro, 0⟩
def F.fabEngStat_FENCE_WAIT : Field := ⟨1, 1, .ro, 0⟩
def F.fabEngStat_BUSY : Field := ⟨0, 0, .ro, 0⟩
def B.fabEngStat : RegBlock := ⟨0x30c000110, [(32, 32)], 0, [F.fabEngStat_FAULT, F.fabEngStat_OWNER, F.fabEngStat_CREDIT_WAIT, F.fabEngStat_FENCE_WAIT, F.fabEngStat_BUSY]⟩
/-- Region descriptor 0 -/
def R.fabRgn0 (i : Nat) : Nat := 0x30c010000 + i * 32
def F.fabRgn0_V : Field := ⟨63, 63, .rw, 0⟩
def F.fabRgn0_R : Field := ⟨62, 62, .rw, 0⟩
def F.fabRgn0_W : Field := ⟨61, 61, .rw, 0⟩
def F.fabRgn0_A : Field := ⟨60, 60, .rw, 0⟩
def F.fabRgn0_WRAP : Field := ⟨59, 59, .w1c, 0⟩
def F.fabRgn0_OWNER : Field := ⟨51, 42, .rw, 1023⟩
def F.fabRgn0_KEY : Field := ⟨31, 0, .rw, 0⟩
def B.fabRgn0 : RegBlock := ⟨0x30c010000, [(4096, 32)], 0, [F.fabRgn0_V, F.fabRgn0_R, F.fabRgn0_W, F.fabRgn0_A, F.fabRgn0_WRAP, F.fabRgn0_OWNER, F.fabRgn0_KEY]⟩
/-- Region descriptor 1 -/
def R.fabRgn1 (i : Nat) : Nat := 0x30c010008 + i * 32
def F.fabRgn1_DPA_BASE : Field := ⟨47, 0, .rw, 0⟩
def B.fabRgn1 : RegBlock := ⟨0x30c010008, [(4096, 32)], 0, [F.fabRgn1_DPA_BASE]⟩
/-- Region descriptor 2 -/
def R.fabRgn2 (i : Nat) : Nat := 0x30c010010 + i * 32
def F.fabRgn2_LEN : Field := ⟨23, 0, .rw, 0⟩
def B.fabRgn2 : RegBlock := ⟨0x30c010010, [(4096, 32)], 0, [F.fabRgn2_LEN]⟩
/-- Region descriptor 3 -/
def R.fabRgn3 (i : Nat) : Nat := 0x30c010018 + i * 32
def F.fabRgn3_VIOL : Field := ⟨31, 0, .rc, 0⟩
def B.fabRgn3 : RegBlock := ⟨0x30c010018, [(4096, 32)], 0, [F.fabRgn3_VIOL]⟩
/-- REP.HOUND.CFG -/
def R.repHoundCfg (i : Nat) : Nat := 0x30d000000 + i * 64
def F.repHoundCfg_MODE : Field := ⟨63, 62, .rw, 0⟩
def F.repHoundCfg_SLICE : Field := ⟨61, 54, .rw, 0⟩
def F.repHoundCfg_PEER_NODE : Field := ⟨53, 38, .rw, 65535⟩
def F.repHoundCfg_PEER_UNIT : Field := ⟨37, 35, .rw, 0⟩
def F.repHoundCfg_LAG : Field := ⟨34, 27, .rw, 4⟩
def B.repHoundCfg : RegBlock := ⟨0x30d000000, [(8, 64)], 0, [F.repHoundCfg_MODE, F.repHoundCfg_SLICE, F.repHoundCfg_PEER_NODE, F.repHoundCfg_PEER_UNIT, F.repHoundCfg_LAG]⟩
/-- REP.HOUND.STAT and REP.HOUND.CNT STAT -/
def R.repHoundStat (i : Nat) : Nat := 0x30d000008 + i * 64
def F.repHoundStat_COMPARED : Field := ⟨63, 16, .ro, 0⟩
def F.repHoundStat_PEER_UP : Field := ⟨2, 2, .ro, 0⟩
def F.repHoundStat_FIRST : Field := ⟨1, 1, .w1c, 0⟩
def F.repHoundStat_ACTIVE : Field := ⟨0, 0, .ro, 0⟩
def B.repHoundStat : RegBlock := ⟨0x30d000008, [(8, 64)], 0, [F.repHoundStat_COMPARED, F.repHoundStat_PEER_UP, F.repHoundStat_FIRST, F.repHoundStat_ACTIVE]⟩
/-- REP.HOUND mismatch registers MIS_STEP -/
def R.repHoundMisStep (i : Nat) : Nat := 0x30d000010 + i * 64
def F.repHoundMisStep_STEP : Field := ⟨63, 0, .ro, 0⟩
def B.repHoundMisStep : RegBlock := ⟨0x30d000010, [(8, 64)], 0, [F.repHoundMisStep_STEP]⟩
/-- REP.HOUND mismatch registers MIS_TILE -/
def R.repHoundMisTile (i : Nat) : Nat := 0x30d000018 + i * 64
def F.repHoundMisTile_TILE_ID : Field := ⟨59, 0, .ro, 0⟩
def B.repHoundMisTile : RegBlock := ⟨0x30d000018, [(8, 64)], 0, [F.repHoundMisTile_TILE_ID]⟩
/-- REP.HOUND mismatch registers MIS_WHERE -/
def R.repHoundMisWhere (i : Nat) : Nat := 0x30d000020 + i * 64
def F.repHoundMisWhere_L_CORE : Field := ⟨29, 24, .ro, 0⟩
def F.repHoundMisWhere_L_ARR : Field := ⟨17, 16, .ro, 0⟩
def F.repHoundMisWhere_P_CORE : Field := ⟨13, 8, .ro, 0⟩
def F.repHoundMisWhere_P_ARR : Field := ⟨1, 0, .ro, 0⟩
def B.repHoundMisWhere : RegBlock := ⟨0x30d000020, [(8, 64)], 0, [F.repHoundMisWhere_L_CORE, F.repHoundMisWhere_L_ARR, F.repHoundMisWhere_P_CORE, F.repHoundMisWhere_P_ARR]⟩
/-- REP.HOUND mismatch registers MIS_LDIG -/
def R.repHoundMisLdig (i : Nat) : Nat := 0x30d000028 + i * 64
def F.repHoundMisLdig_DIGEST : Field := ⟨63, 0, .ro, 0⟩
def B.repHoundMisLdig : RegBlock := ⟨0x30d000028, [(8, 64)], 0, [F.repHoundMisLdig_DIGEST]⟩
/-- REP.HOUND mismatch registers MIS_PDIG -/
def R.repHoundMisPdig (i : Nat) : Nat := 0x30d000030 + i * 64
def F.repHoundMisPdig_DIGEST : Field := ⟨63, 0, .ro, 0⟩
def B.repHoundMisPdig : RegBlock := ⟨0x30d000030, [(8, 64)], 0, [F.repHoundMisPdig_DIGEST]⟩
/-- REP.HOUND.STAT and REP.HOUND.CNT CNT -/
def R.repHoundCnt (i : Nat) : Nat := 0x30d000038 + i * 64
def F.repHoundCnt_MISMATCHES : Field := ⟨63, 48, .rc, 0⟩
def F.repHoundCnt_UNMATCHED : Field := ⟨47, 32, .rc, 0⟩
def F.repHoundCnt_SKIPPED : Field := ⟨31, 16, .rc, 0⟩
def F.repHoundCnt_DUPKEY : Field := ⟨15, 0, .rc, 0⟩
def B.repHoundCnt : RegBlock := ⟨0x30d000038, [(8, 64)], 0, [F.repHoundCnt_MISMATCHES, F.repHoundCnt_UNMATCHED, F.repHoundCnt_SKIPPED, F.repHoundCnt_DUPKEY]⟩
/-- REP.CORE -/
def R.repCore (i : Nat) : Nat := 0x30d000800 + i * 8
def F.repCore_STRETCH : Field := ⟨63, 48, .rc, 0⟩
def F.repCore_TRANS : Field := ⟨1, 1, .ro, 0⟩
def F.repCore_REP_MODE : Field := ⟨0, 0, .ro, 0⟩
def B.repCore : RegBlock := ⟨0x30d000800, [(64, 8)], 0, [F.repCore_STRETCH, F.repCore_TRANS, F.repCore_REP_MODE]⟩
/-- REP.SLICE registers STEP -/
def R.repSliceStep (i : Nat) : Nat := 0x30d001000 + i * 32
def F.repSliceStep_STEP : Field := ⟨63, 0, .ro, 0⟩
def B.repSliceStep : RegBlock := ⟨0x30d001000, [(256, 32)], 0, [F.repSliceStep_STEP]⟩
/-- REP.SLICE registers CHOICE -/
def R.repSliceChoice (i : Nat) : Nat := 0x30d001008 + i * 32
def F.repSliceChoice_CHOICES : Field := ⟨47, 0, .ro, 0⟩
def B.repSliceChoice : RegBlock := ⟨0x30d001008, [(256, 32)], 0, [F.repSliceChoice_CHOICES]⟩
/-- REP.SLICE registers LAUNCH -/
def R.repSliceLaunch (i : Nat) : Nat := 0x30d001010 + i * 32
def F.repSliceLaunch_LATE : Field := ⟨63, 48, .rc, 0⟩
def F.repSliceLaunch_TMO : Field := ⟨47, 32, .rc, 0⟩
def F.repSliceLaunch_THETA_REJ : Field := ⟨31, 16, .rc, 0⟩
def F.repSliceLaunch_MASTER : Field := ⟨1, 1, .ro, 0⟩
def F.repSliceLaunch_ARMED : Field := ⟨0, 0, .ro, 0⟩
def B.repSliceLaunch : RegBlock := ⟨0x30d001010, [(256, 32)], 0, [F.repSliceLaunch_LATE, F.repSliceLaunch_TMO, F.repSliceLaunch_THETA_REJ, F.repSliceLaunch_MASTER, F.repSliceLaunch_ARMED]⟩
/-- HEALTH.CFG -/
def R.healthCfg (i : Nat) : Nat := 0x30e000000 + i * 16
def F.healthCfg_FAIL_THR : Field := ⟨63, 48, .ro, 1000⟩
def F.healthCfg_SUSPECT_THR : Field := ⟨47, 32, .ro, 100⟩
def F.healthCfg_DECAY_SH : Field := ⟨11, 8, .ro, 9⟩
def F.healthCfg_DWELL : Field := ⟨7, 0, .ro, 30⟩
def B.healthCfg : RegBlock := ⟨0x30e000000, [(5, 16)], 0, [F.healthCfg_FAIL_THR, F.healthCfg_SUSPECT_THR, F.healthCfg_DECAY_SH, F.healthCfg_DWELL]⟩
/-- HEALTH.W -/
def R.healthW (i : Nat) : Nat := 0x30e000008 + i * 16
def F.healthW_W3 : Field := ⟨63, 48, .ro, 256⟩
def F.healthW_W2 : Field := ⟨47, 32, .ro, 256⟩
def F.healthW_W1 : Field := ⟨31, 16, .ro, 256⟩
def F.healthW_W0 : Field := ⟨15, 0, .ro, 256⟩
def B.healthW : RegBlock := ⟨0x30e000008, [(5, 16)], 0, [F.healthW_W3, F.healthW_W2, F.healthW_W1, F.healthW_W0]⟩
/-- HEALTH.NOCOPY word i -/
def R.healthNocopy (i : Nat) : Nat := 0x30e000080 + i * 8
def F.healthNocopy_SLICES : Field := ⟨63, 0, .ro, 0⟩
def B.healthNocopy : RegBlock := ⟨0x30e000080, [(4, 8)], 0, [F.healthNocopy_SLICES]⟩
/-- HEALTH.UNIT -/
def R.healthUnitMod (i : Nat) : Nat := 0x30e001000 + i * 8
def F.healthUnitMod_SCORE : Field := ⟨63, 32, .ro, 0⟩
def F.healthUnitMod_CNT_S : Field := ⟨31, 24, .ro, 0⟩
def F.healthUnitMod_CNT_F : Field := ⟨23, 16, .ro, 0⟩
def F.healthUnitMod_LEVEL : Field := ⟨1, 0, .ro, 0⟩
def B.healthUnitMod : RegBlock := ⟨0x30e001000, [(1, 8)], 0, [F.healthUnitMod_SCORE, F.healthUnitMod_CNT_S, F.healthUnitMod_CNT_F, F.healthUnitMod_LEVEL]⟩
/-- HEALTH.UNIT -/
def R.healthUnitCh (i : Nat) : Nat := 0x30e001100 + i * 8
def F.healthUnitCh_SCORE : Field := ⟨63, 32, .ro, 0⟩
def F.healthUnitCh_CNT_S : Field := ⟨31, 24, .ro, 0⟩
def F.healthUnitCh_CNT_F : Field := ⟨23, 16, .ro, 0⟩
def F.healthUnitCh_LEVEL : Field := ⟨1, 0, .ro, 0⟩
def B.healthUnitCh : RegBlock := ⟨0x30e001100, [(128, 8)], 0, [F.healthUnitCh_SCORE, F.healthUnitCh_CNT_S, F.healthUnitCh_CNT_F, F.healthUnitCh_LEVEL]⟩
/-- HEALTH.UNIT -/
def R.healthUnitLane (i : Nat) : Nat := 0x30e001500 + i * 8
def F.healthUnitLane_SCORE : Field := ⟨63, 32, .ro, 0⟩
def F.healthUnitLane_CNT_S : Field := ⟨31, 24, .ro, 0⟩
def F.healthUnitLane_CNT_F : Field := ⟨23, 16, .ro, 0⟩
def F.healthUnitLane_LEVEL : Field := ⟨1, 0, .ro, 0⟩
def B.healthUnitLane : RegBlock := ⟨0x30e001500, [(48, 8)], 0, [F.healthUnitLane_SCORE, F.healthUnitLane_CNT_S, F.healthUnitLane_CNT_F, F.healthUnitLane_LEVEL]⟩
/-- HEALTH.UNIT -/
def R.healthUnitCore (i : Nat) : Nat := 0x30e001700 + i * 8
def F.healthUnitCore_SCORE : Field := ⟨63, 32, .ro, 0⟩
def F.healthUnitCore_CNT_S : Field := ⟨31, 24, .ro, 0⟩
def F.healthUnitCore_CNT_F : Field := ⟨23, 16, .ro, 0⟩
def F.healthUnitCore_LEVEL : Field := ⟨1, 0, .ro, 0⟩
def B.healthUnitCore : RegBlock := ⟨0x30e001700, [(64, 8)], 0, [F.healthUnitCore_SCORE, F.healthUnitCore_CNT_S, F.healthUnitCore_CNT_F, F.healthUnitCore_LEVEL]⟩
/-- HEALTH.UNIT -/
def R.healthUnitArr (i : Nat) : Nat := 0x30e001900 + i * 8
def F.healthUnitArr_SCORE : Field := ⟨63, 32, .ro, 0⟩
def F.healthUnitArr_CNT_S : Field := ⟨31, 24, .ro, 0⟩
def F.healthUnitArr_CNT_F : Field := ⟨23, 16, .ro, 0⟩
def F.healthUnitArr_LEVEL : Field := ⟨1, 0, .ro, 0⟩
def B.healthUnitArr : RegBlock := ⟨0x30e001900, [(256, 8)], 0, [F.healthUnitArr_SCORE, F.healthUnitArr_CNT_S, F.healthUnitArr_CNT_F, F.healthUnitArr_LEVEL]⟩
/-- Counter control (CORE.PMC.CTL and GPMC.CTL) -/
def R.corePmcCtl (i j : Nat) : Nat := 0x301002000 + i * 65536 + j * 16
def F.corePmcCtl_EN : Field := ⟨63, 63, .rw, 0⟩
def F.corePmcCtl_CHAIN : Field := ⟨62, 62, .rw, 0⟩
def F.corePmcCtl_OVF : Field := ⟨61, 61, .w1c, 0⟩
def F.corePmcCtl_ADDR_EN : Field := ⟨60, 60, .rw, 0⟩
def F.corePmcCtl_PRIV : Field := ⟨59, 57, .rw, 7⟩
def F.corePmcCtl_PART : Field := ⟨56, 47, .rw, 1023⟩
def F.corePmcCtl_MASTER : Field := ⟨46, 43, .rw, 0⟩
def F.corePmcCtl_EVCLASS : Field := ⟨15, 12, .rw, 0⟩
def F.corePmcCtl_EVENT : Field := ⟨11, 0, .rw, 0⟩
def B.corePmcCtl : RegBlock := ⟨0x301002000, [(64, 65536), (8, 16)], 0, [F.corePmcCtl_EN, F.corePmcCtl_CHAIN, F.corePmcCtl_OVF, F.corePmcCtl_ADDR_EN, F.corePmcCtl_PRIV, F.corePmcCtl_PART, F.corePmcCtl_MASTER, F.corePmcCtl_EVCLASS, F.corePmcCtl_EVENT]⟩
/-- Value and range registers VAL -/
def R.corePmcVal (i j : Nat) : Nat := 0x301002008 + i * 65536 + j * 16
def F.corePmcVal_VALUE : Field := ⟨47, 0, .rw, 0⟩
def B.corePmcVal : RegBlock := ⟨0x301002008, [(64, 65536), (8, 16)], 0, [F.corePmcVal_VALUE]⟩
/-- Value and range registers ALO, AHI -/
def R.corePmcRange (i j : Nat) : Nat := 0x301002080 + i * 65536 + j * 8
def F.corePmcRange_ADDR : Field := ⟨47, 0, .rw, 0⟩
def B.corePmcRange : RegBlock := ⟨0x301002080, [(64, 65536), (2, 8)], 0, [F.corePmcRange_ADDR]⟩
/-- CORE.PMC.SAMP -/
def R.corePmcSamp (i : Nat) : Nat := 0x301002090 + i * 65536
def F.corePmcSamp_EN : Field := ⟨63, 63, .rw, 0⟩
def F.corePmcSamp_STOP : Field := ⟨62, 62, .rw, 0⟩
def F.corePmcSamp_PART : Field := ⟨61, 52, .rw, 1023⟩
def F.corePmcSamp_PERIOD : Field := ⟨47, 32, .rw, 1024⟩
def B.corePmcSamp : RegBlock := ⟨0x301002090, [(64, 65536)], 0, [F.corePmcSamp_EN, F.corePmcSamp_STOP, F.corePmcSamp_PART, F.corePmcSamp_PERIOD]⟩
/-- CORE.PMC.SAMP_STAT -/
def R.corePmcSampStat (i : Nat) : Nat := 0x301002098 + i * 65536
def F.corePmcSampStat_LOST : Field := ⟨63, 48, .rc, 0⟩
def F.corePmcSampStat_COUNT : Field := ⟨16, 8, .ro, 0⟩
def F.corePmcSampStat_NEXT : Field := ⟨7, 0, .ro, 0⟩
def B.corePmcSampStat : RegBlock := ⟨0x301002098, [(64, 65536)], 0, [F.corePmcSampStat_LOST, F.corePmcSampStat_COUNT, F.corePmcSampStat_NEXT]⟩
/-- Counter control (CORE.PMC.CTL and GPMC.CTL) -/
def R.gpmcCtl (i j : Nat) : Nat := 0x30f000000 + i * 256 + j * 16
def F.gpmcCtl_EN : Field := ⟨63, 63, .rw, 0⟩
def F.gpmcCtl_CHAIN : Field := ⟨62, 62, .rw, 0⟩
def F.gpmcCtl_OVF : Field := ⟨61, 61, .w1c, 0⟩
def F.gpmcCtl_ADDR_EN : Field := ⟨60, 60, .rw, 0⟩
def F.gpmcCtl_PRIV : Field := ⟨59, 57, .rw, 7⟩
def F.gpmcCtl_PART : Field := ⟨56, 47, .rw, 1023⟩
def F.gpmcCtl_MASTER : Field := ⟨46, 43, .rw, 0⟩
def F.gpmcCtl_EVCLASS : Field := ⟨15, 12, .rw, 0⟩
def F.gpmcCtl_EVENT : Field := ⟨11, 0, .rw, 0⟩
def B.gpmcCtl : RegBlock := ⟨0x30f000000, [(8, 256), (8, 16)], 0, [F.gpmcCtl_EN, F.gpmcCtl_CHAIN, F.gpmcCtl_OVF, F.gpmcCtl_ADDR_EN, F.gpmcCtl_PRIV, F.gpmcCtl_PART, F.gpmcCtl_MASTER, F.gpmcCtl_EVCLASS, F.gpmcCtl_EVENT]⟩
/-- Value and range registers VAL -/
def R.gpmcVal (i j : Nat) : Nat := 0x30f000008 + i * 256 + j * 16
def F.gpmcVal_VALUE : Field := ⟨47, 0, .rw, 0⟩
def B.gpmcVal : RegBlock := ⟨0x30f000008, [(8, 256), (8, 16)], 0, [F.gpmcVal_VALUE]⟩
/-- Value and range registers ALO, AHI -/
def R.gpmcRange (i j : Nat) : Nat := 0x30f000080 + i * 256 + j * 8
def F.gpmcRange_ADDR : Field := ⟨47, 0, .rw, 0⟩
def B.gpmcRange : RegBlock := ⟨0x30f000080, [(8, 256), (2, 8)], 0, [F.gpmcRange_ADDR]⟩
/-- REC.STAT -/
def R.recStat : Nat := 0x310000000
def F.recStat_WR_PTR : Field := ⟨63, 38, .ro, 0⟩
def F.recStat_ERASING : Field := ⟨15, 15, .ro, 0⟩
def F.recStat_FROZEN : Field := ⟨14, 14, .ro, 0⟩
def F.recStat_STAGED : Field := ⟨13, 5, .ro, 0⟩
def F.recStat_RES_FULL : Field := ⟨2, 2, .ro, 0⟩
def F.recStat_ORD_FULL : Field := ⟨1, 1, .ro, 0⟩
def B.recStat : RegBlock := ⟨0x310000000, [], 0, [F.recStat_WR_PTR, F.recStat_ERASING, F.recStat_FROZEN, F.recStat_STAGED, F.recStat_RES_FULL, F.recStat_ORD_FULL]⟩
/-- REC.CNT, REC.CNT2 and REC.CFG CNT -/
def R.recCnt : Nat := 0x310000008
def F.recCnt_DROPPED : Field := ⟨63, 32, .rc, 0⟩
def F.recCnt_DROPPED_U : Field := ⟨31, 16, .rc, 0⟩
def F.recCnt_FRZ_DROP : Field := ⟨15, 0, .rc, 0⟩
def B.recCnt : RegBlock := ⟨0x310000008, [], 0, [F.recCnt_DROPPED, F.recCnt_DROPPED_U, F.recCnt_FRZ_DROP]⟩
/-- REC.CNT, REC.CNT2 and REC.CFG CNT2 -/
def R.recCnt2 : Nat := 0x310000010
def F.recCnt2_SUPPRESSED : Field := ⟨63, 32, .rc, 0⟩
def F.recCnt2_QUOTA_DROP : Field := ⟨31, 0, .rc, 0⟩
def B.recCnt2 : RegBlock := ⟨0x310000010, [], 0, [F.recCnt2_SUPPRESSED, F.recCnt2_QUOTA_DROP]⟩
/-- REC.CNT, REC.CNT2 and REC.CFG CFG -/
def R.recCfg : Nat := 0x310000018
def F.recCfg_FRZ_TMO : Field := ⟨63, 48, .rw, 60⟩
def F.recCfg_WIN : Field := ⟨9, 0, .rw, 0⟩
def B.recCfg : RegBlock := ⟨0x310000018, [], 0, [F.recCfg_FRZ_TMO, F.recCfg_WIN]⟩
/-- SEC.STAT (offset 0x00) -/
def R.secStat : Nat := 0x311000000
def F.secStat_KEY_READY : Field := ⟨15, 15, .ro, 0⟩
def F.secStat_UDS_LOCK : Field := ⟨14, 14, .ro, 0⟩
def F.secStat_BOOT_REC : Field := ⟨13, 13, .ro, 0⟩
def F.secStat_UNLOCKED : Field := ⟨12, 12, .ro, 0⟩
def F.secStat_DBG_FUSE : Field := ⟨11, 11, .ro, 0⟩
def B.secStat : RegBlock := ⟨0x311000000, [], 0, [F.secStat_KEY_READY, F.secStat_UDS_LOCK, F.secStat_BOOT_REC, F.secStat_UNLOCKED, F.secStat_DBG_FUSE]⟩
/-- SEC.CNT (offset 0x08) -/
def R.secCnt : Nat := 0x311000008
def F.secCnt_DBG_REFUSED : Field := ⟨63, 48, .rc, 0⟩
def F.secCnt_DOE_BAD : Field := ⟨47, 32, .rc, 0⟩
def F.secCnt_REPORTS : Field := ⟨31, 0, .rc, 0⟩
def B.secCnt : RegBlock := ⟨0x311000008, [], 0, [F.secCnt_DBG_REFUSED, F.secCnt_DOE_BAD, F.secCnt_REPORTS]⟩
/-- PWR.STAT -/
def R.pwrStat : Nat := 0x312000000
def F.pwrStat_VIN : Field := ⟨63, 48, .ro, 0⟩
def F.pwrStat_IIN : Field := ⟨47, 32, .ro, 0⟩
def F.pwrStat_PIN : Field := ⟨31, 16, .ro, 0⟩
def F.pwrStat_OOR : Field := ⟨3, 3, .ro, 0⟩
def F.pwrStat_PEAK : Field := ⟨2, 2, .ro, 0⟩
def F.pwrStat_THERM : Field := ⟨1, 1, .ro, 0⟩
def F.pwrStat_LO_QUAL : Field := ⟨0, 0, .ro, 0⟩
def B.pwrStat : RegBlock := ⟨0x312000000, [], 0, [F.pwrStat_VIN, F.pwrStat_IIN, F.pwrStat_PIN, F.pwrStat_OOR, F.pwrStat_PEAK, F.pwrStat_THERM, F.pwrStat_LO_QUAL]⟩
/-- PWR.TEMP -/
def R.pwrTemp : Nat := 0x312000008
def F.pwrTemp_TJ_MAX : Field := ⟨63, 48, .ro, 0⟩
def F.pwrTemp_HOT_ISL : Field := ⟨47, 40, .ro, 0⟩
def F.pwrTemp_TJ_PEAK : Field := ⟨39, 24, .rc, 0⟩
def B.pwrTemp : RegBlock := ⟨0x312000008, [], 0, [F.pwrTemp_TJ_MAX, F.pwrTemp_HOT_ISL, F.pwrTemp_TJ_PEAK]⟩
/-- PWR.CNT -/
def R.pwrCnt : Nat := 0x312000010
def F.pwrCnt_UV_DIPS : Field := ⟨63, 48, .rc, 0⟩
def F.pwrCnt_OOR_EVENTS : Field := ⟨47, 32, .rc, 0⟩
def F.pwrCnt_PEAK_LIMIT : Field := ⟨31, 16, .rc, 0⟩
def F.pwrCnt_RAIL_EVENTS : Field := ⟨15, 0, .rc, 0⟩
def B.pwrCnt : RegBlock := ⟨0x312000010, [], 0, [F.pwrCnt_UV_DIPS, F.pwrCnt_OOR_EVENTS, F.pwrCnt_PEAK_LIMIT, F.pwrCnt_RAIL_EVENTS]⟩
/-- MB.EVENT -/
def R.mbMgrEvent : Nat := 0x100000000ff80
def F.mbMgrEvent_PAUSED : Field := ⟨5, 5, .w1c, 0⟩
def F.mbMgrEvent_EPOCH_FAIL : Field := ⟨4, 4, .w1c, 0⟩
def F.mbMgrEvent_RESET_DONE : Field := ⟨3, 3, .w1c, 0⟩
def F.mbMgrEvent_FAULT : Field := ⟨2, 2, .w1c, 0⟩
def F.mbMgrEvent_CPL : Field := ⟨0, 0, .w1c, 0⟩
def B.mbMgrEvent : RegBlock := ⟨0x100000000ff80, [], 0, [F.mbMgrEvent_PAUSED, F.mbMgrEvent_EPOCH_FAIL, F.mbMgrEvent_RESET_DONE, F.mbMgrEvent_FAULT, F.mbMgrEvent_CPL]⟩
/-- MB.FAULT_INFO -/
def R.mbMgrFaultInfo : Nat := 0x100000000ff88
def F.mbMgrFaultInfo_CLASS : Field := ⟨63, 56, .ro, 0⟩
def F.mbMgrFaultInfo_CODE : Field := ⟨55, 48, .ro, 0⟩
def F.mbMgrFaultInfo_CORE : Field := ⟨47, 42, .ro, 0⟩
def B.mbMgrFaultInfo : RegBlock := ⟨0x100000000ff88, [], 0, [F.mbMgrFaultInfo_CLASS, F.mbMgrFaultInfo_CODE, F.mbMgrFaultInfo_CORE]⟩
/-- MB.EVENT -/
def R.mbSliceEvent (i : Nat) : Nat := 0x1000000010f80 + i * 4096
def F.mbSliceEvent_PAUSED : Field := ⟨5, 5, .w1c, 0⟩
def F.mbSliceEvent_EPOCH_FAIL : Field := ⟨4, 4, .w1c, 0⟩
def F.mbSliceEvent_RESET_DONE : Field := ⟨3, 3, .w1c, 0⟩
def F.mbSliceEvent_FAULT : Field := ⟨2, 2, .w1c, 0⟩
def F.mbSliceEvent_CPL : Field := ⟨0, 0, .w1c, 0⟩
def B.mbSliceEvent : RegBlock := ⟨0x1000000010f80, [(256, 4096)], 0, [F.mbSliceEvent_PAUSED, F.mbSliceEvent_EPOCH_FAIL, F.mbSliceEvent_RESET_DONE, F.mbSliceEvent_FAULT, F.mbSliceEvent_CPL]⟩
/-- MB.FAULT_INFO -/
def R.mbSliceFaultInfo (i : Nat) : Nat := 0x1000000010f88 + i * 4096
def F.mbSliceFaultInfo_CLASS : Field := ⟨63, 56, .ro, 0⟩
def F.mbSliceFaultInfo_CODE : Field := ⟨55, 48, .ro, 0⟩
def F.mbSliceFaultInfo_CORE : Field := ⟨47, 42, .ro, 0⟩
def B.mbSliceFaultInfo : RegBlock := ⟨0x1000000010f88, [(256, 4096)], 0, [F.mbSliceFaultInfo_CLASS, F.mbSliceFaultInfo_CODE, F.mbSliceFaultInfo_CORE]⟩
/-- coreSample -/
def R.coreSample (i j : Nat) : Nat := 0x301008000 + i * 65536 + j * 8
def F.coreSample_WORD : Field := ⟨63, 0, .ro, 0⟩
def B.coreSample : RegBlock := ⟨0x301008000, [(64, 65536), (1024, 8)], 0, [F.coreSample_WORD]⟩
/-- hostAttn -/
def R.hostAttn (i : Nat) : Nat := 0x1000000120000 + i * 8
def F.hostAttn_BITS : Field := ⟨63, 0, .w1c, 0⟩
def B.hostAttn : RegBlock := ⟨0x1000000120000, [(4, 8)], 0, [F.hostAttn_BITS]⟩
/-- hostAttn4 -/
def R.hostAttn4 : Nat := 0x1000000120020
def F.hostAttn4_BITS : Field := ⟨2, 0, .w1c, 0⟩
def F.hostAttn4_NOT_READY : Field := ⟨3, 3, .ro, 1⟩
def B.hostAttn4 : RegBlock := ⟨0x1000000120020, [], 0, [F.hostAttn4_BITS, F.hostAttn4_NOT_READY]⟩
/-- hostAttn56 -/
def R.hostAttn56 (i : Nat) : Nat := 0x1000000120028 + i * 8
def B.hostAttn56 : RegBlock := ⟨0x1000000120028, [(2, 8)], 0, []⟩
/-- hostAttn7 -/
def R.hostAttn7 : Nat := 0x1000000120038
def F.hostAttn7_SEQ : Field := ⟨63, 32, .ro, 0⟩
def B.hostAttn7 : RegBlock := ⟨0x1000000120038, [], 0, [F.hostAttn7_SEQ]⟩
/-- fabPfx1 -/
def R.fabPfx1 : Nat := 0x30c000008
def F.fabPfx1_HI : Field := ⟨63, 0, .rwl, 0⟩
def B.fabPfx1 : RegBlock := ⟨0x30c000008, [], 2, [F.fabPfx1_HI]⟩
/-- fabPfx0 -/
def R.fabPfx0 : Nat := 0x30c000010
def F.fabPfx0_LO : Field := ⟨63, 16, .rwl, 0⟩
def B.fabPfx0 : RegBlock := ⟨0x30c000010, [], 2, [F.fabPfx0_LO]⟩
/-- secMr -/
def R.secMr (i j : Nat) : Nat := 0x311000100 + i * 64 + j * 8
def F.secMr_WORD : Field := ⟨63, 0, .ro, 0⟩
def B.secMr : RegBlock := ⟨0x311000100, [(8, 64), (8, 8)], 0, [F.secMr_WORD]⟩
/-- mbMgrHdr -/
def R.mbMgrHdr (i : Nat) : Nat := 0x1000000000000 + i * 8
def F.mbMgrHdr_WORD : Field := ⟨63, 0, .rw, 0⟩
def B.mbMgrHdr : RegBlock := ⟨0x1000000000000, [(4, 8)], 0, [F.mbMgrHdr_WORD]⟩
/-- mbMgrArg -/
def R.mbMgrArg (i : Nat) : Nat := 0x1000000000020 + i * 8
def F.mbMgrArg_WORD : Field := ⟨63, 0, .rw, 0⟩
def B.mbMgrArg : RegBlock := ⟨0x1000000000020, [(4092, 8)], 0, [F.mbMgrArg_WORD]⟩
/-- mbMgrRepHdr -/
def R.mbMgrRepHdr (i : Nat) : Nat := 0x1000000008000 + i * 8
def F.mbMgrRepHdr_WORD : Field := ⟨63, 0, .ro, 0⟩
def B.mbMgrRepHdr : RegBlock := ⟨0x1000000008000, [(4, 8)], 0, [F.mbMgrRepHdr_WORD]⟩
/-- mbMgrRepData -/
def R.mbMgrRepData (i : Nat) : Nat := 0x1000000008020 + i * 8
def F.mbMgrRepData_WORD : Field := ⟨63, 0, .ro, 0⟩
def B.mbMgrRepData : RegBlock := ⟨0x1000000008020, [(4076, 8)], 0, [F.mbMgrRepData_WORD]⟩
/-- mbMgrFaultTick -/
def R.mbMgrFaultTick : Nat := 0x100000000ff90
def F.mbMgrFaultTick_TICK : Field := ⟨63, 0, .ro, 0⟩
def B.mbMgrFaultTick : RegBlock := ⟨0x100000000ff90, [], 0, [F.mbMgrFaultTick_TICK]⟩
/-- mbMgrFaultHandle -/
def R.mbMgrFaultHandle : Nat := 0x100000000ff98
def F.mbMgrFaultHandle_HANDLE : Field := ⟨31, 0, .ro, 0⟩
def B.mbMgrFaultHandle : RegBlock := ⟨0x100000000ff98, [], 0, [F.mbMgrFaultHandle_HANDLE]⟩
/-- mbMgrRsvd -/
def R.mbMgrRsvd (i : Nat) : Nat := 0x100000000ffa0 + i * 8
def B.mbMgrRsvd : RegBlock := ⟨0x100000000ffa0, [(12, 8)], 0, []⟩
/-- mbSliceHdr -/
def R.mbSliceHdr (i j : Nat) : Nat := 0x1000000010000 + i * 4096 + j * 8
def F.mbSliceHdr_WORD : Field := ⟨63, 0, .rw, 0⟩
def B.mbSliceHdr : RegBlock := ⟨0x1000000010000, [(256, 4096), (4, 8)], 0, [F.mbSliceHdr_WORD]⟩
/-- mbSliceArg -/
def R.mbSliceArg (i j : Nat) : Nat := 0x1000000010020 + i * 4096 + j * 8
def F.mbSliceArg_WORD : Field := ⟨63, 0, .rw, 0⟩
def B.mbSliceArg : RegBlock := ⟨0x1000000010020, [(256, 4096), (252, 8)], 0, [F.mbSliceArg_WORD]⟩
/-- mbSliceRepHdr -/
def R.mbSliceRepHdr (i j : Nat) : Nat := 0x1000000010800 + i * 4096 + j * 8
def F.mbSliceRepHdr_WORD : Field := ⟨63, 0, .ro, 0⟩
def B.mbSliceRepHdr : RegBlock := ⟨0x1000000010800, [(256, 4096), (4, 8)], 0, [F.mbSliceRepHdr_WORD]⟩
/-- mbSliceRepData -/
def R.mbSliceRepData (i j : Nat) : Nat := 0x1000000010820 + i * 4096 + j * 8
def F.mbSliceRepData_WORD : Field := ⟨63, 0, .ro, 0⟩
def B.mbSliceRepData : RegBlock := ⟨0x1000000010820, [(256, 4096), (236, 8)], 0, [F.mbSliceRepData_WORD]⟩
/-- mbSliceFaultTick -/
def R.mbSliceFaultTick (i : Nat) : Nat := 0x1000000010f90 + i * 4096
def F.mbSliceFaultTick_TICK : Field := ⟨63, 0, .ro, 0⟩
def B.mbSliceFaultTick : RegBlock := ⟨0x1000000010f90, [(256, 4096)], 0, [F.mbSliceFaultTick_TICK]⟩
/-- mbSliceFaultHandle -/
def R.mbSliceFaultHandle (i : Nat) : Nat := 0x1000000010f98 + i * 4096
def F.mbSliceFaultHandle_HANDLE : Field := ⟨31, 0, .ro, 0⟩
def B.mbSliceFaultHandle : RegBlock := ⟨0x1000000010f98, [(256, 4096)], 0, [F.mbSliceFaultHandle_HANDLE]⟩
/-- mbSliceRsvd -/
def R.mbSliceRsvd (i j : Nat) : Nat := 0x1000000010fa0 + i * 4096 + j * 8
def B.mbSliceRsvd : RegBlock := ⟨0x1000000010fa0, [(256, 4096), (12, 8)], 0, []⟩

/-- The blocks of registers of the page 0x300 (address bits above 24). -/
def regPage300 : List RegBlock :=
  [B.gwIdent, B.gwLock]
/-- The blocks of registers of the page 0x301 (address bits above 24). -/
def regPage301 : List RegBlock :=
  [B.coreArrCfg, B.coreArrLat, B.coreArrRepair, B.coreArrStat, B.coreArrWeltErr, B.coreArrWeltCnt, B.coreSeqCfg, B.coreSeqStat] ++
  [B.coreSeqRadio, B.coreVecStat, B.coreCtxOwner, B.coreCtxPc, B.coreCtxFault, B.coreCtxTiles, B.coreCtxEvents, B.coreCtxConv] ++
  [B.corePmcCtl, B.corePmcVal, B.corePmcRange, B.corePmcSamp, B.corePmcSampStat, B.coreSample]
/-- The blocks of registers of the page 0x302 (address bits above 24). -/
def regPage302 : List RegBlock :=
  [B.memStat, B.memScrub, B.memEccCnt, B.memUeCtl, B.memUeLog0, B.memUeLog1, B.memKen, B.memCh]
/-- The blocks of registers of the page 0x304 (address bits above 24). -/
def regPage304 : List RegBlock :=
  [B.radioStat, B.radioCap, B.radioApply, B.radioSfn, B.radioCellStat, B.radioCellCnt]
/-- The blocks of registers of the page 0x305 (address bits above 24). -/
def regPage305 : List RegBlock :=
  [B.fhStat, B.fhPortCfg, B.fhPortCnt, B.fhGainTbl, B.fhCellAddr, B.fhCellId, B.fhCellWin, B.fhCellGain] ++
  [B.fhCellCnt, B.fhCellCnt2]
/-- The blocks of registers of the page 0x306 (address bits above 24). -/
def regPage306 : List RegBlock :=
  [B.dspStat, B.dspFault, B.dspCnt, B.dspCnt2]
/-- The blocks of registers of the page 0x307 (address bits above 24). -/
def regPage307 : List RegBlock :=
  [B.codeStat, B.codeEngStat, B.codeEngCnt, B.codeCellCfg, B.codeCellCnt]
/-- The blocks of registers of the page 0x308 (address bits above 24). -/
def regPage308 : List RegBlock :=
  [B.raCellCfg, B.raCellMsga, B.raCellCnt]
/-- The blocks of registers of the page 0x309 (address bits above 24). -/
def regPage309 : List RegBlock :=
  [B.timeCfg, B.timeStat, B.timeLatch, B.timeLSec, B.timeLNs, B.timeLFr, B.timeLTick, B.timeServo] ++
  [B.timeHold, B.timeBound, B.timePps, B.timeFreq, B.timeCnt, B.timeCnt2, B.timePortAsym]
/-- The blocks of registers of the page 0x30a (address bits above 24). -/
def regPage30a : List RegBlock :=
  [B.lastStat, B.lastPeriod, B.lastBtick, B.lastSwap, B.lastPwr, B.lastPwr2, B.lastCnt, B.lastCnt2]
/-- The blocks of registers of the page 0x1000000 (address bits above 24). -/
def regPage1000000 : List RegBlock :=
  [B.hostAttnCfg, B.hostBar2, B.hostDma, B.hostLink, B.hostBoot, B.mbMgrEvent, B.mbMgrFaultInfo, B.mbSliceEvent] ++
  [B.mbSliceFaultInfo, B.hostAttn, B.hostAttn4, B.hostAttn56, B.hostAttn7, B.mbMgrHdr, B.mbMgrArg, B.mbMgrRepHdr] ++
  [B.mbMgrRepData, B.mbMgrFaultTick, B.mbMgrFaultHandle, B.mbMgrRsvd, B.mbSliceHdr, B.mbSliceArg, B.mbSliceRepHdr, B.mbSliceRepData] ++
  [B.mbSliceFaultTick, B.mbSliceFaultHandle, B.mbSliceRsvd]
/-- The blocks of registers of the page 0x30b (address bits above 24). -/
def regPage30b : List RegBlock :=
  [B.sliceStat, B.sliceViol, B.sliceEpoch, B.sliceMb]
/-- The blocks of registers of the page 0x30c (address bits above 24). -/
def regPage30c : List RegBlock :=
  [B.fabCfg, B.fabTmr, B.fabCred, B.fabStat, B.fabCnt, B.fabCnt2, B.fabEngRing, B.fabEngIdx] ++
  [B.fabEngStat, B.fabRgn0, B.fabRgn1, B.fabRgn2, B.fabRgn3, B.fabPfx1, B.fabPfx0]
/-- The blocks of registers of the page 0x30d (address bits above 24). -/
def regPage30d : List RegBlock :=
  [B.repHoundCfg, B.repHoundStat, B.repHoundMisStep, B.repHoundMisTile, B.repHoundMisWhere, B.repHoundMisLdig, B.repHoundMisPdig, B.repHoundCnt] ++
  [B.repCore, B.repSliceStep, B.repSliceChoice, B.repSliceLaunch]
/-- The blocks of registers of the page 0x30e (address bits above 24). -/
def regPage30e : List RegBlock :=
  [B.healthCfg, B.healthW, B.healthNocopy, B.healthUnitMod, B.healthUnitCh, B.healthUnitLane, B.healthUnitCore, B.healthUnitArr]
/-- The blocks of registers of the page 0x30f (address bits above 24). -/
def regPage30f : List RegBlock :=
  [B.gpmcCtl, B.gpmcVal, B.gpmcRange]
/-- The blocks of registers of the page 0x310 (address bits above 24). -/
def regPage310 : List RegBlock :=
  [B.recStat, B.recCnt, B.recCnt2, B.recCfg]
/-- The blocks of registers of the page 0x311 (address bits above 24). -/
def regPage311 : List RegBlock :=
  [B.secStat, B.secCnt, B.secMr]
/-- The blocks of registers of the page 0x312 (address bits above 24). -/
def regPage312 : List RegBlock :=
  [B.pwrStat, B.pwrTemp, B.pwrCnt]

/-- The blocks whose page holds the address (R114, R286). -/
def regPage (a : Nat) : List RegBlock :=
  match a / 0x1000000 with
  | 0x300 => regPage300
  | 0x301 => regPage301
  | 0x302 => regPage302
  | 0x304 => regPage304
  | 0x305 => regPage305
  | 0x306 => regPage306
  | 0x307 => regPage307
  | 0x308 => regPage308
  | 0x309 => regPage309
  | 0x30a => regPage30a
  | 0x30b => regPage30b
  | 0x30c => regPage30c
  | 0x30d => regPage30d
  | 0x30e => regPage30e
  | 0x30f => regPage30f
  | 0x310 => regPage310
  | 0x311 => regPage311
  | 0x312 => regPage312
  | _ => if a < 0x1000000000000 then [] else regPage1000000

/-- The register map's entry for an address; none: no register map lists it (R115). -/
def regDesc (a : Nat) : Option RegBlock := (regPage a).find? (fun b => b.hit a)

/-- FH.GAIN_TBL codes: round(2^16 * 10^(0.075 k)), k = 0..28 (R177, R182). -/
def gainCode (k : Nat) : Nat :=
  [65536, 77890, 92572, 110022, 130762, 155410, 184706, 219523, 260904, 310084, 368536, 438006, 520571, 618700, 735326, 873937, 1038676, 1234468, 1467168, 1743733, 2072430, 2463088, 2927386, 3479204, 4135042, 4914507, 5840902, 6941925, 8250494].getD k 0

/-- Reset values that differ by index: GCODE (R182), the manager's and the radio partition's SLICE.STAT (R321). -/
def regResetSpecial (a : Nat) : Option Nat :=
  if 0x305000800 ≤ a ∧ a < 0x305000800 + 29 * 8 then
    some (gainCode ((a - 0x305000800) / 8) * 2 ^ 16 + 196 * 2 ^ 8 + 160)
  else if a = 0x30b000000 + 256 * 64 ∨ a = 0x30b000000 + 257 * 64 then some (1 * 2 ^ 60 + 1 * 2 ^ 57)
  else none

/-- The value of a register after a module reset, fuses aside (R7). -/
def regReset (a : Nat) : Word :=
  match regResetSpecial a with
  | some v => BitVec.ofNat 64 v
  | none => match regDesc a with
    | some b => BitVec.ofNat 64 b.rst
    | none => 0

/-- The bits of a register that hold a value: those of its fields, write-only ones aside (R4); the others are reserved (R8). -/
def regMask (a : Nat) : Word :=
  match regDesc a with
  | some b => BitVec.ofNat 64 b.mask
  | none => 0

/-- The bits [hi:lo] of a word as a number. -/
def Field.get (f : Field) (w : Word) : Nat := (w.toNat / 2 ^ f.lo) % 2 ^ (f.hi + 1 - f.lo)

/-- The word with [hi:lo] replaced; a value too wide keeps its low bits. -/
def Field.put (f : Field) (w : Word) (v : Nat) : Word :=
  (w &&& ~~~(BitVec.ofNat 64 f.mask)) ||| BitVec.ofNat 64 ((v % 2 ^ (f.hi + 1 - f.lo)) * 2 ^ f.lo)

/-- The largest value of a field, at which a saturating count stops. -/
def Field.max (f : Field) : Nat := 2 ^ (f.hi + 1 - f.lo) - 1

end Sys2Proof.Machine
end

