-- ==== Sys2Proof/Machine/Map.lean ====
section
/-! DEFINITION. Sparse maps: a list of (key, value) with keys strictly rising and no value equal to what an unlisted key reads as, so
that equal maps are equal lists. -/

namespace Sys2Proof.Machine

variable {α : Type}

/-- The value at k; `d` gives what an unlisted key reads as. -/
def Map.get (d : Nat → α) : List (Nat × α) → Nat → α
  | [], k => d k
  | (j, v) :: r, k => if k < j then d k else if k = j then v else Map.get d r k

/-- The map with k holding v; the default is not listed. -/
def Map.set [DecidableEq α] (d : Nat → α) : List (Nat × α) → Nat → α → List (Nat × α)
  | [], k, v => if v = d k then [] else [(k, v)]
  | (j, w) :: r, k, v =>
    if k < j then (if v = d k then (j, w) :: r else (k, v) :: (j, w) :: r)
    else if k = j then (if v = d k then r else (k, v) :: r)
    else (j, w) :: Map.set d r k v

/-- Every key in [lo, hi) returns to the default. -/
def Map.clear (m : List (Nat × α)) (lo hi : Nat) : List (Nat × α) := m.filter fun e => e.1 < lo || hi ≤ e.1

/-- The entries with keys in [lo, lo + n), shifted to start at 0: a snapshot of a range. -/
def Map.slice (m : List (Nat × α)) (lo n : Nat) : List (Nat × α) :=
  (m.filter fun e => lo ≤ e.1 && e.1 < lo + n).map fun e => (e.1 - lo, e.2)

/-- Keys above `lo` (none: no bound), rising, no default listed. -/
def Map.wfAbove [DecidableEq α] (d : Nat → α) : Option Nat → List (Nat × α) → Bool
  | _, [] => true
  | lo, (j, v) :: r =>
    (match lo with | some l => decide (l < j) | none => true) && decide (v ≠ d j) && Map.wfAbove d (some j) r

/-- The canonical form. -/
def Map.wf [DecidableEq α] (d : Nat → α) (m : List (Nat × α)) : Bool := Map.wfAbove d none m

theorem Map.wfAbove_weaken [DecidableEq α] {d : Nat → α} {a b : Nat} (h : a ≤ b) {m : List (Nat × α)}
    (w : Map.wfAbove d (some b) m = true) : Map.wfAbove d (some a) m = true := by
  cases m with
  | nil => rfl
  | cons e r =>
    simp only [Map.wfAbove, Bool.and_eq_true, decide_eq_true_eq] at w ⊢
    exact ⟨⟨by omega, w.1.2⟩, w.2⟩

theorem Map.wfAbove_none [DecidableEq α] {d : Nat → α} {b : Option Nat} {m : List (Nat × α)}
    (w : Map.wfAbove d b m = true) : Map.wfAbove d none m = true := by
  cases m with
  | nil => rfl
  | cons e r =>
    simp only [Map.wfAbove, Bool.and_eq_true] at w ⊢
    exact ⟨⟨trivial, w.1.2⟩, w.2⟩

theorem Map.set_wfAbove [DecidableEq α] {d : Nat → α} (k : Nat) (v : α) :
    ∀ {m : List (Nat × α)} {lo : Option Nat}, (∀ l, lo = some l → l < k) → Map.wfAbove d lo m = true →
      Map.wfAbove d lo (Map.set d m k v) = true := by
  intro m
  induction m with
  | nil =>
    intro lo hlo _
    unfold Map.set
    by_cases hv : v = d k
    · simp [hv, Map.wfAbove]
    · cases lo with
      | none => simp [hv, Map.wfAbove]
      | some l => simp [hv, Map.wfAbove, hlo l rfl]
  | cons e r ih =>
    obtain ⟨j, w⟩ := e
    intro lo hlo h
    have hp := h
    simp only [Map.wfAbove, Bool.and_eq_true, decide_eq_true_eq] at hp
    unfold Map.set
    by_cases h1 : k < j
    · by_cases hv : v = d k
      · simp [h1, hv, h]
      · simp only [h1, hv, if_true, if_false]
        simp only [Map.wfAbove, Bool.and_eq_true, decide_eq_true_eq]
        refine ⟨⟨?_, hv⟩, ⟨h1, hp.1.2⟩, hp.2⟩
        cases lo with
        | none => trivial
        | some l => simpa using hlo l rfl
    · by_cases h2 : k = j
      · subst h2
        by_cases hv : v = d k
        · simp only [hv, if_true, Nat.lt_irrefl, if_false]
          cases lo with
          | none => exact Map.wfAbove_none hp.2
          | some l => exact Map.wfAbove_weaken (Nat.le_of_lt (hlo l rfl)) hp.2
        · simp only [hv, if_true, if_false, Nat.lt_irrefl]
          simp only [Map.wfAbove, Bool.and_eq_true, decide_eq_true_eq]
          exact ⟨⟨hp.1.1, hv⟩, hp.2⟩
      · simp only [h1, h2, if_false]
        simp only [Map.wfAbove, Bool.and_eq_true, decide_eq_true_eq]
        exact ⟨hp.1, ih (fun l hl => by cases hl; omega) hp.2⟩

/-- Setting keeps the canonical form. -/
theorem Map.set_wf [DecidableEq α] {d : Nat → α} {m : List (Nat × α)} (k : Nat) (v : α) (h : Map.wf d m = true) :
    Map.wf d (Map.set d m k v) = true :=
  Map.set_wfAbove k v (fun _ hl => by cases hl) h

theorem Map.filter_wfAbove [DecidableEq α] {d : Nat → α} (p : Nat × α → Bool) :
    ∀ {m : List (Nat × α)} {lo : Option Nat}, Map.wfAbove d lo m = true → Map.wfAbove d lo (m.filter p) = true := by
  intro m
  induction m with
  | nil => intro lo h; exact h
  | cons e r ih =>
    obtain ⟨j, w⟩ := e
    intro lo h
    simp only [Map.wfAbove, Bool.and_eq_true, decide_eq_true_eq] at h
    by_cases hp : p (j, w)
    · simp only [List.filter_cons, hp, if_true, Map.wfAbove, Bool.and_eq_true, decide_eq_true_eq]
      exact ⟨h.1, ih h.2⟩
    · simp only [List.filter_cons, hp]
      have h2 := ih h.2
      cases lo with
      | none => exact Map.wfAbove_none h2
      | some l => exact Map.wfAbove_weaken (Nat.le_of_lt (by simpa using h.1.1)) h2

/-- Clearing a range keeps the canonical form. -/
theorem Map.clear_wf [DecidableEq α] {d : Nat → α} {m : List (Nat × α)} (lo hi : Nat) (h : Map.wf d m = true) :
    Map.wf d (Map.clear m lo hi) = true := Map.filter_wfAbove _ h

/-- No listed register holds a bit outside its fields (R8). -/
def regsInMask (m : List (Nat × Word)) : Bool := m.all fun e => e.2 &&& ~~~ regMask e.1 == 0

theorem and_mask_in (v m : Word) : (v &&& m) &&& ~~~m = 0 := by
  ext i
  simp

theorem regsInMask_set (m : List (Nat × Word)) (k : Nat) (v : Word) (h : regsInMask m = true) :
    regsInMask (Map.set regReset m k (v &&& regMask k)) = true := by
  have hk : ((v &&& regMask k) &&& ~~~ regMask k == 0) = true := by simp [and_mask_in]
  induction m with
  | nil =>
    unfold Map.set
    split
    · rfl
    · simpa [regsInMask] using hk
  | cons e r ih =>
    obtain ⟨j, w⟩ := e
    simp only [regsInMask, List.all_cons, Bool.and_eq_true] at h ih
    unfold Map.set
    by_cases h1 : k < j
    · by_cases hv : v &&& regMask k = regReset k
      · simp only [h1, hv, if_true, regsInMask, List.all_cons, Bool.and_eq_true]; exact h
      · simp only [h1, hv, if_true, if_false, regsInMask, List.all_cons, Bool.and_eq_true]; exact ⟨hk, h⟩
    · by_cases h2 : k = j
      · subst h2
        by_cases hv : v &&& regMask k = regReset k
        · simp only [hv, if_true, if_false, Nat.lt_irrefl, regsInMask]; exact h.2
        · simp only [hv, if_true, if_false, Nat.lt_irrefl, regsInMask, List.all_cons, Bool.and_eq_true]; exact ⟨hk, h.2⟩
      · simp only [h1, h2, if_false, regsInMask, List.all_cons, Bool.and_eq_true]; exact ⟨h.1, ih h.2⟩

theorem regsInMask_clear {m : List (Nat × Word)} (lo hi : Nat) (h : regsInMask m = true) :
    regsInMask (Map.clear m lo hi) = true := by
  simp only [regsInMask, Map.clear, List.all_eq_true] at h ⊢
  intro e he
  exact h e (List.mem_filter.mp he).1

/-- Reading back: the entry set reads as set, every other key as before. -/
theorem Map.get_above [DecidableEq α] {d : Nat → α} {k : Nat} :
    ∀ {m : List (Nat × α)}, Map.wfAbove d (some k) m = true → Map.get d m k = d k := by
  intro m h
  cases m with
  | nil => rfl
  | cons e r =>
    simp only [Map.wfAbove, Bool.and_eq_true, decide_eq_true_eq] at h
    simp [Map.get, h.1.1]

theorem Map.get_set [DecidableEq α] {d : Nat → α} (k j : Nat) (v : α) :
    ∀ {m : List (Nat × α)} {lo : Option Nat}, Map.wfAbove d lo m = true →
      Map.get d (Map.set d m k v) j = if j = k then v else Map.get d m j := by
  intro m
  induction m with
  | nil =>
    intro lo _
    unfold Map.set
    by_cases hv : v = d k
    · by_cases hj : j = k <;> simp [hv, hj, Map.get]
    · by_cases hj : j = k
      · simp [hv, hj, Map.get]
      · simp only [hv, if_false, Map.get, hj]; split <;> rfl
  | cons e r ih =>
    obtain ⟨i, w⟩ := e
    intro lo h
    simp only [Map.wfAbove, Bool.and_eq_true, decide_eq_true_eq] at h
    unfold Map.set
    by_cases h1 : k < i
    · by_cases hv : v = d k
      · simp only [h1, hv, if_true]
        by_cases hj : j = k
        · subst hj; simp [Map.get, h1]
        · simp [hj]
      · simp only [h1, hv, if_true, if_false]
        by_cases hj : j = k
        · subst hj; simp [Map.get]
        · by_cases hlt : j < k
          · simp [Map.get, hj, hlt, Nat.lt_trans hlt h1]
          · simp [Map.get, hj, hlt]
    · by_cases h2 : k = i
      · subst h2
        by_cases hv : v = d k
        · simp only [hv, if_true, if_false, Nat.lt_irrefl]
          by_cases hj : j = k
          · subst hj; simp [Map.get_above h.2]
          · simp only [hj, if_false, Map.get]
            by_cases hlt : j < k
            · simp only [hlt, if_true]
              exact Map.get_above (Map.wfAbove_weaken (Nat.le_of_lt hlt) h.2)
            · simp [hlt]
        · simp only [hv, if_true, if_false, Nat.lt_irrefl]
          by_cases hj : j = k
          · subst hj; simp [Map.get]
          · simp [Map.get, hj]
      · simp only [h1, h2, if_false, Map.get]
        by_cases hlt : j < i
        · have : j ≠ k := by omega
          simp [hlt, this]
        · by_cases he : j = i
          · have : j ≠ k := by omega
            simp [he]
            intro hk; omega
          · simp only [hlt, he, if_false]
            exact ih h.2

end Sys2Proof.Machine
end

