-- ==== Sys2Proof/Machine/State.lean ====
section
/-! DEFINITION. The state of the OM7460, plain data: every register of the register maps lives in `regs` (by address), and
the stores, queues and firmware tables that the spec gives the module beside its registers in the other fields. A field
`List (Nat × α)` is a sparse map in canonical form (keys rising, no entry equal to the default). -/

namespace Sys2Proof.Machine

/-- The reasons a step stops with a fault. No command of the OM7460 raises one: a fault of the spec (R31) is a partition reset,
a next state (NOTES.md, '## Stops'). -/
inductive Fault where
  /-- kept for the interface; raised by nothing; safe -/
  | halted
deriving DecidableEq, Repr

/-- The reasons a step is refused. -/
inductive Refusal where
  /-- an arm of exec that has no meaning yet; safe -/
  | notModelled (mnemonic : String)
deriving DecidableEq, Repr

/-- A launch in flight (R309). -/
structure Launch where
  handle : Nat
  kind : Nat
  tag : Nat
  notify : Bool
  cpl : Nat
  pasidIdx : Nat
  /-- contexts started and not yet ended (kinds 1 and 3) -/
  cores : List Nat
  doneCnt : Nat
  kenMib : Nat
  lpMib : Nat
  /-- choice bearing: the result is marked non-reproducible (R353) -/
  nonrep : Bool
  /-- arguments kept for a later step (pause, checkpoint, mode change, list, barrier) -/
  args : List Nat
deriving DecidableEq, Repr

/-- A command list being performed (R311). -/
structure ListJob where
  handle : Nat
  addr : Nat
  nent : Nat
  stopOnErr : Bool
  replyAddr : Nat
  next : Nat
  pasidIdx : Nat
  /-- status of the entry performed last -/
  last : Nat
deriving DecidableEq, Repr

/-- A partition's resources and firmware state (R298, R303, R309), beside its registers. Index: partition code. -/
structure PartSt where
  /-- bit 4c + a -/
  arrays : Nat
  /-- bit 32k + u -/
  ken : Nat
  /-- bit 512d + g -/
  lp : Nat
  rtv : Nat
  ctr : Nat
  quota : Nat
  seed : Nat
  /-- valid segment entries: index, word 0, word 1 (R135) -/
  segs : List (Nat × Nat × Nat)
  /-- bound PASIDs by PASID_IDX (R308) -/
  pasids : List (Nat × Nat)
  nextHandle : Nat
  launches : List Launch
  lists : List ListJob
  /-- DPA of the sync area (R121) -/
  syncBase : Nat
  /-- a pause or a checkpoint is pending (R318) -/
  pauseReq : Bool
  /-- streams held at a step boundary by a pending epoch (R317): units that have reported -/
  epochHold : Bool
  /-- step report: enabled, entries, ring, PASID index (R391) -/
  srEn : Bool
  srSize : Nat
  srRing : Nat
  srIdx : Nat
  /-- tick of the previous step boundary; counts of the step for the report -/
  stepTick : Nat
  srOverruns : Nat
  srPwrHold : Nat
  srReruns : Nat
  /-- a choice event since the previous image (R366) -/
  choiceSince : Bool
  /-- stitch in which a PWR_HOLD was last counted for the slice, plus one (R392) -/
  lastPwrHold : Nat
  /-- the reset in progress is a manager's (R314) -/
  resetMgr : Bool
deriving DecidableEq, Repr

/-- A health unit's event inputs of the current second and its falling-back count (R389, R390), beside HEALTH.UNIT. -/
structure HealthSt where
  ev0 : Nat
  ev1 : Nat
  ev2 : Nat
  ev3 : Nat
  cntL : Nat
deriving DecidableEq, Repr

/-- The Leash of one record code (R415). -/
structure LeashSt where
  rate : Nat
  burst : Nat
  tokens : Nat
  supp : Nat
deriving DecidableEq, Repr

/-- A snapshot trigger (R419, R421). -/
structure TrigSt where
  code : Nat
  nval : Nat
  addrs : List Nat
  tseq : Nat
  /-- firings whose snapshot is still to be taken -/
  due : Nat
deriving DecidableEq, Repr

/-- A staged record (R418): second of arrival, its word 0 without DSEC, payload. -/
structure Staged where
  hours : Nat
  part : Nat
  src : Nat
  code : Nat
  payload : List Word
deriving DecidableEq, Repr

/-- The recorder beside its registers (R410-R418). -/
structure RecSt where
  /-- HOURS of the governing time record; none: the next record needs one first -/
  timeHours : Option Nat
  staged : List Staged
  /-- REC attention already raised by ORD_FULL -/
  ordAttn : Bool
  /-- seconds at which the freeze began -/
  frzStart : Nat
  /-- the log is being erased -/
  clearCounts : List Word
deriving DecidableEq, Repr

/-- The attention path (R292, R293): a write and its flush in progress, what that write held, a further write owed, the wish for
RB_N, the pin, the 1 us hold. -/
structure AttnSt where
  busy : Bool
  wrote : Bool
  again : Bool
  want : Bool
  rbLow : Bool
  hold : Bool
deriving DecidableEq, Repr

/-- The clock of the model (R15, log 1): core cycles of 0.5 ns since the alignment edge; the HOURS value
of this power-up at that edge, and PCYC (R411). -/
structure Clk where
  cyc : Nat
  hoursBase : Nat
  pcyc : Nat
deriving DecidableEq, Repr

/-- Errors standing in one 64-bit word of SEC-DED memory (R118, R378): flipped bits (0-63 data, 64-71 check) and an address
mismatch. -/
structure WordErr where
  flips : BitVec 72
  addr : Bool
deriving DecidableEq, Repr

/-- A bank of an array (R70, R99): its tag and a snapshot of the block, scales and sidecar words loaded into it. -/
structure BankSt where
  /-- owner, FMT_W, W_ADDR, WS_ADDR, SC_ADDR, SCALE_W, SIDECAR -/
  tag : List Nat
  w : List (Nat × Byte)
  ws : List (Nat × Byte)
  sc : List (Nat × Byte)
deriving DecidableEq, Repr

/-- Progress of a resole (R59): the wide pass and half-pass that runs, and the column sums and counts of the passes already run. -/
structure PassSt where
  pass : Nat
  half : Nat
  sums : List Int
  sat : Nat
  spec : Nat
  /-- array of the last committed run -/
  arr : Nat
deriving DecidableEq, Repr

/-- A tile that has been dispatched and has not committed, or waits to be dispatched again. -/
structure TileRun where
  core : Nat
  ctx : Nat
  part : Nat
  /-- place in the program order of its stream -/
  seq : Nat
  /-- the eight words of its descriptor (R93) -/
  words : List Nat
  /-- run of R81, 1 to 3 -/
  run : Nat
  arrFirst : Nat
  suspect : Bool
  resHit : Bool
  overruns : Nat
  /-- core cycle of dispatch, and of the end of its leftover run -/
  dispCyc : Nat
  endCyc : Nat
  /-- core cycle in which the first beat of each row injected so far enters, in row order (R65, R67) -/
  entry : List Nat
  /-- it commits padded (R69, R88); fixed when its first beat enters -/
  pad : Bool
  /-- anchor of the tile (R48), fixed when its first beat enters -/
  anchor : Int
  /-- 0: no load needed or load begun; 1: waits for its load -/
  load : Nat
  /-- step counter of its slice at dispatch -/
  step : Nat
  /-- what the A-feeder read: streamed rows and their scales, by byte from A_ADDR and AS_ADDR -/
  rows : List (Nat × Byte)
  scales : List (Nat × Byte)
  /-- the bank it multiplies by, as loaded -/
  bank : BankSt
  pass : Option PassSt
  /-- discarded; waits to be re-run (1, R81), for its next wide pass (2, R59) or to be replayed (3, R73, R275) -/
  again : Nat
deriving DecidableEq, Repr

/-- One array: its banks, its uncommitted tiles (oldest first), the owner of its last tile (R72), the stitch through whose end a
radio re-run closed its leftover window (R152; period and stitch, none: open), whether that re-run has still to commit; the core cycle
from which the next beat may enter, and from which a beat of each bank may, the cycle after its load starts (R67, R71). -/
structure ArrSt where
  bank0 : BankSt
  bank1 : BankSt
  tiles : List TileRun
  lastPart : Option Nat
  closed : Option (Nat × Nat)
  rerun : Bool
  nextBeat : Nat
  from0 : Nat
  from1 : Nat
deriving DecidableEq, Repr

/-- An outstanding move (R103): owner address, first core-store line, length in bytes, direction; its place in program order and the
address of its entry. -/
structure MoveSt where
  toStore : Bool
  addr : Nat
  line : Nat
  len : Nat
  seq : Nat
  pc : Nat
deriving DecidableEq, Repr

/-- A status record that waits for earlier writes of its stream (R102, R132). -/
structure StatJob where
  part : Nat
  seq : Nat
  words : List Nat
  arith : Nat
  welt : Nat
  csat : Nat
  cspec : Nat
  tick : Nat
  overruns : Nat
deriving DecidableEq, Repr

/-- A stream context (R91): what it is doing besides its registers. -/
structure CtxSt where
  /-- tile entry that passed the load check and waits for dispatch -/
  cur : Option (List Nat)
  /-- sync wait: index and threshold (R109) -/
  wait : Option (Nat × Nat)
  /-- vector instructions of the bundle not yet issued -/
  bundle : List Nat
  /-- standing at a mark with STEP_END; its step boundary has not passed yet (R111) -/
  atMark : Bool
  stepEnd : Bool
  /-- next place in program order -/
  seq : Nat
  /-- moves issued and not complete, oldest first -/
  moves : List MoveSt
  /-- launch the program belongs to; 0 none (the radio's programs) -/
  handle : Nat
  /-- ctx_stop without IMMEDIATE is pending -/
  stopPend : Bool
  /-- tick at which the stream came to its STEP_END mark -/
  markTick : Nat
  /-- discarded tiles that wait for their next run, in program order, the one that caused the clear first (R73) -/
  redo : List TileRun
  /-- cells the radio context's program serves (R155) -/
  cells : List Nat
  /-- status records to be written once earlier moves out of the core store are performed, oldest first (R132) -/
  stats : List StatJob
deriving DecidableEq, Repr

/-- A committed tile that waits for its conversion (R102). -/
structure ConvJob where
  ctx : Nat
  part : Nat
  words : List Nat
  arith : Nat
  welt : Nat
  tick : Nat
  overruns : Nat
  anchor : Int
  step : Nat
  seq : Nat
deriving DecidableEq, Repr

/-- A signal issued and not yet performed at the atomic unit (R109): partition, index, who issued it, the cells its job serves (for a
Retriever engine, its number); the identity of the job that issued it, or for a stream its place in program order; the address of the
entry that issued it. -/
structure SigJob where
  part : Nat
  idx : Nat
  by_ : Requester
  cells : List Nat
  id : Nat
  pc : Nat
deriving DecidableEq, Repr

/-- The Last's entry for one stitch (R266): a set bit gives the group to the radio. -/
structure StitchEnt where
  arr : Nat
  eng : Nat
  dsp : Nat
  evCount : Nat
  evFirst : Nat
deriving DecidableEq, Repr

/-- A copy of the Last: stitch entries that differ from all-leftover, and its event list as 64-bit words (R267). -/
structure LastCopy where
  ents : List (Nat × StitchEnt)
  events : List (Nat × Word)
deriving DecidableEq, Repr

/-- A stored HARQ entry of a cell (R215, R216): key, NDI and RV of the transmission that wrote it, its blocks' stored values in the
cell's HQ_FMT, slots since it was written. -/
structure HarqEnt where
  rnti : Nat
  hid : Nat
  ndi : Nat
  rv : Nat
  bufs : List (List Int)
  age : Nat
deriving DecidableEq, Repr

/-- A landed PRB line (R168): twelve resource elements, GSTEP, FLAGS (bit 0 MISSING, bit 1 SAT). -/
structure LineSt where
  re : List (Int × Int)
  gstep : Nat
  flags : Nat
deriving DecidableEq, Repr

/-- A PRB held in the ingress buffer until its symbol is landed (R170): slot, symbol, section type, number, line. -/
structure HeldPrb where
  esn : Nat
  sym : Nat
  sec : Nat
  prb : Nat
  line : LineSt
deriving DecidableEq, Repr

/-- Time-domain samples held for a symbol (R174): slot, symbol, first sample, samples. -/
structure TdRange where
  esn : Nat
  sym : Nat
  off : Nat
  samples : List (Int × Int)
  /-- a sample was saturated on decompression (R167, R168) -/
  sat : Bool
deriving DecidableEq, Repr

/-- A detection kept until its report is written (R231, R233, R235): the fields of its record, its metric power ratio aside. -/
structure RaDet where
  preamble : Nat
  det : Nat
  fmt : Nat
  flags : Nat
  delay : Nat
  pwr : Int
  metric : Nat
  ta : Nat
  handle : Nat
deriving DecidableEq, Repr

/-- A searched occasion that awaits its report (R234, R235); `rep` is the slot in which it ends. -/
structure RaOcc where
  cfg : Nat
  esn : Nat
  sym : Nat
  raIdx : Nat
  rep : Nat
  flags : Nat
  noise : Int
  streams : Nat
  dets : List RaDet
deriving DecidableEq, Repr

/-- A slot of a cell between its fetch and its indications (R147, R148): whether its request block was present and the cell running at
the fetch, the messages fetched and those not yet handled, the indications formed, outputs withheld by a cell reset, transport
blocks failed by a recovery entry (R171); the payloads fetched by address,
as the place in Kennel and the length of each; time-domain symbols ready for egress; the beamforming weights its D5 stage uses: the slot
whose SRS they come from, plus one (0: none; R153). -/
structure SlotSt where
  esn : Nat
  present : Bool
  run : Bool
  msgs : List (Nat × List Byte)
  todo : List (Nat × List Byte)
  inds : List (Nat × List Byte)
  withheld : Bool
  cut : Bool
  payload : List (Nat × Nat)
  td : List (Nat × Nat × List (Int × Int))
  emitted : Bool
  wset : Nat
deriving DecidableEq, Repr

/-- An uplink stream of a cell in the fronthaul: gain step and dwell count, DC means in 2^-16 (R176-R178), what is held in the ingress
buffer, symbols already landed or closed (R170). -/
structure StreamSt where
  gstep : Nat
  dwell : Nat
  dcI : Int
  dcQ : Int
  held : List HeldPrb
  td : List TdRange
  landed : List (Nat × Nat)
  closed : List (Nat × Nat)
deriving DecidableEq, Repr

/-- An applied cell beside its registers (R142-R149). -/
structure CellSt where
  /-- the eight words of its record, then the words of its TDD pattern (R270); empty: not applied -/
  rcd : List Nat
  /-- slots fetched from now on run -/
  running : Bool
  /-- STOP.request came with this slot, which has not ended yet; for a cell that an apply removed or replaced, its last slot -/
  stopAfter : Option Nat
  slots : List SlotSt
  /-- indication blocks written: position in the ring, ESN, GEN -/
  blocks : List (Nat × Nat × Nat)
  hq : List HarqEnt
  /-- HARQ units of its pool (R217) -/
  pool : Nat
  /-- register values latched at its apply: CODE.CELL.CFG, RA.CELL.CFG0, CFG1, MSGA, FH.CELL.ADDR, ID, WIN, GAIN -/
  cfg : List Word
  /-- gain thresholds latched at its apply: UP_THR and DN_THR of each step (R179) -/
  gains : List (Int × Int)
  streams : List (Nat × StreamSt)
  ra : List RaOcc
  /-- next msgA handle, and the detections whose decode is outstanding: handle, preamble, delay (R233, R235) -/
  raH : Nat
  raTry : List (Nat × Nat × Nat)
  /-- where its data begins in the carve-out (R121, R168) -/
  base : Nat
  /-- coding cluster of its random-access work (R226) -/
  cluster : Nat
  /-- SN time in ns of the boundary at which an apply removed or replaced it (R143, R171) -/
  leftAt : Option Nat
  /-- beamforming weights in use: the slot whose SRS they come from, plus one (R153) -/
  wset : Nat
  /-- slot in which the cell was last reset, and in which R158 last stopped ingress (R238) -/
  raCut : Option Nat
  raStop : Option Nat
deriving DecidableEq, Repr

/-- A code block of a job: its entry, its index in the TB, its engine, its soft buffer, and its result (R210). -/
structure CodeBlk where
  ent : Nat
  idx : Nat
  eng : Nat
  llr : List Int
  done : Bool
  iters : Nat
  stop : Nat
  spilled : Bool
  pass : Bool
  bits : List Nat
deriving DecidableEq, Repr

/-- A coding job being worked on (R212, R221). -/
structure CodeJob where
  words : List Nat
  radio : Bool
  stat : Nat
  ents : List (List Nat)
  engines : List Nat
  main : List Nat
  spill : List Nat
  blocks : List CodeBlk
  cells : List Nat
  /-- input of each entry; HQ_NEW and HQ_MISS of each decode entry -/
  inputs : List (List Byte)
  flags : List (Bool × Bool)
  /-- in step 1 of R221: its wait is not satisfied yet, nothing of its input has been read -/
  waiting : Bool
  /-- step 4 of R221 has begun -/
  writing : Bool
  endTick : Nat
deriving DecidableEq, Repr

/-- A loaded neural receiver (R154, R155): number, Kennel units, bytes, its header and call table as words. -/
structure NrxSt where
  n : Nat
  units : List Nat
  len : Nat
  calls : List (Nat × Nat)
  workKib : Nat
  codeOff : Nat
  codeLen : Nat
  flags : Nat
deriving DecidableEq, Repr

/-- A cell_apply between its checks and its boundary (R143): LAST.PERIOD value, the new set, units of the new carve-out; registers as
latched for each cell added or replaced, and the gain thresholds copied for them (R179, R182, R225, R227). -/
structure ApplySt where
  period : Nat
  recs : List (List Nat)
  units : List Nat
  lent : List Nat
  reserveW : Nat
  regs : List (Nat × List Word)
  gains : List (Int × Int)
deriving DecidableEq, Repr

/-- The radio partition beside its registers (R142-R155). -/
structure RadioSt where
  staged : List (List Nat)
  pend : Option ApplySt
  nrxs : List NrxSt
  /-- Kennel units of the carve-out: 32 k + u (R121) -/
  units : List Nat
  /-- those of them that one compute die supplies for the demand of the other (R121) -/
  lent : List Nat
  /-- SN time in ns from which emission resumes after a step (R158); none: not waiting -/
  resume : Option Nat
deriving DecidableEq, Repr

/-- A foreign master on the slave port (R240). -/
structure MasterSt where
  id : Nat
  clockClass : Nat
  rank : Nat
  /-- what its Announce says of the grandmaster: stepsRemoved, and the fields that the profile passes on (R259) -/
  steps : Nat
  gm : List Nat
deriving DecidableEq, Repr

/-- The time unit beside its registers (R245-R257, R470). Fractions of a nanosecond stand in the exponents named. -/
structure TimeSt where
  /-- OFFSET in 2^-40 ns, and FR_REF in ns (R246) -/
  off : Int
  frRef : Nat
  /-- SN clock in 2^-40 ns as it stood at tick snTick (R247) -/
  sn : Int
  snTick : Nat
  /-- integral term I in 2^-80 (R470; log 27) -/
  integ : Int
  /-- previous accepted sample: offset, and its t2 on the corrected reading, in 2^-17 ns -/
  prev : Option (Int × Int)
  /-- deviations of samples rejected in a row under the step bound, latest first, in 2^-97 ns -/
  rej : List Int
  /-- samples counted toward LOCK_N -/
  lock : Nat
  /-- the step of R252 is due at the next tick; the recovery of R254 likewise, with its offset in ns -/
  wantStep : Bool
  wantRec : Option Int
  masters : List MasterSt
  sel : Option Nat
  /-- sequenceId of the last accepted Sync -/
  lastSeq : Option Nat
  /-- two-step Sync waiting for its Follow_Up: sequenceId, t2, correction, tick -/
  sync : Option (Nat × Int × Int × Nat)
  /-- t1 with corrections and t2 of the last complete Sync, in 2^-16 ns, and FR at t2 -/
  t12 : Option (Int × Int × Nat)
  /-- next sequenceId, and the outstanding Delay_Req: sequenceId, t3, tick -/
  dseq : Nat
  dreq : Option (Nat × Int × Nat)
  /-- spans of LOCKED at one RATE since the step, newest first: ticks and RATE; tick at which the open span began (R255) -/
  hist : List (Nat × Int)
  spanFrom : Nat
  lossTick : Nat
  /-- 1PPS input: last accepted edge or candidate, edges accepted in a row, edges missing or discarded in a row, the second that the
  next accepted edge names (R245, R319) -/
  ppsAt : Option Nat
  ppsRun : Nat
  ppsBad : Nat
  ppsSec : Option Nat
  /-- recovered SyncE clock and 10 MHz input present and within 12 ppm; tick at which the DPLL last lost its reference (R243, R244) -/
  syncePres : Bool
  dpllLoss : Option Nat
  /-- ports that still owe an event PDU for the last QL change (R244) -/
  qlOwed : List Nat
  /-- tick at which the 1PPS output pulse in progress rose (R245) -/
  ppsUp : Option Nat
deriving DecidableEq, Repr

/-- The Last and the power controller beside their registers (R266-R281). -/
structure LastSt where
  active : LastCopy
  shadow : LastCopy
  /-- core cycle in which the current stitch began -/
  stitchCyc : Nat
  /-- token bucket, in 1/600 nJ (R280) -/
  bucket : Nat
  /-- an admission of this stitch waited for credit -/
  pwrHold : Bool
  /-- fenced arrays whose radio positions are moved (R276) -/
  subst : List Nat
  /-- fenced arrays that the next rebuilt copy leaves out (R277) -/
  rebuild : List Nat
  /-- THERM_PCT and CAP_W that take effect at the boundary after the next (R281, R23) -/
  nextCap : Option Nat
  nextTherm : Option Nat
  /-- RADIO.SFN.OFF_MS in effect (R262) -/
  offMs : Nat
  /-- arrays that were the radio's in the stitch before this one: bit 4c + a (R270) -/
  prevArr : Nat
  /-- LDPC decoders fenced in this period, whose loss the budgets do not show yet (R223) -/
  newFence : List Nat
deriving DecidableEq, Repr

/-- An address generator (R187, R190). -/
structure AgSt where
  base : Nat
  idx : Nat
  step : Int
  mod : Nat
  mode : Nat
  mem : Nat
deriving DecidableEq, Repr

/-- A hardware loop in progress (R192): iterations left, first and last bundle. -/
structure LoopSt where
  count : Nat
  first : Nat
  last : Nat
deriving DecidableEq, Repr

/-- The architectural registers of a DSP (R187); an entry that a list does not reach is zero. Loops and return addresses stand
innermost first. -/
structure DspRegs where
  d : List (List Int)
  acc : List (List Int)
  s : List Nat
  ag : List AgSt
  loops : List LoopSt
  rets : List Nat
  sat : Bool
  satcnt : Nat
  ovf : Bool
  wrapf : Bool
deriving DecidableEq, Repr

/-- A job on a DSP (R193-R195). `phase`: 0 in steps 1 and 2, 1 the program runs, 2 END has issued. -/
structure DspJob where
  words : List Nat
  radio : Bool
  stat : Nat
  cells : List Nat
  moves : List (Nat × Nat)
  dispCyc : Nat
  endCyc : Nat
  phase : Nat
  endTick : Nat
  /-- core cycle in which END issued -/
  endAt : Nat
  retries : Nat
deriving DecidableEq, Repr

/-- A DSP beside its registers of R203: what the bundle in issue read at its start, the slots of it performed, the registers it has
written, where it goes next (8192: END), the owner whose data X and Y hold (0 none), the body in the loop cache. -/
structure DspSt where
  regs : DspRegs
  snap : Option DspRegs
  done : Nat
  wrote : List (Nat × Nat)
  pc : Nat
  jump : Option Nat
  job : Option DspJob
  prevId : Nat
  lastOwner : Nat
  held : Option (Nat × Nat)
deriving DecidableEq, Repr

/-- A manager job that an overrun aborted and that waits to be dispatched again, from its wait on (R198, R224): the group of DSPs, or
4 x cluster + KIND - 7; its descriptor, its status area, the cells it names. -/
structure HeldJob where
  place : Nat
  words : List Nat
  stat : Nat
  cells : List Nat
deriving DecidableEq, Repr

/-- A ring entry taken by an engine and not retired (R326-R331): its slice address, its words, whether it has been sent (a FENCE:
reached), is done; a FENCE keeps the highest PSN sent on each connection. -/
structure EngEnt where
  slot : Nat
  words : List Nat
  sent : Bool
  done : Bool
  fence : List (Nat × Nat)
  /-- node and PSN it was sent with -/
  node : Nat
  psn : Nat
deriving DecidableEq, Repr

/-- A Retriever engine beside its registers: entries taken, in ring order; the highest PSN it has sent on each connection. -/
structure EngSt where
  ents : List EngEnt
  last : List (Nat × Nat)
deriving DecidableEq, Repr

/-- A request in the transmit pool (R335). -/
structure OutReq where
  psn : Nat
  eng : Nat
  slot : Nat
  op : Nat
  nores : Bool
  fva : Nat
  key : Nat
  len : Nat
  opnd0 : Nat
  opnd1 : Nat
  payload : List Byte
  units : Nat
  attempt : Nat
  acked : Bool
  /-- response needed and not yet here -/
  rspDue : Bool
  wrap : Bool
  /-- its slice was reset: the response is discarded (R343) -/
  dead : Bool
deriving DecidableEq, Repr

/-- The connection with one peer node, both directions (R333-R336). -/
structure ConnSt where
  /-- source side: SYN sent and not answered; open -/
  synSent : Bool
  txOpen : Bool
  nextPsn : Nat
  cumAck : Nat
  used : Nat
  lim : Nat
  out : List OutReq
  /-- target side -/
  rxOpen : Bool
  peerInc : Nat
  rxCum : Nat
  /-- PSNs above rxCum already performed: bit i is rxCum + 1 + i -/
  rxMap : Nat
  /-- stored old values: PSN, bytes, WRAP (R334) -/
  olds : List (Nat × Nat × Bool)
  /-- cumulative credit granted, units received -/
  grant : Nat
  rcvd : Nat
  /-- CREDIT_LIM as last sent -/
  told : Nat
  /-- flag-stores waiting for lower PSNs (R330) -/
  held : List FabReq
deriving DecidableEq, Repr

/-- An armed launch barrier of a slice (R358-R361). -/
structure BarSt where
  armed : Bool
  barId : Nat
  master : Bool
  nmod : Nat
  sigIdx : Nat
  masterNode : Nat
  delayNs : Nat
  fallback : Nat
  handle : Nat
  /-- open instant on this module's SN clock, 0.25 ns; none: not known yet -/
  openAt : Option Nat
  /-- RELEASE to give to late duplicates: T_REL -/
  tRel : Option Nat
  /-- the addition to SIG_IDX was made ahead of the open instant: the waits that it satisfies are held (R360) -/
  ahead : Bool
deriving DecidableEq, Repr

/-- An ARRIVE held by the master (R359): barrier, member node, T1, T2, tick of arrival. -/
structure ArriveSt where
  barId : Nat
  node : Nat
  t1 : Nat
  t2 : Nat
  tick : Nat
deriving DecidableEq, Repr

/-- A Hound unit beside its registers (R371-R374): unmatched local and peer records, those not yet acknowledged with their
sequence numbers, next sequence number to send and expected, latest steps of both sides, second a record last came. -/
structure HoundSt where
  loc : List HoundRec
  peer : List HoundRec
  unacked : List (Nat × HoundRec)
  nextSeq : Nat
  rxSeq : Nat
  locStep : Nat
  peerStep : Nat
  lastTick : Nat
  /-- keys already matched, for DUPKEY: step, TILE_ID, side -/
  seen : List (Nat × Nat × Bool)
deriving DecidableEq, Repr

/-- A record at the die-pair comparator (R384): slice, key, die, digest, tick of commit. -/
structure PairRec where
  slice : Nat
  step : Nat
  tileId : Nat
  ord : Nat
  die : Nat
  digest : Word
  tick : Nat
deriving DecidableEq, Repr

/-- A dump ring (R405): owner, space, address, size, period, dumps left, next SEQ, next tick, launch handle, MISSED. -/
structure DumpSt where
  active : Bool
  part : Nat
  addr : Nat
  size : Nat
  periodUs : Nat
  left : Nat
  seq : Nat
  nextTick : Nat
  handle : Nat
  pasidIdx : Nat
  lastSeq : Nat
  missed : Nat
deriving DecidableEq, Repr

/-- Start-up, resets, supplies and the security block beside their registers (R382, R402, R423-R457). -/
structure SysSt where
  /-- LO_IN qualified before, and input qualified at 40.0 V (R452, R455) -/
  inOk : Bool
  /-- cause of the input fault being held (R456) -/
  fault : Option Nat
  /-- cause of the warm reset that is under way: 1-4 of R443; none: no warm reset -/
  warm : Option Nat
  /-- the boot ROM is done; steps 3-10 of R437 are still to run with this report -/
  bring : Option StartReport
  /-- reset protocol failures of this start (R438) -/
  proto : Nat
  /-- level of PERST_N as accepted: asserted -/
  perst : Bool
  /-- recovery image loaded and not cleared by a module reset (R447) -/
  recImg : Option (List Byte)
  /-- Uhlile: tick of its last lock-step mismatch; halted and restarting (R382) -/
  uhMis : Option Nat
  uhDown : Bool
  /-- supply events of cores and rail events of dies within the last second: unit and tick (R381, R457) -/
  supply : List (Nat × Nat)
  rails : List (Nat × Nat)
  /-- reports signed since module reset (R430); firmware version words; the retirement map and the images as measured at this start -/
  reports : Nat
  vers : List Nat
  mapAt : Nat
  /-- a failed unit of this start-up owes MGR (R440) -/
  owed : Bool
  /-- an erase was cut short by a reset (R445) -/
  eraseCut : Bool
  /-- odd counters latched by a read of their even counter: address and value (R402) -/
  latch : List (Nat × Nat)
  /-- ports whose link is up, by first lane (R345) -/
  ports : List Nat
deriving DecidableEq, Repr

/-- What the module sends out or answers. Newest first in `emitted`. -/
inductive Emit where
  /-- value returned by a register or mailbox read -/
  | regRead (who addr : Nat) (v : Word)
  /-- data or error response to a memory read -/
  | memRead (req : Requester) (data : List Byte) (err : Bool)
  | memWrote (req : Requester) (err : Bool)
  /-- an atomic's old value, WRAP, error response -/
  | atomic (req : Requester) (old : Nat) (wrap err : Bool)
  /-- Completer Abort of a BAR2 read (R130) -/
  | completerAbort
  /-- an Ethernet frame: kind of the chapter that sends it, port, header words, payload -/
  | frame (kind port : Nat) (hdr : List Nat) (payload : List Byte)
  /-- an answer over DOE (R433) -/
  | doe (data : List Byte)
  /-- an edge on an output pin: 0 PPS_OUT, 1 PWR_FLT_N, 2 RB_N -/
  | pin (which : Nat) (level : Bool)
  /-- reply data of a command written at OUT_ADDR in the model's terms -/
  | note (code : Nat) (vals : List Nat)
deriving DecidableEq, Repr

/-- Fuses, written at test and never changed in the field (R3, R74, R426, R429): variant, the debug-enable fuse, per-array repair words
(index 4c + a, layout of CORE.ARR.REPAIR). The grade is P with the debug-enable fuse clear and E with it set (R2): one fuse is both. -/
structure Fuse where
  variant : Nat
  debug : Bool
  repair : List (Nat × Word)
deriving DecidableEq, Repr

/-- On-module flash outside the log (R388, R411, R446): soft retirement map (608 bits), HOURS and PCYC as stored, the
incarnation count (R333), the boot image slots' state. -/
structure Flash where
  retire : Nat
  hours : Nat
  pcyc : Nat
  incarn : Nat
deriving DecidableEq, Repr

/-- The state of the module. -/
structure State where
  /-- device registers and BAR0 words by address (R4, R114, R286) -/
  regs : List (Nat × Word)
  /-- Kennel and LPDDR5X bytes by DPA (R114) -/
  mem : List (Nat × Byte)
  /-- errors standing in SEC-DED words, by DPA / 8 (R118, R378) -/
  errs : List (Nat × WordErr)
  /-- symbol errors standing in LPDDR5X lines, by DPA / 64: 16 bits for each codeword position (R125) -/
  lpErr : List (Nat × Nat)
  /-- recent uncorrectable lines of a channel with the second they were met in (R129) -/
  chUe : List (Nat × List (Nat × Nat))
  /-- host memory by PASID * 2^64 + address; PASID 2^20: none (R285) -/
  host : List (Nat × Byte)
  /-- core-store bytes, by core * 2^22 + offset (R89, R114) -/
  store : List (Nat × Byte)
  /-- accumulators, by (core * 1024 + line) * 128 + column (R46, R89) -/
  acc : List (Nat × L128)
  /-- recorded anchors, by core * 1024 + line (R49) -/
  anchors : List (Nat × Option Int)
  /-- core-store lines by core * 65536 + line: 1 pending, 2 pending-failed (R103) -/
  pend : List (Nat × Nat)
  /-- vector register lanes, by (core * 32 + register) * 64 + lane (R89) -/
  vreg : List (Nat × Nat)
  /-- stream contexts, by core * 8 + context (R91) -/
  ctxs : List (Nat × CtxSt)
  /-- arrays, by 4 * core + array (R61-R73) -/
  arrs : List (Nat × ArrSt)
  /-- partitions, by partition code (R137, R298) -/
  parts : List (Nat × PartSt)
  /-- stream context that used the vector unit of a core last, by core (R108) -/
  vecTurn : List (Nat × Nat)
  /-- health event inputs, by KIND * 1024 + index (R389) -/
  health : List (Nat × HealthSt)
  /-- the Leash, by record code (R415) -/
  leash : List (Nat × LeashSt)
  /-- snapshot triggers 0-15 (R419) -/
  trigs : List (Nat × TrigSt)
  /-- the record log in flash, by word (R410) -/
  log : List (Nat × Word)
  /-- bytes of the log charged to a slice (R416) -/
  recUsed : List (Nat × Nat)
  /-- records of a slice dropped by quota (R416, R421) -/
  recDrop : List (Nat × Nat)
  /-- Retriever engines 0-31 (R326) -/
  engs : List (Nat × EngSt)
  /-- fabric connections, by peer node (R333) -/
  conns : List (Nat × ConnSt)
  /-- launch barriers, by slice (R358) -/
  bars : List (Nat × BarSt)
  /-- Hound units 0-7 (R371) -/
  hounds : List (Nat × HoundSt)
  /-- committed tiles since the last sample, by core (R403) -/
  samp : List (Nat × Nat)
  /-- cells, by cell context (R142) -/
  cells : List (Nat × CellSt)
  /-- coding jobs, by 4 * cluster + KIND - 7 (R212) -/
  cjobs : List (Nat × Option CodeJob)
  /-- DSPs 0-95 (R187, R195) -/
  dsps : List (Nat × DspSt)
  /-- X and Y words of 32 bits, by (2 * DSP + memory) * 65536 + word (R183) -/
  dspMem : List (Nat × Nat)
  /-- slots of P, by DSP * 32768 + 4 * bundle + slot (R188) -/
  dspP : List (Nat × Nat)
  /-- fenced random-access detectors 0-7 (R236, R237) -/
  dets : List (Nat × Bool)
  /-- dump rings 0-32 (R405) -/
  dumps : List (Nat × DumpSt)
  /-- the clock of the model (R15, R411) -/
  clk : Clk
  /-- the recorder (R410-R418) -/
  recd : RecSt
  /-- the attention path (R292) -/
  attn : AttnSt
  /-- the PCIe link is up (R283, R296) -/
  linkOn : Bool
  /-- the module is failed (R387) -/
  failed : Bool
  /-- channels of CD0 that the LPDDR5X mapping of this start uses, ascending (R124) -/
  lpAct0 : List Nat
  /-- channels of CD1 likewise -/
  lpAct1 : List Nat
  /-- signals issued and not performed (R109) -/
  sigq : List SigJob
  /-- conversions waiting for the vector unit of a core (R102) -/
  convq : List (Nat × ConvJob)
  /-- on-module flash outside the log (R388, R411) -/
  flash : Flash
  /-- ARRIVEs held by the master, oldest first (R359) -/
  arrives : List ArriveSt
  /-- manager DSP jobs that wait to be dispatched again, oldest first (R198) -/
  held : List HeldJob
  /-- manager coding jobs likewise (R224) -/
  heldCode : List HeldJob
  /-- records of PAIRED slices not yet matched (R384) -/
  pairs : List PairRec
  /-- the radio partition (R142-R155) -/
  radio : RadioSt
  /-- the time unit (R240-R260) -/
  time : TimeSt
  /-- the Last and the power controller (R266-R281) -/
  last : LastSt
  /-- start-up, supplies, security (R382, R423-R457) -/
  sys : SysSt
  /-- count of free values taken; the model's own (log 9) -/
  free : Nat
  /-- what the module sent out, newest first -/
  emitted : List Emit
  /-- fuses (R3, R74) -/
  fuse : Fuse
  /-- commands waiting, first in first out -/
  pending : List Instr
deriving DecidableEq, Repr

/-- The module right after reset: registers at their reset values (every sparse map empty), NOT_READY set (R293, R294), start-up not
yet run. Values the spec does not give are named in the assumption log (log 3, log 4, log 6). -/
def State.reset : State where
  regs := []
  mem := []
  errs := []
  lpErr := []
  chUe := []
  host := []
  store := []
  acc := []
  anchors := []
  pend := []
  vreg := []
  ctxs := []
  arrs := []
  parts := []
  vecTurn := []
  health := []
  leash := []
  trigs := []
  log := []
  recUsed := []
  recDrop := []
  engs := []
  conns := []
  bars := []
  hounds := []
  samp := []
  cells := []
  cjobs := []
  dsps := []
  dspMem := []
  dspP := []
  dets := []
  dumps := []
  clk := ⟨0, 0, 0⟩
  recd := ⟨none, [], false, 0, []⟩
  attn := ⟨false, false, false, true, true, false⟩
  linkOn := false
  failed := false
  lpAct0 := []
  lpAct1 := []
  sigq := []
  convq := []
  flash := ⟨0, 0, 0, 0⟩
  arrives := []
  held := []
  heldCode := []
  pairs := []
  radio := ⟨[], none, [], [], [], none⟩
  time := ⟨0, 0, 0, 0, 0, none, [], 0, false, none, [], none, none, none, none, 0, none, [], 0, 0, none, 0, 0, none, false, none, [], none⟩
  last := ⟨⟨[], []⟩, ⟨[], []⟩, 0, 0, false, [], [], none, none, 0, 0, []⟩
  sys := ⟨false, none, none, none, 0, false, none, none, false, [], [], 0, [], 0, false, false, [], []⟩
  free := 0
  emitted := []
  fuse := ⟨0, false, []⟩
  pending := []

end Sys2Proof.Machine
end

