-- ==== Sys2Proof/Machine/Prims.lean ====
section
/-! DEFINITION. Well-formed states, what every command keeps, and the primitive actions from which every meaning is built: each
primitive carries the proof that it keeps the canonical forms, the queue and the fuses, so every meaning keeps them. -/

namespace Sys2Proof.Machine


/-- What an unlisted entry of `mem` reads as. -/
def dfltMem (_ : Nat) : Byte := 0
/-- What an unlisted entry of `errs` reads as. -/
def dfltErrs (_ : Nat) : WordErr := ⟨0, false⟩
/-- What an unlisted entry of `lpErr` reads as. -/
def dfltLpErr (_ : Nat) : Nat := 0
/-- What an unlisted entry of `chUe` reads as. -/
def dfltChUe (_ : Nat) : List (Nat × Nat) := []
/-- What an unlisted entry of `host` reads as. -/
def dfltHost (_ : Nat) : Byte := 0
/-- What an unlisted entry of `store` reads as. -/
def dfltStore (_ : Nat) : Byte := 0
/-- What an unlisted entry of `acc` reads as. -/
def dfltAcc (_ : Nat) : L128 := 0
/-- What an unlisted entry of `anchors` reads as. -/
def dfltAnchors (_ : Nat) : Option Int := none
/-- What an unlisted entry of `pend` reads as. -/
def dfltPend (_ : Nat) : Nat := 0
/-- What an unlisted entry of `vreg` reads as. -/
def dfltVreg (_ : Nat) : Nat := 0
/-- What an unlisted entry of `ctxs` reads as. -/
def dfltCtxs (_ : Nat) : CtxSt := ⟨none, none, [], false, false, 0, [], 0, false, 0, [], [], []⟩
/-- What an unlisted entry of `arrs` reads as. -/
def dfltArrs (_ : Nat) : ArrSt := ⟨⟨[], [], [], []⟩, ⟨[], [], [], []⟩, [], none, none, false, 0, 0, 0⟩
/-- What an unlisted entry of `parts` reads as. -/
def dfltParts (_ : Nat) : PartSt := ⟨0, 0, 0, 0, 0, 0, 0, [], [], 1, [], [], 0, false, false, false, 0, 0, 0, 0, 0, 0, 0, false, 0, false⟩
/-- What an unlisted entry of `vecTurn` reads as. -/
def dfltVecTurn (_ : Nat) : Nat := 3
/-- What an unlisted entry of `health` reads as. -/
def dfltHealth (_ : Nat) : HealthSt := ⟨0, 0, 0, 0, 0⟩
/-- What an unlisted entry of `leash` reads as. -/
def dfltLeash (_ : Nat) : LeashSt := ⟨10, 32, 32, 0⟩
/-- What an unlisted entry of `trigs` reads as. -/
def dfltTrigs (_ : Nat) : TrigSt := ⟨0xFFFF, 0, [], 0, 0⟩
/-- What an unlisted entry of `log` reads as. -/
def dfltLog (_ : Nat) : Word := 0xFFFFFFFFFFFFFFFF
/-- What an unlisted entry of `recUsed` reads as. -/
def dfltRecUsed (_ : Nat) : Nat := 0
/-- What an unlisted entry of `recDrop` reads as. -/
def dfltRecDrop (_ : Nat) : Nat := 0
/-- What an unlisted entry of `engs` reads as. -/
def dfltEngs (_ : Nat) : EngSt := ⟨[], []⟩
/-- What an unlisted entry of `conns` reads as. -/
def dfltConns (_ : Nat) : ConnSt := ⟨false, false, 1, 0, 0, 0, [], false, 0, 0, 0, [], 0, 0, 0, []⟩
/-- What an unlisted entry of `bars` reads as. -/
def dfltBars (_ : Nat) : BarSt := ⟨false, 0, false, 0, 0, 0, 0, 0, 0, none, none, false⟩
/-- What an unlisted entry of `hounds` reads as. -/
def dfltHounds (_ : Nat) : HoundSt := ⟨[], [], [], 0, 0, 0, 0, 0, []⟩
/-- What an unlisted entry of `samp` reads as. -/
def dfltSamp (_ : Nat) : Nat := 0
/-- What an unlisted entry of `cells` reads as. -/
def dfltCells (_ : Nat) : CellSt := ⟨[], false, none, [], [], [], 0, [], [], [], [], 0, [], 0, 0, none, 0, none, none⟩
/-- What an unlisted entry of `cjobs` reads as. -/
def dfltCjobs (_ : Nat) : Option CodeJob := none
/-- What an unlisted entry of `dsps` reads as. -/
def dfltDsps (_ : Nat) : DspSt := ⟨⟨[], [], [], [], [], [], false, 0, false, false⟩, none, 0, [], 0, none, none, 0, 0, none⟩
/-- What an unlisted entry of `dspMem` reads as. -/
def dfltDspMem (_ : Nat) : Nat := 0
/-- What an unlisted entry of `dspP` reads as. -/
def dfltDspP (_ : Nat) : Nat := 0
/-- What an unlisted entry of `dets` reads as. -/
def dfltDets (_ : Nat) : Bool := false
/-- What an unlisted entry of `dumps` reads as. -/
def dfltDumps (_ : Nat) : DumpSt := ⟨false, 0, 0, 0, 0, 0, 0, 0, 0, 0, 0, 0⟩

/-- Every sparse map of the state is in canonical form, and no register holds a bit outside its fields (R8). -/
structure State.Wf (s : State) : Prop where
  regs : Map.wf regReset s.regs = true
  mem : Map.wf dfltMem s.mem = true
  errs : Map.wf dfltErrs s.errs = true
  lpErr : Map.wf dfltLpErr s.lpErr = true
  chUe : Map.wf dfltChUe s.chUe = true
  host : Map.wf dfltHost s.host = true
  store : Map.wf dfltStore s.store = true
  acc : Map.wf dfltAcc s.acc = true
  anchors : Map.wf dfltAnchors s.anchors = true
  pend : Map.wf dfltPend s.pend = true
  vreg : Map.wf dfltVreg s.vreg = true
  ctxs : Map.wf dfltCtxs s.ctxs = true
  arrs : Map.wf dfltArrs s.arrs = true
  parts : Map.wf dfltParts s.parts = true
  vecTurn : Map.wf dfltVecTurn s.vecTurn = true
  health : Map.wf dfltHealth s.health = true
  leash : Map.wf dfltLeash s.leash = true
  trigs : Map.wf dfltTrigs s.trigs = true
  log : Map.wf dfltLog s.log = true
  recUsed : Map.wf dfltRecUsed s.recUsed = true
  recDrop : Map.wf dfltRecDrop s.recDrop = true
  engs : Map.wf dfltEngs s.engs = true
  conns : Map.wf dfltConns s.conns = true
  bars : Map.wf dfltBars s.bars = true
  hounds : Map.wf dfltHounds s.hounds = true
  samp : Map.wf dfltSamp s.samp = true
  cells : Map.wf dfltCells s.cells = true
  cjobs : Map.wf dfltCjobs s.cjobs = true
  dsps : Map.wf dfltDsps s.dsps = true
  dspMem : Map.wf dfltDspMem s.dspMem = true
  dspP : Map.wf dfltDspP s.dspP = true
  dets : Map.wf dfltDets s.dets = true
  dumps : Map.wf dfltDumps s.dumps = true
  regBits : regsInMask s.regs = true

/-- What every action of the module keeps: well-formedness, the queue, the fuses. -/
structure Keeps (s t : State) : Prop where
  wf : s.Wf → t.Wf
  pending : t.pending = s.pending
  fuse : t.fuse = s.fuse

theorem Keeps.refl (s : State) : Keeps s s := ⟨id, rfl, rfl⟩

theorem Keeps.trans {s t u : State} (a : Keeps s t) (b : Keeps t u) : Keeps s u :=
  ⟨fun h => b.wf (a.wf h), b.pending.trans a.pending, b.fuse.trans a.fuse⟩

/-- An action: a change of state with the proof of what it keeps. -/
structure Act where
  run : State → State
  ok : ∀ s, Keeps s (run s)

/-- Nothing happens. -/
def Act.skip : Act := ⟨id, Keeps.refl⟩

/-- One action after another. -/
def Act.seq (a b : Act) : Act := ⟨fun s => b.run (a.run s), fun s => (a.ok s).trans (b.ok _)⟩

/-- The actions in order. -/
def Act.all : List Act → Act
  | [] => .skip
  | a :: r => a.seq (Act.all r)

/-- An action chosen by looking at the state. -/
def Act.get (f : State → Act) : Act := ⟨fun s => (f s).run s, fun s => (f s).ok s⟩

/-- An action under a condition; else nothing. -/
def Act.when (b : Bool) (a : Act) : Act := if b then a else .skip

/-- One of two actions. -/
def Act.ite (b : Bool) (a c : Act) : Act := if b then a else c

/-- An action for each element, in order. -/
def Act.each {α : Type} (l : List α) (f : α → Act) : Act := Act.all (l.map f)

/-- Outcome of a command. -/
abbrev Out := Host.Outcome State Fault Refusal

/-- A meaning: the action taken, a next state. -/
def Act.out (s : State) (a : Act) : Out := .next (a.run s)

/-- device registers and BAR0 words by address (R4, R114, R286): entry k. -/
def State.regsAt (s : State) (k : Nat) : Word := Map.get regReset s.regs k
/-- A register takes a value, reserved bits aside (R8). -/
def Act.setRegs (k : Nat) (v : Word) : Act where
  run s := { s with regs := Map.set regReset s.regs k (v &&& regMask k) }
  ok _ := ⟨fun h => { h with regs := Map.set_wf _ _ h.regs, regBits := regsInMask_set _ _ _ h.regBits }, rfl, rfl⟩
/-- Kennel and LPDDR5X bytes by DPA (R114): entry k. -/
def State.memAt (s : State) (k : Nat) : Byte := Map.get dfltMem s.mem k
def Act.setMem (k : Nat) (v : Byte) : Act where
  run s := { s with mem := Map.set dfltMem s.mem k v }
  ok _ := ⟨fun h => { h with mem := Map.set_wf _ _ h.mem }, rfl, rfl⟩
def Act.modMem (k : Nat) (g : Byte → Byte) : Act := .get fun s => .setMem k (g (s.memAt k))
/-- Every entry of `mem` in [lo, hi) returns to the default. -/
def Act.clearMem (lo hi : Nat) : Act where
  run s := { s with mem := Map.clear s.mem lo hi }
  ok _ := ⟨fun h => { h with mem := Map.clear_wf _ _ h.mem }, rfl, rfl⟩
/-- errors standing in SEC-DED words, by DPA / 8 (R118, R378): entry k. -/
def State.errsAt (s : State) (k : Nat) : WordErr := Map.get dfltErrs s.errs k
def Act.setErrs (k : Nat) (v : WordErr) : Act where
  run s := { s with errs := Map.set dfltErrs s.errs k v }
  ok _ := ⟨fun h => { h with errs := Map.set_wf _ _ h.errs }, rfl, rfl⟩
def Act.modErrs (k : Nat) (g : WordErr → WordErr) : Act := .get fun s => .setErrs k (g (s.errsAt k))
/-- Every entry of `errs` in [lo, hi) returns to the default. -/
def Act.clearErrs (lo hi : Nat) : Act where
  run s := { s with errs := Map.clear s.errs lo hi }
  ok _ := ⟨fun h => { h with errs := Map.clear_wf _ _ h.errs }, rfl, rfl⟩
/-- symbol errors standing in LPDDR5X lines, by DPA / 64: 16 bits for each codeword position (R125): entry k. -/
def State.lpErrAt (s : State) (k : Nat) : Nat := Map.get dfltLpErr s.lpErr k
def Act.setLpErr (k : Nat) (v : Nat) : Act where
  run s := { s with lpErr := Map.set dfltLpErr s.lpErr k v }
  ok _ := ⟨fun h => { h with lpErr := Map.set_wf _ _ h.lpErr }, rfl, rfl⟩
def Act.modLpErr (k : Nat) (g : Nat → Nat) : Act := .get fun s => .setLpErr k (g (s.lpErrAt k))
/-- Every entry of `lpErr` in [lo, hi) returns to the default. -/
def Act.clearLpErr (lo hi : Nat) : Act where
  run s := { s with lpErr := Map.clear s.lpErr lo hi }
  ok _ := ⟨fun h => { h with lpErr := Map.clear_wf _ _ h.lpErr }, rfl, rfl⟩
/-- recent uncorrectable lines of a channel with the second they were met in (R129): entry k. -/
def State.chUeAt (s : State) (k : Nat) : List (Nat × Nat) := Map.get dfltChUe s.chUe k
def Act.setChUe (k : Nat) (v : List (Nat × Nat)) : Act where
  run s := { s with chUe := Map.set dfltChUe s.chUe k v }
  ok _ := ⟨fun h => { h with chUe := Map.set_wf _ _ h.chUe }, rfl, rfl⟩
def Act.modChUe (k : Nat) (g : List (Nat × Nat) → List (Nat × Nat)) : Act := .get fun s => .setChUe k (g (s.chUeAt k))
/-- Every entry of `chUe` in [lo, hi) returns to the default. -/
def Act.clearChUe (lo hi : Nat) : Act where
  run s := { s with chUe := Map.clear s.chUe lo hi }
  ok _ := ⟨fun h => { h with chUe := Map.clear_wf _ _ h.chUe }, rfl, rfl⟩
/-- host memory by PASID * 2^64 + address; PASID 2^20: none (R285): entry k. -/
def State.hostAt (s : State) (k : Nat) : Byte := Map.get dfltHost s.host k
def Act.setHost (k : Nat) (v : Byte) : Act where
  run s := { s with host := Map.set dfltHost s.host k v }
  ok _ := ⟨fun h => { h with host := Map.set_wf _ _ h.host }, rfl, rfl⟩
def Act.modHost (k : Nat) (g : Byte → Byte) : Act := .get fun s => .setHost k (g (s.hostAt k))
/-- Every entry of `host` in [lo, hi) returns to the default. -/
def Act.clearHost (lo hi : Nat) : Act where
  run s := { s with host := Map.clear s.host lo hi }
  ok _ := ⟨fun h => { h with host := Map.clear_wf _ _ h.host }, rfl, rfl⟩
/-- core-store bytes, by core * 2^22 + offset (R89, R114): entry k. -/
def State.storeAt (s : State) (k : Nat) : Byte := Map.get dfltStore s.store k
def Act.setStore (k : Nat) (v : Byte) : Act where
  run s := { s with store := Map.set dfltStore s.store k v }
  ok _ := ⟨fun h => { h with store := Map.set_wf _ _ h.store }, rfl, rfl⟩
def Act.modStore (k : Nat) (g : Byte → Byte) : Act := .get fun s => .setStore k (g (s.storeAt k))
/-- Every entry of `store` in [lo, hi) returns to the default. -/
def Act.clearStore (lo hi : Nat) : Act where
  run s := { s with store := Map.clear s.store lo hi }
  ok _ := ⟨fun h => { h with store := Map.clear_wf _ _ h.store }, rfl, rfl⟩
/-- accumulators, by (core * 1024 + line) * 128 + column (R46, R89): entry k. -/
def State.accAt (s : State) (k : Nat) : L128 := Map.get dfltAcc s.acc k
def Act.setAcc (k : Nat) (v : L128) : Act where
  run s := { s with acc := Map.set dfltAcc s.acc k v }
  ok _ := ⟨fun h => { h with acc := Map.set_wf _ _ h.acc }, rfl, rfl⟩
def Act.modAcc (k : Nat) (g : L128 → L128) : Act := .get fun s => .setAcc k (g (s.accAt k))
/-- Every entry of `acc` in [lo, hi) returns to the default. -/
def Act.clearAcc (lo hi : Nat) : Act where
  run s := { s with acc := Map.clear s.acc lo hi }
  ok _ := ⟨fun h => { h with acc := Map.clear_wf _ _ h.acc }, rfl, rfl⟩
/-- recorded anchors, by core * 1024 + line (R49): entry k. -/
def State.anchorsAt (s : State) (k : Nat) : Option Int := Map.get dfltAnchors s.anchors k
def Act.setAnchors (k : Nat) (v : Option Int) : Act where
  run s := { s with anchors := Map.set dfltAnchors s.anchors k v }
  ok _ := ⟨fun h => { h with anchors := Map.set_wf _ _ h.anchors }, rfl, rfl⟩
def Act.modAnchors (k : Nat) (g : Option Int → Option Int) : Act := .get fun s => .setAnchors k (g (s.anchorsAt k))
/-- Every entry of `anchors` in [lo, hi) returns to the default. -/
def Act.clearAnchors (lo hi : Nat) : Act where
  run s := { s with anchors := Map.clear s.anchors lo hi }
  ok _ := ⟨fun h => { h with anchors := Map.clear_wf _ _ h.anchors }, rfl, rfl⟩
/-- core-store lines by core * 65536 + line: 1 pending, 2 pending-failed (R103): entry k. -/
def State.pendAt (s : State) (k : Nat) : Nat := Map.get dfltPend s.pend k
def Act.setPend (k : Nat) (v : Nat) : Act where
  run s := { s with pend := Map.set dfltPend s.pend k v }
  ok _ := ⟨fun h => { h with pend := Map.set_wf _ _ h.pend }, rfl, rfl⟩
def Act.modPend (k : Nat) (g : Nat → Nat) : Act := .get fun s => .setPend k (g (s.pendAt k))
/-- Every entry of `pend` in [lo, hi) returns to the default. -/
def Act.clearPend (lo hi : Nat) : Act where
  run s := { s with pend := Map.clear s.pend lo hi }
  ok _ := ⟨fun h => { h with pend := Map.clear_wf _ _ h.pend }, rfl, rfl⟩
/-- vector register lanes, by (core * 32 + register) * 64 + lane (R89): entry k. -/
def State.vregAt (s : State) (k : Nat) : Nat := Map.get dfltVreg s.vreg k
def Act.setVreg (k : Nat) (v : Nat) : Act where
  run s := { s with vreg := Map.set dfltVreg s.vreg k v }
  ok _ := ⟨fun h => { h with vreg := Map.set_wf _ _ h.vreg }, rfl, rfl⟩
def Act.modVreg (k : Nat) (g : Nat → Nat) : Act := .get fun s => .setVreg k (g (s.vregAt k))
/-- Every entry of `vreg` in [lo, hi) returns to the default. -/
def Act.clearVreg (lo hi : Nat) : Act where
  run s := { s with vreg := Map.clear s.vreg lo hi }
  ok _ := ⟨fun h => { h with vreg := Map.clear_wf _ _ h.vreg }, rfl, rfl⟩
/-- stream contexts, by core * 8 + context (R91): entry k. -/
def State.ctxsAt (s : State) (k : Nat) : CtxSt := Map.get dfltCtxs s.ctxs k
def Act.setCtxs (k : Nat) (v : CtxSt) : Act where
  run s := { s with ctxs := Map.set dfltCtxs s.ctxs k v }
  ok _ := ⟨fun h => { h with ctxs := Map.set_wf _ _ h.ctxs }, rfl, rfl⟩
def Act.modCtxs (k : Nat) (g : CtxSt → CtxSt) : Act := .get fun s => .setCtxs k (g (s.ctxsAt k))
/-- Every entry of `ctxs` in [lo, hi) returns to the default. -/
def Act.clearCtxs (lo hi : Nat) : Act where
  run s := { s with ctxs := Map.clear s.ctxs lo hi }
  ok _ := ⟨fun h => { h with ctxs := Map.clear_wf _ _ h.ctxs }, rfl, rfl⟩
/-- arrays, by 4 * core + array (R61-R73): entry k. -/
def State.arrsAt (s : State) (k : Nat) : ArrSt := Map.get dfltArrs s.arrs k
def Act.setArrs (k : Nat) (v : ArrSt) : Act where
  run s := { s with arrs := Map.set dfltArrs s.arrs k v }
  ok _ := ⟨fun h => { h with arrs := Map.set_wf _ _ h.arrs }, rfl, rfl⟩
def Act.modArrs (k : Nat) (g : ArrSt → ArrSt) : Act := .get fun s => .setArrs k (g (s.arrsAt k))
/-- Every entry of `arrs` in [lo, hi) returns to the default. -/
def Act.clearArrs (lo hi : Nat) : Act where
  run s := { s with arrs := Map.clear s.arrs lo hi }
  ok _ := ⟨fun h => { h with arrs := Map.clear_wf _ _ h.arrs }, rfl, rfl⟩
/-- partitions, by partition code (R137, R298): entry k. -/
def State.partsAt (s : State) (k : Nat) : PartSt := Map.get dfltParts s.parts k
def Act.setParts (k : Nat) (v : PartSt) : Act where
  run s := { s with parts := Map.set dfltParts s.parts k v }
  ok _ := ⟨fun h => { h with parts := Map.set_wf _ _ h.parts }, rfl, rfl⟩
def Act.modParts (k : Nat) (g : PartSt → PartSt) : Act := .get fun s => .setParts k (g (s.partsAt k))
/-- Every entry of `parts` in [lo, hi) returns to the default. -/
def Act.clearParts (lo hi : Nat) : Act where
  run s := { s with parts := Map.clear s.parts lo hi }
  ok _ := ⟨fun h => { h with parts := Map.clear_wf _ _ h.parts }, rfl, rfl⟩
/-- stream context that used the vector unit of a core last, by core (R108): entry k. -/
def State.vecTurnAt (s : State) (k : Nat) : Nat := Map.get dfltVecTurn s.vecTurn k
def Act.setVecTurn (k : Nat) (v : Nat) : Act where
  run s := { s with vecTurn := Map.set dfltVecTurn s.vecTurn k v }
  ok _ := ⟨fun h => { h with vecTurn := Map.set_wf _ _ h.vecTurn }, rfl, rfl⟩
def Act.modVecTurn (k : Nat) (g : Nat → Nat) : Act := .get fun s => .setVecTurn k (g (s.vecTurnAt k))
/-- Every entry of `vecTurn` in [lo, hi) returns to the default. -/
def Act.clearVecTurn (lo hi : Nat) : Act where
  run s := { s with vecTurn := Map.clear s.vecTurn lo hi }
  ok _ := ⟨fun h => { h with vecTurn := Map.clear_wf _ _ h.vecTurn }, rfl, rfl⟩
/-- health event inputs, by KIND * 1024 + index (R389): entry k. -/
def State.healthAt (s : State) (k : Nat) : HealthSt := Map.get dfltHealth s.health k
def Act.setHealth (k : Nat) (v : HealthSt) : Act where
  run s := { s with health := Map.set dfltHealth s.health k v }
  ok _ := ⟨fun h => { h with health := Map.set_wf _ _ h.health }, rfl, rfl⟩
def Act.modHealth (k : Nat) (g : HealthSt → HealthSt) : Act := .get fun s => .setHealth k (g (s.healthAt k))
/-- Every entry of `health` in [lo, hi) returns to the default. -/
def Act.clearHealth (lo hi : Nat) : Act where
  run s := { s with health := Map.clear s.health lo hi }
  ok _ := ⟨fun h => { h with health := Map.clear_wf _ _ h.health }, rfl, rfl⟩
/-- the Leash, by record code (R415): entry k. -/
def State.leashAt (s : State) (k : Nat) : LeashSt := Map.get dfltLeash s.leash k
def Act.setLeash (k : Nat) (v : LeashSt) : Act where
  run s := { s with leash := Map.set dfltLeash s.leash k v }
  ok _ := ⟨fun h => { h with leash := Map.set_wf _ _ h.leash }, rfl, rfl⟩
def Act.modLeash (k : Nat) (g : LeashSt → LeashSt) : Act := .get fun s => .setLeash k (g (s.leashAt k))
/-- Every entry of `leash` in [lo, hi) returns to the default. -/
def Act.clearLeash (lo hi : Nat) : Act where
  run s := { s with leash := Map.clear s.leash lo hi }
  ok _ := ⟨fun h => { h with leash := Map.clear_wf _ _ h.leash }, rfl, rfl⟩
/-- snapshot triggers 0-15 (R419): entry k. -/
def State.trigsAt (s : State) (k : Nat) : TrigSt := Map.get dfltTrigs s.trigs k
def Act.setTrigs (k : Nat) (v : TrigSt) : Act where
  run s := { s with trigs := Map.set dfltTrigs s.trigs k v }
  ok _ := ⟨fun h => { h with trigs := Map.set_wf _ _ h.trigs }, rfl, rfl⟩
def Act.modTrigs (k : Nat) (g : TrigSt → TrigSt) : Act := .get fun s => .setTrigs k (g (s.trigsAt k))
/-- Every entry of `trigs` in [lo, hi) returns to the default. -/
def Act.clearTrigs (lo hi : Nat) : Act where
  run s := { s with trigs := Map.clear s.trigs lo hi }
  ok _ := ⟨fun h => { h with trigs := Map.clear_wf _ _ h.trigs }, rfl, rfl⟩
/-- the record log in flash, by word (R410): entry k. -/
def State.logAt (s : State) (k : Nat) : Word := Map.get dfltLog s.log k
def Act.setLog (k : Nat) (v : Word) : Act where
  run s := { s with log := Map.set dfltLog s.log k v }
  ok _ := ⟨fun h => { h with log := Map.set_wf _ _ h.log }, rfl, rfl⟩
def Act.modLog (k : Nat) (g : Word → Word) : Act := .get fun s => .setLog k (g (s.logAt k))
/-- Every entry of `log` in [lo, hi) returns to the default. -/
def Act.clearLog (lo hi : Nat) : Act where
  run s := { s with log := Map.clear s.log lo hi }
  ok _ := ⟨fun h => { h with log := Map.clear_wf _ _ h.log }, rfl, rfl⟩
/-- bytes of the log charged to a slice (R416): entry k. -/
def State.recUsedAt (s : State) (k : Nat) : Nat := Map.get dfltRecUsed s.recUsed k
def Act.setRecUsed (k : Nat) (v : Nat) : Act where
  run s := { s with recUsed := Map.set dfltRecUsed s.recUsed k v }
  ok _ := ⟨fun h => { h with recUsed := Map.set_wf _ _ h.recUsed }, rfl, rfl⟩
def Act.modRecUsed (k : Nat) (g : Nat → Nat) : Act := .get fun s => .setRecUsed k (g (s.recUsedAt k))
/-- Every entry of `recUsed` in [lo, hi) returns to the default. -/
def Act.clearRecUsed (lo hi : Nat) : Act where
  run s := { s with recUsed := Map.clear s.recUsed lo hi }
  ok _ := ⟨fun h => { h with recUsed := Map.clear_wf _ _ h.recUsed }, rfl, rfl⟩
/-- records of a slice dropped by quota (R416, R421): entry k. -/
def State.recDropAt (s : State) (k : Nat) : Nat := Map.get dfltRecDrop s.recDrop k
def Act.setRecDrop (k : Nat) (v : Nat) : Act where
  run s := { s with recDrop := Map.set dfltRecDrop s.recDrop k v }
  ok _ := ⟨fun h => { h with recDrop := Map.set_wf _ _ h.recDrop }, rfl, rfl⟩
def Act.modRecDrop (k : Nat) (g : Nat → Nat) : Act := .get fun s => .setRecDrop k (g (s.recDropAt k))
/-- Every entry of `recDrop` in [lo, hi) returns to the default. -/
def Act.clearRecDrop (lo hi : Nat) : Act where
  run s := { s with recDrop := Map.clear s.recDrop lo hi }
  ok _ := ⟨fun h => { h with recDrop := Map.clear_wf _ _ h.recDrop }, rfl, rfl⟩
/-- Retriever engines 0-31 (R326): entry k. -/
def State.engsAt (s : State) (k : Nat) : EngSt := Map.get dfltEngs s.engs k
def Act.setEngs (k : Nat) (v : EngSt) : Act where
  run s := { s with engs := Map.set dfltEngs s.engs k v }
  ok _ := ⟨fun h => { h with engs := Map.set_wf _ _ h.engs }, rfl, rfl⟩
def Act.modEngs (k : Nat) (g : EngSt → EngSt) : Act := .get fun s => .setEngs k (g (s.engsAt k))
/-- Every entry of `engs` in [lo, hi) returns to the default. -/
def Act.clearEngs (lo hi : Nat) : Act where
  run s := { s with engs := Map.clear s.engs lo hi }
  ok _ := ⟨fun h => { h with engs := Map.clear_wf _ _ h.engs }, rfl, rfl⟩
/-- fabric connections, by peer node (R333): entry k. -/
def State.connsAt (s : State) (k : Nat) : ConnSt := Map.get dfltConns s.conns k
def Act.setConns (k : Nat) (v : ConnSt) : Act where
  run s := { s with conns := Map.set dfltConns s.conns k v }
  ok _ := ⟨fun h => { h with conns := Map.set_wf _ _ h.conns }, rfl, rfl⟩
def Act.modConns (k : Nat) (g : ConnSt → ConnSt) : Act := .get fun s => .setConns k (g (s.connsAt k))
/-- Every entry of `conns` in [lo, hi) returns to the default. -/
def Act.clearConns (lo hi : Nat) : Act where
  run s := { s with conns := Map.clear s.conns lo hi }
  ok _ := ⟨fun h => { h with conns := Map.clear_wf _ _ h.conns }, rfl, rfl⟩
/-- launch barriers, by slice (R358): entry k. -/
def State.barsAt (s : State) (k : Nat) : BarSt := Map.get dfltBars s.bars k
def Act.setBars (k : Nat) (v : BarSt) : Act where
  run s := { s with bars := Map.set dfltBars s.bars k v }
  ok _ := ⟨fun h => { h with bars := Map.set_wf _ _ h.bars }, rfl, rfl⟩
def Act.modBars (k : Nat) (g : BarSt → BarSt) : Act := .get fun s => .setBars k (g (s.barsAt k))
/-- Every entry of `bars` in [lo, hi) returns to the default. -/
def Act.clearBars (lo hi : Nat) : Act where
  run s := { s with bars := Map.clear s.bars lo hi }
  ok _ := ⟨fun h => { h with bars := Map.clear_wf _ _ h.bars }, rfl, rfl⟩
/-- Hound units 0-7 (R371): entry k. -/
def State.houndsAt (s : State) (k : Nat) : HoundSt := Map.get dfltHounds s.hounds k
def Act.setHounds (k : Nat) (v : HoundSt) : Act where
  run s := { s with hounds := Map.set dfltHounds s.hounds k v }
  ok _ := ⟨fun h => { h with hounds := Map.set_wf _ _ h.hounds }, rfl, rfl⟩
def Act.modHounds (k : Nat) (g : HoundSt → HoundSt) : Act := .get fun s => .setHounds k (g (s.houndsAt k))
/-- Every entry of `hounds` in [lo, hi) returns to the default. -/
def Act.clearHounds (lo hi : Nat) : Act where
  run s := { s with hounds := Map.clear s.hounds lo hi }
  ok _ := ⟨fun h => { h with hounds := Map.clear_wf _ _ h.hounds }, rfl, rfl⟩
/-- committed tiles since the last sample, by core (R403): entry k. -/
def State.sampAt (s : State) (k : Nat) : Nat := Map.get dfltSamp s.samp k
def Act.setSamp (k : Nat) (v : Nat) : Act where
  run s := { s with samp := Map.set dfltSamp s.samp k v }
  ok _ := ⟨fun h => { h with samp := Map.set_wf _ _ h.samp }, rfl, rfl⟩
def Act.modSamp (k : Nat) (g : Nat → Nat) : Act := .get fun s => .setSamp k (g (s.sampAt k))
/-- Every entry of `samp` in [lo, hi) returns to the default. -/
def Act.clearSamp (lo hi : Nat) : Act where
  run s := { s with samp := Map.clear s.samp lo hi }
  ok _ := ⟨fun h => { h with samp := Map.clear_wf _ _ h.samp }, rfl, rfl⟩
/-- cells, by cell context (R142): entry k. -/
def State.cellsAt (s : State) (k : Nat) : CellSt := Map.get dfltCells s.cells k
def Act.setCells (k : Nat) (v : CellSt) : Act where
  run s := { s with cells := Map.set dfltCells s.cells k v }
  ok _ := ⟨fun h => { h with cells := Map.set_wf _ _ h.cells }, rfl, rfl⟩
def Act.modCells (k : Nat) (g : CellSt → CellSt) : Act := .get fun s => .setCells k (g (s.cellsAt k))
/-- Every entry of `cells` in [lo, hi) returns to the default. -/
def Act.clearCells (lo hi : Nat) : Act where
  run s := { s with cells := Map.clear s.cells lo hi }
  ok _ := ⟨fun h => { h with cells := Map.clear_wf _ _ h.cells }, rfl, rfl⟩
/-- coding jobs, by 4 * cluster + KIND - 7 (R212): entry k. -/
def State.cjobsAt (s : State) (k : Nat) : Option CodeJob := Map.get dfltCjobs s.cjobs k
def Act.setCjobs (k : Nat) (v : Option CodeJob) : Act where
  run s := { s with cjobs := Map.set dfltCjobs s.cjobs k v }
  ok _ := ⟨fun h => { h with cjobs := Map.set_wf _ _ h.cjobs }, rfl, rfl⟩
def Act.modCjobs (k : Nat) (g : Option CodeJob → Option CodeJob) : Act := .get fun s => .setCjobs k (g (s.cjobsAt k))
/-- Every entry of `cjobs` in [lo, hi) returns to the default. -/
def Act.clearCjobs (lo hi : Nat) : Act where
  run s := { s with cjobs := Map.clear s.cjobs lo hi }
  ok _ := ⟨fun h => { h with cjobs := Map.clear_wf _ _ h.cjobs }, rfl, rfl⟩
/-- DSPs 0-95 (R187, R195): entry k. -/
def State.dspsAt (s : State) (k : Nat) : DspSt := Map.get dfltDsps s.dsps k
def Act.setDsps (k : Nat) (v : DspSt) : Act where
  run s := { s with dsps := Map.set dfltDsps s.dsps k v }
  ok _ := ⟨fun h => { h with dsps := Map.set_wf _ _ h.dsps }, rfl, rfl⟩
def Act.modDsps (k : Nat) (g : DspSt → DspSt) : Act := .get fun s => .setDsps k (g (s.dspsAt k))
/-- Every entry of `dsps` in [lo, hi) returns to the default. -/
def Act.clearDsps (lo hi : Nat) : Act where
  run s := { s with dsps := Map.clear s.dsps lo hi }
  ok _ := ⟨fun h => { h with dsps := Map.clear_wf _ _ h.dsps }, rfl, rfl⟩
/-- X and Y words of 32 bits, by (2 * DSP + memory) * 65536 + word (R183): entry k. -/
def State.dspMemAt (s : State) (k : Nat) : Nat := Map.get dfltDspMem s.dspMem k
def Act.setDspMem (k : Nat) (v : Nat) : Act where
  run s := { s with dspMem := Map.set dfltDspMem s.dspMem k v }
  ok _ := ⟨fun h => { h with dspMem := Map.set_wf _ _ h.dspMem }, rfl, rfl⟩
def Act.modDspMem (k : Nat) (g : Nat → Nat) : Act := .get fun s => .setDspMem k (g (s.dspMemAt k))
/-- Every entry of `dspMem` in [lo, hi) returns to the default. -/
def Act.clearDspMem (lo hi : Nat) : Act where
  run s := { s with dspMem := Map.clear s.dspMem lo hi }
  ok _ := ⟨fun h => { h with dspMem := Map.clear_wf _ _ h.dspMem }, rfl, rfl⟩
/-- slots of P, by DSP * 32768 + 4 * bundle + slot (R188): entry k. -/
def State.dspPAt (s : State) (k : Nat) : Nat := Map.get dfltDspP s.dspP k
def Act.setDspP (k : Nat) (v : Nat) : Act where
  run s := { s with dspP := Map.set dfltDspP s.dspP k v }
  ok _ := ⟨fun h => { h with dspP := Map.set_wf _ _ h.dspP }, rfl, rfl⟩
def Act.modDspP (k : Nat) (g : Nat → Nat) : Act := .get fun s => .setDspP k (g (s.dspPAt k))
/-- Every entry of `dspP` in [lo, hi) returns to the default. -/
def Act.clearDspP (lo hi : Nat) : Act where
  run s := { s with dspP := Map.clear s.dspP lo hi }
  ok _ := ⟨fun h => { h with dspP := Map.clear_wf _ _ h.dspP }, rfl, rfl⟩
/-- fenced random-access detectors 0-7 (R236, R237): entry k. -/
def State.detsAt (s : State) (k : Nat) : Bool := Map.get dfltDets s.dets k
def Act.setDets (k : Nat) (v : Bool) : Act where
  run s := { s with dets := Map.set dfltDets s.dets k v }
  ok _ := ⟨fun h => { h with dets := Map.set_wf _ _ h.dets }, rfl, rfl⟩
def Act.modDets (k : Nat) (g : Bool → Bool) : Act := .get fun s => .setDets k (g (s.detsAt k))
/-- Every entry of `dets` in [lo, hi) returns to the default. -/
def Act.clearDets (lo hi : Nat) : Act where
  run s := { s with dets := Map.clear s.dets lo hi }
  ok _ := ⟨fun h => { h with dets := Map.clear_wf _ _ h.dets }, rfl, rfl⟩
/-- dump rings 0-32 (R405): entry k. -/
def State.dumpsAt (s : State) (k : Nat) : DumpSt := Map.get dfltDumps s.dumps k
def Act.setDumps (k : Nat) (v : DumpSt) : Act where
  run s := { s with dumps := Map.set dfltDumps s.dumps k v }
  ok _ := ⟨fun h => { h with dumps := Map.set_wf _ _ h.dumps }, rfl, rfl⟩
def Act.modDumps (k : Nat) (g : DumpSt → DumpSt) : Act := .get fun s => .setDumps k (g (s.dumpsAt k))
/-- Every entry of `dumps` in [lo, hi) returns to the default. -/
def Act.clearDumps (lo hi : Nat) : Act where
  run s := { s with dumps := Map.clear s.dumps lo hi }
  ok _ := ⟨fun h => { h with dumps := Map.clear_wf _ _ h.dumps }, rfl, rfl⟩
/-- Every register in [lo, hi) returns to its reset value. -/
def Act.clearRegs (lo hi : Nat) : Act where
  run s := { s with regs := Map.clear s.regs lo hi }
  ok _ := ⟨fun h => { h with regs := Map.clear_wf _ _ h.regs, regBits := regsInMask_clear _ _ h.regBits }, rfl, rfl⟩
/-- the clock of the model (R15, R411). -/
def Act.modClk (g : Clk → Clk) : Act := ⟨fun s => { s with clk := g s.clk }, fun _ => ⟨fun h => { h with }, rfl, rfl⟩⟩
def Act.setClk (v : Clk) : Act := .modClk fun _ => v
/-- the recorder (R410-R418). -/
def Act.modRecd (g : RecSt → RecSt) : Act := ⟨fun s => { s with recd := g s.recd }, fun _ => ⟨fun h => { h with }, rfl, rfl⟩⟩
def Act.setRecd (v : RecSt) : Act := .modRecd fun _ => v
/-- the attention path (R292). -/
def Act.modAttn (g : AttnSt → AttnSt) : Act := ⟨fun s => { s with attn := g s.attn }, fun _ => ⟨fun h => { h with }, rfl, rfl⟩⟩
def Act.setAttn (v : AttnSt) : Act := .modAttn fun _ => v
/-- the PCIe link is up (R283, R296). -/
def Act.modLinkOn (g : Bool → Bool) : Act := ⟨fun s => { s with linkOn := g s.linkOn }, fun _ => ⟨fun h => { h with }, rfl, rfl⟩⟩
def Act.setLinkOn (v : Bool) : Act := .modLinkOn fun _ => v
/-- the module is failed (R387). -/
def Act.modFailed (g : Bool → Bool) : Act := ⟨fun s => { s with failed := g s.failed }, fun _ => ⟨fun h => { h with }, rfl, rfl⟩⟩
def Act.setFailed (v : Bool) : Act := .modFailed fun _ => v
/-- channels of CD0 that the LPDDR5X mapping of this start uses, ascending (R124). -/
def Act.modLpAct0 (g : List Nat → List Nat) : Act := ⟨fun s => { s with lpAct0 := g s.lpAct0 }, fun _ => ⟨fun h => { h with }, rfl, rfl⟩⟩
def Act.setLpAct0 (v : List Nat) : Act := .modLpAct0 fun _ => v
/-- channels of CD1 likewise. -/
def Act.modLpAct1 (g : List Nat → List Nat) : Act := ⟨fun s => { s with lpAct1 := g s.lpAct1 }, fun _ => ⟨fun h => { h with }, rfl, rfl⟩⟩
def Act.setLpAct1 (v : List Nat) : Act := .modLpAct1 fun _ => v
/-- signals issued and not performed (R109). -/
def Act.modSigq (g : List SigJob → List SigJob) : Act := ⟨fun s => { s with sigq := g s.sigq }, fun _ => ⟨fun h => { h with }, rfl, rfl⟩⟩
def Act.setSigq (v : List SigJob) : Act := .modSigq fun _ => v
/-- conversions waiting for the vector unit of a core (R102). -/
def Act.modConvq (g : List (Nat × ConvJob) → List (Nat × ConvJob)) : Act := ⟨fun s => { s with convq := g s.convq }, fun _ => ⟨fun h => { h with }, rfl, rfl⟩⟩
def Act.setConvq (v : List (Nat × ConvJob)) : Act := .modConvq fun _ => v
/-- on-module flash outside the log (R388, R411). -/
def Act.modFlash (g : Flash → Flash) : Act := ⟨fun s => { s with flash := g s.flash }, fun _ => ⟨fun h => { h with }, rfl, rfl⟩⟩
def Act.setFlash (v : Flash) : Act := .modFlash fun _ => v
/-- ARRIVEs held by the master, oldest first (R359). -/
def Act.modArrives (g : List ArriveSt → List ArriveSt) : Act := ⟨fun s => { s with arrives := g s.arrives }, fun _ => ⟨fun h => { h with }, rfl, rfl⟩⟩
def Act.setArrives (v : List ArriveSt) : Act := .modArrives fun _ => v
/-- manager DSP jobs that wait to be dispatched again, oldest first (R198). -/
def Act.modHeld (g : List HeldJob → List HeldJob) : Act := ⟨fun s => { s with held := g s.held }, fun _ => ⟨fun h => { h with }, rfl, rfl⟩⟩
def Act.setHeld (v : List HeldJob) : Act := .modHeld fun _ => v
/-- manager coding jobs likewise (R224). -/
def Act.modHeldCode (g : List HeldJob → List HeldJob) : Act := ⟨fun s => { s with heldCode := g s.heldCode }, fun _ => ⟨fun h => { h with }, rfl, rfl⟩⟩
def Act.setHeldCode (v : List HeldJob) : Act := .modHeldCode fun _ => v
/-- records of PAIRED slices not yet matched (R384). -/
def Act.modPairs (g : List PairRec → List PairRec) : Act := ⟨fun s => { s with pairs := g s.pairs }, fun _ => ⟨fun h => { h with }, rfl, rfl⟩⟩
def Act.setPairs (v : List PairRec) : Act := .modPairs fun _ => v
/-- the radio partition (R142-R155). -/
def Act.modRadio (g : RadioSt → RadioSt) : Act := ⟨fun s => { s with radio := g s.radio }, fun _ => ⟨fun h => { h with }, rfl, rfl⟩⟩
def Act.setRadio (v : RadioSt) : Act := .modRadio fun _ => v
/-- the time unit (R240-R260). -/
def Act.modTime (g : TimeSt → TimeSt) : Act := ⟨fun s => { s with time := g s.time }, fun _ => ⟨fun h => { h with }, rfl, rfl⟩⟩
def Act.setTime (v : TimeSt) : Act := .modTime fun _ => v
/-- the Last and the power controller (R266-R281). -/
def Act.modLast (g : LastSt → LastSt) : Act := ⟨fun s => { s with last := g s.last }, fun _ => ⟨fun h => { h with }, rfl, rfl⟩⟩
def Act.setLast (v : LastSt) : Act := .modLast fun _ => v
/-- start-up, supplies, security (R382, R423-R457). -/
def Act.modSys (g : SysSt → SysSt) : Act := ⟨fun s => { s with sys := g s.sys }, fun _ => ⟨fun h => { h with }, rfl, rfl⟩⟩
def Act.setSys (v : SysSt) : Act := .modSys fun _ => v
/-- count of free values taken; the model's own (log 9). -/
def Act.modFree (g : Nat → Nat) : Act := ⟨fun s => { s with free := g s.free }, fun _ => ⟨fun h => { h with }, rfl, rfl⟩⟩
def Act.setFree (v : Nat) : Act := .modFree fun _ => v
/-- Something leaves the module. -/
def Act.emit (e : Emit) : Act := ⟨fun s => { s with emitted := e :: s.emitted }, fun _ => ⟨fun h => { h with }, rfl, rfl⟩⟩

/-- Everything returns to its value after a module reset but what survives one (R444): host, log, recUsed, recDrop, flash, free. -/
def Act.toReset : Act where
  run s := { State.reset with host := s.host, log := s.log, recUsed := s.recUsed, recDrop := s.recDrop, flash := s.flash, free := s.free, emitted := s.emitted, fuse := s.fuse, pending := s.pending }
  ok _ := ⟨fun h => {
    regs := rfl
    mem := rfl
    errs := rfl
    lpErr := rfl
    chUe := rfl
    host := h.host
    store := rfl
    acc := rfl
    anchors := rfl
    pend := rfl
    vreg := rfl
    ctxs := rfl
    arrs := rfl
    parts := rfl
    vecTurn := rfl
    health := rfl
    leash := rfl
    trigs := rfl
    log := h.log
    recUsed := h.recUsed
    recDrop := h.recDrop
    engs := rfl
    conns := rfl
    bars := rfl
    hounds := rfl
    samp := rfl
    cells := rfl
    cjobs := rfl
    dsps := rfl
    dspMem := rfl
    dspP := rfl
    dets := rfl
    dumps := rfl
    regBits := rfl }, rfl, rfl⟩

end Sys2Proof.Machine
end

