-- ==== Sys2Proof/Machine/Ops.lean ====
section
/-! DEFINITION. Operations every chapter shares: register fields, the global tick, host memory, the attention vector, the event
recorder, violations, health events and performance counters. -/

namespace Sys2Proof.Machine

/-! ### Registers and time -/

/-- Value of a register. -/
def State.rd (s : State) (a : Nat) : Word := s.regsAt a

/-- Value of a field. -/
def State.fld (s : State) (a : Nat) (f : Field) : Nat := f.get (s.rd a)

/-- A field is not zero. -/
def State.flag (s : State) (a : Nat) (f : Field) : Bool := s.fld a f != 0

def Act.setF (a : Nat) (f : Field) (v : Nat) : Act := .get fun s => .setRegs a (f.put (s.rd a) v)

/-- A field through a function of its value; a result too wide keeps its low bits. -/
def Act.modF (a : Nat) (f : Field) (g : Nat → Nat) : Act := .get fun s => .setRegs a (f.put (s.rd a) (g (s.fld a f)))

/-- A saturating count. -/
def Act.incF (a : Nat) (f : Field) (n : Nat := 1) : Act := .modF a f fun v => min (v + n) f.max

/-- The bits of an event mask or-ed into a field. -/
def Act.orF (a : Nat) (f : Field) (m : Nat) : Act := .modF a f fun v => v ||| m

/-- The bits of a mask cleared in a field. -/
def Act.clrF (a : Nat) (f : Field) (m : Nat) : Act := .modF a f fun v => v &&& (v ^^^ m)

/-- The global tick of 4 ns, eight core cycles (R15). -/
def State.tick (s : State) : Nat := s.clk.cyc / 8

/-- HOURS: the resumed count and one for each second since, saturating (R411, R464). -/
def State.hours (s : State) : Nat := min (s.clk.hoursBase + s.tick / 250000000) (2 ^ 32 - 1)

/-- Bit i of a mask. -/
def bit (m i : Nat) : Bool := m / 2 ^ i % 2 == 1

/-- Bits [hi:lo] of a number. -/
def bits (x hi lo : Nat) : Nat := x / 2 ^ lo % 2 ^ (hi + 1 - lo)

/-- A mask with bit i set, and with bit i clear. -/
def setBit (m i : Nat) : Nat := m ||| 2 ^ i
def clrBit (m i : Nat) : Nat := if bit m i then m - 2 ^ i else m

/-- Number of set bits among the low n. -/
def popcount (m : Nat) : Nat → Nat
  | 0 => 0
  | n + 1 => popcount m n + (if bit m n then 1 else 0)

/-- Indices of set bits among the low n, ascending. -/
def bitList (m n : Nat) : List Nat := (List.range n).filter fun i => bit m i

/-- ceil(a / b). -/
def cdiv (a b : Nat) : Nat := (a + b - 1) / b

/-- Little-endian bytes of a number (R10). -/
def leBytes (v n : Nat) : List Byte := (List.range n).map fun i => BitVec.ofNat 8 (v / 2 ^ (8 * i))

/-- The number little-endian bytes spell. -/
def leNat : List Byte → Nat
  | [] => 0
  | b :: r => b.toNat + 256 * leNat r

/-- Bytes of 64-bit words. -/
def wordBytes (ws : List Word) : List Byte := ws.flatMap fun w => leBytes w.toNat 8

/-- A fresh free value: the count the model keeps for it advances (log 9). -/
def Act.withFree (f : Nat → Act) : Act := .get fun s => (Act.modFree (· + 1)).seq (f s.free)

/-! ### Host memory (R285, R289) -/

/-- No PASID: attention writes. -/
def noPasid : Nat := 2 ^ 20

def hostKey (pasid addr : Nat) : Nat := pasid * 2 ^ 64 + addr % 2 ^ 64

/-- A posted write into host memory; with the link down it is not issued (R296). -/
def Act.hostWrite (pasid addr : Nat) (data : List Byte) : Act := .get fun s =>
  .when s.linkOn (.each data.zipIdx fun (b, i) => .setHost (hostKey pasid (addr + i)) b)

/-- A read of host memory. -/
def State.hostRead (s : State) (pasid addr n : Nat) : List Byte :=
  (List.range n).map fun i => s.hostAt (hostKey pasid (addr + i))

/-! ### The attention vector and RB_N (R291-R293) -/

/-- HOST.ATTN holds a set bit (NOT_READY among them). -/
def State.attnAny (s : State) : Bool :=
  (List.range 4).any (fun i => s.rd (R.hostAttn i) != 0) || s.rd R.hostAttn4 != 0

def State.notReady (s : State) : Bool := s.flag R.hostAttn4 F.hostAttn4_NOT_READY

/-- RB_N follows the wish, but each level lasts at least 1 us (R293). -/
def Act.rbWant (low : Bool) : Act := .get fun s =>
  if !s.attn.hold && s.attn.rbLow != low then
    .all [.modAttn fun a => { a with want := low, rbLow := low, hold := true }, .emit (.pin 2 (!low))]
  else .modAttn fun a => { a with want := low }

/-- The vector is written to BASE with SEQ incremented, and its flush read issued (R292 step 2). -/
def Act.vectorWrite : Act := .all [
  .modF R.hostAttn7 F.hostAttn7_SEQ (· + 1),
  .get fun s => .hostWrite noPasid (s.fld R.hostAttnCfg F.hostAttnCfg_BASE * 64)
    (wordBytes [s.rd (R.hostAttn 0), s.rd (R.hostAttn 1), s.rd (R.hostAttn 2), s.rd (R.hostAttn 3), s.rd R.hostAttn4, 0, 0,
      s.rd R.hostAttn7]),
  .get fun s => .modAttn fun a => { a with busy := true, again := false, wrote := s.attnAny }]

/-- The vector is written at all: EN set, the link up, the module ready (R292, R293, R296). -/
def State.attnWrites (s : State) : Bool := s.flag R.hostAttnCfg F.hostAttnCfg_EN && s.linkOn && !s.notReady

/-- A change of HOST.ATTN: one write, or a further one after that in progress; without a write RB_N follows at once (R292). -/
def Act.attnChanged : Act := .get fun s =>
  if s.attnWrites then
    (if s.attn.busy then .modAttn fun a => { a with again := true } else .vectorWrite)
  else .rbWant s.attnAny

/-- Attention bit b (0-258) is set (R291, R292). -/
def Act.attnSet (b : Nat) : Act := .all [
  if b < 256 then .modF (R.hostAttn (b / 64)) ⟨63, 0, .w1c, 0⟩ (setBit · (b % 64))
  else .modF R.hostAttn4 F.hostAttn4_BITS (setBit · (b - 256)),
  .attnChanged]

/-- MGR, RADIO and REC (R291). -/
def Act.attnMgr : Act := .attnSet 256
def Act.attnRadio : Act := .attnSet 257
def Act.attnRec : Act := .attnSet 258

/-- Attention bit of a partition: its mailbox's owner, the manager or the radio. -/
def attnBitOf (part : Nat) : Nat := if part < 256 then part else if part = 256 then 256 else 257

/-! ### The event recorder (R410-R419) -/

/-- End of the ordinary area and of the log, in bytes (R410). -/
def logOrdEnd : Nat := 12032 * 4096
def logEnd : Nat := 12288 * 4096

def recWord0 (dsec part src len code : Nat) : Word :=
  BitVec.ofNat 64 (dsec % 2 ^ 24 * 2 ^ 40 + part % 2 ^ 10 * 2 ^ 30 + src % 256 * 2 ^ 22 + len % 64 * 2 ^ 16 + code % 2 ^ 16)

/-- Pad records that fill `n` words (R410): 32 words each, the last what remains. -/
def padWords : Nat → Nat → List Word
  | 0, _ => []
  | _, 0 => []
  | fuel + 1, n =>
    let l := min n 32
    (recWord0 0 0x3FF 0 l 0 :: List.replicate (l - 1) 0) ++ padWords fuel (n - l)

/-- Placement of one record, a native one or a snapshot whose words are the payload whole, at byte p under the time record of HOURS th (R410, R411): the words to write in order, the place after
them, the governing time record. `h` is the record's second; every time record written for it carries h. -/
def layRec (pcyc h part src code : Nat) (payload : List Word) : Nat → Nat → Option Nat → List Word → List Word × Nat × Option Nat
  | 0, p, th, acc => (acc, p, th)
  | fuel + 1, p, th, acc =>
    let len := if code / 4096 == 0xF then payload.length else payload.length + 1
    let due := p % 4096 == 0 || (match th with | none => true | some t => h - t ≥ 2 ^ 24 || h < t)
    let need := if due then 16 else 8 * len
    if p % 4096 + need > 4096 then
      let n := (4096 - p % 4096) / 8
      layRec pcyc h part src code payload fuel (p + 8 * n) th (acc ++ padWords 16 n)
    else if due then
      layRec pcyc h part src code payload fuel (p + 16) (some h)
        (acc ++ [recWord0 0 0x3FF 0 2 1, BitVec.ofNat 64 (pcyc % 2 ^ 32 * 2 ^ 32 + h % 2 ^ 32)])
    else
      (acc ++ (if code / 4096 == 0xF then payload else recWord0 (h - th.getD h) part src len code :: payload), p + 8 * len, th)

/-- A code that no check suppresses (R414). -/
def recUncond (code : Nat) : Bool := bit code 11

/-- REC.STAT.ORD_FULL and its attention bit, raised once (R417). -/
def Act.ordFull : Act := .get fun s => .all [
  .setF R.recStat F.recStat_ORD_FULL 1,
  .when (!s.recd.ordAttn) (.all [.modRecd fun r => { r with ordAttn := true }, .attnRec])]

/-- The space check and the write of one record into the log (R410, R417); `k` says what follows a record written. -/
def Act.recPlace (h part src code : Nat) (payload : List Word) (ifWritten ifDropped : Act) : Act := .get fun s =>
  let p := s.fld R.recStat F.recStat_WR_PTR
  let (ws, q, th) := layRec s.clk.pcyc h part src code payload 8 p s.recd.timeHours []
  let lim := if recUncond code || code / 4096 == 0 && p ≥ logOrdEnd then logEnd else logOrdEnd
  if q > lim || (p ≥ logOrdEnd && !(recUncond code) && code / 4096 != 0) then
    .all [
      if recUncond code then .all [.incF R.recCnt F.recCnt_DROPPED_U, .setF R.recStat F.recStat_RES_FULL 1]
      else .all [.incF R.recCnt F.recCnt_DROPPED, .ordFull],
      ifDropped]
  else
    .all [
      .each ws.zipIdx fun (w, i) => .setLog (p / 8 + i) w,
      .setF R.recStat F.recStat_WR_PTR q,
      .modRecd fun r => { r with timeHours := th },
      .when (q ≥ logOrdEnd) .ordFull,
      .when (q ≥ logEnd) (.setF R.recStat F.recStat_RES_FULL 1),
      ifWritten]

/-- A record past the Leash and the quota: staged while the log is frozen or being erased, else written (R417, R418). -/
def Act.recStore (part src code : Nat) (payload : List Word) (ifWritten ifDropped : Act) : Act := .get fun s =>
  if s.flag R.recStat F.recStat_FROZEN || s.flag R.recStat F.recStat_ERASING then
    (if s.recd.staged.length < 256 then
      .all [.modRecd fun r => { r with staged := r.staged ++ [⟨s.hours, part, src, code, payload⟩] },
        .incF R.recStat F.recStat_STAGED, ifWritten]
    else .all [.incF R.recCnt F.recCnt_FRZ_DROP, ifDropped])
  else .recPlace s.hours part src code payload ifWritten ifDropped

/-- A record and the suppressed record before it both find room (R416, R417). -/
def State.pairFits (s : State) (part src code supp : Nat) (payload : List Word) : Bool :=
  if s.flag R.recStat F.recStat_FROZEN || s.flag R.recStat F.recStat_ERASING then s.recd.staged.length + 2 ≤ 256
  else
    let a := layRec s.clk.pcyc s.hours part src 2 [BitVec.ofNat 64 supp] 8 (s.fld R.recStat F.recStat_WR_PTR) s.recd.timeHours []
    (layRec s.clk.pcyc s.hours part src code payload 8 a.2.1 a.2.2 []).2.1 ≤ logOrdEnd

/-- Trigger t fires when a native record of its code reaches the arbiter, whether or not it passes (R419). -/
def Act.trigFire (code : Nat) : Act := .each (List.range 16) fun t => .get fun s =>
  .when ((s.trigsAt t).code == code && code < 0xF000 && (s.trigsAt t).nval != 0)
    (.modTrigs t fun g => { g with tseq := (g.tseq + 1) % 2 ^ 32, due := g.due + 1 })

/-- A record reaches the recorder arbiter (R414-R419): trigger, Leash, quota, space, in that order. A code of bit 11 or of class 0 is
suppressed neither by the Leash nor by quota (R414). -/
def Act.record (src part code : Nat) (payload : List Word) : Act := .all [
  .trigFire code,
  .get fun s =>
    let l := s.leashAt code
    let free := recUncond code || code / 4096 == 0
    if !free && l.tokens == 0 then
      .all [.modLeash code fun l => { l with supp := min (l.supp + 1) (2 ^ 32 - 1) }, .incF R.recCnt2 F.recCnt2_SUPPRESSED]
    else
      let pair := l.supp != 0 && !free
      let bytes := 8 * (payload.length + 1) + (if pair then 16 else 0)
      .all [
        .when (!free) (.modLeash code fun l => { l with tokens := l.tokens - 1 }),
        if part < 256 && !free && s.recUsedAt part + bytes > (s.partsAt part).quota * 4096 then
          .all [.incF R.recCnt2 F.recCnt2_QUOTA_DROP, .modRecDrop part (· + 1)]
        else
          let charge := Act.when (part < 256) (.modRecUsed part (· + bytes))
          let own := Act.recStore part src code payload charge .skip
          if pair && !(s.pairFits part src code l.supp payload) then
            (if s.flag R.recStat F.recStat_FROZEN || s.flag R.recStat F.recStat_ERASING then .incF R.recCnt F.recCnt_FRZ_DROP
            else .all [.incF R.recCnt F.recCnt_DROPPED, .ordFull])
          else if pair then
            .recStore part src 2 [BitVec.ofNat 64 (l.supp * 2 ^ 32 + code)]
              (.all [.modLeash code fun l => { l with supp := 0 }, own]) .skip
          else own]]

/-- The source number of a core, a DSP group, a coding cluster, a die's memory (R413). -/
def srcCore (c : Nat) : Nat := if c < 32 then 0x40 + c else 0x80 + c - 32
def srcDsp (g : Nat) : Nat := if g < 6 then 0x60 + g else 0xA0 + g - 6
def srcCoding (c : Nat) : Nat := if c < 2 then 0x68 + c else 0xA8 + c - 2
def srcMem (d : Nat) : Nat := if d == 0 then 0x70 else 0xB0

/-! ### Violations (R29, R30, R315) -/

/-- The kinds of violation, as bits of SLICE.VIOL.KINDS. -/
def violMemory : Nat := 0
def violKey : Nat := 1
def violMailbox : Nat := 2
def violRegister : Nat := 3

/-- A violation is counted; the first of its kind since the last read is also recorded. -/
def Act.violation (part kind : Nat) : Act := .get fun s =>
  .all [
    .incF (R.sliceViol part) F.sliceViol_COUNT,
    .when (!(bit (s.fld (R.sliceViol part) F.sliceViol_KINDS) kind)) (.all [
      .modF (R.sliceViol part) F.sliceViol_KINDS (setBit · kind),
      .record 0x00 part 0x8001 [BitVec.ofNat 64 kind]])]

/-! ### Performance counters (R396-R401) -/

/-- Kind of a partition as PRIV numbers it: bit 59 manager, 58 slices, 57 radio. -/
def privBit (part : Nat) : Nat := if part < 256 then 1 else if part = 257 then 0 else 2

/-- A counter matches an event (R399). `addr` none: the event carries no address. What no partition's work causes is the manager's
(R397). -/
def pmcMatch (ctl : Word) (lo hi : Nat) (cls ev part master : Nat) (addr : Option Nat) : Bool :=
  let g (f : Field) := f.get ctl
  g F.gpmcCtl_EN == 1 && g F.gpmcCtl_EVCLASS == cls && g F.gpmcCtl_EVENT == ev && bit (g F.gpmcCtl_PRIV) (privBit part) &&
  (g F.gpmcCtl_PART == 0x3FF || g F.gpmcCtl_PART == (if part == 0x3FF then 256 else part)) && (g F.gpmcCtl_MASTER == 0 || g F.gpmcCtl_MASTER == master) &&
  (g F.gpmcCtl_ADDR_EN == 0 || (match addr with | some a => lo ≤ a && a < hi | none => false))

/-- A counter adds n; a wrap sets OVF, or adds to the odd counter of a chained pair (R401). `base` is the set's base address. -/
def Act.pmcAdd (base i n : Nat) : Act := .get fun s =>
  let val := base + 16 * i + 8
  let ctl := base + 16 * i
  let v := s.fld val F.gpmcVal_VALUE + n
  .all [
    .setF val F.gpmcVal_VALUE v,
    .when (v ≥ 2 ^ 48)
      (if s.fld ctl F.gpmcCtl_CHAIN == 1 && i % 2 == 0 then
        let w := s.fld (val + 16) F.gpmcVal_VALUE + 1
        .all [.setF (val + 16) F.gpmcVal_VALUE w, .when (w ≥ 2 ^ 48) (.setF ctl F.gpmcCtl_OVF 1)]
      else .setF ctl F.gpmcCtl_OVF 1)]

/-- The odd counter of a chained pair ignores its own selection (R401). -/
def State.pmcChained (s : State) (base i : Nat) : Bool := i % 2 == 1 && s.fld (base + 16 * (i - 1)) F.gpmcCtl_CHAIN == 1

/-- Counter i of the set at `base`, whose control word is `ctl`, counts an event that it matches (R399). -/
def Act.pmcOne (base i : Nat) (ctl : Word) (cls ev n part master : Nat) (addr : Option Nat) : Act := .get fun s =>
  .when (pmcMatch ctl (s.fld (base + 0x80) F.gpmcRange_ADDR) (s.fld (base + 0x88) F.gpmcRange_ADDR) cls ev part master addr
    && !(s.pmcChained base i)) (.pmcAdd base i n)

/-- Control words that are not at their reset value, hence may be enabled, in a range of registers. -/
def State.pmcListed (s : State) (lo size : Nat) : List (Nat × Word) :=
  s.regs.filter fun e => lo ≤ e.1 && e.1 < lo + size && e.1 % 16 == 0

/-- An event in the set of a core (R400). -/
def Act.pmcCore (c cls ev n part master : Nat) (addr : Option Nat := none) : Act := .get fun s =>
  .each (s.pmcListed (R.corePmcCtl c 0) 0x80) fun e =>
    .pmcOne (R.corePmcCtl c 0) ((e.1 - R.corePmcCtl c 0) / 16) e.2 cls ev n part master addr

/-- An event counts in every counter that matches (R399, R400): global sets, and the set of its core for classes 0-6. -/
def Act.pmc (core : Option Nat) (cls ev n part master : Nat) (addr : Option Nat := none) : Act := .get fun s =>
  .all [
    match core with
    | some c => .when (cls < 7) (.pmcCore c cls ev n part master addr)
    | none => .skip,
    .each (s.pmcListed (R.gpmcCtl 0 0) 0x800) fun e =>
      let set := (e.1 - R.gpmcCtl 0 0) / 0x100
      let i := (e.1 - R.gpmcCtl set 0) / 16
      .when (i < 8) (.pmcOne (R.gpmcCtl set 0) i e.2 cls ev n part master addr)]

/-- Bytes that the host DMA reads or writes for a partition (R400). -/
def Act.dmaCount (write : Bool) (n part : Nat) : Act := .get fun s => .when s.linkOn (.pmc none 0xB (if write then 1 else 0) n part 8)

/-- A write by the host DMA for a partition. -/
def Act.dmaWrite (part pasid addr : Nat) (data : List Byte) : Act := .all [.hostWrite pasid addr data, .dmaCount true data.length part]

/-- A time event, which no partition's work causes: in the set of every core, and once in the global sets (R397, R400; log 38). -/
def Act.pmcTime (ev : Nat) : Act := .all [
  .each (List.range 64) fun c => .pmcCore c 0 ev 1 256 0,
  .pmc none 0 ev 1 256 0]

/-- One core cycle passes (log 1), and counts; every eighth ends a global tick. -/
def Act.passCycle : Act := .all [
  .modClk fun c => { c with cyc := c.cyc + 1 },
  .pmcTime 0,
  .get fun s => .when (s.clk.cyc % 8 == 0) (.pmcTime 1)]

/-! ### Health (R389, R390) and the soft retirement map (R388) -/

/-- Address of HEALTH.UNIT. -/
def healthReg (kind idx : Nat) : Nat :=
  match kind with
  | 0 => R.healthUnitMod 0
  | 1 => R.healthUnitCh idx
  | 2 => R.healthUnitLane idx
  | 3 => R.healthUnitCore idx
  | _ => R.healthUnitArr idx

def State.healthLevel (s : State) (kind idx : Nat) : Nat := s.fld (healthReg kind idx) F.healthUnitMod_LEVEL

/-- A health event counts in the input of the current second. -/
def Act.healthEv (kind idx input : Nat) (n : Nat := 1) : Act := .all [
  .modHealth (kind * 1024 + idx) fun u =>
    match input with
    | 0 => { u with ev0 := u.ev0 + n }
    | 1 => { u with ev1 := u.ev1 + n }
    | 2 => { u with ev2 := u.ev2 + n }
    | _ => { u with ev3 := u.ev3 + n },
  .pmc none 0xD (kind * 4 + input) 1 256 0]

/-- The payload of a health record: KIND, index, score (R414). -/
def State.healthPayload (s : State) (kind idx : Nat) : List Word :=
  [BitVec.ofNat 64 kind, BitVec.ofNat 64 idx, BitVec.ofNat 64 (s.fld (healthReg kind idx) F.healthUnitMod_SCORE)]

/-- A unit reaches suspect (R390): one record and the MGR bit. -/
def Act.healthSuspect (kind idx : Nat) : Act := .all [
  .setF (healthReg kind idx) F.healthUnitMod_LEVEL 1,
  .get fun s => .record 0x00 0x3FF 0x9004 (s.healthPayload kind idx),
  .attnMgr]

/-- A unit reaches failed (R390): one record that is never suppressed and the MGR bit; the module is then suspect. -/
def Act.healthFailed (kind idx : Nat) : Act := .get fun s =>
  .when (s.healthLevel kind idx != 2) (.all [
    .setF (healthReg kind idx) F.healthUnitMod_LEVEL 2,
    .get fun s => .record 0x00 0x3FF 0x9805 (s.healthPayload kind idx),
    .attnMgr,
    .get fun s => .when (kind != 0 && s.healthLevel 0 0 == 0) (.healthSuspect 0 0)])

/-- A unit enters the soft retirement map (R388): bit numbers of the 608-bit map. -/
def Act.retireBit (b : Nat) : Act := .modFlash fun f => { f with retire := setBit f.retire b }

end Sys2Proof.Machine
end

