-- ==== Sys2Proof/Machine/CodeMath.lean ====
section
/-! DEFINITION. The front end of a coding cluster: CRCs, scrambling sequence, segmentation, rate matching, LLR arithmetic, HARQ storage
formats and the iteration grants (R205-R211, R216). The figures of TS 38.212 and TS 38.211 are PRESUMED (log 26): the spec names the
specifications and does not repeat them. -/

namespace Sys2Proof.Machine

/-! ### CRC (R205) -/

/-- Remainder of a bit string, first bit highest, by a generator of degree `n` whose low coefficients are `poly`. -/
def crcRem (n poly : Nat) (bs : List Nat) : Nat := bs.foldl (fun r b =>
  let top := r / 2 ^ (n - 1) % 2
  let sh := r * 2 % 2 ^ n
  if (top + b) % 2 == 1 then sh ^^^ poly else sh) 0

def crc24A : Nat := 0x864CFB
def crc24B : Nat := 0x800063
def crc16P : Nat := 0x1021
def crc24C : Nat := 0xB2B117
def crc11P : Nat := 0x621
def crc6P : Nat := 0x21

/-- Bits of a number, highest first. -/
def msbBits (n v : Nat) : List Nat := (List.range n).map fun i => v / 2 ^ (n - 1 - i) % 2

/-- CRC length of a transport block. -/
def tbCrcLen (tbs : Nat) : Nat := if tbs > 3824 then 24 else 16
def tbCrc (tbs : Nat) (bs : List Nat) : Nat := if tbs > 3824 then crcRem 24 crc24A bs else crcRem 16 crc16P bs

/-! ### Scrambling (R205): the length-31 Gold sequence -/

/-- The low `n` bits after `k` steps of x1 and x2: registers hold 31 bits, bit 0 first. -/
def goldStep (x : Nat × Nat) : Nat × Nat :=
  let a := x.1
  let b := x.2
  (a / 2 + (a + a / 8) % 2 * 2 ^ 30, b / 2 + (b + b / 2 + b / 4 + b / 8) % 2 * 2 ^ 30)

def goldSkip : Nat → Nat × Nat → Nat × Nat
  | 0, x => x
  | n + 1, x => goldSkip n (goldStep x)

def goldBits : Nat → Nat × Nat → List Nat
  | 0, _ => []
  | n + 1, x => (x.1 + x.2) % 2 :: goldBits n (goldStep x)

/-- The first n bits of the sequence of c_init. -/
def gold (cinit n : Nat) : List Nat := goldBits n (goldSkip 1600 (1, cinit % 2 ^ 31))

/-! ### Segmentation (R205) -/

/-- The lifting sizes, ascending. -/
def liftSizes : List Nat := (List.range 385).filter fun z => z ≥ 2 && [2, 3, 5, 7, 9, 11, 13, 15].any fun a =>
  (List.range 8).any fun j => a * 2 ^ j == z

/-- What segmentation gives for a TB. -/
structure Seg where
  C : Nat
  Kp : Nat
  K : Nat
  Zc : Nat
  crcCb : Nat
  N : Nat
  Ncb : Nat
deriving DecidableEq, Repr

def segOf (bg tbs lbrm : Nat) : Seg :=
  let B := tbs + tbCrcLen tbs
  let kcb := if bg == 0 then 8448 else 3840
  let C := if B ≤ kcb then 1 else cdiv B (kcb - 24)
  let L := if C == 1 then 0 else 24
  let Kp := (B + C * L) / C
  let kb := if bg == 0 then 22 else if B > 640 then 10 else if B > 560 then 9 else if B > 192 then 8 else 6
  let Zc := (liftSizes.find? fun z => kb * z ≥ Kp).getD 384
  let K := (if bg == 0 then 22 else 10) * Zc
  let N := (if bg == 0 then 66 else 50) * Zc
  let Ncb := if lbrm == 0 then N else min N (lbrm * 3 / (2 * C))
  ⟨C, Kp, K, Zc, L, N, Ncb⟩

/-- E of block r. -/
def segE (g nl qm C r : Nat) : Nat :=
  let u := nl * qm
  if r ≤ C - g / u % C - 1 then u * (g / (u * C)) else u * cdiv g (u * C)

/-- First bit of block r among the TB's coded bits. -/
def segStart (g nl qm C r : Nat) : Nat := ((List.range r).map fun i => segE g nl qm C i).sum

/-- Starting position of a redundancy version. -/
def segK0 (bg rv : Nat) (s : Seg) : Nat :=
  let f (a n : Nat) : Nat := a * s.Ncb / (n * s.Zc) * s.Zc
  if bg == 0 then f ([0, 17, 33, 56].getD rv 0) 66 else f ([0, 13, 25, 43].getD rv 0) 50

/-- A filler position of the circular buffer (the 2 Zc punctured positions are not in it). -/
def segFiller (s : Seg) (p : Nat) : Bool := s.Kp - 2 * s.Zc ≤ p && p < s.K - 2 * s.Zc

/-- The positions that bit selection goes round, from k0 on: every position but the filler. -/
def segRound (s : Seg) (k0 : Nat) : List Nat :=
  ((List.range s.Ncb).map fun i => (k0 + i) % s.Ncb).filter fun p => !(segFiller s p)

/-- The buffer positions of E bits in transmission order before interleaving. -/
def segPos (s : Seg) (k0 E : Nat) : List Nat :=
  let l := (segRound s k0).toArray
  (List.range E).map fun i => l.getD (i % max 1 l.size) 0

/-- Bit interleaving by Qm, and back. -/
def interleave (qm : Nat) (e : List α) (z : α) : List α :=
  let c := e.length / max 1 qm
  (List.range e.length).map fun n => e.getD (n % max 1 qm * c + n / max 1 qm) z
def deinterleave (qm : Nat) (f : List α) (z : α) : List α :=
  let c := f.length / max 1 qm
  (List.range f.length).map fun n => f.getD (n / max 1 c + n % max 1 c * qm) z

/-! ### LLRs (R206) -/

def sat127 (x : Int) : Int := max (-127) (min 127 x)

/-- An input byte. -/
def llrOf (b : Byte) : Int := if b.toInt == -128 then -127 else b.toInt

/-- LLRs added at positions of a buffer, saturating. -/
def addAt (buf : List Int) : List (Nat × Int) → List Int
  | [] => buf
  | (p, x) :: r => addAt (buf.set p (sat127 (buf.getD p 0 + x))) r

/-- Rate recovery of one block into a buffer of Ncb positions. -/
def rateRecover (s : Seg) (k0 qm : Nat) (buf llrs : List Int) : List Int :=
  addAt buf ((segPos s k0 llrs.length).zip (deinterleave qm llrs 0))

/-- What the decoder gets: punctured positions 0, filler +127. -/
def decoderIn (s : Seg) (buf : List Int) : List Int :=
  List.replicate (2 * s.Zc) 0 ++ buf.zipIdx.map fun (x, p) => if segFiller s p then 127 else x

/-- Rows of the base graph that the rate matching reaches (R207). -/
def segLayers (bg : Nat) (s : Seg) (k0 E : Nat) : Nat :=
  let hi := (segPos s k0 E).foldl max 0
  max 4 ((hi + 2 * s.Zc) / s.Zc + 1 - (if bg == 0 then 22 else 10))

/-! ### Layered offset min-sum (R207), on a base graph given as rows of (column, shift) -/

/-- The variables of check i of a layer, for a lifting size. -/
def rowVars (z : Nat) (row : List (Nat × Nat)) (i : Nat) : List Nat := row.map fun e => e.1 * z + (i + e.2) % z

def clampI (lo hi x : Int) : Int := max lo (min hi x)

/-- Messages of a check to its variables: the smallest magnitude of the other inputs, less the offset, with their signs; 7 bits. -/
def checkMsgs (off : Nat) (q : List Int) : List Int := q.zipIdx.map fun (_, k) =>
  let rest := (q.zipIdx.filter fun e => e.2 != k).map (·.1)
  let m : Nat := match rest with
    | [] => 0
    | x :: r => r.foldl (fun a y => min a y.natAbs) x.natAbs
  let v : Int := (min 63 (m - off) : Nat)
  if rest.countP (· < 0) % 2 == 1 then -v else v

/-- One check: 10-bit posteriors, and the check's own messages of the iteration before. -/
def checkPass (off : Nat) (p : Array Int) (vars : List Nat) (old : List Int) : Array Int × List Int :=
  let q := vars.zipIdx.map fun (v, k) => clampI (-512) 511 (p.getD v 0 - old.getD k 0)
  let new := checkMsgs off q
  ((vars.zip (q.zip new)).foldl (fun a (v, x, y) => a.setIfInBounds v (clampI (-512) 511 (x + y))) p, new)

/-- One layer: its checks share no variable. -/
def layerPass (z off : Nat) (p : Array Int) (row : List (Nat × Nat)) (old : List (List Int)) : Array Int × List (List Int) :=
  (List.range z).foldl (fun (a : Array Int × List (List Int)) i =>
    let r := checkPass off a.1 (rowVars z row i) (old.getD i [])
    (r.1, a.2 ++ [r.2])) (p, [])

/-- One iteration: every layer in ascending order. -/
def minSumPass (z off : Nat) (rows : List (List (Nat × Nat))) (x : Array Int × List (List (List Int))) : Array Int × List (List (List Int)) :=
  rows.zipIdx.foldl (fun (a : Array Int × List (List (List Int))) (row, k) =>
    let r := layerPass z off a.1 row (x.2.getD k [])
    (r.1, a.2 ++ [r.2])) (x.1, [])

def minSumRun (z off : Nat) (rows : List (List (Nat × Nat))) (p : Array Int) : Nat → Array Int × List (List (List Int))
  | 0 => (p, [])
  | n + 1 => minSumPass z off rows (minSumRun z off rows p n)

/-- The layers of a block. -/
def blockRows (bg z lay : Nat) : List (List (Nat × Nat)) := (Config.baseGraph bg z).take lay

/-- Hard decisions after a number of iterations: a positive value favours 0. -/
def ldpcHard (bg z lay off : Nat) (x : List Int) (n : Nat) : List Nat :=
  (minSumRun z off (blockRows bg z lay) x.toArray n).1.toList.map fun v => if v < 0 then 1 else 0

/-- The syndrome of bits over rows is zero (R208, R219). -/
def syndromeZero (z : Nat) (rows : List (List (Nat × Nat))) (bits : List Nat) : Bool :=
  let b := bits.toArray
  rows.all fun row => (List.range z).all fun i => ((rowVars z row i).map fun v => b.getD v 0).sum % 2 == 0

/-! ### Encoding (R219) -/

/-- Solution of equations over GF(2) in n unknowns, each equation a number: bit 0 its right side, bit j + 1 the coefficient of unknown j;
an unknown that no equation fixes is 0. -/
def gfSolve : Nat → List Nat → Nat
  | 0, _ => 0
  | n + 1, rows =>
    match rows.find? fun r => r.testBit (n + 1) with
    | none => gfSolve n rows
    | some r =>
      let x := gfSolve n ((rows.erase r).map fun y => if y.testBit (n + 1) then y ^^^ r else y)
      let v := (List.range (n + 1)).foldl (fun k j => if r.testBit j && (2 * x + 1).testBit j then k + 1 else k) 0
      x + v % 2 * 2 ^ n

/-- The equation that check i of a row sets for the parity bits of a codeword that begins with these bits. -/
def parityEq (z : Nat) (row : List (Nat × Nat)) (info : Array Nat) (i : Nat) : Nat :=
  (rowVars z row i).foldl (fun e v =>
    if v < info.size then (if info.getD v 0 % 2 == 1 then e ^^^ 1 else e) else e ^^^ 2 ^ (v - info.size + 1)) 0

/-- The codeword of a block of K bits: the parity bits that make the syndrome zero. -/
def ldpcCode (bg z : Nat) (info : List Nat) : List Nat :=
  let rows := Config.baseGraph bg z
  let a := info.toArray
  let m := rows.length * z
  let p := gfSolve m (rows.flatMap fun row => (List.range z).map fun i => parityEq z row a i)
  info ++ (List.range m).map fun j => if p.testBit j then 1 else 0

/-! ### HARQ formats (R216) -/

def hqStore (fmt : Nat) (x : Int) : Int := match fmt with
  | 0 => x
  | 1 => clampI (-32) 31 (x / 4)
  | _ => clampI (-8) 7 (x / 16)
def hqRestore (fmt : Nat) (s : Int) : Int := match fmt with
  | 0 => s
  | 1 => 4 * s + 2
  | _ => 16 * s + 8

/-! ### Iteration grants (R208, R210): one block on one decoder -/

def stopNone : Nat := 0
def stopBudget : Nat := 1
def stopEt : Nat := 2
def stopMax : Nat := 3

/-- Pools and result while a block runs. -/
structure Grant where
  main : Nat
  spill : Nat
  iters : Nat
  stop : Nat
  spilled : Bool
deriving DecidableEq, Repr

/-- The while loop of R210: `conv k` says whether the stop condition holds after k iterations. -/
def grantLoop (itMin itMax after : Nat) (conv : Nat → Bool) : Nat → Grant → Grant
  | 0, g => { g with stop := stopMax }
  | fuel + 1, g =>
    if g.iters ≥ itMax then { g with stop := stopMax }
    else
      let run (g : Grant) : Grant :=
        let g := { g with iters := g.iters + 1 }
        if conv g.iters then { g with stop := stopEt } else grantLoop itMin itMax after conv fuel g
      if g.iters < itMin then run { g with main := g.main - 1 }
      else if g.main > itMin * after then run { g with main := g.main - 1 }
      else if g.spill > 0 then run { g with spill := g.spill - 1, spilled := true }
      else { g with stop := stopBudget }

/-- Bits packed from bit 0 of byte 0 (R213). -/
def packLsb (bs : List Nat) : List Byte := (List.range (cdiv bs.length 8)).map fun i =>
  BitVec.ofNat 8 ((List.range 8).foldl (fun v k => v + bs.getD (8 * i + k) 0 * 2 ^ k) 0)
def unpackLsb (n : Nat) (d : List Byte) : List Nat := (List.range n).map fun i => (d.getD (i / 8) 0).toNat / 2 ^ (i % 8) % 2

end Sys2Proof.Machine
end

