-- ==== Sys2Proof/Machine/MemOps.lean ====
section
/-! DEFINITION. The device address map, address translation, the two memory codes, reads, writes and atomics at the home arbiter
(R114-R138). An error is kept as a pattern beside the data it disturbs; the codes are linear, so the pattern alone decides the
verdict. -/

namespace Sys2Proof.Machine

/-! ### Address map (R114-R116, R124) -/

def kennelEnd : Nat := 0x80000000
def storeWin : Nat := 0x200000000
def accWin : Nat := 0x280000000
def lpBase (d : Nat) : Nat := 0x10000000000 + d * 0x8000000000

/-- What a DPA names. -/
inductive DpaKind where
  | kennel
  | lp (die : Nat)
  | store (core off : Nat)
  | accs (core off : Nat)
  | reg
  | none
deriving DecidableEq, Repr

/-- Bytes of LPDDR5X populated on a die (R124, MEM.STAT.USABLE). -/
def State.lpSize (s : State) (d : Nat) : Nat := s.fld (R.memStat d) F.memStat_USABLE * 0x10000000

def State.dpaKind (s : State) (a : Nat) : DpaKind :=
  if a < kennelEnd then .kennel
  else if storeWin ≤ a ∧ a < storeWin + 64 * 0x400000 then
    let o := a - storeWin
    if o % 0x400000 < 0x300000 then .store (o / 0x400000) (o % 0x400000) else .none
  else if accWin ≤ a ∧ a < accWin + 64 * 0x400000 then
    let o := a - accWin
    if o % 0x400000 < 0x200000 then .accs (o / 0x400000) (o % 0x400000) else .none
  else if 0x300000000 ≤ a ∧ a < 0x400000000 then .reg
  else if lpBase 0 ≤ a ∧ a < lpBase 0 + s.lpSize 0 then .lp 0
  else if lpBase 1 ≤ a ∧ a < lpBase 1 + s.lpSize 1 then .lp 1
  else .none

/-- The LPDDR5X channel (0-63 on its die) that homes an address (R124). -/
def State.lpChannel (s : State) (d a : Nat) : Nat :=
  let act := if d == 0 then s.lpAct0 else s.lpAct1
  act.getD ((a - lpBase d) / 256 % (max 1 act.length)) 0

/-- The channel line and the row and slot of an address (R124). -/
def State.lpLine (s : State) (d a : Nat) : Nat :=
  let n := max 1 (if d == 0 then s.lpAct0 else s.lpAct1).length
  let x := a - lpBase d
  4 * (x / 256 / n) + x % 256 / 64

/-- The channel row and the slot in it of an address (R124). -/
def State.lpRow (s : State) (d a : Nat) : Nat := s.lpLine d a / 30
def State.lpSlot (s : State) (d a : Nat) : Nat := s.lpLine d a % 30

/-- The DPA of the line in a slot of a row of the channel with an active index (R124); none: beyond the populated range. -/
def State.lpSlotDpa (s : State) (d idx row slot : Nat) : Option Nat :=
  let n := max 1 (if d == 0 then s.lpAct0 else s.lpAct1).length
  let l := 30 * row + slot
  let x := (l / 4 * n + idx) * 256 + l % 4 * 64
  if slot < 30 && x < s.lpSize d then some (lpBase d + x) else none

/-- The Kennel bank of an address (R117). -/
def kennelBank (a : Nat) : Nat := bits a 13 6 ^^^ bits a 21 14

/-- Compute die of an address. -/
def dieOf (a : Nat) : Nat := if a < 0x40000000 then 0 else if a < kennelEnd then 1 else if a < lpBase 1 then 0 else 1

/-! ### Requesters and translation (R135) -/

/-- Partition code of the owner of a stream context (R91). -/
def State.ctxPart (s : State) (core ctx : Nat) : Nat :=
  match s.fld (R.coreCtxOwner core ctx) F.coreCtxOwner_KIND with
  | 1 => s.fld (R.coreCtxOwner core ctx) F.coreCtxOwner_SLICE
  | 2 => 0x101
  | _ => 0x3FF

/-- The partition whose coding job an engine works on. -/
def State.engPart (s : State) (e : Nat) : Nat :=
  match s.cjobs.findSome? fun x => x.2.bind fun j => if j.engines.contains e then some j.radio else none with
  | some r => if r then 0x101 else 0x100
  | none => 0x3FF

/-- The partition a requester acts for; 0x3FF none (R130, R137). -/
def State.reqPart (s : State) : Requester → Nat
  | .core c x => s.ctxPart c x
  | .dsp d => match (s.dspsAt d).job with
    | some j => if j.radio then 0x101 else 0x100
    | none => 0x3FF
  | .coding e => s.engPart e
  | .fronthaul _ => 0x101
  | .hostDma p => p
  | .bar2 => 0x3FF
  | .fabric => 0x3FF
  | .uhlile p => p

/-- Master kind of R398. -/
def reqMaster : Requester → Nat
  | .core _ _ => 2
  | .dsp _ => 4
  | .coding _ => 5
  | .fronthaul _ => 6
  | .hostDma _ => 8
  | .bar2 => 8
  | .fabric => 7
  | .uhlile _ => 9

/-- Rights of a segment: R, W, A as bits 0-2. -/
def rightR : Nat := 1
def rightW : Nat := 2
def rightA : Nat := 7

/-- The DPA of an address under one segment entry, if it lies in it and the entry has the rights (R135). -/
def segHit (right a : Nat) (g : Nat × Nat × Nat) : Option Nat :=
  let w0 := g.2.1
  let w1 := g.2.2
  let base := w0 % 2 ^ 32 * 0x10000
  let len := w1 % 2 ^ 32 * 0x10000
  let has := (if bit w0 62 then 1 else 0) + (if bit w0 61 then 2 else 0) + (if bit w0 60 then 4 else 0)
  if bit w0 63 && base ≤ a && a < base + len && has &&& right == right then some (w1 / 2 ^ 32 * 0x10000 + (a - base)) else none

/-- Partitions that use a segment table: the slices and the radio partition; the others use DPA. -/
def usesSegs (part : Nat) : Bool := part < 256 || part == 0x101

/-- The manager context's sync area: the part of the system unit that the radio partition's table leaves out (R121). -/
def mgrSync (a : Nat) : Bool := 0x1F000000 ≤ a && a < 0x1F004000

/-- Translation of one address (R135); none: a violation. -/
def State.xlate (s : State) (part right a : Nat) : Option Nat :=
  if usesSegs part then
    (if a < 2 ^ 48 then ((s.partsAt part).segs.findSome? (segHit right a)).filter fun d => !(part == 0x101 && mgrSync d) else none)
  else some a

/-- An access cut at 64 B lines: (address, bytes). -/
def lineChunks (a n : Nat) : List (Nat × Nat) :=
  if n == 0 then []
  else (List.range ((a + n - 1) / 64 + 1 - a / 64)).map fun i =>
    let lo := max a ((a / 64 + i) * 64)
    let hi := min (a + n) ((a / 64 + i) * 64 + 64)
    (lo, hi - lo)

/-- A quarter of a core whose context is running and not stopped at a mark (R116). DESIGN CHOICE (log 46): a quarter that a slice and the
radio share is closed whole by either's context. -/
def State.quarterBusy (s : State) (core quarter : Nat) : Bool :=
  (List.range 5).any fun x =>
    bit (s.fld (R.coreSeqStat core) F.coreSeqStat_CTX_ACTIVE) x && !(bit (s.fld (R.coreSeqStat core) F.coreSeqStat_CTX_PAUSED) x) &&
    (if x == 4 then bit (s.fld (R.coreSeqRadio core) F.coreSeqRadio_RADIO_ARR) quarter
     else bit (s.partsAt (s.ctxPart core x)).arrays (4 * core + quarter))

/-- The windows answer only the manager context, and only while the quarter's context is not active (R116). -/
def State.accessible (s : State) (part a : Nat) : Bool :=
  match s.dpaKind a with
  | .kennel => true
  | .lp _ => true
  | .store c o => !(usesSegs part) && !(s.quarterBusy c (o / 64 / 12288))
  | .accs c o => !(usesSegs part) && !(s.quarterBusy c (o / 2048 / 256))
  | _ => false

/-- The lines of an access at their DPAs; none: the access is a violation (R115, R116, R135). -/
def State.locate (s : State) (part right a n : Nat) : Option (List (Nat × Nat)) :=
  (lineChunks a n).mapM fun (x, k) =>
    match s.xlate part right x with
    | some d => if s.accessible part d then some (d, k) else none
    | none => none

/-- The kind of violation of an access that is refused: one that touches the device register range is of the register-access kind, any
other of the memory kind (R29, R115). Only a requester that uses DPA reaches that range. -/
def State.dpaViol (s : State) (part a n : Nat) : Nat :=
  if !(usesSegs part) && (lineChunks a n).any (fun e => match s.dpaKind e.1 with | .reg => true | _ => false) then violRegister
  else violMemory

/-! ### Kennel and store words: SEC-DED with the address folded in (R118, R378) -/

inductive WordVerdict where
  | clean
  | fixed (residual : BitVec 72)
  | bad (addr : Bool)
deriving DecidableEq, Repr

/-- Verdict on the errors standing in a word: one bit corrected, two bits or an address mismatch uncorrectable. -/
def wordVerdict (e : WordErr) : WordVerdict :=
  if e.addr then .bad true
  else
    match popcount e.flips.toNat 72 with
    | 0 => .clean
    | 1 => .fixed 0
    | 2 => .bad false
    | _ => match Config.secDedMulti e.flips with
      | some c => .fixed (e.flips ^^^ c)
      | none => .bad false

/-- Word numbers (DPA / 8) an access touches. -/
def wordsOf (a n : Nat) : List Nat := if n == 0 then [] else (List.range ((a + n - 1) / 8 + 1 - a / 8)).map (a / 8 + ·)

/-! ### LPDDR5X lines: Reed-Solomon over GF(2^16) (R125, R126) -/

/-- Multiplication by alpha. -/
def gfAlpha (x : Nat) : Nat := if x * 2 < 65536 then x * 2 else (x * 2) ^^^ 0x1100B

/-- Multiplication by alpha^q. -/
def gfAlphaPow (x : Nat) : Nat → Nat
  | 0 => x
  | q + 1 => gfAlpha (gfAlphaPow x q)

/-- Product in the field, over the low n bits of y. -/
def gfMulAux (x y : Nat) : Nat → Nat
  | 0 => 0
  | n + 1 => gfAlpha (gfMulAux x (y / 2) n) ^^^ (if y % 2 == 1 then x else 0)

def gfMul (x y : Nat) : Nat := gfMulAux x y 16

/-- The inverse of alpha + 1. -/
def gfInv3 : Nat := 0xF006

/-- Symbol error at codeword position q. -/
def symAt (e q : Nat) : Nat := e / 2 ^ (16 * q) % 65536

/-- Syndromes of an error pattern. -/
def rsS0 (e : Nat) : Nat := (List.range 37).foldl (fun x q => x ^^^ symAt e q) 0
def rsS1 (e : Nat) : Nat := (List.range 37).foldl (fun x q => x ^^^ gfAlphaPow (symAt e q) q) 0

/-- The check symbols of a line (R125): those at positions 0 and 1 that make both syndromes of the codeword zero. With s0 and s1 the
syndromes of the rest, c0 + c1 = s0 and c0 + alpha c1 = s1. -/
def rsCheck (dpa : Nat) (line : List Byte) : Nat × Nat :=
  let sym (q : Nat) : Nat :=
    if q < 34 then (line.getD (2 * (q - 2)) 0).toNat + 256 * (line.getD (2 * (q - 2) + 1) 0).toNat
    else dpa / 2 ^ (16 * (36 - q)) % 65536
  let w := (List.range 35).foldl (fun x i => x ||| sym (i + 2) * 2 ^ (16 * (i + 2))) 0
  let c1 := gfMul (rsS0 w ^^^ rsS1 w) gfInv3
  (rsS0 w ^^^ c1, c1)

inductive RsVerdict where
  | pass
  | fix (q : Nat)
  | bad (addr : Bool)
deriving DecidableEq, Repr

/-- R126: pass, correct the symbol at a position from 0 to 33, or uncorrectable, with ADDRFAIL for positions 34 to 36. -/
def rsVerdict (e : Nat) : RsVerdict :=
  let s0 := rsS0 e
  let s1 := rsS1 e
  if s0 == 0 && s1 == 0 then .pass
  else if s0 == 0 || s1 == 0 then .bad false
  else match (List.range 37).find? fun q => gfAlphaPow s0 q == s1 with
    | some q => if q ≤ 33 then .fix q else .bad true
    | none => .bad false

/-- What is left of an error pattern after the read's correction. -/
def rsResidual (e : Nat) : Nat :=
  match rsVerdict e with
  | .fix q => e ^^^ (rsS0 e * 2 ^ (16 * q))
  | _ => e

/-! ### Bytes -/

/-- The byte held at a DPA, errors aside. -/
def State.byteAt (s : State) (a : Nat) : Byte :=
  match s.dpaKind a with
  | .store c o => s.storeAt (c * 2 ^ 22 + o)
  | .accs c o => ((s.accAt (c * 131072 + o / 16)).toNat / 2 ^ (8 * (o % 16)) : Nat)
  | _ => s.memAt a

/-- Byte b of a channel row (R125): slot j at 64 j, its check symbols at 1,920 + 4 j, bytes 2,040 to 2,047 zero. Errors that stand in a
line are kept beside it. -/
def State.rowByte (s : State) (d idx row b : Nat) : Byte :=
  let line (j : Nat) : Option (Nat × List Byte) :=
    (s.lpSlotDpa d idx row j).map fun a => (a, (List.range 64).map fun i => s.byteAt (a + i))
  if b < 1920 then (match line (b / 64) with | some (_, l) => l.getD (b % 64) 0 | none => 0)
  else if b < 2040 then
    (match line ((b - 1920) / 4) with
    | some (a, l) => BitVec.ofNat 8 (((rsCheck a l).1 + 65536 * (rsCheck a l).2) / 256 ^ (b % 4))
    | none => 0)
  else 0

def Act.setByte (a : Nat) (b : Byte) : Act := .get fun s =>
  match s.dpaKind a with
  | .store c o => .setStore (c * 2 ^ 22 + o) b
  | .accs c o => .modAcc (c * 131072 + o / 16) fun q =>
      let sh := 8 * (o % 16)
      (q &&& ~~~(BitVec.ofNat 128 (255 * 2 ^ sh))) ||| BitVec.ofNat 128 (b.toNat * 2 ^ sh)
  | _ => .setMem a b

def State.readBytes (s : State) (a n : Nat) : List Byte := (List.range n).map fun i => s.byteAt (a + i)

def Act.setBytes (a : Nat) (d : List Byte) : Act := .each d.zipIdx fun (b, i) => .setByte (a + i) b

/-! ### Errors: counting, logging, fencing (R128-R130, R137) -/

/-- One more uncorrectable event in MEM.UE_LOG of die d; lost when all eight entries are valid (R137). -/
def Act.ueLog (d : Nat) (lp patrol addrFail pwrite : Bool) (a part : Nat) : Act := .get fun s =>
  let n := s.fld (R.memUeCtl d) F.memUeCtl_COUNT
  let one (b : Bool) : Nat := if b then 1 else 0
  let w0 := BitVec.ofNat 64 (2 ^ 63 + one lp * 2 ^ 62 + one patrol * 2 ^ 61 + one addrFail * 2 ^ 60 + one pwrite * 2 ^ 59
    + a % 2 ^ 48 / 64 * 64)
  let w1 := BitVec.ofNat 64 (part % 1024 * 2 ^ 54 + s.tick % 2 ^ 54)
  .all [
    if n < 8 then .all [.setRegs (R.memUeLog0 d n) w0, .setRegs (R.memUeLog1 d n) w1, .setF (R.memUeCtl d) F.memUeCtl_COUNT (n + 1)]
    else .incF (R.memUeCtl d) F.memUeCtl_LOST,
    .record (srcMem d) part 0x3001 [w0, w1]]

/-- Uhlile fences an LPDDR5X channel (R129): error responses only, entered in the soft retirement map, one record, its health
level failed (R390). -/
def Act.channelFence (ch : Nat) : Act := .get fun s =>
  let r := R.memCh (ch / 64) (ch % 64)
  .when (!(s.flag r F.memCh_FENCE)) (.all [
    .setF r F.memCh_FENCE 1,
    .setF r F.memCh_RETIRE_PEND 1,
    .retireBit (480 + ch),
    .record 0x00 0x3FF 0x3802 [BitVec.ofNat 64 ch],
    .healthFailed 1 ch])

/-- An uncorrectable line of a channel: counted, an input of its health, and the seventeenth distinct line within 1 s fences it
(R129). -/
def Act.channelUe (ch line : Nat) : Act := .get fun s =>
  let recent := (line, s.tick) :: (s.chUeAt ch).filter fun e => e.1 != line && s.tick < e.2 + 250000000
  .all [
    .incF (R.memCh (ch / 64) (ch % 64)) F.memCh_UE,
    .healthEv 1 ch 1,
    .setChUe ch recent,
    .when (recent.length > 16) (.channelFence ch)]

/-- An uncorrectable event at a DPA is logged and counted (R130). Errors of core and accumulator stores are not in the log. -/
def Act.ueEvent (a part : Nat) (patrol addrFail pwrite : Bool) : Act := .get fun s =>
  match s.dpaKind a with
  | .kennel => .all [.incF (R.memEccCnt (dieOf a)) F.memEccCnt_UE, .ueLog (dieOf a) false patrol addrFail pwrite a part]
  | .lp d => .all [.incF (R.memEccCnt d) F.memEccCnt_UE, .ueLog d true patrol addrFail pwrite a part,
      .channelUe (64 * d + s.lpChannel d a) (s.lpLine d a)]
  | _ => .skip

/-- Errors a word or line is born with: those that arise now. -/
def Act.upset (a : Nat) (u : Upset) : Act :=
  match u with
  | .bit w p => .modErrs (a / 64 * 8 + w % 8) fun e => { e with flips := e.flips ^^^ BitVec.ofNat 72 (2 ^ (p % 72)) }
  | .addr w => .modErrs (a / 64 * 8 + w % 8) fun e => { e with addr := true }
  | .symbol p x => .modLpErr (a / 64) fun e => e ^^^ (x.toNat * 2 ^ (16 * (p % 37)))

/-- The access meets an uncorrectable word or line, or a fenced channel (R126, R129, R130). -/
def State.lineBad (s : State) (a n : Nat) : Bool :=
  match s.dpaKind a with
  | .lp d => s.flag (R.memCh d (s.lpChannel d a)) F.memCh_FENCE ||
      (match rsVerdict (s.lpErrAt (a / 64)) with | .bad _ => true | _ => false)
  | _ => (wordsOf a n).any fun w => match wordVerdict (s.errsAt w) with | .bad _ => true | _ => false

/-- The uncorrectable verdict comes from the address. -/
def State.lineAddrFail (s : State) (a n : Nat) : Bool :=
  match s.dpaKind a with
  | .lp _ => rsVerdict (s.lpErrAt (a / 64)) == .bad true
  | _ => (wordsOf a n).any fun w => wordVerdict (s.errsAt w) == .bad true

/-- The access is refused by a fenced channel: no log, no count (R129). -/
def State.lineFenced (s : State) (a : Nat) : Bool :=
  match s.dpaKind a with
  | .lp d => s.flag (R.memCh d (s.lpChannel d a)) F.memCh_FENCE
  | _ => false

/-- Where a request comes from, for the counters (R399, R400): the core that issued it, the compute die of its requester, and the address that
the requester issued for a DPA of it. -/
structure Src where
  core : Option Nat
  die : Option Nat
  issued : Nat → Nat

/-- A requester that issues DPAs, off the compute dies. -/
def Src.plain : Src := ⟨none, none, id⟩

/-- The cores' and the DSPs' requests. -/
def coreSrc (c : Nat) : Src := ⟨some c, some (c / 32), id⟩
def dieSrc (d : Nat) : Src := ⟨none, some d, id⟩

/-- A requester's source. -/
def reqSrc : Requester → Src
  | .core c _ => coreSrc c
  | .dsp d => dieSrc (d / 48)
  | .coding e => dieSrc ((if e < 24 then e / 6 else (e - 24) % 8 / 2) / 2)
  | _ => .plain

/-- The address that was issued for a DPA, from the lines of the access and those it was translated from. -/
def issuedFor (ls cs : List (Nat × Nat)) (d : Nat) : Nat :=
  match (ls.zip cs).find? fun e => e.1.1 / 64 == d / 64 with
  | some e => e.2.1 / 64 * 64 + d % 64
  | none => d

/-- A corrected word is counted and written back corrected (R118, R128, R378). -/
def Act.wordFix (w part master : Nat) (src : Src := .plain) : Act := .get fun s =>
  match wordVerdict (s.errsAt w) with
  | .fixed res => .all [
      .each (List.range 8) fun i =>
        .when (bits res.toNat (8 * i + 7) (8 * i) != 0)
          (.get fun t => .setByte (8 * w + i) (t.byteAt (8 * w + i) ^^^ BitVec.ofNat 8 (bits res.toNat (8 * i + 7) (8 * i)))),
      .setErrs w ⟨0, false⟩,
      match s.dpaKind (8 * w) with
      | .kennel => .all [
          .incF (R.memEccCnt (dieOf (8 * w))) F.memEccCnt_KEN_CE,
          .incF (R.memKen (8 * w / 0x40000000) (8 * w / 0x20000000 % 2)) F.memKen_CE_WORDS,
          .pmc src.core 4 4 1 part master (some (src.issued (8 * w)))]
      | .store c _ => .all [.healthEv 3 c 0, .pmc (some c) 3 2 1 part master none]
      | .accs c _ => .all [.healthEv 3 c 0, .pmc (some c) 3 2 1 part master none]
      | _ => .skip]
  | _ => .skip

/-- What is left of a line's error pattern becomes its data, and the pattern is gone: the codeword that stands is a valid one. -/
def Act.lpSettle (l : Nat) : Act := .get fun s =>
  let res := rsResidual (s.lpErrAt l)
  .all [
    .each (List.range 32) fun i =>
      .when (symAt res (2 + i) != 0) (.get fun t => .all [
        .setMem (64 * l + 2 * i) (t.memAt (64 * l + 2 * i) ^^^ BitVec.ofNat 8 (symAt res (2 + i) % 256)),
        .setMem (64 * l + 2 * i + 1) (t.memAt (64 * l + 2 * i + 1) ^^^ BitVec.ofNat 8 (symAt res (2 + i) / 256))]),
    .setLpErr l 0]

/-- A corrected line is counted and written back corrected (R126, R128); a pattern whose syndromes are both zero passes silently, with the
disturbed data. -/
def Act.lpFix (d a part master : Nat) (src : Src := .plain) : Act := .get fun s =>
  match rsVerdict (s.lpErrAt (a / 64)) with
  | .pass => .when (s.lpErrAt (a / 64) != 0) (.lpSettle (a / 64))
  | .fix _ =>
    .all [
      .lpSettle (a / 64),
      .incF (R.memEccCnt d) F.memEccCnt_LP_CE,
      .incF (R.memCh d (s.lpChannel d a)) F.memCh_CE,
      .healthEv 1 (64 * d + s.lpChannel d a) 0,
      .pmc src.core 5 4 1 part master (some (src.issued a))]
  | _ => .skip

/-- What a readable access corrects (R118, R126, R128). -/
def Act.lineFix (a n part master : Nat) (src : Src := .plain) : Act := .get fun s =>
  match s.dpaKind a with
  | .lp d => .lpFix d a part master src
  | _ => .each (wordsOf a n) fun w => .wordFix w part master src

/-- A line read or written, for the counters; of Kennel also the access from the other compute die (R400). -/
def Act.lineCount (write : Bool) (a part master : Nat) (src : Src := .plain) : Act := .get fun s =>
  match s.dpaKind a with
  | .kennel => .all [
      .pmc src.core 4 (if write then 1 else 0) 1 part master (some (src.issued a)),
      .when (src.die.any (· != dieOf a)) (.pmc src.core 4 3 1 part master (some (src.issued a)))]
  | .lp _ => .pmc src.core 5 (if write then 1 else 0) 1 part master (some (src.issued a))
  | _ => .skip

/-- A read at the home arbiters of the lines of an access (R118, R126, R128-R130): `k` gets the data and whether the requester
receives an error response instead. -/
def Act.readLines (ls : List (Nat × Nat)) (part master : Nat) (k : List Byte → Bool → Act) (src : Src := .plain) : Act := .get fun s =>
  let bad := ls.any fun (a, n) => s.lineBad a n
  .all [
    .each ls fun (a, n) => .get fun t =>
      if t.lineBad a n then .when (!(t.lineFenced a)) (.ueEvent a part false (t.lineAddrFail a n) false)
      else .all [.lineCount false a part master src, .lineFix a n part master src],
    .get fun t => k (if bad then List.replicate (ls.foldl (fun x e => x + e.2) 0) 0 else ls.flatMap fun (a, n) => t.readBytes a n) bad]

/-- A read in a partition's address space (R135); a violation reads zero and is no error (R29). -/
def Act.readMem (part master a n : Nat) (k : List Byte → Bool → Act) (src : Src := .plain) : Act := .get fun s =>
  match s.locate part rightR a n with
  | some ls => .readLines ls part master k { src with issued := issuedFor ls (lineChunks a n) }
  | none => .all [.violation part (s.dpaViol part a n), k (List.replicate n 0) false]

/-- A part of a write that must merge: a word covered in part, or a line covered in part (R127). -/
def Act.writeChunk (a : Nat) (d : List Byte) (part master : Nat) (src : Src := .plain) : Act := .get fun s =>
  match s.dpaKind a with
  | .lp die =>
    if s.lineFenced a then .skip
    else if a % 64 == 0 && d.length == 64 then .all [.setLpErr (a / 64) 0, .setBytes a d, .lineCount true a part master src]
    else if s.lineBad a d.length then .ueEvent a part false (s.lineAddrFail a d.length) true
    else .all [.lpFix die a part master src, .setBytes a d, .lineCount true a part master src,
      .pmc src.core 5 3 1 part master (some (src.issued a))]
  | _ =>
    .all [
      .each (wordsOf a d.length) fun w => .get fun t =>
        let lo := max a (8 * w)
        let hi := min (a + d.length) (8 * w + 8)
        let part8 := (d.drop (lo - a)).take (hi - lo)
        if hi - lo == 8 then .all [.setErrs w ⟨0, false⟩, .setBytes lo part8]
        else match wordVerdict (t.errsAt w) with
          | .bad af => .ueEvent a part false af true
          | _ => .all [.wordFix w part master src, .setBytes lo part8],
      .lineCount true a part master src]

/-- The write of a chunk is refused somewhere (R127), so the writer gets an error response. -/
def State.chunkRefused (s : State) (a n : Nat) : Bool :=
  match s.dpaKind a with
  | .lp _ => s.lineFenced a || (!(a % 64 == 0 && n == 64) && s.lineBad a n)
  | _ => (wordsOf a n).any fun w =>
      (8 * w < a || a + n < 8 * w + 8) && (match wordVerdict (s.errsAt w) with | .bad _ => true | _ => false)

/-- Data laid over the lines of an access. -/
def splitData : List (Nat × Nat) → List Byte → List (Nat × List Byte)
  | [], _ => []
  | (a, n) :: r, d => (a, d.take n) :: splitData r (d.drop n)

def Act.writeLines (ls : List (Nat × Nat)) (d : List Byte) (part master : Nat) (k : Bool → Act) (src : Src := .plain) : Act := .get fun s =>
  .all [
    .each (splitData ls d) fun (a, b) => .writeChunk a b part master src,
    k (ls.any fun (a, n) => s.chunkRefused a n)]

/-- A write in a partition's address space (R127, R135); a violation writes nothing and is no error (R29). -/
def Act.writeMem (part master a : Nat) (d : List Byte) (k : Bool → Act) (src : Src := .plain) : Act := .get fun s =>
  match s.locate part rightW a d.length with
  | some ls => .writeLines ls d part master k { src with issued := issuedFor ls (lineChunks a d.length) }
  | none => .all [.violation part (s.dpaViol part a d.length), k false]

/-! ### The atomic unit (R134) -/

/-- The new value of an atomic, its old value as returned, and WRAP of an exact add (R50, R328). -/
def atomicEval (op : AtomicKind) (old : Nat) : Nat × Bool :=
  match op with
  | .signal => ((old + 1) % 2 ^ 32, false)
  | .add64 x => ((old + x.toNat) % 2 ^ 64, false)
  | .min64 x => (if (BitVec.ofNat 64 old).toInt ≤ x.toInt then old else x.toNat, false)
  | .max64 x => (if (BitVec.ofNat 64 old).toInt ≥ x.toInt then old else x.toNat, false)
  | .swap64 x => (x.toNat, false)
  | .cas64 x c => (if old == c.toNat then x.toNat else old, false)
  | .ladd128 x =>
    let e := (BitVec.ofNat 128 old).toInt + x.toInt
    (wrapTo 128 e, e < -(2 ^ 127 : Nat) || e ≥ (2 ^ 127 : Nat))

/-- Width in bytes of an atomic's target. -/
def atomicSize (op : AtomicKind) : Nat :=
  match op with
  | .signal => 4
  | .ladd128 _ => 16
  | _ => 8

/-- One operation on a line at a DPA, in arbiter order; a target with an uncorrectable error is left alone and answered with an
error response (R134). `k` gets the old value, WRAP, the error. -/
def Act.atomicAt (a : Nat) (op : AtomicKind) (part master : Nat) (k : Nat → Bool → Bool → Act) (src : Src := .plain) : Act := .get fun s =>
  let n := atomicSize op
  if s.lineBad a n then
    .all [.when (!(s.lineFenced a)) (.ueEvent a part false (s.lineAddrFail a n) false), k 0 false true]
  else .all [
    .lineFix a n part master src,
    match s.dpaKind a with
    | .kennel => .pmc src.core 4 2 1 part master (some (src.issued a))
    | _ => .all [.lineCount false a part master src, .lineCount true a part master src],
    .get fun t =>
      let old := leNat (t.readBytes a n)
      let r := atomicEval op old
      .all [.setBytes a (leBytes r.1 n), k old r.2 false]]

end Sys2Proof.Machine
end

