-- ==== Sys2Proof/Machine/Clock.lean ====
section
/-! DEFINITION. Reading the clock: the FR form, the SN clock, the comparison of times, and whether the radio is held (R158, R246-R249). -/

namespace Sys2Proof.Machine

/-- A signed field. -/
def sfld (s : State) (a : Nat) (f : Field) : Int :=
  let n := f.hi + 1 - f.lo
  let v := s.fld a f
  if v ≥ 2 ^ (n - 1) then (v : Int) - (2 ^ n : Nat) else v

/-- A signed value of n bits, saturating. -/
def satBits (n : Nat) (v : Int) : Nat :=
  let hi : Int := 2 ^ (n - 1) - 1
  let w := if v > hi then hi else if v < -hi - 1 then -hi - 1 else v
  (w % (2 ^ n : Nat)).toNat

/-- Nearest integer of a / b, b positive, halves upward. -/
def divNear (a b : Int) : Int := (2 * a + b) / (2 * b)

/-- RATE in force. -/
def State.rate (s : State) : Int := sfld s R.timeServo F.timeServo_RATE

/-- The FR count in ns. -/
def State.fr (s : State) : Nat := 4 * s.tick

/-- FR reading in 2^-40 ns (R246). -/
def State.frReading (s : State) : Int := (s.fr : Int) * 2 ^ 40 + s.time.off + s.rate * ((s.fr : Int) - s.time.frRef)

/-- SN clock in 2^-40 ns (R247). -/
def State.snNow (s : State) : Int := s.time.sn + ((s.tick : Int) - s.time.snTick) * (4 * 2 ^ 40 + 4 * s.rate)

def State.timeState (s : State) : Nat := s.fld R.timeStat F.timeStat_STATE
def stFrStart : Nat := 0
def stAcquire : Nat := 1
def stLocked : Nat := 2
def stHoldover : Nat := 3
def stRecovery : Nat := 4

/-- The module runs on the SN clock. -/
def State.onSn (s : State) : Bool := s.flag R.timeStat F.timeStat_FORM

/-- The reading in force, in 2^-40 ns, and in whole ns as a 64-bit count (R246-R248). -/
def State.reading (s : State) : Int := if s.onSn then s.snNow else s.frReading
def State.readingNs (s : State) : Nat := ((s.reading / 2 ^ 40) % (2 ^ 64 : Nat)).toNat

/-- b - a as R248 takes it: modulo 2^64, signed. -/
def since (a b : Int) : Int := (b - a + 2 ^ 63) % 2 ^ 64 - 2 ^ 63

/-- Time b is later than time a (R248). -/
def later (b a : Nat) : Bool := let d := (b + 2 ^ 64 - a % 2 ^ 64) % 2 ^ 64; 0 < d && d < 2 ^ 63

/-- The radio partition is held: in RECOVERY and until emission resumes, and in every FR state (R158, R249). -/
def State.radioHeld (s : State) : Bool := s.flag R.radioStat F.radioStat_HELD || !s.onSn

end Sys2Proof.Machine
end

