-- ==== Sys2Proof/Machine/LastOps.lean ====
section
/-! DEFINITION. Reading the Last: who holds an array, a DSP group or an engine in a stitch, leftover runs, and the power bucket
(R98, R265, R266, R272-R276, R280). -/

namespace Sys2Proof.Machine

/-- The stitch entry of the active copy; beyond 1,999 every group is leftover (R264). -/
def State.stitchEnt (s : State) (n : Nat) : StitchEnt :=
  if n < 2000 then (match s.last.active.ents.find? (·.1 == n) with | some e => e.2 | none => ⟨0, 0, 0, 0, 0⟩) else ⟨0, 0, 0, 0, 0⟩

def State.stitch (s : State) : Nat := s.fld R.lastStat F.lastStat_STITCH

def State.arrFenced (s : State) (c a : Nat) : Bool := s.flag (R.coreArrStat c a) F.coreArrStat_FENCE

/-- Arrays of a core that the Last gives to the radio in a stitch, before substitution. -/
def State.radioBits (s : State) (n c : Nat) : List Nat := (List.range 4).filter fun a => bit (s.stitchEnt n).arr (4 * c + a)

/-- The arrays that replace fenced radio arrays in a stitch: for each fenced one, ascending, the lowest unfenced leftover array of the
core not yet taken (R276). -/
def State.substOf (s : State) (n c : Nat) : List Nat :=
  let rad := s.radioBits n c
  let free := (List.range 4).filter fun a => !(rad.contains a) && !(s.arrFenced c a)
  free.take (rad.filter fun a => s.arrFenced c a).length

/-- The array is the radio's in the stitch. -/
def State.arrRadio (s : State) (n c a : Nat) : Bool :=
  ((s.radioBits n c).contains a && !(s.arrFenced c a)) || (s.substOf n c).contains a

/-- The leftover window of the array is closed now by a radio re-run: until it commits, and to the end of the stitch in which it does
(R152). -/
def State.arrClosed (s : State) (c a : Nat) : Bool :=
  (s.arrsAt (4 * c + a)).rerun || match (s.arrsAt (4 * c + a)).closed with
  | some (p, n) => p == s.fld R.lastPeriod F.lastPeriod_PERIODS && n == s.stitch
  | none => false

/-- The owner holds the array of the core at all: a slice by its grant, the radio where the Last ever names it. -/
def State.holdsArr (s : State) (part c a : Nat) : Bool :=
  if part < 256 then bit (s.partsAt part).arrays (4 * c + a)
  else bit (s.fld (R.coreSeqRadio c) F.coreSeqRadio_RADIO_ARR) a || (List.range 2000).any (fun n => s.arrRadio n c a)

/-- The owner holds the array in the current stitch (R98). -/
def State.ownsNow (s : State) (part c a : Nat) : Bool :=
  if part < 256 then bit (s.partsAt part).arrays (4 * c + a) && !(s.arrRadio s.stitch c a) && !(s.arrClosed c a)
  else s.arrRadio s.stitch c a

def stitchLen (n : Nat) : Nat := if n == 1999 then 976 else 1000

/-- Core cycle at which the run of stitches of a resource that holds the current one ends, looked at as far as `need` cycles ahead
(R273): `other n`: the resource is not its owner's in stitch n; `cut`: a pending swap ends the run at the period boundary. -/
def State.runEnd (s : State) (cut : Bool) (other : Nat → Bool) (need : Nat) : Nat → Nat → Nat → Nat
  | 0, _, e => e
  | fuel + 1, n, e =>
    if e ≥ s.clk.cyc + need then e
    else
      let m := if n + 1 ≥ 2000 then 0 else n + 1
      if m == 0 && cut && s.flag R.lastStat F.lastStat_SWAP_PEND then e
      else if other m then e
      else s.runEnd cut other need fuel m (e + stitchLen m)

/-- End of the leftover run at the current stitch; `rad n`: the resource is the radio's in stitch n. -/
def State.leftoverEnd (s : State) (rad : Nat → Bool) (need : Nat) : Nat :=
  s.runEnd true rad need 2000 s.stitch (s.last.stitchCyc + stitchLen s.stitch)

/-- End of the radio's positions at the current stitch: they go on across a swap (R271). -/
def State.radioEnd (s : State) (rad : Nat → Bool) (need : Nat) : Nat :=
  s.runEnd false (fun n => !(rad n)) need 2000 s.stitch (s.last.stitchCyc + stitchLen s.stitch)

/-- Longest run, in core cycles, of stitches of the active Last that satisfy `f`, across the period boundary (R198). -/
def longestRun (f : Nat → Bool) : Nat :=
  ((List.range 4000).foldl (fun (best, cur) n =>
    if f (n % 2000) then (max best (cur + stitchLen (n % 2000)), cur + stitchLen (n % 2000)) else (best, 0)) (0, 0)).1

/-- Power weight of an inference tile in tenths of a watt (R279). -/
def fmtWeight (fmt : Nat) : Nat := [24, 28, 28, 29, 29, 30, 30, 30, 27, 27, 25].getD fmt 30

/-- The charge of a tile in 1/600 nJ: B x 0.5 ns x weight (R280). -/
def tileCharge (fmt b : Nat) : Nat := b * fmtWeight fmt * 30

/-- Admission against the bucket: paid, or a wait that is counted once for the stitch (R280, R392). -/
def Act.charge (n : Nat) (paid waits : Act) : Act := .get fun s =>
  if s.last.bucket ≥ n then .all [.modLast fun l => { l with bucket := l.bucket - n }, paid]
  else .all [.when (!s.last.pwrHold) (.all [.modLast fun l => { l with pwrHold := true },
    .incF R.lastCnt F.lastCnt_PWR_HOLD,
    .pmc none 0xC 0 1 0x100 0]), waits]

/-- Group positions of a copy, and whether it gives an array a radio position. -/
def LastCopy.groups (c : LastCopy) : List (Nat × Nat × Nat × Nat) := c.ents.map fun (n, e) => (n, e.arr, e.eng, e.dsp)
def LastCopy.names (c : LastCopy) (i : Nat) : Bool := c.ents.any fun e => bit e.2.arr i

/-- What a slice's step report counts: overrun aborts, re-runs, and stitches in which an admission waited for credit (R392). -/
def Act.srOverrun (p : Nat) : Act := .when (p < 256) (.modParts p fun x => { x with srOverruns := min (x.srOverruns + 1) 65535 })
def Act.srRerun (p : Nat) : Act := .when (p < 256) (.modParts p fun x => { x with srReruns := min (x.srReruns + 1) 65535 })
def Act.srHold (p : Nat) : Act := .get fun s =>
  let k := s.fld R.lastPeriod F.lastPeriod_PERIODS * 4096 + s.stitch + 1
  .when (p < 256 && (s.partsAt p).lastPwrHold != k)
    (.modParts p fun x => { x with lastPwrHold := k, srPwrHold := min (x.srPwrHold + 1) 65535 })

end Sys2Proof.Machine
end

