-- ==== Sys2Proof/Machine/RadioMath.lean ====
section
/-! DEFINITION. The record of a cell, slot and symbol times, transmission bandwidths, TDD patterns, levels in dB, compression and gain of the radio
(R139, R142, R162, R166-R180, R262, R270; log 28). -/

namespace Sys2Proof.Machine

/-! ### The cell record (R142) -/

def recWord (r : List Nat) (i : Nat) : Nat := r.getD i 0
def recCell (r : List Nat) : Nat := bits (recWord r 0) 63 55
def recScs (r : List Nat) : Nat := bits (recWord r 0) 54 53
def recBw (r : List Nat) : Nat := bits (recWord r 0) 52 44
def recUl (r : List Nat) : Nat := bits (recWord r 0) 43 39
def recDl (r : List Nat) : Nat := bits (recWord r 0) 38 34
def recFhMode (r : List Nat) : Nat := bits (recWord r 0) 33 32
def recDuplex (r : List Nat) : Nat := bits (recWord r 0) 31 31
def recOp (r : List Nat) : Nat := bits (recWord r 0) 30 30
def recPort (r : List Nat) : Nat := bits (recWord r 0) 29 24
def recTadv (r : List Nat) : Nat := bits (recWord r 0) 23 15
def recHarq (r : List Nat) : Nat := if bits (recWord r 0) 14 10 == 0 then 32 else bits (recWord r 0) 14 10
def recNrx (r : List Nat) : Nat := bits (recWord r 0) 9 2
def recTddPat (r : List Nat) : Nat := recWord r 1
def recReqBase (r : List Nat) : Nat := recWord r 2
def recIndBase (r : List Nat) : Nat := recWord r 3
def recDepth (r : List Nat) : Nat := bits (recWord r 4) 63 56
def recReqBlk (r : List Nat) : Nat := bits (recWord r 4) 55 45 * 1024
def recIndBlk (r : List Nat) : Nat := bits (recWord r 4) 44 34 * 1024
def recPasid (r : List Nat) : Nat := bits (recWord r 4) 33 14
def recModDl (r : List Nat) : Nat := bits (recWord r 5) 63 56
def recModUl (r : List Nat) : Nat := bits (recWord r 5) 55 48
def recUeMax (r : List Nat) : Nat := bits (recWord r 5) 47 40

/-- The numerology of an SCS code: 15, 30 and 120 kHz (R139). -/
def muOf (scs : Nat) : Nat := match scs with
  | 0 => 0
  | 1 => 1
  | _ => 3

/-- Slots in a Last period (R139). -/
def slotsPerPeriod (scs : Nat) : Nat := 2 ^ muOf scs

/-- SFN and slot within the frame of an extended slot number (R262). -/
def sfnSlot (scs esn : Nat) : Nat × Nat :=
  let f := 10 * 2 ^ muOf scs
  (esn / f % 1024, esn % f)

def CellSt.applied (c : CellSt) : Bool := !c.rcd.isEmpty

/-! ### Bandwidth and carrier units (R139, R141) -/

/-- Channel bandwidths and their N_RB, by SCS code (TS 38.104; log 28). -/
def nrbTable (scs : Nat) : List (Nat × Nat) :=
  match scs with
  | 0 => [(5, 25), (10, 52), (15, 79), (20, 106), (25, 133), (30, 160), (40, 216), (50, 270)]
  | 1 => [(5, 11), (10, 24), (15, 38), (20, 51), (25, 65), (30, 78), (40, 106), (50, 133), (60, 162), (70, 189), (80, 217), (90, 245),
      (100, 273)]
  | 2 => [(50, 32), (100, 66), (200, 132), (400, 264)]
  | _ => []

def nrbOf (scs bw : Nat) : Nat := ((nrbTable scs).find? (·.1 == bw)).elim 0 (·.2)
def recNrb (r : List Nat) : Nat := nrbOf (recScs r) (recBw r)

/-- Cost of a cell in quarters of a CU (R141). -/
def cuQuarters (r : List Nat) : Nat := max 1 (cdiv (recBw r * max (recUl r) (recDl r)) 100)

/-! ### Slots (R262) -/

def gpsMs : Int := 315964819000

/-- Ordinal of the slot of a numerology in which the reading stands. -/
def State.slotNow (s : State) (mu : Nat) : Int :=
  ((s.readingNs : Int) - (gpsMs + s.last.offMs) * 1000000) * 2 ^ mu / 1000000

/-- The slot ordinal that an extended slot number names, the one nearest to now. -/
def State.slotFull (s : State) (mu esn : Nat) : Int :=
  let n := s.slotNow mu
  let d := ((esn : Int) - n) % 2 ^ 32
  n + (if d ≥ 2 ^ 31 then d - 2 ^ 32 else d)

/-- Air time of a slot on the SN clock, in ns. -/
def State.slotStart (s : State) (mu esn : Nat) : Int := (gpsMs + s.last.offMs) * 1000000 + s.slotFull mu esn * 1000000 / 2 ^ mu

/-- Start of a symbol within its slot, in samples of 30.72 MHz x 2^mu; the longer prefix stands at symbols 0 and 7 x 2^mu of a subframe
(R175; log 28). -/
def symStart (mu slotInSub sym : Nat) : Nat :=
  let long (a : Nat) : Nat := (if a > 0 then 1 else 0) + (if a > 7 * 2 ^ mu then 1 else 0)
  let at_ (a : Nat) : Nat := 2192 * a + 16 * long a
  at_ (14 * slotInSub + sym) - at_ (14 * slotInSub)

/-- Length of a symbol's cyclic prefix at FFT size n (R175). -/
def cpLen (mu slotInSub sym n : Nat) : Nat :=
  let a := 14 * slotInSub + sym
  144 * n / 2048 + (if a % (7 * 2 ^ mu) == 0 then 16 * n / 2048 else 0)

/-- A stamp in ns against a symbol's start plus a number of microseconds: the difference in units of 1 / (96 x 2^mu) ns. -/
def State.sinceSymbol (s : State) (mu esn sym us : Nat) (stamp : Nat) : Int :=
  (since (s.slotStart mu esn) stamp - us * 1000) * (96 * 2 ^ mu) - symStart mu (esn % 2 ^ mu) sym * 3125

/-- A slot is held: the unit is not on the SN clock, or the slot begins before the time at which emission resumes (R158, R249). -/
def State.heldFor (s : State) (mu esn : Nat) : Bool :=
  !s.onSn || (s.flag R.radioStat F.radioStat_HELD && match s.radio.resume with
    | some t => since t (s.slotStart mu esn) < 0
    | none => true)

/-! ### TDD patterns (R270) -/

def tddSlots (r : List Nat) : Nat := bits (recWord r 8) 63 56
/-- NDL and NUL of entry i. -/
def tddEntry (r : List Nat) (i : Nat) : Nat × Nat :=
  let h := recWord r (9 + i / 4) / 2 ^ (16 * (i % 4))
  (h % 256, h / 256 % 256)

/-- A pattern within R270's limits. -/
def tddOk (scs : Nat) (r : List Nat) : Bool :=
  let p := tddSlots r
  1 ≤ p && p ≤ 160 && 20 * 2 ^ muOf scs % p == 0 && (List.range p).all fun i => let (d, u) := tddEntry r i; d + u ≤ 14

/-- Downlink symbols from the start and uplink symbols at the end of a slot. -/
def slotSyms (r : List Nat) (esn : Nat) : Nat × Nat :=
  if recDuplex r == 1 then (14, 14)
  else tddEntry r (esn % (10240 * 2 ^ muOf (recScs r)) % max 1 (tddSlots r))

def ulSym (r : List Nat) (esn sym : Nat) : Bool := sym < 14 && sym + (slotSyms r esn).2 ≥ 14
def dlSym (r : List Nat) (esn sym : Nat) : Bool := sym < (slotSyms r esn).1

/-! ### Levels in quarters of a dB (R178, R180, R231) -/

/-- p / n is at least q quarters of a dB. -/
def dbAtLeast (p n q : Nat) : Bool := p ^ 40 ≥ n ^ 40 * 10 ^ q

/-- Nearest quarter of a dB of n / d, at least -600. -/
def quarterDb (n d : Nat) : Int :=
  if n == 0 || d == 0 then -600
  else
    let a := n ^ 80
    let b := d ^ 80
    let ge (q : Int) : Bool := if 2 * q - 1 ≥ 0 then a ≥ b * 10 ^ (2 * q - 1).toNat else a * 10 ^ (1 - 2 * q).toNat ≥ b
    (((List.range (13 * (n.log2 + 1) + 600)).filter fun (i : Nat) => ge ((i : Int) - 599)).length : Int) - 600

def fullScale : Nat := 2 * 32767 * 32767
def power (l : List (Int × Int)) : Nat := l.foldl (fun (n : Nat) (x : Int × Int) => n + (x.1 * x.1 + x.2 * x.2).toNat) 0

/-! ### Compression (R166, R167) -/

def sat16 (v : Int) : Int := if v > 32767 then 32767 else if v < -32768 then -32768 else v

def pairUp : List Int → List (Int × Int)
  | i :: q :: r => (i, q) :: pairUp r
  | [i] => [(i, 0)]
  | [] => []

/-- A PRB decompressed: its elements, and whether a value saturated. -/
def prbLine (exp : Nat) (mant : List Int) : LineSt :=
  let v := mant.map fun m => m * 2 ^ exp
  ⟨pairUp ((v.map sat16).take 24), 0xFF, if v.any (fun x => sat16 x != x) then 2 else 0⟩

/-- Bits of a udIqWidth code; 0 means 16. -/
def iqBits (w : Nat) : Nat := if w == 0 then 16 else w

/-- The smallest exponent that brings every value into the width (R167). -/
def bfpExp (w : Nat) (v : List Int) : Nat :=
  ((List.range 16).find? fun e => v.all fun x => -(2 ^ (w - 1)) ≤ x / 2 ^ e && x / 2 ^ e < 2 ^ (w - 1)).getD 15

/-- Bytes of fields of w bits, most significant first. -/
def packBE (w : Nat) (v : List Int) : List Byte :=
  let n := v.foldl (fun (a : Nat) (x : Int) => a * 2 ^ w + (x % (2 ^ w : Nat)).toNat) 0
  let total := w * v.length
  let pad := (8 - total % 8) % 8
  (leBytes (n * 2 ^ pad) ((total + pad) / 8)).reverse

/-- One PRB as sent: method 1 block floating point with its exponent byte, else 16-bit values. -/
def prbBytes (meth width : Nat) (v : List Int) : List Byte :=
  if meth == 1 then
    let e := bfpExp (iqBits width) v
    BitVec.ofNat 8 e :: packBE (iqBits width) (v.map fun x => x / 2 ^ e)
  else packBE 16 v

/-! ### Latched registers (R179, R182, R227) -/

def CellSt.reg (x : CellSt) (i : Nat) : Word := x.cfg.getD i 0
def CellSt.fhAddr (x : CellSt) (f : Field) : Nat := f.get (x.reg 4)
def CellSt.fhId (x : CellSt) (f : Field) : Nat := f.get (x.reg 5)
def CellSt.fhWin (x : CellSt) (f : Field) : Nat := f.get (x.reg 6)
def CellSt.fhGain (x : CellSt) (f : Field) : Nat := f.get (x.reg 7)

def signed8 (n : Nat) : Int := if n ≥ 128 then (n : Int) - 256 else n

/-- A stream as it stands when its cell starts (R176, R178). -/
def CellSt.freshStream (x : CellSt) : StreamSt :=
  ⟨x.fhGain F.fhCellGain_INIT_STEP, 0, 0, 0, [], [], [], []⟩

def CellSt.stream (x : CellSt) (k : Nat) : StreamSt :=
  match x.streams.find? (·.1 == k) with
  | some e => e.2
  | none => x.freshStream

def CellSt.putStream (x : CellSt) (k : Nat) (t : StreamSt) : CellSt :=
  { x with streams := x.streams.filter (·.1 != k) ++ [(k, t)] }

def Act.modStream (c k : Nat) (g : StreamSt → StreamSt) : Act := .modCells c fun x => x.putStream k (g (x.stream k))

/-- First call of an NRX that serves a cell: the two words of its entry (R155). -/
def nrxCallOf (n : NrxSt) (r : List Nat) : Option (Nat × Nat) :=
  n.calls.find? fun (w0, _) => bit w0 (29 + recScs r) && bits w0 28 24 ≤ recUl r && recUl r ≤ bits w0 23 19 && recNrb r ≤ bits w0 18 9

/-- What a record, with the registers that its cell goes by, asks of the module (R144, R155). -/
def State.demandOf (s : State) (ws : List Word) (r : List Nat) : CellDemand :=
  match (s.radio.nrxs.find? (·.n == recNrx r)).bind (nrxCallOf · r) with
  | some (_, w1) => if recNrx r == 0 then (r, ws.map (·.toNat), 0, 0) else (r, ws.map (·.toNat), bits w1 63 32 * recNrb r, bits w1 31 12)
  | none => (r, ws.map (·.toNat), 0, 0)

/-! ### Lines in the carve-out (R168) -/

/-- Kennel address of line i of an area of a cell's slot: 0 landed lines, 1 lines of the PRACH, 2 lines left for egress, 3 payloads,
4 beamforming weights; where a cell's data and its areas lie is firmware's (log 30). -/
def CellSt.place (x : CellSt) (area esn i : Nat) : Nat :=
  (x.base / 64 + Config.cellPlace (x.rcd.take 8) area (esn % 16) + i) % 2 ^ 25 * 64

/-- Uplink symbols of a slot. -/
def ulCount (r : List Nat) (esn : Nat) : Nat := ((List.range 14).filter (ulSym r esn)).length

/-- Landed lines stand by uplink symbol, then stream, then PRB (R155); lines for egress by symbol, layer, PRB; lines of the PRACH by
symbol, stream, PRB. -/
def CellSt.ulLine (x : CellSt) (stream esn sym prb : Nat) : Nat :=
  x.place 0 esn (((sym + ulCount x.rcd esn - 14) * recUl x.rcd + stream) * recNrb x.rcd + prb)
def CellSt.dlLine (x : CellSt) (layer esn sym prb : Nat) : Nat :=
  x.place 2 esn ((sym * recDl x.rcd + layer) * recNrb x.rcd + prb)
def CellSt.raLine (x : CellSt) (stream esn sym prb : Nat) : Nat := x.place 1 esn ((sym * 16 + stream) * 1024 + prb)

/-- A line as its 64 bytes, and back. -/
def LineSt.bytes (l : LineSt) : List Byte :=
  ((List.range 12).flatMap fun k => let v := l.re.getD k (0, 0); leBytes (v.1 % 65536).toNat 2 ++ leBytes (v.2 % 65536).toNat 2) ++
    leBytes l.gstep 1 ++ leBytes l.flags 1 ++ List.replicate 14 0

def signed16 (n : Nat) : Int := if n ≥ 32768 then (n : Int) - 65536 else n

def lineOf (b : List Byte) : LineSt :=
  let f (o n : Nat) : Nat := leNat ((b.drop o).take n)
  ⟨(List.range 12).map fun k => (signed16 (f (4 * k) 2), signed16 (f (4 * k + 2) 2)), f 0x30 1, f 0x31 1⟩

def State.lineAt (s : State) (a : Nat) : LineSt := lineOf (s.readBytes a 64)

/-- The FFT size of a cell (R175). -/
def fftSize (nrb : Nat) : Nat := ([256, 512, 1024, 2048].find? fun n => n ≥ 15 * nrb).getD 4096

/-! ### The PRACH (R228, R236; log 29) -/

/-- A configuration's format is a long one; those exist in FR1 only (R228). -/
def raLong (w scs duplex : Nat) : Bool := scs < 2 && Config.prachLong w scs duplex

/-- Format code of an occasion that begins in a symbol (R228). -/
def raFmt (w scs duplex esn sym : Nat) : Nat :=
  if raLong w scs duplex then Config.prachFmt w scs duplex esn sym % 4 else 4 + Config.prachFmt w scs duplex esn sym % 9

/-- Sequence repetitions of a format (R228). -/
def raReps (fmt : Nat) : Nat := [1, 2, 4, 4, 2, 4, 6, 2, 4, 6, 12, 1, 4].getD fmt 1

/-- Sequence length and subcarrier spacing in Hz of a format (R228). -/
def raSeq (fmt scs : Nat) : Nat × Nat :=
  if fmt < 3 then (839, 1250) else if fmt == 3 then (839, 5000) else (139, 15000 * 2 ^ muOf scs)

/-- Detector cost for each occasion and stream in quarters of a microsecond (R228). -/
def raCost (fmt : Nat) : Nat := [16, 32, 64, 16, 2, 4, 6, 2, 4, 6, 12, 1, 4].getD fmt 0

/-- Length of a long preamble in samples of 30.72 MHz. -/
def raLongLen (fmt : Nat) : Nat := [27744, 70176, 102992, 27744].getD fmt 0

/-- A symbol as a sample of 30.72 MHz x 2^mu from slot 0 on. -/
def symAbs (mu esn sym : Nat) : Nat := 30720 * esn + symStart mu (esn % 2 ^ mu) sym

/-- The slot in which an occasion ends; a short one ends in its own. -/
def raEnd (fmt scs esn sym : Nat) : Nat :=
  if fmt < 4 then ((symAbs (muOf scs) esn sym + raLongLen fmt * 2 ^ muOf scs - 1) / 30720) % 2 ^ 32 else esn

/-- PRBs of an occasion: of the preamble's own spacing, or of the cell's in the time-domain mode. -/
def raPrbs (td : Bool) (fmt scs : Nat) : Nat :=
  if fmt ≥ 4 then 12
  else if !td then 70
  else (if fmt == 3 then 24 else 6) / 2 ^ muOf scs

/-- Landed symbols of an occasion: one for each repetition, or in the time-domain mode every symbol of the cell that it reaches. -/
def raSpots (td : Bool) (fmt scs esn sym : Nat) : List (Nat × Nat) :=
  if td && fmt < 4 then
    let stop := symAbs (muOf scs) esn sym + raLongLen fmt * 2 ^ muOf scs
    ((List.range (5 * 2 ^ muOf scs)).flatMap fun i => (List.range 14).map fun y => (esn + i, y)).filter fun e =>
      (e.1 > esn || e.2 ≥ sym) && symAbs (muOf scs) e.1 e.2 < stop
  else (List.range (raReps fmt)).map fun i => (esn + (sym + i) / 14, (sym + i) % 14)

/-- The first occasions, in time, whose landed symbols include a symbol: slot and symbol in which each begins. -/
def raOver (w scs duplex : Nat) (td : Bool) (esn sym : Nat) : List (Nat × Nat) :=
  ((List.range (5 * 2 ^ muOf scs)).flatMap fun i => if i ≤ esn then (List.range 14).map fun y => (esn - i, y) else []).filter fun e =>
    Config.prachAt w scs duplex e.1 e.2 && (raSpots td (raFmt w scs duplex e.1 e.2) scs e.1 e.2).contains (esn, sym)

/-- A configuration in use. -/
def CellSt.raOn (x : CellSt) (i : Nat) : Bool := F.raCellCfg_EN.get (x.reg (1 + i)) == 1

/-- The two configurations are requested as one: same place in frequency, same number of occasions there. -/
def CellSt.raShared (x : CellSt) : Bool :=
  F.raCellCfg_FREQ_START.get (x.reg 1) == F.raCellCfg_FREQ_START.get (x.reg 2) && F.raCellCfg_FDM.get (x.reg 1) == F.raCellCfg_FDM.get (x.reg 2)

/-- PRACH lines that a configuration has in a symbol of a stream. -/
def CellSt.raWidth (x : CellSt) (i esn sym : Nat) : Nat :=
  let w := (x.reg (1 + i)).toNat
  if !(x.raOn i) then 0
  else match raOver w (recScs x.rcd) (recDuplex x.rcd) false esn sym with
  | (e, y) :: _ => raPrbs false (raFmt w (recScs x.rcd) (recDuplex x.rcd) e y) (recScs x.rcd) * 2 ^ F.raCellCfg_FDM.get (x.reg (1 + i))
  | [] => 0

/-- First line of a configuration among a symbol's lines: those of the second follow those of the first, unless they are the same. -/
def CellSt.raFirst (x : CellSt) (i esn sym : Nat) : Nat := if i == 0 || x.raShared then 0 else x.raWidth 0 esn sym

/-- PRBs the module requests of a stream in a symbol: section type 1 of every uplink symbol, section type 3 of the PRACH (R165). -/
def requested (x : CellSt) (sec esn sym : Nat) : Nat :=
  if sec == 1 then (if ulSym x.rcd esn sym then recNrb x.rcd else 0)
  else if x.raShared then max (x.raWidth 0 esn sym) (x.raWidth 1 esn sym)
  else x.raWidth 0 esn sym + x.raWidth 1 esn sym

/-- Marker of a symbol among those landed or closed: PRACH symbols stand 16 above. -/
def symMark (sec sym : Nat) : Nat := if sec == 1 then sym else 16 + sym

/-- Everything the module requested of a slot is landed. -/
def CellSt.wholly (x : CellSt) (esn : Nat) : Bool :=
  (List.range (recUl x.rcd)).all fun k => (List.range 14).all fun y => [1, 3].all fun sec =>
    requested x sec esn y == 0 || (recFhMode x.rcd == 2 && sec == 3) || (x.stream k).landed.contains (esn, symMark sec y)

/-- Where the record of a cell for a slot stands: a cell that an apply removed or replaced keeps its last slots, until they are reported,
at 512 above its number; `stopAfter` there is its last slot (R143, R218, R238). -/
def State.cellKey (s : State) (c esn : Nat) : Nat :=
  match (s.cellsAt (512 + c)).stopAfter with
  | some e => if (e + 2 ^ 32 - esn % 2 ^ 32) % 2 ^ 32 < 2 ^ 31 then 512 + c else c
  | none => c

/-- A pending apply takes the cell away before the slot begins: the cell neither fetches nor emits it (R143). -/
def State.goneBy (s : State) (c esn : Nat) : Bool :=
  match s.radio.pend with
  | some p =>
    let x := s.cellsAt c
    let edge : Int := (s.readingNs / 1000000 + (p.period - s.fld R.lastPeriod F.lastPeriod_PERIODS)) * 1000000
    !(p.recs.any fun r => recCell r == c && r.take 8 == x.rcd.take 8) && since edge (s.slotStart (muOf (recScs x.rcd)) esn) ≥ 0
  | none => false

end Sys2Proof.Machine
end

