-- ==== Sys2Proof/Machine/RadioOps.lean ====
section
/-! DEFINITION. Cells: their slots, indications, HARQ release and the cell reset (R142, R146-R149, R157, R215,
R218, R262). -/

namespace Sys2Proof.Machine

/-! ### FAPI messages (R145): numbers of the error codes are the model's labels (log 14) -/

def fapiError : Nat := 0x07
def msgOk : Nat := 0
def msgInvalidState : Nat := 1
def msgInvalidConfig : Nat := 2
def sfnOutOfSync : Nat := 3
def msgSlotErr : Nat := 4

/-- ERROR.indication for a slot, about a message (0: none in particular). -/
def errorInd (scs esn msg code : Nat) : Nat × List Byte :=
  let (f, t) := sfnSlot scs esn
  (fapiError, Config.fapiBody fapiError [f, t, msg, code])

/-- A slot record of a cell, made if there is none. -/
def CellSt.slot (c : CellSt) (esn : Nat) : SlotSt :=
  match c.slots.find? (·.esn == esn) with
  | some t => t
  | none => ⟨esn, false, false, [], [], [], false, false, [], [], false, 0⟩

def CellSt.putSlot (c : CellSt) (t : SlotSt) : CellSt := { c with slots := c.slots.filter (·.esn != t.esn) ++ [t] }

/-- A cell is running: from its START.request until the slot of its STOP.request has been reported (R149). -/
def CellSt.active (x : CellSt) : Bool := x.running || x.stopAfter.isSome

/-- RADIO.STAT.ACTIVE follows the running cells. -/
def Act.radioActive : Act := .get fun s =>
  .setF R.radioStat F.radioStat_ACTIVE (if s.cells.any fun e => e.1 < 512 && e.2.active then 1 else 0)

/-- A count of a cell's registers; a removed cell's registers count no longer, those of a replaced cell's last slots are the cell's
(R143, R159, R182, R239). -/
def Act.cellInc (key : Nat) (reg : Nat → Nat) (f : Field) (n : Nat := 1) : Act := .get fun s =>
  .when (s.cellsAt (key % 512)).applied (.incF (reg (key % 512)) f n)

/-- The slot in which the reading stands, as an extended slot number. -/
def State.esnNow (s : State) (scs : Nat) : Nat := (s.slotNow (muOf scs) % 2 ^ 32).toNat

/-- An indication for a slot's block. -/
def Act.cellInd (c esn : Nat) (m : Nat × List Byte) : Act :=
  .modCells c fun x => let t := x.slot esn; x.putSlot { t with inds := t.inds ++ [m] }

/-! ### HARQ (R215-R218) -/

/-- HARQ units held by entries of a cell. -/
def CellSt.hqUsed (c : CellSt) : Nat := c.hq.foldl (fun n e => n + e.bufs.length) 0

/-- The HARQ entries of a cell are replaced; HQ_USED follows. -/
def Act.setHq (c : Nat) (h : List HarqEnt) : Act := .get fun s =>
  let old := (s.cellsAt c).hqUsed
  let new := h.foldl (fun n e => n + e.bufs.length) 0
  .all [.modCells c fun x => { x with hq := h }, .modF R.codeStat F.codeStat_HQ_USED fun v => v + new - old]

/-- The HARQ entries of a cell that has left go once no coding job serves it (R218). -/
def Act.hqLeft (d : Nat) : Act := .get fun s =>
  .when (d ≥ 512 && !(s.cjobs.any fun e => e.2.any fun j => j.cells.contains d)) (.setHq d [])

/-- A coding job ends: its engines are no longer busy. -/
def Act.dropCodeJob (k : Nat) : Act := .get fun s =>
  match s.cjobsAt k with
  | some j => .all [
      .setCjobs k none,
      .each j.engines fun e => .setF (R.codeEngStat e) F.codeEngStat_BUSY 0,
      .each j.cells fun d => .hqLeft d]
  | none => .skip

/-- Coding jobs that serve a cell are aborted, with the HARQ entries of every cell they serve (R218). -/
def Act.abortCodeJobs (c : Nat) : Act := .each (List.range 16) fun k => .get fun s =>
  match s.cjobsAt k with
  | some j => .when (j.radio && j.cells.contains c) (.all [.dropCodeJob k, .each j.cells fun d => .setHq d []])
  | none => .skip

/-! ### DSP jobs that end without a result (R195, R202) -/

/-- The job of a DSP is gone, with whatever of it was still to be performed; the lanes it saturated stay counted (R203). -/
def Act.dspAbort (d : Nat) : Act := .all [
  .get fun s => .when (s.dspsAt d).job.isSome (.incF (R.dspCnt2 d) F.dspCnt2_SATCNT (s.dspsAt d).regs.satcnt),
  .modDsps d fun x => { x with job := none, snap := none, done := 0, wrote := [], jump := none },
  .setF (R.dspStat d) F.dspStat_BUSY 0,
  .setF (R.dspStat d) F.dspStat_WAITING 0,
  .setF (R.dspStat d) F.dspStat_MOVING 0]

/-- DSP jobs that serve a cell (R195). -/
def Act.abortDspJobs (c : Nat) : Act := .each (List.range 96) fun d => .get fun s =>
  match (s.dspsAt d).job with
  | some j => .when (j.radio && j.cells.contains c) (.dspAbort d)
  | none => .skip

/-- Signals of jobs that serve a cell, not yet performed. -/
def Act.dropSignals (c : Nat) : Act := .modSigq fun q => q.filter fun e => !(e.cells.contains c)

/-! ### The cell reset (R157) -/

/-- CRC.indication of the transport blocks of a slot as failed. -/
def SlotSt.crcFail (scs : Nat) (t : SlotSt) : List (Nat × List Byte) :=
  let (f, n) := sfnSlot scs t.esn
  (t.msgs.filter (·.1 == 0x81)).map fun m =>
    (0x86, Config.fapiBody 0x86 ([f, n, 0] ++ ((Config.fapiPdus 0x81 m.2).filter (·.1 == 1)).flatMap (·.2)))

/-- The faulted slot loses its outputs: its uplink transport blocks are reported failed, an ERROR.indication is written, nothing more is
emitted (R157). -/
def SlotSt.withhold (scs : Nat) (t : SlotSt) : SlotSt :=
  { t with withheld := true, inds := t.inds ++ t.crcFail scs ++ [errorInd scs t.esn 0 msgSlotErr] }

/-- Slots of a cell that are worked on. -/
def CellSt.inFlight (x : CellSt) : List Nat := (x.slots.filter fun t => t.run && !t.withheld).map (·.esn)

/-- Slot `a` lies after slot `b`. -/
def slotAfter (a b : Nat) : Bool := let d := (a + 2 ^ 32 - b % 2 ^ 32) % 2 ^ 32; 0 < d && d < 2 ^ 31

/-- The slots after a reset in slot `e`: that slot's outputs are withheld; the slots fetched after it are not worked on, since the cell
resumes with the next fetch (R157). -/
def SlotSt.afterReset (scs e : Nat) (t : SlotSt) : SlotSt :=
  if t.esn == e then (if t.withheld then t else t.withhold scs) else if slotAfter t.esn e then { t with run := false } else t

/-- A radio fault resets one cell (R157). `slot`: the faulted slot where the fault names it; else one of those in flight, which the rule
leaves to the work that met the fault (log 15). -/
def Act.cellReset (c cause : Nat) (slot : Option Nat := none) : Act := .get fun s =>
  let x := s.cellsAt c
  let scs := recScs x.rcd
  let fly := x.inFlight
  let e := slot.or fly[Config.faultSlot s.free % max 1 fly.length]?
  .when x.applied (.all [
    .when (slot.isNone && fly.length > 1) (.modFree (· + 1)),
    .cellInc c R.raCellCnt F.raCellCnt_OCC_LOST x.ra.length,
    .modCells c fun y => { y with
      slots := match e with
        | some e => y.slots.map (·.afterReset scs e)
        | none => y.slots
      ra := []
      raTry := []
      raCut := some (s.esnNow scs)
      streams := y.streams.map fun k => (k.1, { k.2 with held := [], td := [] }) },
    .setHq c [],
    .abortCodeJobs c,
    .abortDspJobs c,
    .dropSignals c,
    .when (s.cellsAt (c % 512)).applied (.setF (R.radioCellStat (c % 512)) F.radioCellStat_FAULT cause),
    .when (c < 512 && x.running) (.setF (R.radioCellStat c) F.radioCellStat_STATE 3),
    .cellInc c R.radioCellCnt F.radioCellCnt_FAULTS,
    .record 0x00 0x101 0x4801 [BitVec.ofNat 64 (c % 512), BitVec.ofNat 64 cause],
    .attnRadio])

/-- Uplink ingress stops at a recovery entry (R158, R171): what is held for a slot not wholly landed is discarded, and that slot's
transport blocks are reported failed. -/
def Act.ingressStop : Act := .get fun s => .each s.cells fun (c, x) =>
  let cut := (x.slots.filter fun t => t.run && !(x.wholly t.esn)).map (·.esn)
  .modCells c fun y => { y with
    raStop := some (s.esnNow (recScs x.rcd))
    streams := y.streams.map fun e => (e.1, { e.2 with
      held := e.2.held.filter fun h => y.wholly h.esn
      td := e.2.td.filter fun h => y.wholly h.esn })
    slots := y.slots.map fun t =>
      if cut.contains t.esn && !t.withheld && !t.cut then { t with cut := true, inds := t.inds ++ t.crcFail (recScs y.rcd) } else t }

/-- Every cell one job serves is reset (R157). -/
def Act.cellResets (cs : List Nat) (cause : Nat) (slot : Option Nat := none) : Act := .each cs fun c => .cellReset c cause slot

/-! ### DSP faults and fences (R197, R201, R202) -/

/-- The consequences of a DSP fault of a job of DSP d: a radio job's cells are reset, a manager job's fault takes the manager's DSP work
of the group. -/
def Act.dspFaultOf (d code : Nat) (radio : Bool) (jobId : Nat) (cells : List Nat) : Act := .all [
  .setF (R.dspFault d) F.dspFault_JOB_LO (jobId % 2 ^ 48),
  .setF (R.dspFault d) F.dspFault_CODE code,
  if radio then .cellResets cells (if code == 7 then 2 else 4)
  else .all [
    .each ((List.range 8).map (d / 8 * 8 + ·)) fun e => .get fun s =>
      match (s.dspsAt e).job with
      | some j => .when (!j.radio) (.dspAbort e)
      | none => .skip,
    .modHeld fun q => q.filter fun h => h.place != d / 8,
    .modSigq fun q => q.filter fun g => match g.by_ with
      | .dsp e => g.part != 0x100 || e / 8 != d / 8
      | _ => true]]

/-- A DSP fault of the job that the DSP holds: the job is aborted. -/
def Act.dspFault (d code : Nat) (radio : Bool) (jobId : Nat) (cells : List Nat) : Act :=
  .all [.dspAbort d, .dspFaultOf d code radio jobId cells]

/-- The fault of the job that a DSP holds. -/
def Act.dspFaultNow (d code : Nat) : Act := .get fun s =>
  match (s.dspsAt d).job with
  | some j => .dspFault d code j.radio (j.words.getD 0 0 % 2 ^ 60) j.cells
  | none => .skip

/-- A DSP is fenced until the next start; the second fence of a group is recorded and raised (R197, R201). -/
def Act.dspFence (d : Nat) : Act := .get fun s =>
  let group := (List.range 8).map (d / 8 * 8 + ·)
  .all [
    .setF (R.dspStat d) F.dspStat_SUSPECT 1,
    .setF (R.dspStat d) F.dspStat_FENCE 1,
    .when (!(s.flag (R.dspStat d) F.dspStat_FENCE) && (group.filter fun e => s.flag (R.dspStat e) F.dspStat_FENCE).length == 1)
      (.all [.record 0x00 0x101 0x4802 [BitVec.ofNat 64 d, 4], .attnRadio])]

end Sys2Proof.Machine
end

