-- ==== Sys2Proof/Machine/PartOps.lean ====
section
/-! DEFINITION. Partitions: mailbox pages and replies, completion records, the array clear, the partition reset and the fault of a
slice (R73, R299-R301, R309, R314, R343, R374, R385). -/

namespace Sys2Proof.Machine

/-! ### Mailbox pages (R299) -/

def mbHdr (p i : Nat) : Nat := if p < 256 then R.mbSliceHdr p i else R.mbMgrHdr i
def mbArg (p i : Nat) : Nat := if p < 256 then R.mbSliceArg p i else R.mbMgrArg i
def mbRepHdr (p i : Nat) : Nat := if p < 256 then R.mbSliceRepHdr p i else R.mbMgrRepHdr i
def mbRepData (p i : Nat) : Nat := if p < 256 then R.mbSliceRepData p i else R.mbMgrRepData i
def mbEventReg (p : Nat) : Nat := if p < 256 then R.mbSliceEvent p else R.mbMgrEvent

def stOk : Nat := 0x00
def stAccepted : Nat := 0x01
def stBadOpcode : Nat := 0x02
def stBadField : Nat := 0x03
def stBadVersion : Nat := 0x04
def stNoResource : Nat := 0x05
def stQuota : Nat := 0x06
def stBadState : Nat := 0x07
def stNothing : Nat := 0x08
def stAborted : Nat := 0x09
def stSegment : Nat := 0x0A
def stSymmetry : Nat := 0x0B
def stPower : Nat := 0x0C
def stCell : Nat := 0x0D
def stDma : Nat := 0x0E
def stReset : Nat := 0x0F
def stLimit : Nat := 0x10
def stEpochFail : Nat := 0x11
def stImage : Nat := 0x12
def stFault : Nat := 0x13
def stNoLiveCopy : Nat := 0x14

/-- An MB.EVENT bit is set, and with it the partition's attention bit (R314). -/
def Act.mbEvent (p b : Nat) : Act := .all [.orF (mbEventReg p) ⟨5, 0, .w1c, 0⟩ (2 ^ b), .attnSet (attnBitOf p)]

/-- A command being performed: its partition, header words, argument words, and for a list entry where its reply header goes:
host space or not, PASID, address (R300, R311). -/
structure JCmd where
  part : Nat
  hdr : List Nat
  args : List Nat
  list : Option (Bool × Nat × Nat)
deriving DecidableEq, Repr

def JCmd.h (j : JCmd) (i : Nat) : Nat := j.hdr.getD i 0
def JCmd.a (j : JCmd) (i : Nat) : Nat := j.args.getD i 0
def JCmd.notify (j : JCmd) : Bool := bit (j.h 0) 62 && j.list.isNone && bits (j.h 1) 63 48 == 3
def JCmd.opcode (j : JCmd) : Nat := bits (j.h 0) 47 32
def JCmd.tag (j : JCmd) : Nat := bits (j.h 0) 31 0
def JCmd.version (j : JCmd) : Nat := bits (j.h 1) 63 48
def JCmd.argLen (j : JCmd) : Nat := bits (j.h 1) 47 32
/-- PASID_IDX; a version-2 header has 0 (R320). -/
def JCmd.pasidIdx (j : JCmd) : Nat := if j.version == 2 then 0 else bits (j.h 1) 1 0
def JCmd.outAddr (j : JCmd) : Nat := j.h 2
def JCmd.outLen (j : JCmd) : Nat := bits (j.h 3) 63 32

/-- The PASID bound under an index (R308). -/
def State.pasidOf (s : State) (p idx : Nat) : Option Nat := ((s.partsAt p).pasids.find? (·.1 == idx)).map (·.2)

/-- The command in a mailbox. -/
def State.mbCmd (s : State) (p : Nat) : JCmd where
  part := p
  hdr := (List.range 4).map fun i => (s.rd (mbHdr p i)).toNat
  args := (List.range (min (if p < 256 then 252 else 4092) ((bits (s.rd (mbHdr p 1)).toNat 47 32 + 7) / 8))).map fun i => (s.rd (mbArg p i)).toNat
  list := none

/-- A write by Uhlile for a partition into one of its spaces: host memory under a PASID or its own addresses; `k` gets whether the
write met an error response (R130, R290). -/
def Act.spaceWrite (part : Nat) (host : Bool) (pasid addr : Nat) (d : List Byte) (k : Bool → Act) : Act :=
  if host then .all [.dmaWrite part pasid addr d, k false] else .writeMem part 9 addr d k

/-- A read likewise. -/
def Act.spaceRead (part : Nat) (host : Bool) (pasid addr n : Nat) (k : List Byte → Bool → Act) : Act := .get fun s =>
  if host then .all [.dmaCount false n part, k (s.hostRead pasid addr n) false] else .readMem part 9 addr n k

/-- The reply header words (R300). -/
def replyWords (s : State) (j : JCmd) (status detail ret handle : Nat) : List Word :=
  [BitVec.ofNat 64 (2 ^ 63 + status % 256 * 2 ^ 48 + j.opcode * 2 ^ 32 + j.tag),
   BitVec.ofNat 64 (detail % 65536 * 2 ^ 48 + ret % 65536 * 2 ^ 32 + handle % 2 ^ 32), BitVec.ofNat 64 s.tick, 0]

/-- A command is answered (R300): reply data, reply words 1-3, word 0 with DONE, then OWN clear; for a list entry the 32 B header
at its place (R311). -/
def Act.answer (j : JCmd) (status detail : Nat) (data : List Word) (ret handle : Nat) : Act := .get fun s =>
  let w := replyWords s j status detail ret handle
  match j.list with
  | some (host, pasid, addr) => .all [
      .modParts j.part fun x => { x with lists := match x.lists with | [] => [] | l :: r => { l with last := status } :: r },
      .spaceWrite j.part host pasid addr (wordBytes w) fun _ => .skip]
  | none => .all [
      .each data.zipIdx fun (x, i) => .setRegs (mbRepData j.part i) x,
      .each [1, 2, 3, 0] fun i => .setRegs (mbRepHdr j.part i) (w.getD i 0),
      .get fun t => .setRegs (mbHdr j.part 0) (BitVec.ofNat 64 ((t.rd (mbHdr j.part 0)).toNat % 2 ^ 63))]

/-- The reply of a command or list entry performed: CMDS counts it (R321). -/
def Act.reply (j : JCmd) (status detail : Nat) (data : List Word) (ret handle : Nat) : Act :=
  .all [.incF (R.sliceMb j.part) F.sliceMb_CMDS, .answer j status detail data ret handle]

/-- Bytes as 64-bit words, the last filled with zeros. -/
def toWords (d : List Byte) : List Word := (List.range (cdiv d.length 8)).map fun i => BitVec.ofNat 64 (leNat ((d.drop (8 * i)).take 8))

/-- Bytes of reply data that a mailbox page holds (R299). -/
def repRoom (p : Nat) : Nat := if p < 256 then 1888 else 32608

/-- OK with output: as reply data, or at OUT_ADDR within OUT_LEN when it is larger than those, or when `out` says that it goes there;
a list entry has no reply data (R300, R311). Larger output without an OUT_ADDR is cut. -/
def Act.replyOut (j : JCmd) (d : List Byte) (out : Bool) : Act := .get fun s =>
  let room := if j.list.isSome then 0 else repRoom j.part
  if d.length ≤ room && !(out && j.outAddr != 0) then .reply j stOk 0 (toWords d) d.length 0
  else if j.outAddr != 0 then
    let o := d.take j.outLen
    .all [.dmaWrite j.part ((s.pasidOf j.part j.pasidIdx).getD noPasid) j.outAddr o, .reply j stOk 0 [] o.length 0]
  else .reply j stOk 0 (toWords (d.take room)) room 0

/-- OK, with words of reply data. -/
def Act.replyOk (j : JCmd) (data : List Word := []) : Act := .replyOut j (wordBytes data) false

/-- A command that a check refuses changes nothing else (R301). -/
def Act.refuse (j : JCmd) (status detail : Nat) : Act :=
  .all [.incF (R.sliceMb j.part) F.sliceMb_BAD, .answer j status detail [] 0 0]

/-! ### Launches (R309) -/

/-- REP is an applied class of the slice. -/
def State.clsOf (s : State) (p : Nat) : Nat := if p < 256 then s.fld (R.sliceStat p) F.sliceStat_CLASS else 1
def State.isChk (s : State) (p : Nat) : Bool := bit (s.clsOf p) 0 || bit (s.clsOf p) 1
def State.isPaired (s : State) (p : Nat) : Bool := bit (s.clsOf p) 1
def State.isRep (s : State) (p : Nat) : Bool := bit (s.clsOf p) 2
def State.sliceState (s : State) (p : Nat) : Nat := s.fld (R.sliceStat p) F.sliceStat_STATE

/-- Contexts that belong to a partition: (core, context). -/
def State.ctxsOf (s : State) (p : Nat) : List (Nat × Nat) :=
  (List.range 64).flatMap fun c => (List.range 5).filterMap fun x => if s.ctxPart c x == p then some (c, x) else none

def State.ctxActive (s : State) (c x : Nat) : Bool := bit (s.fld (R.coreSeqStat c) F.coreSeqStat_CTX_ACTIVE) x
def State.ctxPaused (s : State) (c x : Nat) : Bool := bit (s.fld (R.coreSeqStat c) F.coreSeqStat_CTX_PAUSED) x

/-- The slice has neither a running context nor a launch (R297). -/
def State.sliceQuiet (s : State) (p : Nat) : Bool :=
  (s.partsAt p).launches.isEmpty && !((s.ctxsOf p).any fun (c, x) => s.ctxActive c x)

/-- RUNNING falls to IDLE with the last completion (R297). -/
def Act.settle (p : Nat) : Act := .get fun s =>
  .when (p < 256 && s.sliceState p == 2 && s.sliceQuiet p) (.setF (R.sliceStat p) F.sliceStat_STATE 1)

/-- The 32 B completion record (R309). A DETAIL that a rule puts into the record stands in its bits [15:0] (log 16). -/
def completionBytes (s : State) (p : Nat) (l : Launch) (status done fail detail : Nat) : List Byte :=
  wordBytes [
    BitVec.ofNat 64 (l.handle % 2 ^ 32 * 2 ^ 32 + (if l.kind == 9 then Config.dumpKind else l.kind) % 256 * 2 ^ 24 + status % 256 * 2 ^ 16 + detail % 65536),
    BitVec.ofNat 64 (l.tag % 2 ^ 32 * 2 ^ 32 + done % 65536 * 2 ^ 16 + fail % 65536),
    BitVec.ofNat 64 s.tick,
    BitVec.ofNat 64 (2 ^ 63 + (if s.isRep p && l.nonrep then 2 ^ 62 else 0) +
      (if p < 256 then s.fld (R.repSliceStep p) F.repSliceStep_STEP else 0) % 2 ^ 62)]

/-- A launch ends: its record is written, MB.EVENT.CPL set if NOTIFY was set, the launch is no longer in flight (R309). `onErr`
follows a record whose write meets an error response: it is lost (R290). -/
def Act.complete (p : Nat) (l : Launch) (status done fail detail : Nat) (onErr : Act) : Act := .get fun s => .all [
  .modParts p fun x => { x with launches := x.launches.filter (·.handle != l.handle) },
  .modF (R.sliceStat p) F.sliceStat_INFLIGHT (· - 1),
  .spaceWrite p (bit l.cpl 0) ((s.pasidOf p l.pasidIdx).getD noPasid) (l.cpl / 32 * 32) (completionBytes s p l status done fail detail)
    fun err => if err then onErr else .when l.notify (.mbEvent p 0),
  .settle p]

/-! ### Arrays and contexts -/

/-- ARR_BUSY follows the uncommitted tiles of an array. -/
def Act.arrBusy (c a : Nat) : Act := .get fun s =>
  .modF (R.coreSeqStat c) F.coreSeqStat_ARR_BUSY fun v => if (s.arrsAt (4 * c + a)).tiles.isEmpty then clrBit v a else setBit v a

/-- R73: the array's beats, counts, banks and partial check sums are cleared and its uncommitted tiles discarded. -/
def Act.arrClear (c a : Nat) : Act := .all [
  .modArrs (4 * c + a) fun r => { r with bank0 := ⟨[], [], [], []⟩, bank1 := ⟨[], [], [], []⟩, tiles := [], nextBeat := 0 },
  .setF (R.coreArrStat c a) F.coreArrStat_BANK0_ST 0,
  .setF (R.coreArrStat c a) F.coreArrStat_BANK1_ST 0,
  .setF (R.coreArrStat c a) F.coreArrStat_LOAD_BUSY 0,
  .arrBusy c a]

/-- Arrays on which a context has uncommitted tiles. -/
def State.arrsOfCtx (s : State) (c x : Nat) : List Nat :=
  (List.range 4).filter fun a => (s.arrsAt (4 * c + a)).tiles.any fun t => t.core == c && t.ctx == x

/-- A radio re-run that closed an array's leftover window is over: the array stays closed to the end of the present stitch (R152). -/
def Act.rerunOver (c a : Nat) : Act := .get fun s => .when (s.arrsAt (4 * c + a)).rerun
  (.modArrs (4 * c + a) fun r => { r with rerun := false, closed := some (s.fld R.lastPeriod F.lastPeriod_PERIODS, s.stitch) })

/-- A context stops: no program runs in it, and its uncommitted tiles are discarded (R73). -/
def Act.ctxHalt (c x : Nat) : Act := .get fun s => .all [
  .each (s.arrsOfCtx c x) fun a => .arrClear c a,
  .when (x == 4) (.each (List.range 4) fun a => .rerunOver c a),
  .modCtxs (c * 8 + x) fun t =>
    { t with cur := none, wait := none, bundle := [], atMark := false, stepEnd := false, handle := 0, stopPend := false, redo := [], cells := [], stats := [] },
  .modF (R.coreSeqStat c) F.coreSeqStat_CTX_ACTIVE (clrBit · x),
  .modF (R.coreSeqStat c) F.coreSeqStat_CTX_PAUSED (clrBit · x),
  .modF (R.coreSeqStat c) F.coreSeqStat_CTX_WAIT (clrBit · x)]

/-- Array indices 4 c + a of a mask. -/
def arrList (m : Nat) : List Nat := bitList m 256

/-- End of a quarter's accumulator lines and core-store lines that belong to a slice (R90). -/
def State.accEnd (s : State) (c a : Nat) : Nat :=
  if bit (s.fld (R.coreSeqRadio c) F.coreSeqRadio_RADIO_ARR) a then 256 - min 256 (16 * s.fld (R.coreSeqRadio c) F.coreSeqRadio_ACC_UNITS) else 256
def State.csEnd (s : State) (c a : Nat) : Nat :=
  if bit (s.fld (R.coreSeqRadio c) F.coreSeqRadio_RADIO_ARR) a then 12288 - min 12288 (1024 * s.fld (R.coreSeqRadio c) F.coreSeqRadio_CS_UNITS)
  else 12288

/-- CS_UNITS and ACC_UNITS of a core under a Last (R90): the largest values, 6 and 8, where the calls of a neural receiver run, else what
the radio tiles placed there need, within them. -/
def reserveFor (recs : List (List Nat)) (groups : List (Nat × Nat × Nat × Nat)) (c : Nat) : Nat × Nat :=
  if Config.nrxCore recs groups c then (6, 8)
  else let u := Config.coreReserve recs groups c; (min 6 u.1, min 8 u.2)

/-- Reserve of an array's quarters, as (CS_UNITS, ACC_UNITS), that a pending apply adds at its boundary: held for the radio from its
reply onward (R90). -/
def State.pendReserve (s : State) (c a : Nat) : Nat × Nat :=
  match s.radio.pend with
  | some p => if s.last.shadow.names (4 * c + a) then reserveFor p.recs s.last.shadow.groups c else (0, 0)
  | none => (0, 0)

/-- The ends that a slice may use. -/
def State.accOwnEnd (s : State) (c a : Nat) : Nat := min (s.accEnd c a) (256 - min 256 (16 * (s.pendReserve c a).2))
def State.csOwnEnd (s : State) (c a : Nat) : Nat := min (s.csEnd c a) (12288 - min 12288 (1024 * (s.pendReserve c a).1))

/-- Recorded anchors and pending lines of a slice's quarters are released (R49, R314). -/
def Act.quarterRelease (i : Nat) : Act := .get fun s => .all [
  .clearAnchors (i / 4 * 1024 + 256 * (i % 4)) (i / 4 * 1024 + 256 * (i % 4) + s.accEnd (i / 4) (i % 4)),
  .clearPend (i / 4 * 65536 + 12288 * (i % 4)) (i / 4 * 65536 + 12288 * (i % 4) + s.csEnd (i / 4) (i % 4))]

/-- DPA of a partition's sync word (R121). -/
def State.syncDpa (s : State) (part idx : Nat) : Nat :=
  (if part < 256 then (s.partsAt part).syncBase else if part == 0x101 then 0x1F004000 else 0x1F000000) + 4 * (idx % 4096)

/-- A source engine after its slice's reset (R343): responses of what was sent are discarded, CONS takes the value of PROD_IDX. -/
def Act.engHalt (p e : Nat) : Act := .get fun s => .all [
  .each s.conns fun (n, _) => .modConns n fun c => { c with out := c.out.map fun q => if q.eng == e then { q with dead := true } else q },
  .setEngs e ⟨[], []⟩,
  .get fun t =>
    let a := t.syncDpa p (s.fld (R.fabEngRing e) F.fabEngRing_PROD_IDX)
    .when (!(t.lineBad a 4)) (.setF (R.fabEngIdx e) F.fabEngIdx_CONS (leNat (t.readBytes a 4))),
  .setF (R.fabEngIdx e) F.fabEngIdx_OUTST 0,
  .setF (R.fabEngStat e) F.fabEngStat_BUSY 0,
  .setF (R.fabEngStat e) F.fabEngStat_FENCE_WAIT 0,
  .setF (R.fabEngStat e) F.fabEngStat_CREDIT_WAIT 0]

/-- A unit's watch ends (R374). -/
def Act.houndEnd (h : Nat) : Act := .all [
  .setF (R.repHoundCfg h) F.repHoundCfg_MODE 0,
  .setF (R.repHoundStat h) F.repHoundStat_ACTIVE 0,
  .setHounds h ⟨[], [], [], 0, 0, 0, 0, 0, []⟩]

def Act.houndsEnd (p : Nat) : Act := .get fun s => .each (List.range 8) fun h =>
  .when (s.fld (R.repHoundCfg h) F.repHoundCfg_MODE != 0 && s.fld (R.repHoundCfg h) F.repHoundCfg_SLICE == p) (.houndEnd h)

/-- An armed launch barrier is disarmed. -/
def Act.barDisarm (p : Nat) : Act := .all [
  .setBars p ⟨false, 0, false, 0, 0, 0, 0, 0, 0, none, none, false⟩,
  .setF (R.repSliceLaunch p) F.repSliceLaunch_ARMED 0,
  .setF (R.repSliceLaunch p) F.repSliceLaunch_MASTER 0]

/-! ### REP mode (R357) -/

/-- A slice wants REP on its cores: its class, or the class of the epoch that its units are applying (R317, R357). -/
def State.wantsRep (s : State) (p : Nat) : Bool :=
  s.isRep p || ((s.partsAt p).epochHold && (match (s.partsAt p).launches.find? (·.kind == 7) with
    | some l => bit (l.args.getD 2 0) 2
    | none => false))

/-- A core is to be in REP mode: a slice that wants REP holds an array of it (R357). -/
def State.coreRep (s : State) (c : Nat) : Bool := s.parts.any fun e => e.1 < 256 && s.wantsRep e.1 && e.2.arrays / 16 ^ c % 16 != 0

/-- Cores whose REP mode is no longer what it is to be begin their transition (R357). -/
def Act.repRetarget (cs : List Nat) : Act := .each cs fun c => .get fun s =>
  .when (s.coreRep c != s.flag (R.repCore c) F.repCore_REP_MODE) (.setF (R.repCore c) F.repCore_TRANS 1)

/-! ### The partition reset (R314) -/

/-- What a reset stops and discards; launches end with `status`, whose lost records raise nothing further (log 17). -/
def Act.resetBody (p status detail : Nat) : Act := .get fun s => .all [
  .each (s.ctxsOf p) fun (c, x) => .ctxHalt c x,
  .modConvq fun q => q.filter fun e => e.2.part != p,
  .modSigq fun q => q.filter fun e => e.part != p,
  .each (s.ctxsOf p) fun (c, x) => .modCtxs (c * 8 + x) fun t => { t with moves := [] },
  .each (arrList (s.partsAt p).arrays) fun i => .quarterRelease i,
  .setF (R.sliceEpoch p) F.sliceEpoch_PENDING 0,
  .each (s.partsAt p).launches fun l => .complete p l status l.doneCnt (if l.kind == 2 then l.args.getD 0 0xFFFF else 0xFFFF) 0 .skip,
  .each (bitList (s.partsAt p).rtv 32) fun e => .engHalt p e,
  .barDisarm p,
  .houndsEnd p,
  .each (List.range 33) fun r => .when ((s.dumpsAt r).active && (s.dumpsAt r).part == p) (.modDumps r fun d => { d with active := false }),
  .modPairs fun q => q.filter fun r => r.slice != p,
  .modParts p fun x => { x with lists := [], pauseReq := false, epochHold := false },
  .repRetarget ((List.range 64).filter fun c => (s.partsAt p).arrays / 16 ^ c % 16 != 0),
  .when (bit (s.rd (mbHdr p 0)).toNat 63) (.answer (s.mbCmd p) status detail [] 0 0),
  .setF (R.sliceStat p) F.sliceStat_STATE 4]

/-- MB.FAULT_INFO, MB.FAULT_TICK and MB.FAULT_HANDLE (R314). -/
def Act.faultInfo (p cls code core handle : Nat) : Act := .get fun s => .all [
  .setRegs (R.mbSliceFaultInfo p) (BitVec.ofNat 64 (cls % 256 * 2 ^ 56 + code % 256 * 2 ^ 48 + core % 64 * 2 ^ 42)),
  .setRegs (R.mbSliceFaultTick p) (BitVec.ofNat 64 s.tick),
  .setRegs (R.mbSliceFaultHandle p) (BitVec.ofNat 64 (handle % 2 ^ 32))]

/-- The slice is live: neither FREE nor being destroyed. -/
def State.sliceLive (s : State) (p : Nat) : Bool := p < 256 && s.sliceState p != 0 && s.sliceState p != 5

/-- A fault of a slice's work resets it (R31, R314): `cls`, `code`, `core`, `handle` for MB.FAULT_INFO. -/
def Act.sliceFault (p cls code core handle : Nat) : Act := .get fun s =>
  .when (s.sliceLive p) (.all [
    .resetBody p stFault cls,
    .modParts p fun x => { x with resetMgr := false },
    .incF (R.sliceMb p) F.sliceMb_FAULTS,
    .faultInfo p cls code core handle,
    .get fun t => .record 0x00 p 0x8002 [t.rd (R.mbSliceFaultInfo p)],
    .mbEvent p 2])

/-- A fault raised by a Retriever engine of the slice: FAULT of the engine, one record, CLASS and CODE of MB.FAULT_INFO (R314, R341,
R414). `node`: the target, 0xFFFF without one. -/
def Act.engFault (p e cls code node : Nat) : Act := .all [
  .setF (R.fabEngStat e) F.fabEngStat_FAULT code,
  .get fun s => .record 0x07 p 0x7001 [s.rd (R.fabEngStat e), BitVec.ofNat 64 node],
  .sliceFault p cls code 0 0]

/-- A manager's slice_reset (R314). -/
def Act.sliceResetMgr (p : Nat) : Act := .get fun s =>
  .when (s.sliceLive p) (.all [.resetBody p stReset 0, .modParts p fun x => { x with resetMgr := true }])

/-- A launch ends outside a reset: a lost record faults the slice (R290, R309). -/
def Act.finish (p : Nat) (l : Launch) (status done fail : Nat) : Act :=
  .complete p l status done fail 0 (.sliceFault p 0x02 0 0 l.handle)

/-- An armed launch barrier is abandoned, with ABORTED (R359, R362). -/
def Act.barAbandon (p : Nat) : Act := .get fun s =>
  match (s.partsAt p).launches.find? (·.handle == (s.barsAt p).handle) with
  | some l => .when (s.barsAt p).armed (.all [.barDisarm p, .finish p l stAborted 0 0xFFFF])
  | none => .skip

/-- A host DMA error response on a partition's behalf (R290). -/
def Act.dmaFault (p : Nat) : Act := .sliceFault p 0x04 0 0 0

/-! ### Faults of a core (R31, R113) -/

/-- The cause of R157 for a core fault code in radio work: R157 names that of codes 0x05 and 0x09 only (log 19). -/
def radioCause (code : Nat) : Nat := if code == 5 then 1 else if code == 9 then 2 else Config.radioCause code % 256

/-- Cells that a fault of a neural receiver resets: those of the program, and every cell that names the same receiver (R157). -/
def State.nrxCells (s : State) (cs : List Nat) : List Nat :=
  let ns := (cs.map fun c => recNrx (s.cellsAt c).rcd).filter (· != 0)
  cs ++ (s.cells.filter fun e => e.1 < 512 && e.2.applied && ns.contains (recNrx e.2.rcd) && !(cs.contains e.1)).map (·.1)

/-- A receiver whose image holds an uncorrectable word is unloaded when a program of it meets an error response (R157). -/
def Act.nrxLost (cs : List Nat) : Act := .get fun s =>
  let ns := cs.map fun c => recNrx (s.cellsAt c).rcd
  let bad (u : Nat) : Bool := s.errs.any fun e => e.1 / 2 ^ 21 == u && (match wordVerdict e.2 with | .bad _ => true | _ => false)
  .modRadio fun r => { r with nrxs := r.nrxs.filter fun n => !(ns.contains n.n && n.units.any bad) }

/-- A fault of a stream context's owner: CTX.FAULT, one record, and the reset of the slice; for the radio context the reset of the
cells its program serves with the cause of R157. `extra`: the fourth payload word of code 0x06. -/
def Act.coreFault (c x code pc : Nat) (extra : List Word := []) : Act := .get fun s =>
  let part := s.ctxPart c x
  let t := s.ctxsAt (c * 8 + x)
  .all [
    .setF (R.coreCtxFault c x) F.coreCtxFault_CODE code,
    .setF (R.coreCtxFault c x) F.coreCtxFault_FAULT_PC pc,
    .record (srcCore c) part 0x2004 ([BitVec.ofNat 64 c, BitVec.ofNat 64 code, BitVec.ofNat 64 pc] ++ extra),
    if x == 4 then .all [.when (code == 9) (.nrxLost t.cells), .cellResets (s.nrxCells t.cells) (radioCause code), .ctxHalt c x]
    else .sliceFault part 0x01 code c t.handle]

/-- The owner holds another unfenced array of the core for a third run (R82, R152). -/
def State.thirdArrays (s : State) (part c a : Nat) : List Nat :=
  (List.range 4).filter fun b => b != a && !(s.arrFenced c b) && (part == 0x101 || s.holdsArr part c b)

/-- The array of a tile's last run. -/
def TileRun.lastArr (t : TileRun) : Nat := match t.pass with
  | some p => p.arr
  | none => t.arrFirst

/-- A fence leaves a waiting run without an array that it may take: the owner faults, with code 0x05 a third run (R82), with 0x04 a run
that was to stay on the fenced array (R86, R98; log 45). -/
def Act.fenceWaits (c : Nat) : Act := .each (List.range 5) fun x => .get fun s =>
  match (s.ctxsAt (c * 8 + x)).redo with
  | t :: _ => .when ((t.again == 1 || t.again == 2) && s.arrFenced c t.lastArr && (s.thirdArrays t.part c t.lastArr).isEmpty)
      (.coreFault c x (if t.run == 3 then 5 else 4) (t.words.getD 8 0))
  | [] => .skip

/-- An array that the active Last names is fenced: its radio positions are substituted, and the next copy is to leave it out (R276, R277). -/
def Act.lastSubst (c a : Nat) : Act := .get fun s =>
  .when (s.last.active.names (4 * c + a) && !(s.last.subst.contains (4 * c + a))) (.all [
    .modLast fun l => { l with subst := l.subst ++ [4 * c + a], rebuild := l.rebuild ++ [4 * c + a] },
    .incF R.lastCnt F.lastCnt_SUBST,
    .setF R.lastStat F.lastStat_SUBST 1])

/-- One array becomes fenced and suspect (R81, R86, R276): record, health input, and the substitution if the active Last names it. -/
def Act.arrayFence (c a part tile : Nat) : Act := .all [
  .setF (R.coreArrStat c a) F.coreArrStat_SUSPECT 1,
  .setF (R.coreArrStat c a) F.coreArrStat_FENCE 1,
  .record (srcCore c) part 0x2802 [BitVec.ofNat 64 c, BitVec.ofNat 64 a, BitVec.ofNat 64 tile],
  .healthEv 3 c 3,
  .lastSubst c a,
  .fenceWaits c]

/-- A failed core: every array of it is fenced, it enters the retirement map, one record is written, its health level is failed
(R107, R379, R387). -/
def Act.coreFence (c part code pc : Nat) : Act := .all [
  .each (List.range 4) fun a => .get fun s =>
    .when (!(s.arrFenced c a)) (.all [
      .setF (R.coreArrStat c a) F.coreArrStat_FENCE 1,
      .lastSubst c a]),
  .fenceWaits c,
  .retireBit (256 + c),
  .record (srcCore c) part 0x2805 [BitVec.ofNat 64 c, BitVec.ofNat 64 code, BitVec.ofNat 64 pc],
  .healthFailed 3 c]

end Sys2Proof.Machine
end

