-- ==== Sys2Proof/Machine/HoundOps.lean ====
section
/-! DEFINITION. The Hound's matching and the die-pair comparator (R371-R373, R384). -/

namespace Sys2Proof.Machine

/-! ### Packets of the Retriever fabric (R332) -/

def State.fabNode (s : State) : Nat := s.fld R.fabCfg F.fabCfg_NODE
def State.fabOn (s : State) : Bool := s.flag R.fabCfg F.fabCfg_EN

/-- Fabric ports that are up, by first lane. -/
def State.fabPorts (s : State) : List Nat := s.sys.ports.filter fun p => s.fld (R.fhPortCfg p) F.fhPortCfg_USE == 2

/-- CRC-32C (R332): reflected, from all ones, inverted at the end (PRESUMED: the standard's form; log 40). -/
def crc32c (d : List Byte) : Nat :=
  let step (c : Nat) : Nat := if c % 2 == 1 then c / 2 ^^^ 0x82F63B78 else c / 2
  d.foldl (fun c b => (List.range 8).foldl (fun c _ => step c) (c ^^^ b.toNat)) 0xFFFFFFFF ^^^ 0xFFFFFFFF

/-- A Retriever packet behind its UDP header: the header words, little-endian (R10), the payload, the ICRC. -/
def fabBytes (hdr : List Nat) (payload : List Byte) : List Byte :=
  let b := (hdr.flatMap fun w => leBytes w 8) ++ payload
  b ++ leBytes (crc32c b) 4

/-- IPv6 and UDP fields of a packet of some ENTROPY: next header, traffic class, flow label, source and destination port. -/
def State.fabIp (s : State) (entropy : Nat) : List Nat :=
  [17, s.fld R.fabCfg F.fabCfg_DSCP * 4, entropy, 0xC000 + entropy, s.fld R.fabCfg F.fabCfg_UDP_PORT]

/-- A packet leaves on the port that its ENTROPY chooses; with EN clear or no fabric port up nothing leaves
(R322, R332, R345). -/
def Act.fabFrame (node psn attempt : Nat) (hdr : List Nat) (payload : List Byte) : Act := .get fun s =>
  let ps := s.fabPorts
  let en := Config.fabEntropy node psn attempt % 2 ^ 14
  .when (s.fabOn && !ps.isEmpty) (.emit (.frame 4 (ps.getD (en % ps.length) 0) (s.fabIp en) (fabBytes hdr payload)))

/-- Word 0 of a header. -/
def State.fabWord0 (s : State) (ty : Nat) (syn nop : Bool) (node : Nat) : Nat :=
  2 ^ 60 + ty * 2 ^ 56 + (if syn then 2 ^ 55 else 0) + (if nop then 2 ^ 54 else 0) + s.fabNode * 2 ^ 32 + node * 2 ^ 16

/-! ### Matching -/

def hkey (r : HoundRec) : Nat × Nat := (r.step, r.tileId)

/-- The first mismatch is latched, recorded and raised; every mismatch counts (R373; log 20). -/
def Act.houndMismatch (h : Nat) (l p : HoundRec) : Act := .get fun s => .all [
  .incF (R.repHoundCnt h) F.repHoundCnt_MISMATCHES,
  .when (!(s.flag (R.repHoundStat h) F.repHoundStat_FIRST)) (.all [
    .setF (R.repHoundMisStep h) F.repHoundMisStep_STEP l.step,
    .setF (R.repHoundMisTile h) F.repHoundMisTile_TILE_ID l.tileId,
    .setF (R.repHoundMisWhere h) F.repHoundMisWhere_L_CORE l.core,
    .setF (R.repHoundMisWhere h) F.repHoundMisWhere_L_ARR l.arr,
    .setF (R.repHoundMisWhere h) F.repHoundMisWhere_P_CORE p.core,
    .setF (R.repHoundMisWhere h) F.repHoundMisWhere_P_ARR p.arr,
    .setRegs (R.repHoundMisLdig h) l.digest,
    .setRegs (R.repHoundMisPdig h) p.digest,
    .setF (R.repHoundStat h) F.repHoundStat_FIRST 1,
    .record 0x08 (s.fld (R.repHoundCfg h) F.repHoundCfg_SLICE) 0x9803 [BitVec.ofNat 64 l.step, BitVec.ofNat 64 l.tileId, l.digest, p.digest],
    .attnMgr])]

/-- Records whose step lies more than LAG below the lower of the two sides' latest steps are dropped (R371). -/
def Act.houndDrop (h : Nat) : Act := .get fun s =>
  let u := s.houndsAt h
  let lim := min u.locStep u.peerStep - s.fld (R.repHoundCfg h) F.repHoundCfg_LAG
  let old (r : HoundRec) : Bool := r.step < lim
  .all [
    .incF (R.repHoundCnt h) F.repHoundCnt_UNMATCHED ((u.loc.filter old).length + (u.peer.filter old).length),
    .modHounds h fun u => { u with loc := u.loc.filter (!old ·), peer := u.peer.filter (!old ·), seen := u.seen.filter fun k => k.1 ≥ lim }]

/-- A packet of a Hound unit to its peer (R372): up to 32 records from sequence number `seq`, or an acknowledgement. -/
def Act.houndSend (h seq : Nat) (ack : Option Nat) (rs : List HoundRec) : Act := .get fun s =>
  let node := s.fld (R.repHoundCfg h) F.repHoundCfg_PEER_NODE
  .fabFrame node seq 0 [s.fabWord0 5 false false node,
    seq % 2 ^ 32 * 2 ^ 32 + rs.length * 2 ^ 24 + (if ack.isSome then 2 ^ 23 else 0) + s.fld (R.repHoundCfg h) F.repHoundCfg_PEER_UNIT * 2 ^ 20 + h * 2 ^ 17,
    ack.getD 0 % 2 ^ 32 * 2 ^ 32]
    (wordBytes (rs.flatMap fun r => [BitVec.ofNat 64 r.step, BitVec.ofNat 64 (r.arr % 4 * 2 ^ 60 + r.tileId % 2 ^ 60), r.digest, BitVec.ofNat 64 (r.core % 64)]))

/-- A record of one side enters the unit's table (R371). `loc`: the local side, in die-pair mode CD0. -/
def Act.houndTake (h : Nat) (loc : Bool) (r : HoundRec) : Act := .get fun s =>
  let u := s.houndsAt h
  let cfg := R.repHoundCfg h
  let pairMode := s.fld cfg F.repHoundCfg_MODE == 1
  let u1 := if loc then { u with locStep := max u.locStep r.step } else { u with peerStep := max u.peerStep r.step }
  if u.seen.contains (r.step, r.tileId, loc) then .incF (R.repHoundCnt h) F.repHoundCnt_DUPKEY
  else if r.step < min u1.locStep u1.peerStep - s.fld cfg F.repHoundCfg_LAG then
    .all [.modHounds h fun _ => u1, .incF (R.repHoundCnt h) F.repHoundCnt_UNMATCHED]
  else
    let other := if loc then u.peer else u.loc
    let full := u.loc.length + u.peer.length ≥ 4096 || (loc && pairMode && u.unacked.length ≥ 4096)
    let send := Act.when (loc && pairMode) (.all [
      .modHounds h fun u => { u with unacked := u.unacked ++ [(u.nextSeq, r)], nextSeq := (u.nextSeq + 1) % 2 ^ 32 },
      .houndSend h u.nextSeq none [r]])
    .all [
      .modHounds h fun _ => u1,
      match other.find? (fun x => hkey x == hkey r) with
      | some o => .all [
          .when (loc && pairMode && !full) send,
          .modHounds h fun u =>
            { u with loc := u.loc.filter (fun x => hkey x != hkey r), peer := u.peer.filter (fun x => hkey x != hkey r), seen := (r.step, r.tileId, loc) :: u.seen },
          .modF (R.repHoundStat h) F.repHoundStat_COMPARED (· + 1),
          .when (o.digest != r.digest) (if loc then .houndMismatch h r o else .houndMismatch h o r)]
      | none =>
        if full then .incF (R.repHoundCnt h) F.repHoundCnt_SKIPPED
        else .all [
          send,
          .modHounds h fun u => if loc then { u with loc := u.loc ++ [r], seen := (r.step, r.tileId, loc) :: u.seen }
            else { u with peer := u.peer ++ [r], seen := (r.step, r.tileId, loc) :: u.seen }],
      .houndDrop h]

/-- A committed tile's digest goes to every unit that watches its slice (R370, R371). -/
def Act.houndLocal (part : Nat) (r : HoundRec) : Act := .get fun s => .each (List.range 8) fun h =>
  let m := s.fld (R.repHoundCfg h) F.repHoundCfg_MODE
  .when (part < 256 && (m == 1 || m == 2) && s.fld (R.repHoundCfg h) F.repHoundCfg_SLICE == part)
    (.houndTake h (m == 1 || r.core < 32) r)

/-- A die-pair mismatch faults the slice (R384). -/
def Act.pairFault (p : PairRec) (other : Word) : Act := .all [
  .record 0x09 p.slice 0x9802 [BitVec.ofNat 64 p.step, BitVec.ofNat 64 p.tileId, BitVec.ofNat 64 p.ord, p.digest, other],
  .sliceFault p.slice 0x06 0 0 0]

/-- A digest reaches the die-pair comparator (R384). -/
def Act.pairTake (r : PairRec) : Act := .get fun s =>
  match s.pairs.find? fun q => q.slice == r.slice && q.step == r.step && q.tileId == r.tileId && q.ord == r.ord && q.die != r.die with
  | some q => .all [
      .modPairs fun l => l.filter fun x => x != q,
      .when (q.digest != r.digest) (if r.die == 0 then .pairFault r q.digest else .pairFault q r.digest)]
  | none => .modPairs (· ++ [r])

/-- Cores on which a slice holds an array, ascending. -/
def State.coresOf (s : State) (p : Nat) : List Nat := (List.range 64).filter fun c => (s.partsAt p).arrays / 16 ^ c % 16 != 0

/-- Replica ordinal of a core: its rank among the slice's cores of its die (R384). -/
def State.replicaOrd (s : State) (p c : Nat) : Nat := ((s.coresOf p).filter fun d => d / 32 == c / 32 && d < c).length

end Sys2Proof.Machine
end

