-- ==== Sys2Proof/Machine/CoreOps.lean ====
section
/-! DEFINITION. The lines of the core stores and accumulator stores that an owner may use, and writes into them (R90, R103). -/

namespace Sys2Proof.Machine

def csDpa (c off : Nat) : Nat := storeWin + c * 0x400000 + off
def accDpa (c line : Nat) : Nat := accWin + c * 0x400000 + line * 2048

/-- A partition owns core-store line l of core c. -/
def State.ownsCs (s : State) (part c l : Nat) : Bool :=
  let q := l / 12288
  l < 49152 && (if part < 256 then bit (s.partsAt part).arrays (4 * c + q) && l % 12288 < s.csOwnEnd c q
    else part == 0x101 && l % 12288 ≥ s.csEnd c q)

/-- A partition owns accumulator line l of core c. -/
def State.ownsAcc (s : State) (part c l : Nat) : Bool :=
  let q := l / 256
  l < 1024 && (if part < 256 then bit (s.partsAt part).arrays (4 * c + q) && l % 256 < s.accOwnEnd c q
    else part == 0x101 && l % 256 ≥ s.accEnd c q)

/-- Lines a byte range of the core store covers. -/
def csLines (off n : Nat) : List Nat := if n == 0 then [] else (List.range ((off + n - 1) / 64 + 1 - off / 64)).map (off / 64 + ·)

def State.csOwned (s : State) (part c off n : Nat) : Bool := (csLines off n).all fun l => s.ownsCs part c l

/-- What a reader of a range meets in the lines that are its own: 0 data, 1 a pending line, 2 a pending-failed line or an uncorrectable
word (R103, R378). A line outside its quarters is a violation, whatever stands there (R93). -/
def State.csState (s : State) (part c off n : Nat) : Nat :=
  let ls := (lineChunks off n).filter fun e => s.ownsCs part c (e.1 / 64)
  if ls.any fun e => s.pendAt (c * 65536 + e.1 / 64) == 2 || s.lineBad (csDpa c e.1) e.2 then 2
  else if ls.any fun e => s.pendAt (c * 65536 + e.1 / 64) == 1 then 1 else 0

/-- Corrections of a read of the lines that are the reader's own (R118). -/
def Act.csFix (part c off n master : Nat) : Act := .get fun s =>
  .each ((lineChunks off n).filter fun e => s.ownsCs part c (e.1 / 64)) fun (a, k) => .lineFix (csDpa c a) k part master

/-- The bytes of a range, rebased; lines outside the owner's quarters read zero (R29, R93). -/
def State.csSnap (s : State) (part c off n : Nat) : List (Nat × Byte) :=
  (Map.slice s.store (c * 2 ^ 22 + off) n).filter fun e => s.ownsCs part c ((off + e.1) / 64)

/-- A write into the core store: lines outside the owner's quarters are a violation and are not written. -/
def Act.csWrite (part c off : Nat) (d : List Byte) : Act := .get fun s =>
  .all [
    .when (!(s.csOwned part c off d.length)) (.violation part violMemory),
    .each (splitData (lineChunks off d.length) d) fun (a, b) => .when (s.ownsCs part c (a / 64)) (.all [
      .writeChunk (csDpa c a) b part 2,
      .pmc (some c) 3 1 1 part 2])]

end Sys2Proof.Machine
end

