-- ==== Sys2Proof/Machine/Sha.lean ====
section
/-! DEFINITION. SHAKE256, which the spec names without repeating it: FIPS 202 (log 32). The permutation acts on a sheet of 25 words, the
word of column x and row y; its offsets and constants are computed as that standard defines them. -/

namespace Sys2Proof.Machine

/-- A sheet from its words, and the word at a place; places count modulo 5. -/
def sheet (f : Nat → Nat → Word) : List Word := (List.range 25).map fun i => f (i % 5) (i / 5)
def sheetAt (s : List Word) (x y : Nat) : Word := s.getD (x % 5 + y % 5 * 5) 0

/-- The parity of a column. -/
def columnSum (s : List Word) (x : Nat) : Word := (List.range 5).foldl (fun p y => p ^^^ sheetAt s x y) 0

/-- Each word takes the parities of the columns on both sides of its own. -/
def mixColumns (s : List Word) : List Word :=
  let p := (List.range 5).map (columnSum s)
  let side (x : Nat) : Word := p.getD (x % 5) 0
  sheet fun x y => sheetAt s x y ^^^ side (x + 4) ^^^ (side (x + 1)).rotateLeft 1

/-- The walk (x, y) to (y, 2 x + 3 y) from (1, 0): places with the triangular numbers as their rotations. -/
def rotWalk : Nat → Nat → Nat → List ((Nat × Nat) × Nat)
  | 0, _, _ => []
  | n + 1, x, y => ((x, y), (24 - n) * (25 - n) / 2 % 64) :: rotWalk n y ((2 * x + 3 * y) % 5)

def rotOf (x y : Nat) : Nat := (((rotWalk 24 1 0).find? (·.1 == (x, y))).map (·.2)).getD 0

/-- The words are rotated and change their places: that of (x, y) goes to (y, 2 x + 3 y), so (x, y) takes that of (x + 3 y, x). -/
def scatter (s : List Word) : List Word :=
  sheet fun x y => (sheetAt s (x + 3 * y) x).rotateLeft (rotOf ((x + 3 * y) % 5) x)

/-- The step along the rows that is not linear. -/
def rowStep (s : List Word) : List Word :=
  sheet fun x y => sheetAt s x y ^^^ (sheetAt s (x + 2) y &&& ~~~(sheetAt s (x + 1) y))

/-- The shift register whose low bit gives the constants. -/
def constReg : Nat → Nat
  | 0 => 1
  | n + 1 => let r := 2 * constReg n; if r < 256 then r else r ^^^ 0x171

/-- The constant of a round: bits 2^j - 1. -/
def roundConst (r : Nat) : Word :=
  BitVec.ofNat 64 (((List.range 7).filter fun j => constReg (j + 7 * r) % 2 == 1).foldl (fun v j => v + 2 ^ (2 ^ j - 1)) 0)

def permRound (s : List Word) (r : Nat) : List Word :=
  let t := rowStep (scatter (mixColumns s))
  t.set 0 (sheetAt t 0 0 ^^^ roundConst r)

/-- The permutation of FIPS 202, 24 rounds. -/
def permute (s : List Word) : List Word := (List.range 24).foldl permRound s

/-- Bytes that one permutation absorbs or yields: 1,600 bits less twice 256. -/
def spongeRate : Nat := 136

/-- A block of that many bytes laid over the first words of the sheet. -/
def absorb (s : List Word) (blk : List Byte) : List Word :=
  permute (sheet fun x y => sheetAt s x y ^^^ BitVec.ofNat 64 (leNat ((blk.drop (8 * (x + 5 * y))).take 8)))

/-- Blocks of a padded string, given their number. -/
def spongeBlocks : Nat → List Byte → List (List Byte)
  | 0, _ => []
  | n + 1, d => d.take spongeRate :: spongeBlocks n (d.drop spongeRate)

/-- Output blocks from the sheet. -/
def squeeze : Nat → List Word → List Byte
  | 0, _ => []
  | n + 1, s => (wordBytes s).take spongeRate ++ squeeze n (permute s)

/-- The first n bytes of SHAKE256 of a string: its suffix 1111 and the padding 10*1 fill the last block. -/
def shake256 (d : List Byte) (n : Nat) : List Byte :=
  let k := d.length / spongeRate + 1
  let fill := (d ++ [(0x1F : Byte)] ++ List.replicate (spongeRate * k - d.length - 1) 0)
  let padded := fill.modify (spongeRate * k - 1) (· + 0x80)
  (squeeze (cdiv n spongeRate) ((spongeBlocks k padded).foldl absorb (List.replicate 25 0))).take n

end Sys2Proof.Machine
end

