-- ==== Sys2Proof/Machine/Image.lean ====
section
/-! DEFINITION. Checkpoint images: the saved ranges, the image that slice_checkpoint writes and what slice_restore does with one
(R110, R366, R367, R394; log 33). -/

namespace Sys2Proof.Machine

/-! ### Live-range entries (R110) -/

def rgKind (w0 : Nat) : Nat := bits w0 63 62
def rgCore (w0 : Nat) : Nat := bits w0 61 56
def rgCount (w0 : Nat) : Nat := bits w0 47 0

/-- Bytes of a saved range's contents: an accumulator line is followed by its anchor word (R366). -/
def rgLen (w0 : Nat) : Nat := match rgKind w0 with
  | 0 => 64 * rgCount w0
  | 1 => 2056 * rgCount w0
  | 2 => 64 * rgCount w0
  | _ => 0

/-- The word that carries a line's recorded anchor: [9:0] two's complement, VALID in [15]. -/
def anchorWord (a : Option Int) : Nat := match a with
  | some x => 2 ^ 15 + (x % 1024).toNat
  | none => 0

def wordAnchor (w : Nat) : Option Int :=
  if bit w 15 then some (if bits w 9 0 ≥ 512 then (bits w 9 0 : Int) - 1024 else bits w 9 0) else none

/-- Contents of a saved range; lines that are not the slice's read zero and are a violation (R29). -/
def Act.readRange (p w0 w1 : Nat) (k : List Byte → Bool → Act) : Act := .get fun s =>
  let c := rgCore w0
  let ls := (List.range (rgCount w0)).map (w1 + ·)
  match rgKind w0 with
  | 0 =>
    let own := ls.filter (s.ownsCs p c ·)
    .all [
      .when (own.length != ls.length) (.violation p violMemory),
      .readLines (own.map fun l => (csDpa c (64 * l), 64)) p 9 fun _ err => .get fun t =>
        k (ls.flatMap fun l => if own.contains l then t.readBytes (csDpa c (64 * l)) 64 else List.replicate 64 0)
          (err || own.any fun l => t.pendAt (c * 65536 + l) == 2)]
  | 1 =>
    let own := ls.filter (s.ownsAcc p c ·)
    .all [
      .when (own.length != ls.length) (.violation p violMemory),
      .readLines (own.flatMap fun l => lineChunks (accDpa c l) 2048) p 9 fun _ err => .get fun t =>
        k (ls.flatMap fun l => if own.contains l then t.readBytes (accDpa c l) 2048 ++ leBytes (anchorWord (t.anchorsAt (c * 1024 + l))) 8
          else List.replicate 2056 0) err]
  | 2 => .readMem p 9 (64 * w1) (64 * rgCount w0) k
  | _ => k [] false

/-- The ranges of a list in order, each entry followed by its contents. -/
def Act.readRanges (p : Nat) : List (Nat × Nat) → List Byte → Bool → (List Byte → Bool → Act) → Act
  | [], acc, e, k => k acc e
  | (w0, w1) :: r, acc, e, k => .readRange p w0 w1 fun d err =>
      Act.readRanges p r (acc ++ leBytes w0 8 ++ leBytes w1 8 ++ d) (e || err) k

/-! ### Shape (R366) -/

def State.kenCount (s : State) (p k : Nat) : Nat := popcount ((s.partsAt p).ken / 2 ^ (32 * k)) 32
def State.lpCount (s : State) (p d : Nat) : Nat := popcount ((s.partsAt p).lp / 2 ^ (512 * d)) 512

/-- SHAPE_ARR, SHAPE_KEN and SHAPE_LP: bytes 0x40 to 0x67 of the header. -/
def State.shape (s : State) (p : Nat) : List Byte :=
  let m := ((s.coresOf p).zipIdx.map fun (c, i) => (s.partsAt p).arrays / 16 ^ c % 16 * 16 ^ i).sum
  leBytes m 32 ++ (List.range 4).flatMap (fun k => leBytes (s.kenCount p k) 1) ++ (List.range 2).flatMap fun d => leBytes (s.lpCount p d) 2

/-! ### slice_checkpoint -/

/-- A mark that a stream stands at: core, PC, MARK_ID and its live ranges. -/
structure MarkSt where
  core : Nat
  pc : Nat
  markId : Nat
  ranges : List (Nat × Nat)
deriving DecidableEq, Repr

/-- The marks of contexts, read from their entries and lists at their addresses; an entry of the reserved kind is not saved. -/
def Act.readMarks (p : Nat) : List (Nat × Nat) → List MarkSt → Bool → (List MarkSt → Bool → Act) → Act
  | [], acc, e, k => k acc e
  | (c, x) :: r, acc, e, k => .get fun s =>
      let pc := s.fld (R.coreCtxPc c x) F.coreCtxPc_PC
      .readMem p 9 (pc / 64 * 64) 64 fun d e1 =>
        let w (i : Nat) : Nat := leNat ((d.drop (8 * i)).take 8)
        .readMem p 9 (w 1) (16 * (w 2 % 65536)) fun l e2 =>
          let es := ((List.range (w 2 % 65536)).map fun i => (leNat ((l.drop (16 * i)).take 8), leNat ((l.drop (16 * i + 8)).take 8))).filter
            fun g => rgKind g.1 != 3
          Act.readMarks p r (acc ++ [⟨c, pc, w 0 % 2 ^ 32, es⟩]) (e || e1 || e2) k

/-- Header and context records of an image. -/
def State.imageHead (s : State) (p : Nat) (ms : List MarkSt) (len : Nat) : List Byte :=
  leBytes 3 2 ++ leBytes p 1 ++ leBytes (s.clsOf p) 1 ++ leBytes (s.fld (R.sliceStat p) F.sliceStat_POL_OVR) 1 ++
  leBytes (if (s.partsAt p).choiceSince then 1 else 0) 1 ++ leBytes ms.length 2 ++ leBytes (s.rd (R.repSliceStep p)).toNat 8 ++
  leBytes (s.fld (R.sliceEpoch p) F.sliceEpoch_APPLIED) 4 ++ leBytes 0 4 ++ leBytes len 8 ++ leBytes (s.partsAt p).seed 32 ++
  s.shape p ++ List.replicate 152 0 ++
  ms.flatMap fun m => leBytes ((s.coresOf p).idxOf m.core) 1 ++ leBytes m.core 1 ++ leBytes m.pc 6 ++ leBytes m.markId 4 ++
    leBytes m.ranges.length 2 ++ List.replicate 50 0

/-- slice_checkpoint writes its image at OUT_ADDR; one that OUT_LEN cannot hold is not written (log 33). `k` gets the status. -/
def Act.checkpoint (p : Nat) (l : Launch) (k : Nat → Act) : Act := .get fun s =>
  let out := l.args.getD 1 0
  .readMarks p ((s.ctxsOf p).filter fun (c, x) => s.ctxActive c x) [] false fun ms e =>
    let rs := ms.flatMap (·.ranges)
    let len := 320 + 64 * ms.length + (rs.map fun g => 16 + rgLen g.1).sum
    if e then .sliceFault p 0x02 0 0 l.handle
    else if len > l.args.getD 2 0 then k stBadField
    else .readRanges p rs [] false fun d e2 =>
      if e2 then .sliceFault p 0x02 0 0 l.handle
      else .get fun t =>
        let body := t.imageHead p ms len ++ d
        .all [
          .dmaWrite p ((t.pasidOf p l.pasidIdx).getD noPasid) out (body ++ shake256 body 64),
          .modParts p fun x => { x with choiceSince := false },
          k stOk]

/-! ### slice_restore -/

/-- A saved range as an image holds it. -/
structure RangeSt where
  w0 : Nat
  w1 : Nat
  data : List Byte
deriving DecidableEq, Repr

/-- An image as read: contexts (ORD, CORE, PC), ranges. -/
structure ImageSt where
  step : Nat
  epoch : Nat
  seed : Nat
  ctxs : List (Nat × Nat × Nat)
  ranges : List RangeSt
deriving DecidableEq, Repr

/-- Ranges from bytes; none: they do not fill the bytes exactly. -/
def parseRanges : Nat → List Byte → Option (List RangeSt)
  | 0, d => if d.isEmpty then some [] else none
  | n + 1, d =>
    let w0 := leNat (d.take 8)
    let w1 := leNat ((d.drop 8).take 8)
    if rgKind w0 == 3 || d.length < 16 + rgLen w0 then none
    else (parseRanges n (d.drop (16 + rgLen w0))).map fun r => ⟨w0, w1, (d.drop 16).take (rgLen w0)⟩ :: r

/-- The checks of R367: the digest, FORMAT, the shape of the slice, and that the parts fill LEN; none: IMAGE. -/
def State.parseImage (s : State) (p : Nat) (d : List Byte) : Option ImageSt :=
  let f (o n : Nat) : Nat := leNat ((d.drop o).take n)
  let n := f 6 2
  let body := d.take (d.length - 64)
  let rec_ (i : Nat) : Nat := 256 + 64 * i
  let cs := (List.range n).map fun i => (f (rec_ i) 1, f (rec_ i + 1) 1, f (rec_ i + 2) 6)
  let cores := s.coresOf p
  if d.length < 320 + 64 * n || shake256 body 64 != d.drop (d.length - 64) || f 0 2 != 3 || f 0x18 8 != d.length ||
      (d.drop 0x40).take 40 != s.shape p || n > 64 || cs.any (fun e => e.1 ≥ cores.length) || (cs.map (·.1)).eraseDups.length != n then none
  else match parseRanges ((List.range n).map fun i => f (rec_ i + 0xC) 2).sum (body.drop (256 + 64 * n)) with
    | none => none
    | some rs =>
      if rs.any fun r => rgKind r.w0 < 2 && !(cs.any fun e => e.2.1 == rgCore r.w0) then none
      else some ⟨f 8 8, f 0x10 4, f 0x20 32, cs, rs⟩

/-- A range is written where the slice now holds it: its CORE mapped by ordinal (R367). `k` gets whether a write met an error. -/
def Act.writeRange (p : Nat) (im : ImageSt) (r : RangeSt) (k : Bool → Act) : Act := .get fun s =>
  let c := match im.ctxs.find? fun e => e.2.1 == rgCore r.w0 with
    | some e => (s.coresOf p).getD e.1 0
    | none => 0
  match rgKind r.w0 with
  | 0 => .all [.csWrite p c (64 * r.w1) r.data, k false]
  | 1 => .all [
      .each (List.range (rgCount r.w0)) fun i =>
        let l := r.w1 + i
        let d := (r.data.drop (2056 * i)).take 2056
        if s.ownsAcc p c l then .all [
          .each (splitData (lineChunks (accDpa c l) 2048) (d.take 2048)) fun (a, b) => .writeChunk a b p 9,
          .setAnchors (c * 1024 + l) (wordAnchor (leNat ((d.drop 2048).take 8)))]
        else .violation p violMemory,
      k false]
  | _ => .writeMem p 9 (64 * r.w1) r.data k

def Act.writeRanges (p : Nat) (im : ImageSt) : List RangeSt → Bool → (Bool → Act) → Act
  | [], e, k => k e
  | r :: rs, e, k => .writeRange p im r fun err => Act.writeRanges p im rs (e || err) k

/-- Every watch of a slice ends, its streams are gone, and its recorded anchors are released: what a restore does before it writes. -/
def Act.restoreBegin (p : Nat) : Act := .get fun s => .all [
  .houndsEnd p,
  .each (arrList (s.partsAt p).arrays) fun i =>
    .clearAnchors (i / 4 * 1024 + 256 * (i % 4)) (i / 4 * 1024 + 256 * (i % 4) + s.accEnd (i / 4) (i % 4))]

/-- The context of a slice on a core (R91). -/
def State.ctxOn (s : State) (p c : Nat) : Nat := ((List.range 4).find? fun x => s.ctxPart c x == p).getD 0

/-- Each context of the image stands at its mark, past its step boundary (R367). -/
def Act.restoreCtxs (p : Nat) (im : ImageSt) : Act := .get fun s => .each im.ctxs fun (ord, _, pc) =>
  let c := (s.coresOf p).getD ord 0
  let x := s.ctxOn p c
  .all [
    .setF (R.coreCtxPc c x) F.coreCtxPc_PC pc,
    .modF (R.coreSeqStat c) F.coreSeqStat_CTX_ACTIVE (setBit · x),
    .modF (R.coreSeqStat c) F.coreSeqStat_CTX_PAUSED (setBit · x),
    .modCtxs (c * 8 + x) fun t => { t with atMark := true, stepEnd := false, markTick := s.tick }]

end Sys2Proof.Machine
end

