-- ==== Sys2Proof/Machine/TileMath.lean ====
section
/-! DEFINITION. The arithmetic of a tile: descriptor fields, column words, counts, the welt checks and the digest (R42-R48, R52, R53,
R58, R76-R80, R85, R88, R93, R95, R370). -/

namespace Sys2Proof.Machine

/-! ### The descriptor (R93): `w i` is word i -/

def fbits (x hi lo : Nat) : Nat := x / 2 ^ lo % 2 ^ (hi + 1 - lo)

def dW (w : List Nat) (i : Nat) : Nat := w.getD i 0
def dTileId (w : List Nat) : Nat := fbits (dW w 0) 59 0
def dFmtA (w : List Nat) : Nat := fbits (dW w 1) 63 60
def dFmtW (w : List Nat) : Nat := fbits (dW w 1) 59 56
def dM (w : List Nat) : Nat := fbits (dW w 1) 55 47
def dDlen (w : List Nat) : Nat := fbits (dW w 1) 46 37
def dArrMask (w : List Nat) : Nat := fbits (dW w 1) 36 33
def dBank (w : List Nat) : Nat := fbits (dW w 1) 32 32
def dWforce (w : List Nat) : Bool := fbits (dW w 1) 31 31 == 1
def dScaleA (w : List Nat) : Bool := fbits (dW w 1) 30 30 == 1
def dScaleW (w : List Nat) : Bool := fbits (dW w 1) 29 29 == 1
def dSidecar (w : List Nat) : Bool := fbits (dW w 1) 28 28 == 1
def dAccInit (w : List Nat) : Bool := fbits (dW w 1) 27 27 == 1
def dAnchorMode (w : List Nat) : Bool := fbits (dW w 1) 26 26 == 1
def dConv (w : List Nat) : Bool := fbits (dW w 1) 25 25 == 1
def dWaitEn (w : List Nat) : Bool := fbits (dW w 1) 24 24 == 1
def dSigEn (w : List Nat) : Bool := fbits (dW w 1) 23 23 == 1
def dAnchor (w : List Nat) : Int := sext 10 (fbits (dW w 1) 22 13)
def dAccLine (w : List Nat) : Nat := fbits (dW w 1) 12 3
def dWeltTol (w : List Nat) : Nat := fbits (dW w 2) 63 56
def dGuardThr (w : List Nat) : Nat := fbits (dW w 2) 55 40
def dGuardPol (w : List Nat) : Nat := fbits (dW w 2) 39 38
def dRnd (w : List Nat) : Nat := fbits (dW w 2) 37 36
def dOutFmt (w : List Nat) : Nat := fbits (dW w 2) 35 32
def dOutScale (w : List Nat) : Nat := fbits (dW w 2) 31 0
def dSrStream (w : List Nat) : Nat := fbits (dW w 3) 63 32
def dAAddr (w : List Nat) : Nat := fbits (dW w 3) 31 16
def dAStride (w : List Nat) : Nat := fbits (dW w 3) 15 0
def dAsAddr (w : List Nat) : Nat := fbits (dW w 4) 63 48
def dWAddr (w : List Nat) : Nat := fbits (dW w 4) 47 32
def dWsAddr (w : List Nat) : Nat := fbits (dW w 4) 31 16
def dScAddr (w : List Nat) : Nat := fbits (dW w 4) 15 0
def dOutAddr (w : List Nat) : Nat := fbits (dW w 5) 63 48
def dOutStride (w : List Nat) : Nat := fbits (dW w 5) 47 32
def dStatAddr (w : List Nat) : Nat := fbits (dW w 5) 31 16
def dWideFmt (w : List Nat) : Nat := fbits (dW w 5) 15 14
def dWideA (w : List Nat) : Nat := fbits (dW w 6) 63 48
def dWideAs (w : List Nat) : Nat := fbits (dW w 6) 47 32
def dWideW (w : List Nat) : Nat := fbits (dW w 6) 31 16
def dWideWs (w : List Nat) : Nat := fbits (dW w 6) 15 0
def dWaitIdx (w : List Nat) : Nat := fbits (dW w 7) 63 52
def dSigIdx (w : List Nat) : Nat := fbits (dW w 7) 51 40
def dWaitVal (w : List Nat) : Nat := fbits (dW w 7) 39 24
/-- Address of the entry, kept behind its words. -/
def dPc (w : List Nat) : Nat := w.getD 8 0

/-- Format of the wide copy (R59): FP8A or BF16. -/
def wideFmt (w : List Nat) : Nat := if dWideFmt w == 1 then 5 else 8
/-- Wide passes of a tile: ceil(K / 128). -/
def widePasses (w : List Nat) : Nat := fmtE (dFmtA w)
/-- A BF16 copy with M above 128 runs half-passes (R59). -/
def wideHalves (w : List Nat) : Nat := if dWideFmt w == 2 && dM w > 128 then 2 else 1
/-- First row and rows of a half-pass. -/
def halfRows (w : List Nat) (half : Nat) : Nat × Nat :=
  if wideHalves w == 1 then (0, dM w) else if half == 0 then (0, 128) else (128, dM w - 128)
/-- Beats of the longest wide pass or half-pass. -/
def wideBeats (w : List Nat) : Nat := fmtC (wideFmt w) * (halfRows w 0).2

/-- The load check (R96) apart from the accumulator lines; none: passed. Conditions in the order of the table (log 18). -/
def loadCheck (w : List Nat) (linesOk : Bool) : Option Nat :=
  let f := dFmtA w
  let g := fmtGuarded f
  let os := f32P.decode (dOutScale w)
  if f != dFmtW w || f > 0xA then some 1
  else if dM w == 0 || dM w * fmtC f > 256 then some 1
  else if dDlen w > 960 || dDlen w < dM w * fmtC f + 258 then some 2
  else if !linesOk then some 0xB
  else if dAnchorMode w && (!(dAccInit w) || f == 8 || f == 9) then some 1
  else if (fmtScale f == 2 && !(dScaleA w && dScaleW w)) || (fmtScale f == 0 && (dScaleA w || dScaleW w)) then some 1
  else if dSidecar w && !(fmtSidecar f) then some 1
  else if (if fmtAnchored f then dWeltTol w > 0x80 else dWeltTol w != 0) then some 1
  else if g && (dGuardPol w == 3 || (dGuardPol w == 1 && dWideFmt w == 0)) then some 1
  else if g && dGuardPol w == 1 && dDlen w < wideBeats w + 258 then some 2
  else if dConv w && (!(os.isFin) || fbits (dOutScale w) 30 23 == 0 || dRnd w == 3 || dOutFmt w > 0xB) then some 1
  else if dWideFmt w == 3 then some 1
  else none

/-! ### Operands -/

/-- What one run multiplies: format, rows, and the bytes of R95 by offset from the start of each field. -/
structure TileIn where
  fmt : Nat
  m : Nat
  scaleA : Bool
  scaleW : Bool
  sidecar : Bool
  /-- row m at 256 m -/
  rows : List (Nat × Byte)
  /-- 16 m + segment -/
  scales : List (Nat × Byte)
  w : List (Nat × Byte)
  ws : List (Nat × Byte)
  sc : List (Nat × Byte)

def byteOf (l : List (Nat × Byte)) (k : Nat) : Nat := (Map.get (fun _ => (0 : Byte)) l k).toNat

/-- `n` bits from bit offset `o` of a byte map, little-endian. -/
def bitsOf (l : List (Nat × Byte)) (o n : Nat) : Nat :=
  ((List.range ((o % 8 + n + 7) / 8)).foldl (fun x i => x + byteOf l (o / 8 + i) * 2 ^ (8 * i)) 0) / 2 ^ (o % 8) % 2 ^ n

def TileIn.k (t : TileIn) : Nat := fmtK t.fmt
def TileIn.segs (t : TileIn) : Nat := t.k / 32
def TileIn.aCode (t : TileIn) (m k : Nat) : Nat := bitsOf t.rows (8 * 256 * m + k * fmtWidth t.fmt) (fmtWidth t.fmt)
def TileIn.wCode (t : TileIn) (k n : Nat) : Nat :=
  let e := fmtE t.fmt
  bitsOf t.w (8 * (k / e * (16 * e * fmtWidth t.fmt)) + (n * e + k % e) * fmtWidth t.fmt) (fmtWidth t.fmt)

/-- Unbiased scale exponent; none: NaN (R39). -/
def TileIn.sa (t : TileIn) (m s : Nat) : Option Int := if t.scaleA then scaleExp (byteOf t.scales (16 * m + s)) else some 0
def TileIn.sw (t : TileIn) (s n : Nat) : Option Int := if t.scaleW then scaleExp (byteOf t.ws (128 * s + n)) else some 0

/-- The sidecar entries of a segment of a column: index and correction code (R42). -/
def TileIn.side (t : TileIn) (s n : Nat) : List (Nat × Nat) :=
  if !t.sidecar then []
  else
    let x := bitsOf t.sc (32 * (128 * s + n)) 32
    (if fbits x 30 30 == 1 then [(fbits x 16 12, fbits x 11 4)] else []) ++
    (if fbits x 31 31 == 1 then [(fbits x 29 25, fbits x 24 17)] else [])

/-- Exact values, zero for what contributes zero (R37, R42, R52). -/
def TileIn.aVal (t : TileIn) (m k : Nat) : Dy := (decodeVal t.fmt (t.aCode m k)).dy
def TileIn.wVal (t : TileIn) (k n : Nat) : Dy := (decodeVal t.fmt (t.wCode k n)).dy
def dwVal (code : Nat) : Dy := (decodeVal 5 code).dy

/-- Sum of dyadics; a zero term costs nothing. -/
def dySum (l : List Dy) : Dy := l.foldl (fun a b => if b.m == 0 then a else a.add b) .zero

/-! ### Counts (R39, R52, R53) -/

def isLim (fmt code : Nat) : Bool :=
  match fmt with
  | 1 => code % 8 == 7
  | 2 => code == 7 || code == 8
  | _ => false
def isRsv (fmt code : Nat) : Bool := fmt == 0 && code == 2
def isSpecial (fmt code : Nat) : Bool := !(decodeVal fmt code).isFin

def countIf (n : Nat) (f : Nat → Bool) : Nat := (List.range n).countP f

/-- The streamed codes and the stationary codes of a tile that satisfy a predicate, each row's elements once, each block's once. -/
def TileIn.countA (t : TileIn) (f : Nat → Bool) : Nat := countIf (t.m * t.k) fun i => f (t.aCode (i / t.k) (i % t.k))
def TileIn.countW (t : TileIn) (f : Nat → Bool) : Nat := countIf (t.k * 128) fun i => f (t.wCode (i / 128) (i % 128))

/-- SPECIAL_CNT of a run; `stat`: the stationary part counts (a second half-pass counts it not again). -/
def TileIn.special (t : TileIn) (stat : Bool) : Nat :=
  t.countA (isSpecial t.fmt) + countIf (t.m * t.segs) (fun i => t.sa (i / t.segs) (i % t.segs) == none) +
  (if stat then t.countW (isSpecial t.fmt) + countIf (t.segs * 128) (fun i => t.sw (i / 128) (i % 128) == none) +
    ((List.range (t.segs * 128)).map fun i => ((t.side (i / 128) (i % 128)).filter fun e => isSpecial 5 e.2).length).sum
  else 0)

/-! ### Contributions (R43-R45) -/

def c63 : Int := 2 ^ 63 - 1
def clamp63 (x : Int) : Int := max (-c63) (min c63 x)

/-- A physical fault as it adds to the segment sum of a data cell (R80). -/
def faultAt (fs : List CellFault) (m n s : Nat) : Int :=
  (fs.filter fun f => f.row == some m && f.col == some n && f.seg == s).foldl (fun a f => a + f.delta) 0

/-- Exact segment sum p with its sidecar products (R43 step 1). -/
def TileIn.segSum (t : TileIn) (m n s : Nat) : Dy :=
  dySum (((List.range 32).map fun i => (t.aVal m (32 * s + i)).mul (t.wVal (32 * s + i) n)) ++
    (t.side s n).map fun e => (t.aVal m (32 * s + e.1)).mul (dwVal e.2))

/-- The contributions of one segment to an output element, before the clamp (R43, R44); none on a NaN scale (R39). -/
def TileIn.contribs (t : TileIn) (anchor : Int) (fs : List CellFault) (m n s : Nat) : List Int :=
  match t.sa m s, t.sw s n with
  | some a, some w =>
    if fmtAnchored t.fmt then
      ((List.range 32).map fun i => (((t.aVal m (32 * s + i)).mul (t.wVal (32 * s + i) n)).shl (a + w)).floorAt (anchor - 52)) ++
        (if faultAt fs m n s == 0 then [] else [faultAt fs m n s])
    else [(((t.segSum m n s).add ⟨faultAt fs m n s, 0⟩).shl (a + w)).floorAt (anchor - 52)]
  | _, _ => []

/-- Sum of an output element's clamped contributions, and its clamps. -/
def TileIn.element (t : TileIn) (anchor : Int) (fs : List CellFault) (m n : Nat) : Int × Nat :=
  (List.range t.segs).foldl (fun (a, c) s => (t.contribs anchor fs m n s).foldl
    (fun (a, c) x => (a + clamp63 x, if clamp63 x == x then c else c + 1)) (a, c)) (0, 0)

/-- The sums of all output elements, row by row, and the clamps. -/
def TileIn.sums (t : TileIn) (anchor : Int) (fs : List CellFault) : List Int × Nat :=
  let es := (List.range (t.m * 128)).map fun i => t.element anchor fs (i / 128) (i % 128)
  (es.map (·.1), (es.map (·.2)).sum)

/-- The drain's saturation (R45): column words and how many saturated. -/
def drainWords (sums : List Int) : List Int × Nat := (sums.map clamp63, sums.countP fun x => clamp63 x != x)

/-- The anchor of scale mode (R48). -/
def TileIn.scaleAnchor (t : TileIn) : Int :=
  let row s := (List.range t.m).filterMap fun m => t.sa m s
  let col s := (List.range 128).filterMap fun n => t.sw s n
  let mx (l : List Int) : Option Int := match l with
    | [] => none
    | x :: r => some (r.foldl max x)
  let es := (List.range t.segs).filterMap fun s => match mx (row s), mx (col s) with
    | some a, some b => some (a + b)
    | _, _ => none
  (mx es).getD 0 + fmtCf t.fmt

/-! ### The welt (R76-R80) -/

/-- The outcome of a run's checks. -/
structure WeltRes where
  rowFail : Bool
  colFail : Bool
  resFail : Bool
  seg : Nat
  col : Nat
  row : Nat
  tol : Nat
  defRow : Nat
  defCol : Nat
deriving DecidableEq, Repr

def WeltRes.bad (r : WeltRes) : Bool := r.rowFail || r.colFail || r.resFail

/-- T of R79. -/
def weltTol (fmt m field : Nat) : Nat := if !(fmtAnchored fmt) then 0 else if field == 0 then (max 127 (m - 1) + 1) / 2 else field

/-- Row and column checks of an exact format differ exactly where faults do not cancel (R76): deltas of a segment's row check and
column check. -/
def rowDelta (fs : List CellFault) (m s : Nat) : Int :=
  fs.foldl (fun a f => if f.row == some m && f.seg == s then (if f.col == none then a - f.delta else a + f.delta) else a) 0
def colDelta (fs : List CellFault) (n s : Nat) : Int :=
  fs.foldl (fun a f => if f.col == some n && f.seg == s then (if f.row == none then a - f.delta else a + f.delta) else a) 0

def firstFail (l : List Nat) : Bool × Nat := match l with
  | [] => (false, 0)
  | x :: _ => (true, x)

/-- Checks of an exact format: whether a row check and a column check failed in any segment, the lowest failing segment, and the place of
the first failing column check and row check (R76, R88). -/
def weltExact (m segs : Nat) (fs : List CellFault) (res : Bool) : WeltRes :=
  let row (s : Nat) : Option Nat := (List.range m).find? fun x => rowDelta fs x s != 0
  let col (s : Nat) : Option Nat := (List.range 128).find? fun x => colDelta fs x s != 0
  let first := (List.range segs).find? fun s => (row s).isSome || (col s).isSome
  let r := (List.range segs).findSome? row
  let c := (List.range segs).findSome? col
  ⟨r.isSome, c.isSome, res, first.getD 0, c.getD 0, r.getD 0, 0, 0, 0⟩

/-- The grid value of a product (R44). -/
def grid (anchor : Int) (d : Dy) : Int := d.floorAt (anchor - 52)

/-- Streamed element scaled, stationary element scaled; zero under a NaN scale (R78). -/
def TileIn.aS (t : TileIn) (m k : Nat) : Dy := match t.sa m (k / 32) with
  | some e => (t.aVal m k).shl e
  | none => .zero
def TileIn.wS (t : TileIn) (k n : Nat) : Dy := match t.sw (k / 32) n with
  | some e => (t.wVal k n).shl e
  | none => .zero

/-- Data side less welt side of a row check and of a column check (R78). -/
def TileIn.rowD (t : TileIn) (anchor : Int) (fs : List CellFault) (m : Nat) : Int :=
  ((List.range t.k).map fun k =>
    ((List.range 128).map fun n => grid anchor ((t.aS m k).mul (t.wS k n))).sum -
      grid anchor ((t.aS m k).mul (dySum ((List.range 128).map fun n => t.wS k n)))).sum +
  fs.foldl (fun a f => if f.row == some m then (if f.col == none then a - f.delta else a + f.delta) else a) 0

def TileIn.colD (t : TileIn) (anchor : Int) (fs : List CellFault) (n : Nat) : Int :=
  ((List.range t.k).map fun k =>
    ((List.range t.m).map fun m => grid anchor ((t.aS m k).mul (t.wS k n))).sum -
      grid anchor ((dySum ((List.range t.m).map fun m => t.aS m k)).mul (t.wS k n))).sum +
  fs.foldl (fun a f => if f.col == some n then (if f.row == none then a - f.delta else a + f.delta) else a) 0

/-- A deficit in anchored places, rounded up, at least 0. -/
def places (d : Int) : Nat := if d ≥ 0 then 0 else (d.natAbs + 255) / 256

/-- Checks of an anchored format (R78, R79). -/
def TileIn.weltAnch (t : TileIn) (anchor : Int) (field : Nat) (fs : List CellFault) (res : Bool) : WeltRes :=
  let tol := weltTol t.fmt t.m field
  let rd := (List.range t.m).map (t.rowD anchor fs)
  let cd := (List.range 128).map (t.colD anchor fs)
  let bad (d : Int) : Bool := d > 0 || d < -256 * (tol : Int)
  let r := firstFail ((List.range t.m).filter fun i => bad (rd.getD i 0))
  let c := firstFail ((List.range 128).filter fun i => bad (cd.getD i 0))
  ⟨r.1, c.1, res, 0, c.2, r.2, tol, min 255 (rd.foldl (fun a d => max a (places d)) 0), min 255 (cd.foldl (fun a d => max a (places d)) 0)⟩

def TileIn.welt (t : TileIn) (anchor : Int) (field : Nat) (fs : List CellFault) (res : Bool) : WeltRes :=
  if fmtAnchored t.fmt then t.weltAnch anchor field fs res else weltExact t.m t.segs fs res

/-- CORE.ARR.WELT_ERR (R88). -/
def weltErrWord (tile : Nat) (r : WeltRes) (fmt run : Nat) : Word :=
  let o (b : Bool) : Nat := if b then 1 else 0
  BitVec.ofNat 64 (tile % 2 ^ 32 * 2 ^ 32 + r.seg % 32 * 2 ^ 26 + r.col % 128 * 2 ^ 19 + r.row % 256 * 2 ^ 11 + o r.rowFail * 2 ^ 10 +
    o r.colFail * 2 ^ 9 + o r.resFail * 2 ^ 8 + o (fmtAnchored fmt) * 2 ^ 7 + run % 4 * 2 ^ 5)

/-- The arithmetic word (R53). -/
def arithWord (sat lim spec rsv : Nat) (wrap hit resoled : Bool) : Nat :=
  let o (b : Bool) : Nat := if b then 1 else 0
  min sat 65535 * 2 ^ 48 + min lim 65535 * 2 ^ 32 + min spec 65535 * 2 ^ 16 + min rsv 255 * 2 ^ 8 + o wrap * 128 + o hit * 64 + o resoled * 32

/-- The welt word (R85). `unchecked`: the tile carried no welt beat (R68). -/
def weltWord (r : WeltRes) (unchecked : Bool) (runs first commit : Nat) (suspect resHit : Bool) (lat : Nat) : Nat :=
  let o (b : Bool) : Nat := if b then 1 else 0
  (if unchecked then 2 ^ 25 else r.tol % 256 * 2 ^ 56 + r.defRow % 256 * 2 ^ 48 + r.defCol % 256 * 2 ^ 40 + o suspect * 2 ^ 27 + o resHit * 2 ^ 26) +
    runs % 4 * 2 ^ 32 + first % 4 * 2 ^ 30 + commit % 4 * 2 ^ 28 + lat % 512 * 2 ^ 16

/-- The digest of a committed tile (R370): column words in ascending row, then column, then the arithmetic word with WRAP 0. -/
def tileDigest (tile : Nat) (words : List Int) (arith : Nat) : Word :=
  let fold (h : Word) (w : Word) : Word := (mix4 0 0 (h ^^^ w) w).1
  fold (words.foldl (fun h w => fold h (BitVec.ofInt 64 w)) (BitVec.ofNat 64 tile)) (BitVec.ofNat 64 arith)

/-- The guard trips (R58): counts formed without saturation. -/
def guardTrips (w : List Nat) (sat lim : Nat) : Bool := fmtGuarded (dFmtA w) && dGuardThr w != 0xFFFF && sat + lim > dGuardThr w

end Sys2Proof.Machine
end

