-- ==== Sys2Proof/Machine/Tile.lean ====
section
/-! DEFINITION. Core execution: program entries, dispatch, stationary banks, welt verdict, guard, resole, commit, write-back, conversion,
overrun and replay (R90-R103, R49, R58-R60, R70-R73, R81-R86, R272-R275). -/

namespace Sys2Proof.Machine

/-! ### Streams -/

/-- A stream that may take its next entry: running, not held at a mark, nothing of an earlier entry waiting to be issued. -/
def State.ctxReady (s : State) (c x : Nat) : Bool :=
  let t := s.ctxsAt (c * 8 + x)
  s.ctxActive c x && !t.atMark && t.cur.isNone && t.wait.isNone && t.bundle.isEmpty && t.redo.isEmpty

/-- The 64 B entry at PC, and whether its fetch met an error response (R91, R103). -/
def Act.fetchEntry (c x kind : Nat) (k : List Nat → Nat → Act) : Act := .get fun s =>
  let pc := s.fld (R.coreCtxPc c x) F.coreCtxPc_PC
  .when (s.ctxReady c x) (.readMem (s.ctxPart c x) 3 (pc / 64 * 64) 64 (fun d err =>
    let w := (List.range 8).map fun i => leNat ((d.drop (8 * i)).take 8)
    let kd := fbits (dW w 0) 63 60
    if err then .coreFault c x 9 pc
    else if kd == 0 || kd > 4 then .coreFault c x 0xA pc
    else .when (kd == kind) (k w pc)) (coreSrc c))

def Act.pcNext (c x : Nat) : Act := .modF (R.coreCtxPc c x) F.coreCtxPc_PC (· + 64)

/-- TILE_ENTRY: fetch and load check (R91, R96). -/
def execTileEntry (core ctx : Nat) (s : State) : Out := Act.out s <|
  .fetchEntry core ctx 1 fun w pc =>
    let part := s.ctxPart core ctx
    let linesOk := (List.range (dM w)).all fun i => s.ownsAcc part core (dAccLine w + i)
    match loadCheck w linesOk with
    | some code => .coreFault core ctx code pc
    | none => .all [
        .modCtxs (core * 8 + ctx) fun t => { t with cur := some (w ++ [pc, s.clk.cyc]) },
        .pcNext core ctx]

/-- A vector instruction word that R104 does not define: OP outside the table, or a data type other than FP32 and BF16 in a class that
computes on lanes (log 23). -/
def vBad (w : Nat) : Bool :=
  let op := fbits w 63 56
  let dt := fbits w 55 52
  op ≥ 0x64 || (0x10 ≤ op && op < 0x48 && dt != 8 && dt != 11)

/-- VECTOR_BUNDLE: fetch; the instructions wait for their issue (R91). The model keeps them with the address of the entry last. -/
def execVectorBundle (core ctx : Nat) (s : State) : Out := Act.out s <|
  .fetchEntry core ctx 2 fun w pc =>
    let n := fbits (dW w 0) 59 56
    if n == 0 || n > 7 || ((w.drop 1).take n).any vBad then .coreFault core ctx 1 pc
    else .all [
      .modCtxs (core * 8 + ctx) fun t => { t with bundle := (w.drop 1).take n },
      .pcNext core ctx]

/-- Nothing of an earlier entry of the stream is unfinished: tiles, conversions, signals, moves (R110). -/
def State.streamDrained (s : State) (c x : Nat) : Bool :=
  (s.arrsOfCtx c x).isEmpty && !(s.convq.any fun e => e.1 == c && e.2.ctx == x) &&
  !(s.sigq.any fun e => e.by_ == .core c x) && (s.ctxsAt (c * 8 + x)).moves.isEmpty && (s.ctxsAt (c * 8 + x)).stats.isEmpty

/-- The launch of a stream's program ends with it (R91, R309, R312). -/
def Act.programDone (part c handle status : Nat) : Act := .get fun s =>
  match (s.partsAt part).launches.find? (·.handle == handle) with
  | none => .settle part
  | some l =>
    if l.kind == 3 then
      let l2 := { l with cores := l.cores.filter (· != c), doneCnt := l.doneCnt + (if status == stOk then 1 else 0) }
      let l3 := if status == stOk then l2 else { l2 with args := [1] }
      .all [
        .modParts part fun p => { p with launches := p.launches.map fun x => if x.handle == handle then l3 else x },
        .when l3.cores.isEmpty (.finish part l3 (if l3.args == [1] then stAborted else stOk) l3.doneCnt 0xFFFF)]
    else .finish part l status 0 0xFFFF

/-- The streams that stand past a step boundary go on, unless the slice is PAUSED (R111). -/
def Act.streamsGo (p : Nat) : Act := .get fun s => .when (s.sliceState p != 3 && !(s.partsAt p).epochHold) (.each (s.ctxsOf p) fun (c, x) =>
  .when ((s.ctxsAt (c * 8 + x)).atMark && !(s.ctxsAt (c * 8 + x)).stepEnd) (.all [
    .modCtxs (c * 8 + x) fun t => { t with atMark := false },
    .modF (R.coreSeqStat c) F.coreSeqStat_CTX_PAUSED (clrBit · x),
    .pcNext c x]))

/-- Every unit has reported the epoch: it is applied, and the streams continue (R317 step 3). -/
def Act.epochCommit (p : Nat) : Act := .get fun s =>
  match (s.partsAt p).launches.find? (·.kind == 7) with
  | none => .skip
  | some l => .all [
      .setF (R.sliceStat p) F.sliceStat_CLASS (l.args.getD 2 0 % 8),
      .setF (R.sliceStat p) F.sliceStat_POL_OVR (l.args.getD 3 0 % 4),
      .setF (R.sliceEpoch p) F.sliceEpoch_APPLIED (l.args.getD 0 0),
      .setF (R.sliceEpoch p) F.sliceEpoch_PENDING 0,
      .modParts p fun x => { x with epochHold := false },
      .repRetarget (s.coresOf p),
      .streamsGo p,
      .finish p l stOk 0 0xFFFF]

/-- The units of a slice apply the pending epoch (R317 step 2): one that adds REP is reported by a core only once the core is in REP
mode, and until then the streams stand (R357). -/
def Act.epochApply (p : Nat) : Act := .all [
  .modParts p fun x => { x with epochHold := true },
  .get fun s => .repRetarget (s.coresOf p),
  .get fun s => .when (!(s.wantsRep p) || (s.coresOf p).all fun c => !(s.flag (R.repCore c) F.repCore_TRANS)) (.epochCommit p)]

/-- The streams of the slice stand: pending pauses and checkpoints are performed, and the slice resumes if only checkpoints with
RESUME waited (R318). -/
def Act.pauseReached (p : Nat) : Act := .get fun s =>
  let ls := (s.partsAt p).launches.filter fun l => l.kind == 4 || l.kind == 5
  .all [
    .modParts p fun x => { x with pauseReq := false },
    .setF (R.sliceStat p) F.sliceStat_STATE 3,
    .mbEvent p 5,
    .each ls fun l => .get fun t => .when (t.sliceState p == 3)
      (if l.kind == 4 then .finish p l stOk 0 0xFFFF else .checkpoint p l fun st => .finish p l st 0 0xFFFF),
    .get fun t => .when (t.sliceState p == 3 && ls.all fun l => l.kind == 5 && l.args.getD 0 0 == 1) (.all [
      .setF (R.sliceStat p) F.sliceStat_STATE 2, .streamsGo p, .settle p])]

/-- No stream of the slice runs any more: what waited for a boundary happens (R317 step 5, R318). -/
def Act.streamsGone (p : Nat) : Act := .get fun s =>
  .when (p < 256 && !((s.ctxsOf p).any fun (c, x) => s.ctxActive c x)) (.all [
    .when (s.fld (R.sliceEpoch p) F.sliceEpoch_PENDING != 0) (.epochApply p),
    .when (s.partsAt p).pauseReq (.pauseReached p)])

/-- A context's program ends: the context is idle and its launch completes. -/
def Act.ctxDone (c x status : Nat) : Act := .get fun s =>
  let part := s.ctxPart c x
  let h := (s.ctxsAt (c * 8 + x)).handle
  .all [.ctxHalt c x, .when (x != 4) (.programDone part c h status), .when (x != 4) (.streamsGone part)]

/-- MARK: the stream waits for every earlier entry, then stands at a STEP_END mark or goes on (R110, R111). A pending stop takes
effect here (R310). A pause holds streams at marks with STEP_END (R318; log 21). -/
def execMark (core ctx : Nat) (s : State) : Out := Act.out s <|
  .when (s.streamDrained core ctx) <| .fetchEntry core ctx 3 fun w _ =>
    if (s.ctxsAt (core * 8 + ctx)).stopPend then .ctxDone core ctx stAborted
    else
      let se := fbits (dW w 3) 0 0 == 1 && ctx != 4
      .all [
        .modCtxs (core * 8 + ctx) fun t => { t with atMark := se, stepEnd := se, markTick := s.tick },
        if se then .modF (R.coreSeqStat core) F.coreSeqStat_CTX_PAUSED (setBit · ctx) else .pcNext core ctx]

/-- END: every earlier entry has finished; the context stops and its program is complete (R91, R310). -/
def execEnd_ (core ctx : Nat) (s : State) : Out := Act.out s <|
  .when (s.streamDrained core ctx) <| .fetchEntry core ctx 4 fun _ _ => .ctxDone core ctx stOk

/-! ### Sync words (R109) -/

def State.syncBad (s : State) (part idx : Nat) : Bool := s.lineBad (s.syncDpa part idx) 4

/-- (s16)(word[15:0] - WAIT_VAL) >= 0; what only the addition of an armed barrier would satisfy is held until it opens (R360). -/
def State.syncOk (s : State) (part idx val : Nat) : Bool :=
  let b := s.barsAt part
  let held := if part < 256 && b.armed && b.ahead && b.sigIdx == idx then 1 else 0
  (leNat (s.readBytes (s.syncDpa part idx) 2) + 2 * 65536 - held - val % 65536) % 65536 < 32768

/-- A signal is issued; the Kennel atomic unit performs it later. -/
def Act.signal (part idx : Nat) (by_ : Requester) (cells : List Nat) (id pc : Nat) : Act := .modSigq (· ++ [⟨part, idx, by_, cells, id, pc⟩])

/-! ### Dispatch -/

/-- Uncommitted tiles of a stream, dispatched or waiting for another run. -/
def State.tilesOf (s : State) (c x : Nat) : List TileRun :=
  ((List.range 4).flatMap fun a => (s.arrsAt (4 * c + a)).tiles.filter fun t => t.ctx == x) ++ (s.ctxsAt (c * 8 + x)).redo

def overlaps (a b : List Nat) : Bool := dAccLine a < dAccLine b + dM b && dAccLine b < dAccLine a + dM a

/-- The ordering waits of R92 on accumulator lines. -/
def State.orderWait (s : State) (c x : Nat) (w : List Nat) : Bool :=
  (s.tilesOf c x).any fun t => overlaps w t.words && (dAccInit w || dConv w || dAccInit t.words)

/-- The anchor check (R49): a tile that adds must carry the recorded anchor of every line. -/
def State.anchorsOk (s : State) (c : Nat) (w : List Nat) : Bool :=
  dAccInit w || (List.range (dM w)).all fun i => s.anchorsAt (c * 1024 + dAccLine w + i) == some (dAnchor w)

/-- The arrays a tile may use, and whether the choice was widened (R98). -/
def State.arrChoice (s : State) (part c mask : Nat) : List Nat × Bool :=
  let held := (List.range 4).filter fun a => s.holdsArr part c a && !(s.arrFenced c a)
  let named := held.filter fun a => mask == 0 || bit mask a
  if named.isEmpty then (held, true) else (named, false)

/-- Another owner's work on the array is over, fewer than eight tiles stand on it, and admission for `len` cycles holds (R100, R270,
R272, R278): 0 admitted, 1 waits, 2 the run is too short. -/
def State.admission (s : State) (part c a len : Nat) : Nat :=
  let ts := (s.arrsAt (4 * c + a)).tiles
  if ts.any (fun t => t.part != part) || ts.length ≥ 8 then 1
  else if part < 256 then (if s.leftoverEnd (fun n => s.arrRadio n c a) len ≥ s.clk.cyc + len then 0 else 2)
  else if s.arrRadio s.stitch c a && !(bit s.last.prevArr (4 * c + a)) && s.clk.cyc < s.last.stitchCyc + 34 then 1
  else 0

/-- The first beat of the run has entered, or is due to. -/
def TileRun.startCyc (t : TileRun) : Option Nat := t.entry.head?

/-- The tag of the bank contents a run needs (R99; wide passes by their addresses). -/
def runTag (t : TileRun) : List Nat :=
  let w := t.words
  match t.pass with
  | none => [t.part, dFmtW w, dWAddr w, dWsAddr w, dScAddr w, if dScaleW w then 1 else 0, if dSidecar w then 1 else 0]
  | some p => [t.part, 16 + wideFmt w, dWideW w, dWideWs w, p.pass]

def ArrSt.bank (r : ArrSt) (b : Nat) : BankSt := if b == 0 then r.bank0 else r.bank1
def ArrSt.setBank (r : ArrSt) (b : Nat) (k : BankSt) : ArrSt := if b == 0 then { r with bank0 := k } else { r with bank1 := k }

def State.bankSt (s : State) (c a b : Nat) : Nat :=
  if b == 0 then s.fld (R.coreArrStat c a) F.coreArrStat_BANK0_ST else s.fld (R.coreArrStat c a) F.coreArrStat_BANK1_ST
def Act.setBankSt (c a b v : Nat) : Act :=
  if b == 0 then .setF (R.coreArrStat c a) F.coreArrStat_BANK0_ST v else .setF (R.coreArrStat c a) F.coreArrStat_BANK1_ST v

/-- The cycle from which a beat of a bank may enter, by its load (R71). -/
def ArrSt.bankFrom (r : ArrSt) (b : Nat) : Nat := if b == 0 then r.from0 else r.from1

def emptyBank : BankSt := ⟨[], [], [], []⟩

/-- The tag a bank will hold when the loads already queued have run: that of the last queued tile with the bank, else its own. -/
def State.bankTag (s : State) (c a b : Nat) : List Nat :=
  let r := s.arrsAt (4 * c + a)
  match (r.tiles.filter fun t => t.load == 1 && dBank t.words == b).getLast? with
  | some t => runTag t
  | none => if s.bankSt c a b == 0 then [] else (r.bank b).tag

/-! #### Feeding: the A-feeder reads the rows of a run (R64, R65) -/

/-- Byte ranges a run streams: (place in the snapshot, core-store offset, bytes), rows and scales. -/
def runRows (t : TileRun) : List (Nat × Nat × Nat) :=
  let w := t.words
  match t.pass with
  | none => (List.range (dM w)).map fun m => (256 * m, (dAAddr w + m * dAStride w) * 64, fmtK (dFmtA w) * fmtWidth (dFmtA w) / 8)
  | some p =>
    let b := fmtWidth (wideFmt w) / 8
    let (lo, n) := halfRows w p.half
    (List.range n).map fun i => (256 * i, dWideA w * 64 + (lo + i) * (cdiv (fmtK (dFmtA w) * b) 64 * 64) + 128 * p.pass * b, 128 * b)

def runScales (t : TileRun) : List (Nat × Nat × Nat) :=
  let w := t.words
  match t.pass with
  | none => if dScaleA w then (List.range (dM w)).map fun m => (16 * m, dAsAddr w * 64 + 16 * m, fmtK (dFmtA w) / 32) else []
  | some p =>
    let (lo, n) := halfRows w p.half
    if wideFmt w == 5 then (List.range n).map fun i => (16 * i, dWideAs w * 64 + 32 * (lo + i) + 4 * p.pass, 4) else []

/-- The block, its scales and its sidecar words: core-store offset and bytes of each (R95). -/
def runBlock (t : TileRun) : (Nat × Nat) × (Nat × Nat) × (Nat × Nat) :=
  let w := t.words
  match t.pass with
  | none =>
    let f := dFmtW w
    ((dWAddr w * 64, fmtK f * 128 * fmtWidth f / 8), (dWsAddr w * 64, if dScaleW w then 4 * fmtK f else 0),
      (dScAddr w * 64, if dSidecar w then 16 * fmtK f else 0))
  | some p =>
    let b := fmtWidth (wideFmt w) / 8
    ((dWideW w * 64 + p.pass * 16384 * b, 16384 * b), (dWideWs w * 64 + 512 * p.pass, if wideFmt w == 5 then 512 else 0), (0, 0))

/-- What a run multiplies. -/
def runIn (t : TileRun) : TileIn :=
  let w := t.words
  match t.pass with
  | none => ⟨dFmtA w, dM w, dScaleA w, dScaleW w, dSidecar w, t.rows, t.scales, t.bank.w, t.bank.ws, t.bank.sc⟩
  | some p => ⟨wideFmt w, (halfRows w p.half).2, wideFmt w == 5, wideFmt w == 5, false, t.rows, t.scales, t.bank.w, t.bank.ws, []⟩

def State.snapList (s : State) (part c : Nat) (l : List (Nat × Nat × Nat)) : List (Nat × Byte) :=
  l.flatMap fun (k, off, n) => (s.csSnap part c off n).map fun e => (k + e.1, e.2)

/-- Two runs are of one tile of one stream. -/
def TileRun.sameTile (t u : TileRun) : Bool := t.ctx == u.ctx && t.seq == u.seq

/-- Whether a tile of the partition carries a welt beat (R68). -/
def State.checked (s : State) (part : Nat) : Bool := if part < 256 then s.isChk part else true

/-- Streamed rows of a run, and the beats of one (R63). -/
def runM (t : TileRun) : Nat := match t.pass with
  | none => dM t.words
  | some p => (halfRows t.words p.half).2
def runC (t : TileRun) : Nat := match t.pass with
  | none => fmtC (dFmtA t.words)
  | some _ => fmtC (wideFmt t.words)

/-- Beats of a run. -/
def runBeats (t : TileRun) : Nat := runM t * runC t

/-- Every row of the run has been injected. -/
def TileRun.fed (t : TileRun) : Bool := t.entry.length ≥ runM t

/-- The oldest run with rows still to be injected. -/
def ArrSt.unfed (r : ArrSt) : Option TileRun := r.tiles.find? fun t => !t.fed

/-- The cycles in which the beats of a run enter: its rows', then the welt beat of a checked tile (R67, R68). -/
def State.beatCycles (s : State) (t : TileRun) : List Nat :=
  (t.entry.flatMap fun e => (List.range (runC t)).map (e + ·)) ++
    (if t.fed && s.checked t.part then [t.entry.getLastD 0 + runC t] else [])

/-- Cycles for which a beat crosses the array: it leaves cell (127, 127) 254 + s cycles after it entered (R71). -/
def State.beatSpan (s : State) (c a : Nat) : Nat := s.fld (R.coreArrLat c a) F.coreArrLat_LAT_NATIVE - 4

/-- The count of a bank is zero, and no beat of it is still to enter (R71). -/
def State.bankClear (s : State) (c a b : Nat) : Bool :=
  (s.arrsAt (4 * c + a)).tiles.all fun t => dBank t.words != b ||
    (s.beatCycles t).all fun e => e + s.beatSpan c a ≤ s.clk.cyc

/-- Core-store ranges of row m of a run: the row and its scales. -/
def rowRanges (t : TileRun) (m : Nat) : List (Nat × Nat × Nat) := ((runRows t).drop m).take 1 ++ ((runScales t).drop m).take 1

/-- What the ranges of a reader hold: the worst of them (R103). -/
def State.rangesState (s : State) (part c : Nat) (l : List (Nat × Nat × Nat)) : Nat :=
  l.foldl (fun m (_, off, n) => max m (s.csState part c off n)) 0

/-- The tile of a scale-mode descriptor, whose anchor is fixed before its first product, needs every scale before its first beat (R48). -/
def State.anchorState (s : State) (c : Nat) (t : TileRun) : Nat :=
  if t.entry.isEmpty && t.pass.isNone && dAnchorMode t.words then s.rangesState t.part c (runScales t) else 0

/-- Latency the array applies: padded for REP slices and PAD_ALL (R69). -/
def State.padded (s : State) (part c a : Nat) : Bool := (part < 256 && s.isRep part) || s.flag (R.coreArrCfg c a) F.coreArrCfg_PAD_ALL

/-- The next k rows of a run enter, one after the other, after the last beat of the tile before (R65, R67, R71, R100). With the first of
them the tile starts: bank, anchor and padding are fixed. -/
def Act.inject (c a k : Nat) (t : TileRun) : Act := .get fun s =>
  let r := s.arrsAt (4 * c + a)
  let b := dBank t.words
  let m := t.entry.length
  let rows := ((runRows t).drop m).take k
  let scales := ((runScales t).drop m).take k
  let e := max s.clk.cyc (max r.nextBeat (r.bankFrom b))
  let t1 := { t with
    rows := t.rows ++ s.snapList t.part c rows
    scales := t.scales ++ s.snapList t.part c scales
    entry := t.entry ++ (List.range k).map fun i => e + i * runC t }
  let t2 := if m != 0 then t1 else { t1 with bank := r.bank b, pad := s.padded t.part c a }
  let t3 := if m != 0 then t2 else { t2 with
    anchor := match t.pass with
      | none => if dAnchorMode t.words then
          (runIn { t2 with scales := s.snapList t.part c (runScales t) }).scaleAnchor else dAnchor t.words
      | some _ => t.anchor }
  let rs := rows ++ scales
  .all [
    .when (!(rs.all fun (_, off, n) => s.csOwned t.part c off n)) (.violation t.part violMemory),
    .each rs fun (_, off, n) => .csFix t.part c off n 1,
    .modArrs (4 * c + a) fun r => { r with
      tiles := r.tiles.map fun u => if u.sameTile t && !u.fed then t3 else u
      nextBeat := e + k * runC t + (if t1.fed && s.checked t.part then 1 else 0) },
    .setF (R.coreArrStat c a) F.coreArrStat_TAG b,
    .pmc (some c) 1 1 (k * runC t) t.part 1,
    .pmc (some c) 3 0 ((rs.map fun (_, _, n) => cdiv n 64).sum) t.part 1]

/-- The A-feeder goes on with the oldest run whose bank is loaded or loading, by as many rows as are held with their scales; the row it
then needs faults the owner if it is pending-failed (R65, R71, R103). -/
def Act.feedOne (c a : Nat) : Act := .get fun s =>
  match (s.arrsAt (4 * c + a)).unfed with
  | none => .skip
  | some t =>
    if t.load != 0 || s.bankSt c a (dBank t.words) == 0 || s.anchorState c t == 1 then .skip
    else
      let m := t.entry.length
      let held := ((List.range (runM t - m)).takeWhile fun i => s.rangesState t.part c (rowRanges t (m + i)) == 0).length
      if s.anchorState c t == 2 || s.rangesState t.part c (rowRanges t (m + held)) == 2 then .coreFault c t.ctx 9 (dPc t.words)
      else .when (held != 0) (.inject c a held t)

/-- Runs are fed in order, at most eight stand on an array. -/
def Act.feed (c a : Nat) : Act := .each (List.range 8) fun _ => .feedOne c a

/-- A run is placed on an array (R72, R99): another owner's banks are invalid, a matching bank is a hit, else a load is queued. -/
def Act.place (c x a : Nat) (t : TileRun) (secondHalf : Bool) : Act := .all [
  .get fun s => .when ((s.arrsAt (4 * c + a)).lastPart != some t.part) (.all [
    .modArrs (4 * c + a) fun r => { r with bank0 := emptyBank, bank1 := emptyBank, lastPart := some t.part },
    .setBankSt c a 0 0, .setBankSt c a 1 0]),
  .get fun s =>
    let hit := s.bankTag c a (dBank t.words) == runTag t && (secondHalf || !(dWforce t.words))
    let t1 := { t with
      load := if hit then 0 else 1
      entry := []
      pad := false
      rows := []
      scales := []
      bank := emptyBank
      again := 0
      dispCyc := s.clk.cyc
      endCyc := s.leftoverEnd (fun n => s.arrRadio n c a) (dDlen t.words) }
    .all [
      .modArrs (4 * c + a) fun r => { r with tiles := r.tiles ++ [t1] },
      if hit then .incF (R.coreCtxEvents c x) F.coreCtxEvents_BANK_HITS
      else .all [
        .incF (R.coreCtxEvents c x) F.coreCtxEvents_BANK_LOADS,
        .pmc (some c) 1 3 1 t.part 1,
        .setF (R.coreArrStat c a) F.coreArrStat_LOAD_BUSY 1],
      .arrBusy c a,
      .feed c a]]

/-- A wait of R92 or R109 shows in CTX_WAIT. -/
def Act.ctxWait (c x : Nat) (b : Bool) : Act :=
  .modF (R.coreSeqStat c) F.coreSeqStat_CTX_WAIT fun v => if b then setBit v x else clrBit v x

/-- The die-pair comparator is full: no PAIRED tile is dispatched (R384); a core in transition takes no REP tile (R357). -/
def State.classWait (s : State) (part c : Nat) : Bool :=
  part < 256 && ((s.isPaired part && s.pairs.length ≥ 65536) || (s.isRep part && s.flag (R.repCore c) F.repCore_TRANS))

/-- The first of two half-passes that share a stationary bank is on the array, or the second waits for it: no other tile is placed
between them, so that the second half is a bank hit (R59, log 45). -/
def State.halfOpen (s : State) (c a : Nat) : Bool :=
  ((s.arrsAt (4 * c + a)).tiles.any fun u => match u.pass with
    | some p => decide (p.half + 1 < wideHalves u.words)
    | none => false) ||
  (List.range 5).any fun x => (s.ctxsAt (c * 8 + x)).redo.any fun u => match u.pass with
    | some p => u.again == 2 && p.arr == a && p.half == 1
    | none => false

/-- Admission and placing of a run on the lowest array the choice gives now (R98, R272); `widen` counts a REROUTE. -/
def Act.admitPlace (c x : Nat) (t : TileRun) (choice : List Nat) (widen : Bool) (done : Act) : Act := .get fun s =>
  match choice.find? fun a => s.ownsNow t.part c a with
  | none => .skip
  | some a =>
    if s.halfOpen c a then .skip else
    match s.admission t.part c a (dDlen t.words) with
    | 0 =>
      let go : Act := .all [.when widen (.incF (R.coreCtxEvents c x) F.coreCtxEvents_REROUTES), done,
        .place c x a (if t.run == 1 then { t with arrFirst := a, suspect := false } else t) false]
      if t.part < 256 then .charge (tileCharge (dFmtA t.words) (runBeats t)) go (.srHold t.part) else go
    | 2 => .pmc none 0xC 1 1 t.part 3
    | _ => .skip

/-- A fresh run of a descriptor. -/
def freshRun (c x part seq step : Nat) (w : List Nat) : TileRun :=
  ⟨c, x, part, seq, w, 1, 0, false, false, 0, 0, 0, [], false, 0, 0, step, [], [], emptyBank, none, 0⟩

def State.stepOf (s : State) (part : Nat) : Nat := if part < 256 then s.fld (R.repSliceStep part) F.repSliceStep_STEP else 0

/-- TILE_DISPATCH: the tile the stream holds passes its waits, the anchor check, the choice of array and admission (R49, R92, R98,
R109, R272). -/
def execTileDispatch (core ctx : Nat) (s : State) : Out := Act.out s <|
  let t := s.ctxsAt (core * 8 + ctx)
  let part := s.ctxPart core ctx
  match t.cur with
  | none => .skip
  | some w =>
    if !(s.ctxActive core ctx) || !t.redo.isEmpty then .skip
    else if dWaitEn w && s.syncBad part (dWaitIdx w) then .coreFault core ctx 9 (dPc w)
    else if dWaitEn w && !(s.syncOk part (dWaitIdx w) (dWaitVal w)) then
      .all [.modCtxs (core * 8 + ctx) fun t => { t with wait := some (dWaitIdx w, dWaitVal w) }, .ctxWait core ctx true]
    else if s.orderWait core ctx w then
      .all [.modCtxs (core * 8 + ctx) fun t => { t with wait := none }, .ctxWait core ctx true]
    else .all [
      .modCtxs (core * 8 + ctx) fun t => { t with wait := none },
      .ctxWait core ctx false,
      if !(s.anchorsOk core w) then .coreFault core ctx 3 (dPc w)
      else
        let (choice, widen) := s.arrChoice part core (dArrMask w)
        if choice.isEmpty then .coreFault core ctx 4 (dPc w)
        else if s.classWait part core then .skip
        else .admitPlace core ctx (freshRun core ctx part t.seq (s.stepOf part) w) choice widen
          (.modCtxs (core * 8 + ctx) fun t => { t with cur := none, seq := t.seq + 1 })]

/-! ### Stationary loads (R71, R99) -/

/-- BANK_LOAD: the W-feeder begins the oldest queued load once the bank's count is zero, no beat of the bank's earlier tiles has still
to enter and no line of the block is pending (R71, R103). -/
def execBankLoad (core arr : Nat) (s : State) : Out := Act.out s <|
  let r := s.arrsAt (4 * core + arr)
  match r.tiles.find? (·.load == 1) with
  | none => .skip
  | some t =>
    let b := dBank t.words
    let earlier := r.tiles.takeWhile fun u => u.load != 1
    let (wb, ws, sc) := runBlock t
    let rs := [wb, ws, sc].filter (·.2 != 0)
    let st := rs.foldl (fun m (off, n) => max m (s.csState t.part core off n)) 0
    if s.bankSt core arr 0 == 1 || s.bankSt core arr 1 == 1 || !(s.bankClear core arr b) ||
      earlier.any (fun u => dBank u.words == b && !u.fed) then .skip
    else if st == 2 then .coreFault core t.ctx 9 (dPc t.words)
    else if st == 1 then .skip
    else .all [
      .when (!(rs.all fun (off, n) => s.csOwned t.part core off n)) (.violation t.part violMemory),
      .each rs fun (off, n) => .csFix t.part core off n 1,
      .pmc (some core) 3 0 ((rs.map fun e => cdiv e.2 64).sum) t.part 1,
      .modArrs (4 * core + arr) fun r0 =>
        let r := if b == 0 then { r0 with from0 := s.clk.cyc + 1 } else { r0 with from1 := s.clk.cyc + 1 }
        let k : BankSt := ⟨runTag t, s.csSnap t.part core wb.1 wb.2, s.csSnap t.part core ws.1 ws.2, s.csSnap t.part core sc.1 sc.2⟩
        { r.setBank b k with tiles := r.tiles.map fun u => if u.sameTile t then { u with load := 0 } else u },
      .setBankSt core arr b 1,
      .setF (R.coreArrStat core arr) F.coreArrStat_LOAD_BUSY 1,
      .feed core arr]

/-- BANK_LOAD_COMPLETE: 128 cycles after its start a load is complete (R71). -/
def execBankLoadComplete (core arr : Nat) (s : State) : Out := Act.out s <|
  let b := if s.bankSt core arr 0 == 1 then 0 else 1
  .when (s.bankSt core arr b == 1) (.all [
    .setBankSt core arr b 2,
    .setF (R.coreArrStat core arr) F.coreArrStat_LOAD_BUSY (if (s.arrsAt (4 * core + arr)).tiles.any (·.load == 1) then 1 else 0),
    .feed core arr])

/-! ### Discard (R73) and what follows it -/

/-- Insertion in program order. -/
def insertSeq (t : TileRun) : List TileRun → List TileRun
  | [] => [t]
  | u :: r => if t.seq ≤ u.seq then t :: u :: r else u :: insertSeq t r

/-- A discarded tile that waits for its next run stands in its stream's program order; the other tiles of the clear come after it, in
program order too (R73). -/
def insertCause (cause : TileRun) (others l : List TileRun) : List TileRun :=
  l.takeWhile (·.seq < cause.seq) ++ cause :: others.foldr insertSeq (l.dropWhile (·.seq < cause.seq))

/-- The array is cleared; `cause` waits for its next run, every other tile of the array for its replay. -/
def Act.discard (c a : Nat) (cause : TileRun) : Act := .get fun s =>
  let others := ((s.arrsAt (4 * c + a)).tiles.filter fun t => !(t.sameTile cause)).map fun t =>
    { t with again := 3, run := 1, pass := none }
  .all [
    .arrClear c a,
    .modCtxs (c * 8 + cause.ctx) fun x => { x with redo := insertCause cause (others.filter (·.ctx == cause.ctx)) x.redo },
    .each ((others.map (·.ctx)).filter (· != cause.ctx)).eraseDups fun y =>
      .modCtxs (c * 8 + y) fun x => { x with redo := (others.filter (·.ctx == y)).foldr insertSeq x.redo }]

/-! ### After commit (R102) -/

/-- A move out of the core store that stands before a place in a stream's program order has not been performed (R132). -/
def State.outMoves (s : State) (c x seq : Nat) : Bool := (s.ctxsAt (c * 8 + x)).moves.any fun m => !m.toStore && m.seq < seq

/-- The status record is written, then the signal is issued (R102 steps 3 and 4). -/
def Act.statusWrite (c x : Nat) (j : StatJob) : Act := .all [
  .csWrite j.part c (dStatAddr j.words * 64) (wordBytes [
    BitVec.ofNat 64 (dTileId j.words), BitVec.ofNat 64 j.arith, BitVec.ofNat 64 j.welt,
    BitVec.ofNat 64 (min j.csat 65535 * 2 ^ 48 + min j.cspec 65535 * 2 ^ 32), BitVec.ofNat 64 j.tick,
    BitVec.ofNat 64 (2 ^ 63 + min j.overruns 255 * 2 ^ 48 + c % 64 * 2 ^ 42), 0, 0]),
  .when (dSigEn j.words) (.signal j.part (dSigIdx j.words) (.core c x) [] j.seq (dPc j.words))]

/-- A tile status record is performed only after every earlier write of its stream (R132). -/
def Act.tileStatus (c x : Nat) (j : StatJob) : Act := .get fun s =>
  if s.outMoves c x j.seq || !(s.ctxsAt (c * 8 + x)).stats.isEmpty then .modCtxs (c * 8 + x) fun t => { t with stats := t.stats ++ [j] }
  else .statusWrite c x j

/-- Status records that wait for nothing any more are written, in order. -/
def Act.statFlush (c x : Nat) : Act := .get fun s =>
  let l := (s.ctxsAt (c * 8 + x)).stats
  let due := l.takeWhile fun j => !(s.outMoves c x j.seq)
  .when (!due.isEmpty) (.all [
    .modCtxs (c * 8 + x) fun t => { t with stats := l.drop due.length },
    .each due fun j => .statusWrite c x j])

/-- The drain's additions (R47, R50, R102): line by line in ascending order; a sum outside the range sets WRAP. -/
def State.wraps (s : State) (c : Nat) (w : List Nat) (words : List Int) : Bool :=
  !(dAccInit w) && words.zipIdx.any fun (x, i) =>
    let e : Int := (s.accAt ((c * 1024 + dAccLine w + i / 128) * 128 + i % 128)).toInt + x * 2 ^ 48
    e < -(2 ^ 127 : Int) || e ≥ (2 ^ 127 : Int)

def Act.writeBack (c : Nat) (w : List Nat) (words : List Int) (anchor : Int) : Act := .all [
  .each words.zipIdx fun (x, i) =>
    .modAcc ((c * 1024 + dAccLine w + i / 128) * 128 + i % 128) fun q => (if dAccInit w then 0 else q) + BitVec.ofInt 128 (x * 2 ^ 48),
  .when (dAccInit w) (.each (List.range (dM w)) fun i => .all [
    .setAnchors (c * 1024 + dAccLine w + i) (some anchor),
    .each (wordsOf (accDpa c (dAccLine w + i)) 2048) fun k => .setErrs k ⟨0, false⟩])]

/-- Accumulator lines whose reading would meet an uncorrectable word (R378). -/
def State.accBad (s : State) (c line n : Nat) : Bool := (List.range n).any fun i => s.lineBad (accDpa c (line + i)) 2048

/-- A committed tile is sampled when its place in the core's count comes (R403, R404); the time figures of the record are free (log 22). -/
def Act.sample (c a : Nat) (t : TileRun) : Act := .get fun s =>
  let r := R.corePmcSamp c
  let f := s.fld r F.corePmcSamp_PART
  .when (s.flag r F.corePmcSamp_EN && (f == 0x3FF || f == t.part)) (
    if s.sampAt c + 1 < s.fld r F.corePmcSamp_PERIOD then .modSamp c (· + 1)
    else .all [
      .setSamp c 0,
      let st := R.corePmcSampStat c
      if s.flag r F.corePmcSamp_STOP && s.fld st F.corePmcSampStat_COUNT ≥ 256 then .incF st F.corePmcSampStat_LOST
      else .withFree fun k =>
        let e := s.fld st F.corePmcSampStat_NEXT
        let put (i : Nat) (v : Nat) : Act := .setRegs (R.coreSample c (4 * e + i)) (BitVec.ofNat 64 v)
        let lat := min (s.clk.cyc - t.words.getD 9 0) (2 ^ 32 - 1)
        .all [
          put 0 (c % 64 * 2 ^ 58 + t.part % 1024 * 2 ^ 48 + dPc t.words % 2 ^ 48),
          put 1 (t.run % 4 * 2 ^ 62 + a % 4 * 2 ^ 60 + dTileId t.words),
          put 2 (Config.sampleStallCyc k % 2 ^ 32 * 2 ^ 32 + lat),
          put 3 (min t.overruns 255 * 2 ^ 56 + Config.sampleStall k % 10 * 2 ^ 52 + dDlen t.words % 1024 * 2 ^ 42 + s.tick % 2 ^ 40),
          .setF st F.corePmcSampStat_NEXT ((e + 1) % 256),
          .modF st F.corePmcSampStat_COUNT fun v => min 256 (v + 1)]])

/-- Latency the array applies to a tile. -/
def State.latOf (s : State) (pad : Bool) (c a : Nat) : Nat := if pad then 260 else s.fld (R.coreArrLat c a) F.coreArrLat_LAT_NATIVE

/-- The outcome of a tile's arithmetic: column words and counts. -/
structure TileOut where
  words : List Int
  sat : Nat
  lim : Nat
  spec : Nat
  rsv : Nat

/-- Commit and what follows it (R85, R101-R103, R370). -/
def Act.commit (c a : Nat) (t : TileRun) (o : TileOut) (wr : WeltRes) (hit resoled : Bool) : Act := .get fun s =>
  let w := t.words
  let lat := s.latOf t.pad c a
  let arith0 := arithWord o.sat o.lim o.spec o.rsv false hit resoled
  let ww := weltWord wr (!(s.checked t.part)) t.run t.arrFirst a t.suspect t.resHit lat
  let dig := tileDigest (dTileId w) o.words arith0
  .all [
    .modArrs (4 * c + a) fun r => { r with tiles := r.tiles.filter fun u => !(u.sameTile t) },
    .arrBusy c a,
    .incF (R.coreCtxTiles c t.ctx) F.coreCtxTiles_COMMITTED,
    .pmc (some c) 1 0 1 t.part 1,
    .setF (R.coreArrLat c a) F.coreArrLat_LAT_LAST lat,
    .setF (R.coreArrLat c a) F.coreArrLat_PADDED_LAST (if t.pad then 1 else 0),
    .when (t.part == 0x101 && t.run != 1) (.rerunOver c a),
    .when (t.run == 2) (.all [.incF (R.coreArrWeltCnt c a) F.coreArrWeltCnt_RESOLVED_SAME, .healthEv 4 (4 * c + a) 0]),
    .sample c a t,
    .houndLocal t.part ⟨t.step, dTileId w, a, c, dig⟩,
    if !(dAccInit w) && s.accBad c (dAccLine w) (dM w) then .coreFault c t.ctx 9 (dPc w)
    else
      let arith := arithWord o.sat o.lim o.spec o.rsv (s.wraps c w o.words) hit resoled
      .all [
        .when (!(dAccInit w)) (.each (List.range (dM w)) fun i => .lineFix (accDpa c (dAccLine w + i)) 2048 t.part 1),
        .writeBack c w o.words t.anchor,
        if dConv w then .modConvq (· ++ [(c, ⟨t.ctx, t.part, w, arith, ww, s.tick, t.overruns, t.anchor, t.step, t.seq⟩)])
        else .tileStatus c t.ctx ⟨t.part, t.seq, w, arith, ww, 0, 0, s.tick, t.overruns⟩],
    .when (t.part < 256 && s.isPaired t.part)
      (.pairTake ⟨t.part, t.step, dTileId w, s.replicaOrd t.part c, c / 32, dig, s.tick⟩)]

/-- The wide copy replaces the narrow result (R59): the next pass or half-pass waits for its admission. -/
def Act.nextPass (c a : Nat) (t : TileRun) (p : PassSt) : Act := .all [
  .modArrs (4 * c + a) fun r => { r with tiles := r.tiles.filter fun u => !(u.sameTile t) },
  .arrBusy c a,
  .modCtxs (c * 8 + t.ctx) fun x => { x with redo := { t with again := 2, run := 1, pass := some { p with arr := a } } :: x.redo }]

/-- Guard policy with the slice's override (R58, R317). -/
def guardPol (ovr pol : Nat) : Nat := if ovr == 1 then 2 else if ovr == 2 && pol == 2 then 0 else pol

/-- A run that passed its checks (R58-R60): the guard of a narrow tile, the sums of a wide pass, then commit. DESIGN CHOICE (log 46): the
column words of a resole are the exact sums over its passes, saturated once (R45, R59), and its welt word reports TOL, DEF_ROW, DEF_COL and
RUNS of its last pass (R85). -/
def Act.runPassed (c a : Nat) (t : TileRun) (sums : List Int) (clamps : Nat) (wr : WeltRes) : Act := .get fun s =>
  let ti := runIn t
  match t.pass with
  | none =>
    let (words, sat) := drainWords sums
    let o : TileOut := ⟨words, clamps + sat, ti.countA (isLim ti.fmt) + ti.countW (isLim ti.fmt), ti.special true,
      ti.countA (isRsv ti.fmt) + ti.countW (isRsv ti.fmt)⟩
    if guardTrips t.words o.sat o.lim then
      .all [
        .pmc (some c) 1 8 1 t.part 1,
        match guardPol (if t.part < 256 then s.fld (R.sliceStat t.part) F.sliceStat_POL_OVR else 0) (dGuardPol t.words) with
        | 1 => .all [.pmc (some c) 1 7 1 t.part 1, .nextPass c a t ⟨0, 0, [], 0, 0, a⟩]
        | 2 => .coreFault c t.ctx 6 (dPc t.words) [BitVec.ofNat 64 (arithWord o.sat o.lim o.spec o.rsv false true false)]
        | _ => .commit c a t o wr true false]
    else .commit c a t o wr false false
  | some p =>
    let lo := (halfRows t.words p.half).1
    let all := if p.sums.isEmpty then List.replicate (128 * dM t.words) 0 else p.sums
    let acc := all.zipIdx.map fun (x, i) => if 128 * lo ≤ i ∧ i < 128 * lo + sums.length then x + sums.getD (i - 128 * lo) 0 else x
    let p1 : PassSt := { p with sums := acc, sat := p.sat + clamps, spec := p.spec + ti.special (p.half == 0) }
    if p.half + 1 < wideHalves t.words then .nextPass c a t { p1 with half := p.half + 1 }
    else if p.pass + 1 < widePasses t.words then .nextPass c a t { p1 with pass := p.pass + 1, half := 0 }
    else
      let (words, sat) := drainWords p1.sums
      .commit c a t ⟨words, p1.sat + sat, 0, p1.spec, 0⟩ wr true true

/-- A run that mismatched (R81, R84): counted, recorded, discarded; then the second run; the fence and the third, or, where the
owner holds no other unfenced array, the fault that the fence raises (Act.fenceWaits); or the fault. -/
def Act.runMismatch (c a : Nat) (t : TileRun) (wr : WeltRes) : Act := .get fun s =>
  let fmt := (runIn t).fmt
  let t1 := { t with resHit := t.resHit || wr.resFail }
  let err := weltErrWord (dTileId t.words) wr fmt t.run
  .all [
    .incF (R.coreArrWeltCnt c a) F.coreArrWeltCnt_MISMATCH,
    .setRegs (R.coreArrWeltErr c a) err,
    .record (srcCore c) t.part 0x2001 [err, BitVec.ofNat 64 t.part, BitVec.ofNat 64 (s.stepOf t.part), BitVec.ofNat 64 t.run],
    match t.run with
    | 1 => .discard c a { t1 with again := 1, run := 2 }
    | 2 => .all [
        .discard c a { t1 with again := 1, run := 3, suspect := t1.suspect || a == t.arrFirst },
        .arrayFence c a t.part (dTileId t.words)]
    | _ => .all [.arrClear c a, .coreFault c t.ctx 5 (dPc t.words)]]

/-- WELT_VERDICT: the checks of the array's oldest run are complete (R67, R68, R76-R81). -/
def execWeltVerdict (core arr : Nat) (faults : List CellFault) (residue : Bool) (s : State) : Out := Act.out s <|
  match (s.arrsAt (4 * core + arr)).tiles.head? with
  | none => .skip
  | some t => .when t.fed (
      let ti := runIn t
      let (sums, clamps) := ti.sums t.anchor faults
      let wr := if s.checked t.part then ti.welt t.anchor (if t.pass.isSome then 0 else dWeltTol t.words) faults residue
        else ⟨false, false, false, 0, 0, 0, 0, 0, 0⟩
      if wr.bad then .runMismatch core arr t wr else .runPassed core arr t sums clamps wr)

/-- The first stream of a core whose next run is one that the test accepts. -/
def State.redoHead (s : State) (c : Nat) (f : TileRun → Bool) : Option TileRun :=
  (List.range 5).findSome? fun x => match (s.ctxsAt (c * 8 + x)).redo with
    | t :: _ => if f t then some t else none
    | [] => none

def Act.popRedo (c x : Nat) : Act := .modCtxs (c * 8 + x) fun t => { t with redo := t.redo.drop 1 }

/-- The array a waiting run takes: that of its last run, or, for a third run and where that array has been fenced since, the lowest that
R82 allows: unfenced, and the owner's in the current stitch; a re-run of the radio takes any (R59, R81, R82, R86, R152). -/
def State.rerunArr (s : State) (c : Nat) (t : TileRun) : Option Nat :=
  if t.run != 3 && !(s.arrFenced c t.lastArr) then some t.lastArr
  else ((s.thirdArrays t.part c t.lastArr).filter fun a => (t.part == 0x101 && t.again == 1) || s.ownsNow t.part c a).head?

/-- A radio re-run closes the leftover window of the array it takes: the runs standing there meet the overrun guard (R152, R273, R274). -/
def Act.rerunClose (c a : Nat) : Act := .get fun s =>
  .when (!(s.arrRadio s.stitch c a) && !(s.arrClosed c a)) (.all [
    .modArrs (4 * c + a) fun r => { r with
      rerun := true
      tiles := r.tiles.map fun t => { t with endCyc := min t.endCyc s.clk.cyc } },
    .incF R.lastCnt2 F.lastCnt2_RERUN_CLOSE])

/-- WELT_RERUN: the second run on the same array, the third on the lowest eligible other one (R81, R82). A re-run of the radio takes its
array at once, and starts there when the inference tiles that it closes out are gone (R152). -/
def execWeltRerun (core arr : Nat) (s : State) : Out := Act.out s <|
  match s.redoHead core (fun t => t.again == 1 && s.rerunArr core t == some arr) with
  | none => .skip
  | some t =>
    let go : Act := .all [
      .pmc (some core) 1 6 1 t.part 3,
      .srRerun t.part,
      .popRedo core t.ctx,
      .place core t.ctx arr t (match t.pass with | some p => p.half == 1 | none => false)]
    if t.part == 0x101 then
      .all [
        .rerunClose core arr,
        .when ((s.arrsAt (4 * core + arr)).tiles.all (fun u => u.part == t.part) && (s.arrsAt (4 * core + arr)).tiles.length < 8) go]
    else
      .when (s.ownsNow t.part core arr && s.admission t.part core arr (dDlen t.words) == 0)
        (.charge (tileCharge (runIn t).fmt (runBeats t)) go (.srHold t.part))

/-- RESOLE_PASS: the next wide pass or half-pass is admitted on the array of the tile's last run (R59). -/
def execResolePass (core arr : Nat) (s : State) : Out := Act.out s <|
  match s.redoHead core (fun t => t.again == 2 && s.rerunArr core t == some arr &&
      (match t.pass with | some p => p.half == 1 || !(s.halfOpen core arr) | none => false)) with
  | none => .skip
  | some t =>
    let go : Act := .all [.popRedo core t.ctx, .place core t.ctx arr t (match t.pass with | some p => p.half == 1 | none => false)]
    .when (s.ownsNow t.part core arr && s.admission t.part core arr (dDlen t.words) == 0)
      (if t.part < 256 then .charge (tileCharge (wideFmt t.words) (runBeats t)) go (.srHold t.part) else go)

/-- TILE_REPLAY: a discarded tile starts again from its first run, as the next entry of its stream (R73, R83, R275). -/
def execTileReplay (core ctx : Nat) (s : State) : Out := Act.out s <|
  match (s.ctxsAt (core * 8 + ctx)).redo with
  | [] => .skip
  | t :: _ =>
    .when (t.again == 3) (
      let (choice, widen) := s.arrChoice t.part core (dArrMask t.words)
      if choice.isEmpty then .coreFault core ctx 4 (dPc t.words)
      else .admitPlace core ctx { t with run := 1, pass := none } choice widen (.popRedo core ctx))

/-- The instant from which the guard counts its 32 cycles for a tile: the end of its leftover run, or its dispatch plus DLEN, the
earlier (R274). -/
def TileRun.bound (t : TileRun) : Nat := min t.endCyc (t.dispCyc + dDlen t.words)

/-- The inference tile of an array that the guard aborts first; of two, the older. -/
def ArrSt.overrun (r : ArrSt) : Option TileRun :=
  (r.tiles.filter (·.part < 256)).foldl (fun m t => match m with
    | none => some t
    | some u => if t.bound < u.bound then some t else some u) none

/-- OVERRUN_ABORT: an uncommitted inference tile is aborted 32 cycles after its run's end or its dispatch plus DLEN (R274). -/
def execOverrunAbort (core arr : Nat) (s : State) : Out := Act.out s <|
  match (s.arrsAt (4 * core + arr)).overrun with
  | none => .skip
  | some t => .all [
      .incF (R.coreCtxEvents core t.ctx) F.coreCtxEvents_OVERRUN_ABORTS,
      .incF R.lastCnt F.lastCnt_OVERRUNS,
      .srOverrun t.part,
      .pmc (some core) 1 5 1 t.part 1,
      .record (srcCore core) t.part 0x2003 [BitVec.ofNat 64 (dTileId t.words), BitVec.ofNat 64 core, BitVec.ofNat 64 arr],
      .discard core arr { t with again := 3, run := 1, pass := none, overruns := min (t.overruns + 1) 255 }]

/-! ### Conversion (R54-R57, R102) -/

/-- Elements packed from bit 0 of byte 0. -/
def packBits (w : Nat) (l : List Nat) : List Byte :=
  leBytes (l.zipIdx.foldl (fun x (v, i) => x + v % 2 ^ w * 2 ^ (w * i)) 0) ((l.length * w + 7) / 8)

/-- One row converted: scale codes (if OUT_FMT has them) and elements. -/
def convRow (fmt rnd : Nat) (us : List Nat) (vs : List Val) : List Nat × List Conv :=
  if fmtScale fmt == 2 then
    let bs := (List.range 4).map fun b => convBlock fmt rnd ((us.drop (32 * b)).take 32) ((vs.drop (32 * b)).take 32)
    (bs.map (·.1), bs.flatMap (·.2))
  else ([], (vs.zip us).map fun (v, u) => convTo fmt rnd u v)

/-- The instruction at the front of a stream's bundle; a discarded tile that waits for its next run holds back its stream (R92). -/
def State.vFront (s : State) (c x : Nat) : Option Nat :=
  if s.ctxActive c x && (s.ctxsAt (c * 8 + x)).redo.isEmpty then (s.ctxsAt (c * 8 + x)).bundle.head? else none

/-- An earlier tile of the stream on the accumulator line has not completed its write-back (R92). -/
def State.accLineWait (s : State) (c x line : Nat) : Bool :=
  (s.tilesOf c x).any fun t => dAccLine t.words ≤ line && line < dAccLine t.words + dM t.words

/-- An instruction word names the vector unit, and no wait of R92 holds it, whichever instruction of its class it is (log 23): moves and
sync (0x58 on) do not use the unit. -/
def State.vRunnable (s : State) (c x w : Nat) : Bool :=
  fbits w 63 56 < 0x58 && (fbits w 63 56 ≥ 0x10 ||
    (s.csState (s.ctxPart c x) c (fbits w 15 0 * 64) 256 != 1 && !(s.accLineWait c x (fbits w 9 0))))

/-- The stream has work for the vector unit: a conversion, or an instruction that nothing holds. -/
def State.vWants (s : State) (c x : Nat) : Bool :=
  s.convq.any (fun e => e.1 == c && e.2.ctx == x) || (match s.vFront c x with | some w => s.vRunnable c x w | none => false)

/-- The vector unit serves stream x of a core now: the radio first, then contexts 0-3 in round-robin after the one it served last
(R108). -/
def State.vTurn (s : State) (c x : Nat) : Bool :=
  x == 4 || (!(s.vWants c 4) &&
    ((List.range 4).map fun i => (s.vecTurnAt c + 1 + i) % 4).find? (fun y => y == x || s.vWants c y) == some x)

/-- The unit has served a stream; the radio's work leaves the turn where it is. -/
def Act.vServed (c x : Nat) : Act := .when (x < 4) (.setVecTurn c x)

/-- CONVERSION: the vector unit converts the lines of a stream's next waiting tile in the owner's turn, then the status record is written
(R102, R108). -/
def execConversion (core : Nat) (s : State) : Out := Act.out s <|
  match s.convq.find? fun e => e.1 == core && s.vTurn core e.2.ctx with
  | none => .skip
  | some e =>
    let j := e.2
    let w := j.words
    let f := dOutFmt w
    let drop : Act := .all [.modConvq fun q => q.erase e, .vServed core j.ctx]
    if s.accBad core (dAccLine w) (dM w) then .all [drop, .coreFault core j.ctx 9 (dPc w)]
    else
      let row (m : Nat) : List Nat × List Conv :=
        convRow f (dRnd w)
          ((List.range 128).map fun n => srBits (s.partsAt j.part).seed (BitVec.ofNat 64 j.step) (dSrStream w) (128 * m + n))
          ((List.range 128).map fun n =>
            .fin ((l128Val j.anchor (s.accAt ((core * 1024 + dAccLine w + m) * 128 + n))).mul (f32P.decode (dOutScale w)).dy))
      let rows := (List.range (dM w)).map row
      let cs := rows.flatMap (·.2)
      .all [
        drop,
        .each (List.range (dM w)) fun i => .lineFix (accDpa core (dAccLine w + i)) 2048 j.part 2,
        .each rows.zipIdx fun (r, m) => .all [
          .csWrite j.part core ((dOutAddr w + m * dOutStride w) * 64) (packBits (fmtWidth f) (r.2.map (·.bits))),
          .when (!r.1.isEmpty) (.csWrite j.part core ((dOutAddr w + dM w * dOutStride w) * 64 + 16 * m) (r.1.map (BitVec.ofNat 8)))],
        .pmc (some core) 2 3 (cs.countP (·.sat)) j.part 2,
        .tileStatus core j.ctx ⟨j.part, j.seq, w, j.arith, j.welt, cs.countP (·.sat), cs.countP (·.spec), j.tick, j.overruns⟩]

/-! ### Moves, signals, waits -/

/-- A move into the core store that is outstanding covers the line. -/
def State.moveCovers (s : State) (c l : Nat) : Bool := (List.range 5).any fun x =>
  (s.ctxsAt (c * 8 + x)).moves.any fun m => m.toStore && (csLines (m.line * 64) m.len).contains l

/-- MOVE_DATA_ARRIVAL: the data of the stream's oldest outstanding move arrives; an error leaves its lines pending-failed (R103). -/
def execMoveDataArrival (core ctx : Nat) (s : State) : Out := Act.out s <|
  let part := s.ctxPart core ctx
  match (s.ctxsAt (core * 8 + ctx)).moves with
  | [] => .skip
  | m :: _ => .all [
      .modCtxs (core * 8 + ctx) fun t => { t with moves := t.moves.drop 1 },
      .pmc (some core) 3 3 m.len part 2,
      if m.toStore then
        .readMem part 2 m.addr m.len (fun d err => .all [
          if err then .each (csLines (m.line * 64) m.len) fun l => .when (s.ownsCs part core l) (.setPend (core * 65536 + l) 2)
          else .all [
            .each (csLines (m.line * 64) m.len) fun l => .when (s.ownsCs part core l)
              (.get fun u => .setPend (core * 65536 + l) (if u.moveCovers core l then 1 else 0)),
            .csWrite part core (m.line * 64) d],
          .each (List.range 4) fun a => .feed core a]) (coreSrc core)
      else if s.csState part core (m.line * 64) m.len == 2 then .coreFault core ctx 9 m.pc
      else
        let snap := s.csSnap part core (m.line * 64) m.len
        let d := (List.range m.len).map fun i => Map.get (fun _ => (0 : Byte)) snap i
        .all [
          .when (!(s.csOwned part core (m.line * 64) m.len)) (.violation part violMemory),
          .csFix part core (m.line * 64) m.len 2,
          .pmc (some core) 3 0 (cdiv m.len 64) part 2,
          .writeMem part 2 m.addr d (fun err => if err then .coreFault core ctx 9 m.pc else .statFlush core ctx) (coreSrc core)]]

/-- Who issued a signal that cannot be performed faults (R109). -/
def Act.signalFault (j : SigJob) : Act :=
  match j.by_ with
  | .core c x => .coreFault c x 9 j.pc
  | .dsp d => .dspFaultOf d 7 (j.part == 0x101) j.id j.cells
  | .coding _ => .cellResets j.cells 2
  | .fabric => .engFault j.part (j.cells.headD 0) 0x02 4 0xFFFF
  | _ => .skip

/-- A signal of a stream waits for the moves out of the core store that stand before it (R132). -/
def State.sigReady (s : State) (j : SigJob) : Bool := match j.by_ with
  | .core c x => !(s.outMoves c x j.id)
  | _ => true

/-- SYNC_SIGNAL: the Kennel atomic unit performs the oldest signal on the word whose earlier writes have been performed (R109, R132,
R134). -/
def execSyncSignal (part idx : Nat) (s : State) : Out := Act.out s <|
  match s.sigq.find? fun j => j.part == part && j.idx == idx && s.sigReady j with
  | none => .skip
  | some j => .all [
      .modSigq fun q => q.erase j,
      .atomicAt (s.syncDpa part idx) .signal part (reqMaster j.by_) (fun _ _ err => .when err (.signalFault j)) (reqSrc j.by_)]

/-- SYNC_WAIT_TIMEOUT: a wait not satisfied within SYNC_TMO faults with code 0x07 (R109). -/
def execSyncWaitTimeout (core ctx : Nat) (s : State) : Out := Act.out s <|
  .when (s.ctxActive core ctx && (s.ctxsAt (core * 8 + ctx)).wait.isSome)
    (.coreFault core ctx 7 (s.fld (R.coreCtxPc core ctx) F.coreCtxPc_PC - 64))

/-- CONTROL_PARITY_ERROR: every context of the core stops, its owners fault with 0x0C, the core is fenced (R379). -/
def execControlParityError (core : Nat) (s : State) : Out := Act.out s <| .all [
  .each (List.range 5) fun x => .when (s.ctxActive core x)
    (.coreFault core x 0xC (s.fld (R.coreCtxPc core x) F.coreCtxPc_PC)),
  .each (List.range 4) fun a => .arrClear core a,
  .coreFence core 0x3FF 0xC 0]

end Sys2Proof.Machine
end

