-- ==== Sys2Proof/Machine/DspOps.lean ====
section
/-! DEFINITION. The inside of a DSP: Q23 and accumulator arithmetic, register access, address generators, the issue of bundles and
the loop hardware (R183-R192, R201). -/

namespace Sys2Proof.Machine

/-! ### Registers (R187) -/

/-- A list with one entry replaced, lengthened as needed. -/
def putAt {α : Type} (z : α) : List α → Nat → α → List α
  | [], 0, v => [v]
  | _ :: r, 0, v => v :: r
  | [], n + 1, v => z :: putAt z [] n v
  | x :: r, n + 1, v => x :: putAt z r n v

def zeroAg : AgSt := ⟨0, 0, 0, 0, 0, 0⟩

/-- Lane j of D or ACC register n. -/
def DspRegs.lane (r : DspRegs) (n j : Nat) : Int := (r.d.getD n []).getD j 0
def DspRegs.accLane (r : DspRegs) (n j : Nat) : Int := (r.acc.getD n []).getD j 0
def DspRegs.vec (r : DspRegs) (n : Nat) : List Int := (List.range 16).map (r.lane n)
def DspRegs.accVec (r : DspRegs) (n : Nat) : List Int := (List.range 16).map (r.accLane n)
def DspRegs.sreg (r : DspRegs) (n : Nat) : Nat := r.s.getD n 0
def DspRegs.agen (r : DspRegs) (n : Nat) : AgSt := r.ag.getD n zeroAg
def DspRegs.setVec (r : DspRegs) (n : Nat) (v : List Int) : DspRegs := { r with d := putAt [] r.d n v }
def DspRegs.setAcc (r : DspRegs) (n : Nat) (v : List Int) : DspRegs := { r with acc := putAt [] r.acc n v }
def DspRegs.setS (r : DspRegs) (n v : Nat) : DspRegs := { r with s := putAt 0 r.s n (v % 2 ^ 32) }
def DspRegs.setAg (r : DspRegs) (n : Nat) (g : AgSt) : DspRegs := { r with ag := putAt zeroAg r.ag n g }

/-! ### Q23 and 56-bit lanes (R184-R186) -/

def q23Max : Int := 2 ^ 23 - 1
def q23Min : Int := -(2 ^ 23)

/-- A truncated result resolved by MODE.SAT: the value and whether it was out of range. -/
def resolveQ (sat : Bool) (x : Int) : Int × Bool :=
  if q23Min ≤ x ∧ x ≤ q23Max then (x, false)
  else if sat then (if x < 0 then q23Min else q23Max, true)
  else (sext 24 (wrapTo 24 x), true)

/-- A vector of exact results goes to a D register; `m` is the mode the bundle read. -/
def DspRegs.putQ (r : DspRegs) (m : Bool) (n : Nat) (xs : List Int) : DspRegs :=
  let rs := xs.map (resolveQ m)
  let hits := rs.countP (·.2)
  let r := r.setVec n (rs.map (·.1))
  if m then { r with satcnt := min (r.satcnt + hits) 65535 } else { r with wrapf := r.wrapf || hits != 0 }

/-- Exact lane sums go to an accumulator modulo 2^56; leaving the range sets OVF. -/
def DspRegs.putAcc (r : DspRegs) (n : Nat) (xs : List Int) : DspRegs :=
  let r := r.setAcc n (xs.map fun x => sext 56 (wrapTo 56 x))
  { r with ovf := r.ovf || xs.any fun x => x < -(2 ^ 55 : Int) || x ≥ (2 ^ 55 : Int) }

/-- Complex products of the lane pairs of two vectors; `conj`: a times the conjugate of b. -/
def cprod (conj : Bool) (a b : List Int) : List Int := (List.range 8).flatMap fun j =>
  let ar := a.getD (2 * j) 0
  let ai := a.getD (2 * j + 1) 0
  let br := b.getD (2 * j) 0
  let bi := if conj then -(b.getD (2 * j + 1) 0) else b.getD (2 * j + 1) 0
  [ar * br - ai * bi, ar * bi + ai * br]

/-- Real products lane by lane. -/
def rprod (a b : List Int) : List Int := (a.zip b).map fun (x, y) => x * y

/-- floor(x * 2^s). -/
def shiftInt (x : Int) (s : Int) : Int := if s ≥ 0 then x * 2 ^ s.toNat else x / 2 ^ (-s).toNat

/-- Leading sign bits of a Q23 value (log 24). -/
def signBits (x : Int) : Nat :=
  let m : Nat := if x < 0 then (-x - 1).toNat else x.toNat
  if m == 0 then 24 else 23 - Nat.log2 m

/-- Bitwise operation on the 24 bits of a lane. -/
def bitsQ (f : Nat → Nat → Nat) (a b : Int) : Int := sext 24 (f (wrapTo 24 a) (wrapTo 24 b))

/-- The reciprocal seed of a lane: 2^e / x to within one part in 2^12, for a scale that keeps the 24 bits (R188; log 24). -/
def rcpSeed (x : Int) : Int :=
  if x == 0 then Config.dspRcpsZero
  else
    let q := 2 ^ (x.natAbs.log2 + 14 + Config.dspRcpsExp x % 9) / x
    let m : Int := q.natAbs / 4096
    q + max (-m) (min m (Config.dspRcpsErr x))

/-! ### Address generators (R190, R191) -/

/-- The low n bits reversed. -/
def revBits : Nat → Nat → Nat
  | 0, _ => 0
  | n + 1, x => x % 2 * 2 ^ n + revBits n (x / 2)

/-- Index of lane j from IDX. -/
def AgSt.index (g : AgSt) (j : Nat) : Nat :=
  match g.mode with
  | 0 => g.idx + j
  | 1 => (g.idx + j) % max 1 g.mod
  | _ => let n := Nat.log2 g.mod; revBits n (revBits n g.idx + j)

/-- Word address of lane j, and half-word address of lane j. -/
def AgSt.word (g : AgSt) (j : Nat) : Nat := g.base + g.index j
def AgSt.half (g : AgSt) (j : Nat) : Nat := 2 * g.base + g.index j

/-- IDX after an access; `scalar`: bit-reversed mode advances by STEP alone. -/
def AgSt.next (g : AgSt) (scalar : Bool) : AgSt :=
  match g.mode with
  | 0 => { g with idx := wrapTo 16 (g.idx + g.step) }
  | 1 => { g with idx := ((g.idx + g.step) % (max 1 g.mod : Nat)).toNat }
  | _ =>
    let n := Nat.log2 g.mod
    { g with idx := revBits n (wrapTo n (revBits n g.idx + (if scalar then g.step else 16 * g.step))) }

/-- A setting that R190 allows; `idx`: IDX is checked as well, as when AGSET runs. -/
def AgSt.okSet (g : AgSt) (idx : Bool) : Bool :=
  match g.mode with
  | 0 => true
  | 1 => 1 ≤ g.mod && g.mod ≤ 65536 && g.step.natAbs < g.mod && (!idx || g.idx < g.mod)
  | 2 => 16 ≤ g.mod && g.mod ≤ 65536 && 2 ^ Nat.log2 g.mod == g.mod
  | _ => false

/-! ### X and Y (R184) -/

def dmKey (d mem w : Nat) : Nat := (2 * d + mem) * 65536 + w
def State.dmWord (s : State) (d mem w : Nat) : Nat := s.dspMemAt (dmKey d mem w)
def Act.dmSet (d mem w v : Nat) : Act := .setDspMem (dmKey d mem w) (v % 2 ^ 32)

def State.dmHalf (s : State) (d mem h : Nat) : Nat := s.dmWord d mem (h / 2) / 65536 ^ (h % 2) % 65536
def Act.dmSetHalf (d mem h v : Nat) : Act := .get fun s =>
  let w := s.dmWord d mem (h / 2)
  .dmSet d mem (h / 2) (if h % 2 == 0 then w / 65536 * 65536 + v % 65536 else v % 65536 * 65536 + w % 65536)

/-! ### Bundles (R188, R189) -/

/-- Opcode of a slot of a bundle. -/
def State.dspOp (s : State) (d pc slot : Nat) : Nat := s.dspPAt (d * 32768 + 4 * (pc % 8192) + slot) / 2 ^ 24 % 256

/-- The opcode is in no class of its slot. -/
def opBad (slot op : Nat) : Bool := match slot with
  | 0 => op > 0x47
  | 3 => op > 0x3F
  | _ => op > 0x0F

/-- The slots of a bundle that hold an operation, as a mask. -/
def State.dspSlots (s : State) (d pc : Nat) : Nat :=
  (List.range 4).foldl (fun m i => if s.dspOp d pc i != 0 then m + 2 ^ i else m) 0

/-- The loops after the bundle at pc, the next bundle, and a loop-back taken (first and last bundle of its body). -/
def loopNext (pc : Nat) : List LoopSt → List LoopSt × Nat × Option (Nat × Nat)
  | [] => ([], pc + 1, none)
  | l :: r =>
    if pc == l.last then
      (if l.count > 1 then ({ l with count := l.count - 1 } :: r, l.first, some (l.first, l.last)) else loopNext pc r)
    else (l :: r, pc + 1, none)

/-- The DSP comes to its next bundle once every slot of the current one has executed: branches, END, loop-backs (R192), bundles of
NOPs, invalid bundles (fault 0x01). -/
def Act.dspGo (d : Nat) : Nat → Act
  | 0 => .skip
  | fuel + 1 => .get fun s =>
    let x := s.dspsAt d
    match x.job with
    | none => .skip
    | some j =>
      if j.phase != 1 then .skip
      else if (List.range 4).any fun i => opBad i (s.dspOp d x.pc i) then .dspFaultNow d 1
      else if x.done != s.dspSlots d x.pc then .skip
      else
        let fresh (y : DspSt) : DspSt := { y with snap := none, done := 0, wrote := [], jump := none }
        .all [
          .pmc none 7 0 1 (if j.radio then 0x101 else 0x100) 4,
          match x.jump with
          | some t =>
            if t == 8192 then .all [
              .modDsps d fun y => fresh { y with job := some { j with phase := 2, endTick := s.tick, endAt := s.clk.cyc } },
              .setF (R.dspStat d) F.dspStat_MOVING (if bits (j.words.getD 1 0) 15 12 == 0 then 0 else 1)]
            else .all [.modDsps d fun y => fresh { y with pc := t % 8192 }, .dspGo d fuel]
          | none =>
            let (ls, pc, back) := loopNext x.pc x.regs.loops
            .all [
              .modDsps d fun y => fresh { y with pc := pc % 8192, regs := { y.regs with loops := ls } },
              match back with
              | some b => .when (x.held != some b) (.all [.incF (R.dspCnt2 d) F.dspCnt2_LOOP_MISS, .pmc none 7 2 1 (if j.radio then 0x101 else 0x100) 4])
              | none => .skip,
              .dspGo d fuel]]

/-- Bundles of NOPs passed in one go at most; a longer run of them goes on while the module idles. -/
def nopFuel : Nat := 1024

/-- Residue mismatches of a checked operation (R201). -/
def Act.dspResidue (d : Nat) (sl : Slot) (checked : Bool) (body : Act) : Act :=
  if !checked || sl.res == 0 then body
  else .all [
    .incF (R.dspCnt d) F.dspCnt_RES_RETRY,
    .modDsps d fun y => { y with job := y.job.map fun j => { j with retries := min (j.retries + 1) 255 } },
    if sl.res == 1 then body else .all [.dspFence d, .dspFaultNow d 4]]

/-- One slot of the bundle in issue executes: it is present with an opcode of its class, every source is read at issue, two slots that
write one register make the bundle invalid. `body` gets the registers as the bundle found them. -/
def Act.dspSlot (d slot lo hi : Nat) (sl : Slot) (checked : Bool) (writes : List (Nat × Nat)) (body : DspRegs → Act) : Act := .get fun s =>
  let x := s.dspsAt d
  match x.job with
  | none => .skip
  | some j => .when (j.phase == 1 && !(bit x.done slot) && lo ≤ s.dspOp d x.pc slot && s.dspOp d x.pc slot ≤ hi) (
      if writes.any fun w => x.wrote.contains w then .dspFaultNow d 1
      else if sl.mem == 2 then .dspFaultNow d 3
      else if sl.mem == 3 then .all [.dspFence d, .dspFaultNow d 4]
      else .all [
        .incF (R.dspCnt d) F.dspCnt_MEM_CE sl.ce,
        .dspResidue d sl checked (.all [
          .modDsps d fun y => { y with snap := some (y.snap.getD y.regs), done := setBit y.done slot, wrote := y.wrote ++ writes },
          body (x.snap.getD x.regs),
          .dspGo d nopFuel])])

/-- A change of the DSP's registers. -/
def Act.dspRegs (d : Nat) (f : DspRegs → DspRegs) : Act := .modDsps d fun y => { y with regs := f y.regs }

/-- Write classes of R189: D, ACC, S, AG. -/
def wD : Nat := 0
def wAcc : Nat := 1
def wS : Nat := 2
def wAg : Nat := 3

end Sys2Proof.Machine
end

