-- ==== Sys2Proof/Machine/Dsp.lean ====
section
/-! DEFINITION. The DSP commands: jobs (R193-R202) and the operations of the four slots (R184-R192; log 24). -/

namespace Sys2Proof.Machine

/-! ### Slot 0: MAC and accumulator operations -/

/-- A slot-0 operation on an accumulator: new lanes from the registers as read. -/
def Act.dspAccOp (d lo hi : Nat) (sl : Slot) (acc : Nat) (f : DspRegs → List Int) : Act :=
  .dspSlot d 0 lo hi sl true [(wAcc, acc)] fun r => .dspRegs d fun y => y.putAcc acc (f r)

def addLanes (a b : List Int) : List Int := (a.zip b).map fun (x, y) => x + y

/-- DSP_CMAC: complex multiply-accumulate. -/
def execDspCmac (d : Nat) (sl : Slot) (acc a b : Nat) (s : State) : Out :=
  Act.out s <| .dspAccOp d 1 0x0F sl acc fun r => addLanes (r.accVec acc) (cprod false (r.vec a) (r.vec b))
/-- DSP_CMACJ: a times the conjugate of b, accumulated. -/
def execDspCmacj (d : Nat) (sl : Slot) (acc a b : Nat) (s : State) : Out :=
  Act.out s <| .dspAccOp d 1 0x0F sl acc fun r => addLanes (r.accVec acc) (cprod true (r.vec a) (r.vec b))
/-- DSP_CMUL: complex product into an accumulator. -/
def execDspCmul (d : Nat) (sl : Slot) (acc a b : Nat) (s : State) : Out :=
  Act.out s <| .dspAccOp d 1 0x0F sl acc fun r => cprod false (r.vec a) (r.vec b)
/-- DSP_RMAC: two real products per lane pair, accumulated. -/
def execDspRmac (d : Nat) (sl : Slot) (acc a b : Nat) (s : State) : Out :=
  Act.out s <| .dspAccOp d 1 0x0F sl acc fun r => addLanes (r.accVec acc) (rprod (r.vec a) (r.vec b))
/-- DSP_RMUL: real products into an accumulator. -/
def execDspRmul (d : Nat) (sl : Slot) (acc a b : Nat) (s : State) : Out :=
  Act.out s <| .dspAccOp d 1 0x0F sl acc fun r => rprod (r.vec a) (r.vec b)
/-- DSP_ACLR: the accumulator is cleared. -/
def execDspAclr (d : Nat) (sl : Slot) (acc : Nat) (s : State) : Out :=
  Act.out s <| .dspAccOp d 0x10 0x1F sl acc fun _ => List.replicate 16 0
/-- DSP_AADD: ACC acc = ACC a + ACC b. -/
def execDspAadd (d : Nat) (sl : Slot) (acc a b : Nat) (s : State) : Out :=
  Act.out s <| .dspAccOp d 0x10 0x1F sl acc fun r => addLanes (r.accVec a) (r.accVec b)
/-- DSP_ASUB: ACC acc = ACC a - ACC b. -/
def execDspAsub (d : Nat) (sl : Slot) (acc a b : Nat) (s : State) : Out :=
  Act.out s <| .dspAccOp d 0x10 0x1F sl acc fun r => ((r.accVec a).zip (r.accVec b)).map fun (x, y) => x - y
/-- DSP_ASHR: ACC acc = ACC a shifted right, toward minus infinity. -/
def execDspAshr (d : Nat) (sl : Slot) (acc a sh : Nat) (s : State) : Out :=
  Act.out s <| .dspAccOp d 0x10 0x1F sl acc fun r => (r.accVec a).map fun x => x / 2 ^ sh
/-- DSP_NRW: floor(a x 2^s / 2^23) to Q23, with s from -8 to +8; another shift makes the bundle invalid. -/
def execDspNrw (d : Nat) (sl : Slot) (vd acc : Nat) (sh : Int) (s : State) : Out :=
  Act.out s <| .dspSlot d 0 0x10 0x1F sl true [(wD, vd)] fun r =>
    if sh < -8 ∨ 8 < sh then .dspFaultNow d 1
    else .dspRegs d fun y => y.putQ r.sat vd ((r.accVec acc).map fun x => shiftInt x (sh - 23))

/-! ### Slot 0: vector ALU and special operations -/

/-- A slot-0 operation that writes a D register with exact lane results. -/
def Act.dspVecOp (d lo hi : Nat) (sl : Slot) (checked : Bool) (vd : Nat) (f : DspRegs → List Int) : Act :=
  .dspSlot d 0 lo hi sl checked [(wD, vd)] fun r => .dspRegs d fun y => y.putQ r.sat vd (f r)

def zipQ (f : Int → Int → Int) (a b : List Int) : List Int := (a.zip b).map fun (x, y) => f x y

def execDspVadd (d : Nat) (sl : Slot) (vd a b : Nat) (s : State) : Out :=
  Act.out s <| .dspVecOp d 0x20 0x3F sl true vd fun r => zipQ (· + ·) (r.vec a) (r.vec b)
def execDspVsub (d : Nat) (sl : Slot) (vd a b : Nat) (s : State) : Out :=
  Act.out s <| .dspVecOp d 0x20 0x3F sl true vd fun r => zipQ (· - ·) (r.vec a) (r.vec b)
def execDspVneg (d : Nat) (sl : Slot) (vd a : Nat) (s : State) : Out :=
  Act.out s <| .dspVecOp d 0x20 0x3F sl true vd fun r => (r.vec a).map fun x => -x
def execDspVabs (d : Nat) (sl : Slot) (vd a : Nat) (s : State) : Out :=
  Act.out s <| .dspVecOp d 0x20 0x3F sl true vd fun r => (r.vec a).map fun x => (x.natAbs : Int)
def execDspVmax (d : Nat) (sl : Slot) (vd a b : Nat) (s : State) : Out :=
  Act.out s <| .dspVecOp d 0x20 0x3F sl true vd fun r => zipQ max (r.vec a) (r.vec b)
def execDspVmin (d : Nat) (sl : Slot) (vd a b : Nat) (s : State) : Out :=
  Act.out s <| .dspVecOp d 0x20 0x3F sl true vd fun r => zipQ min (r.vec a) (r.vec b)
def execDspVshl (d : Nat) (sl : Slot) (vd a sh : Nat) (s : State) : Out :=
  Act.out s <| .dspVecOp d 0x20 0x3F sl true vd fun r => (r.vec a).map fun x => x * 2 ^ sh
def execDspVshr (d : Nat) (sl : Slot) (vd a sh : Nat) (s : State) : Out :=
  Act.out s <| .dspVecOp d 0x20 0x3F sl true vd fun r => (r.vec a).map fun x => x / 2 ^ sh
def execDspVand (d : Nat) (sl : Slot) (vd a b : Nat) (s : State) : Out :=
  Act.out s <| .dspVecOp d 0x20 0x3F sl true vd fun r => zipQ (bitsQ (· &&& ·)) (r.vec a) (r.vec b)
def execDspVor (d : Nat) (sl : Slot) (vd a b : Nat) (s : State) : Out :=
  Act.out s <| .dspVecOp d 0x20 0x3F sl true vd fun r => zipQ (bitsQ (· ||| ·)) (r.vec a) (r.vec b)
def execDspVxor (d : Nat) (sl : Slot) (vd a b : Nat) (s : State) : Out :=
  Act.out s <| .dspVecOp d 0x20 0x3F sl true vd fun r => zipQ (bitsQ (· ^^^ ·)) (r.vec a) (r.vec b)
/-- DSP_VSEL: lane by lane a or b, chosen by the lane of c; which lanes choose a is open (log 24). -/
def execDspVsel (d : Nat) (sl : Slot) (vd a b c : Nat) (s : State) : Out :=
  Act.out s <| .dspVecOp d 0x20 0x3F sl true vd fun r =>
    ((r.vec a).zip ((r.vec b).zip (r.vec c))).map fun (x, y, z) => if Config.dspSel z then x else y
/-- DSP_VNORM: leading sign bits per lane. -/
def execDspVnorm (d : Nat) (sl : Slot) (vd a : Nat) (s : State) : Out :=
  Act.out s <| .dspVecOp d 0x40 0x47 sl false vd fun r => (r.vec a).map fun x => (signBits x : Int)
/-- DSP_VRCPS: the reciprocal seed of each lane. -/
def execDspVrcps (d : Nat) (sl : Slot) (vd a : Nat) (s : State) : Out :=
  Act.out s <| .dspVecOp d 0x40 0x47 sl false vd fun r => (r.vec a).map fun x => sext 24 (wrapTo 24 (rcpSeed x))

/-! ### Slots 1 and 2: X and Y accesses (R190, R191) -/

/-- An access through an address generator: MEM must select the slot's memory, no lane may lie outside it, IDX advances. `n` lanes,
`half`: half-words. `body` gets the lane addresses. -/
def Act.dspAccess (d mem : Nat) (sl : Slot) (narrow : Bool) (ag n : Nat) (half : Bool) (writes : List (Nat × Nat))
    (body : DspRegs → List Nat → Act) : Act :=
  .dspSlot d (1 + mem) 1 0x0F sl narrow ((wAg, ag) :: writes) fun r =>
    let g := r.agen ag
    let as := (List.range n).map fun j => if half then g.half j else g.word j
    if g.mem != mem then .dspFaultNow d 1
    else if as.any fun a => (if half then a / 2 else a) ≥ 49152 then .dspFaultNow d 2
    else .all [body r as, .dspRegs d fun y => y.setAg ag (g.next (n == 1))]

/-- 16 words into a D register: loads ignore bits [31:24]. -/
def Act.dspLd (d mem : Nat) (sl : Slot) (vd ag : Nat) : Act :=
  .dspAccess d mem sl false ag 16 false [(wD, vd)] fun _ as => .get fun s =>
    .dspRegs d fun y => y.setVec vd (as.map fun a => sext 24 (s.dmWord d mem a))
/-- 16 words from a D register: bits [31:24] copy bit 23. -/
def Act.dspSt (d mem : Nat) (sl : Slot) (va ag : Nat) : Act :=
  .dspAccess d mem sl false ag 16 false [] fun r as => .each (as.zip (r.vec va)) fun (a, v) => .dmSet d mem a (wrapTo 32 v)
/-- 16 half-words widened: q = v x 2^8. -/
def Act.dspLdw (d mem : Nat) (sl : Slot) (vd ag : Nat) : Act :=
  .dspAccess d mem sl false ag 16 true [(wD, vd)] fun _ as => .get fun s =>
    .dspRegs d fun y => y.setVec vd (as.map fun a => sext 16 (s.dmHalf d mem a) * 256)
/-- 16 half-words narrowed: floor(q / 2^8). -/
def Act.dspStn (d mem : Nat) (sl : Slot) (va ag : Nat) : Act :=
  .dspAccess d mem sl true ag 16 true [] fun r as => .each (as.zip (r.vec va)) fun (a, v) => .dmSetHalf d mem a (wrapTo 16 (v / 256))
/-- One scalar word. -/
def Act.dspLds (d mem : Nat) (sl : Slot) (sd ag : Nat) : Act :=
  .dspAccess d mem sl false ag 1 false [(wS, sd)] fun _ as => .get fun s =>
    .dspRegs d fun y => y.setS sd (s.dmWord d mem (as.getD 0 0))
def Act.dspSts (d mem : Nat) (sl : Slot) (sa ag : Nat) : Act :=
  .dspAccess d mem sl false ag 1 false [] fun r as => .dmSet d mem (as.getD 0 0) (r.sreg sa)

def execDspLdx (d : Nat) (sl : Slot) (vd ag : Nat) (s : State) : Out := Act.out s <| .dspLd d 0 sl vd ag
def execDspStx (d : Nat) (sl : Slot) (va ag : Nat) (s : State) : Out := Act.out s <| .dspSt d 0 sl va ag
def execDspLdwx (d : Nat) (sl : Slot) (vd ag : Nat) (s : State) : Out := Act.out s <| .dspLdw d 0 sl vd ag
def execDspStnx (d : Nat) (sl : Slot) (va ag : Nat) (s : State) : Out := Act.out s <| .dspStn d 0 sl va ag
def execDspLdsx (d : Nat) (sl : Slot) (sd ag : Nat) (s : State) : Out := Act.out s <| .dspLds d 0 sl sd ag
def execDspStsx (d : Nat) (sl : Slot) (sa ag : Nat) (s : State) : Out := Act.out s <| .dspSts d 0 sl sa ag
def execDspLdy (d : Nat) (sl : Slot) (vd ag : Nat) (s : State) : Out := Act.out s <| .dspLd d 1 sl vd ag
def execDspSty (d : Nat) (sl : Slot) (va ag : Nat) (s : State) : Out := Act.out s <| .dspSt d 1 sl va ag
def execDspLdwy (d : Nat) (sl : Slot) (vd ag : Nat) (s : State) : Out := Act.out s <| .dspLdw d 1 sl vd ag
def execDspStny (d : Nat) (sl : Slot) (va ag : Nat) (s : State) : Out := Act.out s <| .dspStn d 1 sl va ag
def execDspLdsy (d : Nat) (sl : Slot) (sd ag : Nat) (s : State) : Out := Act.out s <| .dspLds d 1 sl sd ag
def execDspStsy (d : Nat) (sl : Slot) (sa ag : Nat) (s : State) : Out := Act.out s <| .dspSts d 1 sl sa ag

/-! ### Slot 3: control (R192) -/

def Act.dspJump (d t : Nat) : Act := .modDsps d fun y => { y with jump := some t }

/-- The body pc + 1 .. pc + off qualifies for the loop cache: at most 64 bundles, no control operation but END in it. -/
def State.loopFits (s : State) (d pc off : Nat) : Bool :=
  off ≤ 64 && (List.range off).all fun i => let op := s.dspOp d (pc + 1 + i) 3; op == 0 || op > 0x1F || Config.dspEnd op

/-- DSP_LOOP: the count goes to the next free counter; a fifth nested loop is invalid, a count of 0 skips the body. -/
def execDspLoop (d : Nat) (sl : Slot) (reg : Bool) (count lastOff : Nat) (s : State) : Out :=
  Act.out s <| .dspSlot d 3 1 0x1F sl false [] fun r => .get fun t =>
    let pc := (t.dspsAt d).pc
    let n := (if reg then r.sreg count else count) % 65536
    if r.loops.length ≥ 4 then .dspFaultNow d 1
    else if n == 0 || lastOff == 0 then .dspJump d ((pc + lastOff + 1) % 8192)
    else .all [
      .dspRegs d fun y => { y with loops := ⟨n, (pc + 1) % 8192, (pc + lastOff) % 8192⟩ :: y.loops },
      .dspJump d ((pc + 1) % 8192),
      .when (t.loopFits d pc lastOff) (.all [
        .modDsps d fun y => { y with held := some ((pc + 1) % 8192, (pc + lastOff) % 8192) },
        .setF (R.dspStat d) F.dspStat_LOOP_HELD 1])]

/-- DSP_BR: the program goes on at the target. -/
def execDspBr (d : Nat) (sl : Slot) (target : Nat) (s : State) : Out :=
  Act.out s <| .dspSlot d 3 1 0x1F sl false [] fun _ => .dspJump d (target % 8192)

/-- The scalar compares of BRC: equal, unequal, below and not above as signed, as unsigned (log 24). -/
def dspCond (cond a b : Nat) : Bool := match cond with
  | 0 => a == b
  | 1 => a != b
  | 2 => sext 32 a < sext 32 b
  | 3 => sext 32 a ≤ sext 32 b
  | 4 => a < b
  | _ => a ≤ b

/-- DSP_BRC: a branch on a scalar compare. -/
def execDspBrc (d : Nat) (sl : Slot) (cond a b target : Nat) (s : State) : Out :=
  Act.out s <| .dspSlot d 3 1 0x1F sl false [] fun r => .when (dspCond cond (r.sreg a) (r.sreg b)) (.dspJump d (target % 8192))

/-- DSP_CALL: the next bundle's number is kept for RET. -/
def execDspCall (d : Nat) (sl : Slot) (target : Nat) (s : State) : Out :=
  Act.out s <| .dspSlot d 3 1 0x1F sl false [] fun _ => .get fun t => .all [
    .dspRegs d fun y => { y with rets := ((t.dspsAt d).pc + 1) % 8192 :: y.rets },
    .dspJump d (target % 8192)]

/-- DSP_RET: back behind the latest CALL; without one the bundle is invalid. -/
def execDspRet (d : Nat) (sl : Slot) (s : State) : Out :=
  Act.out s <| .dspSlot d 3 1 0x1F sl false [] fun r =>
    match r.rets with
    | [] => .dspFaultNow d 1
    | t :: l => .all [.dspRegs d fun y => { y with rets := l }, .dspJump d t]

/-- DSP_END: the program ends with this bundle (R195). -/
def execDspEnd (d : Nat) (sl : Slot) (s : State) : Out :=
  Act.out s <| .dspSlot d 3 1 0x1F sl false [] fun _ => .dspJump d 8192

/-! ### Slot 3: scalar and address operations -/

/-- A scalar result. -/
def Act.dspScalar (d : Nat) (sl : Slot) (sd : Nat) (f : DspRegs → Nat) : Act :=
  .dspSlot d 3 0x20 0x3F sl false [(wS, sd)] fun r => .dspRegs d fun y => y.setS sd (f r)

/-- JSTAT as SMOV reads it: SATCNT, OVF, WRAP from bit 0 (log 24). -/
def DspRegs.jstat (r : DspRegs) : Nat := r.satcnt + (if r.ovf then 65536 else 0) + (if r.wrapf then 131072 else 0)

/-- DSP_SMOV: src 0-15 a scalar, 16 the immediate, 17 JSTAT. -/
def execDspSmov (d : Nat) (sl : Slot) (sd : Nat) (src : Nat) (imm : BitVec 32) (s : State) : Out :=
  Act.out s <| .dspScalar d sl sd fun r => if src < 16 then r.sreg src else if src == 16 then imm.toNat else r.jstat
def execDspSadd (d : Nat) (sl : Slot) (sd a b : Nat) (s : State) : Out :=
  Act.out s <| .dspScalar d sl sd fun r => r.sreg a + r.sreg b
def execDspSsub (d : Nat) (sl : Slot) (sd a b : Nat) (s : State) : Out :=
  Act.out s <| .dspScalar d sl sd fun r => r.sreg a + 2 ^ 32 - r.sreg b
def execDspSand (d : Nat) (sl : Slot) (sd a b : Nat) (s : State) : Out :=
  Act.out s <| .dspScalar d sl sd fun r => r.sreg a &&& r.sreg b
/-- DSP_SSHL: a shift of 32 or more has no stated result (log 24). -/
def execDspSshl (d : Nat) (sl : Slot) (sd a b : Nat) (s : State) : Out :=
  Act.out s <| .dspScalar d sl sd fun r => if r.sreg b < 32 then r.sreg a * 2 ^ r.sreg b else Config.dspShl (r.sreg a) (r.sreg b)

/-- A new setting of an address generator; one that R190 forbids is invalid. -/
def Act.dspAg (d : Nat) (sl : Slot) (ag : Nat) (idx : Bool) (f : DspRegs → AgSt) : Act :=
  .dspSlot d 3 0x20 0x3F sl false [(wAg, ag)] fun r =>
    if (f r).okSet idx then .dspRegs d fun y => y.setAg ag (f r) else .dspFaultNow d 1

/-- DSP_AGSET: all fields of an address generator. -/
def execDspAgset (d : Nat) (sl : Slot) (ag base idx : Nat) (step : Int) (mod mode mem : Nat) (s : State) : Out :=
  Act.out s <| .dspAg d sl ag true fun _ => ⟨base % 65536, idx % 65536, sext 16 (wrapTo 16 step), mod % 131072, mode % 4, mem % 2⟩

/-- DSP_AGLD: one field from a scalar: 0 BASE, 1 IDX, 2 STEP, 3 MOD, 4 MODE, 5 MEM (log 24). -/
def execDspAgld (d : Nat) (sl : Slot) (ag field sa : Nat) (s : State) : Out :=
  Act.out s <| .dspAg d sl ag false fun r =>
    let g := r.agen ag
    let v := r.sreg sa
    match field with
    | 0 => { g with base := v % 65536 }
    | 1 => { g with idx := v % 65536 }
    | 2 => { g with step := sext 16 v }
    | 3 => { g with mod := v % 131072 }
    | 4 => { g with mode := v % 4 }
    | _ => { g with mem := v % 2 }

/-- DSP_MODESET: MODE.SAT. -/
def execDspModeset (d : Nat) (sl : Slot) (sat : Bool) (s : State) : Out :=
  Act.out s <| .dspSlot d 3 0x20 0x3F sl false [] fun _ => .dspRegs d fun y => { y with sat := sat }

/-! ### Jobs (R193-R199) -/

def jKind (w : List Nat) : Nat := bits (dW w 0) 63 60
def jId (w : List Nat) : Nat := bits (dW w 0) 59 0
def jEntry (w : List Nat) : Nat := bits (dW w 1) 63 51
def jDlen (w : List Nat) : Nat := bits (dW w 1) 39 20
def jNin (w : List Nat) : Nat := bits (dW w 1) 19 16
def jNout (w : List Nat) : Nat := bits (dW w 1) 15 12
def jSat (w : List Nat) : Bool := bit (dW w 1) 11
def jWaitEn (w : List Nat) : Bool := bit (dW w 1) 10
def jSigEn (w : List Nat) : Bool := bit (dW w 1) 9
def jList (w : List Nat) : Nat := dW w 2 / 16 * 16
def jWaitIdx (w : List Nat) : Nat := bits (dW w 3) 63 52
def jWaitVal (w : List Nat) : Nat := bits (dW w 3) 51 36
def jSigIdx (w : List Nat) : Nat := bits (dW w 3) 35 24
def jStatSel (w : List Nat) : Nat := bits (dW w 3) 3 0

def mvOut (m : Nat × Nat) : Bool := bit m.1 63
def mvMem (m : Nat × Nat) : Nat := bits m.1 62 62
def mvLocal (m : Nat × Nat) : Nat := bits m.1 47 32
def mvLen (m : Nat × Nat) : Nat := bits m.1 31 0
def mvAddr (m : Nat × Nat) : Nat := m.2

/-- A range lies wholly within Kennel or wholly within the populated LPDDR5X of a die (R194). -/
def State.inMemory (s : State) (a n : Nat) : Bool :=
  a + n ≤ kennelEnd || (lpBase 0 ≤ a && a + n ≤ lpBase 0 + s.lpSize 0) || (lpBase 1 ≤ a && a + n ≤ lpBase 1 + s.lpSize 1)

/-- The group's position in stitch n is the radio's (R266). -/
def State.dspRadio (s : State) (g n : Nat) : Bool := bit (s.stitchEnt n).dsp g

/-- A move entry that R194 allows at place i. -/
def State.moveOk (s : State) (radio : Bool) (nin i : Nat) (m : Nat × Nat) : Bool :=
  mvOut m == decide (nin ≤ i) && mvLocal m % 16 == 0 && mvLen m % 64 == 0 && mvLocal m * 4 + mvLen m ≤ 196608 &&
  mvAddr m % 64 == 0 && (radio || s.inMemory (mvAddr m) (mvLen m))

/-- The job that a group's dispatcher takes: a manager job that waits to be dispatched again (R198), else the one at the descriptor; its
words, its status area and its cells go on. -/
def Act.dspTake (group : Nat) (radio : Bool) (desc stat : Nat) (cells : List Nat) (k : List Nat → Nat → List Nat → Bool → Act) : Act := .get fun s =>
  match s.held.find? fun h => !radio && h.place == group with
  | some h => k h.words h.stat h.cells false
  | none => .readMem (if radio then 0x101 else 0x100) 4 desc 64 (fun b err =>
      k ((List.range 8).map fun i => leNat ((b.drop (8 * i)).take 8)) stat cells err) (dieSrc (group / 6))

/-- DSP_JOB_DISPATCH: the dispatcher of a group takes a job from a queue: the descriptor at `desc`, its status area at `stat`
(R193, R194, R197-R199). A job that cannot start now waits. -/
def execDspJobDispatch (group : Nat) (radio : Bool) (desc stat : Nat) (cells : List Nat) (s : State) : Out := Act.out s <|
  let part := if radio then 0x101 else 0x100
  let pick := ((List.range 8).map (group * 8 + ·)).find? fun d => (s.dspsAt d).job.isNone && !(s.flag (R.dspStat d) F.dspStat_FENCE)
  match pick with
  | none => .skip
  | some d =>
    .when (s.dspRadio group s.stitch == radio) <| .dspTake group radio desc stat cells fun w stat cells err =>
      let refuse (code : Nat) : Act := .dspFault d code radio (jId w) cells
      let owner := if radio then 1 else 2
      let runEnd := if radio then s.radioEnd (s.dspRadio group) (jDlen w) else s.leftoverEnd (s.dspRadio group) (jDlen w)
      if err then refuse 7
      else if jKind w != 6 || jNin w > 8 || jNout w > 8 || jDlen w == 0 || (!radio && jDlen w > 65535) ||
          (!radio && jDlen w > longestRun fun n => !(s.dspRadio group n)) || (radio && runEnd < s.clk.cyc + jDlen w) ||
          (!radio && !(s.inMemory (jList w) (16 * (jNin w + jNout w)))) then refuse 5
      else if !radio && runEnd < s.clk.cyc + jDlen w then .skip
      else .readMem part 4 (jList w) (16 * (jNin w + jNout w)) (fun lb lerr =>
        let mv := (List.range (jNin w + jNout w)).map fun i => (leNat ((lb.drop (16 * i)).take 8), leNat ((lb.drop (16 * i + 8)).take 8))
        if lerr then refuse 7
        else if !(mv.zipIdx.all fun (m, i) => s.moveOk radio (jNin w) i m) then refuse 5
        else
          let args := (List.range 4).map (fun i => dW w (4 + i) % 2 ^ 32) ++ (List.range 4).map fun i => dW w (4 + i) / 2 ^ 32
          let place : Act := .get fun u => .all [
            .when ((u.dspsAt d).lastOwner != owner) (.clearDspMem (dmKey d 0 0) (dmKey d 1 65536)),
            .when (!radio) (.modHeld fun q => q.eraseP fun h => h.place == group),
            .modDsps d fun x => { x with
              regs := ⟨[], [], args, [], [], [], jSat w, 0, false, false⟩
              snap := none
              done := 0
              wrote := []
              pc := jEntry w
              jump := none
              held := none
              lastOwner := owner
              prevId := jId w
              job := some ⟨w, radio, stat, cells, mv, s.clk.cyc, runEnd, 0, 0, 0, 0⟩ },
            .setF (R.dspStat d) F.dspStat_BUSY 1,
            .setF (R.dspStat d) F.dspStat_LOOP_HELD 0,
            .setF (R.dspStat d) F.dspStat_WAITING (if jWaitEn w then 1 else 0),
            .setF (R.dspStat d) F.dspStat_MOVING (if jWaitEn w then 0 else 1)]
          if radio then place else .charge (jDlen w * 141) place .skip) (dieSrc (d / 48))

/-- The in-moves, in list order: bytes into words. -/
def Act.dspInMoves (d part : Nat) : List (Nat × Nat) → Act → Act
  | [], k => k
  | m :: r, k => .readMem part 4 (mvAddr m) (mvLen m) (fun b err =>
      if err then .dspFaultNow d 7
      else .all [
        .each (List.range (mvLen m / 4)) fun i => .dmSet d (mvMem m) (mvLocal m + i) (leNat ((b.drop (4 * i)).take 4)),
        .dspInMoves d part r k]) (dieSrc (d / 48))

/-- The out-moves. -/
def Act.dspOutMoves (d part : Nat) : List (Nat × Nat) → Act → Act
  | [], k => k
  | m :: r, k => .get fun s =>
      .writeMem part 4 (mvAddr m) ((List.range (mvLen m / 4)).flatMap fun i => leBytes (s.dmWord d (mvMem m) (mvLocal m + i)) 4)
        (fun err => if err then .dspFaultNow d 7 else .dspOutMoves d part r k) (dieSrc (d / 48))

/-- DSP_PROGRAM_START: the wait is satisfied, the in-moves are performed, the program starts at ENTRY (R195). -/
def execDspProgramStart (d : Nat) (s : State) : Out := Act.out s <|
  match (s.dspsAt d).job with
  | none => .skip
  | some j =>
    let part := if j.radio then 0x101 else 0x100
    let w := j.words
    if j.phase != 0 then .skip
    else if jWaitEn w && s.syncBad part (jWaitIdx w) then .dspFaultNow d 7
    else if jWaitEn w && !(s.syncOk part (jWaitIdx w) (jWaitVal w)) then .skip
    else .dspInMoves d part (j.moves.take (jNin w)) (.all [
      .modDsps d fun x => { x with job := some { j with phase := 1 } },
      .setF (R.dspStat d) F.dspStat_WAITING 0,
      .setF (R.dspStat d) F.dspStat_MOVING 0,
      .dspGo d nopFuel])

/-- The status record (R196). -/
def dspRecord (d : Nat) (x : DspSt) (j : DspJob) : List Byte := wordBytes [
  BitVec.ofNat 64 (jId j.words),
  BitVec.ofNat 64 (x.regs.satcnt % 65536 * 2 ^ 48 + (if x.regs.ovf then 2 ^ 47 else 0) + (if x.regs.wrapf then 2 ^ 46 else 0) +
    j.retries % 256 * 2 ^ 32 + (j.endAt + 2 - j.dispCyc) % 2 ^ 32),
  BitVec.ofNat 64 j.endTick,
  BitVec.ofNat 64 (2 ^ 63 + d * 2 ^ 56)]

/-- DSP_STATUS_RECORD: out-moves, status record, counts, signal (R195, R196). `ce`: words of X and Y corrected in the out-moves; `ue`: one
of them cannot be corrected (R201). -/
def execDspStatusRecord (d ce : Nat) (ue : Bool) (s : State) : Out := Act.out s <|
  let x := s.dspsAt d
  match x.job with
  | none => .skip
  | some j =>
    let part := if j.radio then 0x101 else 0x100
    let w := j.words
    if j.phase != 2 then .skip
    else if ue then .dspFaultNow d 3
    else .dspOutMoves d part (j.moves.drop (jNin w)) (
      .writeMem part 4 (j.stat + 32 * jStatSel w) (dspRecord d x j) (fun err =>
        if err then .dspFaultNow d 7
        else .all [
          .incF (R.dspCnt d) F.dspCnt_JOBS,
          .pmc none 7 3 1 part 4,
          .incF (R.dspCnt d) F.dspCnt_MEM_CE ce,
          .when (x.regs.ovf || x.regs.wrapf) (.incF (R.dspCnt2 d) F.dspCnt2_WRAPS),
          .dspAbort d,
          .when (jSigEn w) (.signal part (jSigIdx w) (.dsp d) j.cells (jId w) 0)]) (dieSrc (d / 48)))

/-- DSP_RADIO_OVERRUN: a radio job without END at the end of its positions is aborted and its cells are reset with cause 0x06 (R198). -/
def execDspRadioOverrun (d : Nat) (s : State) : Out := Act.out s <|
  match (s.dspsAt d).job with
  | some j => .when (j.radio && j.phase != 2) (.all [.dspAbort d, .cellResets j.cells 6])
  | none => .skip

/-- DSP_MANAGER_OVERRUN: a manager job without END 32 cycles after its leftover run is aborted; it is dispatched again later (R198). -/
def execDspManagerOverrun (d : Nat) (s : State) : Out := Act.out s <|
  match (s.dspsAt d).job with
  | some j => .when (!j.radio && j.phase != 2) (.all [
      .incF (R.dspCnt2 d) F.dspCnt2_OVERRUNS,
      .modHeld (· ++ [⟨d / 8, j.words, j.stat, j.cells⟩]),
      .dspAbort d])
  | none => .skip

/-- DSP_WAIT_TIMEOUT: a manager job's wait not satisfied within 100 ms faults the job with code 0x06 (R198). -/
def execDspWaitTimeout (d : Nat) (s : State) : Out := Act.out s <|
  match (s.dspsAt d).job with
  | some j => .when (!j.radio && j.phase == 0 && jWaitEn j.words) (.dspFaultNow d 6)
  | none => .skip

end Sys2Proof.Machine
end

