-- ==== Sys2Proof/Machine/Coding.lean ====
section
/-! DEFINITION. The coding clusters: jobs, blocks, results, HARQ buffers, checks and overruns (R204-R225; log 26). -/

namespace Sys2Proof.Machine

/-! ### Descriptors and entries (R212, R213, R220) -/

def cNent (w : List Nat) : Nat := bits (dW w 1) 63 52
def cBudget (w : List Nat) : Nat := bits (dW w 1) 51 36
def cSpill (w : List Nat) : Nat := bits (dW w 1) 35 28
def cItMax (w : List Nat) : Nat := bits (dW w 1) 27 22
def cItMin (w : List Nat) : Nat := bits (dW w 1) 21 18
def cEt (w : List Nat) : Nat := bits (dW w 1) 17 16
def cOffset (w : List Nat) : Nat := bits (dW w 1) 15 12
def cWaitEn (w : List Nat) : Bool := bit (dW w 1) 11
def cSigEn (w : List Nat) : Bool := bit (dW w 1) 10
def cEntList (w : List Nat) : Nat := dW w 2 / 64 * 64
def cResBase (w : List Nat) : Nat := dW w 4 / 16 * 16
def cEngMask (w : List Nat) : Nat := bits (dW w 5) 63 58

def eCell (e : List Nat) : Nat := bits (dW e 0) 63 55
def eRnti (e : List Nat) : Nat := bits (dW e 0) 54 39
def eHid (e : List Nat) : Nat := bits (dW e 0) 38 34
def eNdi (e : List Nat) : Nat := bits (dW e 0) 33 33
def eBg (e : List Nat) : Nat := bits (dW e 0) 32 32
def eQm (e : List Nat) : Nat := bits (dW e 0) 31 28
def eRv (e : List Nat) : Nat := bits (dW e 0) 27 26
def eNl (e : List Nat) : Nat := bits (dW e 0) 25 22
def eTbs (e : List Nat) : Nat := bits (dW e 1) 63 43
def eG (e : List Nat) : Nat := bits (dW e 1) 42 16
def eLbrm (e : List Nat) : Nat := bits (dW e 2) 63 43
def eCinit (e : List Nat) : Nat := bits (dW e 2) 42 12
def eIn (e : List Nat) : Nat := dW e 3
def eOut (e : List Nat) : Nat := dW e 4
def eSeg (e : List Nat) : Seg := segOf (eBg e) (eTbs e) (eLbrm e)
def eE (e : List Nat) (r : Nat) : Nat := segE (eG e) (eNl e) (eQm e) (eSeg e).C r
def eK0 (e : List Nat) : Nat := segK0 (eBg e) (eRv e) (eSeg e)

def pType (e : List Nat) : Nat := bits (dW e 0) 63 60
def pA (e : List Nat) : Nat := bits (dW e 0) 59 49
def pE (e : List Nat) : Nat := if bits (dW e 0) 48 35 == 0 then 16384 else bits (dW e 0) 48 35
def pList (e : List Nat) : Nat := bits (dW e 0) 34 33
def pRnti (e : List Nat) : Nat := bits (dW e 0) 32 17
def pCinit (e : List Nat) : Nat := bits (dW e 1) 63 33
def pScr (e : List Nat) : Bool := bit (dW e 1) 32
def pIn (e : List Nat) : Nat := dW e 2
def pOut (e : List Nat) : Nat := dW e 3

/-- Fields of an LDPC entry in range, its cell applied, its segmentation possible (R212, R213; log 26). -/
def State.entOk (s : State) (decode : Bool) (e : List Nat) : Bool :=
  let x := s.cellsAt (eCell e)
  (eQm e == 1 || eQm e == 2 || eQm e == 4 || eQm e == 6 || eQm e == 8 || (eQm e == 10 && !decode)) &&
  1 ≤ eNl e && eNl e ≤ 8 && 24 ≤ eTbs e && eTbs e ≤ 1277992 && eG e % (eNl e * eQm e) == 0 && x.applied &&
  (!decode || eHid e < recHarq x.rcd) && (List.range (eSeg e).C).all fun r => (eSeg e).Kp ≤ eE e r

/-- Fields of a polar entry in the ranges of R220. -/
def polarOk (e : List Nat) : Bool := match pType e with
  | 0 => 12 ≤ pA e && pA e ≤ 140 && 108 ≤ pE e && pE e ≤ 1728
  | 1 => pA e == 32 && pE e == 864
  | 2 => 12 ≤ pA e && pA e ≤ 1706 && pA e + (if pA e ≤ 19 then 6 else 11) ≤ pE e && pE e ≤ 16384
  | 3 => 3 ≤ pA e && pA e ≤ 11 && 24 ≤ pE e && pE e ≤ 16384
  | _ => false

/-- Engine numbers of a cluster for a KIND (R204). -/
def clusterEngines (c kind : Nat) : List Nat := match kind with
  | 7 => (List.range 6).map (6 * c + ·)
  | 8 => [24 + 2 * c, 25 + 2 * c]
  | _ => [32 + 2 * c, 33 + 2 * c]

/-- The engine is the radio's in stitch n (R266). -/
def State.engRadio (s : State) (e n : Nat) : Bool := bit (s.stitchEnt n).eng e

/-- The engines a job takes: of ENG_MASK, not fenced, its owner's in the current stitch (R210). -/
def State.jobEngines (s : State) (c kind mask : Nat) (radio : Bool) : List Nat :=
  ((clusterEngines c kind).zipIdx.filter fun (e, i) =>
    bit mask i && !(s.flag (R.codeEngStat e) F.codeEngStat_FENCE) && s.engRadio e s.stitch == radio).map (·.1)

/-- A pool shared among D engines: share of engine d (R210). -/
def poolShare (total d D : Nat) : Nat := total / max 1 D + (if d < total % max 1 D then 1 else 0)

/-! ### Reading a job -/

def wordsFrom (b : List Byte) (n : Nat) : List Nat := (List.range n).map fun i => leNat ((b.drop (8 * i)).take 8)

/-- Refusal or error of a job that has not started: radio cells are reset (R224). -/
def Act.codeRefuse (radio : Bool) (cells : List Nat) (cause : Nat) : Act := .when radio (.cellResets cells.eraseDups cause)

/-- The inputs of entries, in order; an error response ends with `bad`. -/
def Act.codeInputs (part die : Nat) (bad : Act) : List (Nat × Nat) → List (List Byte) → (List (List Byte) → Act) → Act
  | [], acc, k => k acc
  | (a, n) :: r, acc, k => .readMem part 5 a n (fun b err =>
      if err then bad else .codeInputs part die bad r (acc ++ [b]) k) (dieSrc die)

/-- The treatment of a decode entry by its key (R215): restored buffers, and HQ_NEW, HQ_MISS. -/
def State.hqFind (s : State) (e : List Nat) : Option HarqEnt :=
  (s.cellsAt (eCell e)).hq.find? fun h => h.rnti == eRnti e && h.hid == eHid e && h.ndi == eNdi e

def cellCfg (x : CellSt) (i : Nat) : Word := x.cfg.getD i 0
def State.hqFmt (s : State) (c : Nat) : Nat := F.codeCellCfg_HQ_FMT.get (cellCfg (s.cellsAt c) 0)

/-- Combined buffer of block r of a decode entry (R206, R215, R216). -/
def State.combined (s : State) (e : List Nat) (llrs : List Int) (r : Nat) : List Int :=
  let g := eSeg e
  let base := match s.hqFind e with
    | some h => ((h.bufs.getD r []).map (hqRestore (s.hqFmt (eCell e)))).take g.Ncb
    | none => []
  let buf := base ++ List.replicate (g.Ncb - base.length) 0
  rateRecover g (eK0 e) (eQm e) buf ((llrs.drop (segStart (eG e) (eNl e) (eQm e) g.C r)).take (eE e r))

/-- The descrambled LLRs of an input. -/
def descrambled (cinit : Nat) (b : List Byte) : List Int :=
  (b.zip (gold cinit b.length)).map fun (x, c) => if c == 1 then -(llrOf x) else llrOf x

/-- Energy of a manager job in 1/600 nJ for its longest possible work (R279, R280; log 26). -/
def codeCharge (kind : Nat) (w : List Nat) (ents : List (List Nat)) : Nat := match kind with
  | 7 => 480 * ((ents.map fun e => (List.range (eSeg e).C).map fun r =>
      24 + cItMax w * (segLayers (eBg e) (eSeg e) (eK0 e) (eE e r) * cdiv (eSeg e).Zc 128 + 4)).flatten).sum
  | 8 => 360 * (ents.map fun e => (eSeg e).C * (33 + 22 * cdiv (eSeg e).Zc 128)).sum
  | _ => 160 * (ents.map fun e => if pType e == 2 then 1320 else 96).sum

/-- The blocks of a job in block order, dealt to its engines (R210). -/
def dealBlocks (engines : List Nat) (bs : List (Nat × Nat)) : List (Nat × Nat × Nat) :=
  bs.zipIdx.map fun ((e, r), k) => (e, r, engines.getD (k % max 1 engines.length) 0)

/-- Core cycles that a job's engines take for its longest possible work: the engine with the most of it counts (R209, R220, R224). -/
def codeLen (kind : Nat) (w : List Nat) (ents : List (List Nat)) (engines : List Nat) (dealt : List (Nat × Nat × Nat)) : Nat :=
  let one (b : Nat × Nat × Nat) : Nat :=
    let e := ents.getD b.1 []
    match kind with
    | 7 => 24 + cItMax w * (segLayers (eBg e) (eSeg e) (eK0 e) (eE e b.2.1) * cdiv (eSeg e).Zc 128 + 4)
    | 8 => 33 + 22 * cdiv (eSeg e).Zc 128
    | _ => if pType e == 2 then 1320 else 96
  cdiv (4 * (engines.map fun g => ((dealt.filter (·.2.2 == g)).map one).sum).foldl max 0) 3

/-- BUDGET as it stands after fences of earlier periods (R223): scaled by the engines that are left of those that the mask and the Last
give the job, rounded down, but never below what R211 reserves. -/
def State.scaledBudget (s : State) (c mask stitch : Nat) (w : List Nat) (d blocks : Nat) : Nat :=
  let all := ((clusterEngines c 7).zipIdx.filter fun (e, i) => bit mask i && s.engRadio e stitch).map (·.1)
  let left := all.filter fun e => !(s.flag (R.codeEngStat e) F.codeEngStat_FENCE) || s.last.newFence.contains e
  let need := cItMin w * cdiv blocks (max 1 d) * d
  if left.length == all.length then cBudget w else max (cBudget w * left.length / max 1 all.length) (min (cBudget w) need)

/-- Bytes at an address as they stand; none where the partition may not read them. -/
def State.glance (s : State) (part a n : Nat) : List Byte := match s.locate part rightR a n with
  | some l => l.flatMap fun (x, k) => s.readBytes x k
  | none => []

/-- A coding job from its words: its wait (R221 step 1), the checks of R212, its input, its blocks (step 2 on). `waited`: the engines of a
job that stands in step 1 already; `first` says whether the first entry is of the row's type; `cells0`: cells a polar job serves; `hqErr`:
the HARQ restore meets an error response. -/
def Act.codeBegin (cluster kind : Nat) (radio : Bool) (w : List Nat) (stat : Nat) (cells0 : List Nat) (first : List Nat → Bool) (hqErr : Bool)
    (waited : Option (List Nat)) : Act := .get fun s =>
  let part := if radio then 0x101 else 0x100
  let key := 4 * cluster + (kind - 7)
  let es := waited.getD (s.jobEngines cluster kind (cEngMask w) radio)
  let size := if kind == 9 then 32 else 64
  let entsOf (b : List Byte) : List (List Nat) := (List.range (cNent w)).map fun i => wordsFrom (b.drop (size * i)) (size / 8)
  let cellsOf (ents : List (List Nat)) : List Nat := if kind == 9 then cells0 else (ents.map eCell).eraseDups
  let stop (cells : List Nat) (cause : Nat) : Act := .all [.when waited.isSome (.dropCodeJob key), .codeRefuse radio cells cause]
  let hint := cellsOf (entsOf (s.glance part (cEntList w) (size * cNent w)))
  if cWaitEn w && s.syncBad part (jWaitIdx w) then stop hint 2
  else if cWaitEn w && !(s.syncOk part (jWaitIdx w) (jWaitVal w)) then
    .when waited.isNone (.setCjobs key (some ⟨w, radio, stat, [], es, [], [], [], hint, [], [], true, false, 0⟩))
  else
    .readMem part 5 (cEntList w) (size * cNent w) (fun eb eerr =>
      let ents := entsOf eb
      let cells := cellsOf ents
      let keys := ents.map fun e => (eCell e, eRnti e, eHid e)
      let okMem := radio || (s.inMemory (cEntList w) (size * cNent w) && s.inMemory (cResBase w) (16 * cNent w) &&
        ents.all fun e => if kind == 9 then s.inMemory (pIn e) 1 && s.inMemory (pOut e) 1 else s.inMemory (eIn e) 1 && s.inMemory (eOut e) 1)
      let blocks := if kind == 9 then ents.zipIdx.map fun (_, i) => (i, 0)
        else ents.zipIdx.flatMap fun (e, i) => (List.range (eSeg e).C).map fun r => (i, r)
      let dealt := dealBlocks es blocks
      let budget := if radio then s.scaledBudget cluster (cEngMask w) s.stitch w es.length blocks.length else cBudget w
      let decodeOk := kind != 7 || (1 ≤ cItMax w && cItMax w ≤ 32 && 1 ≤ cItMin w && cItMin w ≤ 8 && cItMin w ≤ cItMax w && cEt w != 3 &&
        keys.eraseDups.length == keys.length && es.zipIdx.all fun (e, d) =>
          cItMin w * (dealt.filter fun x => x.2.2 == e).length ≤ poolShare budget d es.length)
      let len := codeLen kind w ents es dealt
      let foreign (n : Nat) : Bool := es.any fun e => s.engRadio e n
      if eerr then stop cells 2
      else if !(first (ents.headD [])) && cNent w != 0 then .skip
      else if jKind w != kind || cNent w == 0 || es.isEmpty || !okMem || !decodeOk || (!radio && len > longestRun fun n => !(foreign n)) ||
          !(ents.all fun e => if kind == 9 then polarOk e else s.entOk (kind == 7) e) then stop cells 3
      else if !radio && s.leftoverEnd foreign len < s.clk.cyc + len then .skip
      else if hqErr && kind == 7 && ents.any fun e => (s.hqFind e).isSome then stop cells 2
      else
        let reads := ents.map fun e => match kind with
          | 7 => (eIn e, eG e)
          | 8 => (eIn e, cdiv (eTbs e) 8)
          | _ => if pType e ≥ 2 then (pIn e, pE e) else (pIn e, cdiv (pA e) 8)
        .codeInputs part (cluster / 2) (stop cells 2) reads [] fun inputs => .get fun t =>
          let llrs := (ents.zip inputs).map fun (e, b) => if kind == 7 then descrambled (eCinit e) b else []
          let job : CodeJob := {
            words := w
            radio := radio
            stat := stat
            ents := ents
            engines := es
            main := es.zipIdx.map fun (_, d) => poolShare budget d es.length
            spill := es.zipIdx.map fun (_, d) => poolShare (cSpill w) d es.length
            blocks := dealt.map fun (i, r, eng) =>
              { ent := i, idx := r, eng := eng,
                llr := if kind == 7 then t.combined (ents.getD i []) (llrs.getD i []) r else [],
                done := false, iters := 0, stop := 0, spilled := false, pass := false, bits := [] }
            cells := cells
            inputs := inputs
            flags := ents.map fun e =>
              let hit := (t.hqFind e).isSome
              let other := (t.cellsAt (eCell e)).hq.any fun h => h.rnti == eRnti e && h.hid == eHid e
              (!hit && (other || eRv e == 0), !hit && !other && eRv e != 0)
            waiting := false
            writing := false
            endTick := 0 }
          let go : Act := .all [
            .setCjobs key (some job),
            .when (!radio) (.modHeldCode fun q => q.eraseP fun h => h.place == key),
            .each es fun e => .setF (R.codeEngStat e) F.codeEngStat_BUSY (if dealt.any fun x => x.2.2 == e then 1 else 0)]
          if radio then go else .charge (codeCharge kind w ents) go .skip) (dieSrc (cluster / 2))

/-- Dispatch of a coding job of a kind from its cluster's queue (R212): the queue's jobs go in order, so that a job in step 1 is looked at
again before the next, and a manager job that an overrun aborted comes first (R224). -/
def Act.codeDispatch (cluster kind : Nat) (radio : Bool) (desc stat : Nat) (cells0 : List Nat) (first : List Nat → Bool) (hqErr : Bool) : Act := .get fun s =>
  let key := 4 * cluster + (kind - 7)
  match s.cjobsAt key with
  | some j => .when (j.waiting && j.radio == radio) (.codeBegin cluster kind radio j.words j.stat j.cells first hqErr (some j.engines))
  | none =>
    .when ((clusterEngines cluster kind).any fun e => s.engRadio e s.stitch == radio) (
      match s.heldCode.find? fun h => !radio && h.place == key with
      | some h => .codeBegin cluster kind radio h.words h.stat h.cells first hqErr none
      | none => .readMem (if radio then 0x101 else 0x100) 5 desc 64 (fun b err =>
          if err then .codeRefuse radio cells0 2 else .codeBegin cluster kind radio (wordsFrom b 8) stat cells0 first hqErr none)
          (dieSrc (cluster / 2)))

/-- A polar row takes jobs that its type leads; a reserved TYPE is refused whichever row takes it (R212). -/
def polarFirst (t : Nat) (e : List Nat) : Bool := pType e == t || pType e > 3

/-- LDPC_DECODE_JOB (R210-R212, R215). -/
def execLdpcDecodeJob (cluster : Nat) (radio : Bool) (desc stat : Nat) (hqErr : Bool) (s : State) : Out :=
  Act.out s <| .codeDispatch cluster 7 radio desc stat [] (fun _ => true) hqErr
/-- LDPC_ENCODE_JOB (R212, R219). -/
def execLdpcEncodeJob (cluster : Nat) (radio : Bool) (desc stat : Nat) (s : State) : Out :=
  Act.out s <| .codeDispatch cluster 8 radio desc stat [] (fun _ => true) false
/-- DCI_ENCODE: a polar job whose first entry encodes a DCI (R220). -/
def execDciEncode (cluster : Nat) (radio : Bool) (desc stat : Nat) (cells : List Nat) (s : State) : Out :=
  Act.out s <| .codeDispatch cluster 9 radio desc stat cells (polarFirst 0) false
/-- BCH_ENCODE. -/
def execBchEncode (cluster : Nat) (radio : Bool) (desc stat : Nat) (cells : List Nat) (s : State) : Out :=
  Act.out s <| .codeDispatch cluster 9 radio desc stat cells (polarFirst 1) false
/-- UCI_POLAR_DECODE. -/
def execUciPolarDecode (cluster : Nat) (radio : Bool) (desc stat : Nat) (cells : List Nat) (s : State) : Out :=
  Act.out s <| .codeDispatch cluster 9 radio desc stat cells (polarFirst 2) false
/-- UCI_REED_MULLER_DECODE. -/
def execUciReedMullerDecode (cluster : Nat) (radio : Bool) (desc stat : Nat) (cells : List Nat) (s : State) : Out :=
  Act.out s <| .codeDispatch cluster 9 radio desc stat cells (polarFirst 3) false

/-! ### Blocks (R207-R211, R219, R220) -/

/-- The CRC of a block after its hard decisions: CB CRC when C > 1, TB CRC when C = 1. -/
def blockCrcOk (e : List Nat) (hard : List Nat) : Bool :=
  let g := eSeg e
  let k := hard.take g.Kp
  if g.C > 1 then crcRem 24 crc24B k == 0 else tbCrc (eTbs e) k == 0

/-- Decoding of one block under its decoder's pools (R207-R210), on the base graphs of TS 38.212, which the spec does not repeat (log 26). -/
def decodeBlock (w e : List Nat) (b : CodeBlk) (after main spill : Nat) : CodeBlk × Grant :=
  let g := eSeg e
  let lay := segLayers (eBg e) g (eK0 e) (eE e b.idx)
  let x := decoderIn g b.llr
  let hard (k : Nat) : List Nat := ldpcHard (eBg e) g.Zc lay (cOffset w) x k
  let zero (k : Nat) : Bool := syndromeZero g.Zc (blockRows (eBg e) g.Zc lay) (hard k)
  let conv (k : Nat) : Bool := match cEt w with
    | 0 => false
    | 1 => zero k
    | _ => zero k || blockCrcOk e (hard k)
  let r := grantLoop (cItMin w) (cItMax w) after conv 33 ⟨main, spill, 0, stopNone, false⟩
  let h := (hard r.iters).take g.Kp
  ({ b with done := true, iters := r.iters, stop := r.stop, spilled := r.spilled, pass := blockCrcOk e h, bits := h }, r)

/-- The bits a block of an encode entry carries: its part of the TB with TB CRC, its CB CRC, filler 0. -/
def encodeInput (e : List Nat) (payload : List Byte) (r : Nat) : List Nat :=
  let g := eSeg e
  let tb := unpackLsb (eTbs e) payload
  let all := tb ++ msbBits (tbCrcLen (eTbs e)) (tbCrc (eTbs e) tb)
  let n := g.Kp - g.crcCb
  let part := (all.drop (n * r)).take n
  let withCrc := if g.C > 1 then part ++ msbBits 24 (crcRem 24 crc24B part) else part
  withCrc ++ List.replicate (g.K - g.Kp) 0

/-- The codeword of a block of an encode entry. -/
def encodeWord (e : List Nat) (payload : List Byte) (r : Nat) : List Nat := ldpcCode (eBg e) (eSeg e).Zc (encodeInput e payload r)

/-- The checker of R219: the codeword times the parity-check matrix is zero. -/
def encodeChecks (e : List Nat) (payload : List Byte) (r : Nat) : Bool :=
  syndromeZero (eSeg e).Zc (Config.baseGraph (eBg e) (eSeg e).Zc) (encodeWord e payload r)

/-- The rate-matched bits of a block of an encode entry (R219); the first 2 Zc bits of a codeword are not in the circular buffer. -/
def encodeBlock (e : List Nat) (payload : List Byte) (r : Nat) : List Nat :=
  let g := eSeg e
  let d := ((encodeWord e payload r).drop (2 * g.Zc)).toArray
  interleave (eQm e) ((segPos g (eK0 e) (eE e r)).map fun p => d.getD p 0 % 2) 0

/-! ### Polar and short blocks (R220; what TS 38.212 adds is log 26) -/

def xorBits (a b : List Nat) : List Nat := (a.zip b).map fun (x, y) => (x + y) % 2

/-- A DCI with its CRC: 24 ones stand before the payload for the CRC, whose last 16 bits the RNTI masks. -/
def dciBits (rnti : Nat) (a : List Nat) : List Nat :=
  let c := crcRem 24 crc24C (List.replicate 24 1 ++ a)
  a ++ msbBits 24 (c ^^^ rnti % 65536)

def bchBits (a : List Nat) : List Nat := a ++ msbBits 24 (crcRem 24 crc24C a)

/-- CRC of a UCI: length and generator. -/
def uciCrc (a : Nat) : Nat × Nat := if a ≤ 19 then (6, crc6P) else (11, crc11P)

/-- Segments of a UCI of A bits in E. -/
def uciSegs (a e : Nat) : Nat := if a ≥ 1013 || (a ≥ 360 && e ≥ 1088) then 2 else 1

/-- One segment: the best candidate whose CRC passes, else the best: payload bits, whether it passed, metric. -/
def uciSegment (crc : Nat × Nat) (k list : Nat) (x : List Int) : List Nat × Bool × Nat :=
  let cs := (Config.polarList (k + crc.1) x.length list x).map fun c => ((List.range (k + crc.1)).map fun i => c.1.getD i 0 % 2, c.2)
  match cs.find? fun c => crcRem crc.1 crc.2 c.1 == 0 with
  | some c => (c.1.take k, true, c.2)
  | none => match cs with
    | c :: _ => (c.1.take k, false, c.2)
    | [] => (List.replicate k 0, false, 0)

/-- A polar UCI: bits, CRC_PASS, METRIC; the front of the first of two segments is filled with a 0 when A is odd. -/
def uciPolar (a e list : Nat) (x : List Int) : List Nat × Bool × Nat :=
  let n := uciSegs a e
  let k := cdiv a n
  let rs := (List.range n).map fun i => uciSegment (uciCrc a) k list ((x.drop (e / n * i)).take (e / n))
  ((rs.flatMap (·.1)).drop (n * k - a), rs.all (·.2.1), Config.polarMetric (rs.map (·.2.2)))

/-- Correlation of E LLRs, folded on 32 places, with the codeword of a message of the (32, A) code. -/
def rmCorr (a : Nat) (x : List Int) (m : Nat) : Int :=
  (x.zipIdx.map fun (v, i) =>
    if ((List.range a).filter fun c => m.testBit c && Config.rmBasis (i % 32) c).length % 2 == 1 then -v else v).sum

/-- Maximum-likelihood decoding of a short block: bits and metric. -/
def rmDecode (a e : Nat) (x : List Int) : List Nat × Nat :=
  let best := (List.range (2 ^ a)).foldl (fun (b : Nat × Int) m => if rmCorr a x m > b.2 then (m, rmCorr a x m) else b) (0, rmCorr a x 0)
  ((List.range a).map fun i => best.1 / 2 ^ i % 2, Config.rmMetric best.2 e)

/-- A polar entry: bits out, CRC_PASS, METRIC. -/
def polarRun (e : List Nat) (input : List Byte) : List Nat × Bool × Nat :=
  if pType e < 2 then
    let a := unpackLsb (pA e) input
    let c := Config.polarCode (pType e) (pE e) (if pType e == 0 then dciBits (pRnti e) a else bchBits a)
    let out := (List.range (pE e)).map fun i => c.getD i 0 % 2
    (if pScr e then xorBits out (gold (pCinit e) (pE e)) else out, false, 0)
  else
    let x := if pScr e then descrambled (pCinit e) input else input.map llrOf
    if pType e == 2 then
      let (b, ok, m) := uciPolar (pA e) (pE e) (2 ^ pList e) x
      (b, ok, m % 65536)
    else
      let (b, m) := rmDecode (pA e) (pE e) x
      (b, true, m % 65536)

/-! ### Results (R214, R215, R217, R218) -/

/-- Outcome of a decode entry from its blocks. -/
structure TbOut where
  pass : Bool
  bits : List Nat
  cbPass : Nat
  iters : Nat
  cut : Nat
  maxIt : Nat
  spilled : Bool

def tbOut (e : List Nat) (bs : List CodeBlk) : TbOut :=
  let g := eSeg e
  let all := bs.flatMap fun b => b.bits.take (g.Kp - g.crcCb)
  let ok := bs.all (·.pass) && tbCrc (eTbs e) (all.take (eTbs e + tbCrcLen (eTbs e))) == 0
  ⟨ok, all.take (eTbs e), bs.countP (·.pass), min 65535 (bs.map (·.iters)).sum, bs.countP fun b => b.stop == stopBudget,
    (bs.map (·.iters)).foldl max 0, bs.any (·.spilled)⟩

def b2n (b : Bool) (k : Nat) : Nat := if b then 2 ^ k else 0

/-- The HARQ outcome and result record of a decode entry, its output first (R214, R215, R217). The HARQ writes of a cell that an apply removed or replaced
meanwhile are dropped (R218): the job no longer lists it. -/
def Act.decodeResult (j : CodeJob) (i : Nat) : Act := .get fun s =>
  let e := j.ents.getD i []
  let c := eCell e
  let x := s.cellsAt c
  let bs := j.blocks.filter (·.ent == i)
  let o := tbOut e bs
  let part := if j.radio then 0x101 else 0x100
  let rest := x.hq.filter fun h => !(h.rnti == eRnti e && h.hid == eHid e)
  let used := rest.foldl (fun n h => n + h.bufs.length) 0
  let C := (eSeg e).C
  let live := x.applied && j.cells.contains c
  let lacks := !o.pass && live && used + C > x.pool
  let store := !o.pass && live && used + C ≤ x.pool
  let ent : HarqEnt := ⟨eRnti e, eHid e, eNdi e, eRv e, bs.map fun b => b.llr.map (hqStore (s.hqFmt c)), 0⟩
  let count (f : Field) (n : Nat) : Act := .cellInc c R.codeCellCnt f n
  let fl := j.flags.getD i (false, false)
  .all [
    .when o.pass (.writeMem part 5 (eOut e) (packLsb o.bits) (fun _ => .skip) (reqSrc (.coding (j.engines.headD 0)))),
    .when live (.setHq c (if store then rest ++ [ent] else rest)),
    .when (!o.pass) (count F.codeCellCnt_CRC_FAIL 1),
    count F.codeCellCnt_BUDGET_CUT o.cut,
    .when o.spilled (count F.codeCellCnt_SPILLED 1),
    .when lacks (count F.codeCellCnt_HQ_NOSTORE 1),
    .when fl.2 (count F.codeCellCnt_HQ_MISS 1),
    .writeMem part 5 (cResBase j.words + 16 * i) (wordBytes [
      BitVec.ofNat 64 (2 ^ 63 + b2n o.pass 62 + b2n fl.1 61 + b2n store 60 + b2n lacks 59 + b2n fl.2 58 + b2n o.spilled 57 +
        o.cbPass % 65536 * 2 ^ 32 + C % 65536 * 2 ^ 16 + o.iters),
      BitVec.ofNat 64 (o.cut % 65536 * 2 ^ 48 + o.maxIt % 256 * 2 ^ 40)]) (fun _ => .skip) (reqSrc (.coding (j.engines.headD 0)))]

/-- What R215 frees takes effect before any store of the job (R218): entries of TBs that passed, and of new data. -/
def Act.decodeFrees (j : CodeJob) : Act := .each j.ents.zipIdx fun (e, i) => .get fun s =>
  let o := tbOut e (j.blocks.filter (·.ent == i))
  let h := (s.cellsAt (eCell e)).hq
  let h2 := h.filter fun x => !(x.rnti == eRnti e && x.hid == eHid e && (o.pass || x.ndi != eNdi e))
  .when (h2.length != h.length && j.cells.contains (eCell e)) (.setHq (eCell e) h2)

/-- Output and result record of an encode or a polar entry. -/
def Act.encodeResult (j : CodeJob) (kind i : Nat) : Act :=
  let e := j.ents.getD i []
  let part := if j.radio then 0x101 else 0x100
  let input := j.inputs.getD i []
  let p := polarRun e input
  let out := if kind == 8 then
      let f := (List.range (eSeg e).C).flatMap fun r => encodeBlock e input r
      packLsb (xorBits f (gold (eCinit e) f.length))
    else packLsb p.1
  let w0 := if kind == 9 && pType e ≥ 2 then 2 ^ 63 + b2n p.2.1 62 + p.2.2 else 2 ^ 63
  .all [
    .writeMem part 5 (if kind == 8 then eOut e else pOut e) out (fun _ => .skip) (reqSrc (.coding (j.engines.headD 0))),
    .writeMem part 5 (cResBase j.words + 16 * i) (wordBytes [BitVec.ofNat 64 w0, 0]) (fun _ => .skip) (reqSrc (.coding (j.engines.headD 0)))]

/-- Every fence of a coding engine; the second of an encoder or polar pair is recorded and raised (R222, R223). -/
def Act.codeFence (e : Nat) : Act := .get fun s =>
  let other := if e % 2 == 0 then e + 1 else e - 1
  .all [
    .setF (R.codeEngStat e) F.codeEngStat_SUSPECT 1,
    .setF (R.codeEngStat e) F.codeEngStat_FENCE 1,
    .when (e < 24 && !(s.flag (R.codeEngStat e) F.codeEngStat_FENCE)) (.modLast fun l => { l with newFence := e :: l.newFence }),
    .when (e ≥ 24 && !(s.flag (R.codeEngStat e) F.codeEngStat_FENCE) && s.flag (R.codeEngStat other) F.codeEngStat_FENCE)
      (.all [.record 0x00 0x101 0x4803 [BitVec.ofNat 64 e, 3], .attnRadio])]

/-- The job key and job in which an engine works. -/
def State.jobOf (s : State) (e : Nat) : Option (Nat × CodeJob) :=
  (List.range 16).findSome? fun k => match s.cjobsAt k with
    | some j => if j.engines.contains e then some (k, j) else none
    | none => none

/-- CODE_BLOCK_DONE: the engine's next block is worked; with the job's last block step 4 begins and results, outputs and HARQ writes
are made in entry order (R209, R214, R221). A check failure, the parity-check syndrome of a codeword among them, aborts the job (R219,
R222). `ce`: words corrected in the engine's memories meanwhile. -/
def execCodeBlockDone (engine : Nat) (checkFail : Bool) (ce : Nat) (s : State) : Out := Act.out s <|
  match s.jobOf engine with
  | none => .skip
  | some (k, j) =>
    let kind := jKind j.words
    let mine := j.blocks.filter fun b => b.eng == engine && !b.done
    match mine.head? with
    | none => .skip
    | some b =>
      if checkFail || (kind == 8 && !(encodeChecks (j.ents.getD b.ent []) (j.inputs.getD b.ent []) b.idx)) then .all [
        .incF (R.codeEngCnt engine) F.codeEngCnt_MEM_CE ce,
        .dropCodeJob k,
        .incF (R.codeEngCnt engine) F.codeEngCnt_CHK_FAIL,
        .codeFence engine,
        .codeRefuse j.radio j.cells 3]
      else
        let d := (j.engines.idxOf engine)
        let (b2, g) := if kind == 7 then decodeBlock j.words (j.ents.getD b.ent []) b (mine.length - 1) (j.main.getD d 0) (j.spill.getD d 0)
          else ({ b with done := true, pass := true }, ⟨j.main.getD d 0, j.spill.getD d 0, 0, stopNone, false⟩)
        let j2 : CodeJob := { j with
          blocks := j.blocks.map fun x => if x.ent == b.ent && x.idx == b.idx then b2 else x
          main := j.main.set d g.main
          spill := j.spill.set d g.spill }
        .all [
          .incF (R.codeEngCnt engine) F.codeEngCnt_MEM_CE ce,
          .incF (R.codeEngCnt engine) F.codeEngCnt_BLOCKS,
          .pmc none 8 0 1 (if j.radio then 0x101 else 0x100) 5,
          .pmc none 8 1 g.iters (if j.radio then 0x101 else 0x100) 5,
          .when (g.stop == stopBudget) (.pmc none 8 2 1 (if j.radio then 0x101 else 0x100) 5),
          .when (mine.length == 1) (.setF (R.codeEngStat engine) F.codeEngStat_BUSY 0),
          if j2.blocks.all (·.done) then .all [
            .setCjobs k (some { j2 with writing := true, endTick := s.tick }),
            .when (kind == 7) (.decodeFrees j2),
            .each (List.range j2.ents.length) fun i => if kind == 7 then .decodeResult j2 i else .encodeResult j2 kind i]
          else .setCjobs k (some j2)]

/-- CODING_STATUS_RECORD: status record, then the signal (R221). -/
def execCodingStatusRecord (cluster kind : Nat) (s : State) : Out := Act.out s <|
  let k := 4 * cluster + (kind - 7)
  match s.cjobsAt k with
  | none => .skip
  | some j => .when j.writing (
      let part := if j.radio then 0x101 else 0x100
      let cut := min 65535 (j.blocks.countP fun b => b.stop == stopBudget)
      let spillUsed := min 65535 (cSpill j.words - j.spill.sum)
      let iters := min (2 ^ 32 - 1) (j.blocks.map (·.iters)).sum
      .all [
        .writeMem part 5 (j.stat + 32 * jStatSel j.words) (wordBytes [
          BitVec.ofNat 64 (jId j.words), BitVec.ofNat 64 (cut * 2 ^ 48 + spillUsed * 2 ^ 32 + iters), BitVec.ofNat 64 j.endTick,
          BitVec.ofNat 64 (2 ^ 63)]) (fun _ => .skip) (reqSrc (.coding (j.engines.headD 0))),
        .dropCodeJob k,
        .when (cSigEn j.words) (.signal part (jSigIdx j.words) (.coding (j.engines.headD 0)) j.cells (jId j.words) 0)])

/-- CODING_JOB_OVERRUN: a job that has not reached step 4 is aborted; a radio job's cells are reset with cause 0x06, a manager job is
dispatched again later (R198, R224). -/
def execCodingJobOverrun (cluster kind : Nat) (s : State) : Out := Act.out s <|
  let k := 4 * cluster + (kind - 7)
  match s.cjobsAt k with
  | none => .skip
  | some j => .when (!j.writing) (.all [
      .when (!j.radio) (.modHeldCode (· ++ [⟨k, j.words, j.stat, j.cells⟩])),
      .dropCodeJob k,
      .codeRefuse j.radio j.cells 6])

/-- ENGINE_SELFTEST: a fenced engine or detector (by Last engine index) that fails its self-test enters the soft retirement map (R222,
R237). A pass leaves it fenced; the health scores have no unit for it. -/
def execEngineSelftest (engine : Nat) (pass : Bool) (s : State) : Out := Act.out s <|
  if engine < 40 then
    .when (s.flag (R.codeEngStat engine) F.codeEngStat_SUSPECT && !pass)
      (.all [.setF (R.codeEngStat engine) F.codeEngStat_RETIRE_PEND 1, .retireBit (416 + engine)])
  else .when (s.detsAt (engine - 56) && 56 ≤ engine && !pass) (.retireBit (416 + engine))

/-- HARQ_TTL_EXPIRY: an entry not written for HQ_TTL slots is freed (R217). -/
def execHarqTtlExpiry (cell rnti harqId : Nat) (s : State) : Out := Act.out s <|
  .when ((s.cellsAt cell).hq.any fun h => h.rnti == rnti && h.hid == harqId)
    (.setHq cell ((s.cellsAt cell).hq.filter fun h => !(h.rnti == rnti && h.hid == harqId)))

end Sys2Proof.Machine
end

