-- ==== Sys2Proof/Machine/Memory.lean ====
section
/-! DEFINITION. Memory accesses by requester, patrol scrub, atomics and the UE log (R114-R138). -/

namespace Sys2Proof.Machine

/-- What an error response does to its requester (R130, R31, R157, R197, R221, R290). A Retriever request is answered by its own row,
and no partition is faulted for BAR2. -/
def Act.memError (req : Requester) : Act := .get fun s =>
  match req with
  | .core c x => .coreFault c x 9 (s.fld (R.coreCtxPc c x) F.coreCtxPc_PC - 64)
  | .dsp d => .dspFaultNow d 7
  | .coding e => .each (List.range 16) fun k => .get fun t =>
      match t.cjobsAt k with
      | some j => .when (j.engines.contains e) (.all [.dropCodeJob k, .codeRefuse j.radio j.cells 2])
      | none => .skip
  | .fronthaul cells => .cellResets cells 2
  | .hostDma p => .dmaFault p
  | .bar2 => .emit .completerAbort
  | .fabric => .skip
  | .uhlile p => .sliceFault p 0x02 0 0 0

/-- Errors that arose in lines since they were last written, each line named by its DPA (R118, R125). -/
def Act.upsets (l : List (Nat × Upset)) : Act := .each l fun (a, u) => .upset a u

/-- A corrected word or line whose write-back is dropped is counted all the same (R128). -/
def Act.countFixed (a : Nat) : Act := .get fun s =>
  match s.dpaKind a with
  | .lp d => .when (match rsVerdict (s.lpErrAt (a / 64)) with | .fix _ => true | _ => false) (.all [
      .incF (R.memEccCnt d) F.memEccCnt_LP_CE,
      .incF (R.memCh d (s.lpChannel d a)) F.memCh_CE,
      .healthEv 1 (64 * d + s.lpChannel d a) 0])
  | .kennel => .each (wordsOf (a / 64 * 64) 64) fun w =>
      .when (match wordVerdict (s.errsAt w) with | .fixed _ => true | _ => false) (.all [
        .incF (R.memEccCnt (dieOf a)) F.memEccCnt_KEN_CE,
        .incF (R.memKen (a / 0x40000000) (a / 0x20000000 % 2)) F.memKen_CE_WORDS])
  | _ => .skip

/-- Passes and progress of the patrol of a die, its lines taken in ascending order (R128, R137; log 25). -/
def Act.patrolProgress (a : Nat) : Act := .get fun s =>
  match s.dpaKind a with
  | .kennel => .when (a / 64 * 64 % 0x40000000 == 0x3FFFFFC0) (.modF (R.memScrub (dieOf a)) F.memScrub_KEN_PASSES (· + 1))
  | .lp d =>
    let x := a / 64 * 64 - lpBase d
    if x + 64 == s.lpSize d then
      .all [.modF (R.memScrub d) F.memScrub_LP_PASSES (· + 1), .setF (R.memScrub d) F.memScrub_LP_PROGRESS 0]
    else .setF (R.memScrub d) F.memScrub_LP_PROGRESS (x * 100 / max 1 (s.lpSize d))
  | _ => .skip

/-- PATROL_READ: one line; an uncorrectable one is logged and counted, and nothing is faulted (R128). -/
def execPatrolRead (dpa : Nat) (upset : List Upset) (raced : Bool) (s : State) : Out := Act.out s <|
  let a := dpa / 64 * 64
  let ok := match s.dpaKind a with
    | .kennel => true
    | .lp _ => true
    | _ => false
  .when ok (.all [
    .each upset fun u => .upset a u,
    .get fun t =>
      if t.lineFenced a then .skip
      else if t.lineBad a 64 then .ueEvent a 0x3FF true (t.lineAddrFail a 64) false
      else if raced then .countFixed a
      else .all [.lineCount false a 0x3FF 10, .lineFix a 64 0x3FF 10],
    .patrolProgress a])

/-- ATOMIC_OP: one operation at the home atomic unit of an aligned target (R134); an address outside the requester's space is a
violation (R29, R115). -/
def execAtomicOp (req : Requester) (addr : Nat) (op : AtomicKind) (s : State) : Out := Act.out s <|
  let part := s.reqPart req
  match s.locate part rightA (addr / atomicSize op * atomicSize op) (atomicSize op) with
  | some ((a, n) :: r) => .atomicAt a op part (reqMaster req) (fun old wrap err =>
      .all [.emit (.atomic req old wrap err), .when err (.memError req)])
      { reqSrc req with issued := issuedFor ((a, n) :: r) [(addr / atomicSize op * atomicSize op, n)] }
  | _ => .all [.violation part (s.dpaViol part (addr / atomicSize op * atomicSize op) (atomicSize op)), .emit (.atomic req 0 false false)]

/-- The write of MEM.UE_CTL with CLEAR set: every entry invalid, COUNT 0, LOST kept (R138). -/
def Act.ueClear (die : Nat) : Act := .all [
  .each (List.range 8) fun e => .setF (R.memUeLog0 die e) F.memUeLog0_V 0,
  .setF (R.memUeCtl die) F.memUeCtl_COUNT 0]

/-- UE_LOG_CLEAR: a write of MEM.UE_CTL; without CLEAR it has no effect (R138). -/
def execUeLogClear (die : Nat) (val : Word) (s : State) : Out := Act.out s <|
  .when (die < 2 && F.memUeCtl_CLEAR.get val == 1) (.ueClear die)

end Sys2Proof.Machine
end

