-- ==== Sys2Proof/Machine/Time.lean ====
section
/-! DEFINITION. The time unit: the two forms of the clock, the PTP checks, the servo, the states, frequency and the sideband pins
(R240-R260, R470). -/

namespace Sys2Proof.Machine

def rateMax : Int := 10995116

/-- A new RATE from this tick on, clamped (R253); the SN clock keeps its value at the tick. -/
def Act.setRate (r : Int) : Act := .get fun s =>
  let c := if r > rateMax then rateMax else if r < -rateMax then -rateMax else r
  .all [
    .modTime fun t => { t with
      sn := s.snNow
      snTick := s.tick
      hist := if s.timeState == stLocked then (s.tick - t.spanFrom, s.rate) :: t.hist else t.hist
      spanFrom := s.tick },
    .setF R.timeServo F.timeServo_RATE (c % (2 ^ 32 : Nat)).toNat]

/-! ### States (R249, R255-R259) -/

/-- clockClass advertised (R259). -/
def Act.timeClass : Act := .get fun s =>
  let st := s.timeState
  .setF R.timeStat F.timeStat_CLASS
    (if st == stLocked then
      (if s.fld R.timeCfg F.timeCfg_SRC == 1 then s.fld R.timePps F.timePps_PPS_CLASS
      else match s.time.masters.find? fun m => some m.id == s.time.sel with
        | some m => m.clockClass
        | none => s.fld R.timeStat F.timeStat_CLASS)
    else if st == stHoldover then 135 else 248)

/-- The QL of R244's table for ports other than the slave port. -/
def State.qlTx (s : State) : Nat :=
  let sel := s.fld R.timeFreq F.timeFreq_SEL
  if s.timeState == stRecovery then 0xF
  else if sel == 1 then s.fld R.timeFreq F.timeFreq_QL_RX
  else if sel == 2 then s.fld R.timeFreq F.timeFreq_QL_10M
  else match s.time.dpllLoss with
    | some k => if s.tick > k + s.fld R.timeHold F.timeHold_HOLD_FREQ * 250000000 then 0xF
        else if s.flag R.timeCfg F.timeCfg_EEC_OPT then 0xA else 0xB
    | none => 0xF

def State.slavePort (s : State) : Nat := s.fld R.timeCfg F.timeCfg_SLV_PORT

/-- A port may be the slave port: a fabric port or an LLS-C3 fronthaul port (R240). -/
def State.slaveFit (s : State) (p : Nat) : Bool :=
  s.fld (R.fhPortCfg p) F.fhPortCfg_USE == 2 || (s.fld (R.fhPortCfg p) F.fhPortCfg_USE == 1 && s.fld (R.fhPortCfg p) F.fhPortCfg_LLS == 2)

/-- Ports that send ESMC: every port in use (R244; log 27). -/
def State.esmcPorts (s : State) : List Nat := (List.range 48).filter fun p => s.fld (R.fhPortCfg p) F.fhPortCfg_USE != 0

/-- TIME.FREQ.QL_TX follows the QL; every port that sends it owes an event PDU for a change (R244). -/
def Act.qlUpdate : Act := .get fun s => .when (s.fld R.timeFreq F.timeFreq_QL_TX != s.qlTx) (.all [
  .setF R.timeFreq F.timeFreq_QL_TX s.qlTx,
  .modTime fun t => { t with qlOwed := s.esmcPorts.filter (· != s.slavePort) }])

/-- The unit enters a state; the latched SN seconds are zero while the FR form is in force (R249, R260). -/
def Act.timeEnter (st : Nat) : Act := .all [
  .setF R.timeStat F.timeStat_STATE st,
  .setF R.timeStat F.timeStat_FORM (if st == stLocked || st == stHoldover then 1 else 0),
  .when (!(st == stLocked || st == stHoldover)) (.setF R.timeLSec F.timeLSec_SEC 0),
  .timeClass,
  .qlUpdate]

/-- The servo's samples and its lock count are discarded; OFFSET and RATE stay (R255). -/
def Act.timeRestart : Act := .modTime fun t => { t with prev := none, rej := [], lock := 0, wantStep := false }

/-- A time reference is qualified (R249, R256). -/
def Act.timeQualified : Act := .get fun s => .all [
  .setF R.timeStat F.timeStat_TIME_QUAL 1,
  .when (s.timeState == stFrStart || s.timeState == stRecovery) (.all [.timeRestart, .timeEnter stAcquire])]

/-- From RECOVERY the unit passes on while its reference is still qualified (R256). -/
def Act.timeFollow : Act := .get fun s =>
  .when (s.timeState == stRecovery && s.flag R.timeStat F.timeStat_TIME_QUAL) .timeQualified

/-- The mean of RATE over the most recent 1,000 s in LOCKED (R255): sum of RATE by tick and ticks taken. -/
def histMean : List (Nat × Int) → Nat → Int × Nat
  | [], _ => (0, 0)
  | (n, r) :: l, need =>
    let k := min n need
    let (x, m) := histMean l (need - k)
    (x + k * r, m + k)

/-- The SERVO offset as records carry it (log 27). -/
def State.timeOffsetWord (s : State) : Word := BitVec.ofInt 64 (sfld s R.timeServo F.timeServo_OFFSET)

/-- A record of the time unit: offset and STATE (R414). -/
def Act.timeRecord (code : Nat) : Act := .get fun s =>
  .record 0x02 0x3FF code [s.timeOffsetWord, BitVec.ofNat 64 s.timeState]

/-- LOCKED to HOLDOVER (R255). -/
def Act.holdoverEntry : Act := .get fun s =>
  let t := s.time
  let (x, m) := histMean ((s.tick - t.spanFrom, s.rate) :: t.hist) 250000000000
  .all [
    .when (m != 0) (.setRate (divNear x m)),
    .get fun u => .modTime fun t => { t with integ := u.rate * 2 ^ 40, lossTick := u.tick, lock := 0, rej := [] },
    .incF R.timeCnt2 F.timeCnt2_HOLDOVERS,
    .timeEnter stHoldover,
    .timeRecord 0x6002]

/-- The time reference is lost or changed (R255, R257). A recovery that the same sample called for wins (R258). -/
def Act.timeLoss : Act := .get fun s => .all [
  .setF R.timeStat F.timeStat_TIME_QUAL 0,
  if s.timeState == stLocked then .when s.time.wantRec.isNone .holdoverEntry
  else if s.timeState == stAcquire then
    .all [.timeRestart, .timeEnter (if s.flag R.timeStat F.timeStat_ALARM then stRecovery else stFrStart)]
  else .modTime fun t => { t with lock := 0 }]

/-! ### The servo (R251, R252, R470). Offsets and delays stand in 2^-17 ns. -/

def ns17 (n : Nat) : Int := (n : Int) * 2 ^ 17

/-- OFFSET and FR_REF after an accepted sample in ACQUIRE. -/
def Act.servoOffset (o : Int) (fr2 : Nat) : Act := .get fun s =>
  .modTime fun t => { t with off := t.off + s.rate * ((fr2 : Int) - t.frRef) - o * 2 ^ 23, frRef := fr2 }

/-- An accepted sample is applied by the state's rule (R470); `dt` is Δ, `pred` whether the sample lies within LOCK_WIN of the
prediction. -/
def Act.servoApply (o t2 : Int) (fr2 : Nat) (dt : Int) (within first : Bool) : Act := .get fun s =>
  let lockN := s.fld R.timeBound F.timeBound_LOCK_N
  let n := if within then s.time.lock + 1 else 0
  if s.timeState == stAcquire then .all [
    .servoOffset o fr2,
    .when (!first && dt > 0) (.all [
      .get fun u => .setRate (divNear (u.rate * dt - o * 2 ^ 40) dt),
      .get fun u => .modTime fun t => { t with integ := u.rate * 2 ^ 40 }]),
    .modTime fun t => { t with
      prev := some (o, t2 - o)
      lock := if first then 0 else n
      wantStep := t.wantStep || (!first && n ≥ lockN) }]
  else if o > ns17 1000 || o < -ns17 1000 then
    .all [
      .modTime fun t => { t with prev := some (o, t2), wantRec := some (o / 2 ^ 17) },
      -- a loss in this sample's tick counts no HOLDOVERS (R258)
      .when (s.timeState == stHoldover && s.time.lossTick == s.tick) (.modF R.timeCnt2 F.timeCnt2_HOLDOVERS (· - 1))]
  else if s.timeState == stLocked then
    let lim : Int := 2 ^ 80 / 100000
    let i0 := s.time.integ - divNear (o * dt * 2 ^ 36) (10 ^ 18)
    let i := if i0 > lim then lim else if i0 < -lim then -lim else i0
    .all [
      .modTime fun t => { t with prev := some (o, t2), integ := i },
      .setRate (divNear (i * 10 ^ 9 - o * 2 ^ 59) (2 ^ 40 * 10 ^ 9))]
  else .all [
    .modTime fun t => { t with prev := some (o, t2), lock := n },
    .when (n ≥ lockN) (.all [
      .modTime fun t => { t with lock := 0, spanFrom := s.tick },
      .setF R.timeStat F.timeStat_TIME_QUAL 1,
      .timeEnter stLocked])]

def Act.sampleAccept (o t2 : Int) (fr2 : Nat) (dt : Int) (within first : Bool) : Act := .all [
  .setF R.timeServo F.timeServo_OFFSET (satBits 32 (divNear o (2 ^ 15))),
  .modTime fun t => { t with rej := [] },
  .servoApply o t2 fr2 dt within first]

/-- A sample rejected for its rate or under the step bound (R251, R252). -/
def Act.sampleReject (rej : List Int) : Act := .all [
  .incF R.timeCnt F.timeCnt_SAMPLE_REJ,
  .modTime fun t => { t with rej := rej, lock := 0 }]

/-- One sample through the tests of R251. `t2` in 2^-17 ns on the reading in force at its arrival, `fr2` the FR count then. -/
def Act.timeSample (d o t2 : Int) (fr2 : Nat) : Act := .all [.timeFollow, .get fun s =>
  let win := ns17 (s.fld R.timeBound F.timeBound_LOCK_WIN)
  if s.timeState == stFrStart || s.timeState == stRecovery then .skip
  else if d < 0 || d > ns17 (s.fld R.timeBound F.timeBound_PD_MAX * 1000) then
    .all [.incF R.timeCnt F.timeCnt_PD_REJ, .modTime fun t => { t with rej := [], lock := 0 }]
  else match s.time.prev with
    | none => .sampleAccept o t2 fr2 0 true true
    | some (o0, p2) =>
      let dt := t2 - p2
      let acq := s.timeState == stAcquire
      -- o less the prediction, in 2^-97 ns
      let dev := if acq then o * 2 ^ 80 else (o - o0) * 2 ^ 80 - (s.rate * 2 ^ 40 - s.time.integ) * dt
      let bound := ns17 (s.fld R.timeBound F.timeBound_STEP_BOUND) * 2 ^ 80
      let within := -win * 2 ^ 80 ≤ dev && dev ≤ win * 2 ^ 80
      if !acq && (dev > bound || dev < -bound) then
        let n := s.fld R.timeBound F.timeBound_REJ_MAX
        let r := (dev :: s.time.rej).take n
        let hi := r.foldl max dev
        let lo := r.foldl min dev
        if r.length ≥ n && hi - lo ≤ win * 2 ^ 80 then
          .all [.incF R.timeCnt F.timeCnt_SAMPLE_REJ, .sampleAccept o t2 fr2 dt within false]
        else .sampleReject r
      else
        -- the rate the two samples imply, R251 (log 27)
        let x := (s.rate * dt - (o - (if acq then 0 else o0)) * 2 ^ 40) * 10 ^ 6
        let y := 11 * dt * 2 ^ 40
        if dt > 0 && (x > y || x < -y) then .sampleReject []
        else .sampleAccept o t2 fr2 dt within false]

/-! ### PTP messages (R240-R242, R250) -/

def State.ptpOn (s : State) : Bool := s.fld R.timeCfg F.timeCfg_SRC == 0

/-- A fronthaul port of LLS-C1 or LLS-C2 serves time (R240). -/
def State.masterPort (s : State) (p : Nat) : Bool :=
  s.fld (R.fhPortCfg p) F.fhPortCfg_USE == 1 && s.fld (R.fhPortCfg p) F.fhPortCfg_LLS < 2

/-- The module is a slave on a port. -/
def State.slaveOn (s : State) (p : Nat) : Bool := p == s.slavePort && s.slaveFit p && s.ptpOn

/-- A message for the slave: on a port that is neither slave nor master it is discarded and counted (R241); a master takes none of them,
and a slave none by another transport than its profile's (R240; log 27). -/
def Act.forSlave (m : PtpMsg) (count : Field) (k : Act) : Act := .get fun s =>
  if s.masterPort m.port then .skip
  else if !(s.slaveOn m.port) then .incF R.timeCnt count
  else .when (m.udp == (s.fld R.timeCfg F.timeCfg_PROFILE == 1)) k

/-- The master of lowest rank, the earlier on a tie (R240). -/
def bestMaster (l : List MasterSt) : Option Nat :=
  (l.foldl (fun b m => match b with
    | none => some m
    | some (x : MasterSt) => some (if m.rank < x.rank then m else x)) none).map (·.id)

/-- The masters change; a newly selected one starts afresh. -/
def Act.setMasters (l : List MasterSt) : Act := .all [
  .modTime fun t =>
    let b := bestMaster l
    if b == t.sel then { t with masters := l } else { t with masters := l, sel := b, lastSeq := none, sync := none, t12 := none, dreq := none },
  .timeClass]

/-- ANNOUNCE: the checks of R250, and the alternate BMCA over at most four foreign masters (R240; log 27). -/
def execAnnounce (m : PtpMsg) (s : State) : Out := Act.out s <| .forSlave m F.timeCnt_ANN_REJ (
  if m.domain != s.fld R.timeCfg F.timeCfg_DOMAIN || m.stepsRemoved ≥ 255 || m.sender == Config.clockId ||
      m.clockClass > Config.annClassLimit (s.fld R.timeCfg F.timeCfg_PROFILE) then .incF R.timeCnt F.timeCnt_ANN_REJ
  else
    let x : MasterSt := ⟨m.sender, m.clockClass, m.rank, m.stepsRemoved, m.gm⟩
    let l := s.time.masters
    let l2 := if l.any (·.id == m.sender) then l.map fun y => if y.id == m.sender then x else y
      else if l.length < 4 then l ++ [x] else l
    .all [.setMasters l2, .timeQualified])

/-- Sync checks common to both forms (R250). -/
def State.ptpSyncOk (s : State) (m : PtpMsg) : Bool :=
  m.domain == s.fld R.timeCfg F.timeCfg_DOMAIN && some m.sender == s.time.sel && m.corr < 10 ^ 9 * 2 ^ 16 && m.corr > -(10 ^ 9 * 2 ^ 16)

/-- The servo uses a stamp: one of the FR form serves acquisition only (R242). -/
def State.stampOk (s : State) (frStamp : Bool) : Bool := !(frStamp && s.onSn)

/-- SYNC: checked and stamped; a one-step Sync carries its origin timestamp (R241, R242, R250). -/
def execSync (m : PtpMsg) (s : State) : Out := Act.out s <| .forSlave m F.timeCnt_SYNC_REJ (
  let seqOk := match s.time.lastSeq with
    | none => true
    | some q => let d := (m.seqId + 65536 - q % 65536) % 65536; 1 ≤ d && d ≤ 256
  if !(s.ptpSyncOk m) || !seqOk then .incF R.timeCnt F.timeCnt_SYNC_REJ
  else if !(s.stampOk m.frStamp) then .modTime fun t => { t with lastSeq := some m.seqId }
  else if m.twoStep then .modTime fun t => { t with lastSeq := some m.seqId, sync := some (m.seqId, m.stamp, m.corr, s.tick) }
  else .modTime fun t => { t with lastSeq := some m.seqId, sync := none, t12 := some (m.origin + m.corr, m.stamp, s.fr) })

/-- FOLLOW_UP: the origin timestamp of its Sync, within 1 s (R250). -/
def execFollowUp (m : PtpMsg) (s : State) : Out := Act.out s <| .forSlave m F.timeCnt_SYNC_REJ (
  match s.time.sync with
  | some (q, t2, c, k) =>
    if !(s.ptpSyncOk m) || m.seqId != q || s.tick > k + 250000000 then .incF R.timeCnt F.timeCnt_SYNC_REJ
    else .modTime fun t => { t with sync := none, t12 := some (m.origin + m.corr + c, t2, 4 * k) }
  | none => .incF R.timeCnt F.timeCnt_SYNC_REJ)

/-- A PTP or ESMC frame sent: kinds 1 (PTP) and 2 (ESMC) of `Emit.frame`. -/
def Act.ptpSend (port msg : Nat) (vals : List Nat) : Act := .emit (.frame 1 port (msg :: vals) [])

/-- DELAY_REQ: the slave port sends a Delay_Req and keeps its transmit stamp (R251). -/
def execDelayReq (stamp : Int) (frStamp : Bool) (s : State) : Out := Act.out s <|
  .when (s.slaveOn s.slavePort) (.all [
    .ptpSend s.slavePort 1 [s.time.dseq],
    .modTime fun t => { t with
      dreq := if s.stampOk frStamp then some (t.dseq, stamp, s.tick) else none
      dseq := (t.dseq + 1) % 65536 }])

/-- DELAY_RESP: with the last complete Sync it makes a sample (R250, R251). -/
def execDelayResp (m : PtpMsg) (s : State) : Out := Act.out s <| .forSlave m F.timeCnt_SYNC_REJ (
  match s.time.dreq with
  | some (q, t3, k) =>
    if !m.reqMatch || m.seqId != q || s.tick > k + 250000000 then .incF R.timeCnt F.timeCnt_SYNC_REJ
    else .all [
      .modTime fun t => { t with dreq := none },
      match s.time.t12 with
      | some (t1, t2, fr2) =>
        let asym := sfld s (R.timePortAsym m.port) F.timePortAsym_ASYM * 2 ^ 14
        let a := t2 - t1 - asym
        let b := m.origin - m.corr - t3 + asym
        .timeSample (a + b) (a - b) (2 * t2) fr2
      | none => .skip]
  | none => .incF R.timeCnt F.timeCnt_SYNC_REJ)

/-- MASTER_DELAY_REQ: answered with the receive stamp; on a port that is neither master nor slave it is counted (R241). -/
def execMasterDelayReq (m : PtpMsg) (s : State) : Out := Act.out s <|
  if s.masterPort m.port then
    .when (m.domain == s.fld R.timeCfg F.timeCfg_DOMAIN && !m.udp) (.ptpSend m.port 2 [m.sender, m.seqId, m.stamp.toNat])
  else .when (!(s.slaveOn m.port)) (.incF R.timeCnt F.timeCnt_SYNC_REJ)

/-- MASTER_SYNC_TX: one-step Sync with the reading at its transmission (R241, R242). -/
def execMasterSyncTx (port : Nat) (s : State) : Out := Act.out s <|
  .when (s.masterPort port) (.ptpSend port 3 [s.fld R.timeCfg F.timeCfg_DOMAIN, s.readingNs])

/-- Announce fields after domain and clockClass, by the profile's rules for a boundary clock: stepsRemoved and what the selected master
says of the grandmaster, or the module's own (R259; log 27). -/
def State.annFields (s : State) : List Nat :=
  match s.time.masters.find? fun m => some m.id == s.time.sel with
  | some m => if s.timeState == stLocked && s.ptpOn then (m.steps + 1) :: m.gm else 0 :: Config.ownAnnounce
  | none => 0 :: Config.ownAnnounce

/-- MASTER_ANNOUNCE_TX: Announce with the clockClass of R259 (R241). -/
def execMasterAnnounceTx (port : Nat) (s : State) : Out := Act.out s <|
  .when (s.masterPort port) (.ptpSend port 4 (s.fld R.timeCfg F.timeCfg_DOMAIN :: s.fld R.timeStat F.timeStat_CLASS :: s.annFields))

/-! ### Step, recovery, losses (R252-R258) -/

/-- The step, if one is due: the SN clock starts at the FR reading of this tick (R252, R256); a recovery condition wins (R258). Stamps
of the FR form are no longer used (R242). Emission resumes with the first slot that begins at least one Last period later (R158). -/
def Act.timeStep : Act := .get fun s =>
  .when (s.time.wantStep && s.time.wantRec.isNone && s.timeState == stAcquire) (.all [
    .modTime fun t => { t with
      wantStep := false, lock := 0, rej := [], sn := s.frReading, snTick := s.tick, hist := [], spanFrom := s.tick,
      sync := none, t12 := none, dreq := none },
    .modF R.timeStat F.timeStat_STEPS (· + 1),
    .setF R.timeStat F.timeStat_ALARM 0,
    .timeEnter stLocked,
    .timeRecord 0x6003,
    .get fun u => .modRadio fun r => { r with resume := some (u.readingNs + 1000000) }])

/-- TIME_STEP. -/
def execTimeStep (s : State) : Out := Act.out s .timeStep

/-- RECOVERY_ENTRY: back to the FR form, the reading running on; alarm, record, attention, the radio held, every
armed barrier abandoned; L_SEC is zero while the FR form is in force (R254, R158, R260, R362). -/
def execRecoveryEntry (s : State) : Out := Act.out s <|
  .when (s.time.wantRec.isSome && (s.timeState == stLocked || s.timeState == stHoldover)) (.all [
    .modTime fun t => { t with off := s.snNow - (s.fr : Int) * 2 ^ 40, frRef := s.fr, wantRec := none },
    .timeRestart,
    .setF R.timeStat F.timeStat_ALARM 1,
    .incF R.timeCnt2 F.timeCnt2_RECOVERIES,
    .timeEnter stRecovery,
    .timeRecord 0x6801,
    .attnMgr,
    .attnRadio,
    .setF R.timeLSec F.timeLSec_SEC 0,
    .setF R.radioStat F.radioStat_HELD 1,
    .modRadio fun r => { r with resume := none },
    .ingressStop,
    .each s.bars fun e => .barAbandon e.1])

/-- TIME_REFERENCE_LOSS (R255). -/
def execTimeReferenceLoss (s : State) : Out := Act.out s .timeLoss

/-- ANNOUNCE_RECEIPT_TIMEOUT: the selected master is gone; without another the reference is lost (R241, R255). -/
def execAnnounceReceiptTimeout (s : State) : Out := Act.out s <|
  .when (s.ptpOn && s.time.sel.isSome) (.all [
    .setMasters (s.time.masters.filter fun m => some m.id != s.time.sel),
    .get fun u => .when u.time.sel.isNone .timeLoss])

/-- SAMPLE_TIMEOUT: no accepted sample for 2 s (R255). -/
def execSampleTimeout (s : State) : Out := Act.out s <|
  .when (s.timeState == stLocked || s.timeState == stAcquire) .timeLoss

/-- Seconds of holdover that the budget allows: HOLD_FREQ while a frequency reference is qualified, else HOLD_NONE (R255). -/
def State.holdBudget (s : State) : Nat :=
  if s.flag R.timeFreq F.timeFreq_SYNCE_QUAL || s.flag R.timeFreq F.timeFreq_REF10_QUAL then s.fld R.timeHold F.timeHold_HOLD_FREQ
  else s.fld R.timeHold F.timeHold_HOLD_NONE

/-- HOLDOVER_EXPIRY: the budget, counted from the loss, has run out; recovery follows at the next tick (R254, R255). -/
def execHoldoverExpiry (s : State) : Out := Act.out s <|
  .when (s.timeState == stHoldover && s.time.wantRec.isNone && s.tick ≥ s.time.lossTick + s.holdBudget * 250000000)
    (.modTime fun t => { t with wantRec := some ((sfld s R.timeServo F.timeServo_OFFSET) / 4) })

/-! ### The 1PPS pins (R245) -/

def ppsNear (from_ now : Nat) : Bool := from_ + 250000000 ≤ now + 12500 && now ≤ from_ + 250000000 + 12500

/-- The 1PPS input is disqualified. -/
def Act.ppsDisqualify : Act := .get fun s => .all [
  .setF R.timePps F.timePps_IN_QUAL 0,
  .modTime fun t => { t with ppsAt := none, ppsRun := 0, ppsBad := 0, ppsSec := none },
  .when (s.fld R.timeCfg F.timeCfg_SRC == 1) .timeLoss]

/-- A discarded or missing edge of the qualified input. -/
def Act.ppsBadEdge : Act := .get fun s =>
  if s.time.ppsBad ≥ 2 then .ppsDisqualify else .modTime fun t => { t with ppsBad := t.ppsBad + 1 }

/-- An accepted edge: IN_ERR, the second it names, and with the input qualified a sample (R245, R251, R319). -/
def Act.ppsAccept (stamp : Int) (run : Nat) : Act := .get fun s =>
  let sec : Int := 10 ^ 9 * 2 ^ 16
  let near := divNear stamp sec
  let trueSec := match s.time.ppsSec with
    | some n => (n : Int)
    | none => near
  let was := s.flag R.timePps F.timePps_IN_QUAL
  .all [
    .setF R.timePps F.timePps_IN_ERR (satBits 32 ((stamp - near * sec) / 2 ^ 16)),
    .modTime fun t => { t with ppsAt := some s.tick, ppsRun := run, ppsBad := 0, ppsSec := t.ppsSec.map (· + 1) },
    .when (run ≥ 3) (.setF R.timePps F.timePps_IN_QUAL 1),
    .when ((was || run ≥ 3) && s.fld R.timeCfg F.timeCfg_SRC == 1) .timeQualified,
    .when (was && s.fld R.timeCfg F.timeCfg_SRC == 1) (.timeSample 0 (2 * (stamp - trueSec * sec)) (2 * stamp) s.fr)]

/-- PPS_IN_EDGE: an edge of the input, stamped on the reading in force (R245). -/
def execPpsInEdge (stamp : Int) (s : State) : Out := Act.out s <|
  let t := s.time
  match t.ppsAt with
  | none => .modTime fun t => { t with ppsAt := some s.tick, ppsRun := 0 }
  | some k =>
    if ppsNear k s.tick then .ppsAccept stamp (if t.ppsRun == 0 then 2 else min 3 (t.ppsRun + 1))
    else .all [
      .incF R.timeCnt2 F.timeCnt2_PPS_IN_REJ,
      if s.flag R.timePps F.timePps_IN_QUAL then .ppsBadEdge
      else .modTime fun t => { t with ppsAt := some s.tick, ppsRun := 0, ppsSec := none }]

/-- PPS_IN_MISSING_EDGE: a candidate is dropped, or a missing edge counted; three in a row disqualify the input (R245). -/
def execPpsInMissingEdge (s : State) : Out := Act.out s <|
  if s.flag R.timePps F.timePps_IN_QUAL then .ppsBadEdge
  else .modTime fun t => { t with ppsAt := none, ppsRun := 0, ppsSec := none }

/-- A second, less the advance OUT_DLY, falls in this tick: the SN second, or that of the FR reading (R245). -/
def State.ppsDue (s : State) : Bool :=
  let step : Int := 4 * 2 ^ 40 + 4 * s.rate
  (s.reading + (s.fld R.timePps F.timePps_OUT_DLY : Int) * 2 ^ 40) % (10 ^ 9 * 2 ^ 40) < step

/-- PPS_OUT: the output rises at the second, advanced by OUT_DLY; in the FR form not while squelched (R245). -/
def execPpsOut (s : State) : Out := Act.out s <|
  .when (s.ppsDue && s.time.ppsUp.isNone && (s.onSn || !(s.flag R.timeCfg F.timeCfg_PPS_SQUELCH)))
    (.all [.modTime fun t => { t with ppsUp := some s.tick }, .emit (.pin 0 true)])

/-- The pulse ends 100 us after it rose (R245). -/
def Act.ppsFall : Act := .get fun s => match s.time.ppsUp with
  | some k => .when (s.tick ≥ k + 25000) (.all [.modTime fun t => { t with ppsUp := none }, .emit (.pin 0 false)])
  | none => .skip

/-! ### Frequency (R243, R244) -/

/-- The highest-priority qualified reference: 1 SyncE, 2 10 MHz, 0 none. -/
def State.freqBest (s : State) : Nat :=
  let a := s.flag R.timeFreq F.timeFreq_SYNCE_QUAL
  let b := s.flag R.timeFreq F.timeFreq_REF10_QUAL
  match s.fld R.timeCfg F.timeCfg_FREQ_PRI with
  | 0 => if a then 1 else if b then 2 else 0
  | 1 => if b then 2 else if a then 1 else 0
  | 2 => if b then 2 else 0
  | _ => if a then 1 else 0

/-- SyncE is qualified while present and its QL is not DNU or DUS; the DPLL takes the best reference (R243). -/
def Act.freqSelect : Act := .all [
  .get fun s => .setF R.timeFreq F.timeFreq_SYNCE_QUAL (if s.time.syncePres && s.fld R.timeFreq F.timeFreq_QL_RX != 0xF then 1 else 0),
  .get fun s =>
    let old := s.fld R.timeFreq F.timeFreq_SEL
    let new := s.freqBest
    .when (old != new) (.all [
      .setF R.timeFreq F.timeFreq_SEL new,
      .setF R.timeStat F.timeStat_FREQ_LOCK (if new == 0 then 0 else 1),
      .incF R.timeCnt2 F.timeCnt2_REF_SWITCH,
      .when (new == 0) (.modTime fun t => { t with dpllLoss := some s.tick })]),
  .qlUpdate]

/-- ESMC_TX: one SSM PDU with the port's QL on a port in use: the one of each second, or an event PDU that the port owes for a change of
the QL (R244). -/
def execEsmcTx (port : Nat) (event : Bool) (s : State) : Out := Act.out s <| .all [
  .qlUpdate,
  .get fun u => .when (u.esmcPorts.contains port && (!event || u.time.qlOwed.contains port)) (.all [
    .when event (.modTime fun t => { t with qlOwed := t.qlOwed.filter (· != port) }),
    .emit (.frame 2 port [if event then 1 else 0, if port == u.slavePort then 0xF else u.qlTx] [])])]

/-- ESMC_RX: the slave port's QL (R244); another port's is not used. -/
def execEsmcRx (port ql : Nat) (s : State) : Out := Act.out s <|
  .when (port == s.slavePort && s.slaveFit port) (.all [.setF R.timeFreq F.timeFreq_QL_RX ql, .freqSelect])

/-- QL_TIMEOUT: a QL absent for 5 s is DNU or DUS (R244). -/
def execQlTimeout (s : State) : Out := Act.out s <| .all [.setF R.timeFreq F.timeFreq_QL_RX 0xF, .freqSelect]

/-- FREQ_REF_SWITCH: which inputs are present and within 12 ppm of the local oscillator (R243). -/
def execFreqRefSwitch (synceOk ref10Ok : Bool) (s : State) : Out := Act.out s <| .all [
  .modTime fun t => { t with syncePres := synceOk },
  .setF R.timeFreq F.timeFreq_REF10_QUAL (if ref10Ok then 1 else 0),
  .freqSelect]

/-! ### Registers (R257, R260) -/

/-- A write of TIME.CFG: locked, or with DOMAIN outside the range of the PROFILE it leaves in force, it is ignored; a change of source
is a loss of the time reference (R257, R260). -/
def Act.timeCfgWrite (v : Word) : Act := .get fun s =>
  let keep (f : Field) (ok : Bool) : Nat := if ok then f.get v else s.fld R.timeCfg f
  let prof := keep F.timeCfg_PROFILE (F.timeCfg_PROFILE.get v < 2)
  let dom := F.timeCfg_DOMAIN.get v
  let port := keep F.timeCfg_SLV_PORT (F.timeCfg_SLV_PORT.get v < 48 && s.slaveFit (F.timeCfg_SLV_PORT.get v))
  let src := keep F.timeCfg_SRC (F.timeCfg_SRC.get v < 3)
  let domOk := if prof == 0 then 24 ≤ dom && dom ≤ 43 else 44 ≤ dom && dom ≤ 63
  let moved := prof != s.fld R.timeCfg F.timeCfg_PROFILE || dom != s.fld R.timeCfg F.timeCfg_DOMAIN ||
    port != s.slavePort || src != s.fld R.timeCfg F.timeCfg_SRC
  .when (!(s.flag R.gwLock F.gwLock_TIME) && domOk) (.all [
    .setF R.timeCfg F.timeCfg_PROFILE prof,
    .setF R.timeCfg F.timeCfg_DOMAIN dom,
    .setF R.timeCfg F.timeCfg_SLV_PORT port,
    .setF R.timeCfg F.timeCfg_SRC src,
    .setF R.timeCfg F.timeCfg_FREQ_PRI (F.timeCfg_FREQ_PRI.get v),
    .setF R.timeCfg F.timeCfg_EEC_OPT (F.timeCfg_EEC_OPT.get v),
    .setF R.timeCfg F.timeCfg_PPS_SQUELCH (F.timeCfg_PPS_SQUELCH.get v),
    .when moved (.all [.setMasters [], .timeLoss]),
    .freqSelect])

/-- TIME_CFG_WRITE: only the manager context reaches the block (R30, R260). -/
def execTimeCfgWrite (who : Nat) (val : Word) (s : State) : Out := Act.out s <|
  if who == 256 then .timeCfgWrite val else .violation who violRegister

/-- CAPTURE: SN, FR and tick of one tick; the SN words are zero in the FR form (R258, R260; log 27). -/
def Act.timeLatch : Act := .get fun s =>
  let ns := if s.onSn then (s.snNow / 2 ^ 40).toNat else 0
  let frac := if s.onSn then ((s.snNow / 2 ^ 24) % 2 ^ 16).toNat else 0
  .all [
    .setF R.timeLSec F.timeLSec_SEC (ns / 10 ^ 9 % 2 ^ 48),
    .setF R.timeLNs F.timeLNs_NS (ns % 10 ^ 9),
    .setF R.timeLNs F.timeLNs_FRAC frac,
    .setF R.timeLFr F.timeLFr_FR (s.fr % 2 ^ 64),
    .setF R.timeLTick F.timeLTick_TICK (s.tick % 2 ^ 64)]

/-- TIME_LATCH (R260): in the tick of a step it captures what stands after the step (R258). -/
def execTimeLatch (who : Nat) (val : Word) (s : State) : Out := Act.out s <|
  if who == 256 then .when (F.timeLatch_CAPTURE.get val == 1) (.all [.timeStep, .timeLatch]) else .violation who violRegister

end Sys2Proof.Machine
end

