-- ==== Sys2Proof/Machine/Radio.lean ====
section
/-! DEFINITION. The slot path: request blocks, FAPI messages, payload fetch, indications, noise-floor reports, neural-receiver calls
and stage overruns (R145-R158, R180, R181; log 28). -/

namespace Sys2Proof.Machine

/-! ### Lines of the carve-out (R150, R151, R168) -/

/-- A stage reads memory of the carve-out: an uncorrectable error resets the cell with cause 0x02 instead (R130, R157). -/
def Act.stageReads (master key esn : Nat) (ls : List (Nat × Nat)) (k : Act) : Act :=
  .readLines ls 0x101 master fun _ err => if err then .cellReset key 2 (some esn) else k

/-- A stage writes to the carve-out; a merge that is refused resets the cell alike (R127). -/
def Act.stageWrite (master key esn a : Nat) (d : List Byte) : Act :=
  .writeLines (lineChunks a d.length) d 0x101 master fun err => .when err (.cellReset key 2 (some esn))

/-! ### Request blocks (R146, R147) -/

/-- Host address of the block of a slot in the request ring. -/
def reqBlock (r : List Nat) (esn : Nat) : Nat := recReqBase r + 4096 + esn % max 1 (recDepth r) * recReqBlk r
def indBlock (r : List Nat) (esn : Nat) : Nat := recIndBase r + 4096 + esn % max 1 (recDepth r) * recIndBlk r

/-- FAPI messages the host may send (R145). -/
def fapiIn : List Nat := [0x00, 0x02, 0x04, 0x05, 0x80, 0x81, 0x83, 0x84]

/-- Bytes of messages that a block's header names, none of a block that is too small for them. -/
def State.reqLen (s : State) (r : List Nat) (esn : Nat) : Nat :=
  let n := leNat (s.hostRead (recPasid r) (reqBlock r esn + 8) 4)
  if n + 32 > recReqBlk r then 0 else n

/-- The messages of a block, or none where the block is absent (R147); a device that cannot reach host memory finds no block. -/
def State.reqMsgs (s : State) (r : List Nat) (esn : Nat) : Option (List (Nat × List Byte)) :=
  let a := reqBlock r esn
  let h := s.hostRead (recPasid r) a 32
  let f (o n : Nat) : Nat := leNat ((h.drop o).take n)
  let (sfn, slot) := sfnSlot (recScs r) esn
  if !s.linkOn || f 3 1 % 2 == 0 || f 0 2 != sfn || f 2 1 != slot || f 8 4 + 32 > recReqBlk r then none
  else some ((Config.fapiSplit (s.hostRead (recPasid r) (a + 32) (f 8 4))).getD [])

/-- REQ_FETCH: the block of a slot at the cell's fetch point; `torn`: the two header reads differ (R147). CONSUMED advances; an absent
block counts REQ_LATE; while held a DL_TTI.request is answered SFN_OUT_OF_SYNC (R158). A reset of the cell ends with the first slot fetched
after it (R157). A slot that a pending apply takes the cell away from is not fetched (R143). -/
def execReqFetch (cell esn : Nat) (torn : Bool) (s : State) : Out := Act.out s <|
  let x := s.cellsAt cell
  .when (x.applied && !(s.goneBy cell esn)) (
    let scs := recScs x.rcd
    let got := if torn then none else s.reqMsgs x.rcd esn
    let msgs := got.getD []
    let errs := (if got.isNone && x.running then [errorInd scs esn 0 msgSlotErr] else []) ++
      (msgs.filter fun m => !(fapiIn.contains m.1)).map (fun m => errorInd scs esn m.1 msgInvalidState) ++
      (if s.heldFor (muOf scs) esn && msgs.any (·.1 == 0x80) then [errorInd scs esn 0x80 sfnOutOfSync] else [])
    .all [
      .modCells cell fun y => y.putSlot
        ⟨esn, got.isSome, x.running, msgs, msgs.filter fun m => fapiIn.contains m.1, errs, false, false, [], [], false, x.wset⟩,
      .dmaWrite 0x101 (recPasid x.rcd) (recReqBase x.rcd) (leBytes ((esn + 1) % 2 ^ 32) 4),
      .when (x.running && s.fld (R.radioCellStat cell) F.radioCellStat_STATE == 3) (.setF (R.radioCellStat cell) F.radioCellStat_STATE 2),
      .when got.isNone (.incF (R.radioCellCnt cell) F.radioCellCnt_REQ_LATE),
      .dmaCount false (64 + s.reqLen x.rcd esn) 0x101])

/-! ### Messages (R145, R149) -/

/-- The next message of a slot's block, if it has this ID. -/
def State.nextMsg (s : State) (cell esn id : Nat) : Option (List Byte) :=
  match (s.cellsAt cell).slots.find? (·.esn == esn) with
  | some t => match t.todo with
    | (i, b) :: _ => if i == id then some b else none
    | [] => none
  | none => none

/-- The message is taken from the slot's block and handled. -/
def Act.takeMsg (cell esn id : Nat) (k : List Byte → Act) : Act := .get fun s =>
  match s.nextMsg cell esn id with
  | some b => .all [.modCells cell fun x => let t := x.slot esn; x.putSlot { t with todo := t.todo.drop 1 }, k b]
  | none => .skip

/-- ERROR.indication about a message of a slot. -/
def Act.fapiErr (cell esn id code : Nat) : Act := .get fun s =>
  .cellInd cell esn (errorInd (recScs (s.cellsAt cell).rcd) esn id code)

/-- PARAM.request: the response describes the applied record. -/
def execParamRequest (cell esn : Nat) (s : State) : Out := Act.out s <|
  .takeMsg cell esn 0x00 fun _ => .cellInd cell esn (0x01, Config.fapiBody 0x01 (msgOk :: (s.cellsAt cell).rcd.take 8))

/-- CONFIG.request: confirmation only. -/
def execConfigRequest (cell esn : Nat) (body : List Byte) (s : State) : Out := Act.out s <|
  .when (s.nextMsg cell esn 0x02 == some body) (.takeMsg cell esn 0x02 fun b =>
    .cellInd cell esn (0x03, Config.fapiBody 0x03
      [if Config.cfgAgrees ((s.cellsAt cell).rcd.take 8) b then msgOk else msgInvalidConfig]))

/-- START.request: the cell runs from the next fetch point; gain and DC of its streams start afresh (R149, R176, R178). -/
def execStartRequest (cell esn : Nat) (s : State) : Out := Act.out s <|
  .takeMsg cell esn 0x04 fun _ =>
    if (s.cellsAt cell).running then .fapiErr cell esn 0x04 msgInvalidState
    else .all [
      .modCells cell fun x => { x with
        running := true
        streams := x.streams.map fun e => (e.1, { x.freshStream with
          held := e.2.held
          td := e.2.td
          landed := e.2.landed
          closed := e.2.closed }) },
      .setF (R.radioCellStat cell) F.radioCellStat_STATE 2,
      .setF (R.radioCellStat cell) F.radioCellStat_SLOTS 0,
      .radioActive]

/-- STOP.request: no further slot runs; the cell stands as running until this slot is reported, in the block that carries STOP.indication
(R149). -/
def execStopRequest (cell esn : Nat) (s : State) : Out := Act.out s <|
  .takeMsg cell esn 0x05 fun _ =>
    if !(s.cellsAt cell).running then .fapiErr cell esn 0x05 msgInvalidState
    else .all [
      .modCells cell fun x => { x with running := false, stopAfter := some esn },
      .cellInd cell esn (0x06, Config.fapiBody 0x06 [])]

/-- A slot message: kept with the slot for its stages; to a cell that was not running it is an error (R149; log 28). -/
def Act.slotMsg (cell esn id : Nat) (body : List Byte) : Act := .get fun s =>
  .when (s.nextMsg cell esn id == some body) (.takeMsg cell esn id fun _ =>
    .when (!((s.cellsAt cell).slot esn).run) (.fapiErr cell esn id msgInvalidState))

def execDlTtiRequest (cell esn : Nat) (body : List Byte) (s : State) : Out := Act.out s (.slotMsg cell esn 0x80 body)
def execUlTtiRequest (cell esn : Nat) (body : List Byte) (s : State) : Out := Act.out s (.slotMsg cell esn 0x81 body)
def execUlDciRequest (cell esn : Nat) (body : List Byte) (s : State) : Out := Act.out s (.slotMsg cell esn 0x83 body)
def execTxDataRequest (cell esn : Nat) (body : List Byte) (s : State) : Out := Act.out s (.slotMsg cell esn 0x84 body)

/-- Payloads laid one after another, each from a line of its own: (first line, bytes). -/
def payPlaces : Nat → List (List Byte) → List (Nat × List Byte)
  | _, [] => []
  | i, b :: r => (i, b) :: payPlaces (i + cdiv b.length 64) r

/-- PAY_FETCH: the payloads that TX_DATA.request names by host address, under the cell's PASID, are put in the carve-out (stage D1, R145,
R151); the weights in use now are those of the slot's stage D5 (R153; log 28). -/
def execPayFetch (cell esn : Nat) (s : State) : Out := Act.out s <|
  let x := s.cellsAt cell
  let t := x.slot esn
  .when (x.applied && t.run && t.present && !t.withheld) (
    let parts := (t.msgs.filter (·.1 == 0x84)).flatMap fun m => (Config.fapiPdus 0x84 m.2).filter (·.1 == 1)
    let data := payPlaces 0 (parts.map fun p => s.hostRead (recPasid x.rcd) (p.2.getD 0 0) (p.2.getD 1 0))
    .all [
      .each data fun e => .stageWrite 6 cell esn (x.place 3 esn e.1) e.2,
      .dmaCount false ((data.map (·.2.length)).sum) 0x101,
      .modCells cell fun y => y.putSlot { y.slot esn with
        payload := data.map fun e => (x.place 3 esn e.1, e.2.length)
        wset := x.wset }])

/-! ### Noise floor (R180, R181) -/

/-- Idle REs of an uplink slot of a stream: (|x|^2 x 2^32, GCODE^2 of the symbol's step, or 2^32 in the frequency-domain modes). A slot
with no UL_TTI.request allocates none of them. -/
def State.idlePowers (s : State) (stream esn : Nat) (x : CellSt) (ul : List (List Byte)) : List (Nat × Nat) :=
  (List.range 14).flatMap fun sym =>
    if ulSym x.rcd esn sym && (x.stream stream).landed.contains (esn, sym) then
      (List.range (recNrb x.rcd)).flatMap fun prb =>
        let l := s.lineAt (x.ulLine stream esn sym prb)
        if l.flags % 2 == 1 then []
        else
          let g := if l.gstep == 0xFF then 2 ^ 16 else s.fld (R.fhGainTbl l.gstep) F.fhGainTbl_GCODE
          (List.range 12).filterMap fun k =>
            if ul.isEmpty || Config.idleRe ul stream sym prb k then some (power [l.re.getD k (0, 0)] * 2 ^ 32, g * g) else none
    else []

/-- NF of a stream in quarters of a dBFS; 0x8000 without 12 idle REs (R180). -/
def State.noiseFloor (s : State) (stream esn : Nat) (x : CellSt) (ul : List (List Byte)) : Int :=
  let p := s.idlePowers stream esn x ul
  if stream ≥ recUl x.rcd || p.length < 12 then -32768
  else
    let den := p.foldl (fun d e => d.lcm e.2) 1
    let num := p.foldl (fun n e => n + e.1 * (den / max 1 e.2)) 0
    quarterDb num (den * p.length * fullScale)

/-- Step of a stream at the slot's last uplink symbol. -/
def State.lastStep (s : State) (stream esn : Nat) (x : CellSt) : Nat :=
  if recFhMode x.rcd != 2 || stream ≥ recUl x.rcd then 0xFF else (s.lineAt (x.ulLine stream esn 13 0)).gstep

/-- The noise-floor entry of a slot (R181). -/
def Act.noiseEntry (cell esn : Nat) : Act := .get fun s =>
  let x := s.cellsAt (s.cellKey cell esn)
  let t := x.slot esn
  let (sfn, slot) := sfnSlot (recScs x.rcd) esn
  let ul := (t.msgs.filter (·.1 == 0x81)).map (·.2)
  .when (t.run && (slotSyms x.rcd esn).2 != 0)
    (.dmaWrite 0x101 (recPasid x.rcd) (recIndBase x.rcd + 0x400 + 64 * (esn % 16))
      (leBytes esn 4 ++ leBytes sfn 2 ++ leBytes slot 1 ++ leBytes 1 1 ++
        ((List.range 16).flatMap fun k => leBytes ((s.noiseFloor k esn x ul) % 65536).toNat 2) ++
        ((List.range 16).map fun k => BitVec.ofNat 8 (s.lastStep k esn x)) ++ leBytes 0 8))

/-! ### Reports of random access (R234, R235) -/

def raHeader (cell scs : Nat) (o : RaOcc) : List Byte :=
  let (sfn, slot) := sfnSlot scs o.esn
  leBytes cell 2 ++ leBytes sfn 2 ++ leBytes slot 1 ++ leBytes o.sym 1 ++ leBytes o.raIdx 1 ++
    leBytes (o.flags + (if o.dets.length > 64 then 16 else 0)) 1 ++ leBytes (o.noise % 65536).toNat 2 ++ leBytes o.dets.length 2 ++
    leBytes o.streams 2 ++ leBytes 0 2

def raRecord (d : RaDet) : List Byte :=
  leBytes d.preamble 1 ++ leBytes d.det 1 ++ leBytes d.fmt 1 ++ leBytes d.flags 1 ++ leBytes d.delay 4 ++
    leBytes (d.pwr % 65536).toNat 2 ++ leBytes d.metric 2 ++ leBytes d.ta 2 ++ leBytes d.handle 2

/-- RACH.indication, with a PDU for each occasion that has a detection, and RA_DETAIL.indication, with every occasion reported (R234,
R235). -/
def raInds (cell scs esn : Nat) (occ : List RaOcc) : List (Nat × List Byte) :=
  let found := occ.filter fun o => !o.dets.isEmpty
  let (sfn, slot) := sfnSlot scs esn
  (if found.isEmpty then [] else
    [(0x89, Config.fapiBody 0x89 ([sfn, slot, found.length] ++ found.flatMap fun o =>
      let (f, n) := sfnSlot scs o.esn
      [f, n, o.sym, o.raIdx, min 64 o.dets.length] ++ (o.dets.take 64).flatMap fun d => [d.preamble, d.ta, (d.pwr % 65536).toNat]))]) ++
  (if occ.isEmpty then [] else [(0x180, occ.flatMap fun o => raHeader cell scs o ++ o.dets.flatMap raRecord)])

/-- Detections that the messages written report. -/
def raReported (msgs : List (Nat × List Byte)) (occ : List RaOcc) : Nat :=
  if msgs.any (·.1 == 0x180) then (occ.map (·.dets.length)).sum
  else if msgs.any (·.1 == 0x89) then (occ.map fun o => min 64 o.dets.length).sum
  else 0

/-! ### Indications (R148, R156) -/

/-- The longest prefix of messages whose layout fits n bytes (log 28). -/
def fitMsgs (n : Nat) : List (Nat × List Byte) → List (Nat × List Byte)
  | l => ((List.range (l.length + 1)).reverse.map fun k => l.take k).find? (fun m => (Config.fapiJoin m).length ≤ n) |>.getD []

/-- UL bound of R156 in ns, by SCS code. -/
def ulBound (scs : Nat) : Int := match scs with
  | 0 => 1000000
  | 1 => 500000
  | _ => 250000

/-- The block of a slot cannot be written: the host has not released it, or the link is down (R148, R296). -/
def State.indBusy (s : State) (x : CellSt) (esn : Nat) : Bool :=
  let released := leNat (s.hostRead (recPasid x.rcd) (recIndBase x.rcd + 0x40) 4)
  !s.linkOn || match x.blocks.find? (·.1 == esn % max 1 (recDepth x.rcd)) with
    | some (_, e, _) => decide ((released + 2 ^ 32 - (e + 1) % 2 ^ 32) % 2 ^ 32 ≥ 2 ^ 31)
    | none => false

/-- The block of a slot is written, header last, and PRODUCED advances; else the slot's indications are dropped (R148). -/
def Act.indBlockWrite (key esn : Nat) (msgs : List (Nat × List Byte)) : Act := .get fun s =>
  let x := s.cellsAt key
  let pos := esn % max 1 (recDepth x.rcd)
  if s.indBusy x esn then .all [.cellInc key R.radioCellCnt F.radioCellCnt_IND_DROP, .attnRadio]
  else
    let gen := match x.blocks.find? (·.1 == pos) with
      | some (_, _, g) => (g + 1) % 2 ^ 32
      | none => 1
    let body := Config.fapiJoin msgs
    let (sfn, slot) := sfnSlot (recScs x.rcd) esn
    .all [
      .dmaWrite 0x101 (recPasid x.rcd) (indBlock x.rcd esn + 32) body,
      .dmaWrite 0x101 (recPasid x.rcd) (indBlock x.rcd esn)
        (leBytes sfn 2 ++ leBytes slot 1 ++ leBytes 1 1 ++ leBytes gen 4 ++ leBytes body.length 4 ++ leBytes msgs.length 2 ++
          List.replicate 18 0),
      .dmaWrite 0x101 (recPasid x.rcd) (recIndBase x.rcd) (leBytes ((esn + 1) % 2 ^ 32) 4),
      .modCells key fun y => { y with blocks := (y.blocks.filter (·.1 != pos)) ++ [(pos, esn, gen)] }]

/-- Indications of a slot: SLOT.indication of a running cell, what the uplink stages left, random access, errors and answers. -/
def SlotSt.indications (t : SlotSt) (cell scs : Nat) (occ : List RaOcc) (good : List (Nat × List Byte)) : List (Nat × List Byte) :=
  let (sfn, slot) := sfnSlot scs t.esn
  (if t.run then [(0x82, Config.fapiBody 0x82 [sfn, slot])] else []) ++ good ++ raInds cell scs t.esn occ ++ t.inds

/-- What the uplink stages left of a slot in the carve-out is reported: not of a slot whose outputs are withheld, nor of one with no
request block, nor the results of transport blocks failed at a recovery entry (R147, R157, R171). -/
def SlotSt.reports (t : SlotSt) (results : List (Nat × Nat × Nat)) : List (Nat × Nat × Nat) :=
  if t.run && t.present && !t.withheld then
    results.filter fun m => 0x85 ≤ m.1 && m.1 ≤ 0x88 && !(t.cut && m.1 ≤ 0x86) && m.2.1 + m.2.2 ≤ kennelEnd
  else []

/-- A mark of a past slot, none once every occasion that began by it has ended. -/
def pastMark (esn : Nat) (m : Option Nat) : Option Nat := m.filter fun z => !(slotAfter esn (z + 40))

/-- The slot is reported and over (R148, R149, R153, R156, R159, R180, R234). -/
def Act.slotReport (cell esn : Nat) (results : List (Nat × Nat × Nat)) : Act := .get fun s =>
  let key := s.cellKey cell esn
  let x := s.cellsAt key
  let scs := recScs x.rcd
  let mu := muOf scs
  match x.slots.find? (·.esn == esn) with
  | none => .skip
  | some t =>
    let occ := x.ra.filter (·.rep == esn)
    let good := t.reports results
    let inds := t.indications cell scs occ (good.map fun (i, a, n) => (i, s.readBytes a n))
    let msgs := fitMsgs (recIndBlk x.rcd - 32) inds
    let late := s.onSn && t.run && t.present && ulCount x.rcd esn != 0 &&
      since (s.slotStart mu esn + 1000000 / 2 ^ mu + ulBound scs) s.readingNs > 0
    .all [
      .noiseEntry cell esn,
      .when (!inds.isEmpty) (.indBlockWrite key esn msgs),
      .when (!inds.isEmpty && !(s.indBusy x esn)) (.cellInc key R.raCellCnt F.raCellCnt_DETECTIONS (raReported msgs occ)),
      .when late (.cellInc key R.radioCellCnt F.radioCellCnt_UL_LATE),
      .when (t.run && (s.cellsAt cell).applied) (.modF (R.radioCellStat cell) F.radioCellStat_SLOTS (· + 1)),
      .modCells key fun y => { y with
        slots := y.slots.filter (·.esn != esn)
        ra := y.ra.filter (·.rep != esn)
        wset := if good.any (·.1 == 0x88) then esn + 1 else y.wset
        raCut := pastMark esn y.raCut
        raStop := pastMark esn y.raStop
        streams := y.streams.map fun e => (e.1, { e.2 with
          landed := e.2.landed.filter (·.1 != esn)
          closed := e.2.closed.filter (·.1 != esn) }) },
      .when (key == cell && x.stopAfter == some esn) (.all [
        .modCells cell fun y => { y with stopAfter := none },
        .when (!x.running) (.setF (R.radioCellStat cell) F.radioCellStat_STATE 1),
        .radioActive])]

/-- INDICATION_WRITE: the slot's noise-floor entry, then its indications; `results` names what the uplink stages left in the carve-out:
message ID (RX_DATA, CRC, UCI, SRS), DPA and bytes (stage U10, R150). An uncorrectable error there resets the cell (R130, R157). -/
def execIndicationWrite (cell esn : Nat) (results : List (Nat × Nat × Nat)) (s : State) : Out := Act.out s <|
  let key := s.cellKey cell esn
  let ls := (((s.cellsAt key).slots.find? (·.esn == esn)).elim [] (·.reports results)).flatMap fun m => lineChunks m.2.1 m.2.2
  .readLines ls 0x101 6 fun _ err => .all [.when err (.cellReset key 2 (some esn)), .slotReport cell esn results]

/-! ### Neural receivers and overruns (R155, R157) -/

/-- A program starts in a context (R91). -/
def Act.ctxBegin (c x pc handle : Nat) (cells : List Nat) : Act := .all [
  .modCtxs (c * 8 + x) fun t =>
    { t with cur := none, wait := none, bundle := [], atMark := false, stepEnd := false, handle := handle, stopPend := false, cells := cells },
  .setF (R.coreCtxPc c x) F.coreCtxPc_PC pc,
  .modF (R.coreSeqStat c) F.coreSeqStat_CTX_ACTIVE (setBit · x),
  .modF (R.coreSeqStat c) F.coreSeqStat_CTX_PAUSED (clrBit · x),
  .modF (R.coreSeqStat c) F.coreSeqStat_CTX_WAIT (clrBit · x)]

/-- PUSCH call record of a PDU, from its fields in UL_TTI.request: RNTI, first PRB, PRBs, layers, bits per symbol, first symbol, symbols,
DMRS symbols, DMRS ports, LLRs (R155; log 14). -/
def puschRecord (f : List Nat) : List Byte :=
  let w (i n : Nat) : List Byte := leBytes (f.getD i 0) n
  w 0 2 ++ w 1 2 ++ w 2 2 ++ w 3 1 ++ w 4 1 ++ w 5 1 ++ w 6 1 ++ w 7 2 ++ w 8 2 ++ leBytes 0 2 ++ w 9 4 ++ List.replicate 12 0

/-- The PUSCH PDUs of a slot. -/
def SlotSt.pusch (t : SlotSt) : List (List Nat) :=
  (t.msgs.filter (·.1 == 0x81)).flatMap fun m => ((Config.fapiPdus 0x81 m.2).filter (·.1 == 1)).map (·.2)

/-- Call block of a slot (R155). -/
def callBlock (x : CellSt) (t : SlotSt) (cell sig prb chest nf pdu llr : Nat) : List Byte :=
  let (sfn, slot) := sfnSlot (recScs x.rcd) t.esn
  let mask := (List.range 14).foldl (fun m k => if ulSym x.rcd t.esn k then setBit m k else m) 0
  let dmrs := t.pusch.foldl (fun m f => m ||| f.getD 7 0) 0
  leBytes cell 2 ++ leBytes sfn 2 ++ leBytes slot 1 ++ leBytes (recUl x.rcd) 1 ++ leBytes mask 2 ++ leBytes dmrs 2 ++
    leBytes t.pusch.length 2 ++ leBytes sig 2 ++ leBytes 0 2 ++ leBytes prb 8 ++ leBytes chest 8 ++ leBytes nf 8 ++ leBytes pdu 8 ++
    leBytes llr 8 ++ leBytes 0 8

/-- NRX_CALL: for an uplink slot the radio firmware writes the call block and the PUSCH call records, and starts the entry's program on the
radio contexts of the named cores (R155). The sync word and the radio addresses of the landed lines, channel estimates, noise-floor values,
records and LLRs are the firmware's. -/
def execNrxCall (cell esn : Nat) (cores : List Nat) (sig prb chest nf pdu llr : Nat) (s : State) : Out := Act.out s <|
  let x := s.cellsAt cell
  let t := x.slot esn
  match s.radio.nrxs.find? fun n => n.n == recNrx x.rcd && recNrx x.rcd != 0 with
  | none => .skip
  | some n => match nrxCallOf n x.rcd with
    | none => .skip
    | some (w0, _) =>
      let pc := 0x7F0000000000 + (n.n - 1) * 0x100000000 + n.codeOff + bits w0 63 32
      .when (x.applied && t.run && t.present && !t.withheld && ulCount x.rcd esn != 0 && cores.all fun c => c < 64 && !(s.ctxActive c 4))
        (.writeMem 0x101 9 (0x7E0000000000 + cell * 0x1000000)
            (callBlock x t cell (sig % 4096) prb (if bit n.flags 0 then chest else 0) nf pdu llr) fun e1 =>
          .writeMem 0x101 9 pdu (t.pusch.flatMap puschRecord) fun e2 =>
            if e1 || e2 then .cellReset cell 2 (some esn)
            else .each cores fun c => .all [
              .setF (R.coreCtxOwner c 4) F.coreCtxOwner_KIND 2,
              .ctxBegin c 4 pc 0 [cell]])

/-- RADIO_STAGE_OVERRUN: a stage or a neural receiver's program outran its Last positions (R157 cause 0x06, R276). -/
def execRadioStageOverrun (cell : Nat) (s : State) : Out := Act.out s <| .all [
  .each (List.range 64) fun c => .get fun t =>
    .when (t.ctxActive c 4 && (t.ctxsAt (c * 8 + 4)).cells.contains cell) (.ctxHalt c 4),
  .cellReset cell 6]

end Sys2Proof.Machine
end

