-- ==== Sys2Proof/Machine/Fronthaul.lean ====
section
/-! DEFINITION. The fronthaul engines: reception and its windows, landing, the time-domain mode, emission (R153, R160-R179; log 28). -/

namespace Sys2Proof.Machine

/-! ### Landing (R168, R170) -/

def missingLine : LineSt := ⟨List.replicate 12 (0, 0), 0xFF, 1⟩

/-- Where PRB p of a section of a symbol lands. -/
def CellSt.landPlace (x : CellSt) (stream sec esn sym p : Nat) : Nat :=
  if sec == 1 then x.ulLine stream esn sym p else x.raLine stream esn sym p

/-- A symbol of a stream is landed: what is held, and MISSING for the rest. -/
def Act.landSymbol (c stream sec esn sym : Nat) : Act := .get fun s =>
  let x := s.cellsAt c
  let mine (h : HeldPrb) : Bool := h.esn == esn && h.sym == sym && h.sec == sec
  let held := (x.stream stream).held.filter mine
  .all [
    .each (List.range (requested x sec esn sym)) fun p =>
      .stageWrite 6 c esn (x.landPlace stream sec esn sym p) (((held.find? (·.prb == p)).elim missingLine (·.line)).bytes),
    .modStream c stream fun t => { t with
      held := t.held.filter fun h => !(mine h)
      landed := (esn, symMark sec sym) :: t.landed }]

/-- Occupancy of the ingress buffer, 64 B for a held PRB and 4 B for a sample (log 28), as FH.STAT.BUF_PEAK. -/
def Act.bufPeak : Act := .get fun s =>
  let n := s.cells.foldl (fun a e => a + e.2.streams.foldl (fun b t =>
    b + 64 * t.2.held.length + 4 * (t.2.td.foldl (fun k r => k + r.samples.length) 0)) 0) 0
  .modF R.fhStat F.fhStat_BUF_PEAK fun v => max v (min (cdiv n 65536) 65535)

/-! ### Reception (R163, R164, R166, R169-R171, R174) -/

/-- The cell set in force at a stamp holds a cell: a cell that an apply removed or replaced, until its boundary, and from then on the one
that replaced it (R171). -/
def State.inForce (s : State) (c stamp : Nat) : Bool :=
  let before (k : Nat) : Bool := match (s.cellsAt k).leftAt with
    | some t => since stamp t > 0
    | none => false
  if c < 512 then !(before (512 + c)) else before c

/-- The cell in force whose port, RU address, VLAN and eAxC range match (R164, R171). -/
def State.fhCell (s : State) (port : Nat) (p : UPacket) : Option (Nat × CellSt) :=
  s.cells.find? fun (c, x) => x.applied && s.inForce c p.stamp && recPort x.rcd == port && x.fhAddr F.fhCellAddr_RU_MAC == p.ruMac &&
    (if x.fhAddr F.fhCellAddr_VLAN_EN == 1 then p.vlan == some (x.fhAddr F.fhCellAddr_VID) else p.vlan.isNone) &&
    x.fhId F.fhCellId_EAXC_BASE ≤ p.eaxc && p.eaxc < x.fhId F.fhCellId_EAXC_BASE + 32

/-- An eCPRI header that the module takes (R163). -/
def packetOk (p : UPacket) : Bool := p.rev == 1 && p.eBit && p.subSeq == 0

/-- A packet's section is of the cell's form: section type by eAxC ID, compression, time-domain format and length (R164, R166, R174). -/
def packetForm (p : UPacket) (x : CellSt) (tdLen : Nat) : Bool :=
  if recFhMode x.rcd == 2 then
    p.section_ == 255 && p.tdFmt == x.fhId F.fhCellId_TD_FMT && p.tdOffset + p.tdSamples.length ≤ tdLen &&
      (p.tdFmt == 0 || p.tdSamples.length % 12 == 0)
  else
    p.section_ == (if p.eaxc - x.fhId F.fhCellId_EAXC_BASE < 16 then 1 else 3) &&
      p.comp == if x.fhId F.fhCellId_UL_STATIC == 1 then none else some (x.fhId F.fhCellId_UL_METH, x.fhId F.fhCellId_UL_WIDTH)

/-- The module has requested, or is to request, sections of a slot (R165). -/
def CellSt.asked (x : CellSt) (esn : Nat) : Bool := x.slots.any fun t => t.esn == esn && (t.run || t.emitted)

/-- The module requested the section of a packet: an uplink symbol or the PRACH of one of the cell's streams (R165, R170). -/
def CellSt.expects (x : CellSt) (p : UPacket) : Bool :=
  let off := p.eaxc - x.fhId F.fhCellId_EAXC_BASE
  x.asked p.esn && off % 16 < recUl x.rcd &&
    if recFhMode x.rcd == 2 then off < 16 && ulSym x.rcd p.esn p.sym
    else requested x (if off < 16 then 1 else 3) p.esn p.sym != 0

def Act.fhFormat (c : Nat) : Act := .cellInc c R.fhCellCnt2 F.fhCellCnt2_FORMAT

/-- The packet's place against its symbol's window: before, within (edges included), after (R169). -/
def State.windowOf (s : State) (x : CellSt) (p : UPacket) : Ordering :=
  let mu := muOf (recScs x.rcd)
  if s.sinceSymbol mu p.esn p.sym (x.fhWin F.fhCellWin_TA4_MIN) p.stamp < 0 then .lt
  else if s.sinceSymbol mu p.esn p.sym (x.fhWin F.fhCellWin_TA4_MAX) p.stamp > 0 then .gt
  else .eq

/-- One PRB of an on-time section: outside the request FORMAT, a second copy DUP, else held (R170). -/
def Act.holdPrb (c stream sec esn sym : Nat) (p : PrbData) : Act := .get fun s =>
  let x := s.cellsAt c
  let st := x.stream stream
  if p.prb ≥ requested x sec esn sym then .fhFormat c
  else if st.landed.contains (esn, symMark sec sym) ||
      st.held.any (fun h => h.esn == esn && h.sym == sym && h.sec == sec && h.prb == p.prb) then
    .cellInc c R.fhCellCnt F.fhCellCnt_DUP
  else .modStream c stream fun t => { t with held := t.held ++ [⟨esn, sym, sec, p.prb, prbLine p.exp p.mant⟩] }

/-- Time-domain samples as held, one exponent for each 12 (R174), saturated (R167). -/
def tdRange (p : UPacket) : TdRange :=
  let v := p.tdSamples.zipIdx.map fun (v, i) =>
    let e := if p.tdFmt == 0 then 0 else p.tdExp.getD (i / 12) 0 % 16
    (v.1 * 2 ^ e, v.2 * 2 ^ e)
  ⟨p.esn, p.sym, p.tdOffset, v.map fun x => (sat16 x.1, sat16 x.2), v.any fun x => sat16 x.1 != x.1 || sat16 x.2 != x.2⟩

/-- Samples of a symbol, cyclic prefix included. -/
def tdLen (x : CellSt) (esn sym : Nat) : Nat :=
  let mu := muOf (recScs x.rcd)
  let n := fftSize (recNrb x.rcd)
  n + cpLen mu (esn % 2 ^ mu) sym n

/-- An on-time packet is held; a symbol with every section is landed at once (R170, R174). -/
def Act.holdPacket (c : Nat) (pkt : UPacket) : Act := .get fun s =>
  let x := s.cellsAt c
  let off := pkt.eaxc - x.fhId F.fhCellId_EAXC_BASE
  let stream := off % 16
  let sec := if off < 16 then 1 else 3
  if recFhMode x.rcd == 2 then .all [.modStream c stream fun t => { t with td := t.td ++ [tdRange pkt] }, .bufPeak]
  else .all [
    .each pkt.prbs fun p => .holdPrb c stream sec pkt.esn pkt.sym p,
    .bufPeak,
    .get fun u =>
      let y := u.cellsAt c
      let have_ := ((y.stream stream).held.filter fun h => h.esn == pkt.esn && h.sym == pkt.sym && h.sec == sec).length
      .when (have_ == requested y sec pkt.esn pkt.sym && have_ != 0) (.landSymbol c stream sec pkt.esn pkt.sym)]

/-- UPLANE_PACKET_RX: attribution, form, window, request, then the ingress buffer. A packet that comes while the module is held, or whose
stamp is of the FR form, is dropped (R163, R164, R169-R171, R242). -/
def execUplanePacketRx (port : Nat) (pkt : UPacket) (s : State) : Out := Act.out s <|
  match if packetOk pkt then s.fhCell port pkt else none with
  | none => .incF (R.fhPortCnt port) F.fhPortCnt_MALFORMED
  | some (c, x) => .all [.pmc none 9 0 1 0x101 6,
    if pkt.frStamp || s.heldFor (muOf (recScs x.rcd)) pkt.esn then .cellInc c R.fhCellCnt2 F.fhCellCnt2_HELD_DROP
    else if !(packetForm pkt x (tdLen x pkt.esn pkt.sym)) then .fhFormat c
    else match s.windowOf x pkt with
    | .lt => .cellInc c R.fhCellCnt F.fhCellCnt_EARLY
    | .gt => .all [.cellInc c R.fhCellCnt F.fhCellCnt_LATE, .pmc none 9 1 1 0x101 6]
    | .eq =>
      if !(x.expects pkt) then .fhFormat c
      else .when (!(x.slot pkt.esn).withheld) (.holdPacket c pkt)]

/-- Sample ranges of a symbol that nothing held covers. -/
def tdGaps (len : Nat) (l : List TdRange) : Nat :=
  let cov (i : Nat) : Bool := l.any fun r => r.off ≤ i && i < r.off + r.samples.length
  ((List.range len).filter fun i => !(cov i) && (i == 0 || cov (i - 1))).length

/-- Sections or sample ranges that are missing (R170, R174, R400). -/
def Act.fhMissing (key n : Nat) : Act :=
  .all [.cellInc key R.fhCellCnt F.fhCellCnt_MISSING n, .each (List.range n) fun _ => .pmc none 9 2 1 0x101 6]

/-- RECEPTION_WINDOW_CLOSE: what has not arrived of a symbol is landed with MISSING; `stream` 16-31 are the PRACH of streams 0-15 (R170);
in the time-domain mode the symbol is closed for its processing (R174). Ingress that is stopped closes nothing (R158). -/
def execReceptionWindowClose (cell stream esn sym : Nat) (s : State) : Out := Act.out s <|
  let key := s.cellKey cell esn
  let x := s.cellsAt key
  let k := stream % 16
  let sec := if stream < 16 then 1 else 3
  let st := x.stream k
  .when (x.applied && x.asked esn && k < recUl x.rcd && !(s.heldFor (muOf (recScs x.rcd)) esn)) (
    if recFhMode x.rcd == 2 then
      .when (sec == 1 && ulSym x.rcd esn sym && !(st.closed.contains (esn, sym)) && !(st.landed.contains (esn, sym))) (.all [
        .fhMissing key (tdGaps (tdLen x esn sym) (st.td.filter fun r => r.esn == esn && r.sym == sym)),
        .modStream key k fun t => { t with closed := (esn, sym) :: t.closed }])
    else .when (requested x sec esn sym != 0 && !(st.landed.contains (esn, symMark sec sym))) (.all [
      .fhMissing key 1,
      .landSymbol key k sec esn sym]))

/-- ONE_WAY_DELAY_MEASUREMENT: eCPRI type 5 is answered as responder, with the reading of the answer (R163); frame kind 7. -/
def execOneWayDelayMeasurement (port : Nat) (body : List Byte) (s : State) : Out := Act.out s <|
  .when (s.fld (R.fhPortCfg port) F.fhPortCfg_USE == 1) (.emit (.frame 7 port [s.readingNs] body))

/-! ### Time-domain uplink and downlink (R174-R179) -/

/-- DC removal sample by sample (R176 step 1): the means after the symbol, and the samples. -/
def dcRemove : Int → Int → List (Int × Int) → Int × Int × List (Int × Int)
  | mi, mq, [] => (mi, mq, [])
  | mi, mq, (i, q) :: l =>
    let ni := mi + (i * 2 ^ 16 - mi) / 2 ^ 16
    let nq := mq + (q * 2 ^ 16 - mq) / 2 ^ 16
    let (a, b, r) := dcRemove ni nq l
    (a, b, (i - mi / 2 ^ 16, q - mq / 2 ^ 16) :: r)

/-- The gain step after a symbol of level l (R178). -/
def gainNext (x : CellSt) (k dwell : Nat) (l : Int) : Nat × Nat :=
  let (up, dn) := x.gains.getD k (-96, -60)
  if x.fhGain F.fhCellGain_MODE == 1 then (k, dwell)
  else if l > dn && k > 0 then (k - 1, 0)
  else if l < up && k < x.fhGain F.fhCellGain_KMAX then
    (if dwell + 1 ≥ x.fhGain F.fhCellGain_DWELL then (k + 1, 0) else (k, dwell + 1))
  else (k, 0)

/-- The samples of a symbol in order, zero where none is held. -/
def tdAssemble (len : Nat) (l : List TdRange) : List (Int × Int) :=
  (List.range len).map fun i => match l.find? fun r => r.off ≤ i && i < r.off + r.samples.length with
    | some r => r.samples.getD (i - r.off) (0, 0)
    | none => (0, 0)

/-- TD_UPLINK_SYMBOL: DC, shift, gain and level, prefix removal, FFT, landing (R176-R178). A symbol is processed when every sample is
held or its window has closed. -/
def execTdUplinkSymbol (cell stream esn sym : Nat) (s : State) : Out := Act.out s <|
  let key := s.cellKey cell esn
  let x := s.cellsAt key
  let st := x.stream stream
  let len := tdLen x esn sym
  let mine := st.td.filter fun r => r.esn == esn && r.sym == sym
  let gaps := tdGaps len mine
  let closed := st.closed.contains (esn, sym)
  .when (x.applied && recFhMode x.rcd == 2 && stream < recUl x.rcd && x.asked esn && ulSym x.rcd esn sym &&
      !(st.landed.contains (esn, sym)) && (gaps == 0 || closed)) (
    let n := fftSize (recNrb x.rcd)
    let (mi, mq, dc) := dcRemove st.dcI st.dcQ (tdAssemble len mine)
    let sh := if x.fhId F.fhCellId_SHIFT75 == 1 then Config.shift75 n dc else dc
    let k := if x.fhGain F.fhCellGain_MODE == 1 then x.fhGain F.fhCellGain_INIT_STEP else st.gstep
    let g : Int := s.fld (R.fhGainTbl k) F.fhGainTbl_GCODE
    let raw := sh.map fun v => (v.1 * g / 2 ^ 16, v.2 * g / 2 ^ 16)
    let sat := raw.any fun v => sat16 v.1 != v.1 || sat16 v.2 != v.2
    let y := raw.map fun v => (sat16 v.1, sat16 v.2)
    let level := quarterDb (power y) (len * fullScale)
    let (k2, d2) := gainNext x k st.dwell level
    let re := Config.fft n (recNrb x.rcd) (y.drop (len - n))
    let flags := (if gaps != 0 then 1 else 0) + (if sat || mine.any (·.sat) then 2 else 0)
    .all [
      .each (List.range (recNrb x.rcd)) fun p =>
        .stageWrite 5 key esn (x.ulLine stream esn sym p) (LineSt.bytes ⟨((re.drop (12 * p)).take 12), k, flags⟩),
      .when sat (.cellInc key R.fhCellCnt2 F.fhCellCnt2_SAT_SYM),
      .modStream key stream fun t => { t with
        gstep := k2
        dwell := d2
        dcI := mi
        dcQ := mq
        td := t.td.filter fun r => !(r.esn == esn && r.sym == sym)
        closed := t.closed.filter (· != (esn, sym))
        landed := (esn, sym) :: t.landed }])

/-- Lines that a layer has in the carve-out for a symbol of a slot, for egress. -/
def CellSt.dlLines (x : CellSt) (layer esn sym : Nat) : List Nat := (List.range (recNrb x.rcd)).map fun p => x.dlLine layer esn sym p

/-- TD_DOWNLINK_SYMBOL: iFFT of what the stages left, cyclic prefix, DL_GAIN, saturation (stage D6, R176); the samples wait for egress. -/
def execTdDownlinkSymbol (cell stream esn sym : Nat) (s : State) : Out := Act.out s <|
  let x := s.cellsAt cell
  let t := x.slot esn
  let ls := x.dlLines stream esn sym
  .when (x.applied && recFhMode x.rcd == 2 && t.run && stream < recDl x.rcd && dlSym x.rcd esn sym && !t.withheld)
    (.stageReads 5 cell esn (ls.map (·, 64)) (
      let n := fftSize (recNrb x.rcd)
      let body := Config.ifft n (ls.flatMap fun a => (s.lineAt a).re)
      let prefixed := body.drop (n - (tdLen x esn sym - n)) ++ body
      let g := x.fhGain F.fhCellGain_DL_GAIN
      let raw := prefixed.map fun v => (Config.dlGain g v.1, Config.dlGain g v.2)
      let sat := raw.any fun v => sat16 v.1 != v.1 || sat16 v.2 != v.2
      .all [
        .when sat (.cellInc cell R.fhCellCnt2 F.fhCellCnt2_SAT_SYM),
        .modCells cell fun y => let u := y.slot esn
          y.putSlot { u with td := u.td.filter (fun e => !(e.1 == stream && e.2.1 == sym)) ++
            [(stream, sym, raw.map fun v => (sat16 v.1, sat16 v.2))] }]))

/-! ### Emission (R153, R163, R165-R167, R172, R174) -/

/-- A frame of the fronthaul leaves; its bytes are counted, 40 of them headers and check sequence (R400; log 28). -/
def Act.fhSend (port : Nat) (hdr : List Nat) (body : List Byte) : Act :=
  .all [.emit (.frame 3 port hdr body), .pmc none 9 3 (40 + body.length) 0x101 6]

/-- Header words of an emitted frame: message type, RU address, VLAN tag, eAxC ID. -/
def ethHdr (x : CellSt) (msg eaxc : Nat) : List Nat :=
  [msg, x.fhAddr F.fhCellAddr_RU_MAC,
    if x.fhAddr F.fhCellAddr_VLAN_EN == 1 then 1 + x.fhAddr F.fhCellAddr_PCP * 8192 + x.fhAddr F.fhCellAddr_VID * 2 else 0,
    x.fhId F.fhCellId_EAXC_BASE + eaxc]

/-- Further header words of the CUS-plane: SFN mod 256, subframe, slot, symbol, section type. -/
def fhHdr (x : CellSt) (msg eaxc esn sym sec : Nat) : List Nat :=
  let (sfn, slot) := sfnSlot (recScs x.rcd) esn
  ethHdr x msg eaxc ++ [sfn % 256, slot / 2 ^ muOf (recScs x.rcd), slot % 2 ^ muOf (recScs x.rcd), sym, sec]

/-- Section type and extensions of a downlink C-plane section. Category B: the weights of R153 go in extension 1 or 11 (R163; log 28). -/
def dlSection (x : CellSt) (t : SlotSt) (sym layer : Nat) : Nat × List Nat :=
  let v := Config.fhCatB (x.rcd.take 8) sym layer
  if recFhMode x.rcd != 1 then (1, [])
  else ([1, 5, 6].getD (v % 3) 1,
    (if t.wset == 0 then [] else if bit v 2 then [11] else [1]) ++ (if bit v 3 then [6] else []) ++ (if bit v 4 then [10] else []))

/-- C-plane of a symbol in ascending eAxC ID: downlink layers and uplink requests of every PRB, then the PRACH (R165, R172). Words: first
PRB, PRBs, and the extensions of the section; the weights are the frame's bytes. -/
def Act.cplane (x : CellSt) (t : SlotSt) (sym : Nat) : Act :=
  let send (eaxc sec n : Nat) (ext : List Nat) (wgt : List Byte) : Act :=
    .fhSend (recPort x.rcd) (fhHdr x 2 eaxc t.esn sym sec ++ [0, n] ++ ext) wgt
  .all [
    .each (List.range 16) fun k => .all [
      .when (k < recDl x.rcd && dlSym x.rcd t.esn sym) (.get fun s =>
        let (sec, ext) := dlSection x t sym k
        send k sec (recNrb x.rcd) ext
          (if ext.any fun e => e == 1 || e == 11 then s.readBytes (x.place 4 (t.wset + 2 ^ 32 - 1) k) 64 else [])),
      .when (k < recUl x.rcd && ulSym x.rcd t.esn sym) (send k 1 (recNrb x.rcd) [] [])],
    .when (requested x 3 t.esn sym != 0) (.each (List.range (recUl x.rcd)) fun k => send (16 + k) 3 (requested x 3 t.esn sym) [] [])]

/-- PRBs that one frame of at most 9,216 B holds, at a number of bytes for each; 40 B are headers and check sequence (R163; log 28). -/
def framePrbs (bytes : Nat) : Nat := max 1 (9176 / bytes)

/-- Consecutive runs of n. -/
def runsOf (n len : Nat) : List (Nat × Nat) :=
  (List.range (cdiv len n)).map fun i => (i * n, min n (len - i * n))

/-- U-plane of a layer in the frequency-domain modes, in ascending PRB order (R166, R167, R172). -/
def Act.uplaneFd (x : CellSt) (esn sym layer : Nat) : Act := .get fun s =>
  let meth := x.fhId F.fhCellId_DL_METH
  let width := x.fhId F.fhCellId_DL_WIDTH
  let per := if meth == 1 then 1 + 3 * iqBits width else 48
  .each (runsOf (framePrbs per) (recNrb x.rcd)) fun (p, n) =>
    .fhSend (recPort x.rcd)
      (fhHdr x 0 layer esn sym 1 ++ (if x.fhId F.fhCellId_DL_STATIC == 1 then [] else [meth, width]) ++ [p, n])
      ((List.range n).flatMap fun i =>
        prbBytes meth width ((s.lineAt (x.dlLine layer esn sym (p + i))).re.flatMap fun v => [v.1, v.2]))

/-- First sample and number of samples of the packets of a time-domain symbol. In block floating point a last packet of 12 repeats samples
where the symbol is no multiple of 12 (R174; log 28). -/
def tdPackets (fmt len : Nat) : List (Nat × Nat) :=
  if fmt == 0 then runsOf (12 * framePrbs 48) len
  else runsOf (12 * framePrbs (if fmt == 1 then 37 else 43)) (len / 12 * 12) ++ (if len % 12 == 0 then [] else [(len - 12, 12)])

/-- The 8 B header of a time-domain packet (R174). -/
def tdHeader (x : CellSt) (esn sym off fmt n : Nat) : List Byte :=
  let (sfn, slot) := sfnSlot (recScs x.rcd) esn
  (leBytes (sfn * 2 ^ 54 + slot * 2 ^ 47 + sym * 2 ^ 43 + off * 2 ^ 30 + fmt * 2 ^ 28 + n * 2 ^ 15) 8).reverse

/-- Samples in a format: 16-bit, or groups of 12 with an exponent byte each. -/
def tdBytes (fmt : Nat) (l : List (Int × Int)) : List Byte :=
  let flat (r : List (Int × Int)) : List Int := r.flatMap fun v => [v.1, v.2]
  if fmt == 0 then packBE 16 (flat l)
  else (List.range (l.length / 12)).flatMap fun i => prbBytes 1 (if fmt == 1 then 12 else 14) (flat ((l.drop (12 * i)).take 12))

/-- U-plane of a layer in the time-domain mode. -/
def Act.uplaneTd (x : CellSt) (esn sym layer : Nat) (samples : List (Int × Int)) : Act :=
  let fmt := x.fhId F.fhCellId_TD_FMT
  .each (tdPackets fmt samples.length) fun (o, n) =>
    .fhSend (recPort x.rcd) (ethHdr x 0 layer) (tdHeader x esn sym o fmt n ++ tdBytes fmt ((samples.drop o).take n))

/-- Samples of a layer that are ready for egress. -/
def SlotSt.tdOf (t : SlotSt) (layer sym : Nat) : Option (List (Int × Int)) :=
  (t.td.find? fun e => e.1 == layer && e.2.1 == sym).map (·.2.2)

/-- U-plane of one downlink symbol, in ascending eAxC ID order. -/
def Act.uplaneTx (x : CellSt) (t : SlotSt) (sym : Nat) : Act := .each (List.range (recDl x.rcd)) fun l =>
  if recFhMode x.rcd == 2 then .uplaneTd x t.esn sym l ((t.tdOf l sym).getD [])
  else .uplaneFd x t.esn sym l

/-- A symbol that cannot be emitted whole: the stages have not completed it, or a layer has no samples in the time-domain mode. -/
def symIncomplete (x : CellSt) (t : SlotSt) (incomplete : List Nat) (sym : Nat) : Bool :=
  incomplete.contains sym || (recFhMode x.rcd == 2 && (List.range (recDl x.rcd)).any fun l => (t.tdOf l sym).isNone)

/-- The downlink symbols in order; the first incomplete one is not emitted and resets the cell with cause 0x06 (R172), one whose lines are
not readable resets it with cause 0x02 (R130, R157). -/
def Act.emitSyms (c : Nat) (x : CellSt) (t : SlotSt) (incomplete : List Nat) : List Nat → Act
  | [] => .skip
  | k :: r =>
    if symIncomplete x t incomplete k then .all [.cellInc c R.fhCellCnt2 F.fhCellCnt2_TX_LATE, .cellReset c 6 (some t.esn)]
    else .stageReads 6 c t.esn (if recFhMode x.rcd == 2 then [] else (List.range (recDl x.rcd)).flatMap fun l => (x.dlLines l t.esn k).map (·, 64))
      (.all [.uplaneTx x t k, Act.emitSyms c x t incomplete r])

/-- DL_EMIT: C-plane and U-plane of a slot (R172); `incomplete`: symbols that the downlink stages have not completed in time. Nothing is
emitted while held (R158) or for a slot that the cell no longer serves (R143), and no U-plane for an absent block (R147) or after a cell
reset (R157). -/
def execDlEmit (cell esn : Nat) (incomplete : List Nat) (s : State) : Out := Act.out s <|
  let x := s.cellsAt cell
  match x.slots.find? (·.esn == esn) with
  | none => .skip
  | some t =>
    .when (x.applied && t.run && !t.emitted && !(s.heldFor (muOf (recScs x.rcd)) esn) && !(s.goneBy cell esn)) (.all [
      .modCells cell fun y => y.putSlot { y.slot esn with emitted := true },
      .each (List.range 14) fun k => .cplane x t k,
      .when (t.present && !t.withheld) (.emitSyms cell x t incomplete ((List.range 14).filter fun k => dlSym x.rcd esn k))])

/-- OTHER_FRAME_RX: a frame that is neither eCPRI type 0, 2, 5 nor PTP (R163, R182). -/
def execOtherFrameRx (port : Nat) (s : State) : Out := Act.out s (.incF (R.fhPortCnt port) F.fhPortCnt_OTHER)

end Sys2Proof.Machine
end

