-- ==== Sys2Proof/Machine/Sched.lean ====
section
/-! DEFINITION. Building a copy of the Last, the swap and the cell apply at its boundary, the power split, and the commands of periods
and stitches (R143, R261-R281; log 30). -/

namespace Sys2Proof.Machine

/-! ### Kennel units (R24, R121). A unit is numbered 32 k + u. -/

/-- Units that no slice holds and that are not in the carve-out, held or promised. -/
def State.kenFree (s : State) : List Nat :=
  (List.range 128).filter fun u =>
    !(s.parts.any fun e => bit e.2.ken u) && !(s.radio.units.contains u) &&
    !(match s.radio.pend with | some p => p.units.contains u | none => false)

/-- MEM.KEN and RADIO.CAP.KEN_UNITS follow the pool. -/
def Act.kenStat : Act := .get fun s => .each (List.range 4) fun k => .all [
  .setF R.radioCap F.radioCap_KEN_UNITS s.radio.units.length,
  .setF (R.memKen (k / 2) (k % 2)) F.memKen_RADIO_UNITS (s.radio.units.filter (· / 32 == k)).length,
  .setF (R.memKen (k / 2) (k % 2)) F.memKen_FREE_UNITS (s.kenFree.filter (· / 32 == k)).length]

/-- Highest free unit of the Kennel die of a compute die that has more of them, ties to the lower (R121). -/
def pickUnit (free : List Nat) (d : Nat) : Option Nat :=
  let on (k : Nat) := free.filter (· / 32 == k)
  let k := if (on (2 * d)).length ≥ (on (2 * d + 1)).length then 2 * d else 2 * d + 1
  (on k).getLast?

/-- `n` units for a compute die, the rest from the other one; none: not enough. The list of free units is ascending. -/
def takeUnits (d : Nat) : Nat → List Nat → List Nat → Option (List Nat)
  | 0, _, acc => some acc
  | n + 1, free, acc =>
    match (pickUnit free d).or (pickUnit free (1 - d)) with
    | some u => takeUnits d n (free.filter (· != u)) (acc ++ [u])
    | none => none

/-- Units of the carve-out that hold neural-receiver images. -/
def State.nrxUnits (s : State) : List Nat := s.radio.nrxs.flatMap (·.units)

/-! ### What the cells go by -/

/-- Cells applied. -/
def State.appliedRecs (s : State) : List (List Nat) := (s.cells.filter fun e => e.1 < 512 && e.2.applied).map (·.2.rcd)

/-- The registers of a cell that an apply latches: CODE.CELL.CFG, RA.CELL.CFG0, CFG1, MSGA, FH.CELL.ADDR, ID, WIN, GAIN. -/
def State.cellLatch (s : State) (c : Nat) : List Word :=
  [s.rd (R.codeCellCfg c), s.rd (R.raCellCfg c 0), s.rd (R.raCellCfg c 1), s.rd (R.raCellMsga c), s.rd (R.fhCellAddr c),
    s.rd (R.fhCellId c), s.rd (R.fhCellWin c), s.rd (R.fhCellGain c)]

/-- The registers that a cell of a new set goes by: as latched where the set leaves it unchanged, else as they stand (R182). -/
def State.cellWords (s : State) (r : List Nat) : List Word :=
  if (s.cellsAt (recCell r)).rcd == r then (s.cellsAt (recCell r)).cfg else s.cellLatch (recCell r)

/-- The demands of a new set (R144). -/
def State.demands (s : State) (recs : List (List Nat)) : List CellDemand := recs.map fun r => s.demandOf (s.cellWords r) r

/-! ### HARQ pools (R216, R217) -/

def harqUnitBytes (fmt : Nat) : Nat := match fmt with
  | 0 => 25344
  | 1 => 19008
  | _ => 12672

/-- HARQ_PROC x C_max. -/
def harqPool (r : List Nat) : Nat := recHarq r * cdiv (93 * (recNrb r * 12 * 13 * recUl r * recModUl r)) 842400

/-- Bytes of a cell's HARQ pool. -/
def harqBytes (ws : List Word) (r : List Nat) : Nat := harqPool r * harqUnitBytes (F.codeCellCfg_HQ_FMT.get (ws.getD 0 0))

/-! ### The carve-out (R24, R121) -/

/-- Units that the cells of a set need of a compute die: HARQ pools and working sets in whole units, and the call areas. -/
def State.kenNeed (s : State) (recs : List (List Nat)) (d : Nat) : Nat :=
  let mine := recs.filter fun r => Config.cellDie recs (recCell r) % 2 == d
  cdiv ((mine.map fun r => harqBytes (s.cellWords r) r + Config.workBytes (r.take 8)).sum) (2 ^ 24) +
    (mine.filter fun r => recNrx r != 0).length

/-- The compute die whose demand a unit serves. -/
def State.servedBy (s : State) (u : Nat) : Nat := if s.radio.lent.contains u then 1 - u / 64 else u / 64

/-- Units of the carve-out that an apply never moves: the system unit, and those with data of cells it leaves unchanged. -/
def State.kenKept (s : State) (recs : List (List Nat)) : List Nat :=
  let kept := (recs.filter fun r => (s.cellsAt (recCell r)).rcd == r).map recCell
  s.radio.units.filter fun u => !(s.nrxUnits.contains u) && (u == 31 || Config.unitHolds s.appliedRecs s.radio.units u kept)

/-- The carve-out for a set of records, receivers' images apart, and the units of it that serve the other die's demand (R121): the units
that stay, then for each compute die those it holds already, then free ones; none: check 7 fails. -/
def State.carve (s : State) (recs : List (List Nat)) : Option (List Nat × List Nat) :=
  let kept := s.kenKept recs
  let more (d : Nat) : Nat := s.kenNeed recs d - (kept.filter (s.servedBy · == d)).length
  let idle (d : Nat) : List Nat :=
    (s.radio.units.filter fun u => !(s.nrxUnits.contains u) && !(kept.contains u) && s.servedBy u == d).take (more d)
  let old := kept ++ idle 0 ++ idle 1
  match takeUnits 0 (more 0 - (idle 0).length) s.kenFree [] with
  | none => none
  | some a0 => match takeUnits 1 (more 1 - (idle 1).length) (s.kenFree.filter fun u => !(a0.contains u)) [] with
    | none => none
    | some a1 => some (old ++ a0 ++ a1, (old.filter s.radio.lent.contains) ++ a0.filter (· / 64 != 0) ++ a1.filter (· / 64 != 1))

/-! ### Clusters of random access (R226, R236) -/

/-- Detector time that a cell asks of its cluster in the worst Last period, in quarters of a microsecond: every configuration in use, every
stream, every occasion. -/
def raDemand (ws : List Word) (r : List Nat) : Nat :=
  ([1, 2].map fun i =>
    let w := ws.getD i 0
    if F.raCellCfg_EN.get w == 1 then
      raCost (raFmt w.toNat (recScs r) (recDuplex r) 0 0) * recUl r *
        (Config.prachOccs w.toNat (recScs r) (recDuplex r) * 2 ^ F.raCellCfg_FDM.get w)
    else 0).sum

/-- Clusters for the cells of a set, (cell, cluster): the two of the die whose Kennel holds the cell's units first, then the other two, the
first with room for 1,000 us in all; the order within a die is firmware's (log 29). -/
def raAssign (recs : List (List Nat)) (need : List Nat → Nat) : List (Nat × Nat) :=
  (recs.foldl (fun (acc : List (Nat × Nat × Nat)) r =>
    let d := Config.cellDie recs (recCell r) % 2
    let k := Config.raCluster recs (recCell r) % 2
    let used (c : Nat) : Nat := ((acc.filter (·.2.1 == c)).map (·.2.2)).sum
    let order := [2 * d + k, 2 * d + (1 - k), 2 * (1 - d) + k, 2 * (1 - d) + (1 - k)]
    acc ++ [(recCell r, (order.find? fun c => used c + need r ≤ 4000).getD (2 * d + k), need r)]) []).map fun e => (e.1, e.2.1)

/-- No cluster is asked for more than 1,000 us. -/
def raFits (recs : List (List Nat)) (need : List Nat → Nat) : Bool :=
  let a := raAssign recs need
  (List.range 4).all fun c =>
    ((recs.filter fun r => a.any fun e => e.1 == recCell r && e.2 == c).map need).sum ≤ 4000

/-! ### Events (R267, R268) -/

/-- Request lead in stitches (R156). -/
def reqLead (scs : Nat) : Nat := match scs with
  | 0 => 4000
  | 1 => 2500
  | _ => 1000

/-- An event before it has its tick: stitch, type, cell, periods ahead, slot. -/
structure Ev where
  stitch : Nat
  typ : Nat
  cell : Nat
  ahead : Nat
  slot : Nat
deriving DecidableEq, Repr

/-- An event at a number of stitches (negative: before the period's start). -/
def evAt (typ cell slot : Nat) (pos : Int) : Ev :=
  ⟨(pos % 2000).toNat, typ, cell, (-(pos / 2000)).toNat, slot⟩

/-- The events of a cell; `cpAdv` in us. -/
def cellEvents (r : List Nat) (cpAdv : Nat) : List Ev :=
  let n := slotsPerPeriod (recScs r)
  (List.range n).flatMap fun (k : Nat) =>
    let p : Int := ((2000 * k / n : Nat) : Int)
    let q := p - reqLead (recScs r)
    [evAt 1 (recCell r) k q, evAt 2 (recCell r) k (q + 50), evAt 3 (recCell r) k (p - 2 * (recTadv r + cpAdv + 10 : Nat))]

def evWord (e : Ev) (tick : Nat) : Word :=
  BitVec.ofNat 64 (e.typ * 2 ^ 60 + e.cell * 2 ^ 51 + e.ahead * 2 ^ 49 + e.slot * 2 ^ 46 + tick * 2 ^ 39)

def wordEv (stitch : Nat) (w : Word) : Ev × Nat :=
  let n := w.toNat
  (⟨stitch, bits n 63 60, bits n 59 51, bits n 50 49, bits n 48 46⟩, bits n 45 39)

/-- Events of a copy with their ticks. -/
def LastCopy.evs (c : LastCopy) : List (Ev × Nat) :=
  c.ents.flatMap fun (n, e) => (List.range e.evCount).filterMap fun i =>
    (c.events.find? (·.1 == e.evFirst + i)).map fun x => wordEv n x.2

/-- A further event takes the lowest tick of its stitch with room for it: eight share one (R267, R268). -/
def placeEv (l : List (Ev × Nat)) (e : Ev) : List (Ev × Nat) :=
  let here := l.filter fun x => x.1.stitch == e.stitch
  let t := ((List.range 125).find? fun t => (here.filter (·.2 == t)).length < 8).getD 124
  l ++ [(e, t)]

/-- Order within a stitch: tick, then cell. -/
def insEv (x : Ev × Nat) : List (Ev × Nat) → List (Ev × Nat)
  | [] => [x]
  | y :: r => if x.2 < y.2 || x.2 == y.2 && x.1.cell < y.1.cell then x :: y :: r else y :: insEv x r

/-- The stitches of a list, from placed groups and events; the first event gets the index given (R266, R267). -/
def packFrom (pos : List (Nat × Nat × Nat × Nat)) (evs : List (Ev × Nat)) : List Nat → Nat → LastCopy
  | [], _ => ⟨[], []⟩
  | n :: r, first =>
    let here := (evs.filter fun x => x.1.stitch == n).foldl (fun l x => insEv x l) []
    let p := ((pos.find? (·.1 == n)).map (·.2)).getD (0, 0, 0)
    let e : StitchEnt := ⟨p.1, p.2.1, p.2.2 % 4096, here.length, if here.isEmpty then 0 else first⟩
    let c := packFrom pos evs r (first + here.length)
    ⟨if e == ⟨0, 0, 0, 0, 0⟩ then c.ents else (n, e) :: c.ents,
      (here.zipIdx.map fun (x, i) => (first + i, evWord x.1 x.2)) ++ c.events⟩

def packLast (pos : List (Nat × Nat × Nat × Nat)) (evs : List (Ev × Nat)) : LastCopy := packFrom pos evs (List.range 2000) 0

/-- The fenced arrays of the module. -/
def State.fencedArrays (s : State) : List Nat := (List.range 256).filter fun i => s.arrFenced (i / 4) (i % 4)

/-- CP_ADV of a record's cell: latched where the cell is kept, else as its register stands (R182). -/
def State.cpAdvOf (s : State) (r : List Nat) : Nat :=
  let x := s.cellsAt (recCell r)
  if x.rcd.take 8 == r.take 8 then x.fhWin F.fhCellWin_CP_ADV else s.fld (R.fhCellWin (recCell r)) F.fhCellWin_CP_ADV

/-- The shadow for a set of records (R270): firmware's placement, bounded by check 5, and the events of R268. The events of kept
cells keep their ticks. -/
def State.buildLast (s : State) (recs : List (List Nat)) (fenced : List Nat) : LastCopy :=
  let kept := (recs.filter fun r => (s.cellsAt (recCell r)).rcd.take 8 == r.take 8).map recCell
  let old := s.last.active.evs.filter fun e => kept.contains e.1.cell
  let new := recs.flatMap fun r => (cellEvents r (s.cpAdvOf r)).filter fun e => !(old.any (·.1 == e))
  packLast (Config.lastPlace (s.demands recs) fenced s.last.active.groups) (new.foldl placeEv old)

/-- No stitch of a copy holds more than 1,000 events (R465), and no core whose arrays the radio uses gives it only one (R152). -/
def LastCopy.fits (c : LastCopy) : Bool :=
  (c.ents.all fun e => e.2.evCount ≤ 1000) &&
  (List.range 64).all fun k => ((List.range 4).filter fun a => c.names (4 * k + a)).length != 1

/-! ### Power (R279-R281) -/

/-- Weight of a Last engine index in tenths of a watt (R279). -/
def engWeight (e : Nat) : Nat :=
  if e < 24 then 12 else if e < 32 then 9 else if e < 40 then 4 else if e < 56 then 8 else 6

/-- RESERVE_W of a copy with the applied cost in quarter CU (R279). -/
def reserveOf (c : LastCopy) (cuQ : Nat) : Nat :=
  let w := c.ents.foldl (fun (n : Nat) e => n + 30 * popcount e.2.arr 256 + 38 * popcount e.2.dsp 12 +
    ((bitList e.2.eng 64).map engWeight).sum) 0
  cdiv (4 * w + 2000 * cuQ) 80000

/-- THERM_PCT for a hottest junction in quarters of a degree (R281). -/
def thermPct (tj : Int) : Nat := if tj < 380 then 100 else if tj ≥ 400 then 0 else ((400 - tj) * 5).toNat

/-- THERM_PCT takes a value; the first below 100 is recorded (R460). -/
def Act.setTherm (p tj : Nat) : Act := .get fun s => .all [
  .when (p < 100 && s.fld R.lastPwr2 F.lastPwr2_THERM_PCT == 100) (.record 0x01 0x3FF 0xA001 [BitVec.ofNat 64 tj]),
  .setF R.lastPwr2 F.lastPwr2_THERM_PCT p,
  .setF R.pwrStat F.pwrStat_THERM (if p < 100 then 1 else 0)]

/-- CORR_PCT after a period (R281). -/
def corrNext (corr meas cap share : Nat) : Nat :=
  if meas > cap then (if share == 0 then 0 else corr - cdiv (100 * (meas - cap)) share) else min 100 (corr + 5)

/-- RESERVE_W and SHARE_W of the period that begins (R23, R279). -/
def Act.powerSplit : Act := .get fun s =>
  let r := reserveOf s.last.active (s.fld R.radioStat F.radioStat_CU_Q)
  .all [
    .setF R.lastPwr F.lastPwr_RESERVE_W r,
    .setF R.radioCap F.radioCap_RESERVE_W r,
    .setF R.lastPwr F.lastPwr_SHARE_W (s.fld R.lastPwr F.lastPwr_CAP_W - r - s.fld R.lastPwr F.lastPwr_IDLE_W)]

/-! ### The swap (R143, R271, R276) -/

/-- Registers of a cell that return to their reset values when it is removed (R159, R182, R225, R239). -/
def Act.cellRegsReset (c : Nat) : Act :=
  .each [R.radioCellStat c, R.radioCellCnt c, R.fhCellCnt c, R.fhCellCnt2 c, R.codeCellCnt c, R.raCellCnt c] fun a => .setRegs a 0

/-- A number in the place of another. -/
def swapNum (a b : Nat) (l : List Nat) : List Nat := l.map fun d => if d == a then b else d

/-- Work in hand for a cell that leaves is that of its last slots from now on. -/
def Act.workMoves (c : Nat) : Act := .get fun s => .all [
  .each s.cjobs fun e => match e.2 with
    | some j => .setCjobs e.1 (some { j with cells := swapNum c (512 + c) j.cells })
    | none => .skip,
  .each s.dsps fun e => .modDsps e.1 fun x => { x with job := x.job.map fun j => { j with cells := swapNum c (512 + c) j.cells } },
  .each s.ctxs fun e => .modCtxs e.1 fun x => { x with cells := swapNum c (512 + c) x.cells },
  .modSigq fun q => q.map fun g => { g with cells := swapNum c (512 + c) g.cells }]

/-- A cell leaves: its last slots stay until they are reported, its HARQ buffers until the coding jobs that serve it have ended; these
store nothing further for it (R143, R218). -/
def Act.cellLeave (c : Nat) : Act := .get fun s =>
  let x := s.cellsAt c
  .all [
    .setHq c [],
    .workMoves c,
    .setCells (512 + c) { x with
      hq := []
      pool := 0
      running := false
      leftAt := some s.readingNs
      stopAfter := if x.active || !x.slots.isEmpty then some (x.stopAfter.getD ((s.slotNow (muOf (recScs x.rcd)) - 1) % 2 ^ 32).toNat) else none },
    .setHq (512 + c) x.hq,
    .hqLeft (512 + c)]

/-- The gain thresholds in force: UP_THR and DN_THR of each step (R179). -/
def State.gainLatch (s : State) : List (Int × Int) :=
  (List.range 29).map fun k => (signed8 (s.fld (R.fhGainTbl k) F.fhGainTbl_UP_THR), signed8 (s.fld (R.fhGainTbl k) F.fhGainTbl_DN_THR))

/-- A cell is applied, stopped, with its registers as its apply latched them (R143, R179, R182, R217, R225, R227). -/
def Act.cellInstall (p : ApplySt) (r : List Nat) (base cluster : Nat) : Act :=
  let c := recCell r
  .all [
    .setCells c {
      rcd := r
      running := false
      stopAfter := none
      slots := []
      blocks := []
      hq := []
      pool := harqPool r
      cfg := ((p.regs.find? (·.1 == c)).map (·.2)).getD []
      gains := p.gains
      streams := []
      ra := []
      raH := 0
      raTry := []
      base := base
      cluster := cluster
      leftAt := none
      wset := 0
      raCut := none
      raStop := none },
    .setF (R.radioCellStat c) F.radioCellStat_STATE 1]

/-- Percent, rounded up, of stitches of n groups. -/
def pctOf (used n : Nat) : Nat := min 100 (cdiv (100 * used) (2000 * n))

/-- A segment entry: right bits R, W, A as 4, 2, 1 at [62:60] (R135). -/
def segEnt (i right sa dpa len : Nat) : Nat × Nat × Nat :=
  (i, 2 ^ 63 + right * 2 ^ 60 + sa / 65536, dpa / 65536 * 2 ^ 32 + len / 65536)

/-- Units of an image as runs: first unit, and how many follow one another. -/
def unitRuns : List Nat → List (Nat × Nat)
  | [] => []
  | u :: r => match unitRuns r with
    | (v, n) :: t => if v == u + 1 then (u, n + 1) :: t else (u, 1) :: (v, n) :: t
    | [] => [(u, 1)]

/-- Segments of an image at a radio address. -/
def runSegs (sa : Nat) : List (Nat × Nat) → List (Nat × Nat × Nat × Nat)
  | [] => []
  | (u, n) :: r => (4, sa, u, n) :: runSegs (sa + n * 2 ^ 24) r

/-- The radio partition's table for a set of records (R121, R135, R155): each loaded neural receiver that a cell names, read-only, the call
areas of those cells, and the system unit; which unit of the carve-out holds a call area, the system unit's radio address and the segments
of the radio's own areas are firmware's. -/
def State.radioSegs (s : State) (recs : List (List Nat)) (units : List Nat) : List (Nat × Nat × Nat) :=
  let named := s.radio.nrxs.filter fun n => recs.any fun r => recNrx r == n.n
  let img := named.flatMap fun n => runSegs (0x7F0000000000 + (n.n - 1) * 0x100000000) (unitRuns n.units)
  let call := (recs.filter fun r => recNrx r != 0).map fun r =>
    (6, 0x7E0000000000 + recCell r * 0x1000000, units.getD (Config.callUnit recs (recCell r)) 0, 1)
  let all_ : List (Nat × Nat × Nat × Nat) := img ++ call ++ [(7, Config.sysAddr, 31, 1)]
  let l := all_.zipIdx.map fun (e, i) =>
    segEnt i e.1 e.2.1 (e.2.2.1 * 2 ^ 24) (e.2.2.2 * 2 ^ 24)
  l ++ Config.radioSegs recs units

/-- The new set of a cell_apply comes into force (R90, R121, R143). -/
def Act.applyCommit (p : ApplySt) : Act := .get fun s =>
  let cells := p.recs.map recCell
  let same (r : List Nat) : Bool := (s.cellsAt (recCell r)).rcd.take 8 == r.take 8
  let words (r : List Nat) : List Word := ((p.regs.find? (·.1 == recCell r)).map (·.2)).getD []
  let (dec, enc, _) := Config.radioDemand (p.recs.map fun r => s.demandOf (words r) r)
  let clusters := raAssign p.recs fun r => raDemand (words r) r
  let cluster (r : List Nat) : Nat := ((clusters.find? (·.1 == recCell r)).map (·.2)).getD 0
  let c := s.last.active
  .all [
    .each s.appliedRecs fun r =>
      if !(cells.contains (recCell r)) then
        .all [.cellLeave (recCell r), .setCells (recCell r) (dfltCells 0), .cellRegsReset (recCell r)]
      else .when (!(p.recs.contains r) && !((p.recs.filter same).any fun q => recCell q == recCell r)) (.cellLeave (recCell r)),
    .each (p.recs.filter fun r => !(same r)) fun r =>
      .cellInstall p r (Config.cellBase p.recs p.units (recCell r)) (cluster r),
    .each (p.recs.filter same) fun r => .modCells (recCell r) fun x => { x with cluster := cluster r },
    .modRadio fun r => { r with pend := none, lent := p.lent, units := p.units ++ s.nrxUnits.filter fun u => !(p.units.contains u) },
    .kenStat,
    .modParts 0x101 fun x => { x with segs := (s.radioSegs p.recs p.units).take 64 },
    .each (List.range 64) fun k =>
      let u := reserveFor p.recs c.groups k
      .all [
        .setF (R.coreSeqRadio k) F.coreSeqRadio_RADIO_ARR ((List.range 4).foldl (fun m a => if c.names (4 * k + a) then setBit m a else m) 0),
        .setF (R.coreSeqRadio k) F.coreSeqRadio_CS_UNITS u.1,
        .setF (R.coreSeqRadio k) F.coreSeqRadio_ACC_UNITS u.2],
    .setF R.codeStat F.codeStat_HQ_TOTAL ((p.recs.map harqPool).sum),
    .setF R.radioStat F.radioStat_CU_Q ((p.recs.map cuQuarters).sum),
    .setF R.radioStat F.radioStat_CELLS p.recs.length,
    .setF R.radioStat F.radioStat_APPLY_PEND 0,
    .setF R.radioCap F.radioCap_DEC_PCT dec,
    .setF R.radioCap F.radioCap_ENC_PCT enc,
    .setF R.radioCap F.radioCap_DSP_PCT (pctOf ((c.ents.map fun e => popcount e.2.dsp 12).sum) 12),
    .setF R.radioCap F.radioCap_ARR_PCT (pctOf ((c.ents.map fun e => popcount e.2.arr 256).sum) 256),
    .radioActive]

/-- The two copies exchange roles (R271); a substitution is carried into the new copy or ends (R276). -/
def Act.lastSwap : Act := .all [
  .modLast fun l => { l with active := l.shadow, shadow := l.active },
  .modF R.lastStat F.lastStat_COPY fun v => 1 - v,
  .incF R.lastCnt F.lastCnt_SWAPS,
  .setF R.lastSwap F.lastSwap_AT 0,
  .setF R.lastStat F.lastStat_SWAP_PEND 0,
  .get fun s =>
    let bad := s.fencedArrays.filter s.last.active.names
    .all [
      .incF R.lastCnt F.lastCnt_SUBST (bad.filter fun i => !(s.last.subst.contains i)).length,
      .modLast fun l => { l with subst := bad, rebuild := bad },
      .setF R.lastStat F.lastStat_SUBST (if bad.isEmpty then 0 else 1)],
  .get fun s => match s.radio.pend with
    | some p => .applyCommit p
    | none => .skip]

/-! ### Choosing a boundary (R143, R261, R264) -/

/-- Tick of the k-th boundary from now, k from 1, at the RATE in force. -/
def State.boundaryTick (s : State) (k : Nat) : Nat :=
  if s.onSn then
    let ms : Int := 1000000 * 2 ^ 40
    let target := (s.snNow / ms + k) * ms
    let step := 4 * 2 ^ 40 + 4 * s.rate
    s.tick + ((target - s.snNow + step - 1) / step).toNat
  else s.fld R.lastBtick F.lastBtick_TICK + 250000 * k

/-- PERIODS at the first boundary at least 500,000 ticks from now (R143). -/
def State.armAt (s : State) : Nat :=
  let k := ((List.range 8).map (· + 1)).find? fun k => s.boundaryTick k ≥ s.tick + 500000
  s.fld R.lastPeriod F.lastPeriod_PERIODS + k.getD 8

def Act.arm (c : LastCopy) : Act := .get fun s => .all [
  .modLast fun l => { l with shadow := c },
  .setF R.lastSwap F.lastSwap_AT s.armAt,
  .setF R.lastStat F.lastStat_SWAP_PEND 1]

/-! ### The commands -/

/-- The arrays that are the radio's in the stitch that ends (R270). -/
def Act.arrKeep : Act := .get fun s => .modLast fun l =>
  { l with prevArr := (List.range 256).foldl (fun m i => if s.arrRadio s.stitch (i / 4) (i % 4) then setBit m i else m) 0 }

/-- PERIOD_BOUNDARY: a period begins; `measW` is the mean input power of the period just ended (R23, R261, R271, R279, R281, R458, R459).
A cap change or thermal step that came before takes effect; the armed swap takes place at its own boundary. -/
def execPeriodBoundary (measW : Nat) (s : State) : Out := Act.out s <|
  let n := s.fld R.lastPeriod F.lastPeriod_PERIODS + 1
  let cap := s.fld R.lastPwr F.lastPwr_CAP_W
  .all [
    .arrKeep,
    .modLast fun l => { l with newFence := [] },
    .setF R.lastPeriod F.lastPeriod_PERIODS n,
    .setF R.lastBtick F.lastBtick_TICK s.tick,
    .setF R.lastStat F.lastStat_STITCH 0,
    .setF R.lastStat F.lastStat_LONG 0,
    .modLast fun l => { l with stitchCyc := s.clk.cyc, offMs := s.fld R.radioSfn F.radioSfn_OFF_MS, nextCap := none, nextTherm := none },
    .setF R.lastPwr2 F.lastPwr2_MEAS_W measW,
    .setF R.lastPwr2 F.lastPwr2_CORR_PCT
      (corrNext (s.fld R.lastPwr2 F.lastPwr2_CORR_PCT) measW cap (s.fld R.lastPwr F.lastPwr_SHARE_W)),
    match s.last.nextCap with
    | some c => .setF R.lastPwr F.lastPwr_CAP_W c
    | none => .skip,
    match s.last.nextTherm with
    | some p => .setTherm p (s.fld R.pwrTemp F.pwrTemp_TJ_MAX)
    | none => .skip,
    .when (s.flag R.lastStat F.lastStat_SWAP_PEND && s.fld R.lastSwap F.lastSwap_AT == n) .lastSwap,
    .powerSplit,
    .get fun t => .when (t.fld R.pwrStat F.pwrStat_PIN ≤ t.fld R.lastPwr F.lastPwr_CAP_W) (.setF R.pwrStat F.pwrStat_PEAK 0)]

/-- Owner of an engine or DSP group in a stitch: 0 none, 1 radio, 2 manager. -/
def ownerCode (fenced radio : Bool) : Nat := if fenced then 0 else if radio then 1 else 2

/-- Leftover stitches of the arrays begin, for the counters (R400): the groups that the Last does not give to the radio. -/
def Act.leftoverCount (arr : Nat) : Act := .all [
  .each (List.range 64) fun c => .pmcCore c 0 2 (4 - popcount (arr / 16 ^ c % 16) 4) 256 0,
  .pmc none 0 2 (256 - popcount arr 256) 256 0]

/-- STITCH_START: stitch n of the period begins: the bucket receives its credit (R280), a lengthened period is marked (R264), and held
transmission ends once its time has come (R158). -/
def execStitchStart (n : Nat) (s : State) : Out := Act.out s <|
  let e := s.stitchEnt n
  let share := s.fld R.lastPwr F.lastPwr_SHARE_W
  let therm := s.fld R.lastPwr2 F.lastPwr2_THERM_PCT
  let credit := share * 30 * therm * s.fld R.lastPwr2 F.lastPwr2_CORR_PCT
  .all [
    .when (n != s.stitch) .arrKeep,
    .setF R.lastStat F.lastStat_STITCH (if n < 2000 then n else 0x7FF),
    .when (n ≥ 2000 && !(s.flag R.lastStat F.lastStat_LONG)) (.all [.setF R.lastStat F.lastStat_LONG 1, .incF R.lastCnt2 F.lastCnt2_LONG]),
    .modLast fun l => { l with
      stitchCyc := s.clk.cyc
      pwrHold := false
      bucket := if s.flag R.pwrStat F.pwrStat_PEAK then 0 else min (l.bucket + credit) (40 * credit) },
    .leftoverCount e.arr,
    .when (therm < 100) (.all [.incF R.lastCnt2 F.lastCnt2_THERM_HOLD, .pmc none 0xC 2 1 0x100 0]),
    .each (List.range 96) fun d =>
      .setF (R.dspStat d) F.dspStat_OWNER (ownerCode (s.flag (R.dspStat d) F.dspStat_FENCE) (bit e.dsp (d / 8))),
    .each (List.range 40) fun k =>
      .setF (R.codeEngStat k) F.codeEngStat_OWNER (ownerCode (s.flag (R.codeEngStat k) F.codeEngStat_FENCE) (bit e.eng k)),
    match s.radio.resume with
    | some t => .when (s.onSn && !(later t s.readingNs)) (.all [
        .setF R.radioStat F.radioStat_HELD 0, .modRadio fun r => { r with resume := none }])
    | none => .skip]

/-- LAST_REBUILD: Uhlile builds and arms a shadow without the fenced array, unless a shadow is armed; a rebuilt Last that check 5 refuses
leaves the substitution in force, is recorded and raised (R277). -/
def execLastRebuild (core arr : Nat) (s : State) : Out := Act.out s <|
  let i := 4 * core + arr
  .when (s.last.rebuild.contains i && !(s.flag R.lastStat F.lastStat_SWAP_PEND)) (
    let recs := s.appliedRecs
    let fenced := s.fencedArrays
    .all [
      .modLast fun l => { l with rebuild := l.rebuild.filter fun j => !(fenced.contains j) },
      if Config.lastFits (s.demands recs) fenced s.last.active.groups && (s.buildLast recs fenced).fits then .arm (s.buildLast recs fenced)
      else .all [.record 0x00 0x101 0x4804 [BitVec.ofNat 64 i, 5], .attnRadio]])

end Sys2Proof.Machine
end

