-- ==== Sys2Proof/Machine/HostLink.lean ====
section
/-! DEFINITION. The host link, the attention vector, BAR2 and the Ethernet ports (R160, R283-R296, R345, R387, R389; log 31). -/

namespace Sys2Proof.Machine

/-! ### Attention (R291-R295) -/

/-- ATTENTION_SET: a set reaches the attention arbiter; NOT_READY is set by the module alone (R291, R292). -/
def execAttentionSet (b : Nat) (s : State) : Out := Act.out s <| .when (b < 259) (.attnSet b)

/-- ATTENTION_FLUSH_DONE: the flush read completes or fails: RB_N falls if the vector was written with a set bit, and is released when
it was written with none and none has been set since; a combined write follows (R292). -/
def execAttentionFlushDone (_ok : Bool) (s : State) : Out := Act.out s <|
  .when s.attn.busy (.all [
    .modAttn fun a => { a with busy := false },
    .get fun t =>
      if t.attn.wrote then .rbWant true
      else .when (!t.attnAny) (.rbWant false),
    .get fun t => .when t.attn.again (
      if t.attnWrites then .vectorWrite else .all [.modAttn fun a => { a with again := false }, .rbWant t.attnAny])])

/-- Host write to a word of HOST.ATTN: bits written one are cleared; an acknowledge that clears a bit changes the vector (R292, R295).
NOT_READY and the reserved bits and words stay. -/
def Act.attnAck (word : Nat) (val : Word) : Act := .get fun s =>
  if word < 4 then
    .when (s.rd (R.hostAttn word) &&& val != 0) (.all [.setRegs (R.hostAttn word) (s.rd (R.hostAttn word) &&& ~~~val), .attnChanged])
  else
    let cur := s.fld R.hostAttn4 F.hostAttn4_BITS
    .when (word == 4 && cur &&& (val.toNat % 8) != 0) (.all [.clrF R.hostAttn4 F.hostAttn4_BITS (val.toNat % 8), .attnChanged])

/-- ATTENTION_ACK. `tied`: the bits whose sets fall in the clock of the acknowledge and come first in the queue; a set wins and the bit
stays (R5, R27; log 2). -/
def execAttentionAck (word : Nat) (val tied : Word) (s : State) : Out := Act.out s (.attnAck word (val &&& ~~~tied))

/-- A write of HOST.ATTN_CFG: setting EN, or changing BASE while EN is set, writes the vector once (R295). -/
def Act.attnCfgWrite (val : Word) : Act := .get fun s =>
  let base := F.hostAttnCfg_BASE.get val
  let en := F.hostAttnCfg_EN.get val == 1
  let was := s.flag R.hostAttnCfg F.hostAttnCfg_EN
  .all [
    .setRegs R.hostAttnCfg val,
    .when (en && (!was || base != s.fld R.hostAttnCfg F.hostAttnCfg_BASE)) (.get fun t =>
      .when t.attnWrites (if t.attn.busy then .modAttn fun a => { a with again := true } else .vectorWrite))]

/-- ATTN_CFG_WRITE. -/
def execAttnCfgWrite (val : Word) (s : State) : Out := Act.out s (.attnCfgWrite val)

/-- RB_N_HOLD_END: RB_N has kept its level for 1 us; a level wished meanwhile follows (R293). -/
def execRbNHoldEnd (s : State) : Out := Act.out s <|
  .when s.attn.hold (.all [.modAttn fun a => { a with hold := false }, .rbWant s.attn.want])

/-! ### BAR2 (R288) -/

/-- BAR2_ACCESS: an access to Kennel at SEL x 16 MiB + offset; a write into the radio carve-out has no effect and is a violation of the
manager; an uncorrectable read is answered with Completer Abort (R130, R288). -/
def execBar2Access (off : Nat) (write : Bool) (len : Nat) (data : List Byte) (upset : List (Nat × Upset)) (s : State) : Out :=
  Act.out s <|
    let a := s.fld R.hostBar2 F.hostBar2_SEL * 0x1000000 + off
    let n := if write then data.length else len
    .when (off + n ≤ 0x10000000) (.all [
      .upsets upset,
      .pmc none 0xB 2 1 0x100 8 (some a),
      if write then
        (if (List.range n).any fun i => s.radio.units.contains ((a + i) / 0x1000000) then .violation 0x100 violMemory
        else .writeMem 0x3FF 8 a data fun _ => .emit (.memWrote .bar2 false))
      else .readMem 0x3FF 8 a n fun d err => if err then .memError .bar2 else .emit (.memRead .bar2 d false)])

/-! ### The link (R283, R290, R296) -/

/-- A DMA read ends in an error response: the slice faults, or the cells served are reset with cause 0x05; with the link down no radio
access is issued (R290, R296). -/
def Act.dmaEnds (part : Nat) (cells : List Nat) : Act := .get fun s => .all [
  .when (part != 0x101 || s.linkOn) (.incF R.hostDma F.hostDma_CPL_ERR),
  if part == 0x101 then .when s.linkOn (.cellResets cells 5) else .when (part < 256) (.dmaFault part)]

/-- DMA_COMPLETION_ERROR: Unsupported Request or Completer Abort. -/
def execDmaCompletionError (part : Nat) (cells : List Nat) (s : State) : Out := Act.out s (.dmaEnds part cells)

/-- COMPLETION_TIMEOUT. -/
def execCompletionTimeout (part : Nat) (cells : List Nat) (s : State) : Out := Act.out s (.dmaEnds part cells)

/-- LINK_DOWN: without PERST_N; the fetches and writes that the link carried are not issued, sets accumulate (R296, R389). -/
def execLinkDown (s : State) : Out := Act.out s <|
  .when s.linkOn (.all [
    .modLinkOn fun _ => false,
    .setF R.hostLink F.hostLink_RATE 0,
    .setF R.hostLink F.hostLink_WIDTH 0,
    .setF R.hostLink F.hostLink_FLIT 0,
    .when (!s.sys.perst) (.all [.incF R.hostLink F.hostLink_DOWNS, .healthEv 0 0 2])])

/-- LINK_UP: the link trains at a rate and width; the vector is written once if EN is set (R283, R296). -/
def execLinkUp (rate width : Nat) (flit : Bool) (s : State) : Out := Act.out s <|
  .when (!s.linkOn && !s.sys.perst && 5 ≤ rate && rate ≤ 7 && 1 ≤ width && width ≤ 5) (.all [
    .modLinkOn fun _ => true,
    .setF R.hostLink F.hostLink_RATE rate,
    .setF R.hostLink F.hostLink_WIDTH width,
    .setF R.hostLink F.hostLink_FLIT (if rate > 5 || flit then 1 else 0),
    .get fun t => .when t.attnWrites (if t.attn.busy then .modAttn fun a => { a with again := true } else .vectorWrite)])

/-- PCIE_CORRECTABLE_ERROR (R389). -/
def execPcieCorrectableError (s : State) : Out := Act.out s <| .all [.incF R.hostLink F.hostLink_CE, .healthEv 0 0 1]

/-! ### Ethernet lanes and ports (R160, R345, R387, R389) -/

/-- Lanes of a port by its WIDTH code. -/
def portLanes (w : Nat) : Nat := match w with
  | 0 => 0
  | w + 1 => 2 ^ w

/-- The port that a lane belongs to, by first lane. -/
def State.portOf (s : State) (lane : Nat) : Option Nat :=
  (List.range 48).find? fun p => p ≤ lane && lane < p + portLanes (s.fld (R.fhPortCfg p) F.fhPortCfg_WIDTH)

/-- A port loses its link. -/
def Act.portDown (p : Nat) : Act := .modSys fun y => { y with ports := y.ports.filter (· != p) }

/-- A lane loses signal or link: one record, an input of its health, and its port is down. -/
def Act.laneLoss (lane : Nat) : Act := .get fun s => .all [
  .withFree fun n => .record 0x06 0x3FF 0x5001 [BitVec.ofNat 64 lane, Config.laneCount n],
  .healthEv 2 lane 2,
  match s.portOf lane with
  | some p => .portDown p
  | none => .skip]

/-- LANE_LOSS_OF_SIGNAL: a lane of a fronthaul or unused port (R387). -/
def execLaneLossOfSignal (lane : Nat) (s : State) : Out := Act.out s <|
  .when (lane < 48 && (match s.portOf lane with | some p => s.fld (R.fhPortCfg p) F.fhPortCfg_USE != 2 | none => true)) (.laneLoss lane)

/-- FABRIC_PORT_DOWN: a fabric port leaves the egress set (R345, R387). -/
def execFabricPortDown (port : Nat) (s : State) : Out := Act.out s <|
  .when (port < 48 && s.fld (R.fhPortCfg port) F.fhPortCfg_USE == 2 && s.sys.ports.contains port) (.laneLoss port)

/-- PORT_LINK_UP: a port of the map regains signal and link (R345). -/
def execPortLinkUp (port : Nat) (s : State) : Out := Act.out s <|
  .when (port < 48 && s.fld (R.fhPortCfg port) F.fhPortCfg_WIDTH != 0 && !(s.sys.ports.contains port))
    (.modSys fun y => { y with ports := (y.ports.filter (· < port)) ++ [port] ++ y.ports.filter (port < ·) })

/-- FEC_UNCORRECTABLE_CODEWORD (R389). -/
def execFecUncorrectableCodeword (lane : Nat) (s : State) : Out := Act.out s <|
  .when (lane < 48) (.all [
    .withFree fun n => .record 0x06 0x3FF 0x5002 [BitVec.ofNat 64 lane, Config.laneCount n], .healthEv 2 lane 1])

/-- BAD_FCS_FRAME: discarded and counted (R182). -/
def execBadFcsFrame (port : Nat) (s : State) : Out := Act.out s <| .when (port < 48) (.incF (R.fhPortCnt port) F.fhPortCnt_FCS)

/-- CHANNEL_RETRAINING: a channel is retrained in service; a failed retraining fences it (R129, R389). -/
def execChannelRetraining (ch retries : Nat) (ok : Bool) (s : State) : Out := Act.out s <|
  .when (ch < 128) (.all [.healthEv 1 ch 2 retries, .when (!ok) (.channelFence ch)])

end Sys2Proof.Machine
end

