-- ==== Sys2Proof/Machine/Joreg.lean ====
section
/-! DEFINITION. The Joreg command path: the opcode table, the checks of R301, launches, and the slice commands of families 0x01 to 0x03
with the slice's resets, steps and epochs (R297-R318, R353, R357, R366, R367, R394, R441, R447; logs 34, 35). -/

namespace Sys2Proof.Machine

/-! ### The opcodes (R302, R320, R391, R408, R421, R432) -/

/-- An opcode: the mailboxes that allow it, whether it is a launch, its argument bytes (none: 8 + 64 NREC), version 2. -/
structure JOp where
  mgr : Bool
  slice : Bool
  launch : Bool
  len : Option Nat
  v2 : Bool
deriving DecidableEq, Repr

def jOps : List (Nat × JOp) := [
  (0x0001, ⟨true, true, false, some 0, true⟩),
  (0x0002, ⟨true, false, false, some 16, false⟩),
  (0x0100, ⟨true, false, false, some 1152, false⟩),
  (0x0101, ⟨true, false, false, some 8, false⟩),
  (0x0102, ⟨true, false, false, some 8, false⟩),
  (0x0103, ⟨true, false, false, some 8, false⟩),
  (0x0104, ⟨true, false, false, some 8, false⟩),
  (0x0105, ⟨true, true, false, some 8, false⟩),
  (0x0107, ⟨true, false, false, some 8, false⟩),
  (0x0200, ⟨false, true, true, some 32, false⟩),
  (0x0201, ⟨false, true, false, some 8, false⟩),
  (0x0202, ⟨true, true, true, some 32, false⟩),
  (0x0203, ⟨false, true, true, some 40, false⟩),
  (0x0204, ⟨false, true, false, some 8, false⟩),
  (0x0205, ⟨true, true, false, some 8, false⟩),
  (0x0300, ⟨false, true, true, some 16, false⟩),
  (0x0301, ⟨false, true, false, some 0, false⟩),
  (0x0302, ⟨false, true, true, some 24, false⟩),
  (0x0303, ⟨false, true, true, some 32, false⟩),
  (0x0304, ⟨false, true, true, some 32, false⟩),
  (0x0305, ⟨false, true, true, some 40, false⟩)] ++ [
  (0x0400, ⟨true, false, false, none, true⟩),
  (0x0401, ⟨true, false, false, some 0, true⟩),
  (0x0402, ⟨true, false, false, some 0, true⟩),
  (0x0403, ⟨true, false, false, some 24, false⟩),
  (0x0404, ⟨true, false, false, some 8, false⟩),
  (0x0405, ⟨true, false, false, some 32, true⟩),
  (0x0406, ⟨true, false, false, some 48, true⟩),
  (0x0500, ⟨true, false, false, some 8, false⟩),
  (0x0501, ⟨true, false, false, some 8, true⟩),
  (0x0502, ⟨true, false, false, some 8, true⟩),
  (0x0503, ⟨true, false, false, some 0, true⟩),
  (0x0600, ⟨true, true, false, some 32, false⟩),
  (0x0601, ⟨true, true, false, some 8, false⟩),
  (0x0602, ⟨true, true, false, some 16, false⟩),
  (0x0603, ⟨true, true, false, some 8, false⟩),
  (0x0604, ⟨true, true, true, some 32, false⟩),
  (0x0605, ⟨true, true, false, some 0, false⟩)] ++ [
  (0x0700, ⟨true, false, false, some 24, false⟩),
  (0x0701, ⟨true, false, false, some 8, false⟩),
  (0x0702, ⟨true, false, false, some 8, false⟩),
  (0x0703, ⟨true, false, false, some 16, false⟩),
  (0x0800, ⟨true, false, false, some 16, true⟩),
  (0x0801, ⟨true, false, false, some 0, true⟩),
  (0x0802, ⟨true, false, false, some 0, true⟩),
  (0x0803, ⟨true, false, false, some 0, true⟩),
  (0x0804, ⟨true, false, false, some 8, true⟩),
  (0x0805, ⟨true, false, false, some 104, true⟩),
  (0x0806, ⟨true, false, false, some 0, true⟩),
  (0x0900, ⟨true, true, false, some 32, false⟩),
  (0x0901, ⟨true, true, false, some 0, false⟩),
  (0x0902, ⟨true, false, false, some 72, false⟩)]

def jOp (op : Nat) : Option JOp := (jOps.find? (·.1 == op)).map (·.2)

/-- Argument bytes that the command states. -/
def JCmd.want (j : JCmd) (o : JOp) : Nat := match o.len with
  | some n => n
  | none => 8 + 64 * bits (j.a 0) 8 0

/-- Argument words whose bit 0 selects a host address (R309, R311, R312, R408). -/
def hostWords (op : Nat) : List Nat := match op with
  | 0x0200 => [2]
  | 0x0202 => [0, 3]
  | 0x0203 => [0, 3]
  | 0x0300 => [0]
  | 0x0302 => [1]
  | 0x0303 => [2]
  | 0x0304 => [3]
  | 0x0305 => [3]
  | 0x0604 => [0, 3]
  | _ => []

/-- The command hands Uhlile a host address (R301 check 4); that of recovery_load goes without a PASID (R447). -/
def JCmd.usesHost (j : JCmd) : Bool :=
  j.opcode != 0x0002 &&
    (j.outAddr != 0 || [0x0302, 0x0303, 0x0703].contains j.opcode || (hostWords j.opcode).any fun w => bit (j.a w) 0)

/-- The module waits in recovery (R447). -/
def State.recWait (s : State) : Bool := s.flag R.hostBoot F.hostBoot_REC_WAIT

/-- What stops a command before its own checks: status and DETAIL; none: it is performed (R301, R314, R320, R441, R447). -/
def State.precheck (s : State) (j : JCmd) : Option (Nat × Nat) :=
  if j.part < 256 && s.sliceState j.part == 4 then
    some (if (s.partsAt j.part).resetMgr then (stReset, 0) else (stFault, s.fld (R.mbSliceFaultInfo j.part) F.mbSliceFaultInfo_CLASS))
  else if s.recWait && j.opcode != 0x0001 && j.opcode != 0x0002 then some (stBadState, 0x00FE)
  else if s.failed && !([0x0001, 0x0800, 0x0806, 0x0900, 0x0901].contains j.opcode) then some (stBadState, 0x00FF)
  else match jOp j.opcode with
    | none => if j.version == 3 then some (stBadOpcode, 0) else some (stBadVersion, 0)
    | some o =>
      if j.version != 3 && !(j.version == 2 && j.part == 256 && o.v2) then some (stBadVersion, 0)
      else if !(if j.part == 256 then o.mgr else o.slice) ||
          (j.list.isSome && (o.launch || [0x0204, 0x0205, 0x0102, 0x0101].contains j.opcode || j.want o > 224)) then some (stBadOpcode, 0)
      else if j.argLen != j.want o || j.want o > (if j.part < 256 then 2016 else 32736) then some (stBadField, 0xFFFF)
      else if j.usesHost && (s.pasidOf j.part j.pasidIdx).isNone then some (stBadField, 0xFFFF)
      else none

/-- A command is checked and performed. -/
def Act.perform (j : JCmd) (k : JCmd → Act) : Act := .get fun s =>
  match s.precheck j with
  | some (st, d) => if st == stReset || st == stFault then .answer j st d [] 0 0 else .refuse j st d
  | none => k j

/-- A mailbox page exists, holds a command, and Uhlile serves it: not while NOT_READY is set, but for a failed module and recovery
wait (R287, R300, R382, R441, R442, R447). -/
def State.mbServed (s : State) (mb : Nat) : Bool :=
  (mb == 256 || s.sliceLive mb) && bit (s.rd (mbHdr mb 0)).toNat 63 && !s.sys.uhDown && (!s.notReady || s.failed || s.recWait)

/-- Uhlile accepts the command in a mailbox (R300): the reply header is zeroed, then the command is checked and performed. The row's
opcode must be the one in the mailbox. -/
def Act.mbRun (mb op : Nat) (k : JCmd → Act) : Act := .get fun s =>
  .when (s.mbServed mb && (s.mbCmd mb).opcode == op)
    (.all [.each [0, 1, 2, 3] fun i => .setRegs (mbRepHdr mb i) 0, .perform (s.mbCmd mb) k])

/-- A command whose opcode is no command of the table: answered as soon as it is served (R301; log 34). -/
def Act.mbUnknown (mb : Nat) : Act := .get fun s =>
  .when (s.mbServed mb && (jOp (s.mbCmd mb).opcode).isNone)
    (.all [.each [0, 1, 2, 3] fun i => .setRegs (mbRepHdr mb i) 0, .perform (s.mbCmd mb) fun _ => .skip])

/-- The checks of a command in order: the first that fails gives its status and DETAIL (R301). -/
def Act.checks (j : JCmd) : List (Bool × Nat × Nat) → Act → Act
  | [], k => k
  | (bad, st, d) :: r, k => if bad then .refuse j st d else Act.checks j r k

/-! ### Launches (R309, R353) -/

/-- Bits of a CPL_ADDR that must be zero: it is 32 B aligned but for the space bit. -/
def cplBad (w : Nat) : Bool := bits w 4 1 != 0

/-- A command is launched: LIMIT at 64 in flight, else a handle, ACCEPTED, then its work. -/
def Act.launch (j : JCmd) (kind cpl : Nat) (cores : List Nat) (ken lp : Nat) (args : List Nat) (k : Launch → Act) : Act := .get fun s =>
  let x := s.partsAt j.part
  if x.launches.length ≥ 64 then .refuse j stLimit 0
  else
    let h := x.nextHandle
    let l : Launch := ⟨h, kind, j.tag, j.notify, cpl, if j.usesHost then j.pasidIdx else 4, cores, 0, ken, lp, false, args⟩
    .all [
      .modParts j.part fun x => { x with
        nextHandle := if (h + 1) % 2 ^ 32 == 0 then 1 else (h + 1) % 2 ^ 32
        launches := x.launches ++ [l] },
      .modF (R.sliceStat j.part) F.sliceStat_INFLIGHT (· + 1),
      .when (j.part < 256 && s.sliceState j.part == 1) (.setF (R.sliceStat j.part) F.sliceStat_STATE 2),
      .reply j stAccepted 0 [] 0 h,
      k l]

/-- A launch of a partition takes other arguments. -/
def Act.setLaunch (p : Nat) (l : Launch) : Act :=
  .modParts p fun x => { x with launches := x.launches.map fun y => if y.handle == l.handle then l else y }

/-- A choice event of a slice (R352, R353). -/
def Act.choice (p : Nat) : Act := .when (p < 256) (.all [
  .modF (R.repSliceChoice p) F.repSliceChoice_CHOICES (· + 1),
  .modParts p fun x => { x with choiceSince := true, launches := x.launches.map fun l => { l with nonrep := true } }])

/-! ### Resources (R24, R33, R121, R298, R304, R305) -/

/-- What R33 asks: as many arrays, as much Kennel and LPDDR5X on CD0 as on CD1; 0, or the DETAIL of SYMMETRY. -/
def asym (arrays ken lp : Nat) : Nat :=
  if popcount (arrays % 2 ^ 128) 128 != popcount (arrays / 2 ^ 128) 128 then 1
  else if popcount (ken % 2 ^ 64) 64 != popcount (ken / 2 ^ 64) 64 then 2
  else if popcount (lp % 2 ^ 512) 512 != popcount (lp / 2 ^ 512) 512 then 3
  else 0

/-- An array that slice_create may grant: held by no slice, not fenced, not retired. -/
def State.arrFree (s : State) (i : Nat) : Bool :=
  !(s.parts.any fun e => bit e.2.arrays i) && !(s.arrFenced (i / 4) (i % 4)) && !(s.flag (R.coreArrStat (i / 4) (i % 4)) F.coreArrStat_RETIRED)

/-- An engine in the pool: held by no slice, and everything it sent answered or timed out (R344). -/
def State.engFree (s : State) (e : Nat) : Bool :=
  !(s.parts.any fun x => bit x.2.rtv e) && !(s.conns.any fun c => c.2.out.any (·.eng == e))

def State.ctrFree (s : State) (i : Nat) : Bool := !(s.parts.any fun x => bit x.2.ctr i)

/-- Free 1 GiB units of a die, ascending; they lie in the populated range. -/
def State.lpFree (s : State) (d : Nat) : List Nat :=
  (List.range (min 512 (s.lpSize d / 2 ^ 30))).filter fun g => !(s.parts.any fun e => bit e.2.lp (512 * d + g))

def maskOf (l : List Nat) : Nat := l.foldl setBit 0

/-- Quota units assigned. -/
def State.quotaUsed (s : State) : Nat := (s.parts.map (·.2.quota)).sum

def lpUnitDpa (u : Nat) : Nat := lpBase (u / 512) + u % 512 * 2 ^ 30

/-- Bytes of [a, a + n) inside [b, b + m). -/
def overlap (a n b m : Nat) : Nat := min (a + n) (b + m) - max a b

/-- The first entry of a segment table that R136 refuses, given the units granted (Kennel 32 k + u, LPDDR5X 512 d + g). -/
def segRefused (ken lp : List Nat) (segs : List (Nat × Nat × Nat)) : Option Nat :=
  let sa (g : Nat × Nat × Nat) : Nat × Nat := (g.2.1 % 2 ^ 32 * 65536, g.2.2 % 2 ^ 32 * 65536)
  let bad (g : Nat × Nat × Nat) : Bool :=
    let (b, n) := sa g
    let d := g.2.2 / 2 ^ 32 * 65536
    n == 0 || b + n > 2 ^ 48 ||
    (segs.any fun h => h.1 < g.1 && overlap b n (sa h).1 (sa h).2 > 0) ||
    (ken.map fun u => overlap d n (u * 2 ^ 24) (2 ^ 24)).sum + (lp.map fun u => overlap d n (lpUnitDpa u) (2 ^ 30)).sum != n
  (segs.find? bad).map (·.1)

/-- Starts of the runs of consecutive units. -/
def runStarts : Option Nat → List Nat → List Nat
  | _, [] => []
  | prev, u :: r => if prev == some (u - 1) && u % 512 != 0 then runStarts (some u) r else u :: runStarts (some u) r

/-! ### Kinds of zeroing -/

/-- Zeros over a range of memory, with new codes (R127, R306). -/
def Act.zeroMem (a n : Nat) : Act :=
  .all [.clearMem a (a + n), .clearErrs (a / 8) ((a + n) / 8), .clearLpErr (a / 64) ((a + n) / 64)]

/-- Zeros over an array's quarters less the radio reserve, whose recorded anchors and pending lines are released (R306, R307). -/
def Act.zeroQuarter (i : Nat) : Act := .get fun s =>
  let c := i / 4
  let l0 := 12288 * (i % 4)
  let a0 := 256 * (i % 4)
  .all [
    .quarterRelease i,
    .clearStore (c * 2 ^ 22 + 64 * l0) (c * 2 ^ 22 + 64 * (l0 + s.csEnd c (i % 4))),
    .clearErrs (csDpa c (64 * l0) / 8) (csDpa c (64 * (l0 + s.csEnd c (i % 4))) / 8),
    .clearAcc ((c * 1024 + a0) * 128) ((c * 1024 + a0 + s.accEnd c (i % 4)) * 128),
    .clearErrs (accDpa c a0 / 8) (accDpa c (a0 + s.accEnd c (i % 4)) / 8)]

/-- PART and PRIV of the counters of a set as Uhlile forces them for the slice that holds it (R397). -/
def Act.setForce (base p : Nat) : Act := .each (List.range 8) fun i => .all [
  .setF (base + 16 * i) F.gpmcCtl_PART p,
  .setF (base + 16 * i) F.gpmcCtl_PRIV 2]

/-- Values and controls of a set return to zero (R396); for a slice that is granted the set, the fields of R397 are forced. -/
def Act.setZero (base : Nat) (holder : Option Nat) : Act := .all [
  .each (List.range 8) fun i => .all [.setRegs (base + 16 * i) 0, .setRegs (base + 16 * i + 8) 0],
  match holder with
  | some p => .setForce base p
  | none => .skip]

/-- A core's set likewise, and the partition that it samples (R403). -/
def Act.coreSetZero (c : Nat) (holder : Option Nat) : Act := .all [
  .setZero (R.corePmcCtl c 0) holder,
  match holder with
  | some p => .setF (R.corePmcSamp c) F.corePmcSamp_PART p
  | none => .skip]

def Act.globalSetZero (holder : Option Nat) (g : Nat) : Act := .setZero (R.gpmcCtl g 0) holder

/-- A slice that now holds an array of a core has a context there: the lowest that no slice holds (R91). -/
def Act.ctxGive (p c : Nat) : Act := .get fun s =>
  .when (!((List.range 4).any fun x => s.ctxPart c x == p)) (
    match (List.range 4).find? fun x => s.fld (R.coreCtxOwner c x) F.coreCtxOwner_KIND == 0 with
    | some x => .all [
        .setF (R.coreCtxOwner c x) F.coreCtxOwner_KIND 1,
        .setF (R.coreCtxOwner c x) F.coreCtxOwner_SLICE p,
        .setCtxs (c * 8 + x) (dfltCtxs 0)]
    | none => .skip)

/-- A slice's context on a core is free again. -/
def Act.ctxFree (p c : Nat) : Act := .get fun s => .each (List.range 4) fun x =>
  .when (s.ctxPart c x == p) (.all [.setRegs (R.coreCtxOwner c x) 0, .setCtxs (c * 8 + x) (dfltCtxs 0)])

/-! ### Family 0x01: slices (R303-R308) -/

/-- dev_info (R302): a slice sees no free resources; in recovery wait the versions are zero (R447). -/
def Act.doDevInfo (j : JCmd) : Act := .get fun s =>
  let fw : Nat := if s.recWait then 0 else Config.fwMajor % 65536 * 2 ^ 48 + Config.fwMinor % 65536 * 2 ^ 32
  let w2 : Nat := if j.part < 256 then 0 else
    ((List.range 256).filter s.arrFree).length * 2 ^ 48 + s.kenFree.length * 2 ^ 32 + ((s.lpFree 0).length + (s.lpFree 1).length)
  .replyOk j [s.rd R.gwIdent, BitVec.ofNat 64 (fw + 0x00020003), BitVec.ofNat 64 w2]

def execDevInfo (mb : Nat) (s : State) : Out := Act.out s (.mbRun mb 0x0001 .doDevInfo)

/-- Byte k of the arguments. -/
def JCmd.byte (j : JCmd) (k : Nat) : Nat := bits (j.a (k / 8)) (8 * (k % 8) + 7) (8 * (k % 8))

/-- n bytes of the arguments from an offset, as a number. -/
def JCmd.num (j : JCmd) (k n : Nat) : Nat := ((List.range n).map fun i => j.byte (k + i) * 256 ^ i).sum

/-- slice_create (R303, R304). -/
def Act.doSliceCreate (j : JCmd) : Act := .get fun s =>
  let n := j.byte 0
  let cls := j.byte 1 ||| (if bit (j.byte 1) 1 then 1 else 0)
  let arrays := j.num 8 32
  let kens := (List.range 4).map fun k => j.byte (0x28 + k)
  let lps := (List.range 2).map fun d => j.num (0x2C + 2 * d) 2
  let rtv := j.num 0x30 4
  let ctr := j.byte 0x34
  let quota := j.num 0x36 2
  let segs := (List.range 64).filterMap fun i =>
    if bit (j.a (16 + 2 * i)) 63 then some (i, j.a (16 + 2 * i), j.a (17 + 2 * i)) else none
  let ken := (List.range 4).flatMap fun k => (s.kenFree.filter (· / 32 == k)).take (kens.getD k 0)
  let lp := (List.range 2).flatMap fun d => ((s.lpFree d).take (lps.getD d 0)).map (512 * d + ·)
  let cores := (List.range 64).filter fun c => arrays / 16 ^ c % 16 != 0
  let sym := asym arrays (maskOf ken) (maskOf lp)
  .checks j [
    (j.byte 1 / 8 != 0, stBadField, 1),
    (j.byte 2 > 2, stBadField, 2),
    (arrays == 0, stBadField, 8),
    (kens.any (· > 32) || kens.sum == 0, stBadField, 0x28),
    (quota > 256, stBadField, 0x36),
    (s.sliceState n != 0, stBadState, s.sliceState n),
    ((arrList arrays).any fun i => !(s.arrFree i), stNoResource, 1),
    ((bitList rtv 32).any fun e => !(s.engFree e), stNoResource, 4),
    ((bitList ctr 8).any fun g => !(s.ctrFree g), stNoResource, 5),
    (s.quotaUsed + quota > 4096, stNoResource, 6),
    (ken.length != kens.sum, stNoResource, 2),
    (lp.length != lps.sum, stNoResource, 3),
    (bit cls 1 && sym != 0, stSymmetry, sym),
    ((segRefused ken lp segs).isSome, stSegment, (segRefused ken lp segs).getD 0)] (.all [
      .clearRegs (R.mbSliceHdr n 0) (R.mbSliceHdr n 0 + 4096),
      .clearRegs (R.sliceStat n) (R.sliceStat n + 0x40),
      .clearRegs (R.repSliceStep n) (R.repSliceStep n + 0x20),
      .setParts n { dfltParts 0 with
        arrays := arrays
        ken := maskOf ken
        lp := maskOf lp
        rtv := rtv
        ctr := ctr
        quota := quota
        seed := j.num 0x40 32
        segs := segs
        syncBase := ken.headD 0 * 2 ^ 24
        stepTick := s.tick },
      .setF (R.sliceStat n) F.sliceStat_STATE 1,
      .setF (R.sliceStat n) F.sliceStat_CLASS cls,
      .setF (R.sliceStat n) F.sliceStat_POL_OVR (j.byte 2),
      .each cores fun c => .all [.ctxGive n c, .when (arrays / 16 ^ c % 16 == 15) (.coreSetZero c (some n))],
      .each (bitList ctr 8) (.globalSetZero (some n)),
      .each (bitList rtv 32) fun e => .setF (R.fabEngStat e) F.fabEngStat_OWNER n,
      .kenStat,
      .repRetarget cores,
      .replyOk j (ken.map (fun u => BitVec.ofNat 64 (u * 2 ^ 24)) ++ (runStarts none lp).map fun u => BitVec.ofNat 64 (lpUnitDpa u))])

def execSliceCreate (mb : Nat) (s : State) : Out := Act.out s (.mbRun mb 0x0100 .doSliceCreate)

/-- Everything a slice held goes back to the pool, zeroed (R298, R306, R344, R374, R396). -/
def Act.sliceReturn (n : Nat) : Act := .get fun s =>
  let x := s.partsAt n
  let cores := s.coresOf n
  .all [
    .each (List.range 4096) fun r => .when (s.flag (R.fabRgn0 r) F.fabRgn0_V && s.fld (R.fabRgn0 r) F.fabRgn0_OWNER == n)
      (.setF (R.fabRgn0 r) F.fabRgn0_V 0),
    .each (bitList x.ken 128) fun u => .zeroMem (u * 2 ^ 24) (2 ^ 24),
    .each (bitList x.lp 1024) fun u => .zeroMem (lpUnitDpa u) (2 ^ 30),
    .each (arrList x.arrays) .zeroQuarter,
    .each cores fun c => .all [.ctxFree n c, .when (x.arrays / 16 ^ c % 16 == 15) (.coreSetZero c none)],
    .each (bitList x.ctr 8) (.globalSetZero none),
    .each (bitList x.rtv 32) fun e => .setF (R.fabEngStat e) F.fabEngStat_OWNER 0x3FF,
    .setParts n (dfltParts 0),
    .setRegs (R.sliceStat n) 0,
    .clearRegs (R.mbSliceHdr n 0) (R.mbSliceHdr n 0 + 4096),
    .modF (R.healthNocopy (n / 64)) F.healthNocopy_SLICES (clrBit · (n % 64)),
    .kenStat,
    .repRetarget cores]

/-- slice_destroy (R306): acts as a manager reset, then everything returns; a command held in the slice's own slot goes without a reply. -/
def Act.doSliceDestroy (j : JCmd) : Act := .get fun s =>
  let n := j.a 0
  .checks j [(n > 255, stBadField, 0), (!(s.sliceLive n), stBadState, s.sliceState n)] (.all [
    .setRegs (R.mbSliceHdr n 0) 0,
    .sliceResetMgr n,
    .sliceReturn n,
    .replyOk j])

def execSliceDestroy (mb : Nat) (s : State) : Out := Act.out s (.mbRun mb 0x0101 .doSliceDestroy)

/-- slice_reset (R314). -/
def Act.doSliceReset (j : JCmd) : Act := .get fun s =>
  let n := j.a 0
  .checks j [(n > 255, stBadField, 0), (!(s.sliceLive n), stBadState, s.sliceState n)] (.all [.sliceResetMgr n, .replyOk j])

def execSliceReset (mb : Nat) (s : State) : Out := Act.out s (.mbRun mb 0x0102 .doSliceReset)

/-- A partition code that pasid_bind and pasid_unbind know: a slice that exists, the manager, the radio partition. -/
def State.partLive (s : State) (p : Nat) : Bool := p == 0x100 || p == 0x101 || s.sliceLive p

/-- pasid_bind (R308): a PASID has one binding; an index bound before takes the new one. -/
def Act.doPasidBind (j : JCmd) : Act := .get fun s =>
  let p := bits (j.a 0) 9 0
  let i := bits (j.a 0) 11 10
  let v := bits (j.a 0) 51 32
  .checks j [
    (p > 0x101, stBadField, 0),
    (!(s.partLive p), stBadState, s.sliceState p),
    (s.parts.any fun e => e.2.pasids.any (·.2 == v), stNoResource, 0)]
    (.all [.modParts p fun x => { x with pasids := x.pasids.filter (·.1 != i) ++ [(i, v)] }, .replyOk j])

def execPasidBind (mb : Nat) (s : State) : Out := Act.out s (.mbRun mb 0x0103 .doPasidBind)

/-- pasid_unbind (R308). -/
def Act.doPasidUnbind (j : JCmd) : Act := .get fun s =>
  let p := bits (j.a 0) 9 0
  let i := bits (j.a 0) 11 10
  let v := s.pasidOf p i
  .checks j [
    (p > 0x101, stBadField, 0),
    (!(s.partLive p), stBadState, s.sliceState p),
    ((p == 0x101 && s.appliedRecs.any (fun r => some (recPasid r) == v)) || (s.partsAt p).launches.any (·.pasidIdx == i),
      stBadState, if p < 256 then s.sliceState p else 1)]
    (.all [.modParts p fun x => { x with pasids := x.pasids.filter (·.1 != i) }, .replyOk j])

def execPasidUnbind (mb : Nat) (s : State) : Out := Act.out s (.mbRun mb 0x0104 .doPasidUnbind)

/-- slice_query's 208 bytes for a slice and for the free pool (R305). -/
def State.queryBytes (s : State) (n : Nat) : List Byte :=
  let x := s.partsAt n
  leBytes x.arrays 32 ++ leBytes x.ken 16 ++ leBytes x.rtv 4 ++ leBytes x.ctr 1 ++ leBytes (s.sliceState n) 1 ++ leBytes x.quota 2 ++
  leBytes (s.clsOf n) 1 ++ leBytes (s.fld (R.sliceStat n) F.sliceStat_POL_OVR) 1 ++ leBytes 0 6 ++ leBytes x.lp 128 ++
  leBytes (s.rd (R.repSliceStep n)).toNat 8 ++ leBytes (s.fld (R.sliceEpoch n) F.sliceEpoch_APPLIED) 4 ++
  leBytes (s.fld (R.sliceStat n) F.sliceStat_INFLIGHT) 4

def State.poolBytes (s : State) : List Byte :=
  leBytes (maskOf ((List.range 256).filter s.arrFree)) 32 ++ leBytes (maskOf s.kenFree) 16 ++
  leBytes (maskOf ((List.range 32).filter s.engFree)) 4 ++ leBytes (maskOf ((List.range 8).filter s.ctrFree)) 1 ++ leBytes 0 1 ++
  leBytes (4096 - s.quotaUsed) 2 ++ leBytes 0 8 ++ leBytes (maskOf (s.lpFree 0)) 64 ++ leBytes (maskOf (s.lpFree 1)) 64 ++ leBytes 0 16

/-- slice_query (R305): a FREE slice has zero resources and STATE 0. -/
def Act.doSliceQuery (j : JCmd) : Act := .get fun s =>
  let n := if j.part < 256 then j.part else bits (j.a 0) 8 0
  .checks j [(n > 255 && n != 0x1FF, stBadField, 0)]
    (.replyOut j (if n == 0x1FF then s.poolBytes else if s.sliceState n == 0 then List.replicate 208 0 else s.queryBytes n) false)

def execSliceQuery (mb : Nat) (s : State) : Out := Act.out s (.mbRun mb 0x0105 .doSliceQuery)

/-- array_move (R278, R307): performed once FROM's last tile on the array is gone; until then the command stays in hand. -/
def Act.doArrayMove (j : JCmd) : Act := .get fun s =>
  let f := bits (j.a 0) 7 0
  let t := bits (j.a 0) 15 8
  let i := bits (j.a 0) 23 16
  let c := i / 4
  let x := s.partsAt f
  let y := s.partsAt t
  let fa := clrBit x.arrays i
  let ta := setBit y.arrays i
  let af := if s.isPaired f then asym fa x.ken x.lp else 0
  let at_ := if s.isPaired t then asym ta y.ken y.lp else 0
  .checks j [
    (!(s.sliceLive f) || !(bit x.arrays i), stBadState, s.sliceState f),
    (!(s.sliceLive t) || f == t, stBadState, s.sliceState t),
    (fa / 16 ^ c % 16 == 0 && s.ctxActive c (s.ctxOn f c), stBadState, s.sliceState f),
    (fa == 0, stSymmetry, 1),
    (af != 0, stSymmetry, af),
    (at_ != 0, stSymmetry, at_)] (.all [
      .zeroQuarter i,
      .modParts f fun p => { p with arrays := fa },
      .modParts t fun p => { p with arrays := ta },
      .when (fa / 16 ^ c % 16 == 0) (.ctxFree f c),
      .ctxGive t c,
      .when (ta / 16 ^ c % 16 == 15) (.all [.setForce (R.corePmcCtl c 0) t, .setF (R.corePmcSamp c) F.corePmcSamp_PART t]),
      .repRetarget [c],
      .replyOk j])

/-- Work of a slice on an array that has not ended: tiles, and conversions of them (R278). -/
def State.arrWork (s : State) (f i : Nat) : Bool :=
  (s.arrsAt i).tiles.any (·.part == f) || (s.convq.any fun e => e.1 == i / 4 && e.2.part == f)

def execArrayMove (mb : Nat) (s : State) : Out := Act.out s <|
  .when (!(s.arrWork (bits ((s.mbCmd mb).a 0) 7 0) (bits ((s.mbCmd mb).a 0) 23 16)) || (s.precheck (s.mbCmd mb)).isSome)
    (.mbRun mb 0x0107 .doArrayMove)

/-! ### Family 0x02: contexts and batches (R310-R313) -/

/-- A context starts a program for a launch (R91, R310). -/
def Act.ctxStart (p c pc h : Nat) : Act := .get fun s => .ctxBegin c (s.ctxOn p c) pc h []

/-- A context of the slice may start: an unfenced array of it on the core, and the context idle (R310). -/
def State.startable (s : State) (p c : Nat) : Bool :=
  ((List.range 4).any fun a => bit (s.partsAt p).arrays (4 * c + a) && !(s.arrFenced c a)) && !(s.ctxActive c (s.ctxOn p c))

/-- The slice is in a state in which streams may start: IDLE or RUNNING, with a live copy of its data (R297, R394). -/
def State.mayStart (s : State) (p : Nat) : Bool :=
  (s.sliceState p == 1 || s.sliceState p == 2) && !(bit (s.fld (R.healthNocopy (p / 64)) F.healthNocopy_SLICES) (p % 64))

/-- ctx_start (R310). -/
def Act.doCtxStart (j : JCmd) : Act := .get fun s =>
  let c := bits (j.a 0) 5 0
  let pc := bits (j.a 1) 47 0
  .checks j [
    (pc % 64 != 0, stBadField, 8),
    (cplBad (j.a 2), stBadField, 16),
    (!(s.mayStart j.part) || !(s.startable j.part c), stBadState, s.sliceState j.part)]
    (.launch j 1 (j.a 2) [c] 0 0 [] fun l => .ctxStart j.part c pc l.handle)

def execCtxStart (mb : Nat) (s : State) : Out := Act.out s (.mbRun mb 0x0200 .doCtxStart)

/-- ctx_stop (R310, R352). -/
def Act.doCtxStop (j : JCmd) : Act := .get fun s =>
  let c := bits (j.a 0) 5 0
  let x := s.ctxOn j.part c
  .checks j [(s.ctxPart c x != j.part || !(s.ctxActive c x), stBadState, s.sliceState j.part)] (.all [
    if bit (j.a 0) 8 then .all [.choice j.part, .ctxDone c x stAborted]
    else .modCtxs (c * 8 + x) fun t => { t with stopPend := true },
    .replyOk j])

def execCtxStop (mb : Nat) (s : State) : Out := Act.out s (.mbRun mb 0x0201 .doCtxStop)

/-- list_submit (R311): the list waits its turn. -/
def Act.doListSubmit (j : JCmd) : Act :=
  let n := bits (j.a 1) 12 0
  .checks j [(n == 0 || n > 4096, stBadField, 8), (cplBad (j.a 3), stBadField, 24)]
    (.launch j 2 (j.a 3) [] 0 0 [0xFFFF] fun l =>
      .modParts j.part fun x => { x with lists := x.lists ++ [⟨l.handle, j.a 0, n, bit (j.a 1) 16, j.a 2, 0, j.pasidIdx, 0⟩] })

def execListSubmit (mb : Nat) (s : State) : Out := Act.out s (.mbRun mb 0x0202 .doListSubmit)

/-- The records of a batch: CORE and PC. -/
def batchRecs (d : List Byte) (n : Nat) : List (Nat × Nat) :=
  (List.range n).map fun i => let w := leNat ((d.drop (16 * i)).take 8); (bits w 63 58, bits w 47 0)

/-- batch_submit (R312): admitted whole or not at all. -/
def Act.doBatchSubmit (j : JCmd) : Act := .get fun s =>
  let n := bits (j.a 1) 6 0
  let x := s.partsAt j.part
  let inb := x.launches.filter (·.kind == 3)
  let ken := j.a 2 / 2 ^ 32
  let lp := j.a 2 % 2 ^ 32
  .checks j [(n == 0 || n > 64, stBadField, 8), (cplBad (j.a 3), stBadField, 24)]
    (.spaceRead j.part (bit (j.a 0) 0) ((s.pasidOf j.part j.pasidIdx).getD noPasid) (j.a 0 / 2 * 2) (16 * n) fun d err =>
      let rs := batchRecs d n
      .checks j [
        (err, stDma, 0),
        ((rs.map (·.1)).eraseDups.length != n, stBadField, 0),
        (rs.any fun r => r.2 % 64 != 0, stBadField, 0),
        ((inb.map (·.kenMib)).sum + ken > 16 * popcount x.ken 128, stQuota, 1),
        ((inb.map (·.lpMib)).sum + lp > 1024 * popcount x.lp 1024, stQuota, 2),
        (!(s.mayStart j.part) || rs.any fun r => !(s.startable j.part r.1), stBadState, s.sliceState j.part)]
        (.launch j 3 (j.a 3) (rs.map (·.1)) ken lp [] fun l => .each rs fun (c, pc) => .ctxStart j.part c pc l.handle))

def execBatchSubmit (mb : Nat) (s : State) : Out := Act.out s (.mbRun mb 0x0203 .doBatchSubmit)

/-- batch_abort (R313, R352): after the completion there is nothing to abort. -/
def Act.doBatchAbort (j : JCmd) : Act := .get fun s =>
  match (s.partsAt j.part).launches.find? fun l => l.kind == 3 && l.handle == j.a 0 with
  | none => .reply j stNothing 0 [] 0 0
  | some l => .all [
      .choice j.part,
      .each l.cores fun c => .ctxDone c (s.ctxOn j.part c) stAborted,
      .replyOk j]

def execBatchAbort (mb : Nat) (s : State) : Out := Act.out s (.mbRun mb 0x0204 .doBatchAbort)

/-- A list is over: its record names the entries performed and the first that failed. -/
def Act.listEnd (p h status : Nat) : Act := .get fun s =>
  match (s.partsAt p).launches.find? (·.handle == h) with
  | none => .skip
  | some l => .all [
      .modParts p fun x => { x with lists := x.lists.filter (·.handle != h) },
      .finish p l status l.doneCnt (l.args.getD 0 0xFFFF)]

/-- list_abort (R313, R352). -/
def Act.doListAbort (j : JCmd) : Act := .get fun s =>
  if (s.partsAt j.part).lists.any (·.handle == j.a 0) then
    .all [.choice j.part, .listEnd j.part (j.a 0) stAborted, .replyOk j]
  else .reply j stNothing 0 [] 0 0

def execListAbort (mb : Nat) (s : State) : Out := Act.out s (.mbRun mb 0x0205 .doListAbort)

/-! ### Family 0x03: pause, images, epochs (R317, R318, R366, R367, R394) -/

/-- A stream of the slice is running: its context is active and the slice is not PAUSED. -/
def State.streamsRun (s : State) (p : Nat) : Bool := s.sliceState p != 3 && (s.ctxsOf p).any fun (c, x) => s.ctxActive c x

/-- A pause or checkpoint waits for the next step boundary; with no stream running it is reached at once. -/
def Act.pauseWait (p : Nat) : Act := .get fun s =>
  if s.streamsRun p then .modParts p fun x => { x with pauseReq := true } else .pauseReached p

/-- slice_pause. -/
def Act.doSlicePause (j : JCmd) : Act :=
  .checks j [(cplBad (j.a 0), stBadField, 0)] (.launch j 4 (j.a 0) [] 0 0 [] fun _ => .pauseWait j.part)

def execSlicePause (mb : Nat) (s : State) : Out := Act.out s (.mbRun mb 0x0300 .doSlicePause)

/-- slice_resume. -/
def Act.doSliceResume (j : JCmd) : Act := .get fun s =>
  .checks j [(s.sliceState j.part != 3, stBadState, s.sliceState j.part)] (.all [
    .setF (R.sliceStat j.part) F.sliceStat_STATE 2,
    .streamsGo j.part,
    .settle j.part,
    .replyOk j])

def execSliceResume (mb : Nat) (s : State) : Out := Act.out s (.mbRun mb 0x0301 .doSliceResume)

/-- slice_checkpoint. -/
def Act.doSliceCheckpoint (j : JCmd) : Act :=
  .checks j [(cplBad (j.a 1), stBadField, 8)]
    (.launch j 5 (j.a 1) [] 0 0 [j.a 0 % 2, j.outAddr, j.outLen] fun _ => .pauseWait j.part)

def execSliceCheckpoint (mb : Nat) (s : State) : Out := Act.out s (.mbRun mb 0x0302 .doSliceCheckpoint)

/-- The programs that a restore replaces: a context that the image holds too keeps its launch, every other launch of a program ends. -/
def Act.restoreStreams (p : Nat) (im : ImageSt) : Act := .get fun s =>
  let keep := im.ctxs.map fun e => (s.coresOf p).getD e.1 0
  .each ((s.ctxsOf p).filter fun (c, x) => s.ctxActive c x) fun (c, x) =>
    if keep.contains c then .modCtxs (c * 8 + x) fun t => { dfltCtxs 0 with handle := t.handle }
    else .all [.ctxHalt c x, .programDone p c (s.ctxsAt (c * 8 + x)).handle stAborted]

/-- A restore's ranges and state are in place (R367): seed, step counter, epoch, contexts at their marks, PAUSED. -/
def Act.restoreDone (p : Nat) (im : ImageSt) (l : Launch) : Act := .all [
  .setRegs (R.repSliceStep p) (BitVec.ofNat 64 im.step),
  .setF (R.sliceEpoch p) F.sliceEpoch_APPLIED im.epoch,
  .modParts p fun x => { x with seed := im.seed },
  .restoreCtxs p im,
  .modF (R.healthNocopy (p / 64)) F.healthNocopy_SLICES (clrBit · (p % 64)),
  .setF (R.sliceStat p) F.sliceStat_STATE 3,
  .mbEvent p 5,
  .finish p l stOk 0 0xFFFF]

/-- slice_restore (R318, R367, R374, R394). `firstOk`, `secondOk`: the two reads of the image end without error and agree. How far the
second pass had come when it failed is open: a free value. -/
def Act.doSliceRestore (firstOk secondOk : Bool) (j : JCmd) : Act := .get fun s =>
  let p := j.part
  .checks j [
    (cplBad (j.a 2), stBadField, 16),
    (s.sliceState p != 1 && s.sliceState p != 3, stBadState, s.sliceState p)]
    (.launch j 6 (j.a 2) [] 0 0 [s.sliceState p] fun l =>
      let back (st : Nat) : Act := .finish p l st 0 0xFFFF
      if !firstOk then back stDma
      else match s.parseImage p (s.hostRead ((s.pasidOf p j.pasidIdx).getD noPasid) (j.a 0) (j.a 1)) with
        | none => .all [.dmaCount false (j.a 1) p, back stImage]
        | some im => .all [
            .dmaCount false (j.a 1) p,
            .restoreStreams p im,
            .restoreBegin p,
            if secondOk then
              .writeRanges p im im.ranges false fun e => if e then .sliceFault p 0x02 0 0 l.handle else .restoreDone p im l
            else .withFree fun f =>
              .writeRanges p im (im.ranges.take (Config.restoreCut f)) false fun _ => .all [
                .each (s.ctxsOf p) fun (c, x) => .ctxHalt c x,
                .modF (R.healthNocopy (p / 64)) F.healthNocopy_SLICES (setBit · (p % 64)),
                .setF (R.sliceStat p) F.sliceStat_STATE 2,
                .each ((s.partsAt p).launches.filter fun q => q.kind == 1 || q.kind == 3) fun q => .finish p q stAborted q.doneCnt 0xFFFF,
                .finish p l stNoLiveCopy 0 0xFFFF]])

def execSliceRestore (mb : Nat) (firstOk secondOk : Bool) (s : State) : Out :=
  Act.out s (.mbRun mb 0x0303 (.doSliceRestore firstOk secondOk))

/-- mode_change (R317). -/
def Act.doModeChange (j : JCmd) : Act := .get fun s =>
  let p := j.part
  let x := s.partsAt p
  let cls := bits (j.a 2) 2 0 ||| (if bit (j.a 2) 1 then 1 else 0)
  let pol := bits (j.a 2) 9 8
  let sym := asym x.arrays x.ken x.lp
  .checks j [
    (bits (j.a 0) 31 0 != (s.fld (R.sliceEpoch p) F.sliceEpoch_APPLIED + 1) % 2 ^ 32, stBadField, 0),
    (j.a 1 ≤ (s.rd (R.repSliceStep p)).toNat, stBadField, 8),
    (pol == 3, stBadField, 17),
    (cplBad (j.a 3), stBadField, 24),
    (s.partsAt p |>.launches.any (·.kind == 7), stBadState, s.sliceState p),
    (bit cls 1 && !(s.isPaired p) && sym != 0, stSymmetry, sym)]
    (.launch j 7 (j.a 3) [] 0 0 [bits (j.a 0) 31 0, j.a 1, cls, pol] fun _ => .all [
      .setF (R.sliceEpoch p) F.sliceEpoch_PENDING (bits (j.a 0) 31 0),
      .get fun t => .when (!(t.streamsRun p)) (.epochApply p)])

def execModeChange (mb : Nat) (s : State) : Out := Act.out s (.mbRun mb 0x0304 .doModeChange)

/-! ### Steps, epochs and resets as events -/

/-- The step report entry of a boundary (R392). -/
def Act.stepEntry (p : Nat) (hold : Nat) : Act := .get fun s =>
  let x := s.partsAt p
  let step := (s.rd (R.repSliceStep p)).toNat
  .when x.srEn (.dmaWrite 0x100 ((s.pasidOf 0x100 x.srIdx).getD noPasid) (x.srRing + 32 * (step % 2 ^ (x.srSize + 4))) (wordBytes [
    BitVec.ofNat 64 step,
    BitVec.ofNat 64 (if s.onSn then s.readingNs else 0),
    BitVec.ofNat 64 (min (s.tick - x.stepTick) (2 ^ 32 - 1) * 2 ^ 32 + min hold (2 ^ 32 - 1)),
    BitVec.ofNat 64 (x.srOverruns * 2 ^ 48 + x.srPwrHold * 2 ^ 32 + x.srReruns * 2 ^ 16)]))

/-- STEP_BOUNDARY: every running stream of the slice stands at a STEP_END mark, and a PAIRED slice's records are compared; the step
counter advances, a pending epoch and pause take effect, the streams go on (R111, R317, R318, R365, R384, R392). -/
def execStepBoundary (p : Nat) (s : State) : Out := Act.out s <|
  let act := (s.ctxsOf p).filter fun (c, x) => s.ctxActive c x
  let marks := act.map fun (c, x) => (s.ctxsAt (c * 8 + x)).markTick
  let at_ (c x : Nat) : Bool := (s.ctxsAt (c * 8 + x)).atMark && (s.ctxsAt (c * 8 + x)).stepEnd
  .when (p < 256 && s.sliceState p == 2 && !act.isEmpty && act.all (fun (c, x) => at_ c x) && !(s.partsAt p).epochHold &&
      !(s.pairs.any (·.slice == p))) (.all [
    .setRegs (R.repSliceStep p) (s.rd (R.repSliceStep p) + 1),
    .each act fun (c, x) => .modCtxs (c * 8 + x) fun t => { t with stepEnd := false },
    .stepEntry p (s.tick - marks.foldl min s.tick),
    .modParts p fun x => { x with stepTick := s.tick, srOverruns := 0, srPwrHold := 0, srReruns := 0 },
    .get fun t =>
      let due := match (t.partsAt p).launches.find? (·.kind == 7) with
        | some l => l.args.getD 1 0 == (t.rd (R.repSliceStep p)).toNat
        | none => false
      .all [
        .when due (.modParts p fun x => { x with epochHold := true }),
        .when (t.partsAt p).pauseReq (.pauseReached p),
        .when due (.epochApply p)],
    .streamsGo p])

/-- EPOCH_TIMEOUT: units have not reported within 10 ms of the hold (R317 step 4). -/
def execEpochTimeout (p missing : Nat) (s : State) : Out := Act.out s <|
  match (s.partsAt p).launches.find? (·.kind == 7) with
  | none => .skip
  | some l => .when (p < 256 && (s.partsAt p).epochHold && missing > 0) (.all [
      .complete p l stEpochFail 0 0xFFFF missing .skip,
      .sliceFault p 0x05 0 0 l.handle,
      .get fun t => .record 0x00 p 0x8003 [t.rd (R.mbSliceFaultInfo p)],
      .mbEvent p 4])

/-- REP_TRANSITION_DONE: a core's change into or out of REP mode is complete; an epoch that waited for its cores is applied (R357). -/
def execRepTransitionDone (core : Nat) (s : State) : Out := Act.out s <|
  .when (core < 64 && s.flag (R.repCore core) F.repCore_TRANS) (.all [
    .setF (R.repCore core) F.repCore_TRANS 0,
    .setF (R.repCore core) F.repCore_REP_MODE (if s.coreRep core then 1 else 0),
    .each (s.parts.filter fun e => e.1 < 256 && e.2.epochHold) fun (p, _) => .get fun t =>
      .when ((t.coresOf p).all fun c => !(t.flag (R.repCore c) F.repCore_TRANS)) (.epochCommit p)])

/-- PARTITION_RESET_DONE: the slice is IDLE again (R314). -/
def execPartitionResetDone (p : Nat) (s : State) : Out := Act.out s <|
  .when (p < 256 && s.sliceState p == 4) (.all [
    .setF (R.sliceStat p) F.sliceStat_STATE 1,
    .when (s.partsAt p).resetMgr (.mbEvent p 3),
    .modParts p fun x => { x with resetMgr := false }])

end Sys2Proof.Machine
end

