-- ==== Sys2Proof/Machine/RandomAccess.lean ====
section
/-! DEFINITION. Random-access search and msgA decodes (R226-R238; log 29). -/

namespace Sys2Proof.Machine

/-- Default threshold in quarters of a dB (R232). -/
def raThrDefault (fmt streams : Nat) : Nat :=
  if fmt < 4 then (if streams ≤ 2 then 54 else if streams ≤ 8 then 45 else 40)
  else (if streams ≤ 2 then 59 else if streams ≤ 8 then 49 else 43)

/-- Format code of an occasion. -/
def CellSt.raFmtOf (x : CellSt) (cfg esn sym : Nat) : Nat := raFmt (x.reg (1 + cfg)).toNat (recScs x.rcd) (recDuplex x.rcd) esn sym

/-- Symbols in which an occasion lands: (slot, symbol). -/
def CellSt.raSpotsOf (x : CellSt) (cfg esn sym : Nat) : List (Nat × Nat) :=
  raSpots (recFhMode x.rcd == 2) (x.raFmtOf cfg esn sym) (recScs x.rcd) esn sym

/-- Where the lines of an occasion lie on a stream: its share of the lines of its symbols, in the time-domain mode the cell's own lines
from FREQ_START on (R229; log 29). -/
def CellSt.raPlaces (x : CellSt) (stream cfg esn sym raIdx : Nat) : List Nat :=
  let td := recFhMode x.rcd == 2
  let n := raPrbs td (x.raFmtOf cfg esn sym) (recScs x.rcd)
  (x.raSpotsOf cfg esn sym).flatMap fun (e, y) => (List.range n).map fun p =>
    if td then x.ulLine stream e y (F.raCellCfg_FREQ_START.get (x.reg (1 + cfg)) + raIdx * n + p)
    else x.raLine stream e y (x.raFirst cfg e y + raIdx * n + p)

/-- Every line of an occasion is landed; a slot that was reported before ingress last stopped has nothing outstanding (R238). -/
def CellSt.raLanded (x : CellSt) (cfg esn sym : Nat) : Bool :=
  let sec := if recFhMode x.rcd == 2 then 1 else 3
  (x.raSpotsOf cfg esn sym).all fun (e, y) =>
    ((List.range (recUl x.rcd)).all fun k => (x.stream k).landed.contains (e, symMark sec y)) ||
      (!(x.slots.any (·.esn == e)) && match x.raStop with
        | some z => slotAfter z e
        | none => true)

/-- Search runs in the slots in which the cell runs (R149, R227). -/
def CellSt.raRuns (x : CellSt) (esn : Nat) : Bool := match x.slots.find? (·.esn == esn) with
  | some t => t.run
  | none => x.active

/-- A reset of the cell fell after the occasion began and before its report (R238). -/
def CellSt.raReset (x : CellSt) (esn : Nat) : Bool := match x.raCut with
  | some z => !(slotAfter esn z)
  | none => false

/-- The middle of a list of bin powers, the lower one of two (R230; log 29). -/
def medianOf (l : List Nat) : Nat := (l.mergeSort fun a b => a ≤ b).getD ((l.length - 1) / 2) 0

/-- Peaks of a window: (bin, power) in ascending bin order (R231). -/
def raPeaks (n thr : Nat) (p : List Nat) : List (Nat × Nat) :=
  p.zipIdx.filterMap fun (v, i) =>
    let left := if i == 0 then 0 else p.getD (i - 1) 0
    let right := p.getD (i + 1) 0
    if v ≥ right && v > left && dbAtLeast v n thr then some (i, v) else none

/-- The 8 highest metrics, ties to the lower delay, again in ascending order. -/
def raKeep (l : List (Nat × Nat)) : List (Nat × Nat) :=
  ((l.mergeSort fun a b => a.2 > b.2 || (a.2 == b.2 && a.1 ≤ b.1)).take 8).mergeSort fun a b => a.1 ≤ b.1

/-- Delay of a peak in quarters of a nanosecond: the bin refined by the parabola through it and its neighbours (R231). -/
def raDelay (fmt scs i : Nat) (p : List Nat) : Nat :=
  let y0 : Int := if i == 0 then 0 else p.getD (i - 1) 0
  let y1 : Int := p.getD i 0
  let y2 : Int := p.getD (i + 1) 0
  let den := 2 * (2 * y1 - y0 - y2)
  let (len, hz) := raSeq fmt scs
  -- (i + (y2 - y0) / den) bins of 1 / (8 len hz) s
  if den ≤ 0 then (divNear ((i : Int) * 4000000000) (8 * len * hz)).toNat
  else (divNear (((i : Int) * den + (y2 - y0)) * 4000000000) (den * (8 * len * hz))).toNat

def raTa (scs delay : Nat) : Nat := min 3846 (divNear ((delay : Int) * 2 ^ muOf scs * 12) 25000).toNat

/-- Metric of a bin in quarters of a dB, within its field (R230, R235). -/
def raMetric (v n : Nat) : Nat := if n == 0 then 65535 else min 65535 (quarterDb v n).toNat

/-- The PDP of a preamble: 8 bins for each cyclic-shift sample of its zone, the streams combined non-coherently (R230). -/
def raPdp (w fmt preamble : Nat) (lines : List (List LineSt)) : List Nat :=
  (List.range (8 * Config.raZone w fmt)).map fun b => (lines.map fun l => Config.raBin w fmt preamble (l.map (·.re)) b).sum

/-- Detections of one window, and whether it held more than 8 peaks. -/
def raWindow (scs fmt n thr preamble satFlag : Nat) (p : List Nat) : List (RaDet × Nat) × Bool :=
  let all_ := raPeaks n thr p
  ((raKeep all_).zipIdx.map fun ((i, v), k) =>
    let d := raDelay fmt scs i p
    (⟨preamble, k, fmt, (if i == 0 || i + 1 == p.length then 1 else 0) + satFlag, d, Config.raLevel v, raMetric v n, raTa scs d, 0xFFFF⟩, v),
    all_.length > 8)

/-- msgA selection: up to `max` detections in descending metric, ties to the lower preamble, then to the lower delay (R233); handles
from h on. -/
def raSelect (max h : Nat) (l : List (RaDet × Nat)) : List RaDet :=
  let order := (l.mergeSort fun a b => a.2 > b.2 || (a.2 == b.2 && (a.1.preamble < b.1.preamble ||
    (a.1.preamble == b.1.preamble && a.1.delay ≤ b.1.delay)))).map fun e => (e.1.preamble, e.1.det)
  l.map fun (d, _) =>
    let k := order.idxOf (d.preamble, d.det)
    if k < max then { d with flags := d.flags + 2, handle := (h + k) % 65535 } else { d with flags := d.flags + 8 }

/-- The detector that serves: the one that was idle, unless it is fenced and the other of the cluster is not (R226). -/
def State.raDetector (s : State) (x : CellSt) (det : Nat) : Option Nat :=
  [2 * (x.cluster % 4) + det % 2, 2 * (x.cluster % 4) + (det + 1) % 2].find? fun d => !(s.detsAt d)

/-- A detector that fails its check is fenced; the second of a cluster is recorded and raised (R222, R223, R236, R237). -/
def Act.raFence (d : Nat) : Act := .get fun s => .all [
  .setDets d true,
  .when (s.detsAt (if d % 2 == 0 then d + 1 else d - 1)) (.all [.record 0x00 0x101 0x4803 [BitVec.ofNat 64 (56 + d), 3], .attnRadio])]

/-- What the search of an occasion yields (R229-R233): flags and noise of its header, the streams combined, its detections, the windows
with more than 8 peaks. -/
structure RaFound where
  flags : Nat
  noise : Int
  mask : Nat
  dets : List (RaDet × Nat)
  trunc : Nat
deriving DecidableEq, Repr

/-- The search over the lines of every stream. -/
def raSearch (x : CellSt) (cfg fmt : Nat) (lines : List (List LineSt)) : RaFound :=
  let w := x.reg (1 + cfg)
  let ok (l : List LineSt) : Bool := l.all fun e => e.flags % 2 == 0
  let used := lines.filter ok
  let mask := lines.zipIdx.foldl (fun m e => if ok e.1 then setBit m e.2 else m) 0
  let sat := if lines.any fun l => l.any fun e => bit e.flags 1 then 16 else 0
  let thr := if F.raCellCfg_THR.get w == 0 then raThrDefault fmt (recUl x.rcd) else F.raCellCfg_THR.get w
  let pdps := if used.isEmpty then [] else (List.range (F.raCellCfg_NPRE.get w)).map fun p => raPdp w.toNat fmt p used
  let n := medianOf pdps.flatten
  let wins := pdps.zipIdx.map fun (p, i) => raWindow (recScs x.rcd) fmt n thr i sat p
  let trunc := (wins.filter (·.2)).length
  ⟨cfg + (if trunc > 0 then 2 else 0) + (if used.length < lines.length then 4 else 0) + (if used.isEmpty then 8 else 0),
    Config.raLevel n, mask, wins.flatMap (·.1), trunc⟩

/-- The occasion is kept for its report, and the msgA decodes are started (R231, R233-R235). -/
def Act.raKeepFound (key cfg esn sym raIdx fmt : Nat) (f : RaFound) : Act := .get fun s =>
  let x := s.cellsAt key
  let isMsga := F.raCellCfg_MSGA.get (x.reg (1 + cfg)) == 1
  let most := F.raCellCfg_MSGA_MAX.get (x.reg (1 + cfg))
  let out := if isMsga then raSelect most x.raH f.dets else f.dets.map (·.1)
  let tried := out.filter fun d => bit d.flags 1
  let occ : RaOcc := ⟨cfg, esn, sym, raIdx, raEnd fmt (recScs x.rcd) esn sym, f.flags, f.noise, f.mask, out⟩
  .all [
    .cellInc key R.raCellCnt F.raCellCnt_TRUNC f.trunc,
    .cellInc key R.raCellCnt F.raCellCnt_MSGA_SKIP (if isMsga then out.length - tried.length else 0),
    .modCells key fun y => { y with
      ra := y.ra ++ (if f.mask == 0 || !out.isEmpty then [occ] else [])
      raTry := y.raTry ++ tried.map fun d => (d.handle, d.preamble, d.delay)
      raH := (y.raH + tried.length) % 65535 }]

/-- RA_OCCASION_SEARCH: one occasion of one configuration on the detector of the cell's cluster that serves it (R226-R238). An occasion that
a reset or a stop of ingress cut is lost; so is one that finds both detectors fenced, with the cell's reset of cause 0x06 (R223, R236). -/
def execRaOccasionSearch (cell cfg esn sym raIdx det : Nat) (checkFail : Bool) (s : State) : Out := Act.out s <|
  let key := s.cellKey cell esn
  let x := s.cellsAt key
  let lost := Act.cellInc key R.raCellCnt F.raCellCnt_OCC_LOST
  .when (x.applied && x.raRuns esn && cfg < 2 && x.raOn cfg) (
    if x.raReset esn then lost
    else if !(x.raLanded cfg esn sym) then .when (x.raStop.isSome || s.heldFor (muOf (recScs x.rcd)) esn) lost
    else match s.raDetector x det with
      | none => .all [lost, .cellReset key 6 (some esn)]
      | some d =>
        if checkFail then .all [.raFence d, lost, .cellReset key 3 (some esn)]
        else
          let places := (List.range (recUl x.rcd)).map fun k => x.raPlaces k cfg esn sym raIdx
          .stageReads 5 key esn (places.flatten.map (·, 64))
            (.raKeepFound key cfg esn sym raIdx (x.raFmtOf cfg esn sym)
              (raSearch x cfg (x.raFmtOf cfg esn sym) (places.map fun l => l.map s.lineAt))))

/-- Lines of a msgA PUSCH: the symbols of RA.CELL.MSGA in a slot, every stream, from the lowest occasion on (R233). -/
def CellSt.msgaPlaces (x : CellSt) (esn : Nat) : List Nat :=
  let w := x.reg 3
  let first := F.raCellMsga_PRB_START.get w
  (List.range (recUl x.rcd)).flatMap fun k => (List.range (F.raCellMsga_NSYM.get w)).flatMap fun i =>
    (List.range (recNrb x.rcd - first)).map fun p => x.ulLine k esn (F.raCellMsga_START_SYM.get w + i) (first + p)

/-- MSGA_DECODE: the PUSCH decode of one selected detection, from its preamble, its delay and the landed lines, reported in the slot `esn`
in which its PUSCH occasion ends (R233, R234). -/
def execMsgaDecode (cell handle esn : Nat) (s : State) : Out := Act.out s <|
  let key := s.cellKey cell esn
  let x := s.cellsAt key
  match x.raTry.find? (·.1 == handle) with
  | none => .skip
  | some (_, preamble, delay) => .when x.applied (.stageReads 5 key esn ((x.msgaPlaces esn).map (·, 64)) (
    let (pass, data) := Config.msgaDecode cell [handle, esn, (x.reg 3).toNat, preamble, delay] ((x.msgaPlaces esn).map fun a => (s.lineAt a).re)
    let (sfn, slot) := sfnSlot (recScs x.rcd) esn
    let p := if pass then 1 else 0
    .all [
      .modCells key fun y => { y with
        raTry := y.raTry.filter (·.1 != handle)
        ra := y.ra.map fun o => { o with dets := o.dets.map fun d => if d.handle == handle then { d with flags := d.flags + 4 * p } else d } },
      .cellInd key esn (0x86, Config.fapiBody 0x86 [sfn, slot, p, handle]),
      .when pass (.cellInd key esn (0x85, Config.fapiBody 0x85 [sfn, slot, handle] ++ data))]))

end Sys2Proof.Machine
end

