-- ==== Sys2Proof/Machine/Cells.lean ====
section
/-! DEFINITION. The radio and module commands of the manager: cell_set, cell_apply, cell_discard, nrx_load, nrx_unload, dsp_load,
port_config, power_cap_set, time_set, retire and retire_clear (R142-R144, R154, R155, R160-R162, R166, R179, R319, R388; log 36). -/

namespace Sys2Proof.Machine

/-! ### Records (R142, R154, R270) -/

def inRange (lo hi v : Nat) : Bool := lo ≤ v && v ≤ hi

/-- Reserved bits of a record are zero. -/
def recClear (r : List Nat) : Bool :=
  bits (recWord r 0) 1 0 == 0 && recWord r 2 % 4096 == 0 && recWord r 3 % 4096 == 0 && recWord r 4 % 2 ^ 14 == 0 &&
  recWord r 5 % 2 ^ 40 == 0 && recWord r 6 == 0 && recWord r 7 == 0

/-- A record, with the words of its TDD pattern behind it, is valid, be it to add or to remove its cell. -/
def State.recValid (s : State) (r : List Nat) : Bool :=
  recClear r &&
    recScs r != 3 && recFhMode r != 3 && recNrb r != 0 && inRange 1 16 (recUl r) && inRange 1 16 (recDl r) && recPort r < 48 &&
    inRange 100 400 (recTadv r) && [8, 16, 32, 64, 128].contains (recDepth r) && inRange 16 1024 (recReqBlk r / 1024) &&
    inRange 16 1024 (recIndBlk r / 1024) && inRange 2 10 (recModDl r) && inRange 1 8 (recModUl r) && recUeMax r != 0 &&
    (s.partsAt 0x101).pasids.any (·.2 == recPasid r) &&
    (recNrx r == 0 || s.radio.nrxs.any fun n => n.n == recNrx r && (nrxCallOf n r).isSome) &&
    (if recDuplex r == 1 then recTddPat r == 0 else recTddPat r % 8 == 0 && tddOk (recScs r) r)

/-- The words of a record's TDD pattern; none can be read where it has none (R270). -/
def Act.patternOf (r : List Nat) (k : List Nat → Act) : Act :=
  if recDuplex r == 1 || recTddPat r % 8 != 0 then k []
  else .readMem 0x100 9 (recTddPat r) 328 fun d err => k (if err then [] else (toWords d).map (·.toNat))

/-- The records with their patterns, one after the other; the first invalid one ends with `bad`. -/
def Act.recsCheck (bad : Act) : List (List Nat) → List (List Nat) → (List (List Nat) → Act) → Act
  | [], acc, k => k acc
  | r :: rest, acc, k => .patternOf r fun pat => .get fun s =>
      if s.recValid (r ++ pat) then Act.recsCheck bad rest (acc ++ [r ++ pat]) k else bad

/-- cell_set (R142, R319): the records add to or replace the staged set by CELL, or nothing is staged. -/
def Act.doCellSet (j : JCmd) : Act :=
  let n := bits (j.a 0) 8 0
  let recs := (List.range n).map fun i => (List.range 8).map fun k => j.a (1 + 8 * i + k)
  .checks j [(n == 0, stBadField, 0)]
    (.recsCheck (.refuse j stCell 1) recs [] fun rs => .all [
      .each rs fun r => .modRadio fun x => { x with staged := x.staged.filter (recCell · != recCell r) ++ [r] },
      .replyOk j])

def execCellSet (mb : Nat) (s : State) : Out := Act.out s (.mbRun mb 0x0400 .doCellSet)

/-! ### The checks of cell_apply (R144) -/

/-- The set that an apply brings into force: the applied set with the staged records, ascending by cell. A record that equals the
applied one leaves its cell unchanged. -/
def State.newSet (s : State) : List (List Nat) :=
  let kept := s.appliedRecs.filter fun r => !(s.radio.staged.any fun q => recCell q == recCell r)
  let added := (s.radio.staged.filter fun r => recOp r == 0).map fun r =>
    let old := (s.cellsAt (recCell r)).rcd
    if old.take 8 == r.take 8 then old else r
  (List.range 512).filterMap fun c => (kept ++ added).find? fun r => recCell r == c

/-- The apply leaves a cell unchanged. -/
def State.unchanged (s : State) (r : List Nat) : Bool := (s.cellsAt (recCell r)).rcd == r

/-- CODE.CELL.CFG within its ranges (R208, R216, R225). -/
def codeCfgOk (w : Word) : Bool :=
  let g (f : Field) := f.get w
  inRange 1 32 (g F.codeCellCfg_IT_MAX) && inRange 1 8 (g F.codeCellCfg_IT_MIN) &&
  inRange (g F.codeCellCfg_IT_MIN) (g F.codeCellCfg_IT_MAX) (g F.codeCellCfg_IT_PLAN) && g F.codeCellCfg_ET != 3 &&
  g F.codeCellCfg_HQ_FMT != 3 && g F.codeCellCfg_HQ_TTL != 0

/-- A PRACH configuration within its ranges (R227, R239). -/
def raCfgOk (r : List Nat) (w : Word) : Bool :=
  let g (f : Field) := f.get w
  g F.raCellCfg_ROOT ≤ (if raLong w.toNat (recScs r) (recDuplex r) then 837 else 137) && g F.raCellCfg_RSET != 3 &&
  inRange 1 64 (g F.raCellCfg_NPRE) && inRange 1 64 (g F.raCellCfg_MSGA_MAX)

/-- RA.CELL.MSGA within its ranges. -/
def raMsgaOk (w : Word) : Bool :=
  inRange 1 275 (F.raCellMsga_NPRB.get w) && F.raCellMsga_START_SYM.get w ≤ 13 && inRange 1 14 (F.raCellMsga_NSYM.get w)

/-- Check 4's registers of a cell. -/
def cellCfgOk (r : List Nat) (ws : List Word) : Bool :=
  codeCfgOk (ws.getD 0 0) && raCfgOk r (ws.getD 1 0) && raCfgOk r (ws.getD 2 0) && raMsgaOk (ws.getD 3 0)

/-- Compression that R166 supports, and its sample width. -/
def methOk (meth width : Nat) : Bool := (meth == 0 && width == 0) || (meth == 1 && [8, 9, 10, 12, 14, 0].contains width)

/-- Fronthaul registers of a cell within their ranges (R166, R173, R182). -/
def fhOk (ws : List Word) : Bool :=
  let a (f : Field) := f.get (ws.getD 4 0)
  let d (f : Field) := f.get (ws.getD 5 0)
  let w (f : Field) := f.get (ws.getD 6 0)
  let g (f : Field) := f.get (ws.getD 7 0)
  (a F.fhCellAddr_VLAN_EN == 0 || inRange 1 4094 (a F.fhCellAddr_VID)) &&
  d F.fhCellId_EAXC_BASE % 32 == 0 && methOk (d F.fhCellId_UL_METH) (d F.fhCellId_UL_WIDTH) &&
  methOk (d F.fhCellId_DL_METH) (d F.fhCellId_DL_WIDTH) && d F.fhCellId_TD_FMT != 3 &&
  w F.fhCellWin_TA4_MIN ≤ 400 && inRange (w F.fhCellWin_TA4_MIN + 5) (w F.fhCellWin_TA4_MIN + 70) (w F.fhCellWin_TA4_MAX) &&
  inRange 25 200 (w F.fhCellWin_CP_ADV) && inRange 10 100 (w F.fhCellWin_DL_WIN) &&
  g F.fhCellGain_MODE ≤ 1 && g F.fhCellGain_INIT_STEP ≤ 28 && inRange (g F.fhCellGain_INIT_STEP) 28 (g F.fhCellGain_KMAX) &&
  g F.fhCellGain_DWELL != 0 && -96 ≤ signed8 (g F.fhCellGain_DL_GAIN) && signed8 (g F.fhCellGain_DL_GAIN) ≤ 0

/-- Thresholds, (UP_THR, DN_THR) of each step, that R179 accepts: 1.5 dB is six units. -/
def gainsOk : List (Int × Int) → Bool
  | [] => true
  | [(up, dn)] => up < dn
  | (up, dn) :: (up', dn') :: r => up < dn && up + 6 < dn' && gainsOk ((up', dn') :: r)

/-- Bits of a sample in a direction. -/
def sampleBits (r : List Nat) (ws : List Word) (ul : Bool) : Nat :=
  let d (f : Field) := f.get (ws.getD 5 0)
  if recFhMode r == 2 then (match d F.fhCellId_TD_FMT with
    | 0 => 16
    | 1 => 12
    | _ => 14)
  else iqBits (if ul then d F.fhCellId_UL_WIDTH else d F.fhCellId_DL_WIDTH)

/-- Worst-symbol U-plane rate of a cell in kbit/s, with 8% for headers (R162; log 36): the samples of 14 symbols a slot. -/
def cellRate (r : List Nat) (ws : List Word) (ul : Bool) : Nat :=
  let perMs := if recFhMode r == 2 then fftSize (recNrb r) * 15 * 2 ^ muOf (recScs r) else recNrb r * 12 * 14 * 2 ^ muOf (recScs r)
  cdiv (2 * sampleBits r ws ul * (if ul then recUl r else recDl r) * perMs * 108) 100

/-- Check 6 (R162, R179). -/
def State.fhCheck (s : State) (recs : List (List Nat)) : Bool :=
  let eaxc (r : List Nat) : Nat := F.fhCellId_EAXC_BASE.get ((s.cellWords r).getD 5 0)
  let load (p : Nat) (ul : Bool) : Nat := ((recs.filter (recPort · == p)).map fun r => cellRate r (s.cellWords r) ul).sum
  (recs.all fun r =>
    s.fld (R.fhPortCfg (recPort r)) F.fhPortCfg_USE == 1 && fhOk (s.cellWords r) &&
    (recs.all fun q => recCell q == recCell r || recPort q != recPort r || eaxc q != eaxc r) &&
    (recFhMode r != 2 || s.unchanged r || gainsOk s.gainLatch)) &&
  ((recs.map recPort).eraseDups.all fun p =>
    let line := portLanes (s.fld (R.fhPortCfg p) F.fhPortCfg_WIDTH) * 200000000
    load p true * 100 ≤ line * 95 && load p false * 100 ≤ line * 95)

/-- Check 8: what the new reserve adds on arrays that a live slice holds (R90). -/
def State.reserveClash (s : State) (recs : List (List Nat)) (c : LastCopy) : Bool :=
  s.parts.any fun e => e.1 < 256 && (arrList e.2.arrays).any fun i =>
    let u := reserveFor recs c.groups (i / 4)
    let old := bit (s.fld (R.coreSeqRadio (i / 4)) F.coreSeqRadio_RADIO_ARR) (i % 4)
    c.names i && (u.1 > (if old then s.fld (R.coreSeqRadio (i / 4)) F.coreSeqRadio_CS_UNITS else 0) ||
      u.2 > (if old then s.fld (R.coreSeqRadio (i / 4)) F.coreSeqRadio_ACC_UNITS else 0))

/-- The first check of R144 that fails, with the cell that failed check 1; none: the apply is accepted. -/
def State.applyCheck (s : State) : Option (Nat × Nat) :=
  let recs := s.newSet
  let all := 0xFFFF
  let copy := s.buildLast recs s.fencedArrays
  if s.radio.pend.isSome || s.flag R.lastStat F.lastStat_SWAP_PEND then some (0x0A, all)
  else match s.radio.staged.find? fun r => !(s.recValid r) with
    | some r => some (0x01, recCell r)
    | none =>
      if recs.length > 512 then some (0x02, all)
      else if (recs.map cuQuarters).sum > 1536 then some (0x03, all)
      else if !(Config.radioDemand (s.demands recs)).2.2 || recs.any (fun r => !(cellCfgOk r (s.cellWords r))) ||
          !(raFits recs fun r => raDemand (s.cellWords r) r) then some (0x04, all)
      else if !(Config.lastFits (s.demands recs) s.fencedArrays s.last.active.groups) || !copy.fits then some (0x05, all)
      else if !(s.fhCheck recs) then some (0x06, all)
      else if (s.carve recs).isNone || !(Config.kenTraffic recs) || (recs.map fun r => harqBytes (s.cellWords r) r).sum > 2 ^ 28 ||
          (s.radioSegs recs ((s.carve recs).elim [] (·.1))).length > 64 then some (0x07, all)
      else if s.reserveClash recs copy then some (0x08, all)
      else if reserveOf copy ((recs.map cuQuarters).sum) + s.fld R.lastPwr F.lastPwr_IDLE_W > s.fld R.lastPwr F.lastPwr_CAP_W
        then some (0x09, all)
      else none

/-- cell_apply (R143, R144). -/
def Act.doCellApply (j : JCmd) : Act := .get fun s =>
  match s.applyCheck with
  | some (reason, cell) => .all [
      .setF R.radioApply F.radioApply_REASON reason,
      .setF R.radioApply F.radioApply_CELL cell,
      .refuse j stCell reason]
  | none =>
    let recs := s.newSet
    let copy := s.buildLast recs s.fencedArrays
    .all [
      .arm copy,
      .modRadio fun x => { x with
        staged := []
        pend := some {
          period := s.armAt
          recs := recs
          units := (s.carve recs).elim x.units (·.1)
          lent := (s.carve recs).elim x.lent (·.2)
          reserveW := reserveOf copy ((recs.map cuQuarters).sum)
          regs := recs.map fun r => (recCell r, s.cellWords r)
          gains := s.gainLatch } },
      .kenStat,
      .setF R.radioStat F.radioStat_APPLY_PEND 1,
      .modF R.radioApply F.radioApply_SEQ (· + 1),
      .setF R.radioApply F.radioApply_REASON 0,
      .setF R.radioApply F.radioApply_CELL 0xFFFF,
      .replyOk j [BitVec.ofNat 64 s.armAt]]

def execCellApply (mb : Nat) (s : State) : Out := Act.out s (.mbRun mb 0x0401 .doCellApply)

/-- cell_discard. -/
def Act.doCellDiscard (j : JCmd) : Act := .get fun s =>
  .checks j [(s.radio.pend.isSome, stBadState, 1)] (.all [.modRadio fun x => { x with staged := [] }, .replyOk j])

def execCellDiscard (mb : Nat) (s : State) : Out := Act.out s (.mbRun mb 0x0402 .doCellDiscard)

/-! ### Neural receivers (R154, R155) -/

/-- Little-endian field of a header. -/
def hdrNum (d : List Byte) (o n : Nat) : Nat := leNat ((d.drop o).take n)

/-- The offset of the first failing field of an image header, if one fails (R155). -/
def nrxHeaderBad (d : List Byte) (len : Nat) : Option Nat :=
  let f := hdrNum d
  let ncall := f 6 1
  let call (i : Nat) : Nat × Nat := (f (0x40 + 16 * i) 8, f (0x48 + 16 * i) 8)
  let badCall (i : Nat) : Bool :=
    let (w0, w1) := call i
    bits w0 63 32 % 64 != 0 || bits w0 63 32 ≥ f 0x0C 4 || !(inRange 1 16 (bits w0 28 24)) ||
    !(inRange (bits w0 28 24) 16 (bits w0 23 19)) || !(inRange 1 275 (bits w0 18 9)) || bits w0 8 0 != 0 || bits w1 11 0 != 0
  if f 0 4 != 0x3158524E then some 0
  else if f 4 2 != 1 then some 4
  else if !(inRange 1 16 ncall) || 0x40 + 16 * ncall > len then some 6
  else if f 7 1 > 1 then some 7
  else if f 8 4 % 64 != 0 || f 8 4 > len then some 8
  else if f 0xC 4 % 64 != 0 || f 8 4 + f 0xC 4 > len then some 0xC
  else if f 0x10 4 % 64 != 0 || f 0x10 4 > len then some 0x10
  else if f 0x10 4 + f 0x14 4 > len then some 0x14
  else if f 0x18 4 > 16380 then some 0x18
  else if f 0x1C 36 != 0 then some 0x1C
  else ((List.range ncall).find? badCall).map fun i => 0x40 + 16 * i

/-- nrx_load: the image is read, its header checked, units taken into the carve-out and the image copied there. -/
def Act.doNrxLoad (j : JCmd) : Act := .get fun s =>
  let n := bits (j.a 0) 7 0
  let len := j.a 2
  .checks j [
    (n == 0, stBadField, 0),
    (len == 0 || len % 64 != 0 || len > 2 ^ 32, stBadField, 16),
    (s.radio.nrxs.any (·.n == n), stBadState, 1)]
    (.readMem 0x100 9 (j.a 1) len fun d err => .get fun t =>
      let units := takeUnits 0 (cdiv len (2 ^ 24)) t.kenFree []
      .checks j [
        (err, stDma, 0),
        ((nrxHeaderBad d len).isSome, stImage, (nrxHeaderBad d len).getD 0),
        (units.isNone, stCell, 7),
        (t.fld R.lastPwr F.lastPwr_RESERVE_W + t.fld R.lastPwr F.lastPwr_IDLE_W > t.fld R.lastPwr F.lastPwr_CAP_W, stCell, 9)]
        (let us := (units.getD []).mergeSort fun a b => a ≤ b
        .all [
          .modRadio fun x => { x with
            units := x.units ++ us
            nrxs := x.nrxs ++ [{
              n := n
              units := us
              len := len
              calls := (List.range (hdrNum d 6 1)).map fun i => (hdrNum d (0x40 + 16 * i) 8, hdrNum d (0x48 + 16 * i) 8)
              workKib := hdrNum d 0x18 4
              codeOff := hdrNum d 8 4
              codeLen := hdrNum d 0xC 4
              flags := hdrNum d 7 1 }] },
          .kenStat,
          .each us.zipIdx fun (u, i) =>
            let part := (d.drop (i * 2 ^ 24)).take (2 ^ 24)
            .writeMem 0x100 9 (u * 2 ^ 24) part fun _ => .skip,
          .replyOk j]))

def execNrxLoad (mb : Nat) (s : State) : Out := Act.out s (.mbRun mb 0x0403 .doNrxLoad)

/-- nrx_unload. -/
def Act.doNrxUnload (j : JCmd) : Act := .get fun s =>
  let n := bits (j.a 0) 7 0
  let named := s.appliedRecs ++ s.radio.staged ++ (match s.radio.pend with
    | some p => p.recs
    | none => [])
  .checks j [(n == 0, stBadField, 0), (named.any (recNrx · == n), stBadState, 1)]
    (.all [.modRadio fun x => { x with nrxs := x.nrxs.filter (·.n != n) }, .replyOk j])

def execNrxUnload (mb : Nat) (s : State) : Out := Act.out s (.mbRun mb 0x0404 .doNrxUnload)

/-! ### DSP programs (R188, R192, R197) -/

/-- The DSPs of the command's mask. -/
def JCmd.dsps (j : JCmd) : List Nat := bitList (j.a 0 + j.a 1 * 2 ^ 64) 96

/-- dsp_load: the bundles are written to P of every DSP of the mask, whose loop cache empties. -/
def Act.doDspLoad (j : JCmd) : Act :=
  let first := bits (j.a 3) 28 16
  let count := bits (j.a 3) 12 0
  .checks j [(first + count > 8192, stBadField, 24)]
    (.readMem 0x100 9 (j.a 2) (16 * count) fun d err =>
      .checks j [(err, stDma, 0)] (.all [
        .each j.dsps fun e => .all [
          .each (List.range (4 * count)) fun i => .setDspP (e * 32768 + 4 * first + i) (hdrNum d (4 * i) 4),
          .modDsps e fun x => { x with held := none },
          .setF (R.dspStat e) F.dspStat_LOOP_HELD 0],
        .replyOk j]))

/-- A dsp_load that nothing refuses stays in hand while a DSP of its mask holds a job (R183). -/
def State.loadWaits (s : State) (j : JCmd) : Bool :=
  j.opcode == 0x0405 && !(j.dsps.all fun e => (s.dspsAt e).job.isNone) && (s.precheck j).isNone

/-- DSP_LOAD: performed once no DSP of the mask holds a job. -/
def execDspLoad (mb : Nat) (s : State) : Out := Act.out s <| .when (!(s.loadWaits (s.mbCmd mb))) (.mbRun mb 0x0405 .doDspLoad)

/-! ### Ports, power, time -/

/-- USE, WIDTH and LLS of byte i. -/
def JCmd.port (j : JCmd) (i : Nat) : Nat × Nat × Nat := (bits (j.byte i) 7 6, bits (j.byte i) 5 3, bits (j.byte i) 1 0)

/-- Lanes of a used port. -/
def usedLanes (p : Nat × Nat × Nat) : Nat := if p.1 == 0 then 0 else portLanes p.2.1

/-- The first byte that gives no port of R160: a reserved code, a used port without width or off its alignment, a byte inside another
port (log 36). -/
def JCmd.portBad (j : JCmd) : Option Nat := (List.range 48).find? fun i =>
  let (u, w, l) := j.port i
  u == 3 || w > 4 || l == 3 || (u != 0 && (w == 0 || i % portLanes w != 0)) ||
  (j.byte i != 0 && (List.range i).any fun k => i < k + usedLanes (j.port k))

/-- Bits of FH.PORT.CFG for a port. -/
def portWord (p : Nat × Nat × Nat) : Word := BitVec.ofNat 64 (p.2.2 * 256 + p.2.1 * 16 + p.1)

/-- port_config (R160, R161). -/
def Act.doPortConfig (j : JCmd) : Act := .get fun s =>
  let changed := (List.range 48).filter fun i => s.rd (R.fhPortCfg i) != portWord (j.port i)
  let lanes := ((List.range 48).map fun i => if (j.port i).1 == 1 then usedLanes (j.port i) else 0).sum
  let named := s.appliedRecs.map recPort
  let fabric := s.conns.any fun c => c.2.txOpen || c.2.rxOpen || c.2.synSent
  .checks j [
    (j.portBad.isSome, stBadField, j.portBad.getD 0),
    (changed.any (fun i => named.contains i || (fabric && s.fld (R.fhPortCfg i) F.fhPortCfg_USE == 2)), stBadState, 1),
    (lanes > 32, stNoResource, 7)] (.all [
      .each changed fun i => .all [.setRegs (R.fhPortCfg i) (portWord (j.port i)), .portDown i],
      .setF R.fhStat F.fhStat_FH_LANES lanes,
      .replyOk j])

def execPortConfig (mb : Nat) (s : State) : Out := Act.out s (.mbRun mb 0x0406 .doPortConfig)

/-- power_cap_set (R23): the cap takes effect at the following period boundary. -/
def Act.doPowerCapSet (j : JCmd) : Act := .get fun s =>
  let w := bits (j.a 0) 15 0
  .checks j [
    (!(inRange 600 1200 w), stBadField, 0),
    (w < s.fld R.lastPwr F.lastPwr_RESERVE_W + s.fld R.lastPwr F.lastPwr_IDLE_W, stPower, 0)]
    (.all [.modLast fun l => { l with nextCap := some w }, .replyOk j])

def execPowerCapSet (mb : Nat) (s : State) : Out := Act.out s (.mbRun mb 0x0500 .doPowerCapSet)

/-- time_set (R245). -/
def Act.doTimeSet (j : JCmd) : Act := .get fun s =>
  .checks j [(s.fld R.timeCfg F.timeCfg_SRC != 1, stBadState, 1)]
    (.all [.modTime fun t => { t with ppsSec := some (bits (j.a 0) 47 0) }, .replyOk j])

def execTimeSet (mb : Nat) (s : State) : Out := Act.out s (.mbRun mb 0x0501 .doTimeSet)

/-! ### The soft retirement map (R388) -/

/-- An array is fenced. -/
def Act.arrayOut (c a : Nat) : Act := .all [.setF (R.coreArrStat c a) F.coreArrStat_FENCE 1, .lastSubst c a, .fenceWaits c]

/-- A DSP is fenced; the second fence of its group is recorded and raised (R197). -/
def Act.dspOut (d : Nat) : Act := .get fun s =>
  let others := ((List.range 8).map (d / 8 * 8 + ·)).filter (· != d)
  .all [
    .setF (R.dspStat d) F.dspStat_FENCE 1,
    .when (!(s.flag (R.dspStat d) F.dspStat_FENCE) && (others.filter fun e => s.flag (R.dspStat e) F.dspStat_FENCE).length == 1)
      (.all [.record 0x00 0x101 0x4802 [BitVec.ofNat 64 d, 4], .attnRadio])]

/-- A detector or an FFT engine is fenced; the second detector of a cluster is recorded and raised (R236). Detectors 0-7 are 56-63 of the
Last, FFT engines 40-55 stand at 8-23. -/
def Act.detOut (k : Nat) : Act := .get fun s => .all [
  .setDets k true,
  .when (k < 8 && !(s.detsAt k) && s.detsAt (if k % 2 == 0 then k + 1 else k - 1))
    (.all [.record 0x00 0x101 0x4803 [BitVec.ofNat 64 (56 + k), 3], .attnRadio])]

/-- An engine of the coding register block is fenced; the second encoder or polar unit of a cluster is recorded and raised (R223). -/
def Act.engOut (e : Nat) : Act := .get fun s => .all [
  .setF (R.codeEngStat e) F.codeEngStat_FENCE 1,
  .when (e ≥ 24 && !(s.flag (R.codeEngStat e) F.codeEngStat_FENCE) &&
      s.flag (R.codeEngStat (if e % 2 == 0 then e + 1 else e - 1)) F.codeEngStat_FENCE)
    (.all [.record 0x00 0x101 0x4803 [BitVec.ofNat 64 e, 3], .attnRadio])]

def Act.arrayPend (c a : Nat) : Act := .setF (R.coreArrStat c a) F.coreArrStat_RETIRE_PEND 1

/-- A unit leaves service and enters the map: KIND 0 array, 1 channel, 2 DSP, 3 Last engine index, 4 core. -/
def Act.retireUnit (kind i : Nat) : Act :=
  match kind with
  | 0 => .all [.arrayOut (i / 4) (i % 4), .arrayPend (i / 4) (i % 4), .retireBit i]
  | 1 => .all [.channelFence i, .setF (R.memCh (i / 64) (i % 64)) F.memCh_RETIRE_PEND 1, .retireBit (480 + i)]
  | 2 => .all [.dspOut i, .retireBit (320 + i)]
  | 3 => .all [
      if i < 40 then .all [.engOut i, .setF (R.codeEngStat i) F.codeEngStat_RETIRE_PEND 1]
      else if i < 56 then .detOut (i - 32) else .detOut (i - 56),
      .retireBit (416 + i)]
  | _ => .all [.each (List.range 4) fun a => .all [.arrayOut i a, .arrayPend i a], .retireBit (256 + i)]

/-- retire. -/
def Act.doRetire (j : JCmd) : Act :=
  let kind := bits (j.a 0) 7 0
  let i := bits (j.a 0) 23 8
  .checks j [(kind > 4, stBadField, 0), (i ≥ [256, 128, 96, 64, 64].getD kind 0, stBadField, 1)]
    (.all [.retireUnit kind i, .replyOk j])

def execRetire (mb : Nat) (s : State) : Out := Act.out s (.mbRun mb 0x0502 .doRetire)

/-- retire_clear (R86, R388). -/
def Act.doRetireClear (j : JCmd) : Act := .all [
  .modFlash fun f => { f with retire := 0 },
  .each (List.range 256) fun i => .setF (R.coreArrStat (i / 4) (i % 4)) F.coreArrStat_RETIRE_PEND 0,
  .each (List.range 128) fun i => .setF (R.memCh (i / 64) (i % 64)) F.memCh_RETIRE_PEND 0,
  .each (List.range 40) fun e => .setF (R.codeEngStat e) F.codeEngStat_RETIRE_PEND 0,
  .replyOk j]

def execRetireClear (mb : Nat) (s : State) : Out := Act.out s (.mbRun mb 0x0503 .doRetireClear)

end Sys2Proof.Machine
end

