-- ==== Sys2Proof/Machine/Integrity.lean ====
section
/-! DEFINITION. Checked operation and health: the health commands and the evaluation of scores, island clocks, supplies, flits, array
self-tests and the die-pair comparator's bound (R376-R395; log 37). -/

namespace Sys2Proof.Machine

/-! ### Failures (R380, R387, R441) -/

/-- The module is failed: NOT_READY set, RB_N low, HOST.BOOT.FAILED, with CAUSE where a rule gives one (R441). -/
def Act.moduleFail (cause : Option Nat) : Act := .all [
  .setFailed true,
  .setF R.hostBoot F.hostBoot_FAILED 1,
  match cause with
  | some c => .setF R.hostBoot F.hostBoot_CAUSE c
  | none => .skip,
  .setF R.hostAttn4 F.hostAttn4_NOT_READY 1,
  .rbWant true]

/-- Owners of the programs that run on a core are faulted. -/
def Act.coreOwners (c code : Nat) : Act := .each (List.range 5) fun x => .get fun s =>
  .when (s.ctxActive c x) (.coreFault c x code (s.fld (R.coreCtxPc c x) F.coreCtxPc_PC))

/-- A failed core: owners faulted, tiles discarded, every array fenced, entered in the map (R387, R390). -/
def Act.coreFail (c code : Nat) : Act := .all [
  .coreOwners c code,
  .each (List.range 4) fun a => .arrClear c a,
  .coreFence c 0x3FF code 0]

/-- A slice has resources on a compute die. -/
def State.onDie (s : State) (p d : Nat) : Bool :=
  let x := s.partsAt p
  x.arrays / 2 ^ (128 * d) % 2 ^ 128 != 0 || x.ken / 2 ^ (64 * d) % 2 ^ 64 != 0 || x.lp / 2 ^ (512 * d) % 2 ^ 512 != 0

/-- A compute die fails: every partition with resources there faults, every cell whose work runs there is reset, the module is failed
(R387). -/
def Act.dieFail (d : Nat) : Act := .get fun s => .all [
  .each (s.parts.filter fun e => e.1 < 256 && s.onDie e.1 d) fun e => .sliceFault e.1 (Config.dieClass % 256) 0 0 0,
  .cellResets ((s.appliedRecs.filter fun r => Config.cellOnDie r d).map recCell) (Config.dieCause % 256),
  .moduleFail none]

/-- The jobs of a coding cluster end as a check failure of it (R222, R224). -/
def Act.clusterFail (k : Nat) : Act := .each (List.range 4) fun q => .get fun s =>
  match s.cjobsAt (4 * k + q) with
  | some j => .all [
      .dropCodeJob (4 * k + q),
      .each j.engines fun e => .all [.incF (R.codeEngCnt e) F.codeEngCnt_CHK_FAIL, .codeFence e],
      .codeRefuse j.radio j.cells 3]
  | none => .skip

/-- CLOCK_FAILURE: an island's clock is off by more than 1% or stops (R380); during start-up it fails the module (R440). -/
def execClockFailure (i : Island) (s : State) : Out := Act.out s <|
  if s.notReady && !s.failed then .when (i < 90) (.moduleFail (some 0x08))
  else if i < 64 then .coreFail i (Config.islandFault % 256)
  else if i < 76 then .each ((List.range 8).map (8 * (i - 64) + ·)) fun d => .all [.dspFaultNow d (Config.islandFault % 256), .dspOut d]
  else if i < 80 then
    let k := i - 76
    .all [
      .clusterFail k,
      .each ((List.range 6).map (6 * k + ·)) .engOut,
      .each [24 + 2 * k, 25 + 2 * k, 32 + 2 * k, 33 + 2 * k] .engOut,
      .each ((List.range 4).map (8 + 4 * k + ·)) .detOut,
      .each [2 * k, 2 * k + 1] .detOut]
  else if i < 84 then .dieFail ((i - 80) / 2)
  else if i < 86 then .dieFail (i - 84)
  else .when (i < 90) (.moduleFail none)

/-! ### Supplies (R381, R457) -/

/-- Outstanding moves that touch an address the test accepts meet an error response (R103, R130). -/
def Act.movesFail (hit : Nat → Nat → Bool) : Act := .get fun s => .each (List.range 64) fun c => .each (List.range 5) fun x =>
  let part := s.ctxPart c x
  let bad (m : MoveSt) : Bool := match s.locate part (if m.toStore then rightR else rightW) m.addr m.len with
    | some ls => ls.any fun e => hit c e.1
    | none => false
  let ms := (s.ctxsAt (c * 8 + x)).moves.filter bad
  .all [
    .modCtxs (c * 8 + x) fun t => { t with moves := t.moves.filter fun m => !(bad m) },
    .each ms fun m =>
      if m.toStore then .each (csLines (m.line * 64) m.len) fun l => .when (s.ownsCs part c l) (.setPend (c * 65536 + l) 2)
      else .coreFault c x 9 (s.fld (R.coreCtxPc c x) F.coreCtxPc_PC - 64)]

/-- Supply events of a unit within the last second, this one among them. -/
def State.recent (s : State) (l : List (Nat × Nat)) (u : Nat) : List (Nat × Nat) :=
  (l.filter fun e => s.tick < e.2 + 250000000) ++ [(u, s.tick)]

/-- A supply event of an island (R381): a core's tiles are discarded and replayed; the work of a DSP or coding cluster aborts as a check
failure; in-flight requests of a Kennel die or of a network-on-chip meet error responses, and the third event within 1 s fails the die;
a gateway region fails the module (R457). -/
def Act.supplyEvent (i : Island) : Act := .get fun s =>
  if i < 64 then
    let l := s.recent s.sys.supply i
    .all [
      .each (List.range 4) fun a => .get fun t => match (t.arrsAt (4 * i + a)).tiles.head? with
        | some r => .discard i a { r with again := 3, run := 1, pass := none }
        | none => .skip,
      .each (List.range 5) fun x => .modCtxs (i * 8 + x) fun t => { t with redo := t.redo.foldr insertSeq [] },
      .healthEv 3 i 2,
      .modSys fun y => { y with supply := l },
      .when ((l.filter (·.1 == i)).length ≥ 3) (.coreFail i (Config.islandFault % 256))]
  else if i < 76 then .each ((List.range 8).map (8 * (i - 64) + ·)) fun d => .dspFaultNow d 4
  else if i < 80 then .clusterFail (i - 76)
  else if i < 86 then
    let die := if i < 84 then (i - 80) / 2 else i - 84
    let l := s.recent s.sys.rails i
    .all [
      .movesFail fun c a => if i < 84 then s.dpaKind a == .kennel && a / 0x20000000 == i - 80 else c / 32 == die || dieOf a == die,
      .healthEv 0 0 (Config.railHealth % 4),
      .modSys fun y => { y with rails := l },
      .when ((l.filter (·.1 == i)).length ≥ 3) (.dieFail die)]
  else .when (i < 90) (.moduleFail none)

/-- SUPPLY_EVENT. -/
def execSupplyEvent (i : Island) (s : State) : Out := Act.out s (.supplyEvent i)

/-! ### Flits (R378) -/

/-- FLIT_CRC_FAILURE: a flit fails its CRC: it is resent; when that fails too the requester gets an error response and one module health
event is counted. -/
def execFlitCrcFailure (req : Requester) (second : Bool) (s : State) : Out := Act.out s <|
  if second then .all [.healthEv 0 0 3, .memError req]
  else .pmc (match req with | .core c _ => some c | _ => none) 6 2 1 (s.reqPart req) (reqMaster req)

/-! ### Self-tests (R86, R87, R390) -/

/-- ARRAY_SELFTEST: the test of a suspect array within 100 ms of its fence. -/
def execArraySelftest (core arr : Nat) (pass : Bool) (s : State) : Out := Act.out s <|
  .when (s.flag (R.coreArrStat core arr) F.coreArrStat_SUSPECT) (
    if pass then .all [.setF (R.coreArrStat core arr) F.coreArrStat_SELFTEST_FAIL 0, .healthEv 4 (4 * core + arr) 1]
    else .all [
      .setF (R.coreArrStat core arr) F.coreArrStat_SELFTEST_FAIL 1,
      .arrayPend core arr,
      .retireBit (4 * core + arr),
      .healthFailed 4 (4 * core + arr)])

/-! ### The die-pair comparator (R384) -/

/-- DIE_PAIR_TIMEOUT: a record of the slice has not matched 2 ms after its commit: the slice faults, as at a mismatch. -/
def execDiePairTimeout (p : Nat) (s : State) : Out := Act.out s <|
  match s.pairs.find? (·.slice == p) with
  | some r => .pairFault r 0
  | none => .skip

/-! ### Health scores (R389-R391) -/

def healthUnits (kind : Nat) : Nat := [1, 128, 48, 64, 256].getD kind 0

/-- Any unit but the module is failed. -/
def State.anyFailed (s : State) : Bool := [1, 2, 3, 4].any fun k => (List.range (healthUnits k)).any fun i => s.healthLevel k i == 2

/-- What reaching failed does besides its record and MGR: an array or a core is fenced and entered in the map, a channel is fenced. -/
def Act.healthFence (kind i : Nat) : Act :=
  match kind with
  | 1 => .channelFence i
  | 3 => .coreFail i (Config.islandFault % 256)
  | 4 => .retireUnit 0 i
  | _ => .skip

/-- One unit's second (R390). -/
def Act.healthTick (kind i : Nat) : Act := .get fun s =>
  let u := s.healthAt (kind * 1024 + i)
  let r := healthReg kind i
  let c (f : Field) := s.fld (R.healthCfg kind) f
  let w (f : Field) := s.fld (R.healthW kind) f
  let old := s.fld r F.healthUnitMod_SCORE
  let add (x n : Nat) : Nat := min (x + n) (2 ^ 32 - 1)
  let score := add (add (add (add (old - old / 2 ^ c F.healthCfg_DECAY_SH) (u.ev0 * w F.healthW_W0)) (u.ev1 * w F.healthW_W1))
    (u.ev2 * w F.healthW_W2)) (u.ev3 * w F.healthW_W3)
  let pts := score / 256
  let level := s.healthLevel kind i
  let up (b : Bool) (n : Nat) : Nat := if b then min (n + 1) 255 else 0
  let cf := up (pts ≥ c F.healthCfg_FAIL_THR) (s.fld r F.healthUnitMod_CNT_F)
  let cs := up (pts ≥ c F.healthCfg_SUSPECT_THR) (s.fld r F.healthUnitMod_CNT_S)
  let cl := up (pts < c F.healthCfg_SUSPECT_THR / 2) u.cntL
  let dwell := c F.healthCfg_DWELL
  .all [
    .setF r F.healthUnitMod_SCORE score,
    if level == 2 then .setHealth (kind * 1024 + i) ⟨0, 0, 0, 0, u.cntL⟩
    else .all [
      .setHealth (kind * 1024 + i) ⟨0, 0, 0, 0, cl⟩,
      .setF r F.healthUnitMod_CNT_F cf,
      .setF r F.healthUnitMod_CNT_S cs,
      if cf ≥ dwell then .all [.healthFailed kind i, .healthFence kind i]
      else if cs ≥ dwell then .when (level == 0) (.healthSuspect kind i)
      else .when (level == 1 && cl ≥ dwell && !(kind == 0 && s.anyFailed)) (.setF r F.healthUnitMod_LEVEL 0)]]

/-- HEALTH_EVALUATION: once a second, every unit (R390). -/
def execHealthEvaluation (s : State) : Out := Act.out s <|
  .each (List.range 5) fun k => .each (List.range (healthUnits k)) fun i => .healthTick k i

/-- health_cfg (R391, R395). -/
def Act.doHealthCfg (j : JCmd) : Act :=
  let k := bits (j.a 0) 2 0
  let c (f : Field) := f.get (BitVec.ofNat 64 (j.a 1))
  let put (r : Nat) (w : Nat) (fs : List Field) : Act := .each fs fun f => .setF r f (f.get (BitVec.ofNat 64 w))
  .checks j [
    (k > 4, stBadField, 0),
    (c F.healthCfg_SUSPECT_THR == 0 || c F.healthCfg_SUSPECT_THR > 65534 || c F.healthCfg_FAIL_THR ≤ c F.healthCfg_SUSPECT_THR ||
      c F.healthCfg_DECAY_SH == 0 || c F.healthCfg_DWELL == 0, stBadField, 8)] (.all [
    put (R.healthCfg k) (j.a 1) [F.healthCfg_FAIL_THR, F.healthCfg_SUSPECT_THR, F.healthCfg_DECAY_SH, F.healthCfg_DWELL],
    put (R.healthW k) (j.a 2) [F.healthW_W3, F.healthW_W2, F.healthW_W1, F.healthW_W0],
    .replyOk j])

def execHealthCfg (mb : Nat) (s : State) : Out := Act.out s (.mbRun mb 0x0700 .doHealthCfg)

/-- health_query. -/
def Act.doHealthQuery (j : JCmd) : Act := .get fun s =>
  let k := bits (j.a 0) 2 0
  let first := bits (j.a 0) 31 16
  let n := bits (j.a 0) 47 32
  .checks j [
    (k > 4, stBadField, 0),
    (first ≥ healthUnits k, stBadField, 2),
    (n == 0 || n > 256 || first + n > healthUnits k, stBadField, 4)]
    (.replyOk j ((List.range n).map fun i => s.rd (healthReg k (first + i))))

def execHealthQuery (mb : Nat) (s : State) : Out := Act.out s (.mbRun mb 0x0701 .doHealthQuery)

/-- health_clear: a module with a failed unit stays suspect (R390). -/
def Act.doHealthClear (j : JCmd) : Act :=
  let k := bits (j.a 0) 2 0
  let i := bits (j.a 0) 31 16
  let one (i : Nat) : Act := .all [.setRegs (healthReg k i) 0, .setHealth (k * 1024 + i) ⟨0, 0, 0, 0, 0⟩]
  .checks j [(k > 4, stBadField, 0), (i ≥ healthUnits k && i != 0xFFFF, stBadField, 2)] (.all [
    if i == 0xFFFF then .each (List.range (healthUnits k)) one else one i,
    .get fun t => .when (k == 0 && t.anyFailed) (.setF (healthReg 0 0) F.healthUnitMod_LEVEL 1),
    .replyOk j])

def execHealthClear (mb : Nat) (s : State) : Out := Act.out s (.mbRun mb 0x0702 .doHealthClear)

/-- step_report (R391, R392). -/
def Act.doStepReport (j : JCmd) : Act := .get fun s =>
  let p := bits (j.a 0) 7 0
  let en := bit (j.a 0) 8
  let idx := bits (j.a 0) 17 16
  .checks j [
    (en && (s.pasidOf 0x100 idx).isNone, stBadField, 2),
    (!(s.sliceLive p), stBadState, s.sliceState p)]
    (.all [.modParts p fun x => { x with srEn := en, srSize := bits (j.a 0) 15 12, srRing := j.a 1, srIdx := idx }, .replyOk j])

def execStepReport (mb : Nat) (s : State) : Out := Act.out s (.mbRun mb 0x0703 .doStepReport)

end Sys2Proof.Machine
end

