-- ==== Sys2Proof/Machine/Counters.lean ====
section
/-! DEFINITION. Performance counters: the counter commands, samples and dump rings (R396-R409; log 38). -/

namespace Sys2Proof.Machine

/-! ### Sets and selections (R396-R400, R408) -/

/-- Base address of a set: 0-7 global, 0x80 + c the set of core c. -/
def setBase (n : Nat) : Nat := if n < 8 then R.gpmcCtl n 0 else R.corePmcCtl (n - 0x80) 0

def setExists (n : Nat) : Bool := n < 8 || (0x80 ≤ n && n < 0xC0)

/-- A slice holds a set: a global one by grant, a core's with the whole core. -/
def State.setHeldBy (s : State) (p n : Nat) : Bool :=
  if n < 8 then bit (s.partsAt p).ctr n else (s.partsAt p).arrays / 16 ^ (n - 0x80) % 16 == 15

/-- The slice that holds a set. -/
def State.setHolder (s : State) (n : Nat) : Option Nat := (s.parts.find? fun e => e.1 < 256 && s.setHeldBy e.1 n).map (·.1)

/-- A partition may name a set in a command. -/
def State.setNamed (s : State) (p n : Nat) : Bool := setExists n && (p == 256 || s.setHeldBy p n)

/-- Events of each class (R400); the integrity events that the table of R389 leaves empty are none. -/
def eventExists (cls ev : Nat) : Bool :=
  if cls == 0xD then ev < 20 && !([7, 11, 18, 19].contains ev)
  else ev < [3, 9, 4, 4, 6, 6, 3, 4, 3, 4, 4, 3, 3].getD cls 0

/-- An access to a pair of counters ends the latch of its odd counter (R402). -/
def Act.unlatch (n i : Nat) : Act :=
  .modSys fun y => { y with latch := y.latch.filter fun e => e.1 != setBase n + 16 * (2 * (i / 2) + 1) + 8 }

/-- Control word of counter i of a set, with the fields that Uhlile forces for the slice that holds it (R397, R398, R401). OVF is
written one to clear. -/
def Act.pmcCtl (n i : Nat) (w : Word) : Act := .get fun s =>
  let r := setBase n + 16 * i
  let g (f : Field) := f.get w
  .all [
    .setF r F.gpmcCtl_EN (g F.gpmcCtl_EN),
    .when (i % 2 == 0) (.setF r F.gpmcCtl_CHAIN (g F.gpmcCtl_CHAIN)),
    .when (g F.gpmcCtl_OVF == 1) (.setF r F.gpmcCtl_OVF 0),
    .setF r F.gpmcCtl_ADDR_EN (g F.gpmcCtl_ADDR_EN),
    .setF r F.gpmcCtl_PRIV (if (s.setHolder n).isSome then 2 else g F.gpmcCtl_PRIV),
    .setF r F.gpmcCtl_PART ((s.setHolder n).getD (g F.gpmcCtl_PART)),
    .setF r F.gpmcCtl_MASTER (g F.gpmcCtl_MASTER),
    .setF r F.gpmcCtl_EVCLASS (g F.gpmcCtl_EVCLASS),
    .setF r F.gpmcCtl_EVENT (g F.gpmcCtl_EVENT)]

/-- ctr_program; of a set that a slice holds the manager's write is ignored (R402). -/
def Act.doCtrProgram (j : JCmd) : Act := .get fun s =>
  let n := bits (j.a 0) 7 0
  let i := bits (j.a 0) 11 8
  let w := BitVec.ofNat 64 (j.a 1)
  let cls := F.gpmcCtl_EVCLASS.get w
  .checks j [
    (!(s.setNamed j.part n), stBadField, 0),
    (i > 7, stBadField, 1),
    (!(eventExists cls (F.gpmcCtl_EVENT.get w)) || (n ≥ 8 && cls > 6), stBadField, 8)] (.all [
    .when (j.part < 256 || (s.setHolder n).isNone) (.all [
      .pmcCtl n i w,
      .unlatch n i,
      .when (bit (j.a 0) 12) (.all [
        .setF (setBase n + 0x80) F.gpmcRange_ADDR (j.a 2 % 2 ^ 48),
        .setF (setBase n + 0x88) F.gpmcRange_ADDR (j.a 3 % 2 ^ 48)])]),
    .replyOk j])

def execCtrProgram (mb : Nat) (s : State) : Out := Act.out s (.mbRun mb 0x0600 .doCtrProgram)

/-- ctr_read: eight values, then eight controls, of one instant. -/
def Act.doCtrRead (j : JCmd) : Act := .get fun s =>
  let n := bits (j.a 0) 7 0
  .checks j [(!(s.setNamed j.part n), stBadField, 0)]
    (.all [.each [0, 2, 4, 6] (.unlatch n), .replyOk j (((List.range 8).map fun i => s.rd (setBase n + 16 * i + 8)) ++ (List.range 8).map fun i => s.rd (setBase n + 16 * i))])

def execCtrRead (mb : Nat) (s : State) : Out := Act.out s (.mbRun mb 0x0601 .doCtrRead)

/-! ### Samples (R403) -/

/-- CORE.PMC.SAMP takes a word; PART is the slice of a core that one holds. -/
def Act.sampCfg (c : Nat) (w : Word) : Act := .get fun s =>
  let r := R.corePmcSamp c
  .all [
    .setF r F.corePmcSamp_EN (F.corePmcSamp_EN.get w),
    .setF r F.corePmcSamp_STOP (F.corePmcSamp_STOP.get w),
    .setF r F.corePmcSamp_PART ((s.setHolder (0x80 + c)).getD (F.corePmcSamp_PART.get w)),
    .setF r F.corePmcSamp_PERIOD (F.corePmcSamp_PERIOD.get w)]

/-- ctr_sample_cfg. -/
def Act.doCtrSampleCfg (j : JCmd) : Act := .get fun s =>
  let c := bits (j.a 0) 5 0
  let w := BitVec.ofNat 64 (j.a 1)
  .checks j [
    (!(s.setNamed j.part (0x80 + c)), stBadField, 0),
    (F.corePmcSamp_PERIOD.get w == 0, stBadField, 8)]
    (.all [.when (j.part < 256 || (s.setHolder (0x80 + c)).isNone) (.sampCfg c w), .replyOk j])

def execCtrSampleCfg (mb : Nat) (s : State) : Out := Act.out s (.mbRun mb 0x0602 .doCtrSampleCfg)

/-- The valid sample records of a core, oldest first. -/
def State.samples (s : State) (c : Nat) : List Byte :=
  let n := s.fld (R.corePmcSampStat c) F.corePmcSampStat_COUNT
  let next := s.fld (R.corePmcSampStat c) F.corePmcSampStat_NEXT
  (List.range n).flatMap fun i => wordBytes ((List.range 4).map fun k => s.rd (R.coreSample c (4 * ((next + 256 - n + i) % 256) + k)))

/-- ctr_sample_read. -/
def Act.doCtrSampleRead (j : JCmd) : Act := .get fun s =>
  let c := bits (j.a 0) 5 0
  .checks j [(!(s.setNamed j.part (0x80 + c)), stBadField, 0)] (.all [
    .setF (R.corePmcSampStat c) F.corePmcSampStat_COUNT 0,
    .setF (R.corePmcSampStat c) F.corePmcSampStat_LOST 0,
    .replyOut j (s.samples c) true])

def execCtrSampleRead (mb : Nat) (s : State) : Out := Act.out s (.mbRun mb 0x0603 .doCtrSampleRead)

/-! ### Dump rings (R405-R407) -/

/-- The ring of a partition. -/
def State.ringOf (s : State) (p : Nat) : Option Nat := (List.range 33).find? fun r => (s.dumpsAt r).active && (s.dumpsAt r).part == p

/-- The ring that a partition would start: 0 the manager's, 1-32 the lowest free. -/
def State.ringFree (s : State) (p : Nat) : Option Nat :=
  (if p == 256 then [0] else (List.range 32).map (· + 1)).find? fun r => !(s.dumpsAt r).active

/-- ctr_dump: snapshots from the first tick that is a multiple of the period after the start. -/
def Act.doCtrDump (j : JCmd) : Act := .get fun s =>
  let size := bits (j.a 1) 3 0
  let us := bits (j.a 1) 51 32
  .checks j [
    (size == 0, stBadField, 8),
    (us < 10 || us > 1000000, stBadField, 12),
    (cplBad (j.a 3), stBadField, 24),
    ((s.ringOf j.part).isSome || (s.ringFree j.part).isNone, stNoResource, 5)]
    (.launch j 9 (j.a 3) [] 0 0 [] fun l => .setDumps ((s.ringFree j.part).getD 0) {
      active := true
      part := j.part
      addr := j.a 0
      size := size
      periodUs := us
      left := j.a 2
      seq := 0
      nextTick := (s.tick / (250 * us) + 1) * (250 * us)
      handle := l.handle
      pasidIdx := j.pasidIdx
      lastSeq := 0
      missed := 0 })

def execCtrDump (mb : Nat) (s : State) : Out := Act.out s (.mbRun mb 0x0604 .doCtrDump)

/-- A ring stops; its launch ends. -/
def Act.ringEnd (r status : Nat) : Act := .get fun s =>
  let d := s.dumpsAt r
  .all [
    .modDumps r fun x => { x with active := false },
    match (s.partsAt d.part).launches.find? (·.handle == d.handle) with
    | some l => .finish d.part l status 0 0xFFFF
    | none => .skip]

/-- ctr_dump_stop: without a ring there is nothing whose state allows it (log 38). -/
def Act.doCtrDumpStop (j : JCmd) : Act := .get fun s =>
  match s.ringOf j.part with
  | none => .refuse j stBadState (if j.part < 256 then s.sliceState j.part else 1)
  | some r => .all [.ringEnd r stAborted, .replyOk j]

def execCtrDumpStop (mb : Nat) (s : State) : Out := Act.out s (.mbRun mb 0x0605 .doCtrDumpStop)

/-- The sets whose counters a ring holds, in order. -/
def State.ringSets (s : State) (p : Nat) : List Nat :=
  ((List.range 8).filter fun n => p == 256 || s.setHeldBy p n) ++
  ((List.range 64).map (0x80 + ·)).filter fun n => p == 256 || s.setHeldBy p n

/-- Value words of a snapshot. -/
def State.ringWords (s : State) (p : Nat) : List Word := (s.ringSets p).flatMap fun n => (List.range 8).map fun i =>
  BitVec.ofNat 64 (s.fld (setBase n + 16 * i + 8) F.gpmcVal_VALUE + s.fld (setBase n + 16 * i) F.gpmcCtl_OVF * 2 ^ 48 +
    s.fld (setBase n + 16 * i) F.gpmcCtl_CHAIN * 2 ^ 49)

/-- The entry of a ring's next snapshot: header, value words, padding to 64 B (R406). -/
def State.ringEntry (s : State) (r : Nat) : List Byte × List Byte :=
  let d := s.dumpsAt r
  let ws := s.ringWords d.part
  let body := wordBytes ws
  (wordBytes [BitVec.ofNat 64 d.seq, BitVec.ofNat 64 d.nextTick, BitVec.ofNat 64 (if s.onSn then s.readingNs else 0)] ++
      leBytes ws.length 4 ++ leBytes d.periodUs 4 ++ leBytes d.part 2 ++ List.replicate 30 0,
    body ++ List.replicate ((64 - body.length % 64) % 64) 0)

/-- DUMP_SNAPSHOT: a ring's tick T comes. `busy`: the previous entry is still being written, and this one is not taken; `ok`: no write of
the entry meets an error response in host memory (R405-R407, R420). -/
def execDumpSnapshot (ring : Nat) (busy ok : Bool) (s : State) : Out := Act.out s <|
  let d := s.dumpsAt ring
  let step (x : DumpSt) : DumpSt := { x with seq := x.seq + 1, nextTick := x.nextTick + 250 * x.periodUs }
  .when (ring < 33 && d.active) (
    if busy then .modDumps ring fun x => { step x with missed := min (x.missed + 1) (2 ^ 32 - 1) }
    else
      let e := s.ringEntry ring
      let host := bit d.addr 0
      let pasid := (s.pasidOf d.part d.pasidIdx).getD noPasid
      let at_ := d.addr / 2 * 2 + d.seq % 2 ^ d.size * (64 + e.2.length)
      if host && !ok then .ringEnd ring stDma
      else .spaceWrite d.part host pasid (at_ + 64) e.2 fun e1 => .spaceWrite d.part host pasid at_ e.1 fun e2 =>
        if e1 || e2 then .ringEnd ring stDma
        else .all [
          .modDumps ring fun x => { step x with lastSeq := x.seq, left := x.left - 1 },
          .when (d.left == 1) (.ringEnd ring stOk)])

end Sys2Proof.Machine
end

