-- ==== Sys2Proof/Machine/Recorder.lean ====
section
/-! DEFINITION. The event recorder's commands and events: reading, freeze and thaw, erase, the Leash, triggers (R410-R421; log 38). -/

namespace Sys2Proof.Machine

/-! ### Reading the log (R420) -/

def State.wrPtr (s : State) : Nat := s.fld R.recStat F.recStat_WR_PTR

/-- Log bytes; at or above WR_PTR they read 0xFF. -/
def State.logBytes (s : State) (a n : Nat) : List Byte := (List.range n).map fun i =>
  if a + i < s.wrPtr then BitVec.ofNat 8 ((s.logAt ((a + i) / 8)).toNat / 256 ^ ((a + i) % 8) % 256) else 0xFF

/-- A snapshot record's code. -/
def isSnap (code : Nat) : Bool := 0xF000 ≤ code && code ≤ 0xF00F

/-- Snapshot records from byte `frm` on, in log order; the walk stands at byte x. A snapshot record is 64 B, another as LEN says. -/
def State.snapWalk (s : State) (frm : Nat) : Nat → Nat → List Byte
  | 0, _ => []
  | fuel + 1, x =>
    if x ≥ s.wrPtr then []
    else
      let w := (s.logAt (x / 8)).toNat
      let snap := isSnap (bits w 15 0)
      let n := if snap then 64 else 8 * bits w 21 16
      if n == 0 then []
      else (if snap && x ≥ frm then s.logBytes x 64 else []) ++ s.snapWalk frm fuel (x + n)

/-- rec_read: log bytes below WR_PTR; under version 2 the snapshot records only. -/
def Act.doRecRead (j : JCmd) : Act := .get fun s =>
  let frm := bits (j.a 0) 25 0
  let len := bits (j.a 1) 25 0
  .checks j [(frm % 8 != 0, stBadField, 0)]
    (.replyOut j (if j.version == 2 then (s.snapWalk frm (s.wrPtr / 8 + 1) 0).take len
      else s.logBytes frm (min len (s.wrPtr - frm))) true)

def execRecRead (mb : Nat) (s : State) : Out := Act.out s (.mbRun mb 0x0800 .doRecRead)

/-! ### Freeze, thaw, erase (R418, R421) -/

def State.recBusy (s : State) : Bool := s.flag R.recStat F.recStat_FROZEN || s.flag R.recStat F.recStat_ERASING

/-- rec_freeze. -/
def Act.doRecFreeze (j : JCmd) : Act := .get fun s =>
  .checks j [(s.recBusy, stBadState, 1)] (.all [
    .setF R.recStat F.recStat_FROZEN 1,
    .modRecd fun r => { r with frzStart := s.hours },
    .replyOk j])

def execRecFreeze (mb : Nat) (s : State) : Out := Act.out s (.mbRun mb 0x0801 .doRecFreeze)

/-- The record of class 0 that ends a freeze or an erase, then a time record for the first staged record, then the staged records in
order, each subject to the space check. -/
def Act.recRelease (code : Nat) (payload : List Word) : Act := .get fun s => .all [
  .modRecd fun r => { r with staged := [] },
  .setF R.recStat F.recStat_STAGED 0,
  .trigFire code,
  .recPlace s.hours 0x3FF 0x00 code payload .skip .skip,
  .when (!s.recd.staged.isEmpty) (.modRecd fun r => { r with timeHours := none }),
  .each s.recd.staged fun e => .recPlace e.hours e.part e.src e.code e.payload .skip .skip]

/-- A thaw: its record carries the number staged and FRZ_DROP. -/
def Act.recThaw : Act := .get fun s => .all [
  .setF R.recStat F.recStat_FROZEN 0,
  .recRelease 3 [BitVec.ofNat 64 s.recd.staged.length, BitVec.ofNat 64 (s.fld R.recCnt F.recCnt_FRZ_DROP)]]

/-- rec_thaw. -/
def Act.doRecThaw (j : JCmd) : Act := .get fun s =>
  .checks j [(!(s.flag R.recStat F.recStat_FROZEN), stBadState, 1)] (.all [.recThaw, .replyOk j])

def execRecThaw (mb : Nat) (s : State) : Out := Act.out s (.mbRun mb 0x0802 .doRecThaw)

/-- FREEZE_TIMEOUT: FRZ_TMO expires. -/
def execFreezeTimeout (s : State) : Out := Act.out s <| .when (s.flag R.recStat F.recStat_FROZEN) .recThaw

/-- rec_clear: the erase starts. -/
def Act.doRecClear (j : JCmd) : Act := .get fun s =>
  .checks j [(s.recBusy, stBadState, 1)] (.all [
    .setF R.recStat F.recStat_ERASING 1,
    .modRecd fun r => { r with clearCounts := [BitVec.ofNat 64 (s.fld R.recCnt F.recCnt_DROPPED),
      BitVec.ofNat 64 (s.fld R.recCnt F.recCnt_DROPPED_U), BitVec.ofNat 64 (s.fld R.recCnt2 F.recCnt2_QUOTA_DROP)] },
    .replyOk j])

def execRecClear (mb : Nat) (s : State) : Out := Act.out s (.mbRun mb 0x0803 .doRecClear)

/-- The log is empty again: quotas and drop counts restart, a cleared record begins it, the staged records follow. -/
def Act.recErased : Act := .get fun s => .all [
  .clearLog 0 (logEnd / 8),
  .setF R.recStat F.recStat_WR_PTR 0,
  .setF R.recStat F.recStat_ERASING 0,
  .setF R.recStat F.recStat_ORD_FULL 0,
  .setF R.recStat F.recStat_RES_FULL 0,
  .clearRecUsed 0 256,
  .clearRecDrop 0 256,
  .modRecd fun r => { r with timeHours := none, ordAttn := false, clearCounts := [] },
  .recRelease 4 s.recd.clearCounts]

/-- REC_ERASE_DONE. -/
def execRecEraseDone (s : State) : Out := Act.out s <| .when (s.flag R.recStat F.recStat_ERASING) .recErased

/-! ### The Leash (R415) -/

def Act.leashSet (code rate burst : Nat) : Act :=
  .modLeash code fun l => { l with rate := rate, burst := burst, tokens := min l.tokens burst }

/-- rec_leash; with ALL, every code of the class that the Leash checks. -/
def Act.doRecLeash (j : JCmd) : Act :=
  let code := bits (j.a 0) 15 0
  let rate := bits (j.a 0) 31 24
  let burst := bits (j.a 0) 39 32
  .checks j [(code / 4096 == 0 || recUncond code, stBadField, 0), (burst == 0, stBadField, 4)] (.all [
    if bit (j.a 0) 16 then .each (List.range 2048) fun i => .leashSet (code / 4096 * 4096 + i) rate burst
    else .leashSet code rate burst,
    .replyOk j])

def execRecLeash (mb : Nat) (s : State) : Out := Act.out s (.mbRun mb 0x0804 .doRecLeash)

/-- LEASH_TOKEN: a tick that is a multiple of 250,000,000 / RATE gives the bucket of a code a token. -/
def execLeashToken (code : Nat) (s : State) : Out := Act.out s <|
  .when ((s.leashAt code).rate != 0) (.modLeash code fun l => { l with tokens := min (l.tokens + 1) l.burst })

/-! ### Triggers, status, records (R414, R419, R421) -/

/-- rec_trigger. -/
def Act.doRecTrigger (j : JCmd) : Act :=
  let t := bits (j.a 0) 3 0
  let n := bits (j.a 0) 35 32
  let addrs := (List.range n).map fun i => j.a (1 + i)
  .checks j [(n == 0 || n > 12, stBadField, 4), (addrs.any (· % 4 != 0), stBadField, 8 + 8 * addrs.findIdx (· % 4 != 0))] (.all [
    .modTrigs t fun g => { g with code := bits (j.a 0) 31 16, nval := n, addrs := addrs, due := 0 },
    .replyOk j])

def execRecTrigger (mb : Nat) (s : State) : Out := Act.out s (.mbRun mb 0x0805 .doRecTrigger)

/-- rec_status: 1,048 B. -/
def Act.doRecStatus (j : JCmd) : Act := .get fun s =>
  .replyOut j (wordBytes [s.rd R.recStat, s.rd R.recCnt, s.rd R.recCnt2] ++
    (List.range 256).flatMap fun p => leBytes (min (cdiv (s.recUsedAt p) 4096) 65535) 2 ++ leBytes (min (s.recDropAt p) 65535) 2) false

def execRecStatus (mb : Nat) (s : State) : Out := Act.out s (.mbRun mb 0x0806 .doRecStatus)

/-- RECORD_SUBMIT: a native record reaches the recorder arbiter from a source (R412-R414). -/
def execRecordSubmit (code part src : Nat) (payload : List Word) (s : State) : Out := Act.out s <|
  .when (payload.length ≤ 31 && code < 0xF000 && code / 4096 != 0) (.record src part code payload)

/-- HOURS_UPDATE: HOURS is written to flash every 64 s (R411). -/
def execHoursUpdate (s : State) : Out := Act.out s <| .modFlash fun f => { f with hours := s.hours }

end Sys2Proof.Machine
end

