-- ==== Sys2Proof/Machine/Security.lean ====
section
/-! DEFINITION. The security block: measurement registers, derived keys, certificates, reports, DOE and the debug request (R423-R436;
log 39). -/

namespace Sys2Proof.Machine

/-- A byte string of a stated length: cut, or filled with zeros. -/
def fitBytes (d : List Byte) (n : Nat) : List Byte := (d ++ List.replicate (n - d.length) 0).take n

/-! ### Measurement registers (R423, R424) -/

/-- The 64 bytes of MR_i. -/
def State.mrBytes (s : State) (i : Nat) : List Byte := wordBytes ((List.range 8).map fun j => s.rd (R.secMr i j))

/-- MR0 to MR(n-1) in order. -/
def State.mrsBytes (s : State) (n : Nat) : List Byte := (List.range n).flatMap s.mrBytes

/-- MR_i is extended with a digest (R424). -/
def Act.mrExtend (i : Nat) (d : List Byte) : Act := .get fun s =>
  .each (toWords (shake256 (s.mrBytes i ++ fitBytes d 64) 64)).zipIdx fun (w, j) => .setRegs (R.secMr i j) w

/-! ### Identities and keys (R426, R427) -/

/-- ASCII bytes of a label. -/
def label (t : String) : List Byte := t.toList.map fun c => BitVec.ofNat 8 c.toNat

/-- FUSE of R426: one if the debug-enable fuse is set, as it is in every part of grade E (R2). -/
def fuseByte (s : State) : Byte := if s.fuse.debug then 1 else 0

def deviceSeed : List Byte := shake256 (label "OM7460-DEVID" ++ fitBytes Config.uds 32) 32

/-- The alias seed, from the measurements that stand since the boot ROM ran. -/
def State.aliasSeed (s : State) : List Byte :=
  shake256 (label "OM7460-ALIAS" ++
    shake256 (label "OM7460-CDI" ++ fitBytes Config.uds 32 ++ s.mrsBytes 6 ++ [fuseByte s]) 64) 32

/-- A public key of ML-DSA-65, and a signature. -/
def mldsaPub (seed : List Byte) : List Byte := fitBytes (Config.mldsaPub seed) 1952
def mldsaSign (seed msg : List Byte) : List Byte := fitBytes (Config.mldsaSign seed msg) 3309

/-- The alias certificate of this start (R428). -/
def State.aliasCert (s : State) : List Byte :=
  let pub := mldsaPub s.aliasSeed
  Config.aliasCert pub (shake256 pub 16) (s.mrsBytes 6) s.sys.vers deviceSeed

/-- The chain as att_chain gives it (R432). -/
def State.chain (s : State) : List Byte :=
  [s.aliasCert, Config.deviceCert, Config.caCert].flatMap fun c => leBytes c.length 4 ++ c

/-! ### The report (R430, R431, R434) -/

/-- CLASS of slice n: bit 7 live, bits 2-0 the applied classes. -/
def State.classByte (s : State) (n : Nat) : Byte :=
  if s.sliceLive n then BitVec.ofNat 8 (128 + s.clsOf n % 8) else 0

/-- Bytes of the retirement map. -/
def mapBytes (m : Nat) : List Byte := leBytes m 76

/-- The body of a report. `who`: 0 manager, 1 a slice, 2 DOE, as REQ codes it. -/
def State.reportBody (s : State) (who slice : Nat) (nonce : List Byte) : List Byte :=
  leBytes 1 2 ++ leBytes (who * 2 ^ 14 + slice) 2 ++ leBytes 4397 4 ++ leBytes (s.rd R.gwIdent).toNat 8 ++ leBytes (s.sys.reports + 1) 8 ++
  leBytes s.clk.pcyc 4 ++ leBytes s.hours 4 ++ fitBytes nonce 32 ++ s.mrsBytes 8 ++
  ((List.range 4).flatMap fun i => leBytes (s.sys.vers.getD i 0) 4) ++
  leBytes ((fuseByte s).toNat + (if (s.mrBytes 5).any (· != 0) then 2 else 0)) 8 ++ leBytes (s.fld R.secStat F.secStat_BOOT_REC) 8 ++
  shake256 (Config.repairBytes s.fuse.repair ++ mapBytes s.sys.mapAt) 64 ++ shake256 (mapBytes s.flash.retire) 64 ++
  ((List.range 256).map fun n => if who == 1 && n != slice then 0 else s.classByte n) ++
  shake256 (mldsaPub s.aliasSeed) 64 ++ List.replicate 32 0

/-- A report: its body and the alias key's signature of it. -/
def State.report (s : State) (who slice : Nat) (nonce : List Byte) : List Byte :=
  s.reportBody who slice nonce ++ mldsaSign s.aliasSeed (s.reportBody who slice nonce)

/-- A report is signed: SEQ and REPORTS advance. -/
def Act.reported : Act := .all [.modSys fun y => { y with reports := y.reports + 1 }, .incF R.secCnt F.secCnt_REPORTS]

/-! ### The commands (R432, R433, R429) -/

/-- att_report. -/
def Act.doAttReport (j : JCmd) : Act := .get fun s =>
  .checks j [(j.outLen < 4397, stBadField, 0xFFFF)] (.all [
    .reported,
    .replyOut j (s.report (if j.part < 256 then 1 else 0) (if j.part < 256 then j.part else 0) ((List.range 32).map fun k => BitVec.ofNat 8 (j.byte k))) true])

def execAttReport (mb : Nat) (s : State) : Out := Act.out s (.mbRun mb 0x0900 .doAttReport)

/-- att_chain. -/
def Act.doAttChain (j : JCmd) : Act := .get fun s =>
  .checks j [(j.outLen < s.chain.length, stBadField, 0xFFFF)] (.replyOut j s.chain true)

def execAttChain (mb : Nat) (s : State) : Out := Act.out s (.mbRun mb 0x0901 .doAttChain)

/-- att_extend. -/
def Act.doAttExtend (j : JCmd) : Act := .all [
  .mrExtend (6 + j.a 0 % 2) ((List.range 64).map fun k => BitVec.ofNat 8 (j.byte (8 + k))),
  .replyOk j]

def execAttExtend (mb : Nat) (s : State) : Out := Act.out s (.mbRun mb 0x0902 .doAttExtend)

/-- DOE_REQUEST: what att_report or att_chain would give, with REQ of DOE; any other form gets an empty response and is counted. Before the
boot ROM has made the keys, and with the link down, no request reaches the signing engine. -/
def execDoeRequest (request : List Byte) (s : State) : Out := Act.out s <|
  .when (s.linkOn && s.flag R.secStat F.secStat_KEY_READY) (
    if request.length == 36 && leNat (request.take 4) == 0 then
      .all [.reported, .emit (.doe (s.report 2 0 (request.drop 4)))]
    else if request.length == 4 && leNat request == 1 then .emit (.doe s.chain)
    else .all [.incF R.secCnt F.secCnt_DOE_BAD, .emit (.doe [])])

/-- DBG_REQ_N: asserted after step 4 of R425, which the boot ROM passes in step 2 of R437: nothing opens, and it is counted. Until then
the pin is sampled by the boot ROM. -/
def execDbgReqN (s : State) : Out := Act.out s <|
  .when (s.flag R.secStat F.secStat_KEY_READY) (.incF R.secCnt F.secCnt_DBG_REFUSED)

end Sys2Proof.Machine
end

