-- ==== Sys2Proof/Machine/Fabric.lean ====
section
/-! DEFINITION. The Retriever fabric: regions, engines, the operations, connections, credits (R322-R346, R466; log 40). -/

namespace Sys2Proof.Machine

/-- (s32)(a - b) ≥ 0. -/
def s32ge (a b : Nat) : Bool := (a + 2 ^ 32 - b % 2 ^ 32) % 2 ^ 32 < 2 ^ 31

/-- a - b modulo 2^32. -/
def sub32 (a b : Nat) : Nat := (a + 2 ^ 32 - b % 2 ^ 32) % 2 ^ 32

/-! ### Operations (R328) -/

def opLoad : Nat := 0x01
def opStore : Nat := 0x02
def opFlag : Nat := 0x03
def opLadd : Nat := 0x10
def opFence : Nat := 0x20

/-- An int64 atomic of the table. -/
def isInt64 (op : Nat) : Bool := 0x08 ≤ op && op ≤ 0x0C

/-- Size in bytes of an operation at its target. -/
def opSize (op len : Nat) : Nat := if op == opLoad || op == opStore then len else if op == opLadd then 16 else 8

/-- What the atomic unit does for an operation. -/
def opAtomic (op : Nat) (a b : Word) : AtomicKind :=
  match op with
  | 0x08 => .add64 a
  | 0x09 => .min64 a
  | 0x0A => .max64 a
  | 0x0B => .swap64 a
  | 0x0C => .cas64 a b
  | _ => .ladd128 (b ++ a)

/-- A response comes back besides the acknowledgement: data, an old value, the WRAP of a LADD128. -/
def wantsRsp (op : Nat) (nores : Bool) : Bool := op == opLoad || op == opLadd || (isInt64 op && !nores)

/-- Fields of a ring entry (R327). -/
def entOp (w : List Nat) : Nat := bits (w.getD 0 0) 63 58
def entNores (w : List Nat) : Bool := bit (w.getD 0 0) 57
def entLen (w : List Nat) : Nat := bits (w.getD 0 0) 12 0
def entFva (w : List Nat) : Nat := w.getD 1 0
def entLocal (w : List Nat) : Nat := w.getD 3 0

def fvaNode (a : Nat) : Nat := a / 2 ^ 48
def fvaRegion (a : Nat) : Nat := a / 2 ^ 36 % 4096
def fvaOff (a : Nat) : Nat := a % 2 ^ 36

/-- An entry that R327 refuses. -/
def entBad (w : List Nat) : Bool :=
  let op := entOp w
  if op == 0 || op == opFence then false
  else
    !(op == opLoad || op == opStore || op == opFlag || isInt64 op || op == opLadd) || fvaNode (entFva w) == 0xFFFF ||
    entFva w % (if op == opLadd then 16 else 8) != 0 || entLocal w % (if op == opLadd then 16 else 8) != 0 ||
    ((op == opLoad || op == opStore) &&
      (entLen w < 8 || entLen w > 4096 || entLen w % 8 != 0 || entFva w % 4096 + entLen w > 4096))

/-! ### The target (R324, R325, R328) -/

/-- The right of an operation stands in a descriptor. -/
def State.rgnRight (s : State) (r op : Nat) : Bool :=
  if op == opLoad then s.flag (R.fabRgn0 r) F.fabRgn0_R
  else if op == opStore || op == opFlag then s.flag (R.fabRgn0 r) F.fabRgn0_W
  else (isInt64 op || op == opLadd) && s.flag (R.fabRgn0 r) F.fabRgn0_A

/-- A request passes the region check of R325. -/
def State.rgnOk (s : State) (op len fva key : Nat) : Bool :=
  let r := fvaRegion fva
  s.flag (R.fabRgn0 r) F.fabRgn0_V && s.fld (R.fabRgn0 r) F.fabRgn0_KEY == key &&
  fvaOff fva + opSize op len ≤ s.fld (R.fabRgn2 r) F.fabRgn2_LEN * 4096 && s.rgnRight r op

/-- What a request gives back: data, old value, WRAP, VIOL, an error. -/
structure FabRsp where
  data : List Byte
  old : Nat
  wrap : Bool
  viol : Bool
  err : Bool
deriving DecidableEq, Repr

/-- A request is performed at the target's arbiters; a violation reads zeros, has no effect and is counted. -/
def Act.fabPerform (op len fva key : Nat) (a b : Word) (payload : List Byte) (k : FabRsp → Act) : Act := .get fun s =>
  let r := fvaRegion fva
  let dpa := s.fld (R.fabRgn1 r) F.fabRgn1_DPA_BASE + fvaOff fva
  let n := opSize op len
  if !(s.rgnOk op len fva key) then .all [
    .incF (R.fabRgn3 r) F.fabRgn3_VIOL,
    .incF R.fabCnt F.fabCnt_VIOL_RX,
    k ⟨if op == opLoad then List.replicate n 0 else [], 0, false, true, false⟩]
  else if op == opLoad then .readLines (lineChunks dpa n) 0x3FF 7 fun d err => k ⟨d, 0, false, false, err⟩
  else if op == opStore || op == opFlag then
    .writeLines (lineChunks dpa n) (fitBytes payload n) 0x3FF 7 fun err => k ⟨[], 0, false, false, err⟩
  else .atomicAt dpa (opAtomic op a b) 0x3FF 7 fun old wrap err => .all [
    .when wrap (.setF (R.fabRgn0 r) F.fabRgn0_WRAP 1),
    k ⟨[], old, wrap, false, err⟩]

/-! ### Packets (R332, R333, R335, R336) -/

/-- RSP_CUM: every response up to this PSN is here. -/
def ConnSt.rspCum (c : ConnSt) : Nat :=
  match c.out.filter (·.rspDue) with
  | q :: _ => sub32 q.psn 1
  | [] => sub32 c.nextPsn 1

/-- A request packet of the transmit pool. -/
def Act.fabSendReq (node : Nat) (q : OutReq) : Act := .get fun s =>
  .fabFrame node q.psn q.attempt [s.fabWord0 1 false false node, s.fld R.fabStat F.fabStat_INCARN * 2 ^ 32 + q.psn,
    (s.connsAt node).rspCum * 2 ^ 32 + q.key, q.op * 2 ^ 58 + (if q.nores then 2 ^ 57 else 0) + q.len * 2 ^ 32, q.fva, q.opnd0, q.opnd1] q.payload

/-- A NOP, with SYN to open the connection; it takes no PSN and carries that of the last request. -/
def Act.fabSendNop (node : Nat) (syn : Bool) : Act := .get fun s =>
  let c := s.connsAt node
  .fabFrame node (sub32 c.nextPsn 1) 0 [s.fabWord0 1 syn true node, s.fld R.fabStat F.fabStat_INCARN * 2 ^ 32 + sub32 c.nextPsn 1,
    c.rspCum * 2 ^ 32, 0, 0, 0, 0] []

/-- An acknowledgement: the connection as it stands, and the response of one request. -/
def Act.fabAck (node : Nat) (syn valid : Bool) (psn status : Nat) (wrap viol : Bool) (payload : List Byte) : Act := .get fun s =>
  let c := s.connsAt node
  let one (b : Bool) (k : Nat) : Nat := if b then 2 ^ k else 0
  .all [
    .when c.rxOpen (.modConns node fun c => { c with told := c.grant }),
    .fabFrame node c.rxCum 0 [s.fabWord0 2 syn false node, s.fld R.fabStat F.fabStat_INCARN * 2 ^ 32 + c.rxCum, c.rxMap % 2 ^ 64,
      psn * 2 ^ 32 + status * 2 ^ 24 + one valid 23 + one wrap 22 + one viol 21 + payload.length, c.grant * 2 ^ 32] payload]

/-- NO_CONN (R333). -/
def Act.fabNoConn (node : Nat) (syn : Bool) : Act := .all [
  .incF R.fabCnt2 F.fabCnt2_NO_CONN,
  .fabAck node syn true 0 2 false false []]

/-- A packet of a connection that is not in the table: discarded, counted, answered with NO_CONN (R333). -/
def Act.fabStale (node : Nat) : Act := .all [.incF R.fabCnt2 F.fabCnt2_STALE, .fabNoConn node false]

/-! ### Pools and credits (R336, R337, R466) -/

/-- 256 B units of a request with a payload of n bytes: header of 56 B and ICRC of 4 B. -/
def reqUnits (n : Nat) : Nat := cdiv (60 + n) 256

/-- An entry of the connection table is in use. -/
def ConnSt.used_ (c : ConnSt) : Bool := c.synSent || c.txOpen || c.rxOpen

/-- Units of the receive pool that a connection occupies, and those it holds: occupied, or granted and not yet received. -/
def ConnSt.occ (c : ConnSt) : Nat := (c.held.map fun r => reqUnits r.payload.length).sum + c.olds.length
def ConnSt.holds (c : ConnSt) : Nat := sub32 c.grant c.rcvd + c.occ

/-- Units neither reserved nor granted (R466). -/
def State.fabFree (s : State) : Nat :=
  57344 - ((s.conns.filter (·.2.rxOpen)).map fun e => max 1 e.2.holds - 1).sum

/-- Units of the transmit pool: requests kept, and the response space of those that reserve some. -/
def txUnits (q : OutReq) : Nat := q.units + (if wantsRsp q.op q.nores && q.op != opLadd then cdiv (if q.op == opLoad then q.len else 8) 256 else 0)

def State.txUsed (s : State) : Nat := (s.conns.map fun e => (e.2.out.map txUnits).sum).sum

/-- CONNS, RX_USED and TX_USED (R346). -/
def Act.fabStat : Act := .get fun s => .all [
  .setF R.fabStat F.fabStat_CONNS (s.conns.filter fun e => e.2.txOpen || e.2.rxOpen).length,
  .setF R.fabStat F.fabStat_RX_USED (cdiv (s.conns.map fun e => e.2.occ).sum 256),
  .setF R.fabStat F.fabStat_TX_USED (cdiv s.txUsed 256)]

/-- Grants of n units in ascending connection index, each connection up to MAX_CREDIT outstanding. -/
def fabDeal (mx : Nat) : Nat → List (Nat × ConnSt) → List (Nat × Nat)
  | _, [] => []
  | n, (k, c) :: r =>
    let g := if c.rxOpen then min n (mx - sub32 c.grant c.rcvd) else 0
    (k, g) :: fabDeal mx (n - g) r

def Act.fabGrant (node n : Nat) : Act := .modConns node fun c => { c with grant := (c.grant + n) % 2 ^ 32 }

/-- n units leave the receive buffer: a connection that holds none gets its reserved unit back, the others go round (R336, R466). -/
def Act.fabReturn (node n : Nat) : Act := .get fun s =>
  let own := if (s.connsAt node).rxOpen && (s.connsAt node).holds == 0 then min n 1 else 0
  .all [
    .fabGrant node own,
    .get fun t => .each (fabDeal (t.fld R.fabCred F.fabCred_MAX_CREDIT) (n - own) t.conns) fun (k, g) => .when (g != 0) (.fabGrant k g)]

/-! ### Engines (R326, R329, R331, R340) -/

/-- An entry is sent and not DONE. -/
def EngEnt.out (t : EngEnt) : Bool := t.sent && !t.done && entOp t.words != opFence

def Act.engStat (e : Nat) : Act := .get fun s =>
  let ents := (s.engsAt e).ents
  let n := (ents.filter EngEnt.out).length
  .all [
    .setF (R.fabEngIdx e) F.fabEngIdx_OUTST n,
    .setF (R.fabEngStat e) F.fabEngStat_BUSY (if n == 0 then 0 else 1),
    .setF (R.fabEngStat e) F.fabEngStat_FENCE_WAIT (if ents.any fun t => t.sent && !t.done && entOp t.words == opFence then 1 else 0)]

/-- Partition code of an engine's owner. -/
def State.engOwner (s : State) (e : Nat) : Nat := s.fld (R.fabEngStat e) F.fabEngStat_OWNER

/-- Entries are retired in ring order, each with its signal. -/
def Act.engRetire (e : Nat) : Act := .get fun s =>
  let n := ((s.engsAt e).ents.takeWhile (·.done)).length
  .all [
    .modEngs e fun g => { g with ents := g.ents.drop n },
    .each (List.range n) fun _ => .signal (s.engOwner e) (s.fld (R.fabEngIdx e) F.fabEngIdx_RET_IDX) .fabric [e] 0 0,
    .engStat e]

/-- An entry is DONE: word 7, then its signal; the operations that R340 names are choices, whatever the slice's class (R329, R351, R352). -/
def Act.entFinish (e : Nat) (t : EngEnt) (status : Nat) (wrap : Bool) : Act := .get fun s =>
  let p := s.engOwner e
  let w := t.words
  let op := entOp w
  .writeMem p 7 (t.slot + 56) (leBytes (2 ^ 63 + status * 2 ^ 48 + (if wrap then 2 ^ 47 else 0)) 8) fun err =>
    if err then .engFault p e 0x02 4 (fvaNode (entFva w))
    else .all [
      .when (bit (w.getD 0 0) 56) (.signal p (bits (w.getD 0 0) 55 44) .fabric [e] 0 0),
      .when (op == 0x0B || op == 0x0C || (isInt64 op && !(entNores w))) (.choice p),
      .modEngs e fun g => { g with ents := g.ents.map fun u => if u.slot == t.slot && !u.done then { u with sent := true, done := true } else u },
      .engRetire e]

/-- The cumulative acknowledgement covers a PSN; a closed connection had nothing outstanding. -/
def State.fabCovered (s : State) (x : Nat × Nat) : Bool :=
  !(s.connsAt x.1).txOpen || s32ge (s.connsAt x.1).cumAck x.2

/-- FENCEs that are DONE now (R331): every earlier entry of the engine is retired, every recorded PSN covered. -/
def Act.fences : Act := .each (List.range 32) fun e => .get fun s =>
  match (s.engsAt e).ents with
  | t :: _ => .when (t.sent && !t.done && entOp t.words == opFence && t.fence.all s.fabCovered) (.entFinish e t 0 false)
  | [] => .skip

/-- The entry that an engine would send next, if no FENCE holds the ring and its slice is not being reset. -/
def State.engNext (s : State) (e : Nat) : Option EngEnt :=
  let g := s.engsAt e
  if e < 32 && s.sliceLive (s.engOwner e) && s.sliceState (s.engOwner e) != 4 &&
      !(g.ents.any fun t => t.sent && !t.done && entOp t.words == opFence) then g.ents.find? (!·.sent)
  else none

/-- ENGINE_ENTRY_TAKE: the entry at CONS, once the producer word has passed it and the entry before has been sent (R326, R327, R341). -/
def execEngineEntryTake (e : Nat) (s : State) : Out := Act.out s <|
  let p := s.engOwner e
  let g := s.engsAt e
  let cons := s.fld (R.fabEngIdx e) F.fabEngIdx_CONS
  .when (e < 32 && s.sliceLive p && s.sliceState p != 4 && g.ents.all (·.sent)) (
    let word := s.syncDpa p (s.fld (R.fabEngRing e) F.fabEngRing_PROD_IDX)
    .readLines (lineChunks word 4) p 7 fun d err =>
      if err then .engFault p e 0x02 4 0xFFFF
      else .when (leNat d != cons && s32ge (leNat d) cons) (
        let at_ := s.fld (R.fabEngRing e) F.fabEngRing_RING_SA / 64 * 64 + 64 * (cons % 2 ^ (s.fld (R.fabEngRing e) F.fabEngRing_SIZE + 6))
        .readMem p 7 at_ 64 fun b err =>
          if err then .engFault p e 0x02 4 0xFFFF
          else
            let w := (toWords b).map (·.toNat)
            if entBad w then .engFault p e 0x03 1 (fvaNode (entFva w))
            else .all [
              .setF (R.fabEngIdx e) F.fabEngIdx_CONS ((cons + 1) % 2 ^ 32),
              .modEngs e fun g => { g with ents := g.ents ++ [⟨at_, w, false, false, [], 0, 0⟩] }]))

/-- NOP: the entry is DONE when reached (R328). -/
def execNop (e : Nat) (s : State) : Out := Act.out s <|
  match s.engNext e with
  | some t => .when (entOp t.words == 0) (.entFinish e t 0 false)
  | none => .skip

/-- FENCE: reached; it records the highest PSNs sent, and is DONE at once when nothing earlier is in flight (R331). -/
def execFence (e : Nat) (s : State) : Out := Act.out s <|
  match s.engNext e with
  | some t => .when (entOp t.words == opFence) (
      if (s.engsAt e).ents.any EngEnt.out then .all [
        .modEngs e fun g => { g with ents := g.ents.map fun u => if u.slot == t.slot && !u.done then { u with sent := true, fence := g.last } else u },
        .engStat e]
      else .entFinish e t 0 false)
  | none => .skip

/-- An entry for the module's own node goes through the receive checks and is acknowledged internally (R323). -/
def Act.fabOwn (e : Nat) (t : EngEnt) (payload : List Byte) : Act := .get fun s =>
  let p := s.engOwner e
  let w := t.words
  let op := entOp w
  .fabPerform op (entLen w) (entFva w) (w.getD 2 0 / 2 ^ 32) (BitVec.ofNat 64 (w.getD 4 0)) (BitVec.ofNat 64 (w.getD 5 0)) payload fun r =>
    let fin := Act.all [.entFinish e t 0 r.wrap, .fences]
    .all [
      .when r.viol (.violation p violKey),
      if r.err then .all [.entFinish e t 1 false, .engFault p e 0x02 3 s.fabNode]
      else if op == opLoad then .writeMem p 7 (entLocal w) r.data fun err => if err then .engFault p e 0x02 4 s.fabNode else fin
      else if isInt64 op && !(entNores w) then .writeMem p 7 (t.slot + 48) (leBytes r.old 8) fun err => if err then .engFault p e 0x02 4 s.fabNode else fin
      else fin]

/-- The packet of an entry is sent on an open connection: its PSN, its units, its place in the transmit pool (R334-R337). -/
def Act.fabLaunch (e node : Nat) (t : EngEnt) (payload : List Byte) : Act := .get fun s =>
  let c := s.connsAt node
  let w := t.words
  let op := entOp w
  let q : OutReq := {
    psn := c.nextPsn
    eng := e
    slot := t.slot
    op := op
    nores := entNores w
    fva := entFva w
    key := w.getD 2 0 / 2 ^ 32
    len := if op == opLoad || op == opStore then entLen w else payload.length
    opnd0 := w.getD 4 0
    opnd1 := w.getD 5 0
    payload := payload
    units := reqUnits payload.length
    attempt := 0
    acked := false
    rspDue := wantsRsp op (entNores w)
    wrap := false
    dead := false }
  .all [
    .modConns node fun c => { c with nextPsn := (c.nextPsn + 1) % 2 ^ 32, used := (c.used + q.units) % 2 ^ 32, out := c.out ++ [q] },
    .modEngs e fun g => { g with
      ents := g.ents.map fun u => if u.slot == t.slot && !u.done then { u with sent := true, node := node, psn := q.psn } else u
      last := (g.last.filter (·.1 != node)) ++ [(node, q.psn)] },
    .setF (R.fabEngStat e) F.fabEngStat_CREDIT_WAIT 0,
    .engStat e,
    .pmc none 0xA 0 1 (s.engOwner e) 7,
    .pmc none 0xA 3 payload.length (s.engOwner e) 7,
    .fabSendReq node q,
    .fabStat]

/-- An engine comes to send its next entry, whose operation must be `op`: it waits for the connection (opening it with a SYN), for the
PSN window, for the 512 entries, for credit and for pool space (R326, R333, R334, R336, R337). -/
def Act.fabSend (e op : Nat) : Act := .get fun s =>
  match s.engNext e with
  | none => .skip
  | some t =>
    let p := s.engOwner e
    let w := t.words
    let node := fvaNode (entFva w)
    let c := s.connsAt node
    let n := if op == opStore then entLen w else if op == opFlag then 8 else 0
    let units := reqUnits n
    let space := units + (if op == opLoad then cdiv (entLen w) 256 else if isInt64 op && !(entNores w) then 1 else 0)
    let go (k : List Byte → Act) : Act :=
      if n == 0 then k [] else .readMem p 7 (entLocal w) n fun d err => if err then .engFault p e 0x02 4 node else k d
    .when (entOp w == op && s.fabOn) (
      if node == s.fabNode then go (.fabOwn e t)
      else if !c.txOpen then
        .when (!c.synSent && (c.used_ || (s.conns.filter (·.2.used_)).length < 8192)) (.all [
          .modConns node fun c => { c with synSent := true },
          .fabSendNop node true])
      else if s.fld (R.fabEngIdx e) F.fabEngIdx_OUTST ≥ 512 || sub32 c.nextPsn c.cumAck > 2048 then .skip
      else if !(s32ge c.lim (c.used + units)) || s.txUsed + space > 65536 then .setF (R.fabEngStat e) F.fabEngStat_CREDIT_WAIT 1
      else go (.fabLaunch e node t))

/-- LOAD. -/
def execLoad (e : Nat) (s : State) : Out := Act.out s (.fabSend e 0x01)
/-- STORE. -/
def execStore (e : Nat) (s : State) : Out := Act.out s (.fabSend e 0x02)
/-- FLAG_STORE. -/
def execFlagStore (e : Nat) (s : State) : Out := Act.out s (.fabSend e 0x03)
/-- ADD64. -/
def execAdd64 (e : Nat) (s : State) : Out := Act.out s (.fabSend e 0x08)
/-- MIN64. -/
def execMin64 (e : Nat) (s : State) : Out := Act.out s (.fabSend e 0x09)
/-- MAX64. -/
def execMax64 (e : Nat) (s : State) : Out := Act.out s (.fabSend e 0x0A)
/-- SWAP64. -/
def execSwap64 (e : Nat) (s : State) : Out := Act.out s (.fabSend e 0x0B)
/-- CAS64. -/
def execCas64 (e : Nat) (s : State) : Out := Act.out s (.fabSend e 0x0C)
/-- LADD128. -/
def execLadd128 (e : Nat) (s : State) : Out := Act.out s (.fabSend e 0x10)

/-! ### The receiving side (R325, R330, R333, R334) -/

/-- A PSN is performed: the cumulative PSN moves past every PSN performed. -/
def rxMark : Nat → Nat → Nat → Nat × Nat
  | 0, cum, map => (cum, map)
  | n + 1, cum, map => if bit map 0 then rxMark n ((cum + 1) % 2 ^ 32) (map / 2) else (cum, map)

def Act.fabMark (node psn : Nat) : Act := .modConns node fun c =>
  let r := rxMark 2049 c.rxCum (setBit c.rxMap (sub32 psn c.rxCum - 1))
  { c with rxCum := r.1, rxMap := r.2 }

/-- Old values that RSP_CUM covers are dropped, and their units leave the buffer (R334, R336). -/
def Act.fabRspCum (node cum : Nat) : Act := .get fun s =>
  let n := ((s.connsAt node).olds.filter fun o => s32ge cum o.1).length
  .when (n != 0) (.all [
    .modConns node fun c => { c with olds := c.olds.filter fun o => !(s32ge cum o.1) },
    .fabReturn node n])

/-- A request is performed and acknowledged; an atomic that returns a value keeps its unit with its old value. -/
def Act.fabServe (r : FabReq) : Act :=
  .fabPerform r.op r.len r.fva r.key r.opnd0 r.opnd1 r.payload fun x =>
    let keep := (isInt64 r.op && !r.nores) || r.op == opLadd
    let data := if r.op == opLoad then x.data else if isInt64 r.op && !r.nores then leBytes x.old 8 else []
    .all [
      .fabMark r.srcNode r.psn,
      if keep && !x.err then .modConns r.srcNode fun c => { c with olds := c.olds ++ [(r.psn, x.old, x.wrap)] }
      else .fabReturn r.srcNode (reqUnits r.payload.length),
      .fabAck r.srcNode false true r.psn (if x.err then 1 else 0) x.wrap x.viol (if x.err then [] else data)]

/-- A duplicate: the acknowledgement again, the old value of an atomic not yet covered, the data of a LOAD read again (R334). -/
def Act.fabDup (r : FabReq) : Act := .get fun s => .all [
  .incF R.fabCnt F.fabCnt_DUP,
  if r.op == opLoad then
    .fabPerform r.op r.len r.fva r.key r.opnd0 r.opnd1 [] fun x =>
      .fabAck r.srcNode false true r.psn (if x.err then 1 else 0) false x.viol (if x.err then [] else x.data)
  else match (s.connsAt r.srcNode).olds.find? (·.1 == r.psn) with
    | some o => .fabAck r.srcNode false true r.psn 0 o.2.2 false (if isInt64 r.op then leBytes o.2.1 8 else [])
    | none => .fabAck r.srcNode false false 0 0 false false []]

/-- A packet reaches the module: EN set, the checks of R332 good; a bad one is counted. -/
def Act.fabRx (crcOk : Bool) (k : Act) : Act := .get fun s =>
  .when s.fabOn (if crcOk then .all [k, .fabStat] else .incF R.fabCnt F.fabCnt_CRC_DROP)

/-- FABRIC_REQUEST_RX: a request that does not open a connection. -/
def execFabricRequestRx (r : FabReq) (s : State) : Out := Act.out s <|
  .when (r.dstNode == s.fabNode && !r.syn) (.fabRx r.crcOk (
    let c := s.connsAt r.srcNode
    let d := sub32 r.psn c.rxCum
    if !c.rxOpen || c.peerInc != r.incarn then .fabStale r.srcNode
    else .all [
      .fabRspCum r.srcNode r.rspCum,
      if r.nop then .skip
      else if d == 0 || d ≥ 2 ^ 31 || bit c.rxMap (d - 1) then .fabDup r
      else if d > 2048 then .incF R.fabCnt2 F.fabCnt2_STALE
      else if c.held.any (·.psn == r.psn) then .skip
      else .all [
        .modConns r.srcNode fun c => { c with rcvd := (c.rcvd + reqUnits r.payload.length) % 2 ^ 32 },
        if r.op == opFlag && d != 1 then .modConns r.srcNode fun c => { c with held := c.held ++ [r] }
        else .fabServe r]]))

/-- FLAG_STORE_PERFORM: a waiting FLAG_STORE, once every lower PSN of its connection is performed (R330). -/
def execFlagStorePerform (node psn : Nat) (s : State) : Out := Act.out s <|
  match (s.connsAt node).held.find? (·.psn == psn) with
  | some r => .when (s.fabOn && sub32 psn (s.connsAt node).rxCum == 1) (.all [
      .modConns node fun c => { c with held := c.held.filter (·.psn != psn) },
      .fabServe r,
      .fabStat])
  | none => .skip

/-- A request ends with TIMEOUT: counted; its slice faults unless it was reset since (R341-R343). -/
def Act.fabTimeoutReq (node : Nat) (q : OutReq) : Act := .get fun s => .all [
  .incF R.fabCnt2 F.fabCnt2_TIMEOUTS,
  .modConns node fun c => { c with out := c.out.filter (·.psn != q.psn) },
  .when (!q.dead) (.all [
    match (s.engsAt q.eng).ents.find? fun t => t.slot == q.slot && !t.done with
    | some t => .entFinish q.eng t 2 false
    | none => .skip,
    .engFault (s.engOwner q.eng) q.eng 0x03 2 node])]

/-- Every request that is outstanding to a node ends with TIMEOUT; a reset on the way marks the later ones. -/
def Act.fabTimeoutAll (node : Nat) : Act := .get fun s => .each (s.connsAt node).out fun q => .get fun t =>
  match (t.connsAt node).out.find? (·.psn == q.psn) with
  | some u => .fabTimeoutReq node u
  | none => .skip

/-- A connection's entry is free again: its units return, and no FENCE waits for it. -/
def Act.fabClose (node : Nat) : Act := .get fun s =>
  let c := s.connsAt node
  .all [
    .setConns node (dfltConns 0),
    .when c.rxOpen (.fabReturn node (max 1 c.holds - 1)),
    .each (List.range 32) fun e => .modEngs e fun g => { g with
      last := g.last.filter (·.1 != node)
      ents := g.ents.map fun t => { t with fence := t.fence.filter (·.1 != node) } }]

/-- SYN: opens or replaces the peer's entry and grants its credit; a full table answers NO_CONN (R333, R466). A SYN on which requests have
already come opens the direction afresh. -/
def execSyn (r : FabReq) (s : State) : Out := Act.out s <|
  .when (r.syn && r.dstNode == s.fabNode) (.fabRx r.crcOk (
    let c := s.connsAt r.srcNode
    let new := c.peerInc != r.incarn && (c.rxOpen || c.txOpen)
    if !c.used_ && (s.conns.filter (·.2.used_)).length ≥ 8192 then .fabNoConn r.srcNode true
    else .all [
      .when new (.all [.fabTimeoutAll r.srcNode, .fabClose r.srcNode]),
      .get fun t => .when ((t.connsAt r.srcNode).rcvd != 0) (.modConns r.srcNode fun c => { c with
        rxOpen := false
        held := []
        olds := [] }),
      .get fun t => .when (!(t.connsAt r.srcNode).rxOpen) (.modConns r.srcNode fun c => { c with
        rxOpen := true
        peerInc := r.incarn
        rxCum := r.psn
        rxMap := 0
        grant := 1 + min (t.fld R.fabCred F.fabCred_INIT_CREDIT - 1) t.fabFree
        rcvd := 0 }),
      .fabAck r.srcNode true false 0 0 false false []]))

/-! ### The sending side (R331, R333, R335, R336, R341-R343) -/

/-- The response of a request arrives. -/
def Act.fabRespond (node : Nat) (a : FabAck) : Act := .get fun s =>
  match (s.connsAt node).out.find? (·.psn == a.rspPsn) with
  | none => .skip
  | some q =>
    let p := s.engOwner q.eng
    let here := Act.modConns node fun c => { c with out := c.out.map fun x => if x.psn == q.psn then { x with rspDue := false, wrap := a.wrap } else x }
    let ent := (s.engsAt q.eng).ents.find? fun t => t.slot == q.slot && !t.done
    if q.dead then here
    else .all [
      .when a.viol (.violation p violKey),
      if a.rspStatus == 1 then .all [
        .modConns node fun c => { c with out := c.out.filter (·.psn != q.psn) },
        match ent with
        | some t => .entFinish q.eng t 1 false
        | none => .skip,
        .engFault p q.eng 0x02 3 node]
      else if !q.rspDue then .skip
      else .all [
        here,
        match ent with
        | some t =>
          if q.op == opLoad then .writeMem p 7 (entLocal t.words) (fitBytes a.payload q.len) fun err => .when err (.engFault p q.eng 0x02 4 node)
          else .when (isInt64 q.op) (.writeMem p 7 (t.slot + 48) (fitBytes a.payload 8) fun err => .when err (.engFault p q.eng 0x02 4 node))
        | none => .skip]]

/-- Requests that are acknowledged and answered leave the transmit pool; their entries are DONE (R329, R335). -/
def Act.fabDone (node : Nat) : Act := .get fun s => .each (s.connsAt node).out fun q => .get fun t =>
  match (t.connsAt node).out.find? (·.psn == q.psn) with
  | some u => .when (u.acked && !u.rspDue) (.all [
      .modConns node fun c => { c with out := c.out.filter (·.psn != u.psn) },
      .when (!u.dead) (match (t.engsAt u.eng).ents.find? fun x => x.slot == u.slot && !x.done with
        | some x => .entFinish u.eng x 0 u.wrap
        | none => .skip)])
  | none => .skip

/-- CREDIT_LIM is cumulative: only a later value counts (R336). -/
def Act.fabLim (node lim : Nat) : Act := .modConns node fun c => { c with lim := if s32ge lim c.lim then lim % 2 ^ 32 else c.lim }

/-- ACKNOWLEDGEMENT: opens the connection that a SYN asked for, or covers requests, brings a response and credit. -/
def execAcknowledgement (a : FabAck) (s : State) : Out := Act.out s <|
  .fabRx a.crcOk (
    let c := s.connsAt a.srcNode
    if a.rspStatus == 2 then .skip
    else if a.syn && c.synSent then .modConns a.srcNode fun c => { c with
      synSent := false
      txOpen := true
      peerInc := a.incarn
      lim := a.creditLim % 2 ^ 32
      used := 0
      cumAck := a.cumPsn % 2 ^ 32 }
    else if !c.txOpen || c.peerInc != a.incarn then .fabStale a.srcNode
    else .all [
      .fabLim a.srcNode a.creditLim,
      .modConns a.srcNode fun c => { c with
        cumAck := if s32ge a.cumPsn c.cumAck then a.cumPsn % 2 ^ 32 else c.cumAck
        out := c.out.map fun q =>
          let d := sub32 q.psn a.cumPsn
          if s32ge a.cumPsn q.psn || (1 ≤ d && d ≤ 64 && bit a.sack (d - 1)) then { q with acked := true } else q },
      .when a.rspValid (.fabRespond a.srcNode a),
      .fabDone a.srcNode,
      .fences])

/-- CREDIT. -/
def execCredit (node incarn lim : Nat) (s : State) : Out := Act.out s <|
  .fabRx true (
    let c := s.connsAt node
    if !c.txOpen || c.peerInc != incarn then .fabStale node else .fabLim node lim)

/-- RETRANSMIT: a request of the transmit pool again, or the SYN of a connection that is not open yet (R333, R335). -/
def execRetransmit (node psn : Nat) (s : State) : Out := Act.out s <|
  .when s.fabOn (
    let c := s.connsAt node
    if c.synSent then .fabSendNop node true
    else match c.out.find? (·.psn == psn) with
      | some q => .all [
          .incF R.fabCnt F.fabCnt_RETX,
          .pmc none 0xA 1 1 (s.engOwner q.eng) 7,
          .modConns node fun c => { c with out := c.out.map fun x => if x.psn == psn then { x with attempt := x.attempt + 1 } else x },
          .fabSendReq node { q with attempt := q.attempt + 1 }]
      | none => .skip)

/-- NOP_KEEPALIVE: RSP_CUM with nothing else to carry it (R335). -/
def execNopKeepalive (node : Nat) (s : State) : Out := Act.out s <|
  .when (s.fabOn && (s.connsAt node).txOpen) (.fabSendNop node false)

/-- FABRIC_TIMEOUT: no acknowledgement or no response within TMO of the first send (R341, R342). -/
def execFabricTimeout (node psn : Nat) (s : State) : Out := Act.out s <|
  match (s.connsAt node).out.find? (·.psn == psn) with
  | some q => .all [.fabTimeoutReq node q, .fences, .fabStat]
  | none => .skip

/-- CONNECTION_IDLE_CLOSE: nothing outstanding for IDLE (R333). -/
def execConnectionIdleClose (node : Nat) (s : State) : Out := Act.out s <|
  let c := s.connsAt node
  .when (c.used_ && !c.synSent && c.out.isEmpty && c.held.isEmpty) (.all [.fabClose node, .fences, .fabStat])

/-- CREDIT_RETURN: credit that no acknowledgement has carried yet goes out in a credit packet (R336). -/
def execCreditReturn (node : Nat) (s : State) : Out := Act.out s <|
  let c := s.connsAt node
  .when (s.fabOn && c.rxOpen && c.told != c.grant) (.all [
    .modConns node fun c => { c with told := c.grant },
    .fabFrame node c.rxCum 0 [s.fabWord0 3 false false node, s.fld R.fabStat F.fabStat_INCARN * 2 ^ 32 + c.grant] []])

/-! ### Region descriptors (R324) -/

/-- The range of a descriptor lies wholly within one kind of unit of its owner, a live slice. -/
def State.rgnValid (s : State) (r owner : Nat) : Bool :=
  let b := s.fld (R.fabRgn1 r) F.fabRgn1_DPA_BASE
  let n := s.fld (R.fabRgn2 r) F.fabRgn2_LEN * 4096
  let x := s.partsAt owner
  s.sliceLive owner && n != 0 &&
  (((bitList x.ken 128).map fun u => overlap b n (u * 2 ^ 24) (2 ^ 24)).sum == n ||
   ((bitList x.lp 1024).map fun u => overlap b n (lpUnitDpa u) (2 ^ 30)).sum == n)

/-- A manager's write to a word of a descriptor. -/
def Act.rgnWrite (r word : Nat) (v : Word) : Act := .get fun s =>
  let g (f : Field) : Nat := f.get v
  let valid := s.flag (R.fabRgn0 r) F.fabRgn0_V
  match word with
  | 0 =>
    let ok := s.rgnValid r (g F.fabRgn0_OWNER)
    .all [
      .setF (R.fabRgn0 r) F.fabRgn0_R (g F.fabRgn0_R),
      .setF (R.fabRgn0 r) F.fabRgn0_W (g F.fabRgn0_W),
      .setF (R.fabRgn0 r) F.fabRgn0_A (g F.fabRgn0_A),
      .when (g F.fabRgn0_WRAP == 1) (.setF (R.fabRgn0 r) F.fabRgn0_WRAP 0),
      .setF (R.fabRgn0 r) F.fabRgn0_OWNER (g F.fabRgn0_OWNER),
      .setF (R.fabRgn0 r) F.fabRgn0_KEY (g F.fabRgn0_KEY),
      .setF (R.fabRgn0 r) F.fabRgn0_V (if g F.fabRgn0_V == 1 && ok then 1 else 0),
      .when (g F.fabRgn0_V == 1 && !ok) (.incF R.fabCnt2 F.fabCnt2_RGN_REFUSED)]
  | 1 => .when (!valid && g F.fabRgn1_DPA_BASE % 4096 == 0) (.setF (R.fabRgn1 r) F.fabRgn1_DPA_BASE (g F.fabRgn1_DPA_BASE))
  | 2 => .when (!valid && g F.fabRgn2_LEN != 0) (.setF (R.fabRgn2 r) F.fabRgn2_LEN (g F.fabRgn2_LEN))
  | _ => .skip

/-- REGION_DESCRIPTOR_WRITE: only the manager context writes the table. -/
def execRegionDescriptorWrite (who region word : Nat) (val : Word) (s : State) : Out := Act.out s <|
  if who == 256 then .when (region < 4096) (.rgnWrite region word val) else .violation who violRegister

end Sys2Proof.Machine
end

