-- ==== Sys2Proof/Machine/Barrier.lean ====
section
/-! DEFINITION. Launch barriers and the Hound's packets and configuration (R358-R362, R371-R375; log 41). -/

namespace Sys2Proof.Machine

/-! ### Launch barriers (R358-R362) -/

/-- The SN clock as barrier packets carry it: 0.25 ns, modulo 2^64 (R359). -/
def State.snQ (s : State) : Nat := ((s.snNow / 2 ^ 38) % (2 ^ 64 : Nat)).toNat

/-- a - b of two such times, signed (R248). -/
def dif64 (a b : Nat) : Int := (BitVec.ofNat 64 (a + 2 ^ 64 - b % 2 ^ 64)).toInt

/-- A barrier packet (R359). -/
def Act.barPacket (node barId kind t1 t2 t3 tRel : Nat) : Act := .get fun s =>
  .fabFrame node 0 0 [s.fabWord0 4 false false node, barId % 2 ^ 32 * 2 ^ 32 + kind * 2 ^ 24, t1, t2, t3, tRel] []

/-- A member's ARRIVE, T1 written at emission. -/
def Act.barArrive (p : Nat) : Act := .get fun s => .barPacket (s.barsAt p).masterNode (s.barsAt p).barId 1 s.snQ 0 0 0

/-- A master's RELEASE to one member. -/
def Act.barReleaseTo (barId tRel : Nat) (a : ArriveSt) : Act := .get fun s => .barPacket a.node barId 2 a.t1 a.t2 s.snQ tRel

/-- The open instant is known: SIG_IDX takes its addition, ahead of the instant or, with less than 2 us left, late (R360). -/
def Act.barKnown (p at_ : Nat) : Act := .get fun s =>
  let late := dif64 at_ s.snQ < 8000
  .all [
    .modBars p fun b => { b with openAt := some (at_ % 2 ^ 64), ahead := !late },
    .when late (.incF (R.repSliceLaunch p) F.repSliceLaunch_LATE),
    .atomicAt (s.syncDpa p (s.barsAt p).sigIdx) .signal p 9 fun _ _ err => .when err (.sliceFault p 0x02 0 0 (s.barsAt p).handle)]

/-- Members whose ARRIVE for a barrier is held, in ascending node order. -/
def State.barMembers (s : State) (barId : Nat) : List ArriveSt :=
  (s.arrives.filter (·.barId == barId)).mergeSort fun a b => a.node ≤ b.node

/-- The master releases once it holds NMOD - 1 distinct members (R359 step 3). -/
def Act.barTryRelease (p : Nat) : Act := .get fun s =>
  let b := s.barsAt p
  let ms := s.barMembers b.barId
  .when (b.armed && b.master && b.fallback == 0 && b.tRel.isNone && ms.length + 1 ≥ b.nmod) (
    let t := (s.snQ + 4 * b.delayNs) % 2 ^ 64
    .all [
      .modBars p fun b => { b with tRel := some t },
      .modArrives fun l => l.filter (·.barId != b.barId),
      .each ms (.barReleaseTo b.barId t),
      .barKnown p t])

/-- launch_barrier (R358, R361). -/
def Act.doLaunchBarrier (j : JCmd) : Act := .get fun s =>
  let p := j.part
  let w := j.a 0
  let nmod := bits w 30 18
  let delay := bits (j.a 1) 31 0
  let fb := j.a 2
  let ahead := dif64 fb s.readingNs
  .checks j [
    (nmod == 0 || nmod > 4096, stBadField, 2),
    (delay < 10000 || delay > 1000000, stBadField, 8),
    (fb != 0 && (ahead < 2000 || ahead > 60000000000), stBadField, 0x0010),
    (cplBad (j.a 3), stBadField, 24),
    ((s.barsAt p).armed || !(s.timeState == stLocked || s.timeState == stHoldover), stBadState, s.sliceState p)]
    (.launch j 8 (j.a 3) [] 0 0 [] fun l => .all [
      .setBars p ⟨true, bits w 63 32, bit w 31, nmod, bits w 11 0, bits (j.a 1) 63 48, delay, fb, l.handle, none, none, false⟩,
      .setF (R.repSliceLaunch p) F.repSliceLaunch_ARMED 1,
      .setF (R.repSliceLaunch p) F.repSliceLaunch_MASTER (if bit w 31 then 1 else 0),
      if fb != 0 then .barKnown p (4 * fb)
      else if bit w 31 then .barTryRelease p
      else .barArrive p])

def execLaunchBarrier (mb : Nat) (s : State) : Out := Act.out s (.mbRun mb 0x0305 .doLaunchBarrier)

/-- ARRIVE: the master's table keeps the latest of each member; a duplicate after the release is answered with the same T_REL (R359). -/
def execArrive (barId node : Nat) (t1 t2 : Word) (s : State) : Out := Act.out s <|
  let a : ArriveSt := ⟨barId, node, t1.toNat, t2.toNat, s.tick⟩
  let mine := s.bars.filter fun e => e.2.master && e.2.fallback == 0 && e.2.barId == barId
  .when s.fabOn (
    match mine.find? (fun e => e.2.armed && e.2.tRel.isNone), mine.find? (·.2.tRel.isSome) with
    | none, some e => .barReleaseTo barId (e.2.tRel.getD 0) a
    | armed, _ =>
      let others := s.arrives.filter fun x => x.barId != barId || x.node != node
      .all [
        .when (others.length < 4096) (.setArrives (others ++ [a])),
        match armed with
        | some e => .barTryRelease e.1
        | none => .skip])

/-- RELEASE: the member computes the master's offset and its own open instant (R359 step 4). -/
def execRelease (barId node : Nat) (t1 t2 t3 t4 tRel : Word) (s : State) : Out := Act.out s <|
  match s.bars.find? fun e => e.2.armed && !e.2.master && e.2.fallback == 0 && e.2.barId == barId && e.2.masterNode == node && e.2.openAt.isNone with
  | none => .skip
  | some (p, _) => .when s.fabOn (
    let th := (dif64 t2.toNat t1.toNat - dif64 t4.toNat t3.toNat) / 2
    let bad : Bool := th > 4000 || th < -4000
    let off := if bad then 0 else th
    .all [
      .when bad (.incF (R.repSliceLaunch p) F.repSliceLaunch_THETA_REJ),
      .barKnown p (((tRel.toNat : Int) - off) % (2 ^ 64 : Nat)).toNat])

/-- ARRIVE_RESEND: 100 us without RELEASE (R359 step 1). -/
def execArriveResend (slice : Nat) (s : State) : Out := Act.out s <|
  let b := s.barsAt slice
  .when (b.armed && !b.master && b.fallback == 0 && b.openAt.isNone) (.barArrive slice)

/-- BARRIER_OPEN: the open instant: the streams held for it go on, the record is written; the master keeps T_REL for late duplicates
(R359, R360). -/
def execBarrierOpen (slice : Nat) (s : State) : Out := Act.out s <|
  let b := s.barsAt slice
  .when (b.armed && b.openAt.isSome) (.all [
    .modBars slice fun b => { b with armed := false, ahead := false },
    .setF (R.repSliceLaunch slice) F.repSliceLaunch_ARMED 0,
    .setF (R.repSliceLaunch slice) F.repSliceLaunch_MASTER 0,
    match (s.partsAt slice).launches.find? (·.handle == b.handle) with
    | some l => .finish slice l stOk 0 0xFFFF
    | none => .skip])

/-- BARRIER_TIMEOUT: not open 1 s after acceptance: abandoned (R359 step 5). -/
def execBarrierTimeout (slice : Nat) (s : State) : Out := Act.out s <|
  .when (s.barsAt slice).armed (.all [.incF (R.repSliceLaunch slice) F.repSliceLaunch_TMO, .barAbandon slice])

/-- ARRIVE_HOLD_EXPIRY: ARRIVEs for a barrier that has not been armed within 1 s are dropped (R359 step 2). -/
def execArriveHoldExpiry (barId : Nat) (s : State) : Out := Act.out s <|
  .when (!(s.bars.any fun e => e.2.armed && e.2.master && e.2.barId == barId)) (.modArrives fun l => l.filter (·.barId != barId))

/-! ### The Hound (R371-R375) -/

/-- HOUND_PACKET_RX: an acknowledgement, then records in sequence; records past a gap wait for their resend (R372). -/
def execHoundPacketRx (unit : Nat) (seq : Nat) (ack : Option Nat) (recs : List HoundRec) (s : State) : Out := Act.out s <|
  let u := s.houndsAt unit
  let old := sub32 u.rxSeq seq
  let take := if s32ge u.rxSeq seq then recs.drop old else []
  .when (s.fabOn && unit < 8 && s.fld (R.repHoundCfg unit) F.repHoundCfg_MODE == 1 && recs.length ≤ 32) (.all [
    match ack with
    | some a => .modHounds unit fun u => { u with unacked := u.unacked.filter fun x => s32ge x.1 a }
    | none => .skip,
    .when (!recs.isEmpty) (.all [
      .modHounds unit fun u => { u with rxSeq := (u.rxSeq + take.length) % 2 ^ 32, lastTick := s.tick + 1 },
      .each take (.houndTake unit false),
      .get fun t => .houndSend unit 0 (some (t.houndsAt unit).rxSeq) []])])

/-- Records that are not acknowledged, in packets of 32 at most. -/
def houndPackets : Nat → List (Nat × HoundRec) → List (Nat × List HoundRec)
  | 0, _ => []
  | _, [] => []
  | n + 1, (q, r) :: l => (q, ((q, r) :: l).take 32 |>.map (·.2)) :: houndPackets n (((q, r) :: l).drop 32)

/-- HOUND_RESEND: 100 us without an acknowledgement (R372). -/
def execHoundResend (unit : Nat) (s : State) : Out := Act.out s <|
  .when (unit < 8 && s.fld (R.repHoundCfg unit) F.repHoundCfg_MODE == 1)
    (.each (houndPackets 128 (s.houndsAt unit).unacked) fun (q, rs) => .houndSend unit q none rs)

/-- A write of REP.HOUND.CFG: ignored while the unit watches, except one that ends the watch; a value outside its range leaves its field
(R375). Setting MODE arms the first-mismatch latch (R373). -/
def Act.houndCfg (h : Nat) (v : Word) : Act := .get fun s =>
  let g (f : Field) : Nat := f.get v
  let cfg := R.repHoundCfg h
  let m := g F.repHoundCfg_MODE
  .when (s.fld cfg F.repHoundCfg_MODE == 0 || m == 0) (.all [
    .when (m == 0) (.houndEnd h),
    .setF cfg F.repHoundCfg_SLICE (g F.repHoundCfg_SLICE),
    .setF cfg F.repHoundCfg_PEER_NODE (g F.repHoundCfg_PEER_NODE),
    .setF cfg F.repHoundCfg_PEER_UNIT (g F.repHoundCfg_PEER_UNIT),
    .when (g F.repHoundCfg_LAG != 0) (.setF cfg F.repHoundCfg_LAG (g F.repHoundCfg_LAG)),
    .when (m == 1 || m == 2) (.all [
      .houndEnd h,
      .setF cfg F.repHoundCfg_MODE m,
      .setF (R.repHoundStat h) F.repHoundStat_ACTIVE 1,
      .setF (R.repHoundStat h) F.repHoundStat_FIRST 0])])

/-- HOUND_CFG_WRITE: only the manager context reaches the block. -/
def execHoundCfgWrite (who unit : Nat) (val : Word) (s : State) : Out := Act.out s <|
  if who == 256 then .when (unit < 8) (.houndCfg unit val) else .violation who violRegister

end Sys2Proof.Machine
end

