-- ==== Sys2Proof/Machine/Startup.lean ====
section
/-! DEFINITION. Power-up, boot, resets and recovery (R7, R15, R74, R86, R87, R123, R124, R382, R411, R423-R429, R437-R448; log 42). -/

namespace Sys2Proof.Machine

/-! ### What a reset keeps (R444) -/

/-- The 32-bit count before n. -/
def before32 (n : Nat) : Nat := if n = 0 then 0xFFFFFFFF else n - 1

/-- Counts and registers that stand through a reset, and those that a fuse or this start gives (R7, R411, R416, R443-R445, R452, R460).
`cold`: a module reset. -/
def Act.restart (cold : Bool) : Act := .get fun s =>
  let hours := min (s.flash.hours + 64) (2 ^ 32 - 1)
  let pcyc := min (s.flash.pcyc + 1) (2 ^ 32 - 1)
  let inc := (s.flash.incarn + 1) % 2 ^ 32
  let same (a : Nat) (f : Field) : Act := .setF a f (s.fld a f)
  .all [
    .when (!s.attn.rbLow) (.emit (.pin 2 false)),
    .toReset,
    .modFlash fun f => if cold then { f with hours := hours, pcyc := pcyc, incarn := inc } else { f with incarn := inc },
    .modClk fun _ => if cold then ⟨0, hours, pcyc⟩ else ⟨0, s.hours, s.clk.pcyc⟩,
    .modRecd fun r => { r with clearCounts := s.recd.clearCounts, ordAttn := s.recd.ordAttn, timeHours := if cold then none else s.recd.timeHours },
    .modSys fun y => { y with
      inOk := s.sys.inOk
      perst := s.sys.perst
      recImg := if cold then none else s.sys.recImg
      warm := if cold then none else s.sys.warm
      eraseCut := s.sys.eraseCut || s.flag R.recStat F.recStat_ERASING },
    same R.recStat F.recStat_WR_PTR,
    same R.recStat F.recStat_ORD_FULL,
    same R.recStat F.recStat_RES_FULL,
    same R.pwrStat F.pwrStat_LO_QUAL,
    .when (!cold) (.all [
      same R.hostBoot F.hostBoot_CAUSE,
      same R.hostBoot F.hostBoot_REC_LOADS,
      same R.pwrStat F.pwrStat_VIN,
      same R.pwrStat F.pwrStat_IIN,
      same R.pwrStat F.pwrStat_PIN,
      same R.pwrStat F.pwrStat_OOR,
      same R.pwrTemp F.pwrTemp_TJ_MAX,
      same R.pwrTemp F.pwrTemp_HOT_ISL]),
    .setF R.gwIdent F.gwIdent_VARIANT s.fuse.variant,
    .setF R.gwIdent F.gwIdent_GRADE (if s.fuse.debug then 1 else 0),
    .setF R.secStat F.secStat_DBG_FUSE (if s.fuse.debug then 1 else 0),
    .setF R.fabStat F.fabStat_INCARN inc]

/-! ### The container (R446) -/

def imgOff (b : List Byte) (i : Nat) : Nat := leNat ((b.drop (8 + 16 * i)).take 4)
def imgLen (b : List Byte) (i : Nat) : Nat := leNat ((b.drop (12 + 16 * i)).take 4)
def imgVer (b : List Byte) (i : Nat) : Nat := leNat ((b.drop (16 + 16 * i)).take 4)
def image (b : List Byte) (i : Nat) : List Byte := (b.drop (imgOff b i)).take (imgLen b i)

/-- Offset of the first field that the check refuses; none: the container passes. An image lies within the container's bytes. -/
def imgBad (b : List Byte) : Option Nat :=
  let u (o n : Nat) : Nat := leNat ((b.drop o).take n)
  let img (i : Nat) : List (Bool × Nat) := [
    (imgOff b i % 4096 != 0 || ((List.range i).any fun k => overlap (imgOff b i) (imgLen b i) (imgOff b k) (imgLen b k) > 0), 8 + 16 * i),
    (imgLen b i < 4096 || imgOff b i + imgLen b i > min b.length 0x1000000, 12 + 16 * i),
    (u (20 + 16 * i) 4 != 0, 20 + 16 * i)]
  let head : List (Bool × Nat) := [(u 0 4 != 0x34374D4F, 0), (u 4 2 != 1, 4), (u 6 2 != 3, 6)]
  ((head ++ (List.range 3).flatMap img).find? (·.1)).map (·.2)

/-! ### Steps 1 and 2 (R425, R429, R443, R446, R447) -/

/-- The flash image, or a recovery image, has failed: a warm reset into recovery wait (R447). -/
def Act.recoveryWait (cause : Nat) : Act := .all [
  .restart false,
  .modSys fun y => { y with warm := none, recImg := none },
  .mrExtend 0 Config.romDigest,
  .setF R.hostBoot F.hostBoot_CAUSE cause,
  .setF R.hostBoot F.hostBoot_STEP 1,
  .setF R.hostBoot F.hostBoot_REC_WAIT 1]

/-- The image that is booting fails: CAUSE of the flash image, 0x09 of a recovery image. -/
def Act.imageFails (cause : Nat) : Act := .get fun s => .recoveryWait (if s.sys.recImg.isSome then 9 else cause)

/-- The debug request as step 4 of R425 samples it. -/
def Act.debugSample (req : Option (List Byte)) : Act := .get fun s =>
  match req with
  | none => .skip
  | some d =>
    if !s.fuse.debug then .incF R.secCnt F.secCnt_DBG_REFUSED
    else .all [.mrExtend 5 (shake256 (fitBytes d 64) 64), .setF R.secStat F.secStat_UNLOCKED 1]

/-- The boot ROM's order of work on a container (R425); the loader starts. -/
def Act.bootRom (r : StartReport) (b : List Byte) (rec_ : Bool) : Act := .all [
  .setF R.hostBoot F.hostBoot_STEP 1,
  .mrExtend 0 Config.romDigest,
  .each (List.range 3) fun i => .mrExtend (1 + i) (shake256 (image b i) 64),
  .mrExtend 4 (shake256 Config.factoryData 64),
  .debugSample r.dbgReq,
  .setF R.secStat F.secStat_KEY_READY 1,
  .setF R.secStat F.secStat_UDS_LOCK 1,
  .setF R.secStat F.secStat_BOOT_REC (if rec_ then 1 else 0),
  .setF R.hostBoot F.hostBoot_BOOT_REC (if rec_ then 1 else 0),
  .setF R.hostBoot F.hostBoot_STEP 2,
  .modSys fun y => { y with vers := Config.romVersion % 2 ^ 32 :: (List.range 3).map (imgVer b), bring := some r }]

/-- The boot ROM starts on the recovery image, if one is loaded, or on flash. -/
def Act.boot (r : StartReport) : Act := .get fun s =>
  match s.sys.recImg with
  | some b => .bootRom r b true
  | none =>
    if !r.flash.readOk then .recoveryWait 1
    else if (imgBad r.flash.bytes).isSome then .recoveryWait 2
    else .bootRom r r.flash.bytes false

/-! ### Steps 3 to 10 (R437-R440) -/

/-- Units of the map leave service (R86, R388), and the fuse maps are applied (R74). -/
def Act.cobbler : Act := .get fun s =>
  let m := s.flash.retire
  .all [
    .modSys fun y => { y with mapAt := m },
    .each (List.range 256) fun i =>
      let w := ((s.fuse.repair.find? (·.1 == i)).map (·.2)).getD 0
      let lat := 258 + (if bit w.toNat 23 then 2 else if bit w.toNat 15 then 1 else 0)
      .all [
        .setRegs (R.coreArrRepair (i / 4) (i % 4)) w,
        .setF (R.coreArrLat (i / 4) (i % 4)) F.coreArrLat_LAT_NATIVE lat,
        .setF (R.coreArrLat (i / 4) (i % 4)) F.coreArrLat_LAT_LAST lat,
        .when (bit m i || bit m (256 + i / 4)) (.all [
          .setF (R.coreArrStat (i / 4) (i % 4)) F.coreArrStat_RETIRED 1,
          .setF (R.coreArrStat (i / 4) (i % 4)) F.coreArrStat_FENCE 1])],
    .each (List.range 96) fun d => .when (bit m (320 + d)) (.setF (R.dspStat d) F.dspStat_FENCE 1),
    .each (List.range 40) fun e => .when (bit m (416 + e)) (.setF (R.codeEngStat e) F.codeEngStat_FENCE 1),
    .each (List.range 8) fun k => .when (bit m (472 + k)) (.setDets k true),
    .each (List.range 16) fun k => .when (bit m (456 + k)) (.setDets (8 + k) true),
    .each (List.range 128) fun n => .when (bit m (480 + n)) (.all [
      .setF (R.memCh (n / 64) (n % 64)) F.memCh_RETIRED 1,
      .setF (R.memCh (n / 64) (n % 64)) F.memCh_FENCE 1])]

/-- A unit fails during start-up: one record with the unit and its cause, and MGR is owed (R440). -/
def Act.startFailure (unit cause : Nat) : Act := .all [
  .record 0x00 0x3FF 0x1803 [BitVec.ofNat 64 unit, BitVec.ofNat 64 cause],
  .modSys fun y => { y with owed := true }]

/-- Channels of a die that serve, ascending. -/
def State.activeChannels (s : State) (d : Nat) : List Nat :=
  (List.range 64).filter fun n => !(s.flag (R.memCh d n) F.memCh_FENCE)

/-- LPDDR5X training (R123, R124): one rate for all channels, failing channels fenced and entered in the map, the mapping fixed. -/
def Act.training (r : StartReport) : Act := .all [
  .each r.trainRetry fun (n, k) => .when (n < 128) (.setF (R.memCh (n / 64) (n % 64)) F.memCh_TRAIN_RETRY k),
  .each r.badChannels fun n => .get fun s => .when (n < 128 && !(s.flag (R.memCh (n / 64) (n % 64)) F.memCh_FENCE)) (.all [
    .setF (R.memCh (n / 64) (n % 64)) F.memCh_FENCE 1,
    .setF (R.memCh (n / 64) (n % 64)) F.memCh_RETIRE_PEND 1,
    .retireBit (480 + n),
    .healthFailed 1 n,
    .startFailure (480 + n) 2]),
  .get fun s => .all [
    .setLpAct0 (s.activeChannels 0),
    .setLpAct1 (s.activeChannels 1),
    .each [0, 1] fun d => .all [
      .setF (R.memStat d) F.memStat_RATE (if r.slowChannels.isEmpty && r.badChannels.isEmpty then 0 else 1),
      .setF (R.memStat d) F.memStat_N_ACTIVE (s.activeChannels d).length,
      .setF (R.memStat d) F.memStat_USABLE ((s.activeChannels d).length * (if s.fuse.variant == 1 then 30 else 15)),
      .setF (R.memStat d) F.memStat_TRAINED 1]]]

/-- Array self-tests at start (R87). -/
def Act.selfTests (r : StartReport) : Act := .each r.badArrays fun i => .when (i < 256) (.all [
  .setF (R.coreArrStat (i / 4) (i % 4)) F.coreArrStat_SELFTEST_FAIL 1,
  .setF (R.coreArrStat (i / 4) (i % 4)) F.coreArrStat_FENCE 1,
  .arrayPend (i / 4) (i % 4),
  .retireBit i,
  .healthFailed 4 i,
  .startFailure i 1])

/-- The system unit, the contexts and the classes that stand from step 9; the radio partition is held, since the time unit stands in FR_START
(R26, R91, R121, R249). -/
def Act.settleStart (r : StartReport) : Act := .all [
  .setF R.lastPwr F.lastPwr_IDLE_W r.idleW,
  .modRadio fun x => { x with units := [31] },
  .get fun t => .modParts 0x101 fun x => { x with segs := t.radioSegs [] [31] },
  .kenStat,
  .setF R.radioStat F.radioStat_HELD 1,
  .each (List.range 64) fun c => .setF (R.coreCtxOwner c 4) F.coreCtxOwner_KIND 2,
  .each [0x100, 0x101] fun p => .all [
    .setF (R.sliceStat p) F.sliceStat_STATE 1,
    .setF (R.sliceStat p) F.sliceStat_CLASS 1],
  .each (List.range 4) fun k => .modF (R.memKen (k / 2) (k % 2)) F.memKen_CE_WORDS fun v =>
    min (v + ((r.kenCe.filter (·.1 == k)).map (·.2)).sum) F.memKen_CE_WORDS.max,
  .setF R.hostBoot F.hostBoot_STEP 10]

/-- The records of a start: an erase cut short is completed first (R445), then the start's own (R414, R429, R447). -/
def Act.startRecords : Act := .get fun s => .all [
  .when s.sys.eraseCut (.all [.recErased, .modSys fun y => { y with eraseCut := false }]),
  match s.sys.warm with
  | some c => .record 0x00 0x3FF 0x1801 [0, BitVec.ofNat 64 c]
  | none => .record 0x00 0x3FF 0x1800 [0, 0],
  .when (s.flag R.secStat F.secStat_BOOT_REC) (.record 0x00 0x3FF 0x1802 [0, 0]),
  .when (s.flag R.secStat F.secStat_UNLOCKED) (.record 0x03 0x3FF 0xB801 [5])]

/-- Steps 3 to 10: the tick counts zeroed and the first period begun (R264, R282), the repair maps, training, self-tests, the Kennel test,
the time unit, memory zeroed. A Kennel failure, or a die without channels, fails the module (R439, R440). -/
def Act.bringUp : Act := .get fun s =>
  match s.sys.bring with
  | none => .skip
  | some r => .all [
      .modClk fun c => { c with cyc := 0 },
      .setF R.lastPeriod F.lastPeriod_PERIODS 1,
      .startRecords,
      .modSys fun y => { y with bring := none, warm := none },
      .setF R.hostBoot F.hostBoot_STEP 4,
      .cobbler,
      .setF R.hostBoot F.hostBoot_STEP 5,
      .training r,
      .get fun t =>
        if t.lpAct0.isEmpty || t.lpAct1.isEmpty then .all [.moduleFail (some 7), .mbUnknown 256]
        else .all [
          .setF R.hostBoot F.hostBoot_STEP 6,
          .selfTests r,
          .setF R.hostBoot F.hostBoot_STEP 7,
          if r.kenFail then .all [.moduleFail (some 6), .mbUnknown 256] else .settleStart r]]

/-! ### The commands -/

/-- MODULE_RESET: the input has risen through 40.0 V, or the power controller restarts after an input fault; LO_IN is qualified, no fault is
held, and the module has not started yet (R437, R443, R452, R456). -/
def execModuleReset (r : StartReport) (s : State) : Out := Act.out s <|
  .when (s.sys.inOk && s.flag R.pwrStat F.pwrStat_LO_QUAL && s.sys.fault.isNone && s.fld R.hostBoot F.hostBoot_STEP == 0 && s.sys.warm.isNone)
    (.all [.restart true, .emit (.pin 1 true), .boot r])

/-- A warm reset begins (R443): NOT_READY, RB_N low, every island but the power controller stopped. -/
def Act.warmBegin (cause : Nat) : Act := .all [
  .restart false,
  .modFlash fun f => { f with incarn := before32 f.incarn },
  .modSys fun y => { y with warm := some cause }]

/-- WARM_RESET: the sequence of a warm reset that has begun, from step 2 (R437, R443). -/
def execWarmReset (cause : Nat) (r : StartReport) (s : State) : Out := Act.out s <|
  .when (s.sys.warm == some cause && s.sys.bring.isNone && s.sys.fault.isNone) (.all [.restart false, .boot r])

/-- RESET_PROTOCOL_TIMEOUT: an island has not acknowledged; after three failures the module is failed (R438). -/
def execResetProtocolTimeout (s : State) : Out := Act.out s <|
  .when s.sys.bring.isSome (.all [
    .modSys fun y => { y with proto := y.proto + 1 },
    .when (s.sys.proto + 1 ≥ 3) (.all [.modSys fun y => { y with bring := none, warm := none }, .moduleFail (some 5)])])

/-- RUN_WATCHDOG: the runtime has not reached step 3 within 5 s of the loader start (R446, R447). -/
def execRunWatchdog (s : State) : Out := Act.out s <| .when s.sys.bring.isSome (.imageFails 3)

/-- NOT_READY_CLEAR: steps 9 and 10 are done and the PCIe link is up; a failure of this start sets MGR in the same clock (R437, R440). -/
def execNotReadyClear (s : State) : Out := Act.out s <|
  .when (s.notReady && !s.failed && !s.recWait && s.linkOn && (s.sys.bring.isSome || s.fld R.hostBoot F.hostBoot_STEP == 10)) (.all [
    .bringUp,
    .get fun t => .when (!t.failed) (.all [
      .setF R.hostBoot F.hostBoot_STEP 11,
      .setF R.hostAttn4 F.hostAttn4_NOT_READY 0,
      .when t.sys.owed (.all [.modSys fun y => { y with owed := false }, .modF R.hostAttn4 F.hostAttn4_BITS (setBit · 0)]),
      .attnChanged,
      .mbUnknown 256])])

/-- The host link's registers and link are reset. -/
def Act.linkReset : Act := .all [.modLinkOn fun _ => false, .setRegs R.hostLink (regReset R.hostLink)]

/-- PERST_N: a new accepted level. A falling edge begins a warm reset, or with NOT_READY set resets the host link alone; while an input fault
is held the pin is ignored (R443, R450). -/
def execPerstN (level : Bool) (s : State) : Out := Act.out s <|
  .when s.sys.fault.isNone (
    if level then .modSys fun y => { y with perst := false }
    else .when (!s.sys.perst) (.all [
      .modSys fun y => { y with perst := true },
      if s.notReady then .linkReset else .warmBegin 1]))

/-- HOT_RESET: a PCIe Hot Reset or Link Disable (R443); with NOT_READY set only the link retrains. -/
def execHotReset (s : State) : Out := Act.out s <|
  .when (s.linkOn && s.sys.fault.isNone) (if s.notReady then .modLinkOn fun _ => false else .warmBegin 2)

/-- recovery_load (R447). -/
def Act.doRecoveryLoad (readOk : Bool) (j : JCmd) : Act := .get fun s =>
  let len := j.a 1
  let b := s.hostRead noPasid (j.a 0) len
  .checks j [
    (!s.recWait, stBadState, 0),
    (len > 0x1000000 || len % 4096 != 0, stBadField, 0x0008),
    (!readOk, stDma, 0),
    ((imgBad b).isSome, stImage, (imgBad b).getD 0)] (.all [
      .replyOk j,
      .dmaCount false len 0x100,
      .incF R.hostBoot F.hostBoot_REC_LOADS,
      .modSys fun y => { y with recImg := some b, warm := some 3 }])

/-- RECOVERY_LOAD: the boot ROM serves the mailbox itself; the warm reset follows. -/
def execRecoveryLoad (mb : Nat) (readOk : Bool) (s : State) : Out := Act.out s (.mbRun mb 0x0002 (.doRecoveryLoad readOk))

/-- UHLILE_MISMATCH: the two processors differ: both halt and restart. A second mismatch within 1 s fails the image during steps 2 to 9, and
the module in operation, whose mailbox then performs what R441 leaves (R382, R446; log 37). -/
def execUhlileMismatch (s : State) : Out := Act.out s <|
  let again : Bool := match s.sys.uhMis with
    | some t => s.tick < t + 250000000
    | none => false
  .when (s.sys.bring.isSome || !s.notReady || s.fld R.hostBoot F.hostBoot_STEP == 10) (
    if !again then .modSys fun y => { y with uhMis := some s.tick, uhDown := true }
    else if s.sys.bring.isSome then .imageFails 4
    else .all [.modSys fun y => { y with uhMis := some s.tick, uhDown := false }, .moduleFail none])

/-- UHLILE_RESTART_DONE: MGR, one record, one module health event (R382). -/
def execUhlileRestartDone (s : State) : Out := Act.out s <|
  .when s.sys.uhDown (.all [
    .modSys fun y => { y with uhDown := false },
    .attnMgr,
    .record 0x00 0x3FF 0x9801 [],
    .healthEv 0 0 0,
    .each (List.range 257) .mbUnknown])

/-- What happens while no command waits: a start under way goes on, else one core cycle passes (log 1, log 42). -/
def Act.idle : Act := .get fun s =>
  if s.sys.bring.isSome then .bringUp
  else .all [.passCycle, .ppsFall, .timeFollow, .get fun u => .each u.dsps fun e => .dspGo e.1 nopFuel]

end Sys2Proof.Machine
end

