-- ==== Sys2Proof/Machine/Electrical.lean ====
section
/-! DEFINITION. The 44 V input, the clock input, rails, power and temperature (R281, R449-R463; log 43). -/

namespace Sys2Proof.Machine

/-! ### Input faults (R455, R456) -/

/-- An input fault begins: PWR_FLT_N low, one record, every island stopped but the power controller's and the recorder's, a warm reset
under way ended. With a fault held already nothing more is recorded. -/
def Act.inputFault (cause v : Nat) : Act := .get fun s => .when s.sys.fault.isNone (.all [
  .emit (.pin 1 false),
  .record 0x01 0x3FF 0xA802 [BitVec.ofNat 64 (v % 2 ^ 32 * 2 ^ 32 + cause)],
  .restart false,
  .modFlash fun f => { f with incarn := before32 f.incarn },
  .modSys fun y => { y with fault := some cause, warm := none }])

/-- The input is no longer qualified. -/
def Act.inputLost : Act := .modSys fun y => { y with inOk := false }

/-- INPUT_QUALIFIED: at or above 40.0 V for 100 us, or for 100 ms after a held fault; PWR_FLT_N is low until step 1 (R450, R455). -/
def execInputQualified (mv : Nat) (s : State) : Out := Act.out s <|
  .when (mv ≥ 40000 && !s.sys.inOk) (.all [
    .modSys fun y => { y with inOk := true },
    .when s.sys.fault.isNone (.emit (.pin 1 false))])

/-- UNDERVOLTAGE. -/
def execUndervoltage (mv : Nat) (s : State) : Out := Act.out s <|
  .when (mv < 40000 && s.sys.inOk) (.all [.inputFault 1 mv, .inputLost])

/-- OVERVOLTAGE. -/
def execOvervoltage (mv : Nat) (s : State) : Out := Act.out s <| .when (mv > 50000 && s.sys.inOk) (.inputFault 2 mv)

/-- INPUT_OUT_OF_RANGE: 48.0 V to 50.0 V for 1 ms: counted and recorded; operation goes on (R455). -/
def execInputOutOfRange (mv : Nat) (s : State) : Out := Act.out s <|
  .when (48000 ≤ mv && mv ≤ 50000 && s.sys.inOk) (.all [
    .incF R.pwrCnt F.pwrCnt_OOR_EVENTS,
    .setF R.pwrStat F.pwrStat_OOR 1,
    .record 0x01 0x3FF 0xA003 [BitVec.ofNat 64 mv]])

/-- UV_DIP: less than 100 us below 40.0 V (R455). -/
def execUvDip (s : State) : Out := Act.out s <| .when s.sys.inOk (.incF R.pwrCnt F.pwrCnt_UV_DIPS)

/-- FAULT_RESTART: the restart condition of the held fault is met; a module reset follows (R456). -/
def execFaultRestart (s : State) : Out := Act.out s <|
  .when (s.sys.fault.isSome && s.sys.inOk) (.modSys fun y => { y with fault := none })

/-! ### The clock input (R451, R452) -/

/-- LO_IN_QUALIFIED. -/
def execLoInQualified (s : State) : Out := Act.out s (.setF R.pwrStat F.pwrStat_LO_QUAL 1)

/-- LO_IN_LOSS: in service a clock failure of every gateway region (R380, R440, R452). -/
def execLoInLoss (s : State) : Out := Act.out s <| .all [
  .setF R.pwrStat F.pwrStat_LO_QUAL 0,
  .when (s.fld R.hostBoot F.hostBoot_STEP != 0) (.all [
    .modSys fun y => { y with bring := none, warm := none },
    .moduleFail (if s.notReady && !s.failed then some 8 else none)])]

/-! ### Rails (R457) -/

/-- RAIL_EVENT: a rail outside its window. -/
def execRailEvent (rail : Rail) (s : State) : Out := Act.out s <| .all [
  .incF R.pwrCnt F.pwrCnt_RAIL_EVENTS,
  match rail with
  | .core c => .when (c < 64) (.supplyEvent c)
  | .dsp g => .when (g < 12) (.supplyEvent (64 + g))
  | .coding c => .when (c < 4) (.supplyEvent (76 + c))
  | .kennel k => .when (k < 4) (.supplyEvent (80 + k))
  | .noc d => .when (d < 2) (.supplyEvent (84 + d))
  | .lpddr t => .when (t < 32) (.all [
      .movesFail fun _ a => (match s.dpaKind a with | .lp d => (64 * d + s.lpChannel d a) / 4 == t | _ => false),
      .each ((List.range 4).map (4 * t + ·)) fun ch => .channelUe ch (2 ^ 60 + s.tick)])
  | .gateway _ => .moduleFail none
  | .management => .all [.inputFault 4 (10 * s.fld R.pwrStat F.pwrStat_VIN), .inputLost]]

/-! ### Power and temperature (R458-R460) -/

/-- A signed field. -/
def s16 (v : Nat) : Int := (BitVec.ofNat 16 v).toInt

/-- TEMP_SAMPLE: the hottest sensor and its island; the thermal factor follows at once, or at the next boundary when the step falls on one
(R281, R460). -/
def execTempSample (tj : Int) (island : Island) (s : State) : Out := Act.out s <|
  let v := (tj % 65536).toNat
  .all [
    .setF R.pwrTemp F.pwrTemp_TJ_MAX v,
    .setF R.pwrTemp F.pwrTemp_HOT_ISL island,
    .when (tj > s16 (s.fld R.pwrTemp F.pwrTemp_TJ_PEAK)) (.setF R.pwrTemp F.pwrTemp_TJ_PEAK v),
    if s.fld R.lastBtick F.lastBtick_TICK == s.tick then .modLast fun l => { l with nextTherm := some (thermPct tj) }
    else .setTherm (thermPct tj) v]

/-- THERMAL_TRIP: 105 °C for 1 ms (R456, R460). -/
def execThermalTrip (s : State) : Out := Act.out s <|
  .when s.sys.inOk (.inputFault 3 (s.fld R.pwrTemp F.pwrTemp_TJ_MAX))

/-- POWER_SAMPLE: input voltage and current, and the mean power of the last 100 us; above 1,400 W the peak limiter acts (R458, R459). -/
def execPowerSample (mv ma pin : Nat) (s : State) : Out := Act.out s <| .all [
  .setF R.pwrStat F.pwrStat_VIN (mv / 10),
  .setF R.pwrStat F.pwrStat_IIN (ma / 10),
  .setF R.pwrStat F.pwrStat_PIN pin,
  .when (mv < 48000 || mv > 50000) (.setF R.pwrStat F.pwrStat_OOR 0),
  .when (pin > 1400) (.all [
    .modLast fun l => { l with bucket := 0 },
    .when (!(s.flag R.pwrStat F.pwrStat_PEAK)) (.all [.setF R.pwrStat F.pwrStat_PEAK 1, .incF R.pwrCnt F.pwrCnt_PEAK_LIMIT])])]

end Sys2Proof.Machine
end

