-- ==== Sys2Proof/Machine/Registers.lean ====
section
/-! DEFINITION. Reads and writes of registers and of the BARs, snapshot records, entries of command lists (R4-R9, R29, R30, R115, R282,
R286-R288, R299-R301, R311, R402, R409, R419, R420; log 44). -/

namespace Sys2Proof.Machine

/-! ### Values a register shows (R4, R71, R255, R267, R282, R374) -/

/-- Beats of a tile in flight: entered, and not yet out of cell (127, 127) (R67, R71). -/
def State.beatsIn (s : State) (c a : Nat) (t : TileRun) : Nat :=
  (s.beatCycles t).countP fun e => e ≤ s.clk.cyc && s.clk.cyc < e + s.beatSpan c a

/-- INFL0 or INFL1 of an array. -/
def State.inflight (s : State) (c a tag : Nat) : Nat :=
  (((s.arrsAt (4 * c + a)).tiles.filter fun t => dBank t.words == tag).map (s.beatsIn c a)).sum

/-- HOLD_ELAPSED: whole seconds of the current holdover (R255). -/
def State.holdElapsed (s : State) : Nat :=
  if s.timeState == stHoldover then min ((s.tick - s.time.lossTick) / 250000000) F.timeHold_HOLD_ELAPSED.max else 0

/-- PEER_UP of a Hound unit: records of its peer came within the last second (R375; log 41). -/
def State.peerUp (s : State) (u : Nat) : Bool :=
  (s.houndsAt u).lastTick != 0 && s.tick + 1 ≤ (s.houndsAt u).lastTick + 250000000

/-- Word i of a stitch entry (R266). -/
def entWord (e : StitchEnt) (i : Nat) : Nat :=
  if i < 4 then bits e.arr (64 * i + 63) (64 * i)
  else if i == 4 then e.eng
  else if i == 5 then e.dsp + e.evCount * 2 ^ 16 + e.evFirst * 2 ^ 32
  else 0

/-- The table windows of the Last (R282). -/
def lastWin : Nat := R.lastStat + 0x100000

/-- A word of the windows: active and shadow entries, active and shadow events. -/
def State.lastWord (s : State) (off : Nat) : Nat :=
  let i := off % 0x20000 / 8
  let ents (l : LastCopy) : Nat := match l.ents.find? (·.1 == i / 8) with
    | some e => entWord e.2 (i % 8)
    | none => 0
  let evs (l : LastCopy) : Nat := match l.events.find? (·.1 == i) with
    | some e => e.2.toNat
    | none => 0
  match off / 0x20000 with
  | 0 => ents s.last.active
  | 1 => ents s.last.shadow
  | 2 => evs s.last.active
  | _ => evs s.last.shadow

/-- The register as a read shows it; none: no register map lists the address (R115). -/
def State.peek (s : State) (a : Nat) : Option Word :=
  if lastWin ≤ a && a < lastWin + 0x80000 then (if a % 8 == 0 then some (BitVec.ofNat 64 (s.lastWord (a - lastWin))) else none)
  else if (regDesc a).isNone then none
  else if B.coreArrStat.hit a then
    let c := (a - R.coreArrStat 0 0) / 65536
    let r := (a - R.coreArrStat 0 0) % 65536 / 1024
    some (F.coreArrStat_INFL0.put (F.coreArrStat_INFL1.put (s.rd a) (s.inflight c r 1)) (s.inflight c r 0))
  else if a == R.timeHold then some (F.timeHold_HOLD_ELAPSED.put (s.rd a) s.holdElapsed)
  else if B.repHoundStat.hit a then
    some (F.repHoundStat_PEER_UP.put (s.rd a) (if s.peerUp ((a - R.repHoundStat 0) / 64) then 1 else 0))
  else some (s.rd a)

/-! ### Counter registers (R401, R402, R409) -/

/-- The set and the offset in it of a counter register; SAMP at 0x90 in a core's set. -/
def pmcPlace (a : Nat) : Option (Nat × Nat) :=
  if R.gpmcCtl 0 0 ≤ a && a < R.gpmcCtl 0 0 + 0x800 then
    (let o := (a - R.gpmcCtl 0 0) % 256; if o < 0x90 then some ((a - R.gpmcCtl 0 0) / 256, o) else none)
  else if R.corePmcCtl 0 0 ≤ a && a < R.corePmcCtl 0 0 + 0x400000 then
    (let o := (a - R.corePmcCtl 0 0) % 65536; if o < 0x98 then some (0x80 + (a - R.corePmcCtl 0 0) / 65536, o) else none)
  else none

/-- A write to a counter register; of a set that a slice holds it is ignored (R402). -/
def Act.pmcWrite (n o : Nat) (v : Word) : Act := .get fun s => .when ((s.setHolder n).isNone) (
  if o < 0x80 then .all [
    .unlatch n (o / 16),
    if o % 16 == 0 then .pmcCtl n (o / 16) v else .setF (setBase n + o) F.gpmcVal_VALUE (F.gpmcVal_VALUE.get v)]
  else if o < 0x90 then .setF (setBase n + o) F.gpmcRange_ADDR (F.gpmcRange_ADDR.get v)
  else .when (F.corePmcSamp_PERIOD.get v != 0) (.sampCfg (n - 0x80) v))

/-! ### Device registers: writes -/

/-- A field's value lies in its stated range; a field without an entry takes every value. -/
def fldInRange (l : List (Field × Nat × Nat)) (f : Field) (v : Word) : Bool :=
  match l.find? (·.1 == f) with
  | some (_, lo, hi) => lo ≤ f.get v && f.get v ≤ hi
  | none => true

/-- Stated ranges, outside of which a write leaves the field unchanged (R112, R159, R260, R294, R346; log 44). A bound that is itself a
field is the value in force after the write. -/
def State.ranges (s : State) (a : Nat) (v : Word) : List (Field × Nat × Nat) :=
  let after (f : Field) (lo hi : Nat) : Nat := if lo ≤ f.get v && f.get v ≤ hi then f.get v else s.fld a f
  if B.coreSeqCfg.hit a then [(F.coreSeqCfg_SYNC_TMO, 1, 60000)]
  else if a == R.radioSfn then [(F.radioSfn_OFF_MS, 0, 10239)]
  else if a == R.timeHold then [(F.timeHold_HOLD_FREQ, 1, 86400), (F.timeHold_HOLD_NONE, 1, 86400)]
  else if a == R.timeBound then [(F.timeBound_STEP_BOUND, 20, 1000), (F.timeBound_PD_MAX, 1, 10000), (F.timeBound_REJ_MAX, 1, 64),
    (F.timeBound_LOCK_N, 4, 255), (F.timeBound_LOCK_WIN, 10, 500)]
  else if a == R.hostBar2 then [(F.hostBar2_SEL, 0, 112)]
  else if a == R.fabTmr then [(F.fabTmr_TMO, 100, 65535), (F.fabTmr_RTO, 4, 1000),
    (F.fabTmr_RTO_MIN, 1, after F.fabTmr_RTO 4 1000), (F.fabTmr_IDLE, 1, 1000)]
  else if a == R.fabCred then [(F.fabCred_INIT_CREDIT, 1, 256), (F.fabCred_MAX_CREDIT, after F.fabCred_INIT_CREDIT 1 256, 4096)]
  else if a == R.fabCfg then [(F.fabCfg_UDP_PORT, 1024, 65535)]
  else if B.fabEngRing.hit a then [(F.fabEngRing_SIZE, 0, 6)]
  else if a == R.recCfg then [(F.recCfg_FRZ_TMO, 1, 3600), (F.recCfg_WIN, 0, 753)]
  else []

/-- The lock of a block is set (R6). -/
def State.locked (s : State) (d : RegBlock) : Bool := d.lock != 0 && bit (s.rd R.gwLock).toNat (d.lock - 1)

/-- The word that a write leaves, field by field by the access codes (R4); `keep`: fields that this write leaves as they are. -/
def State.written (s : State) (d : RegBlock) (a : Nat) (v : Word) (keep : Field → Bool) : Word :=
  let rg := s.ranges a v
  d.flds.foldl (fun w f =>
    match f.acc with
    | .w1c => f.put w (f.get w &&& (f.max ^^^ f.get v))
    | .rw => if fldInRange rg f v && !(keep f) then f.put w (f.get v) else w
    | .rwl => if fldInRange rg f v && !(keep f) && !(s.locked d) then f.put w (f.get v) else w
    | _ => w) (s.rd a)

/-- A write by the access codes alone. -/
def Act.genWrite (a : Nat) (v : Word) (keep : Field → Bool := fun _ => false) : Act := .get fun s =>
  match regDesc a with
  | some d => .setRegs a (s.written d a v keep)
  | none => .skip

/-- GW.LOCK: a bit written one is set and stays (R6). -/
def Act.lockWrite (v : Word) : Act := .get fun s => .setRegs R.gwLock (s.rd R.gwLock ||| v)

/-- FAB.CFG: NODE stays while EN is set; EN is not set without a node (R322). -/
def Act.fabCfgWrite (v : Word) : Act := .get fun s =>
  let en := s.flag R.fabCfg F.fabCfg_EN
  let node := if en then s.fld R.fabCfg F.fabCfg_NODE else F.fabCfg_NODE.get v
  .genWrite R.fabCfg v fun f => (f == F.fabCfg_NODE && en) || (f == F.fabCfg_EN && F.fabCfg_EN.get v == 1 && node == 0xFFFF)

/-- FAB.ENG.RING and FAB.ENG.IDX are written only while the owner slice is IDLE, or the engine has none (R326); an address off its
alignment leaves RING_SA. -/
def Act.fabEngWrite (e a : Nat) (v : Word) : Act := .get fun s =>
  let p := s.fld (R.fabEngStat e) F.fabEngStat_OWNER
  .when (p ≥ 256 || s.sliceState p == 1)
    (.genWrite a v fun f => f == F.fabEngRing_RING_SA && B.fabEngRing.hit a && f.get v % 64 != 0)

/-- The manager's write of a register that a map lists. -/
def Act.devWrite (a : Nat) (v : Word) : Act := .get fun s =>
  if a == R.gwLock then .lockWrite v
  else if a == R.timeCfg then .timeCfgWrite v
  else if a == R.timeLatch then .when (F.timeLatch_CAPTURE.get v == 1) (.all [.timeStep, .timeLatch])
  else if a == R.timeFreq then .all [.genWrite a v, .freqSelect]
  else if a == R.timePps then .all [.genWrite a v, .timeClass]
  else if a == R.radioSfn then .when (s.fld R.radioStat F.radioStat_CELLS == 0) (.genWrite a v)
  else if a == R.fabCfg then .fabCfgWrite v
  else if a == R.fabPfx0 || a == R.fabPfx1 then .when (!(s.flag R.fabCfg F.fabCfg_EN)) (.genWrite a v)
  else if B.fabEngRing.hit a then .fabEngWrite ((a - R.fabEngRing 0) / 32) a v
  else if B.fabEngIdx.hit a then .fabEngWrite ((a - R.fabEngIdx 0) / 32) a v
  else if R.fabRgn0 0 ≤ a && a < R.fabRgn0 4096 then .rgnWrite ((a - R.fabRgn0 0) / 32) ((a - R.fabRgn0 0) % 32 / 8) v
  else if B.repHoundCfg.hit a then .houndCfg ((a - R.repHoundCfg 0) / 64) v
  else if B.memUeCtl.hit a then .when (F.memUeCtl_CLEAR.get v == 1) (.ueClear ((a - R.memUeCtl 0) / 0x100000))
  else match pmcPlace a with
    | some (n, o) => .pmcWrite n o v
    | none => .genWrite a v

/-! ### BAR0 (R286, R287, R294, R299, R300) -/

/-- Addresses that stand for BAR0 and BAR4 (log 5). -/
def bar0 : Nat := 2 ^ 48
def bar4 : Nat := 2 ^ 49
def inBar0 (a : Nat) : Bool := bar0 ≤ a && a < bar0 + 0x200000
def inBar4 (a : Nat) : Bool := bar4 ≤ a && a < bar4 + 0x100000

/-- What an offset of BAR0 names. -/
inductive Bar0At where
  /-- a mailbox page and the offset in it -/
  | page (part off : Nat)
  /-- the host register page -/
  | hostPage
  | reserved
deriving DecidableEq, Repr

def bar0At (o : Nat) : Bar0At :=
  if o < 0x10000 then .page 256 o
  else if o < 0x110000 then .page ((o - 0x10000) / 4096) (o % 4096)
  else if 0x120000 ≤ o && o < 0x121000 then .hostPage
  else .reserved

/-- Whom an access that R9 disallows is counted against in BAR0: the slice of the page, else the manager (R287; log 44). -/
def bar0Owner (o : Nat) : Nat := match bar0At o with
  | .page p _ => p
  | _ => 256

/-- The access is a violation of the mailbox kind. -/
def State.bar0Bad (s : State) (o : Nat) : Bool := match bar0At o with
  | .page p _ => p < 256 && !(s.sliceLive p)
  | .hostPage => false
  | .reserved => true

/-- A host write to a word of a mailbox page. -/
def Act.pageWrite (p o a : Nat) (v : Word) : Act := .get fun s =>
  if o < (if p < 256 then 0x800 else 0x8000) then
    if bit (s.rd (mbHdr p 0)).toNat 63 then .incF (R.sliceMb p) F.sliceMb_BUSY_WR
    else if o == 0 then .when (bit v.toNat 63) (.all [.setRegs a v, .mbUnknown p])
    else .setRegs a v
  else .genWrite a v

/-- A host write into BAR0. -/
def Act.bar0Write (o : Nat) (v : Word) : Act :=
  let a := bar0 + o
  match bar0At o with
  | .page p x => .pageWrite p x a v
  | .hostPage =>
    if o < 0x120040 then .attnAck ((o - 0x120000) / 8) v
    else if a == R.hostAttnCfg then .attnCfgWrite v
    else .genWrite a v
  | .reserved => .skip

/-- A written value without the ones that meet, in their own clock, a set of the same W1C bit: that bit stays set (R5). -/
def untied (a : Nat) (v tied : Word) : Word :=
  match regDesc a with
  | some d => d.flds.foldl (fun w f => if f.acc == .w1c then f.put w (f.get v &&& (f.max ^^^ f.get tied)) else w) v
  | none => v

/-- REGISTER_WRITE: a device register by its DPA, or a word of BAR0; BAR4 is read-only (R4, R9, R29, R115, R286).
`tied`: the bits that the hardware sets in the clock of the write, whose command comes first in the queue (R5; log 2). -/
def execRegisterWrite (who addr size : Nat) (val tied : Word) (s : State) : Out := Act.out s <|
  let whole : Bool := size == 8 && addr % 8 == 0
  let val := untied addr val tied
  if inBar0 addr then
    if s.bar0Bad (addr - bar0) then .violation 256 violMailbox
    else if whole then .bar0Write (addr - bar0) val
    else .violation (bar0Owner (addr - bar0)) violRegister
  else if 0x300000000 ≤ addr && addr < 0x400000000 then
    if who == 256 && whole && (s.peek addr).isSome then .devWrite addr val
    else .when (who < 258) (.violation who violRegister)
  else .skip

/-! ### Reads -/

/-- The RC fields of a register return to their reset values (R4), or to what events of the read's own clock brought (R5). -/
def Act.rcClear (a : Nat) (late : Word) : Act := .get fun s =>
  match regDesc a with
  | some d => .when (d.flds.any (·.acc == .rc))
      (.setRegs a (d.flds.foldl (fun w f => if f.acc == .rc then f.put w (f.rst + f.get late) else w) (s.rd a)))
  | none => .skip

/-- The RC fields of a register hold a value and what events added to it, counted or as set bits (R5). -/
def rcTied (d : RegBlock) (cur was late : Word) : Bool :=
  d.flds.all fun f => f.acc != .rc || f.get cur == min (f.get was + f.get late) f.max || f.get cur == f.get was ||| f.get late

/-- The value a read of a register returns and what its RC fields keep: without a tie all of the value, and nothing is kept. -/
def rcSplit (a : Nat) (v : Word) (tie : Option (Word × Word)) : Word × Word :=
  match regDesc a, tie with
  | some d, some (was, late) =>
    if rcTied d v was late then (d.flds.foldl (fun w f => if f.acc == .rc then f.put w (f.get was) else w) v, late) else (v, 0)
  | _, _ => (v, 0)

/-- The read of a listed register: an odd counter that its even counter latched shows the latched value (R402). -/
def Act.regRead (a : Nat) (tie : Option (Word × Word)) (k : Word → Act) : Act := .get fun s =>
  let v := (s.peek a).getD 0
  match pmcPlace a with
  | some (n, o) =>
    if o < 0x80 then
      let pair := setBase n + 32 * (o / 32)
      let chained := s.fld pair F.gpmcCtl_CHAIN == 1
      let shown : Word := match s.sys.latch.find? (·.1 == a) with
        | some e => BitVec.ofNat 64 e.2
        | none => v
      .all [
        .unlatch n (o / 16),
        .when (chained && o % 32 == 8) (.modSys fun y => { y with latch := (pair + 24, s.fld (pair + 24) F.gpmcVal_VALUE) :: y.latch }),
        k shown]
    else k v
  | none => .all [k (rcSplit a v tie).1, .rcClear a (rcSplit a v tie).2]

/-- A byte of BAR4: the log window, the mirrors, the state of the dump rings (R420). -/
def State.bar4Byte (s : State) (o : Nat) : Nat :=
  let ofWord (w k : Nat) : Nat := w / 256 ^ k % 256
  if o < 0xF0000 then
    let p := s.fld R.recCfg F.recCfg_WIN * 65536 + o
    if p < s.fld R.recStat F.recStat_WR_PTR then ofWord (s.logAt (p / 8)).toNat (p % 8) else 0xFF
  else if o < 0xF0020 then ofWord (s.rd (R.recStat + (o - 0xF0000) / 8 * 8)).toNat (o % 8)
  else if 0xF1000 ≤ o && o < 0xF1000 + 33 * 16 then
    let d := s.dumpsAt ((o - 0xF1000) / 16)
    ofWord (if o % 16 < 8 then d.lastSeq else min d.missed (2 ^ 32 - 1)) (o % 8)
  else 0

/-- RC_READ: a read of a device register, of BAR0 or of BAR4. `tie`: the register's value before events of the clock of the read, whose
commands come first in the queue, and what they added to its RC fields (R5; log 2). -/
def execRcRead (who addr size : Nat) (tie : Option (Word × Word)) (s : State) : Out := Act.out s <|
  let whole : Bool := size == 8 && addr % 8 == 0
  if inBar0 addr then
    if s.bar0Bad (addr - bar0) then .all [.violation 256 violMailbox, .emit (.regRead who addr 0)]
    else if !whole then .all [.violation (bar0Owner (addr - bar0)) violRegister, .emit (.regRead who addr 0)]
    else .regRead addr tie fun v => .emit (.regRead who addr v)
  else if inBar4 addr then
    .emit (.regRead who addr (BitVec.ofNat 64 (leNat ((List.range (min size 8)).map fun i => BitVec.ofNat 8 (s.bar4Byte (addr - bar4 + i))))))
  else if 0x300000000 ≤ addr && addr < 0x400000000 then
    if who == 256 && whole && (s.peek addr).isSome then .regRead addr tie fun v => .emit (.regRead who addr v)
    else .all [.when (who < 258) (.violation who violRegister), .emit (.regRead who addr 0)]
  else .skip

/-! ### Memory accesses by requester (R8, R9, R115, R120, R126-R131, R135) -/

/-- A requester of the manager context, which uses DPA, reaches a listed register as a whole aligned word: no violation (R8, R9). -/
def State.reachesReg (s : State) (req : Requester) (addr len : Nat) : Bool :=
  s.reqPart req == 0x100 && len == 8 && addr % 8 == 0 && 0x300000000 ≤ addr && addr < 0x400000000 && (s.peek addr).isSome

/-- MEMORY_READ: a read in its requester's address space, served line by line at the home arbiters (R120, R126, R128-R130, R135). -/
def execMemoryRead (req : Requester) (addr len : Nat) (upset : List (Nat × Upset)) (s : State) : Out := Act.out s <| .all [
  .upsets upset,
  if s.reachesReg req addr len then .regRead addr none fun v => .emit (.memRead req (leBytes v.toNat 8) false)
  else .readMem (s.reqPart req) (reqMaster req) addr len (fun d err => .all [.emit (.memRead req d err), .when err (.memError req)]) (reqSrc req)]

/-- MEMORY_WRITE: a write in its requester's address space, each line or word judged on its own (R127, R131, R135). -/
def execMemoryWrite (req : Requester) (addr : Nat) (data : List Byte) (s : State) : Out := Act.out s <|
  if s.reachesReg req addr data.length then .all [.devWrite addr (BitVec.ofNat 64 (leNat data)), .emit (.memWrote req false)]
  else .writeMem (s.reqPart req) (reqMaster req) addr data (fun err => .all [.emit (.memWrote req err), .when err (.memError req)]) (reqSrc req)

/-- LOCK_WRITE: only the manager context reaches GW.LOCK (R6). -/
def execLockWrite (who : Nat) (val : Word) (s : State) : Out := Act.out s <|
  if who == 256 then .lockWrite val else .when (who < 258) (.violation who violRegister)

/-! ### Snapshots (R411, R413, R419) -/

/-- A 32-bit half of a device register, read without clearing; anything else is zero. -/
def State.half (s : State) (a : Nat) : Nat :=
  if 0x300000000 ≤ a && a < 0x400000000 then
    (match s.peek (a / 8 * 8) with
    | some w => if a % 8 == 4 then w.toNat / 2 ^ 32 else w.toNat % 2 ^ 32
    | none => 0)
  else 0

/-- The 64 bytes of the snapshot record of a trigger. -/
def State.snapshot (s : State) (t : Nat) : List Word :=
  let g := s.trigsAt t
  let v (i : Nat) : Nat := if i < g.nval then s.half (g.addrs.getD i 0) else 0
  let seq := (g.tseq + 2 ^ 32 + 1 - g.due) % 2 ^ 32
  ([0xF000 + t + g.nval * 2 ^ 16 + s.hours % 2 ^ 32 * 2 ^ 32, s.clk.pcyc % 2 ^ 32 + seq * 2 ^ 32] ++
    (List.range 6).map fun i => v (2 * i) + v (2 * i + 1) * 2 ^ 32).map fun w => BitVec.ofNat 64 w

/-- SNAPSHOT_RECORD: Uhlile reads the halves of a trigger that has fired and submits the record. -/
def execSnapshotRecord (trig : Nat) (s : State) : Out := Act.out s <|
  .when (trig < 16 && (s.trigsAt trig).due != 0) (.all [
    .record 0x00 0x3FF (0xF000 + trig) (s.snapshot trig),
    .modTrigs trig fun g => { g with due := g.due - 1 }])

/-! ### Command lists (R311) -/

/-- The immediate commands, by opcode (R302, R320). -/
def immediate (op : Nat) : JCmd → Act := match op with
  | 0x0001 => .doDevInfo
  | 0x0002 => .doRecoveryLoad true
  | 0x0100 => .doSliceCreate
  | 0x0103 => .doPasidBind
  | 0x0104 => .doPasidUnbind
  | 0x0105 => .doSliceQuery
  | 0x0107 => .doArrayMove
  | 0x0201 => .doCtxStop
  | 0x0301 => .doSliceResume
  | 0x0400 => .doCellSet
  | 0x0401 => .doCellApply
  | 0x0402 => .doCellDiscard
  | 0x0403 => .doNrxLoad
  | 0x0404 => .doNrxUnload
  | 0x0405 => .doDspLoad
  | 0x0406 => .doPortConfig
  | 0x0500 => .doPowerCapSet
  | 0x0501 => .doTimeSet
  | 0x0502 => .doRetire
  | 0x0503 => .doRetireClear
  | 0x0600 => .doCtrProgram
  | 0x0601 => .doCtrRead
  | 0x0602 => .doCtrSampleCfg
  | 0x0603 => .doCtrSampleRead
  | 0x0605 => .doCtrDumpStop
  | 0x0700 => .doHealthCfg
  | 0x0701 => .doHealthQuery
  | 0x0702 => .doHealthClear
  | 0x0703 => .doStepReport
  | 0x0800 => .doRecRead
  | 0x0801 => .doRecFreeze
  | 0x0802 => .doRecThaw
  | 0x0803 => .doRecClear
  | 0x0804 => .doRecLeash
  | 0x0805 => .doRecTrigger
  | 0x0806 => .doRecStatus
  | 0x0900 => .doAttReport
  | 0x0901 => .doAttChain
  | 0x0902 => .doAttExtend
  | _ => fun _ => .skip

/-- The command of a list entry; OWN and NOTIFY are ignored. -/
def listCmd (part : Nat) (reply : Bool × Nat × Nat) (d : List Byte) : JCmd where
  part := part
  hdr := (List.range 4).map fun i => let w := leNat ((d.drop (8 * i)).take 8); if i == 0 then w % 2 ^ 62 else w
  args := (List.range (min 28 ((bits (leNat ((d.drop 8).take 8)) 47 32 + 7) / 8))).map fun i => leNat ((d.drop (32 + 8 * i)).take 8)
  list := some reply

/-- The entry has been answered: the list goes on, or ends with the first that failed. -/
def Act.listNext (p h : Nat) : Act := .get fun s =>
  match (s.partsAt p).lists with
  | [] => .skip
  | l :: _ => .when (l.handle == h) (.all [
      .modParts p fun x => { x with
        launches := x.launches.map fun n => if n.handle == h then
          { n with
            doneCnt := l.next + 1
            args := if l.last != stOk && n.args.getD 0 0xFFFF == 0xFFFF then [l.next] else n.args } else n
        lists := x.lists.map fun m => if m.handle == h then { m with next := l.next + 1 } else m },
      .when ((l.last != stOk && l.stopOnErr) || l.next + 1 ≥ l.nent) (.listEnd p h stOk)])

/-- LIST_ENTRY: the next entry of the partition's first list; a dsp_load that must wait holds the list (R183, R311). -/
def execListEntry (part : Nat) (fetchOk : Bool) (s : State) : Out := Act.out s <|
  match (s.partsAt part).lists with
  | [] => .skip
  | l :: _ =>
    let host := bit l.addr 0
    let pasid := (s.pasidOf part l.pasidIdx).getD noPasid
    let a := l.addr / 2 * 2 + 256 * l.next
    let rep := (host, pasid, l.replyAddr / 2 * 2 + 32 * l.next)
    .when (!s.notReady && !s.sys.uhDown) (
      if host && !fetchOk then .listEnd part l.handle stDma
      else .spaceRead part host pasid a 256 fun d err =>
        let j := listCmd part rep d
        if err then .listEnd part l.handle stDma
        else if !host && (s.locate part rightR a 256).isNone then .all [.refuse j stBadOpcode 0, .listNext part l.handle]
        else .when (!(s.loadWaits j)) (.all [.perform j (immediate j.opcode), .listNext part l.handle]))

end Sys2Proof.Machine
end

