-- ==== Sys2Proof/Machine/Vector.lean ====
section
/-! DEFINITION. The vector unit: the issue of an instruction of a bundle, loads, arithmetic, comparisons, reductions, transcendental
functions, conversions, L128, moves and sync (R92, R103-R109). -/

namespace Sys2Proof.Machine

/-! ### Instruction words (R104) -/

def vOp (w : Nat) : Nat := fbits w 63 56

/-- The fields of an instruction word, OP aside. -/
def vFields (w : Nat) : Nat × Nat × Nat × Nat × Nat × Nat :=
  (fbits w 55 52, fbits w 51 47, fbits w 46 42, fbits w 41 37, fbits w 36 32, fbits w 31 0)

def vKey (v : VInstr) : Nat × Nat × Nat × Nat × Nat × Nat := (v.dt, v.vd, v.va, v.vb, v.vc, v.imm.toNat)

/-- Address of the bundle whose instruction executes. -/
def State.bundlePc (s : State) (c x : Nat) : Nat := s.fld (R.coreCtxPc c x) F.coreCtxPc_PC - 64

/-- The instruction leaves the bundle. -/
def Act.vPop (c x : Nat) : Act := .get fun s => .all [
  .pmc (some c) 2 0 1 (s.ctxPart c x) 2,
  .modCtxs (c * 8 + x) fun t => { t with bundle := t.bundle.drop 1 }]

/-- Issue of the instruction in front, if it is one of the class [lo, hi] with these fields (log 23), nothing that it must wait for holds it
(`held`: a wait of R92, which CTX_WAIT shows) and, for the vector unit, the turn is its stream's (R108). -/
def Act.vIssue (c x lo hi : Nat) (v : VInstr) (held : Bool) (body : Act) : Act := .get fun s =>
  match s.vFront c x with
  | some w => .when (lo ≤ vOp w && vOp w ≤ hi && vFields w == vKey v) (
      if held then .ctxWait c x true
      else .when (lo ≥ 0x58 || s.vTurn c x) (.all [
        .when (bit (s.fld (R.coreSeqStat c) F.coreSeqStat_CTX_WAIT) x) (.ctxWait c x false),
        .when (lo < 0x58) (.vServed c x), .vPop c x, body]))
  | none => .skip

/-- The residue check of a CHK owner's instruction (R107): one re-execution is counted, a second mismatch faults the owner with code
0x08 and fences the core. -/
def Act.vResidue (c x : Nat) (v : VInstr) (body : Act) : Act := .get fun s =>
  if !(s.isChk (s.ctxPart c x)) || v.res == 0 then body
  else .all [
    .incF (R.coreVecStat c) F.coreVecStat_RES_RETRY,
    .pmc (some c) 2 2 1 (s.ctxPart c x) 2,
    if v.res == 1 then body
    else .all [
      .setF (R.coreVecStat c) F.coreVecStat_SUSPECT 1,
      .coreFault c x 8 (s.bundlePc c x),
      .coreFence c (s.ctxPart c x) 8 (s.bundlePc c x)]]

/-- A field of the instruction is invalid: fault code 0x01. -/
def Act.vInvalid (c x : Nat) : Act := .get fun s => .coreFault c x 1 (s.bundlePc c x)

/-! ### Registers -/

/-- The 64 lanes of a register of the core. -/
def State.vreg64 (s : State) (c r : Nat) : List Nat := (List.range 64).map fun i => s.vregAt ((c * 32 + r % 32) * 64 + i)

def Act.setVreg64 (c r : Nat) (l : List Nat) : Act :=
  .each l.zipIdx fun (v, i) => .setVreg ((c * 32 + r % 32) * 64 + i) (v % 2 ^ 32)

/-- The 16 L128 values of a register, and a register of 16 values: four lanes each, the lowest first (R104, R10). -/
def lanesL128 (l : List Nat) : List L128 := (List.range 16).map fun i =>
  BitVec.ofNat 128 ((List.range 4).foldl (fun x k => x + l.getD (4 * i + k) 0 * 2 ^ (32 * k)) 0)
def l128Lanes (q : List L128) : List Nat := q.flatMap fun v => (List.range 4).map fun k => v.toNat / 2 ^ (32 * k) % 2 ^ 32

def lanesOfBytes (d : List Byte) : List Nat := (List.range 64).map fun i => leNat ((d.drop (4 * i)).take 4)
def bytesOfLanes (l : List Nat) : List Byte := l.flatMap fun v => leBytes v 4

/-! ### Loads and stores (R90, R92, R103, R104) -/

/-- VLD: 256 B from the core-store line IMM names; pending lines are waited for, a pending-failed line faults with 0x09. -/
def execVld (core ctx : Nat) (v : VInstr) (s : State) : Out := Act.out s <|
  let part := s.ctxPart core ctx
  let off := v.imm.toNat % 65536 * 64
  .vIssue core ctx 0 0x0F v (s.csState part core off 256 == 1) <|
    if s.csState part core off 256 == 2 then .coreFault core ctx 9 (s.bundlePc core ctx)
    else .all [
      .when (!(s.csOwned part core off 256)) (.violation part violMemory),
      .csFix part core off 256 2,
      .pmc (some core) 3 0 4 part 2,
      .get fun t =>
        let snap := t.csSnap part core off 256
        .setVreg64 core v.vd (lanesOfBytes ((List.range 256).map fun i => Map.get (fun _ => (0 : Byte)) snap i))]

/-- VST: 256 B to the core-store line IMM names. -/
def execVst (core ctx : Nat) (v : VInstr) (s : State) : Out := Act.out s <|
  .vIssue core ctx 0 0x0F v false (.csWrite (s.ctxPart core ctx) core (v.imm.toNat % 65536 * 64) (bytesOfLanes (s.vreg64 core v.va)))

/-- VLDA: accumulator line IMM[9:0] into the eight registers from VD. -/
def execVlda (core ctx : Nat) (v : VInstr) (s : State) : Out := Act.out s <|
  let part := s.ctxPart core ctx
  let line := v.imm.toNat % 1024
  .vIssue core ctx 0 0x0F v (s.accLineWait core ctx line) <|
    if v.vd > 24 then .vInvalid core ctx
    else if !(s.ownsAcc part core line) then .all [.violation part violMemory, .each (List.range 8) fun k => .setVreg64 core (v.vd + k) (List.replicate 64 0)]
    else if s.accBad core line 1 then .coreFault core ctx 9 (s.bundlePc core ctx)
    else .all [
      .lineFix (accDpa core line) 2048 part 2,
      .get fun t => .each (List.range 8) fun k =>
        .setVreg64 core (v.vd + k) (l128Lanes ((List.range 16).map fun i => t.accAt ((core * 1024 + line) * 128 + 16 * k + i)))]

/-- VSTA: the eight registers from VA into accumulator line IMM[9:0]. -/
def execVsta (core ctx : Nat) (v : VInstr) (s : State) : Out := Act.out s <|
  let part := s.ctxPart core ctx
  let line := v.imm.toNat % 1024
  .vIssue core ctx 0 0x0F v (s.accLineWait core ctx line) <|
    if v.va > 24 then .vInvalid core ctx
    else if !(s.ownsAcc part core line) then .violation part violMemory
    else .all [
      .each (wordsOf (accDpa core line) 2048) fun k => .setErrs k ⟨0, false⟩,
      .each (List.range 8) fun k => .each (lanesL128 (s.vreg64 core (v.va + k))).zipIdx fun (q, i) =>
        .setAcc ((core * 1024 + line) * 128 + 16 * k + i) q]

/-! ### Lane-wise arithmetic (R104) -/

/-- A lane-wise instruction of FP32 or BF16. -/
def Act.vLanes (c x lo hi : Nat) (v : VInstr) (checked : Bool) (f : Nat → Nat → Nat → Nat) : Act :=
  .vIssue c x lo hi v false <|
    let body : Act := .get fun s =>
      .setVreg64 c v.vd (((s.vreg64 c v.va).zip ((s.vreg64 c v.vb).zip (s.vreg64 c v.vc))).map fun (a, b, d) => f a b d)
    if checked then .vResidue c x v body else body

def execVadd (core ctx : Nat) (v : VInstr) (s : State) : Out :=
  Act.out s <| .vLanes core ctx 0x10 0x2F v true fun a b _ => laneArith 0 v.dt a b 0
def execVsub (core ctx : Nat) (v : VInstr) (s : State) : Out :=
  Act.out s <| .vLanes core ctx 0x10 0x2F v true fun a b _ => laneArith 1 v.dt a b 0
def execVmul (core ctx : Nat) (v : VInstr) (s : State) : Out :=
  Act.out s <| .vLanes core ctx 0x10 0x2F v true fun a b _ => laneArith 2 v.dt a b 0
/-- VFMA: VA x VB + VC with one rounding. DESIGN CHOICE (log 46): R104 does not say which source is the addend; it is VC. -/
def execVfma (core ctx : Nat) (v : VInstr) (s : State) : Out :=
  Act.out s <| .vLanes core ctx 0x10 0x2F v true fun a b d => laneArith 3 v.dt a b d
def execVmax (core ctx : Nat) (v : VInstr) (s : State) : Out :=
  Act.out s <| .vLanes core ctx 0x10 0x2F v false fun a b _ => laneMax 4 v.dt a b
def execVmin (core ctx : Nat) (v : VInstr) (s : State) : Out :=
  Act.out s <| .vLanes core ctx 0x10 0x2F v false fun a b _ => laneMax 5 v.dt a b
def execVabs (core ctx : Nat) (v : VInstr) (s : State) : Out :=
  Act.out s <| .vLanes core ctx 0x10 0x2F v false fun a _ _ => laneSignOp 6 v.dt a
def execVneg (core ctx : Nat) (v : VInstr) (s : State) : Out :=
  Act.out s <| .vLanes core ctx 0x10 0x2F v false fun a _ _ => laneSignOp 7 v.dt a

/-! ### Compare and select (R104) -/

def execVcmplt (core ctx : Nat) (v : VInstr) (s : State) : Out :=
  Act.out s <| .vLanes core ctx 0x30 0x37 v false fun a b _ => laneCmp 0 v.dt a b
def execVcmple (core ctx : Nat) (v : VInstr) (s : State) : Out :=
  Act.out s <| .vLanes core ctx 0x30 0x37 v false fun a b _ => laneCmp 1 v.dt a b
def execVcmpeq (core ctx : Nat) (v : VInstr) (s : State) : Out :=
  Act.out s <| .vLanes core ctx 0x30 0x37 v false fun a b _ => laneCmp 2 v.dt a b
/-- VSEL. DESIGN CHOICE (log 46): R104 does not say which source selects; VA where the comparison result in VC is true, else VB. -/
def execVsel (core ctx : Nat) (v : VInstr) (s : State) : Out :=
  Act.out s <| .vLanes core ctx 0x30 0x37 v false fun a b d => laneSel a b d

/-! ### Reductions (R105) -/

/-- A reduction over the IMM[15:0] registers from VA. -/
def Act.vReduce (c x : Nat) (v : VInstr) (checked : Bool) (f : Nat → Nat → Nat) : Act :=
  .vIssue c x 0x38 0x3F v false <|
    let n := v.imm.toNat % 65536
    if n == 0 || v.va + n > 32 then .vInvalid c x
    else
      let body : Act := .get fun s => .setVreg64 c v.vd (reduceLanes f ((List.range n).map fun i => s.vreg64 c (v.va + i)))
      if checked then .vResidue c x v body else body

/-- VRSUM: every addition is rounded to the data type (R105). DESIGN CHOICE (log 46): so are the additions of BF16 lanes, each to BF16. -/
def execVrsum (core ctx : Nat) (v : VInstr) (s : State) : Out :=
  Act.out s <| .vReduce core ctx v true fun a b => laneArith 0 v.dt a b 0
def execVrmax (core ctx : Nat) (v : VInstr) (s : State) : Out :=
  Act.out s <| .vReduce core ctx v false fun a b => laneRMax 4 v.dt a b
def execVrmin (core ctx : Nat) (v : VInstr) (s : State) : Out :=
  Act.out s <| .vReduce core ctx v false fun a b => laneRMax 5 v.dt a b

/-! ### Transcendental functions (R106) -/

/-- A function of FP32 lanes; a BF16 lane is widened exactly and its result rounded RNE once. A finite result beyond the largest finite
BF16 is open, as log 10 leaves every such lane. -/
def laneFun (op dt x : Nat) : Nat :=
  if dt == 8 then
    let r := bf16P.conv 0 0 (f32P.decode (laneTrans op (x % 65536 * 65536)))
    if r.sat then Config.vecOpen op x 0 0 % 2 ^ 32 else r.bits
  else laneTrans op x

def Act.vTrans (c x : Nat) (v : VInstr) (op : Nat) : Act :=
  .vLanes c x 0x40 0x47 v true fun a _ _ => laneFun op v.dt a

def execVexp2 (core ctx : Nat) (v : VInstr) (s : State) : Out := Act.out s <| .vTrans core ctx v 8
def execVlog2 (core ctx : Nat) (v : VInstr) (s : State) : Out := Act.out s <| .vTrans core ctx v 9
def execVrcp (core ctx : Nat) (v : VInstr) (s : State) : Out := Act.out s <| .vTrans core ctx v 10
def execVrsqrt (core ctx : Nat) (v : VInstr) (s : State) : Out := Act.out s <| .vTrans core ctx v 11
def execVtanh (core ctx : Nat) (v : VInstr) (s : State) : Out := Act.out s <| .vTrans core ctx v 12
def execVerf (core ctx : Nat) (v : VInstr) (s : State) : Out := Act.out s <| .vTrans core ctx v 13

/-! ### Conversions (R54-R57, log 23) -/

/-- The 64 source values: the lanes of VA, or with DT = L128 the four registers from VA at the anchor in IMM[9:0]. DESIGN CHOICE (log 46):
a DT other than BF16 and L128 is read as FP32; R54 names no other source format. -/
def State.convSrc (s : State) (c : Nat) (v : VInstr) : List Val :=
  if v.dt == 0xC then
    (List.range 4).flatMap fun k => (lanesL128 (s.vreg64 c (v.va + k))).map fun q => .fin (l128Val (sext 10 (v.imm.toNat % 1024)) q)
  else (s.vreg64 c v.va).map fun x => laneVal v.dt x

/-- The random bits of the lanes (R55). DESIGN CHOICE (log 46): the linear index of a lane of VCVT, VCVTS and VLCVT is the command's index
plus the lane number; R55 fixes the index for the output step of a tile only. -/
def State.convRand (s : State) (part stream index : Nat) : List Nat :=
  (List.range 64).map fun i => srBits (s.partsAt part).seed (BitVec.ofNat 64 (s.stepOf part)) stream (index + i)

/-- CSPEC and CSAT of CORE.CTX.CONV. -/
def Act.convCount (c x : Nat) (cs : List Conv) : Act := .get fun s => .all [
  .incF (R.coreCtxConv c x) F.coreCtxConv_CSPEC (cs.countP (·.spec)),
  .incF (R.coreCtxConv c x) F.coreCtxConv_CSAT (cs.countP (·.sat)),
  .pmc (some c) 2 3 (cs.countP (·.sat)) (s.ctxPart c x) 2]

/-- Two segments of 32 with their block scales. -/
def convSegs (fmt rnd : Nat) (us : List Nat) (vs : List Val) : List Nat × List Conv :=
  let a := convBlock fmt rnd (us.take 32) (vs.take 32)
  let b := convBlock fmt rnd (us.drop 32) (vs.drop 32)
  ([a.1, b.1], a.2 ++ b.2)

/-- A reserved format or rounding mode, or source registers beyond V31. -/
def convInvalid (v : VInstr) (outFmt rnd : Nat) : Bool := outFmt > 11 || rnd > 2 || (v.dt == 0xC && v.va > 28)

/-- VCVT: lane by lane; a format whose block scale is Required is converted with the scale of its segment (R57). -/
def execVcvt (core ctx : Nat) (v : VInstr) (outFmt rnd : Nat) (srStream : BitVec 32) (index : Word) (s : State) : Out := Act.out s <|
  .vIssue core ctx 0x48 0x4F v false <|
    if convInvalid v outFmt rnd then .vInvalid core ctx
    else
      let us := s.convRand (s.ctxPart core ctx) srStream.toNat index.toNat
      let vs := s.convSrc core v
      let cs := if fmtScale outFmt == 2 then (convSegs outFmt rnd us vs).2 else (vs.zip us).map fun (x, u) => convTo outFmt rnd u x
      .all [.setVreg64 core v.vd (cs.map (·.bits)), .convCount core ctx cs]

/-- VCVTS: block-scaled conversion of the two segments; the elements go to VD, the two scale codes to the low lanes of VD + 1. DESIGN
CHOICE (log 46): a target that has no block scale (TERN, BF16, FP16, FP32) is an invalid field, fault code 0x01. -/
def execVcvts (core ctx : Nat) (v : VInstr) (outFmt rnd : Nat) (srStream : BitVec 32) (index : Word) (s : State) : Out := Act.out s <|
  .vIssue core ctx 0x48 0x4F v false <|
    if convInvalid v outFmt rnd || v.vd > 30 || fmtScale outFmt == 0 then .vInvalid core ctx
    else
      let r := convSegs outFmt rnd (s.convRand (s.ctxPart core ctx) srStream.toNat index.toNat) (s.convSrc core v)
      .all [
        .setVreg64 core v.vd (r.2.map (·.bits)),
        .each r.1.zipIdx fun (c, i) => .setVreg ((core * 32 + v.vd + 1) * 64 + i) c,
        .convCount core ctx r.2]

/-! ### L128 (R50, R104) -/

/-- The exact sum of two L128 values leaves the signed 128-bit range. -/
def l128Wraps (a b : L128) : Bool := let e : Int := a.toInt + b.toInt; e < -(2 ^ 127 : Int) || e ≥ (2 ^ 127 : Int)

/-- VLADD: sixteen L128 sums modulo 2^128. A wrap has no tile status to stand in; the model sends it out as a note (log 23). -/
def execVladd (core ctx : Nat) (v : VInstr) (s : State) : Out := Act.out s <|
  .vIssue core ctx 0x50 0x57 v false <| .vResidue core ctx v <|
    let ab := (lanesL128 (s.vreg64 core v.va)).zip (lanesL128 (s.vreg64 core v.vb))
    .all [
      .setVreg64 core v.vd (l128Lanes (ab.map fun (a, b) => a + b)),
      .when (ab.any fun (a, b) => l128Wraps a b) (.emit (.note 1 [core, ctx]))]

/-- VLCVT: the 64 FP32 lanes of VA at anchor IMM[9:0] into the four registers from VD, rounded by RND (R54). DESIGN CHOICE (log 46): its
special inputs and saturations, which R56 counts for every conversion, go to CORE.CTX.CONV, as R104 says of the class of VCVT. -/
def execVlcvt (core ctx : Nat) (v : VInstr) (rnd : Nat) (srStream : BitVec 32) (index : Word) (s : State) : Out := Act.out s <|
  .vIssue core ctx 0x50 0x57 v false <|
    if v.vd > 28 || rnd > 2 then .vInvalid core ctx
    else
      let us := s.convRand (s.ctxPart core ctx) srStream.toNat index.toNat
      let cs := ((s.vreg64 core v.va).zip us).map fun (x, u) => convL128 (sext 10 (v.imm.toNat % 1024)) rnd u (laneVal 11 x)
      .all [
        .each (List.range 4) fun k => .setVreg64 core (v.vd + k) (l128Lanes (((cs.drop (16 * k)).take 16).map fun r => BitVec.ofNat 128 r.bits)),
        .convCount core ctx cs]

/-! ### Moves and sync (R92, R103, R109) -/

/-- Byte ranges of the core store that a run reads: place and length. -/
def runRanges (t : TileRun) : List (Nat × Nat) :=
  let (b, ws, sc) := runBlock t
  (runRows t ++ runScales t).map (fun (_, off, n) => (off, n)) ++ [b, ws, sc]

/-- The wide passes and half-passes of a tile. -/
def wideRuns (t : TileRun) : List TileRun := (List.range (widePasses t.words)).flatMap fun p =>
  (List.range (wideHalves t.words)).map fun h => { t with pass := some ⟨p, h, [], 0, 0, 0⟩ }

/-- Byte ranges that a tile may still read (R92): those of a run whose last beat has not entered or whose load has not begun, of a tile
that waits for another run all of that run's; and the wide copy while a resole of the tile is possible or passes of it are to come (R59). -/
def TileRun.ranges (t : TileRun) : List (Nat × Nat) :=
  (if t.again != 0 || !t.fed || t.load != 0 then runRanges t else []) ++
  (if dWideFmt t.words != 0 && (t.pass.isSome || dGuardPol t.words == 1) then
    (wideRuns t).flatMap fun u => match t.pass, u.pass with
      | some p, some q => if q.pass > p.pass || (q.pass == p.pass && q.half > p.half) then runRanges u else []
      | _, _ => runRanges u
  else [])

/-- An earlier entry of the stream has not finished reading lines that the move writes (R92). -/
def State.moveWait (s : State) (c x line len : Nat) : Bool :=
  (s.tilesOf c x).any fun t => t.ranges.any fun (off, n) => n != 0 && off < line * 64 + len && line * 64 < off + n

/-- MOVE: up to 64 KiB between an owner address and core-store lines; the lines it writes are pending until the data arrives. -/
def execMove (core ctx : Nat) (v : VInstr) (toStore : Bool) (addr line len : Nat) (s : State) : Out := Act.out s <|
  let part := s.ctxPart core ctx
  .vIssue core ctx 0x58 0x5F v (toStore && s.moveWait core ctx line len) <|
    if len > 65536 then .vInvalid core ctx
    else .all [
      .when toStore (.each (csLines (line * 64) len) fun l => .when (s.ownsCs part core l) (.setPend (core * 65536 + l) 1)),
      .modCtxs (core * 8 + ctx) fun t =>
        { t with seq := t.seq + 1, moves := t.moves ++ [⟨toStore, addr, line, len, t.seq, s.bundlePc core ctx⟩] }]

/-- SWAIT: the stream waits until the sync word has reached the threshold (R109). -/
def execSwait (core ctx : Nat) (v : VInstr) (idx : Nat) (val : BitVec 16) (s : State) : Out := Act.out s <|
  let part := s.ctxPart core ctx
  match s.vFront core ctx with
  | none => .skip
  | some w => .when (0x60 ≤ vOp w && vOp w ≤ 0x63 && vFields w == vKey v) (
    if s.syncBad part idx then .coreFault core ctx 9 (s.bundlePc core ctx)
    else if s.syncOk part idx val.toNat then .all [
      .modCtxs (core * 8 + ctx) fun t => { t with wait := none },
      .ctxWait core ctx false,
      .vPop core ctx]
    else .all [.modCtxs (core * 8 + ctx) fun t => { t with wait := some (idx, val.toNat) }, .ctxWait core ctx true])

/-- SSIG: a signal is issued; SYNC_SIGNAL performs it (R109). -/
def execSsig (core ctx : Nat) (v : VInstr) (idx : Nat) (s : State) : Out := Act.out s <|
  .vIssue core ctx 0x60 0x63 v false <| .all [
    .signal (s.ctxPart core ctx) idx (.core core ctx) [] (s.ctxsAt (core * 8 + ctx)).seq (s.bundlePc core ctx),
    .modCtxs (core * 8 + ctx) fun t => { t with seq := t.seq + 1 }]

end Sys2Proof.Machine
end

