-- ==== Sys2Proof/Machine/Dispatch.lean ====
section
/-! DEFINITION. One arm for each command: a direct call of its meaning. -/

namespace Sys2Proof.Machine

/-- The effect of a command on everything but the queue. -/
def exec (i : Instr) (s : State) : Host.Outcome State Fault Refusal :=
  match i with
  | .registerWrite who addr size val tied => Sys2Proof.Machine.execRegisterWrite who addr size val tied s
  | .rcRead who addr size tie => Sys2Proof.Machine.execRcRead who addr size tie s
  | .lockWrite who val => Sys2Proof.Machine.execLockWrite who val s
  | .memoryRead req addr len upset => Sys2Proof.Machine.execMemoryRead req addr len upset s
  | .memoryWrite req addr data => Sys2Proof.Machine.execMemoryWrite req addr data s
  | .patrolRead dpa upset raced => Sys2Proof.Machine.execPatrolRead dpa upset raced s
  | .atomicOp req addr op => Sys2Proof.Machine.execAtomicOp req addr op s
  | .ueLogClear die val => Sys2Proof.Machine.execUeLogClear die val s
  | .tileEntry core ctx => Sys2Proof.Machine.execTileEntry core ctx s
  | .vectorBundle core ctx => Sys2Proof.Machine.execVectorBundle core ctx s
  | .mark core ctx => Sys2Proof.Machine.execMark core ctx s
  | .end_ core ctx => Sys2Proof.Machine.execEnd_ core ctx s
  | .stepBoundary slice => Sys2Proof.Machine.execStepBoundary slice s
  | .epochTimeout slice missing => Sys2Proof.Machine.execEpochTimeout slice missing s
  | .tileDispatch core ctx => Sys2Proof.Machine.execTileDispatch core ctx s
  | .bankLoad core arr => Sys2Proof.Machine.execBankLoad core arr s
  | .bankLoadComplete core arr => Sys2Proof.Machine.execBankLoadComplete core arr s
  | .moveDataArrival core ctx => Sys2Proof.Machine.execMoveDataArrival core ctx s
  | .weltVerdict core arr faults residue => Sys2Proof.Machine.execWeltVerdict core arr faults residue s
  | .weltRerun core arr => Sys2Proof.Machine.execWeltRerun core arr s
  | .resolePass core arr => Sys2Proof.Machine.execResolePass core arr s
  | .tileReplay core ctx => Sys2Proof.Machine.execTileReplay core ctx s
  | .conversion core => Sys2Proof.Machine.execConversion core s
  | .syncSignal part idx => Sys2Proof.Machine.execSyncSignal part idx s
  | .syncWaitTimeout core ctx => Sys2Proof.Machine.execSyncWaitTimeout core ctx s
  | .overrunAbort core arr => Sys2Proof.Machine.execOverrunAbort core arr s
  | .controlParityError core => Sys2Proof.Machine.execControlParityError core s
  | .vld core ctx v => Sys2Proof.Machine.execVld core ctx v s
  | .vst core ctx v => Sys2Proof.Machine.execVst core ctx v s
  | .vlda core ctx v => Sys2Proof.Machine.execVlda core ctx v s
  | .vsta core ctx v => Sys2Proof.Machine.execVsta core ctx v s
  | .vadd core ctx v => Sys2Proof.Machine.execVadd core ctx v s
  | .vsub core ctx v => Sys2Proof.Machine.execVsub core ctx v s
  | .vmul core ctx v => Sys2Proof.Machine.execVmul core ctx v s
  | .vfma core ctx v => Sys2Proof.Machine.execVfma core ctx v s
  | .vmax core ctx v => Sys2Proof.Machine.execVmax core ctx v s
  | .vmin core ctx v => Sys2Proof.Machine.execVmin core ctx v s
  | .vabs core ctx v => Sys2Proof.Machine.execVabs core ctx v s
  | .vneg core ctx v => Sys2Proof.Machine.execVneg core ctx v s
  | .vcmplt core ctx v => Sys2Proof.Machine.execVcmplt core ctx v s
  | .vcmple core ctx v => Sys2Proof.Machine.execVcmple core ctx v s
  | .vcmpeq core ctx v => Sys2Proof.Machine.execVcmpeq core ctx v s
  | .vsel core ctx v => Sys2Proof.Machine.execVsel core ctx v s
  | .vrsum core ctx v => Sys2Proof.Machine.execVrsum core ctx v s
  | .vrmax core ctx v => Sys2Proof.Machine.execVrmax core ctx v s
  | .vrmin core ctx v => Sys2Proof.Machine.execVrmin core ctx v s
  | .vexp2 core ctx v => Sys2Proof.Machine.execVexp2 core ctx v s
  | .vlog2 core ctx v => Sys2Proof.Machine.execVlog2 core ctx v s
  | .vrcp core ctx v => Sys2Proof.Machine.execVrcp core ctx v s
  | .vrsqrt core ctx v => Sys2Proof.Machine.execVrsqrt core ctx v s
  | .vtanh core ctx v => Sys2Proof.Machine.execVtanh core ctx v s
  | .verf core ctx v => Sys2Proof.Machine.execVerf core ctx v s
  | .vcvt core ctx v outFmt rnd srStream index => Sys2Proof.Machine.execVcvt core ctx v outFmt rnd srStream index s
  | .vcvts core ctx v outFmt rnd srStream index => Sys2Proof.Machine.execVcvts core ctx v outFmt rnd srStream index s
  | .vladd core ctx v => Sys2Proof.Machine.execVladd core ctx v s
  | .vlcvt core ctx v rnd srStream index => Sys2Proof.Machine.execVlcvt core ctx v rnd srStream index s
  | .move core ctx v toStore addr line len => Sys2Proof.Machine.execMove core ctx v toStore addr line len s
  | .swait core ctx v idx val => Sys2Proof.Machine.execSwait core ctx v idx val s
  | .ssig core ctx v idx => Sys2Proof.Machine.execSsig core ctx v idx s
  | .cellSet mb => Sys2Proof.Machine.execCellSet mb s
  | .cellApply mb => Sys2Proof.Machine.execCellApply mb s
  | .cellDiscard mb => Sys2Proof.Machine.execCellDiscard mb s
  | .nrxLoad mb => Sys2Proof.Machine.execNrxLoad mb s
  | .nrxUnload mb => Sys2Proof.Machine.execNrxUnload mb s
  | .dspLoad mb => Sys2Proof.Machine.execDspLoad mb s
  | .portConfig mb => Sys2Proof.Machine.execPortConfig mb s
  | .powerCapSet mb => Sys2Proof.Machine.execPowerCapSet mb s
  | .timeSet mb => Sys2Proof.Machine.execTimeSet mb s
  | .retire mb => Sys2Proof.Machine.execRetire mb s
  | .retireClear mb => Sys2Proof.Machine.execRetireClear mb s
  | .reqFetch cell esn torn => Sys2Proof.Machine.execReqFetch cell esn torn s
  | .paramRequest cell esn => Sys2Proof.Machine.execParamRequest cell esn s
  | .configRequest cell esn body => Sys2Proof.Machine.execConfigRequest cell esn body s
  | .startRequest cell esn => Sys2Proof.Machine.execStartRequest cell esn s
  | .stopRequest cell esn => Sys2Proof.Machine.execStopRequest cell esn s
  | .dlTtiRequest cell esn body => Sys2Proof.Machine.execDlTtiRequest cell esn body s
  | .ulTtiRequest cell esn body => Sys2Proof.Machine.execUlTtiRequest cell esn body s
  | .ulDciRequest cell esn body => Sys2Proof.Machine.execUlDciRequest cell esn body s
  | .txDataRequest cell esn body => Sys2Proof.Machine.execTxDataRequest cell esn body s
  | .payFetch cell esn => Sys2Proof.Machine.execPayFetch cell esn s
  | .dlEmit cell esn incomplete => Sys2Proof.Machine.execDlEmit cell esn incomplete s
  | .indicationWrite cell esn results => Sys2Proof.Machine.execIndicationWrite cell esn results s
  | .nrxCall cell esn cores sig prb chest nf pdu llr => Sys2Proof.Machine.execNrxCall cell esn cores sig prb chest nf pdu llr s
  | .uplanePacketRx port pkt => Sys2Proof.Machine.execUplanePacketRx port pkt s
  | .receptionWindowClose cell stream esn sym => Sys2Proof.Machine.execReceptionWindowClose cell stream esn sym s
  | .oneWayDelayMeasurement port body => Sys2Proof.Machine.execOneWayDelayMeasurement port body s
  | .tdUplinkSymbol cell stream esn sym => Sys2Proof.Machine.execTdUplinkSymbol cell stream esn sym s
  | .dspJobDispatch group radio desc stat cells => Sys2Proof.Machine.execDspJobDispatch group radio desc stat cells s
  | .dspProgramStart d => Sys2Proof.Machine.execDspProgramStart d s
  | .dspStatusRecord d ce ue => Sys2Proof.Machine.execDspStatusRecord d ce ue s
  | .dspRadioOverrun d => Sys2Proof.Machine.execDspRadioOverrun d s
  | .dspManagerOverrun d => Sys2Proof.Machine.execDspManagerOverrun d s
  | .dspWaitTimeout d => Sys2Proof.Machine.execDspWaitTimeout d s
  | .dspCmac d sl acc a b => Sys2Proof.Machine.execDspCmac d sl acc a b s
  | .dspCmacj d sl acc a b => Sys2Proof.Machine.execDspCmacj d sl acc a b s
  | .dspCmul d sl acc a b => Sys2Proof.Machine.execDspCmul d sl acc a b s
  | .dspRmac d sl acc a b => Sys2Proof.Machine.execDspRmac d sl acc a b s
  | .dspRmul d sl acc a b => Sys2Proof.Machine.execDspRmul d sl acc a b s
  | .dspAclr d sl acc => Sys2Proof.Machine.execDspAclr d sl acc s
  | .dspAadd d sl acc a b => Sys2Proof.Machine.execDspAadd d sl acc a b s
  | .dspAsub d sl acc a b => Sys2Proof.Machine.execDspAsub d sl acc a b s
  | .dspAshr d sl acc a sh => Sys2Proof.Machine.execDspAshr d sl acc a sh s
  | .dspNrw d sl vd acc sh => Sys2Proof.Machine.execDspNrw d sl vd acc sh s
  | .dspVadd d sl vd a b => Sys2Proof.Machine.execDspVadd d sl vd a b s
  | .dspVsub d sl vd a b => Sys2Proof.Machine.execDspVsub d sl vd a b s
  | .dspVneg d sl vd a => Sys2Proof.Machine.execDspVneg d sl vd a s
  | .dspVabs d sl vd a => Sys2Proof.Machine.execDspVabs d sl vd a s
  | .dspVmax d sl vd a b => Sys2Proof.Machine.execDspVmax d sl vd a b s
  | .dspVmin d sl vd a b => Sys2Proof.Machine.execDspVmin d sl vd a b s
  | .dspVshl d sl vd a sh => Sys2Proof.Machine.execDspVshl d sl vd a sh s
  | .dspVshr d sl vd a sh => Sys2Proof.Machine.execDspVshr d sl vd a sh s
  | .dspVand d sl vd a b => Sys2Proof.Machine.execDspVand d sl vd a b s
  | .dspVor d sl vd a b => Sys2Proof.Machine.execDspVor d sl vd a b s
  | .dspVxor d sl vd a b => Sys2Proof.Machine.execDspVxor d sl vd a b s
  | .dspVsel d sl vd a b c => Sys2Proof.Machine.execDspVsel d sl vd a b c s
  | .dspVnorm d sl vd a => Sys2Proof.Machine.execDspVnorm d sl vd a s
  | .dspVrcps d sl vd a => Sys2Proof.Machine.execDspVrcps d sl vd a s
  | .dspLdx d sl vd ag => Sys2Proof.Machine.execDspLdx d sl vd ag s
  | .dspStx d sl va ag => Sys2Proof.Machine.execDspStx d sl va ag s
  | .dspLdwx d sl vd ag => Sys2Proof.Machine.execDspLdwx d sl vd ag s
  | .dspStnx d sl va ag => Sys2Proof.Machine.execDspStnx d sl va ag s
  | .dspLdsx d sl sd ag => Sys2Proof.Machine.execDspLdsx d sl sd ag s
  | .dspStsx d sl sa ag => Sys2Proof.Machine.execDspStsx d sl sa ag s
  | .dspLdy d sl vd ag => Sys2Proof.Machine.execDspLdy d sl vd ag s
  | .dspSty d sl va ag => Sys2Proof.Machine.execDspSty d sl va ag s
  | .dspLdwy d sl vd ag => Sys2Proof.Machine.execDspLdwy d sl vd ag s
  | .dspStny d sl va ag => Sys2Proof.Machine.execDspStny d sl va ag s
  | .dspLdsy d sl sd ag => Sys2Proof.Machine.execDspLdsy d sl sd ag s
  | .dspStsy d sl sa ag => Sys2Proof.Machine.execDspStsy d sl sa ag s
  | .dspLoop d sl reg count lastOff => Sys2Proof.Machine.execDspLoop d sl reg count lastOff s
  | .dspBr d sl target => Sys2Proof.Machine.execDspBr d sl target s
  | .dspBrc d sl cond a b target => Sys2Proof.Machine.execDspBrc d sl cond a b target s
  | .dspCall d sl target => Sys2Proof.Machine.execDspCall d sl target s
  | .dspRet d sl => Sys2Proof.Machine.execDspRet d sl s
  | .dspEnd d sl => Sys2Proof.Machine.execDspEnd d sl s
  | .dspSmov d sl sd src imm => Sys2Proof.Machine.execDspSmov d sl sd src imm s
  | .dspSadd d sl sd a b => Sys2Proof.Machine.execDspSadd d sl sd a b s
  | .dspSsub d sl sd a b => Sys2Proof.Machine.execDspSsub d sl sd a b s
  | .dspSand d sl sd a b => Sys2Proof.Machine.execDspSand d sl sd a b s
  | .dspSshl d sl sd a b => Sys2Proof.Machine.execDspSshl d sl sd a b s
  | .dspAgset d sl ag base idx step mod mode mem => Sys2Proof.Machine.execDspAgset d sl ag base idx step mod mode mem s
  | .dspAgld d sl ag field sa => Sys2Proof.Machine.execDspAgld d sl ag field sa s
  | .dspModeset d sl sat => Sys2Proof.Machine.execDspModeset d sl sat s
  | .ldpcDecodeJob cluster radio desc stat hqErr => Sys2Proof.Machine.execLdpcDecodeJob cluster radio desc stat hqErr s
  | .ldpcEncodeJob cluster radio desc stat => Sys2Proof.Machine.execLdpcEncodeJob cluster radio desc stat s
  | .dciEncode cluster radio desc stat cells => Sys2Proof.Machine.execDciEncode cluster radio desc stat cells s
  | .bchEncode cluster radio desc stat cells => Sys2Proof.Machine.execBchEncode cluster radio desc stat cells s
  | .uciPolarDecode cluster radio desc stat cells => Sys2Proof.Machine.execUciPolarDecode cluster radio desc stat cells s
  | .uciReedMullerDecode cluster radio desc stat cells => Sys2Proof.Machine.execUciReedMullerDecode cluster radio desc stat cells s
  | .codeBlockDone engine checkFail ce => Sys2Proof.Machine.execCodeBlockDone engine checkFail ce s
  | .codingStatusRecord cluster kind => Sys2Proof.Machine.execCodingStatusRecord cluster kind s
  | .codingJobOverrun cluster kind => Sys2Proof.Machine.execCodingJobOverrun cluster kind s
  | .engineSelftest engine pass => Sys2Proof.Machine.execEngineSelftest engine pass s
  | .harqTtlExpiry cell rnti harqId => Sys2Proof.Machine.execHarqTtlExpiry cell rnti harqId s
  | .raOccasionSearch cell cfg esn sym raIdx det checkFail => Sys2Proof.Machine.execRaOccasionSearch cell cfg esn sym raIdx det checkFail s
  | .msgaDecode cell handle esn => Sys2Proof.Machine.execMsgaDecode cell handle esn s
  | .announce m => Sys2Proof.Machine.execAnnounce m s
  | .sync m => Sys2Proof.Machine.execSync m s
  | .followUp m => Sys2Proof.Machine.execFollowUp m s
  | .delayReq stamp frStamp => Sys2Proof.Machine.execDelayReq stamp frStamp s
  | .delayResp m => Sys2Proof.Machine.execDelayResp m s
  | .masterDelayReq m => Sys2Proof.Machine.execMasterDelayReq m s
  | .masterSyncTx port => Sys2Proof.Machine.execMasterSyncTx port s
  | .masterAnnounceTx port => Sys2Proof.Machine.execMasterAnnounceTx port s
  | .timeStep => Sys2Proof.Machine.execTimeStep s
  | .recoveryEntry => Sys2Proof.Machine.execRecoveryEntry s
  | .timeReferenceLoss => Sys2Proof.Machine.execTimeReferenceLoss s
  | .announceReceiptTimeout => Sys2Proof.Machine.execAnnounceReceiptTimeout s
  | .sampleTimeout => Sys2Proof.Machine.execSampleTimeout s
  | .holdoverExpiry => Sys2Proof.Machine.execHoldoverExpiry s
  | .ppsInEdge stamp => Sys2Proof.Machine.execPpsInEdge stamp s
  | .ppsOut => Sys2Proof.Machine.execPpsOut s
  | .esmcTx port event => Sys2Proof.Machine.execEsmcTx port event s
  | .esmcRx port ql => Sys2Proof.Machine.execEsmcRx port ql s
  | .qlTimeout => Sys2Proof.Machine.execQlTimeout s
  | .freqRefSwitch synceOk ref10Ok => Sys2Proof.Machine.execFreqRefSwitch synceOk ref10Ok s
  | .timeCfgWrite who val => Sys2Proof.Machine.execTimeCfgWrite who val s
  | .timeLatch who val => Sys2Proof.Machine.execTimeLatch who val s
  | .periodBoundary measW => Sys2Proof.Machine.execPeriodBoundary measW s
  | .stitchStart n => Sys2Proof.Machine.execStitchStart n s
  | .lastRebuild core arr => Sys2Proof.Machine.execLastRebuild core arr s
  | .attentionSet bit => Sys2Proof.Machine.execAttentionSet bit s
  | .attentionFlushDone ok => Sys2Proof.Machine.execAttentionFlushDone ok s
  | .attentionAck word val tied => Sys2Proof.Machine.execAttentionAck word val tied s
  | .attnCfgWrite val => Sys2Proof.Machine.execAttnCfgWrite val s
  | .rbNHoldEnd => Sys2Proof.Machine.execRbNHoldEnd s
  | .bar2Access off write len data upset => Sys2Proof.Machine.execBar2Access off write len data upset s
  | .dmaCompletionError part cells => Sys2Proof.Machine.execDmaCompletionError part cells s
  | .completionTimeout part cells => Sys2Proof.Machine.execCompletionTimeout part cells s
  | .linkDown => Sys2Proof.Machine.execLinkDown s
  | .linkUp rate width flit => Sys2Proof.Machine.execLinkUp rate width flit s
  | .doeRequest request => Sys2Proof.Machine.execDoeRequest request s
  | .perstN level => Sys2Proof.Machine.execPerstN level s
  | .hotReset => Sys2Proof.Machine.execHotReset s
  | .devInfo mb => Sys2Proof.Machine.execDevInfo mb s
  | .recoveryLoad mb readOk => Sys2Proof.Machine.execRecoveryLoad mb readOk s
  | .sliceCreate mb => Sys2Proof.Machine.execSliceCreate mb s
  | .sliceDestroy mb => Sys2Proof.Machine.execSliceDestroy mb s
  | .sliceReset mb => Sys2Proof.Machine.execSliceReset mb s
  | .pasidBind mb => Sys2Proof.Machine.execPasidBind mb s
  | .pasidUnbind mb => Sys2Proof.Machine.execPasidUnbind mb s
  | .sliceQuery mb => Sys2Proof.Machine.execSliceQuery mb s
  | .arrayMove mb => Sys2Proof.Machine.execArrayMove mb s
  | .ctxStart mb => Sys2Proof.Machine.execCtxStart mb s
  | .ctxStop mb => Sys2Proof.Machine.execCtxStop mb s
  | .listSubmit mb => Sys2Proof.Machine.execListSubmit mb s
  | .listEntry part fetchOk => Sys2Proof.Machine.execListEntry part fetchOk s
  | .batchSubmit mb => Sys2Proof.Machine.execBatchSubmit mb s
  | .batchAbort mb => Sys2Proof.Machine.execBatchAbort mb s
  | .listAbort mb => Sys2Proof.Machine.execListAbort mb s
  | .slicePause mb => Sys2Proof.Machine.execSlicePause mb s
  | .sliceResume mb => Sys2Proof.Machine.execSliceResume mb s
  | .sliceCheckpoint mb => Sys2Proof.Machine.execSliceCheckpoint mb s
  | .sliceRestore mb firstOk secondOk => Sys2Proof.Machine.execSliceRestore mb firstOk secondOk s
  | .modeChange mb => Sys2Proof.Machine.execModeChange mb s
  | .launchBarrier mb => Sys2Proof.Machine.execLaunchBarrier mb s
  | .partitionResetDone slice => Sys2Proof.Machine.execPartitionResetDone slice s
  | .healthCfg mb => Sys2Proof.Machine.execHealthCfg mb s
  | .healthQuery mb => Sys2Proof.Machine.execHealthQuery mb s
  | .healthClear mb => Sys2Proof.Machine.execHealthClear mb s
  | .stepReport mb => Sys2Proof.Machine.execStepReport mb s
  | .ctrProgram mb => Sys2Proof.Machine.execCtrProgram mb s
  | .ctrRead mb => Sys2Proof.Machine.execCtrRead mb s
  | .ctrSampleCfg mb => Sys2Proof.Machine.execCtrSampleCfg mb s
  | .ctrSampleRead mb => Sys2Proof.Machine.execCtrSampleRead mb s
  | .ctrDump mb => Sys2Proof.Machine.execCtrDump mb s
  | .ctrDumpStop mb => Sys2Proof.Machine.execCtrDumpStop mb s
  | .dumpSnapshot ring busy ok => Sys2Proof.Machine.execDumpSnapshot ring busy ok s
  | .recRead mb => Sys2Proof.Machine.execRecRead mb s
  | .recFreeze mb => Sys2Proof.Machine.execRecFreeze mb s
  | .recThaw mb => Sys2Proof.Machine.execRecThaw mb s
  | .recClear mb => Sys2Proof.Machine.execRecClear mb s
  | .recLeash mb => Sys2Proof.Machine.execRecLeash mb s
  | .recTrigger mb => Sys2Proof.Machine.execRecTrigger mb s
  | .recStatus mb => Sys2Proof.Machine.execRecStatus mb s
  | .recordSubmit code part src payload => Sys2Proof.Machine.execRecordSubmit code part src payload s
  | .snapshotRecord trigger => Sys2Proof.Machine.execSnapshotRecord trigger s
  | .leashToken code => Sys2Proof.Machine.execLeashToken code s
  | .hoursUpdate => Sys2Proof.Machine.execHoursUpdate s
  | .freezeTimeout => Sys2Proof.Machine.execFreezeTimeout s
  | .recEraseDone => Sys2Proof.Machine.execRecEraseDone s
  | .attReport mb => Sys2Proof.Machine.execAttReport mb s
  | .attChain mb => Sys2Proof.Machine.execAttChain mb s
  | .attExtend mb => Sys2Proof.Machine.execAttExtend mb s
  | .dbgReqN => Sys2Proof.Machine.execDbgReqN s
  | .engineEntryTake e => Sys2Proof.Machine.execEngineEntryTake e s
  | .nop e => Sys2Proof.Machine.execNop e s
  | .load e => Sys2Proof.Machine.execLoad e s
  | .store e => Sys2Proof.Machine.execStore e s
  | .flagStore e => Sys2Proof.Machine.execFlagStore e s
  | .add64 e => Sys2Proof.Machine.execAdd64 e s
  | .min64 e => Sys2Proof.Machine.execMin64 e s
  | .max64 e => Sys2Proof.Machine.execMax64 e s
  | .swap64 e => Sys2Proof.Machine.execSwap64 e s
  | .cas64 e => Sys2Proof.Machine.execCas64 e s
  | .ladd128 e => Sys2Proof.Machine.execLadd128 e s
  | .fence e => Sys2Proof.Machine.execFence e s
  | .fabricRequestRx r => Sys2Proof.Machine.execFabricRequestRx r s
  | .flagStorePerform node psn => Sys2Proof.Machine.execFlagStorePerform node psn s
  | .syn r => Sys2Proof.Machine.execSyn r s
  | .acknowledgement a => Sys2Proof.Machine.execAcknowledgement a s
  | .credit node incarn lim => Sys2Proof.Machine.execCredit node incarn lim s
  | .retransmit node psn => Sys2Proof.Machine.execRetransmit node psn s
  | .nopKeepalive node => Sys2Proof.Machine.execNopKeepalive node s
  | .fabricTimeout node psn => Sys2Proof.Machine.execFabricTimeout node psn s
  | .connectionIdleClose node => Sys2Proof.Machine.execConnectionIdleClose node s
  | .fabricPortDown port => Sys2Proof.Machine.execFabricPortDown port s
  | .regionDescriptorWrite who region word val => Sys2Proof.Machine.execRegionDescriptorWrite who region word val s
  | .arrive barId node t1 t2 => Sys2Proof.Machine.execArrive barId node t1 t2 s
  | .release barId node t1 t2 t3 t4 tRel => Sys2Proof.Machine.execRelease barId node t1 t2 t3 t4 tRel s
  | .arriveResend slice => Sys2Proof.Machine.execArriveResend slice s
  | .barrierOpen slice => Sys2Proof.Machine.execBarrierOpen slice s
  | .barrierTimeout slice => Sys2Proof.Machine.execBarrierTimeout slice s
  | .houndPacketRx unit seq ack recs => Sys2Proof.Machine.execHoundPacketRx unit seq ack recs s
  | .houndResend unit => Sys2Proof.Machine.execHoundResend unit s
  | .houndCfgWrite who unit val => Sys2Proof.Machine.execHoundCfgWrite who unit val s
  | .diePairTimeout slice => Sys2Proof.Machine.execDiePairTimeout slice s
  | .repTransitionDone core => Sys2Proof.Machine.execRepTransitionDone core s
  | .healthEvaluation => Sys2Proof.Machine.execHealthEvaluation s
  | .clockFailure island => Sys2Proof.Machine.execClockFailure island s
  | .supplyEvent island => Sys2Proof.Machine.execSupplyEvent island s
  | .railEvent rail => Sys2Proof.Machine.execRailEvent rail s
  | .flitCrcFailure req second => Sys2Proof.Machine.execFlitCrcFailure req second s
  | .uhlileMismatch => Sys2Proof.Machine.execUhlileMismatch s
  | .uhlileRestartDone => Sys2Proof.Machine.execUhlileRestartDone s
  | .arraySelftest core arr pass => Sys2Proof.Machine.execArraySelftest core arr pass s
  | .moduleReset r => Sys2Proof.Machine.execModuleReset r s
  | .warmReset cause r => Sys2Proof.Machine.execWarmReset cause r s
  | .resetProtocolTimeout => Sys2Proof.Machine.execResetProtocolTimeout s
  | .runWatchdog => Sys2Proof.Machine.execRunWatchdog s
  | .notReadyClear => Sys2Proof.Machine.execNotReadyClear s
  | .inputQualified mv => Sys2Proof.Machine.execInputQualified mv s
  | .undervoltage mv => Sys2Proof.Machine.execUndervoltage mv s
  | .overvoltage mv => Sys2Proof.Machine.execOvervoltage mv s
  | .inputOutOfRange mv => Sys2Proof.Machine.execInputOutOfRange mv s
  | .uvDip => Sys2Proof.Machine.execUvDip s
  | .faultRestart => Sys2Proof.Machine.execFaultRestart s
  | .tempSample tj island => Sys2Proof.Machine.execTempSample tj island s
  | .thermalTrip => Sys2Proof.Machine.execThermalTrip s
  | .powerSample mv ma pin => Sys2Proof.Machine.execPowerSample mv ma pin s
  | .loInQualified => Sys2Proof.Machine.execLoInQualified s
  | .loInLoss => Sys2Proof.Machine.execLoInLoss s
  | .ppsInMissingEdge => Sys2Proof.Machine.execPpsInMissingEdge s
  | .laneLossOfSignal lane => Sys2Proof.Machine.execLaneLossOfSignal lane s
  | .portLinkUp port => Sys2Proof.Machine.execPortLinkUp port s
  | .fecUncorrectableCodeword lane => Sys2Proof.Machine.execFecUncorrectableCodeword lane s
  | .otherFrameRx port => Sys2Proof.Machine.execOtherFrameRx port s
  | .badFcsFrame port => Sys2Proof.Machine.execBadFcsFrame port s
  | .pcieCorrectableError => Sys2Proof.Machine.execPcieCorrectableError s
  | .creditReturn node => Sys2Proof.Machine.execCreditReturn node s
  | .channelRetraining ch retries ok => Sys2Proof.Machine.execChannelRetraining ch retries ok s
  | .tdDownlinkSymbol cell stream esn sym => Sys2Proof.Machine.execTdDownlinkSymbol cell stream esn sym s
  | .radioStageOverrun cell => Sys2Proof.Machine.execRadioStageOverrun cell s
  | .arriveHoldExpiry barId => Sys2Proof.Machine.execArriveHoldExpiry barId s

end Sys2Proof.Machine
end

