-- ==== Sys2Proof/Machine/Step.lean ====
section
/-! DEFINITION. One step: the command at the front of the queue acts on the rest; on an empty queue the module idles. -/

namespace Sys2Proof.Machine

/-- The queue's front command acts on the state whose queue is the rest; on an empty queue a start under way goes on, else time passes (log 1, log 42). -/
def step (s : State) : Host.Outcome State Fault Refusal :=
  match s.pending with
  | [] => .next (Act.idle.run s)
  | c :: r => exec c { s with pending := r }

/-- The command a word spells, put at the front of the queue; the table gives no command bits, so no word spells one. -/
def State.withFetchWord (s : State) (nbits w : Nat) : State :=
  match Sys2Proof.decodeTableWord nbits w with
  | some c => { s with pending := c :: s.pending }
  | none => s

end Sys2Proof.Machine
end

