-- ==== Sys2Proof/Safety.lean ====
section
/-! DEFINITION. The terms the statements use: the invariant of the module, the pieces of its state and the frame of a command (what it
may change; all else keeps its value), and that a command completes in a next state with a property. -/

namespace Sys2Proof.Machine

/-- The invariant of the module: every sparse map in canonical form, no register with a bit outside its fields (R8). -/
def State.Inv (s : State) : Prop := s.Wf

/-- The pieces of the state: a sparse map is a piece whose entries have keys, any other field a piece whose only key is 0. -/
inductive Piece where
  /-- device registers and BAR0 words by address (R4, R114, R286) -/
  | regs
  /-- Kennel and LPDDR5X bytes by DPA (R114) -/
  | mem
  /-- errors standing in SEC-DED words, by DPA / 8 (R118, R378) -/
  | errs
  /-- symbol errors standing in LPDDR5X lines, by DPA / 64: 16 bits for each codeword position (R125) -/
  | lpErr
  /-- recent uncorrectable lines of a channel with the second they were met in (R129) -/
  | chUe
  /-- host memory by PASID * 2^64 + address; PASID 2^20: none (R285) -/
  | host
  /-- core-store bytes, by core * 2^22 + offset (R89, R114) -/
  | store
  /-- accumulators, by (core * 1024 + line) * 128 + column (R46, R89) -/
  | acc
  /-- recorded anchors, by core * 1024 + line (R49) -/
  | anchors
  /-- core-store lines by core * 65536 + line: 1 pending, 2 pending-failed (R103) -/
  | pend
  /-- vector register lanes, by (core * 32 + register) * 64 + lane (R89) -/
  | vreg
  /-- stream contexts, by core * 8 + context (R91) -/
  | ctxs
  /-- arrays, by 4 * core + array (R61-R73) -/
  | arrs
  /-- partitions, by partition code (R137, R298) -/
  | parts
  /-- stream context that used the vector unit of a core last, by core (R108) -/
  | vecTurn
  /-- health event inputs, by KIND * 1024 + index (R389) -/
  | health
  /-- the Leash, by record code (R415) -/
  | leash
  /-- snapshot triggers 0-15 (R419) -/
  | trigs
  /-- the record log in flash, by word (R410) -/
  | log
  /-- bytes of the log charged to a slice (R416) -/
  | recUsed
  /-- records of a slice dropped by quota (R416, R421) -/
  | recDrop
  /-- Retriever engines 0-31 (R326) -/
  | engs
  /-- fabric connections, by peer node (R333) -/
  | conns
  /-- launch barriers, by slice (R358) -/
  | bars
  /-- Hound units 0-7 (R371) -/
  | hounds
  /-- committed tiles since the last sample, by core (R403) -/
  | samp
  /-- cells, by cell context (R142) -/
  | cells
  /-- coding jobs, by 4 * cluster + KIND - 7 (R212) -/
  | cjobs
  /-- DSPs 0-95 (R187, R195) -/
  | dsps
  /-- X and Y words of 32 bits, by (2 * DSP + memory) * 65536 + word (R183) -/
  | dspMem
  /-- slots of P, by DSP * 32768 + 4 * bundle + slot (R188) -/
  | dspP
  /-- fenced random-access detectors 0-7 (R236, R237) -/
  | dets
  /-- dump rings 0-32 (R405) -/
  | dumps
  /-- the clock of the model (R15, R411) -/
  | clk
  /-- the recorder (R410-R418) -/
  | recd
  /-- the attention path (R292) -/
  | attn
  /-- the PCIe link is up (R283, R296) -/
  | linkOn
  /-- the module is failed (R387) -/
  | failed
  /-- channels of CD0 that the LPDDR5X mapping of this start uses, ascending (R124) -/
  | lpAct0
  /-- channels of CD1 likewise -/
  | lpAct1
  /-- signals issued and not performed (R109) -/
  | sigq
  /-- conversions waiting for the vector unit of a core (R102) -/
  | convq
  /-- on-module flash outside the log (R388, R411) -/
  | flash
  /-- ARRIVEs held by the master, oldest first (R359) -/
  | arrives
  /-- manager DSP jobs that wait to be dispatched again, oldest first (R198) -/
  | held
  /-- manager coding jobs likewise (R224) -/
  | heldCode
  /-- records of PAIRED slices not yet matched (R384) -/
  | pairs
  /-- the radio partition (R142-R155) -/
  | radio
  /-- the time unit (R240-R260) -/
  | time
  /-- the Last and the power controller (R266-R281) -/
  | last
  /-- start-up, supplies, security (R382, R423-R457) -/
  | sys
  /-- count of free values taken; the model's own (log 9) -/
  | free
  /-- what the module sent out -/
  | emitted
deriving DecidableEq, Repr

/-- Entry k of a piece has the same value in two states. -/
def State.agree (s t : State) : Piece → Nat → Prop
  | .regs, k => t.regsAt k = s.regsAt k
  | .mem, k => t.memAt k = s.memAt k
  | .errs, k => t.errsAt k = s.errsAt k
  | .lpErr, k => t.lpErrAt k = s.lpErrAt k
  | .chUe, k => t.chUeAt k = s.chUeAt k
  | .host, k => t.hostAt k = s.hostAt k
  | .store, k => t.storeAt k = s.storeAt k
  | .acc, k => t.accAt k = s.accAt k
  | .anchors, k => t.anchorsAt k = s.anchorsAt k
  | .pend, k => t.pendAt k = s.pendAt k
  | .vreg, k => t.vregAt k = s.vregAt k
  | .ctxs, k => t.ctxsAt k = s.ctxsAt k
  | .arrs, k => t.arrsAt k = s.arrsAt k
  | .parts, k => t.partsAt k = s.partsAt k
  | .vecTurn, k => t.vecTurnAt k = s.vecTurnAt k
  | .health, k => t.healthAt k = s.healthAt k
  | .leash, k => t.leashAt k = s.leashAt k
  | .trigs, k => t.trigsAt k = s.trigsAt k
  | .log, k => t.logAt k = s.logAt k
  | .recUsed, k => t.recUsedAt k = s.recUsedAt k
  | .recDrop, k => t.recDropAt k = s.recDropAt k
  | .engs, k => t.engsAt k = s.engsAt k
  | .conns, k => t.connsAt k = s.connsAt k
  | .bars, k => t.barsAt k = s.barsAt k
  | .hounds, k => t.houndsAt k = s.houndsAt k
  | .samp, k => t.sampAt k = s.sampAt k
  | .cells, k => t.cellsAt k = s.cellsAt k
  | .cjobs, k => t.cjobsAt k = s.cjobsAt k
  | .dsps, k => t.dspsAt k = s.dspsAt k
  | .dspMem, k => t.dspMemAt k = s.dspMemAt k
  | .dspP, k => t.dspPAt k = s.dspPAt k
  | .dets, k => t.detsAt k = s.detsAt k
  | .dumps, k => t.dumpsAt k = s.dumpsAt k
  | .clk, _ => t.clk = s.clk
  | .recd, _ => t.recd = s.recd
  | .attn, _ => t.attn = s.attn
  | .linkOn, _ => t.linkOn = s.linkOn
  | .failed, _ => t.failed = s.failed
  | .lpAct0, _ => t.lpAct0 = s.lpAct0
  | .lpAct1, _ => t.lpAct1 = s.lpAct1
  | .sigq, _ => t.sigq = s.sigq
  | .convq, _ => t.convq = s.convq
  | .flash, _ => t.flash = s.flash
  | .arrives, _ => t.arrives = s.arrives
  | .held, _ => t.held = s.held
  | .heldCode, _ => t.heldCode = s.heldCode
  | .pairs, _ => t.pairs = s.pairs
  | .radio, _ => t.radio = s.radio
  | .time, _ => t.time = s.time
  | .last, _ => t.last = s.last
  | .sys, _ => t.sys = s.sys
  | .free, _ => t.free = s.free
  | .emitted, _ => t.emitted = s.emitted

/-- A footprint: the entries that may change. -/
abbrev Foot := Piece → Nat → Prop

/-- The entries of any of the footprints. -/
def Foot.any (l : List Foot) : Foot := fun p k => ∃ F, F ∈ l ∧ F p k

/-- One register. -/
def Foot.reg (a : Nat) : Foot := fun p k => p = .regs ∧ k = a

/-- The registers f 0 to f (n - 1). -/
def Foot.regFam (n : Nat) (f : Nat → Nat) : Foot := fun p k => p = .regs ∧ ∃ i, i < n ∧ k = f i

/-- One entry of a piece. -/
def Foot.entry (q : Piece) (a : Nat) : Foot := fun p k => p = q ∧ k = a

/-- The entries of a piece with keys from lo to hi - 1. -/
def Foot.range (q : Piece) (lo hi : Nat) : Foot := fun p k => p = q ∧ lo ≤ k ∧ k < hi

/-- Pieces whole. -/
def Foot.whole (l : List Piece) : Foot := fun p _ => p ∈ l

/-- Every piece but those listed. -/
def Foot.but (l : List Piece) : Foot := fun p _ => p ∉ l

/-! ### Parts of the module as footprints -/

/-- Host memory under one PASID (`noPasid`: the attention writes). -/
def hostFoot (pasid : Nat) : Foot := .range .host (pasid * 2 ^ 64) (pasid * 2 ^ 64 + 2 ^ 64)

/-- The attention path beside the bits of the vector: what leaves the module (R292, R293). -/
def attnOutFoot : Foot := .any [.reg R.hostAttn7, .whole [.attn, .emitted], hostFoot noPasid]

/-- The attention path (R291-R293). -/
def attnFoot : Foot := .any [.regFam 4 R.hostAttn, .reg R.hostAttn4, .reg R.hostAttn7, .whole [.attn, .emitted], hostFoot noPasid]

/-- The event recorder (R410-R419). -/
def recFoot : Foot := .any [.regFam 4 R.hostAttn, .reg R.hostAttn4, .reg R.hostAttn7, .whole [.attn, .emitted], hostFoot noPasid,
  .reg R.recStat, .reg R.recCnt, .reg R.recCnt2, .whole [.recd, .leash, .trigs, .log, .recUsed, .recDrop]]

/-- Counting a violation (R29, R30, R315). -/
def violFoot (part : Nat) : Foot := .any [.reg (R.sliceViol part), recFoot]

/-- The counters of a core's set, and of the global sets (R396, R400). -/
def pmcCoreFoot (c : Nat) : Foot := .range .regs (R.corePmcCtl c 0) (R.corePmcCtl c 0 + 0x80)

/-- The global counter sets (R396). -/
def pmcGlobalFoot : Foot := .range .regs (R.gpmcCtl 0 0) (R.gpmcCtl 0 0 + 0x800)

/-- The counters that an event of a core, or of none, can reach. -/
def pmcFoot (core : Option Nat) : Foot := match core with
  | some c => .any [pmcCoreFoot c, pmcGlobalFoot]
  | none => pmcGlobalFoot

/-- The counters of every set. -/
def pmcAllFoot : Foot := fun p k => (∃ c, c < 64 ∧ pmcCoreFoot c p k) ∨ pmcGlobalFoot p k

/-- What a health event may change (R389): the inputs of the second, and the global counters. -/
def healthFoot : Foot := .any [.whole [.health], pmcGlobalFoot]

/-- What a unit reaching suspect or failed may change (R390). -/
def healthLevelFoot (kind idx : Nat) : Foot := .any [.reg (healthReg kind idx), .reg (healthReg 0 0), recFoot]

/-- The measurement register that is extended (R424). -/
def mrFoot (i : Nat) : Foot := .range .regs (R.secMr i 0) (R.secMr i 0 + 64)

/-- What a reply writes: the count of commands, OWN, the reply header and reply data of the page (R299, R300, R321). -/
def pageFoot (mb : Nat) : Foot := .any [.reg (R.sliceMb mb), .reg (mbHdr mb 0), .regFam 4 (mbRepHdr mb), .regFam (repRoom mb / 8) (mbRepData mb)]

/-- The command in a mailbox has opcode op, and Uhlile takes it and performs it: the page is served and no check of R301 that stands
before the command's own refuses it (R300, R301). -/
def State.takes (s : State) (mb op : Nat) : Bool :=
  decide (mb ≤ 256) && s.mbServed mb && (s.mbCmd mb).opcode == op && (s.precheck (s.mbCmd mb)).isNone

/-- The state in which a command taken from a mailbox is performed: its reply header is zeroed (R300). -/
def State.accepted (s : State) (mb : Nat) : State := (Act.each [0, 1, 2, 3] fun i => .setRegs (mbRepHdr mb i) 0).run s

/-- The launches of a partition in flight: handles and kinds, oldest first (R309). -/
def State.launchList (s : State) (p : Nat) : List (Nat × Nat) := (s.partsAt p).launches.map fun l => (l.handle, l.kind)

/-- The command in a mailbox is answered with a status (R300): OWN clear; in the reply header DONE set and STATUS. -/
def State.answered (t : State) (mb st : Nat) : Bool :=
  !(bit (t.rd (mbHdr mb 0)).toNat 63) && bit (t.rd (mbRepHdr mb 0)).toNat 63 && bits (t.rd (mbRepHdr mb 0)).toNat 55 48 == st

/-- A launch is accepted (R309): it is in flight under the next handle, and the reply says so. -/
def Launched (s t : State) (mb kind : Nat) : Prop :=
  t.launchList mb = s.launchList mb ++ [((s.partsAt mb).nextHandle, kind)] ∧ t.answered mb 0x01 = true

/-- What slice_create asks (R303, R304, R33, R136): a CLASS and policy that exist, an array, a Kennel unit, a quota of at most 256, a free
slice, everything asked for in the pool, symmetry of a PAIRED slice, a segment table within the grant. -/
def State.createOk (s : State) (j : JCmd) : Bool :=
  let kens := (List.range 4).map fun k => j.byte (0x28 + k)
  let lps := (List.range 2).map fun d => j.num (0x2C + 2 * d) 2
  let ken := (List.range 4).flatMap fun k => (s.kenFree.filter (· / 32 == k)).take (kens.getD k 0)
  let lp := (List.range 2).flatMap fun d => ((s.lpFree d).take (lps.getD d 0)).map (512 * d + ·)
  let segs := (List.range 64).filterMap fun i => if bit (j.a (16 + 2 * i)) 63 then some (i, j.a (16 + 2 * i), j.a (17 + 2 * i)) else none
  decide (j.byte 1 < 8) && decide (j.byte 2 ≤ 2) && decide (j.num 8 32 ≠ 0) && kens.all (· ≤ 32) && decide (kens.sum ≠ 0) &&
  decide (j.num 0x36 2 ≤ 256) && decide (s.sliceState (j.byte 0) = 0) && (arrList (j.num 8 32)).all s.arrFree &&
  (bitList (j.num 0x30 4) 32).all s.engFree && (bitList (j.byte 0x34) 8).all s.ctrFree && decide (s.quotaUsed + j.num 0x36 2 ≤ 4096) &&
  ken.length == kens.sum && lp.length == lps.sum && (!(bit (j.byte 1) 1) || asym (j.num 8 32) (maskOf ken) (maskOf lp) == 0) &&
  (segRefused ken lp segs).isNone

/-- A device register whose write goes by the access codes of its fields alone (R4): it has no row or rule of its own. -/
def plainReg (a : Nat) : Bool :=
  decide (0x300000000 ≤ a ∧ a < 0x400000000) && a % 8 == 0 && !(decide (lastWin ≤ a ∧ a < lastWin + 0x80000)) &&
  !([R.gwLock, R.timeCfg, R.timeLatch, R.timeFreq, R.timePps, R.radioSfn, R.fabCfg, R.fabPfx0, R.fabPfx1].contains a) &&
  !(B.fabEngRing.hit a) && !(B.fabEngIdx.hit a) && !(decide (R.fabRgn0 0 ≤ a ∧ a < R.fabRgn0 4096)) && !(B.repHoundCfg.hit a) &&
  !(B.memUeCtl.hit a) && (pmcPlace a).isNone

/-- SCORE of a health unit after its second (R390): what is left of it after the decay, and the weighted inputs; it saturates. -/
def State.healthScore (s : State) (kind i : Nat) : Nat :=
  let u := s.healthAt (kind * 1024 + i)
  let old := s.fld (healthReg kind i) F.healthUnitMod_SCORE
  let w (f : Field) : Nat := s.fld (R.healthW kind) f
  min (old - old / 2 ^ s.fld (R.healthCfg kind) F.healthCfg_DECAY_SH + u.ev0 * w F.healthW_W0 + u.ev1 * w F.healthW_W1 +
    u.ev2 * w F.healthW_W2 + u.ev3 * w F.healthW_W3) (2 ^ 32 - 1)

/-- The request that a Retriever entry makes on a connection (R327, R333, R334, R337). -/
def EngEnt.request (x : EngEnt) (c : ConnSt) (e op : Nat) (payload : List Byte) : OutReq where
  psn := c.nextPsn
  eng := e
  slot := x.slot
  op := op
  nores := entNores x.words
  fva := entFva x.words
  key := x.words.getD 2 0 / 2 ^ 32
  len := if op == opLoad || op == opStore then entLen x.words else payload.length
  opnd0 := x.words.getD 4 0
  opnd1 := x.words.getD 5 0
  payload := payload
  units := reqUnits payload.length
  attempt := 0
  acked := false
  rspDue := wantsRsp op (entNores x.words)
  wrap := false
  dead := false

/-- No error stands in any memory of the module. -/
def State.noErrors (s : State) : Bool := s.errs.isEmpty && s.lpErr.isEmpty

/-- Every entry outside the footprint, the waiting commands and the fuses have the same value in both states. -/
structure Same (F : Foot) (s t : State) : Prop where
  off : ∀ p k, ¬ F p k → s.agree t p k
  pending : t.pending = s.pending
  fuse : t.fuse = s.fuse

/-- The frame of a command at a state: whatever next state it gives differs inside the footprint only. -/
def Framed (F : Foot) (c : Instr) (s : State) : Prop := ∀ t, exec c s = .next t → Same F s t

/-- The command completes at the state: it answers a next state, with the property. -/
def Gives (c : Instr) (s : State) (P : State → Prop) : Prop := ∃ t, exec c s = .next t ∧ P t

end Sys2Proof.Machine

namespace Sys2Proof

/-- The mailbox and the opcode of a command of the Joreg interface (R300-R319). -/
def Instr.mailbox : Instr → Option (Nat × Nat)
  | .cellSet mb => some (mb, 0x0400)
  | .cellApply mb => some (mb, 0x0401)
  | .cellDiscard mb => some (mb, 0x0402)
  | .nrxLoad mb => some (mb, 0x0403)
  | .nrxUnload mb => some (mb, 0x0404)
  | .dspLoad mb => some (mb, 0x0405)
  | .portConfig mb => some (mb, 0x0406)
  | .powerCapSet mb => some (mb, 0x0500)
  | .timeSet mb => some (mb, 0x0501)
  | .retire mb => some (mb, 0x0502)
  | .retireClear mb => some (mb, 0x0503)
  | .devInfo mb => some (mb, 0x0001)
  | .recoveryLoad mb _ => some (mb, 0x0002)
  | .sliceCreate mb => some (mb, 0x0100)
  | .sliceDestroy mb => some (mb, 0x0101)
  | .sliceReset mb => some (mb, 0x0102)
  | .pasidBind mb => some (mb, 0x0103)
  | .pasidUnbind mb => some (mb, 0x0104)
  | .sliceQuery mb => some (mb, 0x0105)
  | .arrayMove mb => some (mb, 0x0107)
  | .ctxStart mb => some (mb, 0x0200)
  | .ctxStop mb => some (mb, 0x0201)
  | .listSubmit mb => some (mb, 0x0202)
  | .batchSubmit mb => some (mb, 0x0203)
  | .batchAbort mb => some (mb, 0x0204)
  | .listAbort mb => some (mb, 0x0205)
  | .slicePause mb => some (mb, 0x0300)
  | .sliceResume mb => some (mb, 0x0301)
  | .sliceCheckpoint mb => some (mb, 0x0302)
  | .sliceRestore mb _ _ => some (mb, 0x0303)
  | .modeChange mb => some (mb, 0x0304)
  | .launchBarrier mb => some (mb, 0x0305)
  | .healthCfg mb => some (mb, 0x0700)
  | .healthQuery mb => some (mb, 0x0701)
  | .healthClear mb => some (mb, 0x0702)
  | .stepReport mb => some (mb, 0x0703)
  | .ctrProgram mb => some (mb, 0x0600)
  | .ctrRead mb => some (mb, 0x0601)
  | .ctrSampleCfg mb => some (mb, 0x0602)
  | .ctrSampleRead mb => some (mb, 0x0603)
  | .ctrDump mb => some (mb, 0x0604)
  | .ctrDumpStop mb => some (mb, 0x0605)
  | .recRead mb => some (mb, 0x0800)
  | .recFreeze mb => some (mb, 0x0801)
  | .recThaw mb => some (mb, 0x0802)
  | .recClear mb => some (mb, 0x0803)
  | .recLeash mb => some (mb, 0x0804)
  | .recTrigger mb => some (mb, 0x0805)
  | .recStatus mb => some (mb, 0x0806)
  | .attReport mb => some (mb, 0x0900)
  | .attChain mb => some (mb, 0x0901)
  | .attExtend mb => some (mb, 0x0902)
  | _ => none

/-- The pieces of the state that a command can change. -/
def Instr.touches : Instr → List Machine.Piece
  | .registerWrite _ _ _ _ _ =>
    [.regs, .mem, .errs, .lpErr, .chUe, .host, .store, .acc, .parts, .health, .leash, .trigs, .log, .recUsed, .recDrop, .hounds, .recd,
     .attn, .flash, .radio, .time, .sys, .emitted]
  | .rcRead _ _ _ _ =>
    [.regs, .host, .leash, .trigs, .log, .recUsed, .recDrop, .recd, .attn, .sys, .emitted]
  | .lockWrite _ _ | .recordSubmit _ _ _ _ | .snapshotRecord _ | .regionDescriptorWrite _ _ _ _ | .inputOutOfRange _ =>
    [.regs, .host, .leash, .trigs, .log, .recUsed, .recDrop, .recd, .attn, .emitted]
  | .memoryRead _ _ _ _ =>
    [.regs, .mem, .errs, .lpErr, .chUe, .host, .store, .acc, .anchors, .pend, .ctxs, .arrs, .parts, .health, .leash, .trigs, .log,
     .recUsed, .recDrop, .engs, .conns, .bars, .hounds, .cells, .cjobs, .dsps, .dumps, .recd, .attn, .sigq, .convq, .flash, .held, .pairs,
     .radio, .sys, .free, .emitted]
  | .memoryWrite _ _ _ =>
    [.regs, .mem, .errs, .lpErr, .chUe, .host, .store, .acc, .anchors, .pend, .ctxs, .arrs, .parts, .health, .leash, .trigs, .log,
     .recUsed, .recDrop, .engs, .conns, .bars, .hounds, .cells, .cjobs, .dsps, .dumps, .recd, .attn, .sigq, .convq, .flash, .held, .pairs,
     .radio, .time, .sys, .free, .emitted]
  | .patrolRead _ _ _ =>
    [.regs, .mem, .errs, .lpErr, .chUe, .host, .store, .acc, .health, .leash, .trigs, .log, .recUsed, .recDrop, .recd, .attn, .flash,
     .emitted]
  | .atomicOp _ _ _ | .syncSignal _ _ | .bar2Access _ _ _ _ _ | .flitCrcFailure _ _ =>
    [.regs, .mem, .errs, .lpErr, .chUe, .host, .store, .acc, .anchors, .pend, .ctxs, .arrs, .parts, .health, .leash, .trigs, .log,
     .recUsed, .recDrop, .engs, .conns, .bars, .hounds, .cells, .cjobs, .dsps, .dumps, .recd, .attn, .sigq, .convq, .flash, .held, .pairs,
     .radio, .free, .emitted]
  | .ueLogClear _ _ | .dbgReqN | .uvDip | .loInQualified | .otherFrameRx _ | .badFcsFrame _ =>
    [.regs]
  | .tileEntry _ _ | .vectorBundle _ _ | .mark _ _ | .end_ _ _ | .bankLoad _ _ | .bankLoadComplete _ _ | .moveDataArrival _ _ |
  .syncWaitTimeout _ _ | .swait _ _ _ _ _ =>
    [.regs, .mem, .errs, .lpErr, .chUe, .host, .store, .acc, .anchors, .pend, .ctxs, .arrs, .parts, .health, .leash, .trigs, .log,
     .recUsed, .recDrop, .engs, .conns, .bars, .hounds, .cells, .cjobs, .dsps, .dumps, .recd, .attn, .sigq, .convq, .flash, .pairs,
     .radio, .free, .emitted]
  | .stepBoundary _ | .epochTimeout _ _ | .sliceDestroy _ | .sliceReset _ | .ctxStop _ | .batchAbort _ | .listAbort _ | .slicePause _ |
  .sliceCheckpoint _ | .modeChange _ | .ctrDumpStop _ | .dumpSnapshot _ _ _ | .engineEntryTake _ | .nop _ | .load _ | .store _ |
  .flagStore _ | .add64 _ | .min64 _ | .max64 _ | .swap64 _ | .cas64 _ | .ladd128 _ | .fence _ | .syn _ | .acknowledgement _ |
  .fabricTimeout _ _ | .connectionIdleClose _ | .release _ _ _ _ _ _ _ | .barrierOpen _ | .barrierTimeout _ | .diePairTimeout _ |
  .repTransitionDone _ =>
    [.regs, .mem, .errs, .lpErr, .chUe, .host, .store, .acc, .anchors, .pend, .ctxs, .arrs, .parts, .health, .leash, .trigs, .log,
     .recUsed, .recDrop, .engs, .conns, .bars, .hounds, .dumps, .recd, .attn, .sigq, .convq, .flash, .pairs, .emitted]
  | .tileDispatch _ _ | .weltRerun _ _ | .resolePass _ _ | .tileReplay _ _ | .controlParityError _ =>
    [.regs, .mem, .errs, .lpErr, .chUe, .host, .store, .acc, .anchors, .pend, .ctxs, .arrs, .parts, .health, .leash, .trigs, .log,
     .recUsed, .recDrop, .engs, .conns, .bars, .hounds, .cells, .cjobs, .dsps, .dumps, .recd, .attn, .sigq, .convq, .flash, .pairs,
     .radio, .last, .free, .emitted]
  | .weltVerdict _ _ _ _ =>
    [.regs, .mem, .errs, .lpErr, .chUe, .host, .store, .acc, .anchors, .pend, .ctxs, .arrs, .parts, .health, .leash, .trigs, .log,
     .recUsed, .recDrop, .engs, .conns, .bars, .hounds, .samp, .cells, .cjobs, .dsps, .dumps, .recd, .attn, .sigq, .convq, .flash, .pairs,
     .radio, .last, .free, .emitted]
  | .conversion _ | .vsta _ _ _ | .move _ _ _ _ _ _ _ =>
    [.regs, .mem, .errs, .lpErr, .chUe, .host, .store, .acc, .anchors, .pend, .ctxs, .arrs, .parts, .vecTurn, .health, .leash, .trigs,
     .log, .recUsed, .recDrop, .engs, .conns, .bars, .hounds, .cells, .cjobs, .dsps, .dumps, .recd, .attn, .sigq, .convq, .flash, .pairs,
     .radio, .free, .emitted]
  | .overrunAbort _ _ =>
    [.regs, .host, .ctxs, .arrs, .parts, .leash, .trigs, .log, .recUsed, .recDrop, .recd, .attn, .emitted]
  | .vld _ _ _ | .vlda _ _ _ | .vcvt _ _ _ _ _ _ _ | .vcvts _ _ _ _ _ _ _ | .vlcvt _ _ _ _ _ _ =>
    [.regs, .mem, .errs, .lpErr, .chUe, .host, .store, .acc, .anchors, .pend, .vreg, .ctxs, .arrs, .parts, .vecTurn, .health, .leash,
     .trigs, .log, .recUsed, .recDrop, .engs, .conns, .bars, .hounds, .cells, .cjobs, .dsps, .dumps, .recd, .attn, .sigq, .convq, .flash,
     .pairs, .radio, .free, .emitted]
  | .vst _ _ _ =>
    [.regs, .mem, .errs, .lpErr, .chUe, .host, .store, .acc, .ctxs, .vecTurn, .health, .leash, .trigs, .log, .recUsed, .recDrop, .recd,
     .attn, .flash, .emitted]
  | .vadd _ _ _ | .vsub _ _ _ | .vmul _ _ _ | .vfma _ _ _ | .vmax _ _ _ | .vmin _ _ _ | .vabs _ _ _ | .vneg _ _ _ | .vcmplt _ _ _ |
  .vcmple _ _ _ | .vcmpeq _ _ _ | .vsel _ _ _ | .vrsum _ _ _ | .vrmax _ _ _ | .vrmin _ _ _ | .vexp2 _ _ _ | .vlog2 _ _ _ | .vrcp _ _ _ |
  .vrsqrt _ _ _ | .vtanh _ _ _ | .verf _ _ _ | .vladd _ _ _ =>
    [.regs, .mem, .errs, .lpErr, .chUe, .host, .store, .acc, .anchors, .pend, .vreg, .ctxs, .arrs, .parts, .vecTurn, .health, .leash,
     .trigs, .log, .recUsed, .recDrop, .engs, .conns, .bars, .hounds, .cells, .cjobs, .dsps, .dumps, .recd, .attn, .sigq, .convq, .flash,
     .pairs, .radio, .last, .free, .emitted]
  | .ssig _ _ _ _ =>
    [.regs, .ctxs, .vecTurn, .sigq]
  | .cellSet _ | .cellDiscard _ | .nrxLoad _ | .nrxUnload _ =>
    [.regs, .mem, .errs, .lpErr, .chUe, .host, .store, .acc, .parts, .health, .leash, .trigs, .log, .recUsed, .recDrop, .recd, .attn,
     .flash, .radio, .emitted]
  | .cellApply _ =>
    [.regs, .mem, .errs, .lpErr, .chUe, .host, .store, .acc, .parts, .health, .leash, .trigs, .log, .recUsed, .recDrop, .recd, .attn,
     .flash, .radio, .last, .emitted]
  | .dspLoad _ =>
    [.regs, .mem, .errs, .lpErr, .chUe, .host, .store, .acc, .parts, .health, .leash, .trigs, .log, .recUsed, .recDrop, .dsps, .dspP,
     .recd, .attn, .flash, .emitted]
  | .portConfig _ | .recoveryLoad _ _ | .ctrProgram _ | .ctrRead _ | .attReport _ | .uhlileRestartDone =>
    [.regs, .mem, .errs, .lpErr, .chUe, .host, .store, .acc, .parts, .health, .leash, .trigs, .log, .recUsed, .recDrop, .recd, .attn,
     .flash, .sys, .emitted]
  | .powerCapSet _ =>
    [.regs, .mem, .errs, .lpErr, .chUe, .host, .store, .acc, .parts, .health, .leash, .trigs, .log, .recUsed, .recDrop, .recd, .attn,
     .flash, .last, .emitted]
  | .timeSet _ =>
    [.regs, .mem, .errs, .lpErr, .chUe, .host, .store, .acc, .parts, .health, .leash, .trigs, .log, .recUsed, .recDrop, .recd, .attn,
     .flash, .time, .emitted]
  | .retire _ | .healthEvaluation =>
    [.regs, .mem, .errs, .lpErr, .chUe, .host, .store, .acc, .anchors, .pend, .ctxs, .arrs, .parts, .health, .leash, .trigs, .log,
     .recUsed, .recDrop, .engs, .conns, .bars, .hounds, .cells, .cjobs, .dsps, .dets, .dumps, .recd, .attn, .sigq, .convq, .flash, .pairs,
     .radio, .last, .free, .emitted]
  | .retireClear _ | .devInfo _ | .pasidBind _ | .pasidUnbind _ | .sliceQuery _ | .listSubmit _ | .healthCfg _ | .healthQuery _ |
  .healthClear _ | .stepReport _ | .ctrSampleCfg _ | .ctrSampleRead _ | .recRead _ | .recFreeze _ | .recThaw _ | .recClear _ |
  .recLeash _ | .recTrigger _ | .recStatus _ | .attChain _ | .attExtend _ =>
    [.regs, .mem, .errs, .lpErr, .chUe, .host, .store, .acc, .parts, .health, .leash, .trigs, .log, .recUsed, .recDrop, .recd, .attn,
     .flash, .emitted]
  | .reqFetch _ _ _ =>
    [.regs, .host, .cells]
  | .paramRequest _ _ | .configRequest _ _ _ | .stopRequest _ _ | .dlTtiRequest _ _ _ | .ulTtiRequest _ _ _ | .ulDciRequest _ _ _ |
  .txDataRequest _ _ _ =>
    [.cells]
  | .startRequest _ _ | .harqTtlExpiry _ _ _ =>
    [.regs, .cells]
  | .payFetch _ _ | .dlEmit _ _ _ | .indicationWrite _ _ _ | .uplanePacketRx _ _ | .receptionWindowClose _ _ _ _ | .tdUplinkSymbol _ _ _ _ |
  .msgaDecode _ _ _ | .tdDownlinkSymbol _ _ _ _ =>
    [.regs, .mem, .errs, .lpErr, .chUe, .host, .store, .acc, .health, .leash, .trigs, .log, .recUsed, .recDrop, .cells, .cjobs, .dsps,
     .recd, .attn, .sigq, .flash, .free, .emitted]
  | .nrxCall _ _ _ _ _ _ _ _ _ =>
    [.regs, .mem, .errs, .lpErr, .chUe, .host, .store, .acc, .ctxs, .health, .leash, .trigs, .log, .recUsed, .recDrop, .cells, .cjobs,
     .dsps, .recd, .attn, .sigq, .flash, .free, .emitted]
  | .oneWayDelayMeasurement _ _ | .masterSyncTx _ | .masterAnnounceTx _ | .nopKeepalive _ | .arriveResend _ | .houndResend _ =>
    [.emitted]
  | .dspJobDispatch _ _ _ _ _ =>
    [.regs, .mem, .errs, .lpErr, .chUe, .host, .store, .acc, .health, .leash, .trigs, .log, .recUsed, .recDrop, .cells, .cjobs, .dsps,
     .dspMem, .recd, .attn, .sigq, .flash, .held, .last, .free, .emitted]
  | .dspProgramStart _ =>
    [.regs, .mem, .errs, .lpErr, .chUe, .host, .store, .acc, .health, .leash, .trigs, .log, .recUsed, .recDrop, .cells, .cjobs, .dsps,
     .dspMem, .recd, .attn, .sigq, .flash, .held, .free, .emitted]
  | .dspStatusRecord _ _ _ =>
    [.regs, .mem, .errs, .lpErr, .chUe, .host, .store, .acc, .health, .leash, .trigs, .log, .recUsed, .recDrop, .cells, .cjobs, .dsps,
     .recd, .attn, .sigq, .flash, .held, .free, .emitted]
  | .dspRadioOverrun _ =>
    [.regs, .host, .leash, .trigs, .log, .recUsed, .recDrop, .cells, .cjobs, .dsps, .recd, .attn, .sigq, .free, .emitted]
  | .dspManagerOverrun _ =>
    [.regs, .dsps, .held]
  | .dspWaitTimeout _ | .dspCmac _ _ _ _ _ | .dspCmacj _ _ _ _ _ | .dspCmul _ _ _ _ _ | .dspRmac _ _ _ _ _ | .dspRmul _ _ _ _ _ |
  .dspAclr _ _ _ | .dspAadd _ _ _ _ _ | .dspAsub _ _ _ _ _ | .dspAshr _ _ _ _ _ | .dspNrw _ _ _ _ _ | .dspVadd _ _ _ _ _ |
  .dspVsub _ _ _ _ _ | .dspVneg _ _ _ _ | .dspVabs _ _ _ _ | .dspVmax _ _ _ _ _ | .dspVmin _ _ _ _ _ | .dspVshl _ _ _ _ _ |
  .dspVshr _ _ _ _ _ | .dspVand _ _ _ _ _ | .dspVor _ _ _ _ _ | .dspVxor _ _ _ _ _ | .dspVsel _ _ _ _ _ _ | .dspVnorm _ _ _ _ |
  .dspVrcps _ _ _ _ | .dspLdx _ _ _ _ | .dspLdwx _ _ _ _ | .dspLdsx _ _ _ _ | .dspLdy _ _ _ _ | .dspLdwy _ _ _ _ | .dspLdsy _ _ _ _ |
  .dspLoop _ _ _ _ _ | .dspBr _ _ _ | .dspBrc _ _ _ _ _ _ | .dspCall _ _ _ | .dspRet _ _ | .dspEnd _ _ | .dspSmov _ _ _ _ _ |
  .dspSadd _ _ _ _ _ | .dspSsub _ _ _ _ _ | .dspSand _ _ _ _ _ | .dspSshl _ _ _ _ _ | .dspAgset _ _ _ _ _ _ _ _ _ | .dspAgld _ _ _ _ _ |
  .dspModeset _ _ _ =>
    [.regs, .host, .leash, .trigs, .log, .recUsed, .recDrop, .cells, .cjobs, .dsps, .recd, .attn, .sigq, .held, .free, .emitted]
  | .dspStx _ _ _ _ | .dspStnx _ _ _ _ | .dspStsx _ _ _ _ | .dspSty _ _ _ _ | .dspStny _ _ _ _ | .dspStsy _ _ _ _ =>
    [.regs, .host, .leash, .trigs, .log, .recUsed, .recDrop, .cells, .cjobs, .dsps, .dspMem, .recd, .attn, .sigq, .held, .free, .emitted]
  | .ldpcDecodeJob _ _ _ _ _ | .ldpcEncodeJob _ _ _ _ | .dciEncode _ _ _ _ _ | .bchEncode _ _ _ _ _ | .uciPolarDecode _ _ _ _ _ |
  .uciReedMullerDecode _ _ _ _ _ =>
    [.regs, .mem, .errs, .lpErr, .chUe, .host, .store, .acc, .health, .leash, .trigs, .log, .recUsed, .recDrop, .cells, .cjobs, .dsps,
     .recd, .attn, .sigq, .flash, .heldCode, .last, .free, .emitted]
  | .codeBlockDone _ _ _ =>
    [.regs, .mem, .errs, .lpErr, .chUe, .host, .store, .acc, .health, .leash, .trigs, .log, .recUsed, .recDrop, .cells, .cjobs, .dsps,
     .recd, .attn, .sigq, .flash, .last, .free, .emitted]
  | .codingStatusRecord _ _ =>
    [.regs, .mem, .errs, .lpErr, .chUe, .host, .store, .acc, .health, .leash, .trigs, .log, .recUsed, .recDrop, .cells, .cjobs, .recd,
     .attn, .sigq, .flash, .emitted]
  | .codingJobOverrun _ _ =>
    [.regs, .host, .leash, .trigs, .log, .recUsed, .recDrop, .cells, .cjobs, .dsps, .recd, .attn, .sigq, .heldCode, .free, .emitted]
  | .engineSelftest _ _ =>
    [.regs, .flash]
  | .raOccasionSearch _ _ _ _ _ _ _ =>
    [.regs, .mem, .errs, .lpErr, .chUe, .host, .store, .acc, .health, .leash, .trigs, .log, .recUsed, .recDrop, .cells, .cjobs, .dsps,
     .dets, .recd, .attn, .sigq, .flash, .free, .emitted]
  | .announce _ | .sync _ | .followUp _ | .delayResp _ | .esmcRx _ _ | .qlTimeout | .freqRefSwitch _ _ =>
    [.regs, .time]
  | .delayReq _ _ | .ppsOut =>
    [.time, .emitted]
  | .masterDelayReq _ =>
    [.regs, .emitted]
  | .timeStep | .timeLatch _ _ =>
    [.regs, .host, .leash, .trigs, .log, .recUsed, .recDrop, .recd, .attn, .radio, .time, .emitted]
  | .recoveryEntry =>
    [.regs, .mem, .errs, .lpErr, .chUe, .host, .store, .acc, .anchors, .pend, .ctxs, .arrs, .parts, .health, .leash, .trigs, .log,
     .recUsed, .recDrop, .engs, .conns, .bars, .hounds, .cells, .dumps, .recd, .attn, .sigq, .convq, .flash, .pairs, .radio, .time,
     .emitted]
  | .timeReferenceLoss | .announceReceiptTimeout | .sampleTimeout | .ppsInEdge _ | .timeCfgWrite _ _ | .ppsInMissingEdge =>
    [.regs, .host, .leash, .trigs, .log, .recUsed, .recDrop, .recd, .attn, .time, .emitted]
  | .holdoverExpiry =>
    [.time]
  | .esmcTx _ _ =>
    [.regs, .time, .emitted]
  | .periodBoundary _ =>
    [.regs, .host, .ctxs, .parts, .leash, .trigs, .log, .recUsed, .recDrop, .cells, .cjobs, .dsps, .recd, .attn, .sigq, .radio, .last,
     .emitted]
  | .stitchStart _ =>
    [.regs, .radio, .last]
  | .lastRebuild _ _ | .tempSample _ _ =>
    [.regs, .host, .leash, .trigs, .log, .recUsed, .recDrop, .recd, .attn, .last, .emitted]
  | .attentionSet _ | .attentionFlushDone _ | .attentionAck _ _ _ =>
    [.regs, .host, .attn, .emitted]
  | .attnCfgWrite _ =>
    [.regs, .host, .attn]
  | .rbNHoldEnd =>
    [.attn, .emitted]
  | .dmaCompletionError _ _ | .completionTimeout _ _ =>
    [.regs, .mem, .errs, .lpErr, .chUe, .host, .store, .acc, .anchors, .pend, .ctxs, .arrs, .parts, .health, .leash, .trigs, .log,
     .recUsed, .recDrop, .engs, .conns, .bars, .hounds, .cells, .cjobs, .dsps, .dumps, .recd, .attn, .sigq, .convq, .flash, .pairs, .free,
     .emitted]
  | .linkDown =>
    [.regs, .health, .linkOn]
  | .linkUp _ _ _ =>
    [.regs, .host, .attn, .linkOn]
  | .doeRequest _ =>
    [.regs, .sys, .emitted]
  | .perstN _ | .hotReset | .uhlileMismatch | .moduleReset _ | .warmReset _ _ | .runWatchdog =>
    [.regs, .mem, .errs, .lpErr, .chUe, .store, .acc, .anchors, .pend, .vreg, .ctxs, .arrs, .parts, .vecTurn, .health, .leash, .trigs,
     .engs, .conns, .bars, .hounds, .samp, .cells, .cjobs, .dsps, .dspMem, .dspP, .dets, .dumps, .clk, .recd, .attn, .linkOn, .failed,
     .lpAct0, .lpAct1, .sigq, .convq, .flash, .arrives, .held, .heldCode, .pairs, .radio, .time, .last, .sys, .emitted]
  | .sliceCreate _ | .ctxStart _ | .batchSubmit _ | .sliceResume _ =>
    [.regs, .mem, .errs, .lpErr, .chUe, .host, .store, .acc, .ctxs, .parts, .health, .leash, .trigs, .log, .recUsed, .recDrop, .recd,
     .attn, .flash, .emitted]
  | .arrayMove _ =>
    [.regs, .mem, .errs, .lpErr, .chUe, .host, .store, .acc, .anchors, .pend, .ctxs, .parts, .health, .leash, .trigs, .log, .recUsed,
     .recDrop, .recd, .attn, .flash, .emitted]
  | .listEntry _ _ =>
    [.regs, .mem, .errs, .lpErr, .chUe, .host, .store, .acc, .anchors, .pend, .ctxs, .arrs, .parts, .health, .leash, .trigs, .log,
     .recUsed, .recDrop, .engs, .conns, .bars, .hounds, .cells, .cjobs, .dsps, .dspP, .dets, .dumps, .recd, .attn, .sigq, .convq, .flash,
     .pairs, .radio, .time, .last, .sys, .free, .emitted]
  | .sliceRestore _ _ _ =>
    [.regs, .mem, .errs, .lpErr, .chUe, .host, .store, .acc, .anchors, .pend, .ctxs, .arrs, .parts, .health, .leash, .trigs, .log,
     .recUsed, .recDrop, .engs, .conns, .bars, .hounds, .dumps, .recd, .attn, .sigq, .convq, .flash, .pairs, .free, .emitted]
  | .launchBarrier _ | .arrive _ _ _ _ =>
    [.regs, .mem, .errs, .lpErr, .chUe, .host, .store, .acc, .anchors, .pend, .ctxs, .arrs, .parts, .health, .leash, .trigs, .log,
     .recUsed, .recDrop, .engs, .conns, .bars, .hounds, .dumps, .recd, .attn, .sigq, .convq, .flash, .arrives, .pairs, .emitted]
  | .partitionResetDone _ =>
    [.regs, .host, .parts, .attn, .emitted]
  | .ctrDump _ =>
    [.regs, .mem, .errs, .lpErr, .chUe, .host, .store, .acc, .parts, .health, .leash, .trigs, .log, .recUsed, .recDrop, .dumps, .recd,
     .attn, .flash, .emitted]
  | .leashToken _ =>
    [.leash]
  | .hoursUpdate =>
    [.flash]
  | .freezeTimeout =>
    [.regs, .host, .trigs, .log, .recd, .attn, .emitted]
  | .recEraseDone =>
    [.regs, .host, .trigs, .log, .recUsed, .recDrop, .recd, .attn, .emitted]
  | .fabricRequestRx _ | .flagStorePerform _ _ =>
    [.regs, .mem, .errs, .lpErr, .chUe, .host, .store, .acc, .health, .leash, .trigs, .log, .recUsed, .recDrop, .conns, .recd, .attn,
     .flash, .emitted]
  | .credit _ _ _ | .retransmit _ _ =>
    [.regs, .conns, .emitted]
  | .fabricPortDown _ | .laneLossOfSignal _ =>
    [.regs, .host, .health, .leash, .trigs, .log, .recUsed, .recDrop, .recd, .attn, .sys, .free, .emitted]
  | .houndPacketRx _ _ _ _ | .houndCfgWrite _ _ _ =>
    [.regs, .host, .leash, .trigs, .log, .recUsed, .recDrop, .hounds, .recd, .attn, .emitted]
  | .clockFailure _ =>
    [.regs, .mem, .errs, .lpErr, .chUe, .host, .store, .acc, .anchors, .pend, .ctxs, .arrs, .parts, .health, .leash, .trigs, .log,
     .recUsed, .recDrop, .engs, .conns, .bars, .hounds, .cells, .cjobs, .dsps, .dets, .dumps, .recd, .attn, .failed, .sigq, .convq,
     .flash, .held, .pairs, .radio, .last, .free, .emitted]
  | .supplyEvent _ =>
    [.regs, .mem, .errs, .lpErr, .chUe, .host, .store, .acc, .anchors, .pend, .ctxs, .arrs, .parts, .health, .leash, .trigs, .log,
     .recUsed, .recDrop, .engs, .conns, .bars, .hounds, .cells, .cjobs, .dsps, .dumps, .recd, .attn, .failed, .sigq, .convq, .flash,
     .held, .pairs, .radio, .last, .sys, .free, .emitted]
  | .railEvent _ =>
    [.regs, .mem, .errs, .lpErr, .chUe, .host, .store, .acc, .anchors, .pend, .vreg, .ctxs, .arrs, .parts, .vecTurn, .health, .leash,
     .trigs, .log, .recUsed, .recDrop, .engs, .conns, .bars, .hounds, .samp, .cells, .cjobs, .dsps, .dspMem, .dspP, .dets, .dumps, .clk,
     .recd, .attn, .linkOn, .failed, .lpAct0, .lpAct1, .sigq, .convq, .flash, .arrives, .held, .heldCode, .pairs, .radio, .time, .last,
     .sys, .free, .emitted]
  | .arraySelftest _ _ _ | .channelRetraining _ _ _ =>
    [.regs, .host, .health, .leash, .trigs, .log, .recUsed, .recDrop, .recd, .attn, .flash, .emitted]
  | .resetProtocolTimeout | .loInLoss =>
    [.regs, .attn, .failed, .sys, .emitted]
  | .notReadyClear =>
    [.regs, .mem, .errs, .lpErr, .chUe, .host, .store, .acc, .parts, .health, .leash, .trigs, .log, .recUsed, .recDrop, .dets, .clk,
     .recd, .attn, .failed, .lpAct0, .lpAct1, .flash, .radio, .sys, .emitted]
  | .inputQualified _ =>
    [.sys, .emitted]
  | .undervoltage _ | .overvoltage _ | .thermalTrip =>
    [.regs, .mem, .errs, .lpErr, .chUe, .host, .store, .acc, .anchors, .pend, .vreg, .ctxs, .arrs, .parts, .vecTurn, .health, .leash,
     .trigs, .log, .recUsed, .recDrop, .engs, .conns, .bars, .hounds, .samp, .cells, .cjobs, .dsps, .dspMem, .dspP, .dets, .dumps, .clk,
     .recd, .attn, .linkOn, .failed, .lpAct0, .lpAct1, .sigq, .convq, .flash, .arrives, .held, .heldCode, .pairs, .radio, .time, .last,
     .sys, .emitted]
  | .faultRestart | .portLinkUp _ =>
    [.sys]
  | .powerSample _ _ _ =>
    [.regs, .last]
  | .fecUncorrectableCodeword _ =>
    [.regs, .host, .health, .leash, .trigs, .log, .recUsed, .recDrop, .recd, .attn, .free, .emitted]
  | .pcieCorrectableError =>
    [.regs, .health]
  | .creditReturn _ =>
    [.conns, .emitted]
  | .radioStageOverrun _ =>
    [.regs, .host, .ctxs, .arrs, .leash, .trigs, .log, .recUsed, .recDrop, .cells, .cjobs, .dsps, .recd, .attn, .sigq, .free, .emitted]
  | .arriveHoldExpiry _ =>
    [.arrives]

end Sys2Proof
end

