-- ==== Sys2Proof/Certificates/Slice0/Obligations.lean ====
section
/-! DEFINITION. The statements about the module. A clause is headed by its name, that of a command or of one of its forms; `Gives c s P`: command c at
state s completes in a next state with P; `Same F s t`: the states agree outside the footprint F. -/

open Sys2Proof Sys2Proof.Machine

/-- The module after reset meets the invariant. After 00_scope.md: Notation. -/
def Obligations.ResetInv : Prop :=
  State.reset.Inv

/-- A step keeps the invariant. After 00_scope.md: Notation. -/
def Obligations.StepKeepsInv : Prop :=
  ∀ s t : State, s.Inv → step s = .next t → t.Inv

/-- A command changes only its own pieces of the state. After 00_scope.md: Notation; 01_architecture.md: Violations and faults. -/
def Obligations.TouchesOnly : Prop :=
  ∀ (s : State) (c : Instr), s.Inv → Framed (.whole c.touches) c s

/-- A step runs the command in front. After 00_scope.md: Notation. -/
def Obligations.StepRunsFront : Prop :=
  ∀ (s : State) (c : Instr) (r : List Instr), s.pending = c :: r → step s = exec c { s with pending := r }

/-- Every command answers a next state. After 00_scope.md: Notation. -/
def Obligations.NeverStops : Prop :=
  ∀ (c : Instr) (s : State), ∃ t, exec c s = .next t

/-- A step on an empty queue lets a core cycle pass. After 01_architecture.md: Islands and the global tick; 11_time.md: Sideband time
pins; 11_time.md: States, step and rate; 18_counters_recorder.md: Counter sets. -/
def Obligations.StepIdle : Prop :=
  ∀ s : State, s.Inv → s.pending = [] → s.sys.bring = none →
    ∃ t, step s = .next t ∧ t.clk = { s.clk with cyc := s.clk.cyc + 1 } ∧ t.pending = [] ∧
      (s.time.ppsUp = none → (s.timeState ≠ stRecovery ∨ s.flag R.timeStat F.timeStat_TIME_QUAL = false) → (∀ d, (s.dspsAt d).job = none) →
        Same (.any [pmcAllFoot, .whole [.clk]]) s t) ∧
      (∀ k, s.time.ppsUp = some k → k + 25000 ≤ t.tick → t.time.ppsUp = none ∧ Emit.pin 0 false ∈ t.emitted) ∧
      (s.timeState = stRecovery → s.flag R.timeStat F.timeStat_TIME_QUAL = true → t.timeState = stAcquire)

/-- Registers at reset. After 00_scope.md: Notation; 11_time.md: Time unit registers; 12_last_schedule.md: Power split; 13_host_link.md:
Host register page; 14_slices_joreg.md: Faults, resets and violations; 15_fabric.md: Fabric registers. -/
def Obligations.ResetValues : Prop :=
  State.reset.fld R.timeCfg F.timeCfg_DOMAIN = 0x18 ∧
  State.reset.fld R.timeStat F.timeStat_CLASS = 0xF8 ∧
  State.reset.fld R.timeHold F.timeHold_HOLD_FREQ = 14400 ∧
  State.reset.fld R.timeBound F.timeBound_LOCK_N = 0x10 ∧
  State.reset.fld R.timeFreq F.timeFreq_QL_RX = 0xF ∧
  State.reset.fld R.fabCfg F.fabCfg_NODE = 0xFFFF ∧
  State.reset.fld R.fabCfg F.fabCfg_UDP_PORT = 0xB7A0 ∧
  State.reset.fld R.fabTmr F.fabTmr_TMO = 0x03E8 ∧
  State.reset.fld R.fabCred F.fabCred_INIT_CREDIT = 0x10 ∧
  State.reset.fld R.lastPwr F.lastPwr_CAP_W = 1200 ∧
  State.reset.fld R.hostAttn4 F.hostAttn4_NOT_READY = 1 ∧
  State.reset.fld R.gwIdent F.gwIdent_PART = 0x7460 ∧
  State.reset.fld R.gwLock F.gwLock_FAB = 0 ∧
  State.reset.fld R.gwLock F.gwLock_TIME = 0 ∧
  (∀ c, c < 64 → State.reset.fld (R.coreSeqCfg c) F.coreSeqCfg_SYNC_TMO = 100) ∧
  (∀ c, c < 32 → State.reset.fld (R.codeCellCfg c) F.codeCellCfg_IT_MAX = 8) ∧
  (∀ c, c < 32 → State.reset.fld (R.raCellCfg c 1) F.raCellCfg_NPRE = 64) ∧
  (∀ c, c < 8 → State.reset.fld (R.repHoundCfg c) F.repHoundCfg_PEER_NODE = 0xFFFF) ∧
  (∀ c, c < 5 → State.reset.fld (R.healthCfg c) F.healthCfg_FAIL_THR = 1000) ∧
  (∀ c, c < 258 → State.reset.fld (R.sliceViol c) F.sliceViol_COUNT = 0)

/-- A failed module stays failed until a reset. After 20_startup.md: The start-up sequence. -/
def Obligations.FailedStays : Prop :=
  ∀ (s : State) (c : Instr) (t : State), s.Inv → s.failed = true → exec c s = .next t → t.failed = true ∨
    match c with
    | .moduleReset _ | .warmReset _ _ | .undervoltage _ | .overvoltage _ | .railEvent .management | .thermalTrip | .runWatchdog | .uhlileMismatch
    | .perstN _ | .hotReset => True
    | _ => False

/-- A failed module answers BAD_STATE. After 20_startup.md: The start-up sequence; 14_slices_joreg.md: Mailboxes. -/
def Obligations.FailedMailbox : Prop :=
  ∀ (s : State) (c : Instr) (op : Nat), s.Inv → c.mailbox = some (256, op) → s.failed = true → s.mbServed 256 = true →
    (s.mbCmd 256).opcode = op → s.recWait = false → op ∉ [0x0001, 0x0800, 0x0806, 0x0900, 0x0901] →
    Gives c s fun t => Same (pageFoot 256) s t ∧ t.answered 256 stBadState = true ∧ bits (t.rd (mbRepHdr 256 1)).toNat 63 48 = 0x00FF

/-- Commands of the Joreg interface have opcodes of its tables. After 14_slices_joreg.md: Mailboxes; 14_slices_joreg.md: Opcodes. -/
def Obligations.JoregOpcodes : Prop :=
  ∀ (c : Instr) (mb op : Nat), c.mailbox = some (mb, op) → (jOp op).isSome = true

/-- A command is held while the module is not ready. After 20_startup.md: The start-up sequence; 20_startup.md: Boot images and recovery. -/
def Obligations.NotReadyHolds : Prop :=
  ∀ (s : State) (c : Instr) (mb op : Nat), c.mailbox = some (mb, op) → s.notReady = true → s.failed = false → s.recWait = false →
    Gives c s fun t => t = s

/-- The access codes of the register maps. Formalises R4. -/
def Obligations.AccessCodes : Prop :=
  (∀ (s : State) (a : Nat) (v tied : Word) (d : RegBlock) (f : Field), s.Inv → plainReg a = true → regDesc a = some d → f ∈ d.flds →
    fldInRange (s.ranges a (untied a v tied)) f (untied a v tied) = true → Gives (.registerWrite 256 a 8 v tied) s fun t => Same (.reg a) s t ∧ match f.acc with
      | .rw => t.fld a f = f.get v
      | .rwl => t.fld a f = if s.locked d then s.fld a f else f.get v
      | .w1c => t.fld a f = s.fld a f &&& (f.max ^^^ (f.get v &&& (f.max ^^^ f.get tied)))
      | .ro | .rc => t.fld a f = s.fld a f
      | .wo => t.fld a f = 0) ∧
  (∀ (s : State) (a : Nat) (d : RegBlock) (f : Field), s.Inv → 0x300000000 ≤ a → a < 0x400000000 → a % 8 = 0 →
    ¬(lastWin ≤ a ∧ a < lastWin + 0x80000) → pmcPlace a = none → regDesc a = some d → f ∈ d.flds →
    Gives (.rcRead 256 a 8 none) s fun t => Same (.any [.reg a, .whole [.emitted]]) s t ∧
      t.fld a f = (if f.acc = .rc then f.rst else s.fld a f) ∧ ∃ v, t.emitted = .regRead 256 a v :: s.emitted ∧ match f.acc with
        | .rw | .rwl | .w1c | .rc => f.get v = s.fld a f
        | .wo => f.get v = 0
        | .ro => True)

/-- GW.LOCK and the fields it locks. Formalises R6. -/
def Obligations.LockBits : Prop :=
  (∀ (s : State) (v tied : Word) (f : Field), s.Inv → f ∈ [F.gwLock_FAB, F.gwLock_TIME] →
    (Gives (.lockWrite 256 v) s fun t => Same (.reg R.gwLock) s t ∧ t.fld R.gwLock f = if f.get v = 1 then 1 else s.fld R.gwLock f) ∧
    Gives (.registerWrite 256 R.gwLock 8 v tied) s fun t => Same (.reg R.gwLock) s t ∧ t.fld R.gwLock f = if f.get v = 1 then 1 else s.fld R.gwLock f) ∧
  (∀ (s : State) (who : Nat) (v tied : Word) (tie : Option (Word × Word)), s.Inv → who < 258 → who ≠ 256 →
    (Gives (.lockWrite who v) s fun t => Same (violFoot who) s t) ∧ (Gives (.registerWrite who R.gwLock 8 v tied) s fun t => Same (violFoot who) s t) ∧
    Gives (.rcRead who R.gwLock 8 tie) s fun t => Same (.any [violFoot who, .whole [.emitted]]) s t ∧ t.emitted.head? = some (.regRead who R.gwLock 0)) ∧
  (∀ (s : State) (r : StartReport), s.Inv → s.sys.inOk = true → s.flag R.pwrStat F.pwrStat_LO_QUAL = true → s.sys.fault = none →
    s.fld R.hostBoot F.hostBoot_STEP = 0 → s.sys.warm = none → Gives (.moduleReset r) s fun t => t.rd R.gwLock = 0) ∧
  (∀ (s : State) (cause : Nat) (r : StartReport), s.Inv → s.sys.warm = some cause → s.sys.bring = none → s.sys.fault = none →
    Gives (.warmReset cause r) s fun t => t.rd R.gwLock = 0) ∧
  (∀ (s : State) (a : Nat) (v tied : Word) (d : RegBlock) (f : Field), s.Inv → 0x300000000 ≤ a → a < 0x400000000 → a % 8 = 0 → regDesc a = some d →
    s.locked d = true → f ∈ d.flds → f.acc = .rwl → a ≠ R.gwLock →
    Gives (.registerWrite 256 a 8 v tied) s fun t => t.fld a f = s.fld a f ∧ ∀ p, p < 258 → t.rd (R.sliceViol p) = s.rd (R.sliceViol p))

/-- Accesses to a part of a device register are violations. Formalises R9. -/
def Obligations.WholeWordAccess : Prop :=
  ∀ (s : State) (who a size : Nat) (v tied : Word) (tie : Option (Word × Word)), s.Inv → who < 258 → 0x300000000 ≤ a → a < 0x400000000 → size ≠ 8 ∨ a % 8 ≠ 0 →
    (Gives (.registerWrite who a size v tied) s fun t => Same (violFoot who) s t ∧
      t.fld (R.sliceViol who) F.sliceViol_COUNT = min (s.fld (R.sliceViol who) F.sliceViol_COUNT + 1) (2 ^ 32 - 1)) ∧
    Gives (.rcRead who a size tie) s fun t => Same (.any [violFoot who, .whole [.emitted]]) s t ∧ t.emitted.head? = some (.regRead who a 0) ∧
      t.fld (R.sliceViol who) F.sliceViol_COUNT = min (s.fld (R.sliceViol who) F.sliceViol_COUNT + 1) (2 ^ 32 - 1)

/-- A violation is counted, and its kind. Formalises R315. -/
def Obligations.ViolationCounted : Prop :=
  (∀ (s : State) (part kind : Nat), s.Inv → part < 258 → kind < 4 →
    let t := (Act.violation part kind).run s
    Same (violFoot part) s t ∧
    t.fld (R.sliceViol part) F.sliceViol_COUNT = min (s.fld (R.sliceViol part) F.sliceViol_COUNT + 1) (2 ^ 32 - 1) ∧
    ∀ k, bit (t.fld (R.sliceViol part) F.sliceViol_KINDS) k = (bit (s.fld (R.sliceViol part) F.sliceViol_KINDS) k || k == kind)) ∧
  ∀ (s : State) (part : Nat), s.Inv → part < 258 → Gives (.rcRead 256 (R.sliceViol part) 8 none) s fun t => t.rd (R.sliceViol part) = 0

/-- A counter wraps modulo 2^48; chained pairs. Formalises R401. -/
def Obligations.CounterWraps : Prop :=
  ∀ (s : State) (b i n : Nat), s.Inv → (∃ c, c < 64 ∧ b = R.corePmcCtl c 0) ∨ (∃ g, g < 8 ∧ b = R.gpmcCtl g 0) → i < 8 → n < 2 ^ 48 →
    let val (j : Nat) : Nat := s.fld (b + 16 * j + 8) F.gpmcVal_VALUE
    let t := (Act.pmcAdd b i n).run s
    Same (.any [.reg (b + 16 * i), .reg (b + 16 * i + 8), .reg (b + 16 * i + 24)]) s t ∧
    t.fld (b + 16 * i + 8) F.gpmcVal_VALUE = (val i + n) % 2 ^ 48 ∧
    (if i % 2 = 0 ∧ s.fld (b + 16 * i) F.gpmcCtl_CHAIN = 1 then
      t.fld (b + 16 * i + 24) F.gpmcVal_VALUE = (if 2 ^ 48 ≤ val i + n then (val (i + 1) + 1) % 2 ^ 48 else val (i + 1)) ∧
      t.fld (b + 16 * i) F.gpmcCtl_OVF = (if 2 ^ 48 ≤ val i + n ∧ val (i + 1) = 2 ^ 48 - 1 then 1 else s.fld (b + 16 * i) F.gpmcCtl_OVF)
    else
      t.rd (b + 16 * i + 24) = s.rd (b + 16 * i + 24) ∧
      t.fld (b + 16 * i) F.gpmcCtl_OVF = (if 2 ^ 48 ≤ val i + n then 1 else s.fld (b + 16 * i) F.gpmcCtl_OVF)) ∧
    ∀ ctl cls ev m part master addr, i % 2 = 1 → s.fld (b + 16 * (i - 1)) F.gpmcCtl_CHAIN = 1 →
      (Act.pmcOne b i ctl cls ev m part master addr).run s = s

/-- The log of uncorrectable errors is cleared. Formalises R138. -/
def Obligations.UeLogClear : Prop :=
  -- ueLogClear
  (∀ (s : State) (die : Nat) (val : Word), s.Inv → die < 2 → F.memUeCtl_CLEAR.get val = 1 →
    Gives (.ueLogClear die val) s fun t => Same (.any [.reg (R.memUeCtl die), .regFam 8 (R.memUeLog0 die)]) s t ∧
    t.fld (R.memUeCtl die) F.memUeCtl_COUNT = 0 ∧ t.fld (R.memUeCtl die) F.memUeCtl_LOST = s.fld (R.memUeCtl die) F.memUeCtl_LOST ∧ ∀ e,
    e < 8 → t.fld (R.memUeLog0 die e) F.memUeLog0_V = 0) ∧
  -- ueLogClear_none
  (∀ (s : State) (die : Nat) (val : Word), s.Inv → F.memUeCtl_CLEAR.get val = 0 →
    Gives (.ueLogClear die val) s fun t => Same (.any []) s t)

/-- A launch barrier by the module's own clock. After 16_reproducibility.md: Launching in step. -/
def Obligations.FallbackBarrier : Prop :=
  -- launchBarrier_fallback
  (∀ (s : State) (mb : Nat), s.Inv → s.takes mb 0x0305 = true → bits ((s.mbCmd mb).a 0) 30 18 ≠ 0 →
    bits ((s.mbCmd mb).a 0) 30 18 ≤ 4096 → 10000 ≤ bits ((s.mbCmd mb).a 1) 31 0 → bits ((s.mbCmd mb).a 1) 31 0 ≤ 1000000 →
    (s.mbCmd mb).a 2 ≠ 0 → 2000 ≤ dif64 ((s.mbCmd mb).a 2) s.readingNs → dif64 ((s.mbCmd mb).a 2) s.readingNs ≤ 60000000000 →
    cplBad ((s.mbCmd mb).a 3) = false → (s.barsAt mb).armed = false → (s.timeState = stLocked ∨ s.timeState = stHoldover) →
    (s.partsAt mb).launches.length < 64 → s.noErrors = true → s.dpaKind (s.syncDpa mb (bits ((s.mbCmd mb).a 0) 11 0)) = .kennel →
    Gives (.launchBarrier mb) s fun t => Launched s t mb 8 ∧ (t.barsAt mb).armed = true ∧
    (t.barsAt mb).openAt = some (4 * (s.mbCmd mb).a 2 % 2 ^ 64) ∧
    t.readBytes (s.syncDpa mb (bits ((s.mbCmd mb).a 0) 11 0)) 4 = leBytes (atomicEval .signal (leNat (s.readBytes (s.syncDpa mb (bits
    ((s.mbCmd mb).a 0) 11 0)) 4))).1 4 ∧ ∀ k p w b, Emit.frame k p w b ∈ t.emitted → Emit.frame k p w b ∈ s.emitted) ∧
  -- launchBarrier_fallback_refused
  (∀ (s : State) (mb : Nat), s.Inv → s.takes mb 0x0305 = true → bits ((s.mbCmd mb).a 0) 30 18 ≠ 0 →
    bits ((s.mbCmd mb).a 0) 30 18 ≤ 4096 → 10000 ≤ bits ((s.mbCmd mb).a 1) 31 0 → bits ((s.mbCmd mb).a 1) 31 0 ≤ 1000000 →
    (s.mbCmd mb).a 2 ≠ 0 → (dif64 ((s.mbCmd mb).a 2) s.readingNs < 2000 ∨ 60000000000 < dif64 ((s.mbCmd mb).a 2) s.readingNs) →
    Gives (.launchBarrier mb) s fun t => Same (pageFoot mb) s t ∧ t.answered mb stBadField = true ∧
    bits (t.rd (mbRepHdr mb 1)).toNat 63 48 = 0x0010)

/-- The integer formats. After 02_number_formats.md: The twelve operand formats. -/
def Obligations.IntegerFormats : Prop :=
  (∀ c, c < 2 ^ 16 → decodeVal 0xA c = .fin ⟨if c < 2 ^ 15 then c else (c : Int) - 2 ^ 16, 0⟩) ∧
  (∀ c, c < 2 ^ 8 → decodeVal 7 c = .fin ⟨if c < 2 ^ 7 then c else (c : Int) - 2 ^ 8, 0⟩) ∧
  (∀ c, c < 2 ^ 4 → decodeVal 2 c = .fin ⟨if c < 2 ^ 3 then c else (c : Int) - 2 ^ 4, 0⟩) ∧
  decodeVal 0 0 = .fin ⟨0, 0⟩ ∧ decodeVal 0 1 = .fin ⟨1, 0⟩ ∧ decodeVal 0 3 = .fin ⟨-1, 0⟩ ∧ decodeVal 0 2 = .fin ⟨0, 0⟩ ∧
  ∀ fmt c, isRsv fmt c = true ↔ fmt = 0 ∧ c = 2

/-- Frames, link-up, attention sets, flush, acknowledge, hold. After 07_fronthaul.md: Fronthaul registers; 13_host_link.md: Link;
17_integrity.md: Health scores; 13_host_link.md: The attention vector; 13_host_link.md: Host register page. -/
def Obligations.LinkAndAttention : Prop :=
  -- badFcsFrame
  (∀ (s : State) (port : Nat), s.Inv → port < 48 → Gives (.badFcsFrame port) s fun t => Same (.reg (R.fhPortCnt port)) s t ∧
    (t.fld (R.fhPortCnt port) F.fhPortCnt_FCS = min (s.fld (R.fhPortCnt port) F.fhPortCnt_FCS + 1) F.fhPortCnt_FCS.max)) ∧
  -- linkUp
  (∀ (s : State) (rate : Nat) (width : Nat) (flit : Bool), s.Inv → s.linkOn = false → s.sys.perst = false → 5 ≤ rate → rate ≤ 7 →
    1 ≤ width → width ≤ 5 → Gives (.linkUp rate width flit) s fun t => Same (.any [.whole [.linkOn], .reg R.hostLink, attnOutFoot]) s t ∧
    (t.fld R.hostLink F.hostLink_RATE = rate ∧ t.fld R.hostLink F.hostLink_WIDTH = width)) ∧
  -- pcieCorrectableError
  (∀ (s : State), s.Inv → Gives .pcieCorrectableError s fun t => Same (.any [.reg R.hostLink, healthFoot]) s t ∧
    (t.fld R.hostLink F.hostLink_CE = min (s.fld R.hostLink F.hostLink_CE + 1) F.hostLink_CE.max)) ∧
  -- attentionSet
  (∀ (s : State) (b : Nat), s.Inv → b < 256 →
    Gives (.attentionSet b) s fun t => Same (.any [.reg (R.hostAttn (b / 64)), attnOutFoot]) s t ∧
    (t.fld (R.hostAttn (b / 64)) ⟨63, 0, .w1c, 0⟩ = setBit (s.fld (R.hostAttn (b / 64)) ⟨63, 0, .w1c, 0⟩) (b % 64))) ∧
  -- attentionSet_mgr
  (∀ (s : State) (b : Nat), s.Inv → 256 ≤ b → b < 259 →
    Gives (.attentionSet b) s fun t => Same (.any [.reg R.hostAttn4, attnOutFoot]) s t ∧
    (t.fld R.hostAttn4 F.hostAttn4_BITS = setBit (s.fld R.hostAttn4 F.hostAttn4_BITS) (b - 256))) ∧
  -- attentionFlushDone
  (∀ (s : State) (ok : Bool), s.Inv → s.attn.busy = true → s.attn.wrote = true → s.attn.again = false →
    Gives (.attentionFlushDone ok) s fun t => Same (.whole [.attn, .emitted]) s t ∧ (t.attn.busy = false ∧ t.attn.want = true)) ∧
  -- attentionAck
  (∀ (s : State) (word : Nat) (val : Word) (tied : Word), s.Inv → word < 4 → s.rd (R.hostAttn word) &&& (val &&& ~~~tied) ≠ 0 →
    Gives (.attentionAck word val tied) s fun t => Same (.any [.reg (R.hostAttn word), attnOutFoot]) s t ∧
    (t.rd (R.hostAttn word) = s.rd (R.hostAttn word) &&& ~~~(val &&& ~~~tied))) ∧
  -- attentionAck_mgr
  (∀ (s : State) (val : Word) (tied : Word), s.Inv → s.fld R.hostAttn4 F.hostAttn4_BITS &&& ((val &&& ~~~tied).toNat % 8) ≠ 0 →
    Gives (.attentionAck 4 val tied) s fun t => t.fld R.hostAttn4 F.hostAttn4_BITS = s.fld R.hostAttn4 F.hostAttn4_BITS &&& (s.fld
    R.hostAttn4 F.hostAttn4_BITS ^^^ ((val &&& ~~~tied).toNat % 8)) ∧
    t.fld R.hostAttn4 F.hostAttn4_NOT_READY = s.fld R.hostAttn4 F.hostAttn4_NOT_READY) ∧
  -- attnCfgWrite
  (∀ (s : State) (val : Word), s.Inv → Gives (.attnCfgWrite val) s fun t => Same (.any [.reg R.hostAttnCfg, attnOutFoot]) s t ∧
    (t.rd R.hostAttnCfg = val &&& regMask R.hostAttnCfg)) ∧
  -- rbNHoldEnd
  (∀ (s : State), s.Inv → s.attn.hold = true → Gives .rbNHoldEnd s fun t => Same (.whole [.attn, .emitted]) s t ∧
    (t.attn.rbLow = s.attn.want))

/-- Link-down, fronthaul and fabric ports, DMA errors, the BAR2 window. After 13_host_link.md: Link loss; 15_fabric.md: Timeouts, faults
and resets; 17_integrity.md: What a failure costs; 17_integrity.md: Health scores; 05_memory.md: Channel failure and retirement;
13_host_link.md: Writes into host memory; 13_host_link.md: BARs. -/
def Obligations.LinkLossAndPorts : Prop :=
  -- linkDown
  (∀ (s : State), s.Inv → s.linkOn = true → s.sys.perst = false →
    Gives .linkDown s fun t => Same (.any [.whole [.linkOn], .reg R.hostLink, healthFoot]) s t ∧ (t.linkOn = false ∧
    t.fld R.hostLink F.hostLink_RATE = 0 ∧
    t.fld R.hostLink F.hostLink_DOWNS = min (s.fld R.hostLink F.hostLink_DOWNS + 1) F.hostLink_DOWNS.max)) ∧
  -- portLinkUp
  (∀ (s : State) (port : Nat), s.Inv → port < 48 → s.fld (R.fhPortCfg port) F.fhPortCfg_WIDTH ≠ 0 → port ∉ s.sys.ports →
    Gives (.portLinkUp port) s fun t => Same (.whole [.sys]) s t ∧
    (t.sys.ports = (s.sys.ports.filter (· < port)) ++ [port] ++ s.sys.ports.filter (port < ·))) ∧
  -- channelRetraining
  (∀ (s : State) (ch : Nat) (retries : Nat), s.Inv → ch < 128 →
    Gives (.channelRetraining ch retries true) s fun t => Same (healthFoot) s t ∧
    ((t.healthAt (1 * 1024 + ch)).ev2 = (s.healthAt (1 * 1024 + ch)).ev2 + retries)) ∧
  -- fecUncorrectableCodeword
  (∀ (s : State) (lane : Nat), s.Inv → lane < 48 →
    Gives (.fecUncorrectableCodeword lane) s fun t => Same (.any [.whole [.free], recFoot, healthFoot]) s t ∧
    ((t.healthAt (2 * 1024 + lane)).ev1 = (s.healthAt (2 * 1024 + lane)).ev1 + 1)) ∧
  -- laneLossOfSignal
  (∀ (s : State) (lane : Nat) (p : Nat), s.Inv → lane < 48 → s.portOf lane = some p → s.fld (R.fhPortCfg p) F.fhPortCfg_USE ≠ 2 →
    Gives (.laneLossOfSignal lane) s fun t => Same (.any [.whole [.free, .sys], recFoot, healthFoot]) s t ∧
    (t.sys.ports = s.sys.ports.filter (· != p) ∧ (t.healthAt (2 * 1024 + lane)).ev2 = (s.healthAt (2 * 1024 + lane)).ev2 + 1)) ∧
  -- fabricPortDown
  (∀ (s : State) (lane : Nat) (p : Nat), s.Inv → lane < 48 → s.portOf lane = some p → s.fld (R.fhPortCfg lane) F.fhPortCfg_USE = 2 →
    lane ∈ s.sys.ports → Gives (.fabricPortDown lane) s fun t => Same (.any [.whole [.free, .sys], recFoot, healthFoot]) s t ∧
    (t.sys.ports = s.sys.ports.filter (· != p) ∧ (t.healthAt (2 * 1024 + lane)).ev2 = (s.healthAt (2 * 1024 + lane)).ev2 + 1)) ∧
  -- dmaCompletionError
  (∀ (s : State) (part : Nat) (cells : List Nat), s.Inv → 256 ≤ part → part ≠ 0x101 →
    Gives (.dmaCompletionError part cells) s fun t => Same (.reg R.hostDma) s t ∧
    (t.fld R.hostDma F.hostDma_CPL_ERR = min (s.fld R.hostDma F.hostDma_CPL_ERR + 1) F.hostDma_CPL_ERR.max)) ∧
  -- completionTimeout
  (∀ (s : State) (part : Nat) (cells : List Nat), s.Inv → 256 ≤ part → part ≠ 0x101 →
    Gives (.completionTimeout part cells) s fun t => Same (.reg R.hostDma) s t ∧
    (t.fld R.hostDma F.hostDma_CPL_ERR = min (s.fld R.hostDma F.hostDma_CPL_ERR + 1) F.hostDma_CPL_ERR.max)) ∧
  -- bar2Access_write
  (∀ (s : State) (off : Nat) (data : List Byte), s.Inv → data.length = 1 → off < 0x10000000 →
    s.dpaKind (s.fld R.hostBar2 F.hostBar2_SEL * 0x1000000 + off) = DpaKind.kennel →
    (s.fld R.hostBar2 F.hostBar2_SEL * 0x1000000 + off) / 0x1000000 ∉ s.radio.units →
    Gives (.bar2Access off true 1 data []) s fun t => t.memAt (s.fld R.hostBar2 F.hostBar2_SEL * 0x1000000 + off) = data.getD 0 0 ∧ ∀ a,
    a ≠ s.fld R.hostBar2 F.hostBar2_SEL * 0x1000000 + off → t.memAt a = s.memAt a)

/-- Supply, reference input, temperature and power events. After 21_electrical.md: Clock inputs; 21_electrical.md: The 44 V input;
21_electrical.md: On-module rails; 21_electrical.md: Power and temperature; 17_integrity.md: What a failure costs. -/
def Obligations.Electrical : Prop :=
  -- inputQualified
  (∀ (s : State) (mv : Nat), s.Inv → 40000 ≤ mv → s.sys.inOk = false → s.sys.fault = none →
    Gives (.inputQualified mv) s fun t => Same (.whole [.sys, .emitted]) s t ∧ (t.sys.inOk = true ∧ t.emitted = .pin 1 false :: s.emitted)) ∧
  -- inputOutOfRange
  (∀ (s : State) (mv : Nat), s.Inv → 48000 ≤ mv → mv ≤ 50000 → s.sys.inOk = true →
    Gives (.inputOutOfRange mv) s fun t => Same (.any [.reg R.pwrCnt, .reg R.pwrStat, recFoot]) s t ∧
    (t.fld R.pwrCnt F.pwrCnt_OOR_EVENTS = min (s.fld R.pwrCnt F.pwrCnt_OOR_EVENTS + 1) F.pwrCnt_OOR_EVENTS.max ∧
    t.fld R.pwrStat F.pwrStat_OOR = 1)) ∧
  -- uvDip
  (∀ (s : State), s.Inv → s.sys.inOk = true → Gives .uvDip s fun t => Same (.reg R.pwrCnt) s t ∧
    (t.fld R.pwrCnt F.pwrCnt_UV_DIPS = min (s.fld R.pwrCnt F.pwrCnt_UV_DIPS + 1) F.pwrCnt_UV_DIPS.max)) ∧
  -- faultRestart
  (∀ (s : State), s.Inv → s.sys.fault.isSome = true → s.sys.inOk = true → Gives .faultRestart s fun t => Same (.whole [.sys]) s t ∧
    (t.sys.fault = none ∧ t.sys.inOk = true)) ∧
  -- loInQualified
  (∀ (s : State), s.Inv → Gives .loInQualified s fun t => Same (.reg R.pwrStat) s t ∧ (t.fld R.pwrStat F.pwrStat_LO_QUAL = 1)) ∧
  -- loInLoss
  (∀ (s : State), s.Inv → s.fld R.hostBoot F.hostBoot_STEP = 0 → Gives .loInLoss s fun t => Same (.reg R.pwrStat) s t ∧
    (t.fld R.pwrStat F.pwrStat_LO_QUAL = 0)) ∧
  -- loInLoss_service
  (∀ (s : State), s.Inv → s.fld R.hostBoot F.hostBoot_STEP ≠ 0 → s.notReady = false → Gives .loInLoss s fun t => t.failed = true ∧
    t.fld R.pwrStat F.pwrStat_LO_QUAL = 0 ∧ t.fld R.hostAttn4 F.hostAttn4_NOT_READY = 1) ∧
  -- tempSample
  (∀ (s : State) (tj : Int) (island : Island), s.Inv → s.fld R.lastBtick F.lastBtick_TICK ≠ s.tick →
    tj > s16 (s.fld R.pwrTemp F.pwrTemp_TJ_PEAK) → island < 256 →
    Gives (.tempSample tj island) s fun t => Same (.any [.reg R.pwrTemp, .reg R.lastPwr2, .reg R.pwrStat, recFoot]) s t ∧
    (t.fld R.pwrTemp F.pwrTemp_TJ_MAX = (tj % 65536).toNat ∧ t.fld R.pwrTemp F.pwrTemp_TJ_PEAK = (tj % 65536).toNat ∧
    t.fld R.pwrTemp F.pwrTemp_HOT_ISL = island ∧ t.fld R.lastPwr2 F.lastPwr2_THERM_PCT = thermPct tj)) ∧
  -- powerSample
  (∀ (s : State) (mv : Nat) (ma : Nat) (pin : Nat), s.Inv → mv ≤ 60000 → ma ≤ 100000 → pin > 1400 → pin < 65536 →
    s.flag R.pwrStat F.pwrStat_PEAK = false →
    Gives (.powerSample mv ma pin) s fun t => Same (.any [.reg R.pwrStat, .reg R.pwrCnt, .whole [.last]]) s t ∧
    (t.fld R.pwrStat F.pwrStat_VIN = mv / 10 ∧ t.fld R.pwrStat F.pwrStat_IIN = ma / 10 ∧ t.fld R.pwrStat F.pwrStat_PIN = pin ∧
    t.fld R.pwrStat F.pwrStat_PEAK = 1 ∧ t.last.bucket = 0)) ∧
  -- undervoltage
  (∀ (s : State) (mv : Nat), s.Inv → mv < 40000 → s.sys.inOk = true → s.sys.fault = none →
    Gives (.undervoltage mv) s fun t => t.sys.fault = some 1 ∧ t.sys.inOk = false ∧ t.sys.warm = none ∧
    t.fld R.hostAttn4 F.hostAttn4_NOT_READY = 1) ∧
  -- overvoltage
  (∀ (s : State) (mv : Nat), s.Inv → 50000 < mv → s.sys.inOk = true → s.sys.fault = none →
    Gives (.overvoltage mv) s fun t => t.sys.fault = some 2 ∧ t.sys.inOk = true ∧ t.sys.warm = none ∧
    t.fld R.hostAttn4 F.hostAttn4_NOT_READY = 1) ∧
  -- thermalTrip
  (∀ (s : State), s.Inv → s.sys.inOk = true → s.sys.fault = none → Gives .thermalTrip s fun t => t.sys.fault = some 3 ∧
    t.sys.inOk = true ∧ t.sys.warm = none ∧ t.fld R.hostAttn4 F.hostAttn4_NOT_READY = 1) ∧
  -- railEvent_management
  (∀ (s : State), s.Inv → s.sys.fault = none → Gives (.railEvent .management) s fun t => t.sys.fault = some 4 ∧ t.sys.inOk = false ∧
    t.fld R.hostAttn4 F.hostAttn4_NOT_READY = 1) ∧
  -- railEvent_gateway
  (∀ (s : State) (r : Nat), s.Inv →
    Gives (.railEvent (.gateway r)) s fun t => Same (.any [.whole [.failed, .attn, .emitted], .reg R.pwrCnt, .reg R.hostBoot, .reg R.hostAttn4])
    s t ∧ t.failed = true ∧ t.fld R.hostBoot F.hostBoot_FAILED = 1 ∧ t.fld R.hostAttn4 F.hostAttn4_NOT_READY = 1 ∧
    t.fld R.pwrCnt F.pwrCnt_RAIL_EVENTS = min (s.fld R.pwrCnt F.pwrCnt_RAIL_EVENTS + 1) F.pwrCnt_RAIL_EVENTS.max) ∧
  -- railEvent_core
  (∀ (s : State) (c : Nat), s.Inv → c < 64 → Gives (.railEvent (.core c)) s fun t => t.sys.supply = s.recent s.sys.supply c)

/-- Module reset, warm reset, reset protocol, PERST_N, Uhlile mismatch, recovery load. After 20_startup.md: The start-up sequence;
20_startup.md: Resets; 20_startup.md: Boot images and recovery; 17_integrity.md: The CHK promise. -/
def Obligations.StartAndResets : Prop :=
  -- moduleReset
  (∀ (s : State) (r : StartReport), s.Inv → s.sys.inOk = true → s.flag R.pwrStat F.pwrStat_LO_QUAL = true → s.sys.fault = none →
    s.fld R.hostBoot F.hostBoot_STEP = 0 → s.sys.warm = none → r.flash.readOk = true → imgBad r.flash.bytes = none →
    Gives (.moduleReset r) s fun t => t.sys.bring = some r ∧
    t.sys.vers = Config.romVersion % 2 ^ 32 :: (List.range 3).map (imgVer r.flash.bytes) ∧ t.fld R.hostBoot F.hostBoot_STEP = 2 ∧
    t.fld R.secStat F.secStat_KEY_READY = 1) ∧
  -- warmReset
  (∀ (s : State) (cause : Nat) (r : StartReport), s.Inv → s.sys.warm = some cause → s.sys.bring = none → s.sys.fault = none →
    r.flash.readOk = true → imgBad r.flash.bytes = none → s.sys.recImg = none →
    Gives (.warmReset cause r) s fun t => t.sys.bring = some r ∧ t.sys.warm = some cause ∧ t.fld R.hostBoot F.hostBoot_STEP = 2 ∧
    t.fld R.secStat F.secStat_KEY_READY = 1) ∧
  -- resetProtocolTimeout
  (∀ (s : State), s.Inv → s.sys.bring.isSome = true → s.sys.proto < 2 → Gives .resetProtocolTimeout s fun t => Same (.whole [.sys]) s t ∧
    t.sys.proto = s.sys.proto + 1) ∧
  -- resetProtocolTimeout_fails
  (∀ (s : State), s.Inv → s.sys.bring.isSome = true → 2 ≤ s.sys.proto → Gives .resetProtocolTimeout s fun t => t.failed = true ∧
    t.fld R.hostBoot F.hostBoot_CAUSE = 5 ∧ t.fld R.hostAttn4 F.hostAttn4_NOT_READY = 1) ∧
  -- runWatchdog
  (∀ (s : State), s.Inv → s.sys.bring.isSome = true → s.sys.recImg = none → Gives .runWatchdog s fun t => t.sys.bring = none ∧
    t.fld R.hostBoot F.hostBoot_CAUSE = 3 ∧ t.fld R.hostBoot F.hostBoot_REC_WAIT = 1 ∧ t.fld R.hostAttn4 F.hostAttn4_NOT_READY = 1) ∧
  -- perstN_fall
  (∀ (s : State), s.Inv → s.sys.fault = none → s.sys.perst = false → s.notReady = false →
    Gives (.perstN false) s fun t => t.sys.warm = some 1 ∧ t.sys.perst = true ∧ t.linkOn = false ∧
    t.fld R.hostAttn4 F.hostAttn4_NOT_READY = 1) ∧
  -- perstN_early
  (∀ (s : State), s.Inv → s.sys.fault = none → s.sys.perst = false → s.notReady = true →
    Gives (.perstN false) s fun t => Same (.any [.whole [.sys, .linkOn], .reg R.hostLink]) s t ∧ t.sys.perst = true ∧ t.linkOn = false ∧
    t.rd R.hostLink = regReset R.hostLink) ∧
  -- perstN_rise
  (∀ (s : State), s.Inv → s.sys.fault = none → Gives (.perstN true) s fun t => Same (.whole [.sys]) s t ∧ t.sys.perst = false) ∧
  -- hotReset
  (∀ (s : State), s.Inv → s.sys.fault = none → s.linkOn = true → s.notReady = false → Gives .hotReset s fun t => t.sys.warm = some 2 ∧
    t.linkOn = false ∧ t.fld R.hostAttn4 F.hostAttn4_NOT_READY = 1) ∧
  -- hotReset_early
  (∀ (s : State), s.Inv → s.sys.fault = none → s.linkOn = true → s.notReady = true →
    Gives .hotReset s fun t => Same (.whole [.linkOn]) s t ∧ t.linkOn = false) ∧
  -- uhlileMismatch
  (∀ (s : State), s.Inv → (s.sys.bring.isSome = true ∨ s.notReady = false) → s.sys.uhMis = none →
    Gives .uhlileMismatch s fun t => Same (.whole [.sys]) s t ∧ t.sys.uhDown = true ∧ t.sys.uhMis = some s.tick) ∧
  -- uhlileMismatch_again
  (∀ (s : State) (t0 : Nat), s.Inv → s.sys.bring = none → s.notReady = false → s.sys.uhMis = some t0 → s.tick < t0 + 250000000 →
    Gives .uhlileMismatch s fun t => Same (.any [.whole [.sys, .failed, .attn, .emitted], .reg R.hostBoot, .reg R.hostAttn4]) s t ∧
    t.failed = true ∧ t.fld R.hostBoot F.hostBoot_FAILED = 1 ∧ t.fld R.hostAttn4 F.hostAttn4_NOT_READY = 1) ∧
  -- uhlileRestartDone
  (∀ (s : State), s.Inv → s.sys.uhDown = true → Gives .uhlileRestartDone s fun t => t.sys = { s.sys with uhDown := false }) ∧
  -- notReadyClear
  (∀ (s : State), s.Inv → s.notReady = true → s.failed = false → s.recWait = false → s.linkOn = true → s.sys.bring = none →
    s.fld R.hostBoot F.hostBoot_STEP = 10 → Gives .notReadyClear s fun t => t.fld R.hostBoot F.hostBoot_STEP = 11 ∧ t.notReady = false ∧
    t.sys.owed = false) ∧
  -- notReadyClear_owed
  (∀ (s : State), s.Inv → s.notReady = true → s.failed = false → s.recWait = false → s.linkOn = true → s.sys.bring = none →
    s.fld R.hostBoot F.hostBoot_STEP = 10 → s.sys.owed = true →
    Gives .notReadyClear s fun t => t.fld R.hostAttn4 F.hostAttn4_BITS = setBit (s.fld R.hostAttn4 F.hostAttn4_BITS) 0) ∧
  -- recoveryLoad
  (∀ (s : State) (mb : Nat), s.Inv → s.takes mb 0x0002 = true → s.recWait = true → (s.mbCmd mb).a 1 % 4096 = 0 →
    (s.mbCmd mb).a 1 ≤ 0x1000000 → imgBad (s.hostRead noPasid ((s.mbCmd mb).a 0) ((s.mbCmd mb).a 1)) = none →
    Gives (.recoveryLoad mb true) s fun t => t.sys.warm = some 3 ∧
    t.sys.recImg = some (s.hostRead noPasid ((s.mbCmd mb).a 0) ((s.mbCmd mb).a 1)) ∧ t.answered mb 0 = true ∧
    t.fld R.hostBoot F.hostBoot_REC_LOADS = min (s.fld R.hostBoot F.hostBoot_REC_LOADS + 1) F.hostBoot_REC_LOADS.max)

/-- Slices: information, creation, end, reset, PASIDs, queries, arrays. After 14_slices_joreg.md: Opcodes; 14_slices_joreg.md: Creating
and destroying slices; 14_slices_joreg.md: Faults, resets and violations. -/
def Obligations.SliceLife : Prop :=
  -- devInfo
  (∀ (s : State) (mb : Nat), s.Inv → s.takes mb 0x0001 = true → Gives (.devInfo mb) s fun t => Same (pageFoot mb) s t ∧
    t.answered mb 0 = true ∧ t.rd (mbRepData mb 0) = s.rd R.gwIdent ∧ (mb < 256 → t.rd (mbRepData mb 2) = 0)) ∧
  -- sliceCreate
  (∀ (s : State) (mb : Nat), s.Inv → s.takes mb 0x0100 = true → s.createOk (s.mbCmd mb) = true →
    Gives (.sliceCreate mb) s fun t => t.answered mb 0 = true ∧ t.sliceState ((s.mbCmd mb).byte 0) = 1 ∧
    (t.partsAt ((s.mbCmd mb).byte 0)).arrays = (s.mbCmd mb).num 8 32 ∧ (t.partsAt ((s.mbCmd mb).byte 0)).quota = (s.mbCmd mb).num 0x36 2 ∧
    (t.partsAt ((s.mbCmd mb).byte 0)).launches = [] ∧
    t.fld (R.sliceStat ((s.mbCmd mb).byte 0)) F.sliceStat_CLASS = (s.mbCmd mb).byte 1 ||| (if bit ((s.mbCmd mb).byte 1) 1 then 1 else 0)) ∧
  -- sliceDestroy
  (∀ (s : State) (mb : Nat), s.Inv → s.takes mb 0x0101 = true → (s.mbCmd mb).a 0 ≤ 255 → s.sliceLive ((s.mbCmd mb).a 0) = true →
    Gives (.sliceDestroy mb) s fun t => t.answered mb 0 = true ∧ t.partsAt ((s.mbCmd mb).a 0) = dfltParts 0 ∧
    t.sliceState ((s.mbCmd mb).a 0) = 0) ∧
  -- sliceReset
  (∀ (s : State) (mb : Nat), s.Inv → s.takes mb 0x0102 = true → (s.mbCmd mb).a 0 ≤ 255 → s.sliceLive ((s.mbCmd mb).a 0) = true →
    Gives (.sliceReset mb) s fun t => t.answered mb 0 = true ∧ t.sliceState ((s.mbCmd mb).a 0) = 4 ∧
    (t.partsAt ((s.mbCmd mb).a 0)).launches = [] ∧ (t.partsAt ((s.mbCmd mb).a 0)).resetMgr = true) ∧
  -- pasidBind
  (∀ (s : State) (mb : Nat), s.Inv → s.takes mb 0x0103 = true → bits ((s.mbCmd mb).a 0) 9 0 ≤ 0x101 →
    s.partLive (bits ((s.mbCmd mb).a 0) 9 0) = true → (∀ e, e ∈ s.parts → ∀ x, x ∈ e.2.pasids → x.2 ≠ bits ((s.mbCmd mb).a 0) 51 32) →
    Gives (.pasidBind mb) s fun t => Same (.any [pageFoot mb, .entry .parts (bits ((s.mbCmd mb).a 0) 9 0)]) s t ∧ t.answered mb 0 = true ∧
    t.pasidOf (bits ((s.mbCmd mb).a 0) 9 0) (bits ((s.mbCmd mb).a 0) 11 10) = some (bits ((s.mbCmd mb).a 0) 51 32)) ∧
  -- pasidUnbind
  (∀ (s : State) (mb : Nat), s.Inv → s.takes mb 0x0104 = true → bits ((s.mbCmd mb).a 0) 9 0 < 0x101 →
    s.partLive (bits ((s.mbCmd mb).a 0) 9 0) = true → (∀ l, l ∈ (s.partsAt (bits ((s.mbCmd mb).a 0) 9 0)).launches →
    l.pasidIdx ≠ bits ((s.mbCmd mb).a 0) 11 10) →
    Gives (.pasidUnbind mb) s fun t => Same (.any [pageFoot mb, .entry .parts (bits ((s.mbCmd mb).a 0) 9 0)]) s t ∧
    t.answered mb 0 = true ∧ t.pasidOf (bits ((s.mbCmd mb).a 0) 9 0) (bits ((s.mbCmd mb).a 0) 11 10) = none) ∧
  -- sliceQuery
  (∀ (s : State) (mb : Nat), s.Inv → s.takes mb 0x0105 = true → bits ((s.mbCmd mb).a 0) 8 0 ≤ 255 → mb = 256 →
    s.sliceState (bits ((s.mbCmd mb).a 0) 8 0) ≠ 0 → Gives (.sliceQuery mb) s fun t => Same (pageFoot mb) s t ∧ t.answered mb 0 = true ∧
    ∀ i, i < 26 → t.rd (mbRepData mb i) = (toWords (s.queryBytes (bits ((s.mbCmd mb).a 0) 8 0))).getD i 0) ∧
  -- sliceQuery_self
  (∀ (s : State) (mb : Nat), s.Inv → s.takes mb 0x0105 = true → mb < 256 → Gives (.sliceQuery mb) s fun t => Same (pageFoot mb) s t ∧
    t.answered mb 0 = true ∧ ∀ i, i < 26 → t.rd (mbRepData mb i) = (toWords (s.queryBytes mb)).getD i 0) ∧
  -- arrayMove
  (∀ (s : State) (mb : Nat), s.Inv → s.takes mb 0x0107 = true →
    s.arrWork (bits ((s.mbCmd mb).a 0) 7 0) (bits ((s.mbCmd mb).a 0) 23 16) = false → s.sliceLive (bits ((s.mbCmd mb).a 0) 7 0) = true →
    s.sliceLive (bits ((s.mbCmd mb).a 0) 15 8) = true → bits ((s.mbCmd mb).a 0) 7 0 ≠ bits ((s.mbCmd mb).a 0) 15 8 →
    bit (s.partsAt (bits ((s.mbCmd mb).a 0) 7 0)).arrays (bits ((s.mbCmd mb).a 0) 23 16) = true →
    s.ctxActive (bits ((s.mbCmd mb).a 0) 23 16 / 4) (s.ctxOn (bits ((s.mbCmd mb).a 0) 7 0) (bits ((s.mbCmd mb).a 0) 23 16 / 4)) = false →
    clrBit (s.partsAt (bits ((s.mbCmd mb).a 0) 7 0)).arrays (bits ((s.mbCmd mb).a 0) 23 16) ≠ 0 →
    s.isPaired (bits ((s.mbCmd mb).a 0) 7 0) = false → s.isPaired (bits ((s.mbCmd mb).a 0) 15 8) = false →
    Gives (.arrayMove mb) s fun t => t.answered mb 0 = true ∧
    (t.partsAt (bits ((s.mbCmd mb).a 0) 7 0)).arrays = clrBit (s.partsAt (bits ((s.mbCmd mb).a 0) 7 0)).arrays (bits ((s.mbCmd mb).a 0) 23
    16) ∧
    (t.partsAt (bits ((s.mbCmd mb).a 0) 15 8)).arrays = setBit (s.partsAt (bits ((s.mbCmd mb).a 0) 15 8)).arrays (bits ((s.mbCmd mb).a 0)
    23 16))

/-- Contexts, lists and batches start and stop; pause and resume. After 14_slices_joreg.md: Launches and completion records;
14_slices_joreg.md: Mode-change epochs. -/
def Obligations.Launches : Prop :=
  -- ctxStart
  (∀ (s : State) (mb : Nat), s.Inv → s.takes mb 0x0200 = true → (s.mbCmd mb).a 1 % 64 = 0 → cplBad ((s.mbCmd mb).a 2) = false →
    s.mayStart mb = true → s.startable mb (bits ((s.mbCmd mb).a 0) 5 0) = true → (s.partsAt mb).launches.length < 64 →
    Gives (.ctxStart mb) s fun t => Launched s t mb 1 ∧
    t.ctxActive (bits ((s.mbCmd mb).a 0) 5 0) (s.ctxOn mb (bits ((s.mbCmd mb).a 0) 5 0)) = true ∧
    t.fld (R.coreCtxPc (bits ((s.mbCmd mb).a 0) 5 0) (s.ctxOn mb (bits ((s.mbCmd mb).a 0) 5 0))) F.coreCtxPc_PC = bits ((s.mbCmd mb).a 1)
    47 0) ∧
  -- ctxStop
  (∀ (s : State) (mb : Nat), s.Inv → s.takes mb 0x0201 = true →
    s.ctxPart (bits ((s.mbCmd mb).a 0) 5 0) (s.ctxOn mb (bits ((s.mbCmd mb).a 0) 5 0)) = mb →
    s.ctxActive (bits ((s.mbCmd mb).a 0) 5 0) (s.ctxOn mb (bits ((s.mbCmd mb).a 0) 5 0)) = true → bit ((s.mbCmd mb).a 0) 8 = false →
    Gives (.ctxStop mb) s fun t => Same (.any
    [pageFoot mb, .entry .ctxs ((bits ((s.mbCmd mb).a 0) 5 0) * 8 + s.ctxOn mb (bits ((s.mbCmd mb).a 0) 5 0))]) s t ∧
    t.answered mb 0 = true ∧ (t.ctxsAt ((bits ((s.mbCmd mb).a 0) 5 0) * 8 + s.ctxOn mb (bits ((s.mbCmd mb).a 0) 5 0))).stopPend = true) ∧
  -- ctxStop_now
  (∀ (s : State) (mb : Nat), s.Inv → s.takes mb 0x0201 = true →
    s.ctxPart (bits ((s.mbCmd mb).a 0) 5 0) (s.ctxOn mb (bits ((s.mbCmd mb).a 0) 5 0)) = mb →
    s.ctxActive (bits ((s.mbCmd mb).a 0) 5 0) (s.ctxOn mb (bits ((s.mbCmd mb).a 0) 5 0)) = true → bit ((s.mbCmd mb).a 0) 8 = true →
    Gives (.ctxStop mb) s fun t => t.answered mb 0 = true ∧
    t.ctxActive (bits ((s.mbCmd mb).a 0) 5 0) (s.ctxOn mb (bits ((s.mbCmd mb).a 0) 5 0)) = false) ∧
  -- listSubmit
  (∀ (s : State) (mb : Nat), s.Inv → s.takes mb 0x0202 = true → bits ((s.mbCmd mb).a 1) 12 0 ≠ 0 → bits ((s.mbCmd mb).a 1) 12 0 ≤ 4096 →
    cplBad ((s.mbCmd mb).a 3) = false → (s.partsAt mb).launches.length < 64 → Gives (.listSubmit mb) s fun t => Launched s t mb 2 ∧
    (t.partsAt mb).lists.map ListJob.handle = (s.partsAt mb).lists.map ListJob.handle ++ [(s.partsAt mb).nextHandle]) ∧
  -- batchSubmit
  (∀ (s : State) (mb : Nat) (c : Nat) (pc : Nat), s.Inv → s.takes mb 0x0203 = true → bit ((s.mbCmd mb).a 0) 0 = true →
    bits ((s.mbCmd mb).a 1) 6 0 = 1 → cplBad ((s.mbCmd mb).a 3) = false → (∀ l, l ∈ (s.partsAt mb).launches → l.kind ≠ 3) →
    (s.mbCmd mb).a 2 = 0 →
    leNat (s.hostRead ((s.pasidOf mb (s.mbCmd mb).pasidIdx).getD noPasid) ((s.mbCmd mb).a 0 / 2 * 2) 8) = c * 2 ^ 58 + pc → c < 64 →
    pc < 2 ^ 48 → pc % 64 = 0 → s.mayStart mb = true → s.startable mb c = true → (s.partsAt mb).launches.length < 64 →
    Gives (.batchSubmit mb) s fun t => Launched s t mb 3 ∧ t.ctxActive c (s.ctxOn mb c) = true ∧
    t.fld (R.coreCtxPc c (s.ctxOn mb c)) F.coreCtxPc_PC = pc) ∧
  -- batchAbort
  (∀ (s : State) (mb : Nat) (l : Launch), s.Inv → s.takes mb 0x0204 = true →
    ((s.partsAt mb).launches.find? (fun x : Launch => x.kind == 3 && x.handle == (s.mbCmd mb).a 0) = some l) →
    Gives (.batchAbort mb) s fun t => t.answered mb 0 = true ∧ ∀ c, c ∈ l.cores → c < 64 → t.ctxActive c (s.ctxOn mb c) = false) ∧
  -- listAbort
  (∀ (s : State) (mb : Nat), s.Inv → s.takes mb 0x0205 = true → (∃ x, x ∈ (s.partsAt mb).lists ∧ x.handle = (s.mbCmd mb).a 0) → (∃ l,
    l ∈ (s.partsAt mb).launches ∧ l.handle = (s.mbCmd mb).a 0) → Gives (.listAbort mb) s fun t => t.answered mb 0 = true ∧ ∀ x,
    x ∈ (t.partsAt mb).lists → x.handle ≠ (s.mbCmd mb).a 0) ∧
  -- slicePause
  (∀ (s : State) (mb : Nat), s.Inv → s.takes mb 0x0300 = true → cplBad ((s.mbCmd mb).a 0) = false → s.streamsRun mb = true →
    (s.partsAt mb).launches.length < 64 → Gives (.slicePause mb) s fun t => Launched s t mb 4 ∧ (t.partsAt mb).pauseReq = true) ∧
  -- slicePause_idle
  (∀ (s : State) (mb : Nat), s.Inv → s.takes mb 0x0300 = true → bits ((s.mbCmd mb).a 0) 4 0 = 1 → s.streamsRun mb = false →
    (s.partsAt mb).launches = [] → Gives (.slicePause mb) s fun t => t.sliceState mb = 3 ∧ (t.partsAt mb).launches = [] ∧
    t.answered mb 1 = true) ∧
  -- sliceResume
  (∀ (s : State) (mb : Nat), s.Inv → s.takes mb 0x0301 = true → s.sliceState mb = 3 → s.streamsRun mb = false → (∀ e, e ∈ s.ctxsOf mb →
    s.ctxActive e.1 e.2 = false) → (s.partsAt mb).launches = [] → Gives (.sliceResume mb) s fun t => t.answered mb 0 = true ∧
    t.sliceState mb = 1) ∧
  -- sliceResume_launch
  (∀ (s : State) (mb : Nat), s.Inv → s.takes mb 0x0301 = true → s.sliceState mb = 3 → (s.partsAt mb).launches ≠ [] → (∀ e,
    e ∈ s.ctxsOf mb → (s.ctxsAt (e.1 * 8 + e.2)).atMark = false) → Gives (.sliceResume mb) s fun t => t.answered mb 0 = true ∧
    t.sliceState mb = 2)

/-- Checkpoint, restore, epochs, step boundaries, resets of a partition. After 04_core_execution.md: Cheap points and live ranges;
14_slices_joreg.md: Mode-change epochs; 16_reproducibility.md: Inside one module; 16_reproducibility.md: Steps, images and replay;
14_slices_joreg.md: Faults, resets and violations. -/
def Obligations.CheckpointsAndEpochs : Prop :=
  -- sliceCheckpoint
  (∀ (s : State) (mb : Nat), s.Inv → s.takes mb 0x0302 = true → cplBad ((s.mbCmd mb).a 1) = false → s.streamsRun mb = true →
    (s.partsAt mb).launches.length < 64 → Gives (.sliceCheckpoint mb) s fun t => Launched s t mb 5 ∧ (t.partsAt mb).pauseReq = true) ∧
  -- sliceRestore
  (∀ (s : State) (mb : Nat) (im : ImageSt), s.Inv → s.takes mb 0x0303 = true → bits ((s.mbCmd mb).a 2) 4 0 = 1 →
    (s.sliceState mb = 1 ∨ s.sliceState mb = 3) → (s.partsAt mb).launches.length < 64 →
    (s.accepted mb).parseImage mb (s.hostRead ((s.pasidOf mb (s.mbCmd mb).pasidIdx).getD noPasid) ((s.mbCmd mb).a 0) ((s.mbCmd mb).a 1)) =
    some im → im.ranges = [] → Gives (.sliceRestore mb true true) s fun t => t.sliceState mb = 3 ∧
    t.rd (R.repSliceStep mb) = BitVec.ofNat 64 im.step ∧ t.fld (R.sliceEpoch mb) F.sliceEpoch_APPLIED = im.epoch % 2 ^ 32 ∧
    (t.partsAt mb).seed = im.seed) ∧
  -- modeChange
  (∀ (s : State) (mb : Nat), s.Inv → s.takes mb 0x0304 = true →
    bits ((s.mbCmd mb).a 0) 31 0 = (s.fld (R.sliceEpoch mb) F.sliceEpoch_APPLIED + 1) % 2 ^ 32 →
    (s.rd (R.repSliceStep mb)).toNat < (s.mbCmd mb).a 1 → bits ((s.mbCmd mb).a 2) 9 8 ≠ 3 → cplBad ((s.mbCmd mb).a 3) = false → (∀ l,
    l ∈ (s.partsAt mb).launches → l.kind ≠ 7) → bit ((s.mbCmd mb).a 2) 1 = false → s.streamsRun mb = true →
    (s.partsAt mb).launches.length < 64 → Gives (.modeChange mb) s fun t => Launched s t mb 7 ∧
    t.fld (R.sliceEpoch mb) F.sliceEpoch_PENDING = bits ((s.mbCmd mb).a 0) 31 0) ∧
  -- stepBoundary
  (∀ (s : State) (p : Nat), s.Inv → p < 256 → s.sliceState p = 2 → (∃ e, e ∈ s.ctxsOf p ∧ s.ctxActive e.1 e.2 = true) → (∀ e,
    e ∈ s.ctxsOf p → s.ctxActive e.1 e.2 = true → (s.ctxsAt (e.1 * 8 + e.2)).atMark = true ∧ (s.ctxsAt (e.1 * 8 + e.2)).stepEnd = true) →
    (s.partsAt p).epochHold = false → (∀ r, r ∈ s.pairs → r.slice ≠ p) →
    Gives (.stepBoundary p) s fun t => t.rd (R.repSliceStep p) = s.rd (R.repSliceStep p) + 1) ∧
  -- epochTimeout
  (∀ (s : State) (p : Nat) (missing : Nat), s.Inv → p < 256 → s.sliceLive p = true → (s.partsAt p).epochHold = true → 0 < missing → (∃ l,
    l ∈ (s.partsAt p).launches ∧ l.kind = 7) → Gives (.epochTimeout p missing) s fun t => t.sliceState p = 4 ∧
    t.fld (R.mbSliceFaultInfo p) F.mbSliceFaultInfo_CLASS = 5 ∧ (t.partsAt p).launches = []) ∧
  -- partitionResetDone
  (∀ (s : State) (p : Nat), s.Inv → p < 256 → s.sliceState p = 4 → Gives (.partitionResetDone p) s fun t => t.sliceState p = 1 ∧
    (t.partsAt p).resetMgr = false) ∧
  -- repTransitionDone
  (∀ (s : State) (core : Nat), s.Inv → core < 64 → s.fld (R.repCore core) F.repCore_TRANS = 1 → (∀ e, e ∈ s.parts →
    e.2.epochHold = false) → Gives (.repTransitionDone core) s fun t => Same (.reg (R.repCore core)) s t ∧
    t.fld (R.repCore core) F.repCore_TRANS = 0 ∧ t.fld (R.repCore core) F.repCore_REP_MODE = (if s.coreRep core then 1 else 0))

/-- Cell records, cell_apply, receivers, DSP programs, ports, power cap, time. After 06_radio_pipeline.md: Configuring cells;
06_radio_pipeline.md: Radio work on the arrays; 07_fronthaul.md: Ports and lanes; 14_slices_joreg.md: Radio and module commands;
01_architecture.md: How the radio and inference lean on each other. -/
def Obligations.RadioCommands : Prop :=
  -- cellSet
  (∀ (s : State) (mb : Nat) (r : List Nat), s.Inv → s.takes mb 0x0400 = true → bits ((s.mbCmd mb).a 0) 8 0 = 1 → recDuplex r = 1 →
    (r = (List.range 8).map (fun k => (s.mbCmd mb).a (1 + k))) → (s.accepted mb).recValid r = true →
    Gives (.cellSet mb) s fun t => Same (.any [pageFoot mb, .whole [.radio]]) s t ∧ t.answered mb 0 = true ∧
    t.radio.staged = s.radio.staged.filter (recCell · != recCell r) ++ [r]) ∧
  -- cellSet_pattern
  (∀ (s : State) (mb : Nat) (r : List Nat) (ls : List (Nat × Nat)) (q : List Nat), s.Inv → s.takes mb 0x0400 = true →
    bits ((s.mbCmd mb).a 0) 8 0 = 1 → recDuplex r = 0 → recTddPat r % 8 = 0 → (r = (List.range 8).map (fun k => (s.mbCmd mb).a (1 + k))) →
    s.noErrors = true → s.locate 0x100 rightR (recTddPat r) 328 = some ls → (∀ e, e ∈ ls → s.dpaKind e.1 = .kennel) →
    (q = r ++ (toWords (ls.flatMap fun e => s.readBytes e.1 e.2)).map (·.toNat)) → (s.accepted mb).recValid q = true →
    Gives (.cellSet mb) s fun t => t.answered mb 0 = true ∧ t.radio.staged = s.radio.staged.filter (recCell · != recCell q) ++ [q]) ∧
  -- cellApply
  (∀ (s : State) (mb : Nat), s.Inv → s.takes mb 0x0401 = true → Gives (.cellApply mb) s fun t => ((s.accepted mb).applyCheck = none →
    t.answered mb 0 = true ∧ t.radio.staged = [] ∧ t.radio.pend.map (·.recs) = some s.newSet ∧
    t.fld R.radioStat F.radioStat_APPLY_PEND = 1 ∧ t.fld R.lastStat F.lastStat_SWAP_PEND = 1 ∧
    t.rd (mbRepData mb 0) = BitVec.ofNat 64 (s.accepted mb).armAt) ∧ ((s.accepted mb).applyCheck ≠ none → t.answered mb 0x0D = true ∧
    t.radio.staged = s.radio.staged)) ∧
  -- cellApply_refused
  (∀ (s : State) (mb : Nat) (reason : Nat) (cell : Nat), s.Inv → s.takes mb 0x0401 = true → (s.accepted mb).applyCheck = some (reason,
    cell) → reason < 256 → Gives (.cellApply mb) s fun t => Same (.any [pageFoot mb, .reg R.radioApply]) s t ∧ t.answered mb 0x0D = true ∧
    t.fld R.radioApply F.radioApply_REASON = reason) ∧
  -- cellDiscard
  (∀ (s : State) (mb : Nat), s.Inv → s.takes mb 0x0402 = true → s.radio.pend = none →
    Gives (.cellDiscard mb) s fun t => Same (.any [pageFoot mb, .whole [.radio]]) s t ∧ t.answered mb 0 = true ∧ t.radio.staged = []) ∧
  -- nrxLoad
  (∀ (s : State) (mb : Nat) (ls : List (Nat × Nat)) (us : List Nat), s.Inv → s.takes mb 0x0403 = true → bits ((s.mbCmd mb).a 0) 7 0 ≠ 0 →
    (s.mbCmd mb).a 2 ≠ 0 → (s.mbCmd mb).a 2 % 64 = 0 → (s.mbCmd mb).a 2 ≤ 2 ^ 32 → (∀ n, n ∈ s.radio.nrxs →
    n.n ≠ bits ((s.mbCmd mb).a 0) 7 0) → s.noErrors = true → s.locate 0x100 rightR ((s.mbCmd mb).a 1) ((s.mbCmd mb).a 2) = some ls → (∀ e,
    e ∈ ls → s.dpaKind e.1 = .kennel) → (nrxHeaderBad (ls.flatMap fun e => s.readBytes e.1 e.2) ((s.mbCmd mb).a 2) = none) →
    takeUnits 0 (cdiv ((s.mbCmd mb).a 2) (2 ^ 24)) s.kenFree [] = some us →
    s.fld R.lastPwr F.lastPwr_RESERVE_W + s.fld R.lastPwr F.lastPwr_IDLE_W ≤ s.fld R.lastPwr F.lastPwr_CAP_W →
    Gives (.nrxLoad mb) s fun t => t.answered mb 0 = true ∧ t.radio.units = s.radio.units ++ us ∧
    t.radio.nrxs.map (·.n) = s.radio.nrxs.map (·.n) ++ [bits ((s.mbCmd mb).a 0) 7 0]) ∧
  -- nrxUnload
  (∀ (s : State) (mb : Nat), s.Inv → s.takes mb 0x0404 = true → bits ((s.mbCmd mb).a 0) 7 0 ≠ 0 → s.radio.pend = none → (∀ r,
    r ∈ s.appliedRecs ++ s.radio.staged → recNrx r ≠ bits ((s.mbCmd mb).a 0) 7 0) →
    Gives (.nrxUnload mb) s fun t => Same (.any [pageFoot mb, .whole [.radio]]) s t ∧ t.answered mb 0 = true ∧
    t.radio.nrxs = s.radio.nrxs.filter (fun n => n.n != bits ((s.mbCmd mb).a 0) 7 0)) ∧
  -- dspLoad
  (∀ (s : State) (mb : Nat) (ls : List (Nat × Nat)), s.Inv → s.takes mb 0x0405 = true → (∀ e, e ∈ (s.mbCmd mb).dsps →
    (s.dspsAt e).job = none) → bits ((s.mbCmd mb).a 3) 28 16 + bits ((s.mbCmd mb).a 3) 12 0 ≤ 8192 → s.noErrors = true →
    s.locate 0x100 rightR ((s.mbCmd mb).a 2) (16 * bits ((s.mbCmd mb).a 3) 12 0) = some ls → (∀ e, e ∈ ls → s.dpaKind e.1 = .kennel) →
    Gives (.dspLoad mb) s fun t => t.answered mb 0 = true ∧ ∀ e, e ∈ (s.mbCmd mb).dsps → ∀ i, i < 4 * bits ((s.mbCmd mb).a 3) 12 0 →
    t.dspPAt (e * 32768 + 4 * bits ((s.mbCmd mb).a 3) 28 16 + i) = hdrNum (ls.flatMap fun e => s.readBytes e.1 e.2) (4 * i) 4) ∧
  -- portConfig
  (∀ (s : State) (mb : Nat), s.Inv → s.takes mb 0x0406 = true → (s.mbCmd mb).portBad = none → (∀ i, i < 48 →
    s.rd (R.fhPortCfg i) ≠ portWord ((s.mbCmd mb).port i) → i ∉ s.appliedRecs.map recPort) → (∀ i, i < 48 →
    s.fld (R.fhPortCfg i) F.fhPortCfg_USE ≠ 2) →
    (((List.range 48).map fun i => if ((s.mbCmd mb).port i).1 == 1 then usedLanes ((s.mbCmd mb).port i) else 0).sum ≤ 32) →
    Gives (.portConfig mb) s fun t => t.answered mb 0 = true ∧ (∀ i, i < 48 → t.rd (R.fhPortCfg i) = portWord ((s.mbCmd mb).port i)) ∧
    t.fld R.fhStat F.fhStat_FH_LANES = ((List.range 48).map fun i => if ((s.mbCmd mb).port i).1 == 1 then usedLanes ((s.mbCmd mb).port i)
    else 0).sum) ∧
  -- powerCapSet
  (∀ (s : State) (mb : Nat), s.Inv → s.takes mb 0x0500 = true → 600 ≤ bits ((s.mbCmd mb).a 0) 15 0 →
    bits ((s.mbCmd mb).a 0) 15 0 ≤ 1200 →
    s.fld R.lastPwr F.lastPwr_RESERVE_W + s.fld R.lastPwr F.lastPwr_IDLE_W ≤ bits ((s.mbCmd mb).a 0) 15 0 →
    Gives (.powerCapSet mb) s fun t => Same (.any [pageFoot mb, .whole [.last]]) s t ∧ t.answered mb 0 = true ∧
    t.last.nextCap = some (bits ((s.mbCmd mb).a 0) 15 0)) ∧
  -- timeSet
  (∀ (s : State) (mb : Nat), s.Inv → s.takes mb 0x0501 = true → s.fld R.timeCfg F.timeCfg_SRC = 1 →
    Gives (.timeSet mb) s fun t => Same (.any [pageFoot mb, .whole [.time]]) s t ∧ t.answered mb 0 = true ∧
    t.time.ppsSec = some (bits ((s.mbCmd mb).a 0) 47 0))

/-- Retirement, counters, samples, dumps, health and step reports. After 17_integrity.md: What a failure costs; 17_integrity.md: Health
scores; 18_counters_recorder.md: Width, chaining and access; 18_counters_recorder.md: Periodic dumps; 18_counters_recorder.md: Counter
commands. -/
def Obligations.HealthAndCounterCommands : Prop :=
  -- retire
  (∀ (s : State) (mb : Nat), s.Inv → s.takes mb 0x0502 = true → bits ((s.mbCmd mb).a 0) 7 0 ≤ 4 →
    bits ((s.mbCmd mb).a 0) 23 8 < [256, 128, 96, 64, 64].getD (bits ((s.mbCmd mb).a 0) 7 0) 0 →
    Gives (.retire mb) s fun t => t.answered mb 0 = true ∧
    t.flash.retire = setBit s.flash.retire ([0, 480, 320, 416, 256].getD (bits ((s.mbCmd mb).a 0) 7 0) 0 + bits ((s.mbCmd mb).a 0) 23 8)) ∧
  -- retire_array
  (∀ (s : State) (mb : Nat), s.Inv → s.takes mb 0x0502 = true → bits ((s.mbCmd mb).a 0) 7 0 = 0 → bits ((s.mbCmd mb).a 0) 23 8 < 256 →
    Gives (.retire mb) s fun t => t.fld (R.coreArrStat (bits ((s.mbCmd mb).a 0) 23 8 / 4) (bits ((s.mbCmd mb).a 0) 23 8 % 4))
    F.coreArrStat_FENCE = 1 ∧
    t.fld (R.coreArrStat (bits ((s.mbCmd mb).a 0) 23 8 / 4) (bits ((s.mbCmd mb).a 0) 23 8 % 4)) F.coreArrStat_RETIRE_PEND = 1) ∧
  -- retireClear
  (∀ (s : State) (mb : Nat), s.Inv → s.takes mb 0x0503 = true → Gives (.retireClear mb) s fun t => t.answered mb 0 = true ∧
    t.flash.retire = 0 ∧ ∀ c a, c < 64 → a < 4 → t.fld (R.coreArrStat c a) F.coreArrStat_RETIRE_PEND = 0) ∧
  -- ctrProgram
  (∀ (s : State) (mb : Nat), s.Inv → s.takes mb 0x0600 = true → s.setNamed mb (bits ((s.mbCmd mb).a 0) 7 0) = true →
    bits ((s.mbCmd mb).a 0) 11 8 ≤ 7 →
    eventExists (F.gpmcCtl_EVCLASS.get (BitVec.ofNat 64 ((s.mbCmd mb).a 1))) (F.gpmcCtl_EVENT.get (BitVec.ofNat 64 ((s.mbCmd mb).a 1))) =
    true → (bits ((s.mbCmd mb).a 0) 7 0 < 8 ∨ F.gpmcCtl_EVCLASS.get (BitVec.ofNat 64 ((s.mbCmd mb).a 1)) ≤ 6) →
    s.setHolder (bits ((s.mbCmd mb).a 0) 7 0) = none → Gives (.ctrProgram mb) s fun t => t.answered mb 0 = true ∧
    t.fld (setBase (bits ((s.mbCmd mb).a 0) 7 0) + 16 * (bits ((s.mbCmd mb).a 0) 11 8)) F.gpmcCtl_EN = F.gpmcCtl_EN.get (BitVec.ofNat 64
    ((s.mbCmd mb).a 1)) ∧
    t.fld (setBase (bits ((s.mbCmd mb).a 0) 7 0) + 16 * (bits ((s.mbCmd mb).a 0) 11 8)) F.gpmcCtl_EVCLASS = F.gpmcCtl_EVCLASS.get
    (BitVec.ofNat 64 ((s.mbCmd mb).a 1)) ∧
    t.fld (setBase (bits ((s.mbCmd mb).a 0) 7 0) + 16 * (bits ((s.mbCmd mb).a 0) 11 8)) F.gpmcCtl_EVENT = F.gpmcCtl_EVENT.get
    (BitVec.ofNat 64 ((s.mbCmd mb).a 1)) ∧
    t.fld (setBase (bits ((s.mbCmd mb).a 0) 7 0) + 16 * (bits ((s.mbCmd mb).a 0) 11 8)) F.gpmcCtl_PART = F.gpmcCtl_PART.get (BitVec.ofNat
    64 ((s.mbCmd mb).a 1))) ∧
  -- ctrProgram_held
  (∀ (s : State) (mb : Nat), s.Inv → s.takes mb 0x0600 = true → s.setNamed mb (bits ((s.mbCmd mb).a 0) 7 0) = true →
    bits ((s.mbCmd mb).a 0) 11 8 ≤ 7 →
    eventExists (F.gpmcCtl_EVCLASS.get (BitVec.ofNat 64 ((s.mbCmd mb).a 1))) (F.gpmcCtl_EVENT.get (BitVec.ofNat 64 ((s.mbCmd mb).a 1))) =
    true → (bits ((s.mbCmd mb).a 0) 7 0 < 8 ∨ F.gpmcCtl_EVCLASS.get (BitVec.ofNat 64 ((s.mbCmd mb).a 1)) ≤ 6) → mb < 256 →
    s.setHolder (bits ((s.mbCmd mb).a 0) 7 0) = some mb → Gives (.ctrProgram mb) s fun t => t.answered mb 0 = true ∧
    t.fld (setBase (bits ((s.mbCmd mb).a 0) 7 0) + 16 * (bits ((s.mbCmd mb).a 0) 11 8)) F.gpmcCtl_PART = mb ∧
    t.fld (setBase (bits ((s.mbCmd mb).a 0) 7 0) + 16 * (bits ((s.mbCmd mb).a 0) 11 8)) F.gpmcCtl_PRIV = 2) ∧
  -- ctrRead
  (∀ (s : State) (mb : Nat), s.Inv → s.takes mb 0x0601 = true → s.setNamed mb (bits ((s.mbCmd mb).a 0) 7 0) = true →
    Gives (.ctrRead mb) s fun t => Same (.any [pageFoot mb, .whole [.sys]]) s t ∧ t.answered mb 0 = true ∧ ∀ i, i < 8 →
    t.rd (mbRepData mb i) = s.rd (setBase (bits ((s.mbCmd mb).a 0) 7 0) + 16 * i + 8) ∧
    t.rd (mbRepData mb (8 + i)) = s.rd (setBase (bits ((s.mbCmd mb).a 0) 7 0) + 16 * i)) ∧
  -- ctrSampleCfg
  (∀ (s : State) (mb : Nat), s.Inv → s.takes mb 0x0602 = true → s.setNamed mb (0x80 + bits ((s.mbCmd mb).a 0) 5 0) = true →
    F.corePmcSamp_PERIOD.get (BitVec.ofNat 64 ((s.mbCmd mb).a 1)) ≠ 0 → s.setHolder (0x80 + bits ((s.mbCmd mb).a 0) 5 0) = none →
    Gives (.ctrSampleCfg mb) s fun t => Same (.any [pageFoot mb, .reg (R.corePmcSamp (bits ((s.mbCmd mb).a 0) 5 0))]) s t ∧
    t.answered mb 0 = true ∧
    t.fld (R.corePmcSamp (bits ((s.mbCmd mb).a 0) 5 0)) F.corePmcSamp_PERIOD = F.corePmcSamp_PERIOD.get (BitVec.ofNat 64 ((s.mbCmd mb).a
    1)) ∧ t.fld (R.corePmcSamp (bits ((s.mbCmd mb).a 0) 5 0)) F.corePmcSamp_EN = F.corePmcSamp_EN.get (BitVec.ofNat 64 ((s.mbCmd mb).a 1))) ∧
  -- ctrSampleRead
  (∀ (s : State) (mb : Nat), s.Inv → s.takes mb 0x0603 = true → s.setNamed mb (0x80 + bits ((s.mbCmd mb).a 0) 5 0) = true →
    (s.mbCmd mb).outAddr = 0 → Gives (.ctrSampleRead mb) s fun t => t.answered mb 0 = true ∧
    t.fld (R.corePmcSampStat (bits ((s.mbCmd mb).a 0) 5 0)) F.corePmcSampStat_COUNT = 0 ∧
    t.fld (R.corePmcSampStat (bits ((s.mbCmd mb).a 0) 5 0)) F.corePmcSampStat_LOST = 0) ∧
  -- ctrDump
  (∀ (s : State) (mb : Nat) (ring : Nat), s.Inv → s.takes mb 0x0604 = true → bits ((s.mbCmd mb).a 1) 3 0 ≠ 0 →
    10 ≤ bits ((s.mbCmd mb).a 1) 51 32 → bits ((s.mbCmd mb).a 1) 51 32 ≤ 1000000 → cplBad ((s.mbCmd mb).a 3) = false →
    s.ringOf mb = none → s.ringFree mb = some ring → (s.partsAt mb).launches.length < 64 →
    Gives (.ctrDump mb) s fun t => Launched s t mb 9 ∧ (t.dumpsAt ring).active = true ∧ (t.dumpsAt ring).part = mb ∧
    (t.dumpsAt ring).periodUs = bits ((s.mbCmd mb).a 1) 51 32) ∧
  -- ctrDumpStop
  (∀ (s : State) (mb : Nat) (ring : Nat), s.Inv → s.takes mb 0x0605 = true → s.ringOf mb = some ring →
    Gives (.ctrDumpStop mb) s fun t => t.answered mb 0 = true ∧ (t.dumpsAt ring).active = false) ∧
  -- healthCfg
  (∀ (s : State) (mb : Nat), s.Inv → s.takes mb 0x0700 = true → bits ((s.mbCmd mb).a 0) 2 0 ≤ 4 →
    F.healthCfg_SUSPECT_THR.get (BitVec.ofNat 64 ((s.mbCmd mb).a 1)) ≠ 0 →
    F.healthCfg_SUSPECT_THR.get (BitVec.ofNat 64 ((s.mbCmd mb).a 1)) ≤ 65534 →
    F.healthCfg_SUSPECT_THR.get (BitVec.ofNat 64 ((s.mbCmd mb).a 1)) < F.healthCfg_FAIL_THR.get (BitVec.ofNat 64 ((s.mbCmd mb).a 1)) →
    F.healthCfg_DECAY_SH.get (BitVec.ofNat 64 ((s.mbCmd mb).a 1)) ≠ 0 → F.healthCfg_DWELL.get (BitVec.ofNat 64 ((s.mbCmd mb).a 1)) ≠ 0 →
    Gives (.healthCfg mb) s fun t => Same (.any
    [pageFoot mb, .reg (R.healthCfg (bits ((s.mbCmd mb).a 0) 2 0)), .reg (R.healthW (bits ((s.mbCmd mb).a 0) 2 0))]) s t ∧
    t.answered mb 0 = true ∧
    t.fld (R.healthCfg (bits ((s.mbCmd mb).a 0) 2 0)) F.healthCfg_FAIL_THR = F.healthCfg_FAIL_THR.get (BitVec.ofNat 64 ((s.mbCmd mb).a 1))
    ∧ t.fld (R.healthCfg (bits ((s.mbCmd mb).a 0) 2 0)) F.healthCfg_DWELL = F.healthCfg_DWELL.get (BitVec.ofNat 64 ((s.mbCmd mb).a 1)) ∧
    t.fld (R.healthW (bits ((s.mbCmd mb).a 0) 2 0)) F.healthW_W0 = F.healthW_W0.get (BitVec.ofNat 64 ((s.mbCmd mb).a 2)) ∧
    t.fld (R.healthW (bits ((s.mbCmd mb).a 0) 2 0)) F.healthW_W3 = F.healthW_W3.get (BitVec.ofNat 64 ((s.mbCmd mb).a 2))) ∧
  -- healthQuery
  (∀ (s : State) (mb : Nat), s.Inv → s.takes mb 0x0701 = true → bits ((s.mbCmd mb).a 0) 2 0 ≤ 4 →
    bits ((s.mbCmd mb).a 0) 31 16 < healthUnits (bits ((s.mbCmd mb).a 0) 2 0) → bits ((s.mbCmd mb).a 0) 47 32 ≠ 0 →
    bits ((s.mbCmd mb).a 0) 47 32 ≤ 256 →
    bits ((s.mbCmd mb).a 0) 31 16 + bits ((s.mbCmd mb).a 0) 47 32 ≤ healthUnits (bits ((s.mbCmd mb).a 0) 2 0) →
    Gives (.healthQuery mb) s fun t => Same (pageFoot mb) s t ∧ t.answered mb 0 = true ∧ ∀ i, i < bits ((s.mbCmd mb).a 0) 47 32 →
    t.rd (mbRepData mb i) = s.rd (healthReg (bits ((s.mbCmd mb).a 0) 2 0) (bits ((s.mbCmd mb).a 0) 31 16 + i))) ∧
  -- healthClear
  (∀ (s : State) (mb : Nat), s.Inv → s.takes mb 0x0702 = true → 1 ≤ bits ((s.mbCmd mb).a 0) 2 0 → bits ((s.mbCmd mb).a 0) 2 0 ≤ 4 →
    bits ((s.mbCmd mb).a 0) 31 16 < healthUnits (bits ((s.mbCmd mb).a 0) 2 0) →
    Gives (.healthClear mb) s fun t => Same (.any [pageFoot mb, .reg (healthReg (bits ((s.mbCmd mb).a 0) 2 0) (bits ((s.mbCmd mb).a 0) 31 16)), .entry .health ((bits ((s.mbCmd mb).a 0) 2 0) * 1024 + bits ((s.mbCmd mb).a 0) 31 16)])
    s t ∧ t.answered mb 0 = true ∧ t.rd (healthReg (bits ((s.mbCmd mb).a 0) 2 0) (bits ((s.mbCmd mb).a 0) 31 16)) = 0) ∧
  -- stepReport
  (∀ (s : State) (mb : Nat), s.Inv → s.takes mb 0x0703 = true →
    (bit ((s.mbCmd mb).a 0) 8 = false ∨ (s.pasidOf 0x100 (bits ((s.mbCmd mb).a 0) 17 16)).isSome = true) →
    s.sliceLive (bits ((s.mbCmd mb).a 0) 7 0) = true →
    Gives (.stepReport mb) s fun t => Same (.any [pageFoot mb, .entry .parts (bits ((s.mbCmd mb).a 0) 7 0)]) s t ∧
    t.answered mb 0 = true ∧ (t.partsAt (bits ((s.mbCmd mb).a 0) 7 0)).srEn = bit ((s.mbCmd mb).a 0) 8 ∧
    (t.partsAt (bits ((s.mbCmd mb).a 0) 7 0)).srRing = (s.mbCmd mb).a 1)

/-- Recorder commands, attestation commands, the launch barrier armed. After 18_counters_recorder.md: The event recorder; 19_security.md:
Measurement registers; 19_security.md: The attestation report; 19_security.md: Asking for a report; 16_reproducibility.md: Launching
in step. -/
def Obligations.RecorderAndAttestation : Prop :=
  -- recRead
  (∀ (s : State) (mb : Nat), s.Inv → s.takes mb 0x0800 = true → bits ((s.mbCmd mb).a 0) 25 0 % 8 = 0 → (s.mbCmd mb).outAddr = 0 →
    (s.mbCmd mb).version = 3 → bits ((s.mbCmd mb).a 1) 25 0 ≤ 32608 → Gives (.recRead mb) s fun t => Same (pageFoot mb) s t ∧
    t.answered mb 0 = true ∧ ∀ i, 8 * i + 8 ≤ min (bits ((s.mbCmd mb).a 1) 25 0) (s.wrPtr - bits ((s.mbCmd mb).a 0) 25 0) →
    t.rd (mbRepData mb i) = s.logAt (bits ((s.mbCmd mb).a 0) 25 0 / 8 + i)) ∧
  -- recFreeze
  (∀ (s : State) (mb : Nat), s.Inv → s.takes mb 0x0801 = true → s.recBusy = false →
    Gives (.recFreeze mb) s fun t => Same (.any [pageFoot mb, .reg R.recStat, .whole [.recd]]) s t ∧ t.answered mb 0 = true ∧
    t.fld R.recStat F.recStat_FROZEN = 1 ∧ t.recd.frzStart = s.hours) ∧
  -- recThaw
  (∀ (s : State) (mb : Nat), s.Inv → s.takes mb 0x0802 = true → s.flag R.recStat F.recStat_FROZEN = true →
    Gives (.recThaw mb) s fun t => Same (.any [pageFoot mb, recFoot]) s t ∧ t.answered mb 0 = true ∧
    t.fld R.recStat F.recStat_FROZEN = 0 ∧ t.fld R.recStat F.recStat_STAGED = 0 ∧ t.recd.staged = []) ∧
  -- recClear
  (∀ (s : State) (mb : Nat), s.Inv → s.takes mb 0x0803 = true → s.recBusy = false →
    Gives (.recClear mb) s fun t => Same (.any [pageFoot mb, .reg R.recStat, .whole [.recd]]) s t ∧ t.answered mb 0 = true ∧
    t.fld R.recStat F.recStat_ERASING = 1) ∧
  -- recLeash
  (∀ (s : State) (mb : Nat), s.Inv → s.takes mb 0x0804 = true → (bits ((s.mbCmd mb).a 0) 15 0) / 4096 ≠ 0 →
    recUncond (bits ((s.mbCmd mb).a 0) 15 0) = false → bits ((s.mbCmd mb).a 0) 39 32 ≠ 0 → bit ((s.mbCmd mb).a 0) 16 = false →
    Gives (.recLeash mb) s fun t => Same (.any [pageFoot mb, .entry .leash (bits ((s.mbCmd mb).a 0) 15 0)]) s t ∧ t.answered mb 0 = true ∧
    (t.leashAt (bits ((s.mbCmd mb).a 0) 15 0)).rate = bits ((s.mbCmd mb).a 0) 31 24 ∧
    (t.leashAt (bits ((s.mbCmd mb).a 0) 15 0)).burst = bits ((s.mbCmd mb).a 0) 39 32) ∧
  -- recLeash_all
  (∀ (s : State) (mb : Nat), s.Inv → s.takes mb 0x0804 = true → (bits ((s.mbCmd mb).a 0) 15 0) / 4096 ≠ 0 →
    recUncond (bits ((s.mbCmd mb).a 0) 15 0) = false → bits ((s.mbCmd mb).a 0) 39 32 ≠ 0 → bit ((s.mbCmd mb).a 0) 16 = true →
    Gives (.recLeash mb) s fun t => Same (.any [pageFoot mb, .whole [.leash]]) s t ∧ t.answered mb 0 = true ∧ ∀ i, i < 2048 →
    (t.leashAt (bits ((s.mbCmd mb).a 0) 15 0 / 4096 * 4096 + i)).rate = bits ((s.mbCmd mb).a 0) 31 24 ∧
    (t.leashAt (bits ((s.mbCmd mb).a 0) 15 0 / 4096 * 4096 + i)).burst = bits ((s.mbCmd mb).a 0) 39 32) ∧
  -- recTrigger
  (∀ (s : State) (mb : Nat), s.Inv → s.takes mb 0x0805 = true → bits ((s.mbCmd mb).a 0) 35 32 ≠ 0 → bits ((s.mbCmd mb).a 0) 35 32 ≤ 12 →
    (∀ i, i < bits ((s.mbCmd mb).a 0) 35 32 → (s.mbCmd mb).a (1 + i) % 4 = 0) →
    Gives (.recTrigger mb) s fun t => Same (.any [pageFoot mb, .entry .trigs (bits ((s.mbCmd mb).a 0) 3 0)]) s t ∧
    t.answered mb 0 = true ∧ (t.trigsAt (bits ((s.mbCmd mb).a 0) 3 0)).code = bits ((s.mbCmd mb).a 0) 31 16 ∧
    (t.trigsAt (bits ((s.mbCmd mb).a 0) 3 0)).nval = bits ((s.mbCmd mb).a 0) 35 32 ∧
    (t.trigsAt (bits ((s.mbCmd mb).a 0) 3 0)).addrs = (List.range (bits ((s.mbCmd mb).a 0) 35 32)).map (fun i => (s.mbCmd mb).a (1 + i))) ∧
  -- recStatus
  (∀ (s : State) (mb : Nat), s.Inv → s.takes mb 0x0806 = true → Gives (.recStatus mb) s fun t => Same (pageFoot mb) s t ∧
    t.answered mb 0 = true ∧ t.rd (mbRepData mb 0) = s.rd R.recStat ∧ t.rd (mbRepData mb 1) = s.rd R.recCnt ∧
    t.rd (mbRepData mb 2) = s.rd R.recCnt2) ∧
  -- attReport
  (∀ (s : State) (mb : Nat), s.Inv → s.takes mb 0x0900 = true → 4397 ≤ (s.mbCmd mb).outLen → (s.mbCmd mb).outAddr ≠ 0 →
    Gives (.attReport mb) s fun t => t.answered mb 0 = true ∧ t.sys.reports = s.sys.reports + 1 ∧
    t.fld R.secCnt F.secCnt_REPORTS = min (s.fld R.secCnt F.secCnt_REPORTS + 1) F.secCnt_REPORTS.max) ∧
  -- attChain
  (∀ (s : State) (mb : Nat), s.Inv → s.takes mb 0x0901 = true → (s.mbCmd mb).outAddr ≠ 0 →
    Gives (.attChain mb) s fun t => Same (.any [pageFoot mb, .whole [.host]]) s t ∧
    t.answered mb (if s.chain.length ≤ (s.mbCmd mb).outLen then 0 else stBadField) = true) ∧
  -- attExtend
  (∀ (s : State) (mb : Nat), s.Inv → s.takes mb 0x0902 = true →
    Gives (.attExtend mb) s fun t => Same (.any [pageFoot mb, mrFoot (6 + (s.mbCmd mb).a 0 % 2)]) s t ∧ t.answered mb 0 = true ∧ ∀ i,
    i < 8 →
    t.rd (R.secMr (6 + (s.mbCmd mb).a 0 % 2) i) = (toWords (shake256 (s.mrBytes (6 + (s.mbCmd mb).a 0 % 2) ++ (List.range 64).map fun k =>
    BitVec.ofNat 8 ((s.mbCmd mb).byte (8 + k))) 64)).getD i 0) ∧
  -- launchBarrier
  (∀ (s : State) (mb : Nat), s.Inv → s.takes mb 0x0305 = true → bits ((s.mbCmd mb).a 0) 30 18 ≠ 0 →
    bits ((s.mbCmd mb).a 0) 30 18 ≤ 4096 → 10000 ≤ bits ((s.mbCmd mb).a 1) 31 0 → bits ((s.mbCmd mb).a 1) 31 0 ≤ 1000000 →
    (s.mbCmd mb).a 2 = 0 → cplBad ((s.mbCmd mb).a 3) = false → (s.barsAt mb).armed = false →
    (s.timeState = stLocked ∨ s.timeState = stHoldover) → bit ((s.mbCmd mb).a 0) 31 = true → 1 < bits ((s.mbCmd mb).a 0) 30 18 → (∀ a,
    a ∈ s.arrives → a.barId ≠ bits ((s.mbCmd mb).a 0) 63 32) → (s.partsAt mb).launches.length < 64 →
    Gives (.launchBarrier mb) s fun t => Launched s t mb 8 ∧ (t.barsAt mb).armed = true ∧
    (t.barsAt mb).barId = bits ((s.mbCmd mb).a 0) 63 32 ∧ t.fld (R.repSliceLaunch mb) F.repSliceLaunch_ARMED = 1 ∧
    t.fld (R.repSliceLaunch mb) F.repSliceLaunch_MASTER = 1)

/-- Register writes, clearing reads, locks, list entries and snapshots. After 00_scope.md: Notation; 14_slices_joreg.md: Launches and
completion records; 18_counters_recorder.md: The event recorder. -/
def Obligations.RegistersAndLocks : Prop :=
  -- registerWrite
  (∀ (s : State) (addr : Nat) (val : Word) (tied : Word) (d : RegBlock), s.Inv → plainReg addr = true → regDesc addr = some d →
    Gives (.registerWrite 256 addr 8 val tied) s fun t => Same (.reg addr) s t ∧
    t.rd addr = s.written d addr (untied addr val tied) (fun _ => false) &&& regMask addr) ∧
  -- registerWrite_mailbox
  (∀ (s : State) (p : Nat) (i : Nat) (val : Word) (tied : Word), s.Inv → p < 256 → s.sliceLive p = true →
    bit (s.rd (mbHdr p 0)).toNat 63 = false → i < 252 →
    Gives (.registerWrite 256 (mbArg p i) 8 val tied) s fun t => Same (.reg (mbArg p i)) s t ∧ t.rd (mbArg p i) = val) ∧
  -- registerWrite_owned
  (∀ (s : State) (p : Nat) (i : Nat) (val : Word) (tied : Word), s.Inv → p < 256 → s.sliceLive p = true →
    bit (s.rd (mbHdr p 0)).toNat 63 = true → i < 252 →
    Gives (.registerWrite 256 (mbArg p i) 8 val tied) s fun t => Same (.reg (R.sliceMb p)) s t ∧
    t.fld (R.sliceMb p) F.sliceMb_BUSY_WR = min (s.fld (R.sliceMb p) F.sliceMb_BUSY_WR + 1) F.sliceMb_BUSY_WR.max) ∧
  -- registerWrite_violation
  (∀ (s : State) (who : Nat) (addr : Nat) (size : Nat) (val : Word) (tied : Word), s.Inv → who < 256 → 0x300000000 ≤ addr →
    addr < 0x400000000 → Gives (.registerWrite who addr size val tied) s fun t => Same (violFoot who) s t ∧
    t.fld (R.sliceViol who) F.sliceViol_COUNT = min (s.fld (R.sliceViol who) F.sliceViol_COUNT + 1) F.sliceViol_COUNT.max) ∧
  -- rcRead
  (∀ (s : State) (addr : Nat) (v : Word), s.Inv → 0x300000000 ≤ addr → addr < 0x400000000 → addr % 8 = 0 → s.peek addr = some v →
    pmcPlace addr = none → Gives (.rcRead 256 addr 8 none) s fun t => Same (.any [.reg addr, .whole [.emitted]]) s t ∧
    t.emitted = .regRead 256 addr v :: s.emitted) ∧
  -- rcRead_clears
  (∀ (s : State) (p : Nat), s.Inv → p < 258 →
    Gives (.rcRead 256 (R.sliceViol p) 8 none) s fun t => t.emitted = .regRead 256 (R.sliceViol p) (s.rd (R.sliceViol p)) :: s.emitted ∧
    t.rd (R.sliceViol p) = 0) ∧
  -- rcRead_tie
  (∀ (s : State) (addr : Nat) (v : Word) (was : Word) (late : Word) (d : RegBlock) (f : Field), s.Inv → 0x300000000 ≤ addr →
    addr < 0x400000000 → addr % 8 = 0 → s.peek addr = some v → pmcPlace addr = none → regDesc addr = some d → f ∈ d.flds → f.acc = .rc →
    rcTied d v was late = true → f.rst = 0 → Gives (.rcRead 256 addr 8 (some (was,
    late))) s fun t => Same (.any [.reg addr, .whole [.emitted]]) s t ∧ t.fld addr f = f.get late ∧ ∃ w,
    t.emitted = .regRead 256 addr w :: s.emitted ∧ f.get w = f.get was) ∧
  -- rcRead_violation
  (∀ (s : State) (who : Nat) (addr : Nat) (size : Nat) (tie : Option (Word × Word)), s.Inv → who < 256 → 0x300000000 ≤ addr →
    addr < 0x400000000 →
    Gives (.rcRead who addr size tie) s fun t => t.fld (R.sliceViol who) F.sliceViol_COUNT = min (s.fld (R.sliceViol who)
    F.sliceViol_COUNT + 1) F.sliceViol_COUNT.max ∧ t.emitted.head? = some (.regRead who addr 0)) ∧
  -- lockWrite
  (∀ (s : State) (val : Word), s.Inv → Gives (.lockWrite 256 val) s fun t => Same (.reg R.gwLock) s t ∧
    t.rd R.gwLock = (s.rd R.gwLock ||| val) &&& regMask R.gwLock) ∧
  -- lockWrite_violation
  (∀ (s : State) (who : Nat) (val : Word), s.Inv → who < 258 → who ≠ 256 →
    Gives (.lockWrite who val) s fun t => Same (violFoot who) s t ∧ t.rd R.gwLock = s.rd R.gwLock) ∧
  -- listEntry
  (∀ (s : State) (part : Nat) (l : ListJob) (r : List ListJob), s.Inv → (s.partsAt part).lists = l :: r → s.notReady = false →
    s.sys.uhDown = false → bit l.addr 0 = true → l.next + 1 < l.nent → l.stopOnErr = false → (listCmd part (true, 0,
    0) (s.hostRead ((s.pasidOf part l.pasidIdx).getD noPasid) (l.addr / 2 * 2 + 256 * l.next) 256)).opcode = 0x0001 →
    Gives (.listEntry part true) s fun t => (t.partsAt part).lists.map (fun x => (x.handle, x.next)) = (l.handle,
    l.next + 1) :: (r.map fun x => (x.handle, if x.handle = l.handle then l.next + 1 else x.next))) ∧
  -- snapshotRecord
  (∀ (s : State) (trig : Nat), s.Inv → trig < 16 → (s.trigsAt trig).due ≠ 0 →
    Gives (.snapshotRecord trig) s fun t => (t.trigsAt trig).due = (s.trigsAt trig).due - 1)

/-- Reads, writes, atomics in a partition's address space; patrol; the log of errors cleared. After 01_architecture.md: Violations and
faults; 05_memory.md: Kennel; 05_memory.md: LPDDR5X; 05_memory.md: Scrub; 05_memory.md: Ordering and coherence; 05_memory.md: Segment
tables; 05_memory.md: Memory registers. -/
def Obligations.MemoryAccesses : Prop :=
  -- memoryRead
  (∀ (s : State) (req : Requester) (addr : Nat) (len : Nat) (ls : List (Nat × Nat)), s.Inv → s.noErrors = true →
    s.locate (s.reqPart req) rightR addr len = some ls → (∀ e, e ∈ ls → s.lineFenced e.1 = false) →
    Gives (.memoryRead req addr len []) s fun t => Same (.whole [.regs, .emitted]) s t ∧
    t.emitted = .memRead req (ls.flatMap fun e => s.readBytes e.1 e.2) false :: s.emitted) ∧
  -- memoryRead_violation
  (∀ (s : State) (req : Requester) (addr : Nat) (len : Nat), s.Inv → s.reqPart req < 256 →
    s.locate (s.reqPart req) rightR addr len = none →
    Gives (.memoryRead req addr len []) s fun t => t.fld (R.sliceViol (s.reqPart req)) F.sliceViol_COUNT = min (s.fld (R.sliceViol
    (s.reqPart req)) F.sliceViol_COUNT + 1) F.sliceViol_COUNT.max ∧ t.emitted.head? = some (.memRead req (List.replicate len 0) false)) ∧
  -- memoryWrite
  (∀ (s : State) (req : Requester) (addr : Nat) (data : List Byte) (a : Nat) (n : Nat), s.Inv → s.noErrors = true →
    s.locate (s.reqPart req) rightW addr data.length = some [(a, n)] → s.lineFenced a = false →
    (s.dpaKind a = .kennel ∨ s.dpaKind a = .lp 0 ∨ s.dpaKind a = .lp 1) → n = data.length →
    Gives (.memoryWrite req addr data) s fun t => (∀ i, i < n → t.memAt (a + i) = data.getD i 0) ∧ (∀ x, x < a ∨ a + n ≤ x →
    t.memAt x = s.memAt x) ∧ Same (.whole [.regs, .mem, .errs, .lpErr, .emitted]) s t ∧ t.emitted = .memWrote req false :: s.emitted) ∧
  -- memoryWrite_frame
  (∀ (s : State) (req : Requester) (addr : Nat) (data : List Byte) (ls : List (Nat × Nat)), s.Inv → s.noErrors = true →
    s.locate (s.reqPart req) rightW addr data.length = some ls → (∀ e, e ∈ ls → s.lineFenced e.1 = false) →
    Gives (.memoryWrite req addr data) s fun t => ∀ x, (∀ e, e ∈ ls → x < e.1 ∨ e.1 + e.2 ≤ x) → t.byteAt x = s.byteAt x) ∧
  -- memoryWrite_violation
  (∀ (s : State) (req : Requester) (addr : Nat) (data : List Byte), s.Inv → s.reqPart req < 256 →
    s.locate (s.reqPart req) rightW addr data.length = none →
    Gives (.memoryWrite req addr data) s fun t => Same (.any [violFoot (s.reqPart req), .whole [.emitted]]) s t ∧
    t.fld (R.sliceViol (s.reqPart req)) F.sliceViol_COUNT = min (s.fld (R.sliceViol (s.reqPart req)) F.sliceViol_COUNT + 1)
    F.sliceViol_COUNT.max) ∧
  -- patrolRead
  (∀ (s : State) (dpa : Nat) (w : Nat) (res : BitVec 72), s.Inv → dpa < kennelEnd → s.lineBad (dpa / 64 * 64) 64 = false →
    w ∈ wordsOf (dpa / 64 * 64) 64 → wordVerdict (s.errsAt w) = .fixed res →
    Gives (.patrolRead dpa [] false) s fun t => t.errsAt w = ⟨0, false⟩ ∧ t.sys = s.sys ∧ t.parts = s.parts) ∧
  -- patrolRead_bad
  (∀ (s : State) (dpa : Nat), s.Inv → dpa < kennelEnd → s.lineBad (dpa / 64 * 64) 64 = true →
    Gives (.patrolRead dpa [] false) s fun t => t.mem = s.mem ∧ t.errs = s.errs ∧ t.parts = s.parts) ∧
  -- atomicOp
  (∀ (s : State) (req : Requester) (addr : Nat) (op : AtomicKind) (a : Nat), s.Inv → s.noErrors = true →
    s.locate (s.reqPart req) rightA (addr / atomicSize op * atomicSize op) (atomicSize op) = some [(a, atomicSize op)] →
    s.dpaKind a = .kennel →
    Gives (.atomicOp req addr op) s fun t => t.readBytes a (atomicSize op) = leBytes (atomicEval op (leNat (s.readBytes a (atomicSize
    op)))).1 (atomicSize op) ∧ (∀ x, x < a ∨ a + atomicSize op ≤ x → t.memAt x = s.memAt x) ∧ Same (.whole [.regs, .mem, .emitted]) s t ∧
    t.emitted = .atomic req (leNat (s.readBytes a (atomicSize op))) (atomicEval op (leNat (s.readBytes a (atomicSize op)))).2 false ::
    s.emitted)

/-- Records submitted, Leash tokens, operating hours, freezes, erasure, dumps. After 18_counters_recorder.md: The event recorder;
18_counters_recorder.md: Periodic dumps. -/
def Obligations.RecorderEvents : Prop :=
  -- recordSubmit
  (∀ (s : State) (code : Nat) (part : Nat) (src : Nat) (payload : List Word), s.Inv → payload.length ≤ 31 → code < 0xF000 →
    code / 4096 ≠ 0 → (s.leashAt code).tokens = 0 → recUncond code = false →
    Gives (.recordSubmit code part src payload) s fun t => Same (.any [.entry .leash code, .reg R.recCnt2, .whole [.trigs]]) s t ∧
    (t.leashAt code).supp = min ((s.leashAt code).supp + 1) (2 ^ 32 - 1) ∧
    t.fld R.recCnt2 F.recCnt2_SUPPRESSED = min (s.fld R.recCnt2 F.recCnt2_SUPPRESSED + 1) F.recCnt2_SUPPRESSED.max) ∧
  -- recordSubmit_passes
  (∀ (s : State) (code : Nat) (part : Nat) (src : Nat) (payload : List Word) (h : Nat), s.Inv → payload.length ≤ 31 → code < 0xF000 →
    code / 4096 ≠ 0 → (s.leashAt code).tokens ≠ 0 → (s.leashAt code).supp = 0 → recUncond code = false → 256 ≤ part → s.recBusy = false →
    s.recd.timeHours = some h → h ≤ s.hours → s.hours < h + 2 ^ 24 → s.wrPtr % 4096 ≠ 0 → s.wrPtr % 8 = 0 →
    s.wrPtr % 4096 + 8 * (payload.length + 1) ≤ 4096 → s.wrPtr + 8 * (payload.length + 1) < logOrdEnd →
    Gives (.recordSubmit code part src payload) s fun t => t.wrPtr = s.wrPtr + 8 * (payload.length + 1) ∧ (∀ i, i < payload.length →
    t.logAt (s.wrPtr / 8 + 1 + i) = payload.getD i 0) ∧
    t.logAt (s.wrPtr / 8) = recWord0 (s.hours - h) part src (payload.length + 1) code ∧
    (t.leashAt code).tokens = (s.leashAt code).tokens - 1) ∧
  -- leashToken
  (∀ (s : State) (code : Nat), s.Inv → (s.leashAt code).rate ≠ 0 → Gives (.leashToken code) s fun t => Same (.entry .leash code) s t ∧
    (t.leashAt code).tokens = min ((s.leashAt code).tokens + 1) (s.leashAt code).burst) ∧
  -- hoursUpdate
  (∀ (s : State), s.Inv → Gives .hoursUpdate s fun t => Same (.whole [.flash]) s t ∧ t.flash.hours = s.hours) ∧
  -- freezeTimeout
  (∀ (s : State), s.Inv → s.flag R.recStat F.recStat_FROZEN = true → Gives .freezeTimeout s fun t => Same (recFoot) s t ∧
    t.fld R.recStat F.recStat_FROZEN = 0 ∧ t.fld R.recStat F.recStat_STAGED = 0 ∧ t.recd.staged = []) ∧
  -- recEraseDone
  (∀ (s : State), s.Inv → s.flag R.recStat F.recStat_ERASING = true → Gives .recEraseDone s fun t => Same (recFoot) s t ∧
    t.fld R.recStat F.recStat_ERASING = 0 ∧ t.recd.staged = [] ∧ t.recUsed = s.recUsed.filter (fun e => 256 ≤ e.1)) ∧
  -- dumpSnapshot
  (∀ (s : State) (ring : Nat), s.Inv → ring < 33 → (s.dumpsAt ring).active = true → bit (s.dumpsAt ring).addr 0 = true →
    (s.dumpsAt ring).left ≠ 1 → Gives (.dumpSnapshot ring false true) s fun t => Same (.any [.whole [.host], .entry .dumps ring]) s t ∧
    (t.dumpsAt ring).seq = (s.dumpsAt ring).seq + 1 ∧ (t.dumpsAt ring).lastSeq = (s.dumpsAt ring).seq ∧
    (t.dumpsAt ring).nextTick = (s.dumpsAt ring).nextTick + 250 * (s.dumpsAt ring).periodUs ∧
    (t.dumpsAt ring).left = (s.dumpsAt ring).left - 1) ∧
  -- dumpSnapshot_missed
  (∀ (s : State) (ring : Nat) (ok : Bool), s.Inv → ring < 33 → (s.dumpsAt ring).active = true →
    Gives (.dumpSnapshot ring true ok) s fun t => Same (.entry .dumps ring) s t ∧
    (t.dumpsAt ring).missed = min ((s.dumpsAt ring).missed + 1) (2 ^ 32 - 1) ∧ (t.dumpsAt ring).lastSeq = (s.dumpsAt ring).lastSeq)

/-- CHK pairs, health, clocks, supplies, flits, self-tests, DOE requests. After 17_integrity.md: CHK-paired; 17_integrity.md: Health
scores; 17_integrity.md: The CHK promise; 03_matrix_arrays.md: Suspect arrays and in-field retirement; 19_security.md: Asking for a
report; 19_security.md: Debug. -/
def Obligations.IntegrityEvents : Prop :=
  -- diePairTimeout
  (∀ (s : State) (p : Nat) (r : PairRec), s.Inv → (s.pairs.find? (fun x => x.slice == p) = some r) → s.sliceLive p = true →
    Gives (.diePairTimeout p) s fun t => t.sliceState p = 4 ∧ t.fld (R.mbSliceFaultInfo p) F.mbSliceFaultInfo_CLASS = 6 ∧ ∀ x,
    x ∈ t.pairs → x.slice ≠ p) ∧
  -- healthEvaluation
  (∀ (s : State) (k : Nat) (i : Nat), s.Inv → k ≤ 2 → i < healthUnits k →
    Gives .healthEvaluation s fun t => t.fld (healthReg k i) F.healthUnitMod_SCORE = s.healthScore k i) ∧
  -- clockFailure_core
  (∀ (s : State) (i : Nat), s.Inv → s.notReady = false → i < 64 → Gives (.clockFailure i) s fun t => (∀ a, a < 4 →
    t.fld (R.coreArrStat i a) F.coreArrStat_FENCE = 1) ∧ t.healthLevel 3 i = 2 ∧ bit t.flash.retire (256 + i) = true) ∧
  -- clockFailure_gateway
  (∀ (s : State) (i : Nat), s.Inv → s.notReady = false → 86 ≤ i → i < 90 →
    Gives (.clockFailure i) s fun t => Same (.any [.whole [.failed, .attn, .emitted], .reg R.hostBoot, .reg R.hostAttn4]) s t ∧
    t.failed = true ∧ t.fld R.hostBoot F.hostBoot_FAILED = 1 ∧ t.fld R.hostAttn4 F.hostAttn4_NOT_READY = 1) ∧
  -- supplyEvent_core
  (∀ (s : State) (i : Nat), s.Inv → i < 64 → Gives (.supplyEvent i) s fun t => t.sys.supply = s.recent s.sys.supply i) ∧
  -- supplyEvent_gateway
  (∀ (s : State) (i : Nat), s.Inv → 86 ≤ i → i < 90 → Gives (.supplyEvent i) s fun t => t.failed = true ∧
    t.fld R.hostBoot F.hostBoot_FAILED = 1) ∧
  -- flitCrcFailure
  (∀ (s : State) (req : Requester), s.Inv → Gives (.flitCrcFailure req false) s fun t => Same (.whole [.regs]) s t ∧ t.health = s.health) ∧
  -- flitCrcFailure_again
  (∀ (s : State), s.Inv → Gives (.flitCrcFailure .bar2 true) s fun t => Same (.any [healthFoot, .whole [.emitted]]) s t ∧
    (t.healthAt 0).ev3 = (s.healthAt 0).ev3 + 1 ∧ t.emitted = .completerAbort :: s.emitted) ∧
  -- arraySelftest
  (∀ (s : State) (core : Nat) (arr : Nat), s.Inv → core < 64 → arr < 4 → s.flag (R.coreArrStat core arr) F.coreArrStat_SUSPECT = true →
    Gives (.arraySelftest core arr true) s fun t => Same (.any [.reg (R.coreArrStat core arr), healthFoot]) s t ∧
    t.fld (R.coreArrStat core arr) F.coreArrStat_SELFTEST_FAIL = 0 ∧
    (t.healthAt (4096 + (4 * core + arr))).ev1 = (s.healthAt (4096 + (4 * core + arr))).ev1 + 1) ∧
  -- arraySelftest_fails
  (∀ (s : State) (core : Nat) (arr : Nat), s.Inv → core < 64 → arr < 4 → s.flag (R.coreArrStat core arr) F.coreArrStat_SUSPECT = true →
    Gives (.arraySelftest core arr false) s fun t => t.fld (R.coreArrStat core arr) F.coreArrStat_SELFTEST_FAIL = 1 ∧
    t.fld (R.coreArrStat core arr) F.coreArrStat_RETIRE_PEND = 1 ∧ t.healthLevel 4 (4 * core + arr) = 2 ∧
    bit t.flash.retire (4 * core + arr) = true) ∧
  -- doeRequest
  (∀ (s : State) (request : List Byte), s.Inv → s.linkOn = true → s.flag R.secStat F.secStat_KEY_READY = true → request.length = 36 →
    leNat (request.take 4) = 0 → Gives (.doeRequest request) s fun t => Same (.any [.whole [.sys, .emitted], .reg R.secCnt]) s t ∧
    t.sys.reports = s.sys.reports + 1 ∧ t.fld R.secCnt F.secCnt_REPORTS = min (s.fld R.secCnt F.secCnt_REPORTS + 1) F.secCnt_REPORTS.max) ∧
  -- doeRequest_bad
  (∀ (s : State) (request : List Byte), s.Inv → s.linkOn = true → s.flag R.secStat F.secStat_KEY_READY = true → request.length ≠ 36 →
    request.length ≠ 4 → Gives (.doeRequest request) s fun t => Same (.any [.whole [.emitted], .reg R.secCnt]) s t ∧
    t.fld R.secCnt F.secCnt_DOE_BAD = min (s.fld R.secCnt F.secCnt_DOE_BAD + 1) F.secCnt_DOE_BAD.max ∧ t.emitted = .doe [] :: s.emitted) ∧
  -- dbgReqN
  (∀ (s : State), s.Inv → s.flag R.secStat F.secStat_KEY_READY = true → Gives .dbgReqN s fun t => Same (.reg R.secCnt) s t ∧
    t.fld R.secCnt F.secCnt_DBG_REFUSED = min (s.fld R.secCnt F.secCnt_DBG_REFUSED + 1) F.secCnt_DBG_REFUSED.max)

/-- Announce, Sync, Follow_Up and delay messages. After 11_time.md: Roles and profiles; 11_time.md: States, step and rate. -/
def Obligations.PtpMessages : Prop :=
  -- announce
  (∀ (s : State) (m : PtpMsg), s.Inv → s.masterPort m.port = false → s.slaveOn m.port = true →
    m.udp = (s.fld R.timeCfg F.timeCfg_PROFILE == 1) → m.domain = s.fld R.timeCfg F.timeCfg_DOMAIN → m.stepsRemoved < 255 →
    m.sender ≠ Config.clockId → m.clockClass ≤ Config.annClassLimit (s.fld R.timeCfg F.timeCfg_PROFILE) →
    Gives (.announce m) s fun t => Same (.any [.reg R.timeStat, .reg R.timeLSec, .reg R.timeFreq, .whole [.time]]) s t ∧
    t.fld R.timeStat F.timeStat_TIME_QUAL = 1 ∧
    t.timeState = (if s.timeState = stFrStart ∨ s.timeState = stRecovery then stAcquire else s.timeState) ∧
    t.time.sel = bestMaster t.time.masters ∧ (s.time.masters.length < 4 → t.time.masters.any (·.id == m.sender) = true)) ∧
  -- announce_reject
  (∀ (s : State) (m : PtpMsg), s.Inv → s.masterPort m.port = false → s.slaveOn m.port = true →
    m.udp = (s.fld R.timeCfg F.timeCfg_PROFILE == 1) →
    (m.domain ≠ s.fld R.timeCfg F.timeCfg_DOMAIN ∨ 255 ≤ m.stepsRemoved ∨ m.sender = Config.clockId ∨ Config.annClassLimit (s.fld
    R.timeCfg F.timeCfg_PROFILE) < m.clockClass) → Gives (.announce m) s fun t => Same (.reg R.timeCnt) s t ∧
    t.fld R.timeCnt F.timeCnt_ANN_REJ = min (s.fld R.timeCnt F.timeCnt_ANN_REJ + 1) F.timeCnt_ANN_REJ.max) ∧
  -- announce_port
  (∀ (s : State) (m : PtpMsg), s.Inv → s.masterPort m.port = false → s.slaveOn m.port = false →
    Gives (.announce m) s fun t => Same (.reg R.timeCnt) s t ∧
    t.fld R.timeCnt F.timeCnt_ANN_REJ = min (s.fld R.timeCnt F.timeCnt_ANN_REJ + 1) F.timeCnt_ANN_REJ.max) ∧
  -- announce_master
  (∀ (s : State) (m : PtpMsg), s.Inv → s.masterPort m.port = true → Gives (.announce m) s fun t => Same (.any []) s t) ∧
  -- sync
  (∀ (s : State) (m : PtpMsg) (q : Nat), s.Inv → s.masterPort m.port = false → s.slaveOn m.port = true →
    m.udp = (s.fld R.timeCfg F.timeCfg_PROFILE == 1) → s.stampOk m.frStamp = true → s.ptpSyncOk m = true → s.time.lastSeq = some q →
    1 ≤ (m.seqId + 65536 - q % 65536) % 65536 → (m.seqId + 65536 - q % 65536) % 65536 ≤ 256 → m.twoStep = true →
    Gives (.sync m) s fun t => Same (.whole [.time]) s t ∧
    t.time = { s.time with lastSeq := some m.seqId, sync := some (m.seqId, m.stamp, m.corr, s.tick) }) ∧
  -- sync_oneStep
  (∀ (s : State) (m : PtpMsg), s.Inv → s.masterPort m.port = false → s.slaveOn m.port = true →
    m.udp = (s.fld R.timeCfg F.timeCfg_PROFILE == 1) → s.stampOk m.frStamp = true → s.ptpSyncOk m = true → s.time.lastSeq = none →
    m.twoStep = false → Gives (.sync m) s fun t => Same (.whole [.time]) s t ∧
    t.time = { s.time with lastSeq := some m.seqId, sync := none, t12 := some (m.origin + m.corr, m.stamp, s.fr) }) ∧
  -- sync_frStamp
  (∀ (s : State) (m : PtpMsg), s.Inv → s.masterPort m.port = false → s.slaveOn m.port = true →
    m.udp = (s.fld R.timeCfg F.timeCfg_PROFILE == 1) → m.frStamp = true → s.onSn = true → s.ptpSyncOk m = true → s.time.lastSeq = none →
    Gives (.sync m) s fun t => Same (.whole [.time]) s t ∧ t.time = { s.time with lastSeq := some m.seqId }) ∧
  -- sync_reject
  (∀ (s : State) (m : PtpMsg), s.Inv → s.masterPort m.port = false → s.slaveOn m.port = true →
    m.udp = (s.fld R.timeCfg F.timeCfg_PROFILE == 1) → s.ptpSyncOk m = false → Gives (.sync m) s fun t => Same (.reg R.timeCnt) s t ∧
    t.fld R.timeCnt F.timeCnt_SYNC_REJ = min (s.fld R.timeCnt F.timeCnt_SYNC_REJ + 1) F.timeCnt_SYNC_REJ.max) ∧
  -- sync_sequence
  (∀ (s : State) (m : PtpMsg) (q : Nat), s.Inv → s.masterPort m.port = false → s.slaveOn m.port = true →
    m.udp = (s.fld R.timeCfg F.timeCfg_PROFILE == 1) → s.time.lastSeq = some q → m.seqId = q → q < 65536 →
    Gives (.sync m) s fun t => Same (.reg R.timeCnt) s t ∧
    t.fld R.timeCnt F.timeCnt_SYNC_REJ = min (s.fld R.timeCnt F.timeCnt_SYNC_REJ + 1) F.timeCnt_SYNC_REJ.max) ∧
  -- sync_port
  (∀ (s : State) (m : PtpMsg), s.Inv → s.masterPort m.port = false → s.slaveOn m.port = false →
    Gives (.sync m) s fun t => Same (.reg R.timeCnt) s t ∧
    t.fld R.timeCnt F.timeCnt_SYNC_REJ = min (s.fld R.timeCnt F.timeCnt_SYNC_REJ + 1) F.timeCnt_SYNC_REJ.max) ∧
  -- followUp
  (∀ (s : State) (m : PtpMsg) (q : Nat) (t2 : Int) (c : Int) (k : Nat), s.Inv → s.masterPort m.port = false → s.slaveOn m.port = true →
    m.udp = (s.fld R.timeCfg F.timeCfg_PROFILE == 1) → s.time.sync = some (q, t2, c, k) → s.ptpSyncOk m = true → m.seqId = q →
    s.tick ≤ k + 250000000 → Gives (.followUp m) s fun t => Same (.whole [.time]) s t ∧
    t.time = { s.time with sync := none, t12 := some (m.origin + m.corr + c, t2, 4 * k) }) ∧
  -- delayReq
  (∀ (s : State) (stamp : Int) (frStamp : Bool), s.Inv → s.slaveOn s.slavePort = true →
    Gives (.delayReq stamp frStamp) s fun t => Same (.whole [.time, .emitted]) s t ∧
    t.time = { s.time with dreq := (if frStamp = true ∧ s.onSn = true then none else some (s.time.dseq, stamp, s.tick)), dseq := (s.time.dseq + 1) % 65536 }
    ∧ t.emitted = .frame 1 s.slavePort [1, s.time.dseq] [] :: s.emitted) ∧
  -- delayResp
  (∀ (s : State) (m : PtpMsg) (q : Nat) (t3 : Int) (k : Nat) (t1 : Int) (t2 : Int) (fr2 : Nat) (a : Int) (b : Int), s.Inv →
    s.masterPort m.port = false → s.slaveOn m.port = true → m.udp = (s.fld R.timeCfg F.timeCfg_PROFILE == 1) → s.time.dreq = some (q, t3,
    k) → m.reqMatch = true → m.seqId = q → s.tick ≤ k + 250000000 → s.time.t12 = some (t1, t2, fr2) →
    a = t2 - t1 - sfld s (R.timePortAsym m.port) F.timePortAsym_ASYM * 2 ^ 14 →
    b = m.origin - m.corr - t3 + sfld s (R.timePortAsym m.port) F.timePortAsym_ASYM * 2 ^ 14 → 0 ≤ a + b →
    a + b ≤ ns17 (s.fld R.timeBound F.timeBound_PD_MAX * 1000) → s.timeState = stAcquire → s.time.prev = none →
    Gives (.delayResp m) s fun t => Same (.any [.reg R.timeServo, .whole [.time]]) s t ∧
    t.fld R.timeServo F.timeServo_OFFSET = satBits 32 (divNear (a - b) (2 ^ 15)) ∧
    t.time.off = s.time.off + s.rate * ((fr2 : Int) - s.time.frRef) - (a - b) * 2 ^ 23 ∧ t.time.frRef = fr2 ∧ t.time.prev = some (a - b,
    2 * t2 - (a - b)) ∧ t.time.dreq = none ∧ t.time.lock = 0) ∧
  -- delayResp_noSync
  (∀ (s : State) (m : PtpMsg) (q : Nat) (t3 : Int) (k : Nat), s.Inv → s.masterPort m.port = false → s.slaveOn m.port = true →
    m.udp = (s.fld R.timeCfg F.timeCfg_PROFILE == 1) → s.time.dreq = some (q, t3, k) → m.reqMatch = true → m.seqId = q →
    s.tick ≤ k + 250000000 → s.time.t12 = none → Gives (.delayResp m) s fun t => Same (.whole [.time]) s t ∧
    t.time = { s.time with dreq := none }) ∧
  -- delayResp_path
  (∀ (s : State) (m : PtpMsg) (q : Nat) (t3 : Int) (k : Nat) (t1 : Int) (t2 : Int) (fr2 : Nat) (a : Int) (b : Int), s.Inv →
    s.masterPort m.port = false → s.slaveOn m.port = true → m.udp = (s.fld R.timeCfg F.timeCfg_PROFILE == 1) → s.time.dreq = some (q, t3,
    k) → m.reqMatch = true → m.seqId = q → s.tick ≤ k + 250000000 → s.time.t12 = some (t1, t2, fr2) →
    a = t2 - t1 - sfld s (R.timePortAsym m.port) F.timePortAsym_ASYM * 2 ^ 14 →
    b = m.origin - m.corr - t3 + sfld s (R.timePortAsym m.port) F.timePortAsym_ASYM * 2 ^ 14 → a + b < 0 →
    (s.timeState = stAcquire ∨ s.timeState = stLocked ∨ s.timeState = stHoldover) →
    Gives (.delayResp m) s fun t => Same (.any [.reg R.timeCnt, .whole [.time]]) s t ∧
    t.fld R.timeCnt F.timeCnt_PD_REJ = min (s.fld R.timeCnt F.timeCnt_PD_REJ + 1) F.timeCnt_PD_REJ.max ∧
    t.time = { s.time with dreq := none, rej := [], lock := 0 })

/-- Master messages, steps, recovery, loss of reference, timeouts, holdover. After 11_time.md: Roles and profiles; 11_time.md: States,
step and rate. -/
def Obligations.TimeStates : Prop :=
  -- masterDelayReq
  (∀ (s : State) (m : PtpMsg), s.Inv → s.masterPort m.port = true → m.domain = s.fld R.timeCfg F.timeCfg_DOMAIN → m.udp = false →
    Gives (.masterDelayReq m) s fun t => Same (.whole [.emitted]) s t ∧
    t.emitted = .frame 1 m.port [2, m.sender, m.seqId, m.stamp.toNat] [] :: s.emitted) ∧
  -- masterDelayReq_port
  (∀ (s : State) (m : PtpMsg), s.Inv → s.masterPort m.port = false → s.slaveOn m.port = false →
    Gives (.masterDelayReq m) s fun t => Same (.reg R.timeCnt) s t ∧
    t.fld R.timeCnt F.timeCnt_SYNC_REJ = min (s.fld R.timeCnt F.timeCnt_SYNC_REJ + 1) F.timeCnt_SYNC_REJ.max) ∧
  -- masterSyncTx
  (∀ (s : State) (port : Nat), s.Inv → s.masterPort port = true → Gives (.masterSyncTx port) s fun t => Same (.whole [.emitted]) s t ∧
    t.emitted = .frame 1 port [3, s.fld R.timeCfg F.timeCfg_DOMAIN, s.readingNs] [] :: s.emitted) ∧
  -- masterAnnounceTx
  (∀ (s : State) (port : Nat), s.Inv → s.masterPort port = true →
    Gives (.masterAnnounceTx port) s fun t => Same (.whole [.emitted]) s t ∧
    t.emitted = .frame 1 port (4 :: s.fld R.timeCfg F.timeCfg_DOMAIN :: s.fld R.timeStat F.timeStat_CLASS :: s.annFields) [] :: s.emitted) ∧
  -- masterAnnounceTx_locked
  (∀ (s : State) (port : Nat) (m : MasterSt), s.Inv → s.masterPort port = true → s.timeState = stLocked → s.ptpOn = true →
    (s.time.masters.find? (fun m => some m.id == s.time.sel) = some m) →
    Gives (.masterAnnounceTx port) s fun t => Same (.whole [.emitted]) s t ∧
    t.emitted = .frame 1 port (4 :: s.fld R.timeCfg F.timeCfg_DOMAIN :: s.fld R.timeStat F.timeStat_CLASS :: (m.steps + 1) :: m.gm) [] ::
    s.emitted) ∧
  -- timeStep
  (∀ (s : State), s.Inv → s.time.wantStep = true → s.time.wantRec = none → s.timeState = stAcquire →
    Gives .timeStep s fun t => Same (.any [.reg R.timeStat, .reg R.timeFreq, recFoot, .whole [.time, .radio]]) s t ∧
    t.timeState = stLocked ∧ t.fld R.timeStat F.timeStat_FORM = 1 ∧ t.fld R.timeStat F.timeStat_ALARM = 0 ∧
    t.fld R.timeStat F.timeStat_STEPS = (s.fld R.timeStat F.timeStat_STEPS + 1) % 2 ^ 16 ∧ t.time.sn = s.frReading ∧
    t.time.snTick = s.tick ∧ t.time.wantStep = false ∧ t.time.t12 = none ∧ t.time.dreq = none ∧
    t.radio.resume = some (t.readingNs + 1000000)) ∧
  -- recoveryEntry
  (∀ (s : State), s.Inv → s.time.wantRec ≠ none → (s.timeState = stLocked ∨ s.timeState = stHoldover) →
    Gives .recoveryEntry s fun t => t.timeState = stRecovery ∧ t.fld R.timeStat F.timeStat_ALARM = 1 ∧
    t.fld R.timeStat F.timeStat_FORM = 0 ∧ t.fld R.timeLSec F.timeLSec_SEC = 0 ∧
    t.fld R.timeCnt2 F.timeCnt2_RECOVERIES = min (s.fld R.timeCnt2 F.timeCnt2_RECOVERIES + 1) F.timeCnt2_RECOVERIES.max ∧
    t.fld R.radioStat F.radioStat_HELD = 1 ∧ t.time.wantRec = none ∧ t.time.off = s.snNow - (s.fr : Int) * 2 ^ 40 ∧ t.time.frRef = s.fr ∧
    t.radio.resume = none) ∧
  -- timeReferenceLoss
  (∀ (s : State), s.Inv → s.timeState = stAcquire → s.flag R.timeStat F.timeStat_ALARM = false →
    Gives .timeReferenceLoss s fun t => Same (.any [.reg R.timeStat, .reg R.timeLSec, .reg R.timeFreq, .whole [.time]]) s t ∧
    t.timeState = stFrStart ∧ t.fld R.timeStat F.timeStat_TIME_QUAL = 0 ∧ t.fld R.timeLSec F.timeLSec_SEC = 0 ∧
    t.fld R.timeFreq F.timeFreq_QL_TX = t.qlTx ∧
    t.time = { s.time with prev := none, rej := [], lock := 0, wantStep := false, qlOwed := t.time.qlOwed }) ∧
  -- timeReferenceLoss_locked
  (∀ (s : State), s.Inv → s.timeState = stLocked → s.time.wantRec = none →
    Gives .timeReferenceLoss s fun t => Same (.any [.reg R.timeStat, .reg R.timeFreq, .reg R.timeServo, .reg R.timeCnt2, recFoot, .whole [.time]])
    s t ∧ t.timeState = stHoldover ∧ t.fld R.timeStat F.timeStat_TIME_QUAL = 0 ∧ t.fld R.timeStat F.timeStat_CLASS = 135 ∧
    t.fld R.timeCnt2 F.timeCnt2_HOLDOVERS = min (s.fld R.timeCnt2 F.timeCnt2_HOLDOVERS + 1) F.timeCnt2_HOLDOVERS.max ∧
    t.time.lossTick = s.tick) ∧
  -- announceReceiptTimeout
  (∀ (s : State), s.Inv → s.ptpOn = true → s.time.sel ≠ none →
    Gives .announceReceiptTimeout s fun t => t.time.masters = s.time.masters.filter (fun m => some m.id != s.time.sel) ∧
    t.time.sel = bestMaster t.time.masters ∧ (t.time.sel = none → t.fld R.timeStat F.timeStat_TIME_QUAL = 0)) ∧
  -- sampleTimeout
  (∀ (s : State), s.Inv → s.timeState = stLocked → s.time.wantRec = none →
    Gives .sampleTimeout s fun t => Same (.any [.reg R.timeStat, .reg R.timeFreq, .reg R.timeServo, .reg R.timeCnt2, recFoot, .whole [.time]])
    s t ∧ t.timeState = stHoldover ∧ t.fld R.timeStat F.timeStat_TIME_QUAL = 0 ∧ t.fld R.timeStat F.timeStat_CLASS = 135 ∧
    t.fld R.timeCnt2 F.timeCnt2_HOLDOVERS = min (s.fld R.timeCnt2 F.timeCnt2_HOLDOVERS + 1) F.timeCnt2_HOLDOVERS.max ∧
    t.time.lossTick = s.tick) ∧
  -- holdoverExpiry
  (∀ (s : State), s.Inv → s.timeState = stHoldover → s.time.wantRec = none → s.time.lossTick + s.holdBudget * 250000000 ≤ s.tick →
    Gives .holdoverExpiry s fun t => Same (.whole [.time]) s t ∧
    t.time = { s.time with wantRec := some (sfld s R.timeServo F.timeServo_OFFSET / 4) }) ∧
  -- holdoverExpiry_budget
  (∀ (s : State), s.Inv → s.tick < s.time.lossTick + s.holdBudget * 250000000 → Gives .holdoverExpiry s fun t => Same (.any []) s t)

/-- 1PPS, ESMC, frequency references, TIME.CFG and the latch. After 11_time.md: Frequency; 11_time.md: Sideband time pins; 11_time.md:
States, step and rate; 11_time.md: Time unit registers. -/
def Obligations.PulsesAndFrequency : Prop :=
  -- ppsInEdge_candidate
  (∀ (s : State) (stamp : Int), s.Inv → s.time.ppsAt = none → Gives (.ppsInEdge stamp) s fun t => Same (.whole [.time]) s t ∧
    t.time = { s.time with ppsAt := some s.tick, ppsRun := 0 }) ∧
  -- ppsInEdge
  (∀ (s : State) (stamp : Int) (k : Nat), s.Inv → s.time.ppsAt = some k → ppsNear k s.tick = true → 2 ≤ s.time.ppsRun →
    s.fld R.timeCfg F.timeCfg_SRC ≠ 1 → Gives (.ppsInEdge stamp) s fun t => Same (.any [.reg R.timePps, .whole [.time]]) s t ∧
    t.fld R.timePps F.timePps_IN_QUAL = 1 ∧
    t.fld R.timePps F.timePps_IN_ERR = satBits 32 ((stamp - divNear stamp (10 ^ 9 * 2 ^ 16) * (10 ^ 9 * 2 ^ 16)) / 2 ^ 16) ∧
    t.time = { s.time with ppsAt := some s.tick, ppsRun := 3, ppsBad := 0, ppsSec := s.time.ppsSec.map (· + 1) }) ∧
  -- ppsInEdge_reject
  (∀ (s : State) (stamp : Int) (k : Nat), s.Inv → s.time.ppsAt = some k → ppsNear k s.tick = false →
    s.flag R.timePps F.timePps_IN_QUAL = false → Gives (.ppsInEdge stamp) s fun t => Same (.any [.reg R.timeCnt2, .whole [.time]]) s t ∧
    t.fld R.timeCnt2 F.timeCnt2_PPS_IN_REJ = min (s.fld R.timeCnt2 F.timeCnt2_PPS_IN_REJ + 1) F.timeCnt2_PPS_IN_REJ.max ∧
    t.time = { s.time with ppsAt := some s.tick, ppsRun := 0, ppsSec := none }) ∧
  -- ppsInMissingEdge
  (∀ (s : State), s.Inv → s.flag R.timePps F.timePps_IN_QUAL = true → s.time.ppsBad < 2 →
    Gives .ppsInMissingEdge s fun t => Same (.whole [.time]) s t ∧ t.time = { s.time with ppsBad := s.time.ppsBad + 1 }) ∧
  -- ppsInMissingEdge_third
  (∀ (s : State), s.Inv → s.flag R.timePps F.timePps_IN_QUAL = true → 2 ≤ s.time.ppsBad → s.fld R.timeCfg F.timeCfg_SRC ≠ 1 →
    Gives .ppsInMissingEdge s fun t => Same (.any [.reg R.timePps, .whole [.time]]) s t ∧ t.fld R.timePps F.timePps_IN_QUAL = 0 ∧
    t.time = { s.time with ppsAt := none, ppsRun := 0, ppsBad := 0, ppsSec := none }) ∧
  -- ppsOut
  (∀ (s : State), s.Inv → s.ppsDue = true → s.time.ppsUp = none → (s.onSn = true ∨ s.flag R.timeCfg F.timeCfg_PPS_SQUELCH = false) →
    Gives .ppsOut s fun t => Same (.whole [.time, .emitted]) s t ∧ t.time = { s.time with ppsUp := some s.tick } ∧
    t.emitted = Emit.pin 0 true :: s.emitted) ∧
  -- ppsOut_squelched
  (∀ (s : State), s.Inv → (s.ppsDue = false ∨ s.time.ppsUp ≠ none ∨ (s.onSn = false ∧ s.flag R.timeCfg F.timeCfg_PPS_SQUELCH = true)) →
    Gives .ppsOut s fun t => Same (.any []) s t) ∧
  -- esmcTx
  (∀ (s : State) (port : Nat), s.Inv → port ∈ s.esmcPorts →
    Gives (.esmcTx port false) s fun t => Same (.any [.reg R.timeFreq, .whole [.time, .emitted]]) s t ∧
    t.fld R.timeFreq F.timeFreq_QL_TX = s.qlTx ∧
    t.emitted = .frame 2 port [0, if port == s.slavePort then 0xF else s.qlTx] [] :: s.emitted) ∧
  -- esmcTx_event
  (∀ (s : State) (port : Nat), s.Inv → port ∈ s.esmcPorts → port ∈ s.time.qlOwed → s.fld R.timeFreq F.timeFreq_QL_TX = s.qlTx →
    Gives (.esmcTx port true) s fun t => Same (.whole [.time, .emitted]) s t ∧
    t.time = { s.time with qlOwed := s.time.qlOwed.filter (· != port) } ∧
    t.emitted = .frame 2 port [1, if port == s.slavePort then 0xF else s.qlTx] [] :: s.emitted) ∧
  -- esmcTx_change
  (∀ (s : State) (port : Nat), s.Inv → port ∈ s.esmcPorts → port ≠ s.slavePort → s.fld R.timeFreq F.timeFreq_QL_TX ≠ s.qlTx →
    Gives (.esmcTx port true) s fun t => Same (.any [.reg R.timeFreq, .whole [.time, .emitted]]) s t ∧
    t.fld R.timeFreq F.timeFreq_QL_TX = s.qlTx ∧
    t.time = { s.time with qlOwed := s.esmcPorts.filter (fun p => p != s.slavePort && p != port) } ∧
    t.emitted = .frame 2 port [1, s.qlTx] [] :: s.emitted) ∧
  -- esmcTx_unused
  (∀ (s : State) (port : Nat) (event : Bool), s.Inv → port ∉ s.esmcPorts →
    Gives (.esmcTx port event) s fun t => Same (.any [.reg R.timeFreq, .whole [.time]]) s t ∧ t.fld R.timeFreq F.timeFreq_QL_TX = s.qlTx) ∧
  -- esmcRx
  (∀ (s : State) (ql : Nat), s.Inv → ql < 16 → s.slaveFit s.slavePort = true →
    Gives (.esmcRx s.slavePort ql) s fun t => t.fld R.timeFreq F.timeFreq_QL_RX = ql ∧ t.time.syncePres = s.time.syncePres ∧
    Same (.any [.reg R.timeFreq, .reg R.timeStat, .reg R.timeCnt2, .whole [.time]]) s t ∧
    t.fld R.timeFreq F.timeFreq_SYNCE_QUAL = (if t.time.syncePres && t.fld R.timeFreq F.timeFreq_QL_RX != 0xF then 1 else 0) ∧
    t.fld R.timeFreq F.timeFreq_SEL = t.freqBest ∧ t.fld R.timeFreq F.timeFreq_QL_TX = t.qlTx ∧
    t.fld R.timeCnt2 F.timeCnt2_REF_SWITCH = (if s.fld R.timeFreq F.timeFreq_SEL = t.fld R.timeFreq F.timeFreq_SEL then s.fld R.timeCnt2
    F.timeCnt2_REF_SWITCH else min (s.fld R.timeCnt2 F.timeCnt2_REF_SWITCH + 1) F.timeCnt2_REF_SWITCH.max)) ∧
  -- esmcRx_other
  (∀ (s : State) (port : Nat) (ql : Nat), s.Inv → port ≠ s.slavePort → Gives (.esmcRx port ql) s fun t => Same (.any []) s t) ∧
  -- qlTimeout
  (∀ (s : State), s.Inv → Gives .qlTimeout s fun t => t.fld R.timeFreq F.timeFreq_QL_RX = 0xF ∧ t.time.syncePres = s.time.syncePres ∧
    Same (.any [.reg R.timeFreq, .reg R.timeStat, .reg R.timeCnt2, .whole [.time]]) s t ∧
    t.fld R.timeFreq F.timeFreq_SYNCE_QUAL = (if t.time.syncePres && t.fld R.timeFreq F.timeFreq_QL_RX != 0xF then 1 else 0) ∧
    t.fld R.timeFreq F.timeFreq_SEL = t.freqBest ∧ t.fld R.timeFreq F.timeFreq_QL_TX = t.qlTx ∧
    t.fld R.timeCnt2 F.timeCnt2_REF_SWITCH = (if s.fld R.timeFreq F.timeFreq_SEL = t.fld R.timeFreq F.timeFreq_SEL then s.fld R.timeCnt2
    F.timeCnt2_REF_SWITCH else min (s.fld R.timeCnt2 F.timeCnt2_REF_SWITCH + 1) F.timeCnt2_REF_SWITCH.max)) ∧
  -- freqRefSwitch
  (∀ (s : State) (a : Bool) (b : Bool), s.Inv → Gives (.freqRefSwitch a b) s fun t => t.time.syncePres = a ∧
    t.fld R.timeFreq F.timeFreq_REF10_QUAL = (if b then 1 else 0) ∧
    t.fld R.timeFreq F.timeFreq_QL_RX = s.fld R.timeFreq F.timeFreq_QL_RX ∧
    Same (.any [.reg R.timeFreq, .reg R.timeStat, .reg R.timeCnt2, .whole [.time]]) s t ∧
    t.fld R.timeFreq F.timeFreq_SYNCE_QUAL = (if t.time.syncePres && t.fld R.timeFreq F.timeFreq_QL_RX != 0xF then 1 else 0) ∧
    t.fld R.timeFreq F.timeFreq_SEL = t.freqBest ∧ t.fld R.timeFreq F.timeFreq_QL_TX = t.qlTx ∧
    t.fld R.timeCnt2 F.timeCnt2_REF_SWITCH = (if s.fld R.timeFreq F.timeFreq_SEL = t.fld R.timeFreq F.timeFreq_SEL then s.fld R.timeCnt2
    F.timeCnt2_REF_SWITCH else min (s.fld R.timeCnt2 F.timeCnt2_REF_SWITCH + 1) F.timeCnt2_REF_SWITCH.max)) ∧
  -- timeCfgWrite
  (∀ (s : State) (val : Word), s.Inv → s.flag R.gwLock F.gwLock_TIME = false → F.timeCfg_PROFILE.get val < 2 →
    F.timeCfg_SLV_PORT.get val < 48 → s.slaveFit (F.timeCfg_SLV_PORT.get val) = true → F.timeCfg_SRC.get val < 3 →
    (if F.timeCfg_PROFILE.get val = 0 then 24 ≤ F.timeCfg_DOMAIN.get val ∧
    F.timeCfg_DOMAIN.get val ≤ 43 else 44 ≤ F.timeCfg_DOMAIN.get val ∧ F.timeCfg_DOMAIN.get val ≤ 63) →
    Gives (.timeCfgWrite 256 val) s fun t => t.fld R.timeCfg F.timeCfg_PROFILE = F.timeCfg_PROFILE.get val ∧
    t.fld R.timeCfg F.timeCfg_DOMAIN = F.timeCfg_DOMAIN.get val ∧ t.fld R.timeCfg F.timeCfg_SLV_PORT = F.timeCfg_SLV_PORT.get val ∧
    t.fld R.timeCfg F.timeCfg_SRC = F.timeCfg_SRC.get val ∧ t.fld R.timeCfg F.timeCfg_FREQ_PRI = F.timeCfg_FREQ_PRI.get val ∧
    t.fld R.timeCfg F.timeCfg_EEC_OPT = F.timeCfg_EEC_OPT.get val ∧
    t.fld R.timeCfg F.timeCfg_PPS_SQUELCH = F.timeCfg_PPS_SQUELCH.get val ∧
    (F.timeCfg_SRC.get val ≠ s.fld R.timeCfg F.timeCfg_SRC ∨ F.timeCfg_PROFILE.get val ≠ s.fld R.timeCfg F.timeCfg_PROFILE ∨
    F.timeCfg_DOMAIN.get val ≠ s.fld R.timeCfg F.timeCfg_DOMAIN ∨ F.timeCfg_SLV_PORT.get val ≠ s.slavePort →
    t.fld R.timeStat F.timeStat_TIME_QUAL = 0 ∧ t.time.masters = [])) ∧
  -- timeCfgWrite_locked
  (∀ (s : State) (val : Word), s.Inv → s.flag R.gwLock F.gwLock_TIME = true → Gives (.timeCfgWrite 256 val) s fun t => Same (.any []) s t) ∧
  -- timeLatch
  (∀ (s : State) (val : Word), s.Inv → F.timeLatch_CAPTURE.get val = 1 → s.onSn = true →
    (s.time.wantStep = false ∨ s.time.wantRec ≠ none ∨ s.timeState ≠ stAcquire) →
    Gives (.timeLatch 256 val) s fun t => Same (.any [.reg R.timeLSec, .reg R.timeLNs, .reg R.timeLFr, .reg R.timeLTick]) s t ∧
    t.fld R.timeLSec F.timeLSec_SEC = (s.snNow / 2 ^ 40).toNat / 10 ^ 9 % 2 ^ 48 ∧
    t.fld R.timeLNs F.timeLNs_NS = (s.snNow / 2 ^ 40).toNat % 10 ^ 9 ∧
    t.fld R.timeLNs F.timeLNs_FRAC = (s.snNow / 2 ^ 24 % 2 ^ 16).toNat ∧ t.fld R.timeLFr F.timeLFr_FR = s.fr % 2 ^ 64 ∧
    t.fld R.timeLTick F.timeLTick_TICK = s.tick % 2 ^ 64) ∧
  -- timeLatch_step
  (∀ (s : State) (val : Word), s.Inv → F.timeLatch_CAPTURE.get val = 1 → s.time.wantStep = true → s.time.wantRec = none →
    s.timeState = stAcquire → Gives (.timeLatch 256 val) s fun t => t.timeState = stLocked ∧ t.time.sn = s.frReading ∧
    t.fld R.timeLSec F.timeLSec_SEC = (s.frReading / 2 ^ 40).toNat / 10 ^ 9 % 2 ^ 48 ∧
    t.fld R.timeLNs F.timeLNs_NS = (s.frReading / 2 ^ 40).toNat % 10 ^ 9 ∧ t.fld R.timeLFr F.timeLFr_FR = s.fr % 2 ^ 64 ∧
    t.fld R.timeLTick F.timeLTick_TICK = s.tick % 2 ^ 64) ∧
  -- timeLatch_fr
  (∀ (s : State) (val : Word), s.Inv → F.timeLatch_CAPTURE.get val = 1 → s.onSn = false →
    (s.time.wantStep = false ∨ s.time.wantRec ≠ none ∨ s.timeState ≠ stAcquire) →
    Gives (.timeLatch 256 val) s fun t => t.fld R.timeLSec F.timeLSec_SEC = 0 ∧ t.fld R.timeLNs F.timeLNs_NS = 0 ∧
    t.fld R.timeLNs F.timeLNs_FRAC = 0 ∧ t.fld R.timeLFr F.timeLFr_FR = s.fr % 2 ^ 64) ∧
  -- timeLatch_violation
  (∀ (s : State) (who : Nat) (val : Word), s.Inv → who < 256 → Gives (.timeLatch who val) s fun t => Same (violFoot who) s t ∧
    t.fld (R.sliceViol who) F.sliceViol_COUNT = min (s.fld (R.sliceViol who) F.sliceViol_COUNT + 1) F.sliceViol_COUNT.max)

/-- Launch barriers open or time out; Hound packets and watches. After 16_reproducibility.md: Launching in step; 16_reproducibility.md:
The Hound; 16_reproducibility.md: Registers. -/
def Obligations.BarrierAndHound : Prop :=
  -- arrive
  (∀ (s : State) (barId : Nat) (node : Nat) (t1 : Word) (t2 : Word), s.Inv → s.fabOn = true → (∀ e, e ∈ s.bars → e.2.barId ≠ barId) →
    s.arrives.length < 4096 → Gives (.arrive barId node t1 t2) s fun t => Same (.whole [.arrives]) s t ∧
    t.arrives = s.arrives.filter (fun x => x.barId != barId || x.node != node) ++ [⟨barId, node, t1.toNat, t2.toNat, s.tick⟩]) ∧
  -- arrive_last
  (∀ (s : State) (barId : Nat) (node : Nat) (t1 : Word) (t2 : Word) (p : Nat) (b : BarSt), s.Inv → s.fabOn = true → s.bars = [(p, b)] →
    b.armed = true → b.master = true → b.fallback = 0 → b.barId = barId → b.nmod = 2 → b.tRel = none → s.arrives = [] →
    s.noErrors = true → s.dpaKind (s.syncDpa p b.sigIdx) = .kennel → Gives (.arrive barId node t1 t2) s fun t => t.arrives = [] ∧
    (t.barsAt p).tRel = some ((s.snQ + 4 * b.delayNs) % 2 ^ 64) ∧ (t.barsAt p).openAt = some ((s.snQ + 4 * b.delayNs) % 2 ^ 64) ∧
    t.readBytes (s.syncDpa p b.sigIdx) 4 = leBytes (atomicEval .signal (leNat (s.readBytes (s.syncDpa p b.sigIdx) 4))).1 4) ∧
  -- arrive_duplicate
  (∀ (s : State) (barId : Nat) (node : Nat) (t1 : Word) (t2 : Word) (p : Nat) (b : BarSt) (tRel : Nat), s.Inv → s.fabOn = true →
    s.fabPorts ≠ [] → s.bars = [(p, b)] → b.master = true → b.fallback = 0 → b.barId = barId → b.tRel = some tRel →
    Gives (.arrive barId node t1 t2) s fun t => Same (.whole [.emitted]) s t ∧
    t.emitted = .frame 4 (s.fabPorts.getD (Config.fabEntropy node 0 0 % 2 ^ 14 % s.fabPorts.length) 0) (s.fabIp (Config.fabEntropy node 0
    0 % 2 ^ 14)) (fabBytes [s.fabWord0 4 false false node, barId % 2 ^ 32 * 2 ^ 32 + 2 * 2 ^ 24, t1.toNat, t2.toNat, s.snQ, tRel] []) ::
    s.emitted) ∧
  -- release
  (∀ (s : State) (barId : Nat) (node : Nat) (t1 : Word) (t2 : Word) (t3 : Word) (t4 : Word) (tRel : Word) (p : Nat) (b : BarSt) (th :
    Int), s.Inv → s.fabOn = true →
    (s.bars.find? (fun e => e.2.armed && !e.2.master && e.2.fallback == 0 && e.2.barId == barId && e.2.masterNode == node &&
    e.2.openAt.isNone) = some (p, b)) → th = (dif64 t2.toNat t1.toNat - dif64 t4.toNat t3.toNat) / 2 → s.noErrors = true →
    s.dpaKind (s.syncDpa p b.sigIdx) = .kennel → -4000 ≤ th → th ≤ 4000 → p < 256 →
    Gives (.release barId node t1 t2 t3 t4 tRel) s fun t => (t.barsAt p).openAt = some (((tRel.toNat : Int) - th) % 2 ^ 64).toNat ∧
    t.readBytes (s.syncDpa p b.sigIdx) 4 = leBytes (atomicEval .signal (leNat (s.readBytes (s.syncDpa p b.sigIdx) 4))).1 4 ∧
    t.fld (R.repSliceLaunch p) F.repSliceLaunch_THETA_REJ = s.fld (R.repSliceLaunch p) F.repSliceLaunch_THETA_REJ) ∧
  -- release_reject
  (∀ (s : State) (barId : Nat) (node : Nat) (t1 : Word) (t2 : Word) (t3 : Word) (t4 : Word) (tRel : Word) (p : Nat) (b : BarSt) (th :
    Int), s.Inv → s.fabOn = true →
    (s.bars.find? (fun e => e.2.armed && !e.2.master && e.2.fallback == 0 && e.2.barId == barId && e.2.masterNode == node &&
    e.2.openAt.isNone) = some (p, b)) → th = (dif64 t2.toNat t1.toNat - dif64 t4.toNat t3.toNat) / 2 → s.noErrors = true →
    s.dpaKind (s.syncDpa p b.sigIdx) = .kennel → (th < -4000 ∨ 4000 < th) → p < 256 →
    Gives (.release barId node t1 t2 t3 t4 tRel) s fun t => (t.barsAt p).openAt = some tRel.toNat ∧
    t.readBytes (s.syncDpa p b.sigIdx) 4 = leBytes (atomicEval .signal (leNat (s.readBytes (s.syncDpa p b.sigIdx) 4))).1 4 ∧
    t.fld (R.repSliceLaunch p) F.repSliceLaunch_THETA_REJ = min (s.fld (R.repSliceLaunch p) F.repSliceLaunch_THETA_REJ + 1)
    F.repSliceLaunch_THETA_REJ.max) ∧
  -- arriveResend
  (∀ (s : State) (p : Nat) (b : BarSt), s.Inv → b = s.barsAt p → b.armed = true → b.master = false → b.fallback = 0 → b.openAt = none →
    s.fabOn = true → s.fabPorts ≠ [] → Gives (.arriveResend p) s fun t => Same (.whole [.emitted]) s t ∧
    t.emitted = .frame 4 (s.fabPorts.getD (Config.fabEntropy b.masterNode 0 0 % 2 ^ 14 % s.fabPorts.length) 0) (s.fabIp (Config.fabEntropy
    b.masterNode 0 0 % 2 ^ 14)) (fabBytes [s.fabWord0 4 false false b.masterNode, b.barId % 2 ^ 32 * 2 ^ 32 + 1 * 2 ^ 24, s.snQ, 0, 0, 0]
    []) :: s.emitted) ∧
  -- barrierOpen
  (∀ (s : State) (p : Nat) (l : Launch), s.Inv → p < 256 → (s.barsAt p).armed = true → (s.barsAt p).openAt ≠ none →
    (s.partsAt p).launches.find? (·.handle == (s.barsAt p).handle) = some l →
    Gives (.barrierOpen p) s fun t => (t.barsAt p).armed = false ∧ t.fld (R.repSliceLaunch p) F.repSliceLaunch_ARMED = 0 ∧
    t.fld (R.repSliceLaunch p) F.repSliceLaunch_MASTER = 0 ∧ (∀ x, x ∈ t.launchList p → x.1 ≠ (s.barsAt p).handle)) ∧
  -- barrierTimeout
  (∀ (s : State) (p : Nat) (l : Launch), s.Inv → p < 256 → (s.barsAt p).armed = true →
    (s.partsAt p).launches.find? (·.handle == (s.barsAt p).handle) = some l →
    Gives (.barrierTimeout p) s fun t => (t.barsAt p).armed = false ∧ t.fld (R.repSliceLaunch p) F.repSliceLaunch_ARMED = 0 ∧
    t.fld (R.repSliceLaunch p) F.repSliceLaunch_TMO = min (s.fld (R.repSliceLaunch p) F.repSliceLaunch_TMO + 1) F.repSliceLaunch_TMO.max ∧
    (∀ x, x ∈ t.launchList p → x.1 ≠ (s.barsAt p).handle)) ∧
  -- arriveHoldExpiry
  (∀ (s : State) (barId : Nat), s.Inv → (∀ e, e ∈ s.bars → e.2.barId ≠ barId ∨ e.2.armed = false) →
    Gives (.arriveHoldExpiry barId) s fun t => Same (.whole [.arrives]) s t ∧ t.arrives = s.arrives.filter (·.barId != barId)) ∧
  -- houndPacketRx
  (∀ (s : State) (unit : Nat) (seq : Nat) (recs : List HoundRec), s.Inv → s.fabOn = true → unit < 8 →
    s.fld (R.repHoundCfg unit) F.repHoundCfg_MODE = 1 → recs ≠ [] → recs.length ≤ 32 → seq = (s.houndsAt unit).rxSeq → seq < 2 ^ 32 →
    Gives (.houndPacketRx unit seq none recs) s fun t => (t.houndsAt unit).rxSeq = (seq + recs.length) % 2 ^ 32 ∧
    (t.houndsAt unit).lastTick = s.tick + 1) ∧
  -- houndPacketRx_ack
  (∀ (s : State) (unit : Nat) (seq : Nat) (a : Nat), s.Inv → s.fabOn = true → unit < 8 →
    s.fld (R.repHoundCfg unit) F.repHoundCfg_MODE = 1 →
    Gives (.houndPacketRx unit seq (some a) []) s fun t => Same (.entry .hounds unit) s t ∧
    t.houndsAt unit = { s.houndsAt unit with unacked := (s.houndsAt unit).unacked.filter fun x => s32ge x.1 a }) ∧
  -- houndPacketRx_match
  (∀ (s : State) (unit : Nat) (seq : Nat) (r : HoundRec) (o : HoundRec), s.Inv → s.fabOn = true → unit < 8 →
    s.fld (R.repHoundCfg unit) F.repHoundCfg_MODE = 1 → seq = (s.houndsAt unit).rxSeq → seq < 2 ^ 32 →
    (s.houndsAt unit).seen.contains (r.step, r.tileId, false) = false → (s.houndsAt unit).locStep ≤ r.step →
    ((s.houndsAt unit).loc.find? (fun x => hkey x == hkey r) = some o) → o.digest = r.digest →
    Gives (.houndPacketRx unit seq none [r]) s fun t => t.fld (R.repHoundStat unit) F.repHoundStat_COMPARED = (s.fld (R.repHoundStat unit)
    F.repHoundStat_COMPARED + 1) % (F.repHoundStat_COMPARED.max + 1) ∧
    t.fld (R.repHoundCnt unit) F.repHoundCnt_MISMATCHES = s.fld (R.repHoundCnt unit) F.repHoundCnt_MISMATCHES ∧ (∀ x,
    x ∈ (t.houndsAt unit).loc → hkey x ≠ hkey r)) ∧
  -- houndPacketRx_mismatch
  (∀ (s : State) (unit : Nat) (seq : Nat) (r : HoundRec) (o : HoundRec), s.Inv → s.fabOn = true → unit < 8 →
    s.fld (R.repHoundCfg unit) F.repHoundCfg_MODE = 1 → seq = (s.houndsAt unit).rxSeq → seq < 2 ^ 32 →
    (s.houndsAt unit).seen.contains (r.step, r.tileId, false) = false → (s.houndsAt unit).locStep ≤ r.step →
    ((s.houndsAt unit).loc.find? (fun x => hkey x == hkey r) = some o) → o.digest ≠ r.digest →
    s.flag (R.repHoundStat unit) F.repHoundStat_FIRST = false →
    Gives (.houndPacketRx unit seq none [r]) s fun t => t.fld (R.repHoundCnt unit) F.repHoundCnt_MISMATCHES = min (s.fld (R.repHoundCnt
    unit) F.repHoundCnt_MISMATCHES + 1) F.repHoundCnt_MISMATCHES.max ∧ t.fld (R.repHoundStat unit) F.repHoundStat_FIRST = 1 ∧
    t.rd (R.repHoundMisLdig unit) = o.digest ∧ t.rd (R.repHoundMisPdig unit) = r.digest) ∧
  -- houndResend
  (∀ (s : State) (unit : Nat) (q : Nat) (r : HoundRec) (node : Nat), s.Inv → unit < 8 →
    s.fld (R.repHoundCfg unit) F.repHoundCfg_MODE = 1 → (s.houndsAt unit).unacked = [(q, r)] → s.fabOn = true → s.fabPorts ≠ [] →
    node = s.fld (R.repHoundCfg unit) F.repHoundCfg_PEER_NODE → Gives (.houndResend unit) s fun t => Same (.whole [.emitted]) s t ∧
    t.emitted = .frame 4 (s.fabPorts.getD (Config.fabEntropy node q 0 % 2 ^ 14 % s.fabPorts.length) 0) (s.fabIp (Config.fabEntropy node q
    0 % 2 ^ 14)) (fabBytes
    [s.fabWord0 5 false false node, q % 2 ^ 32 * 2 ^ 32 + 1 * 2 ^ 24 + s.fld (R.repHoundCfg unit) F.repHoundCfg_PEER_UNIT * 2 ^ 20 + unit * 2 ^ 17, 0]
    (wordBytes
    [BitVec.ofNat 64 r.step, BitVec.ofNat 64 (r.arr % 4 * 2 ^ 60 + r.tileId % 2 ^ 60), r.digest, BitVec.ofNat 64 (r.core % 64)])) ::
    s.emitted) ∧
  -- houndCfgWrite
  (∀ (s : State) (unit : Nat) (val : Word), s.Inv → unit < 8 → s.fld (R.repHoundCfg unit) F.repHoundCfg_MODE = 0 →
    (F.repHoundCfg_MODE.get val = 1 ∨ F.repHoundCfg_MODE.get val = 2) →
    Gives (.houndCfgWrite 256 unit val) s fun t => Same (.any [.reg (R.repHoundCfg unit), .reg (R.repHoundStat unit), .entry .hounds unit])
    s t ∧ t.fld (R.repHoundCfg unit) F.repHoundCfg_MODE = F.repHoundCfg_MODE.get val ∧
    t.fld (R.repHoundCfg unit) F.repHoundCfg_SLICE = F.repHoundCfg_SLICE.get val ∧
    t.fld (R.repHoundCfg unit) F.repHoundCfg_PEER_NODE = F.repHoundCfg_PEER_NODE.get val ∧
    t.fld (R.repHoundCfg unit) F.repHoundCfg_PEER_UNIT = F.repHoundCfg_PEER_UNIT.get val ∧
    t.fld (R.repHoundCfg unit) F.repHoundCfg_LAG = (if F.repHoundCfg_LAG.get val = 0 then s.fld (R.repHoundCfg unit) F.repHoundCfg_LAG
    else F.repHoundCfg_LAG.get val) ∧ t.fld (R.repHoundStat unit) F.repHoundStat_ACTIVE = 1 ∧
    t.fld (R.repHoundStat unit) F.repHoundStat_FIRST = 0 ∧ t.houndsAt unit = ⟨[], [], [], 0, 0, 0, 0, 0, []⟩) ∧
  -- houndCfgWrite_end
  (∀ (s : State) (unit : Nat) (val : Word), s.Inv → unit < 8 → F.repHoundCfg_MODE.get val = 0 →
    Gives (.houndCfgWrite 256 unit val) s fun t => t.fld (R.repHoundCfg unit) F.repHoundCfg_MODE = 0 ∧
    t.fld (R.repHoundStat unit) F.repHoundStat_ACTIVE = 0 ∧ t.houndsAt unit = ⟨[], [], [], 0, 0, 0, 0, 0, []⟩) ∧
  -- houndCfgWrite_ignored
  (∀ (s : State) (unit : Nat) (val : Word), s.Inv → unit < 8 → s.fld (R.repHoundCfg unit) F.repHoundCfg_MODE ≠ 0 →
    F.repHoundCfg_MODE.get val ≠ 0 → Gives (.houndCfgWrite 256 unit val) s fun t => Same (.any []) s t)

/-- Retriever entries that load, store, flag and add. After 15_fabric.md: Engines and work rings; 15_fabric.md: Order at the target;
15_fabric.md: Packets and connections; 15_fabric.md: Credits and buffers. -/
def Obligations.EngineAccesses : Prop :=
  -- load
  (∀ (s : State) (e : Nat) (x : EngEnt) (node : Nat), s.Inv → s.engNext e = some x → entOp x.words = 1 → s.fabOn = true →
    node = fvaNode (entFva x.words) → node ≠ s.fabNode → (s.connsAt node).txOpen = true → s.fld (R.fabEngIdx e) F.fabEngIdx_OUTST < 512 →
    sub32 (s.connsAt node).nextPsn (s.connsAt node).cumAck ≤ 2048 →
    s32ge (s.connsAt node).lim ((s.connsAt node).used + reqUnits (0)) = true →
    s.txUsed + (reqUnits (0) + cdiv (entLen x.words) 256) ≤ 65536 →
    Gives (.load e) s fun t => (t.connsAt node).nextPsn = ((s.connsAt node).nextPsn + 1) % 2 ^ 32 ∧
    (t.connsAt node).used = ((s.connsAt node).used + reqUnits (0)) % 2 ^ 32 ∧
    (t.connsAt node).out = (s.connsAt node).out ++ [x.request (s.connsAt node) e 1 ([])] ∧ (∀ a, t.memAt a = s.memAt a)) ∧
  -- load_opens
  (∀ (s : State) (e : Nat) (x : EngEnt) (node : Nat), s.Inv → s.engNext e = some x → entOp x.words = 1 → s.fabOn = true →
    node = fvaNode (entFva x.words) → node ≠ s.fabNode → s.connsAt node = dfltConns 0 → (s.conns.filter (·.2.used_)).length < 8192 →
    Gives (.load e) s fun t => Same (.any [.entry .conns node, .whole [.emitted]]) s t ∧
    t.connsAt node = { s.connsAt node with synSent := true }) ∧
  -- store
  (∀ (s : State) (e : Nat) (x : EngEnt) (node : Nat) (ls : List (Nat × Nat)), s.Inv → s.engNext e = some x → entOp x.words = 2 →
    s.fabOn = true → node = fvaNode (entFva x.words) → node ≠ s.fabNode → (s.connsAt node).txOpen = true →
    s.fld (R.fabEngIdx e) F.fabEngIdx_OUTST < 512 → sub32 (s.connsAt node).nextPsn (s.connsAt node).cumAck ≤ 2048 →
    s32ge (s.connsAt node).lim ((s.connsAt node).used + reqUnits (entLen x.words)) = true →
    s.txUsed + (reqUnits (entLen x.words)) ≤ 65536 → s.noErrors = true →
    s.locate (s.engOwner e) rightR (entLocal x.words) (entLen x.words) = some ls → (∀ e, e ∈ ls → s.lineFenced e.1 = false) →
    0 < entLen x.words → Gives (.store e) s fun t => (t.connsAt node).nextPsn = ((s.connsAt node).nextPsn + 1) % 2 ^ 32 ∧
    (t.connsAt node).used = ((s.connsAt node).used + reqUnits (entLen x.words)) % 2 ^ 32 ∧
    (t.connsAt node).out = (s.connsAt node).out ++ [x.request (s.connsAt node) e 2 (ls.flatMap fun e => s.readBytes e.1 e.2)] ∧ (∀ a,
    t.memAt a = s.memAt a)) ∧
  -- store_opens
  (∀ (s : State) (e : Nat) (x : EngEnt) (node : Nat), s.Inv → s.engNext e = some x → entOp x.words = 2 → s.fabOn = true →
    node = fvaNode (entFva x.words) → node ≠ s.fabNode → s.connsAt node = dfltConns 0 → (s.conns.filter (·.2.used_)).length < 8192 →
    Gives (.store e) s fun t => Same (.any [.entry .conns node, .whole [.emitted]]) s t ∧
    t.connsAt node = { s.connsAt node with synSent := true }) ∧
  -- flagStore
  (∀ (s : State) (e : Nat) (x : EngEnt) (node : Nat) (ls : List (Nat × Nat)), s.Inv → s.engNext e = some x → entOp x.words = 3 →
    s.fabOn = true → node = fvaNode (entFva x.words) → node ≠ s.fabNode → (s.connsAt node).txOpen = true →
    s.fld (R.fabEngIdx e) F.fabEngIdx_OUTST < 512 → sub32 (s.connsAt node).nextPsn (s.connsAt node).cumAck ≤ 2048 →
    s32ge (s.connsAt node).lim ((s.connsAt node).used + reqUnits (8)) = true → s.txUsed + (reqUnits (8)) ≤ 65536 → s.noErrors = true →
    s.locate (s.engOwner e) rightR (entLocal x.words) (8) = some ls → (∀ e, e ∈ ls → s.lineFenced e.1 = false) →
    Gives (.flagStore e) s fun t => (t.connsAt node).nextPsn = ((s.connsAt node).nextPsn + 1) % 2 ^ 32 ∧
    (t.connsAt node).used = ((s.connsAt node).used + reqUnits (8)) % 2 ^ 32 ∧
    (t.connsAt node).out = (s.connsAt node).out ++ [x.request (s.connsAt node) e 3 (ls.flatMap fun e => s.readBytes e.1 e.2)] ∧ (∀ a,
    t.memAt a = s.memAt a)) ∧
  -- flagStore_opens
  (∀ (s : State) (e : Nat) (x : EngEnt) (node : Nat), s.Inv → s.engNext e = some x → entOp x.words = 3 → s.fabOn = true →
    node = fvaNode (entFva x.words) → node ≠ s.fabNode → s.connsAt node = dfltConns 0 → (s.conns.filter (·.2.used_)).length < 8192 →
    Gives (.flagStore e) s fun t => Same (.any [.entry .conns node, .whole [.emitted]]) s t ∧
    t.connsAt node = { s.connsAt node with synSent := true }) ∧
  -- add64
  (∀ (s : State) (e : Nat) (x : EngEnt) (node : Nat), s.Inv → s.engNext e = some x → entOp x.words = 8 → s.fabOn = true →
    node = fvaNode (entFva x.words) → node ≠ s.fabNode → (s.connsAt node).txOpen = true → s.fld (R.fabEngIdx e) F.fabEngIdx_OUTST < 512 →
    sub32 (s.connsAt node).nextPsn (s.connsAt node).cumAck ≤ 2048 →
    s32ge (s.connsAt node).lim ((s.connsAt node).used + reqUnits (0)) = true →
    s.txUsed + (reqUnits (0) + (if entNores x.words then 0 else 1)) ≤ 65536 →
    Gives (.add64 e) s fun t => (t.connsAt node).nextPsn = ((s.connsAt node).nextPsn + 1) % 2 ^ 32 ∧
    (t.connsAt node).used = ((s.connsAt node).used + reqUnits (0)) % 2 ^ 32 ∧
    (t.connsAt node).out = (s.connsAt node).out ++ [x.request (s.connsAt node) e 8 ([])] ∧ (∀ a, t.memAt a = s.memAt a)) ∧
  -- add64_opens
  (∀ (s : State) (e : Nat) (x : EngEnt) (node : Nat), s.Inv → s.engNext e = some x → entOp x.words = 8 → s.fabOn = true →
    node = fvaNode (entFva x.words) → node ≠ s.fabNode → s.connsAt node = dfltConns 0 → (s.conns.filter (·.2.used_)).length < 8192 →
    Gives (.add64 e) s fun t => Same (.any [.entry .conns node, .whole [.emitted]]) s t ∧
    t.connsAt node = { s.connsAt node with synSent := true })

/-- Retriever entries with the other atomics; NOP, FENCE and entry take. After 15_fabric.md: Engines and work rings; 15_fabric.md: Order
at the target; 15_fabric.md: Packets and connections; 15_fabric.md: Exact collectives and reproducibility. -/
def Obligations.EngineAtomics : Prop :=
  -- min64
  (∀ (s : State) (e : Nat) (x : EngEnt) (node : Nat), s.Inv → s.engNext e = some x → entOp x.words = 9 → s.fabOn = true →
    node = fvaNode (entFva x.words) → node ≠ s.fabNode → (s.connsAt node).txOpen = true → s.fld (R.fabEngIdx e) F.fabEngIdx_OUTST < 512 →
    sub32 (s.connsAt node).nextPsn (s.connsAt node).cumAck ≤ 2048 →
    s32ge (s.connsAt node).lim ((s.connsAt node).used + reqUnits (0)) = true →
    s.txUsed + (reqUnits (0) + (if entNores x.words then 0 else 1)) ≤ 65536 →
    Gives (.min64 e) s fun t => (t.connsAt node).nextPsn = ((s.connsAt node).nextPsn + 1) % 2 ^ 32 ∧
    (t.connsAt node).used = ((s.connsAt node).used + reqUnits (0)) % 2 ^ 32 ∧
    (t.connsAt node).out = (s.connsAt node).out ++ [x.request (s.connsAt node) e 9 ([])] ∧ (∀ a, t.memAt a = s.memAt a)) ∧
  -- min64_opens
  (∀ (s : State) (e : Nat) (x : EngEnt) (node : Nat), s.Inv → s.engNext e = some x → entOp x.words = 9 → s.fabOn = true →
    node = fvaNode (entFva x.words) → node ≠ s.fabNode → s.connsAt node = dfltConns 0 → (s.conns.filter (·.2.used_)).length < 8192 →
    Gives (.min64 e) s fun t => Same (.any [.entry .conns node, .whole [.emitted]]) s t ∧
    t.connsAt node = { s.connsAt node with synSent := true }) ∧
  -- max64
  (∀ (s : State) (e : Nat) (x : EngEnt) (node : Nat), s.Inv → s.engNext e = some x → entOp x.words = 10 → s.fabOn = true →
    node = fvaNode (entFva x.words) → node ≠ s.fabNode → (s.connsAt node).txOpen = true → s.fld (R.fabEngIdx e) F.fabEngIdx_OUTST < 512 →
    sub32 (s.connsAt node).nextPsn (s.connsAt node).cumAck ≤ 2048 →
    s32ge (s.connsAt node).lim ((s.connsAt node).used + reqUnits (0)) = true →
    s.txUsed + (reqUnits (0) + (if entNores x.words then 0 else 1)) ≤ 65536 →
    Gives (.max64 e) s fun t => (t.connsAt node).nextPsn = ((s.connsAt node).nextPsn + 1) % 2 ^ 32 ∧
    (t.connsAt node).used = ((s.connsAt node).used + reqUnits (0)) % 2 ^ 32 ∧
    (t.connsAt node).out = (s.connsAt node).out ++ [x.request (s.connsAt node) e 10 ([])] ∧ (∀ a, t.memAt a = s.memAt a)) ∧
  -- max64_opens
  (∀ (s : State) (e : Nat) (x : EngEnt) (node : Nat), s.Inv → s.engNext e = some x → entOp x.words = 10 → s.fabOn = true →
    node = fvaNode (entFva x.words) → node ≠ s.fabNode → s.connsAt node = dfltConns 0 → (s.conns.filter (·.2.used_)).length < 8192 →
    Gives (.max64 e) s fun t => Same (.any [.entry .conns node, .whole [.emitted]]) s t ∧
    t.connsAt node = { s.connsAt node with synSent := true }) ∧
  -- swap64
  (∀ (s : State) (e : Nat) (x : EngEnt) (node : Nat), s.Inv → s.engNext e = some x → entOp x.words = 11 → s.fabOn = true →
    node = fvaNode (entFva x.words) → node ≠ s.fabNode → (s.connsAt node).txOpen = true → s.fld (R.fabEngIdx e) F.fabEngIdx_OUTST < 512 →
    sub32 (s.connsAt node).nextPsn (s.connsAt node).cumAck ≤ 2048 →
    s32ge (s.connsAt node).lim ((s.connsAt node).used + reqUnits (0)) = true →
    s.txUsed + (reqUnits (0) + (if entNores x.words then 0 else 1)) ≤ 65536 →
    Gives (.swap64 e) s fun t => (t.connsAt node).nextPsn = ((s.connsAt node).nextPsn + 1) % 2 ^ 32 ∧
    (t.connsAt node).used = ((s.connsAt node).used + reqUnits (0)) % 2 ^ 32 ∧
    (t.connsAt node).out = (s.connsAt node).out ++ [x.request (s.connsAt node) e 11 ([])] ∧ (∀ a, t.memAt a = s.memAt a)) ∧
  -- swap64_opens
  (∀ (s : State) (e : Nat) (x : EngEnt) (node : Nat), s.Inv → s.engNext e = some x → entOp x.words = 11 → s.fabOn = true →
    node = fvaNode (entFva x.words) → node ≠ s.fabNode → s.connsAt node = dfltConns 0 → (s.conns.filter (·.2.used_)).length < 8192 →
    Gives (.swap64 e) s fun t => Same (.any [.entry .conns node, .whole [.emitted]]) s t ∧
    t.connsAt node = { s.connsAt node with synSent := true }) ∧
  -- cas64
  (∀ (s : State) (e : Nat) (x : EngEnt) (node : Nat), s.Inv → s.engNext e = some x → entOp x.words = 12 → s.fabOn = true →
    node = fvaNode (entFva x.words) → node ≠ s.fabNode → (s.connsAt node).txOpen = true → s.fld (R.fabEngIdx e) F.fabEngIdx_OUTST < 512 →
    sub32 (s.connsAt node).nextPsn (s.connsAt node).cumAck ≤ 2048 →
    s32ge (s.connsAt node).lim ((s.connsAt node).used + reqUnits (0)) = true →
    s.txUsed + (reqUnits (0) + (if entNores x.words then 0 else 1)) ≤ 65536 →
    Gives (.cas64 e) s fun t => (t.connsAt node).nextPsn = ((s.connsAt node).nextPsn + 1) % 2 ^ 32 ∧
    (t.connsAt node).used = ((s.connsAt node).used + reqUnits (0)) % 2 ^ 32 ∧
    (t.connsAt node).out = (s.connsAt node).out ++ [x.request (s.connsAt node) e 12 ([])] ∧ (∀ a, t.memAt a = s.memAt a)) ∧
  -- cas64_opens
  (∀ (s : State) (e : Nat) (x : EngEnt) (node : Nat), s.Inv → s.engNext e = some x → entOp x.words = 12 → s.fabOn = true →
    node = fvaNode (entFva x.words) → node ≠ s.fabNode → s.connsAt node = dfltConns 0 → (s.conns.filter (·.2.used_)).length < 8192 →
    Gives (.cas64 e) s fun t => Same (.any [.entry .conns node, .whole [.emitted]]) s t ∧
    t.connsAt node = { s.connsAt node with synSent := true }) ∧
  -- ladd128
  (∀ (s : State) (e : Nat) (x : EngEnt) (node : Nat), s.Inv → s.engNext e = some x → entOp x.words = 16 → s.fabOn = true →
    node = fvaNode (entFva x.words) → node ≠ s.fabNode → (s.connsAt node).txOpen = true → s.fld (R.fabEngIdx e) F.fabEngIdx_OUTST < 512 →
    sub32 (s.connsAt node).nextPsn (s.connsAt node).cumAck ≤ 2048 →
    s32ge (s.connsAt node).lim ((s.connsAt node).used + reqUnits (0)) = true → s.txUsed + (reqUnits (0)) ≤ 65536 →
    Gives (.ladd128 e) s fun t => (t.connsAt node).nextPsn = ((s.connsAt node).nextPsn + 1) % 2 ^ 32 ∧
    (t.connsAt node).used = ((s.connsAt node).used + reqUnits (0)) % 2 ^ 32 ∧
    (t.connsAt node).out = (s.connsAt node).out ++ [x.request (s.connsAt node) e 16 ([])] ∧ (∀ a, t.memAt a = s.memAt a)) ∧
  -- ladd128_opens
  (∀ (s : State) (e : Nat) (x : EngEnt) (node : Nat), s.Inv → s.engNext e = some x → entOp x.words = 16 → s.fabOn = true →
    node = fvaNode (entFva x.words) → node ≠ s.fabNode → s.connsAt node = dfltConns 0 → (s.conns.filter (·.2.used_)).length < 8192 →
    Gives (.ladd128 e) s fun t => Same (.any [.entry .conns node, .whole [.emitted]]) s t ∧
    t.connsAt node = { s.connsAt node with synSent := true }) ∧
  -- load_waits
  (∀ (s : State) (e : Nat) (x : EngEnt) (node : Nat), s.Inv → s.engNext e = some x → entOp x.words = 1 → s.fabOn = true →
    node = fvaNode (entFva x.words) → node ≠ s.fabNode → (s.connsAt node).txOpen = true → s.fld (R.fabEngIdx e) F.fabEngIdx_OUTST < 512 →
    sub32 (s.connsAt node).nextPsn (s.connsAt node).cumAck ≤ 2048 →
    s32ge (s.connsAt node).lim ((s.connsAt node).used + reqUnits 0) = false →
    Gives (.load e) s fun t => Same (.reg (R.fabEngStat e)) s t ∧ t.fld (R.fabEngStat e) F.fabEngStat_CREDIT_WAIT = 1) ∧
  -- nop
  (∀ (s : State) (e : Nat) (x : EngEnt) (a : Nat), s.Inv → s.engNext e = some x → (s.engsAt e).ents = [x] → entOp x.words = 0 →
    bit (x.words.getD 0 0) 56 = false → s.noErrors = true → s.locate (s.engOwner e) rightW (x.slot + 56) 8 = some [(a, 8)] →
    s.dpaKind a = .kennel → Gives (.nop e) s fun t => t.readBytes a 8 = leBytes (2 ^ 63) 8 ∧ (∀ b, b < a ∨ a + 8 ≤ b →
    t.memAt b = s.memAt b) ∧ (t.engsAt e).ents = [] ∧
    t.sigq = s.sigq ++ [⟨s.engOwner e, s.fld (R.fabEngIdx e) F.fabEngIdx_RET_IDX, .fabric, [e], 0, 0⟩] ∧
    t.fld (R.fabEngIdx e) F.fabEngIdx_OUTST = 0) ∧
  -- fence
  (∀ (s : State) (e : Nat) (x : EngEnt), s.Inv → s.engNext e = some x → entOp x.words = 0x20 → (s.engsAt e).ents.any EngEnt.out = true →
    Gives (.fence e) s fun t => Same (.any [.entry .engs e, .reg (R.fabEngIdx e), .reg (R.fabEngStat e)]) s t ∧
    (t.engsAt e).ents = (s.engsAt e).ents.map (fun u => if u.slot == x.slot && !u.done then
    { u with sent := true, fence := (s.engsAt e).last } else u)) ∧
  -- fence_done
  (∀ (s : State) (e : Nat) (x : EngEnt) (a : Nat), s.Inv → s.engNext e = some x → (s.engsAt e).ents = [x] → entOp x.words = 0x20 →
    bit (x.words.getD 0 0) 56 = false → s.noErrors = true → s.locate (s.engOwner e) rightW (x.slot + 56) 8 = some [(a, 8)] →
    s.dpaKind a = .kennel → Gives (.fence e) s fun t => t.readBytes a 8 = leBytes (2 ^ 63) 8 ∧ (∀ b, b < a ∨ a + 8 ≤ b →
    t.memAt b = s.memAt b) ∧ (t.engsAt e).ents = []) ∧
  -- engineEntryTake
  (∀ (s : State) (e : Nat) (pr : Nat) (at_ : Nat) (ls : List (Nat × Nat)) (w : List Nat), s.Inv → e < 32 →
    s.sliceLive (s.engOwner e) = true → s.sliceState (s.engOwner e) ≠ 4 → (s.engsAt e).ents.all (·.sent) = true → s.noErrors = true →
    (∀ x, x ∈ lineChunks (s.syncDpa (s.engOwner e) (s.fld (R.fabEngRing e) F.fabEngRing_PROD_IDX)) 4 → s.lineFenced x.1 = false) →
    (pr = leNat ((lineChunks (s.syncDpa (s.engOwner e) (s.fld (R.fabEngRing e) F.fabEngRing_PROD_IDX)) 4).flatMap fun x => s.readBytes x.1
    x.2)) → pr ≠ s.fld (R.fabEngIdx e) F.fabEngIdx_CONS → s32ge pr (s.fld (R.fabEngIdx e) F.fabEngIdx_CONS) = true →
    at_ = s.fld (R.fabEngRing e) F.fabEngRing_RING_SA / 64 * 64 + 64 * (s.fld (R.fabEngIdx e) F.fabEngIdx_CONS % 2 ^ (s.fld (R.fabEngRing
    e) F.fabEngRing_SIZE + 6)) → s.locate (s.engOwner e) rightR at_ 64 = some ls → (∀ e, e ∈ ls → s.lineFenced e.1 = false) →
    (w = (toWords (ls.flatMap fun x => s.readBytes x.1 x.2)).map (·.toNat)) → entBad w = false →
    Gives (.engineEntryTake e) s fun t => t.fld (R.fabEngIdx e) F.fabEngIdx_CONS = (s.fld (R.fabEngIdx e) F.fabEngIdx_CONS + 1) % 2 ^ 32 ∧
    (t.engsAt e).ents = (s.engsAt e).ents ++ [⟨at_, w, false, false, [], 0, 0⟩])

/-- Fabric requests received: performed, refused, waiting, repeated; connections open. After 15_fabric.md: Order at the target;
15_fabric.md: Packets and connections; 02_number_formats.md: The L128 accumulator and the anchor. -/
def Obligations.FabricReception : Prop :=
  -- fabricRequestRx_store
  (∀ (s : State) (r : FabReq) (a : Nat), s.Inv → r.dstNode = s.fabNode → r.syn = false → s.fabOn = true → r.crcOk = true →
    (s.connsAt r.srcNode).rxOpen = true → (s.connsAt r.srcNode).peerInc = r.incarn → r.nop = false →
    sub32 r.psn (s.connsAt r.srcNode).rxCum = 1 → (s.connsAt r.srcNode).rxMap = 0 → (s.connsAt r.srcNode).held = [] →
    (r.op = 2 ∨ r.op = 3) → s.rgnOk r.op r.len r.fva r.key = true →
    a = s.fld (R.fabRgn1 (fvaRegion r.fva)) F.fabRgn1_DPA_BASE + fvaOff r.fva →
    lineChunks a (opSize r.op r.len) = [(a, opSize r.op r.len)] → r.payload.length = opSize r.op r.len → s.noErrors = true →
    s.dpaKind a = .kennel → Gives (.fabricRequestRx r) s fun t => t.readBytes a r.payload.length = r.payload ∧ (∀ b,
    b < a ∨ a + r.payload.length ≤ b → t.memAt b = s.memAt b) ∧ (t.connsAt r.srcNode).rxCum = ((s.connsAt r.srcNode).rxCum + 1) % 2 ^ 32) ∧
  -- fabricRequestRx_add64
  (∀ (s : State) (r : FabReq) (a : Nat), s.Inv → r.dstNode = s.fabNode → r.syn = false → s.fabOn = true → r.crcOk = true →
    (s.connsAt r.srcNode).rxOpen = true → (s.connsAt r.srcNode).peerInc = r.incarn → r.nop = false →
    sub32 r.psn (s.connsAt r.srcNode).rxCum = 1 → (s.connsAt r.srcNode).rxMap = 0 → (s.connsAt r.srcNode).held = [] → r.op = 8 →
    r.nores = false → s.rgnOk r.op r.len r.fva r.key = true → a = s.fld (R.fabRgn1 (fvaRegion r.fva)) F.fabRgn1_DPA_BASE + fvaOff r.fva →
    lineChunks a 8 = [(a, 8)] → s.noErrors = true → s.dpaKind a = .kennel →
    Gives (.fabricRequestRx r) s fun t => t.readBytes a 8 = leBytes ((leNat (s.readBytes a 8) + r.opnd0.toNat) % 2 ^ 64) 8 ∧ (∀ b,
    b < a ∨ a + 8 ≤ b → t.memAt b = s.memAt b) ∧ (t.connsAt r.srcNode).rxCum = ((s.connsAt r.srcNode).rxCum + 1) % 2 ^ 32 ∧
    (t.connsAt r.srcNode).olds.getLast? = some (r.psn, leNat (s.readBytes a 8), false)) ∧
  -- fabricRequestRx_violation
  (∀ (s : State) (r : FabReq), s.Inv → r.dstNode = s.fabNode → r.syn = false → s.fabOn = true → r.crcOk = true →
    (s.connsAt r.srcNode).rxOpen = true → (s.connsAt r.srcNode).peerInc = r.incarn → r.nop = false →
    sub32 r.psn (s.connsAt r.srcNode).rxCum = 1 → (s.connsAt r.srcNode).rxMap = 0 → (s.connsAt r.srcNode).held = [] →
    (r.op = 2 ∨ r.op = 1) → s.rgnOk r.op r.len r.fva r.key = false → Gives (.fabricRequestRx r) s fun t => t.mem = s.mem ∧
    t.fld (R.fabRgn3 (fvaRegion r.fva)) F.fabRgn3_VIOL = min (s.fld (R.fabRgn3 (fvaRegion r.fva)) F.fabRgn3_VIOL + 1) F.fabRgn3_VIOL.max ∧
    t.fld R.fabCnt F.fabCnt_VIOL_RX = min (s.fld R.fabCnt F.fabCnt_VIOL_RX + 1) F.fabCnt_VIOL_RX.max ∧
    (t.connsAt r.srcNode).rxCum = ((s.connsAt r.srcNode).rxCum + 1) % 2 ^ 32) ∧
  -- fabricRequestRx_waits
  (∀ (s : State) (r : FabReq), s.Inv → r.dstNode = s.fabNode → r.syn = false → s.fabOn = true → r.crcOk = true →
    (s.connsAt r.srcNode).rxOpen = true → (s.connsAt r.srcNode).peerInc = r.incarn → r.nop = false → r.op = 3 →
    sub32 r.psn (s.connsAt r.srcNode).rxCum = 2 → bit (s.connsAt r.srcNode).rxMap 1 = false → (s.connsAt r.srcNode).held = [] →
    Gives (.fabricRequestRx r) s fun t => t.mem = s.mem ∧ (t.connsAt r.srcNode).held = [r] ∧
    (t.connsAt r.srcNode).rxCum = (s.connsAt r.srcNode).rxCum) ∧
  -- fabricRequestRx_duplicate
  (∀ (s : State) (r : FabReq), s.Inv → r.dstNode = s.fabNode → r.syn = false → s.fabOn = true → r.crcOk = true →
    (s.connsAt r.srcNode).rxOpen = true → (s.connsAt r.srcNode).peerInc = r.incarn → r.nop = false → r.op ≠ 1 →
    sub32 r.psn (s.connsAt r.srcNode).rxCum = 0 → Gives (.fabricRequestRx r) s fun t => t.mem = s.mem ∧
    t.fld R.fabCnt F.fabCnt_DUP = min (s.fld R.fabCnt F.fabCnt_DUP + 1) F.fabCnt_DUP.max) ∧
  -- fabricRequestRx_stale
  (∀ (s : State) (r : FabReq), s.Inv → r.dstNode = s.fabNode → r.syn = false → s.fabOn = true → r.crcOk = true →
    ((s.connsAt r.srcNode).rxOpen = false ∨ (s.connsAt r.srcNode).peerInc ≠ r.incarn) →
    Gives (.fabricRequestRx r) s fun t => t.mem = s.mem ∧
    t.fld R.fabCnt2 F.fabCnt2_STALE = min (s.fld R.fabCnt2 F.fabCnt2_STALE + 1) F.fabCnt2_STALE.max ∧
    t.fld R.fabCnt2 F.fabCnt2_NO_CONN = min (s.fld R.fabCnt2 F.fabCnt2_NO_CONN + 1) F.fabCnt2_NO_CONN.max) ∧
  -- fabricRequestRx_crc
  (∀ (s : State) (r : FabReq), s.Inv → r.dstNode = s.fabNode → r.syn = false → s.fabOn = true → r.crcOk = false →
    Gives (.fabricRequestRx r) s fun t => Same (.reg R.fabCnt) s t ∧
    t.fld R.fabCnt F.fabCnt_CRC_DROP = min (s.fld R.fabCnt F.fabCnt_CRC_DROP + 1) F.fabCnt_CRC_DROP.max) ∧
  -- flagStorePerform
  (∀ (s : State) (node : Nat) (psn : Nat) (r : FabReq) (a : Nat), s.Inv → (s.connsAt node).held.find? (·.psn == psn) = some r →
    s.fabOn = true → sub32 psn (s.connsAt node).rxCum = 1 → r.op = 3 → r.srcNode = node → r.payload.length = 8 →
    s.rgnOk r.op r.len r.fva r.key = true → a = s.fld (R.fabRgn1 (fvaRegion r.fva)) F.fabRgn1_DPA_BASE + fvaOff r.fva →
    lineChunks a 8 = [(a, 8)] → s.noErrors = true → s.dpaKind a = .kennel → (s.connsAt node).rxMap = 0 →
    Gives (.flagStorePerform node psn) s fun t => t.readBytes a 8 = r.payload ∧ (∀ b, b < a ∨ a + 8 ≤ b → t.memAt b = s.memAt b) ∧
    (t.connsAt node).held = (s.connsAt node).held.filter (·.psn != psn) ∧ (t.connsAt node).rxCum = ((s.connsAt node).rxCum + 1) % 2 ^ 32) ∧
  -- syn
  (∀ (s : State) (r : FabReq), s.Inv → r.syn = true → r.dstNode = s.fabNode → s.fabOn = true → r.crcOk = true →
    s.connsAt r.srcNode = dfltConns 0 → (s.conns.filter (·.2.used_)).length < 8192 →
    Gives (.syn r) s fun t => (t.connsAt r.srcNode).rxOpen = true ∧ (t.connsAt r.srcNode).peerInc = r.incarn ∧
    (t.connsAt r.srcNode).rxCum = r.psn ∧ (t.connsAt r.srcNode).grant = 1 + min (s.fld R.fabCred F.fabCred_INIT_CREDIT - 1) s.fabFree ∧
    (t.connsAt r.srcNode).told = (t.connsAt r.srcNode).grant ∧ (t.connsAt r.srcNode).txOpen = false ∧
    Same (.any [.entry .conns r.srcNode, .reg R.fabStat, .whole [.emitted]]) s t)

/-- Acknowledgements, credit, retransmission, timeouts, idle close, region descriptors. After 15_fabric.md: Regions; 15_fabric.md: Packets
and connections; 15_fabric.md: Credits and buffers; 15_fabric.md: Timeouts, faults and resets. -/
def Obligations.FabricAcknowledgement : Prop :=
  -- acknowledgement_opens
  (∀ (s : State) (a : FabAck), s.Inv → s.fabOn = true → a.crcOk = true → a.rspStatus ≠ 2 → a.syn = true →
    (s.connsAt a.srcNode).synSent = true →
    Gives (.acknowledgement a) s fun t => Same (.any [.entry .conns a.srcNode, .reg R.fabStat]) s t ∧
    t.connsAt a.srcNode = { s.connsAt a.srcNode with synSent := false, txOpen := true, peerInc := a.incarn, lim := a.creditLim % 2 ^ 32, used := 0, cumAck := a.cumPsn % 2 ^ 32 }) ∧
  -- acknowledgement
  (∀ (s : State) (a : FabAck), s.Inv → s.fabOn = true → a.crcOk = true → a.rspStatus ≠ 2 → (s.connsAt a.srcNode).synSent = false →
    (s.connsAt a.srcNode).txOpen = true → (s.connsAt a.srcNode).peerInc = a.incarn → a.rspValid = false →
    Gives (.acknowledgement a) s fun t => (t.connsAt a.srcNode).cumAck = (if s32ge a.cumPsn (s.connsAt a.srcNode).cumAck then a.cumPsn % 2
    ^ 32 else (s.connsAt a.srcNode).cumAck) ∧
    (t.connsAt a.srcNode).lim = (if s32ge a.creditLim (s.connsAt a.srcNode).lim then a.creditLim % 2 ^ 32 else (s.connsAt a.srcNode).lim)
    ∧ (t.connsAt a.srcNode).nextPsn = (s.connsAt a.srcNode).nextPsn) ∧
  -- acknowledgement_done
  (∀ (s : State) (a : FabAck) (e : Nat) (x : EngEnt) (q : OutReq) (d : Nat) (last : List (Nat × Nat)), s.Inv → s.fabOn = true →
    a.crcOk = true → a.rspStatus ≠ 2 → (s.connsAt a.srcNode).synSent = false → (s.connsAt a.srcNode).txOpen = true →
    (s.connsAt a.srcNode).peerInc = a.incarn → a.rspValid = false → s.engs = [(e, ⟨[x], last⟩)] → (s.connsAt a.srcNode).out = [q] →
    q.psn = a.cumPsn → q.rspDue = false → q.dead = false → q.eng = e → q.slot = x.slot → q.wrap = false → x.done = false →
    entOp x.words = 2 → bit (x.words.getD 0 0) 56 = false → s.noErrors = true →
    s.locate (s.engOwner e) rightW (x.slot + 56) 8 = some [(d, 8)] → s.dpaKind d = .kennel →
    Gives (.acknowledgement a) s fun t => t.readBytes d 8 = leBytes (2 ^ 63) 8 ∧ (∀ b, b < d ∨ d + 8 ≤ b → t.memAt b = s.memAt b) ∧
    (t.connsAt a.srcNode).out = [] ∧ (t.engsAt e).ents = [] ∧
    t.sigq = s.sigq ++ [⟨s.engOwner e, s.fld (R.fabEngIdx e) F.fabEngIdx_RET_IDX, .fabric, [e], 0, 0⟩]) ∧
  -- credit
  (∀ (s : State) (node : Nat) (incarn : Nat) (lim : Nat), s.Inv → s.fabOn = true → (s.connsAt node).txOpen = true →
    (s.connsAt node).peerInc = incarn → Gives (.credit node incarn lim) s fun t => Same (.any [.entry .conns node, .reg R.fabStat]) s t ∧
    t.connsAt node = { s.connsAt node with lim := if s32ge lim (s.connsAt node).lim then lim % 2 ^ 32 else (s.connsAt node).lim }) ∧
  -- retransmit
  (∀ (s : State) (node : Nat) (psn : Nat) (q : OutReq), s.Inv → s.fabOn = true → (s.connsAt node).synSent = false →
    (s.connsAt node).out.find? (·.psn == psn) = some q →
    Gives (.retransmit node psn) s fun t => t.fld R.fabCnt F.fabCnt_RETX = min (s.fld R.fabCnt F.fabCnt_RETX + 1) F.fabCnt_RETX.max ∧
    t.connsAt node =
    { s.connsAt node with out := (s.connsAt node).out.map fun x => if x.psn == psn then { x with attempt := x.attempt + 1 } else x } ∧
    Same (.any [.entry .conns node, .reg R.fabCnt, pmcAllFoot, .whole [.emitted]]) s t) ∧
  -- retransmit_syn
  (∀ (s : State) (node : Nat) (psn : Nat), s.Inv → s.fabOn = true → (s.connsAt node).synSent = true →
    Gives (.retransmit node psn) s fun t => Same (.whole [.emitted]) s t) ∧
  -- nopKeepalive
  (∀ (s : State) (node : Nat) (q : Nat), s.Inv → s.fabOn = true → (s.connsAt node).txOpen = true → s.fabPorts ≠ [] →
    q = sub32 (s.connsAt node).nextPsn 1 → Gives (.nopKeepalive node) s fun t => Same (.whole [.emitted]) s t ∧
    t.emitted = .frame 4 (s.fabPorts.getD (Config.fabEntropy node q 0 % 2 ^ 14 % s.fabPorts.length) 0) (s.fabIp (Config.fabEntropy node q
    0 % 2 ^ 14)) (fabBytes
    [s.fabWord0 1 false true node, s.fld R.fabStat F.fabStat_INCARN * 2 ^ 32 + q, (s.connsAt node).rspCum * 2 ^ 32, 0, 0, 0, 0] []) ::
    s.emitted) ∧
  -- creditReturn
  (∀ (s : State) (node : Nat) (q : Nat), s.Inv → s.fabOn = true → (s.connsAt node).rxOpen = true →
    (s.connsAt node).told ≠ (s.connsAt node).grant → s.fabPorts ≠ [] → q = (s.connsAt node).rxCum →
    Gives (.creditReturn node) s fun t => Same (.any [.entry .conns node, .whole [.emitted]]) s t ∧
    t.connsAt node = { s.connsAt node with told := (s.connsAt node).grant } ∧
    t.emitted = .frame 4 (s.fabPorts.getD (Config.fabEntropy node q 0 % 2 ^ 14 % s.fabPorts.length) 0) (s.fabIp (Config.fabEntropy node q
    0 % 2 ^ 14)) (fabBytes [s.fabWord0 3 false false node, s.fld R.fabStat F.fabStat_INCARN * 2 ^ 32 + (s.connsAt node).grant] []) ::
    s.emitted) ∧
  -- fabricTimeout
  (∀ (s : State) (node : Nat) (psn : Nat) (q : OutReq), s.Inv → (s.connsAt node).out.find? (·.psn == psn) = some q →
    s.sliceLive (s.engOwner q.eng) = true → q.dead = false →
    Gives (.fabricTimeout node psn) s fun t => t.fld R.fabCnt2 F.fabCnt2_TIMEOUTS = min (s.fld R.fabCnt2 F.fabCnt2_TIMEOUTS + 1)
    F.fabCnt2_TIMEOUTS.max ∧ (∀ x, x ∈ (t.connsAt node).out → x.psn ≠ psn) ∧ t.sliceState (s.engOwner q.eng) = 4) ∧
  -- fabricTimeout_dead
  (∀ (s : State) (node : Nat) (psn : Nat) (q : OutReq), s.Inv → (s.connsAt node).out.find? (·.psn == psn) = some q → q.dead = true →
    Gives (.fabricTimeout node psn) s fun t => t.fld R.fabCnt2 F.fabCnt2_TIMEOUTS = min (s.fld R.fabCnt2 F.fabCnt2_TIMEOUTS + 1)
    F.fabCnt2_TIMEOUTS.max ∧ (∀ x, x ∈ (t.connsAt node).out → x.psn ≠ psn)) ∧
  -- connectionIdleClose
  (∀ (s : State) (node : Nat), s.Inv → (s.connsAt node).used_ = true → (s.connsAt node).synSent = false → (s.connsAt node).out = [] →
    (s.connsAt node).held = [] → Gives (.connectionIdleClose node) s fun t => t.connsAt node = dfltConns 0 ∧ (∀ e, e < 32 → ∀ x,
    x ∈ (t.engsAt e).last → x.1 ≠ node)) ∧
  -- regionDescriptorWrite
  (∀ (s : State) (r : Nat) (val : Word), s.Inv → r < 4096 → F.fabRgn0_V.get val = 1 → s.rgnValid r (F.fabRgn0_OWNER.get val) = true →
    Gives (.regionDescriptorWrite 256 r 0 val) s fun t => Same (.reg (R.fabRgn0 r)) s t ∧ t.fld (R.fabRgn0 r) F.fabRgn0_V = 1 ∧
    t.fld (R.fabRgn0 r) F.fabRgn0_R = F.fabRgn0_R.get val ∧ t.fld (R.fabRgn0 r) F.fabRgn0_W = F.fabRgn0_W.get val ∧
    t.fld (R.fabRgn0 r) F.fabRgn0_A = F.fabRgn0_A.get val ∧ t.fld (R.fabRgn0 r) F.fabRgn0_OWNER = F.fabRgn0_OWNER.get val ∧
    t.fld (R.fabRgn0 r) F.fabRgn0_KEY = F.fabRgn0_KEY.get val ∧
    t.fld (R.fabRgn0 r) F.fabRgn0_WRAP = (if F.fabRgn0_WRAP.get val = 1 then 0 else s.fld (R.fabRgn0 r) F.fabRgn0_WRAP)) ∧
  -- regionDescriptorWrite_refused
  (∀ (s : State) (r : Nat) (val : Word), s.Inv → r < 4096 → F.fabRgn0_V.get val = 1 → s.rgnValid r (F.fabRgn0_OWNER.get val) = false →
    Gives (.regionDescriptorWrite 256 r 0 val) s fun t => Same (.any [.reg (R.fabRgn0 r), .reg R.fabCnt2]) s t ∧
    t.fld (R.fabRgn0 r) F.fabRgn0_V = 0 ∧
    t.fld R.fabCnt2 F.fabCnt2_RGN_REFUSED = min (s.fld R.fabCnt2 F.fabCnt2_RGN_REFUSED + 1) F.fabCnt2_RGN_REFUSED.max) ∧
  -- regionDescriptorWrite_base
  (∀ (s : State) (r : Nat) (val : Word), s.Inv → r < 4096 → s.flag (R.fabRgn0 r) F.fabRgn0_V = false →
    F.fabRgn1_DPA_BASE.get val % 4096 = 0 → Gives (.regionDescriptorWrite 256 r 1 val) s fun t => Same (.reg (R.fabRgn1 r)) s t ∧
    t.fld (R.fabRgn1 r) F.fabRgn1_DPA_BASE = F.fabRgn1_DPA_BASE.get val) ∧
  -- regionDescriptorWrite_length
  (∀ (s : State) (r : Nat) (val : Word), s.Inv → r < 4096 → s.flag (R.fabRgn0 r) F.fabRgn0_V = false → F.fabRgn2_LEN.get val ≠ 0 →
    Gives (.regionDescriptorWrite 256 r 2 val) s fun t => Same (.reg (R.fabRgn2 r)) s t ∧
    t.fld (R.fabRgn2 r) F.fabRgn2_LEN = F.fabRgn2_LEN.get val)

/-- Program entries: tiles, bundles, marks, ends, dispatch, banks, moves. After 04_core_execution.md: Streams and program entries;
04_core_execution.md: The tile descriptor; 03_matrix_arrays.md: Stationary banks and the bank tag; 04_core_execution.md: Memory
back-pressure; 04_core_execution.md: Cheap points and live ranges; 12_last_schedule.md: Admission. -/
def Obligations.StreamEntries : Prop :=
  -- tileEntry
  (∀ (s : State) (core : Nat) (ctx : Nat) (pc : Nat) (ls : List (Nat × Nat)) (w : List Nat), s.Inv → core < 64 → ctx < 5 →
    s.ctxReady core ctx = true → pc = s.fld (R.coreCtxPc core ctx) F.coreCtxPc_PC →
    s.locate (s.ctxPart core ctx) rightR (pc / 64 * 64) 64 = some ls → s.noErrors = true → (∀ e, e ∈ ls → s.lineFenced e.1 = false) →
    (w = (List.range 8).map fun i => leNat (((ls.flatMap fun e => s.readBytes e.1 e.2).drop (8 * i)).take 8)) → fbits (dW w 0) 63 60 = 1 →
    (loadCheck w ((List.range (dM w)).all fun i => s.ownsAcc (s.ctxPart core ctx) core (dAccLine w + i)) = none) →
    Gives (.tileEntry core ctx) s fun t => t.ctxsAt (core * 8 + ctx) =
    { s.ctxsAt (core * 8 + ctx) with cur := some (w ++ [pc, s.clk.cyc]) } ∧
    t.fld (R.coreCtxPc core ctx) F.coreCtxPc_PC = (pc + 64) % 2 ^ 48) ∧
  -- tileEntry_refused
  (∀ (s : State) (core : Nat) (ctx : Nat) (pc : Nat) (ls : List (Nat × Nat)) (w : List Nat) (code : Nat), s.Inv → core < 64 → ctx < 5 →
    s.ctxReady core ctx = true → pc = s.fld (R.coreCtxPc core ctx) F.coreCtxPc_PC →
    s.locate (s.ctxPart core ctx) rightR (pc / 64 * 64) 64 = some ls → s.noErrors = true → (∀ e, e ∈ ls → s.lineFenced e.1 = false) →
    (w = (List.range 8).map fun i => leNat (((ls.flatMap fun e => s.readBytes e.1 e.2).drop (8 * i)).take 8)) → fbits (dW w 0) 63 60 = 1 →
    ctx < 4 → s.ctxPart core ctx < 256 → s.sliceLive (s.ctxPart core ctx) = true →
    (loadCheck w ((List.range (dM w)).all fun i => s.ownsAcc (s.ctxPart core ctx) core (dAccLine w + i)) = some code) →
    Gives (.tileEntry core ctx) s fun t => t.sliceState (s.ctxPart core ctx) = 4 ∧
    t.fld (R.coreCtxFault core ctx) F.coreCtxFault_CODE = code ∧ t.fld (R.coreCtxFault core ctx) F.coreCtxFault_FAULT_PC = pc) ∧
  -- vectorBundle
  (∀ (s : State) (core : Nat) (ctx : Nat) (pc : Nat) (ls : List (Nat × Nat)) (w : List Nat) (n : Nat), s.Inv → core < 64 → ctx < 5 →
    s.ctxReady core ctx = true → pc = s.fld (R.coreCtxPc core ctx) F.coreCtxPc_PC →
    s.locate (s.ctxPart core ctx) rightR (pc / 64 * 64) 64 = some ls → s.noErrors = true → (∀ e, e ∈ ls → s.lineFenced e.1 = false) →
    (w = (List.range 8).map fun i => leNat (((ls.flatMap fun e => s.readBytes e.1 e.2).drop (8 * i)).take 8)) → fbits (dW w 0) 63 60 = 2 →
    n = fbits (dW w 0) 59 56 → n ≠ 0 → n ≤ 7 → ((w.drop 1).take n).any vBad = false →
    Gives (.vectorBundle core ctx) s fun t => t.ctxsAt (core * 8 + ctx) = { s.ctxsAt (core * 8 + ctx) with bundle := (w.drop 1).take n } ∧
    t.fld (R.coreCtxPc core ctx) F.coreCtxPc_PC = (pc + 64) % 2 ^ 48) ∧
  -- mark
  (∀ (s : State) (core : Nat) (ctx : Nat) (pc : Nat) (ls : List (Nat × Nat)) (w : List Nat), s.Inv → core < 64 → ctx < 5 →
    s.ctxReady core ctx = true → pc = s.fld (R.coreCtxPc core ctx) F.coreCtxPc_PC →
    s.locate (s.ctxPart core ctx) rightR (pc / 64 * 64) 64 = some ls → s.noErrors = true → (∀ e, e ∈ ls → s.lineFenced e.1 = false) →
    (w = (List.range 8).map fun i => leNat (((ls.flatMap fun e => s.readBytes e.1 e.2).drop (8 * i)).take 8)) → fbits (dW w 0) 63 60 = 3 →
    s.streamDrained core ctx = true → (s.ctxsAt (core * 8 + ctx)).stopPend = false → fbits (dW w 3) 0 0 = 1 → ctx ≠ 4 →
    Gives (.mark core ctx) s fun t => t.ctxsAt (core * 8 + ctx) =
    { s.ctxsAt (core * 8 + ctx) with atMark := true, stepEnd := true, markTick := s.tick } ∧
    t.fld (R.coreSeqStat core) F.coreSeqStat_CTX_PAUSED = setBit (s.fld (R.coreSeqStat core) F.coreSeqStat_CTX_PAUSED) ctx ∧
    t.fld (R.coreCtxPc core ctx) F.coreCtxPc_PC = pc) ∧
  -- mark_noStep
  (∀ (s : State) (core : Nat) (ctx : Nat) (pc : Nat) (ls : List (Nat × Nat)) (w : List Nat), s.Inv → core < 64 → ctx < 5 →
    s.ctxReady core ctx = true → pc = s.fld (R.coreCtxPc core ctx) F.coreCtxPc_PC →
    s.locate (s.ctxPart core ctx) rightR (pc / 64 * 64) 64 = some ls → s.noErrors = true → (∀ e, e ∈ ls → s.lineFenced e.1 = false) →
    (w = (List.range 8).map fun i => leNat (((ls.flatMap fun e => s.readBytes e.1 e.2).drop (8 * i)).take 8)) → fbits (dW w 0) 63 60 = 3 →
    s.streamDrained core ctx = true → (s.ctxsAt (core * 8 + ctx)).stopPend = false → (fbits (dW w 3) 0 0 = 0 ∨ ctx = 4) →
    Gives (.mark core ctx) s fun t => t.ctxsAt (core * 8 + ctx) =
    { s.ctxsAt (core * 8 + ctx) with atMark := false, stepEnd := false, markTick := s.tick } ∧
    t.fld (R.coreCtxPc core ctx) F.coreCtxPc_PC = (pc + 64) % 2 ^ 48) ∧
  -- end_
  (∀ (s : State) (core : Nat) (ctx : Nat) (pc : Nat) (ls : List (Nat × Nat)) (w : List Nat), s.Inv → core < 64 → ctx < 5 →
    s.ctxReady core ctx = true → pc = s.fld (R.coreCtxPc core ctx) F.coreCtxPc_PC →
    s.locate (s.ctxPart core ctx) rightR (pc / 64 * 64) 64 = some ls → s.noErrors = true → (∀ e, e ∈ ls → s.lineFenced e.1 = false) →
    (w = (List.range 8).map fun i => leNat (((ls.flatMap fun e => s.readBytes e.1 e.2).drop (8 * i)).take 8)) → fbits (dW w 0) 63 60 = 4 →
    s.streamDrained core ctx = true → Gives (.end_ core ctx) s fun t => t.ctxActive core ctx = false ∧ (ctx ≠ 4 → ∀ l,
    (s.partsAt (s.ctxPart core ctx)).launches.find? (·.handle == (s.ctxsAt (core * 8 + ctx)).handle) = some l → l.kind = 1 → ∀ x,
    x ∈ t.launchList (s.ctxPart core ctx) → x.1 ≠ l.handle)) ∧
  -- tileDispatch
  (∀ (s : State) (core : Nat) (ctx : Nat) (w : List Nat) (l : List Nat) (wide : Bool) (a : Nat), s.Inv → core < 64 → ctx < 5 →
    (s.ctxsAt (core * 8 + ctx)).cur = some w → (s.ctxsAt (core * 8 + ctx)).redo = [] → s.ctxActive core ctx = true → dWaitEn w = false →
    s.orderWait core ctx w = false → s.anchorsOk core w = true → s.arrChoice (s.ctxPart core ctx) core (dArrMask w) = (l, wide) → l ≠ [] →
    s.classWait (s.ctxPart core ctx) core = false → (l.find? (fun a => s.ownsNow (s.ctxPart core ctx) core a) = some a) → a < 4 →
    s.halfOpen core a = false → s.admission (s.ctxPart core ctx) core a (dDlen w) = 0 → s.ctxPart core ctx < 256 →
    tileCharge (dFmtA w) (dM w * fmtC (dFmtA w)) ≤ s.last.bucket → (s.arrsAt (4 * core + a)).tiles = [] → dWforce w = true →
    Gives (.tileDispatch core ctx) s fun t => (t.ctxsAt (core * 8 + ctx)).cur = none ∧
    (t.ctxsAt (core * 8 + ctx)).seq = (s.ctxsAt (core * 8 + ctx)).seq + 1 ∧ (t.arrsAt (4 * core + a)).tiles.map (fun u => (u.ctx, u.seq,
    u.load)) = [(ctx, (s.ctxsAt (core * 8 + ctx)).seq, 1)] ∧ t.fld (R.coreArrStat core a) F.coreArrStat_LOAD_BUSY = 1 ∧
    t.last.bucket = s.last.bucket - tileCharge (dFmtA w) (dM w * fmtC (dFmtA w)) ∧
    t.fld (R.coreCtxEvents core ctx) F.coreCtxEvents_BANK_LOADS = min (s.fld (R.coreCtxEvents core ctx) F.coreCtxEvents_BANK_LOADS + 1)
    F.coreCtxEvents_BANK_LOADS.max) ∧
  -- tileDispatch_waits
  (∀ (s : State) (core : Nat) (ctx : Nat) (w : List Nat), s.Inv → core < 64 → ctx < 5 → (s.ctxsAt (core * 8 + ctx)).cur = some w →
    (s.ctxsAt (core * 8 + ctx)).redo = [] → s.ctxActive core ctx = true → dWaitEn w = true →
    s.syncBad (s.ctxPart core ctx) (dWaitIdx w) = false → s.syncOk (s.ctxPart core ctx) (dWaitIdx w) (dWaitVal w) = false →
    Gives (.tileDispatch core ctx) s fun t => Same (.any [.entry .ctxs (core * 8 + ctx), .reg (R.coreSeqStat core)]) s t ∧
    t.ctxsAt (core * 8 + ctx) = { s.ctxsAt (core * 8 + ctx) with wait := some (dWaitIdx w, dWaitVal w) } ∧
    bit (t.fld (R.coreSeqStat core) F.coreSeqStat_CTX_WAIT) ctx = true) ∧
  -- tileDispatch_ordered
  (∀ (s : State) (core : Nat) (ctx : Nat) (w : List Nat), s.Inv → core < 64 → ctx < 5 → (s.ctxsAt (core * 8 + ctx)).cur = some w →
    (s.ctxsAt (core * 8 + ctx)).redo = [] → s.ctxActive core ctx = true → dWaitEn w = false → s.orderWait core ctx w = true →
    Gives (.tileDispatch core ctx) s fun t => Same (.any [.entry .ctxs (core * 8 + ctx), .reg (R.coreSeqStat core)]) s t ∧
    t.ctxsAt (core * 8 + ctx) = { s.ctxsAt (core * 8 + ctx) with wait := none } ∧
    bit (t.fld (R.coreSeqStat core) F.coreSeqStat_CTX_WAIT) ctx = true) ∧
  -- bankLoad
  (∀ (s : State) (core : Nat) (arr : Nat) (x : TileRun), s.Inv → core < 64 → arr < 4 → (s.arrsAt (4 * core + arr)).tiles = [x] →
    x.load = 1 → s.bankClear core arr (dBank x.words) = true → s.bankSt core arr 0 ≠ 1 → s.bankSt core arr 1 ≠ 1 → s.pend = [] →
    s.noErrors = true → Gives (.bankLoad core arr) s fun t => t.bankSt core arr (dBank x.words) = 1 ∧
    ((t.arrsAt (4 * core + arr)).bank (dBank x.words)).tag = runTag x ∧
    ((t.arrsAt (4 * core + arr)).bank (dBank x.words)).w = s.csSnap x.part core (runBlock x).1.1 (runBlock x).1.2 ∧
    t.fld (R.coreArrStat core arr) F.coreArrStat_LOAD_BUSY = 1 ∧ (t.arrsAt (4 * core + arr)).tiles.map (·.load) = [0]) ∧
  -- bankLoadComplete
  (∀ (s : State) (core : Nat) (arr : Nat) (b : Nat), s.Inv → core < 64 → arr < 4 → b < 2 → s.bankSt core arr b = 1 → (b = 1 →
    s.bankSt core arr 0 ≠ 1) → s.pend = [] → s.noErrors = true → Gives (.bankLoadComplete core arr) s fun t => t.bankSt core arr b = 2 ∧
    t.fld (R.coreArrStat core arr) F.coreArrStat_LOAD_BUSY = (if (s.arrsAt (4 * core + arr)).tiles.any (·.load == 1) then 1 else 0)) ∧
  -- moveDataArrival
  (∀ (s : State) (core : Nat) (ctx : Nat) (m : MoveSt) (r : List MoveSt) (ls : List (Nat × Nat)), s.Inv → core < 64 → ctx < 5 →
    (s.ctxsAt (core * 8 + ctx)).moves = m :: r → 0 < m.len → s.noErrors = true →
    s.csOwned (s.ctxPart core ctx) core (m.line * 64) m.len = true → m.toStore = true →
    s.locate (s.ctxPart core ctx) rightR m.addr m.len = some ls → (∀ e, e ∈ ls → s.lineFenced e.1 = false) → (∀ a, a < 4 →
    (s.arrsAt (4 * core + a)).tiles = []) → Gives (.moveDataArrival core ctx) s fun t => (t.ctxsAt (core * 8 + ctx)).moves = r ∧ ∀ i,
    i < m.len → t.storeAt (core * 2 ^ 22 + m.line * 64 + i) = (ls.flatMap fun e => s.readBytes e.1 e.2).getD i 0) ∧
  -- moveDataArrival_out
  (∀ (s : State) (core : Nat) (ctx : Nat) (m : MoveSt) (r : List MoveSt) (a : Nat), s.Inv → core < 64 → ctx < 5 →
    (s.ctxsAt (core * 8 + ctx)).moves = m :: r → 0 < m.len → s.noErrors = true →
    s.csOwned (s.ctxPart core ctx) core (m.line * 64) m.len = true → m.toStore = false → s.pend = [] →
    s.locate (s.ctxPart core ctx) rightW m.addr m.len = some [(a, m.len)] → s.dpaKind a = .kennel →
    Gives (.moveDataArrival core ctx) s fun t => (t.ctxsAt (core * 8 + ctx)).moves = r ∧ (∀ i, i < m.len →
    t.memAt (a + i) = s.storeAt (core * 2 ^ 22 + m.line * 64 + i)) ∧ ∀ b, b < a ∨ a + m.len ≤ b → t.memAt b = s.memAt b)

/-- Welt verdicts, re-runs, resoles, replays, aborts; conversions and sync. After 02_number_formats.md: Safeguards for four bits and
narrower; 03_matrix_arrays.md: Mismatch handling; 04_core_execution.md: Commit; 04_core_execution.md: Synchronisation;
12_last_schedule.md: Overrun; 17_integrity.md: The CHK promise. -/
def Obligations.Verdicts : Prop :=
  -- weltVerdict
  (∀ (s : State) (core : Nat) (arr : Nat) (x : TileRun) (faults : List CellFault) (residue : Bool), s.Inv → core < 64 → arr < 4 →
    (s.arrsAt (4 * core + arr)).tiles = [x] → x.fed = true → x.pass = none → x.part < 256 → s.isChk x.part = false →
    guardTrips x.words (((runIn x).sums x.anchor faults).2 + (drainWords ((runIn x).sums x.anchor faults).1).2) ((runIn x).countA (isLim
    (runIn x).fmt) + (runIn x).countW (isLim (runIn x).fmt)) = false → dAccInit x.words = true → dConv x.words = false → x.ctx < 5 →
    Gives (.weltVerdict core arr faults residue) s fun t => (t.arrsAt (4 * core + arr)).tiles = [] ∧
    t.fld (R.coreCtxTiles core x.ctx) F.coreCtxTiles_COMMITTED = min (s.fld (R.coreCtxTiles core x.ctx) F.coreCtxTiles_COMMITTED + 1)
    F.coreCtxTiles_COMMITTED.max ∧ (∀ i, i < (drainWords ((runIn x).sums x.anchor faults).1).1.length →
    t.accAt ((core * 1024 + dAccLine x.words + i / 128) * 128 + i % 128) = BitVec.ofInt 128 ((drainWords ((runIn x).sums x.anchor
    faults).1).1.getD i 0 * 2 ^ 48)) ∧ ∀ i, i < dM x.words → t.anchorsAt (core * 1024 + dAccLine x.words + i) = some x.anchor) ∧
  -- weltVerdict_mismatch
  (∀ (s : State) (core : Nat) (arr : Nat) (x : TileRun) (faults : List CellFault) (residue : Bool) (wr : WeltRes), s.Inv → core < 64 →
    arr < 4 → (s.arrsAt (4 * core + arr)).tiles = [x] → x.fed = true → x.pass = none → x.run = 1 → x.ctx < 5 → s.checked x.part = true →
    wr = (runIn x).welt x.anchor (dWeltTol x.words) faults residue → wr.bad = true →
    Gives (.weltVerdict core arr faults residue) s fun t => (t.arrsAt (4 * core + arr)).tiles = [] ∧
    t.fld (R.coreArrWeltCnt core arr) F.coreArrWeltCnt_MISMATCH = min (s.fld (R.coreArrWeltCnt core arr) F.coreArrWeltCnt_MISMATCH + 1)
    F.coreArrWeltCnt_MISMATCH.max ∧
    (t.ctxsAt (core * 8 + x.ctx)).redo = (s.ctxsAt (core * 8 + x.ctx)).redo.takeWhile (·.seq < x.seq) ++ { x with resHit := x.resHit || wr.resFail, again := 1, run := 2 }
    :: (s.ctxsAt (core * 8 + x.ctx)).redo.dropWhile (·.seq < x.seq) ∧ (∀ k, t.accAt k = s.accAt k)) ∧
  -- weltRerun
  (∀ (s : State) (core : Nat) (arr : Nat) (x : TileRun), s.Inv → core < 64 → arr < 4 → x.ctx < 5 →
    (s.arrsAt (4 * core + arr)).tiles = [] → s.pend = [] → s.noErrors = true → x.part < 256 → s.ownsNow x.part core arr = true →
    s.admission x.part core arr (dDlen x.words) = 0 →
    (s.redoHead core (fun t => t.again == 1 && s.rerunArr core t == some arr) = some x) → x.run = 2 → x.pass = none →
    tileCharge (runIn x).fmt (runBeats x) ≤ s.last.bucket →
    Gives (.weltRerun core arr) s fun t => (t.ctxsAt (core * 8 + x.ctx)).redo = (s.ctxsAt (core * 8 + x.ctx)).redo.drop 1 ∧
    (t.arrsAt (4 * core + arr)).tiles.map (fun u => (u.ctx, u.seq, u.run)) = [(x.ctx, x.seq, 2)]) ∧
  -- weltRerun_radio
  (∀ (s : State) (core : Nat) (arr : Nat) (x : TileRun), s.Inv → core < 64 → arr < 4 → x.ctx < 5 →
    (s.arrsAt (4 * core + arr)).tiles = [] → s.pend = [] → s.noErrors = true → x.part = 0x101 →
    (s.redoHead core (fun t => t.again == 1 && s.rerunArr core t == some arr) = some x) →
    Gives (.weltRerun core arr) s fun t => (t.ctxsAt (core * 8 + x.ctx)).redo = (s.ctxsAt (core * 8 + x.ctx)).redo.drop 1 ∧
    (t.arrsAt (4 * core + arr)).tiles.map (fun u => (u.ctx, u.seq, u.run)) = [(x.ctx, x.seq, x.run)] ∧
    (s.arrRadio s.stitch core arr = false ∧ s.arrClosed core arr = false → (t.arrsAt (4 * core + arr)).rerun = true ∧
    t.fld R.lastCnt2 F.lastCnt2_RERUN_CLOSE = min (s.fld R.lastCnt2 F.lastCnt2_RERUN_CLOSE + 1) F.lastCnt2_RERUN_CLOSE.max)) ∧
  -- resolePass
  (∀ (s : State) (core : Nat) (arr : Nat) (x : TileRun) (p : PassSt), s.Inv → core < 64 → arr < 4 → x.ctx < 5 →
    (s.arrsAt (4 * core + arr)).tiles = [] → s.pend = [] → s.noErrors = true → x.part < 256 → s.ownsNow x.part core arr = true →
    s.admission x.part core arr (dDlen x.words) = 0 →
    (s.redoHead core (fun t => t.again == 2 && s.rerunArr core t == some arr && (match t.pass with | some p => p.half == 1 || !(s.halfOpen core arr) | none => false)) = some x)
    → x.pass = some p → tileCharge (wideFmt x.words) (runBeats x) ≤ s.last.bucket →
    Gives (.resolePass core arr) s fun t => (t.ctxsAt (core * 8 + x.ctx)).redo = (s.ctxsAt (core * 8 + x.ctx)).redo.drop 1 ∧
    (t.arrsAt (4 * core + arr)).tiles.map (fun u => (u.ctx, u.seq, u.run)) = [(x.ctx, x.seq, x.run)]) ∧
  -- tileReplay
  (∀ (s : State) (core : Nat) (ctx : Nat) (arr : Nat) (x : TileRun) (r : List TileRun) (l : List Nat) (wide : Bool), s.Inv → ctx < 5 →
    (s.ctxsAt (core * 8 + ctx)).redo = x :: r → x.ctx = ctx → x.again = 3 → s.arrChoice x.part core (dArrMask x.words) = (l, wide) →
    (l.find? (fun a => s.ownsNow x.part core a) = some arr) → s.halfOpen core arr = false → core < 64 → arr < 4 →
    (s.arrsAt (4 * core + arr)).tiles = [] → s.pend = [] → s.noErrors = true → x.part < 256 →
    s.admission x.part core arr (dDlen x.words) = 0 → tileCharge (dFmtA x.words) (dM x.words * fmtC (dFmtA x.words)) ≤ s.last.bucket →
    Gives (.tileReplay core ctx) s fun t => (t.ctxsAt (core * 8 + ctx)).redo = r ∧ (t.arrsAt (4 * core + arr)).tiles.map (fun u => (u.ctx,
    u.seq, u.run)) = [(x.ctx, x.seq, 1)]) ∧
  -- overrunAbort
  (∀ (s : State) (core : Nat) (arr : Nat) (x : TileRun), s.Inv → core < 64 → arr < 4 → (s.arrsAt (4 * core + arr)).tiles = [x] →
    x.part < 256 → x.ctx < 5 → Gives (.overrunAbort core arr) s fun t => (t.arrsAt (4 * core + arr)).tiles = [] ∧
    t.fld (R.coreCtxEvents core x.ctx) F.coreCtxEvents_OVERRUN_ABORTS = min (s.fld (R.coreCtxEvents core x.ctx)
    F.coreCtxEvents_OVERRUN_ABORTS + 1) F.coreCtxEvents_OVERRUN_ABORTS.max ∧
    t.fld R.lastCnt F.lastCnt_OVERRUNS = min (s.fld R.lastCnt F.lastCnt_OVERRUNS + 1) F.lastCnt_OVERRUNS.max ∧
    (t.ctxsAt (core * 8 + x.ctx)).redo = (s.ctxsAt (core * 8 + x.ctx)).redo.takeWhile (·.seq < x.seq) ++
    { x with again := 3, run := 1, pass := none, overruns := min (x.overruns + 1) 255 } :: (s.ctxsAt (core * 8 + x.ctx)).redo.dropWhile
    (·.seq < x.seq)) ∧
  -- conversion
  (∀ (s : State) (core : Nat) (j : ConvJob), s.Inv → core < 64 → s.convq = [(core, j)] → s.vTurn core j.ctx = true →
    s.outMoves core j.ctx j.seq = false → (s.ctxsAt (core * 8 + j.ctx)).stats = [] → s.noErrors = true →
    s.csOwned j.part core (dStatAddr j.words * 64) 64 = true → Gives (.conversion core) s fun t => t.convq = [] ∧ (∀ k,
    t.accAt k = s.accAt k) ∧ (∀ i, i < 8 →
    t.storeAt (core * 2 ^ 22 + dStatAddr j.words * 64 + i) = (leBytes (dTileId j.words) 8).getD i 0) ∧
    t.sigq = s.sigq ++ (if dSigEn j.words then [⟨j.part, dSigIdx j.words, .core core j.ctx, [], j.seq, dPc j.words⟩] else [])) ∧
  -- conversion_held
  (∀ (s : State) (core : Nat) (j : ConvJob), s.Inv → core < 64 → s.convq = [(core, j)] → s.vTurn core j.ctx = true →
    s.outMoves core j.ctx j.seq = true → s.noErrors = true → Gives (.conversion core) s fun t => t.convq = [] ∧
    (t.ctxsAt (core * 8 + j.ctx)).stats.map (fun x => (x.seq, x.words)) = (s.ctxsAt (core * 8 + j.ctx)).stats.map (fun x => (x.seq,
    x.words)) ++ [(j.seq, j.words)] ∧ t.sigq = s.sigq) ∧
  -- syncSignal
  (∀ (s : State) (part : Nat) (idx : Nat) (j : SigJob) (a : Nat), s.Inv →
    (s.sigq.find? (fun j => j.part == part && j.idx == idx && s.sigReady j) = some j) → a = s.syncDpa part idx → s.noErrors = true →
    s.dpaKind a = .kennel → Gives (.syncSignal part idx) s fun t => t.sigq = s.sigq.erase j ∧
    t.readBytes a 4 = leBytes ((leNat (s.readBytes a 4) + 1) % 2 ^ 32) 4 ∧ ∀ b, b < a ∨ a + 4 ≤ b → t.memAt b = s.memAt b) ∧
  -- syncWaitTimeout
  (∀ (s : State) (core : Nat) (ctx : Nat), s.Inv → core < 64 → ctx < 4 → s.ctxActive core ctx = true →
    (s.ctxsAt (core * 8 + ctx)).wait ≠ none → s.sliceLive (s.ctxPart core ctx) = true →
    Gives (.syncWaitTimeout core ctx) s fun t => t.sliceState (s.ctxPart core ctx) = 4 ∧
    t.fld (R.coreCtxFault core ctx) F.coreCtxFault_CODE = 7 ∧ t.ctxActive core ctx = false ∧
    t.fld (R.mbSliceFaultInfo (s.ctxPart core ctx)) F.mbSliceFaultInfo_CLASS = 1 ∧
    t.fld (R.mbSliceFaultInfo (s.ctxPart core ctx)) F.mbSliceFaultInfo_CODE = 7) ∧
  -- controlParityError
  (∀ (s : State) (core : Nat), s.Inv → core < 64 → Gives (.controlParityError core) s fun t => (∀ a, a < 4 →
    t.fld (R.coreArrStat core a) F.coreArrStat_FENCE = 1 ∧ (t.arrsAt (4 * core + a)).tiles = []) ∧ t.healthLevel 3 core = 2 ∧
    bit t.flash.retire (256 + core) = true)

/-- Vector arithmetic, comparisons, functions and reductions. After 04_core_execution.md: Vector unit. -/
def Obligations.VectorArithmetic : Prop :=
  -- vadd
  (∀ (s : State) (core : Nat) (ctx : Nat) (v : VInstr) (w : Nat), s.Inv → core < 64 → ctx < 5 → s.vFront core ctx = some w →
    0x10 ≤ vOp w → vOp w ≤ 0x2F → vFields w = vKey v → s.vTurn core ctx = true → (v.res = 0 ∨ s.isChk (s.ctxPart core ctx) = false) →
    Gives (.vadd core ctx v) s fun t => Same (.any
    [.range .vreg ((core * 32 + v.vd % 32) * 64) ((core * 32 + v.vd % 32) * 64 + 64), .entry .ctxs (core * 8 + ctx), .entry .vecTurn core, .reg (R.coreSeqStat core), pmcFoot (some core)])
    s t ∧ (t.ctxsAt (core * 8 + ctx)).bundle = (s.ctxsAt (core * 8 + ctx)).bundle.drop 1 ∧ ∀ i, i < 64 →
    t.vregAt ((core * 32 + v.vd % 32) * 64 + i) = (laneArith 0 v.dt (s.vregAt ((core * 32 + v.va % 32) * 64 + i)) (s.vregAt ((core * 32 +
    v.vb % 32) * 64 + i)) 0) % 2 ^ 32) ∧
  -- vsub
  (∀ (s : State) (core : Nat) (ctx : Nat) (v : VInstr) (w : Nat), s.Inv → core < 64 → ctx < 5 → s.vFront core ctx = some w →
    0x10 ≤ vOp w → vOp w ≤ 0x2F → vFields w = vKey v → s.vTurn core ctx = true → (v.res = 0 ∨ s.isChk (s.ctxPart core ctx) = false) →
    Gives (.vsub core ctx v) s fun t => Same (.any
    [.range .vreg ((core * 32 + v.vd % 32) * 64) ((core * 32 + v.vd % 32) * 64 + 64), .entry .ctxs (core * 8 + ctx), .entry .vecTurn core, .reg (R.coreSeqStat core), pmcFoot (some core)])
    s t ∧ (t.ctxsAt (core * 8 + ctx)).bundle = (s.ctxsAt (core * 8 + ctx)).bundle.drop 1 ∧ ∀ i, i < 64 →
    t.vregAt ((core * 32 + v.vd % 32) * 64 + i) = (laneArith 1 v.dt (s.vregAt ((core * 32 + v.va % 32) * 64 + i)) (s.vregAt ((core * 32 +
    v.vb % 32) * 64 + i)) 0) % 2 ^ 32) ∧
  -- vmul
  (∀ (s : State) (core : Nat) (ctx : Nat) (v : VInstr) (w : Nat), s.Inv → core < 64 → ctx < 5 → s.vFront core ctx = some w →
    0x10 ≤ vOp w → vOp w ≤ 0x2F → vFields w = vKey v → s.vTurn core ctx = true → (v.res = 0 ∨ s.isChk (s.ctxPart core ctx) = false) →
    Gives (.vmul core ctx v) s fun t => Same (.any
    [.range .vreg ((core * 32 + v.vd % 32) * 64) ((core * 32 + v.vd % 32) * 64 + 64), .entry .ctxs (core * 8 + ctx), .entry .vecTurn core, .reg (R.coreSeqStat core), pmcFoot (some core)])
    s t ∧ (t.ctxsAt (core * 8 + ctx)).bundle = (s.ctxsAt (core * 8 + ctx)).bundle.drop 1 ∧ ∀ i, i < 64 →
    t.vregAt ((core * 32 + v.vd % 32) * 64 + i) = (laneArith 2 v.dt (s.vregAt ((core * 32 + v.va % 32) * 64 + i)) (s.vregAt ((core * 32 +
    v.vb % 32) * 64 + i)) 0) % 2 ^ 32) ∧
  -- vfma
  (∀ (s : State) (core : Nat) (ctx : Nat) (v : VInstr) (w : Nat), s.Inv → core < 64 → ctx < 5 → s.vFront core ctx = some w →
    0x10 ≤ vOp w → vOp w ≤ 0x2F → vFields w = vKey v → s.vTurn core ctx = true → (v.res = 0 ∨ s.isChk (s.ctxPart core ctx) = false) →
    Gives (.vfma core ctx v) s fun t => Same (.any
    [.range .vreg ((core * 32 + v.vd % 32) * 64) ((core * 32 + v.vd % 32) * 64 + 64), .entry .ctxs (core * 8 + ctx), .entry .vecTurn core, .reg (R.coreSeqStat core), pmcFoot (some core)])
    s t ∧ (t.ctxsAt (core * 8 + ctx)).bundle = (s.ctxsAt (core * 8 + ctx)).bundle.drop 1 ∧ ∀ i, i < 64 →
    t.vregAt ((core * 32 + v.vd % 32) * 64 + i) = (laneArith 3 v.dt (s.vregAt ((core * 32 + v.va % 32) * 64 + i)) (s.vregAt ((core * 32 +
    v.vb % 32) * 64 + i)) (s.vregAt ((core * 32 + v.vc % 32) * 64 + i))) % 2 ^ 32) ∧
  -- vmax
  (∀ (s : State) (core : Nat) (ctx : Nat) (v : VInstr) (w : Nat), s.Inv → core < 64 → ctx < 5 → s.vFront core ctx = some w →
    0x10 ≤ vOp w → vOp w ≤ 0x2F → vFields w = vKey v → s.vTurn core ctx = true →
    Gives (.vmax core ctx v) s fun t => Same (.any [.range .vreg ((core * 32 + v.vd % 32) * 64) ((core * 32 + v.vd % 32) * 64 + 64), .entry .ctxs (core * 8 + ctx), .entry .vecTurn core, .reg (R.coreSeqStat core), pmcFoot (some core)])
    s t ∧ (t.ctxsAt (core * 8 + ctx)).bundle = (s.ctxsAt (core * 8 + ctx)).bundle.drop 1 ∧ ∀ i, i < 64 →
    t.vregAt ((core * 32 + v.vd % 32) * 64 + i) = (laneMax 4 v.dt (s.vregAt ((core * 32 + v.va % 32) * 64 + i)) (s.vregAt ((core * 32 +
    v.vb % 32) * 64 + i))) % 2 ^ 32) ∧
  -- vmin
  (∀ (s : State) (core : Nat) (ctx : Nat) (v : VInstr) (w : Nat), s.Inv → core < 64 → ctx < 5 → s.vFront core ctx = some w →
    0x10 ≤ vOp w → vOp w ≤ 0x2F → vFields w = vKey v → s.vTurn core ctx = true →
    Gives (.vmin core ctx v) s fun t => Same (.any [.range .vreg ((core * 32 + v.vd % 32) * 64) ((core * 32 + v.vd % 32) * 64 + 64), .entry .ctxs (core * 8 + ctx), .entry .vecTurn core, .reg (R.coreSeqStat core), pmcFoot (some core)])
    s t ∧ (t.ctxsAt (core * 8 + ctx)).bundle = (s.ctxsAt (core * 8 + ctx)).bundle.drop 1 ∧ ∀ i, i < 64 →
    t.vregAt ((core * 32 + v.vd % 32) * 64 + i) = (laneMax 5 v.dt (s.vregAt ((core * 32 + v.va % 32) * 64 + i)) (s.vregAt ((core * 32 +
    v.vb % 32) * 64 + i))) % 2 ^ 32) ∧
  -- vabs
  (∀ (s : State) (core : Nat) (ctx : Nat) (v : VInstr) (w : Nat), s.Inv → core < 64 → ctx < 5 → s.vFront core ctx = some w →
    0x10 ≤ vOp w → vOp w ≤ 0x2F → vFields w = vKey v → s.vTurn core ctx = true →
    Gives (.vabs core ctx v) s fun t => Same (.any [.range .vreg ((core * 32 + v.vd % 32) * 64) ((core * 32 + v.vd % 32) * 64 + 64), .entry .ctxs (core * 8 + ctx), .entry .vecTurn core, .reg (R.coreSeqStat core), pmcFoot (some core)])
    s t ∧ (t.ctxsAt (core * 8 + ctx)).bundle = (s.ctxsAt (core * 8 + ctx)).bundle.drop 1 ∧ ∀ i, i < 64 →
    t.vregAt ((core * 32 + v.vd % 32) * 64 + i) = (laneSignOp 6 v.dt (s.vregAt ((core * 32 + v.va % 32) * 64 + i))) % 2 ^ 32) ∧
  -- vneg
  (∀ (s : State) (core : Nat) (ctx : Nat) (v : VInstr) (w : Nat), s.Inv → core < 64 → ctx < 5 → s.vFront core ctx = some w →
    0x10 ≤ vOp w → vOp w ≤ 0x2F → vFields w = vKey v → s.vTurn core ctx = true →
    Gives (.vneg core ctx v) s fun t => Same (.any [.range .vreg ((core * 32 + v.vd % 32) * 64) ((core * 32 + v.vd % 32) * 64 + 64), .entry .ctxs (core * 8 + ctx), .entry .vecTurn core, .reg (R.coreSeqStat core), pmcFoot (some core)])
    s t ∧ (t.ctxsAt (core * 8 + ctx)).bundle = (s.ctxsAt (core * 8 + ctx)).bundle.drop 1 ∧ ∀ i, i < 64 →
    t.vregAt ((core * 32 + v.vd % 32) * 64 + i) = (laneSignOp 7 v.dt (s.vregAt ((core * 32 + v.va % 32) * 64 + i))) % 2 ^ 32) ∧
  -- vcmplt
  (∀ (s : State) (core : Nat) (ctx : Nat) (v : VInstr) (w : Nat), s.Inv → core < 64 → ctx < 5 → s.vFront core ctx = some w →
    0x30 ≤ vOp w → vOp w ≤ 0x37 → vFields w = vKey v → s.vTurn core ctx = true →
    Gives (.vcmplt core ctx v) s fun t => Same (.any [.range .vreg ((core * 32 + v.vd % 32) * 64) ((core * 32 + v.vd % 32) * 64 + 64), .entry .ctxs (core * 8 + ctx), .entry .vecTurn core, .reg (R.coreSeqStat core), pmcFoot (some core)])
    s t ∧ (t.ctxsAt (core * 8 + ctx)).bundle = (s.ctxsAt (core * 8 + ctx)).bundle.drop 1 ∧ ∀ i, i < 64 →
    t.vregAt ((core * 32 + v.vd % 32) * 64 + i) = (laneCmp 0 v.dt (s.vregAt ((core * 32 + v.va % 32) * 64 + i)) (s.vregAt ((core * 32 +
    v.vb % 32) * 64 + i))) % 2 ^ 32) ∧
  -- vcmple
  (∀ (s : State) (core : Nat) (ctx : Nat) (v : VInstr) (w : Nat), s.Inv → core < 64 → ctx < 5 → s.vFront core ctx = some w →
    0x30 ≤ vOp w → vOp w ≤ 0x37 → vFields w = vKey v → s.vTurn core ctx = true →
    Gives (.vcmple core ctx v) s fun t => Same (.any [.range .vreg ((core * 32 + v.vd % 32) * 64) ((core * 32 + v.vd % 32) * 64 + 64), .entry .ctxs (core * 8 + ctx), .entry .vecTurn core, .reg (R.coreSeqStat core), pmcFoot (some core)])
    s t ∧ (t.ctxsAt (core * 8 + ctx)).bundle = (s.ctxsAt (core * 8 + ctx)).bundle.drop 1 ∧ ∀ i, i < 64 →
    t.vregAt ((core * 32 + v.vd % 32) * 64 + i) = (laneCmp 1 v.dt (s.vregAt ((core * 32 + v.va % 32) * 64 + i)) (s.vregAt ((core * 32 +
    v.vb % 32) * 64 + i))) % 2 ^ 32) ∧
  -- vcmpeq
  (∀ (s : State) (core : Nat) (ctx : Nat) (v : VInstr) (w : Nat), s.Inv → core < 64 → ctx < 5 → s.vFront core ctx = some w →
    0x30 ≤ vOp w → vOp w ≤ 0x37 → vFields w = vKey v → s.vTurn core ctx = true →
    Gives (.vcmpeq core ctx v) s fun t => Same (.any [.range .vreg ((core * 32 + v.vd % 32) * 64) ((core * 32 + v.vd % 32) * 64 + 64), .entry .ctxs (core * 8 + ctx), .entry .vecTurn core, .reg (R.coreSeqStat core), pmcFoot (some core)])
    s t ∧ (t.ctxsAt (core * 8 + ctx)).bundle = (s.ctxsAt (core * 8 + ctx)).bundle.drop 1 ∧ ∀ i, i < 64 →
    t.vregAt ((core * 32 + v.vd % 32) * 64 + i) = (laneCmp 2 v.dt (s.vregAt ((core * 32 + v.va % 32) * 64 + i)) (s.vregAt ((core * 32 +
    v.vb % 32) * 64 + i))) % 2 ^ 32) ∧
  -- vsel
  (∀ (s : State) (core : Nat) (ctx : Nat) (v : VInstr) (w : Nat), s.Inv → core < 64 → ctx < 5 → s.vFront core ctx = some w →
    0x30 ≤ vOp w → vOp w ≤ 0x37 → vFields w = vKey v → s.vTurn core ctx = true →
    Gives (.vsel core ctx v) s fun t => Same (.any [.range .vreg ((core * 32 + v.vd % 32) * 64) ((core * 32 + v.vd % 32) * 64 + 64), .entry .ctxs (core * 8 + ctx), .entry .vecTurn core, .reg (R.coreSeqStat core), pmcFoot (some core)])
    s t ∧ (t.ctxsAt (core * 8 + ctx)).bundle = (s.ctxsAt (core * 8 + ctx)).bundle.drop 1 ∧ ∀ i, i < 64 →
    t.vregAt ((core * 32 + v.vd % 32) * 64 + i) = (laneSel (s.vregAt ((core * 32 + v.va % 32) * 64 + i)) (s.vregAt ((core * 32 + v.vb %
    32) * 64 + i)) (s.vregAt ((core * 32 + v.vc % 32) * 64 + i))) % 2 ^ 32) ∧
  -- vexp2
  (∀ (s : State) (core : Nat) (ctx : Nat) (v : VInstr) (w : Nat), s.Inv → core < 64 → ctx < 5 → s.vFront core ctx = some w →
    0x40 ≤ vOp w → vOp w ≤ 0x47 → vFields w = vKey v → s.vTurn core ctx = true → (v.res = 0 ∨ s.isChk (s.ctxPart core ctx) = false) →
    Gives (.vexp2 core ctx v) s fun t => Same (.any
    [.range .vreg ((core * 32 + v.vd % 32) * 64) ((core * 32 + v.vd % 32) * 64 + 64), .entry .ctxs (core * 8 + ctx), .entry .vecTurn core, .reg (R.coreSeqStat core), pmcFoot (some core)])
    s t ∧ (t.ctxsAt (core * 8 + ctx)).bundle = (s.ctxsAt (core * 8 + ctx)).bundle.drop 1 ∧ ∀ i, i < 64 →
    t.vregAt ((core * 32 + v.vd % 32) * 64 + i) = (laneFun 8 v.dt (s.vregAt ((core * 32 + v.va % 32) * 64 + i))) % 2 ^ 32) ∧
  -- vlog2
  (∀ (s : State) (core : Nat) (ctx : Nat) (v : VInstr) (w : Nat), s.Inv → core < 64 → ctx < 5 → s.vFront core ctx = some w →
    0x40 ≤ vOp w → vOp w ≤ 0x47 → vFields w = vKey v → s.vTurn core ctx = true → (v.res = 0 ∨ s.isChk (s.ctxPart core ctx) = false) →
    Gives (.vlog2 core ctx v) s fun t => Same (.any
    [.range .vreg ((core * 32 + v.vd % 32) * 64) ((core * 32 + v.vd % 32) * 64 + 64), .entry .ctxs (core * 8 + ctx), .entry .vecTurn core, .reg (R.coreSeqStat core), pmcFoot (some core)])
    s t ∧ (t.ctxsAt (core * 8 + ctx)).bundle = (s.ctxsAt (core * 8 + ctx)).bundle.drop 1 ∧ ∀ i, i < 64 →
    t.vregAt ((core * 32 + v.vd % 32) * 64 + i) = (laneFun 9 v.dt (s.vregAt ((core * 32 + v.va % 32) * 64 + i))) % 2 ^ 32) ∧
  -- vrcp
  (∀ (s : State) (core : Nat) (ctx : Nat) (v : VInstr) (w : Nat), s.Inv → core < 64 → ctx < 5 → s.vFront core ctx = some w →
    0x40 ≤ vOp w → vOp w ≤ 0x47 → vFields w = vKey v → s.vTurn core ctx = true → (v.res = 0 ∨ s.isChk (s.ctxPart core ctx) = false) →
    Gives (.vrcp core ctx v) s fun t => Same (.any
    [.range .vreg ((core * 32 + v.vd % 32) * 64) ((core * 32 + v.vd % 32) * 64 + 64), .entry .ctxs (core * 8 + ctx), .entry .vecTurn core, .reg (R.coreSeqStat core), pmcFoot (some core)])
    s t ∧ (t.ctxsAt (core * 8 + ctx)).bundle = (s.ctxsAt (core * 8 + ctx)).bundle.drop 1 ∧ ∀ i, i < 64 →
    t.vregAt ((core * 32 + v.vd % 32) * 64 + i) = (laneFun 10 v.dt (s.vregAt ((core * 32 + v.va % 32) * 64 + i))) % 2 ^ 32) ∧
  -- vrsqrt
  (∀ (s : State) (core : Nat) (ctx : Nat) (v : VInstr) (w : Nat), s.Inv → core < 64 → ctx < 5 → s.vFront core ctx = some w →
    0x40 ≤ vOp w → vOp w ≤ 0x47 → vFields w = vKey v → s.vTurn core ctx = true → (v.res = 0 ∨ s.isChk (s.ctxPart core ctx) = false) →
    Gives (.vrsqrt core ctx v) s fun t => Same (.any
    [.range .vreg ((core * 32 + v.vd % 32) * 64) ((core * 32 + v.vd % 32) * 64 + 64), .entry .ctxs (core * 8 + ctx), .entry .vecTurn core, .reg (R.coreSeqStat core), pmcFoot (some core)])
    s t ∧ (t.ctxsAt (core * 8 + ctx)).bundle = (s.ctxsAt (core * 8 + ctx)).bundle.drop 1 ∧ ∀ i, i < 64 →
    t.vregAt ((core * 32 + v.vd % 32) * 64 + i) = (laneFun 11 v.dt (s.vregAt ((core * 32 + v.va % 32) * 64 + i))) % 2 ^ 32) ∧
  -- vtanh
  (∀ (s : State) (core : Nat) (ctx : Nat) (v : VInstr) (w : Nat), s.Inv → core < 64 → ctx < 5 → s.vFront core ctx = some w →
    0x40 ≤ vOp w → vOp w ≤ 0x47 → vFields w = vKey v → s.vTurn core ctx = true → (v.res = 0 ∨ s.isChk (s.ctxPart core ctx) = false) →
    Gives (.vtanh core ctx v) s fun t => Same (.any
    [.range .vreg ((core * 32 + v.vd % 32) * 64) ((core * 32 + v.vd % 32) * 64 + 64), .entry .ctxs (core * 8 + ctx), .entry .vecTurn core, .reg (R.coreSeqStat core), pmcFoot (some core)])
    s t ∧ (t.ctxsAt (core * 8 + ctx)).bundle = (s.ctxsAt (core * 8 + ctx)).bundle.drop 1 ∧ ∀ i, i < 64 →
    t.vregAt ((core * 32 + v.vd % 32) * 64 + i) = (laneFun 12 v.dt (s.vregAt ((core * 32 + v.va % 32) * 64 + i))) % 2 ^ 32) ∧
  -- verf
  (∀ (s : State) (core : Nat) (ctx : Nat) (v : VInstr) (w : Nat), s.Inv → core < 64 → ctx < 5 → s.vFront core ctx = some w →
    0x40 ≤ vOp w → vOp w ≤ 0x47 → vFields w = vKey v → s.vTurn core ctx = true → (v.res = 0 ∨ s.isChk (s.ctxPart core ctx) = false) →
    Gives (.verf core ctx v) s fun t => Same (.any
    [.range .vreg ((core * 32 + v.vd % 32) * 64) ((core * 32 + v.vd % 32) * 64 + 64), .entry .ctxs (core * 8 + ctx), .entry .vecTurn core, .reg (R.coreSeqStat core), pmcFoot (some core)])
    s t ∧ (t.ctxsAt (core * 8 + ctx)).bundle = (s.ctxsAt (core * 8 + ctx)).bundle.drop 1 ∧ ∀ i, i < 64 →
    t.vregAt ((core * 32 + v.vd % 32) * 64 + i) = (laneFun 13 v.dt (s.vregAt ((core * 32 + v.va % 32) * 64 + i))) % 2 ^ 32) ∧
  -- vrsum
  (∀ (s : State) (core : Nat) (ctx : Nat) (v : VInstr) (w : Nat) (n : Nat), s.Inv → core < 64 → ctx < 5 → s.vFront core ctx = some w →
    0x38 ≤ vOp w → vOp w ≤ 0x3F → vFields w = vKey v → s.vTurn core ctx = true → n = v.imm.toNat % 65536 → n ≠ 0 → v.va + n ≤ 32 →
    (v.res = 0 ∨ s.isChk (s.ctxPart core ctx) = false) →
    Gives (.vrsum core ctx v) s fun t => Same (.any [.range .vreg ((core * 32 + v.vd % 32) * 64) ((core * 32 + v.vd % 32) * 64 + 64), .entry .ctxs (core * 8 + ctx), .entry .vecTurn core, .reg (R.coreSeqStat core), pmcFoot (some core)])
    s t ∧ (t.ctxsAt (core * 8 + ctx)).bundle = (s.ctxsAt (core * 8 + ctx)).bundle.drop 1 ∧ ∀ i, i < 64 →
    t.vregAt ((core * 32 + v.vd % 32) * 64 + i) = (reduceLanes (fun a b => laneArith 0 v.dt a b 0) ((List.range n).map fun k => s.vreg64
    core (v.va + k))).getD i 0 % 2 ^ 32) ∧
  -- vrmax
  (∀ (s : State) (core : Nat) (ctx : Nat) (v : VInstr) (w : Nat) (n : Nat), s.Inv → core < 64 → ctx < 5 → s.vFront core ctx = some w →
    0x38 ≤ vOp w → vOp w ≤ 0x3F → vFields w = vKey v → s.vTurn core ctx = true → n = v.imm.toNat % 65536 → n ≠ 0 → v.va + n ≤ 32 →
    Gives (.vrmax core ctx v) s fun t => Same (.any
    [.range .vreg ((core * 32 + v.vd % 32) * 64) ((core * 32 + v.vd % 32) * 64 + 64), .entry .ctxs (core * 8 + ctx), .entry .vecTurn core, .reg (R.coreSeqStat core), pmcFoot (some core)])
    s t ∧ (t.ctxsAt (core * 8 + ctx)).bundle = (s.ctxsAt (core * 8 + ctx)).bundle.drop 1 ∧ ∀ i, i < 64 →
    t.vregAt ((core * 32 + v.vd % 32) * 64 + i) = (reduceLanes (fun a b => laneRMax 4 v.dt a b) ((List.range n).map fun k => s.vreg64 core
    (v.va + k))).getD i 0 % 2 ^ 32) ∧
  -- vrmin
  (∀ (s : State) (core : Nat) (ctx : Nat) (v : VInstr) (w : Nat) (n : Nat), s.Inv → core < 64 → ctx < 5 → s.vFront core ctx = some w →
    0x38 ≤ vOp w → vOp w ≤ 0x3F → vFields w = vKey v → s.vTurn core ctx = true → n = v.imm.toNat % 65536 → n ≠ 0 → v.va + n ≤ 32 →
    Gives (.vrmin core ctx v) s fun t => Same (.any
    [.range .vreg ((core * 32 + v.vd % 32) * 64) ((core * 32 + v.vd % 32) * 64 + 64), .entry .ctxs (core * 8 + ctx), .entry .vecTurn core, .reg (R.coreSeqStat core), pmcFoot (some core)])
    s t ∧ (t.ctxsAt (core * 8 + ctx)).bundle = (s.ctxsAt (core * 8 + ctx)).bundle.drop 1 ∧ ∀ i, i < 64 →
    t.vregAt ((core * 32 + v.vd % 32) * 64 + i) = (reduceLanes (fun a b => laneRMax 5 v.dt a b) ((List.range n).map fun k => s.vreg64 core
    (v.va + k))).getD i 0 % 2 ^ 32) ∧
  -- vadd_residue
  (∀ (s : State) (core : Nat) (ctx : Nat) (v : VInstr) (w : Nat), s.Inv → core < 64 → ctx < 5 → s.vFront core ctx = some w →
    0x10 ≤ vOp w → vOp w ≤ 0x2F → vFields w = vKey v → s.vTurn core ctx = true → ctx < 4 → s.isChk (s.ctxPart core ctx) = true →
    v.res = 2 → s.sliceLive (s.ctxPart core ctx) = true → Gives (.vadd core ctx v) s fun t => t.sliceState (s.ctxPart core ctx) = 4 ∧
    t.fld (R.coreCtxFault core ctx) F.coreCtxFault_CODE = 8 ∧ t.fld (R.coreVecStat core) F.coreVecStat_SUSPECT = 1 ∧ (∀ a, a < 4 →
    t.fld (R.coreArrStat core a) F.coreArrStat_FENCE = 1) ∧ (∀ k, t.vregAt k = s.vregAt k))

/-- Vector loads, stores, accumulators, conversions, moves, waits and signals. After 02_number_formats.md: The L128 accumulator and the
anchor; 02_number_formats.md: Conversions; 04_core_execution.md: Memory back-pressure; 04_core_execution.md: Vector unit;
04_core_execution.md: Synchronisation. -/
def Obligations.VectorMemory : Prop :=
  -- vld
  (∀ (s : State) (core : Nat) (ctx : Nat) (v : VInstr) (w : Nat), s.Inv → core < 64 → ctx < 5 → s.vFront core ctx = some w → 0 ≤ vOp w →
    vOp w ≤ 0x0F → vFields w = vKey v → s.vTurn core ctx = true → s.csState (s.ctxPart core ctx) core (v.imm.toNat % 65536 * 64) 256 = 0 →
    s.csOwned (s.ctxPart core ctx) core (v.imm.toNat % 65536 * 64) 256 = true → s.noErrors = true →
    Gives (.vld core ctx v) s fun t => Same (.any
    [.range .vreg ((core * 32 + v.vd % 32) * 64) ((core * 32 + v.vd % 32) * 64 + 64), .entry .ctxs (core * 8 + ctx), .entry .vecTurn core, .reg (R.coreSeqStat core), pmcFoot (some core)])
    s t ∧ (t.ctxsAt (core * 8 + ctx)).bundle = (s.ctxsAt (core * 8 + ctx)).bundle.drop 1 ∧ ∀ i, i < 64 →
    t.vregAt ((core * 32 + v.vd % 32) * 64 + i) = leNat ((List.range 4).map fun k => s.storeAt (core * 2 ^ 22 + (v.imm.toNat % 65536 * 64)
    + 4 * i + k))) ∧
  -- vld_failed
  (∀ (s : State) (core : Nat) (ctx : Nat) (v : VInstr) (w : Nat), s.Inv → core < 64 → ctx < 5 → s.vFront core ctx = some w → 0 ≤ vOp w →
    vOp w ≤ 0x0F → vFields w = vKey v → s.vTurn core ctx = true → ctx < 4 →
    s.csState (s.ctxPart core ctx) core (v.imm.toNat % 65536 * 64) 256 = 2 → s.sliceLive (s.ctxPart core ctx) = true →
    Gives (.vld core ctx v) s fun t => t.sliceState (s.ctxPart core ctx) = 4 ∧ t.fld (R.coreCtxFault core ctx) F.coreCtxFault_CODE = 9 ∧
    ∀ k, t.vregAt k = s.vregAt k) ∧
  -- vst
  (∀ (s : State) (core : Nat) (ctx : Nat) (v : VInstr) (w : Nat), s.Inv → core < 64 → ctx < 5 → s.vFront core ctx = some w → 0 ≤ vOp w →
    vOp w ≤ 0x0F → vFields w = vKey v → s.vTurn core ctx = true →
    s.csOwned (s.ctxPart core ctx) core (v.imm.toNat % 65536 * 64) 256 = true → s.noErrors = true →
    Gives (.vst core ctx v) s fun t => (t.ctxsAt (core * 8 + ctx)).bundle = (s.ctxsAt (core * 8 + ctx)).bundle.drop 1 ∧ (∀ i, i < 64 →
    ∀ k, k < 4 →
    t.storeAt (core * 2 ^ 22 + (v.imm.toNat % 65536 * 64) + 4 * i + k) = (leBytes (s.vregAt ((core * 32 + v.va % 32) * 64 + i)) 4).getD k
    0) ∧ (∀ a, a < core * 2 ^ 22 + (v.imm.toNat % 65536 * 64) ∨ core * 2 ^ 22 + (v.imm.toNat % 65536 * 64) + 256 ≤ a →
    t.storeAt a = s.storeAt a) ∧ ∀ k, t.vregAt k = s.vregAt k) ∧
  -- vlda
  (∀ (s : State) (core : Nat) (ctx : Nat) (v : VInstr) (w : Nat), s.Inv → core < 64 → ctx < 5 → s.vFront core ctx = some w → 0 ≤ vOp w →
    vOp w ≤ 0x0F → vFields w = vKey v → s.vTurn core ctx = true → v.vd ≤ 24 → s.accLineWait core ctx (v.imm.toNat % 1024) = false →
    s.ownsAcc (s.ctxPart core ctx) core (v.imm.toNat % 1024) = true → s.noErrors = true →
    Gives (.vlda core ctx v) s fun t => (t.ctxsAt (core * 8 + ctx)).bundle = (s.ctxsAt (core * 8 + ctx)).bundle.drop 1 ∧ (∀ k, k < 8 →
    ∀ i, i < 16 → (lanesL128 (t.vreg64 core (v.vd + k))).getD i 0 = s.accAt ((core * 1024 + (v.imm.toNat % 1024)) * 128 + 16 * k + i)) ∧
    ∀ k, t.accAt k = s.accAt k) ∧
  -- vlda_invalid
  (∀ (s : State) (core : Nat) (ctx : Nat) (v : VInstr) (w : Nat), s.Inv → core < 64 → ctx < 5 → s.vFront core ctx = some w → 0 ≤ vOp w →
    vOp w ≤ 0x0F → vFields w = vKey v → s.vTurn core ctx = true → ctx < 4 → 24 < v.vd →
    s.accLineWait core ctx (v.imm.toNat % 1024) = false → s.sliceLive (s.ctxPart core ctx) = true →
    Gives (.vlda core ctx v) s fun t => t.sliceState (s.ctxPart core ctx) = 4 ∧ t.fld (R.coreCtxFault core ctx) F.coreCtxFault_CODE = 1 ∧
    ∀ k, t.vregAt k = s.vregAt k) ∧
  -- vsta
  (∀ (s : State) (core : Nat) (ctx : Nat) (v : VInstr) (w : Nat), s.Inv → core < 64 → ctx < 5 → s.vFront core ctx = some w → 0 ≤ vOp w →
    vOp w ≤ 0x0F → vFields w = vKey v → s.vTurn core ctx = true → v.va ≤ 24 → s.accLineWait core ctx (v.imm.toNat % 1024) = false →
    s.ownsAcc (s.ctxPart core ctx) core (v.imm.toNat % 1024) = true →
    Gives (.vsta core ctx v) s fun t => (t.ctxsAt (core * 8 + ctx)).bundle = (s.ctxsAt (core * 8 + ctx)).bundle.drop 1 ∧ (∀ k, k < 8 →
    ∀ i, i < 16 → t.accAt ((core * 1024 + (v.imm.toNat % 1024)) * 128 + 16 * k + i) = (lanesL128 (s.vreg64 core (v.va + k))).getD i 0) ∧
    (∀ a, a < (core * 1024 + (v.imm.toNat % 1024)) * 128 ∨ (core * 1024 + (v.imm.toNat % 1024)) * 128 + 128 ≤ a → t.accAt a = s.accAt a) ∧
    ∀ k, t.vregAt k = s.vregAt k) ∧
  -- vcvt
  (∀ (s : State) (core : Nat) (ctx : Nat) (v : VInstr) (w : Nat) (f : Nat) (rnd : Nat) (sr : BitVec 32) (idx : Word), s.Inv → core < 64 →
    ctx < 5 → s.vFront core ctx = some w → 0x48 ≤ vOp w → vOp w ≤ 0x4F → vFields w = vKey v → s.vTurn core ctx = true →
    convInvalid v f rnd = false → fmtScale f ≠ 2 →
    Gives (.vcvt core ctx v f rnd sr idx) s fun t => (t.ctxsAt (core * 8 + ctx)).bundle = (s.ctxsAt (core * 8 + ctx)).bundle.drop 1 ∧
    (∀ i, i < 64 →
    t.vregAt ((core * 32 + v.vd % 32) * 64 + i) = (((((s.convSrc core v).zip (s.convRand (s.ctxPart core ctx) sr.toNat idx.toNat)).map fun
    e => convTo f rnd e.2 e.1).map (·.bits)).getD i 0) % 2 ^ 32) ∧
    t.fld (R.coreCtxConv core ctx) F.coreCtxConv_CSPEC = min (s.fld (R.coreCtxConv core ctx) F.coreCtxConv_CSPEC + (((s.convSrc core
    v).zip (s.convRand (s.ctxPart core ctx) sr.toNat idx.toNat)).map fun e => convTo f rnd e.2 e.1).countP (·.spec))
    F.coreCtxConv_CSPEC.max ∧
    t.fld (R.coreCtxConv core ctx) F.coreCtxConv_CSAT = min (s.fld (R.coreCtxConv core ctx) F.coreCtxConv_CSAT + (((s.convSrc core v).zip
    (s.convRand (s.ctxPart core ctx) sr.toNat idx.toNat)).map fun e => convTo f rnd e.2 e.1).countP (·.sat)) F.coreCtxConv_CSAT.max) ∧
  -- vcvt_scaled
  (∀ (s : State) (core : Nat) (ctx : Nat) (v : VInstr) (w : Nat) (f : Nat) (rnd : Nat) (sr : BitVec 32) (idx : Word), s.Inv → core < 64 →
    ctx < 5 → s.vFront core ctx = some w → 0x48 ≤ vOp w → vOp w ≤ 0x4F → vFields w = vKey v → s.vTurn core ctx = true →
    convInvalid v f rnd = false → fmtScale f = 2 →
    Gives (.vcvt core ctx v f rnd sr idx) s fun t => (t.ctxsAt (core * 8 + ctx)).bundle = (s.ctxsAt (core * 8 + ctx)).bundle.drop 1 ∧
    (∀ i, i < 64 →
    t.vregAt ((core * 32 + v.vd % 32) * 64 + i) = (((convSegs f rnd (s.convRand (s.ctxPart core ctx) sr.toNat idx.toNat) (s.convSrc core
    v)).2.map (·.bits)).getD i 0) % 2 ^ 32) ∧
    t.fld (R.coreCtxConv core ctx) F.coreCtxConv_CSPEC = min (s.fld (R.coreCtxConv core ctx) F.coreCtxConv_CSPEC + (convSegs f rnd
    (s.convRand (s.ctxPart core ctx) sr.toNat idx.toNat) (s.convSrc core v)).2.countP (·.spec)) F.coreCtxConv_CSPEC.max ∧
    t.fld (R.coreCtxConv core ctx) F.coreCtxConv_CSAT = min (s.fld (R.coreCtxConv core ctx) F.coreCtxConv_CSAT + (convSegs f rnd
    (s.convRand (s.ctxPart core ctx) sr.toNat idx.toNat) (s.convSrc core v)).2.countP (·.sat)) F.coreCtxConv_CSAT.max) ∧
  -- vcvts
  (∀ (s : State) (core : Nat) (ctx : Nat) (v : VInstr) (w : Nat) (f : Nat) (rnd : Nat) (sr : BitVec 32) (idx : Word), s.Inv → core < 64 →
    ctx < 5 → s.vFront core ctx = some w → 0x48 ≤ vOp w → vOp w ≤ 0x4F → vFields w = vKey v → s.vTurn core ctx = true →
    convInvalid v f rnd = false → v.vd ≤ 30 → fmtScale f ≠ 0 →
    Gives (.vcvts core ctx v f rnd sr idx) s fun t => (t.ctxsAt (core * 8 + ctx)).bundle = (s.ctxsAt (core * 8 + ctx)).bundle.drop 1 ∧
    (∀ i, i < 64 →
    t.vregAt ((core * 32 + v.vd % 32) * 64 + i) = (((convSegs f rnd (s.convRand (s.ctxPart core ctx) sr.toNat idx.toNat) (s.convSrc core
    v)).2.map (·.bits)).getD i 0) % 2 ^ 32) ∧ (∀ i, i < 2 →
    t.vregAt ((core * 32 + v.vd + 1) * 64 + i) = (convSegs f rnd (s.convRand (s.ctxPart core ctx) sr.toNat idx.toNat) (s.convSrc core
    v)).1.getD i 0) ∧
    t.fld (R.coreCtxConv core ctx) F.coreCtxConv_CSPEC = min (s.fld (R.coreCtxConv core ctx) F.coreCtxConv_CSPEC + (convSegs f rnd
    (s.convRand (s.ctxPart core ctx) sr.toNat idx.toNat) (s.convSrc core v)).2.countP (·.spec)) F.coreCtxConv_CSPEC.max ∧
    t.fld (R.coreCtxConv core ctx) F.coreCtxConv_CSAT = min (s.fld (R.coreCtxConv core ctx) F.coreCtxConv_CSAT + (convSegs f rnd
    (s.convRand (s.ctxPart core ctx) sr.toNat idx.toNat) (s.convSrc core v)).2.countP (·.sat)) F.coreCtxConv_CSAT.max) ∧
  -- vladd
  (∀ (s : State) (core : Nat) (ctx : Nat) (v : VInstr) (w : Nat), s.Inv → core < 64 → ctx < 5 → s.vFront core ctx = some w →
    0x50 ≤ vOp w → vOp w ≤ 0x57 → vFields w = vKey v → s.vTurn core ctx = true → (v.res = 0 ∨ s.isChk (s.ctxPart core ctx) = false) →
    Gives (.vladd core ctx v) s fun t => (t.ctxsAt (core * 8 + ctx)).bundle = (s.ctxsAt (core * 8 + ctx)).bundle.drop 1 ∧ ∀ i, i < 16 →
    (lanesL128 (t.vreg64 core v.vd)).getD i 0 = (lanesL128 (s.vreg64 core v.va)).getD i 0 + (lanesL128 (s.vreg64 core v.vb)).getD i 0) ∧
  -- vlcvt
  (∀ (s : State) (core : Nat) (ctx : Nat) (v : VInstr) (w : Nat) (rnd : Nat) (sr : BitVec 32) (idx : Word), s.Inv → core < 64 → ctx < 5 →
    s.vFront core ctx = some w → 0x50 ≤ vOp w → vOp w ≤ 0x57 → vFields w = vKey v → s.vTurn core ctx = true → v.vd ≤ 28 → rnd ≤ 2 →
    Gives (.vlcvt core ctx v rnd sr idx) s fun t => (t.ctxsAt (core * 8 + ctx)).bundle = (s.ctxsAt (core * 8 + ctx)).bundle.drop 1 ∧ (∀ k,
    k < 4 → ∀ i, i < 16 →
    (lanesL128 (t.vreg64 core (v.vd + k))).getD i 0 = BitVec.ofNat 128 (((((s.vreg64 core v.va).zip (s.convRand (s.ctxPart core ctx)
    sr.toNat idx.toNat)).map fun e => convL128 (sext 10 (v.imm.toNat % 1024)) rnd e.2 (laneVal 11 e.1)).map (·.bits)).getD (16 * k + i)
    0)) ∧
    t.fld (R.coreCtxConv core ctx) F.coreCtxConv_CSPEC = min (s.fld (R.coreCtxConv core ctx) F.coreCtxConv_CSPEC + (((s.vreg64 core v.va).zip
    (s.convRand (s.ctxPart core ctx) sr.toNat idx.toNat)).map fun e => convL128 (sext 10 (v.imm.toNat % 1024)) rnd e.2 (laneVal 11
    e.1)).countP (·.spec)) F.coreCtxConv_CSPEC.max ∧
    t.fld (R.coreCtxConv core ctx) F.coreCtxConv_CSAT = min (s.fld (R.coreCtxConv core ctx) F.coreCtxConv_CSAT + (((s.vreg64 core
    v.va).zip (s.convRand (s.ctxPart core ctx) sr.toNat idx.toNat)).map fun e => convL128 (sext 10 (v.imm.toNat % 1024)) rnd e.2 (laneVal
    11 e.1)).countP (·.sat)) F.coreCtxConv_CSAT.max) ∧
  -- move
  (∀ (s : State) (core : Nat) (ctx : Nat) (v : VInstr) (w : Nat) (addr : Nat) (line : Nat) (len : Nat), s.Inv → core < 64 → ctx < 5 →
    s.vFront core ctx = some w → 0x58 ≤ vOp w → vOp w ≤ 0x5F → vFields w = vKey v → s.moveWait core ctx line len = false → len ≤ 65536 →
    s.csOwned (s.ctxPart core ctx) core (line * 64) len = true →
    Gives (.move core ctx v true addr line len) s fun t => t.ctxsAt (core * 8 + ctx) =
    { s.ctxsAt (core * 8 + ctx) with bundle := (s.ctxsAt (core * 8 + ctx)).bundle.drop 1, seq := (s.ctxsAt (core * 8 + ctx)).seq + 1, moves := (s.ctxsAt (core * 8 + ctx)).moves ++ [⟨true, addr, line, len, (s.ctxsAt (core * 8 + ctx)).seq, s.bundlePc core ctx⟩] }
    ∧ (∀ l, l ∈ csLines (line * 64) len → t.pendAt (core * 65536 + l) = 1) ∧ (∀ k, (∀ l, l ∈ csLines (line * 64) len →
    k ≠ core * 65536 + l) → t.pendAt k = s.pendAt k)) ∧
  -- move_waits
  (∀ (s : State) (core : Nat) (ctx : Nat) (v : VInstr) (w : Nat) (addr : Nat) (line : Nat) (len : Nat), s.Inv → core < 64 → ctx < 5 →
    s.vFront core ctx = some w → 0x58 ≤ vOp w → vOp w ≤ 0x5F → vFields w = vKey v → s.moveWait core ctx line len = true →
    Gives (.move core ctx v true addr line len) s fun t => Same (.reg (R.coreSeqStat core)) s t ∧
    bit (t.fld (R.coreSeqStat core) F.coreSeqStat_CTX_WAIT) ctx = true) ∧
  -- move_out
  (∀ (s : State) (core : Nat) (ctx : Nat) (v : VInstr) (w : Nat) (addr : Nat) (line : Nat) (len : Nat), s.Inv → core < 64 → ctx < 5 →
    s.vFront core ctx = some w → 0x58 ≤ vOp w → vOp w ≤ 0x5F → vFields w = vKey v → len ≤ 65536 →
    Gives (.move core ctx v false addr line len) s fun t => Same (.any
    [.entry .ctxs (core * 8 + ctx), .reg (R.coreSeqStat core), pmcFoot (some core)]) s t ∧
    t.ctxsAt (core * 8 + ctx) = { s.ctxsAt (core * 8 + ctx) with bundle := (s.ctxsAt (core * 8 + ctx)).bundle.drop 1, seq := (s.ctxsAt (core * 8 + ctx)).seq + 1, moves := (s.ctxsAt (core * 8 + ctx)).moves ++ [⟨false, addr, line, len, (s.ctxsAt (core * 8 + ctx)).seq, s.bundlePc core ctx⟩] }) ∧
  -- swait
  (∀ (s : State) (core : Nat) (ctx : Nat) (v : VInstr) (w : Nat) (idx : Nat) (val : BitVec 16), s.Inv → core < 64 → ctx < 5 →
    s.vFront core ctx = some w → 0x60 ≤ vOp w → vOp w ≤ 0x63 → vFields w = vKey v → s.syncBad (s.ctxPart core ctx) idx = false →
    s.syncOk (s.ctxPart core ctx) idx val.toNat = true →
    Gives (.swait core ctx v idx val) s fun t => Same (.any [.entry .ctxs (core * 8 + ctx), .reg (R.coreSeqStat core), pmcFoot (some core)])
    s t ∧
    t.ctxsAt (core * 8 + ctx) = { s.ctxsAt (core * 8 + ctx) with wait := none, bundle := (s.ctxsAt (core * 8 + ctx)).bundle.drop 1 } ∧
    bit (t.fld (R.coreSeqStat core) F.coreSeqStat_CTX_WAIT) ctx = false) ∧
  -- swait_waits
  (∀ (s : State) (core : Nat) (ctx : Nat) (v : VInstr) (w : Nat) (idx : Nat) (val : BitVec 16), s.Inv → core < 64 → ctx < 5 →
    s.vFront core ctx = some w → 0x60 ≤ vOp w → vOp w ≤ 0x63 → vFields w = vKey v → s.syncBad (s.ctxPart core ctx) idx = false →
    s.syncOk (s.ctxPart core ctx) idx val.toNat = false →
    Gives (.swait core ctx v idx val) s fun t => Same (.any [.entry .ctxs (core * 8 + ctx), .reg (R.coreSeqStat core)]) s t ∧
    t.ctxsAt (core * 8 + ctx) = { s.ctxsAt (core * 8 + ctx) with wait := some (idx, val.toNat) } ∧
    bit (t.fld (R.coreSeqStat core) F.coreSeqStat_CTX_WAIT) ctx = true) ∧
  -- ssig
  (∀ (s : State) (core : Nat) (ctx : Nat) (v : VInstr) (w : Nat) (idx : Nat), s.Inv → core < 64 → ctx < 5 → s.vFront core ctx = some w →
    0x60 ≤ vOp w → vOp w ≤ 0x63 → vFields w = vKey v →
    Gives (.ssig core ctx v idx) s fun t => Same (.any [.entry .ctxs (core * 8 + ctx), .reg (R.coreSeqStat core), pmcFoot (some core), .whole [.sigq]])
    s t ∧ (t.ctxsAt (core * 8 + ctx)).bundle = (s.ctxsAt (core * 8 + ctx)).bundle.drop 1 ∧
    (t.ctxsAt (core * 8 + ctx)).seq = (s.ctxsAt (core * 8 + ctx)).seq + 1 ∧
    t.sigq = s.sigq ++ [⟨s.ctxPart core ctx, idx, .core core ctx, [], (s.ctxsAt (core * 8 + ctx)).seq, s.bundlePc core ctx⟩])

/-- DSP multiply-accumulate, accumulator and narrowing operations. After 08_dsp.md: Q23 and the accumulator; 08_dsp.md: Programming model. -/
def Obligations.DspAccumulators : Prop :=
  -- dspCmac
  (∀ (s : State) (d : Nat) (sl : Slot) (j : DspJob) (acc : Nat) (a : Nat) (b : Nat), s.Inv → d < 96 → (s.dspsAt d).job = some j →
    j.phase = 1 → bit (s.dspsAt d).done 0 = false → 1 ≤ s.dspOp d (s.dspsAt d).pc 0 → s.dspOp d (s.dspsAt d).pc 0 ≤ 0x0F →
    (s.dspsAt d).wrote.contains (wAcc, acc) = false → sl.mem ≠ 2 → sl.mem ≠ 3 → sl.res = 0 →
    Gives (.dspCmac d sl acc a b) s fun t => (t.dspsAt d).regs =
    { (s.dspsAt d).regs.putAcc acc (addLanes (((s.dspsAt d).snap.getD (s.dspsAt d).regs).accVec acc) (cprod false (((s.dspsAt d).snap.getD (s.dspsAt d).regs).vec a) (((s.dspsAt d).snap.getD (s.dspsAt d).regs).vec b))) with loops := (t.dspsAt d).regs.loops }
    ∧ (∀ k, t.dspMemAt k = s.dspMemAt k) ∧
    t.fld (R.dspCnt d) F.dspCnt_MEM_CE = min (s.fld (R.dspCnt d) F.dspCnt_MEM_CE + sl.ce) F.dspCnt_MEM_CE.max) ∧
  -- dspCmacj
  (∀ (s : State) (d : Nat) (sl : Slot) (j : DspJob) (acc : Nat) (a : Nat) (b : Nat), s.Inv → d < 96 → (s.dspsAt d).job = some j →
    j.phase = 1 → bit (s.dspsAt d).done 0 = false → 1 ≤ s.dspOp d (s.dspsAt d).pc 0 → s.dspOp d (s.dspsAt d).pc 0 ≤ 0x0F →
    (s.dspsAt d).wrote.contains (wAcc, acc) = false → sl.mem ≠ 2 → sl.mem ≠ 3 → sl.res = 0 →
    Gives (.dspCmacj d sl acc a b) s fun t => (t.dspsAt d).regs =
    { (s.dspsAt d).regs.putAcc acc (addLanes (((s.dspsAt d).snap.getD (s.dspsAt d).regs).accVec acc) (cprod true (((s.dspsAt d).snap.getD (s.dspsAt d).regs).vec a) (((s.dspsAt d).snap.getD (s.dspsAt d).regs).vec b))) with loops := (t.dspsAt d).regs.loops }
    ∧ (∀ k, t.dspMemAt k = s.dspMemAt k) ∧
    t.fld (R.dspCnt d) F.dspCnt_MEM_CE = min (s.fld (R.dspCnt d) F.dspCnt_MEM_CE + sl.ce) F.dspCnt_MEM_CE.max) ∧
  -- dspCmul
  (∀ (s : State) (d : Nat) (sl : Slot) (j : DspJob) (acc : Nat) (a : Nat) (b : Nat), s.Inv → d < 96 → (s.dspsAt d).job = some j →
    j.phase = 1 → bit (s.dspsAt d).done 0 = false → 1 ≤ s.dspOp d (s.dspsAt d).pc 0 → s.dspOp d (s.dspsAt d).pc 0 ≤ 0x0F →
    (s.dspsAt d).wrote.contains (wAcc, acc) = false → sl.mem ≠ 2 → sl.mem ≠ 3 → sl.res = 0 →
    Gives (.dspCmul d sl acc a b) s fun t => (t.dspsAt d).regs =
    { (s.dspsAt d).regs.putAcc acc (cprod false (((s.dspsAt d).snap.getD (s.dspsAt d).regs).vec a) (((s.dspsAt d).snap.getD (s.dspsAt d).regs).vec b)) with loops := (t.dspsAt d).regs.loops }
    ∧ (∀ k, t.dspMemAt k = s.dspMemAt k) ∧
    t.fld (R.dspCnt d) F.dspCnt_MEM_CE = min (s.fld (R.dspCnt d) F.dspCnt_MEM_CE + sl.ce) F.dspCnt_MEM_CE.max) ∧
  -- dspRmac
  (∀ (s : State) (d : Nat) (sl : Slot) (j : DspJob) (acc : Nat) (a : Nat) (b : Nat), s.Inv → d < 96 → (s.dspsAt d).job = some j →
    j.phase = 1 → bit (s.dspsAt d).done 0 = false → 1 ≤ s.dspOp d (s.dspsAt d).pc 0 → s.dspOp d (s.dspsAt d).pc 0 ≤ 0x0F →
    (s.dspsAt d).wrote.contains (wAcc, acc) = false → sl.mem ≠ 2 → sl.mem ≠ 3 → sl.res = 0 →
    Gives (.dspRmac d sl acc a b) s fun t => (t.dspsAt d).regs =
    { (s.dspsAt d).regs.putAcc acc (addLanes (((s.dspsAt d).snap.getD (s.dspsAt d).regs).accVec acc) (rprod (((s.dspsAt d).snap.getD (s.dspsAt d).regs).vec a) (((s.dspsAt d).snap.getD (s.dspsAt d).regs).vec b))) with loops := (t.dspsAt d).regs.loops }
    ∧ (∀ k, t.dspMemAt k = s.dspMemAt k) ∧
    t.fld (R.dspCnt d) F.dspCnt_MEM_CE = min (s.fld (R.dspCnt d) F.dspCnt_MEM_CE + sl.ce) F.dspCnt_MEM_CE.max) ∧
  -- dspRmul
  (∀ (s : State) (d : Nat) (sl : Slot) (j : DspJob) (acc : Nat) (a : Nat) (b : Nat), s.Inv → d < 96 → (s.dspsAt d).job = some j →
    j.phase = 1 → bit (s.dspsAt d).done 0 = false → 1 ≤ s.dspOp d (s.dspsAt d).pc 0 → s.dspOp d (s.dspsAt d).pc 0 ≤ 0x0F →
    (s.dspsAt d).wrote.contains (wAcc, acc) = false → sl.mem ≠ 2 → sl.mem ≠ 3 → sl.res = 0 →
    Gives (.dspRmul d sl acc a b) s fun t => (t.dspsAt d).regs =
    { (s.dspsAt d).regs.putAcc acc (rprod (((s.dspsAt d).snap.getD (s.dspsAt d).regs).vec a) (((s.dspsAt d).snap.getD (s.dspsAt d).regs).vec b)) with loops := (t.dspsAt d).regs.loops }
    ∧ (∀ k, t.dspMemAt k = s.dspMemAt k) ∧
    t.fld (R.dspCnt d) F.dspCnt_MEM_CE = min (s.fld (R.dspCnt d) F.dspCnt_MEM_CE + sl.ce) F.dspCnt_MEM_CE.max) ∧
  -- dspAclr
  (∀ (s : State) (d : Nat) (sl : Slot) (j : DspJob) (acc : Nat), s.Inv → d < 96 → (s.dspsAt d).job = some j → j.phase = 1 →
    bit (s.dspsAt d).done 0 = false → 0x10 ≤ s.dspOp d (s.dspsAt d).pc 0 → s.dspOp d (s.dspsAt d).pc 0 ≤ 0x1F →
    (s.dspsAt d).wrote.contains (wAcc, acc) = false → sl.mem ≠ 2 → sl.mem ≠ 3 → sl.res = 0 →
    Gives (.dspAclr d sl acc) s fun t => (t.dspsAt d).regs =
    { (s.dspsAt d).regs.putAcc acc (List.replicate 16 0) with loops := (t.dspsAt d).regs.loops } ∧ (∀ k, t.dspMemAt k = s.dspMemAt k) ∧
    t.fld (R.dspCnt d) F.dspCnt_MEM_CE = min (s.fld (R.dspCnt d) F.dspCnt_MEM_CE + sl.ce) F.dspCnt_MEM_CE.max) ∧
  -- dspAadd
  (∀ (s : State) (d : Nat) (sl : Slot) (j : DspJob) (acc : Nat) (a : Nat) (b : Nat), s.Inv → d < 96 → (s.dspsAt d).job = some j →
    j.phase = 1 → bit (s.dspsAt d).done 0 = false → 0x10 ≤ s.dspOp d (s.dspsAt d).pc 0 → s.dspOp d (s.dspsAt d).pc 0 ≤ 0x1F →
    (s.dspsAt d).wrote.contains (wAcc, acc) = false → sl.mem ≠ 2 → sl.mem ≠ 3 → sl.res = 0 →
    Gives (.dspAadd d sl acc a b) s fun t => (t.dspsAt d).regs =
    { (s.dspsAt d).regs.putAcc acc (addLanes (((s.dspsAt d).snap.getD (s.dspsAt d).regs).accVec a) (((s.dspsAt d).snap.getD (s.dspsAt d).regs).accVec b)) with loops := (t.dspsAt d).regs.loops }
    ∧ (∀ k, t.dspMemAt k = s.dspMemAt k) ∧
    t.fld (R.dspCnt d) F.dspCnt_MEM_CE = min (s.fld (R.dspCnt d) F.dspCnt_MEM_CE + sl.ce) F.dspCnt_MEM_CE.max) ∧
  -- dspAsub
  (∀ (s : State) (d : Nat) (sl : Slot) (j : DspJob) (acc : Nat) (a : Nat) (b : Nat), s.Inv → d < 96 → (s.dspsAt d).job = some j →
    j.phase = 1 → bit (s.dspsAt d).done 0 = false → 0x10 ≤ s.dspOp d (s.dspsAt d).pc 0 → s.dspOp d (s.dspsAt d).pc 0 ≤ 0x1F →
    (s.dspsAt d).wrote.contains (wAcc, acc) = false → sl.mem ≠ 2 → sl.mem ≠ 3 → sl.res = 0 →
    Gives (.dspAsub d sl acc a b) s fun t => (t.dspsAt d).regs =
    { (s.dspsAt d).regs.putAcc acc (((((s.dspsAt d).snap.getD (s.dspsAt d).regs).accVec a).zip (((s.dspsAt d).snap.getD (s.dspsAt d).regs).accVec b)).map fun (x, y) => x - y) with loops := (t.dspsAt d).regs.loops }
    ∧ (∀ k, t.dspMemAt k = s.dspMemAt k) ∧
    t.fld (R.dspCnt d) F.dspCnt_MEM_CE = min (s.fld (R.dspCnt d) F.dspCnt_MEM_CE + sl.ce) F.dspCnt_MEM_CE.max) ∧
  -- dspAshr
  (∀ (s : State) (d : Nat) (sl : Slot) (j : DspJob) (acc : Nat) (a : Nat) (sh : Nat), s.Inv → d < 96 → (s.dspsAt d).job = some j →
    j.phase = 1 → bit (s.dspsAt d).done 0 = false → 0x10 ≤ s.dspOp d (s.dspsAt d).pc 0 → s.dspOp d (s.dspsAt d).pc 0 ≤ 0x1F →
    (s.dspsAt d).wrote.contains (wAcc, acc) = false → sl.mem ≠ 2 → sl.mem ≠ 3 → sl.res = 0 →
    Gives (.dspAshr d sl acc a sh) s fun t => (t.dspsAt d).regs =
    { (s.dspsAt d).regs.putAcc acc ((((s.dspsAt d).snap.getD (s.dspsAt d).regs).accVec a).map fun x => x / 2 ^ sh) with loops := (t.dspsAt d).regs.loops }
    ∧ (∀ k, t.dspMemAt k = s.dspMemAt k) ∧
    t.fld (R.dspCnt d) F.dspCnt_MEM_CE = min (s.fld (R.dspCnt d) F.dspCnt_MEM_CE + sl.ce) F.dspCnt_MEM_CE.max) ∧
  -- dspNrw
  (∀ (s : State) (d : Nat) (sl : Slot) (j : DspJob) (vd : Nat) (acc : Nat) (sh : Int), s.Inv → d < 96 → (s.dspsAt d).job = some j →
    j.phase = 1 → bit (s.dspsAt d).done 0 = false → 0x10 ≤ s.dspOp d (s.dspsAt d).pc 0 → s.dspOp d (s.dspsAt d).pc 0 ≤ 0x1F →
    (s.dspsAt d).wrote.contains (wD, vd) = false → sl.mem ≠ 2 → sl.mem ≠ 3 → sl.res = 0 → -8 ≤ sh → sh ≤ 8 →
    Gives (.dspNrw d sl vd acc sh) s fun t => (t.dspsAt d).regs =
    { (s.dspsAt d).regs.putQ ((s.dspsAt d).snap.getD (s.dspsAt d).regs).sat vd ((((s.dspsAt d).snap.getD (s.dspsAt d).regs).accVec acc).map fun x => shiftInt x (sh - 23)) with loops := (t.dspsAt d).regs.loops }
    ∧ (∀ k, t.dspMemAt k = s.dspMemAt k) ∧
    t.fld (R.dspCnt d) F.dspCnt_MEM_CE = min (s.fld (R.dspCnt d) F.dspCnt_MEM_CE + sl.ce) F.dspCnt_MEM_CE.max)

/-- DSP vector operations. After 08_dsp.md: Q23 and the accumulator; 08_dsp.md: Programming model. -/
def Obligations.DspVectors : Prop :=
  -- dspVadd
  (∀ (s : State) (d : Nat) (sl : Slot) (j : DspJob) (vd : Nat) (a : Nat) (b : Nat), s.Inv → d < 96 → (s.dspsAt d).job = some j →
    j.phase = 1 → bit (s.dspsAt d).done 0 = false → 0x20 ≤ s.dspOp d (s.dspsAt d).pc 0 → s.dspOp d (s.dspsAt d).pc 0 ≤ 0x3F →
    (s.dspsAt d).wrote.contains (wD, vd) = false → sl.mem ≠ 2 → sl.mem ≠ 3 → sl.res = 0 →
    Gives (.dspVadd d sl vd a b) s fun t => (t.dspsAt d).regs =
    { (s.dspsAt d).regs.putQ ((s.dspsAt d).snap.getD (s.dspsAt d).regs).sat vd (zipQ (· + ·) (((s.dspsAt d).snap.getD (s.dspsAt d).regs).vec a) (((s.dspsAt d).snap.getD (s.dspsAt d).regs).vec b)) with loops := (t.dspsAt d).regs.loops }
    ∧ (∀ k, t.dspMemAt k = s.dspMemAt k) ∧
    t.fld (R.dspCnt d) F.dspCnt_MEM_CE = min (s.fld (R.dspCnt d) F.dspCnt_MEM_CE + sl.ce) F.dspCnt_MEM_CE.max) ∧
  -- dspVsub
  (∀ (s : State) (d : Nat) (sl : Slot) (j : DspJob) (vd : Nat) (a : Nat) (b : Nat), s.Inv → d < 96 → (s.dspsAt d).job = some j →
    j.phase = 1 → bit (s.dspsAt d).done 0 = false → 0x20 ≤ s.dspOp d (s.dspsAt d).pc 0 → s.dspOp d (s.dspsAt d).pc 0 ≤ 0x3F →
    (s.dspsAt d).wrote.contains (wD, vd) = false → sl.mem ≠ 2 → sl.mem ≠ 3 → sl.res = 0 →
    Gives (.dspVsub d sl vd a b) s fun t => (t.dspsAt d).regs =
    { (s.dspsAt d).regs.putQ ((s.dspsAt d).snap.getD (s.dspsAt d).regs).sat vd (zipQ (· - ·) (((s.dspsAt d).snap.getD (s.dspsAt d).regs).vec a) (((s.dspsAt d).snap.getD (s.dspsAt d).regs).vec b)) with loops := (t.dspsAt d).regs.loops }
    ∧ (∀ k, t.dspMemAt k = s.dspMemAt k) ∧
    t.fld (R.dspCnt d) F.dspCnt_MEM_CE = min (s.fld (R.dspCnt d) F.dspCnt_MEM_CE + sl.ce) F.dspCnt_MEM_CE.max) ∧
  -- dspVneg
  (∀ (s : State) (d : Nat) (sl : Slot) (j : DspJob) (vd : Nat) (a : Nat), s.Inv → d < 96 → (s.dspsAt d).job = some j → j.phase = 1 →
    bit (s.dspsAt d).done 0 = false → 0x20 ≤ s.dspOp d (s.dspsAt d).pc 0 → s.dspOp d (s.dspsAt d).pc 0 ≤ 0x3F →
    (s.dspsAt d).wrote.contains (wD, vd) = false → sl.mem ≠ 2 → sl.mem ≠ 3 → sl.res = 0 →
    Gives (.dspVneg d sl vd a) s fun t => (t.dspsAt d).regs =
    { (s.dspsAt d).regs.putQ ((s.dspsAt d).snap.getD (s.dspsAt d).regs).sat vd ((((s.dspsAt d).snap.getD (s.dspsAt d).regs).vec a).map fun x => -x) with loops := (t.dspsAt d).regs.loops }
    ∧ (∀ k, t.dspMemAt k = s.dspMemAt k) ∧
    t.fld (R.dspCnt d) F.dspCnt_MEM_CE = min (s.fld (R.dspCnt d) F.dspCnt_MEM_CE + sl.ce) F.dspCnt_MEM_CE.max) ∧
  -- dspVabs
  (∀ (s : State) (d : Nat) (sl : Slot) (j : DspJob) (vd : Nat) (a : Nat), s.Inv → d < 96 → (s.dspsAt d).job = some j → j.phase = 1 →
    bit (s.dspsAt d).done 0 = false → 0x20 ≤ s.dspOp d (s.dspsAt d).pc 0 → s.dspOp d (s.dspsAt d).pc 0 ≤ 0x3F →
    (s.dspsAt d).wrote.contains (wD, vd) = false → sl.mem ≠ 2 → sl.mem ≠ 3 → sl.res = 0 →
    Gives (.dspVabs d sl vd a) s fun t => (t.dspsAt d).regs =
    { (s.dspsAt d).regs.putQ ((s.dspsAt d).snap.getD (s.dspsAt d).regs).sat vd ((((s.dspsAt d).snap.getD (s.dspsAt d).regs).vec a).map fun x => (x.natAbs : Int)) with loops := (t.dspsAt d).regs.loops }
    ∧ (∀ k, t.dspMemAt k = s.dspMemAt k) ∧
    t.fld (R.dspCnt d) F.dspCnt_MEM_CE = min (s.fld (R.dspCnt d) F.dspCnt_MEM_CE + sl.ce) F.dspCnt_MEM_CE.max) ∧
  -- dspVmax
  (∀ (s : State) (d : Nat) (sl : Slot) (j : DspJob) (vd : Nat) (a : Nat) (b : Nat), s.Inv → d < 96 → (s.dspsAt d).job = some j →
    j.phase = 1 → bit (s.dspsAt d).done 0 = false → 0x20 ≤ s.dspOp d (s.dspsAt d).pc 0 → s.dspOp d (s.dspsAt d).pc 0 ≤ 0x3F →
    (s.dspsAt d).wrote.contains (wD, vd) = false → sl.mem ≠ 2 → sl.mem ≠ 3 → sl.res = 0 →
    Gives (.dspVmax d sl vd a b) s fun t => (t.dspsAt d).regs =
    { (s.dspsAt d).regs.putQ ((s.dspsAt d).snap.getD (s.dspsAt d).regs).sat vd (zipQ max (((s.dspsAt d).snap.getD (s.dspsAt d).regs).vec a) (((s.dspsAt d).snap.getD (s.dspsAt d).regs).vec b)) with loops := (t.dspsAt d).regs.loops }
    ∧ (∀ k, t.dspMemAt k = s.dspMemAt k) ∧
    t.fld (R.dspCnt d) F.dspCnt_MEM_CE = min (s.fld (R.dspCnt d) F.dspCnt_MEM_CE + sl.ce) F.dspCnt_MEM_CE.max) ∧
  -- dspVmin
  (∀ (s : State) (d : Nat) (sl : Slot) (j : DspJob) (vd : Nat) (a : Nat) (b : Nat), s.Inv → d < 96 → (s.dspsAt d).job = some j →
    j.phase = 1 → bit (s.dspsAt d).done 0 = false → 0x20 ≤ s.dspOp d (s.dspsAt d).pc 0 → s.dspOp d (s.dspsAt d).pc 0 ≤ 0x3F →
    (s.dspsAt d).wrote.contains (wD, vd) = false → sl.mem ≠ 2 → sl.mem ≠ 3 → sl.res = 0 →
    Gives (.dspVmin d sl vd a b) s fun t => (t.dspsAt d).regs =
    { (s.dspsAt d).regs.putQ ((s.dspsAt d).snap.getD (s.dspsAt d).regs).sat vd (zipQ min (((s.dspsAt d).snap.getD (s.dspsAt d).regs).vec a) (((s.dspsAt d).snap.getD (s.dspsAt d).regs).vec b)) with loops := (t.dspsAt d).regs.loops }
    ∧ (∀ k, t.dspMemAt k = s.dspMemAt k) ∧
    t.fld (R.dspCnt d) F.dspCnt_MEM_CE = min (s.fld (R.dspCnt d) F.dspCnt_MEM_CE + sl.ce) F.dspCnt_MEM_CE.max) ∧
  -- dspVshl
  (∀ (s : State) (d : Nat) (sl : Slot) (j : DspJob) (vd : Nat) (a : Nat) (sh : Nat), s.Inv → d < 96 → (s.dspsAt d).job = some j →
    j.phase = 1 → bit (s.dspsAt d).done 0 = false → 0x20 ≤ s.dspOp d (s.dspsAt d).pc 0 → s.dspOp d (s.dspsAt d).pc 0 ≤ 0x3F →
    (s.dspsAt d).wrote.contains (wD, vd) = false → sl.mem ≠ 2 → sl.mem ≠ 3 → sl.res = 0 →
    Gives (.dspVshl d sl vd a sh) s fun t => (t.dspsAt d).regs =
    { (s.dspsAt d).regs.putQ ((s.dspsAt d).snap.getD (s.dspsAt d).regs).sat vd ((((s.dspsAt d).snap.getD (s.dspsAt d).regs).vec a).map fun x => x * 2 ^ sh) with loops := (t.dspsAt d).regs.loops }
    ∧ (∀ k, t.dspMemAt k = s.dspMemAt k) ∧
    t.fld (R.dspCnt d) F.dspCnt_MEM_CE = min (s.fld (R.dspCnt d) F.dspCnt_MEM_CE + sl.ce) F.dspCnt_MEM_CE.max) ∧
  -- dspVshr
  (∀ (s : State) (d : Nat) (sl : Slot) (j : DspJob) (vd : Nat) (a : Nat) (sh : Nat), s.Inv → d < 96 → (s.dspsAt d).job = some j →
    j.phase = 1 → bit (s.dspsAt d).done 0 = false → 0x20 ≤ s.dspOp d (s.dspsAt d).pc 0 → s.dspOp d (s.dspsAt d).pc 0 ≤ 0x3F →
    (s.dspsAt d).wrote.contains (wD, vd) = false → sl.mem ≠ 2 → sl.mem ≠ 3 → sl.res = 0 →
    Gives (.dspVshr d sl vd a sh) s fun t => (t.dspsAt d).regs =
    { (s.dspsAt d).regs.putQ ((s.dspsAt d).snap.getD (s.dspsAt d).regs).sat vd ((((s.dspsAt d).snap.getD (s.dspsAt d).regs).vec a).map fun x => x / 2 ^ sh) with loops := (t.dspsAt d).regs.loops }
    ∧ (∀ k, t.dspMemAt k = s.dspMemAt k) ∧
    t.fld (R.dspCnt d) F.dspCnt_MEM_CE = min (s.fld (R.dspCnt d) F.dspCnt_MEM_CE + sl.ce) F.dspCnt_MEM_CE.max) ∧
  -- dspVand
  (∀ (s : State) (d : Nat) (sl : Slot) (j : DspJob) (vd : Nat) (a : Nat) (b : Nat), s.Inv → d < 96 → (s.dspsAt d).job = some j →
    j.phase = 1 → bit (s.dspsAt d).done 0 = false → 0x20 ≤ s.dspOp d (s.dspsAt d).pc 0 → s.dspOp d (s.dspsAt d).pc 0 ≤ 0x3F →
    (s.dspsAt d).wrote.contains (wD, vd) = false → sl.mem ≠ 2 → sl.mem ≠ 3 → sl.res = 0 →
    Gives (.dspVand d sl vd a b) s fun t => (t.dspsAt d).regs =
    { (s.dspsAt d).regs.putQ ((s.dspsAt d).snap.getD (s.dspsAt d).regs).sat vd (zipQ (bitsQ (· &&& ·)) (((s.dspsAt d).snap.getD (s.dspsAt d).regs).vec a) (((s.dspsAt d).snap.getD (s.dspsAt d).regs).vec b)) with loops := (t.dspsAt d).regs.loops }
    ∧ (∀ k, t.dspMemAt k = s.dspMemAt k) ∧
    t.fld (R.dspCnt d) F.dspCnt_MEM_CE = min (s.fld (R.dspCnt d) F.dspCnt_MEM_CE + sl.ce) F.dspCnt_MEM_CE.max) ∧
  -- dspVor
  (∀ (s : State) (d : Nat) (sl : Slot) (j : DspJob) (vd : Nat) (a : Nat) (b : Nat), s.Inv → d < 96 → (s.dspsAt d).job = some j →
    j.phase = 1 → bit (s.dspsAt d).done 0 = false → 0x20 ≤ s.dspOp d (s.dspsAt d).pc 0 → s.dspOp d (s.dspsAt d).pc 0 ≤ 0x3F →
    (s.dspsAt d).wrote.contains (wD, vd) = false → sl.mem ≠ 2 → sl.mem ≠ 3 → sl.res = 0 →
    Gives (.dspVor d sl vd a b) s fun t => (t.dspsAt d).regs =
    { (s.dspsAt d).regs.putQ ((s.dspsAt d).snap.getD (s.dspsAt d).regs).sat vd (zipQ (bitsQ (· ||| ·)) (((s.dspsAt d).snap.getD (s.dspsAt d).regs).vec a) (((s.dspsAt d).snap.getD (s.dspsAt d).regs).vec b)) with loops := (t.dspsAt d).regs.loops }
    ∧ (∀ k, t.dspMemAt k = s.dspMemAt k) ∧
    t.fld (R.dspCnt d) F.dspCnt_MEM_CE = min (s.fld (R.dspCnt d) F.dspCnt_MEM_CE + sl.ce) F.dspCnt_MEM_CE.max) ∧
  -- dspVxor
  (∀ (s : State) (d : Nat) (sl : Slot) (j : DspJob) (vd : Nat) (a : Nat) (b : Nat), s.Inv → d < 96 → (s.dspsAt d).job = some j →
    j.phase = 1 → bit (s.dspsAt d).done 0 = false → 0x20 ≤ s.dspOp d (s.dspsAt d).pc 0 → s.dspOp d (s.dspsAt d).pc 0 ≤ 0x3F →
    (s.dspsAt d).wrote.contains (wD, vd) = false → sl.mem ≠ 2 → sl.mem ≠ 3 → sl.res = 0 →
    Gives (.dspVxor d sl vd a b) s fun t => (t.dspsAt d).regs =
    { (s.dspsAt d).regs.putQ ((s.dspsAt d).snap.getD (s.dspsAt d).regs).sat vd (zipQ (bitsQ (· ^^^ ·)) (((s.dspsAt d).snap.getD (s.dspsAt d).regs).vec a) (((s.dspsAt d).snap.getD (s.dspsAt d).regs).vec b)) with loops := (t.dspsAt d).regs.loops }
    ∧ (∀ k, t.dspMemAt k = s.dspMemAt k) ∧
    t.fld (R.dspCnt d) F.dspCnt_MEM_CE = min (s.fld (R.dspCnt d) F.dspCnt_MEM_CE + sl.ce) F.dspCnt_MEM_CE.max) ∧
  -- dspVsel
  (∀ (s : State) (d : Nat) (sl : Slot) (j : DspJob) (vd : Nat) (a : Nat) (b : Nat) (c : Nat), s.Inv → d < 96 →
    (s.dspsAt d).job = some j → j.phase = 1 → bit (s.dspsAt d).done 0 = false → 0x20 ≤ s.dspOp d (s.dspsAt d).pc 0 →
    s.dspOp d (s.dspsAt d).pc 0 ≤ 0x3F → (s.dspsAt d).wrote.contains (wD, vd) = false → sl.mem ≠ 2 → sl.mem ≠ 3 → sl.res = 0 →
    Gives (.dspVsel d sl vd a b c) s fun t => (t.dspsAt d).regs =
    { (s.dspsAt d).regs.putQ ((s.dspsAt d).snap.getD (s.dspsAt d).regs).sat vd (((((s.dspsAt d).snap.getD (s.dspsAt d).regs).vec a).zip ((((s.dspsAt d).snap.getD (s.dspsAt d).regs).vec b).zip (((s.dspsAt d).snap.getD (s.dspsAt d).regs).vec c))).map fun (x, y, z) => if Config.dspSel z then x else y) with loops := (t.dspsAt d).regs.loops }
    ∧ (∀ k, t.dspMemAt k = s.dspMemAt k) ∧
    t.fld (R.dspCnt d) F.dspCnt_MEM_CE = min (s.fld (R.dspCnt d) F.dspCnt_MEM_CE + sl.ce) F.dspCnt_MEM_CE.max) ∧
  -- dspVnorm
  (∀ (s : State) (d : Nat) (sl : Slot) (j : DspJob) (vd : Nat) (a : Nat), s.Inv → d < 96 → (s.dspsAt d).job = some j → j.phase = 1 →
    bit (s.dspsAt d).done 0 = false → 0x40 ≤ s.dspOp d (s.dspsAt d).pc 0 → s.dspOp d (s.dspsAt d).pc 0 ≤ 0x47 →
    (s.dspsAt d).wrote.contains (wD, vd) = false → sl.mem ≠ 2 → sl.mem ≠ 3 →
    Gives (.dspVnorm d sl vd a) s fun t => (t.dspsAt d).regs = { (s.dspsAt d).regs.putQ ((s.dspsAt d).snap.getD (s.dspsAt d).regs).sat vd ((((s.dspsAt d).snap.getD (s.dspsAt d).regs).vec a).map fun x => (signBits x : Int)) with loops := (t.dspsAt d).regs.loops }
    ∧ (∀ k, t.dspMemAt k = s.dspMemAt k) ∧
    t.fld (R.dspCnt d) F.dspCnt_MEM_CE = min (s.fld (R.dspCnt d) F.dspCnt_MEM_CE + sl.ce) F.dspCnt_MEM_CE.max) ∧
  -- dspVrcps
  (∀ (s : State) (d : Nat) (sl : Slot) (j : DspJob) (vd : Nat) (a : Nat), s.Inv → d < 96 → (s.dspsAt d).job = some j → j.phase = 1 →
    bit (s.dspsAt d).done 0 = false → 0x40 ≤ s.dspOp d (s.dspsAt d).pc 0 → s.dspOp d (s.dspsAt d).pc 0 ≤ 0x47 →
    (s.dspsAt d).wrote.contains (wD, vd) = false → sl.mem ≠ 2 → sl.mem ≠ 3 →
    Gives (.dspVrcps d sl vd a) s fun t => (t.dspsAt d).regs = { (s.dspsAt d).regs.putQ ((s.dspsAt d).snap.getD (s.dspsAt d).regs).sat vd ((((s.dspsAt d).snap.getD (s.dspsAt d).regs).vec a).map fun x => sext 24 (wrapTo 24 (rcpSeed x))) with loops := (t.dspsAt d).regs.loops }
    ∧ (∀ k, t.dspMemAt k = s.dspMemAt k) ∧
    t.fld (R.dspCnt d) F.dspCnt_MEM_CE = min (s.fld (R.dspCnt d) F.dspCnt_MEM_CE + sl.ce) F.dspCnt_MEM_CE.max) ∧
  -- dspVadd_residue
  (∀ (s : State) (d : Nat) (sl : Slot) (j : DspJob) (vd : Nat) (a : Nat) (b : Nat), s.Inv → d < 96 → (s.dspsAt d).job = some j →
    j.phase = 1 → bit (s.dspsAt d).done 0 = false → 0x20 ≤ s.dspOp d (s.dspsAt d).pc 0 → s.dspOp d (s.dspsAt d).pc 0 ≤ 0x3F →
    (s.dspsAt d).wrote.contains (wD, vd) = false → sl.mem ≠ 2 → sl.mem ≠ 3 → sl.res = 2 → j.radio = false →
    Gives (.dspVadd d sl vd a b) s fun t => (t.dspsAt d).job = none ∧ t.fld (R.dspFault d) F.dspFault_CODE = 4 ∧
    t.fld (R.dspStat d) F.dspStat_FENCE = 1 ∧ t.fld (R.dspStat d) F.dspStat_SUSPECT = 1 ∧ (t.dspsAt d).regs = (s.dspsAt d).regs)

/-- DSP loads and stores on X and Y. After 08_dsp.md: Q23 and the accumulator; 08_dsp.md: Programming model; 08_dsp.md: Address
generators. -/
def Obligations.DspMemory : Prop :=
  -- dspLdx
  (∀ (s : State) (d : Nat) (sl : Slot) (j : DspJob) (vd : Nat) (ag : Nat), s.Inv → d < 96 → (s.dspsAt d).job = some j → j.phase = 1 →
    bit (s.dspsAt d).done 1 = false → 1 ≤ s.dspOp d (s.dspsAt d).pc 1 → s.dspOp d (s.dspsAt d).pc 1 ≤ 0x0F →
    (s.dspsAt d).wrote.contains (wAg, ag) = false → (s.dspsAt d).wrote.contains (wD, vd) = false → sl.mem ≠ 2 → sl.mem ≠ 3 →
    (((s.dspsAt d).snap.getD (s.dspsAt d).regs).agen ag).mem = 0 →
    ((List.range 16).all (fun k => (((s.dspsAt d).snap.getD (s.dspsAt d).regs).agen ag).word k < 49152) = true) →
    Gives (.dspLdx d sl vd ag) s fun t => (t.dspsAt d).regs =
    { ((s.dspsAt d).regs.setVec vd ((List.range 16).map fun k => sext 24 (s.dmWord d 0 ((((s.dspsAt d).snap.getD (s.dspsAt d).regs).agen ag).word k)))).setAg ag ((((s.dspsAt d).snap.getD (s.dspsAt d).regs).agen ag).next false) with loops := (t.dspsAt d).regs.loops }
    ∧ (∀ k, t.dspMemAt k = s.dspMemAt k)) ∧
  -- dspLdwx
  (∀ (s : State) (d : Nat) (sl : Slot) (j : DspJob) (vd : Nat) (ag : Nat), s.Inv → d < 96 → (s.dspsAt d).job = some j → j.phase = 1 →
    bit (s.dspsAt d).done 1 = false → 1 ≤ s.dspOp d (s.dspsAt d).pc 1 → s.dspOp d (s.dspsAt d).pc 1 ≤ 0x0F →
    (s.dspsAt d).wrote.contains (wAg, ag) = false → (s.dspsAt d).wrote.contains (wD, vd) = false → sl.mem ≠ 2 → sl.mem ≠ 3 →
    (((s.dspsAt d).snap.getD (s.dspsAt d).regs).agen ag).mem = 0 →
    ((List.range 16).all (fun k => (((s.dspsAt d).snap.getD (s.dspsAt d).regs).agen ag).half k / 2 < 49152) = true) →
    Gives (.dspLdwx d sl vd ag) s fun t => (t.dspsAt d).regs =
    { ((s.dspsAt d).regs.setVec vd ((List.range 16).map fun k => sext 16 (s.dmHalf d 0 ((((s.dspsAt d).snap.getD (s.dspsAt d).regs).agen ag).half k)) * 256)).setAg ag ((((s.dspsAt d).snap.getD (s.dspsAt d).regs).agen ag).next false) with loops := (t.dspsAt d).regs.loops }
    ∧ (∀ k, t.dspMemAt k = s.dspMemAt k)) ∧
  -- dspLdsx
  (∀ (s : State) (d : Nat) (sl : Slot) (j : DspJob) (sd : Nat) (ag : Nat), s.Inv → d < 96 → (s.dspsAt d).job = some j → j.phase = 1 →
    bit (s.dspsAt d).done 1 = false → 1 ≤ s.dspOp d (s.dspsAt d).pc 1 → s.dspOp d (s.dspsAt d).pc 1 ≤ 0x0F →
    (s.dspsAt d).wrote.contains (wAg, ag) = false → (s.dspsAt d).wrote.contains (wS, sd) = false → sl.mem ≠ 2 → sl.mem ≠ 3 →
    (((s.dspsAt d).snap.getD (s.dspsAt d).regs).agen ag).mem = 0 → (((s.dspsAt d).snap.getD (s.dspsAt d).regs).agen ag).word 0 < 49152 →
    Gives (.dspLdsx d sl sd ag) s fun t => (t.dspsAt d).regs =
    { ((s.dspsAt d).regs.setS sd (s.dmWord d 0 ((((s.dspsAt d).snap.getD (s.dspsAt d).regs).agen ag).word 0))).setAg ag ((((s.dspsAt d).snap.getD (s.dspsAt d).regs).agen ag).next true) with loops := (t.dspsAt d).regs.loops }
    ∧ (∀ k, t.dspMemAt k = s.dspMemAt k)) ∧
  -- dspStx
  (∀ (s : State) (d : Nat) (sl : Slot) (j : DspJob) (va : Nat) (ag : Nat), s.Inv → d < 96 → (s.dspsAt d).job = some j → j.phase = 1 →
    bit (s.dspsAt d).done 1 = false → 1 ≤ s.dspOp d (s.dspsAt d).pc 1 → s.dspOp d (s.dspsAt d).pc 1 ≤ 0x0F →
    (s.dspsAt d).wrote.contains (wAg, ag) = false → sl.mem ≠ 2 → sl.mem ≠ 3 →
    (((s.dspsAt d).snap.getD (s.dspsAt d).regs).agen ag).mem = 0 →
    ((List.range 16).all (fun k => (((s.dspsAt d).snap.getD (s.dspsAt d).regs).agen ag).word k < 49152) = true) →
    Gives (.dspStx d sl va ag) s fun t => (t.dspsAt d).regs =
    { (s.dspsAt d).regs.setAg ag ((((s.dspsAt d).snap.getD (s.dspsAt d).regs).agen ag).next false) with loops := (t.dspsAt d).regs.loops }
    ∧ (∀ k, k < 16 → (∀ l, l < 16 → k < l →
    (((s.dspsAt d).snap.getD (s.dspsAt d).regs).agen ag).word l ≠ (((s.dspsAt d).snap.getD (s.dspsAt d).regs).agen ag).word k) →
    t.dmWord d 0 ((((s.dspsAt d).snap.getD (s.dspsAt d).regs).agen ag).word k) = wrapTo 32 (((s.dspsAt d).snap.getD (s.dspsAt
    d).regs).lane va k)) ∧ ∀ a, (∀ k, k < 16 → a ≠ dmKey d 0 ((((s.dspsAt d).snap.getD (s.dspsAt d).regs).agen ag).word k)) →
    t.dspMemAt a = s.dspMemAt a) ∧
  -- dspStnx
  (∀ (s : State) (d : Nat) (sl : Slot) (j : DspJob) (va : Nat) (ag : Nat), s.Inv → d < 96 → (s.dspsAt d).job = some j → j.phase = 1 →
    bit (s.dspsAt d).done 1 = false → 1 ≤ s.dspOp d (s.dspsAt d).pc 1 → s.dspOp d (s.dspsAt d).pc 1 ≤ 0x0F →
    (s.dspsAt d).wrote.contains (wAg, ag) = false → sl.mem ≠ 2 → sl.mem ≠ 3 → sl.res = 0 →
    (((s.dspsAt d).snap.getD (s.dspsAt d).regs).agen ag).mem = 0 →
    ((List.range 16).all (fun k => (((s.dspsAt d).snap.getD (s.dspsAt d).regs).agen ag).half k / 2 < 49152) = true) →
    Gives (.dspStnx d sl va ag) s fun t => (t.dspsAt d).regs =
    { (s.dspsAt d).regs.setAg ag ((((s.dspsAt d).snap.getD (s.dspsAt d).regs).agen ag).next false) with loops := (t.dspsAt d).regs.loops }
    ∧ (∀ k, k < 16 → (∀ l, l < 16 → k < l →
    (((s.dspsAt d).snap.getD (s.dspsAt d).regs).agen ag).half l ≠ (((s.dspsAt d).snap.getD (s.dspsAt d).regs).agen ag).half k) →
    t.dmHalf d 0 ((((s.dspsAt d).snap.getD (s.dspsAt d).regs).agen ag).half k) = wrapTo 16 (((s.dspsAt d).snap.getD (s.dspsAt
    d).regs).lane va k / 256)) ∧ ∀ h, (∀ k, k < 16 → h ≠ (((s.dspsAt d).snap.getD (s.dspsAt d).regs).agen ag).half k) →
    t.dmHalf d 0 h = s.dmHalf d 0 h) ∧
  -- dspStsx
  (∀ (s : State) (d : Nat) (sl : Slot) (j : DspJob) (sa : Nat) (ag : Nat), s.Inv → d < 96 → (s.dspsAt d).job = some j → j.phase = 1 →
    bit (s.dspsAt d).done 1 = false → 1 ≤ s.dspOp d (s.dspsAt d).pc 1 → s.dspOp d (s.dspsAt d).pc 1 ≤ 0x0F →
    (s.dspsAt d).wrote.contains (wAg, ag) = false → sl.mem ≠ 2 → sl.mem ≠ 3 →
    (((s.dspsAt d).snap.getD (s.dspsAt d).regs).agen ag).mem = 0 → (((s.dspsAt d).snap.getD (s.dspsAt d).regs).agen ag).word 0 < 49152 →
    Gives (.dspStsx d sl sa ag) s fun t => (t.dspsAt d).regs =
    { (s.dspsAt d).regs.setAg ag ((((s.dspsAt d).snap.getD (s.dspsAt d).regs).agen ag).next true) with loops := (t.dspsAt d).regs.loops }
    ∧ t.dmWord d 0 ((((s.dspsAt d).snap.getD (s.dspsAt d).regs).agen ag).word 0) = ((s.dspsAt d).snap.getD (s.dspsAt d).regs).sreg sa % 2
    ^ 32 ∧ ∀ a, a ≠ dmKey d 0 ((((s.dspsAt d).snap.getD (s.dspsAt d).regs).agen ag).word 0) → t.dspMemAt a = s.dspMemAt a) ∧
  -- dspLdy
  (∀ (s : State) (d : Nat) (sl : Slot) (j : DspJob) (vd : Nat) (ag : Nat), s.Inv → d < 96 → (s.dspsAt d).job = some j → j.phase = 1 →
    bit (s.dspsAt d).done 2 = false → 1 ≤ s.dspOp d (s.dspsAt d).pc 2 → s.dspOp d (s.dspsAt d).pc 2 ≤ 0x0F →
    (s.dspsAt d).wrote.contains (wAg, ag) = false → (s.dspsAt d).wrote.contains (wD, vd) = false → sl.mem ≠ 2 → sl.mem ≠ 3 →
    (((s.dspsAt d).snap.getD (s.dspsAt d).regs).agen ag).mem = 1 →
    ((List.range 16).all (fun k => (((s.dspsAt d).snap.getD (s.dspsAt d).regs).agen ag).word k < 49152) = true) →
    Gives (.dspLdy d sl vd ag) s fun t => (t.dspsAt d).regs =
    { ((s.dspsAt d).regs.setVec vd ((List.range 16).map fun k => sext 24 (s.dmWord d 1 ((((s.dspsAt d).snap.getD (s.dspsAt d).regs).agen ag).word k)))).setAg ag ((((s.dspsAt d).snap.getD (s.dspsAt d).regs).agen ag).next false) with loops := (t.dspsAt d).regs.loops }
    ∧ (∀ k, t.dspMemAt k = s.dspMemAt k)) ∧
  -- dspLdwy
  (∀ (s : State) (d : Nat) (sl : Slot) (j : DspJob) (vd : Nat) (ag : Nat), s.Inv → d < 96 → (s.dspsAt d).job = some j → j.phase = 1 →
    bit (s.dspsAt d).done 2 = false → 1 ≤ s.dspOp d (s.dspsAt d).pc 2 → s.dspOp d (s.dspsAt d).pc 2 ≤ 0x0F →
    (s.dspsAt d).wrote.contains (wAg, ag) = false → (s.dspsAt d).wrote.contains (wD, vd) = false → sl.mem ≠ 2 → sl.mem ≠ 3 →
    (((s.dspsAt d).snap.getD (s.dspsAt d).regs).agen ag).mem = 1 →
    ((List.range 16).all (fun k => (((s.dspsAt d).snap.getD (s.dspsAt d).regs).agen ag).half k / 2 < 49152) = true) →
    Gives (.dspLdwy d sl vd ag) s fun t => (t.dspsAt d).regs =
    { ((s.dspsAt d).regs.setVec vd ((List.range 16).map fun k => sext 16 (s.dmHalf d 1 ((((s.dspsAt d).snap.getD (s.dspsAt d).regs).agen ag).half k)) * 256)).setAg ag ((((s.dspsAt d).snap.getD (s.dspsAt d).regs).agen ag).next false) with loops := (t.dspsAt d).regs.loops }
    ∧ (∀ k, t.dspMemAt k = s.dspMemAt k)) ∧
  -- dspLdsy
  (∀ (s : State) (d : Nat) (sl : Slot) (j : DspJob) (sd : Nat) (ag : Nat), s.Inv → d < 96 → (s.dspsAt d).job = some j → j.phase = 1 →
    bit (s.dspsAt d).done 2 = false → 1 ≤ s.dspOp d (s.dspsAt d).pc 2 → s.dspOp d (s.dspsAt d).pc 2 ≤ 0x0F →
    (s.dspsAt d).wrote.contains (wAg, ag) = false → (s.dspsAt d).wrote.contains (wS, sd) = false → sl.mem ≠ 2 → sl.mem ≠ 3 →
    (((s.dspsAt d).snap.getD (s.dspsAt d).regs).agen ag).mem = 1 → (((s.dspsAt d).snap.getD (s.dspsAt d).regs).agen ag).word 0 < 49152 →
    Gives (.dspLdsy d sl sd ag) s fun t => (t.dspsAt d).regs =
    { ((s.dspsAt d).regs.setS sd (s.dmWord d 1 ((((s.dspsAt d).snap.getD (s.dspsAt d).regs).agen ag).word 0))).setAg ag ((((s.dspsAt d).snap.getD (s.dspsAt d).regs).agen ag).next true) with loops := (t.dspsAt d).regs.loops }
    ∧ (∀ k, t.dspMemAt k = s.dspMemAt k)) ∧
  -- dspSty
  (∀ (s : State) (d : Nat) (sl : Slot) (j : DspJob) (va : Nat) (ag : Nat), s.Inv → d < 96 → (s.dspsAt d).job = some j → j.phase = 1 →
    bit (s.dspsAt d).done 2 = false → 1 ≤ s.dspOp d (s.dspsAt d).pc 2 → s.dspOp d (s.dspsAt d).pc 2 ≤ 0x0F →
    (s.dspsAt d).wrote.contains (wAg, ag) = false → sl.mem ≠ 2 → sl.mem ≠ 3 →
    (((s.dspsAt d).snap.getD (s.dspsAt d).regs).agen ag).mem = 1 →
    ((List.range 16).all (fun k => (((s.dspsAt d).snap.getD (s.dspsAt d).regs).agen ag).word k < 49152) = true) →
    Gives (.dspSty d sl va ag) s fun t => (t.dspsAt d).regs =
    { (s.dspsAt d).regs.setAg ag ((((s.dspsAt d).snap.getD (s.dspsAt d).regs).agen ag).next false) with loops := (t.dspsAt d).regs.loops }
    ∧ (∀ k, k < 16 → (∀ l, l < 16 → k < l →
    (((s.dspsAt d).snap.getD (s.dspsAt d).regs).agen ag).word l ≠ (((s.dspsAt d).snap.getD (s.dspsAt d).regs).agen ag).word k) →
    t.dmWord d 1 ((((s.dspsAt d).snap.getD (s.dspsAt d).regs).agen ag).word k) = wrapTo 32 (((s.dspsAt d).snap.getD (s.dspsAt
    d).regs).lane va k)) ∧ ∀ a, (∀ k, k < 16 → a ≠ dmKey d 1 ((((s.dspsAt d).snap.getD (s.dspsAt d).regs).agen ag).word k)) →
    t.dspMemAt a = s.dspMemAt a) ∧
  -- dspStny
  (∀ (s : State) (d : Nat) (sl : Slot) (j : DspJob) (va : Nat) (ag : Nat), s.Inv → d < 96 → (s.dspsAt d).job = some j → j.phase = 1 →
    bit (s.dspsAt d).done 2 = false → 1 ≤ s.dspOp d (s.dspsAt d).pc 2 → s.dspOp d (s.dspsAt d).pc 2 ≤ 0x0F →
    (s.dspsAt d).wrote.contains (wAg, ag) = false → sl.mem ≠ 2 → sl.mem ≠ 3 → sl.res = 0 →
    (((s.dspsAt d).snap.getD (s.dspsAt d).regs).agen ag).mem = 1 →
    ((List.range 16).all (fun k => (((s.dspsAt d).snap.getD (s.dspsAt d).regs).agen ag).half k / 2 < 49152) = true) →
    Gives (.dspStny d sl va ag) s fun t => (t.dspsAt d).regs =
    { (s.dspsAt d).regs.setAg ag ((((s.dspsAt d).snap.getD (s.dspsAt d).regs).agen ag).next false) with loops := (t.dspsAt d).regs.loops }
    ∧ (∀ k, k < 16 → (∀ l, l < 16 → k < l →
    (((s.dspsAt d).snap.getD (s.dspsAt d).regs).agen ag).half l ≠ (((s.dspsAt d).snap.getD (s.dspsAt d).regs).agen ag).half k) →
    t.dmHalf d 1 ((((s.dspsAt d).snap.getD (s.dspsAt d).regs).agen ag).half k) = wrapTo 16 (((s.dspsAt d).snap.getD (s.dspsAt
    d).regs).lane va k / 256)) ∧ ∀ h, (∀ k, k < 16 → h ≠ (((s.dspsAt d).snap.getD (s.dspsAt d).regs).agen ag).half k) →
    t.dmHalf d 1 h = s.dmHalf d 1 h) ∧
  -- dspStsy
  (∀ (s : State) (d : Nat) (sl : Slot) (j : DspJob) (sa : Nat) (ag : Nat), s.Inv → d < 96 → (s.dspsAt d).job = some j → j.phase = 1 →
    bit (s.dspsAt d).done 2 = false → 1 ≤ s.dspOp d (s.dspsAt d).pc 2 → s.dspOp d (s.dspsAt d).pc 2 ≤ 0x0F →
    (s.dspsAt d).wrote.contains (wAg, ag) = false → sl.mem ≠ 2 → sl.mem ≠ 3 →
    (((s.dspsAt d).snap.getD (s.dspsAt d).regs).agen ag).mem = 1 → (((s.dspsAt d).snap.getD (s.dspsAt d).regs).agen ag).word 0 < 49152 →
    Gives (.dspStsy d sl sa ag) s fun t => (t.dspsAt d).regs =
    { (s.dspsAt d).regs.setAg ag ((((s.dspsAt d).snap.getD (s.dspsAt d).regs).agen ag).next true) with loops := (t.dspsAt d).regs.loops }
    ∧ t.dmWord d 1 ((((s.dspsAt d).snap.getD (s.dspsAt d).regs).agen ag).word 0) = ((s.dspsAt d).snap.getD (s.dspsAt d).regs).sreg sa % 2
    ^ 32 ∧ ∀ a, a ≠ dmKey d 1 ((((s.dspsAt d).snap.getD (s.dspsAt d).regs).agen ag).word 0) → t.dspMemAt a = s.dspMemAt a) ∧
  -- dspLdx_outside
  (∀ (s : State) (d : Nat) (sl : Slot) (j : DspJob) (vd : Nat) (ag : Nat), s.Inv → d < 96 → (s.dspsAt d).job = some j → j.phase = 1 →
    bit (s.dspsAt d).done 1 = false → 1 ≤ s.dspOp d (s.dspsAt d).pc 1 → s.dspOp d (s.dspsAt d).pc 1 ≤ 0x0F →
    (s.dspsAt d).wrote.contains (wAg, ag) = false → (s.dspsAt d).wrote.contains (wD, vd) = false → sl.mem ≠ 2 → sl.mem ≠ 3 →
    (((s.dspsAt d).snap.getD (s.dspsAt d).regs).agen ag).mem = 0 →
    ((List.range 16).any (fun k => 49152 ≤ (((s.dspsAt d).snap.getD (s.dspsAt d).regs).agen ag).word k) = true) →
    Gives (.dspLdx d sl vd ag) s fun t => (t.dspsAt d).job = none ∧ t.fld (R.dspFault d) F.dspFault_CODE = 2 ∧
    (t.dspsAt d).regs = (s.dspsAt d).regs)

/-- DSP branches, calls, ends and loops. After 08_dsp.md: Programming model; 08_dsp.md: Hardware loops and the loop cache; 08_dsp.md:
Jobs. -/
def Obligations.DspControl : Prop :=
  -- dspBr
  (∀ (s : State) (d : Nat) (sl : Slot) (j : DspJob) (target : Nat) (g : Nat), s.Inv → d < 96 → (s.dspsAt d).job = some j → j.phase = 1 →
    bit (s.dspsAt d).done 3 = false → 1 ≤ s.dspOp d (s.dspsAt d).pc 3 → s.dspOp d (s.dspsAt d).pc 3 ≤ 0x1F → sl.mem ≠ 2 → sl.mem ≠ 3 →
    g = target % 8192 → ((List.range 4).any (fun i => opBad i (s.dspOp d (s.dspsAt d).pc i)) = false) →
    setBit (s.dspsAt d).done 3 = s.dspSlots d (s.dspsAt d).pc → ((List.range 4).any (fun i => opBad i (s.dspOp d g i)) = false) →
    s.dspSlots d g ≠ 0 →
    Gives (.dspBr d sl target) s fun t => t.dspsAt d = { (s.dspsAt d) with pc := g, snap := none, done := 0, wrote := [], jump := none }) ∧
  -- dspBr_waits
  (∀ (s : State) (d : Nat) (sl : Slot) (j : DspJob) (target : Nat), s.Inv → d < 96 → (s.dspsAt d).job = some j → j.phase = 1 →
    bit (s.dspsAt d).done 3 = false → 1 ≤ s.dspOp d (s.dspsAt d).pc 3 → s.dspOp d (s.dspsAt d).pc 3 ≤ 0x1F → sl.mem ≠ 2 → sl.mem ≠ 3 →
    ((List.range 4).any (fun i => opBad i (s.dspOp d (s.dspsAt d).pc i)) = false) →
    setBit (s.dspsAt d).done 3 ≠ s.dspSlots d (s.dspsAt d).pc → sl.mem = 0 →
    Gives (.dspBr d sl target) s fun t => Same (.any [.entry .dsps d, .reg (R.dspCnt d)]) s t ∧
    t.dspsAt d = { (s.dspsAt d) with jump := some (target % 8192), snap := some ((s.dspsAt d).snap.getD (s.dspsAt d).regs), done := setBit (s.dspsAt d).done 3 }) ∧
  -- dspBrc
  (∀ (s : State) (d : Nat) (sl : Slot) (j : DspJob) (c : Nat) (a : Nat) (b : Nat) (target : Nat) (g : Nat), s.Inv → d < 96 →
    (s.dspsAt d).job = some j → j.phase = 1 → bit (s.dspsAt d).done 3 = false → 1 ≤ s.dspOp d (s.dspsAt d).pc 3 →
    s.dspOp d (s.dspsAt d).pc 3 ≤ 0x1F → sl.mem ≠ 2 → sl.mem ≠ 3 →
    dspCond c (((s.dspsAt d).snap.getD (s.dspsAt d).regs).sreg a) (((s.dspsAt d).snap.getD (s.dspsAt d).regs).sreg b) = true →
    g = target % 8192 → ((List.range 4).any (fun i => opBad i (s.dspOp d (s.dspsAt d).pc i)) = false) →
    setBit (s.dspsAt d).done 3 = s.dspSlots d (s.dspsAt d).pc → ((List.range 4).any (fun i => opBad i (s.dspOp d g i)) = false) →
    s.dspSlots d g ≠ 0 →
    Gives (.dspBrc d sl c a b target) s fun t => t.dspsAt d = { (s.dspsAt d) with pc := g, snap := none, done := 0, wrote := [], jump := none }) ∧
  -- dspBrc_waits
  (∀ (s : State) (d : Nat) (sl : Slot) (j : DspJob) (c : Nat) (a : Nat) (b : Nat) (target : Nat), s.Inv → d < 96 →
    (s.dspsAt d).job = some j → j.phase = 1 → bit (s.dspsAt d).done 3 = false → 1 ≤ s.dspOp d (s.dspsAt d).pc 3 →
    s.dspOp d (s.dspsAt d).pc 3 ≤ 0x1F → sl.mem ≠ 2 → sl.mem ≠ 3 →
    ((List.range 4).any (fun i => opBad i (s.dspOp d (s.dspsAt d).pc i)) = false) →
    setBit (s.dspsAt d).done 3 ≠ s.dspSlots d (s.dspsAt d).pc → sl.mem = 0 → (s.dspsAt d).jump = none →
    Gives (.dspBrc d sl c a b target) s fun t => Same (.any [.entry .dsps d, .reg (R.dspCnt d)]) s t ∧
    t.dspsAt d = { (s.dspsAt d) with jump := if dspCond c (((s.dspsAt d).snap.getD (s.dspsAt d).regs).sreg a) (((s.dspsAt d).snap.getD (s.dspsAt d).regs).sreg b) then some (target % 8192) else none, snap := some ((s.dspsAt d).snap.getD (s.dspsAt d).regs), done := setBit (s.dspsAt d).done 3 }) ∧
  -- dspCall
  (∀ (s : State) (d : Nat) (sl : Slot) (j : DspJob) (target : Nat) (g : Nat), s.Inv → d < 96 → (s.dspsAt d).job = some j → j.phase = 1 →
    bit (s.dspsAt d).done 3 = false → 1 ≤ s.dspOp d (s.dspsAt d).pc 3 → s.dspOp d (s.dspsAt d).pc 3 ≤ 0x1F → sl.mem ≠ 2 → sl.mem ≠ 3 →
    g = target % 8192 → ((List.range 4).any (fun i => opBad i (s.dspOp d (s.dspsAt d).pc i)) = false) →
    setBit (s.dspsAt d).done 3 = s.dspSlots d (s.dspsAt d).pc → ((List.range 4).any (fun i => opBad i (s.dspOp d g i)) = false) →
    s.dspSlots d g ≠ 0 →
    Gives (.dspCall d sl target) s fun t => t.dspsAt d = { (s.dspsAt d) with pc := g, regs := { (s.dspsAt d).regs with rets := ((s.dspsAt d).pc + 1) % 8192 :: (s.dspsAt d).regs.rets }, snap := none, done := 0, wrote := [], jump := none }) ∧
  -- dspRet
  (∀ (s : State) (d : Nat) (sl : Slot) (j : DspJob) (g : Nat) (l : List Nat), s.Inv → d < 96 → (s.dspsAt d).job = some j → j.phase = 1 →
    bit (s.dspsAt d).done 3 = false → 1 ≤ s.dspOp d (s.dspsAt d).pc 3 → s.dspOp d (s.dspsAt d).pc 3 ≤ 0x1F → sl.mem ≠ 2 → sl.mem ≠ 3 →
    ((s.dspsAt d).snap.getD (s.dspsAt d).regs).rets = g :: l → g < 8192 →
    ((List.range 4).any (fun i => opBad i (s.dspOp d (s.dspsAt d).pc i)) = false) →
    setBit (s.dspsAt d).done 3 = s.dspSlots d (s.dspsAt d).pc → ((List.range 4).any (fun i => opBad i (s.dspOp d g i)) = false) →
    s.dspSlots d g ≠ 0 →
    Gives (.dspRet d sl) s fun t => t.dspsAt d = { (s.dspsAt d) with pc := g, regs := { (s.dspsAt d).regs with rets := l }, snap := none, done := 0, wrote := [], jump := none }) ∧
  -- dspRet_empty
  (∀ (s : State) (d : Nat) (sl : Slot) (j : DspJob), s.Inv → d < 96 → (s.dspsAt d).job = some j → j.phase = 1 →
    bit (s.dspsAt d).done 3 = false → 1 ≤ s.dspOp d (s.dspsAt d).pc 3 → s.dspOp d (s.dspsAt d).pc 3 ≤ 0x1F → sl.mem ≠ 2 → sl.mem ≠ 3 →
    ((s.dspsAt d).snap.getD (s.dspsAt d).regs).rets = [] → Gives (.dspRet d sl) s fun t => (t.dspsAt d).job = none ∧
    t.fld (R.dspFault d) F.dspFault_CODE = 1) ∧
  -- dspEnd
  (∀ (s : State) (d : Nat) (sl : Slot) (j : DspJob), s.Inv → d < 96 → (s.dspsAt d).job = some j → j.phase = 1 →
    bit (s.dspsAt d).done 3 = false → 1 ≤ s.dspOp d (s.dspsAt d).pc 3 → s.dspOp d (s.dspsAt d).pc 3 ≤ 0x1F → sl.mem ≠ 2 → sl.mem ≠ 3 →
    ((List.range 4).any (fun i => opBad i (s.dspOp d (s.dspsAt d).pc i)) = false) →
    setBit (s.dspsAt d).done 3 = s.dspSlots d (s.dspsAt d).pc →
    Gives (.dspEnd d sl) s fun t => t.dspsAt d = { (s.dspsAt d) with job := some { j with phase := 2, endTick := s.tick, endAt := s.clk.cyc }, snap := none, done := 0, wrote := [], jump := none }
    ∧ t.fld (R.dspStat d) F.dspStat_MOVING = (if bits (j.words.getD 1 0) 15 12 = 0 then 0 else 1)) ∧
  -- dspLoop
  (∀ (s : State) (d : Nat) (sl : Slot) (j : DspJob) (reg : Bool) (count : Nat) (off : Nat) (n : Nat) (g : Nat), s.Inv → d < 96 →
    (s.dspsAt d).job = some j → j.phase = 1 → bit (s.dspsAt d).done 3 = false → 1 ≤ s.dspOp d (s.dspsAt d).pc 3 →
    s.dspOp d (s.dspsAt d).pc 3 ≤ 0x1F → sl.mem ≠ 2 → sl.mem ≠ 3 →
    n = (if reg then ((s.dspsAt d).snap.getD (s.dspsAt d).regs).sreg count else count) % 65536 → n ≠ 0 → off ≠ 0 →
    ((s.dspsAt d).snap.getD (s.dspsAt d).regs).loops.length < 4 → g = ((s.dspsAt d).pc + 1) % 8192 →
    s.loopFits d (s.dspsAt d).pc off = false → ((List.range 4).any (fun i => opBad i (s.dspOp d (s.dspsAt d).pc i)) = false) →
    setBit (s.dspsAt d).done 3 = s.dspSlots d (s.dspsAt d).pc → ((List.range 4).any (fun i => opBad i (s.dspOp d g i)) = false) →
    s.dspSlots d g ≠ 0 →
    Gives (.dspLoop d sl reg count off) s fun t => t.dspsAt d = { (s.dspsAt d) with pc := g, regs := { (s.dspsAt d).regs with loops := ⟨n, g, ((s.dspsAt d).pc + off) % 8192⟩ :: (s.dspsAt d).regs.loops }, snap := none, done := 0, wrote := [], jump := none }) ∧
  -- dspLoop_held
  (∀ (s : State) (d : Nat) (sl : Slot) (j : DspJob) (reg : Bool) (count : Nat) (off : Nat) (n : Nat) (g : Nat), s.Inv → d < 96 →
    (s.dspsAt d).job = some j → j.phase = 1 → bit (s.dspsAt d).done 3 = false → 1 ≤ s.dspOp d (s.dspsAt d).pc 3 →
    s.dspOp d (s.dspsAt d).pc 3 ≤ 0x1F → sl.mem ≠ 2 → sl.mem ≠ 3 →
    n = (if reg then ((s.dspsAt d).snap.getD (s.dspsAt d).regs).sreg count else count) % 65536 → n ≠ 0 → off ≠ 0 →
    ((s.dspsAt d).snap.getD (s.dspsAt d).regs).loops.length < 4 → g = ((s.dspsAt d).pc + 1) % 8192 →
    s.loopFits d (s.dspsAt d).pc off = true → ((List.range 4).any (fun i => opBad i (s.dspOp d (s.dspsAt d).pc i)) = false) →
    setBit (s.dspsAt d).done 3 = s.dspSlots d (s.dspsAt d).pc → ((List.range 4).any (fun i => opBad i (s.dspOp d g i)) = false) →
    s.dspSlots d g ≠ 0 →
    Gives (.dspLoop d sl reg count off) s fun t => t.dspsAt d = { (s.dspsAt d) with pc := g, held := some (g, ((s.dspsAt d).pc + off) % 8192), regs := { (s.dspsAt d).regs with loops := ⟨n, g, ((s.dspsAt d).pc + off) % 8192⟩ :: (s.dspsAt d).regs.loops }, snap := none, done := 0, wrote := [], jump := none }
    ∧ t.fld (R.dspStat d) F.dspStat_LOOP_HELD = 1) ∧
  -- dspLoop_zero
  (∀ (s : State) (d : Nat) (sl : Slot) (j : DspJob) (reg : Bool) (count : Nat) (off : Nat) (g : Nat), s.Inv → d < 96 →
    (s.dspsAt d).job = some j → j.phase = 1 → bit (s.dspsAt d).done 3 = false → 1 ≤ s.dspOp d (s.dspsAt d).pc 3 →
    s.dspOp d (s.dspsAt d).pc 3 ≤ 0x1F → sl.mem ≠ 2 → sl.mem ≠ 3 →
    (if reg then ((s.dspsAt d).snap.getD (s.dspsAt d).regs).sreg count else count) % 65536 = 0 →
    ((s.dspsAt d).snap.getD (s.dspsAt d).regs).loops.length < 4 → g = ((s.dspsAt d).pc + off + 1) % 8192 →
    ((List.range 4).any (fun i => opBad i (s.dspOp d (s.dspsAt d).pc i)) = false) →
    setBit (s.dspsAt d).done 3 = s.dspSlots d (s.dspsAt d).pc → ((List.range 4).any (fun i => opBad i (s.dspOp d g i)) = false) →
    s.dspSlots d g ≠ 0 →
    Gives (.dspLoop d sl reg count off) s fun t => t.dspsAt d = { (s.dspsAt d) with pc := g, snap := none, done := 0, wrote := [], jump := none })

/-- DSP scalars, address generators and modes. After 08_dsp.md: Programming model; 08_dsp.md: Address generators. -/
def Obligations.DspScalars : Prop :=
  -- dspSadd
  (∀ (s : State) (d : Nat) (sl : Slot) (j : DspJob) (sd : Nat) (a : Nat) (b : Nat), s.Inv → d < 96 → (s.dspsAt d).job = some j →
    j.phase = 1 → bit (s.dspsAt d).done 3 = false → 0x20 ≤ s.dspOp d (s.dspsAt d).pc 3 → s.dspOp d (s.dspsAt d).pc 3 ≤ 0x3F →
    (s.dspsAt d).wrote.contains (wS, sd) = false → sl.mem ≠ 2 → sl.mem ≠ 3 →
    Gives (.dspSadd d sl sd a b) s fun t => (t.dspsAt d).regs = { (s.dspsAt d).regs.setS sd (((s.dspsAt d).snap.getD (s.dspsAt d).regs).sreg a + ((s.dspsAt d).snap.getD (s.dspsAt d).regs).sreg b) with loops := (t.dspsAt d).regs.loops }
    ∧ (∀ k, t.dspMemAt k = s.dspMemAt k) ∧
    t.fld (R.dspCnt d) F.dspCnt_MEM_CE = min (s.fld (R.dspCnt d) F.dspCnt_MEM_CE + sl.ce) F.dspCnt_MEM_CE.max) ∧
  -- dspSsub
  (∀ (s : State) (d : Nat) (sl : Slot) (j : DspJob) (sd : Nat) (a : Nat) (b : Nat), s.Inv → d < 96 → (s.dspsAt d).job = some j →
    j.phase = 1 → bit (s.dspsAt d).done 3 = false → 0x20 ≤ s.dspOp d (s.dspsAt d).pc 3 → s.dspOp d (s.dspsAt d).pc 3 ≤ 0x3F →
    (s.dspsAt d).wrote.contains (wS, sd) = false → sl.mem ≠ 2 → sl.mem ≠ 3 →
    Gives (.dspSsub d sl sd a b) s fun t => (t.dspsAt d).regs = { (s.dspsAt d).regs.setS sd (((s.dspsAt d).snap.getD (s.dspsAt d).regs).sreg a + 2 ^ 32 - ((s.dspsAt d).snap.getD (s.dspsAt d).regs).sreg b) with loops := (t.dspsAt d).regs.loops }
    ∧ (∀ k, t.dspMemAt k = s.dspMemAt k) ∧
    t.fld (R.dspCnt d) F.dspCnt_MEM_CE = min (s.fld (R.dspCnt d) F.dspCnt_MEM_CE + sl.ce) F.dspCnt_MEM_CE.max) ∧
  -- dspSand
  (∀ (s : State) (d : Nat) (sl : Slot) (j : DspJob) (sd : Nat) (a : Nat) (b : Nat), s.Inv → d < 96 → (s.dspsAt d).job = some j →
    j.phase = 1 → bit (s.dspsAt d).done 3 = false → 0x20 ≤ s.dspOp d (s.dspsAt d).pc 3 → s.dspOp d (s.dspsAt d).pc 3 ≤ 0x3F →
    (s.dspsAt d).wrote.contains (wS, sd) = false → sl.mem ≠ 2 → sl.mem ≠ 3 →
    Gives (.dspSand d sl sd a b) s fun t => (t.dspsAt d).regs = { (s.dspsAt d).regs.setS sd (((s.dspsAt d).snap.getD (s.dspsAt d).regs).sreg a &&& ((s.dspsAt d).snap.getD (s.dspsAt d).regs).sreg b) with loops := (t.dspsAt d).regs.loops }
    ∧ (∀ k, t.dspMemAt k = s.dspMemAt k) ∧
    t.fld (R.dspCnt d) F.dspCnt_MEM_CE = min (s.fld (R.dspCnt d) F.dspCnt_MEM_CE + sl.ce) F.dspCnt_MEM_CE.max) ∧
  -- dspSshl
  (∀ (s : State) (d : Nat) (sl : Slot) (j : DspJob) (sd : Nat) (a : Nat) (b : Nat), s.Inv → d < 96 → (s.dspsAt d).job = some j →
    j.phase = 1 → bit (s.dspsAt d).done 3 = false → 0x20 ≤ s.dspOp d (s.dspsAt d).pc 3 → s.dspOp d (s.dspsAt d).pc 3 ≤ 0x3F →
    (s.dspsAt d).wrote.contains (wS, sd) = false → sl.mem ≠ 2 → sl.mem ≠ 3 →
    Gives (.dspSshl d sl sd a b) s fun t => (t.dspsAt d).regs = { (s.dspsAt d).regs.setS sd (if ((s.dspsAt d).snap.getD (s.dspsAt d).regs).sreg b < 32 then ((s.dspsAt d).snap.getD (s.dspsAt d).regs).sreg a * 2 ^ ((s.dspsAt d).snap.getD (s.dspsAt d).regs).sreg b else Config.dspShl (((s.dspsAt d).snap.getD (s.dspsAt d).regs).sreg a) (((s.dspsAt d).snap.getD (s.dspsAt d).regs).sreg b)) with loops := (t.dspsAt d).regs.loops }
    ∧ (∀ k, t.dspMemAt k = s.dspMemAt k) ∧
    t.fld (R.dspCnt d) F.dspCnt_MEM_CE = min (s.fld (R.dspCnt d) F.dspCnt_MEM_CE + sl.ce) F.dspCnt_MEM_CE.max) ∧
  -- dspSmov
  (∀ (s : State) (d : Nat) (sl : Slot) (j : DspJob) (sd : Nat) (src : Nat) (imm : BitVec 32), s.Inv → d < 96 →
    (s.dspsAt d).job = some j → j.phase = 1 → bit (s.dspsAt d).done 3 = false → 0x20 ≤ s.dspOp d (s.dspsAt d).pc 3 →
    s.dspOp d (s.dspsAt d).pc 3 ≤ 0x3F → (s.dspsAt d).wrote.contains (wS, sd) = false → sl.mem ≠ 2 → sl.mem ≠ 3 →
    Gives (.dspSmov d sl sd src imm) s fun t => (t.dspsAt d).regs =
    { (s.dspsAt d).regs.setS sd (if src < 16 then ((s.dspsAt d).snap.getD (s.dspsAt d).regs).sreg src else if src == 16 then imm.toNat else ((s.dspsAt d).snap.getD (s.dspsAt d).regs).jstat) with loops := (t.dspsAt d).regs.loops }
    ∧ (∀ k, t.dspMemAt k = s.dspMemAt k) ∧
    t.fld (R.dspCnt d) F.dspCnt_MEM_CE = min (s.fld (R.dspCnt d) F.dspCnt_MEM_CE + sl.ce) F.dspCnt_MEM_CE.max) ∧
  -- dspAgset
  (∀ (s : State) (d : Nat) (sl : Slot) (j : DspJob) (ag : Nat) (base : Nat) (idx : Nat) (step : Int) (mod : Nat) (mode : Nat) (mem :
    Nat), s.Inv → d < 96 → (s.dspsAt d).job = some j → j.phase = 1 → bit (s.dspsAt d).done 3 = false →
    0x20 ≤ s.dspOp d (s.dspsAt d).pc 3 → s.dspOp d (s.dspsAt d).pc 3 ≤ 0x3F → (s.dspsAt d).wrote.contains (wAg, ag) = false → sl.mem ≠ 2 →
    sl.mem ≠ 3 → AgSt.okSet ⟨base % 65536, idx % 65536, sext 16 (wrapTo 16 step), mod % 131072, mode % 4, mem % 2⟩ true = true →
    Gives (.dspAgset d sl ag base idx step mod mode mem) s fun t => (t.dspsAt d).regs =
    { (s.dspsAt d).regs.setAg ag ⟨base % 65536, idx % 65536, sext 16 (wrapTo 16 step), mod % 131072, mode % 4, mem % 2⟩ with loops := (t.dspsAt d).regs.loops }
    ∧ (∀ k, t.dspMemAt k = s.dspMemAt k) ∧
    t.fld (R.dspCnt d) F.dspCnt_MEM_CE = min (s.fld (R.dspCnt d) F.dspCnt_MEM_CE + sl.ce) F.dspCnt_MEM_CE.max) ∧
  -- dspAgld
  (∀ (s : State) (d : Nat) (sl : Slot) (j : DspJob) (ag : Nat) (sa : Nat), s.Inv → d < 96 → (s.dspsAt d).job = some j → j.phase = 1 →
    bit (s.dspsAt d).done 3 = false → 0x20 ≤ s.dspOp d (s.dspsAt d).pc 3 → s.dspOp d (s.dspsAt d).pc 3 ≤ 0x3F →
    (s.dspsAt d).wrote.contains (wAg, ag) = false → sl.mem ≠ 2 → sl.mem ≠ 3 →
    AgSt.okSet { ((s.dspsAt d).snap.getD (s.dspsAt d).regs).agen ag with base := ((s.dspsAt d).snap.getD (s.dspsAt d).regs).sreg sa % 65536 }
    false = true →
    Gives (.dspAgld d sl ag 0 sa) s fun t => (t.dspsAt d).regs = { (s.dspsAt d).regs.setAg ag { ((s.dspsAt d).snap.getD (s.dspsAt d).regs).agen ag with base := ((s.dspsAt d).snap.getD (s.dspsAt d).regs).sreg sa % 65536 } with loops := (t.dspsAt d).regs.loops }
    ∧ (∀ k, t.dspMemAt k = s.dspMemAt k) ∧
    t.fld (R.dspCnt d) F.dspCnt_MEM_CE = min (s.fld (R.dspCnt d) F.dspCnt_MEM_CE + sl.ce) F.dspCnt_MEM_CE.max) ∧
  -- dspAgld_idx
  (∀ (s : State) (d : Nat) (sl : Slot) (j : DspJob) (ag : Nat) (sa : Nat), s.Inv → d < 96 → (s.dspsAt d).job = some j → j.phase = 1 →
    bit (s.dspsAt d).done 3 = false → 0x20 ≤ s.dspOp d (s.dspsAt d).pc 3 → s.dspOp d (s.dspsAt d).pc 3 ≤ 0x3F →
    (s.dspsAt d).wrote.contains (wAg, ag) = false → sl.mem ≠ 2 → sl.mem ≠ 3 →
    AgSt.okSet { ((s.dspsAt d).snap.getD (s.dspsAt d).regs).agen ag with idx := ((s.dspsAt d).snap.getD (s.dspsAt d).regs).sreg sa % 65536 }
    false = true →
    Gives (.dspAgld d sl ag 1 sa) s fun t => (t.dspsAt d).regs = { (s.dspsAt d).regs.setAg ag { ((s.dspsAt d).snap.getD (s.dspsAt d).regs).agen ag with idx := ((s.dspsAt d).snap.getD (s.dspsAt d).regs).sreg sa % 65536 } with loops := (t.dspsAt d).regs.loops }
    ∧ (∀ k, t.dspMemAt k = s.dspMemAt k)) ∧
  -- dspAgld_step
  (∀ (s : State) (d : Nat) (sl : Slot) (j : DspJob) (ag : Nat) (sa : Nat), s.Inv → d < 96 → (s.dspsAt d).job = some j → j.phase = 1 →
    bit (s.dspsAt d).done 3 = false → 0x20 ≤ s.dspOp d (s.dspsAt d).pc 3 → s.dspOp d (s.dspsAt d).pc 3 ≤ 0x3F →
    (s.dspsAt d).wrote.contains (wAg, ag) = false → sl.mem ≠ 2 → sl.mem ≠ 3 →
    AgSt.okSet { ((s.dspsAt d).snap.getD (s.dspsAt d).regs).agen ag with step := sext 16 (((s.dspsAt d).snap.getD (s.dspsAt d).regs).sreg sa) }
    false = true →
    Gives (.dspAgld d sl ag 2 sa) s fun t => (t.dspsAt d).regs = { (s.dspsAt d).regs.setAg ag { ((s.dspsAt d).snap.getD (s.dspsAt d).regs).agen ag with step := sext 16 (((s.dspsAt d).snap.getD (s.dspsAt d).regs).sreg sa) } with loops := (t.dspsAt d).regs.loops }
    ∧ (∀ k, t.dspMemAt k = s.dspMemAt k)) ∧
  -- dspAgld_mod
  (∀ (s : State) (d : Nat) (sl : Slot) (j : DspJob) (ag : Nat) (sa : Nat), s.Inv → d < 96 → (s.dspsAt d).job = some j → j.phase = 1 →
    bit (s.dspsAt d).done 3 = false → 0x20 ≤ s.dspOp d (s.dspsAt d).pc 3 → s.dspOp d (s.dspsAt d).pc 3 ≤ 0x3F →
    (s.dspsAt d).wrote.contains (wAg, ag) = false → sl.mem ≠ 2 → sl.mem ≠ 3 →
    AgSt.okSet { ((s.dspsAt d).snap.getD (s.dspsAt d).regs).agen ag with mod := ((s.dspsAt d).snap.getD (s.dspsAt d).regs).sreg sa % 131072 }
    false = true →
    Gives (.dspAgld d sl ag 3 sa) s fun t => (t.dspsAt d).regs = { (s.dspsAt d).regs.setAg ag { ((s.dspsAt d).snap.getD (s.dspsAt d).regs).agen ag with mod := ((s.dspsAt d).snap.getD (s.dspsAt d).regs).sreg sa % 131072 } with loops := (t.dspsAt d).regs.loops }
    ∧ (∀ k, t.dspMemAt k = s.dspMemAt k)) ∧
  -- dspAgld_mode
  (∀ (s : State) (d : Nat) (sl : Slot) (j : DspJob) (ag : Nat) (sa : Nat), s.Inv → d < 96 → (s.dspsAt d).job = some j → j.phase = 1 →
    bit (s.dspsAt d).done 3 = false → 0x20 ≤ s.dspOp d (s.dspsAt d).pc 3 → s.dspOp d (s.dspsAt d).pc 3 ≤ 0x3F →
    (s.dspsAt d).wrote.contains (wAg, ag) = false → sl.mem ≠ 2 → sl.mem ≠ 3 →
    AgSt.okSet { ((s.dspsAt d).snap.getD (s.dspsAt d).regs).agen ag with mode := ((s.dspsAt d).snap.getD (s.dspsAt d).regs).sreg sa % 4 }
    false = true →
    Gives (.dspAgld d sl ag 4 sa) s fun t => (t.dspsAt d).regs = { (s.dspsAt d).regs.setAg ag { ((s.dspsAt d).snap.getD (s.dspsAt d).regs).agen ag with mode := ((s.dspsAt d).snap.getD (s.dspsAt d).regs).sreg sa % 4 } with loops := (t.dspsAt d).regs.loops }
    ∧ (∀ k, t.dspMemAt k = s.dspMemAt k)) ∧
  -- dspAgld_mem
  (∀ (s : State) (d : Nat) (sl : Slot) (j : DspJob) (ag : Nat) (sa : Nat), s.Inv → d < 96 → (s.dspsAt d).job = some j → j.phase = 1 →
    bit (s.dspsAt d).done 3 = false → 0x20 ≤ s.dspOp d (s.dspsAt d).pc 3 → s.dspOp d (s.dspsAt d).pc 3 ≤ 0x3F →
    (s.dspsAt d).wrote.contains (wAg, ag) = false → sl.mem ≠ 2 → sl.mem ≠ 3 →
    AgSt.okSet { ((s.dspsAt d).snap.getD (s.dspsAt d).regs).agen ag with mem := ((s.dspsAt d).snap.getD (s.dspsAt d).regs).sreg sa % 2 }
    false = true →
    Gives (.dspAgld d sl ag 5 sa) s fun t => (t.dspsAt d).regs = { (s.dspsAt d).regs.setAg ag { ((s.dspsAt d).snap.getD (s.dspsAt d).regs).agen ag with mem := ((s.dspsAt d).snap.getD (s.dspsAt d).regs).sreg sa % 2 } with loops := (t.dspsAt d).regs.loops }
    ∧ (∀ k, t.dspMemAt k = s.dspMemAt k)) ∧
  -- dspAgset_refused
  (∀ (s : State) (d : Nat) (sl : Slot) (j : DspJob) (ag : Nat) (base : Nat) (idx : Nat) (step : Int) (mod : Nat) (mode : Nat) (mem :
    Nat), s.Inv → d < 96 → (s.dspsAt d).job = some j → j.phase = 1 → bit (s.dspsAt d).done 3 = false →
    0x20 ≤ s.dspOp d (s.dspsAt d).pc 3 → s.dspOp d (s.dspsAt d).pc 3 ≤ 0x3F → (s.dspsAt d).wrote.contains (wAg, ag) = false → sl.mem ≠ 2 →
    sl.mem ≠ 3 → AgSt.okSet ⟨base % 65536, idx % 65536, sext 16 (wrapTo 16 step), mod % 131072, mode % 4, mem % 2⟩ true = false →
    Gives (.dspAgset d sl ag base idx step mod mode mem) s fun t => (t.dspsAt d).job = none ∧ t.fld (R.dspFault d) F.dspFault_CODE = 1 ∧
    (t.dspsAt d).regs = (s.dspsAt d).regs) ∧
  -- dspModeset
  (∀ (s : State) (d : Nat) (sl : Slot) (j : DspJob) (sat : Bool), s.Inv → d < 96 → (s.dspsAt d).job = some j → j.phase = 1 →
    bit (s.dspsAt d).done 3 = false → 0x20 ≤ s.dspOp d (s.dspsAt d).pc 3 → s.dspOp d (s.dspsAt d).pc 3 ≤ 0x3F → sl.mem ≠ 2 → sl.mem ≠ 3 →
    Gives (.dspModeset d sl sat) s fun t => (t.dspsAt d).regs =
    { { (s.dspsAt d).regs with sat := sat } with loops := (t.dspsAt d).regs.loops } ∧ (∀ k, t.dspMemAt k = s.dspMemAt k) ∧
    t.fld (R.dspCnt d) F.dspCnt_MEM_CE = min (s.fld (R.dspCnt d) F.dspCnt_MEM_CE + sl.ce) F.dspCnt_MEM_CE.max)

/-- DSP jobs: dispatch, moves in, status, overruns, timeouts. After 08_dsp.md: Jobs. -/
def Obligations.DspJobs : Prop :=
  -- dspJobDispatch
  (∀ (s : State) (group : Nat) (desc : Nat) (stat : Nat) (cells : List Nat) (d : Nat) (ls : List (Nat × Nat)) (w : List Nat), s.Inv →
    group < 12 →
    (((List.range 8).map (group * 8 + ·)).find? (fun d => (s.dspsAt d).job.isNone && !(s.flag (R.dspStat d) F.dspStat_FENCE)) = some d) →
    s.dspRadio group s.stitch = false → (∀ h, h ∈ s.held → h.place ≠ group) → s.locate 0x100 rightR desc 64 = some ls →
    s.noErrors = true → (∀ e, e ∈ ls → s.lineFenced e.1 = false) →
    (w = (List.range 8).map fun i => leNat (((ls.flatMap fun e => s.readBytes e.1 e.2).drop (8 * i)).take 8)) → jKind w = 6 → jNin w = 0 →
    jNout w = 0 → jDlen w ≠ 0 → jDlen w ≤ 65535 → (jDlen w ≤ longestRun (fun n => !(s.dspRadio group n))) →
    s.inMemory (jList w) 0 = true → s.clk.cyc + jDlen w ≤ s.leftoverEnd (s.dspRadio group) (jDlen w) → jDlen w * 141 ≤ s.last.bucket →
    Gives (.dspJobDispatch group false desc stat cells) s fun t => (t.dspsAt d).job = some
    ⟨w, false, stat, cells, [], s.clk.cyc, s.leftoverEnd (s.dspRadio group) (jDlen w), 0, 0, 0, 0⟩ ∧ (t.dspsAt d).pc = jEntry w ∧
    (t.dspsAt d).regs =
    ⟨[], [], (List.range 4).map (fun i => dW w (4 + i) % 2 ^ 32) ++ (List.range 4).map (fun i => dW w (4 + i) / 2 ^ 32), [], [], [], jSat w, 0, false, false⟩
    ∧ t.fld (R.dspStat d) F.dspStat_BUSY = 1 ∧ t.last.bucket = s.last.bucket - jDlen w * 141) ∧
  -- dspJobDispatch_radio
  (∀ (s : State) (group : Nat) (desc : Nat) (stat : Nat) (cells : List Nat) (d : Nat) (ls : List (Nat × Nat)) (w : List Nat), s.Inv →
    group < 12 →
    (((List.range 8).map (group * 8 + ·)).find? (fun d => (s.dspsAt d).job.isNone && !(s.flag (R.dspStat d) F.dspStat_FENCE)) = some d) →
    s.dspRadio group s.stitch = true → s.locate 0x101 rightR desc 64 = some ls → s.noErrors = true → (∀ e, e ∈ ls →
    s.lineFenced e.1 = false) →
    (w = (List.range 8).map fun i => leNat (((ls.flatMap fun e => s.readBytes e.1 e.2).drop (8 * i)).take 8)) → jKind w = 6 → jNin w = 0 →
    jNout w = 0 → jDlen w ≠ 0 → s.clk.cyc + jDlen w ≤ s.radioEnd (s.dspRadio group) (jDlen w) →
    Gives (.dspJobDispatch group true desc stat cells) s fun t => (t.dspsAt d).job = some
    ⟨w, true, stat, cells, [], s.clk.cyc, s.radioEnd (s.dspRadio group) (jDlen w), 0, 0, 0, 0⟩ ∧ (t.dspsAt d).pc = jEntry w ∧
    (t.dspsAt d).regs =
    ⟨[], [], (List.range 4).map (fun i => dW w (4 + i) % 2 ^ 32) ++ (List.range 4).map (fun i => dW w (4 + i) / 2 ^ 32), [], [], [], jSat w, 0, false, false⟩
    ∧ t.fld (R.dspStat d) F.dspStat_BUSY = 1 ∧ t.last.bucket = s.last.bucket) ∧
  -- dspJobDispatch_again
  (∀ (s : State) (group : Nat) (desc : Nat) (stat : Nat) (cells : List Nat) (d : Nat) (h : HeldJob) (r : List HeldJob), s.Inv →
    group < 12 →
    (((List.range 8).map (group * 8 + ·)).find? (fun d => (s.dspsAt d).job.isNone && !(s.flag (R.dspStat d) F.dspStat_FENCE)) = some d) →
    s.dspRadio group s.stitch = false → s.held = h :: r → h.place = group → s.noErrors = true → jKind h.words = 6 → jNin h.words = 0 →
    jNout h.words = 0 → jDlen h.words ≠ 0 → jDlen h.words ≤ 65535 → (jDlen h.words ≤ longestRun (fun n => !(s.dspRadio group n))) →
    s.inMemory (jList h.words) 0 = true → s.clk.cyc + jDlen h.words ≤ s.leftoverEnd (s.dspRadio group) (jDlen h.words) →
    jDlen h.words * 141 ≤ s.last.bucket → Gives (.dspJobDispatch group false desc stat cells) s fun t => t.held = r ∧
    (t.dspsAt d).job = some ⟨h.words, false, h.stat, h.cells, [], s.clk.cyc, s.leftoverEnd (s.dspRadio group) (jDlen h.words), 0, 0, 0, 0⟩
    ∧ (t.dspsAt d).pc = jEntry h.words ∧
    (t.dspsAt d).regs = ⟨[], [], (List.range 4).map (fun i => dW h.words (4 + i) % 2 ^ 32) ++ (List.range 4).map (fun i => dW h.words (4 + i) / 2 ^ 32), [], [], [], jSat h.words, 0, false, false⟩
    ∧ t.fld (R.dspStat d) F.dspStat_BUSY = 1 ∧ t.last.bucket = s.last.bucket - jDlen h.words * 141) ∧
  -- dspJobDispatch_refused
  (∀ (s : State) (group : Nat) (desc : Nat) (stat : Nat) (cells : List Nat) (d : Nat) (ls : List (Nat × Nat)) (w : List Nat), s.Inv →
    group < 12 →
    (((List.range 8).map (group * 8 + ·)).find? (fun d => (s.dspsAt d).job.isNone && !(s.flag (R.dspStat d) F.dspStat_FENCE)) = some d) →
    s.dspRadio group s.stitch = false → (∀ h, h ∈ s.held → h.place ≠ group) → s.locate 0x100 rightR desc 64 = some ls →
    s.noErrors = true → (∀ e, e ∈ ls → s.lineFenced e.1 = false) →
    (w = (List.range 8).map fun i => leNat (((ls.flatMap fun e => s.readBytes e.1 e.2).drop (8 * i)).take 8)) →
    (jKind w ≠ 6 ∨ jDlen w = 0) → Gives (.dspJobDispatch group false desc stat cells) s fun t => (t.dspsAt d).job = none ∧
    t.fld (R.dspFault d) F.dspFault_CODE = 5 ∧ t.fld (R.dspFault d) F.dspFault_JOB_LO = jId w % 2 ^ 48) ∧
  -- dspProgramStart
  (∀ (s : State) (d : Nat) (j : DspJob), s.Inv → d < 96 → (s.dspsAt d).job = some j → j.phase = 0 → jWaitEn j.words = false →
    jNin j.words = 0 → ((List.range 4).any (fun i => opBad i (s.dspOp d (s.dspsAt d).pc i)) = false) →
    (s.dspsAt d).done ≠ s.dspSlots d (s.dspsAt d).pc →
    Gives (.dspProgramStart d) s fun t => Same (.any [.entry .dsps d, .reg (R.dspStat d)]) s t ∧
    t.dspsAt d = { s.dspsAt d with job := some { j with phase := 1 } } ∧ t.fld (R.dspStat d) F.dspStat_MOVING = 0 ∧
    t.fld (R.dspStat d) F.dspStat_WAITING = 0) ∧
  -- dspProgramStart_move
  (∀ (s : State) (d : Nat) (j : DspJob) (m : Nat × Nat) (ls : List (Nat × Nat)), s.Inv → d < 96 → (s.dspsAt d).job = some j →
    j.phase = 0 → jWaitEn j.words = false → jNin j.words = 1 → j.moves = [m] →
    s.locate (if j.radio then 0x101 else 0x100) rightR (mvAddr m) (mvLen m) = some ls → s.noErrors = true → (∀ e, e ∈ ls →
    s.lineFenced e.1 = false) → ((List.range 4).any (fun i => opBad i (s.dspOp d (s.dspsAt d).pc i)) = false) →
    (s.dspsAt d).done ≠ s.dspSlots d (s.dspsAt d).pc →
    Gives (.dspProgramStart d) s fun t => (t.dspsAt d).job = some { j with phase := 1 } ∧ ∀ i, i < mvLen m / 4 →
    t.dmWord d (mvMem m) (mvLocal m + i) = leNat (((ls.flatMap fun e => s.readBytes e.1 e.2).drop (4 * i)).take 4)) ∧
  -- dspStatusRecord
  (∀ (s : State) (d : Nat) (j : DspJob) (a : Nat) (ce : Nat), s.Inv → d < 96 → (s.dspsAt d).job = some j → j.phase = 2 →
    j.moves.drop (jNin j.words) = [] →
    s.locate (if j.radio then 0x101 else 0x100) rightW (j.stat + 32 * jStatSel j.words) 32 = some [(a, 32)] → s.noErrors = true →
    s.dpaKind a = .kennel → Gives (.dspStatusRecord d ce false) s fun t => t.readBytes a 32 = dspRecord d (s.dspsAt d) j ∧ (∀ b,
    b < a ∨ a + 32 ≤ b → t.memAt b = s.memAt b) ∧
    t.fld (R.dspCnt d) F.dspCnt_JOBS = min (s.fld (R.dspCnt d) F.dspCnt_JOBS + 1) F.dspCnt_JOBS.max ∧
    t.fld (R.dspCnt d) F.dspCnt_MEM_CE = min (s.fld (R.dspCnt d) F.dspCnt_MEM_CE + ce) F.dspCnt_MEM_CE.max ∧ (t.dspsAt d).job = none ∧
    t.fld (R.dspStat d) F.dspStat_BUSY = 0 ∧
    t.sigq = s.sigq ++ (if jSigEn j.words then [⟨(if j.radio then 0x101 else 0x100), jSigIdx j.words, .dsp d, j.cells, jId j.words, 0⟩]
    else [])) ∧
  -- dspStatusRecord_move
  (∀ (s : State) (d : Nat) (j : DspJob) (a : Nat) (ce : Nat) (m : Nat × Nat) (b : Nat), s.Inv → d < 96 → (s.dspsAt d).job = some j →
    j.phase = 2 → j.moves.drop (jNin j.words) = [m] → mvLen m = 64 →
    s.locate (if j.radio then 0x101 else 0x100) rightW (mvAddr m) 64 = some [(b, 64)] → s.dpaKind b = .kennel →
    s.locate (if j.radio then 0x101 else 0x100) rightW (j.stat + 32 * jStatSel j.words) 32 = some [(a, 32)] → s.noErrors = true →
    s.dpaKind a = .kennel → (a + 32 ≤ b ∨ b + 64 ≤ a) →
    Gives (.dspStatusRecord d ce false) s fun t => t.readBytes a 32 = dspRecord d (s.dspsAt d) j ∧
    t.readBytes b 64 = ((List.range 16).flatMap fun i => leBytes (s.dmWord d (mvMem m) (mvLocal m + i)) 4) ∧ (t.dspsAt d).job = none) ∧
  -- dspStatusRecord_error
  (∀ (s : State) (d : Nat) (j : DspJob) (ce : Nat), s.Inv → d < 96 → (s.dspsAt d).job = some j → j.phase = 2 → j.radio = false →
    Gives (.dspStatusRecord d ce true) s fun t => (t.dspsAt d).job = none ∧ t.fld (R.dspFault d) F.dspFault_CODE = 3 ∧
    t.fld (R.dspStat d) F.dspStat_BUSY = 0 ∧ t.mem = s.mem ∧ t.sigq = s.sigq) ∧
  -- dspRadioOverrun
  (∀ (s : State) (d : Nat) (j : DspJob), s.Inv → d < 96 → (s.dspsAt d).job = some j → j.radio = true → j.phase ≠ 2 →
    Gives (.dspRadioOverrun d) s fun t => (t.dspsAt d).job = none ∧ t.fld (R.dspStat d) F.dspStat_BUSY = 0 ∧
    t.fld (R.dspStat d) F.dspStat_MOVING = 0) ∧
  -- dspManagerOverrun
  (∀ (s : State) (d : Nat) (j : DspJob), s.Inv → d < 96 → (s.dspsAt d).job = some j → j.radio = false → j.phase ≠ 2 →
    Gives (.dspManagerOverrun d) s fun t => Same (.any [.entry .dsps d, .reg (R.dspStat d), .reg (R.dspCnt2 d), .whole [.held]]) s t ∧
    t.held = s.held ++ [⟨d / 8, j.words, j.stat, j.cells⟩] ∧ (t.dspsAt d).job = none ∧ (t.dspsAt d).regs = (s.dspsAt d).regs ∧
    t.fld (R.dspStat d) F.dspStat_BUSY = 0 ∧
    t.fld (R.dspCnt2 d) F.dspCnt2_OVERRUNS = min (s.fld (R.dspCnt2 d) F.dspCnt2_OVERRUNS + 1) F.dspCnt2_OVERRUNS.max) ∧
  -- dspWaitTimeout
  (∀ (s : State) (d : Nat) (j : DspJob), s.Inv → d < 96 → (s.dspsAt d).job = some j → j.radio = false → j.phase = 0 →
    jWaitEn j.words = true → Gives (.dspWaitTimeout d) s fun t => (t.dspsAt d).job = none ∧ t.fld (R.dspFault d) F.dspFault_CODE = 6 ∧
    t.fld (R.dspFault d) F.dspFault_JOB_LO = j.words.getD 0 0 % 2 ^ 48 ∧ t.fld (R.dspStat d) F.dspStat_BUSY = 0)

/-- Request blocks fetched; PARAM, CONFIG, START, STOP and slot messages taken. After 06_radio_pipeline.md: Host rings;
06_radio_pipeline.md: Faults and held transmission. -/
def Obligations.RequestBlocks : Prop :=
  -- reqFetch
  (∀ (s : State) (cell : Nat) (esn : Nat) (x : CellSt), s.Inv → cell < 512 → s.cellsAt cell = x → x.applied = true →
    s.goneBy cell esn = false → s.heldFor (muOf (recScs x.rcd)) esn = false → (s.reqMsgs x.rcd esn).isSome = true →
    Gives (.reqFetch cell esn false) s fun t => t.cellsAt cell = x.putSlot
    ⟨esn, true, x.running, (s.reqMsgs x.rcd esn).getD [], ((s.reqMsgs x.rcd esn).getD []).filter (fun m => fapiIn.contains m.1), (((s.reqMsgs x.rcd esn).getD []).filter fun m => !(fapiIn.contains m.1)).map (fun m => errorInd (recScs x.rcd) esn m.1 msgInvalidState), false, false, [], [], false, x.wset⟩
    ∧ t.hostRead (recPasid x.rcd) (recReqBase x.rcd) 4 = leBytes ((esn + 1) % 2 ^ 32) 4 ∧
    t.fld (R.radioCellCnt cell) F.radioCellCnt_REQ_LATE = s.fld (R.radioCellCnt cell) F.radioCellCnt_REQ_LATE ∧
    t.fld (R.radioCellStat cell) F.radioCellStat_STATE = (if x.running = true ∧
    s.fld (R.radioCellStat cell) F.radioCellStat_STATE = 3 then 2 else s.fld (R.radioCellStat cell) F.radioCellStat_STATE)) ∧
  -- reqFetch_absent
  (∀ (s : State) (cell : Nat) (esn : Nat) (x : CellSt) (torn : Bool), s.Inv → cell < 512 → s.cellsAt cell = x → x.applied = true →
    s.goneBy cell esn = false → (torn = true ∨ s.reqMsgs x.rcd esn = none) → s.linkOn = true →
    Gives (.reqFetch cell esn torn) s fun t => t.cellsAt cell = x.putSlot
    ⟨esn, false, x.running, [], [], if x.running then [errorInd (recScs x.rcd) esn 0 msgSlotErr] else [], false, false, [], [], false, x.wset⟩
    ∧ t.hostRead (recPasid x.rcd) (recReqBase x.rcd) 4 = leBytes ((esn + 1) % 2 ^ 32) 4 ∧
    t.fld (R.radioCellCnt cell) F.radioCellCnt_REQ_LATE = min (s.fld (R.radioCellCnt cell) F.radioCellCnt_REQ_LATE + 1)
    F.radioCellCnt_REQ_LATE.max) ∧
  -- reqFetch_held
  (∀ (s : State) (cell : Nat) (esn : Nat) (x : CellSt), s.Inv → cell < 512 → s.cellsAt cell = x → x.applied = true →
    s.goneBy cell esn = false → s.heldFor (muOf (recScs x.rcd)) esn = true → (s.reqMsgs x.rcd esn).isSome = true →
    Gives (.reqFetch cell esn false) s fun t => ((s.reqMsgs x.rcd esn).getD []).any (·.1 == 0x80) = true →
    errorInd (recScs x.rcd) esn 0x80 sfnOutOfSync ∈ ((t.cellsAt cell).slot esn).inds) ∧
  -- reqFetch_gone
  (∀ (s : State) (cell : Nat) (esn : Nat) (torn : Bool), s.Inv → s.goneBy cell esn = true →
    Gives (.reqFetch cell esn torn) s fun t => Same (.any []) s t) ∧
  -- paramRequest
  (∀ (s : State) (cell : Nat) (esn : Nat) (body : List Byte) (x : CellSt), s.Inv → cell < 512 → s.cellsAt cell = x →
    s.nextMsg cell esn 0x00 = some body → Gives (.paramRequest cell esn) s fun t => Same (.entry .cells cell) s t ∧
    t.cellsAt cell = x.putSlot
    { x.slot esn with todo := (x.slot esn).todo.drop 1, inds := (x.slot esn).inds ++ [(0x01, Config.fapiBody 0x01 (msgOk :: x.rcd.take 8))] }) ∧
  -- configRequest
  (∀ (s : State) (cell : Nat) (esn : Nat) (body : List Byte) (x : CellSt), s.Inv → cell < 512 → s.cellsAt cell = x →
    s.nextMsg cell esn 0x02 = some body → Gives (.configRequest cell esn body) s fun t => Same (.entry .cells cell) s t ∧
    t.cellsAt cell = x.putSlot
    { x.slot esn with todo := (x.slot esn).todo.drop 1, inds := (x.slot esn).inds ++ [(0x03, Config.fapiBody 0x03 [if Config.cfgAgrees (x.rcd.take 8) body then msgOk else msgInvalidConfig])] }) ∧
  -- startRequest
  (∀ (s : State) (cell : Nat) (esn : Nat) (body : List Byte) (x : CellSt), s.Inv → cell < 512 → s.cellsAt cell = x →
    s.nextMsg cell esn 0x04 = some body → x.running = false →
    Gives (.startRequest cell esn) s fun t => Same (.any [.entry .cells cell, .reg (R.radioCellStat cell), .reg R.radioStat]) s t ∧
    t.cellsAt cell =
    { x.putSlot ({ x.slot esn with todo := (x.slot esn).todo.drop 1 }) with running := true, streams := x.streams.map fun e => (e.1, { x.freshStream with held := e.2.held, td := e.2.td, landed := e.2.landed, closed := e.2.closed }) }
    ∧ t.fld (R.radioCellStat cell) F.radioCellStat_STATE = 2 ∧ t.fld (R.radioCellStat cell) F.radioCellStat_SLOTS = 0 ∧
    t.fld R.radioStat F.radioStat_ACTIVE = 1) ∧
  -- startRequest_running
  (∀ (s : State) (cell : Nat) (esn : Nat) (body : List Byte) (x : CellSt), s.Inv → cell < 512 → s.cellsAt cell = x →
    s.nextMsg cell esn 0x04 = some body → x.running = true → Gives (.startRequest cell esn) s fun t => Same (.entry .cells cell) s t ∧
    t.cellsAt cell = x.putSlot
    { x.slot esn with todo := (x.slot esn).todo.drop 1, inds := (x.slot esn).inds ++ [errorInd (recScs x.rcd) esn 0x04 msgInvalidState] }) ∧
  -- stopRequest
  (∀ (s : State) (cell : Nat) (esn : Nat) (body : List Byte) (x : CellSt), s.Inv → cell < 512 → s.cellsAt cell = x →
    s.nextMsg cell esn 0x05 = some body → x.running = true → Gives (.stopRequest cell esn) s fun t => Same (.entry .cells cell) s t ∧
    t.cellsAt cell =
    { x.putSlot ({ x.slot esn with todo := (x.slot esn).todo.drop 1, inds := (x.slot esn).inds ++ [(0x06, Config.fapiBody 0x06 [])] }) with running := false, stopAfter := some esn }) ∧
  -- dlTtiRequest
  (∀ (s : State) (cell : Nat) (esn : Nat) (body : List Byte) (x : CellSt), s.Inv → cell < 512 → s.cellsAt cell = x →
    s.nextMsg cell esn 0x80 = some body → (x.slot esn).run = true →
    Gives (.dlTtiRequest cell esn body) s fun t => Same (.entry .cells cell) s t ∧
    t.cellsAt cell = x.putSlot { x.slot esn with todo := (x.slot esn).todo.drop 1 }) ∧
  -- dlTtiRequest_idle
  (∀ (s : State) (cell : Nat) (esn : Nat) (body : List Byte) (x : CellSt), s.Inv → cell < 512 → s.cellsAt cell = x →
    s.nextMsg cell esn 0x80 = some body → (x.slot esn).run = false →
    Gives (.dlTtiRequest cell esn body) s fun t => Same (.entry .cells cell) s t ∧
    t.cellsAt cell = x.putSlot { x.slot esn with todo := (x.slot esn).todo.drop 1, inds := (x.slot esn).inds ++ [errorInd (recScs x.rcd) esn 0x80 msgInvalidState] }) ∧
  -- ulTtiRequest
  (∀ (s : State) (cell : Nat) (esn : Nat) (body : List Byte) (x : CellSt), s.Inv → cell < 512 → s.cellsAt cell = x →
    s.nextMsg cell esn 0x81 = some body → (x.slot esn).run = true →
    Gives (.ulTtiRequest cell esn body) s fun t => Same (.entry .cells cell) s t ∧
    t.cellsAt cell = x.putSlot { x.slot esn with todo := (x.slot esn).todo.drop 1 }) ∧
  -- ulTtiRequest_idle
  (∀ (s : State) (cell : Nat) (esn : Nat) (body : List Byte) (x : CellSt), s.Inv → cell < 512 → s.cellsAt cell = x →
    s.nextMsg cell esn 0x81 = some body → (x.slot esn).run = false →
    Gives (.ulTtiRequest cell esn body) s fun t => Same (.entry .cells cell) s t ∧
    t.cellsAt cell = x.putSlot { x.slot esn with todo := (x.slot esn).todo.drop 1, inds := (x.slot esn).inds ++ [errorInd (recScs x.rcd) esn 0x81 msgInvalidState] }) ∧
  -- ulDciRequest
  (∀ (s : State) (cell : Nat) (esn : Nat) (body : List Byte) (x : CellSt), s.Inv → cell < 512 → s.cellsAt cell = x →
    s.nextMsg cell esn 0x83 = some body → (x.slot esn).run = true →
    Gives (.ulDciRequest cell esn body) s fun t => Same (.entry .cells cell) s t ∧
    t.cellsAt cell = x.putSlot { x.slot esn with todo := (x.slot esn).todo.drop 1 }) ∧
  -- ulDciRequest_idle
  (∀ (s : State) (cell : Nat) (esn : Nat) (body : List Byte) (x : CellSt), s.Inv → cell < 512 → s.cellsAt cell = x →
    s.nextMsg cell esn 0x83 = some body → (x.slot esn).run = false →
    Gives (.ulDciRequest cell esn body) s fun t => Same (.entry .cells cell) s t ∧
    t.cellsAt cell = x.putSlot { x.slot esn with todo := (x.slot esn).todo.drop 1, inds := (x.slot esn).inds ++ [errorInd (recScs x.rcd) esn 0x83 msgInvalidState] }) ∧
  -- txDataRequest
  (∀ (s : State) (cell : Nat) (esn : Nat) (body : List Byte) (x : CellSt), s.Inv → cell < 512 → s.cellsAt cell = x →
    s.nextMsg cell esn 0x84 = some body → (x.slot esn).run = true →
    Gives (.txDataRequest cell esn body) s fun t => Same (.entry .cells cell) s t ∧
    t.cellsAt cell = x.putSlot { x.slot esn with todo := (x.slot esn).todo.drop 1 }) ∧
  -- txDataRequest_idle
  (∀ (s : State) (cell : Nat) (esn : Nat) (body : List Byte) (x : CellSt), s.Inv → cell < 512 → s.cellsAt cell = x →
    s.nextMsg cell esn 0x84 = some body → (x.slot esn).run = false →
    Gives (.txDataRequest cell esn body) s fun t => Same (.entry .cells cell) s t ∧
    t.cellsAt cell = x.putSlot { x.slot esn with todo := (x.slot esn).todo.drop 1, inds := (x.slot esn).inds ++ [errorInd (recScs x.rcd) esn 0x84 msgInvalidState] })

/-- Payloads, downlink emission, indications, receiver calls, overruns of a stage. After 06_radio_pipeline.md: Host rings;
06_radio_pipeline.md: The slot path; 06_radio_pipeline.md: Radio work on the arrays; 06_radio_pipeline.md: Faults and held
transmission; 07_fronthaul.md: O-RAN split 7.2x and eCPRI; 07_fronthaul.md: Windows; 07_fronthaul.md: Noise floor. -/
def Obligations.SlotOutputs : Prop :=
  -- payFetch
  (∀ (s : State) (cell : Nat) (esn : Nat) (x : CellSt) (u : SlotSt) (data : List (Nat × List Byte)), s.Inv → cell < 512 →
    s.cellsAt cell = x → x.applied = true → x.slots.find? (·.esn == esn) = some u → u.run = true → u.present = true → u.withheld = false →
    s.noErrors = true →
    (data = payPlaces 0 (((u.msgs.filter (·.1 == 0x84)).flatMap fun m => (Config.fapiPdus 0x84 m.2).filter (·.1 == 1)).map fun p =>
    s.hostRead (recPasid x.rcd) (p.2.getD 0 0) (p.2.getD 1 0))) →
    Gives (.payFetch cell esn) s fun t => t.cellsAt cell = x.putSlot { u with payload := data.map (fun e => (x.place 3 esn e.1, e.2.length)), wset := x.wset }
    ∧ ∀ e, data.getLast? = some e → x.place 3 esn e.1 + e.2.length ≤ kennelEnd → t.readBytes (x.place 3 esn e.1) e.2.length = e.2) ∧
  -- dlEmit
  (∀ (s : State) (cell : Nat) (esn : Nat) (x : CellSt) (u : SlotSt), s.Inv → cell < 512 → s.cellsAt cell = x → x.applied = true →
    x.slots.find? (·.esn == esn) = some u → u.run = true → u.emitted = false → s.heldFor (muOf (recScs x.rcd)) esn = false →
    s.goneBy cell esn = false → recFhMode x.rcd ≠ 2 → s.noErrors = true →
    Gives (.dlEmit cell esn []) s fun t => Same (.any [.entry .cells cell, .whole [.emitted], pmcGlobalFoot]) s t ∧
    t.cellsAt cell = x.putSlot { u with emitted := true } ∧ (∀ k, k < 14 → dlSym x.rcd esn k = true → ∀ l, l < min 16 (recDl x.rcd) →
    Emit.frame 3 (recPort x.rcd) (fhHdr x 2 l u.esn k (dlSection x u k l).1 ++ [0, recNrb x.rcd] ++ (dlSection x u k l).2) (if (dlSection
    x u k l).2.any (fun e => e == 1 || e == 11) = true then s.readBytes (x.place 4 (u.wset + 2 ^ 32 - 1) l) 64 else []) ∈ t.emitted) ∧
    (∀ k, k < 14 → ulSym x.rcd esn k = true → ∀ l, l < min 16 (recUl x.rcd) →
    Emit.frame 3 (recPort x.rcd) (fhHdr x 2 l u.esn k 1 ++ [0, recNrb x.rcd]) [] ∈ t.emitted)) ∧
  -- dlEmit_absent
  (∀ (s : State) (cell : Nat) (esn : Nat) (x : CellSt) (u : SlotSt) (incomplete : List Nat), s.Inv → cell < 512 → s.cellsAt cell = x →
    x.applied = true → x.slots.find? (·.esn == esn) = some u → u.run = true → u.emitted = false →
    s.heldFor (muOf (recScs x.rcd)) esn = false → s.goneBy cell esn = false → (u.present = false ∨ u.withheld = true) →
    Gives (.dlEmit cell esn incomplete) s fun t => Same (.any [.entry .cells cell, .whole [.emitted], pmcGlobalFoot]) s t ∧
    t.cellsAt cell = x.putSlot { u with emitted := true } ∧ (∀ k, k < 14 → dlSym x.rcd esn k = true → ∀ l, l < min 16 (recDl x.rcd) →
    Emit.frame 3 (recPort x.rcd) (fhHdr x 2 l u.esn k (dlSection x u k l).1 ++ [0, recNrb x.rcd] ++ (dlSection x u k l).2) (if (dlSection
    x u k l).2.any (fun e => e == 1 || e == 11) = true then s.readBytes (x.place 4 (u.wset + 2 ^ 32 - 1) l) 64 else []) ∈ t.emitted) ∧
    (∀ k, k < 14 → ulSym x.rcd esn k = true → ∀ l, l < min 16 (recUl x.rcd) →
    Emit.frame 3 (recPort x.rcd) (fhHdr x 2 l u.esn k 1 ++ [0, recNrb x.rcd]) [] ∈ t.emitted)) ∧
  -- dlEmit_gone
  (∀ (s : State) (cell : Nat) (esn : Nat) (incomplete : List Nat) (x : CellSt), s.Inv → s.cellsAt cell = x →
    (s.heldFor (muOf (recScs x.rcd)) esn = true ∨ s.goneBy cell esn = true) →
    Gives (.dlEmit cell esn incomplete) s fun t => Same (.any []) s t) ∧
  -- dlEmit_uplane
  (∀ (s : State) (cell : Nat) (esn : Nat) (x : CellSt) (u : SlotSt) (sym : Nat) (layer : Nat) (width : Nat) (meth : Nat), s.Inv →
    cell < 512 → s.cellsAt cell = x → x.applied = true → x.slots.find? (·.esn == esn) = some u → u.run = true → u.emitted = false →
    s.heldFor (muOf (recScs x.rcd)) esn = false → s.goneBy cell esn = false → u.present = true → u.withheld = false →
    recFhMode x.rcd ≠ 2 → s.noErrors = true → sym < 14 → dlSym x.rcd esn sym = true → layer < recDl x.rcd →
    meth = x.fhId F.fhCellId_DL_METH → width = x.fhId F.fhCellId_DL_WIDTH → Gives (.dlEmit cell esn []) s fun t => ∀ r,
    r ∈ runsOf (framePrbs (if meth = 1 then 1 + 3 * iqBits width else 48)) (recNrb x.rcd) →
    Emit.frame 3 (recPort x.rcd) (fhHdr x 0 layer u.esn sym 1 ++ (if x.fhId F.fhCellId_DL_STATIC = 1 then [] else [meth, width]) ++
    [r.1, r.2]) ((List.range r.2).flatMap fun i => prbBytes meth width ((s.lineAt (x.dlLine layer u.esn sym (r.1 + i))).re.flatMap fun v
    => [v.1, v.2])) ∈ t.emitted) ∧
  -- dlEmit_td
  (∀ (s : State) (cell : Nat) (esn : Nat) (x : CellSt) (u : SlotSt) (sym : Nat) (layer : Nat) (l : List (Int × Int)), s.Inv →
    cell < 512 → s.cellsAt cell = x → x.applied = true → x.slots.find? (·.esn == esn) = some u → u.run = true → u.emitted = false →
    s.heldFor (muOf (recScs x.rcd)) esn = false → s.goneBy cell esn = false → u.present = true → u.withheld = false →
    recFhMode x.rcd = 2 → s.noErrors = true → (∀ k, k < 14 → dlSym x.rcd esn k = true → symIncomplete x u [] k = false) → sym < 14 →
    dlSym x.rcd esn sym = true → layer < recDl x.rcd → u.tdOf layer sym = some l → Gives (.dlEmit cell esn []) s fun t => ∀ r,
    r ∈ tdPackets (x.fhId F.fhCellId_TD_FMT) l.length →
    Emit.frame 3 (recPort x.rcd) (ethHdr x 0 layer) (tdHeader x u.esn sym r.1 (x.fhId F.fhCellId_TD_FMT) r.2 ++ tdBytes (x.fhId
    F.fhCellId_TD_FMT) ((l.drop r.1).take r.2)) ∈ t.emitted) ∧
  -- dlEmit_late
  (∀ (s : State) (cell : Nat) (esn : Nat) (x : CellSt) (u : SlotSt) (incomplete : List Nat) (k : Nat), s.Inv → cell < 512 →
    s.cellsAt cell = x → x.applied = true → x.slots.find? (·.esn == esn) = some u → u.run = true → u.emitted = false →
    s.heldFor (muOf (recScs x.rcd)) esn = false → s.goneBy cell esn = false → u.present = true → u.withheld = false → s.noErrors = true →
    k < 14 → dlSym x.rcd esn k = true → symIncomplete x u incomplete k = true →
    Gives (.dlEmit cell esn incomplete) s fun t => t.fld (R.fhCellCnt2 cell) F.fhCellCnt2_TX_LATE = min (s.fld (R.fhCellCnt2 cell)
    F.fhCellCnt2_TX_LATE + 1) F.fhCellCnt2_TX_LATE.max ∧ t.fld (R.radioCellStat cell) F.radioCellStat_FAULT = 6 ∧
    t.fld (R.radioCellCnt cell) F.radioCellCnt_FAULTS = min (s.fld (R.radioCellCnt cell) F.radioCellCnt_FAULTS + 1)
    F.radioCellCnt_FAULTS.max ∧ ((t.cellsAt cell).slot esn).withheld = true) ∧
  -- indicationWrite
  (∀ (s : State) (cell : Nat) (esn : Nat) (x : CellSt) (u : SlotSt), s.Inv → cell < 512 → s.cellsAt cell = x → x.applied = true →
    x.slots.find? (·.esn == esn) = some u → (s.cellsAt (512 + cell)).stopAfter = none → u.run = true → x.blocks = [] → x.ra = [] →
    x.stopAfter = none → s.linkOn = true →
    Gives (.indicationWrite cell esn []) s fun t => t.cellsAt cell = { x with slots := x.slots.filter (·.esn != esn), blocks := [(esn % max 1 (recDepth x.rcd), esn, 1)], raCut := pastMark esn x.raCut, raStop := pastMark esn x.raStop, streams := x.streams.map fun e => (e.1, { e.2 with landed := e.2.landed.filter (·.1 != esn), closed := e.2.closed.filter (·.1 != esn) }) }
    ∧ t.hostRead (recPasid x.rcd) (recIndBase x.rcd) 4 = leBytes ((esn + 1) % 2 ^ 32) 4 ∧
    (t.hostRead (recPasid x.rcd) (indBlock x.rcd esn) 4 = leBytes (sfnSlot (recScs x.rcd) esn).1 2 ++ leBytes (sfnSlot (recScs x.rcd)
    esn).2 1 ++ leBytes 1 1) ∧
    t.fld (R.radioCellStat cell) F.radioCellStat_SLOTS = (s.fld (R.radioCellStat cell) F.radioCellStat_SLOTS + 1) %
    (F.radioCellStat_SLOTS.max + 1)) ∧
  -- indicationWrite_drop
  (∀ (s : State) (cell : Nat) (esn : Nat) (x : CellSt) (u : SlotSt), s.Inv → cell < 512 → s.cellsAt cell = x → x.applied = true →
    x.slots.find? (·.esn == esn) = some u → (s.cellsAt (512 + cell)).stopAfter = none → u.run = true → x.blocks = [] → s.linkOn = false →
    Gives (.indicationWrite cell esn []) s fun t => t.fld (R.radioCellCnt cell) F.radioCellCnt_IND_DROP = min (s.fld (R.radioCellCnt cell)
    F.radioCellCnt_IND_DROP + 1) F.radioCellCnt_IND_DROP.max ∧ t.host = s.host) ∧
  -- indicationWrite_results
  (∀ (s : State) (cell : Nat) (esn : Nat) (x : CellSt) (u : SlotSt) (results : List (Nat × Nat × Nat)) (body : List Byte), s.Inv →
    cell < 512 → s.cellsAt cell = x → x.applied = true → x.slots.find? (·.esn == esn) = some u →
    (s.cellsAt (512 + cell)).stopAfter = none → u.run = true → x.blocks = [] → x.ra = [] → x.stopAfter = none → s.linkOn = true →
    s.noErrors = true →
    (body = Config.fapiJoin (fitMsgs (recIndBlk x.rcd - 32) ((u).indications cell (recScs x.rcd) [] ((((u).reports results).map fun m =>
    (m.1, s.readBytes m.2.1 m.2.2)))))) →
    Gives (.indicationWrite cell esn results) s fun t => t.hostRead (recPasid x.rcd) (indBlock x.rcd esn + 32) body.length = body ∧
    t.hostRead (recPasid x.rcd) (recIndBase x.rcd) 4 = leBytes ((esn + 1) % 2 ^ 32) 4 ∧
    (t.cellsAt cell).slots = x.slots.filter (·.esn != esn) ∧
    (t.cellsAt cell).wset = if (u.reports results).any (·.1 == 0x88) = true then esn + 1 else x.wset) ∧
  -- indicationWrite_late
  (∀ (s : State) (cell : Nat) (esn : Nat) (x : CellSt) (u : SlotSt), s.Inv → cell < 512 → s.cellsAt cell = x → x.applied = true →
    x.slots.find? (·.esn == esn) = some u → (s.cellsAt (512 + cell)).stopAfter = none → u.run = true → u.present = true →
    ulCount x.rcd esn ≠ 0 → s.onSn = true →
    0 < since (s.slotStart (muOf (recScs x.rcd)) esn + 1000000 / 2 ^ muOf (recScs x.rcd) + ulBound (recScs x.rcd)) s.readingNs →
    Gives (.indicationWrite cell esn []) s fun t => t.fld (R.radioCellCnt cell) F.radioCellCnt_UL_LATE = min (s.fld (R.radioCellCnt cell)
    F.radioCellCnt_UL_LATE + 1) F.radioCellCnt_UL_LATE.max) ∧
  -- nrxCall
  (∀ (s : State) (cell : Nat) (esn : Nat) (x : CellSt) (u : SlotSt) (n : NrxSt) (w0 : Nat) (w1 : Nat) (c : Nat) (sig : Nat) (prb : Nat)
    (chest : Nat) (nf : Nat) (pdu : Nat) (llr : Nat) (la : List (Nat × Nat)) (lb : List (Nat × Nat)) (d : List Byte), s.Inv → cell < 512 →
    s.cellsAt cell = x → x.applied = true → x.slots.find? (·.esn == esn) = some u → u.run = true → u.present = true → u.withheld = false →
    ulCount x.rcd esn ≠ 0 → (s.radio.nrxs.find? (fun m => m.n == recNrx x.rcd && recNrx x.rcd != 0) = some n) →
    nrxCallOf n x.rcd = some (w0, w1) → c < 64 → s.ctxActive c 4 = false → s.noErrors = true →
    s.locate 0x101 rightW (0x7E0000000000 + cell * 0x1000000) 64 = some la → d = u.pusch.flatMap puschRecord →
    s.locate 0x101 rightW pdu d.length = some lb →
    Gives (.nrxCall cell esn [c] sig prb chest nf pdu llr) s fun t => t.ctxActive c 4 = true ∧
    t.fld (R.coreCtxOwner c 4) F.coreCtxOwner_KIND = 2 ∧
    t.fld (R.coreCtxPc c 4) F.coreCtxPc_PC = (0x7F0000000000 + (n.n - 1) * 0x100000000 + n.codeOff + bits w0 63 32) % 2 ^ 48 ∧
    (t.ctxsAt (8 * c + 4)).cells = [cell] ∧ ∀ b, lb = [(b, d.length)] → s.dpaKind b = .kennel → t.readBytes b d.length = d) ∧
  -- nrxCall_block
  (∀ (s : State) (cell : Nat) (esn : Nat) (x : CellSt) (u : SlotSt) (n : NrxSt) (w0 : Nat) (w1 : Nat) (c : Nat) (sig : Nat) (prb : Nat)
    (chest : Nat) (nf : Nat) (pdu : Nat) (llr : Nat) (la : List (Nat × Nat)) (lb : List (Nat × Nat)) (d : List Byte) (a : Nat), s.Inv →
    cell < 512 → s.cellsAt cell = x → x.applied = true → x.slots.find? (·.esn == esn) = some u → u.run = true → u.present = true →
    u.withheld = false → ulCount x.rcd esn ≠ 0 → (s.radio.nrxs.find? (fun m => m.n == recNrx x.rcd && recNrx x.rcd != 0) = some n) →
    nrxCallOf n x.rcd = some (w0, w1) → c < 64 → s.ctxActive c 4 = false → s.noErrors = true →
    s.locate 0x101 rightW (0x7E0000000000 + cell * 0x1000000) 64 = some la → d = u.pusch.flatMap puschRecord →
    s.locate 0x101 rightW pdu d.length = some lb → d = [] → la = [(a, 64)] → s.dpaKind a = .kennel →
    Gives (.nrxCall cell esn [c] sig prb chest nf pdu llr) s fun t => t.readBytes a 64 = callBlock x u cell (sig % 4096) prb (if bit
    n.flags 0 = true then chest else 0) nf pdu llr) ∧
  -- radioStageOverrun
  (∀ (s : State) (cell : Nat), s.Inv → cell < 512 → (s.cellsAt cell).applied = true →
    Gives (.radioStageOverrun cell) s fun t => t.fld (R.radioCellStat cell) F.radioCellStat_FAULT = 6 ∧ ((s.cellsAt cell).running = true →
    t.fld (R.radioCellStat cell) F.radioCellStat_STATE = 3) ∧
    t.fld (R.radioCellCnt cell) F.radioCellCnt_FAULTS = min (s.fld (R.radioCellCnt cell) F.radioCellCnt_FAULTS + 1)
    F.radioCellCnt_FAULTS.max ∧ (∀ c, c < 64 → s.ctxActive c 4 && (s.ctxsAt (c * 8 + 4)).cells.contains cell → t.ctxActive c 4 = false))

/-- U-plane packets against windows; windows close; delay measurement; time-domain symbols. After 07_fronthaul.md: O-RAN split 7.2x and
eCPRI; 07_fronthaul.md: Windows; 07_fronthaul.md: Time-domain stream mode; 07_fronthaul.md: Fronthaul registers. -/
def Obligations.FronthaulReception : Prop :=
  -- uplanePacketRx_malformed
  (∀ (s : State) (port : Nat) (pkt : UPacket), s.Inv → port < 48 → (packetOk pkt = false ∨ s.fhCell port pkt = none) →
    Gives (.uplanePacketRx port pkt) s fun t => Same (.reg (R.fhPortCnt port)) s t ∧
    t.fld (R.fhPortCnt port) F.fhPortCnt_MALFORMED = min (s.fld (R.fhPortCnt port) F.fhPortCnt_MALFORMED + 1) F.fhPortCnt_MALFORMED.max) ∧
  -- uplanePacketRx_held
  (∀ (s : State) (port : Nat) (pkt : UPacket) (c : Nat) (x : CellSt), s.Inv → packetOk pkt = true → s.fhCell port pkt = some (c, x) →
    (s.cellsAt (c % 512)).applied = true → (pkt.frStamp = true ∨ s.heldFor (muOf (recScs x.rcd)) pkt.esn = true) →
    Gives (.uplanePacketRx port pkt) s fun t => Same (.any [.reg (R.fhCellCnt2 (c % 512)), pmcGlobalFoot]) s t ∧
    t.fld (R.fhCellCnt2 (c % 512)) F.fhCellCnt2_HELD_DROP = min (s.fld (R.fhCellCnt2 (c % 512)) F.fhCellCnt2_HELD_DROP + 1)
    F.fhCellCnt2_HELD_DROP.max) ∧
  -- uplanePacketRx_format
  (∀ (s : State) (port : Nat) (pkt : UPacket) (c : Nat) (x : CellSt), s.Inv → packetOk pkt = true → s.fhCell port pkt = some (c, x) →
    (s.cellsAt (c % 512)).applied = true → pkt.frStamp = false → s.heldFor (muOf (recScs x.rcd)) pkt.esn = false →
    (packetForm pkt x (tdLen x pkt.esn pkt.sym) = false ∨ s.windowOf x pkt = .eq ∧ x.expects pkt = false) →
    Gives (.uplanePacketRx port pkt) s fun t => Same (.any [.reg (R.fhCellCnt2 (c % 512)), pmcGlobalFoot]) s t ∧
    t.fld (R.fhCellCnt2 (c % 512)) F.fhCellCnt2_FORMAT = min (s.fld (R.fhCellCnt2 (c % 512)) F.fhCellCnt2_FORMAT + 1)
    F.fhCellCnt2_FORMAT.max) ∧
  -- uplanePacketRx_format_td
  (∀ (s : State) (port : Nat) (pkt : UPacket) (c : Nat) (x : CellSt), s.Inv → packetOk pkt = true → s.fhCell port pkt = some (c, x) →
    (s.cellsAt (c % 512)).applied = true → pkt.frStamp = false → s.heldFor (muOf (recScs x.rcd)) pkt.esn = false → recFhMode x.rcd = 2 →
    (pkt.section_ ≠ 255 ∨ pkt.tdFmt ≠ x.fhId F.fhCellId_TD_FMT ∨ tdLen x pkt.esn pkt.sym < pkt.tdOffset + pkt.tdSamples.length) →
    Gives (.uplanePacketRx port pkt) s fun t => Same (.any [.reg (R.fhCellCnt2 (c % 512)), pmcGlobalFoot]) s t ∧
    t.fld (R.fhCellCnt2 (c % 512)) F.fhCellCnt2_FORMAT = min (s.fld (R.fhCellCnt2 (c % 512)) F.fhCellCnt2_FORMAT + 1)
    F.fhCellCnt2_FORMAT.max) ∧
  -- uplanePacketRx_early
  (∀ (s : State) (port : Nat) (pkt : UPacket) (c : Nat) (x : CellSt) (esn : Nat) (sym : Nat) (k : Nat), s.Inv → packetOk pkt = true →
    s.fhCell port pkt = some (c, x) → (s.cellsAt (c % 512)).applied = true → pkt.frStamp = false →
    s.heldFor (muOf (recScs x.rcd)) pkt.esn = false → recFhMode x.rcd ≠ 2 → esn = pkt.esn → sym = pkt.sym → pkt.section_ = 1 →
    k = pkt.eaxc - x.fhId F.fhCellId_EAXC_BASE → k < 16 → x.fhId F.fhCellId_UL_STATIC = 1 → pkt.comp = none → s.windowOf x pkt = .lt →
    Gives (.uplanePacketRx port pkt) s fun t => Same (.any [.reg (R.fhCellCnt (c % 512)), pmcGlobalFoot]) s t ∧
    t.fld (R.fhCellCnt (c % 512)) F.fhCellCnt_EARLY = min (s.fld (R.fhCellCnt (c % 512)) F.fhCellCnt_EARLY + 1) F.fhCellCnt_EARLY.max) ∧
  -- uplanePacketRx_late
  (∀ (s : State) (port : Nat) (pkt : UPacket) (c : Nat) (x : CellSt) (esn : Nat) (sym : Nat) (k : Nat), s.Inv → packetOk pkt = true →
    s.fhCell port pkt = some (c, x) → (s.cellsAt (c % 512)).applied = true → pkt.frStamp = false →
    s.heldFor (muOf (recScs x.rcd)) pkt.esn = false → recFhMode x.rcd ≠ 2 → esn = pkt.esn → sym = pkt.sym → pkt.section_ = 1 →
    k = pkt.eaxc - x.fhId F.fhCellId_EAXC_BASE → k < 16 → x.fhId F.fhCellId_UL_STATIC = 1 → pkt.comp = none → s.windowOf x pkt = .gt →
    Gives (.uplanePacketRx port pkt) s fun t => Same (.any [.reg (R.fhCellCnt (c % 512)), pmcGlobalFoot]) s t ∧
    t.fld (R.fhCellCnt (c % 512)) F.fhCellCnt_LATE = min (s.fld (R.fhCellCnt (c % 512)) F.fhCellCnt_LATE + 1) F.fhCellCnt_LATE.max) ∧
  -- uplanePacketRx
  (∀ (s : State) (port : Nat) (pkt : UPacket) (c : Nat) (x : CellSt) (esn : Nat) (sym : Nat) (k : Nat) (p : PrbData), s.Inv →
    packetOk pkt = true → s.fhCell port pkt = some (c, x) → (s.cellsAt (c % 512)).applied = true → pkt.frStamp = false →
    s.heldFor (muOf (recScs x.rcd)) pkt.esn = false → recFhMode x.rcd ≠ 2 → esn = pkt.esn → sym = pkt.sym → pkt.section_ = 1 →
    k = pkt.eaxc - x.fhId F.fhCellId_EAXC_BASE → k < 16 → x.fhId F.fhCellId_UL_STATIC = 1 → pkt.comp = none → s.windowOf x pkt = .eq →
    x.asked esn = true → (x.slot esn).withheld = false → k < recUl x.rcd → ulSym x.rcd esn sym = true → pkt.prbs = [p] →
    p.prb < recNrb x.rcd → (x.stream k).landed.contains (esn, sym) = false → (∀ h, h ∈ (x.stream k).held → h.esn ≠ esn) →
    1 < recNrb x.rcd → Gives (.uplanePacketRx port pkt) s fun t => Same (.any [.entry .cells c, .reg R.fhStat, pmcGlobalFoot]) s t ∧
    t.cellsAt c = x.putStream k { x.stream k with held := (x.stream k).held ++ [⟨esn, sym, 1, p.prb, prbLine p.exp p.mant⟩] }) ∧
  -- uplanePacketRx_dup
  (∀ (s : State) (port : Nat) (pkt : UPacket) (c : Nat) (x : CellSt) (esn : Nat) (sym : Nat) (k : Nat) (p : PrbData), s.Inv →
    packetOk pkt = true → s.fhCell port pkt = some (c, x) → (s.cellsAt (c % 512)).applied = true → pkt.frStamp = false →
    s.heldFor (muOf (recScs x.rcd)) pkt.esn = false → recFhMode x.rcd ≠ 2 → esn = pkt.esn → sym = pkt.sym → pkt.section_ = 1 →
    k = pkt.eaxc - x.fhId F.fhCellId_EAXC_BASE → k < 16 → x.fhId F.fhCellId_UL_STATIC = 1 → pkt.comp = none → s.windowOf x pkt = .eq →
    x.asked esn = true → (x.slot esn).withheld = false → k < recUl x.rcd → ulSym x.rcd esn sym = true → pkt.prbs = [p] →
    p.prb < recNrb x.rcd → (x.stream k).landed.contains (esn, sym) = true → (∀ h, h ∈ (x.stream k).held → h.esn ≠ esn) →
    Gives (.uplanePacketRx port pkt) s fun t => t.fld (R.fhCellCnt (c % 512)) F.fhCellCnt_DUP = min (s.fld (R.fhCellCnt (c % 512))
    F.fhCellCnt_DUP + 1) F.fhCellCnt_DUP.max ∧ t.cellsAt c = x) ∧
  -- uplanePacketRx_td
  (∀ (s : State) (port : Nat) (pkt : UPacket) (c : Nat) (x : CellSt) (esn : Nat) (sym : Nat) (k : Nat), s.Inv → packetOk pkt = true →
    s.fhCell port pkt = some (c, x) → (s.cellsAt (c % 512)).applied = true → pkt.frStamp = false →
    s.heldFor (muOf (recScs x.rcd)) pkt.esn = false → recFhMode x.rcd = 2 → esn = pkt.esn → sym = pkt.sym →
    packetForm pkt x (tdLen x esn sym) = true → k = pkt.eaxc - x.fhId F.fhCellId_EAXC_BASE → k < 16 → s.windowOf x pkt = .eq →
    x.asked esn = true → (x.slot esn).withheld = false → k < recUl x.rcd → ulSym x.rcd esn sym = true →
    Gives (.uplanePacketRx port pkt) s fun t => Same (.any [.entry .cells c, .reg R.fhStat, pmcGlobalFoot]) s t ∧
    t.cellsAt c = x.putStream k { x.stream k with td := (x.stream k).td ++ [tdRange pkt] }) ∧
  -- receptionWindowClose
  (∀ (s : State) (cell : Nat) (k : Nat) (esn : Nat) (sym : Nat) (x : CellSt), s.Inv → cell < 512 →
    (s.cellsAt (512 + cell)).stopAfter = none → s.cellsAt cell = x → x.applied = true → x.asked esn = true →
    s.heldFor (muOf (recScs x.rcd)) esn = false → k < 16 → k < recUl x.rcd → recFhMode x.rcd ≠ 2 → ulSym x.rcd esn sym = true →
    recNrb x.rcd ≠ 0 → (x.stream k).landed.contains (esn, sym) = false → s.noErrors = true →
    Gives (.receptionWindowClose cell k esn sym) s fun t => t.fld (R.fhCellCnt cell) F.fhCellCnt_MISSING = min (s.fld (R.fhCellCnt cell)
    F.fhCellCnt_MISSING + 1) F.fhCellCnt_MISSING.max ∧
    t.cellsAt cell = x.putStream k { x.stream k with held := (x.stream k).held.filter (fun h => !(h.esn == esn && h.sym == sym && h.sec == 1)), landed := (esn, sym) :: (x.stream k).landed }
    ∧ (∀ p, p < recNrb x.rcd →
    t.lineAt (x.ulLine k esn sym p) = lineOf (((((x.stream k).held.filter fun h => h.esn == esn && h.sym == sym && h.sec == 1).find?
    (·.prb == p)).elim missingLine (·.line)).bytes))) ∧
  -- receptionWindowClose_td
  (∀ (s : State) (cell : Nat) (k : Nat) (esn : Nat) (sym : Nat) (x : CellSt), s.Inv → cell < 512 →
    (s.cellsAt (512 + cell)).stopAfter = none → s.cellsAt cell = x → x.applied = true → x.asked esn = true →
    s.heldFor (muOf (recScs x.rcd)) esn = false → k < 16 → k < recUl x.rcd → recFhMode x.rcd = 2 → ulSym x.rcd esn sym = true →
    (x.stream k).landed.contains (esn, sym) = false → (x.stream k).closed.contains (esn, sym) = false →
    Gives (.receptionWindowClose cell k esn sym) s fun t => Same (.any [.reg (R.fhCellCnt cell), .entry .cells cell, pmcGlobalFoot]) s t ∧
    t.fld (R.fhCellCnt cell) F.fhCellCnt_MISSING = min (s.fld (R.fhCellCnt cell) F.fhCellCnt_MISSING + tdGaps (tdLen x esn sym) ((x.stream
    k).td.filter fun r => r.esn == esn && r.sym == sym)) F.fhCellCnt_MISSING.max ∧
    t.cellsAt cell = x.putStream k { x.stream k with closed := (esn, sym) :: (x.stream k).closed }) ∧
  -- receptionWindowClose_held
  (∀ (s : State) (cell : Nat) (k : Nat) (esn : Nat) (sym : Nat) (x : CellSt), s.Inv → x = s.cellsAt (s.cellKey cell esn) →
    (x.asked esn = false ∨ s.heldFor (muOf (recScs x.rcd)) esn = true) →
    Gives (.receptionWindowClose cell k esn sym) s fun t => Same (.any []) s t) ∧
  -- oneWayDelayMeasurement
  (∀ (s : State) (port : Nat) (body : List Byte), s.Inv → s.fld (R.fhPortCfg port) F.fhPortCfg_USE = 1 →
    Gives (.oneWayDelayMeasurement port body) s fun t => Same (.whole [.emitted]) s t ∧
    t.emitted = .frame 7 port [s.readingNs] body :: s.emitted) ∧
  -- tdUplinkSymbol
  (∀ (s : State) (cell : Nat) (k : Nat) (esn : Nat) (sym : Nat) (x : CellSt) (mine : List TdRange) (gaps : Nat) (raw : List (Int × Int))
    (y : List (Int × Int)) (g : Nat) (n : Nat), s.Inv → cell < 512 → (s.cellsAt (512 + cell)).stopAfter = none → s.cellsAt cell = x →
    x.applied = true → recFhMode x.rcd = 2 → k < recUl x.rcd → x.asked esn = true → ulSym x.rcd esn sym = true →
    (x.stream k).landed.contains (esn, sym) = false → (mine = (x.stream k).td.filter fun r => r.esn == esn && r.sym == sym) →
    gaps = tdGaps (tdLen x esn sym) mine → (gaps = 0 ∨ (x.stream k).closed.contains (esn, sym) = true) → x.fhId F.fhCellId_SHIFT75 ≠ 1 →
    x.fhGain F.fhCellGain_MODE = 1 → g = s.fld (R.fhGainTbl (x.fhGain F.fhCellGain_INIT_STEP)) F.fhGainTbl_GCODE →
    n = fftSize (recNrb x.rcd) →
    (raw = ((dcRemove (x.stream k).dcI (x.stream k).dcQ (tdAssemble (tdLen x esn sym) mine)).2.2.map fun v => (v.1 * (g : Int) / 2 ^ 16,
    v.2 * (g : Int) / 2 ^ 16))) → (y = raw.map fun v => (sat16 v.1, sat16 v.2)) → s.noErrors = true →
    Gives (.tdUplinkSymbol cell k esn sym) s fun t => (∀ p, p < recNrb x.rcd →
    t.lineAt (x.ulLine k esn sym p) = lineOf (LineSt.bytes ⟨((Config.fft n (recNrb x.rcd) (y.drop (tdLen x esn sym - n))).drop (12 * p)).take 12, x.fhGain F.fhCellGain_INIT_STEP, (if gaps ≠ 0 then 1 else 0) + (if (raw.any (fun v => sat16 v.1 != v.1 || sat16 v.2 != v.2) || mine.any (·.sat)) = true then 2 else 0)⟩))
    ∧ ((t.cellsAt cell).stream k).landed = (esn, sym) :: (x.stream k).landed ∧
    ((t.cellsAt cell).stream k).td = (x.stream k).td.filter (fun r => !(r.esn == esn && r.sym == sym)) ∧
    (((t.cellsAt cell).stream k).dcI = (dcRemove (x.stream k).dcI (x.stream k).dcQ (tdAssemble (tdLen x esn sym) mine)).1 ∧
    ((t.cellsAt cell).stream k).dcQ = (dcRemove (x.stream k).dcI (x.stream k).dcQ (tdAssemble (tdLen x esn sym) mine)).2.1)) ∧
  -- tdDownlinkSymbol
  (∀ (s : State) (cell : Nat) (k : Nat) (esn : Nat) (sym : Nat) (x : CellSt) (n : Nat), s.Inv → cell < 512 → s.cellsAt cell = x →
    x.applied = true → recFhMode x.rcd = 2 → (x.slot esn).run = true → k < recDl x.rcd → dlSym x.rcd esn sym = true →
    (x.slot esn).withheld = false → n = fftSize (recNrb x.rcd) → s.noErrors = true →
    Gives (.tdDownlinkSymbol cell k esn sym) s fun t => Same (.any [.reg (R.fhCellCnt2 cell), .entry .cells cell, pmcGlobalFoot]) s t ∧
    t.cellsAt cell = x.putSlot
    { x.slot esn with td := (x.slot esn).td.filter (fun e => !(e.1 == k && e.2.1 == sym)) ++ [(k, sym, ((Config.ifft n ((x.dlLines k esn sym).flatMap fun a => (s.lineAt a).re)).drop (n - (tdLen x esn sym - n)) ++ Config.ifft n ((x.dlLines k esn sym).flatMap fun a => (s.lineAt a).re)).map fun v => (sat16 (Config.dlGain (x.fhGain F.fhCellGain_DL_GAIN) v.1), sat16 (Config.dlGain (x.fhGain F.fhCellGain_DL_GAIN) v.2)))] }) ∧
  -- otherFrameRx
  (∀ (s : State) (port : Nat), s.Inv → port < 48 → Gives (.otherFrameRx port) s fun t => Same (.reg (R.fhPortCnt port)) s t ∧
    t.fld (R.fhPortCnt port) F.fhPortCnt_OTHER = min (s.fld (R.fhPortCnt port) F.fhPortCnt_OTHER + 1) F.fhPortCnt_OTHER.max)

/-- Coding jobs are dispatched. After 09_channel_coding.md: Engines and rates; 09_channel_coding.md: The shared iteration budget;
09_channel_coding.md: Job descriptors; 09_channel_coding.md: Encoding, polar and short blocks. -/
def Obligations.CodingJobs : Prop :=
  -- ldpcDecodeJob
  (∀ (s : State) (cluster : Nat) (desc : Nat) (stat : Nat) (la : List (Nat × Nat)) (w : List Nat) (es : List Nat) (lb : List (Nat × Nat))
    (e : List Nat) (lc : List (Nat × Nat)) (len : Nat), s.Inv → cluster < 4 → s.cjobsAt (4 * cluster + 0) = none →
    (s.heldCode.find? (fun h => h.place == 4 * cluster + 0) = none) → s.noErrors = true → s.locate 0x100 rightR desc 64 = some la → (∀ x,
    x ∈ la → s.lineFenced x.1 = false) →
    (w = (List.range 8).map fun i => leNat ((la.flatMap fun x => s.readBytes x.1 x.2).drop (8 * i) |>.take 8)) →
    es = s.jobEngines cluster 7 (cEngMask w) false → es ≠ [] → cWaitEn w = false → cNent w = 1 →
    s.locate 0x100 rightR (cEntList w) 64 = some lb → (∀ x, x ∈ lb → s.lineFenced x.1 = false) →
    (e = (List.range 8).map fun i => leNat ((lb.flatMap fun x => s.readBytes x.1 x.2).drop (8 * i) |>.take 8)) → jKind w = 7 →
    s.inMemory (cEntList w) 64 = true → s.inMemory (cResBase w) 16 = true → s.inMemory (eIn e) 1 = true → s.inMemory (eOut e) 1 = true →
    s.entOk true e = true → 1 ≤ cItMin w → cItMin w ≤ 8 → cItMin w ≤ cItMax w → cItMax w ≤ 32 → cEt w ≠ 3 → (∀ k, k < es.length →
    cItMin w * (((List.range (eSeg e).C).filter fun r => r % es.length == k).length) ≤ poolShare (cBudget w) k es.length) →
    (len = codeLen 7 w [e] es (dealBlocks es ((List.range (eSeg e).C).map fun r => (0, r)))) →
    (len ≤ longestRun (fun n => !(es.any fun g => s.engRadio g n))) →
    (s.clk.cyc + len ≤ s.leftoverEnd (fun n => es.any fun g => s.engRadio g n) len) → s.locate 0x100 rightR (eIn e) (eG e) = some lc →
    (∀ x, x ∈ lc → s.lineFenced x.1 = false) → codeCharge 7 w [e] ≤ s.last.bucket →
    Gives (.ldpcDecodeJob cluster false desc stat false) s fun t => (t.cjobsAt (4 * cluster + 0)).map (fun j => (j.words, j.radio, j.stat,
    j.ents)) = some (w, false, stat, [e]) ∧ (t.cjobsAt (4 * cluster + 0)).map (fun j => (j.engines, j.inputs, j.cells,
    j.writing)) = some (es, [lc.flatMap fun x => s.readBytes x.1 x.2], [eCell e], false) ∧
    (t.cjobsAt (4 * cluster + 0)).map (fun j => j.blocks.map fun b => (b.ent, b.idx, b.eng,
    b.done)) = some ((List.range ((eSeg e).C)).map fun r => (0, r, es.getD (r % es.length) 0, false)) ∧
    t.fld (R.codeEngStat (es.headD 0)) F.codeEngStat_BUSY = 1 ∧ t.last.bucket = s.last.bucket - codeCharge 7 w [e]) ∧
  -- ldpcEncodeJob
  (∀ (s : State) (cluster : Nat) (desc : Nat) (stat : Nat) (la : List (Nat × Nat)) (w : List Nat) (es : List Nat) (lb : List (Nat × Nat))
    (e : List Nat) (lc : List (Nat × Nat)) (len : Nat), s.Inv → cluster < 4 → s.cjobsAt (4 * cluster + 1) = none →
    (s.heldCode.find? (fun h => h.place == 4 * cluster + 1) = none) → s.noErrors = true → s.locate 0x100 rightR desc 64 = some la → (∀ x,
    x ∈ la → s.lineFenced x.1 = false) →
    (w = (List.range 8).map fun i => leNat ((la.flatMap fun x => s.readBytes x.1 x.2).drop (8 * i) |>.take 8)) →
    es = s.jobEngines cluster 8 (cEngMask w) false → es ≠ [] → cWaitEn w = false → cNent w = 1 →
    s.locate 0x100 rightR (cEntList w) 64 = some lb → (∀ x, x ∈ lb → s.lineFenced x.1 = false) →
    (e = (List.range 8).map fun i => leNat ((lb.flatMap fun x => s.readBytes x.1 x.2).drop (8 * i) |>.take 8)) → jKind w = 8 →
    s.inMemory (cEntList w) 64 = true → s.inMemory (cResBase w) 16 = true → s.inMemory (eIn e) 1 = true → s.inMemory (eOut e) 1 = true →
    s.entOk false e = true → (len = codeLen 8 w [e] es (dealBlocks es ((List.range (eSeg e).C).map fun r => (0, r)))) →
    (len ≤ longestRun (fun n => !(es.any fun g => s.engRadio g n))) →
    (s.clk.cyc + len ≤ s.leftoverEnd (fun n => es.any fun g => s.engRadio g n) len) →
    s.locate 0x100 rightR (eIn e) (cdiv (eTbs e) 8) = some lc → (∀ x, x ∈ lc → s.lineFenced x.1 = false) →
    codeCharge 8 w [e] ≤ s.last.bucket →
    Gives (.ldpcEncodeJob cluster false desc stat) s fun t => (t.cjobsAt (4 * cluster + 1)).map (fun j => (j.words, j.radio, j.stat,
    j.ents)) = some (w, false, stat, [e]) ∧ (t.cjobsAt (4 * cluster + 1)).map (fun j => (j.engines, j.inputs, j.cells,
    j.writing)) = some (es, [lc.flatMap fun x => s.readBytes x.1 x.2], [eCell e], false) ∧
    (t.cjobsAt (4 * cluster + 1)).map (fun j => j.blocks.map fun b => (b.ent, b.idx, b.eng,
    b.done)) = some ((List.range ((eSeg e).C)).map fun r => (0, r, es.getD (r % es.length) 0, false)) ∧
    t.fld (R.codeEngStat (es.headD 0)) F.codeEngStat_BUSY = 1 ∧ t.last.bucket = s.last.bucket - codeCharge 8 w [e]) ∧
  -- dciEncode
  (∀ (s : State) (cluster : Nat) (desc : Nat) (stat : Nat) (cells : List Nat) (la : List (Nat × Nat)) (w : List Nat) (es : List Nat) (lb
    : List (Nat × Nat)) (e : List Nat) (lc : List (Nat × Nat)) (len : Nat), s.Inv → cluster < 4 → s.cjobsAt (4 * cluster + 2) = none →
    (s.heldCode.find? (fun h => h.place == 4 * cluster + 2) = none) → s.noErrors = true → s.locate 0x100 rightR desc 64 = some la → (∀ x,
    x ∈ la → s.lineFenced x.1 = false) →
    (w = (List.range 8).map fun i => leNat ((la.flatMap fun x => s.readBytes x.1 x.2).drop (8 * i) |>.take 8)) →
    es = s.jobEngines cluster 9 (cEngMask w) false → es ≠ [] → cWaitEn w = false → cNent w = 1 →
    s.locate 0x100 rightR (cEntList w) 32 = some lb → (∀ x, x ∈ lb → s.lineFenced x.1 = false) →
    (e = (List.range 4).map fun i => leNat ((lb.flatMap fun x => s.readBytes x.1 x.2).drop (8 * i) |>.take 8)) → jKind w = 9 →
    s.inMemory (cEntList w) 32 = true → s.inMemory (cResBase w) 16 = true → s.inMemory (pIn e) 1 = true → s.inMemory (pOut e) 1 = true →
    pType e = 0 → polarOk e = true → len = codeLen 9 w [e] es (dealBlocks es [(0, 0)]) →
    (len ≤ longestRun (fun n => !(es.any fun g => s.engRadio g n))) →
    (s.clk.cyc + len ≤ s.leftoverEnd (fun n => es.any fun g => s.engRadio g n) len) →
    s.locate 0x100 rightR (pIn e) (cdiv (pA e) 8) = some lc → (∀ x, x ∈ lc → s.lineFenced x.1 = false) →
    codeCharge 9 w [e] ≤ s.last.bucket →
    Gives (.dciEncode cluster false desc stat cells) s fun t => (t.cjobsAt (4 * cluster + 2)).map (fun j => (j.words, j.radio, j.stat,
    j.ents)) = some (w, false, stat, [e]) ∧ (t.cjobsAt (4 * cluster + 2)).map (fun j => (j.engines, j.inputs, j.cells,
    j.writing)) = some (es, [lc.flatMap fun x => s.readBytes x.1 x.2], cells, false) ∧
    (t.cjobsAt (4 * cluster + 2)).map (fun j => j.blocks.map fun b => (b.ent, b.idx, b.eng,
    b.done)) = some ((List.range (1)).map fun r => (0, r, es.getD (r % es.length) 0, false)) ∧
    t.fld (R.codeEngStat (es.headD 0)) F.codeEngStat_BUSY = 1 ∧ t.last.bucket = s.last.bucket - codeCharge 9 w [e]) ∧
  -- bchEncode
  (∀ (s : State) (cluster : Nat) (desc : Nat) (stat : Nat) (cells : List Nat) (la : List (Nat × Nat)) (w : List Nat) (es : List Nat) (lb
    : List (Nat × Nat)) (e : List Nat) (lc : List (Nat × Nat)) (len : Nat), s.Inv → cluster < 4 → s.cjobsAt (4 * cluster + 2) = none →
    (s.heldCode.find? (fun h => h.place == 4 * cluster + 2) = none) → s.noErrors = true → s.locate 0x100 rightR desc 64 = some la → (∀ x,
    x ∈ la → s.lineFenced x.1 = false) →
    (w = (List.range 8).map fun i => leNat ((la.flatMap fun x => s.readBytes x.1 x.2).drop (8 * i) |>.take 8)) →
    es = s.jobEngines cluster 9 (cEngMask w) false → es ≠ [] → cWaitEn w = false → cNent w = 1 →
    s.locate 0x100 rightR (cEntList w) 32 = some lb → (∀ x, x ∈ lb → s.lineFenced x.1 = false) →
    (e = (List.range 4).map fun i => leNat ((lb.flatMap fun x => s.readBytes x.1 x.2).drop (8 * i) |>.take 8)) → jKind w = 9 →
    s.inMemory (cEntList w) 32 = true → s.inMemory (cResBase w) 16 = true → s.inMemory (pIn e) 1 = true → s.inMemory (pOut e) 1 = true →
    pType e = 1 → polarOk e = true → len = codeLen 9 w [e] es (dealBlocks es [(0, 0)]) →
    (len ≤ longestRun (fun n => !(es.any fun g => s.engRadio g n))) →
    (s.clk.cyc + len ≤ s.leftoverEnd (fun n => es.any fun g => s.engRadio g n) len) →
    s.locate 0x100 rightR (pIn e) (cdiv (pA e) 8) = some lc → (∀ x, x ∈ lc → s.lineFenced x.1 = false) →
    codeCharge 9 w [e] ≤ s.last.bucket →
    Gives (.bchEncode cluster false desc stat cells) s fun t => (t.cjobsAt (4 * cluster + 2)).map (fun j => (j.words, j.radio, j.stat,
    j.ents)) = some (w, false, stat, [e]) ∧ (t.cjobsAt (4 * cluster + 2)).map (fun j => (j.engines, j.inputs, j.cells,
    j.writing)) = some (es, [lc.flatMap fun x => s.readBytes x.1 x.2], cells, false) ∧
    (t.cjobsAt (4 * cluster + 2)).map (fun j => j.blocks.map fun b => (b.ent, b.idx, b.eng,
    b.done)) = some ((List.range (1)).map fun r => (0, r, es.getD (r % es.length) 0, false)) ∧
    t.fld (R.codeEngStat (es.headD 0)) F.codeEngStat_BUSY = 1 ∧ t.last.bucket = s.last.bucket - codeCharge 9 w [e]) ∧
  -- uciPolarDecode
  (∀ (s : State) (cluster : Nat) (desc : Nat) (stat : Nat) (cells : List Nat) (la : List (Nat × Nat)) (w : List Nat) (es : List Nat) (lb
    : List (Nat × Nat)) (e : List Nat) (lc : List (Nat × Nat)) (len : Nat), s.Inv → cluster < 4 → s.cjobsAt (4 * cluster + 2) = none →
    (s.heldCode.find? (fun h => h.place == 4 * cluster + 2) = none) → s.noErrors = true → s.locate 0x100 rightR desc 64 = some la → (∀ x,
    x ∈ la → s.lineFenced x.1 = false) →
    (w = (List.range 8).map fun i => leNat ((la.flatMap fun x => s.readBytes x.1 x.2).drop (8 * i) |>.take 8)) →
    es = s.jobEngines cluster 9 (cEngMask w) false → es ≠ [] → cWaitEn w = false → cNent w = 1 →
    s.locate 0x100 rightR (cEntList w) 32 = some lb → (∀ x, x ∈ lb → s.lineFenced x.1 = false) →
    (e = (List.range 4).map fun i => leNat ((lb.flatMap fun x => s.readBytes x.1 x.2).drop (8 * i) |>.take 8)) → jKind w = 9 →
    s.inMemory (cEntList w) 32 = true → s.inMemory (cResBase w) 16 = true → s.inMemory (pIn e) 1 = true → s.inMemory (pOut e) 1 = true →
    pType e = 2 → polarOk e = true → len = codeLen 9 w [e] es (dealBlocks es [(0, 0)]) →
    (len ≤ longestRun (fun n => !(es.any fun g => s.engRadio g n))) →
    (s.clk.cyc + len ≤ s.leftoverEnd (fun n => es.any fun g => s.engRadio g n) len) → s.locate 0x100 rightR (pIn e) (pE e) = some lc →
    (∀ x, x ∈ lc → s.lineFenced x.1 = false) → codeCharge 9 w [e] ≤ s.last.bucket →
    Gives (.uciPolarDecode cluster false desc stat cells) s fun t => (t.cjobsAt (4 * cluster + 2)).map (fun j => (j.words, j.radio,
    j.stat, j.ents)) = some (w, false, stat, [e]) ∧ (t.cjobsAt (4 * cluster + 2)).map (fun j => (j.engines, j.inputs, j.cells,
    j.writing)) = some (es, [lc.flatMap fun x => s.readBytes x.1 x.2], cells, false) ∧
    (t.cjobsAt (4 * cluster + 2)).map (fun j => j.blocks.map fun b => (b.ent, b.idx, b.eng,
    b.done)) = some ((List.range (1)).map fun r => (0, r, es.getD (r % es.length) 0, false)) ∧
    t.fld (R.codeEngStat (es.headD 0)) F.codeEngStat_BUSY = 1 ∧ t.last.bucket = s.last.bucket - codeCharge 9 w [e]) ∧
  -- uciReedMullerDecode
  (∀ (s : State) (cluster : Nat) (desc : Nat) (stat : Nat) (cells : List Nat) (la : List (Nat × Nat)) (w : List Nat) (es : List Nat) (lb
    : List (Nat × Nat)) (e : List Nat) (lc : List (Nat × Nat)) (len : Nat), s.Inv → cluster < 4 → s.cjobsAt (4 * cluster + 2) = none →
    (s.heldCode.find? (fun h => h.place == 4 * cluster + 2) = none) → s.noErrors = true → s.locate 0x100 rightR desc 64 = some la → (∀ x,
    x ∈ la → s.lineFenced x.1 = false) →
    (w = (List.range 8).map fun i => leNat ((la.flatMap fun x => s.readBytes x.1 x.2).drop (8 * i) |>.take 8)) →
    es = s.jobEngines cluster 9 (cEngMask w) false → es ≠ [] → cWaitEn w = false → cNent w = 1 →
    s.locate 0x100 rightR (cEntList w) 32 = some lb → (∀ x, x ∈ lb → s.lineFenced x.1 = false) →
    (e = (List.range 4).map fun i => leNat ((lb.flatMap fun x => s.readBytes x.1 x.2).drop (8 * i) |>.take 8)) → jKind w = 9 →
    s.inMemory (cEntList w) 32 = true → s.inMemory (cResBase w) 16 = true → s.inMemory (pIn e) 1 = true → s.inMemory (pOut e) 1 = true →
    pType e = 3 → polarOk e = true → len = codeLen 9 w [e] es (dealBlocks es [(0, 0)]) →
    (len ≤ longestRun (fun n => !(es.any fun g => s.engRadio g n))) →
    (s.clk.cyc + len ≤ s.leftoverEnd (fun n => es.any fun g => s.engRadio g n) len) → s.locate 0x100 rightR (pIn e) (pE e) = some lc →
    (∀ x, x ∈ lc → s.lineFenced x.1 = false) → codeCharge 9 w [e] ≤ s.last.bucket →
    Gives (.uciReedMullerDecode cluster false desc stat cells) s fun t => (t.cjobsAt (4 * cluster + 2)).map (fun j => (j.words, j.radio,
    j.stat, j.ents)) = some (w, false, stat, [e]) ∧ (t.cjobsAt (4 * cluster + 2)).map (fun j => (j.engines, j.inputs, j.cells,
    j.writing)) = some (es, [lc.flatMap fun x => s.readBytes x.1 x.2], cells, false) ∧
    (t.cjobsAt (4 * cluster + 2)).map (fun j => j.blocks.map fun b => (b.ent, b.idx, b.eng,
    b.done)) = some ((List.range (1)).map fun r => (0, r, es.getD (r % es.length) 0, false)) ∧
    t.fld (R.codeEngStat (es.headD 0)) F.codeEngStat_BUSY = 1 ∧ t.last.bucket = s.last.bucket - codeCharge 9 w [e]) ∧
  -- ldpcDecodeJob_wait
  (∀ (s : State) (cluster : Nat) (desc : Nat) (stat : Nat) (la : List (Nat × Nat)) (w : List Nat) (es : List Nat), s.Inv → cluster < 4 →
    s.cjobsAt (4 * cluster) = none → (s.heldCode.find? (fun h => h.place == 4 * cluster) = none) → s.noErrors = true →
    s.locate 0x100 rightR desc 64 = some la → (∀ x, x ∈ la → s.lineFenced x.1 = false) →
    (w = (List.range 8).map fun i => leNat ((la.flatMap fun x => s.readBytes x.1 x.2).drop (8 * i) |>.take 8)) →
    es = s.jobEngines cluster 7 (cEngMask w) false → es ≠ [] → cWaitEn w = true → s.syncBad 0x100 (jWaitIdx w) = false →
    s.syncOk 0x100 (jWaitIdx w) (jWaitVal w) = false →
    Gives (.ldpcDecodeJob cluster false desc stat false) s fun t => (t.cjobsAt (4 * cluster)).map (fun j => (j.words, j.radio, j.stat,
    j.engines)) = some (w, false, stat, es) ∧ (t.cjobsAt (4 * cluster)).map (fun j => (j.waiting, j.writing, j.blocks)) = some (true,
    false, []) ∧ t.last.bucket = s.last.bucket) ∧
  -- ldpcDecodeJob_waiting
  (∀ (s : State) (cluster : Nat) (desc : Nat) (stat : Nat) (j : CodeJob), s.Inv → cluster < 4 → s.cjobsAt (4 * cluster) = some j →
    (j.waiting = false ∨ cWaitEn j.words = true ∧ s.syncBad 0x100 (jWaitIdx j.words) = false ∧
    s.syncOk 0x100 (jWaitIdx j.words) (jWaitVal j.words) = false) →
    Gives (.ldpcDecodeJob cluster false desc stat false) s fun t => Same (.any []) s t)

/-- Blocks end, checks fail, results and status records, overruns, self-tests, HARQ expiry. After 09_channel_coding.md: Job descriptors;
09_channel_coding.md: HARQ soft buffers; 09_channel_coding.md: Scheduling, overrun and faults; 10_random_access.md: Capacity, checks
and coincidences. -/
def Obligations.CodingResults : Prop :=
  -- codeBlockDone_check
  (∀ (s : State) (engine : Nat) (k : Nat) (j : CodeJob) (b : CodeBlk) (ce : Nat), s.Inv → engine < 40 → k < 16 →
    s.jobOf engine = some (k, j) → (j.blocks.find? (fun x => x.eng == engine && !x.done) = some b) → j.radio = false →
    Gives (.codeBlockDone engine true ce) s fun t => t.cjobsAt k = none ∧
    t.fld (R.codeEngCnt engine) F.codeEngCnt_CHK_FAIL = min (s.fld (R.codeEngCnt engine) F.codeEngCnt_CHK_FAIL + 1)
    F.codeEngCnt_CHK_FAIL.max ∧
    t.fld (R.codeEngCnt engine) F.codeEngCnt_MEM_CE = min (s.fld (R.codeEngCnt engine) F.codeEngCnt_MEM_CE + ce) F.codeEngCnt_MEM_CE.max ∧
    t.fld (R.codeEngStat engine) F.codeEngStat_FENCE = 1 ∧ t.fld (R.codeEngStat engine) F.codeEngStat_SUSPECT = 1 ∧ (∀ e, e ∈ j.engines →
    e < 40 → t.fld (R.codeEngStat e) F.codeEngStat_BUSY = 0)) ∧
  -- codeBlockDone_check_radio
  (∀ (s : State) (engine : Nat) (k : Nat) (j : CodeJob) (b : CodeBlk) (cell : Nat) (ce : Nat), s.Inv → engine < 40 → k < 16 →
    s.jobOf engine = some (k, j) → (j.blocks.find? (fun x => x.eng == engine && !x.done) = some b) → j.radio = true → j.cells = [cell] →
    cell < 512 → (s.cellsAt cell).applied = true → Gives (.codeBlockDone engine true ce) s fun t => t.cjobsAt k = none ∧
    t.fld (R.codeEngStat engine) F.codeEngStat_FENCE = 1 ∧ t.fld (R.radioCellStat cell) F.radioCellStat_FAULT = 3 ∧
    t.fld (R.radioCellCnt cell) F.radioCellCnt_FAULTS = min (s.fld (R.radioCellCnt cell) F.radioCellCnt_FAULTS + 1)
    F.radioCellCnt_FAULTS.max) ∧
  -- codeBlockDone
  (∀ (s : State) (engine : Nat) (k : Nat) (j : CodeJob) (b : CodeBlk) (ce : Nat), s.Inv → engine < 40 → k < 16 →
    s.jobOf engine = some (k, j) → jKind j.words = 9 → (j.blocks.find? (fun x => x.eng == engine && !x.done) = some b) → (∃ x,
    x ∈ j.blocks ∧ x.done = false ∧ (x.ent ≠ b.ent ∨ x.idx ≠ b.idx)) →
    Gives (.codeBlockDone engine false ce) s fun t => t.cjobsAt k = some
    { j with blocks := j.blocks.map fun x => if x.ent == b.ent && x.idx == b.idx then { b with done := true, pass := true } else x, main := j.main.set (j.engines.idxOf engine) (j.main.getD (j.engines.idxOf engine) 0), spill := j.spill.set (j.engines.idxOf engine) (j.spill.getD (j.engines.idxOf engine) 0) }
    ∧ t.fld (R.codeEngCnt engine) F.codeEngCnt_BLOCKS = min (s.fld (R.codeEngCnt engine) F.codeEngCnt_BLOCKS + 1) F.codeEngCnt_BLOCKS.max
    ∧ t.fld (R.codeEngCnt engine) F.codeEngCnt_MEM_CE = min (s.fld (R.codeEngCnt engine) F.codeEngCnt_MEM_CE + ce) F.codeEngCnt_MEM_CE.max) ∧
  -- codeBlockDone_encode
  (∀ (s : State) (engine : Nat) (k : Nat) (j : CodeJob) (b : CodeBlk) (ce : Nat), s.Inv → engine < 40 → k < 16 →
    s.jobOf engine = some (k, j) → jKind j.words = 8 → j.radio = false → (j.blocks.find? (fun x => x.eng == engine && !x.done) = some b) →
    (∃ x, x ∈ j.blocks ∧ x.done = false ∧ (x.ent ≠ b.ent ∨ x.idx ≠ b.idx)) →
    Gives (.codeBlockDone engine false ce) s fun t => (encodeChecks (j.ents.getD b.ent []) (j.inputs.getD b.ent []) b.idx = true →
    t.cjobsAt k = some
    { j with blocks := j.blocks.map fun x => if x.ent == b.ent && x.idx == b.idx then { b with done := true, pass := true } else x, main := j.main.set (j.engines.idxOf engine) (j.main.getD (j.engines.idxOf engine) 0), spill := j.spill.set (j.engines.idxOf engine) (j.spill.getD (j.engines.idxOf engine) 0) }
    ∧ t.fld (R.codeEngCnt engine) F.codeEngCnt_BLOCKS = min (s.fld (R.codeEngCnt engine) F.codeEngCnt_BLOCKS + 1) F.codeEngCnt_BLOCKS.max)
    ∧ (encodeChecks (j.ents.getD b.ent []) (j.inputs.getD b.ent []) b.idx = false → t.cjobsAt k = none ∧
    t.fld (R.codeEngCnt engine) F.codeEngCnt_CHK_FAIL = min (s.fld (R.codeEngCnt engine) F.codeEngCnt_CHK_FAIL + 1)
    F.codeEngCnt_CHK_FAIL.max ∧ t.fld (R.codeEngStat engine) F.codeEngStat_FENCE = 1)) ∧
  -- codeBlockDone_last
  (∀ (s : State) (engine : Nat) (k : Nat) (j : CodeJob) (b : CodeBlk) (e : List Nat) (a : Nat) (ce : Nat), s.Inv → engine < 40 → k < 16 →
    s.jobOf engine = some (k, j) → (jKind j.words = 8 ∨ jKind j.words = 9 ∧ pType e < 2) → j.radio = false → j.blocks = [b] →
    b.eng = engine → b.done = false → j.ents = [e] → s.noErrors = true → s.locate 0x100 rightW (cResBase j.words) 16 = some [(a, 16)] →
    s.dpaKind a = .kennel → (jKind j.words = 8 → encodeChecks (j.ents.getD b.ent []) (j.inputs.getD b.ent []) b.idx = true) →
    Gives (.codeBlockDone engine false ce) s fun t => (t.cjobsAt k).map (fun x => (x.writing, x.endTick)) = some (true, s.tick) ∧
    t.fld (R.codeEngCnt engine) F.codeEngCnt_BLOCKS = min (s.fld (R.codeEngCnt engine) F.codeEngCnt_BLOCKS + 1) F.codeEngCnt_BLOCKS.max ∧
    t.fld (R.codeEngStat engine) F.codeEngStat_BUSY = 0 ∧ t.readBytes a 16 = wordBytes [BitVec.ofNat 64 (2 ^ 63), 0]) ∧
  -- codingStatusRecord
  (∀ (s : State) (cluster : Nat) (kind : Nat) (j : CodeJob) (a : Nat), s.Inv → cluster < 4 → 7 ≤ kind → kind ≤ 9 →
    s.cjobsAt (4 * cluster + (kind - 7)) = some j → j.writing = true → j.radio = false → s.noErrors = true →
    s.locate 0x100 rightW (j.stat + 32 * jStatSel j.words) 32 = some [(a, 32)] → s.dpaKind a = .kennel → cSigEn j.words = true →
    Gives (.codingStatusRecord cluster kind) s fun t => t.cjobsAt (4 * cluster + (kind - 7)) = none ∧ (∀ e, e ∈ j.engines → e < 40 →
    t.fld (R.codeEngStat e) F.codeEngStat_BUSY = 0) ∧
    t.sigq = s.sigq ++ [⟨0x100, jSigIdx j.words, .coding (j.engines.headD 0), j.cells, jId j.words, 0⟩] ∧
    t.readBytes a 32 = wordBytes [BitVec.ofNat 64 (jId j.words), BitVec.ofNat 64 (min 65535 (j.blocks.countP fun b => b.stop == stopBudget) * 2 ^ 48 + min 65535 (cSpill j.words - j.spill.sum) * 2 ^ 32 + min (2 ^ 32 - 1) (j.blocks.map (·.iters)).sum), BitVec.ofNat 64 j.endTick, BitVec.ofNat 64 (2 ^ 63)]) ∧
  -- codingJobOverrun
  (∀ (s : State) (cluster : Nat) (kind : Nat) (j : CodeJob), s.Inv → cluster < 4 → 7 ≤ kind → kind ≤ 9 →
    s.cjobsAt (4 * cluster + (kind - 7)) = some j → j.writing = false → j.radio = false → (∀ e, e ∈ j.engines → e < 40) → (∀ d,
    d ∈ j.cells → d < 512) →
    Gives (.codingJobOverrun cluster kind) s fun t => Same (.any [.entry .cjobs (4 * cluster + (kind - 7)), .regFam 40 R.codeEngStat, .whole [.heldCode]])
    s t ∧ t.cjobsAt (4 * cluster + (kind - 7)) = none ∧
    t.heldCode = s.heldCode ++ [⟨4 * cluster + (kind - 7), j.words, j.stat, j.cells⟩] ∧ (∀ e, e ∈ j.engines →
    t.fld (R.codeEngStat e) F.codeEngStat_BUSY = 0)) ∧
  -- codingJobOverrun_radio
  (∀ (s : State) (cluster : Nat) (kind : Nat) (j : CodeJob) (cell : Nat), s.Inv → cluster < 4 → 7 ≤ kind → kind ≤ 9 →
    s.cjobsAt (4 * cluster + (kind - 7)) = some j → j.writing = false → j.radio = true → j.cells = [cell] → cell < 512 →
    (s.cellsAt cell).applied = true → Gives (.codingJobOverrun cluster kind) s fun t => t.cjobsAt (4 * cluster + (kind - 7)) = none ∧
    t.fld (R.radioCellStat cell) F.radioCellStat_FAULT = 6 ∧
    t.fld (R.radioCellCnt cell) F.radioCellCnt_FAULTS = min (s.fld (R.radioCellCnt cell) F.radioCellCnt_FAULTS + 1)
    F.radioCellCnt_FAULTS.max) ∧
  -- engineSelftest_pass
  (∀ (s : State) (engine : Nat), s.Inv → Gives (.engineSelftest engine true) s fun t => Same (.any []) s t) ∧
  -- engineSelftest_fail
  (∀ (s : State) (engine : Nat), s.Inv → engine < 40 → s.flag (R.codeEngStat engine) F.codeEngStat_SUSPECT = true →
    Gives (.engineSelftest engine false) s fun t => Same (.any [.reg (R.codeEngStat engine), .whole [.flash]]) s t ∧
    t.fld (R.codeEngStat engine) F.codeEngStat_RETIRE_PEND = 1 ∧ t.flash.retire = setBit s.flash.retire (416 + engine)) ∧
  -- engineSelftest_detector
  (∀ (s : State) (d : Nat), s.Inv → d < 8 → s.detsAt d = true →
    Gives (.engineSelftest (56 + d) false) s fun t => Same (.whole [.flash]) s t ∧ t.flash.retire = setBit s.flash.retire (472 + d)) ∧
  -- harqTtlExpiry
  (∀ (s : State) (cell : Nat) (rnti : Nat) (h : Nat) (x : CellSt), s.Inv → s.cellsAt cell = x →
    ((x.hq.any fun e => e.rnti == rnti && e.hid == h) = true) → x.hqUsed ≤ s.fld R.codeStat F.codeStat_HQ_USED →
    Gives (.harqTtlExpiry cell rnti h) s fun t => Same (.any [.entry .cells cell, .reg R.codeStat]) s t ∧
    (t.cellsAt cell).hq = x.hq.filter (fun e => !(e.rnti == rnti && e.hid == h)) ∧
    t.fld R.codeStat F.codeStat_HQ_USED = s.fld R.codeStat F.codeStat_HQ_USED + (t.cellsAt cell).hqUsed - x.hqUsed)

/-- Random-access occasions searched; msgA decodes. After 10_random_access.md: Search windows and the detection rule; 10_random_access.md:
msgA; 10_random_access.md: Reports; 10_random_access.md: Capacity, checks and coincidences. -/
def Obligations.RandomAccess : Prop :=
  -- raOccasionSearch_reset
  (∀ (s : State) (cell : Nat) (cfg : Nat) (esn : Nat) (sym : Nat) (raIdx : Nat) (det : Nat) (x : CellSt) (checkFail : Bool), s.Inv →
    cell < 512 → (s.cellsAt (512 + cell)).stopAfter = none → s.cellsAt cell = x → x.applied = true → x.raRuns esn = true → cfg < 2 →
    x.raOn cfg = true → x.raReset esn = true →
    Gives (.raOccasionSearch cell cfg esn sym raIdx det checkFail) s fun t => Same (.reg (R.raCellCnt cell)) s t ∧
    t.fld (R.raCellCnt cell) F.raCellCnt_OCC_LOST = min (s.fld (R.raCellCnt cell) F.raCellCnt_OCC_LOST + 1) F.raCellCnt_OCC_LOST.max) ∧
  -- raOccasionSearch_held
  (∀ (s : State) (cell : Nat) (cfg : Nat) (esn : Nat) (sym : Nat) (raIdx : Nat) (det : Nat) (x : CellSt) (checkFail : Bool), s.Inv →
    cell < 512 → (s.cellsAt (512 + cell)).stopAfter = none → s.cellsAt cell = x → x.applied = true → x.raRuns esn = true → cfg < 2 →
    x.raOn cfg = true → x.raReset esn = false → x.raLanded cfg esn sym = false →
    (x.raStop.isSome = true ∨ s.heldFor (muOf (recScs x.rcd)) esn = true) →
    Gives (.raOccasionSearch cell cfg esn sym raIdx det checkFail) s fun t => Same (.reg (R.raCellCnt cell)) s t ∧
    t.fld (R.raCellCnt cell) F.raCellCnt_OCC_LOST = min (s.fld (R.raCellCnt cell) F.raCellCnt_OCC_LOST + 1) F.raCellCnt_OCC_LOST.max) ∧
  -- raOccasionSearch_waits
  (∀ (s : State) (cell : Nat) (cfg : Nat) (esn : Nat) (sym : Nat) (raIdx : Nat) (det : Nat) (x : CellSt) (checkFail : Bool), s.Inv →
    cell < 512 → (s.cellsAt (512 + cell)).stopAfter = none → s.cellsAt cell = x → x.applied = true → x.raRuns esn = true → cfg < 2 →
    x.raOn cfg = true → x.raReset esn = false → x.raLanded cfg esn sym = false → x.raStop = none →
    s.heldFor (muOf (recScs x.rcd)) esn = false →
    Gives (.raOccasionSearch cell cfg esn sym raIdx det checkFail) s fun t => Same (.any []) s t) ∧
  -- raOccasionSearch_fenced
  (∀ (s : State) (cell : Nat) (cfg : Nat) (esn : Nat) (sym : Nat) (raIdx : Nat) (det : Nat) (x : CellSt) (checkFail : Bool), s.Inv →
    cell < 512 → (s.cellsAt (512 + cell)).stopAfter = none → s.cellsAt cell = x → x.applied = true → x.raRuns esn = true → cfg < 2 →
    x.raOn cfg = true → x.raReset esn = false → x.raLanded cfg esn sym = true → s.raDetector x det = none →
    Gives (.raOccasionSearch cell cfg esn sym raIdx det checkFail) s fun t => t.fld (R.raCellCnt cell) F.raCellCnt_OCC_LOST = min (min
    (s.fld (R.raCellCnt cell) F.raCellCnt_OCC_LOST + 1) F.raCellCnt_OCC_LOST.max + x.ra.length) F.raCellCnt_OCC_LOST.max ∧
    t.fld (R.radioCellStat cell) F.radioCellStat_FAULT = 6 ∧
    t.fld (R.radioCellCnt cell) F.radioCellCnt_FAULTS = min (s.fld (R.radioCellCnt cell) F.radioCellCnt_FAULTS + 1)
    F.radioCellCnt_FAULTS.max) ∧
  -- raOccasionSearch_check
  (∀ (s : State) (cell : Nat) (cfg : Nat) (esn : Nat) (sym : Nat) (raIdx : Nat) (det : Nat) (x : CellSt) (d : Nat), s.Inv → cell < 512 →
    (s.cellsAt (512 + cell)).stopAfter = none → s.cellsAt cell = x → x.applied = true → x.raRuns esn = true → cfg < 2 →
    x.raOn cfg = true → x.raReset esn = false → x.raLanded cfg esn sym = true → s.raDetector x det = some d →
    Gives (.raOccasionSearch cell cfg esn sym raIdx det true) s fun t => t.detsAt d = true ∧
    t.fld (R.raCellCnt cell) F.raCellCnt_OCC_LOST = min (min (s.fld (R.raCellCnt cell) F.raCellCnt_OCC_LOST + 1) F.raCellCnt_OCC_LOST.max
    + x.ra.length) F.raCellCnt_OCC_LOST.max ∧ t.fld (R.radioCellStat cell) F.radioCellStat_FAULT = 3 ∧
    t.fld (R.radioCellCnt cell) F.radioCellCnt_FAULTS = min (s.fld (R.radioCellCnt cell) F.radioCellCnt_FAULTS + 1)
    F.radioCellCnt_FAULTS.max) ∧
  -- raOccasionSearch_found
  (∀ (s : State) (cell : Nat) (cfg : Nat) (esn : Nat) (sym : Nat) (raIdx : Nat) (det : Nat) (x : CellSt) (f : RaFound) (out : List
    RaDet), s.Inv → cell < 512 → (s.cellsAt (512 + cell)).stopAfter = none → s.cellsAt cell = x → x.applied = true → x.raRuns esn = true →
    cfg < 2 → x.raOn cfg = true → x.raReset esn = false → x.raLanded cfg esn sym = true → (s.raDetector x det).isSome = true →
    s.noErrors = true →
    (f = raSearch x cfg (x.raFmtOf cfg esn sym) ((List.range (recUl x.rcd)).map fun k => (x.raPlaces k cfg esn sym raIdx).map s.lineAt)) →
    (out = if F.raCellCfg_MSGA.get (x.reg (1 + cfg)) = 1 then raSelect (F.raCellCfg_MSGA_MAX.get (x.reg (1 + cfg))) x.raH f.dets else
    f.dets.map (·.1)) →
    Gives (.raOccasionSearch cell cfg esn sym raIdx det false) s fun t => (t.cellsAt cell).ra = x.ra ++ (if f.mask = 0 ∨ out ≠ [] then
    [⟨cfg, esn, sym, raIdx, raEnd (x.raFmtOf cfg esn sym) (recScs x.rcd) esn sym, f.flags, f.noise, f.mask, out⟩] else []) ∧
    (t.cellsAt cell).raTry = x.raTry ++ (out.filter fun d => bit d.flags 1).map (fun d => (d.handle, d.preamble, d.delay)) ∧
    (t.cellsAt cell).raH = (x.raH + (out.filter fun d => bit d.flags 1).length) % 65535 ∧
    t.fld (R.raCellCnt cell) F.raCellCnt_TRUNC = min (s.fld (R.raCellCnt cell) F.raCellCnt_TRUNC + f.trunc) F.raCellCnt_TRUNC.max) ∧
  -- raOccasionSearch
  (∀ (s : State) (cell : Nat) (cfg : Nat) (esn : Nat) (sym : Nat) (raIdx : Nat) (det : Nat) (x : CellSt) (fmt : Nat) (thr : Nat) (n :
    Nat) (lines : List (List LineSt)) (used : List (List LineSt)) (pdps : List (List Nat)) (wins : List (List (RaDet × Nat) × Bool)),
    s.Inv → cell < 512 → (s.cellsAt (512 + cell)).stopAfter = none → s.cellsAt cell = x → x.applied = true → x.raRuns esn = true →
    cfg < 2 → x.raOn cfg = true → x.raReset esn = false → x.raLanded cfg esn sym = true → (s.raDetector x det).isSome = true →
    s.noErrors = true → F.raCellCfg_MSGA.get (x.reg (1 + cfg)) = 0 → fmt = x.raFmtOf cfg esn sym →
    (thr = if F.raCellCfg_THR.get (x.reg (1 + cfg)) = 0 then raThrDefault fmt (recUl x.rcd) else F.raCellCfg_THR.get (x.reg (1 + cfg))) →
    (lines = (List.range (recUl x.rcd)).map fun k => (x.raPlaces k cfg esn sym raIdx).map s.lineAt) →
    (used = lines.filter fun l => l.all fun e => e.flags % 2 == 0) →
    (pdps = if used.isEmpty then [] else (List.range (F.raCellCfg_NPRE.get (x.reg (1 + cfg)))).map fun p => raPdp (x.reg (1 + cfg)).toNat
    fmt p used) → n = medianOf pdps.flatten → (wins = pdps.zipIdx.map fun (p,
    i) => raWindow (recScs x.rcd) fmt n thr i (if lines.any fun l => l.any fun e => bit e.flags 1 then 16 else 0) p) →
    Gives (.raOccasionSearch cell cfg esn sym raIdx det false) s fun t => (t.cellsAt cell).ra.map (fun o => (o.cfg, o.esn, o.sym, o.raIdx,
    o.rep)) = x.ra.map (fun o => (o.cfg, o.esn, o.sym, o.raIdx,
    o.rep)) ++ (if used.isEmpty ∨ wins.flatMap (·.1) ≠ [] then [(cfg, esn, sym, raIdx, raEnd fmt (recScs x.rcd) esn sym)] else []) ∧
    (t.cellsAt cell).ra.map (fun o => (o.flags, o.noise, o.dets)) = x.ra.map (fun o => (o.flags, o.noise,
    o.dets)) ++ (if used.isEmpty ∨ wins.flatMap (·.1) ≠ [] then
    [(cfg + (if (wins.filter (·.2)).isEmpty then 0 else 2) + (if used.length < lines.length then 4 else 0) + (if used.isEmpty then 8 else 0), Config.raLevel n, (wins.flatMap (·.1)).map (·.1))]
    else []) ∧
    t.fld (R.raCellCnt cell) F.raCellCnt_TRUNC = min (s.fld (R.raCellCnt cell) F.raCellCnt_TRUNC + (wins.filter (·.2)).length) F.raCellCnt_TRUNC.max
    ∧ t.fld (R.raCellCnt cell) F.raCellCnt_OCC_LOST = s.fld (R.raCellCnt cell) F.raCellCnt_OCC_LOST) ∧
  -- msgaDecode
  (∀ (s : State) (cell : Nat) (handle : Nat) (esn : Nat) (x : CellSt) (preamble : Nat) (delay : Nat) (pass : Bool) (data : List Byte),
    s.Inv → cell < 512 → (s.cellsAt (512 + cell)).stopAfter = none → s.cellsAt cell = x → x.applied = true →
    x.raTry.find? (·.1 == handle) = some (handle, preamble, delay) → s.noErrors = true →
    (Config.msgaDecode cell [handle, esn, (x.reg 3).toNat, preamble, delay] ((x.msgaPlaces esn).map fun a => (s.lineAt a).re) = (pass,
    data)) → Gives (.msgaDecode cell handle esn) s fun t => (t.cellsAt cell).raTry = x.raTry.filter (·.1 != handle) ∧
    (t.cellsAt cell).ra = x.ra.map (fun o =>
    { o with dets := o.dets.map fun d => if d.handle == handle then { d with flags := d.flags + (if pass then 4 else 0) } else d }) ∧
    ((t.cellsAt cell).slot esn).inds = (x.slot esn).inds ++
    [(0x86, Config.fapiBody 0x86 [(sfnSlot (recScs x.rcd) esn).1, (sfnSlot (recScs x.rcd) esn).2, if pass then 1 else 0, handle])] ++ (if
    pass then [(0x85, Config.fapiBody 0x85 [(sfnSlot (recScs x.rcd) esn).1, (sfnSlot (recScs x.rcd) esn).2, handle] ++ data)] else []))

/-- Period boundaries, stitches, the rebuild of the Last. After 12_last_schedule.md: Periods and stitches; 12_last_schedule.md: Building
and swapping; 12_last_schedule.md: Fenced arrays held by the radio; 12_last_schedule.md: Power split. -/
def Obligations.LastPeriods : Prop :=
  -- periodBoundary
  (∀ (s : State) (measW : Nat) (n : Nat), s.Inv → n = s.fld R.lastPeriod F.lastPeriod_PERIODS + 1 →
    s.flag R.lastStat F.lastStat_SWAP_PEND = false → s.last.nextCap = none → s.last.nextTherm = none →
    Gives (.periodBoundary measW) s fun t => t.fld R.lastPeriod F.lastPeriod_PERIODS = n % (F.lastPeriod_PERIODS.max + 1) ∧
    t.fld R.lastBtick F.lastBtick_TICK = s.tick % (F.lastBtick_TICK.max + 1) ∧ t.fld R.lastStat F.lastStat_STITCH = 0 ∧
    t.fld R.lastStat F.lastStat_LONG = 0 ∧ t.fld R.lastPwr2 F.lastPwr2_MEAS_W = measW % (F.lastPwr2_MEAS_W.max + 1) ∧
    t.fld R.lastPwr2 F.lastPwr2_CORR_PCT = corrNext (s.fld R.lastPwr2 F.lastPwr2_CORR_PCT) measW (s.fld R.lastPwr F.lastPwr_CAP_W) (s.fld
    R.lastPwr F.lastPwr_SHARE_W) % (F.lastPwr2_CORR_PCT.max + 1) ∧ t.fld R.lastPwr F.lastPwr_CAP_W = s.fld R.lastPwr F.lastPwr_CAP_W ∧
    t.last.active = s.last.active) ∧
  -- periodBoundary_cap
  (∀ (s : State) (measW : Nat) (c : Nat), s.Inv → s.flag R.lastStat F.lastStat_SWAP_PEND = false → s.last.nextCap = some c →
    s.last.nextTherm = none → c < 65536 → Gives (.periodBoundary measW) s fun t => t.fld R.lastPwr F.lastPwr_CAP_W = c ∧
    t.last.nextCap = none) ∧
  -- periodBoundary_swap
  (∀ (s : State) (measW : Nat), s.Inv → s.flag R.lastStat F.lastStat_SWAP_PEND = true →
    s.fld R.lastSwap F.lastSwap_AT = s.fld R.lastPeriod F.lastPeriod_PERIODS + 1 → s.radio.pend = none → s.last.nextTherm = none →
    Gives (.periodBoundary measW) s fun t => t.last.active = s.last.shadow ∧ t.last.shadow = s.last.active ∧
    t.fld R.lastStat F.lastStat_COPY = 1 - s.fld R.lastStat F.lastStat_COPY ∧ t.fld R.lastStat F.lastStat_SWAP_PEND = 0 ∧
    t.fld R.lastSwap F.lastSwap_AT = 0 ∧ t.fld R.lastCnt F.lastCnt_SWAPS = min (s.fld R.lastCnt F.lastCnt_SWAPS + 1) F.lastCnt_SWAPS.max) ∧
  -- stitchStart
  (∀ (s : State) (n : Nat), s.Inv → n < 2000 → s.fld R.lastPwr2 F.lastPwr2_THERM_PCT = 100 → s.flag R.pwrStat F.pwrStat_PEAK = false →
    s.radio.resume = none → Gives (.stitchStart n) s fun t => t.fld R.lastStat F.lastStat_STITCH = n ∧
    t.last.bucket = min (s.last.bucket + s.fld R.lastPwr F.lastPwr_SHARE_W * 3000 * s.fld R.lastPwr2 F.lastPwr2_CORR_PCT) (40 * (s.fld
    R.lastPwr F.lastPwr_SHARE_W * 3000 * s.fld R.lastPwr2 F.lastPwr2_CORR_PCT)) ∧ t.last.pwrHold = false ∧ t.last.stitchCyc = s.clk.cyc ∧
    (∀ d, d < 96 →
    t.fld (R.dspStat d) F.dspStat_OWNER = if s.flag (R.dspStat d) F.dspStat_FENCE then 0 else if bit (s.stitchEnt n).dsp (d / 8) then 1
    else 2) ∧ (∀ k, k < 40 →
    t.fld (R.codeEngStat k) F.codeEngStat_OWNER = if s.flag (R.codeEngStat k) F.codeEngStat_FENCE then 0 else if bit (s.stitchEnt n).eng k
    then 1 else 2)) ∧
  -- stitchStart_long
  (∀ (s : State) (n : Nat), s.Inv → 2000 ≤ n → s.flag R.lastStat F.lastStat_LONG = false → s.fld R.lastPwr2 F.lastPwr2_THERM_PCT = 100 →
    s.radio.resume = none → Gives (.stitchStart n) s fun t => t.fld R.lastStat F.lastStat_STITCH = 0x7FF ∧
    t.fld R.lastStat F.lastStat_LONG = 1 ∧
    t.fld R.lastCnt2 F.lastCnt2_LONG = min (s.fld R.lastCnt2 F.lastCnt2_LONG + 1) F.lastCnt2_LONG.max) ∧
  -- stitchStart_peak
  (∀ (s : State) (n : Nat), s.Inv → n < 2000 → s.flag R.pwrStat F.pwrStat_PEAK = true →
    Gives (.stitchStart n) s fun t => t.last.bucket = 0) ∧
  -- stitchStart_resume
  (∀ (s : State) (n : Nat) (r : Nat), s.Inv → n < 2000 → s.radio.resume = some r → s.onSn = true → later r s.readingNs = false →
    Gives (.stitchStart n) s fun t => t.fld R.radioStat F.radioStat_HELD = 0 ∧ t.radio.resume = none) ∧
  -- lastRebuild
  (∀ (s : State) (core : Nat) (arr : Nat), s.Inv → s.last.rebuild.contains (4 * core + arr) = true →
    s.flag R.lastStat F.lastStat_SWAP_PEND = false →
    Gives (.lastRebuild core arr) s fun t => t.last.rebuild = s.last.rebuild.filter (fun j => !(s.fencedArrays.contains j)) ∧
    t.last.shadow = (if (Config.lastFits (s.demands s.appliedRecs) s.fencedArrays s.last.active.groups && (s.buildLast s.appliedRecs
    s.fencedArrays).fits) = true then s.buildLast s.appliedRecs s.fencedArrays else s.last.shadow) ∧
    t.fld R.lastStat F.lastStat_SWAP_PEND = (if (Config.lastFits (s.demands s.appliedRecs) s.fencedArrays s.last.active.groups &&
    (s.buildLast s.appliedRecs s.fencedArrays).fits) = true then 1 else 0) ∧
    t.fld R.lastSwap F.lastSwap_AT = (if (Config.lastFits (s.demands s.appliedRecs) s.fencedArrays s.last.active.groups && (s.buildLast
    s.appliedRecs s.fencedArrays).fits) = true then s.armAt % (F.lastSwap_AT.max + 1) else s.fld R.lastSwap F.lastSwap_AT))

/-- 1PPS edges and pulses, ESMC PDUs and the QL time-out, form by form. After 11_time.md: Frequency; 11_time.md: Sideband time pins. -/
def Obligations.PulseAndSsmForms : Prop :=
  -- ppsInEdge_second
  (∀ (s : State) (stamp : Int) (k : Nat), s.Inv → s.time.ppsAt = some k → k + 249987500 ≤ s.tick → s.tick ≤ k + 250012500 →
    s.time.ppsRun = 0 → s.fld R.timeCfg F.timeCfg_SRC ≠ 1 →
    Gives (.ppsInEdge stamp) s fun t => Same (.any [.reg R.timePps, .whole [.time]]) s t ∧
    t.fld R.timePps F.timePps_IN_QUAL = s.fld R.timePps F.timePps_IN_QUAL ∧
    t.time = { s.time with ppsAt := some s.tick, ppsRun := 2, ppsBad := 0, ppsSec := s.time.ppsSec.map (· + 1) }) ∧
  -- ppsInEdge_discarded
  (∀ (s : State) (stamp : Int) (k : Nat), s.Inv → s.time.ppsAt = some k → (s.tick < k + 249987500 ∨ k + 250012500 < s.tick) →
    s.flag R.timePps F.timePps_IN_QUAL = true → s.time.ppsBad < 2 →
    Gives (.ppsInEdge stamp) s fun t => Same (.any [.reg R.timeCnt2, .whole [.time]]) s t ∧
    t.fld R.timeCnt2 F.timeCnt2_PPS_IN_REJ = min (s.fld R.timeCnt2 F.timeCnt2_PPS_IN_REJ + 1) F.timeCnt2_PPS_IN_REJ.max ∧
    t.time = { s.time with ppsBad := s.time.ppsBad + 1 }) ∧
  -- ppsInMissingEdge_candidate
  (∀ (s : State), s.Inv → s.flag R.timePps F.timePps_IN_QUAL = false → Gives .ppsInMissingEdge s fun t => Same (.whole [.time]) s t ∧
    t.time = { s.time with ppsAt := none, ppsRun := 0, ppsSec := none }) ∧
  -- ppsOut_second
  (∀ (s : State), s.Inv → s.onSn = true → (s.snNow + (s.fld R.timePps F.timePps_OUT_DLY : Int) * 2 ^ 40) % (10 ^ 9 * 2 ^ 40) = 0 →
    s.time.ppsUp = none → Gives .ppsOut s fun t => Same (.whole [.time, .emitted]) s t ∧ t.time.ppsUp = some s.tick ∧
    t.emitted = Emit.pin 0 true :: s.emitted) ∧
  -- esmcTx_slavePort
  (∀ (s : State), s.Inv → s.slavePort ∈ s.esmcPorts →
    Gives (.esmcTx s.slavePort false) s fun t => t.emitted = .frame 2 s.slavePort [0, 0xF] [] :: s.emitted) ∧
  -- esmcTx_notOwed
  (∀ (s : State) (port : Nat), s.Inv → port ∉ s.time.qlOwed → s.fld R.timeFreq F.timeFreq_QL_TX = s.qlTx →
    Gives (.esmcTx port true) s fun t => Same (.any []) s t) ∧
  -- esmcRx_quality
  (∀ (s : State) (ql : Nat), s.Inv → ql < 16 → s.slaveFit s.slavePort = true →
    Gives (.esmcRx s.slavePort ql) s fun t => t.fld R.timeFreq F.timeFreq_QL_RX = ql ∧
    (t.flag R.timeFreq F.timeFreq_SYNCE_QUAL = true ↔ s.time.syncePres = true ∧ ql ≠ 0xF)) ∧
  -- qlTimeout_unqualified
  (∀ (s : State), s.Inv → Gives .qlTimeout s fun t => t.fld R.timeFreq F.timeFreq_QL_RX = 0xF ∧
    t.fld R.timeFreq F.timeFreq_SYNCE_QUAL = 0 ∧ t.fld R.timeFreq F.timeFreq_SEL = (if s.flag R.timeFreq F.timeFreq_REF10_QUAL = true ∧
    s.fld R.timeCfg F.timeCfg_FREQ_PRI ≠ 3 then 2 else 0))

/-- Frequency references, writes of TIME.CFG and captures, form by form. After 11_time.md: Frequency; 11_time.md: States, step and rate;
11_time.md: Time unit registers. -/
def Obligations.ReferenceAndTimeRegisterForms : Prop :=
  -- freqRefSwitch_priority
  (∀ (s : State) (a : Bool) (b : Bool) (q : Bool), s.Inv → q = (a && s.fld R.timeFreq F.timeFreq_QL_RX != 0xF) →
    Gives (.freqRefSwitch a b) s fun t => t.fld R.timeFreq F.timeFreq_SEL =
    (match s.fld R.timeCfg F.timeCfg_FREQ_PRI with | 0 => if q = true then 1 else if b = true then 2 else 0 | 1 => if b = true then 2 else if q = true then 1 else 0 | 2 => if b = true then 2 else 0 | _ => if q = true then 1 else 0)
    ∧ (t.fld R.timeFreq F.timeFreq_SEL = s.fld R.timeFreq F.timeFreq_SEL →
    t.fld R.timeStat F.timeStat_FREQ_LOCK = s.fld R.timeStat F.timeStat_FREQ_LOCK) ∧
    (t.fld R.timeFreq F.timeFreq_SEL ≠ s.fld R.timeFreq F.timeFreq_SEL →
    t.fld R.timeStat F.timeStat_FREQ_LOCK = if t.fld R.timeFreq F.timeFreq_SEL = 0 then 0 else 1)) ∧
  -- timeCfgWrite_ranges
  (∀ (s : State) (val : Word) (prof : Nat), s.Inv → s.flag R.gwLock F.gwLock_TIME = false →
    (prof = if F.timeCfg_PROFILE.get val < 2 then F.timeCfg_PROFILE.get val else s.fld R.timeCfg F.timeCfg_PROFILE) →
    ((if prof = 0 then 24 ≤ F.timeCfg_DOMAIN.get val ∧ F.timeCfg_DOMAIN.get val ≤ 43 else 44 ≤ F.timeCfg_DOMAIN.get val ∧
    F.timeCfg_DOMAIN.get val ≤ 63)) → Gives (.timeCfgWrite 256 val) s fun t => t.fld R.timeCfg F.timeCfg_PROFILE = prof ∧
    t.fld R.timeCfg F.timeCfg_DOMAIN = F.timeCfg_DOMAIN.get val ∧
    t.fld R.timeCfg F.timeCfg_SLV_PORT = (if F.timeCfg_SLV_PORT.get val < 48 ∧
    s.slaveFit (F.timeCfg_SLV_PORT.get val) = true then F.timeCfg_SLV_PORT.get val else s.slavePort) ∧
    t.fld R.timeCfg F.timeCfg_SRC = (if F.timeCfg_SRC.get val < 3 then F.timeCfg_SRC.get val else s.fld R.timeCfg F.timeCfg_SRC) ∧
    t.fld R.timeCfg F.timeCfg_PPS_SQUELCH = F.timeCfg_PPS_SQUELCH.get val) ∧
  -- timeCfgWrite_domain
  (∀ (s : State) (val : Word) (prof : Nat), s.Inv →
    (prof = if F.timeCfg_PROFILE.get val < 2 then F.timeCfg_PROFILE.get val else s.fld R.timeCfg F.timeCfg_PROFILE) →
    (¬(if prof = 0 then 24 ≤ F.timeCfg_DOMAIN.get val ∧ F.timeCfg_DOMAIN.get val ≤ 43 else 44 ≤ F.timeCfg_DOMAIN.get val ∧
    F.timeCfg_DOMAIN.get val ≤ 63)) → Gives (.timeCfgWrite 256 val) s fun t => Same (.any []) s t) ∧
  -- timeLatch_after
  (∀ (s : State) (val : Word) (u : State), s.Inv → F.timeLatch_CAPTURE.get val = 1 → u = Act.timeStep.run s →
    Gives (.timeLatch 256 val) s fun t => Same (.any [.reg R.timeLSec, .reg R.timeLNs, .reg R.timeLFr, .reg R.timeLTick]) u t ∧
    t.fld R.timeLSec F.timeLSec_SEC = (if u.onSn = true then (u.snNow / 2 ^ 40).toNat / 10 ^ 9 % 2 ^ 48 else 0) ∧
    t.fld R.timeLNs F.timeLNs_NS = (if u.onSn = true then (u.snNow / 2 ^ 40).toNat % 10 ^ 9 else 0) ∧
    t.fld R.timeLFr F.timeLFr_FR = s.fr % 2 ^ 64 ∧ t.fld R.timeLTick F.timeLTick_TICK = s.tick % 2 ^ 64) ∧
  -- timeLatch_none
  (∀ (s : State) (val : Word), s.Inv → F.timeLatch_CAPTURE.get val = 0 → Gives (.timeLatch 256 val) s fun t => Same (.any []) s t)
end

