-- ==== Sys2Proof/Laws/State.lean ====
section
/-! SUPPORT. Laws of the state and of its updates: for each field and each update of it what the field then holds, and that nothing
else changes; and how the footprint of an action is put together from the footprints of its parts. -/

namespace Sys2Proof.Machine

theorem State.agree_refl (s : State) (p : Piece) (k : Nat) : s.agree s p k := by cases p <;> rfl

theorem State.agree_trans {s t u : State} {p : Piece} {k : Nat} (a : s.agree t p k) (b : t.agree u p k) : s.agree u p k := by
  cases p <;> exact Eq.trans b a

/-- The action changes nothing outside the footprint, from well-formed states. -/
def Act.In (F : Foot) (a : Act) : Prop := ∀ s : State, s.Wf → ∀ p k, ¬ F p k → s.agree (a.run s) p k

theorem Act.In.same {F : Foot} {a : Act} (h : a.In F) {s : State} (w : s.Wf) : Same F s (a.run s) :=
  ⟨h s w, (a.ok s).pending, (a.ok s).fuse⟩

theorem Act.In.mono {F G : Foot} {a : Act} (h : a.In F) (le : ∀ p k, F p k → G p k) : a.In G :=
  fun s w p k hk => h s w p k fun hf => hk (le p k hf)

/-- One footprint lies within another. -/
def Foot.le (F G : Foot) : Prop := ∀ p k, F p k → G p k

@[simp] theorem Foot.le_refl {F : Foot} : F.le F := fun _ _ h => h

theorem Foot.le_trans {F G H : Foot} (a : F.le G) (b : G.le H) : F.le H := fun p k h => b p k (a p k h)

@[simp] theorem Foot.le_any {F : Foot} {l : List Foot} (h : F ∈ l) : F.le (Foot.any l) := fun _ _ hf => ⟨F, h, hf⟩

theorem Foot.any_le {F : Foot} {l : List Foot} (h : ∀ G, G ∈ l → G.le F) : (Foot.any l).le F := fun p k ⟨G, hm, hg⟩ => h G hm p k hg

@[simp] theorem Foot.any_cons (F : Foot) (l : List Foot) (p : Piece) (k : Nat) : Foot.any (F :: l) p k ↔ F p k ∨ Foot.any l p k := by
  constructor
  · rintro ⟨G, hm, hg⟩
    cases hm with
    | head => exact .inl hg
    | tail _ hm => exact .inr ⟨G, hm, hg⟩
  · rintro (h | ⟨G, hm, hg⟩)
    · exact ⟨F, .head _, h⟩
    · exact ⟨G, .tail _ hm, hg⟩

@[simp] theorem Foot.any_nil (p : Piece) (k : Nat) : Foot.any [] p k ↔ False := by
  constructor
  · rintro ⟨G, hm, _⟩
    cases hm
  · exact False.elim

@[simp] theorem Foot.reg_iff (a : Nat) (p : Piece) (k : Nat) : Foot.reg a p k ↔ p = .regs ∧ k = a := Iff.rfl
@[simp] theorem Foot.regFam_iff (n : Nat) (f : Nat → Nat) (p : Piece) (k : Nat) :
    Foot.regFam n f p k ↔ p = .regs ∧ ∃ i, i < n ∧ k = f i := Iff.rfl
@[simp] theorem Foot.entry_iff (q : Piece) (a : Nat) (p : Piece) (k : Nat) : Foot.entry q a p k ↔ p = q ∧ k = a := Iff.rfl
@[simp] theorem Foot.range_iff (q : Piece) (lo hi : Nat) (p : Piece) (k : Nat) : Foot.range q lo hi p k ↔ p = q ∧ lo ≤ k ∧ k < hi :=
  Iff.rfl
@[simp] theorem Foot.whole_iff (l : List Piece) (p : Piece) (k : Nat) : Foot.whole l p k ↔ p ∈ l := Iff.rfl
@[simp] theorem Foot.but_iff (l : List Piece) (p : Piece) (k : Nat) : Foot.but l p k ↔ p ∉ l := Iff.rfl
@[simp] theorem Foot.any_cons_le (F G : Foot) (l : List Foot) : (Foot.any (F :: l)).le G ↔ F.le G ∧ (Foot.any l).le G := by
  constructor
  · intro h
    exact ⟨fun p k hf => h p k ((Foot.any_cons F l p k).mpr (.inl hf)), fun p k hf => h p k ((Foot.any_cons F l p k).mpr (.inr hf))⟩
  · rintro ⟨h1, h2⟩ p k hf
    rcases (Foot.any_cons F l p k).mp hf with h | h
    · exact h1 p k h
    · exact h2 p k h

@[simp] theorem Foot.any_nil_le (G : Foot) : (Foot.any []).le G := fun p k h => ((Foot.any_nil p k).mp h).elim

@[simp] theorem Foot.reg_le (a : Nat) (G : Foot) : (Foot.reg a).le G ↔ G .regs a := by
  constructor
  · exact fun h => h _ _ ⟨rfl, rfl⟩
  · rintro h p k ⟨rfl, rfl⟩; exact h

@[simp] theorem Foot.entry_le (q : Piece) (a : Nat) (G : Foot) : (Foot.entry q a).le G ↔ G q a := by
  constructor
  · exact fun h => h _ _ ⟨rfl, rfl⟩
  · rintro h p k ⟨rfl, rfl⟩; exact h

@[simp] theorem Foot.whole_le (l : List Piece) (G : Foot) : (Foot.whole l).le G ↔ ∀ p, p ∈ l → ∀ k, G p k :=
  ⟨fun h p hp k => h p k hp, fun h p k hp => h p hp k⟩

@[simp] theorem Foot.fam_self {n : Nat} (f : Nat → Nat) {i : Nat} (h : i < n) : ∃ j, j < n ∧ f i = f j := ⟨i, h, rfl⟩

theorem Act.In.le {F G : Foot} {a : Act} (h : a.In F) (le : F.le G) : a.In G := h.mono le

@[simp] theorem Act.skip_in {F : Foot} : Act.skip.In F := fun s _ p k _ => s.agree_refl p k

theorem Act.seq_in {F : Foot} {a b : Act} (ha : a.In F) (hb : b.In F) : (a.seq b).In F := fun s w p k hk =>
  State.agree_trans (ha s w p k hk) (hb _ ((a.ok s).wf w) p k hk)

@[simp] theorem Act.nil_in {F : Foot} : (Act.all []).In F := Act.skip_in

theorem Act.cons_in {F : Foot} {a : Act} {l : List Act} (ha : a.In F) (hl : (Act.all l).In F) : (Act.all (a :: l)).In F :=
  Act.seq_in ha hl

theorem Act.get_in {F : Foot} {f : State → Act} (h : ∀ s, (f s).In F) : (Act.get f).In F := fun s w p k hk => h s s w p k hk

theorem Act.when_in {F : Foot} {b : Bool} {a : Act} (h : b = true → a.In F) : (Act.when b a).In F := by
  cases b
  · exact Act.skip_in
  · exact h rfl

theorem Act.each_in {F : Foot} {α : Type} {l : List α} {f : α → Act} (h : ∀ x, x ∈ l → (f x).In F) : (Act.each l f).In F := by
  induction l with
  | nil => exact Act.skip_in
  | cons x r ih => exact Act.seq_in (h x (.head _)) (ih fun y hy => h y (.tail _ hy))

theorem Map.get_set_self {α : Type} [DecidableEq α] {d : Nat → α} {m : List (Nat × α)} (h : Map.wf d m = true) (k : Nat) (v : α) :
    Map.get d (Map.set d m k v) k = v := by
  rw [Map.get_set k k v h, if_pos rfl]

theorem Map.get_set_ne {α : Type} [DecidableEq α] {d : Nat → α} {m : List (Nat × α)} (h : Map.wf d m = true) {k j : Nat} (v : α)
    (hj : j ≠ k) : Map.get d (Map.set d m k v) j = Map.get d m j := by
  rw [Map.get_set k j v h, if_neg hj]

theorem Map.get_clear_out {α : Type} [DecidableEq α] {d : Nat → α} {lo hi j : Nat} (hj : ¬ (lo ≤ j ∧ j < hi)) :
    ∀ {m : List (Nat × α)} {b : Option Nat}, Map.wfAbove d b m = true → Map.get d (Map.clear m lo hi) j = Map.get d m j := by
  intro m
  induction m with
  | nil => intro _ _; rfl
  | cons e r ih =>
    obtain ⟨i, v⟩ := e
    intro b h
    simp only [Map.wfAbove, Bool.and_eq_true, decide_eq_true_eq] at h
    have hr := ih h.2
    unfold Map.clear at hr ⊢
    rw [List.filter_cons]
    by_cases hi' : (decide (i < lo) || decide (hi ≤ i)) = true
    · simp only [hi', if_true, Map.get, hr]
    · simp only [hi', Map.get]
      simp only [Bool.or_eq_true, decide_eq_true_eq] at hi'
      have hne : j ≠ i := by omega
      by_cases hlt : j < i
      · simp only [Bool.false_eq_true, if_false, hlt, if_true, hr]
        have h3 : Map.wfAbove d (some j) r = true := Map.wfAbove_weaken (Nat.le_of_lt hlt) h.2
        exact Map.get_above h3
      · simp only [Bool.false_eq_true, if_false, hlt, hne, hr]

theorem Map.get_clear_in {α : Type} [DecidableEq α] {d : Nat → α} {lo hi j : Nat} (h1 : lo ≤ j) (h2 : j < hi) :
    ∀ {m : List (Nat × α)}, Map.get d (Map.clear m lo hi) j = d j := by
  intro m
  induction m with
  | nil => rfl
  | cons e r ih =>
    obtain ⟨i, v⟩ := e
    unfold Map.clear at ih ⊢
    rw [List.filter_cons]
    by_cases hi' : (decide (i < lo) || decide (hi ≤ i)) = true
    · simp only [hi', if_true, Map.get, ih]
      simp only [Bool.or_eq_true, decide_eq_true_eq] at hi'
      have : j ≠ i := by omega
      simp [this]
    · simp only [hi', Bool.false_eq_true, if_false, ih]

theorem Act.setRegs_self {s : State} (w : s.Wf) (k : Nat) (v : Word) : ((Act.setRegs k v).run s).regsAt k = v &&& regMask k :=
  Map.get_set_self w.regs k _

@[simp] theorem Act.setRegs_in {F : Foot} {k : Nat} {v : Word} (h : F .regs k) : (Act.setRegs k v).In F := by
  intro s w p j hj
  cases p <;> first
    | rfl
    | exact Map.get_set_ne w.regs _ fun e => hj (e ▸ h)

@[simp] theorem Act.clearRegs_in {F : Foot} {lo hi : Nat} (h : ∀ k, lo ≤ k → k < hi → F .regs k) : (Act.clearRegs lo hi).In F := by
  intro s w p j hj
  cases p <;> first
    | rfl
    | exact Map.get_clear_out (fun e => hj (h j e.1 e.2)) w.regs

theorem Act.clearRegs_self {s : State} {lo hi k : Nat} (h1 : lo ≤ k) (h2 : k < hi) : ((Act.clearRegs lo hi).run s).regsAt k = regReset k :=
  Map.get_clear_in h1 h2

theorem Act.setMem_self {s : State} (w : s.Wf) (k : Nat) (v : Byte) : ((Act.setMem k v).run s).memAt k = v :=
  Map.get_set_self w.mem k _

@[simp] theorem Act.setMem_in {F : Foot} {k : Nat} {v : Byte} (h : F .mem k) : (Act.setMem k v).In F := by
  intro s w p j hj
  cases p <;> first
    | rfl
    | exact Map.get_set_ne w.mem _ fun e => hj (e ▸ h)

@[simp] theorem Act.clearMem_in {F : Foot} {lo hi : Nat} (h : ∀ k, lo ≤ k → k < hi → F .mem k) : (Act.clearMem lo hi).In F := by
  intro s w p j hj
  cases p <;> first
    | rfl
    | exact Map.get_clear_out (fun e => hj (h j e.1 e.2)) w.mem

theorem Act.clearMem_self {s : State} {lo hi k : Nat} (h1 : lo ≤ k) (h2 : k < hi) : ((Act.clearMem lo hi).run s).memAt k = dfltMem k :=
  Map.get_clear_in h1 h2

@[simp] theorem Act.modMem_in {F : Foot} {k : Nat} {g : Byte → Byte} (h : F .mem k) : (Act.modMem k g).In F :=
  Act.get_in fun _ => Act.setMem_in h

theorem Act.modMem_self {s : State} (w : s.Wf) (k : Nat) (g : Byte → Byte) : ((Act.modMem k g).run s).memAt k = g (s.memAt k) :=
  Act.setMem_self w k _

theorem Act.setErrs_self {s : State} (w : s.Wf) (k : Nat) (v : WordErr) : ((Act.setErrs k v).run s).errsAt k = v :=
  Map.get_set_self w.errs k _

@[simp] theorem Act.setErrs_in {F : Foot} {k : Nat} {v : WordErr} (h : F .errs k) : (Act.setErrs k v).In F := by
  intro s w p j hj
  cases p <;> first
    | rfl
    | exact Map.get_set_ne w.errs _ fun e => hj (e ▸ h)

@[simp] theorem Act.clearErrs_in {F : Foot} {lo hi : Nat} (h : ∀ k, lo ≤ k → k < hi → F .errs k) : (Act.clearErrs lo hi).In F := by
  intro s w p j hj
  cases p <;> first
    | rfl
    | exact Map.get_clear_out (fun e => hj (h j e.1 e.2)) w.errs

theorem Act.clearErrs_self {s : State} {lo hi k : Nat} (h1 : lo ≤ k) (h2 : k < hi) : ((Act.clearErrs lo hi).run s).errsAt k = dfltErrs k :=
  Map.get_clear_in h1 h2

@[simp] theorem Act.modErrs_in {F : Foot} {k : Nat} {g : WordErr → WordErr} (h : F .errs k) : (Act.modErrs k g).In F :=
  Act.get_in fun _ => Act.setErrs_in h

theorem Act.modErrs_self {s : State} (w : s.Wf) (k : Nat) (g : WordErr → WordErr) : ((Act.modErrs k g).run s).errsAt k = g (s.errsAt k) :=
  Act.setErrs_self w k _

theorem Act.setLpErr_self {s : State} (w : s.Wf) (k : Nat) (v : Nat) : ((Act.setLpErr k v).run s).lpErrAt k = v :=
  Map.get_set_self w.lpErr k _

@[simp] theorem Act.setLpErr_in {F : Foot} {k : Nat} {v : Nat} (h : F .lpErr k) : (Act.setLpErr k v).In F := by
  intro s w p j hj
  cases p <;> first
    | rfl
    | exact Map.get_set_ne w.lpErr _ fun e => hj (e ▸ h)

@[simp] theorem Act.clearLpErr_in {F : Foot} {lo hi : Nat} (h : ∀ k, lo ≤ k → k < hi → F .lpErr k) : (Act.clearLpErr lo hi).In F := by
  intro s w p j hj
  cases p <;> first
    | rfl
    | exact Map.get_clear_out (fun e => hj (h j e.1 e.2)) w.lpErr

theorem Act.clearLpErr_self {s : State} {lo hi k : Nat} (h1 : lo ≤ k) (h2 : k < hi) : ((Act.clearLpErr lo hi).run s).lpErrAt k = dfltLpErr k :=
  Map.get_clear_in h1 h2

@[simp] theorem Act.modLpErr_in {F : Foot} {k : Nat} {g : Nat → Nat} (h : F .lpErr k) : (Act.modLpErr k g).In F :=
  Act.get_in fun _ => Act.setLpErr_in h

theorem Act.modLpErr_self {s : State} (w : s.Wf) (k : Nat) (g : Nat → Nat) : ((Act.modLpErr k g).run s).lpErrAt k = g (s.lpErrAt k) :=
  Act.setLpErr_self w k _

theorem Act.setChUe_self {s : State} (w : s.Wf) (k : Nat) (v : List (Nat × Nat)) : ((Act.setChUe k v).run s).chUeAt k = v :=
  Map.get_set_self w.chUe k _

@[simp] theorem Act.setChUe_in {F : Foot} {k : Nat} {v : List (Nat × Nat)} (h : F .chUe k) : (Act.setChUe k v).In F := by
  intro s w p j hj
  cases p <;> first
    | rfl
    | exact Map.get_set_ne w.chUe _ fun e => hj (e ▸ h)

@[simp] theorem Act.clearChUe_in {F : Foot} {lo hi : Nat} (h : ∀ k, lo ≤ k → k < hi → F .chUe k) : (Act.clearChUe lo hi).In F := by
  intro s w p j hj
  cases p <;> first
    | rfl
    | exact Map.get_clear_out (fun e => hj (h j e.1 e.2)) w.chUe

theorem Act.clearChUe_self {s : State} {lo hi k : Nat} (h1 : lo ≤ k) (h2 : k < hi) : ((Act.clearChUe lo hi).run s).chUeAt k = dfltChUe k :=
  Map.get_clear_in h1 h2

@[simp] theorem Act.modChUe_in {F : Foot} {k : Nat} {g : List (Nat × Nat) → List (Nat × Nat)} (h : F .chUe k) : (Act.modChUe k g).In F :=
  Act.get_in fun _ => Act.setChUe_in h

theorem Act.modChUe_self {s : State} (w : s.Wf) (k : Nat) (g : List (Nat × Nat) → List (Nat × Nat)) : ((Act.modChUe k g).run s).chUeAt k = g (s.chUeAt k) :=
  Act.setChUe_self w k _

theorem Act.setHost_self {s : State} (w : s.Wf) (k : Nat) (v : Byte) : ((Act.setHost k v).run s).hostAt k = v :=
  Map.get_set_self w.host k _

@[simp] theorem Act.setHost_in {F : Foot} {k : Nat} {v : Byte} (h : F .host k) : (Act.setHost k v).In F := by
  intro s w p j hj
  cases p <;> first
    | rfl
    | exact Map.get_set_ne w.host _ fun e => hj (e ▸ h)

@[simp] theorem Act.clearHost_in {F : Foot} {lo hi : Nat} (h : ∀ k, lo ≤ k → k < hi → F .host k) : (Act.clearHost lo hi).In F := by
  intro s w p j hj
  cases p <;> first
    | rfl
    | exact Map.get_clear_out (fun e => hj (h j e.1 e.2)) w.host

theorem Act.clearHost_self {s : State} {lo hi k : Nat} (h1 : lo ≤ k) (h2 : k < hi) : ((Act.clearHost lo hi).run s).hostAt k = dfltHost k :=
  Map.get_clear_in h1 h2

@[simp] theorem Act.modHost_in {F : Foot} {k : Nat} {g : Byte → Byte} (h : F .host k) : (Act.modHost k g).In F :=
  Act.get_in fun _ => Act.setHost_in h

theorem Act.modHost_self {s : State} (w : s.Wf) (k : Nat) (g : Byte → Byte) : ((Act.modHost k g).run s).hostAt k = g (s.hostAt k) :=
  Act.setHost_self w k _

theorem Act.setStore_self {s : State} (w : s.Wf) (k : Nat) (v : Byte) : ((Act.setStore k v).run s).storeAt k = v :=
  Map.get_set_self w.store k _

@[simp] theorem Act.setStore_in {F : Foot} {k : Nat} {v : Byte} (h : F .store k) : (Act.setStore k v).In F := by
  intro s w p j hj
  cases p <;> first
    | rfl
    | exact Map.get_set_ne w.store _ fun e => hj (e ▸ h)

@[simp] theorem Act.clearStore_in {F : Foot} {lo hi : Nat} (h : ∀ k, lo ≤ k → k < hi → F .store k) : (Act.clearStore lo hi).In F := by
  intro s w p j hj
  cases p <;> first
    | rfl
    | exact Map.get_clear_out (fun e => hj (h j e.1 e.2)) w.store

theorem Act.clearStore_self {s : State} {lo hi k : Nat} (h1 : lo ≤ k) (h2 : k < hi) : ((Act.clearStore lo hi).run s).storeAt k = dfltStore k :=
  Map.get_clear_in h1 h2

@[simp] theorem Act.modStore_in {F : Foot} {k : Nat} {g : Byte → Byte} (h : F .store k) : (Act.modStore k g).In F :=
  Act.get_in fun _ => Act.setStore_in h

theorem Act.modStore_self {s : State} (w : s.Wf) (k : Nat) (g : Byte → Byte) : ((Act.modStore k g).run s).storeAt k = g (s.storeAt k) :=
  Act.setStore_self w k _

theorem Act.setAcc_self {s : State} (w : s.Wf) (k : Nat) (v : L128) : ((Act.setAcc k v).run s).accAt k = v :=
  Map.get_set_self w.acc k _

@[simp] theorem Act.setAcc_in {F : Foot} {k : Nat} {v : L128} (h : F .acc k) : (Act.setAcc k v).In F := by
  intro s w p j hj
  cases p <;> first
    | rfl
    | exact Map.get_set_ne w.acc _ fun e => hj (e ▸ h)

@[simp] theorem Act.clearAcc_in {F : Foot} {lo hi : Nat} (h : ∀ k, lo ≤ k → k < hi → F .acc k) : (Act.clearAcc lo hi).In F := by
  intro s w p j hj
  cases p <;> first
    | rfl
    | exact Map.get_clear_out (fun e => hj (h j e.1 e.2)) w.acc

theorem Act.clearAcc_self {s : State} {lo hi k : Nat} (h1 : lo ≤ k) (h2 : k < hi) : ((Act.clearAcc lo hi).run s).accAt k = dfltAcc k :=
  Map.get_clear_in h1 h2

@[simp] theorem Act.modAcc_in {F : Foot} {k : Nat} {g : L128 → L128} (h : F .acc k) : (Act.modAcc k g).In F :=
  Act.get_in fun _ => Act.setAcc_in h

theorem Act.modAcc_self {s : State} (w : s.Wf) (k : Nat) (g : L128 → L128) : ((Act.modAcc k g).run s).accAt k = g (s.accAt k) :=
  Act.setAcc_self w k _

theorem Act.setAnchors_self {s : State} (w : s.Wf) (k : Nat) (v : Option Int) : ((Act.setAnchors k v).run s).anchorsAt k = v :=
  Map.get_set_self w.anchors k _

@[simp] theorem Act.setAnchors_in {F : Foot} {k : Nat} {v : Option Int} (h : F .anchors k) : (Act.setAnchors k v).In F := by
  intro s w p j hj
  cases p <;> first
    | rfl
    | exact Map.get_set_ne w.anchors _ fun e => hj (e ▸ h)

@[simp] theorem Act.clearAnchors_in {F : Foot} {lo hi : Nat} (h : ∀ k, lo ≤ k → k < hi → F .anchors k) : (Act.clearAnchors lo hi).In F := by
  intro s w p j hj
  cases p <;> first
    | rfl
    | exact Map.get_clear_out (fun e => hj (h j e.1 e.2)) w.anchors

theorem Act.clearAnchors_self {s : State} {lo hi k : Nat} (h1 : lo ≤ k) (h2 : k < hi) : ((Act.clearAnchors lo hi).run s).anchorsAt k = dfltAnchors k :=
  Map.get_clear_in h1 h2

@[simp] theorem Act.modAnchors_in {F : Foot} {k : Nat} {g : Option Int → Option Int} (h : F .anchors k) : (Act.modAnchors k g).In F :=
  Act.get_in fun _ => Act.setAnchors_in h

theorem Act.modAnchors_self {s : State} (w : s.Wf) (k : Nat) (g : Option Int → Option Int) : ((Act.modAnchors k g).run s).anchorsAt k = g (s.anchorsAt k) :=
  Act.setAnchors_self w k _

theorem Act.setPend_self {s : State} (w : s.Wf) (k : Nat) (v : Nat) : ((Act.setPend k v).run s).pendAt k = v :=
  Map.get_set_self w.pend k _

@[simp] theorem Act.setPend_in {F : Foot} {k : Nat} {v : Nat} (h : F .pend k) : (Act.setPend k v).In F := by
  intro s w p j hj
  cases p <;> first
    | rfl
    | exact Map.get_set_ne w.pend _ fun e => hj (e ▸ h)

@[simp] theorem Act.clearPend_in {F : Foot} {lo hi : Nat} (h : ∀ k, lo ≤ k → k < hi → F .pend k) : (Act.clearPend lo hi).In F := by
  intro s w p j hj
  cases p <;> first
    | rfl
    | exact Map.get_clear_out (fun e => hj (h j e.1 e.2)) w.pend

theorem Act.clearPend_self {s : State} {lo hi k : Nat} (h1 : lo ≤ k) (h2 : k < hi) : ((Act.clearPend lo hi).run s).pendAt k = dfltPend k :=
  Map.get_clear_in h1 h2

@[simp] theorem Act.modPend_in {F : Foot} {k : Nat} {g : Nat → Nat} (h : F .pend k) : (Act.modPend k g).In F :=
  Act.get_in fun _ => Act.setPend_in h

theorem Act.modPend_self {s : State} (w : s.Wf) (k : Nat) (g : Nat → Nat) : ((Act.modPend k g).run s).pendAt k = g (s.pendAt k) :=
  Act.setPend_self w k _

theorem Act.setVreg_self {s : State} (w : s.Wf) (k : Nat) (v : Nat) : ((Act.setVreg k v).run s).vregAt k = v :=
  Map.get_set_self w.vreg k _

@[simp] theorem Act.setVreg_in {F : Foot} {k : Nat} {v : Nat} (h : F .vreg k) : (Act.setVreg k v).In F := by
  intro s w p j hj
  cases p <;> first
    | rfl
    | exact Map.get_set_ne w.vreg _ fun e => hj (e ▸ h)

@[simp] theorem Act.clearVreg_in {F : Foot} {lo hi : Nat} (h : ∀ k, lo ≤ k → k < hi → F .vreg k) : (Act.clearVreg lo hi).In F := by
  intro s w p j hj
  cases p <;> first
    | rfl
    | exact Map.get_clear_out (fun e => hj (h j e.1 e.2)) w.vreg

theorem Act.clearVreg_self {s : State} {lo hi k : Nat} (h1 : lo ≤ k) (h2 : k < hi) : ((Act.clearVreg lo hi).run s).vregAt k = dfltVreg k :=
  Map.get_clear_in h1 h2

@[simp] theorem Act.modVreg_in {F : Foot} {k : Nat} {g : Nat → Nat} (h : F .vreg k) : (Act.modVreg k g).In F :=
  Act.get_in fun _ => Act.setVreg_in h

theorem Act.modVreg_self {s : State} (w : s.Wf) (k : Nat) (g : Nat → Nat) : ((Act.modVreg k g).run s).vregAt k = g (s.vregAt k) :=
  Act.setVreg_self w k _

theorem Act.setCtxs_self {s : State} (w : s.Wf) (k : Nat) (v : CtxSt) : ((Act.setCtxs k v).run s).ctxsAt k = v :=
  Map.get_set_self w.ctxs k _

@[simp] theorem Act.setCtxs_in {F : Foot} {k : Nat} {v : CtxSt} (h : F .ctxs k) : (Act.setCtxs k v).In F := by
  intro s w p j hj
  cases p <;> first
    | rfl
    | exact Map.get_set_ne w.ctxs _ fun e => hj (e ▸ h)

@[simp] theorem Act.clearCtxs_in {F : Foot} {lo hi : Nat} (h : ∀ k, lo ≤ k → k < hi → F .ctxs k) : (Act.clearCtxs lo hi).In F := by
  intro s w p j hj
  cases p <;> first
    | rfl
    | exact Map.get_clear_out (fun e => hj (h j e.1 e.2)) w.ctxs

theorem Act.clearCtxs_self {s : State} {lo hi k : Nat} (h1 : lo ≤ k) (h2 : k < hi) : ((Act.clearCtxs lo hi).run s).ctxsAt k = dfltCtxs k :=
  Map.get_clear_in h1 h2

@[simp] theorem Act.modCtxs_in {F : Foot} {k : Nat} {g : CtxSt → CtxSt} (h : F .ctxs k) : (Act.modCtxs k g).In F :=
  Act.get_in fun _ => Act.setCtxs_in h

theorem Act.modCtxs_self {s : State} (w : s.Wf) (k : Nat) (g : CtxSt → CtxSt) : ((Act.modCtxs k g).run s).ctxsAt k = g (s.ctxsAt k) :=
  Act.setCtxs_self w k _

theorem Act.setArrs_self {s : State} (w : s.Wf) (k : Nat) (v : ArrSt) : ((Act.setArrs k v).run s).arrsAt k = v :=
  Map.get_set_self w.arrs k _

@[simp] theorem Act.setArrs_in {F : Foot} {k : Nat} {v : ArrSt} (h : F .arrs k) : (Act.setArrs k v).In F := by
  intro s w p j hj
  cases p <;> first
    | rfl
    | exact Map.get_set_ne w.arrs _ fun e => hj (e ▸ h)

@[simp] theorem Act.clearArrs_in {F : Foot} {lo hi : Nat} (h : ∀ k, lo ≤ k → k < hi → F .arrs k) : (Act.clearArrs lo hi).In F := by
  intro s w p j hj
  cases p <;> first
    | rfl
    | exact Map.get_clear_out (fun e => hj (h j e.1 e.2)) w.arrs

theorem Act.clearArrs_self {s : State} {lo hi k : Nat} (h1 : lo ≤ k) (h2 : k < hi) : ((Act.clearArrs lo hi).run s).arrsAt k = dfltArrs k :=
  Map.get_clear_in h1 h2

@[simp] theorem Act.modArrs_in {F : Foot} {k : Nat} {g : ArrSt → ArrSt} (h : F .arrs k) : (Act.modArrs k g).In F :=
  Act.get_in fun _ => Act.setArrs_in h

theorem Act.modArrs_self {s : State} (w : s.Wf) (k : Nat) (g : ArrSt → ArrSt) : ((Act.modArrs k g).run s).arrsAt k = g (s.arrsAt k) :=
  Act.setArrs_self w k _

theorem Act.setParts_self {s : State} (w : s.Wf) (k : Nat) (v : PartSt) : ((Act.setParts k v).run s).partsAt k = v :=
  Map.get_set_self w.parts k _

@[simp] theorem Act.setParts_in {F : Foot} {k : Nat} {v : PartSt} (h : F .parts k) : (Act.setParts k v).In F := by
  intro s w p j hj
  cases p <;> first
    | rfl
    | exact Map.get_set_ne w.parts _ fun e => hj (e ▸ h)

@[simp] theorem Act.clearParts_in {F : Foot} {lo hi : Nat} (h : ∀ k, lo ≤ k → k < hi → F .parts k) : (Act.clearParts lo hi).In F := by
  intro s w p j hj
  cases p <;> first
    | rfl
    | exact Map.get_clear_out (fun e => hj (h j e.1 e.2)) w.parts

theorem Act.clearParts_self {s : State} {lo hi k : Nat} (h1 : lo ≤ k) (h2 : k < hi) : ((Act.clearParts lo hi).run s).partsAt k = dfltParts k :=
  Map.get_clear_in h1 h2

@[simp] theorem Act.modParts_in {F : Foot} {k : Nat} {g : PartSt → PartSt} (h : F .parts k) : (Act.modParts k g).In F :=
  Act.get_in fun _ => Act.setParts_in h

theorem Act.modParts_self {s : State} (w : s.Wf) (k : Nat) (g : PartSt → PartSt) : ((Act.modParts k g).run s).partsAt k = g (s.partsAt k) :=
  Act.setParts_self w k _

theorem Act.setVecTurn_self {s : State} (w : s.Wf) (k : Nat) (v : Nat) : ((Act.setVecTurn k v).run s).vecTurnAt k = v :=
  Map.get_set_self w.vecTurn k _

@[simp] theorem Act.setVecTurn_in {F : Foot} {k : Nat} {v : Nat} (h : F .vecTurn k) : (Act.setVecTurn k v).In F := by
  intro s w p j hj
  cases p <;> first
    | rfl
    | exact Map.get_set_ne w.vecTurn _ fun e => hj (e ▸ h)

@[simp] theorem Act.clearVecTurn_in {F : Foot} {lo hi : Nat} (h : ∀ k, lo ≤ k → k < hi → F .vecTurn k) : (Act.clearVecTurn lo hi).In F := by
  intro s w p j hj
  cases p <;> first
    | rfl
    | exact Map.get_clear_out (fun e => hj (h j e.1 e.2)) w.vecTurn

theorem Act.clearVecTurn_self {s : State} {lo hi k : Nat} (h1 : lo ≤ k) (h2 : k < hi) : ((Act.clearVecTurn lo hi).run s).vecTurnAt k = dfltVecTurn k :=
  Map.get_clear_in h1 h2

@[simp] theorem Act.modVecTurn_in {F : Foot} {k : Nat} {g : Nat → Nat} (h : F .vecTurn k) : (Act.modVecTurn k g).In F :=
  Act.get_in fun _ => Act.setVecTurn_in h

theorem Act.modVecTurn_self {s : State} (w : s.Wf) (k : Nat) (g : Nat → Nat) : ((Act.modVecTurn k g).run s).vecTurnAt k = g (s.vecTurnAt k) :=
  Act.setVecTurn_self w k _

theorem Act.setHealth_self {s : State} (w : s.Wf) (k : Nat) (v : HealthSt) : ((Act.setHealth k v).run s).healthAt k = v :=
  Map.get_set_self w.health k _

@[simp] theorem Act.setHealth_in {F : Foot} {k : Nat} {v : HealthSt} (h : F .health k) : (Act.setHealth k v).In F := by
  intro s w p j hj
  cases p <;> first
    | rfl
    | exact Map.get_set_ne w.health _ fun e => hj (e ▸ h)

@[simp] theorem Act.clearHealth_in {F : Foot} {lo hi : Nat} (h : ∀ k, lo ≤ k → k < hi → F .health k) : (Act.clearHealth lo hi).In F := by
  intro s w p j hj
  cases p <;> first
    | rfl
    | exact Map.get_clear_out (fun e => hj (h j e.1 e.2)) w.health

theorem Act.clearHealth_self {s : State} {lo hi k : Nat} (h1 : lo ≤ k) (h2 : k < hi) : ((Act.clearHealth lo hi).run s).healthAt k = dfltHealth k :=
  Map.get_clear_in h1 h2

@[simp] theorem Act.modHealth_in {F : Foot} {k : Nat} {g : HealthSt → HealthSt} (h : F .health k) : (Act.modHealth k g).In F :=
  Act.get_in fun _ => Act.setHealth_in h

theorem Act.modHealth_self {s : State} (w : s.Wf) (k : Nat) (g : HealthSt → HealthSt) : ((Act.modHealth k g).run s).healthAt k = g (s.healthAt k) :=
  Act.setHealth_self w k _

theorem Act.setLeash_self {s : State} (w : s.Wf) (k : Nat) (v : LeashSt) : ((Act.setLeash k v).run s).leashAt k = v :=
  Map.get_set_self w.leash k _

@[simp] theorem Act.setLeash_in {F : Foot} {k : Nat} {v : LeashSt} (h : F .leash k) : (Act.setLeash k v).In F := by
  intro s w p j hj
  cases p <;> first
    | rfl
    | exact Map.get_set_ne w.leash _ fun e => hj (e ▸ h)

@[simp] theorem Act.clearLeash_in {F : Foot} {lo hi : Nat} (h : ∀ k, lo ≤ k → k < hi → F .leash k) : (Act.clearLeash lo hi).In F := by
  intro s w p j hj
  cases p <;> first
    | rfl
    | exact Map.get_clear_out (fun e => hj (h j e.1 e.2)) w.leash

theorem Act.clearLeash_self {s : State} {lo hi k : Nat} (h1 : lo ≤ k) (h2 : k < hi) : ((Act.clearLeash lo hi).run s).leashAt k = dfltLeash k :=
  Map.get_clear_in h1 h2

@[simp] theorem Act.modLeash_in {F : Foot} {k : Nat} {g : LeashSt → LeashSt} (h : F .leash k) : (Act.modLeash k g).In F :=
  Act.get_in fun _ => Act.setLeash_in h

theorem Act.modLeash_self {s : State} (w : s.Wf) (k : Nat) (g : LeashSt → LeashSt) : ((Act.modLeash k g).run s).leashAt k = g (s.leashAt k) :=
  Act.setLeash_self w k _

theorem Act.setTrigs_self {s : State} (w : s.Wf) (k : Nat) (v : TrigSt) : ((Act.setTrigs k v).run s).trigsAt k = v :=
  Map.get_set_self w.trigs k _

@[simp] theorem Act.setTrigs_in {F : Foot} {k : Nat} {v : TrigSt} (h : F .trigs k) : (Act.setTrigs k v).In F := by
  intro s w p j hj
  cases p <;> first
    | rfl
    | exact Map.get_set_ne w.trigs _ fun e => hj (e ▸ h)

@[simp] theorem Act.clearTrigs_in {F : Foot} {lo hi : Nat} (h : ∀ k, lo ≤ k → k < hi → F .trigs k) : (Act.clearTrigs lo hi).In F := by
  intro s w p j hj
  cases p <;> first
    | rfl
    | exact Map.get_clear_out (fun e => hj (h j e.1 e.2)) w.trigs

theorem Act.clearTrigs_self {s : State} {lo hi k : Nat} (h1 : lo ≤ k) (h2 : k < hi) : ((Act.clearTrigs lo hi).run s).trigsAt k = dfltTrigs k :=
  Map.get_clear_in h1 h2

@[simp] theorem Act.modTrigs_in {F : Foot} {k : Nat} {g : TrigSt → TrigSt} (h : F .trigs k) : (Act.modTrigs k g).In F :=
  Act.get_in fun _ => Act.setTrigs_in h

theorem Act.modTrigs_self {s : State} (w : s.Wf) (k : Nat) (g : TrigSt → TrigSt) : ((Act.modTrigs k g).run s).trigsAt k = g (s.trigsAt k) :=
  Act.setTrigs_self w k _

theorem Act.setLog_self {s : State} (w : s.Wf) (k : Nat) (v : Word) : ((Act.setLog k v).run s).logAt k = v :=
  Map.get_set_self w.log k _

@[simp] theorem Act.setLog_in {F : Foot} {k : Nat} {v : Word} (h : F .log k) : (Act.setLog k v).In F := by
  intro s w p j hj
  cases p <;> first
    | rfl
    | exact Map.get_set_ne w.log _ fun e => hj (e ▸ h)

@[simp] theorem Act.clearLog_in {F : Foot} {lo hi : Nat} (h : ∀ k, lo ≤ k → k < hi → F .log k) : (Act.clearLog lo hi).In F := by
  intro s w p j hj
  cases p <;> first
    | rfl
    | exact Map.get_clear_out (fun e => hj (h j e.1 e.2)) w.log

theorem Act.clearLog_self {s : State} {lo hi k : Nat} (h1 : lo ≤ k) (h2 : k < hi) : ((Act.clearLog lo hi).run s).logAt k = dfltLog k :=
  Map.get_clear_in h1 h2

@[simp] theorem Act.modLog_in {F : Foot} {k : Nat} {g : Word → Word} (h : F .log k) : (Act.modLog k g).In F :=
  Act.get_in fun _ => Act.setLog_in h

theorem Act.modLog_self {s : State} (w : s.Wf) (k : Nat) (g : Word → Word) : ((Act.modLog k g).run s).logAt k = g (s.logAt k) :=
  Act.setLog_self w k _

theorem Act.setRecUsed_self {s : State} (w : s.Wf) (k : Nat) (v : Nat) : ((Act.setRecUsed k v).run s).recUsedAt k = v :=
  Map.get_set_self w.recUsed k _

@[simp] theorem Act.setRecUsed_in {F : Foot} {k : Nat} {v : Nat} (h : F .recUsed k) : (Act.setRecUsed k v).In F := by
  intro s w p j hj
  cases p <;> first
    | rfl
    | exact Map.get_set_ne w.recUsed _ fun e => hj (e ▸ h)

@[simp] theorem Act.clearRecUsed_in {F : Foot} {lo hi : Nat} (h : ∀ k, lo ≤ k → k < hi → F .recUsed k) : (Act.clearRecUsed lo hi).In F := by
  intro s w p j hj
  cases p <;> first
    | rfl
    | exact Map.get_clear_out (fun e => hj (h j e.1 e.2)) w.recUsed

theorem Act.clearRecUsed_self {s : State} {lo hi k : Nat} (h1 : lo ≤ k) (h2 : k < hi) : ((Act.clearRecUsed lo hi).run s).recUsedAt k = dfltRecUsed k :=
  Map.get_clear_in h1 h2

@[simp] theorem Act.modRecUsed_in {F : Foot} {k : Nat} {g : Nat → Nat} (h : F .recUsed k) : (Act.modRecUsed k g).In F :=
  Act.get_in fun _ => Act.setRecUsed_in h

theorem Act.modRecUsed_self {s : State} (w : s.Wf) (k : Nat) (g : Nat → Nat) : ((Act.modRecUsed k g).run s).recUsedAt k = g (s.recUsedAt k) :=
  Act.setRecUsed_self w k _

theorem Act.setRecDrop_self {s : State} (w : s.Wf) (k : Nat) (v : Nat) : ((Act.setRecDrop k v).run s).recDropAt k = v :=
  Map.get_set_self w.recDrop k _

@[simp] theorem Act.setRecDrop_in {F : Foot} {k : Nat} {v : Nat} (h : F .recDrop k) : (Act.setRecDrop k v).In F := by
  intro s w p j hj
  cases p <;> first
    | rfl
    | exact Map.get_set_ne w.recDrop _ fun e => hj (e ▸ h)

@[simp] theorem Act.clearRecDrop_in {F : Foot} {lo hi : Nat} (h : ∀ k, lo ≤ k → k < hi → F .recDrop k) : (Act.clearRecDrop lo hi).In F := by
  intro s w p j hj
  cases p <;> first
    | rfl
    | exact Map.get_clear_out (fun e => hj (h j e.1 e.2)) w.recDrop

theorem Act.clearRecDrop_self {s : State} {lo hi k : Nat} (h1 : lo ≤ k) (h2 : k < hi) : ((Act.clearRecDrop lo hi).run s).recDropAt k = dfltRecDrop k :=
  Map.get_clear_in h1 h2

@[simp] theorem Act.modRecDrop_in {F : Foot} {k : Nat} {g : Nat → Nat} (h : F .recDrop k) : (Act.modRecDrop k g).In F :=
  Act.get_in fun _ => Act.setRecDrop_in h

theorem Act.modRecDrop_self {s : State} (w : s.Wf) (k : Nat) (g : Nat → Nat) : ((Act.modRecDrop k g).run s).recDropAt k = g (s.recDropAt k) :=
  Act.setRecDrop_self w k _

theorem Act.setEngs_self {s : State} (w : s.Wf) (k : Nat) (v : EngSt) : ((Act.setEngs k v).run s).engsAt k = v :=
  Map.get_set_self w.engs k _

@[simp] theorem Act.setEngs_in {F : Foot} {k : Nat} {v : EngSt} (h : F .engs k) : (Act.setEngs k v).In F := by
  intro s w p j hj
  cases p <;> first
    | rfl
    | exact Map.get_set_ne w.engs _ fun e => hj (e ▸ h)

@[simp] theorem Act.clearEngs_in {F : Foot} {lo hi : Nat} (h : ∀ k, lo ≤ k → k < hi → F .engs k) : (Act.clearEngs lo hi).In F := by
  intro s w p j hj
  cases p <;> first
    | rfl
    | exact Map.get_clear_out (fun e => hj (h j e.1 e.2)) w.engs

theorem Act.clearEngs_self {s : State} {lo hi k : Nat} (h1 : lo ≤ k) (h2 : k < hi) : ((Act.clearEngs lo hi).run s).engsAt k = dfltEngs k :=
  Map.get_clear_in h1 h2

@[simp] theorem Act.modEngs_in {F : Foot} {k : Nat} {g : EngSt → EngSt} (h : F .engs k) : (Act.modEngs k g).In F :=
  Act.get_in fun _ => Act.setEngs_in h

theorem Act.modEngs_self {s : State} (w : s.Wf) (k : Nat) (g : EngSt → EngSt) : ((Act.modEngs k g).run s).engsAt k = g (s.engsAt k) :=
  Act.setEngs_self w k _

theorem Act.setConns_self {s : State} (w : s.Wf) (k : Nat) (v : ConnSt) : ((Act.setConns k v).run s).connsAt k = v :=
  Map.get_set_self w.conns k _

@[simp] theorem Act.setConns_in {F : Foot} {k : Nat} {v : ConnSt} (h : F .conns k) : (Act.setConns k v).In F := by
  intro s w p j hj
  cases p <;> first
    | rfl
    | exact Map.get_set_ne w.conns _ fun e => hj (e ▸ h)

@[simp] theorem Act.clearConns_in {F : Foot} {lo hi : Nat} (h : ∀ k, lo ≤ k → k < hi → F .conns k) : (Act.clearConns lo hi).In F := by
  intro s w p j hj
  cases p <;> first
    | rfl
    | exact Map.get_clear_out (fun e => hj (h j e.1 e.2)) w.conns

theorem Act.clearConns_self {s : State} {lo hi k : Nat} (h1 : lo ≤ k) (h2 : k < hi) : ((Act.clearConns lo hi).run s).connsAt k = dfltConns k :=
  Map.get_clear_in h1 h2

@[simp] theorem Act.modConns_in {F : Foot} {k : Nat} {g : ConnSt → ConnSt} (h : F .conns k) : (Act.modConns k g).In F :=
  Act.get_in fun _ => Act.setConns_in h

theorem Act.modConns_self {s : State} (w : s.Wf) (k : Nat) (g : ConnSt → ConnSt) : ((Act.modConns k g).run s).connsAt k = g (s.connsAt k) :=
  Act.setConns_self w k _

theorem Act.setBars_self {s : State} (w : s.Wf) (k : Nat) (v : BarSt) : ((Act.setBars k v).run s).barsAt k = v :=
  Map.get_set_self w.bars k _

@[simp] theorem Act.setBars_in {F : Foot} {k : Nat} {v : BarSt} (h : F .bars k) : (Act.setBars k v).In F := by
  intro s w p j hj
  cases p <;> first
    | rfl
    | exact Map.get_set_ne w.bars _ fun e => hj (e ▸ h)

@[simp] theorem Act.clearBars_in {F : Foot} {lo hi : Nat} (h : ∀ k, lo ≤ k → k < hi → F .bars k) : (Act.clearBars lo hi).In F := by
  intro s w p j hj
  cases p <;> first
    | rfl
    | exact Map.get_clear_out (fun e => hj (h j e.1 e.2)) w.bars

theorem Act.clearBars_self {s : State} {lo hi k : Nat} (h1 : lo ≤ k) (h2 : k < hi) : ((Act.clearBars lo hi).run s).barsAt k = dfltBars k :=
  Map.get_clear_in h1 h2

@[simp] theorem Act.modBars_in {F : Foot} {k : Nat} {g : BarSt → BarSt} (h : F .bars k) : (Act.modBars k g).In F :=
  Act.get_in fun _ => Act.setBars_in h

theorem Act.modBars_self {s : State} (w : s.Wf) (k : Nat) (g : BarSt → BarSt) : ((Act.modBars k g).run s).barsAt k = g (s.barsAt k) :=
  Act.setBars_self w k _

theorem Act.setHounds_self {s : State} (w : s.Wf) (k : Nat) (v : HoundSt) : ((Act.setHounds k v).run s).houndsAt k = v :=
  Map.get_set_self w.hounds k _

@[simp] theorem Act.setHounds_in {F : Foot} {k : Nat} {v : HoundSt} (h : F .hounds k) : (Act.setHounds k v).In F := by
  intro s w p j hj
  cases p <;> first
    | rfl
    | exact Map.get_set_ne w.hounds _ fun e => hj (e ▸ h)

@[simp] theorem Act.clearHounds_in {F : Foot} {lo hi : Nat} (h : ∀ k, lo ≤ k → k < hi → F .hounds k) : (Act.clearHounds lo hi).In F := by
  intro s w p j hj
  cases p <;> first
    | rfl
    | exact Map.get_clear_out (fun e => hj (h j e.1 e.2)) w.hounds

theorem Act.clearHounds_self {s : State} {lo hi k : Nat} (h1 : lo ≤ k) (h2 : k < hi) : ((Act.clearHounds lo hi).run s).houndsAt k = dfltHounds k :=
  Map.get_clear_in h1 h2

@[simp] theorem Act.modHounds_in {F : Foot} {k : Nat} {g : HoundSt → HoundSt} (h : F .hounds k) : (Act.modHounds k g).In F :=
  Act.get_in fun _ => Act.setHounds_in h

theorem Act.modHounds_self {s : State} (w : s.Wf) (k : Nat) (g : HoundSt → HoundSt) : ((Act.modHounds k g).run s).houndsAt k = g (s.houndsAt k) :=
  Act.setHounds_self w k _

theorem Act.setSamp_self {s : State} (w : s.Wf) (k : Nat) (v : Nat) : ((Act.setSamp k v).run s).sampAt k = v :=
  Map.get_set_self w.samp k _

@[simp] theorem Act.setSamp_in {F : Foot} {k : Nat} {v : Nat} (h : F .samp k) : (Act.setSamp k v).In F := by
  intro s w p j hj
  cases p <;> first
    | rfl
    | exact Map.get_set_ne w.samp _ fun e => hj (e ▸ h)

@[simp] theorem Act.clearSamp_in {F : Foot} {lo hi : Nat} (h : ∀ k, lo ≤ k → k < hi → F .samp k) : (Act.clearSamp lo hi).In F := by
  intro s w p j hj
  cases p <;> first
    | rfl
    | exact Map.get_clear_out (fun e => hj (h j e.1 e.2)) w.samp

theorem Act.clearSamp_self {s : State} {lo hi k : Nat} (h1 : lo ≤ k) (h2 : k < hi) : ((Act.clearSamp lo hi).run s).sampAt k = dfltSamp k :=
  Map.get_clear_in h1 h2

@[simp] theorem Act.modSamp_in {F : Foot} {k : Nat} {g : Nat → Nat} (h : F .samp k) : (Act.modSamp k g).In F :=
  Act.get_in fun _ => Act.setSamp_in h

theorem Act.modSamp_self {s : State} (w : s.Wf) (k : Nat) (g : Nat → Nat) : ((Act.modSamp k g).run s).sampAt k = g (s.sampAt k) :=
  Act.setSamp_self w k _

theorem Act.setCells_self {s : State} (w : s.Wf) (k : Nat) (v : CellSt) : ((Act.setCells k v).run s).cellsAt k = v :=
  Map.get_set_self w.cells k _

@[simp] theorem Act.setCells_in {F : Foot} {k : Nat} {v : CellSt} (h : F .cells k) : (Act.setCells k v).In F := by
  intro s w p j hj
  cases p <;> first
    | rfl
    | exact Map.get_set_ne w.cells _ fun e => hj (e ▸ h)

@[simp] theorem Act.clearCells_in {F : Foot} {lo hi : Nat} (h : ∀ k, lo ≤ k → k < hi → F .cells k) : (Act.clearCells lo hi).In F := by
  intro s w p j hj
  cases p <;> first
    | rfl
    | exact Map.get_clear_out (fun e => hj (h j e.1 e.2)) w.cells

theorem Act.clearCells_self {s : State} {lo hi k : Nat} (h1 : lo ≤ k) (h2 : k < hi) : ((Act.clearCells lo hi).run s).cellsAt k = dfltCells k :=
  Map.get_clear_in h1 h2

@[simp] theorem Act.modCells_in {F : Foot} {k : Nat} {g : CellSt → CellSt} (h : F .cells k) : (Act.modCells k g).In F :=
  Act.get_in fun _ => Act.setCells_in h

theorem Act.modCells_self {s : State} (w : s.Wf) (k : Nat) (g : CellSt → CellSt) : ((Act.modCells k g).run s).cellsAt k = g (s.cellsAt k) :=
  Act.setCells_self w k _

theorem Act.setCjobs_self {s : State} (w : s.Wf) (k : Nat) (v : Option CodeJob) : ((Act.setCjobs k v).run s).cjobsAt k = v :=
  Map.get_set_self w.cjobs k _

@[simp] theorem Act.setCjobs_in {F : Foot} {k : Nat} {v : Option CodeJob} (h : F .cjobs k) : (Act.setCjobs k v).In F := by
  intro s w p j hj
  cases p <;> first
    | rfl
    | exact Map.get_set_ne w.cjobs _ fun e => hj (e ▸ h)

@[simp] theorem Act.clearCjobs_in {F : Foot} {lo hi : Nat} (h : ∀ k, lo ≤ k → k < hi → F .cjobs k) : (Act.clearCjobs lo hi).In F := by
  intro s w p j hj
  cases p <;> first
    | rfl
    | exact Map.get_clear_out (fun e => hj (h j e.1 e.2)) w.cjobs

theorem Act.clearCjobs_self {s : State} {lo hi k : Nat} (h1 : lo ≤ k) (h2 : k < hi) : ((Act.clearCjobs lo hi).run s).cjobsAt k = dfltCjobs k :=
  Map.get_clear_in h1 h2

@[simp] theorem Act.modCjobs_in {F : Foot} {k : Nat} {g : Option CodeJob → Option CodeJob} (h : F .cjobs k) : (Act.modCjobs k g).In F :=
  Act.get_in fun _ => Act.setCjobs_in h

theorem Act.modCjobs_self {s : State} (w : s.Wf) (k : Nat) (g : Option CodeJob → Option CodeJob) : ((Act.modCjobs k g).run s).cjobsAt k = g (s.cjobsAt k) :=
  Act.setCjobs_self w k _

theorem Act.setDsps_self {s : State} (w : s.Wf) (k : Nat) (v : DspSt) : ((Act.setDsps k v).run s).dspsAt k = v :=
  Map.get_set_self w.dsps k _

@[simp] theorem Act.setDsps_in {F : Foot} {k : Nat} {v : DspSt} (h : F .dsps k) : (Act.setDsps k v).In F := by
  intro s w p j hj
  cases p <;> first
    | rfl
    | exact Map.get_set_ne w.dsps _ fun e => hj (e ▸ h)

@[simp] theorem Act.clearDsps_in {F : Foot} {lo hi : Nat} (h : ∀ k, lo ≤ k → k < hi → F .dsps k) : (Act.clearDsps lo hi).In F := by
  intro s w p j hj
  cases p <;> first
    | rfl
    | exact Map.get_clear_out (fun e => hj (h j e.1 e.2)) w.dsps

theorem Act.clearDsps_self {s : State} {lo hi k : Nat} (h1 : lo ≤ k) (h2 : k < hi) : ((Act.clearDsps lo hi).run s).dspsAt k = dfltDsps k :=
  Map.get_clear_in h1 h2

@[simp] theorem Act.modDsps_in {F : Foot} {k : Nat} {g : DspSt → DspSt} (h : F .dsps k) : (Act.modDsps k g).In F :=
  Act.get_in fun _ => Act.setDsps_in h

theorem Act.modDsps_self {s : State} (w : s.Wf) (k : Nat) (g : DspSt → DspSt) : ((Act.modDsps k g).run s).dspsAt k = g (s.dspsAt k) :=
  Act.setDsps_self w k _

theorem Act.setDspMem_self {s : State} (w : s.Wf) (k : Nat) (v : Nat) : ((Act.setDspMem k v).run s).dspMemAt k = v :=
  Map.get_set_self w.dspMem k _

@[simp] theorem Act.setDspMem_in {F : Foot} {k : Nat} {v : Nat} (h : F .dspMem k) : (Act.setDspMem k v).In F := by
  intro s w p j hj
  cases p <;> first
    | rfl
    | exact Map.get_set_ne w.dspMem _ fun e => hj (e ▸ h)

@[simp] theorem Act.clearDspMem_in {F : Foot} {lo hi : Nat} (h : ∀ k, lo ≤ k → k < hi → F .dspMem k) : (Act.clearDspMem lo hi).In F := by
  intro s w p j hj
  cases p <;> first
    | rfl
    | exact Map.get_clear_out (fun e => hj (h j e.1 e.2)) w.dspMem

theorem Act.clearDspMem_self {s : State} {lo hi k : Nat} (h1 : lo ≤ k) (h2 : k < hi) : ((Act.clearDspMem lo hi).run s).dspMemAt k = dfltDspMem k :=
  Map.get_clear_in h1 h2

@[simp] theorem Act.modDspMem_in {F : Foot} {k : Nat} {g : Nat → Nat} (h : F .dspMem k) : (Act.modDspMem k g).In F :=
  Act.get_in fun _ => Act.setDspMem_in h

theorem Act.modDspMem_self {s : State} (w : s.Wf) (k : Nat) (g : Nat → Nat) : ((Act.modDspMem k g).run s).dspMemAt k = g (s.dspMemAt k) :=
  Act.setDspMem_self w k _

theorem Act.setDspP_self {s : State} (w : s.Wf) (k : Nat) (v : Nat) : ((Act.setDspP k v).run s).dspPAt k = v :=
  Map.get_set_self w.dspP k _

@[simp] theorem Act.setDspP_in {F : Foot} {k : Nat} {v : Nat} (h : F .dspP k) : (Act.setDspP k v).In F := by
  intro s w p j hj
  cases p <;> first
    | rfl
    | exact Map.get_set_ne w.dspP _ fun e => hj (e ▸ h)

@[simp] theorem Act.clearDspP_in {F : Foot} {lo hi : Nat} (h : ∀ k, lo ≤ k → k < hi → F .dspP k) : (Act.clearDspP lo hi).In F := by
  intro s w p j hj
  cases p <;> first
    | rfl
    | exact Map.get_clear_out (fun e => hj (h j e.1 e.2)) w.dspP

theorem Act.clearDspP_self {s : State} {lo hi k : Nat} (h1 : lo ≤ k) (h2 : k < hi) : ((Act.clearDspP lo hi).run s).dspPAt k = dfltDspP k :=
  Map.get_clear_in h1 h2

@[simp] theorem Act.modDspP_in {F : Foot} {k : Nat} {g : Nat → Nat} (h : F .dspP k) : (Act.modDspP k g).In F :=
  Act.get_in fun _ => Act.setDspP_in h

theorem Act.modDspP_self {s : State} (w : s.Wf) (k : Nat) (g : Nat → Nat) : ((Act.modDspP k g).run s).dspPAt k = g (s.dspPAt k) :=
  Act.setDspP_self w k _

theorem Act.setDets_self {s : State} (w : s.Wf) (k : Nat) (v : Bool) : ((Act.setDets k v).run s).detsAt k = v :=
  Map.get_set_self w.dets k _

@[simp] theorem Act.setDets_in {F : Foot} {k : Nat} {v : Bool} (h : F .dets k) : (Act.setDets k v).In F := by
  intro s w p j hj
  cases p <;> first
    | rfl
    | exact Map.get_set_ne w.dets _ fun e => hj (e ▸ h)

@[simp] theorem Act.clearDets_in {F : Foot} {lo hi : Nat} (h : ∀ k, lo ≤ k → k < hi → F .dets k) : (Act.clearDets lo hi).In F := by
  intro s w p j hj
  cases p <;> first
    | rfl
    | exact Map.get_clear_out (fun e => hj (h j e.1 e.2)) w.dets

theorem Act.clearDets_self {s : State} {lo hi k : Nat} (h1 : lo ≤ k) (h2 : k < hi) : ((Act.clearDets lo hi).run s).detsAt k = dfltDets k :=
  Map.get_clear_in h1 h2

@[simp] theorem Act.modDets_in {F : Foot} {k : Nat} {g : Bool → Bool} (h : F .dets k) : (Act.modDets k g).In F :=
  Act.get_in fun _ => Act.setDets_in h

theorem Act.modDets_self {s : State} (w : s.Wf) (k : Nat) (g : Bool → Bool) : ((Act.modDets k g).run s).detsAt k = g (s.detsAt k) :=
  Act.setDets_self w k _

theorem Act.setDumps_self {s : State} (w : s.Wf) (k : Nat) (v : DumpSt) : ((Act.setDumps k v).run s).dumpsAt k = v :=
  Map.get_set_self w.dumps k _

@[simp] theorem Act.setDumps_in {F : Foot} {k : Nat} {v : DumpSt} (h : F .dumps k) : (Act.setDumps k v).In F := by
  intro s w p j hj
  cases p <;> first
    | rfl
    | exact Map.get_set_ne w.dumps _ fun e => hj (e ▸ h)

@[simp] theorem Act.clearDumps_in {F : Foot} {lo hi : Nat} (h : ∀ k, lo ≤ k → k < hi → F .dumps k) : (Act.clearDumps lo hi).In F := by
  intro s w p j hj
  cases p <;> first
    | rfl
    | exact Map.get_clear_out (fun e => hj (h j e.1 e.2)) w.dumps

theorem Act.clearDumps_self {s : State} {lo hi k : Nat} (h1 : lo ≤ k) (h2 : k < hi) : ((Act.clearDumps lo hi).run s).dumpsAt k = dfltDumps k :=
  Map.get_clear_in h1 h2

@[simp] theorem Act.modDumps_in {F : Foot} {k : Nat} {g : DumpSt → DumpSt} (h : F .dumps k) : (Act.modDumps k g).In F :=
  Act.get_in fun _ => Act.setDumps_in h

theorem Act.modDumps_self {s : State} (w : s.Wf) (k : Nat) (g : DumpSt → DumpSt) : ((Act.modDumps k g).run s).dumpsAt k = g (s.dumpsAt k) :=
  Act.setDumps_self w k _

@[simp] theorem Act.modClk_clk (g : Clk → Clk) (s : State) : ((Act.modClk g).run s).clk = g s.clk := rfl

@[simp] theorem Act.modClk_in {F : Foot} {g : Clk → Clk} (h : ∀ j, F .clk j) : (Act.modClk g).In F := by
  intro s w p j hj
  cases p <;> first
    | rfl
    | exact absurd (h j) hj

@[simp] theorem Act.setClk_in {F : Foot} {v : Clk} (h : ∀ j, F .clk j) : (Act.setClk v).In F := Act.modClk_in h

@[simp] theorem Act.modRecd_recd (g : RecSt → RecSt) (s : State) : ((Act.modRecd g).run s).recd = g s.recd := rfl

@[simp] theorem Act.modRecd_in {F : Foot} {g : RecSt → RecSt} (h : ∀ j, F .recd j) : (Act.modRecd g).In F := by
  intro s w p j hj
  cases p <;> first
    | rfl
    | exact absurd (h j) hj

@[simp] theorem Act.setRecd_in {F : Foot} {v : RecSt} (h : ∀ j, F .recd j) : (Act.setRecd v).In F := Act.modRecd_in h

@[simp] theorem Act.modAttn_attn (g : AttnSt → AttnSt) (s : State) : ((Act.modAttn g).run s).attn = g s.attn := rfl

@[simp] theorem Act.modAttn_in {F : Foot} {g : AttnSt → AttnSt} (h : ∀ j, F .attn j) : (Act.modAttn g).In F := by
  intro s w p j hj
  cases p <;> first
    | rfl
    | exact absurd (h j) hj

@[simp] theorem Act.setAttn_in {F : Foot} {v : AttnSt} (h : ∀ j, F .attn j) : (Act.setAttn v).In F := Act.modAttn_in h

@[simp] theorem Act.modLinkOn_linkOn (g : Bool → Bool) (s : State) : ((Act.modLinkOn g).run s).linkOn = g s.linkOn := rfl

@[simp] theorem Act.modLinkOn_in {F : Foot} {g : Bool → Bool} (h : ∀ j, F .linkOn j) : (Act.modLinkOn g).In F := by
  intro s w p j hj
  cases p <;> first
    | rfl
    | exact absurd (h j) hj

@[simp] theorem Act.setLinkOn_in {F : Foot} {v : Bool} (h : ∀ j, F .linkOn j) : (Act.setLinkOn v).In F := Act.modLinkOn_in h

@[simp] theorem Act.modFailed_failed (g : Bool → Bool) (s : State) : ((Act.modFailed g).run s).failed = g s.failed := rfl

@[simp] theorem Act.modFailed_in {F : Foot} {g : Bool → Bool} (h : ∀ j, F .failed j) : (Act.modFailed g).In F := by
  intro s w p j hj
  cases p <;> first
    | rfl
    | exact absurd (h j) hj

@[simp] theorem Act.setFailed_in {F : Foot} {v : Bool} (h : ∀ j, F .failed j) : (Act.setFailed v).In F := Act.modFailed_in h

@[simp] theorem Act.modLpAct0_lpAct0 (g : List Nat → List Nat) (s : State) : ((Act.modLpAct0 g).run s).lpAct0 = g s.lpAct0 := rfl

@[simp] theorem Act.modLpAct0_in {F : Foot} {g : List Nat → List Nat} (h : ∀ j, F .lpAct0 j) : (Act.modLpAct0 g).In F := by
  intro s w p j hj
  cases p <;> first
    | rfl
    | exact absurd (h j) hj

@[simp] theorem Act.setLpAct0_in {F : Foot} {v : List Nat} (h : ∀ j, F .lpAct0 j) : (Act.setLpAct0 v).In F := Act.modLpAct0_in h

@[simp] theorem Act.modLpAct1_lpAct1 (g : List Nat → List Nat) (s : State) : ((Act.modLpAct1 g).run s).lpAct1 = g s.lpAct1 := rfl

@[simp] theorem Act.modLpAct1_in {F : Foot} {g : List Nat → List Nat} (h : ∀ j, F .lpAct1 j) : (Act.modLpAct1 g).In F := by
  intro s w p j hj
  cases p <;> first
    | rfl
    | exact absurd (h j) hj

@[simp] theorem Act.setLpAct1_in {F : Foot} {v : List Nat} (h : ∀ j, F .lpAct1 j) : (Act.setLpAct1 v).In F := Act.modLpAct1_in h

@[simp] theorem Act.modSigq_sigq (g : List SigJob → List SigJob) (s : State) : ((Act.modSigq g).run s).sigq = g s.sigq := rfl

@[simp] theorem Act.modSigq_in {F : Foot} {g : List SigJob → List SigJob} (h : ∀ j, F .sigq j) : (Act.modSigq g).In F := by
  intro s w p j hj
  cases p <;> first
    | rfl
    | exact absurd (h j) hj

@[simp] theorem Act.setSigq_in {F : Foot} {v : List SigJob} (h : ∀ j, F .sigq j) : (Act.setSigq v).In F := Act.modSigq_in h

@[simp] theorem Act.modConvq_convq (g : List (Nat × ConvJob) → List (Nat × ConvJob)) (s : State) : ((Act.modConvq g).run s).convq = g s.convq := rfl

@[simp] theorem Act.modConvq_in {F : Foot} {g : List (Nat × ConvJob) → List (Nat × ConvJob)} (h : ∀ j, F .convq j) : (Act.modConvq g).In F := by
  intro s w p j hj
  cases p <;> first
    | rfl
    | exact absurd (h j) hj

@[simp] theorem Act.setConvq_in {F : Foot} {v : List (Nat × ConvJob)} (h : ∀ j, F .convq j) : (Act.setConvq v).In F := Act.modConvq_in h

@[simp] theorem Act.modFlash_flash (g : Flash → Flash) (s : State) : ((Act.modFlash g).run s).flash = g s.flash := rfl

@[simp] theorem Act.modFlash_in {F : Foot} {g : Flash → Flash} (h : ∀ j, F .flash j) : (Act.modFlash g).In F := by
  intro s w p j hj
  cases p <;> first
    | rfl
    | exact absurd (h j) hj

@[simp] theorem Act.setFlash_in {F : Foot} {v : Flash} (h : ∀ j, F .flash j) : (Act.setFlash v).In F := Act.modFlash_in h

@[simp] theorem Act.modArrives_arrives (g : List ArriveSt → List ArriveSt) (s : State) : ((Act.modArrives g).run s).arrives = g s.arrives := rfl

@[simp] theorem Act.modArrives_in {F : Foot} {g : List ArriveSt → List ArriveSt} (h : ∀ j, F .arrives j) : (Act.modArrives g).In F := by
  intro s w p j hj
  cases p <;> first
    | rfl
    | exact absurd (h j) hj

@[simp] theorem Act.setArrives_in {F : Foot} {v : List ArriveSt} (h : ∀ j, F .arrives j) : (Act.setArrives v).In F := Act.modArrives_in h

@[simp] theorem Act.modHeld_held (g : List HeldJob → List HeldJob) (s : State) : ((Act.modHeld g).run s).held = g s.held := rfl

@[simp] theorem Act.modHeld_in {F : Foot} {g : List HeldJob → List HeldJob} (h : ∀ j, F .held j) : (Act.modHeld g).In F := by
  intro s w p j hj
  cases p <;> first
    | rfl
    | exact absurd (h j) hj

@[simp] theorem Act.setHeld_in {F : Foot} {v : List HeldJob} (h : ∀ j, F .held j) : (Act.setHeld v).In F := Act.modHeld_in h

@[simp] theorem Act.modHeldCode_heldCode (g : List HeldJob → List HeldJob) (s : State) : ((Act.modHeldCode g).run s).heldCode = g s.heldCode := rfl

@[simp] theorem Act.modHeldCode_in {F : Foot} {g : List HeldJob → List HeldJob} (h : ∀ j, F .heldCode j) : (Act.modHeldCode g).In F := by
  intro s w p j hj
  cases p <;> first
    | rfl
    | exact absurd (h j) hj

@[simp] theorem Act.setHeldCode_in {F : Foot} {v : List HeldJob} (h : ∀ j, F .heldCode j) : (Act.setHeldCode v).In F := Act.modHeldCode_in h

@[simp] theorem Act.modPairs_pairs (g : List PairRec → List PairRec) (s : State) : ((Act.modPairs g).run s).pairs = g s.pairs := rfl

@[simp] theorem Act.modPairs_in {F : Foot} {g : List PairRec → List PairRec} (h : ∀ j, F .pairs j) : (Act.modPairs g).In F := by
  intro s w p j hj
  cases p <;> first
    | rfl
    | exact absurd (h j) hj

@[simp] theorem Act.setPairs_in {F : Foot} {v : List PairRec} (h : ∀ j, F .pairs j) : (Act.setPairs v).In F := Act.modPairs_in h

@[simp] theorem Act.modRadio_radio (g : RadioSt → RadioSt) (s : State) : ((Act.modRadio g).run s).radio = g s.radio := rfl

@[simp] theorem Act.modRadio_in {F : Foot} {g : RadioSt → RadioSt} (h : ∀ j, F .radio j) : (Act.modRadio g).In F := by
  intro s w p j hj
  cases p <;> first
    | rfl
    | exact absurd (h j) hj

@[simp] theorem Act.setRadio_in {F : Foot} {v : RadioSt} (h : ∀ j, F .radio j) : (Act.setRadio v).In F := Act.modRadio_in h

@[simp] theorem Act.modTime_time (g : TimeSt → TimeSt) (s : State) : ((Act.modTime g).run s).time = g s.time := rfl

@[simp] theorem Act.modTime_in {F : Foot} {g : TimeSt → TimeSt} (h : ∀ j, F .time j) : (Act.modTime g).In F := by
  intro s w p j hj
  cases p <;> first
    | rfl
    | exact absurd (h j) hj

@[simp] theorem Act.setTime_in {F : Foot} {v : TimeSt} (h : ∀ j, F .time j) : (Act.setTime v).In F := Act.modTime_in h

@[simp] theorem Act.modLast_last (g : LastSt → LastSt) (s : State) : ((Act.modLast g).run s).last = g s.last := rfl

@[simp] theorem Act.modLast_in {F : Foot} {g : LastSt → LastSt} (h : ∀ j, F .last j) : (Act.modLast g).In F := by
  intro s w p j hj
  cases p <;> first
    | rfl
    | exact absurd (h j) hj

@[simp] theorem Act.setLast_in {F : Foot} {v : LastSt} (h : ∀ j, F .last j) : (Act.setLast v).In F := Act.modLast_in h

@[simp] theorem Act.modSys_sys (g : SysSt → SysSt) (s : State) : ((Act.modSys g).run s).sys = g s.sys := rfl

@[simp] theorem Act.modSys_in {F : Foot} {g : SysSt → SysSt} (h : ∀ j, F .sys j) : (Act.modSys g).In F := by
  intro s w p j hj
  cases p <;> first
    | rfl
    | exact absurd (h j) hj

@[simp] theorem Act.setSys_in {F : Foot} {v : SysSt} (h : ∀ j, F .sys j) : (Act.setSys v).In F := Act.modSys_in h

@[simp] theorem Act.modFree_free (g : Nat → Nat) (s : State) : ((Act.modFree g).run s).free = g s.free := rfl

@[simp] theorem Act.modFree_in {F : Foot} {g : Nat → Nat} (h : ∀ j, F .free j) : (Act.modFree g).In F := by
  intro s w p j hj
  cases p <;> first
    | rfl
    | exact absurd (h j) hj

@[simp] theorem Act.setFree_in {F : Foot} {v : Nat} (h : ∀ j, F .free j) : (Act.setFree v).In F := Act.modFree_in h

@[simp] theorem Act.emit_emitted (e : Emit) (s : State) : ((Act.emit e).run s).emitted = e :: s.emitted := rfl

@[simp] theorem Act.emit_in {F : Foot} {e : Emit} (h : ∀ j, F .emitted j) : (Act.emit e).In F := by
  intro s w p j hj
  cases p <;> first
    | rfl
    | exact absurd (h j) hj

end Sys2Proof.Machine
end

