-- ==== Sys2Proof/Laws/Ops.lean ====
section
/-! SUPPORT. Laws of the operations every chapter shares: the footprint of each. -/

set_option linter.unusedSimpArgs false

namespace Sys2Proof.Machine


theorem hostKey_ge (pasid addr : Nat) : pasid * 18446744073709551616 ≤ hostKey pasid addr := Nat.le_add_right _ _
theorem hostKey_lt (pasid addr : Nat) : hostKey pasid addr < pasid * 18446744073709551616 + 18446744073709551616 := by
  unfold hostKey
  exact Nat.add_lt_add_left (Nat.mod_lt _ (by decide)) _




@[simp] theorem attnOut_le_attn : attnOutFoot.le attnFoot := by
  intro p k h
  simp [attnFoot, attnOutFoot] at h ⊢
  rcases h with h | h | h <;> simp [h]

@[simp] theorem attnOut_le_rec : attnOutFoot.le recFoot := by
  intro p k h
  simp [recFoot, attnOutFoot] at h ⊢
  rcases h with h | h | h <;> simp [h]

@[simp] theorem attn_le {F : Foot} (hf : recFoot.le F) : attnFoot.le F := by
  intro p k h
  refine hf p k ?_
  simp [attnFoot, recFoot] at h ⊢
  rcases h with h | h | h | h | h <;> simp [h]

@[simp] theorem Act.setF_in {F : Foot} {a : Nat} {f : Field} {v : Nat} (h : F .regs a) : (Act.setF a f v).In F := by
  unfold Act.setF
  repeat' first
    | with_reducible first
      | exact Act.nil_in
      | apply Act.cons_in
      | apply Act.seq_in
      | (apply Act.get_in; intro _)
      | (apply Act.when_in; intro _)
      | (apply Act.each_in; intro _ _)
      | (apply Act.withFree_in; intro _)
    | (simp (maxDischargeDepth := 9); done)
    | (simp (maxDischargeDepth := 9) [h]; done)
    | dsimp only
    | split

@[simp] theorem Act.modF_in {F : Foot} {a : Nat} {f : Field} {g : Nat → Nat} (h : F .regs a) : (Act.modF a f g).In F := by
  unfold Act.modF
  repeat' first
    | with_reducible first
      | exact Act.nil_in
      | apply Act.cons_in
      | apply Act.seq_in
      | (apply Act.get_in; intro _)
      | (apply Act.when_in; intro _)
      | (apply Act.each_in; intro _ _)
      | (apply Act.withFree_in; intro _)
    | (simp (maxDischargeDepth := 9); done)
    | (simp (maxDischargeDepth := 9) [h]; done)
    | dsimp only
    | split

@[simp] theorem Act.incF_in {F : Foot} {a : Nat} {f : Field} {n : Nat} (h : F .regs a) : (Act.incF a f n).In F := by
  unfold Act.incF
  repeat' first
    | with_reducible first
      | exact Act.nil_in
      | apply Act.cons_in
      | apply Act.seq_in
      | (apply Act.get_in; intro _)
      | (apply Act.when_in; intro _)
      | (apply Act.each_in; intro _ _)
      | (apply Act.withFree_in; intro _)
    | (simp (maxDischargeDepth := 9); done)
    | (simp (maxDischargeDepth := 9) [h]; done)
    | dsimp only
    | split

@[simp] theorem Act.orF_in {F : Foot} {a : Nat} {f : Field} {n : Nat} (h : F .regs a) : (Act.orF a f n).In F := by
  unfold Act.orF
  repeat' first
    | with_reducible first
      | exact Act.nil_in
      | apply Act.cons_in
      | apply Act.seq_in
      | (apply Act.get_in; intro _)
      | (apply Act.when_in; intro _)
      | (apply Act.each_in; intro _ _)
      | (apply Act.withFree_in; intro _)
    | (simp (maxDischargeDepth := 9); done)
    | (simp (maxDischargeDepth := 9) [h]; done)
    | dsimp only
    | split

@[simp] theorem Act.clrF_in {F : Foot} {a : Nat} {f : Field} {n : Nat} (h : F .regs a) : (Act.clrF a f n).In F := by
  unfold Act.clrF
  repeat' first
    | with_reducible first
      | exact Act.nil_in
      | apply Act.cons_in
      | apply Act.seq_in
      | (apply Act.get_in; intro _)
      | (apply Act.when_in; intro _)
      | (apply Act.each_in; intro _ _)
      | (apply Act.withFree_in; intro _)
    | (simp (maxDischargeDepth := 9); done)
    | (simp (maxDischargeDepth := 9) [h]; done)
    | dsimp only
    | split

theorem Act.withFree_in {F : Foot} {f : Nat → Act} (hf : ∀ k, (f k).In F) (h : ∀ j, F .free j) : (Act.withFree f).In F :=
  Act.get_in fun _ => Act.seq_in (Act.modFree_in h) (hf _)

theorem Act.hostWrite_foot {pasid addr : Nat} {data : List Byte} : (Act.hostWrite pasid addr data).In (hostFoot pasid) := by
  unfold Act.hostWrite
  repeat' first
    | with_reducible first
      | exact Act.nil_in
      | apply Act.cons_in
      | apply Act.seq_in
      | (apply Act.get_in; intro _)
      | (apply Act.when_in; intro _)
      | (apply Act.each_in; intro _ _)
      | (apply Act.withFree_in; intro _)
    | (simp (maxDischargeDepth := 9); done)
    | (simp (maxDischargeDepth := 9) [hostFoot, hostKey_ge, hostKey_lt]; done)
    | dsimp only
    | split

@[simp] theorem Act.hostWrite_in {F : Foot} {pasid addr : Nat} {data : List Byte} (h : Foot.le (hostFoot pasid) F) : (Act.hostWrite pasid addr data).In F := Act.hostWrite_foot.le h

theorem Act.rbWant_foot {low : Bool} : (Act.rbWant low).In (.whole [.attn, .emitted]) := by
  unfold Act.rbWant
  repeat' first
    | with_reducible first
      | exact Act.nil_in
      | apply Act.cons_in
      | apply Act.seq_in
      | (apply Act.get_in; intro _)
      | (apply Act.when_in; intro _)
      | (apply Act.each_in; intro _ _)
      | (apply Act.withFree_in; intro _)
    | (simp (maxDischargeDepth := 9); done)
    | dsimp only
    | split

@[simp] theorem Act.rbWant_in {F : Foot} {low : Bool} (h : Foot.le (.whole [.attn, .emitted]) F) : (Act.rbWant low).In F := Act.rbWant_foot.le h

theorem hostWrite_noPasid {addr : Nat} {data : List Byte} : (Act.hostWrite noPasid addr data).In attnOutFoot :=
  Act.hostWrite_in (by simp [attnOutFoot])

theorem rbWant_attn {low : Bool} : (Act.rbWant low).In attnOutFoot := Act.rbWant_in (by simp [attnOutFoot])

theorem Act.vectorWrite_foot : Act.vectorWrite.In attnOutFoot := by
  unfold Act.vectorWrite
  repeat' first
    | with_reducible first
      | exact Act.nil_in
      | apply Act.cons_in
      | apply Act.seq_in
      | (apply Act.get_in; intro _)
      | (apply Act.when_in; intro _)
      | (apply Act.each_in; intro _ _)
      | (apply Act.withFree_in; intro _)
    | (simp (maxDischargeDepth := 9); done)
    | (simp (maxDischargeDepth := 9) [attnOutFoot]; done)
    | dsimp only
    | split

@[simp] theorem Act.vectorWrite_in {F : Foot} (h : Foot.le attnOutFoot F) : Act.vectorWrite.In F := Act.vectorWrite_foot.le h

theorem Act.attnChanged_foot : Act.attnChanged.In attnOutFoot := by
  unfold Act.attnChanged
  repeat' first
    | with_reducible first
      | exact Act.nil_in
      | apply Act.cons_in
      | apply Act.seq_in
      | (apply Act.get_in; intro _)
      | (apply Act.when_in; intro _)
      | (apply Act.each_in; intro _ _)
      | (apply Act.withFree_in; intro _)
    | (simp (maxDischargeDepth := 9); done)
    | (simp (maxDischargeDepth := 9) [attnOutFoot]; done)
    | dsimp only
    | split

@[simp] theorem Act.attnChanged_in {F : Foot} (h : Foot.le attnOutFoot F) : Act.attnChanged.In F := Act.attnChanged_foot.le h

theorem Act.attnSet_foot {b : Nat} : (Act.attnSet b).In attnFoot := by
  unfold Act.attnSet
  refine Act.cons_in ?_ (Act.cons_in (by simp) Act.nil_in)
  by_cases h : b < 256
  · rw [if_pos h]
    exact Act.modF_in (by simp [attnFoot, show b / 64 < 4 by omega])
  · rw [if_neg h]
    exact Act.modF_in (by simp [attnFoot])

@[simp] theorem Act.attnSet_in {F : Foot} {b : Nat} (h : attnFoot.le F) : (Act.attnSet b).In F := Act.attnSet_foot.le h

theorem Act.attnMgr_foot : Act.attnMgr.In attnFoot := by
  unfold Act.attnMgr
  repeat' first
    | with_reducible first
      | exact Act.nil_in
      | apply Act.cons_in
      | apply Act.seq_in
      | (apply Act.get_in; intro _)
      | (apply Act.when_in; intro _)
      | (apply Act.each_in; intro _ _)
      | (apply Act.withFree_in; intro _)
    | (simp (maxDischargeDepth := 9); done)
    | dsimp only
    | split

@[simp] theorem Act.attnMgr_in {F : Foot} (h : Foot.le attnFoot F) : Act.attnMgr.In F := Act.attnMgr_foot.le h

theorem Act.attnRadio_foot : Act.attnRadio.In attnFoot := by
  unfold Act.attnRadio
  repeat' first
    | with_reducible first
      | exact Act.nil_in
      | apply Act.cons_in
      | apply Act.seq_in
      | (apply Act.get_in; intro _)
      | (apply Act.when_in; intro _)
      | (apply Act.each_in; intro _ _)
      | (apply Act.withFree_in; intro _)
    | (simp (maxDischargeDepth := 9); done)
    | dsimp only
    | split

@[simp] theorem Act.attnRadio_in {F : Foot} (h : Foot.le attnFoot F) : Act.attnRadio.In F := Act.attnRadio_foot.le h

theorem Act.attnRec_foot : Act.attnRec.In attnFoot := by
  unfold Act.attnRec
  repeat' first
    | with_reducible first
      | exact Act.nil_in
      | apply Act.cons_in
      | apply Act.seq_in
      | (apply Act.get_in; intro _)
      | (apply Act.when_in; intro _)
      | (apply Act.each_in; intro _ _)
      | (apply Act.withFree_in; intro _)
    | (simp (maxDischargeDepth := 9); done)
    | dsimp only
    | split

@[simp] theorem Act.attnRec_in {F : Foot} (h : Foot.le attnFoot F) : Act.attnRec.In F := Act.attnRec_foot.le h

theorem Act.ordFull_foot : Act.ordFull.In recFoot := by
  unfold Act.ordFull
  repeat' first
    | with_reducible first
      | exact Act.nil_in
      | apply Act.cons_in
      | apply Act.seq_in
      | (apply Act.get_in; intro _)
      | (apply Act.when_in; intro _)
      | (apply Act.each_in; intro _ _)
      | (apply Act.withFree_in; intro _)
    | (simp (maxDischargeDepth := 9); done)
    | (simp (maxDischargeDepth := 9) [recFoot]; done)
    | dsimp only
    | split

@[simp] theorem Act.ordFull_in {F : Foot} (h : Foot.le recFoot F) : Act.ordFull.In F := Act.ordFull_foot.le h

theorem Act.recPlace_in {F : Foot} {h part src code : Nat} {payload : List Word} {a b : Act} (hf : recFoot.le F) (ha : a.In F) (hb : b.In F) : (Act.recPlace h part src code payload a b).In F := by
  have h1 : F .regs R.recStat := hf _ _ (by simp [recFoot])
  have h2 : F .regs R.recCnt := hf _ _ (by simp [recFoot])
  have h3 : F .regs R.recCnt2 := hf _ _ (by simp [recFoot])
  have h4 : ∀ j, F .recd j := fun j => hf _ _ (by simp [recFoot])
  have h5 : ∀ j, F .leash j := fun j => hf _ _ (by simp [recFoot])
  have h6 : ∀ j, F .trigs j := fun j => hf _ _ (by simp [recFoot])
  have h7 : ∀ j, F .log j := fun j => hf _ _ (by simp [recFoot])
  have h8 : ∀ j, F .recUsed j := fun j => hf _ _ (by simp [recFoot])
  have h9 : ∀ j, F .recDrop j := fun j => hf _ _ (by simp [recFoot])
  unfold Act.recPlace
  repeat' first
    | with_reducible first
      | exact Act.nil_in
      | apply Act.cons_in
      | apply Act.seq_in
      | (apply Act.get_in; intro _)
      | (apply Act.when_in; intro _)
      | (apply Act.each_in; intro _ _)
      | (apply Act.withFree_in; intro _)
    | (simp (maxDischargeDepth := 9); done)
    | (simp (maxDischargeDepth := 9) [hf, h1, h2, h3, h4, h5, h6, h7, h8, h9, ha, hb]; done)
    | dsimp only
    | split

theorem Act.recStore_in {F : Foot} {part src code : Nat} {payload : List Word} {a b : Act} (hf : recFoot.le F) (ha : a.In F) (hb : b.In F) : (Act.recStore part src code payload a b).In F := by
  have h1 : F .regs R.recStat := hf _ _ (by simp [recFoot])
  have h2 : F .regs R.recCnt := hf _ _ (by simp [recFoot])
  have h3 : F .regs R.recCnt2 := hf _ _ (by simp [recFoot])
  have h4 : ∀ j, F .recd j := fun j => hf _ _ (by simp [recFoot])
  have h5 : ∀ j, F .leash j := fun j => hf _ _ (by simp [recFoot])
  have h6 : ∀ j, F .trigs j := fun j => hf _ _ (by simp [recFoot])
  have h7 : ∀ j, F .log j := fun j => hf _ _ (by simp [recFoot])
  have h8 : ∀ j, F .recUsed j := fun j => hf _ _ (by simp [recFoot])
  have h9 : ∀ j, F .recDrop j := fun j => hf _ _ (by simp [recFoot])
  unfold Act.recStore
  repeat' first
    | with_reducible first
      | exact Act.nil_in
      | apply Act.cons_in
      | apply Act.seq_in
      | (apply Act.get_in; intro _)
      | (apply Act.when_in; intro _)
      | (apply Act.each_in; intro _ _)
      | (apply Act.withFree_in; intro _)
    | (simp (maxDischargeDepth := 9); done)
    | (simp (maxDischargeDepth := 9) [hf, h1, h2, h3, h4, h5, h6, h7, h8, h9, ha, hb, Act.recPlace_in]; done)
    | dsimp only
    | split

theorem Act.trigFire_foot {code : Nat} : (Act.trigFire code).In recFoot := by
  unfold Act.trigFire
  repeat' first
    | with_reducible first
      | exact Act.nil_in
      | apply Act.cons_in
      | apply Act.seq_in
      | (apply Act.get_in; intro _)
      | (apply Act.when_in; intro _)
      | (apply Act.each_in; intro _ _)
      | (apply Act.withFree_in; intro _)
    | (simp (maxDischargeDepth := 9); done)
    | (simp (maxDischargeDepth := 9) [recFoot]; done)
    | dsimp only
    | split

@[simp] theorem Act.trigFire_in {F : Foot} {code : Nat} (h : Foot.le recFoot F) : (Act.trigFire code).In F := Act.trigFire_foot.le h

theorem Act.record_foot {src part code : Nat} {payload : List Word} : (Act.record src part code payload).In recFoot := by
  have hf : recFoot.le recFoot := Foot.le_refl
  have h1 : ∀ j, recFoot .recUsed j := fun j => by simp [recFoot]
  unfold Act.record
  repeat' first
    | with_reducible first
      | exact Act.nil_in
      | apply Act.cons_in
      | apply Act.seq_in
      | (apply Act.get_in; intro _)
      | (apply Act.when_in; intro _)
      | (apply Act.each_in; intro _ _)
      | (apply Act.withFree_in; intro _)
      | apply Act.recStore_in
    | (simp (maxDischargeDepth := 9); done)
    | (simp (maxDischargeDepth := 9) [recFoot]; done)
    | dsimp only
    | split
@[simp] theorem Act.record_in {F : Foot} {src part code : Nat} {payload : List Word} (h : recFoot.le F) :
    (Act.record src part code payload).In F := Act.record_foot.le h


@[simp] theorem violFoot_le (part : Nat) (G : Foot) : (violFoot part).le G ↔ G .regs (R.sliceViol part) ∧ recFoot.le G := by
  unfold violFoot
  simp

theorem Act.violation_foot {part kind : Nat} : (Act.violation part kind).In (violFoot part) := by
  unfold Act.violation
  repeat' first
    | with_reducible first
      | exact Act.nil_in
      | apply Act.cons_in
      | apply Act.seq_in
      | (apply Act.get_in; intro _)
      | (apply Act.when_in; intro _)
      | (apply Act.each_in; intro _ _)
      | (apply Act.withFree_in; intro _)
    | (simp (maxDischargeDepth := 9); done)
    | (simp (maxDischargeDepth := 9) [violFoot]; done)
    | dsimp only
    | split

@[simp] theorem Act.violation_in {F : Foot} {part kind : Nat} (h : Foot.le (violFoot part) F) : (Act.violation part kind).In F := Act.violation_foot.le h



theorem Act.pmcAdd_in {G : Foot} {base i n : Nat} (h1 : G .regs (base + 16 * i)) (h2 : G .regs (base + 16 * i + 8))
    (h3 : i % 2 = 0 → G .regs (base + 16 * i + 24)) : (Act.pmcAdd base i n).In G := by
  unfold Act.pmcAdd
  refine Act.get_in fun s => Act.cons_in (by simp [h2]) (Act.cons_in (Act.when_in fun _ => ?_) Act.nil_in)
  by_cases h : (s.fld (base + 16 * i) F.gpmcCtl_CHAIN == 1 && i % 2 == 0) = true
  · rw [if_pos h]
    simp only [Bool.and_eq_true, beq_iff_eq] at h
    exact Act.cons_in (Act.setF_in (h3 h.2)) (Act.cons_in (Act.when_in fun _ => Act.setF_in h1) Act.nil_in)
  · rw [if_neg h]
    exact Act.setF_in h1

theorem Act.pmcOne_in {G : Foot} {base i : Nat} {ctl : Word} {cls ev n part master : Nat} {addr : Option Nat}
    (h1 : G .regs (base + 16 * i)) (h2 : G .regs (base + 16 * i + 8)) (h3 : i % 2 = 0 → G .regs (base + 16 * i + 24)) :
    (Act.pmcOne base i ctl cls ev n part master addr).In G :=
  Act.get_in fun _ => Act.when_in fun _ => Act.pmcAdd_in h1 h2 h3

theorem State.pmcListed_mem {s : State} {lo size : Nat} {e : Nat × Word} (h : e ∈ s.pmcListed lo size) :
    lo ≤ e.1 ∧ e.1 < lo + size ∧ e.1 % 16 = 0 := by
  simp only [State.pmcListed, List.mem_filter, Bool.and_eq_true, decide_eq_true_eq, beq_iff_eq] at h
  exact ⟨h.2.1.1, h.2.1.2, h.2.2⟩

theorem Act.pmcCore_foot {c cls ev n part master : Nat} {addr : Option Nat} :
    (Act.pmcCore c cls ev n part master addr).In (pmcCoreFoot c) := by
  refine Act.get_in fun s => Act.each_in fun e he => ?_
  have h := State.pmcListed_mem he
  have hb : R.corePmcCtl c 0 % 16 = 0 := by unfold R.corePmcCtl; omega
  apply Act.pmcOne_in <;> simp [pmcCoreFoot] <;> omega

@[simp] theorem Act.pmcCore_in {F : Foot} {c cls ev n part master : Nat} {addr : Option Nat} (h : (pmcCoreFoot c).le F) :
    (Act.pmcCore c cls ev n part master addr).In F := Act.pmcCore_foot.le h

theorem Act.pmc_foot {core : Option Nat} {cls ev n part master : Nat} {addr : Option Nat} :
    (Act.pmc core cls ev n part master addr).In (pmcFoot core) := by
  have hg : pmcGlobalFoot.le (pmcFoot core) := by
    cases core
    · exact Foot.le_refl
    · exact Foot.le_any (by simp)
  refine Act.get_in fun s => Act.cons_in ?_ (Act.cons_in (Act.In.le (Act.each_in fun e he => ?_) hg) Act.nil_in)
  · cases core with
    | none => exact Act.skip_in
    | some c => exact Act.when_in fun _ => Act.pmcCore_in (Foot.le_any (by simp))
  · have h := State.pmcListed_mem he
    refine Act.when_in fun hi => ?_
    simp only [decide_eq_true_eq] at hi
    apply Act.pmcOne_in <;> simp only [pmcGlobalFoot, Foot.range_iff, true_and, R.gpmcCtl] at hi h ⊢ <;> omega

@[simp] theorem Act.pmc_in {F : Foot} {core : Option Nat} {cls ev n part master : Nat} {addr : Option Nat}
    (h : (pmcFoot core).le F) : (Act.pmc core cls ev n part master addr).In F := Act.pmc_foot.le h


@[simp] theorem pmcGlobal_le_all : pmcGlobalFoot.le pmcAllFoot := fun _ _ h => .inr h

theorem pmcCore_le_all {c : Nat} (h : c < 64) : (pmcCoreFoot c).le pmcAllFoot := fun _ _ hk => .inl ⟨c, h, hk⟩

theorem Act.pmcTime_foot {ev : Nat} : (Act.pmcTime ev).In pmcAllFoot :=
  Act.cons_in (Act.each_in fun _ hc => Act.pmcCore_in (pmcCore_le_all (List.mem_range.mp hc)))
    (Act.cons_in (Act.pmc_in (core := none) pmcGlobal_le_all) Act.nil_in)

@[simp] theorem Act.pmcTime_in {F : Foot} {ev : Nat} (h : pmcAllFoot.le F) : (Act.pmcTime ev).In F := Act.pmcTime_foot.le h

theorem Act.passCycle_foot : Act.passCycle.In (.any [pmcAllFoot, .whole [.clk]]) := by
  unfold Act.passCycle
  repeat' first
    | with_reducible first
      | exact Act.nil_in
      | apply Act.cons_in
      | apply Act.seq_in
      | (apply Act.get_in; intro _)
      | (apply Act.when_in; intro _)
      | (apply Act.each_in; intro _ _)
      | (apply Act.withFree_in; intro _)
    | (simp (maxDischargeDepth := 9); done)
    | dsimp only
    | split

@[simp] theorem pmcFoot_none_le (G : Foot) : (pmcFoot none).le G ↔ pmcGlobalFoot.le G := Iff.intro id id

@[simp] theorem pmcFoot_some_le (c : Nat) (G : Foot) : (pmcFoot (some c)).le G ↔ (pmcCoreFoot c).le G ∧ pmcGlobalFoot.le G := by
  unfold pmcFoot
  simp


@[simp] theorem healthFoot_le (G : Foot) : healthFoot.le G ↔ (∀ k, G .health k) ∧ pmcGlobalFoot.le G := by
  unfold healthFoot
  simp


@[simp] theorem healthLevelFoot_le (kind idx : Nat) (G : Foot) :
    (healthLevelFoot kind idx).le G ↔ G .regs (healthReg kind idx) ∧ G .regs (healthReg 0 0) ∧ recFoot.le G := by
  unfold healthLevelFoot
  simp

theorem attn_le_rec : attnFoot.le recFoot := attn_le Foot.le_refl

@[simp] theorem rec_attn_any {l : List Foot} (h : recFoot ∈ l) : attnFoot.le (Foot.any l) := attn_le (Foot.le_any h)

theorem Act.healthEv_foot {kind idx input n : Nat} : (Act.healthEv kind idx input n).In healthFoot := by
  unfold Act.healthEv
  repeat' first
    | with_reducible first
      | exact Act.nil_in
      | apply Act.cons_in
      | apply Act.seq_in
      | (apply Act.get_in; intro _)
      | (apply Act.when_in; intro _)
      | (apply Act.each_in; intro _ _)
      | (apply Act.withFree_in; intro _)
    | (simp (maxDischargeDepth := 9); done)
    | (simp (maxDischargeDepth := 9) [healthFoot]; done)
    | dsimp only
    | split

@[simp] theorem Act.healthEv_in {F : Foot} {kind idx input n : Nat} (h : Foot.le healthFoot F) : (Act.healthEv kind idx input n).In F := Act.healthEv_foot.le h

theorem Act.healthSuspect_foot {kind idx : Nat} : (Act.healthSuspect kind idx).In (healthLevelFoot kind idx) := by
  unfold Act.healthSuspect
  repeat' first
    | with_reducible first
      | exact Act.nil_in
      | apply Act.cons_in
      | apply Act.seq_in
      | (apply Act.get_in; intro _)
      | (apply Act.when_in; intro _)
      | (apply Act.each_in; intro _ _)
      | (apply Act.withFree_in; intro _)
    | (simp (maxDischargeDepth := 9); done)
    | (simp (maxDischargeDepth := 9) [healthLevelFoot]; done)
    | dsimp only
    | split

@[simp] theorem Act.healthSuspect_in {F : Foot} {kind idx : Nat} (h : Foot.le (healthLevelFoot kind idx) F) : (Act.healthSuspect kind idx).In F := Act.healthSuspect_foot.le h

theorem Act.healthFailed_foot {kind idx : Nat} : (Act.healthFailed kind idx).In (healthLevelFoot kind idx) := by
  unfold Act.healthFailed
  repeat' first
    | with_reducible first
      | exact Act.nil_in
      | apply Act.cons_in
      | apply Act.seq_in
      | (apply Act.get_in; intro _)
      | (apply Act.when_in; intro _)
      | (apply Act.each_in; intro _ _)
      | (apply Act.withFree_in; intro _)
      | (apply Act.healthSuspect_in; simp only [healthLevelFoot_le]; simp [healthLevelFoot]; done)
    | (simp (maxDischargeDepth := 9); done)
    | (simp (maxDischargeDepth := 9) [healthLevelFoot]; done)
    | dsimp only
    | split

@[simp] theorem Act.healthFailed_in {F : Foot} {kind idx : Nat} (h : Foot.le (healthLevelFoot kind idx) F) : (Act.healthFailed kind idx).In F := Act.healthFailed_foot.le h

theorem Act.retireBit_foot {b : Nat} : (Act.retireBit b).In (.whole [.flash]) := by
  unfold Act.retireBit
  repeat' first
    | with_reducible first
      | exact Act.nil_in
      | apply Act.cons_in
      | apply Act.seq_in
      | (apply Act.get_in; intro _)
      | (apply Act.when_in; intro _)
      | (apply Act.each_in; intro _ _)
      | (apply Act.withFree_in; intro _)
    | (simp (maxDischargeDepth := 9); done)
    | dsimp only
    | split

@[simp] theorem Act.retireBit_in {F : Foot} {b : Nat} (h : Foot.le (.whole [.flash]) F) : (Act.retireBit b).In F := Act.retireBit_foot.le h

end Sys2Proof.Machine
end

