-- ==== Sys2Proof/Laws/Fields.lean ====
section
/-! SUPPORT. Laws of register fields: what a field reads after a write of it, of another field, of another register; and how the state
after an action is read through the actions it is made of. -/

namespace Sys2Proof.Machine

/-- A field within a 64-bit register. -/
def Field.fits (f : Field) : Bool := decide (f.lo ≤ f.hi ∧ f.hi < 64)

/-- The register at the address has the field: its bits are not reserved. -/
def Field.within (f : Field) (a : Nat) : Bool :=
  f.fits && (BitVec.ofNat 64 f.mask &&& regMask a == BitVec.ofNat 64 f.mask)

/-- Two fields share no bit. -/
def Field.apart (f g : Field) : Bool := decide (f.hi < g.lo ∨ g.hi < f.lo)

theorem Field.get_bit (f : Field) (w : Word) (i : Nat) :
    (f.get w).testBit i = (decide (i < f.hi + 1 - f.lo) && w.getLsbD (f.lo + i)) := by
  unfold Field.get
  rw [Nat.testBit_mod_two_pow, ← Nat.shiftRight_eq_div_pow, Nat.testBit_shiftRight]
  rfl

theorem Field.mask_bit (f : Field) (i : Nat) : f.mask.testBit i = decide (f.lo ≤ i ∧ i < f.lo + (f.hi + 1 - f.lo)) := by
  unfold Field.mask
  rw [Nat.testBit_mul_two_pow, Nat.testBit_two_pow_sub_one, ← Bool.decide_and, decide_eq_decide]
  omega

theorem Field.put_bit (f : Field) (w : Word) (v i : Nat) :
    (f.put w v).getLsbD i = (decide (i < 64) &&
      if f.lo ≤ i ∧ i < f.lo + (f.hi + 1 - f.lo) then v.testBit (i - f.lo) else w.getLsbD i) := by
  unfold Field.put
  by_cases h : i < 64
  · simp only [BitVec.getLsbD_or, BitVec.getLsbD_and, BitVec.getLsbD_not, BitVec.getLsbD_ofNat, h, decide_true, Bool.true_and,
      Field.mask_bit, Nat.testBit_mul_two_pow, Nat.testBit_mod_two_pow]
    by_cases h2 : f.lo ≤ i ∧ i < f.lo + (f.hi + 1 - f.lo)
    · have h3 : i - f.lo < f.hi + 1 - f.lo := by omega
      simp [h2, h3]
    · have h3 : ¬ (f.lo ≤ i ∧ i - f.lo < f.hi + 1 - f.lo) := by omega
      simp only [h2, if_false, decide_false, Bool.not_false, Bool.and_true]
      by_cases h4 : f.lo ≤ i
      · have h5 : ¬ i - f.lo < f.hi + 1 - f.lo := fun h6 => h3 ⟨h4, h6⟩
        simp [h5]
      · simp [h4]
  · rw [BitVec.getLsbD_of_ge _ _ (Nat.le_of_not_lt h)]
    simp [h]

/-- A field written reads back, its low bits at least. -/
theorem Field.get_put (f : Field) (h : f.fits = true) (w : Word) (v : Nat) : f.get (f.put w v) = v % 2 ^ (f.hi + 1 - f.lo) := by
  simp only [Field.fits, decide_eq_true_eq] at h
  apply Nat.eq_of_testBit_eq
  intro i
  rw [Field.get_bit, Field.put_bit, Nat.testBit_mod_two_pow]
  by_cases hi : i < f.hi + 1 - f.lo
  · have h1 : f.lo + i < 64 := by omega
    have h2 : f.lo ≤ f.lo + i ∧ f.lo + i < f.lo + (f.hi + 1 - f.lo) := by omega
    simp [hi, h1]
  · simp [hi]

/-- A field is not changed by a write of a field apart from it. -/
theorem Field.get_put_apart (f g : Field) (hg : g.fits = true) (h : f.apart g = true) (w : Word) (v : Nat) :
    g.get (f.put w v) = g.get w := by
  simp only [Field.fits, Field.apart, decide_eq_true_eq] at h hg
  apply Nat.eq_of_testBit_eq
  intro i
  rw [Field.get_bit, Field.get_bit, Field.put_bit]
  by_cases hi : i < g.hi + 1 - g.lo
  · have h1 : g.lo + i < 64 := by omega
    have h2 : ¬ (f.lo ≤ g.lo + i ∧ g.lo + i < f.lo + (f.hi + 1 - f.lo)) := by omega
    simp [hi, h1, h2]
  · simp [hi]

/-- The reserved bits of a register do not touch a field it has. -/
theorem Field.get_mask (f : Field) (a : Nat) (h : f.within a = true) (w : Word) : f.get (w &&& regMask a) = f.get w := by
  simp only [Field.within, Bool.and_eq_true, beq_iff_eq, Field.fits, decide_eq_true_eq] at h
  apply Nat.eq_of_testBit_eq
  intro i
  rw [Field.get_bit, Field.get_bit]
  by_cases hi : i < f.hi + 1 - f.lo
  · have h1 : f.lo + i < 64 := by omega
    have h2 := congrArg (fun x => BitVec.getLsbD x (f.lo + i)) h.2
    have h3 : f.lo ≤ f.lo + i ∧ f.lo + i < f.lo + (f.hi + 1 - f.lo) := by omega
    simp only [BitVec.getLsbD_and, BitVec.getLsbD_ofNat, h1, Field.mask_bit, h3, decide_true, Bool.true_and, and_self] at h2
    simp [h2]
  · simp [hi]

theorem Field.within_fits {f : Field} {a : Nat} (h : f.within a = true) : f.fits = true := by
  simp only [Field.within, Bool.and_eq_true] at h
  exact h.1

theorem Field.get_lt (f : Field) (w : Word) : f.get w < 2 ^ (f.hi + 1 - f.lo) := Nat.mod_lt _ (Nat.two_pow_pos _)

theorem Field.get_le_max (f : Field) (w : Word) : f.get w ≤ f.max := Nat.le_sub_one_of_lt (f.get_lt w)

theorem Field.max_lt (f : Field) : f.max < 2 ^ (f.hi + 1 - f.lo) := Nat.sub_one_lt (Nat.ne_of_gt (Nat.two_pow_pos _))

/-! ### Fields after actions -/

theorem State.rd_setRegs {s : State} (w : s.Wf) (a : Nat) (v : Word) : ((Act.setRegs a v).run s).rd a = v &&& regMask a :=
  Act.setRegs_self w a v

theorem State.rd_setRegs_ne {s : State} (w : s.Wf) {a b : Nat} (h : b ≠ a) (v : Word) : ((Act.setRegs a v).run s).rd b = s.rd b :=
  Map.get_set_ne w.regs _ h

theorem State.fld_setRegs {s : State} (w : s.Wf) {a : Nat} {f : Field} (h : f.within a = true) (v : Word) :
    ((Act.setRegs a v).run s).fld a f = f.get v := by
  unfold State.fld
  rw [State.rd_setRegs w, Field.get_mask f a h]

/-- A field set. -/
theorem State.fld_setF {s : State} (w : s.Wf) {a : Nat} {f : Field} (h : f.within a = true) (v : Nat) :
    ((Act.setF a f v).run s).fld a f = v % 2 ^ (f.hi + 1 - f.lo) :=
  (State.fld_setRegs w h _).trans (Field.get_put f (Field.within_fits h) _ _)

theorem Act.modF_run (a : Nat) (f : Field) (g : Nat → Nat) (s : State) :
    (Act.modF a f g).run s = (Act.setF a f (g (s.fld a f))).run s := rfl

theorem Act.incF_run (a : Nat) (f : Field) (n : Nat) (s : State) :
    (Act.incF a f n).run s = (Act.setF a f (min (s.fld a f + n) f.max)).run s := rfl

theorem State.fld_modF {s : State} (w : s.Wf) {a : Nat} {f : Field} (h : f.within a = true) (g : Nat → Nat) :
    ((Act.modF a f g).run s).fld a f = g (s.fld a f) % 2 ^ (f.hi + 1 - f.lo) := by
  rw [Act.modF_run, State.fld_setF w h]

/-- A saturating count. -/
theorem State.fld_incF {s : State} (w : s.Wf) {a : Nat} {f : Field} (h : f.within a = true) (n : Nat) :
    ((Act.incF a f n).run s).fld a f = min (s.fld a f + n) f.max := by
  rw [Act.incF_run, State.fld_setF w h]
  exact Nat.mod_eq_of_lt (Nat.lt_of_le_of_lt (Nat.min_le_right _ _) f.max_lt)

/-- Another field of the register is not changed. -/
theorem State.fld_setF_apart {s : State} (w : s.Wf) {a : Nat} {f g : Field} (hg : g.within a = true) (h : f.apart g = true) (v : Nat) :
    ((Act.setF a f v).run s).fld a g = s.fld a g :=
  (State.fld_setRegs w hg _).trans (Field.get_put_apart f g (Field.within_fits hg) h _ _)

theorem State.fld_modF_apart {s : State} (w : s.Wf) {a : Nat} {f g : Field} (hg : g.within a = true) (h : f.apart g = true)
    (k : Nat → Nat) : ((Act.modF a f k).run s).fld a g = s.fld a g := by
  rw [Act.modF_run, State.fld_setF_apart w hg h]

theorem State.fld_incF_apart {s : State} (w : s.Wf) {a : Nat} {f g : Field} (hg : g.within a = true) (h : f.apart g = true)
    (n : Nat) : ((Act.incF a f n).run s).fld a g = s.fld a g := by
  rw [Act.incF_run, State.fld_setF_apart w hg h]

/-- An action whose footprint leaves a register alone leaves its fields alone. -/
theorem Act.In.fld {F : Foot} {a : Act} (h : a.In F) {s : State} (w : s.Wf) {k : Nat} (hk : ¬ F .regs k) (f : Field) :
    (a.run s).fld k f = s.fld k f := by
  unfold State.fld State.rd
  rw [show (a.run s).regsAt k = s.regsAt k from h s w .regs k hk]

theorem Act.In.rd {F : Foot} {a : Act} (h : a.In F) {s : State} (w : s.Wf) {k : Nat} (hk : ¬ F .regs k) : (a.run s).rd k = s.rd k :=
  h s w .regs k hk

/-! ### Running what is put together -/

@[simp] theorem Act.skip_run (s : State) : Act.skip.run s = s := id rfl
@[simp] theorem Act.nil_run (s : State) : (Act.all []).run s = s := id rfl
@[simp] theorem Act.cons_run (a : Act) (l : List Act) (s : State) : (Act.all (a :: l)).run s = (Act.all l).run (a.run s) := id rfl
@[simp] theorem Act.seq_run (a b : Act) (s : State) : (a.seq b).run s = b.run (a.run s) := id rfl
@[simp] theorem Act.get_run (f : State → Act) (s : State) : (Act.get f).run s = (f s).run s := id rfl
@[simp] theorem Act.when_true (a : Act) : Act.when true a = a := id rfl
@[simp] theorem Act.when_false (a : Act) : Act.when false a = .skip := id rfl
@[simp] theorem Act.each_nil {α : Type} (f : α → Act) : Act.each [] f = .skip := id rfl
@[simp] theorem Act.each_cons_run {α : Type} (x : α) (l : List α) (f : α → Act) (s : State) :
    (Act.each (x :: l) f).run s = (Act.each l f).run ((f x).run s) := id rfl

theorem Act.when_run (b : Bool) (a : Act) (s : State) : (Act.when b a).run s = if b = true then a.run s else s := by cases b <;> rfl

theorem fld_when (b : Bool) (a : Act) (s : State) (k : Nat) (f : Field) :
    ((Act.when b a).run s).fld k f = if b = true then (a.run s).fld k f else s.fld k f := by cases b <;> rfl

@[simp] theorem Act.out_get (s : State) (f : State → Act) : Act.out s (.get f) = Act.out s (f s) := id rfl

theorem out_congr {s : State} {a b : Act} (h : a.run s = b.run s) : Act.out s a = Act.out s b := congrArg Host.Outcome.next h

/-- What a command gives, from the action it takes. -/
theorem gives_of {c : Instr} {s : State} {a : Act} {P : State → Prop} (h : exec c s = Act.out s a) (hp : P (a.run s)) : Gives c s P :=
  ⟨_, h, hp⟩

/-- The same, through the command's meaning. -/
theorem gives_out {c : Instr} {s : State} {o : Out} {a : Act} {P : State → Prop} (h : exec c s = o) (ho : o = Act.out s a)
    (hp : P (a.run s)) : Gives c s P := ⟨_, h.trans ho, hp⟩

/-- A command's frame and effect, from the action it takes. -/
theorem gives_same {c : Instr} {s : State} (w : s.Wf) {a : Act} {F : Foot} {P : State → Prop} (h : exec c s = Act.out s a)
    (hf : a.In F) (hp : P (a.run s)) : Gives c s fun t => Same F s t ∧ P t := ⟨_, h, hf.same w, hp⟩

theorem framed_of {c : Instr} {s : State} (w : s.Wf) {a : Act} {F : Foot} (h : exec c s = Act.out s a) (hf : a.In F) : Framed F c s := by
  intro t ht
  rw [h] at ht
  cases ht
  exact hf.same w

theorem Act.wf {s : State} (w : s.Wf) (a : Act) : (a.run s).Wf := (a.ok s).wf w

/-- A field is read after the first action when the rest leave its register alone. -/
theorem fld_head {s : State} (w : s.Wf) {a : Act} {l : List Act} {G : Foot} (h : (Act.all l).In G) {k : Nat} (hk : ¬ G .regs k)
    (f : Field) : ((Act.all (a :: l)).run s).fld k f = (a.run s).fld k f := h.fld (Act.wf w a) hk f

theorem rd_head {s : State} (w : s.Wf) {a : Act} {l : List Act} {G : Foot} (h : (Act.all l).In G) {k : Nat} (hk : ¬ G .regs k) :
    ((Act.all (a :: l)).run s).rd k = (a.run s).rd k := h.rd (Act.wf w a) hk

/-! ### Fields through actions on other registers and on other pieces -/

theorem fld_setF_ne {s : State} (w : s.Wf) {a b : Nat} (h : b ≠ a) (f g : Field) (v : Nat) :
    ((Act.setF a f v).run s).fld b g = s.fld b g := Act.In.fld (F := .reg a) (by simp) w (by simpa using h) g

theorem fld_modF_ne {s : State} (w : s.Wf) {a b : Nat} (h : b ≠ a) (f g : Field) (k : Nat → Nat) :
    ((Act.modF a f k).run s).fld b g = s.fld b g := Act.In.fld (F := .reg a) (by simp) w (by simpa using h) g

theorem fld_incF_ne {s : State} (w : s.Wf) {a b : Nat} (h : b ≠ a) (f g : Field) (n : Nat) :
    ((Act.incF a f n).run s).fld b g = s.fld b g := Act.In.fld (F := .reg a) (by simp) w (by simpa using h) g

theorem fld_setRegs_ne {s : State} (w : s.Wf) {a b : Nat} (h : b ≠ a) (v : Word) (g : Field) :
    ((Act.setRegs a v).run s).fld b g = s.fld b g := Act.In.fld (F := .reg a) (by simp) w (by simpa using h) g

theorem fld_record {s : State} (w : s.Wf) {b : Nat} (h : ¬ recFoot .regs b) (src part code : Nat) (p : List Word) (g : Field) :
    ((Act.record src part code p).run s).fld b g = s.fld b g := Act.record_foot.fld w h g

theorem fld_attnChanged {s : State} (w : s.Wf) {b : Nat} (h : ¬ attnOutFoot .regs b) (g : Field) :
    (Act.attnChanged.run s).fld b g = s.fld b g := Act.attnChanged_foot.fld w h g

theorem fld_vectorWrite {s : State} (w : s.Wf) {b : Nat} (h : ¬ attnOutFoot .regs b) (g : Field) :
    (Act.vectorWrite.run s).fld b g = s.fld b g := Act.vectorWrite_foot.fld w h g

theorem fld_rbWant {s : State} (w : s.Wf) {b : Nat} (low : Bool) (g : Field) : ((Act.rbWant low).run s).fld b g = s.fld b g :=
  Act.rbWant_foot.fld w (by simp) g

theorem fld_attnSet {s : State} (w : s.Wf) {b : Nat} (h : ¬ attnFoot .regs b) (n : Nat) (g : Field) :
    ((Act.attnSet n).run s).fld b g = s.fld b g := Act.attnSet_foot.fld w h g

theorem fld_pmc {s : State} (w : s.Wf) {b : Nat} {core : Option Nat} (h : ¬ pmcFoot core .regs b) (cls ev n part master : Nat)
    (addr : Option Nat) (g : Field) : ((Act.pmc core cls ev n part master addr).run s).fld b g = s.fld b g :=
  Act.pmc_foot.fld w h g

theorem fld_healthEv {s : State} (w : s.Wf) {b : Nat} (h : ¬ healthFoot .regs b) (kind idx i n : Nat) (g : Field) :
    ((Act.healthEv kind idx i n).run s).fld b g = s.fld b g := Act.healthEv_foot.fld w h g

theorem fld_violation {s : State} (w : s.Wf) {b : Nat} {part : Nat} (h : ¬ violFoot part .regs b) (kind : Nat) (g : Field) :
    ((Act.violation part kind).run s).fld b g = s.fld b g := Act.violation_foot.fld w h g

end Sys2Proof.Machine
end

