-- ==== Sys2Proof/Laws/Read.lean ====
section
/-! SUPPORT. Reading through updates: a register field after an update of another piece, any other piece after a write of registers. -/

set_option linter.unusedSimpArgs false

namespace Sys2Proof.Machine

@[simp] theorem fld_setMem (k : Nat) (v : Byte) (s : State) (a : Nat) (f : Field) : ((Act.setMem k v).run s).fld a f = s.fld a f := id rfl
@[simp] theorem rd_setMem (k : Nat) (v : Byte) (s : State) (a : Nat) : ((Act.setMem k v).run s).rd a = s.rd a := id rfl
@[simp] theorem fld_modMem (k : Nat) (g : Byte → Byte) (s : State) (a : Nat) (f : Field) : ((Act.modMem k g).run s).fld a f = s.fld a f := id rfl
@[simp] theorem rd_modMem (k : Nat) (g : Byte → Byte) (s : State) (a : Nat) : ((Act.modMem k g).run s).rd a = s.rd a := id rfl
@[simp] theorem fld_clearMem (lo hi : Nat) (s : State) (a : Nat) (f : Field) : ((Act.clearMem lo hi).run s).fld a f = s.fld a f := id rfl
@[simp] theorem rd_clearMem (lo hi : Nat) (s : State) (a : Nat) : ((Act.clearMem lo hi).run s).rd a = s.rd a := id rfl
@[simp] theorem fld_setErrs (k : Nat) (v : WordErr) (s : State) (a : Nat) (f : Field) : ((Act.setErrs k v).run s).fld a f = s.fld a f := id rfl
@[simp] theorem rd_setErrs (k : Nat) (v : WordErr) (s : State) (a : Nat) : ((Act.setErrs k v).run s).rd a = s.rd a := id rfl
@[simp] theorem fld_modErrs (k : Nat) (g : WordErr → WordErr) (s : State) (a : Nat) (f : Field) : ((Act.modErrs k g).run s).fld a f = s.fld a f := id rfl
@[simp] theorem rd_modErrs (k : Nat) (g : WordErr → WordErr) (s : State) (a : Nat) : ((Act.modErrs k g).run s).rd a = s.rd a := id rfl
@[simp] theorem fld_clearErrs (lo hi : Nat) (s : State) (a : Nat) (f : Field) : ((Act.clearErrs lo hi).run s).fld a f = s.fld a f := id rfl
@[simp] theorem rd_clearErrs (lo hi : Nat) (s : State) (a : Nat) : ((Act.clearErrs lo hi).run s).rd a = s.rd a := id rfl
@[simp] theorem fld_setLpErr (k : Nat) (v : Nat) (s : State) (a : Nat) (f : Field) : ((Act.setLpErr k v).run s).fld a f = s.fld a f := id rfl
@[simp] theorem rd_setLpErr (k : Nat) (v : Nat) (s : State) (a : Nat) : ((Act.setLpErr k v).run s).rd a = s.rd a := id rfl
@[simp] theorem fld_modLpErr (k : Nat) (g : Nat → Nat) (s : State) (a : Nat) (f : Field) : ((Act.modLpErr k g).run s).fld a f = s.fld a f := id rfl
@[simp] theorem rd_modLpErr (k : Nat) (g : Nat → Nat) (s : State) (a : Nat) : ((Act.modLpErr k g).run s).rd a = s.rd a := id rfl
@[simp] theorem fld_clearLpErr (lo hi : Nat) (s : State) (a : Nat) (f : Field) : ((Act.clearLpErr lo hi).run s).fld a f = s.fld a f := id rfl
@[simp] theorem rd_clearLpErr (lo hi : Nat) (s : State) (a : Nat) : ((Act.clearLpErr lo hi).run s).rd a = s.rd a := id rfl
@[simp] theorem fld_setChUe (k : Nat) (v : List (Nat × Nat)) (s : State) (a : Nat) (f : Field) : ((Act.setChUe k v).run s).fld a f = s.fld a f := id rfl
@[simp] theorem rd_setChUe (k : Nat) (v : List (Nat × Nat)) (s : State) (a : Nat) : ((Act.setChUe k v).run s).rd a = s.rd a := id rfl
@[simp] theorem fld_modChUe (k : Nat) (g : List (Nat × Nat) → List (Nat × Nat)) (s : State) (a : Nat) (f : Field) : ((Act.modChUe k g).run s).fld a f = s.fld a f := id rfl
@[simp] theorem rd_modChUe (k : Nat) (g : List (Nat × Nat) → List (Nat × Nat)) (s : State) (a : Nat) : ((Act.modChUe k g).run s).rd a = s.rd a := id rfl
@[simp] theorem fld_clearChUe (lo hi : Nat) (s : State) (a : Nat) (f : Field) : ((Act.clearChUe lo hi).run s).fld a f = s.fld a f := id rfl
@[simp] theorem rd_clearChUe (lo hi : Nat) (s : State) (a : Nat) : ((Act.clearChUe lo hi).run s).rd a = s.rd a := id rfl
@[simp] theorem fld_setHost (k : Nat) (v : Byte) (s : State) (a : Nat) (f : Field) : ((Act.setHost k v).run s).fld a f = s.fld a f := id rfl
@[simp] theorem rd_setHost (k : Nat) (v : Byte) (s : State) (a : Nat) : ((Act.setHost k v).run s).rd a = s.rd a := id rfl
@[simp] theorem fld_modHost (k : Nat) (g : Byte → Byte) (s : State) (a : Nat) (f : Field) : ((Act.modHost k g).run s).fld a f = s.fld a f := id rfl
@[simp] theorem rd_modHost (k : Nat) (g : Byte → Byte) (s : State) (a : Nat) : ((Act.modHost k g).run s).rd a = s.rd a := id rfl
@[simp] theorem fld_clearHost (lo hi : Nat) (s : State) (a : Nat) (f : Field) : ((Act.clearHost lo hi).run s).fld a f = s.fld a f := id rfl
@[simp] theorem rd_clearHost (lo hi : Nat) (s : State) (a : Nat) : ((Act.clearHost lo hi).run s).rd a = s.rd a := id rfl
@[simp] theorem fld_setStore (k : Nat) (v : Byte) (s : State) (a : Nat) (f : Field) : ((Act.setStore k v).run s).fld a f = s.fld a f := id rfl
@[simp] theorem rd_setStore (k : Nat) (v : Byte) (s : State) (a : Nat) : ((Act.setStore k v).run s).rd a = s.rd a := id rfl
@[simp] theorem fld_modStore (k : Nat) (g : Byte → Byte) (s : State) (a : Nat) (f : Field) : ((Act.modStore k g).run s).fld a f = s.fld a f := id rfl
@[simp] theorem rd_modStore (k : Nat) (g : Byte → Byte) (s : State) (a : Nat) : ((Act.modStore k g).run s).rd a = s.rd a := id rfl
@[simp] theorem fld_clearStore (lo hi : Nat) (s : State) (a : Nat) (f : Field) : ((Act.clearStore lo hi).run s).fld a f = s.fld a f := id rfl
@[simp] theorem rd_clearStore (lo hi : Nat) (s : State) (a : Nat) : ((Act.clearStore lo hi).run s).rd a = s.rd a := id rfl
@[simp] theorem fld_setAcc (k : Nat) (v : L128) (s : State) (a : Nat) (f : Field) : ((Act.setAcc k v).run s).fld a f = s.fld a f := id rfl
@[simp] theorem rd_setAcc (k : Nat) (v : L128) (s : State) (a : Nat) : ((Act.setAcc k v).run s).rd a = s.rd a := id rfl
@[simp] theorem fld_modAcc (k : Nat) (g : L128 → L128) (s : State) (a : Nat) (f : Field) : ((Act.modAcc k g).run s).fld a f = s.fld a f := id rfl
@[simp] theorem rd_modAcc (k : Nat) (g : L128 → L128) (s : State) (a : Nat) : ((Act.modAcc k g).run s).rd a = s.rd a := id rfl
@[simp] theorem fld_clearAcc (lo hi : Nat) (s : State) (a : Nat) (f : Field) : ((Act.clearAcc lo hi).run s).fld a f = s.fld a f := id rfl
@[simp] theorem rd_clearAcc (lo hi : Nat) (s : State) (a : Nat) : ((Act.clearAcc lo hi).run s).rd a = s.rd a := id rfl
@[simp] theorem fld_setAnchors (k : Nat) (v : Option Int) (s : State) (a : Nat) (f : Field) : ((Act.setAnchors k v).run s).fld a f = s.fld a f := id rfl
@[simp] theorem rd_setAnchors (k : Nat) (v : Option Int) (s : State) (a : Nat) : ((Act.setAnchors k v).run s).rd a = s.rd a := id rfl
@[simp] theorem fld_modAnchors (k : Nat) (g : Option Int → Option Int) (s : State) (a : Nat) (f : Field) : ((Act.modAnchors k g).run s).fld a f = s.fld a f := id rfl
@[simp] theorem rd_modAnchors (k : Nat) (g : Option Int → Option Int) (s : State) (a : Nat) : ((Act.modAnchors k g).run s).rd a = s.rd a := id rfl
@[simp] theorem fld_clearAnchors (lo hi : Nat) (s : State) (a : Nat) (f : Field) : ((Act.clearAnchors lo hi).run s).fld a f = s.fld a f := id rfl
@[simp] theorem rd_clearAnchors (lo hi : Nat) (s : State) (a : Nat) : ((Act.clearAnchors lo hi).run s).rd a = s.rd a := id rfl
@[simp] theorem fld_setPend (k : Nat) (v : Nat) (s : State) (a : Nat) (f : Field) : ((Act.setPend k v).run s).fld a f = s.fld a f := id rfl
@[simp] theorem rd_setPend (k : Nat) (v : Nat) (s : State) (a : Nat) : ((Act.setPend k v).run s).rd a = s.rd a := id rfl
@[simp] theorem fld_modPend (k : Nat) (g : Nat → Nat) (s : State) (a : Nat) (f : Field) : ((Act.modPend k g).run s).fld a f = s.fld a f := id rfl
@[simp] theorem rd_modPend (k : Nat) (g : Nat → Nat) (s : State) (a : Nat) : ((Act.modPend k g).run s).rd a = s.rd a := id rfl
@[simp] theorem fld_clearPend (lo hi : Nat) (s : State) (a : Nat) (f : Field) : ((Act.clearPend lo hi).run s).fld a f = s.fld a f := id rfl
@[simp] theorem rd_clearPend (lo hi : Nat) (s : State) (a : Nat) : ((Act.clearPend lo hi).run s).rd a = s.rd a := id rfl
@[simp] theorem fld_setVreg (k : Nat) (v : Nat) (s : State) (a : Nat) (f : Field) : ((Act.setVreg k v).run s).fld a f = s.fld a f := id rfl
@[simp] theorem rd_setVreg (k : Nat) (v : Nat) (s : State) (a : Nat) : ((Act.setVreg k v).run s).rd a = s.rd a := id rfl
@[simp] theorem fld_modVreg (k : Nat) (g : Nat → Nat) (s : State) (a : Nat) (f : Field) : ((Act.modVreg k g).run s).fld a f = s.fld a f := id rfl
@[simp] theorem rd_modVreg (k : Nat) (g : Nat → Nat) (s : State) (a : Nat) : ((Act.modVreg k g).run s).rd a = s.rd a := id rfl
@[simp] theorem fld_clearVreg (lo hi : Nat) (s : State) (a : Nat) (f : Field) : ((Act.clearVreg lo hi).run s).fld a f = s.fld a f := id rfl
@[simp] theorem rd_clearVreg (lo hi : Nat) (s : State) (a : Nat) : ((Act.clearVreg lo hi).run s).rd a = s.rd a := id rfl
@[simp] theorem fld_setCtxs (k : Nat) (v : CtxSt) (s : State) (a : Nat) (f : Field) : ((Act.setCtxs k v).run s).fld a f = s.fld a f := id rfl
@[simp] theorem rd_setCtxs (k : Nat) (v : CtxSt) (s : State) (a : Nat) : ((Act.setCtxs k v).run s).rd a = s.rd a := id rfl
@[simp] theorem fld_modCtxs (k : Nat) (g : CtxSt → CtxSt) (s : State) (a : Nat) (f : Field) : ((Act.modCtxs k g).run s).fld a f = s.fld a f := id rfl
@[simp] theorem rd_modCtxs (k : Nat) (g : CtxSt → CtxSt) (s : State) (a : Nat) : ((Act.modCtxs k g).run s).rd a = s.rd a := id rfl
@[simp] theorem fld_clearCtxs (lo hi : Nat) (s : State) (a : Nat) (f : Field) : ((Act.clearCtxs lo hi).run s).fld a f = s.fld a f := id rfl
@[simp] theorem rd_clearCtxs (lo hi : Nat) (s : State) (a : Nat) : ((Act.clearCtxs lo hi).run s).rd a = s.rd a := id rfl
@[simp] theorem fld_setArrs (k : Nat) (v : ArrSt) (s : State) (a : Nat) (f : Field) : ((Act.setArrs k v).run s).fld a f = s.fld a f := id rfl
@[simp] theorem rd_setArrs (k : Nat) (v : ArrSt) (s : State) (a : Nat) : ((Act.setArrs k v).run s).rd a = s.rd a := id rfl
@[simp] theorem fld_modArrs (k : Nat) (g : ArrSt → ArrSt) (s : State) (a : Nat) (f : Field) : ((Act.modArrs k g).run s).fld a f = s.fld a f := id rfl
@[simp] theorem rd_modArrs (k : Nat) (g : ArrSt → ArrSt) (s : State) (a : Nat) : ((Act.modArrs k g).run s).rd a = s.rd a := id rfl
@[simp] theorem fld_clearArrs (lo hi : Nat) (s : State) (a : Nat) (f : Field) : ((Act.clearArrs lo hi).run s).fld a f = s.fld a f := id rfl
@[simp] theorem rd_clearArrs (lo hi : Nat) (s : State) (a : Nat) : ((Act.clearArrs lo hi).run s).rd a = s.rd a := id rfl
@[simp] theorem fld_setParts (k : Nat) (v : PartSt) (s : State) (a : Nat) (f : Field) : ((Act.setParts k v).run s).fld a f = s.fld a f := id rfl
@[simp] theorem rd_setParts (k : Nat) (v : PartSt) (s : State) (a : Nat) : ((Act.setParts k v).run s).rd a = s.rd a := id rfl
@[simp] theorem fld_modParts (k : Nat) (g : PartSt → PartSt) (s : State) (a : Nat) (f : Field) : ((Act.modParts k g).run s).fld a f = s.fld a f := id rfl
@[simp] theorem rd_modParts (k : Nat) (g : PartSt → PartSt) (s : State) (a : Nat) : ((Act.modParts k g).run s).rd a = s.rd a := id rfl
@[simp] theorem fld_clearParts (lo hi : Nat) (s : State) (a : Nat) (f : Field) : ((Act.clearParts lo hi).run s).fld a f = s.fld a f := id rfl
@[simp] theorem rd_clearParts (lo hi : Nat) (s : State) (a : Nat) : ((Act.clearParts lo hi).run s).rd a = s.rd a := id rfl
@[simp] theorem fld_setVecTurn (k : Nat) (v : Nat) (s : State) (a : Nat) (f : Field) : ((Act.setVecTurn k v).run s).fld a f = s.fld a f := id rfl
@[simp] theorem rd_setVecTurn (k : Nat) (v : Nat) (s : State) (a : Nat) : ((Act.setVecTurn k v).run s).rd a = s.rd a := id rfl
@[simp] theorem fld_modVecTurn (k : Nat) (g : Nat → Nat) (s : State) (a : Nat) (f : Field) : ((Act.modVecTurn k g).run s).fld a f = s.fld a f := id rfl
@[simp] theorem rd_modVecTurn (k : Nat) (g : Nat → Nat) (s : State) (a : Nat) : ((Act.modVecTurn k g).run s).rd a = s.rd a := id rfl
@[simp] theorem fld_clearVecTurn (lo hi : Nat) (s : State) (a : Nat) (f : Field) : ((Act.clearVecTurn lo hi).run s).fld a f = s.fld a f := id rfl
@[simp] theorem rd_clearVecTurn (lo hi : Nat) (s : State) (a : Nat) : ((Act.clearVecTurn lo hi).run s).rd a = s.rd a := id rfl
@[simp] theorem fld_setHealth (k : Nat) (v : HealthSt) (s : State) (a : Nat) (f : Field) : ((Act.setHealth k v).run s).fld a f = s.fld a f := id rfl
@[simp] theorem rd_setHealth (k : Nat) (v : HealthSt) (s : State) (a : Nat) : ((Act.setHealth k v).run s).rd a = s.rd a := id rfl
@[simp] theorem fld_modHealth (k : Nat) (g : HealthSt → HealthSt) (s : State) (a : Nat) (f : Field) : ((Act.modHealth k g).run s).fld a f = s.fld a f := id rfl
@[simp] theorem rd_modHealth (k : Nat) (g : HealthSt → HealthSt) (s : State) (a : Nat) : ((Act.modHealth k g).run s).rd a = s.rd a := id rfl
@[simp] theorem fld_clearHealth (lo hi : Nat) (s : State) (a : Nat) (f : Field) : ((Act.clearHealth lo hi).run s).fld a f = s.fld a f := id rfl
@[simp] theorem rd_clearHealth (lo hi : Nat) (s : State) (a : Nat) : ((Act.clearHealth lo hi).run s).rd a = s.rd a := id rfl
@[simp] theorem fld_setLeash (k : Nat) (v : LeashSt) (s : State) (a : Nat) (f : Field) : ((Act.setLeash k v).run s).fld a f = s.fld a f := id rfl
@[simp] theorem rd_setLeash (k : Nat) (v : LeashSt) (s : State) (a : Nat) : ((Act.setLeash k v).run s).rd a = s.rd a := id rfl
@[simp] theorem fld_modLeash (k : Nat) (g : LeashSt → LeashSt) (s : State) (a : Nat) (f : Field) : ((Act.modLeash k g).run s).fld a f = s.fld a f := id rfl
@[simp] theorem rd_modLeash (k : Nat) (g : LeashSt → LeashSt) (s : State) (a : Nat) : ((Act.modLeash k g).run s).rd a = s.rd a := id rfl
@[simp] theorem fld_clearLeash (lo hi : Nat) (s : State) (a : Nat) (f : Field) : ((Act.clearLeash lo hi).run s).fld a f = s.fld a f := id rfl
@[simp] theorem rd_clearLeash (lo hi : Nat) (s : State) (a : Nat) : ((Act.clearLeash lo hi).run s).rd a = s.rd a := id rfl
@[simp] theorem fld_setTrigs (k : Nat) (v : TrigSt) (s : State) (a : Nat) (f : Field) : ((Act.setTrigs k v).run s).fld a f = s.fld a f := id rfl
@[simp] theorem rd_setTrigs (k : Nat) (v : TrigSt) (s : State) (a : Nat) : ((Act.setTrigs k v).run s).rd a = s.rd a := id rfl
@[simp] theorem fld_modTrigs (k : Nat) (g : TrigSt → TrigSt) (s : State) (a : Nat) (f : Field) : ((Act.modTrigs k g).run s).fld a f = s.fld a f := id rfl
@[simp] theorem rd_modTrigs (k : Nat) (g : TrigSt → TrigSt) (s : State) (a : Nat) : ((Act.modTrigs k g).run s).rd a = s.rd a := id rfl
@[simp] theorem fld_clearTrigs (lo hi : Nat) (s : State) (a : Nat) (f : Field) : ((Act.clearTrigs lo hi).run s).fld a f = s.fld a f := id rfl
@[simp] theorem rd_clearTrigs (lo hi : Nat) (s : State) (a : Nat) : ((Act.clearTrigs lo hi).run s).rd a = s.rd a := id rfl
@[simp] theorem fld_setLog (k : Nat) (v : Word) (s : State) (a : Nat) (f : Field) : ((Act.setLog k v).run s).fld a f = s.fld a f := id rfl
@[simp] theorem rd_setLog (k : Nat) (v : Word) (s : State) (a : Nat) : ((Act.setLog k v).run s).rd a = s.rd a := id rfl
@[simp] theorem fld_modLog (k : Nat) (g : Word → Word) (s : State) (a : Nat) (f : Field) : ((Act.modLog k g).run s).fld a f = s.fld a f := id rfl
@[simp] theorem rd_modLog (k : Nat) (g : Word → Word) (s : State) (a : Nat) : ((Act.modLog k g).run s).rd a = s.rd a := id rfl
@[simp] theorem fld_clearLog (lo hi : Nat) (s : State) (a : Nat) (f : Field) : ((Act.clearLog lo hi).run s).fld a f = s.fld a f := id rfl
@[simp] theorem rd_clearLog (lo hi : Nat) (s : State) (a : Nat) : ((Act.clearLog lo hi).run s).rd a = s.rd a := id rfl
@[simp] theorem fld_setRecUsed (k : Nat) (v : Nat) (s : State) (a : Nat) (f : Field) : ((Act.setRecUsed k v).run s).fld a f = s.fld a f := id rfl
@[simp] theorem rd_setRecUsed (k : Nat) (v : Nat) (s : State) (a : Nat) : ((Act.setRecUsed k v).run s).rd a = s.rd a := id rfl
@[simp] theorem fld_modRecUsed (k : Nat) (g : Nat → Nat) (s : State) (a : Nat) (f : Field) : ((Act.modRecUsed k g).run s).fld a f = s.fld a f := id rfl
@[simp] theorem rd_modRecUsed (k : Nat) (g : Nat → Nat) (s : State) (a : Nat) : ((Act.modRecUsed k g).run s).rd a = s.rd a := id rfl
@[simp] theorem fld_clearRecUsed (lo hi : Nat) (s : State) (a : Nat) (f : Field) : ((Act.clearRecUsed lo hi).run s).fld a f = s.fld a f := id rfl
@[simp] theorem rd_clearRecUsed (lo hi : Nat) (s : State) (a : Nat) : ((Act.clearRecUsed lo hi).run s).rd a = s.rd a := id rfl
@[simp] theorem fld_setRecDrop (k : Nat) (v : Nat) (s : State) (a : Nat) (f : Field) : ((Act.setRecDrop k v).run s).fld a f = s.fld a f := id rfl
@[simp] theorem rd_setRecDrop (k : Nat) (v : Nat) (s : State) (a : Nat) : ((Act.setRecDrop k v).run s).rd a = s.rd a := id rfl
@[simp] theorem fld_modRecDrop (k : Nat) (g : Nat → Nat) (s : State) (a : Nat) (f : Field) : ((Act.modRecDrop k g).run s).fld a f = s.fld a f := id rfl
@[simp] theorem rd_modRecDrop (k : Nat) (g : Nat → Nat) (s : State) (a : Nat) : ((Act.modRecDrop k g).run s).rd a = s.rd a := id rfl
@[simp] theorem fld_clearRecDrop (lo hi : Nat) (s : State) (a : Nat) (f : Field) : ((Act.clearRecDrop lo hi).run s).fld a f = s.fld a f := id rfl
@[simp] theorem rd_clearRecDrop (lo hi : Nat) (s : State) (a : Nat) : ((Act.clearRecDrop lo hi).run s).rd a = s.rd a := id rfl
@[simp] theorem fld_setEngs (k : Nat) (v : EngSt) (s : State) (a : Nat) (f : Field) : ((Act.setEngs k v).run s).fld a f = s.fld a f := id rfl
@[simp] theorem rd_setEngs (k : Nat) (v : EngSt) (s : State) (a : Nat) : ((Act.setEngs k v).run s).rd a = s.rd a := id rfl
@[simp] theorem fld_modEngs (k : Nat) (g : EngSt → EngSt) (s : State) (a : Nat) (f : Field) : ((Act.modEngs k g).run s).fld a f = s.fld a f := id rfl
@[simp] theorem rd_modEngs (k : Nat) (g : EngSt → EngSt) (s : State) (a : Nat) : ((Act.modEngs k g).run s).rd a = s.rd a := id rfl
@[simp] theorem fld_clearEngs (lo hi : Nat) (s : State) (a : Nat) (f : Field) : ((Act.clearEngs lo hi).run s).fld a f = s.fld a f := id rfl
@[simp] theorem rd_clearEngs (lo hi : Nat) (s : State) (a : Nat) : ((Act.clearEngs lo hi).run s).rd a = s.rd a := id rfl
@[simp] theorem fld_setConns (k : Nat) (v : ConnSt) (s : State) (a : Nat) (f : Field) : ((Act.setConns k v).run s).fld a f = s.fld a f := id rfl
@[simp] theorem rd_setConns (k : Nat) (v : ConnSt) (s : State) (a : Nat) : ((Act.setConns k v).run s).rd a = s.rd a := id rfl
@[simp] theorem fld_modConns (k : Nat) (g : ConnSt → ConnSt) (s : State) (a : Nat) (f : Field) : ((Act.modConns k g).run s).fld a f = s.fld a f := id rfl
@[simp] theorem rd_modConns (k : Nat) (g : ConnSt → ConnSt) (s : State) (a : Nat) : ((Act.modConns k g).run s).rd a = s.rd a := id rfl
@[simp] theorem fld_clearConns (lo hi : Nat) (s : State) (a : Nat) (f : Field) : ((Act.clearConns lo hi).run s).fld a f = s.fld a f := id rfl
@[simp] theorem rd_clearConns (lo hi : Nat) (s : State) (a : Nat) : ((Act.clearConns lo hi).run s).rd a = s.rd a := id rfl
@[simp] theorem fld_setBars (k : Nat) (v : BarSt) (s : State) (a : Nat) (f : Field) : ((Act.setBars k v).run s).fld a f = s.fld a f := id rfl
@[simp] theorem rd_setBars (k : Nat) (v : BarSt) (s : State) (a : Nat) : ((Act.setBars k v).run s).rd a = s.rd a := id rfl
@[simp] theorem fld_modBars (k : Nat) (g : BarSt → BarSt) (s : State) (a : Nat) (f : Field) : ((Act.modBars k g).run s).fld a f = s.fld a f := id rfl
@[simp] theorem rd_modBars (k : Nat) (g : BarSt → BarSt) (s : State) (a : Nat) : ((Act.modBars k g).run s).rd a = s.rd a := id rfl
@[simp] theorem fld_clearBars (lo hi : Nat) (s : State) (a : Nat) (f : Field) : ((Act.clearBars lo hi).run s).fld a f = s.fld a f := id rfl
@[simp] theorem rd_clearBars (lo hi : Nat) (s : State) (a : Nat) : ((Act.clearBars lo hi).run s).rd a = s.rd a := id rfl
@[simp] theorem fld_setHounds (k : Nat) (v : HoundSt) (s : State) (a : Nat) (f : Field) : ((Act.setHounds k v).run s).fld a f = s.fld a f := id rfl
@[simp] theorem rd_setHounds (k : Nat) (v : HoundSt) (s : State) (a : Nat) : ((Act.setHounds k v).run s).rd a = s.rd a := id rfl
@[simp] theorem fld_modHounds (k : Nat) (g : HoundSt → HoundSt) (s : State) (a : Nat) (f : Field) : ((Act.modHounds k g).run s).fld a f = s.fld a f := id rfl
@[simp] theorem rd_modHounds (k : Nat) (g : HoundSt → HoundSt) (s : State) (a : Nat) : ((Act.modHounds k g).run s).rd a = s.rd a := id rfl
@[simp] theorem fld_clearHounds (lo hi : Nat) (s : State) (a : Nat) (f : Field) : ((Act.clearHounds lo hi).run s).fld a f = s.fld a f := id rfl
@[simp] theorem rd_clearHounds (lo hi : Nat) (s : State) (a : Nat) : ((Act.clearHounds lo hi).run s).rd a = s.rd a := id rfl
@[simp] theorem fld_setSamp (k : Nat) (v : Nat) (s : State) (a : Nat) (f : Field) : ((Act.setSamp k v).run s).fld a f = s.fld a f := id rfl
@[simp] theorem rd_setSamp (k : Nat) (v : Nat) (s : State) (a : Nat) : ((Act.setSamp k v).run s).rd a = s.rd a := id rfl
@[simp] theorem fld_modSamp (k : Nat) (g : Nat → Nat) (s : State) (a : Nat) (f : Field) : ((Act.modSamp k g).run s).fld a f = s.fld a f := id rfl
@[simp] theorem rd_modSamp (k : Nat) (g : Nat → Nat) (s : State) (a : Nat) : ((Act.modSamp k g).run s).rd a = s.rd a := id rfl
@[simp] theorem fld_clearSamp (lo hi : Nat) (s : State) (a : Nat) (f : Field) : ((Act.clearSamp lo hi).run s).fld a f = s.fld a f := id rfl
@[simp] theorem rd_clearSamp (lo hi : Nat) (s : State) (a : Nat) : ((Act.clearSamp lo hi).run s).rd a = s.rd a := id rfl
@[simp] theorem fld_setCells (k : Nat) (v : CellSt) (s : State) (a : Nat) (f : Field) : ((Act.setCells k v).run s).fld a f = s.fld a f := id rfl
@[simp] theorem rd_setCells (k : Nat) (v : CellSt) (s : State) (a : Nat) : ((Act.setCells k v).run s).rd a = s.rd a := id rfl
@[simp] theorem fld_modCells (k : Nat) (g : CellSt → CellSt) (s : State) (a : Nat) (f : Field) : ((Act.modCells k g).run s).fld a f = s.fld a f := id rfl
@[simp] theorem rd_modCells (k : Nat) (g : CellSt → CellSt) (s : State) (a : Nat) : ((Act.modCells k g).run s).rd a = s.rd a := id rfl
@[simp] theorem fld_clearCells (lo hi : Nat) (s : State) (a : Nat) (f : Field) : ((Act.clearCells lo hi).run s).fld a f = s.fld a f := id rfl
@[simp] theorem rd_clearCells (lo hi : Nat) (s : State) (a : Nat) : ((Act.clearCells lo hi).run s).rd a = s.rd a := id rfl
@[simp] theorem fld_setCjobs (k : Nat) (v : Option CodeJob) (s : State) (a : Nat) (f : Field) : ((Act.setCjobs k v).run s).fld a f = s.fld a f := id rfl
@[simp] theorem rd_setCjobs (k : Nat) (v : Option CodeJob) (s : State) (a : Nat) : ((Act.setCjobs k v).run s).rd a = s.rd a := id rfl
@[simp] theorem fld_modCjobs (k : Nat) (g : Option CodeJob → Option CodeJob) (s : State) (a : Nat) (f : Field) : ((Act.modCjobs k g).run s).fld a f = s.fld a f := id rfl
@[simp] theorem rd_modCjobs (k : Nat) (g : Option CodeJob → Option CodeJob) (s : State) (a : Nat) : ((Act.modCjobs k g).run s).rd a = s.rd a := id rfl
@[simp] theorem fld_clearCjobs (lo hi : Nat) (s : State) (a : Nat) (f : Field) : ((Act.clearCjobs lo hi).run s).fld a f = s.fld a f := id rfl
@[simp] theorem rd_clearCjobs (lo hi : Nat) (s : State) (a : Nat) : ((Act.clearCjobs lo hi).run s).rd a = s.rd a := id rfl
@[simp] theorem fld_setDsps (k : Nat) (v : DspSt) (s : State) (a : Nat) (f : Field) : ((Act.setDsps k v).run s).fld a f = s.fld a f := id rfl
@[simp] theorem rd_setDsps (k : Nat) (v : DspSt) (s : State) (a : Nat) : ((Act.setDsps k v).run s).rd a = s.rd a := id rfl
@[simp] theorem fld_modDsps (k : Nat) (g : DspSt → DspSt) (s : State) (a : Nat) (f : Field) : ((Act.modDsps k g).run s).fld a f = s.fld a f := id rfl
@[simp] theorem rd_modDsps (k : Nat) (g : DspSt → DspSt) (s : State) (a : Nat) : ((Act.modDsps k g).run s).rd a = s.rd a := id rfl
@[simp] theorem fld_clearDsps (lo hi : Nat) (s : State) (a : Nat) (f : Field) : ((Act.clearDsps lo hi).run s).fld a f = s.fld a f := id rfl
@[simp] theorem rd_clearDsps (lo hi : Nat) (s : State) (a : Nat) : ((Act.clearDsps lo hi).run s).rd a = s.rd a := id rfl
@[simp] theorem fld_setDspMem (k : Nat) (v : Nat) (s : State) (a : Nat) (f : Field) : ((Act.setDspMem k v).run s).fld a f = s.fld a f := id rfl
@[simp] theorem rd_setDspMem (k : Nat) (v : Nat) (s : State) (a : Nat) : ((Act.setDspMem k v).run s).rd a = s.rd a := id rfl
@[simp] theorem fld_modDspMem (k : Nat) (g : Nat → Nat) (s : State) (a : Nat) (f : Field) : ((Act.modDspMem k g).run s).fld a f = s.fld a f := id rfl
@[simp] theorem rd_modDspMem (k : Nat) (g : Nat → Nat) (s : State) (a : Nat) : ((Act.modDspMem k g).run s).rd a = s.rd a := id rfl
@[simp] theorem fld_clearDspMem (lo hi : Nat) (s : State) (a : Nat) (f : Field) : ((Act.clearDspMem lo hi).run s).fld a f = s.fld a f := id rfl
@[simp] theorem rd_clearDspMem (lo hi : Nat) (s : State) (a : Nat) : ((Act.clearDspMem lo hi).run s).rd a = s.rd a := id rfl
@[simp] theorem fld_setDspP (k : Nat) (v : Nat) (s : State) (a : Nat) (f : Field) : ((Act.setDspP k v).run s).fld a f = s.fld a f := id rfl
@[simp] theorem rd_setDspP (k : Nat) (v : Nat) (s : State) (a : Nat) : ((Act.setDspP k v).run s).rd a = s.rd a := id rfl
@[simp] theorem fld_modDspP (k : Nat) (g : Nat → Nat) (s : State) (a : Nat) (f : Field) : ((Act.modDspP k g).run s).fld a f = s.fld a f := id rfl
@[simp] theorem rd_modDspP (k : Nat) (g : Nat → Nat) (s : State) (a : Nat) : ((Act.modDspP k g).run s).rd a = s.rd a := id rfl
@[simp] theorem fld_clearDspP (lo hi : Nat) (s : State) (a : Nat) (f : Field) : ((Act.clearDspP lo hi).run s).fld a f = s.fld a f := id rfl
@[simp] theorem rd_clearDspP (lo hi : Nat) (s : State) (a : Nat) : ((Act.clearDspP lo hi).run s).rd a = s.rd a := id rfl
@[simp] theorem fld_setDets (k : Nat) (v : Bool) (s : State) (a : Nat) (f : Field) : ((Act.setDets k v).run s).fld a f = s.fld a f := id rfl
@[simp] theorem rd_setDets (k : Nat) (v : Bool) (s : State) (a : Nat) : ((Act.setDets k v).run s).rd a = s.rd a := id rfl
@[simp] theorem fld_modDets (k : Nat) (g : Bool → Bool) (s : State) (a : Nat) (f : Field) : ((Act.modDets k g).run s).fld a f = s.fld a f := id rfl
@[simp] theorem rd_modDets (k : Nat) (g : Bool → Bool) (s : State) (a : Nat) : ((Act.modDets k g).run s).rd a = s.rd a := id rfl
@[simp] theorem fld_clearDets (lo hi : Nat) (s : State) (a : Nat) (f : Field) : ((Act.clearDets lo hi).run s).fld a f = s.fld a f := id rfl
@[simp] theorem rd_clearDets (lo hi : Nat) (s : State) (a : Nat) : ((Act.clearDets lo hi).run s).rd a = s.rd a := id rfl
@[simp] theorem fld_setDumps (k : Nat) (v : DumpSt) (s : State) (a : Nat) (f : Field) : ((Act.setDumps k v).run s).fld a f = s.fld a f := id rfl
@[simp] theorem rd_setDumps (k : Nat) (v : DumpSt) (s : State) (a : Nat) : ((Act.setDumps k v).run s).rd a = s.rd a := id rfl
@[simp] theorem fld_modDumps (k : Nat) (g : DumpSt → DumpSt) (s : State) (a : Nat) (f : Field) : ((Act.modDumps k g).run s).fld a f = s.fld a f := id rfl
@[simp] theorem rd_modDumps (k : Nat) (g : DumpSt → DumpSt) (s : State) (a : Nat) : ((Act.modDumps k g).run s).rd a = s.rd a := id rfl
@[simp] theorem fld_clearDumps (lo hi : Nat) (s : State) (a : Nat) (f : Field) : ((Act.clearDumps lo hi).run s).fld a f = s.fld a f := id rfl
@[simp] theorem rd_clearDumps (lo hi : Nat) (s : State) (a : Nat) : ((Act.clearDumps lo hi).run s).rd a = s.rd a := id rfl
@[simp] theorem fld_modClk (g : Clk → Clk) (s : State) (a : Nat) (f : Field) : ((Act.modClk g).run s).fld a f = s.fld a f := id rfl
@[simp] theorem rd_modClk (g : Clk → Clk) (s : State) (a : Nat) : ((Act.modClk g).run s).rd a = s.rd a := id rfl
@[simp] theorem fld_modRecd (g : RecSt → RecSt) (s : State) (a : Nat) (f : Field) : ((Act.modRecd g).run s).fld a f = s.fld a f := id rfl
@[simp] theorem rd_modRecd (g : RecSt → RecSt) (s : State) (a : Nat) : ((Act.modRecd g).run s).rd a = s.rd a := id rfl
@[simp] theorem fld_modAttn (g : AttnSt → AttnSt) (s : State) (a : Nat) (f : Field) : ((Act.modAttn g).run s).fld a f = s.fld a f := id rfl
@[simp] theorem rd_modAttn (g : AttnSt → AttnSt) (s : State) (a : Nat) : ((Act.modAttn g).run s).rd a = s.rd a := id rfl
@[simp] theorem fld_modLinkOn (g : Bool → Bool) (s : State) (a : Nat) (f : Field) : ((Act.modLinkOn g).run s).fld a f = s.fld a f := id rfl
@[simp] theorem rd_modLinkOn (g : Bool → Bool) (s : State) (a : Nat) : ((Act.modLinkOn g).run s).rd a = s.rd a := id rfl
@[simp] theorem fld_modFailed (g : Bool → Bool) (s : State) (a : Nat) (f : Field) : ((Act.modFailed g).run s).fld a f = s.fld a f := id rfl
@[simp] theorem rd_modFailed (g : Bool → Bool) (s : State) (a : Nat) : ((Act.modFailed g).run s).rd a = s.rd a := id rfl
@[simp] theorem fld_modLpAct0 (g : List Nat → List Nat) (s : State) (a : Nat) (f : Field) : ((Act.modLpAct0 g).run s).fld a f = s.fld a f := id rfl
@[simp] theorem rd_modLpAct0 (g : List Nat → List Nat) (s : State) (a : Nat) : ((Act.modLpAct0 g).run s).rd a = s.rd a := id rfl
@[simp] theorem fld_modLpAct1 (g : List Nat → List Nat) (s : State) (a : Nat) (f : Field) : ((Act.modLpAct1 g).run s).fld a f = s.fld a f := id rfl
@[simp] theorem rd_modLpAct1 (g : List Nat → List Nat) (s : State) (a : Nat) : ((Act.modLpAct1 g).run s).rd a = s.rd a := id rfl
@[simp] theorem fld_modSigq (g : List SigJob → List SigJob) (s : State) (a : Nat) (f : Field) : ((Act.modSigq g).run s).fld a f = s.fld a f := id rfl
@[simp] theorem rd_modSigq (g : List SigJob → List SigJob) (s : State) (a : Nat) : ((Act.modSigq g).run s).rd a = s.rd a := id rfl
@[simp] theorem fld_modConvq (g : List (Nat × ConvJob) → List (Nat × ConvJob)) (s : State) (a : Nat) (f : Field) : ((Act.modConvq g).run s).fld a f = s.fld a f := id rfl
@[simp] theorem rd_modConvq (g : List (Nat × ConvJob) → List (Nat × ConvJob)) (s : State) (a : Nat) : ((Act.modConvq g).run s).rd a = s.rd a := id rfl
@[simp] theorem fld_modFlash (g : Flash → Flash) (s : State) (a : Nat) (f : Field) : ((Act.modFlash g).run s).fld a f = s.fld a f := id rfl
@[simp] theorem rd_modFlash (g : Flash → Flash) (s : State) (a : Nat) : ((Act.modFlash g).run s).rd a = s.rd a := id rfl
@[simp] theorem fld_modArrives (g : List ArriveSt → List ArriveSt) (s : State) (a : Nat) (f : Field) : ((Act.modArrives g).run s).fld a f = s.fld a f := id rfl
@[simp] theorem rd_modArrives (g : List ArriveSt → List ArriveSt) (s : State) (a : Nat) : ((Act.modArrives g).run s).rd a = s.rd a := id rfl
@[simp] theorem fld_modHeld (g : List HeldJob → List HeldJob) (s : State) (a : Nat) (f : Field) : ((Act.modHeld g).run s).fld a f = s.fld a f := id rfl
@[simp] theorem rd_modHeld (g : List HeldJob → List HeldJob) (s : State) (a : Nat) : ((Act.modHeld g).run s).rd a = s.rd a := id rfl
@[simp] theorem fld_modHeldCode (g : List HeldJob → List HeldJob) (s : State) (a : Nat) (f : Field) : ((Act.modHeldCode g).run s).fld a f = s.fld a f := id rfl
@[simp] theorem rd_modHeldCode (g : List HeldJob → List HeldJob) (s : State) (a : Nat) : ((Act.modHeldCode g).run s).rd a = s.rd a := id rfl
@[simp] theorem fld_modPairs (g : List PairRec → List PairRec) (s : State) (a : Nat) (f : Field) : ((Act.modPairs g).run s).fld a f = s.fld a f := id rfl
@[simp] theorem rd_modPairs (g : List PairRec → List PairRec) (s : State) (a : Nat) : ((Act.modPairs g).run s).rd a = s.rd a := id rfl
@[simp] theorem fld_modRadio (g : RadioSt → RadioSt) (s : State) (a : Nat) (f : Field) : ((Act.modRadio g).run s).fld a f = s.fld a f := id rfl
@[simp] theorem rd_modRadio (g : RadioSt → RadioSt) (s : State) (a : Nat) : ((Act.modRadio g).run s).rd a = s.rd a := id rfl
@[simp] theorem fld_modTime (g : TimeSt → TimeSt) (s : State) (a : Nat) (f : Field) : ((Act.modTime g).run s).fld a f = s.fld a f := id rfl
@[simp] theorem rd_modTime (g : TimeSt → TimeSt) (s : State) (a : Nat) : ((Act.modTime g).run s).rd a = s.rd a := id rfl
@[simp] theorem fld_modLast (g : LastSt → LastSt) (s : State) (a : Nat) (f : Field) : ((Act.modLast g).run s).fld a f = s.fld a f := id rfl
@[simp] theorem rd_modLast (g : LastSt → LastSt) (s : State) (a : Nat) : ((Act.modLast g).run s).rd a = s.rd a := id rfl
@[simp] theorem fld_modSys (g : SysSt → SysSt) (s : State) (a : Nat) (f : Field) : ((Act.modSys g).run s).fld a f = s.fld a f := id rfl
@[simp] theorem rd_modSys (g : SysSt → SysSt) (s : State) (a : Nat) : ((Act.modSys g).run s).rd a = s.rd a := id rfl
@[simp] theorem fld_modFree (g : Nat → Nat) (s : State) (a : Nat) (f : Field) : ((Act.modFree g).run s).fld a f = s.fld a f := id rfl
@[simp] theorem rd_modFree (g : Nat → Nat) (s : State) (a : Nat) : ((Act.modFree g).run s).rd a = s.rd a := id rfl
@[simp] theorem fld_emit (e : Emit) (s : State) (a : Nat) (f : Field) : ((Act.emit e).run s).fld a f = s.fld a f := id rfl
@[simp] theorem rd_emit (e : Emit) (s : State) (a : Nat) : ((Act.emit e).run s).rd a = s.rd a := id rfl
@[simp] theorem mem_setRegs (a : Nat) (v : Word) (s : State) (k : Nat) : ((Act.setRegs a v).run s).memAt k = s.memAt k := id rfl
@[simp] theorem mem_setF (a : Nat) (g : Field) (v : Nat) (s : State) (k : Nat) : ((Act.setF a g v).run s).memAt k = s.memAt k := id rfl
@[simp] theorem mem_modF (a : Nat) (g : Field) (h : Nat → Nat) (s : State) (k : Nat) : ((Act.modF a g h).run s).memAt k = s.memAt k := id rfl
@[simp] theorem mem_incF (a : Nat) (g : Field) (n : Nat) (s : State) (k : Nat) : ((Act.incF a g n).run s).memAt k = s.memAt k := id rfl
@[simp] theorem errs_setRegs (a : Nat) (v : Word) (s : State) (k : Nat) : ((Act.setRegs a v).run s).errsAt k = s.errsAt k := id rfl
@[simp] theorem errs_setF (a : Nat) (g : Field) (v : Nat) (s : State) (k : Nat) : ((Act.setF a g v).run s).errsAt k = s.errsAt k := id rfl
@[simp] theorem errs_modF (a : Nat) (g : Field) (h : Nat → Nat) (s : State) (k : Nat) : ((Act.modF a g h).run s).errsAt k = s.errsAt k := id rfl
@[simp] theorem errs_incF (a : Nat) (g : Field) (n : Nat) (s : State) (k : Nat) : ((Act.incF a g n).run s).errsAt k = s.errsAt k := id rfl
@[simp] theorem lpErr_setRegs (a : Nat) (v : Word) (s : State) (k : Nat) : ((Act.setRegs a v).run s).lpErrAt k = s.lpErrAt k := id rfl
@[simp] theorem lpErr_setF (a : Nat) (g : Field) (v : Nat) (s : State) (k : Nat) : ((Act.setF a g v).run s).lpErrAt k = s.lpErrAt k := id rfl
@[simp] theorem lpErr_modF (a : Nat) (g : Field) (h : Nat → Nat) (s : State) (k : Nat) : ((Act.modF a g h).run s).lpErrAt k = s.lpErrAt k := id rfl
@[simp] theorem lpErr_incF (a : Nat) (g : Field) (n : Nat) (s : State) (k : Nat) : ((Act.incF a g n).run s).lpErrAt k = s.lpErrAt k := id rfl
@[simp] theorem chUe_setRegs (a : Nat) (v : Word) (s : State) (k : Nat) : ((Act.setRegs a v).run s).chUeAt k = s.chUeAt k := id rfl
@[simp] theorem chUe_setF (a : Nat) (g : Field) (v : Nat) (s : State) (k : Nat) : ((Act.setF a g v).run s).chUeAt k = s.chUeAt k := id rfl
@[simp] theorem chUe_modF (a : Nat) (g : Field) (h : Nat → Nat) (s : State) (k : Nat) : ((Act.modF a g h).run s).chUeAt k = s.chUeAt k := id rfl
@[simp] theorem chUe_incF (a : Nat) (g : Field) (n : Nat) (s : State) (k : Nat) : ((Act.incF a g n).run s).chUeAt k = s.chUeAt k := id rfl
@[simp] theorem host_setRegs (a : Nat) (v : Word) (s : State) (k : Nat) : ((Act.setRegs a v).run s).hostAt k = s.hostAt k := id rfl
@[simp] theorem host_setF (a : Nat) (g : Field) (v : Nat) (s : State) (k : Nat) : ((Act.setF a g v).run s).hostAt k = s.hostAt k := id rfl
@[simp] theorem host_modF (a : Nat) (g : Field) (h : Nat → Nat) (s : State) (k : Nat) : ((Act.modF a g h).run s).hostAt k = s.hostAt k := id rfl
@[simp] theorem host_incF (a : Nat) (g : Field) (n : Nat) (s : State) (k : Nat) : ((Act.incF a g n).run s).hostAt k = s.hostAt k := id rfl
@[simp] theorem store_setRegs (a : Nat) (v : Word) (s : State) (k : Nat) : ((Act.setRegs a v).run s).storeAt k = s.storeAt k := id rfl
@[simp] theorem store_setF (a : Nat) (g : Field) (v : Nat) (s : State) (k : Nat) : ((Act.setF a g v).run s).storeAt k = s.storeAt k := id rfl
@[simp] theorem store_modF (a : Nat) (g : Field) (h : Nat → Nat) (s : State) (k : Nat) : ((Act.modF a g h).run s).storeAt k = s.storeAt k := id rfl
@[simp] theorem store_incF (a : Nat) (g : Field) (n : Nat) (s : State) (k : Nat) : ((Act.incF a g n).run s).storeAt k = s.storeAt k := id rfl
@[simp] theorem acc_setRegs (a : Nat) (v : Word) (s : State) (k : Nat) : ((Act.setRegs a v).run s).accAt k = s.accAt k := id rfl
@[simp] theorem acc_setF (a : Nat) (g : Field) (v : Nat) (s : State) (k : Nat) : ((Act.setF a g v).run s).accAt k = s.accAt k := id rfl
@[simp] theorem acc_modF (a : Nat) (g : Field) (h : Nat → Nat) (s : State) (k : Nat) : ((Act.modF a g h).run s).accAt k = s.accAt k := id rfl
@[simp] theorem acc_incF (a : Nat) (g : Field) (n : Nat) (s : State) (k : Nat) : ((Act.incF a g n).run s).accAt k = s.accAt k := id rfl
@[simp] theorem anchors_setRegs (a : Nat) (v : Word) (s : State) (k : Nat) : ((Act.setRegs a v).run s).anchorsAt k = s.anchorsAt k := id rfl
@[simp] theorem anchors_setF (a : Nat) (g : Field) (v : Nat) (s : State) (k : Nat) : ((Act.setF a g v).run s).anchorsAt k = s.anchorsAt k := id rfl
@[simp] theorem anchors_modF (a : Nat) (g : Field) (h : Nat → Nat) (s : State) (k : Nat) : ((Act.modF a g h).run s).anchorsAt k = s.anchorsAt k := id rfl
@[simp] theorem anchors_incF (a : Nat) (g : Field) (n : Nat) (s : State) (k : Nat) : ((Act.incF a g n).run s).anchorsAt k = s.anchorsAt k := id rfl
@[simp] theorem pend_setRegs (a : Nat) (v : Word) (s : State) (k : Nat) : ((Act.setRegs a v).run s).pendAt k = s.pendAt k := id rfl
@[simp] theorem pend_setF (a : Nat) (g : Field) (v : Nat) (s : State) (k : Nat) : ((Act.setF a g v).run s).pendAt k = s.pendAt k := id rfl
@[simp] theorem pend_modF (a : Nat) (g : Field) (h : Nat → Nat) (s : State) (k : Nat) : ((Act.modF a g h).run s).pendAt k = s.pendAt k := id rfl
@[simp] theorem pend_incF (a : Nat) (g : Field) (n : Nat) (s : State) (k : Nat) : ((Act.incF a g n).run s).pendAt k = s.pendAt k := id rfl
@[simp] theorem vreg_setRegs (a : Nat) (v : Word) (s : State) (k : Nat) : ((Act.setRegs a v).run s).vregAt k = s.vregAt k := id rfl
@[simp] theorem vreg_setF (a : Nat) (g : Field) (v : Nat) (s : State) (k : Nat) : ((Act.setF a g v).run s).vregAt k = s.vregAt k := id rfl
@[simp] theorem vreg_modF (a : Nat) (g : Field) (h : Nat → Nat) (s : State) (k : Nat) : ((Act.modF a g h).run s).vregAt k = s.vregAt k := id rfl
@[simp] theorem vreg_incF (a : Nat) (g : Field) (n : Nat) (s : State) (k : Nat) : ((Act.incF a g n).run s).vregAt k = s.vregAt k := id rfl
@[simp] theorem ctxs_setRegs (a : Nat) (v : Word) (s : State) (k : Nat) : ((Act.setRegs a v).run s).ctxsAt k = s.ctxsAt k := id rfl
@[simp] theorem ctxs_setF (a : Nat) (g : Field) (v : Nat) (s : State) (k : Nat) : ((Act.setF a g v).run s).ctxsAt k = s.ctxsAt k := id rfl
@[simp] theorem ctxs_modF (a : Nat) (g : Field) (h : Nat → Nat) (s : State) (k : Nat) : ((Act.modF a g h).run s).ctxsAt k = s.ctxsAt k := id rfl
@[simp] theorem ctxs_incF (a : Nat) (g : Field) (n : Nat) (s : State) (k : Nat) : ((Act.incF a g n).run s).ctxsAt k = s.ctxsAt k := id rfl
@[simp] theorem arrs_setRegs (a : Nat) (v : Word) (s : State) (k : Nat) : ((Act.setRegs a v).run s).arrsAt k = s.arrsAt k := id rfl
@[simp] theorem arrs_setF (a : Nat) (g : Field) (v : Nat) (s : State) (k : Nat) : ((Act.setF a g v).run s).arrsAt k = s.arrsAt k := id rfl
@[simp] theorem arrs_modF (a : Nat) (g : Field) (h : Nat → Nat) (s : State) (k : Nat) : ((Act.modF a g h).run s).arrsAt k = s.arrsAt k := id rfl
@[simp] theorem arrs_incF (a : Nat) (g : Field) (n : Nat) (s : State) (k : Nat) : ((Act.incF a g n).run s).arrsAt k = s.arrsAt k := id rfl
@[simp] theorem parts_setRegs (a : Nat) (v : Word) (s : State) (k : Nat) : ((Act.setRegs a v).run s).partsAt k = s.partsAt k := id rfl
@[simp] theorem parts_setF (a : Nat) (g : Field) (v : Nat) (s : State) (k : Nat) : ((Act.setF a g v).run s).partsAt k = s.partsAt k := id rfl
@[simp] theorem parts_modF (a : Nat) (g : Field) (h : Nat → Nat) (s : State) (k : Nat) : ((Act.modF a g h).run s).partsAt k = s.partsAt k := id rfl
@[simp] theorem parts_incF (a : Nat) (g : Field) (n : Nat) (s : State) (k : Nat) : ((Act.incF a g n).run s).partsAt k = s.partsAt k := id rfl
@[simp] theorem vecTurn_setRegs (a : Nat) (v : Word) (s : State) (k : Nat) : ((Act.setRegs a v).run s).vecTurnAt k = s.vecTurnAt k := id rfl
@[simp] theorem vecTurn_setF (a : Nat) (g : Field) (v : Nat) (s : State) (k : Nat) : ((Act.setF a g v).run s).vecTurnAt k = s.vecTurnAt k := id rfl
@[simp] theorem vecTurn_modF (a : Nat) (g : Field) (h : Nat → Nat) (s : State) (k : Nat) : ((Act.modF a g h).run s).vecTurnAt k = s.vecTurnAt k := id rfl
@[simp] theorem vecTurn_incF (a : Nat) (g : Field) (n : Nat) (s : State) (k : Nat) : ((Act.incF a g n).run s).vecTurnAt k = s.vecTurnAt k := id rfl
@[simp] theorem health_setRegs (a : Nat) (v : Word) (s : State) (k : Nat) : ((Act.setRegs a v).run s).healthAt k = s.healthAt k := id rfl
@[simp] theorem health_setF (a : Nat) (g : Field) (v : Nat) (s : State) (k : Nat) : ((Act.setF a g v).run s).healthAt k = s.healthAt k := id rfl
@[simp] theorem health_modF (a : Nat) (g : Field) (h : Nat → Nat) (s : State) (k : Nat) : ((Act.modF a g h).run s).healthAt k = s.healthAt k := id rfl
@[simp] theorem health_incF (a : Nat) (g : Field) (n : Nat) (s : State) (k : Nat) : ((Act.incF a g n).run s).healthAt k = s.healthAt k := id rfl
@[simp] theorem leash_setRegs (a : Nat) (v : Word) (s : State) (k : Nat) : ((Act.setRegs a v).run s).leashAt k = s.leashAt k := id rfl
@[simp] theorem leash_setF (a : Nat) (g : Field) (v : Nat) (s : State) (k : Nat) : ((Act.setF a g v).run s).leashAt k = s.leashAt k := id rfl
@[simp] theorem leash_modF (a : Nat) (g : Field) (h : Nat → Nat) (s : State) (k : Nat) : ((Act.modF a g h).run s).leashAt k = s.leashAt k := id rfl
@[simp] theorem leash_incF (a : Nat) (g : Field) (n : Nat) (s : State) (k : Nat) : ((Act.incF a g n).run s).leashAt k = s.leashAt k := id rfl
@[simp] theorem trigs_setRegs (a : Nat) (v : Word) (s : State) (k : Nat) : ((Act.setRegs a v).run s).trigsAt k = s.trigsAt k := id rfl
@[simp] theorem trigs_setF (a : Nat) (g : Field) (v : Nat) (s : State) (k : Nat) : ((Act.setF a g v).run s).trigsAt k = s.trigsAt k := id rfl
@[simp] theorem trigs_modF (a : Nat) (g : Field) (h : Nat → Nat) (s : State) (k : Nat) : ((Act.modF a g h).run s).trigsAt k = s.trigsAt k := id rfl
@[simp] theorem trigs_incF (a : Nat) (g : Field) (n : Nat) (s : State) (k : Nat) : ((Act.incF a g n).run s).trigsAt k = s.trigsAt k := id rfl
@[simp] theorem log_setRegs (a : Nat) (v : Word) (s : State) (k : Nat) : ((Act.setRegs a v).run s).logAt k = s.logAt k := id rfl
@[simp] theorem log_setF (a : Nat) (g : Field) (v : Nat) (s : State) (k : Nat) : ((Act.setF a g v).run s).logAt k = s.logAt k := id rfl
@[simp] theorem log_modF (a : Nat) (g : Field) (h : Nat → Nat) (s : State) (k : Nat) : ((Act.modF a g h).run s).logAt k = s.logAt k := id rfl
@[simp] theorem log_incF (a : Nat) (g : Field) (n : Nat) (s : State) (k : Nat) : ((Act.incF a g n).run s).logAt k = s.logAt k := id rfl
@[simp] theorem recUsed_setRegs (a : Nat) (v : Word) (s : State) (k : Nat) : ((Act.setRegs a v).run s).recUsedAt k = s.recUsedAt k := id rfl
@[simp] theorem recUsed_setF (a : Nat) (g : Field) (v : Nat) (s : State) (k : Nat) : ((Act.setF a g v).run s).recUsedAt k = s.recUsedAt k := id rfl
@[simp] theorem recUsed_modF (a : Nat) (g : Field) (h : Nat → Nat) (s : State) (k : Nat) : ((Act.modF a g h).run s).recUsedAt k = s.recUsedAt k := id rfl
@[simp] theorem recUsed_incF (a : Nat) (g : Field) (n : Nat) (s : State) (k : Nat) : ((Act.incF a g n).run s).recUsedAt k = s.recUsedAt k := id rfl
@[simp] theorem recDrop_setRegs (a : Nat) (v : Word) (s : State) (k : Nat) : ((Act.setRegs a v).run s).recDropAt k = s.recDropAt k := id rfl
@[simp] theorem recDrop_setF (a : Nat) (g : Field) (v : Nat) (s : State) (k : Nat) : ((Act.setF a g v).run s).recDropAt k = s.recDropAt k := id rfl
@[simp] theorem recDrop_modF (a : Nat) (g : Field) (h : Nat → Nat) (s : State) (k : Nat) : ((Act.modF a g h).run s).recDropAt k = s.recDropAt k := id rfl
@[simp] theorem recDrop_incF (a : Nat) (g : Field) (n : Nat) (s : State) (k : Nat) : ((Act.incF a g n).run s).recDropAt k = s.recDropAt k := id rfl
@[simp] theorem engs_setRegs (a : Nat) (v : Word) (s : State) (k : Nat) : ((Act.setRegs a v).run s).engsAt k = s.engsAt k := id rfl
@[simp] theorem engs_setF (a : Nat) (g : Field) (v : Nat) (s : State) (k : Nat) : ((Act.setF a g v).run s).engsAt k = s.engsAt k := id rfl
@[simp] theorem engs_modF (a : Nat) (g : Field) (h : Nat → Nat) (s : State) (k : Nat) : ((Act.modF a g h).run s).engsAt k = s.engsAt k := id rfl
@[simp] theorem engs_incF (a : Nat) (g : Field) (n : Nat) (s : State) (k : Nat) : ((Act.incF a g n).run s).engsAt k = s.engsAt k := id rfl
@[simp] theorem conns_setRegs (a : Nat) (v : Word) (s : State) (k : Nat) : ((Act.setRegs a v).run s).connsAt k = s.connsAt k := id rfl
@[simp] theorem conns_setF (a : Nat) (g : Field) (v : Nat) (s : State) (k : Nat) : ((Act.setF a g v).run s).connsAt k = s.connsAt k := id rfl
@[simp] theorem conns_modF (a : Nat) (g : Field) (h : Nat → Nat) (s : State) (k : Nat) : ((Act.modF a g h).run s).connsAt k = s.connsAt k := id rfl
@[simp] theorem conns_incF (a : Nat) (g : Field) (n : Nat) (s : State) (k : Nat) : ((Act.incF a g n).run s).connsAt k = s.connsAt k := id rfl
@[simp] theorem bars_setRegs (a : Nat) (v : Word) (s : State) (k : Nat) : ((Act.setRegs a v).run s).barsAt k = s.barsAt k := id rfl
@[simp] theorem bars_setF (a : Nat) (g : Field) (v : Nat) (s : State) (k : Nat) : ((Act.setF a g v).run s).barsAt k = s.barsAt k := id rfl
@[simp] theorem bars_modF (a : Nat) (g : Field) (h : Nat → Nat) (s : State) (k : Nat) : ((Act.modF a g h).run s).barsAt k = s.barsAt k := id rfl
@[simp] theorem bars_incF (a : Nat) (g : Field) (n : Nat) (s : State) (k : Nat) : ((Act.incF a g n).run s).barsAt k = s.barsAt k := id rfl
@[simp] theorem hounds_setRegs (a : Nat) (v : Word) (s : State) (k : Nat) : ((Act.setRegs a v).run s).houndsAt k = s.houndsAt k := id rfl
@[simp] theorem hounds_setF (a : Nat) (g : Field) (v : Nat) (s : State) (k : Nat) : ((Act.setF a g v).run s).houndsAt k = s.houndsAt k := id rfl
@[simp] theorem hounds_modF (a : Nat) (g : Field) (h : Nat → Nat) (s : State) (k : Nat) : ((Act.modF a g h).run s).houndsAt k = s.houndsAt k := id rfl
@[simp] theorem hounds_incF (a : Nat) (g : Field) (n : Nat) (s : State) (k : Nat) : ((Act.incF a g n).run s).houndsAt k = s.houndsAt k := id rfl
@[simp] theorem samp_setRegs (a : Nat) (v : Word) (s : State) (k : Nat) : ((Act.setRegs a v).run s).sampAt k = s.sampAt k := id rfl
@[simp] theorem samp_setF (a : Nat) (g : Field) (v : Nat) (s : State) (k : Nat) : ((Act.setF a g v).run s).sampAt k = s.sampAt k := id rfl
@[simp] theorem samp_modF (a : Nat) (g : Field) (h : Nat → Nat) (s : State) (k : Nat) : ((Act.modF a g h).run s).sampAt k = s.sampAt k := id rfl
@[simp] theorem samp_incF (a : Nat) (g : Field) (n : Nat) (s : State) (k : Nat) : ((Act.incF a g n).run s).sampAt k = s.sampAt k := id rfl
@[simp] theorem cells_setRegs (a : Nat) (v : Word) (s : State) (k : Nat) : ((Act.setRegs a v).run s).cellsAt k = s.cellsAt k := id rfl
@[simp] theorem cells_setF (a : Nat) (g : Field) (v : Nat) (s : State) (k : Nat) : ((Act.setF a g v).run s).cellsAt k = s.cellsAt k := id rfl
@[simp] theorem cells_modF (a : Nat) (g : Field) (h : Nat → Nat) (s : State) (k : Nat) : ((Act.modF a g h).run s).cellsAt k = s.cellsAt k := id rfl
@[simp] theorem cells_incF (a : Nat) (g : Field) (n : Nat) (s : State) (k : Nat) : ((Act.incF a g n).run s).cellsAt k = s.cellsAt k := id rfl
@[simp] theorem cjobs_setRegs (a : Nat) (v : Word) (s : State) (k : Nat) : ((Act.setRegs a v).run s).cjobsAt k = s.cjobsAt k := id rfl
@[simp] theorem cjobs_setF (a : Nat) (g : Field) (v : Nat) (s : State) (k : Nat) : ((Act.setF a g v).run s).cjobsAt k = s.cjobsAt k := id rfl
@[simp] theorem cjobs_modF (a : Nat) (g : Field) (h : Nat → Nat) (s : State) (k : Nat) : ((Act.modF a g h).run s).cjobsAt k = s.cjobsAt k := id rfl
@[simp] theorem cjobs_incF (a : Nat) (g : Field) (n : Nat) (s : State) (k : Nat) : ((Act.incF a g n).run s).cjobsAt k = s.cjobsAt k := id rfl
@[simp] theorem dsps_setRegs (a : Nat) (v : Word) (s : State) (k : Nat) : ((Act.setRegs a v).run s).dspsAt k = s.dspsAt k := id rfl
@[simp] theorem dsps_setF (a : Nat) (g : Field) (v : Nat) (s : State) (k : Nat) : ((Act.setF a g v).run s).dspsAt k = s.dspsAt k := id rfl
@[simp] theorem dsps_modF (a : Nat) (g : Field) (h : Nat → Nat) (s : State) (k : Nat) : ((Act.modF a g h).run s).dspsAt k = s.dspsAt k := id rfl
@[simp] theorem dsps_incF (a : Nat) (g : Field) (n : Nat) (s : State) (k : Nat) : ((Act.incF a g n).run s).dspsAt k = s.dspsAt k := id rfl
@[simp] theorem dspMem_setRegs (a : Nat) (v : Word) (s : State) (k : Nat) : ((Act.setRegs a v).run s).dspMemAt k = s.dspMemAt k := id rfl
@[simp] theorem dspMem_setF (a : Nat) (g : Field) (v : Nat) (s : State) (k : Nat) : ((Act.setF a g v).run s).dspMemAt k = s.dspMemAt k := id rfl
@[simp] theorem dspMem_modF (a : Nat) (g : Field) (h : Nat → Nat) (s : State) (k : Nat) : ((Act.modF a g h).run s).dspMemAt k = s.dspMemAt k := id rfl
@[simp] theorem dspMem_incF (a : Nat) (g : Field) (n : Nat) (s : State) (k : Nat) : ((Act.incF a g n).run s).dspMemAt k = s.dspMemAt k := id rfl
@[simp] theorem dspP_setRegs (a : Nat) (v : Word) (s : State) (k : Nat) : ((Act.setRegs a v).run s).dspPAt k = s.dspPAt k := id rfl
@[simp] theorem dspP_setF (a : Nat) (g : Field) (v : Nat) (s : State) (k : Nat) : ((Act.setF a g v).run s).dspPAt k = s.dspPAt k := id rfl
@[simp] theorem dspP_modF (a : Nat) (g : Field) (h : Nat → Nat) (s : State) (k : Nat) : ((Act.modF a g h).run s).dspPAt k = s.dspPAt k := id rfl
@[simp] theorem dspP_incF (a : Nat) (g : Field) (n : Nat) (s : State) (k : Nat) : ((Act.incF a g n).run s).dspPAt k = s.dspPAt k := id rfl
@[simp] theorem dets_setRegs (a : Nat) (v : Word) (s : State) (k : Nat) : ((Act.setRegs a v).run s).detsAt k = s.detsAt k := id rfl
@[simp] theorem dets_setF (a : Nat) (g : Field) (v : Nat) (s : State) (k : Nat) : ((Act.setF a g v).run s).detsAt k = s.detsAt k := id rfl
@[simp] theorem dets_modF (a : Nat) (g : Field) (h : Nat → Nat) (s : State) (k : Nat) : ((Act.modF a g h).run s).detsAt k = s.detsAt k := id rfl
@[simp] theorem dets_incF (a : Nat) (g : Field) (n : Nat) (s : State) (k : Nat) : ((Act.incF a g n).run s).detsAt k = s.detsAt k := id rfl
@[simp] theorem dumps_setRegs (a : Nat) (v : Word) (s : State) (k : Nat) : ((Act.setRegs a v).run s).dumpsAt k = s.dumpsAt k := id rfl
@[simp] theorem dumps_setF (a : Nat) (g : Field) (v : Nat) (s : State) (k : Nat) : ((Act.setF a g v).run s).dumpsAt k = s.dumpsAt k := id rfl
@[simp] theorem dumps_modF (a : Nat) (g : Field) (h : Nat → Nat) (s : State) (k : Nat) : ((Act.modF a g h).run s).dumpsAt k = s.dumpsAt k := id rfl
@[simp] theorem dumps_incF (a : Nat) (g : Field) (n : Nat) (s : State) (k : Nat) : ((Act.incF a g n).run s).dumpsAt k = s.dumpsAt k := id rfl
@[simp] theorem clk_setRegs (a : Nat) (v : Word) (s : State) : ((Act.setRegs a v).run s).clk = s.clk := id rfl
@[simp] theorem clk_setF (a : Nat) (g : Field) (v : Nat) (s : State) : ((Act.setF a g v).run s).clk = s.clk := id rfl
@[simp] theorem clk_modF (a : Nat) (g : Field) (h : Nat → Nat) (s : State) : ((Act.modF a g h).run s).clk = s.clk := id rfl
@[simp] theorem clk_incF (a : Nat) (g : Field) (n : Nat) (s : State) : ((Act.incF a g n).run s).clk = s.clk := id rfl
@[simp] theorem recd_setRegs (a : Nat) (v : Word) (s : State) : ((Act.setRegs a v).run s).recd = s.recd := id rfl
@[simp] theorem recd_setF (a : Nat) (g : Field) (v : Nat) (s : State) : ((Act.setF a g v).run s).recd = s.recd := id rfl
@[simp] theorem recd_modF (a : Nat) (g : Field) (h : Nat → Nat) (s : State) : ((Act.modF a g h).run s).recd = s.recd := id rfl
@[simp] theorem recd_incF (a : Nat) (g : Field) (n : Nat) (s : State) : ((Act.incF a g n).run s).recd = s.recd := id rfl
@[simp] theorem attn_setRegs (a : Nat) (v : Word) (s : State) : ((Act.setRegs a v).run s).attn = s.attn := id rfl
@[simp] theorem attn_setF (a : Nat) (g : Field) (v : Nat) (s : State) : ((Act.setF a g v).run s).attn = s.attn := id rfl
@[simp] theorem attn_modF (a : Nat) (g : Field) (h : Nat → Nat) (s : State) : ((Act.modF a g h).run s).attn = s.attn := id rfl
@[simp] theorem attn_incF (a : Nat) (g : Field) (n : Nat) (s : State) : ((Act.incF a g n).run s).attn = s.attn := id rfl
@[simp] theorem linkOn_setRegs (a : Nat) (v : Word) (s : State) : ((Act.setRegs a v).run s).linkOn = s.linkOn := id rfl
@[simp] theorem linkOn_setF (a : Nat) (g : Field) (v : Nat) (s : State) : ((Act.setF a g v).run s).linkOn = s.linkOn := id rfl
@[simp] theorem linkOn_modF (a : Nat) (g : Field) (h : Nat → Nat) (s : State) : ((Act.modF a g h).run s).linkOn = s.linkOn := id rfl
@[simp] theorem linkOn_incF (a : Nat) (g : Field) (n : Nat) (s : State) : ((Act.incF a g n).run s).linkOn = s.linkOn := id rfl
@[simp] theorem failed_setRegs (a : Nat) (v : Word) (s : State) : ((Act.setRegs a v).run s).failed = s.failed := id rfl
@[simp] theorem failed_setF (a : Nat) (g : Field) (v : Nat) (s : State) : ((Act.setF a g v).run s).failed = s.failed := id rfl
@[simp] theorem failed_modF (a : Nat) (g : Field) (h : Nat → Nat) (s : State) : ((Act.modF a g h).run s).failed = s.failed := id rfl
@[simp] theorem failed_incF (a : Nat) (g : Field) (n : Nat) (s : State) : ((Act.incF a g n).run s).failed = s.failed := id rfl
@[simp] theorem lpAct0_setRegs (a : Nat) (v : Word) (s : State) : ((Act.setRegs a v).run s).lpAct0 = s.lpAct0 := id rfl
@[simp] theorem lpAct0_setF (a : Nat) (g : Field) (v : Nat) (s : State) : ((Act.setF a g v).run s).lpAct0 = s.lpAct0 := id rfl
@[simp] theorem lpAct0_modF (a : Nat) (g : Field) (h : Nat → Nat) (s : State) : ((Act.modF a g h).run s).lpAct0 = s.lpAct0 := id rfl
@[simp] theorem lpAct0_incF (a : Nat) (g : Field) (n : Nat) (s : State) : ((Act.incF a g n).run s).lpAct0 = s.lpAct0 := id rfl
@[simp] theorem lpAct1_setRegs (a : Nat) (v : Word) (s : State) : ((Act.setRegs a v).run s).lpAct1 = s.lpAct1 := id rfl
@[simp] theorem lpAct1_setF (a : Nat) (g : Field) (v : Nat) (s : State) : ((Act.setF a g v).run s).lpAct1 = s.lpAct1 := id rfl
@[simp] theorem lpAct1_modF (a : Nat) (g : Field) (h : Nat → Nat) (s : State) : ((Act.modF a g h).run s).lpAct1 = s.lpAct1 := id rfl
@[simp] theorem lpAct1_incF (a : Nat) (g : Field) (n : Nat) (s : State) : ((Act.incF a g n).run s).lpAct1 = s.lpAct1 := id rfl
@[simp] theorem sigq_setRegs (a : Nat) (v : Word) (s : State) : ((Act.setRegs a v).run s).sigq = s.sigq := id rfl
@[simp] theorem sigq_setF (a : Nat) (g : Field) (v : Nat) (s : State) : ((Act.setF a g v).run s).sigq = s.sigq := id rfl
@[simp] theorem sigq_modF (a : Nat) (g : Field) (h : Nat → Nat) (s : State) : ((Act.modF a g h).run s).sigq = s.sigq := id rfl
@[simp] theorem sigq_incF (a : Nat) (g : Field) (n : Nat) (s : State) : ((Act.incF a g n).run s).sigq = s.sigq := id rfl
@[simp] theorem convq_setRegs (a : Nat) (v : Word) (s : State) : ((Act.setRegs a v).run s).convq = s.convq := id rfl
@[simp] theorem convq_setF (a : Nat) (g : Field) (v : Nat) (s : State) : ((Act.setF a g v).run s).convq = s.convq := id rfl
@[simp] theorem convq_modF (a : Nat) (g : Field) (h : Nat → Nat) (s : State) : ((Act.modF a g h).run s).convq = s.convq := id rfl
@[simp] theorem convq_incF (a : Nat) (g : Field) (n : Nat) (s : State) : ((Act.incF a g n).run s).convq = s.convq := id rfl
@[simp] theorem flash_setRegs (a : Nat) (v : Word) (s : State) : ((Act.setRegs a v).run s).flash = s.flash := id rfl
@[simp] theorem flash_setF (a : Nat) (g : Field) (v : Nat) (s : State) : ((Act.setF a g v).run s).flash = s.flash := id rfl
@[simp] theorem flash_modF (a : Nat) (g : Field) (h : Nat → Nat) (s : State) : ((Act.modF a g h).run s).flash = s.flash := id rfl
@[simp] theorem flash_incF (a : Nat) (g : Field) (n : Nat) (s : State) : ((Act.incF a g n).run s).flash = s.flash := id rfl
@[simp] theorem arrives_setRegs (a : Nat) (v : Word) (s : State) : ((Act.setRegs a v).run s).arrives = s.arrives := id rfl
@[simp] theorem arrives_setF (a : Nat) (g : Field) (v : Nat) (s : State) : ((Act.setF a g v).run s).arrives = s.arrives := id rfl
@[simp] theorem arrives_modF (a : Nat) (g : Field) (h : Nat → Nat) (s : State) : ((Act.modF a g h).run s).arrives = s.arrives := id rfl
@[simp] theorem arrives_incF (a : Nat) (g : Field) (n : Nat) (s : State) : ((Act.incF a g n).run s).arrives = s.arrives := id rfl
@[simp] theorem held_setRegs (a : Nat) (v : Word) (s : State) : ((Act.setRegs a v).run s).held = s.held := id rfl
@[simp] theorem held_setF (a : Nat) (g : Field) (v : Nat) (s : State) : ((Act.setF a g v).run s).held = s.held := id rfl
@[simp] theorem held_modF (a : Nat) (g : Field) (h : Nat → Nat) (s : State) : ((Act.modF a g h).run s).held = s.held := id rfl
@[simp] theorem held_incF (a : Nat) (g : Field) (n : Nat) (s : State) : ((Act.incF a g n).run s).held = s.held := id rfl
@[simp] theorem heldCode_setRegs (a : Nat) (v : Word) (s : State) : ((Act.setRegs a v).run s).heldCode = s.heldCode := id rfl
@[simp] theorem heldCode_setF (a : Nat) (g : Field) (v : Nat) (s : State) : ((Act.setF a g v).run s).heldCode = s.heldCode := id rfl
@[simp] theorem heldCode_modF (a : Nat) (g : Field) (h : Nat → Nat) (s : State) : ((Act.modF a g h).run s).heldCode = s.heldCode := id rfl
@[simp] theorem heldCode_incF (a : Nat) (g : Field) (n : Nat) (s : State) : ((Act.incF a g n).run s).heldCode = s.heldCode := id rfl
@[simp] theorem pairs_setRegs (a : Nat) (v : Word) (s : State) : ((Act.setRegs a v).run s).pairs = s.pairs := id rfl
@[simp] theorem pairs_setF (a : Nat) (g : Field) (v : Nat) (s : State) : ((Act.setF a g v).run s).pairs = s.pairs := id rfl
@[simp] theorem pairs_modF (a : Nat) (g : Field) (h : Nat → Nat) (s : State) : ((Act.modF a g h).run s).pairs = s.pairs := id rfl
@[simp] theorem pairs_incF (a : Nat) (g : Field) (n : Nat) (s : State) : ((Act.incF a g n).run s).pairs = s.pairs := id rfl
@[simp] theorem radio_setRegs (a : Nat) (v : Word) (s : State) : ((Act.setRegs a v).run s).radio = s.radio := id rfl
@[simp] theorem radio_setF (a : Nat) (g : Field) (v : Nat) (s : State) : ((Act.setF a g v).run s).radio = s.radio := id rfl
@[simp] theorem radio_modF (a : Nat) (g : Field) (h : Nat → Nat) (s : State) : ((Act.modF a g h).run s).radio = s.radio := id rfl
@[simp] theorem radio_incF (a : Nat) (g : Field) (n : Nat) (s : State) : ((Act.incF a g n).run s).radio = s.radio := id rfl
@[simp] theorem time_setRegs (a : Nat) (v : Word) (s : State) : ((Act.setRegs a v).run s).time = s.time := id rfl
@[simp] theorem time_setF (a : Nat) (g : Field) (v : Nat) (s : State) : ((Act.setF a g v).run s).time = s.time := id rfl
@[simp] theorem time_modF (a : Nat) (g : Field) (h : Nat → Nat) (s : State) : ((Act.modF a g h).run s).time = s.time := id rfl
@[simp] theorem time_incF (a : Nat) (g : Field) (n : Nat) (s : State) : ((Act.incF a g n).run s).time = s.time := id rfl
@[simp] theorem last_setRegs (a : Nat) (v : Word) (s : State) : ((Act.setRegs a v).run s).last = s.last := id rfl
@[simp] theorem last_setF (a : Nat) (g : Field) (v : Nat) (s : State) : ((Act.setF a g v).run s).last = s.last := id rfl
@[simp] theorem last_modF (a : Nat) (g : Field) (h : Nat → Nat) (s : State) : ((Act.modF a g h).run s).last = s.last := id rfl
@[simp] theorem last_incF (a : Nat) (g : Field) (n : Nat) (s : State) : ((Act.incF a g n).run s).last = s.last := id rfl
@[simp] theorem sys_setRegs (a : Nat) (v : Word) (s : State) : ((Act.setRegs a v).run s).sys = s.sys := id rfl
@[simp] theorem sys_setF (a : Nat) (g : Field) (v : Nat) (s : State) : ((Act.setF a g v).run s).sys = s.sys := id rfl
@[simp] theorem sys_modF (a : Nat) (g : Field) (h : Nat → Nat) (s : State) : ((Act.modF a g h).run s).sys = s.sys := id rfl
@[simp] theorem sys_incF (a : Nat) (g : Field) (n : Nat) (s : State) : ((Act.incF a g n).run s).sys = s.sys := id rfl
@[simp] theorem free_setRegs (a : Nat) (v : Word) (s : State) : ((Act.setRegs a v).run s).free = s.free := id rfl
@[simp] theorem free_setF (a : Nat) (g : Field) (v : Nat) (s : State) : ((Act.setF a g v).run s).free = s.free := id rfl
@[simp] theorem free_modF (a : Nat) (g : Field) (h : Nat → Nat) (s : State) : ((Act.modF a g h).run s).free = s.free := id rfl
@[simp] theorem free_incF (a : Nat) (g : Field) (n : Nat) (s : State) : ((Act.incF a g n).run s).free = s.free := id rfl
@[simp] theorem emitted_setRegs (a : Nat) (v : Word) (s : State) : ((Act.setRegs a v).run s).emitted = s.emitted := id rfl
@[simp] theorem emitted_setF (a : Nat) (g : Field) (v : Nat) (s : State) : ((Act.setF a g v).run s).emitted = s.emitted := id rfl
@[simp] theorem emitted_modF (a : Nat) (g : Field) (h : Nat → Nat) (s : State) : ((Act.modF a g h).run s).emitted = s.emitted := id rfl
@[simp] theorem emitted_incF (a : Nat) (g : Field) (n : Nat) (s : State) : ((Act.incF a g n).run s).emitted = s.emitted := id rfl
theorem mem_attnChanged {s : State} (w : s.Wf) (k : Nat) : ((Act.attnChanged).run s).memAt k = s.memAt k := Act.attnChanged_foot s w .mem k (by simp only [attnOutFoot, hostFoot, Foot.any_cons, Foot.any_nil, Foot.reg_iff, Foot.regFam_iff, Foot.range_iff, Foot.whole_iff, List.mem_cons, List.not_mem_nil, reduceCtorEq, false_and, false_or, or_false, or_self, not_false_eq_true])
theorem errs_attnChanged {s : State} (w : s.Wf) (k : Nat) : ((Act.attnChanged).run s).errsAt k = s.errsAt k := Act.attnChanged_foot s w .errs k (by simp only [attnOutFoot, hostFoot, Foot.any_cons, Foot.any_nil, Foot.reg_iff, Foot.regFam_iff, Foot.range_iff, Foot.whole_iff, List.mem_cons, List.not_mem_nil, reduceCtorEq, false_and, false_or, or_false, or_self, not_false_eq_true])
theorem lpErr_attnChanged {s : State} (w : s.Wf) (k : Nat) : ((Act.attnChanged).run s).lpErrAt k = s.lpErrAt k := Act.attnChanged_foot s w .lpErr k (by simp only [attnOutFoot, hostFoot, Foot.any_cons, Foot.any_nil, Foot.reg_iff, Foot.regFam_iff, Foot.range_iff, Foot.whole_iff, List.mem_cons, List.not_mem_nil, reduceCtorEq, false_and, false_or, or_false, or_self, not_false_eq_true])
theorem chUe_attnChanged {s : State} (w : s.Wf) (k : Nat) : ((Act.attnChanged).run s).chUeAt k = s.chUeAt k := Act.attnChanged_foot s w .chUe k (by simp only [attnOutFoot, hostFoot, Foot.any_cons, Foot.any_nil, Foot.reg_iff, Foot.regFam_iff, Foot.range_iff, Foot.whole_iff, List.mem_cons, List.not_mem_nil, reduceCtorEq, false_and, false_or, or_false, or_self, not_false_eq_true])
theorem store_attnChanged {s : State} (w : s.Wf) (k : Nat) : ((Act.attnChanged).run s).storeAt k = s.storeAt k := Act.attnChanged_foot s w .store k (by simp only [attnOutFoot, hostFoot, Foot.any_cons, Foot.any_nil, Foot.reg_iff, Foot.regFam_iff, Foot.range_iff, Foot.whole_iff, List.mem_cons, List.not_mem_nil, reduceCtorEq, false_and, false_or, or_false, or_self, not_false_eq_true])
theorem acc_attnChanged {s : State} (w : s.Wf) (k : Nat) : ((Act.attnChanged).run s).accAt k = s.accAt k := Act.attnChanged_foot s w .acc k (by simp only [attnOutFoot, hostFoot, Foot.any_cons, Foot.any_nil, Foot.reg_iff, Foot.regFam_iff, Foot.range_iff, Foot.whole_iff, List.mem_cons, List.not_mem_nil, reduceCtorEq, false_and, false_or, or_false, or_self, not_false_eq_true])
theorem anchors_attnChanged {s : State} (w : s.Wf) (k : Nat) : ((Act.attnChanged).run s).anchorsAt k = s.anchorsAt k := Act.attnChanged_foot s w .anchors k (by simp only [attnOutFoot, hostFoot, Foot.any_cons, Foot.any_nil, Foot.reg_iff, Foot.regFam_iff, Foot.range_iff, Foot.whole_iff, List.mem_cons, List.not_mem_nil, reduceCtorEq, false_and, false_or, or_false, or_self, not_false_eq_true])
theorem pend_attnChanged {s : State} (w : s.Wf) (k : Nat) : ((Act.attnChanged).run s).pendAt k = s.pendAt k := Act.attnChanged_foot s w .pend k (by simp only [attnOutFoot, hostFoot, Foot.any_cons, Foot.any_nil, Foot.reg_iff, Foot.regFam_iff, Foot.range_iff, Foot.whole_iff, List.mem_cons, List.not_mem_nil, reduceCtorEq, false_and, false_or, or_false, or_self, not_false_eq_true])
theorem vreg_attnChanged {s : State} (w : s.Wf) (k : Nat) : ((Act.attnChanged).run s).vregAt k = s.vregAt k := Act.attnChanged_foot s w .vreg k (by simp only [attnOutFoot, hostFoot, Foot.any_cons, Foot.any_nil, Foot.reg_iff, Foot.regFam_iff, Foot.range_iff, Foot.whole_iff, List.mem_cons, List.not_mem_nil, reduceCtorEq, false_and, false_or, or_false, or_self, not_false_eq_true])
theorem ctxs_attnChanged {s : State} (w : s.Wf) (k : Nat) : ((Act.attnChanged).run s).ctxsAt k = s.ctxsAt k := Act.attnChanged_foot s w .ctxs k (by simp only [attnOutFoot, hostFoot, Foot.any_cons, Foot.any_nil, Foot.reg_iff, Foot.regFam_iff, Foot.range_iff, Foot.whole_iff, List.mem_cons, List.not_mem_nil, reduceCtorEq, false_and, false_or, or_false, or_self, not_false_eq_true])
theorem arrs_attnChanged {s : State} (w : s.Wf) (k : Nat) : ((Act.attnChanged).run s).arrsAt k = s.arrsAt k := Act.attnChanged_foot s w .arrs k (by simp only [attnOutFoot, hostFoot, Foot.any_cons, Foot.any_nil, Foot.reg_iff, Foot.regFam_iff, Foot.range_iff, Foot.whole_iff, List.mem_cons, List.not_mem_nil, reduceCtorEq, false_and, false_or, or_false, or_self, not_false_eq_true])
theorem parts_attnChanged {s : State} (w : s.Wf) (k : Nat) : ((Act.attnChanged).run s).partsAt k = s.partsAt k := Act.attnChanged_foot s w .parts k (by simp only [attnOutFoot, hostFoot, Foot.any_cons, Foot.any_nil, Foot.reg_iff, Foot.regFam_iff, Foot.range_iff, Foot.whole_iff, List.mem_cons, List.not_mem_nil, reduceCtorEq, false_and, false_or, or_false, or_self, not_false_eq_true])
theorem vecTurn_attnChanged {s : State} (w : s.Wf) (k : Nat) : ((Act.attnChanged).run s).vecTurnAt k = s.vecTurnAt k := Act.attnChanged_foot s w .vecTurn k (by simp only [attnOutFoot, hostFoot, Foot.any_cons, Foot.any_nil, Foot.reg_iff, Foot.regFam_iff, Foot.range_iff, Foot.whole_iff, List.mem_cons, List.not_mem_nil, reduceCtorEq, false_and, false_or, or_false, or_self, not_false_eq_true])
theorem health_attnChanged {s : State} (w : s.Wf) (k : Nat) : ((Act.attnChanged).run s).healthAt k = s.healthAt k := Act.attnChanged_foot s w .health k (by simp only [attnOutFoot, hostFoot, Foot.any_cons, Foot.any_nil, Foot.reg_iff, Foot.regFam_iff, Foot.range_iff, Foot.whole_iff, List.mem_cons, List.not_mem_nil, reduceCtorEq, false_and, false_or, or_false, or_self, not_false_eq_true])
theorem leash_attnChanged {s : State} (w : s.Wf) (k : Nat) : ((Act.attnChanged).run s).leashAt k = s.leashAt k := Act.attnChanged_foot s w .leash k (by simp only [attnOutFoot, hostFoot, Foot.any_cons, Foot.any_nil, Foot.reg_iff, Foot.regFam_iff, Foot.range_iff, Foot.whole_iff, List.mem_cons, List.not_mem_nil, reduceCtorEq, false_and, false_or, or_false, or_self, not_false_eq_true])
theorem trigs_attnChanged {s : State} (w : s.Wf) (k : Nat) : ((Act.attnChanged).run s).trigsAt k = s.trigsAt k := Act.attnChanged_foot s w .trigs k (by simp only [attnOutFoot, hostFoot, Foot.any_cons, Foot.any_nil, Foot.reg_iff, Foot.regFam_iff, Foot.range_iff, Foot.whole_iff, List.mem_cons, List.not_mem_nil, reduceCtorEq, false_and, false_or, or_false, or_self, not_false_eq_true])
theorem log_attnChanged {s : State} (w : s.Wf) (k : Nat) : ((Act.attnChanged).run s).logAt k = s.logAt k := Act.attnChanged_foot s w .log k (by simp only [attnOutFoot, hostFoot, Foot.any_cons, Foot.any_nil, Foot.reg_iff, Foot.regFam_iff, Foot.range_iff, Foot.whole_iff, List.mem_cons, List.not_mem_nil, reduceCtorEq, false_and, false_or, or_false, or_self, not_false_eq_true])
theorem recUsed_attnChanged {s : State} (w : s.Wf) (k : Nat) : ((Act.attnChanged).run s).recUsedAt k = s.recUsedAt k := Act.attnChanged_foot s w .recUsed k (by simp only [attnOutFoot, hostFoot, Foot.any_cons, Foot.any_nil, Foot.reg_iff, Foot.regFam_iff, Foot.range_iff, Foot.whole_iff, List.mem_cons, List.not_mem_nil, reduceCtorEq, false_and, false_or, or_false, or_self, not_false_eq_true])
theorem recDrop_attnChanged {s : State} (w : s.Wf) (k : Nat) : ((Act.attnChanged).run s).recDropAt k = s.recDropAt k := Act.attnChanged_foot s w .recDrop k (by simp only [attnOutFoot, hostFoot, Foot.any_cons, Foot.any_nil, Foot.reg_iff, Foot.regFam_iff, Foot.range_iff, Foot.whole_iff, List.mem_cons, List.not_mem_nil, reduceCtorEq, false_and, false_or, or_false, or_self, not_false_eq_true])
theorem engs_attnChanged {s : State} (w : s.Wf) (k : Nat) : ((Act.attnChanged).run s).engsAt k = s.engsAt k := Act.attnChanged_foot s w .engs k (by simp only [attnOutFoot, hostFoot, Foot.any_cons, Foot.any_nil, Foot.reg_iff, Foot.regFam_iff, Foot.range_iff, Foot.whole_iff, List.mem_cons, List.not_mem_nil, reduceCtorEq, false_and, false_or, or_false, or_self, not_false_eq_true])
theorem conns_attnChanged {s : State} (w : s.Wf) (k : Nat) : ((Act.attnChanged).run s).connsAt k = s.connsAt k := Act.attnChanged_foot s w .conns k (by simp only [attnOutFoot, hostFoot, Foot.any_cons, Foot.any_nil, Foot.reg_iff, Foot.regFam_iff, Foot.range_iff, Foot.whole_iff, List.mem_cons, List.not_mem_nil, reduceCtorEq, false_and, false_or, or_false, or_self, not_false_eq_true])
theorem bars_attnChanged {s : State} (w : s.Wf) (k : Nat) : ((Act.attnChanged).run s).barsAt k = s.barsAt k := Act.attnChanged_foot s w .bars k (by simp only [attnOutFoot, hostFoot, Foot.any_cons, Foot.any_nil, Foot.reg_iff, Foot.regFam_iff, Foot.range_iff, Foot.whole_iff, List.mem_cons, List.not_mem_nil, reduceCtorEq, false_and, false_or, or_false, or_self, not_false_eq_true])
theorem hounds_attnChanged {s : State} (w : s.Wf) (k : Nat) : ((Act.attnChanged).run s).houndsAt k = s.houndsAt k := Act.attnChanged_foot s w .hounds k (by simp only [attnOutFoot, hostFoot, Foot.any_cons, Foot.any_nil, Foot.reg_iff, Foot.regFam_iff, Foot.range_iff, Foot.whole_iff, List.mem_cons, List.not_mem_nil, reduceCtorEq, false_and, false_or, or_false, or_self, not_false_eq_true])
theorem samp_attnChanged {s : State} (w : s.Wf) (k : Nat) : ((Act.attnChanged).run s).sampAt k = s.sampAt k := Act.attnChanged_foot s w .samp k (by simp only [attnOutFoot, hostFoot, Foot.any_cons, Foot.any_nil, Foot.reg_iff, Foot.regFam_iff, Foot.range_iff, Foot.whole_iff, List.mem_cons, List.not_mem_nil, reduceCtorEq, false_and, false_or, or_false, or_self, not_false_eq_true])
theorem cells_attnChanged {s : State} (w : s.Wf) (k : Nat) : ((Act.attnChanged).run s).cellsAt k = s.cellsAt k := Act.attnChanged_foot s w .cells k (by simp only [attnOutFoot, hostFoot, Foot.any_cons, Foot.any_nil, Foot.reg_iff, Foot.regFam_iff, Foot.range_iff, Foot.whole_iff, List.mem_cons, List.not_mem_nil, reduceCtorEq, false_and, false_or, or_false, or_self, not_false_eq_true])
theorem cjobs_attnChanged {s : State} (w : s.Wf) (k : Nat) : ((Act.attnChanged).run s).cjobsAt k = s.cjobsAt k := Act.attnChanged_foot s w .cjobs k (by simp only [attnOutFoot, hostFoot, Foot.any_cons, Foot.any_nil, Foot.reg_iff, Foot.regFam_iff, Foot.range_iff, Foot.whole_iff, List.mem_cons, List.not_mem_nil, reduceCtorEq, false_and, false_or, or_false, or_self, not_false_eq_true])
theorem dsps_attnChanged {s : State} (w : s.Wf) (k : Nat) : ((Act.attnChanged).run s).dspsAt k = s.dspsAt k := Act.attnChanged_foot s w .dsps k (by simp only [attnOutFoot, hostFoot, Foot.any_cons, Foot.any_nil, Foot.reg_iff, Foot.regFam_iff, Foot.range_iff, Foot.whole_iff, List.mem_cons, List.not_mem_nil, reduceCtorEq, false_and, false_or, or_false, or_self, not_false_eq_true])
theorem dspMem_attnChanged {s : State} (w : s.Wf) (k : Nat) : ((Act.attnChanged).run s).dspMemAt k = s.dspMemAt k := Act.attnChanged_foot s w .dspMem k (by simp only [attnOutFoot, hostFoot, Foot.any_cons, Foot.any_nil, Foot.reg_iff, Foot.regFam_iff, Foot.range_iff, Foot.whole_iff, List.mem_cons, List.not_mem_nil, reduceCtorEq, false_and, false_or, or_false, or_self, not_false_eq_true])
theorem dspP_attnChanged {s : State} (w : s.Wf) (k : Nat) : ((Act.attnChanged).run s).dspPAt k = s.dspPAt k := Act.attnChanged_foot s w .dspP k (by simp only [attnOutFoot, hostFoot, Foot.any_cons, Foot.any_nil, Foot.reg_iff, Foot.regFam_iff, Foot.range_iff, Foot.whole_iff, List.mem_cons, List.not_mem_nil, reduceCtorEq, false_and, false_or, or_false, or_self, not_false_eq_true])
theorem dets_attnChanged {s : State} (w : s.Wf) (k : Nat) : ((Act.attnChanged).run s).detsAt k = s.detsAt k := Act.attnChanged_foot s w .dets k (by simp only [attnOutFoot, hostFoot, Foot.any_cons, Foot.any_nil, Foot.reg_iff, Foot.regFam_iff, Foot.range_iff, Foot.whole_iff, List.mem_cons, List.not_mem_nil, reduceCtorEq, false_and, false_or, or_false, or_self, not_false_eq_true])
theorem dumps_attnChanged {s : State} (w : s.Wf) (k : Nat) : ((Act.attnChanged).run s).dumpsAt k = s.dumpsAt k := Act.attnChanged_foot s w .dumps k (by simp only [attnOutFoot, hostFoot, Foot.any_cons, Foot.any_nil, Foot.reg_iff, Foot.regFam_iff, Foot.range_iff, Foot.whole_iff, List.mem_cons, List.not_mem_nil, reduceCtorEq, false_and, false_or, or_false, or_self, not_false_eq_true])
theorem clk_attnChanged {s : State} (w : s.Wf) : ((Act.attnChanged).run s).clk = s.clk := Act.attnChanged_foot s w .clk 0 (by simp only [attnOutFoot, hostFoot, Foot.any_cons, Foot.any_nil, Foot.reg_iff, Foot.regFam_iff, Foot.range_iff, Foot.whole_iff, List.mem_cons, List.not_mem_nil, reduceCtorEq, false_and, false_or, or_false, or_self, not_false_eq_true])
theorem recd_attnChanged {s : State} (w : s.Wf) : ((Act.attnChanged).run s).recd = s.recd := Act.attnChanged_foot s w .recd 0 (by simp only [attnOutFoot, hostFoot, Foot.any_cons, Foot.any_nil, Foot.reg_iff, Foot.regFam_iff, Foot.range_iff, Foot.whole_iff, List.mem_cons, List.not_mem_nil, reduceCtorEq, false_and, false_or, or_false, or_self, not_false_eq_true])
theorem linkOn_attnChanged {s : State} (w : s.Wf) : ((Act.attnChanged).run s).linkOn = s.linkOn := Act.attnChanged_foot s w .linkOn 0 (by simp only [attnOutFoot, hostFoot, Foot.any_cons, Foot.any_nil, Foot.reg_iff, Foot.regFam_iff, Foot.range_iff, Foot.whole_iff, List.mem_cons, List.not_mem_nil, reduceCtorEq, false_and, false_or, or_false, or_self, not_false_eq_true])
theorem failed_attnChanged {s : State} (w : s.Wf) : ((Act.attnChanged).run s).failed = s.failed := Act.attnChanged_foot s w .failed 0 (by simp only [attnOutFoot, hostFoot, Foot.any_cons, Foot.any_nil, Foot.reg_iff, Foot.regFam_iff, Foot.range_iff, Foot.whole_iff, List.mem_cons, List.not_mem_nil, reduceCtorEq, false_and, false_or, or_false, or_self, not_false_eq_true])
theorem lpAct0_attnChanged {s : State} (w : s.Wf) : ((Act.attnChanged).run s).lpAct0 = s.lpAct0 := Act.attnChanged_foot s w .lpAct0 0 (by simp only [attnOutFoot, hostFoot, Foot.any_cons, Foot.any_nil, Foot.reg_iff, Foot.regFam_iff, Foot.range_iff, Foot.whole_iff, List.mem_cons, List.not_mem_nil, reduceCtorEq, false_and, false_or, or_false, or_self, not_false_eq_true])
theorem lpAct1_attnChanged {s : State} (w : s.Wf) : ((Act.attnChanged).run s).lpAct1 = s.lpAct1 := Act.attnChanged_foot s w .lpAct1 0 (by simp only [attnOutFoot, hostFoot, Foot.any_cons, Foot.any_nil, Foot.reg_iff, Foot.regFam_iff, Foot.range_iff, Foot.whole_iff, List.mem_cons, List.not_mem_nil, reduceCtorEq, false_and, false_or, or_false, or_self, not_false_eq_true])
theorem sigq_attnChanged {s : State} (w : s.Wf) : ((Act.attnChanged).run s).sigq = s.sigq := Act.attnChanged_foot s w .sigq 0 (by simp only [attnOutFoot, hostFoot, Foot.any_cons, Foot.any_nil, Foot.reg_iff, Foot.regFam_iff, Foot.range_iff, Foot.whole_iff, List.mem_cons, List.not_mem_nil, reduceCtorEq, false_and, false_or, or_false, or_self, not_false_eq_true])
theorem convq_attnChanged {s : State} (w : s.Wf) : ((Act.attnChanged).run s).convq = s.convq := Act.attnChanged_foot s w .convq 0 (by simp only [attnOutFoot, hostFoot, Foot.any_cons, Foot.any_nil, Foot.reg_iff, Foot.regFam_iff, Foot.range_iff, Foot.whole_iff, List.mem_cons, List.not_mem_nil, reduceCtorEq, false_and, false_or, or_false, or_self, not_false_eq_true])
theorem flash_attnChanged {s : State} (w : s.Wf) : ((Act.attnChanged).run s).flash = s.flash := Act.attnChanged_foot s w .flash 0 (by simp only [attnOutFoot, hostFoot, Foot.any_cons, Foot.any_nil, Foot.reg_iff, Foot.regFam_iff, Foot.range_iff, Foot.whole_iff, List.mem_cons, List.not_mem_nil, reduceCtorEq, false_and, false_or, or_false, or_self, not_false_eq_true])
theorem arrives_attnChanged {s : State} (w : s.Wf) : ((Act.attnChanged).run s).arrives = s.arrives := Act.attnChanged_foot s w .arrives 0 (by simp only [attnOutFoot, hostFoot, Foot.any_cons, Foot.any_nil, Foot.reg_iff, Foot.regFam_iff, Foot.range_iff, Foot.whole_iff, List.mem_cons, List.not_mem_nil, reduceCtorEq, false_and, false_or, or_false, or_self, not_false_eq_true])
theorem held_attnChanged {s : State} (w : s.Wf) : ((Act.attnChanged).run s).held = s.held := Act.attnChanged_foot s w .held 0 (by simp only [attnOutFoot, hostFoot, Foot.any_cons, Foot.any_nil, Foot.reg_iff, Foot.regFam_iff, Foot.range_iff, Foot.whole_iff, List.mem_cons, List.not_mem_nil, reduceCtorEq, false_and, false_or, or_false, or_self, not_false_eq_true])
theorem heldCode_attnChanged {s : State} (w : s.Wf) : ((Act.attnChanged).run s).heldCode = s.heldCode := Act.attnChanged_foot s w .heldCode 0 (by simp only [attnOutFoot, hostFoot, Foot.any_cons, Foot.any_nil, Foot.reg_iff, Foot.regFam_iff, Foot.range_iff, Foot.whole_iff, List.mem_cons, List.not_mem_nil, reduceCtorEq, false_and, false_or, or_false, or_self, not_false_eq_true])
theorem pairs_attnChanged {s : State} (w : s.Wf) : ((Act.attnChanged).run s).pairs = s.pairs := Act.attnChanged_foot s w .pairs 0 (by simp only [attnOutFoot, hostFoot, Foot.any_cons, Foot.any_nil, Foot.reg_iff, Foot.regFam_iff, Foot.range_iff, Foot.whole_iff, List.mem_cons, List.not_mem_nil, reduceCtorEq, false_and, false_or, or_false, or_self, not_false_eq_true])
theorem radio_attnChanged {s : State} (w : s.Wf) : ((Act.attnChanged).run s).radio = s.radio := Act.attnChanged_foot s w .radio 0 (by simp only [attnOutFoot, hostFoot, Foot.any_cons, Foot.any_nil, Foot.reg_iff, Foot.regFam_iff, Foot.range_iff, Foot.whole_iff, List.mem_cons, List.not_mem_nil, reduceCtorEq, false_and, false_or, or_false, or_self, not_false_eq_true])
theorem time_attnChanged {s : State} (w : s.Wf) : ((Act.attnChanged).run s).time = s.time := Act.attnChanged_foot s w .time 0 (by simp only [attnOutFoot, hostFoot, Foot.any_cons, Foot.any_nil, Foot.reg_iff, Foot.regFam_iff, Foot.range_iff, Foot.whole_iff, List.mem_cons, List.not_mem_nil, reduceCtorEq, false_and, false_or, or_false, or_self, not_false_eq_true])
theorem last_attnChanged {s : State} (w : s.Wf) : ((Act.attnChanged).run s).last = s.last := Act.attnChanged_foot s w .last 0 (by simp only [attnOutFoot, hostFoot, Foot.any_cons, Foot.any_nil, Foot.reg_iff, Foot.regFam_iff, Foot.range_iff, Foot.whole_iff, List.mem_cons, List.not_mem_nil, reduceCtorEq, false_and, false_or, or_false, or_self, not_false_eq_true])
theorem sys_attnChanged {s : State} (w : s.Wf) : ((Act.attnChanged).run s).sys = s.sys := Act.attnChanged_foot s w .sys 0 (by simp only [attnOutFoot, hostFoot, Foot.any_cons, Foot.any_nil, Foot.reg_iff, Foot.regFam_iff, Foot.range_iff, Foot.whole_iff, List.mem_cons, List.not_mem_nil, reduceCtorEq, false_and, false_or, or_false, or_self, not_false_eq_true])
theorem free_attnChanged {s : State} (w : s.Wf) : ((Act.attnChanged).run s).free = s.free := Act.attnChanged_foot s w .free 0 (by simp only [attnOutFoot, hostFoot, Foot.any_cons, Foot.any_nil, Foot.reg_iff, Foot.regFam_iff, Foot.range_iff, Foot.whole_iff, List.mem_cons, List.not_mem_nil, reduceCtorEq, false_and, false_or, or_false, or_self, not_false_eq_true])
theorem mem_attnSet {s : State} (w : s.Wf) (b : Nat) (k : Nat) : ((Act.attnSet b).run s).memAt k = s.memAt k := Act.attnSet_foot s w .mem k (by simp only [attnFoot, hostFoot, Foot.any_cons, Foot.any_nil, Foot.reg_iff, Foot.regFam_iff, Foot.range_iff, Foot.whole_iff, List.mem_cons, List.not_mem_nil, reduceCtorEq, false_and, false_or, or_false, or_self, not_false_eq_true])
theorem errs_attnSet {s : State} (w : s.Wf) (b : Nat) (k : Nat) : ((Act.attnSet b).run s).errsAt k = s.errsAt k := Act.attnSet_foot s w .errs k (by simp only [attnFoot, hostFoot, Foot.any_cons, Foot.any_nil, Foot.reg_iff, Foot.regFam_iff, Foot.range_iff, Foot.whole_iff, List.mem_cons, List.not_mem_nil, reduceCtorEq, false_and, false_or, or_false, or_self, not_false_eq_true])
theorem lpErr_attnSet {s : State} (w : s.Wf) (b : Nat) (k : Nat) : ((Act.attnSet b).run s).lpErrAt k = s.lpErrAt k := Act.attnSet_foot s w .lpErr k (by simp only [attnFoot, hostFoot, Foot.any_cons, Foot.any_nil, Foot.reg_iff, Foot.regFam_iff, Foot.range_iff, Foot.whole_iff, List.mem_cons, List.not_mem_nil, reduceCtorEq, false_and, false_or, or_false, or_self, not_false_eq_true])
theorem chUe_attnSet {s : State} (w : s.Wf) (b : Nat) (k : Nat) : ((Act.attnSet b).run s).chUeAt k = s.chUeAt k := Act.attnSet_foot s w .chUe k (by simp only [attnFoot, hostFoot, Foot.any_cons, Foot.any_nil, Foot.reg_iff, Foot.regFam_iff, Foot.range_iff, Foot.whole_iff, List.mem_cons, List.not_mem_nil, reduceCtorEq, false_and, false_or, or_false, or_self, not_false_eq_true])
theorem store_attnSet {s : State} (w : s.Wf) (b : Nat) (k : Nat) : ((Act.attnSet b).run s).storeAt k = s.storeAt k := Act.attnSet_foot s w .store k (by simp only [attnFoot, hostFoot, Foot.any_cons, Foot.any_nil, Foot.reg_iff, Foot.regFam_iff, Foot.range_iff, Foot.whole_iff, List.mem_cons, List.not_mem_nil, reduceCtorEq, false_and, false_or, or_false, or_self, not_false_eq_true])
theorem acc_attnSet {s : State} (w : s.Wf) (b : Nat) (k : Nat) : ((Act.attnSet b).run s).accAt k = s.accAt k := Act.attnSet_foot s w .acc k (by simp only [attnFoot, hostFoot, Foot.any_cons, Foot.any_nil, Foot.reg_iff, Foot.regFam_iff, Foot.range_iff, Foot.whole_iff, List.mem_cons, List.not_mem_nil, reduceCtorEq, false_and, false_or, or_false, or_self, not_false_eq_true])
theorem anchors_attnSet {s : State} (w : s.Wf) (b : Nat) (k : Nat) : ((Act.attnSet b).run s).anchorsAt k = s.anchorsAt k := Act.attnSet_foot s w .anchors k (by simp only [attnFoot, hostFoot, Foot.any_cons, Foot.any_nil, Foot.reg_iff, Foot.regFam_iff, Foot.range_iff, Foot.whole_iff, List.mem_cons, List.not_mem_nil, reduceCtorEq, false_and, false_or, or_false, or_self, not_false_eq_true])
theorem pend_attnSet {s : State} (w : s.Wf) (b : Nat) (k : Nat) : ((Act.attnSet b).run s).pendAt k = s.pendAt k := Act.attnSet_foot s w .pend k (by simp only [attnFoot, hostFoot, Foot.any_cons, Foot.any_nil, Foot.reg_iff, Foot.regFam_iff, Foot.range_iff, Foot.whole_iff, List.mem_cons, List.not_mem_nil, reduceCtorEq, false_and, false_or, or_false, or_self, not_false_eq_true])
theorem vreg_attnSet {s : State} (w : s.Wf) (b : Nat) (k : Nat) : ((Act.attnSet b).run s).vregAt k = s.vregAt k := Act.attnSet_foot s w .vreg k (by simp only [attnFoot, hostFoot, Foot.any_cons, Foot.any_nil, Foot.reg_iff, Foot.regFam_iff, Foot.range_iff, Foot.whole_iff, List.mem_cons, List.not_mem_nil, reduceCtorEq, false_and, false_or, or_false, or_self, not_false_eq_true])
theorem ctxs_attnSet {s : State} (w : s.Wf) (b : Nat) (k : Nat) : ((Act.attnSet b).run s).ctxsAt k = s.ctxsAt k := Act.attnSet_foot s w .ctxs k (by simp only [attnFoot, hostFoot, Foot.any_cons, Foot.any_nil, Foot.reg_iff, Foot.regFam_iff, Foot.range_iff, Foot.whole_iff, List.mem_cons, List.not_mem_nil, reduceCtorEq, false_and, false_or, or_false, or_self, not_false_eq_true])
theorem arrs_attnSet {s : State} (w : s.Wf) (b : Nat) (k : Nat) : ((Act.attnSet b).run s).arrsAt k = s.arrsAt k := Act.attnSet_foot s w .arrs k (by simp only [attnFoot, hostFoot, Foot.any_cons, Foot.any_nil, Foot.reg_iff, Foot.regFam_iff, Foot.range_iff, Foot.whole_iff, List.mem_cons, List.not_mem_nil, reduceCtorEq, false_and, false_or, or_false, or_self, not_false_eq_true])
theorem parts_attnSet {s : State} (w : s.Wf) (b : Nat) (k : Nat) : ((Act.attnSet b).run s).partsAt k = s.partsAt k := Act.attnSet_foot s w .parts k (by simp only [attnFoot, hostFoot, Foot.any_cons, Foot.any_nil, Foot.reg_iff, Foot.regFam_iff, Foot.range_iff, Foot.whole_iff, List.mem_cons, List.not_mem_nil, reduceCtorEq, false_and, false_or, or_false, or_self, not_false_eq_true])
theorem vecTurn_attnSet {s : State} (w : s.Wf) (b : Nat) (k : Nat) : ((Act.attnSet b).run s).vecTurnAt k = s.vecTurnAt k := Act.attnSet_foot s w .vecTurn k (by simp only [attnFoot, hostFoot, Foot.any_cons, Foot.any_nil, Foot.reg_iff, Foot.regFam_iff, Foot.range_iff, Foot.whole_iff, List.mem_cons, List.not_mem_nil, reduceCtorEq, false_and, false_or, or_false, or_self, not_false_eq_true])
theorem health_attnSet {s : State} (w : s.Wf) (b : Nat) (k : Nat) : ((Act.attnSet b).run s).healthAt k = s.healthAt k := Act.attnSet_foot s w .health k (by simp only [attnFoot, hostFoot, Foot.any_cons, Foot.any_nil, Foot.reg_iff, Foot.regFam_iff, Foot.range_iff, Foot.whole_iff, List.mem_cons, List.not_mem_nil, reduceCtorEq, false_and, false_or, or_false, or_self, not_false_eq_true])
theorem leash_attnSet {s : State} (w : s.Wf) (b : Nat) (k : Nat) : ((Act.attnSet b).run s).leashAt k = s.leashAt k := Act.attnSet_foot s w .leash k (by simp only [attnFoot, hostFoot, Foot.any_cons, Foot.any_nil, Foot.reg_iff, Foot.regFam_iff, Foot.range_iff, Foot.whole_iff, List.mem_cons, List.not_mem_nil, reduceCtorEq, false_and, false_or, or_false, or_self, not_false_eq_true])
theorem trigs_attnSet {s : State} (w : s.Wf) (b : Nat) (k : Nat) : ((Act.attnSet b).run s).trigsAt k = s.trigsAt k := Act.attnSet_foot s w .trigs k (by simp only [attnFoot, hostFoot, Foot.any_cons, Foot.any_nil, Foot.reg_iff, Foot.regFam_iff, Foot.range_iff, Foot.whole_iff, List.mem_cons, List.not_mem_nil, reduceCtorEq, false_and, false_or, or_false, or_self, not_false_eq_true])
theorem log_attnSet {s : State} (w : s.Wf) (b : Nat) (k : Nat) : ((Act.attnSet b).run s).logAt k = s.logAt k := Act.attnSet_foot s w .log k (by simp only [attnFoot, hostFoot, Foot.any_cons, Foot.any_nil, Foot.reg_iff, Foot.regFam_iff, Foot.range_iff, Foot.whole_iff, List.mem_cons, List.not_mem_nil, reduceCtorEq, false_and, false_or, or_false, or_self, not_false_eq_true])
theorem recUsed_attnSet {s : State} (w : s.Wf) (b : Nat) (k : Nat) : ((Act.attnSet b).run s).recUsedAt k = s.recUsedAt k := Act.attnSet_foot s w .recUsed k (by simp only [attnFoot, hostFoot, Foot.any_cons, Foot.any_nil, Foot.reg_iff, Foot.regFam_iff, Foot.range_iff, Foot.whole_iff, List.mem_cons, List.not_mem_nil, reduceCtorEq, false_and, false_or, or_false, or_self, not_false_eq_true])
theorem recDrop_attnSet {s : State} (w : s.Wf) (b : Nat) (k : Nat) : ((Act.attnSet b).run s).recDropAt k = s.recDropAt k := Act.attnSet_foot s w .recDrop k (by simp only [attnFoot, hostFoot, Foot.any_cons, Foot.any_nil, Foot.reg_iff, Foot.regFam_iff, Foot.range_iff, Foot.whole_iff, List.mem_cons, List.not_mem_nil, reduceCtorEq, false_and, false_or, or_false, or_self, not_false_eq_true])
theorem engs_attnSet {s : State} (w : s.Wf) (b : Nat) (k : Nat) : ((Act.attnSet b).run s).engsAt k = s.engsAt k := Act.attnSet_foot s w .engs k (by simp only [attnFoot, hostFoot, Foot.any_cons, Foot.any_nil, Foot.reg_iff, Foot.regFam_iff, Foot.range_iff, Foot.whole_iff, List.mem_cons, List.not_mem_nil, reduceCtorEq, false_and, false_or, or_false, or_self, not_false_eq_true])
theorem conns_attnSet {s : State} (w : s.Wf) (b : Nat) (k : Nat) : ((Act.attnSet b).run s).connsAt k = s.connsAt k := Act.attnSet_foot s w .conns k (by simp only [attnFoot, hostFoot, Foot.any_cons, Foot.any_nil, Foot.reg_iff, Foot.regFam_iff, Foot.range_iff, Foot.whole_iff, List.mem_cons, List.not_mem_nil, reduceCtorEq, false_and, false_or, or_false, or_self, not_false_eq_true])
theorem bars_attnSet {s : State} (w : s.Wf) (b : Nat) (k : Nat) : ((Act.attnSet b).run s).barsAt k = s.barsAt k := Act.attnSet_foot s w .bars k (by simp only [attnFoot, hostFoot, Foot.any_cons, Foot.any_nil, Foot.reg_iff, Foot.regFam_iff, Foot.range_iff, Foot.whole_iff, List.mem_cons, List.not_mem_nil, reduceCtorEq, false_and, false_or, or_false, or_self, not_false_eq_true])
theorem hounds_attnSet {s : State} (w : s.Wf) (b : Nat) (k : Nat) : ((Act.attnSet b).run s).houndsAt k = s.houndsAt k := Act.attnSet_foot s w .hounds k (by simp only [attnFoot, hostFoot, Foot.any_cons, Foot.any_nil, Foot.reg_iff, Foot.regFam_iff, Foot.range_iff, Foot.whole_iff, List.mem_cons, List.not_mem_nil, reduceCtorEq, false_and, false_or, or_false, or_self, not_false_eq_true])
theorem samp_attnSet {s : State} (w : s.Wf) (b : Nat) (k : Nat) : ((Act.attnSet b).run s).sampAt k = s.sampAt k := Act.attnSet_foot s w .samp k (by simp only [attnFoot, hostFoot, Foot.any_cons, Foot.any_nil, Foot.reg_iff, Foot.regFam_iff, Foot.range_iff, Foot.whole_iff, List.mem_cons, List.not_mem_nil, reduceCtorEq, false_and, false_or, or_false, or_self, not_false_eq_true])
theorem cells_attnSet {s : State} (w : s.Wf) (b : Nat) (k : Nat) : ((Act.attnSet b).run s).cellsAt k = s.cellsAt k := Act.attnSet_foot s w .cells k (by simp only [attnFoot, hostFoot, Foot.any_cons, Foot.any_nil, Foot.reg_iff, Foot.regFam_iff, Foot.range_iff, Foot.whole_iff, List.mem_cons, List.not_mem_nil, reduceCtorEq, false_and, false_or, or_false, or_self, not_false_eq_true])
theorem cjobs_attnSet {s : State} (w : s.Wf) (b : Nat) (k : Nat) : ((Act.attnSet b).run s).cjobsAt k = s.cjobsAt k := Act.attnSet_foot s w .cjobs k (by simp only [attnFoot, hostFoot, Foot.any_cons, Foot.any_nil, Foot.reg_iff, Foot.regFam_iff, Foot.range_iff, Foot.whole_iff, List.mem_cons, List.not_mem_nil, reduceCtorEq, false_and, false_or, or_false, or_self, not_false_eq_true])
theorem dsps_attnSet {s : State} (w : s.Wf) (b : Nat) (k : Nat) : ((Act.attnSet b).run s).dspsAt k = s.dspsAt k := Act.attnSet_foot s w .dsps k (by simp only [attnFoot, hostFoot, Foot.any_cons, Foot.any_nil, Foot.reg_iff, Foot.regFam_iff, Foot.range_iff, Foot.whole_iff, List.mem_cons, List.not_mem_nil, reduceCtorEq, false_and, false_or, or_false, or_self, not_false_eq_true])
theorem dspMem_attnSet {s : State} (w : s.Wf) (b : Nat) (k : Nat) : ((Act.attnSet b).run s).dspMemAt k = s.dspMemAt k := Act.attnSet_foot s w .dspMem k (by simp only [attnFoot, hostFoot, Foot.any_cons, Foot.any_nil, Foot.reg_iff, Foot.regFam_iff, Foot.range_iff, Foot.whole_iff, List.mem_cons, List.not_mem_nil, reduceCtorEq, false_and, false_or, or_false, or_self, not_false_eq_true])
theorem dspP_attnSet {s : State} (w : s.Wf) (b : Nat) (k : Nat) : ((Act.attnSet b).run s).dspPAt k = s.dspPAt k := Act.attnSet_foot s w .dspP k (by simp only [attnFoot, hostFoot, Foot.any_cons, Foot.any_nil, Foot.reg_iff, Foot.regFam_iff, Foot.range_iff, Foot.whole_iff, List.mem_cons, List.not_mem_nil, reduceCtorEq, false_and, false_or, or_false, or_self, not_false_eq_true])
theorem dets_attnSet {s : State} (w : s.Wf) (b : Nat) (k : Nat) : ((Act.attnSet b).run s).detsAt k = s.detsAt k := Act.attnSet_foot s w .dets k (by simp only [attnFoot, hostFoot, Foot.any_cons, Foot.any_nil, Foot.reg_iff, Foot.regFam_iff, Foot.range_iff, Foot.whole_iff, List.mem_cons, List.not_mem_nil, reduceCtorEq, false_and, false_or, or_false, or_self, not_false_eq_true])
theorem dumps_attnSet {s : State} (w : s.Wf) (b : Nat) (k : Nat) : ((Act.attnSet b).run s).dumpsAt k = s.dumpsAt k := Act.attnSet_foot s w .dumps k (by simp only [attnFoot, hostFoot, Foot.any_cons, Foot.any_nil, Foot.reg_iff, Foot.regFam_iff, Foot.range_iff, Foot.whole_iff, List.mem_cons, List.not_mem_nil, reduceCtorEq, false_and, false_or, or_false, or_self, not_false_eq_true])
theorem clk_attnSet {s : State} (w : s.Wf) (b : Nat) : ((Act.attnSet b).run s).clk = s.clk := Act.attnSet_foot s w .clk 0 (by simp only [attnFoot, hostFoot, Foot.any_cons, Foot.any_nil, Foot.reg_iff, Foot.regFam_iff, Foot.range_iff, Foot.whole_iff, List.mem_cons, List.not_mem_nil, reduceCtorEq, false_and, false_or, or_false, or_self, not_false_eq_true])
theorem recd_attnSet {s : State} (w : s.Wf) (b : Nat) : ((Act.attnSet b).run s).recd = s.recd := Act.attnSet_foot s w .recd 0 (by simp only [attnFoot, hostFoot, Foot.any_cons, Foot.any_nil, Foot.reg_iff, Foot.regFam_iff, Foot.range_iff, Foot.whole_iff, List.mem_cons, List.not_mem_nil, reduceCtorEq, false_and, false_or, or_false, or_self, not_false_eq_true])
theorem linkOn_attnSet {s : State} (w : s.Wf) (b : Nat) : ((Act.attnSet b).run s).linkOn = s.linkOn := Act.attnSet_foot s w .linkOn 0 (by simp only [attnFoot, hostFoot, Foot.any_cons, Foot.any_nil, Foot.reg_iff, Foot.regFam_iff, Foot.range_iff, Foot.whole_iff, List.mem_cons, List.not_mem_nil, reduceCtorEq, false_and, false_or, or_false, or_self, not_false_eq_true])
theorem failed_attnSet {s : State} (w : s.Wf) (b : Nat) : ((Act.attnSet b).run s).failed = s.failed := Act.attnSet_foot s w .failed 0 (by simp only [attnFoot, hostFoot, Foot.any_cons, Foot.any_nil, Foot.reg_iff, Foot.regFam_iff, Foot.range_iff, Foot.whole_iff, List.mem_cons, List.not_mem_nil, reduceCtorEq, false_and, false_or, or_false, or_self, not_false_eq_true])
theorem lpAct0_attnSet {s : State} (w : s.Wf) (b : Nat) : ((Act.attnSet b).run s).lpAct0 = s.lpAct0 := Act.attnSet_foot s w .lpAct0 0 (by simp only [attnFoot, hostFoot, Foot.any_cons, Foot.any_nil, Foot.reg_iff, Foot.regFam_iff, Foot.range_iff, Foot.whole_iff, List.mem_cons, List.not_mem_nil, reduceCtorEq, false_and, false_or, or_false, or_self, not_false_eq_true])
theorem lpAct1_attnSet {s : State} (w : s.Wf) (b : Nat) : ((Act.attnSet b).run s).lpAct1 = s.lpAct1 := Act.attnSet_foot s w .lpAct1 0 (by simp only [attnFoot, hostFoot, Foot.any_cons, Foot.any_nil, Foot.reg_iff, Foot.regFam_iff, Foot.range_iff, Foot.whole_iff, List.mem_cons, List.not_mem_nil, reduceCtorEq, false_and, false_or, or_false, or_self, not_false_eq_true])
theorem sigq_attnSet {s : State} (w : s.Wf) (b : Nat) : ((Act.attnSet b).run s).sigq = s.sigq := Act.attnSet_foot s w .sigq 0 (by simp only [attnFoot, hostFoot, Foot.any_cons, Foot.any_nil, Foot.reg_iff, Foot.regFam_iff, Foot.range_iff, Foot.whole_iff, List.mem_cons, List.not_mem_nil, reduceCtorEq, false_and, false_or, or_false, or_self, not_false_eq_true])
theorem convq_attnSet {s : State} (w : s.Wf) (b : Nat) : ((Act.attnSet b).run s).convq = s.convq := Act.attnSet_foot s w .convq 0 (by simp only [attnFoot, hostFoot, Foot.any_cons, Foot.any_nil, Foot.reg_iff, Foot.regFam_iff, Foot.range_iff, Foot.whole_iff, List.mem_cons, List.not_mem_nil, reduceCtorEq, false_and, false_or, or_false, or_self, not_false_eq_true])
theorem flash_attnSet {s : State} (w : s.Wf) (b : Nat) : ((Act.attnSet b).run s).flash = s.flash := Act.attnSet_foot s w .flash 0 (by simp only [attnFoot, hostFoot, Foot.any_cons, Foot.any_nil, Foot.reg_iff, Foot.regFam_iff, Foot.range_iff, Foot.whole_iff, List.mem_cons, List.not_mem_nil, reduceCtorEq, false_and, false_or, or_false, or_self, not_false_eq_true])
theorem arrives_attnSet {s : State} (w : s.Wf) (b : Nat) : ((Act.attnSet b).run s).arrives = s.arrives := Act.attnSet_foot s w .arrives 0 (by simp only [attnFoot, hostFoot, Foot.any_cons, Foot.any_nil, Foot.reg_iff, Foot.regFam_iff, Foot.range_iff, Foot.whole_iff, List.mem_cons, List.not_mem_nil, reduceCtorEq, false_and, false_or, or_false, or_self, not_false_eq_true])
theorem held_attnSet {s : State} (w : s.Wf) (b : Nat) : ((Act.attnSet b).run s).held = s.held := Act.attnSet_foot s w .held 0 (by simp only [attnFoot, hostFoot, Foot.any_cons, Foot.any_nil, Foot.reg_iff, Foot.regFam_iff, Foot.range_iff, Foot.whole_iff, List.mem_cons, List.not_mem_nil, reduceCtorEq, false_and, false_or, or_false, or_self, not_false_eq_true])
theorem heldCode_attnSet {s : State} (w : s.Wf) (b : Nat) : ((Act.attnSet b).run s).heldCode = s.heldCode := Act.attnSet_foot s w .heldCode 0 (by simp only [attnFoot, hostFoot, Foot.any_cons, Foot.any_nil, Foot.reg_iff, Foot.regFam_iff, Foot.range_iff, Foot.whole_iff, List.mem_cons, List.not_mem_nil, reduceCtorEq, false_and, false_or, or_false, or_self, not_false_eq_true])
theorem pairs_attnSet {s : State} (w : s.Wf) (b : Nat) : ((Act.attnSet b).run s).pairs = s.pairs := Act.attnSet_foot s w .pairs 0 (by simp only [attnFoot, hostFoot, Foot.any_cons, Foot.any_nil, Foot.reg_iff, Foot.regFam_iff, Foot.range_iff, Foot.whole_iff, List.mem_cons, List.not_mem_nil, reduceCtorEq, false_and, false_or, or_false, or_self, not_false_eq_true])
theorem radio_attnSet {s : State} (w : s.Wf) (b : Nat) : ((Act.attnSet b).run s).radio = s.radio := Act.attnSet_foot s w .radio 0 (by simp only [attnFoot, hostFoot, Foot.any_cons, Foot.any_nil, Foot.reg_iff, Foot.regFam_iff, Foot.range_iff, Foot.whole_iff, List.mem_cons, List.not_mem_nil, reduceCtorEq, false_and, false_or, or_false, or_self, not_false_eq_true])
theorem time_attnSet {s : State} (w : s.Wf) (b : Nat) : ((Act.attnSet b).run s).time = s.time := Act.attnSet_foot s w .time 0 (by simp only [attnFoot, hostFoot, Foot.any_cons, Foot.any_nil, Foot.reg_iff, Foot.regFam_iff, Foot.range_iff, Foot.whole_iff, List.mem_cons, List.not_mem_nil, reduceCtorEq, false_and, false_or, or_false, or_self, not_false_eq_true])
theorem last_attnSet {s : State} (w : s.Wf) (b : Nat) : ((Act.attnSet b).run s).last = s.last := Act.attnSet_foot s w .last 0 (by simp only [attnFoot, hostFoot, Foot.any_cons, Foot.any_nil, Foot.reg_iff, Foot.regFam_iff, Foot.range_iff, Foot.whole_iff, List.mem_cons, List.not_mem_nil, reduceCtorEq, false_and, false_or, or_false, or_self, not_false_eq_true])
theorem sys_attnSet {s : State} (w : s.Wf) (b : Nat) : ((Act.attnSet b).run s).sys = s.sys := Act.attnSet_foot s w .sys 0 (by simp only [attnFoot, hostFoot, Foot.any_cons, Foot.any_nil, Foot.reg_iff, Foot.regFam_iff, Foot.range_iff, Foot.whole_iff, List.mem_cons, List.not_mem_nil, reduceCtorEq, false_and, false_or, or_false, or_self, not_false_eq_true])
theorem free_attnSet {s : State} (w : s.Wf) (b : Nat) : ((Act.attnSet b).run s).free = s.free := Act.attnSet_foot s w .free 0 (by simp only [attnFoot, hostFoot, Foot.any_cons, Foot.any_nil, Foot.reg_iff, Foot.regFam_iff, Foot.range_iff, Foot.whole_iff, List.mem_cons, List.not_mem_nil, reduceCtorEq, false_and, false_or, or_false, or_self, not_false_eq_true])
theorem mem_record {s : State} (w : s.Wf) (src part code : Nat) (p : List Word) (k : Nat) : ((Act.record src part code p).run s).memAt k = s.memAt k := Act.record_foot s w .mem k (by simp only [recFoot, hostFoot, Foot.any_cons, Foot.any_nil, Foot.reg_iff, Foot.regFam_iff, Foot.range_iff, Foot.whole_iff, List.mem_cons, List.not_mem_nil, reduceCtorEq, false_and, false_or, or_false, or_self, not_false_eq_true])
theorem errs_record {s : State} (w : s.Wf) (src part code : Nat) (p : List Word) (k : Nat) : ((Act.record src part code p).run s).errsAt k = s.errsAt k := Act.record_foot s w .errs k (by simp only [recFoot, hostFoot, Foot.any_cons, Foot.any_nil, Foot.reg_iff, Foot.regFam_iff, Foot.range_iff, Foot.whole_iff, List.mem_cons, List.not_mem_nil, reduceCtorEq, false_and, false_or, or_false, or_self, not_false_eq_true])
theorem lpErr_record {s : State} (w : s.Wf) (src part code : Nat) (p : List Word) (k : Nat) : ((Act.record src part code p).run s).lpErrAt k = s.lpErrAt k := Act.record_foot s w .lpErr k (by simp only [recFoot, hostFoot, Foot.any_cons, Foot.any_nil, Foot.reg_iff, Foot.regFam_iff, Foot.range_iff, Foot.whole_iff, List.mem_cons, List.not_mem_nil, reduceCtorEq, false_and, false_or, or_false, or_self, not_false_eq_true])
theorem chUe_record {s : State} (w : s.Wf) (src part code : Nat) (p : List Word) (k : Nat) : ((Act.record src part code p).run s).chUeAt k = s.chUeAt k := Act.record_foot s w .chUe k (by simp only [recFoot, hostFoot, Foot.any_cons, Foot.any_nil, Foot.reg_iff, Foot.regFam_iff, Foot.range_iff, Foot.whole_iff, List.mem_cons, List.not_mem_nil, reduceCtorEq, false_and, false_or, or_false, or_self, not_false_eq_true])
theorem store_record {s : State} (w : s.Wf) (src part code : Nat) (p : List Word) (k : Nat) : ((Act.record src part code p).run s).storeAt k = s.storeAt k := Act.record_foot s w .store k (by simp only [recFoot, hostFoot, Foot.any_cons, Foot.any_nil, Foot.reg_iff, Foot.regFam_iff, Foot.range_iff, Foot.whole_iff, List.mem_cons, List.not_mem_nil, reduceCtorEq, false_and, false_or, or_false, or_self, not_false_eq_true])
theorem acc_record {s : State} (w : s.Wf) (src part code : Nat) (p : List Word) (k : Nat) : ((Act.record src part code p).run s).accAt k = s.accAt k := Act.record_foot s w .acc k (by simp only [recFoot, hostFoot, Foot.any_cons, Foot.any_nil, Foot.reg_iff, Foot.regFam_iff, Foot.range_iff, Foot.whole_iff, List.mem_cons, List.not_mem_nil, reduceCtorEq, false_and, false_or, or_false, or_self, not_false_eq_true])
theorem anchors_record {s : State} (w : s.Wf) (src part code : Nat) (p : List Word) (k : Nat) : ((Act.record src part code p).run s).anchorsAt k = s.anchorsAt k := Act.record_foot s w .anchors k (by simp only [recFoot, hostFoot, Foot.any_cons, Foot.any_nil, Foot.reg_iff, Foot.regFam_iff, Foot.range_iff, Foot.whole_iff, List.mem_cons, List.not_mem_nil, reduceCtorEq, false_and, false_or, or_false, or_self, not_false_eq_true])
theorem pend_record {s : State} (w : s.Wf) (src part code : Nat) (p : List Word) (k : Nat) : ((Act.record src part code p).run s).pendAt k = s.pendAt k := Act.record_foot s w .pend k (by simp only [recFoot, hostFoot, Foot.any_cons, Foot.any_nil, Foot.reg_iff, Foot.regFam_iff, Foot.range_iff, Foot.whole_iff, List.mem_cons, List.not_mem_nil, reduceCtorEq, false_and, false_or, or_false, or_self, not_false_eq_true])
theorem vreg_record {s : State} (w : s.Wf) (src part code : Nat) (p : List Word) (k : Nat) : ((Act.record src part code p).run s).vregAt k = s.vregAt k := Act.record_foot s w .vreg k (by simp only [recFoot, hostFoot, Foot.any_cons, Foot.any_nil, Foot.reg_iff, Foot.regFam_iff, Foot.range_iff, Foot.whole_iff, List.mem_cons, List.not_mem_nil, reduceCtorEq, false_and, false_or, or_false, or_self, not_false_eq_true])
theorem ctxs_record {s : State} (w : s.Wf) (src part code : Nat) (p : List Word) (k : Nat) : ((Act.record src part code p).run s).ctxsAt k = s.ctxsAt k := Act.record_foot s w .ctxs k (by simp only [recFoot, hostFoot, Foot.any_cons, Foot.any_nil, Foot.reg_iff, Foot.regFam_iff, Foot.range_iff, Foot.whole_iff, List.mem_cons, List.not_mem_nil, reduceCtorEq, false_and, false_or, or_false, or_self, not_false_eq_true])
theorem arrs_record {s : State} (w : s.Wf) (src part code : Nat) (p : List Word) (k : Nat) : ((Act.record src part code p).run s).arrsAt k = s.arrsAt k := Act.record_foot s w .arrs k (by simp only [recFoot, hostFoot, Foot.any_cons, Foot.any_nil, Foot.reg_iff, Foot.regFam_iff, Foot.range_iff, Foot.whole_iff, List.mem_cons, List.not_mem_nil, reduceCtorEq, false_and, false_or, or_false, or_self, not_false_eq_true])
theorem parts_record {s : State} (w : s.Wf) (src part code : Nat) (p : List Word) (k : Nat) : ((Act.record src part code p).run s).partsAt k = s.partsAt k := Act.record_foot s w .parts k (by simp only [recFoot, hostFoot, Foot.any_cons, Foot.any_nil, Foot.reg_iff, Foot.regFam_iff, Foot.range_iff, Foot.whole_iff, List.mem_cons, List.not_mem_nil, reduceCtorEq, false_and, false_or, or_false, or_self, not_false_eq_true])
theorem vecTurn_record {s : State} (w : s.Wf) (src part code : Nat) (p : List Word) (k : Nat) : ((Act.record src part code p).run s).vecTurnAt k = s.vecTurnAt k := Act.record_foot s w .vecTurn k (by simp only [recFoot, hostFoot, Foot.any_cons, Foot.any_nil, Foot.reg_iff, Foot.regFam_iff, Foot.range_iff, Foot.whole_iff, List.mem_cons, List.not_mem_nil, reduceCtorEq, false_and, false_or, or_false, or_self, not_false_eq_true])
theorem health_record {s : State} (w : s.Wf) (src part code : Nat) (p : List Word) (k : Nat) : ((Act.record src part code p).run s).healthAt k = s.healthAt k := Act.record_foot s w .health k (by simp only [recFoot, hostFoot, Foot.any_cons, Foot.any_nil, Foot.reg_iff, Foot.regFam_iff, Foot.range_iff, Foot.whole_iff, List.mem_cons, List.not_mem_nil, reduceCtorEq, false_and, false_or, or_false, or_self, not_false_eq_true])
theorem engs_record {s : State} (w : s.Wf) (src part code : Nat) (p : List Word) (k : Nat) : ((Act.record src part code p).run s).engsAt k = s.engsAt k := Act.record_foot s w .engs k (by simp only [recFoot, hostFoot, Foot.any_cons, Foot.any_nil, Foot.reg_iff, Foot.regFam_iff, Foot.range_iff, Foot.whole_iff, List.mem_cons, List.not_mem_nil, reduceCtorEq, false_and, false_or, or_false, or_self, not_false_eq_true])
theorem conns_record {s : State} (w : s.Wf) (src part code : Nat) (p : List Word) (k : Nat) : ((Act.record src part code p).run s).connsAt k = s.connsAt k := Act.record_foot s w .conns k (by simp only [recFoot, hostFoot, Foot.any_cons, Foot.any_nil, Foot.reg_iff, Foot.regFam_iff, Foot.range_iff, Foot.whole_iff, List.mem_cons, List.not_mem_nil, reduceCtorEq, false_and, false_or, or_false, or_self, not_false_eq_true])
theorem bars_record {s : State} (w : s.Wf) (src part code : Nat) (p : List Word) (k : Nat) : ((Act.record src part code p).run s).barsAt k = s.barsAt k := Act.record_foot s w .bars k (by simp only [recFoot, hostFoot, Foot.any_cons, Foot.any_nil, Foot.reg_iff, Foot.regFam_iff, Foot.range_iff, Foot.whole_iff, List.mem_cons, List.not_mem_nil, reduceCtorEq, false_and, false_or, or_false, or_self, not_false_eq_true])
theorem hounds_record {s : State} (w : s.Wf) (src part code : Nat) (p : List Word) (k : Nat) : ((Act.record src part code p).run s).houndsAt k = s.houndsAt k := Act.record_foot s w .hounds k (by simp only [recFoot, hostFoot, Foot.any_cons, Foot.any_nil, Foot.reg_iff, Foot.regFam_iff, Foot.range_iff, Foot.whole_iff, List.mem_cons, List.not_mem_nil, reduceCtorEq, false_and, false_or, or_false, or_self, not_false_eq_true])
theorem samp_record {s : State} (w : s.Wf) (src part code : Nat) (p : List Word) (k : Nat) : ((Act.record src part code p).run s).sampAt k = s.sampAt k := Act.record_foot s w .samp k (by simp only [recFoot, hostFoot, Foot.any_cons, Foot.any_nil, Foot.reg_iff, Foot.regFam_iff, Foot.range_iff, Foot.whole_iff, List.mem_cons, List.not_mem_nil, reduceCtorEq, false_and, false_or, or_false, or_self, not_false_eq_true])
theorem cells_record {s : State} (w : s.Wf) (src part code : Nat) (p : List Word) (k : Nat) : ((Act.record src part code p).run s).cellsAt k = s.cellsAt k := Act.record_foot s w .cells k (by simp only [recFoot, hostFoot, Foot.any_cons, Foot.any_nil, Foot.reg_iff, Foot.regFam_iff, Foot.range_iff, Foot.whole_iff, List.mem_cons, List.not_mem_nil, reduceCtorEq, false_and, false_or, or_false, or_self, not_false_eq_true])
theorem cjobs_record {s : State} (w : s.Wf) (src part code : Nat) (p : List Word) (k : Nat) : ((Act.record src part code p).run s).cjobsAt k = s.cjobsAt k := Act.record_foot s w .cjobs k (by simp only [recFoot, hostFoot, Foot.any_cons, Foot.any_nil, Foot.reg_iff, Foot.regFam_iff, Foot.range_iff, Foot.whole_iff, List.mem_cons, List.not_mem_nil, reduceCtorEq, false_and, false_or, or_false, or_self, not_false_eq_true])
theorem dsps_record {s : State} (w : s.Wf) (src part code : Nat) (p : List Word) (k : Nat) : ((Act.record src part code p).run s).dspsAt k = s.dspsAt k := Act.record_foot s w .dsps k (by simp only [recFoot, hostFoot, Foot.any_cons, Foot.any_nil, Foot.reg_iff, Foot.regFam_iff, Foot.range_iff, Foot.whole_iff, List.mem_cons, List.not_mem_nil, reduceCtorEq, false_and, false_or, or_false, or_self, not_false_eq_true])
theorem dspMem_record {s : State} (w : s.Wf) (src part code : Nat) (p : List Word) (k : Nat) : ((Act.record src part code p).run s).dspMemAt k = s.dspMemAt k := Act.record_foot s w .dspMem k (by simp only [recFoot, hostFoot, Foot.any_cons, Foot.any_nil, Foot.reg_iff, Foot.regFam_iff, Foot.range_iff, Foot.whole_iff, List.mem_cons, List.not_mem_nil, reduceCtorEq, false_and, false_or, or_false, or_self, not_false_eq_true])
theorem dspP_record {s : State} (w : s.Wf) (src part code : Nat) (p : List Word) (k : Nat) : ((Act.record src part code p).run s).dspPAt k = s.dspPAt k := Act.record_foot s w .dspP k (by simp only [recFoot, hostFoot, Foot.any_cons, Foot.any_nil, Foot.reg_iff, Foot.regFam_iff, Foot.range_iff, Foot.whole_iff, List.mem_cons, List.not_mem_nil, reduceCtorEq, false_and, false_or, or_false, or_self, not_false_eq_true])
theorem dets_record {s : State} (w : s.Wf) (src part code : Nat) (p : List Word) (k : Nat) : ((Act.record src part code p).run s).detsAt k = s.detsAt k := Act.record_foot s w .dets k (by simp only [recFoot, hostFoot, Foot.any_cons, Foot.any_nil, Foot.reg_iff, Foot.regFam_iff, Foot.range_iff, Foot.whole_iff, List.mem_cons, List.not_mem_nil, reduceCtorEq, false_and, false_or, or_false, or_self, not_false_eq_true])
theorem dumps_record {s : State} (w : s.Wf) (src part code : Nat) (p : List Word) (k : Nat) : ((Act.record src part code p).run s).dumpsAt k = s.dumpsAt k := Act.record_foot s w .dumps k (by simp only [recFoot, hostFoot, Foot.any_cons, Foot.any_nil, Foot.reg_iff, Foot.regFam_iff, Foot.range_iff, Foot.whole_iff, List.mem_cons, List.not_mem_nil, reduceCtorEq, false_and, false_or, or_false, or_self, not_false_eq_true])
theorem clk_record {s : State} (w : s.Wf) (src part code : Nat) (p : List Word) : ((Act.record src part code p).run s).clk = s.clk := Act.record_foot s w .clk 0 (by simp only [recFoot, hostFoot, Foot.any_cons, Foot.any_nil, Foot.reg_iff, Foot.regFam_iff, Foot.range_iff, Foot.whole_iff, List.mem_cons, List.not_mem_nil, reduceCtorEq, false_and, false_or, or_false, or_self, not_false_eq_true])
theorem linkOn_record {s : State} (w : s.Wf) (src part code : Nat) (p : List Word) : ((Act.record src part code p).run s).linkOn = s.linkOn := Act.record_foot s w .linkOn 0 (by simp only [recFoot, hostFoot, Foot.any_cons, Foot.any_nil, Foot.reg_iff, Foot.regFam_iff, Foot.range_iff, Foot.whole_iff, List.mem_cons, List.not_mem_nil, reduceCtorEq, false_and, false_or, or_false, or_self, not_false_eq_true])
theorem failed_record {s : State} (w : s.Wf) (src part code : Nat) (p : List Word) : ((Act.record src part code p).run s).failed = s.failed := Act.record_foot s w .failed 0 (by simp only [recFoot, hostFoot, Foot.any_cons, Foot.any_nil, Foot.reg_iff, Foot.regFam_iff, Foot.range_iff, Foot.whole_iff, List.mem_cons, List.not_mem_nil, reduceCtorEq, false_and, false_or, or_false, or_self, not_false_eq_true])
theorem lpAct0_record {s : State} (w : s.Wf) (src part code : Nat) (p : List Word) : ((Act.record src part code p).run s).lpAct0 = s.lpAct0 := Act.record_foot s w .lpAct0 0 (by simp only [recFoot, hostFoot, Foot.any_cons, Foot.any_nil, Foot.reg_iff, Foot.regFam_iff, Foot.range_iff, Foot.whole_iff, List.mem_cons, List.not_mem_nil, reduceCtorEq, false_and, false_or, or_false, or_self, not_false_eq_true])
theorem lpAct1_record {s : State} (w : s.Wf) (src part code : Nat) (p : List Word) : ((Act.record src part code p).run s).lpAct1 = s.lpAct1 := Act.record_foot s w .lpAct1 0 (by simp only [recFoot, hostFoot, Foot.any_cons, Foot.any_nil, Foot.reg_iff, Foot.regFam_iff, Foot.range_iff, Foot.whole_iff, List.mem_cons, List.not_mem_nil, reduceCtorEq, false_and, false_or, or_false, or_self, not_false_eq_true])
theorem sigq_record {s : State} (w : s.Wf) (src part code : Nat) (p : List Word) : ((Act.record src part code p).run s).sigq = s.sigq := Act.record_foot s w .sigq 0 (by simp only [recFoot, hostFoot, Foot.any_cons, Foot.any_nil, Foot.reg_iff, Foot.regFam_iff, Foot.range_iff, Foot.whole_iff, List.mem_cons, List.not_mem_nil, reduceCtorEq, false_and, false_or, or_false, or_self, not_false_eq_true])
theorem convq_record {s : State} (w : s.Wf) (src part code : Nat) (p : List Word) : ((Act.record src part code p).run s).convq = s.convq := Act.record_foot s w .convq 0 (by simp only [recFoot, hostFoot, Foot.any_cons, Foot.any_nil, Foot.reg_iff, Foot.regFam_iff, Foot.range_iff, Foot.whole_iff, List.mem_cons, List.not_mem_nil, reduceCtorEq, false_and, false_or, or_false, or_self, not_false_eq_true])
theorem flash_record {s : State} (w : s.Wf) (src part code : Nat) (p : List Word) : ((Act.record src part code p).run s).flash = s.flash := Act.record_foot s w .flash 0 (by simp only [recFoot, hostFoot, Foot.any_cons, Foot.any_nil, Foot.reg_iff, Foot.regFam_iff, Foot.range_iff, Foot.whole_iff, List.mem_cons, List.not_mem_nil, reduceCtorEq, false_and, false_or, or_false, or_self, not_false_eq_true])
theorem arrives_record {s : State} (w : s.Wf) (src part code : Nat) (p : List Word) : ((Act.record src part code p).run s).arrives = s.arrives := Act.record_foot s w .arrives 0 (by simp only [recFoot, hostFoot, Foot.any_cons, Foot.any_nil, Foot.reg_iff, Foot.regFam_iff, Foot.range_iff, Foot.whole_iff, List.mem_cons, List.not_mem_nil, reduceCtorEq, false_and, false_or, or_false, or_self, not_false_eq_true])
theorem held_record {s : State} (w : s.Wf) (src part code : Nat) (p : List Word) : ((Act.record src part code p).run s).held = s.held := Act.record_foot s w .held 0 (by simp only [recFoot, hostFoot, Foot.any_cons, Foot.any_nil, Foot.reg_iff, Foot.regFam_iff, Foot.range_iff, Foot.whole_iff, List.mem_cons, List.not_mem_nil, reduceCtorEq, false_and, false_or, or_false, or_self, not_false_eq_true])
theorem heldCode_record {s : State} (w : s.Wf) (src part code : Nat) (p : List Word) : ((Act.record src part code p).run s).heldCode = s.heldCode := Act.record_foot s w .heldCode 0 (by simp only [recFoot, hostFoot, Foot.any_cons, Foot.any_nil, Foot.reg_iff, Foot.regFam_iff, Foot.range_iff, Foot.whole_iff, List.mem_cons, List.not_mem_nil, reduceCtorEq, false_and, false_or, or_false, or_self, not_false_eq_true])
theorem pairs_record {s : State} (w : s.Wf) (src part code : Nat) (p : List Word) : ((Act.record src part code p).run s).pairs = s.pairs := Act.record_foot s w .pairs 0 (by simp only [recFoot, hostFoot, Foot.any_cons, Foot.any_nil, Foot.reg_iff, Foot.regFam_iff, Foot.range_iff, Foot.whole_iff, List.mem_cons, List.not_mem_nil, reduceCtorEq, false_and, false_or, or_false, or_self, not_false_eq_true])
theorem radio_record {s : State} (w : s.Wf) (src part code : Nat) (p : List Word) : ((Act.record src part code p).run s).radio = s.radio := Act.record_foot s w .radio 0 (by simp only [recFoot, hostFoot, Foot.any_cons, Foot.any_nil, Foot.reg_iff, Foot.regFam_iff, Foot.range_iff, Foot.whole_iff, List.mem_cons, List.not_mem_nil, reduceCtorEq, false_and, false_or, or_false, or_self, not_false_eq_true])
theorem time_record {s : State} (w : s.Wf) (src part code : Nat) (p : List Word) : ((Act.record src part code p).run s).time = s.time := Act.record_foot s w .time 0 (by simp only [recFoot, hostFoot, Foot.any_cons, Foot.any_nil, Foot.reg_iff, Foot.regFam_iff, Foot.range_iff, Foot.whole_iff, List.mem_cons, List.not_mem_nil, reduceCtorEq, false_and, false_or, or_false, or_self, not_false_eq_true])
theorem last_record {s : State} (w : s.Wf) (src part code : Nat) (p : List Word) : ((Act.record src part code p).run s).last = s.last := Act.record_foot s w .last 0 (by simp only [recFoot, hostFoot, Foot.any_cons, Foot.any_nil, Foot.reg_iff, Foot.regFam_iff, Foot.range_iff, Foot.whole_iff, List.mem_cons, List.not_mem_nil, reduceCtorEq, false_and, false_or, or_false, or_self, not_false_eq_true])
theorem sys_record {s : State} (w : s.Wf) (src part code : Nat) (p : List Word) : ((Act.record src part code p).run s).sys = s.sys := Act.record_foot s w .sys 0 (by simp only [recFoot, hostFoot, Foot.any_cons, Foot.any_nil, Foot.reg_iff, Foot.regFam_iff, Foot.range_iff, Foot.whole_iff, List.mem_cons, List.not_mem_nil, reduceCtorEq, false_and, false_or, or_false, or_self, not_false_eq_true])
theorem free_record {s : State} (w : s.Wf) (src part code : Nat) (p : List Word) : ((Act.record src part code p).run s).free = s.free := Act.record_foot s w .free 0 (by simp only [recFoot, hostFoot, Foot.any_cons, Foot.any_nil, Foot.reg_iff, Foot.regFam_iff, Foot.range_iff, Foot.whole_iff, List.mem_cons, List.not_mem_nil, reduceCtorEq, false_and, false_or, or_false, or_self, not_false_eq_true])
theorem mem_violation {s : State} (w : s.Wf) (part kind : Nat) (k : Nat) : ((Act.violation part kind).run s).memAt k = s.memAt k := Act.violation_foot s w .mem k (by simp only [violFoot, recFoot, hostFoot, Foot.any_cons, Foot.any_nil, Foot.reg_iff, Foot.regFam_iff, Foot.range_iff, Foot.whole_iff, List.mem_cons, List.not_mem_nil, reduceCtorEq, false_and, false_or, or_false, or_self, not_false_eq_true])
theorem errs_violation {s : State} (w : s.Wf) (part kind : Nat) (k : Nat) : ((Act.violation part kind).run s).errsAt k = s.errsAt k := Act.violation_foot s w .errs k (by simp only [violFoot, recFoot, hostFoot, Foot.any_cons, Foot.any_nil, Foot.reg_iff, Foot.regFam_iff, Foot.range_iff, Foot.whole_iff, List.mem_cons, List.not_mem_nil, reduceCtorEq, false_and, false_or, or_false, or_self, not_false_eq_true])
theorem lpErr_violation {s : State} (w : s.Wf) (part kind : Nat) (k : Nat) : ((Act.violation part kind).run s).lpErrAt k = s.lpErrAt k := Act.violation_foot s w .lpErr k (by simp only [violFoot, recFoot, hostFoot, Foot.any_cons, Foot.any_nil, Foot.reg_iff, Foot.regFam_iff, Foot.range_iff, Foot.whole_iff, List.mem_cons, List.not_mem_nil, reduceCtorEq, false_and, false_or, or_false, or_self, not_false_eq_true])
theorem chUe_violation {s : State} (w : s.Wf) (part kind : Nat) (k : Nat) : ((Act.violation part kind).run s).chUeAt k = s.chUeAt k := Act.violation_foot s w .chUe k (by simp only [violFoot, recFoot, hostFoot, Foot.any_cons, Foot.any_nil, Foot.reg_iff, Foot.regFam_iff, Foot.range_iff, Foot.whole_iff, List.mem_cons, List.not_mem_nil, reduceCtorEq, false_and, false_or, or_false, or_self, not_false_eq_true])
theorem store_violation {s : State} (w : s.Wf) (part kind : Nat) (k : Nat) : ((Act.violation part kind).run s).storeAt k = s.storeAt k := Act.violation_foot s w .store k (by simp only [violFoot, recFoot, hostFoot, Foot.any_cons, Foot.any_nil, Foot.reg_iff, Foot.regFam_iff, Foot.range_iff, Foot.whole_iff, List.mem_cons, List.not_mem_nil, reduceCtorEq, false_and, false_or, or_false, or_self, not_false_eq_true])
theorem acc_violation {s : State} (w : s.Wf) (part kind : Nat) (k : Nat) : ((Act.violation part kind).run s).accAt k = s.accAt k := Act.violation_foot s w .acc k (by simp only [violFoot, recFoot, hostFoot, Foot.any_cons, Foot.any_nil, Foot.reg_iff, Foot.regFam_iff, Foot.range_iff, Foot.whole_iff, List.mem_cons, List.not_mem_nil, reduceCtorEq, false_and, false_or, or_false, or_self, not_false_eq_true])
theorem anchors_violation {s : State} (w : s.Wf) (part kind : Nat) (k : Nat) : ((Act.violation part kind).run s).anchorsAt k = s.anchorsAt k := Act.violation_foot s w .anchors k (by simp only [violFoot, recFoot, hostFoot, Foot.any_cons, Foot.any_nil, Foot.reg_iff, Foot.regFam_iff, Foot.range_iff, Foot.whole_iff, List.mem_cons, List.not_mem_nil, reduceCtorEq, false_and, false_or, or_false, or_self, not_false_eq_true])
theorem pend_violation {s : State} (w : s.Wf) (part kind : Nat) (k : Nat) : ((Act.violation part kind).run s).pendAt k = s.pendAt k := Act.violation_foot s w .pend k (by simp only [violFoot, recFoot, hostFoot, Foot.any_cons, Foot.any_nil, Foot.reg_iff, Foot.regFam_iff, Foot.range_iff, Foot.whole_iff, List.mem_cons, List.not_mem_nil, reduceCtorEq, false_and, false_or, or_false, or_self, not_false_eq_true])
theorem vreg_violation {s : State} (w : s.Wf) (part kind : Nat) (k : Nat) : ((Act.violation part kind).run s).vregAt k = s.vregAt k := Act.violation_foot s w .vreg k (by simp only [violFoot, recFoot, hostFoot, Foot.any_cons, Foot.any_nil, Foot.reg_iff, Foot.regFam_iff, Foot.range_iff, Foot.whole_iff, List.mem_cons, List.not_mem_nil, reduceCtorEq, false_and, false_or, or_false, or_self, not_false_eq_true])
theorem ctxs_violation {s : State} (w : s.Wf) (part kind : Nat) (k : Nat) : ((Act.violation part kind).run s).ctxsAt k = s.ctxsAt k := Act.violation_foot s w .ctxs k (by simp only [violFoot, recFoot, hostFoot, Foot.any_cons, Foot.any_nil, Foot.reg_iff, Foot.regFam_iff, Foot.range_iff, Foot.whole_iff, List.mem_cons, List.not_mem_nil, reduceCtorEq, false_and, false_or, or_false, or_self, not_false_eq_true])
theorem arrs_violation {s : State} (w : s.Wf) (part kind : Nat) (k : Nat) : ((Act.violation part kind).run s).arrsAt k = s.arrsAt k := Act.violation_foot s w .arrs k (by simp only [violFoot, recFoot, hostFoot, Foot.any_cons, Foot.any_nil, Foot.reg_iff, Foot.regFam_iff, Foot.range_iff, Foot.whole_iff, List.mem_cons, List.not_mem_nil, reduceCtorEq, false_and, false_or, or_false, or_self, not_false_eq_true])
theorem parts_violation {s : State} (w : s.Wf) (part kind : Nat) (k : Nat) : ((Act.violation part kind).run s).partsAt k = s.partsAt k := Act.violation_foot s w .parts k (by simp only [violFoot, recFoot, hostFoot, Foot.any_cons, Foot.any_nil, Foot.reg_iff, Foot.regFam_iff, Foot.range_iff, Foot.whole_iff, List.mem_cons, List.not_mem_nil, reduceCtorEq, false_and, false_or, or_false, or_self, not_false_eq_true])
theorem vecTurn_violation {s : State} (w : s.Wf) (part kind : Nat) (k : Nat) : ((Act.violation part kind).run s).vecTurnAt k = s.vecTurnAt k := Act.violation_foot s w .vecTurn k (by simp only [violFoot, recFoot, hostFoot, Foot.any_cons, Foot.any_nil, Foot.reg_iff, Foot.regFam_iff, Foot.range_iff, Foot.whole_iff, List.mem_cons, List.not_mem_nil, reduceCtorEq, false_and, false_or, or_false, or_self, not_false_eq_true])
theorem health_violation {s : State} (w : s.Wf) (part kind : Nat) (k : Nat) : ((Act.violation part kind).run s).healthAt k = s.healthAt k := Act.violation_foot s w .health k (by simp only [violFoot, recFoot, hostFoot, Foot.any_cons, Foot.any_nil, Foot.reg_iff, Foot.regFam_iff, Foot.range_iff, Foot.whole_iff, List.mem_cons, List.not_mem_nil, reduceCtorEq, false_and, false_or, or_false, or_self, not_false_eq_true])
theorem engs_violation {s : State} (w : s.Wf) (part kind : Nat) (k : Nat) : ((Act.violation part kind).run s).engsAt k = s.engsAt k := Act.violation_foot s w .engs k (by simp only [violFoot, recFoot, hostFoot, Foot.any_cons, Foot.any_nil, Foot.reg_iff, Foot.regFam_iff, Foot.range_iff, Foot.whole_iff, List.mem_cons, List.not_mem_nil, reduceCtorEq, false_and, false_or, or_false, or_self, not_false_eq_true])
theorem conns_violation {s : State} (w : s.Wf) (part kind : Nat) (k : Nat) : ((Act.violation part kind).run s).connsAt k = s.connsAt k := Act.violation_foot s w .conns k (by simp only [violFoot, recFoot, hostFoot, Foot.any_cons, Foot.any_nil, Foot.reg_iff, Foot.regFam_iff, Foot.range_iff, Foot.whole_iff, List.mem_cons, List.not_mem_nil, reduceCtorEq, false_and, false_or, or_false, or_self, not_false_eq_true])
theorem bars_violation {s : State} (w : s.Wf) (part kind : Nat) (k : Nat) : ((Act.violation part kind).run s).barsAt k = s.barsAt k := Act.violation_foot s w .bars k (by simp only [violFoot, recFoot, hostFoot, Foot.any_cons, Foot.any_nil, Foot.reg_iff, Foot.regFam_iff, Foot.range_iff, Foot.whole_iff, List.mem_cons, List.not_mem_nil, reduceCtorEq, false_and, false_or, or_false, or_self, not_false_eq_true])
theorem hounds_violation {s : State} (w : s.Wf) (part kind : Nat) (k : Nat) : ((Act.violation part kind).run s).houndsAt k = s.houndsAt k := Act.violation_foot s w .hounds k (by simp only [violFoot, recFoot, hostFoot, Foot.any_cons, Foot.any_nil, Foot.reg_iff, Foot.regFam_iff, Foot.range_iff, Foot.whole_iff, List.mem_cons, List.not_mem_nil, reduceCtorEq, false_and, false_or, or_false, or_self, not_false_eq_true])
theorem samp_violation {s : State} (w : s.Wf) (part kind : Nat) (k : Nat) : ((Act.violation part kind).run s).sampAt k = s.sampAt k := Act.violation_foot s w .samp k (by simp only [violFoot, recFoot, hostFoot, Foot.any_cons, Foot.any_nil, Foot.reg_iff, Foot.regFam_iff, Foot.range_iff, Foot.whole_iff, List.mem_cons, List.not_mem_nil, reduceCtorEq, false_and, false_or, or_false, or_self, not_false_eq_true])
theorem cells_violation {s : State} (w : s.Wf) (part kind : Nat) (k : Nat) : ((Act.violation part kind).run s).cellsAt k = s.cellsAt k := Act.violation_foot s w .cells k (by simp only [violFoot, recFoot, hostFoot, Foot.any_cons, Foot.any_nil, Foot.reg_iff, Foot.regFam_iff, Foot.range_iff, Foot.whole_iff, List.mem_cons, List.not_mem_nil, reduceCtorEq, false_and, false_or, or_false, or_self, not_false_eq_true])
theorem cjobs_violation {s : State} (w : s.Wf) (part kind : Nat) (k : Nat) : ((Act.violation part kind).run s).cjobsAt k = s.cjobsAt k := Act.violation_foot s w .cjobs k (by simp only [violFoot, recFoot, hostFoot, Foot.any_cons, Foot.any_nil, Foot.reg_iff, Foot.regFam_iff, Foot.range_iff, Foot.whole_iff, List.mem_cons, List.not_mem_nil, reduceCtorEq, false_and, false_or, or_false, or_self, not_false_eq_true])
theorem dsps_violation {s : State} (w : s.Wf) (part kind : Nat) (k : Nat) : ((Act.violation part kind).run s).dspsAt k = s.dspsAt k := Act.violation_foot s w .dsps k (by simp only [violFoot, recFoot, hostFoot, Foot.any_cons, Foot.any_nil, Foot.reg_iff, Foot.regFam_iff, Foot.range_iff, Foot.whole_iff, List.mem_cons, List.not_mem_nil, reduceCtorEq, false_and, false_or, or_false, or_self, not_false_eq_true])
theorem dspMem_violation {s : State} (w : s.Wf) (part kind : Nat) (k : Nat) : ((Act.violation part kind).run s).dspMemAt k = s.dspMemAt k := Act.violation_foot s w .dspMem k (by simp only [violFoot, recFoot, hostFoot, Foot.any_cons, Foot.any_nil, Foot.reg_iff, Foot.regFam_iff, Foot.range_iff, Foot.whole_iff, List.mem_cons, List.not_mem_nil, reduceCtorEq, false_and, false_or, or_false, or_self, not_false_eq_true])
theorem dspP_violation {s : State} (w : s.Wf) (part kind : Nat) (k : Nat) : ((Act.violation part kind).run s).dspPAt k = s.dspPAt k := Act.violation_foot s w .dspP k (by simp only [violFoot, recFoot, hostFoot, Foot.any_cons, Foot.any_nil, Foot.reg_iff, Foot.regFam_iff, Foot.range_iff, Foot.whole_iff, List.mem_cons, List.not_mem_nil, reduceCtorEq, false_and, false_or, or_false, or_self, not_false_eq_true])
theorem dets_violation {s : State} (w : s.Wf) (part kind : Nat) (k : Nat) : ((Act.violation part kind).run s).detsAt k = s.detsAt k := Act.violation_foot s w .dets k (by simp only [violFoot, recFoot, hostFoot, Foot.any_cons, Foot.any_nil, Foot.reg_iff, Foot.regFam_iff, Foot.range_iff, Foot.whole_iff, List.mem_cons, List.not_mem_nil, reduceCtorEq, false_and, false_or, or_false, or_self, not_false_eq_true])
theorem dumps_violation {s : State} (w : s.Wf) (part kind : Nat) (k : Nat) : ((Act.violation part kind).run s).dumpsAt k = s.dumpsAt k := Act.violation_foot s w .dumps k (by simp only [violFoot, recFoot, hostFoot, Foot.any_cons, Foot.any_nil, Foot.reg_iff, Foot.regFam_iff, Foot.range_iff, Foot.whole_iff, List.mem_cons, List.not_mem_nil, reduceCtorEq, false_and, false_or, or_false, or_self, not_false_eq_true])
theorem clk_violation {s : State} (w : s.Wf) (part kind : Nat) : ((Act.violation part kind).run s).clk = s.clk := Act.violation_foot s w .clk 0 (by simp only [violFoot, recFoot, hostFoot, Foot.any_cons, Foot.any_nil, Foot.reg_iff, Foot.regFam_iff, Foot.range_iff, Foot.whole_iff, List.mem_cons, List.not_mem_nil, reduceCtorEq, false_and, false_or, or_false, or_self, not_false_eq_true])
theorem linkOn_violation {s : State} (w : s.Wf) (part kind : Nat) : ((Act.violation part kind).run s).linkOn = s.linkOn := Act.violation_foot s w .linkOn 0 (by simp only [violFoot, recFoot, hostFoot, Foot.any_cons, Foot.any_nil, Foot.reg_iff, Foot.regFam_iff, Foot.range_iff, Foot.whole_iff, List.mem_cons, List.not_mem_nil, reduceCtorEq, false_and, false_or, or_false, or_self, not_false_eq_true])
theorem failed_violation {s : State} (w : s.Wf) (part kind : Nat) : ((Act.violation part kind).run s).failed = s.failed := Act.violation_foot s w .failed 0 (by simp only [violFoot, recFoot, hostFoot, Foot.any_cons, Foot.any_nil, Foot.reg_iff, Foot.regFam_iff, Foot.range_iff, Foot.whole_iff, List.mem_cons, List.not_mem_nil, reduceCtorEq, false_and, false_or, or_false, or_self, not_false_eq_true])
theorem lpAct0_violation {s : State} (w : s.Wf) (part kind : Nat) : ((Act.violation part kind).run s).lpAct0 = s.lpAct0 := Act.violation_foot s w .lpAct0 0 (by simp only [violFoot, recFoot, hostFoot, Foot.any_cons, Foot.any_nil, Foot.reg_iff, Foot.regFam_iff, Foot.range_iff, Foot.whole_iff, List.mem_cons, List.not_mem_nil, reduceCtorEq, false_and, false_or, or_false, or_self, not_false_eq_true])
theorem lpAct1_violation {s : State} (w : s.Wf) (part kind : Nat) : ((Act.violation part kind).run s).lpAct1 = s.lpAct1 := Act.violation_foot s w .lpAct1 0 (by simp only [violFoot, recFoot, hostFoot, Foot.any_cons, Foot.any_nil, Foot.reg_iff, Foot.regFam_iff, Foot.range_iff, Foot.whole_iff, List.mem_cons, List.not_mem_nil, reduceCtorEq, false_and, false_or, or_false, or_self, not_false_eq_true])
theorem sigq_violation {s : State} (w : s.Wf) (part kind : Nat) : ((Act.violation part kind).run s).sigq = s.sigq := Act.violation_foot s w .sigq 0 (by simp only [violFoot, recFoot, hostFoot, Foot.any_cons, Foot.any_nil, Foot.reg_iff, Foot.regFam_iff, Foot.range_iff, Foot.whole_iff, List.mem_cons, List.not_mem_nil, reduceCtorEq, false_and, false_or, or_false, or_self, not_false_eq_true])
theorem convq_violation {s : State} (w : s.Wf) (part kind : Nat) : ((Act.violation part kind).run s).convq = s.convq := Act.violation_foot s w .convq 0 (by simp only [violFoot, recFoot, hostFoot, Foot.any_cons, Foot.any_nil, Foot.reg_iff, Foot.regFam_iff, Foot.range_iff, Foot.whole_iff, List.mem_cons, List.not_mem_nil, reduceCtorEq, false_and, false_or, or_false, or_self, not_false_eq_true])
theorem flash_violation {s : State} (w : s.Wf) (part kind : Nat) : ((Act.violation part kind).run s).flash = s.flash := Act.violation_foot s w .flash 0 (by simp only [violFoot, recFoot, hostFoot, Foot.any_cons, Foot.any_nil, Foot.reg_iff, Foot.regFam_iff, Foot.range_iff, Foot.whole_iff, List.mem_cons, List.not_mem_nil, reduceCtorEq, false_and, false_or, or_false, or_self, not_false_eq_true])
theorem arrives_violation {s : State} (w : s.Wf) (part kind : Nat) : ((Act.violation part kind).run s).arrives = s.arrives := Act.violation_foot s w .arrives 0 (by simp only [violFoot, recFoot, hostFoot, Foot.any_cons, Foot.any_nil, Foot.reg_iff, Foot.regFam_iff, Foot.range_iff, Foot.whole_iff, List.mem_cons, List.not_mem_nil, reduceCtorEq, false_and, false_or, or_false, or_self, not_false_eq_true])
theorem held_violation {s : State} (w : s.Wf) (part kind : Nat) : ((Act.violation part kind).run s).held = s.held := Act.violation_foot s w .held 0 (by simp only [violFoot, recFoot, hostFoot, Foot.any_cons, Foot.any_nil, Foot.reg_iff, Foot.regFam_iff, Foot.range_iff, Foot.whole_iff, List.mem_cons, List.not_mem_nil, reduceCtorEq, false_and, false_or, or_false, or_self, not_false_eq_true])
theorem heldCode_violation {s : State} (w : s.Wf) (part kind : Nat) : ((Act.violation part kind).run s).heldCode = s.heldCode := Act.violation_foot s w .heldCode 0 (by simp only [violFoot, recFoot, hostFoot, Foot.any_cons, Foot.any_nil, Foot.reg_iff, Foot.regFam_iff, Foot.range_iff, Foot.whole_iff, List.mem_cons, List.not_mem_nil, reduceCtorEq, false_and, false_or, or_false, or_self, not_false_eq_true])
theorem pairs_violation {s : State} (w : s.Wf) (part kind : Nat) : ((Act.violation part kind).run s).pairs = s.pairs := Act.violation_foot s w .pairs 0 (by simp only [violFoot, recFoot, hostFoot, Foot.any_cons, Foot.any_nil, Foot.reg_iff, Foot.regFam_iff, Foot.range_iff, Foot.whole_iff, List.mem_cons, List.not_mem_nil, reduceCtorEq, false_and, false_or, or_false, or_self, not_false_eq_true])
theorem radio_violation {s : State} (w : s.Wf) (part kind : Nat) : ((Act.violation part kind).run s).radio = s.radio := Act.violation_foot s w .radio 0 (by simp only [violFoot, recFoot, hostFoot, Foot.any_cons, Foot.any_nil, Foot.reg_iff, Foot.regFam_iff, Foot.range_iff, Foot.whole_iff, List.mem_cons, List.not_mem_nil, reduceCtorEq, false_and, false_or, or_false, or_self, not_false_eq_true])
theorem time_violation {s : State} (w : s.Wf) (part kind : Nat) : ((Act.violation part kind).run s).time = s.time := Act.violation_foot s w .time 0 (by simp only [violFoot, recFoot, hostFoot, Foot.any_cons, Foot.any_nil, Foot.reg_iff, Foot.regFam_iff, Foot.range_iff, Foot.whole_iff, List.mem_cons, List.not_mem_nil, reduceCtorEq, false_and, false_or, or_false, or_self, not_false_eq_true])
theorem last_violation {s : State} (w : s.Wf) (part kind : Nat) : ((Act.violation part kind).run s).last = s.last := Act.violation_foot s w .last 0 (by simp only [violFoot, recFoot, hostFoot, Foot.any_cons, Foot.any_nil, Foot.reg_iff, Foot.regFam_iff, Foot.range_iff, Foot.whole_iff, List.mem_cons, List.not_mem_nil, reduceCtorEq, false_and, false_or, or_false, or_self, not_false_eq_true])
theorem sys_violation {s : State} (w : s.Wf) (part kind : Nat) : ((Act.violation part kind).run s).sys = s.sys := Act.violation_foot s w .sys 0 (by simp only [violFoot, recFoot, hostFoot, Foot.any_cons, Foot.any_nil, Foot.reg_iff, Foot.regFam_iff, Foot.range_iff, Foot.whole_iff, List.mem_cons, List.not_mem_nil, reduceCtorEq, false_and, false_or, or_false, or_self, not_false_eq_true])
theorem free_violation {s : State} (w : s.Wf) (part kind : Nat) : ((Act.violation part kind).run s).free = s.free := Act.violation_foot s w .free 0 (by simp only [violFoot, recFoot, hostFoot, Foot.any_cons, Foot.any_nil, Foot.reg_iff, Foot.regFam_iff, Foot.range_iff, Foot.whole_iff, List.mem_cons, List.not_mem_nil, reduceCtorEq, false_and, false_or, or_false, or_self, not_false_eq_true])
theorem mem_healthEv {s : State} (w : s.Wf) (kind idx i n : Nat) (k : Nat) : ((Act.healthEv kind idx i n).run s).memAt k = s.memAt k := Act.healthEv_foot s w .mem k (by simp only [healthFoot, pmcGlobalFoot, Foot.any_cons, Foot.any_nil, Foot.reg_iff, Foot.regFam_iff, Foot.range_iff, Foot.whole_iff, List.mem_cons, List.not_mem_nil, reduceCtorEq, false_and, false_or, or_false, or_self, not_false_eq_true])
theorem errs_healthEv {s : State} (w : s.Wf) (kind idx i n : Nat) (k : Nat) : ((Act.healthEv kind idx i n).run s).errsAt k = s.errsAt k := Act.healthEv_foot s w .errs k (by simp only [healthFoot, pmcGlobalFoot, Foot.any_cons, Foot.any_nil, Foot.reg_iff, Foot.regFam_iff, Foot.range_iff, Foot.whole_iff, List.mem_cons, List.not_mem_nil, reduceCtorEq, false_and, false_or, or_false, or_self, not_false_eq_true])
theorem lpErr_healthEv {s : State} (w : s.Wf) (kind idx i n : Nat) (k : Nat) : ((Act.healthEv kind idx i n).run s).lpErrAt k = s.lpErrAt k := Act.healthEv_foot s w .lpErr k (by simp only [healthFoot, pmcGlobalFoot, Foot.any_cons, Foot.any_nil, Foot.reg_iff, Foot.regFam_iff, Foot.range_iff, Foot.whole_iff, List.mem_cons, List.not_mem_nil, reduceCtorEq, false_and, false_or, or_false, or_self, not_false_eq_true])
theorem chUe_healthEv {s : State} (w : s.Wf) (kind idx i n : Nat) (k : Nat) : ((Act.healthEv kind idx i n).run s).chUeAt k = s.chUeAt k := Act.healthEv_foot s w .chUe k (by simp only [healthFoot, pmcGlobalFoot, Foot.any_cons, Foot.any_nil, Foot.reg_iff, Foot.regFam_iff, Foot.range_iff, Foot.whole_iff, List.mem_cons, List.not_mem_nil, reduceCtorEq, false_and, false_or, or_false, or_self, not_false_eq_true])
theorem host_healthEv {s : State} (w : s.Wf) (kind idx i n : Nat) (k : Nat) : ((Act.healthEv kind idx i n).run s).hostAt k = s.hostAt k := Act.healthEv_foot s w .host k (by simp only [healthFoot, pmcGlobalFoot, Foot.any_cons, Foot.any_nil, Foot.reg_iff, Foot.regFam_iff, Foot.range_iff, Foot.whole_iff, List.mem_cons, List.not_mem_nil, reduceCtorEq, false_and, false_or, or_false, or_self, not_false_eq_true])
theorem store_healthEv {s : State} (w : s.Wf) (kind idx i n : Nat) (k : Nat) : ((Act.healthEv kind idx i n).run s).storeAt k = s.storeAt k := Act.healthEv_foot s w .store k (by simp only [healthFoot, pmcGlobalFoot, Foot.any_cons, Foot.any_nil, Foot.reg_iff, Foot.regFam_iff, Foot.range_iff, Foot.whole_iff, List.mem_cons, List.not_mem_nil, reduceCtorEq, false_and, false_or, or_false, or_self, not_false_eq_true])
theorem acc_healthEv {s : State} (w : s.Wf) (kind idx i n : Nat) (k : Nat) : ((Act.healthEv kind idx i n).run s).accAt k = s.accAt k := Act.healthEv_foot s w .acc k (by simp only [healthFoot, pmcGlobalFoot, Foot.any_cons, Foot.any_nil, Foot.reg_iff, Foot.regFam_iff, Foot.range_iff, Foot.whole_iff, List.mem_cons, List.not_mem_nil, reduceCtorEq, false_and, false_or, or_false, or_self, not_false_eq_true])
theorem anchors_healthEv {s : State} (w : s.Wf) (kind idx i n : Nat) (k : Nat) : ((Act.healthEv kind idx i n).run s).anchorsAt k = s.anchorsAt k := Act.healthEv_foot s w .anchors k (by simp only [healthFoot, pmcGlobalFoot, Foot.any_cons, Foot.any_nil, Foot.reg_iff, Foot.regFam_iff, Foot.range_iff, Foot.whole_iff, List.mem_cons, List.not_mem_nil, reduceCtorEq, false_and, false_or, or_false, or_self, not_false_eq_true])
theorem pend_healthEv {s : State} (w : s.Wf) (kind idx i n : Nat) (k : Nat) : ((Act.healthEv kind idx i n).run s).pendAt k = s.pendAt k := Act.healthEv_foot s w .pend k (by simp only [healthFoot, pmcGlobalFoot, Foot.any_cons, Foot.any_nil, Foot.reg_iff, Foot.regFam_iff, Foot.range_iff, Foot.whole_iff, List.mem_cons, List.not_mem_nil, reduceCtorEq, false_and, false_or, or_false, or_self, not_false_eq_true])
theorem vreg_healthEv {s : State} (w : s.Wf) (kind idx i n : Nat) (k : Nat) : ((Act.healthEv kind idx i n).run s).vregAt k = s.vregAt k := Act.healthEv_foot s w .vreg k (by simp only [healthFoot, pmcGlobalFoot, Foot.any_cons, Foot.any_nil, Foot.reg_iff, Foot.regFam_iff, Foot.range_iff, Foot.whole_iff, List.mem_cons, List.not_mem_nil, reduceCtorEq, false_and, false_or, or_false, or_self, not_false_eq_true])
theorem ctxs_healthEv {s : State} (w : s.Wf) (kind idx i n : Nat) (k : Nat) : ((Act.healthEv kind idx i n).run s).ctxsAt k = s.ctxsAt k := Act.healthEv_foot s w .ctxs k (by simp only [healthFoot, pmcGlobalFoot, Foot.any_cons, Foot.any_nil, Foot.reg_iff, Foot.regFam_iff, Foot.range_iff, Foot.whole_iff, List.mem_cons, List.not_mem_nil, reduceCtorEq, false_and, false_or, or_false, or_self, not_false_eq_true])
theorem arrs_healthEv {s : State} (w : s.Wf) (kind idx i n : Nat) (k : Nat) : ((Act.healthEv kind idx i n).run s).arrsAt k = s.arrsAt k := Act.healthEv_foot s w .arrs k (by simp only [healthFoot, pmcGlobalFoot, Foot.any_cons, Foot.any_nil, Foot.reg_iff, Foot.regFam_iff, Foot.range_iff, Foot.whole_iff, List.mem_cons, List.not_mem_nil, reduceCtorEq, false_and, false_or, or_false, or_self, not_false_eq_true])
theorem parts_healthEv {s : State} (w : s.Wf) (kind idx i n : Nat) (k : Nat) : ((Act.healthEv kind idx i n).run s).partsAt k = s.partsAt k := Act.healthEv_foot s w .parts k (by simp only [healthFoot, pmcGlobalFoot, Foot.any_cons, Foot.any_nil, Foot.reg_iff, Foot.regFam_iff, Foot.range_iff, Foot.whole_iff, List.mem_cons, List.not_mem_nil, reduceCtorEq, false_and, false_or, or_false, or_self, not_false_eq_true])
theorem vecTurn_healthEv {s : State} (w : s.Wf) (kind idx i n : Nat) (k : Nat) : ((Act.healthEv kind idx i n).run s).vecTurnAt k = s.vecTurnAt k := Act.healthEv_foot s w .vecTurn k (by simp only [healthFoot, pmcGlobalFoot, Foot.any_cons, Foot.any_nil, Foot.reg_iff, Foot.regFam_iff, Foot.range_iff, Foot.whole_iff, List.mem_cons, List.not_mem_nil, reduceCtorEq, false_and, false_or, or_false, or_self, not_false_eq_true])
theorem leash_healthEv {s : State} (w : s.Wf) (kind idx i n : Nat) (k : Nat) : ((Act.healthEv kind idx i n).run s).leashAt k = s.leashAt k := Act.healthEv_foot s w .leash k (by simp only [healthFoot, pmcGlobalFoot, Foot.any_cons, Foot.any_nil, Foot.reg_iff, Foot.regFam_iff, Foot.range_iff, Foot.whole_iff, List.mem_cons, List.not_mem_nil, reduceCtorEq, false_and, false_or, or_false, or_self, not_false_eq_true])
theorem trigs_healthEv {s : State} (w : s.Wf) (kind idx i n : Nat) (k : Nat) : ((Act.healthEv kind idx i n).run s).trigsAt k = s.trigsAt k := Act.healthEv_foot s w .trigs k (by simp only [healthFoot, pmcGlobalFoot, Foot.any_cons, Foot.any_nil, Foot.reg_iff, Foot.regFam_iff, Foot.range_iff, Foot.whole_iff, List.mem_cons, List.not_mem_nil, reduceCtorEq, false_and, false_or, or_false, or_self, not_false_eq_true])
theorem log_healthEv {s : State} (w : s.Wf) (kind idx i n : Nat) (k : Nat) : ((Act.healthEv kind idx i n).run s).logAt k = s.logAt k := Act.healthEv_foot s w .log k (by simp only [healthFoot, pmcGlobalFoot, Foot.any_cons, Foot.any_nil, Foot.reg_iff, Foot.regFam_iff, Foot.range_iff, Foot.whole_iff, List.mem_cons, List.not_mem_nil, reduceCtorEq, false_and, false_or, or_false, or_self, not_false_eq_true])
theorem recUsed_healthEv {s : State} (w : s.Wf) (kind idx i n : Nat) (k : Nat) : ((Act.healthEv kind idx i n).run s).recUsedAt k = s.recUsedAt k := Act.healthEv_foot s w .recUsed k (by simp only [healthFoot, pmcGlobalFoot, Foot.any_cons, Foot.any_nil, Foot.reg_iff, Foot.regFam_iff, Foot.range_iff, Foot.whole_iff, List.mem_cons, List.not_mem_nil, reduceCtorEq, false_and, false_or, or_false, or_self, not_false_eq_true])
theorem recDrop_healthEv {s : State} (w : s.Wf) (kind idx i n : Nat) (k : Nat) : ((Act.healthEv kind idx i n).run s).recDropAt k = s.recDropAt k := Act.healthEv_foot s w .recDrop k (by simp only [healthFoot, pmcGlobalFoot, Foot.any_cons, Foot.any_nil, Foot.reg_iff, Foot.regFam_iff, Foot.range_iff, Foot.whole_iff, List.mem_cons, List.not_mem_nil, reduceCtorEq, false_and, false_or, or_false, or_self, not_false_eq_true])
theorem engs_healthEv {s : State} (w : s.Wf) (kind idx i n : Nat) (k : Nat) : ((Act.healthEv kind idx i n).run s).engsAt k = s.engsAt k := Act.healthEv_foot s w .engs k (by simp only [healthFoot, pmcGlobalFoot, Foot.any_cons, Foot.any_nil, Foot.reg_iff, Foot.regFam_iff, Foot.range_iff, Foot.whole_iff, List.mem_cons, List.not_mem_nil, reduceCtorEq, false_and, false_or, or_false, or_self, not_false_eq_true])
theorem conns_healthEv {s : State} (w : s.Wf) (kind idx i n : Nat) (k : Nat) : ((Act.healthEv kind idx i n).run s).connsAt k = s.connsAt k := Act.healthEv_foot s w .conns k (by simp only [healthFoot, pmcGlobalFoot, Foot.any_cons, Foot.any_nil, Foot.reg_iff, Foot.regFam_iff, Foot.range_iff, Foot.whole_iff, List.mem_cons, List.not_mem_nil, reduceCtorEq, false_and, false_or, or_false, or_self, not_false_eq_true])
theorem bars_healthEv {s : State} (w : s.Wf) (kind idx i n : Nat) (k : Nat) : ((Act.healthEv kind idx i n).run s).barsAt k = s.barsAt k := Act.healthEv_foot s w .bars k (by simp only [healthFoot, pmcGlobalFoot, Foot.any_cons, Foot.any_nil, Foot.reg_iff, Foot.regFam_iff, Foot.range_iff, Foot.whole_iff, List.mem_cons, List.not_mem_nil, reduceCtorEq, false_and, false_or, or_false, or_self, not_false_eq_true])
theorem hounds_healthEv {s : State} (w : s.Wf) (kind idx i n : Nat) (k : Nat) : ((Act.healthEv kind idx i n).run s).houndsAt k = s.houndsAt k := Act.healthEv_foot s w .hounds k (by simp only [healthFoot, pmcGlobalFoot, Foot.any_cons, Foot.any_nil, Foot.reg_iff, Foot.regFam_iff, Foot.range_iff, Foot.whole_iff, List.mem_cons, List.not_mem_nil, reduceCtorEq, false_and, false_or, or_false, or_self, not_false_eq_true])
theorem samp_healthEv {s : State} (w : s.Wf) (kind idx i n : Nat) (k : Nat) : ((Act.healthEv kind idx i n).run s).sampAt k = s.sampAt k := Act.healthEv_foot s w .samp k (by simp only [healthFoot, pmcGlobalFoot, Foot.any_cons, Foot.any_nil, Foot.reg_iff, Foot.regFam_iff, Foot.range_iff, Foot.whole_iff, List.mem_cons, List.not_mem_nil, reduceCtorEq, false_and, false_or, or_false, or_self, not_false_eq_true])
theorem cells_healthEv {s : State} (w : s.Wf) (kind idx i n : Nat) (k : Nat) : ((Act.healthEv kind idx i n).run s).cellsAt k = s.cellsAt k := Act.healthEv_foot s w .cells k (by simp only [healthFoot, pmcGlobalFoot, Foot.any_cons, Foot.any_nil, Foot.reg_iff, Foot.regFam_iff, Foot.range_iff, Foot.whole_iff, List.mem_cons, List.not_mem_nil, reduceCtorEq, false_and, false_or, or_false, or_self, not_false_eq_true])
theorem cjobs_healthEv {s : State} (w : s.Wf) (kind idx i n : Nat) (k : Nat) : ((Act.healthEv kind idx i n).run s).cjobsAt k = s.cjobsAt k := Act.healthEv_foot s w .cjobs k (by simp only [healthFoot, pmcGlobalFoot, Foot.any_cons, Foot.any_nil, Foot.reg_iff, Foot.regFam_iff, Foot.range_iff, Foot.whole_iff, List.mem_cons, List.not_mem_nil, reduceCtorEq, false_and, false_or, or_false, or_self, not_false_eq_true])
theorem dsps_healthEv {s : State} (w : s.Wf) (kind idx i n : Nat) (k : Nat) : ((Act.healthEv kind idx i n).run s).dspsAt k = s.dspsAt k := Act.healthEv_foot s w .dsps k (by simp only [healthFoot, pmcGlobalFoot, Foot.any_cons, Foot.any_nil, Foot.reg_iff, Foot.regFam_iff, Foot.range_iff, Foot.whole_iff, List.mem_cons, List.not_mem_nil, reduceCtorEq, false_and, false_or, or_false, or_self, not_false_eq_true])
theorem dspMem_healthEv {s : State} (w : s.Wf) (kind idx i n : Nat) (k : Nat) : ((Act.healthEv kind idx i n).run s).dspMemAt k = s.dspMemAt k := Act.healthEv_foot s w .dspMem k (by simp only [healthFoot, pmcGlobalFoot, Foot.any_cons, Foot.any_nil, Foot.reg_iff, Foot.regFam_iff, Foot.range_iff, Foot.whole_iff, List.mem_cons, List.not_mem_nil, reduceCtorEq, false_and, false_or, or_false, or_self, not_false_eq_true])
theorem dspP_healthEv {s : State} (w : s.Wf) (kind idx i n : Nat) (k : Nat) : ((Act.healthEv kind idx i n).run s).dspPAt k = s.dspPAt k := Act.healthEv_foot s w .dspP k (by simp only [healthFoot, pmcGlobalFoot, Foot.any_cons, Foot.any_nil, Foot.reg_iff, Foot.regFam_iff, Foot.range_iff, Foot.whole_iff, List.mem_cons, List.not_mem_nil, reduceCtorEq, false_and, false_or, or_false, or_self, not_false_eq_true])
theorem dets_healthEv {s : State} (w : s.Wf) (kind idx i n : Nat) (k : Nat) : ((Act.healthEv kind idx i n).run s).detsAt k = s.detsAt k := Act.healthEv_foot s w .dets k (by simp only [healthFoot, pmcGlobalFoot, Foot.any_cons, Foot.any_nil, Foot.reg_iff, Foot.regFam_iff, Foot.range_iff, Foot.whole_iff, List.mem_cons, List.not_mem_nil, reduceCtorEq, false_and, false_or, or_false, or_self, not_false_eq_true])
theorem dumps_healthEv {s : State} (w : s.Wf) (kind idx i n : Nat) (k : Nat) : ((Act.healthEv kind idx i n).run s).dumpsAt k = s.dumpsAt k := Act.healthEv_foot s w .dumps k (by simp only [healthFoot, pmcGlobalFoot, Foot.any_cons, Foot.any_nil, Foot.reg_iff, Foot.regFam_iff, Foot.range_iff, Foot.whole_iff, List.mem_cons, List.not_mem_nil, reduceCtorEq, false_and, false_or, or_false, or_self, not_false_eq_true])
theorem clk_healthEv {s : State} (w : s.Wf) (kind idx i n : Nat) : ((Act.healthEv kind idx i n).run s).clk = s.clk := Act.healthEv_foot s w .clk 0 (by simp only [healthFoot, pmcGlobalFoot, Foot.any_cons, Foot.any_nil, Foot.reg_iff, Foot.regFam_iff, Foot.range_iff, Foot.whole_iff, List.mem_cons, List.not_mem_nil, reduceCtorEq, false_and, false_or, or_false, or_self, not_false_eq_true])
theorem recd_healthEv {s : State} (w : s.Wf) (kind idx i n : Nat) : ((Act.healthEv kind idx i n).run s).recd = s.recd := Act.healthEv_foot s w .recd 0 (by simp only [healthFoot, pmcGlobalFoot, Foot.any_cons, Foot.any_nil, Foot.reg_iff, Foot.regFam_iff, Foot.range_iff, Foot.whole_iff, List.mem_cons, List.not_mem_nil, reduceCtorEq, false_and, false_or, or_false, or_self, not_false_eq_true])
theorem attn_healthEv {s : State} (w : s.Wf) (kind idx i n : Nat) : ((Act.healthEv kind idx i n).run s).attn = s.attn := Act.healthEv_foot s w .attn 0 (by simp only [healthFoot, pmcGlobalFoot, Foot.any_cons, Foot.any_nil, Foot.reg_iff, Foot.regFam_iff, Foot.range_iff, Foot.whole_iff, List.mem_cons, List.not_mem_nil, reduceCtorEq, false_and, false_or, or_false, or_self, not_false_eq_true])
theorem linkOn_healthEv {s : State} (w : s.Wf) (kind idx i n : Nat) : ((Act.healthEv kind idx i n).run s).linkOn = s.linkOn := Act.healthEv_foot s w .linkOn 0 (by simp only [healthFoot, pmcGlobalFoot, Foot.any_cons, Foot.any_nil, Foot.reg_iff, Foot.regFam_iff, Foot.range_iff, Foot.whole_iff, List.mem_cons, List.not_mem_nil, reduceCtorEq, false_and, false_or, or_false, or_self, not_false_eq_true])
theorem failed_healthEv {s : State} (w : s.Wf) (kind idx i n : Nat) : ((Act.healthEv kind idx i n).run s).failed = s.failed := Act.healthEv_foot s w .failed 0 (by simp only [healthFoot, pmcGlobalFoot, Foot.any_cons, Foot.any_nil, Foot.reg_iff, Foot.regFam_iff, Foot.range_iff, Foot.whole_iff, List.mem_cons, List.not_mem_nil, reduceCtorEq, false_and, false_or, or_false, or_self, not_false_eq_true])
theorem lpAct0_healthEv {s : State} (w : s.Wf) (kind idx i n : Nat) : ((Act.healthEv kind idx i n).run s).lpAct0 = s.lpAct0 := Act.healthEv_foot s w .lpAct0 0 (by simp only [healthFoot, pmcGlobalFoot, Foot.any_cons, Foot.any_nil, Foot.reg_iff, Foot.regFam_iff, Foot.range_iff, Foot.whole_iff, List.mem_cons, List.not_mem_nil, reduceCtorEq, false_and, false_or, or_false, or_self, not_false_eq_true])
theorem lpAct1_healthEv {s : State} (w : s.Wf) (kind idx i n : Nat) : ((Act.healthEv kind idx i n).run s).lpAct1 = s.lpAct1 := Act.healthEv_foot s w .lpAct1 0 (by simp only [healthFoot, pmcGlobalFoot, Foot.any_cons, Foot.any_nil, Foot.reg_iff, Foot.regFam_iff, Foot.range_iff, Foot.whole_iff, List.mem_cons, List.not_mem_nil, reduceCtorEq, false_and, false_or, or_false, or_self, not_false_eq_true])
theorem sigq_healthEv {s : State} (w : s.Wf) (kind idx i n : Nat) : ((Act.healthEv kind idx i n).run s).sigq = s.sigq := Act.healthEv_foot s w .sigq 0 (by simp only [healthFoot, pmcGlobalFoot, Foot.any_cons, Foot.any_nil, Foot.reg_iff, Foot.regFam_iff, Foot.range_iff, Foot.whole_iff, List.mem_cons, List.not_mem_nil, reduceCtorEq, false_and, false_or, or_false, or_self, not_false_eq_true])
theorem convq_healthEv {s : State} (w : s.Wf) (kind idx i n : Nat) : ((Act.healthEv kind idx i n).run s).convq = s.convq := Act.healthEv_foot s w .convq 0 (by simp only [healthFoot, pmcGlobalFoot, Foot.any_cons, Foot.any_nil, Foot.reg_iff, Foot.regFam_iff, Foot.range_iff, Foot.whole_iff, List.mem_cons, List.not_mem_nil, reduceCtorEq, false_and, false_or, or_false, or_self, not_false_eq_true])
theorem flash_healthEv {s : State} (w : s.Wf) (kind idx i n : Nat) : ((Act.healthEv kind idx i n).run s).flash = s.flash := Act.healthEv_foot s w .flash 0 (by simp only [healthFoot, pmcGlobalFoot, Foot.any_cons, Foot.any_nil, Foot.reg_iff, Foot.regFam_iff, Foot.range_iff, Foot.whole_iff, List.mem_cons, List.not_mem_nil, reduceCtorEq, false_and, false_or, or_false, or_self, not_false_eq_true])
theorem arrives_healthEv {s : State} (w : s.Wf) (kind idx i n : Nat) : ((Act.healthEv kind idx i n).run s).arrives = s.arrives := Act.healthEv_foot s w .arrives 0 (by simp only [healthFoot, pmcGlobalFoot, Foot.any_cons, Foot.any_nil, Foot.reg_iff, Foot.regFam_iff, Foot.range_iff, Foot.whole_iff, List.mem_cons, List.not_mem_nil, reduceCtorEq, false_and, false_or, or_false, or_self, not_false_eq_true])
theorem held_healthEv {s : State} (w : s.Wf) (kind idx i n : Nat) : ((Act.healthEv kind idx i n).run s).held = s.held := Act.healthEv_foot s w .held 0 (by simp only [healthFoot, pmcGlobalFoot, Foot.any_cons, Foot.any_nil, Foot.reg_iff, Foot.regFam_iff, Foot.range_iff, Foot.whole_iff, List.mem_cons, List.not_mem_nil, reduceCtorEq, false_and, false_or, or_false, or_self, not_false_eq_true])
theorem heldCode_healthEv {s : State} (w : s.Wf) (kind idx i n : Nat) : ((Act.healthEv kind idx i n).run s).heldCode = s.heldCode := Act.healthEv_foot s w .heldCode 0 (by simp only [healthFoot, pmcGlobalFoot, Foot.any_cons, Foot.any_nil, Foot.reg_iff, Foot.regFam_iff, Foot.range_iff, Foot.whole_iff, List.mem_cons, List.not_mem_nil, reduceCtorEq, false_and, false_or, or_false, or_self, not_false_eq_true])
theorem pairs_healthEv {s : State} (w : s.Wf) (kind idx i n : Nat) : ((Act.healthEv kind idx i n).run s).pairs = s.pairs := Act.healthEv_foot s w .pairs 0 (by simp only [healthFoot, pmcGlobalFoot, Foot.any_cons, Foot.any_nil, Foot.reg_iff, Foot.regFam_iff, Foot.range_iff, Foot.whole_iff, List.mem_cons, List.not_mem_nil, reduceCtorEq, false_and, false_or, or_false, or_self, not_false_eq_true])
theorem radio_healthEv {s : State} (w : s.Wf) (kind idx i n : Nat) : ((Act.healthEv kind idx i n).run s).radio = s.radio := Act.healthEv_foot s w .radio 0 (by simp only [healthFoot, pmcGlobalFoot, Foot.any_cons, Foot.any_nil, Foot.reg_iff, Foot.regFam_iff, Foot.range_iff, Foot.whole_iff, List.mem_cons, List.not_mem_nil, reduceCtorEq, false_and, false_or, or_false, or_self, not_false_eq_true])
theorem time_healthEv {s : State} (w : s.Wf) (kind idx i n : Nat) : ((Act.healthEv kind idx i n).run s).time = s.time := Act.healthEv_foot s w .time 0 (by simp only [healthFoot, pmcGlobalFoot, Foot.any_cons, Foot.any_nil, Foot.reg_iff, Foot.regFam_iff, Foot.range_iff, Foot.whole_iff, List.mem_cons, List.not_mem_nil, reduceCtorEq, false_and, false_or, or_false, or_self, not_false_eq_true])
theorem last_healthEv {s : State} (w : s.Wf) (kind idx i n : Nat) : ((Act.healthEv kind idx i n).run s).last = s.last := Act.healthEv_foot s w .last 0 (by simp only [healthFoot, pmcGlobalFoot, Foot.any_cons, Foot.any_nil, Foot.reg_iff, Foot.regFam_iff, Foot.range_iff, Foot.whole_iff, List.mem_cons, List.not_mem_nil, reduceCtorEq, false_and, false_or, or_false, or_self, not_false_eq_true])
theorem sys_healthEv {s : State} (w : s.Wf) (kind idx i n : Nat) : ((Act.healthEv kind idx i n).run s).sys = s.sys := Act.healthEv_foot s w .sys 0 (by simp only [healthFoot, pmcGlobalFoot, Foot.any_cons, Foot.any_nil, Foot.reg_iff, Foot.regFam_iff, Foot.range_iff, Foot.whole_iff, List.mem_cons, List.not_mem_nil, reduceCtorEq, false_and, false_or, or_false, or_self, not_false_eq_true])
theorem free_healthEv {s : State} (w : s.Wf) (kind idx i n : Nat) : ((Act.healthEv kind idx i n).run s).free = s.free := Act.healthEv_foot s w .free 0 (by simp only [healthFoot, pmcGlobalFoot, Foot.any_cons, Foot.any_nil, Foot.reg_iff, Foot.regFam_iff, Foot.range_iff, Foot.whole_iff, List.mem_cons, List.not_mem_nil, reduceCtorEq, false_and, false_or, or_false, or_self, not_false_eq_true])
theorem emitted_healthEv {s : State} (w : s.Wf) (kind idx i n : Nat) : ((Act.healthEv kind idx i n).run s).emitted = s.emitted := Act.healthEv_foot s w .emitted 0 (by simp only [healthFoot, pmcGlobalFoot, Foot.any_cons, Foot.any_nil, Foot.reg_iff, Foot.regFam_iff, Foot.range_iff, Foot.whole_iff, List.mem_cons, List.not_mem_nil, reduceCtorEq, false_and, false_or, or_false, or_self, not_false_eq_true])
theorem mem_pmc {s : State} (w : s.Wf) (core : Option Nat) (cls ev n part master : Nat) (addr : Option Nat) (k : Nat) : ((Act.pmc core cls ev n part master addr).run s).memAt k = s.memAt k := Act.pmc_foot s w .mem k (by cases core <;> simp [pmcFoot, pmcCoreFoot, pmcGlobalFoot])
theorem errs_pmc {s : State} (w : s.Wf) (core : Option Nat) (cls ev n part master : Nat) (addr : Option Nat) (k : Nat) : ((Act.pmc core cls ev n part master addr).run s).errsAt k = s.errsAt k := Act.pmc_foot s w .errs k (by cases core <;> simp [pmcFoot, pmcCoreFoot, pmcGlobalFoot])
theorem lpErr_pmc {s : State} (w : s.Wf) (core : Option Nat) (cls ev n part master : Nat) (addr : Option Nat) (k : Nat) : ((Act.pmc core cls ev n part master addr).run s).lpErrAt k = s.lpErrAt k := Act.pmc_foot s w .lpErr k (by cases core <;> simp [pmcFoot, pmcCoreFoot, pmcGlobalFoot])
theorem chUe_pmc {s : State} (w : s.Wf) (core : Option Nat) (cls ev n part master : Nat) (addr : Option Nat) (k : Nat) : ((Act.pmc core cls ev n part master addr).run s).chUeAt k = s.chUeAt k := Act.pmc_foot s w .chUe k (by cases core <;> simp [pmcFoot, pmcCoreFoot, pmcGlobalFoot])
theorem host_pmc {s : State} (w : s.Wf) (core : Option Nat) (cls ev n part master : Nat) (addr : Option Nat) (k : Nat) : ((Act.pmc core cls ev n part master addr).run s).hostAt k = s.hostAt k := Act.pmc_foot s w .host k (by cases core <;> simp [pmcFoot, pmcCoreFoot, pmcGlobalFoot])
theorem store_pmc {s : State} (w : s.Wf) (core : Option Nat) (cls ev n part master : Nat) (addr : Option Nat) (k : Nat) : ((Act.pmc core cls ev n part master addr).run s).storeAt k = s.storeAt k := Act.pmc_foot s w .store k (by cases core <;> simp [pmcFoot, pmcCoreFoot, pmcGlobalFoot])
theorem acc_pmc {s : State} (w : s.Wf) (core : Option Nat) (cls ev n part master : Nat) (addr : Option Nat) (k : Nat) : ((Act.pmc core cls ev n part master addr).run s).accAt k = s.accAt k := Act.pmc_foot s w .acc k (by cases core <;> simp [pmcFoot, pmcCoreFoot, pmcGlobalFoot])
theorem anchors_pmc {s : State} (w : s.Wf) (core : Option Nat) (cls ev n part master : Nat) (addr : Option Nat) (k : Nat) : ((Act.pmc core cls ev n part master addr).run s).anchorsAt k = s.anchorsAt k := Act.pmc_foot s w .anchors k (by cases core <;> simp [pmcFoot, pmcCoreFoot, pmcGlobalFoot])
theorem pend_pmc {s : State} (w : s.Wf) (core : Option Nat) (cls ev n part master : Nat) (addr : Option Nat) (k : Nat) : ((Act.pmc core cls ev n part master addr).run s).pendAt k = s.pendAt k := Act.pmc_foot s w .pend k (by cases core <;> simp [pmcFoot, pmcCoreFoot, pmcGlobalFoot])
theorem vreg_pmc {s : State} (w : s.Wf) (core : Option Nat) (cls ev n part master : Nat) (addr : Option Nat) (k : Nat) : ((Act.pmc core cls ev n part master addr).run s).vregAt k = s.vregAt k := Act.pmc_foot s w .vreg k (by cases core <;> simp [pmcFoot, pmcCoreFoot, pmcGlobalFoot])
theorem ctxs_pmc {s : State} (w : s.Wf) (core : Option Nat) (cls ev n part master : Nat) (addr : Option Nat) (k : Nat) : ((Act.pmc core cls ev n part master addr).run s).ctxsAt k = s.ctxsAt k := Act.pmc_foot s w .ctxs k (by cases core <;> simp [pmcFoot, pmcCoreFoot, pmcGlobalFoot])
theorem arrs_pmc {s : State} (w : s.Wf) (core : Option Nat) (cls ev n part master : Nat) (addr : Option Nat) (k : Nat) : ((Act.pmc core cls ev n part master addr).run s).arrsAt k = s.arrsAt k := Act.pmc_foot s w .arrs k (by cases core <;> simp [pmcFoot, pmcCoreFoot, pmcGlobalFoot])
theorem parts_pmc {s : State} (w : s.Wf) (core : Option Nat) (cls ev n part master : Nat) (addr : Option Nat) (k : Nat) : ((Act.pmc core cls ev n part master addr).run s).partsAt k = s.partsAt k := Act.pmc_foot s w .parts k (by cases core <;> simp [pmcFoot, pmcCoreFoot, pmcGlobalFoot])
theorem vecTurn_pmc {s : State} (w : s.Wf) (core : Option Nat) (cls ev n part master : Nat) (addr : Option Nat) (k : Nat) : ((Act.pmc core cls ev n part master addr).run s).vecTurnAt k = s.vecTurnAt k := Act.pmc_foot s w .vecTurn k (by cases core <;> simp [pmcFoot, pmcCoreFoot, pmcGlobalFoot])
theorem health_pmc {s : State} (w : s.Wf) (core : Option Nat) (cls ev n part master : Nat) (addr : Option Nat) (k : Nat) : ((Act.pmc core cls ev n part master addr).run s).healthAt k = s.healthAt k := Act.pmc_foot s w .health k (by cases core <;> simp [pmcFoot, pmcCoreFoot, pmcGlobalFoot])
theorem leash_pmc {s : State} (w : s.Wf) (core : Option Nat) (cls ev n part master : Nat) (addr : Option Nat) (k : Nat) : ((Act.pmc core cls ev n part master addr).run s).leashAt k = s.leashAt k := Act.pmc_foot s w .leash k (by cases core <;> simp [pmcFoot, pmcCoreFoot, pmcGlobalFoot])
theorem trigs_pmc {s : State} (w : s.Wf) (core : Option Nat) (cls ev n part master : Nat) (addr : Option Nat) (k : Nat) : ((Act.pmc core cls ev n part master addr).run s).trigsAt k = s.trigsAt k := Act.pmc_foot s w .trigs k (by cases core <;> simp [pmcFoot, pmcCoreFoot, pmcGlobalFoot])
theorem log_pmc {s : State} (w : s.Wf) (core : Option Nat) (cls ev n part master : Nat) (addr : Option Nat) (k : Nat) : ((Act.pmc core cls ev n part master addr).run s).logAt k = s.logAt k := Act.pmc_foot s w .log k (by cases core <;> simp [pmcFoot, pmcCoreFoot, pmcGlobalFoot])
theorem recUsed_pmc {s : State} (w : s.Wf) (core : Option Nat) (cls ev n part master : Nat) (addr : Option Nat) (k : Nat) : ((Act.pmc core cls ev n part master addr).run s).recUsedAt k = s.recUsedAt k := Act.pmc_foot s w .recUsed k (by cases core <;> simp [pmcFoot, pmcCoreFoot, pmcGlobalFoot])
theorem recDrop_pmc {s : State} (w : s.Wf) (core : Option Nat) (cls ev n part master : Nat) (addr : Option Nat) (k : Nat) : ((Act.pmc core cls ev n part master addr).run s).recDropAt k = s.recDropAt k := Act.pmc_foot s w .recDrop k (by cases core <;> simp [pmcFoot, pmcCoreFoot, pmcGlobalFoot])
theorem engs_pmc {s : State} (w : s.Wf) (core : Option Nat) (cls ev n part master : Nat) (addr : Option Nat) (k : Nat) : ((Act.pmc core cls ev n part master addr).run s).engsAt k = s.engsAt k := Act.pmc_foot s w .engs k (by cases core <;> simp [pmcFoot, pmcCoreFoot, pmcGlobalFoot])
theorem conns_pmc {s : State} (w : s.Wf) (core : Option Nat) (cls ev n part master : Nat) (addr : Option Nat) (k : Nat) : ((Act.pmc core cls ev n part master addr).run s).connsAt k = s.connsAt k := Act.pmc_foot s w .conns k (by cases core <;> simp [pmcFoot, pmcCoreFoot, pmcGlobalFoot])
theorem bars_pmc {s : State} (w : s.Wf) (core : Option Nat) (cls ev n part master : Nat) (addr : Option Nat) (k : Nat) : ((Act.pmc core cls ev n part master addr).run s).barsAt k = s.barsAt k := Act.pmc_foot s w .bars k (by cases core <;> simp [pmcFoot, pmcCoreFoot, pmcGlobalFoot])
theorem hounds_pmc {s : State} (w : s.Wf) (core : Option Nat) (cls ev n part master : Nat) (addr : Option Nat) (k : Nat) : ((Act.pmc core cls ev n part master addr).run s).houndsAt k = s.houndsAt k := Act.pmc_foot s w .hounds k (by cases core <;> simp [pmcFoot, pmcCoreFoot, pmcGlobalFoot])
theorem samp_pmc {s : State} (w : s.Wf) (core : Option Nat) (cls ev n part master : Nat) (addr : Option Nat) (k : Nat) : ((Act.pmc core cls ev n part master addr).run s).sampAt k = s.sampAt k := Act.pmc_foot s w .samp k (by cases core <;> simp [pmcFoot, pmcCoreFoot, pmcGlobalFoot])
theorem cells_pmc {s : State} (w : s.Wf) (core : Option Nat) (cls ev n part master : Nat) (addr : Option Nat) (k : Nat) : ((Act.pmc core cls ev n part master addr).run s).cellsAt k = s.cellsAt k := Act.pmc_foot s w .cells k (by cases core <;> simp [pmcFoot, pmcCoreFoot, pmcGlobalFoot])
theorem cjobs_pmc {s : State} (w : s.Wf) (core : Option Nat) (cls ev n part master : Nat) (addr : Option Nat) (k : Nat) : ((Act.pmc core cls ev n part master addr).run s).cjobsAt k = s.cjobsAt k := Act.pmc_foot s w .cjobs k (by cases core <;> simp [pmcFoot, pmcCoreFoot, pmcGlobalFoot])
theorem dsps_pmc {s : State} (w : s.Wf) (core : Option Nat) (cls ev n part master : Nat) (addr : Option Nat) (k : Nat) : ((Act.pmc core cls ev n part master addr).run s).dspsAt k = s.dspsAt k := Act.pmc_foot s w .dsps k (by cases core <;> simp [pmcFoot, pmcCoreFoot, pmcGlobalFoot])
theorem dspMem_pmc {s : State} (w : s.Wf) (core : Option Nat) (cls ev n part master : Nat) (addr : Option Nat) (k : Nat) : ((Act.pmc core cls ev n part master addr).run s).dspMemAt k = s.dspMemAt k := Act.pmc_foot s w .dspMem k (by cases core <;> simp [pmcFoot, pmcCoreFoot, pmcGlobalFoot])
theorem dspP_pmc {s : State} (w : s.Wf) (core : Option Nat) (cls ev n part master : Nat) (addr : Option Nat) (k : Nat) : ((Act.pmc core cls ev n part master addr).run s).dspPAt k = s.dspPAt k := Act.pmc_foot s w .dspP k (by cases core <;> simp [pmcFoot, pmcCoreFoot, pmcGlobalFoot])
theorem dets_pmc {s : State} (w : s.Wf) (core : Option Nat) (cls ev n part master : Nat) (addr : Option Nat) (k : Nat) : ((Act.pmc core cls ev n part master addr).run s).detsAt k = s.detsAt k := Act.pmc_foot s w .dets k (by cases core <;> simp [pmcFoot, pmcCoreFoot, pmcGlobalFoot])
theorem dumps_pmc {s : State} (w : s.Wf) (core : Option Nat) (cls ev n part master : Nat) (addr : Option Nat) (k : Nat) : ((Act.pmc core cls ev n part master addr).run s).dumpsAt k = s.dumpsAt k := Act.pmc_foot s w .dumps k (by cases core <;> simp [pmcFoot, pmcCoreFoot, pmcGlobalFoot])
theorem clk_pmc {s : State} (w : s.Wf) (core : Option Nat) (cls ev n part master : Nat) (addr : Option Nat) : ((Act.pmc core cls ev n part master addr).run s).clk = s.clk := Act.pmc_foot s w .clk 0 (by cases core <;> simp [pmcFoot, pmcCoreFoot, pmcGlobalFoot])
theorem recd_pmc {s : State} (w : s.Wf) (core : Option Nat) (cls ev n part master : Nat) (addr : Option Nat) : ((Act.pmc core cls ev n part master addr).run s).recd = s.recd := Act.pmc_foot s w .recd 0 (by cases core <;> simp [pmcFoot, pmcCoreFoot, pmcGlobalFoot])
theorem attn_pmc {s : State} (w : s.Wf) (core : Option Nat) (cls ev n part master : Nat) (addr : Option Nat) : ((Act.pmc core cls ev n part master addr).run s).attn = s.attn := Act.pmc_foot s w .attn 0 (by cases core <;> simp [pmcFoot, pmcCoreFoot, pmcGlobalFoot])
theorem linkOn_pmc {s : State} (w : s.Wf) (core : Option Nat) (cls ev n part master : Nat) (addr : Option Nat) : ((Act.pmc core cls ev n part master addr).run s).linkOn = s.linkOn := Act.pmc_foot s w .linkOn 0 (by cases core <;> simp [pmcFoot, pmcCoreFoot, pmcGlobalFoot])
theorem failed_pmc {s : State} (w : s.Wf) (core : Option Nat) (cls ev n part master : Nat) (addr : Option Nat) : ((Act.pmc core cls ev n part master addr).run s).failed = s.failed := Act.pmc_foot s w .failed 0 (by cases core <;> simp [pmcFoot, pmcCoreFoot, pmcGlobalFoot])
theorem lpAct0_pmc {s : State} (w : s.Wf) (core : Option Nat) (cls ev n part master : Nat) (addr : Option Nat) : ((Act.pmc core cls ev n part master addr).run s).lpAct0 = s.lpAct0 := Act.pmc_foot s w .lpAct0 0 (by cases core <;> simp [pmcFoot, pmcCoreFoot, pmcGlobalFoot])
theorem lpAct1_pmc {s : State} (w : s.Wf) (core : Option Nat) (cls ev n part master : Nat) (addr : Option Nat) : ((Act.pmc core cls ev n part master addr).run s).lpAct1 = s.lpAct1 := Act.pmc_foot s w .lpAct1 0 (by cases core <;> simp [pmcFoot, pmcCoreFoot, pmcGlobalFoot])
theorem sigq_pmc {s : State} (w : s.Wf) (core : Option Nat) (cls ev n part master : Nat) (addr : Option Nat) : ((Act.pmc core cls ev n part master addr).run s).sigq = s.sigq := Act.pmc_foot s w .sigq 0 (by cases core <;> simp [pmcFoot, pmcCoreFoot, pmcGlobalFoot])
theorem convq_pmc {s : State} (w : s.Wf) (core : Option Nat) (cls ev n part master : Nat) (addr : Option Nat) : ((Act.pmc core cls ev n part master addr).run s).convq = s.convq := Act.pmc_foot s w .convq 0 (by cases core <;> simp [pmcFoot, pmcCoreFoot, pmcGlobalFoot])
theorem flash_pmc {s : State} (w : s.Wf) (core : Option Nat) (cls ev n part master : Nat) (addr : Option Nat) : ((Act.pmc core cls ev n part master addr).run s).flash = s.flash := Act.pmc_foot s w .flash 0 (by cases core <;> simp [pmcFoot, pmcCoreFoot, pmcGlobalFoot])
theorem arrives_pmc {s : State} (w : s.Wf) (core : Option Nat) (cls ev n part master : Nat) (addr : Option Nat) : ((Act.pmc core cls ev n part master addr).run s).arrives = s.arrives := Act.pmc_foot s w .arrives 0 (by cases core <;> simp [pmcFoot, pmcCoreFoot, pmcGlobalFoot])
theorem held_pmc {s : State} (w : s.Wf) (core : Option Nat) (cls ev n part master : Nat) (addr : Option Nat) : ((Act.pmc core cls ev n part master addr).run s).held = s.held := Act.pmc_foot s w .held 0 (by cases core <;> simp [pmcFoot, pmcCoreFoot, pmcGlobalFoot])
theorem heldCode_pmc {s : State} (w : s.Wf) (core : Option Nat) (cls ev n part master : Nat) (addr : Option Nat) : ((Act.pmc core cls ev n part master addr).run s).heldCode = s.heldCode := Act.pmc_foot s w .heldCode 0 (by cases core <;> simp [pmcFoot, pmcCoreFoot, pmcGlobalFoot])
theorem pairs_pmc {s : State} (w : s.Wf) (core : Option Nat) (cls ev n part master : Nat) (addr : Option Nat) : ((Act.pmc core cls ev n part master addr).run s).pairs = s.pairs := Act.pmc_foot s w .pairs 0 (by cases core <;> simp [pmcFoot, pmcCoreFoot, pmcGlobalFoot])
theorem radio_pmc {s : State} (w : s.Wf) (core : Option Nat) (cls ev n part master : Nat) (addr : Option Nat) : ((Act.pmc core cls ev n part master addr).run s).radio = s.radio := Act.pmc_foot s w .radio 0 (by cases core <;> simp [pmcFoot, pmcCoreFoot, pmcGlobalFoot])
theorem time_pmc {s : State} (w : s.Wf) (core : Option Nat) (cls ev n part master : Nat) (addr : Option Nat) : ((Act.pmc core cls ev n part master addr).run s).time = s.time := Act.pmc_foot s w .time 0 (by cases core <;> simp [pmcFoot, pmcCoreFoot, pmcGlobalFoot])
theorem last_pmc {s : State} (w : s.Wf) (core : Option Nat) (cls ev n part master : Nat) (addr : Option Nat) : ((Act.pmc core cls ev n part master addr).run s).last = s.last := Act.pmc_foot s w .last 0 (by cases core <;> simp [pmcFoot, pmcCoreFoot, pmcGlobalFoot])
theorem sys_pmc {s : State} (w : s.Wf) (core : Option Nat) (cls ev n part master : Nat) (addr : Option Nat) : ((Act.pmc core cls ev n part master addr).run s).sys = s.sys := Act.pmc_foot s w .sys 0 (by cases core <;> simp [pmcFoot, pmcCoreFoot, pmcGlobalFoot])
theorem free_pmc {s : State} (w : s.Wf) (core : Option Nat) (cls ev n part master : Nat) (addr : Option Nat) : ((Act.pmc core cls ev n part master addr).run s).free = s.free := Act.pmc_foot s w .free 0 (by cases core <;> simp [pmcFoot, pmcCoreFoot, pmcGlobalFoot])
theorem emitted_pmc {s : State} (w : s.Wf) (core : Option Nat) (cls ev n part master : Nat) (addr : Option Nat) : ((Act.pmc core cls ev n part master addr).run s).emitted = s.emitted := Act.pmc_foot s w .emitted 0 (by cases core <;> simp [pmcFoot, pmcCoreFoot, pmcGlobalFoot])

end Sys2Proof.Machine
end

