-- ==== Sys2Proof/Laws/HostLink.lean ====
section
/-! SUPPORT. What the commands of the host link and the Ethernet ports do. -/

set_option linter.unusedSimpArgs false

namespace Sys2Proof.Machine

/-- A health event counts in its input. -/
theorem healthEv_self {s : State} (w : s.Wf) (kind idx i n : Nat) : ((Act.healthEv kind idx i n).run s).healthAt (kind * 1024 + idx) =
    match i with
    | 0 => { s.healthAt (kind * 1024 + idx) with ev0 := (s.healthAt (kind * 1024 + idx)).ev0 + n }
    | 1 => { s.healthAt (kind * 1024 + idx) with ev1 := (s.healthAt (kind * 1024 + idx)).ev1 + n }
    | 2 => { s.healthAt (kind * 1024 + idx) with ev2 := (s.healthAt (kind * 1024 + idx)).ev2 + n }
    | _ => { s.healthAt (kind * 1024 + idx) with ev3 := (s.healthAt (kind * 1024 + idx)).ev3 + n } := by
  unfold Act.healthEv
  rw [Act.cons_run, Act.cons_run, Act.nil_run, health_pmc (Act.wf w _), Act.modHealth_self w] <;> rfl

theorem attn_rbWant (low : Bool) (s : State) : ((Act.rbWant low).run s).attn.again = s.attn.again := by
  unfold Act.rbWant
  rw [Act.get_run]
  split <;> rfl

theorem setBit_lt {v i n : Nat} (hv : v < 2 ^ n) (hi : i < n) : setBit v i < 2 ^ n :=
  Nat.or_lt_two_pow hv (Nat.pow_lt_pow_right (by decide) hi)

/-- The vector written once, where it is written at all (R292, R295, R296). -/
def vectorOnce : Act := .get fun t => .when t.attnWrites (if t.attn.busy then .modAttn fun a => { a with again := true } else .vectorWrite)

@[simp] theorem vectorOnce_in {F : Foot} (h : attnOutFoot.le F) : vectorOnce.In F := by
  refine Act.In.le (F := attnOutFoot) (Act.get_in fun t => Act.when_in fun _ => ?_) h
  split
  · simp [attnOutFoot]
  · simp

theorem fld_vectorOnce {s : State} (w : s.Wf) {b : Nat} (h : ¬ attnOutFoot .regs b) (g : Field) :
    (vectorOnce.run s).fld b g = s.fld b g := Act.In.fld (vectorOnce_in Foot.le_refl) w h g

theorem gives_badFcsFrame {s : State} (w : s.Wf) {port : Nat} (h : port < 48) :
    Gives (.badFcsFrame port) s fun t => Same (.reg (R.fhPortCnt port)) s t ∧ (t.fld (R.fhPortCnt port) F.fhPortCnt_FCS = min (s.fld (R.fhPortCnt port) F.fhPortCnt_FCS + 1) F.fhPortCnt_FCS.max) := by
  have hw : F.fhPortCnt_FCS.within (R.fhPortCnt port) = true := (show ∀ i, i < 48 → F.fhPortCnt_FCS.within (R.fhPortCnt i) = true by decide) port h
  refine gives_same w (a := .incF (R.fhPortCnt port) F.fhPortCnt_FCS) ?_ ?_ ?_
  · refine (show execBadFcsFrame port s = Act.out s _ from rfl).trans (out_congr ?_)
    simp [h]
  ·   repeat' first
      | with_reducible first
        | exact Act.nil_in
        | apply Act.cons_in
        | apply Act.seq_in
        | (apply Act.get_in; intro _)
        | (apply Act.when_in; intro _)
        | (apply Act.each_in; intro _ _)
        | (apply Act.withFree_in; intro _)
      | (simp (maxDischargeDepth := 9); done)
      | (simp (maxDischargeDepth := 9) [attnFoot, attnOutFoot, recFoot, hostFoot, pmcCoreFoot, pmcGlobalFoot, healthFoot, healthLevelFoot, violFoot, healthReg]; done)
      | dsimp only
      | split
  · repeat' refine And.intro ?_ ?_
    all_goals first
      | (simp (maxDischargeDepth := 20) (disch := first
          | assumption
          | (repeat apply Act.wf
             assumption)
          | decide
          | (simp [attnFoot, attnOutFoot, recFoot, hostFoot, pmcCoreFoot, pmcGlobalFoot, healthFoot, healthLevelFoot, violFoot, healthReg, R.corePmcCtl, R.fhPortCnt, R.gpmcCtl, R.healthUnitMod, R.hostAttn, R.hostAttn4, R.hostAttn7, R.recCnt, R.recCnt2, R.recStat, R.sliceViol] <;> omega)
          | fail) only [Act.cons_run, Act.nil_run, Act.get_run, Act.when_true, Act.when_false, Act.skip_run, Act.seq_run, State.fld_setF, State.fld_modF, State.fld_incF, fld_setF_ne, fld_modF_ne, fld_incF_ne, fld_setRegs_ne, fld_record, fld_attnChanged, fld_vectorWrite, fld_rbWant, fld_attnSet, fld_pmc, fld_healthEv, fld_violation, State.fld_setF_apart, State.fld_modF_apart, State.fld_incF_apart, State.fld_setRegs, fld_when, ite_self]
         try simp [*, F.fhPortCnt_FCS, F.fhPortCnt_FCSt]
         try omega
         done)
      | rfl
      | skip

theorem gives_linkUp {s : State} (w : s.Wf) {rate : Nat} {width : Nat} {flit : Bool} (h0 : s.linkOn = false) (h1 : s.sys.perst = false) (h2 : 5 ≤ rate) (h3 : rate ≤ 7) (h4 : 1 ≤ width) (h5 : width ≤ 5) :
    Gives (.linkUp rate width flit) s fun t => Same (.any [.whole [.linkOn], .reg R.hostLink, attnOutFoot]) s t ∧ (t.fld R.hostLink F.hostLink_RATE = rate ∧ t.fld R.hostLink F.hostLink_WIDTH = width) := by
  refine gives_same w (a := .all [.modLinkOn fun _ => true, .setF R.hostLink F.hostLink_RATE rate, .setF R.hostLink F.hostLink_WIDTH width,
      .setF R.hostLink F.hostLink_FLIT (if rate > 5 || flit then 1 else 0), vectorOnce]) ?_ ?_ ?_
  · refine (show execLinkUp rate width flit s = Act.out s _ from rfl).trans (out_congr ?_)
    simp [h0, h1, h2, h3, h4, h5, vectorOnce]
  ·   repeat' first
      | with_reducible first
        | exact Act.nil_in
        | apply Act.cons_in
        | apply Act.seq_in
        | (apply Act.get_in; intro _)
        | (apply Act.when_in; intro _)
        | (apply Act.each_in; intro _ _)
        | (apply Act.withFree_in; intro _)
      | (simp (maxDischargeDepth := 9); done)
      | (simp (maxDischargeDepth := 9) [attnFoot, attnOutFoot, recFoot, hostFoot, pmcCoreFoot, pmcGlobalFoot, healthFoot, healthLevelFoot, violFoot, healthReg]; done)
      | dsimp only
      | split
  · repeat' refine And.intro ?_ ?_
    all_goals first
      | (simp (maxDischargeDepth := 20) (disch := first
          | assumption
          | (repeat apply Act.wf
             assumption)
          | decide
          | (simp [attnFoot, attnOutFoot, recFoot, hostFoot, pmcCoreFoot, pmcGlobalFoot, healthFoot, healthLevelFoot, violFoot, healthReg, R.corePmcCtl, R.gpmcCtl, R.healthUnitMod, R.hostAttn, R.hostAttn4, R.hostAttn7, R.hostLink, R.recCnt, R.recCnt2, R.recStat, R.sliceViol] <;> omega)
          | fail) only [Act.cons_run, Act.nil_run, Act.get_run, Act.when_true, Act.when_false, Act.skip_run, Act.seq_run, State.fld_setF, State.fld_modF, State.fld_incF, fld_setF_ne, fld_modF_ne, fld_incF_ne, fld_setRegs_ne, fld_record, fld_attnChanged, fld_vectorWrite, fld_rbWant, fld_attnSet, fld_pmc, fld_healthEv, fld_violation, State.fld_setF_apart, State.fld_modF_apart, State.fld_incF_apart, State.fld_setRegs, fld_when, ite_self, fld_vectorOnce, fld_modLinkOn]
         try simp [*, F.hostLink_FLIT, F.hostLink_RATE, F.hostLink_WIDTH]
         try omega
         done)
      | rfl
      | skip

theorem gives_pcieCorrectableError {s : State} (w : s.Wf) :
    Gives (.pcieCorrectableError) s fun t => Same (.any [.reg R.hostLink, healthFoot]) s t ∧ (t.fld R.hostLink F.hostLink_CE = min (s.fld R.hostLink F.hostLink_CE + 1) F.hostLink_CE.max) := by
  refine gives_same w (a := .all [.incF R.hostLink F.hostLink_CE, .healthEv 0 0 1]) ?_ ?_ ?_
  · refine (show execPcieCorrectableError s = Act.out s _ from rfl).trans (out_congr ?_)
    simp []
  ·   repeat' first
      | with_reducible first
        | exact Act.nil_in
        | apply Act.cons_in
        | apply Act.seq_in
        | (apply Act.get_in; intro _)
        | (apply Act.when_in; intro _)
        | (apply Act.each_in; intro _ _)
        | (apply Act.withFree_in; intro _)
      | (simp (maxDischargeDepth := 9); done)
      | (simp (maxDischargeDepth := 9) [attnFoot, attnOutFoot, recFoot, hostFoot, pmcCoreFoot, pmcGlobalFoot, healthFoot, healthLevelFoot, violFoot, healthReg]; done)
      | dsimp only
      | split
  · repeat' refine And.intro ?_ ?_
    all_goals first
      | (simp (maxDischargeDepth := 20) (disch := first
          | assumption
          | (repeat apply Act.wf
             assumption)
          | decide
          | (simp [attnFoot, attnOutFoot, recFoot, hostFoot, pmcCoreFoot, pmcGlobalFoot, healthFoot, healthLevelFoot, violFoot, healthReg, R.corePmcCtl, R.gpmcCtl, R.healthUnitMod, R.hostAttn, R.hostAttn4, R.hostAttn7, R.hostLink, R.recCnt, R.recCnt2, R.recStat, R.sliceViol] <;> omega)
          | fail) only [Act.cons_run, Act.nil_run, Act.get_run, Act.when_true, Act.when_false, Act.skip_run, Act.seq_run, State.fld_setF, State.fld_modF, State.fld_incF, fld_setF_ne, fld_modF_ne, fld_incF_ne, fld_setRegs_ne, fld_record, fld_attnChanged, fld_vectorWrite, fld_rbWant, fld_attnSet, fld_pmc, fld_healthEv, fld_violation, State.fld_setF_apart, State.fld_modF_apart, State.fld_incF_apart, State.fld_setRegs, fld_when, ite_self]
         try simp [*, F.hostLink_CE]
         try omega
         done)
      | rfl
      | skip

theorem gives_attentionSet {s : State} (w : s.Wf) {b : Nat} (h : b < 256) :
    Gives (.attentionSet b) s fun t => Same (.any [.reg (R.hostAttn (b / 64)), attnOutFoot]) s t ∧ (t.fld (R.hostAttn (b / 64)) ⟨63, 0, .w1c, 0⟩ = setBit (s.fld (R.hostAttn (b / 64)) ⟨63, 0, .w1c, 0⟩) (b % 64)) := by
  have hw : (⟨63, 0, .w1c, 0⟩ : Field).within (R.hostAttn (b / 64)) = true :=
    (show ∀ i, i < 4 → (⟨63, 0, .w1c, 0⟩ : Field).within (R.hostAttn i) = true by decide) _ (by omega)
  have hl := setBit_lt (n := 64) (i := b % 64) (Field.get_lt ⟨63, 0, .w1c, 0⟩ (s.rd (R.hostAttn (b / 64)))) (by omega)
  refine gives_same w (a := .all [.modF (R.hostAttn (b / 64)) ⟨63, 0, .w1c, 0⟩ (setBit · (b % 64)), .attnChanged]) ?_ ?_ ?_
  · refine (show execAttentionSet b s = Act.out s _ from rfl).trans (out_congr ?_)
    simp [h, Act.attnSet, Nat.lt_trans h (by decide : 256 < 259)]
  ·   repeat' first
      | with_reducible first
        | exact Act.nil_in
        | apply Act.cons_in
        | apply Act.seq_in
        | (apply Act.get_in; intro _)
        | (apply Act.when_in; intro _)
        | (apply Act.each_in; intro _ _)
        | (apply Act.withFree_in; intro _)
      | (simp (maxDischargeDepth := 9); done)
      | (simp (maxDischargeDepth := 9) [attnFoot, attnOutFoot, recFoot, hostFoot, pmcCoreFoot, pmcGlobalFoot, healthFoot, healthLevelFoot, violFoot, healthReg]; done)
      | dsimp only
      | split
  · rw [fld_head w (G := attnOutFoot) (Act.cons_in (by simp) Act.nil_in) (by simp [attnOutFoot, hostFoot, R.hostAttn, R.hostAttn7]; omega), State.fld_modF w hw]
    exact Nat.mod_eq_of_lt hl

theorem gives_attentionSet_mgr {s : State} (w : s.Wf) {b : Nat} (h : 256 ≤ b) (h2 : b < 259) :
    Gives (.attentionSet b) s fun t => Same (.any [.reg R.hostAttn4, attnOutFoot]) s t ∧ (t.fld R.hostAttn4 F.hostAttn4_BITS = setBit (s.fld R.hostAttn4 F.hostAttn4_BITS) (b - 256)) := by
  have hl := setBit_lt (n := 3) (i := b - 256) (Field.get_lt F.hostAttn4_BITS (s.rd R.hostAttn4)) (by omega)
  refine gives_same w (a := .all [.modF R.hostAttn4 F.hostAttn4_BITS (setBit · (b - 256)), .attnChanged]) ?_ ?_ ?_
  · refine (show execAttentionSet b s = Act.out s _ from rfl).trans (out_congr ?_)
    simp [h, h2, Act.attnSet, Nat.not_lt.mpr h]
  ·   repeat' first
      | with_reducible first
        | exact Act.nil_in
        | apply Act.cons_in
        | apply Act.seq_in
        | (apply Act.get_in; intro _)
        | (apply Act.when_in; intro _)
        | (apply Act.each_in; intro _ _)
        | (apply Act.withFree_in; intro _)
      | (simp (maxDischargeDepth := 9); done)
      | (simp (maxDischargeDepth := 9) [attnFoot, attnOutFoot, recFoot, hostFoot, pmcCoreFoot, pmcGlobalFoot, healthFoot, healthLevelFoot, violFoot, healthReg]; done)
      | dsimp only
      | split
  · rw [fld_head w (G := attnOutFoot) (Act.cons_in (by simp) Act.nil_in) (by simp [attnOutFoot, hostFoot, R.hostAttn4, R.hostAttn7]), State.fld_modF w (by decide)]
    exact Nat.mod_eq_of_lt hl

theorem gives_attentionFlushDone {s : State} (w : s.Wf) {ok : Bool} (h : s.attn.busy = true) (h1 : s.attn.wrote = true) (h2 : s.attn.again = false) :
    Gives (.attentionFlushDone ok) s fun t => Same (.whole [.attn, .emitted]) s t ∧ (t.attn.busy = false ∧ t.attn.want = true) := by
  refine gives_same w (a := .all [.modAttn fun a => { a with busy := false }, .rbWant true]) ?_ ?_ ?_
  · refine (show execAttentionFlushDone ok s = Act.out s _ from rfl).trans (out_congr ?_)
    simp [h, h1, h2, attn_rbWant]
  ·   repeat' first
      | with_reducible first
        | exact Act.nil_in
        | apply Act.cons_in
        | apply Act.seq_in
        | (apply Act.get_in; intro _)
        | (apply Act.when_in; intro _)
        | (apply Act.each_in; intro _ _)
        | (apply Act.withFree_in; intro _)
      | (simp (maxDischargeDepth := 9); done)
      | (simp (maxDischargeDepth := 9) [attnFoot, attnOutFoot, recFoot, hostFoot, pmcCoreFoot, pmcGlobalFoot, healthFoot, healthLevelFoot, violFoot, healthReg]; done)
      | dsimp only
      | split
  · constructor
    all_goals
      simp only [Act.cons_run, Act.nil_run, Act.rbWant, Act.get_run, Act.modAttn]
      split <;> simp [Act.all, Act.seq, Act.skip, Act.modAttn, Act.emit, *]

theorem gives_attentionAck {s : State} (w : s.Wf) {word : Nat} {val : Word} {tied : Word} (h : word < 4) (h1 : s.rd (R.hostAttn word) &&& (val &&& ~~~tied) ≠ 0) :
    Gives (.attentionAck word val tied) s fun t => Same (.any [.reg (R.hostAttn word), attnOutFoot]) s t ∧ (t.rd (R.hostAttn word) = s.rd (R.hostAttn word) &&& ~~~(val &&& ~~~tied)) := by
  refine gives_same w (a := .all [.setRegs (R.hostAttn word) (s.rd (R.hostAttn word) &&& ~~~(val &&& ~~~tied)), .attnChanged]) ?_ ?_ ?_
  · refine (show execAttentionAck word val tied s = Act.out s _ from rfl).trans (out_congr ?_)
    simp only [Act.attnAck, Act.get_run, h, if_true, bne_iff_ne.mpr h1, Act.when_true]
  ·   repeat' first
      | with_reducible first
        | exact Act.nil_in
        | apply Act.cons_in
        | apply Act.seq_in
        | (apply Act.get_in; intro _)
        | (apply Act.when_in; intro _)
        | (apply Act.each_in; intro _ _)
        | (apply Act.withFree_in; intro _)
      | (simp (maxDischargeDepth := 9); done)
      | (simp (maxDischargeDepth := 9) [attnFoot, attnOutFoot, recFoot, hostFoot, pmcCoreFoot, pmcGlobalFoot, healthFoot, healthLevelFoot, violFoot, healthReg]; done)
      | dsimp only
      | split
  · rw [rd_head w (G := attnOutFoot) (Act.cons_in (by simp) Act.nil_in) (by simp [attnOutFoot, hostFoot, R.hostAttn, R.hostAttn7]; omega), State.rd_setRegs w,
      (show ∀ i, i < 4 → regMask (R.hostAttn i) = BitVec.allOnes 64 by decide) word h, BitVec.and_allOnes]

theorem gives_attnCfgWrite {s : State} (w : s.Wf) {val : Word} :
    Gives (.attnCfgWrite val) s fun t => Same (.any [.reg R.hostAttnCfg, attnOutFoot]) s t ∧ (t.rd R.hostAttnCfg = val &&& regMask R.hostAttnCfg) := by
  refine gives_same w (a := .all [.setRegs R.hostAttnCfg val, .when (F.hostAttnCfg_EN.get val == 1 && (!s.flag R.hostAttnCfg F.hostAttnCfg_EN || F.hostAttnCfg_BASE.get val != s.fld R.hostAttnCfg F.hostAttnCfg_BASE)) vectorOnce]) ?_ ?_ ?_
  · refine (show execAttnCfgWrite val s = Act.out s _ from rfl).trans (out_congr ?_)
    simp [Act.attnCfgWrite, vectorOnce]
  ·   repeat' first
      | with_reducible first
        | exact Act.nil_in
        | apply Act.cons_in
        | apply Act.seq_in
        | (apply Act.get_in; intro _)
        | (apply Act.when_in; intro _)
        | (apply Act.each_in; intro _ _)
        | (apply Act.withFree_in; intro _)
      | (simp (maxDischargeDepth := 9); done)
      | (simp (maxDischargeDepth := 9) [attnFoot, attnOutFoot, recFoot, hostFoot, pmcCoreFoot, pmcGlobalFoot, healthFoot, healthLevelFoot, violFoot, healthReg]; done)
      | dsimp only
      | split
  · rw [rd_head w (G := attnOutFoot) (Act.cons_in (Act.when_in fun _ => by simp) Act.nil_in) (by simp [attnOutFoot, hostFoot, R.hostAttnCfg, R.hostAttn7]),
      State.rd_setRegs w]

theorem gives_rbNHoldEnd {s : State} (w : s.Wf) (h : s.attn.hold = true) :
    Gives (.rbNHoldEnd) s fun t => Same (.whole [.attn, .emitted]) s t ∧ (t.attn.rbLow = s.attn.want) := by
  refine gives_same w (a := .all [.modAttn fun a => { a with hold := false }, .rbWant s.attn.want]) ?_ ?_ ?_
  · refine (show execRbNHoldEnd s = Act.out s _ from rfl).trans (out_congr ?_)
    simp [h]
  ·   repeat' first
      | with_reducible first
        | exact Act.nil_in
        | apply Act.cons_in
        | apply Act.seq_in
        | (apply Act.get_in; intro _)
        | (apply Act.when_in; intro _)
        | (apply Act.each_in; intro _ _)
        | (apply Act.withFree_in; intro _)
      | (simp (maxDischargeDepth := 9); done)
      | (simp (maxDischargeDepth := 9) [attnFoot, attnOutFoot, recFoot, hostFoot, pmcCoreFoot, pmcGlobalFoot, healthFoot, healthLevelFoot, violFoot, healthReg]; done)
      | dsimp only
      | split
  · simp only [Act.cons_run, Act.nil_run, Act.rbWant, Act.get_run, Act.modAttn]
    split <;> simp_all [Act.all, Act.seq, Act.skip, Act.modAttn, Act.emit]

theorem gives_linkDown {s : State} (w : s.Wf) (h : s.linkOn = true) (h1 : s.sys.perst = false) :
    Gives (.linkDown) s fun t => Same (.any [.whole [.linkOn], .reg R.hostLink, healthFoot]) s t ∧ (t.linkOn = false ∧ t.fld R.hostLink F.hostLink_RATE = 0 ∧ t.fld R.hostLink F.hostLink_DOWNS = min (s.fld R.hostLink F.hostLink_DOWNS + 1) F.hostLink_DOWNS.max) := by
  refine gives_same w (a := .all [.modLinkOn fun _ => false, .setF R.hostLink F.hostLink_RATE 0, .setF R.hostLink F.hostLink_WIDTH 0, .setF R.hostLink F.hostLink_FLIT 0,
      .all [.incF R.hostLink F.hostLink_DOWNS, .healthEv 0 0 2]]) ?_ ?_ ?_
  · refine (show execLinkDown s = Act.out s _ from rfl).trans (out_congr ?_)
    simp [h, h1]
  ·   repeat' first
      | with_reducible first
        | exact Act.nil_in
        | apply Act.cons_in
        | apply Act.seq_in
        | (apply Act.get_in; intro _)
        | (apply Act.when_in; intro _)
        | (apply Act.each_in; intro _ _)
        | (apply Act.withFree_in; intro _)
      | (simp (maxDischargeDepth := 9); done)
      | (simp (maxDischargeDepth := 9) [attnFoot, attnOutFoot, recFoot, hostFoot, pmcCoreFoot, pmcGlobalFoot, healthFoot, healthLevelFoot, violFoot, healthReg]; done)
      | dsimp only
      | split
  · repeat' refine And.intro ?_ ?_
    all_goals first
      | (simp (maxDischargeDepth := 20) (disch := first
          | assumption
          | (repeat apply Act.wf
             assumption)
          | decide
          | (simp [attnFoot, attnOutFoot, recFoot, hostFoot, pmcCoreFoot, pmcGlobalFoot, healthFoot, healthLevelFoot, violFoot, healthReg, R.corePmcCtl, R.gpmcCtl, R.healthUnitMod, R.hostAttn, R.hostAttn4, R.hostAttn7, R.hostLink, R.recCnt, R.recCnt2, R.recStat, R.sliceViol] <;> omega)
          | fail) only [Act.cons_run, Act.nil_run, Act.get_run, Act.when_true, Act.when_false, Act.skip_run, Act.seq_run, State.fld_setF, State.fld_modF, State.fld_incF, fld_setF_ne, fld_modF_ne, fld_incF_ne, fld_setRegs_ne, fld_record, fld_attnChanged, fld_vectorWrite, fld_rbWant, fld_attnSet, fld_pmc, fld_healthEv, fld_violation, State.fld_setF_apart, State.fld_modF_apart, State.fld_incF_apart, State.fld_setRegs, fld_when, ite_self, fld_modLinkOn, Act.modLinkOn_linkOn, linkOn_setRegs, linkOn_setF, linkOn_modF, linkOn_incF, linkOn_attnChanged, linkOn_attnSet, linkOn_record, linkOn_violation, linkOn_healthEv, linkOn_pmc]
         try simp [*, F.hostLink_DOWNS, F.hostLink_FLIT, F.hostLink_RATE, F.hostLink_WIDTH]
         try omega
         done)
      | rfl
      | skip

theorem gives_portLinkUp {s : State} (w : s.Wf) {port : Nat} (h : port < 48) (h1 : s.fld (R.fhPortCfg port) F.fhPortCfg_WIDTH ≠ 0) (h2 : port ∉ s.sys.ports) :
    Gives (.portLinkUp port) s fun t => Same (.whole [.sys]) s t ∧ (t.sys.ports = (s.sys.ports.filter (· < port)) ++ [port] ++ s.sys.ports.filter (port < ·)) := by
  refine gives_same w (a := .modSys fun y => { y with ports := (y.ports.filter (· < port)) ++ [port] ++ y.ports.filter (port < ·) }) ?_ ?_ ?_
  · refine (show execPortLinkUp port s = Act.out s _ from rfl).trans (out_congr ?_)
    simp [h, h1, h2, bne_iff_ne.mpr h1]
  ·   repeat' first
      | with_reducible first
        | exact Act.nil_in
        | apply Act.cons_in
        | apply Act.seq_in
        | (apply Act.get_in; intro _)
        | (apply Act.when_in; intro _)
        | (apply Act.each_in; intro _ _)
        | (apply Act.withFree_in; intro _)
      | (simp (maxDischargeDepth := 9); done)
      | (simp (maxDischargeDepth := 9) [attnFoot, attnOutFoot, recFoot, hostFoot, pmcCoreFoot, pmcGlobalFoot, healthFoot, healthLevelFoot, violFoot, healthReg]; done)
      | dsimp only
      | split
  · rfl

theorem gives_channelRetraining {s : State} (w : s.Wf) {ch : Nat} {retries : Nat} (h : ch < 128) :
    Gives (.channelRetraining ch retries true) s fun t => Same (healthFoot) s t ∧ ((t.healthAt (1 * 1024 + ch)).ev2 = (s.healthAt (1 * 1024 + ch)).ev2 + retries) := by
  refine gives_same w (a := .healthEv 1 ch 2 retries) ?_ ?_ ?_
  · refine (show execChannelRetraining ch retries true s = Act.out s _ from rfl).trans (out_congr ?_)
    simp [h]
  ·   repeat' first
      | with_reducible first
        | exact Act.nil_in
        | apply Act.cons_in
        | apply Act.seq_in
        | (apply Act.get_in; intro _)
        | (apply Act.when_in; intro _)
        | (apply Act.each_in; intro _ _)
        | (apply Act.withFree_in; intro _)
      | (simp (maxDischargeDepth := 9); done)
      | (simp (maxDischargeDepth := 9) [attnFoot, attnOutFoot, recFoot, hostFoot, pmcCoreFoot, pmcGlobalFoot, healthFoot, healthLevelFoot, violFoot, healthReg]; done)
      | dsimp only
      | split
  · rw [healthEv_self w]
    rfl

theorem gives_fecUncorrectableCodeword {s : State} (w : s.Wf) {lane : Nat} (h : lane < 48) :
    Gives (.fecUncorrectableCodeword lane) s fun t => Same (.any [.whole [.free], recFoot, healthFoot]) s t ∧ ((t.healthAt (2 * 1024 + lane)).ev1 = (s.healthAt (2 * 1024 + lane)).ev1 + 1) := by
  refine gives_same w (a := .all [.withFree fun n => .record 0x06 0x3FF 0x5002 [BitVec.ofNat 64 lane, Config.laneCount n], .healthEv 2 lane 1]) ?_ ?_ ?_
  · refine (show execFecUncorrectableCodeword lane s = Act.out s _ from rfl).trans (out_congr ?_)
    simp [h]
  ·   repeat' first
      | with_reducible first
        | exact Act.nil_in
        | apply Act.cons_in
        | apply Act.seq_in
        | (apply Act.get_in; intro _)
        | (apply Act.when_in; intro _)
        | (apply Act.each_in; intro _ _)
        | (apply Act.withFree_in; intro _)
      | (simp (maxDischargeDepth := 9); done)
      | (simp (maxDischargeDepth := 9) [attnFoot, attnOutFoot, recFoot, hostFoot, pmcCoreFoot, pmcGlobalFoot, healthFoot, healthLevelFoot, violFoot, healthReg]; done)
      | dsimp only
      | split
  · simp only [Act.cons_run, Act.nil_run, Act.withFree, Act.get_run, Act.seq_run]
    rw [healthEv_self (Act.wf (Act.wf w _) _), health_record (Act.wf w _)]
    rfl

theorem gives_laneLossOfSignal {s : State} (w : s.Wf) {lane : Nat} {p : Nat} (h : lane < 48) (h1 : s.portOf lane = some p) (h2 : s.fld (R.fhPortCfg p) F.fhPortCfg_USE ≠ 2) :
    Gives (.laneLossOfSignal lane) s fun t => Same (.any [.whole [.free, .sys], recFoot, healthFoot]) s t ∧ (t.sys.ports = s.sys.ports.filter (· != p) ∧ (t.healthAt (2 * 1024 + lane)).ev2 = (s.healthAt (2 * 1024 + lane)).ev2 + 1) := by
  refine gives_same w (a := .all [.withFree fun n => .record 0x06 0x3FF 0x5001 [BitVec.ofNat 64 lane, Config.laneCount n], .healthEv 2 lane 2, .portDown p]) ?_ ?_ ?_
  · refine (show execLaneLossOfSignal lane s = Act.out s _ from rfl).trans (out_congr ?_)
    simp [h, h1, h2, bne_iff_ne.mpr h2, Act.laneLoss]
  ·   repeat' first
      | with_reducible first
        | exact Act.nil_in
        | apply Act.cons_in
        | apply Act.seq_in
        | (apply Act.get_in; intro _)
        | (apply Act.when_in; intro _)
        | (apply Act.each_in; intro _ _)
        | (apply Act.withFree_in; intro _)
      | (simp (maxDischargeDepth := 9); done)
      | (simp (maxDischargeDepth := 9) [Act.portDown, attnFoot, attnOutFoot, recFoot, hostFoot, pmcCoreFoot, pmcGlobalFoot, healthFoot, healthLevelFoot, violFoot, healthReg]; done)
      | dsimp only
      | split
  · simp only [Act.cons_run, Act.nil_run, Act.withFree, Act.get_run, Act.seq_run, Act.portDown]
    constructor
    · rw [Act.modSys_sys, sys_healthEv (Act.wf (Act.wf w _) _), sys_record (Act.wf w _)]
      rfl
    · rw [show ∀ (u : State) g k, ((Act.modSys g).run u).healthAt k = u.healthAt k from fun _ _ _ => rfl,
        healthEv_self (Act.wf (Act.wf w _) _), health_record (Act.wf w _)]
      rfl

theorem gives_fabricPortDown {s : State} (w : s.Wf) {lane : Nat} {p : Nat} (h : lane < 48) (h1 : s.portOf lane = some p) (h2 : s.fld (R.fhPortCfg lane) F.fhPortCfg_USE = 2) (h3 : lane ∈ s.sys.ports) :
    Gives (.fabricPortDown lane) s fun t => Same (.any [.whole [.free, .sys], recFoot, healthFoot]) s t ∧ (t.sys.ports = s.sys.ports.filter (· != p) ∧ (t.healthAt (2 * 1024 + lane)).ev2 = (s.healthAt (2 * 1024 + lane)).ev2 + 1) := by
  refine gives_same w (a := .all [.withFree fun n => .record 0x06 0x3FF 0x5001 [BitVec.ofNat 64 lane, Config.laneCount n], .healthEv 2 lane 2, .portDown p]) ?_ ?_ ?_
  · refine (show execFabricPortDown lane s = Act.out s _ from rfl).trans (out_congr ?_)
    simp [h, h1, h2, h3, Act.laneLoss]
  ·   repeat' first
      | with_reducible first
        | exact Act.nil_in
        | apply Act.cons_in
        | apply Act.seq_in
        | (apply Act.get_in; intro _)
        | (apply Act.when_in; intro _)
        | (apply Act.each_in; intro _ _)
        | (apply Act.withFree_in; intro _)
      | (simp (maxDischargeDepth := 9); done)
      | (simp (maxDischargeDepth := 9) [Act.portDown, attnFoot, attnOutFoot, recFoot, hostFoot, pmcCoreFoot, pmcGlobalFoot, healthFoot, healthLevelFoot, violFoot, healthReg]; done)
      | dsimp only
      | split
  · simp only [Act.cons_run, Act.nil_run, Act.withFree, Act.get_run, Act.seq_run, Act.portDown]
    constructor
    · rw [Act.modSys_sys, sys_healthEv (Act.wf (Act.wf w _) _), sys_record (Act.wf w _)]
      rfl
    · rw [show ∀ (u : State) g k, ((Act.modSys g).run u).healthAt k = u.healthAt k from fun _ _ _ => rfl,
        healthEv_self (Act.wf (Act.wf w _) _), health_record (Act.wf w _)]
      rfl

theorem gives_dmaCompletionError {s : State} (w : s.Wf) {part : Nat} {cells : List Nat} (h : 256 ≤ part) (h1 : part ≠ 0x101) :
    Gives (.dmaCompletionError part cells) s fun t => Same (.reg R.hostDma) s t ∧ (t.fld R.hostDma F.hostDma_CPL_ERR = min (s.fld R.hostDma F.hostDma_CPL_ERR + 1) F.hostDma_CPL_ERR.max) := by
  refine gives_same w (a := .incF R.hostDma F.hostDma_CPL_ERR) ?_ ?_ ?_
  · refine (show execDmaCompletionError part cells s = Act.out s _ from rfl).trans (out_congr ?_)
    simp [h, h1, bne_iff_ne.mpr h1, Act.dmaEnds, Nat.not_lt.mpr h]
  ·   repeat' first
      | with_reducible first
        | exact Act.nil_in
        | apply Act.cons_in
        | apply Act.seq_in
        | (apply Act.get_in; intro _)
        | (apply Act.when_in; intro _)
        | (apply Act.each_in; intro _ _)
        | (apply Act.withFree_in; intro _)
      | (simp (maxDischargeDepth := 9); done)
      | (simp (maxDischargeDepth := 9) [attnFoot, attnOutFoot, recFoot, hostFoot, pmcCoreFoot, pmcGlobalFoot, healthFoot, healthLevelFoot, violFoot, healthReg]; done)
      | dsimp only
      | split
  · repeat' refine And.intro ?_ ?_
    all_goals first
      | (simp (maxDischargeDepth := 20) (disch := first
          | assumption
          | (repeat apply Act.wf
             assumption)
          | decide
          | (simp [attnFoot, attnOutFoot, recFoot, hostFoot, pmcCoreFoot, pmcGlobalFoot, healthFoot, healthLevelFoot, violFoot, healthReg, R.corePmcCtl, R.gpmcCtl, R.healthUnitMod, R.hostAttn, R.hostAttn4, R.hostAttn7, R.hostDma, R.recCnt, R.recCnt2, R.recStat, R.sliceViol] <;> omega)
          | fail) only [Act.cons_run, Act.nil_run, Act.get_run, Act.when_true, Act.when_false, Act.skip_run, Act.seq_run, State.fld_setF, State.fld_modF, State.fld_incF, fld_setF_ne, fld_modF_ne, fld_incF_ne, fld_setRegs_ne, fld_record, fld_attnChanged, fld_vectorWrite, fld_rbWant, fld_attnSet, fld_pmc, fld_healthEv, fld_violation, State.fld_setF_apart, State.fld_modF_apart, State.fld_incF_apart, State.fld_setRegs, fld_when, ite_self]
         try simp [*, F.hostDma_CPL_ERR, F.hostDma_CPL_ERRt]
         try omega
         done)
      | rfl
      | skip

theorem gives_completionTimeout {s : State} (w : s.Wf) {part : Nat} {cells : List Nat} (h : 256 ≤ part) (h1 : part ≠ 0x101) :
    Gives (.completionTimeout part cells) s fun t => Same (.reg R.hostDma) s t ∧ (t.fld R.hostDma F.hostDma_CPL_ERR = min (s.fld R.hostDma F.hostDma_CPL_ERR + 1) F.hostDma_CPL_ERR.max) := by
  refine gives_same w (a := .incF R.hostDma F.hostDma_CPL_ERR) ?_ ?_ ?_
  · refine (show execCompletionTimeout part cells s = Act.out s _ from rfl).trans (out_congr ?_)
    simp [h, h1, bne_iff_ne.mpr h1, Act.dmaEnds, Nat.not_lt.mpr h]
  ·   repeat' first
      | with_reducible first
        | exact Act.nil_in
        | apply Act.cons_in
        | apply Act.seq_in
        | (apply Act.get_in; intro _)
        | (apply Act.when_in; intro _)
        | (apply Act.each_in; intro _ _)
        | (apply Act.withFree_in; intro _)
      | (simp (maxDischargeDepth := 9); done)
      | (simp (maxDischargeDepth := 9) [attnFoot, attnOutFoot, recFoot, hostFoot, pmcCoreFoot, pmcGlobalFoot, healthFoot, healthLevelFoot, violFoot, healthReg]; done)
      | dsimp only
      | split
  · repeat' refine And.intro ?_ ?_
    all_goals first
      | (simp (maxDischargeDepth := 20) (disch := first
          | assumption
          | (repeat apply Act.wf
             assumption)
          | decide
          | (simp [attnFoot, attnOutFoot, recFoot, hostFoot, pmcCoreFoot, pmcGlobalFoot, healthFoot, healthLevelFoot, violFoot, healthReg, R.corePmcCtl, R.gpmcCtl, R.healthUnitMod, R.hostAttn, R.hostAttn4, R.hostAttn7, R.hostDma, R.recCnt, R.recCnt2, R.recStat, R.sliceViol] <;> omega)
          | fail) only [Act.cons_run, Act.nil_run, Act.get_run, Act.when_true, Act.when_false, Act.skip_run, Act.seq_run, State.fld_setF, State.fld_modF, State.fld_incF, fld_setF_ne, fld_modF_ne, fld_incF_ne, fld_setRegs_ne, fld_record, fld_attnChanged, fld_vectorWrite, fld_rbWant, fld_attnSet, fld_pmc, fld_healthEv, fld_violation, State.fld_setF_apart, State.fld_modF_apart, State.fld_incF_apart, State.fld_setRegs, fld_when, ite_self]
         try simp [*, F.hostDma_CPL_ERR, F.hostDma_CPL_ERRt]
         try omega
         done)
      | rfl
      | skip

end Sys2Proof.Machine
end

