-- ==== Sys2Proof/Laws/Electrical.lean ====
section
/-! SUPPORT. What the commands of the supplies, the clock input and the sensors do. -/

set_option linter.unusedSimpArgs false

namespace Sys2Proof.Machine

theorem gives_inputQualified {s : State} (w : s.Wf) {mv : Nat} (h : 40000 ≤ mv) (h1 : s.sys.inOk = false) (h2 : s.sys.fault = none) :
    Gives (.inputQualified mv) s fun t => Same (.whole [.sys, .emitted]) s t ∧ (t.sys.inOk = true ∧ t.emitted = .pin 1 false :: s.emitted) := by
  refine gives_same w (a := .all [.modSys fun y => { y with inOk := true }, .emit (.pin 1 false)]) ?_ ?_ ?_
  · refine (show execInputQualified mv s = Act.out s _ from rfl).trans (out_congr ?_)
    simp [h, h1, h2]
  ·   repeat' first
      | with_reducible first
        | exact Act.nil_in
        | apply Act.cons_in
        | apply Act.seq_in
        | (apply Act.get_in; intro _)
        | (apply Act.when_in; intro _)
        | (apply Act.each_in; intro _ _)
        | (apply Act.withFree_in; intro _)
      | (simp (maxDischargeDepth := 9); done)
      | (simp (maxDischargeDepth := 9) [attnFoot, attnOutFoot, recFoot, hostFoot, pmcCoreFoot, pmcGlobalFoot, healthFoot, healthLevelFoot, violFoot, healthReg]; done)
      | dsimp only
      | split
  · exact ⟨rfl, rfl⟩

theorem gives_inputOutOfRange {s : State} (w : s.Wf) {mv : Nat} (h : 48000 ≤ mv) (h1 : mv ≤ 50000) (h2 : s.sys.inOk = true) :
    Gives (.inputOutOfRange mv) s fun t => Same (.any [.reg R.pwrCnt, .reg R.pwrStat, recFoot]) s t ∧ (t.fld R.pwrCnt F.pwrCnt_OOR_EVENTS = min (s.fld R.pwrCnt F.pwrCnt_OOR_EVENTS + 1) F.pwrCnt_OOR_EVENTS.max ∧ t.fld R.pwrStat F.pwrStat_OOR = 1) := by
  refine gives_same w (a := .all [.incF R.pwrCnt F.pwrCnt_OOR_EVENTS, .setF R.pwrStat F.pwrStat_OOR 1,
      .record 0x01 0x3FF 0xA003 [BitVec.ofNat 64 mv]]) ?_ ?_ ?_
  · refine (show execInputOutOfRange mv s = Act.out s _ from rfl).trans (out_congr ?_)
    simp [h, h1, h2]
  ·   repeat' first
      | with_reducible first
        | exact Act.nil_in
        | apply Act.cons_in
        | apply Act.seq_in
        | (apply Act.get_in; intro _)
        | (apply Act.when_in; intro _)
        | (apply Act.each_in; intro _ _)
        | (apply Act.withFree_in; intro _)
      | (simp (maxDischargeDepth := 9); done)
      | (simp (maxDischargeDepth := 9) [attnFoot, attnOutFoot, recFoot, hostFoot, pmcCoreFoot, pmcGlobalFoot, healthFoot, healthLevelFoot, violFoot, healthReg]; done)
      | dsimp only
      | split
  · repeat' refine And.intro ?_ ?_
    all_goals first
      | (simp (maxDischargeDepth := 20) (disch := first
          | assumption
          | (repeat apply Act.wf
             assumption)
          | decide
          | (simp [attnFoot, attnOutFoot, recFoot, hostFoot, pmcCoreFoot, pmcGlobalFoot, healthFoot, healthLevelFoot, violFoot, healthReg, R.corePmcCtl, R.gpmcCtl, R.healthUnitMod, R.hostAttn, R.hostAttn4, R.hostAttn7, R.pwrCnt, R.pwrStat, R.recCnt, R.recCnt2, R.recStat, R.sliceViol] <;> omega)
          | fail) only [Act.cons_run, Act.nil_run, Act.get_run, Act.when_true, Act.when_false, Act.skip_run, Act.seq_run, State.fld_setF, State.fld_modF, State.fld_incF, fld_setF_ne, fld_modF_ne, fld_incF_ne, fld_setRegs_ne, fld_record, fld_attnChanged, fld_vectorWrite, fld_rbWant, fld_attnSet, fld_pmc, fld_healthEv, fld_violation, State.fld_setF_apart, State.fld_modF_apart, State.fld_incF_apart, State.fld_setRegs, fld_when, ite_self]
         try simp [*, F.pwrCnt_OOR_EVENTS, F.pwrStat_OOR]
         try omega
         done)
      | rfl
      | skip

theorem gives_uvDip {s : State} (w : s.Wf) (h : s.sys.inOk = true) :
    Gives (.uvDip) s fun t => Same (.reg R.pwrCnt) s t ∧ (t.fld R.pwrCnt F.pwrCnt_UV_DIPS = min (s.fld R.pwrCnt F.pwrCnt_UV_DIPS + 1) F.pwrCnt_UV_DIPS.max) := by
  refine gives_same w (a := .incF R.pwrCnt F.pwrCnt_UV_DIPS) ?_ ?_ ?_
  · refine (show execUvDip s = Act.out s _ from rfl).trans (out_congr ?_)
    simp [h]
  ·   repeat' first
      | with_reducible first
        | exact Act.nil_in
        | apply Act.cons_in
        | apply Act.seq_in
        | (apply Act.get_in; intro _)
        | (apply Act.when_in; intro _)
        | (apply Act.each_in; intro _ _)
        | (apply Act.withFree_in; intro _)
      | (simp (maxDischargeDepth := 9); done)
      | (simp (maxDischargeDepth := 9) [attnFoot, attnOutFoot, recFoot, hostFoot, pmcCoreFoot, pmcGlobalFoot, healthFoot, healthLevelFoot, violFoot, healthReg]; done)
      | dsimp only
      | split
  · repeat' refine And.intro ?_ ?_
    all_goals first
      | (simp (maxDischargeDepth := 20) (disch := first
          | assumption
          | (repeat apply Act.wf
             assumption)
          | decide
          | (simp [attnFoot, attnOutFoot, recFoot, hostFoot, pmcCoreFoot, pmcGlobalFoot, healthFoot, healthLevelFoot, violFoot, healthReg, R.corePmcCtl, R.gpmcCtl, R.healthUnitMod, R.hostAttn, R.hostAttn4, R.hostAttn7, R.pwrCnt, R.recCnt, R.recCnt2, R.recStat, R.sliceViol] <;> omega)
          | fail) only [Act.cons_run, Act.nil_run, Act.get_run, Act.when_true, Act.when_false, Act.skip_run, Act.seq_run, State.fld_setF, State.fld_modF, State.fld_incF, fld_setF_ne, fld_modF_ne, fld_incF_ne, fld_setRegs_ne, fld_record, fld_attnChanged, fld_vectorWrite, fld_rbWant, fld_attnSet, fld_pmc, fld_healthEv, fld_violation, State.fld_setF_apart, State.fld_modF_apart, State.fld_incF_apart, State.fld_setRegs, fld_when, ite_self]
         try simp [*, F.pwrCnt_UV_DIPS, F.pwrCnt_UV_DIPSt]
         try omega
         done)
      | rfl
      | skip

theorem gives_faultRestart {s : State} (w : s.Wf) (h : s.sys.fault.isSome = true) (h1 : s.sys.inOk = true) :
    Gives (.faultRestart) s fun t => Same (.whole [.sys]) s t ∧ (t.sys.fault = none ∧ t.sys.inOk = true) := by
  refine gives_same w (a := .modSys fun y => { y with fault := none }) ?_ ?_ ?_
  · refine (show execFaultRestart s = Act.out s _ from rfl).trans (out_congr ?_)
    simp [h, h1]
  ·   repeat' first
      | with_reducible first
        | exact Act.nil_in
        | apply Act.cons_in
        | apply Act.seq_in
        | (apply Act.get_in; intro _)
        | (apply Act.when_in; intro _)
        | (apply Act.each_in; intro _ _)
        | (apply Act.withFree_in; intro _)
      | (simp (maxDischargeDepth := 9); done)
      | (simp (maxDischargeDepth := 9) [attnFoot, attnOutFoot, recFoot, hostFoot, pmcCoreFoot, pmcGlobalFoot, healthFoot, healthLevelFoot, violFoot, healthReg]; done)
      | dsimp only
      | split
  · exact ⟨rfl, h1⟩

theorem gives_loInQualified {s : State} (w : s.Wf) :
    Gives (.loInQualified) s fun t => Same (.reg R.pwrStat) s t ∧ (t.fld R.pwrStat F.pwrStat_LO_QUAL = 1) := by
  refine gives_same w (a := .setF R.pwrStat F.pwrStat_LO_QUAL 1) ?_ ?_ ?_
  · refine (show execLoInQualified s = Act.out s _ from rfl).trans (out_congr ?_)
    simp []
  ·   repeat' first
      | with_reducible first
        | exact Act.nil_in
        | apply Act.cons_in
        | apply Act.seq_in
        | (apply Act.get_in; intro _)
        | (apply Act.when_in; intro _)
        | (apply Act.each_in; intro _ _)
        | (apply Act.withFree_in; intro _)
      | (simp (maxDischargeDepth := 9); done)
      | (simp (maxDischargeDepth := 9) [attnFoot, attnOutFoot, recFoot, hostFoot, pmcCoreFoot, pmcGlobalFoot, healthFoot, healthLevelFoot, violFoot, healthReg]; done)
      | dsimp only
      | split
  · repeat' refine And.intro ?_ ?_
    all_goals first
      | (simp (maxDischargeDepth := 20) (disch := first
          | assumption
          | (repeat apply Act.wf
             assumption)
          | decide
          | (simp [attnFoot, attnOutFoot, recFoot, hostFoot, pmcCoreFoot, pmcGlobalFoot, healthFoot, healthLevelFoot, violFoot, healthReg, R.corePmcCtl, R.gpmcCtl, R.healthUnitMod, R.hostAttn, R.hostAttn4, R.hostAttn7, R.pwrStat, R.recCnt, R.recCnt2, R.recStat, R.sliceViol] <;> omega)
          | fail) only [Act.cons_run, Act.nil_run, Act.get_run, Act.when_true, Act.when_false, Act.skip_run, Act.seq_run, State.fld_setF, State.fld_modF, State.fld_incF, fld_setF_ne, fld_modF_ne, fld_incF_ne, fld_setRegs_ne, fld_record, fld_attnChanged, fld_vectorWrite, fld_rbWant, fld_attnSet, fld_pmc, fld_healthEv, fld_violation, State.fld_setF_apart, State.fld_modF_apart, State.fld_incF_apart, State.fld_setRegs, fld_when, ite_self]
         try simp [*, F.pwrStat_LO_QUAL]
         try omega
         done)
      | rfl
      | skip

theorem gives_loInLoss {s : State} (w : s.Wf) (h : s.fld R.hostBoot F.hostBoot_STEP = 0) :
    Gives (.loInLoss) s fun t => Same (.reg R.pwrStat) s t ∧ (t.fld R.pwrStat F.pwrStat_LO_QUAL = 0) := by
  refine gives_same w (a := .setF R.pwrStat F.pwrStat_LO_QUAL 0) ?_ ?_ ?_
  · refine (show execLoInLoss s = Act.out s _ from rfl).trans (out_congr ?_)
    simp [h]
  ·   repeat' first
      | with_reducible first
        | exact Act.nil_in
        | apply Act.cons_in
        | apply Act.seq_in
        | (apply Act.get_in; intro _)
        | (apply Act.when_in; intro _)
        | (apply Act.each_in; intro _ _)
        | (apply Act.withFree_in; intro _)
      | (simp (maxDischargeDepth := 9); done)
      | (simp (maxDischargeDepth := 9) [attnFoot, attnOutFoot, recFoot, hostFoot, pmcCoreFoot, pmcGlobalFoot, healthFoot, healthLevelFoot, violFoot, healthReg]; done)
      | dsimp only
      | split
  · repeat' refine And.intro ?_ ?_
    all_goals first
      | (simp (maxDischargeDepth := 20) (disch := first
          | assumption
          | (repeat apply Act.wf
             assumption)
          | decide
          | (simp [attnFoot, attnOutFoot, recFoot, hostFoot, pmcCoreFoot, pmcGlobalFoot, healthFoot, healthLevelFoot, violFoot, healthReg, R.corePmcCtl, R.gpmcCtl, R.healthUnitMod, R.hostAttn, R.hostAttn4, R.hostAttn7, R.pwrStat, R.recCnt, R.recCnt2, R.recStat, R.sliceViol] <;> omega)
          | fail) only [Act.cons_run, Act.nil_run, Act.get_run, Act.when_true, Act.when_false, Act.skip_run, Act.seq_run, State.fld_setF, State.fld_modF, State.fld_incF, fld_setF_ne, fld_modF_ne, fld_incF_ne, fld_setRegs_ne, fld_record, fld_attnChanged, fld_vectorWrite, fld_rbWant, fld_attnSet, fld_pmc, fld_healthEv, fld_violation, State.fld_setF_apart, State.fld_modF_apart, State.fld_incF_apart, State.fld_setRegs, fld_when, ite_self]
         try simp [*, F.pwrStat_LO_QUAL]
         try omega
         done)
      | rfl
      | skip

theorem thermPct_lt (tj : Int) : thermPct tj < 256 := by
  unfold thermPct
  split
  · omega
  · split <;> omega

theorem Act.setTherm_foot {p tj : Nat} : (Act.setTherm p tj).In (.any [.reg R.lastPwr2, .reg R.pwrStat, recFoot]) := by
  unfold Act.setTherm
  repeat' first
    | with_reducible first
      | exact Act.nil_in
      | apply Act.cons_in
      | apply Act.seq_in
      | (apply Act.get_in; intro _)
      | (apply Act.when_in; intro _)
      | (apply Act.each_in; intro _ _)
      | (apply Act.withFree_in; intro _)
    | (simp (maxDischargeDepth := 9); done)
    | dsimp only
    | split

@[simp] theorem Act.setTherm_in {F : Foot} {p tj : Nat} (h : Foot.le (.any [.reg R.lastPwr2, .reg R.pwrStat, recFoot]) F) : (Act.setTherm p tj).In F := Act.setTherm_foot.le h

theorem gives_tempSample {s : State} (w : s.Wf) {tj : Int} {island : Island} (h : s.fld R.lastBtick F.lastBtick_TICK ≠ s.tick) (h1 : tj > s16 (s.fld R.pwrTemp F.pwrTemp_TJ_PEAK)) (h2 : island < 256) :
    Gives (.tempSample tj island) s fun t => Same (.any [.reg R.pwrTemp, .reg R.lastPwr2, .reg R.pwrStat, recFoot]) s t ∧ (t.fld R.pwrTemp F.pwrTemp_TJ_MAX = (tj % 65536).toNat ∧ t.fld R.pwrTemp F.pwrTemp_TJ_PEAK = (tj % 65536).toNat ∧ t.fld R.pwrTemp F.pwrTemp_HOT_ISL = island ∧ t.fld R.lastPwr2 F.lastPwr2_THERM_PCT = thermPct tj) := by
  have hb : (tj % 65536).toNat < 2 ^ 16 := by omega
  have ht := thermPct_lt tj
  refine gives_same w (a := .all [.setF R.pwrTemp F.pwrTemp_TJ_MAX (tj % 65536).toNat, .setF R.pwrTemp F.pwrTemp_HOT_ISL island,
      .setF R.pwrTemp F.pwrTemp_TJ_PEAK (tj % 65536).toNat, .setTherm (thermPct tj) (tj % 65536).toNat]) ?_ ?_ ?_
  · refine (show execTempSample tj island s = Act.out s _ from rfl).trans (out_congr ?_)
    simp [h, h1, h2, bne_iff_ne.mpr h]
  ·   repeat' first
      | with_reducible first
        | exact Act.nil_in
        | apply Act.cons_in
        | apply Act.seq_in
        | (apply Act.get_in; intro _)
        | (apply Act.when_in; intro _)
        | (apply Act.each_in; intro _ _)
        | (apply Act.withFree_in; intro _)
      | (simp (maxDischargeDepth := 9); done)
      | (simp (maxDischargeDepth := 9) [attnFoot, attnOutFoot, recFoot, hostFoot, pmcCoreFoot, pmcGlobalFoot, healthFoot, healthLevelFoot, violFoot, healthReg]; done)
      | dsimp only
      | split
  · repeat' refine And.intro ?_ ?_
    all_goals first
      | (simp (maxDischargeDepth := 20) (disch := first
          | assumption
          | (repeat apply Act.wf
             assumption)
          | decide
          | (simp [attnFoot, attnOutFoot, recFoot, hostFoot, pmcCoreFoot, pmcGlobalFoot, healthFoot, healthLevelFoot, violFoot, healthReg, R.corePmcCtl, R.gpmcCtl, R.healthUnitMod, R.hostAttn, R.hostAttn4, R.hostAttn7, R.lastPwr2, R.pwrStat, R.pwrTemp, R.recCnt, R.recCnt2, R.recStat, R.sliceViol] <;> omega)
          | fail) only [Act.cons_run, Act.nil_run, Act.get_run, Act.when_true, Act.when_false, Act.skip_run, Act.seq_run, State.fld_setF, State.fld_modF, State.fld_incF, fld_setF_ne, fld_modF_ne, fld_incF_ne, fld_setRegs_ne, fld_record, fld_attnChanged, fld_vectorWrite, fld_rbWant, fld_attnSet, fld_pmc, fld_healthEv, fld_violation, State.fld_setF_apart, State.fld_modF_apart, State.fld_incF_apart, State.fld_setRegs, fld_when, ite_self, Act.setTherm]
         try simp [*, F.lastPwr2_THERM_PCT, F.pwrTemp_HOT_ISL, F.pwrTemp_TJ_MAX, F.pwrTemp_TJ_PEAK]
         try omega
         done)
      | rfl
      | skip

theorem gives_powerSample {s : State} (w : s.Wf) {mv : Nat} {ma : Nat} {pin : Nat} (h : mv ≤ 60000) (h1 : ma ≤ 100000) (h2 : pin > 1400) (h3 : pin < 65536) (h4 : s.flag R.pwrStat F.pwrStat_PEAK = false) :
    Gives (.powerSample mv ma pin) s fun t => Same (.any [.reg R.pwrStat, .reg R.pwrCnt, .whole [.last]]) s t ∧ (t.fld R.pwrStat F.pwrStat_VIN = mv / 10 ∧ t.fld R.pwrStat F.pwrStat_IIN = ma / 10 ∧ t.fld R.pwrStat F.pwrStat_PIN = pin ∧ t.fld R.pwrStat F.pwrStat_PEAK = 1 ∧ t.last.bucket = 0) := by
  refine gives_same w (a := .all [.setF R.pwrStat F.pwrStat_VIN (mv / 10), .setF R.pwrStat F.pwrStat_IIN (ma / 10), .setF R.pwrStat F.pwrStat_PIN pin,
      .when (mv < 48000 || mv > 50000) (.setF R.pwrStat F.pwrStat_OOR 0), .all [.modLast fun l => { l with bucket := 0 },
      .all [.setF R.pwrStat F.pwrStat_PEAK 1, .incF R.pwrCnt F.pwrCnt_PEAK_LIMIT]]]) ?_ ?_ ?_
  · refine (show execPowerSample mv ma pin s = Act.out s _ from rfl).trans (out_congr ?_)
    simp [h, h1, h2, h3, h4]
  ·   repeat' first
      | with_reducible first
        | exact Act.nil_in
        | apply Act.cons_in
        | apply Act.seq_in
        | (apply Act.get_in; intro _)
        | (apply Act.when_in; intro _)
        | (apply Act.each_in; intro _ _)
        | (apply Act.withFree_in; intro _)
      | (simp (maxDischargeDepth := 9); done)
      | (simp (maxDischargeDepth := 9) [attnFoot, attnOutFoot, recFoot, hostFoot, pmcCoreFoot, pmcGlobalFoot, healthFoot, healthLevelFoot, violFoot, healthReg]; done)
      | dsimp only
      | split
  · repeat' refine And.intro ?_ ?_
    all_goals first
      | (simp (maxDischargeDepth := 20) (disch := first
          | assumption
          | (repeat apply Act.wf
             assumption)
          | decide
          | (simp [attnFoot, attnOutFoot, recFoot, hostFoot, pmcCoreFoot, pmcGlobalFoot, healthFoot, healthLevelFoot, violFoot, healthReg, R.corePmcCtl, R.gpmcCtl, R.healthUnitMod, R.hostAttn, R.hostAttn4, R.hostAttn7, R.pwrCnt, R.pwrStat, R.recCnt, R.recCnt2, R.recStat, R.sliceViol] <;> omega)
          | fail) only [Act.cons_run, Act.nil_run, Act.get_run, Act.when_true, Act.when_false, Act.skip_run, Act.seq_run, State.fld_setF, State.fld_modF, State.fld_incF, fld_setF_ne, fld_modF_ne, fld_incF_ne, fld_setRegs_ne, fld_record, fld_attnChanged, fld_vectorWrite, fld_rbWant, fld_attnSet, fld_pmc, fld_healthEv, fld_violation, State.fld_setF_apart, State.fld_modF_apart, State.fld_incF_apart, State.fld_setRegs, fld_when, ite_self, fld_modLast]
         try simp [*, F.pwrCnt_PEAK_LIMIT, F.pwrStat_IIN, F.pwrStat_OOR, F.pwrStat_PEAK, F.pwrStat_PIN, F.pwrStat_VIN]
         try omega
         done)
      | rfl
      | skip

end Sys2Proof.Machine
end

