-- ==== Sys2Proof/Laws/PiecesOps.lean ====
section
/-! SUPPORT. The pieces of state that the operations of Machine/Ops.lean can write. -/

set_option linter.unusedSimpArgs false

namespace Sys2Proof.Machine

/-- A piece listed is in a footprint that has them all. -/
theorem Foot.has {l : List Piece} {F : Foot} (h : (Foot.whole l).le F) {p : Piece} (hp : decide (p ∈ l) = true) (k : Nat) : F p k :=
  h p k (show p ∈ l from of_decide_eq_true hp)

/-- Some of the pieces. -/
theorem Foot.sub {l m : List Piece} {F : Foot} (h : (Foot.whole l).le F) (hm : (m.all fun p => decide (p ∈ l)) = true) :
    (Foot.whole m).le F := fun p k hp => h p k (show p ∈ l from of_decide_eq_true ((List.all_eq_true.mp hm) p hp))

theorem framed_out {c : Instr} {s : State} (w : s.Wf) {F : Foot} {o : Out} (h : exec c s = o) (ho : ∃ a, o = Act.out s a ∧ a.In F) :
    Framed F c s := by
  obtain ⟨a, h1, h2⟩ := ho
  exact framed_of w (h.trans h1) h2

theorem Act.let_in {F : Foot} {α : Type} {v : α} {f : α → Act} (h : (f v).In F) : (let y := v; f y).In F := h

theorem Act.ite_in {F : Foot} {c : Prop} [Decidable c] {a b : Act} (ha : a.In F) (hb : b.In F) : (if c then a else b).In F := by
  split
  · exact ha
  · exact hb

theorem Act.toReset_pieces {F : Foot} (hL : (Foot.whole [.regs, .mem, .errs, .lpErr, .chUe, .store, .acc, .anchors, .pend, .vreg, .ctxs, .arrs, .parts, .vecTurn, .health, .leash, .trigs, .engs, .conns, .bars, .hounds, .samp, .cells, .cjobs, .dsps, .dspMem, .dspP, .dets, .dumps, .clk, .recd, .attn, .linkOn, .failed, .lpAct0, .lpAct1, .sigq, .convq, .arrives, .held, .heldCode, .pairs, .radio, .time, .last, .sys]).le F) : Act.toReset.In F := by
  intro s _ p k hk
  cases p <;> first | rfl | exact absurd (Foot.has hL (by decide) k) hk

theorem Act.hostWrite_pieces {F : Foot} {pasid : Nat} {addr : Nat} {data : List Byte} (hL : (Foot.whole [.host]).le F) : (Act.hostWrite pasid addr data).In F := by
  unfold Act.hostWrite
  repeat' first
    | with_reducible first
      | exact Act.nil_in
      | exact Act.skip_in
      | apply Act.cons_in
      | apply Act.seq_in
      | (apply Act.get_in; intro _)
      | (apply Act.when_in; intro _)
      | apply Act.ite_in
      | (apply Act.each_in; intro _ _)
      | (exact Act.setHost_in (Foot.has hL (by decide) _))
    | dsimp only
    | split

theorem Act.rbWant_pieces {F : Foot} {low : Bool} (hL : (Foot.whole [.attn, .emitted]).le F) : (Act.rbWant low).In F := by
  unfold Act.rbWant
  repeat' first
    | with_reducible first
      | exact Act.nil_in
      | exact Act.skip_in
      | apply Act.cons_in
      | apply Act.seq_in
      | (apply Act.get_in; intro _)
      | (apply Act.when_in; intro _)
      | apply Act.ite_in
      | (apply Act.each_in; intro _ _)
      | (exact Act.emit_in fun k => Foot.has hL (by decide) k)
      | (exact Act.modAttn_in fun k => Foot.has hL (by decide) k)
    | dsimp only
    | split

theorem Act.vectorWrite_pieces {F : Foot} (hL : (Foot.whole [.regs, .host, .attn]).le F) : (Act.vectorWrite).In F := by
  unfold Act.vectorWrite
  repeat' first
    | with_reducible first
      | exact Act.nil_in
      | exact Act.skip_in
      | apply Act.cons_in
      | apply Act.seq_in
      | (apply Act.get_in; intro _)
      | (apply Act.when_in; intro _)
      | apply Act.ite_in
      | (apply Act.each_in; intro _ _)
      | (exact Act.hostWrite_pieces (Foot.sub hL (by decide)))
      | (exact Act.modAttn_in fun k => Foot.has hL (by decide) k)
      | (exact Act.modF_in (Foot.has hL (by decide) _))
    | dsimp only
    | split

theorem Act.attnChanged_pieces {F : Foot} (hL : (Foot.whole [.regs, .host, .attn, .emitted]).le F) : (Act.attnChanged).In F := by
  unfold Act.attnChanged
  repeat' first
    | with_reducible first
      | exact Act.nil_in
      | exact Act.skip_in
      | apply Act.cons_in
      | apply Act.seq_in
      | (apply Act.get_in; intro _)
      | (apply Act.when_in; intro _)
      | apply Act.ite_in
      | (apply Act.each_in; intro _ _)
      | (exact Act.modAttn_in fun k => Foot.has hL (by decide) k)
      | (exact Act.rbWant_pieces (Foot.sub hL (by decide)))
      | (exact Act.vectorWrite_pieces (Foot.sub hL (by decide)))
    | dsimp only
    | split

theorem Act.attnSet_pieces {F : Foot} {b : Nat} (hL : (Foot.whole [.regs, .host, .attn, .emitted]).le F) : (Act.attnSet b).In F := by
  unfold Act.attnSet
  repeat' first
    | with_reducible first
      | exact Act.nil_in
      | exact Act.skip_in
      | apply Act.cons_in
      | apply Act.seq_in
      | (apply Act.get_in; intro _)
      | (apply Act.when_in; intro _)
      | apply Act.ite_in
      | (apply Act.each_in; intro _ _)
      | (exact Act.attnChanged_pieces (Foot.sub hL (by decide)))
      | (exact Act.modF_in (Foot.has hL (by decide) _))
    | dsimp only
    | split

theorem Act.attnMgr_pieces {F : Foot} (hL : (Foot.whole [.regs, .host, .attn, .emitted]).le F) : (Act.attnMgr).In F := by
  unfold Act.attnMgr
  repeat' first
    | with_reducible first
      | exact Act.nil_in
      | exact Act.skip_in
      | apply Act.cons_in
      | apply Act.seq_in
      | (apply Act.get_in; intro _)
      | (apply Act.when_in; intro _)
      | apply Act.ite_in
      | (apply Act.each_in; intro _ _)
      | (exact Act.attnSet_pieces (Foot.sub hL (by decide)))
    | dsimp only
    | split

theorem Act.attnRadio_pieces {F : Foot} (hL : (Foot.whole [.regs, .host, .attn, .emitted]).le F) : (Act.attnRadio).In F := by
  unfold Act.attnRadio
  repeat' first
    | with_reducible first
      | exact Act.nil_in
      | exact Act.skip_in
      | apply Act.cons_in
      | apply Act.seq_in
      | (apply Act.get_in; intro _)
      | (apply Act.when_in; intro _)
      | apply Act.ite_in
      | (apply Act.each_in; intro _ _)
      | (exact Act.attnSet_pieces (Foot.sub hL (by decide)))
    | dsimp only
    | split

theorem Act.attnRec_pieces {F : Foot} (hL : (Foot.whole [.regs, .host, .attn, .emitted]).le F) : (Act.attnRec).In F := by
  unfold Act.attnRec
  repeat' first
    | with_reducible first
      | exact Act.nil_in
      | exact Act.skip_in
      | apply Act.cons_in
      | apply Act.seq_in
      | (apply Act.get_in; intro _)
      | (apply Act.when_in; intro _)
      | apply Act.ite_in
      | (apply Act.each_in; intro _ _)
      | (exact Act.attnSet_pieces (Foot.sub hL (by decide)))
    | dsimp only
    | split

theorem Act.ordFull_pieces {F : Foot} (hL : (Foot.whole [.regs, .host, .recd, .attn, .emitted]).le F) : (Act.ordFull).In F := by
  unfold Act.ordFull
  repeat' first
    | with_reducible first
      | exact Act.nil_in
      | exact Act.skip_in
      | apply Act.cons_in
      | apply Act.seq_in
      | (apply Act.get_in; intro _)
      | (apply Act.when_in; intro _)
      | apply Act.ite_in
      | (apply Act.each_in; intro _ _)
      | (exact Act.attnRec_pieces (Foot.sub hL (by decide)))
      | (exact Act.modRecd_in fun k => Foot.has hL (by decide) k)
      | (exact Act.setF_in (Foot.has hL (by decide) _))
    | dsimp only
    | split

theorem Act.recPlace_pieces {F : Foot} {h : Nat} {part : Nat} {src : Nat} {code : Nat} {payload : List Word} {ifWritten : Act} {ifDropped : Act} (hL : (Foot.whole [.regs, .host, .log, .recd, .attn, .emitted]).le F) (hc_ifWritten : ifWritten.In F) (hc_ifDropped : ifDropped.In F) : (Act.recPlace h part src code payload ifWritten ifDropped).In F := by
  unfold Act.recPlace
  repeat' first
    | with_reducible first
      | exact Act.nil_in
      | exact Act.skip_in
      | apply Act.cons_in
      | apply Act.seq_in
      | (apply Act.get_in; intro _)
      | (apply Act.when_in; intro _)
      | apply Act.ite_in
      | (apply Act.each_in; intro _ _)
      | (exact Act.incF_in (Foot.has hL (by decide) _))
      | (exact Act.modRecd_in fun k => Foot.has hL (by decide) k)
      | (exact Act.ordFull_pieces (Foot.sub hL (by decide)))
      | (exact Act.setF_in (Foot.has hL (by decide) _))
      | (exact Act.setLog_in (Foot.has hL (by decide) _))
      | exact hc_ifWritten
      | exact hc_ifDropped
    | dsimp only
    | split

theorem Act.recStore_pieces {F : Foot} {part : Nat} {src : Nat} {code : Nat} {payload : List Word} {ifWritten : Act} {ifDropped : Act} (hL : (Foot.whole [.regs, .host, .log, .recd, .attn, .emitted]).le F) (hc_ifWritten : ifWritten.In F) (hc_ifDropped : ifDropped.In F) : (Act.recStore part src code payload ifWritten ifDropped).In F := by
  unfold Act.recStore
  repeat' first
    | with_reducible first
      | exact Act.nil_in
      | exact Act.skip_in
      | apply Act.cons_in
      | apply Act.seq_in
      | (apply Act.get_in; intro _)
      | (apply Act.when_in; intro _)
      | apply Act.ite_in
      | (apply Act.each_in; intro _ _)
      | (exact Act.incF_in (Foot.has hL (by decide) _))
      | (exact Act.modRecd_in fun k => Foot.has hL (by decide) k)
      | (refine Act.recPlace_pieces (Foot.sub hL (by decide)) ?_ ?_ <;> intros)
      | exact hc_ifWritten
      | exact hc_ifDropped
    | dsimp only
    | split

theorem Act.trigFire_pieces {F : Foot} {code : Nat} (hL : (Foot.whole [.trigs]).le F) : (Act.trigFire code).In F := by
  unfold Act.trigFire
  repeat' first
    | with_reducible first
      | exact Act.nil_in
      | exact Act.skip_in
      | apply Act.cons_in
      | apply Act.seq_in
      | (apply Act.get_in; intro _)
      | (apply Act.when_in; intro _)
      | apply Act.ite_in
      | (apply Act.each_in; intro _ _)
      | (exact Act.modTrigs_in (Foot.has hL (by decide) _))
    | dsimp only
    | split

theorem Act.record_pieces {F : Foot} {src : Nat} {part : Nat} {code : Nat} {payload : List Word} (hL : (Foot.whole [.regs, .host, .leash, .trigs, .log, .recUsed, .recDrop, .recd, .attn, .emitted]).le F) : (Act.record src part code payload).In F := by
  unfold Act.record
  repeat' first
    | with_reducible first
      | exact Act.nil_in
      | exact Act.skip_in
      | apply Act.cons_in
      | apply Act.seq_in
      | (apply Act.get_in; intro _)
      | (apply Act.when_in; intro _)
      | apply Act.ite_in
      | (apply Act.each_in; intro _ _)
      | (exact Act.incF_in (Foot.has hL (by decide) _))
      | (exact Act.modLeash_in (Foot.has hL (by decide) _))
      | (exact Act.modRecDrop_in (Foot.has hL (by decide) _))
      | (exact Act.modRecUsed_in (Foot.has hL (by decide) _))
      | (exact Act.ordFull_pieces (Foot.sub hL (by decide)))
      | (refine Act.recStore_pieces (Foot.sub hL (by decide)) ?_ ?_ <;> intros)
      | (exact Act.trigFire_pieces (Foot.sub hL (by decide)))
    | dsimp only
    | split

theorem Act.violation_pieces {F : Foot} {part : Nat} {kind : Nat} (hL : (Foot.whole [.regs, .host, .leash, .trigs, .log, .recUsed, .recDrop, .recd, .attn, .emitted]).le F) : (Act.violation part kind).In F := by
  unfold Act.violation
  repeat' first
    | with_reducible first
      | exact Act.nil_in
      | exact Act.skip_in
      | apply Act.cons_in
      | apply Act.seq_in
      | (apply Act.get_in; intro _)
      | (apply Act.when_in; intro _)
      | apply Act.ite_in
      | (apply Act.each_in; intro _ _)
      | (exact Act.incF_in (Foot.has hL (by decide) _))
      | (exact Act.modF_in (Foot.has hL (by decide) _))
      | (exact Act.record_pieces (Foot.sub hL (by decide)))
    | dsimp only
    | split

theorem Act.pmcAdd_pieces {F : Foot} {base : Nat} {i : Nat} {n : Nat} (hL : (Foot.whole [.regs]).le F) : (Act.pmcAdd base i n).In F := by
  unfold Act.pmcAdd
  repeat' first
    | with_reducible first
      | exact Act.nil_in
      | exact Act.skip_in
      | apply Act.cons_in
      | apply Act.seq_in
      | (apply Act.get_in; intro _)
      | (apply Act.when_in; intro _)
      | apply Act.ite_in
      | (apply Act.each_in; intro _ _)
      | (exact Act.setF_in (Foot.has hL (by decide) _))
    | dsimp only
    | split

theorem Act.pmcOne_pieces {F : Foot} {base : Nat} {i : Nat} {ctl : Word} {cls : Nat} {ev : Nat} {n : Nat} {part : Nat} {master : Nat} {addr : Option Nat} (hL : (Foot.whole [.regs]).le F) : (Act.pmcOne base i ctl cls ev n part master addr).In F := by
  unfold Act.pmcOne
  repeat' first
    | with_reducible first
      | exact Act.nil_in
      | exact Act.skip_in
      | apply Act.cons_in
      | apply Act.seq_in
      | (apply Act.get_in; intro _)
      | (apply Act.when_in; intro _)
      | apply Act.ite_in
      | (apply Act.each_in; intro _ _)
      | (exact Act.pmcAdd_pieces (Foot.sub hL (by decide)))
    | dsimp only
    | split

theorem Act.pmcCore_pieces {F : Foot} {c : Nat} {cls : Nat} {ev : Nat} {n : Nat} {part : Nat} {master : Nat} {addr : Option Nat} (hL : (Foot.whole [.regs]).le F) : (Act.pmcCore c cls ev n part master addr).In F := by
  unfold Act.pmcCore
  repeat' first
    | with_reducible first
      | exact Act.nil_in
      | exact Act.skip_in
      | apply Act.cons_in
      | apply Act.seq_in
      | (apply Act.get_in; intro _)
      | (apply Act.when_in; intro _)
      | apply Act.ite_in
      | (apply Act.each_in; intro _ _)
      | (exact Act.pmcOne_pieces (Foot.sub hL (by decide)))
    | dsimp only
    | split

theorem Act.pmc_pieces {F : Foot} {core : Option Nat} {cls : Nat} {ev : Nat} {n : Nat} {part : Nat} {master : Nat} {addr : Option Nat} (hL : (Foot.whole [.regs]).le F) : (Act.pmc core cls ev n part master addr).In F := by
  unfold Act.pmc
  repeat' first
    | with_reducible first
      | exact Act.nil_in
      | exact Act.skip_in
      | apply Act.cons_in
      | apply Act.seq_in
      | (apply Act.get_in; intro _)
      | (apply Act.when_in; intro _)
      | apply Act.ite_in
      | (apply Act.each_in; intro _ _)
      | (exact Act.pmcCore_pieces (Foot.sub hL (by decide)))
      | (exact Act.pmcOne_pieces (Foot.sub hL (by decide)))
    | dsimp only
    | split

theorem Act.dmaCount_pieces {F : Foot} {write : Bool} {n : Nat} {part : Nat} (hL : (Foot.whole [.regs]).le F) : (Act.dmaCount write n part).In F := by
  unfold Act.dmaCount
  repeat' first
    | with_reducible first
      | exact Act.nil_in
      | exact Act.skip_in
      | apply Act.cons_in
      | apply Act.seq_in
      | (apply Act.get_in; intro _)
      | (apply Act.when_in; intro _)
      | apply Act.ite_in
      | (apply Act.each_in; intro _ _)
      | (exact Act.pmc_pieces (Foot.sub hL (by decide)))
    | dsimp only
    | split

theorem Act.dmaWrite_pieces {F : Foot} {part : Nat} {pasid : Nat} {addr : Nat} {data : List Byte} (hL : (Foot.whole [.regs, .host]).le F) : (Act.dmaWrite part pasid addr data).In F := by
  unfold Act.dmaWrite
  repeat' first
    | with_reducible first
      | exact Act.nil_in
      | exact Act.skip_in
      | apply Act.cons_in
      | apply Act.seq_in
      | (apply Act.get_in; intro _)
      | (apply Act.when_in; intro _)
      | apply Act.ite_in
      | (apply Act.each_in; intro _ _)
      | (exact Act.dmaCount_pieces (Foot.sub hL (by decide)))
      | (exact Act.hostWrite_pieces (Foot.sub hL (by decide)))
    | dsimp only
    | split

theorem Act.pmcTime_pieces {F : Foot} {ev : Nat} (hL : (Foot.whole [.regs]).le F) : (Act.pmcTime ev).In F := by
  unfold Act.pmcTime
  repeat' first
    | with_reducible first
      | exact Act.nil_in
      | exact Act.skip_in
      | apply Act.cons_in
      | apply Act.seq_in
      | (apply Act.get_in; intro _)
      | (apply Act.when_in; intro _)
      | apply Act.ite_in
      | (apply Act.each_in; intro _ _)
      | (exact Act.pmc_pieces (Foot.sub hL (by decide)))
      | (exact Act.pmcCore_pieces (Foot.sub hL (by decide)))
    | dsimp only
    | split

theorem Act.passCycle_pieces {F : Foot} (hL : (Foot.whole [.regs, .clk]).le F) : (Act.passCycle).In F := by
  unfold Act.passCycle
  repeat' first
    | with_reducible first
      | exact Act.nil_in
      | exact Act.skip_in
      | apply Act.cons_in
      | apply Act.seq_in
      | (apply Act.get_in; intro _)
      | (apply Act.when_in; intro _)
      | apply Act.ite_in
      | (apply Act.each_in; intro _ _)
      | (exact Act.modClk_in fun k => Foot.has hL (by decide) k)
      | (exact Act.pmcTime_pieces (Foot.sub hL (by decide)))
    | dsimp only
    | split

theorem Act.healthEv_pieces {F : Foot} {kind : Nat} {idx : Nat} {input : Nat} {n : Nat} (hL : (Foot.whole [.regs, .health]).le F) : (Act.healthEv kind idx input n).In F := by
  unfold Act.healthEv
  repeat' first
    | with_reducible first
      | exact Act.nil_in
      | exact Act.skip_in
      | apply Act.cons_in
      | apply Act.seq_in
      | (apply Act.get_in; intro _)
      | (apply Act.when_in; intro _)
      | apply Act.ite_in
      | (apply Act.each_in; intro _ _)
      | (exact Act.modHealth_in (Foot.has hL (by decide) _))
      | (exact Act.pmc_pieces (Foot.sub hL (by decide)))
    | dsimp only
    | split

theorem Act.healthSuspect_pieces {F : Foot} {kind : Nat} {idx : Nat} (hL : (Foot.whole [.regs, .host, .leash, .trigs, .log, .recUsed, .recDrop, .recd, .attn, .emitted]).le F) : (Act.healthSuspect kind idx).In F := by
  unfold Act.healthSuspect
  repeat' first
    | with_reducible first
      | exact Act.nil_in
      | exact Act.skip_in
      | apply Act.cons_in
      | apply Act.seq_in
      | (apply Act.get_in; intro _)
      | (apply Act.when_in; intro _)
      | apply Act.ite_in
      | (apply Act.each_in; intro _ _)
      | (exact Act.attnMgr_pieces (Foot.sub hL (by decide)))
      | (exact Act.record_pieces (Foot.sub hL (by decide)))
      | (exact Act.setF_in (Foot.has hL (by decide) _))
    | dsimp only
    | split

theorem Act.healthFailed_pieces {F : Foot} {kind : Nat} {idx : Nat} (hL : (Foot.whole [.regs, .host, .leash, .trigs, .log, .recUsed, .recDrop, .recd, .attn, .emitted]).le F) : (Act.healthFailed kind idx).In F := by
  unfold Act.healthFailed
  repeat' first
    | with_reducible first
      | exact Act.nil_in
      | exact Act.skip_in
      | apply Act.cons_in
      | apply Act.seq_in
      | (apply Act.get_in; intro _)
      | (apply Act.when_in; intro _)
      | apply Act.ite_in
      | (apply Act.each_in; intro _ _)
      | (exact Act.attnMgr_pieces (Foot.sub hL (by decide)))
      | (exact Act.healthSuspect_pieces (Foot.sub hL (by decide)))
      | (exact Act.record_pieces (Foot.sub hL (by decide)))
      | (exact Act.setF_in (Foot.has hL (by decide) _))
    | dsimp only
    | split

theorem Act.retireBit_pieces {F : Foot} {b : Nat} (hL : (Foot.whole [.flash]).le F) : (Act.retireBit b).In F := by
  unfold Act.retireBit
  repeat' first
    | with_reducible first
      | exact Act.nil_in
      | exact Act.skip_in
      | apply Act.cons_in
      | apply Act.seq_in
      | (apply Act.get_in; intro _)
      | (apply Act.when_in; intro _)
      | apply Act.ite_in
      | (apply Act.each_in; intro _ _)
      | (exact Act.modFlash_in fun k => Foot.has hL (by decide) k)
    | dsimp only
    | split

end Sys2Proof.Machine
end

