-- ==== Sys2Proof/Laws/PiecesMemOps.lean ====
section
/-! SUPPORT. The pieces of state that the operations of Machine/MemOps.lean can write. -/

set_option linter.unusedSimpArgs false

namespace Sys2Proof.Machine

theorem Act.setByte_pieces {F : Foot} {a : Nat} {b : Byte} (hL : (Foot.whole [.mem, .store, .acc]).le F) : (Act.setByte a b).In F := by
  unfold Act.setByte
  repeat' first
    | with_reducible first
      | exact Act.nil_in
      | exact Act.skip_in
      | apply Act.cons_in
      | apply Act.seq_in
      | (apply Act.get_in; intro _)
      | (apply Act.when_in; intro _)
      | apply Act.ite_in
      | (apply Act.each_in; intro _ _)
      | (exact Act.modAcc_in (Foot.has hL (by decide) _))
      | (exact Act.setMem_in (Foot.has hL (by decide) _))
      | (exact Act.setStore_in (Foot.has hL (by decide) _))
    | dsimp only
    | split

theorem Act.setBytes_pieces {F : Foot} {a : Nat} {d : List Byte} (hL : (Foot.whole [.mem, .store, .acc]).le F) : (Act.setBytes a d).In F := by
  unfold Act.setBytes
  repeat' first
    | with_reducible first
      | exact Act.nil_in
      | exact Act.skip_in
      | apply Act.cons_in
      | apply Act.seq_in
      | (apply Act.get_in; intro _)
      | (apply Act.when_in; intro _)
      | apply Act.ite_in
      | (apply Act.each_in; intro _ _)
      | (exact Act.setByte_pieces (Foot.sub hL (by decide)))
    | dsimp only
    | split

theorem Act.ueLog_pieces {F : Foot} {d : Nat} {lp : Bool} {patrol : Bool} {addrFail : Bool} {pwrite : Bool} {a : Nat} {part : Nat} (hL : (Foot.whole [.regs, .host, .leash, .trigs, .log, .recUsed, .recDrop, .recd, .attn, .emitted]).le F) : (Act.ueLog d lp patrol addrFail pwrite a part).In F := by
  unfold Act.ueLog
  repeat' first
    | with_reducible first
      | exact Act.nil_in
      | exact Act.skip_in
      | apply Act.cons_in
      | apply Act.seq_in
      | (apply Act.get_in; intro _)
      | (apply Act.when_in; intro _)
      | apply Act.ite_in
      | (apply Act.each_in; intro _ _)
      | (exact Act.incF_in (Foot.has hL (by decide) _))
      | (exact Act.record_pieces (Foot.sub hL (by decide)))
      | (exact Act.setF_in (Foot.has hL (by decide) _))
      | (exact Act.setRegs_in (Foot.has hL (by decide) _))
    | dsimp only
    | split

theorem Act.channelFence_pieces {F : Foot} {ch : Nat} (hL : (Foot.whole [.regs, .host, .leash, .trigs, .log, .recUsed, .recDrop, .recd, .attn, .flash, .emitted]).le F) : (Act.channelFence ch).In F := by
  unfold Act.channelFence
  repeat' first
    | with_reducible first
      | exact Act.nil_in
      | exact Act.skip_in
      | apply Act.cons_in
      | apply Act.seq_in
      | (apply Act.get_in; intro _)
      | (apply Act.when_in; intro _)
      | apply Act.ite_in
      | (apply Act.each_in; intro _ _)
      | (exact Act.healthFailed_pieces (Foot.sub hL (by decide)))
      | (exact Act.record_pieces (Foot.sub hL (by decide)))
      | (exact Act.retireBit_pieces (Foot.sub hL (by decide)))
      | (exact Act.setF_in (Foot.has hL (by decide) _))
    | dsimp only
    | split

theorem Act.channelUe_pieces {F : Foot} {ch : Nat} {line : Nat} (hL : (Foot.whole [.regs, .chUe, .host, .health, .leash, .trigs, .log, .recUsed, .recDrop, .recd, .attn, .flash, .emitted]).le F) : (Act.channelUe ch line).In F := by
  unfold Act.channelUe
  repeat' first
    | with_reducible first
      | exact Act.nil_in
      | exact Act.skip_in
      | apply Act.cons_in
      | apply Act.seq_in
      | (apply Act.get_in; intro _)
      | (apply Act.when_in; intro _)
      | apply Act.ite_in
      | (apply Act.each_in; intro _ _)
      | (exact Act.channelFence_pieces (Foot.sub hL (by decide)))
      | (exact Act.healthEv_pieces (Foot.sub hL (by decide)))
      | (exact Act.incF_in (Foot.has hL (by decide) _))
      | (exact Act.setChUe_in (Foot.has hL (by decide) _))
    | dsimp only
    | split

theorem Act.ueEvent_pieces {F : Foot} {a : Nat} {part : Nat} {patrol : Bool} {addrFail : Bool} {pwrite : Bool} (hL : (Foot.whole [.regs, .chUe, .host, .health, .leash, .trigs, .log, .recUsed, .recDrop, .recd, .attn, .flash, .emitted]).le F) : (Act.ueEvent a part patrol addrFail pwrite).In F := by
  unfold Act.ueEvent
  repeat' first
    | with_reducible first
      | exact Act.nil_in
      | exact Act.skip_in
      | apply Act.cons_in
      | apply Act.seq_in
      | (apply Act.get_in; intro _)
      | (apply Act.when_in; intro _)
      | apply Act.ite_in
      | (apply Act.each_in; intro _ _)
      | (exact Act.channelUe_pieces (Foot.sub hL (by decide)))
      | (exact Act.incF_in (Foot.has hL (by decide) _))
      | (exact Act.ueLog_pieces (Foot.sub hL (by decide)))
    | dsimp only
    | split

theorem Act.upset_pieces {F : Foot} {a : Nat} {u : Upset} (hL : (Foot.whole [.errs, .lpErr]).le F) : (Act.upset a u).In F := by
  unfold Act.upset
  repeat' first
    | with_reducible first
      | exact Act.nil_in
      | exact Act.skip_in
      | apply Act.cons_in
      | apply Act.seq_in
      | (apply Act.get_in; intro _)
      | (apply Act.when_in; intro _)
      | apply Act.ite_in
      | (apply Act.each_in; intro _ _)
      | (exact Act.modErrs_in (Foot.has hL (by decide) _))
      | (exact Act.modLpErr_in (Foot.has hL (by decide) _))
    | dsimp only
    | split

theorem Act.wordFix_pieces {F : Foot} {w : Nat} {part : Nat} {master : Nat} {src : Src} (hL : (Foot.whole [.regs, .mem, .errs, .store, .acc, .health]).le F) : (Act.wordFix w part master src).In F := by
  unfold Act.wordFix
  repeat' first
    | with_reducible first
      | exact Act.nil_in
      | exact Act.skip_in
      | apply Act.cons_in
      | apply Act.seq_in
      | (apply Act.get_in; intro _)
      | (apply Act.when_in; intro _)
      | apply Act.ite_in
      | (apply Act.each_in; intro _ _)
      | (exact Act.healthEv_pieces (Foot.sub hL (by decide)))
      | (exact Act.incF_in (Foot.has hL (by decide) _))
      | (exact Act.pmc_pieces (Foot.sub hL (by decide)))
      | (exact Act.setByte_pieces (Foot.sub hL (by decide)))
      | (exact Act.setErrs_in (Foot.has hL (by decide) _))
    | dsimp only
    | split

theorem Act.lpSettle_pieces {F : Foot} {l : Nat} (hL : (Foot.whole [.mem, .lpErr]).le F) : (Act.lpSettle l).In F := by
  unfold Act.lpSettle
  repeat' first
    | with_reducible first
      | exact Act.nil_in
      | exact Act.skip_in
      | apply Act.cons_in
      | apply Act.seq_in
      | (apply Act.get_in; intro _)
      | (apply Act.when_in; intro _)
      | apply Act.ite_in
      | (apply Act.each_in; intro _ _)
      | (exact Act.setLpErr_in (Foot.has hL (by decide) _))
      | (exact Act.setMem_in (Foot.has hL (by decide) _))
    | dsimp only
    | split

theorem Act.lpFix_pieces {F : Foot} {d : Nat} {a : Nat} {part : Nat} {master : Nat} {src : Src} (hL : (Foot.whole [.regs, .mem, .lpErr, .health]).le F) : (Act.lpFix d a part master src).In F := by
  unfold Act.lpFix
  repeat' first
    | with_reducible first
      | exact Act.nil_in
      | exact Act.skip_in
      | apply Act.cons_in
      | apply Act.seq_in
      | (apply Act.get_in; intro _)
      | (apply Act.when_in; intro _)
      | apply Act.ite_in
      | (apply Act.each_in; intro _ _)
      | (exact Act.healthEv_pieces (Foot.sub hL (by decide)))
      | (exact Act.incF_in (Foot.has hL (by decide) _))
      | (exact Act.lpSettle_pieces (Foot.sub hL (by decide)))
      | (exact Act.pmc_pieces (Foot.sub hL (by decide)))
    | dsimp only
    | split

theorem Act.lineFix_pieces {F : Foot} {a : Nat} {n : Nat} {part : Nat} {master : Nat} {src : Src} (hL : (Foot.whole [.regs, .mem, .errs, .lpErr, .store, .acc, .health]).le F) : (Act.lineFix a n part master src).In F := by
  unfold Act.lineFix
  repeat' first
    | with_reducible first
      | exact Act.nil_in
      | exact Act.skip_in
      | apply Act.cons_in
      | apply Act.seq_in
      | (apply Act.get_in; intro _)
      | (apply Act.when_in; intro _)
      | apply Act.ite_in
      | (apply Act.each_in; intro _ _)
      | (exact Act.lpFix_pieces (Foot.sub hL (by decide)))
      | (exact Act.wordFix_pieces (Foot.sub hL (by decide)))
    | dsimp only
    | split

theorem Act.lineCount_pieces {F : Foot} {write : Bool} {a : Nat} {part : Nat} {master : Nat} {src : Src} (hL : (Foot.whole [.regs]).le F) : (Act.lineCount write a part master src).In F := by
  unfold Act.lineCount
  repeat' first
    | with_reducible first
      | exact Act.nil_in
      | exact Act.skip_in
      | apply Act.cons_in
      | apply Act.seq_in
      | (apply Act.get_in; intro _)
      | (apply Act.when_in; intro _)
      | apply Act.ite_in
      | (apply Act.each_in; intro _ _)
      | (exact Act.pmc_pieces (Foot.sub hL (by decide)))
    | dsimp only
    | split

theorem Act.readLines_pieces {F : Foot} {ls : List (Nat × Nat)} {part : Nat} {master : Nat} {k : List Byte → Bool → Act} {src : Src} (hL : (Foot.whole [.regs, .mem, .errs, .lpErr, .chUe, .host, .store, .acc, .health, .leash, .trigs, .log, .recUsed, .recDrop, .recd, .attn, .flash, .emitted]).le F) (hc_k : ∀ y0 y1, (k y0 y1).In F) : (Act.readLines ls part master k src).In F := by
  unfold Act.readLines
  repeat' first
    | with_reducible first
      | exact Act.nil_in
      | exact Act.skip_in
      | apply Act.cons_in
      | apply Act.seq_in
      | (apply Act.get_in; intro _)
      | (apply Act.when_in; intro _)
      | apply Act.ite_in
      | (apply Act.each_in; intro _ _)
      | (exact Act.lineCount_pieces (Foot.sub hL (by decide)))
      | (exact Act.lineFix_pieces (Foot.sub hL (by decide)))
      | (exact Act.ueEvent_pieces (Foot.sub hL (by decide)))
      | exact hc_k _ _
    | dsimp only
    | split

theorem Act.readMem_pieces {F : Foot} {part : Nat} {master : Nat} {a : Nat} {n : Nat} {k : List Byte → Bool → Act} {src : Src} (hL : (Foot.whole [.regs, .mem, .errs, .lpErr, .chUe, .host, .store, .acc, .health, .leash, .trigs, .log, .recUsed, .recDrop, .recd, .attn, .flash, .emitted]).le F) (hc_k : ∀ y0 y1, (k y0 y1).In F) : (Act.readMem part master a n k src).In F := by
  unfold Act.readMem
  repeat' first
    | with_reducible first
      | exact Act.nil_in
      | exact Act.skip_in
      | apply Act.cons_in
      | apply Act.seq_in
      | (apply Act.get_in; intro _)
      | (apply Act.when_in; intro _)
      | apply Act.ite_in
      | (apply Act.each_in; intro _ _)
      | (refine Act.readLines_pieces (Foot.sub hL (by decide)) ?_ <;> intros)
      | (exact Act.violation_pieces (Foot.sub hL (by decide)))
      | exact hc_k _ _
    | dsimp only
    | split

theorem Act.writeChunk_pieces {F : Foot} {a : Nat} {d : List Byte} {part : Nat} {master : Nat} {src : Src} (hL : (Foot.whole [.regs, .mem, .errs, .lpErr, .chUe, .host, .store, .acc, .health, .leash, .trigs, .log, .recUsed, .recDrop, .recd, .attn, .flash, .emitted]).le F) : (Act.writeChunk a d part master src).In F := by
  unfold Act.writeChunk
  repeat' first
    | with_reducible first
      | exact Act.nil_in
      | exact Act.skip_in
      | apply Act.cons_in
      | apply Act.seq_in
      | (apply Act.get_in; intro _)
      | (apply Act.when_in; intro _)
      | apply Act.ite_in
      | (apply Act.each_in; intro _ _)
      | (exact Act.lineCount_pieces (Foot.sub hL (by decide)))
      | (exact Act.lpFix_pieces (Foot.sub hL (by decide)))
      | (exact Act.pmc_pieces (Foot.sub hL (by decide)))
      | (exact Act.setBytes_pieces (Foot.sub hL (by decide)))
      | (exact Act.setErrs_in (Foot.has hL (by decide) _))
      | (exact Act.setLpErr_in (Foot.has hL (by decide) _))
      | (exact Act.ueEvent_pieces (Foot.sub hL (by decide)))
      | (exact Act.wordFix_pieces (Foot.sub hL (by decide)))
    | dsimp only
    | split

theorem Act.writeLines_pieces {F : Foot} {ls : List (Nat × Nat)} {d : List Byte} {part : Nat} {master : Nat} {k : Bool → Act} {src : Src} (hL : (Foot.whole [.regs, .mem, .errs, .lpErr, .chUe, .host, .store, .acc, .health, .leash, .trigs, .log, .recUsed, .recDrop, .recd, .attn, .flash, .emitted]).le F) (hc_k : ∀ y0, (k y0).In F) : (Act.writeLines ls d part master k src).In F := by
  unfold Act.writeLines
  repeat' first
    | with_reducible first
      | exact Act.nil_in
      | exact Act.skip_in
      | apply Act.cons_in
      | apply Act.seq_in
      | (apply Act.get_in; intro _)
      | (apply Act.when_in; intro _)
      | apply Act.ite_in
      | (apply Act.each_in; intro _ _)
      | (exact Act.writeChunk_pieces (Foot.sub hL (by decide)))
      | exact hc_k _
    | dsimp only
    | split

theorem Act.writeMem_pieces {F : Foot} {part : Nat} {master : Nat} {a : Nat} {d : List Byte} {k : Bool → Act} {src : Src} (hL : (Foot.whole [.regs, .mem, .errs, .lpErr, .chUe, .host, .store, .acc, .health, .leash, .trigs, .log, .recUsed, .recDrop, .recd, .attn, .flash, .emitted]).le F) (hc_k : ∀ y0, (k y0).In F) : (Act.writeMem part master a d k src).In F := by
  unfold Act.writeMem
  repeat' first
    | with_reducible first
      | exact Act.nil_in
      | exact Act.skip_in
      | apply Act.cons_in
      | apply Act.seq_in
      | (apply Act.get_in; intro _)
      | (apply Act.when_in; intro _)
      | apply Act.ite_in
      | (apply Act.each_in; intro _ _)
      | (exact Act.violation_pieces (Foot.sub hL (by decide)))
      | (refine Act.writeLines_pieces (Foot.sub hL (by decide)) ?_ <;> intros)
      | exact hc_k _
    | dsimp only
    | split

theorem Act.atomicAt_pieces {F : Foot} {a : Nat} {op : AtomicKind} {part : Nat} {master : Nat} {k : Nat → Bool → Bool → Act} {src : Src} (hL : (Foot.whole [.regs, .mem, .errs, .lpErr, .chUe, .host, .store, .acc, .health, .leash, .trigs, .log, .recUsed, .recDrop, .recd, .attn, .flash, .emitted]).le F) (hc_k : ∀ y0 y1 y2, (k y0 y1 y2).In F) : (Act.atomicAt a op part master k src).In F := by
  unfold Act.atomicAt
  repeat' first
    | with_reducible first
      | exact Act.nil_in
      | exact Act.skip_in
      | apply Act.cons_in
      | apply Act.seq_in
      | (apply Act.get_in; intro _)
      | (apply Act.when_in; intro _)
      | apply Act.ite_in
      | (apply Act.each_in; intro _ _)
      | (exact Act.lineCount_pieces (Foot.sub hL (by decide)))
      | (exact Act.lineFix_pieces (Foot.sub hL (by decide)))
      | (exact Act.pmc_pieces (Foot.sub hL (by decide)))
      | (exact Act.setBytes_pieces (Foot.sub hL (by decide)))
      | (exact Act.ueEvent_pieces (Foot.sub hL (by decide)))
      | exact hc_k _ _ _
    | dsimp only
    | split

end Sys2Proof.Machine
end

