-- ==== Sys2Proof/Laws/PiecesLastOps.lean ====
section
/-! SUPPORT. The pieces of state that the operations of Machine/LastOps.lean can write. -/

set_option linter.unusedSimpArgs false

namespace Sys2Proof.Machine

theorem Act.charge_pieces {F : Foot} {n : Nat} {paid : Act} {waits : Act} (hL : (Foot.whole [.regs, .last]).le F) (hc_paid : paid.In F) (hc_waits : waits.In F) : (Act.charge n paid waits).In F := by
  unfold Act.charge
  repeat' first
    | with_reducible first
      | exact Act.nil_in
      | exact Act.skip_in
      | apply Act.cons_in
      | apply Act.seq_in
      | (apply Act.get_in; intro _)
      | (apply Act.when_in; intro _)
      | apply Act.ite_in
      | (apply Act.each_in; intro _ _)
      | (exact Act.incF_in (Foot.has hL (by decide) _))
      | (exact Act.modLast_in fun k => Foot.has hL (by decide) k)
      | (exact Act.pmc_pieces (Foot.sub hL (by decide)))
      | exact hc_paid
      | exact hc_waits
    | dsimp only
    | split

theorem Act.srOverrun_pieces {F : Foot} {p : Nat} (hL : (Foot.whole [.parts]).le F) : (Act.srOverrun p).In F := by
  unfold Act.srOverrun
  repeat' first
    | with_reducible first
      | exact Act.nil_in
      | exact Act.skip_in
      | apply Act.cons_in
      | apply Act.seq_in
      | (apply Act.get_in; intro _)
      | (apply Act.when_in; intro _)
      | apply Act.ite_in
      | (apply Act.each_in; intro _ _)
      | (exact Act.modParts_in (Foot.has hL (by decide) _))
    | dsimp only
    | split

theorem Act.srRerun_pieces {F : Foot} {p : Nat} (hL : (Foot.whole [.parts]).le F) : (Act.srRerun p).In F := by
  unfold Act.srRerun
  repeat' first
    | with_reducible first
      | exact Act.nil_in
      | exact Act.skip_in
      | apply Act.cons_in
      | apply Act.seq_in
      | (apply Act.get_in; intro _)
      | (apply Act.when_in; intro _)
      | apply Act.ite_in
      | (apply Act.each_in; intro _ _)
      | (exact Act.modParts_in (Foot.has hL (by decide) _))
    | dsimp only
    | split

theorem Act.srHold_pieces {F : Foot} {p : Nat} (hL : (Foot.whole [.parts]).le F) : (Act.srHold p).In F := by
  unfold Act.srHold
  repeat' first
    | with_reducible first
      | exact Act.nil_in
      | exact Act.skip_in
      | apply Act.cons_in
      | apply Act.seq_in
      | (apply Act.get_in; intro _)
      | (apply Act.when_in; intro _)
      | apply Act.ite_in
      | (apply Act.each_in; intro _ _)
      | (exact Act.modParts_in (Foot.has hL (by decide) _))
    | dsimp only
    | split

end Sys2Proof.Machine
end

