-- ==== Sys2Proof/Laws/PiecesRadioMath.lean ====
section
/-! SUPPORT. The pieces of state that the operations of Machine/RadioMath.lean can write. -/

set_option linter.unusedSimpArgs false

namespace Sys2Proof.Machine

theorem Act.modStream_pieces {F : Foot} {c : Nat} {k : Nat} {g : StreamSt → StreamSt} (hL : (Foot.whole [.cells]).le F) : (Act.modStream c k g).In F := by
  unfold Act.modStream
  repeat' first
    | with_reducible first
      | exact Act.nil_in
      | exact Act.skip_in
      | apply Act.cons_in
      | apply Act.seq_in
      | (apply Act.get_in; intro _)
      | (apply Act.when_in; intro _)
      | apply Act.ite_in
      | (apply Act.each_in; intro _ _)
      | (exact Act.modCells_in (Foot.has hL (by decide) _))
    | dsimp only
    | split

end Sys2Proof.Machine
end

