-- ==== Sys2Proof/Laws/PiecesRadioOps.lean ====
section
/-! SUPPORT. The pieces of state that the operations of Machine/RadioOps.lean can write. -/

set_option linter.unusedSimpArgs false

namespace Sys2Proof.Machine

theorem Act.radioActive_pieces {F : Foot} (hL : (Foot.whole [.regs]).le F) : (Act.radioActive).In F := by
  unfold Act.radioActive
  repeat' first
    | with_reducible first
      | exact Act.nil_in
      | exact Act.skip_in
      | apply Act.cons_in
      | apply Act.seq_in
      | (apply Act.get_in; intro _)
      | (apply Act.when_in; intro _)
      | apply Act.ite_in
      | (apply Act.each_in; intro _ _)
      | (exact Act.setF_in (Foot.has hL (by decide) _))
    | dsimp only
    | split

theorem Act.cellInc_pieces {F : Foot} {key : Nat} {reg : Nat → Nat} {f : Field} {n : Nat} (hL : (Foot.whole [.regs]).le F) : (Act.cellInc key reg f n).In F := by
  unfold Act.cellInc
  repeat' first
    | with_reducible first
      | exact Act.nil_in
      | exact Act.skip_in
      | apply Act.cons_in
      | apply Act.seq_in
      | (apply Act.get_in; intro _)
      | (apply Act.when_in; intro _)
      | apply Act.ite_in
      | (apply Act.each_in; intro _ _)
      | (exact Act.incF_in (Foot.has hL (by decide) _))
    | dsimp only
    | split

theorem Act.cellInd_pieces {F : Foot} {c : Nat} {esn : Nat} {m : Nat × List Byte} (hL : (Foot.whole [.cells]).le F) : (Act.cellInd c esn m).In F := by
  unfold Act.cellInd
  repeat' first
    | with_reducible first
      | exact Act.nil_in
      | exact Act.skip_in
      | apply Act.cons_in
      | apply Act.seq_in
      | (apply Act.get_in; intro _)
      | (apply Act.when_in; intro _)
      | apply Act.ite_in
      | (apply Act.each_in; intro _ _)
      | (exact Act.modCells_in (Foot.has hL (by decide) _))
    | dsimp only
    | split

theorem Act.setHq_pieces {F : Foot} {c : Nat} {h : List HarqEnt} (hL : (Foot.whole [.regs, .cells]).le F) : (Act.setHq c h).In F := by
  unfold Act.setHq
  repeat' first
    | with_reducible first
      | exact Act.nil_in
      | exact Act.skip_in
      | apply Act.cons_in
      | apply Act.seq_in
      | (apply Act.get_in; intro _)
      | (apply Act.when_in; intro _)
      | apply Act.ite_in
      | (apply Act.each_in; intro _ _)
      | (exact Act.modCells_in (Foot.has hL (by decide) _))
      | (exact Act.modF_in (Foot.has hL (by decide) _))
    | dsimp only
    | split

theorem Act.hqLeft_pieces {F : Foot} {d : Nat} (hL : (Foot.whole [.regs, .cells]).le F) : (Act.hqLeft d).In F := by
  unfold Act.hqLeft
  repeat' first
    | with_reducible first
      | exact Act.nil_in
      | exact Act.skip_in
      | apply Act.cons_in
      | apply Act.seq_in
      | (apply Act.get_in; intro _)
      | (apply Act.when_in; intro _)
      | apply Act.ite_in
      | (apply Act.each_in; intro _ _)
      | (exact Act.setHq_pieces (Foot.sub hL (by decide)))
    | dsimp only
    | split

theorem Act.dropCodeJob_pieces {F : Foot} {k : Nat} (hL : (Foot.whole [.regs, .cells, .cjobs]).le F) : (Act.dropCodeJob k).In F := by
  unfold Act.dropCodeJob
  repeat' first
    | with_reducible first
      | exact Act.nil_in
      | exact Act.skip_in
      | apply Act.cons_in
      | apply Act.seq_in
      | (apply Act.get_in; intro _)
      | (apply Act.when_in; intro _)
      | apply Act.ite_in
      | (apply Act.each_in; intro _ _)
      | (exact Act.hqLeft_pieces (Foot.sub hL (by decide)))
      | (exact Act.setCjobs_in (Foot.has hL (by decide) _))
      | (exact Act.setF_in (Foot.has hL (by decide) _))
    | dsimp only
    | split

theorem Act.abortCodeJobs_pieces {F : Foot} {c : Nat} (hL : (Foot.whole [.regs, .cells, .cjobs]).le F) : (Act.abortCodeJobs c).In F := by
  unfold Act.abortCodeJobs
  repeat' first
    | with_reducible first
      | exact Act.nil_in
      | exact Act.skip_in
      | apply Act.cons_in
      | apply Act.seq_in
      | (apply Act.get_in; intro _)
      | (apply Act.when_in; intro _)
      | apply Act.ite_in
      | (apply Act.each_in; intro _ _)
      | (exact Act.dropCodeJob_pieces (Foot.sub hL (by decide)))
      | (exact Act.setHq_pieces (Foot.sub hL (by decide)))
    | dsimp only
    | split

theorem Act.dspAbort_pieces {F : Foot} {d : Nat} (hL : (Foot.whole [.regs, .dsps]).le F) : (Act.dspAbort d).In F := by
  unfold Act.dspAbort
  repeat' first
    | with_reducible first
      | exact Act.nil_in
      | exact Act.skip_in
      | apply Act.cons_in
      | apply Act.seq_in
      | (apply Act.get_in; intro _)
      | (apply Act.when_in; intro _)
      | apply Act.ite_in
      | (apply Act.each_in; intro _ _)
      | (exact Act.incF_in (Foot.has hL (by decide) _))
      | (exact Act.modDsps_in (Foot.has hL (by decide) _))
      | (exact Act.setF_in (Foot.has hL (by decide) _))
    | dsimp only
    | split

theorem Act.abortDspJobs_pieces {F : Foot} {c : Nat} (hL : (Foot.whole [.regs, .dsps]).le F) : (Act.abortDspJobs c).In F := by
  unfold Act.abortDspJobs
  repeat' first
    | with_reducible first
      | exact Act.nil_in
      | exact Act.skip_in
      | apply Act.cons_in
      | apply Act.seq_in
      | (apply Act.get_in; intro _)
      | (apply Act.when_in; intro _)
      | apply Act.ite_in
      | (apply Act.each_in; intro _ _)
      | (exact Act.dspAbort_pieces (Foot.sub hL (by decide)))
    | dsimp only
    | split

theorem Act.dropSignals_pieces {F : Foot} {c : Nat} (hL : (Foot.whole [.sigq]).le F) : (Act.dropSignals c).In F := by
  unfold Act.dropSignals
  repeat' first
    | with_reducible first
      | exact Act.nil_in
      | exact Act.skip_in
      | apply Act.cons_in
      | apply Act.seq_in
      | (apply Act.get_in; intro _)
      | (apply Act.when_in; intro _)
      | apply Act.ite_in
      | (apply Act.each_in; intro _ _)
      | (exact Act.modSigq_in fun k => Foot.has hL (by decide) k)
    | dsimp only
    | split

theorem Act.cellReset_pieces {F : Foot} {c : Nat} {cause : Nat} {slot : Option Nat} (hL : (Foot.whole [.regs, .host, .leash, .trigs, .log, .recUsed, .recDrop, .cells, .cjobs, .dsps, .recd, .attn, .sigq, .free, .emitted]).le F) : (Act.cellReset c cause slot).In F := by
  unfold Act.cellReset
  repeat' first
    | with_reducible first
      | exact Act.nil_in
      | exact Act.skip_in
      | apply Act.cons_in
      | apply Act.seq_in
      | (apply Act.get_in; intro _)
      | (apply Act.when_in; intro _)
      | apply Act.ite_in
      | (apply Act.each_in; intro _ _)
      | (exact Act.abortCodeJobs_pieces (Foot.sub hL (by decide)))
      | (exact Act.abortDspJobs_pieces (Foot.sub hL (by decide)))
      | (exact Act.attnRadio_pieces (Foot.sub hL (by decide)))
      | (exact Act.cellInc_pieces (Foot.sub hL (by decide)))
      | (exact Act.dropSignals_pieces (Foot.sub hL (by decide)))
      | (exact Act.modCells_in (Foot.has hL (by decide) _))
      | (exact Act.modFree_in fun k => Foot.has hL (by decide) k)
      | (exact Act.record_pieces (Foot.sub hL (by decide)))
      | (exact Act.setF_in (Foot.has hL (by decide) _))
      | (exact Act.setHq_pieces (Foot.sub hL (by decide)))
    | dsimp only
    | split

theorem Act.ingressStop_pieces {F : Foot} (hL : (Foot.whole [.cells]).le F) : (Act.ingressStop).In F := by
  unfold Act.ingressStop
  repeat' first
    | with_reducible first
      | exact Act.nil_in
      | exact Act.skip_in
      | apply Act.cons_in
      | apply Act.seq_in
      | (apply Act.get_in; intro _)
      | (apply Act.when_in; intro _)
      | apply Act.ite_in
      | (apply Act.each_in; intro _ _)
      | (exact Act.modCells_in (Foot.has hL (by decide) _))
    | dsimp only
    | split

theorem Act.cellResets_pieces {F : Foot} {cs : List Nat} {cause : Nat} {slot : Option Nat} (hL : (Foot.whole [.regs, .host, .leash, .trigs, .log, .recUsed, .recDrop, .cells, .cjobs, .dsps, .recd, .attn, .sigq, .free, .emitted]).le F) : (Act.cellResets cs cause slot).In F := by
  unfold Act.cellResets
  repeat' first
    | with_reducible first
      | exact Act.nil_in
      | exact Act.skip_in
      | apply Act.cons_in
      | apply Act.seq_in
      | (apply Act.get_in; intro _)
      | (apply Act.when_in; intro _)
      | apply Act.ite_in
      | (apply Act.each_in; intro _ _)
      | (exact Act.cellReset_pieces (Foot.sub hL (by decide)))
    | dsimp only
    | split

theorem Act.dspFaultOf_pieces {F : Foot} {d : Nat} {code : Nat} {radio : Bool} {jobId : Nat} {cells : List Nat} (hL : (Foot.whole [.regs, .host, .leash, .trigs, .log, .recUsed, .recDrop, .cells, .cjobs, .dsps, .recd, .attn, .sigq, .held, .free, .emitted]).le F) : (Act.dspFaultOf d code radio jobId cells).In F := by
  unfold Act.dspFaultOf
  repeat' first
    | with_reducible first
      | exact Act.nil_in
      | exact Act.skip_in
      | apply Act.cons_in
      | apply Act.seq_in
      | (apply Act.get_in; intro _)
      | (apply Act.when_in; intro _)
      | apply Act.ite_in
      | (apply Act.each_in; intro _ _)
      | (exact Act.cellResets_pieces (Foot.sub hL (by decide)))
      | (exact Act.dspAbort_pieces (Foot.sub hL (by decide)))
      | (exact Act.modHeld_in fun k => Foot.has hL (by decide) k)
      | (exact Act.modSigq_in fun k => Foot.has hL (by decide) k)
      | (exact Act.setF_in (Foot.has hL (by decide) _))
    | dsimp only
    | split

theorem Act.dspFault_pieces {F : Foot} {d : Nat} {code : Nat} {radio : Bool} {jobId : Nat} {cells : List Nat} (hL : (Foot.whole [.regs, .host, .leash, .trigs, .log, .recUsed, .recDrop, .cells, .cjobs, .dsps, .recd, .attn, .sigq, .held, .free, .emitted]).le F) : (Act.dspFault d code radio jobId cells).In F := by
  unfold Act.dspFault
  repeat' first
    | with_reducible first
      | exact Act.nil_in
      | exact Act.skip_in
      | apply Act.cons_in
      | apply Act.seq_in
      | (apply Act.get_in; intro _)
      | (apply Act.when_in; intro _)
      | apply Act.ite_in
      | (apply Act.each_in; intro _ _)
      | (exact Act.dspAbort_pieces (Foot.sub hL (by decide)))
      | (exact Act.dspFaultOf_pieces (Foot.sub hL (by decide)))
    | dsimp only
    | split

theorem Act.dspFaultNow_pieces {F : Foot} {d : Nat} {code : Nat} (hL : (Foot.whole [.regs, .host, .leash, .trigs, .log, .recUsed, .recDrop, .cells, .cjobs, .dsps, .recd, .attn, .sigq, .held, .free, .emitted]).le F) : (Act.dspFaultNow d code).In F := by
  unfold Act.dspFaultNow
  repeat' first
    | with_reducible first
      | exact Act.nil_in
      | exact Act.skip_in
      | apply Act.cons_in
      | apply Act.seq_in
      | (apply Act.get_in; intro _)
      | (apply Act.when_in; intro _)
      | apply Act.ite_in
      | (apply Act.each_in; intro _ _)
      | (exact Act.dspFault_pieces (Foot.sub hL (by decide)))
    | dsimp only
    | split

theorem Act.dspFence_pieces {F : Foot} {d : Nat} (hL : (Foot.whole [.regs, .host, .leash, .trigs, .log, .recUsed, .recDrop, .recd, .attn, .emitted]).le F) : (Act.dspFence d).In F := by
  unfold Act.dspFence
  repeat' first
    | with_reducible first
      | exact Act.nil_in
      | exact Act.skip_in
      | apply Act.cons_in
      | apply Act.seq_in
      | (apply Act.get_in; intro _)
      | (apply Act.when_in; intro _)
      | apply Act.ite_in
      | (apply Act.each_in; intro _ _)
      | (exact Act.attnRadio_pieces (Foot.sub hL (by decide)))
      | (exact Act.record_pieces (Foot.sub hL (by decide)))
      | (exact Act.setF_in (Foot.has hL (by decide) _))
    | dsimp only
    | split

end Sys2Proof.Machine
end

