-- ==== Sys2Proof/Laws/PiecesPartOps.lean ====
section
/-! SUPPORT. The pieces of state that the operations of Machine/PartOps.lean can write. -/

set_option linter.unusedSimpArgs false

namespace Sys2Proof.Machine

theorem Act.mbEvent_pieces {F : Foot} {p : Nat} {b : Nat} (hL : (Foot.whole [.regs, .host, .attn, .emitted]).le F) : (Act.mbEvent p b).In F := by
  unfold Act.mbEvent
  repeat' first
    | with_reducible first
      | exact Act.nil_in
      | exact Act.skip_in
      | apply Act.cons_in
      | apply Act.seq_in
      | (apply Act.get_in; intro _)
      | (apply Act.when_in; intro _)
      | apply Act.ite_in
      | (apply Act.each_in; intro _ _)
      | (exact Act.attnSet_pieces (Foot.sub hL (by decide)))
      | (exact Act.orF_in (Foot.has hL (by decide) _))
    | dsimp only
    | split

theorem Act.spaceWrite_pieces {F : Foot} {part : Nat} {host : Bool} {pasid : Nat} {addr : Nat} {d : List Byte} {k : Bool → Act} (hL : (Foot.whole [.regs, .mem, .errs, .lpErr, .chUe, .host, .store, .acc, .health, .leash, .trigs, .log, .recUsed, .recDrop, .recd, .attn, .flash, .emitted]).le F) (hc_k : ∀ y0, (k y0).In F) : (Act.spaceWrite part host pasid addr d k).In F := by
  unfold Act.spaceWrite
  repeat' first
    | with_reducible first
      | exact Act.nil_in
      | exact Act.skip_in
      | apply Act.cons_in
      | apply Act.seq_in
      | (apply Act.get_in; intro _)
      | (apply Act.when_in; intro _)
      | apply Act.ite_in
      | (apply Act.each_in; intro _ _)
      | (exact Act.dmaWrite_pieces (Foot.sub hL (by decide)))
      | (refine Act.writeMem_pieces (Foot.sub hL (by decide)) ?_ <;> intros)
      | exact hc_k _
    | dsimp only
    | split

theorem Act.spaceRead_pieces {F : Foot} {part : Nat} {host : Bool} {pasid : Nat} {addr : Nat} {n : Nat} {k : List Byte → Bool → Act} (hL : (Foot.whole [.regs, .mem, .errs, .lpErr, .chUe, .host, .store, .acc, .health, .leash, .trigs, .log, .recUsed, .recDrop, .recd, .attn, .flash, .emitted]).le F) (hc_k : ∀ y0 y1, (k y0 y1).In F) : (Act.spaceRead part host pasid addr n k).In F := by
  unfold Act.spaceRead
  repeat' first
    | with_reducible first
      | exact Act.nil_in
      | exact Act.skip_in
      | apply Act.cons_in
      | apply Act.seq_in
      | (apply Act.get_in; intro _)
      | (apply Act.when_in; intro _)
      | apply Act.ite_in
      | (apply Act.each_in; intro _ _)
      | (exact Act.dmaCount_pieces (Foot.sub hL (by decide)))
      | (refine Act.readMem_pieces (Foot.sub hL (by decide)) ?_ <;> intros)
      | exact hc_k _ _
    | dsimp only
    | split

theorem Act.answer_pieces {F : Foot} {j : JCmd} {status : Nat} {detail : Nat} {data : List Word} {ret : Nat} {handle : Nat} (hL : (Foot.whole [.regs, .mem, .errs, .lpErr, .chUe, .host, .store, .acc, .parts, .health, .leash, .trigs, .log, .recUsed, .recDrop, .recd, .attn, .flash, .emitted]).le F) : (Act.answer j status detail data ret handle).In F := by
  unfold Act.answer
  repeat' first
    | with_reducible first
      | exact Act.nil_in
      | exact Act.skip_in
      | apply Act.cons_in
      | apply Act.seq_in
      | (apply Act.get_in; intro _)
      | (apply Act.when_in; intro _)
      | apply Act.ite_in
      | (apply Act.each_in; intro _ _)
      | (exact Act.modParts_in (Foot.has hL (by decide) _))
      | (exact Act.setRegs_in (Foot.has hL (by decide) _))
      | (refine Act.spaceWrite_pieces (Foot.sub hL (by decide)) ?_ <;> intros)
    | dsimp only
    | split

theorem Act.reply_pieces {F : Foot} {j : JCmd} {status : Nat} {detail : Nat} {data : List Word} {ret : Nat} {handle : Nat} (hL : (Foot.whole [.regs, .mem, .errs, .lpErr, .chUe, .host, .store, .acc, .parts, .health, .leash, .trigs, .log, .recUsed, .recDrop, .recd, .attn, .flash, .emitted]).le F) : (Act.reply j status detail data ret handle).In F := by
  unfold Act.reply
  repeat' first
    | with_reducible first
      | exact Act.nil_in
      | exact Act.skip_in
      | apply Act.cons_in
      | apply Act.seq_in
      | (apply Act.get_in; intro _)
      | (apply Act.when_in; intro _)
      | apply Act.ite_in
      | (apply Act.each_in; intro _ _)
      | (exact Act.answer_pieces (Foot.sub hL (by decide)))
      | (exact Act.incF_in (Foot.has hL (by decide) _))
    | dsimp only
    | split

theorem Act.replyOut_pieces {F : Foot} {j : JCmd} {d : List Byte} {out : Bool} (hL : (Foot.whole [.regs, .mem, .errs, .lpErr, .chUe, .host, .store, .acc, .parts, .health, .leash, .trigs, .log, .recUsed, .recDrop, .recd, .attn, .flash, .emitted]).le F) : (Act.replyOut j d out).In F := by
  unfold Act.replyOut
  repeat' first
    | with_reducible first
      | exact Act.nil_in
      | exact Act.skip_in
      | apply Act.cons_in
      | apply Act.seq_in
      | (apply Act.get_in; intro _)
      | (apply Act.when_in; intro _)
      | apply Act.ite_in
      | (apply Act.each_in; intro _ _)
      | (exact Act.dmaWrite_pieces (Foot.sub hL (by decide)))
      | (exact Act.reply_pieces (Foot.sub hL (by decide)))
    | dsimp only
    | split

theorem Act.replyOk_pieces {F : Foot} {j : JCmd} {data : List Word} (hL : (Foot.whole [.regs, .mem, .errs, .lpErr, .chUe, .host, .store, .acc, .parts, .health, .leash, .trigs, .log, .recUsed, .recDrop, .recd, .attn, .flash, .emitted]).le F) : (Act.replyOk j data).In F := by
  unfold Act.replyOk
  repeat' first
    | with_reducible first
      | exact Act.nil_in
      | exact Act.skip_in
      | apply Act.cons_in
      | apply Act.seq_in
      | (apply Act.get_in; intro _)
      | (apply Act.when_in; intro _)
      | apply Act.ite_in
      | (apply Act.each_in; intro _ _)
      | (exact Act.replyOut_pieces (Foot.sub hL (by decide)))
    | dsimp only
    | split

theorem Act.refuse_pieces {F : Foot} {j : JCmd} {status : Nat} {detail : Nat} (hL : (Foot.whole [.regs, .mem, .errs, .lpErr, .chUe, .host, .store, .acc, .parts, .health, .leash, .trigs, .log, .recUsed, .recDrop, .recd, .attn, .flash, .emitted]).le F) : (Act.refuse j status detail).In F := by
  unfold Act.refuse
  repeat' first
    | with_reducible first
      | exact Act.nil_in
      | exact Act.skip_in
      | apply Act.cons_in
      | apply Act.seq_in
      | (apply Act.get_in; intro _)
      | (apply Act.when_in; intro _)
      | apply Act.ite_in
      | (apply Act.each_in; intro _ _)
      | (exact Act.answer_pieces (Foot.sub hL (by decide)))
      | (exact Act.incF_in (Foot.has hL (by decide) _))
    | dsimp only
    | split

theorem Act.settle_pieces {F : Foot} {p : Nat} (hL : (Foot.whole [.regs]).le F) : (Act.settle p).In F := by
  unfold Act.settle
  repeat' first
    | with_reducible first
      | exact Act.nil_in
      | exact Act.skip_in
      | apply Act.cons_in
      | apply Act.seq_in
      | (apply Act.get_in; intro _)
      | (apply Act.when_in; intro _)
      | apply Act.ite_in
      | (apply Act.each_in; intro _ _)
      | (exact Act.setF_in (Foot.has hL (by decide) _))
    | dsimp only
    | split

theorem Act.complete_pieces {F : Foot} {p : Nat} {l : Launch} {status : Nat} {done : Nat} {fail : Nat} {detail : Nat} {onErr : Act} (hL : (Foot.whole [.regs, .mem, .errs, .lpErr, .chUe, .host, .store, .acc, .parts, .health, .leash, .trigs, .log, .recUsed, .recDrop, .recd, .attn, .flash, .emitted]).le F) (hc_onErr : onErr.In F) : (Act.complete p l status done fail detail onErr).In F := by
  unfold Act.complete
  repeat' first
    | with_reducible first
      | exact Act.nil_in
      | exact Act.skip_in
      | apply Act.cons_in
      | apply Act.seq_in
      | (apply Act.get_in; intro _)
      | (apply Act.when_in; intro _)
      | apply Act.ite_in
      | (apply Act.each_in; intro _ _)
      | (exact Act.mbEvent_pieces (Foot.sub hL (by decide)))
      | (exact Act.modF_in (Foot.has hL (by decide) _))
      | (exact Act.modParts_in (Foot.has hL (by decide) _))
      | (exact Act.settle_pieces (Foot.sub hL (by decide)))
      | (refine Act.spaceWrite_pieces (Foot.sub hL (by decide)) ?_ <;> intros)
      | exact hc_onErr
    | dsimp only
    | split

theorem Act.arrBusy_pieces {F : Foot} {c : Nat} {a : Nat} (hL : (Foot.whole [.regs]).le F) : (Act.arrBusy c a).In F := by
  unfold Act.arrBusy
  repeat' first
    | with_reducible first
      | exact Act.nil_in
      | exact Act.skip_in
      | apply Act.cons_in
      | apply Act.seq_in
      | (apply Act.get_in; intro _)
      | (apply Act.when_in; intro _)
      | apply Act.ite_in
      | (apply Act.each_in; intro _ _)
      | (exact Act.modF_in (Foot.has hL (by decide) _))
    | dsimp only
    | split

theorem Act.arrClear_pieces {F : Foot} {c : Nat} {a : Nat} (hL : (Foot.whole [.regs, .arrs]).le F) : (Act.arrClear c a).In F := by
  unfold Act.arrClear
  repeat' first
    | with_reducible first
      | exact Act.nil_in
      | exact Act.skip_in
      | apply Act.cons_in
      | apply Act.seq_in
      | (apply Act.get_in; intro _)
      | (apply Act.when_in; intro _)
      | apply Act.ite_in
      | (apply Act.each_in; intro _ _)
      | (exact Act.arrBusy_pieces (Foot.sub hL (by decide)))
      | (exact Act.modArrs_in (Foot.has hL (by decide) _))
      | (exact Act.setF_in (Foot.has hL (by decide) _))
    | dsimp only
    | split

theorem Act.rerunOver_pieces {F : Foot} {c : Nat} {a : Nat} (hL : (Foot.whole [.arrs]).le F) : (Act.rerunOver c a).In F := by
  unfold Act.rerunOver
  repeat' first
    | with_reducible first
      | exact Act.nil_in
      | exact Act.skip_in
      | apply Act.cons_in
      | apply Act.seq_in
      | (apply Act.get_in; intro _)
      | (apply Act.when_in; intro _)
      | apply Act.ite_in
      | (apply Act.each_in; intro _ _)
      | (exact Act.modArrs_in (Foot.has hL (by decide) _))
    | dsimp only
    | split

theorem Act.ctxHalt_pieces {F : Foot} {c : Nat} {x : Nat} (hL : (Foot.whole [.regs, .ctxs, .arrs]).le F) : (Act.ctxHalt c x).In F := by
  unfold Act.ctxHalt
  repeat' first
    | with_reducible first
      | exact Act.nil_in
      | exact Act.skip_in
      | apply Act.cons_in
      | apply Act.seq_in
      | (apply Act.get_in; intro _)
      | (apply Act.when_in; intro _)
      | apply Act.ite_in
      | (apply Act.each_in; intro _ _)
      | (exact Act.arrClear_pieces (Foot.sub hL (by decide)))
      | (exact Act.modCtxs_in (Foot.has hL (by decide) _))
      | (exact Act.modF_in (Foot.has hL (by decide) _))
      | (exact Act.rerunOver_pieces (Foot.sub hL (by decide)))
    | dsimp only
    | split

theorem Act.quarterRelease_pieces {F : Foot} {i : Nat} (hL : (Foot.whole [.anchors, .pend]).le F) : (Act.quarterRelease i).In F := by
  unfold Act.quarterRelease
  repeat' first
    | with_reducible first
      | exact Act.nil_in
      | exact Act.skip_in
      | apply Act.cons_in
      | apply Act.seq_in
      | (apply Act.get_in; intro _)
      | (apply Act.when_in; intro _)
      | apply Act.ite_in
      | (apply Act.each_in; intro _ _)
      | (exact Act.clearAnchors_in fun k _ _ => Foot.has hL (by decide) k)
      | (exact Act.clearPend_in fun k _ _ => Foot.has hL (by decide) k)
    | dsimp only
    | split

theorem Act.engHalt_pieces {F : Foot} {p : Nat} {e : Nat} (hL : (Foot.whole [.regs, .engs, .conns]).le F) : (Act.engHalt p e).In F := by
  unfold Act.engHalt
  repeat' first
    | with_reducible first
      | exact Act.nil_in
      | exact Act.skip_in
      | apply Act.cons_in
      | apply Act.seq_in
      | (apply Act.get_in; intro _)
      | (apply Act.when_in; intro _)
      | apply Act.ite_in
      | (apply Act.each_in; intro _ _)
      | (exact Act.modConns_in (Foot.has hL (by decide) _))
      | (exact Act.setEngs_in (Foot.has hL (by decide) _))
      | (exact Act.setF_in (Foot.has hL (by decide) _))
    | dsimp only
    | split

theorem Act.houndEnd_pieces {F : Foot} {h : Nat} (hL : (Foot.whole [.regs, .hounds]).le F) : (Act.houndEnd h).In F := by
  unfold Act.houndEnd
  repeat' first
    | with_reducible first
      | exact Act.nil_in
      | exact Act.skip_in
      | apply Act.cons_in
      | apply Act.seq_in
      | (apply Act.get_in; intro _)
      | (apply Act.when_in; intro _)
      | apply Act.ite_in
      | (apply Act.each_in; intro _ _)
      | (exact Act.setF_in (Foot.has hL (by decide) _))
      | (exact Act.setHounds_in (Foot.has hL (by decide) _))
    | dsimp only
    | split

theorem Act.houndsEnd_pieces {F : Foot} {p : Nat} (hL : (Foot.whole [.regs, .hounds]).le F) : (Act.houndsEnd p).In F := by
  unfold Act.houndsEnd
  repeat' first
    | with_reducible first
      | exact Act.nil_in
      | exact Act.skip_in
      | apply Act.cons_in
      | apply Act.seq_in
      | (apply Act.get_in; intro _)
      | (apply Act.when_in; intro _)
      | apply Act.ite_in
      | (apply Act.each_in; intro _ _)
      | (exact Act.houndEnd_pieces (Foot.sub hL (by decide)))
    | dsimp only
    | split

theorem Act.barDisarm_pieces {F : Foot} {p : Nat} (hL : (Foot.whole [.regs, .bars]).le F) : (Act.barDisarm p).In F := by
  unfold Act.barDisarm
  repeat' first
    | with_reducible first
      | exact Act.nil_in
      | exact Act.skip_in
      | apply Act.cons_in
      | apply Act.seq_in
      | (apply Act.get_in; intro _)
      | (apply Act.when_in; intro _)
      | apply Act.ite_in
      | (apply Act.each_in; intro _ _)
      | (exact Act.setBars_in (Foot.has hL (by decide) _))
      | (exact Act.setF_in (Foot.has hL (by decide) _))
    | dsimp only
    | split

theorem Act.repRetarget_pieces {F : Foot} {cs : List Nat} (hL : (Foot.whole [.regs]).le F) : (Act.repRetarget cs).In F := by
  unfold Act.repRetarget
  repeat' first
    | with_reducible first
      | exact Act.nil_in
      | exact Act.skip_in
      | apply Act.cons_in
      | apply Act.seq_in
      | (apply Act.get_in; intro _)
      | (apply Act.when_in; intro _)
      | apply Act.ite_in
      | (apply Act.each_in; intro _ _)
      | (exact Act.setF_in (Foot.has hL (by decide) _))
    | dsimp only
    | split

theorem Act.resetBody_pieces {F : Foot} {p : Nat} {status : Nat} {detail : Nat} (hL : (Foot.whole [.regs, .mem, .errs, .lpErr, .chUe, .host, .store, .acc, .anchors, .pend, .ctxs, .arrs, .parts, .health, .leash, .trigs, .log, .recUsed, .recDrop, .engs, .conns, .bars, .hounds, .dumps, .recd, .attn, .sigq, .convq, .flash, .pairs, .emitted]).le F) : (Act.resetBody p status detail).In F := by
  unfold Act.resetBody
  repeat' first
    | with_reducible first
      | exact Act.nil_in
      | exact Act.skip_in
      | apply Act.cons_in
      | apply Act.seq_in
      | (apply Act.get_in; intro _)
      | (apply Act.when_in; intro _)
      | apply Act.ite_in
      | (apply Act.each_in; intro _ _)
      | (exact Act.answer_pieces (Foot.sub hL (by decide)))
      | (exact Act.barDisarm_pieces (Foot.sub hL (by decide)))
      | (refine Act.complete_pieces (Foot.sub hL (by decide)) ?_ <;> intros)
      | (exact Act.ctxHalt_pieces (Foot.sub hL (by decide)))
      | (exact Act.engHalt_pieces (Foot.sub hL (by decide)))
      | (exact Act.houndsEnd_pieces (Foot.sub hL (by decide)))
      | (exact Act.modConvq_in fun k => Foot.has hL (by decide) k)
      | (exact Act.modCtxs_in (Foot.has hL (by decide) _))
      | (exact Act.modDumps_in (Foot.has hL (by decide) _))
      | (exact Act.modPairs_in fun k => Foot.has hL (by decide) k)
      | (exact Act.modParts_in (Foot.has hL (by decide) _))
      | (exact Act.modSigq_in fun k => Foot.has hL (by decide) k)
      | (exact Act.quarterRelease_pieces (Foot.sub hL (by decide)))
      | (exact Act.repRetarget_pieces (Foot.sub hL (by decide)))
      | (exact Act.setF_in (Foot.has hL (by decide) _))
    | dsimp only
    | split

theorem Act.faultInfo_pieces {F : Foot} {p : Nat} {cls : Nat} {code : Nat} {core : Nat} {handle : Nat} (hL : (Foot.whole [.regs]).le F) : (Act.faultInfo p cls code core handle).In F := by
  unfold Act.faultInfo
  repeat' first
    | with_reducible first
      | exact Act.nil_in
      | exact Act.skip_in
      | apply Act.cons_in
      | apply Act.seq_in
      | (apply Act.get_in; intro _)
      | (apply Act.when_in; intro _)
      | apply Act.ite_in
      | (apply Act.each_in; intro _ _)
      | (exact Act.setRegs_in (Foot.has hL (by decide) _))
    | dsimp only
    | split

theorem Act.sliceFault_pieces {F : Foot} {p : Nat} {cls : Nat} {code : Nat} {core : Nat} {handle : Nat} (hL : (Foot.whole [.regs, .mem, .errs, .lpErr, .chUe, .host, .store, .acc, .anchors, .pend, .ctxs, .arrs, .parts, .health, .leash, .trigs, .log, .recUsed, .recDrop, .engs, .conns, .bars, .hounds, .dumps, .recd, .attn, .sigq, .convq, .flash, .pairs, .emitted]).le F) : (Act.sliceFault p cls code core handle).In F := by
  unfold Act.sliceFault
  repeat' first
    | with_reducible first
      | exact Act.nil_in
      | exact Act.skip_in
      | apply Act.cons_in
      | apply Act.seq_in
      | (apply Act.get_in; intro _)
      | (apply Act.when_in; intro _)
      | apply Act.ite_in
      | (apply Act.each_in; intro _ _)
      | (exact Act.faultInfo_pieces (Foot.sub hL (by decide)))
      | (exact Act.incF_in (Foot.has hL (by decide) _))
      | (exact Act.mbEvent_pieces (Foot.sub hL (by decide)))
      | (exact Act.modParts_in (Foot.has hL (by decide) _))
      | (exact Act.record_pieces (Foot.sub hL (by decide)))
      | (exact Act.resetBody_pieces (Foot.sub hL (by decide)))
    | dsimp only
    | split

theorem Act.engFault_pieces {F : Foot} {p : Nat} {e : Nat} {cls : Nat} {code : Nat} {node : Nat} (hL : (Foot.whole [.regs, .mem, .errs, .lpErr, .chUe, .host, .store, .acc, .anchors, .pend, .ctxs, .arrs, .parts, .health, .leash, .trigs, .log, .recUsed, .recDrop, .engs, .conns, .bars, .hounds, .dumps, .recd, .attn, .sigq, .convq, .flash, .pairs, .emitted]).le F) : (Act.engFault p e cls code node).In F := by
  unfold Act.engFault
  repeat' first
    | with_reducible first
      | exact Act.nil_in
      | exact Act.skip_in
      | apply Act.cons_in
      | apply Act.seq_in
      | (apply Act.get_in; intro _)
      | (apply Act.when_in; intro _)
      | apply Act.ite_in
      | (apply Act.each_in; intro _ _)
      | (exact Act.record_pieces (Foot.sub hL (by decide)))
      | (exact Act.setF_in (Foot.has hL (by decide) _))
      | (exact Act.sliceFault_pieces (Foot.sub hL (by decide)))
    | dsimp only
    | split

theorem Act.sliceResetMgr_pieces {F : Foot} {p : Nat} (hL : (Foot.whole [.regs, .mem, .errs, .lpErr, .chUe, .host, .store, .acc, .anchors, .pend, .ctxs, .arrs, .parts, .health, .leash, .trigs, .log, .recUsed, .recDrop, .engs, .conns, .bars, .hounds, .dumps, .recd, .attn, .sigq, .convq, .flash, .pairs, .emitted]).le F) : (Act.sliceResetMgr p).In F := by
  unfold Act.sliceResetMgr
  repeat' first
    | with_reducible first
      | exact Act.nil_in
      | exact Act.skip_in
      | apply Act.cons_in
      | apply Act.seq_in
      | (apply Act.get_in; intro _)
      | (apply Act.when_in; intro _)
      | apply Act.ite_in
      | (apply Act.each_in; intro _ _)
      | (exact Act.modParts_in (Foot.has hL (by decide) _))
      | (exact Act.resetBody_pieces (Foot.sub hL (by decide)))
    | dsimp only
    | split

theorem Act.finish_pieces {F : Foot} {p : Nat} {l : Launch} {status : Nat} {done : Nat} {fail : Nat} (hL : (Foot.whole [.regs, .mem, .errs, .lpErr, .chUe, .host, .store, .acc, .anchors, .pend, .ctxs, .arrs, .parts, .health, .leash, .trigs, .log, .recUsed, .recDrop, .engs, .conns, .bars, .hounds, .dumps, .recd, .attn, .sigq, .convq, .flash, .pairs, .emitted]).le F) : (Act.finish p l status done fail).In F := by
  unfold Act.finish
  repeat' first
    | with_reducible first
      | exact Act.nil_in
      | exact Act.skip_in
      | apply Act.cons_in
      | apply Act.seq_in
      | (apply Act.get_in; intro _)
      | (apply Act.when_in; intro _)
      | apply Act.ite_in
      | (apply Act.each_in; intro _ _)
      | (refine Act.complete_pieces (Foot.sub hL (by decide)) ?_ <;> intros)
      | (exact Act.sliceFault_pieces (Foot.sub hL (by decide)))
    | dsimp only
    | split

theorem Act.barAbandon_pieces {F : Foot} {p : Nat} (hL : (Foot.whole [.regs, .mem, .errs, .lpErr, .chUe, .host, .store, .acc, .anchors, .pend, .ctxs, .arrs, .parts, .health, .leash, .trigs, .log, .recUsed, .recDrop, .engs, .conns, .bars, .hounds, .dumps, .recd, .attn, .sigq, .convq, .flash, .pairs, .emitted]).le F) : (Act.barAbandon p).In F := by
  unfold Act.barAbandon
  repeat' first
    | with_reducible first
      | exact Act.nil_in
      | exact Act.skip_in
      | apply Act.cons_in
      | apply Act.seq_in
      | (apply Act.get_in; intro _)
      | (apply Act.when_in; intro _)
      | apply Act.ite_in
      | (apply Act.each_in; intro _ _)
      | (exact Act.barDisarm_pieces (Foot.sub hL (by decide)))
      | (exact Act.finish_pieces (Foot.sub hL (by decide)))
    | dsimp only
    | split

theorem Act.dmaFault_pieces {F : Foot} {p : Nat} (hL : (Foot.whole [.regs, .mem, .errs, .lpErr, .chUe, .host, .store, .acc, .anchors, .pend, .ctxs, .arrs, .parts, .health, .leash, .trigs, .log, .recUsed, .recDrop, .engs, .conns, .bars, .hounds, .dumps, .recd, .attn, .sigq, .convq, .flash, .pairs, .emitted]).le F) : (Act.dmaFault p).In F := by
  unfold Act.dmaFault
  repeat' first
    | with_reducible first
      | exact Act.nil_in
      | exact Act.skip_in
      | apply Act.cons_in
      | apply Act.seq_in
      | (apply Act.get_in; intro _)
      | (apply Act.when_in; intro _)
      | apply Act.ite_in
      | (apply Act.each_in; intro _ _)
      | (exact Act.sliceFault_pieces (Foot.sub hL (by decide)))
    | dsimp only
    | split

theorem Act.nrxLost_pieces {F : Foot} {cs : List Nat} (hL : (Foot.whole [.radio]).le F) : (Act.nrxLost cs).In F := by
  unfold Act.nrxLost
  repeat' first
    | with_reducible first
      | exact Act.nil_in
      | exact Act.skip_in
      | apply Act.cons_in
      | apply Act.seq_in
      | (apply Act.get_in; intro _)
      | (apply Act.when_in; intro _)
      | apply Act.ite_in
      | (apply Act.each_in; intro _ _)
      | (exact Act.modRadio_in fun k => Foot.has hL (by decide) k)
    | dsimp only
    | split

theorem Act.coreFault_pieces {F : Foot} {c : Nat} {x : Nat} {code : Nat} {pc : Nat} {extra : List Word} (hL : (Foot.whole [.regs, .mem, .errs, .lpErr, .chUe, .host, .store, .acc, .anchors, .pend, .ctxs, .arrs, .parts, .health, .leash, .trigs, .log, .recUsed, .recDrop, .engs, .conns, .bars, .hounds, .cells, .cjobs, .dsps, .dumps, .recd, .attn, .sigq, .convq, .flash, .pairs, .radio, .free, .emitted]).le F) : (Act.coreFault c x code pc extra).In F := by
  unfold Act.coreFault
  repeat' first
    | with_reducible first
      | exact Act.nil_in
      | exact Act.skip_in
      | apply Act.cons_in
      | apply Act.seq_in
      | (apply Act.get_in; intro _)
      | (apply Act.when_in; intro _)
      | apply Act.ite_in
      | (apply Act.each_in; intro _ _)
      | (exact Act.cellResets_pieces (Foot.sub hL (by decide)))
      | (exact Act.ctxHalt_pieces (Foot.sub hL (by decide)))
      | (exact Act.nrxLost_pieces (Foot.sub hL (by decide)))
      | (exact Act.record_pieces (Foot.sub hL (by decide)))
      | (exact Act.setF_in (Foot.has hL (by decide) _))
      | (exact Act.sliceFault_pieces (Foot.sub hL (by decide)))
    | dsimp only
    | split

theorem Act.fenceWaits_pieces {F : Foot} {c : Nat} (hL : (Foot.whole [.regs, .mem, .errs, .lpErr, .chUe, .host, .store, .acc, .anchors, .pend, .ctxs, .arrs, .parts, .health, .leash, .trigs, .log, .recUsed, .recDrop, .engs, .conns, .bars, .hounds, .cells, .cjobs, .dsps, .dumps, .recd, .attn, .sigq, .convq, .flash, .pairs, .radio, .free, .emitted]).le F) : (Act.fenceWaits c).In F := by
  unfold Act.fenceWaits
  repeat' first
    | with_reducible first
      | exact Act.nil_in
      | exact Act.skip_in
      | apply Act.cons_in
      | apply Act.seq_in
      | (apply Act.get_in; intro _)
      | (apply Act.when_in; intro _)
      | apply Act.ite_in
      | (apply Act.each_in; intro _ _)
      | (exact Act.coreFault_pieces (Foot.sub hL (by decide)))
    | dsimp only
    | split

theorem Act.lastSubst_pieces {F : Foot} {c : Nat} {a : Nat} (hL : (Foot.whole [.regs, .last]).le F) : (Act.lastSubst c a).In F := by
  unfold Act.lastSubst
  repeat' first
    | with_reducible first
      | exact Act.nil_in
      | exact Act.skip_in
      | apply Act.cons_in
      | apply Act.seq_in
      | (apply Act.get_in; intro _)
      | (apply Act.when_in; intro _)
      | apply Act.ite_in
      | (apply Act.each_in; intro _ _)
      | (exact Act.incF_in (Foot.has hL (by decide) _))
      | (exact Act.modLast_in fun k => Foot.has hL (by decide) k)
      | (exact Act.setF_in (Foot.has hL (by decide) _))
    | dsimp only
    | split

theorem Act.arrayFence_pieces {F : Foot} {c : Nat} {a : Nat} {part : Nat} {tile : Nat} (hL : (Foot.whole [.regs, .mem, .errs, .lpErr, .chUe, .host, .store, .acc, .anchors, .pend, .ctxs, .arrs, .parts, .health, .leash, .trigs, .log, .recUsed, .recDrop, .engs, .conns, .bars, .hounds, .cells, .cjobs, .dsps, .dumps, .recd, .attn, .sigq, .convq, .flash, .pairs, .radio, .last, .free, .emitted]).le F) : (Act.arrayFence c a part tile).In F := by
  unfold Act.arrayFence
  repeat' first
    | with_reducible first
      | exact Act.nil_in
      | exact Act.skip_in
      | apply Act.cons_in
      | apply Act.seq_in
      | (apply Act.get_in; intro _)
      | (apply Act.when_in; intro _)
      | apply Act.ite_in
      | (apply Act.each_in; intro _ _)
      | (exact Act.fenceWaits_pieces (Foot.sub hL (by decide)))
      | (exact Act.healthEv_pieces (Foot.sub hL (by decide)))
      | (exact Act.lastSubst_pieces (Foot.sub hL (by decide)))
      | (exact Act.record_pieces (Foot.sub hL (by decide)))
      | (exact Act.setF_in (Foot.has hL (by decide) _))
    | dsimp only
    | split

theorem Act.coreFence_pieces {F : Foot} {c : Nat} {part : Nat} {code : Nat} {pc : Nat} (hL : (Foot.whole [.regs, .mem, .errs, .lpErr, .chUe, .host, .store, .acc, .anchors, .pend, .ctxs, .arrs, .parts, .health, .leash, .trigs, .log, .recUsed, .recDrop, .engs, .conns, .bars, .hounds, .cells, .cjobs, .dsps, .dumps, .recd, .attn, .sigq, .convq, .flash, .pairs, .radio, .last, .free, .emitted]).le F) : (Act.coreFence c part code pc).In F := by
  unfold Act.coreFence
  repeat' first
    | with_reducible first
      | exact Act.nil_in
      | exact Act.skip_in
      | apply Act.cons_in
      | apply Act.seq_in
      | (apply Act.get_in; intro _)
      | (apply Act.when_in; intro _)
      | apply Act.ite_in
      | (apply Act.each_in; intro _ _)
      | (exact Act.fenceWaits_pieces (Foot.sub hL (by decide)))
      | (exact Act.healthFailed_pieces (Foot.sub hL (by decide)))
      | (exact Act.lastSubst_pieces (Foot.sub hL (by decide)))
      | (exact Act.record_pieces (Foot.sub hL (by decide)))
      | (exact Act.retireBit_pieces (Foot.sub hL (by decide)))
      | (exact Act.setF_in (Foot.has hL (by decide) _))
    | dsimp only
    | split

end Sys2Proof.Machine
end

