-- ==== Sys2Proof/Laws/PiecesHoundOps.lean ====
section
/-! SUPPORT. The pieces of state that the operations of Machine/HoundOps.lean can write. -/

set_option linter.unusedSimpArgs false

namespace Sys2Proof.Machine

theorem Act.fabFrame_pieces {F : Foot} {node : Nat} {psn : Nat} {attempt : Nat} {hdr : List Nat} {payload : List Byte} (hL : (Foot.whole [.emitted]).le F) : (Act.fabFrame node psn attempt hdr payload).In F := by
  unfold Act.fabFrame
  repeat' first
    | with_reducible first
      | exact Act.nil_in
      | exact Act.skip_in
      | apply Act.cons_in
      | apply Act.seq_in
      | (apply Act.get_in; intro _)
      | (apply Act.when_in; intro _)
      | apply Act.ite_in
      | (apply Act.each_in; intro _ _)
      | (exact Act.emit_in fun k => Foot.has hL (by decide) k)
    | dsimp only
    | split

theorem Act.houndMismatch_pieces {F : Foot} {h : Nat} {l : HoundRec} {p : HoundRec} (hL : (Foot.whole [.regs, .host, .leash, .trigs, .log, .recUsed, .recDrop, .recd, .attn, .emitted]).le F) : (Act.houndMismatch h l p).In F := by
  unfold Act.houndMismatch
  repeat' first
    | with_reducible first
      | exact Act.nil_in
      | exact Act.skip_in
      | apply Act.cons_in
      | apply Act.seq_in
      | (apply Act.get_in; intro _)
      | (apply Act.when_in; intro _)
      | apply Act.ite_in
      | (apply Act.each_in; intro _ _)
      | (exact Act.attnMgr_pieces (Foot.sub hL (by decide)))
      | (exact Act.incF_in (Foot.has hL (by decide) _))
      | (exact Act.record_pieces (Foot.sub hL (by decide)))
      | (exact Act.setF_in (Foot.has hL (by decide) _))
      | (exact Act.setRegs_in (Foot.has hL (by decide) _))
    | dsimp only
    | split

theorem Act.houndDrop_pieces {F : Foot} {h : Nat} (hL : (Foot.whole [.regs, .hounds]).le F) : (Act.houndDrop h).In F := by
  unfold Act.houndDrop
  repeat' first
    | with_reducible first
      | exact Act.nil_in
      | exact Act.skip_in
      | apply Act.cons_in
      | apply Act.seq_in
      | (apply Act.get_in; intro _)
      | (apply Act.when_in; intro _)
      | apply Act.ite_in
      | (apply Act.each_in; intro _ _)
      | (exact Act.incF_in (Foot.has hL (by decide) _))
      | (exact Act.modHounds_in (Foot.has hL (by decide) _))
    | dsimp only
    | split

theorem Act.houndSend_pieces {F : Foot} {h : Nat} {seq : Nat} {ack : Option Nat} {rs : List HoundRec} (hL : (Foot.whole [.emitted]).le F) : (Act.houndSend h seq ack rs).In F := by
  unfold Act.houndSend
  repeat' first
    | with_reducible first
      | exact Act.nil_in
      | exact Act.skip_in
      | apply Act.cons_in
      | apply Act.seq_in
      | (apply Act.get_in; intro _)
      | (apply Act.when_in; intro _)
      | apply Act.ite_in
      | (apply Act.each_in; intro _ _)
      | (exact Act.fabFrame_pieces (Foot.sub hL (by decide)))
    | dsimp only
    | split

theorem Act.houndTake_pieces {F : Foot} {h : Nat} {loc : Bool} {r : HoundRec} (hL : (Foot.whole [.regs, .host, .leash, .trigs, .log, .recUsed, .recDrop, .hounds, .recd, .attn, .emitted]).le F) : (Act.houndTake h loc r).In F := by
  unfold Act.houndTake
  repeat' first
    | with_reducible first
      | exact Act.nil_in
      | exact Act.skip_in
      | apply Act.cons_in
      | apply Act.seq_in
      | (apply Act.get_in; intro _)
      | (apply Act.when_in; intro _)
      | apply Act.ite_in
      | (apply Act.each_in; intro _ _)
      | (exact Act.houndDrop_pieces (Foot.sub hL (by decide)))
      | (exact Act.houndMismatch_pieces (Foot.sub hL (by decide)))
      | (exact Act.houndSend_pieces (Foot.sub hL (by decide)))
      | (exact Act.incF_in (Foot.has hL (by decide) _))
      | (exact Act.modF_in (Foot.has hL (by decide) _))
      | (exact Act.modHounds_in (Foot.has hL (by decide) _))
    | dsimp only
    | split

theorem Act.houndLocal_pieces {F : Foot} {part : Nat} {r : HoundRec} (hL : (Foot.whole [.regs, .host, .leash, .trigs, .log, .recUsed, .recDrop, .hounds, .recd, .attn, .emitted]).le F) : (Act.houndLocal part r).In F := by
  unfold Act.houndLocal
  repeat' first
    | with_reducible first
      | exact Act.nil_in
      | exact Act.skip_in
      | apply Act.cons_in
      | apply Act.seq_in
      | (apply Act.get_in; intro _)
      | (apply Act.when_in; intro _)
      | apply Act.ite_in
      | (apply Act.each_in; intro _ _)
      | (exact Act.houndTake_pieces (Foot.sub hL (by decide)))
    | dsimp only
    | split

theorem Act.pairFault_pieces {F : Foot} {p : PairRec} {other : Word} (hL : (Foot.whole [.regs, .mem, .errs, .lpErr, .chUe, .host, .store, .acc, .anchors, .pend, .ctxs, .arrs, .parts, .health, .leash, .trigs, .log, .recUsed, .recDrop, .engs, .conns, .bars, .hounds, .dumps, .recd, .attn, .sigq, .convq, .flash, .pairs, .emitted]).le F) : (Act.pairFault p other).In F := by
  unfold Act.pairFault
  repeat' first
    | with_reducible first
      | exact Act.nil_in
      | exact Act.skip_in
      | apply Act.cons_in
      | apply Act.seq_in
      | (apply Act.get_in; intro _)
      | (apply Act.when_in; intro _)
      | apply Act.ite_in
      | (apply Act.each_in; intro _ _)
      | (exact Act.record_pieces (Foot.sub hL (by decide)))
      | (exact Act.sliceFault_pieces (Foot.sub hL (by decide)))
    | dsimp only
    | split

theorem Act.pairTake_pieces {F : Foot} {r : PairRec} (hL : (Foot.whole [.regs, .mem, .errs, .lpErr, .chUe, .host, .store, .acc, .anchors, .pend, .ctxs, .arrs, .parts, .health, .leash, .trigs, .log, .recUsed, .recDrop, .engs, .conns, .bars, .hounds, .dumps, .recd, .attn, .sigq, .convq, .flash, .pairs, .emitted]).le F) : (Act.pairTake r).In F := by
  unfold Act.pairTake
  repeat' first
    | with_reducible first
      | exact Act.nil_in
      | exact Act.skip_in
      | apply Act.cons_in
      | apply Act.seq_in
      | (apply Act.get_in; intro _)
      | (apply Act.when_in; intro _)
      | apply Act.ite_in
      | (apply Act.each_in; intro _ _)
      | (exact Act.modPairs_in fun k => Foot.has hL (by decide) k)
      | (exact Act.pairFault_pieces (Foot.sub hL (by decide)))
    | dsimp only
    | split

end Sys2Proof.Machine
end

