-- ==== Sys2Proof/Laws/PiecesCoreOps.lean ====
section
/-! SUPPORT. The pieces of state that the operations of Machine/CoreOps.lean can write. -/

set_option linter.unusedSimpArgs false

namespace Sys2Proof.Machine

theorem Act.csFix_pieces {F : Foot} {part : Nat} {c : Nat} {off : Nat} {n : Nat} {master : Nat} (hL : (Foot.whole [.regs, .mem, .errs, .lpErr, .store, .acc, .health]).le F) : (Act.csFix part c off n master).In F := by
  unfold Act.csFix
  repeat' first
    | with_reducible first
      | exact Act.nil_in
      | exact Act.skip_in
      | apply Act.cons_in
      | apply Act.seq_in
      | (apply Act.get_in; intro _)
      | (apply Act.when_in; intro _)
      | apply Act.ite_in
      | (apply Act.each_in; intro _ _)
      | (exact Act.lineFix_pieces (Foot.sub hL (by decide)))
    | dsimp only
    | split

theorem Act.csWrite_pieces {F : Foot} {part : Nat} {c : Nat} {off : Nat} {d : List Byte} (hL : (Foot.whole [.regs, .mem, .errs, .lpErr, .chUe, .host, .store, .acc, .health, .leash, .trigs, .log, .recUsed, .recDrop, .recd, .attn, .flash, .emitted]).le F) : (Act.csWrite part c off d).In F := by
  unfold Act.csWrite
  repeat' first
    | with_reducible first
      | exact Act.nil_in
      | exact Act.skip_in
      | apply Act.cons_in
      | apply Act.seq_in
      | (apply Act.get_in; intro _)
      | (apply Act.when_in; intro _)
      | apply Act.ite_in
      | (apply Act.each_in; intro _ _)
      | (exact Act.pmc_pieces (Foot.sub hL (by decide)))
      | (exact Act.violation_pieces (Foot.sub hL (by decide)))
      | (exact Act.writeChunk_pieces (Foot.sub hL (by decide)))
    | dsimp only
    | split

end Sys2Proof.Machine
end

