-- ==== Sys2Proof/Laws/PiecesImage.lean ====
section
/-! SUPPORT. The pieces of state that the operations of Machine/Image.lean can write. -/

set_option linter.unusedSimpArgs false

namespace Sys2Proof.Machine

theorem Act.readRange_pieces {F : Foot} {p : Nat} {w0 : Nat} {w1 : Nat} {k : List Byte → Bool → Act} (hL : (Foot.whole [.regs, .mem, .errs, .lpErr, .chUe, .host, .store, .acc, .health, .leash, .trigs, .log, .recUsed, .recDrop, .recd, .attn, .flash, .emitted]).le F) (hc_k : ∀ y0 y1, (k y0 y1).In F) : (Act.readRange p w0 w1 k).In F := by
  unfold Act.readRange
  repeat' first
    | with_reducible first
      | exact Act.nil_in
      | exact Act.skip_in
      | apply Act.cons_in
      | apply Act.seq_in
      | (apply Act.get_in; intro _)
      | (apply Act.when_in; intro _)
      | apply Act.ite_in
      | (apply Act.each_in; intro _ _)
      | (refine Act.readLines_pieces (Foot.sub hL (by decide)) ?_ <;> intros)
      | (refine Act.readMem_pieces (Foot.sub hL (by decide)) ?_ <;> intros)
      | (exact Act.violation_pieces (Foot.sub hL (by decide)))
      | exact hc_k _ _
    | dsimp only
    | split

theorem Act.readRanges_pieces {F : Foot} {p : Nat} {x0 : List (Nat × Nat)} {x1 : List Byte} {x2 : Bool} {x3 : (List Byte → Bool → Act)} (hL : (Foot.whole [.regs, .mem, .errs, .lpErr, .chUe, .host, .store, .acc, .health, .leash, .trigs, .log, .recUsed, .recDrop, .recd, .attn, .flash, .emitted]).le F) (hc_x3 : ∀ y0 y1, (x3 y0 y1).In F) : (Act.readRanges p x0 x1 x2 x3).In F := by
  induction x0 generalizing x1 x2 with
  | nil => exact hc_x3 _ _
  | cons x r ih =>
    unfold Act.readRanges
    repeat' first
      | with_reducible first
        | exact Act.nil_in
        | exact Act.skip_in
        | apply Act.cons_in
        | apply Act.seq_in
        | (apply Act.get_in; intro _)
        | (apply Act.when_in; intro _)
        | apply Act.ite_in
        | (apply Act.each_in; intro _ _)
        | (refine Act.readRange_pieces (Foot.sub hL (by decide)) ?_ <;> intros)
        | (apply ih)
        | exact hc_x3 _ _
      | dsimp only
      | split

theorem Act.readMarks_pieces {F : Foot} {p : Nat} {x0 : List (Nat × Nat)} {x1 : List MarkSt} {x2 : Bool} {x3 : (List MarkSt → Bool → Act)} (hL : (Foot.whole [.regs, .mem, .errs, .lpErr, .chUe, .host, .store, .acc, .health, .leash, .trigs, .log, .recUsed, .recDrop, .recd, .attn, .flash, .emitted]).le F) (hc_x3 : ∀ y0 y1, (x3 y0 y1).In F) : (Act.readMarks p x0 x1 x2 x3).In F := by
  induction x0 generalizing x1 x2 with
  | nil => exact hc_x3 _ _
  | cons x r ih =>
    unfold Act.readMarks
    repeat' first
      | with_reducible first
        | exact Act.nil_in
        | exact Act.skip_in
        | apply Act.cons_in
        | apply Act.seq_in
        | (apply Act.get_in; intro _)
        | (apply Act.when_in; intro _)
        | apply Act.ite_in
        | (apply Act.each_in; intro _ _)
        | (refine Act.readMem_pieces (Foot.sub hL (by decide)) ?_ <;> intros)
        | (apply ih)
        | exact hc_x3 _ _
      | dsimp only
      | split

theorem Act.checkpoint_pieces {F : Foot} {p : Nat} {l : Launch} {k : Nat → Act} (hL : (Foot.whole [.regs, .mem, .errs, .lpErr, .chUe, .host, .store, .acc, .anchors, .pend, .ctxs, .arrs, .parts, .health, .leash, .trigs, .log, .recUsed, .recDrop, .engs, .conns, .bars, .hounds, .dumps, .recd, .attn, .sigq, .convq, .flash, .pairs, .emitted]).le F) (hc_k : ∀ y0, (k y0).In F) : (Act.checkpoint p l k).In F := by
  unfold Act.checkpoint
  repeat' first
    | with_reducible first
      | exact Act.nil_in
      | exact Act.skip_in
      | apply Act.cons_in
      | apply Act.seq_in
      | (apply Act.get_in; intro _)
      | (apply Act.when_in; intro _)
      | apply Act.ite_in
      | (apply Act.each_in; intro _ _)
      | (exact Act.dmaWrite_pieces (Foot.sub hL (by decide)))
      | (exact Act.modParts_in (Foot.has hL (by decide) _))
      | (refine Act.readMarks_pieces (Foot.sub hL (by decide)) ?_ <;> intros)
      | (refine Act.readRanges_pieces (Foot.sub hL (by decide)) ?_ <;> intros)
      | (exact Act.sliceFault_pieces (Foot.sub hL (by decide)))
      | exact hc_k _
    | dsimp only
    | split

theorem Act.writeRange_pieces {F : Foot} {p : Nat} {im : ImageSt} {r : RangeSt} {k : Bool → Act} (hL : (Foot.whole [.regs, .mem, .errs, .lpErr, .chUe, .host, .store, .acc, .anchors, .health, .leash, .trigs, .log, .recUsed, .recDrop, .recd, .attn, .flash, .emitted]).le F) (hc_k : ∀ y0, (k y0).In F) : (Act.writeRange p im r k).In F := by
  unfold Act.writeRange
  repeat' first
    | with_reducible first
      | exact Act.nil_in
      | exact Act.skip_in
      | apply Act.cons_in
      | apply Act.seq_in
      | (apply Act.get_in; intro _)
      | (apply Act.when_in; intro _)
      | apply Act.ite_in
      | (apply Act.each_in; intro _ _)
      | (exact Act.csWrite_pieces (Foot.sub hL (by decide)))
      | (exact Act.setAnchors_in (Foot.has hL (by decide) _))
      | (exact Act.violation_pieces (Foot.sub hL (by decide)))
      | (exact Act.writeChunk_pieces (Foot.sub hL (by decide)))
      | (refine Act.writeMem_pieces (Foot.sub hL (by decide)) ?_ <;> intros)
      | exact hc_k _
    | dsimp only
    | split

theorem Act.writeRanges_pieces {F : Foot} {p : Nat} {im : ImageSt} {x0 : List RangeSt} {x1 : Bool} {x2 : (Bool → Act)} (hL : (Foot.whole [.regs, .mem, .errs, .lpErr, .chUe, .host, .store, .acc, .anchors, .health, .leash, .trigs, .log, .recUsed, .recDrop, .recd, .attn, .flash, .emitted]).le F) (hc_x2 : ∀ y0, (x2 y0).In F) : (Act.writeRanges p im x0 x1 x2).In F := by
  induction x0 generalizing x1 with
  | nil => exact hc_x2 _
  | cons x r ih =>
    unfold Act.writeRanges
    repeat' first
      | with_reducible first
        | exact Act.nil_in
        | exact Act.skip_in
        | apply Act.cons_in
        | apply Act.seq_in
        | (apply Act.get_in; intro _)
        | (apply Act.when_in; intro _)
        | apply Act.ite_in
        | (apply Act.each_in; intro _ _)
        | (refine Act.writeRange_pieces (Foot.sub hL (by decide)) ?_ <;> intros)
        | (apply ih)
        | exact hc_x2 _
      | dsimp only
      | split

theorem Act.restoreBegin_pieces {F : Foot} {p : Nat} (hL : (Foot.whole [.regs, .anchors, .hounds]).le F) : (Act.restoreBegin p).In F := by
  unfold Act.restoreBegin
  repeat' first
    | with_reducible first
      | exact Act.nil_in
      | exact Act.skip_in
      | apply Act.cons_in
      | apply Act.seq_in
      | (apply Act.get_in; intro _)
      | (apply Act.when_in; intro _)
      | apply Act.ite_in
      | (apply Act.each_in; intro _ _)
      | (exact Act.clearAnchors_in fun k _ _ => Foot.has hL (by decide) k)
      | (exact Act.houndsEnd_pieces (Foot.sub hL (by decide)))
    | dsimp only
    | split

theorem Act.restoreCtxs_pieces {F : Foot} {p : Nat} {im : ImageSt} (hL : (Foot.whole [.regs, .ctxs]).le F) : (Act.restoreCtxs p im).In F := by
  unfold Act.restoreCtxs
  repeat' first
    | with_reducible first
      | exact Act.nil_in
      | exact Act.skip_in
      | apply Act.cons_in
      | apply Act.seq_in
      | (apply Act.get_in; intro _)
      | (apply Act.when_in; intro _)
      | apply Act.ite_in
      | (apply Act.each_in; intro _ _)
      | (exact Act.modCtxs_in (Foot.has hL (by decide) _))
      | (exact Act.modF_in (Foot.has hL (by decide) _))
      | (exact Act.setF_in (Foot.has hL (by decide) _))
    | dsimp only
    | split

end Sys2Proof.Machine
end

