-- ==== Sys2Proof/Laws/PiecesTile.lean ====
section
/-! SUPPORT. The pieces of state that the operations of Machine/Tile.lean can write, and the frames of its commands. -/

set_option linter.unusedSimpArgs false

namespace Sys2Proof.Machine

theorem Act.fetchEntry_pieces {F : Foot} {c : Nat} {x : Nat} {kind : Nat} {k : List Nat → Nat → Act} (hL : (Foot.whole [.regs, .mem, .errs, .lpErr, .chUe, .host, .store, .acc, .anchors, .pend, .ctxs, .arrs, .parts, .health, .leash, .trigs, .log, .recUsed, .recDrop, .engs, .conns, .bars, .hounds, .cells, .cjobs, .dsps, .dumps, .recd, .attn, .sigq, .convq, .flash, .pairs, .radio, .free, .emitted]).le F) (hc_k : ∀ y0 y1, (k y0 y1).In F) : (Act.fetchEntry c x kind k).In F := by
  unfold Act.fetchEntry
  repeat' first
    | with_reducible first
      | exact Act.nil_in
      | exact Act.skip_in
      | apply Act.cons_in
      | apply Act.seq_in
      | (apply Act.get_in; intro _)
      | (apply Act.when_in; intro _)
      | apply Act.ite_in
      | (apply Act.each_in; intro _ _)
      | (exact Act.coreFault_pieces (Foot.sub hL (by decide)))
      | (refine Act.readMem_pieces (Foot.sub hL (by decide)) ?_ <;> intros)
      | exact hc_k _ _
    | dsimp only
    | split

theorem Act.pcNext_pieces {F : Foot} {c : Nat} {x : Nat} (hL : (Foot.whole [.regs]).le F) : (Act.pcNext c x).In F := by
  unfold Act.pcNext
  repeat' first
    | with_reducible first
      | exact Act.nil_in
      | exact Act.skip_in
      | apply Act.cons_in
      | apply Act.seq_in
      | (apply Act.get_in; intro _)
      | (apply Act.when_in; intro _)
      | apply Act.ite_in
      | (apply Act.each_in; intro _ _)
      | (exact Act.modF_in (Foot.has hL (by decide) _))
    | dsimp only
    | split

theorem frame_tileEntry {s : State} (w : s.Wf) {core : Nat} {ctx : Nat} : Framed (.whole [.regs, .mem, .errs, .lpErr, .chUe, .host, .store, .acc, .anchors, .pend, .ctxs, .arrs, .parts, .health, .leash, .trigs, .log, .recUsed, .recDrop, .engs, .conns, .bars, .hounds, .cells, .cjobs, .dsps, .dumps, .recd, .attn, .sigq, .convq, .flash, .pairs, .radio, .free, .emitted]) (.tileEntry core ctx) s := by
  have hL : (Foot.whole [.regs, .mem, .errs, .lpErr, .chUe, .host, .store, .acc, .anchors, .pend, .ctxs, .arrs, .parts, .health, .leash, .trigs, .log, .recUsed, .recDrop, .engs, .conns, .bars, .hounds, .cells, .cjobs, .dsps, .dumps, .recd, .attn, .sigq, .convq, .flash, .pairs, .radio, .free, .emitted]).le (Foot.whole [.regs, .mem, .errs, .lpErr, .chUe, .host, .store, .acc, .anchors, .pend, .ctxs, .arrs, .parts, .health, .leash, .trigs, .log, .recUsed, .recDrop, .engs, .conns, .bars, .hounds, .cells, .cjobs, .dsps, .dumps, .recd, .attn, .sigq, .convq, .flash, .pairs, .radio, .free, .emitted]) := Foot.le_refl
  refine framed_out w (o := execTileEntry core ctx s) rfl ?_
  unfold execTileEntry
  refine ⟨_, rfl, ?_⟩
  repeat' first
    | with_reducible first
      | exact Act.nil_in
      | exact Act.skip_in
      | apply Act.cons_in
      | apply Act.seq_in
      | (apply Act.get_in; intro _)
      | (apply Act.when_in; intro _)
      | apply Act.ite_in
      | (apply Act.each_in; intro _ _)
      | (exact Act.coreFault_pieces (Foot.sub hL (by decide)))
      | (refine Act.fetchEntry_pieces (Foot.sub hL (by decide)) ?_ <;> intros)
      | (exact Act.modCtxs_in (Foot.has hL (by decide) _))
      | (exact Act.pcNext_pieces (Foot.sub hL (by decide)))
    | dsimp only
    | split

theorem frame_vectorBundle {s : State} (w : s.Wf) {core : Nat} {ctx : Nat} : Framed (.whole [.regs, .mem, .errs, .lpErr, .chUe, .host, .store, .acc, .anchors, .pend, .ctxs, .arrs, .parts, .health, .leash, .trigs, .log, .recUsed, .recDrop, .engs, .conns, .bars, .hounds, .cells, .cjobs, .dsps, .dumps, .recd, .attn, .sigq, .convq, .flash, .pairs, .radio, .free, .emitted]) (.vectorBundle core ctx) s := by
  have hL : (Foot.whole [.regs, .mem, .errs, .lpErr, .chUe, .host, .store, .acc, .anchors, .pend, .ctxs, .arrs, .parts, .health, .leash, .trigs, .log, .recUsed, .recDrop, .engs, .conns, .bars, .hounds, .cells, .cjobs, .dsps, .dumps, .recd, .attn, .sigq, .convq, .flash, .pairs, .radio, .free, .emitted]).le (Foot.whole [.regs, .mem, .errs, .lpErr, .chUe, .host, .store, .acc, .anchors, .pend, .ctxs, .arrs, .parts, .health, .leash, .trigs, .log, .recUsed, .recDrop, .engs, .conns, .bars, .hounds, .cells, .cjobs, .dsps, .dumps, .recd, .attn, .sigq, .convq, .flash, .pairs, .radio, .free, .emitted]) := Foot.le_refl
  refine framed_out w (o := execVectorBundle core ctx s) rfl ?_
  unfold execVectorBundle
  refine ⟨_, rfl, ?_⟩
  repeat' first
    | with_reducible first
      | exact Act.nil_in
      | exact Act.skip_in
      | apply Act.cons_in
      | apply Act.seq_in
      | (apply Act.get_in; intro _)
      | (apply Act.when_in; intro _)
      | apply Act.ite_in
      | (apply Act.each_in; intro _ _)
      | (exact Act.coreFault_pieces (Foot.sub hL (by decide)))
      | (refine Act.fetchEntry_pieces (Foot.sub hL (by decide)) ?_ <;> intros)
      | (exact Act.modCtxs_in (Foot.has hL (by decide) _))
      | (exact Act.pcNext_pieces (Foot.sub hL (by decide)))
    | dsimp only
    | split

theorem Act.programDone_pieces {F : Foot} {part : Nat} {c : Nat} {handle : Nat} {status : Nat} (hL : (Foot.whole [.regs, .mem, .errs, .lpErr, .chUe, .host, .store, .acc, .anchors, .pend, .ctxs, .arrs, .parts, .health, .leash, .trigs, .log, .recUsed, .recDrop, .engs, .conns, .bars, .hounds, .dumps, .recd, .attn, .sigq, .convq, .flash, .pairs, .emitted]).le F) : (Act.programDone part c handle status).In F := by
  unfold Act.programDone
  repeat' first
    | with_reducible first
      | exact Act.nil_in
      | exact Act.skip_in
      | apply Act.cons_in
      | apply Act.seq_in
      | (apply Act.get_in; intro _)
      | (apply Act.when_in; intro _)
      | apply Act.ite_in
      | (apply Act.each_in; intro _ _)
      | (exact Act.finish_pieces (Foot.sub hL (by decide)))
      | (exact Act.modParts_in (Foot.has hL (by decide) _))
      | (exact Act.settle_pieces (Foot.sub hL (by decide)))
    | dsimp only
    | split

theorem Act.streamsGo_pieces {F : Foot} {p : Nat} (hL : (Foot.whole [.regs, .ctxs]).le F) : (Act.streamsGo p).In F := by
  unfold Act.streamsGo
  repeat' first
    | with_reducible first
      | exact Act.nil_in
      | exact Act.skip_in
      | apply Act.cons_in
      | apply Act.seq_in
      | (apply Act.get_in; intro _)
      | (apply Act.when_in; intro _)
      | apply Act.ite_in
      | (apply Act.each_in; intro _ _)
      | (exact Act.modCtxs_in (Foot.has hL (by decide) _))
      | (exact Act.modF_in (Foot.has hL (by decide) _))
      | (exact Act.pcNext_pieces (Foot.sub hL (by decide)))
    | dsimp only
    | split

theorem Act.epochCommit_pieces {F : Foot} {p : Nat} (hL : (Foot.whole [.regs, .mem, .errs, .lpErr, .chUe, .host, .store, .acc, .anchors, .pend, .ctxs, .arrs, .parts, .health, .leash, .trigs, .log, .recUsed, .recDrop, .engs, .conns, .bars, .hounds, .dumps, .recd, .attn, .sigq, .convq, .flash, .pairs, .emitted]).le F) : (Act.epochCommit p).In F := by
  unfold Act.epochCommit
  repeat' first
    | with_reducible first
      | exact Act.nil_in
      | exact Act.skip_in
      | apply Act.cons_in
      | apply Act.seq_in
      | (apply Act.get_in; intro _)
      | (apply Act.when_in; intro _)
      | apply Act.ite_in
      | (apply Act.each_in; intro _ _)
      | (exact Act.finish_pieces (Foot.sub hL (by decide)))
      | (exact Act.modParts_in (Foot.has hL (by decide) _))
      | (exact Act.repRetarget_pieces (Foot.sub hL (by decide)))
      | (exact Act.setF_in (Foot.has hL (by decide) _))
      | (exact Act.streamsGo_pieces (Foot.sub hL (by decide)))
    | dsimp only
    | split

theorem Act.epochApply_pieces {F : Foot} {p : Nat} (hL : (Foot.whole [.regs, .mem, .errs, .lpErr, .chUe, .host, .store, .acc, .anchors, .pend, .ctxs, .arrs, .parts, .health, .leash, .trigs, .log, .recUsed, .recDrop, .engs, .conns, .bars, .hounds, .dumps, .recd, .attn, .sigq, .convq, .flash, .pairs, .emitted]).le F) : (Act.epochApply p).In F := by
  unfold Act.epochApply
  repeat' first
    | with_reducible first
      | exact Act.nil_in
      | exact Act.skip_in
      | apply Act.cons_in
      | apply Act.seq_in
      | (apply Act.get_in; intro _)
      | (apply Act.when_in; intro _)
      | apply Act.ite_in
      | (apply Act.each_in; intro _ _)
      | (exact Act.epochCommit_pieces (Foot.sub hL (by decide)))
      | (exact Act.modParts_in (Foot.has hL (by decide) _))
      | (exact Act.repRetarget_pieces (Foot.sub hL (by decide)))
    | dsimp only
    | split

theorem Act.pauseReached_pieces {F : Foot} {p : Nat} (hL : (Foot.whole [.regs, .mem, .errs, .lpErr, .chUe, .host, .store, .acc, .anchors, .pend, .ctxs, .arrs, .parts, .health, .leash, .trigs, .log, .recUsed, .recDrop, .engs, .conns, .bars, .hounds, .dumps, .recd, .attn, .sigq, .convq, .flash, .pairs, .emitted]).le F) : (Act.pauseReached p).In F := by
  unfold Act.pauseReached
  repeat' first
    | with_reducible first
      | exact Act.nil_in
      | exact Act.skip_in
      | apply Act.cons_in
      | apply Act.seq_in
      | (apply Act.get_in; intro _)
      | (apply Act.when_in; intro _)
      | apply Act.ite_in
      | (apply Act.each_in; intro _ _)
      | (refine Act.checkpoint_pieces (Foot.sub hL (by decide)) ?_ <;> intros)
      | (exact Act.finish_pieces (Foot.sub hL (by decide)))
      | (exact Act.mbEvent_pieces (Foot.sub hL (by decide)))
      | (exact Act.modParts_in (Foot.has hL (by decide) _))
      | (exact Act.setF_in (Foot.has hL (by decide) _))
      | (exact Act.settle_pieces (Foot.sub hL (by decide)))
      | (exact Act.streamsGo_pieces (Foot.sub hL (by decide)))
    | dsimp only
    | split

theorem Act.streamsGone_pieces {F : Foot} {p : Nat} (hL : (Foot.whole [.regs, .mem, .errs, .lpErr, .chUe, .host, .store, .acc, .anchors, .pend, .ctxs, .arrs, .parts, .health, .leash, .trigs, .log, .recUsed, .recDrop, .engs, .conns, .bars, .hounds, .dumps, .recd, .attn, .sigq, .convq, .flash, .pairs, .emitted]).le F) : (Act.streamsGone p).In F := by
  unfold Act.streamsGone
  repeat' first
    | with_reducible first
      | exact Act.nil_in
      | exact Act.skip_in
      | apply Act.cons_in
      | apply Act.seq_in
      | (apply Act.get_in; intro _)
      | (apply Act.when_in; intro _)
      | apply Act.ite_in
      | (apply Act.each_in; intro _ _)
      | (exact Act.epochApply_pieces (Foot.sub hL (by decide)))
      | (exact Act.pauseReached_pieces (Foot.sub hL (by decide)))
    | dsimp only
    | split

theorem Act.ctxDone_pieces {F : Foot} {c : Nat} {x : Nat} {status : Nat} (hL : (Foot.whole [.regs, .mem, .errs, .lpErr, .chUe, .host, .store, .acc, .anchors, .pend, .ctxs, .arrs, .parts, .health, .leash, .trigs, .log, .recUsed, .recDrop, .engs, .conns, .bars, .hounds, .dumps, .recd, .attn, .sigq, .convq, .flash, .pairs, .emitted]).le F) : (Act.ctxDone c x status).In F := by
  unfold Act.ctxDone
  repeat' first
    | with_reducible first
      | exact Act.nil_in
      | exact Act.skip_in
      | apply Act.cons_in
      | apply Act.seq_in
      | (apply Act.get_in; intro _)
      | (apply Act.when_in; intro _)
      | apply Act.ite_in
      | (apply Act.each_in; intro _ _)
      | (exact Act.ctxHalt_pieces (Foot.sub hL (by decide)))
      | (exact Act.programDone_pieces (Foot.sub hL (by decide)))
      | (exact Act.streamsGone_pieces (Foot.sub hL (by decide)))
    | dsimp only
    | split

theorem frame_mark {s : State} (w : s.Wf) {core : Nat} {ctx : Nat} : Framed (.whole [.regs, .mem, .errs, .lpErr, .chUe, .host, .store, .acc, .anchors, .pend, .ctxs, .arrs, .parts, .health, .leash, .trigs, .log, .recUsed, .recDrop, .engs, .conns, .bars, .hounds, .cells, .cjobs, .dsps, .dumps, .recd, .attn, .sigq, .convq, .flash, .pairs, .radio, .free, .emitted]) (.mark core ctx) s := by
  have hL : (Foot.whole [.regs, .mem, .errs, .lpErr, .chUe, .host, .store, .acc, .anchors, .pend, .ctxs, .arrs, .parts, .health, .leash, .trigs, .log, .recUsed, .recDrop, .engs, .conns, .bars, .hounds, .cells, .cjobs, .dsps, .dumps, .recd, .attn, .sigq, .convq, .flash, .pairs, .radio, .free, .emitted]).le (Foot.whole [.regs, .mem, .errs, .lpErr, .chUe, .host, .store, .acc, .anchors, .pend, .ctxs, .arrs, .parts, .health, .leash, .trigs, .log, .recUsed, .recDrop, .engs, .conns, .bars, .hounds, .cells, .cjobs, .dsps, .dumps, .recd, .attn, .sigq, .convq, .flash, .pairs, .radio, .free, .emitted]) := Foot.le_refl
  refine framed_out w (o := execMark core ctx s) rfl ?_
  unfold execMark
  refine ⟨_, rfl, ?_⟩
  repeat' first
    | with_reducible first
      | exact Act.nil_in
      | exact Act.skip_in
      | apply Act.cons_in
      | apply Act.seq_in
      | (apply Act.get_in; intro _)
      | (apply Act.when_in; intro _)
      | apply Act.ite_in
      | (apply Act.each_in; intro _ _)
      | (exact Act.ctxDone_pieces (Foot.sub hL (by decide)))
      | (refine Act.fetchEntry_pieces (Foot.sub hL (by decide)) ?_ <;> intros)
      | (exact Act.modCtxs_in (Foot.has hL (by decide) _))
      | (exact Act.modF_in (Foot.has hL (by decide) _))
      | (exact Act.pcNext_pieces (Foot.sub hL (by decide)))
    | dsimp only
    | split

theorem frame_end {s : State} (w : s.Wf) {core : Nat} {ctx : Nat} : Framed (.whole [.regs, .mem, .errs, .lpErr, .chUe, .host, .store, .acc, .anchors, .pend, .ctxs, .arrs, .parts, .health, .leash, .trigs, .log, .recUsed, .recDrop, .engs, .conns, .bars, .hounds, .cells, .cjobs, .dsps, .dumps, .recd, .attn, .sigq, .convq, .flash, .pairs, .radio, .free, .emitted]) (.end_ core ctx) s := by
  have hL : (Foot.whole [.regs, .mem, .errs, .lpErr, .chUe, .host, .store, .acc, .anchors, .pend, .ctxs, .arrs, .parts, .health, .leash, .trigs, .log, .recUsed, .recDrop, .engs, .conns, .bars, .hounds, .cells, .cjobs, .dsps, .dumps, .recd, .attn, .sigq, .convq, .flash, .pairs, .radio, .free, .emitted]).le (Foot.whole [.regs, .mem, .errs, .lpErr, .chUe, .host, .store, .acc, .anchors, .pend, .ctxs, .arrs, .parts, .health, .leash, .trigs, .log, .recUsed, .recDrop, .engs, .conns, .bars, .hounds, .cells, .cjobs, .dsps, .dumps, .recd, .attn, .sigq, .convq, .flash, .pairs, .radio, .free, .emitted]) := Foot.le_refl
  refine framed_out w (o := execEnd_ core ctx s) rfl ?_
  unfold execEnd_
  refine ⟨_, rfl, ?_⟩
  repeat' first
    | with_reducible first
      | exact Act.nil_in
      | exact Act.skip_in
      | apply Act.cons_in
      | apply Act.seq_in
      | (apply Act.get_in; intro _)
      | (apply Act.when_in; intro _)
      | apply Act.ite_in
      | (apply Act.each_in; intro _ _)
      | (exact Act.ctxDone_pieces (Foot.sub hL (by decide)))
      | (refine Act.fetchEntry_pieces (Foot.sub hL (by decide)) ?_ <;> intros)
    | dsimp only
    | split

theorem Act.signal_pieces {F : Foot} {part : Nat} {idx : Nat} {by_ : Requester} {cells : List Nat} {id : Nat} {pc : Nat} (hL : (Foot.whole [.sigq]).le F) : (Act.signal part idx by_ cells id pc).In F := by
  unfold Act.signal
  repeat' first
    | with_reducible first
      | exact Act.nil_in
      | exact Act.skip_in
      | apply Act.cons_in
      | apply Act.seq_in
      | (apply Act.get_in; intro _)
      | (apply Act.when_in; intro _)
      | apply Act.ite_in
      | (apply Act.each_in; intro _ _)
      | (exact Act.modSigq_in fun k => Foot.has hL (by decide) k)
    | dsimp only
    | split

theorem Act.setBankSt_pieces {F : Foot} {c : Nat} {a : Nat} {b : Nat} {v : Nat} (hL : (Foot.whole [.regs]).le F) : (Act.setBankSt c a b v).In F := by
  unfold Act.setBankSt
  repeat' first
    | with_reducible first
      | exact Act.nil_in
      | exact Act.skip_in
      | apply Act.cons_in
      | apply Act.seq_in
      | (apply Act.get_in; intro _)
      | (apply Act.when_in; intro _)
      | apply Act.ite_in
      | (apply Act.each_in; intro _ _)
      | (exact Act.setF_in (Foot.has hL (by decide) _))
    | dsimp only
    | split

theorem Act.inject_pieces {F : Foot} {c : Nat} {a : Nat} {k : Nat} {t : TileRun} (hL : (Foot.whole [.regs, .mem, .errs, .lpErr, .host, .store, .acc, .arrs, .health, .leash, .trigs, .log, .recUsed, .recDrop, .recd, .attn, .emitted]).le F) : (Act.inject c a k t).In F := by
  unfold Act.inject
  repeat' first
    | with_reducible first
      | exact Act.nil_in
      | exact Act.skip_in
      | apply Act.cons_in
      | apply Act.seq_in
      | (apply Act.get_in; intro _)
      | (apply Act.when_in; intro _)
      | apply Act.ite_in
      | (apply Act.each_in; intro _ _)
      | (exact Act.csFix_pieces (Foot.sub hL (by decide)))
      | (exact Act.modArrs_in (Foot.has hL (by decide) _))
      | (exact Act.pmc_pieces (Foot.sub hL (by decide)))
      | (exact Act.setF_in (Foot.has hL (by decide) _))
      | (exact Act.violation_pieces (Foot.sub hL (by decide)))
    | dsimp only
    | split

theorem Act.feedOne_pieces {F : Foot} {c : Nat} {a : Nat} (hL : (Foot.whole [.regs, .mem, .errs, .lpErr, .chUe, .host, .store, .acc, .anchors, .pend, .ctxs, .arrs, .parts, .health, .leash, .trigs, .log, .recUsed, .recDrop, .engs, .conns, .bars, .hounds, .cells, .cjobs, .dsps, .dumps, .recd, .attn, .sigq, .convq, .flash, .pairs, .radio, .free, .emitted]).le F) : (Act.feedOne c a).In F := by
  unfold Act.feedOne
  repeat' first
    | with_reducible first
      | exact Act.nil_in
      | exact Act.skip_in
      | apply Act.cons_in
      | apply Act.seq_in
      | (apply Act.get_in; intro _)
      | (apply Act.when_in; intro _)
      | apply Act.ite_in
      | (apply Act.each_in; intro _ _)
      | (exact Act.coreFault_pieces (Foot.sub hL (by decide)))
      | (exact Act.inject_pieces (Foot.sub hL (by decide)))
    | dsimp only
    | split

theorem Act.feed_pieces {F : Foot} {c : Nat} {a : Nat} (hL : (Foot.whole [.regs, .mem, .errs, .lpErr, .chUe, .host, .store, .acc, .anchors, .pend, .ctxs, .arrs, .parts, .health, .leash, .trigs, .log, .recUsed, .recDrop, .engs, .conns, .bars, .hounds, .cells, .cjobs, .dsps, .dumps, .recd, .attn, .sigq, .convq, .flash, .pairs, .radio, .free, .emitted]).le F) : (Act.feed c a).In F := by
  unfold Act.feed
  repeat' first
    | with_reducible first
      | exact Act.nil_in
      | exact Act.skip_in
      | apply Act.cons_in
      | apply Act.seq_in
      | (apply Act.get_in; intro _)
      | (apply Act.when_in; intro _)
      | apply Act.ite_in
      | (apply Act.each_in; intro _ _)
      | (exact Act.feedOne_pieces (Foot.sub hL (by decide)))
    | dsimp only
    | split

theorem Act.place_pieces {F : Foot} {c : Nat} {x : Nat} {a : Nat} {t : TileRun} {secondHalf : Bool} (hL : (Foot.whole [.regs, .mem, .errs, .lpErr, .chUe, .host, .store, .acc, .anchors, .pend, .ctxs, .arrs, .parts, .health, .leash, .trigs, .log, .recUsed, .recDrop, .engs, .conns, .bars, .hounds, .cells, .cjobs, .dsps, .dumps, .recd, .attn, .sigq, .convq, .flash, .pairs, .radio, .free, .emitted]).le F) : (Act.place c x a t secondHalf).In F := by
  unfold Act.place
  repeat' first
    | with_reducible first
      | exact Act.nil_in
      | exact Act.skip_in
      | apply Act.cons_in
      | apply Act.seq_in
      | (apply Act.get_in; intro _)
      | (apply Act.when_in; intro _)
      | apply Act.ite_in
      | (apply Act.each_in; intro _ _)
      | (exact Act.arrBusy_pieces (Foot.sub hL (by decide)))
      | (exact Act.feed_pieces (Foot.sub hL (by decide)))
      | (exact Act.incF_in (Foot.has hL (by decide) _))
      | (exact Act.modArrs_in (Foot.has hL (by decide) _))
      | (exact Act.pmc_pieces (Foot.sub hL (by decide)))
      | (exact Act.setBankSt_pieces (Foot.sub hL (by decide)))
      | (exact Act.setF_in (Foot.has hL (by decide) _))
    | dsimp only
    | split

theorem Act.ctxWait_pieces {F : Foot} {c : Nat} {x : Nat} {b : Bool} (hL : (Foot.whole [.regs]).le F) : (Act.ctxWait c x b).In F := by
  unfold Act.ctxWait
  repeat' first
    | with_reducible first
      | exact Act.nil_in
      | exact Act.skip_in
      | apply Act.cons_in
      | apply Act.seq_in
      | (apply Act.get_in; intro _)
      | (apply Act.when_in; intro _)
      | apply Act.ite_in
      | (apply Act.each_in; intro _ _)
      | (exact Act.modF_in (Foot.has hL (by decide) _))
    | dsimp only
    | split

theorem Act.admitPlace_pieces {F : Foot} {c : Nat} {x : Nat} {t : TileRun} {choice : List Nat} {widen : Bool} {done : Act} (hL : (Foot.whole [.regs, .mem, .errs, .lpErr, .chUe, .host, .store, .acc, .anchors, .pend, .ctxs, .arrs, .parts, .health, .leash, .trigs, .log, .recUsed, .recDrop, .engs, .conns, .bars, .hounds, .cells, .cjobs, .dsps, .dumps, .recd, .attn, .sigq, .convq, .flash, .pairs, .radio, .last, .free, .emitted]).le F) (hc_done : done.In F) : (Act.admitPlace c x t choice widen done).In F := by
  unfold Act.admitPlace
  repeat' first
    | with_reducible first
      | exact Act.nil_in
      | exact Act.skip_in
      | apply Act.cons_in
      | apply Act.seq_in
      | (apply Act.get_in; intro _)
      | (apply Act.when_in; intro _)
      | apply Act.ite_in
      | (apply Act.each_in; intro _ _)
      | (refine Act.charge_pieces (Foot.sub hL (by decide)) ?_ ?_ <;> intros)
      | (exact Act.incF_in (Foot.has hL (by decide) _))
      | (exact Act.place_pieces (Foot.sub hL (by decide)))
      | (exact Act.pmc_pieces (Foot.sub hL (by decide)))
      | (exact Act.srHold_pieces (Foot.sub hL (by decide)))
      | exact hc_done
    | dsimp only
    | split

theorem frame_tileDispatch {s : State} (w : s.Wf) {core : Nat} {ctx : Nat} : Framed (.whole [.regs, .mem, .errs, .lpErr, .chUe, .host, .store, .acc, .anchors, .pend, .ctxs, .arrs, .parts, .health, .leash, .trigs, .log, .recUsed, .recDrop, .engs, .conns, .bars, .hounds, .cells, .cjobs, .dsps, .dumps, .recd, .attn, .sigq, .convq, .flash, .pairs, .radio, .last, .free, .emitted]) (.tileDispatch core ctx) s := by
  have hL : (Foot.whole [.regs, .mem, .errs, .lpErr, .chUe, .host, .store, .acc, .anchors, .pend, .ctxs, .arrs, .parts, .health, .leash, .trigs, .log, .recUsed, .recDrop, .engs, .conns, .bars, .hounds, .cells, .cjobs, .dsps, .dumps, .recd, .attn, .sigq, .convq, .flash, .pairs, .radio, .last, .free, .emitted]).le (Foot.whole [.regs, .mem, .errs, .lpErr, .chUe, .host, .store, .acc, .anchors, .pend, .ctxs, .arrs, .parts, .health, .leash, .trigs, .log, .recUsed, .recDrop, .engs, .conns, .bars, .hounds, .cells, .cjobs, .dsps, .dumps, .recd, .attn, .sigq, .convq, .flash, .pairs, .radio, .last, .free, .emitted]) := Foot.le_refl
  refine framed_out w (o := execTileDispatch core ctx s) rfl ?_
  unfold execTileDispatch
  refine ⟨_, rfl, ?_⟩
  repeat' first
    | with_reducible first
      | exact Act.nil_in
      | exact Act.skip_in
      | apply Act.cons_in
      | apply Act.seq_in
      | (apply Act.get_in; intro _)
      | (apply Act.when_in; intro _)
      | apply Act.ite_in
      | (apply Act.each_in; intro _ _)
      | (refine Act.admitPlace_pieces (Foot.sub hL (by decide)) ?_ <;> intros)
      | (exact Act.coreFault_pieces (Foot.sub hL (by decide)))
      | (exact Act.ctxWait_pieces (Foot.sub hL (by decide)))
      | (exact Act.modCtxs_in (Foot.has hL (by decide) _))
    | dsimp only
    | split

theorem frame_bankLoad {s : State} (w : s.Wf) {core : Nat} {arr : Nat} : Framed (.whole [.regs, .mem, .errs, .lpErr, .chUe, .host, .store, .acc, .anchors, .pend, .ctxs, .arrs, .parts, .health, .leash, .trigs, .log, .recUsed, .recDrop, .engs, .conns, .bars, .hounds, .cells, .cjobs, .dsps, .dumps, .recd, .attn, .sigq, .convq, .flash, .pairs, .radio, .free, .emitted]) (.bankLoad core arr) s := by
  have hL : (Foot.whole [.regs, .mem, .errs, .lpErr, .chUe, .host, .store, .acc, .anchors, .pend, .ctxs, .arrs, .parts, .health, .leash, .trigs, .log, .recUsed, .recDrop, .engs, .conns, .bars, .hounds, .cells, .cjobs, .dsps, .dumps, .recd, .attn, .sigq, .convq, .flash, .pairs, .radio, .free, .emitted]).le (Foot.whole [.regs, .mem, .errs, .lpErr, .chUe, .host, .store, .acc, .anchors, .pend, .ctxs, .arrs, .parts, .health, .leash, .trigs, .log, .recUsed, .recDrop, .engs, .conns, .bars, .hounds, .cells, .cjobs, .dsps, .dumps, .recd, .attn, .sigq, .convq, .flash, .pairs, .radio, .free, .emitted]) := Foot.le_refl
  refine framed_out w (o := execBankLoad core arr s) rfl ?_
  unfold execBankLoad
  refine ⟨_, rfl, ?_⟩
  repeat' first
    | with_reducible first
      | exact Act.nil_in
      | exact Act.skip_in
      | apply Act.cons_in
      | apply Act.seq_in
      | (apply Act.get_in; intro _)
      | (apply Act.when_in; intro _)
      | apply Act.ite_in
      | (apply Act.each_in; intro _ _)
      | (exact Act.coreFault_pieces (Foot.sub hL (by decide)))
      | (exact Act.csFix_pieces (Foot.sub hL (by decide)))
      | (exact Act.feed_pieces (Foot.sub hL (by decide)))
      | (exact Act.modArrs_in (Foot.has hL (by decide) _))
      | (exact Act.pmc_pieces (Foot.sub hL (by decide)))
      | (exact Act.setBankSt_pieces (Foot.sub hL (by decide)))
      | (exact Act.setF_in (Foot.has hL (by decide) _))
      | (exact Act.violation_pieces (Foot.sub hL (by decide)))
    | dsimp only
    | split

theorem frame_bankLoadComplete {s : State} (w : s.Wf) {core : Nat} {arr : Nat} : Framed (.whole [.regs, .mem, .errs, .lpErr, .chUe, .host, .store, .acc, .anchors, .pend, .ctxs, .arrs, .parts, .health, .leash, .trigs, .log, .recUsed, .recDrop, .engs, .conns, .bars, .hounds, .cells, .cjobs, .dsps, .dumps, .recd, .attn, .sigq, .convq, .flash, .pairs, .radio, .free, .emitted]) (.bankLoadComplete core arr) s := by
  have hL : (Foot.whole [.regs, .mem, .errs, .lpErr, .chUe, .host, .store, .acc, .anchors, .pend, .ctxs, .arrs, .parts, .health, .leash, .trigs, .log, .recUsed, .recDrop, .engs, .conns, .bars, .hounds, .cells, .cjobs, .dsps, .dumps, .recd, .attn, .sigq, .convq, .flash, .pairs, .radio, .free, .emitted]).le (Foot.whole [.regs, .mem, .errs, .lpErr, .chUe, .host, .store, .acc, .anchors, .pend, .ctxs, .arrs, .parts, .health, .leash, .trigs, .log, .recUsed, .recDrop, .engs, .conns, .bars, .hounds, .cells, .cjobs, .dsps, .dumps, .recd, .attn, .sigq, .convq, .flash, .pairs, .radio, .free, .emitted]) := Foot.le_refl
  refine framed_out w (o := execBankLoadComplete core arr s) rfl ?_
  unfold execBankLoadComplete
  refine ⟨_, rfl, ?_⟩
  repeat' first
    | with_reducible first
      | exact Act.nil_in
      | exact Act.skip_in
      | apply Act.cons_in
      | apply Act.seq_in
      | (apply Act.get_in; intro _)
      | (apply Act.when_in; intro _)
      | apply Act.ite_in
      | (apply Act.each_in; intro _ _)
      | (exact Act.feed_pieces (Foot.sub hL (by decide)))
      | (exact Act.setBankSt_pieces (Foot.sub hL (by decide)))
      | (exact Act.setF_in (Foot.has hL (by decide) _))
    | dsimp only
    | split

theorem Act.discard_pieces {F : Foot} {c : Nat} {a : Nat} {cause : TileRun} (hL : (Foot.whole [.regs, .ctxs, .arrs]).le F) : (Act.discard c a cause).In F := by
  unfold Act.discard
  repeat' first
    | with_reducible first
      | exact Act.nil_in
      | exact Act.skip_in
      | apply Act.cons_in
      | apply Act.seq_in
      | (apply Act.get_in; intro _)
      | (apply Act.when_in; intro _)
      | apply Act.ite_in
      | (apply Act.each_in; intro _ _)
      | (exact Act.arrClear_pieces (Foot.sub hL (by decide)))
      | (exact Act.modCtxs_in (Foot.has hL (by decide) _))
    | dsimp only
    | split

theorem Act.statusWrite_pieces {F : Foot} {c : Nat} {x : Nat} {j : StatJob} (hL : (Foot.whole [.regs, .mem, .errs, .lpErr, .chUe, .host, .store, .acc, .health, .leash, .trigs, .log, .recUsed, .recDrop, .recd, .attn, .sigq, .flash, .emitted]).le F) : (Act.statusWrite c x j).In F := by
  unfold Act.statusWrite
  repeat' first
    | with_reducible first
      | exact Act.nil_in
      | exact Act.skip_in
      | apply Act.cons_in
      | apply Act.seq_in
      | (apply Act.get_in; intro _)
      | (apply Act.when_in; intro _)
      | apply Act.ite_in
      | (apply Act.each_in; intro _ _)
      | (exact Act.csWrite_pieces (Foot.sub hL (by decide)))
      | (exact Act.signal_pieces (Foot.sub hL (by decide)))
    | dsimp only
    | split

theorem Act.tileStatus_pieces {F : Foot} {c : Nat} {x : Nat} {j : StatJob} (hL : (Foot.whole [.regs, .mem, .errs, .lpErr, .chUe, .host, .store, .acc, .ctxs, .health, .leash, .trigs, .log, .recUsed, .recDrop, .recd, .attn, .sigq, .flash, .emitted]).le F) : (Act.tileStatus c x j).In F := by
  unfold Act.tileStatus
  repeat' first
    | with_reducible first
      | exact Act.nil_in
      | exact Act.skip_in
      | apply Act.cons_in
      | apply Act.seq_in
      | (apply Act.get_in; intro _)
      | (apply Act.when_in; intro _)
      | apply Act.ite_in
      | (apply Act.each_in; intro _ _)
      | (exact Act.modCtxs_in (Foot.has hL (by decide) _))
      | (exact Act.statusWrite_pieces (Foot.sub hL (by decide)))
    | dsimp only
    | split

theorem Act.statFlush_pieces {F : Foot} {c : Nat} {x : Nat} (hL : (Foot.whole [.regs, .mem, .errs, .lpErr, .chUe, .host, .store, .acc, .ctxs, .health, .leash, .trigs, .log, .recUsed, .recDrop, .recd, .attn, .sigq, .flash, .emitted]).le F) : (Act.statFlush c x).In F := by
  unfold Act.statFlush
  repeat' first
    | with_reducible first
      | exact Act.nil_in
      | exact Act.skip_in
      | apply Act.cons_in
      | apply Act.seq_in
      | (apply Act.get_in; intro _)
      | (apply Act.when_in; intro _)
      | apply Act.ite_in
      | (apply Act.each_in; intro _ _)
      | (exact Act.modCtxs_in (Foot.has hL (by decide) _))
      | (exact Act.statusWrite_pieces (Foot.sub hL (by decide)))
    | dsimp only
    | split

theorem Act.writeBack_pieces {F : Foot} {c : Nat} {w : List Nat} {words : List Int} {anchor : Int} (hL : (Foot.whole [.errs, .acc, .anchors]).le F) : (Act.writeBack c w words anchor).In F := by
  unfold Act.writeBack
  repeat' first
    | with_reducible first
      | exact Act.nil_in
      | exact Act.skip_in
      | apply Act.cons_in
      | apply Act.seq_in
      | (apply Act.get_in; intro _)
      | (apply Act.when_in; intro _)
      | apply Act.ite_in
      | (apply Act.each_in; intro _ _)
      | (exact Act.modAcc_in (Foot.has hL (by decide) _))
      | (exact Act.setAnchors_in (Foot.has hL (by decide) _))
      | (exact Act.setErrs_in (Foot.has hL (by decide) _))
    | dsimp only
    | split

theorem Act.sample_pieces {F : Foot} {c : Nat} {a : Nat} {t : TileRun} (hL : (Foot.whole [.regs, .samp, .free]).le F) : (Act.sample c a t).In F := by
  unfold Act.sample
  repeat' first
    | with_reducible first
      | exact Act.nil_in
      | exact Act.skip_in
      | apply Act.cons_in
      | apply Act.seq_in
      | (apply Act.get_in; intro _)
      | (apply Act.when_in; intro _)
      | apply Act.ite_in
      | (apply Act.each_in; intro _ _)
      | (exact Act.incF_in (Foot.has hL (by decide) _))
      | (exact Act.modF_in (Foot.has hL (by decide) _))
      | (exact Act.modSamp_in (Foot.has hL (by decide) _))
      | (exact Act.setF_in (Foot.has hL (by decide) _))
      | (exact Act.setRegs_in (Foot.has hL (by decide) _))
      | (exact Act.setSamp_in (Foot.has hL (by decide) _))
      | (refine Act.withFree_in ?_ (fun k => Foot.has hL (by decide) k); intro _)
    | dsimp only
    | split

theorem Act.commit_pieces {F : Foot} {c : Nat} {a : Nat} {t : TileRun} {o : TileOut} {wr : WeltRes} {hit : Bool} {resoled : Bool} (hL : (Foot.whole [.regs, .mem, .errs, .lpErr, .chUe, .host, .store, .acc, .anchors, .pend, .ctxs, .arrs, .parts, .health, .leash, .trigs, .log, .recUsed, .recDrop, .engs, .conns, .bars, .hounds, .samp, .cells, .cjobs, .dsps, .dumps, .recd, .attn, .sigq, .convq, .flash, .pairs, .radio, .free, .emitted]).le F) : (Act.commit c a t o wr hit resoled).In F := by
  unfold Act.commit
  repeat' first
    | with_reducible first
      | exact Act.nil_in
      | exact Act.skip_in
      | apply Act.cons_in
      | apply Act.seq_in
      | (apply Act.get_in; intro _)
      | (apply Act.when_in; intro _)
      | apply Act.ite_in
      | (apply Act.each_in; intro _ _)
      | (exact Act.arrBusy_pieces (Foot.sub hL (by decide)))
      | (exact Act.coreFault_pieces (Foot.sub hL (by decide)))
      | (exact Act.healthEv_pieces (Foot.sub hL (by decide)))
      | (exact Act.houndLocal_pieces (Foot.sub hL (by decide)))
      | (exact Act.incF_in (Foot.has hL (by decide) _))
      | (exact Act.lineFix_pieces (Foot.sub hL (by decide)))
      | (exact Act.modArrs_in (Foot.has hL (by decide) _))
      | (exact Act.modConvq_in fun k => Foot.has hL (by decide) k)
      | (exact Act.pairTake_pieces (Foot.sub hL (by decide)))
      | (exact Act.pmc_pieces (Foot.sub hL (by decide)))
      | (exact Act.rerunOver_pieces (Foot.sub hL (by decide)))
      | (exact Act.sample_pieces (Foot.sub hL (by decide)))
      | (exact Act.setF_in (Foot.has hL (by decide) _))
      | (exact Act.tileStatus_pieces (Foot.sub hL (by decide)))
      | (exact Act.writeBack_pieces (Foot.sub hL (by decide)))
    | dsimp only
    | split

theorem Act.nextPass_pieces {F : Foot} {c : Nat} {a : Nat} {t : TileRun} {p : PassSt} (hL : (Foot.whole [.regs, .ctxs, .arrs]).le F) : (Act.nextPass c a t p).In F := by
  unfold Act.nextPass
  repeat' first
    | with_reducible first
      | exact Act.nil_in
      | exact Act.skip_in
      | apply Act.cons_in
      | apply Act.seq_in
      | (apply Act.get_in; intro _)
      | (apply Act.when_in; intro _)
      | apply Act.ite_in
      | (apply Act.each_in; intro _ _)
      | (exact Act.arrBusy_pieces (Foot.sub hL (by decide)))
      | (exact Act.modArrs_in (Foot.has hL (by decide) _))
      | (exact Act.modCtxs_in (Foot.has hL (by decide) _))
    | dsimp only
    | split

theorem Act.runPassed_pieces {F : Foot} {c : Nat} {a : Nat} {t : TileRun} {sums : List Int} {clamps : Nat} {wr : WeltRes} (hL : (Foot.whole [.regs, .mem, .errs, .lpErr, .chUe, .host, .store, .acc, .anchors, .pend, .ctxs, .arrs, .parts, .health, .leash, .trigs, .log, .recUsed, .recDrop, .engs, .conns, .bars, .hounds, .samp, .cells, .cjobs, .dsps, .dumps, .recd, .attn, .sigq, .convq, .flash, .pairs, .radio, .free, .emitted]).le F) : (Act.runPassed c a t sums clamps wr).In F := by
  unfold Act.runPassed
  repeat' first
    | with_reducible first
      | exact Act.nil_in
      | exact Act.skip_in
      | apply Act.cons_in
      | apply Act.seq_in
      | (apply Act.get_in; intro _)
      | (apply Act.when_in; intro _)
      | apply Act.ite_in
      | (apply Act.each_in; intro _ _)
      | (exact Act.commit_pieces (Foot.sub hL (by decide)))
      | (exact Act.coreFault_pieces (Foot.sub hL (by decide)))
      | (exact Act.nextPass_pieces (Foot.sub hL (by decide)))
      | (exact Act.pmc_pieces (Foot.sub hL (by decide)))
    | dsimp only
    | split

theorem Act.runMismatch_pieces {F : Foot} {c : Nat} {a : Nat} {t : TileRun} {wr : WeltRes} (hL : (Foot.whole [.regs, .mem, .errs, .lpErr, .chUe, .host, .store, .acc, .anchors, .pend, .ctxs, .arrs, .parts, .health, .leash, .trigs, .log, .recUsed, .recDrop, .engs, .conns, .bars, .hounds, .cells, .cjobs, .dsps, .dumps, .recd, .attn, .sigq, .convq, .flash, .pairs, .radio, .last, .free, .emitted]).le F) : (Act.runMismatch c a t wr).In F := by
  unfold Act.runMismatch
  repeat' first
    | with_reducible first
      | exact Act.nil_in
      | exact Act.skip_in
      | apply Act.cons_in
      | apply Act.seq_in
      | (apply Act.get_in; intro _)
      | (apply Act.when_in; intro _)
      | apply Act.ite_in
      | (apply Act.each_in; intro _ _)
      | (exact Act.arrClear_pieces (Foot.sub hL (by decide)))
      | (exact Act.arrayFence_pieces (Foot.sub hL (by decide)))
      | (exact Act.coreFault_pieces (Foot.sub hL (by decide)))
      | (exact Act.discard_pieces (Foot.sub hL (by decide)))
      | (exact Act.incF_in (Foot.has hL (by decide) _))
      | (exact Act.record_pieces (Foot.sub hL (by decide)))
      | (exact Act.setRegs_in (Foot.has hL (by decide) _))
    | dsimp only
    | split

theorem frame_weltVerdict {s : State} (w : s.Wf) {core : Nat} {arr : Nat} {faults : List CellFault} {residue : Bool} : Framed (.whole [.regs, .mem, .errs, .lpErr, .chUe, .host, .store, .acc, .anchors, .pend, .ctxs, .arrs, .parts, .health, .leash, .trigs, .log, .recUsed, .recDrop, .engs, .conns, .bars, .hounds, .samp, .cells, .cjobs, .dsps, .dumps, .recd, .attn, .sigq, .convq, .flash, .pairs, .radio, .last, .free, .emitted]) (.weltVerdict core arr faults residue) s := by
  have hL : (Foot.whole [.regs, .mem, .errs, .lpErr, .chUe, .host, .store, .acc, .anchors, .pend, .ctxs, .arrs, .parts, .health, .leash, .trigs, .log, .recUsed, .recDrop, .engs, .conns, .bars, .hounds, .samp, .cells, .cjobs, .dsps, .dumps, .recd, .attn, .sigq, .convq, .flash, .pairs, .radio, .last, .free, .emitted]).le (Foot.whole [.regs, .mem, .errs, .lpErr, .chUe, .host, .store, .acc, .anchors, .pend, .ctxs, .arrs, .parts, .health, .leash, .trigs, .log, .recUsed, .recDrop, .engs, .conns, .bars, .hounds, .samp, .cells, .cjobs, .dsps, .dumps, .recd, .attn, .sigq, .convq, .flash, .pairs, .radio, .last, .free, .emitted]) := Foot.le_refl
  refine framed_out w (o := execWeltVerdict core arr faults residue s) rfl ?_
  unfold execWeltVerdict
  refine ⟨_, rfl, ?_⟩
  repeat' first
    | with_reducible first
      | exact Act.nil_in
      | exact Act.skip_in
      | apply Act.cons_in
      | apply Act.seq_in
      | (apply Act.get_in; intro _)
      | (apply Act.when_in; intro _)
      | apply Act.ite_in
      | (apply Act.each_in; intro _ _)
      | (exact Act.runMismatch_pieces (Foot.sub hL (by decide)))
      | (exact Act.runPassed_pieces (Foot.sub hL (by decide)))
    | dsimp only
    | split

theorem Act.popRedo_pieces {F : Foot} {c : Nat} {x : Nat} (hL : (Foot.whole [.ctxs]).le F) : (Act.popRedo c x).In F := by
  unfold Act.popRedo
  repeat' first
    | with_reducible first
      | exact Act.nil_in
      | exact Act.skip_in
      | apply Act.cons_in
      | apply Act.seq_in
      | (apply Act.get_in; intro _)
      | (apply Act.when_in; intro _)
      | apply Act.ite_in
      | (apply Act.each_in; intro _ _)
      | (exact Act.modCtxs_in (Foot.has hL (by decide) _))
    | dsimp only
    | split

theorem Act.rerunClose_pieces {F : Foot} {c : Nat} {a : Nat} (hL : (Foot.whole [.regs, .arrs]).le F) : (Act.rerunClose c a).In F := by
  unfold Act.rerunClose
  repeat' first
    | with_reducible first
      | exact Act.nil_in
      | exact Act.skip_in
      | apply Act.cons_in
      | apply Act.seq_in
      | (apply Act.get_in; intro _)
      | (apply Act.when_in; intro _)
      | apply Act.ite_in
      | (apply Act.each_in; intro _ _)
      | (exact Act.incF_in (Foot.has hL (by decide) _))
      | (exact Act.modArrs_in (Foot.has hL (by decide) _))
    | dsimp only
    | split

theorem frame_weltRerun {s : State} (w : s.Wf) {core : Nat} {arr : Nat} : Framed (.whole [.regs, .mem, .errs, .lpErr, .chUe, .host, .store, .acc, .anchors, .pend, .ctxs, .arrs, .parts, .health, .leash, .trigs, .log, .recUsed, .recDrop, .engs, .conns, .bars, .hounds, .cells, .cjobs, .dsps, .dumps, .recd, .attn, .sigq, .convq, .flash, .pairs, .radio, .last, .free, .emitted]) (.weltRerun core arr) s := by
  have hL : (Foot.whole [.regs, .mem, .errs, .lpErr, .chUe, .host, .store, .acc, .anchors, .pend, .ctxs, .arrs, .parts, .health, .leash, .trigs, .log, .recUsed, .recDrop, .engs, .conns, .bars, .hounds, .cells, .cjobs, .dsps, .dumps, .recd, .attn, .sigq, .convq, .flash, .pairs, .radio, .last, .free, .emitted]).le (Foot.whole [.regs, .mem, .errs, .lpErr, .chUe, .host, .store, .acc, .anchors, .pend, .ctxs, .arrs, .parts, .health, .leash, .trigs, .log, .recUsed, .recDrop, .engs, .conns, .bars, .hounds, .cells, .cjobs, .dsps, .dumps, .recd, .attn, .sigq, .convq, .flash, .pairs, .radio, .last, .free, .emitted]) := Foot.le_refl
  refine framed_out w (o := execWeltRerun core arr s) rfl ?_
  unfold execWeltRerun
  refine ⟨_, rfl, ?_⟩
  repeat' first
    | with_reducible first
      | exact Act.nil_in
      | exact Act.skip_in
      | apply Act.cons_in
      | apply Act.seq_in
      | (apply Act.get_in; intro _)
      | (apply Act.when_in; intro _)
      | apply Act.ite_in
      | (apply Act.each_in; intro _ _)
      | (refine Act.charge_pieces (Foot.sub hL (by decide)) ?_ ?_ <;> intros)
      | (exact Act.place_pieces (Foot.sub hL (by decide)))
      | (exact Act.pmc_pieces (Foot.sub hL (by decide)))
      | (exact Act.popRedo_pieces (Foot.sub hL (by decide)))
      | (exact Act.rerunClose_pieces (Foot.sub hL (by decide)))
      | (exact Act.srHold_pieces (Foot.sub hL (by decide)))
      | (exact Act.srRerun_pieces (Foot.sub hL (by decide)))
    | dsimp only
    | split

theorem frame_resolePass {s : State} (w : s.Wf) {core : Nat} {arr : Nat} : Framed (.whole [.regs, .mem, .errs, .lpErr, .chUe, .host, .store, .acc, .anchors, .pend, .ctxs, .arrs, .parts, .health, .leash, .trigs, .log, .recUsed, .recDrop, .engs, .conns, .bars, .hounds, .cells, .cjobs, .dsps, .dumps, .recd, .attn, .sigq, .convq, .flash, .pairs, .radio, .last, .free, .emitted]) (.resolePass core arr) s := by
  have hL : (Foot.whole [.regs, .mem, .errs, .lpErr, .chUe, .host, .store, .acc, .anchors, .pend, .ctxs, .arrs, .parts, .health, .leash, .trigs, .log, .recUsed, .recDrop, .engs, .conns, .bars, .hounds, .cells, .cjobs, .dsps, .dumps, .recd, .attn, .sigq, .convq, .flash, .pairs, .radio, .last, .free, .emitted]).le (Foot.whole [.regs, .mem, .errs, .lpErr, .chUe, .host, .store, .acc, .anchors, .pend, .ctxs, .arrs, .parts, .health, .leash, .trigs, .log, .recUsed, .recDrop, .engs, .conns, .bars, .hounds, .cells, .cjobs, .dsps, .dumps, .recd, .attn, .sigq, .convq, .flash, .pairs, .radio, .last, .free, .emitted]) := Foot.le_refl
  refine framed_out w (o := execResolePass core arr s) rfl ?_
  unfold execResolePass
  refine ⟨_, rfl, ?_⟩
  repeat' first
    | with_reducible first
      | exact Act.nil_in
      | exact Act.skip_in
      | apply Act.cons_in
      | apply Act.seq_in
      | (apply Act.get_in; intro _)
      | (apply Act.when_in; intro _)
      | apply Act.ite_in
      | (apply Act.each_in; intro _ _)
      | (refine Act.charge_pieces (Foot.sub hL (by decide)) ?_ ?_ <;> intros)
      | (exact Act.place_pieces (Foot.sub hL (by decide)))
      | (exact Act.popRedo_pieces (Foot.sub hL (by decide)))
      | (exact Act.srHold_pieces (Foot.sub hL (by decide)))
    | dsimp only
    | split

theorem frame_tileReplay {s : State} (w : s.Wf) {core : Nat} {ctx : Nat} : Framed (.whole [.regs, .mem, .errs, .lpErr, .chUe, .host, .store, .acc, .anchors, .pend, .ctxs, .arrs, .parts, .health, .leash, .trigs, .log, .recUsed, .recDrop, .engs, .conns, .bars, .hounds, .cells, .cjobs, .dsps, .dumps, .recd, .attn, .sigq, .convq, .flash, .pairs, .radio, .last, .free, .emitted]) (.tileReplay core ctx) s := by
  have hL : (Foot.whole [.regs, .mem, .errs, .lpErr, .chUe, .host, .store, .acc, .anchors, .pend, .ctxs, .arrs, .parts, .health, .leash, .trigs, .log, .recUsed, .recDrop, .engs, .conns, .bars, .hounds, .cells, .cjobs, .dsps, .dumps, .recd, .attn, .sigq, .convq, .flash, .pairs, .radio, .last, .free, .emitted]).le (Foot.whole [.regs, .mem, .errs, .lpErr, .chUe, .host, .store, .acc, .anchors, .pend, .ctxs, .arrs, .parts, .health, .leash, .trigs, .log, .recUsed, .recDrop, .engs, .conns, .bars, .hounds, .cells, .cjobs, .dsps, .dumps, .recd, .attn, .sigq, .convq, .flash, .pairs, .radio, .last, .free, .emitted]) := Foot.le_refl
  refine framed_out w (o := execTileReplay core ctx s) rfl ?_
  unfold execTileReplay
  refine ⟨_, rfl, ?_⟩
  repeat' first
    | with_reducible first
      | exact Act.nil_in
      | exact Act.skip_in
      | apply Act.cons_in
      | apply Act.seq_in
      | (apply Act.get_in; intro _)
      | (apply Act.when_in; intro _)
      | apply Act.ite_in
      | (apply Act.each_in; intro _ _)
      | (refine Act.admitPlace_pieces (Foot.sub hL (by decide)) ?_ <;> intros)
      | (exact Act.coreFault_pieces (Foot.sub hL (by decide)))
      | (exact Act.popRedo_pieces (Foot.sub hL (by decide)))
    | dsimp only
    | split

theorem frame_overrunAbort {s : State} (w : s.Wf) {core : Nat} {arr : Nat} : Framed (.whole [.regs, .host, .ctxs, .arrs, .parts, .leash, .trigs, .log, .recUsed, .recDrop, .recd, .attn, .emitted]) (.overrunAbort core arr) s := by
  have hL : (Foot.whole [.regs, .host, .ctxs, .arrs, .parts, .leash, .trigs, .log, .recUsed, .recDrop, .recd, .attn, .emitted]).le (Foot.whole [.regs, .host, .ctxs, .arrs, .parts, .leash, .trigs, .log, .recUsed, .recDrop, .recd, .attn, .emitted]) := Foot.le_refl
  refine framed_out w (o := execOverrunAbort core arr s) rfl ?_
  unfold execOverrunAbort
  refine ⟨_, rfl, ?_⟩
  repeat' first
    | with_reducible first
      | exact Act.nil_in
      | exact Act.skip_in
      | apply Act.cons_in
      | apply Act.seq_in
      | (apply Act.get_in; intro _)
      | (apply Act.when_in; intro _)
      | apply Act.ite_in
      | (apply Act.each_in; intro _ _)
      | (exact Act.discard_pieces (Foot.sub hL (by decide)))
      | (exact Act.incF_in (Foot.has hL (by decide) _))
      | (exact Act.pmc_pieces (Foot.sub hL (by decide)))
      | (exact Act.record_pieces (Foot.sub hL (by decide)))
      | (exact Act.srOverrun_pieces (Foot.sub hL (by decide)))
    | dsimp only
    | split

theorem Act.vServed_pieces {F : Foot} {c : Nat} {x : Nat} (hL : (Foot.whole [.vecTurn]).le F) : (Act.vServed c x).In F := by
  unfold Act.vServed
  repeat' first
    | with_reducible first
      | exact Act.nil_in
      | exact Act.skip_in
      | apply Act.cons_in
      | apply Act.seq_in
      | (apply Act.get_in; intro _)
      | (apply Act.when_in; intro _)
      | apply Act.ite_in
      | (apply Act.each_in; intro _ _)
      | (exact Act.setVecTurn_in (Foot.has hL (by decide) _))
    | dsimp only
    | split

theorem frame_conversion {s : State} (w : s.Wf) {core : Nat} : Framed (.whole [.regs, .mem, .errs, .lpErr, .chUe, .host, .store, .acc, .anchors, .pend, .ctxs, .arrs, .parts, .vecTurn, .health, .leash, .trigs, .log, .recUsed, .recDrop, .engs, .conns, .bars, .hounds, .cells, .cjobs, .dsps, .dumps, .recd, .attn, .sigq, .convq, .flash, .pairs, .radio, .free, .emitted]) (.conversion core) s := by
  have hL : (Foot.whole [.regs, .mem, .errs, .lpErr, .chUe, .host, .store, .acc, .anchors, .pend, .ctxs, .arrs, .parts, .vecTurn, .health, .leash, .trigs, .log, .recUsed, .recDrop, .engs, .conns, .bars, .hounds, .cells, .cjobs, .dsps, .dumps, .recd, .attn, .sigq, .convq, .flash, .pairs, .radio, .free, .emitted]).le (Foot.whole [.regs, .mem, .errs, .lpErr, .chUe, .host, .store, .acc, .anchors, .pend, .ctxs, .arrs, .parts, .vecTurn, .health, .leash, .trigs, .log, .recUsed, .recDrop, .engs, .conns, .bars, .hounds, .cells, .cjobs, .dsps, .dumps, .recd, .attn, .sigq, .convq, .flash, .pairs, .radio, .free, .emitted]) := Foot.le_refl
  refine framed_out w (o := execConversion core s) rfl ?_
  unfold execConversion
  refine ⟨_, rfl, ?_⟩
  repeat' first
    | with_reducible first
      | exact Act.nil_in
      | exact Act.skip_in
      | apply Act.cons_in
      | apply Act.seq_in
      | (apply Act.get_in; intro _)
      | (apply Act.when_in; intro _)
      | apply Act.ite_in
      | (apply Act.each_in; intro _ _)
      | (exact Act.coreFault_pieces (Foot.sub hL (by decide)))
      | (exact Act.csWrite_pieces (Foot.sub hL (by decide)))
      | (exact Act.lineFix_pieces (Foot.sub hL (by decide)))
      | (exact Act.modConvq_in fun k => Foot.has hL (by decide) k)
      | (exact Act.pmc_pieces (Foot.sub hL (by decide)))
      | (exact Act.tileStatus_pieces (Foot.sub hL (by decide)))
      | (exact Act.vServed_pieces (Foot.sub hL (by decide)))
    | dsimp only
    | split

theorem frame_moveDataArrival {s : State} (w : s.Wf) {core : Nat} {ctx : Nat} : Framed (.whole [.regs, .mem, .errs, .lpErr, .chUe, .host, .store, .acc, .anchors, .pend, .ctxs, .arrs, .parts, .health, .leash, .trigs, .log, .recUsed, .recDrop, .engs, .conns, .bars, .hounds, .cells, .cjobs, .dsps, .dumps, .recd, .attn, .sigq, .convq, .flash, .pairs, .radio, .free, .emitted]) (.moveDataArrival core ctx) s := by
  have hL : (Foot.whole [.regs, .mem, .errs, .lpErr, .chUe, .host, .store, .acc, .anchors, .pend, .ctxs, .arrs, .parts, .health, .leash, .trigs, .log, .recUsed, .recDrop, .engs, .conns, .bars, .hounds, .cells, .cjobs, .dsps, .dumps, .recd, .attn, .sigq, .convq, .flash, .pairs, .radio, .free, .emitted]).le (Foot.whole [.regs, .mem, .errs, .lpErr, .chUe, .host, .store, .acc, .anchors, .pend, .ctxs, .arrs, .parts, .health, .leash, .trigs, .log, .recUsed, .recDrop, .engs, .conns, .bars, .hounds, .cells, .cjobs, .dsps, .dumps, .recd, .attn, .sigq, .convq, .flash, .pairs, .radio, .free, .emitted]) := Foot.le_refl
  refine framed_out w (o := execMoveDataArrival core ctx s) rfl ?_
  unfold execMoveDataArrival
  refine ⟨_, rfl, ?_⟩
  repeat' first
    | with_reducible first
      | exact Act.nil_in
      | exact Act.skip_in
      | apply Act.cons_in
      | apply Act.seq_in
      | (apply Act.get_in; intro _)
      | (apply Act.when_in; intro _)
      | apply Act.ite_in
      | (apply Act.each_in; intro _ _)
      | (exact Act.coreFault_pieces (Foot.sub hL (by decide)))
      | (exact Act.csFix_pieces (Foot.sub hL (by decide)))
      | (exact Act.csWrite_pieces (Foot.sub hL (by decide)))
      | (exact Act.feed_pieces (Foot.sub hL (by decide)))
      | (exact Act.modCtxs_in (Foot.has hL (by decide) _))
      | (exact Act.pmc_pieces (Foot.sub hL (by decide)))
      | (refine Act.readMem_pieces (Foot.sub hL (by decide)) ?_ <;> intros)
      | (exact Act.setPend_in (Foot.has hL (by decide) _))
      | (exact Act.statFlush_pieces (Foot.sub hL (by decide)))
      | (exact Act.violation_pieces (Foot.sub hL (by decide)))
      | (refine Act.writeMem_pieces (Foot.sub hL (by decide)) ?_ <;> intros)
    | dsimp only
    | split

theorem Act.signalFault_pieces {F : Foot} {j : SigJob} (hL : (Foot.whole [.regs, .mem, .errs, .lpErr, .chUe, .host, .store, .acc, .anchors, .pend, .ctxs, .arrs, .parts, .health, .leash, .trigs, .log, .recUsed, .recDrop, .engs, .conns, .bars, .hounds, .cells, .cjobs, .dsps, .dumps, .recd, .attn, .sigq, .convq, .flash, .held, .pairs, .radio, .free, .emitted]).le F) : (Act.signalFault j).In F := by
  unfold Act.signalFault
  repeat' first
    | with_reducible first
      | exact Act.nil_in
      | exact Act.skip_in
      | apply Act.cons_in
      | apply Act.seq_in
      | (apply Act.get_in; intro _)
      | (apply Act.when_in; intro _)
      | apply Act.ite_in
      | (apply Act.each_in; intro _ _)
      | (exact Act.cellResets_pieces (Foot.sub hL (by decide)))
      | (exact Act.coreFault_pieces (Foot.sub hL (by decide)))
      | (exact Act.dspFaultOf_pieces (Foot.sub hL (by decide)))
      | (exact Act.engFault_pieces (Foot.sub hL (by decide)))
    | dsimp only
    | split

theorem frame_syncSignal {s : State} (w : s.Wf) {part : Nat} {idx : Nat} : Framed (.whole [.regs, .mem, .errs, .lpErr, .chUe, .host, .store, .acc, .anchors, .pend, .ctxs, .arrs, .parts, .health, .leash, .trigs, .log, .recUsed, .recDrop, .engs, .conns, .bars, .hounds, .cells, .cjobs, .dsps, .dumps, .recd, .attn, .sigq, .convq, .flash, .held, .pairs, .radio, .free, .emitted]) (.syncSignal part idx) s := by
  have hL : (Foot.whole [.regs, .mem, .errs, .lpErr, .chUe, .host, .store, .acc, .anchors, .pend, .ctxs, .arrs, .parts, .health, .leash, .trigs, .log, .recUsed, .recDrop, .engs, .conns, .bars, .hounds, .cells, .cjobs, .dsps, .dumps, .recd, .attn, .sigq, .convq, .flash, .held, .pairs, .radio, .free, .emitted]).le (Foot.whole [.regs, .mem, .errs, .lpErr, .chUe, .host, .store, .acc, .anchors, .pend, .ctxs, .arrs, .parts, .health, .leash, .trigs, .log, .recUsed, .recDrop, .engs, .conns, .bars, .hounds, .cells, .cjobs, .dsps, .dumps, .recd, .attn, .sigq, .convq, .flash, .held, .pairs, .radio, .free, .emitted]) := Foot.le_refl
  refine framed_out w (o := execSyncSignal part idx s) rfl ?_
  unfold execSyncSignal
  refine ⟨_, rfl, ?_⟩
  repeat' first
    | with_reducible first
      | exact Act.nil_in
      | exact Act.skip_in
      | apply Act.cons_in
      | apply Act.seq_in
      | (apply Act.get_in; intro _)
      | (apply Act.when_in; intro _)
      | apply Act.ite_in
      | (apply Act.each_in; intro _ _)
      | (refine Act.atomicAt_pieces (Foot.sub hL (by decide)) ?_ <;> intros)
      | (exact Act.modSigq_in fun k => Foot.has hL (by decide) k)
      | (exact Act.signal_pieces (Foot.sub hL (by decide)))
      | (exact Act.signalFault_pieces (Foot.sub hL (by decide)))
    | dsimp only
    | split

theorem frame_syncWaitTimeout {s : State} (w : s.Wf) {core : Nat} {ctx : Nat} : Framed (.whole [.regs, .mem, .errs, .lpErr, .chUe, .host, .store, .acc, .anchors, .pend, .ctxs, .arrs, .parts, .health, .leash, .trigs, .log, .recUsed, .recDrop, .engs, .conns, .bars, .hounds, .cells, .cjobs, .dsps, .dumps, .recd, .attn, .sigq, .convq, .flash, .pairs, .radio, .free, .emitted]) (.syncWaitTimeout core ctx) s := by
  have hL : (Foot.whole [.regs, .mem, .errs, .lpErr, .chUe, .host, .store, .acc, .anchors, .pend, .ctxs, .arrs, .parts, .health, .leash, .trigs, .log, .recUsed, .recDrop, .engs, .conns, .bars, .hounds, .cells, .cjobs, .dsps, .dumps, .recd, .attn, .sigq, .convq, .flash, .pairs, .radio, .free, .emitted]).le (Foot.whole [.regs, .mem, .errs, .lpErr, .chUe, .host, .store, .acc, .anchors, .pend, .ctxs, .arrs, .parts, .health, .leash, .trigs, .log, .recUsed, .recDrop, .engs, .conns, .bars, .hounds, .cells, .cjobs, .dsps, .dumps, .recd, .attn, .sigq, .convq, .flash, .pairs, .radio, .free, .emitted]) := Foot.le_refl
  refine framed_out w (o := execSyncWaitTimeout core ctx s) rfl ?_
  unfold execSyncWaitTimeout
  refine ⟨_, rfl, ?_⟩
  repeat' first
    | with_reducible first
      | exact Act.nil_in
      | exact Act.skip_in
      | apply Act.cons_in
      | apply Act.seq_in
      | (apply Act.get_in; intro _)
      | (apply Act.when_in; intro _)
      | apply Act.ite_in
      | (apply Act.each_in; intro _ _)
      | (exact Act.coreFault_pieces (Foot.sub hL (by decide)))
    | dsimp only
    | split

theorem frame_controlParityError {s : State} (w : s.Wf) {core : Nat} : Framed (.whole [.regs, .mem, .errs, .lpErr, .chUe, .host, .store, .acc, .anchors, .pend, .ctxs, .arrs, .parts, .health, .leash, .trigs, .log, .recUsed, .recDrop, .engs, .conns, .bars, .hounds, .cells, .cjobs, .dsps, .dumps, .recd, .attn, .sigq, .convq, .flash, .pairs, .radio, .last, .free, .emitted]) (.controlParityError core) s := by
  have hL : (Foot.whole [.regs, .mem, .errs, .lpErr, .chUe, .host, .store, .acc, .anchors, .pend, .ctxs, .arrs, .parts, .health, .leash, .trigs, .log, .recUsed, .recDrop, .engs, .conns, .bars, .hounds, .cells, .cjobs, .dsps, .dumps, .recd, .attn, .sigq, .convq, .flash, .pairs, .radio, .last, .free, .emitted]).le (Foot.whole [.regs, .mem, .errs, .lpErr, .chUe, .host, .store, .acc, .anchors, .pend, .ctxs, .arrs, .parts, .health, .leash, .trigs, .log, .recUsed, .recDrop, .engs, .conns, .bars, .hounds, .cells, .cjobs, .dsps, .dumps, .recd, .attn, .sigq, .convq, .flash, .pairs, .radio, .last, .free, .emitted]) := Foot.le_refl
  refine framed_out w (o := execControlParityError core s) rfl ?_
  unfold execControlParityError
  refine ⟨_, rfl, ?_⟩
  repeat' first
    | with_reducible first
      | exact Act.nil_in
      | exact Act.skip_in
      | apply Act.cons_in
      | apply Act.seq_in
      | (apply Act.get_in; intro _)
      | (apply Act.when_in; intro _)
      | apply Act.ite_in
      | (apply Act.each_in; intro _ _)
      | (exact Act.arrClear_pieces (Foot.sub hL (by decide)))
      | (exact Act.coreFault_pieces (Foot.sub hL (by decide)))
      | (exact Act.coreFence_pieces (Foot.sub hL (by decide)))
    | dsimp only
    | split

end Sys2Proof.Machine
end

