-- ==== Sys2Proof/Laws/PiecesTime.lean ====
section
/-! SUPPORT. The pieces of state that the operations of Machine/Time.lean can write, and the frames of its commands. -/

set_option linter.unusedSimpArgs false

namespace Sys2Proof.Machine

theorem Act.setRate_pieces {F : Foot} {r : Int} (hL : (Foot.whole [.regs, .time]).le F) : (Act.setRate r).In F := by
  unfold Act.setRate
  repeat' first
    | with_reducible first
      | exact Act.nil_in
      | exact Act.skip_in
      | apply Act.cons_in
      | apply Act.seq_in
      | (apply Act.get_in; intro _)
      | (apply Act.when_in; intro _)
      | apply Act.ite_in
      | (apply Act.each_in; intro _ _)
      | (exact Act.modTime_in fun k => Foot.has hL (by decide) k)
      | (exact Act.setF_in (Foot.has hL (by decide) _))
    | dsimp only
    | split

theorem Act.timeClass_pieces {F : Foot} (hL : (Foot.whole [.regs]).le F) : (Act.timeClass).In F := by
  unfold Act.timeClass
  repeat' first
    | with_reducible first
      | exact Act.nil_in
      | exact Act.skip_in
      | apply Act.cons_in
      | apply Act.seq_in
      | (apply Act.get_in; intro _)
      | (apply Act.when_in; intro _)
      | apply Act.ite_in
      | (apply Act.each_in; intro _ _)
      | (exact Act.setF_in (Foot.has hL (by decide) _))
    | dsimp only
    | split

theorem Act.qlUpdate_pieces {F : Foot} (hL : (Foot.whole [.regs, .time]).le F) : (Act.qlUpdate).In F := by
  unfold Act.qlUpdate
  repeat' first
    | with_reducible first
      | exact Act.nil_in
      | exact Act.skip_in
      | apply Act.cons_in
      | apply Act.seq_in
      | (apply Act.get_in; intro _)
      | (apply Act.when_in; intro _)
      | apply Act.ite_in
      | (apply Act.each_in; intro _ _)
      | (exact Act.modTime_in fun k => Foot.has hL (by decide) k)
      | (exact Act.setF_in (Foot.has hL (by decide) _))
    | dsimp only
    | split

theorem Act.timeEnter_pieces {F : Foot} {st : Nat} (hL : (Foot.whole [.regs, .time]).le F) : (Act.timeEnter st).In F := by
  unfold Act.timeEnter
  repeat' first
    | with_reducible first
      | exact Act.nil_in
      | exact Act.skip_in
      | apply Act.cons_in
      | apply Act.seq_in
      | (apply Act.get_in; intro _)
      | (apply Act.when_in; intro _)
      | apply Act.ite_in
      | (apply Act.each_in; intro _ _)
      | (exact Act.qlUpdate_pieces (Foot.sub hL (by decide)))
      | (exact Act.setF_in (Foot.has hL (by decide) _))
      | (exact Act.timeClass_pieces (Foot.sub hL (by decide)))
    | dsimp only
    | split

theorem Act.timeRestart_pieces {F : Foot} (hL : (Foot.whole [.time]).le F) : (Act.timeRestart).In F := by
  unfold Act.timeRestart
  repeat' first
    | with_reducible first
      | exact Act.nil_in
      | exact Act.skip_in
      | apply Act.cons_in
      | apply Act.seq_in
      | (apply Act.get_in; intro _)
      | (apply Act.when_in; intro _)
      | apply Act.ite_in
      | (apply Act.each_in; intro _ _)
      | (exact Act.modTime_in fun k => Foot.has hL (by decide) k)
    | dsimp only
    | split

theorem Act.timeQualified_pieces {F : Foot} (hL : (Foot.whole [.regs, .time]).le F) : (Act.timeQualified).In F := by
  unfold Act.timeQualified
  repeat' first
    | with_reducible first
      | exact Act.nil_in
      | exact Act.skip_in
      | apply Act.cons_in
      | apply Act.seq_in
      | (apply Act.get_in; intro _)
      | (apply Act.when_in; intro _)
      | apply Act.ite_in
      | (apply Act.each_in; intro _ _)
      | (exact Act.setF_in (Foot.has hL (by decide) _))
      | (exact Act.timeEnter_pieces (Foot.sub hL (by decide)))
      | (exact Act.timeRestart_pieces (Foot.sub hL (by decide)))
    | dsimp only
    | split

theorem Act.timeFollow_pieces {F : Foot} (hL : (Foot.whole [.regs, .time]).le F) : (Act.timeFollow).In F := by
  unfold Act.timeFollow
  repeat' first
    | with_reducible first
      | exact Act.nil_in
      | exact Act.skip_in
      | apply Act.cons_in
      | apply Act.seq_in
      | (apply Act.get_in; intro _)
      | (apply Act.when_in; intro _)
      | apply Act.ite_in
      | (apply Act.each_in; intro _ _)
      | (exact Act.timeQualified_pieces (Foot.sub hL (by decide)))
    | dsimp only
    | split

theorem Act.timeRecord_pieces {F : Foot} {code : Nat} (hL : (Foot.whole [.regs, .host, .leash, .trigs, .log, .recUsed, .recDrop, .recd, .attn, .emitted]).le F) : (Act.timeRecord code).In F := by
  unfold Act.timeRecord
  repeat' first
    | with_reducible first
      | exact Act.nil_in
      | exact Act.skip_in
      | apply Act.cons_in
      | apply Act.seq_in
      | (apply Act.get_in; intro _)
      | (apply Act.when_in; intro _)
      | apply Act.ite_in
      | (apply Act.each_in; intro _ _)
      | (exact Act.record_pieces (Foot.sub hL (by decide)))
    | dsimp only
    | split

theorem Act.holdoverEntry_pieces {F : Foot} (hL : (Foot.whole [.regs, .host, .leash, .trigs, .log, .recUsed, .recDrop, .recd, .attn, .time, .emitted]).le F) : (Act.holdoverEntry).In F := by
  unfold Act.holdoverEntry
  repeat' first
    | with_reducible first
      | exact Act.nil_in
      | exact Act.skip_in
      | apply Act.cons_in
      | apply Act.seq_in
      | (apply Act.get_in; intro _)
      | (apply Act.when_in; intro _)
      | apply Act.ite_in
      | (apply Act.each_in; intro _ _)
      | (exact Act.incF_in (Foot.has hL (by decide) _))
      | (exact Act.modTime_in fun k => Foot.has hL (by decide) k)
      | (exact Act.setRate_pieces (Foot.sub hL (by decide)))
      | (exact Act.timeEnter_pieces (Foot.sub hL (by decide)))
      | (exact Act.timeRecord_pieces (Foot.sub hL (by decide)))
    | dsimp only
    | split

theorem Act.timeLoss_pieces {F : Foot} (hL : (Foot.whole [.regs, .host, .leash, .trigs, .log, .recUsed, .recDrop, .recd, .attn, .time, .emitted]).le F) : (Act.timeLoss).In F := by
  unfold Act.timeLoss
  repeat' first
    | with_reducible first
      | exact Act.nil_in
      | exact Act.skip_in
      | apply Act.cons_in
      | apply Act.seq_in
      | (apply Act.get_in; intro _)
      | (apply Act.when_in; intro _)
      | apply Act.ite_in
      | (apply Act.each_in; intro _ _)
      | (exact Act.holdoverEntry_pieces (Foot.sub hL (by decide)))
      | (exact Act.modTime_in fun k => Foot.has hL (by decide) k)
      | (exact Act.setF_in (Foot.has hL (by decide) _))
      | (exact Act.timeEnter_pieces (Foot.sub hL (by decide)))
      | (exact Act.timeRestart_pieces (Foot.sub hL (by decide)))
    | dsimp only
    | split

theorem Act.servoOffset_pieces {F : Foot} {o : Int} {fr2 : Nat} (hL : (Foot.whole [.time]).le F) : (Act.servoOffset o fr2).In F := by
  unfold Act.servoOffset
  repeat' first
    | with_reducible first
      | exact Act.nil_in
      | exact Act.skip_in
      | apply Act.cons_in
      | apply Act.seq_in
      | (apply Act.get_in; intro _)
      | (apply Act.when_in; intro _)
      | apply Act.ite_in
      | (apply Act.each_in; intro _ _)
      | (exact Act.modTime_in fun k => Foot.has hL (by decide) k)
    | dsimp only
    | split

theorem Act.servoApply_pieces {F : Foot} {o : Int} {t2 : Int} {fr2 : Nat} {dt : Int} {within : Bool} {first : Bool} (hL : (Foot.whole [.regs, .time]).le F) : (Act.servoApply o t2 fr2 dt within first).In F := by
  unfold Act.servoApply
  repeat' first
    | with_reducible first
      | exact Act.nil_in
      | exact Act.skip_in
      | apply Act.cons_in
      | apply Act.seq_in
      | (apply Act.get_in; intro _)
      | (apply Act.when_in; intro _)
      | apply Act.ite_in
      | (apply Act.each_in; intro _ _)
      | (exact Act.modF_in (Foot.has hL (by decide) _))
      | (exact Act.modTime_in fun k => Foot.has hL (by decide) k)
      | (exact Act.servoOffset_pieces (Foot.sub hL (by decide)))
      | (exact Act.setF_in (Foot.has hL (by decide) _))
      | (exact Act.setRate_pieces (Foot.sub hL (by decide)))
      | (exact Act.timeEnter_pieces (Foot.sub hL (by decide)))
    | dsimp only
    | split

theorem Act.sampleAccept_pieces {F : Foot} {o : Int} {t2 : Int} {fr2 : Nat} {dt : Int} {within : Bool} {first : Bool} (hL : (Foot.whole [.regs, .time]).le F) : (Act.sampleAccept o t2 fr2 dt within first).In F := by
  unfold Act.sampleAccept
  repeat' first
    | with_reducible first
      | exact Act.nil_in
      | exact Act.skip_in
      | apply Act.cons_in
      | apply Act.seq_in
      | (apply Act.get_in; intro _)
      | (apply Act.when_in; intro _)
      | apply Act.ite_in
      | (apply Act.each_in; intro _ _)
      | (exact Act.modTime_in fun k => Foot.has hL (by decide) k)
      | (exact Act.servoApply_pieces (Foot.sub hL (by decide)))
      | (exact Act.setF_in (Foot.has hL (by decide) _))
    | dsimp only
    | split

theorem Act.sampleReject_pieces {F : Foot} {rej : List Int} (hL : (Foot.whole [.regs, .time]).le F) : (Act.sampleReject rej).In F := by
  unfold Act.sampleReject
  repeat' first
    | with_reducible first
      | exact Act.nil_in
      | exact Act.skip_in
      | apply Act.cons_in
      | apply Act.seq_in
      | (apply Act.get_in; intro _)
      | (apply Act.when_in; intro _)
      | apply Act.ite_in
      | (apply Act.each_in; intro _ _)
      | (exact Act.incF_in (Foot.has hL (by decide) _))
      | (exact Act.modTime_in fun k => Foot.has hL (by decide) k)
    | dsimp only
    | split

theorem Act.timeSample_pieces {F : Foot} {d : Int} {o : Int} {t2 : Int} {fr2 : Nat} (hL : (Foot.whole [.regs, .time]).le F) : (Act.timeSample d o t2 fr2).In F := by
  unfold Act.timeSample
  repeat' first
    | with_reducible first
      | exact Act.nil_in
      | exact Act.skip_in
      | apply Act.cons_in
      | apply Act.seq_in
      | (apply Act.get_in; intro _)
      | (apply Act.when_in; intro _)
      | apply Act.ite_in
      | (apply Act.each_in; intro _ _)
      | (exact Act.incF_in (Foot.has hL (by decide) _))
      | (exact Act.modTime_in fun k => Foot.has hL (by decide) k)
      | (exact Act.sampleAccept_pieces (Foot.sub hL (by decide)))
      | (exact Act.sampleReject_pieces (Foot.sub hL (by decide)))
      | (exact Act.timeFollow_pieces (Foot.sub hL (by decide)))
    | dsimp only
    | split

theorem Act.forSlave_pieces {F : Foot} {m : PtpMsg} {count : Field} {k : Act} (hL : (Foot.whole [.regs]).le F) (hc_k : k.In F) : (Act.forSlave m count k).In F := by
  unfold Act.forSlave
  repeat' first
    | with_reducible first
      | exact Act.nil_in
      | exact Act.skip_in
      | apply Act.cons_in
      | apply Act.seq_in
      | (apply Act.get_in; intro _)
      | (apply Act.when_in; intro _)
      | apply Act.ite_in
      | (apply Act.each_in; intro _ _)
      | (exact Act.incF_in (Foot.has hL (by decide) _))
      | exact hc_k
    | dsimp only
    | split

theorem Act.setMasters_pieces {F : Foot} {l : List MasterSt} (hL : (Foot.whole [.regs, .time]).le F) : (Act.setMasters l).In F := by
  unfold Act.setMasters
  repeat' first
    | with_reducible first
      | exact Act.nil_in
      | exact Act.skip_in
      | apply Act.cons_in
      | apply Act.seq_in
      | (apply Act.get_in; intro _)
      | (apply Act.when_in; intro _)
      | apply Act.ite_in
      | (apply Act.each_in; intro _ _)
      | (exact Act.modTime_in fun k => Foot.has hL (by decide) k)
      | (exact Act.timeClass_pieces (Foot.sub hL (by decide)))
    | dsimp only
    | split

theorem frame_announce {s : State} (w : s.Wf) {m : PtpMsg} : Framed (.whole [.regs, .time]) (.announce m) s := by
  have hL : (Foot.whole [.regs, .time]).le (Foot.whole [.regs, .time]) := Foot.le_refl
  refine framed_out w (o := execAnnounce m s) rfl ?_
  unfold execAnnounce
  refine ⟨_, rfl, ?_⟩
  repeat' first
    | with_reducible first
      | exact Act.nil_in
      | exact Act.skip_in
      | apply Act.cons_in
      | apply Act.seq_in
      | (apply Act.get_in; intro _)
      | (apply Act.when_in; intro _)
      | apply Act.ite_in
      | (apply Act.each_in; intro _ _)
      | (refine Act.forSlave_pieces (Foot.sub hL (by decide)) ?_ <;> intros)
      | (exact Act.incF_in (Foot.has hL (by decide) _))
      | (exact Act.setMasters_pieces (Foot.sub hL (by decide)))
      | (exact Act.timeQualified_pieces (Foot.sub hL (by decide)))
    | dsimp only
    | split

theorem frame_sync {s : State} (w : s.Wf) {m : PtpMsg} : Framed (.whole [.regs, .time]) (.sync m) s := by
  have hL : (Foot.whole [.regs, .time]).le (Foot.whole [.regs, .time]) := Foot.le_refl
  refine framed_out w (o := execSync m s) rfl ?_
  unfold execSync
  refine ⟨_, rfl, ?_⟩
  repeat' first
    | with_reducible first
      | exact Act.nil_in
      | exact Act.skip_in
      | apply Act.cons_in
      | apply Act.seq_in
      | (apply Act.get_in; intro _)
      | (apply Act.when_in; intro _)
      | apply Act.ite_in
      | (apply Act.each_in; intro _ _)
      | (refine Act.forSlave_pieces (Foot.sub hL (by decide)) ?_ <;> intros)
      | (exact Act.incF_in (Foot.has hL (by decide) _))
      | (exact Act.modTime_in fun k => Foot.has hL (by decide) k)
    | dsimp only
    | split

theorem frame_followUp {s : State} (w : s.Wf) {m : PtpMsg} : Framed (.whole [.regs, .time]) (.followUp m) s := by
  have hL : (Foot.whole [.regs, .time]).le (Foot.whole [.regs, .time]) := Foot.le_refl
  refine framed_out w (o := execFollowUp m s) rfl ?_
  unfold execFollowUp
  refine ⟨_, rfl, ?_⟩
  repeat' first
    | with_reducible first
      | exact Act.nil_in
      | exact Act.skip_in
      | apply Act.cons_in
      | apply Act.seq_in
      | (apply Act.get_in; intro _)
      | (apply Act.when_in; intro _)
      | apply Act.ite_in
      | (apply Act.each_in; intro _ _)
      | (refine Act.forSlave_pieces (Foot.sub hL (by decide)) ?_ <;> intros)
      | (exact Act.incF_in (Foot.has hL (by decide) _))
      | (exact Act.modTime_in fun k => Foot.has hL (by decide) k)
    | dsimp only
    | split

theorem Act.ptpSend_pieces {F : Foot} {port : Nat} {msg : Nat} {vals : List Nat} (hL : (Foot.whole [.emitted]).le F) : (Act.ptpSend port msg vals).In F := by
  unfold Act.ptpSend
  repeat' first
    | with_reducible first
      | exact Act.nil_in
      | exact Act.skip_in
      | apply Act.cons_in
      | apply Act.seq_in
      | (apply Act.get_in; intro _)
      | (apply Act.when_in; intro _)
      | apply Act.ite_in
      | (apply Act.each_in; intro _ _)
      | (exact Act.emit_in fun k => Foot.has hL (by decide) k)
    | dsimp only
    | split

theorem frame_delayReq {s : State} (w : s.Wf) {stamp : Int} {frStamp : Bool} : Framed (.whole [.time, .emitted]) (.delayReq stamp frStamp) s := by
  have hL : (Foot.whole [.time, .emitted]).le (Foot.whole [.time, .emitted]) := Foot.le_refl
  refine framed_out w (o := execDelayReq stamp frStamp s) rfl ?_
  unfold execDelayReq
  refine ⟨_, rfl, ?_⟩
  repeat' first
    | with_reducible first
      | exact Act.nil_in
      | exact Act.skip_in
      | apply Act.cons_in
      | apply Act.seq_in
      | (apply Act.get_in; intro _)
      | (apply Act.when_in; intro _)
      | apply Act.ite_in
      | (apply Act.each_in; intro _ _)
      | (exact Act.modTime_in fun k => Foot.has hL (by decide) k)
      | (exact Act.ptpSend_pieces (Foot.sub hL (by decide)))
    | dsimp only
    | split

theorem frame_delayResp {s : State} (w : s.Wf) {m : PtpMsg} : Framed (.whole [.regs, .time]) (.delayResp m) s := by
  have hL : (Foot.whole [.regs, .time]).le (Foot.whole [.regs, .time]) := Foot.le_refl
  refine framed_out w (o := execDelayResp m s) rfl ?_
  unfold execDelayResp
  refine ⟨_, rfl, ?_⟩
  repeat' first
    | with_reducible first
      | exact Act.nil_in
      | exact Act.skip_in
      | apply Act.cons_in
      | apply Act.seq_in
      | (apply Act.get_in; intro _)
      | (apply Act.when_in; intro _)
      | apply Act.ite_in
      | (apply Act.each_in; intro _ _)
      | (refine Act.forSlave_pieces (Foot.sub hL (by decide)) ?_ <;> intros)
      | (exact Act.incF_in (Foot.has hL (by decide) _))
      | (exact Act.modTime_in fun k => Foot.has hL (by decide) k)
      | (exact Act.timeSample_pieces (Foot.sub hL (by decide)))
    | dsimp only
    | split

theorem frame_masterDelayReq {s : State} (w : s.Wf) {m : PtpMsg} : Framed (.whole [.regs, .emitted]) (.masterDelayReq m) s := by
  have hL : (Foot.whole [.regs, .emitted]).le (Foot.whole [.regs, .emitted]) := Foot.le_refl
  refine framed_out w (o := execMasterDelayReq m s) rfl ?_
  unfold execMasterDelayReq
  refine ⟨_, rfl, ?_⟩
  repeat' first
    | with_reducible first
      | exact Act.nil_in
      | exact Act.skip_in
      | apply Act.cons_in
      | apply Act.seq_in
      | (apply Act.get_in; intro _)
      | (apply Act.when_in; intro _)
      | apply Act.ite_in
      | (apply Act.each_in; intro _ _)
      | (exact Act.incF_in (Foot.has hL (by decide) _))
      | (exact Act.ptpSend_pieces (Foot.sub hL (by decide)))
    | dsimp only
    | split

theorem frame_masterSyncTx {s : State} (w : s.Wf) {port : Nat} : Framed (.whole [.emitted]) (.masterSyncTx port) s := by
  have hL : (Foot.whole [.emitted]).le (Foot.whole [.emitted]) := Foot.le_refl
  refine framed_out w (o := execMasterSyncTx port s) rfl ?_
  unfold execMasterSyncTx
  refine ⟨_, rfl, ?_⟩
  repeat' first
    | with_reducible first
      | exact Act.nil_in
      | exact Act.skip_in
      | apply Act.cons_in
      | apply Act.seq_in
      | (apply Act.get_in; intro _)
      | (apply Act.when_in; intro _)
      | apply Act.ite_in
      | (apply Act.each_in; intro _ _)
      | (exact Act.ptpSend_pieces (Foot.sub hL (by decide)))
    | dsimp only
    | split

theorem frame_masterAnnounceTx {s : State} (w : s.Wf) {port : Nat} : Framed (.whole [.emitted]) (.masterAnnounceTx port) s := by
  have hL : (Foot.whole [.emitted]).le (Foot.whole [.emitted]) := Foot.le_refl
  refine framed_out w (o := execMasterAnnounceTx port s) rfl ?_
  unfold execMasterAnnounceTx
  refine ⟨_, rfl, ?_⟩
  repeat' first
    | with_reducible first
      | exact Act.nil_in
      | exact Act.skip_in
      | apply Act.cons_in
      | apply Act.seq_in
      | (apply Act.get_in; intro _)
      | (apply Act.when_in; intro _)
      | apply Act.ite_in
      | (apply Act.each_in; intro _ _)
      | (exact Act.ptpSend_pieces (Foot.sub hL (by decide)))
    | dsimp only
    | split

theorem Act.timeStep_pieces {F : Foot} (hL : (Foot.whole [.regs, .host, .leash, .trigs, .log, .recUsed, .recDrop, .recd, .attn, .radio, .time, .emitted]).le F) : (Act.timeStep).In F := by
  unfold Act.timeStep
  repeat' first
    | with_reducible first
      | exact Act.nil_in
      | exact Act.skip_in
      | apply Act.cons_in
      | apply Act.seq_in
      | (apply Act.get_in; intro _)
      | (apply Act.when_in; intro _)
      | apply Act.ite_in
      | (apply Act.each_in; intro _ _)
      | (exact Act.modF_in (Foot.has hL (by decide) _))
      | (exact Act.modRadio_in fun k => Foot.has hL (by decide) k)
      | (exact Act.modTime_in fun k => Foot.has hL (by decide) k)
      | (exact Act.setF_in (Foot.has hL (by decide) _))
      | (exact Act.timeEnter_pieces (Foot.sub hL (by decide)))
      | (exact Act.timeRecord_pieces (Foot.sub hL (by decide)))
    | dsimp only
    | split

theorem frame_timeStep {s : State} (w : s.Wf) : Framed (.whole [.regs, .host, .leash, .trigs, .log, .recUsed, .recDrop, .recd, .attn, .radio, .time, .emitted]) (.timeStep) s := by
  have hL : (Foot.whole [.regs, .host, .leash, .trigs, .log, .recUsed, .recDrop, .recd, .attn, .radio, .time, .emitted]).le (Foot.whole [.regs, .host, .leash, .trigs, .log, .recUsed, .recDrop, .recd, .attn, .radio, .time, .emitted]) := Foot.le_refl
  refine framed_out w (o := execTimeStep s) rfl ?_
  unfold execTimeStep
  refine ⟨_, rfl, ?_⟩
  repeat' first
    | with_reducible first
      | exact Act.nil_in
      | exact Act.skip_in
      | apply Act.cons_in
      | apply Act.seq_in
      | (apply Act.get_in; intro _)
      | (apply Act.when_in; intro _)
      | apply Act.ite_in
      | (apply Act.each_in; intro _ _)
      | (exact Act.timeStep_pieces (Foot.sub hL (by decide)))
    | dsimp only
    | split

theorem frame_recoveryEntry {s : State} (w : s.Wf) : Framed (.whole [.regs, .mem, .errs, .lpErr, .chUe, .host, .store, .acc, .anchors, .pend, .ctxs, .arrs, .parts, .health, .leash, .trigs, .log, .recUsed, .recDrop, .engs, .conns, .bars, .hounds, .cells, .dumps, .recd, .attn, .sigq, .convq, .flash, .pairs, .radio, .time, .emitted]) (.recoveryEntry) s := by
  have hL : (Foot.whole [.regs, .mem, .errs, .lpErr, .chUe, .host, .store, .acc, .anchors, .pend, .ctxs, .arrs, .parts, .health, .leash, .trigs, .log, .recUsed, .recDrop, .engs, .conns, .bars, .hounds, .cells, .dumps, .recd, .attn, .sigq, .convq, .flash, .pairs, .radio, .time, .emitted]).le (Foot.whole [.regs, .mem, .errs, .lpErr, .chUe, .host, .store, .acc, .anchors, .pend, .ctxs, .arrs, .parts, .health, .leash, .trigs, .log, .recUsed, .recDrop, .engs, .conns, .bars, .hounds, .cells, .dumps, .recd, .attn, .sigq, .convq, .flash, .pairs, .radio, .time, .emitted]) := Foot.le_refl
  refine framed_out w (o := execRecoveryEntry s) rfl ?_
  unfold execRecoveryEntry
  refine ⟨_, rfl, ?_⟩
  repeat' first
    | with_reducible first
      | exact Act.nil_in
      | exact Act.skip_in
      | apply Act.cons_in
      | apply Act.seq_in
      | (apply Act.get_in; intro _)
      | (apply Act.when_in; intro _)
      | apply Act.ite_in
      | (apply Act.each_in; intro _ _)
      | (exact Act.attnMgr_pieces (Foot.sub hL (by decide)))
      | (exact Act.attnRadio_pieces (Foot.sub hL (by decide)))
      | (exact Act.barAbandon_pieces (Foot.sub hL (by decide)))
      | (exact Act.incF_in (Foot.has hL (by decide) _))
      | (exact Act.ingressStop_pieces (Foot.sub hL (by decide)))
      | (exact Act.modRadio_in fun k => Foot.has hL (by decide) k)
      | (exact Act.modTime_in fun k => Foot.has hL (by decide) k)
      | (exact Act.setF_in (Foot.has hL (by decide) _))
      | (exact Act.timeEnter_pieces (Foot.sub hL (by decide)))
      | (exact Act.timeRecord_pieces (Foot.sub hL (by decide)))
      | (exact Act.timeRestart_pieces (Foot.sub hL (by decide)))
    | dsimp only
    | split

theorem frame_timeReferenceLoss {s : State} (w : s.Wf) : Framed (.whole [.regs, .host, .leash, .trigs, .log, .recUsed, .recDrop, .recd, .attn, .time, .emitted]) (.timeReferenceLoss) s := by
  have hL : (Foot.whole [.regs, .host, .leash, .trigs, .log, .recUsed, .recDrop, .recd, .attn, .time, .emitted]).le (Foot.whole [.regs, .host, .leash, .trigs, .log, .recUsed, .recDrop, .recd, .attn, .time, .emitted]) := Foot.le_refl
  refine framed_out w (o := execTimeReferenceLoss s) rfl ?_
  unfold execTimeReferenceLoss
  refine ⟨_, rfl, ?_⟩
  repeat' first
    | with_reducible first
      | exact Act.nil_in
      | exact Act.skip_in
      | apply Act.cons_in
      | apply Act.seq_in
      | (apply Act.get_in; intro _)
      | (apply Act.when_in; intro _)
      | apply Act.ite_in
      | (apply Act.each_in; intro _ _)
      | (exact Act.timeLoss_pieces (Foot.sub hL (by decide)))
    | dsimp only
    | split

theorem frame_announceReceiptTimeout {s : State} (w : s.Wf) : Framed (.whole [.regs, .host, .leash, .trigs, .log, .recUsed, .recDrop, .recd, .attn, .time, .emitted]) (.announceReceiptTimeout) s := by
  have hL : (Foot.whole [.regs, .host, .leash, .trigs, .log, .recUsed, .recDrop, .recd, .attn, .time, .emitted]).le (Foot.whole [.regs, .host, .leash, .trigs, .log, .recUsed, .recDrop, .recd, .attn, .time, .emitted]) := Foot.le_refl
  refine framed_out w (o := execAnnounceReceiptTimeout s) rfl ?_
  unfold execAnnounceReceiptTimeout
  refine ⟨_, rfl, ?_⟩
  repeat' first
    | with_reducible first
      | exact Act.nil_in
      | exact Act.skip_in
      | apply Act.cons_in
      | apply Act.seq_in
      | (apply Act.get_in; intro _)
      | (apply Act.when_in; intro _)
      | apply Act.ite_in
      | (apply Act.each_in; intro _ _)
      | (exact Act.setMasters_pieces (Foot.sub hL (by decide)))
      | (exact Act.timeLoss_pieces (Foot.sub hL (by decide)))
    | dsimp only
    | split

theorem frame_sampleTimeout {s : State} (w : s.Wf) : Framed (.whole [.regs, .host, .leash, .trigs, .log, .recUsed, .recDrop, .recd, .attn, .time, .emitted]) (.sampleTimeout) s := by
  have hL : (Foot.whole [.regs, .host, .leash, .trigs, .log, .recUsed, .recDrop, .recd, .attn, .time, .emitted]).le (Foot.whole [.regs, .host, .leash, .trigs, .log, .recUsed, .recDrop, .recd, .attn, .time, .emitted]) := Foot.le_refl
  refine framed_out w (o := execSampleTimeout s) rfl ?_
  unfold execSampleTimeout
  refine ⟨_, rfl, ?_⟩
  repeat' first
    | with_reducible first
      | exact Act.nil_in
      | exact Act.skip_in
      | apply Act.cons_in
      | apply Act.seq_in
      | (apply Act.get_in; intro _)
      | (apply Act.when_in; intro _)
      | apply Act.ite_in
      | (apply Act.each_in; intro _ _)
      | (exact Act.timeLoss_pieces (Foot.sub hL (by decide)))
    | dsimp only
    | split

theorem frame_holdoverExpiry {s : State} (w : s.Wf) : Framed (.whole [.time]) (.holdoverExpiry) s := by
  have hL : (Foot.whole [.time]).le (Foot.whole [.time]) := Foot.le_refl
  refine framed_out w (o := execHoldoverExpiry s) rfl ?_
  unfold execHoldoverExpiry
  refine ⟨_, rfl, ?_⟩
  repeat' first
    | with_reducible first
      | exact Act.nil_in
      | exact Act.skip_in
      | apply Act.cons_in
      | apply Act.seq_in
      | (apply Act.get_in; intro _)
      | (apply Act.when_in; intro _)
      | apply Act.ite_in
      | (apply Act.each_in; intro _ _)
      | (exact Act.modTime_in fun k => Foot.has hL (by decide) k)
    | dsimp only
    | split

theorem Act.ppsDisqualify_pieces {F : Foot} (hL : (Foot.whole [.regs, .host, .leash, .trigs, .log, .recUsed, .recDrop, .recd, .attn, .time, .emitted]).le F) : (Act.ppsDisqualify).In F := by
  unfold Act.ppsDisqualify
  repeat' first
    | with_reducible first
      | exact Act.nil_in
      | exact Act.skip_in
      | apply Act.cons_in
      | apply Act.seq_in
      | (apply Act.get_in; intro _)
      | (apply Act.when_in; intro _)
      | apply Act.ite_in
      | (apply Act.each_in; intro _ _)
      | (exact Act.modTime_in fun k => Foot.has hL (by decide) k)
      | (exact Act.setF_in (Foot.has hL (by decide) _))
      | (exact Act.timeLoss_pieces (Foot.sub hL (by decide)))
    | dsimp only
    | split

theorem Act.ppsBadEdge_pieces {F : Foot} (hL : (Foot.whole [.regs, .host, .leash, .trigs, .log, .recUsed, .recDrop, .recd, .attn, .time, .emitted]).le F) : (Act.ppsBadEdge).In F := by
  unfold Act.ppsBadEdge
  repeat' first
    | with_reducible first
      | exact Act.nil_in
      | exact Act.skip_in
      | apply Act.cons_in
      | apply Act.seq_in
      | (apply Act.get_in; intro _)
      | (apply Act.when_in; intro _)
      | apply Act.ite_in
      | (apply Act.each_in; intro _ _)
      | (exact Act.modTime_in fun k => Foot.has hL (by decide) k)
      | (exact Act.ppsDisqualify_pieces (Foot.sub hL (by decide)))
    | dsimp only
    | split

theorem Act.ppsAccept_pieces {F : Foot} {stamp : Int} {run : Nat} (hL : (Foot.whole [.regs, .time]).le F) : (Act.ppsAccept stamp run).In F := by
  unfold Act.ppsAccept
  repeat' first
    | with_reducible first
      | exact Act.nil_in
      | exact Act.skip_in
      | apply Act.cons_in
      | apply Act.seq_in
      | (apply Act.get_in; intro _)
      | (apply Act.when_in; intro _)
      | apply Act.ite_in
      | (apply Act.each_in; intro _ _)
      | (exact Act.modTime_in fun k => Foot.has hL (by decide) k)
      | (exact Act.setF_in (Foot.has hL (by decide) _))
      | (exact Act.timeQualified_pieces (Foot.sub hL (by decide)))
      | (exact Act.timeSample_pieces (Foot.sub hL (by decide)))
    | dsimp only
    | split

theorem frame_ppsInEdge {s : State} (w : s.Wf) {stamp : Int} : Framed (.whole [.regs, .host, .leash, .trigs, .log, .recUsed, .recDrop, .recd, .attn, .time, .emitted]) (.ppsInEdge stamp) s := by
  have hL : (Foot.whole [.regs, .host, .leash, .trigs, .log, .recUsed, .recDrop, .recd, .attn, .time, .emitted]).le (Foot.whole [.regs, .host, .leash, .trigs, .log, .recUsed, .recDrop, .recd, .attn, .time, .emitted]) := Foot.le_refl
  refine framed_out w (o := execPpsInEdge stamp s) rfl ?_
  unfold execPpsInEdge
  refine ⟨_, rfl, ?_⟩
  repeat' first
    | with_reducible first
      | exact Act.nil_in
      | exact Act.skip_in
      | apply Act.cons_in
      | apply Act.seq_in
      | (apply Act.get_in; intro _)
      | (apply Act.when_in; intro _)
      | apply Act.ite_in
      | (apply Act.each_in; intro _ _)
      | (exact Act.incF_in (Foot.has hL (by decide) _))
      | (exact Act.modTime_in fun k => Foot.has hL (by decide) k)
      | (exact Act.ppsAccept_pieces (Foot.sub hL (by decide)))
      | (exact Act.ppsBadEdge_pieces (Foot.sub hL (by decide)))
    | dsimp only
    | split

theorem frame_ppsInMissingEdge {s : State} (w : s.Wf) : Framed (.whole [.regs, .host, .leash, .trigs, .log, .recUsed, .recDrop, .recd, .attn, .time, .emitted]) (.ppsInMissingEdge) s := by
  have hL : (Foot.whole [.regs, .host, .leash, .trigs, .log, .recUsed, .recDrop, .recd, .attn, .time, .emitted]).le (Foot.whole [.regs, .host, .leash, .trigs, .log, .recUsed, .recDrop, .recd, .attn, .time, .emitted]) := Foot.le_refl
  refine framed_out w (o := execPpsInMissingEdge s) rfl ?_
  unfold execPpsInMissingEdge
  refine ⟨_, rfl, ?_⟩
  repeat' first
    | with_reducible first
      | exact Act.nil_in
      | exact Act.skip_in
      | apply Act.cons_in
      | apply Act.seq_in
      | (apply Act.get_in; intro _)
      | (apply Act.when_in; intro _)
      | apply Act.ite_in
      | (apply Act.each_in; intro _ _)
      | (exact Act.modTime_in fun k => Foot.has hL (by decide) k)
      | (exact Act.ppsBadEdge_pieces (Foot.sub hL (by decide)))
    | dsimp only
    | split

theorem frame_ppsOut {s : State} (w : s.Wf) : Framed (.whole [.time, .emitted]) (.ppsOut) s := by
  have hL : (Foot.whole [.time, .emitted]).le (Foot.whole [.time, .emitted]) := Foot.le_refl
  refine framed_out w (o := execPpsOut s) rfl ?_
  unfold execPpsOut
  refine ⟨_, rfl, ?_⟩
  repeat' first
    | with_reducible first
      | exact Act.nil_in
      | exact Act.skip_in
      | apply Act.cons_in
      | apply Act.seq_in
      | (apply Act.get_in; intro _)
      | (apply Act.when_in; intro _)
      | apply Act.ite_in
      | (apply Act.each_in; intro _ _)
      | (exact Act.emit_in fun k => Foot.has hL (by decide) k)
      | (exact Act.modTime_in fun k => Foot.has hL (by decide) k)
    | dsimp only
    | split

theorem Act.ppsFall_pieces {F : Foot} (hL : (Foot.whole [.time, .emitted]).le F) : (Act.ppsFall).In F := by
  unfold Act.ppsFall
  repeat' first
    | with_reducible first
      | exact Act.nil_in
      | exact Act.skip_in
      | apply Act.cons_in
      | apply Act.seq_in
      | (apply Act.get_in; intro _)
      | (apply Act.when_in; intro _)
      | apply Act.ite_in
      | (apply Act.each_in; intro _ _)
      | (exact Act.emit_in fun k => Foot.has hL (by decide) k)
      | (exact Act.modTime_in fun k => Foot.has hL (by decide) k)
    | dsimp only
    | split

theorem Act.freqSelect_pieces {F : Foot} (hL : (Foot.whole [.regs, .time]).le F) : (Act.freqSelect).In F := by
  unfold Act.freqSelect
  repeat' first
    | with_reducible first
      | exact Act.nil_in
      | exact Act.skip_in
      | apply Act.cons_in
      | apply Act.seq_in
      | (apply Act.get_in; intro _)
      | (apply Act.when_in; intro _)
      | apply Act.ite_in
      | (apply Act.each_in; intro _ _)
      | (exact Act.incF_in (Foot.has hL (by decide) _))
      | (exact Act.modTime_in fun k => Foot.has hL (by decide) k)
      | (exact Act.qlUpdate_pieces (Foot.sub hL (by decide)))
      | (exact Act.setF_in (Foot.has hL (by decide) _))
    | dsimp only
    | split

theorem frame_esmcTx {s : State} (w : s.Wf) {port : Nat} {event : Bool} : Framed (.whole [.regs, .time, .emitted]) (.esmcTx port event) s := by
  have hL : (Foot.whole [.regs, .time, .emitted]).le (Foot.whole [.regs, .time, .emitted]) := Foot.le_refl
  refine framed_out w (o := execEsmcTx port event s) rfl ?_
  unfold execEsmcTx
  refine ⟨_, rfl, ?_⟩
  repeat' first
    | with_reducible first
      | exact Act.nil_in
      | exact Act.skip_in
      | apply Act.cons_in
      | apply Act.seq_in
      | (apply Act.get_in; intro _)
      | (apply Act.when_in; intro _)
      | apply Act.ite_in
      | (apply Act.each_in; intro _ _)
      | (exact Act.emit_in fun k => Foot.has hL (by decide) k)
      | (exact Act.modTime_in fun k => Foot.has hL (by decide) k)
      | (exact Act.qlUpdate_pieces (Foot.sub hL (by decide)))
    | dsimp only
    | split

theorem frame_esmcRx {s : State} (w : s.Wf) {port : Nat} {ql : Nat} : Framed (.whole [.regs, .time]) (.esmcRx port ql) s := by
  have hL : (Foot.whole [.regs, .time]).le (Foot.whole [.regs, .time]) := Foot.le_refl
  refine framed_out w (o := execEsmcRx port ql s) rfl ?_
  unfold execEsmcRx
  refine ⟨_, rfl, ?_⟩
  repeat' first
    | with_reducible first
      | exact Act.nil_in
      | exact Act.skip_in
      | apply Act.cons_in
      | apply Act.seq_in
      | (apply Act.get_in; intro _)
      | (apply Act.when_in; intro _)
      | apply Act.ite_in
      | (apply Act.each_in; intro _ _)
      | (exact Act.freqSelect_pieces (Foot.sub hL (by decide)))
      | (exact Act.setF_in (Foot.has hL (by decide) _))
    | dsimp only
    | split

theorem frame_qlTimeout {s : State} (w : s.Wf) : Framed (.whole [.regs, .time]) (.qlTimeout) s := by
  have hL : (Foot.whole [.regs, .time]).le (Foot.whole [.regs, .time]) := Foot.le_refl
  refine framed_out w (o := execQlTimeout s) rfl ?_
  unfold execQlTimeout
  refine ⟨_, rfl, ?_⟩
  repeat' first
    | with_reducible first
      | exact Act.nil_in
      | exact Act.skip_in
      | apply Act.cons_in
      | apply Act.seq_in
      | (apply Act.get_in; intro _)
      | (apply Act.when_in; intro _)
      | apply Act.ite_in
      | (apply Act.each_in; intro _ _)
      | (exact Act.freqSelect_pieces (Foot.sub hL (by decide)))
      | (exact Act.setF_in (Foot.has hL (by decide) _))
    | dsimp only
    | split

theorem frame_freqRefSwitch {s : State} (w : s.Wf) {synceOk : Bool} {ref10Ok : Bool} : Framed (.whole [.regs, .time]) (.freqRefSwitch synceOk ref10Ok) s := by
  have hL : (Foot.whole [.regs, .time]).le (Foot.whole [.regs, .time]) := Foot.le_refl
  refine framed_out w (o := execFreqRefSwitch synceOk ref10Ok s) rfl ?_
  unfold execFreqRefSwitch
  refine ⟨_, rfl, ?_⟩
  repeat' first
    | with_reducible first
      | exact Act.nil_in
      | exact Act.skip_in
      | apply Act.cons_in
      | apply Act.seq_in
      | (apply Act.get_in; intro _)
      | (apply Act.when_in; intro _)
      | apply Act.ite_in
      | (apply Act.each_in; intro _ _)
      | (exact Act.freqSelect_pieces (Foot.sub hL (by decide)))
      | (exact Act.modTime_in fun k => Foot.has hL (by decide) k)
      | (exact Act.setF_in (Foot.has hL (by decide) _))
    | dsimp only
    | split

theorem Act.timeCfgWrite_pieces {F : Foot} {v : Word} (hL : (Foot.whole [.regs, .host, .leash, .trigs, .log, .recUsed, .recDrop, .recd, .attn, .time, .emitted]).le F) : (Act.timeCfgWrite v).In F := by
  unfold Act.timeCfgWrite
  repeat' first
    | with_reducible first
      | exact Act.nil_in
      | exact Act.skip_in
      | apply Act.cons_in
      | apply Act.seq_in
      | (apply Act.get_in; intro _)
      | (apply Act.when_in; intro _)
      | apply Act.ite_in
      | (apply Act.each_in; intro _ _)
      | (exact Act.freqSelect_pieces (Foot.sub hL (by decide)))
      | (exact Act.setF_in (Foot.has hL (by decide) _))
      | (exact Act.setMasters_pieces (Foot.sub hL (by decide)))
      | (exact Act.timeLoss_pieces (Foot.sub hL (by decide)))
    | dsimp only
    | split

theorem frame_timeCfgWrite {s : State} (w : s.Wf) {who : Nat} {val : Word} : Framed (.whole [.regs, .host, .leash, .trigs, .log, .recUsed, .recDrop, .recd, .attn, .time, .emitted]) (.timeCfgWrite who val) s := by
  have hL : (Foot.whole [.regs, .host, .leash, .trigs, .log, .recUsed, .recDrop, .recd, .attn, .time, .emitted]).le (Foot.whole [.regs, .host, .leash, .trigs, .log, .recUsed, .recDrop, .recd, .attn, .time, .emitted]) := Foot.le_refl
  refine framed_out w (o := execTimeCfgWrite who val s) rfl ?_
  unfold execTimeCfgWrite
  refine ⟨_, rfl, ?_⟩
  repeat' first
    | with_reducible first
      | exact Act.nil_in
      | exact Act.skip_in
      | apply Act.cons_in
      | apply Act.seq_in
      | (apply Act.get_in; intro _)
      | (apply Act.when_in; intro _)
      | apply Act.ite_in
      | (apply Act.each_in; intro _ _)
      | (exact Act.timeCfgWrite_pieces (Foot.sub hL (by decide)))
      | (exact Act.violation_pieces (Foot.sub hL (by decide)))
    | dsimp only
    | split

theorem Act.timeLatch_pieces {F : Foot} (hL : (Foot.whole [.regs]).le F) : (Act.timeLatch).In F := by
  unfold Act.timeLatch
  repeat' first
    | with_reducible first
      | exact Act.nil_in
      | exact Act.skip_in
      | apply Act.cons_in
      | apply Act.seq_in
      | (apply Act.get_in; intro _)
      | (apply Act.when_in; intro _)
      | apply Act.ite_in
      | (apply Act.each_in; intro _ _)
      | (exact Act.setF_in (Foot.has hL (by decide) _))
    | dsimp only
    | split

theorem frame_timeLatch {s : State} (w : s.Wf) {who : Nat} {val : Word} : Framed (.whole [.regs, .host, .leash, .trigs, .log, .recUsed, .recDrop, .recd, .attn, .radio, .time, .emitted]) (.timeLatch who val) s := by
  have hL : (Foot.whole [.regs, .host, .leash, .trigs, .log, .recUsed, .recDrop, .recd, .attn, .radio, .time, .emitted]).le (Foot.whole [.regs, .host, .leash, .trigs, .log, .recUsed, .recDrop, .recd, .attn, .radio, .time, .emitted]) := Foot.le_refl
  refine framed_out w (o := execTimeLatch who val s) rfl ?_
  unfold execTimeLatch
  refine ⟨_, rfl, ?_⟩
  repeat' first
    | with_reducible first
      | exact Act.nil_in
      | exact Act.skip_in
      | apply Act.cons_in
      | apply Act.seq_in
      | (apply Act.get_in; intro _)
      | (apply Act.when_in; intro _)
      | apply Act.ite_in
      | (apply Act.each_in; intro _ _)
      | (exact Act.timeLatch_pieces (Foot.sub hL (by decide)))
      | (exact Act.timeStep_pieces (Foot.sub hL (by decide)))
      | (exact Act.violation_pieces (Foot.sub hL (by decide)))
    | dsimp only
    | split

end Sys2Proof.Machine
end

