-- ==== Sys2Proof/Laws/PiecesRadio.lean ====
section
/-! SUPPORT. The pieces of state that the operations of Machine/Radio.lean can write, and the frames of its commands. -/

set_option linter.unusedSimpArgs false

namespace Sys2Proof.Machine

theorem Act.stageReads_pieces {F : Foot} {master : Nat} {key : Nat} {esn : Nat} {ls : List (Nat × Nat)} {k : Act} (hL : (Foot.whole [.regs, .mem, .errs, .lpErr, .chUe, .host, .store, .acc, .health, .leash, .trigs, .log, .recUsed, .recDrop, .cells, .cjobs, .dsps, .recd, .attn, .sigq, .flash, .free, .emitted]).le F) (hc_k : k.In F) : (Act.stageReads master key esn ls k).In F := by
  unfold Act.stageReads
  repeat' first
    | with_reducible first
      | exact Act.nil_in
      | exact Act.skip_in
      | apply Act.cons_in
      | apply Act.seq_in
      | (apply Act.get_in; intro _)
      | (apply Act.when_in; intro _)
      | apply Act.ite_in
      | (apply Act.each_in; intro _ _)
      | (exact Act.cellReset_pieces (Foot.sub hL (by decide)))
      | (refine Act.readLines_pieces (Foot.sub hL (by decide)) ?_ <;> intros)
      | exact hc_k
    | dsimp only
    | split

theorem Act.stageWrite_pieces {F : Foot} {master : Nat} {key : Nat} {esn : Nat} {a : Nat} {d : List Byte} (hL : (Foot.whole [.regs, .mem, .errs, .lpErr, .chUe, .host, .store, .acc, .health, .leash, .trigs, .log, .recUsed, .recDrop, .cells, .cjobs, .dsps, .recd, .attn, .sigq, .flash, .free, .emitted]).le F) : (Act.stageWrite master key esn a d).In F := by
  unfold Act.stageWrite
  repeat' first
    | with_reducible first
      | exact Act.nil_in
      | exact Act.skip_in
      | apply Act.cons_in
      | apply Act.seq_in
      | (apply Act.get_in; intro _)
      | (apply Act.when_in; intro _)
      | apply Act.ite_in
      | (apply Act.each_in; intro _ _)
      | (exact Act.cellReset_pieces (Foot.sub hL (by decide)))
      | (refine Act.writeLines_pieces (Foot.sub hL (by decide)) ?_ <;> intros)
    | dsimp only
    | split

theorem frame_reqFetch {s : State} (w : s.Wf) {cell : Nat} {esn : Nat} {torn : Bool} : Framed (.whole [.regs, .host, .cells]) (.reqFetch cell esn torn) s := by
  have hL : (Foot.whole [.regs, .host, .cells]).le (Foot.whole [.regs, .host, .cells]) := Foot.le_refl
  refine framed_out w (o := execReqFetch cell esn torn s) rfl ?_
  unfold execReqFetch
  refine ⟨_, rfl, ?_⟩
  repeat' first
    | with_reducible first
      | exact Act.nil_in
      | exact Act.skip_in
      | apply Act.cons_in
      | apply Act.seq_in
      | (apply Act.get_in; intro _)
      | (apply Act.when_in; intro _)
      | apply Act.ite_in
      | (apply Act.each_in; intro _ _)
      | (exact Act.dmaCount_pieces (Foot.sub hL (by decide)))
      | (exact Act.dmaWrite_pieces (Foot.sub hL (by decide)))
      | (exact Act.incF_in (Foot.has hL (by decide) _))
      | (exact Act.modCells_in (Foot.has hL (by decide) _))
      | (exact Act.setF_in (Foot.has hL (by decide) _))
    | dsimp only
    | split

theorem Act.takeMsg_pieces {F : Foot} {cell : Nat} {esn : Nat} {id : Nat} {k : List Byte → Act} (hL : (Foot.whole [.cells]).le F) (hc_k : ∀ y0, (k y0).In F) : (Act.takeMsg cell esn id k).In F := by
  unfold Act.takeMsg
  repeat' first
    | with_reducible first
      | exact Act.nil_in
      | exact Act.skip_in
      | apply Act.cons_in
      | apply Act.seq_in
      | (apply Act.get_in; intro _)
      | (apply Act.when_in; intro _)
      | apply Act.ite_in
      | (apply Act.each_in; intro _ _)
      | (exact Act.modCells_in (Foot.has hL (by decide) _))
      | exact hc_k _
    | dsimp only
    | split

theorem Act.fapiErr_pieces {F : Foot} {cell : Nat} {esn : Nat} {id : Nat} {code : Nat} (hL : (Foot.whole [.cells]).le F) : (Act.fapiErr cell esn id code).In F := by
  unfold Act.fapiErr
  repeat' first
    | with_reducible first
      | exact Act.nil_in
      | exact Act.skip_in
      | apply Act.cons_in
      | apply Act.seq_in
      | (apply Act.get_in; intro _)
      | (apply Act.when_in; intro _)
      | apply Act.ite_in
      | (apply Act.each_in; intro _ _)
      | (exact Act.cellInd_pieces (Foot.sub hL (by decide)))
    | dsimp only
    | split

theorem frame_paramRequest {s : State} (w : s.Wf) {cell : Nat} {esn : Nat} : Framed (.whole [.cells]) (.paramRequest cell esn) s := by
  have hL : (Foot.whole [.cells]).le (Foot.whole [.cells]) := Foot.le_refl
  refine framed_out w (o := execParamRequest cell esn s) rfl ?_
  unfold execParamRequest
  refine ⟨_, rfl, ?_⟩
  repeat' first
    | with_reducible first
      | exact Act.nil_in
      | exact Act.skip_in
      | apply Act.cons_in
      | apply Act.seq_in
      | (apply Act.get_in; intro _)
      | (apply Act.when_in; intro _)
      | apply Act.ite_in
      | (apply Act.each_in; intro _ _)
      | (exact Act.cellInd_pieces (Foot.sub hL (by decide)))
      | (refine Act.takeMsg_pieces (Foot.sub hL (by decide)) ?_ <;> intros)
    | dsimp only
    | split

theorem frame_configRequest {s : State} (w : s.Wf) {cell : Nat} {esn : Nat} {body : List Byte} : Framed (.whole [.cells]) (.configRequest cell esn body) s := by
  have hL : (Foot.whole [.cells]).le (Foot.whole [.cells]) := Foot.le_refl
  refine framed_out w (o := execConfigRequest cell esn body s) rfl ?_
  unfold execConfigRequest
  refine ⟨_, rfl, ?_⟩
  repeat' first
    | with_reducible first
      | exact Act.nil_in
      | exact Act.skip_in
      | apply Act.cons_in
      | apply Act.seq_in
      | (apply Act.get_in; intro _)
      | (apply Act.when_in; intro _)
      | apply Act.ite_in
      | (apply Act.each_in; intro _ _)
      | (exact Act.cellInd_pieces (Foot.sub hL (by decide)))
      | (refine Act.takeMsg_pieces (Foot.sub hL (by decide)) ?_ <;> intros)
    | dsimp only
    | split

theorem frame_startRequest {s : State} (w : s.Wf) {cell : Nat} {esn : Nat} : Framed (.whole [.regs, .cells]) (.startRequest cell esn) s := by
  have hL : (Foot.whole [.regs, .cells]).le (Foot.whole [.regs, .cells]) := Foot.le_refl
  refine framed_out w (o := execStartRequest cell esn s) rfl ?_
  unfold execStartRequest
  refine ⟨_, rfl, ?_⟩
  repeat' first
    | with_reducible first
      | exact Act.nil_in
      | exact Act.skip_in
      | apply Act.cons_in
      | apply Act.seq_in
      | (apply Act.get_in; intro _)
      | (apply Act.when_in; intro _)
      | apply Act.ite_in
      | (apply Act.each_in; intro _ _)
      | (exact Act.fapiErr_pieces (Foot.sub hL (by decide)))
      | (exact Act.modCells_in (Foot.has hL (by decide) _))
      | (exact Act.radioActive_pieces (Foot.sub hL (by decide)))
      | (exact Act.setF_in (Foot.has hL (by decide) _))
      | (refine Act.takeMsg_pieces (Foot.sub hL (by decide)) ?_ <;> intros)
    | dsimp only
    | split

theorem frame_stopRequest {s : State} (w : s.Wf) {cell : Nat} {esn : Nat} : Framed (.whole [.cells]) (.stopRequest cell esn) s := by
  have hL : (Foot.whole [.cells]).le (Foot.whole [.cells]) := Foot.le_refl
  refine framed_out w (o := execStopRequest cell esn s) rfl ?_
  unfold execStopRequest
  refine ⟨_, rfl, ?_⟩
  repeat' first
    | with_reducible first
      | exact Act.nil_in
      | exact Act.skip_in
      | apply Act.cons_in
      | apply Act.seq_in
      | (apply Act.get_in; intro _)
      | (apply Act.when_in; intro _)
      | apply Act.ite_in
      | (apply Act.each_in; intro _ _)
      | (exact Act.cellInd_pieces (Foot.sub hL (by decide)))
      | (exact Act.fapiErr_pieces (Foot.sub hL (by decide)))
      | (exact Act.modCells_in (Foot.has hL (by decide) _))
      | (refine Act.takeMsg_pieces (Foot.sub hL (by decide)) ?_ <;> intros)
    | dsimp only
    | split

theorem Act.slotMsg_pieces {F : Foot} {cell : Nat} {esn : Nat} {id : Nat} {body : List Byte} (hL : (Foot.whole [.cells]).le F) : (Act.slotMsg cell esn id body).In F := by
  unfold Act.slotMsg
  repeat' first
    | with_reducible first
      | exact Act.nil_in
      | exact Act.skip_in
      | apply Act.cons_in
      | apply Act.seq_in
      | (apply Act.get_in; intro _)
      | (apply Act.when_in; intro _)
      | apply Act.ite_in
      | (apply Act.each_in; intro _ _)
      | (exact Act.fapiErr_pieces (Foot.sub hL (by decide)))
      | (refine Act.takeMsg_pieces (Foot.sub hL (by decide)) ?_ <;> intros)
    | dsimp only
    | split

theorem frame_dlTtiRequest {s : State} (w : s.Wf) {cell : Nat} {esn : Nat} {body : List Byte} : Framed (.whole [.cells]) (.dlTtiRequest cell esn body) s := by
  have hL : (Foot.whole [.cells]).le (Foot.whole [.cells]) := Foot.le_refl
  refine framed_out w (o := execDlTtiRequest cell esn body s) rfl ?_
  unfold execDlTtiRequest
  refine ⟨_, rfl, ?_⟩
  repeat' first
    | with_reducible first
      | exact Act.nil_in
      | exact Act.skip_in
      | apply Act.cons_in
      | apply Act.seq_in
      | (apply Act.get_in; intro _)
      | (apply Act.when_in; intro _)
      | apply Act.ite_in
      | (apply Act.each_in; intro _ _)
      | (exact Act.slotMsg_pieces (Foot.sub hL (by decide)))
    | dsimp only
    | split

theorem frame_ulTtiRequest {s : State} (w : s.Wf) {cell : Nat} {esn : Nat} {body : List Byte} : Framed (.whole [.cells]) (.ulTtiRequest cell esn body) s := by
  have hL : (Foot.whole [.cells]).le (Foot.whole [.cells]) := Foot.le_refl
  refine framed_out w (o := execUlTtiRequest cell esn body s) rfl ?_
  unfold execUlTtiRequest
  refine ⟨_, rfl, ?_⟩
  repeat' first
    | with_reducible first
      | exact Act.nil_in
      | exact Act.skip_in
      | apply Act.cons_in
      | apply Act.seq_in
      | (apply Act.get_in; intro _)
      | (apply Act.when_in; intro _)
      | apply Act.ite_in
      | (apply Act.each_in; intro _ _)
      | (exact Act.slotMsg_pieces (Foot.sub hL (by decide)))
    | dsimp only
    | split

theorem frame_ulDciRequest {s : State} (w : s.Wf) {cell : Nat} {esn : Nat} {body : List Byte} : Framed (.whole [.cells]) (.ulDciRequest cell esn body) s := by
  have hL : (Foot.whole [.cells]).le (Foot.whole [.cells]) := Foot.le_refl
  refine framed_out w (o := execUlDciRequest cell esn body s) rfl ?_
  unfold execUlDciRequest
  refine ⟨_, rfl, ?_⟩
  repeat' first
    | with_reducible first
      | exact Act.nil_in
      | exact Act.skip_in
      | apply Act.cons_in
      | apply Act.seq_in
      | (apply Act.get_in; intro _)
      | (apply Act.when_in; intro _)
      | apply Act.ite_in
      | (apply Act.each_in; intro _ _)
      | (exact Act.slotMsg_pieces (Foot.sub hL (by decide)))
    | dsimp only
    | split

theorem frame_txDataRequest {s : State} (w : s.Wf) {cell : Nat} {esn : Nat} {body : List Byte} : Framed (.whole [.cells]) (.txDataRequest cell esn body) s := by
  have hL : (Foot.whole [.cells]).le (Foot.whole [.cells]) := Foot.le_refl
  refine framed_out w (o := execTxDataRequest cell esn body s) rfl ?_
  unfold execTxDataRequest
  refine ⟨_, rfl, ?_⟩
  repeat' first
    | with_reducible first
      | exact Act.nil_in
      | exact Act.skip_in
      | apply Act.cons_in
      | apply Act.seq_in
      | (apply Act.get_in; intro _)
      | (apply Act.when_in; intro _)
      | apply Act.ite_in
      | (apply Act.each_in; intro _ _)
      | (exact Act.slotMsg_pieces (Foot.sub hL (by decide)))
    | dsimp only
    | split

theorem frame_payFetch {s : State} (w : s.Wf) {cell : Nat} {esn : Nat} : Framed (.whole [.regs, .mem, .errs, .lpErr, .chUe, .host, .store, .acc, .health, .leash, .trigs, .log, .recUsed, .recDrop, .cells, .cjobs, .dsps, .recd, .attn, .sigq, .flash, .free, .emitted]) (.payFetch cell esn) s := by
  have hL : (Foot.whole [.regs, .mem, .errs, .lpErr, .chUe, .host, .store, .acc, .health, .leash, .trigs, .log, .recUsed, .recDrop, .cells, .cjobs, .dsps, .recd, .attn, .sigq, .flash, .free, .emitted]).le (Foot.whole [.regs, .mem, .errs, .lpErr, .chUe, .host, .store, .acc, .health, .leash, .trigs, .log, .recUsed, .recDrop, .cells, .cjobs, .dsps, .recd, .attn, .sigq, .flash, .free, .emitted]) := Foot.le_refl
  refine framed_out w (o := execPayFetch cell esn s) rfl ?_
  unfold execPayFetch
  refine ⟨_, rfl, ?_⟩
  repeat' first
    | with_reducible first
      | exact Act.nil_in
      | exact Act.skip_in
      | apply Act.cons_in
      | apply Act.seq_in
      | (apply Act.get_in; intro _)
      | (apply Act.when_in; intro _)
      | apply Act.ite_in
      | (apply Act.each_in; intro _ _)
      | (exact Act.dmaCount_pieces (Foot.sub hL (by decide)))
      | (exact Act.modCells_in (Foot.has hL (by decide) _))
      | (exact Act.stageWrite_pieces (Foot.sub hL (by decide)))
    | dsimp only
    | split

theorem Act.noiseEntry_pieces {F : Foot} {cell : Nat} {esn : Nat} (hL : (Foot.whole [.regs, .host]).le F) : (Act.noiseEntry cell esn).In F := by
  unfold Act.noiseEntry
  repeat' first
    | with_reducible first
      | exact Act.nil_in
      | exact Act.skip_in
      | apply Act.cons_in
      | apply Act.seq_in
      | (apply Act.get_in; intro _)
      | (apply Act.when_in; intro _)
      | apply Act.ite_in
      | (apply Act.each_in; intro _ _)
      | (exact Act.dmaWrite_pieces (Foot.sub hL (by decide)))
    | dsimp only
    | split

theorem Act.indBlockWrite_pieces {F : Foot} {key : Nat} {esn : Nat} {msgs : List (Nat × List Byte)} (hL : (Foot.whole [.regs, .host, .cells, .attn, .emitted]).le F) : (Act.indBlockWrite key esn msgs).In F := by
  unfold Act.indBlockWrite
  repeat' first
    | with_reducible first
      | exact Act.nil_in
      | exact Act.skip_in
      | apply Act.cons_in
      | apply Act.seq_in
      | (apply Act.get_in; intro _)
      | (apply Act.when_in; intro _)
      | apply Act.ite_in
      | (apply Act.each_in; intro _ _)
      | (exact Act.attnRadio_pieces (Foot.sub hL (by decide)))
      | (exact Act.cellInc_pieces (Foot.sub hL (by decide)))
      | (exact Act.dmaWrite_pieces (Foot.sub hL (by decide)))
      | (exact Act.modCells_in (Foot.has hL (by decide) _))
    | dsimp only
    | split

theorem Act.slotReport_pieces {F : Foot} {cell : Nat} {esn : Nat} {results : List (Nat × Nat × Nat)} (hL : (Foot.whole [.regs, .host, .cells, .attn, .emitted]).le F) : (Act.slotReport cell esn results).In F := by
  unfold Act.slotReport
  repeat' first
    | with_reducible first
      | exact Act.nil_in
      | exact Act.skip_in
      | apply Act.cons_in
      | apply Act.seq_in
      | (apply Act.get_in; intro _)
      | (apply Act.when_in; intro _)
      | apply Act.ite_in
      | (apply Act.each_in; intro _ _)
      | (exact Act.cellInc_pieces (Foot.sub hL (by decide)))
      | (exact Act.indBlockWrite_pieces (Foot.sub hL (by decide)))
      | (exact Act.modCells_in (Foot.has hL (by decide) _))
      | (exact Act.modF_in (Foot.has hL (by decide) _))
      | (exact Act.noiseEntry_pieces (Foot.sub hL (by decide)))
      | (exact Act.radioActive_pieces (Foot.sub hL (by decide)))
      | (exact Act.setF_in (Foot.has hL (by decide) _))
    | dsimp only
    | split

theorem frame_indicationWrite {s : State} (w : s.Wf) {cell : Nat} {esn : Nat} {results : List (Nat × Nat × Nat)} : Framed (.whole [.regs, .mem, .errs, .lpErr, .chUe, .host, .store, .acc, .health, .leash, .trigs, .log, .recUsed, .recDrop, .cells, .cjobs, .dsps, .recd, .attn, .sigq, .flash, .free, .emitted]) (.indicationWrite cell esn results) s := by
  have hL : (Foot.whole [.regs, .mem, .errs, .lpErr, .chUe, .host, .store, .acc, .health, .leash, .trigs, .log, .recUsed, .recDrop, .cells, .cjobs, .dsps, .recd, .attn, .sigq, .flash, .free, .emitted]).le (Foot.whole [.regs, .mem, .errs, .lpErr, .chUe, .host, .store, .acc, .health, .leash, .trigs, .log, .recUsed, .recDrop, .cells, .cjobs, .dsps, .recd, .attn, .sigq, .flash, .free, .emitted]) := Foot.le_refl
  refine framed_out w (o := execIndicationWrite cell esn results s) rfl ?_
  unfold execIndicationWrite
  refine ⟨_, rfl, ?_⟩
  repeat' first
    | with_reducible first
      | exact Act.nil_in
      | exact Act.skip_in
      | apply Act.cons_in
      | apply Act.seq_in
      | (apply Act.get_in; intro _)
      | (apply Act.when_in; intro _)
      | apply Act.ite_in
      | (apply Act.each_in; intro _ _)
      | (exact Act.cellReset_pieces (Foot.sub hL (by decide)))
      | (refine Act.readLines_pieces (Foot.sub hL (by decide)) ?_ <;> intros)
      | (exact Act.slotReport_pieces (Foot.sub hL (by decide)))
    | dsimp only
    | split

theorem Act.ctxBegin_pieces {F : Foot} {c : Nat} {x : Nat} {pc : Nat} {handle : Nat} {cells : List Nat} (hL : (Foot.whole [.regs, .ctxs]).le F) : (Act.ctxBegin c x pc handle cells).In F := by
  unfold Act.ctxBegin
  repeat' first
    | with_reducible first
      | exact Act.nil_in
      | exact Act.skip_in
      | apply Act.cons_in
      | apply Act.seq_in
      | (apply Act.get_in; intro _)
      | (apply Act.when_in; intro _)
      | apply Act.ite_in
      | (apply Act.each_in; intro _ _)
      | (exact Act.modCtxs_in (Foot.has hL (by decide) _))
      | (exact Act.modF_in (Foot.has hL (by decide) _))
      | (exact Act.setF_in (Foot.has hL (by decide) _))
    | dsimp only
    | split

theorem frame_nrxCall {s : State} (w : s.Wf) {cell : Nat} {esn : Nat} {cores : List Nat} {sig : Nat} {prb : Nat} {chest : Nat} {nf : Nat} {pdu : Nat} {llr : Nat} : Framed (.whole [.regs, .mem, .errs, .lpErr, .chUe, .host, .store, .acc, .ctxs, .health, .leash, .trigs, .log, .recUsed, .recDrop, .cells, .cjobs, .dsps, .recd, .attn, .sigq, .flash, .free, .emitted]) (.nrxCall cell esn cores sig prb chest nf pdu llr) s := by
  have hL : (Foot.whole [.regs, .mem, .errs, .lpErr, .chUe, .host, .store, .acc, .ctxs, .health, .leash, .trigs, .log, .recUsed, .recDrop, .cells, .cjobs, .dsps, .recd, .attn, .sigq, .flash, .free, .emitted]).le (Foot.whole [.regs, .mem, .errs, .lpErr, .chUe, .host, .store, .acc, .ctxs, .health, .leash, .trigs, .log, .recUsed, .recDrop, .cells, .cjobs, .dsps, .recd, .attn, .sigq, .flash, .free, .emitted]) := Foot.le_refl
  refine framed_out w (o := execNrxCall cell esn cores sig prb chest nf pdu llr s) rfl ?_
  unfold execNrxCall
  refine ⟨_, rfl, ?_⟩
  repeat' first
    | with_reducible first
      | exact Act.nil_in
      | exact Act.skip_in
      | apply Act.cons_in
      | apply Act.seq_in
      | (apply Act.get_in; intro _)
      | (apply Act.when_in; intro _)
      | apply Act.ite_in
      | (apply Act.each_in; intro _ _)
      | (exact Act.cellReset_pieces (Foot.sub hL (by decide)))
      | (exact Act.ctxBegin_pieces (Foot.sub hL (by decide)))
      | (exact Act.setF_in (Foot.has hL (by decide) _))
      | (refine Act.writeMem_pieces (Foot.sub hL (by decide)) ?_ <;> intros)
    | dsimp only
    | split

theorem frame_radioStageOverrun {s : State} (w : s.Wf) {cell : Nat} : Framed (.whole [.regs, .host, .ctxs, .arrs, .leash, .trigs, .log, .recUsed, .recDrop, .cells, .cjobs, .dsps, .recd, .attn, .sigq, .free, .emitted]) (.radioStageOverrun cell) s := by
  have hL : (Foot.whole [.regs, .host, .ctxs, .arrs, .leash, .trigs, .log, .recUsed, .recDrop, .cells, .cjobs, .dsps, .recd, .attn, .sigq, .free, .emitted]).le (Foot.whole [.regs, .host, .ctxs, .arrs, .leash, .trigs, .log, .recUsed, .recDrop, .cells, .cjobs, .dsps, .recd, .attn, .sigq, .free, .emitted]) := Foot.le_refl
  refine framed_out w (o := execRadioStageOverrun cell s) rfl ?_
  unfold execRadioStageOverrun
  refine ⟨_, rfl, ?_⟩
  repeat' first
    | with_reducible first
      | exact Act.nil_in
      | exact Act.skip_in
      | apply Act.cons_in
      | apply Act.seq_in
      | (apply Act.get_in; intro _)
      | (apply Act.when_in; intro _)
      | apply Act.ite_in
      | (apply Act.each_in; intro _ _)
      | (exact Act.cellReset_pieces (Foot.sub hL (by decide)))
      | (exact Act.ctxHalt_pieces (Foot.sub hL (by decide)))
    | dsimp only
    | split

end Sys2Proof.Machine
end

