-- ==== Sys2Proof/Laws/PiecesFronthaul.lean ====
section
/-! SUPPORT. The pieces of state that the operations of Machine/Fronthaul.lean can write, and the frames of its commands. -/

set_option linter.unusedSimpArgs false

namespace Sys2Proof.Machine

theorem Act.landSymbol_pieces {F : Foot} {c : Nat} {stream : Nat} {sec : Nat} {esn : Nat} {sym : Nat} (hL : (Foot.whole [.regs, .mem, .errs, .lpErr, .chUe, .host, .store, .acc, .health, .leash, .trigs, .log, .recUsed, .recDrop, .cells, .cjobs, .dsps, .recd, .attn, .sigq, .flash, .free, .emitted]).le F) : (Act.landSymbol c stream sec esn sym).In F := by
  unfold Act.landSymbol
  repeat' first
    | with_reducible first
      | exact Act.nil_in
      | exact Act.skip_in
      | apply Act.cons_in
      | apply Act.seq_in
      | (apply Act.get_in; intro _)
      | (apply Act.when_in; intro _)
      | apply Act.ite_in
      | (apply Act.each_in; intro _ _)
      | (exact Act.modStream_pieces (Foot.sub hL (by decide)))
      | (exact Act.stageWrite_pieces (Foot.sub hL (by decide)))
    | dsimp only
    | split

theorem Act.bufPeak_pieces {F : Foot} (hL : (Foot.whole [.regs]).le F) : (Act.bufPeak).In F := by
  unfold Act.bufPeak
  repeat' first
    | with_reducible first
      | exact Act.nil_in
      | exact Act.skip_in
      | apply Act.cons_in
      | apply Act.seq_in
      | (apply Act.get_in; intro _)
      | (apply Act.when_in; intro _)
      | apply Act.ite_in
      | (apply Act.each_in; intro _ _)
      | (exact Act.modF_in (Foot.has hL (by decide) _))
    | dsimp only
    | split

theorem Act.fhFormat_pieces {F : Foot} {c : Nat} (hL : (Foot.whole [.regs]).le F) : (Act.fhFormat c).In F := by
  unfold Act.fhFormat
  repeat' first
    | with_reducible first
      | exact Act.nil_in
      | exact Act.skip_in
      | apply Act.cons_in
      | apply Act.seq_in
      | (apply Act.get_in; intro _)
      | (apply Act.when_in; intro _)
      | apply Act.ite_in
      | (apply Act.each_in; intro _ _)
      | (exact Act.cellInc_pieces (Foot.sub hL (by decide)))
    | dsimp only
    | split

theorem Act.holdPrb_pieces {F : Foot} {c : Nat} {stream : Nat} {sec : Nat} {esn : Nat} {sym : Nat} {p : PrbData} (hL : (Foot.whole [.regs, .cells]).le F) : (Act.holdPrb c stream sec esn sym p).In F := by
  unfold Act.holdPrb
  repeat' first
    | with_reducible first
      | exact Act.nil_in
      | exact Act.skip_in
      | apply Act.cons_in
      | apply Act.seq_in
      | (apply Act.get_in; intro _)
      | (apply Act.when_in; intro _)
      | apply Act.ite_in
      | (apply Act.each_in; intro _ _)
      | (exact Act.cellInc_pieces (Foot.sub hL (by decide)))
      | (exact Act.fhFormat_pieces (Foot.sub hL (by decide)))
      | (exact Act.modStream_pieces (Foot.sub hL (by decide)))
    | dsimp only
    | split

theorem Act.holdPacket_pieces {F : Foot} {c : Nat} {pkt : UPacket} (hL : (Foot.whole [.regs, .mem, .errs, .lpErr, .chUe, .host, .store, .acc, .health, .leash, .trigs, .log, .recUsed, .recDrop, .cells, .cjobs, .dsps, .recd, .attn, .sigq, .flash, .free, .emitted]).le F) : (Act.holdPacket c pkt).In F := by
  unfold Act.holdPacket
  repeat' first
    | with_reducible first
      | exact Act.nil_in
      | exact Act.skip_in
      | apply Act.cons_in
      | apply Act.seq_in
      | (apply Act.get_in; intro _)
      | (apply Act.when_in; intro _)
      | apply Act.ite_in
      | (apply Act.each_in; intro _ _)
      | (exact Act.bufPeak_pieces (Foot.sub hL (by decide)))
      | (exact Act.holdPrb_pieces (Foot.sub hL (by decide)))
      | (exact Act.landSymbol_pieces (Foot.sub hL (by decide)))
      | (exact Act.modStream_pieces (Foot.sub hL (by decide)))
    | dsimp only
    | split

theorem frame_uplanePacketRx {s : State} (w : s.Wf) {port : Nat} {pkt : UPacket} : Framed (.whole [.regs, .mem, .errs, .lpErr, .chUe, .host, .store, .acc, .health, .leash, .trigs, .log, .recUsed, .recDrop, .cells, .cjobs, .dsps, .recd, .attn, .sigq, .flash, .free, .emitted]) (.uplanePacketRx port pkt) s := by
  have hL : (Foot.whole [.regs, .mem, .errs, .lpErr, .chUe, .host, .store, .acc, .health, .leash, .trigs, .log, .recUsed, .recDrop, .cells, .cjobs, .dsps, .recd, .attn, .sigq, .flash, .free, .emitted]).le (Foot.whole [.regs, .mem, .errs, .lpErr, .chUe, .host, .store, .acc, .health, .leash, .trigs, .log, .recUsed, .recDrop, .cells, .cjobs, .dsps, .recd, .attn, .sigq, .flash, .free, .emitted]) := Foot.le_refl
  refine framed_out w (o := execUplanePacketRx port pkt s) rfl ?_
  unfold execUplanePacketRx
  refine ⟨_, rfl, ?_⟩
  repeat' first
    | with_reducible first
      | exact Act.nil_in
      | exact Act.skip_in
      | apply Act.cons_in
      | apply Act.seq_in
      | (apply Act.get_in; intro _)
      | (apply Act.when_in; intro _)
      | apply Act.ite_in
      | (apply Act.each_in; intro _ _)
      | (exact Act.cellInc_pieces (Foot.sub hL (by decide)))
      | (exact Act.fhFormat_pieces (Foot.sub hL (by decide)))
      | (exact Act.holdPacket_pieces (Foot.sub hL (by decide)))
      | (exact Act.incF_in (Foot.has hL (by decide) _))
      | (exact Act.pmc_pieces (Foot.sub hL (by decide)))
    | split
    | with_reducible refine Act.let_in ?_

theorem Act.fhMissing_pieces {F : Foot} {key : Nat} {n : Nat} (hL : (Foot.whole [.regs]).le F) : (Act.fhMissing key n).In F := by
  unfold Act.fhMissing
  repeat' first
    | with_reducible first
      | exact Act.nil_in
      | exact Act.skip_in
      | apply Act.cons_in
      | apply Act.seq_in
      | (apply Act.get_in; intro _)
      | (apply Act.when_in; intro _)
      | apply Act.ite_in
      | (apply Act.each_in; intro _ _)
      | (exact Act.cellInc_pieces (Foot.sub hL (by decide)))
      | (exact Act.pmc_pieces (Foot.sub hL (by decide)))
    | dsimp only
    | split

theorem frame_receptionWindowClose {s : State} (w : s.Wf) {cell : Nat} {stream : Nat} {esn : Nat} {sym : Nat} : Framed (.whole [.regs, .mem, .errs, .lpErr, .chUe, .host, .store, .acc, .health, .leash, .trigs, .log, .recUsed, .recDrop, .cells, .cjobs, .dsps, .recd, .attn, .sigq, .flash, .free, .emitted]) (.receptionWindowClose cell stream esn sym) s := by
  have hL : (Foot.whole [.regs, .mem, .errs, .lpErr, .chUe, .host, .store, .acc, .health, .leash, .trigs, .log, .recUsed, .recDrop, .cells, .cjobs, .dsps, .recd, .attn, .sigq, .flash, .free, .emitted]).le (Foot.whole [.regs, .mem, .errs, .lpErr, .chUe, .host, .store, .acc, .health, .leash, .trigs, .log, .recUsed, .recDrop, .cells, .cjobs, .dsps, .recd, .attn, .sigq, .flash, .free, .emitted]) := Foot.le_refl
  refine framed_out w (o := execReceptionWindowClose cell stream esn sym s) rfl ?_
  unfold execReceptionWindowClose
  refine ⟨_, rfl, ?_⟩
  repeat' first
    | with_reducible first
      | exact Act.nil_in
      | exact Act.skip_in
      | apply Act.cons_in
      | apply Act.seq_in
      | (apply Act.get_in; intro _)
      | (apply Act.when_in; intro _)
      | apply Act.ite_in
      | (apply Act.each_in; intro _ _)
      | (exact Act.fhMissing_pieces (Foot.sub hL (by decide)))
      | (exact Act.landSymbol_pieces (Foot.sub hL (by decide)))
      | (exact Act.modStream_pieces (Foot.sub hL (by decide)))
    | dsimp only
    | split

theorem frame_oneWayDelayMeasurement {s : State} (w : s.Wf) {port : Nat} {body : List Byte} : Framed (.whole [.emitted]) (.oneWayDelayMeasurement port body) s := by
  have hL : (Foot.whole [.emitted]).le (Foot.whole [.emitted]) := Foot.le_refl
  refine framed_out w (o := execOneWayDelayMeasurement port body s) rfl ?_
  unfold execOneWayDelayMeasurement
  refine ⟨_, rfl, ?_⟩
  repeat' first
    | with_reducible first
      | exact Act.nil_in
      | exact Act.skip_in
      | apply Act.cons_in
      | apply Act.seq_in
      | (apply Act.get_in; intro _)
      | (apply Act.when_in; intro _)
      | apply Act.ite_in
      | (apply Act.each_in; intro _ _)
      | (exact Act.emit_in fun k => Foot.has hL (by decide) k)
    | dsimp only
    | split

theorem frame_tdUplinkSymbol {s : State} (w : s.Wf) {cell : Nat} {stream : Nat} {esn : Nat} {sym : Nat} : Framed (.whole [.regs, .mem, .errs, .lpErr, .chUe, .host, .store, .acc, .health, .leash, .trigs, .log, .recUsed, .recDrop, .cells, .cjobs, .dsps, .recd, .attn, .sigq, .flash, .free, .emitted]) (.tdUplinkSymbol cell stream esn sym) s := by
  have hL : (Foot.whole [.regs, .mem, .errs, .lpErr, .chUe, .host, .store, .acc, .health, .leash, .trigs, .log, .recUsed, .recDrop, .cells, .cjobs, .dsps, .recd, .attn, .sigq, .flash, .free, .emitted]).le (Foot.whole [.regs, .mem, .errs, .lpErr, .chUe, .host, .store, .acc, .health, .leash, .trigs, .log, .recUsed, .recDrop, .cells, .cjobs, .dsps, .recd, .attn, .sigq, .flash, .free, .emitted]) := Foot.le_refl
  refine framed_out w (o := execTdUplinkSymbol cell stream esn sym s) rfl ?_
  unfold execTdUplinkSymbol
  refine ⟨_, rfl, ?_⟩
  repeat' first
    | with_reducible first
      | exact Act.nil_in
      | exact Act.skip_in
      | apply Act.cons_in
      | apply Act.seq_in
      | (apply Act.get_in; intro _)
      | (apply Act.when_in; intro _)
      | apply Act.ite_in
      | (apply Act.each_in; intro _ _)
      | (exact Act.cellInc_pieces (Foot.sub hL (by decide)))
      | (exact Act.modStream_pieces (Foot.sub hL (by decide)))
      | (exact Act.stageWrite_pieces (Foot.sub hL (by decide)))
    | dsimp only
    | split

theorem frame_tdDownlinkSymbol {s : State} (w : s.Wf) {cell : Nat} {stream : Nat} {esn : Nat} {sym : Nat} : Framed (.whole [.regs, .mem, .errs, .lpErr, .chUe, .host, .store, .acc, .health, .leash, .trigs, .log, .recUsed, .recDrop, .cells, .cjobs, .dsps, .recd, .attn, .sigq, .flash, .free, .emitted]) (.tdDownlinkSymbol cell stream esn sym) s := by
  have hL : (Foot.whole [.regs, .mem, .errs, .lpErr, .chUe, .host, .store, .acc, .health, .leash, .trigs, .log, .recUsed, .recDrop, .cells, .cjobs, .dsps, .recd, .attn, .sigq, .flash, .free, .emitted]).le (Foot.whole [.regs, .mem, .errs, .lpErr, .chUe, .host, .store, .acc, .health, .leash, .trigs, .log, .recUsed, .recDrop, .cells, .cjobs, .dsps, .recd, .attn, .sigq, .flash, .free, .emitted]) := Foot.le_refl
  refine framed_out w (o := execTdDownlinkSymbol cell stream esn sym s) rfl ?_
  unfold execTdDownlinkSymbol
  refine ⟨_, rfl, ?_⟩
  repeat' first
    | with_reducible first
      | exact Act.nil_in
      | exact Act.skip_in
      | apply Act.cons_in
      | apply Act.seq_in
      | (apply Act.get_in; intro _)
      | (apply Act.when_in; intro _)
      | apply Act.ite_in
      | (apply Act.each_in; intro _ _)
      | (exact Act.cellInc_pieces (Foot.sub hL (by decide)))
      | (exact Act.modCells_in (Foot.has hL (by decide) _))
      | (refine Act.stageReads_pieces (Foot.sub hL (by decide)) ?_ <;> intros)
    | dsimp only
    | split

theorem Act.fhSend_pieces {F : Foot} {port : Nat} {hdr : List Nat} {body : List Byte} (hL : (Foot.whole [.regs, .emitted]).le F) : (Act.fhSend port hdr body).In F := by
  unfold Act.fhSend
  repeat' first
    | with_reducible first
      | exact Act.nil_in
      | exact Act.skip_in
      | apply Act.cons_in
      | apply Act.seq_in
      | (apply Act.get_in; intro _)
      | (apply Act.when_in; intro _)
      | apply Act.ite_in
      | (apply Act.each_in; intro _ _)
      | (exact Act.emit_in fun k => Foot.has hL (by decide) k)
      | (exact Act.pmc_pieces (Foot.sub hL (by decide)))
    | dsimp only
    | split

theorem Act.cplane_pieces {F : Foot} {x : CellSt} {t : SlotSt} {sym : Nat} (hL : (Foot.whole [.regs, .emitted]).le F) : (Act.cplane x t sym).In F := by
  unfold Act.cplane
  repeat' first
    | with_reducible first
      | exact Act.nil_in
      | exact Act.skip_in
      | apply Act.cons_in
      | apply Act.seq_in
      | (apply Act.get_in; intro _)
      | (apply Act.when_in; intro _)
      | apply Act.ite_in
      | (apply Act.each_in; intro _ _)
      | (exact Act.fhSend_pieces (Foot.sub hL (by decide)))
    | dsimp only
    | split

theorem Act.uplaneFd_pieces {F : Foot} {x : CellSt} {esn : Nat} {sym : Nat} {layer : Nat} (hL : (Foot.whole [.regs, .emitted]).le F) : (Act.uplaneFd x esn sym layer).In F := by
  unfold Act.uplaneFd
  repeat' first
    | with_reducible first
      | exact Act.nil_in
      | exact Act.skip_in
      | apply Act.cons_in
      | apply Act.seq_in
      | (apply Act.get_in; intro _)
      | (apply Act.when_in; intro _)
      | apply Act.ite_in
      | (apply Act.each_in; intro _ _)
      | (exact Act.fhSend_pieces (Foot.sub hL (by decide)))
    | dsimp only
    | split

theorem Act.uplaneTd_pieces {F : Foot} {x : CellSt} {esn : Nat} {sym : Nat} {layer : Nat} {samples : List (Int × Int)} (hL : (Foot.whole [.regs, .emitted]).le F) : (Act.uplaneTd x esn sym layer samples).In F := by
  unfold Act.uplaneTd
  repeat' first
    | with_reducible first
      | exact Act.nil_in
      | exact Act.skip_in
      | apply Act.cons_in
      | apply Act.seq_in
      | (apply Act.get_in; intro _)
      | (apply Act.when_in; intro _)
      | apply Act.ite_in
      | (apply Act.each_in; intro _ _)
      | (exact Act.fhSend_pieces (Foot.sub hL (by decide)))
    | dsimp only
    | split

theorem Act.uplaneTx_pieces {F : Foot} {x : CellSt} {t : SlotSt} {sym : Nat} (hL : (Foot.whole [.regs, .emitted]).le F) : (Act.uplaneTx x t sym).In F := by
  unfold Act.uplaneTx
  repeat' first
    | with_reducible first
      | exact Act.nil_in
      | exact Act.skip_in
      | apply Act.cons_in
      | apply Act.seq_in
      | (apply Act.get_in; intro _)
      | (apply Act.when_in; intro _)
      | apply Act.ite_in
      | (apply Act.each_in; intro _ _)
      | (exact Act.uplaneFd_pieces (Foot.sub hL (by decide)))
      | (exact Act.uplaneTd_pieces (Foot.sub hL (by decide)))
    | dsimp only
    | split

theorem Act.emitSyms_pieces {F : Foot} {c : Nat} {x : CellSt} {t : SlotSt} {incomplete : List Nat} {x0 : List Nat} (hL : (Foot.whole [.regs, .mem, .errs, .lpErr, .chUe, .host, .store, .acc, .health, .leash, .trigs, .log, .recUsed, .recDrop, .cells, .cjobs, .dsps, .recd, .attn, .sigq, .flash, .free, .emitted]).le F) : (Act.emitSyms c x t incomplete x0).In F := by
  induction x0 with
  | nil => exact Act.skip_in
  | cons x r ih =>
    unfold Act.emitSyms
    repeat' first
      | with_reducible first
        | exact Act.nil_in
        | exact Act.skip_in
        | apply Act.cons_in
        | apply Act.seq_in
        | (apply Act.get_in; intro _)
        | (apply Act.when_in; intro _)
        | apply Act.ite_in
        | (apply Act.each_in; intro _ _)
        | (exact Act.cellInc_pieces (Foot.sub hL (by decide)))
        | (exact Act.cellReset_pieces (Foot.sub hL (by decide)))
        | (refine Act.stageReads_pieces (Foot.sub hL (by decide)) ?_ <;> intros)
        | (exact Act.uplaneTx_pieces (Foot.sub hL (by decide)))
        | (apply ih)
      | dsimp only
      | split

theorem frame_dlEmit {s : State} (w : s.Wf) {cell : Nat} {esn : Nat} {incomplete : List Nat} : Framed (.whole [.regs, .mem, .errs, .lpErr, .chUe, .host, .store, .acc, .health, .leash, .trigs, .log, .recUsed, .recDrop, .cells, .cjobs, .dsps, .recd, .attn, .sigq, .flash, .free, .emitted]) (.dlEmit cell esn incomplete) s := by
  have hL : (Foot.whole [.regs, .mem, .errs, .lpErr, .chUe, .host, .store, .acc, .health, .leash, .trigs, .log, .recUsed, .recDrop, .cells, .cjobs, .dsps, .recd, .attn, .sigq, .flash, .free, .emitted]).le (Foot.whole [.regs, .mem, .errs, .lpErr, .chUe, .host, .store, .acc, .health, .leash, .trigs, .log, .recUsed, .recDrop, .cells, .cjobs, .dsps, .recd, .attn, .sigq, .flash, .free, .emitted]) := Foot.le_refl
  refine framed_out w (o := execDlEmit cell esn incomplete s) rfl ?_
  unfold execDlEmit
  refine ⟨_, rfl, ?_⟩
  repeat' first
    | with_reducible first
      | exact Act.nil_in
      | exact Act.skip_in
      | apply Act.cons_in
      | apply Act.seq_in
      | (apply Act.get_in; intro _)
      | (apply Act.when_in; intro _)
      | apply Act.ite_in
      | (apply Act.each_in; intro _ _)
      | (exact Act.cplane_pieces (Foot.sub hL (by decide)))
      | (exact Act.emitSyms_pieces (Foot.sub hL (by decide)))
      | (exact Act.modCells_in (Foot.has hL (by decide) _))
    | dsimp only
    | split

theorem frame_otherFrameRx {s : State} (w : s.Wf) {port : Nat} : Framed (.whole [.regs]) (.otherFrameRx port) s := by
  have hL : (Foot.whole [.regs]).le (Foot.whole [.regs]) := Foot.le_refl
  refine framed_out w (o := execOtherFrameRx port s) rfl ?_
  unfold execOtherFrameRx
  refine ⟨_, rfl, ?_⟩
  repeat' first
    | with_reducible first
      | exact Act.nil_in
      | exact Act.skip_in
      | apply Act.cons_in
      | apply Act.seq_in
      | (apply Act.get_in; intro _)
      | (apply Act.when_in; intro _)
      | apply Act.ite_in
      | (apply Act.each_in; intro _ _)
      | (exact Act.incF_in (Foot.has hL (by decide) _))
    | dsimp only
    | split

end Sys2Proof.Machine
end

