-- ==== Sys2Proof/Laws/PiecesSched.lean ====
section
/-! SUPPORT. The pieces of state that the operations of Machine/Sched.lean can write, and the frames of its commands. -/

set_option linter.unusedSimpArgs false

namespace Sys2Proof.Machine

theorem Act.kenStat_pieces {F : Foot} (hL : (Foot.whole [.regs]).le F) : (Act.kenStat).In F := by
  unfold Act.kenStat
  repeat' first
    | with_reducible first
      | exact Act.nil_in
      | exact Act.skip_in
      | apply Act.cons_in
      | apply Act.seq_in
      | (apply Act.get_in; intro _)
      | (apply Act.when_in; intro _)
      | apply Act.ite_in
      | (apply Act.each_in; intro _ _)
      | (exact Act.setF_in (Foot.has hL (by decide) _))
    | dsimp only
    | split

theorem Act.setTherm_pieces {F : Foot} {p : Nat} {tj : Nat} (hL : (Foot.whole [.regs, .host, .leash, .trigs, .log, .recUsed, .recDrop, .recd, .attn, .emitted]).le F) : (Act.setTherm p tj).In F := by
  unfold Act.setTherm
  repeat' first
    | with_reducible first
      | exact Act.nil_in
      | exact Act.skip_in
      | apply Act.cons_in
      | apply Act.seq_in
      | (apply Act.get_in; intro _)
      | (apply Act.when_in; intro _)
      | apply Act.ite_in
      | (apply Act.each_in; intro _ _)
      | (exact Act.record_pieces (Foot.sub hL (by decide)))
      | (exact Act.setF_in (Foot.has hL (by decide) _))
    | dsimp only
    | split

theorem Act.powerSplit_pieces {F : Foot} (hL : (Foot.whole [.regs]).le F) : (Act.powerSplit).In F := by
  unfold Act.powerSplit
  repeat' first
    | with_reducible first
      | exact Act.nil_in
      | exact Act.skip_in
      | apply Act.cons_in
      | apply Act.seq_in
      | (apply Act.get_in; intro _)
      | (apply Act.when_in; intro _)
      | apply Act.ite_in
      | (apply Act.each_in; intro _ _)
      | (exact Act.setF_in (Foot.has hL (by decide) _))
    | dsimp only
    | split

theorem Act.cellRegsReset_pieces {F : Foot} {c : Nat} (hL : (Foot.whole [.regs]).le F) : (Act.cellRegsReset c).In F := by
  unfold Act.cellRegsReset
  repeat' first
    | with_reducible first
      | exact Act.nil_in
      | exact Act.skip_in
      | apply Act.cons_in
      | apply Act.seq_in
      | (apply Act.get_in; intro _)
      | (apply Act.when_in; intro _)
      | apply Act.ite_in
      | (apply Act.each_in; intro _ _)
      | (exact Act.setRegs_in (Foot.has hL (by decide) _))
    | dsimp only
    | split

theorem Act.workMoves_pieces {F : Foot} {c : Nat} (hL : (Foot.whole [.ctxs, .cjobs, .dsps, .sigq]).le F) : (Act.workMoves c).In F := by
  unfold Act.workMoves
  repeat' first
    | with_reducible first
      | exact Act.nil_in
      | exact Act.skip_in
      | apply Act.cons_in
      | apply Act.seq_in
      | (apply Act.get_in; intro _)
      | (apply Act.when_in; intro _)
      | apply Act.ite_in
      | (apply Act.each_in; intro _ _)
      | (exact Act.modCtxs_in (Foot.has hL (by decide) _))
      | (exact Act.modDsps_in (Foot.has hL (by decide) _))
      | (exact Act.modSigq_in fun k => Foot.has hL (by decide) k)
      | (exact Act.setCjobs_in (Foot.has hL (by decide) _))
    | dsimp only
    | split

theorem Act.cellLeave_pieces {F : Foot} {c : Nat} (hL : (Foot.whole [.regs, .ctxs, .cells, .cjobs, .dsps, .sigq]).le F) : (Act.cellLeave c).In F := by
  unfold Act.cellLeave
  repeat' first
    | with_reducible first
      | exact Act.nil_in
      | exact Act.skip_in
      | apply Act.cons_in
      | apply Act.seq_in
      | (apply Act.get_in; intro _)
      | (apply Act.when_in; intro _)
      | apply Act.ite_in
      | (apply Act.each_in; intro _ _)
      | (exact Act.hqLeft_pieces (Foot.sub hL (by decide)))
      | (exact Act.setCells_in (Foot.has hL (by decide) _))
      | (exact Act.setHq_pieces (Foot.sub hL (by decide)))
      | (exact Act.workMoves_pieces (Foot.sub hL (by decide)))
    | dsimp only
    | split

theorem Act.cellInstall_pieces {F : Foot} {p : ApplySt} {r : List Nat} {base : Nat} {cluster : Nat} (hL : (Foot.whole [.regs, .cells]).le F) : (Act.cellInstall p r base cluster).In F := by
  unfold Act.cellInstall
  repeat' first
    | with_reducible first
      | exact Act.nil_in
      | exact Act.skip_in
      | apply Act.cons_in
      | apply Act.seq_in
      | (apply Act.get_in; intro _)
      | (apply Act.when_in; intro _)
      | apply Act.ite_in
      | (apply Act.each_in; intro _ _)
      | (exact Act.setCells_in (Foot.has hL (by decide) _))
      | (exact Act.setF_in (Foot.has hL (by decide) _))
    | dsimp only
    | split

theorem Act.applyCommit_pieces {F : Foot} {p : ApplySt} (hL : (Foot.whole [.regs, .ctxs, .parts, .cells, .cjobs, .dsps, .sigq, .radio]).le F) : (Act.applyCommit p).In F := by
  unfold Act.applyCommit
  repeat' first
    | with_reducible first
      | exact Act.nil_in
      | exact Act.skip_in
      | apply Act.cons_in
      | apply Act.seq_in
      | (apply Act.get_in; intro _)
      | (apply Act.when_in; intro _)
      | apply Act.ite_in
      | (apply Act.each_in; intro _ _)
      | (exact Act.cellInstall_pieces (Foot.sub hL (by decide)))
      | (exact Act.cellLeave_pieces (Foot.sub hL (by decide)))
      | (exact Act.cellRegsReset_pieces (Foot.sub hL (by decide)))
      | (exact Act.kenStat_pieces (Foot.sub hL (by decide)))
      | (exact Act.modCells_in (Foot.has hL (by decide) _))
      | (exact Act.modParts_in (Foot.has hL (by decide) _))
      | (exact Act.modRadio_in fun k => Foot.has hL (by decide) k)
      | (exact Act.radioActive_pieces (Foot.sub hL (by decide)))
      | (exact Act.setCells_in (Foot.has hL (by decide) _))
      | (exact Act.setF_in (Foot.has hL (by decide) _))
    | dsimp only
    | split

theorem Act.lastSwap_pieces {F : Foot} (hL : (Foot.whole [.regs, .ctxs, .parts, .cells, .cjobs, .dsps, .sigq, .radio, .last]).le F) : (Act.lastSwap).In F := by
  unfold Act.lastSwap
  repeat' first
    | with_reducible first
      | exact Act.nil_in
      | exact Act.skip_in
      | apply Act.cons_in
      | apply Act.seq_in
      | (apply Act.get_in; intro _)
      | (apply Act.when_in; intro _)
      | apply Act.ite_in
      | (apply Act.each_in; intro _ _)
      | (exact Act.applyCommit_pieces (Foot.sub hL (by decide)))
      | (exact Act.incF_in (Foot.has hL (by decide) _))
      | (exact Act.modF_in (Foot.has hL (by decide) _))
      | (exact Act.modLast_in fun k => Foot.has hL (by decide) k)
      | (exact Act.setF_in (Foot.has hL (by decide) _))
    | dsimp only
    | split

theorem Act.arm_pieces {F : Foot} {c : LastCopy} (hL : (Foot.whole [.regs, .last]).le F) : (Act.arm c).In F := by
  unfold Act.arm
  repeat' first
    | with_reducible first
      | exact Act.nil_in
      | exact Act.skip_in
      | apply Act.cons_in
      | apply Act.seq_in
      | (apply Act.get_in; intro _)
      | (apply Act.when_in; intro _)
      | apply Act.ite_in
      | (apply Act.each_in; intro _ _)
      | (exact Act.modLast_in fun k => Foot.has hL (by decide) k)
      | (exact Act.setF_in (Foot.has hL (by decide) _))
    | dsimp only
    | split

theorem Act.arrKeep_pieces {F : Foot} (hL : (Foot.whole [.last]).le F) : (Act.arrKeep).In F := by
  unfold Act.arrKeep
  repeat' first
    | with_reducible first
      | exact Act.nil_in
      | exact Act.skip_in
      | apply Act.cons_in
      | apply Act.seq_in
      | (apply Act.get_in; intro _)
      | (apply Act.when_in; intro _)
      | apply Act.ite_in
      | (apply Act.each_in; intro _ _)
      | (exact Act.modLast_in fun k => Foot.has hL (by decide) k)
    | dsimp only
    | split

theorem frame_periodBoundary {s : State} (w : s.Wf) {measW : Nat} : Framed (.whole [.regs, .host, .ctxs, .parts, .leash, .trigs, .log, .recUsed, .recDrop, .cells, .cjobs, .dsps, .recd, .attn, .sigq, .radio, .last, .emitted]) (.periodBoundary measW) s := by
  have hL : (Foot.whole [.regs, .host, .ctxs, .parts, .leash, .trigs, .log, .recUsed, .recDrop, .cells, .cjobs, .dsps, .recd, .attn, .sigq, .radio, .last, .emitted]).le (Foot.whole [.regs, .host, .ctxs, .parts, .leash, .trigs, .log, .recUsed, .recDrop, .cells, .cjobs, .dsps, .recd, .attn, .sigq, .radio, .last, .emitted]) := Foot.le_refl
  refine framed_out w (o := execPeriodBoundary measW s) rfl ?_
  unfold execPeriodBoundary
  refine ⟨_, rfl, ?_⟩
  repeat' first
    | with_reducible first
      | exact Act.nil_in
      | exact Act.skip_in
      | apply Act.cons_in
      | apply Act.seq_in
      | (apply Act.get_in; intro _)
      | (apply Act.when_in; intro _)
      | apply Act.ite_in
      | (apply Act.each_in; intro _ _)
      | (exact Act.arrKeep_pieces (Foot.sub hL (by decide)))
      | (exact Act.lastSwap_pieces (Foot.sub hL (by decide)))
      | (exact Act.modLast_in fun k => Foot.has hL (by decide) k)
      | (exact Act.powerSplit_pieces (Foot.sub hL (by decide)))
      | (exact Act.setF_in (Foot.has hL (by decide) _))
      | (exact Act.setTherm_pieces (Foot.sub hL (by decide)))
    | dsimp only
    | split

theorem Act.leftoverCount_pieces {F : Foot} {arr : Nat} (hL : (Foot.whole [.regs]).le F) : (Act.leftoverCount arr).In F := by
  unfold Act.leftoverCount
  repeat' first
    | with_reducible first
      | exact Act.nil_in
      | exact Act.skip_in
      | apply Act.cons_in
      | apply Act.seq_in
      | (apply Act.get_in; intro _)
      | (apply Act.when_in; intro _)
      | apply Act.ite_in
      | (apply Act.each_in; intro _ _)
      | (exact Act.pmc_pieces (Foot.sub hL (by decide)))
      | (exact Act.pmcCore_pieces (Foot.sub hL (by decide)))
    | dsimp only
    | split

theorem frame_stitchStart {s : State} (w : s.Wf) {n : Nat} : Framed (.whole [.regs, .radio, .last]) (.stitchStart n) s := by
  have hL : (Foot.whole [.regs, .radio, .last]).le (Foot.whole [.regs, .radio, .last]) := Foot.le_refl
  refine framed_out w (o := execStitchStart n s) rfl ?_
  unfold execStitchStart
  refine ⟨_, rfl, ?_⟩
  repeat' first
    | with_reducible first
      | exact Act.nil_in
      | exact Act.skip_in
      | apply Act.cons_in
      | apply Act.seq_in
      | (apply Act.get_in; intro _)
      | (apply Act.when_in; intro _)
      | apply Act.ite_in
      | (apply Act.each_in; intro _ _)
      | (exact Act.arrKeep_pieces (Foot.sub hL (by decide)))
      | (exact Act.incF_in (Foot.has hL (by decide) _))
      | (exact Act.leftoverCount_pieces (Foot.sub hL (by decide)))
      | (exact Act.modLast_in fun k => Foot.has hL (by decide) k)
      | (exact Act.modRadio_in fun k => Foot.has hL (by decide) k)
      | (exact Act.pmc_pieces (Foot.sub hL (by decide)))
      | (exact Act.setF_in (Foot.has hL (by decide) _))
    | dsimp only
    | split

theorem frame_lastRebuild {s : State} (w : s.Wf) {core : Nat} {arr : Nat} : Framed (.whole [.regs, .host, .leash, .trigs, .log, .recUsed, .recDrop, .recd, .attn, .last, .emitted]) (.lastRebuild core arr) s := by
  have hL : (Foot.whole [.regs, .host, .leash, .trigs, .log, .recUsed, .recDrop, .recd, .attn, .last, .emitted]).le (Foot.whole [.regs, .host, .leash, .trigs, .log, .recUsed, .recDrop, .recd, .attn, .last, .emitted]) := Foot.le_refl
  refine framed_out w (o := execLastRebuild core arr s) rfl ?_
  unfold execLastRebuild
  refine ⟨_, rfl, ?_⟩
  repeat' first
    | with_reducible first
      | exact Act.nil_in
      | exact Act.skip_in
      | apply Act.cons_in
      | apply Act.seq_in
      | (apply Act.get_in; intro _)
      | (apply Act.when_in; intro _)
      | apply Act.ite_in
      | (apply Act.each_in; intro _ _)
      | (exact Act.arm_pieces (Foot.sub hL (by decide)))
      | (exact Act.attnRadio_pieces (Foot.sub hL (by decide)))
      | (exact Act.modLast_in fun k => Foot.has hL (by decide) k)
      | (exact Act.record_pieces (Foot.sub hL (by decide)))
    | dsimp only
    | split

end Sys2Proof.Machine
end

