-- ==== Sys2Proof/Laws/PiecesJoreg.lean ====
section
/-! SUPPORT. The pieces of state that the operations of Machine/Joreg.lean can write, and the frames of its commands. -/

set_option linter.unusedSimpArgs false

namespace Sys2Proof.Machine

theorem Act.perform_pieces {F : Foot} {j : JCmd} {k : JCmd → Act} (hL : (Foot.whole [.regs, .mem, .errs, .lpErr, .chUe, .host, .store, .acc, .parts, .health, .leash, .trigs, .log, .recUsed, .recDrop, .recd, .attn, .flash, .emitted]).le F) (hc_k : ∀ y0, (k y0).In F) : (Act.perform j k).In F := by
  unfold Act.perform
  repeat' first
    | with_reducible first
      | exact Act.nil_in
      | exact Act.skip_in
      | apply Act.cons_in
      | apply Act.seq_in
      | (apply Act.get_in; intro _)
      | (apply Act.when_in; intro _)
      | apply Act.ite_in
      | (apply Act.each_in; intro _ _)
      | (exact Act.answer_pieces (Foot.sub hL (by decide)))
      | (exact Act.refuse_pieces (Foot.sub hL (by decide)))
      | exact hc_k _
    | dsimp only
    | split

theorem Act.mbRun_pieces {F : Foot} {mb : Nat} {op : Nat} {k : JCmd → Act} (hL : (Foot.whole [.regs, .mem, .errs, .lpErr, .chUe, .host, .store, .acc, .parts, .health, .leash, .trigs, .log, .recUsed, .recDrop, .recd, .attn, .flash, .emitted]).le F) (hc_k : ∀ y0, (k y0).In F) : (Act.mbRun mb op k).In F := by
  unfold Act.mbRun
  repeat' first
    | with_reducible first
      | exact Act.nil_in
      | exact Act.skip_in
      | apply Act.cons_in
      | apply Act.seq_in
      | (apply Act.get_in; intro _)
      | (apply Act.when_in; intro _)
      | apply Act.ite_in
      | (apply Act.each_in; intro _ _)
      | (refine Act.perform_pieces (Foot.sub hL (by decide)) ?_ <;> intros)
      | (exact Act.setRegs_in (Foot.has hL (by decide) _))
      | exact hc_k _
    | dsimp only
    | split

theorem Act.mbUnknown_pieces {F : Foot} {mb : Nat} (hL : (Foot.whole [.regs, .mem, .errs, .lpErr, .chUe, .host, .store, .acc, .parts, .health, .leash, .trigs, .log, .recUsed, .recDrop, .recd, .attn, .flash, .emitted]).le F) : (Act.mbUnknown mb).In F := by
  unfold Act.mbUnknown
  repeat' first
    | with_reducible first
      | exact Act.nil_in
      | exact Act.skip_in
      | apply Act.cons_in
      | apply Act.seq_in
      | (apply Act.get_in; intro _)
      | (apply Act.when_in; intro _)
      | apply Act.ite_in
      | (apply Act.each_in; intro _ _)
      | (refine Act.perform_pieces (Foot.sub hL (by decide)) ?_ <;> intros)
      | (exact Act.setRegs_in (Foot.has hL (by decide) _))
    | dsimp only
    | split

theorem Act.checks_pieces {F : Foot} {j : JCmd} {x0 : List (Bool × Nat × Nat)} {x1 : Act} (hL : (Foot.whole [.regs, .mem, .errs, .lpErr, .chUe, .host, .store, .acc, .parts, .health, .leash, .trigs, .log, .recUsed, .recDrop, .recd, .attn, .flash, .emitted]).le F) (hc_x1 : x1.In F) : (Act.checks j x0 x1).In F := by
  induction x0 with
  | nil => exact hc_x1
  | cons x r ih =>
    unfold Act.checks
    repeat' first
      | with_reducible first
        | exact Act.nil_in
        | exact Act.skip_in
        | apply Act.cons_in
        | apply Act.seq_in
        | (apply Act.get_in; intro _)
        | (apply Act.when_in; intro _)
        | apply Act.ite_in
        | (apply Act.each_in; intro _ _)
        | (exact Act.refuse_pieces (Foot.sub hL (by decide)))
        | (apply ih)
        | exact hc_x1
      | dsimp only
      | split

theorem Act.launch_pieces {F : Foot} {j : JCmd} {kind : Nat} {cpl : Nat} {cores : List Nat} {ken : Nat} {lp : Nat} {args : List Nat} {k : Launch → Act} (hL : (Foot.whole [.regs, .mem, .errs, .lpErr, .chUe, .host, .store, .acc, .parts, .health, .leash, .trigs, .log, .recUsed, .recDrop, .recd, .attn, .flash, .emitted]).le F) (hc_k : ∀ y0, (k y0).In F) : (Act.launch j kind cpl cores ken lp args k).In F := by
  unfold Act.launch
  repeat' first
    | with_reducible first
      | exact Act.nil_in
      | exact Act.skip_in
      | apply Act.cons_in
      | apply Act.seq_in
      | (apply Act.get_in; intro _)
      | (apply Act.when_in; intro _)
      | apply Act.ite_in
      | (apply Act.each_in; intro _ _)
      | (exact Act.modF_in (Foot.has hL (by decide) _))
      | (exact Act.modParts_in (Foot.has hL (by decide) _))
      | (exact Act.refuse_pieces (Foot.sub hL (by decide)))
      | (exact Act.reply_pieces (Foot.sub hL (by decide)))
      | (exact Act.setF_in (Foot.has hL (by decide) _))
      | exact hc_k _
    | dsimp only
    | split

theorem Act.setLaunch_pieces {F : Foot} {p : Nat} {l : Launch} (hL : (Foot.whole [.parts]).le F) : (Act.setLaunch p l).In F := by
  unfold Act.setLaunch
  repeat' first
    | with_reducible first
      | exact Act.nil_in
      | exact Act.skip_in
      | apply Act.cons_in
      | apply Act.seq_in
      | (apply Act.get_in; intro _)
      | (apply Act.when_in; intro _)
      | apply Act.ite_in
      | (apply Act.each_in; intro _ _)
      | (exact Act.modParts_in (Foot.has hL (by decide) _))
    | dsimp only
    | split

theorem Act.choice_pieces {F : Foot} {p : Nat} (hL : (Foot.whole [.regs, .parts]).le F) : (Act.choice p).In F := by
  unfold Act.choice
  repeat' first
    | with_reducible first
      | exact Act.nil_in
      | exact Act.skip_in
      | apply Act.cons_in
      | apply Act.seq_in
      | (apply Act.get_in; intro _)
      | (apply Act.when_in; intro _)
      | apply Act.ite_in
      | (apply Act.each_in; intro _ _)
      | (exact Act.modF_in (Foot.has hL (by decide) _))
      | (exact Act.modParts_in (Foot.has hL (by decide) _))
    | dsimp only
    | split

theorem Act.zeroMem_pieces {F : Foot} {a : Nat} {n : Nat} (hL : (Foot.whole [.mem, .errs, .lpErr]).le F) : (Act.zeroMem a n).In F := by
  unfold Act.zeroMem
  repeat' first
    | with_reducible first
      | exact Act.nil_in
      | exact Act.skip_in
      | apply Act.cons_in
      | apply Act.seq_in
      | (apply Act.get_in; intro _)
      | (apply Act.when_in; intro _)
      | apply Act.ite_in
      | (apply Act.each_in; intro _ _)
      | (exact Act.clearErrs_in fun k _ _ => Foot.has hL (by decide) k)
      | (exact Act.clearLpErr_in fun k _ _ => Foot.has hL (by decide) k)
      | (exact Act.clearMem_in fun k _ _ => Foot.has hL (by decide) k)
    | dsimp only
    | split

theorem Act.zeroQuarter_pieces {F : Foot} {i : Nat} (hL : (Foot.whole [.errs, .store, .acc, .anchors, .pend]).le F) : (Act.zeroQuarter i).In F := by
  unfold Act.zeroQuarter
  repeat' first
    | with_reducible first
      | exact Act.nil_in
      | exact Act.skip_in
      | apply Act.cons_in
      | apply Act.seq_in
      | (apply Act.get_in; intro _)
      | (apply Act.when_in; intro _)
      | apply Act.ite_in
      | (apply Act.each_in; intro _ _)
      | (exact Act.clearAcc_in fun k _ _ => Foot.has hL (by decide) k)
      | (exact Act.clearErrs_in fun k _ _ => Foot.has hL (by decide) k)
      | (exact Act.clearStore_in fun k _ _ => Foot.has hL (by decide) k)
      | (exact Act.quarterRelease_pieces (Foot.sub hL (by decide)))
    | dsimp only
    | split

theorem Act.setForce_pieces {F : Foot} {base : Nat} {p : Nat} (hL : (Foot.whole [.regs]).le F) : (Act.setForce base p).In F := by
  unfold Act.setForce
  repeat' first
    | with_reducible first
      | exact Act.nil_in
      | exact Act.skip_in
      | apply Act.cons_in
      | apply Act.seq_in
      | (apply Act.get_in; intro _)
      | (apply Act.when_in; intro _)
      | apply Act.ite_in
      | (apply Act.each_in; intro _ _)
      | (exact Act.setF_in (Foot.has hL (by decide) _))
    | dsimp only
    | split

theorem Act.setZero_pieces {F : Foot} {base : Nat} {holder : Option Nat} (hL : (Foot.whole [.regs]).le F) : (Act.setZero base holder).In F := by
  unfold Act.setZero
  repeat' first
    | with_reducible first
      | exact Act.nil_in
      | exact Act.skip_in
      | apply Act.cons_in
      | apply Act.seq_in
      | (apply Act.get_in; intro _)
      | (apply Act.when_in; intro _)
      | apply Act.ite_in
      | (apply Act.each_in; intro _ _)
      | (exact Act.setForce_pieces (Foot.sub hL (by decide)))
      | (exact Act.setRegs_in (Foot.has hL (by decide) _))
    | dsimp only
    | split

theorem Act.coreSetZero_pieces {F : Foot} {c : Nat} {holder : Option Nat} (hL : (Foot.whole [.regs]).le F) : (Act.coreSetZero c holder).In F := by
  unfold Act.coreSetZero
  repeat' first
    | with_reducible first
      | exact Act.nil_in
      | exact Act.skip_in
      | apply Act.cons_in
      | apply Act.seq_in
      | (apply Act.get_in; intro _)
      | (apply Act.when_in; intro _)
      | apply Act.ite_in
      | (apply Act.each_in; intro _ _)
      | (exact Act.setF_in (Foot.has hL (by decide) _))
      | (exact Act.setZero_pieces (Foot.sub hL (by decide)))
    | dsimp only
    | split

theorem Act.globalSetZero_pieces {F : Foot} {holder : Option Nat} {g : Nat} (hL : (Foot.whole [.regs]).le F) : (Act.globalSetZero holder g).In F := by
  unfold Act.globalSetZero
  repeat' first
    | with_reducible first
      | exact Act.nil_in
      | exact Act.skip_in
      | apply Act.cons_in
      | apply Act.seq_in
      | (apply Act.get_in; intro _)
      | (apply Act.when_in; intro _)
      | apply Act.ite_in
      | (apply Act.each_in; intro _ _)
      | (exact Act.setZero_pieces (Foot.sub hL (by decide)))
    | dsimp only
    | split

theorem Act.ctxGive_pieces {F : Foot} {p : Nat} {c : Nat} (hL : (Foot.whole [.regs, .ctxs]).le F) : (Act.ctxGive p c).In F := by
  unfold Act.ctxGive
  repeat' first
    | with_reducible first
      | exact Act.nil_in
      | exact Act.skip_in
      | apply Act.cons_in
      | apply Act.seq_in
      | (apply Act.get_in; intro _)
      | (apply Act.when_in; intro _)
      | apply Act.ite_in
      | (apply Act.each_in; intro _ _)
      | (exact Act.setCtxs_in (Foot.has hL (by decide) _))
      | (exact Act.setF_in (Foot.has hL (by decide) _))
    | dsimp only
    | split

theorem Act.ctxFree_pieces {F : Foot} {p : Nat} {c : Nat} (hL : (Foot.whole [.regs, .ctxs]).le F) : (Act.ctxFree p c).In F := by
  unfold Act.ctxFree
  repeat' first
    | with_reducible first
      | exact Act.nil_in
      | exact Act.skip_in
      | apply Act.cons_in
      | apply Act.seq_in
      | (apply Act.get_in; intro _)
      | (apply Act.when_in; intro _)
      | apply Act.ite_in
      | (apply Act.each_in; intro _ _)
      | (exact Act.setCtxs_in (Foot.has hL (by decide) _))
      | (exact Act.setRegs_in (Foot.has hL (by decide) _))
    | dsimp only
    | split

theorem Act.doDevInfo_pieces {F : Foot} {j : JCmd} (hL : (Foot.whole [.regs, .mem, .errs, .lpErr, .chUe, .host, .store, .acc, .parts, .health, .leash, .trigs, .log, .recUsed, .recDrop, .recd, .attn, .flash, .emitted]).le F) : (Act.doDevInfo j).In F := by
  unfold Act.doDevInfo
  repeat' first
    | with_reducible first
      | exact Act.nil_in
      | exact Act.skip_in
      | apply Act.cons_in
      | apply Act.seq_in
      | (apply Act.get_in; intro _)
      | (apply Act.when_in; intro _)
      | apply Act.ite_in
      | (apply Act.each_in; intro _ _)
      | (exact Act.replyOk_pieces (Foot.sub hL (by decide)))
    | dsimp only
    | split

theorem frame_devInfo {s : State} (w : s.Wf) {mb : Nat} : Framed (.whole [.regs, .mem, .errs, .lpErr, .chUe, .host, .store, .acc, .parts, .health, .leash, .trigs, .log, .recUsed, .recDrop, .recd, .attn, .flash, .emitted]) (.devInfo mb) s := by
  have hL : (Foot.whole [.regs, .mem, .errs, .lpErr, .chUe, .host, .store, .acc, .parts, .health, .leash, .trigs, .log, .recUsed, .recDrop, .recd, .attn, .flash, .emitted]).le (Foot.whole [.regs, .mem, .errs, .lpErr, .chUe, .host, .store, .acc, .parts, .health, .leash, .trigs, .log, .recUsed, .recDrop, .recd, .attn, .flash, .emitted]) := Foot.le_refl
  refine framed_out w (o := execDevInfo mb s) rfl ?_
  unfold execDevInfo
  refine ⟨_, rfl, ?_⟩
  repeat' first
    | with_reducible first
      | exact Act.nil_in
      | exact Act.skip_in
      | apply Act.cons_in
      | apply Act.seq_in
      | (apply Act.get_in; intro _)
      | (apply Act.when_in; intro _)
      | apply Act.ite_in
      | (apply Act.each_in; intro _ _)
      | (exact Act.doDevInfo_pieces (Foot.sub hL (by decide)))
      | (refine Act.mbRun_pieces (Foot.sub hL (by decide)) ?_ <;> intros)
    | dsimp only
    | split

theorem Act.doSliceCreate_pieces {F : Foot} {j : JCmd} (hL : (Foot.whole [.regs, .mem, .errs, .lpErr, .chUe, .host, .store, .acc, .ctxs, .parts, .health, .leash, .trigs, .log, .recUsed, .recDrop, .recd, .attn, .flash, .emitted]).le F) : (Act.doSliceCreate j).In F := by
  unfold Act.doSliceCreate
  repeat' first
    | with_reducible first
      | exact Act.nil_in
      | exact Act.skip_in
      | apply Act.cons_in
      | apply Act.seq_in
      | (apply Act.get_in; intro _)
      | (apply Act.when_in; intro _)
      | apply Act.ite_in
      | (apply Act.each_in; intro _ _)
      | (refine Act.checks_pieces (Foot.sub hL (by decide)) ?_ <;> intros)
      | (exact Act.clearRegs_in fun k _ _ => Foot.has hL (by decide) k)
      | (exact Act.coreSetZero_pieces (Foot.sub hL (by decide)))
      | (exact Act.ctxGive_pieces (Foot.sub hL (by decide)))
      | (exact Act.globalSetZero_pieces (Foot.sub hL (by decide)))
      | (exact Act.kenStat_pieces (Foot.sub hL (by decide)))
      | (exact Act.repRetarget_pieces (Foot.sub hL (by decide)))
      | (exact Act.replyOk_pieces (Foot.sub hL (by decide)))
      | (exact Act.setF_in (Foot.has hL (by decide) _))
      | (exact Act.setParts_in (Foot.has hL (by decide) _))
    | dsimp only
    | split

theorem frame_sliceCreate {s : State} (w : s.Wf) {mb : Nat} : Framed (.whole [.regs, .mem, .errs, .lpErr, .chUe, .host, .store, .acc, .ctxs, .parts, .health, .leash, .trigs, .log, .recUsed, .recDrop, .recd, .attn, .flash, .emitted]) (.sliceCreate mb) s := by
  have hL : (Foot.whole [.regs, .mem, .errs, .lpErr, .chUe, .host, .store, .acc, .ctxs, .parts, .health, .leash, .trigs, .log, .recUsed, .recDrop, .recd, .attn, .flash, .emitted]).le (Foot.whole [.regs, .mem, .errs, .lpErr, .chUe, .host, .store, .acc, .ctxs, .parts, .health, .leash, .trigs, .log, .recUsed, .recDrop, .recd, .attn, .flash, .emitted]) := Foot.le_refl
  refine framed_out w (o := execSliceCreate mb s) rfl ?_
  unfold execSliceCreate
  refine ⟨_, rfl, ?_⟩
  repeat' first
    | with_reducible first
      | exact Act.nil_in
      | exact Act.skip_in
      | apply Act.cons_in
      | apply Act.seq_in
      | (apply Act.get_in; intro _)
      | (apply Act.when_in; intro _)
      | apply Act.ite_in
      | (apply Act.each_in; intro _ _)
      | (exact Act.doSliceCreate_pieces (Foot.sub hL (by decide)))
      | (refine Act.mbRun_pieces (Foot.sub hL (by decide)) ?_ <;> intros)
    | dsimp only
    | split

theorem Act.sliceReturn_pieces {F : Foot} {n : Nat} (hL : (Foot.whole [.regs, .mem, .errs, .lpErr, .store, .acc, .anchors, .pend, .ctxs, .parts]).le F) : (Act.sliceReturn n).In F := by
  unfold Act.sliceReturn
  repeat' first
    | with_reducible first
      | exact Act.nil_in
      | exact Act.skip_in
      | apply Act.cons_in
      | apply Act.seq_in
      | (apply Act.get_in; intro _)
      | (apply Act.when_in; intro _)
      | apply Act.ite_in
      | (apply Act.each_in; intro _ _)
      | (exact Act.clearRegs_in fun k _ _ => Foot.has hL (by decide) k)
      | (exact Act.coreSetZero_pieces (Foot.sub hL (by decide)))
      | (exact Act.ctxFree_pieces (Foot.sub hL (by decide)))
      | (exact Act.globalSetZero_pieces (Foot.sub hL (by decide)))
      | (exact Act.kenStat_pieces (Foot.sub hL (by decide)))
      | (exact Act.modF_in (Foot.has hL (by decide) _))
      | (exact Act.repRetarget_pieces (Foot.sub hL (by decide)))
      | (exact Act.setF_in (Foot.has hL (by decide) _))
      | (exact Act.setParts_in (Foot.has hL (by decide) _))
      | (exact Act.setRegs_in (Foot.has hL (by decide) _))
      | (exact Act.zeroMem_pieces (Foot.sub hL (by decide)))
      | (exact Act.zeroQuarter_pieces (Foot.sub hL (by decide)))
    | dsimp only
    | split

theorem Act.doSliceDestroy_pieces {F : Foot} {j : JCmd} (hL : (Foot.whole [.regs, .mem, .errs, .lpErr, .chUe, .host, .store, .acc, .anchors, .pend, .ctxs, .arrs, .parts, .health, .leash, .trigs, .log, .recUsed, .recDrop, .engs, .conns, .bars, .hounds, .dumps, .recd, .attn, .sigq, .convq, .flash, .pairs, .emitted]).le F) : (Act.doSliceDestroy j).In F := by
  unfold Act.doSliceDestroy
  repeat' first
    | with_reducible first
      | exact Act.nil_in
      | exact Act.skip_in
      | apply Act.cons_in
      | apply Act.seq_in
      | (apply Act.get_in; intro _)
      | (apply Act.when_in; intro _)
      | apply Act.ite_in
      | (apply Act.each_in; intro _ _)
      | (refine Act.checks_pieces (Foot.sub hL (by decide)) ?_ <;> intros)
      | (exact Act.replyOk_pieces (Foot.sub hL (by decide)))
      | (exact Act.setRegs_in (Foot.has hL (by decide) _))
      | (exact Act.sliceResetMgr_pieces (Foot.sub hL (by decide)))
      | (exact Act.sliceReturn_pieces (Foot.sub hL (by decide)))
    | dsimp only
    | split

theorem frame_sliceDestroy {s : State} (w : s.Wf) {mb : Nat} : Framed (.whole [.regs, .mem, .errs, .lpErr, .chUe, .host, .store, .acc, .anchors, .pend, .ctxs, .arrs, .parts, .health, .leash, .trigs, .log, .recUsed, .recDrop, .engs, .conns, .bars, .hounds, .dumps, .recd, .attn, .sigq, .convq, .flash, .pairs, .emitted]) (.sliceDestroy mb) s := by
  have hL : (Foot.whole [.regs, .mem, .errs, .lpErr, .chUe, .host, .store, .acc, .anchors, .pend, .ctxs, .arrs, .parts, .health, .leash, .trigs, .log, .recUsed, .recDrop, .engs, .conns, .bars, .hounds, .dumps, .recd, .attn, .sigq, .convq, .flash, .pairs, .emitted]).le (Foot.whole [.regs, .mem, .errs, .lpErr, .chUe, .host, .store, .acc, .anchors, .pend, .ctxs, .arrs, .parts, .health, .leash, .trigs, .log, .recUsed, .recDrop, .engs, .conns, .bars, .hounds, .dumps, .recd, .attn, .sigq, .convq, .flash, .pairs, .emitted]) := Foot.le_refl
  refine framed_out w (o := execSliceDestroy mb s) rfl ?_
  unfold execSliceDestroy
  refine ⟨_, rfl, ?_⟩
  repeat' first
    | with_reducible first
      | exact Act.nil_in
      | exact Act.skip_in
      | apply Act.cons_in
      | apply Act.seq_in
      | (apply Act.get_in; intro _)
      | (apply Act.when_in; intro _)
      | apply Act.ite_in
      | (apply Act.each_in; intro _ _)
      | (exact Act.doSliceDestroy_pieces (Foot.sub hL (by decide)))
      | (refine Act.mbRun_pieces (Foot.sub hL (by decide)) ?_ <;> intros)
    | dsimp only
    | split

theorem Act.doSliceReset_pieces {F : Foot} {j : JCmd} (hL : (Foot.whole [.regs, .mem, .errs, .lpErr, .chUe, .host, .store, .acc, .anchors, .pend, .ctxs, .arrs, .parts, .health, .leash, .trigs, .log, .recUsed, .recDrop, .engs, .conns, .bars, .hounds, .dumps, .recd, .attn, .sigq, .convq, .flash, .pairs, .emitted]).le F) : (Act.doSliceReset j).In F := by
  unfold Act.doSliceReset
  repeat' first
    | with_reducible first
      | exact Act.nil_in
      | exact Act.skip_in
      | apply Act.cons_in
      | apply Act.seq_in
      | (apply Act.get_in; intro _)
      | (apply Act.when_in; intro _)
      | apply Act.ite_in
      | (apply Act.each_in; intro _ _)
      | (refine Act.checks_pieces (Foot.sub hL (by decide)) ?_ <;> intros)
      | (exact Act.replyOk_pieces (Foot.sub hL (by decide)))
      | (exact Act.sliceResetMgr_pieces (Foot.sub hL (by decide)))
    | dsimp only
    | split

theorem frame_sliceReset {s : State} (w : s.Wf) {mb : Nat} : Framed (.whole [.regs, .mem, .errs, .lpErr, .chUe, .host, .store, .acc, .anchors, .pend, .ctxs, .arrs, .parts, .health, .leash, .trigs, .log, .recUsed, .recDrop, .engs, .conns, .bars, .hounds, .dumps, .recd, .attn, .sigq, .convq, .flash, .pairs, .emitted]) (.sliceReset mb) s := by
  have hL : (Foot.whole [.regs, .mem, .errs, .lpErr, .chUe, .host, .store, .acc, .anchors, .pend, .ctxs, .arrs, .parts, .health, .leash, .trigs, .log, .recUsed, .recDrop, .engs, .conns, .bars, .hounds, .dumps, .recd, .attn, .sigq, .convq, .flash, .pairs, .emitted]).le (Foot.whole [.regs, .mem, .errs, .lpErr, .chUe, .host, .store, .acc, .anchors, .pend, .ctxs, .arrs, .parts, .health, .leash, .trigs, .log, .recUsed, .recDrop, .engs, .conns, .bars, .hounds, .dumps, .recd, .attn, .sigq, .convq, .flash, .pairs, .emitted]) := Foot.le_refl
  refine framed_out w (o := execSliceReset mb s) rfl ?_
  unfold execSliceReset
  refine ⟨_, rfl, ?_⟩
  repeat' first
    | with_reducible first
      | exact Act.nil_in
      | exact Act.skip_in
      | apply Act.cons_in
      | apply Act.seq_in
      | (apply Act.get_in; intro _)
      | (apply Act.when_in; intro _)
      | apply Act.ite_in
      | (apply Act.each_in; intro _ _)
      | (exact Act.doSliceReset_pieces (Foot.sub hL (by decide)))
      | (refine Act.mbRun_pieces (Foot.sub hL (by decide)) ?_ <;> intros)
    | dsimp only
    | split

theorem Act.doPasidBind_pieces {F : Foot} {j : JCmd} (hL : (Foot.whole [.regs, .mem, .errs, .lpErr, .chUe, .host, .store, .acc, .parts, .health, .leash, .trigs, .log, .recUsed, .recDrop, .recd, .attn, .flash, .emitted]).le F) : (Act.doPasidBind j).In F := by
  unfold Act.doPasidBind
  repeat' first
    | with_reducible first
      | exact Act.nil_in
      | exact Act.skip_in
      | apply Act.cons_in
      | apply Act.seq_in
      | (apply Act.get_in; intro _)
      | (apply Act.when_in; intro _)
      | apply Act.ite_in
      | (apply Act.each_in; intro _ _)
      | (refine Act.checks_pieces (Foot.sub hL (by decide)) ?_ <;> intros)
      | (exact Act.modParts_in (Foot.has hL (by decide) _))
      | (exact Act.replyOk_pieces (Foot.sub hL (by decide)))
    | dsimp only
    | split

theorem frame_pasidBind {s : State} (w : s.Wf) {mb : Nat} : Framed (.whole [.regs, .mem, .errs, .lpErr, .chUe, .host, .store, .acc, .parts, .health, .leash, .trigs, .log, .recUsed, .recDrop, .recd, .attn, .flash, .emitted]) (.pasidBind mb) s := by
  have hL : (Foot.whole [.regs, .mem, .errs, .lpErr, .chUe, .host, .store, .acc, .parts, .health, .leash, .trigs, .log, .recUsed, .recDrop, .recd, .attn, .flash, .emitted]).le (Foot.whole [.regs, .mem, .errs, .lpErr, .chUe, .host, .store, .acc, .parts, .health, .leash, .trigs, .log, .recUsed, .recDrop, .recd, .attn, .flash, .emitted]) := Foot.le_refl
  refine framed_out w (o := execPasidBind mb s) rfl ?_
  unfold execPasidBind
  refine ⟨_, rfl, ?_⟩
  repeat' first
    | with_reducible first
      | exact Act.nil_in
      | exact Act.skip_in
      | apply Act.cons_in
      | apply Act.seq_in
      | (apply Act.get_in; intro _)
      | (apply Act.when_in; intro _)
      | apply Act.ite_in
      | (apply Act.each_in; intro _ _)
      | (exact Act.doPasidBind_pieces (Foot.sub hL (by decide)))
      | (refine Act.mbRun_pieces (Foot.sub hL (by decide)) ?_ <;> intros)
    | dsimp only
    | split

theorem Act.doPasidUnbind_pieces {F : Foot} {j : JCmd} (hL : (Foot.whole [.regs, .mem, .errs, .lpErr, .chUe, .host, .store, .acc, .parts, .health, .leash, .trigs, .log, .recUsed, .recDrop, .recd, .attn, .flash, .emitted]).le F) : (Act.doPasidUnbind j).In F := by
  unfold Act.doPasidUnbind
  repeat' first
    | with_reducible first
      | exact Act.nil_in
      | exact Act.skip_in
      | apply Act.cons_in
      | apply Act.seq_in
      | (apply Act.get_in; intro _)
      | (apply Act.when_in; intro _)
      | apply Act.ite_in
      | (apply Act.each_in; intro _ _)
      | (refine Act.checks_pieces (Foot.sub hL (by decide)) ?_ <;> intros)
      | (exact Act.modParts_in (Foot.has hL (by decide) _))
      | (exact Act.replyOk_pieces (Foot.sub hL (by decide)))
    | dsimp only
    | split

theorem frame_pasidUnbind {s : State} (w : s.Wf) {mb : Nat} : Framed (.whole [.regs, .mem, .errs, .lpErr, .chUe, .host, .store, .acc, .parts, .health, .leash, .trigs, .log, .recUsed, .recDrop, .recd, .attn, .flash, .emitted]) (.pasidUnbind mb) s := by
  have hL : (Foot.whole [.regs, .mem, .errs, .lpErr, .chUe, .host, .store, .acc, .parts, .health, .leash, .trigs, .log, .recUsed, .recDrop, .recd, .attn, .flash, .emitted]).le (Foot.whole [.regs, .mem, .errs, .lpErr, .chUe, .host, .store, .acc, .parts, .health, .leash, .trigs, .log, .recUsed, .recDrop, .recd, .attn, .flash, .emitted]) := Foot.le_refl
  refine framed_out w (o := execPasidUnbind mb s) rfl ?_
  unfold execPasidUnbind
  refine ⟨_, rfl, ?_⟩
  repeat' first
    | with_reducible first
      | exact Act.nil_in
      | exact Act.skip_in
      | apply Act.cons_in
      | apply Act.seq_in
      | (apply Act.get_in; intro _)
      | (apply Act.when_in; intro _)
      | apply Act.ite_in
      | (apply Act.each_in; intro _ _)
      | (exact Act.doPasidUnbind_pieces (Foot.sub hL (by decide)))
      | (refine Act.mbRun_pieces (Foot.sub hL (by decide)) ?_ <;> intros)
    | dsimp only
    | split

theorem Act.doSliceQuery_pieces {F : Foot} {j : JCmd} (hL : (Foot.whole [.regs, .mem, .errs, .lpErr, .chUe, .host, .store, .acc, .parts, .health, .leash, .trigs, .log, .recUsed, .recDrop, .recd, .attn, .flash, .emitted]).le F) : (Act.doSliceQuery j).In F := by
  unfold Act.doSliceQuery
  repeat' first
    | with_reducible first
      | exact Act.nil_in
      | exact Act.skip_in
      | apply Act.cons_in
      | apply Act.seq_in
      | (apply Act.get_in; intro _)
      | (apply Act.when_in; intro _)
      | apply Act.ite_in
      | (apply Act.each_in; intro _ _)
      | (refine Act.checks_pieces (Foot.sub hL (by decide)) ?_ <;> intros)
      | (exact Act.replyOut_pieces (Foot.sub hL (by decide)))
    | dsimp only
    | split

theorem frame_sliceQuery {s : State} (w : s.Wf) {mb : Nat} : Framed (.whole [.regs, .mem, .errs, .lpErr, .chUe, .host, .store, .acc, .parts, .health, .leash, .trigs, .log, .recUsed, .recDrop, .recd, .attn, .flash, .emitted]) (.sliceQuery mb) s := by
  have hL : (Foot.whole [.regs, .mem, .errs, .lpErr, .chUe, .host, .store, .acc, .parts, .health, .leash, .trigs, .log, .recUsed, .recDrop, .recd, .attn, .flash, .emitted]).le (Foot.whole [.regs, .mem, .errs, .lpErr, .chUe, .host, .store, .acc, .parts, .health, .leash, .trigs, .log, .recUsed, .recDrop, .recd, .attn, .flash, .emitted]) := Foot.le_refl
  refine framed_out w (o := execSliceQuery mb s) rfl ?_
  unfold execSliceQuery
  refine ⟨_, rfl, ?_⟩
  repeat' first
    | with_reducible first
      | exact Act.nil_in
      | exact Act.skip_in
      | apply Act.cons_in
      | apply Act.seq_in
      | (apply Act.get_in; intro _)
      | (apply Act.when_in; intro _)
      | apply Act.ite_in
      | (apply Act.each_in; intro _ _)
      | (exact Act.doSliceQuery_pieces (Foot.sub hL (by decide)))
      | (refine Act.mbRun_pieces (Foot.sub hL (by decide)) ?_ <;> intros)
    | dsimp only
    | split

theorem Act.doArrayMove_pieces {F : Foot} {j : JCmd} (hL : (Foot.whole [.regs, .mem, .errs, .lpErr, .chUe, .host, .store, .acc, .anchors, .pend, .ctxs, .parts, .health, .leash, .trigs, .log, .recUsed, .recDrop, .recd, .attn, .flash, .emitted]).le F) : (Act.doArrayMove j).In F := by
  unfold Act.doArrayMove
  repeat' first
    | with_reducible first
      | exact Act.nil_in
      | exact Act.skip_in
      | apply Act.cons_in
      | apply Act.seq_in
      | (apply Act.get_in; intro _)
      | (apply Act.when_in; intro _)
      | apply Act.ite_in
      | (apply Act.each_in; intro _ _)
      | (refine Act.checks_pieces (Foot.sub hL (by decide)) ?_ <;> intros)
      | (exact Act.ctxFree_pieces (Foot.sub hL (by decide)))
      | (exact Act.ctxGive_pieces (Foot.sub hL (by decide)))
      | (exact Act.modParts_in (Foot.has hL (by decide) _))
      | (exact Act.repRetarget_pieces (Foot.sub hL (by decide)))
      | (exact Act.replyOk_pieces (Foot.sub hL (by decide)))
      | (exact Act.setF_in (Foot.has hL (by decide) _))
      | (exact Act.setForce_pieces (Foot.sub hL (by decide)))
      | (exact Act.zeroQuarter_pieces (Foot.sub hL (by decide)))
    | dsimp only
    | split

theorem frame_arrayMove {s : State} (w : s.Wf) {mb : Nat} : Framed (.whole [.regs, .mem, .errs, .lpErr, .chUe, .host, .store, .acc, .anchors, .pend, .ctxs, .parts, .health, .leash, .trigs, .log, .recUsed, .recDrop, .recd, .attn, .flash, .emitted]) (.arrayMove mb) s := by
  have hL : (Foot.whole [.regs, .mem, .errs, .lpErr, .chUe, .host, .store, .acc, .anchors, .pend, .ctxs, .parts, .health, .leash, .trigs, .log, .recUsed, .recDrop, .recd, .attn, .flash, .emitted]).le (Foot.whole [.regs, .mem, .errs, .lpErr, .chUe, .host, .store, .acc, .anchors, .pend, .ctxs, .parts, .health, .leash, .trigs, .log, .recUsed, .recDrop, .recd, .attn, .flash, .emitted]) := Foot.le_refl
  refine framed_out w (o := execArrayMove mb s) rfl ?_
  unfold execArrayMove
  refine ⟨_, rfl, ?_⟩
  repeat' first
    | with_reducible first
      | exact Act.nil_in
      | exact Act.skip_in
      | apply Act.cons_in
      | apply Act.seq_in
      | (apply Act.get_in; intro _)
      | (apply Act.when_in; intro _)
      | apply Act.ite_in
      | (apply Act.each_in; intro _ _)
      | (exact Act.doArrayMove_pieces (Foot.sub hL (by decide)))
      | (refine Act.mbRun_pieces (Foot.sub hL (by decide)) ?_ <;> intros)
    | dsimp only
    | split

theorem Act.ctxStart_pieces {F : Foot} {p : Nat} {c : Nat} {pc : Nat} {h : Nat} (hL : (Foot.whole [.regs, .ctxs]).le F) : (Act.ctxStart p c pc h).In F := by
  unfold Act.ctxStart
  repeat' first
    | with_reducible first
      | exact Act.nil_in
      | exact Act.skip_in
      | apply Act.cons_in
      | apply Act.seq_in
      | (apply Act.get_in; intro _)
      | (apply Act.when_in; intro _)
      | apply Act.ite_in
      | (apply Act.each_in; intro _ _)
      | (exact Act.ctxBegin_pieces (Foot.sub hL (by decide)))
    | dsimp only
    | split

theorem Act.doCtxStart_pieces {F : Foot} {j : JCmd} (hL : (Foot.whole [.regs, .mem, .errs, .lpErr, .chUe, .host, .store, .acc, .ctxs, .parts, .health, .leash, .trigs, .log, .recUsed, .recDrop, .recd, .attn, .flash, .emitted]).le F) : (Act.doCtxStart j).In F := by
  unfold Act.doCtxStart
  repeat' first
    | with_reducible first
      | exact Act.nil_in
      | exact Act.skip_in
      | apply Act.cons_in
      | apply Act.seq_in
      | (apply Act.get_in; intro _)
      | (apply Act.when_in; intro _)
      | apply Act.ite_in
      | (apply Act.each_in; intro _ _)
      | (refine Act.checks_pieces (Foot.sub hL (by decide)) ?_ <;> intros)
      | (exact Act.ctxStart_pieces (Foot.sub hL (by decide)))
      | (refine Act.launch_pieces (Foot.sub hL (by decide)) ?_ <;> intros)
    | dsimp only
    | split

theorem frame_ctxStart {s : State} (w : s.Wf) {mb : Nat} : Framed (.whole [.regs, .mem, .errs, .lpErr, .chUe, .host, .store, .acc, .ctxs, .parts, .health, .leash, .trigs, .log, .recUsed, .recDrop, .recd, .attn, .flash, .emitted]) (.ctxStart mb) s := by
  have hL : (Foot.whole [.regs, .mem, .errs, .lpErr, .chUe, .host, .store, .acc, .ctxs, .parts, .health, .leash, .trigs, .log, .recUsed, .recDrop, .recd, .attn, .flash, .emitted]).le (Foot.whole [.regs, .mem, .errs, .lpErr, .chUe, .host, .store, .acc, .ctxs, .parts, .health, .leash, .trigs, .log, .recUsed, .recDrop, .recd, .attn, .flash, .emitted]) := Foot.le_refl
  refine framed_out w (o := execCtxStart mb s) rfl ?_
  unfold execCtxStart
  refine ⟨_, rfl, ?_⟩
  repeat' first
    | with_reducible first
      | exact Act.nil_in
      | exact Act.skip_in
      | apply Act.cons_in
      | apply Act.seq_in
      | (apply Act.get_in; intro _)
      | (apply Act.when_in; intro _)
      | apply Act.ite_in
      | (apply Act.each_in; intro _ _)
      | (exact Act.doCtxStart_pieces (Foot.sub hL (by decide)))
      | (refine Act.mbRun_pieces (Foot.sub hL (by decide)) ?_ <;> intros)
    | dsimp only
    | split

theorem Act.doCtxStop_pieces {F : Foot} {j : JCmd} (hL : (Foot.whole [.regs, .mem, .errs, .lpErr, .chUe, .host, .store, .acc, .anchors, .pend, .ctxs, .arrs, .parts, .health, .leash, .trigs, .log, .recUsed, .recDrop, .engs, .conns, .bars, .hounds, .dumps, .recd, .attn, .sigq, .convq, .flash, .pairs, .emitted]).le F) : (Act.doCtxStop j).In F := by
  unfold Act.doCtxStop
  repeat' first
    | with_reducible first
      | exact Act.nil_in
      | exact Act.skip_in
      | apply Act.cons_in
      | apply Act.seq_in
      | (apply Act.get_in; intro _)
      | (apply Act.when_in; intro _)
      | apply Act.ite_in
      | (apply Act.each_in; intro _ _)
      | (refine Act.checks_pieces (Foot.sub hL (by decide)) ?_ <;> intros)
      | (exact Act.choice_pieces (Foot.sub hL (by decide)))
      | (exact Act.ctxDone_pieces (Foot.sub hL (by decide)))
      | (exact Act.modCtxs_in (Foot.has hL (by decide) _))
      | (exact Act.replyOk_pieces (Foot.sub hL (by decide)))
    | dsimp only
    | split

theorem frame_ctxStop {s : State} (w : s.Wf) {mb : Nat} : Framed (.whole [.regs, .mem, .errs, .lpErr, .chUe, .host, .store, .acc, .anchors, .pend, .ctxs, .arrs, .parts, .health, .leash, .trigs, .log, .recUsed, .recDrop, .engs, .conns, .bars, .hounds, .dumps, .recd, .attn, .sigq, .convq, .flash, .pairs, .emitted]) (.ctxStop mb) s := by
  have hL : (Foot.whole [.regs, .mem, .errs, .lpErr, .chUe, .host, .store, .acc, .anchors, .pend, .ctxs, .arrs, .parts, .health, .leash, .trigs, .log, .recUsed, .recDrop, .engs, .conns, .bars, .hounds, .dumps, .recd, .attn, .sigq, .convq, .flash, .pairs, .emitted]).le (Foot.whole [.regs, .mem, .errs, .lpErr, .chUe, .host, .store, .acc, .anchors, .pend, .ctxs, .arrs, .parts, .health, .leash, .trigs, .log, .recUsed, .recDrop, .engs, .conns, .bars, .hounds, .dumps, .recd, .attn, .sigq, .convq, .flash, .pairs, .emitted]) := Foot.le_refl
  refine framed_out w (o := execCtxStop mb s) rfl ?_
  unfold execCtxStop
  refine ⟨_, rfl, ?_⟩
  repeat' first
    | with_reducible first
      | exact Act.nil_in
      | exact Act.skip_in
      | apply Act.cons_in
      | apply Act.seq_in
      | (apply Act.get_in; intro _)
      | (apply Act.when_in; intro _)
      | apply Act.ite_in
      | (apply Act.each_in; intro _ _)
      | (exact Act.doCtxStop_pieces (Foot.sub hL (by decide)))
      | (refine Act.mbRun_pieces (Foot.sub hL (by decide)) ?_ <;> intros)
    | dsimp only
    | split

theorem Act.doListSubmit_pieces {F : Foot} {j : JCmd} (hL : (Foot.whole [.regs, .mem, .errs, .lpErr, .chUe, .host, .store, .acc, .parts, .health, .leash, .trigs, .log, .recUsed, .recDrop, .recd, .attn, .flash, .emitted]).le F) : (Act.doListSubmit j).In F := by
  unfold Act.doListSubmit
  repeat' first
    | with_reducible first
      | exact Act.nil_in
      | exact Act.skip_in
      | apply Act.cons_in
      | apply Act.seq_in
      | (apply Act.get_in; intro _)
      | (apply Act.when_in; intro _)
      | apply Act.ite_in
      | (apply Act.each_in; intro _ _)
      | (refine Act.checks_pieces (Foot.sub hL (by decide)) ?_ <;> intros)
      | (refine Act.launch_pieces (Foot.sub hL (by decide)) ?_ <;> intros)
      | (exact Act.modParts_in (Foot.has hL (by decide) _))
    | dsimp only
    | split

theorem frame_listSubmit {s : State} (w : s.Wf) {mb : Nat} : Framed (.whole [.regs, .mem, .errs, .lpErr, .chUe, .host, .store, .acc, .parts, .health, .leash, .trigs, .log, .recUsed, .recDrop, .recd, .attn, .flash, .emitted]) (.listSubmit mb) s := by
  have hL : (Foot.whole [.regs, .mem, .errs, .lpErr, .chUe, .host, .store, .acc, .parts, .health, .leash, .trigs, .log, .recUsed, .recDrop, .recd, .attn, .flash, .emitted]).le (Foot.whole [.regs, .mem, .errs, .lpErr, .chUe, .host, .store, .acc, .parts, .health, .leash, .trigs, .log, .recUsed, .recDrop, .recd, .attn, .flash, .emitted]) := Foot.le_refl
  refine framed_out w (o := execListSubmit mb s) rfl ?_
  unfold execListSubmit
  refine ⟨_, rfl, ?_⟩
  repeat' first
    | with_reducible first
      | exact Act.nil_in
      | exact Act.skip_in
      | apply Act.cons_in
      | apply Act.seq_in
      | (apply Act.get_in; intro _)
      | (apply Act.when_in; intro _)
      | apply Act.ite_in
      | (apply Act.each_in; intro _ _)
      | (exact Act.doListSubmit_pieces (Foot.sub hL (by decide)))
      | (refine Act.mbRun_pieces (Foot.sub hL (by decide)) ?_ <;> intros)
    | dsimp only
    | split

theorem Act.doBatchSubmit_pieces {F : Foot} {j : JCmd} (hL : (Foot.whole [.regs, .mem, .errs, .lpErr, .chUe, .host, .store, .acc, .ctxs, .parts, .health, .leash, .trigs, .log, .recUsed, .recDrop, .recd, .attn, .flash, .emitted]).le F) : (Act.doBatchSubmit j).In F := by
  unfold Act.doBatchSubmit
  repeat' first
    | with_reducible first
      | exact Act.nil_in
      | exact Act.skip_in
      | apply Act.cons_in
      | apply Act.seq_in
      | (apply Act.get_in; intro _)
      | (apply Act.when_in; intro _)
      | apply Act.ite_in
      | (apply Act.each_in; intro _ _)
      | (refine Act.checks_pieces (Foot.sub hL (by decide)) ?_ <;> intros)
      | (exact Act.ctxStart_pieces (Foot.sub hL (by decide)))
      | (refine Act.launch_pieces (Foot.sub hL (by decide)) ?_ <;> intros)
      | (refine Act.spaceRead_pieces (Foot.sub hL (by decide)) ?_ <;> intros)
    | dsimp only
    | split

theorem frame_batchSubmit {s : State} (w : s.Wf) {mb : Nat} : Framed (.whole [.regs, .mem, .errs, .lpErr, .chUe, .host, .store, .acc, .ctxs, .parts, .health, .leash, .trigs, .log, .recUsed, .recDrop, .recd, .attn, .flash, .emitted]) (.batchSubmit mb) s := by
  have hL : (Foot.whole [.regs, .mem, .errs, .lpErr, .chUe, .host, .store, .acc, .ctxs, .parts, .health, .leash, .trigs, .log, .recUsed, .recDrop, .recd, .attn, .flash, .emitted]).le (Foot.whole [.regs, .mem, .errs, .lpErr, .chUe, .host, .store, .acc, .ctxs, .parts, .health, .leash, .trigs, .log, .recUsed, .recDrop, .recd, .attn, .flash, .emitted]) := Foot.le_refl
  refine framed_out w (o := execBatchSubmit mb s) rfl ?_
  unfold execBatchSubmit
  refine ⟨_, rfl, ?_⟩
  repeat' first
    | with_reducible first
      | exact Act.nil_in
      | exact Act.skip_in
      | apply Act.cons_in
      | apply Act.seq_in
      | (apply Act.get_in; intro _)
      | (apply Act.when_in; intro _)
      | apply Act.ite_in
      | (apply Act.each_in; intro _ _)
      | (exact Act.doBatchSubmit_pieces (Foot.sub hL (by decide)))
      | (refine Act.mbRun_pieces (Foot.sub hL (by decide)) ?_ <;> intros)
    | dsimp only
    | split

theorem Act.doBatchAbort_pieces {F : Foot} {j : JCmd} (hL : (Foot.whole [.regs, .mem, .errs, .lpErr, .chUe, .host, .store, .acc, .anchors, .pend, .ctxs, .arrs, .parts, .health, .leash, .trigs, .log, .recUsed, .recDrop, .engs, .conns, .bars, .hounds, .dumps, .recd, .attn, .sigq, .convq, .flash, .pairs, .emitted]).le F) : (Act.doBatchAbort j).In F := by
  unfold Act.doBatchAbort
  repeat' first
    | with_reducible first
      | exact Act.nil_in
      | exact Act.skip_in
      | apply Act.cons_in
      | apply Act.seq_in
      | (apply Act.get_in; intro _)
      | (apply Act.when_in; intro _)
      | apply Act.ite_in
      | (apply Act.each_in; intro _ _)
      | (exact Act.choice_pieces (Foot.sub hL (by decide)))
      | (exact Act.ctxDone_pieces (Foot.sub hL (by decide)))
      | (exact Act.reply_pieces (Foot.sub hL (by decide)))
      | (exact Act.replyOk_pieces (Foot.sub hL (by decide)))
    | dsimp only
    | split

theorem frame_batchAbort {s : State} (w : s.Wf) {mb : Nat} : Framed (.whole [.regs, .mem, .errs, .lpErr, .chUe, .host, .store, .acc, .anchors, .pend, .ctxs, .arrs, .parts, .health, .leash, .trigs, .log, .recUsed, .recDrop, .engs, .conns, .bars, .hounds, .dumps, .recd, .attn, .sigq, .convq, .flash, .pairs, .emitted]) (.batchAbort mb) s := by
  have hL : (Foot.whole [.regs, .mem, .errs, .lpErr, .chUe, .host, .store, .acc, .anchors, .pend, .ctxs, .arrs, .parts, .health, .leash, .trigs, .log, .recUsed, .recDrop, .engs, .conns, .bars, .hounds, .dumps, .recd, .attn, .sigq, .convq, .flash, .pairs, .emitted]).le (Foot.whole [.regs, .mem, .errs, .lpErr, .chUe, .host, .store, .acc, .anchors, .pend, .ctxs, .arrs, .parts, .health, .leash, .trigs, .log, .recUsed, .recDrop, .engs, .conns, .bars, .hounds, .dumps, .recd, .attn, .sigq, .convq, .flash, .pairs, .emitted]) := Foot.le_refl
  refine framed_out w (o := execBatchAbort mb s) rfl ?_
  unfold execBatchAbort
  refine ⟨_, rfl, ?_⟩
  repeat' first
    | with_reducible first
      | exact Act.nil_in
      | exact Act.skip_in
      | apply Act.cons_in
      | apply Act.seq_in
      | (apply Act.get_in; intro _)
      | (apply Act.when_in; intro _)
      | apply Act.ite_in
      | (apply Act.each_in; intro _ _)
      | (exact Act.doBatchAbort_pieces (Foot.sub hL (by decide)))
      | (refine Act.mbRun_pieces (Foot.sub hL (by decide)) ?_ <;> intros)
    | dsimp only
    | split

theorem Act.listEnd_pieces {F : Foot} {p : Nat} {h : Nat} {status : Nat} (hL : (Foot.whole [.regs, .mem, .errs, .lpErr, .chUe, .host, .store, .acc, .anchors, .pend, .ctxs, .arrs, .parts, .health, .leash, .trigs, .log, .recUsed, .recDrop, .engs, .conns, .bars, .hounds, .dumps, .recd, .attn, .sigq, .convq, .flash, .pairs, .emitted]).le F) : (Act.listEnd p h status).In F := by
  unfold Act.listEnd
  repeat' first
    | with_reducible first
      | exact Act.nil_in
      | exact Act.skip_in
      | apply Act.cons_in
      | apply Act.seq_in
      | (apply Act.get_in; intro _)
      | (apply Act.when_in; intro _)
      | apply Act.ite_in
      | (apply Act.each_in; intro _ _)
      | (exact Act.finish_pieces (Foot.sub hL (by decide)))
      | (exact Act.modParts_in (Foot.has hL (by decide) _))
    | dsimp only
    | split

theorem Act.doListAbort_pieces {F : Foot} {j : JCmd} (hL : (Foot.whole [.regs, .mem, .errs, .lpErr, .chUe, .host, .store, .acc, .anchors, .pend, .ctxs, .arrs, .parts, .health, .leash, .trigs, .log, .recUsed, .recDrop, .engs, .conns, .bars, .hounds, .dumps, .recd, .attn, .sigq, .convq, .flash, .pairs, .emitted]).le F) : (Act.doListAbort j).In F := by
  unfold Act.doListAbort
  repeat' first
    | with_reducible first
      | exact Act.nil_in
      | exact Act.skip_in
      | apply Act.cons_in
      | apply Act.seq_in
      | (apply Act.get_in; intro _)
      | (apply Act.when_in; intro _)
      | apply Act.ite_in
      | (apply Act.each_in; intro _ _)
      | (exact Act.choice_pieces (Foot.sub hL (by decide)))
      | (exact Act.listEnd_pieces (Foot.sub hL (by decide)))
      | (exact Act.reply_pieces (Foot.sub hL (by decide)))
      | (exact Act.replyOk_pieces (Foot.sub hL (by decide)))
    | dsimp only
    | split

theorem frame_listAbort {s : State} (w : s.Wf) {mb : Nat} : Framed (.whole [.regs, .mem, .errs, .lpErr, .chUe, .host, .store, .acc, .anchors, .pend, .ctxs, .arrs, .parts, .health, .leash, .trigs, .log, .recUsed, .recDrop, .engs, .conns, .bars, .hounds, .dumps, .recd, .attn, .sigq, .convq, .flash, .pairs, .emitted]) (.listAbort mb) s := by
  have hL : (Foot.whole [.regs, .mem, .errs, .lpErr, .chUe, .host, .store, .acc, .anchors, .pend, .ctxs, .arrs, .parts, .health, .leash, .trigs, .log, .recUsed, .recDrop, .engs, .conns, .bars, .hounds, .dumps, .recd, .attn, .sigq, .convq, .flash, .pairs, .emitted]).le (Foot.whole [.regs, .mem, .errs, .lpErr, .chUe, .host, .store, .acc, .anchors, .pend, .ctxs, .arrs, .parts, .health, .leash, .trigs, .log, .recUsed, .recDrop, .engs, .conns, .bars, .hounds, .dumps, .recd, .attn, .sigq, .convq, .flash, .pairs, .emitted]) := Foot.le_refl
  refine framed_out w (o := execListAbort mb s) rfl ?_
  unfold execListAbort
  refine ⟨_, rfl, ?_⟩
  repeat' first
    | with_reducible first
      | exact Act.nil_in
      | exact Act.skip_in
      | apply Act.cons_in
      | apply Act.seq_in
      | (apply Act.get_in; intro _)
      | (apply Act.when_in; intro _)
      | apply Act.ite_in
      | (apply Act.each_in; intro _ _)
      | (exact Act.doListAbort_pieces (Foot.sub hL (by decide)))
      | (refine Act.mbRun_pieces (Foot.sub hL (by decide)) ?_ <;> intros)
    | dsimp only
    | split

theorem Act.pauseWait_pieces {F : Foot} {p : Nat} (hL : (Foot.whole [.regs, .mem, .errs, .lpErr, .chUe, .host, .store, .acc, .anchors, .pend, .ctxs, .arrs, .parts, .health, .leash, .trigs, .log, .recUsed, .recDrop, .engs, .conns, .bars, .hounds, .dumps, .recd, .attn, .sigq, .convq, .flash, .pairs, .emitted]).le F) : (Act.pauseWait p).In F := by
  unfold Act.pauseWait
  repeat' first
    | with_reducible first
      | exact Act.nil_in
      | exact Act.skip_in
      | apply Act.cons_in
      | apply Act.seq_in
      | (apply Act.get_in; intro _)
      | (apply Act.when_in; intro _)
      | apply Act.ite_in
      | (apply Act.each_in; intro _ _)
      | (exact Act.modParts_in (Foot.has hL (by decide) _))
      | (exact Act.pauseReached_pieces (Foot.sub hL (by decide)))
    | dsimp only
    | split

theorem Act.doSlicePause_pieces {F : Foot} {j : JCmd} (hL : (Foot.whole [.regs, .mem, .errs, .lpErr, .chUe, .host, .store, .acc, .anchors, .pend, .ctxs, .arrs, .parts, .health, .leash, .trigs, .log, .recUsed, .recDrop, .engs, .conns, .bars, .hounds, .dumps, .recd, .attn, .sigq, .convq, .flash, .pairs, .emitted]).le F) : (Act.doSlicePause j).In F := by
  unfold Act.doSlicePause
  repeat' first
    | with_reducible first
      | exact Act.nil_in
      | exact Act.skip_in
      | apply Act.cons_in
      | apply Act.seq_in
      | (apply Act.get_in; intro _)
      | (apply Act.when_in; intro _)
      | apply Act.ite_in
      | (apply Act.each_in; intro _ _)
      | (refine Act.checks_pieces (Foot.sub hL (by decide)) ?_ <;> intros)
      | (refine Act.launch_pieces (Foot.sub hL (by decide)) ?_ <;> intros)
      | (exact Act.pauseWait_pieces (Foot.sub hL (by decide)))
    | dsimp only
    | split

theorem frame_slicePause {s : State} (w : s.Wf) {mb : Nat} : Framed (.whole [.regs, .mem, .errs, .lpErr, .chUe, .host, .store, .acc, .anchors, .pend, .ctxs, .arrs, .parts, .health, .leash, .trigs, .log, .recUsed, .recDrop, .engs, .conns, .bars, .hounds, .dumps, .recd, .attn, .sigq, .convq, .flash, .pairs, .emitted]) (.slicePause mb) s := by
  have hL : (Foot.whole [.regs, .mem, .errs, .lpErr, .chUe, .host, .store, .acc, .anchors, .pend, .ctxs, .arrs, .parts, .health, .leash, .trigs, .log, .recUsed, .recDrop, .engs, .conns, .bars, .hounds, .dumps, .recd, .attn, .sigq, .convq, .flash, .pairs, .emitted]).le (Foot.whole [.regs, .mem, .errs, .lpErr, .chUe, .host, .store, .acc, .anchors, .pend, .ctxs, .arrs, .parts, .health, .leash, .trigs, .log, .recUsed, .recDrop, .engs, .conns, .bars, .hounds, .dumps, .recd, .attn, .sigq, .convq, .flash, .pairs, .emitted]) := Foot.le_refl
  refine framed_out w (o := execSlicePause mb s) rfl ?_
  unfold execSlicePause
  refine ⟨_, rfl, ?_⟩
  repeat' first
    | with_reducible first
      | exact Act.nil_in
      | exact Act.skip_in
      | apply Act.cons_in
      | apply Act.seq_in
      | (apply Act.get_in; intro _)
      | (apply Act.when_in; intro _)
      | apply Act.ite_in
      | (apply Act.each_in; intro _ _)
      | (exact Act.doSlicePause_pieces (Foot.sub hL (by decide)))
      | (refine Act.mbRun_pieces (Foot.sub hL (by decide)) ?_ <;> intros)
    | dsimp only
    | split

theorem Act.doSliceResume_pieces {F : Foot} {j : JCmd} (hL : (Foot.whole [.regs, .mem, .errs, .lpErr, .chUe, .host, .store, .acc, .ctxs, .parts, .health, .leash, .trigs, .log, .recUsed, .recDrop, .recd, .attn, .flash, .emitted]).le F) : (Act.doSliceResume j).In F := by
  unfold Act.doSliceResume
  repeat' first
    | with_reducible first
      | exact Act.nil_in
      | exact Act.skip_in
      | apply Act.cons_in
      | apply Act.seq_in
      | (apply Act.get_in; intro _)
      | (apply Act.when_in; intro _)
      | apply Act.ite_in
      | (apply Act.each_in; intro _ _)
      | (refine Act.checks_pieces (Foot.sub hL (by decide)) ?_ <;> intros)
      | (exact Act.replyOk_pieces (Foot.sub hL (by decide)))
      | (exact Act.setF_in (Foot.has hL (by decide) _))
      | (exact Act.settle_pieces (Foot.sub hL (by decide)))
      | (exact Act.streamsGo_pieces (Foot.sub hL (by decide)))
    | dsimp only
    | split

theorem frame_sliceResume {s : State} (w : s.Wf) {mb : Nat} : Framed (.whole [.regs, .mem, .errs, .lpErr, .chUe, .host, .store, .acc, .ctxs, .parts, .health, .leash, .trigs, .log, .recUsed, .recDrop, .recd, .attn, .flash, .emitted]) (.sliceResume mb) s := by
  have hL : (Foot.whole [.regs, .mem, .errs, .lpErr, .chUe, .host, .store, .acc, .ctxs, .parts, .health, .leash, .trigs, .log, .recUsed, .recDrop, .recd, .attn, .flash, .emitted]).le (Foot.whole [.regs, .mem, .errs, .lpErr, .chUe, .host, .store, .acc, .ctxs, .parts, .health, .leash, .trigs, .log, .recUsed, .recDrop, .recd, .attn, .flash, .emitted]) := Foot.le_refl
  refine framed_out w (o := execSliceResume mb s) rfl ?_
  unfold execSliceResume
  refine ⟨_, rfl, ?_⟩
  repeat' first
    | with_reducible first
      | exact Act.nil_in
      | exact Act.skip_in
      | apply Act.cons_in
      | apply Act.seq_in
      | (apply Act.get_in; intro _)
      | (apply Act.when_in; intro _)
      | apply Act.ite_in
      | (apply Act.each_in; intro _ _)
      | (exact Act.doSliceResume_pieces (Foot.sub hL (by decide)))
      | (refine Act.mbRun_pieces (Foot.sub hL (by decide)) ?_ <;> intros)
    | dsimp only
    | split

theorem Act.doSliceCheckpoint_pieces {F : Foot} {j : JCmd} (hL : (Foot.whole [.regs, .mem, .errs, .lpErr, .chUe, .host, .store, .acc, .anchors, .pend, .ctxs, .arrs, .parts, .health, .leash, .trigs, .log, .recUsed, .recDrop, .engs, .conns, .bars, .hounds, .dumps, .recd, .attn, .sigq, .convq, .flash, .pairs, .emitted]).le F) : (Act.doSliceCheckpoint j).In F := by
  unfold Act.doSliceCheckpoint
  repeat' first
    | with_reducible first
      | exact Act.nil_in
      | exact Act.skip_in
      | apply Act.cons_in
      | apply Act.seq_in
      | (apply Act.get_in; intro _)
      | (apply Act.when_in; intro _)
      | apply Act.ite_in
      | (apply Act.each_in; intro _ _)
      | (refine Act.checks_pieces (Foot.sub hL (by decide)) ?_ <;> intros)
      | (refine Act.launch_pieces (Foot.sub hL (by decide)) ?_ <;> intros)
      | (exact Act.pauseWait_pieces (Foot.sub hL (by decide)))
    | dsimp only
    | split

theorem frame_sliceCheckpoint {s : State} (w : s.Wf) {mb : Nat} : Framed (.whole [.regs, .mem, .errs, .lpErr, .chUe, .host, .store, .acc, .anchors, .pend, .ctxs, .arrs, .parts, .health, .leash, .trigs, .log, .recUsed, .recDrop, .engs, .conns, .bars, .hounds, .dumps, .recd, .attn, .sigq, .convq, .flash, .pairs, .emitted]) (.sliceCheckpoint mb) s := by
  have hL : (Foot.whole [.regs, .mem, .errs, .lpErr, .chUe, .host, .store, .acc, .anchors, .pend, .ctxs, .arrs, .parts, .health, .leash, .trigs, .log, .recUsed, .recDrop, .engs, .conns, .bars, .hounds, .dumps, .recd, .attn, .sigq, .convq, .flash, .pairs, .emitted]).le (Foot.whole [.regs, .mem, .errs, .lpErr, .chUe, .host, .store, .acc, .anchors, .pend, .ctxs, .arrs, .parts, .health, .leash, .trigs, .log, .recUsed, .recDrop, .engs, .conns, .bars, .hounds, .dumps, .recd, .attn, .sigq, .convq, .flash, .pairs, .emitted]) := Foot.le_refl
  refine framed_out w (o := execSliceCheckpoint mb s) rfl ?_
  unfold execSliceCheckpoint
  refine ⟨_, rfl, ?_⟩
  repeat' first
    | with_reducible first
      | exact Act.nil_in
      | exact Act.skip_in
      | apply Act.cons_in
      | apply Act.seq_in
      | (apply Act.get_in; intro _)
      | (apply Act.when_in; intro _)
      | apply Act.ite_in
      | (apply Act.each_in; intro _ _)
      | (exact Act.doSliceCheckpoint_pieces (Foot.sub hL (by decide)))
      | (refine Act.mbRun_pieces (Foot.sub hL (by decide)) ?_ <;> intros)
    | dsimp only
    | split

theorem Act.restoreStreams_pieces {F : Foot} {p : Nat} {im : ImageSt} (hL : (Foot.whole [.regs, .mem, .errs, .lpErr, .chUe, .host, .store, .acc, .anchors, .pend, .ctxs, .arrs, .parts, .health, .leash, .trigs, .log, .recUsed, .recDrop, .engs, .conns, .bars, .hounds, .dumps, .recd, .attn, .sigq, .convq, .flash, .pairs, .emitted]).le F) : (Act.restoreStreams p im).In F := by
  unfold Act.restoreStreams
  repeat' first
    | with_reducible first
      | exact Act.nil_in
      | exact Act.skip_in
      | apply Act.cons_in
      | apply Act.seq_in
      | (apply Act.get_in; intro _)
      | (apply Act.when_in; intro _)
      | apply Act.ite_in
      | (apply Act.each_in; intro _ _)
      | (exact Act.ctxHalt_pieces (Foot.sub hL (by decide)))
      | (exact Act.modCtxs_in (Foot.has hL (by decide) _))
      | (exact Act.programDone_pieces (Foot.sub hL (by decide)))
    | dsimp only
    | split

theorem Act.restoreDone_pieces {F : Foot} {p : Nat} {im : ImageSt} {l : Launch} (hL : (Foot.whole [.regs, .mem, .errs, .lpErr, .chUe, .host, .store, .acc, .anchors, .pend, .ctxs, .arrs, .parts, .health, .leash, .trigs, .log, .recUsed, .recDrop, .engs, .conns, .bars, .hounds, .dumps, .recd, .attn, .sigq, .convq, .flash, .pairs, .emitted]).le F) : (Act.restoreDone p im l).In F := by
  unfold Act.restoreDone
  repeat' first
    | with_reducible first
      | exact Act.nil_in
      | exact Act.skip_in
      | apply Act.cons_in
      | apply Act.seq_in
      | (apply Act.get_in; intro _)
      | (apply Act.when_in; intro _)
      | apply Act.ite_in
      | (apply Act.each_in; intro _ _)
      | (exact Act.finish_pieces (Foot.sub hL (by decide)))
      | (exact Act.mbEvent_pieces (Foot.sub hL (by decide)))
      | (exact Act.modF_in (Foot.has hL (by decide) _))
      | (exact Act.modParts_in (Foot.has hL (by decide) _))
      | (exact Act.restoreCtxs_pieces (Foot.sub hL (by decide)))
      | (exact Act.setF_in (Foot.has hL (by decide) _))
      | (exact Act.setRegs_in (Foot.has hL (by decide) _))
    | dsimp only
    | split

theorem Act.doSliceRestore_pieces {F : Foot} {firstOk : Bool} {secondOk : Bool} {j : JCmd} (hL : (Foot.whole [.regs, .mem, .errs, .lpErr, .chUe, .host, .store, .acc, .anchors, .pend, .ctxs, .arrs, .parts, .health, .leash, .trigs, .log, .recUsed, .recDrop, .engs, .conns, .bars, .hounds, .dumps, .recd, .attn, .sigq, .convq, .flash, .pairs, .free, .emitted]).le F) : (Act.doSliceRestore firstOk secondOk j).In F := by
  unfold Act.doSliceRestore
  repeat' first
    | with_reducible first
      | exact Act.nil_in
      | exact Act.skip_in
      | apply Act.cons_in
      | apply Act.seq_in
      | (apply Act.get_in; intro _)
      | (apply Act.when_in; intro _)
      | apply Act.ite_in
      | (apply Act.each_in; intro _ _)
      | (refine Act.checks_pieces (Foot.sub hL (by decide)) ?_ <;> intros)
      | (exact Act.ctxHalt_pieces (Foot.sub hL (by decide)))
      | (exact Act.dmaCount_pieces (Foot.sub hL (by decide)))
      | (exact Act.finish_pieces (Foot.sub hL (by decide)))
      | (refine Act.launch_pieces (Foot.sub hL (by decide)) ?_ <;> intros)
      | (exact Act.modF_in (Foot.has hL (by decide) _))
      | (exact Act.restoreBegin_pieces (Foot.sub hL (by decide)))
      | (exact Act.restoreDone_pieces (Foot.sub hL (by decide)))
      | (exact Act.restoreStreams_pieces (Foot.sub hL (by decide)))
      | (exact Act.setF_in (Foot.has hL (by decide) _))
      | (exact Act.sliceFault_pieces (Foot.sub hL (by decide)))
      | (refine Act.withFree_in ?_ (fun k => Foot.has hL (by decide) k); intro _)
      | (refine Act.writeRanges_pieces (Foot.sub hL (by decide)) ?_ <;> intros)
    | dsimp only
    | split

theorem frame_sliceRestore {s : State} (w : s.Wf) {mb : Nat} {firstOk : Bool} {secondOk : Bool} : Framed (.whole [.regs, .mem, .errs, .lpErr, .chUe, .host, .store, .acc, .anchors, .pend, .ctxs, .arrs, .parts, .health, .leash, .trigs, .log, .recUsed, .recDrop, .engs, .conns, .bars, .hounds, .dumps, .recd, .attn, .sigq, .convq, .flash, .pairs, .free, .emitted]) (.sliceRestore mb firstOk secondOk) s := by
  have hL : (Foot.whole [.regs, .mem, .errs, .lpErr, .chUe, .host, .store, .acc, .anchors, .pend, .ctxs, .arrs, .parts, .health, .leash, .trigs, .log, .recUsed, .recDrop, .engs, .conns, .bars, .hounds, .dumps, .recd, .attn, .sigq, .convq, .flash, .pairs, .free, .emitted]).le (Foot.whole [.regs, .mem, .errs, .lpErr, .chUe, .host, .store, .acc, .anchors, .pend, .ctxs, .arrs, .parts, .health, .leash, .trigs, .log, .recUsed, .recDrop, .engs, .conns, .bars, .hounds, .dumps, .recd, .attn, .sigq, .convq, .flash, .pairs, .free, .emitted]) := Foot.le_refl
  refine framed_out w (o := execSliceRestore mb firstOk secondOk s) rfl ?_
  unfold execSliceRestore
  refine ⟨_, rfl, ?_⟩
  repeat' first
    | with_reducible first
      | exact Act.nil_in
      | exact Act.skip_in
      | apply Act.cons_in
      | apply Act.seq_in
      | (apply Act.get_in; intro _)
      | (apply Act.when_in; intro _)
      | apply Act.ite_in
      | (apply Act.each_in; intro _ _)
      | (exact Act.doSliceRestore_pieces (Foot.sub hL (by decide)))
      | (refine Act.mbRun_pieces (Foot.sub hL (by decide)) ?_ <;> intros)
    | dsimp only
    | split

theorem Act.doModeChange_pieces {F : Foot} {j : JCmd} (hL : (Foot.whole [.regs, .mem, .errs, .lpErr, .chUe, .host, .store, .acc, .anchors, .pend, .ctxs, .arrs, .parts, .health, .leash, .trigs, .log, .recUsed, .recDrop, .engs, .conns, .bars, .hounds, .dumps, .recd, .attn, .sigq, .convq, .flash, .pairs, .emitted]).le F) : (Act.doModeChange j).In F := by
  unfold Act.doModeChange
  repeat' first
    | with_reducible first
      | exact Act.nil_in
      | exact Act.skip_in
      | apply Act.cons_in
      | apply Act.seq_in
      | (apply Act.get_in; intro _)
      | (apply Act.when_in; intro _)
      | apply Act.ite_in
      | (apply Act.each_in; intro _ _)
      | (refine Act.checks_pieces (Foot.sub hL (by decide)) ?_ <;> intros)
      | (exact Act.epochApply_pieces (Foot.sub hL (by decide)))
      | (refine Act.launch_pieces (Foot.sub hL (by decide)) ?_ <;> intros)
      | (exact Act.setF_in (Foot.has hL (by decide) _))
    | dsimp only
    | split

theorem frame_modeChange {s : State} (w : s.Wf) {mb : Nat} : Framed (.whole [.regs, .mem, .errs, .lpErr, .chUe, .host, .store, .acc, .anchors, .pend, .ctxs, .arrs, .parts, .health, .leash, .trigs, .log, .recUsed, .recDrop, .engs, .conns, .bars, .hounds, .dumps, .recd, .attn, .sigq, .convq, .flash, .pairs, .emitted]) (.modeChange mb) s := by
  have hL : (Foot.whole [.regs, .mem, .errs, .lpErr, .chUe, .host, .store, .acc, .anchors, .pend, .ctxs, .arrs, .parts, .health, .leash, .trigs, .log, .recUsed, .recDrop, .engs, .conns, .bars, .hounds, .dumps, .recd, .attn, .sigq, .convq, .flash, .pairs, .emitted]).le (Foot.whole [.regs, .mem, .errs, .lpErr, .chUe, .host, .store, .acc, .anchors, .pend, .ctxs, .arrs, .parts, .health, .leash, .trigs, .log, .recUsed, .recDrop, .engs, .conns, .bars, .hounds, .dumps, .recd, .attn, .sigq, .convq, .flash, .pairs, .emitted]) := Foot.le_refl
  refine framed_out w (o := execModeChange mb s) rfl ?_
  unfold execModeChange
  refine ⟨_, rfl, ?_⟩
  repeat' first
    | with_reducible first
      | exact Act.nil_in
      | exact Act.skip_in
      | apply Act.cons_in
      | apply Act.seq_in
      | (apply Act.get_in; intro _)
      | (apply Act.when_in; intro _)
      | apply Act.ite_in
      | (apply Act.each_in; intro _ _)
      | (exact Act.doModeChange_pieces (Foot.sub hL (by decide)))
      | (refine Act.mbRun_pieces (Foot.sub hL (by decide)) ?_ <;> intros)
    | dsimp only
    | split

theorem Act.stepEntry_pieces {F : Foot} {p : Nat} {hold : Nat} (hL : (Foot.whole [.regs, .host]).le F) : (Act.stepEntry p hold).In F := by
  unfold Act.stepEntry
  repeat' first
    | with_reducible first
      | exact Act.nil_in
      | exact Act.skip_in
      | apply Act.cons_in
      | apply Act.seq_in
      | (apply Act.get_in; intro _)
      | (apply Act.when_in; intro _)
      | apply Act.ite_in
      | (apply Act.each_in; intro _ _)
      | (exact Act.dmaWrite_pieces (Foot.sub hL (by decide)))
    | dsimp only
    | split

theorem frame_stepBoundary {s : State} (w : s.Wf) {p : Nat} : Framed (.whole [.regs, .mem, .errs, .lpErr, .chUe, .host, .store, .acc, .anchors, .pend, .ctxs, .arrs, .parts, .health, .leash, .trigs, .log, .recUsed, .recDrop, .engs, .conns, .bars, .hounds, .dumps, .recd, .attn, .sigq, .convq, .flash, .pairs, .emitted]) (.stepBoundary p) s := by
  have hL : (Foot.whole [.regs, .mem, .errs, .lpErr, .chUe, .host, .store, .acc, .anchors, .pend, .ctxs, .arrs, .parts, .health, .leash, .trigs, .log, .recUsed, .recDrop, .engs, .conns, .bars, .hounds, .dumps, .recd, .attn, .sigq, .convq, .flash, .pairs, .emitted]).le (Foot.whole [.regs, .mem, .errs, .lpErr, .chUe, .host, .store, .acc, .anchors, .pend, .ctxs, .arrs, .parts, .health, .leash, .trigs, .log, .recUsed, .recDrop, .engs, .conns, .bars, .hounds, .dumps, .recd, .attn, .sigq, .convq, .flash, .pairs, .emitted]) := Foot.le_refl
  refine framed_out w (o := execStepBoundary p s) rfl ?_
  unfold execStepBoundary
  refine ⟨_, rfl, ?_⟩
  repeat' first
    | with_reducible first
      | exact Act.nil_in
      | exact Act.skip_in
      | apply Act.cons_in
      | apply Act.seq_in
      | (apply Act.get_in; intro _)
      | (apply Act.when_in; intro _)
      | apply Act.ite_in
      | (apply Act.each_in; intro _ _)
      | (exact Act.epochApply_pieces (Foot.sub hL (by decide)))
      | (exact Act.modCtxs_in (Foot.has hL (by decide) _))
      | (exact Act.modParts_in (Foot.has hL (by decide) _))
      | (exact Act.pauseReached_pieces (Foot.sub hL (by decide)))
      | (exact Act.setRegs_in (Foot.has hL (by decide) _))
      | (exact Act.stepEntry_pieces (Foot.sub hL (by decide)))
      | (exact Act.streamsGo_pieces (Foot.sub hL (by decide)))
    | dsimp only
    | split

theorem frame_epochTimeout {s : State} (w : s.Wf) {p : Nat} {missing : Nat} : Framed (.whole [.regs, .mem, .errs, .lpErr, .chUe, .host, .store, .acc, .anchors, .pend, .ctxs, .arrs, .parts, .health, .leash, .trigs, .log, .recUsed, .recDrop, .engs, .conns, .bars, .hounds, .dumps, .recd, .attn, .sigq, .convq, .flash, .pairs, .emitted]) (.epochTimeout p missing) s := by
  have hL : (Foot.whole [.regs, .mem, .errs, .lpErr, .chUe, .host, .store, .acc, .anchors, .pend, .ctxs, .arrs, .parts, .health, .leash, .trigs, .log, .recUsed, .recDrop, .engs, .conns, .bars, .hounds, .dumps, .recd, .attn, .sigq, .convq, .flash, .pairs, .emitted]).le (Foot.whole [.regs, .mem, .errs, .lpErr, .chUe, .host, .store, .acc, .anchors, .pend, .ctxs, .arrs, .parts, .health, .leash, .trigs, .log, .recUsed, .recDrop, .engs, .conns, .bars, .hounds, .dumps, .recd, .attn, .sigq, .convq, .flash, .pairs, .emitted]) := Foot.le_refl
  refine framed_out w (o := execEpochTimeout p missing s) rfl ?_
  unfold execEpochTimeout
  refine ⟨_, rfl, ?_⟩
  repeat' first
    | with_reducible first
      | exact Act.nil_in
      | exact Act.skip_in
      | apply Act.cons_in
      | apply Act.seq_in
      | (apply Act.get_in; intro _)
      | (apply Act.when_in; intro _)
      | apply Act.ite_in
      | (apply Act.each_in; intro _ _)
      | (refine Act.complete_pieces (Foot.sub hL (by decide)) ?_ <;> intros)
      | (exact Act.mbEvent_pieces (Foot.sub hL (by decide)))
      | (exact Act.record_pieces (Foot.sub hL (by decide)))
      | (exact Act.sliceFault_pieces (Foot.sub hL (by decide)))
    | dsimp only
    | split

theorem frame_repTransitionDone {s : State} (w : s.Wf) {core : Nat} : Framed (.whole [.regs, .mem, .errs, .lpErr, .chUe, .host, .store, .acc, .anchors, .pend, .ctxs, .arrs, .parts, .health, .leash, .trigs, .log, .recUsed, .recDrop, .engs, .conns, .bars, .hounds, .dumps, .recd, .attn, .sigq, .convq, .flash, .pairs, .emitted]) (.repTransitionDone core) s := by
  have hL : (Foot.whole [.regs, .mem, .errs, .lpErr, .chUe, .host, .store, .acc, .anchors, .pend, .ctxs, .arrs, .parts, .health, .leash, .trigs, .log, .recUsed, .recDrop, .engs, .conns, .bars, .hounds, .dumps, .recd, .attn, .sigq, .convq, .flash, .pairs, .emitted]).le (Foot.whole [.regs, .mem, .errs, .lpErr, .chUe, .host, .store, .acc, .anchors, .pend, .ctxs, .arrs, .parts, .health, .leash, .trigs, .log, .recUsed, .recDrop, .engs, .conns, .bars, .hounds, .dumps, .recd, .attn, .sigq, .convq, .flash, .pairs, .emitted]) := Foot.le_refl
  refine framed_out w (o := execRepTransitionDone core s) rfl ?_
  unfold execRepTransitionDone
  refine ⟨_, rfl, ?_⟩
  repeat' first
    | with_reducible first
      | exact Act.nil_in
      | exact Act.skip_in
      | apply Act.cons_in
      | apply Act.seq_in
      | (apply Act.get_in; intro _)
      | (apply Act.when_in; intro _)
      | apply Act.ite_in
      | (apply Act.each_in; intro _ _)
      | (exact Act.epochCommit_pieces (Foot.sub hL (by decide)))
      | (exact Act.setF_in (Foot.has hL (by decide) _))
    | dsimp only
    | split

theorem frame_partitionResetDone {s : State} (w : s.Wf) {p : Nat} : Framed (.whole [.regs, .host, .parts, .attn, .emitted]) (.partitionResetDone p) s := by
  have hL : (Foot.whole [.regs, .host, .parts, .attn, .emitted]).le (Foot.whole [.regs, .host, .parts, .attn, .emitted]) := Foot.le_refl
  refine framed_out w (o := execPartitionResetDone p s) rfl ?_
  unfold execPartitionResetDone
  refine ⟨_, rfl, ?_⟩
  repeat' first
    | with_reducible first
      | exact Act.nil_in
      | exact Act.skip_in
      | apply Act.cons_in
      | apply Act.seq_in
      | (apply Act.get_in; intro _)
      | (apply Act.when_in; intro _)
      | apply Act.ite_in
      | (apply Act.each_in; intro _ _)
      | (exact Act.mbEvent_pieces (Foot.sub hL (by decide)))
      | (exact Act.modParts_in (Foot.has hL (by decide) _))
      | (exact Act.setF_in (Foot.has hL (by decide) _))
    | dsimp only
    | split

end Sys2Proof.Machine
end

