-- ==== Sys2Proof/Laws/Mailbox.lean ====
section
/-! SUPPORT. A command in a mailbox: how Uhlile takes it, and what its reply leaves in the page (R299-R301). -/

set_option linter.unusedSimpArgs false

namespace Sys2Proof.Machine

theorem State.accepted_wf {s : State} (w : s.Wf) (mb : Nat) : (s.accepted mb).Wf := Act.wf w _

theorem State.rd_accepted {s : State} (w : s.Wf) {mb a : Nat} (h : ∀ i, i < 4 → a ≠ mbRepHdr mb i) : (s.accepted mb).rd a = s.rd a := by
  unfold State.accepted
  simp only [Act.each_cons_run, Act.each_nil, Act.skip_run]
  rw [State.rd_setRegs_ne (by (repeat' apply Act.wf) <;> assumption) (h 3 (by decide)), State.rd_setRegs_ne (by (repeat' apply Act.wf) <;> assumption) (h 2 (by decide)), State.rd_setRegs_ne (by (repeat' apply Act.wf) <;> assumption) (h 1 (by decide)),
    State.rd_setRegs_ne w (h 0 (by decide))]

theorem mbRepHdr_ge (mb i : Nat) : 0x1000000000000 ≤ mbRepHdr mb i := by
  unfold mbRepHdr R.mbSliceRepHdr R.mbMgrRepHdr
  split <;> omega

/-- Device registers are no mailbox words. -/
theorem State.fld_accepted {s : State} (w : s.Wf) {mb a : Nat} (h : a < 0x1000000000000) (f : Field) : (s.accepted mb).fld a f = s.fld a f := by
  unfold State.fld
  rw [State.rd_accepted w]
  intro i _ e
  have := mbRepHdr_ge mb i
  omega

theorem State.flag_accepted {s : State} (w : s.Wf) {mb a : Nat} (h : a < 0x1000000000000) (f : Field) : (s.accepted mb).flag a f = s.flag a f := by
  unfold State.flag
  rw [State.fld_accepted w h]

theorem State.hostPage_accepted {s : State} (w : s.Wf) {mb a : Nat} (h : 0x1000000120000 ≤ a) (hm : mb ≤ 256) (f : Field) :
    (s.accepted mb).fld a f = s.fld a f := by
  unfold State.fld
  rw [State.rd_accepted w]
  intro i hi e
  revert e
  unfold mbRepHdr R.mbSliceRepHdr R.mbMgrRepHdr
  split <;> omega

theorem State.precheck_accepted {s : State} (w : s.Wf) {mb : Nat} (hm : mb ≤ 256) (j : JCmd) (hj : j.part = mb) :
    (s.accepted mb).precheck j = s.precheck j := by
  have h1 : (s.accepted mb).sliceState j.part = s.sliceState j.part :=
    State.fld_accepted w (by rw [hj]; simp only [R.sliceStat]; omega) _
  have h2 : (s.accepted mb).fld (R.mbSliceFaultInfo j.part) F.mbSliceFaultInfo_CLASS = s.fld (R.mbSliceFaultInfo j.part) F.mbSliceFaultInfo_CLASS := by
    unfold State.fld
    rw [State.rd_accepted w]
    intro i hi e
    revert e
    rw [hj]
    unfold mbRepHdr R.mbSliceRepHdr R.mbMgrRepHdr R.mbSliceFaultInfo
    split <;> omega
  have h3 : (s.accepted mb).recWait = s.recWait := by
    unfold State.recWait State.flag
    rw [State.hostPage_accepted w (by decide) hm]
  unfold State.precheck
  rw [h1, h2, h3]
  rfl

/-- A command taken is performed in the accepted state. -/
theorem mbRun_run {s : State} (w : s.Wf) {mb op : Nat} (h : s.takes mb op = true) (k : JCmd → Act) :
    (Act.mbRun mb op k).run s = (k (s.mbCmd mb)).run (s.accepted mb) := by
  unfold State.takes at h
  simp only [Bool.and_eq_true, decide_eq_true_eq, Option.isNone_iff_eq_none] at h
  unfold Act.mbRun
  rw [Act.get_run]
  simp only [h.1.1.2, h.1.2, Bool.and_self, Act.when_true, Act.cons_run, Act.nil_run]
  show ((Act.perform (s.mbCmd mb) k)).run (s.accepted mb) = _
  unfold Act.perform
  rw [Act.get_run]
  simp only [State.precheck_accepted w h.1.1.1 (s.mbCmd mb) rfl, h.2]

/-! ### Replies -/

theorem mbHdr_mask {mb : Nat} (h : mb ≤ 256) : regMask (mbHdr mb 0) = BitVec.allOnes 64 ∧ regMask (mbRepHdr mb 0) = BitVec.allOnes 64 := by
  have h1 : ∀ i, i < 257 → regMask (mbHdr i 0) = BitVec.allOnes 64 ∧ regMask (mbRepHdr i 0) = BitVec.allOnes 64 := by decide +kernel
  exact h1 mb (by omega)

theorem mbHdr_ne (mb : Nat) : mbRepHdr mb 0 ≠ mbHdr mb 0 := by
  unfold mbHdr mbRepHdr R.mbSliceHdr R.mbSliceRepHdr R.mbMgrHdr R.mbMgrRepHdr
  split <;> omega

theorem answered_of {t : State} {mb st op tag : Nat} (hs : st < 256) (ho : op < 65536) (ht : tag < 2 ^ 32)
    (h1 : ∃ v, t.rd (mbHdr mb 0) = BitVec.ofNat 64 (v % 2 ^ 63))
    (h2 : t.rd (mbRepHdr mb 0) = BitVec.ofNat 64 (2 ^ 63 + st % 256 * 2 ^ 48 + op * 2 ^ 32 + tag)) : t.answered mb st = true := by
  obtain ⟨v, h1⟩ := h1
  unfold State.answered bit bits
  rw [h1, h2, BitVec.toNat_ofNat, BitVec.toNat_ofNat]
  simp only [Bool.and_eq_true, Bool.not_eq_true', beq_iff_eq, beq_eq_false_iff_ne]
  omega

theorem answer_answered {s : State} (w : s.Wf) {j : JCmd} (hl : j.list = none) (hp : j.part ≤ 256) (st detail : Nat) (data : List Word)
    (ret handle : Nat) (hs : st < 256) : ((Act.answer j st detail data ret handle).run s).answered j.part st = true := by
  have ho : j.opcode < 65536 := Nat.mod_lt _ (by decide)
  have ht : j.tag < 2 ^ 32 := Nat.mod_lt _ (by decide)
  unfold Act.answer
  rw [Act.get_run, hl]
  simp only [Act.cons_run, Act.nil_run, Act.each_cons_run, Act.each_nil, Act.skip_run, Act.get_run]
  refine answered_of hs ho ht ⟨_, (State.rd_setRegs (by (repeat' apply Act.wf) <;> assumption) _ _).trans (by rw [(mbHdr_mask hp).1, BitVec.and_allOnes])⟩ ?_
  rw [State.rd_setRegs_ne (by (repeat' apply Act.wf) <;> assumption) (mbHdr_ne _), State.rd_setRegs (by (repeat' apply Act.wf) <;> assumption), (mbHdr_mask hp).2, BitVec.and_allOnes]
  rfl

theorem reply_answered {s : State} (w : s.Wf) {j : JCmd} (hl : j.list = none) (hp : j.part ≤ 256) (st detail : Nat) (data : List Word)
    (ret handle : Nat) (hs : st < 256) : ((Act.reply j st detail data ret handle).run s).answered j.part st = true := by
  unfold Act.reply
  rw [Act.cons_run, Act.cons_run, Act.nil_run]
  exact answer_answered (Act.wf w _) hl hp st detail data ret handle hs

theorem replyOut_answered {s : State} (w : s.Wf) {j : JCmd} (hl : j.list = none) (hp : j.part ≤ 256) (d : List Byte) (out : Bool) :
    ((Act.replyOut j d out).run s).answered j.part 0 = true := by
  have h (u : State) (hu : u.Wf) (x : List Word) (n : Nat) : ((Act.reply j stOk 0 x n 0).run u).answered j.part stOk = true :=
    reply_answered hu hl hp stOk 0 x n 0 (by decide)
  unfold Act.replyOut
  rw [Act.get_run]
  dsimp only
  generalize (if j.list.isSome = true then 0 else repRoom j.part) = room
  split
  · exact h s w _ _
  · split
    · rw [Act.cons_run, Act.cons_run, Act.nil_run]
      exact h _ (Act.wf w _) _ _
    · exact h s w _ _

/-- A command that ends with its reply is answered OK. -/
theorem replyOk_answered {s : State} (w : s.Wf) {mb : Nat} (hm : mb ≤ 256) (t : State) (data : List Word := []) :
    ((Act.replyOk (t.mbCmd mb) data).run s).answered mb 0 = true := by
  unfold Act.replyOk
  exact replyOut_answered w (j := t.mbCmd mb) rfl hm _ _

theorem refuse_answered {s : State} (w : s.Wf) {mb : Nat} (hm : mb ≤ 256) (t : State) (st detail : Nat) (hs : st < 256) :
    ((Act.refuse (t.mbCmd mb) st detail).run s).answered mb st = true := by
  unfold Act.refuse
  rw [Act.cons_run, Act.cons_run, Act.nil_run]
  exact answer_answered (Act.wf w _) (j := t.mbCmd mb) rfl hm _ _ _ _ _ hs

theorem takes_le {s : State} {mb op : Nat} (h : s.takes mb op = true) : mb ≤ 256 := by
  unfold State.takes at h
  simp only [Bool.and_eq_true, decide_eq_true_eq] at h
  exact h.1.1.1

/-! ### What a reply changes, and its data -/

theorem cdiv_le {a b c : Nat} (hb : 0 < b) (h : a ≤ b * c) : cdiv a b ≤ c := by
  unfold cdiv
  rw [Nat.div_le_iff_le_mul hb]
  rw [Nat.mul_comm] at h
  omega

theorem toWords_length (d : List Byte) : (toWords d).length = cdiv d.length 8 := by
  unfold toWords
  rw [List.length_map, List.length_range]

theorem answer_foot {j : JCmd} {st detail ret handle : Nat} {data : List Word} (hl : j.list = none) (hd : data.length ≤ repRoom j.part / 8) :
    (Act.answer j st detail data ret handle).In (pageFoot j.part) := by
  unfold Act.answer
  refine Act.get_in fun s => ?_
  rw [hl]
  refine Act.cons_in (Act.each_in fun x hx => Act.setRegs_in ?_) (Act.cons_in (Act.each_in fun i hi => Act.setRegs_in ?_)
    (Act.cons_in (Act.get_in fun t => Act.setRegs_in ?_) Act.nil_in))
  · have := List.snd_lt_of_mem_zipIdx hx
    simp only [pageFoot, Foot.any_cons, Foot.any_nil]
    exact .inr (.inr (.inr (.inl ⟨rfl, x.2, by omega, rfl⟩)))
  · simp only [pageFoot, Foot.any_cons, Foot.any_nil]
    refine .inr (.inr (.inl ⟨rfl, i, ?_, rfl⟩))
    simp at hi
    omega
  · simp only [pageFoot, Foot.any_cons, Foot.any_nil]
    exact .inr (.inl ⟨rfl, rfl⟩)

theorem pageFoot_cmds {j : JCmd} : pageFoot j.part .regs (R.sliceMb j.part) := by
  simp only [pageFoot, Foot.any_cons, Foot.any_nil]
  exact .inl ⟨rfl, rfl⟩

theorem reply_foot {j : JCmd} {st detail ret handle : Nat} {data : List Word} (hl : j.list = none) (hd : data.length ≤ repRoom j.part / 8) :
    (Act.reply j st detail data ret handle).In (pageFoot j.part) :=
  Act.cons_in (Act.incF_in pageFoot_cmds) (Act.cons_in (answer_foot hl hd) Act.nil_in)

theorem refuse_foot {j : JCmd} {st detail : Nat} (hl : j.list = none) : (Act.refuse j st detail).In (pageFoot j.part) :=
  Act.cons_in (Act.incF_in pageFoot_cmds) (Act.cons_in (answer_foot hl (Nat.zero_le _)) Act.nil_in)

theorem wordBytes_length (ws : List Word) : (wordBytes ws).length = 8 * ws.length := by
  unfold wordBytes
  induction ws with
  | nil => rfl
  | cons w r ih =>
    rw [List.flatMap_cons, List.length_append, ih, List.length_cons]
    have : (leBytes w.toNat 8).length = 8 := by unfold leBytes; rw [List.length_map, List.length_range]
    omega

theorem leNat_leBytes (v n : Nat) : leNat (leBytes v n) = v % 256 ^ n := by
  induction n generalizing v with
  | zero => simp [leBytes, leNat, Nat.mod_one]
  | succ n ih =>
    have h : leBytes v (n + 1) = BitVec.ofNat 8 v :: leBytes (v / 256) n := by
      unfold leBytes
      rw [List.range_succ_eq_map, List.map_cons, List.map_map]
      congr 1
      · simp
      refine List.map_congr_left fun i _ => ?_
      simp only [Function.comp]
      rw [show 8 * (i + 1) = 8 + 8 * i by omega, Nat.pow_add, ← Nat.div_div_eq_div_mul]
    rw [h, leNat, ih, BitVec.toNat_ofNat, show (256 : Nat) ^ (n + 1) = 256 * 256 ^ n from Nat.pow_succ', Nat.mod_mul]

theorem toWords_wordBytes (ws : List Word) : toWords (wordBytes ws) = ws := by
  have hl : cdiv (wordBytes ws).length 8 = ws.length := by
    rw [wordBytes_length]
    unfold cdiv
    omega
  unfold toWords
  rw [hl]
  induction ws with
  | nil => rfl
  | cons w r ih =>
    have h8 : (leBytes w.toNat 8).length = 8 := by unfold leBytes; rw [List.length_map, List.length_range]
    rw [List.length_cons, List.range_succ_eq_map, List.map_cons, List.map_map]
    have e : wordBytes (w :: r) = leBytes w.toNat 8 ++ wordBytes r := by
      unfold wordBytes
      rw [List.flatMap_cons]
    have h1 : (List.take 8 (List.drop (8 * 0) (wordBytes (w :: r)))) = leBytes w.toNat 8 := by
      rw [e, Nat.mul_zero, List.drop_zero, List.take_append_of_le_length (by omega), List.take_of_length_le (by omega)]
    rw [h1, leNat_leBytes]
    congr 1
    · apply BitVec.eq_of_toNat_eq
      rw [BitVec.toNat_ofNat]
      have := w.isLt
      omega
    · conv => rhs; rw [← ih (by
        rw [wordBytes_length]
        unfold cdiv
        omega)]
      refine List.map_congr_left fun i _ => ?_
      simp only [Function.comp]
      rw [e, show 8 * (i + 1) = (leBytes w.toNat 8).length + 8 * i by omega, ← List.drop_drop, List.drop_left]

theorem replyOk_eq {j : JCmd} (hl : j.list = none) {data : List Word} (h : 8 * data.length ≤ repRoom j.part) (s : State) :
    (Act.replyOk j data).run s = (Act.reply j stOk 0 data (8 * data.length) 0).run s := by
  unfold Act.replyOk Act.replyOut
  rw [Act.get_run, hl]
  simp only [wordBytes_length, Option.isSome_none, Bool.false_eq_true, if_false, h, decide_true, Bool.false_and, Bool.not_false, Bool.and_self,
    if_true, toWords_wordBytes]

/-- A reply whose data fit the page changes the page and the count of commands only. -/
theorem replyOk_foot {j : JCmd} (hl : j.list = none) {data : List Word} (h : 8 * data.length ≤ repRoom j.part) :
    (Act.replyOk j data).In (pageFoot j.part) := by
  intro s w p k hk
  rw [replyOk_eq hl h]
  exact reply_foot hl (by omega) s w p k hk

theorem accepted_foot (mb : Nat) : (Act.each [0, 1, 2, 3] fun i => .setRegs (mbRepHdr mb i) 0).In (.regFam 4 (mbRepHdr mb)) :=
  Act.each_in fun i hi => Act.setRegs_in ⟨rfl, i, by simp at hi; omega, rfl⟩

theorem mbMgrRepData_mask (i : Nat) (hi : i < 4076) : regMask (R.mbMgrRepData i) = BitVec.allOnes 64 := by
  have hp : regPage (R.mbMgrRepData i) = regPage1000000 := by
    unfold regPage
    rw [show R.mbMgrRepData i / 0x1000000 = 0x1000000 by simp only [R.mbMgrRepData]; omega]
    exact if_neg (by simp only [R.mbMgrRepData]; omega)
  have hd : regDesc (R.mbMgrRepData i) = some B.mbMgrRepData := by
    unfold regDesc
    rw [hp]
    have h0 : B.mbMgrRepData.hit (R.mbMgrRepData i) = true := by
      simp only [RegBlock.hit, B.mbMgrRepData, R.mbMgrRepData, RegBlock.hitOff]
      rw [if_neg (by omega), if_pos (by omega)]
      exact beq_iff_eq.mpr (by omega)
    unfold regPage1000000
    simp only [List.cons_append, List.nil_append]
    repeat first
      | exact List.find?_cons_of_pos (p := fun b => RegBlock.hit b _) h0
      | rw [List.find?_cons_of_neg (p := fun b => RegBlock.hit b _) (by
          simp only [RegBlock.hit, R.mbMgrRepData, RegBlock.hitOff, B.hostAttnCfg, B.hostBar2, B.hostDma, B.hostLink, B.hostBoot, B.mbMgrEvent, B.mbMgrFaultInfo, B.mbSliceEvent,
  B.mbSliceFaultInfo, B.hostAttn, B.hostAttn4, B.hostAttn56, B.hostAttn7, B.mbMgrHdr, B.mbMgrArg, B.mbMgrRepHdr]
          simp only [Bool.not_eq_true]
          repeat' split
          all_goals first
            | (exfalso; omega)
            | (rw [beq_eq_false_iff_ne]; omega)
            | rfl)]
  unfold regMask
  rw [hd]
  decide
theorem mbSliceRepData_mask (m i : Nat) (hm : m < 256) (hi : i < 236) : regMask (R.mbSliceRepData m i) = BitVec.allOnes 64 := by
  have hp : regPage (R.mbSliceRepData m i) = regPage1000000 := by
    unfold regPage
    rw [show R.mbSliceRepData m i / 0x1000000 = 0x1000000 by simp only [R.mbSliceRepData]; omega]
    exact if_neg (by simp only [R.mbSliceRepData]; omega)
  have hd : regDesc (R.mbSliceRepData m i) = some B.mbSliceRepData := by
    unfold regDesc
    rw [hp]
    have h0 : B.mbSliceRepData.hit (R.mbSliceRepData m i) = true := by
      simp only [RegBlock.hit, B.mbSliceRepData, R.mbSliceRepData, RegBlock.hitOff]
      rw [if_neg (by omega), if_pos (by omega), if_pos (by omega)]
      exact beq_iff_eq.mpr (by omega)
    unfold regPage1000000
    simp only [List.cons_append, List.nil_append]
    repeat first
      | exact List.find?_cons_of_pos (p := fun b => RegBlock.hit b _) h0
      | rw [List.find?_cons_of_neg (p := fun b => RegBlock.hit b _) (by
          simp only [RegBlock.hit, R.mbSliceRepData, RegBlock.hitOff, B.hostAttnCfg, B.hostBar2, B.hostDma, B.hostLink, B.hostBoot, B.mbMgrEvent, B.mbMgrFaultInfo, B.mbSliceEvent,
  B.mbSliceFaultInfo, B.hostAttn, B.hostAttn4, B.hostAttn56, B.hostAttn7, B.mbMgrHdr, B.mbMgrArg, B.mbMgrRepHdr, B.mbMgrRepData, B.mbMgrFaultTick, B.mbMgrFaultHandle, B.mbMgrRsvd, B.mbSliceHdr, B.mbSliceArg, B.mbSliceRepHdr]
          simp only [Bool.not_eq_true]
          repeat' split
          all_goals first
            | (exfalso; omega)
            | (rw [beq_eq_false_iff_ne]; omega)
            | rfl)]
  unfold regMask
  rw [hd]
  decide

theorem mbRepData_mask {mb i : Nat} (hi : i < repRoom mb / 8) : regMask (mbRepData mb i) = BitVec.allOnes 64 := by
  unfold mbRepData
  unfold repRoom at hi
  split at hi
  · rw [if_pos ‹_›]
    exact mbSliceRepData_mask mb i ‹_› (by omega)
  · rw [if_neg ‹_›]
    exact mbMgrRepData_mask i (by omega)

theorem mbRepData_inj {mb i k : Nat} (h : mbRepData mb i = mbRepData mb k) : i = k := by
  unfold mbRepData R.mbSliceRepData R.mbMgrRepData at h
  split at h <;> omega

theorem mbRepData_ne {mb i k : Nat} (hk : k < 4) : mbRepData mb i ≠ mbRepHdr mb k ∧ (i < repRoom mb / 8 → mbRepData mb i ≠ mbHdr mb 0) := by
  unfold mbRepData mbRepHdr mbHdr repRoom R.mbSliceRepData R.mbMgrRepData R.mbSliceRepHdr R.mbMgrRepHdr R.mbSliceHdr R.mbMgrHdr
  split <;> constructor <;> omega

/-- Words written one after the other into consecutive places. -/
theorem rd_eachData {s : State} (w : s.Wf) {mb i : Nat} (data : List Word) (n : Nat) (hi : i < data.length) (hn : (n + i) < repRoom mb / 8) :
    ((Act.each (data.zipIdx n) fun (x, i) => .setRegs (mbRepData mb i) x).run s).rd (mbRepData mb (n + i)) = data.getD i 0 := by
  induction data generalizing s n i with
  | nil => simp at hi
  | cons x r ih =>
    rw [List.zipIdx_cons, Act.each_cons_run]
    cases i with
    | zero =>
      refine (Act.In.rd (F := fun p k => p = .regs ∧ ∃ m, n < m ∧ k = mbRepData mb m) (Act.each_in fun y hy => Act.setRegs_in ⟨rfl, y.2, ?_, rfl⟩)
        (by (repeat' apply Act.wf) <;> assumption) ?_).trans ?_
      · have := List.le_snd_of_mem_zipIdx hy
        omega
      · rintro ⟨_, m, hm, e⟩
        have := mbRepData_inj e
        omega
      · rw [Nat.add_zero] at hn ⊢
        rw [State.rd_setRegs w, mbRepData_mask hn, BitVec.and_allOnes]
        rfl
    | succ k =>
      have := ih (s := (Act.setRegs (mbRepData mb n) x).run s) (Act.wf w _) (i := k) (n + 1) (by simpa using hi) (by omega)
      rw [show n + (k + 1) = n + 1 + k by omega]
      exact this

/-- The reply data of a command that ends with its reply (R300). -/
theorem replyOk_data {s : State} (w : s.Wf) {j : JCmd} (hl : j.list = none) {data : List Word} (h : 8 * data.length ≤ repRoom j.part) {i : Nat}
    (hi : i < data.length) : ((Act.replyOk j data).run s).rd (mbRepData j.part i) = data.getD i 0 := by
  rw [replyOk_eq hl h]
  unfold Act.reply Act.answer
  simp only [Act.cons_run, Act.nil_run, Act.get_run, hl, Act.each_cons_run, Act.each_nil, Act.skip_run]
  rw [State.rd_setRegs_ne (by (repeat' apply Act.wf) <;> assumption) ((mbRepData_ne (k := 0) (by decide)).2 (by omega)),
    State.rd_setRegs_ne (by (repeat' apply Act.wf) <;> assumption) (mbRepData_ne (by decide)).1, State.rd_setRegs_ne (by (repeat' apply Act.wf) <;> assumption) (mbRepData_ne (by decide)).1,
    State.rd_setRegs_ne (by (repeat' apply Act.wf) <;> assumption) (mbRepData_ne (by decide)).1, State.rd_setRegs_ne (by (repeat' apply Act.wf) <;> assumption) (mbRepData_ne (by decide)).1]
  have := rd_eachData (s := (Act.incF (R.sliceMb j.part) F.sliceMb_CMDS).run s) (mb := j.part) (Act.wf w _) data 0 hi (by omega)
  rw [Nat.zero_add] at this
  exact this

/-- A command in a mailbox: the next state is that of the command performed in the accepted state. -/
theorem gives_mb {s : State} (w : s.Wf) {c : Instr} {mb op : Nat} {k : JCmd → Act} {P : State → Prop}
    (hc : exec c s = Act.out s (.mbRun mb op k)) (h : s.takes mb op = true) (hp : P ((k (s.mbCmd mb)).run (s.accepted mb))) : Gives c s P :=
  ⟨_, hc, by
    have e := mbRun_run w h k
    exact e ▸ hp⟩

/-- What a command does beside taking the mailbox and replying is all it changes. -/
theorem same_mb {s : State} (w : s.Wf) {mb : Nat} {a : Act} {F : Foot} (h : a.In F) (hp : (pageFoot mb).le F) : Same F s (a.run (s.accepted mb)) := by
  have h1 : (Act.all [.each [0, 1, 2, 3] fun i => .setRegs (mbRepHdr mb i) 0, a]).In F :=
    Act.cons_in ((accepted_foot mb).le fun p k hk => hp p k (by
      simp only [pageFoot, Foot.any_cons, Foot.any_nil]
      exact .inr (.inr (.inl hk)))) (Act.cons_in h Act.nil_in)
  exact h1.same w

end Sys2Proof.Machine
end

