-- ==== Sys2Proof/Laws/PerInstr.lean ====
section
/-! SUPPORT. One law about each command as syntax: the opcode of a command of the Joreg interface is one that a mailbox knows (R301). -/

namespace Sys2Proof.Laws.Mailbox

/-- A command that a mailbox carries has an opcode of the tables of the Joreg interface. -/
def Statement (c : Instr) : Prop := ∀ mb op, c.mailbox = some (mb, op) → (Machine.jOp op).isSome = true

/-- A command that no mailbox carries. -/
theorem of_none {c : Instr} (h : c.mailbox = none) : Statement c := fun _ _ e => nomatch h.symm.trans e

/-- A command with a known opcode. -/
theorem of_some {c : Instr} {mb op : Nat} (h : c.mailbox = some (mb, op)) (k : (Machine.jOp op).isSome = true) : Statement c := by
  intro _ _ e
  cases h.symm.trans e
  exact k

theorem registerWrite {who addr size val tied} : Statement (.registerWrite who addr size val tied) := of_none rfl
theorem rcRead {who addr size tie} : Statement (.rcRead who addr size tie) := of_none rfl
theorem lockWrite {who val} : Statement (.lockWrite who val) := of_none rfl
theorem memoryRead {req addr len upset} : Statement (.memoryRead req addr len upset) := of_none rfl
theorem memoryWrite {req addr data} : Statement (.memoryWrite req addr data) := of_none rfl
theorem patrolRead {dpa upset raced} : Statement (.patrolRead dpa upset raced) := of_none rfl
theorem atomicOp {req addr op} : Statement (.atomicOp req addr op) := of_none rfl
theorem ueLogClear {die val} : Statement (.ueLogClear die val) := of_none rfl
theorem tileEntry {core ctx} : Statement (.tileEntry core ctx) := of_none rfl
theorem vectorBundle {core ctx} : Statement (.vectorBundle core ctx) := of_none rfl
theorem mark {core ctx} : Statement (.mark core ctx) := of_none rfl
theorem end_ {core ctx} : Statement (.end_ core ctx) := of_none rfl
theorem stepBoundary {slice} : Statement (.stepBoundary slice) := of_none rfl
theorem epochTimeout {slice missing} : Statement (.epochTimeout slice missing) := of_none rfl
theorem tileDispatch {core ctx} : Statement (.tileDispatch core ctx) := of_none rfl
theorem bankLoad {core arr} : Statement (.bankLoad core arr) := of_none rfl
theorem bankLoadComplete {core arr} : Statement (.bankLoadComplete core arr) := of_none rfl
theorem moveDataArrival {core ctx} : Statement (.moveDataArrival core ctx) := of_none rfl
theorem weltVerdict {core arr faults residue} : Statement (.weltVerdict core arr faults residue) := of_none rfl
theorem weltRerun {core arr} : Statement (.weltRerun core arr) := of_none rfl
theorem resolePass {core arr} : Statement (.resolePass core arr) := of_none rfl
theorem tileReplay {core ctx} : Statement (.tileReplay core ctx) := of_none rfl
theorem conversion {core} : Statement (.conversion core) := of_none rfl
theorem syncSignal {part idx} : Statement (.syncSignal part idx) := of_none rfl
theorem syncWaitTimeout {core ctx} : Statement (.syncWaitTimeout core ctx) := of_none rfl
theorem overrunAbort {core arr} : Statement (.overrunAbort core arr) := of_none rfl
theorem controlParityError {core} : Statement (.controlParityError core) := of_none rfl
theorem vld {core ctx v} : Statement (.vld core ctx v) := of_none rfl
theorem vst {core ctx v} : Statement (.vst core ctx v) := of_none rfl
theorem vlda {core ctx v} : Statement (.vlda core ctx v) := of_none rfl
theorem vsta {core ctx v} : Statement (.vsta core ctx v) := of_none rfl
theorem vadd {core ctx v} : Statement (.vadd core ctx v) := of_none rfl
theorem vsub {core ctx v} : Statement (.vsub core ctx v) := of_none rfl
theorem vmul {core ctx v} : Statement (.vmul core ctx v) := of_none rfl
theorem vfma {core ctx v} : Statement (.vfma core ctx v) := of_none rfl
theorem vmax {core ctx v} : Statement (.vmax core ctx v) := of_none rfl
theorem vmin {core ctx v} : Statement (.vmin core ctx v) := of_none rfl
theorem vabs {core ctx v} : Statement (.vabs core ctx v) := of_none rfl
theorem vneg {core ctx v} : Statement (.vneg core ctx v) := of_none rfl
theorem vcmplt {core ctx v} : Statement (.vcmplt core ctx v) := of_none rfl
theorem vcmple {core ctx v} : Statement (.vcmple core ctx v) := of_none rfl
theorem vcmpeq {core ctx v} : Statement (.vcmpeq core ctx v) := of_none rfl
theorem vsel {core ctx v} : Statement (.vsel core ctx v) := of_none rfl
theorem vrsum {core ctx v} : Statement (.vrsum core ctx v) := of_none rfl
theorem vrmax {core ctx v} : Statement (.vrmax core ctx v) := of_none rfl
theorem vrmin {core ctx v} : Statement (.vrmin core ctx v) := of_none rfl
theorem vexp2 {core ctx v} : Statement (.vexp2 core ctx v) := of_none rfl
theorem vlog2 {core ctx v} : Statement (.vlog2 core ctx v) := of_none rfl
theorem vrcp {core ctx v} : Statement (.vrcp core ctx v) := of_none rfl
theorem vrsqrt {core ctx v} : Statement (.vrsqrt core ctx v) := of_none rfl
theorem vtanh {core ctx v} : Statement (.vtanh core ctx v) := of_none rfl
theorem verf {core ctx v} : Statement (.verf core ctx v) := of_none rfl
theorem vcvt {core ctx v outFmt rnd srStream index} : Statement (.vcvt core ctx v outFmt rnd srStream index) := of_none rfl
theorem vcvts {core ctx v outFmt rnd srStream index} : Statement (.vcvts core ctx v outFmt rnd srStream index) := of_none rfl
theorem vladd {core ctx v} : Statement (.vladd core ctx v) := of_none rfl
theorem vlcvt {core ctx v rnd srStream index} : Statement (.vlcvt core ctx v rnd srStream index) := of_none rfl
theorem move {core ctx v toStore addr line len} : Statement (.move core ctx v toStore addr line len) := of_none rfl
theorem swait {core ctx v idx val} : Statement (.swait core ctx v idx val) := of_none rfl
theorem ssig {core ctx v idx} : Statement (.ssig core ctx v idx) := of_none rfl
theorem cellSet {mb} : Statement (.cellSet mb) := of_some rfl rfl
theorem cellApply {mb} : Statement (.cellApply mb) := of_some rfl rfl
theorem cellDiscard {mb} : Statement (.cellDiscard mb) := of_some rfl rfl
theorem nrxLoad {mb} : Statement (.nrxLoad mb) := of_some rfl rfl
theorem nrxUnload {mb} : Statement (.nrxUnload mb) := of_some rfl rfl
theorem dspLoad {mb} : Statement (.dspLoad mb) := of_some rfl rfl
theorem portConfig {mb} : Statement (.portConfig mb) := of_some rfl rfl
theorem powerCapSet {mb} : Statement (.powerCapSet mb) := of_some rfl rfl
theorem timeSet {mb} : Statement (.timeSet mb) := of_some rfl rfl
theorem retire {mb} : Statement (.retire mb) := of_some rfl rfl
theorem retireClear {mb} : Statement (.retireClear mb) := of_some rfl rfl
theorem reqFetch {cell esn torn} : Statement (.reqFetch cell esn torn) := of_none rfl
theorem paramRequest {cell esn} : Statement (.paramRequest cell esn) := of_none rfl
theorem configRequest {cell esn body} : Statement (.configRequest cell esn body) := of_none rfl
theorem startRequest {cell esn} : Statement (.startRequest cell esn) := of_none rfl
theorem stopRequest {cell esn} : Statement (.stopRequest cell esn) := of_none rfl
theorem dlTtiRequest {cell esn body} : Statement (.dlTtiRequest cell esn body) := of_none rfl
theorem ulTtiRequest {cell esn body} : Statement (.ulTtiRequest cell esn body) := of_none rfl
theorem ulDciRequest {cell esn body} : Statement (.ulDciRequest cell esn body) := of_none rfl
theorem txDataRequest {cell esn body} : Statement (.txDataRequest cell esn body) := of_none rfl
theorem payFetch {cell esn} : Statement (.payFetch cell esn) := of_none rfl
theorem dlEmit {cell esn incomplete} : Statement (.dlEmit cell esn incomplete) := of_none rfl
theorem indicationWrite {cell esn results} : Statement (.indicationWrite cell esn results) := of_none rfl
theorem nrxCall {cell esn cores sig prb chest nf pdu llr} : Statement (.nrxCall cell esn cores sig prb chest nf pdu llr) := of_none rfl
theorem uplanePacketRx {port pkt} : Statement (.uplanePacketRx port pkt) := of_none rfl
theorem receptionWindowClose {cell stream esn sym} : Statement (.receptionWindowClose cell stream esn sym) := of_none rfl
theorem oneWayDelayMeasurement {port body} : Statement (.oneWayDelayMeasurement port body) := of_none rfl
theorem tdUplinkSymbol {cell stream esn sym} : Statement (.tdUplinkSymbol cell stream esn sym) := of_none rfl
theorem dspJobDispatch {group radio desc stat cells} : Statement (.dspJobDispatch group radio desc stat cells) := of_none rfl
theorem dspProgramStart {d} : Statement (.dspProgramStart d) := of_none rfl
theorem dspStatusRecord {d ce ue} : Statement (.dspStatusRecord d ce ue) := of_none rfl
theorem dspRadioOverrun {d} : Statement (.dspRadioOverrun d) := of_none rfl
theorem dspManagerOverrun {d} : Statement (.dspManagerOverrun d) := of_none rfl
theorem dspWaitTimeout {d} : Statement (.dspWaitTimeout d) := of_none rfl
theorem dspCmac {d sl acc a b} : Statement (.dspCmac d sl acc a b) := of_none rfl
theorem dspCmacj {d sl acc a b} : Statement (.dspCmacj d sl acc a b) := of_none rfl
theorem dspCmul {d sl acc a b} : Statement (.dspCmul d sl acc a b) := of_none rfl
theorem dspRmac {d sl acc a b} : Statement (.dspRmac d sl acc a b) := of_none rfl
theorem dspRmul {d sl acc a b} : Statement (.dspRmul d sl acc a b) := of_none rfl
theorem dspAclr {d sl acc} : Statement (.dspAclr d sl acc) := of_none rfl
theorem dspAadd {d sl acc a b} : Statement (.dspAadd d sl acc a b) := of_none rfl
theorem dspAsub {d sl acc a b} : Statement (.dspAsub d sl acc a b) := of_none rfl
theorem dspAshr {d sl acc a sh} : Statement (.dspAshr d sl acc a sh) := of_none rfl
theorem dspNrw {d sl vd acc sh} : Statement (.dspNrw d sl vd acc sh) := of_none rfl
theorem dspVadd {d sl vd a b} : Statement (.dspVadd d sl vd a b) := of_none rfl
theorem dspVsub {d sl vd a b} : Statement (.dspVsub d sl vd a b) := of_none rfl
theorem dspVneg {d sl vd a} : Statement (.dspVneg d sl vd a) := of_none rfl
theorem dspVabs {d sl vd a} : Statement (.dspVabs d sl vd a) := of_none rfl
theorem dspVmax {d sl vd a b} : Statement (.dspVmax d sl vd a b) := of_none rfl
theorem dspVmin {d sl vd a b} : Statement (.dspVmin d sl vd a b) := of_none rfl
theorem dspVshl {d sl vd a sh} : Statement (.dspVshl d sl vd a sh) := of_none rfl
theorem dspVshr {d sl vd a sh} : Statement (.dspVshr d sl vd a sh) := of_none rfl
theorem dspVand {d sl vd a b} : Statement (.dspVand d sl vd a b) := of_none rfl
theorem dspVor {d sl vd a b} : Statement (.dspVor d sl vd a b) := of_none rfl
theorem dspVxor {d sl vd a b} : Statement (.dspVxor d sl vd a b) := of_none rfl
theorem dspVsel {d sl vd a b c} : Statement (.dspVsel d sl vd a b c) := of_none rfl
theorem dspVnorm {d sl vd a} : Statement (.dspVnorm d sl vd a) := of_none rfl
theorem dspVrcps {d sl vd a} : Statement (.dspVrcps d sl vd a) := of_none rfl
theorem dspLdx {d sl vd ag} : Statement (.dspLdx d sl vd ag) := of_none rfl
theorem dspStx {d sl va ag} : Statement (.dspStx d sl va ag) := of_none rfl
theorem dspLdwx {d sl vd ag} : Statement (.dspLdwx d sl vd ag) := of_none rfl
theorem dspStnx {d sl va ag} : Statement (.dspStnx d sl va ag) := of_none rfl
theorem dspLdsx {d sl sd ag} : Statement (.dspLdsx d sl sd ag) := of_none rfl
theorem dspStsx {d sl sa ag} : Statement (.dspStsx d sl sa ag) := of_none rfl
theorem dspLdy {d sl vd ag} : Statement (.dspLdy d sl vd ag) := of_none rfl
theorem dspSty {d sl va ag} : Statement (.dspSty d sl va ag) := of_none rfl
theorem dspLdwy {d sl vd ag} : Statement (.dspLdwy d sl vd ag) := of_none rfl
theorem dspStny {d sl va ag} : Statement (.dspStny d sl va ag) := of_none rfl
theorem dspLdsy {d sl sd ag} : Statement (.dspLdsy d sl sd ag) := of_none rfl
theorem dspStsy {d sl sa ag} : Statement (.dspStsy d sl sa ag) := of_none rfl
theorem dspLoop {d sl reg count lastOff} : Statement (.dspLoop d sl reg count lastOff) := of_none rfl
theorem dspBr {d sl target} : Statement (.dspBr d sl target) := of_none rfl
theorem dspBrc {d sl cond a b target} : Statement (.dspBrc d sl cond a b target) := of_none rfl
theorem dspCall {d sl target} : Statement (.dspCall d sl target) := of_none rfl
theorem dspRet {d sl} : Statement (.dspRet d sl) := of_none rfl
theorem dspEnd {d sl} : Statement (.dspEnd d sl) := of_none rfl
theorem dspSmov {d sl sd src imm} : Statement (.dspSmov d sl sd src imm) := of_none rfl
theorem dspSadd {d sl sd a b} : Statement (.dspSadd d sl sd a b) := of_none rfl
theorem dspSsub {d sl sd a b} : Statement (.dspSsub d sl sd a b) := of_none rfl
theorem dspSand {d sl sd a b} : Statement (.dspSand d sl sd a b) := of_none rfl
theorem dspSshl {d sl sd a b} : Statement (.dspSshl d sl sd a b) := of_none rfl
theorem dspAgset {d sl ag base idx step mod mode mem} : Statement (.dspAgset d sl ag base idx step mod mode mem) := of_none rfl
theorem dspAgld {d sl ag field sa} : Statement (.dspAgld d sl ag field sa) := of_none rfl
theorem dspModeset {d sl sat} : Statement (.dspModeset d sl sat) := of_none rfl
theorem ldpcDecodeJob {cluster radio desc stat hqErr} : Statement (.ldpcDecodeJob cluster radio desc stat hqErr) := of_none rfl
theorem ldpcEncodeJob {cluster radio desc stat} : Statement (.ldpcEncodeJob cluster radio desc stat) := of_none rfl
theorem dciEncode {cluster radio desc stat cells} : Statement (.dciEncode cluster radio desc stat cells) := of_none rfl
theorem bchEncode {cluster radio desc stat cells} : Statement (.bchEncode cluster radio desc stat cells) := of_none rfl
theorem uciPolarDecode {cluster radio desc stat cells} : Statement (.uciPolarDecode cluster radio desc stat cells) := of_none rfl
theorem uciReedMullerDecode {cluster radio desc stat cells} : Statement (.uciReedMullerDecode cluster radio desc stat cells) := of_none rfl
theorem codeBlockDone {engine checkFail ce} : Statement (.codeBlockDone engine checkFail ce) := of_none rfl
theorem codingStatusRecord {cluster kind} : Statement (.codingStatusRecord cluster kind) := of_none rfl
theorem codingJobOverrun {cluster kind} : Statement (.codingJobOverrun cluster kind) := of_none rfl
theorem engineSelftest {engine pass} : Statement (.engineSelftest engine pass) := of_none rfl
theorem harqTtlExpiry {cell rnti harqId} : Statement (.harqTtlExpiry cell rnti harqId) := of_none rfl
theorem raOccasionSearch {cell cfg esn sym raIdx det checkFail} : Statement (.raOccasionSearch cell cfg esn sym raIdx det checkFail) := of_none rfl
theorem msgaDecode {cell handle esn} : Statement (.msgaDecode cell handle esn) := of_none rfl
theorem announce {m} : Statement (.announce m) := of_none rfl
theorem sync {m} : Statement (.sync m) := of_none rfl
theorem followUp {m} : Statement (.followUp m) := of_none rfl
theorem delayReq {stamp frStamp} : Statement (.delayReq stamp frStamp) := of_none rfl
theorem delayResp {m} : Statement (.delayResp m) := of_none rfl
theorem masterDelayReq {m} : Statement (.masterDelayReq m) := of_none rfl
theorem masterSyncTx {port} : Statement (.masterSyncTx port) := of_none rfl
theorem masterAnnounceTx {port} : Statement (.masterAnnounceTx port) := of_none rfl
theorem timeStep : Statement .timeStep := of_none rfl
theorem recoveryEntry : Statement .recoveryEntry := of_none rfl
theorem timeReferenceLoss : Statement .timeReferenceLoss := of_none rfl
theorem announceReceiptTimeout : Statement .announceReceiptTimeout := of_none rfl
theorem sampleTimeout : Statement .sampleTimeout := of_none rfl
theorem holdoverExpiry : Statement .holdoverExpiry := of_none rfl
theorem ppsInEdge {stamp} : Statement (.ppsInEdge stamp) := of_none rfl
theorem ppsOut : Statement .ppsOut := of_none rfl
theorem esmcTx {port event} : Statement (.esmcTx port event) := of_none rfl
theorem esmcRx {port ql} : Statement (.esmcRx port ql) := of_none rfl
theorem qlTimeout : Statement .qlTimeout := of_none rfl
theorem freqRefSwitch {synceOk ref10Ok} : Statement (.freqRefSwitch synceOk ref10Ok) := of_none rfl
theorem timeCfgWrite {who val} : Statement (.timeCfgWrite who val) := of_none rfl
theorem timeLatch {who val} : Statement (.timeLatch who val) := of_none rfl
theorem periodBoundary {measW} : Statement (.periodBoundary measW) := of_none rfl
theorem stitchStart {n} : Statement (.stitchStart n) := of_none rfl
theorem lastRebuild {core arr} : Statement (.lastRebuild core arr) := of_none rfl
theorem attentionSet {bit} : Statement (.attentionSet bit) := of_none rfl
theorem attentionFlushDone {ok} : Statement (.attentionFlushDone ok) := of_none rfl
theorem attentionAck {word val tied} : Statement (.attentionAck word val tied) := of_none rfl
theorem attnCfgWrite {val} : Statement (.attnCfgWrite val) := of_none rfl
theorem rbNHoldEnd : Statement .rbNHoldEnd := of_none rfl
theorem bar2Access {off write len data upset} : Statement (.bar2Access off write len data upset) := of_none rfl
theorem dmaCompletionError {part cells} : Statement (.dmaCompletionError part cells) := of_none rfl
theorem completionTimeout {part cells} : Statement (.completionTimeout part cells) := of_none rfl
theorem linkDown : Statement .linkDown := of_none rfl
theorem linkUp {rate width flit} : Statement (.linkUp rate width flit) := of_none rfl
theorem doeRequest {request} : Statement (.doeRequest request) := of_none rfl
theorem perstN {level} : Statement (.perstN level) := of_none rfl
theorem hotReset : Statement .hotReset := of_none rfl
theorem devInfo {mb} : Statement (.devInfo mb) := of_some rfl rfl
theorem recoveryLoad {mb readOk} : Statement (.recoveryLoad mb readOk) := of_some rfl rfl
theorem sliceCreate {mb} : Statement (.sliceCreate mb) := of_some rfl rfl
theorem sliceDestroy {mb} : Statement (.sliceDestroy mb) := of_some rfl rfl
theorem sliceReset {mb} : Statement (.sliceReset mb) := of_some rfl rfl
theorem pasidBind {mb} : Statement (.pasidBind mb) := of_some rfl rfl
theorem pasidUnbind {mb} : Statement (.pasidUnbind mb) := of_some rfl rfl
theorem sliceQuery {mb} : Statement (.sliceQuery mb) := of_some rfl rfl
theorem arrayMove {mb} : Statement (.arrayMove mb) := of_some rfl rfl
theorem ctxStart {mb} : Statement (.ctxStart mb) := of_some rfl rfl
theorem ctxStop {mb} : Statement (.ctxStop mb) := of_some rfl rfl
theorem listSubmit {mb} : Statement (.listSubmit mb) := of_some rfl rfl
theorem listEntry {part fetchOk} : Statement (.listEntry part fetchOk) := of_none rfl
theorem batchSubmit {mb} : Statement (.batchSubmit mb) := of_some rfl rfl
theorem batchAbort {mb} : Statement (.batchAbort mb) := of_some rfl rfl
theorem listAbort {mb} : Statement (.listAbort mb) := of_some rfl rfl
theorem slicePause {mb} : Statement (.slicePause mb) := of_some rfl rfl
theorem sliceResume {mb} : Statement (.sliceResume mb) := of_some rfl rfl
theorem sliceCheckpoint {mb} : Statement (.sliceCheckpoint mb) := of_some rfl rfl
theorem sliceRestore {mb firstOk secondOk} : Statement (.sliceRestore mb firstOk secondOk) := of_some rfl rfl
theorem modeChange {mb} : Statement (.modeChange mb) := of_some rfl rfl
theorem launchBarrier {mb} : Statement (.launchBarrier mb) := of_some rfl rfl
theorem partitionResetDone {slice} : Statement (.partitionResetDone slice) := of_none rfl
theorem healthCfg {mb} : Statement (.healthCfg mb) := of_some rfl rfl
theorem healthQuery {mb} : Statement (.healthQuery mb) := of_some rfl rfl
theorem healthClear {mb} : Statement (.healthClear mb) := of_some rfl rfl
theorem stepReport {mb} : Statement (.stepReport mb) := of_some rfl rfl
theorem ctrProgram {mb} : Statement (.ctrProgram mb) := of_some rfl rfl
theorem ctrRead {mb} : Statement (.ctrRead mb) := of_some rfl rfl
theorem ctrSampleCfg {mb} : Statement (.ctrSampleCfg mb) := of_some rfl rfl
theorem ctrSampleRead {mb} : Statement (.ctrSampleRead mb) := of_some rfl rfl
theorem ctrDump {mb} : Statement (.ctrDump mb) := of_some rfl rfl
theorem ctrDumpStop {mb} : Statement (.ctrDumpStop mb) := of_some rfl rfl
theorem dumpSnapshot {ring busy ok} : Statement (.dumpSnapshot ring busy ok) := of_none rfl
theorem recRead {mb} : Statement (.recRead mb) := of_some rfl rfl
theorem recFreeze {mb} : Statement (.recFreeze mb) := of_some rfl rfl
theorem recThaw {mb} : Statement (.recThaw mb) := of_some rfl rfl
theorem recClear {mb} : Statement (.recClear mb) := of_some rfl rfl
theorem recLeash {mb} : Statement (.recLeash mb) := of_some rfl rfl
theorem recTrigger {mb} : Statement (.recTrigger mb) := of_some rfl rfl
theorem recStatus {mb} : Statement (.recStatus mb) := of_some rfl rfl
theorem recordSubmit {code part src payload} : Statement (.recordSubmit code part src payload) := of_none rfl
theorem snapshotRecord {trigger} : Statement (.snapshotRecord trigger) := of_none rfl
theorem leashToken {code} : Statement (.leashToken code) := of_none rfl
theorem hoursUpdate : Statement .hoursUpdate := of_none rfl
theorem freezeTimeout : Statement .freezeTimeout := of_none rfl
theorem recEraseDone : Statement .recEraseDone := of_none rfl
theorem attReport {mb} : Statement (.attReport mb) := of_some rfl rfl
theorem attChain {mb} : Statement (.attChain mb) := of_some rfl rfl
theorem attExtend {mb} : Statement (.attExtend mb) := of_some rfl rfl
theorem dbgReqN : Statement .dbgReqN := of_none rfl
theorem engineEntryTake {e} : Statement (.engineEntryTake e) := of_none rfl
theorem nop {e} : Statement (.nop e) := of_none rfl
theorem load {e} : Statement (.load e) := of_none rfl
theorem store {e} : Statement (.store e) := of_none rfl
theorem flagStore {e} : Statement (.flagStore e) := of_none rfl
theorem add64 {e} : Statement (.add64 e) := of_none rfl
theorem min64 {e} : Statement (.min64 e) := of_none rfl
theorem max64 {e} : Statement (.max64 e) := of_none rfl
theorem swap64 {e} : Statement (.swap64 e) := of_none rfl
theorem cas64 {e} : Statement (.cas64 e) := of_none rfl
theorem ladd128 {e} : Statement (.ladd128 e) := of_none rfl
theorem fence {e} : Statement (.fence e) := of_none rfl
theorem fabricRequestRx {r} : Statement (.fabricRequestRx r) := of_none rfl
theorem flagStorePerform {node psn} : Statement (.flagStorePerform node psn) := of_none rfl
theorem syn {r} : Statement (.syn r) := of_none rfl
theorem acknowledgement {a} : Statement (.acknowledgement a) := of_none rfl
theorem credit {node incarn lim} : Statement (.credit node incarn lim) := of_none rfl
theorem retransmit {node psn} : Statement (.retransmit node psn) := of_none rfl
theorem nopKeepalive {node} : Statement (.nopKeepalive node) := of_none rfl
theorem fabricTimeout {node psn} : Statement (.fabricTimeout node psn) := of_none rfl
theorem connectionIdleClose {node} : Statement (.connectionIdleClose node) := of_none rfl
theorem fabricPortDown {port} : Statement (.fabricPortDown port) := of_none rfl
theorem regionDescriptorWrite {who region word val} : Statement (.regionDescriptorWrite who region word val) := of_none rfl
theorem arrive {barId node t1 t2} : Statement (.arrive barId node t1 t2) := of_none rfl
theorem release {barId node t1 t2 t3 t4 tRel} : Statement (.release barId node t1 t2 t3 t4 tRel) := of_none rfl
theorem arriveResend {slice} : Statement (.arriveResend slice) := of_none rfl
theorem barrierOpen {slice} : Statement (.barrierOpen slice) := of_none rfl
theorem barrierTimeout {slice} : Statement (.barrierTimeout slice) := of_none rfl
theorem houndPacketRx {unit seq ack recs} : Statement (.houndPacketRx unit seq ack recs) := of_none rfl
theorem houndResend {unit} : Statement (.houndResend unit) := of_none rfl
theorem houndCfgWrite {who unit val} : Statement (.houndCfgWrite who unit val) := of_none rfl
theorem diePairTimeout {slice} : Statement (.diePairTimeout slice) := of_none rfl
theorem repTransitionDone {core} : Statement (.repTransitionDone core) := of_none rfl
theorem healthEvaluation : Statement .healthEvaluation := of_none rfl
theorem clockFailure {island} : Statement (.clockFailure island) := of_none rfl
theorem supplyEvent {island} : Statement (.supplyEvent island) := of_none rfl
theorem railEvent {rail} : Statement (.railEvent rail) := of_none rfl
theorem flitCrcFailure {req second} : Statement (.flitCrcFailure req second) := of_none rfl
theorem uhlileMismatch : Statement .uhlileMismatch := of_none rfl
theorem uhlileRestartDone : Statement .uhlileRestartDone := of_none rfl
theorem arraySelftest {core arr pass} : Statement (.arraySelftest core arr pass) := of_none rfl
theorem moduleReset {r} : Statement (.moduleReset r) := of_none rfl
theorem warmReset {cause r} : Statement (.warmReset cause r) := of_none rfl
theorem resetProtocolTimeout : Statement .resetProtocolTimeout := of_none rfl
theorem runWatchdog : Statement .runWatchdog := of_none rfl
theorem notReadyClear : Statement .notReadyClear := of_none rfl
theorem inputQualified {mv} : Statement (.inputQualified mv) := of_none rfl
theorem undervoltage {mv} : Statement (.undervoltage mv) := of_none rfl
theorem overvoltage {mv} : Statement (.overvoltage mv) := of_none rfl
theorem inputOutOfRange {mv} : Statement (.inputOutOfRange mv) := of_none rfl
theorem uvDip : Statement .uvDip := of_none rfl
theorem faultRestart : Statement .faultRestart := of_none rfl
theorem tempSample {tj island} : Statement (.tempSample tj island) := of_none rfl
theorem thermalTrip : Statement .thermalTrip := of_none rfl
theorem powerSample {mv ma pin} : Statement (.powerSample mv ma pin) := of_none rfl
theorem loInQualified : Statement .loInQualified := of_none rfl
theorem loInLoss : Statement .loInLoss := of_none rfl
theorem ppsInMissingEdge : Statement .ppsInMissingEdge := of_none rfl
theorem laneLossOfSignal {lane} : Statement (.laneLossOfSignal lane) := of_none rfl
theorem portLinkUp {port} : Statement (.portLinkUp port) := of_none rfl
theorem fecUncorrectableCodeword {lane} : Statement (.fecUncorrectableCodeword lane) := of_none rfl
theorem otherFrameRx {port} : Statement (.otherFrameRx port) := of_none rfl
theorem badFcsFrame {port} : Statement (.badFcsFrame port) := of_none rfl
theorem pcieCorrectableError : Statement .pcieCorrectableError := of_none rfl
theorem creditReturn {node} : Statement (.creditReturn node) := of_none rfl
theorem channelRetraining {ch retries ok} : Statement (.channelRetraining ch retries ok) := of_none rfl
theorem tdDownlinkSymbol {cell stream esn sym} : Statement (.tdDownlinkSymbol cell stream esn sym) := of_none rfl
theorem radioStageOverrun {cell} : Statement (.radioStageOverrun cell) := of_none rfl
theorem arriveHoldExpiry {barId} : Statement (.arriveHoldExpiry barId) := of_none rfl

end Sys2Proof.Laws.Mailbox
end

