-- ==== Sys2Proof/Laws/PiecesDspOps.lean ====
section
/-! SUPPORT. The pieces of state that the operations of Machine/DspOps.lean can write. -/

set_option linter.unusedSimpArgs false

namespace Sys2Proof.Machine

theorem Act.dmSet_pieces {F : Foot} {d : Nat} {mem : Nat} {w : Nat} {v : Nat} (hL : (Foot.whole [.dspMem]).le F) : (Act.dmSet d mem w v).In F := by
  unfold Act.dmSet
  repeat' first
    | with_reducible first
      | exact Act.nil_in
      | exact Act.skip_in
      | apply Act.cons_in
      | apply Act.seq_in
      | (apply Act.get_in; intro _)
      | (apply Act.when_in; intro _)
      | apply Act.ite_in
      | (apply Act.each_in; intro _ _)
      | (exact Act.setDspMem_in (Foot.has hL (by decide) _))
    | dsimp only
    | split

theorem Act.dmSetHalf_pieces {F : Foot} {d : Nat} {mem : Nat} {h : Nat} {v : Nat} (hL : (Foot.whole [.dspMem]).le F) : (Act.dmSetHalf d mem h v).In F := by
  unfold Act.dmSetHalf
  repeat' first
    | with_reducible first
      | exact Act.nil_in
      | exact Act.skip_in
      | apply Act.cons_in
      | apply Act.seq_in
      | (apply Act.get_in; intro _)
      | (apply Act.when_in; intro _)
      | apply Act.ite_in
      | (apply Act.each_in; intro _ _)
      | (exact Act.dmSet_pieces (Foot.sub hL (by decide)))
    | dsimp only
    | split

theorem Act.dspGo_pieces {F : Foot} {d : Nat} {x0 : Nat} (hL : (Foot.whole [.regs, .host, .leash, .trigs, .log, .recUsed, .recDrop, .cells, .cjobs, .dsps, .recd, .attn, .sigq, .held, .free, .emitted]).le F) : (Act.dspGo d x0).In F := by
  induction x0 with
  | zero => exact Act.skip_in
  | succ n ih =>
    unfold Act.dspGo
    repeat' first
      | with_reducible first
        | exact Act.nil_in
        | exact Act.skip_in
        | apply Act.cons_in
        | apply Act.seq_in
        | (apply Act.get_in; intro _)
        | (apply Act.when_in; intro _)
        | apply Act.ite_in
        | (apply Act.each_in; intro _ _)
        | (exact Act.dspFaultNow_pieces (Foot.sub hL (by decide)))
        | (exact Act.incF_in (Foot.has hL (by decide) _))
        | (exact Act.modDsps_in (Foot.has hL (by decide) _))
        | (exact Act.pmc_pieces (Foot.sub hL (by decide)))
        | (exact Act.setF_in (Foot.has hL (by decide) _))
        | (apply ih)
      | dsimp only
      | split

theorem Act.dspResidue_pieces {F : Foot} {d : Nat} {sl : Slot} {checked : Bool} {body : Act} (hL : (Foot.whole [.regs, .host, .leash, .trigs, .log, .recUsed, .recDrop, .cells, .cjobs, .dsps, .recd, .attn, .sigq, .held, .free, .emitted]).le F) (hc_body : body.In F) : (Act.dspResidue d sl checked body).In F := by
  unfold Act.dspResidue
  repeat' first
    | with_reducible first
      | exact Act.nil_in
      | exact Act.skip_in
      | apply Act.cons_in
      | apply Act.seq_in
      | (apply Act.get_in; intro _)
      | (apply Act.when_in; intro _)
      | apply Act.ite_in
      | (apply Act.each_in; intro _ _)
      | (exact Act.dspFaultNow_pieces (Foot.sub hL (by decide)))
      | (exact Act.dspFence_pieces (Foot.sub hL (by decide)))
      | (exact Act.incF_in (Foot.has hL (by decide) _))
      | (exact Act.modDsps_in (Foot.has hL (by decide) _))
      | exact hc_body
    | dsimp only
    | split

theorem Act.dspSlot_pieces {F : Foot} {d : Nat} {slot : Nat} {lo : Nat} {hi : Nat} {sl : Slot} {checked : Bool} {writes : List (Nat × Nat)} {body : DspRegs → Act} (hL : (Foot.whole [.regs, .host, .leash, .trigs, .log, .recUsed, .recDrop, .cells, .cjobs, .dsps, .recd, .attn, .sigq, .held, .free, .emitted]).le F) (hc_body : ∀ y0, (body y0).In F) : (Act.dspSlot d slot lo hi sl checked writes body).In F := by
  unfold Act.dspSlot
  repeat' first
    | with_reducible first
      | exact Act.nil_in
      | exact Act.skip_in
      | apply Act.cons_in
      | apply Act.seq_in
      | (apply Act.get_in; intro _)
      | (apply Act.when_in; intro _)
      | apply Act.ite_in
      | (apply Act.each_in; intro _ _)
      | (exact Act.dspFaultNow_pieces (Foot.sub hL (by decide)))
      | (exact Act.dspFence_pieces (Foot.sub hL (by decide)))
      | (exact Act.dspGo_pieces (Foot.sub hL (by decide)))
      | (refine Act.dspResidue_pieces (Foot.sub hL (by decide)) ?_ <;> intros)
      | (exact Act.incF_in (Foot.has hL (by decide) _))
      | (exact Act.modDsps_in (Foot.has hL (by decide) _))
      | exact hc_body _
    | dsimp only
    | split

theorem Act.dspRegs_pieces {F : Foot} {d : Nat} {f : DspRegs → DspRegs} (hL : (Foot.whole [.dsps]).le F) : (Act.dspRegs d f).In F := by
  unfold Act.dspRegs
  repeat' first
    | with_reducible first
      | exact Act.nil_in
      | exact Act.skip_in
      | apply Act.cons_in
      | apply Act.seq_in
      | (apply Act.get_in; intro _)
      | (apply Act.when_in; intro _)
      | apply Act.ite_in
      | (apply Act.each_in; intro _ _)
      | (exact Act.modDsps_in (Foot.has hL (by decide) _))
    | dsimp only
    | split

end Sys2Proof.Machine
end

