-- ==== Sys2Proof/Laws/PiecesDsp.lean ====
section
/-! SUPPORT. The pieces of state that the operations of Machine/Dsp.lean can write, and the frames of its commands. -/

set_option linter.unusedSimpArgs false

namespace Sys2Proof.Machine

theorem Act.dspAccOp_pieces {F : Foot} {d : Nat} {lo : Nat} {hi : Nat} {sl : Slot} {acc : Nat} {f : DspRegs → List Int} (hL : (Foot.whole [.regs, .host, .leash, .trigs, .log, .recUsed, .recDrop, .cells, .cjobs, .dsps, .recd, .attn, .sigq, .held, .free, .emitted]).le F) : (Act.dspAccOp d lo hi sl acc f).In F := by
  unfold Act.dspAccOp
  repeat' first
    | with_reducible first
      | exact Act.nil_in
      | exact Act.skip_in
      | apply Act.cons_in
      | apply Act.seq_in
      | (apply Act.get_in; intro _)
      | (apply Act.when_in; intro _)
      | apply Act.ite_in
      | (apply Act.each_in; intro _ _)
      | (exact Act.dspRegs_pieces (Foot.sub hL (by decide)))
      | (refine Act.dspSlot_pieces (Foot.sub hL (by decide)) ?_ <;> intros)
    | dsimp only
    | split

theorem frame_dspCmac {s : State} (w : s.Wf) {d : Nat} {sl : Slot} {acc : Nat} {a : Nat} {b : Nat} : Framed (.whole [.regs, .host, .leash, .trigs, .log, .recUsed, .recDrop, .cells, .cjobs, .dsps, .recd, .attn, .sigq, .held, .free, .emitted]) (.dspCmac d sl acc a b) s := by
  have hL : (Foot.whole [.regs, .host, .leash, .trigs, .log, .recUsed, .recDrop, .cells, .cjobs, .dsps, .recd, .attn, .sigq, .held, .free, .emitted]).le (Foot.whole [.regs, .host, .leash, .trigs, .log, .recUsed, .recDrop, .cells, .cjobs, .dsps, .recd, .attn, .sigq, .held, .free, .emitted]) := Foot.le_refl
  refine framed_out w (o := execDspCmac d sl acc a b s) rfl ?_
  unfold execDspCmac
  refine ⟨_, rfl, ?_⟩
  repeat' first
    | with_reducible first
      | exact Act.nil_in
      | exact Act.skip_in
      | apply Act.cons_in
      | apply Act.seq_in
      | (apply Act.get_in; intro _)
      | (apply Act.when_in; intro _)
      | apply Act.ite_in
      | (apply Act.each_in; intro _ _)
      | (exact Act.dspAccOp_pieces (Foot.sub hL (by decide)))
    | dsimp only
    | split

theorem frame_dspCmacj {s : State} (w : s.Wf) {d : Nat} {sl : Slot} {acc : Nat} {a : Nat} {b : Nat} : Framed (.whole [.regs, .host, .leash, .trigs, .log, .recUsed, .recDrop, .cells, .cjobs, .dsps, .recd, .attn, .sigq, .held, .free, .emitted]) (.dspCmacj d sl acc a b) s := by
  have hL : (Foot.whole [.regs, .host, .leash, .trigs, .log, .recUsed, .recDrop, .cells, .cjobs, .dsps, .recd, .attn, .sigq, .held, .free, .emitted]).le (Foot.whole [.regs, .host, .leash, .trigs, .log, .recUsed, .recDrop, .cells, .cjobs, .dsps, .recd, .attn, .sigq, .held, .free, .emitted]) := Foot.le_refl
  refine framed_out w (o := execDspCmacj d sl acc a b s) rfl ?_
  unfold execDspCmacj
  refine ⟨_, rfl, ?_⟩
  repeat' first
    | with_reducible first
      | exact Act.nil_in
      | exact Act.skip_in
      | apply Act.cons_in
      | apply Act.seq_in
      | (apply Act.get_in; intro _)
      | (apply Act.when_in; intro _)
      | apply Act.ite_in
      | (apply Act.each_in; intro _ _)
      | (exact Act.dspAccOp_pieces (Foot.sub hL (by decide)))
    | dsimp only
    | split

theorem frame_dspCmul {s : State} (w : s.Wf) {d : Nat} {sl : Slot} {acc : Nat} {a : Nat} {b : Nat} : Framed (.whole [.regs, .host, .leash, .trigs, .log, .recUsed, .recDrop, .cells, .cjobs, .dsps, .recd, .attn, .sigq, .held, .free, .emitted]) (.dspCmul d sl acc a b) s := by
  have hL : (Foot.whole [.regs, .host, .leash, .trigs, .log, .recUsed, .recDrop, .cells, .cjobs, .dsps, .recd, .attn, .sigq, .held, .free, .emitted]).le (Foot.whole [.regs, .host, .leash, .trigs, .log, .recUsed, .recDrop, .cells, .cjobs, .dsps, .recd, .attn, .sigq, .held, .free, .emitted]) := Foot.le_refl
  refine framed_out w (o := execDspCmul d sl acc a b s) rfl ?_
  unfold execDspCmul
  refine ⟨_, rfl, ?_⟩
  repeat' first
    | with_reducible first
      | exact Act.nil_in
      | exact Act.skip_in
      | apply Act.cons_in
      | apply Act.seq_in
      | (apply Act.get_in; intro _)
      | (apply Act.when_in; intro _)
      | apply Act.ite_in
      | (apply Act.each_in; intro _ _)
      | (exact Act.dspAccOp_pieces (Foot.sub hL (by decide)))
    | dsimp only
    | split

theorem frame_dspRmac {s : State} (w : s.Wf) {d : Nat} {sl : Slot} {acc : Nat} {a : Nat} {b : Nat} : Framed (.whole [.regs, .host, .leash, .trigs, .log, .recUsed, .recDrop, .cells, .cjobs, .dsps, .recd, .attn, .sigq, .held, .free, .emitted]) (.dspRmac d sl acc a b) s := by
  have hL : (Foot.whole [.regs, .host, .leash, .trigs, .log, .recUsed, .recDrop, .cells, .cjobs, .dsps, .recd, .attn, .sigq, .held, .free, .emitted]).le (Foot.whole [.regs, .host, .leash, .trigs, .log, .recUsed, .recDrop, .cells, .cjobs, .dsps, .recd, .attn, .sigq, .held, .free, .emitted]) := Foot.le_refl
  refine framed_out w (o := execDspRmac d sl acc a b s) rfl ?_
  unfold execDspRmac
  refine ⟨_, rfl, ?_⟩
  repeat' first
    | with_reducible first
      | exact Act.nil_in
      | exact Act.skip_in
      | apply Act.cons_in
      | apply Act.seq_in
      | (apply Act.get_in; intro _)
      | (apply Act.when_in; intro _)
      | apply Act.ite_in
      | (apply Act.each_in; intro _ _)
      | (exact Act.dspAccOp_pieces (Foot.sub hL (by decide)))
    | dsimp only
    | split

theorem frame_dspRmul {s : State} (w : s.Wf) {d : Nat} {sl : Slot} {acc : Nat} {a : Nat} {b : Nat} : Framed (.whole [.regs, .host, .leash, .trigs, .log, .recUsed, .recDrop, .cells, .cjobs, .dsps, .recd, .attn, .sigq, .held, .free, .emitted]) (.dspRmul d sl acc a b) s := by
  have hL : (Foot.whole [.regs, .host, .leash, .trigs, .log, .recUsed, .recDrop, .cells, .cjobs, .dsps, .recd, .attn, .sigq, .held, .free, .emitted]).le (Foot.whole [.regs, .host, .leash, .trigs, .log, .recUsed, .recDrop, .cells, .cjobs, .dsps, .recd, .attn, .sigq, .held, .free, .emitted]) := Foot.le_refl
  refine framed_out w (o := execDspRmul d sl acc a b s) rfl ?_
  unfold execDspRmul
  refine ⟨_, rfl, ?_⟩
  repeat' first
    | with_reducible first
      | exact Act.nil_in
      | exact Act.skip_in
      | apply Act.cons_in
      | apply Act.seq_in
      | (apply Act.get_in; intro _)
      | (apply Act.when_in; intro _)
      | apply Act.ite_in
      | (apply Act.each_in; intro _ _)
      | (exact Act.dspAccOp_pieces (Foot.sub hL (by decide)))
    | dsimp only
    | split

theorem frame_dspAclr {s : State} (w : s.Wf) {d : Nat} {sl : Slot} {acc : Nat} : Framed (.whole [.regs, .host, .leash, .trigs, .log, .recUsed, .recDrop, .cells, .cjobs, .dsps, .recd, .attn, .sigq, .held, .free, .emitted]) (.dspAclr d sl acc) s := by
  have hL : (Foot.whole [.regs, .host, .leash, .trigs, .log, .recUsed, .recDrop, .cells, .cjobs, .dsps, .recd, .attn, .sigq, .held, .free, .emitted]).le (Foot.whole [.regs, .host, .leash, .trigs, .log, .recUsed, .recDrop, .cells, .cjobs, .dsps, .recd, .attn, .sigq, .held, .free, .emitted]) := Foot.le_refl
  refine framed_out w (o := execDspAclr d sl acc s) rfl ?_
  unfold execDspAclr
  refine ⟨_, rfl, ?_⟩
  repeat' first
    | with_reducible first
      | exact Act.nil_in
      | exact Act.skip_in
      | apply Act.cons_in
      | apply Act.seq_in
      | (apply Act.get_in; intro _)
      | (apply Act.when_in; intro _)
      | apply Act.ite_in
      | (apply Act.each_in; intro _ _)
      | (exact Act.dspAccOp_pieces (Foot.sub hL (by decide)))
    | dsimp only
    | split

theorem frame_dspAadd {s : State} (w : s.Wf) {d : Nat} {sl : Slot} {acc : Nat} {a : Nat} {b : Nat} : Framed (.whole [.regs, .host, .leash, .trigs, .log, .recUsed, .recDrop, .cells, .cjobs, .dsps, .recd, .attn, .sigq, .held, .free, .emitted]) (.dspAadd d sl acc a b) s := by
  have hL : (Foot.whole [.regs, .host, .leash, .trigs, .log, .recUsed, .recDrop, .cells, .cjobs, .dsps, .recd, .attn, .sigq, .held, .free, .emitted]).le (Foot.whole [.regs, .host, .leash, .trigs, .log, .recUsed, .recDrop, .cells, .cjobs, .dsps, .recd, .attn, .sigq, .held, .free, .emitted]) := Foot.le_refl
  refine framed_out w (o := execDspAadd d sl acc a b s) rfl ?_
  unfold execDspAadd
  refine ⟨_, rfl, ?_⟩
  repeat' first
    | with_reducible first
      | exact Act.nil_in
      | exact Act.skip_in
      | apply Act.cons_in
      | apply Act.seq_in
      | (apply Act.get_in; intro _)
      | (apply Act.when_in; intro _)
      | apply Act.ite_in
      | (apply Act.each_in; intro _ _)
      | (exact Act.dspAccOp_pieces (Foot.sub hL (by decide)))
    | dsimp only
    | split

theorem frame_dspAsub {s : State} (w : s.Wf) {d : Nat} {sl : Slot} {acc : Nat} {a : Nat} {b : Nat} : Framed (.whole [.regs, .host, .leash, .trigs, .log, .recUsed, .recDrop, .cells, .cjobs, .dsps, .recd, .attn, .sigq, .held, .free, .emitted]) (.dspAsub d sl acc a b) s := by
  have hL : (Foot.whole [.regs, .host, .leash, .trigs, .log, .recUsed, .recDrop, .cells, .cjobs, .dsps, .recd, .attn, .sigq, .held, .free, .emitted]).le (Foot.whole [.regs, .host, .leash, .trigs, .log, .recUsed, .recDrop, .cells, .cjobs, .dsps, .recd, .attn, .sigq, .held, .free, .emitted]) := Foot.le_refl
  refine framed_out w (o := execDspAsub d sl acc a b s) rfl ?_
  unfold execDspAsub
  refine ⟨_, rfl, ?_⟩
  repeat' first
    | with_reducible first
      | exact Act.nil_in
      | exact Act.skip_in
      | apply Act.cons_in
      | apply Act.seq_in
      | (apply Act.get_in; intro _)
      | (apply Act.when_in; intro _)
      | apply Act.ite_in
      | (apply Act.each_in; intro _ _)
      | (exact Act.dspAccOp_pieces (Foot.sub hL (by decide)))
    | dsimp only
    | split

theorem frame_dspAshr {s : State} (w : s.Wf) {d : Nat} {sl : Slot} {acc : Nat} {a : Nat} {sh : Nat} : Framed (.whole [.regs, .host, .leash, .trigs, .log, .recUsed, .recDrop, .cells, .cjobs, .dsps, .recd, .attn, .sigq, .held, .free, .emitted]) (.dspAshr d sl acc a sh) s := by
  have hL : (Foot.whole [.regs, .host, .leash, .trigs, .log, .recUsed, .recDrop, .cells, .cjobs, .dsps, .recd, .attn, .sigq, .held, .free, .emitted]).le (Foot.whole [.regs, .host, .leash, .trigs, .log, .recUsed, .recDrop, .cells, .cjobs, .dsps, .recd, .attn, .sigq, .held, .free, .emitted]) := Foot.le_refl
  refine framed_out w (o := execDspAshr d sl acc a sh s) rfl ?_
  unfold execDspAshr
  refine ⟨_, rfl, ?_⟩
  repeat' first
    | with_reducible first
      | exact Act.nil_in
      | exact Act.skip_in
      | apply Act.cons_in
      | apply Act.seq_in
      | (apply Act.get_in; intro _)
      | (apply Act.when_in; intro _)
      | apply Act.ite_in
      | (apply Act.each_in; intro _ _)
      | (exact Act.dspAccOp_pieces (Foot.sub hL (by decide)))
    | dsimp only
    | split

theorem frame_dspNrw {s : State} (w : s.Wf) {d : Nat} {sl : Slot} {vd : Nat} {acc : Nat} {sh : Int} : Framed (.whole [.regs, .host, .leash, .trigs, .log, .recUsed, .recDrop, .cells, .cjobs, .dsps, .recd, .attn, .sigq, .held, .free, .emitted]) (.dspNrw d sl vd acc sh) s := by
  have hL : (Foot.whole [.regs, .host, .leash, .trigs, .log, .recUsed, .recDrop, .cells, .cjobs, .dsps, .recd, .attn, .sigq, .held, .free, .emitted]).le (Foot.whole [.regs, .host, .leash, .trigs, .log, .recUsed, .recDrop, .cells, .cjobs, .dsps, .recd, .attn, .sigq, .held, .free, .emitted]) := Foot.le_refl
  refine framed_out w (o := execDspNrw d sl vd acc sh s) rfl ?_
  unfold execDspNrw
  refine ⟨_, rfl, ?_⟩
  repeat' first
    | with_reducible first
      | exact Act.nil_in
      | exact Act.skip_in
      | apply Act.cons_in
      | apply Act.seq_in
      | (apply Act.get_in; intro _)
      | (apply Act.when_in; intro _)
      | apply Act.ite_in
      | (apply Act.each_in; intro _ _)
      | (exact Act.dspFaultNow_pieces (Foot.sub hL (by decide)))
      | (exact Act.dspRegs_pieces (Foot.sub hL (by decide)))
      | (refine Act.dspSlot_pieces (Foot.sub hL (by decide)) ?_ <;> intros)
    | dsimp only
    | split

theorem Act.dspVecOp_pieces {F : Foot} {d : Nat} {lo : Nat} {hi : Nat} {sl : Slot} {checked : Bool} {vd : Nat} {f : DspRegs → List Int} (hL : (Foot.whole [.regs, .host, .leash, .trigs, .log, .recUsed, .recDrop, .cells, .cjobs, .dsps, .recd, .attn, .sigq, .held, .free, .emitted]).le F) : (Act.dspVecOp d lo hi sl checked vd f).In F := by
  unfold Act.dspVecOp
  repeat' first
    | with_reducible first
      | exact Act.nil_in
      | exact Act.skip_in
      | apply Act.cons_in
      | apply Act.seq_in
      | (apply Act.get_in; intro _)
      | (apply Act.when_in; intro _)
      | apply Act.ite_in
      | (apply Act.each_in; intro _ _)
      | (exact Act.dspRegs_pieces (Foot.sub hL (by decide)))
      | (refine Act.dspSlot_pieces (Foot.sub hL (by decide)) ?_ <;> intros)
    | dsimp only
    | split

theorem frame_dspVadd {s : State} (w : s.Wf) {d : Nat} {sl : Slot} {vd : Nat} {a : Nat} {b : Nat} : Framed (.whole [.regs, .host, .leash, .trigs, .log, .recUsed, .recDrop, .cells, .cjobs, .dsps, .recd, .attn, .sigq, .held, .free, .emitted]) (.dspVadd d sl vd a b) s := by
  have hL : (Foot.whole [.regs, .host, .leash, .trigs, .log, .recUsed, .recDrop, .cells, .cjobs, .dsps, .recd, .attn, .sigq, .held, .free, .emitted]).le (Foot.whole [.regs, .host, .leash, .trigs, .log, .recUsed, .recDrop, .cells, .cjobs, .dsps, .recd, .attn, .sigq, .held, .free, .emitted]) := Foot.le_refl
  refine framed_out w (o := execDspVadd d sl vd a b s) rfl ?_
  unfold execDspVadd
  refine ⟨_, rfl, ?_⟩
  repeat' first
    | with_reducible first
      | exact Act.nil_in
      | exact Act.skip_in
      | apply Act.cons_in
      | apply Act.seq_in
      | (apply Act.get_in; intro _)
      | (apply Act.when_in; intro _)
      | apply Act.ite_in
      | (apply Act.each_in; intro _ _)
      | (exact Act.dspVecOp_pieces (Foot.sub hL (by decide)))
    | dsimp only
    | split

theorem frame_dspVsub {s : State} (w : s.Wf) {d : Nat} {sl : Slot} {vd : Nat} {a : Nat} {b : Nat} : Framed (.whole [.regs, .host, .leash, .trigs, .log, .recUsed, .recDrop, .cells, .cjobs, .dsps, .recd, .attn, .sigq, .held, .free, .emitted]) (.dspVsub d sl vd a b) s := by
  have hL : (Foot.whole [.regs, .host, .leash, .trigs, .log, .recUsed, .recDrop, .cells, .cjobs, .dsps, .recd, .attn, .sigq, .held, .free, .emitted]).le (Foot.whole [.regs, .host, .leash, .trigs, .log, .recUsed, .recDrop, .cells, .cjobs, .dsps, .recd, .attn, .sigq, .held, .free, .emitted]) := Foot.le_refl
  refine framed_out w (o := execDspVsub d sl vd a b s) rfl ?_
  unfold execDspVsub
  refine ⟨_, rfl, ?_⟩
  repeat' first
    | with_reducible first
      | exact Act.nil_in
      | exact Act.skip_in
      | apply Act.cons_in
      | apply Act.seq_in
      | (apply Act.get_in; intro _)
      | (apply Act.when_in; intro _)
      | apply Act.ite_in
      | (apply Act.each_in; intro _ _)
      | (exact Act.dspVecOp_pieces (Foot.sub hL (by decide)))
    | dsimp only
    | split

theorem frame_dspVneg {s : State} (w : s.Wf) {d : Nat} {sl : Slot} {vd : Nat} {a : Nat} : Framed (.whole [.regs, .host, .leash, .trigs, .log, .recUsed, .recDrop, .cells, .cjobs, .dsps, .recd, .attn, .sigq, .held, .free, .emitted]) (.dspVneg d sl vd a) s := by
  have hL : (Foot.whole [.regs, .host, .leash, .trigs, .log, .recUsed, .recDrop, .cells, .cjobs, .dsps, .recd, .attn, .sigq, .held, .free, .emitted]).le (Foot.whole [.regs, .host, .leash, .trigs, .log, .recUsed, .recDrop, .cells, .cjobs, .dsps, .recd, .attn, .sigq, .held, .free, .emitted]) := Foot.le_refl
  refine framed_out w (o := execDspVneg d sl vd a s) rfl ?_
  unfold execDspVneg
  refine ⟨_, rfl, ?_⟩
  repeat' first
    | with_reducible first
      | exact Act.nil_in
      | exact Act.skip_in
      | apply Act.cons_in
      | apply Act.seq_in
      | (apply Act.get_in; intro _)
      | (apply Act.when_in; intro _)
      | apply Act.ite_in
      | (apply Act.each_in; intro _ _)
      | (exact Act.dspVecOp_pieces (Foot.sub hL (by decide)))
    | dsimp only
    | split

theorem frame_dspVabs {s : State} (w : s.Wf) {d : Nat} {sl : Slot} {vd : Nat} {a : Nat} : Framed (.whole [.regs, .host, .leash, .trigs, .log, .recUsed, .recDrop, .cells, .cjobs, .dsps, .recd, .attn, .sigq, .held, .free, .emitted]) (.dspVabs d sl vd a) s := by
  have hL : (Foot.whole [.regs, .host, .leash, .trigs, .log, .recUsed, .recDrop, .cells, .cjobs, .dsps, .recd, .attn, .sigq, .held, .free, .emitted]).le (Foot.whole [.regs, .host, .leash, .trigs, .log, .recUsed, .recDrop, .cells, .cjobs, .dsps, .recd, .attn, .sigq, .held, .free, .emitted]) := Foot.le_refl
  refine framed_out w (o := execDspVabs d sl vd a s) rfl ?_
  unfold execDspVabs
  refine ⟨_, rfl, ?_⟩
  repeat' first
    | with_reducible first
      | exact Act.nil_in
      | exact Act.skip_in
      | apply Act.cons_in
      | apply Act.seq_in
      | (apply Act.get_in; intro _)
      | (apply Act.when_in; intro _)
      | apply Act.ite_in
      | (apply Act.each_in; intro _ _)
      | (exact Act.dspVecOp_pieces (Foot.sub hL (by decide)))
    | dsimp only
    | split

theorem frame_dspVmax {s : State} (w : s.Wf) {d : Nat} {sl : Slot} {vd : Nat} {a : Nat} {b : Nat} : Framed (.whole [.regs, .host, .leash, .trigs, .log, .recUsed, .recDrop, .cells, .cjobs, .dsps, .recd, .attn, .sigq, .held, .free, .emitted]) (.dspVmax d sl vd a b) s := by
  have hL : (Foot.whole [.regs, .host, .leash, .trigs, .log, .recUsed, .recDrop, .cells, .cjobs, .dsps, .recd, .attn, .sigq, .held, .free, .emitted]).le (Foot.whole [.regs, .host, .leash, .trigs, .log, .recUsed, .recDrop, .cells, .cjobs, .dsps, .recd, .attn, .sigq, .held, .free, .emitted]) := Foot.le_refl
  refine framed_out w (o := execDspVmax d sl vd a b s) rfl ?_
  unfold execDspVmax
  refine ⟨_, rfl, ?_⟩
  repeat' first
    | with_reducible first
      | exact Act.nil_in
      | exact Act.skip_in
      | apply Act.cons_in
      | apply Act.seq_in
      | (apply Act.get_in; intro _)
      | (apply Act.when_in; intro _)
      | apply Act.ite_in
      | (apply Act.each_in; intro _ _)
      | (exact Act.dspVecOp_pieces (Foot.sub hL (by decide)))
    | dsimp only
    | split

theorem frame_dspVmin {s : State} (w : s.Wf) {d : Nat} {sl : Slot} {vd : Nat} {a : Nat} {b : Nat} : Framed (.whole [.regs, .host, .leash, .trigs, .log, .recUsed, .recDrop, .cells, .cjobs, .dsps, .recd, .attn, .sigq, .held, .free, .emitted]) (.dspVmin d sl vd a b) s := by
  have hL : (Foot.whole [.regs, .host, .leash, .trigs, .log, .recUsed, .recDrop, .cells, .cjobs, .dsps, .recd, .attn, .sigq, .held, .free, .emitted]).le (Foot.whole [.regs, .host, .leash, .trigs, .log, .recUsed, .recDrop, .cells, .cjobs, .dsps, .recd, .attn, .sigq, .held, .free, .emitted]) := Foot.le_refl
  refine framed_out w (o := execDspVmin d sl vd a b s) rfl ?_
  unfold execDspVmin
  refine ⟨_, rfl, ?_⟩
  repeat' first
    | with_reducible first
      | exact Act.nil_in
      | exact Act.skip_in
      | apply Act.cons_in
      | apply Act.seq_in
      | (apply Act.get_in; intro _)
      | (apply Act.when_in; intro _)
      | apply Act.ite_in
      | (apply Act.each_in; intro _ _)
      | (exact Act.dspVecOp_pieces (Foot.sub hL (by decide)))
    | dsimp only
    | split

theorem frame_dspVshl {s : State} (w : s.Wf) {d : Nat} {sl : Slot} {vd : Nat} {a : Nat} {sh : Nat} : Framed (.whole [.regs, .host, .leash, .trigs, .log, .recUsed, .recDrop, .cells, .cjobs, .dsps, .recd, .attn, .sigq, .held, .free, .emitted]) (.dspVshl d sl vd a sh) s := by
  have hL : (Foot.whole [.regs, .host, .leash, .trigs, .log, .recUsed, .recDrop, .cells, .cjobs, .dsps, .recd, .attn, .sigq, .held, .free, .emitted]).le (Foot.whole [.regs, .host, .leash, .trigs, .log, .recUsed, .recDrop, .cells, .cjobs, .dsps, .recd, .attn, .sigq, .held, .free, .emitted]) := Foot.le_refl
  refine framed_out w (o := execDspVshl d sl vd a sh s) rfl ?_
  unfold execDspVshl
  refine ⟨_, rfl, ?_⟩
  repeat' first
    | with_reducible first
      | exact Act.nil_in
      | exact Act.skip_in
      | apply Act.cons_in
      | apply Act.seq_in
      | (apply Act.get_in; intro _)
      | (apply Act.when_in; intro _)
      | apply Act.ite_in
      | (apply Act.each_in; intro _ _)
      | (exact Act.dspVecOp_pieces (Foot.sub hL (by decide)))
    | dsimp only
    | split

theorem frame_dspVshr {s : State} (w : s.Wf) {d : Nat} {sl : Slot} {vd : Nat} {a : Nat} {sh : Nat} : Framed (.whole [.regs, .host, .leash, .trigs, .log, .recUsed, .recDrop, .cells, .cjobs, .dsps, .recd, .attn, .sigq, .held, .free, .emitted]) (.dspVshr d sl vd a sh) s := by
  have hL : (Foot.whole [.regs, .host, .leash, .trigs, .log, .recUsed, .recDrop, .cells, .cjobs, .dsps, .recd, .attn, .sigq, .held, .free, .emitted]).le (Foot.whole [.regs, .host, .leash, .trigs, .log, .recUsed, .recDrop, .cells, .cjobs, .dsps, .recd, .attn, .sigq, .held, .free, .emitted]) := Foot.le_refl
  refine framed_out w (o := execDspVshr d sl vd a sh s) rfl ?_
  unfold execDspVshr
  refine ⟨_, rfl, ?_⟩
  repeat' first
    | with_reducible first
      | exact Act.nil_in
      | exact Act.skip_in
      | apply Act.cons_in
      | apply Act.seq_in
      | (apply Act.get_in; intro _)
      | (apply Act.when_in; intro _)
      | apply Act.ite_in
      | (apply Act.each_in; intro _ _)
      | (exact Act.dspVecOp_pieces (Foot.sub hL (by decide)))
    | dsimp only
    | split

theorem frame_dspVand {s : State} (w : s.Wf) {d : Nat} {sl : Slot} {vd : Nat} {a : Nat} {b : Nat} : Framed (.whole [.regs, .host, .leash, .trigs, .log, .recUsed, .recDrop, .cells, .cjobs, .dsps, .recd, .attn, .sigq, .held, .free, .emitted]) (.dspVand d sl vd a b) s := by
  have hL : (Foot.whole [.regs, .host, .leash, .trigs, .log, .recUsed, .recDrop, .cells, .cjobs, .dsps, .recd, .attn, .sigq, .held, .free, .emitted]).le (Foot.whole [.regs, .host, .leash, .trigs, .log, .recUsed, .recDrop, .cells, .cjobs, .dsps, .recd, .attn, .sigq, .held, .free, .emitted]) := Foot.le_refl
  refine framed_out w (o := execDspVand d sl vd a b s) rfl ?_
  unfold execDspVand
  refine ⟨_, rfl, ?_⟩
  repeat' first
    | with_reducible first
      | exact Act.nil_in
      | exact Act.skip_in
      | apply Act.cons_in
      | apply Act.seq_in
      | (apply Act.get_in; intro _)
      | (apply Act.when_in; intro _)
      | apply Act.ite_in
      | (apply Act.each_in; intro _ _)
      | (exact Act.dspVecOp_pieces (Foot.sub hL (by decide)))
    | dsimp only
    | split

theorem frame_dspVor {s : State} (w : s.Wf) {d : Nat} {sl : Slot} {vd : Nat} {a : Nat} {b : Nat} : Framed (.whole [.regs, .host, .leash, .trigs, .log, .recUsed, .recDrop, .cells, .cjobs, .dsps, .recd, .attn, .sigq, .held, .free, .emitted]) (.dspVor d sl vd a b) s := by
  have hL : (Foot.whole [.regs, .host, .leash, .trigs, .log, .recUsed, .recDrop, .cells, .cjobs, .dsps, .recd, .attn, .sigq, .held, .free, .emitted]).le (Foot.whole [.regs, .host, .leash, .trigs, .log, .recUsed, .recDrop, .cells, .cjobs, .dsps, .recd, .attn, .sigq, .held, .free, .emitted]) := Foot.le_refl
  refine framed_out w (o := execDspVor d sl vd a b s) rfl ?_
  unfold execDspVor
  refine ⟨_, rfl, ?_⟩
  repeat' first
    | with_reducible first
      | exact Act.nil_in
      | exact Act.skip_in
      | apply Act.cons_in
      | apply Act.seq_in
      | (apply Act.get_in; intro _)
      | (apply Act.when_in; intro _)
      | apply Act.ite_in
      | (apply Act.each_in; intro _ _)
      | (exact Act.dspVecOp_pieces (Foot.sub hL (by decide)))
    | dsimp only
    | split

theorem frame_dspVxor {s : State} (w : s.Wf) {d : Nat} {sl : Slot} {vd : Nat} {a : Nat} {b : Nat} : Framed (.whole [.regs, .host, .leash, .trigs, .log, .recUsed, .recDrop, .cells, .cjobs, .dsps, .recd, .attn, .sigq, .held, .free, .emitted]) (.dspVxor d sl vd a b) s := by
  have hL : (Foot.whole [.regs, .host, .leash, .trigs, .log, .recUsed, .recDrop, .cells, .cjobs, .dsps, .recd, .attn, .sigq, .held, .free, .emitted]).le (Foot.whole [.regs, .host, .leash, .trigs, .log, .recUsed, .recDrop, .cells, .cjobs, .dsps, .recd, .attn, .sigq, .held, .free, .emitted]) := Foot.le_refl
  refine framed_out w (o := execDspVxor d sl vd a b s) rfl ?_
  unfold execDspVxor
  refine ⟨_, rfl, ?_⟩
  repeat' first
    | with_reducible first
      | exact Act.nil_in
      | exact Act.skip_in
      | apply Act.cons_in
      | apply Act.seq_in
      | (apply Act.get_in; intro _)
      | (apply Act.when_in; intro _)
      | apply Act.ite_in
      | (apply Act.each_in; intro _ _)
      | (exact Act.dspVecOp_pieces (Foot.sub hL (by decide)))
    | dsimp only
    | split

theorem frame_dspVsel {s : State} (w : s.Wf) {d : Nat} {sl : Slot} {vd : Nat} {a : Nat} {b : Nat} {c : Nat} : Framed (.whole [.regs, .host, .leash, .trigs, .log, .recUsed, .recDrop, .cells, .cjobs, .dsps, .recd, .attn, .sigq, .held, .free, .emitted]) (.dspVsel d sl vd a b c) s := by
  have hL : (Foot.whole [.regs, .host, .leash, .trigs, .log, .recUsed, .recDrop, .cells, .cjobs, .dsps, .recd, .attn, .sigq, .held, .free, .emitted]).le (Foot.whole [.regs, .host, .leash, .trigs, .log, .recUsed, .recDrop, .cells, .cjobs, .dsps, .recd, .attn, .sigq, .held, .free, .emitted]) := Foot.le_refl
  refine framed_out w (o := execDspVsel d sl vd a b c s) rfl ?_
  unfold execDspVsel
  refine ⟨_, rfl, ?_⟩
  repeat' first
    | with_reducible first
      | exact Act.nil_in
      | exact Act.skip_in
      | apply Act.cons_in
      | apply Act.seq_in
      | (apply Act.get_in; intro _)
      | (apply Act.when_in; intro _)
      | apply Act.ite_in
      | (apply Act.each_in; intro _ _)
      | (exact Act.dspVecOp_pieces (Foot.sub hL (by decide)))
    | dsimp only
    | split

theorem frame_dspVnorm {s : State} (w : s.Wf) {d : Nat} {sl : Slot} {vd : Nat} {a : Nat} : Framed (.whole [.regs, .host, .leash, .trigs, .log, .recUsed, .recDrop, .cells, .cjobs, .dsps, .recd, .attn, .sigq, .held, .free, .emitted]) (.dspVnorm d sl vd a) s := by
  have hL : (Foot.whole [.regs, .host, .leash, .trigs, .log, .recUsed, .recDrop, .cells, .cjobs, .dsps, .recd, .attn, .sigq, .held, .free, .emitted]).le (Foot.whole [.regs, .host, .leash, .trigs, .log, .recUsed, .recDrop, .cells, .cjobs, .dsps, .recd, .attn, .sigq, .held, .free, .emitted]) := Foot.le_refl
  refine framed_out w (o := execDspVnorm d sl vd a s) rfl ?_
  unfold execDspVnorm
  refine ⟨_, rfl, ?_⟩
  repeat' first
    | with_reducible first
      | exact Act.nil_in
      | exact Act.skip_in
      | apply Act.cons_in
      | apply Act.seq_in
      | (apply Act.get_in; intro _)
      | (apply Act.when_in; intro _)
      | apply Act.ite_in
      | (apply Act.each_in; intro _ _)
      | (exact Act.dspVecOp_pieces (Foot.sub hL (by decide)))
    | dsimp only
    | split

theorem frame_dspVrcps {s : State} (w : s.Wf) {d : Nat} {sl : Slot} {vd : Nat} {a : Nat} : Framed (.whole [.regs, .host, .leash, .trigs, .log, .recUsed, .recDrop, .cells, .cjobs, .dsps, .recd, .attn, .sigq, .held, .free, .emitted]) (.dspVrcps d sl vd a) s := by
  have hL : (Foot.whole [.regs, .host, .leash, .trigs, .log, .recUsed, .recDrop, .cells, .cjobs, .dsps, .recd, .attn, .sigq, .held, .free, .emitted]).le (Foot.whole [.regs, .host, .leash, .trigs, .log, .recUsed, .recDrop, .cells, .cjobs, .dsps, .recd, .attn, .sigq, .held, .free, .emitted]) := Foot.le_refl
  refine framed_out w (o := execDspVrcps d sl vd a s) rfl ?_
  unfold execDspVrcps
  refine ⟨_, rfl, ?_⟩
  repeat' first
    | with_reducible first
      | exact Act.nil_in
      | exact Act.skip_in
      | apply Act.cons_in
      | apply Act.seq_in
      | (apply Act.get_in; intro _)
      | (apply Act.when_in; intro _)
      | apply Act.ite_in
      | (apply Act.each_in; intro _ _)
      | (exact Act.dspVecOp_pieces (Foot.sub hL (by decide)))
    | dsimp only
    | split

theorem Act.dspAccess_pieces {F : Foot} {d : Nat} {mem : Nat} {sl : Slot} {narrow : Bool} {ag : Nat} {n : Nat} {half : Bool} {writes : List (Nat × Nat)} {body : DspRegs → List Nat → Act} (hL : (Foot.whole [.regs, .host, .leash, .trigs, .log, .recUsed, .recDrop, .cells, .cjobs, .dsps, .recd, .attn, .sigq, .held, .free, .emitted]).le F) (hc_body : ∀ y0 y1, (body y0 y1).In F) : (Act.dspAccess d mem sl narrow ag n half writes body).In F := by
  unfold Act.dspAccess
  repeat' first
    | with_reducible first
      | exact Act.nil_in
      | exact Act.skip_in
      | apply Act.cons_in
      | apply Act.seq_in
      | (apply Act.get_in; intro _)
      | (apply Act.when_in; intro _)
      | apply Act.ite_in
      | (apply Act.each_in; intro _ _)
      | (exact Act.dspFaultNow_pieces (Foot.sub hL (by decide)))
      | (exact Act.dspRegs_pieces (Foot.sub hL (by decide)))
      | (refine Act.dspSlot_pieces (Foot.sub hL (by decide)) ?_ <;> intros)
      | exact hc_body _ _
    | dsimp only
    | split

theorem Act.dspLd_pieces {F : Foot} {d : Nat} {mem : Nat} {sl : Slot} {vd : Nat} {ag : Nat} (hL : (Foot.whole [.regs, .host, .leash, .trigs, .log, .recUsed, .recDrop, .cells, .cjobs, .dsps, .recd, .attn, .sigq, .held, .free, .emitted]).le F) : (Act.dspLd d mem sl vd ag).In F := by
  unfold Act.dspLd
  repeat' first
    | with_reducible first
      | exact Act.nil_in
      | exact Act.skip_in
      | apply Act.cons_in
      | apply Act.seq_in
      | (apply Act.get_in; intro _)
      | (apply Act.when_in; intro _)
      | apply Act.ite_in
      | (apply Act.each_in; intro _ _)
      | (refine Act.dspAccess_pieces (Foot.sub hL (by decide)) ?_ <;> intros)
      | (exact Act.dspRegs_pieces (Foot.sub hL (by decide)))
    | dsimp only
    | split

theorem Act.dspSt_pieces {F : Foot} {d : Nat} {mem : Nat} {sl : Slot} {va : Nat} {ag : Nat} (hL : (Foot.whole [.regs, .host, .leash, .trigs, .log, .recUsed, .recDrop, .cells, .cjobs, .dsps, .dspMem, .recd, .attn, .sigq, .held, .free, .emitted]).le F) : (Act.dspSt d mem sl va ag).In F := by
  unfold Act.dspSt
  repeat' first
    | with_reducible first
      | exact Act.nil_in
      | exact Act.skip_in
      | apply Act.cons_in
      | apply Act.seq_in
      | (apply Act.get_in; intro _)
      | (apply Act.when_in; intro _)
      | apply Act.ite_in
      | (apply Act.each_in; intro _ _)
      | (exact Act.dmSet_pieces (Foot.sub hL (by decide)))
      | (refine Act.dspAccess_pieces (Foot.sub hL (by decide)) ?_ <;> intros)
    | dsimp only
    | split

theorem Act.dspLdw_pieces {F : Foot} {d : Nat} {mem : Nat} {sl : Slot} {vd : Nat} {ag : Nat} (hL : (Foot.whole [.regs, .host, .leash, .trigs, .log, .recUsed, .recDrop, .cells, .cjobs, .dsps, .recd, .attn, .sigq, .held, .free, .emitted]).le F) : (Act.dspLdw d mem sl vd ag).In F := by
  unfold Act.dspLdw
  repeat' first
    | with_reducible first
      | exact Act.nil_in
      | exact Act.skip_in
      | apply Act.cons_in
      | apply Act.seq_in
      | (apply Act.get_in; intro _)
      | (apply Act.when_in; intro _)
      | apply Act.ite_in
      | (apply Act.each_in; intro _ _)
      | (refine Act.dspAccess_pieces (Foot.sub hL (by decide)) ?_ <;> intros)
      | (exact Act.dspRegs_pieces (Foot.sub hL (by decide)))
    | dsimp only
    | split

theorem Act.dspStn_pieces {F : Foot} {d : Nat} {mem : Nat} {sl : Slot} {va : Nat} {ag : Nat} (hL : (Foot.whole [.regs, .host, .leash, .trigs, .log, .recUsed, .recDrop, .cells, .cjobs, .dsps, .dspMem, .recd, .attn, .sigq, .held, .free, .emitted]).le F) : (Act.dspStn d mem sl va ag).In F := by
  unfold Act.dspStn
  repeat' first
    | with_reducible first
      | exact Act.nil_in
      | exact Act.skip_in
      | apply Act.cons_in
      | apply Act.seq_in
      | (apply Act.get_in; intro _)
      | (apply Act.when_in; intro _)
      | apply Act.ite_in
      | (apply Act.each_in; intro _ _)
      | (exact Act.dmSetHalf_pieces (Foot.sub hL (by decide)))
      | (refine Act.dspAccess_pieces (Foot.sub hL (by decide)) ?_ <;> intros)
    | dsimp only
    | split

theorem Act.dspLds_pieces {F : Foot} {d : Nat} {mem : Nat} {sl : Slot} {sd : Nat} {ag : Nat} (hL : (Foot.whole [.regs, .host, .leash, .trigs, .log, .recUsed, .recDrop, .cells, .cjobs, .dsps, .recd, .attn, .sigq, .held, .free, .emitted]).le F) : (Act.dspLds d mem sl sd ag).In F := by
  unfold Act.dspLds
  repeat' first
    | with_reducible first
      | exact Act.nil_in
      | exact Act.skip_in
      | apply Act.cons_in
      | apply Act.seq_in
      | (apply Act.get_in; intro _)
      | (apply Act.when_in; intro _)
      | apply Act.ite_in
      | (apply Act.each_in; intro _ _)
      | (refine Act.dspAccess_pieces (Foot.sub hL (by decide)) ?_ <;> intros)
      | (exact Act.dspRegs_pieces (Foot.sub hL (by decide)))
    | dsimp only
    | split

theorem Act.dspSts_pieces {F : Foot} {d : Nat} {mem : Nat} {sl : Slot} {sa : Nat} {ag : Nat} (hL : (Foot.whole [.regs, .host, .leash, .trigs, .log, .recUsed, .recDrop, .cells, .cjobs, .dsps, .dspMem, .recd, .attn, .sigq, .held, .free, .emitted]).le F) : (Act.dspSts d mem sl sa ag).In F := by
  unfold Act.dspSts
  repeat' first
    | with_reducible first
      | exact Act.nil_in
      | exact Act.skip_in
      | apply Act.cons_in
      | apply Act.seq_in
      | (apply Act.get_in; intro _)
      | (apply Act.when_in; intro _)
      | apply Act.ite_in
      | (apply Act.each_in; intro _ _)
      | (exact Act.dmSet_pieces (Foot.sub hL (by decide)))
      | (refine Act.dspAccess_pieces (Foot.sub hL (by decide)) ?_ <;> intros)
    | dsimp only
    | split

theorem frame_dspLdx {s : State} (w : s.Wf) {d : Nat} {sl : Slot} {vd : Nat} {ag : Nat} : Framed (.whole [.regs, .host, .leash, .trigs, .log, .recUsed, .recDrop, .cells, .cjobs, .dsps, .recd, .attn, .sigq, .held, .free, .emitted]) (.dspLdx d sl vd ag) s := by
  have hL : (Foot.whole [.regs, .host, .leash, .trigs, .log, .recUsed, .recDrop, .cells, .cjobs, .dsps, .recd, .attn, .sigq, .held, .free, .emitted]).le (Foot.whole [.regs, .host, .leash, .trigs, .log, .recUsed, .recDrop, .cells, .cjobs, .dsps, .recd, .attn, .sigq, .held, .free, .emitted]) := Foot.le_refl
  refine framed_out w (o := execDspLdx d sl vd ag s) rfl ?_
  unfold execDspLdx
  refine ⟨_, rfl, ?_⟩
  repeat' first
    | with_reducible first
      | exact Act.nil_in
      | exact Act.skip_in
      | apply Act.cons_in
      | apply Act.seq_in
      | (apply Act.get_in; intro _)
      | (apply Act.when_in; intro _)
      | apply Act.ite_in
      | (apply Act.each_in; intro _ _)
      | (exact Act.dspLd_pieces (Foot.sub hL (by decide)))
    | dsimp only
    | split

theorem frame_dspStx {s : State} (w : s.Wf) {d : Nat} {sl : Slot} {va : Nat} {ag : Nat} : Framed (.whole [.regs, .host, .leash, .trigs, .log, .recUsed, .recDrop, .cells, .cjobs, .dsps, .dspMem, .recd, .attn, .sigq, .held, .free, .emitted]) (.dspStx d sl va ag) s := by
  have hL : (Foot.whole [.regs, .host, .leash, .trigs, .log, .recUsed, .recDrop, .cells, .cjobs, .dsps, .dspMem, .recd, .attn, .sigq, .held, .free, .emitted]).le (Foot.whole [.regs, .host, .leash, .trigs, .log, .recUsed, .recDrop, .cells, .cjobs, .dsps, .dspMem, .recd, .attn, .sigq, .held, .free, .emitted]) := Foot.le_refl
  refine framed_out w (o := execDspStx d sl va ag s) rfl ?_
  unfold execDspStx
  refine ⟨_, rfl, ?_⟩
  repeat' first
    | with_reducible first
      | exact Act.nil_in
      | exact Act.skip_in
      | apply Act.cons_in
      | apply Act.seq_in
      | (apply Act.get_in; intro _)
      | (apply Act.when_in; intro _)
      | apply Act.ite_in
      | (apply Act.each_in; intro _ _)
      | (exact Act.dspSt_pieces (Foot.sub hL (by decide)))
    | dsimp only
    | split

theorem frame_dspLdwx {s : State} (w : s.Wf) {d : Nat} {sl : Slot} {vd : Nat} {ag : Nat} : Framed (.whole [.regs, .host, .leash, .trigs, .log, .recUsed, .recDrop, .cells, .cjobs, .dsps, .recd, .attn, .sigq, .held, .free, .emitted]) (.dspLdwx d sl vd ag) s := by
  have hL : (Foot.whole [.regs, .host, .leash, .trigs, .log, .recUsed, .recDrop, .cells, .cjobs, .dsps, .recd, .attn, .sigq, .held, .free, .emitted]).le (Foot.whole [.regs, .host, .leash, .trigs, .log, .recUsed, .recDrop, .cells, .cjobs, .dsps, .recd, .attn, .sigq, .held, .free, .emitted]) := Foot.le_refl
  refine framed_out w (o := execDspLdwx d sl vd ag s) rfl ?_
  unfold execDspLdwx
  refine ⟨_, rfl, ?_⟩
  repeat' first
    | with_reducible first
      | exact Act.nil_in
      | exact Act.skip_in
      | apply Act.cons_in
      | apply Act.seq_in
      | (apply Act.get_in; intro _)
      | (apply Act.when_in; intro _)
      | apply Act.ite_in
      | (apply Act.each_in; intro _ _)
      | (exact Act.dspLdw_pieces (Foot.sub hL (by decide)))
    | dsimp only
    | split

theorem frame_dspStnx {s : State} (w : s.Wf) {d : Nat} {sl : Slot} {va : Nat} {ag : Nat} : Framed (.whole [.regs, .host, .leash, .trigs, .log, .recUsed, .recDrop, .cells, .cjobs, .dsps, .dspMem, .recd, .attn, .sigq, .held, .free, .emitted]) (.dspStnx d sl va ag) s := by
  have hL : (Foot.whole [.regs, .host, .leash, .trigs, .log, .recUsed, .recDrop, .cells, .cjobs, .dsps, .dspMem, .recd, .attn, .sigq, .held, .free, .emitted]).le (Foot.whole [.regs, .host, .leash, .trigs, .log, .recUsed, .recDrop, .cells, .cjobs, .dsps, .dspMem, .recd, .attn, .sigq, .held, .free, .emitted]) := Foot.le_refl
  refine framed_out w (o := execDspStnx d sl va ag s) rfl ?_
  unfold execDspStnx
  refine ⟨_, rfl, ?_⟩
  repeat' first
    | with_reducible first
      | exact Act.nil_in
      | exact Act.skip_in
      | apply Act.cons_in
      | apply Act.seq_in
      | (apply Act.get_in; intro _)
      | (apply Act.when_in; intro _)
      | apply Act.ite_in
      | (apply Act.each_in; intro _ _)
      | (exact Act.dspStn_pieces (Foot.sub hL (by decide)))
    | dsimp only
    | split

theorem frame_dspLdsx {s : State} (w : s.Wf) {d : Nat} {sl : Slot} {sd : Nat} {ag : Nat} : Framed (.whole [.regs, .host, .leash, .trigs, .log, .recUsed, .recDrop, .cells, .cjobs, .dsps, .recd, .attn, .sigq, .held, .free, .emitted]) (.dspLdsx d sl sd ag) s := by
  have hL : (Foot.whole [.regs, .host, .leash, .trigs, .log, .recUsed, .recDrop, .cells, .cjobs, .dsps, .recd, .attn, .sigq, .held, .free, .emitted]).le (Foot.whole [.regs, .host, .leash, .trigs, .log, .recUsed, .recDrop, .cells, .cjobs, .dsps, .recd, .attn, .sigq, .held, .free, .emitted]) := Foot.le_refl
  refine framed_out w (o := execDspLdsx d sl sd ag s) rfl ?_
  unfold execDspLdsx
  refine ⟨_, rfl, ?_⟩
  repeat' first
    | with_reducible first
      | exact Act.nil_in
      | exact Act.skip_in
      | apply Act.cons_in
      | apply Act.seq_in
      | (apply Act.get_in; intro _)
      | (apply Act.when_in; intro _)
      | apply Act.ite_in
      | (apply Act.each_in; intro _ _)
      | (exact Act.dspLds_pieces (Foot.sub hL (by decide)))
    | dsimp only
    | split

theorem frame_dspStsx {s : State} (w : s.Wf) {d : Nat} {sl : Slot} {sa : Nat} {ag : Nat} : Framed (.whole [.regs, .host, .leash, .trigs, .log, .recUsed, .recDrop, .cells, .cjobs, .dsps, .dspMem, .recd, .attn, .sigq, .held, .free, .emitted]) (.dspStsx d sl sa ag) s := by
  have hL : (Foot.whole [.regs, .host, .leash, .trigs, .log, .recUsed, .recDrop, .cells, .cjobs, .dsps, .dspMem, .recd, .attn, .sigq, .held, .free, .emitted]).le (Foot.whole [.regs, .host, .leash, .trigs, .log, .recUsed, .recDrop, .cells, .cjobs, .dsps, .dspMem, .recd, .attn, .sigq, .held, .free, .emitted]) := Foot.le_refl
  refine framed_out w (o := execDspStsx d sl sa ag s) rfl ?_
  unfold execDspStsx
  refine ⟨_, rfl, ?_⟩
  repeat' first
    | with_reducible first
      | exact Act.nil_in
      | exact Act.skip_in
      | apply Act.cons_in
      | apply Act.seq_in
      | (apply Act.get_in; intro _)
      | (apply Act.when_in; intro _)
      | apply Act.ite_in
      | (apply Act.each_in; intro _ _)
      | (exact Act.dspSts_pieces (Foot.sub hL (by decide)))
    | dsimp only
    | split

theorem frame_dspLdy {s : State} (w : s.Wf) {d : Nat} {sl : Slot} {vd : Nat} {ag : Nat} : Framed (.whole [.regs, .host, .leash, .trigs, .log, .recUsed, .recDrop, .cells, .cjobs, .dsps, .recd, .attn, .sigq, .held, .free, .emitted]) (.dspLdy d sl vd ag) s := by
  have hL : (Foot.whole [.regs, .host, .leash, .trigs, .log, .recUsed, .recDrop, .cells, .cjobs, .dsps, .recd, .attn, .sigq, .held, .free, .emitted]).le (Foot.whole [.regs, .host, .leash, .trigs, .log, .recUsed, .recDrop, .cells, .cjobs, .dsps, .recd, .attn, .sigq, .held, .free, .emitted]) := Foot.le_refl
  refine framed_out w (o := execDspLdy d sl vd ag s) rfl ?_
  unfold execDspLdy
  refine ⟨_, rfl, ?_⟩
  repeat' first
    | with_reducible first
      | exact Act.nil_in
      | exact Act.skip_in
      | apply Act.cons_in
      | apply Act.seq_in
      | (apply Act.get_in; intro _)
      | (apply Act.when_in; intro _)
      | apply Act.ite_in
      | (apply Act.each_in; intro _ _)
      | (exact Act.dspLd_pieces (Foot.sub hL (by decide)))
    | dsimp only
    | split

theorem frame_dspSty {s : State} (w : s.Wf) {d : Nat} {sl : Slot} {va : Nat} {ag : Nat} : Framed (.whole [.regs, .host, .leash, .trigs, .log, .recUsed, .recDrop, .cells, .cjobs, .dsps, .dspMem, .recd, .attn, .sigq, .held, .free, .emitted]) (.dspSty d sl va ag) s := by
  have hL : (Foot.whole [.regs, .host, .leash, .trigs, .log, .recUsed, .recDrop, .cells, .cjobs, .dsps, .dspMem, .recd, .attn, .sigq, .held, .free, .emitted]).le (Foot.whole [.regs, .host, .leash, .trigs, .log, .recUsed, .recDrop, .cells, .cjobs, .dsps, .dspMem, .recd, .attn, .sigq, .held, .free, .emitted]) := Foot.le_refl
  refine framed_out w (o := execDspSty d sl va ag s) rfl ?_
  unfold execDspSty
  refine ⟨_, rfl, ?_⟩
  repeat' first
    | with_reducible first
      | exact Act.nil_in
      | exact Act.skip_in
      | apply Act.cons_in
      | apply Act.seq_in
      | (apply Act.get_in; intro _)
      | (apply Act.when_in; intro _)
      | apply Act.ite_in
      | (apply Act.each_in; intro _ _)
      | (exact Act.dspSt_pieces (Foot.sub hL (by decide)))
    | dsimp only
    | split

theorem frame_dspLdwy {s : State} (w : s.Wf) {d : Nat} {sl : Slot} {vd : Nat} {ag : Nat} : Framed (.whole [.regs, .host, .leash, .trigs, .log, .recUsed, .recDrop, .cells, .cjobs, .dsps, .recd, .attn, .sigq, .held, .free, .emitted]) (.dspLdwy d sl vd ag) s := by
  have hL : (Foot.whole [.regs, .host, .leash, .trigs, .log, .recUsed, .recDrop, .cells, .cjobs, .dsps, .recd, .attn, .sigq, .held, .free, .emitted]).le (Foot.whole [.regs, .host, .leash, .trigs, .log, .recUsed, .recDrop, .cells, .cjobs, .dsps, .recd, .attn, .sigq, .held, .free, .emitted]) := Foot.le_refl
  refine framed_out w (o := execDspLdwy d sl vd ag s) rfl ?_
  unfold execDspLdwy
  refine ⟨_, rfl, ?_⟩
  repeat' first
    | with_reducible first
      | exact Act.nil_in
      | exact Act.skip_in
      | apply Act.cons_in
      | apply Act.seq_in
      | (apply Act.get_in; intro _)
      | (apply Act.when_in; intro _)
      | apply Act.ite_in
      | (apply Act.each_in; intro _ _)
      | (exact Act.dspLdw_pieces (Foot.sub hL (by decide)))
    | dsimp only
    | split

theorem frame_dspStny {s : State} (w : s.Wf) {d : Nat} {sl : Slot} {va : Nat} {ag : Nat} : Framed (.whole [.regs, .host, .leash, .trigs, .log, .recUsed, .recDrop, .cells, .cjobs, .dsps, .dspMem, .recd, .attn, .sigq, .held, .free, .emitted]) (.dspStny d sl va ag) s := by
  have hL : (Foot.whole [.regs, .host, .leash, .trigs, .log, .recUsed, .recDrop, .cells, .cjobs, .dsps, .dspMem, .recd, .attn, .sigq, .held, .free, .emitted]).le (Foot.whole [.regs, .host, .leash, .trigs, .log, .recUsed, .recDrop, .cells, .cjobs, .dsps, .dspMem, .recd, .attn, .sigq, .held, .free, .emitted]) := Foot.le_refl
  refine framed_out w (o := execDspStny d sl va ag s) rfl ?_
  unfold execDspStny
  refine ⟨_, rfl, ?_⟩
  repeat' first
    | with_reducible first
      | exact Act.nil_in
      | exact Act.skip_in
      | apply Act.cons_in
      | apply Act.seq_in
      | (apply Act.get_in; intro _)
      | (apply Act.when_in; intro _)
      | apply Act.ite_in
      | (apply Act.each_in; intro _ _)
      | (exact Act.dspStn_pieces (Foot.sub hL (by decide)))
    | dsimp only
    | split

theorem frame_dspLdsy {s : State} (w : s.Wf) {d : Nat} {sl : Slot} {sd : Nat} {ag : Nat} : Framed (.whole [.regs, .host, .leash, .trigs, .log, .recUsed, .recDrop, .cells, .cjobs, .dsps, .recd, .attn, .sigq, .held, .free, .emitted]) (.dspLdsy d sl sd ag) s := by
  have hL : (Foot.whole [.regs, .host, .leash, .trigs, .log, .recUsed, .recDrop, .cells, .cjobs, .dsps, .recd, .attn, .sigq, .held, .free, .emitted]).le (Foot.whole [.regs, .host, .leash, .trigs, .log, .recUsed, .recDrop, .cells, .cjobs, .dsps, .recd, .attn, .sigq, .held, .free, .emitted]) := Foot.le_refl
  refine framed_out w (o := execDspLdsy d sl sd ag s) rfl ?_
  unfold execDspLdsy
  refine ⟨_, rfl, ?_⟩
  repeat' first
    | with_reducible first
      | exact Act.nil_in
      | exact Act.skip_in
      | apply Act.cons_in
      | apply Act.seq_in
      | (apply Act.get_in; intro _)
      | (apply Act.when_in; intro _)
      | apply Act.ite_in
      | (apply Act.each_in; intro _ _)
      | (exact Act.dspLds_pieces (Foot.sub hL (by decide)))
    | dsimp only
    | split

theorem frame_dspStsy {s : State} (w : s.Wf) {d : Nat} {sl : Slot} {sa : Nat} {ag : Nat} : Framed (.whole [.regs, .host, .leash, .trigs, .log, .recUsed, .recDrop, .cells, .cjobs, .dsps, .dspMem, .recd, .attn, .sigq, .held, .free, .emitted]) (.dspStsy d sl sa ag) s := by
  have hL : (Foot.whole [.regs, .host, .leash, .trigs, .log, .recUsed, .recDrop, .cells, .cjobs, .dsps, .dspMem, .recd, .attn, .sigq, .held, .free, .emitted]).le (Foot.whole [.regs, .host, .leash, .trigs, .log, .recUsed, .recDrop, .cells, .cjobs, .dsps, .dspMem, .recd, .attn, .sigq, .held, .free, .emitted]) := Foot.le_refl
  refine framed_out w (o := execDspStsy d sl sa ag s) rfl ?_
  unfold execDspStsy
  refine ⟨_, rfl, ?_⟩
  repeat' first
    | with_reducible first
      | exact Act.nil_in
      | exact Act.skip_in
      | apply Act.cons_in
      | apply Act.seq_in
      | (apply Act.get_in; intro _)
      | (apply Act.when_in; intro _)
      | apply Act.ite_in
      | (apply Act.each_in; intro _ _)
      | (exact Act.dspSts_pieces (Foot.sub hL (by decide)))
    | dsimp only
    | split

theorem Act.dspJump_pieces {F : Foot} {d : Nat} {t : Nat} (hL : (Foot.whole [.dsps]).le F) : (Act.dspJump d t).In F := by
  unfold Act.dspJump
  repeat' first
    | with_reducible first
      | exact Act.nil_in
      | exact Act.skip_in
      | apply Act.cons_in
      | apply Act.seq_in
      | (apply Act.get_in; intro _)
      | (apply Act.when_in; intro _)
      | apply Act.ite_in
      | (apply Act.each_in; intro _ _)
      | (exact Act.modDsps_in (Foot.has hL (by decide) _))
    | dsimp only
    | split

theorem frame_dspLoop {s : State} (w : s.Wf) {d : Nat} {sl : Slot} {reg : Bool} {count : Nat} {lastOff : Nat} : Framed (.whole [.regs, .host, .leash, .trigs, .log, .recUsed, .recDrop, .cells, .cjobs, .dsps, .recd, .attn, .sigq, .held, .free, .emitted]) (.dspLoop d sl reg count lastOff) s := by
  have hL : (Foot.whole [.regs, .host, .leash, .trigs, .log, .recUsed, .recDrop, .cells, .cjobs, .dsps, .recd, .attn, .sigq, .held, .free, .emitted]).le (Foot.whole [.regs, .host, .leash, .trigs, .log, .recUsed, .recDrop, .cells, .cjobs, .dsps, .recd, .attn, .sigq, .held, .free, .emitted]) := Foot.le_refl
  refine framed_out w (o := execDspLoop d sl reg count lastOff s) rfl ?_
  unfold execDspLoop
  refine ⟨_, rfl, ?_⟩
  repeat' first
    | with_reducible first
      | exact Act.nil_in
      | exact Act.skip_in
      | apply Act.cons_in
      | apply Act.seq_in
      | (apply Act.get_in; intro _)
      | (apply Act.when_in; intro _)
      | apply Act.ite_in
      | (apply Act.each_in; intro _ _)
      | (exact Act.dspFaultNow_pieces (Foot.sub hL (by decide)))
      | (exact Act.dspJump_pieces (Foot.sub hL (by decide)))
      | (exact Act.dspRegs_pieces (Foot.sub hL (by decide)))
      | (refine Act.dspSlot_pieces (Foot.sub hL (by decide)) ?_ <;> intros)
      | (exact Act.modDsps_in (Foot.has hL (by decide) _))
      | (exact Act.setF_in (Foot.has hL (by decide) _))
    | dsimp only
    | split

theorem frame_dspBr {s : State} (w : s.Wf) {d : Nat} {sl : Slot} {target : Nat} : Framed (.whole [.regs, .host, .leash, .trigs, .log, .recUsed, .recDrop, .cells, .cjobs, .dsps, .recd, .attn, .sigq, .held, .free, .emitted]) (.dspBr d sl target) s := by
  have hL : (Foot.whole [.regs, .host, .leash, .trigs, .log, .recUsed, .recDrop, .cells, .cjobs, .dsps, .recd, .attn, .sigq, .held, .free, .emitted]).le (Foot.whole [.regs, .host, .leash, .trigs, .log, .recUsed, .recDrop, .cells, .cjobs, .dsps, .recd, .attn, .sigq, .held, .free, .emitted]) := Foot.le_refl
  refine framed_out w (o := execDspBr d sl target s) rfl ?_
  unfold execDspBr
  refine ⟨_, rfl, ?_⟩
  repeat' first
    | with_reducible first
      | exact Act.nil_in
      | exact Act.skip_in
      | apply Act.cons_in
      | apply Act.seq_in
      | (apply Act.get_in; intro _)
      | (apply Act.when_in; intro _)
      | apply Act.ite_in
      | (apply Act.each_in; intro _ _)
      | (exact Act.dspJump_pieces (Foot.sub hL (by decide)))
      | (refine Act.dspSlot_pieces (Foot.sub hL (by decide)) ?_ <;> intros)
    | dsimp only
    | split

theorem frame_dspBrc {s : State} (w : s.Wf) {d : Nat} {sl : Slot} {cond : Nat} {a : Nat} {b : Nat} {target : Nat} : Framed (.whole [.regs, .host, .leash, .trigs, .log, .recUsed, .recDrop, .cells, .cjobs, .dsps, .recd, .attn, .sigq, .held, .free, .emitted]) (.dspBrc d sl cond a b target) s := by
  have hL : (Foot.whole [.regs, .host, .leash, .trigs, .log, .recUsed, .recDrop, .cells, .cjobs, .dsps, .recd, .attn, .sigq, .held, .free, .emitted]).le (Foot.whole [.regs, .host, .leash, .trigs, .log, .recUsed, .recDrop, .cells, .cjobs, .dsps, .recd, .attn, .sigq, .held, .free, .emitted]) := Foot.le_refl
  refine framed_out w (o := execDspBrc d sl cond a b target s) rfl ?_
  unfold execDspBrc
  refine ⟨_, rfl, ?_⟩
  repeat' first
    | with_reducible first
      | exact Act.nil_in
      | exact Act.skip_in
      | apply Act.cons_in
      | apply Act.seq_in
      | (apply Act.get_in; intro _)
      | (apply Act.when_in; intro _)
      | apply Act.ite_in
      | (apply Act.each_in; intro _ _)
      | (exact Act.dspJump_pieces (Foot.sub hL (by decide)))
      | (refine Act.dspSlot_pieces (Foot.sub hL (by decide)) ?_ <;> intros)
    | dsimp only
    | split

theorem frame_dspCall {s : State} (w : s.Wf) {d : Nat} {sl : Slot} {target : Nat} : Framed (.whole [.regs, .host, .leash, .trigs, .log, .recUsed, .recDrop, .cells, .cjobs, .dsps, .recd, .attn, .sigq, .held, .free, .emitted]) (.dspCall d sl target) s := by
  have hL : (Foot.whole [.regs, .host, .leash, .trigs, .log, .recUsed, .recDrop, .cells, .cjobs, .dsps, .recd, .attn, .sigq, .held, .free, .emitted]).le (Foot.whole [.regs, .host, .leash, .trigs, .log, .recUsed, .recDrop, .cells, .cjobs, .dsps, .recd, .attn, .sigq, .held, .free, .emitted]) := Foot.le_refl
  refine framed_out w (o := execDspCall d sl target s) rfl ?_
  unfold execDspCall
  refine ⟨_, rfl, ?_⟩
  repeat' first
    | with_reducible first
      | exact Act.nil_in
      | exact Act.skip_in
      | apply Act.cons_in
      | apply Act.seq_in
      | (apply Act.get_in; intro _)
      | (apply Act.when_in; intro _)
      | apply Act.ite_in
      | (apply Act.each_in; intro _ _)
      | (exact Act.dspJump_pieces (Foot.sub hL (by decide)))
      | (exact Act.dspRegs_pieces (Foot.sub hL (by decide)))
      | (refine Act.dspSlot_pieces (Foot.sub hL (by decide)) ?_ <;> intros)
    | dsimp only
    | split

theorem frame_dspRet {s : State} (w : s.Wf) {d : Nat} {sl : Slot} : Framed (.whole [.regs, .host, .leash, .trigs, .log, .recUsed, .recDrop, .cells, .cjobs, .dsps, .recd, .attn, .sigq, .held, .free, .emitted]) (.dspRet d sl) s := by
  have hL : (Foot.whole [.regs, .host, .leash, .trigs, .log, .recUsed, .recDrop, .cells, .cjobs, .dsps, .recd, .attn, .sigq, .held, .free, .emitted]).le (Foot.whole [.regs, .host, .leash, .trigs, .log, .recUsed, .recDrop, .cells, .cjobs, .dsps, .recd, .attn, .sigq, .held, .free, .emitted]) := Foot.le_refl
  refine framed_out w (o := execDspRet d sl s) rfl ?_
  unfold execDspRet
  refine ⟨_, rfl, ?_⟩
  repeat' first
    | with_reducible first
      | exact Act.nil_in
      | exact Act.skip_in
      | apply Act.cons_in
      | apply Act.seq_in
      | (apply Act.get_in; intro _)
      | (apply Act.when_in; intro _)
      | apply Act.ite_in
      | (apply Act.each_in; intro _ _)
      | (exact Act.dspFaultNow_pieces (Foot.sub hL (by decide)))
      | (exact Act.dspJump_pieces (Foot.sub hL (by decide)))
      | (exact Act.dspRegs_pieces (Foot.sub hL (by decide)))
      | (refine Act.dspSlot_pieces (Foot.sub hL (by decide)) ?_ <;> intros)
    | dsimp only
    | split

theorem frame_dspEnd {s : State} (w : s.Wf) {d : Nat} {sl : Slot} : Framed (.whole [.regs, .host, .leash, .trigs, .log, .recUsed, .recDrop, .cells, .cjobs, .dsps, .recd, .attn, .sigq, .held, .free, .emitted]) (.dspEnd d sl) s := by
  have hL : (Foot.whole [.regs, .host, .leash, .trigs, .log, .recUsed, .recDrop, .cells, .cjobs, .dsps, .recd, .attn, .sigq, .held, .free, .emitted]).le (Foot.whole [.regs, .host, .leash, .trigs, .log, .recUsed, .recDrop, .cells, .cjobs, .dsps, .recd, .attn, .sigq, .held, .free, .emitted]) := Foot.le_refl
  refine framed_out w (o := execDspEnd d sl s) rfl ?_
  unfold execDspEnd
  refine ⟨_, rfl, ?_⟩
  repeat' first
    | with_reducible first
      | exact Act.nil_in
      | exact Act.skip_in
      | apply Act.cons_in
      | apply Act.seq_in
      | (apply Act.get_in; intro _)
      | (apply Act.when_in; intro _)
      | apply Act.ite_in
      | (apply Act.each_in; intro _ _)
      | (exact Act.dspJump_pieces (Foot.sub hL (by decide)))
      | (refine Act.dspSlot_pieces (Foot.sub hL (by decide)) ?_ <;> intros)
    | dsimp only
    | split

theorem Act.dspScalar_pieces {F : Foot} {d : Nat} {sl : Slot} {sd : Nat} {f : DspRegs → Nat} (hL : (Foot.whole [.regs, .host, .leash, .trigs, .log, .recUsed, .recDrop, .cells, .cjobs, .dsps, .recd, .attn, .sigq, .held, .free, .emitted]).le F) : (Act.dspScalar d sl sd f).In F := by
  unfold Act.dspScalar
  repeat' first
    | with_reducible first
      | exact Act.nil_in
      | exact Act.skip_in
      | apply Act.cons_in
      | apply Act.seq_in
      | (apply Act.get_in; intro _)
      | (apply Act.when_in; intro _)
      | apply Act.ite_in
      | (apply Act.each_in; intro _ _)
      | (exact Act.dspRegs_pieces (Foot.sub hL (by decide)))
      | (refine Act.dspSlot_pieces (Foot.sub hL (by decide)) ?_ <;> intros)
    | dsimp only
    | split

theorem frame_dspSmov {s : State} (w : s.Wf) {d : Nat} {sl : Slot} {sd : Nat} {src : Nat} {imm : BitVec 32} : Framed (.whole [.regs, .host, .leash, .trigs, .log, .recUsed, .recDrop, .cells, .cjobs, .dsps, .recd, .attn, .sigq, .held, .free, .emitted]) (.dspSmov d sl sd src imm) s := by
  have hL : (Foot.whole [.regs, .host, .leash, .trigs, .log, .recUsed, .recDrop, .cells, .cjobs, .dsps, .recd, .attn, .sigq, .held, .free, .emitted]).le (Foot.whole [.regs, .host, .leash, .trigs, .log, .recUsed, .recDrop, .cells, .cjobs, .dsps, .recd, .attn, .sigq, .held, .free, .emitted]) := Foot.le_refl
  refine framed_out w (o := execDspSmov d sl sd src imm s) rfl ?_
  unfold execDspSmov
  refine ⟨_, rfl, ?_⟩
  repeat' first
    | with_reducible first
      | exact Act.nil_in
      | exact Act.skip_in
      | apply Act.cons_in
      | apply Act.seq_in
      | (apply Act.get_in; intro _)
      | (apply Act.when_in; intro _)
      | apply Act.ite_in
      | (apply Act.each_in; intro _ _)
      | (exact Act.dspScalar_pieces (Foot.sub hL (by decide)))
    | dsimp only
    | split

theorem frame_dspSadd {s : State} (w : s.Wf) {d : Nat} {sl : Slot} {sd : Nat} {a : Nat} {b : Nat} : Framed (.whole [.regs, .host, .leash, .trigs, .log, .recUsed, .recDrop, .cells, .cjobs, .dsps, .recd, .attn, .sigq, .held, .free, .emitted]) (.dspSadd d sl sd a b) s := by
  have hL : (Foot.whole [.regs, .host, .leash, .trigs, .log, .recUsed, .recDrop, .cells, .cjobs, .dsps, .recd, .attn, .sigq, .held, .free, .emitted]).le (Foot.whole [.regs, .host, .leash, .trigs, .log, .recUsed, .recDrop, .cells, .cjobs, .dsps, .recd, .attn, .sigq, .held, .free, .emitted]) := Foot.le_refl
  refine framed_out w (o := execDspSadd d sl sd a b s) rfl ?_
  unfold execDspSadd
  refine ⟨_, rfl, ?_⟩
  repeat' first
    | with_reducible first
      | exact Act.nil_in
      | exact Act.skip_in
      | apply Act.cons_in
      | apply Act.seq_in
      | (apply Act.get_in; intro _)
      | (apply Act.when_in; intro _)
      | apply Act.ite_in
      | (apply Act.each_in; intro _ _)
      | (exact Act.dspScalar_pieces (Foot.sub hL (by decide)))
    | dsimp only
    | split

theorem frame_dspSsub {s : State} (w : s.Wf) {d : Nat} {sl : Slot} {sd : Nat} {a : Nat} {b : Nat} : Framed (.whole [.regs, .host, .leash, .trigs, .log, .recUsed, .recDrop, .cells, .cjobs, .dsps, .recd, .attn, .sigq, .held, .free, .emitted]) (.dspSsub d sl sd a b) s := by
  have hL : (Foot.whole [.regs, .host, .leash, .trigs, .log, .recUsed, .recDrop, .cells, .cjobs, .dsps, .recd, .attn, .sigq, .held, .free, .emitted]).le (Foot.whole [.regs, .host, .leash, .trigs, .log, .recUsed, .recDrop, .cells, .cjobs, .dsps, .recd, .attn, .sigq, .held, .free, .emitted]) := Foot.le_refl
  refine framed_out w (o := execDspSsub d sl sd a b s) rfl ?_
  unfold execDspSsub
  refine ⟨_, rfl, ?_⟩
  repeat' first
    | with_reducible first
      | exact Act.nil_in
      | exact Act.skip_in
      | apply Act.cons_in
      | apply Act.seq_in
      | (apply Act.get_in; intro _)
      | (apply Act.when_in; intro _)
      | apply Act.ite_in
      | (apply Act.each_in; intro _ _)
      | (exact Act.dspScalar_pieces (Foot.sub hL (by decide)))
    | dsimp only
    | split

theorem frame_dspSand {s : State} (w : s.Wf) {d : Nat} {sl : Slot} {sd : Nat} {a : Nat} {b : Nat} : Framed (.whole [.regs, .host, .leash, .trigs, .log, .recUsed, .recDrop, .cells, .cjobs, .dsps, .recd, .attn, .sigq, .held, .free, .emitted]) (.dspSand d sl sd a b) s := by
  have hL : (Foot.whole [.regs, .host, .leash, .trigs, .log, .recUsed, .recDrop, .cells, .cjobs, .dsps, .recd, .attn, .sigq, .held, .free, .emitted]).le (Foot.whole [.regs, .host, .leash, .trigs, .log, .recUsed, .recDrop, .cells, .cjobs, .dsps, .recd, .attn, .sigq, .held, .free, .emitted]) := Foot.le_refl
  refine framed_out w (o := execDspSand d sl sd a b s) rfl ?_
  unfold execDspSand
  refine ⟨_, rfl, ?_⟩
  repeat' first
    | with_reducible first
      | exact Act.nil_in
      | exact Act.skip_in
      | apply Act.cons_in
      | apply Act.seq_in
      | (apply Act.get_in; intro _)
      | (apply Act.when_in; intro _)
      | apply Act.ite_in
      | (apply Act.each_in; intro _ _)
      | (exact Act.dspScalar_pieces (Foot.sub hL (by decide)))
    | dsimp only
    | split

theorem frame_dspSshl {s : State} (w : s.Wf) {d : Nat} {sl : Slot} {sd : Nat} {a : Nat} {b : Nat} : Framed (.whole [.regs, .host, .leash, .trigs, .log, .recUsed, .recDrop, .cells, .cjobs, .dsps, .recd, .attn, .sigq, .held, .free, .emitted]) (.dspSshl d sl sd a b) s := by
  have hL : (Foot.whole [.regs, .host, .leash, .trigs, .log, .recUsed, .recDrop, .cells, .cjobs, .dsps, .recd, .attn, .sigq, .held, .free, .emitted]).le (Foot.whole [.regs, .host, .leash, .trigs, .log, .recUsed, .recDrop, .cells, .cjobs, .dsps, .recd, .attn, .sigq, .held, .free, .emitted]) := Foot.le_refl
  refine framed_out w (o := execDspSshl d sl sd a b s) rfl ?_
  unfold execDspSshl
  refine ⟨_, rfl, ?_⟩
  repeat' first
    | with_reducible first
      | exact Act.nil_in
      | exact Act.skip_in
      | apply Act.cons_in
      | apply Act.seq_in
      | (apply Act.get_in; intro _)
      | (apply Act.when_in; intro _)
      | apply Act.ite_in
      | (apply Act.each_in; intro _ _)
      | (exact Act.dspScalar_pieces (Foot.sub hL (by decide)))
    | dsimp only
    | split

theorem Act.dspAg_pieces {F : Foot} {d : Nat} {sl : Slot} {ag : Nat} {idx : Bool} {f : DspRegs → AgSt} (hL : (Foot.whole [.regs, .host, .leash, .trigs, .log, .recUsed, .recDrop, .cells, .cjobs, .dsps, .recd, .attn, .sigq, .held, .free, .emitted]).le F) : (Act.dspAg d sl ag idx f).In F := by
  unfold Act.dspAg
  repeat' first
    | with_reducible first
      | exact Act.nil_in
      | exact Act.skip_in
      | apply Act.cons_in
      | apply Act.seq_in
      | (apply Act.get_in; intro _)
      | (apply Act.when_in; intro _)
      | apply Act.ite_in
      | (apply Act.each_in; intro _ _)
      | (exact Act.dspFaultNow_pieces (Foot.sub hL (by decide)))
      | (exact Act.dspRegs_pieces (Foot.sub hL (by decide)))
      | (refine Act.dspSlot_pieces (Foot.sub hL (by decide)) ?_ <;> intros)
    | dsimp only
    | split

theorem frame_dspAgset {s : State} (w : s.Wf) {d : Nat} {sl : Slot} {ag : Nat} {base : Nat} {idx : Nat} {step : Int} {mod : Nat} {mode : Nat} {mem : Nat} : Framed (.whole [.regs, .host, .leash, .trigs, .log, .recUsed, .recDrop, .cells, .cjobs, .dsps, .recd, .attn, .sigq, .held, .free, .emitted]) (.dspAgset d sl ag base idx step mod mode mem) s := by
  have hL : (Foot.whole [.regs, .host, .leash, .trigs, .log, .recUsed, .recDrop, .cells, .cjobs, .dsps, .recd, .attn, .sigq, .held, .free, .emitted]).le (Foot.whole [.regs, .host, .leash, .trigs, .log, .recUsed, .recDrop, .cells, .cjobs, .dsps, .recd, .attn, .sigq, .held, .free, .emitted]) := Foot.le_refl
  refine framed_out w (o := execDspAgset d sl ag base idx step mod mode mem s) rfl ?_
  unfold execDspAgset
  refine ⟨_, rfl, ?_⟩
  repeat' first
    | with_reducible first
      | exact Act.nil_in
      | exact Act.skip_in
      | apply Act.cons_in
      | apply Act.seq_in
      | (apply Act.get_in; intro _)
      | (apply Act.when_in; intro _)
      | apply Act.ite_in
      | (apply Act.each_in; intro _ _)
      | (exact Act.dspAg_pieces (Foot.sub hL (by decide)))
    | dsimp only
    | split

theorem frame_dspAgld {s : State} (w : s.Wf) {d : Nat} {sl : Slot} {ag : Nat} {field : Nat} {sa : Nat} : Framed (.whole [.regs, .host, .leash, .trigs, .log, .recUsed, .recDrop, .cells, .cjobs, .dsps, .recd, .attn, .sigq, .held, .free, .emitted]) (.dspAgld d sl ag field sa) s := by
  have hL : (Foot.whole [.regs, .host, .leash, .trigs, .log, .recUsed, .recDrop, .cells, .cjobs, .dsps, .recd, .attn, .sigq, .held, .free, .emitted]).le (Foot.whole [.regs, .host, .leash, .trigs, .log, .recUsed, .recDrop, .cells, .cjobs, .dsps, .recd, .attn, .sigq, .held, .free, .emitted]) := Foot.le_refl
  refine framed_out w (o := execDspAgld d sl ag field sa s) rfl ?_
  unfold execDspAgld
  refine ⟨_, rfl, ?_⟩
  repeat' first
    | with_reducible first
      | exact Act.nil_in
      | exact Act.skip_in
      | apply Act.cons_in
      | apply Act.seq_in
      | (apply Act.get_in; intro _)
      | (apply Act.when_in; intro _)
      | apply Act.ite_in
      | (apply Act.each_in; intro _ _)
      | (exact Act.dspAg_pieces (Foot.sub hL (by decide)))
    | dsimp only
    | split

theorem frame_dspModeset {s : State} (w : s.Wf) {d : Nat} {sl : Slot} {sat : Bool} : Framed (.whole [.regs, .host, .leash, .trigs, .log, .recUsed, .recDrop, .cells, .cjobs, .dsps, .recd, .attn, .sigq, .held, .free, .emitted]) (.dspModeset d sl sat) s := by
  have hL : (Foot.whole [.regs, .host, .leash, .trigs, .log, .recUsed, .recDrop, .cells, .cjobs, .dsps, .recd, .attn, .sigq, .held, .free, .emitted]).le (Foot.whole [.regs, .host, .leash, .trigs, .log, .recUsed, .recDrop, .cells, .cjobs, .dsps, .recd, .attn, .sigq, .held, .free, .emitted]) := Foot.le_refl
  refine framed_out w (o := execDspModeset d sl sat s) rfl ?_
  unfold execDspModeset
  refine ⟨_, rfl, ?_⟩
  repeat' first
    | with_reducible first
      | exact Act.nil_in
      | exact Act.skip_in
      | apply Act.cons_in
      | apply Act.seq_in
      | (apply Act.get_in; intro _)
      | (apply Act.when_in; intro _)
      | apply Act.ite_in
      | (apply Act.each_in; intro _ _)
      | (exact Act.dspRegs_pieces (Foot.sub hL (by decide)))
      | (refine Act.dspSlot_pieces (Foot.sub hL (by decide)) ?_ <;> intros)
    | dsimp only
    | split

theorem Act.dspTake_pieces {F : Foot} {group : Nat} {radio : Bool} {desc : Nat} {stat : Nat} {cells : List Nat} {k : List Nat → Nat → List Nat → Bool → Act} (hL : (Foot.whole [.regs, .mem, .errs, .lpErr, .chUe, .host, .store, .acc, .health, .leash, .trigs, .log, .recUsed, .recDrop, .recd, .attn, .flash, .emitted]).le F) (hc_k : ∀ y0 y1 y2 y3, (k y0 y1 y2 y3).In F) : (Act.dspTake group radio desc stat cells k).In F := by
  unfold Act.dspTake
  repeat' first
    | with_reducible first
      | exact Act.nil_in
      | exact Act.skip_in
      | apply Act.cons_in
      | apply Act.seq_in
      | (apply Act.get_in; intro _)
      | (apply Act.when_in; intro _)
      | apply Act.ite_in
      | (apply Act.each_in; intro _ _)
      | (refine Act.readMem_pieces (Foot.sub hL (by decide)) ?_ <;> intros)
      | exact hc_k _ _ _ _
    | dsimp only
    | split

theorem frame_dspJobDispatch {s : State} (w : s.Wf) {group : Nat} {radio : Bool} {desc : Nat} {stat : Nat} {cells : List Nat} : Framed (.whole [.regs, .mem, .errs, .lpErr, .chUe, .host, .store, .acc, .health, .leash, .trigs, .log, .recUsed, .recDrop, .cells, .cjobs, .dsps, .dspMem, .recd, .attn, .sigq, .flash, .held, .last, .free, .emitted]) (.dspJobDispatch group radio desc stat cells) s := by
  have hL : (Foot.whole [.regs, .mem, .errs, .lpErr, .chUe, .host, .store, .acc, .health, .leash, .trigs, .log, .recUsed, .recDrop, .cells, .cjobs, .dsps, .dspMem, .recd, .attn, .sigq, .flash, .held, .last, .free, .emitted]).le (Foot.whole [.regs, .mem, .errs, .lpErr, .chUe, .host, .store, .acc, .health, .leash, .trigs, .log, .recUsed, .recDrop, .cells, .cjobs, .dsps, .dspMem, .recd, .attn, .sigq, .flash, .held, .last, .free, .emitted]) := Foot.le_refl
  refine framed_out w (o := execDspJobDispatch group radio desc stat cells s) rfl ?_
  unfold execDspJobDispatch
  refine ⟨_, rfl, ?_⟩
  repeat' first
    | with_reducible first
      | exact Act.nil_in
      | exact Act.skip_in
      | apply Act.cons_in
      | apply Act.seq_in
      | (apply Act.get_in; intro _)
      | (apply Act.when_in; intro _)
      | apply Act.ite_in
      | (apply Act.each_in; intro _ _)
      | (refine Act.charge_pieces (Foot.sub hL (by decide)) ?_ ?_ <;> intros)
      | (exact Act.clearDspMem_in fun k _ _ => Foot.has hL (by decide) k)
      | (exact Act.dspFault_pieces (Foot.sub hL (by decide)))
      | (refine Act.dspTake_pieces (Foot.sub hL (by decide)) ?_ <;> intros)
      | (exact Act.modDsps_in (Foot.has hL (by decide) _))
      | (exact Act.modHeld_in fun k => Foot.has hL (by decide) k)
      | (refine Act.readMem_pieces (Foot.sub hL (by decide)) ?_ <;> intros)
      | (exact Act.setF_in (Foot.has hL (by decide) _))
    | dsimp only
    | split

theorem Act.dspInMoves_pieces {F : Foot} {d : Nat} {part : Nat} {x0 : List (Nat × Nat)} {x1 : Act} (hL : (Foot.whole [.regs, .mem, .errs, .lpErr, .chUe, .host, .store, .acc, .health, .leash, .trigs, .log, .recUsed, .recDrop, .cells, .cjobs, .dsps, .dspMem, .recd, .attn, .sigq, .flash, .held, .free, .emitted]).le F) (hc_x1 : x1.In F) : (Act.dspInMoves d part x0 x1).In F := by
  induction x0 with
  | nil => exact hc_x1
  | cons x r ih =>
    unfold Act.dspInMoves
    repeat' first
      | with_reducible first
        | exact Act.nil_in
        | exact Act.skip_in
        | apply Act.cons_in
        | apply Act.seq_in
        | (apply Act.get_in; intro _)
        | (apply Act.when_in; intro _)
        | apply Act.ite_in
        | (apply Act.each_in; intro _ _)
        | (exact Act.dmSet_pieces (Foot.sub hL (by decide)))
        | (exact Act.dspFaultNow_pieces (Foot.sub hL (by decide)))
        | (refine Act.readMem_pieces (Foot.sub hL (by decide)) ?_ <;> intros)
        | (apply ih)
        | exact hc_x1
      | dsimp only
      | split

theorem Act.dspOutMoves_pieces {F : Foot} {d : Nat} {part : Nat} {x0 : List (Nat × Nat)} {x1 : Act} (hL : (Foot.whole [.regs, .mem, .errs, .lpErr, .chUe, .host, .store, .acc, .health, .leash, .trigs, .log, .recUsed, .recDrop, .cells, .cjobs, .dsps, .recd, .attn, .sigq, .flash, .held, .free, .emitted]).le F) (hc_x1 : x1.In F) : (Act.dspOutMoves d part x0 x1).In F := by
  induction x0 with
  | nil => exact hc_x1
  | cons x r ih =>
    unfold Act.dspOutMoves
    repeat' first
      | with_reducible first
        | exact Act.nil_in
        | exact Act.skip_in
        | apply Act.cons_in
        | apply Act.seq_in
        | (apply Act.get_in; intro _)
        | (apply Act.when_in; intro _)
        | apply Act.ite_in
        | (apply Act.each_in; intro _ _)
        | (exact Act.dspFaultNow_pieces (Foot.sub hL (by decide)))
        | (refine Act.writeMem_pieces (Foot.sub hL (by decide)) ?_ <;> intros)
        | (apply ih)
        | exact hc_x1
      | dsimp only
      | split

theorem frame_dspProgramStart {s : State} (w : s.Wf) {d : Nat} : Framed (.whole [.regs, .mem, .errs, .lpErr, .chUe, .host, .store, .acc, .health, .leash, .trigs, .log, .recUsed, .recDrop, .cells, .cjobs, .dsps, .dspMem, .recd, .attn, .sigq, .flash, .held, .free, .emitted]) (.dspProgramStart d) s := by
  have hL : (Foot.whole [.regs, .mem, .errs, .lpErr, .chUe, .host, .store, .acc, .health, .leash, .trigs, .log, .recUsed, .recDrop, .cells, .cjobs, .dsps, .dspMem, .recd, .attn, .sigq, .flash, .held, .free, .emitted]).le (Foot.whole [.regs, .mem, .errs, .lpErr, .chUe, .host, .store, .acc, .health, .leash, .trigs, .log, .recUsed, .recDrop, .cells, .cjobs, .dsps, .dspMem, .recd, .attn, .sigq, .flash, .held, .free, .emitted]) := Foot.le_refl
  refine framed_out w (o := execDspProgramStart d s) rfl ?_
  unfold execDspProgramStart
  refine ⟨_, rfl, ?_⟩
  repeat' first
    | with_reducible first
      | exact Act.nil_in
      | exact Act.skip_in
      | apply Act.cons_in
      | apply Act.seq_in
      | (apply Act.get_in; intro _)
      | (apply Act.when_in; intro _)
      | apply Act.ite_in
      | (apply Act.each_in; intro _ _)
      | (exact Act.dspFaultNow_pieces (Foot.sub hL (by decide)))
      | (exact Act.dspGo_pieces (Foot.sub hL (by decide)))
      | (refine Act.dspInMoves_pieces (Foot.sub hL (by decide)) ?_ <;> intros)
      | (exact Act.modDsps_in (Foot.has hL (by decide) _))
      | (exact Act.setF_in (Foot.has hL (by decide) _))
    | dsimp only
    | split

theorem frame_dspStatusRecord {s : State} (w : s.Wf) {d : Nat} {ce : Nat} {ue : Bool} : Framed (.whole [.regs, .mem, .errs, .lpErr, .chUe, .host, .store, .acc, .health, .leash, .trigs, .log, .recUsed, .recDrop, .cells, .cjobs, .dsps, .recd, .attn, .sigq, .flash, .held, .free, .emitted]) (.dspStatusRecord d ce ue) s := by
  have hL : (Foot.whole [.regs, .mem, .errs, .lpErr, .chUe, .host, .store, .acc, .health, .leash, .trigs, .log, .recUsed, .recDrop, .cells, .cjobs, .dsps, .recd, .attn, .sigq, .flash, .held, .free, .emitted]).le (Foot.whole [.regs, .mem, .errs, .lpErr, .chUe, .host, .store, .acc, .health, .leash, .trigs, .log, .recUsed, .recDrop, .cells, .cjobs, .dsps, .recd, .attn, .sigq, .flash, .held, .free, .emitted]) := Foot.le_refl
  refine framed_out w (o := execDspStatusRecord d ce ue s) rfl ?_
  unfold execDspStatusRecord
  refine ⟨_, rfl, ?_⟩
  repeat' first
    | with_reducible first
      | exact Act.nil_in
      | exact Act.skip_in
      | apply Act.cons_in
      | apply Act.seq_in
      | (apply Act.get_in; intro _)
      | (apply Act.when_in; intro _)
      | apply Act.ite_in
      | (apply Act.each_in; intro _ _)
      | (exact Act.dspAbort_pieces (Foot.sub hL (by decide)))
      | (exact Act.dspFaultNow_pieces (Foot.sub hL (by decide)))
      | (refine Act.dspOutMoves_pieces (Foot.sub hL (by decide)) ?_ <;> intros)
      | (exact Act.incF_in (Foot.has hL (by decide) _))
      | (exact Act.pmc_pieces (Foot.sub hL (by decide)))
      | (exact Act.signal_pieces (Foot.sub hL (by decide)))
      | (refine Act.writeMem_pieces (Foot.sub hL (by decide)) ?_ <;> intros)
    | dsimp only
    | split

theorem frame_dspRadioOverrun {s : State} (w : s.Wf) {d : Nat} : Framed (.whole [.regs, .host, .leash, .trigs, .log, .recUsed, .recDrop, .cells, .cjobs, .dsps, .recd, .attn, .sigq, .free, .emitted]) (.dspRadioOverrun d) s := by
  have hL : (Foot.whole [.regs, .host, .leash, .trigs, .log, .recUsed, .recDrop, .cells, .cjobs, .dsps, .recd, .attn, .sigq, .free, .emitted]).le (Foot.whole [.regs, .host, .leash, .trigs, .log, .recUsed, .recDrop, .cells, .cjobs, .dsps, .recd, .attn, .sigq, .free, .emitted]) := Foot.le_refl
  refine framed_out w (o := execDspRadioOverrun d s) rfl ?_
  unfold execDspRadioOverrun
  refine ⟨_, rfl, ?_⟩
  repeat' first
    | with_reducible first
      | exact Act.nil_in
      | exact Act.skip_in
      | apply Act.cons_in
      | apply Act.seq_in
      | (apply Act.get_in; intro _)
      | (apply Act.when_in; intro _)
      | apply Act.ite_in
      | (apply Act.each_in; intro _ _)
      | (exact Act.cellResets_pieces (Foot.sub hL (by decide)))
      | (exact Act.dspAbort_pieces (Foot.sub hL (by decide)))
    | dsimp only
    | split

theorem frame_dspManagerOverrun {s : State} (w : s.Wf) {d : Nat} : Framed (.whole [.regs, .dsps, .held]) (.dspManagerOverrun d) s := by
  have hL : (Foot.whole [.regs, .dsps, .held]).le (Foot.whole [.regs, .dsps, .held]) := Foot.le_refl
  refine framed_out w (o := execDspManagerOverrun d s) rfl ?_
  unfold execDspManagerOverrun
  refine ⟨_, rfl, ?_⟩
  repeat' first
    | with_reducible first
      | exact Act.nil_in
      | exact Act.skip_in
      | apply Act.cons_in
      | apply Act.seq_in
      | (apply Act.get_in; intro _)
      | (apply Act.when_in; intro _)
      | apply Act.ite_in
      | (apply Act.each_in; intro _ _)
      | (exact Act.dspAbort_pieces (Foot.sub hL (by decide)))
      | (exact Act.incF_in (Foot.has hL (by decide) _))
      | (exact Act.modHeld_in fun k => Foot.has hL (by decide) k)
    | dsimp only
    | split

theorem frame_dspWaitTimeout {s : State} (w : s.Wf) {d : Nat} : Framed (.whole [.regs, .host, .leash, .trigs, .log, .recUsed, .recDrop, .cells, .cjobs, .dsps, .recd, .attn, .sigq, .held, .free, .emitted]) (.dspWaitTimeout d) s := by
  have hL : (Foot.whole [.regs, .host, .leash, .trigs, .log, .recUsed, .recDrop, .cells, .cjobs, .dsps, .recd, .attn, .sigq, .held, .free, .emitted]).le (Foot.whole [.regs, .host, .leash, .trigs, .log, .recUsed, .recDrop, .cells, .cjobs, .dsps, .recd, .attn, .sigq, .held, .free, .emitted]) := Foot.le_refl
  refine framed_out w (o := execDspWaitTimeout d s) rfl ?_
  unfold execDspWaitTimeout
  refine ⟨_, rfl, ?_⟩
  repeat' first
    | with_reducible first
      | exact Act.nil_in
      | exact Act.skip_in
      | apply Act.cons_in
      | apply Act.seq_in
      | (apply Act.get_in; intro _)
      | (apply Act.when_in; intro _)
      | apply Act.ite_in
      | (apply Act.each_in; intro _ _)
      | (exact Act.dspFaultNow_pieces (Foot.sub hL (by decide)))
    | dsimp only
    | split

end Sys2Proof.Machine
end

