-- ==== Sys2Proof/Laws/PiecesCoding.lean ====
section
/-! SUPPORT. The pieces of state that the operations of Machine/Coding.lean can write, and the frames of its commands. -/

set_option linter.unusedSimpArgs false

namespace Sys2Proof.Machine

theorem Act.codeRefuse_pieces {F : Foot} {radio : Bool} {cells : List Nat} {cause : Nat} (hL : (Foot.whole [.regs, .host, .leash, .trigs, .log, .recUsed, .recDrop, .cells, .cjobs, .dsps, .recd, .attn, .sigq, .free, .emitted]).le F) : (Act.codeRefuse radio cells cause).In F := by
  unfold Act.codeRefuse
  repeat' first
    | with_reducible first
      | exact Act.nil_in
      | exact Act.skip_in
      | apply Act.cons_in
      | apply Act.seq_in
      | (apply Act.get_in; intro _)
      | (apply Act.when_in; intro _)
      | apply Act.ite_in
      | (apply Act.each_in; intro _ _)
      | (exact Act.cellResets_pieces (Foot.sub hL (by decide)))
    | dsimp only
    | split

theorem Act.codeInputs_pieces {F : Foot} {part : Nat} {die : Nat} {bad : Act} {x0 : List (Nat × Nat)} {x1 : List (List Byte)} {x2 : (List (List Byte) → Act)} (hL : (Foot.whole [.regs, .mem, .errs, .lpErr, .chUe, .host, .store, .acc, .health, .leash, .trigs, .log, .recUsed, .recDrop, .recd, .attn, .flash, .emitted]).le F) (hc_bad : bad.In F) (hc_x2 : ∀ y0, (x2 y0).In F) : (Act.codeInputs part die bad x0 x1 x2).In F := by
  induction x0 generalizing x1 with
  | nil => exact hc_x2 _
  | cons x r ih =>
    unfold Act.codeInputs
    repeat' first
      | with_reducible first
        | exact Act.nil_in
        | exact Act.skip_in
        | apply Act.cons_in
        | apply Act.seq_in
        | (apply Act.get_in; intro _)
        | (apply Act.when_in; intro _)
        | apply Act.ite_in
        | (apply Act.each_in; intro _ _)
        | (refine Act.readMem_pieces (Foot.sub hL (by decide)) ?_ <;> intros)
        | (apply ih)
        | exact hc_bad
        | exact hc_x2 _
      | dsimp only
      | split

theorem Act.codeBegin_pieces {F : Foot} {cluster : Nat} {kind : Nat} {radio : Bool} {w : List Nat} {stat : Nat} {cells0 : List Nat} {first : List Nat → Bool} {hqErr : Bool} {waited : Option (List Nat)} (hL : (Foot.whole [.regs, .mem, .errs, .lpErr, .chUe, .host, .store, .acc, .health, .leash, .trigs, .log, .recUsed, .recDrop, .cells, .cjobs, .dsps, .recd, .attn, .sigq, .flash, .heldCode, .last, .free, .emitted]).le F) : (Act.codeBegin cluster kind radio w stat cells0 first hqErr waited).In F := by
  unfold Act.codeBegin
  repeat' first
    | with_reducible first
      | exact Act.nil_in
      | exact Act.skip_in
      | apply Act.cons_in
      | apply Act.seq_in
      | (apply Act.get_in; intro _)
      | (apply Act.when_in; intro _)
      | apply Act.ite_in
      | (apply Act.each_in; intro _ _)
      | (refine Act.charge_pieces (Foot.sub hL (by decide)) ?_ ?_ <;> intros)
      | (refine Act.codeInputs_pieces (Foot.sub hL (by decide)) ?_ ?_ <;> intros)
      | (exact Act.codeRefuse_pieces (Foot.sub hL (by decide)))
      | (exact Act.dropCodeJob_pieces (Foot.sub hL (by decide)))
      | (exact Act.modHeldCode_in fun k => Foot.has hL (by decide) k)
      | (refine Act.readMem_pieces (Foot.sub hL (by decide)) ?_ <;> intros)
      | (exact Act.setCjobs_in (Foot.has hL (by decide) _))
      | (exact Act.setF_in (Foot.has hL (by decide) _))
    | dsimp only
    | split

theorem Act.codeDispatch_pieces {F : Foot} {cluster : Nat} {kind : Nat} {radio : Bool} {desc : Nat} {stat : Nat} {cells0 : List Nat} {first : List Nat → Bool} {hqErr : Bool} (hL : (Foot.whole [.regs, .mem, .errs, .lpErr, .chUe, .host, .store, .acc, .health, .leash, .trigs, .log, .recUsed, .recDrop, .cells, .cjobs, .dsps, .recd, .attn, .sigq, .flash, .heldCode, .last, .free, .emitted]).le F) : (Act.codeDispatch cluster kind radio desc stat cells0 first hqErr).In F := by
  unfold Act.codeDispatch
  repeat' first
    | with_reducible first
      | exact Act.nil_in
      | exact Act.skip_in
      | apply Act.cons_in
      | apply Act.seq_in
      | (apply Act.get_in; intro _)
      | (apply Act.when_in; intro _)
      | apply Act.ite_in
      | (apply Act.each_in; intro _ _)
      | (exact Act.codeBegin_pieces (Foot.sub hL (by decide)))
      | (exact Act.codeRefuse_pieces (Foot.sub hL (by decide)))
      | (refine Act.readMem_pieces (Foot.sub hL (by decide)) ?_ <;> intros)
    | dsimp only
    | split

theorem frame_ldpcDecodeJob {s : State} (w : s.Wf) {cluster : Nat} {radio : Bool} {desc : Nat} {stat : Nat} {hqErr : Bool} : Framed (.whole [.regs, .mem, .errs, .lpErr, .chUe, .host, .store, .acc, .health, .leash, .trigs, .log, .recUsed, .recDrop, .cells, .cjobs, .dsps, .recd, .attn, .sigq, .flash, .heldCode, .last, .free, .emitted]) (.ldpcDecodeJob cluster radio desc stat hqErr) s := by
  have hL : (Foot.whole [.regs, .mem, .errs, .lpErr, .chUe, .host, .store, .acc, .health, .leash, .trigs, .log, .recUsed, .recDrop, .cells, .cjobs, .dsps, .recd, .attn, .sigq, .flash, .heldCode, .last, .free, .emitted]).le (Foot.whole [.regs, .mem, .errs, .lpErr, .chUe, .host, .store, .acc, .health, .leash, .trigs, .log, .recUsed, .recDrop, .cells, .cjobs, .dsps, .recd, .attn, .sigq, .flash, .heldCode, .last, .free, .emitted]) := Foot.le_refl
  refine framed_out w (o := execLdpcDecodeJob cluster radio desc stat hqErr s) rfl ?_
  unfold execLdpcDecodeJob
  refine ⟨_, rfl, ?_⟩
  repeat' first
    | with_reducible first
      | exact Act.nil_in
      | exact Act.skip_in
      | apply Act.cons_in
      | apply Act.seq_in
      | (apply Act.get_in; intro _)
      | (apply Act.when_in; intro _)
      | apply Act.ite_in
      | (apply Act.each_in; intro _ _)
      | (exact Act.codeDispatch_pieces (Foot.sub hL (by decide)))
    | dsimp only
    | split

theorem frame_ldpcEncodeJob {s : State} (w : s.Wf) {cluster : Nat} {radio : Bool} {desc : Nat} {stat : Nat} : Framed (.whole [.regs, .mem, .errs, .lpErr, .chUe, .host, .store, .acc, .health, .leash, .trigs, .log, .recUsed, .recDrop, .cells, .cjobs, .dsps, .recd, .attn, .sigq, .flash, .heldCode, .last, .free, .emitted]) (.ldpcEncodeJob cluster radio desc stat) s := by
  have hL : (Foot.whole [.regs, .mem, .errs, .lpErr, .chUe, .host, .store, .acc, .health, .leash, .trigs, .log, .recUsed, .recDrop, .cells, .cjobs, .dsps, .recd, .attn, .sigq, .flash, .heldCode, .last, .free, .emitted]).le (Foot.whole [.regs, .mem, .errs, .lpErr, .chUe, .host, .store, .acc, .health, .leash, .trigs, .log, .recUsed, .recDrop, .cells, .cjobs, .dsps, .recd, .attn, .sigq, .flash, .heldCode, .last, .free, .emitted]) := Foot.le_refl
  refine framed_out w (o := execLdpcEncodeJob cluster radio desc stat s) rfl ?_
  unfold execLdpcEncodeJob
  refine ⟨_, rfl, ?_⟩
  repeat' first
    | with_reducible first
      | exact Act.nil_in
      | exact Act.skip_in
      | apply Act.cons_in
      | apply Act.seq_in
      | (apply Act.get_in; intro _)
      | (apply Act.when_in; intro _)
      | apply Act.ite_in
      | (apply Act.each_in; intro _ _)
      | (exact Act.codeDispatch_pieces (Foot.sub hL (by decide)))
    | dsimp only
    | split

theorem frame_dciEncode {s : State} (w : s.Wf) {cluster : Nat} {radio : Bool} {desc : Nat} {stat : Nat} {cells : List Nat} : Framed (.whole [.regs, .mem, .errs, .lpErr, .chUe, .host, .store, .acc, .health, .leash, .trigs, .log, .recUsed, .recDrop, .cells, .cjobs, .dsps, .recd, .attn, .sigq, .flash, .heldCode, .last, .free, .emitted]) (.dciEncode cluster radio desc stat cells) s := by
  have hL : (Foot.whole [.regs, .mem, .errs, .lpErr, .chUe, .host, .store, .acc, .health, .leash, .trigs, .log, .recUsed, .recDrop, .cells, .cjobs, .dsps, .recd, .attn, .sigq, .flash, .heldCode, .last, .free, .emitted]).le (Foot.whole [.regs, .mem, .errs, .lpErr, .chUe, .host, .store, .acc, .health, .leash, .trigs, .log, .recUsed, .recDrop, .cells, .cjobs, .dsps, .recd, .attn, .sigq, .flash, .heldCode, .last, .free, .emitted]) := Foot.le_refl
  refine framed_out w (o := execDciEncode cluster radio desc stat cells s) rfl ?_
  unfold execDciEncode
  refine ⟨_, rfl, ?_⟩
  repeat' first
    | with_reducible first
      | exact Act.nil_in
      | exact Act.skip_in
      | apply Act.cons_in
      | apply Act.seq_in
      | (apply Act.get_in; intro _)
      | (apply Act.when_in; intro _)
      | apply Act.ite_in
      | (apply Act.each_in; intro _ _)
      | (exact Act.codeDispatch_pieces (Foot.sub hL (by decide)))
    | dsimp only
    | split

theorem frame_bchEncode {s : State} (w : s.Wf) {cluster : Nat} {radio : Bool} {desc : Nat} {stat : Nat} {cells : List Nat} : Framed (.whole [.regs, .mem, .errs, .lpErr, .chUe, .host, .store, .acc, .health, .leash, .trigs, .log, .recUsed, .recDrop, .cells, .cjobs, .dsps, .recd, .attn, .sigq, .flash, .heldCode, .last, .free, .emitted]) (.bchEncode cluster radio desc stat cells) s := by
  have hL : (Foot.whole [.regs, .mem, .errs, .lpErr, .chUe, .host, .store, .acc, .health, .leash, .trigs, .log, .recUsed, .recDrop, .cells, .cjobs, .dsps, .recd, .attn, .sigq, .flash, .heldCode, .last, .free, .emitted]).le (Foot.whole [.regs, .mem, .errs, .lpErr, .chUe, .host, .store, .acc, .health, .leash, .trigs, .log, .recUsed, .recDrop, .cells, .cjobs, .dsps, .recd, .attn, .sigq, .flash, .heldCode, .last, .free, .emitted]) := Foot.le_refl
  refine framed_out w (o := execBchEncode cluster radio desc stat cells s) rfl ?_
  unfold execBchEncode
  refine ⟨_, rfl, ?_⟩
  repeat' first
    | with_reducible first
      | exact Act.nil_in
      | exact Act.skip_in
      | apply Act.cons_in
      | apply Act.seq_in
      | (apply Act.get_in; intro _)
      | (apply Act.when_in; intro _)
      | apply Act.ite_in
      | (apply Act.each_in; intro _ _)
      | (exact Act.codeDispatch_pieces (Foot.sub hL (by decide)))
    | dsimp only
    | split

theorem frame_uciPolarDecode {s : State} (w : s.Wf) {cluster : Nat} {radio : Bool} {desc : Nat} {stat : Nat} {cells : List Nat} : Framed (.whole [.regs, .mem, .errs, .lpErr, .chUe, .host, .store, .acc, .health, .leash, .trigs, .log, .recUsed, .recDrop, .cells, .cjobs, .dsps, .recd, .attn, .sigq, .flash, .heldCode, .last, .free, .emitted]) (.uciPolarDecode cluster radio desc stat cells) s := by
  have hL : (Foot.whole [.regs, .mem, .errs, .lpErr, .chUe, .host, .store, .acc, .health, .leash, .trigs, .log, .recUsed, .recDrop, .cells, .cjobs, .dsps, .recd, .attn, .sigq, .flash, .heldCode, .last, .free, .emitted]).le (Foot.whole [.regs, .mem, .errs, .lpErr, .chUe, .host, .store, .acc, .health, .leash, .trigs, .log, .recUsed, .recDrop, .cells, .cjobs, .dsps, .recd, .attn, .sigq, .flash, .heldCode, .last, .free, .emitted]) := Foot.le_refl
  refine framed_out w (o := execUciPolarDecode cluster radio desc stat cells s) rfl ?_
  unfold execUciPolarDecode
  refine ⟨_, rfl, ?_⟩
  repeat' first
    | with_reducible first
      | exact Act.nil_in
      | exact Act.skip_in
      | apply Act.cons_in
      | apply Act.seq_in
      | (apply Act.get_in; intro _)
      | (apply Act.when_in; intro _)
      | apply Act.ite_in
      | (apply Act.each_in; intro _ _)
      | (exact Act.codeDispatch_pieces (Foot.sub hL (by decide)))
    | dsimp only
    | split

theorem frame_uciReedMullerDecode {s : State} (w : s.Wf) {cluster : Nat} {radio : Bool} {desc : Nat} {stat : Nat} {cells : List Nat} : Framed (.whole [.regs, .mem, .errs, .lpErr, .chUe, .host, .store, .acc, .health, .leash, .trigs, .log, .recUsed, .recDrop, .cells, .cjobs, .dsps, .recd, .attn, .sigq, .flash, .heldCode, .last, .free, .emitted]) (.uciReedMullerDecode cluster radio desc stat cells) s := by
  have hL : (Foot.whole [.regs, .mem, .errs, .lpErr, .chUe, .host, .store, .acc, .health, .leash, .trigs, .log, .recUsed, .recDrop, .cells, .cjobs, .dsps, .recd, .attn, .sigq, .flash, .heldCode, .last, .free, .emitted]).le (Foot.whole [.regs, .mem, .errs, .lpErr, .chUe, .host, .store, .acc, .health, .leash, .trigs, .log, .recUsed, .recDrop, .cells, .cjobs, .dsps, .recd, .attn, .sigq, .flash, .heldCode, .last, .free, .emitted]) := Foot.le_refl
  refine framed_out w (o := execUciReedMullerDecode cluster radio desc stat cells s) rfl ?_
  unfold execUciReedMullerDecode
  refine ⟨_, rfl, ?_⟩
  repeat' first
    | with_reducible first
      | exact Act.nil_in
      | exact Act.skip_in
      | apply Act.cons_in
      | apply Act.seq_in
      | (apply Act.get_in; intro _)
      | (apply Act.when_in; intro _)
      | apply Act.ite_in
      | (apply Act.each_in; intro _ _)
      | (exact Act.codeDispatch_pieces (Foot.sub hL (by decide)))
    | dsimp only
    | split

theorem Act.decodeResult_pieces {F : Foot} {j : CodeJob} {i : Nat} (hL : (Foot.whole [.regs, .mem, .errs, .lpErr, .chUe, .host, .store, .acc, .health, .leash, .trigs, .log, .recUsed, .recDrop, .cells, .recd, .attn, .flash, .emitted]).le F) : (Act.decodeResult j i).In F := by
  unfold Act.decodeResult
  repeat' first
    | with_reducible first
      | exact Act.nil_in
      | exact Act.skip_in
      | apply Act.cons_in
      | apply Act.seq_in
      | (apply Act.get_in; intro _)
      | (apply Act.when_in; intro _)
      | apply Act.ite_in
      | (apply Act.each_in; intro _ _)
      | (exact Act.cellInc_pieces (Foot.sub hL (by decide)))
      | (exact Act.setHq_pieces (Foot.sub hL (by decide)))
      | (refine Act.writeMem_pieces (Foot.sub hL (by decide)) ?_ <;> intros)
    | dsimp only
    | split

theorem Act.decodeFrees_pieces {F : Foot} {j : CodeJob} (hL : (Foot.whole [.regs, .cells]).le F) : (Act.decodeFrees j).In F := by
  unfold Act.decodeFrees
  repeat' first
    | with_reducible first
      | exact Act.nil_in
      | exact Act.skip_in
      | apply Act.cons_in
      | apply Act.seq_in
      | (apply Act.get_in; intro _)
      | (apply Act.when_in; intro _)
      | apply Act.ite_in
      | (apply Act.each_in; intro _ _)
      | (exact Act.setHq_pieces (Foot.sub hL (by decide)))
    | dsimp only
    | split

theorem Act.encodeResult_pieces {F : Foot} {j : CodeJob} {kind : Nat} {i : Nat} (hL : (Foot.whole [.regs, .mem, .errs, .lpErr, .chUe, .host, .store, .acc, .health, .leash, .trigs, .log, .recUsed, .recDrop, .recd, .attn, .flash, .emitted]).le F) : (Act.encodeResult j kind i).In F := by
  unfold Act.encodeResult
  repeat' first
    | with_reducible first
      | exact Act.nil_in
      | exact Act.skip_in
      | apply Act.cons_in
      | apply Act.seq_in
      | (apply Act.get_in; intro _)
      | (apply Act.when_in; intro _)
      | apply Act.ite_in
      | (apply Act.each_in; intro _ _)
      | (refine Act.writeMem_pieces (Foot.sub hL (by decide)) ?_ <;> intros)
    | dsimp only
    | split

theorem Act.codeFence_pieces {F : Foot} {e : Nat} (hL : (Foot.whole [.regs, .host, .leash, .trigs, .log, .recUsed, .recDrop, .recd, .attn, .last, .emitted]).le F) : (Act.codeFence e).In F := by
  unfold Act.codeFence
  repeat' first
    | with_reducible first
      | exact Act.nil_in
      | exact Act.skip_in
      | apply Act.cons_in
      | apply Act.seq_in
      | (apply Act.get_in; intro _)
      | (apply Act.when_in; intro _)
      | apply Act.ite_in
      | (apply Act.each_in; intro _ _)
      | (exact Act.attnRadio_pieces (Foot.sub hL (by decide)))
      | (exact Act.modLast_in fun k => Foot.has hL (by decide) k)
      | (exact Act.record_pieces (Foot.sub hL (by decide)))
      | (exact Act.setF_in (Foot.has hL (by decide) _))
    | dsimp only
    | split

theorem frame_codeBlockDone {s : State} (w : s.Wf) {engine : Nat} {checkFail : Bool} {ce : Nat} : Framed (.whole [.regs, .mem, .errs, .lpErr, .chUe, .host, .store, .acc, .health, .leash, .trigs, .log, .recUsed, .recDrop, .cells, .cjobs, .dsps, .recd, .attn, .sigq, .flash, .last, .free, .emitted]) (.codeBlockDone engine checkFail ce) s := by
  have hL : (Foot.whole [.regs, .mem, .errs, .lpErr, .chUe, .host, .store, .acc, .health, .leash, .trigs, .log, .recUsed, .recDrop, .cells, .cjobs, .dsps, .recd, .attn, .sigq, .flash, .last, .free, .emitted]).le (Foot.whole [.regs, .mem, .errs, .lpErr, .chUe, .host, .store, .acc, .health, .leash, .trigs, .log, .recUsed, .recDrop, .cells, .cjobs, .dsps, .recd, .attn, .sigq, .flash, .last, .free, .emitted]) := Foot.le_refl
  refine framed_out w (o := execCodeBlockDone engine checkFail ce s) rfl ?_
  unfold execCodeBlockDone
  refine ⟨_, rfl, ?_⟩
  repeat' first
    | with_reducible first
      | exact Act.nil_in
      | exact Act.skip_in
      | apply Act.cons_in
      | apply Act.seq_in
      | (apply Act.get_in; intro _)
      | (apply Act.when_in; intro _)
      | apply Act.ite_in
      | (apply Act.each_in; intro _ _)
      | (exact Act.codeFence_pieces (Foot.sub hL (by decide)))
      | (exact Act.codeRefuse_pieces (Foot.sub hL (by decide)))
      | (exact Act.decodeFrees_pieces (Foot.sub hL (by decide)))
      | (exact Act.decodeResult_pieces (Foot.sub hL (by decide)))
      | (exact Act.dropCodeJob_pieces (Foot.sub hL (by decide)))
      | (exact Act.encodeResult_pieces (Foot.sub hL (by decide)))
      | (exact Act.incF_in (Foot.has hL (by decide) _))
      | (exact Act.pmc_pieces (Foot.sub hL (by decide)))
      | (exact Act.setCjobs_in (Foot.has hL (by decide) _))
      | (exact Act.setF_in (Foot.has hL (by decide) _))
    | dsimp only
    | split

theorem frame_codingStatusRecord {s : State} (w : s.Wf) {cluster : Nat} {kind : Nat} : Framed (.whole [.regs, .mem, .errs, .lpErr, .chUe, .host, .store, .acc, .health, .leash, .trigs, .log, .recUsed, .recDrop, .cells, .cjobs, .recd, .attn, .sigq, .flash, .emitted]) (.codingStatusRecord cluster kind) s := by
  have hL : (Foot.whole [.regs, .mem, .errs, .lpErr, .chUe, .host, .store, .acc, .health, .leash, .trigs, .log, .recUsed, .recDrop, .cells, .cjobs, .recd, .attn, .sigq, .flash, .emitted]).le (Foot.whole [.regs, .mem, .errs, .lpErr, .chUe, .host, .store, .acc, .health, .leash, .trigs, .log, .recUsed, .recDrop, .cells, .cjobs, .recd, .attn, .sigq, .flash, .emitted]) := Foot.le_refl
  refine framed_out w (o := execCodingStatusRecord cluster kind s) rfl ?_
  unfold execCodingStatusRecord
  refine ⟨_, rfl, ?_⟩
  repeat' first
    | with_reducible first
      | exact Act.nil_in
      | exact Act.skip_in
      | apply Act.cons_in
      | apply Act.seq_in
      | (apply Act.get_in; intro _)
      | (apply Act.when_in; intro _)
      | apply Act.ite_in
      | (apply Act.each_in; intro _ _)
      | (exact Act.dropCodeJob_pieces (Foot.sub hL (by decide)))
      | (exact Act.signal_pieces (Foot.sub hL (by decide)))
      | (refine Act.writeMem_pieces (Foot.sub hL (by decide)) ?_ <;> intros)
    | dsimp only
    | split

theorem frame_codingJobOverrun {s : State} (w : s.Wf) {cluster : Nat} {kind : Nat} : Framed (.whole [.regs, .host, .leash, .trigs, .log, .recUsed, .recDrop, .cells, .cjobs, .dsps, .recd, .attn, .sigq, .heldCode, .free, .emitted]) (.codingJobOverrun cluster kind) s := by
  have hL : (Foot.whole [.regs, .host, .leash, .trigs, .log, .recUsed, .recDrop, .cells, .cjobs, .dsps, .recd, .attn, .sigq, .heldCode, .free, .emitted]).le (Foot.whole [.regs, .host, .leash, .trigs, .log, .recUsed, .recDrop, .cells, .cjobs, .dsps, .recd, .attn, .sigq, .heldCode, .free, .emitted]) := Foot.le_refl
  refine framed_out w (o := execCodingJobOverrun cluster kind s) rfl ?_
  unfold execCodingJobOverrun
  refine ⟨_, rfl, ?_⟩
  repeat' first
    | with_reducible first
      | exact Act.nil_in
      | exact Act.skip_in
      | apply Act.cons_in
      | apply Act.seq_in
      | (apply Act.get_in; intro _)
      | (apply Act.when_in; intro _)
      | apply Act.ite_in
      | (apply Act.each_in; intro _ _)
      | (exact Act.codeRefuse_pieces (Foot.sub hL (by decide)))
      | (exact Act.dropCodeJob_pieces (Foot.sub hL (by decide)))
      | (exact Act.modHeldCode_in fun k => Foot.has hL (by decide) k)
    | dsimp only
    | split

theorem frame_engineSelftest {s : State} (w : s.Wf) {engine : Nat} {pass : Bool} : Framed (.whole [.regs, .flash]) (.engineSelftest engine pass) s := by
  have hL : (Foot.whole [.regs, .flash]).le (Foot.whole [.regs, .flash]) := Foot.le_refl
  refine framed_out w (o := execEngineSelftest engine pass s) rfl ?_
  unfold execEngineSelftest
  refine ⟨_, rfl, ?_⟩
  repeat' first
    | with_reducible first
      | exact Act.nil_in
      | exact Act.skip_in
      | apply Act.cons_in
      | apply Act.seq_in
      | (apply Act.get_in; intro _)
      | (apply Act.when_in; intro _)
      | apply Act.ite_in
      | (apply Act.each_in; intro _ _)
      | (exact Act.retireBit_pieces (Foot.sub hL (by decide)))
      | (exact Act.setF_in (Foot.has hL (by decide) _))
    | dsimp only
    | split

theorem frame_harqTtlExpiry {s : State} (w : s.Wf) {cell : Nat} {rnti : Nat} {harqId : Nat} : Framed (.whole [.regs, .cells]) (.harqTtlExpiry cell rnti harqId) s := by
  have hL : (Foot.whole [.regs, .cells]).le (Foot.whole [.regs, .cells]) := Foot.le_refl
  refine framed_out w (o := execHarqTtlExpiry cell rnti harqId s) rfl ?_
  unfold execHarqTtlExpiry
  refine ⟨_, rfl, ?_⟩
  repeat' first
    | with_reducible first
      | exact Act.nil_in
      | exact Act.skip_in
      | apply Act.cons_in
      | apply Act.seq_in
      | (apply Act.get_in; intro _)
      | (apply Act.when_in; intro _)
      | apply Act.ite_in
      | (apply Act.each_in; intro _ _)
      | (exact Act.setHq_pieces (Foot.sub hL (by decide)))
    | dsimp only
    | split

end Sys2Proof.Machine
end

