-- ==== Sys2Proof/Laws/PiecesMemory.lean ====
section
/-! SUPPORT. The pieces of state that the operations of Machine/Memory.lean can write, and the frames of its commands. -/

set_option linter.unusedSimpArgs false

namespace Sys2Proof.Machine

theorem Act.memError_pieces {F : Foot} {req : Requester} (hL : (Foot.whole [.regs, .mem, .errs, .lpErr, .chUe, .host, .store, .acc, .anchors, .pend, .ctxs, .arrs, .parts, .health, .leash, .trigs, .log, .recUsed, .recDrop, .engs, .conns, .bars, .hounds, .cells, .cjobs, .dsps, .dumps, .recd, .attn, .sigq, .convq, .flash, .held, .pairs, .radio, .free, .emitted]).le F) : (Act.memError req).In F := by
  unfold Act.memError
  repeat' first
    | with_reducible first
      | exact Act.nil_in
      | exact Act.skip_in
      | apply Act.cons_in
      | apply Act.seq_in
      | (apply Act.get_in; intro _)
      | (apply Act.when_in; intro _)
      | apply Act.ite_in
      | (apply Act.each_in; intro _ _)
      | (exact Act.cellResets_pieces (Foot.sub hL (by decide)))
      | (exact Act.codeRefuse_pieces (Foot.sub hL (by decide)))
      | (exact Act.coreFault_pieces (Foot.sub hL (by decide)))
      | (exact Act.dmaFault_pieces (Foot.sub hL (by decide)))
      | (exact Act.dropCodeJob_pieces (Foot.sub hL (by decide)))
      | (exact Act.dspFaultNow_pieces (Foot.sub hL (by decide)))
      | (exact Act.emit_in fun k => Foot.has hL (by decide) k)
      | (exact Act.sliceFault_pieces (Foot.sub hL (by decide)))
    | dsimp only
    | split

theorem Act.upsets_pieces {F : Foot} {l : List (Nat × Upset)} (hL : (Foot.whole [.errs, .lpErr]).le F) : (Act.upsets l).In F := by
  unfold Act.upsets
  repeat' first
    | with_reducible first
      | exact Act.nil_in
      | exact Act.skip_in
      | apply Act.cons_in
      | apply Act.seq_in
      | (apply Act.get_in; intro _)
      | (apply Act.when_in; intro _)
      | apply Act.ite_in
      | (apply Act.each_in; intro _ _)
      | (exact Act.upset_pieces (Foot.sub hL (by decide)))
    | dsimp only
    | split

theorem Act.countFixed_pieces {F : Foot} {a : Nat} (hL : (Foot.whole [.regs, .health]).le F) : (Act.countFixed a).In F := by
  unfold Act.countFixed
  repeat' first
    | with_reducible first
      | exact Act.nil_in
      | exact Act.skip_in
      | apply Act.cons_in
      | apply Act.seq_in
      | (apply Act.get_in; intro _)
      | (apply Act.when_in; intro _)
      | apply Act.ite_in
      | (apply Act.each_in; intro _ _)
      | (exact Act.healthEv_pieces (Foot.sub hL (by decide)))
      | (exact Act.incF_in (Foot.has hL (by decide) _))
    | dsimp only
    | split

theorem Act.patrolProgress_pieces {F : Foot} {a : Nat} (hL : (Foot.whole [.regs]).le F) : (Act.patrolProgress a).In F := by
  unfold Act.patrolProgress
  repeat' first
    | with_reducible first
      | exact Act.nil_in
      | exact Act.skip_in
      | apply Act.cons_in
      | apply Act.seq_in
      | (apply Act.get_in; intro _)
      | (apply Act.when_in; intro _)
      | apply Act.ite_in
      | (apply Act.each_in; intro _ _)
      | (exact Act.modF_in (Foot.has hL (by decide) _))
      | (exact Act.setF_in (Foot.has hL (by decide) _))
    | dsimp only
    | split

theorem frame_patrolRead {s : State} (w : s.Wf) {dpa : Nat} {upset : List Upset} {raced : Bool} : Framed (.whole [.regs, .mem, .errs, .lpErr, .chUe, .host, .store, .acc, .health, .leash, .trigs, .log, .recUsed, .recDrop, .recd, .attn, .flash, .emitted]) (.patrolRead dpa upset raced) s := by
  have hL : (Foot.whole [.regs, .mem, .errs, .lpErr, .chUe, .host, .store, .acc, .health, .leash, .trigs, .log, .recUsed, .recDrop, .recd, .attn, .flash, .emitted]).le (Foot.whole [.regs, .mem, .errs, .lpErr, .chUe, .host, .store, .acc, .health, .leash, .trigs, .log, .recUsed, .recDrop, .recd, .attn, .flash, .emitted]) := Foot.le_refl
  refine framed_out w (o := execPatrolRead dpa upset raced s) rfl ?_
  unfold execPatrolRead
  refine ⟨_, rfl, ?_⟩
  repeat' first
    | with_reducible first
      | exact Act.nil_in
      | exact Act.skip_in
      | apply Act.cons_in
      | apply Act.seq_in
      | (apply Act.get_in; intro _)
      | (apply Act.when_in; intro _)
      | apply Act.ite_in
      | (apply Act.each_in; intro _ _)
      | (exact Act.countFixed_pieces (Foot.sub hL (by decide)))
      | (exact Act.lineCount_pieces (Foot.sub hL (by decide)))
      | (exact Act.lineFix_pieces (Foot.sub hL (by decide)))
      | (exact Act.patrolProgress_pieces (Foot.sub hL (by decide)))
      | (exact Act.ueEvent_pieces (Foot.sub hL (by decide)))
      | (exact Act.upset_pieces (Foot.sub hL (by decide)))
    | dsimp only
    | split

theorem frame_atomicOp {s : State} (w : s.Wf) {req : Requester} {addr : Nat} {op : AtomicKind} : Framed (.whole [.regs, .mem, .errs, .lpErr, .chUe, .host, .store, .acc, .anchors, .pend, .ctxs, .arrs, .parts, .health, .leash, .trigs, .log, .recUsed, .recDrop, .engs, .conns, .bars, .hounds, .cells, .cjobs, .dsps, .dumps, .recd, .attn, .sigq, .convq, .flash, .held, .pairs, .radio, .free, .emitted]) (.atomicOp req addr op) s := by
  have hL : (Foot.whole [.regs, .mem, .errs, .lpErr, .chUe, .host, .store, .acc, .anchors, .pend, .ctxs, .arrs, .parts, .health, .leash, .trigs, .log, .recUsed, .recDrop, .engs, .conns, .bars, .hounds, .cells, .cjobs, .dsps, .dumps, .recd, .attn, .sigq, .convq, .flash, .held, .pairs, .radio, .free, .emitted]).le (Foot.whole [.regs, .mem, .errs, .lpErr, .chUe, .host, .store, .acc, .anchors, .pend, .ctxs, .arrs, .parts, .health, .leash, .trigs, .log, .recUsed, .recDrop, .engs, .conns, .bars, .hounds, .cells, .cjobs, .dsps, .dumps, .recd, .attn, .sigq, .convq, .flash, .held, .pairs, .radio, .free, .emitted]) := Foot.le_refl
  refine framed_out w (o := execAtomicOp req addr op s) rfl ?_
  unfold execAtomicOp
  refine ⟨_, rfl, ?_⟩
  repeat' first
    | with_reducible first
      | exact Act.nil_in
      | exact Act.skip_in
      | apply Act.cons_in
      | apply Act.seq_in
      | (apply Act.get_in; intro _)
      | (apply Act.when_in; intro _)
      | apply Act.ite_in
      | (apply Act.each_in; intro _ _)
      | (refine Act.atomicAt_pieces (Foot.sub hL (by decide)) ?_ <;> intros)
      | (exact Act.emit_in fun k => Foot.has hL (by decide) k)
      | (exact Act.memError_pieces (Foot.sub hL (by decide)))
      | (exact Act.violation_pieces (Foot.sub hL (by decide)))
    | dsimp only
    | split

theorem Act.ueClear_pieces {F : Foot} {die : Nat} (hL : (Foot.whole [.regs]).le F) : (Act.ueClear die).In F := by
  unfold Act.ueClear
  repeat' first
    | with_reducible first
      | exact Act.nil_in
      | exact Act.skip_in
      | apply Act.cons_in
      | apply Act.seq_in
      | (apply Act.get_in; intro _)
      | (apply Act.when_in; intro _)
      | apply Act.ite_in
      | (apply Act.each_in; intro _ _)
      | (exact Act.setF_in (Foot.has hL (by decide) _))
    | dsimp only
    | split

theorem frame_ueLogClear {s : State} (w : s.Wf) {die : Nat} {val : Word} : Framed (.whole [.regs]) (.ueLogClear die val) s := by
  have hL : (Foot.whole [.regs]).le (Foot.whole [.regs]) := Foot.le_refl
  refine framed_out w (o := execUeLogClear die val s) rfl ?_
  unfold execUeLogClear
  refine ⟨_, rfl, ?_⟩
  repeat' first
    | with_reducible first
      | exact Act.nil_in
      | exact Act.skip_in
      | apply Act.cons_in
      | apply Act.seq_in
      | (apply Act.get_in; intro _)
      | (apply Act.when_in; intro _)
      | apply Act.ite_in
      | (apply Act.each_in; intro _ _)
      | (exact Act.ueClear_pieces (Foot.sub hL (by decide)))
    | dsimp only
    | split

end Sys2Proof.Machine
end

