-- ==== Sys2Proof/Laws/PiecesHostLink.lean ====
section
/-! SUPPORT. The pieces of state that the operations of Machine/HostLink.lean can write, and the frames of its commands. -/

set_option linter.unusedSimpArgs false

namespace Sys2Proof.Machine

theorem frame_attentionSet {s : State} (w : s.Wf) {b : Nat} : Framed (.whole [.regs, .host, .attn, .emitted]) (.attentionSet b) s := by
  have hL : (Foot.whole [.regs, .host, .attn, .emitted]).le (Foot.whole [.regs, .host, .attn, .emitted]) := Foot.le_refl
  refine framed_out w (o := execAttentionSet b s) rfl ?_
  unfold execAttentionSet
  refine ⟨_, rfl, ?_⟩
  repeat' first
    | with_reducible first
      | exact Act.nil_in
      | exact Act.skip_in
      | apply Act.cons_in
      | apply Act.seq_in
      | (apply Act.get_in; intro _)
      | (apply Act.when_in; intro _)
      | apply Act.ite_in
      | (apply Act.each_in; intro _ _)
      | (exact Act.attnSet_pieces (Foot.sub hL (by decide)))
    | dsimp only
    | split

theorem frame_attentionFlushDone {s : State} (w : s.Wf) {_ok : Bool} : Framed (.whole [.regs, .host, .attn, .emitted]) (.attentionFlushDone _ok) s := by
  have hL : (Foot.whole [.regs, .host, .attn, .emitted]).le (Foot.whole [.regs, .host, .attn, .emitted]) := Foot.le_refl
  refine framed_out w (o := execAttentionFlushDone _ok s) rfl ?_
  unfold execAttentionFlushDone
  refine ⟨_, rfl, ?_⟩
  repeat' first
    | with_reducible first
      | exact Act.nil_in
      | exact Act.skip_in
      | apply Act.cons_in
      | apply Act.seq_in
      | (apply Act.get_in; intro _)
      | (apply Act.when_in; intro _)
      | apply Act.ite_in
      | (apply Act.each_in; intro _ _)
      | (exact Act.modAttn_in fun k => Foot.has hL (by decide) k)
      | (exact Act.rbWant_pieces (Foot.sub hL (by decide)))
      | (exact Act.vectorWrite_pieces (Foot.sub hL (by decide)))
    | dsimp only
    | split

theorem Act.attnAck_pieces {F : Foot} {word : Nat} {val : Word} (hL : (Foot.whole [.regs, .host, .attn, .emitted]).le F) : (Act.attnAck word val).In F := by
  unfold Act.attnAck
  repeat' first
    | with_reducible first
      | exact Act.nil_in
      | exact Act.skip_in
      | apply Act.cons_in
      | apply Act.seq_in
      | (apply Act.get_in; intro _)
      | (apply Act.when_in; intro _)
      | apply Act.ite_in
      | (apply Act.each_in; intro _ _)
      | (exact Act.attnChanged_pieces (Foot.sub hL (by decide)))
      | (exact Act.clrF_in (Foot.has hL (by decide) _))
      | (exact Act.setRegs_in (Foot.has hL (by decide) _))
    | dsimp only
    | split

theorem frame_attentionAck {s : State} (w : s.Wf) {word : Nat} {val : Word} {tied : Word} : Framed (.whole [.regs, .host, .attn, .emitted]) (.attentionAck word val tied) s := by
  have hL : (Foot.whole [.regs, .host, .attn, .emitted]).le (Foot.whole [.regs, .host, .attn, .emitted]) := Foot.le_refl
  refine framed_out w (o := execAttentionAck word val tied s) rfl ?_
  unfold execAttentionAck
  refine ⟨_, rfl, ?_⟩
  repeat' first
    | with_reducible first
      | exact Act.nil_in
      | exact Act.skip_in
      | apply Act.cons_in
      | apply Act.seq_in
      | (apply Act.get_in; intro _)
      | (apply Act.when_in; intro _)
      | apply Act.ite_in
      | (apply Act.each_in; intro _ _)
      | (exact Act.attnAck_pieces (Foot.sub hL (by decide)))
    | dsimp only
    | split

theorem Act.attnCfgWrite_pieces {F : Foot} {val : Word} (hL : (Foot.whole [.regs, .host, .attn]).le F) : (Act.attnCfgWrite val).In F := by
  unfold Act.attnCfgWrite
  repeat' first
    | with_reducible first
      | exact Act.nil_in
      | exact Act.skip_in
      | apply Act.cons_in
      | apply Act.seq_in
      | (apply Act.get_in; intro _)
      | (apply Act.when_in; intro _)
      | apply Act.ite_in
      | (apply Act.each_in; intro _ _)
      | (exact Act.modAttn_in fun k => Foot.has hL (by decide) k)
      | (exact Act.setRegs_in (Foot.has hL (by decide) _))
      | (exact Act.vectorWrite_pieces (Foot.sub hL (by decide)))
    | dsimp only
    | split

theorem frame_attnCfgWrite {s : State} (w : s.Wf) {val : Word} : Framed (.whole [.regs, .host, .attn]) (.attnCfgWrite val) s := by
  have hL : (Foot.whole [.regs, .host, .attn]).le (Foot.whole [.regs, .host, .attn]) := Foot.le_refl
  refine framed_out w (o := execAttnCfgWrite val s) rfl ?_
  unfold execAttnCfgWrite
  refine ⟨_, rfl, ?_⟩
  repeat' first
    | with_reducible first
      | exact Act.nil_in
      | exact Act.skip_in
      | apply Act.cons_in
      | apply Act.seq_in
      | (apply Act.get_in; intro _)
      | (apply Act.when_in; intro _)
      | apply Act.ite_in
      | (apply Act.each_in; intro _ _)
      | (exact Act.attnCfgWrite_pieces (Foot.sub hL (by decide)))
    | dsimp only
    | split

theorem frame_rbNHoldEnd {s : State} (w : s.Wf) : Framed (.whole [.attn, .emitted]) (.rbNHoldEnd) s := by
  have hL : (Foot.whole [.attn, .emitted]).le (Foot.whole [.attn, .emitted]) := Foot.le_refl
  refine framed_out w (o := execRbNHoldEnd s) rfl ?_
  unfold execRbNHoldEnd
  refine ⟨_, rfl, ?_⟩
  repeat' first
    | with_reducible first
      | exact Act.nil_in
      | exact Act.skip_in
      | apply Act.cons_in
      | apply Act.seq_in
      | (apply Act.get_in; intro _)
      | (apply Act.when_in; intro _)
      | apply Act.ite_in
      | (apply Act.each_in; intro _ _)
      | (exact Act.modAttn_in fun k => Foot.has hL (by decide) k)
      | (exact Act.rbWant_pieces (Foot.sub hL (by decide)))
    | dsimp only
    | split

theorem frame_bar2Access {s : State} (w : s.Wf) {off : Nat} {write : Bool} {len : Nat} {data : List Byte} {upset : List (Nat × Upset)} : Framed (.whole [.regs, .mem, .errs, .lpErr, .chUe, .host, .store, .acc, .anchors, .pend, .ctxs, .arrs, .parts, .health, .leash, .trigs, .log, .recUsed, .recDrop, .engs, .conns, .bars, .hounds, .cells, .cjobs, .dsps, .dumps, .recd, .attn, .sigq, .convq, .flash, .held, .pairs, .radio, .free, .emitted]) (.bar2Access off write len data upset) s := by
  have hL : (Foot.whole [.regs, .mem, .errs, .lpErr, .chUe, .host, .store, .acc, .anchors, .pend, .ctxs, .arrs, .parts, .health, .leash, .trigs, .log, .recUsed, .recDrop, .engs, .conns, .bars, .hounds, .cells, .cjobs, .dsps, .dumps, .recd, .attn, .sigq, .convq, .flash, .held, .pairs, .radio, .free, .emitted]).le (Foot.whole [.regs, .mem, .errs, .lpErr, .chUe, .host, .store, .acc, .anchors, .pend, .ctxs, .arrs, .parts, .health, .leash, .trigs, .log, .recUsed, .recDrop, .engs, .conns, .bars, .hounds, .cells, .cjobs, .dsps, .dumps, .recd, .attn, .sigq, .convq, .flash, .held, .pairs, .radio, .free, .emitted]) := Foot.le_refl
  refine framed_out w (o := execBar2Access off write len data upset s) rfl ?_
  unfold execBar2Access
  refine ⟨_, rfl, ?_⟩
  repeat' first
    | with_reducible first
      | exact Act.nil_in
      | exact Act.skip_in
      | apply Act.cons_in
      | apply Act.seq_in
      | (apply Act.get_in; intro _)
      | (apply Act.when_in; intro _)
      | apply Act.ite_in
      | (apply Act.each_in; intro _ _)
      | (exact Act.emit_in fun k => Foot.has hL (by decide) k)
      | (exact Act.memError_pieces (Foot.sub hL (by decide)))
      | (exact Act.pmc_pieces (Foot.sub hL (by decide)))
      | (refine Act.readMem_pieces (Foot.sub hL (by decide)) ?_ <;> intros)
      | (exact Act.upsets_pieces (Foot.sub hL (by decide)))
      | (exact Act.violation_pieces (Foot.sub hL (by decide)))
      | (refine Act.writeMem_pieces (Foot.sub hL (by decide)) ?_ <;> intros)
    | dsimp only
    | split

theorem Act.dmaEnds_pieces {F : Foot} {part : Nat} {cells : List Nat} (hL : (Foot.whole [.regs, .mem, .errs, .lpErr, .chUe, .host, .store, .acc, .anchors, .pend, .ctxs, .arrs, .parts, .health, .leash, .trigs, .log, .recUsed, .recDrop, .engs, .conns, .bars, .hounds, .cells, .cjobs, .dsps, .dumps, .recd, .attn, .sigq, .convq, .flash, .pairs, .free, .emitted]).le F) : (Act.dmaEnds part cells).In F := by
  unfold Act.dmaEnds
  repeat' first
    | with_reducible first
      | exact Act.nil_in
      | exact Act.skip_in
      | apply Act.cons_in
      | apply Act.seq_in
      | (apply Act.get_in; intro _)
      | (apply Act.when_in; intro _)
      | apply Act.ite_in
      | (apply Act.each_in; intro _ _)
      | (exact Act.cellResets_pieces (Foot.sub hL (by decide)))
      | (exact Act.dmaFault_pieces (Foot.sub hL (by decide)))
      | (exact Act.incF_in (Foot.has hL (by decide) _))
    | dsimp only
    | split

theorem frame_dmaCompletionError {s : State} (w : s.Wf) {part : Nat} {cells : List Nat} : Framed (.whole [.regs, .mem, .errs, .lpErr, .chUe, .host, .store, .acc, .anchors, .pend, .ctxs, .arrs, .parts, .health, .leash, .trigs, .log, .recUsed, .recDrop, .engs, .conns, .bars, .hounds, .cells, .cjobs, .dsps, .dumps, .recd, .attn, .sigq, .convq, .flash, .pairs, .free, .emitted]) (.dmaCompletionError part cells) s := by
  have hL : (Foot.whole [.regs, .mem, .errs, .lpErr, .chUe, .host, .store, .acc, .anchors, .pend, .ctxs, .arrs, .parts, .health, .leash, .trigs, .log, .recUsed, .recDrop, .engs, .conns, .bars, .hounds, .cells, .cjobs, .dsps, .dumps, .recd, .attn, .sigq, .convq, .flash, .pairs, .free, .emitted]).le (Foot.whole [.regs, .mem, .errs, .lpErr, .chUe, .host, .store, .acc, .anchors, .pend, .ctxs, .arrs, .parts, .health, .leash, .trigs, .log, .recUsed, .recDrop, .engs, .conns, .bars, .hounds, .cells, .cjobs, .dsps, .dumps, .recd, .attn, .sigq, .convq, .flash, .pairs, .free, .emitted]) := Foot.le_refl
  refine framed_out w (o := execDmaCompletionError part cells s) rfl ?_
  unfold execDmaCompletionError
  refine ⟨_, rfl, ?_⟩
  repeat' first
    | with_reducible first
      | exact Act.nil_in
      | exact Act.skip_in
      | apply Act.cons_in
      | apply Act.seq_in
      | (apply Act.get_in; intro _)
      | (apply Act.when_in; intro _)
      | apply Act.ite_in
      | (apply Act.each_in; intro _ _)
      | (exact Act.dmaEnds_pieces (Foot.sub hL (by decide)))
    | dsimp only
    | split

theorem frame_completionTimeout {s : State} (w : s.Wf) {part : Nat} {cells : List Nat} : Framed (.whole [.regs, .mem, .errs, .lpErr, .chUe, .host, .store, .acc, .anchors, .pend, .ctxs, .arrs, .parts, .health, .leash, .trigs, .log, .recUsed, .recDrop, .engs, .conns, .bars, .hounds, .cells, .cjobs, .dsps, .dumps, .recd, .attn, .sigq, .convq, .flash, .pairs, .free, .emitted]) (.completionTimeout part cells) s := by
  have hL : (Foot.whole [.regs, .mem, .errs, .lpErr, .chUe, .host, .store, .acc, .anchors, .pend, .ctxs, .arrs, .parts, .health, .leash, .trigs, .log, .recUsed, .recDrop, .engs, .conns, .bars, .hounds, .cells, .cjobs, .dsps, .dumps, .recd, .attn, .sigq, .convq, .flash, .pairs, .free, .emitted]).le (Foot.whole [.regs, .mem, .errs, .lpErr, .chUe, .host, .store, .acc, .anchors, .pend, .ctxs, .arrs, .parts, .health, .leash, .trigs, .log, .recUsed, .recDrop, .engs, .conns, .bars, .hounds, .cells, .cjobs, .dsps, .dumps, .recd, .attn, .sigq, .convq, .flash, .pairs, .free, .emitted]) := Foot.le_refl
  refine framed_out w (o := execCompletionTimeout part cells s) rfl ?_
  unfold execCompletionTimeout
  refine ⟨_, rfl, ?_⟩
  repeat' first
    | with_reducible first
      | exact Act.nil_in
      | exact Act.skip_in
      | apply Act.cons_in
      | apply Act.seq_in
      | (apply Act.get_in; intro _)
      | (apply Act.when_in; intro _)
      | apply Act.ite_in
      | (apply Act.each_in; intro _ _)
      | (exact Act.dmaEnds_pieces (Foot.sub hL (by decide)))
    | dsimp only
    | split

theorem frame_linkDown {s : State} (w : s.Wf) : Framed (.whole [.regs, .health, .linkOn]) (.linkDown) s := by
  have hL : (Foot.whole [.regs, .health, .linkOn]).le (Foot.whole [.regs, .health, .linkOn]) := Foot.le_refl
  refine framed_out w (o := execLinkDown s) rfl ?_
  unfold execLinkDown
  refine ⟨_, rfl, ?_⟩
  repeat' first
    | with_reducible first
      | exact Act.nil_in
      | exact Act.skip_in
      | apply Act.cons_in
      | apply Act.seq_in
      | (apply Act.get_in; intro _)
      | (apply Act.when_in; intro _)
      | apply Act.ite_in
      | (apply Act.each_in; intro _ _)
      | (exact Act.healthEv_pieces (Foot.sub hL (by decide)))
      | (exact Act.incF_in (Foot.has hL (by decide) _))
      | (exact Act.modLinkOn_in fun k => Foot.has hL (by decide) k)
      | (exact Act.setF_in (Foot.has hL (by decide) _))
    | dsimp only
    | split

theorem frame_linkUp {s : State} (w : s.Wf) {rate : Nat} {width : Nat} {flit : Bool} : Framed (.whole [.regs, .host, .attn, .linkOn]) (.linkUp rate width flit) s := by
  have hL : (Foot.whole [.regs, .host, .attn, .linkOn]).le (Foot.whole [.regs, .host, .attn, .linkOn]) := Foot.le_refl
  refine framed_out w (o := execLinkUp rate width flit s) rfl ?_
  unfold execLinkUp
  refine ⟨_, rfl, ?_⟩
  repeat' first
    | with_reducible first
      | exact Act.nil_in
      | exact Act.skip_in
      | apply Act.cons_in
      | apply Act.seq_in
      | (apply Act.get_in; intro _)
      | (apply Act.when_in; intro _)
      | apply Act.ite_in
      | (apply Act.each_in; intro _ _)
      | (exact Act.modAttn_in fun k => Foot.has hL (by decide) k)
      | (exact Act.modLinkOn_in fun k => Foot.has hL (by decide) k)
      | (exact Act.setF_in (Foot.has hL (by decide) _))
      | (exact Act.vectorWrite_pieces (Foot.sub hL (by decide)))
    | dsimp only
    | split

theorem frame_pcieCorrectableError {s : State} (w : s.Wf) : Framed (.whole [.regs, .health]) (.pcieCorrectableError) s := by
  have hL : (Foot.whole [.regs, .health]).le (Foot.whole [.regs, .health]) := Foot.le_refl
  refine framed_out w (o := execPcieCorrectableError s) rfl ?_
  unfold execPcieCorrectableError
  refine ⟨_, rfl, ?_⟩
  repeat' first
    | with_reducible first
      | exact Act.nil_in
      | exact Act.skip_in
      | apply Act.cons_in
      | apply Act.seq_in
      | (apply Act.get_in; intro _)
      | (apply Act.when_in; intro _)
      | apply Act.ite_in
      | (apply Act.each_in; intro _ _)
      | (exact Act.healthEv_pieces (Foot.sub hL (by decide)))
      | (exact Act.incF_in (Foot.has hL (by decide) _))
    | dsimp only
    | split

theorem Act.portDown_pieces {F : Foot} {p : Nat} (hL : (Foot.whole [.sys]).le F) : (Act.portDown p).In F := by
  unfold Act.portDown
  repeat' first
    | with_reducible first
      | exact Act.nil_in
      | exact Act.skip_in
      | apply Act.cons_in
      | apply Act.seq_in
      | (apply Act.get_in; intro _)
      | (apply Act.when_in; intro _)
      | apply Act.ite_in
      | (apply Act.each_in; intro _ _)
      | (exact Act.modSys_in fun k => Foot.has hL (by decide) k)
    | dsimp only
    | split

theorem Act.laneLoss_pieces {F : Foot} {lane : Nat} (hL : (Foot.whole [.regs, .host, .health, .leash, .trigs, .log, .recUsed, .recDrop, .recd, .attn, .sys, .free, .emitted]).le F) : (Act.laneLoss lane).In F := by
  unfold Act.laneLoss
  repeat' first
    | with_reducible first
      | exact Act.nil_in
      | exact Act.skip_in
      | apply Act.cons_in
      | apply Act.seq_in
      | (apply Act.get_in; intro _)
      | (apply Act.when_in; intro _)
      | apply Act.ite_in
      | (apply Act.each_in; intro _ _)
      | (exact Act.healthEv_pieces (Foot.sub hL (by decide)))
      | (exact Act.portDown_pieces (Foot.sub hL (by decide)))
      | (exact Act.record_pieces (Foot.sub hL (by decide)))
      | (refine Act.withFree_in ?_ (fun k => Foot.has hL (by decide) k); intro _)
    | dsimp only
    | split

theorem frame_laneLossOfSignal {s : State} (w : s.Wf) {lane : Nat} : Framed (.whole [.regs, .host, .health, .leash, .trigs, .log, .recUsed, .recDrop, .recd, .attn, .sys, .free, .emitted]) (.laneLossOfSignal lane) s := by
  have hL : (Foot.whole [.regs, .host, .health, .leash, .trigs, .log, .recUsed, .recDrop, .recd, .attn, .sys, .free, .emitted]).le (Foot.whole [.regs, .host, .health, .leash, .trigs, .log, .recUsed, .recDrop, .recd, .attn, .sys, .free, .emitted]) := Foot.le_refl
  refine framed_out w (o := execLaneLossOfSignal lane s) rfl ?_
  unfold execLaneLossOfSignal
  refine ⟨_, rfl, ?_⟩
  repeat' first
    | with_reducible first
      | exact Act.nil_in
      | exact Act.skip_in
      | apply Act.cons_in
      | apply Act.seq_in
      | (apply Act.get_in; intro _)
      | (apply Act.when_in; intro _)
      | apply Act.ite_in
      | (apply Act.each_in; intro _ _)
      | (exact Act.laneLoss_pieces (Foot.sub hL (by decide)))
    | dsimp only
    | split

theorem frame_fabricPortDown {s : State} (w : s.Wf) {port : Nat} : Framed (.whole [.regs, .host, .health, .leash, .trigs, .log, .recUsed, .recDrop, .recd, .attn, .sys, .free, .emitted]) (.fabricPortDown port) s := by
  have hL : (Foot.whole [.regs, .host, .health, .leash, .trigs, .log, .recUsed, .recDrop, .recd, .attn, .sys, .free, .emitted]).le (Foot.whole [.regs, .host, .health, .leash, .trigs, .log, .recUsed, .recDrop, .recd, .attn, .sys, .free, .emitted]) := Foot.le_refl
  refine framed_out w (o := execFabricPortDown port s) rfl ?_
  unfold execFabricPortDown
  refine ⟨_, rfl, ?_⟩
  repeat' first
    | with_reducible first
      | exact Act.nil_in
      | exact Act.skip_in
      | apply Act.cons_in
      | apply Act.seq_in
      | (apply Act.get_in; intro _)
      | (apply Act.when_in; intro _)
      | apply Act.ite_in
      | (apply Act.each_in; intro _ _)
      | (exact Act.laneLoss_pieces (Foot.sub hL (by decide)))
    | dsimp only
    | split

theorem frame_portLinkUp {s : State} (w : s.Wf) {port : Nat} : Framed (.whole [.sys]) (.portLinkUp port) s := by
  have hL : (Foot.whole [.sys]).le (Foot.whole [.sys]) := Foot.le_refl
  refine framed_out w (o := execPortLinkUp port s) rfl ?_
  unfold execPortLinkUp
  refine ⟨_, rfl, ?_⟩
  repeat' first
    | with_reducible first
      | exact Act.nil_in
      | exact Act.skip_in
      | apply Act.cons_in
      | apply Act.seq_in
      | (apply Act.get_in; intro _)
      | (apply Act.when_in; intro _)
      | apply Act.ite_in
      | (apply Act.each_in; intro _ _)
      | (exact Act.modSys_in fun k => Foot.has hL (by decide) k)
    | dsimp only
    | split

theorem frame_fecUncorrectableCodeword {s : State} (w : s.Wf) {lane : Nat} : Framed (.whole [.regs, .host, .health, .leash, .trigs, .log, .recUsed, .recDrop, .recd, .attn, .free, .emitted]) (.fecUncorrectableCodeword lane) s := by
  have hL : (Foot.whole [.regs, .host, .health, .leash, .trigs, .log, .recUsed, .recDrop, .recd, .attn, .free, .emitted]).le (Foot.whole [.regs, .host, .health, .leash, .trigs, .log, .recUsed, .recDrop, .recd, .attn, .free, .emitted]) := Foot.le_refl
  refine framed_out w (o := execFecUncorrectableCodeword lane s) rfl ?_
  unfold execFecUncorrectableCodeword
  refine ⟨_, rfl, ?_⟩
  repeat' first
    | with_reducible first
      | exact Act.nil_in
      | exact Act.skip_in
      | apply Act.cons_in
      | apply Act.seq_in
      | (apply Act.get_in; intro _)
      | (apply Act.when_in; intro _)
      | apply Act.ite_in
      | (apply Act.each_in; intro _ _)
      | (exact Act.healthEv_pieces (Foot.sub hL (by decide)))
      | (exact Act.record_pieces (Foot.sub hL (by decide)))
      | (refine Act.withFree_in ?_ (fun k => Foot.has hL (by decide) k); intro _)
    | dsimp only
    | split

theorem frame_badFcsFrame {s : State} (w : s.Wf) {port : Nat} : Framed (.whole [.regs]) (.badFcsFrame port) s := by
  have hL : (Foot.whole [.regs]).le (Foot.whole [.regs]) := Foot.le_refl
  refine framed_out w (o := execBadFcsFrame port s) rfl ?_
  unfold execBadFcsFrame
  refine ⟨_, rfl, ?_⟩
  repeat' first
    | with_reducible first
      | exact Act.nil_in
      | exact Act.skip_in
      | apply Act.cons_in
      | apply Act.seq_in
      | (apply Act.get_in; intro _)
      | (apply Act.when_in; intro _)
      | apply Act.ite_in
      | (apply Act.each_in; intro _ _)
      | (exact Act.incF_in (Foot.has hL (by decide) _))
    | dsimp only
    | split

theorem frame_channelRetraining {s : State} (w : s.Wf) {ch : Nat} {retries : Nat} {ok : Bool} : Framed (.whole [.regs, .host, .health, .leash, .trigs, .log, .recUsed, .recDrop, .recd, .attn, .flash, .emitted]) (.channelRetraining ch retries ok) s := by
  have hL : (Foot.whole [.regs, .host, .health, .leash, .trigs, .log, .recUsed, .recDrop, .recd, .attn, .flash, .emitted]).le (Foot.whole [.regs, .host, .health, .leash, .trigs, .log, .recUsed, .recDrop, .recd, .attn, .flash, .emitted]) := Foot.le_refl
  refine framed_out w (o := execChannelRetraining ch retries ok s) rfl ?_
  unfold execChannelRetraining
  refine ⟨_, rfl, ?_⟩
  repeat' first
    | with_reducible first
      | exact Act.nil_in
      | exact Act.skip_in
      | apply Act.cons_in
      | apply Act.seq_in
      | (apply Act.get_in; intro _)
      | (apply Act.when_in; intro _)
      | apply Act.ite_in
      | (apply Act.each_in; intro _ _)
      | (exact Act.channelFence_pieces (Foot.sub hL (by decide)))
      | (exact Act.healthEv_pieces (Foot.sub hL (by decide)))
    | dsimp only
    | split

end Sys2Proof.Machine
end

