-- ==== Sys2Proof/Laws/PiecesRandomAccess.lean ====
section
/-! SUPPORT. The pieces of state that the operations of Machine/RandomAccess.lean can write, and the frames of its commands. -/

set_option linter.unusedSimpArgs false

namespace Sys2Proof.Machine

theorem Act.raFence_pieces {F : Foot} {d : Nat} (hL : (Foot.whole [.regs, .host, .leash, .trigs, .log, .recUsed, .recDrop, .dets, .recd, .attn, .emitted]).le F) : (Act.raFence d).In F := by
  unfold Act.raFence
  repeat' first
    | with_reducible first
      | exact Act.nil_in
      | exact Act.skip_in
      | apply Act.cons_in
      | apply Act.seq_in
      | (apply Act.get_in; intro _)
      | (apply Act.when_in; intro _)
      | apply Act.ite_in
      | (apply Act.each_in; intro _ _)
      | (exact Act.attnRadio_pieces (Foot.sub hL (by decide)))
      | (exact Act.record_pieces (Foot.sub hL (by decide)))
      | (exact Act.setDets_in (Foot.has hL (by decide) _))
    | dsimp only
    | split

theorem Act.raKeepFound_pieces {F : Foot} {key : Nat} {cfg : Nat} {esn : Nat} {sym : Nat} {raIdx : Nat} {fmt : Nat} {f : RaFound} (hL : (Foot.whole [.regs, .cells]).le F) : (Act.raKeepFound key cfg esn sym raIdx fmt f).In F := by
  unfold Act.raKeepFound
  repeat' first
    | with_reducible first
      | exact Act.nil_in
      | exact Act.skip_in
      | apply Act.cons_in
      | apply Act.seq_in
      | (apply Act.get_in; intro _)
      | (apply Act.when_in; intro _)
      | apply Act.ite_in
      | (apply Act.each_in; intro _ _)
      | (exact Act.cellInc_pieces (Foot.sub hL (by decide)))
      | (exact Act.modCells_in (Foot.has hL (by decide) _))
    | dsimp only
    | split

theorem frame_raOccasionSearch {s : State} (w : s.Wf) {cell : Nat} {cfg : Nat} {esn : Nat} {sym : Nat} {raIdx : Nat} {det : Nat} {checkFail : Bool} : Framed (.whole [.regs, .mem, .errs, .lpErr, .chUe, .host, .store, .acc, .health, .leash, .trigs, .log, .recUsed, .recDrop, .cells, .cjobs, .dsps, .dets, .recd, .attn, .sigq, .flash, .free, .emitted]) (.raOccasionSearch cell cfg esn sym raIdx det checkFail) s := by
  have hL : (Foot.whole [.regs, .mem, .errs, .lpErr, .chUe, .host, .store, .acc, .health, .leash, .trigs, .log, .recUsed, .recDrop, .cells, .cjobs, .dsps, .dets, .recd, .attn, .sigq, .flash, .free, .emitted]).le (Foot.whole [.regs, .mem, .errs, .lpErr, .chUe, .host, .store, .acc, .health, .leash, .trigs, .log, .recUsed, .recDrop, .cells, .cjobs, .dsps, .dets, .recd, .attn, .sigq, .flash, .free, .emitted]) := Foot.le_refl
  refine framed_out w (o := execRaOccasionSearch cell cfg esn sym raIdx det checkFail s) rfl ?_
  unfold execRaOccasionSearch
  refine ⟨_, rfl, ?_⟩
  repeat' first
    | with_reducible first
      | exact Act.nil_in
      | exact Act.skip_in
      | apply Act.cons_in
      | apply Act.seq_in
      | (apply Act.get_in; intro _)
      | (apply Act.when_in; intro _)
      | apply Act.ite_in
      | (apply Act.each_in; intro _ _)
      | (exact Act.cellInc_pieces (Foot.sub hL (by decide)))
      | (exact Act.cellReset_pieces (Foot.sub hL (by decide)))
      | (exact Act.raFence_pieces (Foot.sub hL (by decide)))
      | (exact Act.raKeepFound_pieces (Foot.sub hL (by decide)))
      | (refine Act.stageReads_pieces (Foot.sub hL (by decide)) ?_ <;> intros)
    | dsimp only
    | split

theorem frame_msgaDecode {s : State} (w : s.Wf) {cell : Nat} {handle : Nat} {esn : Nat} : Framed (.whole [.regs, .mem, .errs, .lpErr, .chUe, .host, .store, .acc, .health, .leash, .trigs, .log, .recUsed, .recDrop, .cells, .cjobs, .dsps, .recd, .attn, .sigq, .flash, .free, .emitted]) (.msgaDecode cell handle esn) s := by
  have hL : (Foot.whole [.regs, .mem, .errs, .lpErr, .chUe, .host, .store, .acc, .health, .leash, .trigs, .log, .recUsed, .recDrop, .cells, .cjobs, .dsps, .recd, .attn, .sigq, .flash, .free, .emitted]).le (Foot.whole [.regs, .mem, .errs, .lpErr, .chUe, .host, .store, .acc, .health, .leash, .trigs, .log, .recUsed, .recDrop, .cells, .cjobs, .dsps, .recd, .attn, .sigq, .flash, .free, .emitted]) := Foot.le_refl
  refine framed_out w (o := execMsgaDecode cell handle esn s) rfl ?_
  unfold execMsgaDecode
  refine ⟨_, rfl, ?_⟩
  repeat' first
    | with_reducible first
      | exact Act.nil_in
      | exact Act.skip_in
      | apply Act.cons_in
      | apply Act.seq_in
      | (apply Act.get_in; intro _)
      | (apply Act.when_in; intro _)
      | apply Act.ite_in
      | (apply Act.each_in; intro _ _)
      | (exact Act.cellInd_pieces (Foot.sub hL (by decide)))
      | (exact Act.modCells_in (Foot.has hL (by decide) _))
      | (refine Act.stageReads_pieces (Foot.sub hL (by decide)) ?_ <;> intros)
    | dsimp only
    | split

end Sys2Proof.Machine
end

