-- ==== Sys2Proof/Laws/PiecesCells.lean ====
section
/-! SUPPORT. The pieces of state that the operations of Machine/Cells.lean can write, and the frames of its commands. -/

set_option linter.unusedSimpArgs false

namespace Sys2Proof.Machine

theorem Act.patternOf_pieces {F : Foot} {r : List Nat} {k : List Nat → Act} (hL : (Foot.whole [.regs, .mem, .errs, .lpErr, .chUe, .host, .store, .acc, .health, .leash, .trigs, .log, .recUsed, .recDrop, .recd, .attn, .flash, .emitted]).le F) (hc_k : ∀ y0, (k y0).In F) : (Act.patternOf r k).In F := by
  unfold Act.patternOf
  repeat' first
    | with_reducible first
      | exact Act.nil_in
      | exact Act.skip_in
      | apply Act.cons_in
      | apply Act.seq_in
      | (apply Act.get_in; intro _)
      | (apply Act.when_in; intro _)
      | apply Act.ite_in
      | (apply Act.each_in; intro _ _)
      | (refine Act.readMem_pieces (Foot.sub hL (by decide)) ?_ <;> intros)
      | exact hc_k _
    | dsimp only
    | split

theorem Act.recsCheck_pieces {F : Foot} {bad : Act} {x0 : List (List Nat)} {x1 : List (List Nat)} {x2 : (List (List Nat) → Act)} (hL : (Foot.whole [.regs, .mem, .errs, .lpErr, .chUe, .host, .store, .acc, .health, .leash, .trigs, .log, .recUsed, .recDrop, .recd, .attn, .flash, .emitted]).le F) (hc_bad : bad.In F) (hc_x2 : ∀ y0, (x2 y0).In F) : (Act.recsCheck bad x0 x1 x2).In F := by
  induction x0 generalizing x1 with
  | nil => exact hc_x2 _
  | cons x r ih =>
    unfold Act.recsCheck
    repeat' first
      | with_reducible first
        | exact Act.nil_in
        | exact Act.skip_in
        | apply Act.cons_in
        | apply Act.seq_in
        | (apply Act.get_in; intro _)
        | (apply Act.when_in; intro _)
        | apply Act.ite_in
        | (apply Act.each_in; intro _ _)
        | (refine Act.patternOf_pieces (Foot.sub hL (by decide)) ?_ <;> intros)
        | (apply ih)
        | exact hc_bad
        | exact hc_x2 _
      | dsimp only
      | split

theorem Act.doCellSet_pieces {F : Foot} {j : JCmd} (hL : (Foot.whole [.regs, .mem, .errs, .lpErr, .chUe, .host, .store, .acc, .parts, .health, .leash, .trigs, .log, .recUsed, .recDrop, .recd, .attn, .flash, .radio, .emitted]).le F) : (Act.doCellSet j).In F := by
  unfold Act.doCellSet
  repeat' first
    | with_reducible first
      | exact Act.nil_in
      | exact Act.skip_in
      | apply Act.cons_in
      | apply Act.seq_in
      | (apply Act.get_in; intro _)
      | (apply Act.when_in; intro _)
      | apply Act.ite_in
      | (apply Act.each_in; intro _ _)
      | (refine Act.checks_pieces (Foot.sub hL (by decide)) ?_ <;> intros)
      | (exact Act.modRadio_in fun k => Foot.has hL (by decide) k)
      | (refine Act.recsCheck_pieces (Foot.sub hL (by decide)) ?_ ?_ <;> intros)
      | (exact Act.refuse_pieces (Foot.sub hL (by decide)))
      | (exact Act.replyOk_pieces (Foot.sub hL (by decide)))
    | dsimp only
    | split

theorem frame_cellSet {s : State} (w : s.Wf) {mb : Nat} : Framed (.whole [.regs, .mem, .errs, .lpErr, .chUe, .host, .store, .acc, .parts, .health, .leash, .trigs, .log, .recUsed, .recDrop, .recd, .attn, .flash, .radio, .emitted]) (.cellSet mb) s := by
  have hL : (Foot.whole [.regs, .mem, .errs, .lpErr, .chUe, .host, .store, .acc, .parts, .health, .leash, .trigs, .log, .recUsed, .recDrop, .recd, .attn, .flash, .radio, .emitted]).le (Foot.whole [.regs, .mem, .errs, .lpErr, .chUe, .host, .store, .acc, .parts, .health, .leash, .trigs, .log, .recUsed, .recDrop, .recd, .attn, .flash, .radio, .emitted]) := Foot.le_refl
  refine framed_out w (o := execCellSet mb s) rfl ?_
  unfold execCellSet
  refine ⟨_, rfl, ?_⟩
  repeat' first
    | with_reducible first
      | exact Act.nil_in
      | exact Act.skip_in
      | apply Act.cons_in
      | apply Act.seq_in
      | (apply Act.get_in; intro _)
      | (apply Act.when_in; intro _)
      | apply Act.ite_in
      | (apply Act.each_in; intro _ _)
      | (exact Act.doCellSet_pieces (Foot.sub hL (by decide)))
      | (refine Act.mbRun_pieces (Foot.sub hL (by decide)) ?_ <;> intros)
    | dsimp only
    | split

theorem Act.doCellApply_pieces {F : Foot} {j : JCmd} (hL : (Foot.whole [.regs, .mem, .errs, .lpErr, .chUe, .host, .store, .acc, .parts, .health, .leash, .trigs, .log, .recUsed, .recDrop, .recd, .attn, .flash, .radio, .last, .emitted]).le F) : (Act.doCellApply j).In F := by
  unfold Act.doCellApply
  repeat' first
    | with_reducible first
      | exact Act.nil_in
      | exact Act.skip_in
      | apply Act.cons_in
      | apply Act.seq_in
      | (apply Act.get_in; intro _)
      | (apply Act.when_in; intro _)
      | apply Act.ite_in
      | (apply Act.each_in; intro _ _)
      | (exact Act.arm_pieces (Foot.sub hL (by decide)))
      | (exact Act.kenStat_pieces (Foot.sub hL (by decide)))
      | (exact Act.modF_in (Foot.has hL (by decide) _))
      | (exact Act.modRadio_in fun k => Foot.has hL (by decide) k)
      | (exact Act.refuse_pieces (Foot.sub hL (by decide)))
      | (exact Act.replyOk_pieces (Foot.sub hL (by decide)))
      | (exact Act.setF_in (Foot.has hL (by decide) _))
    | dsimp only
    | split

theorem frame_cellApply {s : State} (w : s.Wf) {mb : Nat} : Framed (.whole [.regs, .mem, .errs, .lpErr, .chUe, .host, .store, .acc, .parts, .health, .leash, .trigs, .log, .recUsed, .recDrop, .recd, .attn, .flash, .radio, .last, .emitted]) (.cellApply mb) s := by
  have hL : (Foot.whole [.regs, .mem, .errs, .lpErr, .chUe, .host, .store, .acc, .parts, .health, .leash, .trigs, .log, .recUsed, .recDrop, .recd, .attn, .flash, .radio, .last, .emitted]).le (Foot.whole [.regs, .mem, .errs, .lpErr, .chUe, .host, .store, .acc, .parts, .health, .leash, .trigs, .log, .recUsed, .recDrop, .recd, .attn, .flash, .radio, .last, .emitted]) := Foot.le_refl
  refine framed_out w (o := execCellApply mb s) rfl ?_
  unfold execCellApply
  refine ⟨_, rfl, ?_⟩
  repeat' first
    | with_reducible first
      | exact Act.nil_in
      | exact Act.skip_in
      | apply Act.cons_in
      | apply Act.seq_in
      | (apply Act.get_in; intro _)
      | (apply Act.when_in; intro _)
      | apply Act.ite_in
      | (apply Act.each_in; intro _ _)
      | (exact Act.doCellApply_pieces (Foot.sub hL (by decide)))
      | (refine Act.mbRun_pieces (Foot.sub hL (by decide)) ?_ <;> intros)
    | dsimp only
    | split

theorem Act.doCellDiscard_pieces {F : Foot} {j : JCmd} (hL : (Foot.whole [.regs, .mem, .errs, .lpErr, .chUe, .host, .store, .acc, .parts, .health, .leash, .trigs, .log, .recUsed, .recDrop, .recd, .attn, .flash, .radio, .emitted]).le F) : (Act.doCellDiscard j).In F := by
  unfold Act.doCellDiscard
  repeat' first
    | with_reducible first
      | exact Act.nil_in
      | exact Act.skip_in
      | apply Act.cons_in
      | apply Act.seq_in
      | (apply Act.get_in; intro _)
      | (apply Act.when_in; intro _)
      | apply Act.ite_in
      | (apply Act.each_in; intro _ _)
      | (refine Act.checks_pieces (Foot.sub hL (by decide)) ?_ <;> intros)
      | (exact Act.modRadio_in fun k => Foot.has hL (by decide) k)
      | (exact Act.replyOk_pieces (Foot.sub hL (by decide)))
    | dsimp only
    | split

theorem frame_cellDiscard {s : State} (w : s.Wf) {mb : Nat} : Framed (.whole [.regs, .mem, .errs, .lpErr, .chUe, .host, .store, .acc, .parts, .health, .leash, .trigs, .log, .recUsed, .recDrop, .recd, .attn, .flash, .radio, .emitted]) (.cellDiscard mb) s := by
  have hL : (Foot.whole [.regs, .mem, .errs, .lpErr, .chUe, .host, .store, .acc, .parts, .health, .leash, .trigs, .log, .recUsed, .recDrop, .recd, .attn, .flash, .radio, .emitted]).le (Foot.whole [.regs, .mem, .errs, .lpErr, .chUe, .host, .store, .acc, .parts, .health, .leash, .trigs, .log, .recUsed, .recDrop, .recd, .attn, .flash, .radio, .emitted]) := Foot.le_refl
  refine framed_out w (o := execCellDiscard mb s) rfl ?_
  unfold execCellDiscard
  refine ⟨_, rfl, ?_⟩
  repeat' first
    | with_reducible first
      | exact Act.nil_in
      | exact Act.skip_in
      | apply Act.cons_in
      | apply Act.seq_in
      | (apply Act.get_in; intro _)
      | (apply Act.when_in; intro _)
      | apply Act.ite_in
      | (apply Act.each_in; intro _ _)
      | (exact Act.doCellDiscard_pieces (Foot.sub hL (by decide)))
      | (refine Act.mbRun_pieces (Foot.sub hL (by decide)) ?_ <;> intros)
    | dsimp only
    | split

theorem Act.doNrxLoad_pieces {F : Foot} {j : JCmd} (hL : (Foot.whole [.regs, .mem, .errs, .lpErr, .chUe, .host, .store, .acc, .parts, .health, .leash, .trigs, .log, .recUsed, .recDrop, .recd, .attn, .flash, .radio, .emitted]).le F) : (Act.doNrxLoad j).In F := by
  unfold Act.doNrxLoad
  repeat' first
    | with_reducible first
      | exact Act.nil_in
      | exact Act.skip_in
      | apply Act.cons_in
      | apply Act.seq_in
      | (apply Act.get_in; intro _)
      | (apply Act.when_in; intro _)
      | apply Act.ite_in
      | (apply Act.each_in; intro _ _)
      | (refine Act.checks_pieces (Foot.sub hL (by decide)) ?_ <;> intros)
      | (exact Act.kenStat_pieces (Foot.sub hL (by decide)))
      | (exact Act.modRadio_in fun k => Foot.has hL (by decide) k)
      | (refine Act.readMem_pieces (Foot.sub hL (by decide)) ?_ <;> intros)
      | (exact Act.replyOk_pieces (Foot.sub hL (by decide)))
      | (refine Act.writeMem_pieces (Foot.sub hL (by decide)) ?_ <;> intros)
    | dsimp only
    | split

theorem frame_nrxLoad {s : State} (w : s.Wf) {mb : Nat} : Framed (.whole [.regs, .mem, .errs, .lpErr, .chUe, .host, .store, .acc, .parts, .health, .leash, .trigs, .log, .recUsed, .recDrop, .recd, .attn, .flash, .radio, .emitted]) (.nrxLoad mb) s := by
  have hL : (Foot.whole [.regs, .mem, .errs, .lpErr, .chUe, .host, .store, .acc, .parts, .health, .leash, .trigs, .log, .recUsed, .recDrop, .recd, .attn, .flash, .radio, .emitted]).le (Foot.whole [.regs, .mem, .errs, .lpErr, .chUe, .host, .store, .acc, .parts, .health, .leash, .trigs, .log, .recUsed, .recDrop, .recd, .attn, .flash, .radio, .emitted]) := Foot.le_refl
  refine framed_out w (o := execNrxLoad mb s) rfl ?_
  unfold execNrxLoad
  refine ⟨_, rfl, ?_⟩
  repeat' first
    | with_reducible first
      | exact Act.nil_in
      | exact Act.skip_in
      | apply Act.cons_in
      | apply Act.seq_in
      | (apply Act.get_in; intro _)
      | (apply Act.when_in; intro _)
      | apply Act.ite_in
      | (apply Act.each_in; intro _ _)
      | (exact Act.doNrxLoad_pieces (Foot.sub hL (by decide)))
      | (refine Act.mbRun_pieces (Foot.sub hL (by decide)) ?_ <;> intros)
    | dsimp only
    | split

theorem Act.doNrxUnload_pieces {F : Foot} {j : JCmd} (hL : (Foot.whole [.regs, .mem, .errs, .lpErr, .chUe, .host, .store, .acc, .parts, .health, .leash, .trigs, .log, .recUsed, .recDrop, .recd, .attn, .flash, .radio, .emitted]).le F) : (Act.doNrxUnload j).In F := by
  unfold Act.doNrxUnload
  repeat' first
    | with_reducible first
      | exact Act.nil_in
      | exact Act.skip_in
      | apply Act.cons_in
      | apply Act.seq_in
      | (apply Act.get_in; intro _)
      | (apply Act.when_in; intro _)
      | apply Act.ite_in
      | (apply Act.each_in; intro _ _)
      | (refine Act.checks_pieces (Foot.sub hL (by decide)) ?_ <;> intros)
      | (exact Act.modRadio_in fun k => Foot.has hL (by decide) k)
      | (exact Act.replyOk_pieces (Foot.sub hL (by decide)))
    | dsimp only
    | split

theorem frame_nrxUnload {s : State} (w : s.Wf) {mb : Nat} : Framed (.whole [.regs, .mem, .errs, .lpErr, .chUe, .host, .store, .acc, .parts, .health, .leash, .trigs, .log, .recUsed, .recDrop, .recd, .attn, .flash, .radio, .emitted]) (.nrxUnload mb) s := by
  have hL : (Foot.whole [.regs, .mem, .errs, .lpErr, .chUe, .host, .store, .acc, .parts, .health, .leash, .trigs, .log, .recUsed, .recDrop, .recd, .attn, .flash, .radio, .emitted]).le (Foot.whole [.regs, .mem, .errs, .lpErr, .chUe, .host, .store, .acc, .parts, .health, .leash, .trigs, .log, .recUsed, .recDrop, .recd, .attn, .flash, .radio, .emitted]) := Foot.le_refl
  refine framed_out w (o := execNrxUnload mb s) rfl ?_
  unfold execNrxUnload
  refine ⟨_, rfl, ?_⟩
  repeat' first
    | with_reducible first
      | exact Act.nil_in
      | exact Act.skip_in
      | apply Act.cons_in
      | apply Act.seq_in
      | (apply Act.get_in; intro _)
      | (apply Act.when_in; intro _)
      | apply Act.ite_in
      | (apply Act.each_in; intro _ _)
      | (exact Act.doNrxUnload_pieces (Foot.sub hL (by decide)))
      | (refine Act.mbRun_pieces (Foot.sub hL (by decide)) ?_ <;> intros)
    | dsimp only
    | split

theorem Act.doDspLoad_pieces {F : Foot} {j : JCmd} (hL : (Foot.whole [.regs, .mem, .errs, .lpErr, .chUe, .host, .store, .acc, .parts, .health, .leash, .trigs, .log, .recUsed, .recDrop, .dsps, .dspP, .recd, .attn, .flash, .emitted]).le F) : (Act.doDspLoad j).In F := by
  unfold Act.doDspLoad
  repeat' first
    | with_reducible first
      | exact Act.nil_in
      | exact Act.skip_in
      | apply Act.cons_in
      | apply Act.seq_in
      | (apply Act.get_in; intro _)
      | (apply Act.when_in; intro _)
      | apply Act.ite_in
      | (apply Act.each_in; intro _ _)
      | (refine Act.checks_pieces (Foot.sub hL (by decide)) ?_ <;> intros)
      | (exact Act.modDsps_in (Foot.has hL (by decide) _))
      | (refine Act.readMem_pieces (Foot.sub hL (by decide)) ?_ <;> intros)
      | (exact Act.replyOk_pieces (Foot.sub hL (by decide)))
      | (exact Act.setDspP_in (Foot.has hL (by decide) _))
      | (exact Act.setF_in (Foot.has hL (by decide) _))
    | dsimp only
    | split

theorem frame_dspLoad {s : State} (w : s.Wf) {mb : Nat} : Framed (.whole [.regs, .mem, .errs, .lpErr, .chUe, .host, .store, .acc, .parts, .health, .leash, .trigs, .log, .recUsed, .recDrop, .dsps, .dspP, .recd, .attn, .flash, .emitted]) (.dspLoad mb) s := by
  have hL : (Foot.whole [.regs, .mem, .errs, .lpErr, .chUe, .host, .store, .acc, .parts, .health, .leash, .trigs, .log, .recUsed, .recDrop, .dsps, .dspP, .recd, .attn, .flash, .emitted]).le (Foot.whole [.regs, .mem, .errs, .lpErr, .chUe, .host, .store, .acc, .parts, .health, .leash, .trigs, .log, .recUsed, .recDrop, .dsps, .dspP, .recd, .attn, .flash, .emitted]) := Foot.le_refl
  refine framed_out w (o := execDspLoad mb s) rfl ?_
  unfold execDspLoad
  refine ⟨_, rfl, ?_⟩
  repeat' first
    | with_reducible first
      | exact Act.nil_in
      | exact Act.skip_in
      | apply Act.cons_in
      | apply Act.seq_in
      | (apply Act.get_in; intro _)
      | (apply Act.when_in; intro _)
      | apply Act.ite_in
      | (apply Act.each_in; intro _ _)
      | (exact Act.doDspLoad_pieces (Foot.sub hL (by decide)))
      | (refine Act.mbRun_pieces (Foot.sub hL (by decide)) ?_ <;> intros)
    | dsimp only
    | split

theorem Act.doPortConfig_pieces {F : Foot} {j : JCmd} (hL : (Foot.whole [.regs, .mem, .errs, .lpErr, .chUe, .host, .store, .acc, .parts, .health, .leash, .trigs, .log, .recUsed, .recDrop, .recd, .attn, .flash, .sys, .emitted]).le F) : (Act.doPortConfig j).In F := by
  unfold Act.doPortConfig
  repeat' first
    | with_reducible first
      | exact Act.nil_in
      | exact Act.skip_in
      | apply Act.cons_in
      | apply Act.seq_in
      | (apply Act.get_in; intro _)
      | (apply Act.when_in; intro _)
      | apply Act.ite_in
      | (apply Act.each_in; intro _ _)
      | (refine Act.checks_pieces (Foot.sub hL (by decide)) ?_ <;> intros)
      | (exact Act.portDown_pieces (Foot.sub hL (by decide)))
      | (exact Act.replyOk_pieces (Foot.sub hL (by decide)))
      | (exact Act.setF_in (Foot.has hL (by decide) _))
      | (exact Act.setRegs_in (Foot.has hL (by decide) _))
    | dsimp only
    | split

theorem frame_portConfig {s : State} (w : s.Wf) {mb : Nat} : Framed (.whole [.regs, .mem, .errs, .lpErr, .chUe, .host, .store, .acc, .parts, .health, .leash, .trigs, .log, .recUsed, .recDrop, .recd, .attn, .flash, .sys, .emitted]) (.portConfig mb) s := by
  have hL : (Foot.whole [.regs, .mem, .errs, .lpErr, .chUe, .host, .store, .acc, .parts, .health, .leash, .trigs, .log, .recUsed, .recDrop, .recd, .attn, .flash, .sys, .emitted]).le (Foot.whole [.regs, .mem, .errs, .lpErr, .chUe, .host, .store, .acc, .parts, .health, .leash, .trigs, .log, .recUsed, .recDrop, .recd, .attn, .flash, .sys, .emitted]) := Foot.le_refl
  refine framed_out w (o := execPortConfig mb s) rfl ?_
  unfold execPortConfig
  refine ⟨_, rfl, ?_⟩
  repeat' first
    | with_reducible first
      | exact Act.nil_in
      | exact Act.skip_in
      | apply Act.cons_in
      | apply Act.seq_in
      | (apply Act.get_in; intro _)
      | (apply Act.when_in; intro _)
      | apply Act.ite_in
      | (apply Act.each_in; intro _ _)
      | (exact Act.doPortConfig_pieces (Foot.sub hL (by decide)))
      | (refine Act.mbRun_pieces (Foot.sub hL (by decide)) ?_ <;> intros)
    | dsimp only
    | split

theorem Act.doPowerCapSet_pieces {F : Foot} {j : JCmd} (hL : (Foot.whole [.regs, .mem, .errs, .lpErr, .chUe, .host, .store, .acc, .parts, .health, .leash, .trigs, .log, .recUsed, .recDrop, .recd, .attn, .flash, .last, .emitted]).le F) : (Act.doPowerCapSet j).In F := by
  unfold Act.doPowerCapSet
  repeat' first
    | with_reducible first
      | exact Act.nil_in
      | exact Act.skip_in
      | apply Act.cons_in
      | apply Act.seq_in
      | (apply Act.get_in; intro _)
      | (apply Act.when_in; intro _)
      | apply Act.ite_in
      | (apply Act.each_in; intro _ _)
      | (refine Act.checks_pieces (Foot.sub hL (by decide)) ?_ <;> intros)
      | (exact Act.modLast_in fun k => Foot.has hL (by decide) k)
      | (exact Act.replyOk_pieces (Foot.sub hL (by decide)))
    | dsimp only
    | split

theorem frame_powerCapSet {s : State} (w : s.Wf) {mb : Nat} : Framed (.whole [.regs, .mem, .errs, .lpErr, .chUe, .host, .store, .acc, .parts, .health, .leash, .trigs, .log, .recUsed, .recDrop, .recd, .attn, .flash, .last, .emitted]) (.powerCapSet mb) s := by
  have hL : (Foot.whole [.regs, .mem, .errs, .lpErr, .chUe, .host, .store, .acc, .parts, .health, .leash, .trigs, .log, .recUsed, .recDrop, .recd, .attn, .flash, .last, .emitted]).le (Foot.whole [.regs, .mem, .errs, .lpErr, .chUe, .host, .store, .acc, .parts, .health, .leash, .trigs, .log, .recUsed, .recDrop, .recd, .attn, .flash, .last, .emitted]) := Foot.le_refl
  refine framed_out w (o := execPowerCapSet mb s) rfl ?_
  unfold execPowerCapSet
  refine ⟨_, rfl, ?_⟩
  repeat' first
    | with_reducible first
      | exact Act.nil_in
      | exact Act.skip_in
      | apply Act.cons_in
      | apply Act.seq_in
      | (apply Act.get_in; intro _)
      | (apply Act.when_in; intro _)
      | apply Act.ite_in
      | (apply Act.each_in; intro _ _)
      | (exact Act.doPowerCapSet_pieces (Foot.sub hL (by decide)))
      | (refine Act.mbRun_pieces (Foot.sub hL (by decide)) ?_ <;> intros)
    | dsimp only
    | split

theorem Act.doTimeSet_pieces {F : Foot} {j : JCmd} (hL : (Foot.whole [.regs, .mem, .errs, .lpErr, .chUe, .host, .store, .acc, .parts, .health, .leash, .trigs, .log, .recUsed, .recDrop, .recd, .attn, .flash, .time, .emitted]).le F) : (Act.doTimeSet j).In F := by
  unfold Act.doTimeSet
  repeat' first
    | with_reducible first
      | exact Act.nil_in
      | exact Act.skip_in
      | apply Act.cons_in
      | apply Act.seq_in
      | (apply Act.get_in; intro _)
      | (apply Act.when_in; intro _)
      | apply Act.ite_in
      | (apply Act.each_in; intro _ _)
      | (refine Act.checks_pieces (Foot.sub hL (by decide)) ?_ <;> intros)
      | (exact Act.modTime_in fun k => Foot.has hL (by decide) k)
      | (exact Act.replyOk_pieces (Foot.sub hL (by decide)))
    | dsimp only
    | split

theorem frame_timeSet {s : State} (w : s.Wf) {mb : Nat} : Framed (.whole [.regs, .mem, .errs, .lpErr, .chUe, .host, .store, .acc, .parts, .health, .leash, .trigs, .log, .recUsed, .recDrop, .recd, .attn, .flash, .time, .emitted]) (.timeSet mb) s := by
  have hL : (Foot.whole [.regs, .mem, .errs, .lpErr, .chUe, .host, .store, .acc, .parts, .health, .leash, .trigs, .log, .recUsed, .recDrop, .recd, .attn, .flash, .time, .emitted]).le (Foot.whole [.regs, .mem, .errs, .lpErr, .chUe, .host, .store, .acc, .parts, .health, .leash, .trigs, .log, .recUsed, .recDrop, .recd, .attn, .flash, .time, .emitted]) := Foot.le_refl
  refine framed_out w (o := execTimeSet mb s) rfl ?_
  unfold execTimeSet
  refine ⟨_, rfl, ?_⟩
  repeat' first
    | with_reducible first
      | exact Act.nil_in
      | exact Act.skip_in
      | apply Act.cons_in
      | apply Act.seq_in
      | (apply Act.get_in; intro _)
      | (apply Act.when_in; intro _)
      | apply Act.ite_in
      | (apply Act.each_in; intro _ _)
      | (exact Act.doTimeSet_pieces (Foot.sub hL (by decide)))
      | (refine Act.mbRun_pieces (Foot.sub hL (by decide)) ?_ <;> intros)
    | dsimp only
    | split

theorem Act.arrayOut_pieces {F : Foot} {c : Nat} {a : Nat} (hL : (Foot.whole [.regs, .mem, .errs, .lpErr, .chUe, .host, .store, .acc, .anchors, .pend, .ctxs, .arrs, .parts, .health, .leash, .trigs, .log, .recUsed, .recDrop, .engs, .conns, .bars, .hounds, .cells, .cjobs, .dsps, .dumps, .recd, .attn, .sigq, .convq, .flash, .pairs, .radio, .last, .free, .emitted]).le F) : (Act.arrayOut c a).In F := by
  unfold Act.arrayOut
  repeat' first
    | with_reducible first
      | exact Act.nil_in
      | exact Act.skip_in
      | apply Act.cons_in
      | apply Act.seq_in
      | (apply Act.get_in; intro _)
      | (apply Act.when_in; intro _)
      | apply Act.ite_in
      | (apply Act.each_in; intro _ _)
      | (exact Act.fenceWaits_pieces (Foot.sub hL (by decide)))
      | (exact Act.lastSubst_pieces (Foot.sub hL (by decide)))
      | (exact Act.setF_in (Foot.has hL (by decide) _))
    | dsimp only
    | split

theorem Act.dspOut_pieces {F : Foot} {d : Nat} (hL : (Foot.whole [.regs, .host, .leash, .trigs, .log, .recUsed, .recDrop, .recd, .attn, .emitted]).le F) : (Act.dspOut d).In F := by
  unfold Act.dspOut
  repeat' first
    | with_reducible first
      | exact Act.nil_in
      | exact Act.skip_in
      | apply Act.cons_in
      | apply Act.seq_in
      | (apply Act.get_in; intro _)
      | (apply Act.when_in; intro _)
      | apply Act.ite_in
      | (apply Act.each_in; intro _ _)
      | (exact Act.attnRadio_pieces (Foot.sub hL (by decide)))
      | (exact Act.record_pieces (Foot.sub hL (by decide)))
      | (exact Act.setF_in (Foot.has hL (by decide) _))
    | dsimp only
    | split

theorem Act.detOut_pieces {F : Foot} {k : Nat} (hL : (Foot.whole [.regs, .host, .leash, .trigs, .log, .recUsed, .recDrop, .dets, .recd, .attn, .emitted]).le F) : (Act.detOut k).In F := by
  unfold Act.detOut
  repeat' first
    | with_reducible first
      | exact Act.nil_in
      | exact Act.skip_in
      | apply Act.cons_in
      | apply Act.seq_in
      | (apply Act.get_in; intro _)
      | (apply Act.when_in; intro _)
      | apply Act.ite_in
      | (apply Act.each_in; intro _ _)
      | (exact Act.attnRadio_pieces (Foot.sub hL (by decide)))
      | (exact Act.record_pieces (Foot.sub hL (by decide)))
      | (exact Act.setDets_in (Foot.has hL (by decide) _))
    | dsimp only
    | split

theorem Act.engOut_pieces {F : Foot} {e : Nat} (hL : (Foot.whole [.regs, .host, .leash, .trigs, .log, .recUsed, .recDrop, .recd, .attn, .emitted]).le F) : (Act.engOut e).In F := by
  unfold Act.engOut
  repeat' first
    | with_reducible first
      | exact Act.nil_in
      | exact Act.skip_in
      | apply Act.cons_in
      | apply Act.seq_in
      | (apply Act.get_in; intro _)
      | (apply Act.when_in; intro _)
      | apply Act.ite_in
      | (apply Act.each_in; intro _ _)
      | (exact Act.attnRadio_pieces (Foot.sub hL (by decide)))
      | (exact Act.record_pieces (Foot.sub hL (by decide)))
      | (exact Act.setF_in (Foot.has hL (by decide) _))
    | dsimp only
    | split

theorem Act.arrayPend_pieces {F : Foot} {c : Nat} {a : Nat} (hL : (Foot.whole [.regs]).le F) : (Act.arrayPend c a).In F := by
  unfold Act.arrayPend
  repeat' first
    | with_reducible first
      | exact Act.nil_in
      | exact Act.skip_in
      | apply Act.cons_in
      | apply Act.seq_in
      | (apply Act.get_in; intro _)
      | (apply Act.when_in; intro _)
      | apply Act.ite_in
      | (apply Act.each_in; intro _ _)
      | (exact Act.setF_in (Foot.has hL (by decide) _))
    | dsimp only
    | split

theorem Act.retireUnit_pieces {F : Foot} {kind : Nat} {i : Nat} (hL : (Foot.whole [.regs, .mem, .errs, .lpErr, .chUe, .host, .store, .acc, .anchors, .pend, .ctxs, .arrs, .parts, .health, .leash, .trigs, .log, .recUsed, .recDrop, .engs, .conns, .bars, .hounds, .cells, .cjobs, .dsps, .dets, .dumps, .recd, .attn, .sigq, .convq, .flash, .pairs, .radio, .last, .free, .emitted]).le F) : (Act.retireUnit kind i).In F := by
  unfold Act.retireUnit
  repeat' first
    | with_reducible first
      | exact Act.nil_in
      | exact Act.skip_in
      | apply Act.cons_in
      | apply Act.seq_in
      | (apply Act.get_in; intro _)
      | (apply Act.when_in; intro _)
      | apply Act.ite_in
      | (apply Act.each_in; intro _ _)
      | (exact Act.arrayOut_pieces (Foot.sub hL (by decide)))
      | (exact Act.arrayPend_pieces (Foot.sub hL (by decide)))
      | (exact Act.channelFence_pieces (Foot.sub hL (by decide)))
      | (exact Act.detOut_pieces (Foot.sub hL (by decide)))
      | (exact Act.dspOut_pieces (Foot.sub hL (by decide)))
      | (exact Act.engOut_pieces (Foot.sub hL (by decide)))
      | (exact Act.retireBit_pieces (Foot.sub hL (by decide)))
      | (exact Act.setF_in (Foot.has hL (by decide) _))
    | dsimp only
    | split

theorem Act.doRetire_pieces {F : Foot} {j : JCmd} (hL : (Foot.whole [.regs, .mem, .errs, .lpErr, .chUe, .host, .store, .acc, .anchors, .pend, .ctxs, .arrs, .parts, .health, .leash, .trigs, .log, .recUsed, .recDrop, .engs, .conns, .bars, .hounds, .cells, .cjobs, .dsps, .dets, .dumps, .recd, .attn, .sigq, .convq, .flash, .pairs, .radio, .last, .free, .emitted]).le F) : (Act.doRetire j).In F := by
  unfold Act.doRetire
  repeat' first
    | with_reducible first
      | exact Act.nil_in
      | exact Act.skip_in
      | apply Act.cons_in
      | apply Act.seq_in
      | (apply Act.get_in; intro _)
      | (apply Act.when_in; intro _)
      | apply Act.ite_in
      | (apply Act.each_in; intro _ _)
      | (refine Act.checks_pieces (Foot.sub hL (by decide)) ?_ <;> intros)
      | (exact Act.replyOk_pieces (Foot.sub hL (by decide)))
      | (exact Act.retireUnit_pieces (Foot.sub hL (by decide)))
    | dsimp only
    | split

theorem frame_retire {s : State} (w : s.Wf) {mb : Nat} : Framed (.whole [.regs, .mem, .errs, .lpErr, .chUe, .host, .store, .acc, .anchors, .pend, .ctxs, .arrs, .parts, .health, .leash, .trigs, .log, .recUsed, .recDrop, .engs, .conns, .bars, .hounds, .cells, .cjobs, .dsps, .dets, .dumps, .recd, .attn, .sigq, .convq, .flash, .pairs, .radio, .last, .free, .emitted]) (.retire mb) s := by
  have hL : (Foot.whole [.regs, .mem, .errs, .lpErr, .chUe, .host, .store, .acc, .anchors, .pend, .ctxs, .arrs, .parts, .health, .leash, .trigs, .log, .recUsed, .recDrop, .engs, .conns, .bars, .hounds, .cells, .cjobs, .dsps, .dets, .dumps, .recd, .attn, .sigq, .convq, .flash, .pairs, .radio, .last, .free, .emitted]).le (Foot.whole [.regs, .mem, .errs, .lpErr, .chUe, .host, .store, .acc, .anchors, .pend, .ctxs, .arrs, .parts, .health, .leash, .trigs, .log, .recUsed, .recDrop, .engs, .conns, .bars, .hounds, .cells, .cjobs, .dsps, .dets, .dumps, .recd, .attn, .sigq, .convq, .flash, .pairs, .radio, .last, .free, .emitted]) := Foot.le_refl
  refine framed_out w (o := execRetire mb s) rfl ?_
  unfold execRetire
  refine ⟨_, rfl, ?_⟩
  repeat' first
    | with_reducible first
      | exact Act.nil_in
      | exact Act.skip_in
      | apply Act.cons_in
      | apply Act.seq_in
      | (apply Act.get_in; intro _)
      | (apply Act.when_in; intro _)
      | apply Act.ite_in
      | (apply Act.each_in; intro _ _)
      | (exact Act.doRetire_pieces (Foot.sub hL (by decide)))
      | (refine Act.mbRun_pieces (Foot.sub hL (by decide)) ?_ <;> intros)
    | dsimp only
    | split

theorem Act.doRetireClear_pieces {F : Foot} {j : JCmd} (hL : (Foot.whole [.regs, .mem, .errs, .lpErr, .chUe, .host, .store, .acc, .parts, .health, .leash, .trigs, .log, .recUsed, .recDrop, .recd, .attn, .flash, .emitted]).le F) : (Act.doRetireClear j).In F := by
  unfold Act.doRetireClear
  repeat' first
    | with_reducible first
      | exact Act.nil_in
      | exact Act.skip_in
      | apply Act.cons_in
      | apply Act.seq_in
      | (apply Act.get_in; intro _)
      | (apply Act.when_in; intro _)
      | apply Act.ite_in
      | (apply Act.each_in; intro _ _)
      | (exact Act.modFlash_in fun k => Foot.has hL (by decide) k)
      | (exact Act.replyOk_pieces (Foot.sub hL (by decide)))
      | (exact Act.setF_in (Foot.has hL (by decide) _))
    | dsimp only
    | split

theorem frame_retireClear {s : State} (w : s.Wf) {mb : Nat} : Framed (.whole [.regs, .mem, .errs, .lpErr, .chUe, .host, .store, .acc, .parts, .health, .leash, .trigs, .log, .recUsed, .recDrop, .recd, .attn, .flash, .emitted]) (.retireClear mb) s := by
  have hL : (Foot.whole [.regs, .mem, .errs, .lpErr, .chUe, .host, .store, .acc, .parts, .health, .leash, .trigs, .log, .recUsed, .recDrop, .recd, .attn, .flash, .emitted]).le (Foot.whole [.regs, .mem, .errs, .lpErr, .chUe, .host, .store, .acc, .parts, .health, .leash, .trigs, .log, .recUsed, .recDrop, .recd, .attn, .flash, .emitted]) := Foot.le_refl
  refine framed_out w (o := execRetireClear mb s) rfl ?_
  unfold execRetireClear
  refine ⟨_, rfl, ?_⟩
  repeat' first
    | with_reducible first
      | exact Act.nil_in
      | exact Act.skip_in
      | apply Act.cons_in
      | apply Act.seq_in
      | (apply Act.get_in; intro _)
      | (apply Act.when_in; intro _)
      | apply Act.ite_in
      | (apply Act.each_in; intro _ _)
      | (exact Act.doRetireClear_pieces (Foot.sub hL (by decide)))
      | (refine Act.mbRun_pieces (Foot.sub hL (by decide)) ?_ <;> intros)
    | dsimp only
    | split

end Sys2Proof.Machine
end

