-- ==== Sys2Proof/Laws/PiecesIntegrity.lean ====
section
/-! SUPPORT. The pieces of state that the operations of Machine/Integrity.lean can write, and the frames of its commands. -/

set_option linter.unusedSimpArgs false

namespace Sys2Proof.Machine

theorem Act.moduleFail_pieces {F : Foot} {cause : Option Nat} (hL : (Foot.whole [.regs, .attn, .failed, .emitted]).le F) : (Act.moduleFail cause).In F := by
  unfold Act.moduleFail
  repeat' first
    | with_reducible first
      | exact Act.nil_in
      | exact Act.skip_in
      | apply Act.cons_in
      | apply Act.seq_in
      | (apply Act.get_in; intro _)
      | (apply Act.when_in; intro _)
      | apply Act.ite_in
      | (apply Act.each_in; intro _ _)
      | (exact Act.rbWant_pieces (Foot.sub hL (by decide)))
      | (exact Act.setF_in (Foot.has hL (by decide) _))
      | (exact Act.setFailed_in fun k => Foot.has hL (by decide) k)
    | dsimp only
    | split

theorem Act.coreOwners_pieces {F : Foot} {c : Nat} {code : Nat} (hL : (Foot.whole [.regs, .mem, .errs, .lpErr, .chUe, .host, .store, .acc, .anchors, .pend, .ctxs, .arrs, .parts, .health, .leash, .trigs, .log, .recUsed, .recDrop, .engs, .conns, .bars, .hounds, .cells, .cjobs, .dsps, .dumps, .recd, .attn, .sigq, .convq, .flash, .pairs, .radio, .free, .emitted]).le F) : (Act.coreOwners c code).In F := by
  unfold Act.coreOwners
  repeat' first
    | with_reducible first
      | exact Act.nil_in
      | exact Act.skip_in
      | apply Act.cons_in
      | apply Act.seq_in
      | (apply Act.get_in; intro _)
      | (apply Act.when_in; intro _)
      | apply Act.ite_in
      | (apply Act.each_in; intro _ _)
      | (exact Act.coreFault_pieces (Foot.sub hL (by decide)))
    | dsimp only
    | split

theorem Act.coreFail_pieces {F : Foot} {c : Nat} {code : Nat} (hL : (Foot.whole [.regs, .mem, .errs, .lpErr, .chUe, .host, .store, .acc, .anchors, .pend, .ctxs, .arrs, .parts, .health, .leash, .trigs, .log, .recUsed, .recDrop, .engs, .conns, .bars, .hounds, .cells, .cjobs, .dsps, .dumps, .recd, .attn, .sigq, .convq, .flash, .pairs, .radio, .last, .free, .emitted]).le F) : (Act.coreFail c code).In F := by
  unfold Act.coreFail
  repeat' first
    | with_reducible first
      | exact Act.nil_in
      | exact Act.skip_in
      | apply Act.cons_in
      | apply Act.seq_in
      | (apply Act.get_in; intro _)
      | (apply Act.when_in; intro _)
      | apply Act.ite_in
      | (apply Act.each_in; intro _ _)
      | (exact Act.arrClear_pieces (Foot.sub hL (by decide)))
      | (exact Act.coreFence_pieces (Foot.sub hL (by decide)))
      | (exact Act.coreOwners_pieces (Foot.sub hL (by decide)))
    | dsimp only
    | split

theorem Act.dieFail_pieces {F : Foot} {d : Nat} (hL : (Foot.whole [.regs, .mem, .errs, .lpErr, .chUe, .host, .store, .acc, .anchors, .pend, .ctxs, .arrs, .parts, .health, .leash, .trigs, .log, .recUsed, .recDrop, .engs, .conns, .bars, .hounds, .cells, .cjobs, .dsps, .dumps, .recd, .attn, .failed, .sigq, .convq, .flash, .pairs, .free, .emitted]).le F) : (Act.dieFail d).In F := by
  unfold Act.dieFail
  repeat' first
    | with_reducible first
      | exact Act.nil_in
      | exact Act.skip_in
      | apply Act.cons_in
      | apply Act.seq_in
      | (apply Act.get_in; intro _)
      | (apply Act.when_in; intro _)
      | apply Act.ite_in
      | (apply Act.each_in; intro _ _)
      | (exact Act.cellResets_pieces (Foot.sub hL (by decide)))
      | (exact Act.moduleFail_pieces (Foot.sub hL (by decide)))
      | (exact Act.sliceFault_pieces (Foot.sub hL (by decide)))
    | dsimp only
    | split

theorem Act.clusterFail_pieces {F : Foot} {k : Nat} (hL : (Foot.whole [.regs, .host, .leash, .trigs, .log, .recUsed, .recDrop, .cells, .cjobs, .dsps, .recd, .attn, .sigq, .last, .free, .emitted]).le F) : (Act.clusterFail k).In F := by
  unfold Act.clusterFail
  repeat' first
    | with_reducible first
      | exact Act.nil_in
      | exact Act.skip_in
      | apply Act.cons_in
      | apply Act.seq_in
      | (apply Act.get_in; intro _)
      | (apply Act.when_in; intro _)
      | apply Act.ite_in
      | (apply Act.each_in; intro _ _)
      | (exact Act.codeFence_pieces (Foot.sub hL (by decide)))
      | (exact Act.codeRefuse_pieces (Foot.sub hL (by decide)))
      | (exact Act.dropCodeJob_pieces (Foot.sub hL (by decide)))
      | (exact Act.incF_in (Foot.has hL (by decide) _))
    | dsimp only
    | split

theorem frame_clockFailure {s : State} (w : s.Wf) {i : Island} : Framed (.whole [.regs, .mem, .errs, .lpErr, .chUe, .host, .store, .acc, .anchors, .pend, .ctxs, .arrs, .parts, .health, .leash, .trigs, .log, .recUsed, .recDrop, .engs, .conns, .bars, .hounds, .cells, .cjobs, .dsps, .dets, .dumps, .recd, .attn, .failed, .sigq, .convq, .flash, .held, .pairs, .radio, .last, .free, .emitted]) (.clockFailure i) s := by
  have hL : (Foot.whole [.regs, .mem, .errs, .lpErr, .chUe, .host, .store, .acc, .anchors, .pend, .ctxs, .arrs, .parts, .health, .leash, .trigs, .log, .recUsed, .recDrop, .engs, .conns, .bars, .hounds, .cells, .cjobs, .dsps, .dets, .dumps, .recd, .attn, .failed, .sigq, .convq, .flash, .held, .pairs, .radio, .last, .free, .emitted]).le (Foot.whole [.regs, .mem, .errs, .lpErr, .chUe, .host, .store, .acc, .anchors, .pend, .ctxs, .arrs, .parts, .health, .leash, .trigs, .log, .recUsed, .recDrop, .engs, .conns, .bars, .hounds, .cells, .cjobs, .dsps, .dets, .dumps, .recd, .attn, .failed, .sigq, .convq, .flash, .held, .pairs, .radio, .last, .free, .emitted]) := Foot.le_refl
  refine framed_out w (o := execClockFailure i s) rfl ?_
  unfold execClockFailure
  refine ⟨_, rfl, ?_⟩
  repeat' first
    | with_reducible first
      | exact Act.nil_in
      | exact Act.skip_in
      | apply Act.cons_in
      | apply Act.seq_in
      | (apply Act.get_in; intro _)
      | (apply Act.when_in; intro _)
      | apply Act.ite_in
      | (apply Act.each_in; intro _ _)
      | (exact Act.clusterFail_pieces (Foot.sub hL (by decide)))
      | (exact Act.coreFail_pieces (Foot.sub hL (by decide)))
      | (exact Act.detOut_pieces (Foot.sub hL (by decide)))
      | (exact Act.dieFail_pieces (Foot.sub hL (by decide)))
      | (exact Act.dspFaultNow_pieces (Foot.sub hL (by decide)))
      | (exact Act.dspOut_pieces (Foot.sub hL (by decide)))
      | (exact Act.engOut_pieces (Foot.sub hL (by decide)))
      | (exact Act.moduleFail_pieces (Foot.sub hL (by decide)))
    | dsimp only
    | split

theorem Act.movesFail_pieces {F : Foot} {hit : Nat → Nat → Bool} (hL : (Foot.whole [.regs, .mem, .errs, .lpErr, .chUe, .host, .store, .acc, .anchors, .pend, .ctxs, .arrs, .parts, .health, .leash, .trigs, .log, .recUsed, .recDrop, .engs, .conns, .bars, .hounds, .cells, .cjobs, .dsps, .dumps, .recd, .attn, .sigq, .convq, .flash, .pairs, .radio, .free, .emitted]).le F) : (Act.movesFail hit).In F := by
  unfold Act.movesFail
  repeat' first
    | with_reducible first
      | exact Act.nil_in
      | exact Act.skip_in
      | apply Act.cons_in
      | apply Act.seq_in
      | (apply Act.get_in; intro _)
      | (apply Act.when_in; intro _)
      | apply Act.ite_in
      | (apply Act.each_in; intro _ _)
      | (exact Act.coreFault_pieces (Foot.sub hL (by decide)))
      | (exact Act.modCtxs_in (Foot.has hL (by decide) _))
      | (exact Act.setPend_in (Foot.has hL (by decide) _))
    | dsimp only
    | split

theorem Act.supplyEvent_pieces {F : Foot} {i : Island} (hL : (Foot.whole [.regs, .mem, .errs, .lpErr, .chUe, .host, .store, .acc, .anchors, .pend, .ctxs, .arrs, .parts, .health, .leash, .trigs, .log, .recUsed, .recDrop, .engs, .conns, .bars, .hounds, .cells, .cjobs, .dsps, .dumps, .recd, .attn, .failed, .sigq, .convq, .flash, .held, .pairs, .radio, .last, .sys, .free, .emitted]).le F) : (Act.supplyEvent i).In F := by
  unfold Act.supplyEvent
  repeat' first
    | with_reducible first
      | exact Act.nil_in
      | exact Act.skip_in
      | apply Act.cons_in
      | apply Act.seq_in
      | (apply Act.get_in; intro _)
      | (apply Act.when_in; intro _)
      | apply Act.ite_in
      | (apply Act.each_in; intro _ _)
      | (exact Act.clusterFail_pieces (Foot.sub hL (by decide)))
      | (exact Act.coreFail_pieces (Foot.sub hL (by decide)))
      | (exact Act.dieFail_pieces (Foot.sub hL (by decide)))
      | (exact Act.discard_pieces (Foot.sub hL (by decide)))
      | (exact Act.dspFaultNow_pieces (Foot.sub hL (by decide)))
      | (exact Act.healthEv_pieces (Foot.sub hL (by decide)))
      | (exact Act.modCtxs_in (Foot.has hL (by decide) _))
      | (exact Act.modSys_in fun k => Foot.has hL (by decide) k)
      | (exact Act.moduleFail_pieces (Foot.sub hL (by decide)))
      | (exact Act.movesFail_pieces (Foot.sub hL (by decide)))
    | dsimp only
    | split

theorem frame_supplyEvent {s : State} (w : s.Wf) {i : Island} : Framed (.whole [.regs, .mem, .errs, .lpErr, .chUe, .host, .store, .acc, .anchors, .pend, .ctxs, .arrs, .parts, .health, .leash, .trigs, .log, .recUsed, .recDrop, .engs, .conns, .bars, .hounds, .cells, .cjobs, .dsps, .dumps, .recd, .attn, .failed, .sigq, .convq, .flash, .held, .pairs, .radio, .last, .sys, .free, .emitted]) (.supplyEvent i) s := by
  have hL : (Foot.whole [.regs, .mem, .errs, .lpErr, .chUe, .host, .store, .acc, .anchors, .pend, .ctxs, .arrs, .parts, .health, .leash, .trigs, .log, .recUsed, .recDrop, .engs, .conns, .bars, .hounds, .cells, .cjobs, .dsps, .dumps, .recd, .attn, .failed, .sigq, .convq, .flash, .held, .pairs, .radio, .last, .sys, .free, .emitted]).le (Foot.whole [.regs, .mem, .errs, .lpErr, .chUe, .host, .store, .acc, .anchors, .pend, .ctxs, .arrs, .parts, .health, .leash, .trigs, .log, .recUsed, .recDrop, .engs, .conns, .bars, .hounds, .cells, .cjobs, .dsps, .dumps, .recd, .attn, .failed, .sigq, .convq, .flash, .held, .pairs, .radio, .last, .sys, .free, .emitted]) := Foot.le_refl
  refine framed_out w (o := execSupplyEvent i s) rfl ?_
  unfold execSupplyEvent
  refine ⟨_, rfl, ?_⟩
  repeat' first
    | with_reducible first
      | exact Act.nil_in
      | exact Act.skip_in
      | apply Act.cons_in
      | apply Act.seq_in
      | (apply Act.get_in; intro _)
      | (apply Act.when_in; intro _)
      | apply Act.ite_in
      | (apply Act.each_in; intro _ _)
      | (exact Act.supplyEvent_pieces (Foot.sub hL (by decide)))
    | dsimp only
    | split

theorem frame_flitCrcFailure {s : State} (w : s.Wf) {req : Requester} {second : Bool} : Framed (.whole [.regs, .mem, .errs, .lpErr, .chUe, .host, .store, .acc, .anchors, .pend, .ctxs, .arrs, .parts, .health, .leash, .trigs, .log, .recUsed, .recDrop, .engs, .conns, .bars, .hounds, .cells, .cjobs, .dsps, .dumps, .recd, .attn, .sigq, .convq, .flash, .held, .pairs, .radio, .free, .emitted]) (.flitCrcFailure req second) s := by
  have hL : (Foot.whole [.regs, .mem, .errs, .lpErr, .chUe, .host, .store, .acc, .anchors, .pend, .ctxs, .arrs, .parts, .health, .leash, .trigs, .log, .recUsed, .recDrop, .engs, .conns, .bars, .hounds, .cells, .cjobs, .dsps, .dumps, .recd, .attn, .sigq, .convq, .flash, .held, .pairs, .radio, .free, .emitted]).le (Foot.whole [.regs, .mem, .errs, .lpErr, .chUe, .host, .store, .acc, .anchors, .pend, .ctxs, .arrs, .parts, .health, .leash, .trigs, .log, .recUsed, .recDrop, .engs, .conns, .bars, .hounds, .cells, .cjobs, .dsps, .dumps, .recd, .attn, .sigq, .convq, .flash, .held, .pairs, .radio, .free, .emitted]) := Foot.le_refl
  refine framed_out w (o := execFlitCrcFailure req second s) rfl ?_
  unfold execFlitCrcFailure
  refine ⟨_, rfl, ?_⟩
  repeat' first
    | with_reducible first
      | exact Act.nil_in
      | exact Act.skip_in
      | apply Act.cons_in
      | apply Act.seq_in
      | (apply Act.get_in; intro _)
      | (apply Act.when_in; intro _)
      | apply Act.ite_in
      | (apply Act.each_in; intro _ _)
      | (exact Act.healthEv_pieces (Foot.sub hL (by decide)))
      | (exact Act.memError_pieces (Foot.sub hL (by decide)))
      | (exact Act.pmc_pieces (Foot.sub hL (by decide)))
    | dsimp only
    | split

theorem frame_arraySelftest {s : State} (w : s.Wf) {core : Nat} {arr : Nat} {pass : Bool} : Framed (.whole [.regs, .host, .health, .leash, .trigs, .log, .recUsed, .recDrop, .recd, .attn, .flash, .emitted]) (.arraySelftest core arr pass) s := by
  have hL : (Foot.whole [.regs, .host, .health, .leash, .trigs, .log, .recUsed, .recDrop, .recd, .attn, .flash, .emitted]).le (Foot.whole [.regs, .host, .health, .leash, .trigs, .log, .recUsed, .recDrop, .recd, .attn, .flash, .emitted]) := Foot.le_refl
  refine framed_out w (o := execArraySelftest core arr pass s) rfl ?_
  unfold execArraySelftest
  refine ⟨_, rfl, ?_⟩
  repeat' first
    | with_reducible first
      | exact Act.nil_in
      | exact Act.skip_in
      | apply Act.cons_in
      | apply Act.seq_in
      | (apply Act.get_in; intro _)
      | (apply Act.when_in; intro _)
      | apply Act.ite_in
      | (apply Act.each_in; intro _ _)
      | (exact Act.arrayPend_pieces (Foot.sub hL (by decide)))
      | (exact Act.healthEv_pieces (Foot.sub hL (by decide)))
      | (exact Act.healthFailed_pieces (Foot.sub hL (by decide)))
      | (exact Act.retireBit_pieces (Foot.sub hL (by decide)))
      | (exact Act.setF_in (Foot.has hL (by decide) _))
    | dsimp only
    | split

theorem frame_diePairTimeout {s : State} (w : s.Wf) {p : Nat} : Framed (.whole [.regs, .mem, .errs, .lpErr, .chUe, .host, .store, .acc, .anchors, .pend, .ctxs, .arrs, .parts, .health, .leash, .trigs, .log, .recUsed, .recDrop, .engs, .conns, .bars, .hounds, .dumps, .recd, .attn, .sigq, .convq, .flash, .pairs, .emitted]) (.diePairTimeout p) s := by
  have hL : (Foot.whole [.regs, .mem, .errs, .lpErr, .chUe, .host, .store, .acc, .anchors, .pend, .ctxs, .arrs, .parts, .health, .leash, .trigs, .log, .recUsed, .recDrop, .engs, .conns, .bars, .hounds, .dumps, .recd, .attn, .sigq, .convq, .flash, .pairs, .emitted]).le (Foot.whole [.regs, .mem, .errs, .lpErr, .chUe, .host, .store, .acc, .anchors, .pend, .ctxs, .arrs, .parts, .health, .leash, .trigs, .log, .recUsed, .recDrop, .engs, .conns, .bars, .hounds, .dumps, .recd, .attn, .sigq, .convq, .flash, .pairs, .emitted]) := Foot.le_refl
  refine framed_out w (o := execDiePairTimeout p s) rfl ?_
  unfold execDiePairTimeout
  refine ⟨_, rfl, ?_⟩
  repeat' first
    | with_reducible first
      | exact Act.nil_in
      | exact Act.skip_in
      | apply Act.cons_in
      | apply Act.seq_in
      | (apply Act.get_in; intro _)
      | (apply Act.when_in; intro _)
      | apply Act.ite_in
      | (apply Act.each_in; intro _ _)
      | (exact Act.pairFault_pieces (Foot.sub hL (by decide)))
    | dsimp only
    | split

theorem Act.healthFence_pieces {F : Foot} {kind : Nat} {i : Nat} (hL : (Foot.whole [.regs, .mem, .errs, .lpErr, .chUe, .host, .store, .acc, .anchors, .pend, .ctxs, .arrs, .parts, .health, .leash, .trigs, .log, .recUsed, .recDrop, .engs, .conns, .bars, .hounds, .cells, .cjobs, .dsps, .dets, .dumps, .recd, .attn, .sigq, .convq, .flash, .pairs, .radio, .last, .free, .emitted]).le F) : (Act.healthFence kind i).In F := by
  unfold Act.healthFence
  repeat' first
    | with_reducible first
      | exact Act.nil_in
      | exact Act.skip_in
      | apply Act.cons_in
      | apply Act.seq_in
      | (apply Act.get_in; intro _)
      | (apply Act.when_in; intro _)
      | apply Act.ite_in
      | (apply Act.each_in; intro _ _)
      | (exact Act.channelFence_pieces (Foot.sub hL (by decide)))
      | (exact Act.coreFail_pieces (Foot.sub hL (by decide)))
      | (exact Act.retireUnit_pieces (Foot.sub hL (by decide)))
    | dsimp only
    | split

theorem Act.healthTick_pieces {F : Foot} {kind : Nat} {i : Nat} (hL : (Foot.whole [.regs, .mem, .errs, .lpErr, .chUe, .host, .store, .acc, .anchors, .pend, .ctxs, .arrs, .parts, .health, .leash, .trigs, .log, .recUsed, .recDrop, .engs, .conns, .bars, .hounds, .cells, .cjobs, .dsps, .dets, .dumps, .recd, .attn, .sigq, .convq, .flash, .pairs, .radio, .last, .free, .emitted]).le F) : (Act.healthTick kind i).In F := by
  unfold Act.healthTick
  repeat' first
    | with_reducible first
      | exact Act.nil_in
      | exact Act.skip_in
      | apply Act.cons_in
      | apply Act.seq_in
      | (apply Act.get_in; intro _)
      | (apply Act.when_in; intro _)
      | apply Act.ite_in
      | (apply Act.each_in; intro _ _)
      | (exact Act.healthFailed_pieces (Foot.sub hL (by decide)))
      | (exact Act.healthFence_pieces (Foot.sub hL (by decide)))
      | (exact Act.healthSuspect_pieces (Foot.sub hL (by decide)))
      | (exact Act.setF_in (Foot.has hL (by decide) _))
      | (exact Act.setHealth_in (Foot.has hL (by decide) _))
    | dsimp only
    | split

theorem frame_healthEvaluation {s : State} (w : s.Wf) : Framed (.whole [.regs, .mem, .errs, .lpErr, .chUe, .host, .store, .acc, .anchors, .pend, .ctxs, .arrs, .parts, .health, .leash, .trigs, .log, .recUsed, .recDrop, .engs, .conns, .bars, .hounds, .cells, .cjobs, .dsps, .dets, .dumps, .recd, .attn, .sigq, .convq, .flash, .pairs, .radio, .last, .free, .emitted]) (.healthEvaluation) s := by
  have hL : (Foot.whole [.regs, .mem, .errs, .lpErr, .chUe, .host, .store, .acc, .anchors, .pend, .ctxs, .arrs, .parts, .health, .leash, .trigs, .log, .recUsed, .recDrop, .engs, .conns, .bars, .hounds, .cells, .cjobs, .dsps, .dets, .dumps, .recd, .attn, .sigq, .convq, .flash, .pairs, .radio, .last, .free, .emitted]).le (Foot.whole [.regs, .mem, .errs, .lpErr, .chUe, .host, .store, .acc, .anchors, .pend, .ctxs, .arrs, .parts, .health, .leash, .trigs, .log, .recUsed, .recDrop, .engs, .conns, .bars, .hounds, .cells, .cjobs, .dsps, .dets, .dumps, .recd, .attn, .sigq, .convq, .flash, .pairs, .radio, .last, .free, .emitted]) := Foot.le_refl
  refine framed_out w (o := execHealthEvaluation s) rfl ?_
  unfold execHealthEvaluation
  refine ⟨_, rfl, ?_⟩
  repeat' first
    | with_reducible first
      | exact Act.nil_in
      | exact Act.skip_in
      | apply Act.cons_in
      | apply Act.seq_in
      | (apply Act.get_in; intro _)
      | (apply Act.when_in; intro _)
      | apply Act.ite_in
      | (apply Act.each_in; intro _ _)
      | (exact Act.healthTick_pieces (Foot.sub hL (by decide)))
    | dsimp only
    | split

theorem Act.doHealthCfg_pieces {F : Foot} {j : JCmd} (hL : (Foot.whole [.regs, .mem, .errs, .lpErr, .chUe, .host, .store, .acc, .parts, .health, .leash, .trigs, .log, .recUsed, .recDrop, .recd, .attn, .flash, .emitted]).le F) : (Act.doHealthCfg j).In F := by
  unfold Act.doHealthCfg
  repeat' first
    | with_reducible first
      | exact Act.nil_in
      | exact Act.skip_in
      | apply Act.cons_in
      | apply Act.seq_in
      | (apply Act.get_in; intro _)
      | (apply Act.when_in; intro _)
      | apply Act.ite_in
      | (apply Act.each_in; intro _ _)
      | (refine Act.checks_pieces (Foot.sub hL (by decide)) ?_ <;> intros)
      | (exact Act.replyOk_pieces (Foot.sub hL (by decide)))
      | (exact Act.setF_in (Foot.has hL (by decide) _))
    | dsimp only
    | split

theorem frame_healthCfg {s : State} (w : s.Wf) {mb : Nat} : Framed (.whole [.regs, .mem, .errs, .lpErr, .chUe, .host, .store, .acc, .parts, .health, .leash, .trigs, .log, .recUsed, .recDrop, .recd, .attn, .flash, .emitted]) (.healthCfg mb) s := by
  have hL : (Foot.whole [.regs, .mem, .errs, .lpErr, .chUe, .host, .store, .acc, .parts, .health, .leash, .trigs, .log, .recUsed, .recDrop, .recd, .attn, .flash, .emitted]).le (Foot.whole [.regs, .mem, .errs, .lpErr, .chUe, .host, .store, .acc, .parts, .health, .leash, .trigs, .log, .recUsed, .recDrop, .recd, .attn, .flash, .emitted]) := Foot.le_refl
  refine framed_out w (o := execHealthCfg mb s) rfl ?_
  unfold execHealthCfg
  refine ⟨_, rfl, ?_⟩
  repeat' first
    | with_reducible first
      | exact Act.nil_in
      | exact Act.skip_in
      | apply Act.cons_in
      | apply Act.seq_in
      | (apply Act.get_in; intro _)
      | (apply Act.when_in; intro _)
      | apply Act.ite_in
      | (apply Act.each_in; intro _ _)
      | (exact Act.doHealthCfg_pieces (Foot.sub hL (by decide)))
      | (refine Act.mbRun_pieces (Foot.sub hL (by decide)) ?_ <;> intros)
    | dsimp only
    | split

theorem Act.doHealthQuery_pieces {F : Foot} {j : JCmd} (hL : (Foot.whole [.regs, .mem, .errs, .lpErr, .chUe, .host, .store, .acc, .parts, .health, .leash, .trigs, .log, .recUsed, .recDrop, .recd, .attn, .flash, .emitted]).le F) : (Act.doHealthQuery j).In F := by
  unfold Act.doHealthQuery
  repeat' first
    | with_reducible first
      | exact Act.nil_in
      | exact Act.skip_in
      | apply Act.cons_in
      | apply Act.seq_in
      | (apply Act.get_in; intro _)
      | (apply Act.when_in; intro _)
      | apply Act.ite_in
      | (apply Act.each_in; intro _ _)
      | (refine Act.checks_pieces (Foot.sub hL (by decide)) ?_ <;> intros)
      | (exact Act.replyOk_pieces (Foot.sub hL (by decide)))
    | dsimp only
    | split

theorem frame_healthQuery {s : State} (w : s.Wf) {mb : Nat} : Framed (.whole [.regs, .mem, .errs, .lpErr, .chUe, .host, .store, .acc, .parts, .health, .leash, .trigs, .log, .recUsed, .recDrop, .recd, .attn, .flash, .emitted]) (.healthQuery mb) s := by
  have hL : (Foot.whole [.regs, .mem, .errs, .lpErr, .chUe, .host, .store, .acc, .parts, .health, .leash, .trigs, .log, .recUsed, .recDrop, .recd, .attn, .flash, .emitted]).le (Foot.whole [.regs, .mem, .errs, .lpErr, .chUe, .host, .store, .acc, .parts, .health, .leash, .trigs, .log, .recUsed, .recDrop, .recd, .attn, .flash, .emitted]) := Foot.le_refl
  refine framed_out w (o := execHealthQuery mb s) rfl ?_
  unfold execHealthQuery
  refine ⟨_, rfl, ?_⟩
  repeat' first
    | with_reducible first
      | exact Act.nil_in
      | exact Act.skip_in
      | apply Act.cons_in
      | apply Act.seq_in
      | (apply Act.get_in; intro _)
      | (apply Act.when_in; intro _)
      | apply Act.ite_in
      | (apply Act.each_in; intro _ _)
      | (exact Act.doHealthQuery_pieces (Foot.sub hL (by decide)))
      | (refine Act.mbRun_pieces (Foot.sub hL (by decide)) ?_ <;> intros)
    | dsimp only
    | split

theorem Act.doHealthClear_pieces {F : Foot} {j : JCmd} (hL : (Foot.whole [.regs, .mem, .errs, .lpErr, .chUe, .host, .store, .acc, .parts, .health, .leash, .trigs, .log, .recUsed, .recDrop, .recd, .attn, .flash, .emitted]).le F) : (Act.doHealthClear j).In F := by
  unfold Act.doHealthClear
  repeat' first
    | with_reducible first
      | exact Act.nil_in
      | exact Act.skip_in
      | apply Act.cons_in
      | apply Act.seq_in
      | (apply Act.get_in; intro _)
      | (apply Act.when_in; intro _)
      | apply Act.ite_in
      | (apply Act.each_in; intro _ _)
      | (refine Act.checks_pieces (Foot.sub hL (by decide)) ?_ <;> intros)
      | (exact Act.replyOk_pieces (Foot.sub hL (by decide)))
      | (exact Act.setF_in (Foot.has hL (by decide) _))
      | (exact Act.setHealth_in (Foot.has hL (by decide) _))
      | (exact Act.setRegs_in (Foot.has hL (by decide) _))
    | dsimp only
    | split

theorem frame_healthClear {s : State} (w : s.Wf) {mb : Nat} : Framed (.whole [.regs, .mem, .errs, .lpErr, .chUe, .host, .store, .acc, .parts, .health, .leash, .trigs, .log, .recUsed, .recDrop, .recd, .attn, .flash, .emitted]) (.healthClear mb) s := by
  have hL : (Foot.whole [.regs, .mem, .errs, .lpErr, .chUe, .host, .store, .acc, .parts, .health, .leash, .trigs, .log, .recUsed, .recDrop, .recd, .attn, .flash, .emitted]).le (Foot.whole [.regs, .mem, .errs, .lpErr, .chUe, .host, .store, .acc, .parts, .health, .leash, .trigs, .log, .recUsed, .recDrop, .recd, .attn, .flash, .emitted]) := Foot.le_refl
  refine framed_out w (o := execHealthClear mb s) rfl ?_
  unfold execHealthClear
  refine ⟨_, rfl, ?_⟩
  repeat' first
    | with_reducible first
      | exact Act.nil_in
      | exact Act.skip_in
      | apply Act.cons_in
      | apply Act.seq_in
      | (apply Act.get_in; intro _)
      | (apply Act.when_in; intro _)
      | apply Act.ite_in
      | (apply Act.each_in; intro _ _)
      | (exact Act.doHealthClear_pieces (Foot.sub hL (by decide)))
      | (refine Act.mbRun_pieces (Foot.sub hL (by decide)) ?_ <;> intros)
    | dsimp only
    | split

theorem Act.doStepReport_pieces {F : Foot} {j : JCmd} (hL : (Foot.whole [.regs, .mem, .errs, .lpErr, .chUe, .host, .store, .acc, .parts, .health, .leash, .trigs, .log, .recUsed, .recDrop, .recd, .attn, .flash, .emitted]).le F) : (Act.doStepReport j).In F := by
  unfold Act.doStepReport
  repeat' first
    | with_reducible first
      | exact Act.nil_in
      | exact Act.skip_in
      | apply Act.cons_in
      | apply Act.seq_in
      | (apply Act.get_in; intro _)
      | (apply Act.when_in; intro _)
      | apply Act.ite_in
      | (apply Act.each_in; intro _ _)
      | (refine Act.checks_pieces (Foot.sub hL (by decide)) ?_ <;> intros)
      | (exact Act.modParts_in (Foot.has hL (by decide) _))
      | (exact Act.replyOk_pieces (Foot.sub hL (by decide)))
    | dsimp only
    | split

theorem frame_stepReport {s : State} (w : s.Wf) {mb : Nat} : Framed (.whole [.regs, .mem, .errs, .lpErr, .chUe, .host, .store, .acc, .parts, .health, .leash, .trigs, .log, .recUsed, .recDrop, .recd, .attn, .flash, .emitted]) (.stepReport mb) s := by
  have hL : (Foot.whole [.regs, .mem, .errs, .lpErr, .chUe, .host, .store, .acc, .parts, .health, .leash, .trigs, .log, .recUsed, .recDrop, .recd, .attn, .flash, .emitted]).le (Foot.whole [.regs, .mem, .errs, .lpErr, .chUe, .host, .store, .acc, .parts, .health, .leash, .trigs, .log, .recUsed, .recDrop, .recd, .attn, .flash, .emitted]) := Foot.le_refl
  refine framed_out w (o := execStepReport mb s) rfl ?_
  unfold execStepReport
  refine ⟨_, rfl, ?_⟩
  repeat' first
    | with_reducible first
      | exact Act.nil_in
      | exact Act.skip_in
      | apply Act.cons_in
      | apply Act.seq_in
      | (apply Act.get_in; intro _)
      | (apply Act.when_in; intro _)
      | apply Act.ite_in
      | (apply Act.each_in; intro _ _)
      | (exact Act.doStepReport_pieces (Foot.sub hL (by decide)))
      | (refine Act.mbRun_pieces (Foot.sub hL (by decide)) ?_ <;> intros)
    | dsimp only
    | split

end Sys2Proof.Machine
end

