-- ==== Sys2Proof/Laws/PiecesRecorder.lean ====
section
/-! SUPPORT. The pieces of state that the operations of Machine/Recorder.lean can write, and the frames of its commands. -/

set_option linter.unusedSimpArgs false

namespace Sys2Proof.Machine

theorem Act.doRecRead_pieces {F : Foot} {j : JCmd} (hL : (Foot.whole [.regs, .mem, .errs, .lpErr, .chUe, .host, .store, .acc, .parts, .health, .leash, .trigs, .log, .recUsed, .recDrop, .recd, .attn, .flash, .emitted]).le F) : (Act.doRecRead j).In F := by
  unfold Act.doRecRead
  repeat' first
    | with_reducible first
      | exact Act.nil_in
      | exact Act.skip_in
      | apply Act.cons_in
      | apply Act.seq_in
      | (apply Act.get_in; intro _)
      | (apply Act.when_in; intro _)
      | apply Act.ite_in
      | (apply Act.each_in; intro _ _)
      | (refine Act.checks_pieces (Foot.sub hL (by decide)) ?_ <;> intros)
      | (exact Act.replyOut_pieces (Foot.sub hL (by decide)))
    | dsimp only
    | split

theorem frame_recRead {s : State} (w : s.Wf) {mb : Nat} : Framed (.whole [.regs, .mem, .errs, .lpErr, .chUe, .host, .store, .acc, .parts, .health, .leash, .trigs, .log, .recUsed, .recDrop, .recd, .attn, .flash, .emitted]) (.recRead mb) s := by
  have hL : (Foot.whole [.regs, .mem, .errs, .lpErr, .chUe, .host, .store, .acc, .parts, .health, .leash, .trigs, .log, .recUsed, .recDrop, .recd, .attn, .flash, .emitted]).le (Foot.whole [.regs, .mem, .errs, .lpErr, .chUe, .host, .store, .acc, .parts, .health, .leash, .trigs, .log, .recUsed, .recDrop, .recd, .attn, .flash, .emitted]) := Foot.le_refl
  refine framed_out w (o := execRecRead mb s) rfl ?_
  unfold execRecRead
  refine ⟨_, rfl, ?_⟩
  repeat' first
    | with_reducible first
      | exact Act.nil_in
      | exact Act.skip_in
      | apply Act.cons_in
      | apply Act.seq_in
      | (apply Act.get_in; intro _)
      | (apply Act.when_in; intro _)
      | apply Act.ite_in
      | (apply Act.each_in; intro _ _)
      | (exact Act.doRecRead_pieces (Foot.sub hL (by decide)))
      | (refine Act.mbRun_pieces (Foot.sub hL (by decide)) ?_ <;> intros)
    | dsimp only
    | split

theorem Act.doRecFreeze_pieces {F : Foot} {j : JCmd} (hL : (Foot.whole [.regs, .mem, .errs, .lpErr, .chUe, .host, .store, .acc, .parts, .health, .leash, .trigs, .log, .recUsed, .recDrop, .recd, .attn, .flash, .emitted]).le F) : (Act.doRecFreeze j).In F := by
  unfold Act.doRecFreeze
  repeat' first
    | with_reducible first
      | exact Act.nil_in
      | exact Act.skip_in
      | apply Act.cons_in
      | apply Act.seq_in
      | (apply Act.get_in; intro _)
      | (apply Act.when_in; intro _)
      | apply Act.ite_in
      | (apply Act.each_in; intro _ _)
      | (refine Act.checks_pieces (Foot.sub hL (by decide)) ?_ <;> intros)
      | (exact Act.modRecd_in fun k => Foot.has hL (by decide) k)
      | (exact Act.replyOk_pieces (Foot.sub hL (by decide)))
      | (exact Act.setF_in (Foot.has hL (by decide) _))
    | dsimp only
    | split

theorem frame_recFreeze {s : State} (w : s.Wf) {mb : Nat} : Framed (.whole [.regs, .mem, .errs, .lpErr, .chUe, .host, .store, .acc, .parts, .health, .leash, .trigs, .log, .recUsed, .recDrop, .recd, .attn, .flash, .emitted]) (.recFreeze mb) s := by
  have hL : (Foot.whole [.regs, .mem, .errs, .lpErr, .chUe, .host, .store, .acc, .parts, .health, .leash, .trigs, .log, .recUsed, .recDrop, .recd, .attn, .flash, .emitted]).le (Foot.whole [.regs, .mem, .errs, .lpErr, .chUe, .host, .store, .acc, .parts, .health, .leash, .trigs, .log, .recUsed, .recDrop, .recd, .attn, .flash, .emitted]) := Foot.le_refl
  refine framed_out w (o := execRecFreeze mb s) rfl ?_
  unfold execRecFreeze
  refine ⟨_, rfl, ?_⟩
  repeat' first
    | with_reducible first
      | exact Act.nil_in
      | exact Act.skip_in
      | apply Act.cons_in
      | apply Act.seq_in
      | (apply Act.get_in; intro _)
      | (apply Act.when_in; intro _)
      | apply Act.ite_in
      | (apply Act.each_in; intro _ _)
      | (exact Act.doRecFreeze_pieces (Foot.sub hL (by decide)))
      | (refine Act.mbRun_pieces (Foot.sub hL (by decide)) ?_ <;> intros)
    | dsimp only
    | split

theorem Act.recRelease_pieces {F : Foot} {code : Nat} {payload : List Word} (hL : (Foot.whole [.regs, .host, .trigs, .log, .recd, .attn, .emitted]).le F) : (Act.recRelease code payload).In F := by
  unfold Act.recRelease
  repeat' first
    | with_reducible first
      | exact Act.nil_in
      | exact Act.skip_in
      | apply Act.cons_in
      | apply Act.seq_in
      | (apply Act.get_in; intro _)
      | (apply Act.when_in; intro _)
      | apply Act.ite_in
      | (apply Act.each_in; intro _ _)
      | (exact Act.modRecd_in fun k => Foot.has hL (by decide) k)
      | (refine Act.recPlace_pieces (Foot.sub hL (by decide)) ?_ ?_ <;> intros)
      | (exact Act.setF_in (Foot.has hL (by decide) _))
      | (exact Act.trigFire_pieces (Foot.sub hL (by decide)))
    | dsimp only
    | split

theorem Act.recThaw_pieces {F : Foot} (hL : (Foot.whole [.regs, .host, .trigs, .log, .recd, .attn, .emitted]).le F) : (Act.recThaw).In F := by
  unfold Act.recThaw
  repeat' first
    | with_reducible first
      | exact Act.nil_in
      | exact Act.skip_in
      | apply Act.cons_in
      | apply Act.seq_in
      | (apply Act.get_in; intro _)
      | (apply Act.when_in; intro _)
      | apply Act.ite_in
      | (apply Act.each_in; intro _ _)
      | (exact Act.recRelease_pieces (Foot.sub hL (by decide)))
      | (exact Act.setF_in (Foot.has hL (by decide) _))
    | dsimp only
    | split

theorem Act.doRecThaw_pieces {F : Foot} {j : JCmd} (hL : (Foot.whole [.regs, .mem, .errs, .lpErr, .chUe, .host, .store, .acc, .parts, .health, .leash, .trigs, .log, .recUsed, .recDrop, .recd, .attn, .flash, .emitted]).le F) : (Act.doRecThaw j).In F := by
  unfold Act.doRecThaw
  repeat' first
    | with_reducible first
      | exact Act.nil_in
      | exact Act.skip_in
      | apply Act.cons_in
      | apply Act.seq_in
      | (apply Act.get_in; intro _)
      | (apply Act.when_in; intro _)
      | apply Act.ite_in
      | (apply Act.each_in; intro _ _)
      | (refine Act.checks_pieces (Foot.sub hL (by decide)) ?_ <;> intros)
      | (exact Act.recThaw_pieces (Foot.sub hL (by decide)))
      | (exact Act.replyOk_pieces (Foot.sub hL (by decide)))
    | dsimp only
    | split

theorem frame_recThaw {s : State} (w : s.Wf) {mb : Nat} : Framed (.whole [.regs, .mem, .errs, .lpErr, .chUe, .host, .store, .acc, .parts, .health, .leash, .trigs, .log, .recUsed, .recDrop, .recd, .attn, .flash, .emitted]) (.recThaw mb) s := by
  have hL : (Foot.whole [.regs, .mem, .errs, .lpErr, .chUe, .host, .store, .acc, .parts, .health, .leash, .trigs, .log, .recUsed, .recDrop, .recd, .attn, .flash, .emitted]).le (Foot.whole [.regs, .mem, .errs, .lpErr, .chUe, .host, .store, .acc, .parts, .health, .leash, .trigs, .log, .recUsed, .recDrop, .recd, .attn, .flash, .emitted]) := Foot.le_refl
  refine framed_out w (o := execRecThaw mb s) rfl ?_
  unfold execRecThaw
  refine ⟨_, rfl, ?_⟩
  repeat' first
    | with_reducible first
      | exact Act.nil_in
      | exact Act.skip_in
      | apply Act.cons_in
      | apply Act.seq_in
      | (apply Act.get_in; intro _)
      | (apply Act.when_in; intro _)
      | apply Act.ite_in
      | (apply Act.each_in; intro _ _)
      | (exact Act.doRecThaw_pieces (Foot.sub hL (by decide)))
      | (refine Act.mbRun_pieces (Foot.sub hL (by decide)) ?_ <;> intros)
    | dsimp only
    | split

theorem frame_freezeTimeout {s : State} (w : s.Wf) : Framed (.whole [.regs, .host, .trigs, .log, .recd, .attn, .emitted]) (.freezeTimeout) s := by
  have hL : (Foot.whole [.regs, .host, .trigs, .log, .recd, .attn, .emitted]).le (Foot.whole [.regs, .host, .trigs, .log, .recd, .attn, .emitted]) := Foot.le_refl
  refine framed_out w (o := execFreezeTimeout s) rfl ?_
  unfold execFreezeTimeout
  refine ⟨_, rfl, ?_⟩
  repeat' first
    | with_reducible first
      | exact Act.nil_in
      | exact Act.skip_in
      | apply Act.cons_in
      | apply Act.seq_in
      | (apply Act.get_in; intro _)
      | (apply Act.when_in; intro _)
      | apply Act.ite_in
      | (apply Act.each_in; intro _ _)
      | (exact Act.recThaw_pieces (Foot.sub hL (by decide)))
    | dsimp only
    | split

theorem Act.doRecClear_pieces {F : Foot} {j : JCmd} (hL : (Foot.whole [.regs, .mem, .errs, .lpErr, .chUe, .host, .store, .acc, .parts, .health, .leash, .trigs, .log, .recUsed, .recDrop, .recd, .attn, .flash, .emitted]).le F) : (Act.doRecClear j).In F := by
  unfold Act.doRecClear
  repeat' first
    | with_reducible first
      | exact Act.nil_in
      | exact Act.skip_in
      | apply Act.cons_in
      | apply Act.seq_in
      | (apply Act.get_in; intro _)
      | (apply Act.when_in; intro _)
      | apply Act.ite_in
      | (apply Act.each_in; intro _ _)
      | (refine Act.checks_pieces (Foot.sub hL (by decide)) ?_ <;> intros)
      | (exact Act.modRecd_in fun k => Foot.has hL (by decide) k)
      | (exact Act.replyOk_pieces (Foot.sub hL (by decide)))
      | (exact Act.setF_in (Foot.has hL (by decide) _))
    | dsimp only
    | split

theorem frame_recClear {s : State} (w : s.Wf) {mb : Nat} : Framed (.whole [.regs, .mem, .errs, .lpErr, .chUe, .host, .store, .acc, .parts, .health, .leash, .trigs, .log, .recUsed, .recDrop, .recd, .attn, .flash, .emitted]) (.recClear mb) s := by
  have hL : (Foot.whole [.regs, .mem, .errs, .lpErr, .chUe, .host, .store, .acc, .parts, .health, .leash, .trigs, .log, .recUsed, .recDrop, .recd, .attn, .flash, .emitted]).le (Foot.whole [.regs, .mem, .errs, .lpErr, .chUe, .host, .store, .acc, .parts, .health, .leash, .trigs, .log, .recUsed, .recDrop, .recd, .attn, .flash, .emitted]) := Foot.le_refl
  refine framed_out w (o := execRecClear mb s) rfl ?_
  unfold execRecClear
  refine ⟨_, rfl, ?_⟩
  repeat' first
    | with_reducible first
      | exact Act.nil_in
      | exact Act.skip_in
      | apply Act.cons_in
      | apply Act.seq_in
      | (apply Act.get_in; intro _)
      | (apply Act.when_in; intro _)
      | apply Act.ite_in
      | (apply Act.each_in; intro _ _)
      | (exact Act.doRecClear_pieces (Foot.sub hL (by decide)))
      | (refine Act.mbRun_pieces (Foot.sub hL (by decide)) ?_ <;> intros)
    | dsimp only
    | split

theorem Act.recErased_pieces {F : Foot} (hL : (Foot.whole [.regs, .host, .trigs, .log, .recUsed, .recDrop, .recd, .attn, .emitted]).le F) : (Act.recErased).In F := by
  unfold Act.recErased
  repeat' first
    | with_reducible first
      | exact Act.nil_in
      | exact Act.skip_in
      | apply Act.cons_in
      | apply Act.seq_in
      | (apply Act.get_in; intro _)
      | (apply Act.when_in; intro _)
      | apply Act.ite_in
      | (apply Act.each_in; intro _ _)
      | (exact Act.clearLog_in fun k _ _ => Foot.has hL (by decide) k)
      | (exact Act.clearRecDrop_in fun k _ _ => Foot.has hL (by decide) k)
      | (exact Act.clearRecUsed_in fun k _ _ => Foot.has hL (by decide) k)
      | (exact Act.modRecd_in fun k => Foot.has hL (by decide) k)
      | (exact Act.recRelease_pieces (Foot.sub hL (by decide)))
      | (exact Act.setF_in (Foot.has hL (by decide) _))
    | dsimp only
    | split

theorem frame_recEraseDone {s : State} (w : s.Wf) : Framed (.whole [.regs, .host, .trigs, .log, .recUsed, .recDrop, .recd, .attn, .emitted]) (.recEraseDone) s := by
  have hL : (Foot.whole [.regs, .host, .trigs, .log, .recUsed, .recDrop, .recd, .attn, .emitted]).le (Foot.whole [.regs, .host, .trigs, .log, .recUsed, .recDrop, .recd, .attn, .emitted]) := Foot.le_refl
  refine framed_out w (o := execRecEraseDone s) rfl ?_
  unfold execRecEraseDone
  refine ⟨_, rfl, ?_⟩
  repeat' first
    | with_reducible first
      | exact Act.nil_in
      | exact Act.skip_in
      | apply Act.cons_in
      | apply Act.seq_in
      | (apply Act.get_in; intro _)
      | (apply Act.when_in; intro _)
      | apply Act.ite_in
      | (apply Act.each_in; intro _ _)
      | (exact Act.recErased_pieces (Foot.sub hL (by decide)))
    | dsimp only
    | split

theorem Act.leashSet_pieces {F : Foot} {code : Nat} {rate : Nat} {burst : Nat} (hL : (Foot.whole [.leash]).le F) : (Act.leashSet code rate burst).In F := by
  unfold Act.leashSet
  repeat' first
    | with_reducible first
      | exact Act.nil_in
      | exact Act.skip_in
      | apply Act.cons_in
      | apply Act.seq_in
      | (apply Act.get_in; intro _)
      | (apply Act.when_in; intro _)
      | apply Act.ite_in
      | (apply Act.each_in; intro _ _)
      | (exact Act.modLeash_in (Foot.has hL (by decide) _))
    | dsimp only
    | split

theorem Act.doRecLeash_pieces {F : Foot} {j : JCmd} (hL : (Foot.whole [.regs, .mem, .errs, .lpErr, .chUe, .host, .store, .acc, .parts, .health, .leash, .trigs, .log, .recUsed, .recDrop, .recd, .attn, .flash, .emitted]).le F) : (Act.doRecLeash j).In F := by
  unfold Act.doRecLeash
  repeat' first
    | with_reducible first
      | exact Act.nil_in
      | exact Act.skip_in
      | apply Act.cons_in
      | apply Act.seq_in
      | (apply Act.get_in; intro _)
      | (apply Act.when_in; intro _)
      | apply Act.ite_in
      | (apply Act.each_in; intro _ _)
      | (refine Act.checks_pieces (Foot.sub hL (by decide)) ?_ <;> intros)
      | (exact Act.leashSet_pieces (Foot.sub hL (by decide)))
      | (exact Act.replyOk_pieces (Foot.sub hL (by decide)))
    | dsimp only
    | split

theorem frame_recLeash {s : State} (w : s.Wf) {mb : Nat} : Framed (.whole [.regs, .mem, .errs, .lpErr, .chUe, .host, .store, .acc, .parts, .health, .leash, .trigs, .log, .recUsed, .recDrop, .recd, .attn, .flash, .emitted]) (.recLeash mb) s := by
  have hL : (Foot.whole [.regs, .mem, .errs, .lpErr, .chUe, .host, .store, .acc, .parts, .health, .leash, .trigs, .log, .recUsed, .recDrop, .recd, .attn, .flash, .emitted]).le (Foot.whole [.regs, .mem, .errs, .lpErr, .chUe, .host, .store, .acc, .parts, .health, .leash, .trigs, .log, .recUsed, .recDrop, .recd, .attn, .flash, .emitted]) := Foot.le_refl
  refine framed_out w (o := execRecLeash mb s) rfl ?_
  unfold execRecLeash
  refine ⟨_, rfl, ?_⟩
  repeat' first
    | with_reducible first
      | exact Act.nil_in
      | exact Act.skip_in
      | apply Act.cons_in
      | apply Act.seq_in
      | (apply Act.get_in; intro _)
      | (apply Act.when_in; intro _)
      | apply Act.ite_in
      | (apply Act.each_in; intro _ _)
      | (exact Act.doRecLeash_pieces (Foot.sub hL (by decide)))
      | (refine Act.mbRun_pieces (Foot.sub hL (by decide)) ?_ <;> intros)
    | dsimp only
    | split

theorem frame_leashToken {s : State} (w : s.Wf) {code : Nat} : Framed (.whole [.leash]) (.leashToken code) s := by
  have hL : (Foot.whole [.leash]).le (Foot.whole [.leash]) := Foot.le_refl
  refine framed_out w (o := execLeashToken code s) rfl ?_
  unfold execLeashToken
  refine ⟨_, rfl, ?_⟩
  repeat' first
    | with_reducible first
      | exact Act.nil_in
      | exact Act.skip_in
      | apply Act.cons_in
      | apply Act.seq_in
      | (apply Act.get_in; intro _)
      | (apply Act.when_in; intro _)
      | apply Act.ite_in
      | (apply Act.each_in; intro _ _)
      | (exact Act.modLeash_in (Foot.has hL (by decide) _))
    | dsimp only
    | split

theorem Act.doRecTrigger_pieces {F : Foot} {j : JCmd} (hL : (Foot.whole [.regs, .mem, .errs, .lpErr, .chUe, .host, .store, .acc, .parts, .health, .leash, .trigs, .log, .recUsed, .recDrop, .recd, .attn, .flash, .emitted]).le F) : (Act.doRecTrigger j).In F := by
  unfold Act.doRecTrigger
  repeat' first
    | with_reducible first
      | exact Act.nil_in
      | exact Act.skip_in
      | apply Act.cons_in
      | apply Act.seq_in
      | (apply Act.get_in; intro _)
      | (apply Act.when_in; intro _)
      | apply Act.ite_in
      | (apply Act.each_in; intro _ _)
      | (refine Act.checks_pieces (Foot.sub hL (by decide)) ?_ <;> intros)
      | (exact Act.modTrigs_in (Foot.has hL (by decide) _))
      | (exact Act.replyOk_pieces (Foot.sub hL (by decide)))
    | dsimp only
    | split

theorem frame_recTrigger {s : State} (w : s.Wf) {mb : Nat} : Framed (.whole [.regs, .mem, .errs, .lpErr, .chUe, .host, .store, .acc, .parts, .health, .leash, .trigs, .log, .recUsed, .recDrop, .recd, .attn, .flash, .emitted]) (.recTrigger mb) s := by
  have hL : (Foot.whole [.regs, .mem, .errs, .lpErr, .chUe, .host, .store, .acc, .parts, .health, .leash, .trigs, .log, .recUsed, .recDrop, .recd, .attn, .flash, .emitted]).le (Foot.whole [.regs, .mem, .errs, .lpErr, .chUe, .host, .store, .acc, .parts, .health, .leash, .trigs, .log, .recUsed, .recDrop, .recd, .attn, .flash, .emitted]) := Foot.le_refl
  refine framed_out w (o := execRecTrigger mb s) rfl ?_
  unfold execRecTrigger
  refine ⟨_, rfl, ?_⟩
  repeat' first
    | with_reducible first
      | exact Act.nil_in
      | exact Act.skip_in
      | apply Act.cons_in
      | apply Act.seq_in
      | (apply Act.get_in; intro _)
      | (apply Act.when_in; intro _)
      | apply Act.ite_in
      | (apply Act.each_in; intro _ _)
      | (exact Act.doRecTrigger_pieces (Foot.sub hL (by decide)))
      | (refine Act.mbRun_pieces (Foot.sub hL (by decide)) ?_ <;> intros)
    | dsimp only
    | split

theorem Act.doRecStatus_pieces {F : Foot} {j : JCmd} (hL : (Foot.whole [.regs, .mem, .errs, .lpErr, .chUe, .host, .store, .acc, .parts, .health, .leash, .trigs, .log, .recUsed, .recDrop, .recd, .attn, .flash, .emitted]).le F) : (Act.doRecStatus j).In F := by
  unfold Act.doRecStatus
  repeat' first
    | with_reducible first
      | exact Act.nil_in
      | exact Act.skip_in
      | apply Act.cons_in
      | apply Act.seq_in
      | (apply Act.get_in; intro _)
      | (apply Act.when_in; intro _)
      | apply Act.ite_in
      | (apply Act.each_in; intro _ _)
      | (exact Act.replyOut_pieces (Foot.sub hL (by decide)))
    | dsimp only
    | split

theorem frame_recStatus {s : State} (w : s.Wf) {mb : Nat} : Framed (.whole [.regs, .mem, .errs, .lpErr, .chUe, .host, .store, .acc, .parts, .health, .leash, .trigs, .log, .recUsed, .recDrop, .recd, .attn, .flash, .emitted]) (.recStatus mb) s := by
  have hL : (Foot.whole [.regs, .mem, .errs, .lpErr, .chUe, .host, .store, .acc, .parts, .health, .leash, .trigs, .log, .recUsed, .recDrop, .recd, .attn, .flash, .emitted]).le (Foot.whole [.regs, .mem, .errs, .lpErr, .chUe, .host, .store, .acc, .parts, .health, .leash, .trigs, .log, .recUsed, .recDrop, .recd, .attn, .flash, .emitted]) := Foot.le_refl
  refine framed_out w (o := execRecStatus mb s) rfl ?_
  unfold execRecStatus
  refine ⟨_, rfl, ?_⟩
  repeat' first
    | with_reducible first
      | exact Act.nil_in
      | exact Act.skip_in
      | apply Act.cons_in
      | apply Act.seq_in
      | (apply Act.get_in; intro _)
      | (apply Act.when_in; intro _)
      | apply Act.ite_in
      | (apply Act.each_in; intro _ _)
      | (exact Act.doRecStatus_pieces (Foot.sub hL (by decide)))
      | (refine Act.mbRun_pieces (Foot.sub hL (by decide)) ?_ <;> intros)
    | dsimp only
    | split

theorem frame_recordSubmit {s : State} (w : s.Wf) {code : Nat} {part : Nat} {src : Nat} {payload : List Word} : Framed (.whole [.regs, .host, .leash, .trigs, .log, .recUsed, .recDrop, .recd, .attn, .emitted]) (.recordSubmit code part src payload) s := by
  have hL : (Foot.whole [.regs, .host, .leash, .trigs, .log, .recUsed, .recDrop, .recd, .attn, .emitted]).le (Foot.whole [.regs, .host, .leash, .trigs, .log, .recUsed, .recDrop, .recd, .attn, .emitted]) := Foot.le_refl
  refine framed_out w (o := execRecordSubmit code part src payload s) rfl ?_
  unfold execRecordSubmit
  refine ⟨_, rfl, ?_⟩
  repeat' first
    | with_reducible first
      | exact Act.nil_in
      | exact Act.skip_in
      | apply Act.cons_in
      | apply Act.seq_in
      | (apply Act.get_in; intro _)
      | (apply Act.when_in; intro _)
      | apply Act.ite_in
      | (apply Act.each_in; intro _ _)
      | (exact Act.record_pieces (Foot.sub hL (by decide)))
    | dsimp only
    | split

theorem frame_hoursUpdate {s : State} (w : s.Wf) : Framed (.whole [.flash]) (.hoursUpdate) s := by
  have hL : (Foot.whole [.flash]).le (Foot.whole [.flash]) := Foot.le_refl
  refine framed_out w (o := execHoursUpdate s) rfl ?_
  unfold execHoursUpdate
  refine ⟨_, rfl, ?_⟩
  repeat' first
    | with_reducible first
      | exact Act.nil_in
      | exact Act.skip_in
      | apply Act.cons_in
      | apply Act.seq_in
      | (apply Act.get_in; intro _)
      | (apply Act.when_in; intro _)
      | apply Act.ite_in
      | (apply Act.each_in; intro _ _)
      | (exact Act.modFlash_in fun k => Foot.has hL (by decide) k)
    | dsimp only
    | split

end Sys2Proof.Machine
end

