-- ==== Sys2Proof/Laws/PiecesFabric.lean ====
section
/-! SUPPORT. The pieces of state that the operations of Machine/Fabric.lean can write, and the frames of its commands. -/

set_option linter.unusedSimpArgs false

namespace Sys2Proof.Machine

theorem Act.fabPerform_pieces {F : Foot} {op : Nat} {len : Nat} {fva : Nat} {key : Nat} {a : Word} {b : Word} {payload : List Byte} {k : FabRsp → Act} (hL : (Foot.whole [.regs, .mem, .errs, .lpErr, .chUe, .host, .store, .acc, .health, .leash, .trigs, .log, .recUsed, .recDrop, .recd, .attn, .flash, .emitted]).le F) (hc_k : ∀ y0, (k y0).In F) : (Act.fabPerform op len fva key a b payload k).In F := by
  unfold Act.fabPerform
  repeat' first
    | with_reducible first
      | exact Act.nil_in
      | exact Act.skip_in
      | apply Act.cons_in
      | apply Act.seq_in
      | (apply Act.get_in; intro _)
      | (apply Act.when_in; intro _)
      | apply Act.ite_in
      | (apply Act.each_in; intro _ _)
      | (refine Act.atomicAt_pieces (Foot.sub hL (by decide)) ?_ <;> intros)
      | (exact Act.incF_in (Foot.has hL (by decide) _))
      | (refine Act.readLines_pieces (Foot.sub hL (by decide)) ?_ <;> intros)
      | (exact Act.setF_in (Foot.has hL (by decide) _))
      | (refine Act.writeLines_pieces (Foot.sub hL (by decide)) ?_ <;> intros)
      | exact hc_k _
    | dsimp only
    | split

theorem Act.fabSendReq_pieces {F : Foot} {node : Nat} {q : OutReq} (hL : (Foot.whole [.emitted]).le F) : (Act.fabSendReq node q).In F := by
  unfold Act.fabSendReq
  repeat' first
    | with_reducible first
      | exact Act.nil_in
      | exact Act.skip_in
      | apply Act.cons_in
      | apply Act.seq_in
      | (apply Act.get_in; intro _)
      | (apply Act.when_in; intro _)
      | apply Act.ite_in
      | (apply Act.each_in; intro _ _)
      | (exact Act.fabFrame_pieces (Foot.sub hL (by decide)))
    | dsimp only
    | split

theorem Act.fabSendNop_pieces {F : Foot} {node : Nat} {syn : Bool} (hL : (Foot.whole [.emitted]).le F) : (Act.fabSendNop node syn).In F := by
  unfold Act.fabSendNop
  repeat' first
    | with_reducible first
      | exact Act.nil_in
      | exact Act.skip_in
      | apply Act.cons_in
      | apply Act.seq_in
      | (apply Act.get_in; intro _)
      | (apply Act.when_in; intro _)
      | apply Act.ite_in
      | (apply Act.each_in; intro _ _)
      | (exact Act.fabFrame_pieces (Foot.sub hL (by decide)))
    | dsimp only
    | split

theorem Act.fabAck_pieces {F : Foot} {node : Nat} {syn : Bool} {valid : Bool} {psn : Nat} {status : Nat} {wrap : Bool} {viol : Bool} {payload : List Byte} (hL : (Foot.whole [.conns, .emitted]).le F) : (Act.fabAck node syn valid psn status wrap viol payload).In F := by
  unfold Act.fabAck
  repeat' first
    | with_reducible first
      | exact Act.nil_in
      | exact Act.skip_in
      | apply Act.cons_in
      | apply Act.seq_in
      | (apply Act.get_in; intro _)
      | (apply Act.when_in; intro _)
      | apply Act.ite_in
      | (apply Act.each_in; intro _ _)
      | (exact Act.fabFrame_pieces (Foot.sub hL (by decide)))
      | (exact Act.modConns_in (Foot.has hL (by decide) _))
    | dsimp only
    | split

theorem Act.fabNoConn_pieces {F : Foot} {node : Nat} {syn : Bool} (hL : (Foot.whole [.regs, .conns, .emitted]).le F) : (Act.fabNoConn node syn).In F := by
  unfold Act.fabNoConn
  repeat' first
    | with_reducible first
      | exact Act.nil_in
      | exact Act.skip_in
      | apply Act.cons_in
      | apply Act.seq_in
      | (apply Act.get_in; intro _)
      | (apply Act.when_in; intro _)
      | apply Act.ite_in
      | (apply Act.each_in; intro _ _)
      | (exact Act.fabAck_pieces (Foot.sub hL (by decide)))
      | (exact Act.incF_in (Foot.has hL (by decide) _))
    | dsimp only
    | split

theorem Act.fabStale_pieces {F : Foot} {node : Nat} (hL : (Foot.whole [.regs, .conns, .emitted]).le F) : (Act.fabStale node).In F := by
  unfold Act.fabStale
  repeat' first
    | with_reducible first
      | exact Act.nil_in
      | exact Act.skip_in
      | apply Act.cons_in
      | apply Act.seq_in
      | (apply Act.get_in; intro _)
      | (apply Act.when_in; intro _)
      | apply Act.ite_in
      | (apply Act.each_in; intro _ _)
      | (exact Act.fabNoConn_pieces (Foot.sub hL (by decide)))
      | (exact Act.incF_in (Foot.has hL (by decide) _))
    | dsimp only
    | split

theorem Act.fabStat_pieces {F : Foot} (hL : (Foot.whole [.regs]).le F) : (Act.fabStat).In F := by
  unfold Act.fabStat
  repeat' first
    | with_reducible first
      | exact Act.nil_in
      | exact Act.skip_in
      | apply Act.cons_in
      | apply Act.seq_in
      | (apply Act.get_in; intro _)
      | (apply Act.when_in; intro _)
      | apply Act.ite_in
      | (apply Act.each_in; intro _ _)
      | (exact Act.setF_in (Foot.has hL (by decide) _))
    | dsimp only
    | split

theorem Act.fabGrant_pieces {F : Foot} {node : Nat} {n : Nat} (hL : (Foot.whole [.conns]).le F) : (Act.fabGrant node n).In F := by
  unfold Act.fabGrant
  repeat' first
    | with_reducible first
      | exact Act.nil_in
      | exact Act.skip_in
      | apply Act.cons_in
      | apply Act.seq_in
      | (apply Act.get_in; intro _)
      | (apply Act.when_in; intro _)
      | apply Act.ite_in
      | (apply Act.each_in; intro _ _)
      | (exact Act.modConns_in (Foot.has hL (by decide) _))
    | dsimp only
    | split

theorem Act.fabReturn_pieces {F : Foot} {node : Nat} {n : Nat} (hL : (Foot.whole [.conns]).le F) : (Act.fabReturn node n).In F := by
  unfold Act.fabReturn
  repeat' first
    | with_reducible first
      | exact Act.nil_in
      | exact Act.skip_in
      | apply Act.cons_in
      | apply Act.seq_in
      | (apply Act.get_in; intro _)
      | (apply Act.when_in; intro _)
      | apply Act.ite_in
      | (apply Act.each_in; intro _ _)
      | (exact Act.fabGrant_pieces (Foot.sub hL (by decide)))
    | dsimp only
    | split

theorem Act.engStat_pieces {F : Foot} {e : Nat} (hL : (Foot.whole [.regs]).le F) : (Act.engStat e).In F := by
  unfold Act.engStat
  repeat' first
    | with_reducible first
      | exact Act.nil_in
      | exact Act.skip_in
      | apply Act.cons_in
      | apply Act.seq_in
      | (apply Act.get_in; intro _)
      | (apply Act.when_in; intro _)
      | apply Act.ite_in
      | (apply Act.each_in; intro _ _)
      | (exact Act.setF_in (Foot.has hL (by decide) _))
    | dsimp only
    | split

theorem Act.engRetire_pieces {F : Foot} {e : Nat} (hL : (Foot.whole [.regs, .engs, .sigq]).le F) : (Act.engRetire e).In F := by
  unfold Act.engRetire
  repeat' first
    | with_reducible first
      | exact Act.nil_in
      | exact Act.skip_in
      | apply Act.cons_in
      | apply Act.seq_in
      | (apply Act.get_in; intro _)
      | (apply Act.when_in; intro _)
      | apply Act.ite_in
      | (apply Act.each_in; intro _ _)
      | (exact Act.engStat_pieces (Foot.sub hL (by decide)))
      | (exact Act.modEngs_in (Foot.has hL (by decide) _))
      | (exact Act.signal_pieces (Foot.sub hL (by decide)))
    | dsimp only
    | split

theorem Act.entFinish_pieces {F : Foot} {e : Nat} {t : EngEnt} {status : Nat} {wrap : Bool} (hL : (Foot.whole [.regs, .mem, .errs, .lpErr, .chUe, .host, .store, .acc, .anchors, .pend, .ctxs, .arrs, .parts, .health, .leash, .trigs, .log, .recUsed, .recDrop, .engs, .conns, .bars, .hounds, .dumps, .recd, .attn, .sigq, .convq, .flash, .pairs, .emitted]).le F) : (Act.entFinish e t status wrap).In F := by
  unfold Act.entFinish
  repeat' first
    | with_reducible first
      | exact Act.nil_in
      | exact Act.skip_in
      | apply Act.cons_in
      | apply Act.seq_in
      | (apply Act.get_in; intro _)
      | (apply Act.when_in; intro _)
      | apply Act.ite_in
      | (apply Act.each_in; intro _ _)
      | (exact Act.choice_pieces (Foot.sub hL (by decide)))
      | (exact Act.engFault_pieces (Foot.sub hL (by decide)))
      | (exact Act.engRetire_pieces (Foot.sub hL (by decide)))
      | (exact Act.modEngs_in (Foot.has hL (by decide) _))
      | (exact Act.signal_pieces (Foot.sub hL (by decide)))
      | (refine Act.writeMem_pieces (Foot.sub hL (by decide)) ?_ <;> intros)
    | dsimp only
    | split

theorem Act.fences_pieces {F : Foot} (hL : (Foot.whole [.regs, .mem, .errs, .lpErr, .chUe, .host, .store, .acc, .anchors, .pend, .ctxs, .arrs, .parts, .health, .leash, .trigs, .log, .recUsed, .recDrop, .engs, .conns, .bars, .hounds, .dumps, .recd, .attn, .sigq, .convq, .flash, .pairs, .emitted]).le F) : (Act.fences).In F := by
  unfold Act.fences
  repeat' first
    | with_reducible first
      | exact Act.nil_in
      | exact Act.skip_in
      | apply Act.cons_in
      | apply Act.seq_in
      | (apply Act.get_in; intro _)
      | (apply Act.when_in; intro _)
      | apply Act.ite_in
      | (apply Act.each_in; intro _ _)
      | (exact Act.entFinish_pieces (Foot.sub hL (by decide)))
    | dsimp only
    | split

theorem frame_engineEntryTake {s : State} (w : s.Wf) {e : Nat} : Framed (.whole [.regs, .mem, .errs, .lpErr, .chUe, .host, .store, .acc, .anchors, .pend, .ctxs, .arrs, .parts, .health, .leash, .trigs, .log, .recUsed, .recDrop, .engs, .conns, .bars, .hounds, .dumps, .recd, .attn, .sigq, .convq, .flash, .pairs, .emitted]) (.engineEntryTake e) s := by
  have hL : (Foot.whole [.regs, .mem, .errs, .lpErr, .chUe, .host, .store, .acc, .anchors, .pend, .ctxs, .arrs, .parts, .health, .leash, .trigs, .log, .recUsed, .recDrop, .engs, .conns, .bars, .hounds, .dumps, .recd, .attn, .sigq, .convq, .flash, .pairs, .emitted]).le (Foot.whole [.regs, .mem, .errs, .lpErr, .chUe, .host, .store, .acc, .anchors, .pend, .ctxs, .arrs, .parts, .health, .leash, .trigs, .log, .recUsed, .recDrop, .engs, .conns, .bars, .hounds, .dumps, .recd, .attn, .sigq, .convq, .flash, .pairs, .emitted]) := Foot.le_refl
  refine framed_out w (o := execEngineEntryTake e s) rfl ?_
  unfold execEngineEntryTake
  refine ⟨_, rfl, ?_⟩
  repeat' first
    | with_reducible first
      | exact Act.nil_in
      | exact Act.skip_in
      | apply Act.cons_in
      | apply Act.seq_in
      | (apply Act.get_in; intro _)
      | (apply Act.when_in; intro _)
      | apply Act.ite_in
      | (apply Act.each_in; intro _ _)
      | (exact Act.engFault_pieces (Foot.sub hL (by decide)))
      | (exact Act.modEngs_in (Foot.has hL (by decide) _))
      | (refine Act.readLines_pieces (Foot.sub hL (by decide)) ?_ <;> intros)
      | (refine Act.readMem_pieces (Foot.sub hL (by decide)) ?_ <;> intros)
      | (exact Act.setF_in (Foot.has hL (by decide) _))
    | dsimp only
    | split

theorem frame_nop {s : State} (w : s.Wf) {e : Nat} : Framed (.whole [.regs, .mem, .errs, .lpErr, .chUe, .host, .store, .acc, .anchors, .pend, .ctxs, .arrs, .parts, .health, .leash, .trigs, .log, .recUsed, .recDrop, .engs, .conns, .bars, .hounds, .dumps, .recd, .attn, .sigq, .convq, .flash, .pairs, .emitted]) (.nop e) s := by
  have hL : (Foot.whole [.regs, .mem, .errs, .lpErr, .chUe, .host, .store, .acc, .anchors, .pend, .ctxs, .arrs, .parts, .health, .leash, .trigs, .log, .recUsed, .recDrop, .engs, .conns, .bars, .hounds, .dumps, .recd, .attn, .sigq, .convq, .flash, .pairs, .emitted]).le (Foot.whole [.regs, .mem, .errs, .lpErr, .chUe, .host, .store, .acc, .anchors, .pend, .ctxs, .arrs, .parts, .health, .leash, .trigs, .log, .recUsed, .recDrop, .engs, .conns, .bars, .hounds, .dumps, .recd, .attn, .sigq, .convq, .flash, .pairs, .emitted]) := Foot.le_refl
  refine framed_out w (o := execNop e s) rfl ?_
  unfold execNop
  refine ⟨_, rfl, ?_⟩
  repeat' first
    | with_reducible first
      | exact Act.nil_in
      | exact Act.skip_in
      | apply Act.cons_in
      | apply Act.seq_in
      | (apply Act.get_in; intro _)
      | (apply Act.when_in; intro _)
      | apply Act.ite_in
      | (apply Act.each_in; intro _ _)
      | (exact Act.entFinish_pieces (Foot.sub hL (by decide)))
    | dsimp only
    | split

theorem frame_fence {s : State} (w : s.Wf) {e : Nat} : Framed (.whole [.regs, .mem, .errs, .lpErr, .chUe, .host, .store, .acc, .anchors, .pend, .ctxs, .arrs, .parts, .health, .leash, .trigs, .log, .recUsed, .recDrop, .engs, .conns, .bars, .hounds, .dumps, .recd, .attn, .sigq, .convq, .flash, .pairs, .emitted]) (.fence e) s := by
  have hL : (Foot.whole [.regs, .mem, .errs, .lpErr, .chUe, .host, .store, .acc, .anchors, .pend, .ctxs, .arrs, .parts, .health, .leash, .trigs, .log, .recUsed, .recDrop, .engs, .conns, .bars, .hounds, .dumps, .recd, .attn, .sigq, .convq, .flash, .pairs, .emitted]).le (Foot.whole [.regs, .mem, .errs, .lpErr, .chUe, .host, .store, .acc, .anchors, .pend, .ctxs, .arrs, .parts, .health, .leash, .trigs, .log, .recUsed, .recDrop, .engs, .conns, .bars, .hounds, .dumps, .recd, .attn, .sigq, .convq, .flash, .pairs, .emitted]) := Foot.le_refl
  refine framed_out w (o := execFence e s) rfl ?_
  unfold execFence
  refine ⟨_, rfl, ?_⟩
  repeat' first
    | with_reducible first
      | exact Act.nil_in
      | exact Act.skip_in
      | apply Act.cons_in
      | apply Act.seq_in
      | (apply Act.get_in; intro _)
      | (apply Act.when_in; intro _)
      | apply Act.ite_in
      | (apply Act.each_in; intro _ _)
      | (exact Act.engStat_pieces (Foot.sub hL (by decide)))
      | (exact Act.entFinish_pieces (Foot.sub hL (by decide)))
      | (exact Act.modEngs_in (Foot.has hL (by decide) _))
    | dsimp only
    | split

theorem Act.fabOwn_pieces {F : Foot} {e : Nat} {t : EngEnt} {payload : List Byte} (hL : (Foot.whole [.regs, .mem, .errs, .lpErr, .chUe, .host, .store, .acc, .anchors, .pend, .ctxs, .arrs, .parts, .health, .leash, .trigs, .log, .recUsed, .recDrop, .engs, .conns, .bars, .hounds, .dumps, .recd, .attn, .sigq, .convq, .flash, .pairs, .emitted]).le F) : (Act.fabOwn e t payload).In F := by
  unfold Act.fabOwn
  repeat' first
    | with_reducible first
      | exact Act.nil_in
      | exact Act.skip_in
      | apply Act.cons_in
      | apply Act.seq_in
      | (apply Act.get_in; intro _)
      | (apply Act.when_in; intro _)
      | apply Act.ite_in
      | (apply Act.each_in; intro _ _)
      | (exact Act.engFault_pieces (Foot.sub hL (by decide)))
      | (exact Act.entFinish_pieces (Foot.sub hL (by decide)))
      | (refine Act.fabPerform_pieces (Foot.sub hL (by decide)) ?_ <;> intros)
      | (exact Act.fences_pieces (Foot.sub hL (by decide)))
      | (exact Act.violation_pieces (Foot.sub hL (by decide)))
      | (refine Act.writeMem_pieces (Foot.sub hL (by decide)) ?_ <;> intros)
    | dsimp only
    | split

theorem Act.fabLaunch_pieces {F : Foot} {e : Nat} {node : Nat} {t : EngEnt} {payload : List Byte} (hL : (Foot.whole [.regs, .engs, .conns, .emitted]).le F) : (Act.fabLaunch e node t payload).In F := by
  unfold Act.fabLaunch
  repeat' first
    | with_reducible first
      | exact Act.nil_in
      | exact Act.skip_in
      | apply Act.cons_in
      | apply Act.seq_in
      | (apply Act.get_in; intro _)
      | (apply Act.when_in; intro _)
      | apply Act.ite_in
      | (apply Act.each_in; intro _ _)
      | (exact Act.engStat_pieces (Foot.sub hL (by decide)))
      | (exact Act.fabSendReq_pieces (Foot.sub hL (by decide)))
      | (exact Act.fabStat_pieces (Foot.sub hL (by decide)))
      | (exact Act.modConns_in (Foot.has hL (by decide) _))
      | (exact Act.modEngs_in (Foot.has hL (by decide) _))
      | (exact Act.pmc_pieces (Foot.sub hL (by decide)))
      | (exact Act.setF_in (Foot.has hL (by decide) _))
    | dsimp only
    | split

theorem Act.fabSend_pieces {F : Foot} {e : Nat} {op : Nat} (hL : (Foot.whole [.regs, .mem, .errs, .lpErr, .chUe, .host, .store, .acc, .anchors, .pend, .ctxs, .arrs, .parts, .health, .leash, .trigs, .log, .recUsed, .recDrop, .engs, .conns, .bars, .hounds, .dumps, .recd, .attn, .sigq, .convq, .flash, .pairs, .emitted]).le F) : (Act.fabSend e op).In F := by
  unfold Act.fabSend
  repeat' first
    | with_reducible first
      | exact Act.nil_in
      | exact Act.skip_in
      | apply Act.cons_in
      | apply Act.seq_in
      | (apply Act.get_in; intro _)
      | (apply Act.when_in; intro _)
      | apply Act.ite_in
      | (apply Act.each_in; intro _ _)
      | (exact Act.engFault_pieces (Foot.sub hL (by decide)))
      | (exact Act.fabLaunch_pieces (Foot.sub hL (by decide)))
      | (exact Act.fabOwn_pieces (Foot.sub hL (by decide)))
      | (exact Act.fabSendNop_pieces (Foot.sub hL (by decide)))
      | (exact Act.modConns_in (Foot.has hL (by decide) _))
      | (refine Act.readMem_pieces (Foot.sub hL (by decide)) ?_ <;> intros)
      | (exact Act.setF_in (Foot.has hL (by decide) _))
    | dsimp only
    | split

theorem frame_load {s : State} (w : s.Wf) {e : Nat} : Framed (.whole [.regs, .mem, .errs, .lpErr, .chUe, .host, .store, .acc, .anchors, .pend, .ctxs, .arrs, .parts, .health, .leash, .trigs, .log, .recUsed, .recDrop, .engs, .conns, .bars, .hounds, .dumps, .recd, .attn, .sigq, .convq, .flash, .pairs, .emitted]) (.load e) s := by
  have hL : (Foot.whole [.regs, .mem, .errs, .lpErr, .chUe, .host, .store, .acc, .anchors, .pend, .ctxs, .arrs, .parts, .health, .leash, .trigs, .log, .recUsed, .recDrop, .engs, .conns, .bars, .hounds, .dumps, .recd, .attn, .sigq, .convq, .flash, .pairs, .emitted]).le (Foot.whole [.regs, .mem, .errs, .lpErr, .chUe, .host, .store, .acc, .anchors, .pend, .ctxs, .arrs, .parts, .health, .leash, .trigs, .log, .recUsed, .recDrop, .engs, .conns, .bars, .hounds, .dumps, .recd, .attn, .sigq, .convq, .flash, .pairs, .emitted]) := Foot.le_refl
  refine framed_out w (o := execLoad e s) rfl ?_
  unfold execLoad
  refine ⟨_, rfl, ?_⟩
  repeat' first
    | with_reducible first
      | exact Act.nil_in
      | exact Act.skip_in
      | apply Act.cons_in
      | apply Act.seq_in
      | (apply Act.get_in; intro _)
      | (apply Act.when_in; intro _)
      | apply Act.ite_in
      | (apply Act.each_in; intro _ _)
      | (exact Act.fabSend_pieces (Foot.sub hL (by decide)))
    | dsimp only
    | split

theorem frame_store {s : State} (w : s.Wf) {e : Nat} : Framed (.whole [.regs, .mem, .errs, .lpErr, .chUe, .host, .store, .acc, .anchors, .pend, .ctxs, .arrs, .parts, .health, .leash, .trigs, .log, .recUsed, .recDrop, .engs, .conns, .bars, .hounds, .dumps, .recd, .attn, .sigq, .convq, .flash, .pairs, .emitted]) (.store e) s := by
  have hL : (Foot.whole [.regs, .mem, .errs, .lpErr, .chUe, .host, .store, .acc, .anchors, .pend, .ctxs, .arrs, .parts, .health, .leash, .trigs, .log, .recUsed, .recDrop, .engs, .conns, .bars, .hounds, .dumps, .recd, .attn, .sigq, .convq, .flash, .pairs, .emitted]).le (Foot.whole [.regs, .mem, .errs, .lpErr, .chUe, .host, .store, .acc, .anchors, .pend, .ctxs, .arrs, .parts, .health, .leash, .trigs, .log, .recUsed, .recDrop, .engs, .conns, .bars, .hounds, .dumps, .recd, .attn, .sigq, .convq, .flash, .pairs, .emitted]) := Foot.le_refl
  refine framed_out w (o := execStore e s) rfl ?_
  unfold execStore
  refine ⟨_, rfl, ?_⟩
  repeat' first
    | with_reducible first
      | exact Act.nil_in
      | exact Act.skip_in
      | apply Act.cons_in
      | apply Act.seq_in
      | (apply Act.get_in; intro _)
      | (apply Act.when_in; intro _)
      | apply Act.ite_in
      | (apply Act.each_in; intro _ _)
      | (exact Act.fabSend_pieces (Foot.sub hL (by decide)))
    | dsimp only
    | split

theorem frame_flagStore {s : State} (w : s.Wf) {e : Nat} : Framed (.whole [.regs, .mem, .errs, .lpErr, .chUe, .host, .store, .acc, .anchors, .pend, .ctxs, .arrs, .parts, .health, .leash, .trigs, .log, .recUsed, .recDrop, .engs, .conns, .bars, .hounds, .dumps, .recd, .attn, .sigq, .convq, .flash, .pairs, .emitted]) (.flagStore e) s := by
  have hL : (Foot.whole [.regs, .mem, .errs, .lpErr, .chUe, .host, .store, .acc, .anchors, .pend, .ctxs, .arrs, .parts, .health, .leash, .trigs, .log, .recUsed, .recDrop, .engs, .conns, .bars, .hounds, .dumps, .recd, .attn, .sigq, .convq, .flash, .pairs, .emitted]).le (Foot.whole [.regs, .mem, .errs, .lpErr, .chUe, .host, .store, .acc, .anchors, .pend, .ctxs, .arrs, .parts, .health, .leash, .trigs, .log, .recUsed, .recDrop, .engs, .conns, .bars, .hounds, .dumps, .recd, .attn, .sigq, .convq, .flash, .pairs, .emitted]) := Foot.le_refl
  refine framed_out w (o := execFlagStore e s) rfl ?_
  unfold execFlagStore
  refine ⟨_, rfl, ?_⟩
  repeat' first
    | with_reducible first
      | exact Act.nil_in
      | exact Act.skip_in
      | apply Act.cons_in
      | apply Act.seq_in
      | (apply Act.get_in; intro _)
      | (apply Act.when_in; intro _)
      | apply Act.ite_in
      | (apply Act.each_in; intro _ _)
      | (exact Act.fabSend_pieces (Foot.sub hL (by decide)))
    | dsimp only
    | split

theorem frame_add64 {s : State} (w : s.Wf) {e : Nat} : Framed (.whole [.regs, .mem, .errs, .lpErr, .chUe, .host, .store, .acc, .anchors, .pend, .ctxs, .arrs, .parts, .health, .leash, .trigs, .log, .recUsed, .recDrop, .engs, .conns, .bars, .hounds, .dumps, .recd, .attn, .sigq, .convq, .flash, .pairs, .emitted]) (.add64 e) s := by
  have hL : (Foot.whole [.regs, .mem, .errs, .lpErr, .chUe, .host, .store, .acc, .anchors, .pend, .ctxs, .arrs, .parts, .health, .leash, .trigs, .log, .recUsed, .recDrop, .engs, .conns, .bars, .hounds, .dumps, .recd, .attn, .sigq, .convq, .flash, .pairs, .emitted]).le (Foot.whole [.regs, .mem, .errs, .lpErr, .chUe, .host, .store, .acc, .anchors, .pend, .ctxs, .arrs, .parts, .health, .leash, .trigs, .log, .recUsed, .recDrop, .engs, .conns, .bars, .hounds, .dumps, .recd, .attn, .sigq, .convq, .flash, .pairs, .emitted]) := Foot.le_refl
  refine framed_out w (o := execAdd64 e s) rfl ?_
  unfold execAdd64
  refine ⟨_, rfl, ?_⟩
  repeat' first
    | with_reducible first
      | exact Act.nil_in
      | exact Act.skip_in
      | apply Act.cons_in
      | apply Act.seq_in
      | (apply Act.get_in; intro _)
      | (apply Act.when_in; intro _)
      | apply Act.ite_in
      | (apply Act.each_in; intro _ _)
      | (exact Act.fabSend_pieces (Foot.sub hL (by decide)))
    | dsimp only
    | split

theorem frame_min64 {s : State} (w : s.Wf) {e : Nat} : Framed (.whole [.regs, .mem, .errs, .lpErr, .chUe, .host, .store, .acc, .anchors, .pend, .ctxs, .arrs, .parts, .health, .leash, .trigs, .log, .recUsed, .recDrop, .engs, .conns, .bars, .hounds, .dumps, .recd, .attn, .sigq, .convq, .flash, .pairs, .emitted]) (.min64 e) s := by
  have hL : (Foot.whole [.regs, .mem, .errs, .lpErr, .chUe, .host, .store, .acc, .anchors, .pend, .ctxs, .arrs, .parts, .health, .leash, .trigs, .log, .recUsed, .recDrop, .engs, .conns, .bars, .hounds, .dumps, .recd, .attn, .sigq, .convq, .flash, .pairs, .emitted]).le (Foot.whole [.regs, .mem, .errs, .lpErr, .chUe, .host, .store, .acc, .anchors, .pend, .ctxs, .arrs, .parts, .health, .leash, .trigs, .log, .recUsed, .recDrop, .engs, .conns, .bars, .hounds, .dumps, .recd, .attn, .sigq, .convq, .flash, .pairs, .emitted]) := Foot.le_refl
  refine framed_out w (o := execMin64 e s) rfl ?_
  unfold execMin64
  refine ⟨_, rfl, ?_⟩
  repeat' first
    | with_reducible first
      | exact Act.nil_in
      | exact Act.skip_in
      | apply Act.cons_in
      | apply Act.seq_in
      | (apply Act.get_in; intro _)
      | (apply Act.when_in; intro _)
      | apply Act.ite_in
      | (apply Act.each_in; intro _ _)
      | (exact Act.fabSend_pieces (Foot.sub hL (by decide)))
    | dsimp only
    | split

theorem frame_max64 {s : State} (w : s.Wf) {e : Nat} : Framed (.whole [.regs, .mem, .errs, .lpErr, .chUe, .host, .store, .acc, .anchors, .pend, .ctxs, .arrs, .parts, .health, .leash, .trigs, .log, .recUsed, .recDrop, .engs, .conns, .bars, .hounds, .dumps, .recd, .attn, .sigq, .convq, .flash, .pairs, .emitted]) (.max64 e) s := by
  have hL : (Foot.whole [.regs, .mem, .errs, .lpErr, .chUe, .host, .store, .acc, .anchors, .pend, .ctxs, .arrs, .parts, .health, .leash, .trigs, .log, .recUsed, .recDrop, .engs, .conns, .bars, .hounds, .dumps, .recd, .attn, .sigq, .convq, .flash, .pairs, .emitted]).le (Foot.whole [.regs, .mem, .errs, .lpErr, .chUe, .host, .store, .acc, .anchors, .pend, .ctxs, .arrs, .parts, .health, .leash, .trigs, .log, .recUsed, .recDrop, .engs, .conns, .bars, .hounds, .dumps, .recd, .attn, .sigq, .convq, .flash, .pairs, .emitted]) := Foot.le_refl
  refine framed_out w (o := execMax64 e s) rfl ?_
  unfold execMax64
  refine ⟨_, rfl, ?_⟩
  repeat' first
    | with_reducible first
      | exact Act.nil_in
      | exact Act.skip_in
      | apply Act.cons_in
      | apply Act.seq_in
      | (apply Act.get_in; intro _)
      | (apply Act.when_in; intro _)
      | apply Act.ite_in
      | (apply Act.each_in; intro _ _)
      | (exact Act.fabSend_pieces (Foot.sub hL (by decide)))
    | dsimp only
    | split

theorem frame_swap64 {s : State} (w : s.Wf) {e : Nat} : Framed (.whole [.regs, .mem, .errs, .lpErr, .chUe, .host, .store, .acc, .anchors, .pend, .ctxs, .arrs, .parts, .health, .leash, .trigs, .log, .recUsed, .recDrop, .engs, .conns, .bars, .hounds, .dumps, .recd, .attn, .sigq, .convq, .flash, .pairs, .emitted]) (.swap64 e) s := by
  have hL : (Foot.whole [.regs, .mem, .errs, .lpErr, .chUe, .host, .store, .acc, .anchors, .pend, .ctxs, .arrs, .parts, .health, .leash, .trigs, .log, .recUsed, .recDrop, .engs, .conns, .bars, .hounds, .dumps, .recd, .attn, .sigq, .convq, .flash, .pairs, .emitted]).le (Foot.whole [.regs, .mem, .errs, .lpErr, .chUe, .host, .store, .acc, .anchors, .pend, .ctxs, .arrs, .parts, .health, .leash, .trigs, .log, .recUsed, .recDrop, .engs, .conns, .bars, .hounds, .dumps, .recd, .attn, .sigq, .convq, .flash, .pairs, .emitted]) := Foot.le_refl
  refine framed_out w (o := execSwap64 e s) rfl ?_
  unfold execSwap64
  refine ⟨_, rfl, ?_⟩
  repeat' first
    | with_reducible first
      | exact Act.nil_in
      | exact Act.skip_in
      | apply Act.cons_in
      | apply Act.seq_in
      | (apply Act.get_in; intro _)
      | (apply Act.when_in; intro _)
      | apply Act.ite_in
      | (apply Act.each_in; intro _ _)
      | (exact Act.fabSend_pieces (Foot.sub hL (by decide)))
    | dsimp only
    | split

theorem frame_cas64 {s : State} (w : s.Wf) {e : Nat} : Framed (.whole [.regs, .mem, .errs, .lpErr, .chUe, .host, .store, .acc, .anchors, .pend, .ctxs, .arrs, .parts, .health, .leash, .trigs, .log, .recUsed, .recDrop, .engs, .conns, .bars, .hounds, .dumps, .recd, .attn, .sigq, .convq, .flash, .pairs, .emitted]) (.cas64 e) s := by
  have hL : (Foot.whole [.regs, .mem, .errs, .lpErr, .chUe, .host, .store, .acc, .anchors, .pend, .ctxs, .arrs, .parts, .health, .leash, .trigs, .log, .recUsed, .recDrop, .engs, .conns, .bars, .hounds, .dumps, .recd, .attn, .sigq, .convq, .flash, .pairs, .emitted]).le (Foot.whole [.regs, .mem, .errs, .lpErr, .chUe, .host, .store, .acc, .anchors, .pend, .ctxs, .arrs, .parts, .health, .leash, .trigs, .log, .recUsed, .recDrop, .engs, .conns, .bars, .hounds, .dumps, .recd, .attn, .sigq, .convq, .flash, .pairs, .emitted]) := Foot.le_refl
  refine framed_out w (o := execCas64 e s) rfl ?_
  unfold execCas64
  refine ⟨_, rfl, ?_⟩
  repeat' first
    | with_reducible first
      | exact Act.nil_in
      | exact Act.skip_in
      | apply Act.cons_in
      | apply Act.seq_in
      | (apply Act.get_in; intro _)
      | (apply Act.when_in; intro _)
      | apply Act.ite_in
      | (apply Act.each_in; intro _ _)
      | (exact Act.fabSend_pieces (Foot.sub hL (by decide)))
    | dsimp only
    | split

theorem frame_ladd128 {s : State} (w : s.Wf) {e : Nat} : Framed (.whole [.regs, .mem, .errs, .lpErr, .chUe, .host, .store, .acc, .anchors, .pend, .ctxs, .arrs, .parts, .health, .leash, .trigs, .log, .recUsed, .recDrop, .engs, .conns, .bars, .hounds, .dumps, .recd, .attn, .sigq, .convq, .flash, .pairs, .emitted]) (.ladd128 e) s := by
  have hL : (Foot.whole [.regs, .mem, .errs, .lpErr, .chUe, .host, .store, .acc, .anchors, .pend, .ctxs, .arrs, .parts, .health, .leash, .trigs, .log, .recUsed, .recDrop, .engs, .conns, .bars, .hounds, .dumps, .recd, .attn, .sigq, .convq, .flash, .pairs, .emitted]).le (Foot.whole [.regs, .mem, .errs, .lpErr, .chUe, .host, .store, .acc, .anchors, .pend, .ctxs, .arrs, .parts, .health, .leash, .trigs, .log, .recUsed, .recDrop, .engs, .conns, .bars, .hounds, .dumps, .recd, .attn, .sigq, .convq, .flash, .pairs, .emitted]) := Foot.le_refl
  refine framed_out w (o := execLadd128 e s) rfl ?_
  unfold execLadd128
  refine ⟨_, rfl, ?_⟩
  repeat' first
    | with_reducible first
      | exact Act.nil_in
      | exact Act.skip_in
      | apply Act.cons_in
      | apply Act.seq_in
      | (apply Act.get_in; intro _)
      | (apply Act.when_in; intro _)
      | apply Act.ite_in
      | (apply Act.each_in; intro _ _)
      | (exact Act.fabSend_pieces (Foot.sub hL (by decide)))
    | dsimp only
    | split

theorem Act.fabMark_pieces {F : Foot} {node : Nat} {psn : Nat} (hL : (Foot.whole [.conns]).le F) : (Act.fabMark node psn).In F := by
  unfold Act.fabMark
  repeat' first
    | with_reducible first
      | exact Act.nil_in
      | exact Act.skip_in
      | apply Act.cons_in
      | apply Act.seq_in
      | (apply Act.get_in; intro _)
      | (apply Act.when_in; intro _)
      | apply Act.ite_in
      | (apply Act.each_in; intro _ _)
      | (exact Act.modConns_in (Foot.has hL (by decide) _))
    | dsimp only
    | split

theorem Act.fabRspCum_pieces {F : Foot} {node : Nat} {cum : Nat} (hL : (Foot.whole [.conns]).le F) : (Act.fabRspCum node cum).In F := by
  unfold Act.fabRspCum
  repeat' first
    | with_reducible first
      | exact Act.nil_in
      | exact Act.skip_in
      | apply Act.cons_in
      | apply Act.seq_in
      | (apply Act.get_in; intro _)
      | (apply Act.when_in; intro _)
      | apply Act.ite_in
      | (apply Act.each_in; intro _ _)
      | (exact Act.fabReturn_pieces (Foot.sub hL (by decide)))
      | (exact Act.modConns_in (Foot.has hL (by decide) _))
    | dsimp only
    | split

theorem Act.fabServe_pieces {F : Foot} {r : FabReq} (hL : (Foot.whole [.regs, .mem, .errs, .lpErr, .chUe, .host, .store, .acc, .health, .leash, .trigs, .log, .recUsed, .recDrop, .conns, .recd, .attn, .flash, .emitted]).le F) : (Act.fabServe r).In F := by
  unfold Act.fabServe
  repeat' first
    | with_reducible first
      | exact Act.nil_in
      | exact Act.skip_in
      | apply Act.cons_in
      | apply Act.seq_in
      | (apply Act.get_in; intro _)
      | (apply Act.when_in; intro _)
      | apply Act.ite_in
      | (apply Act.each_in; intro _ _)
      | (exact Act.fabAck_pieces (Foot.sub hL (by decide)))
      | (exact Act.fabMark_pieces (Foot.sub hL (by decide)))
      | (refine Act.fabPerform_pieces (Foot.sub hL (by decide)) ?_ <;> intros)
      | (exact Act.fabReturn_pieces (Foot.sub hL (by decide)))
      | (exact Act.modConns_in (Foot.has hL (by decide) _))
    | dsimp only
    | split

theorem Act.fabDup_pieces {F : Foot} {r : FabReq} (hL : (Foot.whole [.regs, .mem, .errs, .lpErr, .chUe, .host, .store, .acc, .health, .leash, .trigs, .log, .recUsed, .recDrop, .conns, .recd, .attn, .flash, .emitted]).le F) : (Act.fabDup r).In F := by
  unfold Act.fabDup
  repeat' first
    | with_reducible first
      | exact Act.nil_in
      | exact Act.skip_in
      | apply Act.cons_in
      | apply Act.seq_in
      | (apply Act.get_in; intro _)
      | (apply Act.when_in; intro _)
      | apply Act.ite_in
      | (apply Act.each_in; intro _ _)
      | (exact Act.fabAck_pieces (Foot.sub hL (by decide)))
      | (refine Act.fabPerform_pieces (Foot.sub hL (by decide)) ?_ <;> intros)
      | (exact Act.incF_in (Foot.has hL (by decide) _))
    | dsimp only
    | split

theorem Act.fabRx_pieces {F : Foot} {crcOk : Bool} {k : Act} (hL : (Foot.whole [.regs]).le F) (hc_k : k.In F) : (Act.fabRx crcOk k).In F := by
  unfold Act.fabRx
  repeat' first
    | with_reducible first
      | exact Act.nil_in
      | exact Act.skip_in
      | apply Act.cons_in
      | apply Act.seq_in
      | (apply Act.get_in; intro _)
      | (apply Act.when_in; intro _)
      | apply Act.ite_in
      | (apply Act.each_in; intro _ _)
      | (exact Act.fabStat_pieces (Foot.sub hL (by decide)))
      | (exact Act.incF_in (Foot.has hL (by decide) _))
      | exact hc_k
    | dsimp only
    | split

theorem frame_fabricRequestRx {s : State} (w : s.Wf) {r : FabReq} : Framed (.whole [.regs, .mem, .errs, .lpErr, .chUe, .host, .store, .acc, .health, .leash, .trigs, .log, .recUsed, .recDrop, .conns, .recd, .attn, .flash, .emitted]) (.fabricRequestRx r) s := by
  have hL : (Foot.whole [.regs, .mem, .errs, .lpErr, .chUe, .host, .store, .acc, .health, .leash, .trigs, .log, .recUsed, .recDrop, .conns, .recd, .attn, .flash, .emitted]).le (Foot.whole [.regs, .mem, .errs, .lpErr, .chUe, .host, .store, .acc, .health, .leash, .trigs, .log, .recUsed, .recDrop, .conns, .recd, .attn, .flash, .emitted]) := Foot.le_refl
  refine framed_out w (o := execFabricRequestRx r s) rfl ?_
  unfold execFabricRequestRx
  refine ⟨_, rfl, ?_⟩
  repeat' first
    | with_reducible first
      | exact Act.nil_in
      | exact Act.skip_in
      | apply Act.cons_in
      | apply Act.seq_in
      | (apply Act.get_in; intro _)
      | (apply Act.when_in; intro _)
      | apply Act.ite_in
      | (apply Act.each_in; intro _ _)
      | (exact Act.fabDup_pieces (Foot.sub hL (by decide)))
      | (exact Act.fabRspCum_pieces (Foot.sub hL (by decide)))
      | (refine Act.fabRx_pieces (Foot.sub hL (by decide)) ?_ <;> intros)
      | (exact Act.fabServe_pieces (Foot.sub hL (by decide)))
      | (exact Act.fabStale_pieces (Foot.sub hL (by decide)))
      | (exact Act.incF_in (Foot.has hL (by decide) _))
      | (exact Act.modConns_in (Foot.has hL (by decide) _))
    | dsimp only
    | split

theorem frame_flagStorePerform {s : State} (w : s.Wf) {node : Nat} {psn : Nat} : Framed (.whole [.regs, .mem, .errs, .lpErr, .chUe, .host, .store, .acc, .health, .leash, .trigs, .log, .recUsed, .recDrop, .conns, .recd, .attn, .flash, .emitted]) (.flagStorePerform node psn) s := by
  have hL : (Foot.whole [.regs, .mem, .errs, .lpErr, .chUe, .host, .store, .acc, .health, .leash, .trigs, .log, .recUsed, .recDrop, .conns, .recd, .attn, .flash, .emitted]).le (Foot.whole [.regs, .mem, .errs, .lpErr, .chUe, .host, .store, .acc, .health, .leash, .trigs, .log, .recUsed, .recDrop, .conns, .recd, .attn, .flash, .emitted]) := Foot.le_refl
  refine framed_out w (o := execFlagStorePerform node psn s) rfl ?_
  unfold execFlagStorePerform
  refine ⟨_, rfl, ?_⟩
  repeat' first
    | with_reducible first
      | exact Act.nil_in
      | exact Act.skip_in
      | apply Act.cons_in
      | apply Act.seq_in
      | (apply Act.get_in; intro _)
      | (apply Act.when_in; intro _)
      | apply Act.ite_in
      | (apply Act.each_in; intro _ _)
      | (exact Act.fabServe_pieces (Foot.sub hL (by decide)))
      | (exact Act.fabStat_pieces (Foot.sub hL (by decide)))
      | (exact Act.modConns_in (Foot.has hL (by decide) _))
    | dsimp only
    | split

theorem Act.fabTimeoutReq_pieces {F : Foot} {node : Nat} {q : OutReq} (hL : (Foot.whole [.regs, .mem, .errs, .lpErr, .chUe, .host, .store, .acc, .anchors, .pend, .ctxs, .arrs, .parts, .health, .leash, .trigs, .log, .recUsed, .recDrop, .engs, .conns, .bars, .hounds, .dumps, .recd, .attn, .sigq, .convq, .flash, .pairs, .emitted]).le F) : (Act.fabTimeoutReq node q).In F := by
  unfold Act.fabTimeoutReq
  repeat' first
    | with_reducible first
      | exact Act.nil_in
      | exact Act.skip_in
      | apply Act.cons_in
      | apply Act.seq_in
      | (apply Act.get_in; intro _)
      | (apply Act.when_in; intro _)
      | apply Act.ite_in
      | (apply Act.each_in; intro _ _)
      | (exact Act.engFault_pieces (Foot.sub hL (by decide)))
      | (exact Act.entFinish_pieces (Foot.sub hL (by decide)))
      | (exact Act.incF_in (Foot.has hL (by decide) _))
      | (exact Act.modConns_in (Foot.has hL (by decide) _))
    | dsimp only
    | split

theorem Act.fabTimeoutAll_pieces {F : Foot} {node : Nat} (hL : (Foot.whole [.regs, .mem, .errs, .lpErr, .chUe, .host, .store, .acc, .anchors, .pend, .ctxs, .arrs, .parts, .health, .leash, .trigs, .log, .recUsed, .recDrop, .engs, .conns, .bars, .hounds, .dumps, .recd, .attn, .sigq, .convq, .flash, .pairs, .emitted]).le F) : (Act.fabTimeoutAll node).In F := by
  unfold Act.fabTimeoutAll
  repeat' first
    | with_reducible first
      | exact Act.nil_in
      | exact Act.skip_in
      | apply Act.cons_in
      | apply Act.seq_in
      | (apply Act.get_in; intro _)
      | (apply Act.when_in; intro _)
      | apply Act.ite_in
      | (apply Act.each_in; intro _ _)
      | (exact Act.fabTimeoutReq_pieces (Foot.sub hL (by decide)))
    | dsimp only
    | split

theorem Act.fabClose_pieces {F : Foot} {node : Nat} (hL : (Foot.whole [.engs, .conns]).le F) : (Act.fabClose node).In F := by
  unfold Act.fabClose
  repeat' first
    | with_reducible first
      | exact Act.nil_in
      | exact Act.skip_in
      | apply Act.cons_in
      | apply Act.seq_in
      | (apply Act.get_in; intro _)
      | (apply Act.when_in; intro _)
      | apply Act.ite_in
      | (apply Act.each_in; intro _ _)
      | (exact Act.fabReturn_pieces (Foot.sub hL (by decide)))
      | (exact Act.modEngs_in (Foot.has hL (by decide) _))
      | (exact Act.setConns_in (Foot.has hL (by decide) _))
    | dsimp only
    | split

theorem frame_syn {s : State} (w : s.Wf) {r : FabReq} : Framed (.whole [.regs, .mem, .errs, .lpErr, .chUe, .host, .store, .acc, .anchors, .pend, .ctxs, .arrs, .parts, .health, .leash, .trigs, .log, .recUsed, .recDrop, .engs, .conns, .bars, .hounds, .dumps, .recd, .attn, .sigq, .convq, .flash, .pairs, .emitted]) (.syn r) s := by
  have hL : (Foot.whole [.regs, .mem, .errs, .lpErr, .chUe, .host, .store, .acc, .anchors, .pend, .ctxs, .arrs, .parts, .health, .leash, .trigs, .log, .recUsed, .recDrop, .engs, .conns, .bars, .hounds, .dumps, .recd, .attn, .sigq, .convq, .flash, .pairs, .emitted]).le (Foot.whole [.regs, .mem, .errs, .lpErr, .chUe, .host, .store, .acc, .anchors, .pend, .ctxs, .arrs, .parts, .health, .leash, .trigs, .log, .recUsed, .recDrop, .engs, .conns, .bars, .hounds, .dumps, .recd, .attn, .sigq, .convq, .flash, .pairs, .emitted]) := Foot.le_refl
  refine framed_out w (o := execSyn r s) rfl ?_
  unfold execSyn
  refine ⟨_, rfl, ?_⟩
  repeat' first
    | with_reducible first
      | exact Act.nil_in
      | exact Act.skip_in
      | apply Act.cons_in
      | apply Act.seq_in
      | (apply Act.get_in; intro _)
      | (apply Act.when_in; intro _)
      | apply Act.ite_in
      | (apply Act.each_in; intro _ _)
      | (exact Act.fabAck_pieces (Foot.sub hL (by decide)))
      | (exact Act.fabClose_pieces (Foot.sub hL (by decide)))
      | (exact Act.fabNoConn_pieces (Foot.sub hL (by decide)))
      | (refine Act.fabRx_pieces (Foot.sub hL (by decide)) ?_ <;> intros)
      | (exact Act.fabTimeoutAll_pieces (Foot.sub hL (by decide)))
      | (exact Act.modConns_in (Foot.has hL (by decide) _))
    | dsimp only
    | split

theorem Act.fabRespond_pieces {F : Foot} {node : Nat} {a : FabAck} (hL : (Foot.whole [.regs, .mem, .errs, .lpErr, .chUe, .host, .store, .acc, .anchors, .pend, .ctxs, .arrs, .parts, .health, .leash, .trigs, .log, .recUsed, .recDrop, .engs, .conns, .bars, .hounds, .dumps, .recd, .attn, .sigq, .convq, .flash, .pairs, .emitted]).le F) : (Act.fabRespond node a).In F := by
  unfold Act.fabRespond
  repeat' first
    | with_reducible first
      | exact Act.nil_in
      | exact Act.skip_in
      | apply Act.cons_in
      | apply Act.seq_in
      | (apply Act.get_in; intro _)
      | (apply Act.when_in; intro _)
      | apply Act.ite_in
      | (apply Act.each_in; intro _ _)
      | (exact Act.engFault_pieces (Foot.sub hL (by decide)))
      | (exact Act.entFinish_pieces (Foot.sub hL (by decide)))
      | (exact Act.modConns_in (Foot.has hL (by decide) _))
      | (exact Act.violation_pieces (Foot.sub hL (by decide)))
      | (refine Act.writeMem_pieces (Foot.sub hL (by decide)) ?_ <;> intros)
    | dsimp only
    | split

theorem Act.fabDone_pieces {F : Foot} {node : Nat} (hL : (Foot.whole [.regs, .mem, .errs, .lpErr, .chUe, .host, .store, .acc, .anchors, .pend, .ctxs, .arrs, .parts, .health, .leash, .trigs, .log, .recUsed, .recDrop, .engs, .conns, .bars, .hounds, .dumps, .recd, .attn, .sigq, .convq, .flash, .pairs, .emitted]).le F) : (Act.fabDone node).In F := by
  unfold Act.fabDone
  repeat' first
    | with_reducible first
      | exact Act.nil_in
      | exact Act.skip_in
      | apply Act.cons_in
      | apply Act.seq_in
      | (apply Act.get_in; intro _)
      | (apply Act.when_in; intro _)
      | apply Act.ite_in
      | (apply Act.each_in; intro _ _)
      | (exact Act.entFinish_pieces (Foot.sub hL (by decide)))
      | (exact Act.modConns_in (Foot.has hL (by decide) _))
    | dsimp only
    | split

theorem Act.fabLim_pieces {F : Foot} {node : Nat} {lim : Nat} (hL : (Foot.whole [.conns]).le F) : (Act.fabLim node lim).In F := by
  unfold Act.fabLim
  repeat' first
    | with_reducible first
      | exact Act.nil_in
      | exact Act.skip_in
      | apply Act.cons_in
      | apply Act.seq_in
      | (apply Act.get_in; intro _)
      | (apply Act.when_in; intro _)
      | apply Act.ite_in
      | (apply Act.each_in; intro _ _)
      | (exact Act.modConns_in (Foot.has hL (by decide) _))
    | dsimp only
    | split

theorem frame_acknowledgement {s : State} (w : s.Wf) {a : FabAck} : Framed (.whole [.regs, .mem, .errs, .lpErr, .chUe, .host, .store, .acc, .anchors, .pend, .ctxs, .arrs, .parts, .health, .leash, .trigs, .log, .recUsed, .recDrop, .engs, .conns, .bars, .hounds, .dumps, .recd, .attn, .sigq, .convq, .flash, .pairs, .emitted]) (.acknowledgement a) s := by
  have hL : (Foot.whole [.regs, .mem, .errs, .lpErr, .chUe, .host, .store, .acc, .anchors, .pend, .ctxs, .arrs, .parts, .health, .leash, .trigs, .log, .recUsed, .recDrop, .engs, .conns, .bars, .hounds, .dumps, .recd, .attn, .sigq, .convq, .flash, .pairs, .emitted]).le (Foot.whole [.regs, .mem, .errs, .lpErr, .chUe, .host, .store, .acc, .anchors, .pend, .ctxs, .arrs, .parts, .health, .leash, .trigs, .log, .recUsed, .recDrop, .engs, .conns, .bars, .hounds, .dumps, .recd, .attn, .sigq, .convq, .flash, .pairs, .emitted]) := Foot.le_refl
  refine framed_out w (o := execAcknowledgement a s) rfl ?_
  unfold execAcknowledgement
  refine ⟨_, rfl, ?_⟩
  repeat' first
    | with_reducible first
      | exact Act.nil_in
      | exact Act.skip_in
      | apply Act.cons_in
      | apply Act.seq_in
      | (apply Act.get_in; intro _)
      | (apply Act.when_in; intro _)
      | apply Act.ite_in
      | (apply Act.each_in; intro _ _)
      | (exact Act.fabDone_pieces (Foot.sub hL (by decide)))
      | (exact Act.fabLim_pieces (Foot.sub hL (by decide)))
      | (exact Act.fabRespond_pieces (Foot.sub hL (by decide)))
      | (refine Act.fabRx_pieces (Foot.sub hL (by decide)) ?_ <;> intros)
      | (exact Act.fabStale_pieces (Foot.sub hL (by decide)))
      | (exact Act.fences_pieces (Foot.sub hL (by decide)))
      | (exact Act.modConns_in (Foot.has hL (by decide) _))
    | dsimp only
    | split

theorem frame_credit {s : State} (w : s.Wf) {node : Nat} {incarn : Nat} {lim : Nat} : Framed (.whole [.regs, .conns, .emitted]) (.credit node incarn lim) s := by
  have hL : (Foot.whole [.regs, .conns, .emitted]).le (Foot.whole [.regs, .conns, .emitted]) := Foot.le_refl
  refine framed_out w (o := execCredit node incarn lim s) rfl ?_
  unfold execCredit
  refine ⟨_, rfl, ?_⟩
  repeat' first
    | with_reducible first
      | exact Act.nil_in
      | exact Act.skip_in
      | apply Act.cons_in
      | apply Act.seq_in
      | (apply Act.get_in; intro _)
      | (apply Act.when_in; intro _)
      | apply Act.ite_in
      | (apply Act.each_in; intro _ _)
      | (exact Act.fabLim_pieces (Foot.sub hL (by decide)))
      | (refine Act.fabRx_pieces (Foot.sub hL (by decide)) ?_ <;> intros)
      | (exact Act.fabStale_pieces (Foot.sub hL (by decide)))
    | dsimp only
    | split

theorem frame_retransmit {s : State} (w : s.Wf) {node : Nat} {psn : Nat} : Framed (.whole [.regs, .conns, .emitted]) (.retransmit node psn) s := by
  have hL : (Foot.whole [.regs, .conns, .emitted]).le (Foot.whole [.regs, .conns, .emitted]) := Foot.le_refl
  refine framed_out w (o := execRetransmit node psn s) rfl ?_
  unfold execRetransmit
  refine ⟨_, rfl, ?_⟩
  repeat' first
    | with_reducible first
      | exact Act.nil_in
      | exact Act.skip_in
      | apply Act.cons_in
      | apply Act.seq_in
      | (apply Act.get_in; intro _)
      | (apply Act.when_in; intro _)
      | apply Act.ite_in
      | (apply Act.each_in; intro _ _)
      | (exact Act.fabSendNop_pieces (Foot.sub hL (by decide)))
      | (exact Act.fabSendReq_pieces (Foot.sub hL (by decide)))
      | (exact Act.incF_in (Foot.has hL (by decide) _))
      | (exact Act.modConns_in (Foot.has hL (by decide) _))
      | (exact Act.pmc_pieces (Foot.sub hL (by decide)))
    | dsimp only
    | split

theorem frame_nopKeepalive {s : State} (w : s.Wf) {node : Nat} : Framed (.whole [.emitted]) (.nopKeepalive node) s := by
  have hL : (Foot.whole [.emitted]).le (Foot.whole [.emitted]) := Foot.le_refl
  refine framed_out w (o := execNopKeepalive node s) rfl ?_
  unfold execNopKeepalive
  refine ⟨_, rfl, ?_⟩
  repeat' first
    | with_reducible first
      | exact Act.nil_in
      | exact Act.skip_in
      | apply Act.cons_in
      | apply Act.seq_in
      | (apply Act.get_in; intro _)
      | (apply Act.when_in; intro _)
      | apply Act.ite_in
      | (apply Act.each_in; intro _ _)
      | (exact Act.fabSendNop_pieces (Foot.sub hL (by decide)))
    | dsimp only
    | split

theorem frame_fabricTimeout {s : State} (w : s.Wf) {node : Nat} {psn : Nat} : Framed (.whole [.regs, .mem, .errs, .lpErr, .chUe, .host, .store, .acc, .anchors, .pend, .ctxs, .arrs, .parts, .health, .leash, .trigs, .log, .recUsed, .recDrop, .engs, .conns, .bars, .hounds, .dumps, .recd, .attn, .sigq, .convq, .flash, .pairs, .emitted]) (.fabricTimeout node psn) s := by
  have hL : (Foot.whole [.regs, .mem, .errs, .lpErr, .chUe, .host, .store, .acc, .anchors, .pend, .ctxs, .arrs, .parts, .health, .leash, .trigs, .log, .recUsed, .recDrop, .engs, .conns, .bars, .hounds, .dumps, .recd, .attn, .sigq, .convq, .flash, .pairs, .emitted]).le (Foot.whole [.regs, .mem, .errs, .lpErr, .chUe, .host, .store, .acc, .anchors, .pend, .ctxs, .arrs, .parts, .health, .leash, .trigs, .log, .recUsed, .recDrop, .engs, .conns, .bars, .hounds, .dumps, .recd, .attn, .sigq, .convq, .flash, .pairs, .emitted]) := Foot.le_refl
  refine framed_out w (o := execFabricTimeout node psn s) rfl ?_
  unfold execFabricTimeout
  refine ⟨_, rfl, ?_⟩
  repeat' first
    | with_reducible first
      | exact Act.nil_in
      | exact Act.skip_in
      | apply Act.cons_in
      | apply Act.seq_in
      | (apply Act.get_in; intro _)
      | (apply Act.when_in; intro _)
      | apply Act.ite_in
      | (apply Act.each_in; intro _ _)
      | (exact Act.fabStat_pieces (Foot.sub hL (by decide)))
      | (exact Act.fabTimeoutReq_pieces (Foot.sub hL (by decide)))
      | (exact Act.fences_pieces (Foot.sub hL (by decide)))
    | dsimp only
    | split

theorem frame_connectionIdleClose {s : State} (w : s.Wf) {node : Nat} : Framed (.whole [.regs, .mem, .errs, .lpErr, .chUe, .host, .store, .acc, .anchors, .pend, .ctxs, .arrs, .parts, .health, .leash, .trigs, .log, .recUsed, .recDrop, .engs, .conns, .bars, .hounds, .dumps, .recd, .attn, .sigq, .convq, .flash, .pairs, .emitted]) (.connectionIdleClose node) s := by
  have hL : (Foot.whole [.regs, .mem, .errs, .lpErr, .chUe, .host, .store, .acc, .anchors, .pend, .ctxs, .arrs, .parts, .health, .leash, .trigs, .log, .recUsed, .recDrop, .engs, .conns, .bars, .hounds, .dumps, .recd, .attn, .sigq, .convq, .flash, .pairs, .emitted]).le (Foot.whole [.regs, .mem, .errs, .lpErr, .chUe, .host, .store, .acc, .anchors, .pend, .ctxs, .arrs, .parts, .health, .leash, .trigs, .log, .recUsed, .recDrop, .engs, .conns, .bars, .hounds, .dumps, .recd, .attn, .sigq, .convq, .flash, .pairs, .emitted]) := Foot.le_refl
  refine framed_out w (o := execConnectionIdleClose node s) rfl ?_
  unfold execConnectionIdleClose
  refine ⟨_, rfl, ?_⟩
  repeat' first
    | with_reducible first
      | exact Act.nil_in
      | exact Act.skip_in
      | apply Act.cons_in
      | apply Act.seq_in
      | (apply Act.get_in; intro _)
      | (apply Act.when_in; intro _)
      | apply Act.ite_in
      | (apply Act.each_in; intro _ _)
      | (exact Act.fabClose_pieces (Foot.sub hL (by decide)))
      | (exact Act.fabStat_pieces (Foot.sub hL (by decide)))
      | (exact Act.fences_pieces (Foot.sub hL (by decide)))
    | dsimp only
    | split

theorem frame_creditReturn {s : State} (w : s.Wf) {node : Nat} : Framed (.whole [.conns, .emitted]) (.creditReturn node) s := by
  have hL : (Foot.whole [.conns, .emitted]).le (Foot.whole [.conns, .emitted]) := Foot.le_refl
  refine framed_out w (o := execCreditReturn node s) rfl ?_
  unfold execCreditReturn
  refine ⟨_, rfl, ?_⟩
  repeat' first
    | with_reducible first
      | exact Act.nil_in
      | exact Act.skip_in
      | apply Act.cons_in
      | apply Act.seq_in
      | (apply Act.get_in; intro _)
      | (apply Act.when_in; intro _)
      | apply Act.ite_in
      | (apply Act.each_in; intro _ _)
      | (exact Act.fabFrame_pieces (Foot.sub hL (by decide)))
      | (exact Act.modConns_in (Foot.has hL (by decide) _))
    | dsimp only
    | split

theorem Act.rgnWrite_pieces {F : Foot} {r : Nat} {word : Nat} {v : Word} (hL : (Foot.whole [.regs]).le F) : (Act.rgnWrite r word v).In F := by
  unfold Act.rgnWrite
  repeat' first
    | with_reducible first
      | exact Act.nil_in
      | exact Act.skip_in
      | apply Act.cons_in
      | apply Act.seq_in
      | (apply Act.get_in; intro _)
      | (apply Act.when_in; intro _)
      | apply Act.ite_in
      | (apply Act.each_in; intro _ _)
      | (exact Act.incF_in (Foot.has hL (by decide) _))
      | (exact Act.setF_in (Foot.has hL (by decide) _))
    | dsimp only
    | split

theorem frame_regionDescriptorWrite {s : State} (w : s.Wf) {who : Nat} {region : Nat} {word : Nat} {val : Word} : Framed (.whole [.regs, .host, .leash, .trigs, .log, .recUsed, .recDrop, .recd, .attn, .emitted]) (.regionDescriptorWrite who region word val) s := by
  have hL : (Foot.whole [.regs, .host, .leash, .trigs, .log, .recUsed, .recDrop, .recd, .attn, .emitted]).le (Foot.whole [.regs, .host, .leash, .trigs, .log, .recUsed, .recDrop, .recd, .attn, .emitted]) := Foot.le_refl
  refine framed_out w (o := execRegionDescriptorWrite who region word val s) rfl ?_
  unfold execRegionDescriptorWrite
  refine ⟨_, rfl, ?_⟩
  repeat' first
    | with_reducible first
      | exact Act.nil_in
      | exact Act.skip_in
      | apply Act.cons_in
      | apply Act.seq_in
      | (apply Act.get_in; intro _)
      | (apply Act.when_in; intro _)
      | apply Act.ite_in
      | (apply Act.each_in; intro _ _)
      | (exact Act.rgnWrite_pieces (Foot.sub hL (by decide)))
      | (exact Act.violation_pieces (Foot.sub hL (by decide)))
    | dsimp only
    | split

end Sys2Proof.Machine
end

