-- ==== Sys2Proof/Laws/PiecesBarrier.lean ====
section
/-! SUPPORT. The pieces of state that the operations of Machine/Barrier.lean can write, and the frames of its commands. -/

set_option linter.unusedSimpArgs false

namespace Sys2Proof.Machine

theorem Act.barPacket_pieces {F : Foot} {node : Nat} {barId : Nat} {kind : Nat} {t1 : Nat} {t2 : Nat} {t3 : Nat} {tRel : Nat} (hL : (Foot.whole [.emitted]).le F) : (Act.barPacket node barId kind t1 t2 t3 tRel).In F := by
  unfold Act.barPacket
  repeat' first
    | with_reducible first
      | exact Act.nil_in
      | exact Act.skip_in
      | apply Act.cons_in
      | apply Act.seq_in
      | (apply Act.get_in; intro _)
      | (apply Act.when_in; intro _)
      | apply Act.ite_in
      | (apply Act.each_in; intro _ _)
      | (exact Act.fabFrame_pieces (Foot.sub hL (by decide)))
    | dsimp only
    | split

theorem Act.barArrive_pieces {F : Foot} {p : Nat} (hL : (Foot.whole [.emitted]).le F) : (Act.barArrive p).In F := by
  unfold Act.barArrive
  repeat' first
    | with_reducible first
      | exact Act.nil_in
      | exact Act.skip_in
      | apply Act.cons_in
      | apply Act.seq_in
      | (apply Act.get_in; intro _)
      | (apply Act.when_in; intro _)
      | apply Act.ite_in
      | (apply Act.each_in; intro _ _)
      | (exact Act.barPacket_pieces (Foot.sub hL (by decide)))
    | dsimp only
    | split

theorem Act.barReleaseTo_pieces {F : Foot} {barId : Nat} {tRel : Nat} {a : ArriveSt} (hL : (Foot.whole [.emitted]).le F) : (Act.barReleaseTo barId tRel a).In F := by
  unfold Act.barReleaseTo
  repeat' first
    | with_reducible first
      | exact Act.nil_in
      | exact Act.skip_in
      | apply Act.cons_in
      | apply Act.seq_in
      | (apply Act.get_in; intro _)
      | (apply Act.when_in; intro _)
      | apply Act.ite_in
      | (apply Act.each_in; intro _ _)
      | (exact Act.barPacket_pieces (Foot.sub hL (by decide)))
    | dsimp only
    | split

theorem Act.barKnown_pieces {F : Foot} {p : Nat} {at_ : Nat} (hL : (Foot.whole [.regs, .mem, .errs, .lpErr, .chUe, .host, .store, .acc, .anchors, .pend, .ctxs, .arrs, .parts, .health, .leash, .trigs, .log, .recUsed, .recDrop, .engs, .conns, .bars, .hounds, .dumps, .recd, .attn, .sigq, .convq, .flash, .pairs, .emitted]).le F) : (Act.barKnown p at_).In F := by
  unfold Act.barKnown
  repeat' first
    | with_reducible first
      | exact Act.nil_in
      | exact Act.skip_in
      | apply Act.cons_in
      | apply Act.seq_in
      | (apply Act.get_in; intro _)
      | (apply Act.when_in; intro _)
      | apply Act.ite_in
      | (apply Act.each_in; intro _ _)
      | (refine Act.atomicAt_pieces (Foot.sub hL (by decide)) ?_ <;> intros)
      | (exact Act.incF_in (Foot.has hL (by decide) _))
      | (exact Act.modBars_in (Foot.has hL (by decide) _))
      | (exact Act.signal_pieces (Foot.sub hL (by decide)))
      | (exact Act.sliceFault_pieces (Foot.sub hL (by decide)))
    | dsimp only
    | split

theorem Act.barTryRelease_pieces {F : Foot} {p : Nat} (hL : (Foot.whole [.regs, .mem, .errs, .lpErr, .chUe, .host, .store, .acc, .anchors, .pend, .ctxs, .arrs, .parts, .health, .leash, .trigs, .log, .recUsed, .recDrop, .engs, .conns, .bars, .hounds, .dumps, .recd, .attn, .sigq, .convq, .flash, .arrives, .pairs, .emitted]).le F) : (Act.barTryRelease p).In F := by
  unfold Act.barTryRelease
  repeat' first
    | with_reducible first
      | exact Act.nil_in
      | exact Act.skip_in
      | apply Act.cons_in
      | apply Act.seq_in
      | (apply Act.get_in; intro _)
      | (apply Act.when_in; intro _)
      | apply Act.ite_in
      | (apply Act.each_in; intro _ _)
      | (exact Act.barKnown_pieces (Foot.sub hL (by decide)))
      | (exact Act.barReleaseTo_pieces (Foot.sub hL (by decide)))
      | (exact Act.modArrives_in fun k => Foot.has hL (by decide) k)
      | (exact Act.modBars_in (Foot.has hL (by decide) _))
    | dsimp only
    | split

theorem Act.doLaunchBarrier_pieces {F : Foot} {j : JCmd} (hL : (Foot.whole [.regs, .mem, .errs, .lpErr, .chUe, .host, .store, .acc, .anchors, .pend, .ctxs, .arrs, .parts, .health, .leash, .trigs, .log, .recUsed, .recDrop, .engs, .conns, .bars, .hounds, .dumps, .recd, .attn, .sigq, .convq, .flash, .arrives, .pairs, .emitted]).le F) : (Act.doLaunchBarrier j).In F := by
  unfold Act.doLaunchBarrier
  repeat' first
    | with_reducible first
      | exact Act.nil_in
      | exact Act.skip_in
      | apply Act.cons_in
      | apply Act.seq_in
      | (apply Act.get_in; intro _)
      | (apply Act.when_in; intro _)
      | apply Act.ite_in
      | (apply Act.each_in; intro _ _)
      | (exact Act.barArrive_pieces (Foot.sub hL (by decide)))
      | (exact Act.barKnown_pieces (Foot.sub hL (by decide)))
      | (exact Act.barTryRelease_pieces (Foot.sub hL (by decide)))
      | (refine Act.checks_pieces (Foot.sub hL (by decide)) ?_ <;> intros)
      | (refine Act.launch_pieces (Foot.sub hL (by decide)) ?_ <;> intros)
      | (exact Act.setBars_in (Foot.has hL (by decide) _))
      | (exact Act.setF_in (Foot.has hL (by decide) _))
    | dsimp only
    | split

theorem frame_launchBarrier {s : State} (w : s.Wf) {mb : Nat} : Framed (.whole [.regs, .mem, .errs, .lpErr, .chUe, .host, .store, .acc, .anchors, .pend, .ctxs, .arrs, .parts, .health, .leash, .trigs, .log, .recUsed, .recDrop, .engs, .conns, .bars, .hounds, .dumps, .recd, .attn, .sigq, .convq, .flash, .arrives, .pairs, .emitted]) (.launchBarrier mb) s := by
  have hL : (Foot.whole [.regs, .mem, .errs, .lpErr, .chUe, .host, .store, .acc, .anchors, .pend, .ctxs, .arrs, .parts, .health, .leash, .trigs, .log, .recUsed, .recDrop, .engs, .conns, .bars, .hounds, .dumps, .recd, .attn, .sigq, .convq, .flash, .arrives, .pairs, .emitted]).le (Foot.whole [.regs, .mem, .errs, .lpErr, .chUe, .host, .store, .acc, .anchors, .pend, .ctxs, .arrs, .parts, .health, .leash, .trigs, .log, .recUsed, .recDrop, .engs, .conns, .bars, .hounds, .dumps, .recd, .attn, .sigq, .convq, .flash, .arrives, .pairs, .emitted]) := Foot.le_refl
  refine framed_out w (o := execLaunchBarrier mb s) rfl ?_
  unfold execLaunchBarrier
  refine ⟨_, rfl, ?_⟩
  repeat' first
    | with_reducible first
      | exact Act.nil_in
      | exact Act.skip_in
      | apply Act.cons_in
      | apply Act.seq_in
      | (apply Act.get_in; intro _)
      | (apply Act.when_in; intro _)
      | apply Act.ite_in
      | (apply Act.each_in; intro _ _)
      | (exact Act.doLaunchBarrier_pieces (Foot.sub hL (by decide)))
      | (refine Act.mbRun_pieces (Foot.sub hL (by decide)) ?_ <;> intros)
    | dsimp only
    | split

theorem frame_arrive {s : State} (w : s.Wf) {barId : Nat} {node : Nat} {t1 : Word} {t2 : Word} : Framed (.whole [.regs, .mem, .errs, .lpErr, .chUe, .host, .store, .acc, .anchors, .pend, .ctxs, .arrs, .parts, .health, .leash, .trigs, .log, .recUsed, .recDrop, .engs, .conns, .bars, .hounds, .dumps, .recd, .attn, .sigq, .convq, .flash, .arrives, .pairs, .emitted]) (.arrive barId node t1 t2) s := by
  have hL : (Foot.whole [.regs, .mem, .errs, .lpErr, .chUe, .host, .store, .acc, .anchors, .pend, .ctxs, .arrs, .parts, .health, .leash, .trigs, .log, .recUsed, .recDrop, .engs, .conns, .bars, .hounds, .dumps, .recd, .attn, .sigq, .convq, .flash, .arrives, .pairs, .emitted]).le (Foot.whole [.regs, .mem, .errs, .lpErr, .chUe, .host, .store, .acc, .anchors, .pend, .ctxs, .arrs, .parts, .health, .leash, .trigs, .log, .recUsed, .recDrop, .engs, .conns, .bars, .hounds, .dumps, .recd, .attn, .sigq, .convq, .flash, .arrives, .pairs, .emitted]) := Foot.le_refl
  refine framed_out w (o := execArrive barId node t1 t2 s) rfl ?_
  unfold execArrive
  refine ⟨_, rfl, ?_⟩
  repeat' first
    | with_reducible first
      | exact Act.nil_in
      | exact Act.skip_in
      | apply Act.cons_in
      | apply Act.seq_in
      | (apply Act.get_in; intro _)
      | (apply Act.when_in; intro _)
      | apply Act.ite_in
      | (apply Act.each_in; intro _ _)
      | (exact Act.barReleaseTo_pieces (Foot.sub hL (by decide)))
      | (exact Act.barTryRelease_pieces (Foot.sub hL (by decide)))
      | (exact Act.setArrives_in fun k => Foot.has hL (by decide) k)
    | dsimp only
    | split

theorem frame_release {s : State} (w : s.Wf) {barId : Nat} {node : Nat} {t1 : Word} {t2 : Word} {t3 : Word} {t4 : Word} {tRel : Word} : Framed (.whole [.regs, .mem, .errs, .lpErr, .chUe, .host, .store, .acc, .anchors, .pend, .ctxs, .arrs, .parts, .health, .leash, .trigs, .log, .recUsed, .recDrop, .engs, .conns, .bars, .hounds, .dumps, .recd, .attn, .sigq, .convq, .flash, .pairs, .emitted]) (.release barId node t1 t2 t3 t4 tRel) s := by
  have hL : (Foot.whole [.regs, .mem, .errs, .lpErr, .chUe, .host, .store, .acc, .anchors, .pend, .ctxs, .arrs, .parts, .health, .leash, .trigs, .log, .recUsed, .recDrop, .engs, .conns, .bars, .hounds, .dumps, .recd, .attn, .sigq, .convq, .flash, .pairs, .emitted]).le (Foot.whole [.regs, .mem, .errs, .lpErr, .chUe, .host, .store, .acc, .anchors, .pend, .ctxs, .arrs, .parts, .health, .leash, .trigs, .log, .recUsed, .recDrop, .engs, .conns, .bars, .hounds, .dumps, .recd, .attn, .sigq, .convq, .flash, .pairs, .emitted]) := Foot.le_refl
  refine framed_out w (o := execRelease barId node t1 t2 t3 t4 tRel s) rfl ?_
  unfold execRelease
  refine ⟨_, rfl, ?_⟩
  repeat' first
    | with_reducible first
      | exact Act.nil_in
      | exact Act.skip_in
      | apply Act.cons_in
      | apply Act.seq_in
      | (apply Act.get_in; intro _)
      | (apply Act.when_in; intro _)
      | apply Act.ite_in
      | (apply Act.each_in; intro _ _)
      | (exact Act.barKnown_pieces (Foot.sub hL (by decide)))
      | (exact Act.incF_in (Foot.has hL (by decide) _))
    | dsimp only
    | split

theorem frame_arriveResend {s : State} (w : s.Wf) {slice : Nat} : Framed (.whole [.emitted]) (.arriveResend slice) s := by
  have hL : (Foot.whole [.emitted]).le (Foot.whole [.emitted]) := Foot.le_refl
  refine framed_out w (o := execArriveResend slice s) rfl ?_
  unfold execArriveResend
  refine ⟨_, rfl, ?_⟩
  repeat' first
    | with_reducible first
      | exact Act.nil_in
      | exact Act.skip_in
      | apply Act.cons_in
      | apply Act.seq_in
      | (apply Act.get_in; intro _)
      | (apply Act.when_in; intro _)
      | apply Act.ite_in
      | (apply Act.each_in; intro _ _)
      | (exact Act.barArrive_pieces (Foot.sub hL (by decide)))
    | dsimp only
    | split

theorem frame_barrierOpen {s : State} (w : s.Wf) {slice : Nat} : Framed (.whole [.regs, .mem, .errs, .lpErr, .chUe, .host, .store, .acc, .anchors, .pend, .ctxs, .arrs, .parts, .health, .leash, .trigs, .log, .recUsed, .recDrop, .engs, .conns, .bars, .hounds, .dumps, .recd, .attn, .sigq, .convq, .flash, .pairs, .emitted]) (.barrierOpen slice) s := by
  have hL : (Foot.whole [.regs, .mem, .errs, .lpErr, .chUe, .host, .store, .acc, .anchors, .pend, .ctxs, .arrs, .parts, .health, .leash, .trigs, .log, .recUsed, .recDrop, .engs, .conns, .bars, .hounds, .dumps, .recd, .attn, .sigq, .convq, .flash, .pairs, .emitted]).le (Foot.whole [.regs, .mem, .errs, .lpErr, .chUe, .host, .store, .acc, .anchors, .pend, .ctxs, .arrs, .parts, .health, .leash, .trigs, .log, .recUsed, .recDrop, .engs, .conns, .bars, .hounds, .dumps, .recd, .attn, .sigq, .convq, .flash, .pairs, .emitted]) := Foot.le_refl
  refine framed_out w (o := execBarrierOpen slice s) rfl ?_
  unfold execBarrierOpen
  refine ⟨_, rfl, ?_⟩
  repeat' first
    | with_reducible first
      | exact Act.nil_in
      | exact Act.skip_in
      | apply Act.cons_in
      | apply Act.seq_in
      | (apply Act.get_in; intro _)
      | (apply Act.when_in; intro _)
      | apply Act.ite_in
      | (apply Act.each_in; intro _ _)
      | (exact Act.finish_pieces (Foot.sub hL (by decide)))
      | (exact Act.modBars_in (Foot.has hL (by decide) _))
      | (exact Act.setF_in (Foot.has hL (by decide) _))
    | dsimp only
    | split

theorem frame_barrierTimeout {s : State} (w : s.Wf) {slice : Nat} : Framed (.whole [.regs, .mem, .errs, .lpErr, .chUe, .host, .store, .acc, .anchors, .pend, .ctxs, .arrs, .parts, .health, .leash, .trigs, .log, .recUsed, .recDrop, .engs, .conns, .bars, .hounds, .dumps, .recd, .attn, .sigq, .convq, .flash, .pairs, .emitted]) (.barrierTimeout slice) s := by
  have hL : (Foot.whole [.regs, .mem, .errs, .lpErr, .chUe, .host, .store, .acc, .anchors, .pend, .ctxs, .arrs, .parts, .health, .leash, .trigs, .log, .recUsed, .recDrop, .engs, .conns, .bars, .hounds, .dumps, .recd, .attn, .sigq, .convq, .flash, .pairs, .emitted]).le (Foot.whole [.regs, .mem, .errs, .lpErr, .chUe, .host, .store, .acc, .anchors, .pend, .ctxs, .arrs, .parts, .health, .leash, .trigs, .log, .recUsed, .recDrop, .engs, .conns, .bars, .hounds, .dumps, .recd, .attn, .sigq, .convq, .flash, .pairs, .emitted]) := Foot.le_refl
  refine framed_out w (o := execBarrierTimeout slice s) rfl ?_
  unfold execBarrierTimeout
  refine ⟨_, rfl, ?_⟩
  repeat' first
    | with_reducible first
      | exact Act.nil_in
      | exact Act.skip_in
      | apply Act.cons_in
      | apply Act.seq_in
      | (apply Act.get_in; intro _)
      | (apply Act.when_in; intro _)
      | apply Act.ite_in
      | (apply Act.each_in; intro _ _)
      | (exact Act.barAbandon_pieces (Foot.sub hL (by decide)))
      | (exact Act.incF_in (Foot.has hL (by decide) _))
    | dsimp only
    | split

theorem frame_arriveHoldExpiry {s : State} (w : s.Wf) {barId : Nat} : Framed (.whole [.arrives]) (.arriveHoldExpiry barId) s := by
  have hL : (Foot.whole [.arrives]).le (Foot.whole [.arrives]) := Foot.le_refl
  refine framed_out w (o := execArriveHoldExpiry barId s) rfl ?_
  unfold execArriveHoldExpiry
  refine ⟨_, rfl, ?_⟩
  repeat' first
    | with_reducible first
      | exact Act.nil_in
      | exact Act.skip_in
      | apply Act.cons_in
      | apply Act.seq_in
      | (apply Act.get_in; intro _)
      | (apply Act.when_in; intro _)
      | apply Act.ite_in
      | (apply Act.each_in; intro _ _)
      | (exact Act.modArrives_in fun k => Foot.has hL (by decide) k)
    | dsimp only
    | split

theorem frame_houndPacketRx {s : State} (w : s.Wf) {unit : Nat} {seq : Nat} {ack : Option Nat} {recs : List HoundRec} : Framed (.whole [.regs, .host, .leash, .trigs, .log, .recUsed, .recDrop, .hounds, .recd, .attn, .emitted]) (.houndPacketRx unit seq ack recs) s := by
  have hL : (Foot.whole [.regs, .host, .leash, .trigs, .log, .recUsed, .recDrop, .hounds, .recd, .attn, .emitted]).le (Foot.whole [.regs, .host, .leash, .trigs, .log, .recUsed, .recDrop, .hounds, .recd, .attn, .emitted]) := Foot.le_refl
  refine framed_out w (o := execHoundPacketRx unit seq ack recs s) rfl ?_
  unfold execHoundPacketRx
  refine ⟨_, rfl, ?_⟩
  repeat' first
    | with_reducible first
      | exact Act.nil_in
      | exact Act.skip_in
      | apply Act.cons_in
      | apply Act.seq_in
      | (apply Act.get_in; intro _)
      | (apply Act.when_in; intro _)
      | apply Act.ite_in
      | (apply Act.each_in; intro _ _)
      | (exact Act.houndSend_pieces (Foot.sub hL (by decide)))
      | (exact Act.houndTake_pieces (Foot.sub hL (by decide)))
      | (exact Act.modHounds_in (Foot.has hL (by decide) _))
    | dsimp only
    | split

theorem frame_houndResend {s : State} (w : s.Wf) {unit : Nat} : Framed (.whole [.emitted]) (.houndResend unit) s := by
  have hL : (Foot.whole [.emitted]).le (Foot.whole [.emitted]) := Foot.le_refl
  refine framed_out w (o := execHoundResend unit s) rfl ?_
  unfold execHoundResend
  refine ⟨_, rfl, ?_⟩
  repeat' first
    | with_reducible first
      | exact Act.nil_in
      | exact Act.skip_in
      | apply Act.cons_in
      | apply Act.seq_in
      | (apply Act.get_in; intro _)
      | (apply Act.when_in; intro _)
      | apply Act.ite_in
      | (apply Act.each_in; intro _ _)
      | (exact Act.houndSend_pieces (Foot.sub hL (by decide)))
    | dsimp only
    | split

theorem Act.houndCfg_pieces {F : Foot} {h : Nat} {v : Word} (hL : (Foot.whole [.regs, .hounds]).le F) : (Act.houndCfg h v).In F := by
  unfold Act.houndCfg
  repeat' first
    | with_reducible first
      | exact Act.nil_in
      | exact Act.skip_in
      | apply Act.cons_in
      | apply Act.seq_in
      | (apply Act.get_in; intro _)
      | (apply Act.when_in; intro _)
      | apply Act.ite_in
      | (apply Act.each_in; intro _ _)
      | (exact Act.houndEnd_pieces (Foot.sub hL (by decide)))
      | (exact Act.setF_in (Foot.has hL (by decide) _))
    | dsimp only
    | split

theorem frame_houndCfgWrite {s : State} (w : s.Wf) {who : Nat} {unit : Nat} {val : Word} : Framed (.whole [.regs, .host, .leash, .trigs, .log, .recUsed, .recDrop, .hounds, .recd, .attn, .emitted]) (.houndCfgWrite who unit val) s := by
  have hL : (Foot.whole [.regs, .host, .leash, .trigs, .log, .recUsed, .recDrop, .hounds, .recd, .attn, .emitted]).le (Foot.whole [.regs, .host, .leash, .trigs, .log, .recUsed, .recDrop, .hounds, .recd, .attn, .emitted]) := Foot.le_refl
  refine framed_out w (o := execHoundCfgWrite who unit val s) rfl ?_
  unfold execHoundCfgWrite
  refine ⟨_, rfl, ?_⟩
  repeat' first
    | with_reducible first
      | exact Act.nil_in
      | exact Act.skip_in
      | apply Act.cons_in
      | apply Act.seq_in
      | (apply Act.get_in; intro _)
      | (apply Act.when_in; intro _)
      | apply Act.ite_in
      | (apply Act.each_in; intro _ _)
      | (exact Act.houndCfg_pieces (Foot.sub hL (by decide)))
      | (exact Act.violation_pieces (Foot.sub hL (by decide)))
    | dsimp only
    | split

end Sys2Proof.Machine
end

