-- ==== Sys2Proof/Laws/PiecesStartup.lean ====
section
/-! SUPPORT. The pieces of state that the operations of Machine/Startup.lean can write, and the frames of its commands. -/

set_option linter.unusedSimpArgs false

namespace Sys2Proof.Machine

theorem Act.restart_pieces {F : Foot} {cold : Bool} (hL : (Foot.whole [.regs, .mem, .errs, .lpErr, .chUe, .store, .acc, .anchors, .pend, .vreg, .ctxs, .arrs, .parts, .vecTurn, .health, .leash, .trigs, .engs, .conns, .bars, .hounds, .samp, .cells, .cjobs, .dsps, .dspMem, .dspP, .dets, .dumps, .clk, .recd, .attn, .linkOn, .failed, .lpAct0, .lpAct1, .sigq, .convq, .flash, .arrives, .held, .heldCode, .pairs, .radio, .time, .last, .sys, .emitted]).le F) : (Act.restart cold).In F := by
  unfold Act.restart
  repeat' first
    | with_reducible first
      | exact Act.nil_in
      | exact Act.skip_in
      | apply Act.cons_in
      | apply Act.seq_in
      | (apply Act.get_in; intro _)
      | (apply Act.when_in; intro _)
      | apply Act.ite_in
      | (apply Act.each_in; intro _ _)
      | (exact Act.emit_in fun k => Foot.has hL (by decide) k)
      | (exact Act.modClk_in fun k => Foot.has hL (by decide) k)
      | (exact Act.modFlash_in fun k => Foot.has hL (by decide) k)
      | (exact Act.modRecd_in fun k => Foot.has hL (by decide) k)
      | (exact Act.modSys_in fun k => Foot.has hL (by decide) k)
      | (exact Act.setF_in (Foot.has hL (by decide) _))
      | (exact Act.toReset_pieces (Foot.sub hL (by decide)))
    | dsimp only
    | split

theorem Act.recoveryWait_pieces {F : Foot} {cause : Nat} (hL : (Foot.whole [.regs, .mem, .errs, .lpErr, .chUe, .store, .acc, .anchors, .pend, .vreg, .ctxs, .arrs, .parts, .vecTurn, .health, .leash, .trigs, .engs, .conns, .bars, .hounds, .samp, .cells, .cjobs, .dsps, .dspMem, .dspP, .dets, .dumps, .clk, .recd, .attn, .linkOn, .failed, .lpAct0, .lpAct1, .sigq, .convq, .flash, .arrives, .held, .heldCode, .pairs, .radio, .time, .last, .sys, .emitted]).le F) : (Act.recoveryWait cause).In F := by
  unfold Act.recoveryWait
  repeat' first
    | with_reducible first
      | exact Act.nil_in
      | exact Act.skip_in
      | apply Act.cons_in
      | apply Act.seq_in
      | (apply Act.get_in; intro _)
      | (apply Act.when_in; intro _)
      | apply Act.ite_in
      | (apply Act.each_in; intro _ _)
      | (exact Act.modSys_in fun k => Foot.has hL (by decide) k)
      | (exact Act.mrExtend_pieces (Foot.sub hL (by decide)))
      | (exact Act.restart_pieces (Foot.sub hL (by decide)))
      | (exact Act.setF_in (Foot.has hL (by decide) _))
    | dsimp only
    | split

theorem Act.imageFails_pieces {F : Foot} {cause : Nat} (hL : (Foot.whole [.regs, .mem, .errs, .lpErr, .chUe, .store, .acc, .anchors, .pend, .vreg, .ctxs, .arrs, .parts, .vecTurn, .health, .leash, .trigs, .engs, .conns, .bars, .hounds, .samp, .cells, .cjobs, .dsps, .dspMem, .dspP, .dets, .dumps, .clk, .recd, .attn, .linkOn, .failed, .lpAct0, .lpAct1, .sigq, .convq, .flash, .arrives, .held, .heldCode, .pairs, .radio, .time, .last, .sys, .emitted]).le F) : (Act.imageFails cause).In F := by
  unfold Act.imageFails
  repeat' first
    | with_reducible first
      | exact Act.nil_in
      | exact Act.skip_in
      | apply Act.cons_in
      | apply Act.seq_in
      | (apply Act.get_in; intro _)
      | (apply Act.when_in; intro _)
      | apply Act.ite_in
      | (apply Act.each_in; intro _ _)
      | (exact Act.recoveryWait_pieces (Foot.sub hL (by decide)))
    | dsimp only
    | split

theorem Act.debugSample_pieces {F : Foot} {req : Option (List Byte)} (hL : (Foot.whole [.regs]).le F) : (Act.debugSample req).In F := by
  unfold Act.debugSample
  repeat' first
    | with_reducible first
      | exact Act.nil_in
      | exact Act.skip_in
      | apply Act.cons_in
      | apply Act.seq_in
      | (apply Act.get_in; intro _)
      | (apply Act.when_in; intro _)
      | apply Act.ite_in
      | (apply Act.each_in; intro _ _)
      | (exact Act.incF_in (Foot.has hL (by decide) _))
      | (exact Act.mrExtend_pieces (Foot.sub hL (by decide)))
      | (exact Act.setF_in (Foot.has hL (by decide) _))
    | dsimp only
    | split

theorem Act.bootRom_pieces {F : Foot} {r : StartReport} {b : List Byte} {rec_ : Bool} (hL : (Foot.whole [.regs, .sys]).le F) : (Act.bootRom r b rec_).In F := by
  unfold Act.bootRom
  repeat' first
    | with_reducible first
      | exact Act.nil_in
      | exact Act.skip_in
      | apply Act.cons_in
      | apply Act.seq_in
      | (apply Act.get_in; intro _)
      | (apply Act.when_in; intro _)
      | apply Act.ite_in
      | (apply Act.each_in; intro _ _)
      | (exact Act.debugSample_pieces (Foot.sub hL (by decide)))
      | (exact Act.modSys_in fun k => Foot.has hL (by decide) k)
      | (exact Act.mrExtend_pieces (Foot.sub hL (by decide)))
      | (exact Act.setF_in (Foot.has hL (by decide) _))
    | dsimp only
    | split

theorem Act.boot_pieces {F : Foot} {r : StartReport} (hL : (Foot.whole [.regs, .mem, .errs, .lpErr, .chUe, .store, .acc, .anchors, .pend, .vreg, .ctxs, .arrs, .parts, .vecTurn, .health, .leash, .trigs, .engs, .conns, .bars, .hounds, .samp, .cells, .cjobs, .dsps, .dspMem, .dspP, .dets, .dumps, .clk, .recd, .attn, .linkOn, .failed, .lpAct0, .lpAct1, .sigq, .convq, .flash, .arrives, .held, .heldCode, .pairs, .radio, .time, .last, .sys, .emitted]).le F) : (Act.boot r).In F := by
  unfold Act.boot
  repeat' first
    | with_reducible first
      | exact Act.nil_in
      | exact Act.skip_in
      | apply Act.cons_in
      | apply Act.seq_in
      | (apply Act.get_in; intro _)
      | (apply Act.when_in; intro _)
      | apply Act.ite_in
      | (apply Act.each_in; intro _ _)
      | (exact Act.bootRom_pieces (Foot.sub hL (by decide)))
      | (exact Act.recoveryWait_pieces (Foot.sub hL (by decide)))
    | dsimp only
    | split

theorem Act.cobbler_pieces {F : Foot} (hL : (Foot.whole [.regs, .dets, .sys]).le F) : (Act.cobbler).In F := by
  unfold Act.cobbler
  repeat' first
    | with_reducible first
      | exact Act.nil_in
      | exact Act.skip_in
      | apply Act.cons_in
      | apply Act.seq_in
      | (apply Act.get_in; intro _)
      | (apply Act.when_in; intro _)
      | apply Act.ite_in
      | (apply Act.each_in; intro _ _)
      | (exact Act.modSys_in fun k => Foot.has hL (by decide) k)
      | (exact Act.setDets_in (Foot.has hL (by decide) _))
      | (exact Act.setF_in (Foot.has hL (by decide) _))
      | (exact Act.setRegs_in (Foot.has hL (by decide) _))
    | dsimp only
    | split

theorem Act.startFailure_pieces {F : Foot} {unit : Nat} {cause : Nat} (hL : (Foot.whole [.regs, .host, .leash, .trigs, .log, .recUsed, .recDrop, .recd, .attn, .sys, .emitted]).le F) : (Act.startFailure unit cause).In F := by
  unfold Act.startFailure
  repeat' first
    | with_reducible first
      | exact Act.nil_in
      | exact Act.skip_in
      | apply Act.cons_in
      | apply Act.seq_in
      | (apply Act.get_in; intro _)
      | (apply Act.when_in; intro _)
      | apply Act.ite_in
      | (apply Act.each_in; intro _ _)
      | (exact Act.modSys_in fun k => Foot.has hL (by decide) k)
      | (exact Act.record_pieces (Foot.sub hL (by decide)))
    | dsimp only
    | split

theorem Act.training_pieces {F : Foot} {r : StartReport} (hL : (Foot.whole [.regs, .host, .leash, .trigs, .log, .recUsed, .recDrop, .recd, .attn, .lpAct0, .lpAct1, .flash, .sys, .emitted]).le F) : (Act.training r).In F := by
  unfold Act.training
  repeat' first
    | with_reducible first
      | exact Act.nil_in
      | exact Act.skip_in
      | apply Act.cons_in
      | apply Act.seq_in
      | (apply Act.get_in; intro _)
      | (apply Act.when_in; intro _)
      | apply Act.ite_in
      | (apply Act.each_in; intro _ _)
      | (exact Act.healthFailed_pieces (Foot.sub hL (by decide)))
      | (exact Act.retireBit_pieces (Foot.sub hL (by decide)))
      | (exact Act.setF_in (Foot.has hL (by decide) _))
      | (exact Act.setLpAct0_in fun k => Foot.has hL (by decide) k)
      | (exact Act.setLpAct1_in fun k => Foot.has hL (by decide) k)
      | (exact Act.startFailure_pieces (Foot.sub hL (by decide)))
    | dsimp only
    | split

theorem Act.selfTests_pieces {F : Foot} {r : StartReport} (hL : (Foot.whole [.regs, .host, .leash, .trigs, .log, .recUsed, .recDrop, .recd, .attn, .flash, .sys, .emitted]).le F) : (Act.selfTests r).In F := by
  unfold Act.selfTests
  repeat' first
    | with_reducible first
      | exact Act.nil_in
      | exact Act.skip_in
      | apply Act.cons_in
      | apply Act.seq_in
      | (apply Act.get_in; intro _)
      | (apply Act.when_in; intro _)
      | apply Act.ite_in
      | (apply Act.each_in; intro _ _)
      | (exact Act.arrayPend_pieces (Foot.sub hL (by decide)))
      | (exact Act.healthFailed_pieces (Foot.sub hL (by decide)))
      | (exact Act.retireBit_pieces (Foot.sub hL (by decide)))
      | (exact Act.setF_in (Foot.has hL (by decide) _))
      | (exact Act.startFailure_pieces (Foot.sub hL (by decide)))
    | dsimp only
    | split

theorem Act.settleStart_pieces {F : Foot} {r : StartReport} (hL : (Foot.whole [.regs, .parts, .radio]).le F) : (Act.settleStart r).In F := by
  unfold Act.settleStart
  repeat' first
    | with_reducible first
      | exact Act.nil_in
      | exact Act.skip_in
      | apply Act.cons_in
      | apply Act.seq_in
      | (apply Act.get_in; intro _)
      | (apply Act.when_in; intro _)
      | apply Act.ite_in
      | (apply Act.each_in; intro _ _)
      | (exact Act.kenStat_pieces (Foot.sub hL (by decide)))
      | (exact Act.modF_in (Foot.has hL (by decide) _))
      | (exact Act.modParts_in (Foot.has hL (by decide) _))
      | (exact Act.modRadio_in fun k => Foot.has hL (by decide) k)
      | (exact Act.setF_in (Foot.has hL (by decide) _))
    | dsimp only
    | split

theorem Act.startRecords_pieces {F : Foot} (hL : (Foot.whole [.regs, .host, .leash, .trigs, .log, .recUsed, .recDrop, .recd, .attn, .sys, .emitted]).le F) : (Act.startRecords).In F := by
  unfold Act.startRecords
  repeat' first
    | with_reducible first
      | exact Act.nil_in
      | exact Act.skip_in
      | apply Act.cons_in
      | apply Act.seq_in
      | (apply Act.get_in; intro _)
      | (apply Act.when_in; intro _)
      | apply Act.ite_in
      | (apply Act.each_in; intro _ _)
      | (exact Act.modSys_in fun k => Foot.has hL (by decide) k)
      | (exact Act.recErased_pieces (Foot.sub hL (by decide)))
      | (exact Act.record_pieces (Foot.sub hL (by decide)))
    | dsimp only
    | split

theorem Act.bringUp_pieces {F : Foot} (hL : (Foot.whole [.regs, .mem, .errs, .lpErr, .chUe, .host, .store, .acc, .parts, .health, .leash, .trigs, .log, .recUsed, .recDrop, .dets, .clk, .recd, .attn, .failed, .lpAct0, .lpAct1, .flash, .radio, .sys, .emitted]).le F) : (Act.bringUp).In F := by
  unfold Act.bringUp
  repeat' first
    | with_reducible first
      | exact Act.nil_in
      | exact Act.skip_in
      | apply Act.cons_in
      | apply Act.seq_in
      | (apply Act.get_in; intro _)
      | (apply Act.when_in; intro _)
      | apply Act.ite_in
      | (apply Act.each_in; intro _ _)
      | (exact Act.cobbler_pieces (Foot.sub hL (by decide)))
      | (exact Act.mbUnknown_pieces (Foot.sub hL (by decide)))
      | (exact Act.modClk_in fun k => Foot.has hL (by decide) k)
      | (exact Act.modSys_in fun k => Foot.has hL (by decide) k)
      | (exact Act.moduleFail_pieces (Foot.sub hL (by decide)))
      | (exact Act.selfTests_pieces (Foot.sub hL (by decide)))
      | (exact Act.setF_in (Foot.has hL (by decide) _))
      | (exact Act.settleStart_pieces (Foot.sub hL (by decide)))
      | (exact Act.startRecords_pieces (Foot.sub hL (by decide)))
      | (exact Act.training_pieces (Foot.sub hL (by decide)))
    | dsimp only
    | split

theorem frame_moduleReset {s : State} (w : s.Wf) {r : StartReport} : Framed (.whole [.regs, .mem, .errs, .lpErr, .chUe, .store, .acc, .anchors, .pend, .vreg, .ctxs, .arrs, .parts, .vecTurn, .health, .leash, .trigs, .engs, .conns, .bars, .hounds, .samp, .cells, .cjobs, .dsps, .dspMem, .dspP, .dets, .dumps, .clk, .recd, .attn, .linkOn, .failed, .lpAct0, .lpAct1, .sigq, .convq, .flash, .arrives, .held, .heldCode, .pairs, .radio, .time, .last, .sys, .emitted]) (.moduleReset r) s := by
  have hL : (Foot.whole [.regs, .mem, .errs, .lpErr, .chUe, .store, .acc, .anchors, .pend, .vreg, .ctxs, .arrs, .parts, .vecTurn, .health, .leash, .trigs, .engs, .conns, .bars, .hounds, .samp, .cells, .cjobs, .dsps, .dspMem, .dspP, .dets, .dumps, .clk, .recd, .attn, .linkOn, .failed, .lpAct0, .lpAct1, .sigq, .convq, .flash, .arrives, .held, .heldCode, .pairs, .radio, .time, .last, .sys, .emitted]).le (Foot.whole [.regs, .mem, .errs, .lpErr, .chUe, .store, .acc, .anchors, .pend, .vreg, .ctxs, .arrs, .parts, .vecTurn, .health, .leash, .trigs, .engs, .conns, .bars, .hounds, .samp, .cells, .cjobs, .dsps, .dspMem, .dspP, .dets, .dumps, .clk, .recd, .attn, .linkOn, .failed, .lpAct0, .lpAct1, .sigq, .convq, .flash, .arrives, .held, .heldCode, .pairs, .radio, .time, .last, .sys, .emitted]) := Foot.le_refl
  refine framed_out w (o := execModuleReset r s) rfl ?_
  unfold execModuleReset
  refine ⟨_, rfl, ?_⟩
  repeat' first
    | with_reducible first
      | exact Act.nil_in
      | exact Act.skip_in
      | apply Act.cons_in
      | apply Act.seq_in
      | (apply Act.get_in; intro _)
      | (apply Act.when_in; intro _)
      | apply Act.ite_in
      | (apply Act.each_in; intro _ _)
      | (exact Act.boot_pieces (Foot.sub hL (by decide)))
      | (exact Act.emit_in fun k => Foot.has hL (by decide) k)
      | (exact Act.restart_pieces (Foot.sub hL (by decide)))
    | dsimp only
    | split

theorem Act.warmBegin_pieces {F : Foot} {cause : Nat} (hL : (Foot.whole [.regs, .mem, .errs, .lpErr, .chUe, .store, .acc, .anchors, .pend, .vreg, .ctxs, .arrs, .parts, .vecTurn, .health, .leash, .trigs, .engs, .conns, .bars, .hounds, .samp, .cells, .cjobs, .dsps, .dspMem, .dspP, .dets, .dumps, .clk, .recd, .attn, .linkOn, .failed, .lpAct0, .lpAct1, .sigq, .convq, .flash, .arrives, .held, .heldCode, .pairs, .radio, .time, .last, .sys, .emitted]).le F) : (Act.warmBegin cause).In F := by
  unfold Act.warmBegin
  repeat' first
    | with_reducible first
      | exact Act.nil_in
      | exact Act.skip_in
      | apply Act.cons_in
      | apply Act.seq_in
      | (apply Act.get_in; intro _)
      | (apply Act.when_in; intro _)
      | apply Act.ite_in
      | (apply Act.each_in; intro _ _)
      | (exact Act.modFlash_in fun k => Foot.has hL (by decide) k)
      | (exact Act.modSys_in fun k => Foot.has hL (by decide) k)
      | (exact Act.restart_pieces (Foot.sub hL (by decide)))
    | dsimp only
    | split

theorem frame_warmReset {s : State} (w : s.Wf) {cause : Nat} {r : StartReport} : Framed (.whole [.regs, .mem, .errs, .lpErr, .chUe, .store, .acc, .anchors, .pend, .vreg, .ctxs, .arrs, .parts, .vecTurn, .health, .leash, .trigs, .engs, .conns, .bars, .hounds, .samp, .cells, .cjobs, .dsps, .dspMem, .dspP, .dets, .dumps, .clk, .recd, .attn, .linkOn, .failed, .lpAct0, .lpAct1, .sigq, .convq, .flash, .arrives, .held, .heldCode, .pairs, .radio, .time, .last, .sys, .emitted]) (.warmReset cause r) s := by
  have hL : (Foot.whole [.regs, .mem, .errs, .lpErr, .chUe, .store, .acc, .anchors, .pend, .vreg, .ctxs, .arrs, .parts, .vecTurn, .health, .leash, .trigs, .engs, .conns, .bars, .hounds, .samp, .cells, .cjobs, .dsps, .dspMem, .dspP, .dets, .dumps, .clk, .recd, .attn, .linkOn, .failed, .lpAct0, .lpAct1, .sigq, .convq, .flash, .arrives, .held, .heldCode, .pairs, .radio, .time, .last, .sys, .emitted]).le (Foot.whole [.regs, .mem, .errs, .lpErr, .chUe, .store, .acc, .anchors, .pend, .vreg, .ctxs, .arrs, .parts, .vecTurn, .health, .leash, .trigs, .engs, .conns, .bars, .hounds, .samp, .cells, .cjobs, .dsps, .dspMem, .dspP, .dets, .dumps, .clk, .recd, .attn, .linkOn, .failed, .lpAct0, .lpAct1, .sigq, .convq, .flash, .arrives, .held, .heldCode, .pairs, .radio, .time, .last, .sys, .emitted]) := Foot.le_refl
  refine framed_out w (o := execWarmReset cause r s) rfl ?_
  unfold execWarmReset
  refine ⟨_, rfl, ?_⟩
  repeat' first
    | with_reducible first
      | exact Act.nil_in
      | exact Act.skip_in
      | apply Act.cons_in
      | apply Act.seq_in
      | (apply Act.get_in; intro _)
      | (apply Act.when_in; intro _)
      | apply Act.ite_in
      | (apply Act.each_in; intro _ _)
      | (exact Act.boot_pieces (Foot.sub hL (by decide)))
      | (exact Act.restart_pieces (Foot.sub hL (by decide)))
    | dsimp only
    | split

theorem frame_resetProtocolTimeout {s : State} (w : s.Wf) : Framed (.whole [.regs, .attn, .failed, .sys, .emitted]) (.resetProtocolTimeout) s := by
  have hL : (Foot.whole [.regs, .attn, .failed, .sys, .emitted]).le (Foot.whole [.regs, .attn, .failed, .sys, .emitted]) := Foot.le_refl
  refine framed_out w (o := execResetProtocolTimeout s) rfl ?_
  unfold execResetProtocolTimeout
  refine ⟨_, rfl, ?_⟩
  repeat' first
    | with_reducible first
      | exact Act.nil_in
      | exact Act.skip_in
      | apply Act.cons_in
      | apply Act.seq_in
      | (apply Act.get_in; intro _)
      | (apply Act.when_in; intro _)
      | apply Act.ite_in
      | (apply Act.each_in; intro _ _)
      | (exact Act.modSys_in fun k => Foot.has hL (by decide) k)
      | (exact Act.moduleFail_pieces (Foot.sub hL (by decide)))
    | dsimp only
    | split

theorem frame_runWatchdog {s : State} (w : s.Wf) : Framed (.whole [.regs, .mem, .errs, .lpErr, .chUe, .store, .acc, .anchors, .pend, .vreg, .ctxs, .arrs, .parts, .vecTurn, .health, .leash, .trigs, .engs, .conns, .bars, .hounds, .samp, .cells, .cjobs, .dsps, .dspMem, .dspP, .dets, .dumps, .clk, .recd, .attn, .linkOn, .failed, .lpAct0, .lpAct1, .sigq, .convq, .flash, .arrives, .held, .heldCode, .pairs, .radio, .time, .last, .sys, .emitted]) (.runWatchdog) s := by
  have hL : (Foot.whole [.regs, .mem, .errs, .lpErr, .chUe, .store, .acc, .anchors, .pend, .vreg, .ctxs, .arrs, .parts, .vecTurn, .health, .leash, .trigs, .engs, .conns, .bars, .hounds, .samp, .cells, .cjobs, .dsps, .dspMem, .dspP, .dets, .dumps, .clk, .recd, .attn, .linkOn, .failed, .lpAct0, .lpAct1, .sigq, .convq, .flash, .arrives, .held, .heldCode, .pairs, .radio, .time, .last, .sys, .emitted]).le (Foot.whole [.regs, .mem, .errs, .lpErr, .chUe, .store, .acc, .anchors, .pend, .vreg, .ctxs, .arrs, .parts, .vecTurn, .health, .leash, .trigs, .engs, .conns, .bars, .hounds, .samp, .cells, .cjobs, .dsps, .dspMem, .dspP, .dets, .dumps, .clk, .recd, .attn, .linkOn, .failed, .lpAct0, .lpAct1, .sigq, .convq, .flash, .arrives, .held, .heldCode, .pairs, .radio, .time, .last, .sys, .emitted]) := Foot.le_refl
  refine framed_out w (o := execRunWatchdog s) rfl ?_
  unfold execRunWatchdog
  refine ⟨_, rfl, ?_⟩
  repeat' first
    | with_reducible first
      | exact Act.nil_in
      | exact Act.skip_in
      | apply Act.cons_in
      | apply Act.seq_in
      | (apply Act.get_in; intro _)
      | (apply Act.when_in; intro _)
      | apply Act.ite_in
      | (apply Act.each_in; intro _ _)
      | (exact Act.imageFails_pieces (Foot.sub hL (by decide)))
    | dsimp only
    | split

theorem frame_notReadyClear {s : State} (w : s.Wf) : Framed (.whole [.regs, .mem, .errs, .lpErr, .chUe, .host, .store, .acc, .parts, .health, .leash, .trigs, .log, .recUsed, .recDrop, .dets, .clk, .recd, .attn, .failed, .lpAct0, .lpAct1, .flash, .radio, .sys, .emitted]) (.notReadyClear) s := by
  have hL : (Foot.whole [.regs, .mem, .errs, .lpErr, .chUe, .host, .store, .acc, .parts, .health, .leash, .trigs, .log, .recUsed, .recDrop, .dets, .clk, .recd, .attn, .failed, .lpAct0, .lpAct1, .flash, .radio, .sys, .emitted]).le (Foot.whole [.regs, .mem, .errs, .lpErr, .chUe, .host, .store, .acc, .parts, .health, .leash, .trigs, .log, .recUsed, .recDrop, .dets, .clk, .recd, .attn, .failed, .lpAct0, .lpAct1, .flash, .radio, .sys, .emitted]) := Foot.le_refl
  refine framed_out w (o := execNotReadyClear s) rfl ?_
  unfold execNotReadyClear
  refine ⟨_, rfl, ?_⟩
  repeat' first
    | with_reducible first
      | exact Act.nil_in
      | exact Act.skip_in
      | apply Act.cons_in
      | apply Act.seq_in
      | (apply Act.get_in; intro _)
      | (apply Act.when_in; intro _)
      | apply Act.ite_in
      | (apply Act.each_in; intro _ _)
      | (exact Act.attnChanged_pieces (Foot.sub hL (by decide)))
      | (exact Act.bringUp_pieces (Foot.sub hL (by decide)))
      | (exact Act.mbUnknown_pieces (Foot.sub hL (by decide)))
      | (exact Act.modF_in (Foot.has hL (by decide) _))
      | (exact Act.modSys_in fun k => Foot.has hL (by decide) k)
      | (exact Act.setF_in (Foot.has hL (by decide) _))
    | dsimp only
    | split

theorem Act.linkReset_pieces {F : Foot} (hL : (Foot.whole [.regs, .linkOn]).le F) : (Act.linkReset).In F := by
  unfold Act.linkReset
  repeat' first
    | with_reducible first
      | exact Act.nil_in
      | exact Act.skip_in
      | apply Act.cons_in
      | apply Act.seq_in
      | (apply Act.get_in; intro _)
      | (apply Act.when_in; intro _)
      | apply Act.ite_in
      | (apply Act.each_in; intro _ _)
      | (exact Act.modLinkOn_in fun k => Foot.has hL (by decide) k)
      | (exact Act.setRegs_in (Foot.has hL (by decide) _))
    | dsimp only
    | split

theorem frame_perstN {s : State} (w : s.Wf) {level : Bool} : Framed (.whole [.regs, .mem, .errs, .lpErr, .chUe, .store, .acc, .anchors, .pend, .vreg, .ctxs, .arrs, .parts, .vecTurn, .health, .leash, .trigs, .engs, .conns, .bars, .hounds, .samp, .cells, .cjobs, .dsps, .dspMem, .dspP, .dets, .dumps, .clk, .recd, .attn, .linkOn, .failed, .lpAct0, .lpAct1, .sigq, .convq, .flash, .arrives, .held, .heldCode, .pairs, .radio, .time, .last, .sys, .emitted]) (.perstN level) s := by
  have hL : (Foot.whole [.regs, .mem, .errs, .lpErr, .chUe, .store, .acc, .anchors, .pend, .vreg, .ctxs, .arrs, .parts, .vecTurn, .health, .leash, .trigs, .engs, .conns, .bars, .hounds, .samp, .cells, .cjobs, .dsps, .dspMem, .dspP, .dets, .dumps, .clk, .recd, .attn, .linkOn, .failed, .lpAct0, .lpAct1, .sigq, .convq, .flash, .arrives, .held, .heldCode, .pairs, .radio, .time, .last, .sys, .emitted]).le (Foot.whole [.regs, .mem, .errs, .lpErr, .chUe, .store, .acc, .anchors, .pend, .vreg, .ctxs, .arrs, .parts, .vecTurn, .health, .leash, .trigs, .engs, .conns, .bars, .hounds, .samp, .cells, .cjobs, .dsps, .dspMem, .dspP, .dets, .dumps, .clk, .recd, .attn, .linkOn, .failed, .lpAct0, .lpAct1, .sigq, .convq, .flash, .arrives, .held, .heldCode, .pairs, .radio, .time, .last, .sys, .emitted]) := Foot.le_refl
  refine framed_out w (o := execPerstN level s) rfl ?_
  unfold execPerstN
  refine ⟨_, rfl, ?_⟩
  repeat' first
    | with_reducible first
      | exact Act.nil_in
      | exact Act.skip_in
      | apply Act.cons_in
      | apply Act.seq_in
      | (apply Act.get_in; intro _)
      | (apply Act.when_in; intro _)
      | apply Act.ite_in
      | (apply Act.each_in; intro _ _)
      | (exact Act.linkReset_pieces (Foot.sub hL (by decide)))
      | (exact Act.modSys_in fun k => Foot.has hL (by decide) k)
      | (exact Act.warmBegin_pieces (Foot.sub hL (by decide)))
    | dsimp only
    | split

theorem frame_hotReset {s : State} (w : s.Wf) : Framed (.whole [.regs, .mem, .errs, .lpErr, .chUe, .store, .acc, .anchors, .pend, .vreg, .ctxs, .arrs, .parts, .vecTurn, .health, .leash, .trigs, .engs, .conns, .bars, .hounds, .samp, .cells, .cjobs, .dsps, .dspMem, .dspP, .dets, .dumps, .clk, .recd, .attn, .linkOn, .failed, .lpAct0, .lpAct1, .sigq, .convq, .flash, .arrives, .held, .heldCode, .pairs, .radio, .time, .last, .sys, .emitted]) (.hotReset) s := by
  have hL : (Foot.whole [.regs, .mem, .errs, .lpErr, .chUe, .store, .acc, .anchors, .pend, .vreg, .ctxs, .arrs, .parts, .vecTurn, .health, .leash, .trigs, .engs, .conns, .bars, .hounds, .samp, .cells, .cjobs, .dsps, .dspMem, .dspP, .dets, .dumps, .clk, .recd, .attn, .linkOn, .failed, .lpAct0, .lpAct1, .sigq, .convq, .flash, .arrives, .held, .heldCode, .pairs, .radio, .time, .last, .sys, .emitted]).le (Foot.whole [.regs, .mem, .errs, .lpErr, .chUe, .store, .acc, .anchors, .pend, .vreg, .ctxs, .arrs, .parts, .vecTurn, .health, .leash, .trigs, .engs, .conns, .bars, .hounds, .samp, .cells, .cjobs, .dsps, .dspMem, .dspP, .dets, .dumps, .clk, .recd, .attn, .linkOn, .failed, .lpAct0, .lpAct1, .sigq, .convq, .flash, .arrives, .held, .heldCode, .pairs, .radio, .time, .last, .sys, .emitted]) := Foot.le_refl
  refine framed_out w (o := execHotReset s) rfl ?_
  unfold execHotReset
  refine ⟨_, rfl, ?_⟩
  repeat' first
    | with_reducible first
      | exact Act.nil_in
      | exact Act.skip_in
      | apply Act.cons_in
      | apply Act.seq_in
      | (apply Act.get_in; intro _)
      | (apply Act.when_in; intro _)
      | apply Act.ite_in
      | (apply Act.each_in; intro _ _)
      | (exact Act.modLinkOn_in fun k => Foot.has hL (by decide) k)
      | (exact Act.warmBegin_pieces (Foot.sub hL (by decide)))
    | dsimp only
    | split

theorem Act.doRecoveryLoad_pieces {F : Foot} {readOk : Bool} {j : JCmd} (hL : (Foot.whole [.regs, .mem, .errs, .lpErr, .chUe, .host, .store, .acc, .parts, .health, .leash, .trigs, .log, .recUsed, .recDrop, .recd, .attn, .flash, .sys, .emitted]).le F) : (Act.doRecoveryLoad readOk j).In F := by
  unfold Act.doRecoveryLoad
  repeat' first
    | with_reducible first
      | exact Act.nil_in
      | exact Act.skip_in
      | apply Act.cons_in
      | apply Act.seq_in
      | (apply Act.get_in; intro _)
      | (apply Act.when_in; intro _)
      | apply Act.ite_in
      | (apply Act.each_in; intro _ _)
      | (refine Act.checks_pieces (Foot.sub hL (by decide)) ?_ <;> intros)
      | (exact Act.dmaCount_pieces (Foot.sub hL (by decide)))
      | (exact Act.incF_in (Foot.has hL (by decide) _))
      | (exact Act.modSys_in fun k => Foot.has hL (by decide) k)
      | (exact Act.replyOk_pieces (Foot.sub hL (by decide)))
    | dsimp only
    | split

theorem frame_recoveryLoad {s : State} (w : s.Wf) {mb : Nat} {readOk : Bool} : Framed (.whole [.regs, .mem, .errs, .lpErr, .chUe, .host, .store, .acc, .parts, .health, .leash, .trigs, .log, .recUsed, .recDrop, .recd, .attn, .flash, .sys, .emitted]) (.recoveryLoad mb readOk) s := by
  have hL : (Foot.whole [.regs, .mem, .errs, .lpErr, .chUe, .host, .store, .acc, .parts, .health, .leash, .trigs, .log, .recUsed, .recDrop, .recd, .attn, .flash, .sys, .emitted]).le (Foot.whole [.regs, .mem, .errs, .lpErr, .chUe, .host, .store, .acc, .parts, .health, .leash, .trigs, .log, .recUsed, .recDrop, .recd, .attn, .flash, .sys, .emitted]) := Foot.le_refl
  refine framed_out w (o := execRecoveryLoad mb readOk s) rfl ?_
  unfold execRecoveryLoad
  refine ⟨_, rfl, ?_⟩
  repeat' first
    | with_reducible first
      | exact Act.nil_in
      | exact Act.skip_in
      | apply Act.cons_in
      | apply Act.seq_in
      | (apply Act.get_in; intro _)
      | (apply Act.when_in; intro _)
      | apply Act.ite_in
      | (apply Act.each_in; intro _ _)
      | (exact Act.doRecoveryLoad_pieces (Foot.sub hL (by decide)))
      | (refine Act.mbRun_pieces (Foot.sub hL (by decide)) ?_ <;> intros)
    | dsimp only
    | split

theorem frame_uhlileMismatch {s : State} (w : s.Wf) : Framed (.whole [.regs, .mem, .errs, .lpErr, .chUe, .store, .acc, .anchors, .pend, .vreg, .ctxs, .arrs, .parts, .vecTurn, .health, .leash, .trigs, .engs, .conns, .bars, .hounds, .samp, .cells, .cjobs, .dsps, .dspMem, .dspP, .dets, .dumps, .clk, .recd, .attn, .linkOn, .failed, .lpAct0, .lpAct1, .sigq, .convq, .flash, .arrives, .held, .heldCode, .pairs, .radio, .time, .last, .sys, .emitted]) (.uhlileMismatch) s := by
  have hL : (Foot.whole [.regs, .mem, .errs, .lpErr, .chUe, .store, .acc, .anchors, .pend, .vreg, .ctxs, .arrs, .parts, .vecTurn, .health, .leash, .trigs, .engs, .conns, .bars, .hounds, .samp, .cells, .cjobs, .dsps, .dspMem, .dspP, .dets, .dumps, .clk, .recd, .attn, .linkOn, .failed, .lpAct0, .lpAct1, .sigq, .convq, .flash, .arrives, .held, .heldCode, .pairs, .radio, .time, .last, .sys, .emitted]).le (Foot.whole [.regs, .mem, .errs, .lpErr, .chUe, .store, .acc, .anchors, .pend, .vreg, .ctxs, .arrs, .parts, .vecTurn, .health, .leash, .trigs, .engs, .conns, .bars, .hounds, .samp, .cells, .cjobs, .dsps, .dspMem, .dspP, .dets, .dumps, .clk, .recd, .attn, .linkOn, .failed, .lpAct0, .lpAct1, .sigq, .convq, .flash, .arrives, .held, .heldCode, .pairs, .radio, .time, .last, .sys, .emitted]) := Foot.le_refl
  refine framed_out w (o := execUhlileMismatch s) rfl ?_
  unfold execUhlileMismatch
  refine ⟨_, rfl, ?_⟩
  repeat' first
    | with_reducible first
      | exact Act.nil_in
      | exact Act.skip_in
      | apply Act.cons_in
      | apply Act.seq_in
      | (apply Act.get_in; intro _)
      | (apply Act.when_in; intro _)
      | apply Act.ite_in
      | (apply Act.each_in; intro _ _)
      | (exact Act.imageFails_pieces (Foot.sub hL (by decide)))
      | (exact Act.modSys_in fun k => Foot.has hL (by decide) k)
      | (exact Act.moduleFail_pieces (Foot.sub hL (by decide)))
    | dsimp only
    | split

theorem frame_uhlileRestartDone {s : State} (w : s.Wf) : Framed (.whole [.regs, .mem, .errs, .lpErr, .chUe, .host, .store, .acc, .parts, .health, .leash, .trigs, .log, .recUsed, .recDrop, .recd, .attn, .flash, .sys, .emitted]) (.uhlileRestartDone) s := by
  have hL : (Foot.whole [.regs, .mem, .errs, .lpErr, .chUe, .host, .store, .acc, .parts, .health, .leash, .trigs, .log, .recUsed, .recDrop, .recd, .attn, .flash, .sys, .emitted]).le (Foot.whole [.regs, .mem, .errs, .lpErr, .chUe, .host, .store, .acc, .parts, .health, .leash, .trigs, .log, .recUsed, .recDrop, .recd, .attn, .flash, .sys, .emitted]) := Foot.le_refl
  refine framed_out w (o := execUhlileRestartDone s) rfl ?_
  unfold execUhlileRestartDone
  refine ⟨_, rfl, ?_⟩
  repeat' first
    | with_reducible first
      | exact Act.nil_in
      | exact Act.skip_in
      | apply Act.cons_in
      | apply Act.seq_in
      | (apply Act.get_in; intro _)
      | (apply Act.when_in; intro _)
      | apply Act.ite_in
      | (apply Act.each_in; intro _ _)
      | (exact Act.attnMgr_pieces (Foot.sub hL (by decide)))
      | (exact Act.healthEv_pieces (Foot.sub hL (by decide)))
      | (exact Act.mbUnknown_pieces (Foot.sub hL (by decide)))
      | (exact Act.modSys_in fun k => Foot.has hL (by decide) k)
      | (exact Act.record_pieces (Foot.sub hL (by decide)))
    | dsimp only
    | split

theorem Act.idle_pieces {F : Foot} (hL : (Foot.whole [.regs, .mem, .errs, .lpErr, .chUe, .host, .store, .acc, .parts, .health, .leash, .trigs, .log, .recUsed, .recDrop, .cells, .cjobs, .dsps, .dets, .clk, .recd, .attn, .failed, .lpAct0, .lpAct1, .sigq, .flash, .held, .radio, .time, .sys, .free, .emitted]).le F) : (Act.idle).In F := by
  unfold Act.idle
  repeat' first
    | with_reducible first
      | exact Act.nil_in
      | exact Act.skip_in
      | apply Act.cons_in
      | apply Act.seq_in
      | (apply Act.get_in; intro _)
      | (apply Act.when_in; intro _)
      | apply Act.ite_in
      | (apply Act.each_in; intro _ _)
      | (exact Act.bringUp_pieces (Foot.sub hL (by decide)))
      | (exact Act.dspGo_pieces (Foot.sub hL (by decide)))
      | (exact Act.passCycle_pieces (Foot.sub hL (by decide)))
      | (exact Act.ppsFall_pieces (Foot.sub hL (by decide)))
      | (exact Act.timeFollow_pieces (Foot.sub hL (by decide)))
    | dsimp only
    | split

end Sys2Proof.Machine
end

