-- ==== Sys2Proof/Laws/PiecesElectrical.lean ====
section
/-! SUPPORT. The pieces of state that the operations of Machine/Electrical.lean can write, and the frames of its commands. -/

set_option linter.unusedSimpArgs false

namespace Sys2Proof.Machine

theorem Act.inputFault_pieces {F : Foot} {cause : Nat} {v : Nat} (hL : (Foot.whole [.regs, .mem, .errs, .lpErr, .chUe, .host, .store, .acc, .anchors, .pend, .vreg, .ctxs, .arrs, .parts, .vecTurn, .health, .leash, .trigs, .log, .recUsed, .recDrop, .engs, .conns, .bars, .hounds, .samp, .cells, .cjobs, .dsps, .dspMem, .dspP, .dets, .dumps, .clk, .recd, .attn, .linkOn, .failed, .lpAct0, .lpAct1, .sigq, .convq, .flash, .arrives, .held, .heldCode, .pairs, .radio, .time, .last, .sys, .emitted]).le F) : (Act.inputFault cause v).In F := by
  unfold Act.inputFault
  repeat' first
    | with_reducible first
      | exact Act.nil_in
      | exact Act.skip_in
      | apply Act.cons_in
      | apply Act.seq_in
      | (apply Act.get_in; intro _)
      | (apply Act.when_in; intro _)
      | apply Act.ite_in
      | (apply Act.each_in; intro _ _)
      | (exact Act.emit_in fun k => Foot.has hL (by decide) k)
      | (exact Act.modFlash_in fun k => Foot.has hL (by decide) k)
      | (exact Act.modSys_in fun k => Foot.has hL (by decide) k)
      | (exact Act.record_pieces (Foot.sub hL (by decide)))
      | (exact Act.restart_pieces (Foot.sub hL (by decide)))
    | dsimp only
    | split

theorem Act.inputLost_pieces {F : Foot} (hL : (Foot.whole [.sys]).le F) : (Act.inputLost).In F := by
  unfold Act.inputLost
  repeat' first
    | with_reducible first
      | exact Act.nil_in
      | exact Act.skip_in
      | apply Act.cons_in
      | apply Act.seq_in
      | (apply Act.get_in; intro _)
      | (apply Act.when_in; intro _)
      | apply Act.ite_in
      | (apply Act.each_in; intro _ _)
      | (exact Act.modSys_in fun k => Foot.has hL (by decide) k)
    | dsimp only
    | split

theorem frame_inputQualified {s : State} (w : s.Wf) {mv : Nat} : Framed (.whole [.sys, .emitted]) (.inputQualified mv) s := by
  have hL : (Foot.whole [.sys, .emitted]).le (Foot.whole [.sys, .emitted]) := Foot.le_refl
  refine framed_out w (o := execInputQualified mv s) rfl ?_
  unfold execInputQualified
  refine ⟨_, rfl, ?_⟩
  repeat' first
    | with_reducible first
      | exact Act.nil_in
      | exact Act.skip_in
      | apply Act.cons_in
      | apply Act.seq_in
      | (apply Act.get_in; intro _)
      | (apply Act.when_in; intro _)
      | apply Act.ite_in
      | (apply Act.each_in; intro _ _)
      | (exact Act.emit_in fun k => Foot.has hL (by decide) k)
      | (exact Act.modSys_in fun k => Foot.has hL (by decide) k)
    | dsimp only
    | split

theorem frame_undervoltage {s : State} (w : s.Wf) {mv : Nat} : Framed (.whole [.regs, .mem, .errs, .lpErr, .chUe, .host, .store, .acc, .anchors, .pend, .vreg, .ctxs, .arrs, .parts, .vecTurn, .health, .leash, .trigs, .log, .recUsed, .recDrop, .engs, .conns, .bars, .hounds, .samp, .cells, .cjobs, .dsps, .dspMem, .dspP, .dets, .dumps, .clk, .recd, .attn, .linkOn, .failed, .lpAct0, .lpAct1, .sigq, .convq, .flash, .arrives, .held, .heldCode, .pairs, .radio, .time, .last, .sys, .emitted]) (.undervoltage mv) s := by
  have hL : (Foot.whole [.regs, .mem, .errs, .lpErr, .chUe, .host, .store, .acc, .anchors, .pend, .vreg, .ctxs, .arrs, .parts, .vecTurn, .health, .leash, .trigs, .log, .recUsed, .recDrop, .engs, .conns, .bars, .hounds, .samp, .cells, .cjobs, .dsps, .dspMem, .dspP, .dets, .dumps, .clk, .recd, .attn, .linkOn, .failed, .lpAct0, .lpAct1, .sigq, .convq, .flash, .arrives, .held, .heldCode, .pairs, .radio, .time, .last, .sys, .emitted]).le (Foot.whole [.regs, .mem, .errs, .lpErr, .chUe, .host, .store, .acc, .anchors, .pend, .vreg, .ctxs, .arrs, .parts, .vecTurn, .health, .leash, .trigs, .log, .recUsed, .recDrop, .engs, .conns, .bars, .hounds, .samp, .cells, .cjobs, .dsps, .dspMem, .dspP, .dets, .dumps, .clk, .recd, .attn, .linkOn, .failed, .lpAct0, .lpAct1, .sigq, .convq, .flash, .arrives, .held, .heldCode, .pairs, .radio, .time, .last, .sys, .emitted]) := Foot.le_refl
  refine framed_out w (o := execUndervoltage mv s) rfl ?_
  unfold execUndervoltage
  refine ⟨_, rfl, ?_⟩
  repeat' first
    | with_reducible first
      | exact Act.nil_in
      | exact Act.skip_in
      | apply Act.cons_in
      | apply Act.seq_in
      | (apply Act.get_in; intro _)
      | (apply Act.when_in; intro _)
      | apply Act.ite_in
      | (apply Act.each_in; intro _ _)
      | (exact Act.inputFault_pieces (Foot.sub hL (by decide)))
      | (exact Act.inputLost_pieces (Foot.sub hL (by decide)))
    | dsimp only
    | split

theorem frame_overvoltage {s : State} (w : s.Wf) {mv : Nat} : Framed (.whole [.regs, .mem, .errs, .lpErr, .chUe, .host, .store, .acc, .anchors, .pend, .vreg, .ctxs, .arrs, .parts, .vecTurn, .health, .leash, .trigs, .log, .recUsed, .recDrop, .engs, .conns, .bars, .hounds, .samp, .cells, .cjobs, .dsps, .dspMem, .dspP, .dets, .dumps, .clk, .recd, .attn, .linkOn, .failed, .lpAct0, .lpAct1, .sigq, .convq, .flash, .arrives, .held, .heldCode, .pairs, .radio, .time, .last, .sys, .emitted]) (.overvoltage mv) s := by
  have hL : (Foot.whole [.regs, .mem, .errs, .lpErr, .chUe, .host, .store, .acc, .anchors, .pend, .vreg, .ctxs, .arrs, .parts, .vecTurn, .health, .leash, .trigs, .log, .recUsed, .recDrop, .engs, .conns, .bars, .hounds, .samp, .cells, .cjobs, .dsps, .dspMem, .dspP, .dets, .dumps, .clk, .recd, .attn, .linkOn, .failed, .lpAct0, .lpAct1, .sigq, .convq, .flash, .arrives, .held, .heldCode, .pairs, .radio, .time, .last, .sys, .emitted]).le (Foot.whole [.regs, .mem, .errs, .lpErr, .chUe, .host, .store, .acc, .anchors, .pend, .vreg, .ctxs, .arrs, .parts, .vecTurn, .health, .leash, .trigs, .log, .recUsed, .recDrop, .engs, .conns, .bars, .hounds, .samp, .cells, .cjobs, .dsps, .dspMem, .dspP, .dets, .dumps, .clk, .recd, .attn, .linkOn, .failed, .lpAct0, .lpAct1, .sigq, .convq, .flash, .arrives, .held, .heldCode, .pairs, .radio, .time, .last, .sys, .emitted]) := Foot.le_refl
  refine framed_out w (o := execOvervoltage mv s) rfl ?_
  unfold execOvervoltage
  refine ⟨_, rfl, ?_⟩
  repeat' first
    | with_reducible first
      | exact Act.nil_in
      | exact Act.skip_in
      | apply Act.cons_in
      | apply Act.seq_in
      | (apply Act.get_in; intro _)
      | (apply Act.when_in; intro _)
      | apply Act.ite_in
      | (apply Act.each_in; intro _ _)
      | (exact Act.inputFault_pieces (Foot.sub hL (by decide)))
    | dsimp only
    | split

theorem frame_inputOutOfRange {s : State} (w : s.Wf) {mv : Nat} : Framed (.whole [.regs, .host, .leash, .trigs, .log, .recUsed, .recDrop, .recd, .attn, .emitted]) (.inputOutOfRange mv) s := by
  have hL : (Foot.whole [.regs, .host, .leash, .trigs, .log, .recUsed, .recDrop, .recd, .attn, .emitted]).le (Foot.whole [.regs, .host, .leash, .trigs, .log, .recUsed, .recDrop, .recd, .attn, .emitted]) := Foot.le_refl
  refine framed_out w (o := execInputOutOfRange mv s) rfl ?_
  unfold execInputOutOfRange
  refine ⟨_, rfl, ?_⟩
  repeat' first
    | with_reducible first
      | exact Act.nil_in
      | exact Act.skip_in
      | apply Act.cons_in
      | apply Act.seq_in
      | (apply Act.get_in; intro _)
      | (apply Act.when_in; intro _)
      | apply Act.ite_in
      | (apply Act.each_in; intro _ _)
      | (exact Act.incF_in (Foot.has hL (by decide) _))
      | (exact Act.record_pieces (Foot.sub hL (by decide)))
      | (exact Act.setF_in (Foot.has hL (by decide) _))
    | dsimp only
    | split

theorem frame_uvDip {s : State} (w : s.Wf) : Framed (.whole [.regs]) (.uvDip) s := by
  have hL : (Foot.whole [.regs]).le (Foot.whole [.regs]) := Foot.le_refl
  refine framed_out w (o := execUvDip s) rfl ?_
  unfold execUvDip
  refine ⟨_, rfl, ?_⟩
  repeat' first
    | with_reducible first
      | exact Act.nil_in
      | exact Act.skip_in
      | apply Act.cons_in
      | apply Act.seq_in
      | (apply Act.get_in; intro _)
      | (apply Act.when_in; intro _)
      | apply Act.ite_in
      | (apply Act.each_in; intro _ _)
      | (exact Act.incF_in (Foot.has hL (by decide) _))
    | dsimp only
    | split

theorem frame_faultRestart {s : State} (w : s.Wf) : Framed (.whole [.sys]) (.faultRestart) s := by
  have hL : (Foot.whole [.sys]).le (Foot.whole [.sys]) := Foot.le_refl
  refine framed_out w (o := execFaultRestart s) rfl ?_
  unfold execFaultRestart
  refine ⟨_, rfl, ?_⟩
  repeat' first
    | with_reducible first
      | exact Act.nil_in
      | exact Act.skip_in
      | apply Act.cons_in
      | apply Act.seq_in
      | (apply Act.get_in; intro _)
      | (apply Act.when_in; intro _)
      | apply Act.ite_in
      | (apply Act.each_in; intro _ _)
      | (exact Act.modSys_in fun k => Foot.has hL (by decide) k)
    | dsimp only
    | split

theorem frame_loInQualified {s : State} (w : s.Wf) : Framed (.whole [.regs]) (.loInQualified) s := by
  have hL : (Foot.whole [.regs]).le (Foot.whole [.regs]) := Foot.le_refl
  refine framed_out w (o := execLoInQualified s) rfl ?_
  unfold execLoInQualified
  refine ⟨_, rfl, ?_⟩
  repeat' first
    | with_reducible first
      | exact Act.nil_in
      | exact Act.skip_in
      | apply Act.cons_in
      | apply Act.seq_in
      | (apply Act.get_in; intro _)
      | (apply Act.when_in; intro _)
      | apply Act.ite_in
      | (apply Act.each_in; intro _ _)
      | (exact Act.setF_in (Foot.has hL (by decide) _))
    | dsimp only
    | split

theorem frame_loInLoss {s : State} (w : s.Wf) : Framed (.whole [.regs, .attn, .failed, .sys, .emitted]) (.loInLoss) s := by
  have hL : (Foot.whole [.regs, .attn, .failed, .sys, .emitted]).le (Foot.whole [.regs, .attn, .failed, .sys, .emitted]) := Foot.le_refl
  refine framed_out w (o := execLoInLoss s) rfl ?_
  unfold execLoInLoss
  refine ⟨_, rfl, ?_⟩
  repeat' first
    | with_reducible first
      | exact Act.nil_in
      | exact Act.skip_in
      | apply Act.cons_in
      | apply Act.seq_in
      | (apply Act.get_in; intro _)
      | (apply Act.when_in; intro _)
      | apply Act.ite_in
      | (apply Act.each_in; intro _ _)
      | (exact Act.modSys_in fun k => Foot.has hL (by decide) k)
      | (exact Act.moduleFail_pieces (Foot.sub hL (by decide)))
      | (exact Act.setF_in (Foot.has hL (by decide) _))
    | dsimp only
    | split

theorem frame_railEvent {s : State} (w : s.Wf) {rail : Rail} : Framed (.whole [.regs, .mem, .errs, .lpErr, .chUe, .host, .store, .acc, .anchors, .pend, .vreg, .ctxs, .arrs, .parts, .vecTurn, .health, .leash, .trigs, .log, .recUsed, .recDrop, .engs, .conns, .bars, .hounds, .samp, .cells, .cjobs, .dsps, .dspMem, .dspP, .dets, .dumps, .clk, .recd, .attn, .linkOn, .failed, .lpAct0, .lpAct1, .sigq, .convq, .flash, .arrives, .held, .heldCode, .pairs, .radio, .time, .last, .sys, .free, .emitted]) (.railEvent rail) s := by
  have hL : (Foot.whole [.regs, .mem, .errs, .lpErr, .chUe, .host, .store, .acc, .anchors, .pend, .vreg, .ctxs, .arrs, .parts, .vecTurn, .health, .leash, .trigs, .log, .recUsed, .recDrop, .engs, .conns, .bars, .hounds, .samp, .cells, .cjobs, .dsps, .dspMem, .dspP, .dets, .dumps, .clk, .recd, .attn, .linkOn, .failed, .lpAct0, .lpAct1, .sigq, .convq, .flash, .arrives, .held, .heldCode, .pairs, .radio, .time, .last, .sys, .free, .emitted]).le (Foot.whole [.regs, .mem, .errs, .lpErr, .chUe, .host, .store, .acc, .anchors, .pend, .vreg, .ctxs, .arrs, .parts, .vecTurn, .health, .leash, .trigs, .log, .recUsed, .recDrop, .engs, .conns, .bars, .hounds, .samp, .cells, .cjobs, .dsps, .dspMem, .dspP, .dets, .dumps, .clk, .recd, .attn, .linkOn, .failed, .lpAct0, .lpAct1, .sigq, .convq, .flash, .arrives, .held, .heldCode, .pairs, .radio, .time, .last, .sys, .free, .emitted]) := Foot.le_refl
  refine framed_out w (o := execRailEvent rail s) rfl ?_
  unfold execRailEvent
  refine ⟨_, rfl, ?_⟩
  repeat' first
    | with_reducible first
      | exact Act.nil_in
      | exact Act.skip_in
      | apply Act.cons_in
      | apply Act.seq_in
      | (apply Act.get_in; intro _)
      | (apply Act.when_in; intro _)
      | apply Act.ite_in
      | (apply Act.each_in; intro _ _)
      | (exact Act.channelUe_pieces (Foot.sub hL (by decide)))
      | (exact Act.incF_in (Foot.has hL (by decide) _))
      | (exact Act.inputFault_pieces (Foot.sub hL (by decide)))
      | (exact Act.inputLost_pieces (Foot.sub hL (by decide)))
      | (exact Act.moduleFail_pieces (Foot.sub hL (by decide)))
      | (exact Act.movesFail_pieces (Foot.sub hL (by decide)))
      | (exact Act.supplyEvent_pieces (Foot.sub hL (by decide)))
    | dsimp only
    | split

theorem frame_tempSample {s : State} (w : s.Wf) {tj : Int} {island : Island} : Framed (.whole [.regs, .host, .leash, .trigs, .log, .recUsed, .recDrop, .recd, .attn, .last, .emitted]) (.tempSample tj island) s := by
  have hL : (Foot.whole [.regs, .host, .leash, .trigs, .log, .recUsed, .recDrop, .recd, .attn, .last, .emitted]).le (Foot.whole [.regs, .host, .leash, .trigs, .log, .recUsed, .recDrop, .recd, .attn, .last, .emitted]) := Foot.le_refl
  refine framed_out w (o := execTempSample tj island s) rfl ?_
  unfold execTempSample
  refine ⟨_, rfl, ?_⟩
  repeat' first
    | with_reducible first
      | exact Act.nil_in
      | exact Act.skip_in
      | apply Act.cons_in
      | apply Act.seq_in
      | (apply Act.get_in; intro _)
      | (apply Act.when_in; intro _)
      | apply Act.ite_in
      | (apply Act.each_in; intro _ _)
      | (exact Act.modLast_in fun k => Foot.has hL (by decide) k)
      | (exact Act.setF_in (Foot.has hL (by decide) _))
      | (exact Act.setTherm_pieces (Foot.sub hL (by decide)))
    | dsimp only
    | split

theorem frame_thermalTrip {s : State} (w : s.Wf) : Framed (.whole [.regs, .mem, .errs, .lpErr, .chUe, .host, .store, .acc, .anchors, .pend, .vreg, .ctxs, .arrs, .parts, .vecTurn, .health, .leash, .trigs, .log, .recUsed, .recDrop, .engs, .conns, .bars, .hounds, .samp, .cells, .cjobs, .dsps, .dspMem, .dspP, .dets, .dumps, .clk, .recd, .attn, .linkOn, .failed, .lpAct0, .lpAct1, .sigq, .convq, .flash, .arrives, .held, .heldCode, .pairs, .radio, .time, .last, .sys, .emitted]) (.thermalTrip) s := by
  have hL : (Foot.whole [.regs, .mem, .errs, .lpErr, .chUe, .host, .store, .acc, .anchors, .pend, .vreg, .ctxs, .arrs, .parts, .vecTurn, .health, .leash, .trigs, .log, .recUsed, .recDrop, .engs, .conns, .bars, .hounds, .samp, .cells, .cjobs, .dsps, .dspMem, .dspP, .dets, .dumps, .clk, .recd, .attn, .linkOn, .failed, .lpAct0, .lpAct1, .sigq, .convq, .flash, .arrives, .held, .heldCode, .pairs, .radio, .time, .last, .sys, .emitted]).le (Foot.whole [.regs, .mem, .errs, .lpErr, .chUe, .host, .store, .acc, .anchors, .pend, .vreg, .ctxs, .arrs, .parts, .vecTurn, .health, .leash, .trigs, .log, .recUsed, .recDrop, .engs, .conns, .bars, .hounds, .samp, .cells, .cjobs, .dsps, .dspMem, .dspP, .dets, .dumps, .clk, .recd, .attn, .linkOn, .failed, .lpAct0, .lpAct1, .sigq, .convq, .flash, .arrives, .held, .heldCode, .pairs, .radio, .time, .last, .sys, .emitted]) := Foot.le_refl
  refine framed_out w (o := execThermalTrip s) rfl ?_
  unfold execThermalTrip
  refine ⟨_, rfl, ?_⟩
  repeat' first
    | with_reducible first
      | exact Act.nil_in
      | exact Act.skip_in
      | apply Act.cons_in
      | apply Act.seq_in
      | (apply Act.get_in; intro _)
      | (apply Act.when_in; intro _)
      | apply Act.ite_in
      | (apply Act.each_in; intro _ _)
      | (exact Act.inputFault_pieces (Foot.sub hL (by decide)))
    | dsimp only
    | split

theorem frame_powerSample {s : State} (w : s.Wf) {mv : Nat} {ma : Nat} {pin : Nat} : Framed (.whole [.regs, .last]) (.powerSample mv ma pin) s := by
  have hL : (Foot.whole [.regs, .last]).le (Foot.whole [.regs, .last]) := Foot.le_refl
  refine framed_out w (o := execPowerSample mv ma pin s) rfl ?_
  unfold execPowerSample
  refine ⟨_, rfl, ?_⟩
  repeat' first
    | with_reducible first
      | exact Act.nil_in
      | exact Act.skip_in
      | apply Act.cons_in
      | apply Act.seq_in
      | (apply Act.get_in; intro _)
      | (apply Act.when_in; intro _)
      | apply Act.ite_in
      | (apply Act.each_in; intro _ _)
      | (exact Act.incF_in (Foot.has hL (by decide) _))
      | (exact Act.modLast_in fun k => Foot.has hL (by decide) k)
      | (exact Act.setF_in (Foot.has hL (by decide) _))
    | dsimp only
    | split

end Sys2Proof.Machine
end

