-- ==== Sys2Proof/Laws/PiecesRegisters.lean ====
section
/-! SUPPORT. The pieces of state that the operations of Machine/Registers.lean can write, and the frames of its commands. -/

set_option linter.unusedSimpArgs false

namespace Sys2Proof.Machine

theorem Act.pmcWrite_pieces {F : Foot} {n : Nat} {o : Nat} {v : Word} (hL : (Foot.whole [.regs, .sys]).le F) : (Act.pmcWrite n o v).In F := by
  unfold Act.pmcWrite
  repeat' first
    | with_reducible first
      | exact Act.nil_in
      | exact Act.skip_in
      | apply Act.cons_in
      | apply Act.seq_in
      | (apply Act.get_in; intro _)
      | (apply Act.when_in; intro _)
      | apply Act.ite_in
      | (apply Act.each_in; intro _ _)
      | (exact Act.pmcCtl_pieces (Foot.sub hL (by decide)))
      | (exact Act.sampCfg_pieces (Foot.sub hL (by decide)))
      | (exact Act.setF_in (Foot.has hL (by decide) _))
      | (exact Act.unlatch_pieces (Foot.sub hL (by decide)))
    | dsimp only
    | split

theorem Act.genWrite_pieces {F : Foot} {a : Nat} {v : Word} {keep : Field → Bool} (hL : (Foot.whole [.regs]).le F) : (Act.genWrite a v keep).In F := by
  unfold Act.genWrite
  repeat' first
    | with_reducible first
      | exact Act.nil_in
      | exact Act.skip_in
      | apply Act.cons_in
      | apply Act.seq_in
      | (apply Act.get_in; intro _)
      | (apply Act.when_in; intro _)
      | apply Act.ite_in
      | (apply Act.each_in; intro _ _)
      | (exact Act.setRegs_in (Foot.has hL (by decide) _))
    | dsimp only
    | split

theorem Act.lockWrite_pieces {F : Foot} {v : Word} (hL : (Foot.whole [.regs]).le F) : (Act.lockWrite v).In F := by
  unfold Act.lockWrite
  repeat' first
    | with_reducible first
      | exact Act.nil_in
      | exact Act.skip_in
      | apply Act.cons_in
      | apply Act.seq_in
      | (apply Act.get_in; intro _)
      | (apply Act.when_in; intro _)
      | apply Act.ite_in
      | (apply Act.each_in; intro _ _)
      | (exact Act.setRegs_in (Foot.has hL (by decide) _))
    | dsimp only
    | split

theorem Act.fabCfgWrite_pieces {F : Foot} {v : Word} (hL : (Foot.whole [.regs]).le F) : (Act.fabCfgWrite v).In F := by
  unfold Act.fabCfgWrite
  repeat' first
    | with_reducible first
      | exact Act.nil_in
      | exact Act.skip_in
      | apply Act.cons_in
      | apply Act.seq_in
      | (apply Act.get_in; intro _)
      | (apply Act.when_in; intro _)
      | apply Act.ite_in
      | (apply Act.each_in; intro _ _)
      | (exact Act.genWrite_pieces (Foot.sub hL (by decide)))
    | dsimp only
    | split

theorem Act.fabEngWrite_pieces {F : Foot} {e : Nat} {a : Nat} {v : Word} (hL : (Foot.whole [.regs]).le F) : (Act.fabEngWrite e a v).In F := by
  unfold Act.fabEngWrite
  repeat' first
    | with_reducible first
      | exact Act.nil_in
      | exact Act.skip_in
      | apply Act.cons_in
      | apply Act.seq_in
      | (apply Act.get_in; intro _)
      | (apply Act.when_in; intro _)
      | apply Act.ite_in
      | (apply Act.each_in; intro _ _)
      | (exact Act.genWrite_pieces (Foot.sub hL (by decide)))
    | dsimp only
    | split

theorem Act.devWrite_pieces {F : Foot} {a : Nat} {v : Word} (hL : (Foot.whole [.regs, .host, .leash, .trigs, .log, .recUsed, .recDrop, .hounds, .recd, .attn, .radio, .time, .sys, .emitted]).le F) : (Act.devWrite a v).In F := by
  unfold Act.devWrite
  repeat' first
    | with_reducible first
      | exact Act.nil_in
      | exact Act.skip_in
      | apply Act.cons_in
      | apply Act.seq_in
      | (apply Act.get_in; intro _)
      | (apply Act.when_in; intro _)
      | apply Act.ite_in
      | (apply Act.each_in; intro _ _)
      | (exact Act.fabCfgWrite_pieces (Foot.sub hL (by decide)))
      | (exact Act.fabEngWrite_pieces (Foot.sub hL (by decide)))
      | (exact Act.freqSelect_pieces (Foot.sub hL (by decide)))
      | (exact Act.genWrite_pieces (Foot.sub hL (by decide)))
      | (exact Act.houndCfg_pieces (Foot.sub hL (by decide)))
      | (exact Act.lockWrite_pieces (Foot.sub hL (by decide)))
      | (exact Act.pmcWrite_pieces (Foot.sub hL (by decide)))
      | (exact Act.rgnWrite_pieces (Foot.sub hL (by decide)))
      | (exact Act.timeCfgWrite_pieces (Foot.sub hL (by decide)))
      | (exact Act.timeClass_pieces (Foot.sub hL (by decide)))
      | (exact Act.timeLatch_pieces (Foot.sub hL (by decide)))
      | (exact Act.timeStep_pieces (Foot.sub hL (by decide)))
      | (exact Act.ueClear_pieces (Foot.sub hL (by decide)))
    | dsimp only
    | split

theorem Act.pageWrite_pieces {F : Foot} {p : Nat} {o : Nat} {a : Nat} {v : Word} (hL : (Foot.whole [.regs, .mem, .errs, .lpErr, .chUe, .host, .store, .acc, .parts, .health, .leash, .trigs, .log, .recUsed, .recDrop, .recd, .attn, .flash, .emitted]).le F) : (Act.pageWrite p o a v).In F := by
  unfold Act.pageWrite
  repeat' first
    | with_reducible first
      | exact Act.nil_in
      | exact Act.skip_in
      | apply Act.cons_in
      | apply Act.seq_in
      | (apply Act.get_in; intro _)
      | (apply Act.when_in; intro _)
      | apply Act.ite_in
      | (apply Act.each_in; intro _ _)
      | (exact Act.genWrite_pieces (Foot.sub hL (by decide)))
      | (exact Act.incF_in (Foot.has hL (by decide) _))
      | (exact Act.mbUnknown_pieces (Foot.sub hL (by decide)))
      | (exact Act.setRegs_in (Foot.has hL (by decide) _))
    | dsimp only
    | split

theorem Act.bar0Write_pieces {F : Foot} {o : Nat} {v : Word} (hL : (Foot.whole [.regs, .mem, .errs, .lpErr, .chUe, .host, .store, .acc, .parts, .health, .leash, .trigs, .log, .recUsed, .recDrop, .recd, .attn, .flash, .emitted]).le F) : (Act.bar0Write o v).In F := by
  unfold Act.bar0Write
  repeat' first
    | with_reducible first
      | exact Act.nil_in
      | exact Act.skip_in
      | apply Act.cons_in
      | apply Act.seq_in
      | (apply Act.get_in; intro _)
      | (apply Act.when_in; intro _)
      | apply Act.ite_in
      | (apply Act.each_in; intro _ _)
      | (exact Act.attnAck_pieces (Foot.sub hL (by decide)))
      | (exact Act.attnCfgWrite_pieces (Foot.sub hL (by decide)))
      | (exact Act.genWrite_pieces (Foot.sub hL (by decide)))
      | (exact Act.pageWrite_pieces (Foot.sub hL (by decide)))
    | dsimp only
    | split

theorem frame_registerWrite {s : State} (w : s.Wf) {who : Nat} {addr : Nat} {size : Nat} {val : Word} {tied : Word} : Framed (.whole [.regs, .mem, .errs, .lpErr, .chUe, .host, .store, .acc, .parts, .health, .leash, .trigs, .log, .recUsed, .recDrop, .hounds, .recd, .attn, .flash, .radio, .time, .sys, .emitted]) (.registerWrite who addr size val tied) s := by
  have hL : (Foot.whole [.regs, .mem, .errs, .lpErr, .chUe, .host, .store, .acc, .parts, .health, .leash, .trigs, .log, .recUsed, .recDrop, .hounds, .recd, .attn, .flash, .radio, .time, .sys, .emitted]).le (Foot.whole [.regs, .mem, .errs, .lpErr, .chUe, .host, .store, .acc, .parts, .health, .leash, .trigs, .log, .recUsed, .recDrop, .hounds, .recd, .attn, .flash, .radio, .time, .sys, .emitted]) := Foot.le_refl
  refine framed_out w (o := execRegisterWrite who addr size val tied s) rfl ?_
  unfold execRegisterWrite
  refine ⟨_, rfl, ?_⟩
  repeat' first
    | with_reducible first
      | exact Act.nil_in
      | exact Act.skip_in
      | apply Act.cons_in
      | apply Act.seq_in
      | (apply Act.get_in; intro _)
      | (apply Act.when_in; intro _)
      | apply Act.ite_in
      | (apply Act.each_in; intro _ _)
      | (exact Act.bar0Write_pieces (Foot.sub hL (by decide)))
      | (exact Act.devWrite_pieces (Foot.sub hL (by decide)))
      | (exact Act.violation_pieces (Foot.sub hL (by decide)))
    | dsimp only
    | split

theorem Act.rcClear_pieces {F : Foot} {a : Nat} {late : Word} (hL : (Foot.whole [.regs]).le F) : (Act.rcClear a late).In F := by
  unfold Act.rcClear
  repeat' first
    | with_reducible first
      | exact Act.nil_in
      | exact Act.skip_in
      | apply Act.cons_in
      | apply Act.seq_in
      | (apply Act.get_in; intro _)
      | (apply Act.when_in; intro _)
      | apply Act.ite_in
      | (apply Act.each_in; intro _ _)
      | (exact Act.setRegs_in (Foot.has hL (by decide) _))
    | dsimp only
    | split

theorem Act.regRead_pieces {F : Foot} {a : Nat} {tie : Option (Word × Word)} {k : Word → Act} (hL : (Foot.whole [.regs, .sys]).le F) (hc_k : ∀ y0, (k y0).In F) : (Act.regRead a tie k).In F := by
  unfold Act.regRead
  repeat' first
    | with_reducible first
      | exact Act.nil_in
      | exact Act.skip_in
      | apply Act.cons_in
      | apply Act.seq_in
      | (apply Act.get_in; intro _)
      | (apply Act.when_in; intro _)
      | apply Act.ite_in
      | (apply Act.each_in; intro _ _)
      | (exact Act.modSys_in fun k => Foot.has hL (by decide) k)
      | (exact Act.rcClear_pieces (Foot.sub hL (by decide)))
      | (exact Act.unlatch_pieces (Foot.sub hL (by decide)))
      | exact hc_k _
    | dsimp only
    | split

theorem frame_rcRead {s : State} (w : s.Wf) {who : Nat} {addr : Nat} {size : Nat} {tie : Option (Word × Word)} : Framed (.whole [.regs, .host, .leash, .trigs, .log, .recUsed, .recDrop, .recd, .attn, .sys, .emitted]) (.rcRead who addr size tie) s := by
  have hL : (Foot.whole [.regs, .host, .leash, .trigs, .log, .recUsed, .recDrop, .recd, .attn, .sys, .emitted]).le (Foot.whole [.regs, .host, .leash, .trigs, .log, .recUsed, .recDrop, .recd, .attn, .sys, .emitted]) := Foot.le_refl
  refine framed_out w (o := execRcRead who addr size tie s) rfl ?_
  unfold execRcRead
  refine ⟨_, rfl, ?_⟩
  repeat' first
    | with_reducible first
      | exact Act.nil_in
      | exact Act.skip_in
      | apply Act.cons_in
      | apply Act.seq_in
      | (apply Act.get_in; intro _)
      | (apply Act.when_in; intro _)
      | apply Act.ite_in
      | (apply Act.each_in; intro _ _)
      | (exact Act.emit_in fun k => Foot.has hL (by decide) k)
      | (refine Act.regRead_pieces (Foot.sub hL (by decide)) ?_ <;> intros)
      | (exact Act.violation_pieces (Foot.sub hL (by decide)))
    | dsimp only
    | split

theorem frame_memoryRead {s : State} (w : s.Wf) {req : Requester} {addr : Nat} {len : Nat} {upset : List (Nat × Upset)} : Framed (.whole [.regs, .mem, .errs, .lpErr, .chUe, .host, .store, .acc, .anchors, .pend, .ctxs, .arrs, .parts, .health, .leash, .trigs, .log, .recUsed, .recDrop, .engs, .conns, .bars, .hounds, .cells, .cjobs, .dsps, .dumps, .recd, .attn, .sigq, .convq, .flash, .held, .pairs, .radio, .sys, .free, .emitted]) (.memoryRead req addr len upset) s := by
  have hL : (Foot.whole [.regs, .mem, .errs, .lpErr, .chUe, .host, .store, .acc, .anchors, .pend, .ctxs, .arrs, .parts, .health, .leash, .trigs, .log, .recUsed, .recDrop, .engs, .conns, .bars, .hounds, .cells, .cjobs, .dsps, .dumps, .recd, .attn, .sigq, .convq, .flash, .held, .pairs, .radio, .sys, .free, .emitted]).le (Foot.whole [.regs, .mem, .errs, .lpErr, .chUe, .host, .store, .acc, .anchors, .pend, .ctxs, .arrs, .parts, .health, .leash, .trigs, .log, .recUsed, .recDrop, .engs, .conns, .bars, .hounds, .cells, .cjobs, .dsps, .dumps, .recd, .attn, .sigq, .convq, .flash, .held, .pairs, .radio, .sys, .free, .emitted]) := Foot.le_refl
  refine framed_out w (o := execMemoryRead req addr len upset s) rfl ?_
  unfold execMemoryRead
  refine ⟨_, rfl, ?_⟩
  repeat' first
    | with_reducible first
      | exact Act.nil_in
      | exact Act.skip_in
      | apply Act.cons_in
      | apply Act.seq_in
      | (apply Act.get_in; intro _)
      | (apply Act.when_in; intro _)
      | apply Act.ite_in
      | (apply Act.each_in; intro _ _)
      | (exact Act.emit_in fun k => Foot.has hL (by decide) k)
      | (exact Act.memError_pieces (Foot.sub hL (by decide)))
      | (refine Act.readMem_pieces (Foot.sub hL (by decide)) ?_ <;> intros)
      | (refine Act.regRead_pieces (Foot.sub hL (by decide)) ?_ <;> intros)
      | (exact Act.upsets_pieces (Foot.sub hL (by decide)))
    | dsimp only
    | split

theorem frame_memoryWrite {s : State} (w : s.Wf) {req : Requester} {addr : Nat} {data : List Byte} : Framed (.whole [.regs, .mem, .errs, .lpErr, .chUe, .host, .store, .acc, .anchors, .pend, .ctxs, .arrs, .parts, .health, .leash, .trigs, .log, .recUsed, .recDrop, .engs, .conns, .bars, .hounds, .cells, .cjobs, .dsps, .dumps, .recd, .attn, .sigq, .convq, .flash, .held, .pairs, .radio, .time, .sys, .free, .emitted]) (.memoryWrite req addr data) s := by
  have hL : (Foot.whole [.regs, .mem, .errs, .lpErr, .chUe, .host, .store, .acc, .anchors, .pend, .ctxs, .arrs, .parts, .health, .leash, .trigs, .log, .recUsed, .recDrop, .engs, .conns, .bars, .hounds, .cells, .cjobs, .dsps, .dumps, .recd, .attn, .sigq, .convq, .flash, .held, .pairs, .radio, .time, .sys, .free, .emitted]).le (Foot.whole [.regs, .mem, .errs, .lpErr, .chUe, .host, .store, .acc, .anchors, .pend, .ctxs, .arrs, .parts, .health, .leash, .trigs, .log, .recUsed, .recDrop, .engs, .conns, .bars, .hounds, .cells, .cjobs, .dsps, .dumps, .recd, .attn, .sigq, .convq, .flash, .held, .pairs, .radio, .time, .sys, .free, .emitted]) := Foot.le_refl
  refine framed_out w (o := execMemoryWrite req addr data s) rfl ?_
  unfold execMemoryWrite
  refine ⟨_, rfl, ?_⟩
  repeat' first
    | with_reducible first
      | exact Act.nil_in
      | exact Act.skip_in
      | apply Act.cons_in
      | apply Act.seq_in
      | (apply Act.get_in; intro _)
      | (apply Act.when_in; intro _)
      | apply Act.ite_in
      | (apply Act.each_in; intro _ _)
      | (exact Act.devWrite_pieces (Foot.sub hL (by decide)))
      | (exact Act.emit_in fun k => Foot.has hL (by decide) k)
      | (exact Act.memError_pieces (Foot.sub hL (by decide)))
      | (refine Act.writeMem_pieces (Foot.sub hL (by decide)) ?_ <;> intros)
    | dsimp only
    | split

theorem frame_lockWrite {s : State} (w : s.Wf) {who : Nat} {val : Word} : Framed (.whole [.regs, .host, .leash, .trigs, .log, .recUsed, .recDrop, .recd, .attn, .emitted]) (.lockWrite who val) s := by
  have hL : (Foot.whole [.regs, .host, .leash, .trigs, .log, .recUsed, .recDrop, .recd, .attn, .emitted]).le (Foot.whole [.regs, .host, .leash, .trigs, .log, .recUsed, .recDrop, .recd, .attn, .emitted]) := Foot.le_refl
  refine framed_out w (o := execLockWrite who val s) rfl ?_
  unfold execLockWrite
  refine ⟨_, rfl, ?_⟩
  repeat' first
    | with_reducible first
      | exact Act.nil_in
      | exact Act.skip_in
      | apply Act.cons_in
      | apply Act.seq_in
      | (apply Act.get_in; intro _)
      | (apply Act.when_in; intro _)
      | apply Act.ite_in
      | (apply Act.each_in; intro _ _)
      | (exact Act.lockWrite_pieces (Foot.sub hL (by decide)))
      | (exact Act.violation_pieces (Foot.sub hL (by decide)))
    | dsimp only
    | split

theorem frame_snapshotRecord {s : State} (w : s.Wf) {trig : Nat} : Framed (.whole [.regs, .host, .leash, .trigs, .log, .recUsed, .recDrop, .recd, .attn, .emitted]) (.snapshotRecord trig) s := by
  have hL : (Foot.whole [.regs, .host, .leash, .trigs, .log, .recUsed, .recDrop, .recd, .attn, .emitted]).le (Foot.whole [.regs, .host, .leash, .trigs, .log, .recUsed, .recDrop, .recd, .attn, .emitted]) := Foot.le_refl
  refine framed_out w (o := execSnapshotRecord trig s) rfl ?_
  unfold execSnapshotRecord
  refine ⟨_, rfl, ?_⟩
  repeat' first
    | with_reducible first
      | exact Act.nil_in
      | exact Act.skip_in
      | apply Act.cons_in
      | apply Act.seq_in
      | (apply Act.get_in; intro _)
      | (apply Act.when_in; intro _)
      | apply Act.ite_in
      | (apply Act.each_in; intro _ _)
      | (exact Act.modTrigs_in (Foot.has hL (by decide) _))
      | (exact Act.record_pieces (Foot.sub hL (by decide)))
    | dsimp only
    | split

theorem immediate_pieces {F : Foot} {op : Nat} {x0 : JCmd} (hL : (Foot.whole [.regs, .mem, .errs, .lpErr, .chUe, .host, .store, .acc, .anchors, .pend, .ctxs, .arrs, .parts, .health, .leash, .trigs, .log, .recUsed, .recDrop, .engs, .conns, .bars, .hounds, .cells, .cjobs, .dsps, .dspP, .dets, .dumps, .recd, .attn, .sigq, .convq, .flash, .pairs, .radio, .time, .last, .sys, .free, .emitted]).le F) : (immediate op x0).In F := by
  unfold immediate
  repeat' first
    | with_reducible first
      | exact Act.nil_in
      | exact Act.skip_in
      | apply Act.cons_in
      | apply Act.seq_in
      | (apply Act.get_in; intro _)
      | (apply Act.when_in; intro _)
      | apply Act.ite_in
      | (apply Act.each_in; intro _ _)
      | (exact Act.doArrayMove_pieces (Foot.sub hL (by decide)))
      | (exact Act.doAttChain_pieces (Foot.sub hL (by decide)))
      | (exact Act.doAttExtend_pieces (Foot.sub hL (by decide)))
      | (exact Act.doAttReport_pieces (Foot.sub hL (by decide)))
      | (exact Act.doCellApply_pieces (Foot.sub hL (by decide)))
      | (exact Act.doCellDiscard_pieces (Foot.sub hL (by decide)))
      | (exact Act.doCellSet_pieces (Foot.sub hL (by decide)))
      | (exact Act.doCtrDumpStop_pieces (Foot.sub hL (by decide)))
      | (exact Act.doCtrProgram_pieces (Foot.sub hL (by decide)))
      | (exact Act.doCtrRead_pieces (Foot.sub hL (by decide)))
      | (exact Act.doCtrSampleCfg_pieces (Foot.sub hL (by decide)))
      | (exact Act.doCtrSampleRead_pieces (Foot.sub hL (by decide)))
      | (exact Act.doCtxStop_pieces (Foot.sub hL (by decide)))
      | (exact Act.doDevInfo_pieces (Foot.sub hL (by decide)))
      | (exact Act.doDspLoad_pieces (Foot.sub hL (by decide)))
      | (exact Act.doHealthCfg_pieces (Foot.sub hL (by decide)))
      | (exact Act.doHealthClear_pieces (Foot.sub hL (by decide)))
      | (exact Act.doHealthQuery_pieces (Foot.sub hL (by decide)))
      | (exact Act.doNrxLoad_pieces (Foot.sub hL (by decide)))
      | (exact Act.doNrxUnload_pieces (Foot.sub hL (by decide)))
      | (exact Act.doPasidBind_pieces (Foot.sub hL (by decide)))
      | (exact Act.doPasidUnbind_pieces (Foot.sub hL (by decide)))
      | (exact Act.doPortConfig_pieces (Foot.sub hL (by decide)))
      | (exact Act.doPowerCapSet_pieces (Foot.sub hL (by decide)))
      | (exact Act.doRecClear_pieces (Foot.sub hL (by decide)))
      | (exact Act.doRecFreeze_pieces (Foot.sub hL (by decide)))
      | (exact Act.doRecLeash_pieces (Foot.sub hL (by decide)))
      | (exact Act.doRecRead_pieces (Foot.sub hL (by decide)))
      | (exact Act.doRecStatus_pieces (Foot.sub hL (by decide)))
      | (exact Act.doRecThaw_pieces (Foot.sub hL (by decide)))
      | (exact Act.doRecTrigger_pieces (Foot.sub hL (by decide)))
      | (exact Act.doRecoveryLoad_pieces (Foot.sub hL (by decide)))
      | (exact Act.doRetire_pieces (Foot.sub hL (by decide)))
      | (exact Act.doRetireClear_pieces (Foot.sub hL (by decide)))
      | (exact Act.doSliceCreate_pieces (Foot.sub hL (by decide)))
      | (exact Act.doSliceQuery_pieces (Foot.sub hL (by decide)))
      | (exact Act.doSliceResume_pieces (Foot.sub hL (by decide)))
      | (exact Act.doStepReport_pieces (Foot.sub hL (by decide)))
      | (exact Act.doTimeSet_pieces (Foot.sub hL (by decide)))
    | dsimp only
    | split

theorem Act.listNext_pieces {F : Foot} {p : Nat} {h : Nat} (hL : (Foot.whole [.regs, .mem, .errs, .lpErr, .chUe, .host, .store, .acc, .anchors, .pend, .ctxs, .arrs, .parts, .health, .leash, .trigs, .log, .recUsed, .recDrop, .engs, .conns, .bars, .hounds, .dumps, .recd, .attn, .sigq, .convq, .flash, .pairs, .emitted]).le F) : (Act.listNext p h).In F := by
  unfold Act.listNext
  repeat' first
    | with_reducible first
      | exact Act.nil_in
      | exact Act.skip_in
      | apply Act.cons_in
      | apply Act.seq_in
      | (apply Act.get_in; intro _)
      | (apply Act.when_in; intro _)
      | apply Act.ite_in
      | (apply Act.each_in; intro _ _)
      | (exact Act.listEnd_pieces (Foot.sub hL (by decide)))
      | (exact Act.modParts_in (Foot.has hL (by decide) _))
    | dsimp only
    | split

theorem frame_listEntry {s : State} (w : s.Wf) {part : Nat} {fetchOk : Bool} : Framed (.whole [.regs, .mem, .errs, .lpErr, .chUe, .host, .store, .acc, .anchors, .pend, .ctxs, .arrs, .parts, .health, .leash, .trigs, .log, .recUsed, .recDrop, .engs, .conns, .bars, .hounds, .cells, .cjobs, .dsps, .dspP, .dets, .dumps, .recd, .attn, .sigq, .convq, .flash, .pairs, .radio, .time, .last, .sys, .free, .emitted]) (.listEntry part fetchOk) s := by
  have hL : (Foot.whole [.regs, .mem, .errs, .lpErr, .chUe, .host, .store, .acc, .anchors, .pend, .ctxs, .arrs, .parts, .health, .leash, .trigs, .log, .recUsed, .recDrop, .engs, .conns, .bars, .hounds, .cells, .cjobs, .dsps, .dspP, .dets, .dumps, .recd, .attn, .sigq, .convq, .flash, .pairs, .radio, .time, .last, .sys, .free, .emitted]).le (Foot.whole [.regs, .mem, .errs, .lpErr, .chUe, .host, .store, .acc, .anchors, .pend, .ctxs, .arrs, .parts, .health, .leash, .trigs, .log, .recUsed, .recDrop, .engs, .conns, .bars, .hounds, .cells, .cjobs, .dsps, .dspP, .dets, .dumps, .recd, .attn, .sigq, .convq, .flash, .pairs, .radio, .time, .last, .sys, .free, .emitted]) := Foot.le_refl
  refine framed_out w (o := execListEntry part fetchOk s) rfl ?_
  unfold execListEntry
  refine ⟨_, rfl, ?_⟩
  repeat' first
    | with_reducible first
      | exact Act.nil_in
      | exact Act.skip_in
      | apply Act.cons_in
      | apply Act.seq_in
      | (apply Act.get_in; intro _)
      | (apply Act.when_in; intro _)
      | apply Act.ite_in
      | (apply Act.each_in; intro _ _)
      | (exact immediate_pieces (Foot.sub hL (by decide)))
      | (exact Act.listEnd_pieces (Foot.sub hL (by decide)))
      | (exact Act.listNext_pieces (Foot.sub hL (by decide)))
      | (refine Act.perform_pieces (Foot.sub hL (by decide)) ?_ <;> intros)
      | (exact Act.refuse_pieces (Foot.sub hL (by decide)))
      | (refine Act.spaceRead_pieces (Foot.sub hL (by decide)) ?_ <;> intros)
    | dsimp only
    | split

end Sys2Proof.Machine
end

