-- ==== Sys2Proof/Laws/PiecesVector.lean ====
section
/-! SUPPORT. The pieces of state that the operations of Machine/Vector.lean can write, and the frames of its commands. -/

set_option linter.unusedSimpArgs false

namespace Sys2Proof.Machine

theorem Act.vPop_pieces {F : Foot} {c : Nat} {x : Nat} (hL : (Foot.whole [.regs, .ctxs]).le F) : (Act.vPop c x).In F := by
  unfold Act.vPop
  repeat' first
    | with_reducible first
      | exact Act.nil_in
      | exact Act.skip_in
      | apply Act.cons_in
      | apply Act.seq_in
      | (apply Act.get_in; intro _)
      | (apply Act.when_in; intro _)
      | apply Act.ite_in
      | (apply Act.each_in; intro _ _)
      | (exact Act.modCtxs_in (Foot.has hL (by decide) _))
      | (exact Act.pmc_pieces (Foot.sub hL (by decide)))
    | dsimp only
    | split

theorem Act.vIssue_pieces {F : Foot} {c : Nat} {x : Nat} {lo : Nat} {hi : Nat} {v : VInstr} {held : Bool} {body : Act} (hL : (Foot.whole [.regs, .ctxs, .vecTurn]).le F) (hc_body : body.In F) : (Act.vIssue c x lo hi v held body).In F := by
  unfold Act.vIssue
  repeat' first
    | with_reducible first
      | exact Act.nil_in
      | exact Act.skip_in
      | apply Act.cons_in
      | apply Act.seq_in
      | (apply Act.get_in; intro _)
      | (apply Act.when_in; intro _)
      | apply Act.ite_in
      | (apply Act.each_in; intro _ _)
      | (exact Act.ctxWait_pieces (Foot.sub hL (by decide)))
      | (exact Act.vPop_pieces (Foot.sub hL (by decide)))
      | (exact Act.vServed_pieces (Foot.sub hL (by decide)))
      | exact hc_body
    | dsimp only
    | split

theorem Act.vResidue_pieces {F : Foot} {c : Nat} {x : Nat} {v : VInstr} {body : Act} (hL : (Foot.whole [.regs, .mem, .errs, .lpErr, .chUe, .host, .store, .acc, .anchors, .pend, .ctxs, .arrs, .parts, .health, .leash, .trigs, .log, .recUsed, .recDrop, .engs, .conns, .bars, .hounds, .cells, .cjobs, .dsps, .dumps, .recd, .attn, .sigq, .convq, .flash, .pairs, .radio, .last, .free, .emitted]).le F) (hc_body : body.In F) : (Act.vResidue c x v body).In F := by
  unfold Act.vResidue
  repeat' first
    | with_reducible first
      | exact Act.nil_in
      | exact Act.skip_in
      | apply Act.cons_in
      | apply Act.seq_in
      | (apply Act.get_in; intro _)
      | (apply Act.when_in; intro _)
      | apply Act.ite_in
      | (apply Act.each_in; intro _ _)
      | (exact Act.coreFault_pieces (Foot.sub hL (by decide)))
      | (exact Act.coreFence_pieces (Foot.sub hL (by decide)))
      | (exact Act.incF_in (Foot.has hL (by decide) _))
      | (exact Act.pmc_pieces (Foot.sub hL (by decide)))
      | (exact Act.setF_in (Foot.has hL (by decide) _))
      | exact hc_body
    | dsimp only
    | split

theorem Act.vInvalid_pieces {F : Foot} {c : Nat} {x : Nat} (hL : (Foot.whole [.regs, .mem, .errs, .lpErr, .chUe, .host, .store, .acc, .anchors, .pend, .ctxs, .arrs, .parts, .health, .leash, .trigs, .log, .recUsed, .recDrop, .engs, .conns, .bars, .hounds, .cells, .cjobs, .dsps, .dumps, .recd, .attn, .sigq, .convq, .flash, .pairs, .radio, .free, .emitted]).le F) : (Act.vInvalid c x).In F := by
  unfold Act.vInvalid
  repeat' first
    | with_reducible first
      | exact Act.nil_in
      | exact Act.skip_in
      | apply Act.cons_in
      | apply Act.seq_in
      | (apply Act.get_in; intro _)
      | (apply Act.when_in; intro _)
      | apply Act.ite_in
      | (apply Act.each_in; intro _ _)
      | (exact Act.coreFault_pieces (Foot.sub hL (by decide)))
    | dsimp only
    | split

theorem Act.setVreg64_pieces {F : Foot} {c : Nat} {r : Nat} {l : List Nat} (hL : (Foot.whole [.vreg]).le F) : (Act.setVreg64 c r l).In F := by
  unfold Act.setVreg64
  repeat' first
    | with_reducible first
      | exact Act.nil_in
      | exact Act.skip_in
      | apply Act.cons_in
      | apply Act.seq_in
      | (apply Act.get_in; intro _)
      | (apply Act.when_in; intro _)
      | apply Act.ite_in
      | (apply Act.each_in; intro _ _)
      | (exact Act.setVreg_in (Foot.has hL (by decide) _))
    | dsimp only
    | split

theorem frame_vld {s : State} (w : s.Wf) {core : Nat} {ctx : Nat} {v : VInstr} : Framed (.whole [.regs, .mem, .errs, .lpErr, .chUe, .host, .store, .acc, .anchors, .pend, .vreg, .ctxs, .arrs, .parts, .vecTurn, .health, .leash, .trigs, .log, .recUsed, .recDrop, .engs, .conns, .bars, .hounds, .cells, .cjobs, .dsps, .dumps, .recd, .attn, .sigq, .convq, .flash, .pairs, .radio, .free, .emitted]) (.vld core ctx v) s := by
  have hL : (Foot.whole [.regs, .mem, .errs, .lpErr, .chUe, .host, .store, .acc, .anchors, .pend, .vreg, .ctxs, .arrs, .parts, .vecTurn, .health, .leash, .trigs, .log, .recUsed, .recDrop, .engs, .conns, .bars, .hounds, .cells, .cjobs, .dsps, .dumps, .recd, .attn, .sigq, .convq, .flash, .pairs, .radio, .free, .emitted]).le (Foot.whole [.regs, .mem, .errs, .lpErr, .chUe, .host, .store, .acc, .anchors, .pend, .vreg, .ctxs, .arrs, .parts, .vecTurn, .health, .leash, .trigs, .log, .recUsed, .recDrop, .engs, .conns, .bars, .hounds, .cells, .cjobs, .dsps, .dumps, .recd, .attn, .sigq, .convq, .flash, .pairs, .radio, .free, .emitted]) := Foot.le_refl
  refine framed_out w (o := execVld core ctx v s) rfl ?_
  unfold execVld
  refine ⟨_, rfl, ?_⟩
  repeat' first
    | with_reducible first
      | exact Act.nil_in
      | exact Act.skip_in
      | apply Act.cons_in
      | apply Act.seq_in
      | (apply Act.get_in; intro _)
      | (apply Act.when_in; intro _)
      | apply Act.ite_in
      | (apply Act.each_in; intro _ _)
      | (exact Act.coreFault_pieces (Foot.sub hL (by decide)))
      | (exact Act.csFix_pieces (Foot.sub hL (by decide)))
      | (exact Act.pmc_pieces (Foot.sub hL (by decide)))
      | (exact Act.setVreg64_pieces (Foot.sub hL (by decide)))
      | (refine Act.vIssue_pieces (Foot.sub hL (by decide)) ?_ <;> intros)
      | (exact Act.violation_pieces (Foot.sub hL (by decide)))
    | dsimp only
    | split

theorem frame_vst {s : State} (w : s.Wf) {core : Nat} {ctx : Nat} {v : VInstr} : Framed (.whole [.regs, .mem, .errs, .lpErr, .chUe, .host, .store, .acc, .ctxs, .vecTurn, .health, .leash, .trigs, .log, .recUsed, .recDrop, .recd, .attn, .flash, .emitted]) (.vst core ctx v) s := by
  have hL : (Foot.whole [.regs, .mem, .errs, .lpErr, .chUe, .host, .store, .acc, .ctxs, .vecTurn, .health, .leash, .trigs, .log, .recUsed, .recDrop, .recd, .attn, .flash, .emitted]).le (Foot.whole [.regs, .mem, .errs, .lpErr, .chUe, .host, .store, .acc, .ctxs, .vecTurn, .health, .leash, .trigs, .log, .recUsed, .recDrop, .recd, .attn, .flash, .emitted]) := Foot.le_refl
  refine framed_out w (o := execVst core ctx v s) rfl ?_
  unfold execVst
  refine ⟨_, rfl, ?_⟩
  repeat' first
    | with_reducible first
      | exact Act.nil_in
      | exact Act.skip_in
      | apply Act.cons_in
      | apply Act.seq_in
      | (apply Act.get_in; intro _)
      | (apply Act.when_in; intro _)
      | apply Act.ite_in
      | (apply Act.each_in; intro _ _)
      | (exact Act.csWrite_pieces (Foot.sub hL (by decide)))
      | (refine Act.vIssue_pieces (Foot.sub hL (by decide)) ?_ <;> intros)
    | dsimp only
    | split

theorem frame_vlda {s : State} (w : s.Wf) {core : Nat} {ctx : Nat} {v : VInstr} : Framed (.whole [.regs, .mem, .errs, .lpErr, .chUe, .host, .store, .acc, .anchors, .pend, .vreg, .ctxs, .arrs, .parts, .vecTurn, .health, .leash, .trigs, .log, .recUsed, .recDrop, .engs, .conns, .bars, .hounds, .cells, .cjobs, .dsps, .dumps, .recd, .attn, .sigq, .convq, .flash, .pairs, .radio, .free, .emitted]) (.vlda core ctx v) s := by
  have hL : (Foot.whole [.regs, .mem, .errs, .lpErr, .chUe, .host, .store, .acc, .anchors, .pend, .vreg, .ctxs, .arrs, .parts, .vecTurn, .health, .leash, .trigs, .log, .recUsed, .recDrop, .engs, .conns, .bars, .hounds, .cells, .cjobs, .dsps, .dumps, .recd, .attn, .sigq, .convq, .flash, .pairs, .radio, .free, .emitted]).le (Foot.whole [.regs, .mem, .errs, .lpErr, .chUe, .host, .store, .acc, .anchors, .pend, .vreg, .ctxs, .arrs, .parts, .vecTurn, .health, .leash, .trigs, .log, .recUsed, .recDrop, .engs, .conns, .bars, .hounds, .cells, .cjobs, .dsps, .dumps, .recd, .attn, .sigq, .convq, .flash, .pairs, .radio, .free, .emitted]) := Foot.le_refl
  refine framed_out w (o := execVlda core ctx v s) rfl ?_
  unfold execVlda
  refine ⟨_, rfl, ?_⟩
  repeat' first
    | with_reducible first
      | exact Act.nil_in
      | exact Act.skip_in
      | apply Act.cons_in
      | apply Act.seq_in
      | (apply Act.get_in; intro _)
      | (apply Act.when_in; intro _)
      | apply Act.ite_in
      | (apply Act.each_in; intro _ _)
      | (exact Act.coreFault_pieces (Foot.sub hL (by decide)))
      | (exact Act.lineFix_pieces (Foot.sub hL (by decide)))
      | (exact Act.setVreg64_pieces (Foot.sub hL (by decide)))
      | (exact Act.vInvalid_pieces (Foot.sub hL (by decide)))
      | (refine Act.vIssue_pieces (Foot.sub hL (by decide)) ?_ <;> intros)
      | (exact Act.violation_pieces (Foot.sub hL (by decide)))
    | dsimp only
    | split

theorem frame_vsta {s : State} (w : s.Wf) {core : Nat} {ctx : Nat} {v : VInstr} : Framed (.whole [.regs, .mem, .errs, .lpErr, .chUe, .host, .store, .acc, .anchors, .pend, .ctxs, .arrs, .parts, .vecTurn, .health, .leash, .trigs, .log, .recUsed, .recDrop, .engs, .conns, .bars, .hounds, .cells, .cjobs, .dsps, .dumps, .recd, .attn, .sigq, .convq, .flash, .pairs, .radio, .free, .emitted]) (.vsta core ctx v) s := by
  have hL : (Foot.whole [.regs, .mem, .errs, .lpErr, .chUe, .host, .store, .acc, .anchors, .pend, .ctxs, .arrs, .parts, .vecTurn, .health, .leash, .trigs, .log, .recUsed, .recDrop, .engs, .conns, .bars, .hounds, .cells, .cjobs, .dsps, .dumps, .recd, .attn, .sigq, .convq, .flash, .pairs, .radio, .free, .emitted]).le (Foot.whole [.regs, .mem, .errs, .lpErr, .chUe, .host, .store, .acc, .anchors, .pend, .ctxs, .arrs, .parts, .vecTurn, .health, .leash, .trigs, .log, .recUsed, .recDrop, .engs, .conns, .bars, .hounds, .cells, .cjobs, .dsps, .dumps, .recd, .attn, .sigq, .convq, .flash, .pairs, .radio, .free, .emitted]) := Foot.le_refl
  refine framed_out w (o := execVsta core ctx v s) rfl ?_
  unfold execVsta
  refine ⟨_, rfl, ?_⟩
  repeat' first
    | with_reducible first
      | exact Act.nil_in
      | exact Act.skip_in
      | apply Act.cons_in
      | apply Act.seq_in
      | (apply Act.get_in; intro _)
      | (apply Act.when_in; intro _)
      | apply Act.ite_in
      | (apply Act.each_in; intro _ _)
      | (exact Act.setAcc_in (Foot.has hL (by decide) _))
      | (exact Act.setErrs_in (Foot.has hL (by decide) _))
      | (exact Act.vInvalid_pieces (Foot.sub hL (by decide)))
      | (refine Act.vIssue_pieces (Foot.sub hL (by decide)) ?_ <;> intros)
      | (exact Act.violation_pieces (Foot.sub hL (by decide)))
    | dsimp only
    | split

theorem Act.vLanes_pieces {F : Foot} {c : Nat} {x : Nat} {lo : Nat} {hi : Nat} {v : VInstr} {checked : Bool} {f : Nat → Nat → Nat → Nat} (hL : (Foot.whole [.regs, .mem, .errs, .lpErr, .chUe, .host, .store, .acc, .anchors, .pend, .vreg, .ctxs, .arrs, .parts, .vecTurn, .health, .leash, .trigs, .log, .recUsed, .recDrop, .engs, .conns, .bars, .hounds, .cells, .cjobs, .dsps, .dumps, .recd, .attn, .sigq, .convq, .flash, .pairs, .radio, .last, .free, .emitted]).le F) : (Act.vLanes c x lo hi v checked f).In F := by
  unfold Act.vLanes
  repeat' first
    | with_reducible first
      | exact Act.nil_in
      | exact Act.skip_in
      | apply Act.cons_in
      | apply Act.seq_in
      | (apply Act.get_in; intro _)
      | (apply Act.when_in; intro _)
      | apply Act.ite_in
      | (apply Act.each_in; intro _ _)
      | (exact Act.setVreg64_pieces (Foot.sub hL (by decide)))
      | (refine Act.vIssue_pieces (Foot.sub hL (by decide)) ?_ <;> intros)
      | (refine Act.vResidue_pieces (Foot.sub hL (by decide)) ?_ <;> intros)
    | dsimp only
    | split

theorem frame_vadd {s : State} (w : s.Wf) {core : Nat} {ctx : Nat} {v : VInstr} : Framed (.whole [.regs, .mem, .errs, .lpErr, .chUe, .host, .store, .acc, .anchors, .pend, .vreg, .ctxs, .arrs, .parts, .vecTurn, .health, .leash, .trigs, .log, .recUsed, .recDrop, .engs, .conns, .bars, .hounds, .cells, .cjobs, .dsps, .dumps, .recd, .attn, .sigq, .convq, .flash, .pairs, .radio, .last, .free, .emitted]) (.vadd core ctx v) s := by
  have hL : (Foot.whole [.regs, .mem, .errs, .lpErr, .chUe, .host, .store, .acc, .anchors, .pend, .vreg, .ctxs, .arrs, .parts, .vecTurn, .health, .leash, .trigs, .log, .recUsed, .recDrop, .engs, .conns, .bars, .hounds, .cells, .cjobs, .dsps, .dumps, .recd, .attn, .sigq, .convq, .flash, .pairs, .radio, .last, .free, .emitted]).le (Foot.whole [.regs, .mem, .errs, .lpErr, .chUe, .host, .store, .acc, .anchors, .pend, .vreg, .ctxs, .arrs, .parts, .vecTurn, .health, .leash, .trigs, .log, .recUsed, .recDrop, .engs, .conns, .bars, .hounds, .cells, .cjobs, .dsps, .dumps, .recd, .attn, .sigq, .convq, .flash, .pairs, .radio, .last, .free, .emitted]) := Foot.le_refl
  refine framed_out w (o := execVadd core ctx v s) rfl ?_
  unfold execVadd
  refine ⟨_, rfl, ?_⟩
  repeat' first
    | with_reducible first
      | exact Act.nil_in
      | exact Act.skip_in
      | apply Act.cons_in
      | apply Act.seq_in
      | (apply Act.get_in; intro _)
      | (apply Act.when_in; intro _)
      | apply Act.ite_in
      | (apply Act.each_in; intro _ _)
      | (exact Act.vLanes_pieces (Foot.sub hL (by decide)))
    | dsimp only
    | split

theorem frame_vsub {s : State} (w : s.Wf) {core : Nat} {ctx : Nat} {v : VInstr} : Framed (.whole [.regs, .mem, .errs, .lpErr, .chUe, .host, .store, .acc, .anchors, .pend, .vreg, .ctxs, .arrs, .parts, .vecTurn, .health, .leash, .trigs, .log, .recUsed, .recDrop, .engs, .conns, .bars, .hounds, .cells, .cjobs, .dsps, .dumps, .recd, .attn, .sigq, .convq, .flash, .pairs, .radio, .last, .free, .emitted]) (.vsub core ctx v) s := by
  have hL : (Foot.whole [.regs, .mem, .errs, .lpErr, .chUe, .host, .store, .acc, .anchors, .pend, .vreg, .ctxs, .arrs, .parts, .vecTurn, .health, .leash, .trigs, .log, .recUsed, .recDrop, .engs, .conns, .bars, .hounds, .cells, .cjobs, .dsps, .dumps, .recd, .attn, .sigq, .convq, .flash, .pairs, .radio, .last, .free, .emitted]).le (Foot.whole [.regs, .mem, .errs, .lpErr, .chUe, .host, .store, .acc, .anchors, .pend, .vreg, .ctxs, .arrs, .parts, .vecTurn, .health, .leash, .trigs, .log, .recUsed, .recDrop, .engs, .conns, .bars, .hounds, .cells, .cjobs, .dsps, .dumps, .recd, .attn, .sigq, .convq, .flash, .pairs, .radio, .last, .free, .emitted]) := Foot.le_refl
  refine framed_out w (o := execVsub core ctx v s) rfl ?_
  unfold execVsub
  refine ⟨_, rfl, ?_⟩
  repeat' first
    | with_reducible first
      | exact Act.nil_in
      | exact Act.skip_in
      | apply Act.cons_in
      | apply Act.seq_in
      | (apply Act.get_in; intro _)
      | (apply Act.when_in; intro _)
      | apply Act.ite_in
      | (apply Act.each_in; intro _ _)
      | (exact Act.vLanes_pieces (Foot.sub hL (by decide)))
    | dsimp only
    | split

theorem frame_vmul {s : State} (w : s.Wf) {core : Nat} {ctx : Nat} {v : VInstr} : Framed (.whole [.regs, .mem, .errs, .lpErr, .chUe, .host, .store, .acc, .anchors, .pend, .vreg, .ctxs, .arrs, .parts, .vecTurn, .health, .leash, .trigs, .log, .recUsed, .recDrop, .engs, .conns, .bars, .hounds, .cells, .cjobs, .dsps, .dumps, .recd, .attn, .sigq, .convq, .flash, .pairs, .radio, .last, .free, .emitted]) (.vmul core ctx v) s := by
  have hL : (Foot.whole [.regs, .mem, .errs, .lpErr, .chUe, .host, .store, .acc, .anchors, .pend, .vreg, .ctxs, .arrs, .parts, .vecTurn, .health, .leash, .trigs, .log, .recUsed, .recDrop, .engs, .conns, .bars, .hounds, .cells, .cjobs, .dsps, .dumps, .recd, .attn, .sigq, .convq, .flash, .pairs, .radio, .last, .free, .emitted]).le (Foot.whole [.regs, .mem, .errs, .lpErr, .chUe, .host, .store, .acc, .anchors, .pend, .vreg, .ctxs, .arrs, .parts, .vecTurn, .health, .leash, .trigs, .log, .recUsed, .recDrop, .engs, .conns, .bars, .hounds, .cells, .cjobs, .dsps, .dumps, .recd, .attn, .sigq, .convq, .flash, .pairs, .radio, .last, .free, .emitted]) := Foot.le_refl
  refine framed_out w (o := execVmul core ctx v s) rfl ?_
  unfold execVmul
  refine ⟨_, rfl, ?_⟩
  repeat' first
    | with_reducible first
      | exact Act.nil_in
      | exact Act.skip_in
      | apply Act.cons_in
      | apply Act.seq_in
      | (apply Act.get_in; intro _)
      | (apply Act.when_in; intro _)
      | apply Act.ite_in
      | (apply Act.each_in; intro _ _)
      | (exact Act.vLanes_pieces (Foot.sub hL (by decide)))
    | dsimp only
    | split

theorem frame_vfma {s : State} (w : s.Wf) {core : Nat} {ctx : Nat} {v : VInstr} : Framed (.whole [.regs, .mem, .errs, .lpErr, .chUe, .host, .store, .acc, .anchors, .pend, .vreg, .ctxs, .arrs, .parts, .vecTurn, .health, .leash, .trigs, .log, .recUsed, .recDrop, .engs, .conns, .bars, .hounds, .cells, .cjobs, .dsps, .dumps, .recd, .attn, .sigq, .convq, .flash, .pairs, .radio, .last, .free, .emitted]) (.vfma core ctx v) s := by
  have hL : (Foot.whole [.regs, .mem, .errs, .lpErr, .chUe, .host, .store, .acc, .anchors, .pend, .vreg, .ctxs, .arrs, .parts, .vecTurn, .health, .leash, .trigs, .log, .recUsed, .recDrop, .engs, .conns, .bars, .hounds, .cells, .cjobs, .dsps, .dumps, .recd, .attn, .sigq, .convq, .flash, .pairs, .radio, .last, .free, .emitted]).le (Foot.whole [.regs, .mem, .errs, .lpErr, .chUe, .host, .store, .acc, .anchors, .pend, .vreg, .ctxs, .arrs, .parts, .vecTurn, .health, .leash, .trigs, .log, .recUsed, .recDrop, .engs, .conns, .bars, .hounds, .cells, .cjobs, .dsps, .dumps, .recd, .attn, .sigq, .convq, .flash, .pairs, .radio, .last, .free, .emitted]) := Foot.le_refl
  refine framed_out w (o := execVfma core ctx v s) rfl ?_
  unfold execVfma
  refine ⟨_, rfl, ?_⟩
  repeat' first
    | with_reducible first
      | exact Act.nil_in
      | exact Act.skip_in
      | apply Act.cons_in
      | apply Act.seq_in
      | (apply Act.get_in; intro _)
      | (apply Act.when_in; intro _)
      | apply Act.ite_in
      | (apply Act.each_in; intro _ _)
      | (exact Act.vLanes_pieces (Foot.sub hL (by decide)))
    | dsimp only
    | split

theorem frame_vmax {s : State} (w : s.Wf) {core : Nat} {ctx : Nat} {v : VInstr} : Framed (.whole [.regs, .mem, .errs, .lpErr, .chUe, .host, .store, .acc, .anchors, .pend, .vreg, .ctxs, .arrs, .parts, .vecTurn, .health, .leash, .trigs, .log, .recUsed, .recDrop, .engs, .conns, .bars, .hounds, .cells, .cjobs, .dsps, .dumps, .recd, .attn, .sigq, .convq, .flash, .pairs, .radio, .last, .free, .emitted]) (.vmax core ctx v) s := by
  have hL : (Foot.whole [.regs, .mem, .errs, .lpErr, .chUe, .host, .store, .acc, .anchors, .pend, .vreg, .ctxs, .arrs, .parts, .vecTurn, .health, .leash, .trigs, .log, .recUsed, .recDrop, .engs, .conns, .bars, .hounds, .cells, .cjobs, .dsps, .dumps, .recd, .attn, .sigq, .convq, .flash, .pairs, .radio, .last, .free, .emitted]).le (Foot.whole [.regs, .mem, .errs, .lpErr, .chUe, .host, .store, .acc, .anchors, .pend, .vreg, .ctxs, .arrs, .parts, .vecTurn, .health, .leash, .trigs, .log, .recUsed, .recDrop, .engs, .conns, .bars, .hounds, .cells, .cjobs, .dsps, .dumps, .recd, .attn, .sigq, .convq, .flash, .pairs, .radio, .last, .free, .emitted]) := Foot.le_refl
  refine framed_out w (o := execVmax core ctx v s) rfl ?_
  unfold execVmax
  refine ⟨_, rfl, ?_⟩
  repeat' first
    | with_reducible first
      | exact Act.nil_in
      | exact Act.skip_in
      | apply Act.cons_in
      | apply Act.seq_in
      | (apply Act.get_in; intro _)
      | (apply Act.when_in; intro _)
      | apply Act.ite_in
      | (apply Act.each_in; intro _ _)
      | (exact Act.vLanes_pieces (Foot.sub hL (by decide)))
    | dsimp only
    | split

theorem frame_vmin {s : State} (w : s.Wf) {core : Nat} {ctx : Nat} {v : VInstr} : Framed (.whole [.regs, .mem, .errs, .lpErr, .chUe, .host, .store, .acc, .anchors, .pend, .vreg, .ctxs, .arrs, .parts, .vecTurn, .health, .leash, .trigs, .log, .recUsed, .recDrop, .engs, .conns, .bars, .hounds, .cells, .cjobs, .dsps, .dumps, .recd, .attn, .sigq, .convq, .flash, .pairs, .radio, .last, .free, .emitted]) (.vmin core ctx v) s := by
  have hL : (Foot.whole [.regs, .mem, .errs, .lpErr, .chUe, .host, .store, .acc, .anchors, .pend, .vreg, .ctxs, .arrs, .parts, .vecTurn, .health, .leash, .trigs, .log, .recUsed, .recDrop, .engs, .conns, .bars, .hounds, .cells, .cjobs, .dsps, .dumps, .recd, .attn, .sigq, .convq, .flash, .pairs, .radio, .last, .free, .emitted]).le (Foot.whole [.regs, .mem, .errs, .lpErr, .chUe, .host, .store, .acc, .anchors, .pend, .vreg, .ctxs, .arrs, .parts, .vecTurn, .health, .leash, .trigs, .log, .recUsed, .recDrop, .engs, .conns, .bars, .hounds, .cells, .cjobs, .dsps, .dumps, .recd, .attn, .sigq, .convq, .flash, .pairs, .radio, .last, .free, .emitted]) := Foot.le_refl
  refine framed_out w (o := execVmin core ctx v s) rfl ?_
  unfold execVmin
  refine ⟨_, rfl, ?_⟩
  repeat' first
    | with_reducible first
      | exact Act.nil_in
      | exact Act.skip_in
      | apply Act.cons_in
      | apply Act.seq_in
      | (apply Act.get_in; intro _)
      | (apply Act.when_in; intro _)
      | apply Act.ite_in
      | (apply Act.each_in; intro _ _)
      | (exact Act.vLanes_pieces (Foot.sub hL (by decide)))
    | dsimp only
    | split

theorem frame_vabs {s : State} (w : s.Wf) {core : Nat} {ctx : Nat} {v : VInstr} : Framed (.whole [.regs, .mem, .errs, .lpErr, .chUe, .host, .store, .acc, .anchors, .pend, .vreg, .ctxs, .arrs, .parts, .vecTurn, .health, .leash, .trigs, .log, .recUsed, .recDrop, .engs, .conns, .bars, .hounds, .cells, .cjobs, .dsps, .dumps, .recd, .attn, .sigq, .convq, .flash, .pairs, .radio, .last, .free, .emitted]) (.vabs core ctx v) s := by
  have hL : (Foot.whole [.regs, .mem, .errs, .lpErr, .chUe, .host, .store, .acc, .anchors, .pend, .vreg, .ctxs, .arrs, .parts, .vecTurn, .health, .leash, .trigs, .log, .recUsed, .recDrop, .engs, .conns, .bars, .hounds, .cells, .cjobs, .dsps, .dumps, .recd, .attn, .sigq, .convq, .flash, .pairs, .radio, .last, .free, .emitted]).le (Foot.whole [.regs, .mem, .errs, .lpErr, .chUe, .host, .store, .acc, .anchors, .pend, .vreg, .ctxs, .arrs, .parts, .vecTurn, .health, .leash, .trigs, .log, .recUsed, .recDrop, .engs, .conns, .bars, .hounds, .cells, .cjobs, .dsps, .dumps, .recd, .attn, .sigq, .convq, .flash, .pairs, .radio, .last, .free, .emitted]) := Foot.le_refl
  refine framed_out w (o := execVabs core ctx v s) rfl ?_
  unfold execVabs
  refine ⟨_, rfl, ?_⟩
  repeat' first
    | with_reducible first
      | exact Act.nil_in
      | exact Act.skip_in
      | apply Act.cons_in
      | apply Act.seq_in
      | (apply Act.get_in; intro _)
      | (apply Act.when_in; intro _)
      | apply Act.ite_in
      | (apply Act.each_in; intro _ _)
      | (exact Act.vLanes_pieces (Foot.sub hL (by decide)))
    | dsimp only
    | split

theorem frame_vneg {s : State} (w : s.Wf) {core : Nat} {ctx : Nat} {v : VInstr} : Framed (.whole [.regs, .mem, .errs, .lpErr, .chUe, .host, .store, .acc, .anchors, .pend, .vreg, .ctxs, .arrs, .parts, .vecTurn, .health, .leash, .trigs, .log, .recUsed, .recDrop, .engs, .conns, .bars, .hounds, .cells, .cjobs, .dsps, .dumps, .recd, .attn, .sigq, .convq, .flash, .pairs, .radio, .last, .free, .emitted]) (.vneg core ctx v) s := by
  have hL : (Foot.whole [.regs, .mem, .errs, .lpErr, .chUe, .host, .store, .acc, .anchors, .pend, .vreg, .ctxs, .arrs, .parts, .vecTurn, .health, .leash, .trigs, .log, .recUsed, .recDrop, .engs, .conns, .bars, .hounds, .cells, .cjobs, .dsps, .dumps, .recd, .attn, .sigq, .convq, .flash, .pairs, .radio, .last, .free, .emitted]).le (Foot.whole [.regs, .mem, .errs, .lpErr, .chUe, .host, .store, .acc, .anchors, .pend, .vreg, .ctxs, .arrs, .parts, .vecTurn, .health, .leash, .trigs, .log, .recUsed, .recDrop, .engs, .conns, .bars, .hounds, .cells, .cjobs, .dsps, .dumps, .recd, .attn, .sigq, .convq, .flash, .pairs, .radio, .last, .free, .emitted]) := Foot.le_refl
  refine framed_out w (o := execVneg core ctx v s) rfl ?_
  unfold execVneg
  refine ⟨_, rfl, ?_⟩
  repeat' first
    | with_reducible first
      | exact Act.nil_in
      | exact Act.skip_in
      | apply Act.cons_in
      | apply Act.seq_in
      | (apply Act.get_in; intro _)
      | (apply Act.when_in; intro _)
      | apply Act.ite_in
      | (apply Act.each_in; intro _ _)
      | (exact Act.vLanes_pieces (Foot.sub hL (by decide)))
    | dsimp only
    | split

theorem frame_vcmplt {s : State} (w : s.Wf) {core : Nat} {ctx : Nat} {v : VInstr} : Framed (.whole [.regs, .mem, .errs, .lpErr, .chUe, .host, .store, .acc, .anchors, .pend, .vreg, .ctxs, .arrs, .parts, .vecTurn, .health, .leash, .trigs, .log, .recUsed, .recDrop, .engs, .conns, .bars, .hounds, .cells, .cjobs, .dsps, .dumps, .recd, .attn, .sigq, .convq, .flash, .pairs, .radio, .last, .free, .emitted]) (.vcmplt core ctx v) s := by
  have hL : (Foot.whole [.regs, .mem, .errs, .lpErr, .chUe, .host, .store, .acc, .anchors, .pend, .vreg, .ctxs, .arrs, .parts, .vecTurn, .health, .leash, .trigs, .log, .recUsed, .recDrop, .engs, .conns, .bars, .hounds, .cells, .cjobs, .dsps, .dumps, .recd, .attn, .sigq, .convq, .flash, .pairs, .radio, .last, .free, .emitted]).le (Foot.whole [.regs, .mem, .errs, .lpErr, .chUe, .host, .store, .acc, .anchors, .pend, .vreg, .ctxs, .arrs, .parts, .vecTurn, .health, .leash, .trigs, .log, .recUsed, .recDrop, .engs, .conns, .bars, .hounds, .cells, .cjobs, .dsps, .dumps, .recd, .attn, .sigq, .convq, .flash, .pairs, .radio, .last, .free, .emitted]) := Foot.le_refl
  refine framed_out w (o := execVcmplt core ctx v s) rfl ?_
  unfold execVcmplt
  refine ⟨_, rfl, ?_⟩
  repeat' first
    | with_reducible first
      | exact Act.nil_in
      | exact Act.skip_in
      | apply Act.cons_in
      | apply Act.seq_in
      | (apply Act.get_in; intro _)
      | (apply Act.when_in; intro _)
      | apply Act.ite_in
      | (apply Act.each_in; intro _ _)
      | (exact Act.vLanes_pieces (Foot.sub hL (by decide)))
    | dsimp only
    | split

theorem frame_vcmple {s : State} (w : s.Wf) {core : Nat} {ctx : Nat} {v : VInstr} : Framed (.whole [.regs, .mem, .errs, .lpErr, .chUe, .host, .store, .acc, .anchors, .pend, .vreg, .ctxs, .arrs, .parts, .vecTurn, .health, .leash, .trigs, .log, .recUsed, .recDrop, .engs, .conns, .bars, .hounds, .cells, .cjobs, .dsps, .dumps, .recd, .attn, .sigq, .convq, .flash, .pairs, .radio, .last, .free, .emitted]) (.vcmple core ctx v) s := by
  have hL : (Foot.whole [.regs, .mem, .errs, .lpErr, .chUe, .host, .store, .acc, .anchors, .pend, .vreg, .ctxs, .arrs, .parts, .vecTurn, .health, .leash, .trigs, .log, .recUsed, .recDrop, .engs, .conns, .bars, .hounds, .cells, .cjobs, .dsps, .dumps, .recd, .attn, .sigq, .convq, .flash, .pairs, .radio, .last, .free, .emitted]).le (Foot.whole [.regs, .mem, .errs, .lpErr, .chUe, .host, .store, .acc, .anchors, .pend, .vreg, .ctxs, .arrs, .parts, .vecTurn, .health, .leash, .trigs, .log, .recUsed, .recDrop, .engs, .conns, .bars, .hounds, .cells, .cjobs, .dsps, .dumps, .recd, .attn, .sigq, .convq, .flash, .pairs, .radio, .last, .free, .emitted]) := Foot.le_refl
  refine framed_out w (o := execVcmple core ctx v s) rfl ?_
  unfold execVcmple
  refine ⟨_, rfl, ?_⟩
  repeat' first
    | with_reducible first
      | exact Act.nil_in
      | exact Act.skip_in
      | apply Act.cons_in
      | apply Act.seq_in
      | (apply Act.get_in; intro _)
      | (apply Act.when_in; intro _)
      | apply Act.ite_in
      | (apply Act.each_in; intro _ _)
      | (exact Act.vLanes_pieces (Foot.sub hL (by decide)))
    | dsimp only
    | split

theorem frame_vcmpeq {s : State} (w : s.Wf) {core : Nat} {ctx : Nat} {v : VInstr} : Framed (.whole [.regs, .mem, .errs, .lpErr, .chUe, .host, .store, .acc, .anchors, .pend, .vreg, .ctxs, .arrs, .parts, .vecTurn, .health, .leash, .trigs, .log, .recUsed, .recDrop, .engs, .conns, .bars, .hounds, .cells, .cjobs, .dsps, .dumps, .recd, .attn, .sigq, .convq, .flash, .pairs, .radio, .last, .free, .emitted]) (.vcmpeq core ctx v) s := by
  have hL : (Foot.whole [.regs, .mem, .errs, .lpErr, .chUe, .host, .store, .acc, .anchors, .pend, .vreg, .ctxs, .arrs, .parts, .vecTurn, .health, .leash, .trigs, .log, .recUsed, .recDrop, .engs, .conns, .bars, .hounds, .cells, .cjobs, .dsps, .dumps, .recd, .attn, .sigq, .convq, .flash, .pairs, .radio, .last, .free, .emitted]).le (Foot.whole [.regs, .mem, .errs, .lpErr, .chUe, .host, .store, .acc, .anchors, .pend, .vreg, .ctxs, .arrs, .parts, .vecTurn, .health, .leash, .trigs, .log, .recUsed, .recDrop, .engs, .conns, .bars, .hounds, .cells, .cjobs, .dsps, .dumps, .recd, .attn, .sigq, .convq, .flash, .pairs, .radio, .last, .free, .emitted]) := Foot.le_refl
  refine framed_out w (o := execVcmpeq core ctx v s) rfl ?_
  unfold execVcmpeq
  refine ⟨_, rfl, ?_⟩
  repeat' first
    | with_reducible first
      | exact Act.nil_in
      | exact Act.skip_in
      | apply Act.cons_in
      | apply Act.seq_in
      | (apply Act.get_in; intro _)
      | (apply Act.when_in; intro _)
      | apply Act.ite_in
      | (apply Act.each_in; intro _ _)
      | (exact Act.vLanes_pieces (Foot.sub hL (by decide)))
    | dsimp only
    | split

theorem frame_vsel {s : State} (w : s.Wf) {core : Nat} {ctx : Nat} {v : VInstr} : Framed (.whole [.regs, .mem, .errs, .lpErr, .chUe, .host, .store, .acc, .anchors, .pend, .vreg, .ctxs, .arrs, .parts, .vecTurn, .health, .leash, .trigs, .log, .recUsed, .recDrop, .engs, .conns, .bars, .hounds, .cells, .cjobs, .dsps, .dumps, .recd, .attn, .sigq, .convq, .flash, .pairs, .radio, .last, .free, .emitted]) (.vsel core ctx v) s := by
  have hL : (Foot.whole [.regs, .mem, .errs, .lpErr, .chUe, .host, .store, .acc, .anchors, .pend, .vreg, .ctxs, .arrs, .parts, .vecTurn, .health, .leash, .trigs, .log, .recUsed, .recDrop, .engs, .conns, .bars, .hounds, .cells, .cjobs, .dsps, .dumps, .recd, .attn, .sigq, .convq, .flash, .pairs, .radio, .last, .free, .emitted]).le (Foot.whole [.regs, .mem, .errs, .lpErr, .chUe, .host, .store, .acc, .anchors, .pend, .vreg, .ctxs, .arrs, .parts, .vecTurn, .health, .leash, .trigs, .log, .recUsed, .recDrop, .engs, .conns, .bars, .hounds, .cells, .cjobs, .dsps, .dumps, .recd, .attn, .sigq, .convq, .flash, .pairs, .radio, .last, .free, .emitted]) := Foot.le_refl
  refine framed_out w (o := execVsel core ctx v s) rfl ?_
  unfold execVsel
  refine ⟨_, rfl, ?_⟩
  repeat' first
    | with_reducible first
      | exact Act.nil_in
      | exact Act.skip_in
      | apply Act.cons_in
      | apply Act.seq_in
      | (apply Act.get_in; intro _)
      | (apply Act.when_in; intro _)
      | apply Act.ite_in
      | (apply Act.each_in; intro _ _)
      | (exact Act.vLanes_pieces (Foot.sub hL (by decide)))
    | dsimp only
    | split

theorem Act.vReduce_pieces {F : Foot} {c : Nat} {x : Nat} {v : VInstr} {checked : Bool} {f : Nat → Nat → Nat} (hL : (Foot.whole [.regs, .mem, .errs, .lpErr, .chUe, .host, .store, .acc, .anchors, .pend, .vreg, .ctxs, .arrs, .parts, .vecTurn, .health, .leash, .trigs, .log, .recUsed, .recDrop, .engs, .conns, .bars, .hounds, .cells, .cjobs, .dsps, .dumps, .recd, .attn, .sigq, .convq, .flash, .pairs, .radio, .last, .free, .emitted]).le F) : (Act.vReduce c x v checked f).In F := by
  unfold Act.vReduce
  repeat' first
    | with_reducible first
      | exact Act.nil_in
      | exact Act.skip_in
      | apply Act.cons_in
      | apply Act.seq_in
      | (apply Act.get_in; intro _)
      | (apply Act.when_in; intro _)
      | apply Act.ite_in
      | (apply Act.each_in; intro _ _)
      | (exact Act.setVreg64_pieces (Foot.sub hL (by decide)))
      | (exact Act.vInvalid_pieces (Foot.sub hL (by decide)))
      | (refine Act.vIssue_pieces (Foot.sub hL (by decide)) ?_ <;> intros)
      | (refine Act.vResidue_pieces (Foot.sub hL (by decide)) ?_ <;> intros)
    | dsimp only
    | split

theorem frame_vrsum {s : State} (w : s.Wf) {core : Nat} {ctx : Nat} {v : VInstr} : Framed (.whole [.regs, .mem, .errs, .lpErr, .chUe, .host, .store, .acc, .anchors, .pend, .vreg, .ctxs, .arrs, .parts, .vecTurn, .health, .leash, .trigs, .log, .recUsed, .recDrop, .engs, .conns, .bars, .hounds, .cells, .cjobs, .dsps, .dumps, .recd, .attn, .sigq, .convq, .flash, .pairs, .radio, .last, .free, .emitted]) (.vrsum core ctx v) s := by
  have hL : (Foot.whole [.regs, .mem, .errs, .lpErr, .chUe, .host, .store, .acc, .anchors, .pend, .vreg, .ctxs, .arrs, .parts, .vecTurn, .health, .leash, .trigs, .log, .recUsed, .recDrop, .engs, .conns, .bars, .hounds, .cells, .cjobs, .dsps, .dumps, .recd, .attn, .sigq, .convq, .flash, .pairs, .radio, .last, .free, .emitted]).le (Foot.whole [.regs, .mem, .errs, .lpErr, .chUe, .host, .store, .acc, .anchors, .pend, .vreg, .ctxs, .arrs, .parts, .vecTurn, .health, .leash, .trigs, .log, .recUsed, .recDrop, .engs, .conns, .bars, .hounds, .cells, .cjobs, .dsps, .dumps, .recd, .attn, .sigq, .convq, .flash, .pairs, .radio, .last, .free, .emitted]) := Foot.le_refl
  refine framed_out w (o := execVrsum core ctx v s) rfl ?_
  unfold execVrsum
  refine ⟨_, rfl, ?_⟩
  repeat' first
    | with_reducible first
      | exact Act.nil_in
      | exact Act.skip_in
      | apply Act.cons_in
      | apply Act.seq_in
      | (apply Act.get_in; intro _)
      | (apply Act.when_in; intro _)
      | apply Act.ite_in
      | (apply Act.each_in; intro _ _)
      | (exact Act.vReduce_pieces (Foot.sub hL (by decide)))
    | dsimp only
    | split

theorem frame_vrmax {s : State} (w : s.Wf) {core : Nat} {ctx : Nat} {v : VInstr} : Framed (.whole [.regs, .mem, .errs, .lpErr, .chUe, .host, .store, .acc, .anchors, .pend, .vreg, .ctxs, .arrs, .parts, .vecTurn, .health, .leash, .trigs, .log, .recUsed, .recDrop, .engs, .conns, .bars, .hounds, .cells, .cjobs, .dsps, .dumps, .recd, .attn, .sigq, .convq, .flash, .pairs, .radio, .last, .free, .emitted]) (.vrmax core ctx v) s := by
  have hL : (Foot.whole [.regs, .mem, .errs, .lpErr, .chUe, .host, .store, .acc, .anchors, .pend, .vreg, .ctxs, .arrs, .parts, .vecTurn, .health, .leash, .trigs, .log, .recUsed, .recDrop, .engs, .conns, .bars, .hounds, .cells, .cjobs, .dsps, .dumps, .recd, .attn, .sigq, .convq, .flash, .pairs, .radio, .last, .free, .emitted]).le (Foot.whole [.regs, .mem, .errs, .lpErr, .chUe, .host, .store, .acc, .anchors, .pend, .vreg, .ctxs, .arrs, .parts, .vecTurn, .health, .leash, .trigs, .log, .recUsed, .recDrop, .engs, .conns, .bars, .hounds, .cells, .cjobs, .dsps, .dumps, .recd, .attn, .sigq, .convq, .flash, .pairs, .radio, .last, .free, .emitted]) := Foot.le_refl
  refine framed_out w (o := execVrmax core ctx v s) rfl ?_
  unfold execVrmax
  refine ⟨_, rfl, ?_⟩
  repeat' first
    | with_reducible first
      | exact Act.nil_in
      | exact Act.skip_in
      | apply Act.cons_in
      | apply Act.seq_in
      | (apply Act.get_in; intro _)
      | (apply Act.when_in; intro _)
      | apply Act.ite_in
      | (apply Act.each_in; intro _ _)
      | (exact Act.vReduce_pieces (Foot.sub hL (by decide)))
    | dsimp only
    | split

theorem frame_vrmin {s : State} (w : s.Wf) {core : Nat} {ctx : Nat} {v : VInstr} : Framed (.whole [.regs, .mem, .errs, .lpErr, .chUe, .host, .store, .acc, .anchors, .pend, .vreg, .ctxs, .arrs, .parts, .vecTurn, .health, .leash, .trigs, .log, .recUsed, .recDrop, .engs, .conns, .bars, .hounds, .cells, .cjobs, .dsps, .dumps, .recd, .attn, .sigq, .convq, .flash, .pairs, .radio, .last, .free, .emitted]) (.vrmin core ctx v) s := by
  have hL : (Foot.whole [.regs, .mem, .errs, .lpErr, .chUe, .host, .store, .acc, .anchors, .pend, .vreg, .ctxs, .arrs, .parts, .vecTurn, .health, .leash, .trigs, .log, .recUsed, .recDrop, .engs, .conns, .bars, .hounds, .cells, .cjobs, .dsps, .dumps, .recd, .attn, .sigq, .convq, .flash, .pairs, .radio, .last, .free, .emitted]).le (Foot.whole [.regs, .mem, .errs, .lpErr, .chUe, .host, .store, .acc, .anchors, .pend, .vreg, .ctxs, .arrs, .parts, .vecTurn, .health, .leash, .trigs, .log, .recUsed, .recDrop, .engs, .conns, .bars, .hounds, .cells, .cjobs, .dsps, .dumps, .recd, .attn, .sigq, .convq, .flash, .pairs, .radio, .last, .free, .emitted]) := Foot.le_refl
  refine framed_out w (o := execVrmin core ctx v s) rfl ?_
  unfold execVrmin
  refine ⟨_, rfl, ?_⟩
  repeat' first
    | with_reducible first
      | exact Act.nil_in
      | exact Act.skip_in
      | apply Act.cons_in
      | apply Act.seq_in
      | (apply Act.get_in; intro _)
      | (apply Act.when_in; intro _)
      | apply Act.ite_in
      | (apply Act.each_in; intro _ _)
      | (exact Act.vReduce_pieces (Foot.sub hL (by decide)))
    | dsimp only
    | split

theorem Act.vTrans_pieces {F : Foot} {c : Nat} {x : Nat} {v : VInstr} {op : Nat} (hL : (Foot.whole [.regs, .mem, .errs, .lpErr, .chUe, .host, .store, .acc, .anchors, .pend, .vreg, .ctxs, .arrs, .parts, .vecTurn, .health, .leash, .trigs, .log, .recUsed, .recDrop, .engs, .conns, .bars, .hounds, .cells, .cjobs, .dsps, .dumps, .recd, .attn, .sigq, .convq, .flash, .pairs, .radio, .last, .free, .emitted]).le F) : (Act.vTrans c x v op).In F := by
  unfold Act.vTrans
  repeat' first
    | with_reducible first
      | exact Act.nil_in
      | exact Act.skip_in
      | apply Act.cons_in
      | apply Act.seq_in
      | (apply Act.get_in; intro _)
      | (apply Act.when_in; intro _)
      | apply Act.ite_in
      | (apply Act.each_in; intro _ _)
      | (exact Act.vLanes_pieces (Foot.sub hL (by decide)))
    | dsimp only
    | split

theorem frame_vexp2 {s : State} (w : s.Wf) {core : Nat} {ctx : Nat} {v : VInstr} : Framed (.whole [.regs, .mem, .errs, .lpErr, .chUe, .host, .store, .acc, .anchors, .pend, .vreg, .ctxs, .arrs, .parts, .vecTurn, .health, .leash, .trigs, .log, .recUsed, .recDrop, .engs, .conns, .bars, .hounds, .cells, .cjobs, .dsps, .dumps, .recd, .attn, .sigq, .convq, .flash, .pairs, .radio, .last, .free, .emitted]) (.vexp2 core ctx v) s := by
  have hL : (Foot.whole [.regs, .mem, .errs, .lpErr, .chUe, .host, .store, .acc, .anchors, .pend, .vreg, .ctxs, .arrs, .parts, .vecTurn, .health, .leash, .trigs, .log, .recUsed, .recDrop, .engs, .conns, .bars, .hounds, .cells, .cjobs, .dsps, .dumps, .recd, .attn, .sigq, .convq, .flash, .pairs, .radio, .last, .free, .emitted]).le (Foot.whole [.regs, .mem, .errs, .lpErr, .chUe, .host, .store, .acc, .anchors, .pend, .vreg, .ctxs, .arrs, .parts, .vecTurn, .health, .leash, .trigs, .log, .recUsed, .recDrop, .engs, .conns, .bars, .hounds, .cells, .cjobs, .dsps, .dumps, .recd, .attn, .sigq, .convq, .flash, .pairs, .radio, .last, .free, .emitted]) := Foot.le_refl
  refine framed_out w (o := execVexp2 core ctx v s) rfl ?_
  unfold execVexp2
  refine ⟨_, rfl, ?_⟩
  repeat' first
    | with_reducible first
      | exact Act.nil_in
      | exact Act.skip_in
      | apply Act.cons_in
      | apply Act.seq_in
      | (apply Act.get_in; intro _)
      | (apply Act.when_in; intro _)
      | apply Act.ite_in
      | (apply Act.each_in; intro _ _)
      | (exact Act.vTrans_pieces (Foot.sub hL (by decide)))
    | dsimp only
    | split

theorem frame_vlog2 {s : State} (w : s.Wf) {core : Nat} {ctx : Nat} {v : VInstr} : Framed (.whole [.regs, .mem, .errs, .lpErr, .chUe, .host, .store, .acc, .anchors, .pend, .vreg, .ctxs, .arrs, .parts, .vecTurn, .health, .leash, .trigs, .log, .recUsed, .recDrop, .engs, .conns, .bars, .hounds, .cells, .cjobs, .dsps, .dumps, .recd, .attn, .sigq, .convq, .flash, .pairs, .radio, .last, .free, .emitted]) (.vlog2 core ctx v) s := by
  have hL : (Foot.whole [.regs, .mem, .errs, .lpErr, .chUe, .host, .store, .acc, .anchors, .pend, .vreg, .ctxs, .arrs, .parts, .vecTurn, .health, .leash, .trigs, .log, .recUsed, .recDrop, .engs, .conns, .bars, .hounds, .cells, .cjobs, .dsps, .dumps, .recd, .attn, .sigq, .convq, .flash, .pairs, .radio, .last, .free, .emitted]).le (Foot.whole [.regs, .mem, .errs, .lpErr, .chUe, .host, .store, .acc, .anchors, .pend, .vreg, .ctxs, .arrs, .parts, .vecTurn, .health, .leash, .trigs, .log, .recUsed, .recDrop, .engs, .conns, .bars, .hounds, .cells, .cjobs, .dsps, .dumps, .recd, .attn, .sigq, .convq, .flash, .pairs, .radio, .last, .free, .emitted]) := Foot.le_refl
  refine framed_out w (o := execVlog2 core ctx v s) rfl ?_
  unfold execVlog2
  refine ⟨_, rfl, ?_⟩
  repeat' first
    | with_reducible first
      | exact Act.nil_in
      | exact Act.skip_in
      | apply Act.cons_in
      | apply Act.seq_in
      | (apply Act.get_in; intro _)
      | (apply Act.when_in; intro _)
      | apply Act.ite_in
      | (apply Act.each_in; intro _ _)
      | (exact Act.vTrans_pieces (Foot.sub hL (by decide)))
    | dsimp only
    | split

theorem frame_vrcp {s : State} (w : s.Wf) {core : Nat} {ctx : Nat} {v : VInstr} : Framed (.whole [.regs, .mem, .errs, .lpErr, .chUe, .host, .store, .acc, .anchors, .pend, .vreg, .ctxs, .arrs, .parts, .vecTurn, .health, .leash, .trigs, .log, .recUsed, .recDrop, .engs, .conns, .bars, .hounds, .cells, .cjobs, .dsps, .dumps, .recd, .attn, .sigq, .convq, .flash, .pairs, .radio, .last, .free, .emitted]) (.vrcp core ctx v) s := by
  have hL : (Foot.whole [.regs, .mem, .errs, .lpErr, .chUe, .host, .store, .acc, .anchors, .pend, .vreg, .ctxs, .arrs, .parts, .vecTurn, .health, .leash, .trigs, .log, .recUsed, .recDrop, .engs, .conns, .bars, .hounds, .cells, .cjobs, .dsps, .dumps, .recd, .attn, .sigq, .convq, .flash, .pairs, .radio, .last, .free, .emitted]).le (Foot.whole [.regs, .mem, .errs, .lpErr, .chUe, .host, .store, .acc, .anchors, .pend, .vreg, .ctxs, .arrs, .parts, .vecTurn, .health, .leash, .trigs, .log, .recUsed, .recDrop, .engs, .conns, .bars, .hounds, .cells, .cjobs, .dsps, .dumps, .recd, .attn, .sigq, .convq, .flash, .pairs, .radio, .last, .free, .emitted]) := Foot.le_refl
  refine framed_out w (o := execVrcp core ctx v s) rfl ?_
  unfold execVrcp
  refine ⟨_, rfl, ?_⟩
  repeat' first
    | with_reducible first
      | exact Act.nil_in
      | exact Act.skip_in
      | apply Act.cons_in
      | apply Act.seq_in
      | (apply Act.get_in; intro _)
      | (apply Act.when_in; intro _)
      | apply Act.ite_in
      | (apply Act.each_in; intro _ _)
      | (exact Act.vTrans_pieces (Foot.sub hL (by decide)))
    | dsimp only
    | split

theorem frame_vrsqrt {s : State} (w : s.Wf) {core : Nat} {ctx : Nat} {v : VInstr} : Framed (.whole [.regs, .mem, .errs, .lpErr, .chUe, .host, .store, .acc, .anchors, .pend, .vreg, .ctxs, .arrs, .parts, .vecTurn, .health, .leash, .trigs, .log, .recUsed, .recDrop, .engs, .conns, .bars, .hounds, .cells, .cjobs, .dsps, .dumps, .recd, .attn, .sigq, .convq, .flash, .pairs, .radio, .last, .free, .emitted]) (.vrsqrt core ctx v) s := by
  have hL : (Foot.whole [.regs, .mem, .errs, .lpErr, .chUe, .host, .store, .acc, .anchors, .pend, .vreg, .ctxs, .arrs, .parts, .vecTurn, .health, .leash, .trigs, .log, .recUsed, .recDrop, .engs, .conns, .bars, .hounds, .cells, .cjobs, .dsps, .dumps, .recd, .attn, .sigq, .convq, .flash, .pairs, .radio, .last, .free, .emitted]).le (Foot.whole [.regs, .mem, .errs, .lpErr, .chUe, .host, .store, .acc, .anchors, .pend, .vreg, .ctxs, .arrs, .parts, .vecTurn, .health, .leash, .trigs, .log, .recUsed, .recDrop, .engs, .conns, .bars, .hounds, .cells, .cjobs, .dsps, .dumps, .recd, .attn, .sigq, .convq, .flash, .pairs, .radio, .last, .free, .emitted]) := Foot.le_refl
  refine framed_out w (o := execVrsqrt core ctx v s) rfl ?_
  unfold execVrsqrt
  refine ⟨_, rfl, ?_⟩
  repeat' first
    | with_reducible first
      | exact Act.nil_in
      | exact Act.skip_in
      | apply Act.cons_in
      | apply Act.seq_in
      | (apply Act.get_in; intro _)
      | (apply Act.when_in; intro _)
      | apply Act.ite_in
      | (apply Act.each_in; intro _ _)
      | (exact Act.vTrans_pieces (Foot.sub hL (by decide)))
    | dsimp only
    | split

theorem frame_vtanh {s : State} (w : s.Wf) {core : Nat} {ctx : Nat} {v : VInstr} : Framed (.whole [.regs, .mem, .errs, .lpErr, .chUe, .host, .store, .acc, .anchors, .pend, .vreg, .ctxs, .arrs, .parts, .vecTurn, .health, .leash, .trigs, .log, .recUsed, .recDrop, .engs, .conns, .bars, .hounds, .cells, .cjobs, .dsps, .dumps, .recd, .attn, .sigq, .convq, .flash, .pairs, .radio, .last, .free, .emitted]) (.vtanh core ctx v) s := by
  have hL : (Foot.whole [.regs, .mem, .errs, .lpErr, .chUe, .host, .store, .acc, .anchors, .pend, .vreg, .ctxs, .arrs, .parts, .vecTurn, .health, .leash, .trigs, .log, .recUsed, .recDrop, .engs, .conns, .bars, .hounds, .cells, .cjobs, .dsps, .dumps, .recd, .attn, .sigq, .convq, .flash, .pairs, .radio, .last, .free, .emitted]).le (Foot.whole [.regs, .mem, .errs, .lpErr, .chUe, .host, .store, .acc, .anchors, .pend, .vreg, .ctxs, .arrs, .parts, .vecTurn, .health, .leash, .trigs, .log, .recUsed, .recDrop, .engs, .conns, .bars, .hounds, .cells, .cjobs, .dsps, .dumps, .recd, .attn, .sigq, .convq, .flash, .pairs, .radio, .last, .free, .emitted]) := Foot.le_refl
  refine framed_out w (o := execVtanh core ctx v s) rfl ?_
  unfold execVtanh
  refine ⟨_, rfl, ?_⟩
  repeat' first
    | with_reducible first
      | exact Act.nil_in
      | exact Act.skip_in
      | apply Act.cons_in
      | apply Act.seq_in
      | (apply Act.get_in; intro _)
      | (apply Act.when_in; intro _)
      | apply Act.ite_in
      | (apply Act.each_in; intro _ _)
      | (exact Act.vTrans_pieces (Foot.sub hL (by decide)))
    | dsimp only
    | split

theorem frame_verf {s : State} (w : s.Wf) {core : Nat} {ctx : Nat} {v : VInstr} : Framed (.whole [.regs, .mem, .errs, .lpErr, .chUe, .host, .store, .acc, .anchors, .pend, .vreg, .ctxs, .arrs, .parts, .vecTurn, .health, .leash, .trigs, .log, .recUsed, .recDrop, .engs, .conns, .bars, .hounds, .cells, .cjobs, .dsps, .dumps, .recd, .attn, .sigq, .convq, .flash, .pairs, .radio, .last, .free, .emitted]) (.verf core ctx v) s := by
  have hL : (Foot.whole [.regs, .mem, .errs, .lpErr, .chUe, .host, .store, .acc, .anchors, .pend, .vreg, .ctxs, .arrs, .parts, .vecTurn, .health, .leash, .trigs, .log, .recUsed, .recDrop, .engs, .conns, .bars, .hounds, .cells, .cjobs, .dsps, .dumps, .recd, .attn, .sigq, .convq, .flash, .pairs, .radio, .last, .free, .emitted]).le (Foot.whole [.regs, .mem, .errs, .lpErr, .chUe, .host, .store, .acc, .anchors, .pend, .vreg, .ctxs, .arrs, .parts, .vecTurn, .health, .leash, .trigs, .log, .recUsed, .recDrop, .engs, .conns, .bars, .hounds, .cells, .cjobs, .dsps, .dumps, .recd, .attn, .sigq, .convq, .flash, .pairs, .radio, .last, .free, .emitted]) := Foot.le_refl
  refine framed_out w (o := execVerf core ctx v s) rfl ?_
  unfold execVerf
  refine ⟨_, rfl, ?_⟩
  repeat' first
    | with_reducible first
      | exact Act.nil_in
      | exact Act.skip_in
      | apply Act.cons_in
      | apply Act.seq_in
      | (apply Act.get_in; intro _)
      | (apply Act.when_in; intro _)
      | apply Act.ite_in
      | (apply Act.each_in; intro _ _)
      | (exact Act.vTrans_pieces (Foot.sub hL (by decide)))
    | dsimp only
    | split

theorem Act.convCount_pieces {F : Foot} {c : Nat} {x : Nat} {cs : List Conv} (hL : (Foot.whole [.regs]).le F) : (Act.convCount c x cs).In F := by
  unfold Act.convCount
  repeat' first
    | with_reducible first
      | exact Act.nil_in
      | exact Act.skip_in
      | apply Act.cons_in
      | apply Act.seq_in
      | (apply Act.get_in; intro _)
      | (apply Act.when_in; intro _)
      | apply Act.ite_in
      | (apply Act.each_in; intro _ _)
      | (exact Act.incF_in (Foot.has hL (by decide) _))
      | (exact Act.pmc_pieces (Foot.sub hL (by decide)))
    | dsimp only
    | split

theorem frame_vcvt {s : State} (w : s.Wf) {core : Nat} {ctx : Nat} {v : VInstr} {outFmt : Nat} {rnd : Nat} {srStream : BitVec 32} {index : Word} : Framed (.whole [.regs, .mem, .errs, .lpErr, .chUe, .host, .store, .acc, .anchors, .pend, .vreg, .ctxs, .arrs, .parts, .vecTurn, .health, .leash, .trigs, .log, .recUsed, .recDrop, .engs, .conns, .bars, .hounds, .cells, .cjobs, .dsps, .dumps, .recd, .attn, .sigq, .convq, .flash, .pairs, .radio, .free, .emitted]) (.vcvt core ctx v outFmt rnd srStream index) s := by
  have hL : (Foot.whole [.regs, .mem, .errs, .lpErr, .chUe, .host, .store, .acc, .anchors, .pend, .vreg, .ctxs, .arrs, .parts, .vecTurn, .health, .leash, .trigs, .log, .recUsed, .recDrop, .engs, .conns, .bars, .hounds, .cells, .cjobs, .dsps, .dumps, .recd, .attn, .sigq, .convq, .flash, .pairs, .radio, .free, .emitted]).le (Foot.whole [.regs, .mem, .errs, .lpErr, .chUe, .host, .store, .acc, .anchors, .pend, .vreg, .ctxs, .arrs, .parts, .vecTurn, .health, .leash, .trigs, .log, .recUsed, .recDrop, .engs, .conns, .bars, .hounds, .cells, .cjobs, .dsps, .dumps, .recd, .attn, .sigq, .convq, .flash, .pairs, .radio, .free, .emitted]) := Foot.le_refl
  refine framed_out w (o := execVcvt core ctx v outFmt rnd srStream index s) rfl ?_
  unfold execVcvt
  refine ⟨_, rfl, ?_⟩
  repeat' first
    | with_reducible first
      | exact Act.nil_in
      | exact Act.skip_in
      | apply Act.cons_in
      | apply Act.seq_in
      | (apply Act.get_in; intro _)
      | (apply Act.when_in; intro _)
      | apply Act.ite_in
      | (apply Act.each_in; intro _ _)
      | (exact Act.convCount_pieces (Foot.sub hL (by decide)))
      | (exact Act.setVreg64_pieces (Foot.sub hL (by decide)))
      | (exact Act.vInvalid_pieces (Foot.sub hL (by decide)))
      | (refine Act.vIssue_pieces (Foot.sub hL (by decide)) ?_ <;> intros)
    | dsimp only
    | split

theorem frame_vcvts {s : State} (w : s.Wf) {core : Nat} {ctx : Nat} {v : VInstr} {outFmt : Nat} {rnd : Nat} {srStream : BitVec 32} {index : Word} : Framed (.whole [.regs, .mem, .errs, .lpErr, .chUe, .host, .store, .acc, .anchors, .pend, .vreg, .ctxs, .arrs, .parts, .vecTurn, .health, .leash, .trigs, .log, .recUsed, .recDrop, .engs, .conns, .bars, .hounds, .cells, .cjobs, .dsps, .dumps, .recd, .attn, .sigq, .convq, .flash, .pairs, .radio, .free, .emitted]) (.vcvts core ctx v outFmt rnd srStream index) s := by
  have hL : (Foot.whole [.regs, .mem, .errs, .lpErr, .chUe, .host, .store, .acc, .anchors, .pend, .vreg, .ctxs, .arrs, .parts, .vecTurn, .health, .leash, .trigs, .log, .recUsed, .recDrop, .engs, .conns, .bars, .hounds, .cells, .cjobs, .dsps, .dumps, .recd, .attn, .sigq, .convq, .flash, .pairs, .radio, .free, .emitted]).le (Foot.whole [.regs, .mem, .errs, .lpErr, .chUe, .host, .store, .acc, .anchors, .pend, .vreg, .ctxs, .arrs, .parts, .vecTurn, .health, .leash, .trigs, .log, .recUsed, .recDrop, .engs, .conns, .bars, .hounds, .cells, .cjobs, .dsps, .dumps, .recd, .attn, .sigq, .convq, .flash, .pairs, .radio, .free, .emitted]) := Foot.le_refl
  refine framed_out w (o := execVcvts core ctx v outFmt rnd srStream index s) rfl ?_
  unfold execVcvts
  refine ⟨_, rfl, ?_⟩
  repeat' first
    | with_reducible first
      | exact Act.nil_in
      | exact Act.skip_in
      | apply Act.cons_in
      | apply Act.seq_in
      | (apply Act.get_in; intro _)
      | (apply Act.when_in; intro _)
      | apply Act.ite_in
      | (apply Act.each_in; intro _ _)
      | (exact Act.convCount_pieces (Foot.sub hL (by decide)))
      | (exact Act.setVreg_in (Foot.has hL (by decide) _))
      | (exact Act.setVreg64_pieces (Foot.sub hL (by decide)))
      | (exact Act.vInvalid_pieces (Foot.sub hL (by decide)))
      | (refine Act.vIssue_pieces (Foot.sub hL (by decide)) ?_ <;> intros)
    | dsimp only
    | split

theorem frame_vladd {s : State} (w : s.Wf) {core : Nat} {ctx : Nat} {v : VInstr} : Framed (.whole [.regs, .mem, .errs, .lpErr, .chUe, .host, .store, .acc, .anchors, .pend, .vreg, .ctxs, .arrs, .parts, .vecTurn, .health, .leash, .trigs, .log, .recUsed, .recDrop, .engs, .conns, .bars, .hounds, .cells, .cjobs, .dsps, .dumps, .recd, .attn, .sigq, .convq, .flash, .pairs, .radio, .last, .free, .emitted]) (.vladd core ctx v) s := by
  have hL : (Foot.whole [.regs, .mem, .errs, .lpErr, .chUe, .host, .store, .acc, .anchors, .pend, .vreg, .ctxs, .arrs, .parts, .vecTurn, .health, .leash, .trigs, .log, .recUsed, .recDrop, .engs, .conns, .bars, .hounds, .cells, .cjobs, .dsps, .dumps, .recd, .attn, .sigq, .convq, .flash, .pairs, .radio, .last, .free, .emitted]).le (Foot.whole [.regs, .mem, .errs, .lpErr, .chUe, .host, .store, .acc, .anchors, .pend, .vreg, .ctxs, .arrs, .parts, .vecTurn, .health, .leash, .trigs, .log, .recUsed, .recDrop, .engs, .conns, .bars, .hounds, .cells, .cjobs, .dsps, .dumps, .recd, .attn, .sigq, .convq, .flash, .pairs, .radio, .last, .free, .emitted]) := Foot.le_refl
  refine framed_out w (o := execVladd core ctx v s) rfl ?_
  unfold execVladd
  refine ⟨_, rfl, ?_⟩
  repeat' first
    | with_reducible first
      | exact Act.nil_in
      | exact Act.skip_in
      | apply Act.cons_in
      | apply Act.seq_in
      | (apply Act.get_in; intro _)
      | (apply Act.when_in; intro _)
      | apply Act.ite_in
      | (apply Act.each_in; intro _ _)
      | (exact Act.emit_in fun k => Foot.has hL (by decide) k)
      | (exact Act.setVreg64_pieces (Foot.sub hL (by decide)))
      | (refine Act.vIssue_pieces (Foot.sub hL (by decide)) ?_ <;> intros)
      | (refine Act.vResidue_pieces (Foot.sub hL (by decide)) ?_ <;> intros)
    | dsimp only
    | split

theorem frame_vlcvt {s : State} (w : s.Wf) {core : Nat} {ctx : Nat} {v : VInstr} {rnd : Nat} {srStream : BitVec 32} {index : Word} : Framed (.whole [.regs, .mem, .errs, .lpErr, .chUe, .host, .store, .acc, .anchors, .pend, .vreg, .ctxs, .arrs, .parts, .vecTurn, .health, .leash, .trigs, .log, .recUsed, .recDrop, .engs, .conns, .bars, .hounds, .cells, .cjobs, .dsps, .dumps, .recd, .attn, .sigq, .convq, .flash, .pairs, .radio, .free, .emitted]) (.vlcvt core ctx v rnd srStream index) s := by
  have hL : (Foot.whole [.regs, .mem, .errs, .lpErr, .chUe, .host, .store, .acc, .anchors, .pend, .vreg, .ctxs, .arrs, .parts, .vecTurn, .health, .leash, .trigs, .log, .recUsed, .recDrop, .engs, .conns, .bars, .hounds, .cells, .cjobs, .dsps, .dumps, .recd, .attn, .sigq, .convq, .flash, .pairs, .radio, .free, .emitted]).le (Foot.whole [.regs, .mem, .errs, .lpErr, .chUe, .host, .store, .acc, .anchors, .pend, .vreg, .ctxs, .arrs, .parts, .vecTurn, .health, .leash, .trigs, .log, .recUsed, .recDrop, .engs, .conns, .bars, .hounds, .cells, .cjobs, .dsps, .dumps, .recd, .attn, .sigq, .convq, .flash, .pairs, .radio, .free, .emitted]) := Foot.le_refl
  refine framed_out w (o := execVlcvt core ctx v rnd srStream index s) rfl ?_
  unfold execVlcvt
  refine ⟨_, rfl, ?_⟩
  repeat' first
    | with_reducible first
      | exact Act.nil_in
      | exact Act.skip_in
      | apply Act.cons_in
      | apply Act.seq_in
      | (apply Act.get_in; intro _)
      | (apply Act.when_in; intro _)
      | apply Act.ite_in
      | (apply Act.each_in; intro _ _)
      | (exact Act.convCount_pieces (Foot.sub hL (by decide)))
      | (exact Act.setVreg64_pieces (Foot.sub hL (by decide)))
      | (exact Act.vInvalid_pieces (Foot.sub hL (by decide)))
      | (refine Act.vIssue_pieces (Foot.sub hL (by decide)) ?_ <;> intros)
    | dsimp only
    | split

theorem frame_move {s : State} (w : s.Wf) {core : Nat} {ctx : Nat} {v : VInstr} {toStore : Bool} {addr : Nat} {line : Nat} {len : Nat} : Framed (.whole [.regs, .mem, .errs, .lpErr, .chUe, .host, .store, .acc, .anchors, .pend, .ctxs, .arrs, .parts, .vecTurn, .health, .leash, .trigs, .log, .recUsed, .recDrop, .engs, .conns, .bars, .hounds, .cells, .cjobs, .dsps, .dumps, .recd, .attn, .sigq, .convq, .flash, .pairs, .radio, .free, .emitted]) (.move core ctx v toStore addr line len) s := by
  have hL : (Foot.whole [.regs, .mem, .errs, .lpErr, .chUe, .host, .store, .acc, .anchors, .pend, .ctxs, .arrs, .parts, .vecTurn, .health, .leash, .trigs, .log, .recUsed, .recDrop, .engs, .conns, .bars, .hounds, .cells, .cjobs, .dsps, .dumps, .recd, .attn, .sigq, .convq, .flash, .pairs, .radio, .free, .emitted]).le (Foot.whole [.regs, .mem, .errs, .lpErr, .chUe, .host, .store, .acc, .anchors, .pend, .ctxs, .arrs, .parts, .vecTurn, .health, .leash, .trigs, .log, .recUsed, .recDrop, .engs, .conns, .bars, .hounds, .cells, .cjobs, .dsps, .dumps, .recd, .attn, .sigq, .convq, .flash, .pairs, .radio, .free, .emitted]) := Foot.le_refl
  refine framed_out w (o := execMove core ctx v toStore addr line len s) rfl ?_
  unfold execMove
  refine ⟨_, rfl, ?_⟩
  repeat' first
    | with_reducible first
      | exact Act.nil_in
      | exact Act.skip_in
      | apply Act.cons_in
      | apply Act.seq_in
      | (apply Act.get_in; intro _)
      | (apply Act.when_in; intro _)
      | apply Act.ite_in
      | (apply Act.each_in; intro _ _)
      | (exact Act.modCtxs_in (Foot.has hL (by decide) _))
      | (exact Act.setPend_in (Foot.has hL (by decide) _))
      | (exact Act.vInvalid_pieces (Foot.sub hL (by decide)))
      | (refine Act.vIssue_pieces (Foot.sub hL (by decide)) ?_ <;> intros)
    | dsimp only
    | split

theorem frame_swait {s : State} (w : s.Wf) {core : Nat} {ctx : Nat} {v : VInstr} {idx : Nat} {val : BitVec 16} : Framed (.whole [.regs, .mem, .errs, .lpErr, .chUe, .host, .store, .acc, .anchors, .pend, .ctxs, .arrs, .parts, .health, .leash, .trigs, .log, .recUsed, .recDrop, .engs, .conns, .bars, .hounds, .cells, .cjobs, .dsps, .dumps, .recd, .attn, .sigq, .convq, .flash, .pairs, .radio, .free, .emitted]) (.swait core ctx v idx val) s := by
  have hL : (Foot.whole [.regs, .mem, .errs, .lpErr, .chUe, .host, .store, .acc, .anchors, .pend, .ctxs, .arrs, .parts, .health, .leash, .trigs, .log, .recUsed, .recDrop, .engs, .conns, .bars, .hounds, .cells, .cjobs, .dsps, .dumps, .recd, .attn, .sigq, .convq, .flash, .pairs, .radio, .free, .emitted]).le (Foot.whole [.regs, .mem, .errs, .lpErr, .chUe, .host, .store, .acc, .anchors, .pend, .ctxs, .arrs, .parts, .health, .leash, .trigs, .log, .recUsed, .recDrop, .engs, .conns, .bars, .hounds, .cells, .cjobs, .dsps, .dumps, .recd, .attn, .sigq, .convq, .flash, .pairs, .radio, .free, .emitted]) := Foot.le_refl
  refine framed_out w (o := execSwait core ctx v idx val s) rfl ?_
  unfold execSwait
  refine ⟨_, rfl, ?_⟩
  repeat' first
    | with_reducible first
      | exact Act.nil_in
      | exact Act.skip_in
      | apply Act.cons_in
      | apply Act.seq_in
      | (apply Act.get_in; intro _)
      | (apply Act.when_in; intro _)
      | apply Act.ite_in
      | (apply Act.each_in; intro _ _)
      | (exact Act.coreFault_pieces (Foot.sub hL (by decide)))
      | (exact Act.ctxWait_pieces (Foot.sub hL (by decide)))
      | (exact Act.modCtxs_in (Foot.has hL (by decide) _))
      | (exact Act.vPop_pieces (Foot.sub hL (by decide)))
    | dsimp only
    | split

theorem frame_ssig {s : State} (w : s.Wf) {core : Nat} {ctx : Nat} {v : VInstr} {idx : Nat} : Framed (.whole [.regs, .ctxs, .vecTurn, .sigq]) (.ssig core ctx v idx) s := by
  have hL : (Foot.whole [.regs, .ctxs, .vecTurn, .sigq]).le (Foot.whole [.regs, .ctxs, .vecTurn, .sigq]) := Foot.le_refl
  refine framed_out w (o := execSsig core ctx v idx s) rfl ?_
  unfold execSsig
  refine ⟨_, rfl, ?_⟩
  repeat' first
    | with_reducible first
      | exact Act.nil_in
      | exact Act.skip_in
      | apply Act.cons_in
      | apply Act.seq_in
      | (apply Act.get_in; intro _)
      | (apply Act.when_in; intro _)
      | apply Act.ite_in
      | (apply Act.each_in; intro _ _)
      | (exact Act.modCtxs_in (Foot.has hL (by decide) _))
      | (exact Act.signal_pieces (Foot.sub hL (by decide)))
      | (refine Act.vIssue_pieces (Foot.sub hL (by decide)) ?_ <;> intros)
    | dsimp only
    | split

end Sys2Proof.Machine
end

