-- ==== Sys2Proof/Laws/Startup.lean ====
section
/-! SUPPORT. What the commands of start-up, reset and recovery do. -/

set_option linter.unusedSimpArgs false

namespace Sys2Proof.Machine

theorem fld_toReset (s : State) (a : Nat) (f : Field) : (Act.toReset.run s).fld a f = f.get (regReset a) := rfl

/-- After any reset NOT_READY is set (R293, R294). -/
theorem restart_notReady {s : State} (w : s.Wf) (cold : Bool) : ((Act.restart cold).run s).fld R.hostAttn4 F.hostAttn4_NOT_READY = 1 := by
  cases cold
  all_goals
    simp (maxDischargeDepth := 20) (disch := first
      | assumption
      | (repeat apply Act.wf
         assumption)
      | decide
      | (simp [attnFoot, attnOutFoot, recFoot, hostFoot, pmcCoreFoot, pmcGlobalFoot, healthFoot, healthLevelFoot, violFoot, healthReg, R.corePmcCtl, R.fabStat, R.gpmcCtl, R.gwIdent, R.healthUnitMod, R.hostAttn, R.hostAttn4, R.hostAttn7, R.hostBoot, R.pwrStat, R.pwrTemp, R.recCnt, R.recCnt2, R.recStat, R.secStat, R.sliceViol] <;> omega)
      | fail) only [Act.restart, Act.cons_run, Act.nil_run, Act.get_run, Act.when_true, Act.when_false, Act.skip_run, Act.seq_run, State.fld_setF, State.fld_modF, State.fld_incF, fld_setF_ne, fld_modF_ne, fld_incF_ne, fld_setRegs_ne, fld_record, fld_attnChanged, fld_vectorWrite, fld_rbWant, fld_attnSet, fld_pmc, fld_healthEv, fld_violation, State.fld_setF_apart, State.fld_modF_apart, State.fld_incF_apart, State.fld_setRegs, fld_when, ite_self, fld_toReset, fld_modFlash, fld_modClk, fld_modRecd, fld_modSys, fld_emit, Bool.not_true, Bool.not_false]
    rfl

theorem sys_debugSample {s : State} (w : s.Wf) (req : Option (List Byte)) : ((Act.debugSample req).run s).sys = s.sys :=
  Act.debugSample_pieces (F := .whole [.regs]) Foot.le_refl s w .sys 0 (show ¬ (Piece.sys ∈ _) by decide)

theorem sys_mrExtend {s : State} (w : s.Wf) (i : Nat) (d : List Byte) : ((Act.mrExtend i d).run s).sys = s.sys :=
  Act.mrExtend_pieces (F := .whole [.regs]) Foot.le_refl s w .sys 0 (show ¬ (Piece.sys ∈ _) by decide)

theorem sys_bootRom {s : State} (w : s.Wf) (r : StartReport) (b : List Byte) (rec_ : Bool) : ((Act.bootRom r b rec_).run s).sys =
    { s.sys with vers := Config.romVersion % 2 ^ 32 :: (List.range 3).map (imgVer b), bring := some r } := by
  unfold Act.bootRom
  simp only [Act.cons_run, Act.nil_run]
  rw [show ∀ u : State, ((Act.modSys fun y => { y with vers := Config.romVersion % 2 ^ 32 :: (List.range 3).map (imgVer b), bring := some r }).run u).sys
    = { u.sys with vers := Config.romVersion % 2 ^ 32 :: (List.range 3).map (imgVer b), bring := some r } from fun _ => rfl]
  simp only [sys_setF]
  rw [sys_debugSample (by (repeat' apply Act.wf) <;> assumption), sys_mrExtend (by (repeat' apply Act.wf) <;> assumption),
    show ((Act.each (List.range 3) fun i => Act.mrExtend (1 + i) (shake256 (image b i) 64)).run
      ((Act.mrExtend 0 Config.romDigest).run ((Act.setF R.hostBoot F.hostBoot_STEP 1).run s))).sys = s.sys from ?_]
  refine (Act.each_in (F := .whole [.regs]) (fun i _ => Act.mrExtend_pieces Foot.le_refl) _ (by (repeat' apply Act.wf) <;> assumption) .sys 0
    (show ¬ (Piece.sys ∈ _) by decide)).trans ?_
  exact sys_mrExtend (by (repeat' apply Act.wf) <;> assumption) _ _

theorem gives_moduleReset {s : State} (w : s.Wf) {r : StartReport} (h : s.sys.inOk = true) (h1 : s.flag R.pwrStat F.pwrStat_LO_QUAL = true) (h2 : s.sys.fault = none) (h3 : s.fld R.hostBoot F.hostBoot_STEP = 0) (h4 : s.sys.warm = none) (h5 : r.flash.readOk = true) (h6 : imgBad r.flash.bytes = none) :
    Gives (.moduleReset r) s fun t => t.sys.bring = some r ∧ t.sys.vers = Config.romVersion % 2 ^ 32 :: (List.range 3).map (imgVer r.flash.bytes) ∧ t.fld R.hostBoot F.hostBoot_STEP = 2 ∧ t.fld R.secStat F.secStat_KEY_READY = 1 := by
  refine gives_out (o := execModuleReset r s) (a := .all [.restart true, .emit (.pin 1 true), .bootRom r r.flash.bytes false]) rfl ?_ ?_
  · unfold execModuleReset
    refine out_congr ?_
    simp [h, h1, h2, h3, h4, Act.boot]
    rw [show ((Act.emit (.pin 1 true)).run ((Act.restart true).run s)).sys.recImg = none from rfl]
    simp [h5, h6]
  · refine ⟨rfl, rfl, ?_, ?_⟩
    all_goals
      unfold Act.bootRom
      simp (maxDischargeDepth := 20) (disch := first
            | assumption
            | (repeat apply Act.wf
               assumption)
            | decide
            | (simp [attnFoot, attnOutFoot, recFoot, hostFoot, pmcCoreFoot, pmcGlobalFoot, healthFoot, healthLevelFoot, violFoot, healthReg, R.corePmcCtl, R.fabStat, R.gpmcCtl, R.gwIdent, R.healthUnitMod, R.hostAttn, R.hostAttn4, R.hostAttn7, R.hostBoot, R.pwrStat, R.pwrTemp, R.recCnt, R.recCnt2, R.recStat, R.secStat, R.sliceViol] <;> omega)
            | fail) only [Act.cons_run, Act.nil_run, Act.get_run, Act.when_true, Act.when_false, Act.skip_run, Act.seq_run, State.fld_setF, State.fld_modF, State.fld_incF, fld_setF_ne, fld_modF_ne, fld_incF_ne, fld_setRegs_ne, fld_record, fld_attnChanged, fld_vectorWrite, fld_rbWant, fld_attnSet, fld_pmc, fld_healthEv, fld_violation, State.fld_setF_apart, State.fld_modF_apart, State.fld_incF_apart, State.fld_setRegs, fld_when, ite_self, fld_modFlash, fld_modClk, fld_modRecd, fld_modSys, fld_emit]
      try rfl

theorem gives_warmReset {s : State} (w : s.Wf) {cause : Nat} {r : StartReport} (h : s.sys.warm = some cause) (h1 : s.sys.bring = none) (h2 : s.sys.fault = none) (h5 : r.flash.readOk = true) (h6 : imgBad r.flash.bytes = none) (h7 : s.sys.recImg = none) :
    Gives (.warmReset cause r) s fun t => t.sys.bring = some r ∧ t.sys.warm = some cause ∧ t.fld R.hostBoot F.hostBoot_STEP = 2 ∧ t.fld R.secStat F.secStat_KEY_READY = 1 := by
  refine gives_out (o := execWarmReset cause r s) (a := .all [.restart false, .bootRom r r.flash.bytes false]) rfl ?_ ?_
  · unfold execWarmReset
    refine out_congr ?_
    simp [h, h1, h2, Act.boot]
    rw [show ((Act.restart false).run s).sys.recImg = s.sys.recImg from rfl, h7]
    simp [h5, h6]
  · have e : ((Act.all [.restart false, .bootRom r r.flash.bytes false]).run s).sys.warm = some cause := by
      simp only [Act.cons_run, Act.nil_run]
      rw [sys_bootRom (Act.wf w _)]
      exact h
    refine ⟨rfl, e, ?_, ?_⟩
    all_goals
      unfold Act.bootRom
      simp (maxDischargeDepth := 20) (disch := first
            | assumption
            | (repeat apply Act.wf
               assumption)
            | decide
            | (simp [attnFoot, attnOutFoot, recFoot, hostFoot, pmcCoreFoot, pmcGlobalFoot, healthFoot, healthLevelFoot, violFoot, healthReg, R.corePmcCtl, R.fabStat, R.gpmcCtl, R.gwIdent, R.healthUnitMod, R.hostAttn, R.hostAttn4, R.hostAttn7, R.hostBoot, R.pwrStat, R.pwrTemp, R.recCnt, R.recCnt2, R.recStat, R.secStat, R.sliceViol] <;> omega)
            | fail) only [Act.cons_run, Act.nil_run, Act.get_run, Act.when_true, Act.when_false, Act.skip_run, Act.seq_run, State.fld_setF, State.fld_modF, State.fld_incF, fld_setF_ne, fld_modF_ne, fld_incF_ne, fld_setRegs_ne, fld_record, fld_attnChanged, fld_vectorWrite, fld_rbWant, fld_attnSet, fld_pmc, fld_healthEv, fld_violation, State.fld_setF_apart, State.fld_modF_apart, State.fld_incF_apart, State.fld_setRegs, fld_when, ite_self, fld_modFlash, fld_modClk, fld_modRecd, fld_modSys, fld_emit]
      try rfl

theorem gives_resetProtocolTimeout {s : State} (w : s.Wf) (h : s.sys.bring.isSome = true) (h1 : s.sys.proto < 2) :
    Gives (.resetProtocolTimeout) s fun t => Same (.whole [.sys]) s t ∧ t.sys.proto = s.sys.proto + 1 := by
  refine gives_out (o := execResetProtocolTimeout s) (a := .modSys fun y => { y with proto := y.proto + 1 }) rfl ?_ ?_
  · unfold execResetProtocolTimeout
    refine out_congr ?_
    simp [h, show ¬ 2 ≤ s.sys.proto by omega]
  · exact ⟨(Act.modSys_in (by simp)).same w, rfl⟩

theorem failed_rbWant {s : State} (w : s.Wf) (low : Bool) : ((Act.rbWant low).run s).failed = s.failed :=
  Act.rbWant_pieces (F := .whole [.attn, .emitted]) Foot.le_refl s w .failed 0 (show ¬ (Piece.failed ∈ _) by decide)

theorem fld_setFailed (v : Bool) (s : State) (a : Nat) (f : Field) : ((Act.setFailed v).run s).fld a f = s.fld a f := rfl

theorem gives_resetProtocolTimeout_fails {s : State} (w : s.Wf) (h : s.sys.bring.isSome = true) (h1 : 2 ≤ s.sys.proto) :
    Gives (.resetProtocolTimeout) s fun t => t.failed = true ∧ t.fld R.hostBoot F.hostBoot_CAUSE = 5 ∧ t.fld R.hostAttn4 F.hostAttn4_NOT_READY = 1 := by
  refine gives_out (o := execResetProtocolTimeout s) (a := .all [.modSys fun y => { y with proto := y.proto + 1 }, .all [.modSys fun y => { y with bring := none, warm := none }, .moduleFail (some 5)]]) rfl ?_ ?_
  · unfold execResetProtocolTimeout
    refine out_congr ?_
    simp [h, h1]
  · unfold Act.moduleFail
    refine ⟨?_, ?_, ?_⟩
    · simp only [Act.cons_run, Act.nil_run]
      rw [failed_rbWant (by (repeat' apply Act.wf) <;> assumption)]
      rfl
    all_goals
      simp (maxDischargeDepth := 20) (disch := first
            | assumption
            | (repeat apply Act.wf
               assumption)
            | decide
            | (simp [attnFoot, attnOutFoot, recFoot, hostFoot, pmcCoreFoot, pmcGlobalFoot, healthFoot, healthLevelFoot, violFoot, healthReg, R.corePmcCtl, R.fabStat, R.gpmcCtl, R.gwIdent, R.healthUnitMod, R.hostAttn, R.hostAttn4, R.hostAttn7, R.hostBoot, R.pwrStat, R.pwrTemp, R.recCnt, R.recCnt2, R.recStat, R.secStat, R.sliceViol] <;> omega)
            | fail) only [Act.cons_run, Act.nil_run, Act.get_run, Act.when_true, Act.when_false, Act.skip_run, Act.seq_run, State.fld_setF, State.fld_modF, State.fld_incF, fld_setF_ne, fld_modF_ne, fld_incF_ne, fld_setRegs_ne, fld_record, fld_attnChanged, fld_vectorWrite, fld_rbWant, fld_attnSet, fld_pmc, fld_healthEv, fld_violation, State.fld_setF_apart, State.fld_modF_apart, State.fld_incF_apart, State.fld_setRegs, fld_when, ite_self, fld_modFlash, fld_modClk, fld_modRecd, fld_modSys, fld_setFailed, fld_emit]
      try rfl

theorem shake256_le (d : List Byte) (n : Nat) : (shake256 d n).length ≤ n := by
  unfold shake256
  exact List.length_take_le _ _


theorem Act.mrExtend_foot {i : Nat} {d : List Byte} : (Act.mrExtend i d).In (mrFoot i) := by
  unfold Act.mrExtend
  refine Act.get_in fun s => Act.each_in fun x hx => Act.setRegs_in ⟨rfl, ?_, ?_⟩
  · simp only [R.secMr]
    omega
  · have h1 := List.snd_lt_of_mem_zipIdx hx
    have h2 : (toWords (shake256 (s.mrBytes i ++ fitBytes d 64) 64)).length ≤ 8 := by
      unfold toWords
      rw [List.length_map, List.length_range]
      have := shake256_le (s.mrBytes i ++ fitBytes d 64) 64
      unfold cdiv
      omega
    simp only [R.secMr] at *
    omega

theorem fld_mrExtend {s : State} (w : s.Wf) {b : Nat} (i : Nat) (d : List Byte) (h : ¬ mrFoot i .regs b) (g : Field) :
    ((Act.mrExtend i d).run s).fld b g = s.fld b g := Act.mrExtend_foot.fld w h g

theorem sys_restart (s : State) : ((Act.restart false).run s).sys = { State.reset.sys with
    inOk := s.sys.inOk, perst := s.sys.perst, recImg := s.sys.recImg, warm := s.sys.warm,
    eraseCut := s.sys.eraseCut || s.flag R.recStat F.recStat_ERASING } := by
  unfold Act.restart
  simp only [Act.cons_run, Act.nil_run, Act.get_run, Act.when_true, Act.when_false, Act.skip_run, Act.seq_run, Act.toReset, Act.emit, Act.modClk, Act.modRecd, Act.modAttn, Act.modLinkOn, Act.modFailed, Act.modLpAct0, Act.modLpAct1, Act.modSigq, Act.modConvq, Act.modFlash, Act.modArrives, Act.modPairs, Act.modRadio, Act.modTime, Act.modLast, Act.modSys, Act.modFree, Act.setClk, Act.setRecd, Act.setAttn, Act.setLinkOn, Act.setFailed, Act.setLpAct0, Act.setLpAct1, Act.setSigq, Act.setConvq, Act.setFlash, Act.setArrives, Act.setPairs, Act.setRadio, Act.setTime, Act.setLast, Act.setSys, Act.setFree, sys_setRegs, sys_setF, sys_modF, sys_incF, Bool.not_false]
  rfl

theorem linkOn_restart (s : State) (cold : Bool) : ((Act.restart cold).run s).linkOn = false := by
  unfold Act.restart
  cases cold
  all_goals
    simp only [Act.cons_run, Act.nil_run, Act.get_run, Act.when_true, Act.when_false, Act.skip_run, Act.seq_run, Act.toReset, Act.emit, Act.modClk, Act.modRecd, Act.modAttn, Act.modLinkOn, Act.modFailed, Act.modLpAct0, Act.modLpAct1, Act.modSigq, Act.modConvq, Act.modFlash, Act.modArrives, Act.modPairs, Act.modRadio, Act.modTime, Act.modLast, Act.modSys, Act.modFree, Act.setClk, Act.setRecd, Act.setAttn, Act.setLinkOn, Act.setFailed, Act.setLpAct0, Act.setLpAct1, Act.setSigq, Act.setConvq, Act.setFlash, Act.setArrives, Act.setPairs, Act.setRadio, Act.setTime, Act.setLast, Act.setSys, Act.setFree, linkOn_setRegs, linkOn_setF, linkOn_modF, linkOn_incF, Bool.not_false, Bool.not_true]
    rfl

theorem gives_runWatchdog {s : State} (w : s.Wf) (h : s.sys.bring.isSome = true) (h1 : s.sys.recImg = none) :
    Gives .runWatchdog s fun t => t.sys.bring = none ∧ t.fld R.hostBoot F.hostBoot_CAUSE = 3 ∧ t.fld R.hostBoot F.hostBoot_REC_WAIT = 1 ∧
      t.fld R.hostAttn4 F.hostAttn4_NOT_READY = 1 := by
  refine gives_out (o := execRunWatchdog s) (a := .recoveryWait 3) rfl ?_ ?_
  · unfold execRunWatchdog
    refine out_congr ?_
    simp [h, h1, Act.imageFails]
  · unfold Act.recoveryWait
    refine ⟨?_, ?_, ?_, ?_⟩
    · simp only [Act.cons_run, Act.nil_run, sys_setF]
      rw [sys_mrExtend (by (repeat' apply Act.wf) <;> assumption)]
      rfl
    all_goals
      simp (maxDischargeDepth := 20) (disch := first
            | assumption
            | (repeat apply Act.wf
               assumption)
            | decide
            | (simp [attnFoot, attnOutFoot, recFoot, hostFoot, pmcCoreFoot, pmcGlobalFoot, healthFoot, healthLevelFoot, violFoot, healthReg, mrFoot, R.secMr, R.corePmcCtl, R.gpmcCtl, R.healthUnitMod, R.hostAttn, R.hostAttn4, R.hostAttn7, R.recCnt, R.recCnt2, R.recStat, R.sliceViol] <;> omega)
            | fail) only [Act.cons_run, Act.nil_run, Act.get_run, Act.when_true, Act.when_false, Act.skip_run, Act.seq_run, State.fld_setF, State.fld_modF, State.fld_incF, fld_setF_ne, fld_modF_ne, fld_incF_ne, fld_setRegs_ne, fld_record, fld_attnChanged, fld_vectorWrite, fld_rbWant, fld_attnSet, fld_pmc, fld_healthEv, fld_violation, State.fld_setF_apart, State.fld_modF_apart, State.fld_incF_apart, State.fld_setRegs, fld_when, ite_self, fld_modClk, fld_modRecd, fld_modAttn, fld_modLinkOn, fld_modFailed, fld_modLpAct0, fld_modLpAct1, fld_modSigq, fld_modConvq, fld_modFlash, fld_modArrives, fld_modPairs, fld_modRadio, fld_modTime, fld_modLast, fld_modSys, fld_modFree, fld_emit, Act.setClk, Act.setRecd, Act.setAttn, Act.setLinkOn, Act.setFailed, Act.setLpAct0, Act.setLpAct1, Act.setSigq, Act.setConvq, Act.setFlash, Act.setArrives, Act.setPairs, Act.setRadio, Act.setTime, Act.setLast, Act.setSys, Act.setFree, fld_mrExtend, restart_notReady]
      try rfl

theorem gives_perstN_fall {s : State} (w : s.Wf) (h : s.sys.fault = none) (h1 : s.sys.perst = false) (h2 : s.notReady = false) :
    Gives (.perstN false) s fun t => t.sys.warm = some 1 ∧ t.sys.perst = true ∧ t.linkOn = false ∧
      t.fld R.hostAttn4 F.hostAttn4_NOT_READY = 1 := by
  refine gives_out (o := execPerstN false s) (a := .all [.modSys fun y => { y with perst := true }, .warmBegin 1]) rfl ?_ ?_
  · unfold execPerstN
    refine out_congr ?_
    simp [h, h1, h2]
  · unfold Act.warmBegin
    refine ⟨?_, ?_, ?_, ?_⟩
    · simp only [Act.cons_run, Act.nil_run, Act.get_run, Act.when_true, Act.when_false, Act.skip_run, Act.seq_run, Act.toReset, Act.emit, Act.modClk, Act.modRecd, Act.modAttn, Act.modLinkOn, Act.modFailed, Act.modLpAct0, Act.modLpAct1, Act.modSigq, Act.modConvq, Act.modFlash, Act.modArrives, Act.modPairs, Act.modRadio, Act.modTime, Act.modLast, Act.modSys, Act.modFree, Act.setClk, Act.setRecd, Act.setAttn, Act.setLinkOn, Act.setFailed, Act.setLpAct0, Act.setLpAct1, Act.setSigq, Act.setConvq, Act.setFlash, Act.setArrives, Act.setPairs, Act.setRadio, Act.setTime, Act.setLast, Act.setSys, Act.setFree, sys_setRegs, sys_setF, sys_modF, sys_incF]
    · simp only [Act.cons_run, Act.nil_run, Act.get_run, Act.when_true, Act.when_false, Act.skip_run, Act.seq_run, Act.toReset, Act.emit, Act.modClk, Act.modRecd, Act.modAttn, Act.modLinkOn, Act.modFailed, Act.modLpAct0, Act.modLpAct1, Act.modSigq, Act.modConvq, Act.modFlash, Act.modArrives, Act.modPairs, Act.modRadio, Act.modTime, Act.modLast, Act.modSys, Act.modFree, Act.setClk, Act.setRecd, Act.setAttn, Act.setLinkOn, Act.setFailed, Act.setLpAct0, Act.setLpAct1, Act.setSigq, Act.setConvq, Act.setFlash, Act.setArrives, Act.setPairs, Act.setRadio, Act.setTime, Act.setLast, Act.setSys, Act.setFree, sys_setRegs, sys_setF, sys_modF, sys_incF, sys_restart]
    · simp only [Act.cons_run, Act.nil_run, Act.get_run, Act.when_true, Act.when_false, Act.skip_run, Act.seq_run, Act.toReset, Act.emit, Act.modClk, Act.modRecd, Act.modAttn, Act.modLinkOn, Act.modFailed, Act.modLpAct0, Act.modLpAct1, Act.modSigq, Act.modConvq, Act.modFlash, Act.modArrives, Act.modPairs, Act.modRadio, Act.modTime, Act.modLast, Act.modSys, Act.modFree, Act.setClk, Act.setRecd, Act.setAttn, Act.setLinkOn, Act.setFailed, Act.setLpAct0, Act.setLpAct1, Act.setSigq, Act.setConvq, Act.setFlash, Act.setArrives, Act.setPairs, Act.setRadio, Act.setTime, Act.setLast, Act.setSys, Act.setFree, linkOn_setRegs, linkOn_setF, linkOn_modF, linkOn_incF, linkOn_restart]
    simp (maxDischargeDepth := 20) (disch := first
          | assumption
          | (repeat apply Act.wf
             assumption)
          | decide
          | (simp [attnFoot, attnOutFoot, recFoot, hostFoot, pmcCoreFoot, pmcGlobalFoot, healthFoot, healthLevelFoot, violFoot, healthReg, R.corePmcCtl, R.gpmcCtl, R.healthUnitMod, R.hostAttn, R.hostAttn4, R.hostAttn7, R.recCnt, R.recCnt2, R.recStat, R.sliceViol] <;> omega)
          | fail) only [Act.cons_run, Act.nil_run, Act.get_run, Act.when_true, Act.when_false, Act.skip_run, Act.seq_run, State.fld_setF, State.fld_modF, State.fld_incF, fld_setF_ne, fld_modF_ne, fld_incF_ne, fld_setRegs_ne, fld_record, fld_attnChanged, fld_vectorWrite, fld_rbWant, fld_attnSet, fld_pmc, fld_healthEv, fld_violation, State.fld_setF_apart, State.fld_modF_apart, State.fld_incF_apart, State.fld_setRegs, fld_when, ite_self, fld_modClk, fld_modRecd, fld_modAttn, fld_modLinkOn, fld_modFailed, fld_modLpAct0, fld_modLpAct1, fld_modSigq, fld_modConvq, fld_modFlash, fld_modArrives, fld_modPairs, fld_modRadio, fld_modTime, fld_modLast, fld_modSys, fld_modFree, fld_emit, Act.setClk, Act.setRecd, Act.setAttn, Act.setLinkOn, Act.setFailed, Act.setLpAct0, Act.setLpAct1, Act.setSigq, Act.setConvq, Act.setFlash, Act.setArrives, Act.setPairs, Act.setRadio, Act.setTime, Act.setLast, Act.setSys, Act.setFree, restart_notReady]

theorem gives_perstN_early {s : State} (w : s.Wf) (h : s.sys.fault = none) (h1 : s.sys.perst = false) (h2 : s.notReady = true) :
    Gives (.perstN false) s fun t => Same (.any [.whole [.sys, .linkOn], .reg R.hostLink]) s t ∧ t.sys.perst = true ∧ t.linkOn = false ∧
      t.rd R.hostLink = regReset R.hostLink := by
  refine gives_out (o := execPerstN false s) (a := .all [.modSys fun y => { y with perst := true }, .linkReset]) rfl ?_ ?_
  · unfold execPerstN
    refine out_congr ?_
    simp [h, h1, h2]
  · unfold Act.linkReset
    refine ⟨Act.In.same ?_ w, rfl, rfl, ?_⟩
    · repeat' first
        | with_reducible first
          | exact Act.nil_in
          | apply Act.cons_in
          | apply Act.seq_in
          | (apply Act.get_in; intro _)
          | (apply Act.when_in; intro _)
          | (apply Act.each_in; intro _ _)
          | (apply Act.withFree_in; intro _)
        | (simp (maxDischargeDepth := 9); done)
        | (simp (maxDischargeDepth := 9) [attnFoot, attnOutFoot, recFoot, hostFoot, pmcCoreFoot, pmcGlobalFoot, healthFoot, healthLevelFoot, violFoot, healthReg]; done)
        | dsimp only
        | split
    · simp only [Act.cons_run, Act.nil_run]
      rw [State.rd_setRegs (by (repeat' apply Act.wf) <;> assumption)]
      decide

theorem gives_perstN_rise {s : State} (w : s.Wf) (h : s.sys.fault = none) :
    Gives (.perstN true) s fun t => Same (.whole [.sys]) s t ∧ t.sys.perst = false := by
  refine gives_out (o := execPerstN true s) (a := .modSys fun y => { y with perst := false }) rfl ?_ ?_
  · unfold execPerstN
    refine out_congr ?_
    simp [h]
  · exact ⟨(Act.modSys_in (by simp)).same w, rfl⟩

theorem gives_hotReset {s : State} (w : s.Wf) (h : s.sys.fault = none) (h1 : s.linkOn = true) (h2 : s.notReady = false) :
    Gives .hotReset s fun t => t.sys.warm = some 2 ∧ t.linkOn = false ∧ t.fld R.hostAttn4 F.hostAttn4_NOT_READY = 1 := by
  refine gives_out (o := execHotReset s) (a := .warmBegin 2) rfl ?_ ?_
  · unfold execHotReset
    refine out_congr ?_
    simp [h, h1, h2]
  · unfold Act.warmBegin
    refine ⟨?_, ?_, ?_⟩
    · simp only [Act.cons_run, Act.nil_run, Act.get_run, Act.when_true, Act.when_false, Act.skip_run, Act.seq_run, Act.toReset, Act.emit, Act.modClk, Act.modRecd, Act.modAttn, Act.modLinkOn, Act.modFailed, Act.modLpAct0, Act.modLpAct1, Act.modSigq, Act.modConvq, Act.modFlash, Act.modArrives, Act.modPairs, Act.modRadio, Act.modTime, Act.modLast, Act.modSys, Act.modFree, Act.setClk, Act.setRecd, Act.setAttn, Act.setLinkOn, Act.setFailed, Act.setLpAct0, Act.setLpAct1, Act.setSigq, Act.setConvq, Act.setFlash, Act.setArrives, Act.setPairs, Act.setRadio, Act.setTime, Act.setLast, Act.setSys, Act.setFree, sys_setRegs, sys_setF, sys_modF, sys_incF]
    · simp only [Act.cons_run, Act.nil_run, Act.get_run, Act.when_true, Act.when_false, Act.skip_run, Act.seq_run, Act.toReset, Act.emit, Act.modClk, Act.modRecd, Act.modAttn, Act.modLinkOn, Act.modFailed, Act.modLpAct0, Act.modLpAct1, Act.modSigq, Act.modConvq, Act.modFlash, Act.modArrives, Act.modPairs, Act.modRadio, Act.modTime, Act.modLast, Act.modSys, Act.modFree, Act.setClk, Act.setRecd, Act.setAttn, Act.setLinkOn, Act.setFailed, Act.setLpAct0, Act.setLpAct1, Act.setSigq, Act.setConvq, Act.setFlash, Act.setArrives, Act.setPairs, Act.setRadio, Act.setTime, Act.setLast, Act.setSys, Act.setFree, linkOn_setRegs, linkOn_setF, linkOn_modF, linkOn_incF, linkOn_restart]
    simp (maxDischargeDepth := 20) (disch := first
          | assumption
          | (repeat apply Act.wf
             assumption)
          | decide
          | (simp [attnFoot, attnOutFoot, recFoot, hostFoot, pmcCoreFoot, pmcGlobalFoot, healthFoot, healthLevelFoot, violFoot, healthReg, R.corePmcCtl, R.gpmcCtl, R.healthUnitMod, R.hostAttn, R.hostAttn4, R.hostAttn7, R.recCnt, R.recCnt2, R.recStat, R.sliceViol] <;> omega)
          | fail) only [Act.cons_run, Act.nil_run, Act.get_run, Act.when_true, Act.when_false, Act.skip_run, Act.seq_run, State.fld_setF, State.fld_modF, State.fld_incF, fld_setF_ne, fld_modF_ne, fld_incF_ne, fld_setRegs_ne, fld_record, fld_attnChanged, fld_vectorWrite, fld_rbWant, fld_attnSet, fld_pmc, fld_healthEv, fld_violation, State.fld_setF_apart, State.fld_modF_apart, State.fld_incF_apart, State.fld_setRegs, fld_when, ite_self, fld_modClk, fld_modRecd, fld_modAttn, fld_modLinkOn, fld_modFailed, fld_modLpAct0, fld_modLpAct1, fld_modSigq, fld_modConvq, fld_modFlash, fld_modArrives, fld_modPairs, fld_modRadio, fld_modTime, fld_modLast, fld_modSys, fld_modFree, fld_emit, Act.setClk, Act.setRecd, Act.setAttn, Act.setLinkOn, Act.setFailed, Act.setLpAct0, Act.setLpAct1, Act.setSigq, Act.setConvq, Act.setFlash, Act.setArrives, Act.setPairs, Act.setRadio, Act.setTime, Act.setLast, Act.setSys, Act.setFree, restart_notReady]

theorem gives_hotReset_early {s : State} (w : s.Wf) (h : s.sys.fault = none) (h1 : s.linkOn = true) (h2 : s.notReady = true) :
    Gives .hotReset s fun t => Same (.whole [.linkOn]) s t ∧ t.linkOn = false := by
  refine gives_out (o := execHotReset s) (a := .modLinkOn fun _ => false) rfl ?_ ?_
  · unfold execHotReset
    refine out_congr ?_
    simp [h, h1, h2]
  · exact ⟨(Act.modLinkOn_in (by simp)).same w, rfl⟩

theorem gives_uhlileMismatch {s : State} (w : s.Wf) (h : s.sys.bring.isSome = true ∨ s.notReady = false) (h1 : s.sys.uhMis = none) :
    Gives .uhlileMismatch s fun t => Same (.whole [.sys]) s t ∧ t.sys.uhDown = true ∧ t.sys.uhMis = some s.tick := by
  refine gives_out (o := execUhlileMismatch s) (a := .modSys fun y => { y with uhMis := some s.tick, uhDown := true }) rfl ?_ ?_
  · unfold execUhlileMismatch
    refine out_congr ?_
    rcases h with h | h <;> simp [h, h1]
  · exact ⟨(Act.modSys_in (by simp)).same w, rfl, rfl⟩

theorem gives_uhlileMismatch_again {s : State} (w : s.Wf) {t0 : Nat} (h : s.sys.bring = none) (h0 : s.notReady = false)
    (h1 : s.sys.uhMis = some t0) (h2 : s.tick < t0 + 250000000) :
    Gives .uhlileMismatch s fun t => Same (.any [.whole [.sys, .failed, .attn, .emitted], .reg R.hostBoot, .reg R.hostAttn4]) s t ∧
      t.failed = true ∧ t.fld R.hostBoot F.hostBoot_FAILED = 1 ∧ t.fld R.hostAttn4 F.hostAttn4_NOT_READY = 1 := by
  refine gives_out (o := execUhlileMismatch s)
    (a := .all [.modSys fun y => { y with uhMis := some s.tick, uhDown := false }, .moduleFail none]) rfl ?_ ?_
  · unfold execUhlileMismatch
    refine out_congr ?_
    rw [h1]
    simp [h, h0, h2]
  · unfold Act.moduleFail Act.setFailed
    refine ⟨Act.In.same ?_ w, ?_, ?_, ?_⟩
    · repeat' first
        | with_reducible first
          | exact Act.nil_in
          | apply Act.cons_in
          | apply Act.seq_in
          | (apply Act.get_in; intro _)
          | (apply Act.when_in; intro _)
          | (apply Act.each_in; intro _ _)
          | (apply Act.withFree_in; intro _)
        | (simp (maxDischargeDepth := 9); done)
        | (simp (maxDischargeDepth := 9) [attnFoot, attnOutFoot, recFoot, hostFoot, pmcCoreFoot, pmcGlobalFoot, healthFoot, healthLevelFoot, violFoot, healthReg]; done)
        | dsimp only
        | split
    · simp only [Act.cons_run, Act.nil_run]
      rw [failed_rbWant (by (repeat' apply Act.wf) <;> assumption)]
      rfl
    all_goals
      simp (maxDischargeDepth := 20) (disch := first
            | assumption
            | (repeat apply Act.wf
               assumption)
            | decide
            | (simp [attnFoot, attnOutFoot, recFoot, hostFoot, pmcCoreFoot, pmcGlobalFoot, healthFoot, healthLevelFoot, violFoot, healthReg, R.corePmcCtl, R.gpmcCtl, R.healthUnitMod, R.hostAttn, R.hostAttn4, R.hostAttn7, R.recCnt, R.recCnt2, R.recStat, R.sliceViol] <;> omega)
            | fail) only [Act.cons_run, Act.nil_run, Act.get_run, Act.when_true, Act.when_false, Act.skip_run, Act.seq_run, State.fld_setF, State.fld_modF, State.fld_incF, fld_setF_ne, fld_modF_ne, fld_incF_ne, fld_setRegs_ne, fld_record, fld_attnChanged, fld_vectorWrite, fld_rbWant, fld_attnSet, fld_pmc, fld_healthEv, fld_violation, State.fld_setF_apart, State.fld_modF_apart, State.fld_incF_apart, State.fld_setRegs, fld_when, ite_self, fld_modClk, fld_modRecd, fld_modAttn, fld_modLinkOn, fld_modFailed, fld_modLpAct0, fld_modLpAct1, fld_modSigq, fld_modConvq, fld_modFlash, fld_modArrives, fld_modPairs, fld_modRadio, fld_modTime, fld_modLast, fld_modSys, fld_modFree, fld_emit, Act.setClk, Act.setRecd, Act.setAttn, Act.setLinkOn, Act.setFailed, Act.setLpAct0, Act.setLpAct1, Act.setSigq, Act.setConvq, Act.setFlash, Act.setArrives, Act.setPairs, Act.setRadio, Act.setTime, Act.setLast, Act.setSys, Act.setFree]
      try rfl

theorem sys_attnMgr {s : State} (w : s.Wf) : ((Act.attnMgr).run s).sys = s.sys :=
  Act.attnMgr_pieces (F := .whole [.regs, .host, .attn, .emitted]) Foot.le_refl s w .sys 0 (show ¬ (Piece.sys ∈ _) by decide)

theorem sys_mbUnknown {s : State} (w : s.Wf) (mb : Nat) : ((Act.mbUnknown mb).run s).sys = s.sys :=
  Act.mbUnknown_pieces (F := .whole [.regs, .mem, .errs, .lpErr, .chUe, .host, .store, .acc, .parts, .health, .leash, .trigs, .log, .recUsed, .recDrop, .recd, .attn, .flash, .emitted]) Foot.le_refl s w .sys 0 (show ¬ (Piece.sys ∈ _) by decide)

theorem sys_mbUnknowns {s : State} (w : s.Wf) (l : List Nat) : ((Act.each l .mbUnknown).run s).sys = s.sys :=
  Act.each_in (fun i _ => Act.mbUnknown_pieces Foot.le_refl) s w .sys 0 (show ¬ (Piece.sys ∈ _) by decide)

theorem gives_uhlileRestartDone {s : State} (w : s.Wf) (h : s.sys.uhDown = true) :
    Gives .uhlileRestartDone s fun t => t.sys = { s.sys with uhDown := false } := by
  refine gives_out (o := execUhlileRestartDone s) (a := .all [.modSys fun y => { y with uhDown := false }, .attnMgr,
    .record 0x00 0x3FF 0x9801 [], .healthEv 0 0 0, .each (List.range 257) .mbUnknown]) rfl ?_ ?_
  · unfold execUhlileRestartDone
    refine out_congr ?_
    simp [h]
  · simp only [Act.cons_run, Act.nil_run]
    rw [sys_mbUnknowns (by (repeat' apply Act.wf) <;> assumption)]
    rw [sys_healthEv (by (repeat' apply Act.wf) <;> assumption), sys_record (by (repeat' apply Act.wf) <;> assumption), sys_attnMgr (by (repeat' apply Act.wf) <;> assumption)]
    rfl

end Sys2Proof.Machine
end

