-- ==== Sys2Proof/WellFormed.lean ====
section
/-! DEFINITION. Commands whose operands name units, registers and places the module has. A command outside these ranges is no event
of the module; exec is total on it all the same. -/

namespace Sys2Proof

/-- A partition code (R137). -/
def wfPart (p : Nat) : Bool := decide (p < 256) || p == 0x100 || p == 0x101 || p == 0x3FF

def Requester.wf : Requester → Bool
  | .core c x => decide (c < 64) && decide (x < 5)
  | .dsp d => decide (d < 96)
  | .coding e => decide (e < 40)
  | .fronthaul cells => cells.all fun c => decide (c < 512)
  | .hostDma p => wfPart p
  | .bar2 => true
  | .fabric => true
  | .uhlile p => wfPart p

def VInstr.wf (v : VInstr) : Bool :=
  decide (v.dt < 4) && decide (v.vd < 32) && decide (v.va < 32) && decide (v.vb < 32) && decide (v.vc < 32)

/-- A command of the module. -/
def Instr.wellFormed : Instr → Bool
  | .registerWrite who _ _ _ _ => wfPart who
  | .rcRead who _ _ _ => wfPart who
  | .lockWrite who _ => wfPart who
  | .memoryRead req _ _ _ => req.wf
  | .memoryWrite req _ _ => req.wf
  | .patrolRead _ _ _ => true
  | .atomicOp req _ _ => req.wf
  | .ueLogClear die _ => decide (die < 2)
  | .tileEntry core ctx => decide (core < 64) && decide (ctx < 5)
  | .vectorBundle core ctx => decide (core < 64) && decide (ctx < 5)
  | .mark core ctx => decide (core < 64) && decide (ctx < 5)
  | .end_ core ctx => decide (core < 64) && decide (ctx < 5)
  | .stepBoundary slice => decide (slice < 256)
  | .epochTimeout slice _ => decide (slice < 256)
  | .tileDispatch core ctx => decide (core < 64) && decide (ctx < 5)
  | .bankLoad core arr => decide (core < 64) && decide (arr < 4)
  | .bankLoadComplete core arr => decide (core < 64) && decide (arr < 4)
  | .moveDataArrival core ctx => decide (core < 64) && decide (ctx < 5)
  | .weltVerdict core arr _ _ => decide (core < 64) && decide (arr < 4)
  | .weltRerun core arr => decide (core < 64) && decide (arr < 4)
  | .resolePass core arr => decide (core < 64) && decide (arr < 4)
  | .tileReplay core ctx => decide (core < 64) && decide (ctx < 5)
  | .conversion core => decide (core < 64)
  | .syncSignal part _ => wfPart part
  | .syncWaitTimeout core ctx => decide (core < 64) && decide (ctx < 5)
  | .overrunAbort core arr => decide (core < 64) && decide (arr < 4)
  | .controlParityError core => decide (core < 64)
  | .vld core ctx v => decide (core < 64) && decide (ctx < 5) && v.wf
  | .vst core ctx v => decide (core < 64) && decide (ctx < 5) && v.wf
  | .vlda core ctx v => decide (core < 64) && decide (ctx < 5) && v.wf
  | .vsta core ctx v => decide (core < 64) && decide (ctx < 5) && v.wf
  | .vadd core ctx v => decide (core < 64) && decide (ctx < 5) && v.wf
  | .vsub core ctx v => decide (core < 64) && decide (ctx < 5) && v.wf
  | .vmul core ctx v => decide (core < 64) && decide (ctx < 5) && v.wf
  | .vfma core ctx v => decide (core < 64) && decide (ctx < 5) && v.wf
  | .vmax core ctx v => decide (core < 64) && decide (ctx < 5) && v.wf
  | .vmin core ctx v => decide (core < 64) && decide (ctx < 5) && v.wf
  | .vabs core ctx v => decide (core < 64) && decide (ctx < 5) && v.wf
  | .vneg core ctx v => decide (core < 64) && decide (ctx < 5) && v.wf
  | .vcmplt core ctx v => decide (core < 64) && decide (ctx < 5) && v.wf
  | .vcmple core ctx v => decide (core < 64) && decide (ctx < 5) && v.wf
  | .vcmpeq core ctx v => decide (core < 64) && decide (ctx < 5) && v.wf
  | .vsel core ctx v => decide (core < 64) && decide (ctx < 5) && v.wf
  | .vrsum core ctx v => decide (core < 64) && decide (ctx < 5) && v.wf
  | .vrmax core ctx v => decide (core < 64) && decide (ctx < 5) && v.wf
  | .vrmin core ctx v => decide (core < 64) && decide (ctx < 5) && v.wf
  | .vexp2 core ctx v => decide (core < 64) && decide (ctx < 5) && v.wf
  | .vlog2 core ctx v => decide (core < 64) && decide (ctx < 5) && v.wf
  | .vrcp core ctx v => decide (core < 64) && decide (ctx < 5) && v.wf
  | .vrsqrt core ctx v => decide (core < 64) && decide (ctx < 5) && v.wf
  | .vtanh core ctx v => decide (core < 64) && decide (ctx < 5) && v.wf
  | .verf core ctx v => decide (core < 64) && decide (ctx < 5) && v.wf
  | .vcvt core ctx v _ _ _ _ => decide (core < 64) && decide (ctx < 5) && v.wf
  | .vcvts core ctx v _ _ _ _ => decide (core < 64) && decide (ctx < 5) && v.wf
  | .vladd core ctx v => decide (core < 64) && decide (ctx < 5) && v.wf
  | .vlcvt core ctx v _ _ _ => decide (core < 64) && decide (ctx < 5) && v.wf
  | .move core ctx v _ _ _ _ => decide (core < 64) && decide (ctx < 5) && v.wf
  | .swait core ctx v _ _ => decide (core < 64) && decide (ctx < 5) && v.wf
  | .ssig core ctx v _ => decide (core < 64) && decide (ctx < 5) && v.wf
  | .cellSet mb => decide (mb < 258)
  | .cellApply mb => decide (mb < 258)
  | .cellDiscard mb => decide (mb < 258)
  | .nrxLoad mb => decide (mb < 258)
  | .nrxUnload mb => decide (mb < 258)
  | .dspLoad mb => decide (mb < 258)
  | .portConfig mb => decide (mb < 258)
  | .powerCapSet mb => decide (mb < 258)
  | .timeSet mb => decide (mb < 258)
  | .retire mb => decide (mb < 258)
  | .retireClear mb => decide (mb < 258)
  | .reqFetch cell esn _ => decide (cell < 512) && decide (esn < 2 ^ 32)
  | .paramRequest cell esn => decide (cell < 512) && decide (esn < 2 ^ 32)
  | .configRequest cell esn _ => decide (cell < 512) && decide (esn < 2 ^ 32)
  | .startRequest cell esn => decide (cell < 512) && decide (esn < 2 ^ 32)
  | .stopRequest cell esn => decide (cell < 512) && decide (esn < 2 ^ 32)
  | .dlTtiRequest cell esn _ => decide (cell < 512) && decide (esn < 2 ^ 32)
  | .ulTtiRequest cell esn _ => decide (cell < 512) && decide (esn < 2 ^ 32)
  | .ulDciRequest cell esn _ => decide (cell < 512) && decide (esn < 2 ^ 32)
  | .txDataRequest cell esn _ => decide (cell < 512) && decide (esn < 2 ^ 32)
  | .payFetch cell esn => decide (cell < 512) && decide (esn < 2 ^ 32)
  | .dlEmit cell esn _ => decide (cell < 512) && decide (esn < 2 ^ 32)
  | .indicationWrite cell esn _ => decide (cell < 512) && decide (esn < 2 ^ 32)
  | .nrxCall cell esn _ _ _ _ _ _ _ => decide (cell < 512) && decide (esn < 2 ^ 32)
  | .uplanePacketRx port _ => decide (port < 48)
  | .receptionWindowClose cell _ esn sym => decide (cell < 512) && decide (esn < 2 ^ 32) && decide (sym < 14)
  | .oneWayDelayMeasurement port _ => decide (port < 48)
  | .tdUplinkSymbol cell _ esn sym => decide (cell < 512) && decide (esn < 2 ^ 32) && decide (sym < 14)
  | .dspJobDispatch group _ _ _ _ => decide (group < 12)
  | .dspProgramStart d => decide (d < 96)
  | .dspStatusRecord d _ _ => decide (d < 96)
  | .dspRadioOverrun d => decide (d < 96)
  | .dspManagerOverrun d => decide (d < 96)
  | .dspWaitTimeout d => decide (d < 96)
  | .dspCmac d _ acc a b => decide (d < 96) && decide (acc < 64) && decide (a < 64) && decide (b < 64)
  | .dspCmacj d _ acc a b => decide (d < 96) && decide (acc < 64) && decide (a < 64) && decide (b < 64)
  | .dspCmul d _ acc a b => decide (d < 96) && decide (acc < 64) && decide (a < 64) && decide (b < 64)
  | .dspRmac d _ acc a b => decide (d < 96) && decide (acc < 64) && decide (a < 64) && decide (b < 64)
  | .dspRmul d _ acc a b => decide (d < 96) && decide (acc < 64) && decide (a < 64) && decide (b < 64)
  | .dspAclr d _ acc => decide (d < 96) && decide (acc < 64)
  | .dspAadd d _ acc a b => decide (d < 96) && decide (acc < 64) && decide (a < 64) && decide (b < 64)
  | .dspAsub d _ acc a b => decide (d < 96) && decide (acc < 64) && decide (a < 64) && decide (b < 64)
  | .dspAshr d _ acc a _ => decide (d < 96) && decide (acc < 64) && decide (a < 64)
  | .dspNrw d _ vd acc _ => decide (d < 96) && decide (vd < 64) && decide (acc < 64)
  | .dspVadd d _ vd a b => decide (d < 96) && decide (vd < 64) && decide (a < 64) && decide (b < 64)
  | .dspVsub d _ vd a b => decide (d < 96) && decide (vd < 64) && decide (a < 64) && decide (b < 64)
  | .dspVneg d _ vd a => decide (d < 96) && decide (vd < 64) && decide (a < 64)
  | .dspVabs d _ vd a => decide (d < 96) && decide (vd < 64) && decide (a < 64)
  | .dspVmax d _ vd a b => decide (d < 96) && decide (vd < 64) && decide (a < 64) && decide (b < 64)
  | .dspVmin d _ vd a b => decide (d < 96) && decide (vd < 64) && decide (a < 64) && decide (b < 64)
  | .dspVshl d _ vd a _ => decide (d < 96) && decide (vd < 64) && decide (a < 64)
  | .dspVshr d _ vd a _ => decide (d < 96) && decide (vd < 64) && decide (a < 64)
  | .dspVand d _ vd a b => decide (d < 96) && decide (vd < 64) && decide (a < 64) && decide (b < 64)
  | .dspVor d _ vd a b => decide (d < 96) && decide (vd < 64) && decide (a < 64) && decide (b < 64)
  | .dspVxor d _ vd a b => decide (d < 96) && decide (vd < 64) && decide (a < 64) && decide (b < 64)
  | .dspVsel d _ vd a b c => decide (d < 96) && decide (vd < 64) && decide (a < 64) && decide (b < 64) && decide (c < 64)
  | .dspVnorm d _ vd a => decide (d < 96) && decide (vd < 64) && decide (a < 64)
  | .dspVrcps d _ vd a => decide (d < 96) && decide (vd < 64) && decide (a < 64)
  | .dspLdx d _ vd ag => decide (d < 96) && decide (vd < 64) && decide (ag < 16)
  | .dspStx d _ va ag => decide (d < 96) && decide (va < 64) && decide (ag < 16)
  | .dspLdwx d _ vd ag => decide (d < 96) && decide (vd < 64) && decide (ag < 16)
  | .dspStnx d _ va ag => decide (d < 96) && decide (va < 64) && decide (ag < 16)
  | .dspLdsx d _ sd ag => decide (d < 96) && decide (sd < 64) && decide (ag < 16)
  | .dspStsx d _ sa ag => decide (d < 96) && decide (sa < 64) && decide (ag < 16)
  | .dspLdy d _ vd ag => decide (d < 96) && decide (vd < 64) && decide (ag < 16)
  | .dspSty d _ va ag => decide (d < 96) && decide (va < 64) && decide (ag < 16)
  | .dspLdwy d _ vd ag => decide (d < 96) && decide (vd < 64) && decide (ag < 16)
  | .dspStny d _ va ag => decide (d < 96) && decide (va < 64) && decide (ag < 16)
  | .dspLdsy d _ sd ag => decide (d < 96) && decide (sd < 64) && decide (ag < 16)
  | .dspStsy d _ sa ag => decide (d < 96) && decide (sa < 64) && decide (ag < 16)
  | .dspLoop d _ _ _ _ => decide (d < 96)
  | .dspBr d _ _ => decide (d < 96)
  | .dspBrc d _ _ a b _ => decide (d < 96) && decide (a < 64) && decide (b < 64)
  | .dspCall d _ _ => decide (d < 96)
  | .dspRet d _ => decide (d < 96)
  | .dspEnd d _ => decide (d < 96)
  | .dspSmov d _ sd _ _ => decide (d < 96) && decide (sd < 64)
  | .dspSadd d _ sd a b => decide (d < 96) && decide (sd < 64) && decide (a < 64) && decide (b < 64)
  | .dspSsub d _ sd a b => decide (d < 96) && decide (sd < 64) && decide (a < 64) && decide (b < 64)
  | .dspSand d _ sd a b => decide (d < 96) && decide (sd < 64) && decide (a < 64) && decide (b < 64)
  | .dspSshl d _ sd a b => decide (d < 96) && decide (sd < 64) && decide (a < 64) && decide (b < 64)
  | .dspAgset d _ ag _ _ _ _ _ _ => decide (d < 96) && decide (ag < 16)
  | .dspAgld d _ ag _ sa => decide (d < 96) && decide (ag < 16) && decide (sa < 64)
  | .dspModeset d _ _ => decide (d < 96)
  | .ldpcDecodeJob cluster _ _ _ _ => decide (cluster < 4)
  | .ldpcEncodeJob cluster _ _ _ => decide (cluster < 4)
  | .dciEncode cluster _ _ _ _ => decide (cluster < 4)
  | .bchEncode cluster _ _ _ _ => decide (cluster < 4)
  | .uciPolarDecode cluster _ _ _ _ => decide (cluster < 4)
  | .uciReedMullerDecode cluster _ _ _ _ => decide (cluster < 4)
  | .codeBlockDone engine _ _ => decide (engine < 40)
  | .codingStatusRecord cluster _ => decide (cluster < 4)
  | .codingJobOverrun cluster _ => decide (cluster < 4)
  | .engineSelftest engine _ => decide (engine < 40)
  | .harqTtlExpiry cell _ _ => decide (cell < 512)
  | .raOccasionSearch cell cfg esn sym raIdx det _ => decide (cell < 512) && decide (cfg < 2) && decide (esn < 2 ^ 32) && decide (sym < 14) && decide (raIdx < 8) && decide (det < 2)
  | .msgaDecode cell _ esn => decide (cell < 512) && decide (esn < 2 ^ 32)
  | .announce _ => true
  | .sync _ => true
  | .followUp _ => true
  | .delayReq _ _ => true
  | .delayResp _ => true
  | .masterDelayReq _ => true
  | .masterSyncTx port => decide (port < 48)
  | .masterAnnounceTx port => decide (port < 48)
  | .timeStep => true
  | .recoveryEntry => true
  | .timeReferenceLoss => true
  | .announceReceiptTimeout => true
  | .sampleTimeout => true
  | .holdoverExpiry => true
  | .ppsInEdge _ => true
  | .ppsOut => true
  | .esmcTx port _ => decide (port < 48)
  | .esmcRx port _ => decide (port < 48)
  | .qlTimeout => true
  | .freqRefSwitch _ _ => true
  | .timeCfgWrite who _ => wfPart who
  | .timeLatch who _ => wfPart who
  | .periodBoundary _ => true
  | .stitchStart _ => true
  | .lastRebuild core arr => decide (core < 64) && decide (arr < 4)
  | .attentionSet bit => decide (bit < 259)
  | .attentionFlushDone _ => true
  | .attentionAck _ _ _ => true
  | .attnCfgWrite _ => true
  | .rbNHoldEnd => true
  | .bar2Access _ _ _ _ _ => true
  | .dmaCompletionError part _ => wfPart part
  | .completionTimeout part _ => wfPart part
  | .linkDown => true
  | .linkUp _ _ _ => true
  | .doeRequest _ => true
  | .perstN _ => true
  | .hotReset => true
  | .devInfo mb => decide (mb < 258)
  | .recoveryLoad mb _ => decide (mb < 258)
  | .sliceCreate mb => decide (mb < 258)
  | .sliceDestroy mb => decide (mb < 258)
  | .sliceReset mb => decide (mb < 258)
  | .pasidBind mb => decide (mb < 258)
  | .pasidUnbind mb => decide (mb < 258)
  | .sliceQuery mb => decide (mb < 258)
  | .arrayMove mb => decide (mb < 258)
  | .ctxStart mb => decide (mb < 258)
  | .ctxStop mb => decide (mb < 258)
  | .listSubmit mb => decide (mb < 258)
  | .listEntry part _ => wfPart part
  | .batchSubmit mb => decide (mb < 258)
  | .batchAbort mb => decide (mb < 258)
  | .listAbort mb => decide (mb < 258)
  | .slicePause mb => decide (mb < 258)
  | .sliceResume mb => decide (mb < 258)
  | .sliceCheckpoint mb => decide (mb < 258)
  | .sliceRestore mb _ _ => decide (mb < 258)
  | .modeChange mb => decide (mb < 258)
  | .launchBarrier mb => decide (mb < 258)
  | .partitionResetDone slice => decide (slice < 256)
  | .healthCfg mb => decide (mb < 258)
  | .healthQuery mb => decide (mb < 258)
  | .healthClear mb => decide (mb < 258)
  | .stepReport mb => decide (mb < 258)
  | .ctrProgram mb => decide (mb < 258)
  | .ctrRead mb => decide (mb < 258)
  | .ctrSampleCfg mb => decide (mb < 258)
  | .ctrSampleRead mb => decide (mb < 258)
  | .ctrDump mb => decide (mb < 258)
  | .ctrDumpStop mb => decide (mb < 258)
  | .dumpSnapshot ring _ _ => decide (ring < 33)
  | .recRead mb => decide (mb < 258)
  | .recFreeze mb => decide (mb < 258)
  | .recThaw mb => decide (mb < 258)
  | .recClear mb => decide (mb < 258)
  | .recLeash mb => decide (mb < 258)
  | .recTrigger mb => decide (mb < 258)
  | .recStatus mb => decide (mb < 258)
  | .recordSubmit code part _ _ => decide (code < 65536) && wfPart part
  | .snapshotRecord trigger => decide (trigger < 16)
  | .leashToken code => decide (code < 65536)
  | .hoursUpdate => true
  | .freezeTimeout => true
  | .recEraseDone => true
  | .attReport mb => decide (mb < 258)
  | .attChain mb => decide (mb < 258)
  | .attExtend mb => decide (mb < 258)
  | .dbgReqN => true
  | .engineEntryTake e => decide (e < 32)
  | .nop e => decide (e < 32)
  | .load e => decide (e < 32)
  | .store e => decide (e < 32)
  | .flagStore e => decide (e < 32)
  | .add64 e => decide (e < 32)
  | .min64 e => decide (e < 32)
  | .max64 e => decide (e < 32)
  | .swap64 e => decide (e < 32)
  | .cas64 e => decide (e < 32)
  | .ladd128 e => decide (e < 32)
  | .fence e => decide (e < 32)
  | .fabricRequestRx _ => true
  | .flagStorePerform node _ => decide (node < 65536)
  | .syn _ => true
  | .acknowledgement _ => true
  | .credit node _ _ => decide (node < 65536)
  | .retransmit node _ => decide (node < 65536)
  | .nopKeepalive node => decide (node < 65536)
  | .fabricTimeout node _ => decide (node < 65536)
  | .connectionIdleClose node => decide (node < 65536)
  | .fabricPortDown port => decide (port < 48)
  | .regionDescriptorWrite who _ _ _ => wfPart who
  | .arrive _ node _ _ => decide (node < 65536)
  | .release _ node _ _ _ _ _ => decide (node < 65536)
  | .arriveResend slice => decide (slice < 256)
  | .barrierOpen slice => decide (slice < 256)
  | .barrierTimeout slice => decide (slice < 256)
  | .houndPacketRx unit _ _ _ => decide (unit < 8)
  | .houndResend unit => decide (unit < 8)
  | .houndCfgWrite who unit _ => wfPart who && decide (unit < 8)
  | .diePairTimeout slice => decide (slice < 256)
  | .repTransitionDone core => decide (core < 64)
  | .healthEvaluation => true
  | .clockFailure island => decide (island < 90)
  | .supplyEvent island => decide (island < 90)
  | .railEvent _ => true
  | .flitCrcFailure req _ => req.wf
  | .uhlileMismatch => true
  | .uhlileRestartDone => true
  | .arraySelftest core arr _ => decide (core < 64) && decide (arr < 4)
  | .moduleReset _ => true
  | .warmReset _ _ => true
  | .resetProtocolTimeout => true
  | .runWatchdog => true
  | .notReadyClear => true
  | .inputQualified _ => true
  | .undervoltage _ => true
  | .overvoltage _ => true
  | .inputOutOfRange _ => true
  | .uvDip => true
  | .faultRestart => true
  | .tempSample _ island => decide (island < 90)
  | .thermalTrip => true
  | .powerSample _ _ _ => true
  | .loInQualified => true
  | .loInLoss => true
  | .ppsInMissingEdge => true
  | .laneLossOfSignal lane => decide (lane < 88)
  | .portLinkUp port => decide (port < 48)
  | .fecUncorrectableCodeword lane => decide (lane < 88)
  | .otherFrameRx port => decide (port < 48)
  | .badFcsFrame port => decide (port < 48)
  | .pcieCorrectableError => true
  | .creditReturn node => decide (node < 65536)
  | .channelRetraining ch _ _ => decide (ch < 128)
  | .tdDownlinkSymbol cell _ esn sym => decide (cell < 512) && decide (esn < 2 ^ 32) && decide (sym < 14)
  | .radioStageOverrun cell => decide (cell < 512)
  | .arriveHoldExpiry _ => true

end Sys2Proof
end

