-- ==== Sys2Proof/Tests/Slice0.lean ====
section
/-! SUPPORT. Tests: states that meet the hypotheses of every statement, ill-formed commands that the check refuses, and single steps. -/

open Sys2Proof Sys2Proof.Machine

namespace Sys2Proof.Tests

set_option maxRecDepth 100000
set_option Elab.async false
set_option linter.unusedVariables false

/-- The state after some actions from reset. -/
def st (as : List Act) : State := (Act.all as).run State.reset

/-- A container of three images that the boot ROM accepts (R446). -/
def goodImage : List Byte := leBytes 0x34374D4F 4 ++ [1, 0, 3, 0] ++ ([1, 2, 3].flatMap fun i => leBytes (4096 * i) 4 ++ leBytes 4096 4 ++ leBytes (10 * i) 4 ++ leBytes 0 4) ++
  List.replicate 16328 0

/-- A start in which nothing fails. -/
def goodStart : StartReport := ⟨[], [], [], [], [], false, 300, ⟨goodImage, true⟩, none⟩

/-- The module is ready (R293). -/
def ready : Act := .setF R.hostAttn4 F.hostAttn4_NOT_READY 0

/-- A command in mailbox mb: opcode and argument words (R300). -/
def put (mb op : Nat) (args : List Nat) (outAddr : Nat := 0) : Act := .all [
  .setRegs (mbHdr mb 0) (BitVec.ofNat 64 (2 ^ 63 + op * 2 ^ 32 + 7)),
  .setRegs (mbHdr mb 1) (BitVec.ofNat 64 (3 * 2 ^ 48 + 8 * args.length * 2 ^ 32)),
  .setRegs (mbHdr mb 2) (BitVec.ofNat 64 outAddr),
  .setRegs (mbHdr mb 3) (BitVec.ofNat 64 (if outAddr = 0 then 0 else 4096 * 2 ^ 32)),
  .each args.zipIdx fun (a, i) => .setRegs (mbArg mb i) (BitVec.ofNat 64 a)]

/-- A slice exists and is idle (R297). -/
def live (p : Nat) (state : Nat := 1) : Act := .setF (R.sliceStat p) F.sliceStat_STATE state


/-- Slice 5 runs a stream in context 2 of core 0, which holds the four arrays of the core, at program address 0x40. -/
def stream : Act := .all [
  live 5 2,
  .modParts 5 fun x => { x with
    arrays := 15
    segs := [(0, 2 ^ 63 + 2 ^ 62 + 2 ^ 61 + 2 ^ 60, 0x100 * 2 ^ 32 + 256)]
    syncBase := 0x1100000
    launches := [⟨7, 1, 0, false, 0, 0, [], 0, 0, 0, false, []⟩] },
  .setF (R.coreCtxOwner 0 2) F.coreCtxOwner_KIND 1,
  .setF (R.coreCtxOwner 0 2) F.coreCtxOwner_SLICE 5,
  .setF (R.coreSeqStat 0) F.coreSeqStat_CTX_ACTIVE 4,
  .setF (R.coreCtxPc 0 2) F.coreCtxPc_PC 0x40,
  .modCtxs 2 fun x => { x with handle := 7 },
  .modLast fun l => { l with bucket := 100000 }]

/-- A tile in INT8 of one row that initialises accumulator line 0 (R93). -/
def tileWords : List Nat := [2 ^ 60 + 77, 7 * 2 ^ 60 + 7 * 2 ^ 56 + 2 ^ 47 + 260 * 2 ^ 37 + 2 ^ 31 + 2 ^ 27, 0, 0, 4 * 2 ^ 32, 0x100 * 2 ^ 16, 0, 0]

/-- The program entry of the stream. -/
def entry (ws : List Nat) : Act := .setBytes 0x1000040 (ws.flatMap fun w => leBytes w 8)

/-- A run of the tile in context 2 of core 0. -/
def tileRun (load : Nat := 0) (started : Bool := false) (again : Nat := 0) (run : Nat := 1) : TileRun :=
  ⟨0, 2, 5, 4, tileWords ++ [0x40, 0], run, 0, false, false, 0, 0, 0, if started then [0] else [], false, 0, load, 0, [], [], emptyBank, none, again⟩

/-- The stream has a vector instruction in front (R104); registers 1 and 2 hold some lanes. -/
def vec (w : Nat) : Act := .all [stream, .modCtxs 2 fun x => { x with bundle := [w, 5] },
  .setVreg 64 0x3F800000, .setVreg 127 0x40400000, .setVreg 128 0x40000000, .setVreg 191 0xC0000000, .setVreg 192 1]

/-- The fields of that instruction: register 3 from registers 1 and 2. -/
def vIns (dt : Nat) (imm : BitVec 32 := 0) (vd : Nat := 3) (va : Nat := 1) (res : Nat := 0) : VInstr := ⟨dt, vd, va, 2, 3, imm, res⟩

/-- Its word. -/
def vWord (op dt : Nat) (imm : Nat := 0) (vd : Nat := 3) (va : Nat := 1) : Nat :=
  op * 2 ^ 56 + dt * 2 ^ 52 + vd * 2 ^ 47 + va * 2 ^ 42 + 2 * 2 ^ 37 + 3 * 2 ^ 32 + imm

/-- A manager job of DSP 95. -/
def job95 (phase : Nat := 1) (words : List Nat := [6 * 2 ^ 60 + 77, 2 ^ 21, 0, 0, 0, 0, 0, 0]) (moves : List (Nat × Nat) := []) : DspJob :=
  ⟨words, false, 0x2000, [], moves, 0, 0, phase, 0, 0, 0⟩

/-- Registers of a DSP: two D registers, two accumulators, three scalars, an address generator on X and one on Y. -/
def regs95 : DspRegs := ⟨[[1, -2, 3], [4, 5, -8388608]], [[7, 2 ^ 55 - 1], [-9]], [5, 6, 33], [⟨16, 0, 16, 0, 0, 0⟩, ⟨16, 2, -1, 16, 1, 1⟩], [], [9], true, 0, false, false⟩

/-- DSP 95 runs the job at bundle 0, whose slot holds an operation; bundles 1 and 9 hold one in slot 0, as does the rest of bundle 0
where `more` is set. -/
def dsp95 (slot op : Nat) (more : Bool := false) : Act := .all [
  .modDsps 95 fun y => { y with regs := regs95, job := some job95 },
  .setDspP (95 * 32768 + slot) (op * 2 ^ 24),
  .when more (.setDspP (95 * 32768) (2 ^ 24)),
  .setDspP (95 * 32768 + 4) (2 ^ 24),
  .setDspP (95 * 32768 + 36) (2 ^ 24)]

/-- The record of cell 3 (R142): 30 kHz, 5 MHz, FDD, one stream, one layer, port 5, four HARQ processes; host rings of eight slots under PASID 9. -/
def rec3 (mode nrx : Nat := 0) : List Nat :=
  [3 * 2 ^ 55 + 2 ^ 53 + 5 * 2 ^ 44 + 2 ^ 39 + 2 ^ 34 + mode * 2 ^ 32 + 2 ^ 31 + 5 * 2 ^ 24 + 200 * 2 ^ 15 + 4 * 2 ^ 10 + nrx * 4, 0, 0x100000, 0x200000,
    8 * 2 ^ 56 + 16 * 2 ^ 45 + 16 * 2 ^ 34 + 9 * 2 ^ 14, 2 ^ 57 + 2 ^ 49 + 2 ^ 40, 0, 0]

/-- Its registers: a window from 50 us to 100 us, RU address 77, eAxC from 64 on, no compression header, a fixed gain step, two PRACH
configurations, one with msgA. -/
def cfg3 : List Word := [0, BitVec.ofNat 64 (F.raCellCfg_EN.mask), BitVec.ofNat 64 (F.raCellCfg_EN.mask), 0,
  F.fhCellAddr_RU_MAC.put 0 77, F.fhCellId_UL_STATIC.put (F.fhCellId_DL_STATIC.put (F.fhCellId_EAXC_BASE.put 0 64) 1) 1,
  F.fhCellWin_TA4_MAX.put (F.fhCellWin_TA4_MIN.put 0 50) 100, F.fhCellGain_MODE.put (F.fhCellGain_INIT_STEP.put 0 2) 1]

/-- A slot of a running cell whose block is present. -/
def slot3 (esn : Nat) (todo : List (Nat × List Byte) := []) (run : Bool := true) : SlotSt :=
  ⟨esn, true, run, todo, todo, [], false, false, [], [], false, 0⟩

/-- Cell 3 is applied, with slots. -/
def cell3 (slots : List SlotSt) (mode nrx : Nat := 0) (running : Bool := true) : Act :=
  .modCells 3 fun x => { x with rcd := rec3 mode nrx, running := running, slots := slots, pool := 8, cfg := cfg3 }

/-- An image of neural receiver 255 (R155): one call, for up to eleven PRBs of 30 kHz on one stream, its code of 64 bytes at offset 0x80. -/
def nrx255 : List Byte := leBytes 0x3158524E 4 ++ leBytes 1 2 ++ leBytes 1 1 ++ leBytes 0 1 ++ leBytes 0x80 4 ++ leBytes 0x40 4 ++
  List.replicate 8 0 ++ leBytes 4 4 ++ List.replicate 36 0 ++ leBytes (2 ^ 30 + 2 ^ 24 + 2 ^ 19 + 11 * 2 ^ 9) 8 ++ List.replicate 120 0

/-- A checkpoint image of a slice that holds nothing (R367): step 9, epoch 4, seed 6, no context, no range; its SHAKE256 digest of 64 bytes. -/
def image5 : List Byte := leBytes 3 2 ++ List.replicate 6 0 ++ leBytes 9 8 ++ leBytes 4 4 ++ List.replicate 4 0 ++ leBytes 320 8 ++ leBytes 6 32 ++
  List.replicate 192 0 ++ leBytes 12324311579863005554354660371667779696553845621118939270745505356538659071631616739522554615619950979487020732629053292012136240194007842077194722979823042 64


theorem reset_inv : State.reset.Inv := by constructor <;> rfl

theorem st_inv (as : List Act) : (st as).Inv := Act.wf reset_inv _


theorem raReps_long {f : Nat} (h : 13 ≤ f) : raReps f = 1 := by
  unfold raReps
  rw [List.getD_eq_getElem?_getD, List.getElem?_eq_none h]
  rfl

/-- The PRACH of some format has a first landed symbol; while it is not landed the occasion is not. -/
theorem raLanded_none {x : CellSt} {cfg esn sym : Nat} (hm : (recFhMode x.rcd == 2) = false)
    (hk : ((List.range (recUl x.rcd)).all fun k => (x.stream k).landed.contains (esn + sym / 14, symMark 3 (sym % 14))) = false)
    (hs : x.slots.any (·.esn == esn + sym / 14) = true) (hr : ((List.range 13).all fun f => decide (0 < raReps f)) = true) :
    x.raLanded cfg esn sym = false := by
  have hp : ∀ f, 0 < raReps f := fun f => by
    by_cases h : f < 13
    · exact of_decide_eq_true (List.all_eq_true.mp hr f (List.mem_range.mpr h))
    · rw [raReps_long (by omega)]
      decide
  cases h : x.raLanded cfg esn sym with
  | false => rfl
  | true =>
    unfold CellSt.raLanded CellSt.raSpotsOf raSpots at h
    simp only [hm, Bool.false_and, Bool.false_eq_true, if_false] at h
    have h0 := List.all_eq_true.mp h (esn + (sym + 0) / 14, (sym + 0) % 14) (List.mem_map.mpr ⟨0, List.mem_range.mpr (hp _), rfl⟩)
    simp only [Nat.add_zero, hk, hs, Bool.not_true, Bool.false_and, Bool.or_false, Bool.false_eq_true] at h0

/-- With every symbol landed that the longest preamble reaches, the occasion is landed. -/
theorem raLanded_all {x : CellSt} {cfg esn sym : Nat} (hm : (recFhMode x.rcd == 2) = false)
    (hk : ((List.range 12).all fun i => (List.range (recUl x.rcd)).all fun k =>
      (x.stream k).landed.contains (esn + (sym + i) / 14, symMark 3 ((sym + i) % 14))) = true) : x.raLanded cfg esn sym = true := by
  have hp : ∀ f, raReps f ≤ 12 := fun f => by
    by_cases h : f < 13
    · exact of_decide_eq_true (List.all_eq_true.mp (by decide : ((List.range 13).all fun f => decide (raReps f ≤ 12)) = true) f (List.mem_range.mpr h))
    · rw [raReps_long (by omega)]
      decide
  unfold CellSt.raLanded CellSt.raSpotsOf raSpots
  simp only [hm, Bool.false_and, Bool.false_eq_true, if_false]
  refine List.all_eq_true.mpr fun e he => ?_
  obtain ⟨i, hi, rfl⟩ := List.mem_map.mp he
  have h0 := List.all_eq_true.mp hk i (List.mem_range.mpr (Nat.lt_of_lt_of_le (List.mem_range.mp hi) (hp _)))
  simp only [h0, Bool.true_or]

/-- One command outside each range that the check knows, just above the top of it: refused. -/
theorem test_ill_formed_refused : (([.registerWrite 0x102 0 0 0 0, .ueLogClear 2 0, .tileEntry 64 0,
  .tileEntry 0 5, .stepBoundary 256, .bankLoad 0 4,
  .syncSignal 0x102 0, .vld 0 0 ⟨4, 0, 0, 0, 0, 0, 0⟩, .vld 0 0 ⟨0, 32, 0, 0, 0, 0, 0⟩,
  .vld 0 0 ⟨0, 0, 32, 0, 0, 0, 0⟩, .vld 0 0 ⟨0, 0, 0, 32, 0, 0, 0⟩, .vld 0 0 ⟨0, 0, 0, 0, 32, 0, 0⟩,
  .cellSet 258, .reqFetch 512 0 true, .reqFetch 0 4294967296 true,
  .receptionWindowClose 0 0 0 14, .oneWayDelayMeasurement 48 [], .dspJobDispatch 12 true 0 0 [],
  .dspProgramStart 96, .dspCmac 0 ⟨0, 0, 0⟩ 64 0 0, .dspCmac 0 ⟨0, 0, 0⟩ 0 64 0,
  .dspCmac 0 ⟨0, 0, 0⟩ 0 0 64, .dspNrw 0 ⟨0, 0, 0⟩ 64 0 0, .dspVsel 0 ⟨0, 0, 0⟩ 0 0 0 64,
  .dspLdx 0 ⟨0, 0, 0⟩ 0 16, .dspStx 0 ⟨0, 0, 0⟩ 64 0, .dspLdsx 0 ⟨0, 0, 0⟩ 64 0,
  .dspStsx 0 ⟨0, 0, 0⟩ 64 0, .ldpcDecodeJob 4 true 0 0 true, .codeBlockDone 40 true 0,
  .raOccasionSearch 0 2 0 0 0 0 true, .raOccasionSearch 0 0 0 0 8 0 true, .raOccasionSearch 0 0 0 0 0 2 true,
  .attentionSet 259, .dumpSnapshot 33 true true, .recordSubmit 65536 0 0 [],
  .snapshotRecord 16, .engineEntryTake 32, .flagStorePerform 65536 0,
  .houndResend 8, .clockFailure 90, .laneLossOfSignal 88,
  .channelRetraining 128 0 true, .memoryRead (.core 64 0) 0 0 [], .memoryRead (.core 0 5) 0 0 [],
  .memoryRead (.dsp 96) 0 0 [], .memoryRead (.coding 40) 0 0 [], .memoryRead (.fronthaul [511, 512]) 0 0 [],
  .memoryRead (.hostDma 0x102) 0 0 [], .memoryRead (.uhlile 0x102) 0 0 []] : List Instr).all fun c => !c.wellFormed) = true := by decide +kernel

/-- The same commands at the top of each range. -/
theorem test_top_of_range_well_formed : (([.registerWrite 0x3FF 0 0 0 0, .ueLogClear 1 0, .tileEntry 63 0,
  .tileEntry 0 4, .stepBoundary 255, .bankLoad 0 3,
  .syncSignal 0x3FF 0, .vld 0 0 ⟨3, 0, 0, 0, 0, 0, 0⟩, .vld 0 0 ⟨0, 31, 0, 0, 0, 0, 0⟩,
  .vld 0 0 ⟨0, 0, 31, 0, 0, 0, 0⟩, .vld 0 0 ⟨0, 0, 0, 31, 0, 0, 0⟩, .vld 0 0 ⟨0, 0, 0, 0, 31, 0, 0⟩,
  .cellSet 257, .reqFetch 511 0 true, .reqFetch 0 4294967295 true,
  .receptionWindowClose 0 0 0 13, .oneWayDelayMeasurement 47 [], .dspJobDispatch 11 true 0 0 [],
  .dspProgramStart 95, .dspCmac 0 ⟨0, 0, 0⟩ 63 0 0, .dspCmac 0 ⟨0, 0, 0⟩ 0 63 0,
  .dspCmac 0 ⟨0, 0, 0⟩ 0 0 63, .dspNrw 0 ⟨0, 0, 0⟩ 63 0 0, .dspVsel 0 ⟨0, 0, 0⟩ 0 0 0 63,
  .dspLdx 0 ⟨0, 0, 0⟩ 0 15, .dspStx 0 ⟨0, 0, 0⟩ 63 0, .dspLdsx 0 ⟨0, 0, 0⟩ 63 0,
  .dspStsx 0 ⟨0, 0, 0⟩ 63 0, .ldpcDecodeJob 3 true 0 0 true, .codeBlockDone 39 true 0,
  .raOccasionSearch 0 1 0 0 0 0 true, .raOccasionSearch 0 0 0 0 7 0 true, .raOccasionSearch 0 0 0 0 0 1 true,
  .attentionSet 258, .dumpSnapshot 32 true true, .recordSubmit 65535 0 0 [],
  .snapshotRecord 15, .engineEntryTake 31, .flagStorePerform 65535 0,
  .houndResend 7, .clockFailure 89, .laneLossOfSignal 87,
  .channelRetraining 127 0 true, .memoryRead (.core 63 0) 0 0 [], .memoryRead (.core 0 4) 0 0 [],
  .memoryRead (.dsp 95) 0 0 [], .memoryRead (.coding 39) 0 0 [], .memoryRead (.fronthaul [510, 511]) 0 0 [],
  .memoryRead (.hostDma 0x101) 0 0 [], .memoryRead (.uhlile 0x3FF) 0 0 []] : List Instr).all fun c => c.wellFormed) = true := by decide +kernel

/-- The table gives no command bits. -/
theorem test_no_word_spells_a_command : decodeTableWord 16 0x1234 = none := rfl

/-- The state that a meaning answers. -/
def next (o : Host.Outcome State Fault Refusal) : State := match o with
  | .next t => t
  | _ => State.reset

/-- The example of R296: word 0 of HOST.ATTN reads 0x20, and the acknowledge clears it. -/
theorem test_attention_ack : (next (exec (.attentionAck 0 0x20 0) (st [.setRegs (R.hostAttn 0) 0x20]))).rd (R.hostAttn 0) = 0 := by
  decide +kernel

/-- A zero written to a lock bit that is set leaves it set (R6). -/
theorem test_lock_stays : (next (exec (.lockWrite 256 0) (st [.setRegs R.gwLock 2]))).rd R.gwLock = 2 := by decide +kernel

/-- A slice that touches a device register counts a violation (R9, R30). -/
theorem test_violation : (next (exec (.rcRead 255 0x309000000 8 none) State.reset)).fld (R.sliceViol 255) F.sliceViol_COUNT = 1 := by
  decide +kernel

/-- A set in the clock of the acknowledge wins (R5). -/
theorem test_set_wins : (next (exec (.attentionAck 0 0x60 0x20) (st [.setRegs (R.hostAttn 0) 0x60]))).rd (R.hostAttn 0) = 0x20 := by
  decide +kernel

/-- The first example of R126: channel 52, row 9, slot 19; its check symbols are at row bytes 1,996-1,999. -/
theorem test_locate_dpa : (let s := st [.modLpAct1 fun _ => List.range 64]
    (s.lpChannel 1 0x018000123456, s.lpRow 1 0x018000123456, s.lpSlot 1 0x018000123456, 1920 + 4 * s.lpSlot 1 0x018000123456)) = (52, 9, 19, 1996) := by
  decide +kernel

/-- The second: channel 20 of CD1 is retired. -/
theorem test_locate_dpa_retired : (let s := st [.modLpAct1 fun _ => (List.range 64).filter (· != 20)]
    (s.lpChannel 1 0x018000123456, s.lpRow 1 0x018000123456, s.lpSlot 1 0x018000123456)) = (62, 9, 23) := by
  decide +kernel


/-- The hypotheses of StepKeepsInv are met together. -/
theorem witness_step_keeps_inv :
    ∃ s t : State, s.Inv ∧ step s = .next t :=
  ⟨State.reset, _, reset_inv, rfl⟩

/-- The hypotheses of TouchesOnly are met together. -/
theorem witness_touches_only :
    ∃ (s : State) (_ : Instr), s.Inv :=
  ⟨State.reset, .ppsOut, reset_inv⟩

/-- The hypotheses of StepRunsFront are met together. -/
theorem witness_step_runs_front :
    ∃ (s : State) (c : Instr) (r : List Instr), s.pending = c :: r :=
  ⟨{ State.reset with pending := [.ppsOut] }, .ppsOut, [], rfl⟩


/-- The hypotheses of StepIdle are met together. -/
theorem witness_step_idle :
    ∃ s : State, s.Inv ∧ s.pending = [] ∧ s.sys.bring = none :=
  ⟨State.reset, reset_inv, rfl, rfl⟩


/-- The hypotheses of FailedStays are met together. -/
theorem witness_failed_stays :
    ∃ (s : State) (c : Instr) (t : State), s.Inv ∧ s.failed = true ∧ exec c s = .next t :=
  ⟨st [.setFailed true], .ppsOut, _, st_inv _, rfl, rfl⟩

/-- The hypotheses of FailedMailbox are met together. -/
theorem witness_failed_mailbox :
    ∃ (s : State) (c : Instr) (op : Nat), s.Inv ∧ c.mailbox = some (256, op) ∧ s.failed = true ∧ s.mbServed 256 = true ∧ (s.mbCmd 256).opcode = op ∧ s.recWait = false ∧ op ∉ [0x0001, 0x0800, 0x0806, 0x0900, 0x0901] :=
  ⟨st [.setFailed true, put 256 0x0501 [0, 0]], .timeSet 256, 0x0501, st_inv _, rfl, rfl, by decide +kernel, by decide +kernel, by decide +kernel, by decide⟩

/-- The hypotheses of JoregOpcodes are met together. -/
theorem witness_joreg_opcodes :
    ∃ (c : Instr) (mb op : Nat), c.mailbox = some (mb, op) :=
  ⟨.devInfo 256, 256, 0x0001, rfl⟩

/-- The hypotheses of NotReadyHolds are met together. -/
theorem witness_not_ready_holds :
    ∃ (s : State) (c : Instr) (mb op : Nat), c.mailbox = some (mb, op) ∧ s.notReady = true ∧ s.failed = false ∧ s.recWait = false :=
  ⟨State.reset, .devInfo 256, 256, 0x0001, rfl, by decide +kernel, rfl, by decide +kernel⟩

/-- The hypotheses of AccessCodes are met together. -/
theorem witness_access_codes :
    (∃ (s : State) (a : Nat) (v tied : Word) (d : RegBlock) (f : Field), s.Inv ∧ plainReg a = true ∧ regDesc a = some d ∧ f ∈ d.flds ∧ fldInRange (s.ranges a (untied a v tied)) f (untied a v tied) = true) ∧
    ∃ (s : State) (a : Nat) (d : RegBlock) (f : Field), s.Inv ∧ 0x300000000 ≤ a ∧ a < 0x400000000 ∧ a % 8 = 0 ∧
    ¬(lastWin ≤ a ∧ a < lastWin + 0x80000) ∧ pmcPlace a = none ∧ regDesc a = some d ∧ f ∈ d.flds :=
  ⟨⟨State.reset, R.fabTmr, 0x0064000400010001, 3, _, F.fabTmr_TMO, reset_inv, by decide +kernel, rfl, by decide +kernel, by decide +kernel⟩, State.reset, R.sliceViol 257, _, F.sliceViol_COUNT, reset_inv, by decide, by decide, by decide, by decide, by decide +kernel, rfl, by decide +kernel⟩

/-- The hypotheses of LockBits are met together. -/
theorem witness_lock_bits :
    (∃ (s : State) (_ : Word) (f : Field), s.Inv ∧ f ∈ [F.gwLock_FAB, F.gwLock_TIME]) ∧ (∃ (s : State) (who : Nat) (_ : Word), s.Inv ∧ who < 258 ∧ who ≠ 256) ∧
    (∃ (s : State) (_ : StartReport), s.Inv ∧ s.sys.inOk = true ∧ s.flag R.pwrStat F.pwrStat_LO_QUAL = true ∧ s.sys.fault = none ∧
    s.fld R.hostBoot F.hostBoot_STEP = 0 ∧ s.sys.warm = none) ∧
    (∃ (s : State) (cause : Nat) (_ : StartReport), s.Inv ∧ s.sys.warm = some cause ∧ s.sys.bring = none ∧ s.sys.fault = none) ∧
    ∃ (s : State) (a : Nat) (_ : Word) (d : RegBlock) (f : Field), s.Inv ∧ 0x300000000 ≤ a ∧ a < 0x400000000 ∧ a % 8 = 0 ∧ regDesc a = some d ∧
    s.locked d = true ∧ f ∈ d.flds ∧ f.acc = .rwl ∧ a ≠ R.gwLock :=
  ⟨⟨State.reset, 3, F.gwLock_TIME, reset_inv, by decide⟩, ⟨State.reset, 257, 3, reset_inv, by decide, by decide⟩,
    ⟨st [.modSys fun y => { y with inOk := true }, .setF R.pwrStat F.pwrStat_LO_QUAL 1], goodStart, st_inv _, by decide +kernel, by decide +kernel, by decide +kernel, by decide +kernel, by decide +kernel⟩,
    ⟨st [.modSys fun y => { y with warm := some 1 }], 1, goodStart, st_inv _, rfl, rfl, rfl⟩,
    st [.setF R.gwLock F.gwLock_TIME 1], R.timeCfg, 0, _, F.timeCfg_SRC, st_inv _, by decide, by decide, by decide, rfl, by decide +kernel, by decide +kernel, by decide, by decide⟩

/-- The hypotheses of WholeWordAccess are met together. -/
theorem witness_whole_word_access :
    ∃ (s : State) (who a size : Nat) (_ : Word), s.Inv ∧ who < 258 ∧ 0x300000000 ≤ a ∧ a < 0x400000000 ∧ (size ≠ 8 ∨ a % 8 ≠ 0) :=
  ⟨State.reset, 257, 0x3FFFFFFFF, 8, 0, reset_inv, by decide, by decide, by decide, .inr (by decide)⟩

/-- The hypotheses of ViolationCounted are met together. -/
theorem witness_violation_counted :
    ∃ (s : State) (part kind : Nat), s.Inv ∧ part < 258 ∧ kind < 4 :=
  ⟨State.reset, 257, 3, reset_inv, by decide, by decide⟩

/-- The hypotheses of CounterWraps are met together. -/
theorem witness_counter_wraps :
    ∃ (s : State) (b i n : Nat), s.Inv ∧ ((∃ c, c < 64 ∧ b = R.corePmcCtl c 0) ∨ (∃ g, g < 8 ∧ b = R.gpmcCtl g 0)) ∧ i < 8 ∧ n < 2 ^ 48 ∧ i % 2 = 1 ∧ s.fld (b + 16 * (i - 1)) F.gpmcCtl_CHAIN = 1 :=
  ⟨st [.setF (R.gpmcCtl 7 6) F.gpmcCtl_CHAIN 1], R.gpmcCtl 7 0, 7, 5, st_inv _, .inr ⟨7, by decide, rfl⟩, by decide, by decide, by decide, by decide +kernel⟩

/-- The hypotheses of UeLogClear are met together. -/
theorem witness_ue_log_clear :
    (∃ (s : State) (die : Nat) (val : Word), s.Inv ∧ die < 2 ∧ F.memUeCtl_CLEAR.get val = 1) ∧
    (∃ (s : State) (die : Nat) (val : Word), s.Inv ∧ F.memUeCtl_CLEAR.get val = 0) :=
  ⟨⟨(st [.setF (R.memUeCtl 1) F.memUeCtl_COUNT 5, .setF (R.memUeLog0 1 7) F.memUeLog0_V 1]), 1, F.memUeCtl_CLEAR.put 0 1, (st_inv _), by decide +kernel⟩,
   ⟨(st [.setF (R.memUeCtl 1) F.memUeCtl_COUNT 5]), 1, 5, (st_inv _), by decide +kernel⟩⟩

/-- The hypotheses of FallbackBarrier are met together. -/
theorem witness_fallback_barrier :
    (∃ (s : State) (mb : Nat), s.Inv ∧ s.takes mb 0x0305 = true ∧ bits ((s.mbCmd mb).a 0) 30 18 ≠ 0 ∧
      bits ((s.mbCmd mb).a 0) 30 18 ≤ 4096 ∧ 10000 ≤ bits ((s.mbCmd mb).a 1) 31 0 ∧ bits ((s.mbCmd mb).a 1) 31 0 ≤ 1000000 ∧
      (s.mbCmd mb).a 2 ≠ 0 ∧ 2000 ≤ dif64 ((s.mbCmd mb).a 2) s.readingNs ∧ dif64 ((s.mbCmd mb).a 2) s.readingNs ≤ 60000000000 ∧
      cplBad ((s.mbCmd mb).a 3) = false ∧ (s.barsAt mb).armed = false ∧ (s.timeState = stLocked ∨ s.timeState = stHoldover) ∧
      (s.partsAt mb).launches.length < 64 ∧ s.noErrors = true ∧ s.dpaKind (s.syncDpa mb (bits ((s.mbCmd mb).a 0) 11 0)) = .kennel) ∧
    (∃ (s : State) (mb : Nat), s.Inv ∧ s.takes mb 0x0305 = true ∧ bits ((s.mbCmd mb).a 0) 30 18 ≠ 0 ∧
      bits ((s.mbCmd mb).a 0) 30 18 ≤ 4096 ∧ 10000 ≤ bits ((s.mbCmd mb).a 1) 31 0 ∧ bits ((s.mbCmd mb).a 1) 31 0 ≤ 1000000 ∧
      (s.mbCmd mb).a 2 ≠ 0 ∧ (dif64 ((s.mbCmd mb).a 2) s.readingNs < 2000 ∨ 60000000000 < dif64 ((s.mbCmd mb).a 2) s.readingNs)) :=
  ⟨⟨(st [live 5, .setF R.timeStat F.timeStat_STATE stLocked, ready, put 5 0x0305 [2 ^ 32 + 2 * 2 ^ 18, 10000, 60000000000, 0, 0]]), 5, (st_inv _), by decide +kernel⟩,
   ⟨(st [live 5, .setF R.timeStat F.timeStat_STATE stLocked, ready, put 5 0x0305 [2 ^ 32 + 2 * 2 ^ 18, 10000, 60000000001, 0, 0]]), 5, (st_inv _), by decide +kernel, by decide +kernel, by decide +kernel, by decide +kernel, by decide +kernel, by decide +kernel, .inr (by decide +kernel)⟩⟩


/-- The hypotheses of LinkAndAttention are met together. -/
theorem witness_link_and_attention :
    (∃ (s : State) (port : Nat), s.Inv ∧ port < 48) ∧
    (∃ (s : State) (rate : Nat) (width : Nat) (flit : Bool), s.Inv ∧ s.linkOn = false ∧ s.sys.perst = false ∧ 5 ≤ rate ∧ rate ≤ 7 ∧
      1 ≤ width ∧ width ≤ 5) ∧
    (∃ (s : State), s.Inv) ∧
    (∃ (s : State) (b : Nat), s.Inv ∧ b < 256) ∧
    (∃ (s : State) (b : Nat), s.Inv ∧ 256 ≤ b ∧ b < 259) :=
  ⟨⟨State.reset, 47, reset_inv, by decide +kernel⟩,
   ⟨State.reset, 6, 5, true, reset_inv, by decide +kernel⟩,
   ⟨State.reset, reset_inv⟩,
   ⟨State.reset, 255, reset_inv, by decide +kernel⟩,
   ⟨State.reset, 258, reset_inv, by decide +kernel⟩⟩

/-- The hypotheses of LinkAndAttention are met together. -/
theorem witness_link_and_attention_2 :
    (∃ (s : State) (ok : Bool), s.Inv ∧ s.attn.busy = true ∧ s.attn.wrote = true ∧ s.attn.again = false) ∧
    (∃ (s : State) (word : Nat) (val : Word) (tied : Word), s.Inv ∧ word < 4 ∧ s.rd (R.hostAttn word) &&& (val &&& ~~~tied) ≠ 0) ∧
    (∃ (s : State) (val : Word) (tied : Word), s.Inv ∧ s.fld R.hostAttn4 F.hostAttn4_BITS &&& ((val &&& ~~~tied).toNat % 8) ≠ 0) ∧
    (∃ (s : State) (val : Word), s.Inv) ∧
    (∃ (s : State), s.Inv ∧ s.attn.hold = true) :=
  ⟨⟨(st [.modAttn fun a => { a with busy := true, wrote := true }]), true, (st_inv _), by decide +kernel⟩,
   ⟨(st [.setRegs (R.hostAttn 3) 5]), 3, 7, 2, (st_inv _), by decide +kernel⟩,
   ⟨(st [.setF R.hostAttn4 F.hostAttn4_BITS 5]), 5, 1, (st_inv _), by decide +kernel⟩,
   ⟨State.reset, 0xFFFFFFFFFFFFFFFF, reset_inv⟩,
   ⟨(st [.modAttn fun a => { a with hold := true }]), (st_inv _), by decide +kernel⟩⟩

/-- The hypotheses of LinkLossAndPorts are met together. -/
theorem witness_link_loss_and_ports :
    (∃ (s : State), s.Inv ∧ s.linkOn = true ∧ s.sys.perst = false) ∧
    (∃ (s : State) (port : Nat), s.Inv ∧ port < 48 ∧ s.fld (R.fhPortCfg port) F.fhPortCfg_WIDTH ≠ 0 ∧ port ∉ s.sys.ports) ∧
    (∃ (s : State) (ch : Nat) (retries : Nat), s.Inv ∧ ch < 128) ∧
    (∃ (s : State) (lane : Nat), s.Inv ∧ lane < 48) ∧
    (∃ (s : State) (lane : Nat) (p : Nat), s.Inv ∧ lane < 48 ∧ s.portOf lane = some p ∧ s.fld (R.fhPortCfg p) F.fhPortCfg_USE ≠ 2) :=
  ⟨⟨(st [.setLinkOn true]), (st_inv _), by decide +kernel⟩,
   ⟨(st [.setF (R.fhPortCfg 47) F.fhPortCfg_WIDTH 1]), 47, (st_inv _), by decide +kernel⟩,
   ⟨State.reset, 127, 3, reset_inv, by decide +kernel⟩,
   ⟨State.reset, 47, reset_inv, by decide +kernel⟩,
   ⟨(st [.setF (R.fhPortCfg 5) F.fhPortCfg_WIDTH 1]), 5, 5, (st_inv _), by decide +kernel⟩⟩

/-- The hypotheses of LinkLossAndPorts are met together. -/
theorem witness_link_loss_and_ports_2 :
    (∃ (s : State) (lane : Nat) (p : Nat), s.Inv ∧ lane < 48 ∧ s.portOf lane = some p ∧ s.fld (R.fhPortCfg lane) F.fhPortCfg_USE = 2 ∧
      lane ∈ s.sys.ports) ∧
    (∃ (s : State) (part : Nat) (cells : List Nat), s.Inv ∧ 256 ≤ part ∧ part ≠ 0x101) ∧
    (∃ (s : State) (part : Nat) (cells : List Nat), s.Inv ∧ 256 ≤ part ∧ part ≠ 0x101) ∧
    (∃ (s : State) (off : Nat) (data : List Byte), s.Inv ∧ data.length = 1 ∧ off < 0x10000000 ∧
      s.dpaKind (s.fld R.hostBar2 F.hostBar2_SEL * 0x1000000 + off) = DpaKind.kennel ∧
      (s.fld R.hostBar2 F.hostBar2_SEL * 0x1000000 + off) / 0x1000000 ∉ s.radio.units) :=
  ⟨⟨(st [.setF (R.fhPortCfg 5) F.fhPortCfg_WIDTH 1, .setF (R.fhPortCfg 5) F.fhPortCfg_USE 2, .modSys fun y => { y with ports := [5] }]), 5, 5, (st_inv _), by decide +kernel⟩,
   ⟨State.reset, 0x100, [], reset_inv, by decide +kernel⟩,
   ⟨State.reset, 0x100, [], reset_inv, by decide +kernel⟩,
   ⟨(st [.setF R.hostBar2 F.hostBar2_SEL 3]), 0xFFFFFFF, [0xAB], (st_inv _), by decide +kernel⟩⟩

/-- The hypotheses of Electrical are met together. -/
theorem witness_electrical :
    (∃ (s : State) (mv : Nat), s.Inv ∧ 40000 ≤ mv ∧ s.sys.inOk = false ∧ s.sys.fault = none) ∧
    (∃ (s : State) (mv : Nat), s.Inv ∧ 48000 ≤ mv ∧ mv ≤ 50000 ∧ s.sys.inOk = true) ∧
    (∃ (s : State), s.Inv ∧ s.sys.inOk = true) ∧
    (∃ (s : State), s.Inv ∧ s.sys.fault.isSome = true ∧ s.sys.inOk = true) ∧
    (∃ (s : State), s.Inv) ∧
    (∃ (s : State), s.Inv ∧ s.fld R.hostBoot F.hostBoot_STEP = 0) ∧
    (∃ (s : State), s.Inv ∧ s.fld R.hostBoot F.hostBoot_STEP ≠ 0 ∧ s.notReady = false) ∧
    (∃ (s : State) (tj : Int) (island : Island), s.Inv ∧ s.fld R.lastBtick F.lastBtick_TICK ≠ s.tick ∧
      tj > s16 (s.fld R.pwrTemp F.pwrTemp_TJ_PEAK) ∧ island < 256) :=
  ⟨⟨State.reset, 40000, reset_inv, by decide +kernel⟩,
   ⟨(st [.modSys fun y => { y with inOk := true }]), 50000, (st_inv _), by decide +kernel⟩,
   ⟨(st [.modSys fun y => { y with inOk := true }]), (st_inv _), by decide +kernel⟩,
   ⟨(st [.modSys fun y => { y with inOk := true, fault := some 2 }]), (st_inv _), by decide +kernel⟩,
   ⟨State.reset, reset_inv⟩,
   ⟨State.reset, reset_inv, by decide +kernel⟩,
   ⟨(st [.setF R.hostBoot F.hostBoot_STEP 11, .setF R.hostAttn4 F.hostAttn4_NOT_READY 0]), (st_inv _), by decide +kernel⟩,
   ⟨(st [.setF R.lastBtick F.lastBtick_TICK 5]), 90*8, 89, (st_inv _), by decide +kernel⟩⟩

/-- The hypotheses of Electrical are met together. -/
theorem witness_electrical_2 :
    (∃ (s : State) (mv : Nat) (ma : Nat) (pin : Nat), s.Inv ∧ mv ≤ 60000 ∧ ma ≤ 100000 ∧ pin > 1400 ∧ pin < 65536 ∧
      s.flag R.pwrStat F.pwrStat_PEAK = false) ∧
    (∃ (s : State) (mv : Nat), s.Inv ∧ mv < 40000 ∧ s.sys.inOk = true ∧ s.sys.fault = none) ∧
    (∃ (s : State) (mv : Nat), s.Inv ∧ 50000 < mv ∧ s.sys.inOk = true ∧ s.sys.fault = none) ∧
    (∃ (s : State), s.Inv ∧ s.sys.inOk = true ∧ s.sys.fault = none) ∧
    (∃ (s : State), s.Inv ∧ s.sys.fault = none) ∧
    (∃ (s : State) (r : Nat), s.Inv) ∧
    (∃ (s : State) (c : Nat), s.Inv ∧ c < 64) :=
  ⟨⟨State.reset, 47999, 100000, 1401, reset_inv, by decide +kernel⟩,
   ⟨(st [.modSys fun y => { y with inOk := true }]), 39999, (st_inv _), by decide +kernel⟩,
   ⟨(st [.modSys fun y => { y with inOk := true }]), 50001, (st_inv _), by decide +kernel⟩,
   ⟨(st [.modSys fun y => { y with inOk := true }]), (st_inv _), by decide +kernel⟩,
   ⟨State.reset, reset_inv, by decide +kernel⟩,
   ⟨State.reset, 3, reset_inv⟩,
   ⟨State.reset, 63, reset_inv, by decide +kernel⟩⟩

/-- The hypotheses of StartAndResets are met together. -/
theorem witness_start_and_resets :
    (∃ (s : State) (r : StartReport), s.Inv ∧ s.sys.inOk = true ∧ s.flag R.pwrStat F.pwrStat_LO_QUAL = true ∧ s.sys.fault = none ∧
      s.fld R.hostBoot F.hostBoot_STEP = 0 ∧ s.sys.warm = none ∧ r.flash.readOk = true ∧ imgBad r.flash.bytes = none) ∧
    (∃ (s : State) (cause : Nat) (r : StartReport), s.Inv ∧ s.sys.warm = some cause ∧ s.sys.bring = none ∧ s.sys.fault = none ∧
      r.flash.readOk = true ∧ imgBad r.flash.bytes = none ∧ s.sys.recImg = none) ∧
    (∃ (s : State), s.Inv ∧ s.sys.bring.isSome = true ∧ s.sys.proto < 2) ∧
    (∃ (s : State), s.Inv ∧ s.sys.bring.isSome = true ∧ 2 ≤ s.sys.proto) ∧
    (∃ (s : State), s.Inv ∧ s.sys.bring.isSome = true ∧ s.sys.recImg = none) ∧
    (∃ (s : State), s.Inv ∧ s.sys.fault = none ∧ s.sys.perst = false ∧ s.notReady = false) ∧
    (∃ (s : State), s.Inv ∧ s.sys.fault = none ∧ s.sys.perst = false ∧ s.notReady = true) ∧
    (∃ (s : State), s.Inv ∧ s.sys.fault = none) :=
  ⟨⟨(st [.modSys fun y => { y with inOk := true }, .setF R.pwrStat F.pwrStat_LO_QUAL 1]), goodStart, (st_inv _), by decide +kernel⟩,
   ⟨(st [.modSys fun y => { y with warm := some 1 }]), 1, goodStart, (st_inv _), by decide +kernel⟩,
   ⟨(st [.modSys fun y => { y with bring := some goodStart }]), (st_inv _), by decide +kernel⟩,
   ⟨(st [.modSys fun y => { y with bring := some goodStart }, .modSys fun y => { y with proto := 2 }]), (st_inv _), by decide +kernel⟩,
   ⟨(st [.modSys fun y => { y with bring := some goodStart }]), (st_inv _), by decide +kernel⟩,
   ⟨(st [.setF R.hostAttn4 F.hostAttn4_NOT_READY 0]), (st_inv _), by decide +kernel⟩,
   ⟨State.reset, reset_inv, by decide +kernel⟩,
   ⟨State.reset, reset_inv, by decide +kernel⟩⟩

/-- The hypotheses of StartAndResets are met together. -/
theorem witness_start_and_resets_2 :
    (∃ (s : State), s.Inv ∧ s.sys.fault = none ∧ s.linkOn = true ∧ s.notReady = false) ∧
    (∃ (s : State), s.Inv ∧ s.sys.fault = none ∧ s.linkOn = true ∧ s.notReady = true) ∧
    (∃ (s : State), s.Inv ∧ (s.sys.bring.isSome = true ∨ s.notReady = false) ∧ s.sys.uhMis = none) ∧
    (∃ (s : State) (t0 : Nat), s.Inv ∧ s.sys.bring = none ∧ s.notReady = false ∧ s.sys.uhMis = some t0 ∧ s.tick < t0 + 250000000) ∧
    (∃ (s : State), s.Inv ∧ s.sys.uhDown = true) ∧
    (∃ (s : State), s.Inv ∧ s.notReady = true ∧ s.failed = false ∧ s.recWait = false ∧ s.linkOn = true ∧ s.sys.bring = none ∧
      s.fld R.hostBoot F.hostBoot_STEP = 10) ∧
    (∃ (s : State), s.Inv ∧ s.notReady = true ∧ s.failed = false ∧ s.recWait = false ∧ s.linkOn = true ∧ s.sys.bring = none ∧
      s.fld R.hostBoot F.hostBoot_STEP = 10 ∧ s.sys.owed = true) ∧
    (∃ (s : State) (mb : Nat), s.Inv ∧ s.takes mb 0x0002 = true ∧ s.recWait = true ∧ (s.mbCmd mb).a 1 % 4096 = 0 ∧
      (s.mbCmd mb).a 1 ≤ 0x1000000 ∧ imgBad (s.hostRead noPasid ((s.mbCmd mb).a 0) ((s.mbCmd mb).a 1)) = none) :=
  ⟨⟨(st [.setF R.hostAttn4 F.hostAttn4_NOT_READY 0, .setLinkOn true]), (st_inv _), by decide +kernel⟩,
   ⟨(st [.setLinkOn true]), (st_inv _), by decide +kernel⟩,
   ⟨(st [.setF R.hostAttn4 F.hostAttn4_NOT_READY 0]), (st_inv _), by decide +kernel⟩,
   ⟨(st [.setF R.hostAttn4 F.hostAttn4_NOT_READY 0, .modSys fun y => { y with uhMis := some 0 }]), 0, (st_inv _), by decide +kernel⟩,
   ⟨(st [.modSys fun y => { y with uhDown := true }]), (st_inv _), by decide +kernel⟩,
   ⟨(st [.setLinkOn true, .setF R.hostBoot F.hostBoot_STEP 10]), (st_inv _), by decide +kernel⟩,
   ⟨(st [.setLinkOn true, .setF R.hostBoot F.hostBoot_STEP 10, .modSys fun y => { y with owed := true }]), (st_inv _), by decide +kernel⟩,
   ⟨(st [.setF R.hostBoot F.hostBoot_REC_WAIT 1, .each (goodImage.take 64).zipIdx fun (b, i) => .setHost (hostKey noPasid i) b, put 256 0x0002 [0, 16384]]), 256, (st_inv _), by decide +kernel⟩⟩

/-- The hypotheses of SliceLife are met together. -/
theorem witness_slice_life :
    (∃ (s : State) (mb : Nat), s.Inv ∧ s.takes mb 0x0001 = true) ∧
    (∃ (s : State) (mb : Nat), s.Inv ∧ s.takes mb 0x0100 = true ∧ s.createOk (s.mbCmd mb) = true) ∧
    (∃ (s : State) (mb : Nat), s.Inv ∧ s.takes mb 0x0101 = true ∧ (s.mbCmd mb).a 0 ≤ 255 ∧ s.sliceLive ((s.mbCmd mb).a 0) = true) ∧
    (∃ (s : State) (mb : Nat), s.Inv ∧ s.takes mb 0x0102 = true ∧ (s.mbCmd mb).a 0 ≤ 255 ∧ s.sliceLive ((s.mbCmd mb).a 0) = true) ∧
    (∃ (s : State) (mb : Nat), s.Inv ∧ s.takes mb 0x0103 = true ∧ bits ((s.mbCmd mb).a 0) 9 0 ≤ 0x101 ∧
      s.partLive (bits ((s.mbCmd mb).a 0) 9 0) = true ∧ (∀ e, e ∈ s.parts → ∀ x, x ∈ e.2.pasids → x.2 ≠ bits ((s.mbCmd mb).a 0) 51 32)) :=
  ⟨⟨(st [live 255, ready, put 255 0x0001 []]), 255, (st_inv _), by decide +kernel⟩,
   ⟨(st [ready, put 256 0x0100 ([7, 15, 0, 0, 0, 1, 0] ++ List.replicate 137 0)]), 256, (st_inv _), by decide +kernel⟩,
   ⟨(st [live 255, .modParts 255 fun x => { x with arrays := 15, quota := 3 }, ready, put 256 0x0101 [255]]), 256, (st_inv _), by decide +kernel⟩,
   ⟨(st [live 3 2, .modParts 3 fun x => { x with launches := [⟨5, 1, 0, true, 1, 0, [], 0, 0, 0, false, []⟩] }, ready, put 256 0x0102 [3]]), 256, (st_inv _), by decide +kernel⟩,
   ⟨(st [ready, put 256 0x0103 [5 * 2 ^ 32 + 0x500]]), 256, (st_inv _), by decide +kernel⟩⟩

/-- The hypotheses of SliceLife are met together. -/
theorem witness_slice_life_2 :
    (∃ (s : State) (mb : Nat), s.Inv ∧ s.takes mb 0x0104 = true ∧ bits ((s.mbCmd mb).a 0) 9 0 < 0x101 ∧
      s.partLive (bits ((s.mbCmd mb).a 0) 9 0) = true ∧ (∀ l, l ∈ (s.partsAt (bits ((s.mbCmd mb).a 0) 9 0)).launches →
      l.pasidIdx ≠ bits ((s.mbCmd mb).a 0) 11 10)) ∧
    (∃ (s : State) (mb : Nat), s.Inv ∧ s.takes mb 0x0105 = true ∧ bits ((s.mbCmd mb).a 0) 8 0 ≤ 255 ∧ mb = 256 ∧
      s.sliceState (bits ((s.mbCmd mb).a 0) 8 0) ≠ 0) ∧
    (∃ (s : State) (mb : Nat), s.Inv ∧ s.takes mb 0x0105 = true ∧ mb < 256) ∧
    (∃ (s : State) (mb : Nat), s.Inv ∧ s.takes mb 0x0107 = true ∧
      s.arrWork (bits ((s.mbCmd mb).a 0) 7 0) (bits ((s.mbCmd mb).a 0) 23 16) = false ∧ s.sliceLive (bits ((s.mbCmd mb).a 0) 7 0) = true ∧
      s.sliceLive (bits ((s.mbCmd mb).a 0) 15 8) = true ∧ bits ((s.mbCmd mb).a 0) 7 0 ≠ bits ((s.mbCmd mb).a 0) 15 8 ∧
      bit (s.partsAt (bits ((s.mbCmd mb).a 0) 7 0)).arrays (bits ((s.mbCmd mb).a 0) 23 16) = true ∧
      s.ctxActive (bits ((s.mbCmd mb).a 0) 23 16 / 4) (s.ctxOn (bits ((s.mbCmd mb).a 0) 7 0) (bits ((s.mbCmd mb).a 0) 23 16 / 4)) = false
      ∧ clrBit (s.partsAt (bits ((s.mbCmd mb).a 0) 7 0)).arrays (bits ((s.mbCmd mb).a 0) 23 16) ≠ 0 ∧
      s.isPaired (bits ((s.mbCmd mb).a 0) 7 0) = false ∧ s.isPaired (bits ((s.mbCmd mb).a 0) 15 8) = false) :=
  ⟨⟨(st [.modParts 256 fun x => { x with pasids := [(0, 5)] }, ready, put 256 0x0104 [0x100]]), 256, (st_inv _), by decide +kernel⟩,
   ⟨(st [live 9, ready, put 256 0x0105 [9]]), 256, (st_inv _), by decide +kernel⟩,
   ⟨(st [live 255, ready, put 255 0x0105 [9]]), 255, (st_inv _), by decide +kernel⟩,
   ⟨(st [live 1, live 2, .modParts 1 fun x => { x with arrays := 2 ^ 255 + 1 }, ready, put 256 0x0107 [255 * 65536 + 2 * 256 + 1]]), 256, (st_inv _), by decide +kernel⟩⟩

/-- The hypotheses of Launches are met together. -/
theorem witness_launches :
    (∃ (s : State) (mb : Nat), s.Inv ∧ s.takes mb 0x0200 = true ∧ (s.mbCmd mb).a 1 % 64 = 0 ∧ cplBad ((s.mbCmd mb).a 2) = false ∧
      s.mayStart mb = true ∧ s.startable mb (bits ((s.mbCmd mb).a 0) 5 0) = true ∧ (s.partsAt mb).launches.length < 64) ∧
    (∃ (s : State) (mb : Nat), s.Inv ∧ s.takes mb 0x0201 = true ∧
      s.ctxPart (bits ((s.mbCmd mb).a 0) 5 0) (s.ctxOn mb (bits ((s.mbCmd mb).a 0) 5 0)) = mb ∧
      s.ctxActive (bits ((s.mbCmd mb).a 0) 5 0) (s.ctxOn mb (bits ((s.mbCmd mb).a 0) 5 0)) = true ∧ bit ((s.mbCmd mb).a 0) 8 = false) ∧
    (∃ (s : State) (mb : Nat), s.Inv ∧ s.takes mb 0x0201 = true ∧
      s.ctxPart (bits ((s.mbCmd mb).a 0) 5 0) (s.ctxOn mb (bits ((s.mbCmd mb).a 0) 5 0)) = mb ∧
      s.ctxActive (bits ((s.mbCmd mb).a 0) 5 0) (s.ctxOn mb (bits ((s.mbCmd mb).a 0) 5 0)) = true ∧ bit ((s.mbCmd mb).a 0) 8 = true) ∧
    (∃ (s : State) (mb : Nat), s.Inv ∧ s.takes mb 0x0202 = true ∧ bits ((s.mbCmd mb).a 1) 12 0 ≠ 0 ∧
      bits ((s.mbCmd mb).a 1) 12 0 ≤ 4096 ∧ cplBad ((s.mbCmd mb).a 3) = false ∧ (s.partsAt mb).launches.length < 64) ∧
    (∃ (s : State) (mb : Nat) (c : Nat) (pc : Nat), s.Inv ∧ s.takes mb 0x0203 = true ∧ bit ((s.mbCmd mb).a 0) 0 = true ∧
      bits ((s.mbCmd mb).a 1) 6 0 = 1 ∧ cplBad ((s.mbCmd mb).a 3) = false ∧ (∀ l, l ∈ (s.partsAt mb).launches → l.kind ≠ 3) ∧
      (s.mbCmd mb).a 2 = 0 ∧
      leNat (s.hostRead ((s.pasidOf mb (s.mbCmd mb).pasidIdx).getD noPasid) ((s.mbCmd mb).a 0 / 2 * 2) 8) = c * 2 ^ 58 + pc ∧ c < 64 ∧
      pc < 2 ^ 48 ∧ pc % 64 = 0 ∧ s.mayStart mb = true ∧ s.startable mb c = true ∧ (s.partsAt mb).launches.length < 64) ∧
    (∃ (s : State) (mb : Nat) (l : Launch), s.Inv ∧ s.takes mb 0x0204 = true ∧
      ((s.partsAt mb).launches.find? (fun x : Launch => x.kind == 3 && x.handle == (s.mbCmd mb).a 0) = some l)) :=
  ⟨⟨(st [live 5, .modParts 5 fun x => { x with arrays := 15 * 2 ^ 252 }, .setF (R.coreCtxOwner 63 2) F.coreCtxOwner_KIND 1, .setF (R.coreCtxOwner 63 2) F.coreCtxOwner_SLICE 5, ready, put 5 0x0200 [63, 64, 0, 0]]), 5, (st_inv _), by decide +kernel⟩,
   ⟨(st [live 5 2, .modParts 5 fun x => { x with arrays := 15, segs := [(0, 0, 0)] }, .setF (R.coreCtxOwner 0 2) F.coreCtxOwner_KIND 1, .setF (R.coreCtxOwner 0 2) F.coreCtxOwner_SLICE 5, .setF (R.coreSeqStat 0) F.coreSeqStat_CTX_ACTIVE 4, ready, put 5 0x0201 [0]]), 5, (st_inv _), by decide +kernel⟩,
   ⟨(st [live 5 2, .modParts 5 fun x => { x with arrays := 15, segs := [(0, 0, 0)] }, .setF (R.coreCtxOwner 0 2) F.coreCtxOwner_KIND 1, .setF (R.coreCtxOwner 0 2) F.coreCtxOwner_SLICE 5, .setF (R.coreSeqStat 0) F.coreSeqStat_CTX_ACTIVE 4, ready, put 5 0x0201 [256]]), 5, (st_inv _), by decide +kernel⟩,
   ⟨(st [live 5, ready, put 5 0x0202 [0, 4096, 0, 0]]), 5, (st_inv _), by decide +kernel⟩,
   ⟨(st [live 5, .modParts 5 fun x => { x with arrays := 15 * 2 ^ 252, pasids := [(0, 9)] }, .setF (R.coreCtxOwner 63 2) F.coreCtxOwner_KIND 1, .setF (R.coreCtxOwner 63 2) F.coreCtxOwner_SLICE 5, .setHost (hostKey 9 4096) 64, .setHost (hostKey 9 4103) 0xFC, ready, put 5 0x0203 [4097, 1, 0, 0, 0]]), 5, 63, 64, (st_inv _), by decide +kernel⟩,
   ⟨(st [live 5 2, .modParts 5 fun x => { x with arrays := 15, segs := [(0, 0, 0)] }, .setF (R.coreCtxOwner 0 2) F.coreCtxOwner_KIND 1, .setF (R.coreCtxOwner 0 2) F.coreCtxOwner_SLICE 5, .setF (R.coreSeqStat 0) F.coreSeqStat_CTX_ACTIVE 4, .modParts 5 fun x => { x with launches := [⟨5, 3, 0, false, 1, 0, [0], 0, 0, 0, false, []⟩] }, .modCtxs 2 fun x => { x with handle := 5 }, ready, put 5 0x0204 [5]]), 5, ⟨5, 3, 0, false, 1, 0, [0], 0, 0, 0, false, []⟩, (st_inv _), by decide +kernel⟩⟩

/-- The hypotheses of Launches are met together. -/
theorem witness_launches_2 :
    (∃ (s : State) (mb : Nat), s.Inv ∧ s.takes mb 0x0205 = true ∧ (∃ x, x ∈ (s.partsAt mb).lists ∧ x.handle = (s.mbCmd mb).a 0) ∧ (∃ l,
      l ∈ (s.partsAt mb).launches ∧ l.handle = (s.mbCmd mb).a 0)) ∧
    (∃ (s : State) (mb : Nat), s.Inv ∧ s.takes mb 0x0300 = true ∧ cplBad ((s.mbCmd mb).a 0) = false ∧ s.streamsRun mb = true ∧
      (s.partsAt mb).launches.length < 64) ∧
    (∃ (s : State) (mb : Nat), s.Inv ∧ s.takes mb 0x0300 = true ∧ bits ((s.mbCmd mb).a 0) 4 0 = 1 ∧ s.streamsRun mb = false ∧
      (s.partsAt mb).launches = []) ∧
    (∃ (s : State) (mb : Nat), s.Inv ∧ s.takes mb 0x0301 = true ∧ s.sliceState mb = 3 ∧ s.streamsRun mb = false ∧ (∀ e, e ∈ s.ctxsOf mb →
      s.ctxActive e.1 e.2 = false) ∧ (s.partsAt mb).launches = []) ∧
    (∃ (s : State) (mb : Nat), s.Inv ∧ s.takes mb 0x0301 = true ∧ s.sliceState mb = 3 ∧ (s.partsAt mb).launches ≠ [] ∧ (∀ e,
      e ∈ s.ctxsOf mb → (s.ctxsAt (e.1 * 8 + e.2)).atMark = false)) :=
  ⟨⟨(st [live 5 2, .modParts 5 fun x => { x with launches := [⟨5, 2, 0, false, 1, 0, [], 0, 0, 0, false, [0xFFFF]⟩], lists := [⟨5, 0, 3, false, 0, 0, 0, 0⟩] }, ready, put 5 0x0205 [5]]), 5, (st_inv _), by decide +kernel⟩,
   ⟨(st [live 5 2, .modParts 5 fun x => { x with arrays := 15, segs := [(0, 0, 0)] }, .setF (R.coreCtxOwner 0 2) F.coreCtxOwner_KIND 1, .setF (R.coreCtxOwner 0 2) F.coreCtxOwner_SLICE 5, .setF (R.coreSeqStat 0) F.coreSeqStat_CTX_ACTIVE 4, ready, put 5 0x0300 [0, 0]]), 5, (st_inv _), by decide +kernel⟩,
   ⟨(st [live 5, .modParts 5 fun x => { x with pasids := [(0, 5)] }, ready, put 5 0x0300 [1, 0]]), 5, (st_inv _), by decide +kernel⟩,
   ⟨(st [live 5 3, ready, put 5 0x0301 []]), 5, (st_inv _), by decide +kernel⟩,
   ⟨(st [live 5 3, .modParts 5 fun x => { x with launches := [⟨5, 2, 0, false, 1, 0, [], 0, 0, 0, false, [0xFFFF]⟩] }, ready, put 5 0x0301 []]), 5, (st_inv _), by decide +kernel⟩⟩

/-- The hypotheses of CheckpointsAndEpochs are met together. -/
theorem witness_checkpoints_and_epochs :
    (∃ (s : State) (mb : Nat), s.Inv ∧ s.takes mb 0x0302 = true ∧ cplBad ((s.mbCmd mb).a 1) = false ∧ s.streamsRun mb = true ∧
      (s.partsAt mb).launches.length < 64) ∧
    (∃ (s : State) (mb : Nat) (im : ImageSt), s.Inv ∧ s.takes mb 0x0303 = true ∧ bits ((s.mbCmd mb).a 2) 4 0 = 1 ∧
      (s.sliceState mb = 1 ∨ s.sliceState mb = 3) ∧ (s.partsAt mb).launches.length < 64 ∧
      (s.accepted mb).parseImage mb (s.hostRead ((s.pasidOf mb (s.mbCmd mb).pasidIdx).getD noPasid) ((s.mbCmd mb).a 0) ((s.mbCmd mb).a 1))
      = some im ∧ im.ranges = []) ∧
    (∃ (s : State) (mb : Nat), s.Inv ∧ s.takes mb 0x0304 = true ∧
      bits ((s.mbCmd mb).a 0) 31 0 = (s.fld (R.sliceEpoch mb) F.sliceEpoch_APPLIED + 1) % 2 ^ 32 ∧
      (s.rd (R.repSliceStep mb)).toNat < (s.mbCmd mb).a 1 ∧ bits ((s.mbCmd mb).a 2) 9 8 ≠ 3 ∧ cplBad ((s.mbCmd mb).a 3) = false ∧ (∀ l,
      l ∈ (s.partsAt mb).launches → l.kind ≠ 7) ∧ bit ((s.mbCmd mb).a 2) 1 = false ∧ s.streamsRun mb = true ∧
      (s.partsAt mb).launches.length < 64) ∧
    (∃ (s : State) (p : Nat), s.Inv ∧ p < 256 ∧ s.sliceState p = 2 ∧ (∃ e, e ∈ s.ctxsOf p ∧ s.ctxActive e.1 e.2 = true) ∧ (∀ e,
      e ∈ s.ctxsOf p → s.ctxActive e.1 e.2 = true → (s.ctxsAt (e.1 * 8 + e.2)).atMark = true ∧
      (s.ctxsAt (e.1 * 8 + e.2)).stepEnd = true) ∧ (s.partsAt p).epochHold = false ∧ (∀ r, r ∈ s.pairs → r.slice ≠ p)) ∧
    (∃ (s : State) (p : Nat) (missing : Nat), s.Inv ∧ p < 256 ∧ s.sliceLive p = true ∧ (s.partsAt p).epochHold = true ∧ 0 < missing ∧
      (∃ l, l ∈ (s.partsAt p).launches ∧ l.kind = 7)) ∧
    (∃ (s : State) (p : Nat), s.Inv ∧ p < 256 ∧ s.sliceState p = 4) ∧
    (∃ (s : State) (core : Nat), s.Inv ∧ core < 64 ∧ s.fld (R.repCore core) F.repCore_TRANS = 1 ∧ (∀ e, e ∈ s.parts →
      e.2.epochHold = false)) :=
  ⟨⟨(st [live 5 2, .modParts 5 fun x => { x with arrays := 15, segs := [(0, 0, 0)] }, .setF (R.coreCtxOwner 0 2) F.coreCtxOwner_KIND 1, .setF (R.coreCtxOwner 0 2) F.coreCtxOwner_SLICE 5, .setF (R.coreSeqStat 0) F.coreSeqStat_CTX_ACTIVE 4, ready, put 5 0x0302 [0, 0, 0] 64, .modParts 5 fun x => { x with pasids := [(0, 5)] }]), 5, (st_inv _), by decide +kernel⟩,
   ⟨(st [live 5, .modParts 5 fun x => { x with pasids := [(0, 9)] }, .each image5.zipIdx fun (b, i) => .setHost (9 * 2 ^ 64 + 0x8000 + i) b, ready, put 5 0x0303 [32768, 320, 1, 0]]), 5, ⟨9, 4, 6, [], []⟩, (st_inv _), by decide +kernel⟩,
   ⟨(st [live 5 2, .modParts 5 fun x => { x with arrays := 15, segs := [(0, 0, 0)] }, .setF (R.coreCtxOwner 0 2) F.coreCtxOwner_KIND 1, .setF (R.coreCtxOwner 0 2) F.coreCtxOwner_SLICE 5, .setF (R.coreSeqStat 0) F.coreSeqStat_CTX_ACTIVE 4, ready, put 5 0x0304 [1, 1, 516, 0]]), 5, (st_inv _), by decide +kernel⟩,
   ⟨(st [live 5 2, .modParts 5 fun x => { x with arrays := 15, segs := [(0, 0, 0)] }, .setF (R.coreCtxOwner 0 2) F.coreCtxOwner_KIND 1, .setF (R.coreCtxOwner 0 2) F.coreCtxOwner_SLICE 5, .setF (R.coreSeqStat 0) F.coreSeqStat_CTX_ACTIVE 4, .modCtxs 2 fun x => { x with atMark := true, stepEnd := true }]), 5, (st_inv _), by decide +kernel⟩,
   ⟨(st [live 255 2, .modParts 255 fun x => { x with epochHold := true, launches := [⟨5, 7, 0, false, 1, 0, [], 0, 0, 0, false, [1, 0, 4, 2]⟩] }]), 255, 1, (st_inv _), by decide +kernel⟩,
   ⟨(st [live 255 4, .modParts 255 fun x => { x with resetMgr := true }]), 255, (st_inv _), by decide +kernel⟩,
   ⟨(st [.setF (R.repCore 63) F.repCore_TRANS 1]), 63, (st_inv _), by decide +kernel⟩⟩

/-- The hypotheses of RadioCommands are met together. -/
theorem witness_radio_commands :
    (∃ (s : State) (mb : Nat) (r : List Nat), s.Inv ∧ s.takes mb 0x0400 = true ∧ bits ((s.mbCmd mb).a 0) 8 0 = 1 ∧ recDuplex r = 1 ∧
      (r = (List.range 8).map (fun k => (s.mbCmd mb).a (1 + k))) ∧ (s.accepted mb).recValid r = true) ∧
    (∃ (s : State) (mb : Nat) (r : List Nat) (ls : List (Nat × Nat)) (q : List Nat), s.Inv ∧ s.takes mb 0x0400 = true ∧
      bits ((s.mbCmd mb).a 0) 8 0 = 1 ∧ recDuplex r = 0 ∧ recTddPat r % 8 = 0 ∧
      (r = (List.range 8).map (fun k => (s.mbCmd mb).a (1 + k))) ∧ s.noErrors = true ∧ s.locate 0x100 rightR (recTddPat r) 328 = some ls ∧
      (∀ e, e ∈ ls → s.dpaKind e.1 = .kennel) ∧ (q = r ++ (toWords (ls.flatMap fun e => s.readBytes e.1 e.2)).map (·.toNat)) ∧
      (s.accepted mb).recValid q = true) ∧
    (∃ (s : State) (mb : Nat), s.Inv ∧ s.takes mb 0x0401 = true) ∧
    (∃ (s : State) (mb : Nat) (reason : Nat) (cell : Nat), s.Inv ∧ s.takes mb 0x0401 = true ∧ (s.accepted mb).applyCheck = some (reason,
      cell) ∧ reason < 256) ∧
    (∃ (s : State) (mb : Nat), s.Inv ∧ s.takes mb 0x0402 = true ∧ s.radio.pend = none) ∧
    (∃ (s : State) (mb : Nat) (ls : List (Nat × Nat)) (us : List Nat), s.Inv ∧ s.takes mb 0x0403 = true ∧
      bits ((s.mbCmd mb).a 0) 7 0 ≠ 0 ∧ (s.mbCmd mb).a 2 ≠ 0 ∧ (s.mbCmd mb).a 2 % 64 = 0 ∧ (s.mbCmd mb).a 2 ≤ 2 ^ 32 ∧ (∀ n,
      n ∈ s.radio.nrxs → n.n ≠ bits ((s.mbCmd mb).a 0) 7 0) ∧ s.noErrors = true ∧
      s.locate 0x100 rightR ((s.mbCmd mb).a 1) ((s.mbCmd mb).a 2) = some ls ∧ (∀ e, e ∈ ls → s.dpaKind e.1 = .kennel) ∧
      (nrxHeaderBad (ls.flatMap fun e => s.readBytes e.1 e.2) ((s.mbCmd mb).a 2) = none) ∧
      takeUnits 0 (cdiv ((s.mbCmd mb).a 2) (2 ^ 24)) s.kenFree [] = some us ∧
      s.fld R.lastPwr F.lastPwr_RESERVE_W + s.fld R.lastPwr F.lastPwr_IDLE_W ≤ s.fld R.lastPwr F.lastPwr_CAP_W) :=
  ⟨⟨(st [ready, .modParts 0x101 fun y => { y with pasids := [(0, 9)] }, put 256 0x0400 (1 :: rec3)]), 256, rec3, (st_inv _), by decide +kernel⟩,
   ⟨(st [ready, .modParts 0x101 fun y => { y with pasids := [(0, 9)] }, .setBytes 0x1000 (leBytes (2 ^ 56) 8 ++ leBytes 0x0A00 2), put 256 0x0400 (1 :: (rec3.set 0 (3 * 2 ^ 55 + 2 ^ 53 + 5 * 2 ^ 44 + 2 ^ 39 + 2 ^ 34 + 2 ^ 30 + 5 * 2 ^ 24 + 200 * 2 ^ 15 + 4 * 2 ^ 10)|>.set 1 0x1000))]), 256, (rec3.set 0 (3 * 2 ^ 55 + 2 ^ 53 + 5 * 2 ^ 44 + 2 ^ 39 + 2 ^ 34 + 2 ^ 30 + 5 * 2 ^ 24 + 200 * 2 ^ 15 + 4 * 2 ^ 10)|>.set 1 0x1000), [(0x1000, 64), (0x1040, 64), (0x1080, 64), (0x10C0, 64), (0x1100, 64), (0x1140, 8)], ((rec3.set 0 (3 * 2 ^ 55 + 2 ^ 53 + 5 * 2 ^ 44 + 2 ^ 39 + 2 ^ 34 + 2 ^ 30 + 5 * 2 ^ 24 + 200 * 2 ^ 15 + 4 * 2 ^ 10)|>.set 1 0x1000) ++ [2 ^ 56, 0x0A00] ++ List.replicate 39 0), (st_inv _), by decide +kernel⟩,
   ⟨(st [ready, put 256 0x0401 []]), 256, (st_inv _), by decide +kernel⟩,
   ⟨(st [ready, put 256 0x0401 [], .setF R.lastStat F.lastStat_SWAP_PEND 1]), 256, 0x0A, 0xFFFF, (st_inv _), by decide +kernel⟩,
   ⟨(st [ready, put 256 0x0402 []]), 256, (st_inv _), by decide +kernel⟩,
   ⟨(st [.setBytes 0x1000 nrx255, ready, put 256 0x0403 [255, 4096, 192]]), 256, [(0x1000, 64), (0x1040, 64), (0x1080, 64)], [31], (st_inv _), by decide +kernel⟩⟩

/-- The hypotheses of RadioCommands are met together. -/
theorem witness_radio_commands_2 :
    (∃ (s : State) (mb : Nat), s.Inv ∧ s.takes mb 0x0404 = true ∧ bits ((s.mbCmd mb).a 0) 7 0 ≠ 0 ∧ s.radio.pend = none ∧ (∀ r,
      r ∈ s.appliedRecs ++ s.radio.staged → recNrx r ≠ bits ((s.mbCmd mb).a 0) 7 0)) ∧
    (∃ (s : State) (mb : Nat) (ls : List (Nat × Nat)), s.Inv ∧ s.takes mb 0x0405 = true ∧ (∀ e, e ∈ (s.mbCmd mb).dsps →
      (s.dspsAt e).job = none) ∧ bits ((s.mbCmd mb).a 3) 28 16 + bits ((s.mbCmd mb).a 3) 12 0 ≤ 8192 ∧ s.noErrors = true ∧
      s.locate 0x100 rightR ((s.mbCmd mb).a 2) (16 * bits ((s.mbCmd mb).a 3) 12 0) = some ls ∧ (∀ e, e ∈ ls → s.dpaKind e.1 = .kennel)) ∧
    (∃ (s : State) (mb : Nat), s.Inv ∧ s.takes mb 0x0406 = true ∧ (s.mbCmd mb).portBad = none ∧ (∀ i, i < 48 →
      s.rd (R.fhPortCfg i) ≠ portWord ((s.mbCmd mb).port i) → i ∉ s.appliedRecs.map recPort) ∧ (∀ i, i < 48 →
      s.fld (R.fhPortCfg i) F.fhPortCfg_USE ≠ 2) ∧
      (((List.range 48).map fun i => if ((s.mbCmd mb).port i).1 == 1 then usedLanes ((s.mbCmd mb).port i) else 0).sum ≤ 32)) ∧
    (∃ (s : State) (mb : Nat), s.Inv ∧ s.takes mb 0x0500 = true ∧ 600 ≤ bits ((s.mbCmd mb).a 0) 15 0 ∧
      bits ((s.mbCmd mb).a 0) 15 0 ≤ 1200 ∧
      s.fld R.lastPwr F.lastPwr_RESERVE_W + s.fld R.lastPwr F.lastPwr_IDLE_W ≤ bits ((s.mbCmd mb).a 0) 15 0) ∧
    (∃ (s : State) (mb : Nat), s.Inv ∧ s.takes mb 0x0501 = true ∧ s.fld R.timeCfg F.timeCfg_SRC = 1) :=
  ⟨⟨(st [ready, put 256 0x0404 [255]]), 256, (st_inv _), by decide +kernel⟩,
   ⟨(st [.setMem 130 7, ready, put 256 0x0405 [2 ^ 63, 2 ^ 31, 128, 8191 * 65536 + 1]]), 256, [(128, 16)], (st_inv _), by decide +kernel⟩,
   ⟨(st [ready, put 256 0x0406 [0x48, 0, 0, 0, 0, 0x48 * 2 ^ 56]]), 256, (st_inv _), by decide +kernel⟩,
   ⟨(st [ready, put 256 0x0500 [600]]), 256, (st_inv _), by decide +kernel⟩,
   ⟨(st [.setF R.timeCfg F.timeCfg_SRC 1, ready, put 256 0x0501 [600]]), 256, (st_inv _), by decide +kernel⟩⟩

/-- The hypotheses of HealthAndCounterCommands are met together. -/
theorem witness_health_and_counter_commands :
    (∃ (s : State) (mb : Nat), s.Inv ∧ s.takes mb 0x0502 = true ∧ bits ((s.mbCmd mb).a 0) 7 0 ≤ 4 ∧
      bits ((s.mbCmd mb).a 0) 23 8 < [256, 128, 96, 64, 64].getD (bits ((s.mbCmd mb).a 0) 7 0) 0) ∧
    (∃ (s : State) (mb : Nat), s.Inv ∧ s.takes mb 0x0502 = true ∧ bits ((s.mbCmd mb).a 0) 7 0 = 0 ∧ bits ((s.mbCmd mb).a 0) 23 8 < 256) ∧
    (∃ (s : State) (mb : Nat), s.Inv ∧ s.takes mb 0x0503 = true) ∧
    (∃ (s : State) (mb : Nat), s.Inv ∧ s.takes mb 0x0600 = true ∧ s.setNamed mb (bits ((s.mbCmd mb).a 0) 7 0) = true ∧
      bits ((s.mbCmd mb).a 0) 11 8 ≤ 7 ∧
      eventExists (F.gpmcCtl_EVCLASS.get (BitVec.ofNat 64 ((s.mbCmd mb).a 1))) (F.gpmcCtl_EVENT.get (BitVec.ofNat 64 ((s.mbCmd mb).a 1)))
      = true ∧ (bits ((s.mbCmd mb).a 0) 7 0 < 8 ∨ F.gpmcCtl_EVCLASS.get (BitVec.ofNat 64 ((s.mbCmd mb).a 1)) ≤ 6) ∧
      s.setHolder (bits ((s.mbCmd mb).a 0) 7 0) = none) ∧
    (∃ (s : State) (mb : Nat), s.Inv ∧ s.takes mb 0x0600 = true ∧ s.setNamed mb (bits ((s.mbCmd mb).a 0) 7 0) = true ∧
      bits ((s.mbCmd mb).a 0) 11 8 ≤ 7 ∧
      eventExists (F.gpmcCtl_EVCLASS.get (BitVec.ofNat 64 ((s.mbCmd mb).a 1))) (F.gpmcCtl_EVENT.get (BitVec.ofNat 64 ((s.mbCmd mb).a 1)))
      = true ∧ (bits ((s.mbCmd mb).a 0) 7 0 < 8 ∨ F.gpmcCtl_EVCLASS.get (BitVec.ofNat 64 ((s.mbCmd mb).a 1)) ≤ 6) ∧ mb < 256 ∧
      s.setHolder (bits ((s.mbCmd mb).a 0) 7 0) = some mb) ∧
    (∃ (s : State) (mb : Nat), s.Inv ∧ s.takes mb 0x0601 = true ∧ s.setNamed mb (bits ((s.mbCmd mb).a 0) 7 0) = true) ∧
    (∃ (s : State) (mb : Nat), s.Inv ∧ s.takes mb 0x0602 = true ∧ s.setNamed mb (0x80 + bits ((s.mbCmd mb).a 0) 5 0) = true ∧
      F.corePmcSamp_PERIOD.get (BitVec.ofNat 64 ((s.mbCmd mb).a 1)) ≠ 0 ∧ s.setHolder (0x80 + bits ((s.mbCmd mb).a 0) 5 0) = none) :=
  ⟨⟨(st [ready, put 256 0x0502 [63 * 256 + 4]]), 256, (st_inv _), by decide +kernel⟩,
   ⟨(st [ready, put 256 0x0502 [255 * 256]]), 256, (st_inv _), by decide +kernel⟩,
   ⟨(st [.modFlash fun f => { f with retire := 7 }, .setF (R.coreArrStat 63 3) F.coreArrStat_RETIRE_PEND 1, ready, put 256 0x0503 []]), 256, (st_inv _), by decide +kernel⟩,
   ⟨(st [ready, put 256 0x0600 [0x7BF, 2 ^ 63 + 0x60002, 0, 0]]), 256, (st_inv _), by decide +kernel⟩,
   ⟨(st [live 5, .modParts 5 fun x => { x with ctr := 128 }, ready, put 5 0x0600 [0x707, 2 ^ 63 + 0x60002, 0, 0]]), 5, (st_inv _), by decide +kernel⟩,
   ⟨(st [.setRegs (R.gpmcVal 7 3) 9, ready, put 256 0x0601 [7]]), 256, (st_inv _), by decide +kernel⟩,
   ⟨(st [ready, put 256 0x0602 [63, 2 ^ 63 + 7 * 2 ^ 32]]), 256, (st_inv _), by decide +kernel⟩⟩

/-- The hypotheses of HealthAndCounterCommands are met together. -/
theorem witness_health_and_counter_commands_2 :
    (∃ (s : State) (mb : Nat), s.Inv ∧ s.takes mb 0x0603 = true ∧ s.setNamed mb (0x80 + bits ((s.mbCmd mb).a 0) 5 0) = true ∧
      (s.mbCmd mb).outAddr = 0) ∧
    (∃ (s : State) (mb : Nat) (ring : Nat), s.Inv ∧ s.takes mb 0x0604 = true ∧ bits ((s.mbCmd mb).a 1) 3 0 ≠ 0 ∧
      10 ≤ bits ((s.mbCmd mb).a 1) 51 32 ∧ bits ((s.mbCmd mb).a 1) 51 32 ≤ 1000000 ∧ cplBad ((s.mbCmd mb).a 3) = false ∧
      s.ringOf mb = none ∧ s.ringFree mb = some ring ∧ (s.partsAt mb).launches.length < 64) ∧
    (∃ (s : State) (mb : Nat) (ring : Nat), s.Inv ∧ s.takes mb 0x0605 = true ∧ s.ringOf mb = some ring) ∧
    (∃ (s : State) (mb : Nat), s.Inv ∧ s.takes mb 0x0700 = true ∧ bits ((s.mbCmd mb).a 0) 2 0 ≤ 4 ∧
      F.healthCfg_SUSPECT_THR.get (BitVec.ofNat 64 ((s.mbCmd mb).a 1)) ≠ 0 ∧
      F.healthCfg_SUSPECT_THR.get (BitVec.ofNat 64 ((s.mbCmd mb).a 1)) ≤ 65534 ∧
      F.healthCfg_SUSPECT_THR.get (BitVec.ofNat 64 ((s.mbCmd mb).a 1)) < F.healthCfg_FAIL_THR.get (BitVec.ofNat 64 ((s.mbCmd mb).a 1)) ∧
      F.healthCfg_DECAY_SH.get (BitVec.ofNat 64 ((s.mbCmd mb).a 1)) ≠ 0 ∧ F.healthCfg_DWELL.get (BitVec.ofNat 64 ((s.mbCmd mb).a 1)) ≠ 0) ∧
    (∃ (s : State) (mb : Nat), s.Inv ∧ s.takes mb 0x0701 = true ∧ bits ((s.mbCmd mb).a 0) 2 0 ≤ 4 ∧
      bits ((s.mbCmd mb).a 0) 31 16 < healthUnits (bits ((s.mbCmd mb).a 0) 2 0) ∧ bits ((s.mbCmd mb).a 0) 47 32 ≠ 0 ∧
      bits ((s.mbCmd mb).a 0) 47 32 ≤ 256 ∧
      bits ((s.mbCmd mb).a 0) 31 16 + bits ((s.mbCmd mb).a 0) 47 32 ≤ healthUnits (bits ((s.mbCmd mb).a 0) 2 0)) ∧
    (∃ (s : State) (mb : Nat), s.Inv ∧ s.takes mb 0x0702 = true ∧ 1 ≤ bits ((s.mbCmd mb).a 0) 2 0 ∧ bits ((s.mbCmd mb).a 0) 2 0 ≤ 4 ∧
      bits ((s.mbCmd mb).a 0) 31 16 < healthUnits (bits ((s.mbCmd mb).a 0) 2 0)) ∧
    (∃ (s : State) (mb : Nat), s.Inv ∧ s.takes mb 0x0703 = true ∧
      (bit ((s.mbCmd mb).a 0) 8 = false ∨ (s.pasidOf 0x100 (bits ((s.mbCmd mb).a 0) 17 16)).isSome = true) ∧
      s.sliceLive (bits ((s.mbCmd mb).a 0) 7 0) = true) :=
  ⟨⟨(st [.setF (R.corePmcSampStat 63) F.corePmcSampStat_COUNT 5, ready, put 256 0x0603 [63]]), 256, (st_inv _), by decide +kernel⟩,
   ⟨(st [live 5, ready, put 5 0x0604 [0, 10 * 2 ^ 32 + 1, 0, 0]]), 5, 1, (st_inv _), by decide +kernel⟩,
   ⟨(st [live 5, .modDumps 32 fun d => { d with active := true, part := 5 }, ready, put 5 0x0605 []]), 5, 32, (st_inv _), by decide +kernel⟩,
   ⟨(st [ready, put 256 0x0700 [4, 2 * 2 ^ 48 + 2 ^ 32 + 2 ^ 24 + 2 ^ 16 + 0xFFFF, 9]]), 256, (st_inv _), by decide +kernel⟩,
   ⟨(st [.setRegs (R.healthUnitArr 255) 7, ready, put 256 0x0701 [2 ^ 32 + 255 * 2 ^ 16 + 4]]), 256, (st_inv _), by decide +kernel⟩,
   ⟨(st [.setRegs (R.healthUnitArr 255) 7, ready, put 256 0x0702 [255 * 2 ^ 16 + 4]]), 256, (st_inv _), by decide +kernel⟩,
   ⟨(st [live 255, .modParts 256 fun x => { x with pasids := [(0, 5)] }, ready, put 256 0x0703 [255, 4096]]), 256, (st_inv _), by decide +kernel⟩⟩

/-- The hypotheses of RecorderAndAttestation are met together. -/
theorem witness_recorder_and_attestation :
    (∃ (s : State) (mb : Nat), s.Inv ∧ s.takes mb 0x0800 = true ∧ bits ((s.mbCmd mb).a 0) 25 0 % 8 = 0 ∧ (s.mbCmd mb).outAddr = 0 ∧
      (s.mbCmd mb).version = 3 ∧ bits ((s.mbCmd mb).a 1) 25 0 ≤ 32608) ∧
    (∃ (s : State) (mb : Nat), s.Inv ∧ s.takes mb 0x0801 = true ∧ s.recBusy = false) ∧
    (∃ (s : State) (mb : Nat), s.Inv ∧ s.takes mb 0x0802 = true ∧ s.flag R.recStat F.recStat_FROZEN = true) ∧
    (∃ (s : State) (mb : Nat), s.Inv ∧ s.takes mb 0x0803 = true ∧ s.recBusy = false) ∧
    (∃ (s : State) (mb : Nat), s.Inv ∧ s.takes mb 0x0804 = true ∧ (bits ((s.mbCmd mb).a 0) 15 0) / 4096 ≠ 0 ∧
      recUncond (bits ((s.mbCmd mb).a 0) 15 0) = false ∧ bits ((s.mbCmd mb).a 0) 39 32 ≠ 0 ∧ bit ((s.mbCmd mb).a 0) 16 = false) ∧
    (∃ (s : State) (mb : Nat), s.Inv ∧ s.takes mb 0x0804 = true ∧ (bits ((s.mbCmd mb).a 0) 15 0) / 4096 ≠ 0 ∧
      recUncond (bits ((s.mbCmd mb).a 0) 15 0) = false ∧ bits ((s.mbCmd mb).a 0) 39 32 ≠ 0 ∧ bit ((s.mbCmd mb).a 0) 16 = true) :=
  ⟨⟨(st [.setF R.recStat F.recStat_WR_PTR 128, .setLog 1 5, ready, put 256 0x0800 [8, 64]]), 256, (st_inv _), by decide +kernel⟩,
   ⟨(st [ready, put 256 0x0801 []]), 256, (st_inv _), by decide +kernel⟩,
   ⟨(st [.setF R.recStat F.recStat_FROZEN 1, .modRecd fun r => { r with staged := [⟨1, 5, 7, 0x2001, [3]⟩] }, .setF R.recStat F.recStat_STAGED 1, ready, put 256 0x0802 []]), 256, (st_inv _), by decide +kernel⟩,
   ⟨(st [ready, put 256 0x0803 []]), 256, (st_inv _), by decide +kernel⟩,
   ⟨(st [ready, put 256 0x0804 [5 * 2 ^ 32 + 2 ^ 24 + 0xF7FF]]), 256, (st_inv _), by decide +kernel⟩,
   ⟨(st [ready, put 256 0x0804 [5 * 2 ^ 32 + 2 ^ 24 + 0x12001]]), 256, (st_inv _), by decide +kernel⟩⟩

/-- The hypotheses of RecorderAndAttestation are met together. -/
theorem witness_recorder_and_attestation_2 :
    (∃ (s : State) (mb : Nat), s.Inv ∧ s.takes mb 0x0805 = true ∧ bits ((s.mbCmd mb).a 0) 35 32 ≠ 0 ∧
      bits ((s.mbCmd mb).a 0) 35 32 ≤ 12 ∧ (∀ i, i < bits ((s.mbCmd mb).a 0) 35 32 → (s.mbCmd mb).a (1 + i) % 4 = 0)) ∧
    (∃ (s : State) (mb : Nat), s.Inv ∧ s.takes mb 0x0806 = true) ∧
    (∃ (s : State) (mb : Nat), s.Inv ∧ s.takes mb 0x0900 = true ∧ 4397 ≤ (s.mbCmd mb).outLen ∧ (s.mbCmd mb).outAddr ≠ 0) ∧
    (∃ (s : State) (mb : Nat), s.Inv ∧ s.takes mb 0x0901 = true ∧ (s.mbCmd mb).outAddr ≠ 0) ∧
    (∃ (s : State) (mb : Nat), s.Inv ∧ s.takes mb 0x0902 = true) ∧
    (∃ (s : State) (mb : Nat), s.Inv ∧ s.takes mb 0x0305 = true ∧ bits ((s.mbCmd mb).a 0) 30 18 ≠ 0 ∧
      bits ((s.mbCmd mb).a 0) 30 18 ≤ 4096 ∧ 10000 ≤ bits ((s.mbCmd mb).a 1) 31 0 ∧ bits ((s.mbCmd mb).a 1) 31 0 ≤ 1000000 ∧
      (s.mbCmd mb).a 2 = 0 ∧ cplBad ((s.mbCmd mb).a 3) = false ∧ (s.barsAt mb).armed = false ∧
      (s.timeState = stLocked ∨ s.timeState = stHoldover) ∧ bit ((s.mbCmd mb).a 0) 31 = true ∧ 1 < bits ((s.mbCmd mb).a 0) 30 18 ∧ (∀ a,
      a ∈ s.arrives → a.barId ≠ bits ((s.mbCmd mb).a 0) 63 32) ∧ (s.partsAt mb).launches.length < 64) :=
  ⟨⟨(st [ready, put 256 0x0805 [12 * 2 ^ 32 + 0x8001 * 2 ^ 16 + 15, 4, 4, 4, 4, 4, 4, 4, 4, 4, 4, 4, 4]]), 256, (st_inv _), by decide +kernel⟩,
   ⟨(st [ready, put 256 0x0806 []]), 256, (st_inv _), by decide +kernel⟩,
   ⟨(st [ready, put 256 0x0900 [1, 2, 3, 4] 0x4000, .setRegs (mbHdr 256 3) (BitVec.ofNat 64 (8192 * 2 ^ 32)), .modParts 256 fun x => { x with pasids := [(0, 9)] }]), 256, (st_inv _), by decide +kernel⟩,
   ⟨(st [ready, put 256 0x0901 [] 0x4000, .setRegs (mbHdr 256 3) (BitVec.ofNat 64 (8192 * 2 ^ 32)), .modParts 256 fun x => { x with pasids := [(0, 9)] }]), 256, (st_inv _), by decide +kernel⟩,
   ⟨(st [ready, put 256 0x0902 [1, 3, 3, 3, 3, 3, 3, 3, 3]]), 256, (st_inv _), by decide +kernel⟩,
   ⟨(st [live 5, .setF R.timeStat F.timeStat_STATE stLocked, ready, put 5 0x0305 [2 ^ 32 + 2 ^ 31 + 2 * 2 ^ 18, 10000, 0, 0, 0]]), 5, (st_inv _), by decide +kernel⟩⟩

/-- The hypotheses of RegistersAndLocks are met together. -/
theorem witness_registers_and_locks :
    (∃ (s : State) (addr : Nat) (val : Word) (tied : Word) (d : RegBlock), s.Inv ∧ plainReg addr = true ∧ regDesc addr = some d) ∧
    (∃ (s : State) (p : Nat) (i : Nat) (val : Word) (tied : Word), s.Inv ∧ p < 256 ∧ s.sliceLive p = true ∧
      bit (s.rd (mbHdr p 0)).toNat 63 = false ∧ i < 252) ∧
    (∃ (s : State) (p : Nat) (i : Nat) (val : Word) (tied : Word), s.Inv ∧ p < 256 ∧ s.sliceLive p = true ∧
      bit (s.rd (mbHdr p 0)).toNat 63 = true ∧ i < 252) ∧
    (∃ (s : State) (who : Nat) (addr : Nat) (size : Nat) (val : Word) (tied : Word), s.Inv ∧ who < 256 ∧ 0x300000000 ≤ addr ∧
      addr < 0x400000000) ∧
    (∃ (s : State) (addr : Nat) (v : Word), s.Inv ∧ 0x300000000 ≤ addr ∧ addr < 0x400000000 ∧ addr % 8 = 0 ∧ s.peek addr = some v ∧
      pmcPlace addr = none) ∧
    (∃ (s : State) (p : Nat), s.Inv ∧ p < 258) :=
  ⟨⟨State.reset, R.codeCellCfg 511, 0x5A5A5A5A5A5A5A5A, 3, B.codeCellCfg, reset_inv, by decide +kernel⟩,
   ⟨(st [live 255]), 255, 251, 77, 1, (st_inv _), by decide +kernel⟩,
   ⟨(st [live 255, put 255 1 []]), 255, 251, 77, 1, (st_inv _), by decide +kernel⟩,
   ⟨State.reset, 255, 0x3FFFFFFFF, 8, 5, 1, reset_inv, by decide +kernel⟩,
   ⟨(st [.setF (R.sliceViol 255) F.sliceViol_COUNT 5]), R.sliceViol 255, 5, (st_inv _), by decide +kernel⟩,
   ⟨(st [.setF (R.sliceViol 257) F.sliceViol_COUNT 5]), 257, (st_inv _), by decide +kernel⟩⟩

/-- The hypotheses of RegistersAndLocks are met together. -/
theorem witness_registers_and_locks_2 :
    (∃ (s : State) (addr : Nat) (v : Word) (was : Word) (late : Word) (d : RegBlock) (f : Field), s.Inv ∧ 0x300000000 ≤ addr ∧
      addr < 0x400000000 ∧ addr % 8 = 0 ∧ s.peek addr = some v ∧ pmcPlace addr = none ∧ regDesc addr = some d ∧ f ∈ d.flds ∧ f.acc = .rc ∧
      rcTied d v was late = true ∧ f.rst = 0) ∧
    (∃ (s : State) (who : Nat) (addr : Nat) (size : Nat) (tie : Option (Word × Word)), s.Inv ∧ who < 256 ∧ 0x300000000 ≤ addr ∧
      addr < 0x400000000) ∧
    (∃ (s : State) (val : Word), s.Inv) ∧
    (∃ (s : State) (who : Nat) (val : Word), s.Inv ∧ who < 258 ∧ who ≠ 256) ∧
    (∃ (s : State) (part : Nat) (l : ListJob) (r : List ListJob), s.Inv ∧ (s.partsAt part).lists = l :: r ∧ s.notReady = false ∧
      s.sys.uhDown = false ∧ bit l.addr 0 = true ∧ l.next + 1 < l.nent ∧ l.stopOnErr = false ∧ (listCmd part (true, 0,
      0) (s.hostRead ((s.pasidOf part l.pasidIdx).getD noPasid) (l.addr / 2 * 2 + 256 * l.next) 256)).opcode = 0x0001) ∧
    (∃ (s : State) (trig : Nat), s.Inv ∧ trig < 16 ∧ (s.trigsAt trig).due ≠ 0) :=
  ⟨⟨(st [.setF (R.sliceViol 255) F.sliceViol_COUNT 5]), R.sliceViol 255, 5, 3, 2, B.sliceViol, F.sliceViol_COUNT, (st_inv _), by decide +kernel⟩,
   ⟨State.reset, 255, 0x300000000, 8, none, reset_inv, by decide +kernel⟩,
   ⟨State.reset, 3, reset_inv⟩,
   ⟨State.reset, 257, 3, reset_inv, by decide +kernel⟩,
   ⟨(st [ready, .modParts 5 fun x => { x with lists := [⟨5, 4097, 3, false, 8193, 0, 0, 0⟩] }, .setHost (hostKey noPasid 4100) 1, .setHost (hostKey noPasid 4110) 3]), 5, ⟨5, 4097, 3, false, 8193, 0, 0, 0⟩, [], (st_inv _), by decide +kernel⟩,
   ⟨(st [.modTrigs 15 fun g => { g with due := 2 }]), 15, (st_inv _), by decide +kernel⟩⟩

/-- The hypotheses of MemoryAccesses are met together. -/
theorem witness_memory_accesses :
    (∃ (s : State) (req : Requester) (addr : Nat) (len : Nat) (ls : List (Nat × Nat)), s.Inv ∧ s.noErrors = true ∧
      s.locate (s.reqPart req) rightR addr len = some ls ∧ (∀ e, e ∈ ls → s.lineFenced e.1 = false)) ∧
    (∃ (s : State) (req : Requester) (addr : Nat) (len : Nat), s.Inv ∧ s.reqPart req < 256 ∧
      s.locate (s.reqPart req) rightR addr len = none) ∧
    (∃ (s : State) (req : Requester) (addr : Nat) (data : List Byte) (a : Nat) (n : Nat), s.Inv ∧ s.noErrors = true ∧
      s.locate (s.reqPart req) rightW addr data.length = some [(a, n)] ∧ s.lineFenced a = false ∧
      (s.dpaKind a = .kennel ∨ s.dpaKind a = .lp 0 ∨ s.dpaKind a = .lp 1) ∧ n = data.length) ∧
    (∃ (s : State) (req : Requester) (addr : Nat) (data : List Byte) (ls : List (Nat × Nat)), s.Inv ∧ s.noErrors = true ∧
      s.locate (s.reqPart req) rightW addr data.length = some ls ∧ (∀ e, e ∈ ls → s.lineFenced e.1 = false)) ∧
    (∃ (s : State) (req : Requester) (addr : Nat) (data : List Byte), s.Inv ∧ s.reqPart req < 256 ∧
      s.locate (s.reqPart req) rightW addr data.length = none) ∧
    (∃ (s : State) (dpa : Nat) (w : Nat) (res : BitVec 72), s.Inv ∧ dpa < kennelEnd ∧ s.lineBad (dpa / 64 * 64) 64 = false ∧
      w ∈ wordsOf (dpa / 64 * 64) 64 ∧ wordVerdict (s.errsAt w) = .fixed res) ∧
    (∃ (s : State) (dpa : Nat), s.Inv ∧ dpa < kennelEnd ∧ s.lineBad (dpa / 64 * 64) 64 = true) ∧
    (∃ (s : State) (req : Requester) (addr : Nat) (op : AtomicKind) (a : Nat), s.Inv ∧ s.noErrors = true ∧
      s.locate (s.reqPart req) rightA (addr / atomicSize op * atomicSize op) (atomicSize op) = some [(a, atomicSize op)] ∧
      s.dpaKind a = .kennel) :=
  ⟨⟨(st [.setMem 66 5]), .uhlile 256, 60, 10, [(60, 4), (64, 6)], (st_inv _), by decide +kernel⟩,
   ⟨State.reset, .uhlile 255, 60, 10, reset_inv, by decide +kernel⟩,
   ⟨State.reset, .uhlile 256, 60, [1, 2, 3], 60, 3, reset_inv, by decide +kernel⟩,
   ⟨State.reset, .uhlile 256, 60, List.replicate 10 1, [(60, 4), (64, 6)], reset_inv, by decide +kernel⟩,
   ⟨State.reset, .uhlile 255, 60, [1], reset_inv, by decide +kernel⟩,
   ⟨(st [.setErrs 9 ⟨1, false⟩]), 64, 9, 0, (st_inv _), by decide +kernel⟩,
   ⟨(st [.setErrs 9 ⟨3, false⟩]), 64, (st_inv _), by decide +kernel⟩,
   ⟨(st [.setMem 64 255]), .uhlile 256, 67, .add64 1, 64, (st_inv _), by decide +kernel⟩⟩

/-- The hypotheses of RecorderEvents are met together. -/
theorem witness_recorder_events :
    (∃ (s : State) (code : Nat) (part : Nat) (src : Nat) (payload : List Word), s.Inv ∧ payload.length ≤ 31 ∧ code < 0xF000 ∧
      code / 4096 ≠ 0 ∧ (s.leashAt code).tokens = 0 ∧ recUncond code = false) ∧
    (∃ (s : State) (code : Nat) (part : Nat) (src : Nat) (payload : List Word) (h : Nat), s.Inv ∧ payload.length ≤ 31 ∧ code < 0xF000 ∧
      code / 4096 ≠ 0 ∧ (s.leashAt code).tokens ≠ 0 ∧ (s.leashAt code).supp = 0 ∧ recUncond code = false ∧ 256 ≤ part ∧
      s.recBusy = false ∧ s.recd.timeHours = some h ∧ h ≤ s.hours ∧ s.hours < h + 2 ^ 24 ∧ s.wrPtr % 4096 ≠ 0 ∧ s.wrPtr % 8 = 0 ∧
      s.wrPtr % 4096 + 8 * (payload.length + 1) ≤ 4096 ∧ s.wrPtr + 8 * (payload.length + 1) < logOrdEnd) ∧
    (∃ (s : State) (code : Nat), s.Inv ∧ (s.leashAt code).rate ≠ 0) ∧
    (∃ (s : State), s.Inv) ∧
    (∃ (s : State), s.Inv ∧ s.flag R.recStat F.recStat_FROZEN = true) ∧
    (∃ (s : State), s.Inv ∧ s.flag R.recStat F.recStat_ERASING = true) ∧
    (∃ (s : State) (ring : Nat), s.Inv ∧ ring < 33 ∧ (s.dumpsAt ring).active = true ∧ bit (s.dumpsAt ring).addr 0 = true ∧
      (s.dumpsAt ring).left ≠ 1) ∧
    (∃ (s : State) (ring : Nat) (ok : Bool), s.Inv ∧ ring < 33 ∧ (s.dumpsAt ring).active = true) :=
  ⟨⟨(st [.modLeash 0x1001 fun l => { l with tokens := 0 }]), 0x1001, 5, 7, [], (st_inv _), by decide +kernel⟩,
   ⟨(st [.setF R.recStat F.recStat_WR_PTR 16, .modRecd fun r => { r with timeHours := some 0 }]), 0x1001, 0x100, 7, [3, 4], 0, (st_inv _), by decide +kernel⟩,
   ⟨State.reset, 0x1001, reset_inv, by decide +kernel⟩,
   ⟨State.reset, reset_inv⟩,
   ⟨(st [.setF R.recStat F.recStat_FROZEN 1, .modRecd fun r => { r with staged := [⟨1, 5, 7, 0x2001, [3]⟩] }, .setF R.recStat F.recStat_STAGED 1]), (st_inv _), by decide +kernel⟩,
   ⟨(st [.setF R.recStat F.recStat_ERASING 1, .modRecUsed 3 fun _ => 100]), (st_inv _), by decide +kernel⟩,
   ⟨(st [.setLinkOn true, .modDumps 32 fun d => { d with active := true, part := 5, addr := 4097, size := 1, periodUs := 10, left := 3, seq := 4 }]), 32, (st_inv _), by decide +kernel⟩,
   ⟨(st [.modDumps 32 fun d => { d with active := true }]), 32, true, (st_inv _), by decide +kernel⟩⟩

/-- The hypotheses of IntegrityEvents are met together. -/
theorem witness_integrity_events :
    (∃ (s : State) (p : Nat) (r : PairRec), s.Inv ∧ (s.pairs.find? (fun x => x.slice == p) = some r) ∧ s.sliceLive p = true) ∧
    (∃ (s : State) (k : Nat) (i : Nat), s.Inv ∧ k ≤ 2 ∧ i < healthUnits k) ∧
    (∃ (s : State) (i : Nat), s.Inv ∧ s.notReady = false ∧ i < 64) ∧
    (∃ (s : State) (i : Nat), s.Inv ∧ s.notReady = false ∧ 86 ≤ i ∧ i < 90) ∧
    (∃ (s : State) (i : Nat), s.Inv ∧ i < 64) ∧
    (∃ (s : State) (i : Nat), s.Inv ∧ 86 ≤ i ∧ i < 90) ∧
    (∃ (s : State) (req : Requester), s.Inv) :=
  ⟨⟨(st [live 255 2, .setPairs [⟨255, 1, 2, 3, 4, 5, 6⟩]]), 255, ⟨255, 1, 2, 3, 4, 5, 6⟩, (st_inv _), by decide +kernel⟩,
   ⟨(st [.modHealth (2 * 1024 + 47) fun u => { u with ev2 := 3 }, .setRegs (R.healthW 2) 0x101010101010101]), 2, 47, (st_inv _), by decide +kernel⟩,
   ⟨(st [ready]), 63, (st_inv _), by decide +kernel⟩,
   ⟨(st [ready]), 89, (st_inv _), by decide +kernel⟩,
   ⟨State.reset, 63, reset_inv, by decide +kernel⟩,
   ⟨State.reset, 89, reset_inv, by decide +kernel⟩,
   ⟨State.reset, .uhlile 3, reset_inv⟩⟩

/-- The hypotheses of IntegrityEvents are met together. -/
theorem witness_integrity_events_2 :
    (∃ (s : State), s.Inv) ∧
    (∃ (s : State) (core : Nat) (arr : Nat), s.Inv ∧ core < 64 ∧ arr < 4 ∧ s.flag (R.coreArrStat core arr) F.coreArrStat_SUSPECT = true) ∧
    (∃ (s : State) (core : Nat) (arr : Nat), s.Inv ∧ core < 64 ∧ arr < 4 ∧ s.flag (R.coreArrStat core arr) F.coreArrStat_SUSPECT = true) ∧
    (∃ (s : State) (request : List Byte), s.Inv ∧ s.linkOn = true ∧ s.flag R.secStat F.secStat_KEY_READY = true ∧ request.length = 36 ∧
      leNat (request.take 4) = 0) ∧
    (∃ (s : State) (request : List Byte), s.Inv ∧ s.linkOn = true ∧ s.flag R.secStat F.secStat_KEY_READY = true ∧ request.length ≠ 36 ∧
      request.length ≠ 4) ∧
    (∃ (s : State), s.Inv ∧ s.flag R.secStat F.secStat_KEY_READY = true) :=
  ⟨⟨State.reset, reset_inv⟩,
   ⟨(st [.setF (R.coreArrStat 63 3) F.coreArrStat_SUSPECT 1]), 63, 3, (st_inv _), by decide +kernel⟩,
   ⟨(st [.setF (R.coreArrStat 63 3) F.coreArrStat_SUSPECT 1]), 63, 3, (st_inv _), by decide +kernel⟩,
   ⟨(st [.setLinkOn true, .setF R.secStat F.secStat_KEY_READY 1]), List.replicate 36 0, (st_inv _), by decide +kernel⟩,
   ⟨(st [.setLinkOn true, .setF R.secStat F.secStat_KEY_READY 1]), [], (st_inv _), by decide +kernel⟩,
   ⟨(st [.setF R.secStat F.secStat_KEY_READY 1]), (st_inv _), by decide +kernel⟩⟩

/-- The hypotheses of PtpMessages are met together. -/
theorem witness_ptp_messages :
    (∃ (s : State) (m : PtpMsg), s.Inv ∧ s.masterPort m.port = false ∧ s.slaveOn m.port = true ∧
      m.udp = (s.fld R.timeCfg F.timeCfg_PROFILE == 1) ∧ m.domain = s.fld R.timeCfg F.timeCfg_DOMAIN ∧ m.stepsRemoved < 255 ∧
      m.sender ≠ Config.clockId ∧ m.clockClass ≤ Config.annClassLimit (s.fld R.timeCfg F.timeCfg_PROFILE)) ∧
    (∃ (s : State) (m : PtpMsg), s.Inv ∧ s.masterPort m.port = false ∧ s.slaveOn m.port = true ∧
      m.udp = (s.fld R.timeCfg F.timeCfg_PROFILE == 1) ∧
      (m.domain ≠ s.fld R.timeCfg F.timeCfg_DOMAIN ∨ 255 ≤ m.stepsRemoved ∨ m.sender = Config.clockId ∨ Config.annClassLimit (s.fld
      R.timeCfg F.timeCfg_PROFILE) < m.clockClass)) ∧
    (∃ (s : State) (m : PtpMsg), s.Inv ∧ s.masterPort m.port = false ∧ s.slaveOn m.port = false) ∧
    (∃ (s : State) (m : PtpMsg), s.Inv ∧ s.masterPort m.port = true) ∧
    (∃ (s : State) (m : PtpMsg) (q : Nat), s.Inv ∧ s.masterPort m.port = false ∧ s.slaveOn m.port = true ∧
      m.udp = (s.fld R.timeCfg F.timeCfg_PROFILE == 1) ∧ s.stampOk m.frStamp = true ∧ s.ptpSyncOk m = true ∧ s.time.lastSeq = some q ∧
      1 ≤ (m.seqId + 65536 - q % 65536) % 65536 ∧ (m.seqId + 65536 - q % 65536) % 65536 ≤ 256 ∧ m.twoStep = true) ∧
    (∃ (s : State) (m : PtpMsg), s.Inv ∧ s.masterPort m.port = false ∧ s.slaveOn m.port = true ∧
      m.udp = (s.fld R.timeCfg F.timeCfg_PROFILE == 1) ∧ s.stampOk m.frStamp = true ∧ s.ptpSyncOk m = true ∧ s.time.lastSeq = none ∧
      m.twoStep = false) ∧
    (∃ (s : State) (m : PtpMsg), s.Inv ∧ s.masterPort m.port = false ∧ s.slaveOn m.port = true ∧
      m.udp = (s.fld R.timeCfg F.timeCfg_PROFILE == 1) ∧ m.frStamp = true ∧ s.onSn = true ∧ s.ptpSyncOk m = true ∧ s.time.lastSeq = none) ∧
    (∃ (s : State) (m : PtpMsg), s.Inv ∧ s.masterPort m.port = false ∧ s.slaveOn m.port = true ∧
      m.udp = (s.fld R.timeCfg F.timeCfg_PROFILE == 1) ∧ s.ptpSyncOk m = false) :=
  ⟨⟨(st [.setF (R.fhPortCfg 0) F.fhPortCfg_USE 2]), ⟨0, 24, Config.clockId + 1, 7, 0, 0, 0, 1, false, 1000, 2000, false, false, [], true⟩, (st_inv _), by decide +kernel, by decide +kernel, by decide +kernel, by decide +kernel, by decide +kernel, Nat.succ_ne_self _, Nat.zero_le _⟩,
   ⟨(st [.setF (R.fhPortCfg 0) F.fhPortCfg_USE 2]), ⟨0, 5, 9, 7, 0, 0, 0, 1, false, 1000, 2000, false, false, [], true⟩, (st_inv _), by decide +kernel, by decide +kernel, by decide +kernel, .inl (by decide +kernel)⟩,
   ⟨State.reset, ⟨5, 24, 9, 7, 0, 0, 0, 1, false, 1000, 2000, false, false, [], true⟩, reset_inv, by decide +kernel⟩,
   ⟨(st [.setF (R.fhPortCfg 4) F.fhPortCfg_USE 1, .setF (R.fhPortCfg 4) F.fhPortCfg_LLS 1]), ⟨4, 24, 9, 7, 0, 0, 0, 1, false, 1000, 2000, false, false, [], true⟩, (st_inv _), by decide +kernel⟩,
   ⟨(st [.setF (R.fhPortCfg 0) F.fhPortCfg_USE 2, .modTime fun t => { t with sel := some 9, lastSeq := some 65535 }]), ⟨0, 24, 9, 0, 0, 0, 0, 1, true, 1000, 2000, false, false, [], true⟩, 65535, (st_inv _), by decide +kernel⟩,
   ⟨(st [.setF (R.fhPortCfg 0) F.fhPortCfg_USE 2, .modTime fun t => { t with sel := some 9 }]), ⟨0, 24, 9, 7, -65536, 0, 0, 1, false, 1000, 2000, false, false, [], true⟩, (st_inv _), by decide +kernel⟩,
   ⟨(st [.setF (R.fhPortCfg 0) F.fhPortCfg_USE 2, .setF R.timeStat F.timeStat_FORM 1, .modTime fun t => { t with sel := some 9 }]), ⟨0, 24, 9, 7, 0, 0, 0, 1, false, 1000, 2000, true, false, [], true⟩, (st_inv _), by decide +kernel⟩,
   ⟨(st [.setF (R.fhPortCfg 0) F.fhPortCfg_USE 2]), ⟨0, 24, 9, 7, 0, 0, 0, 1, false, 1000, 2000, false, false, [], true⟩, (st_inv _), by decide +kernel⟩⟩

/-- The hypotheses of PtpMessages are met together. -/
theorem witness_ptp_messages_2 :
    (∃ (s : State) (m : PtpMsg) (q : Nat), s.Inv ∧ s.masterPort m.port = false ∧ s.slaveOn m.port = true ∧
      m.udp = (s.fld R.timeCfg F.timeCfg_PROFILE == 1) ∧ s.time.lastSeq = some q ∧ m.seqId = q ∧ q < 65536) ∧
    (∃ (s : State) (m : PtpMsg), s.Inv ∧ s.masterPort m.port = false ∧ s.slaveOn m.port = false) ∧
    (∃ (s : State) (m : PtpMsg) (q : Nat) (t2 : Int) (c : Int) (k : Nat), s.Inv ∧ s.masterPort m.port = false ∧ s.slaveOn m.port = true ∧
      m.udp = (s.fld R.timeCfg F.timeCfg_PROFILE == 1) ∧ s.time.sync = some (q, t2, c, k) ∧ s.ptpSyncOk m = true ∧ m.seqId = q ∧
      s.tick ≤ k + 250000000) ∧
    (∃ (s : State) (stamp : Int) (frStamp : Bool), s.Inv ∧ s.slaveOn s.slavePort = true) ∧
    (∃ (s : State) (m : PtpMsg) (q : Nat) (t3 : Int) (k : Nat) (t1 : Int) (t2 : Int) (fr2 : Nat) (a : Int) (b : Int), s.Inv ∧
      s.masterPort m.port = false ∧ s.slaveOn m.port = true ∧ m.udp = (s.fld R.timeCfg F.timeCfg_PROFILE == 1) ∧ s.time.dreq = some (q,
      t3, k) ∧ m.reqMatch = true ∧ m.seqId = q ∧ s.tick ≤ k + 250000000 ∧ s.time.t12 = some (t1, t2, fr2) ∧
      a = t2 - t1 - sfld s (R.timePortAsym m.port) F.timePortAsym_ASYM * 2 ^ 14 ∧
      b = m.origin - m.corr - t3 + sfld s (R.timePortAsym m.port) F.timePortAsym_ASYM * 2 ^ 14 ∧ 0 ≤ a + b ∧
      a + b ≤ ns17 (s.fld R.timeBound F.timeBound_PD_MAX * 1000) ∧ s.timeState = stAcquire ∧ s.time.prev = none) ∧
    (∃ (s : State) (m : PtpMsg) (q : Nat) (t3 : Int) (k : Nat), s.Inv ∧ s.masterPort m.port = false ∧ s.slaveOn m.port = true ∧
      m.udp = (s.fld R.timeCfg F.timeCfg_PROFILE == 1) ∧ s.time.dreq = some (q, t3, k) ∧ m.reqMatch = true ∧ m.seqId = q ∧
      s.tick ≤ k + 250000000 ∧ s.time.t12 = none) ∧
    (∃ (s : State) (m : PtpMsg) (q : Nat) (t3 : Int) (k : Nat) (t1 : Int) (t2 : Int) (fr2 : Nat) (a : Int) (b : Int), s.Inv ∧
      s.masterPort m.port = false ∧ s.slaveOn m.port = true ∧ m.udp = (s.fld R.timeCfg F.timeCfg_PROFILE == 1) ∧ s.time.dreq = some (q,
      t3, k) ∧ m.reqMatch = true ∧ m.seqId = q ∧ s.tick ≤ k + 250000000 ∧ s.time.t12 = some (t1, t2, fr2) ∧
      a = t2 - t1 - sfld s (R.timePortAsym m.port) F.timePortAsym_ASYM * 2 ^ 14 ∧
      b = m.origin - m.corr - t3 + sfld s (R.timePortAsym m.port) F.timePortAsym_ASYM * 2 ^ 14 ∧ a + b < 0 ∧
      (s.timeState = stAcquire ∨ s.timeState = stLocked ∨ s.timeState = stHoldover)) :=
  ⟨⟨(st [.setF (R.fhPortCfg 0) F.fhPortCfg_USE 2, .modTime fun t => { t with sel := some 9, lastSeq := some 7 }]), ⟨0, 24, 9, 7, 0, 0, 0, 1, false, 1000, 2000, false, false, [], true⟩, 7, (st_inv _), by decide +kernel⟩,
   ⟨State.reset, ⟨5, 24, 9, 7, 0, 0, 0, 1, false, 1000, 2000, false, false, [], true⟩, reset_inv, by decide +kernel⟩,
   ⟨(st [.setF (R.fhPortCfg 0) F.fhPortCfg_USE 2, .modTime fun t => { t with sel := some 9, sync := some (7, 3000, 5, 0) }]), ⟨0, 24, 9, 7, 0, 0, 0, 1, false, 1000, 2000, false, false, [], true⟩, 7, 3000, 5, 0, (st_inv _), by decide +kernel⟩,
   ⟨(st [.setF (R.fhPortCfg 0) F.fhPortCfg_USE 2, .modTime fun t => { t with dseq := 65535 }]), 77, true, (st_inv _), by decide +kernel⟩,
   ⟨(st [.setF (R.fhPortCfg 0) F.fhPortCfg_USE 2, .setF R.timeStat F.timeStat_STATE 1, .modTime fun t => { t with dreq := some (7, 500, 0), t12 := some (100, 900, 40) }]), ⟨0, 24, 9, 7, 0, 0, 0, 1, false, 1000, 2000, false, false, [], true⟩, 7, 500, 0, 100, 900, 40, 800, 500, (st_inv _), by decide +kernel⟩,
   ⟨(st [.setF (R.fhPortCfg 0) F.fhPortCfg_USE 2, .modTime fun t => { t with dreq := some (7, 500, 0) }]), ⟨0, 24, 9, 7, 0, 0, 0, 1, false, 1000, 2000, false, false, [], true⟩, 7, 500, 0, (st_inv _), by decide +kernel⟩,
   ⟨(st [.setF (R.fhPortCfg 0) F.fhPortCfg_USE 2, .setF R.timeStat F.timeStat_STATE 1, .modTime fun t => { t with dreq := some (7, 5000, 0), t12 := some (100, 900, 40) }]), ⟨0, 24, 9, 7, 0, 0, 0, 1, false, 1000, 2000, false, false, [], true⟩, 7, 5000, 0, 100, 900, 40, 800, -4000, (st_inv _), by decide +kernel⟩⟩

/-- The hypotheses of TimeStates are met together. -/
theorem witness_time_states :
    (∃ (s : State) (m : PtpMsg), s.Inv ∧ s.masterPort m.port = true ∧ m.domain = s.fld R.timeCfg F.timeCfg_DOMAIN ∧ m.udp = false) ∧
    (∃ (s : State) (m : PtpMsg), s.Inv ∧ s.masterPort m.port = false ∧ s.slaveOn m.port = false) ∧
    (∃ (s : State) (port : Nat), s.Inv ∧ s.masterPort port = true) ∧
    (∃ (s : State) (port : Nat), s.Inv ∧ s.masterPort port = true) ∧
    (∃ (s : State) (port : Nat) (m : MasterSt), s.Inv ∧ s.masterPort port = true ∧ s.timeState = stLocked ∧ s.ptpOn = true ∧
      (s.time.masters.find? (fun m => some m.id == s.time.sel) = some m)) ∧
    (∃ (s : State), s.Inv ∧ s.time.wantStep = true ∧ s.time.wantRec = none ∧ s.timeState = stAcquire) ∧
    (∃ (s : State), s.Inv ∧ s.time.wantRec ≠ none ∧ (s.timeState = stLocked ∨ s.timeState = stHoldover)) :=
  ⟨⟨(st [.setF (R.fhPortCfg 4) F.fhPortCfg_USE 1, .setF (R.fhPortCfg 4) F.fhPortCfg_LLS 1]), ⟨4, 24, 9, 7, 0, 0, 0, 1, false, 1000, 2000, false, false, [], true⟩, (st_inv _), by decide +kernel⟩,
   ⟨State.reset, ⟨4, 24, 9, 7, 0, 0, 0, 1, false, 1000, 2000, false, false, [], true⟩, reset_inv, by decide +kernel⟩,
   ⟨(st [.setF (R.fhPortCfg 4) F.fhPortCfg_USE 1, .setF (R.fhPortCfg 4) F.fhPortCfg_LLS 1]), 4, (st_inv _), by decide +kernel⟩,
   ⟨(st [.setF (R.fhPortCfg 4) F.fhPortCfg_USE 1, .setF (R.fhPortCfg 4) F.fhPortCfg_LLS 1]), 4, (st_inv _), by decide +kernel⟩,
   ⟨(st [.setF (R.fhPortCfg 4) F.fhPortCfg_USE 1, .setF (R.fhPortCfg 4) F.fhPortCfg_LLS 1, .setF R.timeStat F.timeStat_STATE 2, .modTime fun t => { t with masters := [⟨9, 6, 1, 3, [77]⟩], sel := some 9 }]), 4, ⟨9, 6, 1, 3, [77]⟩, (st_inv _), by decide +kernel⟩,
   ⟨(st [.setF R.timeStat F.timeStat_STATE 1, .modTime fun t => { t with wantStep := true, off := 123456 }, .setF R.timeStat F.timeStat_STEPS 65535]), (st_inv _), by decide +kernel⟩,
   ⟨(st [.setF R.timeStat F.timeStat_STATE 2, .modTime fun t => { t with wantRec := some 5, sn := 99 }]), (st_inv _), by decide +kernel⟩⟩

/-- The hypotheses of TimeStates are met together. -/
theorem witness_time_states_2 :
    (∃ (s : State), s.Inv ∧ s.timeState = stAcquire ∧ s.flag R.timeStat F.timeStat_ALARM = false) ∧
    (∃ (s : State), s.Inv ∧ s.timeState = stLocked ∧ s.time.wantRec = none) ∧
    (∃ (s : State), s.Inv ∧ s.ptpOn = true ∧ s.time.sel ≠ none) ∧
    (∃ (s : State), s.Inv ∧ s.timeState = stLocked ∧ s.time.wantRec = none) ∧
    (∃ (s : State), s.Inv ∧ s.timeState = stHoldover ∧ s.time.wantRec = none ∧ s.time.lossTick + s.holdBudget * 250000000 ≤ s.tick) ∧
    (∃ (s : State), s.Inv ∧ s.tick < s.time.lossTick + s.holdBudget * 250000000) :=
  ⟨⟨(st [.setF R.timeStat F.timeStat_STATE 1, .modTime fun t => { t with lock := 5 }]), (st_inv _), by decide +kernel⟩,
   ⟨(st [.setF R.timeStat F.timeStat_STATE 2]), (st_inv _), by decide +kernel⟩,
   ⟨(st [.modTime fun t => { t with masters := [⟨9, 6, 1, 0, []⟩], sel := some 9 }, .setF R.timeStat F.timeStat_TIME_QUAL 1]), (st_inv _), by decide +kernel⟩,
   ⟨(st [.setF R.timeStat F.timeStat_STATE 2]), (st_inv _), by decide +kernel⟩,
   ⟨(st [.setF R.timeStat F.timeStat_STATE 3, .setF R.timeHold F.timeHold_HOLD_NONE 1, .setClk ⟨2000000000, 0, 0⟩]), (st_inv _), by decide +kernel⟩,
   ⟨(st [.setF R.timeStat F.timeStat_STATE 3]), (st_inv _), by decide +kernel⟩⟩

/-- The hypotheses of PulsesAndFrequency are met together. -/
theorem witness_pulses_and_frequency :
    (∃ (s : State) (stamp : Int), s.Inv ∧ s.time.ppsAt = none) ∧
    (∃ (s : State) (stamp : Int) (k : Nat), s.Inv ∧ s.time.ppsAt = some k ∧ ppsNear k s.tick = true ∧ 2 ≤ s.time.ppsRun ∧
      s.fld R.timeCfg F.timeCfg_SRC ≠ 1) ∧
    (∃ (s : State) (stamp : Int) (k : Nat), s.Inv ∧ s.time.ppsAt = some k ∧ ppsNear k s.tick = false ∧
      s.flag R.timePps F.timePps_IN_QUAL = false) ∧
    (∃ (s : State), s.Inv ∧ s.flag R.timePps F.timePps_IN_QUAL = true ∧ s.time.ppsBad < 2) ∧
    (∃ (s : State), s.Inv ∧ s.flag R.timePps F.timePps_IN_QUAL = true ∧ 2 ≤ s.time.ppsBad ∧ s.fld R.timeCfg F.timeCfg_SRC ≠ 1) ∧
    (∃ (s : State), s.Inv ∧ s.ppsDue = true ∧ s.time.ppsUp = none ∧ (s.onSn = true ∨ s.flag R.timeCfg F.timeCfg_PPS_SQUELCH = false)) ∧
    (∃ (s : State), s.Inv ∧ (s.ppsDue = false ∨ s.time.ppsUp ≠ none ∨ (s.onSn = false ∧ s.flag R.timeCfg F.timeCfg_PPS_SQUELCH = true))) :=
  ⟨⟨State.reset, 5, reset_inv, by decide +kernel⟩,
   ⟨(st [.modTime fun t => { t with ppsAt := some 0, ppsRun := 2 }, .setClk ⟨2000000000, 0, 0⟩]), 70000, 0, (st_inv _), by decide +kernel⟩,
   ⟨(st [.modTime fun t => { t with ppsAt := some 0, ppsRun := 2 }]), 70000, 0, (st_inv _), by decide +kernel⟩,
   ⟨(st [.setF R.timePps F.timePps_IN_QUAL 1]), (st_inv _), by decide +kernel⟩,
   ⟨(st [.setF R.timePps F.timePps_IN_QUAL 1, .modTime fun t => { t with ppsBad := 2 }]), (st_inv _), by decide +kernel⟩,
   ⟨State.reset, reset_inv, by decide +kernel⟩,
   ⟨(st [.modTime fun t => { t with ppsUp := some 5 }]), (st_inv _), by decide +kernel⟩⟩

/-- The hypotheses of PulsesAndFrequency are met together. -/
theorem witness_pulses_and_frequency_2 :
    (∃ (s : State) (port : Nat), s.Inv ∧ port ∈ s.esmcPorts) ∧
    (∃ (s : State) (port : Nat), s.Inv ∧ port ∈ s.esmcPorts ∧ port ∈ s.time.qlOwed ∧ s.fld R.timeFreq F.timeFreq_QL_TX = s.qlTx) ∧
    (∃ (s : State) (port : Nat), s.Inv ∧ port ∈ s.esmcPorts ∧ port ≠ s.slavePort ∧ s.fld R.timeFreq F.timeFreq_QL_TX ≠ s.qlTx) ∧
    (∃ (s : State) (port : Nat) (event : Bool), s.Inv ∧ port ∉ s.esmcPorts) ∧
    (∃ (s : State) (ql : Nat), s.Inv ∧ ql < 16 ∧ s.slaveFit s.slavePort = true) ∧
    (∃ (s : State) (port : Nat) (ql : Nat), s.Inv ∧ port ≠ s.slavePort) ∧
    (∃ (s : State), s.Inv) :=
  ⟨⟨(st [.setF R.timeStat F.timeStat_STATE 4, .setF (R.fhPortCfg 3) F.fhPortCfg_USE 1]), 3, (st_inv _), by decide +kernel⟩,
   ⟨(st [.setF R.timeStat F.timeStat_STATE 4, .modTime fun t => { t with qlOwed := [3] }, .setF R.timeFreq F.timeFreq_QL_TX 15, .setF (R.fhPortCfg 3) F.fhPortCfg_USE 1]), 3, (st_inv _), by decide +kernel⟩,
   ⟨(st [.setF R.timeStat F.timeStat_STATE 4, .setF R.timeFreq F.timeFreq_QL_TX 5, .setF (R.fhPortCfg 3) F.fhPortCfg_USE 1]), 3, (st_inv _), by decide +kernel⟩,
   ⟨State.reset, 3, true, reset_inv, by decide +kernel⟩,
   ⟨(st [.setF (R.fhPortCfg 0) F.fhPortCfg_USE 2, .modTime fun t => { t with syncePres := true }]), 4, (st_inv _), by decide +kernel⟩,
   ⟨State.reset, 4, 4, reset_inv, by decide +kernel⟩,
   ⟨(st [.setF R.timeFreq F.timeFreq_SEL 1]), (st_inv _)⟩⟩

/-- The hypotheses of PulsesAndFrequency are met together. -/
theorem witness_pulses_and_frequency_3 :
    (∃ (s : State) (a : Bool) (b : Bool), s.Inv) ∧
    (∃ (s : State) (val : Word), s.Inv ∧ s.flag R.gwLock F.gwLock_TIME = false ∧ F.timeCfg_PROFILE.get val < 2 ∧
      F.timeCfg_SLV_PORT.get val < 48 ∧ s.slaveFit (F.timeCfg_SLV_PORT.get val) = true ∧ F.timeCfg_SRC.get val < 3 ∧
      (if F.timeCfg_PROFILE.get val = 0 then 24 ≤ F.timeCfg_DOMAIN.get val ∧
      F.timeCfg_DOMAIN.get val ≤ 43 else 44 ≤ F.timeCfg_DOMAIN.get val ∧ F.timeCfg_DOMAIN.get val ≤ 63)) ∧
    (∃ (s : State) (val : Word), s.Inv ∧ s.flag R.gwLock F.gwLock_TIME = true) ∧
    (∃ (s : State) (val : Word), s.Inv ∧ F.timeLatch_CAPTURE.get val = 1 ∧ s.onSn = true ∧
      (s.time.wantStep = false ∨ s.time.wantRec ≠ none ∨ s.timeState ≠ stAcquire)) ∧
    (∃ (s : State) (val : Word), s.Inv ∧ F.timeLatch_CAPTURE.get val = 1 ∧ s.time.wantStep = true ∧ s.time.wantRec = none ∧
      s.timeState = stAcquire) ∧
    (∃ (s : State) (val : Word), s.Inv ∧ F.timeLatch_CAPTURE.get val = 1 ∧ s.onSn = false ∧
      (s.time.wantStep = false ∨ s.time.wantRec ≠ none ∨ s.timeState ≠ stAcquire)) ∧
    (∃ (s : State) (who : Nat) (val : Word), s.Inv ∧ who < 256) :=
  ⟨⟨(st [.setF R.timeFreq F.timeFreq_SEL 1]), true, true, (st_inv _)⟩,
   ⟨(st [.setF R.timeStat F.timeStat_TIME_QUAL 1, .setF (R.fhPortCfg 47) F.fhPortCfg_USE 2]), F.timeCfg_PROFILE.put (F.timeCfg_DOMAIN.put (F.timeCfg_SRC.put (F.timeCfg_SLV_PORT.put 0 47) 1) 63) 1, (st_inv _), by decide +kernel⟩,
   ⟨(st [.setF R.gwLock F.gwLock_TIME 1]), 5, (st_inv _), by decide +kernel⟩,
   ⟨(st [.setF R.timeStat F.timeStat_FORM 1, .modTime fun t => { t with sn := 5000000007 * 2 ^ 40 }, .setClk ⟨80, 0, 0⟩]), F.timeLatch_CAPTURE.put 0 1, (st_inv _), by decide +kernel⟩,
   ⟨(st [.setF R.timeStat F.timeStat_STATE 1, .modTime fun t => { t with wantStep := true, off := 5000000007 * 2 ^ 40 }, .setClk ⟨80, 0, 0⟩]), F.timeLatch_CAPTURE.put 0 1, (st_inv _), by decide +kernel⟩,
   ⟨(st [.setClk ⟨80, 0, 0⟩]), F.timeLatch_CAPTURE.put 0 1, (st_inv _), by decide +kernel⟩,
   ⟨State.reset, 255, F.timeLatch_CAPTURE.put 0 1, reset_inv, by decide +kernel⟩⟩

/-- The hypotheses of BarrierAndHound are met together. -/
theorem witness_barrier_and_hound :
    (∃ (s : State) (barId : Nat) (node : Nat) (t1 : Word) (t2 : Word), s.Inv ∧ s.fabOn = true ∧ (∀ e, e ∈ s.bars → e.2.barId ≠ barId) ∧
      s.arrives.length < 4096) ∧
    (∃ (s : State) (barId : Nat) (node : Nat) (t1 : Word) (t2 : Word) (p : Nat) (b : BarSt), s.Inv ∧ s.fabOn = true ∧ s.bars = [(p, b)] ∧
      b.armed = true ∧ b.master = true ∧ b.fallback = 0 ∧ b.barId = barId ∧ b.nmod = 2 ∧ b.tRel = none ∧ s.arrives = [] ∧
      s.noErrors = true ∧ s.dpaKind (s.syncDpa p b.sigIdx) = .kennel) ∧
    (∃ (s : State) (barId : Nat) (node : Nat) (t1 : Word) (t2 : Word) (p : Nat) (b : BarSt) (tRel : Nat), s.Inv ∧ s.fabOn = true ∧
      s.fabPorts ≠ [] ∧ s.bars = [(p, b)] ∧ b.master = true ∧ b.fallback = 0 ∧ b.barId = barId ∧ b.tRel = some tRel) ∧
    (∃ (s : State) (barId : Nat) (node : Nat) (t1 : Word) (t2 : Word) (t3 : Word) (t4 : Word) (tRel : Word) (p : Nat) (b : BarSt) (th :
      Int), s.Inv ∧ s.fabOn = true ∧
      (s.bars.find? (fun e => e.2.armed && !e.2.master && e.2.fallback == 0 && e.2.barId == barId && e.2.masterNode == node &&
      e.2.openAt.isNone) = some (p, b)) ∧ th = (dif64 t2.toNat t1.toNat - dif64 t4.toNat t3.toNat) / 2 ∧ s.noErrors = true ∧
      s.dpaKind (s.syncDpa p b.sigIdx) = .kennel ∧ -4000 ≤ th ∧ th ≤ 4000 ∧ p < 256) ∧
    (∃ (s : State) (barId : Nat) (node : Nat) (t1 : Word) (t2 : Word) (t3 : Word) (t4 : Word) (tRel : Word) (p : Nat) (b : BarSt) (th :
      Int), s.Inv ∧ s.fabOn = true ∧
      (s.bars.find? (fun e => e.2.armed && !e.2.master && e.2.fallback == 0 && e.2.barId == barId && e.2.masterNode == node &&
      e.2.openAt.isNone) = some (p, b)) ∧ th = (dif64 t2.toNat t1.toNat - dif64 t4.toNat t3.toNat) / 2 ∧ s.noErrors = true ∧
      s.dpaKind (s.syncDpa p b.sigIdx) = .kennel ∧ (th < -4000 ∨ 4000 < th) ∧ p < 256) ∧
    (∃ (s : State) (p : Nat) (b : BarSt), s.Inv ∧ b = s.barsAt p ∧ b.armed = true ∧ b.master = false ∧ b.fallback = 0 ∧ b.openAt = none ∧
      s.fabOn = true ∧ s.fabPorts ≠ []) :=
  ⟨⟨(st [.setF R.fabCfg F.fabCfg_EN 1, .setArrives [⟨3, 7, 1, 2, 0⟩, ⟨3, 8, 1, 2, 0⟩]]), 3, 7, 5, 6, (st_inv _), by decide +kernel⟩,
   ⟨(st [.setF R.fabCfg F.fabCfg_EN 1, .setBars 5 ⟨true, 3, true, 2, 4, 9, 10000, 0, 1, none, none, false⟩]), 3, 7, 5, 6, 5, ⟨true, 3, true, 2, 4, 9, 10000, 0, 1, none, none, false⟩, (st_inv _), by decide +kernel⟩,
   ⟨(st [.setF R.fabCfg F.fabCfg_EN 1, .setF (R.fhPortCfg 5) F.fhPortCfg_USE 2, .modSys fun y => { y with ports := [5] }, .setBars 5 ⟨false, 3, true, 2, 4, 9, 10000, 0, 1, none, some 77, false⟩]), 3, 7, 5, 6, 5, ⟨false, 3, true, 2, 4, 9, 10000, 0, 1, none, some 77, false⟩, 77, (st_inv _), by decide +kernel, by decide +kernel, by decide +kernel, rfl, rfl, rfl, rfl⟩,
   ⟨(st [.setF R.fabCfg F.fabCfg_EN 1, .setBars 5 ⟨true, 3, false, 2, 4, 9, 10000, 0, 1, none, none, false⟩]), 3, 9, 100, 4100, 5000, 5000, 90000, 5, ⟨true, 3, false, 2, 4, 9, 10000, 0, 1, none, none, false⟩, 2000, (st_inv _), by decide +kernel⟩,
   ⟨(st [.setF R.fabCfg F.fabCfg_EN 1, .setBars 5 ⟨true, 3, false, 2, 4, 9, 10000, 0, 1, none, none, false⟩]), 3, 9, 100, 8102, 5000, 5000, 90000, 5, ⟨true, 3, false, 2, 4, 9, 10000, 0, 1, none, none, false⟩, 4001, (st_inv _), by decide +kernel⟩,
   ⟨(st [.setF R.fabCfg F.fabCfg_EN 1, .setF (R.fhPortCfg 5) F.fhPortCfg_USE 2, .modSys fun y => { y with ports := [5] }, .setBars 5 ⟨true, 3, false, 2, 4, 9, 10000, 0, 1, none, none, false⟩]), 5, ⟨true, 3, false, 2, 4, 9, 10000, 0, 1, none, none, false⟩, (st_inv _), by decide +kernel⟩⟩

/-- The hypotheses of BarrierAndHound are met together. -/
theorem witness_barrier_and_hound_2 :
    (∃ (s : State) (p : Nat) (l : Launch), s.Inv ∧ p < 256 ∧ (s.barsAt p).armed = true ∧ (s.barsAt p).openAt ≠ none ∧
      (s.partsAt p).launches.find? (·.handle == (s.barsAt p).handle) = some l) ∧
    (∃ (s : State) (p : Nat) (l : Launch), s.Inv ∧ p < 256 ∧ (s.barsAt p).armed = true ∧
      (s.partsAt p).launches.find? (·.handle == (s.barsAt p).handle) = some l) ∧
    (∃ (s : State) (barId : Nat), s.Inv ∧ (∀ e, e ∈ s.bars → e.2.barId ≠ barId ∨ e.2.armed = false)) ∧
    (∃ (s : State) (unit : Nat) (seq : Nat) (recs : List HoundRec), s.Inv ∧ s.fabOn = true ∧ unit < 8 ∧
      s.fld (R.repHoundCfg unit) F.repHoundCfg_MODE = 1 ∧ recs ≠ [] ∧ recs.length ≤ 32 ∧ seq = (s.houndsAt unit).rxSeq ∧ seq < 2 ^ 32) ∧
    (∃ (s : State) (unit : Nat) (seq : Nat) (a : Nat), s.Inv ∧ s.fabOn = true ∧ unit < 8 ∧
      s.fld (R.repHoundCfg unit) F.repHoundCfg_MODE = 1) ∧
    (∃ (s : State) (unit : Nat) (seq : Nat) (r : HoundRec) (o : HoundRec), s.Inv ∧ s.fabOn = true ∧ unit < 8 ∧
      s.fld (R.repHoundCfg unit) F.repHoundCfg_MODE = 1 ∧ seq = (s.houndsAt unit).rxSeq ∧ seq < 2 ^ 32 ∧
      (s.houndsAt unit).seen.contains (r.step, r.tileId, false) = false ∧ (s.houndsAt unit).locStep ≤ r.step ∧
      ((s.houndsAt unit).loc.find? (fun x => hkey x == hkey r) = some o) ∧ o.digest = r.digest) :=
  ⟨⟨(st [live 5 2, .modParts 5 fun x => { x with launches := [⟨1, 8, 0, false, 0, 0, [], 0, 0, 0, false, []⟩] }, .setBars 5 ⟨true, 3, true, 2, 4, 9, 10000, 0, 1, some 8, none, false⟩]), 5, ⟨1, 8, 0, false, 0, 0, [], 0, 0, 0, false, []⟩, (st_inv _), by decide +kernel⟩,
   ⟨(st [live 5 2, .modParts 5 fun x => { x with launches := [⟨1, 8, 0, false, 0, 0, [], 0, 0, 0, false, []⟩] }, .setBars 5 ⟨true, 3, true, 2, 4, 9, 10000, 0, 1, none, none, false⟩]), 5, ⟨1, 8, 0, false, 0, 0, [], 0, 0, 0, false, []⟩, (st_inv _), by decide +kernel⟩,
   ⟨(st [.setArrives [⟨3, 7, 1, 2, 0⟩, ⟨4, 8, 1, 2, 0⟩]]), 3, (st_inv _), by decide +kernel⟩,
   ⟨(st [.setF R.fabCfg F.fabCfg_EN 1, .setF (R.repHoundCfg 7) F.repHoundCfg_MODE 1, .setF (R.repHoundCfg 7) F.repHoundCfg_LAG 2, .modHounds 7 fun u => { u with rxSeq := 2 ^ 32 - 1 }]), 7, 2 ^ 32 - 1, [⟨9, 3, 1, 5, 0xAB⟩], (st_inv _), by decide +kernel⟩,
   ⟨(st [.setF R.fabCfg F.fabCfg_EN 1, .setF (R.repHoundCfg 7) F.repHoundCfg_MODE 1, .setF (R.repHoundCfg 7) F.repHoundCfg_LAG 2, .modHounds 7 fun u => { u with unacked := [(4, ⟨9, 3, 1, 5, 0xAB⟩), (5, ⟨9, 3, 1, 5, 0xAB⟩)] }]), 7, 0, 5, (st_inv _), by decide +kernel⟩,
   ⟨(st [.setF R.fabCfg F.fabCfg_EN 1, .setF (R.repHoundCfg 7) F.repHoundCfg_MODE 1, .setF (R.repHoundCfg 7) F.repHoundCfg_LAG 2, .modHounds 7 fun u => { u with loc := [⟨9, 3, 1, 5, 0xAB⟩], locStep := 9 }]), 7, 0, ⟨9, 3, 1, 5, 0xAB⟩, ⟨9, 3, 1, 5, 0xAB⟩, (st_inv _), by decide +kernel⟩⟩

/-- The hypotheses of BarrierAndHound are met together. -/
theorem witness_barrier_and_hound_3 :
    (∃ (s : State) (unit : Nat) (seq : Nat) (r : HoundRec) (o : HoundRec), s.Inv ∧ s.fabOn = true ∧ unit < 8 ∧
      s.fld (R.repHoundCfg unit) F.repHoundCfg_MODE = 1 ∧ seq = (s.houndsAt unit).rxSeq ∧ seq < 2 ^ 32 ∧
      (s.houndsAt unit).seen.contains (r.step, r.tileId, false) = false ∧ (s.houndsAt unit).locStep ≤ r.step ∧
      ((s.houndsAt unit).loc.find? (fun x => hkey x == hkey r) = some o) ∧ o.digest ≠ r.digest ∧
      s.flag (R.repHoundStat unit) F.repHoundStat_FIRST = false) ∧
    (∃ (s : State) (unit : Nat) (q : Nat) (r : HoundRec) (node : Nat), s.Inv ∧ unit < 8 ∧
      s.fld (R.repHoundCfg unit) F.repHoundCfg_MODE = 1 ∧ (s.houndsAt unit).unacked = [(q, r)] ∧ s.fabOn = true ∧ s.fabPorts ≠ [] ∧
      node = s.fld (R.repHoundCfg unit) F.repHoundCfg_PEER_NODE) ∧
    (∃ (s : State) (unit : Nat) (val : Word), s.Inv ∧ unit < 8 ∧ s.fld (R.repHoundCfg unit) F.repHoundCfg_MODE = 0 ∧
      (F.repHoundCfg_MODE.get val = 1 ∨ F.repHoundCfg_MODE.get val = 2)) ∧
    (∃ (s : State) (unit : Nat) (val : Word), s.Inv ∧ unit < 8 ∧ F.repHoundCfg_MODE.get val = 0) ∧
    (∃ (s : State) (unit : Nat) (val : Word), s.Inv ∧ unit < 8 ∧ s.fld (R.repHoundCfg unit) F.repHoundCfg_MODE ≠ 0 ∧
      F.repHoundCfg_MODE.get val ≠ 0) :=
  ⟨⟨(st [.setF R.fabCfg F.fabCfg_EN 1, .setF (R.repHoundCfg 7) F.repHoundCfg_MODE 1, .setF (R.repHoundCfg 7) F.repHoundCfg_LAG 2, .modHounds 7 fun u => { u with loc := [⟨9, 3, 1, 5, 0xAB⟩], locStep := 9 }]), 7, 0, ⟨9, 3, 1, 5, 0xCD⟩, ⟨9, 3, 1, 5, 0xAB⟩, (st_inv _), by decide +kernel⟩,
   ⟨(st [.setF R.fabCfg F.fabCfg_EN 1, .setF (R.fhPortCfg 5) F.fhPortCfg_USE 2, .modSys fun y => { y with ports := [5] }, .setF (R.repHoundCfg 7) F.repHoundCfg_MODE 1, .setF (R.repHoundCfg 7) F.repHoundCfg_LAG 2, .modHounds 7 fun u => { u with unacked := [(4, ⟨9, 3, 1, 5, 0xAB⟩)] }]), 7, 4, ⟨9, 3, 1, 5, 0xAB⟩, 65535, (st_inv _), by decide +kernel⟩,
   ⟨State.reset, 7, F.repHoundCfg_MODE.put (F.repHoundCfg_SLICE.put 0 255) 2, reset_inv, by decide +kernel⟩,
   ⟨(st [.setF (R.repHoundCfg 7) F.repHoundCfg_MODE 1, .setF (R.repHoundCfg 7) F.repHoundCfg_LAG 2]), 7, 0, (st_inv _), by decide +kernel⟩,
   ⟨(st [.setF (R.repHoundCfg 7) F.repHoundCfg_MODE 1, .setF (R.repHoundCfg 7) F.repHoundCfg_LAG 2]), 7, F.repHoundCfg_MODE.put 0 2, (st_inv _), by decide +kernel⟩⟩

/-- The hypotheses of EngineAccesses are met together. -/
theorem witness_engine_accesses :
    (∃ (s : State) (e : Nat) (x : EngEnt) (node : Nat), s.Inv ∧ s.engNext e = some x ∧ entOp x.words = 1 ∧ s.fabOn = true ∧
      node = fvaNode (entFva x.words) ∧ node ≠ s.fabNode ∧ (s.connsAt node).txOpen = true ∧
      s.fld (R.fabEngIdx e) F.fabEngIdx_OUTST < 512 ∧ sub32 (s.connsAt node).nextPsn (s.connsAt node).cumAck ≤ 2048 ∧
      s32ge (s.connsAt node).lim ((s.connsAt node).used + reqUnits (0)) = true ∧
      s.txUsed + (reqUnits (0) + cdiv (entLen x.words) 256) ≤ 65536) ∧
    (∃ (s : State) (e : Nat) (x : EngEnt) (node : Nat), s.Inv ∧ s.engNext e = some x ∧ entOp x.words = 1 ∧ s.fabOn = true ∧
      node = fvaNode (entFva x.words) ∧ node ≠ s.fabNode ∧ s.connsAt node = dfltConns 0 ∧ (s.conns.filter (·.2.used_)).length < 8192) ∧
    (∃ (s : State) (e : Nat) (x : EngEnt) (node : Nat) (ls : List (Nat × Nat)), s.Inv ∧ s.engNext e = some x ∧ entOp x.words = 2 ∧
      s.fabOn = true ∧ node = fvaNode (entFva x.words) ∧ node ≠ s.fabNode ∧ (s.connsAt node).txOpen = true ∧
      s.fld (R.fabEngIdx e) F.fabEngIdx_OUTST < 512 ∧ sub32 (s.connsAt node).nextPsn (s.connsAt node).cumAck ≤ 2048 ∧
      s32ge (s.connsAt node).lim ((s.connsAt node).used + reqUnits (entLen x.words)) = true ∧
      s.txUsed + (reqUnits (entLen x.words)) ≤ 65536 ∧ s.noErrors = true ∧
      s.locate (s.engOwner e) rightR (entLocal x.words) (entLen x.words) = some ls ∧ (∀ e, e ∈ ls → s.lineFenced e.1 = false) ∧
      0 < entLen x.words) ∧
    (∃ (s : State) (e : Nat) (x : EngEnt) (node : Nat), s.Inv ∧ s.engNext e = some x ∧ entOp x.words = 2 ∧ s.fabOn = true ∧
      node = fvaNode (entFva x.words) ∧ node ≠ s.fabNode ∧ s.connsAt node = dfltConns 0 ∧ (s.conns.filter (·.2.used_)).length < 8192) ∧
    (∃ (s : State) (e : Nat) (x : EngEnt) (node : Nat) (ls : List (Nat × Nat)), s.Inv ∧ s.engNext e = some x ∧ entOp x.words = 3 ∧
      s.fabOn = true ∧ node = fvaNode (entFva x.words) ∧ node ≠ s.fabNode ∧ (s.connsAt node).txOpen = true ∧
      s.fld (R.fabEngIdx e) F.fabEngIdx_OUTST < 512 ∧ sub32 (s.connsAt node).nextPsn (s.connsAt node).cumAck ≤ 2048 ∧
      s32ge (s.connsAt node).lim ((s.connsAt node).used + reqUnits (8)) = true ∧ s.txUsed + (reqUnits (8)) ≤ 65536 ∧ s.noErrors = true ∧
      s.locate (s.engOwner e) rightR (entLocal x.words) (8) = some ls ∧ (∀ e, e ∈ ls → s.lineFenced e.1 = false)) ∧
    (∃ (s : State) (e : Nat) (x : EngEnt) (node : Nat), s.Inv ∧ s.engNext e = some x ∧ entOp x.words = 3 ∧ s.fabOn = true ∧
      node = fvaNode (entFva x.words) ∧ node ≠ s.fabNode ∧ s.connsAt node = dfltConns 0 ∧ (s.conns.filter (·.2.used_)).length < 8192) ∧
    (∃ (s : State) (e : Nat) (x : EngEnt) (node : Nat), s.Inv ∧ s.engNext e = some x ∧ entOp x.words = 8 ∧ s.fabOn = true ∧
      node = fvaNode (entFva x.words) ∧ node ≠ s.fabNode ∧ (s.connsAt node).txOpen = true ∧
      s.fld (R.fabEngIdx e) F.fabEngIdx_OUTST < 512 ∧ sub32 (s.connsAt node).nextPsn (s.connsAt node).cumAck ≤ 2048 ∧
      s32ge (s.connsAt node).lim ((s.connsAt node).used + reqUnits (0)) = true ∧
      s.txUsed + (reqUnits (0) + (if entNores x.words then 0 else 1)) ≤ 65536) ∧
    (∃ (s : State) (e : Nat) (x : EngEnt) (node : Nat), s.Inv ∧ s.engNext e = some x ∧ entOp x.words = 8 ∧ s.fabOn = true ∧
      node = fvaNode (entFva x.words) ∧ node ≠ s.fabNode ∧ s.connsAt node = dfltConns 0 ∧ (s.conns.filter (·.2.used_)).length < 8192) :=
  ⟨⟨(st [.setF R.fabCfg F.fabCfg_EN 1, .setF (R.fhPortCfg 5) F.fhPortCfg_USE 2, .modSys fun y => { y with ports := [5] }, live 5 1, .modParts 5 fun x => { x with segs := [(0, 2 ^ 63 + 2 ^ 62 + 2 ^ 61 + 2 ^ 60, 0x100 * 2 ^ 32 + 256)], syncBase := 0x1100000 }, .setF (R.fabEngStat 3) F.fabEngStat_OWNER 5, .setEngs 3 ⟨[⟨512, [1 * 2 ^ 58 + 0 * 2 ^ 57 + 16, 9 * 2 ^ 48 + 8256, 7 * 2 ^ 32, 128, 3, 4, 0, 0], false, false, [], 0, 0⟩], []⟩, .setConns 9 ⟨false, true, 11, 10, 4, 9, [], true, 2, 20, 0, [], 8, 3, 8, []⟩, .setMem 0x1000084 0xAB]), 3, ⟨512, [1 * 2 ^ 58 + 0 * 2 ^ 57 + 16, 9 * 2 ^ 48 + 8256, 7 * 2 ^ 32, 128, 3, 4, 0, 0], false, false, [], 0, 0⟩, 9, (st_inv _), by decide +kernel⟩,
   ⟨(st [.setF R.fabCfg F.fabCfg_EN 1, .setF (R.fhPortCfg 5) F.fhPortCfg_USE 2, .modSys fun y => { y with ports := [5] }, live 5 1, .modParts 5 fun x => { x with segs := [(0, 2 ^ 63 + 2 ^ 62 + 2 ^ 61 + 2 ^ 60, 0x100 * 2 ^ 32 + 256)], syncBase := 0x1100000 }, .setF (R.fabEngStat 3) F.fabEngStat_OWNER 5, .setEngs 3 ⟨[⟨512, [1 * 2 ^ 58 + 0 * 2 ^ 57 + 16, 9 * 2 ^ 48 + 8256, 7 * 2 ^ 32, 128, 3, 4, 0, 0], false, false, [], 0, 0⟩], []⟩]), 3, ⟨512, [1 * 2 ^ 58 + 0 * 2 ^ 57 + 16, 9 * 2 ^ 48 + 8256, 7 * 2 ^ 32, 128, 3, 4, 0, 0], false, false, [], 0, 0⟩, 9, (st_inv _), by decide +kernel⟩,
   ⟨(st [.setF R.fabCfg F.fabCfg_EN 1, .setF (R.fhPortCfg 5) F.fhPortCfg_USE 2, .modSys fun y => { y with ports := [5] }, live 5 1, .modParts 5 fun x => { x with segs := [(0, 2 ^ 63 + 2 ^ 62 + 2 ^ 61 + 2 ^ 60, 0x100 * 2 ^ 32 + 256)], syncBase := 0x1100000 }, .setF (R.fabEngStat 3) F.fabEngStat_OWNER 5, .setEngs 3 ⟨[⟨512, [2 * 2 ^ 58 + 0 * 2 ^ 57 + 16, 9 * 2 ^ 48 + 8256, 7 * 2 ^ 32, 128, 3, 4, 0, 0], false, false, [], 0, 0⟩], []⟩, .setConns 9 ⟨false, true, 11, 10, 4, 9, [], true, 2, 20, 0, [], 8, 3, 8, []⟩, .setMem 0x1000084 0xAB]), 3, ⟨512, [2 * 2 ^ 58 + 0 * 2 ^ 57 + 16, 9 * 2 ^ 48 + 8256, 7 * 2 ^ 32, 128, 3, 4, 0, 0], false, false, [], 0, 0⟩, 9, [(0x1000080, 16)], (st_inv _), by decide +kernel⟩,
   ⟨(st [.setF R.fabCfg F.fabCfg_EN 1, .setF (R.fhPortCfg 5) F.fhPortCfg_USE 2, .modSys fun y => { y with ports := [5] }, live 5 1, .modParts 5 fun x => { x with segs := [(0, 2 ^ 63 + 2 ^ 62 + 2 ^ 61 + 2 ^ 60, 0x100 * 2 ^ 32 + 256)], syncBase := 0x1100000 }, .setF (R.fabEngStat 3) F.fabEngStat_OWNER 5, .setEngs 3 ⟨[⟨512, [2 * 2 ^ 58 + 0 * 2 ^ 57 + 16, 9 * 2 ^ 48 + 8256, 7 * 2 ^ 32, 128, 3, 4, 0, 0], false, false, [], 0, 0⟩], []⟩]), 3, ⟨512, [2 * 2 ^ 58 + 0 * 2 ^ 57 + 16, 9 * 2 ^ 48 + 8256, 7 * 2 ^ 32, 128, 3, 4, 0, 0], false, false, [], 0, 0⟩, 9, (st_inv _), by decide +kernel⟩,
   ⟨(st [.setF R.fabCfg F.fabCfg_EN 1, .setF (R.fhPortCfg 5) F.fhPortCfg_USE 2, .modSys fun y => { y with ports := [5] }, live 5 1, .modParts 5 fun x => { x with segs := [(0, 2 ^ 63 + 2 ^ 62 + 2 ^ 61 + 2 ^ 60, 0x100 * 2 ^ 32 + 256)], syncBase := 0x1100000 }, .setF (R.fabEngStat 3) F.fabEngStat_OWNER 5, .setEngs 3 ⟨[⟨512, [3 * 2 ^ 58 + 0 * 2 ^ 57 + 16, 9 * 2 ^ 48 + 8256, 7 * 2 ^ 32, 128, 3, 4, 0, 0], false, false, [], 0, 0⟩], []⟩, .setConns 9 ⟨false, true, 11, 10, 4, 9, [], true, 2, 20, 0, [], 8, 3, 8, []⟩, .setMem 0x1000084 0xAB]), 3, ⟨512, [3 * 2 ^ 58 + 0 * 2 ^ 57 + 16, 9 * 2 ^ 48 + 8256, 7 * 2 ^ 32, 128, 3, 4, 0, 0], false, false, [], 0, 0⟩, 9, [(0x1000080, 8)], (st_inv _), by decide +kernel⟩,
   ⟨(st [.setF R.fabCfg F.fabCfg_EN 1, .setF (R.fhPortCfg 5) F.fhPortCfg_USE 2, .modSys fun y => { y with ports := [5] }, live 5 1, .modParts 5 fun x => { x with segs := [(0, 2 ^ 63 + 2 ^ 62 + 2 ^ 61 + 2 ^ 60, 0x100 * 2 ^ 32 + 256)], syncBase := 0x1100000 }, .setF (R.fabEngStat 3) F.fabEngStat_OWNER 5, .setEngs 3 ⟨[⟨512, [3 * 2 ^ 58 + 0 * 2 ^ 57 + 16, 9 * 2 ^ 48 + 8256, 7 * 2 ^ 32, 128, 3, 4, 0, 0], false, false, [], 0, 0⟩], []⟩]), 3, ⟨512, [3 * 2 ^ 58 + 0 * 2 ^ 57 + 16, 9 * 2 ^ 48 + 8256, 7 * 2 ^ 32, 128, 3, 4, 0, 0], false, false, [], 0, 0⟩, 9, (st_inv _), by decide +kernel⟩,
   ⟨(st [.setF R.fabCfg F.fabCfg_EN 1, .setF (R.fhPortCfg 5) F.fhPortCfg_USE 2, .modSys fun y => { y with ports := [5] }, live 5 1, .modParts 5 fun x => { x with segs := [(0, 2 ^ 63 + 2 ^ 62 + 2 ^ 61 + 2 ^ 60, 0x100 * 2 ^ 32 + 256)], syncBase := 0x1100000 }, .setF (R.fabEngStat 3) F.fabEngStat_OWNER 5, .setEngs 3 ⟨[⟨512, [8 * 2 ^ 58 + 0 * 2 ^ 57 + 16, 9 * 2 ^ 48 + 8256, 7 * 2 ^ 32, 128, 3, 4, 0, 0], false, false, [], 0, 0⟩], []⟩, .setConns 9 ⟨false, true, 11, 10, 4, 9, [], true, 2, 20, 0, [], 8, 3, 8, []⟩, .setMem 0x1000084 0xAB]), 3, ⟨512, [8 * 2 ^ 58 + 0 * 2 ^ 57 + 16, 9 * 2 ^ 48 + 8256, 7 * 2 ^ 32, 128, 3, 4, 0, 0], false, false, [], 0, 0⟩, 9, (st_inv _), by decide +kernel⟩,
   ⟨(st [.setF R.fabCfg F.fabCfg_EN 1, .setF (R.fhPortCfg 5) F.fhPortCfg_USE 2, .modSys fun y => { y with ports := [5] }, live 5 1, .modParts 5 fun x => { x with segs := [(0, 2 ^ 63 + 2 ^ 62 + 2 ^ 61 + 2 ^ 60, 0x100 * 2 ^ 32 + 256)], syncBase := 0x1100000 }, .setF (R.fabEngStat 3) F.fabEngStat_OWNER 5, .setEngs 3 ⟨[⟨512, [8 * 2 ^ 58 + 0 * 2 ^ 57 + 16, 9 * 2 ^ 48 + 8256, 7 * 2 ^ 32, 128, 3, 4, 0, 0], false, false, [], 0, 0⟩], []⟩]), 3, ⟨512, [8 * 2 ^ 58 + 0 * 2 ^ 57 + 16, 9 * 2 ^ 48 + 8256, 7 * 2 ^ 32, 128, 3, 4, 0, 0], false, false, [], 0, 0⟩, 9, (st_inv _), by decide +kernel⟩⟩

/-- The hypotheses of EngineAtomics are met together. -/
theorem witness_engine_atomics :
    (∃ (s : State) (e : Nat) (x : EngEnt) (node : Nat), s.Inv ∧ s.engNext e = some x ∧ entOp x.words = 9 ∧ s.fabOn = true ∧
      node = fvaNode (entFva x.words) ∧ node ≠ s.fabNode ∧ (s.connsAt node).txOpen = true ∧
      s.fld (R.fabEngIdx e) F.fabEngIdx_OUTST < 512 ∧ sub32 (s.connsAt node).nextPsn (s.connsAt node).cumAck ≤ 2048 ∧
      s32ge (s.connsAt node).lim ((s.connsAt node).used + reqUnits (0)) = true ∧
      s.txUsed + (reqUnits (0) + (if entNores x.words then 0 else 1)) ≤ 65536) ∧
    (∃ (s : State) (e : Nat) (x : EngEnt) (node : Nat), s.Inv ∧ s.engNext e = some x ∧ entOp x.words = 9 ∧ s.fabOn = true ∧
      node = fvaNode (entFva x.words) ∧ node ≠ s.fabNode ∧ s.connsAt node = dfltConns 0 ∧ (s.conns.filter (·.2.used_)).length < 8192) ∧
    (∃ (s : State) (e : Nat) (x : EngEnt) (node : Nat), s.Inv ∧ s.engNext e = some x ∧ entOp x.words = 10 ∧ s.fabOn = true ∧
      node = fvaNode (entFva x.words) ∧ node ≠ s.fabNode ∧ (s.connsAt node).txOpen = true ∧
      s.fld (R.fabEngIdx e) F.fabEngIdx_OUTST < 512 ∧ sub32 (s.connsAt node).nextPsn (s.connsAt node).cumAck ≤ 2048 ∧
      s32ge (s.connsAt node).lim ((s.connsAt node).used + reqUnits (0)) = true ∧
      s.txUsed + (reqUnits (0) + (if entNores x.words then 0 else 1)) ≤ 65536) ∧
    (∃ (s : State) (e : Nat) (x : EngEnt) (node : Nat), s.Inv ∧ s.engNext e = some x ∧ entOp x.words = 10 ∧ s.fabOn = true ∧
      node = fvaNode (entFva x.words) ∧ node ≠ s.fabNode ∧ s.connsAt node = dfltConns 0 ∧ (s.conns.filter (·.2.used_)).length < 8192) ∧
    (∃ (s : State) (e : Nat) (x : EngEnt) (node : Nat), s.Inv ∧ s.engNext e = some x ∧ entOp x.words = 11 ∧ s.fabOn = true ∧
      node = fvaNode (entFva x.words) ∧ node ≠ s.fabNode ∧ (s.connsAt node).txOpen = true ∧
      s.fld (R.fabEngIdx e) F.fabEngIdx_OUTST < 512 ∧ sub32 (s.connsAt node).nextPsn (s.connsAt node).cumAck ≤ 2048 ∧
      s32ge (s.connsAt node).lim ((s.connsAt node).used + reqUnits (0)) = true ∧
      s.txUsed + (reqUnits (0) + (if entNores x.words then 0 else 1)) ≤ 65536) ∧
    (∃ (s : State) (e : Nat) (x : EngEnt) (node : Nat), s.Inv ∧ s.engNext e = some x ∧ entOp x.words = 11 ∧ s.fabOn = true ∧
      node = fvaNode (entFva x.words) ∧ node ≠ s.fabNode ∧ s.connsAt node = dfltConns 0 ∧ (s.conns.filter (·.2.used_)).length < 8192) ∧
    (∃ (s : State) (e : Nat) (x : EngEnt) (node : Nat), s.Inv ∧ s.engNext e = some x ∧ entOp x.words = 12 ∧ s.fabOn = true ∧
      node = fvaNode (entFva x.words) ∧ node ≠ s.fabNode ∧ (s.connsAt node).txOpen = true ∧
      s.fld (R.fabEngIdx e) F.fabEngIdx_OUTST < 512 ∧ sub32 (s.connsAt node).nextPsn (s.connsAt node).cumAck ≤ 2048 ∧
      s32ge (s.connsAt node).lim ((s.connsAt node).used + reqUnits (0)) = true ∧
      s.txUsed + (reqUnits (0) + (if entNores x.words then 0 else 1)) ≤ 65536) ∧
    (∃ (s : State) (e : Nat) (x : EngEnt) (node : Nat), s.Inv ∧ s.engNext e = some x ∧ entOp x.words = 12 ∧ s.fabOn = true ∧
      node = fvaNode (entFva x.words) ∧ node ≠ s.fabNode ∧ s.connsAt node = dfltConns 0 ∧ (s.conns.filter (·.2.used_)).length < 8192) :=
  ⟨⟨(st [.setF R.fabCfg F.fabCfg_EN 1, .setF (R.fhPortCfg 5) F.fhPortCfg_USE 2, .modSys fun y => { y with ports := [5] }, live 5 1, .modParts 5 fun x => { x with segs := [(0, 2 ^ 63 + 2 ^ 62 + 2 ^ 61 + 2 ^ 60, 0x100 * 2 ^ 32 + 256)], syncBase := 0x1100000 }, .setF (R.fabEngStat 3) F.fabEngStat_OWNER 5, .setEngs 3 ⟨[⟨512, [9 * 2 ^ 58 + 0 * 2 ^ 57 + 16, 9 * 2 ^ 48 + 8256, 7 * 2 ^ 32, 128, 3, 4, 0, 0], false, false, [], 0, 0⟩], []⟩, .setConns 9 ⟨false, true, 11, 10, 4, 9, [], true, 2, 20, 0, [], 8, 3, 8, []⟩, .setMem 0x1000084 0xAB]), 3, ⟨512, [9 * 2 ^ 58 + 0 * 2 ^ 57 + 16, 9 * 2 ^ 48 + 8256, 7 * 2 ^ 32, 128, 3, 4, 0, 0], false, false, [], 0, 0⟩, 9, (st_inv _), by decide +kernel⟩,
   ⟨(st [.setF R.fabCfg F.fabCfg_EN 1, .setF (R.fhPortCfg 5) F.fhPortCfg_USE 2, .modSys fun y => { y with ports := [5] }, live 5 1, .modParts 5 fun x => { x with segs := [(0, 2 ^ 63 + 2 ^ 62 + 2 ^ 61 + 2 ^ 60, 0x100 * 2 ^ 32 + 256)], syncBase := 0x1100000 }, .setF (R.fabEngStat 3) F.fabEngStat_OWNER 5, .setEngs 3 ⟨[⟨512, [9 * 2 ^ 58 + 0 * 2 ^ 57 + 16, 9 * 2 ^ 48 + 8256, 7 * 2 ^ 32, 128, 3, 4, 0, 0], false, false, [], 0, 0⟩], []⟩]), 3, ⟨512, [9 * 2 ^ 58 + 0 * 2 ^ 57 + 16, 9 * 2 ^ 48 + 8256, 7 * 2 ^ 32, 128, 3, 4, 0, 0], false, false, [], 0, 0⟩, 9, (st_inv _), by decide +kernel⟩,
   ⟨(st [.setF R.fabCfg F.fabCfg_EN 1, .setF (R.fhPortCfg 5) F.fhPortCfg_USE 2, .modSys fun y => { y with ports := [5] }, live 5 1, .modParts 5 fun x => { x with segs := [(0, 2 ^ 63 + 2 ^ 62 + 2 ^ 61 + 2 ^ 60, 0x100 * 2 ^ 32 + 256)], syncBase := 0x1100000 }, .setF (R.fabEngStat 3) F.fabEngStat_OWNER 5, .setEngs 3 ⟨[⟨512, [10 * 2 ^ 58 + 0 * 2 ^ 57 + 16, 9 * 2 ^ 48 + 8256, 7 * 2 ^ 32, 128, 3, 4, 0, 0], false, false, [], 0, 0⟩], []⟩, .setConns 9 ⟨false, true, 11, 10, 4, 9, [], true, 2, 20, 0, [], 8, 3, 8, []⟩, .setMem 0x1000084 0xAB]), 3, ⟨512, [10 * 2 ^ 58 + 0 * 2 ^ 57 + 16, 9 * 2 ^ 48 + 8256, 7 * 2 ^ 32, 128, 3, 4, 0, 0], false, false, [], 0, 0⟩, 9, (st_inv _), by decide +kernel⟩,
   ⟨(st [.setF R.fabCfg F.fabCfg_EN 1, .setF (R.fhPortCfg 5) F.fhPortCfg_USE 2, .modSys fun y => { y with ports := [5] }, live 5 1, .modParts 5 fun x => { x with segs := [(0, 2 ^ 63 + 2 ^ 62 + 2 ^ 61 + 2 ^ 60, 0x100 * 2 ^ 32 + 256)], syncBase := 0x1100000 }, .setF (R.fabEngStat 3) F.fabEngStat_OWNER 5, .setEngs 3 ⟨[⟨512, [10 * 2 ^ 58 + 0 * 2 ^ 57 + 16, 9 * 2 ^ 48 + 8256, 7 * 2 ^ 32, 128, 3, 4, 0, 0], false, false, [], 0, 0⟩], []⟩]), 3, ⟨512, [10 * 2 ^ 58 + 0 * 2 ^ 57 + 16, 9 * 2 ^ 48 + 8256, 7 * 2 ^ 32, 128, 3, 4, 0, 0], false, false, [], 0, 0⟩, 9, (st_inv _), by decide +kernel⟩,
   ⟨(st [.setF R.fabCfg F.fabCfg_EN 1, .setF (R.fhPortCfg 5) F.fhPortCfg_USE 2, .modSys fun y => { y with ports := [5] }, live 5 1, .modParts 5 fun x => { x with segs := [(0, 2 ^ 63 + 2 ^ 62 + 2 ^ 61 + 2 ^ 60, 0x100 * 2 ^ 32 + 256)], syncBase := 0x1100000 }, .setF (R.fabEngStat 3) F.fabEngStat_OWNER 5, .setEngs 3 ⟨[⟨512, [11 * 2 ^ 58 + 0 * 2 ^ 57 + 16, 9 * 2 ^ 48 + 8256, 7 * 2 ^ 32, 128, 3, 4, 0, 0], false, false, [], 0, 0⟩], []⟩, .setConns 9 ⟨false, true, 11, 10, 4, 9, [], true, 2, 20, 0, [], 8, 3, 8, []⟩, .setMem 0x1000084 0xAB]), 3, ⟨512, [11 * 2 ^ 58 + 0 * 2 ^ 57 + 16, 9 * 2 ^ 48 + 8256, 7 * 2 ^ 32, 128, 3, 4, 0, 0], false, false, [], 0, 0⟩, 9, (st_inv _), by decide +kernel⟩,
   ⟨(st [.setF R.fabCfg F.fabCfg_EN 1, .setF (R.fhPortCfg 5) F.fhPortCfg_USE 2, .modSys fun y => { y with ports := [5] }, live 5 1, .modParts 5 fun x => { x with segs := [(0, 2 ^ 63 + 2 ^ 62 + 2 ^ 61 + 2 ^ 60, 0x100 * 2 ^ 32 + 256)], syncBase := 0x1100000 }, .setF (R.fabEngStat 3) F.fabEngStat_OWNER 5, .setEngs 3 ⟨[⟨512, [11 * 2 ^ 58 + 0 * 2 ^ 57 + 16, 9 * 2 ^ 48 + 8256, 7 * 2 ^ 32, 128, 3, 4, 0, 0], false, false, [], 0, 0⟩], []⟩]), 3, ⟨512, [11 * 2 ^ 58 + 0 * 2 ^ 57 + 16, 9 * 2 ^ 48 + 8256, 7 * 2 ^ 32, 128, 3, 4, 0, 0], false, false, [], 0, 0⟩, 9, (st_inv _), by decide +kernel⟩,
   ⟨(st [.setF R.fabCfg F.fabCfg_EN 1, .setF (R.fhPortCfg 5) F.fhPortCfg_USE 2, .modSys fun y => { y with ports := [5] }, live 5 1, .modParts 5 fun x => { x with segs := [(0, 2 ^ 63 + 2 ^ 62 + 2 ^ 61 + 2 ^ 60, 0x100 * 2 ^ 32 + 256)], syncBase := 0x1100000 }, .setF (R.fabEngStat 3) F.fabEngStat_OWNER 5, .setEngs 3 ⟨[⟨512, [12 * 2 ^ 58 + 0 * 2 ^ 57 + 16, 9 * 2 ^ 48 + 8256, 7 * 2 ^ 32, 128, 3, 4, 0, 0], false, false, [], 0, 0⟩], []⟩, .setConns 9 ⟨false, true, 11, 10, 4, 9, [], true, 2, 20, 0, [], 8, 3, 8, []⟩, .setMem 0x1000084 0xAB]), 3, ⟨512, [12 * 2 ^ 58 + 0 * 2 ^ 57 + 16, 9 * 2 ^ 48 + 8256, 7 * 2 ^ 32, 128, 3, 4, 0, 0], false, false, [], 0, 0⟩, 9, (st_inv _), by decide +kernel⟩,
   ⟨(st [.setF R.fabCfg F.fabCfg_EN 1, .setF (R.fhPortCfg 5) F.fhPortCfg_USE 2, .modSys fun y => { y with ports := [5] }, live 5 1, .modParts 5 fun x => { x with segs := [(0, 2 ^ 63 + 2 ^ 62 + 2 ^ 61 + 2 ^ 60, 0x100 * 2 ^ 32 + 256)], syncBase := 0x1100000 }, .setF (R.fabEngStat 3) F.fabEngStat_OWNER 5, .setEngs 3 ⟨[⟨512, [12 * 2 ^ 58 + 0 * 2 ^ 57 + 16, 9 * 2 ^ 48 + 8256, 7 * 2 ^ 32, 128, 3, 4, 0, 0], false, false, [], 0, 0⟩], []⟩]), 3, ⟨512, [12 * 2 ^ 58 + 0 * 2 ^ 57 + 16, 9 * 2 ^ 48 + 8256, 7 * 2 ^ 32, 128, 3, 4, 0, 0], false, false, [], 0, 0⟩, 9, (st_inv _), by decide +kernel⟩⟩

/-- The hypotheses of EngineAtomics are met together. -/
theorem witness_engine_atomics_2 :
    (∃ (s : State) (e : Nat) (x : EngEnt) (node : Nat), s.Inv ∧ s.engNext e = some x ∧ entOp x.words = 16 ∧ s.fabOn = true ∧
      node = fvaNode (entFva x.words) ∧ node ≠ s.fabNode ∧ (s.connsAt node).txOpen = true ∧
      s.fld (R.fabEngIdx e) F.fabEngIdx_OUTST < 512 ∧ sub32 (s.connsAt node).nextPsn (s.connsAt node).cumAck ≤ 2048 ∧
      s32ge (s.connsAt node).lim ((s.connsAt node).used + reqUnits (0)) = true ∧ s.txUsed + (reqUnits (0)) ≤ 65536) ∧
    (∃ (s : State) (e : Nat) (x : EngEnt) (node : Nat), s.Inv ∧ s.engNext e = some x ∧ entOp x.words = 16 ∧ s.fabOn = true ∧
      node = fvaNode (entFva x.words) ∧ node ≠ s.fabNode ∧ s.connsAt node = dfltConns 0 ∧ (s.conns.filter (·.2.used_)).length < 8192) ∧
    (∃ (s : State) (e : Nat) (x : EngEnt) (node : Nat), s.Inv ∧ s.engNext e = some x ∧ entOp x.words = 1 ∧ s.fabOn = true ∧
      node = fvaNode (entFva x.words) ∧ node ≠ s.fabNode ∧ (s.connsAt node).txOpen = true ∧
      s.fld (R.fabEngIdx e) F.fabEngIdx_OUTST < 512 ∧ sub32 (s.connsAt node).nextPsn (s.connsAt node).cumAck ≤ 2048 ∧
      s32ge (s.connsAt node).lim ((s.connsAt node).used + reqUnits 0) = false) ∧
    (∃ (s : State) (e : Nat) (x : EngEnt) (a : Nat), s.Inv ∧ s.engNext e = some x ∧ (s.engsAt e).ents = [x] ∧ entOp x.words = 0 ∧
      bit (x.words.getD 0 0) 56 = false ∧ s.noErrors = true ∧ s.locate (s.engOwner e) rightW (x.slot + 56) 8 = some [(a, 8)] ∧
      s.dpaKind a = .kennel) ∧
    (∃ (s : State) (e : Nat) (x : EngEnt), s.Inv ∧ s.engNext e = some x ∧ entOp x.words = 0x20 ∧ (s.engsAt e).ents.any EngEnt.out = true) ∧
    (∃ (s : State) (e : Nat) (x : EngEnt) (a : Nat), s.Inv ∧ s.engNext e = some x ∧ (s.engsAt e).ents = [x] ∧ entOp x.words = 0x20 ∧
      bit (x.words.getD 0 0) 56 = false ∧ s.noErrors = true ∧ s.locate (s.engOwner e) rightW (x.slot + 56) 8 = some [(a, 8)] ∧
      s.dpaKind a = .kennel) ∧
    (∃ (s : State) (e : Nat) (pr : Nat) (at_ : Nat) (ls : List (Nat × Nat)) (w : List Nat), s.Inv ∧ e < 32 ∧
      s.sliceLive (s.engOwner e) = true ∧ s.sliceState (s.engOwner e) ≠ 4 ∧ (s.engsAt e).ents.all (·.sent) = true ∧ s.noErrors = true ∧
      (∀ x, x ∈ lineChunks (s.syncDpa (s.engOwner e) (s.fld (R.fabEngRing e) F.fabEngRing_PROD_IDX)) 4 → s.lineFenced x.1 = false) ∧
      (pr = leNat ((lineChunks (s.syncDpa (s.engOwner e) (s.fld (R.fabEngRing e) F.fabEngRing_PROD_IDX)) 4).flatMap fun x => s.readBytes
      x.1 x.2)) ∧ pr ≠ s.fld (R.fabEngIdx e) F.fabEngIdx_CONS ∧ s32ge pr (s.fld (R.fabEngIdx e) F.fabEngIdx_CONS) = true ∧
      at_ = s.fld (R.fabEngRing e) F.fabEngRing_RING_SA / 64 * 64 + 64 * (s.fld (R.fabEngIdx e) F.fabEngIdx_CONS % 2 ^ (s.fld
      (R.fabEngRing e) F.fabEngRing_SIZE + 6)) ∧ s.locate (s.engOwner e) rightR at_ 64 = some ls ∧ (∀ e, e ∈ ls →
      s.lineFenced e.1 = false) ∧ (w = (toWords (ls.flatMap fun x => s.readBytes x.1 x.2)).map (·.toNat)) ∧ entBad w = false) :=
  ⟨⟨(st [.setF R.fabCfg F.fabCfg_EN 1, .setF (R.fhPortCfg 5) F.fhPortCfg_USE 2, .modSys fun y => { y with ports := [5] }, live 5 1, .modParts 5 fun x => { x with segs := [(0, 2 ^ 63 + 2 ^ 62 + 2 ^ 61 + 2 ^ 60, 0x100 * 2 ^ 32 + 256)], syncBase := 0x1100000 }, .setF (R.fabEngStat 3) F.fabEngStat_OWNER 5, .setEngs 3 ⟨[⟨512, [16 * 2 ^ 58 + 0 * 2 ^ 57 + 16, 9 * 2 ^ 48 + 8256, 7 * 2 ^ 32, 128, 3, 4, 0, 0], false, false, [], 0, 0⟩], []⟩, .setConns 9 ⟨false, true, 11, 10, 4, 9, [], true, 2, 20, 0, [], 8, 3, 8, []⟩, .setMem 0x1000084 0xAB]), 3, ⟨512, [16 * 2 ^ 58 + 0 * 2 ^ 57 + 16, 9 * 2 ^ 48 + 8256, 7 * 2 ^ 32, 128, 3, 4, 0, 0], false, false, [], 0, 0⟩, 9, (st_inv _), by decide +kernel⟩,
   ⟨(st [.setF R.fabCfg F.fabCfg_EN 1, .setF (R.fhPortCfg 5) F.fhPortCfg_USE 2, .modSys fun y => { y with ports := [5] }, live 5 1, .modParts 5 fun x => { x with segs := [(0, 2 ^ 63 + 2 ^ 62 + 2 ^ 61 + 2 ^ 60, 0x100 * 2 ^ 32 + 256)], syncBase := 0x1100000 }, .setF (R.fabEngStat 3) F.fabEngStat_OWNER 5, .setEngs 3 ⟨[⟨512, [16 * 2 ^ 58 + 0 * 2 ^ 57 + 16, 9 * 2 ^ 48 + 8256, 7 * 2 ^ 32, 128, 3, 4, 0, 0], false, false, [], 0, 0⟩], []⟩]), 3, ⟨512, [16 * 2 ^ 58 + 0 * 2 ^ 57 + 16, 9 * 2 ^ 48 + 8256, 7 * 2 ^ 32, 128, 3, 4, 0, 0], false, false, [], 0, 0⟩, 9, (st_inv _), by decide +kernel⟩,
   ⟨(st [.setF R.fabCfg F.fabCfg_EN 1, .setF (R.fhPortCfg 5) F.fhPortCfg_USE 2, .modSys fun y => { y with ports := [5] }, live 5 1, .modParts 5 fun x => { x with segs := [(0, 2 ^ 63 + 2 ^ 62 + 2 ^ 61 + 2 ^ 60, 0x100 * 2 ^ 32 + 256)], syncBase := 0x1100000 }, .setF (R.fabEngStat 3) F.fabEngStat_OWNER 5, .setEngs 3 ⟨[⟨512, [1 * 2 ^ 58 + 0 * 2 ^ 57 + 16, 9 * 2 ^ 48 + 8256, 7 * 2 ^ 32, 128, 3, 4, 0, 0], false, false, [], 0, 0⟩], []⟩, .setConns 9 ⟨false, true, 11, 10, 4, 4, [], true, 2, 20, 0, [], 8, 3, 8, []⟩]), 3, ⟨512, [1 * 2 ^ 58 + 0 * 2 ^ 57 + 16, 9 * 2 ^ 48 + 8256, 7 * 2 ^ 32, 128, 3, 4, 0, 0], false, false, [], 0, 0⟩, 9, (st_inv _), by decide +kernel⟩,
   ⟨(st [live 5 1, .modParts 5 fun x => { x with segs := [(0, 2 ^ 63 + 2 ^ 62 + 2 ^ 61 + 2 ^ 60, 0x100 * 2 ^ 32 + 256)], syncBase := 0x1100000 }, .setF (R.fabEngStat 3) F.fabEngStat_OWNER 5, .setEngs 3 ⟨[⟨512, [0 * 2 ^ 58 + 0 * 2 ^ 57 + 16, 9 * 2 ^ 48 + 8256, 7 * 2 ^ 32, 128, 3, 4, 0, 0], false, false, [], 0, 0⟩], []⟩]), 3, ⟨512, [0 * 2 ^ 58 + 0 * 2 ^ 57 + 16, 9 * 2 ^ 48 + 8256, 7 * 2 ^ 32, 128, 3, 4, 0, 0], false, false, [], 0, 0⟩, 0x1000238, (st_inv _), by decide +kernel⟩,
   ⟨(st [live 5 1, .modParts 5 fun x => { x with segs := [(0, 2 ^ 63 + 2 ^ 62 + 2 ^ 61 + 2 ^ 60, 0x100 * 2 ^ 32 + 256)], syncBase := 0x1100000 }, .setF (R.fabEngStat 3) F.fabEngStat_OWNER 5, .setEngs 3 ⟨[⟨256, [1 * 2 ^ 58 + 0 * 2 ^ 57 + 16, 9 * 2 ^ 48 + 8256, 7 * 2 ^ 32, 128, 3, 4, 0, 0], true, false, [], 9, 10⟩, ⟨512, [32 * 2 ^ 58 + 0 * 2 ^ 57 + 16, 9 * 2 ^ 48 + 8256, 7 * 2 ^ 32, 128, 3, 4, 0, 0], false, false, [], 0, 0⟩], [(9, 10)]⟩]), 3, ⟨512, [32 * 2 ^ 58 + 0 * 2 ^ 57 + 16, 9 * 2 ^ 48 + 8256, 7 * 2 ^ 32, 128, 3, 4, 0, 0], false, false, [], 0, 0⟩, (st_inv _), by decide +kernel⟩,
   ⟨(st [live 5 1, .modParts 5 fun x => { x with segs := [(0, 2 ^ 63 + 2 ^ 62 + 2 ^ 61 + 2 ^ 60, 0x100 * 2 ^ 32 + 256)], syncBase := 0x1100000 }, .setF (R.fabEngStat 3) F.fabEngStat_OWNER 5, .setEngs 3 ⟨[⟨512, [32 * 2 ^ 58 + 0 * 2 ^ 57 + 16, 9 * 2 ^ 48 + 8256, 7 * 2 ^ 32, 128, 3, 4, 0, 0], false, false, [], 0, 0⟩], []⟩]), 3, ⟨512, [32 * 2 ^ 58 + 0 * 2 ^ 57 + 16, 9 * 2 ^ 48 + 8256, 7 * 2 ^ 32, 128, 3, 4, 0, 0], false, false, [], 0, 0⟩, 0x1000238, (st_inv _), by decide +kernel⟩,
   ⟨(st [live 5 1, .modParts 5 fun x => { x with segs := [(0, 2 ^ 63 + 2 ^ 62 + 2 ^ 61 + 2 ^ 60, 0x100 * 2 ^ 32 + 256)], syncBase := 0x1100000 }, .setF (R.fabEngStat 3) F.fabEngStat_OWNER 5, .setMem 0x1100000 5, .setF (R.fabEngIdx 3) F.fabEngIdx_CONS 4]), 3, 5, 0x100, [(0x1000100, 64)], List.replicate 8 0, (st_inv _), by decide +kernel⟩⟩

/-- The hypotheses of FabricReception are met together. -/
theorem witness_fabric_reception :
    (∃ (s : State) (r : FabReq) (a : Nat), s.Inv ∧ r.dstNode = s.fabNode ∧ r.syn = false ∧ s.fabOn = true ∧ r.crcOk = true ∧
      (s.connsAt r.srcNode).rxOpen = true ∧ (s.connsAt r.srcNode).peerInc = r.incarn ∧ r.nop = false ∧
      sub32 r.psn (s.connsAt r.srcNode).rxCum = 1 ∧ (s.connsAt r.srcNode).rxMap = 0 ∧ (s.connsAt r.srcNode).held = [] ∧
      (r.op = 2 ∨ r.op = 3) ∧ s.rgnOk r.op r.len r.fva r.key = true ∧
      a = s.fld (R.fabRgn1 (fvaRegion r.fva)) F.fabRgn1_DPA_BASE + fvaOff r.fva ∧
      lineChunks a (opSize r.op r.len) = [(a, opSize r.op r.len)] ∧ r.payload.length = opSize r.op r.len ∧ s.noErrors = true ∧
      s.dpaKind a = .kennel) ∧
    (∃ (s : State) (r : FabReq) (a : Nat), s.Inv ∧ r.dstNode = s.fabNode ∧ r.syn = false ∧ s.fabOn = true ∧ r.crcOk = true ∧
      (s.connsAt r.srcNode).rxOpen = true ∧ (s.connsAt r.srcNode).peerInc = r.incarn ∧ r.nop = false ∧
      sub32 r.psn (s.connsAt r.srcNode).rxCum = 1 ∧ (s.connsAt r.srcNode).rxMap = 0 ∧ (s.connsAt r.srcNode).held = [] ∧ r.op = 8 ∧
      r.nores = false ∧ s.rgnOk r.op r.len r.fva r.key = true ∧
      a = s.fld (R.fabRgn1 (fvaRegion r.fva)) F.fabRgn1_DPA_BASE + fvaOff r.fva ∧ lineChunks a 8 = [(a, 8)] ∧ s.noErrors = true ∧
      s.dpaKind a = .kennel) ∧
    (∃ (s : State) (r : FabReq), s.Inv ∧ r.dstNode = s.fabNode ∧ r.syn = false ∧ s.fabOn = true ∧ r.crcOk = true ∧
      (s.connsAt r.srcNode).rxOpen = true ∧ (s.connsAt r.srcNode).peerInc = r.incarn ∧ r.nop = false ∧
      sub32 r.psn (s.connsAt r.srcNode).rxCum = 1 ∧ (s.connsAt r.srcNode).rxMap = 0 ∧ (s.connsAt r.srcNode).held = [] ∧
      (r.op = 2 ∨ r.op = 1) ∧ s.rgnOk r.op r.len r.fva r.key = false) ∧
    (∃ (s : State) (r : FabReq), s.Inv ∧ r.dstNode = s.fabNode ∧ r.syn = false ∧ s.fabOn = true ∧ r.crcOk = true ∧
      (s.connsAt r.srcNode).rxOpen = true ∧ (s.connsAt r.srcNode).peerInc = r.incarn ∧ r.nop = false ∧ r.op = 3 ∧
      sub32 r.psn (s.connsAt r.srcNode).rxCum = 2 ∧ bit (s.connsAt r.srcNode).rxMap 1 = false ∧ (s.connsAt r.srcNode).held = []) ∧
    (∃ (s : State) (r : FabReq), s.Inv ∧ r.dstNode = s.fabNode ∧ r.syn = false ∧ s.fabOn = true ∧ r.crcOk = true ∧
      (s.connsAt r.srcNode).rxOpen = true ∧ (s.connsAt r.srcNode).peerInc = r.incarn ∧ r.nop = false ∧ r.op ≠ 1 ∧
      sub32 r.psn (s.connsAt r.srcNode).rxCum = 0) :=
  ⟨⟨(st [.setF R.fabCfg F.fabCfg_EN 1, .setF (R.fhPortCfg 5) F.fhPortCfg_USE 2, .modSys fun y => { y with ports := [5] }, .setRegs (R.fabRgn0 0) (BitVec.ofNat 64 (15 * 2 ^ 60 + 7)), .setRegs (R.fabRgn1 0) 0x1200000, .setRegs (R.fabRgn2 0) 256, .setConns 9 ⟨false, true, 11, 10, 4, 9, [], true, 2, 20, 0, [], 8, 3, 8, []⟩]), ⟨9, 0xFFFF, 2, 21, 0, 7, 2, false, 8, 8256, 3, 4, false, false, List.replicate 8 0xAB, true⟩, 0x1202040, (st_inv _), by decide +kernel, by decide +kernel, by decide +kernel, by decide +kernel, by decide +kernel, by decide +kernel, by decide +kernel, by decide +kernel, by decide +kernel, by decide +kernel, .inl rfl, by decide +kernel, by decide +kernel, by decide +kernel, by decide +kernel, by decide +kernel, by decide +kernel⟩,
   ⟨(st [.setF R.fabCfg F.fabCfg_EN 1, .setF (R.fhPortCfg 5) F.fhPortCfg_USE 2, .modSys fun y => { y with ports := [5] }, .setRegs (R.fabRgn0 0) (BitVec.ofNat 64 (15 * 2 ^ 60 + 7)), .setRegs (R.fabRgn1 0) 0x1200000, .setRegs (R.fabRgn2 0) 256, .setConns 9 ⟨false, true, 11, 10, 4, 9, [], true, 2, 20, 0, [], 8, 3, 8, []⟩, .setMem 0x1202040 0xFF]), ⟨9, 0xFFFF, 2, 21, 0, 7, 8, false, 8, 8256, 3, 4, false, false, [], true⟩, 0x1202040, (st_inv _), by decide +kernel⟩,
   ⟨(st [.setF R.fabCfg F.fabCfg_EN 1, .setF (R.fhPortCfg 5) F.fhPortCfg_USE 2, .modSys fun y => { y with ports := [5] }, .setRegs (R.fabRgn0 0) (BitVec.ofNat 64 (15 * 2 ^ 60 + 7)), .setRegs (R.fabRgn1 0) 0x1200000, .setRegs (R.fabRgn2 0) 256, .setConns 9 ⟨false, true, 11, 10, 4, 9, [], true, 2, 20, 0, [], 8, 3, 8, []⟩]), ⟨9, 0xFFFF, 2, 21, 0, 6, 2, false, 8, 8256, 3, 4, false, false, List.replicate 8 0xAB, true⟩, (st_inv _), by decide +kernel, by decide +kernel, by decide +kernel, by decide +kernel, by decide +kernel, by decide +kernel, by decide +kernel, by decide +kernel, by decide +kernel, by decide +kernel, .inl rfl, by decide +kernel⟩,
   ⟨(st [.setF R.fabCfg F.fabCfg_EN 1, .setF (R.fhPortCfg 5) F.fhPortCfg_USE 2, .modSys fun y => { y with ports := [5] }, .setRegs (R.fabRgn0 0) (BitVec.ofNat 64 (15 * 2 ^ 60 + 7)), .setRegs (R.fabRgn1 0) 0x1200000, .setRegs (R.fabRgn2 0) 256, .setConns 9 ⟨false, true, 11, 10, 4, 9, [], true, 2, 20, 0, [], 8, 3, 8, []⟩]), ⟨9, 0xFFFF, 2, 22, 0, 7, 3, false, 8, 8256, 3, 4, false, false, List.replicate 8 0xAB, true⟩, (st_inv _), by decide +kernel⟩,
   ⟨(st [.setF R.fabCfg F.fabCfg_EN 1, .setF (R.fhPortCfg 5) F.fhPortCfg_USE 2, .modSys fun y => { y with ports := [5] }, .setRegs (R.fabRgn0 0) (BitVec.ofNat 64 (15 * 2 ^ 60 + 7)), .setRegs (R.fabRgn1 0) 0x1200000, .setRegs (R.fabRgn2 0) 256, .setConns 9 ⟨false, true, 11, 10, 4, 9, [], true, 2, 20, 0, [], 8, 3, 8, []⟩]), ⟨9, 0xFFFF, 2, 20, 0, 7, 8, false, 8, 8256, 3, 4, false, false, List.replicate 8 0xAB, true⟩, (st_inv _), by decide +kernel⟩⟩

/-- The hypotheses of FabricReception are met together. -/
theorem witness_fabric_reception_2 :
    (∃ (s : State) (r : FabReq), s.Inv ∧ r.dstNode = s.fabNode ∧ r.syn = false ∧ s.fabOn = true ∧ r.crcOk = true ∧
      ((s.connsAt r.srcNode).rxOpen = false ∨ (s.connsAt r.srcNode).peerInc ≠ r.incarn)) ∧
    (∃ (s : State) (r : FabReq), s.Inv ∧ r.dstNode = s.fabNode ∧ r.syn = false ∧ s.fabOn = true ∧ r.crcOk = false) ∧
    (∃ (s : State) (node : Nat) (psn : Nat) (r : FabReq) (a : Nat), s.Inv ∧ (s.connsAt node).held.find? (·.psn == psn) = some r ∧
      s.fabOn = true ∧ sub32 psn (s.connsAt node).rxCum = 1 ∧ r.op = 3 ∧ r.srcNode = node ∧ r.payload.length = 8 ∧
      s.rgnOk r.op r.len r.fva r.key = true ∧ a = s.fld (R.fabRgn1 (fvaRegion r.fva)) F.fabRgn1_DPA_BASE + fvaOff r.fva ∧
      lineChunks a 8 = [(a, 8)] ∧ s.noErrors = true ∧ s.dpaKind a = .kennel ∧ (s.connsAt node).rxMap = 0) ∧
    (∃ (s : State) (r : FabReq), s.Inv ∧ r.syn = true ∧ r.dstNode = s.fabNode ∧ s.fabOn = true ∧ r.crcOk = true ∧
      s.connsAt r.srcNode = dfltConns 0 ∧ (s.conns.filter (·.2.used_)).length < 8192) :=
  ⟨⟨(st [.setF R.fabCfg F.fabCfg_EN 1, .setF (R.fhPortCfg 5) F.fhPortCfg_USE 2, .modSys fun y => { y with ports := [5] }]), ⟨9, 0xFFFF, 2, 21, 0, 7, 8, false, 8, 8256, 3, 4, false, false, List.replicate 8 0xAB, true⟩, (st_inv _), by decide +kernel⟩,
   ⟨(st [.setF R.fabCfg F.fabCfg_EN 1, .setF (R.fhPortCfg 5) F.fhPortCfg_USE 2, .modSys fun y => { y with ports := [5] }]), ⟨9, 0xFFFF, 2, 21, 0, 7, 8, false, 8, 8256, 3, 4, false, false, List.replicate 8 0xAB, false⟩, (st_inv _), by decide +kernel⟩,
   ⟨(st [.setF R.fabCfg F.fabCfg_EN 1, .setF (R.fhPortCfg 5) F.fhPortCfg_USE 2, .modSys fun y => { y with ports := [5] }, .setRegs (R.fabRgn0 0) (BitVec.ofNat 64 (15 * 2 ^ 60 + 7)), .setRegs (R.fabRgn1 0) 0x1200000, .setRegs (R.fabRgn2 0) 256, .setConns 9 ⟨false, true, 11, 10, 4, 9, [], true, 2, 20, 0, [], 8, 3, 8, [⟨9, 0xFFFF, 2, 21, 0, 7, 3, false, 8, 8256, 3, 4, false, false, List.replicate 8 0xAB, true⟩]⟩]), 9, 21, ⟨9, 0xFFFF, 2, 21, 0, 7, 3, false, 8, 8256, 3, 4, false, false, List.replicate 8 0xAB, true⟩, 0x1202040, (st_inv _), by decide +kernel⟩,
   ⟨(st [.setF R.fabCfg F.fabCfg_EN 1, .setF (R.fhPortCfg 5) F.fhPortCfg_USE 2, .modSys fun y => { y with ports := [5] }]), ⟨9, 0xFFFF, 2, 21, 0, 7, 0, false, 8, 8256, 3, 4, true, true, [], true⟩, (st_inv _), by decide +kernel⟩⟩

/-- The hypotheses of FabricAcknowledgement are met together. -/
theorem witness_fabric_acknowledgement :
    (∃ (s : State) (a : FabAck), s.Inv ∧ s.fabOn = true ∧ a.crcOk = true ∧ a.rspStatus ≠ 2 ∧ a.syn = true ∧
      (s.connsAt a.srcNode).synSent = true) ∧
    (∃ (s : State) (a : FabAck), s.Inv ∧ s.fabOn = true ∧ a.crcOk = true ∧ a.rspStatus ≠ 2 ∧ (s.connsAt a.srcNode).synSent = false ∧
      (s.connsAt a.srcNode).txOpen = true ∧ (s.connsAt a.srcNode).peerInc = a.incarn ∧ a.rspValid = false) ∧
    (∃ (s : State) (a : FabAck) (e : Nat) (x : EngEnt) (q : OutReq) (d : Nat) (last : List (Nat × Nat)), s.Inv ∧ s.fabOn = true ∧
      a.crcOk = true ∧ a.rspStatus ≠ 2 ∧ (s.connsAt a.srcNode).synSent = false ∧ (s.connsAt a.srcNode).txOpen = true ∧
      (s.connsAt a.srcNode).peerInc = a.incarn ∧ a.rspValid = false ∧ s.engs = [(e, ⟨[x], last⟩)] ∧ (s.connsAt a.srcNode).out = [q] ∧
      q.psn = a.cumPsn ∧ q.rspDue = false ∧ q.dead = false ∧ q.eng = e ∧ q.slot = x.slot ∧ q.wrap = false ∧ x.done = false ∧
      entOp x.words = 2 ∧ bit (x.words.getD 0 0) 56 = false ∧ s.noErrors = true ∧
      s.locate (s.engOwner e) rightW (x.slot + 56) 8 = some [(d, 8)] ∧ s.dpaKind d = .kennel) ∧
    (∃ (s : State) (node : Nat) (incarn : Nat) (lim : Nat), s.Inv ∧ s.fabOn = true ∧ (s.connsAt node).txOpen = true ∧
      (s.connsAt node).peerInc = incarn) ∧
    (∃ (s : State) (node : Nat) (psn : Nat) (q : OutReq), s.Inv ∧ s.fabOn = true ∧ (s.connsAt node).synSent = false ∧
      (s.connsAt node).out.find? (·.psn == psn) = some q) ∧
    (∃ (s : State) (node : Nat) (psn : Nat), s.Inv ∧ s.fabOn = true ∧ (s.connsAt node).synSent = true) ∧
    (∃ (s : State) (node : Nat) (q : Nat), s.Inv ∧ s.fabOn = true ∧ (s.connsAt node).txOpen = true ∧ s.fabPorts ≠ [] ∧
      q = sub32 (s.connsAt node).nextPsn 1) ∧
    (∃ (s : State) (node : Nat) (q : Nat), s.Inv ∧ s.fabOn = true ∧ (s.connsAt node).rxOpen = true ∧
      (s.connsAt node).told ≠ (s.connsAt node).grant ∧ s.fabPorts ≠ [] ∧ q = (s.connsAt node).rxCum) :=
  ⟨⟨(st [.setF R.fabCfg F.fabCfg_EN 1, .setF (R.fhPortCfg 5) F.fhPortCfg_USE 2, .modSys fun y => { y with ports := [5] }, .setConns 9 ⟨true, false, 11, 10, 4, 9, [], false, 2, 20, 0, [], 8, 3, 8, []⟩]), ⟨9, 2, true, 11, 0, 0, 0, false, false, false, 20, [], true⟩, (st_inv _), by decide +kernel⟩,
   ⟨(st [.setF R.fabCfg F.fabCfg_EN 1, .setF (R.fhPortCfg 5) F.fhPortCfg_USE 2, .modSys fun y => { y with ports := [5] }, live 5 1, .modParts 5 fun x => { x with segs := [(0, 2 ^ 63 + 2 ^ 62 + 2 ^ 61 + 2 ^ 60, 0x100 * 2 ^ 32 + 256)], syncBase := 0x1100000 }, .setF (R.fabEngStat 3) F.fabEngStat_OWNER 5, .setEngs 3 ⟨[⟨512, [2 * 2 ^ 58 + 0 * 2 ^ 57 + 16, 9 * 2 ^ 48 + 8256, 7 * 2 ^ 32, 128, 3, 4, 0, 0], true, false, [], 9, 11⟩], []⟩, .setConns 9 ⟨false, true, 12, 10, 4, 9, [⟨11, 3, 512, 2, false, 0, 7, 8, 3, 4, [], 1, 0, false, false, false, false⟩], true, 2, 20, 0, [], 8, 3, 8, []⟩]), ⟨9, 2, false, 11, 0, 0, 0, false, false, false, 20, [], true⟩, (st_inv _), by decide +kernel⟩,
   ⟨(st [.setF R.fabCfg F.fabCfg_EN 1, .setF (R.fhPortCfg 5) F.fhPortCfg_USE 2, .modSys fun y => { y with ports := [5] }, live 5 1, .modParts 5 fun x => { x with segs := [(0, 2 ^ 63 + 2 ^ 62 + 2 ^ 61 + 2 ^ 60, 0x100 * 2 ^ 32 + 256)], syncBase := 0x1100000 }, .setF (R.fabEngStat 3) F.fabEngStat_OWNER 5, .setEngs 3 ⟨[⟨512, [2 * 2 ^ 58 + 0 * 2 ^ 57 + 16, 9 * 2 ^ 48 + 8256, 7 * 2 ^ 32, 128, 3, 4, 0, 0], true, false, [], 9, 11⟩], [(9, 11)]⟩, .setConns 9 ⟨false, true, 12, 10, 4, 9, [⟨11, 3, 512, 2, false, 0, 7, 8, 3, 4, [], 1, 0, false, false, false, false⟩], true, 2, 20, 0, [], 8, 3, 8, []⟩]), ⟨9, 2, false, 11, 0, 0, 0, false, false, false, 20, [], true⟩, 3, ⟨512, [2 * 2 ^ 58 + 0 * 2 ^ 57 + 16, 9 * 2 ^ 48 + 8256, 7 * 2 ^ 32, 128, 3, 4, 0, 0], true, false, [], 9, 11⟩, ⟨11, 3, 512, 2, false, 0, 7, 8, 3, 4, [], 1, 0, false, false, false, false⟩, 0x1000238, [(9, 11)], (st_inv _), by decide +kernel⟩,
   ⟨(st [.setF R.fabCfg F.fabCfg_EN 1, .setF (R.fhPortCfg 5) F.fhPortCfg_USE 2, .modSys fun y => { y with ports := [5] }, .setConns 9 ⟨false, true, 11, 10, 4, 9, [], true, 2, 20, 0, [], 8, 3, 8, []⟩]), 9, 2, 2 ^ 32 + 20, (st_inv _), by decide +kernel⟩,
   ⟨(st [.setF R.fabCfg F.fabCfg_EN 1, .setF (R.fhPortCfg 5) F.fhPortCfg_USE 2, .modSys fun y => { y with ports := [5] }, .setConns 9 ⟨false, true, 12, 10, 4, 9, [⟨11, 3, 512, 1, false, 0, 7, 8, 3, 4, [], 1, 0, false, false, false, false⟩], true, 2, 20, 0, [], 8, 3, 8, []⟩]), 9, 11, ⟨11, 3, 512, 1, false, 0, 7, 8, 3, 4, [], 1, 0, false, false, false, false⟩, (st_inv _), by decide +kernel⟩,
   ⟨(st [.setF R.fabCfg F.fabCfg_EN 1, .setF (R.fhPortCfg 5) F.fhPortCfg_USE 2, .modSys fun y => { y with ports := [5] }, .setConns 9 ⟨true, false, 11, 10, 4, 9, [], true, 2, 20, 0, [], 8, 3, 8, []⟩]), 9, 11, (st_inv _), by decide +kernel⟩,
   ⟨(st [.setF R.fabCfg F.fabCfg_EN 1, .setF (R.fhPortCfg 5) F.fhPortCfg_USE 2, .modSys fun y => { y with ports := [5] }, .setConns 9 ⟨false, true, 11, 10, 4, 9, [], true, 2, 20, 0, [], 8, 3, 8, []⟩]), 9, 10, (st_inv _), by decide +kernel⟩,
   ⟨(st [.setF R.fabCfg F.fabCfg_EN 1, .setF (R.fhPortCfg 5) F.fhPortCfg_USE 2, .modSys fun y => { y with ports := [5] }, .setConns 9 ⟨false, true, 11, 10, 4, 9, [], true, 2, 20, 0, [], 8, 3, 5, []⟩]), 9, 20, (st_inv _), by decide +kernel⟩⟩

/-- The hypotheses of FabricAcknowledgement are met together. -/
theorem witness_fabric_acknowledgement_2 :
    (∃ (s : State) (node : Nat) (psn : Nat) (q : OutReq), s.Inv ∧ (s.connsAt node).out.find? (·.psn == psn) = some q ∧
      s.sliceLive (s.engOwner q.eng) = true ∧ q.dead = false) ∧
    (∃ (s : State) (node : Nat) (psn : Nat) (q : OutReq), s.Inv ∧ (s.connsAt node).out.find? (·.psn == psn) = some q ∧ q.dead = true) ∧
    (∃ (s : State) (node : Nat), s.Inv ∧ (s.connsAt node).used_ = true ∧ (s.connsAt node).synSent = false ∧ (s.connsAt node).out = [] ∧
      (s.connsAt node).held = []) ∧
    (∃ (s : State) (r : Nat) (val : Word), s.Inv ∧ r < 4096 ∧ F.fabRgn0_V.get val = 1 ∧ s.rgnValid r (F.fabRgn0_OWNER.get val) = true) ∧
    (∃ (s : State) (r : Nat) (val : Word), s.Inv ∧ r < 4096 ∧ F.fabRgn0_V.get val = 1 ∧ s.rgnValid r (F.fabRgn0_OWNER.get val) = false) ∧
    (∃ (s : State) (r : Nat) (val : Word), s.Inv ∧ r < 4096 ∧ s.flag (R.fabRgn0 r) F.fabRgn0_V = false ∧
      F.fabRgn1_DPA_BASE.get val % 4096 = 0) ∧
    (∃ (s : State) (r : Nat) (val : Word), s.Inv ∧ r < 4096 ∧ s.flag (R.fabRgn0 r) F.fabRgn0_V = false ∧ F.fabRgn2_LEN.get val ≠ 0) :=
  ⟨⟨(st [.setF R.fabCfg F.fabCfg_EN 1, .setF (R.fhPortCfg 5) F.fhPortCfg_USE 2, .modSys fun y => { y with ports := [5] }, live 5 1, .modParts 5 fun x => { x with segs := [(0, 2 ^ 63 + 2 ^ 62 + 2 ^ 61 + 2 ^ 60, 0x100 * 2 ^ 32 + 256)], syncBase := 0x1100000 }, .setF (R.fabEngStat 3) F.fabEngStat_OWNER 5, .setConns 9 ⟨false, true, 12, 10, 4, 9, [⟨11, 3, 512, 1, false, 0, 7, 8, 3, 4, [], 1, 0, false, false, false, false⟩], true, 2, 20, 0, [], 8, 3, 8, []⟩]), 9, 11, ⟨11, 3, 512, 1, false, 0, 7, 8, 3, 4, [], 1, 0, false, false, false, false⟩, (st_inv _), by decide +kernel⟩,
   ⟨(st [.setF R.fabCfg F.fabCfg_EN 1, .setF (R.fhPortCfg 5) F.fhPortCfg_USE 2, .modSys fun y => { y with ports := [5] }, .setConns 9 ⟨false, true, 12, 10, 4, 9, [⟨11, 3, 512, 1, false, 0, 7, 8, 3, 4, [], 1, 0, false, false, false, true⟩], true, 2, 20, 0, [], 8, 3, 8, []⟩]), 9, 11, ⟨11, 3, 512, 1, false, 0, 7, 8, 3, 4, [], 1, 0, false, false, false, true⟩, (st_inv _), by decide +kernel⟩,
   ⟨(st [.setF R.fabCfg F.fabCfg_EN 1, .setF (R.fhPortCfg 5) F.fhPortCfg_USE 2, .modSys fun y => { y with ports := [5] }, .setConns 9 ⟨false, true, 11, 10, 4, 9, [], true, 2, 20, 0, [], 8, 3, 8, []⟩, .setEngs 3 ⟨[], [(9, 10), (8, 4)]⟩]), 9, (st_inv _), by decide +kernel⟩,
   ⟨(st [live 5, .modParts 5 fun x => { x with ken := 2 }, .setRegs (R.fabRgn1 4095) 0x1200000, .setRegs (R.fabRgn2 4095) 256]), 4095, BitVec.ofNat 64 (15 * 2 ^ 60 + 5 * 2 ^ 42 + 7), (st_inv _), by decide +kernel⟩,
   ⟨State.reset, 4095, BitVec.ofNat 64 (15 * 2 ^ 60 + 5 * 2 ^ 42 + 7), reset_inv, by decide +kernel⟩,
   ⟨State.reset, 4095, 0x5000, reset_inv, by decide +kernel⟩,
   ⟨State.reset, 4095, 5, reset_inv, by decide +kernel⟩⟩

/-- The hypotheses of StreamEntries are met together. -/
theorem witness_stream_entries :
    (∃ (s : State) (core : Nat) (ctx : Nat) (pc : Nat) (ls : List (Nat × Nat)) (w : List Nat), s.Inv ∧ core < 64 ∧ ctx < 5 ∧
      s.ctxReady core ctx = true ∧ pc = s.fld (R.coreCtxPc core ctx) F.coreCtxPc_PC ∧
      s.locate (s.ctxPart core ctx) rightR (pc / 64 * 64) 64 = some ls ∧ s.noErrors = true ∧ (∀ e, e ∈ ls → s.lineFenced e.1 = false) ∧
      (w = (List.range 8).map fun i => leNat (((ls.flatMap fun e => s.readBytes e.1 e.2).drop (8 * i)).take 8)) ∧
      fbits (dW w 0) 63 60 = 1 ∧
      (loadCheck w ((List.range (dM w)).all fun i => s.ownsAcc (s.ctxPart core ctx) core (dAccLine w + i)) = none)) ∧
    (∃ (s : State) (core : Nat) (ctx : Nat) (pc : Nat) (ls : List (Nat × Nat)) (w : List Nat) (code : Nat), s.Inv ∧ core < 64 ∧ ctx < 5 ∧
      s.ctxReady core ctx = true ∧ pc = s.fld (R.coreCtxPc core ctx) F.coreCtxPc_PC ∧
      s.locate (s.ctxPart core ctx) rightR (pc / 64 * 64) 64 = some ls ∧ s.noErrors = true ∧ (∀ e, e ∈ ls → s.lineFenced e.1 = false) ∧
      (w = (List.range 8).map fun i => leNat (((ls.flatMap fun e => s.readBytes e.1 e.2).drop (8 * i)).take 8)) ∧
      fbits (dW w 0) 63 60 = 1 ∧ ctx < 4 ∧ s.ctxPart core ctx < 256 ∧ s.sliceLive (s.ctxPart core ctx) = true ∧
      (loadCheck w ((List.range (dM w)).all fun i => s.ownsAcc (s.ctxPart core ctx) core (dAccLine w + i)) = some code)) ∧
    (∃ (s : State) (core : Nat) (ctx : Nat) (pc : Nat) (ls : List (Nat × Nat)) (w : List Nat) (n : Nat), s.Inv ∧ core < 64 ∧ ctx < 5 ∧
      s.ctxReady core ctx = true ∧ pc = s.fld (R.coreCtxPc core ctx) F.coreCtxPc_PC ∧
      s.locate (s.ctxPart core ctx) rightR (pc / 64 * 64) 64 = some ls ∧ s.noErrors = true ∧ (∀ e, e ∈ ls → s.lineFenced e.1 = false) ∧
      (w = (List.range 8).map fun i => leNat (((ls.flatMap fun e => s.readBytes e.1 e.2).drop (8 * i)).take 8)) ∧
      fbits (dW w 0) 63 60 = 2 ∧ n = fbits (dW w 0) 59 56 ∧ n ≠ 0 ∧ n ≤ 7 ∧ ((w.drop 1).take n).any vBad = false) ∧
    (∃ (s : State) (core : Nat) (ctx : Nat) (pc : Nat) (ls : List (Nat × Nat)) (w : List Nat), s.Inv ∧ core < 64 ∧ ctx < 5 ∧
      s.ctxReady core ctx = true ∧ pc = s.fld (R.coreCtxPc core ctx) F.coreCtxPc_PC ∧
      s.locate (s.ctxPart core ctx) rightR (pc / 64 * 64) 64 = some ls ∧ s.noErrors = true ∧ (∀ e, e ∈ ls → s.lineFenced e.1 = false) ∧
      (w = (List.range 8).map fun i => leNat (((ls.flatMap fun e => s.readBytes e.1 e.2).drop (8 * i)).take 8)) ∧
      fbits (dW w 0) 63 60 = 3 ∧ s.streamDrained core ctx = true ∧ (s.ctxsAt (core * 8 + ctx)).stopPend = false ∧ fbits (dW w 3) 0 0 = 1 ∧
      ctx ≠ 4) ∧
    (∃ (s : State) (core : Nat) (ctx : Nat) (pc : Nat) (ls : List (Nat × Nat)) (w : List Nat), s.Inv ∧ core < 64 ∧ ctx < 5 ∧
      s.ctxReady core ctx = true ∧ pc = s.fld (R.coreCtxPc core ctx) F.coreCtxPc_PC ∧
      s.locate (s.ctxPart core ctx) rightR (pc / 64 * 64) 64 = some ls ∧ s.noErrors = true ∧ (∀ e, e ∈ ls → s.lineFenced e.1 = false) ∧
      (w = (List.range 8).map fun i => leNat (((ls.flatMap fun e => s.readBytes e.1 e.2).drop (8 * i)).take 8)) ∧
      fbits (dW w 0) 63 60 = 3 ∧ s.streamDrained core ctx = true ∧ (s.ctxsAt (core * 8 + ctx)).stopPend = false ∧
      (fbits (dW w 3) 0 0 = 0 ∨ ctx = 4)) ∧
    (∃ (s : State) (core : Nat) (ctx : Nat) (pc : Nat) (ls : List (Nat × Nat)) (w : List Nat), s.Inv ∧ core < 64 ∧ ctx < 5 ∧
      s.ctxReady core ctx = true ∧ pc = s.fld (R.coreCtxPc core ctx) F.coreCtxPc_PC ∧
      s.locate (s.ctxPart core ctx) rightR (pc / 64 * 64) 64 = some ls ∧ s.noErrors = true ∧ (∀ e, e ∈ ls → s.lineFenced e.1 = false) ∧
      (w = (List.range 8).map fun i => leNat (((ls.flatMap fun e => s.readBytes e.1 e.2).drop (8 * i)).take 8)) ∧
      fbits (dW w 0) 63 60 = 4 ∧ s.streamDrained core ctx = true) ∧
    (∃ (s : State) (core : Nat) (ctx : Nat) (w : List Nat) (l : List Nat) (wide : Bool) (a : Nat), s.Inv ∧ core < 64 ∧ ctx < 5 ∧
      (s.ctxsAt (core * 8 + ctx)).cur = some w ∧ (s.ctxsAt (core * 8 + ctx)).redo = [] ∧ s.ctxActive core ctx = true ∧ dWaitEn w = false ∧
      s.orderWait core ctx w = false ∧ s.anchorsOk core w = true ∧ s.arrChoice (s.ctxPart core ctx) core (dArrMask w) = (l, wide) ∧
      l ≠ [] ∧ s.classWait (s.ctxPart core ctx) core = false ∧ (l.find? (fun a => s.ownsNow (s.ctxPart core ctx) core a) = some a) ∧
      a < 4 ∧ s.halfOpen core a = false ∧ s.admission (s.ctxPart core ctx) core a (dDlen w) = 0 ∧ s.ctxPart core ctx < 256 ∧
      tileCharge (dFmtA w) (dM w * fmtC (dFmtA w)) ≤ s.last.bucket ∧ (s.arrsAt (4 * core + a)).tiles = [] ∧ dWforce w = true) :=
  ⟨⟨(st [stream, entry tileWords]), 0, 2, 0x40, [(0x1000040, 64)], tileWords, (st_inv _), by decide +kernel⟩,
   ⟨(st [stream, entry (2 ^ 60 :: tileWords.drop 2)]), 0, 2, 0x40, [(0x1000040, 64)], [2 ^ 60, 0, 0, 4 * 2 ^ 32, 0x100 * 2 ^ 16, 0, 0, 0], 1, (st_inv _), by decide +kernel⟩,
   ⟨(st [stream, entry [2 * 2 ^ 60 + 2 ^ 56, 0x10 * 2 ^ 56 + 8 * 2 ^ 52, 0, 0, 0, 0, 0, 0]]), 0, 2, 0x40, [(0x1000040, 64)], [2 * 2 ^ 60 + 2 ^ 56, 0x10 * 2 ^ 56 + 8 * 2 ^ 52, 0, 0, 0, 0, 0, 0], 1, (st_inv _), by decide +kernel⟩,
   ⟨(st [stream, entry [3 * 2 ^ 60, 0, 0, 1, 0, 0, 0, 0]]), 0, 2, 0x40, [(0x1000040, 64)], [3 * 2 ^ 60, 0, 0, 1, 0, 0, 0, 0], (st_inv _), by decide +kernel⟩,
   ⟨(st [stream, entry [3 * 2 ^ 60, 0, 0, 0, 0, 0, 0, 0]]), 0, 2, 0x40, [(0x1000040, 64)], [3 * 2 ^ 60, 0, 0, 0, 0, 0, 0, 0], (st_inv _), by decide +kernel⟩,
   ⟨(st [stream, entry [4 * 2 ^ 60, 0, 0, 0, 0, 0, 0, 0]]), 0, 2, 0x40, [(0x1000040, 64)], [4 * 2 ^ 60, 0, 0, 0, 0, 0, 0, 0], (st_inv _), by decide +kernel⟩,
   ⟨(st [stream, .modCtxs 2 fun x => { x with cur := some (tileWords ++ [0x40, 0]), seq := 4 }]), 0, 2, tileWords ++ [0x40, 0], [0, 1, 2, 3], false, 0, (st_inv _), by decide +kernel⟩⟩

/-- The hypotheses of StreamEntries are met together. -/
theorem witness_stream_entries_2 :
    (∃ (s : State) (core : Nat) (ctx : Nat) (w : List Nat), s.Inv ∧ core < 64 ∧ ctx < 5 ∧ (s.ctxsAt (core * 8 + ctx)).cur = some w ∧
      (s.ctxsAt (core * 8 + ctx)).redo = [] ∧ s.ctxActive core ctx = true ∧ dWaitEn w = true ∧
      s.syncBad (s.ctxPart core ctx) (dWaitIdx w) = false ∧ s.syncOk (s.ctxPart core ctx) (dWaitIdx w) (dWaitVal w) = false) ∧
    (∃ (s : State) (core : Nat) (ctx : Nat) (w : List Nat), s.Inv ∧ core < 64 ∧ ctx < 5 ∧ (s.ctxsAt (core * 8 + ctx)).cur = some w ∧
      (s.ctxsAt (core * 8 + ctx)).redo = [] ∧ s.ctxActive core ctx = true ∧ dWaitEn w = false ∧ s.orderWait core ctx w = true) ∧
    (∃ (s : State) (core : Nat) (arr : Nat) (x : TileRun), s.Inv ∧ core < 64 ∧ arr < 4 ∧ (s.arrsAt (4 * core + arr)).tiles = [x] ∧
      x.load = 1 ∧ s.bankClear core arr (dBank x.words) = true ∧ s.bankSt core arr 0 ≠ 1 ∧ s.bankSt core arr 1 ≠ 1 ∧ s.pend = [] ∧
      s.noErrors = true) ∧
    (∃ (s : State) (core : Nat) (arr : Nat) (b : Nat), s.Inv ∧ core < 64 ∧ arr < 4 ∧ b < 2 ∧ s.bankSt core arr b = 1 ∧ (b = 1 →
      s.bankSt core arr 0 ≠ 1) ∧ s.pend = [] ∧ s.noErrors = true) ∧
    (∃ (s : State) (core : Nat) (ctx : Nat) (m : MoveSt) (r : List MoveSt) (ls : List (Nat × Nat)), s.Inv ∧ core < 64 ∧ ctx < 5 ∧
      (s.ctxsAt (core * 8 + ctx)).moves = m :: r ∧ 0 < m.len ∧ s.noErrors = true ∧
      s.csOwned (s.ctxPart core ctx) core (m.line * 64) m.len = true ∧ m.toStore = true ∧
      s.locate (s.ctxPart core ctx) rightR m.addr m.len = some ls ∧ (∀ e, e ∈ ls → s.lineFenced e.1 = false) ∧ (∀ a, a < 4 →
      (s.arrsAt (4 * core + a)).tiles = [])) ∧
    (∃ (s : State) (core : Nat) (ctx : Nat) (m : MoveSt) (r : List MoveSt) (a : Nat), s.Inv ∧ core < 64 ∧ ctx < 5 ∧
      (s.ctxsAt (core * 8 + ctx)).moves = m :: r ∧ 0 < m.len ∧ s.noErrors = true ∧
      s.csOwned (s.ctxPart core ctx) core (m.line * 64) m.len = true ∧ m.toStore = false ∧ s.pend = [] ∧
      s.locate (s.ctxPart core ctx) rightW m.addr m.len = some [(a, m.len)] ∧ s.dpaKind a = .kennel) :=
  ⟨⟨(st [stream, .modCtxs 2 fun x => { x with cur := some ([2 ^ 60, 2 ^ 24, 0, 0, 0, 0, 0, 5 * 2 ^ 24, 0x40, 0]) }]), 0, 2, [2 ^ 60, 2 ^ 24, 0, 0, 0, 0, 0, 5 * 2 ^ 24, 0x40, 0], (st_inv _), by decide +kernel⟩,
   ⟨(st [stream, .modCtxs 2 fun x => { x with cur := some (tileWords ++ [0x40, 0]) }, .modArrs 3 fun r => { r with tiles := [tileRun] }]), 0, 2, tileWords ++ [0x40, 0], (st_inv _), by decide +kernel⟩,
   ⟨(st [stream, .modArrs 0 fun r => { r with tiles := [tileRun 1] }, .setStore 0x100 5]), 0, 0, tileRun 1, (st_inv _), by decide +kernel⟩,
   ⟨(st [stream, .setF (R.coreArrStat 63 3) F.coreArrStat_BANK1_ST 1]), 63, 3, 1, (st_inv _), by decide +kernel⟩,
   ⟨(st [stream, .modCtxs 2 fun x => { x with moves := [⟨true, 0x100, 3, 65, 0, 0⟩] }, .setMem 0x1000140 9]), 0, 2, ⟨true, 0x100, 3, 65, 0, 0⟩, [], [(0x1000100, 64), (0x1000140, 1)], (st_inv _), by decide +kernel⟩,
   ⟨(st [stream, .modCtxs 2 fun x => { x with moves := [⟨false, 0x100, 3, 64, 0, 0⟩] }, .setStore 200 9]), 0, 2, ⟨false, 0x100, 3, 64, 0, 0⟩, [], 0x1000100, (st_inv _), by decide +kernel⟩⟩

/-- The hypotheses of Verdicts are met together. -/
theorem witness_verdicts :
    (∃ (s : State) (core : Nat) (arr : Nat) (x : TileRun) (faults : List CellFault) (residue : Bool), s.Inv ∧ core < 64 ∧ arr < 4 ∧
      (s.arrsAt (4 * core + arr)).tiles = [x] ∧ x.fed = true ∧ x.pass = none ∧ x.part < 256 ∧ s.isChk x.part = false ∧
      guardTrips x.words (((runIn x).sums x.anchor faults).2 + (drainWords ((runIn x).sums x.anchor faults).1).2) ((runIn x).countA (isLim
      (runIn x).fmt) + (runIn x).countW (isLim (runIn x).fmt)) = false ∧ dAccInit x.words = true ∧ dConv x.words = false ∧ x.ctx < 5) ∧
    (∃ (s : State) (core : Nat) (arr : Nat) (x : TileRun) (faults : List CellFault) (residue : Bool) (wr : WeltRes), s.Inv ∧ core < 64 ∧
      arr < 4 ∧ (s.arrsAt (4 * core + arr)).tiles = [x] ∧ x.fed = true ∧ x.pass = none ∧ x.run = 1 ∧ x.ctx < 5 ∧ s.checked x.part = true ∧
      wr = (runIn x).welt x.anchor (dWeltTol x.words) faults residue ∧ wr.bad = true) ∧
    (∃ (s : State) (core : Nat) (arr : Nat) (x : TileRun), s.Inv ∧ core < 64 ∧ arr < 4 ∧ x.ctx < 5 ∧
      (s.arrsAt (4 * core + arr)).tiles = [] ∧ s.pend = [] ∧ s.noErrors = true ∧ x.part < 256 ∧ s.ownsNow x.part core arr = true ∧
      s.admission x.part core arr (dDlen x.words) = 0 ∧
      (s.redoHead core (fun t => t.again == 1 && s.rerunArr core t == some arr) = some x) ∧ x.run = 2 ∧ x.pass = none ∧
      tileCharge (runIn x).fmt (runBeats x) ≤ s.last.bucket) ∧
    (∃ (s : State) (core : Nat) (arr : Nat) (x : TileRun), s.Inv ∧ core < 64 ∧ arr < 4 ∧ x.ctx < 5 ∧
      (s.arrsAt (4 * core + arr)).tiles = [] ∧ s.pend = [] ∧ s.noErrors = true ∧ x.part = 0x101 ∧
      (s.redoHead core (fun t => t.again == 1 && s.rerunArr core t == some arr) = some x)) ∧
    (∃ (s : State) (core : Nat) (arr : Nat) (x : TileRun) (p : PassSt), s.Inv ∧ core < 64 ∧ arr < 4 ∧ x.ctx < 5 ∧
      (s.arrsAt (4 * core + arr)).tiles = [] ∧ s.pend = [] ∧ s.noErrors = true ∧ x.part < 256 ∧ s.ownsNow x.part core arr = true ∧
      s.admission x.part core arr (dDlen x.words) = 0 ∧
      (s.redoHead core (fun t => t.again == 2 && s.rerunArr core t == some arr && (match t.pass with | some p => p.half == 1 || !(s.halfOpen core arr) | none => false)) = some x)
      ∧ x.pass = some p ∧ tileCharge (wideFmt x.words) (runBeats x) ≤ s.last.bucket) ∧
    (∃ (s : State) (core : Nat) (ctx : Nat) (arr : Nat) (x : TileRun) (r : List TileRun) (l : List Nat) (wide : Bool), s.Inv ∧ ctx < 5 ∧
      (s.ctxsAt (core * 8 + ctx)).redo = x :: r ∧ x.ctx = ctx ∧ x.again = 3 ∧ s.arrChoice x.part core (dArrMask x.words) = (l, wide) ∧
      (l.find? (fun a => s.ownsNow x.part core a) = some arr) ∧ s.halfOpen core arr = false ∧ core < 64 ∧ arr < 4 ∧
      (s.arrsAt (4 * core + arr)).tiles = [] ∧ s.pend = [] ∧ s.noErrors = true ∧ x.part < 256 ∧
      s.admission x.part core arr (dDlen x.words) = 0 ∧ tileCharge (dFmtA x.words) (dM x.words * fmtC (dFmtA x.words)) ≤ s.last.bucket) :=
  ⟨⟨(st [stream, .setF (R.sliceStat 5) F.sliceStat_CLASS 0, .modArrs 0 fun r => { r with tiles := [tileRun 0 true] }]), 0, 0, tileRun 0 true, [], false, (st_inv _), by decide +kernel⟩,
   ⟨(st [stream, .setF (R.sliceStat 5) F.sliceStat_CLASS 1, .modArrs 0 fun a => { a with tiles := [tileRun 0 true] }]), 0, 0, tileRun 0 true, [], true, (runIn (tileRun 0 true)).welt 0 (dWeltTol tileWords) [] true, (st_inv _), by decide +kernel, by decide +kernel, by decide +kernel, by decide +kernel, by decide +kernel, by decide +kernel, by decide +kernel, by decide +kernel, rfl, by decide +kernel⟩,
   ⟨(st [stream, .modCtxs 2 fun c => { c with redo := [tileRun 0 false 1 2] }]), 0, 0, tileRun 0 false 1 2, (st_inv _), by decide +kernel⟩,
   ⟨(st [.setF (R.coreSeqRadio 0) F.coreSeqRadio_RADIO_ARR 15, .modCtxs 4 fun c => { c with redo := [{ tileRun 0 false 1 2 with part := 0x101, ctx := 4 }] }]), 0, 0, { tileRun 0 false 1 2 with part := 0x101, ctx := 4 }, (st_inv _), by decide +kernel⟩,
   ⟨(st [stream, .modCtxs 2 fun c => { c with redo := [{ tileRun 0 false 2 with pass := some ⟨0, 0, [], 0, 0, 0⟩ }] }]), 0, 0, { tileRun 0 false 2 with pass := some ⟨0, 0, [], 0, 0, 0⟩ }, ⟨0, 0, [], 0, 0, 0⟩, (st_inv _), by decide +kernel⟩,
   ⟨(st [stream, .modCtxs 2 fun c => { c with redo := [tileRun 0 false 3 2] }]), 0, 2, 0, tileRun 0 false 3 2, [], [0, 1, 2, 3], false, (st_inv _), by decide +kernel⟩⟩

/-- The hypotheses of Verdicts are met together. -/
theorem witness_verdicts_2 :
    (∃ (s : State) (core : Nat) (arr : Nat) (x : TileRun), s.Inv ∧ core < 64 ∧ arr < 4 ∧ (s.arrsAt (4 * core + arr)).tiles = [x] ∧
      x.part < 256 ∧ x.ctx < 5) ∧
    (∃ (s : State) (core : Nat) (j : ConvJob), s.Inv ∧ core < 64 ∧ s.convq = [(core, j)] ∧ s.vTurn core j.ctx = true ∧
      s.outMoves core j.ctx j.seq = false ∧ (s.ctxsAt (core * 8 + j.ctx)).stats = [] ∧ s.noErrors = true ∧
      s.csOwned j.part core (dStatAddr j.words * 64) 64 = true) ∧
    (∃ (s : State) (core : Nat) (j : ConvJob), s.Inv ∧ core < 64 ∧ s.convq = [(core, j)] ∧ s.vTurn core j.ctx = true ∧
      s.outMoves core j.ctx j.seq = true ∧ s.noErrors = true) ∧
    (∃ (s : State) (part : Nat) (idx : Nat) (j : SigJob) (a : Nat), s.Inv ∧
      (s.sigq.find? (fun j => j.part == part && j.idx == idx && s.sigReady j) = some j) ∧ a = s.syncDpa part idx ∧ s.noErrors = true ∧
      s.dpaKind a = .kennel) ∧
    (∃ (s : State) (core : Nat) (ctx : Nat), s.Inv ∧ core < 64 ∧ ctx < 4 ∧ s.ctxActive core ctx = true ∧
      (s.ctxsAt (core * 8 + ctx)).wait ≠ none ∧ s.sliceLive (s.ctxPart core ctx) = true) ∧
    (∃ (s : State) (core : Nat), s.Inv ∧ core < 64) :=
  ⟨⟨(st [stream, .modArrs 3 fun r => { r with tiles := [tileRun 0 true] }]), 0, 3, tileRun 0 true, (st_inv _), by decide +kernel⟩,
   ⟨(st [stream, .setConvq [(0, ⟨2, 5, [2 ^ 60 + 77, 7 * 2 ^ 60 + 7 * 2 ^ 56 + 2 ^ 47 + 260 * 2 ^ 37 + 2 ^ 27 + 2 ^ 25 + 2 ^ 23, 8 * 2 ^ 32 + 0x3F800000, 0, 0, 0x200 * 2 ^ 48 + 0x100 * 2 ^ 16, 0, 9 * 2 ^ 40, 0x40, 0], 0, 0, 0, 0, 0, 0, 0⟩)]]), 0, ⟨2, 5, [2 ^ 60 + 77, 7 * 2 ^ 60 + 7 * 2 ^ 56 + 2 ^ 47 + 260 * 2 ^ 37 + 2 ^ 27 + 2 ^ 25 + 2 ^ 23, 8 * 2 ^ 32 + 0x3F800000, 0, 0, 0x200 * 2 ^ 48 + 0x100 * 2 ^ 16, 0, 9 * 2 ^ 40, 0x40, 0], 0, 0, 0, 0, 0, 0, 0⟩, (st_inv _), by decide +kernel⟩,
   ⟨(st [stream, .modCtxs 2 fun x => { x with moves := [⟨false, 0x100, 3, 64, 1, 0⟩] }, .setConvq [(0, ⟨2, 5, [2 ^ 60 + 77, 7 * 2 ^ 60 + 7 * 2 ^ 56 + 2 ^ 47 + 260 * 2 ^ 37 + 2 ^ 27 + 2 ^ 25 + 2 ^ 23, 8 * 2 ^ 32 + 0x3F800000, 0, 0, 0x200 * 2 ^ 48 + 0x100 * 2 ^ 16, 0, 9 * 2 ^ 40, 0x40, 0], 0, 0, 0, 0, 0, 0, 3⟩)]]), 0, ⟨2, 5, [2 ^ 60 + 77, 7 * 2 ^ 60 + 7 * 2 ^ 56 + 2 ^ 47 + 260 * 2 ^ 37 + 2 ^ 27 + 2 ^ 25 + 2 ^ 23, 8 * 2 ^ 32 + 0x3F800000, 0, 0, 0x200 * 2 ^ 48 + 0x100 * 2 ^ 16, 0, 9 * 2 ^ 40, 0x40, 0], 0, 0, 0, 0, 0, 0, 3⟩, (st_inv _), by decide +kernel⟩,
   ⟨(st [stream, .setSigq [⟨5, 9, .core 0 2, [], 0, 0⟩], .setBytes 0x1100024 [255, 255, 255, 255]]), 5, 9, ⟨5, 9, .core 0 2, [], 0, 0⟩, 0x1100024, (st_inv _), by decide +kernel⟩,
   ⟨(st [stream, .modCtxs 2 fun x => { x with wait := some (4, 5) }]), 0, 2, (st_inv _), by decide +kernel⟩,
   ⟨(st [stream, .modArrs 3 fun r => { r with tiles := [tileRun 0 true] }]), 0, (st_inv _), by decide +kernel⟩⟩

/-- The hypotheses of VectorArithmetic are met together. -/
theorem witness_vector_arithmetic :
    (∃ (s : State) (core : Nat) (ctx : Nat) (v : VInstr) (w : Nat), s.Inv ∧ core < 64 ∧ ctx < 5 ∧ s.vFront core ctx = some w ∧
      0x10 ≤ vOp w ∧ vOp w ≤ 0x2F ∧ vFields w = vKey v ∧ s.vTurn core ctx = true ∧ (v.res = 0 ∨ s.isChk (s.ctxPart core ctx) = false)) ∧
    (∃ (s : State) (core : Nat) (ctx : Nat) (v : VInstr) (w : Nat), s.Inv ∧ core < 64 ∧ ctx < 5 ∧ s.vFront core ctx = some w ∧
      0x10 ≤ vOp w ∧ vOp w ≤ 0x2F ∧ vFields w = vKey v ∧ s.vTurn core ctx = true ∧ (v.res = 0 ∨ s.isChk (s.ctxPart core ctx) = false)) ∧
    (∃ (s : State) (core : Nat) (ctx : Nat) (v : VInstr) (w : Nat), s.Inv ∧ core < 64 ∧ ctx < 5 ∧ s.vFront core ctx = some w ∧
      0x10 ≤ vOp w ∧ vOp w ≤ 0x2F ∧ vFields w = vKey v ∧ s.vTurn core ctx = true ∧ (v.res = 0 ∨ s.isChk (s.ctxPart core ctx) = false)) ∧
    (∃ (s : State) (core : Nat) (ctx : Nat) (v : VInstr) (w : Nat), s.Inv ∧ core < 64 ∧ ctx < 5 ∧ s.vFront core ctx = some w ∧
      0x10 ≤ vOp w ∧ vOp w ≤ 0x2F ∧ vFields w = vKey v ∧ s.vTurn core ctx = true ∧ (v.res = 0 ∨ s.isChk (s.ctxPart core ctx) = false)) ∧
    (∃ (s : State) (core : Nat) (ctx : Nat) (v : VInstr) (w : Nat), s.Inv ∧ core < 64 ∧ ctx < 5 ∧ s.vFront core ctx = some w ∧
      0x10 ≤ vOp w ∧ vOp w ≤ 0x2F ∧ vFields w = vKey v ∧ s.vTurn core ctx = true) ∧
    (∃ (s : State) (core : Nat) (ctx : Nat) (v : VInstr) (w : Nat), s.Inv ∧ core < 64 ∧ ctx < 5 ∧ s.vFront core ctx = some w ∧
      0x10 ≤ vOp w ∧ vOp w ≤ 0x2F ∧ vFields w = vKey v ∧ s.vTurn core ctx = true) ∧
    (∃ (s : State) (core : Nat) (ctx : Nat) (v : VInstr) (w : Nat), s.Inv ∧ core < 64 ∧ ctx < 5 ∧ s.vFront core ctx = some w ∧
      0x10 ≤ vOp w ∧ vOp w ≤ 0x2F ∧ vFields w = vKey v ∧ s.vTurn core ctx = true) ∧
    (∃ (s : State) (core : Nat) (ctx : Nat) (v : VInstr) (w : Nat), s.Inv ∧ core < 64 ∧ ctx < 5 ∧ s.vFront core ctx = some w ∧
      0x10 ≤ vOp w ∧ vOp w ≤ 0x2F ∧ vFields w = vKey v ∧ s.vTurn core ctx = true) :=
  ⟨⟨(st [vec (vWord 16 11 0 3 1)]), 0, 2, vIns 11 0 3 1 0, vWord 16 11 0 3 1, (st_inv _), by decide +kernel, by decide +kernel, by decide +kernel, by decide +kernel, by decide +kernel, by decide +kernel, by decide +kernel, .inl rfl⟩,
   ⟨(st [vec (vWord 17 11 0 3 1)]), 0, 2, vIns 11 0 3 1 0, vWord 17 11 0 3 1, (st_inv _), by decide +kernel, by decide +kernel, by decide +kernel, by decide +kernel, by decide +kernel, by decide +kernel, by decide +kernel, .inl rfl⟩,
   ⟨(st [vec (vWord 18 11 0 3 1)]), 0, 2, vIns 11 0 3 1 0, vWord 18 11 0 3 1, (st_inv _), by decide +kernel, by decide +kernel, by decide +kernel, by decide +kernel, by decide +kernel, by decide +kernel, by decide +kernel, .inl rfl⟩,
   ⟨(st [vec (vWord 19 11 0 3 1)]), 0, 2, vIns 11 0 3 1 0, vWord 19 11 0 3 1, (st_inv _), by decide +kernel, by decide +kernel, by decide +kernel, by decide +kernel, by decide +kernel, by decide +kernel, by decide +kernel, .inl rfl⟩,
   ⟨(st [vec (vWord 20 11 0 3 1)]), 0, 2, vIns 11 0 3 1 0, vWord 20 11 0 3 1, (st_inv _), by decide +kernel, by decide +kernel, by decide +kernel, by decide +kernel, by decide +kernel, by decide +kernel, by decide +kernel⟩,
   ⟨(st [vec (vWord 21 11 0 3 1)]), 0, 2, vIns 11 0 3 1 0, vWord 21 11 0 3 1, (st_inv _), by decide +kernel, by decide +kernel, by decide +kernel, by decide +kernel, by decide +kernel, by decide +kernel, by decide +kernel⟩,
   ⟨(st [vec (vWord 22 11 0 3 1)]), 0, 2, vIns 11 0 3 1 0, vWord 22 11 0 3 1, (st_inv _), by decide +kernel, by decide +kernel, by decide +kernel, by decide +kernel, by decide +kernel, by decide +kernel, by decide +kernel⟩,
   ⟨(st [vec (vWord 23 8 0 3 1)]), 0, 2, vIns 8 0 3 1 0, vWord 23 8 0 3 1, (st_inv _), by decide +kernel, by decide +kernel, by decide +kernel, by decide +kernel, by decide +kernel, by decide +kernel, by decide +kernel⟩⟩

/-- The hypotheses of VectorArithmetic are met together. -/
theorem witness_vector_arithmetic_2 :
    (∃ (s : State) (core : Nat) (ctx : Nat) (v : VInstr) (w : Nat), s.Inv ∧ core < 64 ∧ ctx < 5 ∧ s.vFront core ctx = some w ∧
      0x30 ≤ vOp w ∧ vOp w ≤ 0x37 ∧ vFields w = vKey v ∧ s.vTurn core ctx = true) ∧
    (∃ (s : State) (core : Nat) (ctx : Nat) (v : VInstr) (w : Nat), s.Inv ∧ core < 64 ∧ ctx < 5 ∧ s.vFront core ctx = some w ∧
      0x30 ≤ vOp w ∧ vOp w ≤ 0x37 ∧ vFields w = vKey v ∧ s.vTurn core ctx = true) ∧
    (∃ (s : State) (core : Nat) (ctx : Nat) (v : VInstr) (w : Nat), s.Inv ∧ core < 64 ∧ ctx < 5 ∧ s.vFront core ctx = some w ∧
      0x30 ≤ vOp w ∧ vOp w ≤ 0x37 ∧ vFields w = vKey v ∧ s.vTurn core ctx = true) ∧
    (∃ (s : State) (core : Nat) (ctx : Nat) (v : VInstr) (w : Nat), s.Inv ∧ core < 64 ∧ ctx < 5 ∧ s.vFront core ctx = some w ∧
      0x30 ≤ vOp w ∧ vOp w ≤ 0x37 ∧ vFields w = vKey v ∧ s.vTurn core ctx = true) ∧
    (∃ (s : State) (core : Nat) (ctx : Nat) (v : VInstr) (w : Nat), s.Inv ∧ core < 64 ∧ ctx < 5 ∧ s.vFront core ctx = some w ∧
      0x40 ≤ vOp w ∧ vOp w ≤ 0x47 ∧ vFields w = vKey v ∧ s.vTurn core ctx = true ∧ (v.res = 0 ∨ s.isChk (s.ctxPart core ctx) = false)) ∧
    (∃ (s : State) (core : Nat) (ctx : Nat) (v : VInstr) (w : Nat), s.Inv ∧ core < 64 ∧ ctx < 5 ∧ s.vFront core ctx = some w ∧
      0x40 ≤ vOp w ∧ vOp w ≤ 0x47 ∧ vFields w = vKey v ∧ s.vTurn core ctx = true ∧ (v.res = 0 ∨ s.isChk (s.ctxPart core ctx) = false)) ∧
    (∃ (s : State) (core : Nat) (ctx : Nat) (v : VInstr) (w : Nat), s.Inv ∧ core < 64 ∧ ctx < 5 ∧ s.vFront core ctx = some w ∧
      0x40 ≤ vOp w ∧ vOp w ≤ 0x47 ∧ vFields w = vKey v ∧ s.vTurn core ctx = true ∧ (v.res = 0 ∨ s.isChk (s.ctxPart core ctx) = false)) ∧
    (∃ (s : State) (core : Nat) (ctx : Nat) (v : VInstr) (w : Nat), s.Inv ∧ core < 64 ∧ ctx < 5 ∧ s.vFront core ctx = some w ∧
      0x40 ≤ vOp w ∧ vOp w ≤ 0x47 ∧ vFields w = vKey v ∧ s.vTurn core ctx = true ∧ (v.res = 0 ∨ s.isChk (s.ctxPart core ctx) = false)) :=
  ⟨⟨(st [vec (vWord 48 11 0 3 1)]), 0, 2, vIns 11 0 3 1 0, vWord 48 11 0 3 1, (st_inv _), by decide +kernel, by decide +kernel, by decide +kernel, by decide +kernel, by decide +kernel, by decide +kernel, by decide +kernel⟩,
   ⟨(st [vec (vWord 49 11 0 3 1)]), 0, 2, vIns 11 0 3 1 0, vWord 49 11 0 3 1, (st_inv _), by decide +kernel, by decide +kernel, by decide +kernel, by decide +kernel, by decide +kernel, by decide +kernel, by decide +kernel⟩,
   ⟨(st [vec (vWord 50 11 0 3 1)]), 0, 2, vIns 11 0 3 1 0, vWord 50 11 0 3 1, (st_inv _), by decide +kernel, by decide +kernel, by decide +kernel, by decide +kernel, by decide +kernel, by decide +kernel, by decide +kernel⟩,
   ⟨(st [vec (vWord 51 11 0 3 1)]), 0, 2, vIns 11 0 3 1 0, vWord 51 11 0 3 1, (st_inv _), by decide +kernel, by decide +kernel, by decide +kernel, by decide +kernel, by decide +kernel, by decide +kernel, by decide +kernel⟩,
   ⟨(st [vec (vWord 64 11 0 3 1)]), 0, 2, vIns 11 0 3 1 0, vWord 64 11 0 3 1, (st_inv _), by decide +kernel, by decide +kernel, by decide +kernel, by decide +kernel, by decide +kernel, by decide +kernel, by decide +kernel, .inl rfl⟩,
   ⟨(st [vec (vWord 65 11 0 3 1)]), 0, 2, vIns 11 0 3 1 0, vWord 65 11 0 3 1, (st_inv _), by decide +kernel, by decide +kernel, by decide +kernel, by decide +kernel, by decide +kernel, by decide +kernel, by decide +kernel, .inl rfl⟩,
   ⟨(st [vec (vWord 66 11 0 3 1)]), 0, 2, vIns 11 0 3 1 0, vWord 66 11 0 3 1, (st_inv _), by decide +kernel, by decide +kernel, by decide +kernel, by decide +kernel, by decide +kernel, by decide +kernel, by decide +kernel, .inl rfl⟩,
   ⟨(st [vec (vWord 67 11 0 3 1)]), 0, 2, vIns 11 0 3 1 0, vWord 67 11 0 3 1, (st_inv _), by decide +kernel, by decide +kernel, by decide +kernel, by decide +kernel, by decide +kernel, by decide +kernel, by decide +kernel, .inl rfl⟩⟩

/-- The hypotheses of VectorArithmetic are met together. -/
theorem witness_vector_arithmetic_3 :
    (∃ (s : State) (core : Nat) (ctx : Nat) (v : VInstr) (w : Nat), s.Inv ∧ core < 64 ∧ ctx < 5 ∧ s.vFront core ctx = some w ∧
      0x40 ≤ vOp w ∧ vOp w ≤ 0x47 ∧ vFields w = vKey v ∧ s.vTurn core ctx = true ∧ (v.res = 0 ∨ s.isChk (s.ctxPart core ctx) = false)) ∧
    (∃ (s : State) (core : Nat) (ctx : Nat) (v : VInstr) (w : Nat), s.Inv ∧ core < 64 ∧ ctx < 5 ∧ s.vFront core ctx = some w ∧
      0x40 ≤ vOp w ∧ vOp w ≤ 0x47 ∧ vFields w = vKey v ∧ s.vTurn core ctx = true ∧ (v.res = 0 ∨ s.isChk (s.ctxPart core ctx) = false)) ∧
    (∃ (s : State) (core : Nat) (ctx : Nat) (v : VInstr) (w : Nat) (n : Nat), s.Inv ∧ core < 64 ∧ ctx < 5 ∧ s.vFront core ctx = some w ∧
      0x38 ≤ vOp w ∧ vOp w ≤ 0x3F ∧ vFields w = vKey v ∧ s.vTurn core ctx = true ∧ n = v.imm.toNat % 65536 ∧ n ≠ 0 ∧ v.va + n ≤ 32 ∧
      (v.res = 0 ∨ s.isChk (s.ctxPart core ctx) = false)) ∧
    (∃ (s : State) (core : Nat) (ctx : Nat) (v : VInstr) (w : Nat) (n : Nat), s.Inv ∧ core < 64 ∧ ctx < 5 ∧ s.vFront core ctx = some w ∧
      0x38 ≤ vOp w ∧ vOp w ≤ 0x3F ∧ vFields w = vKey v ∧ s.vTurn core ctx = true ∧ n = v.imm.toNat % 65536 ∧ n ≠ 0 ∧ v.va + n ≤ 32) ∧
    (∃ (s : State) (core : Nat) (ctx : Nat) (v : VInstr) (w : Nat) (n : Nat), s.Inv ∧ core < 64 ∧ ctx < 5 ∧ s.vFront core ctx = some w ∧
      0x38 ≤ vOp w ∧ vOp w ≤ 0x3F ∧ vFields w = vKey v ∧ s.vTurn core ctx = true ∧ n = v.imm.toNat % 65536 ∧ n ≠ 0 ∧ v.va + n ≤ 32) ∧
    (∃ (s : State) (core : Nat) (ctx : Nat) (v : VInstr) (w : Nat), s.Inv ∧ core < 64 ∧ ctx < 5 ∧ s.vFront core ctx = some w ∧
      0x10 ≤ vOp w ∧ vOp w ≤ 0x2F ∧ vFields w = vKey v ∧ s.vTurn core ctx = true ∧ ctx < 4 ∧ s.isChk (s.ctxPart core ctx) = true ∧
      v.res = 2 ∧ s.sliceLive (s.ctxPart core ctx) = true) :=
  ⟨⟨(st [vec (vWord 68 11 0 3 1)]), 0, 2, vIns 11 0 3 1 0, vWord 68 11 0 3 1, (st_inv _), by decide +kernel, by decide +kernel, by decide +kernel, by decide +kernel, by decide +kernel, by decide +kernel, by decide +kernel, .inl rfl⟩,
   ⟨(st [vec (vWord 69 11 0 3 1)]), 0, 2, vIns 11 0 3 1 0, vWord 69 11 0 3 1, (st_inv _), by decide +kernel, by decide +kernel, by decide +kernel, by decide +kernel, by decide +kernel, by decide +kernel, by decide +kernel, .inl rfl⟩,
   ⟨(st [vec (vWord 56 11 2 3 1)]), 0, 2, vIns 11 2 3 1 0, vWord 56 11 2 3 1, 2, (st_inv _), by decide +kernel, by decide +kernel, by decide +kernel, by decide +kernel, by decide +kernel, by decide +kernel, by decide +kernel, by decide +kernel, by decide +kernel, by decide +kernel, .inl rfl⟩,
   ⟨(st [vec (vWord 57 11 2 3 1)]), 0, 2, vIns 11 2 3 1 0, vWord 57 11 2 3 1, 2, (st_inv _), by decide +kernel, by decide +kernel, by decide +kernel, by decide +kernel, by decide +kernel, by decide +kernel, by decide +kernel, by decide +kernel, by decide +kernel, by decide +kernel⟩,
   ⟨(st [vec (vWord 58 11 2 3 1)]), 0, 2, vIns 11 2 3 1 0, vWord 58 11 2 3 1, 2, (st_inv _), by decide +kernel, by decide +kernel, by decide +kernel, by decide +kernel, by decide +kernel, by decide +kernel, by decide +kernel, by decide +kernel, by decide +kernel, by decide +kernel⟩,
   ⟨(st [vec (vWord 16 11 0 3 1), .setF (R.sliceStat 5) F.sliceStat_CLASS 1]), 0, 2, vIns 11 0 3 1 2, vWord 16 11 0 3 1, (st_inv _), by decide +kernel⟩⟩

/-- The hypotheses of VectorMemory are met together. -/
theorem witness_vector_memory :
    (∃ (s : State) (core : Nat) (ctx : Nat) (v : VInstr) (w : Nat), s.Inv ∧ core < 64 ∧ ctx < 5 ∧ s.vFront core ctx = some w ∧
      0 ≤ vOp w ∧ vOp w ≤ 0x0F ∧ vFields w = vKey v ∧ s.vTurn core ctx = true ∧
      s.csState (s.ctxPart core ctx) core (v.imm.toNat % 65536 * 64) 256 = 0 ∧
      s.csOwned (s.ctxPart core ctx) core (v.imm.toNat % 65536 * 64) 256 = true ∧ s.noErrors = true) ∧
    (∃ (s : State) (core : Nat) (ctx : Nat) (v : VInstr) (w : Nat), s.Inv ∧ core < 64 ∧ ctx < 5 ∧ s.vFront core ctx = some w ∧
      0 ≤ vOp w ∧ vOp w ≤ 0x0F ∧ vFields w = vKey v ∧ s.vTurn core ctx = true ∧ ctx < 4 ∧
      s.csState (s.ctxPart core ctx) core (v.imm.toNat % 65536 * 64) 256 = 2 ∧ s.sliceLive (s.ctxPart core ctx) = true) ∧
    (∃ (s : State) (core : Nat) (ctx : Nat) (v : VInstr) (w : Nat), s.Inv ∧ core < 64 ∧ ctx < 5 ∧ s.vFront core ctx = some w ∧
      0 ≤ vOp w ∧ vOp w ≤ 0x0F ∧ vFields w = vKey v ∧ s.vTurn core ctx = true ∧
      s.csOwned (s.ctxPart core ctx) core (v.imm.toNat % 65536 * 64) 256 = true ∧ s.noErrors = true) ∧
    (∃ (s : State) (core : Nat) (ctx : Nat) (v : VInstr) (w : Nat), s.Inv ∧ core < 64 ∧ ctx < 5 ∧ s.vFront core ctx = some w ∧
      0 ≤ vOp w ∧ vOp w ≤ 0x0F ∧ vFields w = vKey v ∧ s.vTurn core ctx = true ∧ v.vd ≤ 24 ∧
      s.accLineWait core ctx (v.imm.toNat % 1024) = false ∧ s.ownsAcc (s.ctxPart core ctx) core (v.imm.toNat % 1024) = true ∧
      s.noErrors = true) ∧
    (∃ (s : State) (core : Nat) (ctx : Nat) (v : VInstr) (w : Nat), s.Inv ∧ core < 64 ∧ ctx < 5 ∧ s.vFront core ctx = some w ∧
      0 ≤ vOp w ∧ vOp w ≤ 0x0F ∧ vFields w = vKey v ∧ s.vTurn core ctx = true ∧ ctx < 4 ∧ 24 < v.vd ∧
      s.accLineWait core ctx (v.imm.toNat % 1024) = false ∧ s.sliceLive (s.ctxPart core ctx) = true) ∧
    (∃ (s : State) (core : Nat) (ctx : Nat) (v : VInstr) (w : Nat), s.Inv ∧ core < 64 ∧ ctx < 5 ∧ s.vFront core ctx = some w ∧
      0 ≤ vOp w ∧ vOp w ≤ 0x0F ∧ vFields w = vKey v ∧ s.vTurn core ctx = true ∧ v.va ≤ 24 ∧
      s.accLineWait core ctx (v.imm.toNat % 1024) = false ∧ s.ownsAcc (s.ctxPart core ctx) core (v.imm.toNat % 1024) = true) :=
  ⟨⟨(st [vec (vWord 0 0 5 3 1), .setStore (5 * 64 + 6) 0xAB]), 0, 2, vIns 0 5 3 1 0, vWord 0 0 5 3 1, (st_inv _), by decide +kernel⟩,
   ⟨(st [vec (vWord 0 0 5 3 1), .setPend 6 2]), 0, 2, vIns 0 5 3 1 0, vWord 0 0 5 3 1, (st_inv _), by decide +kernel⟩,
   ⟨(st [vec (vWord 1 0 5 3 1)]), 0, 2, vIns 0 5 3 1 0, vWord 1 0 5 3 1, (st_inv _), by decide +kernel⟩,
   ⟨(st [vec (vWord 2 0 5 24 1), .setAcc (5 * 128 + 127) 99]), 0, 2, vIns 0 5 24 1 0, vWord 2 0 5 24 1, (st_inv _), by decide +kernel⟩,
   ⟨(st [vec (vWord 2 0 5 25 1)]), 0, 2, vIns 0 5 25 1 0, vWord 2 0 5 25 1, (st_inv _), by decide +kernel⟩,
   ⟨(st [vec (vWord 3 0 5 3 1)]), 0, 2, vIns 0 5 3 1 0, vWord 3 0 5 3 1, (st_inv _), by decide +kernel⟩⟩

/-- The hypotheses of VectorMemory are met together. -/
theorem witness_vector_memory_2 :
    (∃ (s : State) (core : Nat) (ctx : Nat) (v : VInstr) (w : Nat) (f : Nat) (rnd : Nat) (sr : BitVec 32) (idx : Word), s.Inv ∧
      core < 64 ∧ ctx < 5 ∧ s.vFront core ctx = some w ∧ 0x48 ≤ vOp w ∧ vOp w ≤ 0x4F ∧ vFields w = vKey v ∧ s.vTurn core ctx = true ∧
      convInvalid v f rnd = false ∧ fmtScale f ≠ 2) ∧
    (∃ (s : State) (core : Nat) (ctx : Nat) (v : VInstr) (w : Nat) (f : Nat) (rnd : Nat) (sr : BitVec 32) (idx : Word), s.Inv ∧
      core < 64 ∧ ctx < 5 ∧ s.vFront core ctx = some w ∧ 0x48 ≤ vOp w ∧ vOp w ≤ 0x4F ∧ vFields w = vKey v ∧ s.vTurn core ctx = true ∧
      convInvalid v f rnd = false ∧ fmtScale f = 2) ∧
    (∃ (s : State) (core : Nat) (ctx : Nat) (v : VInstr) (w : Nat) (f : Nat) (rnd : Nat) (sr : BitVec 32) (idx : Word), s.Inv ∧
      core < 64 ∧ ctx < 5 ∧ s.vFront core ctx = some w ∧ 0x48 ≤ vOp w ∧ vOp w ≤ 0x4F ∧ vFields w = vKey v ∧ s.vTurn core ctx = true ∧
      convInvalid v f rnd = false ∧ v.vd ≤ 30 ∧ fmtScale f ≠ 0) ∧
    (∃ (s : State) (core : Nat) (ctx : Nat) (v : VInstr) (w : Nat), s.Inv ∧ core < 64 ∧ ctx < 5 ∧ s.vFront core ctx = some w ∧
      0x50 ≤ vOp w ∧ vOp w ≤ 0x57 ∧ vFields w = vKey v ∧ s.vTurn core ctx = true ∧ (v.res = 0 ∨ s.isChk (s.ctxPart core ctx) = false)) ∧
    (∃ (s : State) (core : Nat) (ctx : Nat) (v : VInstr) (w : Nat) (rnd : Nat) (sr : BitVec 32) (idx : Word), s.Inv ∧ core < 64 ∧
      ctx < 5 ∧ s.vFront core ctx = some w ∧ 0x50 ≤ vOp w ∧ vOp w ≤ 0x57 ∧ vFields w = vKey v ∧ s.vTurn core ctx = true ∧ v.vd ≤ 28 ∧
      rnd ≤ 2) ∧
    (∃ (s : State) (core : Nat) (ctx : Nat) (v : VInstr) (w : Nat) (addr : Nat) (line : Nat) (len : Nat), s.Inv ∧ core < 64 ∧ ctx < 5 ∧
      s.vFront core ctx = some w ∧ 0x58 ≤ vOp w ∧ vOp w ≤ 0x5F ∧ vFields w = vKey v ∧ s.moveWait core ctx line len = false ∧ len ≤ 65536 ∧
      s.csOwned (s.ctxPart core ctx) core (line * 64) len = true) :=
  ⟨⟨(st [vec (vWord 72 11 0 3 1)]), 0, 2, vIns 11 0 3 1 0, vWord 72 11 0 3 1, 8, 0, 0, 0, (st_inv _), by decide +kernel⟩,
   ⟨(st [vec (vWord 72 11 0 3 1)]), 0, 2, vIns 11 0 3 1 0, vWord 72 11 0 3 1, 5, 0, 0, 0, (st_inv _), by decide +kernel⟩,
   ⟨(st [vec (vWord 73 11 0 3 1)]), 0, 2, vIns 11 0 3 1 0, vWord 73 11 0 3 1, 1, 0, 0, 0, (st_inv _), by decide +kernel⟩,
   ⟨(st [vec (vWord 80 12 0 3 1)]), 0, 2, vIns 12 0 3 1 0, vWord 80 12 0 3 1, (st_inv _), by decide +kernel, by decide +kernel, by decide +kernel, by decide +kernel, by decide +kernel, by decide +kernel, by decide +kernel, .inl rfl⟩,
   ⟨(st [vec (vWord 81 11 10 3 1)]), 0, 2, vIns 11 10 3 1 0, vWord 81 11 10 3 1, 0, 0, 0, (st_inv _), by decide +kernel⟩,
   ⟨(st [vec (vWord 88 0 0 3 1)]), 0, 2, vIns 0 0 3 1 0, vWord 88 0 0 3 1, 0x100, 7, 65, (st_inv _), by decide +kernel⟩⟩

/-- The hypotheses of VectorMemory are met together. -/
theorem witness_vector_memory_3 :
    (∃ (s : State) (core : Nat) (ctx : Nat) (v : VInstr) (w : Nat) (addr : Nat) (line : Nat) (len : Nat), s.Inv ∧ core < 64 ∧ ctx < 5 ∧
      s.vFront core ctx = some w ∧ 0x58 ≤ vOp w ∧ vOp w ≤ 0x5F ∧ vFields w = vKey v ∧ s.moveWait core ctx line len = true) ∧
    (∃ (s : State) (core : Nat) (ctx : Nat) (v : VInstr) (w : Nat) (addr : Nat) (line : Nat) (len : Nat), s.Inv ∧ core < 64 ∧ ctx < 5 ∧
      s.vFront core ctx = some w ∧ 0x58 ≤ vOp w ∧ vOp w ≤ 0x5F ∧ vFields w = vKey v ∧ len ≤ 65536) ∧
    (∃ (s : State) (core : Nat) (ctx : Nat) (v : VInstr) (w : Nat) (idx : Nat) (val : BitVec 16), s.Inv ∧ core < 64 ∧ ctx < 5 ∧
      s.vFront core ctx = some w ∧ 0x60 ≤ vOp w ∧ vOp w ≤ 0x63 ∧ vFields w = vKey v ∧ s.syncBad (s.ctxPart core ctx) idx = false ∧
      s.syncOk (s.ctxPart core ctx) idx val.toNat = true) ∧
    (∃ (s : State) (core : Nat) (ctx : Nat) (v : VInstr) (w : Nat) (idx : Nat) (val : BitVec 16), s.Inv ∧ core < 64 ∧ ctx < 5 ∧
      s.vFront core ctx = some w ∧ 0x60 ≤ vOp w ∧ vOp w ≤ 0x63 ∧ vFields w = vKey v ∧ s.syncBad (s.ctxPart core ctx) idx = false ∧
      s.syncOk (s.ctxPart core ctx) idx val.toNat = false) ∧
    (∃ (s : State) (core : Nat) (ctx : Nat) (v : VInstr) (w : Nat) (idx : Nat), s.Inv ∧ core < 64 ∧ ctx < 5 ∧
      s.vFront core ctx = some w ∧ 0x60 ≤ vOp w ∧ vOp w ≤ 0x63 ∧ vFields w = vKey v) :=
  ⟨⟨(st [vec (vWord 88 0 0 3 1), .modArrs 3 fun r => { r with tiles := [tileRun] }]), 0, 2, vIns 0 0 3 1 0, vWord 88 0 0 3 1, 0x100, 0x100, 65, (st_inv _), by decide +kernel⟩,
   ⟨(st [vec (vWord 88 0 0 3 1)]), 0, 2, vIns 0 0 3 1 0, vWord 88 0 0 3 1, 0x100, 7, 65536, (st_inv _), by decide +kernel⟩,
   ⟨(st [vec (vWord 96 0 0 3 1), .setMem 0x1100024 7]), 0, 2, vIns 0 0 3 1 0, vWord 96 0 0 3 1, 9, 7, (st_inv _), by decide +kernel⟩,
   ⟨(st [vec (vWord 96 0 0 3 1), .setMem 0x1100024 7]), 0, 2, vIns 0 0 3 1 0, vWord 96 0 0 3 1, 9, 8, (st_inv _), by decide +kernel⟩,
   ⟨(st [vec (vWord 97 0 0 3 1)]), 0, 2, vIns 0 0 3 1 0, vWord 97 0 0 3 1, 9, (st_inv _), by decide +kernel⟩⟩

/-- The hypotheses of DspAccumulators are met together. -/
theorem witness_dsp_accumulators :
    (∃ (s : State) (d : Nat) (sl : Slot) (j : DspJob) (acc : Nat) (a : Nat) (b : Nat), s.Inv ∧ d < 96 ∧ (s.dspsAt d).job = some j ∧
      j.phase = 1 ∧ bit (s.dspsAt d).done 0 = false ∧ 1 ≤ s.dspOp d (s.dspsAt d).pc 0 ∧ s.dspOp d (s.dspsAt d).pc 0 ≤ 0x0F ∧
      (s.dspsAt d).wrote.contains (wAcc, acc) = false ∧ sl.mem ≠ 2 ∧ sl.mem ≠ 3 ∧ sl.res = 0) ∧
    (∃ (s : State) (d : Nat) (sl : Slot) (j : DspJob) (acc : Nat) (a : Nat) (b : Nat), s.Inv ∧ d < 96 ∧ (s.dspsAt d).job = some j ∧
      j.phase = 1 ∧ bit (s.dspsAt d).done 0 = false ∧ 1 ≤ s.dspOp d (s.dspsAt d).pc 0 ∧ s.dspOp d (s.dspsAt d).pc 0 ≤ 0x0F ∧
      (s.dspsAt d).wrote.contains (wAcc, acc) = false ∧ sl.mem ≠ 2 ∧ sl.mem ≠ 3 ∧ sl.res = 0) ∧
    (∃ (s : State) (d : Nat) (sl : Slot) (j : DspJob) (acc : Nat) (a : Nat) (b : Nat), s.Inv ∧ d < 96 ∧ (s.dspsAt d).job = some j ∧
      j.phase = 1 ∧ bit (s.dspsAt d).done 0 = false ∧ 1 ≤ s.dspOp d (s.dspsAt d).pc 0 ∧ s.dspOp d (s.dspsAt d).pc 0 ≤ 0x0F ∧
      (s.dspsAt d).wrote.contains (wAcc, acc) = false ∧ sl.mem ≠ 2 ∧ sl.mem ≠ 3 ∧ sl.res = 0) ∧
    (∃ (s : State) (d : Nat) (sl : Slot) (j : DspJob) (acc : Nat) (a : Nat) (b : Nat), s.Inv ∧ d < 96 ∧ (s.dspsAt d).job = some j ∧
      j.phase = 1 ∧ bit (s.dspsAt d).done 0 = false ∧ 1 ≤ s.dspOp d (s.dspsAt d).pc 0 ∧ s.dspOp d (s.dspsAt d).pc 0 ≤ 0x0F ∧
      (s.dspsAt d).wrote.contains (wAcc, acc) = false ∧ sl.mem ≠ 2 ∧ sl.mem ≠ 3 ∧ sl.res = 0) ∧
    (∃ (s : State) (d : Nat) (sl : Slot) (j : DspJob) (acc : Nat) (a : Nat) (b : Nat), s.Inv ∧ d < 96 ∧ (s.dspsAt d).job = some j ∧
      j.phase = 1 ∧ bit (s.dspsAt d).done 0 = false ∧ 1 ≤ s.dspOp d (s.dspsAt d).pc 0 ∧ s.dspOp d (s.dspsAt d).pc 0 ≤ 0x0F ∧
      (s.dspsAt d).wrote.contains (wAcc, acc) = false ∧ sl.mem ≠ 2 ∧ sl.mem ≠ 3 ∧ sl.res = 0) :=
  ⟨⟨(st [dsp95 0 1]), 95, ⟨0, 0, 3⟩, job95, 1, 0, 1, (st_inv _), by decide +kernel⟩,
   ⟨(st [dsp95 0 2]), 95, ⟨0, 0, 3⟩, job95, 1, 0, 1, (st_inv _), by decide +kernel⟩,
   ⟨(st [dsp95 0 3]), 95, ⟨0, 0, 3⟩, job95, 1, 0, 1, (st_inv _), by decide +kernel⟩,
   ⟨(st [dsp95 0 4]), 95, ⟨0, 0, 3⟩, job95, 0, 1, 1, (st_inv _), by decide +kernel⟩,
   ⟨(st [dsp95 0 5]), 95, ⟨0, 0, 3⟩, job95, 0, 1, 0, (st_inv _), by decide +kernel⟩⟩

/-- The hypotheses of DspAccumulators are met together. -/
theorem witness_dsp_accumulators_2 :
    (∃ (s : State) (d : Nat) (sl : Slot) (j : DspJob) (acc : Nat), s.Inv ∧ d < 96 ∧ (s.dspsAt d).job = some j ∧ j.phase = 1 ∧
      bit (s.dspsAt d).done 0 = false ∧ 0x10 ≤ s.dspOp d (s.dspsAt d).pc 0 ∧ s.dspOp d (s.dspsAt d).pc 0 ≤ 0x1F ∧
      (s.dspsAt d).wrote.contains (wAcc, acc) = false ∧ sl.mem ≠ 2 ∧ sl.mem ≠ 3 ∧ sl.res = 0) ∧
    (∃ (s : State) (d : Nat) (sl : Slot) (j : DspJob) (acc : Nat) (a : Nat) (b : Nat), s.Inv ∧ d < 96 ∧ (s.dspsAt d).job = some j ∧
      j.phase = 1 ∧ bit (s.dspsAt d).done 0 = false ∧ 0x10 ≤ s.dspOp d (s.dspsAt d).pc 0 ∧ s.dspOp d (s.dspsAt d).pc 0 ≤ 0x1F ∧
      (s.dspsAt d).wrote.contains (wAcc, acc) = false ∧ sl.mem ≠ 2 ∧ sl.mem ≠ 3 ∧ sl.res = 0) ∧
    (∃ (s : State) (d : Nat) (sl : Slot) (j : DspJob) (acc : Nat) (a : Nat) (b : Nat), s.Inv ∧ d < 96 ∧ (s.dspsAt d).job = some j ∧
      j.phase = 1 ∧ bit (s.dspsAt d).done 0 = false ∧ 0x10 ≤ s.dspOp d (s.dspsAt d).pc 0 ∧ s.dspOp d (s.dspsAt d).pc 0 ≤ 0x1F ∧
      (s.dspsAt d).wrote.contains (wAcc, acc) = false ∧ sl.mem ≠ 2 ∧ sl.mem ≠ 3 ∧ sl.res = 0) ∧
    (∃ (s : State) (d : Nat) (sl : Slot) (j : DspJob) (acc : Nat) (a : Nat) (sh : Nat), s.Inv ∧ d < 96 ∧ (s.dspsAt d).job = some j ∧
      j.phase = 1 ∧ bit (s.dspsAt d).done 0 = false ∧ 0x10 ≤ s.dspOp d (s.dspsAt d).pc 0 ∧ s.dspOp d (s.dspsAt d).pc 0 ≤ 0x1F ∧
      (s.dspsAt d).wrote.contains (wAcc, acc) = false ∧ sl.mem ≠ 2 ∧ sl.mem ≠ 3 ∧ sl.res = 0) ∧
    (∃ (s : State) (d : Nat) (sl : Slot) (j : DspJob) (vd : Nat) (acc : Nat) (sh : Int), s.Inv ∧ d < 96 ∧ (s.dspsAt d).job = some j ∧
      j.phase = 1 ∧ bit (s.dspsAt d).done 0 = false ∧ 0x10 ≤ s.dspOp d (s.dspsAt d).pc 0 ∧ s.dspOp d (s.dspsAt d).pc 0 ≤ 0x1F ∧
      (s.dspsAt d).wrote.contains (wD, vd) = false ∧ sl.mem ≠ 2 ∧ sl.mem ≠ 3 ∧ sl.res = 0 ∧ -8 ≤ sh ∧ sh ≤ 8) :=
  ⟨⟨(st [dsp95 0 16]), 95, ⟨0, 0, 3⟩, job95, 0, (st_inv _), by decide +kernel⟩,
   ⟨(st [dsp95 0 17]), 95, ⟨0, 0, 3⟩, job95, 1, 0, 0, (st_inv _), by decide +kernel⟩,
   ⟨(st [dsp95 0 18]), 95, ⟨0, 0, 3⟩, job95, 1, 0, 1, (st_inv _), by decide +kernel⟩,
   ⟨(st [dsp95 0 19]), 95, ⟨0, 0, 3⟩, job95, 1, 1, 2, (st_inv _), by decide +kernel⟩,
   ⟨(st [dsp95 0 20]), 95, ⟨0, 0, 3⟩, job95, 1, 0, -8, (st_inv _), by decide +kernel⟩⟩

/-- The hypotheses of DspVectors are met together. -/
theorem witness_dsp_vectors :
    (∃ (s : State) (d : Nat) (sl : Slot) (j : DspJob) (vd : Nat) (a : Nat) (b : Nat), s.Inv ∧ d < 96 ∧ (s.dspsAt d).job = some j ∧
      j.phase = 1 ∧ bit (s.dspsAt d).done 0 = false ∧ 0x20 ≤ s.dspOp d (s.dspsAt d).pc 0 ∧ s.dspOp d (s.dspsAt d).pc 0 ≤ 0x3F ∧
      (s.dspsAt d).wrote.contains (wD, vd) = false ∧ sl.mem ≠ 2 ∧ sl.mem ≠ 3 ∧ sl.res = 0) ∧
    (∃ (s : State) (d : Nat) (sl : Slot) (j : DspJob) (vd : Nat) (a : Nat) (b : Nat), s.Inv ∧ d < 96 ∧ (s.dspsAt d).job = some j ∧
      j.phase = 1 ∧ bit (s.dspsAt d).done 0 = false ∧ 0x20 ≤ s.dspOp d (s.dspsAt d).pc 0 ∧ s.dspOp d (s.dspsAt d).pc 0 ≤ 0x3F ∧
      (s.dspsAt d).wrote.contains (wD, vd) = false ∧ sl.mem ≠ 2 ∧ sl.mem ≠ 3 ∧ sl.res = 0) ∧
    (∃ (s : State) (d : Nat) (sl : Slot) (j : DspJob) (vd : Nat) (a : Nat), s.Inv ∧ d < 96 ∧ (s.dspsAt d).job = some j ∧ j.phase = 1 ∧
      bit (s.dspsAt d).done 0 = false ∧ 0x20 ≤ s.dspOp d (s.dspsAt d).pc 0 ∧ s.dspOp d (s.dspsAt d).pc 0 ≤ 0x3F ∧
      (s.dspsAt d).wrote.contains (wD, vd) = false ∧ sl.mem ≠ 2 ∧ sl.mem ≠ 3 ∧ sl.res = 0) ∧
    (∃ (s : State) (d : Nat) (sl : Slot) (j : DspJob) (vd : Nat) (a : Nat), s.Inv ∧ d < 96 ∧ (s.dspsAt d).job = some j ∧ j.phase = 1 ∧
      bit (s.dspsAt d).done 0 = false ∧ 0x20 ≤ s.dspOp d (s.dspsAt d).pc 0 ∧ s.dspOp d (s.dspsAt d).pc 0 ≤ 0x3F ∧
      (s.dspsAt d).wrote.contains (wD, vd) = false ∧ sl.mem ≠ 2 ∧ sl.mem ≠ 3 ∧ sl.res = 0) ∧
    (∃ (s : State) (d : Nat) (sl : Slot) (j : DspJob) (vd : Nat) (a : Nat) (b : Nat), s.Inv ∧ d < 96 ∧ (s.dspsAt d).job = some j ∧
      j.phase = 1 ∧ bit (s.dspsAt d).done 0 = false ∧ 0x20 ≤ s.dspOp d (s.dspsAt d).pc 0 ∧ s.dspOp d (s.dspsAt d).pc 0 ≤ 0x3F ∧
      (s.dspsAt d).wrote.contains (wD, vd) = false ∧ sl.mem ≠ 2 ∧ sl.mem ≠ 3 ∧ sl.res = 0) ∧
    (∃ (s : State) (d : Nat) (sl : Slot) (j : DspJob) (vd : Nat) (a : Nat) (b : Nat), s.Inv ∧ d < 96 ∧ (s.dspsAt d).job = some j ∧
      j.phase = 1 ∧ bit (s.dspsAt d).done 0 = false ∧ 0x20 ≤ s.dspOp d (s.dspsAt d).pc 0 ∧ s.dspOp d (s.dspsAt d).pc 0 ≤ 0x3F ∧
      (s.dspsAt d).wrote.contains (wD, vd) = false ∧ sl.mem ≠ 2 ∧ sl.mem ≠ 3 ∧ sl.res = 0) ∧
    (∃ (s : State) (d : Nat) (sl : Slot) (j : DspJob) (vd : Nat) (a : Nat) (sh : Nat), s.Inv ∧ d < 96 ∧ (s.dspsAt d).job = some j ∧
      j.phase = 1 ∧ bit (s.dspsAt d).done 0 = false ∧ 0x20 ≤ s.dspOp d (s.dspsAt d).pc 0 ∧ s.dspOp d (s.dspsAt d).pc 0 ≤ 0x3F ∧
      (s.dspsAt d).wrote.contains (wD, vd) = false ∧ sl.mem ≠ 2 ∧ sl.mem ≠ 3 ∧ sl.res = 0) ∧
    (∃ (s : State) (d : Nat) (sl : Slot) (j : DspJob) (vd : Nat) (a : Nat) (sh : Nat), s.Inv ∧ d < 96 ∧ (s.dspsAt d).job = some j ∧
      j.phase = 1 ∧ bit (s.dspsAt d).done 0 = false ∧ 0x20 ≤ s.dspOp d (s.dspsAt d).pc 0 ∧ s.dspOp d (s.dspsAt d).pc 0 ≤ 0x3F ∧
      (s.dspsAt d).wrote.contains (wD, vd) = false ∧ sl.mem ≠ 2 ∧ sl.mem ≠ 3 ∧ sl.res = 0) :=
  ⟨⟨(st [dsp95 0 32]), 95, ⟨0, 0, 3⟩, job95, 1, 0, 1, (st_inv _), by decide +kernel⟩,
   ⟨(st [dsp95 0 33]), 95, ⟨0, 0, 3⟩, job95, 1, 1, 0, (st_inv _), by decide +kernel⟩,
   ⟨(st [dsp95 0 34]), 95, ⟨0, 0, 3⟩, job95, 2, 1, (st_inv _), by decide +kernel⟩,
   ⟨(st [dsp95 0 35]), 95, ⟨0, 0, 3⟩, job95, 2, 1, (st_inv _), by decide +kernel⟩,
   ⟨(st [dsp95 0 36]), 95, ⟨0, 0, 3⟩, job95, 1, 0, 1, (st_inv _), by decide +kernel⟩,
   ⟨(st [dsp95 0 37]), 95, ⟨0, 0, 3⟩, job95, 1, 0, 1, (st_inv _), by decide +kernel⟩,
   ⟨(st [dsp95 0 38]), 95, ⟨0, 0, 3⟩, job95, 1, 0, 30, (st_inv _), by decide +kernel⟩,
   ⟨(st [dsp95 0 39]), 95, ⟨0, 0, 3⟩, job95, 1, 0, 1, (st_inv _), by decide +kernel⟩⟩

/-- The hypotheses of DspVectors are met together. -/
theorem witness_dsp_vectors_2 :
    (∃ (s : State) (d : Nat) (sl : Slot) (j : DspJob) (vd : Nat) (a : Nat) (b : Nat), s.Inv ∧ d < 96 ∧ (s.dspsAt d).job = some j ∧
      j.phase = 1 ∧ bit (s.dspsAt d).done 0 = false ∧ 0x20 ≤ s.dspOp d (s.dspsAt d).pc 0 ∧ s.dspOp d (s.dspsAt d).pc 0 ≤ 0x3F ∧
      (s.dspsAt d).wrote.contains (wD, vd) = false ∧ sl.mem ≠ 2 ∧ sl.mem ≠ 3 ∧ sl.res = 0) ∧
    (∃ (s : State) (d : Nat) (sl : Slot) (j : DspJob) (vd : Nat) (a : Nat) (b : Nat), s.Inv ∧ d < 96 ∧ (s.dspsAt d).job = some j ∧
      j.phase = 1 ∧ bit (s.dspsAt d).done 0 = false ∧ 0x20 ≤ s.dspOp d (s.dspsAt d).pc 0 ∧ s.dspOp d (s.dspsAt d).pc 0 ≤ 0x3F ∧
      (s.dspsAt d).wrote.contains (wD, vd) = false ∧ sl.mem ≠ 2 ∧ sl.mem ≠ 3 ∧ sl.res = 0) ∧
    (∃ (s : State) (d : Nat) (sl : Slot) (j : DspJob) (vd : Nat) (a : Nat) (b : Nat), s.Inv ∧ d < 96 ∧ (s.dspsAt d).job = some j ∧
      j.phase = 1 ∧ bit (s.dspsAt d).done 0 = false ∧ 0x20 ≤ s.dspOp d (s.dspsAt d).pc 0 ∧ s.dspOp d (s.dspsAt d).pc 0 ≤ 0x3F ∧
      (s.dspsAt d).wrote.contains (wD, vd) = false ∧ sl.mem ≠ 2 ∧ sl.mem ≠ 3 ∧ sl.res = 0) ∧
    (∃ (s : State) (d : Nat) (sl : Slot) (j : DspJob) (vd : Nat) (a : Nat) (b : Nat) (c : Nat), s.Inv ∧ d < 96 ∧
      (s.dspsAt d).job = some j ∧ j.phase = 1 ∧ bit (s.dspsAt d).done 0 = false ∧ 0x20 ≤ s.dspOp d (s.dspsAt d).pc 0 ∧
      s.dspOp d (s.dspsAt d).pc 0 ≤ 0x3F ∧ (s.dspsAt d).wrote.contains (wD, vd) = false ∧ sl.mem ≠ 2 ∧ sl.mem ≠ 3 ∧ sl.res = 0) ∧
    (∃ (s : State) (d : Nat) (sl : Slot) (j : DspJob) (vd : Nat) (a : Nat), s.Inv ∧ d < 96 ∧ (s.dspsAt d).job = some j ∧ j.phase = 1 ∧
      bit (s.dspsAt d).done 0 = false ∧ 0x40 ≤ s.dspOp d (s.dspsAt d).pc 0 ∧ s.dspOp d (s.dspsAt d).pc 0 ≤ 0x47 ∧
      (s.dspsAt d).wrote.contains (wD, vd) = false ∧ sl.mem ≠ 2 ∧ sl.mem ≠ 3) ∧
    (∃ (s : State) (d : Nat) (sl : Slot) (j : DspJob) (vd : Nat) (a : Nat), s.Inv ∧ d < 96 ∧ (s.dspsAt d).job = some j ∧ j.phase = 1 ∧
      bit (s.dspsAt d).done 0 = false ∧ 0x40 ≤ s.dspOp d (s.dspsAt d).pc 0 ∧ s.dspOp d (s.dspsAt d).pc 0 ≤ 0x47 ∧
      (s.dspsAt d).wrote.contains (wD, vd) = false ∧ sl.mem ≠ 2 ∧ sl.mem ≠ 3) ∧
    (∃ (s : State) (d : Nat) (sl : Slot) (j : DspJob) (vd : Nat) (a : Nat) (b : Nat), s.Inv ∧ d < 96 ∧ (s.dspsAt d).job = some j ∧
      j.phase = 1 ∧ bit (s.dspsAt d).done 0 = false ∧ 0x20 ≤ s.dspOp d (s.dspsAt d).pc 0 ∧ s.dspOp d (s.dspsAt d).pc 0 ≤ 0x3F ∧
      (s.dspsAt d).wrote.contains (wD, vd) = false ∧ sl.mem ≠ 2 ∧ sl.mem ≠ 3 ∧ sl.res = 2 ∧ j.radio = false) :=
  ⟨⟨(st [dsp95 0 40]), 95, ⟨0, 0, 3⟩, job95, 1, 0, 1, (st_inv _), by decide +kernel⟩,
   ⟨(st [dsp95 0 41]), 95, ⟨0, 0, 3⟩, job95, 1, 0, 1, (st_inv _), by decide +kernel⟩,
   ⟨(st [dsp95 0 42]), 95, ⟨0, 0, 3⟩, job95, 1, 0, 1, (st_inv _), by decide +kernel⟩,
   ⟨(st [dsp95 0 43]), 95, ⟨0, 0, 3⟩, job95, 1, 0, 1, 0, (st_inv _), by decide +kernel⟩,
   ⟨(st [dsp95 0 64]), 95, ⟨0, 0, 3⟩, job95, 1, 0, (st_inv _), by decide +kernel⟩,
   ⟨(st [dsp95 0 65]), 95, ⟨0, 0, 3⟩, job95, 1, 0, (st_inv _), by decide +kernel⟩,
   ⟨(st [dsp95 0 32]), 95, ⟨2, 0, 0⟩, job95, 1, 0, 1, (st_inv _), by decide +kernel⟩⟩

/-- The hypotheses of DspMemory are met together. -/
theorem witness_dsp_memory :
    (∃ (s : State) (d : Nat) (sl : Slot) (j : DspJob) (vd : Nat) (ag : Nat), s.Inv ∧ d < 96 ∧ (s.dspsAt d).job = some j ∧ j.phase = 1 ∧
      bit (s.dspsAt d).done 1 = false ∧ 1 ≤ s.dspOp d (s.dspsAt d).pc 1 ∧ s.dspOp d (s.dspsAt d).pc 1 ≤ 0x0F ∧
      (s.dspsAt d).wrote.contains (wAg, ag) = false ∧ (s.dspsAt d).wrote.contains (wD, vd) = false ∧ sl.mem ≠ 2 ∧ sl.mem ≠ 3 ∧
      (((s.dspsAt d).snap.getD (s.dspsAt d).regs).agen ag).mem = 0 ∧
      ((List.range 16).all (fun k => (((s.dspsAt d).snap.getD (s.dspsAt d).regs).agen ag).word k < 49152) = true)) ∧
    (∃ (s : State) (d : Nat) (sl : Slot) (j : DspJob) (vd : Nat) (ag : Nat), s.Inv ∧ d < 96 ∧ (s.dspsAt d).job = some j ∧ j.phase = 1 ∧
      bit (s.dspsAt d).done 1 = false ∧ 1 ≤ s.dspOp d (s.dspsAt d).pc 1 ∧ s.dspOp d (s.dspsAt d).pc 1 ≤ 0x0F ∧
      (s.dspsAt d).wrote.contains (wAg, ag) = false ∧ (s.dspsAt d).wrote.contains (wD, vd) = false ∧ sl.mem ≠ 2 ∧ sl.mem ≠ 3 ∧
      (((s.dspsAt d).snap.getD (s.dspsAt d).regs).agen ag).mem = 0 ∧
      ((List.range 16).all (fun k => (((s.dspsAt d).snap.getD (s.dspsAt d).regs).agen ag).half k / 2 < 49152) = true)) ∧
    (∃ (s : State) (d : Nat) (sl : Slot) (j : DspJob) (sd : Nat) (ag : Nat), s.Inv ∧ d < 96 ∧ (s.dspsAt d).job = some j ∧ j.phase = 1 ∧
      bit (s.dspsAt d).done 1 = false ∧ 1 ≤ s.dspOp d (s.dspsAt d).pc 1 ∧ s.dspOp d (s.dspsAt d).pc 1 ≤ 0x0F ∧
      (s.dspsAt d).wrote.contains (wAg, ag) = false ∧ (s.dspsAt d).wrote.contains (wS, sd) = false ∧ sl.mem ≠ 2 ∧ sl.mem ≠ 3 ∧
      (((s.dspsAt d).snap.getD (s.dspsAt d).regs).agen ag).mem = 0 ∧ (((s.dspsAt d).snap.getD (s.dspsAt d).regs).agen ag).word 0 < 49152) ∧
    (∃ (s : State) (d : Nat) (sl : Slot) (j : DspJob) (va : Nat) (ag : Nat), s.Inv ∧ d < 96 ∧ (s.dspsAt d).job = some j ∧ j.phase = 1 ∧
      bit (s.dspsAt d).done 1 = false ∧ 1 ≤ s.dspOp d (s.dspsAt d).pc 1 ∧ s.dspOp d (s.dspsAt d).pc 1 ≤ 0x0F ∧
      (s.dspsAt d).wrote.contains (wAg, ag) = false ∧ sl.mem ≠ 2 ∧ sl.mem ≠ 3 ∧
      (((s.dspsAt d).snap.getD (s.dspsAt d).regs).agen ag).mem = 0 ∧
      ((List.range 16).all (fun k => (((s.dspsAt d).snap.getD (s.dspsAt d).regs).agen ag).word k < 49152) = true)) ∧
    (∃ (s : State) (d : Nat) (sl : Slot) (j : DspJob) (va : Nat) (ag : Nat), s.Inv ∧ d < 96 ∧ (s.dspsAt d).job = some j ∧ j.phase = 1 ∧
      bit (s.dspsAt d).done 1 = false ∧ 1 ≤ s.dspOp d (s.dspsAt d).pc 1 ∧ s.dspOp d (s.dspsAt d).pc 1 ≤ 0x0F ∧
      (s.dspsAt d).wrote.contains (wAg, ag) = false ∧ sl.mem ≠ 2 ∧ sl.mem ≠ 3 ∧ sl.res = 0 ∧
      (((s.dspsAt d).snap.getD (s.dspsAt d).regs).agen ag).mem = 0 ∧
      ((List.range 16).all (fun k => (((s.dspsAt d).snap.getD (s.dspsAt d).regs).agen ag).half k / 2 < 49152) = true)) ∧
    (∃ (s : State) (d : Nat) (sl : Slot) (j : DspJob) (sa : Nat) (ag : Nat), s.Inv ∧ d < 96 ∧ (s.dspsAt d).job = some j ∧ j.phase = 1 ∧
      bit (s.dspsAt d).done 1 = false ∧ 1 ≤ s.dspOp d (s.dspsAt d).pc 1 ∧ s.dspOp d (s.dspsAt d).pc 1 ≤ 0x0F ∧
      (s.dspsAt d).wrote.contains (wAg, ag) = false ∧ sl.mem ≠ 2 ∧ sl.mem ≠ 3 ∧
      (((s.dspsAt d).snap.getD (s.dspsAt d).regs).agen ag).mem = 0 ∧ (((s.dspsAt d).snap.getD (s.dspsAt d).regs).agen ag).word 0 < 49152) ∧
    (∃ (s : State) (d : Nat) (sl : Slot) (j : DspJob) (vd : Nat) (ag : Nat), s.Inv ∧ d < 96 ∧ (s.dspsAt d).job = some j ∧ j.phase = 1 ∧
      bit (s.dspsAt d).done 2 = false ∧ 1 ≤ s.dspOp d (s.dspsAt d).pc 2 ∧ s.dspOp d (s.dspsAt d).pc 2 ≤ 0x0F ∧
      (s.dspsAt d).wrote.contains (wAg, ag) = false ∧ (s.dspsAt d).wrote.contains (wD, vd) = false ∧ sl.mem ≠ 2 ∧ sl.mem ≠ 3 ∧
      (((s.dspsAt d).snap.getD (s.dspsAt d).regs).agen ag).mem = 1 ∧
      ((List.range 16).all (fun k => (((s.dspsAt d).snap.getD (s.dspsAt d).regs).agen ag).word k < 49152) = true)) :=
  ⟨⟨(st [dsp95 1 3, .setDspMem (dmKey 95 0 17) 0x12345678, .setDspMem (dmKey 95 0 33) 0x87654321]), 95, ⟨0, 0, 3⟩, job95, 2, 0, (st_inv _), by decide +kernel⟩,
   ⟨(st [dsp95 1 3, .setDspMem (dmKey 95 0 17) 0x12345678, .setDspMem (dmKey 95 0 33) 0x87654321]), 95, ⟨0, 0, 3⟩, job95, 2, 0, (st_inv _), by decide +kernel⟩,
   ⟨(st [dsp95 1 3, .setDspMem (dmKey 95 0 17) 0x12345678, .setDspMem (dmKey 95 0 33) 0x87654321]), 95, ⟨0, 0, 3⟩, job95, 2, 0, (st_inv _), by decide +kernel⟩,
   ⟨(st [dsp95 1 3, .setDspMem (dmKey 95 0 17) 0x12345678, .setDspMem (dmKey 95 0 33) 0x87654321]), 95, ⟨0, 0, 3⟩, job95, 1, 0, (st_inv _), by decide +kernel⟩,
   ⟨(st [dsp95 1 3, .setDspMem (dmKey 95 0 17) 0x12345678, .setDspMem (dmKey 95 0 33) 0x87654321]), 95, ⟨0, 0, 3⟩, job95, 1, 0, (st_inv _), by decide +kernel⟩,
   ⟨(st [dsp95 1 3, .setDspMem (dmKey 95 0 17) 0x12345678, .setDspMem (dmKey 95 0 33) 0x87654321]), 95, ⟨0, 0, 3⟩, job95, 1, 0, (st_inv _), by decide +kernel⟩,
   ⟨(st [dsp95 2 3, .setDspMem (dmKey 95 1 17) 0x12345678, .setDspMem (dmKey 95 1 33) 0x87654321]), 95, ⟨0, 0, 3⟩, job95, 2, 1, (st_inv _), by decide +kernel⟩⟩

/-- The hypotheses of DspMemory are met together. -/
theorem witness_dsp_memory_2 :
    (∃ (s : State) (d : Nat) (sl : Slot) (j : DspJob) (vd : Nat) (ag : Nat), s.Inv ∧ d < 96 ∧ (s.dspsAt d).job = some j ∧ j.phase = 1 ∧
      bit (s.dspsAt d).done 2 = false ∧ 1 ≤ s.dspOp d (s.dspsAt d).pc 2 ∧ s.dspOp d (s.dspsAt d).pc 2 ≤ 0x0F ∧
      (s.dspsAt d).wrote.contains (wAg, ag) = false ∧ (s.dspsAt d).wrote.contains (wD, vd) = false ∧ sl.mem ≠ 2 ∧ sl.mem ≠ 3 ∧
      (((s.dspsAt d).snap.getD (s.dspsAt d).regs).agen ag).mem = 1 ∧
      ((List.range 16).all (fun k => (((s.dspsAt d).snap.getD (s.dspsAt d).regs).agen ag).half k / 2 < 49152) = true)) ∧
    (∃ (s : State) (d : Nat) (sl : Slot) (j : DspJob) (sd : Nat) (ag : Nat), s.Inv ∧ d < 96 ∧ (s.dspsAt d).job = some j ∧ j.phase = 1 ∧
      bit (s.dspsAt d).done 2 = false ∧ 1 ≤ s.dspOp d (s.dspsAt d).pc 2 ∧ s.dspOp d (s.dspsAt d).pc 2 ≤ 0x0F ∧
      (s.dspsAt d).wrote.contains (wAg, ag) = false ∧ (s.dspsAt d).wrote.contains (wS, sd) = false ∧ sl.mem ≠ 2 ∧ sl.mem ≠ 3 ∧
      (((s.dspsAt d).snap.getD (s.dspsAt d).regs).agen ag).mem = 1 ∧ (((s.dspsAt d).snap.getD (s.dspsAt d).regs).agen ag).word 0 < 49152) ∧
    (∃ (s : State) (d : Nat) (sl : Slot) (j : DspJob) (va : Nat) (ag : Nat), s.Inv ∧ d < 96 ∧ (s.dspsAt d).job = some j ∧ j.phase = 1 ∧
      bit (s.dspsAt d).done 2 = false ∧ 1 ≤ s.dspOp d (s.dspsAt d).pc 2 ∧ s.dspOp d (s.dspsAt d).pc 2 ≤ 0x0F ∧
      (s.dspsAt d).wrote.contains (wAg, ag) = false ∧ sl.mem ≠ 2 ∧ sl.mem ≠ 3 ∧
      (((s.dspsAt d).snap.getD (s.dspsAt d).regs).agen ag).mem = 1 ∧
      ((List.range 16).all (fun k => (((s.dspsAt d).snap.getD (s.dspsAt d).regs).agen ag).word k < 49152) = true)) ∧
    (∃ (s : State) (d : Nat) (sl : Slot) (j : DspJob) (va : Nat) (ag : Nat), s.Inv ∧ d < 96 ∧ (s.dspsAt d).job = some j ∧ j.phase = 1 ∧
      bit (s.dspsAt d).done 2 = false ∧ 1 ≤ s.dspOp d (s.dspsAt d).pc 2 ∧ s.dspOp d (s.dspsAt d).pc 2 ≤ 0x0F ∧
      (s.dspsAt d).wrote.contains (wAg, ag) = false ∧ sl.mem ≠ 2 ∧ sl.mem ≠ 3 ∧ sl.res = 0 ∧
      (((s.dspsAt d).snap.getD (s.dspsAt d).regs).agen ag).mem = 1 ∧
      ((List.range 16).all (fun k => (((s.dspsAt d).snap.getD (s.dspsAt d).regs).agen ag).half k / 2 < 49152) = true)) ∧
    (∃ (s : State) (d : Nat) (sl : Slot) (j : DspJob) (sa : Nat) (ag : Nat), s.Inv ∧ d < 96 ∧ (s.dspsAt d).job = some j ∧ j.phase = 1 ∧
      bit (s.dspsAt d).done 2 = false ∧ 1 ≤ s.dspOp d (s.dspsAt d).pc 2 ∧ s.dspOp d (s.dspsAt d).pc 2 ≤ 0x0F ∧
      (s.dspsAt d).wrote.contains (wAg, ag) = false ∧ sl.mem ≠ 2 ∧ sl.mem ≠ 3 ∧
      (((s.dspsAt d).snap.getD (s.dspsAt d).regs).agen ag).mem = 1 ∧ (((s.dspsAt d).snap.getD (s.dspsAt d).regs).agen ag).word 0 < 49152) ∧
    (∃ (s : State) (d : Nat) (sl : Slot) (j : DspJob) (vd : Nat) (ag : Nat), s.Inv ∧ d < 96 ∧ (s.dspsAt d).job = some j ∧ j.phase = 1 ∧
      bit (s.dspsAt d).done 1 = false ∧ 1 ≤ s.dspOp d (s.dspsAt d).pc 1 ∧ s.dspOp d (s.dspsAt d).pc 1 ≤ 0x0F ∧
      (s.dspsAt d).wrote.contains (wAg, ag) = false ∧ (s.dspsAt d).wrote.contains (wD, vd) = false ∧ sl.mem ≠ 2 ∧ sl.mem ≠ 3 ∧
      (((s.dspsAt d).snap.getD (s.dspsAt d).regs).agen ag).mem = 0 ∧
      ((List.range 16).any (fun k => 49152 ≤ (((s.dspsAt d).snap.getD (s.dspsAt d).regs).agen ag).word k) = true)) :=
  ⟨⟨(st [dsp95 2 3, .setDspMem (dmKey 95 1 17) 0x12345678, .setDspMem (dmKey 95 1 33) 0x87654321]), 95, ⟨0, 0, 3⟩, job95, 2, 1, (st_inv _), by decide +kernel⟩,
   ⟨(st [dsp95 2 3, .setDspMem (dmKey 95 1 17) 0x12345678, .setDspMem (dmKey 95 1 33) 0x87654321]), 95, ⟨0, 0, 3⟩, job95, 2, 1, (st_inv _), by decide +kernel⟩,
   ⟨(st [dsp95 2 3, .setDspMem (dmKey 95 1 17) 0x12345678, .setDspMem (dmKey 95 1 33) 0x87654321]), 95, ⟨0, 0, 3⟩, job95, 1, 1, (st_inv _), by decide +kernel⟩,
   ⟨(st [dsp95 2 3, .setDspMem (dmKey 95 1 17) 0x12345678, .setDspMem (dmKey 95 1 33) 0x87654321]), 95, ⟨0, 0, 3⟩, job95, 1, 1, (st_inv _), by decide +kernel⟩,
   ⟨(st [dsp95 2 3, .setDspMem (dmKey 95 1 17) 0x12345678, .setDspMem (dmKey 95 1 33) 0x87654321]), 95, ⟨0, 0, 3⟩, job95, 1, 1, (st_inv _), by decide +kernel⟩,
   ⟨(st [dsp95 1 3, .modDsps 95 fun y => { y with regs := { y.regs with ag := [⟨49151, 0, 16, 0, 0, 0⟩] } }]), 95, ⟨0, 0, 3⟩, job95, 1, 0, (st_inv _), by decide +kernel⟩⟩

/-- The hypotheses of DspControl are met together. -/
theorem witness_dsp_control :
    (∃ (s : State) (d : Nat) (sl : Slot) (j : DspJob) (target : Nat) (g : Nat), s.Inv ∧ d < 96 ∧ (s.dspsAt d).job = some j ∧
      j.phase = 1 ∧ bit (s.dspsAt d).done 3 = false ∧ 1 ≤ s.dspOp d (s.dspsAt d).pc 3 ∧ s.dspOp d (s.dspsAt d).pc 3 ≤ 0x1F ∧ sl.mem ≠ 2 ∧
      sl.mem ≠ 3 ∧ g = target % 8192 ∧ ((List.range 4).any (fun i => opBad i (s.dspOp d (s.dspsAt d).pc i)) = false) ∧
      setBit (s.dspsAt d).done 3 = s.dspSlots d (s.dspsAt d).pc ∧ ((List.range 4).any (fun i => opBad i (s.dspOp d g i)) = false) ∧
      s.dspSlots d g ≠ 0) ∧
    (∃ (s : State) (d : Nat) (sl : Slot) (j : DspJob) (target : Nat), s.Inv ∧ d < 96 ∧ (s.dspsAt d).job = some j ∧ j.phase = 1 ∧
      bit (s.dspsAt d).done 3 = false ∧ 1 ≤ s.dspOp d (s.dspsAt d).pc 3 ∧ s.dspOp d (s.dspsAt d).pc 3 ≤ 0x1F ∧ sl.mem ≠ 2 ∧ sl.mem ≠ 3 ∧
      ((List.range 4).any (fun i => opBad i (s.dspOp d (s.dspsAt d).pc i)) = false) ∧
      setBit (s.dspsAt d).done 3 ≠ s.dspSlots d (s.dspsAt d).pc ∧ sl.mem = 0) ∧
    (∃ (s : State) (d : Nat) (sl : Slot) (j : DspJob) (c : Nat) (a : Nat) (b : Nat) (target : Nat) (g : Nat), s.Inv ∧ d < 96 ∧
      (s.dspsAt d).job = some j ∧ j.phase = 1 ∧ bit (s.dspsAt d).done 3 = false ∧ 1 ≤ s.dspOp d (s.dspsAt d).pc 3 ∧
      s.dspOp d (s.dspsAt d).pc 3 ≤ 0x1F ∧ sl.mem ≠ 2 ∧ sl.mem ≠ 3 ∧
      dspCond c (((s.dspsAt d).snap.getD (s.dspsAt d).regs).sreg a) (((s.dspsAt d).snap.getD (s.dspsAt d).regs).sreg b) = true ∧
      g = target % 8192 ∧ ((List.range 4).any (fun i => opBad i (s.dspOp d (s.dspsAt d).pc i)) = false) ∧
      setBit (s.dspsAt d).done 3 = s.dspSlots d (s.dspsAt d).pc ∧ ((List.range 4).any (fun i => opBad i (s.dspOp d g i)) = false) ∧
      s.dspSlots d g ≠ 0) ∧
    (∃ (s : State) (d : Nat) (sl : Slot) (j : DspJob) (c : Nat) (a : Nat) (b : Nat) (target : Nat), s.Inv ∧ d < 96 ∧
      (s.dspsAt d).job = some j ∧ j.phase = 1 ∧ bit (s.dspsAt d).done 3 = false ∧ 1 ≤ s.dspOp d (s.dspsAt d).pc 3 ∧
      s.dspOp d (s.dspsAt d).pc 3 ≤ 0x1F ∧ sl.mem ≠ 2 ∧ sl.mem ≠ 3 ∧
      ((List.range 4).any (fun i => opBad i (s.dspOp d (s.dspsAt d).pc i)) = false) ∧
      setBit (s.dspsAt d).done 3 ≠ s.dspSlots d (s.dspsAt d).pc ∧ sl.mem = 0 ∧ (s.dspsAt d).jump = none) ∧
    (∃ (s : State) (d : Nat) (sl : Slot) (j : DspJob) (target : Nat) (g : Nat), s.Inv ∧ d < 96 ∧ (s.dspsAt d).job = some j ∧
      j.phase = 1 ∧ bit (s.dspsAt d).done 3 = false ∧ 1 ≤ s.dspOp d (s.dspsAt d).pc 3 ∧ s.dspOp d (s.dspsAt d).pc 3 ≤ 0x1F ∧ sl.mem ≠ 2 ∧
      sl.mem ≠ 3 ∧ g = target % 8192 ∧ ((List.range 4).any (fun i => opBad i (s.dspOp d (s.dspsAt d).pc i)) = false) ∧
      setBit (s.dspsAt d).done 3 = s.dspSlots d (s.dspsAt d).pc ∧ ((List.range 4).any (fun i => opBad i (s.dspOp d g i)) = false) ∧
      s.dspSlots d g ≠ 0) ∧
    (∃ (s : State) (d : Nat) (sl : Slot) (j : DspJob) (g : Nat) (l : List Nat), s.Inv ∧ d < 96 ∧ (s.dspsAt d).job = some j ∧
      j.phase = 1 ∧ bit (s.dspsAt d).done 3 = false ∧ 1 ≤ s.dspOp d (s.dspsAt d).pc 3 ∧ s.dspOp d (s.dspsAt d).pc 3 ≤ 0x1F ∧ sl.mem ≠ 2 ∧
      sl.mem ≠ 3 ∧ ((s.dspsAt d).snap.getD (s.dspsAt d).regs).rets = g :: l ∧ g < 8192 ∧
      ((List.range 4).any (fun i => opBad i (s.dspOp d (s.dspsAt d).pc i)) = false) ∧
      setBit (s.dspsAt d).done 3 = s.dspSlots d (s.dspsAt d).pc ∧ ((List.range 4).any (fun i => opBad i (s.dspOp d g i)) = false) ∧
      s.dspSlots d g ≠ 0) :=
  ⟨⟨(st [dsp95 3 1]), 95, ⟨0, 0, 3⟩, job95, 8201, 9, (st_inv _), by decide +kernel⟩,
   ⟨(st [dsp95 3 1 true]), 95, ⟨0, 0, 3⟩, job95, 8201, (st_inv _), by decide +kernel⟩,
   ⟨(st [dsp95 3 2]), 95, ⟨0, 0, 3⟩, job95, 4, 0, 1, 9, 9, (st_inv _), by decide +kernel⟩,
   ⟨(st [dsp95 3 2 true]), 95, ⟨0, 0, 3⟩, job95, 2, 0, 1, 9, (st_inv _), by decide +kernel⟩,
   ⟨(st [dsp95 3 3]), 95, ⟨0, 0, 3⟩, job95, 9, 9, (st_inv _), by decide +kernel⟩,
   ⟨(st [dsp95 3 4]), 95, ⟨0, 0, 3⟩, job95, 9, [], (st_inv _), by decide +kernel⟩⟩

/-- The hypotheses of DspControl are met together. -/
theorem witness_dsp_control_2 :
    (∃ (s : State) (d : Nat) (sl : Slot) (j : DspJob), s.Inv ∧ d < 96 ∧ (s.dspsAt d).job = some j ∧ j.phase = 1 ∧
      bit (s.dspsAt d).done 3 = false ∧ 1 ≤ s.dspOp d (s.dspsAt d).pc 3 ∧ s.dspOp d (s.dspsAt d).pc 3 ≤ 0x1F ∧ sl.mem ≠ 2 ∧ sl.mem ≠ 3 ∧
      ((s.dspsAt d).snap.getD (s.dspsAt d).regs).rets = []) ∧
    (∃ (s : State) (d : Nat) (sl : Slot) (j : DspJob), s.Inv ∧ d < 96 ∧ (s.dspsAt d).job = some j ∧ j.phase = 1 ∧
      bit (s.dspsAt d).done 3 = false ∧ 1 ≤ s.dspOp d (s.dspsAt d).pc 3 ∧ s.dspOp d (s.dspsAt d).pc 3 ≤ 0x1F ∧ sl.mem ≠ 2 ∧ sl.mem ≠ 3 ∧
      ((List.range 4).any (fun i => opBad i (s.dspOp d (s.dspsAt d).pc i)) = false) ∧
      setBit (s.dspsAt d).done 3 = s.dspSlots d (s.dspsAt d).pc) ∧
    (∃ (s : State) (d : Nat) (sl : Slot) (j : DspJob) (reg : Bool) (count : Nat) (off : Nat) (n : Nat) (g : Nat), s.Inv ∧ d < 96 ∧
      (s.dspsAt d).job = some j ∧ j.phase = 1 ∧ bit (s.dspsAt d).done 3 = false ∧ 1 ≤ s.dspOp d (s.dspsAt d).pc 3 ∧
      s.dspOp d (s.dspsAt d).pc 3 ≤ 0x1F ∧ sl.mem ≠ 2 ∧ sl.mem ≠ 3 ∧
      n = (if reg then ((s.dspsAt d).snap.getD (s.dspsAt d).regs).sreg count else count) % 65536 ∧ n ≠ 0 ∧ off ≠ 0 ∧
      ((s.dspsAt d).snap.getD (s.dspsAt d).regs).loops.length < 4 ∧ g = ((s.dspsAt d).pc + 1) % 8192 ∧
      s.loopFits d (s.dspsAt d).pc off = false ∧ ((List.range 4).any (fun i => opBad i (s.dspOp d (s.dspsAt d).pc i)) = false) ∧
      setBit (s.dspsAt d).done 3 = s.dspSlots d (s.dspsAt d).pc ∧ ((List.range 4).any (fun i => opBad i (s.dspOp d g i)) = false) ∧
      s.dspSlots d g ≠ 0) ∧
    (∃ (s : State) (d : Nat) (sl : Slot) (j : DspJob) (reg : Bool) (count : Nat) (off : Nat) (n : Nat) (g : Nat), s.Inv ∧ d < 96 ∧
      (s.dspsAt d).job = some j ∧ j.phase = 1 ∧ bit (s.dspsAt d).done 3 = false ∧ 1 ≤ s.dspOp d (s.dspsAt d).pc 3 ∧
      s.dspOp d (s.dspsAt d).pc 3 ≤ 0x1F ∧ sl.mem ≠ 2 ∧ sl.mem ≠ 3 ∧
      n = (if reg then ((s.dspsAt d).snap.getD (s.dspsAt d).regs).sreg count else count) % 65536 ∧ n ≠ 0 ∧ off ≠ 0 ∧
      ((s.dspsAt d).snap.getD (s.dspsAt d).regs).loops.length < 4 ∧ g = ((s.dspsAt d).pc + 1) % 8192 ∧
      s.loopFits d (s.dspsAt d).pc off = true ∧ ((List.range 4).any (fun i => opBad i (s.dspOp d (s.dspsAt d).pc i)) = false) ∧
      setBit (s.dspsAt d).done 3 = s.dspSlots d (s.dspsAt d).pc ∧ ((List.range 4).any (fun i => opBad i (s.dspOp d g i)) = false) ∧
      s.dspSlots d g ≠ 0) ∧
    (∃ (s : State) (d : Nat) (sl : Slot) (j : DspJob) (reg : Bool) (count : Nat) (off : Nat) (g : Nat), s.Inv ∧ d < 96 ∧
      (s.dspsAt d).job = some j ∧ j.phase = 1 ∧ bit (s.dspsAt d).done 3 = false ∧ 1 ≤ s.dspOp d (s.dspsAt d).pc 3 ∧
      s.dspOp d (s.dspsAt d).pc 3 ≤ 0x1F ∧ sl.mem ≠ 2 ∧ sl.mem ≠ 3 ∧
      (if reg then ((s.dspsAt d).snap.getD (s.dspsAt d).regs).sreg count else count) % 65536 = 0 ∧
      ((s.dspsAt d).snap.getD (s.dspsAt d).regs).loops.length < 4 ∧ g = ((s.dspsAt d).pc + off + 1) % 8192 ∧
      ((List.range 4).any (fun i => opBad i (s.dspOp d (s.dspsAt d).pc i)) = false) ∧
      setBit (s.dspsAt d).done 3 = s.dspSlots d (s.dspsAt d).pc ∧ ((List.range 4).any (fun i => opBad i (s.dspOp d g i)) = false) ∧
      s.dspSlots d g ≠ 0) :=
  ⟨⟨(st [dsp95 3 4, .modDsps 95 fun y => { y with regs := { y.regs with rets := [] } }]), 95, ⟨0, 0, 3⟩, job95, (st_inv _), by decide +kernel⟩,
   ⟨(st [dsp95 3 5]), 95, ⟨0, 0, 3⟩, job95, (st_inv _), by decide +kernel⟩,
   ⟨(st [dsp95 3 6]), 95, ⟨0, 0, 3⟩, job95, true, 1, 65, 6, 1, (st_inv _), by decide +kernel⟩,
   ⟨(st [dsp95 3 6]), 95, ⟨0, 0, 3⟩, job95, true, 1, 2, 6, 1, (st_inv _), by decide +kernel⟩,
   ⟨(st [dsp95 3 6]), 95, ⟨0, 0, 3⟩, job95, false, 65536, 8, 9, (st_inv _), by decide +kernel⟩⟩

/-- The hypotheses of DspScalars are met together. -/
theorem witness_dsp_scalars :
    (∃ (s : State) (d : Nat) (sl : Slot) (j : DspJob) (sd : Nat) (a : Nat) (b : Nat), s.Inv ∧ d < 96 ∧ (s.dspsAt d).job = some j ∧
      j.phase = 1 ∧ bit (s.dspsAt d).done 3 = false ∧ 0x20 ≤ s.dspOp d (s.dspsAt d).pc 3 ∧ s.dspOp d (s.dspsAt d).pc 3 ≤ 0x3F ∧
      (s.dspsAt d).wrote.contains (wS, sd) = false ∧ sl.mem ≠ 2 ∧ sl.mem ≠ 3) ∧
    (∃ (s : State) (d : Nat) (sl : Slot) (j : DspJob) (sd : Nat) (a : Nat) (b : Nat), s.Inv ∧ d < 96 ∧ (s.dspsAt d).job = some j ∧
      j.phase = 1 ∧ bit (s.dspsAt d).done 3 = false ∧ 0x20 ≤ s.dspOp d (s.dspsAt d).pc 3 ∧ s.dspOp d (s.dspsAt d).pc 3 ≤ 0x3F ∧
      (s.dspsAt d).wrote.contains (wS, sd) = false ∧ sl.mem ≠ 2 ∧ sl.mem ≠ 3) ∧
    (∃ (s : State) (d : Nat) (sl : Slot) (j : DspJob) (sd : Nat) (a : Nat) (b : Nat), s.Inv ∧ d < 96 ∧ (s.dspsAt d).job = some j ∧
      j.phase = 1 ∧ bit (s.dspsAt d).done 3 = false ∧ 0x20 ≤ s.dspOp d (s.dspsAt d).pc 3 ∧ s.dspOp d (s.dspsAt d).pc 3 ≤ 0x3F ∧
      (s.dspsAt d).wrote.contains (wS, sd) = false ∧ sl.mem ≠ 2 ∧ sl.mem ≠ 3) ∧
    (∃ (s : State) (d : Nat) (sl : Slot) (j : DspJob) (sd : Nat) (a : Nat) (b : Nat), s.Inv ∧ d < 96 ∧ (s.dspsAt d).job = some j ∧
      j.phase = 1 ∧ bit (s.dspsAt d).done 3 = false ∧ 0x20 ≤ s.dspOp d (s.dspsAt d).pc 3 ∧ s.dspOp d (s.dspsAt d).pc 3 ≤ 0x3F ∧
      (s.dspsAt d).wrote.contains (wS, sd) = false ∧ sl.mem ≠ 2 ∧ sl.mem ≠ 3) ∧
    (∃ (s : State) (d : Nat) (sl : Slot) (j : DspJob) (sd : Nat) (src : Nat) (imm : BitVec 32), s.Inv ∧ d < 96 ∧
      (s.dspsAt d).job = some j ∧ j.phase = 1 ∧ bit (s.dspsAt d).done 3 = false ∧ 0x20 ≤ s.dspOp d (s.dspsAt d).pc 3 ∧
      s.dspOp d (s.dspsAt d).pc 3 ≤ 0x3F ∧ (s.dspsAt d).wrote.contains (wS, sd) = false ∧ sl.mem ≠ 2 ∧ sl.mem ≠ 3) ∧
    (∃ (s : State) (d : Nat) (sl : Slot) (j : DspJob) (ag : Nat) (base : Nat) (idx : Nat) (step : Int) (mod : Nat) (mode : Nat) (mem :
      Nat), s.Inv ∧ d < 96 ∧ (s.dspsAt d).job = some j ∧ j.phase = 1 ∧ bit (s.dspsAt d).done 3 = false ∧
      0x20 ≤ s.dspOp d (s.dspsAt d).pc 3 ∧ s.dspOp d (s.dspsAt d).pc 3 ≤ 0x3F ∧ (s.dspsAt d).wrote.contains (wAg, ag) = false ∧
      sl.mem ≠ 2 ∧ sl.mem ≠ 3 ∧
      AgSt.okSet ⟨base % 65536, idx % 65536, sext 16 (wrapTo 16 step), mod % 131072, mode % 4, mem % 2⟩ true = true) ∧
    (∃ (s : State) (d : Nat) (sl : Slot) (j : DspJob) (ag : Nat) (sa : Nat), s.Inv ∧ d < 96 ∧ (s.dspsAt d).job = some j ∧ j.phase = 1 ∧
      bit (s.dspsAt d).done 3 = false ∧ 0x20 ≤ s.dspOp d (s.dspsAt d).pc 3 ∧ s.dspOp d (s.dspsAt d).pc 3 ≤ 0x3F ∧
      (s.dspsAt d).wrote.contains (wAg, ag) = false ∧ sl.mem ≠ 2 ∧ sl.mem ≠ 3 ∧
      AgSt.okSet { ((s.dspsAt d).snap.getD (s.dspsAt d).regs).agen ag with base := ((s.dspsAt d).snap.getD (s.dspsAt d).regs).sreg sa % 65536 }
      false = true) :=
  ⟨⟨(st [dsp95 3 33]), 95, ⟨0, 0, 3⟩, job95, 2, 0, 1, (st_inv _), by decide +kernel⟩,
   ⟨(st [dsp95 3 34]), 95, ⟨0, 0, 3⟩, job95, 2, 0, 1, (st_inv _), by decide +kernel⟩,
   ⟨(st [dsp95 3 35]), 95, ⟨0, 0, 3⟩, job95, 2, 0, 1, (st_inv _), by decide +kernel⟩,
   ⟨(st [dsp95 3 36]), 95, ⟨0, 0, 3⟩, job95, 0, 1, 0, (st_inv _), by decide +kernel⟩,
   ⟨(st [dsp95 3 32]), 95, ⟨0, 0, 3⟩, job95, 2, 17, 4, (st_inv _), by decide +kernel⟩,
   ⟨(st [dsp95 3 37]), 95, ⟨0, 0, 3⟩, job95, 1, 65537, 3, -3, 16, 1, 1, (st_inv _), by decide +kernel⟩,
   ⟨(st [dsp95 3 38]), 95, ⟨0, 0, 3⟩, job95, 1, 1, (st_inv _), by decide +kernel⟩⟩

/-- The hypotheses of DspScalars are met together. -/
theorem witness_dsp_scalars_2 :
    (∃ (s : State) (d : Nat) (sl : Slot) (j : DspJob) (ag : Nat) (sa : Nat), s.Inv ∧ d < 96 ∧ (s.dspsAt d).job = some j ∧ j.phase = 1 ∧
      bit (s.dspsAt d).done 3 = false ∧ 0x20 ≤ s.dspOp d (s.dspsAt d).pc 3 ∧ s.dspOp d (s.dspsAt d).pc 3 ≤ 0x3F ∧
      (s.dspsAt d).wrote.contains (wAg, ag) = false ∧ sl.mem ≠ 2 ∧ sl.mem ≠ 3 ∧
      AgSt.okSet { ((s.dspsAt d).snap.getD (s.dspsAt d).regs).agen ag with idx := ((s.dspsAt d).snap.getD (s.dspsAt d).regs).sreg sa % 65536 }
      false = true) ∧
    (∃ (s : State) (d : Nat) (sl : Slot) (j : DspJob) (ag : Nat) (sa : Nat), s.Inv ∧ d < 96 ∧ (s.dspsAt d).job = some j ∧ j.phase = 1 ∧
      bit (s.dspsAt d).done 3 = false ∧ 0x20 ≤ s.dspOp d (s.dspsAt d).pc 3 ∧ s.dspOp d (s.dspsAt d).pc 3 ≤ 0x3F ∧
      (s.dspsAt d).wrote.contains (wAg, ag) = false ∧ sl.mem ≠ 2 ∧ sl.mem ≠ 3 ∧
      AgSt.okSet { ((s.dspsAt d).snap.getD (s.dspsAt d).regs).agen ag with step := sext 16 (((s.dspsAt d).snap.getD (s.dspsAt d).regs).sreg sa) }
      false = true) ∧
    (∃ (s : State) (d : Nat) (sl : Slot) (j : DspJob) (ag : Nat) (sa : Nat), s.Inv ∧ d < 96 ∧ (s.dspsAt d).job = some j ∧ j.phase = 1 ∧
      bit (s.dspsAt d).done 3 = false ∧ 0x20 ≤ s.dspOp d (s.dspsAt d).pc 3 ∧ s.dspOp d (s.dspsAt d).pc 3 ≤ 0x3F ∧
      (s.dspsAt d).wrote.contains (wAg, ag) = false ∧ sl.mem ≠ 2 ∧ sl.mem ≠ 3 ∧
      AgSt.okSet { ((s.dspsAt d).snap.getD (s.dspsAt d).regs).agen ag with mod := ((s.dspsAt d).snap.getD (s.dspsAt d).regs).sreg sa % 131072 }
      false = true) ∧
    (∃ (s : State) (d : Nat) (sl : Slot) (j : DspJob) (ag : Nat) (sa : Nat), s.Inv ∧ d < 96 ∧ (s.dspsAt d).job = some j ∧ j.phase = 1 ∧
      bit (s.dspsAt d).done 3 = false ∧ 0x20 ≤ s.dspOp d (s.dspsAt d).pc 3 ∧ s.dspOp d (s.dspsAt d).pc 3 ≤ 0x3F ∧
      (s.dspsAt d).wrote.contains (wAg, ag) = false ∧ sl.mem ≠ 2 ∧ sl.mem ≠ 3 ∧
      AgSt.okSet { ((s.dspsAt d).snap.getD (s.dspsAt d).regs).agen ag with mode := ((s.dspsAt d).snap.getD (s.dspsAt d).regs).sreg sa % 4 }
      false = true) ∧
    (∃ (s : State) (d : Nat) (sl : Slot) (j : DspJob) (ag : Nat) (sa : Nat), s.Inv ∧ d < 96 ∧ (s.dspsAt d).job = some j ∧ j.phase = 1 ∧
      bit (s.dspsAt d).done 3 = false ∧ 0x20 ≤ s.dspOp d (s.dspsAt d).pc 3 ∧ s.dspOp d (s.dspsAt d).pc 3 ≤ 0x3F ∧
      (s.dspsAt d).wrote.contains (wAg, ag) = false ∧ sl.mem ≠ 2 ∧ sl.mem ≠ 3 ∧
      AgSt.okSet { ((s.dspsAt d).snap.getD (s.dspsAt d).regs).agen ag with mem := ((s.dspsAt d).snap.getD (s.dspsAt d).regs).sreg sa % 2 }
      false = true) ∧
    (∃ (s : State) (d : Nat) (sl : Slot) (j : DspJob) (ag : Nat) (base : Nat) (idx : Nat) (step : Int) (mod : Nat) (mode : Nat) (mem :
      Nat), s.Inv ∧ d < 96 ∧ (s.dspsAt d).job = some j ∧ j.phase = 1 ∧ bit (s.dspsAt d).done 3 = false ∧
      0x20 ≤ s.dspOp d (s.dspsAt d).pc 3 ∧ s.dspOp d (s.dspsAt d).pc 3 ≤ 0x3F ∧ (s.dspsAt d).wrote.contains (wAg, ag) = false ∧
      sl.mem ≠ 2 ∧ sl.mem ≠ 3 ∧
      AgSt.okSet ⟨base % 65536, idx % 65536, sext 16 (wrapTo 16 step), mod % 131072, mode % 4, mem % 2⟩ true = false) ∧
    (∃ (s : State) (d : Nat) (sl : Slot) (j : DspJob) (sat : Bool), s.Inv ∧ d < 96 ∧ (s.dspsAt d).job = some j ∧ j.phase = 1 ∧
      bit (s.dspsAt d).done 3 = false ∧ 0x20 ≤ s.dspOp d (s.dspsAt d).pc 3 ∧ s.dspOp d (s.dspsAt d).pc 3 ≤ 0x3F ∧ sl.mem ≠ 2 ∧ sl.mem ≠ 3) :=
  ⟨⟨(st [dsp95 3 38]), 95, ⟨0, 0, 3⟩, job95, 0, 0, (st_inv _), by decide +kernel⟩,
   ⟨(st [dsp95 3 38]), 95, ⟨0, 0, 3⟩, job95, 0, 0, (st_inv _), by decide +kernel⟩,
   ⟨(st [dsp95 3 38]), 95, ⟨0, 0, 3⟩, job95, 0, 0, (st_inv _), by decide +kernel⟩,
   ⟨(st [dsp95 3 38]), 95, ⟨0, 0, 3⟩, job95, 1, 0, (st_inv _), by decide +kernel⟩,
   ⟨(st [dsp95 3 38]), 95, ⟨0, 0, 3⟩, job95, 0, 0, (st_inv _), by decide +kernel⟩,
   ⟨(st [dsp95 3 37]), 95, ⟨0, 0, 3⟩, job95, 1, 0, 0, 0, 16, 3, 0, (st_inv _), by decide +kernel⟩,
   ⟨(st [dsp95 3 39]), 95, ⟨0, 0, 3⟩, job95, false, (st_inv _), by decide +kernel⟩⟩

/-- The hypotheses of DspJobs are met together. -/
theorem witness_dsp_jobs :
    (∃ (s : State) (group : Nat) (desc : Nat) (stat : Nat) (cells : List Nat) (d : Nat) (ls : List (Nat × Nat)) (w : List Nat), s.Inv ∧
      group < 12 ∧
      (((List.range 8).map (group * 8 + ·)).find? (fun d => (s.dspsAt d).job.isNone && !(s.flag (R.dspStat d) F.dspStat_FENCE)) = some d)
      ∧ s.dspRadio group s.stitch = false ∧ (∀ h, h ∈ s.held → h.place ≠ group) ∧ s.locate 0x100 rightR desc 64 = some ls ∧
      s.noErrors = true ∧ (∀ e, e ∈ ls → s.lineFenced e.1 = false) ∧
      (w = (List.range 8).map fun i => leNat (((ls.flatMap fun e => s.readBytes e.1 e.2).drop (8 * i)).take 8)) ∧ jKind w = 6 ∧
      jNin w = 0 ∧ jNout w = 0 ∧ jDlen w ≠ 0 ∧ jDlen w ≤ 65535 ∧ (jDlen w ≤ longestRun (fun n => !(s.dspRadio group n))) ∧
      s.inMemory (jList w) 0 = true ∧ s.clk.cyc + jDlen w ≤ s.leftoverEnd (s.dspRadio group) (jDlen w) ∧ jDlen w * 141 ≤ s.last.bucket) ∧
    (∃ (s : State) (group : Nat) (desc : Nat) (stat : Nat) (cells : List Nat) (d : Nat) (ls : List (Nat × Nat)) (w : List Nat), s.Inv ∧
      group < 12 ∧
      (((List.range 8).map (group * 8 + ·)).find? (fun d => (s.dspsAt d).job.isNone && !(s.flag (R.dspStat d) F.dspStat_FENCE)) = some d)
      ∧ s.dspRadio group s.stitch = true ∧ s.locate 0x101 rightR desc 64 = some ls ∧ s.noErrors = true ∧ (∀ e, e ∈ ls →
      s.lineFenced e.1 = false) ∧
      (w = (List.range 8).map fun i => leNat (((ls.flatMap fun e => s.readBytes e.1 e.2).drop (8 * i)).take 8)) ∧ jKind w = 6 ∧
      jNin w = 0 ∧ jNout w = 0 ∧ jDlen w ≠ 0 ∧ s.clk.cyc + jDlen w ≤ s.radioEnd (s.dspRadio group) (jDlen w)) ∧
    (∃ (s : State) (group : Nat) (desc : Nat) (stat : Nat) (cells : List Nat) (d : Nat) (h : HeldJob) (r : List HeldJob), s.Inv ∧
      group < 12 ∧
      (((List.range 8).map (group * 8 + ·)).find? (fun d => (s.dspsAt d).job.isNone && !(s.flag (R.dspStat d) F.dspStat_FENCE)) = some d)
      ∧ s.dspRadio group s.stitch = false ∧ s.held = h :: r ∧ h.place = group ∧ s.noErrors = true ∧ jKind h.words = 6 ∧ jNin h.words = 0 ∧
      jNout h.words = 0 ∧ jDlen h.words ≠ 0 ∧ jDlen h.words ≤ 65535 ∧ (jDlen h.words ≤ longestRun (fun n => !(s.dspRadio group n))) ∧
      s.inMemory (jList h.words) 0 = true ∧ s.clk.cyc + jDlen h.words ≤ s.leftoverEnd (s.dspRadio group) (jDlen h.words) ∧
      jDlen h.words * 141 ≤ s.last.bucket) ∧
    (∃ (s : State) (group : Nat) (desc : Nat) (stat : Nat) (cells : List Nat) (d : Nat) (ls : List (Nat × Nat)) (w : List Nat), s.Inv ∧
      group < 12 ∧
      (((List.range 8).map (group * 8 + ·)).find? (fun d => (s.dspsAt d).job.isNone && !(s.flag (R.dspStat d) F.dspStat_FENCE)) = some d)
      ∧ s.dspRadio group s.stitch = false ∧ (∀ h, h ∈ s.held → h.place ≠ group) ∧ s.locate 0x100 rightR desc 64 = some ls ∧
      s.noErrors = true ∧ (∀ e, e ∈ ls → s.lineFenced e.1 = false) ∧
      (w = (List.range 8).map fun i => leNat (((ls.flatMap fun e => s.readBytes e.1 e.2).drop (8 * i)).take 8)) ∧
      (jKind w ≠ 6 ∨ jDlen w = 0)) ∧
    (∃ (s : State) (d : Nat) (j : DspJob), s.Inv ∧ d < 96 ∧ (s.dspsAt d).job = some j ∧ j.phase = 0 ∧ jWaitEn j.words = false ∧
      jNin j.words = 0 ∧ ((List.range 4).any (fun i => opBad i (s.dspOp d (s.dspsAt d).pc i)) = false) ∧
      (s.dspsAt d).done ≠ s.dspSlots d (s.dspsAt d).pc) ∧
    (∃ (s : State) (d : Nat) (j : DspJob) (m : Nat × Nat) (ls : List (Nat × Nat)), s.Inv ∧ d < 96 ∧ (s.dspsAt d).job = some j ∧
      j.phase = 0 ∧ jWaitEn j.words = false ∧ jNin j.words = 1 ∧ j.moves = [m] ∧
      s.locate (if j.radio then 0x101 else 0x100) rightR (mvAddr m) (mvLen m) = some ls ∧ s.noErrors = true ∧ (∀ e, e ∈ ls →
      s.lineFenced e.1 = false) ∧ ((List.range 4).any (fun i => opBad i (s.dspOp d (s.dspsAt d).pc i)) = false) ∧
      (s.dspsAt d).done ≠ s.dspSlots d (s.dspsAt d).pc) :=
  ⟨⟨(st [.setBytes 0x1000 ([6 * 2 ^ 60 + 77, 5 * 2 ^ 51 + 100 * 2 ^ 20, 0, 0, 4, 5, 6, 7].flatMap fun w => leBytes w 8), .modLast fun l => { l with bucket := 100000 }]), 11, 0x1000, 0x2000, [], 88, [(0x1000, 64)], [6 * 2 ^ 60 + 77, 5 * 2 ^ 51 + 100 * 2 ^ 20, 0, 0, 4, 5, 6, 7], (st_inv _), by decide +kernel⟩,
   ⟨(st [.setBytes 0x1000040 ([6 * 2 ^ 60 + 77, 5 * 2 ^ 51 + 100 * 2 ^ 20, 0, 0, 4, 5, 6, 7].flatMap fun w => leBytes w 8), .modParts 0x101 fun x => { x with segs := [(0, 2 ^ 63 + 2 ^ 62 + 2 ^ 61 + 2 ^ 60, 0x100 * 2 ^ 32 + 256)] }, .modLast fun l => { l with active := ⟨[(0, ⟨0, 0, 2 ^ 11, 0, 0⟩)], []⟩ }]), 11, 0x40, 0x2000, [3], 88, [(0x1000040, 64)], [6 * 2 ^ 60 + 77, 5 * 2 ^ 51 + 100 * 2 ^ 20, 0, 0, 4, 5, 6, 7], (st_inv _), by decide +kernel⟩,
   ⟨(st [.setHeld [⟨11, [6 * 2 ^ 60 + 77, 5 * 2 ^ 51 + 100 * 2 ^ 20, 0, 0, 4, 5, 6, 7], 0x2000, []⟩], .modLast fun l => { l with bucket := 100000 }]), 11, 0, 0, [], 88, ⟨11, [6 * 2 ^ 60 + 77, 5 * 2 ^ 51 + 100 * 2 ^ 20, 0, 0, 4, 5, 6, 7], 0x2000, []⟩, [], (st_inv _), by decide +kernel⟩,
   ⟨State.reset, 11, 0x1000, 0x2000, [], 88, [(0x1000, 64)], List.replicate 8 0, reset_inv, by decide +kernel, by decide +kernel, by decide +kernel, by decide +kernel, by decide +kernel, by decide +kernel, by decide +kernel, by decide +kernel, .inr (by decide +kernel)⟩,
   ⟨(st [dsp95 0 1, .modDsps 95 fun y => { y with job := some (job95 0) }, .setF (R.dspStat 95) F.dspStat_MOVING 1]), 95, job95 0, (st_inv _), by decide +kernel⟩,
   ⟨(st [dsp95 0 1, .modDsps 95 fun y => { y with job := some (job95 0 [6 * 2 ^ 60 + 77, 2 ^ 16, 0, 0, 0, 0, 0, 0] [(2 ^ 62 + 16 * 2 ^ 32 + 64, 0x1000)]) }, .setMem 0x1004 9]), 95, job95 0 [6 * 2 ^ 60 + 77, 2 ^ 16, 0, 0, 0, 0, 0, 0] [(2 ^ 62 + 16 * 2 ^ 32 + 64, 0x1000)], (2 ^ 62 + 16 * 2 ^ 32 + 64, 0x1000), [(0x1000, 64)], (st_inv _), by decide +kernel⟩⟩

/-- The hypotheses of DspJobs are met together. -/
theorem witness_dsp_jobs_2 :
    (∃ (s : State) (d : Nat) (j : DspJob) (a : Nat) (ce : Nat), s.Inv ∧ d < 96 ∧ (s.dspsAt d).job = some j ∧ j.phase = 2 ∧
      j.moves.drop (jNin j.words) = [] ∧
      s.locate (if j.radio then 0x101 else 0x100) rightW (j.stat + 32 * jStatSel j.words) 32 = some [(a, 32)] ∧ s.noErrors = true ∧
      s.dpaKind a = .kennel) ∧
    (∃ (s : State) (d : Nat) (j : DspJob) (a : Nat) (ce : Nat) (m : Nat × Nat) (b : Nat), s.Inv ∧ d < 96 ∧ (s.dspsAt d).job = some j ∧
      j.phase = 2 ∧ j.moves.drop (jNin j.words) = [m] ∧ mvLen m = 64 ∧
      s.locate (if j.radio then 0x101 else 0x100) rightW (mvAddr m) 64 = some [(b, 64)] ∧ s.dpaKind b = .kennel ∧
      s.locate (if j.radio then 0x101 else 0x100) rightW (j.stat + 32 * jStatSel j.words) 32 = some [(a, 32)] ∧ s.noErrors = true ∧
      s.dpaKind a = .kennel ∧ (a + 32 ≤ b ∨ b + 64 ≤ a)) ∧
    (∃ (s : State) (d : Nat) (j : DspJob) (ce : Nat), s.Inv ∧ d < 96 ∧ (s.dspsAt d).job = some j ∧ j.phase = 2 ∧ j.radio = false) ∧
    (∃ (s : State) (d : Nat) (j : DspJob), s.Inv ∧ d < 96 ∧ (s.dspsAt d).job = some j ∧ j.radio = true ∧ j.phase ≠ 2) ∧
    (∃ (s : State) (d : Nat) (j : DspJob), s.Inv ∧ d < 96 ∧ (s.dspsAt d).job = some j ∧ j.radio = false ∧ j.phase ≠ 2) ∧
    (∃ (s : State) (d : Nat) (j : DspJob), s.Inv ∧ d < 96 ∧ (s.dspsAt d).job = some j ∧ j.radio = false ∧ j.phase = 0 ∧
      jWaitEn j.words = true) :=
  ⟨⟨(st [.modDsps 95 fun y => { y with job := some (job95 2 [6 * 2 ^ 60 + 77, 2 ^ 9, 0, 0, 0, 0, 0, 0]) }, .setF (R.dspStat 95) F.dspStat_BUSY 1]), 95, job95 2 [6 * 2 ^ 60 + 77, 2 ^ 9, 0, 0, 0, 0, 0, 0], 0x2000, 3, (st_inv _), by decide +kernel⟩,
   ⟨(st [.modDsps 95 fun y => { y with job := some (job95 2 [6 * 2 ^ 60 + 77, 2 ^ 12, 0, 0, 0, 0, 0, 0] [(2 ^ 63 + 16 * 2 ^ 32 + 64, 0x1000)]) }, .setDspMem (dmKey 95 0 17) 99]), 95, job95 2 [6 * 2 ^ 60 + 77, 2 ^ 12, 0, 0, 0, 0, 0, 0] [(2 ^ 63 + 16 * 2 ^ 32 + 64, 0x1000)], 0x2000, 3, (2 ^ 63 + 16 * 2 ^ 32 + 64, 0x1000), 0x1000, (st_inv _), by decide +kernel, by decide +kernel, by decide +kernel, by decide +kernel, by decide +kernel, by decide +kernel, by decide +kernel, by decide +kernel, by decide +kernel, by decide +kernel, .inr (by decide)⟩,
   ⟨(st [.modDsps 95 fun y => { y with job := some (job95 2 [6 * 2 ^ 60 + 77, 2 ^ 9, 0, 0, 0, 0, 0, 0]) }, .setF (R.dspStat 95) F.dspStat_BUSY 1]), 95, job95 2 [6 * 2 ^ 60 + 77, 2 ^ 9, 0, 0, 0, 0, 0, 0], 3, (st_inv _), by decide +kernel⟩,
   ⟨(st [dsp95 0 1, .modDsps 95 fun y => { y with job := some { job95 with radio := true, cells := [3] } }, .setF (R.dspStat 95) F.dspStat_BUSY 1]), 95, { job95 with radio := true, cells := [3] }, (st_inv _), by decide +kernel⟩,
   ⟨(st [dsp95 0 1]), 95, job95, (st_inv _), by decide +kernel⟩,
   ⟨(st [.modDsps 95 fun y => { y with job := some (job95 0 [6 * 2 ^ 60 + 77, 2 ^ 10, 0, 0, 0, 0, 0, 0]) }]), 95, job95 0 [6 * 2 ^ 60 + 77, 2 ^ 10, 0, 0, 0, 0, 0, 0], (st_inv _), by decide +kernel⟩⟩

/-- The hypotheses of RequestBlocks are met together. -/
theorem witness_request_blocks :
    (∃ (s : State) (cell : Nat) (esn : Nat) (x : CellSt), s.Inv ∧ cell < 512 ∧ s.cellsAt cell = x ∧ x.applied = true ∧
      s.goneBy cell esn = false ∧ s.heldFor (muOf (recScs x.rcd)) esn = false ∧ (s.reqMsgs x.rcd esn).isSome = true) ∧
    (∃ (s : State) (cell : Nat) (esn : Nat) (x : CellSt) (torn : Bool), s.Inv ∧ cell < 512 ∧ s.cellsAt cell = x ∧ x.applied = true ∧
      s.goneBy cell esn = false ∧ (torn = true ∨ s.reqMsgs x.rcd esn = none) ∧ s.linkOn = true) ∧
    (∃ (s : State) (cell : Nat) (esn : Nat) (x : CellSt), s.Inv ∧ cell < 512 ∧ s.cellsAt cell = x ∧ x.applied = true ∧
      s.goneBy cell esn = false ∧ s.heldFor (muOf (recScs x.rcd)) esn = true ∧ (s.reqMsgs x.rcd esn).isSome = true) ∧
    (∃ (s : State) (cell : Nat) (esn : Nat) (torn : Bool), s.Inv ∧ s.goneBy cell esn = true) ∧
    (∃ (s : State) (cell : Nat) (esn : Nat) (body : List Byte) (x : CellSt), s.Inv ∧ cell < 512 ∧ s.cellsAt cell = x ∧
      s.nextMsg cell esn 0x00 = some body) ∧
    (∃ (s : State) (cell : Nat) (esn : Nat) (body : List Byte) (x : CellSt), s.Inv ∧ cell < 512 ∧ s.cellsAt cell = x ∧
      s.nextMsg cell esn 0x02 = some body) :=
  ⟨⟨(st [.setLinkOn true, cell3 [], .setF R.timeStat F.timeStat_FORM 1, .each (leBytes 1 2 ++ leBytes 17 1 ++ leBytes 1 1 ++ leBytes 0 4 ++ leBytes 64 4).zipIdx fun (b, i) => .setHost (9 * 2 ^ 64 + 0x100000 + 4096 + 5 * 16384 + i) b]), 3, 37, ((st [.setLinkOn true, cell3 [], .setF R.timeStat F.timeStat_FORM 1, .each (leBytes 1 2 ++ leBytes 17 1 ++ leBytes 1 1 ++ leBytes 0 4 ++ leBytes 64 4).zipIdx fun (b, i) => .setHost (9 * 2 ^ 64 + 0x100000 + 4096 + 5 * 16384 + i) b]).cellsAt 3), (st_inv _), by decide, rfl, by decide +kernel, by decide +kernel, by decide +kernel, by decide +kernel⟩,
   ⟨(st [.setLinkOn true, cell3 []]), 3, 37, ((st [.setLinkOn true, cell3 []]).cellsAt 3), true, (st_inv _), by decide, rfl, by decide +kernel, by decide +kernel, .inl rfl, by decide +kernel⟩,
   ⟨(st [.setLinkOn true, cell3 [], .each (leBytes 1 2 ++ leBytes 17 1 ++ leBytes 1 1 ++ leBytes 0 4 ++ leBytes 64 4).zipIdx fun (b, i) => .setHost (9 * 2 ^ 64 + 0x100000 + 4096 + 5 * 16384 + i) b]), 3, 37, ((st [.setLinkOn true, cell3 [], .each (leBytes 1 2 ++ leBytes 17 1 ++ leBytes 1 1 ++ leBytes 0 4 ++ leBytes 64 4).zipIdx fun (b, i) => .setHost (9 * 2 ^ 64 + 0x100000 + 4096 + 5 * 16384 + i) b]).cellsAt 3), (st_inv _), by decide, rfl, by decide +kernel, by decide +kernel, by decide +kernel, by decide +kernel⟩,
   ⟨(st [.modRadio fun r => { r with pend := some ⟨0, [], [], [], 0, [], []⟩ }]), 3, 3725521810, false, (st_inv _), by decide +kernel⟩,
   ⟨(st [.setLinkOn true, cell3 [slot3 37 [(0, [7]), (9, [])] true]]), 3, 37, [7], ((st [.setLinkOn true, cell3 [slot3 37 [(0, [7]), (9, [])] true]]).cellsAt 3), (st_inv _), by decide, rfl, by decide +kernel⟩,
   ⟨(st [.setLinkOn true, cell3 [slot3 37 [(2, [7]), (9, [])] true]]), 3, 37, [7], ((st [.setLinkOn true, cell3 [slot3 37 [(2, [7]), (9, [])] true]]).cellsAt 3), (st_inv _), by decide, rfl, by decide +kernel⟩⟩

/-- The hypotheses of RequestBlocks are met together. -/
theorem witness_request_blocks_2 :
    (∃ (s : State) (cell : Nat) (esn : Nat) (body : List Byte) (x : CellSt), s.Inv ∧ cell < 512 ∧ s.cellsAt cell = x ∧
      s.nextMsg cell esn 0x04 = some body ∧ x.running = false) ∧
    (∃ (s : State) (cell : Nat) (esn : Nat) (body : List Byte) (x : CellSt), s.Inv ∧ cell < 512 ∧ s.cellsAt cell = x ∧
      s.nextMsg cell esn 0x04 = some body ∧ x.running = true) ∧
    (∃ (s : State) (cell : Nat) (esn : Nat) (body : List Byte) (x : CellSt), s.Inv ∧ cell < 512 ∧ s.cellsAt cell = x ∧
      s.nextMsg cell esn 0x05 = some body ∧ x.running = true) ∧
    (∃ (s : State) (cell : Nat) (esn : Nat) (body : List Byte) (x : CellSt), s.Inv ∧ cell < 512 ∧ s.cellsAt cell = x ∧
      s.nextMsg cell esn 0x80 = some body ∧ (x.slot esn).run = true) ∧
    (∃ (s : State) (cell : Nat) (esn : Nat) (body : List Byte) (x : CellSt), s.Inv ∧ cell < 512 ∧ s.cellsAt cell = x ∧
      s.nextMsg cell esn 0x80 = some body ∧ (x.slot esn).run = false) ∧
    (∃ (s : State) (cell : Nat) (esn : Nat) (body : List Byte) (x : CellSt), s.Inv ∧ cell < 512 ∧ s.cellsAt cell = x ∧
      s.nextMsg cell esn 0x81 = some body ∧ (x.slot esn).run = true) :=
  ⟨⟨(st [.setLinkOn true, cell3 [slot3 37 [(4, [7])] false] 0 0 false]), 3, 37, [7], ((st [.setLinkOn true, cell3 [slot3 37 [(4, [7])] false] 0 0 false]).cellsAt 3), (st_inv _), by decide, rfl, by decide +kernel, by decide +kernel⟩,
   ⟨(st [.setLinkOn true, cell3 [slot3 37 [(4, [7]), (9, [])] true]]), 3, 37, [7], ((st [.setLinkOn true, cell3 [slot3 37 [(4, [7]), (9, [])] true]]).cellsAt 3), (st_inv _), by decide, rfl, by decide +kernel, by decide +kernel⟩,
   ⟨(st [.setLinkOn true, cell3 [slot3 37 [(5, [7]), (9, [])] true]]), 3, 37, [7], ((st [.setLinkOn true, cell3 [slot3 37 [(5, [7]), (9, [])] true]]).cellsAt 3), (st_inv _), by decide, rfl, by decide +kernel, by decide +kernel⟩,
   ⟨(st [.setLinkOn true, cell3 [slot3 37 [(0x80, [7]), (9, [])] true]]), 3, 37, [7], ((st [.setLinkOn true, cell3 [slot3 37 [(0x80, [7]), (9, [])] true]]).cellsAt 3), (st_inv _), by decide, rfl, by decide +kernel, by decide +kernel⟩,
   ⟨(st [.setLinkOn true, cell3 [slot3 37 [(0x80, [7]), (9, [])] false]]), 3, 37, [7], ((st [.setLinkOn true, cell3 [slot3 37 [(0x80, [7]), (9, [])] false]]).cellsAt 3), (st_inv _), by decide, rfl, by decide +kernel, by decide +kernel⟩,
   ⟨(st [.setLinkOn true, cell3 [slot3 37 [(0x81, [7]), (9, [])] true]]), 3, 37, [7], ((st [.setLinkOn true, cell3 [slot3 37 [(0x81, [7]), (9, [])] true]]).cellsAt 3), (st_inv _), by decide, rfl, by decide +kernel, by decide +kernel⟩⟩

/-- The hypotheses of RequestBlocks are met together. -/
theorem witness_request_blocks_3 :
    (∃ (s : State) (cell : Nat) (esn : Nat) (body : List Byte) (x : CellSt), s.Inv ∧ cell < 512 ∧ s.cellsAt cell = x ∧
      s.nextMsg cell esn 0x81 = some body ∧ (x.slot esn).run = false) ∧
    (∃ (s : State) (cell : Nat) (esn : Nat) (body : List Byte) (x : CellSt), s.Inv ∧ cell < 512 ∧ s.cellsAt cell = x ∧
      s.nextMsg cell esn 0x83 = some body ∧ (x.slot esn).run = true) ∧
    (∃ (s : State) (cell : Nat) (esn : Nat) (body : List Byte) (x : CellSt), s.Inv ∧ cell < 512 ∧ s.cellsAt cell = x ∧
      s.nextMsg cell esn 0x83 = some body ∧ (x.slot esn).run = false) ∧
    (∃ (s : State) (cell : Nat) (esn : Nat) (body : List Byte) (x : CellSt), s.Inv ∧ cell < 512 ∧ s.cellsAt cell = x ∧
      s.nextMsg cell esn 0x84 = some body ∧ (x.slot esn).run = true) ∧
    (∃ (s : State) (cell : Nat) (esn : Nat) (body : List Byte) (x : CellSt), s.Inv ∧ cell < 512 ∧ s.cellsAt cell = x ∧
      s.nextMsg cell esn 0x84 = some body ∧ (x.slot esn).run = false) :=
  ⟨⟨(st [.setLinkOn true, cell3 [slot3 37 [(0x81, [7]), (9, [])] false]]), 3, 37, [7], ((st [.setLinkOn true, cell3 [slot3 37 [(0x81, [7]), (9, [])] false]]).cellsAt 3), (st_inv _), by decide, rfl, by decide +kernel, by decide +kernel⟩,
   ⟨(st [.setLinkOn true, cell3 [slot3 37 [(0x83, [7]), (9, [])] true]]), 3, 37, [7], ((st [.setLinkOn true, cell3 [slot3 37 [(0x83, [7]), (9, [])] true]]).cellsAt 3), (st_inv _), by decide, rfl, by decide +kernel, by decide +kernel⟩,
   ⟨(st [.setLinkOn true, cell3 [slot3 37 [(0x83, [7]), (9, [])] false]]), 3, 37, [7], ((st [.setLinkOn true, cell3 [slot3 37 [(0x83, [7]), (9, [])] false]]).cellsAt 3), (st_inv _), by decide, rfl, by decide +kernel, by decide +kernel⟩,
   ⟨(st [.setLinkOn true, cell3 [slot3 37 [(0x84, [7]), (9, [])] true]]), 3, 37, [7], ((st [.setLinkOn true, cell3 [slot3 37 [(0x84, [7]), (9, [])] true]]).cellsAt 3), (st_inv _), by decide, rfl, by decide +kernel, by decide +kernel⟩,
   ⟨(st [.setLinkOn true, cell3 [slot3 37 [(0x84, [7]), (9, [])] false]]), 3, 37, [7], ((st [.setLinkOn true, cell3 [slot3 37 [(0x84, [7]), (9, [])] false]]).cellsAt 3), (st_inv _), by decide, rfl, by decide +kernel, by decide +kernel⟩⟩

/-- The hypotheses of SlotOutputs are met together. -/
theorem witness_slot_outputs :
    (∃ (s : State) (cell : Nat) (esn : Nat) (x : CellSt) (u : SlotSt) (data : List (Nat × List Byte)), s.Inv ∧ cell < 512 ∧
      s.cellsAt cell = x ∧ x.applied = true ∧ x.slots.find? (·.esn == esn) = some u ∧ u.run = true ∧ u.present = true ∧
      u.withheld = false ∧ s.noErrors = true ∧
      (data = payPlaces 0 (((u.msgs.filter (·.1 == 0x84)).flatMap fun m => (Config.fapiPdus 0x84 m.2).filter (·.1 == 1)).map fun p =>
      s.hostRead (recPasid x.rcd) (p.2.getD 0 0) (p.2.getD 1 0)))) ∧
    (∃ (s : State) (cell : Nat) (esn : Nat) (x : CellSt) (u : SlotSt), s.Inv ∧ cell < 512 ∧ s.cellsAt cell = x ∧ x.applied = true ∧
      x.slots.find? (·.esn == esn) = some u ∧ u.run = true ∧ u.emitted = false ∧ s.heldFor (muOf (recScs x.rcd)) esn = false ∧
      s.goneBy cell esn = false ∧ recFhMode x.rcd ≠ 2 ∧ s.noErrors = true) ∧
    (∃ (s : State) (cell : Nat) (esn : Nat) (x : CellSt) (u : SlotSt) (incomplete : List Nat), s.Inv ∧ cell < 512 ∧ s.cellsAt cell = x ∧
      x.applied = true ∧ x.slots.find? (·.esn == esn) = some u ∧ u.run = true ∧ u.emitted = false ∧
      s.heldFor (muOf (recScs x.rcd)) esn = false ∧ s.goneBy cell esn = false ∧ (u.present = false ∨ u.withheld = true)) ∧
    (∃ (s : State) (cell : Nat) (esn : Nat) (incomplete : List Nat) (x : CellSt), s.Inv ∧ s.cellsAt cell = x ∧
      (s.heldFor (muOf (recScs x.rcd)) esn = true ∨ s.goneBy cell esn = true)) ∧
    (∃ (s : State) (cell : Nat) (esn : Nat) (x : CellSt) (u : SlotSt) (sym : Nat) (layer : Nat) (width : Nat) (meth : Nat), s.Inv ∧
      cell < 512 ∧ s.cellsAt cell = x ∧ x.applied = true ∧ x.slots.find? (·.esn == esn) = some u ∧ u.run = true ∧ u.emitted = false ∧
      s.heldFor (muOf (recScs x.rcd)) esn = false ∧ s.goneBy cell esn = false ∧ u.present = true ∧ u.withheld = false ∧
      recFhMode x.rcd ≠ 2 ∧ s.noErrors = true ∧ sym < 14 ∧ dlSym x.rcd esn sym = true ∧ layer < recDl x.rcd ∧
      meth = x.fhId F.fhCellId_DL_METH ∧ width = x.fhId F.fhCellId_DL_WIDTH) ∧
    (∃ (s : State) (cell : Nat) (esn : Nat) (x : CellSt) (u : SlotSt) (sym : Nat) (layer : Nat) (l : List (Int × Int)), s.Inv ∧
      cell < 512 ∧ s.cellsAt cell = x ∧ x.applied = true ∧ x.slots.find? (·.esn == esn) = some u ∧ u.run = true ∧ u.emitted = false ∧
      s.heldFor (muOf (recScs x.rcd)) esn = false ∧ s.goneBy cell esn = false ∧ u.present = true ∧ u.withheld = false ∧
      recFhMode x.rcd = 2 ∧ s.noErrors = true ∧ (∀ k, k < 14 → dlSym x.rcd esn k = true → symIncomplete x u [] k = false) ∧ sym < 14 ∧
      dlSym x.rcd esn sym = true ∧ layer < recDl x.rcd ∧ u.tdOf layer sym = some l) ∧
    (∃ (s : State) (cell : Nat) (esn : Nat) (x : CellSt) (u : SlotSt) (incomplete : List Nat) (k : Nat), s.Inv ∧ cell < 512 ∧
      s.cellsAt cell = x ∧ x.applied = true ∧ x.slots.find? (·.esn == esn) = some u ∧ u.run = true ∧ u.emitted = false ∧
      s.heldFor (muOf (recScs x.rcd)) esn = false ∧ s.goneBy cell esn = false ∧ u.present = true ∧ u.withheld = false ∧
      s.noErrors = true ∧ k < 14 ∧ dlSym x.rcd esn k = true ∧ symIncomplete x u incomplete k = true) :=
  ⟨⟨(st [.setLinkOn true, cell3 [slot3 37 [(0x84, [7]), (9, [])] true]]), 3, 37, ((st [.setLinkOn true, cell3 [slot3 37 [(0x84, [7]), (9, [])] true]]).cellsAt 3), slot3 37 [(0x84, [7]), (9, [])], payPlaces 0 ((((slot3 37 [(0x84, [7]), (9, [])]).msgs.filter (·.1 == 0x84)).flatMap fun m => (Config.fapiPdus 0x84 m.2).filter (·.1 == 1)).map fun p => (st [.setLinkOn true, cell3 [slot3 37 [(0x84, [7]), (9, [])] true]]).hostRead (recPasid ((st [.setLinkOn true, cell3 [slot3 37 [(0x84, [7]), (9, [])] true]]).cellsAt 3).rcd) (p.2.getD 0 0) (p.2.getD 1 0)), (st_inv _), by decide, rfl, by decide +kernel, by decide +kernel, by decide +kernel, by decide +kernel, by decide +kernel, by decide +kernel, rfl⟩,
   ⟨(st [.setF R.timeStat F.timeStat_FORM 1, cell3 [slot3 37 [(0x80, [7]), (9, [])]]]), 3, 37, ((st [.setF R.timeStat F.timeStat_FORM 1, cell3 [slot3 37 [(0x80, [7]), (9, [])]]]).cellsAt 3), slot3 37 [(0x80, [7]), (9, [])], (st_inv _), by decide, rfl, by decide +kernel, by decide +kernel, by decide +kernel, by decide +kernel, by decide +kernel, by decide +kernel, by decide +kernel, by decide +kernel⟩,
   ⟨(st [.setF R.timeStat F.timeStat_FORM 1, cell3 [{ slot3 37 with present := false }]]), 3, 37, ((st [.setF R.timeStat F.timeStat_FORM 1, cell3 [{ slot3 37 with present := false }]]).cellsAt 3), { slot3 37 with present := false }, [], (st_inv _), by decide, rfl, by decide +kernel, by decide +kernel, by decide +kernel, by decide +kernel, by decide +kernel, by decide +kernel, .inl rfl⟩,
   ⟨(st [cell3 [slot3 37]]), 3, 37, [], ((st [cell3 [slot3 37]]).cellsAt 3), (st_inv _), rfl, .inl (by decide +kernel)⟩,
   ⟨(st [.setF R.timeStat F.timeStat_FORM 1, cell3 [slot3 37 [(0x80, [7]), (9, [])]]]), 3, 37, ((st [.setF R.timeStat F.timeStat_FORM 1, cell3 [slot3 37 [(0x80, [7]), (9, [])]]]).cellsAt 3), slot3 37 [(0x80, [7]), (9, [])], 2, 0, 0, 0, (st_inv _), by decide, rfl, by decide +kernel, by decide +kernel, by decide +kernel, by decide +kernel, by decide +kernel, by decide +kernel, by decide +kernel, by decide +kernel, by decide +kernel, by decide +kernel, by decide +kernel, by decide +kernel, by decide +kernel, by decide +kernel, by decide +kernel⟩,
   ⟨(st [.setF R.timeStat F.timeStat_FORM 1, cell3 [{ slot3 37 with td := (List.range 14).map fun k => (0, k, List.replicate 12 (3, -4)) }] 2]), 3, 37, ((st [.setF R.timeStat F.timeStat_FORM 1, cell3 [{ slot3 37 with td := (List.range 14).map fun k => (0, k, List.replicate 12 (3, -4)) }] 2]).cellsAt 3), { slot3 37 with td := (List.range 14).map fun k => (0, k, List.replicate 12 (3, -4)) }, 2, 0, List.replicate 12 (3, -4), (st_inv _), by decide, rfl, by decide +kernel, by decide +kernel, by decide +kernel, by decide +kernel, by decide +kernel, by decide +kernel, by decide +kernel, by decide +kernel, by decide +kernel, by decide +kernel, by decide +kernel, by decide +kernel, by decide +kernel, by decide +kernel, by decide +kernel⟩,
   ⟨(st [.setF R.timeStat F.timeStat_FORM 1, cell3 [slot3 37 [(0x80, [7]), (9, [])]]]), 3, 37, ((st [.setF R.timeStat F.timeStat_FORM 1, cell3 [slot3 37 [(0x80, [7]), (9, [])]]]).cellsAt 3), slot3 37 [(0x80, [7]), (9, [])], [13], 13, (st_inv _), by decide, rfl, by decide +kernel, by decide +kernel, by decide +kernel, by decide +kernel, by decide +kernel, by decide +kernel, by decide +kernel, by decide +kernel, by decide +kernel, by decide +kernel, by decide +kernel, by decide +kernel⟩⟩

/-- The hypotheses of SlotOutputs are met together. -/
theorem witness_slot_outputs_2 :
    (∃ (s : State) (cell : Nat) (esn : Nat) (x : CellSt) (u : SlotSt), s.Inv ∧ cell < 512 ∧ s.cellsAt cell = x ∧ x.applied = true ∧
      x.slots.find? (·.esn == esn) = some u ∧ (s.cellsAt (512 + cell)).stopAfter = none ∧ u.run = true ∧ x.blocks = [] ∧ x.ra = [] ∧
      x.stopAfter = none ∧ s.linkOn = true) ∧
    (∃ (s : State) (cell : Nat) (esn : Nat) (x : CellSt) (u : SlotSt), s.Inv ∧ cell < 512 ∧ s.cellsAt cell = x ∧ x.applied = true ∧
      x.slots.find? (·.esn == esn) = some u ∧ (s.cellsAt (512 + cell)).stopAfter = none ∧ u.run = true ∧ x.blocks = [] ∧ s.linkOn = false) ∧
    (∃ (s : State) (cell : Nat) (esn : Nat) (x : CellSt) (u : SlotSt) (results : List (Nat × Nat × Nat)) (body : List Byte), s.Inv ∧
      cell < 512 ∧ s.cellsAt cell = x ∧ x.applied = true ∧ x.slots.find? (·.esn == esn) = some u ∧
      (s.cellsAt (512 + cell)).stopAfter = none ∧ u.run = true ∧ x.blocks = [] ∧ x.ra = [] ∧ x.stopAfter = none ∧ s.linkOn = true ∧
      s.noErrors = true ∧
      (body = Config.fapiJoin (fitMsgs (recIndBlk x.rcd - 32) ((u).indications cell (recScs x.rcd) [] ((((u).reports results).map fun m =>
      (m.1, s.readBytes m.2.1 m.2.2))))))) ∧
    (∃ (s : State) (cell : Nat) (esn : Nat) (x : CellSt) (u : SlotSt), s.Inv ∧ cell < 512 ∧ s.cellsAt cell = x ∧ x.applied = true ∧
      x.slots.find? (·.esn == esn) = some u ∧ (s.cellsAt (512 + cell)).stopAfter = none ∧ u.run = true ∧ u.present = true ∧
      ulCount x.rcd esn ≠ 0 ∧ s.onSn = true ∧
      0 < since (s.slotStart (muOf (recScs x.rcd)) esn + 1000000 / 2 ^ muOf (recScs x.rcd) + ulBound (recScs x.rcd)) s.readingNs) ∧
    (∃ (s : State) (cell : Nat) (esn : Nat) (x : CellSt) (u : SlotSt) (n : NrxSt) (w0 : Nat) (w1 : Nat) (c : Nat) (sig : Nat) (prb : Nat)
      (chest : Nat) (nf : Nat) (pdu : Nat) (llr : Nat) (la : List (Nat × Nat)) (lb : List (Nat × Nat)) (d : List Byte), s.Inv ∧
      cell < 512 ∧ s.cellsAt cell = x ∧ x.applied = true ∧ x.slots.find? (·.esn == esn) = some u ∧ u.run = true ∧ u.present = true ∧
      u.withheld = false ∧ ulCount x.rcd esn ≠ 0 ∧ (s.radio.nrxs.find? (fun m => m.n == recNrx x.rcd && recNrx x.rcd != 0) = some n) ∧
      nrxCallOf n x.rcd = some (w0, w1) ∧ c < 64 ∧ s.ctxActive c 4 = false ∧ s.noErrors = true ∧
      s.locate 0x101 rightW (0x7E0000000000 + cell * 0x1000000) 64 = some la ∧ d = u.pusch.flatMap puschRecord ∧
      s.locate 0x101 rightW pdu d.length = some lb) ∧
    (∃ (s : State) (cell : Nat) (esn : Nat) (x : CellSt) (u : SlotSt) (n : NrxSt) (w0 : Nat) (w1 : Nat) (c : Nat) (sig : Nat) (prb : Nat)
      (chest : Nat) (nf : Nat) (pdu : Nat) (llr : Nat) (la : List (Nat × Nat)) (lb : List (Nat × Nat)) (d : List Byte) (a : Nat), s.Inv ∧
      cell < 512 ∧ s.cellsAt cell = x ∧ x.applied = true ∧ x.slots.find? (·.esn == esn) = some u ∧ u.run = true ∧ u.present = true ∧
      u.withheld = false ∧ ulCount x.rcd esn ≠ 0 ∧ (s.radio.nrxs.find? (fun m => m.n == recNrx x.rcd && recNrx x.rcd != 0) = some n) ∧
      nrxCallOf n x.rcd = some (w0, w1) ∧ c < 64 ∧ s.ctxActive c 4 = false ∧ s.noErrors = true ∧
      s.locate 0x101 rightW (0x7E0000000000 + cell * 0x1000000) 64 = some la ∧ d = u.pusch.flatMap puschRecord ∧
      s.locate 0x101 rightW pdu d.length = some lb ∧ d = [] ∧ la = [(a, 64)] ∧ s.dpaKind a = .kennel) ∧
    (∃ (s : State) (cell : Nat), s.Inv ∧ cell < 512 ∧ (s.cellsAt cell).applied = true) :=
  ⟨⟨(st [.setLinkOn true, cell3 [slot3 37 [(0x80, [7]), (9, [])] true]]), 3, 37, ((st [.setLinkOn true, cell3 [slot3 37 [(0x80, [7]), (9, [])] true]]).cellsAt 3), slot3 37 [(0x80, [7]), (9, [])], (st_inv _), by decide, rfl, by decide +kernel, by decide +kernel, by decide +kernel, by decide +kernel, by decide +kernel, by decide +kernel, by decide +kernel, by decide +kernel⟩,
   ⟨(st [.setLinkOn false, cell3 [slot3 37 [(0x80, [7]), (9, [])] true]]), 3, 37, ((st [.setLinkOn false, cell3 [slot3 37 [(0x80, [7]), (9, [])] true]]).cellsAt 3), slot3 37 [(0x80, [7]), (9, [])], (st_inv _), by decide, rfl, by decide +kernel, by decide +kernel, by decide +kernel, by decide +kernel, by decide +kernel, by decide +kernel⟩,
   ⟨(st [.setLinkOn true, cell3 [slot3 37]]), 3, 37, ((st [.setLinkOn true, cell3 [slot3 37]]).cellsAt 3), slot3 37, [(0x85, 0x4000, 8)], Config.fapiJoin (fitMsgs (recIndBlk ((st [.setLinkOn true, cell3 [slot3 37]]).cellsAt 3).rcd - 32) ((slot3 37).indications 3 (recScs ((st [.setLinkOn true, cell3 [slot3 37]]).cellsAt 3).rcd) [] ((((slot3 37).reports [(0x85, 0x4000, 8)]).map fun m => (m.1, (st [.setLinkOn true, cell3 [slot3 37]]).readBytes m.2.1 m.2.2))))), (st_inv _), by decide, rfl, by decide +kernel, by decide +kernel, by decide +kernel, by decide +kernel, by decide +kernel, by decide +kernel, by decide +kernel, by decide +kernel, by decide +kernel, rfl⟩,
   ⟨(st [.setF R.timeStat F.timeStat_FORM 1, cell3 [slot3 3725521804]]), 3, 3725521804, ((st [.setF R.timeStat F.timeStat_FORM 1, cell3 [slot3 3725521804]]).cellsAt 3), slot3 3725521804, (st_inv _), by decide, rfl, by decide +kernel, by decide +kernel, by decide +kernel, by decide +kernel, by decide +kernel, by decide +kernel, by decide +kernel, by decide +kernel⟩,
   ⟨(st [cell3 [slot3 37] 0 2, .modRadio fun r => { r with nrxs := [⟨2, [3], 0x1000, [(64 * 2 ^ 32 + 2 ^ 30 + 2 ^ 24 + 2 ^ 19 + 11 * 2 ^ 9, 0)], 1, 0x40, 0x200, 0⟩] }, .modParts 0x101 fun y => { y with segs := [(0, 2 ^ 63 + 6 * 2 ^ 60 + 0x7E0003000000 / 65536, 0x200 * 2 ^ 32 + 256)] }]), 3, 37, ((st [cell3 [slot3 37] 0 2, .modRadio fun r => { r with nrxs := [⟨2, [3], 0x1000, [(64 * 2 ^ 32 + 2 ^ 30 + 2 ^ 24 + 2 ^ 19 + 11 * 2 ^ 9, 0)], 1, 0x40, 0x200, 0⟩] }, .modParts 0x101 fun y => { y with segs := [(0, 2 ^ 63 + 6 * 2 ^ 60 + 0x7E0003000000 / 65536, 0x200 * 2 ^ 32 + 256)] }]).cellsAt 3), slot3 37, ⟨2, [3], 0x1000, [(64 * 2 ^ 32 + 2 ^ 30 + 2 ^ 24 + 2 ^ 19 + 11 * 2 ^ 9, 0)], 1, 0x40, 0x200, 0⟩, 64 * 2 ^ 32 + 2 ^ 30 + 2 ^ 24 + 2 ^ 19 + 11 * 2 ^ 9, 0, 63, 4, 0, 0, 0, 0x7E0003001000, 0, [(0x2000000, 64)], [], [], (st_inv _), by decide, rfl, by decide +kernel, by decide +kernel, by decide +kernel, by decide +kernel, by decide +kernel, by decide +kernel, by decide +kernel, by decide +kernel, by decide +kernel, by decide +kernel, by decide +kernel, by decide +kernel, by decide +kernel, by decide +kernel⟩,
   ⟨(st [cell3 [slot3 37] 0 2, .modRadio fun r => { r with nrxs := [⟨2, [3], 0x1000, [(64 * 2 ^ 32 + 2 ^ 30 + 2 ^ 24 + 2 ^ 19 + 11 * 2 ^ 9, 0)], 1, 0x40, 0x200, 0⟩] }, .modParts 0x101 fun y => { y with segs := [(0, 2 ^ 63 + 6 * 2 ^ 60 + 0x7E0003000000 / 65536, 0x200 * 2 ^ 32 + 256)] }]), 3, 37, ((st [cell3 [slot3 37] 0 2, .modRadio fun r => { r with nrxs := [⟨2, [3], 0x1000, [(64 * 2 ^ 32 + 2 ^ 30 + 2 ^ 24 + 2 ^ 19 + 11 * 2 ^ 9, 0)], 1, 0x40, 0x200, 0⟩] }, .modParts 0x101 fun y => { y with segs := [(0, 2 ^ 63 + 6 * 2 ^ 60 + 0x7E0003000000 / 65536, 0x200 * 2 ^ 32 + 256)] }]).cellsAt 3), slot3 37, ⟨2, [3], 0x1000, [(64 * 2 ^ 32 + 2 ^ 30 + 2 ^ 24 + 2 ^ 19 + 11 * 2 ^ 9, 0)], 1, 0x40, 0x200, 0⟩, 64 * 2 ^ 32 + 2 ^ 30 + 2 ^ 24 + 2 ^ 19 + 11 * 2 ^ 9, 0, 63, 4, 0, 0, 0, 0x7E0003001000, 0, [(0x2000000, 64)], [], [], 0x2000000, (st_inv _), by decide, rfl, by decide +kernel, by decide +kernel, by decide +kernel, by decide +kernel, by decide +kernel, by decide +kernel, by decide +kernel, by decide +kernel, by decide +kernel, by decide +kernel, by decide +kernel, by decide +kernel, by decide +kernel, by decide +kernel, by decide +kernel, by decide +kernel, by decide +kernel⟩,
   ⟨(st [cell3 [slot3 37], .setF (R.coreSeqStat 9) F.coreSeqStat_CTX_ACTIVE 16, .modCtxs 76 fun c => { c with cells := [3] }]), 3, (st_inv _), by decide +kernel⟩⟩

/-- The hypotheses of FronthaulReception are met together. -/
theorem witness_fronthaul_reception :
    (∃ (s : State) (port : Nat) (pkt : UPacket), s.Inv ∧ port < 48 ∧ (packetOk pkt = false ∨ s.fhCell port pkt = none)) ∧
    (∃ (s : State) (port : Nat) (pkt : UPacket) (c : Nat) (x : CellSt), s.Inv ∧ packetOk pkt = true ∧ s.fhCell port pkt = some (c, x) ∧
      (s.cellsAt (c % 512)).applied = true ∧ (pkt.frStamp = true ∨ s.heldFor (muOf (recScs x.rcd)) pkt.esn = true)) ∧
    (∃ (s : State) (port : Nat) (pkt : UPacket) (c : Nat) (x : CellSt), s.Inv ∧ packetOk pkt = true ∧ s.fhCell port pkt = some (c, x) ∧
      (s.cellsAt (c % 512)).applied = true ∧ pkt.frStamp = false ∧ s.heldFor (muOf (recScs x.rcd)) pkt.esn = false ∧
      (packetForm pkt x (tdLen x pkt.esn pkt.sym) = false ∨ s.windowOf x pkt = .eq ∧ x.expects pkt = false)) ∧
    (∃ (s : State) (port : Nat) (pkt : UPacket) (c : Nat) (x : CellSt), s.Inv ∧ packetOk pkt = true ∧ s.fhCell port pkt = some (c, x) ∧
      (s.cellsAt (c % 512)).applied = true ∧ pkt.frStamp = false ∧ s.heldFor (muOf (recScs x.rcd)) pkt.esn = false ∧ recFhMode x.rcd = 2 ∧
      (pkt.section_ ≠ 255 ∨ pkt.tdFmt ≠ x.fhId F.fhCellId_TD_FMT ∨ tdLen x pkt.esn pkt.sym < pkt.tdOffset + pkt.tdSamples.length)) ∧
    (∃ (s : State) (port : Nat) (pkt : UPacket) (c : Nat) (x : CellSt) (esn : Nat) (sym : Nat) (k : Nat), s.Inv ∧ packetOk pkt = true ∧
      s.fhCell port pkt = some (c, x) ∧ (s.cellsAt (c % 512)).applied = true ∧ pkt.frStamp = false ∧
      s.heldFor (muOf (recScs x.rcd)) pkt.esn = false ∧ recFhMode x.rcd ≠ 2 ∧ esn = pkt.esn ∧ sym = pkt.sym ∧ pkt.section_ = 1 ∧
      k = pkt.eaxc - x.fhId F.fhCellId_EAXC_BASE ∧ k < 16 ∧ x.fhId F.fhCellId_UL_STATIC = 1 ∧ pkt.comp = none ∧ s.windowOf x pkt = .lt) ∧
    (∃ (s : State) (port : Nat) (pkt : UPacket) (c : Nat) (x : CellSt) (esn : Nat) (sym : Nat) (k : Nat), s.Inv ∧ packetOk pkt = true ∧
      s.fhCell port pkt = some (c, x) ∧ (s.cellsAt (c % 512)).applied = true ∧ pkt.frStamp = false ∧
      s.heldFor (muOf (recScs x.rcd)) pkt.esn = false ∧ recFhMode x.rcd ≠ 2 ∧ esn = pkt.esn ∧ sym = pkt.sym ∧ pkt.section_ = 1 ∧
      k = pkt.eaxc - x.fhId F.fhCellId_EAXC_BASE ∧ k < 16 ∧ x.fhId F.fhCellId_UL_STATIC = 1 ∧ pkt.comp = none ∧ s.windowOf x pkt = .gt) ∧
    (∃ (s : State) (port : Nat) (pkt : UPacket) (c : Nat) (x : CellSt) (esn : Nat) (sym : Nat) (k : Nat) (p : PrbData), s.Inv ∧
      packetOk pkt = true ∧ s.fhCell port pkt = some (c, x) ∧ (s.cellsAt (c % 512)).applied = true ∧ pkt.frStamp = false ∧
      s.heldFor (muOf (recScs x.rcd)) pkt.esn = false ∧ recFhMode x.rcd ≠ 2 ∧ esn = pkt.esn ∧ sym = pkt.sym ∧ pkt.section_ = 1 ∧
      k = pkt.eaxc - x.fhId F.fhCellId_EAXC_BASE ∧ k < 16 ∧ x.fhId F.fhCellId_UL_STATIC = 1 ∧ pkt.comp = none ∧ s.windowOf x pkt = .eq ∧
      x.asked esn = true ∧ (x.slot esn).withheld = false ∧ k < recUl x.rcd ∧ ulSym x.rcd esn sym = true ∧ pkt.prbs = [p] ∧
      p.prb < recNrb x.rcd ∧ (x.stream k).landed.contains (esn, sym) = false ∧ (∀ h, h ∈ (x.stream k).held → h.esn ≠ esn) ∧
      1 < recNrb x.rcd) ∧
    (∃ (s : State) (port : Nat) (pkt : UPacket) (c : Nat) (x : CellSt) (esn : Nat) (sym : Nat) (k : Nat) (p : PrbData), s.Inv ∧
      packetOk pkt = true ∧ s.fhCell port pkt = some (c, x) ∧ (s.cellsAt (c % 512)).applied = true ∧ pkt.frStamp = false ∧
      s.heldFor (muOf (recScs x.rcd)) pkt.esn = false ∧ recFhMode x.rcd ≠ 2 ∧ esn = pkt.esn ∧ sym = pkt.sym ∧ pkt.section_ = 1 ∧
      k = pkt.eaxc - x.fhId F.fhCellId_EAXC_BASE ∧ k < 16 ∧ x.fhId F.fhCellId_UL_STATIC = 1 ∧ pkt.comp = none ∧ s.windowOf x pkt = .eq ∧
      x.asked esn = true ∧ (x.slot esn).withheld = false ∧ k < recUl x.rcd ∧ ulSym x.rcd esn sym = true ∧ pkt.prbs = [p] ∧
      p.prb < recNrb x.rcd ∧ (x.stream k).landed.contains (esn, sym) = true ∧ (∀ h, h ∈ (x.stream k).held → h.esn ≠ esn)) :=
  ⟨⟨(st [.setF R.timeStat F.timeStat_FORM 1, cell3 [slot3 3725521810]]), 5, ⟨78, none, 64, 1, true, 0, 3725521810, 0, none, 1, [⟨2, 1, [3, -4]⟩], 0, 0, [], [], 1075000, false⟩, (st_inv _), by decide, .inr (by decide +kernel)⟩,
   ⟨(st [.setF R.timeStat F.timeStat_FORM 1, cell3 [slot3 3725521810], .setF R.radioStat F.radioStat_HELD 1]), 5, ⟨77, none, 64, 1, true, 0, 3725521810, 0, none, 1, [⟨2, 1, [3, -4]⟩], 0, 0, [], [], 1075000, false⟩, 3, ((st [.setF R.timeStat F.timeStat_FORM 1, cell3 [slot3 3725521810], .setF R.radioStat F.radioStat_HELD 1]).cellsAt 3), (st_inv _), by decide +kernel, by decide +kernel, by decide +kernel, .inr (by decide +kernel)⟩,
   ⟨(st [.setF R.timeStat F.timeStat_FORM 1, cell3 [slot3 3725521810]]), 5, ⟨77, none, 65, 1, true, 0, 3725521810, 0, none, 1, [⟨2, 1, [3, -4]⟩], 0, 0, [], [], 1075000, false⟩, 3, ((st [.setF R.timeStat F.timeStat_FORM 1, cell3 [slot3 3725521810]]).cellsAt 3), (st_inv _), by decide +kernel, by decide +kernel, by decide +kernel, by decide +kernel, by decide +kernel, .inr ⟨by decide +kernel, by decide +kernel⟩⟩,
   ⟨(st [.setF R.timeStat F.timeStat_FORM 1, cell3 [slot3 3725521810] 2]), 5, ⟨77, none, 64, 1, true, 0, 3725521810, 0, none, 255, [⟨2, 1, [3, -4]⟩], 0, 276, [], [(1, 2)], 1075000, false⟩, 3, ((st [.setF R.timeStat F.timeStat_FORM 1, cell3 [slot3 3725521810] 2]).cellsAt 3), (st_inv _), by decide +kernel, by decide +kernel, by decide +kernel, by decide +kernel, by decide +kernel, by decide +kernel, .inr (.inr (by decide +kernel))⟩,
   ⟨(st [.setF R.timeStat F.timeStat_FORM 1, cell3 [slot3 3725521810]]), 5, ⟨77, none, 64, 1, true, 0, 3725521810, 0, none, 1, [⟨2, 1, [3, -4]⟩], 0, 0, [], [], 1049999, false⟩, 3, ((st [.setF R.timeStat F.timeStat_FORM 1, cell3 [slot3 3725521810]]).cellsAt 3), 3725521810, 0, 0, (st_inv _), by decide +kernel⟩,
   ⟨(st [.setF R.timeStat F.timeStat_FORM 1, cell3 [slot3 3725521810]]), 5, ⟨77, none, 64, 1, true, 0, 3725521810, 0, none, 1, [⟨2, 1, [3, -4]⟩], 0, 0, [], [], 1100001, false⟩, 3, ((st [.setF R.timeStat F.timeStat_FORM 1, cell3 [slot3 3725521810]]).cellsAt 3), 3725521810, 0, 0, (st_inv _), by decide +kernel⟩,
   ⟨(st [.setF R.timeStat F.timeStat_FORM 1, cell3 [slot3 3725521810]]), 5, ⟨77, none, 64, 1, true, 0, 3725521810, 0, none, 1, [⟨2, 1, [3, -4]⟩], 0, 0, [], [], 1050000, false⟩, 3, ((st [.setF R.timeStat F.timeStat_FORM 1, cell3 [slot3 3725521810]]).cellsAt 3), 3725521810, 0, 0, ⟨2, 1, [3, -4]⟩, (st_inv _), by decide +kernel⟩,
   ⟨(st [.setF R.timeStat F.timeStat_FORM 1, cell3 [slot3 3725521810], .modStream 3 0 fun u => { u with landed := [(3725521810, 0)] }]), 5, ⟨77, none, 64, 1, true, 0, 3725521810, 0, none, 1, [⟨2, 1, [3, -4]⟩], 0, 0, [], [], 1100000, false⟩, 3, ((st [.setF R.timeStat F.timeStat_FORM 1, cell3 [slot3 3725521810], .modStream 3 0 fun u => { u with landed := [(3725521810, 0)] }]).cellsAt 3), 3725521810, 0, 0, ⟨2, 1, [3, -4]⟩, (st_inv _), by decide +kernel⟩⟩

/-- The hypotheses of FronthaulReception are met together. -/
theorem witness_fronthaul_reception_2 :
    (∃ (s : State) (port : Nat) (pkt : UPacket) (c : Nat) (x : CellSt) (esn : Nat) (sym : Nat) (k : Nat), s.Inv ∧ packetOk pkt = true ∧
      s.fhCell port pkt = some (c, x) ∧ (s.cellsAt (c % 512)).applied = true ∧ pkt.frStamp = false ∧
      s.heldFor (muOf (recScs x.rcd)) pkt.esn = false ∧ recFhMode x.rcd = 2 ∧ esn = pkt.esn ∧ sym = pkt.sym ∧
      packetForm pkt x (tdLen x esn sym) = true ∧ k = pkt.eaxc - x.fhId F.fhCellId_EAXC_BASE ∧ k < 16 ∧ s.windowOf x pkt = .eq ∧
      x.asked esn = true ∧ (x.slot esn).withheld = false ∧ k < recUl x.rcd ∧ ulSym x.rcd esn sym = true) ∧
    (∃ (s : State) (cell : Nat) (k : Nat) (esn : Nat) (sym : Nat) (x : CellSt), s.Inv ∧ cell < 512 ∧
      (s.cellsAt (512 + cell)).stopAfter = none ∧ s.cellsAt cell = x ∧ x.applied = true ∧ x.asked esn = true ∧
      s.heldFor (muOf (recScs x.rcd)) esn = false ∧ k < 16 ∧ k < recUl x.rcd ∧ recFhMode x.rcd ≠ 2 ∧ ulSym x.rcd esn sym = true ∧
      recNrb x.rcd ≠ 0 ∧ (x.stream k).landed.contains (esn, sym) = false ∧ s.noErrors = true) ∧
    (∃ (s : State) (cell : Nat) (k : Nat) (esn : Nat) (sym : Nat) (x : CellSt), s.Inv ∧ cell < 512 ∧
      (s.cellsAt (512 + cell)).stopAfter = none ∧ s.cellsAt cell = x ∧ x.applied = true ∧ x.asked esn = true ∧
      s.heldFor (muOf (recScs x.rcd)) esn = false ∧ k < 16 ∧ k < recUl x.rcd ∧ recFhMode x.rcd = 2 ∧ ulSym x.rcd esn sym = true ∧
      (x.stream k).landed.contains (esn, sym) = false ∧ (x.stream k).closed.contains (esn, sym) = false) ∧
    (∃ (s : State) (cell : Nat) (k : Nat) (esn : Nat) (sym : Nat) (x : CellSt), s.Inv ∧ x = s.cellsAt (s.cellKey cell esn) ∧
      (x.asked esn = false ∨ s.heldFor (muOf (recScs x.rcd)) esn = true)) ∧
    (∃ (s : State) (port : Nat) (body : List Byte), s.Inv ∧ s.fld (R.fhPortCfg port) F.fhPortCfg_USE = 1) ∧
    (∃ (s : State) (cell : Nat) (k : Nat) (esn : Nat) (sym : Nat) (x : CellSt) (mine : List TdRange) (gaps : Nat) (raw : List (Int ×
      Int)) (y : List (Int × Int)) (g : Nat) (n : Nat), s.Inv ∧ cell < 512 ∧ (s.cellsAt (512 + cell)).stopAfter = none ∧
      s.cellsAt cell = x ∧ x.applied = true ∧ recFhMode x.rcd = 2 ∧ k < recUl x.rcd ∧ x.asked esn = true ∧ ulSym x.rcd esn sym = true ∧
      (x.stream k).landed.contains (esn, sym) = false ∧ (mine = (x.stream k).td.filter fun r => r.esn == esn && r.sym == sym) ∧
      gaps = tdGaps (tdLen x esn sym) mine ∧ (gaps = 0 ∨ (x.stream k).closed.contains (esn, sym) = true) ∧ x.fhId F.fhCellId_SHIFT75 ≠ 1 ∧
      x.fhGain F.fhCellGain_MODE = 1 ∧ g = s.fld (R.fhGainTbl (x.fhGain F.fhCellGain_INIT_STEP)) F.fhGainTbl_GCODE ∧
      n = fftSize (recNrb x.rcd) ∧
      (raw = ((dcRemove (x.stream k).dcI (x.stream k).dcQ (tdAssemble (tdLen x esn sym) mine)).2.2.map fun v => (v.1 * (g : Int) / 2 ^ 16,
      v.2 * (g : Int) / 2 ^ 16))) ∧ (y = raw.map fun v => (sat16 v.1, sat16 v.2)) ∧ s.noErrors = true) ∧
    (∃ (s : State) (cell : Nat) (k : Nat) (esn : Nat) (sym : Nat) (x : CellSt) (n : Nat), s.Inv ∧ cell < 512 ∧ s.cellsAt cell = x ∧
      x.applied = true ∧ recFhMode x.rcd = 2 ∧ (x.slot esn).run = true ∧ k < recDl x.rcd ∧ dlSym x.rcd esn sym = true ∧
      (x.slot esn).withheld = false ∧ n = fftSize (recNrb x.rcd) ∧ s.noErrors = true) ∧
    (∃ (s : State) (port : Nat), s.Inv ∧ port < 48) :=
  ⟨⟨(st [.setF R.timeStat F.timeStat_FORM 1, cell3 [slot3 3725521810] 2]), 5, ⟨77, none, 64, 1, true, 0, 3725521810, 0, none, 255, [⟨2, 1, [3, -4]⟩], 0, 270, [], [(1, 2)], 1050000, false⟩, 3, ((st [.setF R.timeStat F.timeStat_FORM 1, cell3 [slot3 3725521810] 2]).cellsAt 3), 3725521810, 0, 0, (st_inv _), by decide +kernel⟩,
   ⟨(st [.setF R.timeStat F.timeStat_FORM 1, cell3 [slot3 37], .modStream 3 0 fun u => { u with held := [⟨37, 5, 1, 2, ⟨[(1, 2)], 255, 0⟩⟩] }]), 3, 0, 37, 5, ((st [.setF R.timeStat F.timeStat_FORM 1, cell3 [slot3 37], .modStream 3 0 fun u => { u with held := [⟨37, 5, 1, 2, ⟨[(1, 2)], 255, 0⟩⟩] }]).cellsAt 3), (st_inv _), by decide +kernel⟩,
   ⟨(st [.setF R.timeStat F.timeStat_FORM 1, cell3 [slot3 37] 2, .modStream 3 0 fun u => { u with td := [⟨37, 5, 0, [(1, 2)], false⟩] }]), 3, 0, 37, 5, ((st [.setF R.timeStat F.timeStat_FORM 1, cell3 [slot3 37] 2, .modStream 3 0 fun u => { u with td := [⟨37, 5, 0, [(1, 2)], false⟩] }]).cellsAt 3), (st_inv _), by decide +kernel⟩,
   ⟨(st [cell3 [slot3 37]]), 3, 0, 37, 5, ((st [cell3 [slot3 37]]).cellsAt 3), (st_inv _), by decide +kernel, .inr (by decide +kernel)⟩,
   ⟨(st [.setF (R.fhPortCfg 5) F.fhPortCfg_USE 1]), 5, [1], (st_inv _), by decide +kernel⟩,
   ⟨(st [cell3 [slot3 37] 2, .modStream 3 0 fun u => { u with td := [⟨37, 5, 0, List.replicate 276 (1, 2), false⟩] }, .setF (R.fhGainTbl 2) F.fhGainTbl_GCODE 65536]), 3, 0, 37, 5, ((st [cell3 [slot3 37] 2, .modStream 3 0 fun u => { u with td := [⟨37, 5, 0, List.replicate 276 (1, 2), false⟩] }, .setF (R.fhGainTbl 2) F.fhGainTbl_GCODE 65536]).cellsAt 3), [⟨37, 5, 0, List.replicate 276 (1, 2), false⟩], 0, (dcRemove 0 0 (List.replicate 274 (1, 2))).2.2, (dcRemove 0 0 (List.replicate 274 (1, 2))).2.2, 65536, 256, (st_inv _), by decide +kernel, by decide +kernel, by decide +kernel, by decide +kernel, by decide +kernel, by decide +kernel, by decide +kernel, by decide +kernel, by decide +kernel, by decide +kernel, by decide +kernel, .inl rfl, by decide +kernel, by decide +kernel, by decide +kernel, by decide +kernel, by decide +kernel, by decide +kernel, by decide +kernel⟩,
   ⟨(st [cell3 [slot3 37] 2]), 3, 0, 37, 5, ((st [cell3 [slot3 37] 2]).cellsAt 3), 256, (st_inv _), by decide, rfl, by decide +kernel, by decide +kernel, by decide +kernel, by decide +kernel, by decide +kernel, by decide +kernel, by decide +kernel, by decide +kernel⟩,
   ⟨State.reset, 47, reset_inv, by decide +kernel⟩⟩

/-- The hypotheses of CodingJobs are met together. -/
theorem witness_coding_jobs :
    ∃ (s : State) (cluster : Nat) (desc : Nat) (stat : Nat) (la : List (Nat × Nat)) (w : List Nat) (es : List Nat) (lb : List (Nat ×
      Nat)) (e : List Nat) (lc : List (Nat × Nat)) (len : Nat), s.Inv ∧ cluster < 4 ∧ s.cjobsAt (4 * cluster + 0) = none ∧
      (s.heldCode.find? (fun h => h.place == 4 * cluster + 0) = none) ∧ s.noErrors = true ∧ s.locate 0x100 rightR desc 64 = some la ∧
      (∀ x, x ∈ la → s.lineFenced x.1 = false) ∧
      (w = (List.range 8).map fun i => leNat ((la.flatMap fun x => s.readBytes x.1 x.2).drop (8 * i) |>.take 8)) ∧
      es = s.jobEngines cluster 7 (cEngMask w) false ∧ es ≠ [] ∧ cWaitEn w = false ∧ cNent w = 1 ∧
      s.locate 0x100 rightR (cEntList w) 64 = some lb ∧ (∀ x, x ∈ lb → s.lineFenced x.1 = false) ∧
      (e = (List.range 8).map fun i => leNat ((lb.flatMap fun x => s.readBytes x.1 x.2).drop (8 * i) |>.take 8)) ∧ jKind w = 7 ∧
      s.inMemory (cEntList w) 64 = true ∧ s.inMemory (cResBase w) 16 = true ∧ s.inMemory (eIn e) 1 = true ∧ s.inMemory (eOut e) 1 = true ∧
      s.entOk true e = true ∧ 1 ≤ cItMin w ∧ cItMin w ≤ 8 ∧ cItMin w ≤ cItMax w ∧ cItMax w ≤ 32 ∧ cEt w ≠ 3 ∧ (∀ k, k < es.length →
      cItMin w * (((List.range (eSeg e).C).filter fun r => r % es.length == k).length) ≤ poolShare (cBudget w) k es.length) ∧
      (len = codeLen 7 w [e] es (dealBlocks es ((List.range (eSeg e).C).map fun r => (0, r)))) ∧
      (len ≤ longestRun (fun n => !(es.any fun g => s.engRadio g n))) ∧
      (s.clk.cyc + len ≤ s.leftoverEnd (fun n => es.any fun g => s.engRadio g n) len) ∧ s.locate 0x100 rightR (eIn e) (eG e) = some lc ∧
      (∀ x, x ∈ lc → s.lineFenced x.1 = false) ∧ codeCharge 7 w [e] ≤ s.last.bucket :=
  ⟨(st [cell3 [slot3 37], .setBytes 0x1000 ([7 * 2 ^ 60 + 77, 2 ^ 52 + 100 * 2 ^ 36 + 8 * 2 ^ 22 + 2 * 2 ^ 18 + 2 ^ 16, 0x2000, 0, 0x4000, 2 ^ 58, 0, 0].flatMap fun w => leBytes w 8), .setBytes 0x2000 ([3 * 2 ^ 55 + 17 * 2 ^ 39 + 2 ^ 34 + 2 ^ 32 + 2 * 2 ^ 28 + 2 ^ 22, 24 * 2 ^ 43 + 200 * 2 ^ 16, 5 * 2 ^ 12, 0x3000, 0x3800, 0, 0, 0].flatMap fun w => leBytes w 8), .modLast fun l => { l with bucket := 100000000 }]), 3, 0x1000, 0x9000, [(4096, 64)], [7 * 2 ^ 60 + 77, 2 ^ 52 + 100 * 2 ^ 36 + 8 * 2 ^ 22 + 2 * 2 ^ 18 + 2 ^ 16, 0x2000, 0, 0x4000, 2 ^ 58, 0, 0], [18], [(8192, 64)], [3 * 2 ^ 55 + 17 * 2 ^ 39 + 2 ^ 34 + 2 ^ 32 + 2 * 2 ^ 28 + 2 ^ 22, 24 * 2 ^ 43 + 200 * 2 ^ 16, 5 * 2 ^ 12, 0x3000, 0x3800, 0, 0, 0], [(12288, 64), (12352, 64), (12416, 64), (12480, 8)], codeLen 7 [7 * 2 ^ 60 + 77, 2 ^ 52 + 100 * 2 ^ 36 + 8 * 2 ^ 22 + 2 * 2 ^ 18 + 2 ^ 16, 0x2000, 0, 0x4000, 2 ^ 58, 0, 0] [[3 * 2 ^ 55 + 17 * 2 ^ 39 + 2 ^ 34 + 2 ^ 32 + 2 * 2 ^ 28 + 2 ^ 22, 24 * 2 ^ 43 + 200 * 2 ^ 16, 5 * 2 ^ 12, 0x3000, 0x3800, 0, 0, 0]] [18] (dealBlocks [18] ((List.range (eSeg [3 * 2 ^ 55 + 17 * 2 ^ 39 + 2 ^ 34 + 2 ^ 32 + 2 * 2 ^ 28 + 2 ^ 22, 24 * 2 ^ 43 + 200 * 2 ^ 16, 5 * 2 ^ 12, 0x3000, 0x3800, 0, 0, 0]).C).map fun r => (0, r))), (st_inv _), by decide +kernel⟩

/-- The hypotheses of CodingJobs are met together. -/
theorem witness_coding_jobs_2 :
    ∃ (s : State) (cluster : Nat) (desc : Nat) (stat : Nat) (la : List (Nat × Nat)) (w : List Nat) (es : List Nat) (lb : List (Nat ×
      Nat)) (e : List Nat) (lc : List (Nat × Nat)) (len : Nat), s.Inv ∧ cluster < 4 ∧ s.cjobsAt (4 * cluster + 1) = none ∧
      (s.heldCode.find? (fun h => h.place == 4 * cluster + 1) = none) ∧ s.noErrors = true ∧ s.locate 0x100 rightR desc 64 = some la ∧
      (∀ x, x ∈ la → s.lineFenced x.1 = false) ∧
      (w = (List.range 8).map fun i => leNat ((la.flatMap fun x => s.readBytes x.1 x.2).drop (8 * i) |>.take 8)) ∧
      es = s.jobEngines cluster 8 (cEngMask w) false ∧ es ≠ [] ∧ cWaitEn w = false ∧ cNent w = 1 ∧
      s.locate 0x100 rightR (cEntList w) 64 = some lb ∧ (∀ x, x ∈ lb → s.lineFenced x.1 = false) ∧
      (e = (List.range 8).map fun i => leNat ((lb.flatMap fun x => s.readBytes x.1 x.2).drop (8 * i) |>.take 8)) ∧ jKind w = 8 ∧
      s.inMemory (cEntList w) 64 = true ∧ s.inMemory (cResBase w) 16 = true ∧ s.inMemory (eIn e) 1 = true ∧ s.inMemory (eOut e) 1 = true ∧
      s.entOk false e = true ∧ (len = codeLen 8 w [e] es (dealBlocks es ((List.range (eSeg e).C).map fun r => (0, r)))) ∧
      (len ≤ longestRun (fun n => !(es.any fun g => s.engRadio g n))) ∧
      (s.clk.cyc + len ≤ s.leftoverEnd (fun n => es.any fun g => s.engRadio g n) len) ∧
      s.locate 0x100 rightR (eIn e) (cdiv (eTbs e) 8) = some lc ∧ (∀ x, x ∈ lc → s.lineFenced x.1 = false) ∧
      codeCharge 8 w [e] ≤ s.last.bucket :=
  ⟨(st [cell3 [slot3 37], .setBytes 0x1000 ([8 * 2 ^ 60 + 77, 2 ^ 52 + 100 * 2 ^ 36 + 8 * 2 ^ 22 + 2 * 2 ^ 18 + 2 ^ 16, 0x2000, 0, 0x4000, 2 ^ 58, 0, 0].flatMap fun w => leBytes w 8), .setBytes 0x2000 ([3 * 2 ^ 55 + 17 * 2 ^ 39 + 2 ^ 34 + 2 ^ 32 + 2 * 2 ^ 28 + 2 ^ 22, 24 * 2 ^ 43 + 200 * 2 ^ 16, 5 * 2 ^ 12, 0x3000, 0x3800, 0, 0, 0].flatMap fun w => leBytes w 8), .modLast fun l => { l with bucket := 100000000 }]), 3, 0x1000, 0x9000, [(4096, 64)], [8 * 2 ^ 60 + 77, 2 ^ 52 + 100 * 2 ^ 36 + 8 * 2 ^ 22 + 2 * 2 ^ 18 + 2 ^ 16, 0x2000, 0, 0x4000, 2 ^ 58, 0, 0], [30], [(8192, 64)], [3 * 2 ^ 55 + 17 * 2 ^ 39 + 2 ^ 34 + 2 ^ 32 + 2 * 2 ^ 28 + 2 ^ 22, 24 * 2 ^ 43 + 200 * 2 ^ 16, 5 * 2 ^ 12, 0x3000, 0x3800, 0, 0, 0], [(12288, 3)], codeLen 8 [8 * 2 ^ 60 + 77, 2 ^ 52 + 100 * 2 ^ 36 + 8 * 2 ^ 22 + 2 * 2 ^ 18 + 2 ^ 16, 0x2000, 0, 0x4000, 2 ^ 58, 0, 0] [[3 * 2 ^ 55 + 17 * 2 ^ 39 + 2 ^ 34 + 2 ^ 32 + 2 * 2 ^ 28 + 2 ^ 22, 24 * 2 ^ 43 + 200 * 2 ^ 16, 5 * 2 ^ 12, 0x3000, 0x3800, 0, 0, 0]] [30] (dealBlocks [30] ((List.range (eSeg [3 * 2 ^ 55 + 17 * 2 ^ 39 + 2 ^ 34 + 2 ^ 32 + 2 * 2 ^ 28 + 2 ^ 22, 24 * 2 ^ 43 + 200 * 2 ^ 16, 5 * 2 ^ 12, 0x3000, 0x3800, 0, 0, 0]).C).map fun r => (0, r))), (st_inv _), by decide +kernel⟩

/-- The hypotheses of CodingJobs are met together. -/
theorem witness_coding_jobs_3 :
    ∃ (s : State) (cluster : Nat) (desc : Nat) (stat : Nat) (cells : List Nat) (la : List (Nat × Nat)) (w : List Nat) (es : List Nat)
      (lb : List (Nat × Nat)) (e : List Nat) (lc : List (Nat × Nat)) (len : Nat), s.Inv ∧ cluster < 4 ∧
      s.cjobsAt (4 * cluster + 2) = none ∧ (s.heldCode.find? (fun h => h.place == 4 * cluster + 2) = none) ∧ s.noErrors = true ∧
      s.locate 0x100 rightR desc 64 = some la ∧ (∀ x, x ∈ la → s.lineFenced x.1 = false) ∧
      (w = (List.range 8).map fun i => leNat ((la.flatMap fun x => s.readBytes x.1 x.2).drop (8 * i) |>.take 8)) ∧
      es = s.jobEngines cluster 9 (cEngMask w) false ∧ es ≠ [] ∧ cWaitEn w = false ∧ cNent w = 1 ∧
      s.locate 0x100 rightR (cEntList w) 32 = some lb ∧ (∀ x, x ∈ lb → s.lineFenced x.1 = false) ∧
      (e = (List.range 4).map fun i => leNat ((lb.flatMap fun x => s.readBytes x.1 x.2).drop (8 * i) |>.take 8)) ∧ jKind w = 9 ∧
      s.inMemory (cEntList w) 32 = true ∧ s.inMemory (cResBase w) 16 = true ∧ s.inMemory (pIn e) 1 = true ∧ s.inMemory (pOut e) 1 = true ∧
      pType e = 0 ∧ polarOk e = true ∧ len = codeLen 9 w [e] es (dealBlocks es [(0, 0)]) ∧
      (len ≤ longestRun (fun n => !(es.any fun g => s.engRadio g n))) ∧
      (s.clk.cyc + len ≤ s.leftoverEnd (fun n => es.any fun g => s.engRadio g n) len) ∧
      s.locate 0x100 rightR (pIn e) (cdiv (pA e) 8) = some lc ∧ (∀ x, x ∈ lc → s.lineFenced x.1 = false) ∧
      codeCharge 9 w [e] ≤ s.last.bucket :=
  ⟨(st [cell3 [slot3 37], .setBytes 0x1000 ([9 * 2 ^ 60 + 77, 2 ^ 52 + 100 * 2 ^ 36 + 8 * 2 ^ 22 + 2 * 2 ^ 18 + 2 ^ 16, 0x2000, 0, 0x4000, 2 ^ 58, 0, 0].flatMap fun w => leBytes w 8), .setBytes 0x2000 ([0 * 2 ^ 60 + 12 * 2 ^ 49 + 108 * 2 ^ 35, 0, 0x3000, 0x3800].flatMap fun w => leBytes w 8), .modLast fun l => { l with bucket := 100000000 }]), 3, 0x1000, 0x9000, [3], [(4096, 64)], [9 * 2 ^ 60 + 77, 2 ^ 52 + 100 * 2 ^ 36 + 8 * 2 ^ 22 + 2 * 2 ^ 18 + 2 ^ 16, 0x2000, 0, 0x4000, 2 ^ 58, 0, 0], [38], [(8192, 32)], [0 * 2 ^ 60 + 12 * 2 ^ 49 + 108 * 2 ^ 35, 0, 0x3000, 0x3800], [(12288, 2)], codeLen 9 [9 * 2 ^ 60 + 77, 2 ^ 52 + 100 * 2 ^ 36 + 8 * 2 ^ 22 + 2 * 2 ^ 18 + 2 ^ 16, 0x2000, 0, 0x4000, 2 ^ 58, 0, 0] [[0 * 2 ^ 60 + 12 * 2 ^ 49 + 108 * 2 ^ 35, 0, 0x3000, 0x3800]] [38] (dealBlocks [38] [(0, 0)]), (st_inv _), by decide +kernel⟩

/-- The hypotheses of CodingJobs are met together. -/
theorem witness_coding_jobs_4 :
    ∃ (s : State) (cluster : Nat) (desc : Nat) (stat : Nat) (cells : List Nat) (la : List (Nat × Nat)) (w : List Nat) (es : List Nat)
      (lb : List (Nat × Nat)) (e : List Nat) (lc : List (Nat × Nat)) (len : Nat), s.Inv ∧ cluster < 4 ∧
      s.cjobsAt (4 * cluster + 2) = none ∧ (s.heldCode.find? (fun h => h.place == 4 * cluster + 2) = none) ∧ s.noErrors = true ∧
      s.locate 0x100 rightR desc 64 = some la ∧ (∀ x, x ∈ la → s.lineFenced x.1 = false) ∧
      (w = (List.range 8).map fun i => leNat ((la.flatMap fun x => s.readBytes x.1 x.2).drop (8 * i) |>.take 8)) ∧
      es = s.jobEngines cluster 9 (cEngMask w) false ∧ es ≠ [] ∧ cWaitEn w = false ∧ cNent w = 1 ∧
      s.locate 0x100 rightR (cEntList w) 32 = some lb ∧ (∀ x, x ∈ lb → s.lineFenced x.1 = false) ∧
      (e = (List.range 4).map fun i => leNat ((lb.flatMap fun x => s.readBytes x.1 x.2).drop (8 * i) |>.take 8)) ∧ jKind w = 9 ∧
      s.inMemory (cEntList w) 32 = true ∧ s.inMemory (cResBase w) 16 = true ∧ s.inMemory (pIn e) 1 = true ∧ s.inMemory (pOut e) 1 = true ∧
      pType e = 1 ∧ polarOk e = true ∧ len = codeLen 9 w [e] es (dealBlocks es [(0, 0)]) ∧
      (len ≤ longestRun (fun n => !(es.any fun g => s.engRadio g n))) ∧
      (s.clk.cyc + len ≤ s.leftoverEnd (fun n => es.any fun g => s.engRadio g n) len) ∧
      s.locate 0x100 rightR (pIn e) (cdiv (pA e) 8) = some lc ∧ (∀ x, x ∈ lc → s.lineFenced x.1 = false) ∧
      codeCharge 9 w [e] ≤ s.last.bucket :=
  ⟨(st [cell3 [slot3 37], .setBytes 0x1000 ([9 * 2 ^ 60 + 77, 2 ^ 52 + 100 * 2 ^ 36 + 8 * 2 ^ 22 + 2 * 2 ^ 18 + 2 ^ 16, 0x2000, 0, 0x4000, 2 ^ 58, 0, 0].flatMap fun w => leBytes w 8), .setBytes 0x2000 ([1 * 2 ^ 60 + 32 * 2 ^ 49 + 864 * 2 ^ 35, 0, 0x3000, 0x3800].flatMap fun w => leBytes w 8), .modLast fun l => { l with bucket := 100000000 }]), 3, 0x1000, 0x9000, [3], [(4096, 64)], [9 * 2 ^ 60 + 77, 2 ^ 52 + 100 * 2 ^ 36 + 8 * 2 ^ 22 + 2 * 2 ^ 18 + 2 ^ 16, 0x2000, 0, 0x4000, 2 ^ 58, 0, 0], [38], [(8192, 32)], [1 * 2 ^ 60 + 32 * 2 ^ 49 + 864 * 2 ^ 35, 0, 0x3000, 0x3800], [(12288, 4)], codeLen 9 [9 * 2 ^ 60 + 77, 2 ^ 52 + 100 * 2 ^ 36 + 8 * 2 ^ 22 + 2 * 2 ^ 18 + 2 ^ 16, 0x2000, 0, 0x4000, 2 ^ 58, 0, 0] [[1 * 2 ^ 60 + 32 * 2 ^ 49 + 864 * 2 ^ 35, 0, 0x3000, 0x3800]] [38] (dealBlocks [38] [(0, 0)]), (st_inv _), by decide +kernel⟩

/-- The hypotheses of CodingJobs are met together. -/
theorem witness_coding_jobs_5 :
    ∃ (s : State) (cluster : Nat) (desc : Nat) (stat : Nat) (cells : List Nat) (la : List (Nat × Nat)) (w : List Nat) (es : List Nat)
      (lb : List (Nat × Nat)) (e : List Nat) (lc : List (Nat × Nat)) (len : Nat), s.Inv ∧ cluster < 4 ∧
      s.cjobsAt (4 * cluster + 2) = none ∧ (s.heldCode.find? (fun h => h.place == 4 * cluster + 2) = none) ∧ s.noErrors = true ∧
      s.locate 0x100 rightR desc 64 = some la ∧ (∀ x, x ∈ la → s.lineFenced x.1 = false) ∧
      (w = (List.range 8).map fun i => leNat ((la.flatMap fun x => s.readBytes x.1 x.2).drop (8 * i) |>.take 8)) ∧
      es = s.jobEngines cluster 9 (cEngMask w) false ∧ es ≠ [] ∧ cWaitEn w = false ∧ cNent w = 1 ∧
      s.locate 0x100 rightR (cEntList w) 32 = some lb ∧ (∀ x, x ∈ lb → s.lineFenced x.1 = false) ∧
      (e = (List.range 4).map fun i => leNat ((lb.flatMap fun x => s.readBytes x.1 x.2).drop (8 * i) |>.take 8)) ∧ jKind w = 9 ∧
      s.inMemory (cEntList w) 32 = true ∧ s.inMemory (cResBase w) 16 = true ∧ s.inMemory (pIn e) 1 = true ∧ s.inMemory (pOut e) 1 = true ∧
      pType e = 2 ∧ polarOk e = true ∧ len = codeLen 9 w [e] es (dealBlocks es [(0, 0)]) ∧
      (len ≤ longestRun (fun n => !(es.any fun g => s.engRadio g n))) ∧
      (s.clk.cyc + len ≤ s.leftoverEnd (fun n => es.any fun g => s.engRadio g n) len) ∧ s.locate 0x100 rightR (pIn e) (pE e) = some lc ∧
      (∀ x, x ∈ lc → s.lineFenced x.1 = false) ∧ codeCharge 9 w [e] ≤ s.last.bucket :=
  ⟨(st [cell3 [slot3 37], .setBytes 0x1000 ([9 * 2 ^ 60 + 77, 2 ^ 52 + 100 * 2 ^ 36 + 8 * 2 ^ 22 + 2 * 2 ^ 18 + 2 ^ 16, 0x2000, 0, 0x4000, 2 ^ 58, 0, 0].flatMap fun w => leBytes w 8), .setBytes 0x2000 ([2 * 2 ^ 60 + 12 * 2 ^ 49 + 40 * 2 ^ 35, 0, 0x3000, 0x3800].flatMap fun w => leBytes w 8), .modLast fun l => { l with bucket := 100000000 }]), 3, 0x1000, 0x9000, [3], [(4096, 64)], [9 * 2 ^ 60 + 77, 2 ^ 52 + 100 * 2 ^ 36 + 8 * 2 ^ 22 + 2 * 2 ^ 18 + 2 ^ 16, 0x2000, 0, 0x4000, 2 ^ 58, 0, 0], [38], [(8192, 32)], [2 * 2 ^ 60 + 12 * 2 ^ 49 + 40 * 2 ^ 35, 0, 0x3000, 0x3800], [(12288, 40)], codeLen 9 [9 * 2 ^ 60 + 77, 2 ^ 52 + 100 * 2 ^ 36 + 8 * 2 ^ 22 + 2 * 2 ^ 18 + 2 ^ 16, 0x2000, 0, 0x4000, 2 ^ 58, 0, 0] [[2 * 2 ^ 60 + 12 * 2 ^ 49 + 40 * 2 ^ 35, 0, 0x3000, 0x3800]] [38] (dealBlocks [38] [(0, 0)]), (st_inv _), by decide +kernel⟩

/-- The hypotheses of CodingJobs are met together. -/
theorem witness_coding_jobs_6 :
    ∃ (s : State) (cluster : Nat) (desc : Nat) (stat : Nat) (cells : List Nat) (la : List (Nat × Nat)) (w : List Nat) (es : List Nat)
      (lb : List (Nat × Nat)) (e : List Nat) (lc : List (Nat × Nat)) (len : Nat), s.Inv ∧ cluster < 4 ∧
      s.cjobsAt (4 * cluster + 2) = none ∧ (s.heldCode.find? (fun h => h.place == 4 * cluster + 2) = none) ∧ s.noErrors = true ∧
      s.locate 0x100 rightR desc 64 = some la ∧ (∀ x, x ∈ la → s.lineFenced x.1 = false) ∧
      (w = (List.range 8).map fun i => leNat ((la.flatMap fun x => s.readBytes x.1 x.2).drop (8 * i) |>.take 8)) ∧
      es = s.jobEngines cluster 9 (cEngMask w) false ∧ es ≠ [] ∧ cWaitEn w = false ∧ cNent w = 1 ∧
      s.locate 0x100 rightR (cEntList w) 32 = some lb ∧ (∀ x, x ∈ lb → s.lineFenced x.1 = false) ∧
      (e = (List.range 4).map fun i => leNat ((lb.flatMap fun x => s.readBytes x.1 x.2).drop (8 * i) |>.take 8)) ∧ jKind w = 9 ∧
      s.inMemory (cEntList w) 32 = true ∧ s.inMemory (cResBase w) 16 = true ∧ s.inMemory (pIn e) 1 = true ∧ s.inMemory (pOut e) 1 = true ∧
      pType e = 3 ∧ polarOk e = true ∧ len = codeLen 9 w [e] es (dealBlocks es [(0, 0)]) ∧
      (len ≤ longestRun (fun n => !(es.any fun g => s.engRadio g n))) ∧
      (s.clk.cyc + len ≤ s.leftoverEnd (fun n => es.any fun g => s.engRadio g n) len) ∧ s.locate 0x100 rightR (pIn e) (pE e) = some lc ∧
      (∀ x, x ∈ lc → s.lineFenced x.1 = false) ∧ codeCharge 9 w [e] ≤ s.last.bucket :=
  ⟨(st [cell3 [slot3 37], .setBytes 0x1000 ([9 * 2 ^ 60 + 77, 2 ^ 52 + 100 * 2 ^ 36 + 8 * 2 ^ 22 + 2 * 2 ^ 18 + 2 ^ 16, 0x2000, 0, 0x4000, 2 ^ 58, 0, 0].flatMap fun w => leBytes w 8), .setBytes 0x2000 ([3 * 2 ^ 60 + 3 * 2 ^ 49 + 24 * 2 ^ 35, 0, 0x3000, 0x3800].flatMap fun w => leBytes w 8), .modLast fun l => { l with bucket := 100000000 }]), 3, 0x1000, 0x9000, [3], [(4096, 64)], [9 * 2 ^ 60 + 77, 2 ^ 52 + 100 * 2 ^ 36 + 8 * 2 ^ 22 + 2 * 2 ^ 18 + 2 ^ 16, 0x2000, 0, 0x4000, 2 ^ 58, 0, 0], [38], [(8192, 32)], [3 * 2 ^ 60 + 3 * 2 ^ 49 + 24 * 2 ^ 35, 0, 0x3000, 0x3800], [(12288, 24)], codeLen 9 [9 * 2 ^ 60 + 77, 2 ^ 52 + 100 * 2 ^ 36 + 8 * 2 ^ 22 + 2 * 2 ^ 18 + 2 ^ 16, 0x2000, 0, 0x4000, 2 ^ 58, 0, 0] [[3 * 2 ^ 60 + 3 * 2 ^ 49 + 24 * 2 ^ 35, 0, 0x3000, 0x3800]] [38] (dealBlocks [38] [(0, 0)]), (st_inv _), by decide +kernel⟩

/-- The hypotheses of CodingJobs are met together. -/
theorem witness_coding_jobs_7 :
    ∃ (s : State) (cluster : Nat) (desc : Nat) (stat : Nat) (la : List (Nat × Nat)) (w : List Nat) (es : List Nat), s.Inv ∧
      cluster < 4 ∧ s.cjobsAt (4 * cluster) = none ∧ (s.heldCode.find? (fun h => h.place == 4 * cluster) = none) ∧ s.noErrors = true ∧
      s.locate 0x100 rightR desc 64 = some la ∧ (∀ x, x ∈ la → s.lineFenced x.1 = false) ∧
      (w = (List.range 8).map fun i => leNat ((la.flatMap fun x => s.readBytes x.1 x.2).drop (8 * i) |>.take 8)) ∧
      es = s.jobEngines cluster 7 (cEngMask w) false ∧ es ≠ [] ∧ cWaitEn w = true ∧ s.syncBad 0x100 (jWaitIdx w) = false ∧
      s.syncOk 0x100 (jWaitIdx w) (jWaitVal w) = false :=
  ⟨(st [cell3 [slot3 37], .setBytes 0x1000 ([7 * 2 ^ 60 + 77, 2 ^ 52 + 100 * 2 ^ 36 + 8 * 2 ^ 22 + 2 * 2 ^ 18 + 2 ^ 16 + 2 ^ 11, 0x2000, 2 ^ 36 + 9 * 2 ^ 24 + 2, 0x4000, 2 ^ 58, 0, 0].flatMap fun w => leBytes w 8)]), 3, 0x1000, 0x9000, [(4096, 64)], [7 * 2 ^ 60 + 77, 2 ^ 52 + 100 * 2 ^ 36 + 8 * 2 ^ 22 + 2 * 2 ^ 18 + 2 ^ 16 + 2 ^ 11, 0x2000, 2 ^ 36 + 9 * 2 ^ 24 + 2, 0x4000, 2 ^ 58, 0, 0], [18], (st_inv _), by decide +kernel⟩

/-- The hypotheses of CodingJobs are met together. -/
theorem witness_coding_jobs_8 :
    ∃ (s : State) (cluster : Nat) (desc : Nat) (stat : Nat) (j : CodeJob), s.Inv ∧ cluster < 4 ∧ s.cjobsAt (4 * cluster) = some j ∧
      (j.waiting = false ∨ cWaitEn j.words = true ∧ s.syncBad 0x100 (jWaitIdx j.words) = false ∧
      s.syncOk 0x100 (jWaitIdx j.words) (jWaitVal j.words) = false) :=
  ⟨(st [cell3 [slot3 37], .setCjobs 12 (some ⟨[7 * 2 ^ 60 + 77, 2 ^ 52 + 100 * 2 ^ 36 + 8 * 2 ^ 22 + 2 * 2 ^ 18 + 2 ^ 16 + 2 ^ 11, 0x2000, 2 ^ 36 + 9 * 2 ^ 24 + 2, 0x4000, 2 ^ 58, 0, 0], false, 0x9000, [[3 * 2 ^ 55 + 17 * 2 ^ 39 + 2 ^ 34 + 2 ^ 32 + 2 * 2 ^ 28 + 2 ^ 22, 24 * 2 ^ 43 + 200 * 2 ^ 16, 5 * 2 ^ 12, 0x3000, 0x3800, 0, 0, 0]], [18], [100], [0], [], [3], [[1, 2, 3]], [(true, false)], true, false, 12⟩)]), 3, 0x1000, 0x9000, ⟨[7 * 2 ^ 60 + 77, 2 ^ 52 + 100 * 2 ^ 36 + 8 * 2 ^ 22 + 2 * 2 ^ 18 + 2 ^ 16 + 2 ^ 11, 0x2000, 2 ^ 36 + 9 * 2 ^ 24 + 2, 0x4000, 2 ^ 58, 0, 0], false, 0x9000, [[3 * 2 ^ 55 + 17 * 2 ^ 39 + 2 ^ 34 + 2 ^ 32 + 2 * 2 ^ 28 + 2 ^ 22, 24 * 2 ^ 43 + 200 * 2 ^ 16, 5 * 2 ^ 12, 0x3000, 0x3800, 0, 0, 0]], [18], [100], [0], [], [3], [[1, 2, 3]], [(true, false)], true, false, 12⟩, (st_inv _), by decide, by decide +kernel, .inr ⟨by decide +kernel, by decide +kernel, by decide +kernel⟩⟩

/-- The hypotheses of CodingResults are met together. -/
theorem witness_coding_results :
    ∃ (s : State) (engine : Nat) (k : Nat) (j : CodeJob) (b : CodeBlk) (ce : Nat), s.Inv ∧ engine < 40 ∧ k < 16 ∧
      s.jobOf engine = some (k, j) ∧ (j.blocks.find? (fun x => x.eng == engine && !x.done) = some b) ∧ j.radio = false :=
  ⟨(st [cell3 [slot3 37], .setCjobs 12 (some ⟨[7 * 2 ^ 60 + 77, 2 ^ 52 + 100 * 2 ^ 36 + 8 * 2 ^ 22 + 2 * 2 ^ 18 + 2 ^ 16 + 0 * 2 ^ 10, 0x2000, 9 * 2 ^ 24 + 2, 0x4000, 2 ^ 58, 0, 0], false, 0x9000, [[3 * 2 ^ 55 + 17 * 2 ^ 39 + 2 ^ 34 + 2 ^ 32 + 2 * 2 ^ 28 + 2 ^ 22, 24 * 2 ^ 43 + 200 * 2 ^ 16, 5 * 2 ^ 12, 0x3000, 0x3800, 0, 0, 0]], [18], [100], [0], [⟨0, 0, 18, [], false, 0, 0, false, false, []⟩, ⟨0, 1, 18, [], false, 0, 0, false, false, []⟩], [3], [[1, 2, 3]], [(true, false)], false, false, 12⟩)]), 18, 12, ⟨[7 * 2 ^ 60 + 77, 2 ^ 52 + 100 * 2 ^ 36 + 8 * 2 ^ 22 + 2 * 2 ^ 18 + 2 ^ 16 + 0 * 2 ^ 10, 0x2000, 9 * 2 ^ 24 + 2, 0x4000, 2 ^ 58, 0, 0], false, 0x9000, [[3 * 2 ^ 55 + 17 * 2 ^ 39 + 2 ^ 34 + 2 ^ 32 + 2 * 2 ^ 28 + 2 ^ 22, 24 * 2 ^ 43 + 200 * 2 ^ 16, 5 * 2 ^ 12, 0x3000, 0x3800, 0, 0, 0]], [18], [100], [0], [⟨0, 0, 18, [], false, 0, 0, false, false, []⟩, ⟨0, 1, 18, [], false, 0, 0, false, false, []⟩], [3], [[1, 2, 3]], [(true, false)], false, false, 12⟩, ⟨0, 0, 18, [], false, 0, 0, false, false, []⟩, 5, (st_inv _), by decide +kernel⟩

/-- The hypotheses of CodingResults are met together. -/
theorem witness_coding_results_2 :
    ∃ (s : State) (engine : Nat) (k : Nat) (j : CodeJob) (b : CodeBlk) (cell : Nat) (ce : Nat), s.Inv ∧ engine < 40 ∧ k < 16 ∧
      s.jobOf engine = some (k, j) ∧ (j.blocks.find? (fun x => x.eng == engine && !x.done) = some b) ∧ j.radio = true ∧ j.cells = [cell] ∧
      cell < 512 ∧ (s.cellsAt cell).applied = true :=
  ⟨(st [cell3 [slot3 37], .setCjobs 12 (some ⟨[7 * 2 ^ 60 + 77, 2 ^ 52 + 100 * 2 ^ 36 + 8 * 2 ^ 22 + 2 * 2 ^ 18 + 2 ^ 16 + 0 * 2 ^ 10, 0x2000, 9 * 2 ^ 24 + 2, 0x4000, 2 ^ 58, 0, 0], true, 0x9000, [[3 * 2 ^ 55 + 17 * 2 ^ 39 + 2 ^ 34 + 2 ^ 32 + 2 * 2 ^ 28 + 2 ^ 22, 24 * 2 ^ 43 + 200 * 2 ^ 16, 5 * 2 ^ 12, 0x3000, 0x3800, 0, 0, 0]], [18], [100], [0], [⟨0, 0, 18, [], false, 0, 0, false, false, []⟩, ⟨0, 1, 18, [], false, 0, 0, false, false, []⟩], [3], [[1, 2, 3]], [(true, false)], false, false, 12⟩)]), 18, 12, ⟨[7 * 2 ^ 60 + 77, 2 ^ 52 + 100 * 2 ^ 36 + 8 * 2 ^ 22 + 2 * 2 ^ 18 + 2 ^ 16 + 0 * 2 ^ 10, 0x2000, 9 * 2 ^ 24 + 2, 0x4000, 2 ^ 58, 0, 0], true, 0x9000, [[3 * 2 ^ 55 + 17 * 2 ^ 39 + 2 ^ 34 + 2 ^ 32 + 2 * 2 ^ 28 + 2 ^ 22, 24 * 2 ^ 43 + 200 * 2 ^ 16, 5 * 2 ^ 12, 0x3000, 0x3800, 0, 0, 0]], [18], [100], [0], [⟨0, 0, 18, [], false, 0, 0, false, false, []⟩, ⟨0, 1, 18, [], false, 0, 0, false, false, []⟩], [3], [[1, 2, 3]], [(true, false)], false, false, 12⟩, ⟨0, 0, 18, [], false, 0, 0, false, false, []⟩, 3, 0, (st_inv _), by decide +kernel⟩

/-- The hypotheses of CodingResults are met together. -/
theorem witness_coding_results_3 :
    ∃ (s : State) (engine : Nat) (k : Nat) (j : CodeJob) (b : CodeBlk) (ce : Nat), s.Inv ∧ engine < 40 ∧ k < 16 ∧
      s.jobOf engine = some (k, j) ∧ jKind j.words = 9 ∧ (j.blocks.find? (fun x => x.eng == engine && !x.done) = some b) ∧ (∃ x,
      x ∈ j.blocks ∧ x.done = false ∧ (x.ent ≠ b.ent ∨ x.idx ≠ b.idx)) :=
  ⟨(st [cell3 [slot3 37], .setCjobs 14 (some ⟨[9 * 2 ^ 60 + 77, 2 ^ 52 + 100 * 2 ^ 36 + 8 * 2 ^ 22 + 2 * 2 ^ 18 + 2 ^ 16 + 0 * 2 ^ 10, 0x2000, 9 * 2 ^ 24 + 2, 0x4000, 2 ^ 58, 0, 0], false, 0x9000, [[3 * 2 ^ 55 + 17 * 2 ^ 39 + 2 ^ 34 + 2 ^ 32 + 2 * 2 ^ 28 + 2 ^ 22, 24 * 2 ^ 43 + 200 * 2 ^ 16, 5 * 2 ^ 12, 0x3000, 0x3800, 0, 0, 0]], [38], [100], [0], [⟨0, 0, 38, [], false, 0, 0, false, false, []⟩, ⟨0, 1, 38, [], false, 0, 0, false, false, []⟩], [3], [[1, 2, 3]], [(true, false)], false, false, 12⟩)]), 38, 14, ⟨[9 * 2 ^ 60 + 77, 2 ^ 52 + 100 * 2 ^ 36 + 8 * 2 ^ 22 + 2 * 2 ^ 18 + 2 ^ 16 + 0 * 2 ^ 10, 0x2000, 9 * 2 ^ 24 + 2, 0x4000, 2 ^ 58, 0, 0], false, 0x9000, [[3 * 2 ^ 55 + 17 * 2 ^ 39 + 2 ^ 34 + 2 ^ 32 + 2 * 2 ^ 28 + 2 ^ 22, 24 * 2 ^ 43 + 200 * 2 ^ 16, 5 * 2 ^ 12, 0x3000, 0x3800, 0, 0, 0]], [38], [100], [0], [⟨0, 0, 38, [], false, 0, 0, false, false, []⟩, ⟨0, 1, 38, [], false, 0, 0, false, false, []⟩], [3], [[1, 2, 3]], [(true, false)], false, false, 12⟩, ⟨0, 0, 38, [], false, 0, 0, false, false, []⟩, 3, (st_inv _), by decide +kernel, by decide +kernel, by decide +kernel, by decide +kernel, by decide +kernel, ⟨⟨0, 1, 38, [], false, 0, 0, false, false, []⟩, by decide +kernel⟩⟩

/-- The hypotheses of CodingResults are met together. -/
theorem witness_coding_results_4 :
    ∃ (s : State) (engine : Nat) (k : Nat) (j : CodeJob) (b : CodeBlk) (ce : Nat), s.Inv ∧ engine < 40 ∧ k < 16 ∧
      s.jobOf engine = some (k, j) ∧ jKind j.words = 8 ∧ j.radio = false ∧
      (j.blocks.find? (fun x => x.eng == engine && !x.done) = some b) ∧ (∃ x, x ∈ j.blocks ∧ x.done = false ∧
      (x.ent ≠ b.ent ∨ x.idx ≠ b.idx)) :=
  ⟨(st [cell3 [slot3 37], .setCjobs 13 (some ⟨[8 * 2 ^ 60 + 77, 2 ^ 52 + 100 * 2 ^ 36 + 8 * 2 ^ 22 + 2 * 2 ^ 18 + 2 ^ 16 + 0 * 2 ^ 10, 0x2000, 9 * 2 ^ 24 + 2, 0x4000, 2 ^ 58, 0, 0], false, 0x9000, [[3 * 2 ^ 55 + 17 * 2 ^ 39 + 2 ^ 34 + 2 ^ 32 + 2 * 2 ^ 28 + 2 ^ 22, 24 * 2 ^ 43 + 200 * 2 ^ 16, 5 * 2 ^ 12, 0x3000, 0x3800, 0, 0, 0]], [30], [100], [0], [⟨0, 0, 30, [], false, 0, 0, false, false, []⟩, ⟨0, 1, 30, [], false, 0, 0, false, false, []⟩], [3], [[1, 2, 3]], [(true, false)], false, false, 12⟩)]), 30, 13, ⟨[8 * 2 ^ 60 + 77, 2 ^ 52 + 100 * 2 ^ 36 + 8 * 2 ^ 22 + 2 * 2 ^ 18 + 2 ^ 16 + 0 * 2 ^ 10, 0x2000, 9 * 2 ^ 24 + 2, 0x4000, 2 ^ 58, 0, 0], false, 0x9000, [[3 * 2 ^ 55 + 17 * 2 ^ 39 + 2 ^ 34 + 2 ^ 32 + 2 * 2 ^ 28 + 2 ^ 22, 24 * 2 ^ 43 + 200 * 2 ^ 16, 5 * 2 ^ 12, 0x3000, 0x3800, 0, 0, 0]], [30], [100], [0], [⟨0, 0, 30, [], false, 0, 0, false, false, []⟩, ⟨0, 1, 30, [], false, 0, 0, false, false, []⟩], [3], [[1, 2, 3]], [(true, false)], false, false, 12⟩, ⟨0, 0, 30, [], false, 0, 0, false, false, []⟩, 0, (st_inv _), by decide +kernel, by decide +kernel, by decide +kernel, by decide +kernel, by decide +kernel, by decide +kernel, ⟨⟨0, 1, 30, [], false, 0, 0, false, false, []⟩, by decide +kernel⟩⟩

/-- The hypotheses of CodingResults are met together. -/
theorem witness_coding_results_5 :
    ∃ (s : State) (engine : Nat) (k : Nat) (j : CodeJob) (b : CodeBlk) (e : List Nat) (a : Nat) (ce : Nat), s.Inv ∧ engine < 40 ∧
      k < 16 ∧ s.jobOf engine = some (k, j) ∧ (jKind j.words = 8 ∨ jKind j.words = 9 ∧ pType e < 2) ∧ j.radio = false ∧ j.blocks = [b] ∧
      b.eng = engine ∧ b.done = false ∧ j.ents = [e] ∧ s.noErrors = true ∧ s.locate 0x100 rightW (cResBase j.words) 16 = some [(a, 16)] ∧
      s.dpaKind a = .kennel ∧ (jKind j.words = 8 → encodeChecks (j.ents.getD b.ent []) (j.inputs.getD b.ent []) b.idx = true) :=
  ⟨(st [cell3 [slot3 37], .setCjobs 14 (some ⟨[9 * 2 ^ 60 + 77, 2 ^ 52 + 100 * 2 ^ 36 + 8 * 2 ^ 22 + 2 * 2 ^ 18 + 2 ^ 16 + 0 * 2 ^ 10, 0x2000, 9 * 2 ^ 24 + 2, 0x4000, 2 ^ 58, 0, 0], false, 0x9000, [[0 * 2 ^ 60 + 12 * 2 ^ 49 + 108 * 2 ^ 35, 0, 0x3000, 0x3800]], [38], [100], [0], [⟨0, 0, 38, [], false, 0, 0, false, false, []⟩], [3], [[1, 2, 3]], [(true, false)], false, false, 12⟩)]), 38, 14, ⟨[9 * 2 ^ 60 + 77, 2 ^ 52 + 100 * 2 ^ 36 + 8 * 2 ^ 22 + 2 * 2 ^ 18 + 2 ^ 16 + 0 * 2 ^ 10, 0x2000, 9 * 2 ^ 24 + 2, 0x4000, 2 ^ 58, 0, 0], false, 0x9000, [[0 * 2 ^ 60 + 12 * 2 ^ 49 + 108 * 2 ^ 35, 0, 0x3000, 0x3800]], [38], [100], [0], [⟨0, 0, 38, [], false, 0, 0, false, false, []⟩], [3], [[1, 2, 3]], [(true, false)], false, false, 12⟩, ⟨0, 0, 38, [], false, 0, 0, false, false, []⟩, [0 * 2 ^ 60 + 12 * 2 ^ 49 + 108 * 2 ^ 35, 0, 0x3000, 0x3800], 0x4000, 2, (st_inv _), by decide +kernel, by decide +kernel, by decide +kernel, .inr (by decide +kernel), by decide +kernel, by decide +kernel, by decide +kernel, by decide +kernel, by decide +kernel, by decide +kernel, by decide +kernel, by decide +kernel, fun h => absurd h (by decide +kernel)⟩

/-- The hypotheses of CodingResults are met together. -/
theorem witness_coding_results_6 :
    ∃ (s : State) (cluster : Nat) (kind : Nat) (j : CodeJob) (a : Nat), s.Inv ∧ cluster < 4 ∧ 7 ≤ kind ∧ kind ≤ 9 ∧
      s.cjobsAt (4 * cluster + (kind - 7)) = some j ∧ j.writing = true ∧ j.radio = false ∧ s.noErrors = true ∧
      s.locate 0x100 rightW (j.stat + 32 * jStatSel j.words) 32 = some [(a, 32)] ∧ s.dpaKind a = .kennel ∧ cSigEn j.words = true :=
  ⟨(st [cell3 [slot3 37], .setCjobs 12 (some ⟨[7 * 2 ^ 60 + 77, 2 ^ 52 + 100 * 2 ^ 36 + 8 * 2 ^ 22 + 2 * 2 ^ 18 + 2 ^ 16 + 1 * 2 ^ 10, 0x2000, 9 * 2 ^ 24 + 2, 0x4000, 2 ^ 58, 0, 0], false, 0x9000, [[3 * 2 ^ 55 + 17 * 2 ^ 39 + 2 ^ 34 + 2 ^ 32 + 2 * 2 ^ 28 + 2 ^ 22, 24 * 2 ^ 43 + 200 * 2 ^ 16, 5 * 2 ^ 12, 0x3000, 0x3800, 0, 0, 0]], [18], [100], [0], [⟨0, 0, 18, [], true, 0, 0, false, false, []⟩], [3], [[1, 2, 3]], [(true, false)], false, true, 12⟩)]), 3, 7, ⟨[7 * 2 ^ 60 + 77, 2 ^ 52 + 100 * 2 ^ 36 + 8 * 2 ^ 22 + 2 * 2 ^ 18 + 2 ^ 16 + 1 * 2 ^ 10, 0x2000, 9 * 2 ^ 24 + 2, 0x4000, 2 ^ 58, 0, 0], false, 0x9000, [[3 * 2 ^ 55 + 17 * 2 ^ 39 + 2 ^ 34 + 2 ^ 32 + 2 * 2 ^ 28 + 2 ^ 22, 24 * 2 ^ 43 + 200 * 2 ^ 16, 5 * 2 ^ 12, 0x3000, 0x3800, 0, 0, 0]], [18], [100], [0], [⟨0, 0, 18, [], true, 0, 0, false, false, []⟩], [3], [[1, 2, 3]], [(true, false)], false, true, 12⟩, 0x9040, (st_inv _), by decide +kernel⟩

/-- The hypotheses of CodingResults are met together. -/
theorem witness_coding_results_7 :
    ∃ (s : State) (cluster : Nat) (kind : Nat) (j : CodeJob), s.Inv ∧ cluster < 4 ∧ 7 ≤ kind ∧ kind ≤ 9 ∧
      s.cjobsAt (4 * cluster + (kind - 7)) = some j ∧ j.writing = false ∧ j.radio = false ∧ (∀ e, e ∈ j.engines → e < 40) ∧ (∀ d,
      d ∈ j.cells → d < 512) :=
  ⟨(st [cell3 [slot3 37], .setCjobs 12 (some ⟨[7 * 2 ^ 60 + 77, 2 ^ 52 + 100 * 2 ^ 36 + 8 * 2 ^ 22 + 2 * 2 ^ 18 + 2 ^ 16 + 0 * 2 ^ 10, 0x2000, 9 * 2 ^ 24 + 2, 0x4000, 2 ^ 58, 0, 0], false, 0x9000, [[3 * 2 ^ 55 + 17 * 2 ^ 39 + 2 ^ 34 + 2 ^ 32 + 2 * 2 ^ 28 + 2 ^ 22, 24 * 2 ^ 43 + 200 * 2 ^ 16, 5 * 2 ^ 12, 0x3000, 0x3800, 0, 0, 0]], [18], [100], [0], [⟨0, 0, 18, [], false, 0, 0, false, false, []⟩, ⟨0, 1, 18, [], false, 0, 0, false, false, []⟩], [3], [[1, 2, 3]], [(true, false)], false, false, 12⟩)]), 3, 7, ⟨[7 * 2 ^ 60 + 77, 2 ^ 52 + 100 * 2 ^ 36 + 8 * 2 ^ 22 + 2 * 2 ^ 18 + 2 ^ 16 + 0 * 2 ^ 10, 0x2000, 9 * 2 ^ 24 + 2, 0x4000, 2 ^ 58, 0, 0], false, 0x9000, [[3 * 2 ^ 55 + 17 * 2 ^ 39 + 2 ^ 34 + 2 ^ 32 + 2 * 2 ^ 28 + 2 ^ 22, 24 * 2 ^ 43 + 200 * 2 ^ 16, 5 * 2 ^ 12, 0x3000, 0x3800, 0, 0, 0]], [18], [100], [0], [⟨0, 0, 18, [], false, 0, 0, false, false, []⟩, ⟨0, 1, 18, [], false, 0, 0, false, false, []⟩], [3], [[1, 2, 3]], [(true, false)], false, false, 12⟩, (st_inv _), by decide +kernel⟩

/-- The hypotheses of CodingResults are met together. -/
theorem witness_coding_results_8 :
    ∃ (s : State) (cluster : Nat) (kind : Nat) (j : CodeJob) (cell : Nat), s.Inv ∧ cluster < 4 ∧ 7 ≤ kind ∧ kind ≤ 9 ∧
      s.cjobsAt (4 * cluster + (kind - 7)) = some j ∧ j.writing = false ∧ j.radio = true ∧ j.cells = [cell] ∧ cell < 512 ∧
      (s.cellsAt cell).applied = true :=
  ⟨(st [cell3 [slot3 37], .setCjobs 12 (some ⟨[7 * 2 ^ 60 + 77, 2 ^ 52 + 100 * 2 ^ 36 + 8 * 2 ^ 22 + 2 * 2 ^ 18 + 2 ^ 16 + 0 * 2 ^ 10, 0x2000, 9 * 2 ^ 24 + 2, 0x4000, 2 ^ 58, 0, 0], true, 0x9000, [[3 * 2 ^ 55 + 17 * 2 ^ 39 + 2 ^ 34 + 2 ^ 32 + 2 * 2 ^ 28 + 2 ^ 22, 24 * 2 ^ 43 + 200 * 2 ^ 16, 5 * 2 ^ 12, 0x3000, 0x3800, 0, 0, 0]], [18], [100], [0], [⟨0, 0, 18, [], false, 0, 0, false, false, []⟩, ⟨0, 1, 18, [], false, 0, 0, false, false, []⟩], [3], [[1, 2, 3]], [(true, false)], false, false, 12⟩)]), 3, 7, ⟨[7 * 2 ^ 60 + 77, 2 ^ 52 + 100 * 2 ^ 36 + 8 * 2 ^ 22 + 2 * 2 ^ 18 + 2 ^ 16 + 0 * 2 ^ 10, 0x2000, 9 * 2 ^ 24 + 2, 0x4000, 2 ^ 58, 0, 0], true, 0x9000, [[3 * 2 ^ 55 + 17 * 2 ^ 39 + 2 ^ 34 + 2 ^ 32 + 2 * 2 ^ 28 + 2 ^ 22, 24 * 2 ^ 43 + 200 * 2 ^ 16, 5 * 2 ^ 12, 0x3000, 0x3800, 0, 0, 0]], [18], [100], [0], [⟨0, 0, 18, [], false, 0, 0, false, false, []⟩, ⟨0, 1, 18, [], false, 0, 0, false, false, []⟩], [3], [[1, 2, 3]], [(true, false)], false, false, 12⟩, 3, (st_inv _), by decide +kernel⟩

/-- The hypotheses of CodingResults are met together. -/
theorem witness_coding_results_9 :
    ∃ (s : State) (engine : Nat), s.Inv :=
  ⟨State.reset, 18, reset_inv⟩

/-- The hypotheses of CodingResults are met together. -/
theorem witness_coding_results_10 :
    ∃ (s : State) (engine : Nat), s.Inv ∧ engine < 40 ∧ s.flag (R.codeEngStat engine) F.codeEngStat_SUSPECT = true :=
  ⟨(st [.setF (R.codeEngStat 18) F.codeEngStat_SUSPECT 1]), 18, (st_inv _), by decide +kernel⟩

/-- The hypotheses of CodingResults are met together. -/
theorem witness_coding_results_11 :
    ∃ (s : State) (d : Nat), s.Inv ∧ d < 8 ∧ s.detsAt d = true :=
  ⟨(st [.setDets 7 true]), 7, (st_inv _), by decide +kernel⟩

/-- The hypotheses of CodingResults are met together. -/
theorem witness_coding_results_12 :
    ∃ (s : State) (cell : Nat) (rnti : Nat) (h : Nat) (x : CellSt), s.Inv ∧ s.cellsAt cell = x ∧
      ((x.hq.any fun e => e.rnti == rnti && e.hid == h) = true) ∧ x.hqUsed ≤ s.fld R.codeStat F.codeStat_HQ_USED :=
  ⟨(st [.setF R.timeStat F.timeStat_FORM 1, cell3 [slot3 37], .modCells 3 fun x => { x with hq := [⟨17, 1, 0, 0, [[1], [2]], 0⟩, ⟨18, 1, 0, 0, [[1]], 0⟩] }, .setF R.codeStat F.codeStat_HQ_USED 3]), 3, 17, 1, ((st [.setF R.timeStat F.timeStat_FORM 1, cell3 [slot3 37], .modCells 3 fun x => { x with hq := [⟨17, 1, 0, 0, [[1], [2]], 0⟩, ⟨18, 1, 0, 0, [[1]], 0⟩] }, .setF R.codeStat F.codeStat_HQ_USED 3]).cellsAt 3), (st_inv _), by decide +kernel⟩

/-- The hypotheses of RandomAccess are met together. -/
theorem witness_random_access :
    (∃ (s : State) (cell : Nat) (cfg : Nat) (esn : Nat) (sym : Nat) (raIdx : Nat) (det : Nat) (x : CellSt) (checkFail : Bool), s.Inv ∧
      cell < 512 ∧ (s.cellsAt (512 + cell)).stopAfter = none ∧ s.cellsAt cell = x ∧ x.applied = true ∧ x.raRuns esn = true ∧ cfg < 2 ∧
      x.raOn cfg = true ∧ x.raReset esn = true) ∧
    (∃ (s : State) (cell : Nat) (cfg : Nat) (esn : Nat) (sym : Nat) (raIdx : Nat) (det : Nat) (x : CellSt) (checkFail : Bool), s.Inv ∧
      cell < 512 ∧ (s.cellsAt (512 + cell)).stopAfter = none ∧ s.cellsAt cell = x ∧ x.applied = true ∧ x.raRuns esn = true ∧ cfg < 2 ∧
      x.raOn cfg = true ∧ x.raReset esn = false ∧ x.raLanded cfg esn sym = false ∧
      (x.raStop.isSome = true ∨ s.heldFor (muOf (recScs x.rcd)) esn = true)) ∧
    (∃ (s : State) (cell : Nat) (cfg : Nat) (esn : Nat) (sym : Nat) (raIdx : Nat) (det : Nat) (x : CellSt) (checkFail : Bool), s.Inv ∧
      cell < 512 ∧ (s.cellsAt (512 + cell)).stopAfter = none ∧ s.cellsAt cell = x ∧ x.applied = true ∧ x.raRuns esn = true ∧ cfg < 2 ∧
      x.raOn cfg = true ∧ x.raReset esn = false ∧ x.raLanded cfg esn sym = false ∧ x.raStop = none ∧
      s.heldFor (muOf (recScs x.rcd)) esn = false) ∧
    (∃ (s : State) (cell : Nat) (cfg : Nat) (esn : Nat) (sym : Nat) (raIdx : Nat) (det : Nat) (x : CellSt) (checkFail : Bool), s.Inv ∧
      cell < 512 ∧ (s.cellsAt (512 + cell)).stopAfter = none ∧ s.cellsAt cell = x ∧ x.applied = true ∧ x.raRuns esn = true ∧ cfg < 2 ∧
      x.raOn cfg = true ∧ x.raReset esn = false ∧ x.raLanded cfg esn sym = true ∧ s.raDetector x det = none) ∧
    (∃ (s : State) (cell : Nat) (cfg : Nat) (esn : Nat) (sym : Nat) (raIdx : Nat) (det : Nat) (x : CellSt) (d : Nat), s.Inv ∧
      cell < 512 ∧ (s.cellsAt (512 + cell)).stopAfter = none ∧ s.cellsAt cell = x ∧ x.applied = true ∧ x.raRuns esn = true ∧ cfg < 2 ∧
      x.raOn cfg = true ∧ x.raReset esn = false ∧ x.raLanded cfg esn sym = true ∧ s.raDetector x det = some d) ∧
    (∃ (s : State) (cell : Nat) (cfg : Nat) (esn : Nat) (sym : Nat) (raIdx : Nat) (det : Nat) (x : CellSt) (f : RaFound) (out : List
      RaDet), s.Inv ∧ cell < 512 ∧ (s.cellsAt (512 + cell)).stopAfter = none ∧ s.cellsAt cell = x ∧ x.applied = true ∧
      x.raRuns esn = true ∧ cfg < 2 ∧ x.raOn cfg = true ∧ x.raReset esn = false ∧ x.raLanded cfg esn sym = true ∧
      (s.raDetector x det).isSome = true ∧ s.noErrors = true ∧
      (f = raSearch x cfg (x.raFmtOf cfg esn sym) ((List.range (recUl x.rcd)).map fun k => (x.raPlaces k cfg esn sym raIdx).map s.lineAt))
      ∧ (out = if F.raCellCfg_MSGA.get (x.reg (1 + cfg)) = 1 then raSelect (F.raCellCfg_MSGA_MAX.get (x.reg (1 + cfg))) x.raH f.dets else
      f.dets.map (·.1))) ∧
    (∃ (s : State) (cell : Nat) (cfg : Nat) (esn : Nat) (sym : Nat) (raIdx : Nat) (det : Nat) (x : CellSt) (fmt : Nat) (thr : Nat) (n :
      Nat) (lines : List (List LineSt)) (used : List (List LineSt)) (pdps : List (List Nat)) (wins : List (List (RaDet × Nat) × Bool)),
      s.Inv ∧ cell < 512 ∧ (s.cellsAt (512 + cell)).stopAfter = none ∧ s.cellsAt cell = x ∧ x.applied = true ∧ x.raRuns esn = true ∧
      cfg < 2 ∧ x.raOn cfg = true ∧ x.raReset esn = false ∧ x.raLanded cfg esn sym = true ∧ (s.raDetector x det).isSome = true ∧
      s.noErrors = true ∧ F.raCellCfg_MSGA.get (x.reg (1 + cfg)) = 0 ∧ fmt = x.raFmtOf cfg esn sym ∧
      (thr = if F.raCellCfg_THR.get (x.reg (1 + cfg)) = 0 then raThrDefault fmt (recUl x.rcd) else F.raCellCfg_THR.get (x.reg (1 + cfg)))
      ∧ (lines = (List.range (recUl x.rcd)).map fun k => (x.raPlaces k cfg esn sym raIdx).map s.lineAt) ∧
      (used = lines.filter fun l => l.all fun e => e.flags % 2 == 0) ∧
      (pdps = if used.isEmpty then [] else (List.range (F.raCellCfg_NPRE.get (x.reg (1 + cfg)))).map fun p => raPdp (x.reg (1 +
      cfg)).toNat fmt p used) ∧ n = medianOf pdps.flatten ∧ (wins = pdps.zipIdx.map fun (p,
      i) => raWindow (recScs x.rcd) fmt n thr i (if lines.any fun l => l.any fun e => bit e.flags 1 then 16 else 0) p)) ∧
    (∃ (s : State) (cell : Nat) (handle : Nat) (esn : Nat) (x : CellSt) (preamble : Nat) (delay : Nat) (pass : Bool) (data : List Byte),
      s.Inv ∧ cell < 512 ∧ (s.cellsAt (512 + cell)).stopAfter = none ∧ s.cellsAt cell = x ∧ x.applied = true ∧
      x.raTry.find? (·.1 == handle) = some (handle, preamble, delay) ∧ s.noErrors = true ∧
      (Config.msgaDecode cell [handle, esn, (x.reg 3).toNat, preamble, delay] ((x.msgaPlaces esn).map fun a => (s.lineAt a).re) = (pass,
      data))) :=
  ⟨⟨(st [.setF R.timeStat F.timeStat_FORM 1, cell3 [slot3 37], .modCells 3 fun x => { x with raCut := some 38 }]), 3, 1, 37, 2, 0, 0, ((st [.setF R.timeStat F.timeStat_FORM 1, cell3 [slot3 37], .modCells 3 fun x => { x with raCut := some 38 }]).cellsAt 3), false, (st_inv _), by decide, by decide +kernel, rfl, by decide +kernel, by decide +kernel, by decide +kernel, by decide +kernel, by decide +kernel⟩,
   ⟨(st [cell3 [slot3 37]]), 3, 1, 37, 2, 0, 0, ((st [cell3 [slot3 37]]).cellsAt 3), false, (st_inv _), by decide, by decide +kernel, rfl, by decide +kernel, by decide +kernel, by decide +kernel, by decide +kernel, by decide +kernel, raLanded_none (by decide +kernel) (by decide +kernel) (by decide +kernel) (by decide +kernel), .inr (by decide +kernel)⟩,
   ⟨(st [.setF R.timeStat F.timeStat_FORM 1, cell3 [slot3 37]]), 3, 1, 37, 2, 0, 0, ((st [.setF R.timeStat F.timeStat_FORM 1, cell3 [slot3 37]]).cellsAt 3), false, (st_inv _), by decide, by decide +kernel, rfl, by decide +kernel, by decide +kernel, by decide +kernel, by decide +kernel, by decide +kernel, raLanded_none (by decide +kernel) (by decide +kernel) (by decide +kernel) (by decide +kernel), by decide +kernel, by decide +kernel⟩,
   ⟨(st [.setF R.timeStat F.timeStat_FORM 1, cell3 [slot3 37], .modStream 3 0 fun u => { u with landed := (List.range 14).map fun y => (37, 16 + y) }, .setDets 0 true, .setDets 1 true]), 3, 1, 37, 2, 0, 0, ((st [.setF R.timeStat F.timeStat_FORM 1, cell3 [slot3 37], .modStream 3 0 fun u => { u with landed := (List.range 14).map fun y => (37, 16 + y) }, .setDets 0 true, .setDets 1 true]).cellsAt 3), false, (st_inv _), by decide, by decide +kernel, rfl, by decide +kernel, by decide +kernel, by decide +kernel, by decide +kernel, by decide +kernel, raLanded_all (by decide +kernel) (by decide +kernel), by decide +kernel⟩,
   ⟨(st [.setF R.timeStat F.timeStat_FORM 1, cell3 [slot3 37], .modStream 3 0 fun u => { u with landed := (List.range 14).map fun y => (37, 16 + y) }]), 3, 1, 37, 2, 0, 1, ((st [.setF R.timeStat F.timeStat_FORM 1, cell3 [slot3 37], .modStream 3 0 fun u => { u with landed := (List.range 14).map fun y => (37, 16 + y) }]).cellsAt 3), 1, (st_inv _), by decide, by decide +kernel, rfl, by decide +kernel, by decide +kernel, by decide +kernel, by decide +kernel, by decide +kernel, raLanded_all (by decide +kernel) (by decide +kernel), by decide +kernel⟩,
   ⟨(st [.setF R.timeStat F.timeStat_FORM 1, cell3 [slot3 37], .modStream 3 0 fun u => { u with landed := (List.range 14).map fun y => (37, 16 + y) }]), 3, 1, 37, 2, 0, 0, ((st [.setF R.timeStat F.timeStat_FORM 1, cell3 [slot3 37], .modStream 3 0 fun u => { u with landed := (List.range 14).map fun y => (37, 16 + y) }]).cellsAt 3), _, _, (st_inv _), by decide, by decide +kernel, rfl, by decide +kernel, by decide +kernel, by decide +kernel, by decide +kernel, by decide +kernel, raLanded_all (by decide +kernel) (by decide +kernel), by decide +kernel, by decide +kernel, rfl, rfl⟩,
   ⟨(st [.setF R.timeStat F.timeStat_FORM 1, cell3 [slot3 37], .modStream 3 0 fun u => { u with landed := (List.range 14).map fun y => (37, 16 + y) }]), 3, 1, 37, 2, 0, 0, ((st [.setF R.timeStat F.timeStat_FORM 1, cell3 [slot3 37], .modStream 3 0 fun u => { u with landed := (List.range 14).map fun y => (37, 16 + y) }]).cellsAt 3), _, _, _, _, _, _, _, (st_inv _), by decide, by decide +kernel, rfl, by decide +kernel, by decide +kernel, by decide +kernel, by decide +kernel, by decide +kernel, raLanded_all (by decide +kernel) (by decide +kernel), by decide +kernel, by decide +kernel, by decide +kernel, rfl, rfl, rfl, rfl, rfl, rfl, rfl⟩,
   ⟨(st [cell3 [slot3 37], .modCells 3 fun x => { x with raTry := [(7, 4, 8)], ra := [⟨0, 37, 2, 0, 37, 0, 0, 1, [⟨4, 0, 0, 2, 8, 0, 9, 1, 7⟩]⟩] }]), 3, 7, 37, ((st [cell3 [slot3 37], .modCells 3 fun x => { x with raTry := [(7, 4, 8)], ra := [⟨0, 37, 2, 0, 37, 0, 0, 1, [⟨4, 0, 0, 2, 8, 0, 9, 1, 7⟩]⟩] }]).cellsAt 3), 4, 8, _, _, (st_inv _), by decide, by decide +kernel, rfl, by decide +kernel, by decide +kernel, by decide +kernel, rfl⟩⟩

/-- The hypotheses of LastPeriods are met together. -/
theorem witness_last_periods :
    (∃ (s : State) (measW : Nat) (n : Nat), s.Inv ∧ n = s.fld R.lastPeriod F.lastPeriod_PERIODS + 1 ∧
      s.flag R.lastStat F.lastStat_SWAP_PEND = false ∧ s.last.nextCap = none ∧ s.last.nextTherm = none) ∧
    (∃ (s : State) (measW : Nat) (c : Nat), s.Inv ∧ s.flag R.lastStat F.lastStat_SWAP_PEND = false ∧ s.last.nextCap = some c ∧
      s.last.nextTherm = none ∧ c < 65536) ∧
    (∃ (s : State) (measW : Nat), s.Inv ∧ s.flag R.lastStat F.lastStat_SWAP_PEND = true ∧
      s.fld R.lastSwap F.lastSwap_AT = s.fld R.lastPeriod F.lastPeriod_PERIODS + 1 ∧ s.radio.pend = none ∧ s.last.nextTherm = none) ∧
    (∃ (s : State) (n : Nat), s.Inv ∧ n < 2000 ∧ s.fld R.lastPwr2 F.lastPwr2_THERM_PCT = 100 ∧ s.flag R.pwrStat F.pwrStat_PEAK = false ∧
      s.radio.resume = none) ∧
    (∃ (s : State) (n : Nat), s.Inv ∧ 2000 ≤ n ∧ s.flag R.lastStat F.lastStat_LONG = false ∧
      s.fld R.lastPwr2 F.lastPwr2_THERM_PCT = 100 ∧ s.radio.resume = none) ∧
    (∃ (s : State) (n : Nat), s.Inv ∧ n < 2000 ∧ s.flag R.pwrStat F.pwrStat_PEAK = true) ∧
    (∃ (s : State) (n : Nat) (r : Nat), s.Inv ∧ n < 2000 ∧ s.radio.resume = some r ∧ s.onSn = true ∧ later r s.readingNs = false) ∧
    (∃ (s : State) (core : Nat) (arr : Nat), s.Inv ∧ s.last.rebuild.contains (4 * core + arr) = true ∧
      s.flag R.lastStat F.lastStat_SWAP_PEND = false) :=
  ⟨⟨(st [.modClk fun c => { c with cyc := 4000 }]), 300, 1, (st_inv _), by decide +kernel⟩,
   ⟨(st [.modLast fun l => { l with nextCap := some 900 }]), 300, 900, (st_inv _), by decide +kernel⟩,
   ⟨(st [.setF R.lastStat F.lastStat_SWAP_PEND 1, .setF R.lastSwap F.lastSwap_AT 1, .modLast fun l => { l with shadow := ⟨[(7, ⟨1, 0, 0, 0, 0⟩)], []⟩ }]), 300, (st_inv _), by decide +kernel⟩,
   ⟨(st [.setF R.lastPwr2 F.lastPwr2_THERM_PCT 100, .setF R.lastPwr2 F.lastPwr2_CORR_PCT 90, .setF R.lastPwr F.lastPwr_SHARE_W 200]), 1999, (st_inv _), by decide +kernel⟩,
   ⟨(st [.setF R.lastPwr2 F.lastPwr2_THERM_PCT 100]), 2000, (st_inv _), by decide +kernel⟩,
   ⟨(st [.setF R.pwrStat F.pwrStat_PEAK 1]), 5, (st_inv _), by decide +kernel⟩,
   ⟨(st [.setF R.timeStat F.timeStat_STATE 2, .setF R.timeStat F.timeStat_FORM 1, .setF R.radioStat F.radioStat_HELD 1, .modRadio fun r => { r with resume := some 0 }]), 5, 0, (st_inv _), by decide +kernel⟩,
   ⟨(st [.modLast fun l => { l with rebuild := [4], active := ⟨[(7, ⟨16, 0, 0, 0, 0⟩)], []⟩ }]), 1, 0, (st_inv _), by decide +kernel⟩⟩

/-- The hypotheses of PulseAndSsmForms are met together. -/
theorem witness_pulse_and_ssm_forms :
    (∃ (s : State) (stamp : Int) (k : Nat), s.Inv ∧ s.time.ppsAt = some k ∧ k + 249987500 ≤ s.tick ∧ s.tick ≤ k + 250012500 ∧
      s.time.ppsRun = 0 ∧ s.fld R.timeCfg F.timeCfg_SRC ≠ 1) ∧
    (∃ (s : State) (stamp : Int) (k : Nat), s.Inv ∧ s.time.ppsAt = some k ∧ (s.tick < k + 249987500 ∨ k + 250012500 < s.tick) ∧
      s.flag R.timePps F.timePps_IN_QUAL = true ∧ s.time.ppsBad < 2) ∧
    (∃ (s : State), s.Inv ∧ s.flag R.timePps F.timePps_IN_QUAL = false) ∧
    (∃ (s : State), s.Inv ∧ s.onSn = true ∧ (s.snNow + (s.fld R.timePps F.timePps_OUT_DLY : Int) * 2 ^ 40) % (10 ^ 9 * 2 ^ 40) = 0 ∧
      s.time.ppsUp = none) ∧
    (∃ (s : State), s.Inv ∧ s.slavePort ∈ s.esmcPorts) ∧
    (∃ (s : State) (port : Nat), s.Inv ∧ port ∉ s.time.qlOwed ∧ s.fld R.timeFreq F.timeFreq_QL_TX = s.qlTx) ∧
    (∃ (s : State) (ql : Nat), s.Inv ∧ ql < 16 ∧ s.slaveFit s.slavePort = true) ∧
    (∃ (s : State), s.Inv) :=
  ⟨⟨(st [.modTime fun t => { t with ppsAt := some 0, ppsSec := some 9 }, .setClk ⟨2000099992, 0, 0⟩]), 70000, 0, (st_inv _), by decide +kernel⟩,
   ⟨(st [.modTime fun t => { t with ppsAt := some 0, ppsRun := 3 }, .setF R.timePps F.timePps_IN_QUAL 1]), 70000, 0, (st_inv _), by decide +kernel, .inl (by decide +kernel), by decide +kernel, by decide +kernel⟩,
   ⟨(st [.modTime fun t => { t with ppsAt := some 3, ppsRun := 2 }]), (st_inv _), by decide +kernel⟩,
   ⟨(st [.setF R.timeStat F.timeStat_FORM 1, .setF R.timePps F.timePps_OUT_DLY 7, .modTime fun t => { t with sn := (10 ^ 9 - 7) * 2 ^ 40 }]), (st_inv _), by decide +kernel⟩,
   ⟨(st [.setF (R.fhPortCfg 0) F.fhPortCfg_USE 2]), (st_inv _), by decide +kernel⟩,
   ⟨(st [.setF R.timeFreq F.timeFreq_QL_TX 15, .setF R.timeStat F.timeStat_STATE 4]), 3, (st_inv _), by decide +kernel⟩,
   ⟨(st [.setF (R.fhPortCfg 0) F.fhPortCfg_USE 2, .modTime fun t => { t with syncePres := true }]), 4, (st_inv _), by decide +kernel⟩,
   ⟨(st [.setF R.timeFreq F.timeFreq_REF10_QUAL 1]), (st_inv _)⟩⟩

/-- The hypotheses of ReferenceAndTimeRegisterForms are met together. -/
theorem witness_reference_and_time_register_forms :
    (∃ (s : State) (a : Bool) (b : Bool) (q : Bool), s.Inv ∧ q = (a && s.fld R.timeFreq F.timeFreq_QL_RX != 0xF)) ∧
    (∃ (s : State) (val : Word) (prof : Nat), s.Inv ∧ s.flag R.gwLock F.gwLock_TIME = false ∧
      (prof = if F.timeCfg_PROFILE.get val < 2 then F.timeCfg_PROFILE.get val else s.fld R.timeCfg F.timeCfg_PROFILE) ∧
      ((if prof = 0 then 24 ≤ F.timeCfg_DOMAIN.get val ∧ F.timeCfg_DOMAIN.get val ≤ 43 else 44 ≤ F.timeCfg_DOMAIN.get val ∧
      F.timeCfg_DOMAIN.get val ≤ 63))) ∧
    (∃ (s : State) (val : Word) (prof : Nat), s.Inv ∧
      (prof = if F.timeCfg_PROFILE.get val < 2 then F.timeCfg_PROFILE.get val else s.fld R.timeCfg F.timeCfg_PROFILE) ∧
      (¬(if prof = 0 then 24 ≤ F.timeCfg_DOMAIN.get val ∧ F.timeCfg_DOMAIN.get val ≤ 43 else 44 ≤ F.timeCfg_DOMAIN.get val ∧
      F.timeCfg_DOMAIN.get val ≤ 63))) ∧
    (∃ (s : State) (val : Word) (u : State), s.Inv ∧ F.timeLatch_CAPTURE.get val = 1 ∧ u = Act.timeStep.run s) ∧
    (∃ (s : State) (val : Word), s.Inv ∧ F.timeLatch_CAPTURE.get val = 0) :=
  ⟨⟨(st [.setF R.timeFreq F.timeFreq_QL_RX 4]), true, true, true, (st_inv _), by decide +kernel⟩,
   ⟨State.reset, F.timeCfg_PROFILE.put (F.timeCfg_DOMAIN.put (F.timeCfg_SRC.put (F.timeCfg_SLV_PORT.put 0 47) 3) 63) 1, 1, reset_inv, by decide +kernel⟩,
   ⟨State.reset, F.timeCfg_DOMAIN.put 0 44, 0, reset_inv, by decide +kernel⟩,
   ⟨(st [.setF R.timeStat F.timeStat_STATE 1, .modTime fun t => { t with wantStep := true, off := 5000000007 * 2 ^ 40 }, .setClk ⟨80, 0, 0⟩]), F.timeLatch_CAPTURE.put 0 1, Act.timeStep.run (st [.setF R.timeStat F.timeStat_STATE 1, .modTime fun t => { t with wantStep := true, off := 5000000007 * 2 ^ 40 }, .setClk ⟨80, 0, 0⟩]), (st_inv _), by decide +kernel, rfl⟩,
   ⟨State.reset, 0, reset_inv, by decide +kernel⟩⟩


end Sys2Proof.Tests
end

/-! The accesses of the registers (R4-R9, R29, R30): what the tables of registers say of every block, what a word written field by field holds,
which action the commands of an access take, and what they leave; then the statements about them. -/

namespace Sys2Proof.Machine

/-! ### The tables of registers (R4, R8) -/

/-- The pages of the register maps; an address on no page has the empty one. -/
def regPages : List (List RegBlock) :=
  [[], regPage300, regPage301, regPage302, regPage304, regPage305, regPage306, regPage307, regPage308, regPage309, regPage30a, regPage30b,
    regPage30c, regPage30d, regPage30e, regPage30f, regPage310, regPage311, regPage312, regPage1000000]

/-- Every block of the register maps. -/
def regBlocks : List RegBlock := regPages.flatten

theorem regPage_mem (a : Nat) : regPage a ∈ regPages := by
  unfold regPage
  simp only [regPages, List.mem_cons]
  split
  case h_19 => split <;> simp only [true_or, or_true]
  all_goals simp only [true_or, or_true]

theorem regDesc_mem {a : Nat} {d : RegBlock} (h : regDesc a = some d) : d ∈ regBlocks :=
  List.mem_flatten_of_mem (regPage_mem a) (List.mem_of_find?_eq_some h)

theorem regDesc_hit {a : Nat} {d : RegBlock} (h : regDesc a = some d) : d.hit a = true :=
  List.find?_some (p := fun b => RegBlock.hit b a) h

/-- No two fields of a register share a bit. -/
theorem regBlocks_apart : ∀ d ∈ regBlocks, d.flds.Pairwise fun f g => f.apart g = true := by decide +kernel

theorem regBlocks_fits : ∀ d ∈ regBlocks, ∀ f ∈ d.flds, f.fits = true := by decide +kernel

theorem regBlocks_rst_le : ∀ d ∈ regBlocks, ∀ f ∈ d.flds, f.rst ≤ f.max := by decide +kernel

/-- A register holds the bits of its fields. -/
theorem regBlocks_mask_field : ∀ d ∈ regBlocks, ∀ f ∈ d.flds, f.acc ≠ .wo →
    BitVec.ofNat 64 f.mask &&& BitVec.ofNat 64 d.mask = BitVec.ofNat 64 f.mask := by decide +kernel

/-- A register holds no bit of a write-only field. -/
theorem regBlocks_mask_wo : ∀ d ∈ regBlocks, ∀ f ∈ d.flds, f.acc = .wo →
    BitVec.ofNat 64 f.mask &&& BitVec.ofNat 64 d.mask = 0 := by decide +kernel

theorem regBlocks_rst_mask : ∀ d ∈ regBlocks, BitVec.ofNat 64 d.rst &&& ~~~ BitVec.ofNat 64 d.mask = 0 := by decide +kernel

theorem regMask_of_regDesc {a : Nat} {d : RegBlock} (h : regDesc a = some d) : regMask a = BitVec.ofNat 64 d.mask := by
  unfold regMask
  rw [h]

theorem Field.within_of_regDesc {a : Nat} {d : RegBlock} {f : Field} (h : regDesc a = some d) (hf : f ∈ d.flds) (hw : f.acc ≠ .wo) :
    f.within a = true := by
  unfold Field.within
  rw [regMask_of_regDesc h, regBlocks_mask_field d (regDesc_mem h) f hf hw, regBlocks_fits d (regDesc_mem h) f hf]
  simp

theorem Field.apart_symm {f g : Field} (h : f.apart g = true) : g.apart f = true := by
  simp only [Field.apart, decide_eq_true_eq] at h ⊢
  exact h.symm

/-- Two fields of a list whose fields are apart in turn are apart in either order. -/
theorem Field.apart_of_pairwise {f g : Field} (hne : f ≠ g) :
    ∀ {l : List Field}, l.Pairwise (fun x y => x.apart y = true) → f ∈ l → g ∈ l → f.apart g = true := by
  intro l
  induction l with
  | nil => intro _ hf _; cases hf
  | cons x r ih =>
    intro hp hf hg
    obtain ⟨hx, hr⟩ := List.pairwise_cons.mp hp
    rcases List.mem_cons.mp hf with ef | hf'
    · rcases List.mem_cons.mp hg with eg | hg'
      · exact absurd (ef.trans eg.symm) hne
      · exact ef ▸ hx g hg'
    · rcases List.mem_cons.mp hg with eg | hg'
      · exact eg ▸ Field.apart_symm (hx f hf')
      · exact ih hr hf' hg'

theorem Field.apart_of_acc_ne {a : Nat} {d : RegBlock} {f g : Field} (h : regDesc a = some d) (hf : f ∈ d.flds) (hg : g ∈ d.flds)
    (hne : f.acc ≠ g.acc) : f.apart g = true :=
  Field.apart_of_pairwise (fun e => hne (e ▸ rfl)) (regBlocks_apart d (regDesc_mem h)) hf hg

/-! ### Words updated field by field -/

/-- An update of one field of a word: a field apart from it keeps its value. -/
def FieldUpdate (g : Word → Field → Word) : Prop :=
  ∀ (w : Word) (x f : Field), f.fits = true → x.apart f = true → f.get (g w x) = f.get w

theorem FieldUpdate.of_put {g : Word → Field → Word} (h : ∀ w x, g w x = w ∨ ∃ v, g w x = x.put w v) : FieldUpdate g := by
  intro w x f hf ha
  rcases h w x with e | ⟨v, e⟩
  · rw [e]
  · rw [e, Field.get_put_apart x f hf ha]

/-- A field put under a condition is put or left. -/
theorem Field.put_or_keep (x : Field) (w : Word) (n : Nat) (c : Prop) [Decidable c] :
    (if c then x.put w n else w) = w ∨ ∃ v, (if c then x.put w n else w) = x.put w v := by
  by_cases h : c
  · rw [if_pos h]
    exact .inr ⟨n, rfl⟩
  · rw [if_neg h]
    exact .inl rfl

theorem FieldUpdate.foldl_apart {g : Word → Field → Word} (hg : FieldUpdate g) {f : Field} (hf : f.fits = true) :
    ∀ {l : List Field} (w : Word), (∀ x ∈ l, x.apart f = true) → f.get (l.foldl g w) = f.get w := by
  intro l
  induction l with
  | nil => intro w _; rfl
  | cons x r ih =>
    intro w h
    rw [List.foldl_cons, ih _ fun y hy => h y (.tail _ hy), hg w x f hf (h x (.head _))]

/-- Of the updates in turn only that of the field itself counts. -/
theorem FieldUpdate.foldl_mem {g : Word → Field → Word} (hg : FieldUpdate g) {f : Field} (hf : f.fits = true) :
    ∀ {l : List Field} (w : Word), l.Pairwise (fun x y => x.apart y = true) → f ∈ l →
      ∃ u, f.get u = f.get w ∧ f.get (l.foldl g w) = f.get (g u f) := by
  intro l
  induction l with
  | nil => intro w _ h; cases h
  | cons x r ih =>
    intro w hp hm
    obtain ⟨hx, hr⟩ := List.pairwise_cons.mp hp
    rw [List.foldl_cons]
    rcases List.mem_cons.mp hm with rfl | hm
    · exact ⟨w, rfl, hg.foldl_apart hf _ fun y hy => Field.apart_symm (hx y hy)⟩
    · obtain ⟨u, hu, e⟩ := ih (g w x) hr hm
      exact ⟨u, hu.trans (hg w x f hf (hx f hm)), e⟩

theorem Field.and_lt (f : Field) (w : Word) (n : Nat) : f.get w &&& n < 2 ^ (f.hi + 1 - f.lo) :=
  Nat.lt_of_le_of_lt Nat.and_le_left (f.get_lt w)

/-- The written ones of a W1C field that no set of the hardware meets (R5). -/
theorem get_untied {a : Nat} {d : RegBlock} {f : Field} (hd : regDesc a = some d) (hf : f ∈ d.flds) (v tied : Word) :
    f.get (untied a v tied) = if f.acc = .w1c then f.get v &&& (f.max ^^^ f.get tied) else f.get v := by
  have hfit := regBlocks_fits d (regDesc_mem hd) f hf
  unfold untied
  rw [hd]
  obtain ⟨u, hu, e⟩ := FieldUpdate.foldl_mem
    (g := fun w f => if f.acc == .w1c then f.put w (f.get v &&& (f.max ^^^ f.get tied)) else w)
    (.of_put fun w x => x.put_or_keep w _ _) hfit v (regBlocks_apart d (regDesc_mem hd)) hf
  refine e.trans ?_
  by_cases h : f.acc = .w1c
  · simp only [h, beq_self_eq_true, if_true]
    rw [Field.get_put f hfit, Nat.mod_eq_of_lt (f.and_lt v _)]
  · simp only [beq_iff_eq, h, if_false]
    exact hu

/-- What a write by the access codes puts into a field (R4). -/
def State.writtenField (s : State) (d : RegBlock) (a : Nat) (v : Word) (keep : Field → Bool) (f : Field) : Nat :=
  match f.acc with
  | .w1c => s.fld a f &&& (f.max ^^^ f.get v)
  | .rw => if fldInRange (s.ranges a v) f v && !(keep f) then f.get v else s.fld a f
  | .rwl => if fldInRange (s.ranges a v) f v && !(keep f) && !(s.locked d) then f.get v else s.fld a f
  | _ => s.fld a f

theorem get_written {s : State} {a : Nat} {d : RegBlock} {f : Field} (hd : regDesc a = some d) (hf : f ∈ d.flds) (v : Word)
    (keep : Field → Bool) : f.get (s.written d a v keep) = s.writtenField d a v keep f := by
  have hfit := regBlocks_fits d (regDesc_mem hd) f hf
  unfold State.written
  obtain ⟨u, hu, e⟩ := FieldUpdate.foldl_mem
    (g := fun w f => match f.acc with
      | .w1c => f.put w (f.get w &&& (f.max ^^^ f.get v))
      | .rw => if fldInRange (s.ranges a v) f v && !(keep f) then f.put w (f.get v) else w
      | .rwl => if fldInRange (s.ranges a v) f v && !(keep f) && !(s.locked d) then f.put w (f.get v) else w
      | _ => w)
    (.of_put fun w x => by
      split
      · exact .inr ⟨_, rfl⟩
      · exact x.put_or_keep w _ _
      · exact x.put_or_keep w _ _
      · exact .inl rfl) hfit (s.rd a) (regBlocks_apart d (regDesc_mem hd)) hf
  have hput : ∀ c : Bool, f.get (if c then f.put u (f.get v) else u) = if c then f.get v else s.fld a f := by
    intro c
    cases c
    · exact hu
    · exact (Field.get_put f hfit u _).trans (Nat.mod_eq_of_lt (f.get_lt v))
  refine e.trans ?_
  unfold State.writtenField
  cases hacc : f.acc
  case w1c =>
    dsimp only
    rw [Field.get_put f hfit, Nat.mod_eq_of_lt (f.and_lt u _), hu]
    rfl
  case rw => exact hput _
  case rwl => exact hput _
  case ro => exact hu
  case wo => exact hu
  case rc => exact hu

/-! ### What a register holds (R4, R8) -/

theorem Map.get_mem_or {α : Type} (d : Nat → α) (k : Nat) :
    ∀ m : List (Nat × α), Map.get d m k = d k ∨ (k, Map.get d m k) ∈ m := by
  intro m
  induction m with
  | nil => exact .inl rfl
  | cons e r ih =>
    obtain ⟨j, v⟩ := e
    unfold Map.get
    by_cases h1 : k < j
    · rw [if_pos h1]
      exact .inl rfl
    · by_cases h2 : k = j
      · rw [if_neg h1, if_pos h2, h2]
        exact .inr (.head _)
      · rw [if_neg h1, if_neg h2]
        exact ih.imp_right (.tail _)

/-- The registers whose reset value differs by index start in the bits of their fields. -/
theorem regResetSpecial_mask {a v : Nat} (h8 : a % 8 = 0) (h : regResetSpecial a = some v) :
    BitVec.ofNat 64 v &&& ~~~ regMask a = 0 := by
  unfold regResetSpecial at h
  split at h
  · next hg =>
    obtain ⟨k, hk, rfl⟩ : ∃ k, k < 29 ∧ a = 0x305000800 + k * 8 := ⟨(a - 0x305000800) / 8, by omega, by omega⟩
    cases h
    have key : ∀ k < 29, BitVec.ofNat 64 (gainCode ((0x305000800 + k * 8 - 0x305000800) / 8) * 2 ^ 16 + 196 * 2 ^ 8 + 160) &&&
        ~~~ regMask (0x305000800 + k * 8) = 0 := by decide +kernel
    exact key k hk
  · split at h
    · next hs =>
      cases h
      rcases hs with rfl | rfl <;> decide +kernel
    · cases h

theorem regReset_mask {a : Nat} (h8 : a % 8 = 0) : regReset a &&& ~~~ regMask a = 0 := by
  unfold regReset
  split
  · exact regResetSpecial_mask h8 ‹_›
  · split
    · next d hd =>
      rw [regMask_of_regDesc hd]
      exact regBlocks_rst_mask d (regDesc_mem hd)
    · exact BitVec.zero_and

/-- A register holds no bit outside its fields (R8). -/
theorem State.rd_mask {s : State} (w : s.Wf) {a : Nat} (h8 : a % 8 = 0) : s.rd a &&& ~~~ regMask a = 0 := by
  rcases Map.get_mem_or regReset a s.regs with h | h
  · unfold State.rd State.regsAt
    rw [h]
    exact regReset_mask h8
  · have hb := w.regBits
    simp only [regsInMask, List.all_eq_true, beq_iff_eq] at hb
    exact hb _ h

/-- A field none of whose bits is held reads as zero. -/
theorem Field.get_eq_zero {f : Field} (hfit : f.fits = true) {w m : Word} (hm : BitVec.ofNat 64 f.mask &&& m = 0) (hw : w &&& ~~~ m = 0) :
    f.get w = 0 := by
  simp only [Field.fits, decide_eq_true_eq] at hfit
  apply Nat.eq_of_testBit_eq
  intro i
  rw [Field.get_bit, Nat.zero_testBit]
  by_cases hi : i < f.hi + 1 - f.lo
  · have h64 : f.lo + i < 64 := by omega
    have hin : f.lo ≤ f.lo + i ∧ f.lo + i < f.lo + (f.hi + 1 - f.lo) := by omega
    have h1 := congrArg (fun x => BitVec.getLsbD x (f.lo + i)) hm
    have h2 := congrArg (fun x => BitVec.getLsbD x (f.lo + i)) hw
    simp only [BitVec.getLsbD_and, BitVec.getLsbD_ofNat, h64, Field.mask_bit, hin, decide_true, Bool.true_and, and_self,
      BitVec.getLsbD_not] at h1 h2
    simp only [BitVec.ofNat_eq_ofNat, BitVec.getLsbD_zero, Bool.and_eq_false_imp, Bool.not_eq_eq_eq_not, Bool.not_false, hi, decide_true,
      Bool.true_and] at h1 h2 ⊢
    exact Bool.eq_false_iff.mpr fun h => Bool.false_ne_true (h1.symm.trans (h2 h))
  · simp [hi]

/-- A write-only field reads as zero (R4). -/
theorem State.fld_wo {s : State} (w : s.Wf) {a : Nat} {d : RegBlock} {f : Field} (h8 : a % 8 = 0) (hd : regDesc a = some d)
    (hf : f ∈ d.flds) (hw : f.acc = .wo) : s.fld a f = 0 :=
  Field.get_eq_zero (m := regMask a) (regBlocks_fits d (regDesc_mem hd) f hf)
    (by rw [regMask_of_regDesc hd]; exact regBlocks_mask_wo d (regDesc_mem hd) f hf hw) (State.rd_mask w h8)

/-! ### The word a read shows (R4, R71, R255, R374) -/

theorem regDesc_coreArrStat {a : Nat} (h : B.coreArrStat.hit a = true) : regDesc a = some B.coreArrStat := by
  have key : ∀ i < 64, ∀ j < 4, regDesc (R.coreArrStat i j) = some B.coreArrStat := by decide +kernel
  simp only [RegBlock.hit, RegBlock.hitOff, B.coreArrStat, Bool.if_false_right, Bool.if_false_left, Bool.and_eq_true,
    Bool.not_eq_eq_eq_not, Bool.not_true, decide_eq_false_iff_not, Nat.not_lt, decide_eq_true_eq, beq_iff_eq] at h
  rw [show a = R.coreArrStat ((a - 0x301004018) / 65536) ((a - 0x301004018) % 65536 / 1024) by unfold R.coreArrStat; omega]
  exact key _ (by omega) _ (by omega)

theorem regDesc_repHoundStat {a : Nat} (h : B.repHoundStat.hit a = true) : regDesc a = some B.repHoundStat := by
  have key : ∀ i < 8, regDesc (R.repHoundStat i) = some B.repHoundStat := by decide +kernel
  simp only [RegBlock.hit, RegBlock.hitOff, B.repHoundStat, Bool.if_false_right, Bool.if_false_left, Bool.and_eq_true,
    Bool.not_eq_eq_eq_not, Bool.not_true, decide_eq_false_iff_not, Nat.not_lt, decide_eq_true_eq, beq_iff_eq] at h
  rw [show a = R.repHoundStat ((a - 0x30d000008) / 64) by unfold R.repHoundStat; omega]
  exact key _ (by omega)

theorem RegBlock.eq_base_of_hit {d : RegBlock} {a : Nat} (hd : d.dims = []) (h : d.hit a = true) : a = d.base := by
  unfold RegBlock.hit at h
  rw [hd] at h
  split at h
  · cases h
  · have := beq_iff_eq.mp h
    omega

/-- The table windows of the Last lie beside its registers. -/
theorem regDesc_not_lastWin {a : Nat} {d : RegBlock} (hd : regDesc a = some d) : ¬ (lastWin ≤ a ∧ a < lastWin + 0x80000) := by
  intro ⟨h1, h2⟩
  have hbase : ∀ d ∈ regPage30a, d.dims = [] ∧ d.base < lastWin := by decide
  have hpage : regPage a = regPage30a := by
    unfold lastWin R.lastStat at h1 h2
    unfold regPage
    rw [show a / 0x1000000 = 0x30a by omega]
    rfl
  obtain ⟨hdims, hlt⟩ := hbase d (hpage ▸ List.mem_of_find?_eq_some hd)
  rw [RegBlock.eq_base_of_hit hdims (regDesc_hit hd)] at h1
  omega

/-- A field shown in place of a read-only one leaves the fields of another access code. -/
theorem get_put_ro {a : Nat} {d : RegBlock} {f g : Field} (hd : regDesc a = some d) (hg : g ∈ d.flds) (hga : g.acc = .ro)
    (hf : f ∈ d.flds) (hfa : f.acc ≠ .ro) (w : Word) (x : Nat) : f.get (g.put w x) = f.get w :=
  Field.get_put_apart g f (regBlocks_fits d (regDesc_mem hd) f hf) (Field.apart_of_acc_ne hd hg hf fun e => hfa (e ▸ hga)) w x

/-- A read of a listed register shows what its fields hold; the ones that the hardware drives (RO) may show another value. -/
theorem State.peek_listed (s : State) {a : Nat} {d : RegBlock} (hd : regDesc a = some d) :
    ∃ v, s.peek a = some v ∧ ∀ f ∈ d.flds, f.acc ≠ .ro → f.get v = s.fld a f := by
  unfold State.peek
  rw [if_neg (by simpa using regDesc_not_lastWin hd), if_neg (by simp [hd])]
  split
  · next h =>
    cases hd.symm.trans (regDesc_coreArrStat h)
    refine ⟨_, rfl, fun f hf hfa => ?_⟩
    rw [get_put_ro hd (by decide) rfl hf hfa, get_put_ro hd (by decide) rfl hf hfa]
    rfl
  split
  · next h =>
    rw [beq_iff_eq] at h
    subst h
    cases hd.symm.trans (show regDesc R.timeHold = some B.timeHold by decide +kernel)
    exact ⟨_, rfl, fun f hf hfa => get_put_ro hd (by decide) rfl hf hfa _ _⟩
  split
  · next h =>
    cases hd.symm.trans (regDesc_repHoundStat h)
    exact ⟨_, rfl, fun f hf hfa => get_put_ro hd (by decide) rfl hf hfa _ _⟩
  · exact ⟨_, rfl, fun f _ _ => rfl⟩

theorem State.peek_isSome (s : State) {a : Nat} {d : RegBlock} (hd : regDesc a = some d) : (s.peek a).isSome = true := by
  obtain ⟨v, hv, -⟩ := s.peek_listed hd
  rw [hv]
  rfl

/-! ### Writes of a register by the manager (R4, R5, R9) -/

theorem Act.genWrite_run {a : Nat} {d : RegBlock} (hd : regDesc a = some d) (v : Word) (keep : Field → Bool) (s : State) :
    (Act.genWrite a v keep).run s = (Act.setRegs a (s.written d a v keep)).run s := by
  unfold Act.genWrite
  rw [Act.get_run, hd]

@[simp] theorem Act.genWrite_in {F : Foot} {a : Nat} {v : Word} {keep : Field → Bool} (h : F .regs a) : (Act.genWrite a v keep).In F := by
  unfold Act.genWrite
  refine Act.get_in fun s => ?_
  split
  · exact Act.setRegs_in h
  · exact Act.skip_in

/-- A field after a write by the access codes. -/
theorem fld_genWrite {s : State} (w : s.Wf) {a : Nat} {d : RegBlock} {f : Field} (hd : regDesc a = some d) (hf : f ∈ d.flds)
    (hw : f.acc ≠ .wo) (v : Word) (keep : Field → Bool) :
    ((Act.genWrite a v keep).run s).fld a f = s.writtenField d a v keep f := by
  rw [Act.genWrite_run hd, State.fld_setRegs w (Field.within_of_regDesc hd hf hw), get_written hd hf]

/-- A register with no rule of its own is written by the access codes. -/
theorem Act.devWrite_plain {a : Nat} (h : plainReg a = true) (v : Word) : Act.devWrite a v = Act.genWrite a v := by
  simp only [plainReg, Bool.and_eq_true, Bool.not_eq_true', decide_eq_true_eq, decide_eq_false_iff_not, Option.isNone_iff_eq_none,
    beq_iff_eq, List.contains_eq_mem, List.mem_cons, List.not_mem_nil, not_or, or_false] at h
  obtain ⟨⟨⟨⟨⟨⟨⟨-, ⟨hLock, hCfg, hLatch, hFreq, hPps, hSfn, hFab, hPfx0, hPfx1⟩⟩, hRing⟩, hIdx⟩, hRgn⟩, hHound⟩, hUe⟩, hPmc⟩ := h
  have hget : ∀ x : Act, (Act.get fun _ => x) = x := fun _ => rfl
  unfold Act.devWrite
  simp only [beq_iff_eq, Bool.or_eq_true, Bool.and_eq_true, decide_eq_true_eq, hLock, hCfg, hLatch, hFreq, hPps, hSfn, hFab, hPfx0,
    hPfx1, hRing, hIdx, hRgn, hHound, hUe, hPmc, or_self, Bool.false_eq_true, if_false, hget]

/-! ### The commands of a register access (R9, R29, R30) -/

theorem inBar0_dev {a : Nat} (h : a < 0x400000000) : inBar0 a = false := by
  unfold inBar0 bar0
  rw [decide_eq_false (by omega), Bool.false_and]

theorem inBar4_dev {a : Nat} (h : a < 0x400000000) : inBar4 a = false := by
  unfold inBar4 bar4
  rw [decide_eq_false (by omega), Bool.false_and]

section
variable {s : State} {who a size : Nat} {v tied : Word} {tie : Option (Word × Word)}

/-- The manager's write of a whole listed register. -/
theorem exec_registerWrite_taken (h1 : 0x300000000 ≤ a) (h2 : a < 0x400000000) (h8 : a % 8 = 0) (hp : (s.peek a).isSome = true) :
    exec (.registerWrite 256 a 8 v tied) s = Act.out s (.devWrite a (untied a v tied)) := by
  change execRegisterWrite 256 a 8 v tied s = _
  simp [execRegisterWrite, inBar0_dev h2, h1, h2, h8, hp]

/-- A write by another partition, or of a part of a register, is a violation. -/
theorem exec_registerWrite_refused (hw : who < 258) (h1 : 0x300000000 ≤ a) (h2 : a < 0x400000000)
    (hr : who ≠ 256 ∨ size ≠ 8 ∨ a % 8 ≠ 0) :
    exec (.registerWrite who a size v tied) s = Act.out s (.violation who violRegister) := by
  change execRegisterWrite who a size v tied s = _
  have hno : ¬ ((who = 256 ∧ size = 8 ∧ a % 8 = 0) ∧ (s.peek a).isSome = true) := by omega
  simp [execRegisterWrite, inBar0_dev h2, h1, h2, hno, hw]

/-- The manager's read of a whole listed register. -/
theorem exec_rcRead_taken (h1 : 0x300000000 ≤ a) (h2 : a < 0x400000000) (h8 : a % 8 = 0) (hp : (s.peek a).isSome = true) :
    exec (.rcRead 256 a 8 tie) s = Act.out s (.regRead a tie fun v => .emit (.regRead 256 a v)) := by
  change execRcRead 256 a 8 tie s = _
  simp [execRcRead, inBar0_dev h2, inBar4_dev h2, h1, h2, h8, hp]

/-- A read by another partition, or of a part of a register, is a violation and reads as zero. -/
theorem exec_rcRead_refused (hw : who < 258) (h1 : 0x300000000 ≤ a) (h2 : a < 0x400000000)
    (hr : who ≠ 256 ∨ size ≠ 8 ∨ a % 8 ≠ 0) :
    exec (.rcRead who a size tie) s = Act.out s (.all [.violation who violRegister, .emit (.regRead who a 0)]) := by
  change execRcRead who a size tie s = _
  have hno : ¬ ((who = 256 ∧ size = 8 ∧ a % 8 = 0) ∧ (s.peek a).isSome = true) := by omega
  simp [execRcRead, inBar0_dev h2, inBar4_dev h2, h1, h2, hno, hw]

end

/-! ### Violations (R29, R30, R315) -/

theorem regDesc_sliceViol : ∀ p < 258, regDesc (R.sliceViol p) = some B.sliceViol := by decide +kernel

theorem sliceViol_notin_recFoot (p : Nat) (hp : p < 258) : ¬ recFoot .regs (R.sliceViol p) := by
  simp only [recFoot, hostFoot, R.hostAttn, R.hostAttn4, R.hostAttn7, R.recStat, R.recCnt, R.recCnt2, R.sliceViol, Foot.any_cons, Foot.any_nil,
    Foot.regFam_iff, Foot.reg_iff, Foot.whole_iff, Foot.range_iff, List.mem_cons, List.not_mem_nil, reduceCtorEq, true_and, false_and, or_self,
    or_false, false_or, not_or, not_exists, not_and]
  refine ⟨fun x _ => ?_, ?_⟩ <;> omega

/-- A violation is counted; the count saturates. -/
theorem fld_violation_count {s : State} (w : s.Wf) {part : Nat} (hp : part < 258) (kind : Nat) :
    ((Act.violation part kind).run s).fld (R.sliceViol part) F.sliceViol_COUNT =
      min (s.fld (R.sliceViol part) F.sliceViol_COUNT + 1) (2 ^ 32 - 1) := by
  have hin : F.sliceViol_COUNT.within (R.sliceViol part) = true :=
    Field.within_of_regDesc (regDesc_sliceViol part hp) (by decide) (by decide)
  unfold Act.violation
  simp only [Act.get_run, Act.cons_run, Act.nil_run, fld_when]
  have hinc := State.fld_incF w hin 1
  split
  · rw [fld_record (Act.wf (Act.wf w _) _) (sliceViol_notin_recFoot part hp),
      State.fld_modF_apart (Act.wf w _) hin (by decide), hinc]
    rfl
  · rw [hinc]
    rfl

theorem violation_emit_in (who : Nat) (kind : Nat) (e : Emit) :
    (Act.all [.violation who kind, .emit e]).In (.any [violFoot who, .whole [.emitted]]) :=
  Act.cons_in (Act.violation_in (Foot.le_any (.head _))) (Act.cons_in (Act.emit_in (by simp)) Act.nil_in)

/-- A refused read: a violation, and zero is returned. -/
theorem gives_rcRead_refused {s : State} (w : s.Wf) {who a size : Nat} {tie : Option (Word × Word)} (hw : who < 258)
    (h1 : 0x300000000 ≤ a) (h2 : a < 0x400000000) (hr : who ≠ 256 ∨ size ≠ 8 ∨ a % 8 ≠ 0) :
    Gives (.rcRead who a size tie) s fun t => Same (.any [violFoot who, .whole [.emitted]]) s t ∧
      t.emitted.head? = some (.regRead who a 0) ∧
      t.fld (R.sliceViol who) F.sliceViol_COUNT = min (s.fld (R.sliceViol who) F.sliceViol_COUNT + 1) (2 ^ 32 - 1) :=
  gives_same w (exec_rcRead_refused hw h1 h2 hr) (violation_emit_in _ _ _) ⟨rfl, fld_violation_count w hw _⟩

/-- A refused write: a violation, and nothing is written. -/
theorem gives_registerWrite_refused {s : State} (w : s.Wf) {who a size : Nat} {v tied : Word} (hw : who < 258)
    (h1 : 0x300000000 ≤ a) (h2 : a < 0x400000000) (hr : who ≠ 256 ∨ size ≠ 8 ∨ a % 8 ≠ 0) :
    Gives (.registerWrite who a size v tied) s fun t => Same (violFoot who) s t ∧
      t.fld (R.sliceViol who) F.sliceViol_COUNT = min (s.fld (R.sliceViol who) F.sliceViol_COUNT + 1) (2 ^ 32 - 1) :=
  gives_same w (exec_registerWrite_refused hw h1 h2 hr) Act.violation_foot (fld_violation_count w hw _)

/-- A state that a command gives has what follows from what it has. -/
theorem Gives.imp {c : Instr} {s : State} {P Q : State → Prop} (h : Gives c s P) (hi : ∀ t, P t → Q t) : Gives c s Q :=
  let ⟨t, ht, hp⟩ := h
  ⟨t, ht, hi t hp⟩

/-! ### Reads by the manager (R4, R5) -/

theorem Act.regRead_unpaired {a : Nat} (h : pmcPlace a = none) (k : Word → Act) (s : State) :
    (Act.regRead a none k).run s = (Act.rcClear a 0).run ((k ((s.peek a).getD 0)).run s) := by
  have hs : ∀ v, rcSplit a v none = (v, 0) := by
    intro v
    unfold rcSplit
    cases regDesc a <;> rfl
  unfold Act.regRead
  simp only [Act.get_run, h, hs, Act.cons_run, Act.nil_run]

@[simp] theorem Act.rcClear_in {F : Foot} {a : Nat} {late : Word} (h : F .regs a) : (Act.rcClear a late).In F := by
  unfold Act.rcClear
  refine Act.get_in fun s => ?_
  split
  · exact Act.when_in fun _ => Act.setRegs_in h
  · exact Act.skip_in

theorem Field.get_zero (f : Field) : f.get 0 = 0 := by simp [Field.get]

/-- A read returns the RC fields of a register to their reset values and leaves the others (R4). -/
theorem fld_rcClear {s : State} (w : s.Wf) {a : Nat} {d : RegBlock} {f : Field} (h8 : a % 8 = 0) (hd : regDesc a = some d)
    (hf : f ∈ d.flds) : ((Act.rcClear a 0).run s).fld a f = if f.acc = .rc then f.rst else s.fld a f := by
  have hfit := regBlocks_fits d (regDesc_mem hd) f hf
  by_cases hwo : f.acc = .wo
  · rw [State.fld_wo (Act.wf w _) h8 hd hf hwo, State.fld_wo w h8 hd hf hwo, hwo]
    rfl
  unfold Act.rcClear
  rw [Act.get_run, hd]
  dsimp only
  rw [fld_when]
  by_cases hany : (d.flds.any (·.acc == .rc)) = true
  · rw [if_pos hany, State.fld_setRegs w (Field.within_of_regDesc hd hf hwo)]
    obtain ⟨u, hu, e⟩ := FieldUpdate.foldl_mem
      (g := fun w f => if f.acc == .rc then f.put w (f.rst + f.get 0) else w)
      (.of_put fun w x => x.put_or_keep w _ _) hfit (s.rd a) (regBlocks_apart d (regDesc_mem hd)) hf
    refine e.trans ?_
    by_cases hrc : f.acc = .rc
    · have hrst := Nat.lt_of_le_of_lt (regBlocks_rst_le d (regDesc_mem hd) f hf) f.max_lt
      simp only [hrc, beq_self_eq_true, if_true]
      rw [Field.get_zero, Nat.add_zero, Field.get_put f hfit, Nat.mod_eq_of_lt hrst]
    · simp only [beq_iff_eq, hrc, if_false]
      exact hu
  · rw [if_neg hany, if_neg fun hrc => hany (List.any_eq_true.mpr ⟨f, hf, beq_iff_eq.mpr hrc⟩)]

/-! ### Footprints that leave one register alone -/

/-- Everything but one register. -/
def Foot.offReg (a : Nat) : Foot := fun p k => p = .regs → k ≠ a

@[simp] theorem Foot.offReg_iff (a : Nat) (p : Piece) (k : Nat) : Foot.offReg a p k ↔ (p = .regs → k ≠ a) := Iff.rfl

theorem Act.In.rd_off {a : Nat} {act : Act} (h : act.In (.offReg a)) {s : State} (w : s.Wf) : (act.run s).rd a = s.rd a :=
  h.rd w (by simp)

theorem Act.all_in {F : Foot} {l : List Act} (h : ∀ x ∈ l, x.In F) : (Act.all l).In F := by
  induction l with
  | nil => exact Act.nil_in
  | cons x r ih => exact Act.cons_in (h x (.head _)) (ih fun y hy => h y (.tail _ hy))

/-! ### GW.LOCK (R6) -/

theorem Field.get_or (f : Field) (x y : Word) : f.get (x ||| y) = f.get x ||| f.get y := by
  apply Nat.eq_of_testBit_eq
  intro i
  simp [Field.get_bit, Bool.and_or_distrib_left]

/-- A bit of GW.LOCK written one is set, another keeps its value. -/
theorem fld_lockWrite {s : State} (w : s.Wf) {f : Field} (hf : f ∈ [F.gwLock_FAB, F.gwLock_TIME]) (v : Word) :
    ((Act.lockWrite v).run s).fld R.gwLock f = if f.get v = 1 then 1 else s.fld R.gwLock f := by
  have hin : f.within R.gwLock = true := by revert f; decide
  have hone : f.hi + 1 - f.lo = 1 := by revert f; decide
  have hs := f.get_lt (s.rd R.gwLock)
  have hv := f.get_lt v
  unfold Act.lockWrite
  rw [Act.get_run, State.fld_setRegs w hin, Field.get_or]
  unfold State.fld
  generalize f.get (s.rd R.gwLock) = x at *
  generalize f.get v = y at *
  rw [hone] at hs hv
  obtain rfl | rfl : x = 0 ∨ x = 1 := by omega
  all_goals obtain rfl | rfl : y = 0 ∨ y = 1 := by omega
  all_goals rfl

theorem lockWrite_in (v : Word) : (Act.lockWrite v).In (.reg R.gwLock) :=
  Act.get_in fun _ => Act.setRegs_in ⟨rfl, rfl⟩

/-- A reset clears GW.LOCK; nothing of what it restores touches it. -/
theorem rd_restart_gwLock {s : State} (w : s.Wf) (cold : Bool) : ((Act.restart cold).run s).rd R.gwLock = 0 := by
  unfold Act.restart
  simp only [Act.get_run]
  rw [Act.cons_run, Act.cons_run]
  have h0 : ∀ u : State, (Act.toReset.run u).rd R.gwLock = 0 := fun u => (by decide : regReset R.gwLock = 0)
  refine (Act.In.rd_off (Act.all_in ?_) (Act.wf (Act.wf w _) _)).trans (h0 _)
  simp (maxDischargeDepth := 9) [Act.all_in, Act.when_in, R.gwLock, R.recStat, R.pwrStat, R.hostBoot, R.pwrTemp, R.gwIdent, R.secStat, R.fabStat]

theorem mrExtend_off_gwLock (i : Nat) (d : List Byte) : (Act.mrExtend i d).In (.offReg R.gwLock) :=
  Act.mrExtend_foot.le fun p k ⟨_, hlo, _⟩ _ => by
    simp only [R.secMr, R.gwLock] at hlo ⊢
    omega

theorem bootRom_off_gwLock (r : StartReport) (b : List Byte) (rec_ : Bool) : (Act.bootRom r b rec_).In (.offReg R.gwLock) := by
  have hdebug : (Act.debugSample r.dbgReq).In (.offReg R.gwLock) := by
    unfold Act.debugSample
    refine Act.get_in fun s => ?_
    split
    · exact Act.skip_in
    · split
      · exact Act.incF_in (by simp [R.secCnt, R.gwLock])
      · exact Act.cons_in (mrExtend_off_gwLock _ _) (Act.cons_in (Act.setF_in (by simp [R.secStat, R.gwLock])) Act.nil_in)
  unfold Act.bootRom
  refine Act.all_in ?_
  simp [mrExtend_off_gwLock, hdebug, Act.each_in, (by decide : R.hostBoot ≠ R.gwLock), (by decide : R.secStat ≠ R.gwLock)]

/-- After a reset into recovery wait GW.LOCK is clear too. -/
theorem rd_recoveryWait_gwLock {s : State} (w : s.Wf) (cause : Nat) : ((Act.recoveryWait cause).run s).rd R.gwLock = 0 := by
  unfold Act.recoveryWait
  rw [Act.cons_run]
  refine (Act.In.rd_off (Act.all_in ?_) (Act.wf w _)).trans (rd_restart_gwLock w false)
  simp [mrExtend_off_gwLock, (by decide : R.hostBoot ≠ R.gwLock)]

/-- The boot ROM leaves GW.LOCK clear. -/
theorem rd_boot_gwLock {s : State} (w : s.Wf) (r : StartReport) (h : s.rd R.gwLock = 0) : ((Act.boot r).run s).rd R.gwLock = 0 := by
  unfold Act.boot
  rw [Act.get_run]
  split
  · exact ((bootRom_off_gwLock _ _ _).rd_off w).trans h
  · split
    · exact rd_recoveryWait_gwLock w _
    · split
      · exact rd_recoveryWait_gwLock w _
      · exact ((bootRom_off_gwLock _ _ _).rd_off w).trans h

theorem gives_moduleReset_gwLock {s : State} (w : s.Wf) (r : StartReport) (hin : s.sys.inOk = true)
    (hlo : s.flag R.pwrStat F.pwrStat_LO_QUAL = true) (hfault : s.sys.fault = none) (hstep : s.fld R.hostBoot F.hostBoot_STEP = 0)
    (hwarm : s.sys.warm = none) : Gives (.moduleReset r) s fun t => t.rd R.gwLock = 0 := by
  refine gives_out (o := execModuleReset r s) (a := .all [.restart true, .emit (.pin 1 true), .boot r]) rfl ?_ ?_
  · unfold execModuleReset
    simp [hin, hlo, hfault, hstep, hwarm]
  · rw [Act.cons_run, Act.cons_run, Act.cons_run, Act.nil_run]
    exact rd_boot_gwLock (Act.wf (Act.wf w _) _) r ((rd_emit _ _ _).trans (rd_restart_gwLock w true))

theorem gives_warmReset_gwLock {s : State} (w : s.Wf) {cause : Nat} (r : StartReport) (hwarm : s.sys.warm = some cause)
    (hbring : s.sys.bring = none) (hfault : s.sys.fault = none) : Gives (.warmReset cause r) s fun t => t.rd R.gwLock = 0 := by
  refine gives_out (o := execWarmReset cause r s) (a := .all [.restart false, .boot r]) rfl ?_ ?_
  · unfold execWarmReset
    simp [hwarm, hbring, hfault]
  · rw [Act.cons_run, Act.cons_run, Act.nil_run]
    exact rd_boot_gwLock (Act.wf w _) r (rd_restart_gwLock w false)

/-! ### Locked fields (R4, R6) -/

/-- A block with a lock bit is an array of registers written by the access codes, or one register. -/
theorem regBlocks_lock : ∀ d ∈ regBlocks, d.lock ≠ 0 → d = B.timePortAsym ∨
    d.dims = [] ∧ (d.base ∈ [R.timeCfg, R.timeFreq, R.timePps, R.fabCfg, R.fabPfx0, R.fabPfx1] ∨ plainReg d.base = true) := by
  decide +kernel

/-- The registers with a lock bit: those with a rule of their own, and those written by the access codes alone. -/
theorem lockable_cases {a : Nat} {d : RegBlock} (hd : regDesc a = some d) (hl : d.lock ≠ 0) :
    a ∈ [R.timeCfg, R.timeFreq, R.timePps, R.fabCfg, R.fabPfx0, R.fabPfx1] ∨ plainReg a = true := by
  rcases regBlocks_lock d (regDesc_mem hd) hl with rfl | ⟨hdims, h⟩
  · have key : ∀ i < 48, plainReg (R.timePortAsym i) = true := by decide +kernel
    have hit := regDesc_hit hd
    simp only [RegBlock.hit, RegBlock.hitOff, B.timePortAsym, Bool.if_false_right, Bool.if_false_left, Bool.and_eq_true,
      Bool.not_eq_eq_eq_not, Bool.not_true, decide_eq_false_iff_not, Nat.not_lt, decide_eq_true_eq, beq_iff_eq] at hit
    rw [show a = R.timePortAsym ((a - 0x309000100) / 8) by unfold R.timePortAsym; omega]
    exact .inr (key _ (by omega))
  · rwa [RegBlock.eq_base_of_hit hdims (regDesc_hit hd)]

theorem State.locked_lock {s : State} {d : RegBlock} (h : s.locked d = true) : d.lock ≠ 0 := by
  simp only [State.locked, Bool.and_eq_true, bne_iff_ne] at h
  exact h.1

/-- A write by the access codes leaves a locked field. -/
theorem fld_genWrite_locked {s : State} (w : s.Wf) {a : Nat} {d : RegBlock} {f : Field} (hd : regDesc a = some d)
    (hl : s.locked d = true) (hf : f ∈ d.flds) (hrwl : f.acc = .rwl) (v : Word) (keep : Field → Bool) :
    ((Act.genWrite a v keep).run s).fld a f = s.fld a f := by
  rw [fld_genWrite w hd hf (by simp [hrwl])]
  simp [State.writtenField, hrwl, hl]

/-! ### Writes of locked registers with a rule of their own (R257, R260, R322) -/

theorem freqSelect_off {a : Nat} (h1 : R.timeFreq ≠ a) (h2 : R.timeStat ≠ a) (h3 : R.timeCnt2 ≠ a) :
    Act.freqSelect.In (.offReg a) := by
  refine Act.cons_in (Act.get_in fun _ => Act.setF_in (by simpa using h1)) (Act.cons_in (Act.get_in fun s => Act.when_in fun _ => ?_)
    (Act.cons_in (Act.get_in fun s => Act.when_in fun _ => ?_) Act.nil_in))
  · exact Act.all_in (by simp [Act.when_in, h1, h2, h3])
  · exact Act.all_in (by simp [h1])

theorem timeClass_off {a : Nat} (h : R.timeStat ≠ a) : Act.timeClass.In (.offReg a) :=
  Act.get_in fun _ => Act.setF_in (by simpa using h)

theorem fld_when_of_eq {b : Bool} {act : Act} {s : State} {a : Nat} {f : Field} (h : (act.run s).fld a f = s.fld a f) :
    ((Act.when b act).run s).fld a f = s.fld a f := by
  cases b
  · rfl
  · exact h

/-- The choice of a reference changes the fields that report it only. -/
theorem fld_freqSelect {s : State} (w : s.Wf) {f : Field} (hin : f.within R.timeFreq = true)
    (hq : F.timeFreq_SYNCE_QUAL.apart f = true) (hs : F.timeFreq_SEL.apart f = true) (ht : F.timeFreq_QL_TX.apart f = true) :
    (Act.freqSelect.run s).fld R.timeFreq f = s.fld R.timeFreq f := by
  have hsel : ∀ (l : List Act) (x : Nat) (u : State), u.Wf → (Act.all l).In (.offReg R.timeFreq) →
      ((Act.all (.setF R.timeFreq F.timeFreq_SEL x :: l)).run u).fld R.timeFreq f = u.fld R.timeFreq f := fun l x u hu hl =>
    (fld_head hu hl (by simp) f).trans (State.fld_setF_apart hu hin hs x)
  unfold Act.freqSelect Act.qlUpdate
  rw [Act.cons_run, Act.cons_run, Act.cons_run, Act.nil_run, Act.get_run, Act.get_run, Act.get_run]
  refine (fld_when_of_eq ?_).trans ((fld_when_of_eq ?_).trans (State.fld_setF_apart w hin hq _))
  · exact State.fld_setF_apart (Act.wf (Act.wf w _) _) hin ht _
  · exact hsel _ _ _ (Act.wf w _) (Act.all_in (by
      simp [Act.when_in, (by decide : R.timeStat ≠ R.timeFreq), (by decide : R.timeCnt2 ≠ R.timeFreq)]))

theorem Act.devWrite_gwLock (v : Word) : Act.devWrite R.gwLock v = .lockWrite v :=
  rfl

theorem Act.devWrite_timeCfg (v : Word) : Act.devWrite R.timeCfg v = .timeCfgWrite v :=
  rfl

theorem Act.devWrite_timeFreq (v : Word) : Act.devWrite R.timeFreq v = .all [.genWrite R.timeFreq v, .freqSelect] :=
  rfl

theorem Act.devWrite_timePps (v : Word) : Act.devWrite R.timePps v = .all [.genWrite R.timePps v, .timeClass] :=
  rfl

theorem Act.devWrite_fabCfg (v : Word) : Act.devWrite R.fabCfg v = .fabCfgWrite v :=
  rfl

theorem Act.devWrite_fabPfx0 (v : Word) : Act.devWrite R.fabPfx0 v =
    .get fun s => .when (!(s.flag R.fabCfg F.fabCfg_EN)) (.genWrite R.fabPfx0 v) :=
  rfl

theorem Act.devWrite_fabPfx1 (v : Word) : Act.devWrite R.fabPfx1 v =
    .get fun s => .when (!(s.flag R.fabCfg F.fabCfg_EN)) (.genWrite R.fabPfx1 v) :=
  rfl

theorem locked_timeCfg (s : State) : s.locked B.timeCfg = s.flag R.gwLock F.gwLock_TIME := by
  simp [State.locked, State.flag, State.fld, B.timeCfg, bit, Field.get, F.gwLock_TIME]

/-- A locked TIME.CFG ignores the write. -/
theorem timeCfgWrite_locked {s : State} (hl : s.locked B.timeCfg = true) (v : Word) : (Act.timeCfgWrite v).run s = s := by
  rw [locked_timeCfg] at hl
  unfold Act.timeCfgWrite
  rw [Act.get_run]
  simp only [hl, Bool.not_true, Bool.false_and, Act.when_false, Act.skip_run]

/-- What the manager's write of a locked register does: nothing, or a write by the access codes, after which the time unit follows TIME.FREQ
and TIME.PPS. -/
theorem devWrite_locked {s : State} {a : Nat} {d : RegBlock} (hd : regDesc a = some d) (hl : s.locked d = true) (v : Word) :
    (Act.devWrite a v).run s = s ∨ ∃ keep, (Act.devWrite a v).run s = (Act.genWrite a v keep).run s ∨
      a = R.timeFreq ∧ (Act.devWrite a v).run s = Act.freqSelect.run ((Act.genWrite a v keep).run s) ∨
      a = R.timePps ∧ (Act.devWrite a v).run s = Act.timeClass.run ((Act.genWrite a v keep).run s) := by
  have hwhen : ∀ (b : Bool) (act : Act), (Act.when b act).run s = s ∨ (Act.when b act).run s = act.run s := fun b act => by
    cases b
    · exact .inl rfl
    · exact .inr rfl
  rcases lockable_cases hd (State.locked_lock hl) with h | h
  · simp only [List.mem_cons, List.not_mem_nil, or_false] at h
    rcases h with rfl | rfl | rfl | rfl | rfl | rfl
    · cases hd.symm.trans (by decide +kernel : regDesc R.timeCfg = some B.timeCfg)
      rw [Act.devWrite_timeCfg]
      exact .inl (timeCfgWrite_locked hl v)
    · rw [Act.devWrite_timeFreq, Act.cons_run, Act.cons_run, Act.nil_run]
      exact .inr ⟨_, .inr (.inl ⟨rfl, rfl⟩)⟩
    · rw [Act.devWrite_timePps, Act.cons_run, Act.cons_run, Act.nil_run]
      exact .inr ⟨_, .inr (.inr ⟨rfl, rfl⟩)⟩
    · rw [Act.devWrite_fabCfg, Act.fabCfgWrite, Act.get_run]
      exact .inr ⟨_, .inl rfl⟩
    · rw [Act.devWrite_fabPfx0, Act.get_run]
      exact (hwhen _ _).imp_right fun e => ⟨_, .inl e⟩
    · rw [Act.devWrite_fabPfx1, Act.get_run]
      exact (hwhen _ _).imp_right fun e => ⟨_, .inl e⟩
  · rw [Act.devWrite_plain h]
    exact .inr ⟨_, .inl rfl⟩

/-- The manager's write of a locked register leaves its locked fields (R6). -/
theorem fld_devWrite_locked {s : State} (w : s.Wf) {a : Nat} {d : RegBlock} {f : Field} (hd : regDesc a = some d)
    (hl : s.locked d = true) (hf : f ∈ d.flds) (hrwl : f.acc = .rwl) (v : Word) : ((Act.devWrite a v).run s).fld a f = s.fld a f := by
  have hgen : ∀ keep, ((Act.genWrite a v keep).run s).fld a f = s.fld a f := fld_genWrite_locked w hd hl hf hrwl v
  rcases devWrite_locked hd hl v with e | ⟨keep, e | ⟨ha, e⟩ | ⟨ha, e⟩⟩ <;> rw [e]
  · exact hgen keep
  · subst ha
    cases hd.symm.trans (by decide +kernel : regDesc R.timeFreq = some B.timeFreq)
    have hap : ∀ {g : Field}, g ∈ B.timeFreq.flds → g.acc = .ro → g.apart f = true := fun hg hro =>
      Field.apart_of_acc_ne hd hg hf (by simp [hro, hrwl])
    exact (fld_freqSelect (Act.wf w _) (Field.within_of_regDesc hd hf (by simp [hrwl])) (hap (by decide) rfl) (hap (by decide) rfl)
      (hap (by decide) rfl)).trans (hgen keep)
  · have hne : R.timeStat ≠ a := ha ▸ by decide
    exact ((timeClass_off hne).fld (Act.wf w _) (by simp) f).trans (hgen keep)

/-- The manager's write of a locked register counts no violation. -/
theorem rd_sliceViol_devWrite_locked {s : State} (w : s.Wf) {a : Nat} {d : RegBlock} (hd : regDesc a = some d)
    (hl : s.locked d = true) (v : Word) {p : Nat} (hp : p < 258) :
    ((Act.devWrite a v).run s).rd (R.sliceViol p) = s.rd (R.sliceViol p) := by
  have hne : a ≠ R.sliceViol p := by
    rintro rfl
    cases hd.symm.trans (regDesc_sliceViol p hp)
    exact State.locked_lock hl rfl
  have hgen : ∀ keep, ((Act.genWrite a v keep).run s).rd (R.sliceViol p) = s.rd (R.sliceViol p) := fun keep =>
    Act.In.rd_off (Act.genWrite_in fun _ => hne) w
  have hoff : R.timeFreq ≠ R.sliceViol p ∧ R.timeStat ≠ R.sliceViol p ∧ R.timeCnt2 ≠ R.sliceViol p := by
    unfold R.timeFreq R.timeStat R.timeCnt2 R.sliceViol
    omega
  obtain ⟨hFreq, hStat, hCnt⟩ := hoff
  rcases devWrite_locked hd hl v with e | ⟨keep, e | ⟨-, e⟩ | ⟨-, e⟩⟩ <;> rw [e]
  · exact hgen keep
  · exact ((freqSelect_off hFreq hStat hCnt).rd_off (Act.wf w _)).trans (hgen keep)
  · exact ((timeClass_off hStat).rd_off (Act.wf w _)).trans (hgen keep)

theorem plainReg_place {a : Nat} (h : plainReg a = true) : 0x300000000 ≤ a ∧ a < 0x400000000 ∧ a % 8 = 0 := by
  unfold plainReg at h
  simp only [Bool.and_eq_true, decide_eq_true_eq, beq_iff_eq] at h
  obtain ⟨⟨⟨⟨⟨⟨⟨⟨⟨⟨h1, h2⟩, h8⟩, -⟩, -⟩, -⟩, -⟩, -⟩, -⟩, -⟩, -⟩ := h
  exact ⟨h1, h2, h8⟩

/-- The manager's write of a register without a rule of its own is a write by the access codes (R4, R5). -/
theorem gives_registerWrite_plain {s : State} (w : s.Wf) {a : Nat} {v tied : Word} {d : RegBlock} (hp : plainReg a = true)
    (hd : regDesc a = some d) {P : State → Prop} (h : P ((Act.genWrite a (untied a v tied)).run s)) :
    Gives (.registerWrite 256 a 8 v tied) s fun t => Same (.reg a) s t ∧ P t := by
  obtain ⟨h1, h2, h8⟩ := plainReg_place hp
  have he := exec_registerWrite_taken (v := v) (tied := tied) h1 h2 h8 (s.peek_isSome hd)
  rw [Act.devWrite_plain hp] at he
  exact gives_same w he (Act.genWrite_in ⟨rfl, rfl⟩) h

/-- The manager's read of a listed register that is no counter (R4). -/
theorem gives_rcRead_listed {s : State} (w : s.Wf) {a : Nat} {d : RegBlock} (h1 : 0x300000000 ≤ a) (h2 : a < 0x400000000)
    (h8 : a % 8 = 0) (hpmc : pmcPlace a = none) (hd : regDesc a = some d) :
    Gives (.rcRead 256 a 8 none) s fun t => Same (.any [.reg a, .whole [.emitted]]) s t ∧
      (∀ f ∈ d.flds, t.fld a f = if f.acc = .rc then f.rst else s.fld a f) ∧
      ∃ v, t.emitted = .regRead 256 a v :: s.emitted ∧ ∀ f ∈ d.flds, f.acc ≠ .ro → f.get v = s.fld a f := by
  obtain ⟨v, hv, hshow⟩ := s.peek_listed hd
  refine gives_same w (a := .all [.emit (.regRead 256 a v), .rcClear a 0]) ?_ ?_ ⟨fun f hf => ?_, v, ?_, hshow⟩
  · rw [exec_rcRead_taken h1 h2 h8 (s.peek_isSome hd)]
    refine out_congr ?_
    rw [Act.regRead_unpaired hpmc, hv]
    rfl
  · exact Act.cons_in (Act.emit_in (by simp)) (Act.cons_in (Act.rcClear_in (by simp)) Act.nil_in)
  · rw [Act.cons_run, Act.cons_run, Act.nil_run, fld_rcClear (Act.wf w _) h8 hd hf, fld_emit]
  · exact Act.rcClear_in (F := .reg a) ⟨rfl, rfl⟩ _ (Act.wf w _) .emitted 0 (by simp)

end Sys2Proof.Machine

namespace Sys2Proof.Proofs

open Sys2Proof.Machine

/-- Settles O12: a write is the fold of one update per field, of which only the field's own counts; a read shows the fields as they are held,
and no register holds a bit of a write-only field. -/
theorem accessCodes : Obligations.AccessCodes := by
  unfold Obligations.AccessCodes
  refine ⟨?_, ?_⟩
  · intro s a v tied d f w hp hd hf hr
    obtain ⟨-, -, h8⟩ := plainReg_place hp
    refine gives_registerWrite_plain w hp hd ?_
    have hval := get_untied hd hf v tied
    have hfld := fun hw => fld_genWrite w hd hf hw (untied a v tied) fun _ => false
    unfold State.writtenField at hfld
    cases hacc : f.acc
    case wo => exact State.fld_wo (Act.wf w _) h8 hd hf hacc
    case rwl => cases hl : s.locked d <;> simpa [hacc, hr, hval, hl] using hfld
    all_goals simpa [hacc, hr, hval] using hfld
  · intro s a d f w h1 h2 h8 _ hpmc hd hf
    refine (gives_rcRead_listed w h1 h2 h8 hpmc hd).imp fun t ⟨hsame, hfld, v, hem, hshow⟩ => ⟨hsame, hfld f hf, v, hem, ?_⟩
    cases hacc : f.acc
    case ro => trivial
    case wo => exact (hshow f hf (by simp [hacc])).trans (State.fld_wo w h8 hd hf hacc)
    all_goals exact hshow f hf (by simp [hacc])

/-- Settles O13: the manager's write ors into GW.LOCK; others are refused; a reset restores the reset value and nothing after it touches the
register; a write of a locked register is none, or a write by the access codes, which leave a locked field. -/
theorem lockBits : Obligations.LockBits := by
  unfold Obligations.LockBits
  refine ⟨?_, ?_, ?_, ?_, ?_⟩
  · intro s v tied f w hf
    refine ⟨gives_same w (a := .lockWrite v) rfl (lockWrite_in v) (fld_lockWrite w hf v), ?_⟩
    have hd : regDesc R.gwLock = some B.gwLock := by decide +kernel
    have hval : f.get (untied R.gwLock v tied) = f.get v :=
      (get_untied hd hf v tied).trans (if_neg (by revert f; decide))
    have he := exec_registerWrite_taken (v := v) (tied := tied) (by decide) (by decide) (by decide) (s.peek_isSome hd)
    rw [Act.devWrite_gwLock] at he
    exact gives_same w he (lockWrite_in _) (hval ▸ fld_lockWrite w hf (untied R.gwLock v tied))
  · intro s who v tied tie w hlt hne
    have hlock : exec (.lockWrite who v) s = Act.out s (.violation who violRegister) := by
      change execLockWrite who v s = _
      simp [execLockWrite, hne, hlt]
    refine ⟨gives_of hlock (Act.violation_foot.same w),
      (gives_registerWrite_refused w hlt (by decide) (by decide) (.inl hne)).imp fun _ h => h.1,
      (gives_rcRead_refused w hlt (by decide) (by decide) (.inl hne)).imp fun _ h => ⟨h.1, h.2.1⟩⟩
  · intro s r w hin hlo hfault hstep hwarm
    exact gives_moduleReset_gwLock w r hin hlo hfault hstep hwarm
  · intro s cause r w hwarm hbring hfault
    exact gives_warmReset_gwLock w r hwarm hbring hfault
  · intro s a v tied d f w h1 h2 h8 hd hl hf hrwl _
    exact gives_of (exec_registerWrite_taken h1 h2 h8 (s.peek_isSome hd))
      ⟨fld_devWrite_locked w hd hl hf hrwl _, fun p hp => rd_sliceViol_devWrite_locked w hd hl _ hp⟩

/-- Settles O14: an access that is not one whole word is refused, whoever makes it. -/
theorem wholeWordAccess : Obligations.WholeWordAccess := by
  unfold Obligations.WholeWordAccess
  intro s who a size v tied tie w hlt h1 h2 hpart
  exact ⟨gives_registerWrite_refused w hlt h1 h2 (.inr hpart), gives_rcRead_refused w hlt h1 h2 (.inr hpart)⟩

end Sys2Proof.Proofs

/-! The log of uncorrectable errors (R138): where its registers stand, what a write of one field in each of several registers leaves, what
the clear does to the log; then the statement about it. -/

namespace Sys2Proof.Machine

/-! ### Where the log's registers stand -/

theorem regDesc_memUeCtl : ∀ die < 2, regDesc (R.memUeCtl die) = some B.memUeCtl := by decide +kernel

theorem regDesc_memUeLog0 : ∀ die < 2, ∀ e < 8, regDesc (R.memUeLog0 die e) = some B.memUeLog0 := by decide +kernel

theorem memUeLog0_ne_memUeCtl (die e : Nat) : R.memUeLog0 die e ≠ R.memUeCtl die := by
  unfold R.memUeLog0 R.memUeCtl
  omega

/-! ### One field set in each of several registers -/

/-- A register among those written, or one that held the value before, holds it after: a later write of the same register keeps it. -/
theorem fld_each_setF {α : Type} {addr : α → Nat} {f : Field} {v k : Nat} {l : List α} (hin : ∀ x ∈ l, f.within (addr x) = true)
    {s : State} (w : s.Wf) (h : k ∈ l.map addr ∨ s.fld k f = v % 2 ^ (f.hi + 1 - f.lo)) :
    ((Act.each l fun x => .setF (addr x) f v).run s).fld k f = v % 2 ^ (f.hi + 1 - f.lo) := by
  induction l generalizing s with
  | nil => exact h.resolve_left List.not_mem_nil
  | cons x l ih =>
    rw [Act.each_cons_run]
    refine ih (fun y hy => hin y (.tail _ hy)) (Act.wf w _) ?_
    by_cases hk : k = addr x
    · exact .inr (hk ▸ State.fld_setF w (hin x (.head _)) v)
    · rw [fld_setF_ne w hk]
      exact h.imp_left fun hm => (List.mem_cons.mp hm).resolve_left hk

/-! ### The clear (R138) -/

/-- The first half of the clear writes registers of the entries only. -/
theorem ueEntries_in (die : Nat) :
    (Act.each (List.range 8) fun e => .setF (R.memUeLog0 die e) F.memUeLog0_V 0).In (.regFam 8 (R.memUeLog0 die)) :=
  Act.each_in fun e he => Act.setF_in ⟨rfl, e, List.mem_range.mp he, rfl⟩

theorem memUeCtl_notin_entries (die : Nat) : ¬ Foot.regFam 8 (R.memUeLog0 die) .regs (R.memUeCtl die) :=
  fun ⟨_, e, _, h⟩ => memUeLog0_ne_memUeCtl die e h.symm

theorem ueClear_in (die : Nat) : (Act.ueClear die).In (.any [.reg (R.memUeCtl die), .regFam 8 (R.memUeLog0 die)]) :=
  Act.cons_in ((ueEntries_in die).le (Foot.le_any (by simp))) (Act.cons_in (Act.setF_in (by simp)) Act.nil_in)

theorem ueClear_run (die : Nat) (s : State) :
    (Act.ueClear die).run s = (Act.setF (R.memUeCtl die) F.memUeCtl_COUNT 0).run
      ((Act.each (List.range 8) fun e => .setF (R.memUeLog0 die e) F.memUeLog0_V 0).run s) := rfl

theorem fld_ueClear_COUNT {s : State} (w : s.Wf) {die : Nat} (hd : die < 2) :
    ((Act.ueClear die).run s).fld (R.memUeCtl die) F.memUeCtl_COUNT = 0 := by
  rw [ueClear_run]
  exact State.fld_setF (Act.wf w _) (Field.within_of_regDesc (regDesc_memUeCtl die hd) (by decide) (by decide)) 0

/-- LOST shares the register of COUNT and no bit of it. -/
theorem fld_ueClear_LOST {s : State} (w : s.Wf) {die : Nat} (hd : die < 2) :
    ((Act.ueClear die).run s).fld (R.memUeCtl die) F.memUeCtl_LOST = s.fld (R.memUeCtl die) F.memUeCtl_LOST := by
  have hin : F.memUeCtl_LOST.within (R.memUeCtl die) = true :=
    Field.within_of_regDesc (regDesc_memUeCtl die hd) (by decide) (by decide)
  rw [ueClear_run, State.fld_setF_apart (Act.wf w _) hin (by decide)]
  exact (ueEntries_in die).fld w (memUeCtl_notin_entries die) _

theorem fld_ueClear_V {s : State} (w : s.Wf) {die e : Nat} (hd : die < 2) (he : e < 8) :
    ((Act.ueClear die).run s).fld (R.memUeLog0 die e) F.memUeLog0_V = 0 := by
  rw [ueClear_run, fld_setF_ne (Act.wf w _) (memUeLog0_ne_memUeCtl die e)]
  refine fld_each_setF (fun i hi => ?_) w (.inl (List.mem_map_of_mem (List.mem_range.mpr he)))
  exact Field.within_of_regDesc (regDesc_memUeLog0 die hd i (List.mem_range.mp hi)) (by decide) (by decide)

/-! ### The command -/

theorem exec_ueLogClear_set {s : State} {die : Nat} {val : Word} (hd : die < 2) (hc : F.memUeCtl_CLEAR.get val = 1) :
    exec (.ueLogClear die val) s = Act.out s (.ueClear die) := by
  change execUeLogClear die val s = _
  simp [execUeLogClear, hd, hc]

theorem exec_ueLogClear_clear {s : State} {die : Nat} {val : Word} (hc : F.memUeCtl_CLEAR.get val = 0) :
    exec (.ueLogClear die val) s = Act.out s .skip := by
  change execUeLogClear die val s = _
  simp [execUeLogClear, hc]

end Sys2Proof.Machine

namespace Sys2Proof.Proofs

open Sys2Proof.Machine

/-- Settles O17: with CLEAR set the command is the clear, whose writes are the valid bits of the entries and then COUNT; with CLEAR clear
it is no action at all. -/
theorem ueLogClear : Obligations.UeLogClear := by
  unfold Obligations.UeLogClear
  refine ⟨?_, ?_⟩
  · intro s die val w hd hc
    exact gives_same w (exec_ueLogClear_set hd hc) (ueClear_in die)
      ⟨fld_ueClear_COUNT w hd, fld_ueClear_LOST w hd, fun _ he => fld_ueClear_V w hd he⟩
  · intro s die val w hc
    exact gives_of (exec_ueLogClear_clear hc) (Act.skip_in.same w)

end Sys2Proof.Proofs

/-! Violations and their kinds (R315): set bits of a mask, a register none of whose fields holds a value, the kinds after a violation, the
read that clears SLICE.VIOL; then the statement about them. -/

namespace Sys2Proof.Machine

/-! ### Set bits of a mask -/

theorem bit_eq_testBit (m i : Nat) : bit m i = m.testBit i := by
  rw [Nat.testBit_eq_decide_div_mod_eq]
  rfl

theorem bit_setBit (m i k : Nat) : bit (setBit m i) k = (bit m k || k == i) := by
  unfold setBit
  rw [bit_eq_testBit, bit_eq_testBit, Nat.testBit_or, Nat.testBit_two_pow, Bool.beq_eq_decide_eq, decide_eq_decide.mpr eq_comm]

/-- A bit that is set already: the mask is the same. -/
theorem setBit_of_bit {m i : Nat} (h : bit m i = true) : setBit m i = m := by
  apply Nat.eq_of_testBit_eq
  intro k
  rw [← bit_eq_testBit, ← bit_eq_testBit, bit_setBit]
  by_cases hk : k = i
  · simp [hk, h]
  · simp [hk]

/-! ### A register without a value (R4, R8) -/

theorem testBit_foldl_mask {i : Nat} (l : List Field) (m : Nat)
    (h : (l.foldl (fun m f => if f.acc = .wo then m else m ||| f.mask) m).testBit i = true) :
    m.testBit i = true ∨ ∃ f ∈ l, f.mask.testBit i = true := by
  induction l generalizing m with
  | nil => exact .inl h
  | cons x l ih =>
    rcases ih _ h with hm | ⟨f, hf, hb⟩
    · by_cases hx : x.acc = .wo
      · exact .inl (by simpa [hx] using hm)
      · simp only [if_neg hx, Nat.testBit_or, Bool.or_eq_true] at hm
        exact hm.imp_right fun hb => ⟨x, .head _, hb⟩
    · exact .inr ⟨f, .tail _ hf, hb⟩

/-- Each bit of a register's mask is a bit of one of its fields. -/
theorem RegBlock.testBit_mask {d : RegBlock} {i : Nat} (h : d.mask.testBit i = true) : ∃ f ∈ d.flds, f.mask.testBit i = true :=
  (testBit_foldl_mask d.flds 0 h).resolve_left (by simp)

/-- A listed register all of whose fields read as zero is zero. -/
theorem State.rd_eq_zero {s : State} (w : s.Wf) {a : Nat} {d : RegBlock} (h8 : a % 8 = 0) (hd : regDesc a = some d)
    (h : ∀ f ∈ d.flds, s.fld a f = 0) : s.rd a = 0 := by
  refine BitVec.eq_of_getLsbD_eq fun i hi => ?_
  refine (Bool.eq_false_iff.mpr fun hb => ?_).trans BitVec.getLsbD_zero.symm
  have hres := congrArg (fun x => BitVec.getLsbD x i) (State.rd_mask w h8)
  simp only [regMask_of_regDesc hd, BitVec.getLsbD_and, BitVec.getLsbD_not, BitVec.getLsbD_ofNat, hb, hi, decide_true,
    Bool.true_and] at hres
  obtain ⟨f, hf, hm⟩ := RegBlock.testBit_mask (d := d) (i := i) (by simpa using hres)
  rw [Field.mask_bit, decide_eq_true_eq] at hm
  have hget := Field.get_bit f (s.rd a) (i - f.lo)
  rw [show f.get (s.rd a) = 0 from h f hf, Nat.zero_testBit, decide_eq_true (by omega), Nat.add_sub_cancel' hm.1, hb] at hget
  cases hget

/-- A register of RC fields alone that reset to zero is zero after its read. -/
theorem rd_rcClear {s : State} (w : s.Wf) {a : Nat} {d : RegBlock} (h8 : a % 8 = 0) (hd : regDesc a = some d)
    (hrc : ∀ f ∈ d.flds, f.acc = .rc ∧ f.rst = 0) : ((Act.rcClear a 0).run s).rd a = 0 := by
  refine State.rd_eq_zero (Act.wf w _) h8 hd fun f hf => ?_
  obtain ⟨hacc, hrst⟩ := hrc f hf
  rw [fld_rcClear w h8 hd hf, if_pos hacc, hrst]

/-! ### SLICE.VIOL (R315) -/

/-- A violation sets its kind; of a kind that is set already the bit stays. -/
theorem fld_violation_kinds {s : State} (w : s.Wf) {part kind : Nat} (hp : part < 258) (hk : kind < 4) :
    ((Act.violation part kind).run s).fld (R.sliceViol part) F.sliceViol_KINDS =
      setBit (s.fld (R.sliceViol part) F.sliceViol_KINDS) kind := by
  have hin : F.sliceViol_KINDS.within (R.sliceViol part) = true :=
    Field.within_of_regDesc (regDesc_sliceViol part hp) (by decide) (by decide)
  have hinc := State.fld_incF_apart (f := F.sliceViol_COUNT) w hin (by decide) 1
  have hlt : setBit (s.fld (R.sliceViol part) F.sliceViol_KINDS) kind < 2 ^ 4 := setBit_lt (Field.get_lt _ _) hk
  unfold Act.violation
  simp only [Act.get_run, Act.cons_run, Act.nil_run, fld_when]
  split
  · rw [fld_record (Act.wf (Act.wf w _) _) (sliceViol_notin_recFoot part hp), State.fld_modF (Act.wf w _) hin, hinc]
    exact Nat.mod_eq_of_lt hlt
  · next hset =>
    rw [hinc, setBit_of_bit (by simpa using hset)]

theorem sliceViol_place {p : Nat} (hp : p < 258) :
    0x300000000 ≤ R.sliceViol p ∧ R.sliceViol p < 0x400000000 ∧ R.sliceViol p % 8 = 0 := by
  unfold R.sliceViol
  omega

theorem pmcPlace_sliceViol {p : Nat} (hp : p < 258) : pmcPlace (R.sliceViol p) = none := by
  have hglobal : ¬ (R.gpmcCtl 0 0 ≤ R.sliceViol p ∧ R.sliceViol p < R.gpmcCtl 0 0 + 0x800) := by
    unfold R.gpmcCtl R.sliceViol
    omega
  have hcore : ¬ (R.corePmcCtl 0 0 ≤ R.sliceViol p ∧ R.sliceViol p < R.corePmcCtl 0 0 + 0x400000) := by
    unfold R.corePmcCtl R.sliceViol
    omega
  unfold pmcPlace
  rw [if_neg (by simpa using hglobal), if_neg (by simpa using hcore)]

/-- The manager's read of SLICE.VIOL clears it. -/
theorem gives_rcRead_sliceViol {s : State} (w : s.Wf) {p : Nat} (hp : p < 258) :
    Gives (.rcRead 256 (R.sliceViol p) 8 none) s fun t => t.rd (R.sliceViol p) = 0 := by
  obtain ⟨h1, h2, h8⟩ := sliceViol_place hp
  have hd := regDesc_sliceViol p hp
  refine gives_of (exec_rcRead_taken h1 h2 h8 (s.peek_isSome hd)) ?_
  rw [Act.regRead_unpaired (pmcPlace_sliceViol hp)]
  exact rd_rcClear (Act.wf w _) h8 hd (by decide)

end Sys2Proof.Machine

namespace Sys2Proof.Proofs

open Sys2Proof.Machine

/-- Settles O15: a violation increments COUNT and sets its kind's bit of KINDS, two fields apart; both are RC fields that reset to zero and
the register holds no bit beside them, so that the read leaves it zero. -/
theorem violationCounted : Obligations.ViolationCounted := by
  unfold Obligations.ViolationCounted
  refine ⟨?_, ?_⟩
  · intro s part kind w hp hk
    refine ⟨Act.violation_foot.same w, fld_violation_count w hp kind, fun k => ?_⟩
    rw [fld_violation_kinds w hp hk, bit_setBit]
  · intro s part w hp
    exact gives_rcRead_sliceViol w hp

end Sys2Proof.Proofs

/-! Counters (R401): where the registers of a set of counters stand, what a counter's new value leaves, what a count does to a counter alone
and to the even counter of a chained pair; then the statement about it. -/

namespace Sys2Proof.Machine

/-! ### The registers of a set (R409) -/

theorem regDesc_corePmcCtl : ∀ c < 64, ∀ i < 8, regDesc (R.corePmcCtl c i) = some B.corePmcCtl := by decide +kernel

theorem regDesc_corePmcVal : ∀ c < 64, ∀ i < 8, regDesc (R.corePmcVal c i) = some B.corePmcVal := by decide +kernel

theorem regDesc_gpmcCtl : ∀ g < 8, ∀ i < 8, regDesc (R.gpmcCtl g i) = some B.gpmcCtl := by decide +kernel

theorem regDesc_gpmcVal : ∀ g < 8, ∀ i < 8, regDesc (R.gpmcVal g i) = some B.gpmcVal := by decide +kernel

/-- The base of a set of counters: of a core's, or of a global one. -/
def PmcBase (b : Nat) : Prop := (∃ c, c < 64 ∧ b = R.corePmcCtl c 0) ∨ (∃ g, g < 8 ∧ b = R.gpmcCtl g 0)

/-- The control registers of both kinds of set hold the same fields. -/
theorem PmcBase.ctl_within {b i : Nat} (hb : PmcBase b) (hi : i < 8) {f : Field} (hf : f ∈ B.gpmcCtl.flds) (hw : f.acc ≠ .wo) :
    f.within (b + 16 * i) = true := by
  rcases hb with ⟨c, hc, rfl⟩ | ⟨g, hg, rfl⟩
  · rw [show R.corePmcCtl c 0 + 16 * i = R.corePmcCtl c i by unfold R.corePmcCtl; omega]
    exact Field.within_of_regDesc (regDesc_corePmcCtl c hc i hi) hf hw
  · rw [show R.gpmcCtl g 0 + 16 * i = R.gpmcCtl g i by unfold R.gpmcCtl; omega]
    exact Field.within_of_regDesc (regDesc_gpmcCtl g hg i hi) hf hw

theorem PmcBase.val_within {b i : Nat} (hb : PmcBase b) (hi : i < 8) : F.gpmcVal_VALUE.within (b + 16 * i + 8) = true := by
  rcases hb with ⟨c, hc, rfl⟩ | ⟨g, hg, rfl⟩
  · rw [show R.corePmcCtl c 0 + 16 * i + 8 = R.corePmcVal c i by unfold R.corePmcCtl R.corePmcVal; omega]
    exact Field.within_of_regDesc (regDesc_corePmcVal c hc i hi) (.head _) (by decide)
  · rw [show R.gpmcCtl g 0 + 16 * i + 8 = R.gpmcVal g i by unfold R.gpmcCtl R.gpmcVal; omega]
    exact Field.within_of_regDesc (regDesc_gpmcVal g hg i hi) (.head _) (by decide)

/-! ### A counter's new value and what its wrap does -/

/-- The counter whose value register is `a` takes the value v; `x` is done if that is a wrap. -/
def Act.pmcPut (a v : Nat) (x : Act) : Act := .all [.setF a F.gpmcVal_VALUE v, .when (v ≥ 2 ^ 48) x]

theorem Act.pmcPut_run (a v : Nat) (x : Act) (s : State) :
    (Act.pmcPut a v x).run s = (Act.when (v ≥ 2 ^ 48) x).run ((Act.setF a F.gpmcVal_VALUE v).run s) := rfl

/-- What a wrap does leaves the counter itself alone. -/
theorem fld_pmcPut_VALUE {s : State} (w : s.Wf) {a : Nat} (hin : F.gpmcVal_VALUE.within a = true) {x : Act} (hx : x.In (.offReg a))
    (v : Nat) : ((Act.pmcPut a v x).run s).fld a F.gpmcVal_VALUE = v % 2 ^ 48 := by
  have hoff : ¬ Foot.offReg a .regs a := fun h => h rfl rfl
  rw [Act.pmcPut_run, (Act.when_in fun _ => hx).fld (Act.wf w _) hoff]
  exact State.fld_setF w hin v

/-- A field of another register is what the wrap makes of it. -/
theorem fld_pmcPut_ne {s : State} (w : s.Wf) {a k : Nat} (hk : k ≠ a) {f : Field} {x : Act} {v r : Nat}
    (hx : ∀ t : State, t.Wf → t.fld k f = s.fld k f → (x.run t).fld k f = r) :
    ((Act.pmcPut a v x).run s).fld k f = if 2 ^ 48 ≤ v then r else s.fld k f := by
  have hset := fld_setF_ne w hk F.gpmcVal_VALUE f v
  rw [Act.pmcPut_run, fld_when]
  simp only [ge_iff_le, decide_eq_true_eq]
  rw [hx _ (Act.wf w _) hset, hset]

/-! ### A count (R401) -/

/-- The counter is the even one of a chained pair. -/
def State.pmcEvenChained (s : State) (b i : Nat) : Prop := i % 2 = 0 ∧ s.fld (b + 16 * i) F.gpmcCtl_CHAIN = 1

section
variable {s : State} {b i n : Nat}

theorem Act.pmcAdd_run_single (h : ¬ s.pmcEvenChained b i) :
    (Act.pmcAdd b i n).run s =
      (Act.pmcPut (b + 16 * i + 8) (s.fld (b + 16 * i + 8) F.gpmcVal_VALUE + n) (.setF (b + 16 * i) F.gpmcCtl_OVF 1)).run s := by
  have hc : ¬ (s.fld (b + 16 * i) F.gpmcCtl_CHAIN == 1 && i % 2 == 0) = true := by
    simpa [State.pmcEvenChained, and_comm] using h
  simp only [Act.pmcAdd, Act.get_run, if_neg hc]
  rfl

theorem Act.pmcAdd_run_pair (h : s.pmcEvenChained b i) :
    (Act.pmcAdd b i n).run s =
      (Act.pmcPut (b + 16 * i + 8) (s.fld (b + 16 * i + 8) F.gpmcVal_VALUE + n)
        (.pmcPut (b + 16 * i + 24) (s.fld (b + 16 * i + 24) F.gpmcVal_VALUE + 1) (.setF (b + 16 * i) F.gpmcCtl_OVF 1))).run s := by
  have hc : (s.fld (b + 16 * i) F.gpmcCtl_CHAIN == 1 && i % 2 == 0) = true := by
    simpa [State.pmcEvenChained, and_comm] using h
  simp only [Act.pmcAdd, Act.get_run, if_pos hc]
  rfl

theorem pmcAdd_foot : (Act.pmcAdd b i n).In (.any [.reg (b + 16 * i), .reg (b + 16 * i + 8), .reg (b + 16 * i + 24)]) :=
  Act.pmcAdd_in (by simp) (by simp) (by simp)

theorem fld_setF_OVF (hb : PmcBase b) (hi : i < 8) (w : s.Wf) :
    ((Act.setF (b + 16 * i) F.gpmcCtl_OVF 1).run s).fld (b + 16 * i) F.gpmcCtl_OVF = 1 :=
  State.fld_setF w (hb.ctl_within hi (by decide) (by decide)) 1

/-- A counter that is not chained leaves the next one alone. -/
theorem rd_pmcAdd_single (w : s.Wf) (h : ¬ s.pmcEvenChained b i) :
    ((Act.pmcAdd b i n).run s).rd (b + 16 * i + 24) = s.rd (b + 16 * i + 24) := by
  rw [Act.pmcAdd_run_single h]
  exact Act.In.rd_off (Act.cons_in (Act.setF_in (by simp)) (Act.cons_in (Act.when_in fun _ => Act.setF_in (by simp)) Act.nil_in)) w

variable (w : s.Wf) (hb : PmcBase b) (hi : i < 8)
include w hb hi

theorem fld_pmcAdd_VALUE :
    ((Act.pmcAdd b i n).run s).fld (b + 16 * i + 8) F.gpmcVal_VALUE = (s.fld (b + 16 * i + 8) F.gpmcVal_VALUE + n) % 2 ^ 48 := by
  have hovf : (Act.setF (b + 16 * i) F.gpmcCtl_OVF 1).In (.offReg (b + 16 * i + 8)) := Act.setF_in (by simp)
  by_cases h : s.pmcEvenChained b i
  · rw [Act.pmcAdd_run_pair h]
    exact fld_pmcPut_VALUE w (hb.val_within hi)
      (Act.cons_in (Act.setF_in (by simp)) (Act.cons_in (Act.when_in fun _ => hovf) Act.nil_in)) _
  · rw [Act.pmcAdd_run_single h]
    exact fld_pmcPut_VALUE w (hb.val_within hi) hovf _

/-- The odd counter of a chained pair counts the wraps of the even one. -/
theorem fld_pmcAdd_odd_VALUE (h : s.pmcEvenChained b i) :
    ((Act.pmcAdd b i n).run s).fld (b + 16 * i + 24) F.gpmcVal_VALUE =
      if 2 ^ 48 ≤ s.fld (b + 16 * i + 8) F.gpmcVal_VALUE + n then (s.fld (b + 16 * i + 24) F.gpmcVal_VALUE + 1) % 2 ^ 48
      else s.fld (b + 16 * i + 24) F.gpmcVal_VALUE := by
  have ⟨heven, _⟩ := h
  have hin : F.gpmcVal_VALUE.within (b + 16 * i + 24) = true := hb.val_within (i := i + 1) (by omega)
  rw [Act.pmcAdd_run_pair h]
  exact fld_pmcPut_ne w (by omega) fun t wt _ => fld_pmcPut_VALUE wt hin (Act.setF_in (by simp)) _

/-- The even counter's OVF tells that both counters of the pair have wrapped. -/
theorem fld_pmcAdd_pair_OVF (h : s.pmcEvenChained b i) :
    ((Act.pmcAdd b i n).run s).fld (b + 16 * i) F.gpmcCtl_OVF =
      if 2 ^ 48 ≤ s.fld (b + 16 * i + 8) F.gpmcVal_VALUE + n ∧ s.fld (b + 16 * i + 24) F.gpmcVal_VALUE = 2 ^ 48 - 1 then 1
      else s.fld (b + 16 * i) F.gpmcCtl_OVF := by
  have hlt : s.fld (b + 16 * i + 24) F.gpmcVal_VALUE < 2 ^ 48 := Field.get_lt _ _
  have hwrap : 2 ^ 48 ≤ s.fld (b + 16 * i + 24) F.gpmcVal_VALUE + 1 ↔ s.fld (b + 16 * i + 24) F.gpmcVal_VALUE = 2 ^ 48 - 1 := by omega
  rw [Act.pmcAdd_run_pair h, fld_pmcPut_ne w (by omega) fun t wt ht =>
    (fld_pmcPut_ne wt (by omega) fun u wu _ => fld_setF_OVF hb hi wu).trans (congrArg (ite _ 1) ht)]
  by_cases hv : 2 ^ 48 ≤ s.fld (b + 16 * i + 8) F.gpmcVal_VALUE + n
  · by_cases hodd : s.fld (b + 16 * i + 24) F.gpmcVal_VALUE = 2 ^ 48 - 1
    · rw [if_pos hv, if_pos (hwrap.mpr hodd), if_pos ⟨hv, hodd⟩]
    · rw [if_pos hv, if_neg (mt hwrap.mp hodd), if_neg fun hboth => hodd hboth.2]
  · rw [if_neg hv, if_neg fun hboth => hv hboth.1]

theorem fld_pmcAdd_single_OVF (h : ¬ s.pmcEvenChained b i) :
    ((Act.pmcAdd b i n).run s).fld (b + 16 * i) F.gpmcCtl_OVF =
      if 2 ^ 48 ≤ s.fld (b + 16 * i + 8) F.gpmcVal_VALUE + n then 1 else s.fld (b + 16 * i) F.gpmcCtl_OVF := by
  rw [Act.pmcAdd_run_single h]
  exact fld_pmcPut_ne w (by omega) fun t wt _ => fld_setF_OVF hb hi wt

end

/-- The odd counter of a chained pair ignores its own selection. -/
theorem pmcOne_run_chained {s : State} {b i : Nat} (h : s.pmcChained b i = true) (ctl : Word) (cls ev m part master : Nat)
    (addr : Option Nat) : (Act.pmcOne b i ctl cls ev m part master addr).run s = s := by
  unfold Act.pmcOne
  rw [Act.get_run, h, Bool.not_true, Bool.and_false, Act.when_false, Act.skip_run]

end Sys2Proof.Machine

namespace Sys2Proof.Proofs

open Sys2Proof.Machine

/-- Settles O16: a count is one new value, whose wrap sets OVF, or, at the even counter of a chained pair, gives the odd counter a new value
whose own wrap sets OVF. -/
theorem counterWraps : Obligations.CounterWraps := by
  unfold Obligations.CounterWraps
  intro s b i n w hb hi _
  refine ⟨pmcAdd_foot.same w, fld_pmcAdd_VALUE w hb hi, ?_, fun ctl cls ev m part master addr hodd hchain => ?_⟩
  · split
    · next h => exact ⟨fld_pmcAdd_odd_VALUE w hb hi h, fld_pmcAdd_pair_OVF w hb hi h⟩
    · next h => exact ⟨rd_pmcAdd_single w h, fld_pmcAdd_single_OVF w hb hi h⟩
  · exact pmcOne_run_chained (by simp [State.pmcChained, hodd, hchain]) ctl cls ev m part master addr

end Sys2Proof.Proofs
